-- ==== Sys2Proof/Word.lean ====
section
/-! DEFINITION. The words of the device and their plainest arithmetic (spec/00, R7: little-endian, bit 0 least
significant, registers of 32 bits). -/

namespace Sys2Proof

abbrev Byte := BitVec 8
abbrev Half := BitVec 16
abbrev Word := BitVec 32
abbrev DWord := BitVec 64
/-- A 40-bit physical or virtual address. -/
abbrev Addr := BitVec 40
/-- A context number, 0 to 7 (R126). -/
abbrev Ctx := BitVec 3

end Sys2Proof
end

