-- ==== Sys2Proof/Args.lean ====
section
/-! DEFINITION. The operands of the commands that are more than a number: who sends an access, how an access met the
memory's check bits, and the facts of the world outside the block that an event brings with it. -/

namespace Sys2Proof

/-- A requester (R126, Table 04-6). Acquisition and the Shunto ports carry the context their own chapters give them. -/
inductive Req where
  | core (p : Fin 2)              -- application core pair p: context and class from its lyctx CSR
  | proctor                       -- context 7, class safety
  | stream (n : Fin 22)           -- an engine stream: context and class of its program
  | storage                       -- the storage queue
  | tileProg (d : Fin 4)          -- the tile programming unit of WDd
  | agent (h : Fin 4)             -- the ring agent for host A to D
  | hostPort (p : Fin 4)          -- a host port (0, 1 the MACs, 2 10BASE-T1L, 3 the SPI target)
  | shunto (p : Fin 3) (c : Ctx)  -- a Shunto port
  | acq (c : Ctx)                 -- acquisition
deriving DecidableEq, Repr

/-- How a read met the check bits of the SRAM words it touched, and the check tag of a block (R83, R113). -/
inductive Ecc where
  | clean          -- no error
  | corrected      -- one bit, corrected and written back
  | once           -- uncorrectable on the first read, good on the repeat
  | uncorrectable  -- uncorrectable on both reads
  | tagOnce        -- check tag mismatch on the first read only (R113)
deriving DecidableEq, Repr

/-- What a link-control flit says that this model tells apart (R499, R524, R525). -/
inductive LinkCtl where
  | nak (n : Half)         -- resend from flit number n
  | recess                 -- the partner enters Recess
  | wake (a : Fin 4095)    -- WAKE toward address a
deriving DecidableEq, Repr

/-- A device as the depth-first walk of roll call finds it (R506 to R508): its identity, the address it claims, its FIXADDR (0 for none),
PART, GROUP byte, ports that are UP, whether it lies on the ring, and, seen from this device, its hop count and the ports toward it. -/
structure ChainDev where
  unit : DWord
  cur : Option (Fin 4095)
  fix : Fin 4095
  part : Half
  group : Byte
  ups : Fin 4
  onRing : Bool
  hops : Half
  primary : Option (Fin 3)
  alt : Option (Fin 3)
deriving DecidableEq, Repr

/-- What the tile health check of start-up meets (R62): the rows that its test pattern drives, and by die, tile and attempt the
deviations of the converters (column, codes). -/
structure Health where
  rows : List (Fin 512)
  devs : List (Fin 4 × Fin 1152 × List (List (Fin 544 × Int)))
deriving DecidableEq, Repr

/-- The width of a narrow access (R87). -/
inductive NSize where
  | b1 | b2 | b4 | b8
deriving DecidableEq, Repr

/-- The number of bytes of a narrow access. -/
def NSize.bytes : NSize → Nat
  | .b1 => 1 | .b2 => 2 | .b4 => 4 | .b8 => 8

end Sys2Proof
end

