-- ==== Sys2Proof/Syntax.lean ====
section
/-! DEFINITION. The commands of the device: one constructor per row of spec/opcode_table.json, with what the row's command
or event brings with it. `r` is the requester of a register write and `v` the word written; `n` names an instance; `ctx`
and the other operands are said in spec/95 and in the row's rule. -/

namespace Sys2Proof

/-- A command: a write or read of the device's registers or memory, a step of one of its engines, or an event at its
ports, clocks and supplies. -/
inductive Instr where
  /-- POWER_ON_RESET (R534). -/
  | powerOnReset (ref supply : Bool)
  /-- EXTERNAL_RESET (R537). -/
  | externalReset
  /-- RESTART (R538). -/
  | restart (slotErr secErr : Fin 4) (installOk : Bool) (us : Word) (h : Health)
  /-- PENDING_ERASE_REDO (R395). -/
  | pendingEraseRedo (k : Fin 32) (ok : Bool)
  /-- CONFIRM_WINDOW_EXPIRE (R60). -/
  | confirmWindowExpire
  /-- BOOT_CONFIRM (R61). -/
  | bootConfirm (r : Req) (v : Word)
  /-- BOOT_LOCK (R71). -/
  | bootLock (r : Req) (v : Word)
  /-- BOOT_RESTART_REQUEST (R537). -/
  | bootRestartRequest (r : Req) (v : Word)
  /-- BOOT_UPDATE_REQUEST (R73). -/
  | bootUpdateRequest (r : Req) (v : Word)
  /-- BOOT_REVOKE_WRITE (R71). -/
  | bootRevokeWrite (r : Req) (v : Word)
  /-- REGISTER_WRITE (R53). -/
  | registerWrite (r : Req) (a : Addr) (v : Word)
  /-- STAGED_FIELD_WRITE (R66). -/
  | stagedFieldWrite (r : Req) (a : Addr) (v : Word)
  /-- STAGED_COMMIT_WRITE (R67). -/
  | stagedCommitWrite (r : Req) (a : Addr) (v : Word)
  /-- WALLOFS_HI_WRITE (R22). -/
  | wallofsHiWrite (r : Req) (v : Word)
  /-- LATCHING_LO_READ (R20). -/
  | latchingLoRead (r : Req) (a : Addr)
  /-- D2D_TRANSFER_UNIT (R12). -/
  | d2dTransferUnit (link : Fin 6) (crcOk : Bool)
  /-- NARROW_ACCESS (R87). -/
  | narrowAccess (r : Req) (write : Bool) (a : Addr) (sz : NSize) (v : DWord) (ecc : Ecc) (rivals : List (Fin 8 × Fin 6))
  /-- WIDE_ACCESS (R86). -/
  | wideAccess (r : Req) (write : Bool) (a : Addr) (data : List Byte) (tag : Word) (check : Bool) (ecc : Ecc) (rivals : List (Fin 8 × Fin 6))
  /-- SPLIT_REQUEST (R91). -/
  | splitRequest (r : Req) (v : Word)
  /-- SPLIT_ENTER (R91). -/
  | splitEnter
  /-- SPLIT_LEAVE (R91). -/
  | splitLeave (r : Req) (v : Word)
  /-- CONFLICT_COUNTER_CLEAR (R106). -/
  | conflictCounterClear (r : Req) (v : Word)
  /-- L1_CACHE_RESIZE (R94). -/
  | l1CacheResize (r : Req) (n : Fin 8) (v : Word)
  /-- L1_CACHE_RESIZE_DONE (R94). -/
  | l1CacheResizeDone (n : Fin 8)
  /-- L1_FLUSH (R93). -/
  | l1Flush (r : Req) (n : Fin 8) (v : Word)
  /-- L1_INVALIDATE (R254). -/
  | l1Invalidate (r : Req) (n : Fin 8) (v : Word)
  /-- WBM_CACHE_RESIZE (R95). -/
  | wbmCacheResize (r : Req) (v : Word)
  /-- WBM_CACHE_INVALIDATE (R98). -/
  | wbmCacheInvalidate (r : Req) (v : Word)
  /-- WBM_CACHE_FILL (R96). -/
  | wbmCacheFill (r : Req) (a : Addr)
  /-- REGION_ENABLE (R99). -/
  | regionEnable (r : Req) (n : Fin 64) (v : Word)
  /-- REGION_CLEAR (R104). -/
  | regionClear (r : Req) (n : Fin 64) (v : Word)
  /-- REGION_RELEASE (R103). -/
  | regionRelease (r : Req) (n : Fin 64) (v : Word)
  /-- ARRIVAL_START (R594). -/
  | arrivalStart (n : Fin 64) (p : Req) (tag : Nat) (len : Word)
  /-- ARRIVAL_COMPLETE (R101). -/
  | arrivalComplete (n : Fin 64) (p : Req) (tag : Nat)
  /-- ROW_REPAIR (R107). -/
  | rowRepair (r : Req) (v : Word)
  /-- ROW_REPAIR_DONE (R108). -/
  | rowRepairDone
  /-- LYCTX_WRITE (R127). -/
  | lyctxWrite (p : Fin 2) (machine : Bool) (v : Word)
  /-- BELL_RANGE_WRITE (R130). -/
  | bellRangeWrite (r : Req) (n : Fin 8) (v : Word)
  /-- TLB_INVALIDATE (R136). -/
  | tlbInvalidate (r : Req) (v : Word)
  /-- TLB_INVALIDATE_DONE (R136). -/
  | tlbInvalidateDone
  /-- FAULT_RESUME (R141). -/
  | faultResume (r : Req) (v : Word)
  /-- FAULT_ABORT (R142). -/
  | faultAbort (r : Req) (v : Word)
  /-- FAULT_TIMEOUT (R142). -/
  | faultTimeout (c : Fin 8) (index : Fin 128)
  /-- CONTEXT_DISABLE (R142). -/
  | contextDisable (r : Req) (n : Fin 8) (v : Word)
  /-- VIOL_CAPTURE_ARM (R137). -/
  | violCaptureArm (r : Req) (n : Fin 8) (v : Word)
  /-- VIOL_COUNT_CLEAR (R137). -/
  | violCountClear (r : Req) (n : Fin 8) (v : Word)
  /-- PREEMPTION (R147). -/
  | preemption (n : Fin 22)
  /-- ENG_START_GO (R154). -/
  | engStartGo (r : Req) (n : Fin 8) (v : Word)
  /-- PROGRAM_BEGIN (R156). -/
  | programBegin (n : Fin 22)
  /-- BROADCAST_START (R179). -/
  | broadcastStart (n : Fin 22)
  /-- BUNDLE_FETCH (R158). -/
  | bundleFetch (n : Fin 22)
  /-- SYNC_WAIT_SATISFIED (R172). -/
  | syncWaitSatisfied (n : Fin 22) (w : Fin 2)
  /-- BUNDLE_ISSUE (R180). -/
  | bundleIssue (n : Fin 22)
  /-- TIMED_GROUP_RELEASE (R175). -/
  | timedGroupRelease (r : Req) (v : Word)
  /-- TIMED_BUNDLE_DUE (R175). -/
  | timedBundleDue (n : Fin 22)
  /-- BUNDLE_COMMIT (R160). -/
  | bundleCommit (n : Fin 22)
  /-- COMPLETION_RECORD_COMMIT (R155). -/
  | completionRecordCommit (n : Fin 22)
  /-- HALT_REQUEST (R183). -/
  | haltRequest (r : Req) (n : Fin 22) (v : Word)
  /-- HALT_CLEAR (R182). -/
  | haltClear (r : Req) (n : Fin 22) (v : Word)
  /-- BELL_INCREMENT_WRITE (R171). -/
  | bellIncrementWrite (r : Req) (b : Fin 512) (v : Word)
  /-- BELL_SET_WRITE (R171). -/
  | bellSetWrite (r : Req) (b : Fin 512) (v : Word) (incs : List Half)
  /-- END (R162). -/
  | ctrlEnd (n : Fin 22)
  /-- BR (R174). -/
  | ctrlBr (n : Fin 22)
  /-- EXPSET (R162). -/
  | ctrlExpset (n : Fin 22)
  /-- MARKSET (R162). -/
  | ctrlMarkset (n : Fin 22)
  /-- RELEASE (R162). -/
  | ctrlRelease (n : Fin 22)
  /-- L1 (R162). -/
  | ctrlL1 (n : Fin 22)
  /-- DELAY (R162). -/
  | ctrlDelay (n : Fin 22)
  /-- POST (R163). -/
  | ctrlPost (n : Fin 22)
  /-- RED (R166). -/
  | red (n : Fin 22)
  /-- MSTORE (R166). -/
  | mstore (n : Fin 22)
  /-- MLOAD (R166). -/
  | mload (n : Fin 22)
  /-- RPT (R168). -/
  | rpt (n : Fin 22)
  /-- COPY (R165). -/
  | copy (n : Fin 22)
  /-- FILL (R165). -/
  | fill (n : Fin 22)
  /-- DM_CHUNK (R143). -/
  | dmChunk (n : Fin 22)
  /-- MVM (R191). -/
  | mvm (n : Fin 22)
  /-- DECK (R206). -/
  | deck (n : Fin 22)
  /-- EXPOSURE_SLOT (R194). -/
  | exposureSlot (n : Fin 22) (second : Bool) (devs : List (List (Nat × Nat × Int)))
  /-- MVM_COMMIT (R212). -/
  | mvmCommit (n : Fin 22) (second : Bool)
  /-- SAT_COUNTER_CLEAR (R199). -/
  | satCounterClear (r : Req) (d : Fin 4) (v : Word)
  /-- TILE_ERASE (R221). -/
  | tileErase (d : Fin 4) (t : Half)
  /-- TILE_ERASE_DONE (R221). -/
  | tileEraseDone (d : Fin 4) (t : Half) (bad : List (Fin 528 × Fin 544 × Fin 4)) (pulse : Bool)
  /-- TILE_PROGRAM (R222). -/
  | tileProgram (d : Fin 4) (t : Half)
  /-- PROGRAM_ROW (R222). -/
  | programRow (d : Fin 4) (t : Half) (p1 : Fin 9) (p2 : Fin 5) (cells : List (Fin 544 × Fin 4))
  /-- TILE_TOPUP (R230). -/
  | tileTopup (d : Fin 4) (t : Half)
  /-- TILE_CALIBRATE (R232). -/
  | tileCalibrate (d : Fin 4) (t : Half)
  /-- DARKROOM_STEP (R231). -/
  | darkroomStep (d : Fin 4) (t : Half) (trim : Byte) (n : Fin 171) (lo hi : Half) (seg : Fin 4) (fails : Bool) (cells : List (Fin 544 × Fin 4)) (pulsed : Half)
  /-- DARKROOM_REENTER (R231). -/
  | darkroomReenter (d : Fin 4) (t : Half)
  /-- TILE_MAPSET (R226). -/
  | tileMapset (d : Fin 4) (t : Half)
  /-- TILE_RETIRE (R240). -/
  | tileRetire (d : Fin 4) (t : Half)
  /-- CALIBRATION_DUE (R233). -/
  | calibrationDue (d : Fin 4) (t : Half) (p : Fin 8)
  /-- DRIFT_PERSIST (R229). -/
  | driftPersist (d : Fin 4) (t : Half)
  /-- SWITCH_ARM (R227). -/
  | switchArm (r : Req) (d : Fin 4) (v : Word)
  /-- SWITCH_DISARM (R227). -/
  | switchDisarm (r : Req) (d : Fin 4) (v : Word)
  /-- DECK_MAP_SWITCH (R227). -/
  | deckMapSwitch (st : Fin 16)
  /-- STATS_ARM (R237). -/
  | statsArm (r : Req) (d : Fin 4) (v : Word)
  /-- RING_ENABLE (R481). -/
  | ringEnable (r : Req) (job : Bool) (q : Fin 16) (v : Word)
  /-- OPERAND_RESIDENT (R250). -/
  | operandResident (n : Fin 22) (xp : Word)
  /-- MMA (R259). -/
  | mma (n : Fin 22)
  /-- DIST (R260). -/
  | dist (n : Fin 22)
  /-- EWISE (R261). -/
  | ewise (n : Fin 22)
  /-- NORM (R262). -/
  | norm (n : Fin 22)
  /-- SOFTMAX (R262). -/
  | softmax (n : Fin 22)
  /-- ARGMAX (R263). -/
  | argmax (n : Fin 22)
  /-- WINO (R284). -/
  | wino (n : Fin 22)
  /-- OPTIM (R355). -/
  | optim (n : Fin 22)
  /-- DME_OUTPUT_TILE (R265). -/
  | dmeOutputTile (n : Fin 22) (core : Fin 8) (fails : Fin 5)
  /-- DME_CORE_RETIRE (R272). -/
  | dmeCoreRetire (r : Req) (k : Fin 8) (v : Word)
  /-- DME_CORE_RETIRE_PERM (R272). -/
  | dmeCoreRetirePerm (r : Req) (k : Fin 8) (v : Word)
  /-- VSTEP_CHANGE (R271). -/
  | vstepChange (r : Req) (k : Fin 8) (v : Word)
  /-- VSTEP_SETTLED (R271). -/
  | vstepSettled (k : Fin 8)
  /-- FFT (R328). -/
  | fft (n : Fin 22)
  /-- WINDOW (R329). -/
  | window (n : Fin 22)
  /-- RESAMP (R339). -/
  | resamp (n : Fin 22)
  /-- ENV (R330). -/
  | env (n : Fin 22)
  /-- CEPS (R331). -/
  | ceps (n : Fin 22)
  /-- SKURT (R331). -/
  | skurt (n : Fin 22)
  /-- BAND (R332). -/
  | band (n : Fin 22)
  /-- MARKER (R342). -/
  | marker (n : Fin 22)
  /-- LAYER (R332). -/
  | layer (n : Fin 22)
  /-- SIG_ARGMAX (R332). -/
  | sigArgmax (n : Fin 22)
  /-- SHEET (R343). -/
  | sheet (n : Fin 22)
  /-- STATS (R332). -/
  | stats (n : Fin 22)
  /-- SIG_PASS (R334). -/
  | sigPass (n : Fin 22) (parity : Bool)
  /-- ORDER_TABLE_BUILD (R337). -/
  | orderTableBuild
  /-- SAMPLE_AVAILABLE (R297). -/
  | sampleAvailable (c : Fin 96) (t : DWord) (code : Word) (fault : Bool)
  /-- SPEED_EDGE (R304). -/
  | speedEdge (k : Fin 4) (t : DWord)
  /-- SLOW_SAMPLE (R305). -/
  | slowSample (k : Fin 8) (t : DWord) (v ohm : Word)
  /-- DIGITAL_PORT_SAMPLE (R306). -/
  | digitalPortSample (p : Fin 4) (t : DWord) (words : List Word)
  /-- BIAS_MEASURE (R301). -/
  | biasMeasure (i : Fin 16) (mv : Half)
  /-- IEPE_SETTLE_END (R302). -/
  | iepeSettleEnd (i : Fin 16)
  /-- SUPPLY_SAMPLE (R313). -/
  | supplySample (mv : Half)
  /-- STREAM_START (R316). -/
  | streamStart (r : Req) (n : Fin 16) (v : Word)
  /-- STREAM_STOP_REQUEST (R316). -/
  | streamStopRequest (r : Req) (n : Fin 16) (v : Word)
  /-- FRAME_CLOSE (R310). -/
  | frameClose (n : Fin 16)
  /-- WINDOW_ARRIVAL_COMPLETE (R311). -/
  | windowArrivalComplete (n : Fin 16)
  /-- WAKE_REQUEST (R542). -/
  | wakeRequest (src : Fin 5) (k : Fin 8) (v : Word)
  /-- STO_READ (R380). -/
  | stoRead
  /-- STO_PROGRAM (R384). -/
  | stoProgram
  /-- STO_ERASE (R386). -/
  | stoErase
  /-- STO_RELOCATE (R392). -/
  | stoRelocate
  /-- STO_COUNTS (R380). -/
  | stoCounts
  /-- STORAGE_WORD_DONE (R384). -/
  | storageWordDone (k : Fin 32) (ok : Bool)
  /-- SECTOR_ERASE_DONE (R386). -/
  | sectorEraseDone (k : Fin 32) (ok : Bool)
  /-- STORAGE_READ_CHUNK (R383). -/
  | storageReadChunk (k : Fin 32) (errs : List (Nat × Fin 4))
  /-- STORAGE_WINDOW_READ (R377). -/
  | storageWindowRead (r : Req) (a : Addr) (wide : Bool) (worst : Fin 4)
  /-- SPARE_ERASE (R393). -/
  | spareErase (k : Fin 32) (start : Bool)
  /-- STO_COUNTER_CLEAR (R376). -/
  | stoCounterClear (r : Req) (v : Word)
  /-- LEDGER_TICK (R398). -/
  | ledgerTick
  /-- LEDGER_RECORD_COMMIT (R406). -/
  | ledgerRecordCommit
  /-- LEDGER_PORT_WRITE (R382). -/
  | ledgerPortWrite (what : Fin 3) (ok : Bool)
  /-- SNAPSHOT_DUE (R408). -/
  | snapshotDue
  /-- LDG_SNAPNOW (R408). -/
  | ldgSnapnow (r : Req) (v : Word)
  /-- MAX_DEMAND_CLEAR (R404). -/
  | maxDemandClear (r : Req) (v : Word)
  /-- TARIFF_OVERRIDE_WRITE (R401). -/
  | tariffOverrideWrite (r : Req) (v : Word)
  /-- LEDGER_KEY_PROGRAM (R405). -/
  | ledgerKeyProgram (r : Req) (v : Word)
  /-- EVENT_RING_DRAIN (R416). -/
  | eventRingDrain
  /-- VIBRATION_SEVERITY_EVAL (R422). -/
  | vibrationSeverityEval (e : Fin 16) (rms : Word) (bias : Half) (limit : Bool)
  /-- OVERSPEED_EVAL (R423). -/
  | overspeedEval (k : Fin 4) (t : DWord)
  /-- TEMPERATURE_EVAL (R424). -/
  | temperatureEval (e : Fin 8) (mean ohm : Word)
  /-- SAFETY_RESET_REQUEST (R426). -/
  | safetyResetRequest (host : Option (Fin 4))
  /-- LOCKSTEP_MISMATCH (R429). -/
  | lockstepMismatch
  /-- SRAM_SCRUB_PASS (R431). -/
  | sramScrubPass (corrected : Half) (bad : Bool)
  /-- PROCTOR_WATCHDOG_EXPIRE (R431). -/
  | proctorWatchdogExpire
  /-- CLOCK_MONITOR_CHECK (R431). -/
  | clockMonitorCheck (ok : Bool)
  /-- SUPPLY_MONITOR_TRIP (R576). -/
  | supplyMonitorTrip (k : Fin 6)
  /-- SAFETY_LINK_FRAME (R432). -/
  | safetyLinkFrame (toProctor ok : Bool)
  /-- SAFETY_LINK_TIMEOUT (R432). -/
  | safetyLinkTimeout
  /-- SHADOW_REFERENCE_TEST (R431). -/
  | shadowReferenceTest (ok : Bool)
  /-- SHADOW_COEFF_CRC (R431). -/
  | shadowCoeffCrc (ok : Bool)
  /-- COMPARATOR_SELF_TEST (R431). -/
  | comparatorSelfTest (ok : Bool)
  /-- OUTPUT_READBACK (R460). -/
  | outputReadback (n : Fin 4) (vh vl ma : Half) (limit hs ls : Bool) (moved : Option (Fin 4))
  /-- DARK_TEST_PULSE (R461). -/
  | darkTestPulse (n : Fin 4) (hsOpen lsOpen : Bool) (moved : Option (Fin 4))
  /-- SUSPECT_VERDICT (R441). -/
  | suspectVerdict (dme : Bool) (ua ub : Byte) (verdict : Fin 4) (origin : DWord)
  /-- SAFE_INJECT (R437). -/
  | safeInject (r : Req) (v : Word)
  /-- AO_RANGE_BREAK_END (R452). -/
  | aoRangeBreakEnd (n : Fin 4)
  /-- AO_VALUE_WRITE (R451). -/
  | aoValueWrite (r : Req) (n : Fin 4) (v : Word)
  /-- AO_OVERRIDE_WRITE (R454). -/
  | aoOverrideWrite (r : Req) (n : Fin 4) (v : Word)
  /-- AO_REFRESH_TIMEOUT (R453). -/
  | aoRefreshTimeout (n : Fin 4)
  /-- AO_LINK_SILENCE (R453). -/
  | aoLinkSilence
  /-- AO_MONITOR (R457). -/
  | aoMonitor (n : Fin 4) (rback : Word) (limit : Bool)
  /-- HOST_FRAME_RECEIVE (R466). -/
  | hostFrameReceive (p : Fin 3) (kind : Fin 5) (pcp : Fin 8) (src body : List Byte)
  /-- GPTP_FRAME (R468). -/
  | gptpFrame (p : Fin 2) (kind : Fin 3) (domain : Byte) (capable : Bool) (master : DWord) (ppb : Word)
  /-- QBV_GATE_ENTRY (R469). -/
  | qbvGateEntry (p : Fin 2)
  /-- SPIT_STATUS (R470). -/
  | spitStatus
  /-- SPIT_WRITE (R470). -/
  | spitWrite (body : List Byte)
  /-- SPIT_READ (R470). -/
  | spitRead
  /-- LRP_HELLO (R474). -/
  | lrpHello (p : Fin 4)
  /-- LRP_STATUS (R476). -/
  | lrpStatus (p : Fin 4)
  /-- LRP_POST (R476). -/
  | lrpPost (p : Fin 4)
  /-- LRP_READ (R476). -/
  | lrpRead (p : Fin 4)
  /-- LRP_FENCE (R476). -/
  | lrpFence (p : Fin 4)
  /-- LRP_PASSACQ (R482). -/
  | lrpPassacq (p : Fin 4)
  /-- LRP_PASSREL (R482). -/
  | lrpPassrel (p : Fin 4)
  /-- LRP_STOP (R486). -/
  | lrpStop (p : Fin 4)
  /-- LRP_RESUME (R487). -/
  | lrpResume (p : Fin 4)
  /-- LRP_SNAPSHOT (R476). -/
  | lrpSnapshot (p : Fin 4)
  /-- LRP_BULKACK (R489). -/
  | lrpBulkack (p : Fin 4)
  /-- LRP_TARIFF (R476). -/
  | lrpTariff (p : Fin 4)
  /-- LRP_MDCLR (R476). -/
  | lrpMdclr (p : Fin 4)
  /-- LRP_AOVR (R476). -/
  | lrpAovr (p : Fin 4)
  /-- LRP_SAFERESET (R476). -/
  | lrpSafereset (p : Fin 4)
  /-- LRP_LEDGERKEY (R476). -/
  | lrpLedgerkey (p : Fin 4)
  /-- IMGBEGIN (R491). -/
  | imgbegin (p : Fin 4)
  /-- IMGDATA (R491). -/
  | imgdata (p : Fin 4)
  /-- IMGEND (R492). -/
  | imgend (p : Fin 4) (flashOk : Bool)
  /-- BULK_PACKET_SEND (R488). -/
  | bulkPacketSend (h : Fin 4)
  /-- BULK_RESEND_TIMEOUT (R489). -/
  | bulkResendTimeout (h : Fin 4)
  /-- JOB_ENTRY_SERVE (R480). -/
  | jobEntryServe (q : Fin 16)
  /-- JOB_STATUS_RECORD (R480). -/
  | jobStatusRecord (q : Fin 16)
  /-- JOB_TAIL_WRITE (R480). -/
  | jobTailWrite (r : Req) (q : Fin 16) (v : Word)
  /-- FENCE_REQUEST (R481). -/
  | fenceRequest (r : Req) (q : Fin 16) (v : Word)
  /-- AUTO_FENCE_DUE (R481). -/
  | autoFenceDue (q : Fin 16)
  /-- FENCE_COMMIT (R36). -/
  | fenceCommit (q : Fin 16)
  /-- HALL_PASS_ACQUIRE_HOME (R482). -/
  | hallPassAcquireHome (r : Req) (v : Word)
  /-- HALL_PASS_RELEASE_HOME (R482). -/
  | hallPassReleaseHome (r : Req) (v : Word)
  /-- HALL_PASS_REVOKE (R482). -/
  | hallPassRevoke (r : Req) (n : Fin 8) (v : Word)
  /-- HALL_PASS_EXPIRE (R482). -/
  | hallPassExpire (n : Fin 8)
  /-- PORT_TRAINING (R495). -/
  | portTraining (p : Fin 3) (partner : Option (Fin 4096)) (good : Fin 32)
  /-- PORT_TRAIN_RETRY (R495). -/
  | portTrainRetry (p : Fin 3)
  /-- LANE_FAIL (R496). -/
  | laneFail (p : Fin 3) (lane : Fin 5)
  /-- WRAP_NOTICE (R510). -/
  | wrapNotice (p : Fin 3) (crossing : List (Fin 4095))
  /-- FLIT_RECEIVE (R499). -/
  | flitReceive (p : Fin 3) (flit : List Byte) (num : Half) (ctl : Option LinkCtl) (swallowed : Bool) (errs : List Half)
  /-- REPLAY_TIMEOUT (R499). -/
  | replayTimeout (p : Fin 3)
  /-- FLIT_SEND (R504). -/
  | flitSend (p : Fin 3)
  /-- ROLL_CALL_START (R506). -/
  | rollCallStart 
  /-- ROLL_CALL_ROOT_DECIDED (R506). -/
  | rollCallRootDecided 
  /-- ROLL_CALL_DIRECTORY (R507). -/
  | rollCallDirectory (devs : List ChainDev) (links : Fin 64) (standby : Fin 8)
  /-- SEGMENT_SEND (R513). -/
  | segmentSend (n : Fin 22)
  /-- SEGMENT_RECEIVE (R515). -/
  | segmentReceive (p : Fin 3) (vc : Fin 4) (flashOk : Bool)
  /-- SEGMENT_COMPLETION (R517). -/
  | segmentCompletion (p : Fin 3)
  /-- E2E_TIMEOUT (R517). -/
  | e2eTimeout (xfer ofs : Word)
  /-- FORWARD_RECORD_RECEIVE (R520). -/
  | forwardRecordReceive (p : Fin 3)
  /-- FORWARD_DROP_TIMEOUT (R520). -/
  | forwardDropTimeout 
  /-- CHN_MESSAGE_SEND (R521). -/
  | chnMessageSend (r : Req) (v : Word)
  /-- CHAIN_TIME_BROADCAST (R522). -/
  | chainTimeBroadcast (lower any : Bool)
  /-- CHAIN_TIME_RECEIVE (R522). -/
  | chainTimeReceive (p : Fin 3) (resid : Half)
  /-- LINK_DELAY_MEASURE (R522). -/
  | linkDelayMeasure (p : Fin 3) (ns : Half)
  /-- IMAGE_REQUEST_BROADCAST (R523). -/
  | imageRequestBroadcast 
  /-- REFCLK_LOSS (R531). -/
  | refclkLoss
  /-- DOMAIN_SWITCH_OFF (R535). -/
  | domainSwitchOff (r : Req) (v : Word)
  /-- DOMAIN_SWITCH_ON (R535). -/
  | domainSwitchOn (r : Req) (v : Word)
  /-- WATCHDOG_ENABLE (R539). -/
  | watchdogEnable (r : Req) (v : Word)
  /-- WATCHDOG_KICK (R539). -/
  | watchdogKick (r : Req) (v : Word)
  /-- WATCHDOG_EXPIRE (R539). -/
  | watchdogExpire
  /-- RECESS_REQUEST (R540). -/
  | recessRequest (r : Req) (v : Word) (bad : List (Fin 32))
  /-- POWER_FAIL_WARNING (R544). -/
  | powerFailWarning (mv : Half) (bad : List (Fin 32)) (flushed : Half) (us : Word)
  /-- POWER_FAIL_CLEAR (R547). -/
  | powerFailClear
  /-- THERMAL_READING (R548). -/
  | thermalReading (t : List Half)
  /-- THERMAL_SHUTDOWN (R552). -/
  | thermalShutdown (bad : List (Fin 32)) (flushed : Half) (us : Word)
  /-- THERMAL_HOLD_END (R554). -/
  | thermalHoldEnd
  /-- TAP_EXTEST (R571). -/
  | tapExtest (pins shift : BitVec 21)
  /-- TAP_IDCODE (R573). -/
  | tapIdcode
  /-- TAP_SAMPLE_PRELOAD (R573). -/
  | tapSamplePreload (pins shift : BitVec 21)
  /-- TAP_BYPASS (R573). -/
  | tapBypass (code tdi : Byte)
  /-- TAP_DEBUG_ACCESS (R570). -/
  | tapDebugAccess (dmi : Bool) (set : Option (Fin 2 × Word))
  /-- TAP_RESET (R538). -/
  | tapReset
  /-- REFCLK_PRESENT (R531). -/
  | refclkPresent
  /-- FIELD_SUPPLY_READY (R534). -/
  | fieldSupplyReady (h : Health)
  /-- PLL_LOCK_LOSS (R556). -/
  | pllLockLoss (us : Word)
  /-- GPTP_SYNC_LOSS (R468). -/
  | gptpSyncLoss (p : Fin 2)
  /-- HOST_PORT_LINK_CHANGE (R464). -/
  | hostPortLinkChange (p : Fin 3) (up : Bool)
  /-- UNREACHABLE_ADDRESS_EXPIRY (R509). -/
  | unreachableAddressExpiry (a : Fin 4095)
deriving DecidableEq, Repr

end Sys2Proof
end

