-- ==== Sys2Proof/Config.lean ====
section
/-! DEFINITION. The free values: what the spec leaves open and the device still produces. None has a body, so nothing in
Lean can evaluate one; a claim about one holds whatever it is. Each is named in the assumption log. -/

namespace Sys2Proof.Config

/-- A free bit pattern, fresh for each draw (the argument is the number of draws so far). -/
opaque freeNat : Nat → Nat

/-- The bytes of the boot ROM, which the spec does not give (R79). -/
opaque bootRomByte : Nat → Byte

/-- The local supply voltage a report card carries, mV (Table 14-6): a measured value, by TIMEBASE. -/
opaque cardVolt : Nat → Nat

/-- The code lengths (256 of them) the device's block encoder picks for a block: its length-limiting method is not part of
the format (R122). -/
opaque codeLengths : List Byte → List Nat

end Sys2Proof.Config
end

