-- ==== Sys2Proof/Machine/Bits.lean ====
section
/-! DEFINITION. Bit fields, sign extension, saturation and byte order (R7). -/

namespace Sys2Proof.Machine

/-- Bits `lo + w - 1` down to `lo` of a number. -/
def bits (v lo w : Nat) : Nat := (v >>> lo) % 2 ^ w

/-- Bit `i` of a number. -/
def bit (v i : Nat) : Bool := bits v i 1 == 1

/-- A Bool as the number 0 or 1. -/
def b2n (b : Bool) : Nat := if b then 1 else 0

/-- The word with ones in bits `hi` down to `lo`. -/
def fieldMask (hi lo : Nat) : Word := BitVec.ofNat 32 ((2 ^ (hi + 1 - lo) - 1) <<< lo)

/-- Field `w` bits wide at bit `lo` of a word, as a number. -/
def getField (v : Word) (lo w : Nat) : Nat := bits v.toNat lo w

/-- The word with the field at `lo`, `w` bits wide, replaced by `x` modulo 2^w. -/
def setField (v : Word) (lo w x : Nat) : Word :=
  (v &&& ~~~(fieldMask (lo + w - 1) lo)) ||| BitVec.ofNat 32 ((x % 2 ^ w) <<< lo)

/-- Two's complement value of the low `w` bits. -/
def toSigned (w v : Nat) : Int := if v % 2 ^ w < 2 ^ (w - 1) then (v % 2 ^ w : Nat) else (v % 2 ^ w : Nat) - (2 ^ w : Nat)

/-- The low `w` bits of an integer, two's complement. -/
def ofSigned (w : Nat) (x : Int) : Nat := (x % (2 ^ w : Nat)).toNat

/-- The nearest value in a range. -/
def clampInt (lo hi x : Int) : Int := if x < lo then lo else if hi < x then hi else x

/-- An integer limited to `w` bits, two's complement. -/
def satSigned (w : Nat) (x : Int) : Int := clampInt (-(2 ^ (w - 1) : Nat)) ((2 ^ (w - 1) : Nat) - 1) x

/-- A counter that saturates at all ones of `w` bits. -/
def satAdd (w a b : Nat) : Nat := if a + b < 2 ^ w then a + b else 2 ^ w - 1

/-- `a / b` rounded up. -/
def ceilDiv (a b : Nat) : Nat := (a + b - 1) / b

/-- `a` rounded up to a multiple of `b`. -/
def roundUp (a b : Nat) : Nat := ceilDiv a b * b

/-- The bytes of a number, least significant first (R7). -/
def leBytes : Nat → Nat → List Byte
  | 0, _ => []
  | n + 1, v => BitVec.ofNat 8 v :: leBytes n (v / 256)

/-- The number whose bytes are given least significant first (R7). -/
def leNat : List Byte → Nat
  | [] => 0
  | b :: t => b.toNat + 256 * leNat t

/-- The number whose bytes are given most significant first. -/
def beNat (l : List Byte) : Nat := leNat l.reverse

/-- Bytes `o` to `o + n - 1` of a list, as a little-endian number; a missing byte counts as 0. -/
def leAt (l : List Byte) (o n : Nat) : Nat := leNat ((l.drop o).take n)

/-- Exactly `n` bytes: the list cut off, or filled with zero bytes. -/
def padTo (n : Nat) (l : List Byte) : List Byte := l.take n ++ List.replicate (n - l.length) 0

/-- A list with element `i` replaced, unchanged where there is none. -/
def setAt {α : Type} (l : List α) (i : Nat) (v : α) : List α := l.set i v

/-- The set bits of a mask below `n`, in ascending order. -/
def setBits (n mask : Nat) : List Nat := (List.range n).filter (fun i => bit mask i)

/-- Number of set bits below `n`. -/
def popCount (n mask : Nat) : Nat := (setBits n mask).length

/-- All pieces of `n` bytes of a list, the last one possibly shorter. `fuel` bounds the number of pieces. -/
def chunksOf {α : Type} (n : Nat) : Nat → List α → List (List α)
  | 0, _ => []
  | fuel + 1, l => match l with
    | [] => []
    | a :: t => ((a :: t).take n) :: chunksOf n fuel ((a :: t).drop n)

end Sys2Proof.Machine
end

