-- ==== Sys2Proof/Machine/Crc.lean ====
section
/-! DEFINITION. The check codes of the device: CRC-32C (R110, R118) and CRC-32 (R11). -/

namespace Sys2Proof.Machine

/-- One bit of a reflected CRC with polynomial `poly`. -/
def crcBit (poly c : Nat) : Nat := if c % 2 = 1 then (c / 2) ^^^ poly else c / 2

/-- One byte of a reflected CRC. -/
def crcByte (poly c : Nat) (b : Byte) : Nat :=
  let x := c ^^^ b.toNat
  crcBit poly (crcBit poly (crcBit poly (crcBit poly (crcBit poly (crcBit poly (crcBit poly (crcBit poly x)))))))

/-- A reflected CRC with initial value and final XOR of all ones. -/
def crcReflected (poly : Nat) (l : List Byte) : Nat := l.foldl (crcByte poly) 0xFFFFFFFF ^^^ 0xFFFFFFFF

/-- CRC-32C: polynomial 0x1EDC6F41, reflected 0x82F63B78 (R110). -/
def crc32c (l : List Byte) : Nat := crcReflected 0x82F63B78 l

/-- CRC-32, reflected 0xEDB88320. -/
def crc32 (l : List Byte) : Nat := crcReflected 0xEDB88320 l

end Sys2Proof.Machine
end

