-- ==== Sys2Proof/Machine/RegMap.lean ====
section
/-! DEFINITION. The register map: every register of the spec's register tables, its address, its instances, its reset
value and its fields with their access types (Table 00-6), as the chapters' tables give them (R81, Table 03-2 for the
blocks). Written from the register tables of spec/00 to spec/20. -/

namespace Sys2Proof.Machine

/-- The access types of Table 00-6. -/
inductive Acc where
  | ro | rw | wo | w1c | w1s | rwl
deriving DecidableEq, Repr

/-- One field of a register: bits `hi` down to `lo`. -/
structure FieldRow where
  hi : Nat
  lo : Nat
  acc : Acc
deriving DecidableEq, Repr

/-- One register, or an array of them: instance `(i, j)` lies at `base + s0 * i + s1 * j`, for `i < n0` and `j < n1`. -/
structure RegDesc where
  base : Nat
  s0 : Nat
  n0 : Nat
  s1 : Nat
  n1 : Nat
  reset : Word
  fields : List FieldRow
deriving DecidableEq, Repr

/-- The physical address of instance `(i, j)`. -/
def RegDesc.at (r : RegDesc) (i : Nat := 0) (j : Nat := 0) : Nat := r.base + r.s0 * i + r.s1 * j

/-- The instance that lies at an address, if any. -/
def RegDesc.index (r : RegDesc) (a : Nat) : Option (Nat × Nat) :=
  if a < r.base then none
  else
    let i := if r.s0 = 0 then 0 else (a - r.base) / r.s0
    let rem := (a - r.base) - r.s0 * i
    let j := if r.s1 = 0 then 0 else rem / r.s1
    if i < r.n0 ∧ j < r.n1 ∧ r.s1 * j = rem then some (i, j) else none

/-- The bits of a register whose fields have the access type `acc`. -/
def RegDesc.mask (r : RegDesc) (acc : Acc) : Word :=
  r.fields.foldl (fun m f => if f.acc = acc then m ||| fieldMask f.hi f.lo else m) 0

/-- A named field of a register. -/
structure Fld where
  reg : RegDesc
  lo : Nat
  width : Nat
deriving DecidableEq, Repr

namespace R

/-- SYS_PARTID (00_scope). -/
def SYS_PARTID : RegDesc := ⟨0x0200000000, 0, 1, 0, 1, 0x94401100, [⟨31, 16, .ro⟩, ⟨15, 12, .ro⟩, ⟨11, 8, .ro⟩]⟩
/-- SYS_UNITS (00_scope). -/
def SYS_UNITS : RegDesc := ⟨0x0200000004, 0, 1, 0, 1, 0x00081000, [⟨19, 16, .ro⟩, ⟨12, 0, .ro⟩]⟩
/-- SYS_TIMEBASE_LO (01_device_overview). -/
def SYS_TIMEBASE_LO : RegDesc := ⟨0x0200000010, 0, 1, 0, 1, 0x00000000, [⟨31, 0, .ro⟩]⟩
/-- SYS_TIMEBASE_HI (01_device_overview). -/
def SYS_TIMEBASE_HI : RegDesc := ⟨0x0200000014, 0, 1, 0, 1, 0x00000000, [⟨31, 0, .ro⟩]⟩
/-- SYS_WALLTIME_LO (01_device_overview). -/
def SYS_WALLTIME_LO : RegDesc := ⟨0x0200000018, 0, 1, 0, 1, 0x00000000, [⟨31, 0, .ro⟩]⟩
/-- SYS_WALLTIME_HI (01_device_overview). -/
def SYS_WALLTIME_HI : RegDesc := ⟨0x020000001C, 0, 1, 0, 1, 0x00000000, [⟨31, 0, .ro⟩]⟩
/-- SYS_WALLOFS_LO (01_device_overview). -/
def SYS_WALLOFS_LO : RegDesc := ⟨0x0200000020, 0, 1, 0, 1, 0x00000000, [⟨31, 0, .rw⟩]⟩
/-- SYS_WALLOFS_HI (01_device_overview). -/
def SYS_WALLOFS_HI : RegDesc := ⟨0x0200000024, 0, 1, 0, 1, 0x00000000, [⟨31, 0, .rw⟩]⟩
/-- SYS_WALLSTAT (01_device_overview). -/
def SYS_WALLSTAT : RegDesc := ⟨0x0200000028, 0, 1, 0, 1, 0x00000000, [⟨31, 31, .ro⟩, ⟨27, 24, .ro⟩, ⟨15, 0, .ro⟩]⟩
/-- SYS_D2DSTAT (01_device_overview). -/
def SYS_D2DSTAT : RegDesc := ⟨0x0200000030, 0, 1, 0, 1, 0x0000003F, [⟨13, 8, .ro⟩, ⟨5, 0, .ro⟩]⟩
/-- SYS_D2DRETRY (01_device_overview). -/
def SYS_D2DRETRY : RegDesc := ⟨0x0200000040, 0x4, 6, 0, 1, 0x00000000, [⟨31, 0, .ro⟩]⟩
/-- BOOT_STAT (02_configuration_image). -/
def BOOT_STAT : RegDesc := ⟨0x0200030000, 0, 1, 0, 1, 0x0C000000, [⟨31, 28, .ro⟩, ⟨27, 26, .ro⟩, ⟨25, 25, .ro⟩, ⟨24, 24, .ro⟩, ⟨23, 23, .ro⟩, ⟨22, 22, .ro⟩, ⟨15, 8, .ro⟩]⟩
/-- BOOT_SLOTRES (02_configuration_image). -/
def BOOT_SLOTRES : RegDesc := ⟨0x0200030004, 0, 1, 0, 1, 0x00000F0F, [⟨17, 17, .ro⟩, ⟨16, 16, .ro⟩, ⟨15, 8, .ro⟩, ⟨7, 0, .ro⟩]⟩
/-- BOOT_GENA (02_configuration_image). -/
def BOOT_GENA : RegDesc := ⟨0x0200030008, 0, 1, 0, 1, 0x00000000, [⟨31, 0, .ro⟩]⟩
/-- BOOT_GENB (02_configuration_image). -/
def BOOT_GENB : RegDesc := ⟨0x020003000C, 0, 1, 0, 1, 0x00000000, [⟨31, 0, .ro⟩]⟩
/-- BOOT_ROLLBACK (02_configuration_image). -/
def BOOT_ROLLBACK : RegDesc := ⟨0x0200030010, 0, 1, 0, 1, 0x00000000, [⟨8, 0, .ro⟩]⟩
/-- BOOT_LOADUS (02_configuration_image). -/
def BOOT_LOADUS : RegDesc := ⟨0x0200030014, 0, 1, 0, 1, 0x00000000, [⟨31, 0, .ro⟩]⟩
/-- BOOT_CTRL (02_configuration_image). -/
def BOOT_CTRL : RegDesc := ⟨0x0200030020, 0, 1, 0, 1, 0x00000000, [⟨3, 3, .w1s⟩, ⟨2, 2, .w1s⟩, ⟨1, 1, .w1s⟩, ⟨0, 0, .w1s⟩]⟩
/-- BOOT_REVOKE (02_configuration_image). -/
def BOOT_REVOKE : RegDesc := ⟨0x0200030024, 0, 1, 0, 1, 0x00000000, [⟨9, 8, .rwl⟩, ⟨3, 0, .rwl⟩]⟩
/-- BOOT_UPDRES (02_configuration_image). -/
def BOOT_UPDRES : RegDesc := ⟨0x0200030028, 0, 1, 0, 1, 0x00000000, [⟨16, 16, .ro⟩, ⟨15, 8, .ro⟩, ⟨7, 0, .ro⟩]⟩
/-- BOOT_UNITID_LO (02_configuration_image). -/
def BOOT_UNITID_LO : RegDesc := ⟨0x0200030030, 0, 1, 0, 1, 0x00000000, [⟨31, 0, .ro⟩]⟩
/-- BOOT_UNITID_HI (02_configuration_image). -/
def BOOT_UNITID_HI : RegDesc := ⟨0x0200030034, 0, 1, 0, 1, 0x00000000, [⟨31, 0, .ro⟩]⟩
/-- BOOT_CONFLEFT (02_configuration_image). -/
def BOOT_CONFLEFT : RegDesc := ⟨0x0200030038, 0, 1, 0, 1, 0x00000000, [⟨15, 0, .ro⟩]⟩
/-- BOOT_BUILDID (02_configuration_image). -/
def BOOT_BUILDID : RegDesc := ⟨0x0200030040, 0x4, 4, 0, 1, 0x00000000, [⟨31, 0, .ro⟩]⟩
/-- MEM_CTL (03_on_package_memory). -/
def MEM_CTL : RegDesc := ⟨0x0200040000, 0, 1, 0, 1, 0x00000000, [⟨2, 2, .w1s⟩, ⟨1, 1, .rw⟩, ⟨0, 0, .rw⟩]⟩
/-- MEM_STAT (03_on_package_memory). -/
def MEM_STAT : RegDesc := ⟨0x0200040004, 0, 1, 0, 1, 0x00000000, [⟨31, 31, .ro⟩, ⟨30, 30, .ro⟩, ⟨29, 29, .ro⟩]⟩
/-- MEM_SPLITAM (03_on_package_memory). -/
def MEM_SPLITAM : RegDesc := ⟨0x0200040008, 0, 1, 0, 1, 0x00000000, [⟨23, 0, .rw⟩]⟩
/-- MEM_SPLITPSM (03_on_package_memory). -/
def MEM_SPLITPSM : RegDesc := ⟨0x020004000C, 0, 1, 0, 1, 0x00000000, [⟨23, 0, .rw⟩]⟩
/-- MEM_SPLITWBM (03_on_package_memory). -/
def MEM_SPLITWBM : RegDesc := ⟨0x0200040010, 0, 1, 0, 1, 0x00000000, [⟨23, 0, .rw⟩]⟩
/-- MEM_SPLITCOL (03_on_package_memory). -/
def MEM_SPLITCOL : RegDesc := ⟨0x0200040014, 0, 1, 0, 1, 0x00000000, [⟨31, 0, .ro⟩]⟩
/-- MEM_ECCCOR (03_on_package_memory). -/
def MEM_ECCCOR : RegDesc := ⟨0x0200040020, 0, 1, 0, 1, 0x00000000, [⟨31, 0, .ro⟩]⟩
/-- MEM_ECCUNC (03_on_package_memory). -/
def MEM_ECCUNC : RegDesc := ⟨0x0200040024, 0, 1, 0, 1, 0x00000000, [⟨31, 0, .ro⟩]⟩
/-- MEM_ECCADDR_LO (03_on_package_memory). -/
def MEM_ECCADDR_LO : RegDesc := ⟨0x0200040028, 0, 1, 0, 1, 0x00000000, [⟨31, 0, .ro⟩]⟩
/-- MEM_ECCADDR_HI (03_on_package_memory). -/
def MEM_ECCADDR_HI : RegDesc := ⟨0x020004002C, 0, 1, 0, 1, 0x00000000, [⟨31, 0, .ro⟩]⟩
/-- MEM_TAGERR (03_on_package_memory). -/
def MEM_TAGERR : RegDesc := ⟨0x0200040030, 0, 1, 0, 1, 0x00000000, [⟨31, 0, .ro⟩]⟩
/-- MEM_TAGFAIL (03_on_package_memory). -/
def MEM_TAGFAIL : RegDesc := ⟨0x0200040034, 0, 1, 0, 1, 0x00000000, [⟨31, 0, .ro⟩]⟩
/-- MEM_REPAIR (03_on_package_memory). -/
def MEM_REPAIR : RegDesc := ⟨0x0200040040, 0, 1, 0, 1, 0x00000000, [⟨31, 28, .rw⟩, ⟨27, 20, .rw⟩, ⟨17, 8, .rw⟩, ⟨0, 0, .w1s⟩]⟩
/-- MEM_REPSTAT (03_on_package_memory). -/
def MEM_REPSTAT : RegDesc := ⟨0x0200040044, 0, 1, 0, 1, 0x00000000, [⟨31, 31, .ro⟩, ⟨30, 28, .ro⟩, ⟨4, 0, .ro⟩]⟩
/-- MEM_L1CFG (03_on_package_memory). -/
def MEM_L1CFG : RegDesc := ⟨0x0200040100, 0x4, 8, 0, 1, 0x00000000, [⟨31, 31, .ro⟩, ⟨9, 9, .w1s⟩, ⟨8, 8, .w1s⟩, ⟨3, 0, .rw⟩]⟩
/-- MEM_WBMCACHE (03_on_package_memory). -/
def MEM_WBMCACHE : RegDesc := ⟨0x0200040120, 0, 1, 0, 1, 0x00000000, [⟨8, 8, .w1s⟩, ⟨3, 0, .rw⟩]⟩
/-- MEM_WBMHIT (03_on_package_memory). -/
def MEM_WBMHIT : RegDesc := ⟨0x0200040124, 0, 1, 0, 1, 0x00000000, [⟨31, 0, .ro⟩]⟩
/-- MEM_WBMMISS (03_on_package_memory). -/
def MEM_WBMMISS : RegDesc := ⟨0x0200040128, 0, 1, 0, 1, 0x00000000, [⟨31, 0, .ro⟩]⟩
/-- MEM_CRn_BASE (03_on_package_memory). -/
def MEM_CR_BASE : RegDesc := ⟨0x0200040400, 0x20, 64, 0, 1, 0x00000000, [⟨31, 0, .rw⟩]⟩
/-- MEM_CRn_SIZE (03_on_package_memory). -/
def MEM_CR_SIZE : RegDesc := ⟨0x0200040404, 0x20, 64, 0, 1, 0x00000010, [⟨16, 0, .rw⟩]⟩
/-- MEM_CRn_CFG (03_on_package_memory). -/
def MEM_CR_CFG : RegDesc := ⟨0x0200040408, 0x20, 64, 0, 1, 0x00000000, [⟨31, 31, .rw⟩, ⟨30, 30, .rw⟩, ⟨29, 29, .ro⟩, ⟨26, 24, .rw⟩, ⟨15, 15, .rw⟩, ⟨8, 0, .rw⟩]⟩
/-- MEM_CRn_HEAD (03_on_package_memory). -/
def MEM_CR_HEAD : RegDesc := ⟨0x020004040C, 0x20, 64, 0, 1, 0x00000000, [⟨31, 0, .ro⟩]⟩
/-- MEM_CRn_TAIL (03_on_package_memory). -/
def MEM_CR_TAIL : RegDesc := ⟨0x0200040410, 0x20, 64, 0, 1, 0x00000000, [⟨31, 0, .ro⟩]⟩
/-- MEM_CRn_RELEASE (03_on_package_memory). -/
def MEM_CR_RELEASE : RegDesc := ⟨0x0200040414, 0x20, 64, 0, 1, 0x00000000, [⟨31, 0, .wo⟩]⟩
/-- MEM_CRn_ARRIVE (03_on_package_memory). -/
def MEM_CR_ARRIVE : RegDesc := ⟨0x0200040418, 0x20, 64, 0, 1, 0x00000000, [⟨31, 0, .ro⟩]⟩
/-- MEM_CRn_LOST (03_on_package_memory). -/
def MEM_CR_LOST : RegDesc := ⟨0x020004041C, 0x20, 64, 0, 1, 0x00000000, [⟨31, 0, .ro⟩]⟩
/-- MEM_CONFBANK (03_on_package_memory). -/
def MEM_CONFBANK : RegDesc := ⟨0x0200041000, 0x4, 256, 0, 1, 0x00000000, [⟨31, 0, .ro⟩]⟩
/-- MEM_CONFPORT (03_on_package_memory). -/
def MEM_CONFPORT : RegDesc := ⟨0x0200041400, 0x4, 8, 0, 1, 0x00000000, [⟨31, 0, .ro⟩]⟩
/-- MMU_INVAL (04_contexts_and_translation). -/
def MMU_INVAL : RegDesc := ⟨0x0200050000, 0, 1, 0, 1, 0x00000000, [⟨31, 31, .ro⟩, ⟨6, 6, .w1s⟩, ⟨5, 4, .rw⟩, ⟨2, 0, .rw⟩]⟩
/-- MMU_INVADDR (04_contexts_and_translation). -/
def MMU_INVADDR : RegDesc := ⟨0x0200050004, 0, 1, 0, 1, 0x00000000, [⟨27, 0, .rw⟩]⟩
/-- MMU_RESUME (04_contexts_and_translation). -/
def MMU_RESUME : RegDesc := ⟨0x0200050008, 0, 1, 0, 1, 0x00000000, [⟨16, 16, .wo⟩, ⟨10, 8, .wo⟩, ⟨6, 0, .wo⟩]⟩
/-- MMU_FTIMEOUT (04_contexts_and_translation). -/
def MMU_FTIMEOUT : RegDesc := ⟨0x020005000C, 0, 1, 0, 1, 0x00002710, [⟨23, 0, .rw⟩]⟩
/-- MMU_FSTAT (04_contexts_and_translation). -/
def MMU_FSTAT : RegDesc := ⟨0x0200050010, 0, 1, 0, 1, 0x00000000, [⟨7, 0, .ro⟩]⟩
/-- MMU_CTXn_CFG (04_contexts_and_translation). -/
def MMU_CTX_CFG : RegDesc := ⟨0x0200050100, 0x40, 8, 0, 1, 0x00000000, [⟨31, 31, .rwl⟩, ⟨29, 24, .rwl⟩, ⟨18, 0, .rwl⟩]⟩
/-- MMU_CTXn_PTBASE (04_contexts_and_translation). -/
def MMU_CTX_PTBASE : RegDesc := ⟨0x0200050104, 0x40, 8, 0, 1, 0x00000000, [⟨27, 0, .rw⟩]⟩
/-- MMU_CTXn_TDTBASE (04_contexts_and_translation). -/
def MMU_CTX_TDTBASE : RegDesc := ⟨0x0200050108, 0x40, 8, 0, 1, 0x00000000, [⟨27, 0, .rw⟩]⟩
/-- MMU_CTXn_TDTCNT (04_contexts_and_translation). -/
def MMU_CTX_TDTCNT : RegDesc := ⟨0x020005010C, 0x40, 8, 0, 1, 0x00000000, [⟨12, 0, .rw⟩]⟩
/-- MMU_CTXn_BELLS (04_contexts_and_translation). -/
def MMU_CTX_BELLS : RegDesc := ⟨0x0200050110, 0x40, 8, 0, 1, 0x00000000, [⟨25, 16, .rw⟩, ⟨8, 0, .rw⟩]⟩
/-- MMU_CTXn_FQBASE (04_contexts_and_translation). -/
def MMU_CTX_FQBASE : RegDesc := ⟨0x0200050114, 0x40, 8, 0, 1, 0x00000000, [⟨27, 0, .rw⟩]⟩
/-- MMU_CTXn_VIOL (04_contexts_and_translation). -/
def MMU_CTX_VIOL : RegDesc := ⟨0x0200050118, 0x40, 8, 0, 1, 0x00000000, [⟨31, 0, .ro⟩]⟩
/-- MMU_CTXn_VCAPADDR (04_contexts_and_translation). -/
def MMU_CTX_VCAPADDR : RegDesc := ⟨0x020005011C, 0x40, 8, 0, 1, 0x00000000, [⟨31, 0, .ro⟩]⟩
/-- MMU_CTXn_VCAPINFO (04_contexts_and_translation). -/
def MMU_CTX_VCAPINFO : RegDesc := ⟨0x0200050120, 0x40, 8, 0, 1, 0x40000000, [⟨31, 31, .ro⟩, ⟨30, 30, .ro⟩, ⟨29, 29, .w1s⟩, ⟨28, 28, .w1s⟩, ⟨23, 16, .ro⟩, ⟨15, 12, .ro⟩]⟩
/-- ENG_Sn_STAT (05_engine_programs). -/
def ENG_S_STAT : RegDesc := ⟨0x0200060000, 0x20, 22, 0, 1, 0x00000000, [⟨31, 29, .ro⟩, ⟨26, 24, .ro⟩, ⟨22, 20, .ro⟩, ⟨15, 8, .ro⟩, ⟨7, 0, .ro⟩]⟩
/-- ENG_Sn_PC (05_engine_programs). -/
def ENG_S_PC : RegDesc := ⟨0x0200060004, 0x20, 22, 0, 1, 0x00000000, [⟨18, 0, .ro⟩]⟩
/-- ENG_Sn_HALT (05_engine_programs). -/
def ENG_S_HALT : RegDesc := ⟨0x0200060008, 0x20, 22, 0, 1, 0x00000000, [⟨31, 16, .ro⟩, ⟨15, 12, .ro⟩, ⟨10, 8, .ro⟩, ⟨7, 0, .ro⟩]⟩
/-- ENG_Sn_HALTPC (05_engine_programs). -/
def ENG_S_HALTPC : RegDesc := ⟨0x020006000C, 0x20, 22, 0, 1, 0x00000000, [⟨18, 0, .ro⟩]⟩
/-- ENG_Sn_BCNT (05_engine_programs). -/
def ENG_S_BCNT : RegDesc := ⟨0x0200060010, 0x20, 22, 0, 1, 0x00000000, [⟨31, 0, .ro⟩]⟩
/-- ENG_Sn_STOP (05_engine_programs). -/
def ENG_S_STOP : RegDesc := ⟨0x0200060014, 0x20, 22, 0, 1, 0x00000000, [⟨31, 31, .rw⟩, ⟨23, 0, .rw⟩]⟩
/-- ENG_Sn_CTL (05_engine_programs). -/
def ENG_S_CTL : RegDesc := ⟨0x0200060018, 0x20, 22, 0, 1, 0x00000000, [⟨11, 11, .wo⟩, ⟨10, 8, .wo⟩, ⟨7, 0, .wo⟩]⟩
/-- ENG_MARK (05_engine_programs). -/
def ENG_MARK : RegDesc := ⟨0x0200060400, 0x40, 22, 0x4, 16, 0x00000000, [⟨31, 0, .ro⟩]⟩
/-- ENG_BELL (05_engine_programs). -/
def ENG_BELL : RegDesc := ⟨0x0200061000, 0x4, 512, 0, 1, 0x00000000, [⟨15, 0, .rw⟩]⟩
/-- ENG_BELLSET (05_engine_programs). -/
def ENG_BELLSET : RegDesc := ⟨0x0200061800, 0x4, 512, 0, 1, 0x00000000, [⟨15, 0, .wo⟩]⟩
/-- ENG_Cc_SDESC (05_engine_programs). -/
def ENG_C_SDESC : RegDesc := ⟨0x0200062000, 0x40, 8, 0x4, 8, 0x00000000, [⟨31, 0, .rw⟩]⟩
/-- ENG_Cc_SGO (05_engine_programs). -/
def ENG_C_SGO : RegDesc := ⟨0x0200062020, 0x40, 8, 0, 1, 0x00000000, [⟨0, 0, .wo⟩]⟩
/-- ENG_Cc_SSTAT (05_engine_programs). -/
def ENG_C_SSTAT : RegDesc := ⟨0x0200062024, 0x40, 8, 0, 1, 0x00000000, [⟨3, 0, .ro⟩]⟩
/-- ENG_TSTART (05_engine_programs). -/
def ENG_TSTART : RegDesc := ⟨0x0200062400, 0, 1, 0, 1, 0x00000000, [⟨21, 0, .wo⟩]⟩
/-- CIM_CTL (06_weight_tiles_exposure). -/
def CIM_CTL : RegDesc := ⟨0x0200080000, 0x10000, 4, 0, 1, 0x00000310, [⟨12, 12, .w1s⟩, ⟨10, 8, .rw⟩, ⟨5, 4, .rw⟩, ⟨0, 0, .rw⟩]⟩
/-- CIM_CSTOL (06_weight_tiles_exposure). -/
def CIM_CSTOL : RegDesc := ⟨0x0200080004, 0x10000, 4, 0, 1, 0x40000000, [⟨31, 16, .rw⟩, ⟨7, 0, .rw⟩]⟩
/-- CIM_STAT (06_weight_tiles_exposure). -/
def CIM_STAT : RegDesc := ⟨0x0200080008, 0x10000, 4, 0, 1, 0x00000000, [⟨31, 16, .ro⟩, ⟨15, 0, .ro⟩]⟩
/-- CIM_EXPLO (06_weight_tiles_exposure). -/
def CIM_EXPLO : RegDesc := ⟨0x0200080010, 0x10000, 4, 0, 1, 0x00000000, [⟨31, 0, .ro⟩]⟩
/-- CIM_EXPHI (06_weight_tiles_exposure). -/
def CIM_EXPHI : RegDesc := ⟨0x0200080014, 0x10000, 4, 0, 1, 0x00000000, [⟨31, 0, .ro⟩]⟩
/-- CIM_SKIP (06_weight_tiles_exposure). -/
def CIM_SKIP : RegDesc := ⟨0x0200080018, 0x10000, 4, 0, 1, 0x00000000, [⟨31, 0, .ro⟩]⟩
/-- CIM_RES (06_weight_tiles_exposure). -/
def CIM_RES : RegDesc := ⟨0x0200080020, 0x10000, 4, 0x4, 6, 0x00000000, [⟨31, 0, .ro⟩]⟩
/-- CIM_CSFIX (06_weight_tiles_exposure). -/
def CIM_CSFIX : RegDesc := ⟨0x0200080040, 0x10000, 4, 0, 1, 0x00000000, [⟨31, 0, .ro⟩]⟩
/-- CIM_CSFAIL (06_weight_tiles_exposure). -/
def CIM_CSFAIL : RegDesc := ⟨0x0200080044, 0x10000, 4, 0, 1, 0x00000000, [⟨31, 0, .ro⟩]⟩
/-- CIM_CSSKIP (06_weight_tiles_exposure). -/
def CIM_CSSKIP : RegDesc := ⟨0x0200080048, 0x10000, 4, 0, 1, 0x00000000, [⟨31, 0, .ro⟩]⟩
/-- CIM_GCSERR (06_weight_tiles_exposure). -/
def CIM_GCSERR : RegDesc := ⟨0x0200080080, 0x10000, 4, 0x4, 16, 0x00000000, [⟨31, 16, .ro⟩, ⟨15, 0, .ro⟩]⟩
/-- CIM_SAT (06_weight_tiles_exposure). -/
def CIM_SAT : RegDesc := ⟨0x0200080400, 0x10000, 4, 0x4, 256, 0x00000000, [⟨31, 0, .ro⟩]⟩
/-- CIM_LTk_GEOM (06_weight_tiles_exposure). -/
def CIM_LT_GEOM : RegDesc := ⟨0x0200081000, 0x10000, 4, 0x20, 256, 0x00000000, [⟨31, 31, .rw⟩, ⟨30, 28, .rw⟩, ⟨27, 26, .rw⟩, ⟨25, 23, .rw⟩, ⟨22, 22, .rw⟩, ⟨21, 21, .rw⟩, ⟨20, 20, .rw⟩, ⟨18, 10, .rw⟩, ⟨8, 0, .rw⟩]⟩
/-- CIM_LTk_COLS (06_weight_tiles_exposure). -/
def CIM_LT_COLS : RegDesc := ⟨0x0200081004, 0x10000, 4, 0x20, 256, 0x00000000, [⟨24, 16, .rw⟩, ⟨8, 0, .rw⟩]⟩
/-- CIM_LTk_FUNC (06_weight_tiles_exposure). -/
def CIM_LT_FUNC : RegDesc := ⟨0x0200081008, 0x10000, 4, 0x20, 256, 0x00000000, [⟨31, 30, .rw⟩, ⟨15, 8, .rw⟩, ⟨7, 0, .rw⟩]⟩
/-- CIM_LTk_WIDE (06_weight_tiles_exposure). -/
def CIM_LT_WIDE : RegDesc := ⟨0x020008100C, 0x10000, 4, 0x20, 256, 0x00000000, [⟨10, 0, .rw⟩]⟩
/-- CIM_LTk_PARAM (06_weight_tiles_exposure). -/
def CIM_LT_PARAM : RegDesc := ⟨0x0200081010, 0x10000, 4, 0x20, 256, 0x00000000, [⟨22, 8, .rw⟩]⟩
/-- CIM_LTk_TABLE (06_weight_tiles_exposure). -/
def CIM_LT_TABLE : RegDesc := ⟨0x0200081014, 0x10000, 4, 0x20, 256, 0x00000000, [⟨22, 8, .rw⟩]⟩
/-- CIMP_CTL (07_weight_tiles_writing). -/
def CIMP_CTL : RegDesc := ⟨0x02000C0000, 0x10000, 4, 0, 1, 0x00030140, [⟨17, 16, .rw⟩, ⟨8, 8, .rw⟩, ⟨6, 0, .rw⟩]⟩
/-- CIMP_STAT (07_weight_tiles_writing). -/
def CIMP_STAT : RegDesc := ⟨0x02000C0004, 0x10000, 4, 0, 1, 0x00000000, [⟨24, 16, .ro⟩, ⟨6, 0, .ro⟩]⟩
/-- CIMP_RINGBASE (07_weight_tiles_writing). -/
def CIMP_RINGBASE : RegDesc := ⟨0x02000C0008, 0x10000, 4, 0, 1, 0x00000000, [⟨27, 0, .rw⟩]⟩
/-- CIMP_RINGCFG (07_weight_tiles_writing). -/
def CIMP_RINGCFG : RegDesc := ⟨0x02000C000C, 0x10000, 4, 0, 1, 0x00050000, [⟨31, 31, .rw⟩, ⟨26, 24, .rw⟩, ⟨18, 16, .rw⟩, ⟨8, 0, .rw⟩]⟩
/-- CIMP_HEAD (07_weight_tiles_writing). -/
def CIMP_HEAD : RegDesc := ⟨0x02000C0010, 0x10000, 4, 0, 1, 0x00000000, [⟨7, 0, .rw⟩]⟩
/-- CIMP_TAIL (07_weight_tiles_writing). -/
def CIMP_TAIL : RegDesc := ⟨0x02000C0014, 0x10000, 4, 0, 1, 0x00000000, [⟨7, 0, .ro⟩]⟩
/-- CIMP_SWITCH (07_weight_tiles_writing). -/
def CIMP_SWITCH : RegDesc := ⟨0x02000C0020, 0x10000, 4, 0, 1, 0x00000000, [⟨31, 31, .rw⟩, ⟨17, 16, .ro⟩, ⟨3, 0, .rw⟩]⟩
/-- CIMP_DRIFT (07_weight_tiles_writing). -/
def CIMP_DRIFT : RegDesc := ⟨0x02000C0024, 0x10000, 4, 0, 1, 0x00000020, [⟨7, 0, .rw⟩]⟩
/-- CIMP_DARK (07_weight_tiles_writing). -/
def CIMP_DARK : RegDesc := ⟨0x02000C0028, 0x10000, 4, 0, 1, 0x00080010, [⟨22, 16, .rw⟩, ⟨15, 8, .rw⟩, ⟨7, 0, .rw⟩]⟩
/-- CIMP_WEAR (07_weight_tiles_writing). -/
def CIMP_WEAR : RegDesc := ⟨0x02000C002C, 0x10000, 4, 0, 1, 0x00000A8C, [⟨11, 0, .rw⟩]⟩
/-- CIMP_STATCFG (07_weight_tiles_writing). -/
def CIMP_STATCFG : RegDesc := ⟨0x02000C0030, 0x10000, 4, 0, 1, 0x00000000, [⟨31, 31, .rw⟩, ⟨23, 16, .rw⟩, ⟨15, 0, .rw⟩]⟩
/-- CIMP_STATROWS (07_weight_tiles_writing). -/
def CIMP_STATROWS : RegDesc := ⟨0x02000C0034, 0x10000, 4, 0, 1, 0x00000000, [⟨31, 0, .rw⟩]⟩
/-- CIMP_STATDST (07_weight_tiles_writing). -/
def CIMP_STATDST : RegDesc := ⟨0x02000C0038, 0x10000, 4, 0, 1, 0x00000000, [⟨31, 0, .rw⟩]⟩
/-- CIMP_PULSES (07_weight_tiles_writing). -/
def CIMP_PULSES : RegDesc := ⟨0x02000C0040, 0x10000, 4, 0, 1, 0x00000000, [⟨31, 0, .ro⟩]⟩
/-- CIMP_STUCKNEW (07_weight_tiles_writing). -/
def CIMP_STUCKNEW : RegDesc := ⟨0x02000C0044, 0x10000, 4, 0, 1, 0x00000000, [⟨31, 0, .ro⟩]⟩
/-- CIMP_REPAIRS (07_weight_tiles_writing). -/
def CIMP_REPAIRS : RegDesc := ⟨0x02000C0048, 0x10000, 4, 0, 1, 0x00000000, [⟨31, 0, .ro⟩]⟩
/-- CIMP_RETIRED (07_weight_tiles_writing). -/
def CIMP_RETIRED : RegDesc := ⟨0x02000C004C, 0x10000, 4, 0, 1, 0x00000000, [⟨31, 0, .ro⟩]⟩
/-- DME_CTL (08_matrix_engine). -/
def DME_CTL : RegDesc := ⟨0x0200100000, 0x10000, 8, 0, 1, 0x00001008, [⟨31, 31, .w1s⟩, ⟨30, 30, .w1s⟩, ⟨13, 12, .rw⟩, ⟨9, 8, .rw⟩, ⟨3, 0, .rw⟩]⟩
/-- DME_STAT (08_matrix_engine). -/
def DME_STAT : RegDesc := ⟨0x0200100004, 0x10000, 8, 0, 1, 0x00000000, [⟨31, 31, .ro⟩, ⟨30, 30, .ro⟩, ⟨29, 29, .ro⟩, ⟨28, 28, .ro⟩, ⟨11, 0, .ro⟩]⟩
/-- DME_CLIPLO (08_matrix_engine). -/
def DME_CLIPLO : RegDesc := ⟨0x0200100008, 0x10000, 8, 0, 1, 0x80000000, [⟨31, 0, .rw⟩]⟩
/-- DME_CLIPHI (08_matrix_engine). -/
def DME_CLIPHI : RegDesc := ⟨0x020010000C, 0x10000, 8, 0, 1, 0x7FFFFFFF, [⟨31, 0, .rw⟩]⟩
/-- DME_TABLE (08_matrix_engine). -/
def DME_TABLE : RegDesc := ⟨0x0200100010, 0x10000, 8, 0, 1, 0x00000000, [⟨18, 8, .rw⟩]⟩
/-- DME_CSTOL (08_matrix_engine). -/
def DME_CSTOL : RegDesc := ⟨0x0200100014, 0x10000, 8, 0, 1, 0x0000000A, [⟨4, 0, .rw⟩]⟩
/-- DME_EPS (08_matrix_engine). -/
def DME_EPS : RegDesc := ⟨0x0200100018, 0x10000, 8, 0, 1, 0x358637BD, [⟨31, 0, .rw⟩]⟩
/-- DME_TILES (08_matrix_engine). -/
def DME_TILES : RegDesc := ⟨0x0200100020, 0x10000, 8, 0, 1, 0x00000000, [⟨31, 0, .ro⟩]⟩
/-- DME_RESWAIT (08_matrix_engine). -/
def DME_RESWAIT : RegDesc := ⟨0x0200100024, 0x10000, 8, 0, 1, 0x00000000, [⟨31, 0, .ro⟩]⟩
/-- DME_XPWAIT (08_matrix_engine). -/
def DME_XPWAIT : RegDesc := ⟨0x0200100028, 0x10000, 8, 0, 1, 0x00000000, [⟨31, 0, .ro⟩]⟩
/-- DME_CSFIX (08_matrix_engine). -/
def DME_CSFIX : RegDesc := ⟨0x0200100030, 0x10000, 8, 0, 1, 0x00000000, [⟨31, 0, .ro⟩]⟩
/-- DME_CSFAIL (08_matrix_engine). -/
def DME_CSFAIL : RegDesc := ⟨0x0200100034, 0x10000, 8, 0, 1, 0x00000000, [⟨31, 0, .ro⟩]⟩
/-- DME_CSSKIP (08_matrix_engine). -/
def DME_CSSKIP : RegDesc := ⟨0x0200100038, 0x10000, 8, 0, 1, 0x00000000, [⟨31, 0, .ro⟩]⟩
/-- ACQ_STAT (10_acquisition). -/
def ACQ_STAT : RegDesc := ⟨0x0200190000, 0, 1, 0, 1, 0x00000000, [⟨31, 31, .ro⟩, ⟨30, 30, .ro⟩, ⟨29, 29, .ro⟩, ⟨7, 0, .ro⟩]⟩
/-- ACQ_BIASTH (10_acquisition). -/
def ACQ_BIASTH : RegDesc := ⟨0x0200190004, 0, 1, 0, 1, 0x55F003E8, [⟨31, 16, .rw⟩, ⟨15, 0, .rw⟩]⟩
/-- ACQ_BSETTLE (10_acquisition). -/
def ACQ_BSETTLE : RegDesc := ⟨0x0200190008, 0, 1, 0, 1, 0x000007D0, [⟨15, 0, .rw⟩]⟩
/-- ACQ_SUPPLY (10_acquisition). -/
def ACQ_SUPPLY : RegDesc := ⟨0x020019000C, 0, 1, 0, 1, 0x00000000, [⟨31, 16, .ro⟩, ⟨15, 0, .ro⟩]⟩
/-- ACQ_SUPTH (10_acquisition). -/
def ACQ_SUPTH : RegDesc := ⟨0x0200190010, 0, 1, 0, 1, 0x00004650, [⟨15, 0, .rw⟩]⟩
/-- ACQ_SPWAKE (10_acquisition). -/
def ACQ_SPWAKE : RegDesc := ⟨0x0200190014, 0, 1, 0, 1, 0x03E80400, [⟨31, 16, .rw⟩, ⟨15, 8, .rw⟩, ⟨3, 0, .rw⟩]⟩
/-- ACQ_VCHi_CFG (10_acquisition). -/
def ACQ_VCH_CFG : RegDesc := ⟨0x0200190100, 0x10, 16, 0, 1, 0x00000000, [⟨16, 16, .rw⟩, ⟨13, 12, .rw⟩, ⟨9, 8, .rw⟩, ⟨5, 4, .rw⟩, ⟨1, 0, .rw⟩]⟩
/-- ACQ_AEa_CFG (10_acquisition). -/
def ACQ_AE_CFG : RegDesc := ⟨0x0200190200, 0x10, 2, 0, 1, 0x00000000, [⟨4, 4, .rw⟩, ⟨0, 0, .rw⟩]⟩
/-- ACQ_SPs_CFG (10_acquisition). -/
def ACQ_SP_CFG : RegDesc := ⟨0x0200190240, 0x10, 4, 0, 1, 0x09C40000, [⟨31, 16, .rw⟩, ⟨15, 8, .rw⟩, ⟨5, 4, .rw⟩, ⟨1, 0, .rw⟩]⟩
/-- ACQ_SLk_CFG (10_acquisition). -/
def ACQ_SL_CFG : RegDesc := ⟨0x0200190280, 0x10, 8, 0, 1, 0x00000000, [⟨1, 0, .rw⟩]⟩
/-- ACQ_DPp_CFG (10_acquisition). -/
def ACQ_DP_CFG : RegDesc := ⟨0x0200190300, 0x10, 4, 0, 1, 0x00000000, [⟨31, 16, .rw⟩, ⟨5, 4, .rw⟩, ⟨1, 0, .rw⟩]⟩
/-- ACQ_VCHi_COMMIT (10_acquisition). -/
def ACQ_VCH_COMMIT : RegDesc := ⟨0x0200190104, 0x10, 16, 0, 1, 0x00000000, [⟨0, 0, .wo⟩]⟩
/-- ACQ_AEa_COMMIT (10_acquisition). -/
def ACQ_AE_COMMIT : RegDesc := ⟨0x0200190204, 0x10, 2, 0, 1, 0x00000000, [⟨0, 0, .wo⟩]⟩
/-- ACQ_SPs_COMMIT (10_acquisition). -/
def ACQ_SP_COMMIT : RegDesc := ⟨0x0200190244, 0x10, 4, 0, 1, 0x00000000, [⟨0, 0, .wo⟩]⟩
/-- ACQ_SLk_COMMIT (10_acquisition). -/
def ACQ_SL_COMMIT : RegDesc := ⟨0x0200190284, 0x10, 8, 0, 1, 0x00000000, [⟨0, 0, .wo⟩]⟩
/-- ACQ_DPp_COMMIT (10_acquisition). -/
def ACQ_DP_COMMIT : RegDesc := ⟨0x0200190304, 0x10, 4, 0, 1, 0x00000000, [⟨0, 0, .wo⟩]⟩
/-- ACQ_STn_COMMIT (10_acquisition). -/
def ACQ_ST_COMMIT : RegDesc := ⟨0x0200190818, 0x40, 16, 0, 1, 0x00000000, [⟨0, 0, .wo⟩]⟩
/-- ACQ_VCHi_STAT (10_acquisition). -/
def ACQ_VCH_STAT : RegDesc := ⟨0x0200190108, 0x10, 16, 0, 1, 0x00000000, [⟨31, 31, .ro⟩, ⟨30, 30, .ro⟩, ⟨29, 29, .ro⟩, ⟨28, 28, .ro⟩, ⟨27, 27, .ro⟩, ⟨15, 0, .ro⟩]⟩
/-- ACQ_AEa_STAT (10_acquisition). -/
def ACQ_AE_STAT : RegDesc := ⟨0x0200190208, 0x10, 2, 0, 1, 0x00000000, [⟨31, 31, .ro⟩, ⟨30, 30, .ro⟩, ⟨29, 29, .ro⟩, ⟨28, 28, .ro⟩, ⟨27, 27, .ro⟩, ⟨15, 0, .ro⟩]⟩
/-- ACQ_SPs_STAT (10_acquisition). -/
def ACQ_SP_STAT : RegDesc := ⟨0x0200190248, 0x10, 4, 0, 1, 0x00000000, [⟨31, 31, .ro⟩, ⟨30, 30, .ro⟩, ⟨29, 29, .ro⟩, ⟨28, 28, .ro⟩, ⟨27, 27, .ro⟩, ⟨15, 0, .ro⟩]⟩
/-- ACQ_SLk_STAT (10_acquisition). -/
def ACQ_SL_STAT : RegDesc := ⟨0x0200190288, 0x10, 8, 0, 1, 0x00000000, [⟨31, 31, .ro⟩, ⟨30, 30, .ro⟩, ⟨29, 29, .ro⟩, ⟨28, 28, .ro⟩, ⟨27, 27, .ro⟩, ⟨15, 0, .ro⟩]⟩
/-- ACQ_DPp_STAT (10_acquisition). -/
def ACQ_DP_STAT : RegDesc := ⟨0x0200190308, 0x10, 4, 0, 1, 0x00000000, [⟨31, 31, .ro⟩, ⟨30, 30, .ro⟩, ⟨29, 29, .ro⟩, ⟨28, 28, .ro⟩, ⟨27, 27, .ro⟩, ⟨15, 0, .ro⟩]⟩
/-- ACQ_SPs_EDGES (10_acquisition). -/
def ACQ_SP_EDGES : RegDesc := ⟨0x020019024C, 0x10, 4, 0, 1, 0x00000000, [⟨31, 0, .ro⟩]⟩
/-- ACQ_SLk_WAKE (10_acquisition). -/
def ACQ_SL_WAKE : RegDesc := ⟨0x020019028C, 0x10, 8, 0, 1, 0x00000000, [⟨31, 31, .rw⟩, ⟨30, 30, .rw⟩]⟩
/-- ACQ_SLk_WTH (10_acquisition). -/
def ACQ_SL_WTH : RegDesc := ⟨0x0200190380, 0x4, 8, 0, 1, 0x00000000, [⟨31, 0, .rw⟩]⟩
/-- ACQ_SLOTq_CMD (10_acquisition). -/
def ACQ_SLOT_CMD : RegDesc := ⟨0x0200190400, 0x10, 64, 0, 1, 0x00000000, [⟨31, 0, .rw⟩]⟩
/-- ACQ_SLOTq_VMASK (10_acquisition). -/
def ACQ_SLOT_VMASK : RegDesc := ⟨0x0200190404, 0x10, 64, 0, 1, 0x00000000, [⟨31, 0, .rw⟩]⟩
/-- ACQ_SLOTq_VVAL (10_acquisition). -/
def ACQ_SLOT_VVAL : RegDesc := ⟨0x0200190408, 0x10, 64, 0, 1, 0x00000000, [⟨31, 0, .rw⟩]⟩
/-- ACQ_SLOTq_SEL (10_acquisition). -/
def ACQ_SLOT_SEL : RegDesc := ⟨0x020019040C, 0x10, 64, 0, 1, 0x00000000, [⟨1, 0, .rw⟩]⟩
/-- ACQ_STn_CTL (10_acquisition). -/
def ACQ_ST_CTL : RegDesc := ⟨0x0200190800, 0x40, 16, 0, 1, 0x00000000, [⟨0, 0, .rw⟩]⟩
/-- ACQ_STn_MEMB0 (10_acquisition). -/
def ACQ_ST_MEMB0 : RegDesc := ⟨0x0200190804, 0x40, 16, 0, 1, 0x00000000, [⟨31, 0, .rw⟩]⟩
/-- ACQ_STn_MEMB1 (10_acquisition). -/
def ACQ_ST_MEMB1 : RegDesc := ⟨0x0200190808, 0x40, 16, 0, 1, 0x00000000, [⟨31, 0, .rw⟩]⟩
/-- ACQ_STn_MEMB2 (10_acquisition). -/
def ACQ_ST_MEMB2 : RegDesc := ⟨0x020019080C, 0x40, 16, 0, 1, 0x00000000, [⟨31, 0, .rw⟩]⟩
/-- ACQ_STn_PERIOD (10_acquisition). -/
def ACQ_ST_PERIOD : RegDesc := ⟨0x0200190810, 0x40, 16, 0, 1, 0x00FE502B, [⟨29, 0, .rw⟩]⟩
/-- ACQ_STn_REGION (10_acquisition). -/
def ACQ_ST_REGION : RegDesc := ⟨0x0200190814, 0x40, 16, 0, 1, 0x10000000, [⟨31, 16, .rw⟩, ⟨5, 0, .rw⟩]⟩
/-- ACQ_STn_STAT (10_acquisition). -/
def ACQ_ST_STAT : RegDesc := ⟨0x020019081C, 0x40, 16, 0, 1, 0x00000000, [⟨31, 31, .ro⟩, ⟨30, 30, .ro⟩, ⟨29, 29, .ro⟩, ⟨28, 28, .ro⟩, ⟨27, 27, .ro⟩, ⟨7, 0, .ro⟩]⟩
/-- ACQ_STn_FRAME (10_acquisition). -/
def ACQ_ST_FRAME : RegDesc := ⟨0x0200190820, 0x40, 16, 0, 1, 0x00000000, [⟨31, 0, .ro⟩]⟩
/-- ACQ_STn_OVR (10_acquisition). -/
def ACQ_ST_OVR : RegDesc := ⟨0x0200190824, 0x40, 16, 0, 1, 0x00000000, [⟨31, 0, .ro⟩]⟩
/-- SIG_STAT (11_signal_engine). -/
def SIG_STAT : RegDesc := ⟨0x0200180000, 0, 1, 0, 1, 0x00000000, [⟨31, 31, .ro⟩, ⟨27, 24, .ro⟩, ⟨23, 23, .ro⟩, ⟨3, 0, .ro⟩]⟩
/-- SIG_EPS (11_signal_engine). -/
def SIG_EPS : RegDesc := ⟨0x0200180004, 0, 1, 0, 1, 0x0DA24260, [⟨31, 0, .rw⟩]⟩
/-- SIG_BUILDS (11_signal_engine). -/
def SIG_BUILDS : RegDesc := ⟨0x0200180008, 0, 1, 0, 1, 0x00000000, [⟨31, 0, .ro⟩]⟩
/-- SIG_BANKREL (11_signal_engine). -/
def SIG_BANKREL : RegDesc := ⟨0x020018000C, 0, 1, 0, 1, 0x00000000, [⟨31, 0, .ro⟩]⟩
/-- SIG_STn_ORD (11_signal_engine). -/
def SIG_ST_ORD : RegDesc := ⟨0x0200180100, 0x20, 16, 0, 1, 0x000B1000, [⟨31, 31, .rw⟩, ⟨25, 24, .rw⟩, ⟨19, 16, .rw⟩, ⟨12, 8, .rw⟩]⟩
/-- SIG_STn_EPR (11_signal_engine). -/
def SIG_ST_EPR : RegDesc := ⟨0x0200180104, 0x20, 16, 0, 1, 0x3F800000, [⟨31, 0, .rw⟩]⟩
/-- SIG_STn_TBASE (11_signal_engine). -/
def SIG_ST_TBASE : RegDesc := ⟨0x0200180108, 0x20, 16, 0, 1, 0x00000000, [⟨31, 0, .rw⟩]⟩
/-- SIG_STn_COMMIT (11_signal_engine). -/
def SIG_ST_COMMIT : RegDesc := ⟨0x020018010C, 0x20, 16, 0, 1, 0x00000000, [⟨0, 0, .wo⟩]⟩
/-- SIG_STn_CTL (11_signal_engine). -/
def SIG_ST_CTL : RegDesc := ⟨0x0200180110, 0x20, 16, 0, 1, 0x00100001, [⟨31, 31, .rw⟩, ⟨23, 16, .rw⟩, ⟨7, 0, .rw⟩]⟩
/-- SIG_STn_STAT (11_signal_engine). -/
def SIG_ST_STAT : RegDesc := ⟨0x0200180114, 0x20, 16, 0, 1, 0x00000000, [⟨31, 31, .ro⟩, ⟨30, 30, .ro⟩, ⟨29, 29, .ro⟩, ⟨28, 28, .ro⟩, ⟨27, 27, .ro⟩, ⟨26, 26, .ro⟩, ⟨25, 25, .ro⟩, ⟨7, 0, .ro⟩]⟩
/-- SIG_STn_FITF (11_signal_engine). -/
def SIG_ST_FITF : RegDesc := ⟨0x0200180118, 0x20, 16, 0, 1, 0x00000000, [⟨31, 0, .ro⟩]⟩
/-- SIG_STn_FITA (11_signal_engine). -/
def SIG_ST_FITA : RegDesc := ⟨0x020018011C, 0x20, 16, 0, 1, 0x00000000, [⟨31, 0, .ro⟩]⟩
/-- SIG_MARK (11_signal_engine). -/
def SIG_MARK : RegDesc := ⟨0x0200180800, 0x4, 256, 0, 1, 0x00000000, [⟨31, 0, .ro⟩]⟩
/-- DME_OPTNF (12_on_device_learning). -/
def DME_OPTNF : RegDesc := ⟨0x0200100040, 0x10000, 8, 0, 1, 0x00000000, [⟨31, 0, .ro⟩]⟩
/-- STO_CTL (13_storage_array). -/
def STO_CTL : RegDesc := ⟨0x02001C0000, 0, 1, 0, 1, 0x00020000, [⟨17, 16, .rw⟩, ⟨0, 0, .w1s⟩]⟩
/-- STO_STAT (13_storage_array). -/
def STO_STAT : RegDesc := ⟨0x02001C0004, 0, 1, 0, 1, 0x80000000, [⟨31, 31, .ro⟩, ⟨30, 30, .ro⟩, ⟨5, 0, .ro⟩]⟩
/-- STO_BUSY (13_storage_array). -/
def STO_BUSY : RegDesc := ⟨0x02001C0008, 0, 1, 0, 1, 0x00000000, [⟨31, 0, .ro⟩]⟩
/-- STO_RINGBASE (13_storage_array). -/
def STO_RINGBASE : RegDesc := ⟨0x02001C0010, 0, 1, 0, 1, 0x00000000, [⟨27, 0, .rw⟩]⟩
/-- STO_RINGCFG (13_storage_array). -/
def STO_RINGCFG : RegDesc := ⟨0x02001C0014, 0, 1, 0, 1, 0x00050000, [⟨31, 31, .rw⟩, ⟨26, 24, .rw⟩, ⟨18, 16, .rw⟩, ⟨7, 0, .rw⟩]⟩
/-- STO_HEAD (13_storage_array). -/
def STO_HEAD : RegDesc := ⟨0x02001C0018, 0, 1, 0, 1, 0x00000000, [⟨7, 0, .rw⟩]⟩
/-- STO_TAIL (13_storage_array). -/
def STO_TAIL : RegDesc := ⟨0x02001C001C, 0, 1, 0, 1, 0x00000000, [⟨7, 0, .ro⟩]⟩
/-- STO_WEARLIM (13_storage_array). -/
def STO_WEARLIM : RegDesc := ⟨0x02001C0020, 0, 1, 0, 1, 0x000186A0, [⟨16, 0, .rw⟩]⟩
/-- STO_WEARWARN (13_storage_array). -/
def STO_WEARWARN : RegDesc := ⟨0x02001C0024, 0, 1, 0, 1, 0x00015F90, [⟨16, 0, .rw⟩]⟩
/-- STO_WARNADDR (13_storage_array). -/
def STO_WARNADDR : RegDesc := ⟨0x02001C0028, 0, 1, 0, 1, 0x00000000, [⟨31, 0, .ro⟩]⟩
/-- STO_CORRBITS (13_storage_array). -/
def STO_CORRBITS : RegDesc := ⟨0x02001C0030, 0, 1, 0, 1, 0x00000000, [⟨31, 0, .ro⟩]⟩
/-- STO_UNCORR (13_storage_array). -/
def STO_UNCORR : RegDesc := ⟨0x02001C0034, 0, 1, 0, 1, 0x00000000, [⟨31, 0, .ro⟩]⟩
/-- STO_BLANK (13_storage_array). -/
def STO_BLANK : RegDesc := ⟨0x02001C0038, 0, 1, 0, 1, 0x00000000, [⟨31, 0, .ro⟩]⟩
/-- STO_BUSYERR (13_storage_array). -/
def STO_BUSYERR : RegDesc := ⟨0x02001C003C, 0, 1, 0, 1, 0x00000000, [⟨31, 0, .ro⟩]⟩
/-- STO_RELOC (13_storage_array). -/
def STO_RELOC : RegDesc := ⟨0x02001C0040, 0, 1, 0, 1, 0x00000000, [⟨31, 0, .ro⟩]⟩
/-- STO_BANK (13_storage_array). -/
def STO_BANK : RegDesc := ⟨0x02001C0100, 0x4, 32, 0, 1, 0x00000200, [⟨31, 31, .ro⟩, ⟨30, 21, .ro⟩, ⟨20, 11, .ro⟩, ⟨9, 0, .ro⟩]⟩
/-- LDG_CTL (14_usage_ledger). -/
def LDG_CTL : RegDesc := ⟨0x02001D0000, 0, 1, 0, 1, 0x00000001, [⟨2, 2, .w1s⟩, ⟨1, 1, .w1s⟩, ⟨0, 0, .rw⟩]⟩
/-- LDG_STAT (14_usage_ledger). -/
def LDG_STAT : RegDesc := ⟨0x02001D0004, 0, 1, 0, 1, 0x04000000, [⟨31, 31, .ro⟩, ⟨30, 30, .ro⟩, ⟨29, 29, .ro⟩, ⟨28, 28, .ro⟩, ⟨27, 27, .ro⟩, ⟨26, 26, .ro⟩, ⟨25, 25, .ro⟩, ⟨19, 19, .ro⟩, ⟨18, 16, .ro⟩, ⟨15, 12, .ro⟩]⟩
/-- LDG_TOVR (14_usage_ledger). -/
def LDG_TOVR : RegDesc := ⟨0x02001D0008, 0, 1, 0, 1, 0x00000000, [⟨31, 31, .rw⟩, ⟨2, 0, .rw⟩]⟩
/-- LDG_LSEQ (14_usage_ledger). -/
def LDG_LSEQ : RegDesc := ⟨0x02001D000C, 0, 1, 0, 1, 0x00000000, [⟨31, 0, .ro⟩]⟩
/-- LDG_OLDEST (14_usage_ledger). -/
def LDG_OLDEST : RegDesc := ⟨0x02001D0010, 0, 1, 0, 1, 0x00000000, [⟨31, 0, .ro⟩]⟩
/-- LDG_CARDNO (14_usage_ledger). -/
def LDG_CARDNO : RegDesc := ⟨0x02001D0014, 0, 1, 0, 1, 0x00000000, [⟨31, 0, .ro⟩]⟩
/-- LDG_EPOCH (14_usage_ledger). -/
def LDG_EPOCH : RegDesc := ⟨0x02001D0018, 0, 1, 0, 1, 0x00000000, [⟨15, 0, .ro⟩]⟩
/-- LDG_SEGKJ (14_usage_ledger). -/
def LDG_SEGKJ : RegDesc := ⟨0x02001D001C, 0, 1, 0, 1, 0x00000000, [⟨31, 0, .ro⟩]⟩
/-- LDG_NEXTB_LO (14_usage_ledger). -/
def LDG_NEXTB_LO : RegDesc := ⟨0x02001D0020, 0, 1, 0, 1, 0x00000000, [⟨31, 0, .ro⟩]⟩
/-- LDG_NEXTB_HI (14_usage_ledger). -/
def LDG_NEXTB_HI : RegDesc := ⟨0x02001D0024, 0, 1, 0, 1, 0x00000000, [⟨31, 0, .ro⟩]⟩
/-- LDG_EVSTAT (14_usage_ledger). -/
def LDG_EVSTAT : RegDesc := ⟨0x02001D0030, 0, 1, 0, 1, 0x00000000, [⟨28, 16, .ro⟩, ⟨12, 0, .ro⟩]⟩
/-- LDG_LOST (14_usage_ledger). -/
def LDG_LOST : RegDesc := ⟨0x02001D0034, 0, 1, 0, 1, 0x00000000, [⟨31, 0, .ro⟩]⟩
/-- LDG_RINGDROP (14_usage_ledger). -/
def LDG_RINGDROP : RegDesc := ⟨0x02001D0038, 0, 1, 0, 1, 0x00000000, [⟨31, 0, .ro⟩]⟩
/-- LDG_ROUTE (14_usage_ledger). -/
def LDG_ROUTE : RegDesc := ⟨0x02001D0040, 0x4, 2, 0, 1, 0x80808080, [⟨31, 31, .rw⟩, ⟨23, 23, .rw⟩, ⟨15, 15, .rw⟩, ⟨7, 7, .rw⟩, ⟨27, 24, .rw⟩, ⟨19, 16, .rw⟩, ⟨11, 8, .rw⟩, ⟨3, 0, .rw⟩]⟩
/-- LDG_KEY (14_usage_ledger). -/
def LDG_KEY : RegDesc := ⟨0x02001D0080, 0x4, 8, 0, 1, 0x00000000, [⟨31, 0, .wo⟩]⟩
/-- LDG_KEYCTL (14_usage_ledger). -/
def LDG_KEYCTL : RegDesc := ⟨0x02001D00A0, 0, 1, 0, 1, 0x00000000, [⟨0, 0, .w1s⟩]⟩
/-- SAFE_STAT (15_functional_safety). -/
def SAFE_STAT : RegDesc := ⟨0x02001B0000, 0, 1, 0, 1, 0x00000000, [⟨31, 28, .ro⟩, ⟨27, 24, .ro⟩, ⟨23, 20, .ro⟩, ⟨19, 19, .ro⟩, ⟨15, 8, .ro⟩]⟩
/-- SAFE_TRIP (15_functional_safety). -/
def SAFE_TRIP : RegDesc := ⟨0x02001B0004, 0, 1, 0, 1, 0x00000000, [⟨27, 20, .ro⟩, ⟨19, 16, .ro⟩, ⟨15, 0, .ro⟩]⟩
/-- SAFE_WARN (15_functional_safety). -/
def SAFE_WARN : RegDesc := ⟨0x02001B0008, 0, 1, 0, 1, 0x00000000, [⟨27, 20, .ro⟩, ⟨19, 16, .ro⟩, ⟨15, 0, .ro⟩]⟩
/-- SAFE_SENSF (15_functional_safety). -/
def SAFE_SENSF : RegDesc := ⟨0x02001B000C, 0, 1, 0, 1, 0x00000000, [⟨27, 20, .ro⟩, ⟨19, 16, .ro⟩, ⟨15, 0, .ro⟩]⟩
/-- SAFE_POLICY (15_functional_safety). -/
def SAFE_POLICY : RegDesc := ⟨0x02001B0010, 0, 1, 0, 1, 0x00000401, [⟨31, 31, .ro⟩, ⟨11, 8, .ro⟩, ⟨7, 0, .ro⟩]⟩
/-- SAFE_LEVELG (15_functional_safety). -/
def SAFE_LEVELG : RegDesc := ⟨0x02001B0020, 0x4, 4, 0, 1, 0x00000000, [⟨31, 0, .ro⟩]⟩
/-- SAFE_LEVELC (15_functional_safety). -/
def SAFE_LEVELC : RegDesc := ⟨0x02001B0030, 0, 1, 0, 1, 0x00000000, [⟨15, 0, .ro⟩]⟩
/-- SAFE_REACTMAX (15_functional_safety). -/
def SAFE_REACTMAX : RegDesc := ⟨0x02001B0040, 0, 1, 0, 1, 0x00000000, [⟨15, 0, .ro⟩]⟩
/-- SAFE_LINKERR (15_functional_safety). -/
def SAFE_LINKERR : RegDesc := ⟨0x02001B0044, 0, 1, 0, 1, 0x00000000, [⟨31, 0, .ro⟩]⟩
/-- SAFE_SCRUB (15_functional_safety). -/
def SAFE_SCRUB : RegDesc := ⟨0x02001B0048, 0, 1, 0, 1, 0x00000000, [⟨31, 0, .ro⟩]⟩
/-- SAFE_RESETS (15_functional_safety). -/
def SAFE_RESETS : RegDesc := ⟨0x02001B004C, 0, 1, 0, 1, 0x00000000, [⟨31, 0, .ro⟩]⟩
/-- SAFE_INJECT (15_functional_safety). -/
def SAFE_INJECT : RegDesc := ⟨0x02001B0050, 0, 1, 0, 1, 0x00000000, [⟨13, 12, .rw⟩, ⟨11, 1, .rw⟩]⟩
/-- OUT_STAT (16_field_outputs). -/
def OUT_STAT : RegDesc := ⟨0x02001A0000, 0, 1, 0, 1, 0x00000000, [⟨31, 28, .ro⟩, ⟨27, 24, .ro⟩, ⟨23, 20, .ro⟩, ⟨7, 0, .ro⟩]⟩
/-- OUT_AOn_CFG (16_field_outputs). -/
def OUT_AO_CFG : RegDesc := ⟨0x02001A0100, 0x20, 4, 0, 1, 0x00000000, [⟨2, 0, .rw⟩]⟩
/-- OUT_AOn_LO (16_field_outputs). -/
def OUT_AO_LO : RegDesc := ⟨0x02001A0104, 0x20, 4, 0, 1, 0x00000000, [⟨31, 0, .rw⟩]⟩
/-- OUT_AOn_HI (16_field_outputs). -/
def OUT_AO_HI : RegDesc := ⟨0x02001A0108, 0x20, 4, 0, 1, 0x00000000, [⟨31, 0, .rw⟩]⟩
/-- OUT_AOn_COMMIT (16_field_outputs). -/
def OUT_AO_COMMIT : RegDesc := ⟨0x02001A010C, 0x20, 4, 0, 1, 0x00000000, [⟨0, 0, .wo⟩]⟩
/-- OUT_AOn_VALUE (16_field_outputs). -/
def OUT_AO_VALUE : RegDesc := ⟨0x02001A0110, 0x20, 4, 0, 1, 0x00000000, [⟨15, 0, .rw⟩]⟩
/-- OUT_AOn_OVR (16_field_outputs). -/
def OUT_AO_OVR : RegDesc := ⟨0x02001A0114, 0x20, 4, 0, 1, 0x00000000, [⟨31, 31, .rw⟩, ⟨15, 0, .rw⟩]⟩
/-- OUT_AOn_FAIL (16_field_outputs). -/
def OUT_AO_FAIL : RegDesc := ⟨0x02001A0118, 0x20, 4, 0, 1, 0x00000000, [⟨31, 16, .rw⟩, ⟨4, 4, .rw⟩, ⟨1, 0, .rw⟩]⟩
/-- OUT_AOn_STAT (16_field_outputs). -/
def OUT_AO_STAT : RegDesc := ⟨0x02001A011C, 0x20, 4, 0, 1, 0x00000000, [⟨31, 31, .ro⟩, ⟨30, 30, .ro⟩, ⟨29, 29, .ro⟩, ⟨28, 28, .ro⟩, ⟨27, 27, .ro⟩, ⟨26, 24, .ro⟩, ⟨15, 0, .ro⟩]⟩
/-- OUT_AOn_RBACK (16_field_outputs). -/
def OUT_AO_RBACK : RegDesc := ⟨0x02001A0180, 0x4, 4, 0, 1, 0x00000000, [⟨31, 0, .ro⟩]⟩
/-- OUT_SOSTAT (16_field_outputs). -/
def OUT_SOSTAT : RegDesc := ⟨0x02001A0200, 0, 1, 0, 1, 0x00000000, [⟨31, 0, .ro⟩]⟩
/-- OUT_SOCUR (16_field_outputs). -/
def OUT_SOCUR : RegDesc := ⟨0x02001A0210, 0x4, 4, 0, 1, 0x00000000, [⟨31, 16, .ro⟩, ⟨15, 0, .ro⟩]⟩
/-- HOST_STAT (17_host_ports). -/
def HOST_STAT : RegDesc := ⟨0x02001E0000, 0, 1, 0, 1, 0x00000000, [⟨31, 28, .ro⟩, ⟨27, 27, .ro⟩, ⟨23, 20, .ro⟩, ⟨19, 16, .ro⟩, ⟨15, 12, .ro⟩]⟩
/-- HOST_TSYNC (17_host_ports). -/
def HOST_TSYNC : RegDesc := ⟨0x02001E0004, 0, 1, 0, 1, 0x00000000, [⟨31, 31, .ro⟩, ⟨15, 8, .rw⟩, ⟨1, 0, .rw⟩]⟩
/-- HOST_TSRATE (17_host_ports). -/
def HOST_TSRATE : RegDesc := ⟨0x02001E0008, 0, 1, 0, 1, 0x00000000, [⟨31, 0, .ro⟩]⟩
/-- HOST_RXDROP (17_host_ports). -/
def HOST_RXDROP : RegDesc := ⟨0x02001E0010, 0x4, 3, 0, 1, 0x00000000, [⟨31, 0, .ro⟩]⟩
/-- HOST_AUTHERR (17_host_ports). -/
def HOST_AUTHERR : RegDesc := ⟨0x02001E0020, 0, 1, 0, 1, 0x00000000, [⟨31, 0, .ro⟩]⟩
/-- HOST_STOPS (17_host_ports). -/
def HOST_STOPS : RegDesc := ⟨0x02001E0024, 0, 1, 0, 1, 0x00000000, [⟨31, 0, .ro⟩]⟩
/-- HOST_BULKPAUSE (17_host_ports). -/
def HOST_BULKPAUSE : RegDesc := ⟨0x02001E0028, 0, 1, 0, 1, 0x00000000, [⟨31, 0, .ro⟩]⟩
/-- HOST_PASS (17_host_ports). -/
def HOST_PASS : RegDesc := ⟨0x02001E0100, 0x4, 8, 0, 1, 0x00000000, [⟨31, 31, .w1s⟩, ⟨28, 28, .ro⟩, ⟨27, 25, .ro⟩, ⟨15, 0, .ro⟩]⟩
/-- HOST_PASSACQ (17_host_ports). -/
def HOST_PASSACQ : RegDesc := ⟨0x02001E0120, 0, 1, 0, 1, 0x00000000, [⟨31, 31, .wo⟩, ⟨30, 30, .wo⟩, ⟨18, 16, .wo⟩, ⟨15, 0, .wo⟩]⟩
/-- HOST_JOBIRQ (17_host_ports). -/
def HOST_JOBIRQ : RegDesc := ⟨0x02001E0140, 0, 1, 0, 1, 0x00000000, [⟨15, 0, .w1c⟩]⟩
/-- HOST_JRq_BASE (17_host_ports). -/
def HOST_JR_BASE : RegDesc := ⟨0x02001E1000, 0x20, 16, 0, 1, 0x00000000, [⟨27, 0, .rw⟩]⟩
/-- HOST_RRq_BASE (17_host_ports). -/
def HOST_RR_BASE : RegDesc := ⟨0x02001E1400, 0x20, 16, 0, 1, 0x00000000, [⟨27, 0, .rw⟩]⟩
/-- HOST_JRq_CFG (17_host_ports). -/
def HOST_JR_CFG : RegDesc := ⟨0x02001E1004, 0x20, 16, 0, 1, 0x00000000, [⟨31, 31, .rw⟩, ⟨30, 30, .rw⟩, ⟨11, 0, .rw⟩]⟩
/-- HOST_RRq_CFG (17_host_ports). -/
def HOST_RR_CFG : RegDesc := ⟨0x02001E1404, 0x20, 16, 0, 1, 0x00000000, [⟨31, 31, .rw⟩, ⟨30, 30, .rw⟩, ⟨11, 0, .rw⟩]⟩
/-- HOST_JRq_HEAD (17_host_ports). -/
def HOST_JR_HEAD : RegDesc := ⟨0x02001E1008, 0x20, 16, 0, 1, 0x00000000, [⟨11, 0, .rw⟩]⟩
/-- HOST_RRq_HEAD (17_host_ports). -/
def HOST_RR_HEAD : RegDesc := ⟨0x02001E1408, 0x20, 16, 0, 1, 0x00000000, [⟨11, 0, .rw⟩]⟩
/-- HOST_JRq_TAIL (17_host_ports). -/
def HOST_JR_TAIL : RegDesc := ⟨0x02001E100C, 0x20, 16, 0, 1, 0x00000000, [⟨11, 0, .rw⟩]⟩
/-- HOST_RRq_TAIL (17_host_ports). -/
def HOST_RR_TAIL : RegDesc := ⟨0x02001E140C, 0x20, 16, 0, 1, 0x00000000, [⟨11, 0, .rw⟩]⟩
/-- HOST_RRq_FENCE (17_host_ports). -/
def HOST_RR_FENCE : RegDesc := ⟨0x02001E1410, 0x20, 16, 0, 1, 0x00000000, [⟨0, 0, .wo⟩]⟩
/-- HOST_RRq_FTAG (17_host_ports). -/
def HOST_RR_FTAG : RegDesc := ⟨0x02001E1414, 0x20, 16, 0, 1, 0x00000000, [⟨31, 0, .rw⟩]⟩
/-- HOST_RRq_FAUTO (17_host_ports). -/
def HOST_RR_FAUTO : RegDesc := ⟨0x02001E1418, 0x20, 16, 0, 1, 0x00000000, [⟨31, 0, .rw⟩]⟩
/-- HOST_RRq_SEQ (17_host_ports). -/
def HOST_RR_SEQ : RegDesc := ⟨0x02001E141C, 0x20, 16, 0, 1, 0x00000000, [⟨31, 0, .ro⟩]⟩
/-- HOST_QBVp_CFG (17_host_ports). -/
def HOST_QBV_CFG : RegDesc := ⟨0x02001E1800, 0x40, 2, 0, 1, 0x00000000, [⟨31, 31, .rw⟩, ⟨6, 0, .rw⟩]⟩
/-- HOST_QBVp_CYCLE (17_host_ports). -/
def HOST_QBV_CYCLE : RegDesc := ⟨0x02001E1804, 0x40, 2, 0, 1, 0x00000000, [⟨31, 0, .rw⟩]⟩
/-- HOST_QBVp_BASE_LO (17_host_ports). -/
def HOST_QBV_BASE_LO : RegDesc := ⟨0x02001E1808, 0x40, 2, 0, 1, 0x00000000, [⟨31, 0, .rw⟩]⟩
/-- HOST_QBVp_BASE_HI (17_host_ports). -/
def HOST_QBV_BASE_HI : RegDesc := ⟨0x02001E180C, 0x40, 2, 0, 1, 0x00000000, [⟨31, 0, .rw⟩]⟩
/-- HOST_QBVp_COMMIT (17_host_ports). -/
def HOST_QBV_COMMIT : RegDesc := ⟨0x02001E1810, 0x40, 2, 0, 1, 0x00000000, [⟨0, 0, .wo⟩]⟩
/-- HOST_QBVp_STAT (17_host_ports). -/
def HOST_QBV_STAT : RegDesc := ⟨0x02001E1814, 0x40, 2, 0, 1, 0x00000000, [⟨31, 31, .ro⟩, ⟨30, 30, .ro⟩, ⟨5, 0, .ro⟩]⟩
/-- HOST_GCL (17_host_ports). -/
def HOST_GCL : RegDesc := ⟨0x02001E2000, 0x100, 2, 0x4, 64, 0xFF000000, [⟨31, 24, .rw⟩, ⟨23, 0, .rw⟩]⟩
/-- CHN_STAT (18_shunto_link). -/
def CHN_STAT : RegDesc := ⟨0x02001F0000, 0, 1, 0, 1, 0x00000000, [⟨31, 31, .ro⟩, ⟨30, 30, .ro⟩, ⟨29, 29, .ro⟩, ⟨28, 28, .ro⟩, ⟨27, 27, .ro⟩, ⟨26, 24, .ro⟩, ⟨23, 12, .ro⟩, ⟨11, 0, .ro⟩]⟩
/-- CHN_CTL (18_shunto_link). -/
def CHN_CTL : RegDesc := ⟨0x02001F0004, 0, 1, 0, 1, 0x47800000, [⟨31, 31, .w1s⟩, ⟨30, 30, .rw⟩, ⟨26, 24, .rw⟩, ⟨23, 16, .rw⟩, ⟨11, 0, .rw⟩]⟩
/-- CHN_E2E (18_shunto_link). -/
def CHN_E2E : RegDesc := ⟨0x02001F0008, 0, 1, 0, 1, 0x000007D0, [⟨15, 0, .rw⟩]⟩
/-- CHN_FWD (18_shunto_link). -/
def CHN_FWD : RegDesc := ⟨0x02001F000C, 0, 1, 0, 1, 0x00000000, [⟨31, 31, .rw⟩, ⟨30, 30, .rw⟩, ⟨29, 29, .rw⟩, ⟨11, 0, .rw⟩]⟩
/-- CHN_DIRBASE (18_shunto_link). -/
def CHN_DIRBASE : RegDesc := ⟨0x02001F0010, 0, 1, 0, 1, 0x00000000, [⟨31, 31, .rw⟩, ⟨27, 0, .rw⟩]⟩
/-- CHN_ARRMASK_LO (18_shunto_link). -/
def CHN_ARRMASK_LO : RegDesc := ⟨0x02001F0018, 0, 1, 0, 1, 0x00000000, [⟨31, 0, .rw⟩]⟩
/-- CHN_ARRMASK_HI (18_shunto_link). -/
def CHN_ARRMASK_HI : RegDesc := ⟨0x02001F001C, 0, 1, 0, 1, 0x00000000, [⟨31, 0, .rw⟩]⟩
/-- CHN_TIMEERR (18_shunto_link). -/
def CHN_TIMEERR : RegDesc := ⟨0x02001F0020, 0, 1, 0, 1, 0x00000000, [⟨31, 0, .ro⟩]⟩
/-- CHN_UNREACH (18_shunto_link). -/
def CHN_UNREACH : RegDesc := ⟨0x02001F0024, 0, 1, 0, 1, 0x00000000, [⟨31, 0, .ro⟩]⟩
/-- CHN_INDROP (18_shunto_link). -/
def CHN_INDROP : RegDesc := ⟨0x02001F0028, 0, 1, 0, 1, 0x00000000, [⟨31, 0, .ro⟩]⟩
/-- CHN_E2EFAIL (18_shunto_link). -/
def CHN_E2EFAIL : RegDesc := ⟨0x02001F002C, 0, 1, 0, 1, 0x00000000, [⟨31, 0, .ro⟩]⟩
/-- CHN_FWDDROP (18_shunto_link). -/
def CHN_FWDDROP : RegDesc := ⟨0x02001F0030, 0, 1, 0, 1, 0x00000000, [⟨31, 0, .ro⟩]⟩
/-- CHN_MSGDST (18_shunto_link). -/
def CHN_MSGDST : RegDesc := ⟨0x02001F0040, 0, 1, 0, 1, 0x00000000, [⟨31, 24, .rw⟩, ⟨17, 16, .rw⟩, ⟨11, 0, .rw⟩]⟩
/-- CHN_MSGSRC_LO (18_shunto_link). -/
def CHN_MSGSRC_LO : RegDesc := ⟨0x02001F0044, 0, 1, 0, 1, 0x00000000, [⟨31, 0, .rw⟩]⟩
/-- CHN_MSGSRC_HI (18_shunto_link). -/
def CHN_MSGSRC_HI : RegDesc := ⟨0x02001F0048, 0, 1, 0, 1, 0x00000000, [⟨31, 0, .rw⟩]⟩
/-- CHN_MSGLEN (18_shunto_link). -/
def CHN_MSGLEN : RegDesc := ⟨0x02001F004C, 0, 1, 0, 1, 0x00000000, [⟨31, 31, .w1s⟩, ⟨10, 0, .rw⟩]⟩
/-- CHN_MSGSTAT (18_shunto_link). -/
def CHN_MSGSTAT : RegDesc := ⟨0x02001F0050, 0, 1, 0, 1, 0x00000000, [⟨31, 31, .ro⟩, ⟨3, 0, .ro⟩]⟩
/-- CHN_IWw_BASE (18_shunto_link). -/
def CHN_IW_BASE : RegDesc := ⟨0x02001F0200, 0x10, 16, 0, 1, 0x00000000, [⟨27, 0, .rw⟩]⟩
/-- CHN_IWw_SIZE (18_shunto_link). -/
def CHN_IW_SIZE : RegDesc := ⟨0x02001F0204, 0x10, 16, 0, 1, 0x00000000, [⟨19, 0, .rw⟩]⟩
/-- CHN_IWw_CFG (18_shunto_link). -/
def CHN_IW_CFG : RegDesc := ⟨0x02001F0208, 0x10, 16, 0, 1, 0x00000000, [⟨31, 31, .rw⟩, ⟨26, 24, .rw⟩]⟩
/-- CHN_RT (18_shunto_link). -/
def CHN_RT : RegDesc := ⟨0x02001F1000, 0x4, 4095, 0, 1, 0x0000000F, [⟨3, 2, .ro⟩, ⟨1, 0, .ro⟩]⟩
/-- CHN_Pn_STAT (18_shunto_link). -/
def CHN_P_STAT : RegDesc := ⟨0x02001F0100, 0x40, 3, 0, 1, 0x00F00000, [⟨31, 29, .ro⟩, ⟨28, 24, .ro⟩, ⟨23, 20, .ro⟩, ⟨11, 0, .ro⟩]⟩
/-- CHN_Pn_LANETH (18_shunto_link). -/
def CHN_P_LANETH : RegDesc := ⟨0x02001F0104, 0x40, 3, 0, 1, 0x00000040, [⟨15, 0, .rw⟩]⟩
/-- CHN_Pn_DELAY (18_shunto_link). -/
def CHN_P_DELAY : RegDesc := ⟨0x02001F0108, 0x40, 3, 0, 1, 0x00000000, [⟨15, 0, .ro⟩]⟩
/-- CHN_Pn_CRCERR (18_shunto_link). -/
def CHN_P_CRCERR : RegDesc := ⟨0x02001F010C, 0x40, 3, 0, 1, 0x00000000, [⟨31, 0, .ro⟩]⟩
/-- CHN_Pn_REPLAY (18_shunto_link). -/
def CHN_P_REPLAY : RegDesc := ⟨0x02001F0110, 0x40, 3, 0, 1, 0x00000000, [⟨31, 0, .ro⟩]⟩
/-- CHN_Pn_BUBLOST (18_shunto_link). -/
def CHN_P_BUBLOST : RegDesc := ⟨0x02001F0114, 0x40, 3, 0, 1, 0x00000000, [⟨31, 0, .ro⟩]⟩
/-- CHN_Pn_LANEERR (18_shunto_link). -/
def CHN_P_LANEERR : RegDesc := ⟨0x02001F0118, 0x40, 3, 0x4, 5, 0x00000000, [⟨31, 0, .ro⟩]⟩
/-- PWR_STAT (19_power_clock_reset). -/
def PWR_STAT : RegDesc := ⟨0x0200010000, 0, 1, 0, 1, 0x00000FFF, [⟨31, 28, .ro⟩, ⟨11, 8, .ro⟩, ⟨7, 0, .ro⟩]⟩
/-- PWR_DOMCTL (19_power_clock_reset). -/
def PWR_DOMCTL : RegDesc := ⟨0x0200010004, 0, 1, 0, 1, 0x00000000, [⟨18, 16, .ro⟩, ⟨7, 4, .rw⟩, ⟨2, 2, .rw⟩, ⟨1, 1, .rw⟩, ⟨0, 0, .rw⟩]⟩
/-- PWR_RECESS (19_power_clock_reset). -/
def PWR_RECESS : RegDesc := ⟨0x0200010008, 0, 1, 0, 1, 0x00000000, [⟨31, 31, .w1s⟩, ⟨3, 0, .ro⟩]⟩
/-- PWR_WAKEEN (19_power_clock_reset). -/
def PWR_WAKEEN : RegDesc := ⟨0x020001000C, 0, 1, 0, 1, 0x0000001F, [⟨4, 0, .rw⟩]⟩
/-- PWR_WAKECAUSE (19_power_clock_reset). -/
def PWR_WAKECAUSE : RegDesc := ⟨0x0200010010, 0, 1, 0, 1, 0x00000000, [⟨4, 0, .ro⟩]⟩
/-- PWR_WAKETIME_LO (19_power_clock_reset). -/
def PWR_WAKETIME_LO : RegDesc := ⟨0x0200010014, 0, 1, 0, 1, 0x00000000, [⟨31, 0, .rw⟩]⟩
/-- PWR_WAKETIME_HI (19_power_clock_reset). -/
def PWR_WAKETIME_HI : RegDesc := ⟨0x0200010018, 0, 1, 0, 1, 0x00000000, [⟨31, 0, .rw⟩]⟩
/-- PWR_WAKEVEC0 (19_power_clock_reset). -/
def PWR_WAKEVEC0 : RegDesc := ⟨0x0200010020, 0, 1, 0, 1, 0x10000000, [⟨31, 0, .rw⟩]⟩
/-- PWR_WAKEVEC1 (19_power_clock_reset). -/
def PWR_WAKEVEC1 : RegDesc := ⟨0x0200010024, 0, 1, 0, 1, 0x10200000, [⟨31, 0, .rw⟩]⟩
/-- PWR_RSTCAUSE (19_power_clock_reset). -/
def PWR_RSTCAUSE : RegDesc := ⟨0x0200010030, 0, 1, 0, 1, 0x00000001, [⟨3, 0, .ro⟩]⟩
/-- PWR_WDOG (19_power_clock_reset). -/
def PWR_WDOG : RegDesc := ⟨0x0200010034, 0, 1, 0, 1, 0x000003E8, [⟨31, 31, .w1s⟩, ⟨30, 30, .w1s⟩, ⟨15, 0, .rw⟩]⟩
/-- PWR_LBTIME (19_power_clock_reset). -/
def PWR_LBTIME : RegDesc := ⟨0x0200010040, 0, 1, 0, 1, 0x00000000, [⟨31, 0, .ro⟩]⟩
/-- PWR_LBCOUNT (19_power_clock_reset). -/
def PWR_LBCOUNT : RegDesc := ⟨0x0200010044, 0, 1, 0, 1, 0x00000000, [⟨31, 0, .ro⟩]⟩
/-- CLK_STAT (19_power_clock_reset). -/
def CLK_STAT : RegDesc := ⟨0x0200020000, 0, 1, 0, 1, 0x00000008, [⟨31, 31, .ro⟩, ⟨30, 30, .ro⟩, ⟨29, 29, .ro⟩, ⟨3, 0, .ro⟩]⟩
/-- CLK_UNLOCK (19_power_clock_reset). -/
def CLK_UNLOCK : RegDesc := ⟨0x0200020004, 0, 1, 0, 1, 0x00000000, [⟨31, 0, .ro⟩]⟩
/-- THM_STAT (19_power_clock_reset). -/
def THM_STAT : RegDesc := ⟨0x0200070000, 0, 1, 0, 1, 0x00000000, [⟨31, 31, .ro⟩, ⟨30, 30, .ro⟩, ⟨18, 16, .ro⟩, ⟨15, 0, .ro⟩]⟩
/-- THM_WARNTH (19_power_clock_reset). -/
def THM_WARNTH : RegDesc := ⟨0x0200070004, 0, 1, 0, 1, 0x000001CC, [⟨15, 0, .rw⟩]⟩
/-- THM_TEMP (19_power_clock_reset). -/
def THM_TEMP : RegDesc := ⟨0x0200070010, 0x4, 6, 0, 1, 0x00000000, [⟨31, 16, .ro⟩, ⟨15, 0, .ro⟩]⟩
/-- THM_THROTMS (19_power_clock_reset). -/
def THM_THROTMS : RegDesc := ⟨0x0200070030, 0, 1, 0, 1, 0x00000000, [⟨31, 0, .ro⟩]⟩
/-- SYS_STRAP (20_package_and_balls). -/
def SYS_STRAP : RegDesc := ⟨0x0200000008, 0, 1, 0, 1, 0x00000000, [⟨0, 0, .ro⟩]⟩

end R

namespace F

def SYS_PARTID_PART : Fld := ⟨R.SYS_PARTID, 16, 16⟩
def SYS_PARTID_TEMP : Fld := ⟨R.SYS_PARTID, 12, 4⟩
def SYS_PARTID_STEP : Fld := ⟨R.SYS_PARTID, 8, 4⟩
def SYS_UNITS_DMECORES : Fld := ⟨R.SYS_UNITS, 16, 4⟩
def SYS_UNITS_TILES : Fld := ⟨R.SYS_UNITS, 0, 13⟩
def SYS_TIMEBASE_LO_TBLO : Fld := ⟨R.SYS_TIMEBASE_LO, 0, 32⟩
def SYS_TIMEBASE_HI_TBHI : Fld := ⟨R.SYS_TIMEBASE_HI, 0, 32⟩
def SYS_WALLTIME_LO_WTLO : Fld := ⟨R.SYS_WALLTIME_LO, 0, 32⟩
def SYS_WALLTIME_HI_WTHI : Fld := ⟨R.SYS_WALLTIME_HI, 0, 32⟩
def SYS_WALLOFS_LO_OFSLO : Fld := ⟨R.SYS_WALLOFS_LO, 0, 32⟩
def SYS_WALLOFS_HI_OFSHI : Fld := ⟨R.SYS_WALLOFS_HI, 0, 32⟩
def SYS_WALLSTAT_VALID : Fld := ⟨R.SYS_WALLSTAT, 31, 1⟩
def SYS_WALLSTAT_SOURCE : Fld := ⟨R.SYS_WALLSTAT, 24, 4⟩
def SYS_WALLSTAT_STEPS : Fld := ⟨R.SYS_WALLSTAT, 0, 16⟩
def SYS_D2DSTAT_DOWN : Fld := ⟨R.SYS_D2DSTAT, 8, 6⟩
def SYS_D2DSTAT_UP : Fld := ⟨R.SYS_D2DSTAT, 0, 6⟩
def SYS_D2DRETRY_COUNT : Fld := ⟨R.SYS_D2DRETRY, 0, 32⟩
def BOOT_STAT_STATE : Fld := ⟨R.BOOT_STAT, 28, 4⟩
def BOOT_STAT_SLOT : Fld := ⟨R.BOOT_STAT, 26, 2⟩
def BOOT_STAT_TRIAL : Fld := ⟨R.BOOT_STAT, 25, 1⟩
def BOOT_STAT_CONFIRMED : Fld := ⟨R.BOOT_STAT, 24, 1⟩
def BOOT_STAT_LOCKED : Fld := ⟨R.BOOT_STAT, 23, 1⟩
def BOOT_STAT_FLASHOK : Fld := ⟨R.BOOT_STAT, 22, 1⟩
def BOOT_STAT_DISAGREE : Fld := ⟨R.BOOT_STAT, 8, 8⟩
def BOOT_SLOTRES_AVOIDB : Fld := ⟨R.BOOT_SLOTRES, 17, 1⟩
def BOOT_SLOTRES_AVOIDA : Fld := ⟨R.BOOT_SLOTRES, 16, 1⟩
def BOOT_SLOTRES_RESB : Fld := ⟨R.BOOT_SLOTRES, 8, 8⟩
def BOOT_SLOTRES_RESA : Fld := ⟨R.BOOT_SLOTRES, 0, 8⟩
def BOOT_GENA_GEN : Fld := ⟨R.BOOT_GENA, 0, 32⟩
def BOOT_GENB_GEN : Fld := ⟨R.BOOT_GENB, 0, 32⟩
def BOOT_ROLLBACK_OTPCOUNT : Fld := ⟨R.BOOT_ROLLBACK, 0, 9⟩
def BOOT_LOADUS_LOADUS : Fld := ⟨R.BOOT_LOADUS, 0, 32⟩
def BOOT_CTRL_UPDATE : Fld := ⟨R.BOOT_CTRL, 3, 1⟩
def BOOT_CTRL_RESTART : Fld := ⟨R.BOOT_CTRL, 2, 1⟩
def BOOT_CTRL_CONFIRM : Fld := ⟨R.BOOT_CTRL, 1, 1⟩
def BOOT_CTRL_LOCK : Fld := ⟨R.BOOT_CTRL, 0, 1⟩
def BOOT_REVOKE_SAFEREV : Fld := ⟨R.BOOT_REVOKE, 8, 2⟩
def BOOT_REVOKE_SIGNREV : Fld := ⟨R.BOOT_REVOKE, 0, 4⟩
def BOOT_UPDRES_TARGET : Fld := ⟨R.BOOT_UPDRES, 16, 1⟩
def BOOT_UPDRES_CHECK : Fld := ⟨R.BOOT_UPDRES, 8, 8⟩
def BOOT_UPDRES_RESULT : Fld := ⟨R.BOOT_UPDRES, 0, 8⟩
def BOOT_UNITID_LO_ID : Fld := ⟨R.BOOT_UNITID_LO, 0, 32⟩
def BOOT_UNITID_HI_ID : Fld := ⟨R.BOOT_UNITID_HI, 0, 32⟩
def BOOT_CONFLEFT_MS : Fld := ⟨R.BOOT_CONFLEFT, 0, 16⟩
def BOOT_BUILDID_BUILD : Fld := ⟨R.BOOT_BUILDID, 0, 32⟩
def MEM_CTL_CNTCLR : Fld := ⟨R.MEM_CTL, 2, 1⟩
def MEM_CTL_CNTFREEZE : Fld := ⟨R.MEM_CTL, 1, 1⟩
def MEM_CTL_SPLIT : Fld := ⟨R.MEM_CTL, 0, 1⟩
def MEM_STAT_SPLITON : Fld := ⟨R.MEM_STAT, 31, 1⟩
def MEM_STAT_SPLITPEND : Fld := ⟨R.MEM_STAT, 30, 1⟩
def MEM_STAT_REPBUSY : Fld := ⟨R.MEM_STAT, 29, 1⟩
def MEM_SPLITAM_OWNERS : Fld := ⟨R.MEM_SPLITAM, 0, 24⟩
def MEM_SPLITPSM_OWNERS : Fld := ⟨R.MEM_SPLITPSM, 0, 24⟩
def MEM_SPLITWBM_OWNERS : Fld := ⟨R.MEM_SPLITWBM, 0, 24⟩
def MEM_SPLITCOL_COUNT : Fld := ⟨R.MEM_SPLITCOL, 0, 32⟩
def MEM_ECCCOR_COUNT : Fld := ⟨R.MEM_ECCCOR, 0, 32⟩
def MEM_ECCUNC_COUNT : Fld := ⟨R.MEM_ECCUNC, 0, 32⟩
def MEM_ECCADDR_LO_ADDR : Fld := ⟨R.MEM_ECCADDR_LO, 0, 32⟩
def MEM_ECCADDR_HI_ADDR : Fld := ⟨R.MEM_ECCADDR_HI, 0, 32⟩
def MEM_TAGERR_COUNT : Fld := ⟨R.MEM_TAGERR, 0, 32⟩
def MEM_TAGFAIL_COUNT : Fld := ⟨R.MEM_TAGFAIL, 0, 32⟩
def MEM_REPAIR_MEM : Fld := ⟨R.MEM_REPAIR, 28, 4⟩
def MEM_REPAIR_BANK : Fld := ⟨R.MEM_REPAIR, 20, 8⟩
def MEM_REPAIR_ROW : Fld := ⟨R.MEM_REPAIR, 8, 10⟩
def MEM_REPAIR_GO : Fld := ⟨R.MEM_REPAIR, 0, 1⟩
def MEM_REPSTAT_BUSY : Fld := ⟨R.MEM_REPSTAT, 31, 1⟩
def MEM_REPSTAT_RESULT : Fld := ⟨R.MEM_REPSTAT, 28, 3⟩
def MEM_REPSTAT_SPARES : Fld := ⟨R.MEM_REPSTAT, 0, 5⟩
def MEM_L1CFG_BUSY : Fld := ⟨R.MEM_L1CFG, 31, 1⟩
def MEM_L1CFG_INVAL : Fld := ⟨R.MEM_L1CFG, 9, 1⟩
def MEM_L1CFG_FLUSH : Fld := ⟨R.MEM_L1CFG, 8, 1⟩
def MEM_L1CFG_CACHE : Fld := ⟨R.MEM_L1CFG, 0, 4⟩
def MEM_WBMCACHE_INVAL : Fld := ⟨R.MEM_WBMCACHE, 8, 1⟩
def MEM_WBMCACHE_SIZE : Fld := ⟨R.MEM_WBMCACHE, 0, 4⟩
def MEM_WBMHIT_COUNT : Fld := ⟨R.MEM_WBMHIT, 0, 32⟩
def MEM_WBMMISS_COUNT : Fld := ⟨R.MEM_WBMMISS, 0, 32⟩
def MEM_CR_BASE_BASE : Fld := ⟨R.MEM_CR_BASE, 0, 32⟩
def MEM_CR_SIZE_SIZE : Fld := ⟨R.MEM_CR_SIZE, 0, 17⟩
def MEM_CR_CFG_EN : Fld := ⟨R.MEM_CR_CFG, 31, 1⟩
def MEM_CR_CFG_MODE : Fld := ⟨R.MEM_CR_CFG, 30, 1⟩
def MEM_CR_CFG_INVALID : Fld := ⟨R.MEM_CR_CFG, 29, 1⟩
def MEM_CR_CFG_CTX : Fld := ⟨R.MEM_CR_CFG, 24, 3⟩
def MEM_CR_CFG_BELLEN : Fld := ⟨R.MEM_CR_CFG, 15, 1⟩
def MEM_CR_CFG_BELL : Fld := ⟨R.MEM_CR_CFG, 0, 9⟩
def MEM_CR_HEAD_HEAD : Fld := ⟨R.MEM_CR_HEAD, 0, 32⟩
def MEM_CR_TAIL_TAIL : Fld := ⟨R.MEM_CR_TAIL, 0, 32⟩
def MEM_CR_RELEASE_BYTES : Fld := ⟨R.MEM_CR_RELEASE, 0, 32⟩
def MEM_CR_ARRIVE_ARRIVE : Fld := ⟨R.MEM_CR_ARRIVE, 0, 32⟩
def MEM_CR_LOST_LOST : Fld := ⟨R.MEM_CR_LOST, 0, 32⟩
def MEM_CONFBANK_COUNT : Fld := ⟨R.MEM_CONFBANK, 0, 32⟩
def MEM_CONFPORT_COUNT : Fld := ⟨R.MEM_CONFPORT, 0, 32⟩
def MMU_INVAL_BUSY : Fld := ⟨R.MMU_INVAL, 31, 1⟩
def MMU_INVAL_GO : Fld := ⟨R.MMU_INVAL, 6, 1⟩
def MMU_INVAL_SCOPE : Fld := ⟨R.MMU_INVAL, 4, 2⟩
def MMU_INVAL_CTX : Fld := ⟨R.MMU_INVAL, 0, 3⟩
def MMU_INVADDR_VPN : Fld := ⟨R.MMU_INVADDR, 0, 28⟩
def MMU_RESUME_ACTION : Fld := ⟨R.MMU_RESUME, 16, 1⟩
def MMU_RESUME_CTX : Fld := ⟨R.MMU_RESUME, 8, 3⟩
def MMU_RESUME_INDEX : Fld := ⟨R.MMU_RESUME, 0, 7⟩
def MMU_FTIMEOUT_US : Fld := ⟨R.MMU_FTIMEOUT, 0, 24⟩
def MMU_FSTAT_PEND : Fld := ⟨R.MMU_FSTAT, 0, 8⟩
def MMU_CTX_CFG_EN : Fld := ⟨R.MMU_CTX_CFG, 31, 1⟩
def MMU_CTX_CFG_CLASSES : Fld := ⟨R.MMU_CTX_CFG, 24, 6⟩
def MMU_CTX_CFG_L1LEN : Fld := ⟨R.MMU_CTX_CFG, 0, 19⟩
def MMU_CTX_PTBASE_PPN : Fld := ⟨R.MMU_CTX_PTBASE, 0, 28⟩
def MMU_CTX_TDTBASE_PPN : Fld := ⟨R.MMU_CTX_TDTBASE, 0, 28⟩
def MMU_CTX_TDTCNT_CNT : Fld := ⟨R.MMU_CTX_TDTCNT, 0, 13⟩
def MMU_CTX_BELLS_CNT : Fld := ⟨R.MMU_CTX_BELLS, 16, 10⟩
def MMU_CTX_BELLS_BASE : Fld := ⟨R.MMU_CTX_BELLS, 0, 9⟩
def MMU_CTX_FQBASE_PPN : Fld := ⟨R.MMU_CTX_FQBASE, 0, 28⟩
def MMU_CTX_VIOL_COUNT : Fld := ⟨R.MMU_CTX_VIOL, 0, 32⟩
def MMU_CTX_VCAPADDR_ADDR : Fld := ⟨R.MMU_CTX_VCAPADDR, 0, 32⟩
def MMU_CTX_VCAPINFO_VALID : Fld := ⟨R.MMU_CTX_VCAPINFO, 31, 1⟩
def MMU_CTX_VCAPINFO_ARMED : Fld := ⟨R.MMU_CTX_VCAPINFO, 30, 1⟩
def MMU_CTX_VCAPINFO_ARM : Fld := ⟨R.MMU_CTX_VCAPINFO, 29, 1⟩
def MMU_CTX_VCAPINFO_CLR : Fld := ⟨R.MMU_CTX_VCAPINFO, 28, 1⟩
def MMU_CTX_VCAPINFO_UNIT : Fld := ⟨R.MMU_CTX_VCAPINFO, 16, 8⟩
def MMU_CTX_VCAPINFO_KIND : Fld := ⟨R.MMU_CTX_VCAPINFO, 12, 4⟩
def ENG_S_STAT_STATE : Fld := ⟨R.ENG_S_STAT, 29, 3⟩
def ENG_S_STAT_CLASS : Fld := ⟨R.ENG_S_STAT, 24, 3⟩
def ENG_S_STAT_CTX : Fld := ⟨R.ENG_S_STAT, 20, 3⟩
def ENG_S_STAT_HALTED : Fld := ⟨R.ENG_S_STAT, 8, 8⟩
def ENG_S_STAT_QUEUED : Fld := ⟨R.ENG_S_STAT, 0, 8⟩
def ENG_S_PC_PC : Fld := ⟨R.ENG_S_PC, 0, 19⟩
def ENG_S_HALT_ITER : Fld := ⟨R.ENG_S_HALT, 16, 16⟩
def ENG_S_HALT_SLOT : Fld := ⟨R.ENG_S_HALT, 12, 4⟩
def ENG_S_HALT_CTX : Fld := ⟨R.ENG_S_HALT, 8, 3⟩
def ENG_S_HALT_REASON : Fld := ⟨R.ENG_S_HALT, 0, 8⟩
def ENG_S_HALTPC_PC : Fld := ⟨R.ENG_S_HALTPC, 0, 19⟩
def ENG_S_BCNT_COUNT : Fld := ⟨R.ENG_S_BCNT, 0, 32⟩
def ENG_S_STOP_EN : Fld := ⟨R.ENG_S_STOP, 31, 1⟩
def ENG_S_STOP_COUNT : Fld := ⟨R.ENG_S_STOP, 0, 24⟩
def ENG_S_CTL_HALTGO : Fld := ⟨R.ENG_S_CTL, 11, 1⟩
def ENG_S_CTL_HALTREQ : Fld := ⟨R.ENG_S_CTL, 8, 3⟩
def ENG_S_CTL_CLR : Fld := ⟨R.ENG_S_CTL, 0, 8⟩
def ENG_MARK_VALUE : Fld := ⟨R.ENG_MARK, 0, 32⟩
def ENG_BELL_VALUE : Fld := ⟨R.ENG_BELL, 0, 16⟩
def ENG_BELLSET_VALUE : Fld := ⟨R.ENG_BELLSET, 0, 16⟩
def ENG_C_SDESC_WORD : Fld := ⟨R.ENG_C_SDESC, 0, 32⟩
def ENG_C_SGO_GO : Fld := ⟨R.ENG_C_SGO, 0, 1⟩
def ENG_C_SSTAT_RESULT : Fld := ⟨R.ENG_C_SSTAT, 0, 4⟩
def ENG_TSTART_STREAMS : Fld := ⟨R.ENG_TSTART, 0, 22⟩
def CIM_CTL_SATCLR : Fld := ⟨R.CIM_CTL, 12, 1⟩
def CIM_CTL_GFILT : Fld := ⟨R.CIM_CTL, 8, 3⟩
def CIM_CTL_CSRETRY : Fld := ⟨R.CIM_CTL, 4, 2⟩
def CIM_CTL_NOSKIP : Fld := ⟨R.CIM_CTL, 0, 1⟩
def CIM_CSTOL_WIDE : Fld := ⟨R.CIM_CSTOL, 16, 16⟩
def CIM_CSTOL_EXACT : Fld := ⟨R.CIM_CSTOL, 0, 8⟩
def CIM_STAT_BUSY : Fld := ⟨R.CIM_STAT, 16, 16⟩
def CIM_STAT_DARK : Fld := ⟨R.CIM_STAT, 0, 16⟩
def CIM_EXPLO_COUNT : Fld := ⟨R.CIM_EXPLO, 0, 32⟩
def CIM_EXPHI_COUNT : Fld := ⟨R.CIM_EXPHI, 0, 32⟩
def CIM_SKIP_COUNT : Fld := ⟨R.CIM_SKIP, 0, 32⟩
def CIM_RES_COUNT : Fld := ⟨R.CIM_RES, 0, 32⟩
def CIM_CSFIX_COUNT : Fld := ⟨R.CIM_CSFIX, 0, 32⟩
def CIM_CSFAIL_COUNT : Fld := ⟨R.CIM_CSFAIL, 0, 32⟩
def CIM_CSSKIP_COUNT : Fld := ⟨R.CIM_CSSKIP, 0, 32⟩
def CIM_GCSERR_PERSIST : Fld := ⟨R.CIM_GCSERR, 16, 16⟩
def CIM_GCSERR_TRANSIENT : Fld := ⟨R.CIM_GCSERR, 0, 16⟩
def CIM_SAT_COUNT : Fld := ⟨R.CIM_SAT, 0, 32⟩
def CIM_LT_GEOM_VALID : Fld := ⟨R.CIM_LT_GEOM, 31, 1⟩
def CIM_LT_GEOM_DECK : Fld := ⟨R.CIM_LT_GEOM, 28, 3⟩
def CIM_LT_GEOM_WFMT : Fld := ⟨R.CIM_LT_GEOM, 26, 2⟩
def CIM_LT_GEOM_AFMT : Fld := ⟨R.CIM_LT_GEOM, 23, 3⟩
def CIM_LT_GEOM_MODE : Fld := ⟨R.CIM_LT_GEOM, 22, 1⟩
def CIM_LT_GEOM_SATACT : Fld := ⟨R.CIM_LT_GEOM, 21, 1⟩
def CIM_LT_GEOM_ROWSPLIT : Fld := ⟨R.CIM_LT_GEOM, 20, 1⟩
def CIM_LT_GEOM_ROWFIRST : Fld := ⟨R.CIM_LT_GEOM, 10, 9⟩
def CIM_LT_GEOM_ROWCNTM1 : Fld := ⟨R.CIM_LT_GEOM, 0, 9⟩
def CIM_LT_COLS_COLFIRST : Fld := ⟨R.CIM_LT_COLS, 16, 9⟩
def CIM_LT_COLS_COLCNTM1 : Fld := ⟨R.CIM_LT_COLS, 0, 9⟩
def CIM_LT_FUNC_FN : Fld := ⟨R.CIM_LT_FUNC, 30, 2⟩
def CIM_LT_FUNC_CHI : Fld := ⟨R.CIM_LT_FUNC, 8, 8⟩
def CIM_LT_FUNC_CLO : Fld := ⟨R.CIM_LT_FUNC, 0, 8⟩
def CIM_LT_WIDE_WCLIP : Fld := ⟨R.CIM_LT_WIDE, 0, 11⟩
def CIM_LT_PARAM_OFS : Fld := ⟨R.CIM_LT_PARAM, 8, 15⟩
def CIM_LT_TABLE_OFS : Fld := ⟨R.CIM_LT_TABLE, 8, 15⟩
def CIMP_CTL_ROWTH : Fld := ⟨R.CIMP_CTL, 16, 2⟩
def CIMP_CTL_AUTOREF : Fld := ⟨R.CIMP_CTL, 8, 1⟩
def CIMP_CTL_MAXPROG : Fld := ⟨R.CIMP_CTL, 0, 7⟩
def CIMP_STAT_DARK : Fld := ⟨R.CIMP_STAT, 16, 9⟩
def CIMP_STAT_ACTIVE : Fld := ⟨R.CIMP_STAT, 0, 7⟩
def CIMP_RINGBASE_PPN : Fld := ⟨R.CIMP_RINGBASE, 0, 28⟩
def CIMP_RINGCFG_EN : Fld := ⟨R.CIMP_RINGCFG, 31, 1⟩
def CIMP_RINGCFG_CTX : Fld := ⟨R.CIMP_RINGCFG, 24, 3⟩
def CIMP_RINGCFG_CLASS : Fld := ⟨R.CIMP_RINGCFG, 16, 3⟩
def CIMP_RINGCFG_SIZEM1 : Fld := ⟨R.CIMP_RINGCFG, 0, 9⟩
def CIMP_HEAD_INDEX : Fld := ⟨R.CIMP_HEAD, 0, 8⟩
def CIMP_TAIL_INDEX : Fld := ⟨R.CIMP_TAIL, 0, 8⟩
def CIMP_SWITCH_ARM : Fld := ⟨R.CIMP_SWITCH, 31, 1⟩
def CIMP_SWITCH_RESULT : Fld := ⟨R.CIMP_SWITCH, 16, 2⟩
def CIMP_SWITCH_STREAM : Fld := ⟨R.CIMP_SWITCH, 0, 4⟩
def CIMP_DRIFT_TH : Fld := ⟨R.CIMP_DRIFT, 0, 8⟩
def CIMP_DARK_MAX : Fld := ⟨R.CIMP_DARK, 16, 7⟩
def CIMP_DARK_DTEMP : Fld := ⟨R.CIMP_DARK, 8, 8⟩
def CIMP_DARK_PERIOD : Fld := ⟨R.CIMP_DARK, 0, 8⟩
def CIMP_WEAR_WARN : Fld := ⟨R.CIMP_WEAR, 0, 12⟩
def CIMP_STATCFG_ARM : Fld := ⟨R.CIMP_STATCFG, 31, 1⟩
def CIMP_STATCFG_LAYER : Fld := ⟨R.CIMP_STATCFG, 16, 8⟩
def CIMP_STATCFG_COUNT : Fld := ⟨R.CIMP_STATCFG, 0, 16⟩
def CIMP_STATROWS_ROWS : Fld := ⟨R.CIMP_STATROWS, 0, 32⟩
def CIMP_STATDST_ADDR : Fld := ⟨R.CIMP_STATDST, 0, 32⟩
def CIMP_PULSES_COUNT : Fld := ⟨R.CIMP_PULSES, 0, 32⟩
def CIMP_STUCKNEW_COUNT : Fld := ⟨R.CIMP_STUCKNEW, 0, 32⟩
def CIMP_REPAIRS_COUNT : Fld := ⟨R.CIMP_REPAIRS, 0, 32⟩
def CIMP_RETIRED_COUNT : Fld := ⟨R.CIMP_RETIRED, 0, 32⟩
def DME_CTL_RETIRE : Fld := ⟨R.DME_CTL, 31, 1⟩
def DME_CTL_PERM : Fld := ⟨R.DME_CTL, 30, 1⟩
def DME_CTL_CSRETRY : Fld := ⟨R.DME_CTL, 12, 2⟩
def DME_CTL_VSTEP : Fld := ⟨R.DME_CTL, 8, 2⟩
def DME_CTL_DUTY : Fld := ⟨R.DME_CTL, 0, 4⟩
def DME_STAT_RETIRED : Fld := ⟨R.DME_STAT, 31, 1⟩
def DME_STAT_PERMANENT : Fld := ⟨R.DME_STAT, 30, 1⟩
def DME_STAT_VSETTLE : Fld := ⟨R.DME_STAT, 29, 1⟩
def DME_STAT_BUSY : Fld := ⟨R.DME_STAT, 28, 1⟩
def DME_STAT_LOCKED : Fld := ⟨R.DME_STAT, 0, 12⟩
def DME_CLIPLO_BOUND : Fld := ⟨R.DME_CLIPLO, 0, 32⟩
def DME_CLIPHI_BOUND : Fld := ⟨R.DME_CLIPHI, 0, 32⟩
def DME_TABLE_OFS : Fld := ⟨R.DME_TABLE, 8, 11⟩
def DME_CSTOL_FPBITS : Fld := ⟨R.DME_CSTOL, 0, 5⟩
def DME_EPS_EPS : Fld := ⟨R.DME_EPS, 0, 32⟩
def DME_TILES_COUNT : Fld := ⟨R.DME_TILES, 0, 32⟩
def DME_RESWAIT_COUNT : Fld := ⟨R.DME_RESWAIT, 0, 32⟩
def DME_XPWAIT_COUNT : Fld := ⟨R.DME_XPWAIT, 0, 32⟩
def DME_CSFIX_COUNT : Fld := ⟨R.DME_CSFIX, 0, 32⟩
def DME_CSFAIL_COUNT : Fld := ⟨R.DME_CSFAIL, 0, 32⟩
def DME_CSSKIP_COUNT : Fld := ⟨R.DME_CSSKIP, 0, 32⟩
def ACQ_STAT_LINKDOWN : Fld := ⟨R.ACQ_STAT, 31, 1⟩
def ACQ_STAT_SUPLOW : Fld := ⟨R.ACQ_STAT, 30, 1⟩
def ACQ_STAT_SETTLED : Fld := ⟨R.ACQ_STAT, 29, 1⟩
def ACQ_STAT_DISAGREE : Fld := ⟨R.ACQ_STAT, 0, 8⟩
def ACQ_BIASTH_HI : Fld := ⟨R.ACQ_BIASTH, 16, 16⟩
def ACQ_BIASTH_LO : Fld := ⟨R.ACQ_BIASTH, 0, 16⟩
def ACQ_BSETTLE_MS : Fld := ⟨R.ACQ_BSETTLE, 0, 16⟩
def ACQ_SUPPLY_TEMP : Fld := ⟨R.ACQ_SUPPLY, 16, 16⟩
def ACQ_SUPPLY_MV : Fld := ⟨R.ACQ_SUPPLY, 0, 16⟩
def ACQ_SUPTH_MV : Fld := ⟨R.ACQ_SUPTH, 0, 16⟩
def ACQ_SPWAKE_WIN : Fld := ⟨R.ACQ_SPWAKE, 16, 16⟩
def ACQ_SPWAKE_COUNT : Fld := ⟨R.ACQ_SPWAKE, 8, 8⟩
def ACQ_SPWAKE_EN : Fld := ⟨R.ACQ_SPWAKE, 0, 4⟩
def ACQ_VCH_CFG_KEEP : Fld := ⟨R.ACQ_VCH_CFG, 16, 1⟩
def ACQ_VCH_CFG_RATE : Fld := ⟨R.ACQ_VCH_CFG, 12, 2⟩
def ACQ_VCH_CFG_RANGE : Fld := ⟨R.ACQ_VCH_CFG, 8, 2⟩
def ACQ_VCH_CFG_ICUR : Fld := ⟨R.ACQ_VCH_CFG, 4, 2⟩
def ACQ_VCH_CFG_MODE : Fld := ⟨R.ACQ_VCH_CFG, 0, 2⟩
def ACQ_AE_CFG_GAIN : Fld := ⟨R.ACQ_AE_CFG, 4, 1⟩
def ACQ_AE_CFG_EN : Fld := ⟨R.ACQ_AE_CFG, 0, 1⟩
def ACQ_SP_CFG_THRESH : Fld := ⟨R.ACQ_SP_CFG, 16, 16⟩
def ACQ_SP_CFG_GLITCH : Fld := ⟨R.ACQ_SP_CFG, 8, 8⟩
def ACQ_SP_CFG_EDGE : Fld := ⟨R.ACQ_SP_CFG, 4, 2⟩
def ACQ_SP_CFG_MODE : Fld := ⟨R.ACQ_SP_CFG, 0, 2⟩
def ACQ_SL_CFG_MODE : Fld := ⟨R.ACQ_SL_CFG, 0, 2⟩
def ACQ_DP_CFG_SLOTEN : Fld := ⟨R.ACQ_DP_CFG, 16, 16⟩
def ACQ_DP_CFG_RATE : Fld := ⟨R.ACQ_DP_CFG, 4, 2⟩
def ACQ_DP_CFG_MODE : Fld := ⟨R.ACQ_DP_CFG, 0, 2⟩
def ACQ_VCH_COMMIT_GO : Fld := ⟨R.ACQ_VCH_COMMIT, 0, 1⟩
def ACQ_AE_COMMIT_GO : Fld := ⟨R.ACQ_AE_COMMIT, 0, 1⟩
def ACQ_SP_COMMIT_GO : Fld := ⟨R.ACQ_SP_COMMIT, 0, 1⟩
def ACQ_SL_COMMIT_GO : Fld := ⟨R.ACQ_SL_COMMIT, 0, 1⟩
def ACQ_DP_COMMIT_GO : Fld := ⟨R.ACQ_DP_COMMIT, 0, 1⟩
def ACQ_ST_COMMIT_GO : Fld := ⟨R.ACQ_ST_COMMIT, 0, 1⟩
def ACQ_VCH_STAT_DISAGREE : Fld := ⟨R.ACQ_VCH_STAT, 31, 1⟩
def ACQ_VCH_STAT_ARMED : Fld := ⟨R.ACQ_VCH_STAT, 30, 1⟩
def ACQ_VCH_STAT_OPEN : Fld := ⟨R.ACQ_VCH_STAT, 29, 1⟩
def ACQ_VCH_STAT_SHORT : Fld := ⟨R.ACQ_VCH_STAT, 28, 1⟩
def ACQ_VCH_STAT_SETTLING : Fld := ⟨R.ACQ_VCH_STAT, 27, 1⟩
def ACQ_VCH_STAT_VALUE : Fld := ⟨R.ACQ_VCH_STAT, 0, 16⟩
def ACQ_AE_STAT_DISAGREE : Fld := ⟨R.ACQ_AE_STAT, 31, 1⟩
def ACQ_AE_STAT_ARMED : Fld := ⟨R.ACQ_AE_STAT, 30, 1⟩
def ACQ_AE_STAT_OPEN : Fld := ⟨R.ACQ_AE_STAT, 29, 1⟩
def ACQ_AE_STAT_SHORT : Fld := ⟨R.ACQ_AE_STAT, 28, 1⟩
def ACQ_AE_STAT_SETTLING : Fld := ⟨R.ACQ_AE_STAT, 27, 1⟩
def ACQ_AE_STAT_VALUE : Fld := ⟨R.ACQ_AE_STAT, 0, 16⟩
def ACQ_SP_STAT_DISAGREE : Fld := ⟨R.ACQ_SP_STAT, 31, 1⟩
def ACQ_SP_STAT_ARMED : Fld := ⟨R.ACQ_SP_STAT, 30, 1⟩
def ACQ_SP_STAT_OPEN : Fld := ⟨R.ACQ_SP_STAT, 29, 1⟩
def ACQ_SP_STAT_SHORT : Fld := ⟨R.ACQ_SP_STAT, 28, 1⟩
def ACQ_SP_STAT_SETTLING : Fld := ⟨R.ACQ_SP_STAT, 27, 1⟩
def ACQ_SP_STAT_VALUE : Fld := ⟨R.ACQ_SP_STAT, 0, 16⟩
def ACQ_SL_STAT_DISAGREE : Fld := ⟨R.ACQ_SL_STAT, 31, 1⟩
def ACQ_SL_STAT_ARMED : Fld := ⟨R.ACQ_SL_STAT, 30, 1⟩
def ACQ_SL_STAT_OPEN : Fld := ⟨R.ACQ_SL_STAT, 29, 1⟩
def ACQ_SL_STAT_SHORT : Fld := ⟨R.ACQ_SL_STAT, 28, 1⟩
def ACQ_SL_STAT_SETTLING : Fld := ⟨R.ACQ_SL_STAT, 27, 1⟩
def ACQ_SL_STAT_VALUE : Fld := ⟨R.ACQ_SL_STAT, 0, 16⟩
def ACQ_DP_STAT_DISAGREE : Fld := ⟨R.ACQ_DP_STAT, 31, 1⟩
def ACQ_DP_STAT_ARMED : Fld := ⟨R.ACQ_DP_STAT, 30, 1⟩
def ACQ_DP_STAT_OPEN : Fld := ⟨R.ACQ_DP_STAT, 29, 1⟩
def ACQ_DP_STAT_SHORT : Fld := ⟨R.ACQ_DP_STAT, 28, 1⟩
def ACQ_DP_STAT_SETTLING : Fld := ⟨R.ACQ_DP_STAT, 27, 1⟩
def ACQ_DP_STAT_VALUE : Fld := ⟨R.ACQ_DP_STAT, 0, 16⟩
def ACQ_SP_EDGES_COUNT : Fld := ⟨R.ACQ_SP_EDGES, 0, 32⟩
def ACQ_SL_WAKE_EN : Fld := ⟨R.ACQ_SL_WAKE, 31, 1⟩
def ACQ_SL_WAKE_DIR : Fld := ⟨R.ACQ_SL_WAKE, 30, 1⟩
def ACQ_SL_WTH_WTH : Fld := ⟨R.ACQ_SL_WTH, 0, 32⟩
def ACQ_SLOT_CMD_CMD : Fld := ⟨R.ACQ_SLOT_CMD, 0, 32⟩
def ACQ_SLOT_VMASK_VMASK : Fld := ⟨R.ACQ_SLOT_VMASK, 0, 32⟩
def ACQ_SLOT_VVAL_VVAL : Fld := ⟨R.ACQ_SLOT_VVAL, 0, 32⟩
def ACQ_SLOT_SEL_CS : Fld := ⟨R.ACQ_SLOT_SEL, 0, 2⟩
def ACQ_ST_CTL_EN : Fld := ⟨R.ACQ_ST_CTL, 0, 1⟩
def ACQ_ST_MEMB0_MEMB : Fld := ⟨R.ACQ_ST_MEMB0, 0, 32⟩
def ACQ_ST_MEMB1_MEMB : Fld := ⟨R.ACQ_ST_MEMB1, 0, 32⟩
def ACQ_ST_MEMB2_MEMB : Fld := ⟨R.ACQ_ST_MEMB2, 0, 32⟩
def ACQ_ST_PERIOD_CYCLES : Fld := ⟨R.ACQ_ST_PERIOD, 0, 30⟩
def ACQ_ST_REGION_EDGEMAX : Fld := ⟨R.ACQ_ST_REGION, 16, 16⟩
def ACQ_ST_REGION_CR : Fld := ⟨R.ACQ_ST_REGION, 0, 6⟩
def ACQ_ST_STAT_RUN : Fld := ⟨R.ACQ_ST_STAT, 31, 1⟩
def ACQ_ST_STAT_STOPPING : Fld := ⟨R.ACQ_ST_STAT, 30, 1⟩
def ACQ_ST_STAT_DISAGREE : Fld := ⟨R.ACQ_ST_STAT, 29, 1⟩
def ACQ_ST_STAT_ARMED : Fld := ⟨R.ACQ_ST_STAT, 28, 1⟩
def ACQ_ST_STAT_REFUSED : Fld := ⟨R.ACQ_ST_STAT, 27, 1⟩
def ACQ_ST_STAT_INFLIGHT : Fld := ⟨R.ACQ_ST_STAT, 0, 8⟩
def ACQ_ST_FRAME_FRAME : Fld := ⟨R.ACQ_ST_FRAME, 0, 32⟩
def ACQ_ST_OVR_COUNT : Fld := ⟨R.ACQ_ST_OVR, 0, 32⟩
def SIG_STAT_BLDBUSY : Fld := ⟨R.SIG_STAT, 31, 1⟩
def SIG_STAT_BLDSTREAM : Fld := ⟨R.SIG_STAT, 24, 4⟩
def SIG_STAT_GEOBAD : Fld := ⟨R.SIG_STAT, 23, 1⟩
def SIG_STAT_BANKS : Fld := ⟨R.SIG_STAT, 0, 4⟩
def SIG_EPS_EPS : Fld := ⟨R.SIG_EPS, 0, 32⟩
def SIG_BUILDS_COUNT : Fld := ⟨R.SIG_BUILDS, 0, 32⟩
def SIG_BANKREL_COUNT : Fld := ⟨R.SIG_BANKREL, 0, 32⟩
def SIG_ST_ORD_EN : Fld := ⟨R.SIG_ST_ORD, 31, 1⟩
def SIG_ST_ORD_SPD : Fld := ⟨R.SIG_ST_ORD, 24, 2⟩
def SIG_ST_ORD_PPRL : Fld := ⟨R.SIG_ST_ORD, 16, 4⟩
def SIG_ST_ORD_NOUTL : Fld := ⟨R.SIG_ST_ORD, 8, 5⟩
def SIG_ST_EPR_EPR : Fld := ⟨R.SIG_ST_EPR, 0, 32⟩
def SIG_ST_TBASE_ADDR : Fld := ⟨R.SIG_ST_TBASE, 0, 32⟩
def SIG_ST_COMMIT_GO : Fld := ⟨R.SIG_ST_COMMIT, 0, 1⟩
def SIG_ST_CTL_PROV : Fld := ⟨R.SIG_ST_CTL, 31, 1⟩
def SIG_ST_CTL_TOL : Fld := ⟨R.SIG_ST_CTL, 16, 8⟩
def SIG_ST_CTL_NEED : Fld := ⟨R.SIG_ST_CTL, 0, 8⟩
def SIG_ST_STAT_DISAGREE : Fld := ⟨R.SIG_ST_STAT, 31, 1⟩
def SIG_ST_STAT_ARMED : Fld := ⟨R.SIG_ST_STAT, 30, 1⟩
def SIG_ST_STAT_TVALID : Fld := ⟨R.SIG_ST_STAT, 29, 1⟩
def SIG_ST_STAT_FRONT : Fld := ⟨R.SIG_ST_STAT, 28, 1⟩
def SIG_ST_STAT_READY : Fld := ⟨R.SIG_ST_STAT, 27, 1⟩
def SIG_ST_STAT_PENDING : Fld := ⟨R.SIG_ST_STAT, 26, 1⟩
def SIG_ST_STAT_STALE : Fld := ⟨R.SIG_ST_STAT, 25, 1⟩
def SIG_ST_STAT_HCOUNT : Fld := ⟨R.SIG_ST_STAT, 0, 8⟩
def SIG_ST_FITF_VALUE : Fld := ⟨R.SIG_ST_FITF, 0, 32⟩
def SIG_ST_FITA_VALUE : Fld := ⟨R.SIG_ST_FITA, 0, 32⟩
def SIG_MARK_ORDER : Fld := ⟨R.SIG_MARK, 0, 32⟩
def DME_OPTNF_COUNT : Fld := ⟨R.DME_OPTNF, 0, 32⟩
def STO_CTL_WARN : Fld := ⟨R.STO_CTL, 16, 2⟩
def STO_CTL_CNTCLR : Fld := ⟨R.STO_CTL, 0, 1⟩
def STO_STAT_RECOVER : Fld := ⟨R.STO_STAT, 31, 1⟩
def STO_STAT_CLEANUP : Fld := ⟨R.STO_STAT, 30, 1⟩
def STO_STAT_INFLIGHT : Fld := ⟨R.STO_STAT, 0, 6⟩
def STO_BUSY_BANKS : Fld := ⟨R.STO_BUSY, 0, 32⟩
def STO_RINGBASE_PPN : Fld := ⟨R.STO_RINGBASE, 0, 28⟩
def STO_RINGCFG_EN : Fld := ⟨R.STO_RINGCFG, 31, 1⟩
def STO_RINGCFG_CTX : Fld := ⟨R.STO_RINGCFG, 24, 3⟩
def STO_RINGCFG_CLASS : Fld := ⟨R.STO_RINGCFG, 16, 3⟩
def STO_RINGCFG_SIZEM1 : Fld := ⟨R.STO_RINGCFG, 0, 8⟩
def STO_HEAD_INDEX : Fld := ⟨R.STO_HEAD, 0, 8⟩
def STO_TAIL_INDEX : Fld := ⟨R.STO_TAIL, 0, 8⟩
def STO_WEARLIM_LIMIT : Fld := ⟨R.STO_WEARLIM, 0, 17⟩
def STO_WEARWARN_WARN : Fld := ⟨R.STO_WEARWARN, 0, 17⟩
def STO_WARNADDR_OFS : Fld := ⟨R.STO_WARNADDR, 0, 32⟩
def STO_CORRBITS_COUNT : Fld := ⟨R.STO_CORRBITS, 0, 32⟩
def STO_UNCORR_COUNT : Fld := ⟨R.STO_UNCORR, 0, 32⟩
def STO_BLANK_COUNT : Fld := ⟨R.STO_BLANK, 0, 32⟩
def STO_BUSYERR_COUNT : Fld := ⟨R.STO_BUSYERR, 0, 32⟩
def STO_RELOC_COUNT : Fld := ⟨R.STO_RELOC, 0, 32⟩
def STO_BANK_PENDERASE : Fld := ⟨R.STO_BANK, 31, 1⟩
def STO_BANK_DEAD : Fld := ⟨R.STO_BANK, 21, 10⟩
def STO_BANK_RDONLY : Fld := ⟨R.STO_BANK, 11, 10⟩
def STO_BANK_SPARES : Fld := ⟨R.STO_BANK, 0, 10⟩
def LDG_CTL_MDCLR : Fld := ⟨R.LDG_CTL, 2, 1⟩
def LDG_CTL_SNAPNOW : Fld := ⟨R.LDG_CTL, 1, 1⟩
def LDG_CTL_RINGEN : Fld := ⟨R.LDG_CTL, 0, 1⟩
def LDG_STAT_RUN : Fld := ⟨R.LDG_STAT, 31, 1⟩
def LDG_STAT_KEYSET : Fld := ⟨R.LDG_STAT, 30, 1⟩
def LDG_STAT_NOWALL : Fld := ⟨R.LDG_STAT, 29, 1⟩
def LDG_STAT_WORN : Fld := ⟨R.LDG_STAT, 28, 1⟩
def LDG_STAT_STOPPED : Fld := ⟨R.LDG_STAT, 27, 1⟩
def LDG_STAT_RECOVER : Fld := ⟨R.LDG_STAT, 26, 1⟩
def LDG_STAT_OVR : Fld := ⟨R.LDG_STAT, 25, 1⟩
def LDG_STAT_RUNNING : Fld := ⟨R.LDG_STAT, 19, 1⟩
def LDG_STAT_TARIFF : Fld := ⟨R.LDG_STAT, 16, 3⟩
def LDG_STAT_CLASS : Fld := ⟨R.LDG_STAT, 12, 4⟩
def LDG_TOVR_EN : Fld := ⟨R.LDG_TOVR, 31, 1⟩
def LDG_TOVR_TARIFF : Fld := ⟨R.LDG_TOVR, 0, 3⟩
def LDG_LSEQ_VALUE : Fld := ⟨R.LDG_LSEQ, 0, 32⟩
def LDG_OLDEST_VALUE : Fld := ⟨R.LDG_OLDEST, 0, 32⟩
def LDG_CARDNO_VALUE : Fld := ⟨R.LDG_CARDNO, 0, 32⟩
def LDG_EPOCH_EPOCH : Fld := ⟨R.LDG_EPOCH, 0, 16⟩
def LDG_SEGKJ_KJ : Fld := ⟨R.LDG_SEGKJ, 0, 32⟩
def LDG_NEXTB_LO_TB : Fld := ⟨R.LDG_NEXTB_LO, 0, 32⟩
def LDG_NEXTB_HI_TB : Fld := ⟨R.LDG_NEXTB_HI, 0, 32⟩
def LDG_EVSTAT_SAFEOCC : Fld := ⟨R.LDG_EVSTAT, 16, 13⟩
def LDG_EVSTAT_OCC : Fld := ⟨R.LDG_EVSTAT, 0, 13⟩
def LDG_LOST_COUNT : Fld := ⟨R.LDG_LOST, 0, 32⟩
def LDG_RINGDROP_COUNT : Fld := ⟨R.LDG_RINGDROP, 0, 32⟩
def LDG_ROUTE_DEF3 : Fld := ⟨R.LDG_ROUTE, 31, 1⟩
def LDG_ROUTE_DEF2 : Fld := ⟨R.LDG_ROUTE, 23, 1⟩
def LDG_ROUTE_DEF1 : Fld := ⟨R.LDG_ROUTE, 15, 1⟩
def LDG_ROUTE_DEF0 : Fld := ⟨R.LDG_ROUTE, 7, 1⟩
def LDG_ROUTE_RING3 : Fld := ⟨R.LDG_ROUTE, 24, 4⟩
def LDG_ROUTE_RING2 : Fld := ⟨R.LDG_ROUTE, 16, 4⟩
def LDG_ROUTE_RING1 : Fld := ⟨R.LDG_ROUTE, 8, 4⟩
def LDG_ROUTE_RING0 : Fld := ⟨R.LDG_ROUTE, 0, 4⟩
def LDG_KEY_WORD : Fld := ⟨R.LDG_KEY, 0, 32⟩
def LDG_KEYCTL_PROG : Fld := ⟨R.LDG_KEYCTL, 0, 1⟩
def SAFE_STAT_STATE : Fld := ⟨R.SAFE_STAT, 28, 4⟩
def SAFE_STAT_OUTCMD : Fld := ⟨R.SAFE_STAT, 24, 4⟩
def SAFE_STAT_OUTFLT : Fld := ⟨R.SAFE_STAT, 20, 4⟩
def SAFE_STAT_INJECTED : Fld := ⟨R.SAFE_STAT, 19, 1⟩
def SAFE_STAT_CAUSE : Fld := ⟨R.SAFE_STAT, 8, 8⟩
def SAFE_TRIP_TEMP : Fld := ⟨R.SAFE_TRIP, 20, 8⟩
def SAFE_TRIP_SPEED : Fld := ⟨R.SAFE_TRIP, 16, 4⟩
def SAFE_TRIP_VIB : Fld := ⟨R.SAFE_TRIP, 0, 16⟩
def SAFE_WARN_TEMP : Fld := ⟨R.SAFE_WARN, 20, 8⟩
def SAFE_WARN_SPEED : Fld := ⟨R.SAFE_WARN, 16, 4⟩
def SAFE_WARN_VIB : Fld := ⟨R.SAFE_WARN, 0, 16⟩
def SAFE_SENSF_TEMP : Fld := ⟨R.SAFE_SENSF, 20, 8⟩
def SAFE_SENSF_SPEED : Fld := ⟨R.SAFE_SENSF, 16, 4⟩
def SAFE_SENSF_VIB : Fld := ⟨R.SAFE_SENSF, 0, 16⟩
def SAFE_POLICY_OFF : Fld := ⟨R.SAFE_POLICY, 31, 1⟩
def SAFE_POLICY_TLIM : Fld := ⟨R.SAFE_POLICY, 8, 4⟩
def SAFE_POLICY_TWIN : Fld := ⟨R.SAFE_POLICY, 0, 8⟩
def SAFE_LEVELG_LEVEL : Fld := ⟨R.SAFE_LEVELG, 0, 32⟩
def SAFE_LEVELC_LEVEL : Fld := ⟨R.SAFE_LEVELC, 0, 16⟩
def SAFE_REACTMAX_US : Fld := ⟨R.SAFE_REACTMAX, 0, 16⟩
def SAFE_LINKERR_COUNT : Fld := ⟨R.SAFE_LINKERR, 0, 32⟩
def SAFE_SCRUB_COUNT : Fld := ⟨R.SAFE_SCRUB, 0, 32⟩
def SAFE_RESETS_COUNT : Fld := ⟨R.SAFE_RESETS, 0, 32⟩
def SAFE_INJECT_OUT : Fld := ⟨R.SAFE_INJECT, 12, 2⟩
def SAFE_INJECT_FAULT : Fld := ⟨R.SAFE_INJECT, 1, 11⟩
def OUT_STAT_AOEN : Fld := ⟨R.OUT_STAT, 28, 4⟩
def OUT_STAT_AOFAIL : Fld := ⟨R.OUT_STAT, 24, 4⟩
def OUT_STAT_AOOVR : Fld := ⟨R.OUT_STAT, 20, 4⟩
def OUT_STAT_DISAGREE : Fld := ⟨R.OUT_STAT, 0, 8⟩
def OUT_AO_CFG_RANGE : Fld := ⟨R.OUT_AO_CFG, 0, 3⟩
def OUT_AO_LO_BOUND : Fld := ⟨R.OUT_AO_LO, 0, 32⟩
def OUT_AO_HI_BOUND : Fld := ⟨R.OUT_AO_HI, 0, 32⟩
def OUT_AO_COMMIT_GO : Fld := ⟨R.OUT_AO_COMMIT, 0, 1⟩
def OUT_AO_VALUE_VALUE : Fld := ⟨R.OUT_AO_VALUE, 0, 16⟩
def OUT_AO_OVR_EN : Fld := ⟨R.OUT_AO_OVR, 31, 1⟩
def OUT_AO_OVR_VALUE : Fld := ⟨R.OUT_AO_OVR, 0, 16⟩
def OUT_AO_FAIL_TMO : Fld := ⟨R.OUT_AO_FAIL, 16, 16⟩
def OUT_AO_FAIL_FSAFE : Fld := ⟨R.OUT_AO_FAIL, 4, 1⟩
def OUT_AO_FAIL_FMODE : Fld := ⟨R.OUT_AO_FAIL, 0, 2⟩
def OUT_AO_STAT_DISAGREE : Fld := ⟨R.OUT_AO_STAT, 31, 1⟩
def OUT_AO_STAT_BREAK : Fld := ⟨R.OUT_AO_STAT, 30, 1⟩
def OUT_AO_STAT_OPEN : Fld := ⟨R.OUT_AO_STAT, 29, 1⟩
def OUT_AO_STAT_OVLD : Fld := ⟨R.OUT_AO_STAT, 28, 1⟩
def OUT_AO_STAT_DEV : Fld := ⟨R.OUT_AO_STAT, 27, 1⟩
def OUT_AO_STAT_FCAUSE : Fld := ⟨R.OUT_AO_STAT, 24, 3⟩
def OUT_AO_STAT_CODE : Fld := ⟨R.OUT_AO_STAT, 0, 16⟩
def OUT_AO_RBACK_VALUE : Fld := ⟨R.OUT_AO_RBACK, 0, 32⟩
def OUT_SOSTAT_ALL : Fld := ⟨R.OUT_SOSTAT, 0, 32⟩
def OUT_SOCUR_VH : Fld := ⟨R.OUT_SOCUR, 16, 16⟩
def OUT_SOCUR_MA : Fld := ⟨R.OUT_SOCUR, 0, 16⟩
def HOST_STAT_LINK : Fld := ⟨R.HOST_STAT, 28, 4⟩
def HOST_STAT_ENROL : Fld := ⟨R.HOST_STAT, 27, 1⟩
def HOST_STAT_SESS : Fld := ⟨R.HOST_STAT, 20, 4⟩
def HOST_STAT_BOUND : Fld := ⟨R.HOST_STAT, 16, 4⟩
def HOST_STAT_STOPPED : Fld := ⟨R.HOST_STAT, 12, 4⟩
def HOST_TSYNC_SYNCED : Fld := ⟨R.HOST_TSYNC, 31, 1⟩
def HOST_TSYNC_DOMAIN : Fld := ⟨R.HOST_TSYNC, 8, 8⟩
def HOST_TSYNC_SRC : Fld := ⟨R.HOST_TSYNC, 0, 2⟩
def HOST_TSRATE_PPB : Fld := ⟨R.HOST_TSRATE, 0, 32⟩
def HOST_RXDROP_COUNT : Fld := ⟨R.HOST_RXDROP, 0, 32⟩
def HOST_AUTHERR_COUNT : Fld := ⟨R.HOST_AUTHERR, 0, 32⟩
def HOST_STOPS_COUNT : Fld := ⟨R.HOST_STOPS, 0, 32⟩
def HOST_BULKPAUSE_COUNT : Fld := ⟨R.HOST_BULKPAUSE, 0, 32⟩
def HOST_PASS_REVOKE : Fld := ⟨R.HOST_PASS, 31, 1⟩
def HOST_PASS_HELD : Fld := ⟨R.HOST_PASS, 28, 1⟩
def HOST_PASS_HOLDER : Fld := ⟨R.HOST_PASS, 25, 3⟩
def HOST_PASS_REMAIN : Fld := ⟨R.HOST_PASS, 0, 16⟩
def HOST_PASSACQ_GO : Fld := ⟨R.HOST_PASSACQ, 31, 1⟩
def HOST_PASSACQ_REL : Fld := ⟨R.HOST_PASSACQ, 30, 1⟩
def HOST_PASSACQ_PASS : Fld := ⟨R.HOST_PASSACQ, 16, 3⟩
def HOST_PASSACQ_SECONDS : Fld := ⟨R.HOST_PASSACQ, 0, 16⟩
def HOST_JOBIRQ_RING : Fld := ⟨R.HOST_JOBIRQ, 0, 16⟩
def HOST_JR_BASE_PPN : Fld := ⟨R.HOST_JR_BASE, 0, 28⟩
def HOST_RR_BASE_PPN : Fld := ⟨R.HOST_RR_BASE, 0, 28⟩
def HOST_JR_CFG_EN : Fld := ⟨R.HOST_JR_CFG, 31, 1⟩
def HOST_JR_CFG_FWREAD : Fld := ⟨R.HOST_JR_CFG, 30, 1⟩
def HOST_JR_CFG_SIZEM1 : Fld := ⟨R.HOST_JR_CFG, 0, 12⟩
def HOST_RR_CFG_EN : Fld := ⟨R.HOST_RR_CFG, 31, 1⟩
def HOST_RR_CFG_FWREAD : Fld := ⟨R.HOST_RR_CFG, 30, 1⟩
def HOST_RR_CFG_SIZEM1 : Fld := ⟨R.HOST_RR_CFG, 0, 12⟩
def HOST_JR_HEAD_INDEX : Fld := ⟨R.HOST_JR_HEAD, 0, 12⟩
def HOST_RR_HEAD_INDEX : Fld := ⟨R.HOST_RR_HEAD, 0, 12⟩
def HOST_JR_TAIL_INDEX : Fld := ⟨R.HOST_JR_TAIL, 0, 12⟩
def HOST_RR_TAIL_INDEX : Fld := ⟨R.HOST_RR_TAIL, 0, 12⟩
def HOST_RR_FENCE_REQ : Fld := ⟨R.HOST_RR_FENCE, 0, 1⟩
def HOST_RR_FTAG_TAG : Fld := ⟨R.HOST_RR_FTAG, 0, 32⟩
def HOST_RR_FAUTO_US : Fld := ⟨R.HOST_RR_FAUTO, 0, 32⟩
def HOST_RR_SEQ_SEQ : Fld := ⟨R.HOST_RR_SEQ, 0, 32⟩
def HOST_QBV_CFG_EN : Fld := ⟨R.HOST_QBV_CFG, 31, 1⟩
def HOST_QBV_CFG_LEN : Fld := ⟨R.HOST_QBV_CFG, 0, 7⟩
def HOST_QBV_CYCLE_NS : Fld := ⟨R.HOST_QBV_CYCLE, 0, 32⟩
def HOST_QBV_BASE_LO_BASE : Fld := ⟨R.HOST_QBV_BASE_LO, 0, 32⟩
def HOST_QBV_BASE_HI_BASE : Fld := ⟨R.HOST_QBV_BASE_HI, 0, 32⟩
def HOST_QBV_COMMIT_GO : Fld := ⟨R.HOST_QBV_COMMIT, 0, 1⟩
def HOST_QBV_STAT_DISAGREE : Fld := ⟨R.HOST_QBV_STAT, 31, 1⟩
def HOST_QBV_STAT_ACTIVE : Fld := ⟨R.HOST_QBV_STAT, 30, 1⟩
def HOST_QBV_STAT_ENTRY : Fld := ⟨R.HOST_QBV_STAT, 0, 6⟩
def HOST_GCL_GATES : Fld := ⟨R.HOST_GCL, 24, 8⟩
def HOST_GCL_INTERVAL : Fld := ⟨R.HOST_GCL, 0, 24⟩
def CHN_STAT_ADDRVALID : Fld := ⟨R.CHN_STAT, 31, 1⟩
def CHN_STAT_ROOT : Fld := ⟨R.CHN_STAT, 30, 1⟩
def CHN_STAT_ROLL : Fld := ⟨R.CHN_STAT, 29, 1⟩
def CHN_STAT_TMASTER : Fld := ⟨R.CHN_STAT, 28, 1⟩
def CHN_STAT_TFOLLOW : Fld := ⟨R.CHN_STAT, 27, 1⟩
def CHN_STAT_TOPO : Fld := ⟨R.CHN_STAT, 24, 3⟩
def CHN_STAT_ROOTADDR : Fld := ⟨R.CHN_STAT, 12, 12⟩
def CHN_STAT_ADDR : Fld := ⟨R.CHN_STAT, 0, 12⟩
def CHN_CTL_ROLLNOW : Fld := ⟨R.CHN_CTL, 31, 1⟩
def CHN_CTL_TIMEEN : Fld := ⟨R.CHN_CTL, 30, 1⟩
def CHN_CTL_PORTEN : Fld := ⟨R.CHN_CTL, 24, 3⟩
def CHN_CTL_ROOTPRIO : Fld := ⟨R.CHN_CTL, 16, 8⟩
def CHN_CTL_FIXADDR : Fld := ⟨R.CHN_CTL, 0, 12⟩
def CHN_E2E_US : Fld := ⟨R.CHN_E2E, 0, 16⟩
def CHN_FWD_CARDS : Fld := ⟨R.CHN_FWD, 31, 1⟩
def CHN_FWD_SAFECARDS : Fld := ⟨R.CHN_FWD, 30, 1⟩
def CHN_FWD_LEDGER : Fld := ⟨R.CHN_FWD, 29, 1⟩
def CHN_FWD_COLLECT : Fld := ⟨R.CHN_FWD, 0, 12⟩
def CHN_DIRBASE_EN : Fld := ⟨R.CHN_DIRBASE, 31, 1⟩
def CHN_DIRBASE_PPN : Fld := ⟨R.CHN_DIRBASE, 0, 28⟩
def CHN_ARRMASK_LO_MASK : Fld := ⟨R.CHN_ARRMASK_LO, 0, 32⟩
def CHN_ARRMASK_HI_MASK : Fld := ⟨R.CHN_ARRMASK_HI, 0, 32⟩
def CHN_TIMEERR_NS : Fld := ⟨R.CHN_TIMEERR, 0, 32⟩
def CHN_UNREACH_COUNT : Fld := ⟨R.CHN_UNREACH, 0, 32⟩
def CHN_INDROP_COUNT : Fld := ⟨R.CHN_INDROP, 0, 32⟩
def CHN_E2EFAIL_COUNT : Fld := ⟨R.CHN_E2EFAIL, 0, 32⟩
def CHN_FWDDROP_COUNT : Fld := ⟨R.CHN_FWDDROP, 0, 32⟩
def CHN_MSGDST_KIND : Fld := ⟨R.CHN_MSGDST, 24, 8⟩
def CHN_MSGDST_VC : Fld := ⟨R.CHN_MSGDST, 16, 2⟩
def CHN_MSGDST_DEST : Fld := ⟨R.CHN_MSGDST, 0, 12⟩
def CHN_MSGSRC_LO_ADDR : Fld := ⟨R.CHN_MSGSRC_LO, 0, 32⟩
def CHN_MSGSRC_HI_ADDR : Fld := ⟨R.CHN_MSGSRC_HI, 0, 32⟩
def CHN_MSGLEN_GO : Fld := ⟨R.CHN_MSGLEN, 31, 1⟩
def CHN_MSGLEN_LEN : Fld := ⟨R.CHN_MSGLEN, 0, 11⟩
def CHN_MSGSTAT_BUSY : Fld := ⟨R.CHN_MSGSTAT, 31, 1⟩
def CHN_MSGSTAT_RESULT : Fld := ⟨R.CHN_MSGSTAT, 0, 4⟩
def CHN_IW_BASE_PPN : Fld := ⟨R.CHN_IW_BASE, 0, 28⟩
def CHN_IW_SIZE_PAGES : Fld := ⟨R.CHN_IW_SIZE, 0, 20⟩
def CHN_IW_CFG_EN : Fld := ⟨R.CHN_IW_CFG, 31, 1⟩
def CHN_IW_CFG_CTX : Fld := ⟨R.CHN_IW_CFG, 24, 3⟩
def CHN_RT_ALT : Fld := ⟨R.CHN_RT, 2, 2⟩
def CHN_RT_PRIMARY : Fld := ⟨R.CHN_RT, 0, 2⟩
def CHN_P_STAT_STATE : Fld := ⟨R.CHN_P_STAT, 29, 3⟩
def CHN_P_STAT_LANES : Fld := ⟨R.CHN_P_STAT, 24, 5⟩
def CHN_P_STAT_SPAREFOR : Fld := ⟨R.CHN_P_STAT, 20, 4⟩
def CHN_P_STAT_PARTNER : Fld := ⟨R.CHN_P_STAT, 0, 12⟩
def CHN_P_LANETH_ERRS : Fld := ⟨R.CHN_P_LANETH, 0, 16⟩
def CHN_P_DELAY_NS : Fld := ⟨R.CHN_P_DELAY, 0, 16⟩
def CHN_P_CRCERR_COUNT : Fld := ⟨R.CHN_P_CRCERR, 0, 32⟩
def CHN_P_REPLAY_COUNT : Fld := ⟨R.CHN_P_REPLAY, 0, 32⟩
def CHN_P_BUBLOST_COUNT : Fld := ⟨R.CHN_P_BUBLOST, 0, 32⟩
def CHN_P_LANEERR_COUNT : Fld := ⟨R.CHN_P_LANEERR, 0, 32⟩
def PWR_STAT_STATE : Fld := ⟨R.PWR_STAT, 28, 4⟩
def PWR_STAT_CIMON : Fld := ⟨R.PWR_STAT, 8, 4⟩
def PWR_STAT_DOMON : Fld := ⟨R.PWR_STAT, 0, 8⟩
def PWR_DOMCTL_RESULT : Fld := ⟨R.PWR_DOMCTL, 16, 3⟩
def PWR_DOMCTL_CIMOFF : Fld := ⟨R.PWR_DOMCTL, 4, 4⟩
def PWR_DOMCTL_LINKOFF : Fld := ⟨R.PWR_DOMCTL, 2, 1⟩
def PWR_DOMCTL_SIGOFF : Fld := ⟨R.PWR_DOMCTL, 1, 1⟩
def PWR_DOMCTL_DMEOFF : Fld := ⟨R.PWR_DOMCTL, 0, 1⟩
def PWR_RECESS_GO : Fld := ⟨R.PWR_RECESS, 31, 1⟩
def PWR_RECESS_RESULT : Fld := ⟨R.PWR_RECESS, 0, 4⟩
def PWR_WAKEEN_EN : Fld := ⟨R.PWR_WAKEEN, 0, 5⟩
def PWR_WAKECAUSE_CAUSE : Fld := ⟨R.PWR_WAKECAUSE, 0, 5⟩
def PWR_WAKETIME_LO_TB : Fld := ⟨R.PWR_WAKETIME_LO, 0, 32⟩
def PWR_WAKETIME_HI_TB : Fld := ⟨R.PWR_WAKETIME_HI, 0, 32⟩
def PWR_WAKEVEC0_ADDR : Fld := ⟨R.PWR_WAKEVEC0, 0, 32⟩
def PWR_WAKEVEC1_ADDR : Fld := ⟨R.PWR_WAKEVEC1, 0, 32⟩
def PWR_RSTCAUSE_CAUSE : Fld := ⟨R.PWR_RSTCAUSE, 0, 4⟩
def PWR_WDOG_EN : Fld := ⟨R.PWR_WDOG, 31, 1⟩
def PWR_WDOG_KICK : Fld := ⟨R.PWR_WDOG, 30, 1⟩
def PWR_WDOG_MS : Fld := ⟨R.PWR_WDOG, 0, 16⟩
def PWR_LBTIME_US : Fld := ⟨R.PWR_LBTIME, 0, 32⟩
def PWR_LBCOUNT_COUNT : Fld := ⟨R.PWR_LBCOUNT, 0, 32⟩
def CLK_STAT_LOCK : Fld := ⟨R.CLK_STAT, 31, 1⟩
def CLK_STAT_HOLDOVER : Fld := ⟨R.CLK_STAT, 30, 1⟩
def CLK_STAT_REFOK : Fld := ⟨R.CLK_STAT, 29, 1⟩
def CLK_STAT_THROT : Fld := ⟨R.CLK_STAT, 0, 4⟩
def CLK_UNLOCK_COUNT : Fld := ⟨R.CLK_UNLOCK, 0, 32⟩
def THM_STAT_WARN : Fld := ⟨R.THM_STAT, 31, 1⟩
def THM_STAT_THROT : Fld := ⟨R.THM_STAT, 30, 1⟩
def THM_STAT_HOTDIE : Fld := ⟨R.THM_STAT, 16, 3⟩
def THM_STAT_TJ : Fld := ⟨R.THM_STAT, 0, 16⟩
def THM_WARNTH_TH : Fld := ⟨R.THM_WARNTH, 0, 16⟩
def THM_TEMP_PEAK : Fld := ⟨R.THM_TEMP, 16, 16⟩
def THM_TEMP_NOW : Fld := ⟨R.THM_TEMP, 0, 16⟩
def THM_THROTMS_MS : Fld := ⟨R.THM_THROTMS, 0, 32⟩
def SYS_STRAP_DBGEN : Fld := ⟨R.SYS_STRAP, 0, 1⟩

end F

/-- The registers of the SYS block. -/
def regsSYS : List RegDesc :=
  [R.SYS_PARTID, R.SYS_UNITS, R.SYS_TIMEBASE_LO, R.SYS_TIMEBASE_HI, R.SYS_WALLTIME_LO, R.SYS_WALLTIME_HI, R.SYS_WALLOFS_LO, R.SYS_WALLOFS_HI, R.SYS_WALLSTAT, R.SYS_D2DSTAT] ++
  [R.SYS_D2DRETRY, R.SYS_STRAP]

/-- The registers of the BOOT block. -/
def regsBOOT : List RegDesc :=
  [R.BOOT_STAT, R.BOOT_SLOTRES, R.BOOT_GENA, R.BOOT_GENB, R.BOOT_ROLLBACK, R.BOOT_LOADUS, R.BOOT_CTRL, R.BOOT_REVOKE, R.BOOT_UPDRES, R.BOOT_UNITID_LO] ++
  [R.BOOT_UNITID_HI, R.BOOT_CONFLEFT, R.BOOT_BUILDID]

/-- The registers of the MEM block. -/
def regsMEM : List RegDesc :=
  [R.MEM_CTL, R.MEM_STAT, R.MEM_SPLITAM, R.MEM_SPLITPSM, R.MEM_SPLITWBM, R.MEM_SPLITCOL, R.MEM_ECCCOR, R.MEM_ECCUNC, R.MEM_ECCADDR_LO, R.MEM_ECCADDR_HI] ++
  [R.MEM_TAGERR, R.MEM_TAGFAIL, R.MEM_REPAIR, R.MEM_REPSTAT, R.MEM_L1CFG, R.MEM_WBMCACHE, R.MEM_WBMHIT, R.MEM_WBMMISS, R.MEM_CR_BASE, R.MEM_CR_SIZE] ++
  [R.MEM_CR_CFG, R.MEM_CR_HEAD, R.MEM_CR_TAIL, R.MEM_CR_RELEASE, R.MEM_CR_ARRIVE, R.MEM_CR_LOST, R.MEM_CONFBANK, R.MEM_CONFPORT]

/-- The registers of the MMU block. -/
def regsMMU : List RegDesc :=
  [R.MMU_INVAL, R.MMU_INVADDR, R.MMU_RESUME, R.MMU_FTIMEOUT, R.MMU_FSTAT, R.MMU_CTX_CFG, R.MMU_CTX_PTBASE, R.MMU_CTX_TDTBASE, R.MMU_CTX_TDTCNT, R.MMU_CTX_BELLS] ++
  [R.MMU_CTX_FQBASE, R.MMU_CTX_VIOL, R.MMU_CTX_VCAPADDR, R.MMU_CTX_VCAPINFO]

/-- The registers of the ENG block. -/
def regsENG : List RegDesc :=
  [R.ENG_S_STAT, R.ENG_S_PC, R.ENG_S_HALT, R.ENG_S_HALTPC, R.ENG_S_BCNT, R.ENG_S_STOP, R.ENG_S_CTL, R.ENG_MARK, R.ENG_BELL, R.ENG_BELLSET] ++
  [R.ENG_C_SDESC, R.ENG_C_SGO, R.ENG_C_SSTAT, R.ENG_TSTART]

/-- The registers of the CIM blocks. -/
def regsCIM : List RegDesc :=
  [R.CIM_CTL, R.CIM_CSTOL, R.CIM_STAT, R.CIM_EXPLO, R.CIM_EXPHI, R.CIM_SKIP, R.CIM_RES, R.CIM_CSFIX, R.CIM_CSFAIL, R.CIM_CSSKIP] ++
  [R.CIM_GCSERR, R.CIM_SAT, R.CIM_LT_GEOM, R.CIM_LT_COLS, R.CIM_LT_FUNC, R.CIM_LT_WIDE, R.CIM_LT_PARAM, R.CIM_LT_TABLE]

/-- The registers of the CIMP blocks. -/
def regsCIMP : List RegDesc :=
  [R.CIMP_CTL, R.CIMP_STAT, R.CIMP_RINGBASE, R.CIMP_RINGCFG, R.CIMP_HEAD, R.CIMP_TAIL, R.CIMP_SWITCH, R.CIMP_DRIFT, R.CIMP_DARK, R.CIMP_WEAR] ++
  [R.CIMP_STATCFG, R.CIMP_STATROWS, R.CIMP_STATDST, R.CIMP_PULSES, R.CIMP_STUCKNEW, R.CIMP_REPAIRS, R.CIMP_RETIRED]

/-- The registers of the DME blocks. -/
def regsDME : List RegDesc :=
  [R.DME_CTL, R.DME_STAT, R.DME_CLIPLO, R.DME_CLIPHI, R.DME_TABLE, R.DME_CSTOL, R.DME_EPS, R.DME_TILES, R.DME_RESWAIT, R.DME_XPWAIT] ++
  [R.DME_CSFIX, R.DME_CSFAIL, R.DME_CSSKIP, R.DME_OPTNF]

/-- The registers of the ACQ block. -/
def regsACQ : List RegDesc :=
  [R.ACQ_STAT, R.ACQ_BIASTH, R.ACQ_BSETTLE, R.ACQ_SUPPLY, R.ACQ_SUPTH, R.ACQ_SPWAKE, R.ACQ_VCH_CFG, R.ACQ_AE_CFG, R.ACQ_SP_CFG, R.ACQ_SL_CFG] ++
  [R.ACQ_DP_CFG, R.ACQ_VCH_COMMIT, R.ACQ_AE_COMMIT, R.ACQ_SP_COMMIT, R.ACQ_SL_COMMIT, R.ACQ_DP_COMMIT, R.ACQ_ST_COMMIT, R.ACQ_VCH_STAT, R.ACQ_AE_STAT, R.ACQ_SP_STAT] ++
  [R.ACQ_SL_STAT, R.ACQ_DP_STAT, R.ACQ_SP_EDGES, R.ACQ_SL_WAKE, R.ACQ_SL_WTH, R.ACQ_SLOT_CMD, R.ACQ_SLOT_VMASK, R.ACQ_SLOT_VVAL, R.ACQ_SLOT_SEL, R.ACQ_ST_CTL] ++
  [R.ACQ_ST_MEMB0, R.ACQ_ST_MEMB1, R.ACQ_ST_MEMB2, R.ACQ_ST_PERIOD, R.ACQ_ST_REGION, R.ACQ_ST_STAT, R.ACQ_ST_FRAME, R.ACQ_ST_OVR]

/-- The registers of the SIG block. -/
def regsSIG : List RegDesc :=
  [R.SIG_STAT, R.SIG_EPS, R.SIG_BUILDS, R.SIG_BANKREL, R.SIG_ST_ORD, R.SIG_ST_EPR, R.SIG_ST_TBASE, R.SIG_ST_COMMIT, R.SIG_ST_CTL, R.SIG_ST_STAT] ++
  [R.SIG_ST_FITF, R.SIG_ST_FITA, R.SIG_MARK]

/-- The registers of the STO block. -/
def regsSTO : List RegDesc :=
  [R.STO_CTL, R.STO_STAT, R.STO_BUSY, R.STO_RINGBASE, R.STO_RINGCFG, R.STO_HEAD, R.STO_TAIL, R.STO_WEARLIM, R.STO_WEARWARN, R.STO_WARNADDR] ++
  [R.STO_CORRBITS, R.STO_UNCORR, R.STO_BLANK, R.STO_BUSYERR, R.STO_RELOC, R.STO_BANK]

/-- The registers of the LDG block. -/
def regsLDG : List RegDesc :=
  [R.LDG_CTL, R.LDG_STAT, R.LDG_TOVR, R.LDG_LSEQ, R.LDG_OLDEST, R.LDG_CARDNO, R.LDG_EPOCH, R.LDG_SEGKJ, R.LDG_NEXTB_LO, R.LDG_NEXTB_HI] ++
  [R.LDG_EVSTAT, R.LDG_LOST, R.LDG_RINGDROP, R.LDG_ROUTE, R.LDG_KEY, R.LDG_KEYCTL]

/-- The registers of the SAFE block. -/
def regsSAFE : List RegDesc :=
  [R.SAFE_STAT, R.SAFE_TRIP, R.SAFE_WARN, R.SAFE_SENSF, R.SAFE_POLICY, R.SAFE_LEVELG, R.SAFE_LEVELC, R.SAFE_REACTMAX, R.SAFE_LINKERR, R.SAFE_SCRUB] ++
  [R.SAFE_RESETS, R.SAFE_INJECT]

/-- The registers of the OUT block. -/
def regsOUT : List RegDesc :=
  [R.OUT_STAT, R.OUT_AO_CFG, R.OUT_AO_LO, R.OUT_AO_HI, R.OUT_AO_COMMIT, R.OUT_AO_VALUE, R.OUT_AO_OVR, R.OUT_AO_FAIL, R.OUT_AO_STAT, R.OUT_AO_RBACK] ++
  [R.OUT_SOSTAT, R.OUT_SOCUR]

/-- The registers of the HOST block. -/
def regsHOST : List RegDesc :=
  [R.HOST_STAT, R.HOST_TSYNC, R.HOST_TSRATE, R.HOST_RXDROP, R.HOST_AUTHERR, R.HOST_STOPS, R.HOST_BULKPAUSE, R.HOST_PASS, R.HOST_PASSACQ, R.HOST_JOBIRQ] ++
  [R.HOST_JR_BASE, R.HOST_RR_BASE, R.HOST_JR_CFG, R.HOST_RR_CFG, R.HOST_JR_HEAD, R.HOST_RR_HEAD, R.HOST_JR_TAIL, R.HOST_RR_TAIL, R.HOST_RR_FENCE, R.HOST_RR_FTAG] ++
  [R.HOST_RR_FAUTO, R.HOST_RR_SEQ, R.HOST_QBV_CFG, R.HOST_QBV_CYCLE, R.HOST_QBV_BASE_LO, R.HOST_QBV_BASE_HI, R.HOST_QBV_COMMIT, R.HOST_QBV_STAT, R.HOST_GCL]

/-- The registers of the CHN block. -/
def regsCHN : List RegDesc :=
  [R.CHN_STAT, R.CHN_CTL, R.CHN_E2E, R.CHN_FWD, R.CHN_DIRBASE, R.CHN_ARRMASK_LO, R.CHN_ARRMASK_HI, R.CHN_TIMEERR, R.CHN_UNREACH, R.CHN_INDROP] ++
  [R.CHN_E2EFAIL, R.CHN_FWDDROP, R.CHN_MSGDST, R.CHN_MSGSRC_LO, R.CHN_MSGSRC_HI, R.CHN_MSGLEN, R.CHN_MSGSTAT, R.CHN_IW_BASE, R.CHN_IW_SIZE, R.CHN_IW_CFG] ++
  [R.CHN_RT, R.CHN_P_STAT, R.CHN_P_LANETH, R.CHN_P_DELAY, R.CHN_P_CRCERR, R.CHN_P_REPLAY, R.CHN_P_BUBLOST, R.CHN_P_LANEERR]

/-- The registers of the PWR block. -/
def regsPWR : List RegDesc :=
  [R.PWR_STAT, R.PWR_DOMCTL, R.PWR_RECESS, R.PWR_WAKEEN, R.PWR_WAKECAUSE, R.PWR_WAKETIME_LO, R.PWR_WAKETIME_HI, R.PWR_WAKEVEC0, R.PWR_WAKEVEC1, R.PWR_RSTCAUSE] ++
  [R.PWR_WDOG, R.PWR_LBTIME, R.PWR_LBCOUNT]

/-- The registers of the CLK block. -/
def regsCLK : List RegDesc :=
  [R.CLK_STAT, R.CLK_UNLOCK]

/-- The registers of the THM block. -/
def regsTHM : List RegDesc :=
  [R.THM_STAT, R.THM_WARNTH, R.THM_TEMP, R.THM_THROTMS]

/-- The registers of register block `b` (Table 03-2). -/
def blockRegs (b : Nat) : List RegDesc :=
  match b with
  | 0 => regsSYS | 1 => regsPWR | 2 => regsCLK | 3 => regsBOOT | 4 => regsMEM | 5 => regsMMU | 6 => regsENG | 7 => regsTHM
  | 8 | 9 | 10 | 11 => regsCIM
  | 12 | 13 | 14 | 15 => regsCIMP
  | 16 | 17 | 18 | 19 | 20 | 21 | 22 | 23 => regsDME
  | 24 => regsSIG | 25 => regsACQ | 26 => regsOUT | 27 => regsSAFE | 28 => regsSTO | 29 => regsLDG | 30 => regsHOST
  | 31 => regsCHN
  | _ => []

/-- The base of the register region (R79). -/
def regBase : Nat := 0x0200000000

/-- The register that lies at a physical address, with its instance. -/
def findReg (a : Nat) : Option (RegDesc × Nat × Nat) :=
  if a < regBase ∨ regBase + 0x0020_0000 ≤ a then none
  else (blockRegs ((a - regBase) / 0x10000)).findSome? (fun r => (r.index a).map (fun ij => (r, ij.1, ij.2)))

/-- The reset value of the register at an address; 0 where no register lies. -/
def regReset (a : Nat) : Word :=
  match findReg a with
  | some (r, _, _) => r.reset
  | none => 0

end Sys2Proof.Machine
end

