-- ==== Sys2Proof/Machine/Sparse.lean ====
section
/-! DEFINITION. Sparse tables: a list of keys and values in ONE canonical form (keys strictly rising, no entry equal to
what an unlisted key reads as). Memory, the register file and the storage array are held so. -/

namespace Sys2Proof.Machine.Sparse

variable {α : Type} [DecidableEq α]

/-- The value at a key: `d` says what an unlisted key reads as. -/
def get (d : Nat → α) : List (Nat × α) → Nat → α
  | [], k => d k
  | (k', v) :: t, k => if k = k' then v else get d t k

/-- The table without the entries of a key: it reads as unlisted. -/
def drop (l : List (Nat × α)) (k : Nat) : List (Nat × α) := l.filter (fun e => e.1 != k)

/-- An entry put in front of the first greater key. -/
def insert : List (Nat × α) → Nat → α → List (Nat × α)
  | [], k, v => [(k, v)]
  | e :: t, k, v => if k < e.1 then (k, v) :: e :: t else e :: insert t k v

/-- The table with the value at a key replaced; writing what an unlisted key reads as removes the entry. -/
def put (d : Nat → α) (l : List (Nat × α)) (k : Nat) (v : α) : List (Nat × α) :=
  if v = d k then drop l k else insert (drop l k) k v

/-- Every key from `lo` on rises strictly and no entry is what it would read as unlisted. -/
def wfFrom (d : Nat → α) : Nat → List (Nat × α) → Bool
  | _, [] => true
  | lo, (k, v) :: t => decide (lo ≤ k) && decide (v ≠ d k) && wfFrom d (k + 1) t

/-- The canonical form. -/
def wf (d : Nat → α) (l : List (Nat × α)) : Bool := wfFrom d 0 l

/-- The table without the entries whose key satisfies `p`: those keys read as unlisted. -/
def clear (p : Nat → Bool) (l : List (Nat × α)) : List (Nat × α) := l.filter (fun e => !p e.1)

end Sys2Proof.Machine.Sparse
end

