-- ==== Sys2Proof/Machine/State.lean ====
section
/-! DEFINITION. The state of the device as plain data: everything the spec gives the machine, and the queue of waiting
commands. The reasons a step can stop. The state right after power-on reset. -/

namespace Sys2Proof.Machine

/-- The reasons a step could stop with a fault. -/
inductive Fault where
  /-- Raised by no meaning: the spec gives every command of the table an effect. Safe (the machine would stop where the
  device goes on). -/
  | noEffect
deriving DecidableEq, Repr

/-- The reasons a step could be refused. -/
inductive Refusal where
  /-- Raised by the arm of a command that has no meaning yet. Safe: no claim about the command can be proved from it. -/
  | notModelled (mnemonic : String)
deriving DecidableEq, Repr

/-- The outcome of a command. -/
abbrev Out (σ : Type) := Host.Outcome σ Fault Refusal

/-! ### Memory (spec/03) -/

/-- The SRAM contents by physical address (R79, R82), the check tags (R110) and the words that fail their check bits
(R83). `cells` and the other three lists are in the canonical form of Sparse. -/
structure Memory where
  cells : List Host.Cell          -- a byte not listed reads 0 (R84)
  tagX : List (Nat × Word)        -- by block number: stored check tag XOR the CRC-32C of the contents; 0 = verifies
  bad : List (Nat × Bool)         -- by block number: the BAD flag (R112)
  eccBad : List (Nat × Bool)      -- by 8-byte word number: uncorrectable until next written (R83, R107)
deriving DecidableEq, Repr

/-- A 128-byte line of a DME core's L1 cache (R92). -/
structure L1Line where
  addr : Nat
  data : List Byte
  dirty : Bool
  locked : Bool
  inval : Bool                    -- to be dropped when it unlocks (R254)
deriving DecidableEq, Repr

/-- An arrival into a circular region between its start and its completion (R101, R594). -/
structure Arrival where
  unit : Nat                      -- Table 04-6 code of its producer
  tag : Nat                       -- which arrival of that producer
  start : Nat
  len : Nat                       -- reserved bytes, a multiple of 256
  done : Bool                     -- every byte and tag visible
  abandoned : Bool
  window : Bool                   -- an acquisition window that is still open
deriving DecidableEq, Repr

/-- What a circular region holds beside its registers (R104, R594). -/
structure Region where
  res : Nat                       -- reservation point RES
  opened : List Arrival           -- started and not yet completed, in the order of their starts
  waiting : List (Nat × Nat × Nat)  -- producers waiting to start, in the order they began to wait: unit, tag, length
  clearing : Bool                 -- EN = 0 written, arrivals still open
deriving DecidableEq, Repr

def Region.idle : Region := ⟨0, [], [], false⟩

/-- The memory system beside the SRAM itself. -/
structure MemSys where
  l1 : List (Nat × List L1Line)   -- by DME core: cache lines, most recently used first
  l1resize : List (Nat × Nat)     -- by DME core: the CACHE value a resize in progress takes, plus 1
  wbmLines : List Nat             -- shared read cache: line addresses, most recently used first (R95)
  regions : List (Nat × Region)
  loss : List (Nat × Nat)         -- by bank * 8 + port: consecutive bank slots lost (R88)
  lastPort : List (Nat × Nat)     -- by bank: the port granted last, plus 1
  fuseRows : List (Nat × Nat × Nat)   -- rows mapped to spares by fuses: memory, bank, row (R107)
  fieldRows : List (Nat × Nat × Nat)  -- rows repaired in the field; cleared by a restart only (R109)
  repair : Option (Nat × Nat × Nat)   -- the repair in progress
deriving DecidableEq, Repr

/-! ### Contexts and translation (spec/04) -/

/-- A translation held by a TLB (R135). -/
structure TlbEntry where
  ctx : Nat
  vpn : Nat                       -- VA[39:12]; for a 2 MiB page VA[39:21] followed by nine 0 bits
  big : Bool
  ppn : Nat                       -- page address [39:12]
  r : Bool
  w : Bool
  p : Bool
deriving DecidableEq, Repr

/-- An instruction suspended on a fault (R138): its resume record is entry `index` of its context's fault queue. -/
structure Susp where
  ctx : Nat
  index : Nat
  unit : Nat
  cls : Nat
  origin : Nat
  slot : Nat                      -- SLOT, HANDLE and VADDR of its record
  handle : Nat
  vaddr : Nat
deriving DecidableEq, Repr

structure Mmu where
  tlbs : List (Nat × List TlbEntry)   -- by unit code, most recently used first, at most 64
  susps : List Susp
  invalBusy : Option (Nat × Nat × Nat)  -- SCOPE, CTX, VPN of the invalidation in progress
deriving DecidableEq, Repr

/-! ### Engine programs (spec/05) -/

/-- A start descriptor (Table 05-2) with the context of its requester. -/
structure Start where
  ctx : Nat
  prog : Nat
  tag : Nat
  stream : Nat
  cls : Nat
  ring : Nat
  hold : Bool
  bcast : Bool
  cmask : Nat
deriving DecidableEq, Repr

/-- A fetched bundle (R158): its header and its present slots by position. -/
structure Bundle where
  pc : Nat
  header : Nat
  slots : List (Nat × Nat)
deriving DecidableEq, Repr

/-- An operation in flight. -/
structure OpRun where
  slot : Nat                      -- slot position, 2 or 4
  opc : Nat
  ha : Nat
  hb : Nat
  hc : Nat
  fmt : Nat
  mod : Nat
  arg : Option Nat
  started : Bool                  -- its unit has begun it
  step : Nat                      -- steps completed (R143)
  nsteps : Nat
  finished : Bool
  staged : List (Nat × Nat × List Byte)  -- results held for the final commit step: handle, byte offset in element order, bytes
  sums : List Int                 -- running sums in the output stage's accumulator set of the class (R145)
  acc : List (Nat × List Int)     -- further running results, by what its chapter says
  note : List Nat                 -- progress its chapter describes
deriving DecidableEq, Repr

/-- What an access is for. -/
inductive Acc3 where
  | read | write | fetch
deriving DecidableEq, Repr

/-- How one page answers an access: a physical page, or a violation of a kind (R134, R137). -/
inductive PageAns where
  | page (ppn : Nat)
  | viol (kind : Nat)
deriving DecidableEq, Repr

/-- Pages that an instruction has translated: virtual page, purpose, answer. -/
abbrev PageMap := List (Nat × Acc3 × PageAns)

/-- Where a running program stands in Table 05-8. -/
inductive Phase where
  | fetch | waiting | ready | issued | opsDone | redDone | ctrlDone
deriving DecidableEq, Repr

/-- A program on a stream: running, or in its class's save slot (R151, R147). -/
structure Prog where
  start : Start
  began : Bool                    -- header checked (R156)
  beginTb : Option Nat
  length : Nat
  timed : Bool
  pinres : Nat
  marktype : Nat
  pc : Nat
  bcnt : Nat
  marks : List Word               -- 16
  expect : List Nat               -- 8 expect counters
  phase : Phase
  bundle : Option Bundle
  w0 : Bool                       -- wait 0 of the bundle latched
  w1 : Bool
  iter : Nat                      -- RPT iteration
  ops : List OpRun
  descs : List (Nat × List Byte)  -- descriptor cache (R169)
  markWr : List (Nat × Word)      -- mark writes to perform at commit
  expWr : List (Nat × Nat)
  branch : Option Nat             -- the PC a taken branch led to, while its bundle is the current one
  ending : Bool                   -- the bundle's CTRL slot is END
  delay : Nat                     -- end of the CTRL DELAY in progress: its cycle plus 1
  susp : Bool                     -- suspended on a fault
  lastIssue : Nat                 -- TIMEBASE of the previous issue
  group : Bool                    -- member of a running timed group
  broken : Bool                   -- its timed group broke: halts with 0x14 at the next bundle boundary (R177)
  readyTb : Nat                   -- TIMEBASE at which the bundle's waits were satisfied
  resident : Bool                 -- DME: the operands of the iteration are resident (R250)
  maps : List (Nat × PageMap)     -- DME: pages of the operands of the iteration, by core
  ahead : Option Bundle           -- timed mode: the next bundle, fetched while the current one runs (R152)
  behind : List Bundle            -- timed mode: bundles issued behind the current one (R175)
deriving DecidableEq, Repr

/-- A completion record waiting for ring space (Table 05-4). -/
structure Completion where
  ctx : Nat
  ring : Nat
  bytes : List Byte
deriving DecidableEq, Repr

structure Stream where
  run : Option Prog
  queue : List Start              -- all classes, in arrival order
  saved : List Prog               -- save slots, at most one per class
  halted : Nat                    -- bit c: context c halted (R182)
  held : List Start               -- starts held for a timed group
  released : Bool                 -- a held start released by ENG_TSTART begins at the next PROGRAM_BEGIN
  compl : List Completion         -- completion records not yet committed, oldest first
  follows : Option Nat            -- leader of the broadcast this core follows
  lastPc : Nat                    -- PC, bundle count and marks of the last program, once none runs
  lastBcnt : Nat
  lastMarks : List Word
deriving DecidableEq, Repr

def Stream.idle : Stream := ⟨none, [], [], 0, [], false, [], none, 0, 0, []⟩

/-! ### Storage array (spec/13) -/

/-- A logical sector (R386, R390): its state (Table 13-6), the erase count of its physical sector, the spare it lies on. -/
structure Sector where
  state : Nat
  count : Nat
  spare : Option Nat
deriving DecidableEq, Repr

def Sector.fresh : Sector := ⟨0, 0, none⟩

/-- A ring entry that the controller has read and not finished (Table 13-3). -/
structure StoEntry where
  idx : Nat
  op : Nat
  flags : Nat
  count : Nat
  saddr : Nat
  maddr : Nat
  doneCnt : Nat
  corrBits : Nat
  corrMax : Nat
  reloc : Nat
  blankW : Nat
  started : Bool                  -- its current step runs in its bank
  susp : Bool                     -- suspended on a fault
deriving DecidableEq, Repr

structure Storage where
  cells : List Host.Cell          -- by storage offset; a byte not listed reads 0xFF (erased, R375)
  wordErr : List (Nat × Nat)      -- by word number: bits a read corrects, 3 = uncorrectable; unlisted 0
  sectors : List (Nat × Sector)   -- by sector number (offset / 4096)
  spareUsed : List (Nat × Nat)    -- spares taken, bank and spare number
  dirtySpares : List (Nat × Nat)  -- spares partly programmed and to be erased (R393)
  pendErase : List Nat            -- pending-erase records: sectors (R394)
  active : List StoEntry          -- ring order
  readPos : List (Nat × Nat)      -- by bank: the block number that continues its read position, plus 1 (R377)
  warnTb : List (Nat × Nat)       -- by bank: cycle of its last correction card, plus 1 (R376)
deriving DecidableEq, Repr

/-! ### Report cards (spec/14) -/

/-- A report card (Table 14-6): its 64 bytes, SEQ and CARDNO included. -/
structure Card where
  safety : Bool
  ctx : Nat                       -- 0xFF for none
  bytes : List Byte
deriving DecidableEq, Repr

structure EventRing where
  cards : List Card               -- oldest first, at most 4,096
  waitingSafety : List Card       -- safety cards that found no free entry
  draining : Option Card          -- the card being written to the event log; its entry is freed when that is done (R416)
  dropFirst : Nat                 -- ORIGIN of the first card dropped and not yet reported
  dropLast : Nat
  dropCount : Nat
deriving DecidableEq, Repr

/-! ### Result rings (spec/17) -/

/-- A host's cursor on a result ring: next entry to release, and entries between it and HEAD (R481). -/
structure Cursor where
  host : Nat
  index : Nat
  dist : Nat
deriving DecidableEq, Repr

/-- A fence that waits (R36, R481). -/
structure FenceReq where
  auto : Bool
  tag : Nat
deriving DecidableEq, Repr

/-- What a result ring holds beside its registers. -/
structure Ring where
  fwDist : Nat                    -- entries between the firmware cursor and HEAD
  cursors : List Cursor
  fences : List FenceReq
  lastF : Nat                     -- F of the last fence committed
  autoBase : Nat                  -- cycle the automatic fence grid counts from
deriving DecidableEq, Repr

def Ring.idle : Ring := ⟨0, [], [], 0, 0⟩

/-- What the block last answered to a requester, and what it has sent out of its ports. -/
structure Resp where
  error : Bool                    -- the requester saw an access fault or an error status
  data : List Byte
deriving DecidableEq, Repr

/-- A message the block has sent: the port (Table 14-6 unit kinds and numbers), what it is, its bytes. -/
structure Tx where
  port : Nat
  kind : Nat
  bytes : List Byte
deriving DecidableEq, Repr

/-! ### Shunto link (spec/18) -/

/-- A segment (R513): its virtual channel, the 56 bytes of its header BODY, the bodies of its data flits. -/
structure Seg where
  vc : Nat
  body : List Byte
  data : List (List Byte)
deriving DecidableEq, Repr

/-- A segment of this device whose completion is outstanding (R517). -/
structure Flight where
  owner : Nat                     -- stream * 8 + class of the COPY; 0x100 for a message
  xfer : Nat
  ofs : Nat
  seg : Seg
  sentTb : Nat
  resent : Bool
deriving DecidableEq, Repr

/-- An arrival that comes in over the link (R516). -/
structure RxArrival where
  src : Nat
  xfer : Nat
  region : Nat
  tag : Nat
  start : Nat
  tlen : Nat
  got : List (Nat × Nat)          -- the segments written: offset and length
deriving DecidableEq, Repr

/-- What a Shunto port holds beside its registers. -/
structure Port where
  queue : List Seg                -- segments waiting to be sent, oldest first
  sending : List (Nat × List (Nat × Nat × List Byte))  -- by VC: the flits left of the segment being sent: KIND, LAST, BODY
  unacked : List (Nat × List Byte)  -- numbered flits sent and not acknowledged: number, bytes 0 and 4 to 59
  replayFrom : Option Nat         -- the number to resend from
  replayNo : Nat                  -- the flit number last replayed
  replays : Nat                   -- replays of that number in a row
  nextNo : Nat
  rxCount : Nat                   -- numbered flits accepted, modulo 2^16
  nak : Bool                      -- a NAK is to be sent
  credits : List Nat              -- by VC
  owed : List Nat                 -- by VC: credits to return
  rx : List (Nat × List (Nat × List Byte))  -- by VC: the flits received of an incomplete segment: KIND, BODY
  segs : List Seg                 -- segments received whole for this device
  trainings : List Nat            -- cycles at which the port had to train again
  starve1 : Nat                   -- flit times since VC1 last won while it had a flit and a credit
  starve3 : Nat
deriving DecidableEq, Repr

def Port.fresh : Port := ⟨[], [], [], none, 0, 0, 0, 0, false, [32, 64, 512, 416], [0, 0, 0, 0], [], [], [], 0, 0⟩

structure Chn where
  ports : List (Nat × Port)
  flights : List Flight
  nextXfer : Nat
  arrivals : List RxArrival
  record : List (Nat × Nat)       -- the directory: address and unit identity
  fwd : List (List Byte)          -- forwarded records that have not left (R520)
  conf : List Byte                -- the applied CHAIN profile
  claims : List (Nat × Nat × Nat) -- the claims known in the roll call that runs: ROOTPRIO, unit identity, address plus 1 (R506)
deriving DecidableEq, Repr

/-! ### Weight tiles (spec/06, spec/07) -/

/-- A calibration record (Table 07-8). -/
structure CalRec where
  offs0 : Int
  gain0 : Nat
  temp : Nat
  ecount : Nat
  trim : List Byte
  crcBad : Bool
deriving DecidableEq, Repr

/-- A physical deck of a tile: its levels, live correction, and what the tile's records hold of it (Tables 07-1 to 07-3). -/
structure DeckRec where
  cells : List (Nat × Nat)        -- by row * 544 + column: the level held; unlisted 0, as erased
  offs : Int                      -- OFFS and GAIN (R202)
  gain : Nat
  state : Nat
  wfmt : Nat
  refresh : Bool
  erases : Nat
  drift : Nat
  driftKept : Nat                 -- the DRIFT last persisted (R229)
  tagpfx : Nat
  block : Nat
  cal : CalRec
  calTb : Nat                     -- TIMEBASE at which the calibration record was written
  late : Nat                      -- late refreshes (R230)
deriving DecidableEq, Repr

def DeckRec.fresh : DeckRec := ⟨[], 0, 0, 0, 0, false, 0, 0, 0, 0, 0, ⟨0, 0, 0, 0, List.replicate 132 0, false⟩, 0, 0⟩

/-- A defect entry (Table 07-6). -/
structure Defect where
  kind : Nat
  deck : Nat
  col : Nat
  row : Nat
  spare : Nat
  stuck : Nat
  target : Nat
deriving DecidableEq, Repr

structure Tile where
  lmap : List Nat
  pmap : List Nat
  decks : List (Nat × DeckRec)
  role : Nat
  pos : Nat
  select : Nat                    -- physical deck selected, 0xFF for none
  stopped : Bool                  -- its position is unavailable until the switch (R240, R241)
  defects : List Defect
  driftTb : Nat                   -- TIMEBASE at which DRIFT was last persisted, plus 1
deriving DecidableEq, Repr

/-- Physical tile `t` of a die as it leaves the factory (R215 to R217). -/
def Tile.fresh (t : Nat) : Tile :=
  ⟨List.replicate 8 0xFF, List.replicate 8 0xFF, [], if t % 72 < 64 then 0 else 1, if t % 72 < 64 then t % 72 else 0xFF, 0xFF, false,
   [], 0⟩

/-- A command of a tile programming unit that has been read and not finished (Table 07-4), or one of the unit's own (R219). -/
structure TileCmd where
  idx : Option Nat                -- its ring entry; none for the unit's own
  op : Nat
  tile : Nat
  deck : Nat
  arg : Nat
  src : Nat
  block : Nat
  tagpfx : Nat
  rsvd : Bool                     -- a reserved field is not zero
  running : Bool
  step : Nat
  count : Nat                     -- new stuck cells, or cells pulsed
  out : Bool                      -- its tile has left the darkroom for a slot (R231)
  susp : Bool                     -- suspended on a fault (R218)
  sums : List Int                 -- sums of the calibration fit; then failures in a row by segment (R232)
  trim : List Byte                -- converter trims found so far
deriving DecidableEq, Repr

/-- The statistics unit of a die while it accumulates (R237): MVMs counted, and its 14 sums. -/
structure StatAcc where
  n : Nat
  sums : List Int
deriving DecidableEq, Repr

structure Cim where
  tiles : List (Nat × Tile)       -- by die * 1152 + physical tile
  lsel : List (Nat × Nat)         -- by die * 1024 + group * 64 + position: selected logical deck; unlisted 0
  recs : List (Nat × List (Nat × Nat))  -- by stream * 8 + class: selections at the class's last save (R207)
  exhausted : List Nat            -- die * 16 + group: retired with spares exhausted (R241)
  cmds : List (Nat × List TileCmd)  -- by die, in the order read
  retiring : List (Nat × Nat × Nat)  -- die, retired tile, spare: pending the switch (R240)
  stats : List (Nat × StatAcc)    -- by die
deriving DecidableEq, Repr

/-! ### Acquisition and the signal engine (spec/10, spec/11) -/

/-- A sample or edge that has reached the stream logic: its time at the ball, its code, value or word, and its flags of Table
10-6. -/
structure Sample where
  t : Nat
  v : Nat
  flags : Nat
deriving DecidableEq, Repr

/-- What a channel's front end holds beside its registers. -/
structure Chan where
  cfg : List (Nat × Nat)          -- settings applied: cycle and CFG value, newest first
  cond : List (Nat × Nat)         -- flags OPEN, SHORT and SETTLE from a cycle on, newest first
  above : Nat                     -- consecutive bias measurements above, below and within the limits (R301)
  below : Nat
  within : Nat
  okFrom : Nat                    -- cycle since which the bias has stayed within the limits, plus 1 (R302)
  lastEdge : Nat                  -- time of the last recognised edge, plus 1 (R304)
deriving DecidableEq, Repr

def Chan.fresh : Chan := ⟨[], [], 0, 0, 0, 0, 0⟩

/-- A stream window that has opened and not completed (R310 to R315). -/
structure Window where
  opn : Nat
  close : Option Nat              -- none while it is open
  frame : Nat
  first : Bool
  config : Bool
  skip : Bool
  region : Nat
  start : Option Nat              -- where its arrival starts; none: dropped, its region took no arrival
  len : Nat
  memb : List Nat                 -- the members, ascending
  edgemax : Nat
  got : List (Nat × List Sample)  -- by channel, in the order of their times
  lost : List Nat                 -- speed channels that lost edges
  bias : List (Nat × Nat)         -- lowest bias by vibration channel
  supMin : Nat
  supLow : Bool
  fdTemp : Nat
  linkDown : Bool                 -- the acquisition link was down at some instant of it
deriving DecidableEq, Repr

/-- What a frame in flight has latched (R336 to R338). -/
structure Latch where
  frame : Nat
  opn : Nat
  close : Nat
  buf : Option Nat                -- the front buffer; none: NOTABLE
  base : Nat                      -- its address, log2 NOUT and log2 PPR
  noutl : Nat
  pprl : Nat
  fit : Option (Nat × Nat)        -- f and a of its window, FP32
  stale : Bool
  hcount : Nat
deriving DecidableEq, Repr

/-- A stream definition as it runs. -/
structure AcqStream where
  hasDef : Bool                   -- an agreeing definition has applied since restart (R316)
  wasRunning : Bool               -- stopped by Recess (R320)
  next : Nat                      -- FRAME of the next delivered window
  wins : List Window              -- oldest first
  flight : List Latch             -- frames in flight, oldest first (R314, R338)
  tables : List (Nat × Nat × Nat) -- order table buffers built: buffer, f and a of their profile, FP64 (R337)
deriving DecidableEq, Repr

def AcqStream.fresh : AcqStream := ⟨false, false, 0, [], [], []⟩

structure Acq where
  live : Bool                     -- step 10 of the start-up sequence has passed (R319)
  chans : List (Nat × Chan)       -- by channel; a digital port under its slot 0
  streams : List (Nat × AcqStream)
  builds : List (Nat × Nat × Nat) -- order table builds requested, oldest first: stream, f and a (FP64)
deriving DecidableEq, Repr

/-! ### Field outputs (spec/16) and functional safety (spec/15) -/

/-- What an analog output holds beside its registers. -/
structure Ao where
  breakEnd : Nat                  -- cycle at which the break of R452 ends, plus 1; 0 for none
  refresh : Nat                   -- cycle from which the refresh timeout counts (R453)
  paused : Nat                    -- cycle at which an override paused that count, plus 1
  timedOut : Bool                 -- the refresh timeout calls for the failure action
  failing : Bool                  -- a failure action is in force
  hold : Option Nat               -- FMODE 1: the code held; none: the disabled state is held
  code : Nat                      -- converter code driven
  codeTb : Nat                    -- cycle of its last change
  underPass : Bool                -- OVR was set under hall pass 1 (R482)
  since : List (Nat × Nat)        -- OPEN, OVLD, DEV (0 to 2): cycle since which the condition differs from its flag, plus 1
deriving DecidableEq, Repr

def Ao.fresh : Ao := ⟨0, 0, 0, false, false, none, 0, 0, false, []⟩

/-- What Proctor and the field die hold of a safe output. -/
structure So where
  onTb : Nat                      -- cycle at which it was commanded on
  offTb : Nat                     -- cycle of the decision to switch it off, plus 1, until readback confirms it (R432)
  bad : List (Nat × Nat)          -- output fault kinds (Table 16-5): consecutive readings that showed the condition
  faults : List Nat               -- kinds standing
  cleanTb : Nat                   -- cycle since which its readback is clean, plus 1
  hsOff : Bool                    -- Proctor holds the high-side, or the low-side, switch open (R434)
  lsOff : Bool
  stuck : Nat                     -- bit 0, 1: the high-side, low-side switch cannot be opened
deriving DecidableEq, Repr

def So.fresh : So := ⟨0, 0, [], [], 0, false, false, 0⟩

/-- A safety function instance (R421 to R425). -/
structure SafeFn where
  kind : Nat                      -- 1 vibration, 2 speed, 3 temperature
  entry : Nat
  bytes : List Byte               -- its parameter entry
  badTb : Nat                     -- cycle since which its sensor-fault condition holds, plus 1
  goodTb : Nat                    -- cycle since which it is absent, plus 1
  diffTb : Nat                    -- cycle since which the two speeds differ, plus 1
  above : Bool                    -- its measurement is above its trip threshold
deriving DecidableEq, Repr

/-- Proctor's record of a tile group (die × 16 + group) or DME core (0x100 + core) (R441). -/
structure Suspect where
  origins : List Nat              -- ORIGIN of the verdicts counted
  applied : Nat                   -- cycle of the last escalation, plus 1
  waits : Bool                    -- its clock-enable change waits for a timed program to end (R443)
deriving DecidableEq, Repr

def Suspect.fresh : Suspect := ⟨[], 0, false⟩

structure Safe where
  params : List Byte              -- the accepted parameter bytes (R420)
  fns : List SafeFn
  edges : List (Nat × List Nat)   -- by speed input: recognised edges seen over the safety link, newest first
  resetWait : Bool                -- STARTRST: outputs wait for the first accepted reset (R427)
  sos : List (Nat × So)
  fieldOpen : Bool                -- the field die has opened every switch for want of frames (R432)
  linkDead : Bool                 -- Proctor pair held in reset by a lockstep mismatch (R429)
  suspects : List (Nat × Suspect)
  enteredTb : Nat                 -- cycle at which device safe state was entered, plus 1
  badFrames : Nat                 -- safety-link frames to Proctor that failed their check in a row
deriving DecidableEq, Repr

/-! ### The usage ledger (spec/14) -/

/-- Totals of a tariff (Table 14-5): energies as FP64 patterns. -/
structure TariffSum where
  epos : Nat
  eneg : Nat
  ms : Nat
  maxDem : Nat
deriving DecidableEq, Repr

/-- A record that waits for its storage commit: its 64 bytes, and whether its words 1 to 7 have been programmed (R406). -/
structure LedgerRec where
  bytes : List Byte
  slot : Option Nat               -- its slot; none: NOTSTORED, for the ring only
  words : Nat                     -- words programmed, 1 to 7 first, then word 0
deriving DecidableEq, Repr

structure Ledger where
  profile : List Byte             -- the applied profile (Table 14-1)
  key : List Byte                 -- the ledger key in OTP
  begun : Bool                    -- START has been written since the restart
  stopped : Bool                  -- a CUT or RECESS has been written
  src : Option (Int × Nat)        -- latest TSRC sample: value and flags
  edges : List Nat                -- the two last recognised edges of SPD, newest first
  tariffs : List TariffSum        -- 8
  epos : Nat                      -- lifetime energies, FP64 patterns
  eneg : Nat
  classMs : List Nat              -- 16
  rf : List (Nat × Nat)           -- by 16 × range + mean: half cycles
  dmg : Nat                       -- D, FP64
  starts : Nat
  stops : Nat
  overs : Nat
  overEnds : Nat
  residue : List Nat
  speedy : Bool                   -- overspeed in progress
  f : Nat                         -- speed and torque of the last tick, FP32
  t : Nat
  opened : Nat                    -- tick at which the open interval began
  segTb : Nat                     -- tick at which the open segment began
  segPos : Nat                    -- lifetime energies at that tick
  segNeg : Nat
  intPos : Nat                    -- lifetime EPOS at the interval's open
  flags : Nat                     -- SHORT, LONG, PART and INFAULT of the open segment
  tb : Nat                        -- scheduled end of the interval (R402)
  bound : Int                     -- local time of the scheduled boundary, of the last closed one
  last : Int
  openWall : Bool                 -- wall time was valid when the interval opened
  wasValid : Bool                 -- wall time was valid before the offset step to be processed
  steps : List (Nat × Nat × Nat)  -- offset steps to be processed at the next tick: old, new, source (R403)
  ovrSet : Bool                   -- LDG_TOVR has been written since the last tick
  underPass : Bool                -- by a host under hall pass 0 (R482)
  clearMd : Bool                  -- maximum demand cleared, its EVENT not yet written
  keySet : Bool                   -- key programmed, its EVENT not yet written
  snapDue : Nat
  snapNow : Bool
  lastTick : Nat
  mac : List Byte                 -- MAC of the last record
  nextSeq : Nat
  slot : Nat                      -- write position
  recs : List LedgerRec           -- records not yet committed to storage, oldest first
  evSlot : Nat                    -- write position of the event log in bank 27
  jobs : List (Nat × Nat × Nat)   -- ledger-port work waiting: 0 erase or 1 word, storage offset, word value
deriving DecidableEq, Repr

/-! ### Host ports (spec/17) -/

/-- A session, current or pending (R474, R475). -/
structure Session where
  number : Nat
  hn : List Byte
  dn : List Byte
  top : Nat                       -- highest CTR accepted
  seen : List Nat                 -- CTRs accepted within 64 below it
  sent : Nat                      -- CTR of the last message sent
deriving DecidableEq, Repr

/-- A bulk transfer (R488, R489). -/
structure Bulk where
  id : Nat
  op : Nat
  tag : Nat
  packets : List (List Byte)
  acked : Nat                     -- packets acknowledged
  sent : Nat                      -- packets sent
  resends : Nat
  ackTb : Nat                     -- cycle of the last new acknowledgement, or of the last resend
deriving DecidableEq, Repr

structure HostX where
  conf : List Byte                -- its 96 bytes of the HOSTCTX profile
  key : Option (List Byte)
  cur : Option Session
  next : Option Session
  hellos : List Nat               -- cycles of the HELLOs answered in the last second
  bulk : Option Bulk
  bulkId : Nat
  snap : Option (Nat × Nat × Nat) -- a SNAPSHOT suspended on a fault: TAG, VADDR, LEN
  addr : List Byte                -- the source address and UDP port its last request came from
deriving DecidableEq, Repr

def HostX.fresh : HostX := ⟨[], none, none, none, [], none, 0, none, []⟩

/-- An image transfer (R491): its source, length and the ranges received. -/
structure ImageXfer where
  source : List Byte
  len : Nat
  got : List (Nat × Nat)
deriving DecidableEq, Repr

/-- A hall pass (R482): its holder (0 home, 1 to 4 hosts) and the cycle at which the lease ends. -/
structure Pass where
  holder : Nat
  ends : Nat
deriving DecidableEq, Repr

/-- A received LRP packet that waits for the ring agent: its source address and UDP port (18 bytes) and its bytes (R466, R473). -/
structure Pkt where
  src : List Byte
  bytes : List Byte
deriving DecidableEq, Repr

structure Hosts where
  conf : List Byte                -- bytes 0 to 255 of the HOSTCTX profile
  hosts : List (Nat × HostX)
  ord : List (Nat × List Pkt)     -- by port: packets in the ordinary buffer, oldest first
  urgent : List (Nat × List Pkt)  -- by port: packets in the reserved buffer
  spiRx : List (List Byte)        -- packets the SPI target has buffered
  spiReply : List (List Byte)     -- its pending replies, oldest first
  passes : List (Nat × Pass)
  image : Option ImageXfer
  jobSeq : List (Nat × Nat)       -- by job ring: next SEQ
  jobStop : List (Nat × Nat)      -- by job ring: the index of the firmware job the agent has stopped at, plus 1 (R479)
  jobWait : List (Nat × List Byte)  -- job status records that wait for space, by job ring, oldest first
  synced : List (Nat × Nat)       -- by MAC: cycle of the last Sync, plus 1
  gates : List (Nat × List Nat)   -- by MAC: the gate list in force: CYCLE, BASE, then the entries' registers (R469)
deriving DecidableEq, Repr

/-! ### Power, clock, reset (spec/19) -/

structure Pwr where
  warn : Bool                     -- the power-fail warning is raised
  warnTb : Nat                    -- cycle of the last rise
  cause : Option Nat              -- sequence in progress: 0 power fail, 1 thermal shutdown
  hot : Bool                      -- the shutdown hold of R554 has not ended
  kickTb : Nat                    -- cycle from which the watchdog counts
  wdUsed : Nat                    -- watchdog cycles counted before Recess
  refOk : Bool
  supplyOk : Bool                 -- VDD_F33 in its window, and VDD_F24 has risen above 18.0 V since reset release
deriving DecidableEq, Repr

/-! ### Start-up, package (spec/02, spec/20) -/

/-- What start-up holds: the external flash, the OTP fields it reads (Table 02-4), and what it keeps of the running image. -/
structure Boot where
  step : Nat                      -- steps of Table 02-6 done since the restart; 0 = reset released
  flashLog : Nat                  -- log2 of the flash's bytes; 0 when no flash answers SFDP
  flash : List Host.Cell          -- by flash offset; a byte not listed reads 0xFF
  unitId : Nat
  macBase : Nat                   -- the OTP MAC base (R465)
  unitKey : List Byte             -- the unit key that wraps host keys (R471)
  signKeys : List (List Byte)     -- 4 signing-key hashes; [] blank
  safeKeys : List (List Byte)     -- 2 safety-key hashes
  signRev : Nat
  safeRev : Nat
  rollback : Nat                  -- OTP rollback count
  keyIdx : Nat                    -- of the running image: its key slots, rollback value, KEYADD entries, LOCKMODE
  safeIdx : Nat
  imgRollback : Nat
  keyAdds : List (Nat × Nat × List Byte)
  lockMode : Bool
  confirmMs : Nat
  releaseTb : Nat                 -- cycle of the release of application core pair 0
  restartAt : Option (Nat × Nat)  -- a restart to come: its cycle and its Table 19-3 code
  update : Bool                   -- the next restart installs the staged image (R73)
  lastSlot : Nat                  -- the slot that was running when it was asked for
  reapply : List (Nat × List Byte)  -- records of the chosen placements: physical destination and bytes (R276)
  pinTestmode : Bool              -- levels of the strap balls (R568)
  pinDbgen : Bool
  testmode : Bool                 -- as sampled at the last restart
deriving DecidableEq, Repr

/-- The JTAG TAP (R571, R573). The boundary-scan register has one cell for each ball of Table 20-4 that R571 covers, in that table's
order: MDC, MDIO, XSPI_CK, XSPI_CS_N, XSPI_DQS, XSPI_RST_N, XSPI_DQ0 to 7, SPIT_SCK, SPIT_CS_N, SPIT_MOSI, SPIT_MISO,
SPIT_IRQ_N, TESTMODE, DBGEN. -/
structure Tap where
  ir : Byte                       -- the instruction in force
  bsr : BitVec 21
  dr : Bool                       -- the bypass register
deriving DecidableEq, Repr

/-- A TAP after its reset: IDCODE selected. -/
def Tap.fresh : Tap := ⟨0x01, 0, false⟩

structure State where
  timebase : DWord
  regs : List (Nat × Word)        -- the register file by physical address; unlisted = reset value
  shadows : List (Nat × Option Word)  -- shadows of staged registers by address (R66); unlisted: as applied
  armed : List (Nat × Nat)        -- armed groups: commit register address, stream that owns it (R67)
  latches : List (Nat × Word)     -- latched high halves by requester and register (R20)
  lyctx0 : Word                   -- lyctx CSR of pair 0 (R127)
  lyctx1 : Word
  locked : Bool                   -- the configuration lock (R71)
  d2dFails : List (Nat × Nat)     -- by die link: consecutive failed replays of the current unit (R12)
  mem : Memory
  memsys : MemSys
  mmu : Mmu
  streams : List (Nat × Stream)
  sto : Storage
  rings : List (Nat × Ring)
  chn : Chn
  cim : Cim
  acq : Acq
  aos : List (Nat × Ao)
  aoSilent : Bool                 -- the field die has received no acquisition-link unit for 2 ms (R453)
  safe : Safe
  ledger : Ledger
  hosts : Hosts
  pwr : Pwr
  boot : Boot
  tap : Tap
  irqCimp : Nat                   -- bit d: completion interrupt of WDd's programming unit raised (R219)
  events : EventRing
  irqFault : Nat                  -- bit c: fault interrupt of context c raised
  irqHalt : Nat                   -- bit c: engine-halt interrupt of context c raised
  irqSto : Bool                   -- the storage completion interrupt raised (R380)
  resp : Resp
  tx : List Tx
  free : Nat                      -- the model's own: how many free values have been drawn
  pending : List Instr
deriving DecidableEq, Repr

/-! ### The parts right after reset -/

/-- SRAM with every byte 0, valid tags and check bits (R84). -/
def Memory.fresh : Memory := ⟨[], [], [], []⟩

def MemSys.fresh : MemSys := ⟨[], [], [], [], [], [], [], [], none⟩

def Mmu.fresh : Mmu := ⟨[], [], none⟩

/-- A storage array as it leaves the factory: erased. -/
def Storage.fresh : Storage := ⟨[], [], [], [], [], [], [], [], []⟩

def Chn.fresh : Chn := ⟨[], [], 0, [], [], [], [], []⟩

def Cim.fresh : Cim := ⟨[], [], [], [], [], [], []⟩

def Acq.fresh : Acq := ⟨false, [], [], []⟩

def Safe.fresh : Safe := ⟨[], [], [], false, [], false, false, [], 0, 0⟩

/-- A ledger that has written nothing: no profile, a blank key. -/
def Ledger.fresh : Ledger :=
  { profile := [], key := [], begun := false, stopped := false, src := none, edges := [], tariffs := List.replicate 8 ⟨0, 0, 0, 0⟩,
    epos := 0, eneg := 0, classMs := List.replicate 16 0, rf := [], dmg := 0, starts := 0, stops := 0, overs := 0, overEnds := 0,
    residue := [], speedy := false, f := 0, t := 0, opened := 0, segTb := 0, segPos := 0, segNeg := 0, intPos := 0, flags := 0,
    tb := 0, bound := 0, last := 0, openWall := false, wasValid := false, steps := [], ovrSet := false, underPass := false,
    clearMd := false, keySet := false, snapDue := 0, snapNow := false, lastTick := 0, mac := List.replicate 16 0, nextSeq := 0,
    slot := 0, recs := [], evSlot := 0, jobs := [] }

def Hosts.fresh : Hosts := ⟨[], [], [], [], [], [], [], none, [], [], [], [], []⟩

def Pwr.fresh : Pwr := ⟨false, 0, none, false, 0, 0, true, true⟩

/-- A unit with a blank 32 MiB flash, blank key slots and unit identity 1, whose start-up has not begun. -/
def Boot.fresh : Boot :=
  { step := 0, flashLog := 25, flash := [], unitId := 1, macBase := 0, unitKey := List.replicate 32 0, signKeys := [[], [], [], []], safeKeys := [[], []],
    signRev := 0, safeRev := 0, rollback := 0, keyIdx := 0, safeIdx := 0, imgRollback := 0, keyAdds := [], lockMode := false,
    confirmMs := 0, releaseTb := 0, restartAt := none, update := false, lastSlot := 3, reapply := [], pinTestmode := false,
    pinDbgen := false, testmode := false }

def EventRing.fresh : EventRing := ⟨[], [], none, 0, 0, 0⟩

/-- The device at the release of power-on reset, before step 1 of the start-up sequence (R62, R537): every register at its reset
value (BOOT_UNITID_LO shows the unit identity that OTP holds), every SRAM byte 0, no command waiting. What the spec gives no value for
is named in the assumption log. -/
def State.reset : State :=
  { timebase := 0, regs := [(0x0200030030, 1)], shadows := [], armed := [], latches := [], lyctx0 := 0x10, lyctx1 := 0x10, locked := false, d2dFails := [],
    mem := Memory.fresh, memsys := MemSys.fresh, mmu := Mmu.fresh, streams := [], sto := Storage.fresh, rings := [],
    chn := Chn.fresh, cim := Cim.fresh, acq := Acq.fresh, aos := [], aoSilent := false, safe := Safe.fresh,
    ledger := Ledger.fresh, hosts := Hosts.fresh, pwr := Pwr.fresh, boot := Boot.fresh, tap := Tap.fresh,
    irqCimp := 0, events := EventRing.fresh, irqFault := 0, irqHalt := 0, irqSto := false, resp := ⟨false, []⟩, tx := [], free := 0,
    pending := [] }

end Sys2Proof.Machine
end

