-- ==== Sys2Proof/Machine/Ops.lean ====
section
/-! DEFINITION. The named operations over registers and memory that every family shares: reading and writing registers and
their fields, memory bytes and check tags, violations, report cards, bells and free values. -/

namespace Sys2Proof.Machine

/-! ### Registers -/

/-- The register at a physical address. -/
def State.rd (s : State) (a : Nat) : Word := Sparse.get regReset s.regs a

/-- The state with the register at a physical address replaced. -/
def State.wr (s : State) (a : Nat) (v : Word) : State := { s with regs := Sparse.put regReset s.regs a v }

/-- Instance `(i, j)` of a register. -/
def State.rget (s : State) (r : RegDesc) (i : Nat := 0) (j : Nat := 0) : Nat := (s.rd (r.at i j)).toNat

/-- Replace instance `(i, j)` of a register. -/
def State.rset (s : State) (r : RegDesc) (v : Nat) (i : Nat := 0) (j : Nat := 0) : State :=
  s.wr (r.at i j) (BitVec.ofNat 32 v)

/-- A field of instance `(i, j)` of its register. -/
def State.fget (s : State) (f : Fld) (i : Nat := 0) (j : Nat := 0) : Nat := getField (s.rd (f.reg.at i j)) f.lo f.width

/-- Replace a field. -/
def State.fset (s : State) (f : Fld) (v : Nat) (i : Nat := 0) (j : Nat := 0) : State :=
  s.wr (f.reg.at i j) (setField (s.rd (f.reg.at i j)) f.lo f.width v)

/-- A field of one bit, as a Bool. -/
def State.flag (s : State) (f : Fld) (i : Nat := 0) (j : Nat := 0) : Bool := s.fget f i j == 1

/-- Set or clear a field of one bit. -/
def State.setFlag (s : State) (f : Fld) (b : Bool) (i : Nat := 0) (j : Nat := 0) : State := s.fset f (b2n b) i j

/-- Add to a counter that fills a register and saturates at 0xFFFF_FFFF. -/
def State.count (s : State) (r : RegDesc) (n : Nat := 1) (i : Nat := 0) (j : Nat := 0) : State :=
  s.rset r (satAdd 32 (s.rget r i j) n) i j

/-- Add to a counter field that saturates at all ones. -/
def State.fcount (s : State) (f : Fld) (n : Nat := 1) (i : Nat := 0) (j : Nat := 0) : State :=
  s.fset f (satAdd f.width (s.fget f i j) n) i j

/-- Add modulo 2^32 to a counter that wraps. -/
def State.countWrap (s : State) (r : RegDesc) (n : Nat := 1) (i : Nat := 0) (j : Nat := 0) : State :=
  s.rset r ((s.rget r i j + n) % 2 ^ 32) i j

/-- What a register holds after a write of `v`: RW fields take it, W1C fields clear where it has ones, RWL fields take it
unless the configuration lock is set (Table 00-6, R8, R71). -/
def RegDesc.written (r : RegDesc) (locked : Bool) (old v : Word) : Word :=
  let rw := r.mask .rw
  let rwl := r.mask .rwl
  let w1c := r.mask .w1c
  let open' := if locked then rw else rw ||| rwl
  ((old &&& ~~~open') ||| (v &&& open')) &&& ~~~(v &&& w1c)

/-- Whether a write of `v` would change an RWL field (R71). -/
def RegDesc.lockHit (r : RegDesc) (old v : Word) : Bool := (old ^^^ v) &&& r.mask .rwl != 0

/-! ### Time and free values -/

/-- TIMEBASE as a number (R16). -/
def State.now (s : State) : Nat := s.timebase.toNat

/-- A free value, and the state in which it has been drawn. -/
def State.draw (s : State) : Nat × State := (Config.freeNat s.free, { s with free := s.free + 1 })

/-! ### Contexts and violations (R126 to R129, R137) -/

/-- The two `lyctx` CSRs (R127). -/
def State.lyctx (s : State) (p : Nat) : Word := if p = 0 then s.lyctx0 else s.lyctx1

/-- The stream with a number. -/
def State.stream (s : State) (n : Nat) : Stream := Sparse.get (fun _ => Stream.idle) s.streams n

def State.setStream (s : State) (n : Nat) (x : Stream) : State :=
  { s with streams := Sparse.put (fun _ => Stream.idle) s.streams n x }

/-- The context of a requester (R126). -/
def State.ctxOf (s : State) : Req → Nat
  | .core p => bits (s.lyctx p.val).toNat 0 3
  | .proctor => 7
  | .stream n => match (s.stream n.val).run with
    | some p => p.start.ctx
    | none => 0
  | .storage => s.fget F.STO_RINGCFG_CTX
  | .tileProg d => s.fget F.CIMP_RINGCFG_CTX d.val
  | .agent h => h.val + 1
  | .hostPort _ => 0
  | .shunto _ c => c.toNat
  | .acq c => c.toNat

/-- The priority class of a requester, 0 highest (R126, Table 04-2). -/
def State.clsOf (s : State) : Req → Nat
  | .core p => bits (s.lyctx p.val).toNat 4 3
  | .proctor => 0
  | .stream n => match (s.stream n.val).run with
    | some p => p.start.cls
    | none => 5
  | .agent _ => 3
  | .acq _ => 1
  | .storage | .tileProg _ | .hostPort _ | .shunto _ _ => 3

/-- The Table 04-6 code of a requester. -/
def unitOf : Req → Nat
  | .core p => 0x40 + p.val
  | .proctor => 0x48
  | .stream n => n.val
  | .storage => 0x20
  | .tileProg d => 0x24 + d.val
  | .agent h => 0x30 + h.val
  | .hostPort p => 0x30 + p.val
  | .shunto p _ => 0x50 + p.val
  | .acq _ => 0x58

/-- Whether a context is enabled (R128). -/
def State.ctxEnabled (s : State) (c : Nat) : Bool := s.flag F.MMU_CTX_CFG_EN c

/-- A violation of context `c` by unit `unit`: counted, and captured if the capture is armed (R137). `addr` is the address
the refused request named, 0 where it names none. -/
def State.violate (s : State) (c unit kind addr : Nat) : State :=
  let s := s.count R.MMU_CTX_VIOL 1 c
  if s.flag F.MMU_CTX_VCAPINFO_ARMED c then
    let s := s.rset R.MMU_CTX_VCAPADDR (addr / 256) c
    let s := s.setFlag F.MMU_CTX_VCAPINFO_VALID true c
    let s := s.setFlag F.MMU_CTX_VCAPINFO_ARMED false c
    let s := s.fset F.MMU_CTX_VCAPINFO_UNIT unit c
    s.fset F.MMU_CTX_VCAPINFO_KIND kind c
  else s

/-- A violation by a requester. -/
def State.violateBy (s : State) (r : Req) (kind addr : Nat) : State := s.violate (s.ctxOf r) (unitOf r) kind addr

/-- Whether the grade enables DME core `n` (R3). -/
def State.coreEnabled (s : State) (n : Nat) : Bool := n < s.fget F.SYS_UNITS_DMECORES

/-- Tile groups enabled on each weight die: G of Table 00-1. -/
def State.groupsPerDie (s : State) : Nat := s.fget F.SYS_UNITS_TILES / 256

/-- Whether stream `n` is enabled in the grade (R151). -/
def State.streamEnabled (s : State) (n : Nat) : Bool :=
  n < 22 && (n < 4 || 12 ≤ n || s.coreEnabled (n - 4))

/-- Whether the link of weight die `d` is down: its tile groups and storage banks count as retired (R12). -/
def State.dieDown (s : State) (d : Nat) : Bool := bit (s.fget F.SYS_D2DSTAT_DOWN) d

/-- Whether the CIM domain of weight die `d` is on (R532). -/
def State.dieOn (s : State) (d : Nat) : Bool := bit (s.fget F.PWR_STAT_CIMON) d

/-- Whether domain `k` of PWR_STAT.DOMON is on: 0 AO, 1 SAFE, 2 CTL, 3 MEM, 4 DME, 5 SIG, 6 LINK. -/
def State.domOn (s : State) (k : Nat) : Bool := bit (s.fget F.PWR_STAT_DOMON) k

/-- Record what the block sends out of a port: a port code, what it is, its bytes. -/
def State.send (s : State) (port kind : Nat) (b : List Byte) : State := { s with tx := s.tx ++ [(⟨port, kind, b⟩ : Tx)] }

/-! ### Bells (R171) -/

def State.bell (s : State) (b : Nat) : Nat := s.fget F.ENG_BELL_VALUE b

/-- Add to a bell modulo 2^16. -/
def State.ring (s : State) (b inc : Nat) : State := s.fset F.ENG_BELL_VALUE ((s.bell b + inc) % 65536) b

/-- Whether bell `b` lies in the range of context `c` (R130, R173). A context that is not enabled owns nothing (R128). -/
def State.bellOf (s : State) (c b : Nat) : Bool :=
  let base := s.fget F.MMU_CTX_BELLS_BASE c
  s.ctxEnabled c && decide (base ≤ b) && decide (b < base + s.fget F.MMU_CTX_BELLS_CNT c)

/-! ### Report cards (R412 to R415) -/

/-- What a producer gives of a report card (Table 14-6). -/
structure CardArgs where
  block : Nat
  event : Nat
  verdict : Nat := 0
  ctx : Nat := 0xFF
  ukind : Nat := 0
  ua : Nat := 0
  ub : Nat := 0
  engine : Nat := 0xFF
  slot : Nat := 0xFF
  handle : Nat := 0xFFFF
  pc : Nat := 0
  prog : Nat := 0
  detail : List Byte := []        -- bytes 40 to 55
  safety : Bool := false
  lostRep : Bool := false
  die : Nat := 0                  -- die whose temperature byte 56 carries: 0 core, 1 to 4 WD0 to WD3, 5 field
deriving DecidableEq, Repr

/-- The 64 bytes of a report card (Table 14-6). SEQ is written when the card is committed to a ring. -/
def cardBytes (c : CardArgs) (origin temp volt cardno : Nat) : List Byte :=
  [0x40, BitVec.ofNat 8 (b2n c.safety + 4 * b2n c.lostRep)] ++ leBytes 2 1 ++ leBytes 4 0 ++ leBytes 8 origin ++
  [BitVec.ofNat 8 c.block, BitVec.ofNat 8 c.event, BitVec.ofNat 8 c.verdict, BitVec.ofNat 8 c.ctx,
   BitVec.ofNat 8 c.ukind, BitVec.ofNat 8 c.ua] ++ leBytes 2 c.ub ++
  [BitVec.ofNat 8 c.engine, BitVec.ofNat 8 c.slot] ++ leBytes 2 c.handle ++ leBytes 4 c.pc ++ leBytes 8 c.prog ++
  padTo 16 c.detail ++ leBytes 2 temp ++ leBytes 2 volt ++ leBytes 4 cardno

/-- Entries of the event ring that hold cards other than safety cards. -/
def EventRing.plain (e : EventRing) : Nat := (e.cards.filter (fun c => !c.safety)).length

/-- Occupancy registers follow the ring (LDG_EVSTAT). -/
def State.evOcc (s : State) : State :=
  let s := s.fset F.LDG_EVSTAT_OCC s.events.cards.length
  s.fset F.LDG_EVSTAT_SAFEOCC (s.events.cards.length - s.events.plain)

/-- Keep a copy of a record for the collector, where its kind is forwarded (R520). -/
def State.forward (s : State) (on : Bool) (b : List Byte) : State :=
  if on then { s with chn := { s.chn with fwd := s.chn.fwd ++ [b] } } else s

/-- Produce a report card: it takes the next card number and enters the event ring, waits (a safety card without a free
entry) or is dropped (R414, R415). -/
def State.cardAt (s : State) (c : CardArgs) (origin : Nat) : State :=
  let s := s.rset R.LDG_CARDNO ((s.rget R.LDG_CARDNO + 1) % 2 ^ 32)
  let card : Card :=
    ⟨c.safety, c.ctx, cardBytes c origin (s.fget F.THM_TEMP_NOW c.die) (Config.cardVolt origin) (s.rget R.LDG_CARDNO)⟩
  let s := s.forward (if c.safety then s.flag F.CHN_FWD_SAFECARDS else s.flag F.CHN_FWD_CARDS) card.bytes
  if s.events.cards.length < 4096 ∧ (c.safety = true ∨ s.events.plain < 3584) then
    { s with events := { s.events with cards := s.events.cards ++ [card] } }.evOcc
  else if c.safety then
    { s with events := { s.events with waitingSafety := s.events.waitingSafety ++ [card] } }
  else
    let e := s.events
    let e := { e with dropFirst := if e.dropCount = 0 then origin else e.dropFirst, dropLast := origin,
                      dropCount := e.dropCount + 1 }
    { s with events := e }.count R.LDG_LOST

/-- Produce a report card at the current cycle. -/
def State.card (s : State) (c : CardArgs) : State := s.cardAt c s.now

/-! ### SRAM bytes and check tags (R82 to R84, R110 to R112) -/

/-- What lies at a physical address (Table 03-1). -/
inductive Loc where
  | rom | ao | tcm (p : Nat) | proc | am | psm | wbm | l1 (n : Nat) | regs | dam (d : Nat) | store (k : Nat) | cim | remote
  | hole
deriving DecidableEq, Repr

/-- The cache part of core `n`'s L1, in 64 KiB units (R92). -/
def State.l1Cache (s : State) (n : Nat) : Nat := s.fget F.MEM_L1CFG_CACHE n

/-- The place of a physical address (R79, R80, R95). Register addresses are told apart by `findReg`, CIM window addresses by
the tile chapters. -/
def State.loc (s : State) (a : Nat) : Loc :=
  if a < 0x20000 then .rom
  else if 0x08000000 ≤ a ∧ a < 0x08010000 then .ao
  else if 0x10000000 ≤ a ∧ a < 0x10200000 then .tcm 0
  else if 0x10200000 ≤ a ∧ a < 0x10400000 then .tcm 1
  else if 0x20000000 ≤ a ∧ a < 0x20080000 then .proc
  else if 0x0100000000 ≤ a ∧ a < 0x0102000000 then .am
  else if 0x0140000000 ≤ a ∧ a < 0x0140800000 then .psm
  else if 0x0180000000 ≤ a ∧ a < 0x0181000000 then
    if a < 0x0181000000 - s.fget F.MEM_WBMCACHE_SIZE * 0x100000 then .wbm else .hole
  else if 0x01C0000000 ≤ a ∧ a < 0x01C0800000 then
    let n := (a - 0x01C0000000) / 0x100000
    if s.coreEnabled n ∧ s.flag F.DME_STAT_RETIRED n = false ∧ (a - 0x01C0000000) % 0x100000 < (8 - s.l1Cache n) * 0x10000 then .l1 n else .hole
  else if 0x0200000000 ≤ a ∧ a < 0x0800000000 then .regs
  else if 0x0800000000 ≤ a ∧ a < 0x0804000000 then
    if (a - 0x0800000000) % 0x1000000 < 0x800000 then .dam ((a - 0x0800000000) / 0x1000000) else .hole
  else if 0x1000000000 ≤ a ∧ a < 0x1100000000 then .store ((a - 0x1000000000) / 0x8000000)
  else if 0x2000000000 ≤ a ∧ a < 0x4000000000 then .cim
  else if 0x4000000000 ≤ a ∧ a < 0x10000000000 then .remote
  else .hole

/-- Whether an address of the remote window reaches another device's memory: not its holes, not the device itself (R511,
R512). -/
def State.remoteOk (s : State) (a : Nat) : Bool :=
  let dev := (a - 0x4000000000) / 0x8000000
  decide (dev < 4095) && decide ((a - 0x4000000000) % 0x8000000 < 0x6000000) &&
  !(s.flag F.CHN_STAT_ADDRVALID && dev == s.fget F.CHN_STAT_ADDR)

/-- The memories whose blocks carry check tags (R110). -/
def Loc.tagged : Loc → Bool
  | .am | .psm | .wbm | .l1 _ | .dam _ => true
  | _ => false

/-- The memories that may hold tables and queues of the device: AM, WBM and application TCM (R134, R140). -/
def Loc.holdsTables : Loc → Bool
  | .am | .wbm | .tcm _ => true
  | _ => false

/-- The SRAM memories. -/
def Loc.sram : Loc → Bool
  | .ao | .tcm _ | .proc | .am | .psm | .wbm | .l1 _ | .dam _ => true
  | _ => false

/-- An SRAM byte by physical address. -/
def Memory.byte (m : Memory) (a : Nat) : Byte := Sparse.get (fun _ => (0 : Byte)) m.cells a

/-- Write one byte. -/
def Memory.setByte (m : Memory) (a : Nat) (b : Byte) : Memory :=
  { m with cells := Sparse.put (fun _ => (0 : Byte)) m.cells a b }

/-- `n` bytes from an address. -/
def Memory.read (m : Memory) (a : Nat) : Nat → List Byte
  | 0 => []
  | n + 1 => m.byte a :: m.read (a + 1) n

/-- Store bytes at consecutive addresses, contents only. -/
def Memory.store (m : Memory) (a : Nat) : List Byte → Memory
  | [] => m
  | b :: t => (m.setByte a b).store (a + 1) t

/-- The contents of the memory are in canonical form. -/
def Memory.wf (m : Memory) : Bool :=
  Sparse.wf (fun _ => (0 : Byte)) m.cells && Sparse.wf (fun _ => (0 : Word)) m.tagX &&
  Sparse.wf (fun _ => false) m.bad && Sparse.wf (fun _ => false) m.eccBad

def Memory.tagDiff (m : Memory) (blk : Nat) : Word := Sparse.get (fun _ => (0 : Word)) m.tagX blk
def Memory.isBad (m : Memory) (blk : Nat) : Bool := Sparse.get (fun _ => false) m.bad blk
def Memory.isEccBad (m : Memory) (w : Nat) : Bool := Sparse.get (fun _ => false) m.eccBad w

/-- Whether a block's stored tag verifies and the block is not BAD (R113). -/
def Memory.tagOk (m : Memory) (blk : Nat) : Bool := m.tagDiff blk == 0 && !m.isBad blk

/-- The stored check tag of a block (R110). -/
def Memory.tag (m : Memory) (blk : Nat) : Word := BitVec.ofNat 32 (crc32c (m.read (blk * 256) 256)) ^^^ m.tagDiff blk

def Memory.setTagDiff (m : Memory) (blk : Nat) (x : Word) : Memory :=
  { m with tagX := Sparse.put (fun _ => (0 : Word)) m.tagX blk x }
def Memory.setBad (m : Memory) (blk : Nat) (b : Bool) : Memory :=
  { m with bad := Sparse.put (fun _ => false) m.bad blk b }
def Memory.setEcc (m : Memory) (w : Nat) (b : Bool) : Memory :=
  { m with eccBad := Sparse.put (fun _ => false) m.eccBad w b }

/-- The words that a write of `n` bytes at `a` replaces whole are sound again (R83, R107). -/
def Memory.mend (m : Memory) (a n : Nat) : Memory :=
  { m with eccBad := Sparse.clear (fun w => decide (a ≤ 8 * w) && decide (8 * w + 8 ≤ a + n)) m.eccBad }

/-- A whole-block write with a fresh or carried tag: `diff` is the carried tag XOR the CRC of the data (R111). -/
def Memory.writeBlock (m : Memory) (blk : Nat) (data : List Byte) (diff : Word := 0) : Memory :=
  (((m.store (blk * 256) (padTo 256 data)).setTagDiff blk diff).setBad blk false).mend (blk * 256) 256

/-- A write of part of a block (R112): the contents change; a block whose old tag does not verify becomes BAD. The Bool says
whether it did. -/
def Memory.writePart (m : Memory) (a : Nat) (data : List Byte) : Memory × Bool :=
  let blk := a / 256
  let m' := (m.store a data).mend a data.length
  if m.tagOk blk then (m', false) else (m'.setBad blk true, true)

/-- Store bytes at physical addresses of tagged or untagged SRAM, block by block: whole blocks get fresh tags, parts follow
R112. `fuel` is at least the number of blocks touched. -/
def State.putMem (s : State) (a : Nat) (data : List Byte) : Nat → State
  | 0 => s
  | fuel + 1 =>
    if data = [] then s
    else
      let n := 256 - a % 256
      let part := data.take n
      let s :=
        if (s.loc a).tagged then
          if part.length = 256 then { s with mem := s.mem.writeBlock (a / 256) part }
          else
            let r := s.mem.writePart a part
            let s := { s with mem := r.1 }
            if r.2 then s.count R.MEM_TAGERR else s
        else { s with mem := (s.mem.store a part).mend a part.length }
      s.putMem (a + n) (data.drop n) fuel

/-- Store bytes at consecutive physical addresses (R111, R112). -/
def State.store (s : State) (a : Nat) (data : List Byte) : State := s.putMem a data (data.length / 256 + 2)

/-- `n` bytes of SRAM from a physical address. -/
def State.load (s : State) (a n : Nat) : List Byte := s.mem.read a n

/-! ### Operations on memory as a whole -/

/-- Zero every byte of the SRAM addresses that satisfy `p`, with valid tags and check bits (R84). -/
def Memory.zero (m : Memory) (p : Nat → Bool) : Memory :=
  { cells := Sparse.clear p m.cells, tagX := Sparse.clear (fun k => p (k * 256)) m.tagX,
    bad := Sparse.clear (fun k => p (k * 256)) m.bad, eccBad := Sparse.clear (fun k => p (k * 8)) m.eccBad }

end Sys2Proof.Machine
end

