-- ==== Sys2Proof/Machine/Memory.lean ====
section
/-! DEFINITION. On-package memory (spec/03): the memory control registers, split mode, bank arbitration, the L1 and shared
read caches, circular regions and row repair. -/

namespace Sys2Proof.Machine

/-! ### Who may write -/

/-- Whether a requester has power to send an access (R532, Table 19-1). -/
def State.reqOn (s : State) : Req → Bool
  | .proctor => s.domOn 1
  | .acq _ => s.domOn 5
  | .shunto _ _ => s.domOn 6
  | _ => s.domOn 2

/-- A register write by `r` at address `a` that home (context 0) alone may make (R129): `f` says what it does. A request in a
disabled context is a violation of kind 0xD (R128), one by any other context of kind 0x5. A requester without power sends
nothing. -/
def State.asHome (s : State) (r : Req) (a : Nat) (f : State → State) : State :=
  if !s.reqOn r then s
  else if !s.ctxEnabled (s.ctxOf r) then s.violateBy r 0xD a
  else if s.ctxOf r = 0 then f s else s.violateBy r 0x5 a

/-- A register write that the contexts satisfying `ok` may make; others are violations of kind `kind`. -/
def State.asCtx (s : State) (r : Req) (a kind : Nat) (ok : Nat → Bool) (f : State → State) : State :=
  if !s.reqOn r then s
  else if !s.ctxEnabled (s.ctxOf r) then s.violateBy r 0xD a
  else if ok (s.ctxOf r) then f s else s.violateBy r kind a

/-- The answer a read or a refused access gives its requester. -/
def State.respond (s : State) (error : Bool) (data : List Byte) : State := { s with resp := ⟨error, data⟩ }

/-! ### Banks, ports and arbitration (R86, R88, R90, R106) -/

/-- Memory code of Table 03-17. -/
def Loc.memCode : Loc → Nat
  | .am => 0 | .psm => 1 | .wbm => 2 | .tcm p => 3 + p | .ao => 5 | .dam d => 8 + d | .l1 _ => 0xC | _ => 0xF

/-- Banks of a memory and rows of 1 KiB in a bank (Table 03-3), by memory code; (0, 0) where there is none. -/
def memShape (code : Nat) : Nat × Nat :=
  match code with
  | 0 => (64, 512) | 1 => (32, 256) | 2 => (32, 512) | 3 => (16, 128) | 4 => (16, 128) | 5 => (4, 16)
  | 8 => (32, 256) | 9 => (32, 256) | 10 => (32, 256) | 11 => (32, 256) | 12 => (16, 32) | _ => (0, 0)

/-- The bank of an address within its memory (R86). -/
def bankIn (code a : Nat) : Nat := (a / 256) % (memShape code).1

/-- The index of an address' bank in Table 03-6. -/
def State.confBank (s : State) (a : Nat) : Option Nat :=
  match s.loc a with
  | .am => some ((a / 256) % 64)
  | .psm => some (64 + (a / 256) % 32)
  | .wbm => some (96 + (a / 256) % 32)
  | .dam d => some (128 + 32 * d + (a / 256) % 32)
  | _ => none

/-- The port of a requester (R88). The spec names no port for the storage queue, tile programming, the ring agent and the
host ports: they share the control cluster's. DESIGN CHOICE, safe. -/
def portOf : Req → Nat
  | .core _ | .proctor | .storage | .tileProg _ | .agent _ | .hostPort _ => 0
  | .stream n => if n.val < 4 then 6 else if n.val < 12 then 2 else if n.val < 14 then 3 else 1
  | .acq _ => 4
  | .shunto _ _ => 5

/-- The owner port of a bank of Table 03-6 in split mode (R90); none for DAM. -/
def State.splitOwner (s : State) (i : Nat) : Option Nat :=
  if i < 64 then some (bits (s.rget R.MEM_SPLITAM) (3 * (i / 8)) 3)
  else if i < 96 then some (bits (s.rget R.MEM_SPLITPSM) (3 * ((i - 64) / 4)) 3)
  else if i < 128 then some (bits (s.rget R.MEM_SPLITWBM) (3 * ((i - 96) / 4)) 3)
  else none

def State.losses (s : State) (bank port : Nat) : Nat := Sparse.get (fun _ => 0) s.memsys.loss (bank * 8 + port)

def State.setLosses (s : State) (bank port n : Nat) : State :=
  { s with memsys := { s.memsys with loss := Sparse.put (fun _ => 0) s.memsys.loss (bank * 8 + port) n } }

/-- Distance of a port behind the port granted last at a bank: the round-robin order (R88). -/
def State.turn (s : State) (bank port : Nat) : Nat :=
  (port + 8 - Sparse.get (fun _ => 0) s.memsys.lastPort bank) % 8

/-- The port granted a bank slot among those that request it (R88, R90): a port that has lost 16 slots in a row first, then
in split mode the owner, then the highest class, then round-robin. -/
def State.grant (s : State) (bank : Nat) (reqs : List (Nat × Nat)) : Nat :=
  let starved := reqs.filter (fun q => 16 ≤ s.losses bank q.1)
  let owned := if s.flag F.MEM_STAT_SPLITON then reqs.filter (fun q => s.splitOwner bank == some q.1) else []
  let pool := if starved ≠ [] then starved else if owned ≠ [] then owned
    else reqs.filter (fun q => reqs.all (fun q' => decide (q.2 ≤ q'.2)))
  match pool with
  | [] => 0
  | q :: t => (t.foldl (fun b q' => if s.turn bank q'.1 < s.turn bank b.1 then q' else b) q).1

/-- A request that loses a bank slot (R88, R106): its loss count rises and, unless frozen, the conflict counters. A lost slot
is two cycles of waiting. -/
def State.loseSlot (s : State) (bank port : Nat) : State :=
  let s := s.setLosses bank port (s.losses bank port + 1)
  if s.flag F.MEM_CTL_CNTFREEZE then s
  else (s.count R.MEM_CONFBANK 1 bank).count R.MEM_CONFPORT 2 port

/-- One bank slot: port `port` of class `cls` and the rivals of the same slot request the bank. The Bool says whether the
port is granted. -/
def State.arbitrate (s : State) (bank port cls : Nat) (rivals : List (Nat × Nat)) : Bool × State :=
  let reqs := (port, cls) :: rivals.filter (fun q => q.1 ≠ port)
  let w := s.grant bank reqs
  let s := (reqs.filter (fun q => q.1 ≠ w)).foldl (fun s q => s.loseSlot bank q.1) s
  let s := s.setLosses bank w 0
  let s := { s with memsys := { s.memsys with lastPort := Sparse.put (fun _ => 0) s.memsys.lastPort bank (w + 1) } }
  (w == port, s)

/-- One access' bank slot at an address: granted at once in memories that have no counted bank; in split mode a port that
does not own the bank counts MEM_SPLITCOL when served (R90). -/
def State.slotFor (s : State) (r : Req) (a : Nat) (rivals : List (Fin 8 × Fin 6)) : Bool × State :=
  match s.confBank a with
  | none => (true, s)
  | some i =>
    let x := s.arbitrate i (portOf r) (s.clsOf r) (rivals.map (fun q => (q.1.val, q.2.val)))
    if x.1 && x.2.flag F.MEM_STAT_SPLITON && (match x.2.splitOwner i with | some o => o != portOf r | none => false) then
      (true, x.2.count R.MEM_SPLITCOL)
    else x

/-! ### MEM_CTL and split mode (R91, R106) -/

/-- Clear every conflict counter in one cycle (R106). -/
def State.clearConflicts (s : State) : State :=
  { s with regs := Sparse.clear (fun a => (R.MEM_CONFBANK.at ≤ a && a < R.MEM_CONFBANK.at 256) ||
      (R.MEM_CONFPORT.at ≤ a && a < R.MEM_CONFPORT.at 8)) s.regs }

/-- What a write of `v` to MEM_CTL by home does (Table 03-8). -/
def State.writeMemCtl (s : State) (v : Word) : State :=
  let s := s.setFlag F.MEM_CTL_CNTFREEZE (bit v.toNat 1)
  let s := s.setFlag F.MEM_CTL_SPLIT (bit v.toNat 0)
  let s := if bit v.toNat 2 then s.clearConflicts else s
  if bit v.toNat 0 then (if s.flag F.MEM_STAT_SPLITON then s else s.setFlag F.MEM_STAT_SPLITPEND true)
  else (s.setFlag F.MEM_STAT_SPLITPEND false).setFlag F.MEM_STAT_SPLITON false

/-- SPLIT_REQUEST: a write of MEM_CTL with SPLIT = 1 (R91). -/
def execSplitRequest (r : Req) (v : Word) (s : State) : Out State :=
  .next (s.asHome r R.MEM_CTL.at (fun s => s.writeMemCtl (v ||| 1)))

/-- Whether every engine stream is idle or halted: none runs a program (R91). -/
def State.allStreamsIdle (s : State) : Bool := (List.range 22).all (fun n => (s.stream n).run == none)

/-- SPLIT_ENTER: the requested split mode begins once all streams are idle or halted (R91). -/
def execSplitEnter (s : State) : Out State :=
  .next (if s.flag F.MEM_STAT_SPLITPEND && s.allStreamsIdle
    then (s.setFlag F.MEM_STAT_SPLITPEND false).setFlag F.MEM_STAT_SPLITON true else s)

/-- SPLIT_LEAVE: a write of MEM_CTL with SPLIT = 0 (R91). -/
def execSplitLeave (r : Req) (v : Word) (s : State) : Out State :=
  .next (s.asHome r R.MEM_CTL.at (fun s => s.writeMemCtl (v &&& ~~~1)))

/-- CONFLICT_COUNTER_CLEAR: a write of MEM_CTL with CNTCLR = 1 (R106). -/
def execConflictCounterClear (r : Req) (v : Word) (s : State) : Out State :=
  .next (s.asHome r R.MEM_CTL.at (fun s => s.writeMemCtl (v ||| 4)))

/-! ### DME L1 caches (R92 to R94, R254) -/

/-- Cache lines of core `n`, most recently used first. -/
def State.lines (s : State) (n : Nat) : List L1Line := Sparse.get (fun _ => []) s.memsys.l1 n

def State.setLines (s : State) (n : Nat) (l : List L1Line) : State :=
  { s with memsys := { s.memsys with l1 := Sparse.put (fun _ => []) s.memsys.l1 n l } }

/-- Base of core `n`'s L1 window. -/
def l1Base (n : Nat) : Nat := 0x01C0000000 + n * 0x100000

/-- Write every dirty line of core `n` back, keeping the lines valid (R93). -/
def State.l1WriteBack (s : State) (n : Nat) : State :=
  let s' := ((s.lines n).filter (fun l => l.dirty)).foldl (fun s l => s.store l.addr l.data) s
  s'.setLines n ((s.lines n).map (fun l => { l with dirty := false }))

/-- Invalidate without write-back: unlocked lines at once, locked lines when they unlock (R254). -/
def State.l1Drop (s : State) (n : Nat) : State :=
  s.setLines n (((s.lines n).filter (fun l => l.locked)).map (fun l => { l with inval := true }))

/-- Every locked line of core `n` unlocks; a line invalidated meanwhile drops now (R251, R254). -/
def State.unlockLines (s : State) (n : Nat) : State :=
  let s := s.setLines n (((s.lines n).filter (fun l => !(l.locked && l.inval))).map (fun l => { l with locked := false }))
  (s.fset F.DME_STAT_LOCKED 0 n).setFlag F.DME_STAT_BUSY false n

/-- Zero an address range of SRAM with its tags and check bits. -/
def State.zeroRange (s : State) (lo hi : Nat) : State := { s with mem := s.mem.zero (fun a => lo ≤ a && a < hi) }

def l1ResizeOf (s : State) (n : Nat) : Nat := Sparse.get (fun _ => 0) s.memsys.l1resize n

def State.setL1Resize (s : State) (n v : Nat) : State :=
  { s with memsys := { s.memsys with l1resize := Sparse.put (fun _ => 0) s.memsys.l1resize n v } }

/-- What a write of `v` to MEM_L1CFGn by `r` does (Table 03-19, R93, R94). A write that names the CACHE value in force changes
no split. DEDUCED: otherwise no FLUSH could be written while the core runs. Safe. -/
def State.writeL1Cfg (s : State) (r : Req) (n : Nat) (v : Word) : State :=
  let want := getField v 0 4
  let s := if bit v.toNat 8 then s.l1WriteBack n else s
  let s := if bit v.toNat 9 then s.l1Drop n else s
  if want = s.l1Cache n ∨ 8 < want then s
  else if (s.stream (4 + n)).run ≠ none then s.violateBy r 0xE (R.MEM_L1CFG.at n)
  else
    let old := s.l1Cache n
    let s := s.setFlag F.MEM_L1CFG_BUSY true n
    let s := (s.l1WriteBack n).setLines n []
    let s := s.zeroRange (l1Base n + (8 - max old want) * 0x10000) (l1Base n + (8 - min old want) * 0x10000)
    (s.fset F.MEM_L1CFG_CACHE want n).setL1Resize n (want + 1)

/-- A write to MEM_L1CFGn: a hole where the core is not enabled (R3, Table 03-19), else home's. -/
def State.l1CfgWrite (s : State) (r : Req) (n : Nat) (v : Word) : State :=
  if !s.ctxEnabled (s.ctxOf r) then s.violateBy r 0xD (R.MEM_L1CFG.at n)
  else if !s.coreEnabled n then s.violateBy r 0x4 (R.MEM_L1CFG.at n)
  else if s.ctxOf r = 0 then (if s.flag F.DME_STAT_RETIRED n then s else s.writeL1Cfg r n v) else s.violateBy r 0x5 (R.MEM_L1CFG.at n)

/-- L1_CACHE_RESIZE: a write of MEM_L1CFGn.CACHE (R94). -/
def execL1CacheResize (r : Req) (n : Fin 8) (v : Word) (s : State) : Out State := .next (s.l1CfgWrite r n.val v)

/-- L1_FLUSH: a write of MEM_L1CFGn with FLUSH = 1; the other fields keep the values in force (R93). -/
def execL1Flush (r : Req) (n : Fin 8) (v : Word) (s : State) : Out State :=
  .next (s.l1CfgWrite r n.val (setField v 8 1 1))

/-- L1_INVALIDATE: a write of MEM_L1CFGn with INVAL = 1 (R93, R254). -/
def execL1Invalidate (r : Req) (n : Fin 8) (v : Word) (s : State) : Out State :=
  .next (s.l1CfgWrite r n.val (setField v 9 1 1))

/-! ### Circular regions (R99 to R105, R594) -/

def State.region (s : State) (n : Nat) : Region := Sparse.get (fun _ => Region.idle) s.memsys.regions n

def State.setRegion (s : State) (n : Nat) (x : Region) : State :=
  { s with memsys := { s.memsys with regions := Sparse.put (fun _ => Region.idle) s.memsys.regions n x } }

/-- Physical base and size in bytes of region `n`. -/
def State.crBase (s : State) (n : Nat) : Nat := s.rget R.MEM_CR_BASE n * 256
def State.crSize (s : State) (n : Nat) : Nat := s.fget F.MEM_CR_SIZE_SIZE n * 256

/-- Whether region `n` is placed as R99 allows: in AM, PSM, WBM, a DAM or a scratchpad, not crossing its memory's end or the
shared read cache, 4 KiB to 16 MiB. -/
def State.crPlaced (s : State) (n : Nat) : Bool :=
  let b := s.crBase n
  let z := s.crSize n
  decide (4096 ≤ z) && decide (z ≤ 0x1000000) && (s.loc b).tagged && s.loc (b + z - 1) == s.loc b

/-- Mark the regions that lie in addresses `lo` to `hi - 1` INVALID (R94). -/
def State.invalidateRegions (s : State) (lo hi : Nat) : State :=
  (List.range 64).foldl (fun s n =>
    if s.flag F.MEM_CR_CFG_EN n && decide (s.crBase n < hi) && decide (lo < s.crBase n + s.crSize n)
    then s.setFlag F.MEM_CR_CFG_INVALID true n else s) s

/-- L1_CACHE_RESIZE_DONE: BUSY clears and regions in the new cache part become INVALID (R94). -/
def execL1CacheResizeDone (n : Fin 8) (s : State) : Out State :=
  .next (if l1ResizeOf s n.val = 0 then s
    else
      let want := l1ResizeOf s n.val - 1
      let s := (s.setL1Resize n.val 0).setFlag F.MEM_L1CFG_BUSY false n.val
      s.invalidateRegions (l1Base n.val + (8 - want) * 0x10000) (l1Base n.val + 0x80000))

/-- HEAD and TAIL, running byte counts. -/
def State.crHead (s : State) (n : Nat) : Nat := s.rget R.MEM_CR_HEAD n
def State.crTail (s : State) (n : Nat) : Nat := s.rget R.MEM_CR_TAIL n

/-- Bytes between two running counts modulo 2^32. -/
def ringDiff (a b : Nat) : Nat := (a + 2 ^ 32 - b) % 2 ^ 32

/-- Whether region `n` takes new arrivals (R104). -/
def State.crOpen (s : State) (n : Nat) : Bool :=
  s.flag F.MEM_CR_CFG_EN n && !s.flag F.MEM_CR_CFG_INVALID n && !(s.region n).clearing

/-- What a write of `v` to MEM_CRn_CFG by `r` does (Table 03-24, R99, R104, R105). While the image is set up (`setup`) the bell is
not checked. -/
def State.writeCrCfg (s : State) (r : Req) (n : Nat) (v : Word) (setup : Bool := false) : State :=
  let en := s.flag F.MEM_CR_CFG_EN n
  let ctx := if en then s.fget F.MEM_CR_CFG_CTX n else getField v 24 3
  let bellOk := setup || !bit v.toNat 15 || s.bellOf ctx (getField v 0 9)
  let s := s.setFlag F.MEM_CR_CFG_INVALID false n
  let s := if en then s else (s.setFlag F.MEM_CR_CFG_MODE (bit v.toNat 30) n).fset F.MEM_CR_CFG_CTX ctx n
  let s := if bellOk then (s.setFlag F.MEM_CR_CFG_BELLEN (bit v.toNat 15) n).fset F.MEM_CR_CFG_BELL (getField v 0 9) n
    else s.violateBy r 0xA (R.MEM_CR_CFG.at n)
  if bit v.toNat 31 then
    if en then s.setRegion n { s.region n with clearing := false }
    else if s.crPlaced n then
      let s := (s.rset R.MEM_CR_HEAD 0 n).rset R.MEM_CR_TAIL 0 n
      let s := (s.rset R.MEM_CR_LOST 0 n).setRegion n Region.idle
      s.setFlag F.MEM_CR_CFG_EN true n
    else s.setFlag F.MEM_CR_CFG_INVALID true n
  else if en then
    if (s.region n).opened = [] then (s.setFlag F.MEM_CR_CFG_EN false n).setRegion n { s.region n with clearing := false }
    else s.setRegion n { s.region n with clearing := true }
  else s

/-- REGION_ENABLE: a write of MEM_CRn_CFG with EN = 1 (R99, R104, R105). -/
def execRegionEnable (r : Req) (n : Fin 64) (v : Word) (s : State) : Out State :=
  .next (s.asHome r (R.MEM_CR_CFG.at n.val) (fun s => s.writeCrCfg r n.val (setField v 31 1 1)))

/-- REGION_CLEAR: a write of MEM_CRn_CFG with EN = 0 (R104). -/
def execRegionClear (r : Req) (n : Fin 64) (v : Word) (s : State) : Out State :=
  .next (s.asHome r (R.MEM_CR_CFG.at n.val) (fun s => s.writeCrCfg r n.val (setField v 31 1 0)))

/-- Release `cnt` bytes of region `n` by a consumer of context `c` (R103). -/
def State.releaseRegion (s : State) (c unit n cnt : Nat) : State :=
  let fill := ringDiff (s.crHead n) (s.crTail n)
  if cnt % 256 ≠ 0 then s.violate c unit 0x9 (R.MEM_CR_RELEASE.at n)
  else if fill < cnt then (s.rset R.MEM_CR_TAIL (s.crHead n) n).violate c unit 0x9 (R.MEM_CR_RELEASE.at n)
  else s.rset R.MEM_CR_TAIL ((s.crTail n + cnt) % 2 ^ 32) n

/-- REGION_RELEASE: a write to MEM_CRn_RELEASE by the region's context or home (R103, R105). -/
def execRegionRelease (r : Req) (n : Fin 64) (v : Word) (s : State) : Out State :=
  .next (s.asCtx r (R.MEM_CR_RELEASE.at n.val) 0x9 (fun c => c == 0 || c == s.fget F.MEM_CR_CFG_CTX n.val)
    (fun s => s.releaseRegion (s.ctxOf r) (unitOf r) n.val v.toNat))

/-- Make room in an overwriting region for `len` bytes at RES: TAIL advances and the units it passes are LOST (R102). -/
def State.overwrite (s : State) (n len : Nat) : State :=
  let reg := s.region n
  if ringDiff reg.res (s.crTail n) + len ≤ s.crSize n then s
  else
    let t := roundUp (reg.res + len + 2 ^ 32 - s.crSize n) 256 % 2 ^ 32
    let gone := ringDiff t (s.crTail n) / 256
    (s.rset R.MEM_CR_TAIL t n).count R.MEM_CR_LOST gone n

/-- How an arrival that wants to start fares. -/
inductive Started where
  | started | waits | dropped
deriving DecidableEq, Repr

/-- Open an arrival of `len` bytes at RES (R594). -/
def State.openArrival (s : State) (n unit tag len : Nat) : State :=
  let s := s.overwrite n len
  let reg := s.region n
  let l := roundUp len 256
  let a : Arrival := ⟨unit, tag, reg.res, l, false, false, false⟩
  s.setRegion n { reg with res := (reg.res + l) % 2 ^ 32, opened := reg.opened ++ [a],
                           waiting := reg.waiting.filter (fun w => !(w.1 == unit && w.2.1 == tag)) }

/-- Whether `len` bytes fit in region `n` now, or may overwrite (R102). -/
def State.arrivalFits (s : State) (n len : Nat) : Bool :=
  decide (ringDiff (s.region n).res (s.crTail n) + len ≤ s.crSize n) || s.flag F.MEM_CR_CFG_MODE n

/-- Start an arrival of `len` bytes into region `n` (R102, R594): dropped with a violation of kind 0xF where the region is
disabled, INVALID or clearing; waiting while a window is open or (block mode) without room. Arrivals that wait start in the
order in which they began to wait; one that fits when its producer is ready starts at once. DEDUCED, safe. -/
def State.startArrival (s : State) (n c unit tag len : Nat) : Started × State :=
  let reg := s.region n
  let mine (w : Nat × Nat × Nat) : Bool := w.1 == unit && w.2.1 == tag
  if reg.opened.any (fun a => a.unit == unit && a.tag == tag && !a.done && !a.window) then (.started, s)
  else if !s.crOpen n then
    (.dropped, (s.setRegion n { reg with waiting := reg.waiting.filter (fun w => !mine w) }).violate c unit 0xF (s.crBase n))
  else
    let first := !reg.waiting.any mine || (match reg.waiting with | w :: _ => mine w | [] => true)
    if reg.opened.any (fun x => x.window) || !first || !s.arrivalFits n len then
      (.waits, if reg.waiting.any mine then s
        else s.setRegion n { reg with waiting := reg.waiting ++ [(unit, tag, len)] })
    else (.started, s.openArrival n unit tag len)

/-- Start the arrivals that wait, in their order, as long as they fit: what the close of a window does (R594). -/
def State.startWaiting (s : State) (n : Nat) : List (Nat × Nat × Nat) → State
  | [] => s
  | w :: t => if s.crOpen n && s.arrivalFits n w.2.2 then (s.openArrival n w.1 w.2.1 w.2.2).startWaiting n t else s

/-- Complete the arrivals at the front of the order that are done: HEAD advances, ARRIVE counts and the bell rings; an
abandoned one adds its units to LOST instead (R101, R594). A clearing region becomes disabled when none is left (R104). -/
def State.retireArrivals (s : State) (n : Nat) : Nat → State
  | 0 => s
  | fuel + 1 =>
    match (s.region n).opened with
    | [] =>
      if (s.region n).clearing then
        (s.setFlag F.MEM_CR_CFG_EN false n).setRegion n { s.region n with clearing := false } else s
    | a :: t =>
      if !a.done then s
      else
        let s := s.setRegion n { s.region n with opened := t }
        let s := s.rset R.MEM_CR_HEAD ((s.crHead n + a.len) % 2 ^ 32) n
        let s := if a.abandoned then s.count R.MEM_CR_LOST (a.len / 256) n
          else
            let s := s.countWrap R.MEM_CR_ARRIVE 1 n
            if s.flag F.MEM_CR_CFG_BELLEN n then s.ring (s.fget F.MEM_CR_CFG_BELL n) 1 else s
        s.retireArrivals n fuel

/-- Arrival `tag` of `unit` has all its bytes and tags visible, or is abandoned (R101, R594). -/
def State.finishArrival (s : State) (n unit tag : Nat) (abandoned : Bool) : State :=
  let reg := s.region n
  let s := s.setRegion n { reg with
    opened := reg.opened.map (fun a => if a.unit = unit ∧ a.tag = tag ∧ a.window = false then
      { a with done := true, abandoned := abandoned } else a),
    waiting := reg.waiting.filter (fun w => !(w.1 == unit && w.2.1 == tag)) }
  s.retireArrivals n (reg.opened.length + 1)

/-- ARRIVAL_START: a producer is ready to place the first byte of an arrival of `len` bytes (R594). -/
def execArrivalStart (n : Fin 64) (p : Req) (tag : Nat) (len : Word) (s : State) : Out State :=
  .next (s.startArrival n.val (s.ctxOf p) (unitOf p) tag len.toNat).2

/-- ARRIVAL_COMPLETE: every byte and tag of an arrival is visible (R101). -/
def execArrivalComplete (n : Fin 64) (p : Req) (tag : Nat) (s : State) : Out State :=
  .next (s.finishArrival n.val (unitOf p) tag false)

/-- The physical address of byte `o` within an arrival or a consumer's view that begins at running count `start` (R100). -/
def State.crAddr (s : State) (n start o : Nat) : Nat := s.crBase n + (start + o) % s.crSize n

/-! ### Shared read cache (R95 to R98) -/

/-- What a write of `v` to MEM_WBMCACHE does (Table 03-20, R95, R98). -/
def State.writeWbmCache (s : State) (v : Word) : State :=
  let want := getField v 0 4
  let old := s.fget F.MEM_WBMCACHE_SIZE
  let s := if bit v.toNat 8 then
      ({ s with memsys := { s.memsys with wbmLines := [] } }.rset R.MEM_WBMHIT 0).rset R.MEM_WBMMISS 0 else s
  if want = old ∨ 8 < want then s
  else
    let s := { s with memsys := { s.memsys with wbmLines := [] } }
    (s.zeroRange (0x0181000000 - max old want * 0x100000) 0x0181000000).fset F.MEM_WBMCACHE_SIZE want

/-- WBM_CACHE_RESIZE: a write of MEM_WBMCACHE.SIZE (R95). -/
def execWbmCacheResize (r : Req) (v : Word) (s : State) : Out State :=
  .next (s.asHome r R.MEM_WBMCACHE.at (fun s => s.writeWbmCache v))

/-- WBM_CACHE_INVALIDATE: a write of MEM_WBMCACHE with INVAL = 1 (R98). -/
def execWbmCacheInvalidate (r : Req) (v : Word) (s : State) : Out State :=
  .next (s.asHome r R.MEM_WBMCACHE.at (fun s => s.writeWbmCache (setField v 8 1 1)))

/-- The set of a 4 KiB line in the shared read cache of `mib` MiB: 16 ways (R95). -/
def wbmSet (mib line : Nat) : Nat := (line / 4096) % (16 * mib)

/-- A line enters the cache as the most recently used one; a set of 16 loses its least recently used line. -/
def wbmInsert (mib : Nat) (lines : List Nat) (line : Nat) : List Nat :=
  let l := lines.filter (fun x => x != line)
  let same := l.filter (fun x => wbmSet mib x == wbmSet mib line)
  let l := if 16 ≤ same.length then (match same.getLast? with | some v => l.filter (fun x => x != v) | none => l) else l
  line :: l

/-! ### Row repair (R107 to R109) -/

/-- Spare rows in use in a bank. -/
def State.sparesUsed (s : State) (m b : Nat) : Nat :=
  ((s.memsys.fuseRows ++ s.memsys.fieldRows).filter (fun x => x.1 == m && x.2.1 == b)).length

/-- Whether a repair's memory, bank and row exist (R108). For L1 the bank's upper four bits name the core. -/
def State.rowExists (s : State) (m b row : Nat) : Bool :=
  let sh := memShape m
  if m = 12 then decide (b % 16 < sh.1) && s.coreEnabled (b / 16) && decide (row < sh.2)
  else decide (b < sh.1) && decide (row < sh.2)

/-- Base address of a memory of Table 03-17; for L1 the core's window. -/
def memBase (m b : Nat) : Nat :=
  match m with
  | 0 => 0x0100000000 | 1 => 0x0140000000 | 2 => 0x0180000000 | 3 => 0x10000000 | 4 => 0x10200000 | 5 => 0x08000000
  | 12 => l1Base (b / 16)
  | _ => 0x0800000000 + (m - 8) * 0x1000000

/-- The address of the first block of a row: blocks lie in banks in turn (R86), four to a row. DEDUCED, safe. -/
def rowAddr (m b row : Nat) : Nat :=
  let sh := memShape m
  memBase m b + (4 * row * sh.1 + (if m = 12 then b % 16 else b)) * 256

/-- What a write of `v` to MEM_REPAIR does: MEM, BANK and ROW are kept, GO starts a repair unless one runs (R107). -/
def State.writeRepair (s : State) (v : Word) : State :=
  let s := s.rset R.MEM_REPAIR (v &&& 0xFFF3FF00).toNat
  if bit v.toNat 0 && !s.flag F.MEM_REPSTAT_BUSY then
    let s := (s.setFlag F.MEM_REPSTAT_BUSY true).setFlag F.MEM_STAT_REPBUSY true
    { s with memsys := { s.memsys with repair := some (getField v 28 4, getField v 20 8, getField v 8 10) } }
  else s

/-- ROW_REPAIR: a write of MEM_REPAIR with GO = 1 (R107). -/
def execRowRepair (r : Req) (v : Word) (s : State) : Out State :=
  .next (s.asHome r R.MEM_REPAIR.at (fun s => s.writeRepair (v ||| 1)))

/-- The result code of a repair (R108, Table 03-18). -/
def State.repairResult (s : State) (m b row : Nat) : Nat :=
  if !s.rowExists m b row then 3
  else if (s.memsys.fuseRows ++ s.memsys.fieldRows).contains (m, b, row) then 4
  else if 16 ≤ s.sparesUsed m b then 2 else 1

/-- ROW_REPAIR_DONE: the repair in progress ends; the contents move with the row, an uncorrectable word stays so (R107,
R108). -/
def execRowRepairDone (s : State) : Out State :=
  .next (match s.memsys.repair with
    | none => s
    | some (m, b, row) =>
      let res := s.repairResult m b row
      let ms := s.memsys
      let s := { s with memsys := { ms with repair := none,
                                            fieldRows := if res = 1 then ms.fieldRows ++ [(m, b, row)] else ms.fieldRows } }
      let s := (s.setFlag F.MEM_REPSTAT_BUSY false).setFlag F.MEM_STAT_REPBUSY false
      let s := (s.fset F.MEM_REPSTAT_RESULT res).fset F.MEM_REPSTAT_SPARES (16 - s.sparesUsed m b)
      if res = 1 then s
      else s.card { block := 5, event := 3, ukind := 4, ua := m, ub := b,
                    detail := leBytes 8 (if res = 3 then 0 else rowAddr m b row) ++ [BitVec.ofNat 8 res] })

/-! ### ECC and tag failures of a wide consumer (R83, R113) -/

/-- A corrected error (R83). -/
def State.eccCorrected (s : State) : State := s.count R.MEM_ECCCOR

/-- An uncorrectable error confirmed by the repeated read: counted, its address recorded, a report card written (R83). -/
def State.eccFail (s : State) (a c engine : Nat) : State :=
  let s := s.count R.MEM_ECCUNC
  let s := (s.rset R.MEM_ECCADDR_LO (a % 2 ^ 32)).rset R.MEM_ECCADDR_HI (a / 2 ^ 32)
  let m := (s.loc a).memCode
  s.card { block := 5, event := 1, ctx := c, ukind := 4, ua := m, ub := bankIn m a, engine := engine,
           detail := leBytes 8 a }

/-- A tag mismatch confirmed by the second read (R113). -/
def State.tagFail (s : State) (a c engine : Nat) : State :=
  let s := (s.count R.MEM_TAGERR).count R.MEM_TAGFAIL
  let m := (s.loc a).memCode
  s.card { block := 5, event := 2, ctx := c, ukind := 4, ua := m, ub := bankIn m a, engine := engine,
           detail := leBytes 8 a }

end Sys2Proof.Machine
end

