-- ==== Sys2Proof/Machine/Mmu.lean ====
section
/-! DEFINITION. Contexts, priority classes and translation (spec/04): `lyctx`, bell ranges, the page walk, the TLBs,
invalidation, violation captures and the resume records of faults. -/

namespace Sys2Proof.Machine

/-! ### Classes (R127, R131) -/

/-- Whether Table 04-2 allows a class to a context. -/
def classTable (c cls : Nat) : Bool :=
  match cls with
  | 0 => c == 7
  | 1 => c == 0
  | 2 => 1 ≤ c && c ≤ 4
  | 3 => c ≤ 4
  | 4 => c == 0 || c == 5
  | 5 => c == 0 || c == 6
  | _ => false

/-- Whether context `c` may start work in a class: Table 04-2 and its CLASSES field (R131). -/
def State.classOk (s : State) (c cls : Nat) : Bool := classTable c cls && bit (s.fget F.MMU_CTX_CFG_CLASSES c) cls

/-- What a write of `v` to the CSR `lyctx` of pair `p` in machine mode does (R127). -/
def State.writeLyctx (s : State) (p : Fin 2) (v : Word) : State :=
  if classTable (getField v 0 3) (getField v 4 3) then
    (if p.val = 0 then { s with lyctx0 := v &&& 0x77 } else { s with lyctx1 := v &&& 0x77 })
  else s.violate (s.ctxOf (.core p)) (0x40 + p.val) 0xB 0

/-- LYCTX_WRITE: a write of the CSR `lyctx` of pair `p` (R127). Outside machine mode the core does not perform it. -/
def execLyctxWrite (p : Fin 2) (machine : Bool) (v : Word) (s : State) : Out State :=
  .next (if !machine then s else s.writeLyctx p v)

/-! ### Bell ranges (R130) -/

/-- Whether two bell ranges share a bell. -/
def rangesMeet (b1 n1 b2 n2 : Nat) : Bool := decide (0 < n1) && decide (0 < n2) && decide (b1 < b2 + n2) && decide (b2 < b1 + n1)

/-- Whether context `n` may have the range of `v`: not past bell 511, and where `n` is enabled sharing no bell with another
enabled context. -/
def State.bellRangeOk (s : State) (n : Nat) (v : Word) : Bool :=
  let b := getField v 0 9
  let c := getField v 16 10
  decide (b + c ≤ 512) && (!s.ctxEnabled n || (List.range 8).all (fun m =>
    m == n || !s.ctxEnabled m || !rangesMeet b c (s.fget F.MMU_CTX_BELLS_BASE m) (s.fget F.MMU_CTX_BELLS_CNT m)))

/-- What a write of `v` to MMU_CTXn_BELLS by `r` does (R130). -/
def State.writeBells (s : State) (r : Req) (n : Nat) (v : Word) : State :=
  if s.bellRangeOk n v then (s.fset F.MMU_CTX_BELLS_CNT (getField v 16 10) n).fset F.MMU_CTX_BELLS_BASE (getField v 0 9) n
  else s.violateBy r 0xE (R.MMU_CTX_BELLS.at n)

/-- BELL_RANGE_WRITE (R130). -/
def execBellRangeWrite (r : Req) (n : Fin 8) (v : Word) (s : State) : Out State :=
  .next (s.asHome r (R.MMU_CTX_BELLS.at n.val) (fun s => s.writeBells r n.val v))

/-! ### Violation captures (R137) -/

/-- What a write of `v` to MMU_CTXn_VCAPINFO does (Table 04-23). -/
def State.writeVcap (s : State) (n : Nat) (v : Word) : State :=
  let s := if bit v.toNat 29 then
      (s.setFlag F.MMU_CTX_VCAPINFO_VALID false n).setFlag F.MMU_CTX_VCAPINFO_ARMED true n else s
  if bit v.toNat 28 then s.rset R.MMU_CTX_VIOL 0 n else s

/-- VIOL_CAPTURE_ARM: a write of MMU_CTXn_VCAPINFO with ARM = 1 (R137). -/
def execViolCaptureArm (r : Req) (n : Fin 8) (v : Word) (s : State) : Out State :=
  .next (s.asHome r (R.MMU_CTX_VCAPINFO.at n.val) (fun s => s.writeVcap n.val (setField v 29 1 1)))

/-- VIOL_COUNT_CLEAR: a write of MMU_CTXn_VCAPINFO with CLR = 1 (R137). -/
def execViolCountClear (r : Req) (n : Fin 8) (v : Word) (s : State) : Out State :=
  .next (s.asHome r (R.MMU_CTX_VCAPINFO.at n.val) (fun s => s.writeVcap n.val (setField v 28 1 1)))

/-! ### The page walk (R133, R134) -/

/-- A translation, or the FLAGS of the fault an unmapped address gives (Table 04-5, bits 2 MALFORMED, 3 BEYOND, 4 WALKERR). -/
inductive Walk where
  | ok (e : TlbEntry)
  | fault (flags : Nat)
deriving DecidableEq, Repr

/-- The eight bytes of a page table entry. -/
def State.pte (s : State) (a : Nat) : Nat := leNat (s.load a 8)

/-- Whether a table entry lies where tables may lie. -/
def State.tableOk (s : State) (a : Nat) : Bool := (s.loc a).holdsTables

/-- Whether an entry sets a field that Table 04-3 requires to be 0. `level` 1 or 2. -/
def pteMalformed (level e : Nat) : Bool :=
  bits e 40 24 != 0 || bits e 5 7 != 0 ||
  (if level = 2 then bit e 1 else if bit e 1 then bits e 12 9 != 0 else bits e 2 3 != 0)

/-- Walk context `c`'s tables for the 4 KiB virtual page `vpn` (R133, R134). -/
def State.walk (s : State) (c vpn : Nat) : Walk :=
  let i1 := vpn / 512
  if s.fget F.MMU_CTX_CFG_L1LEN c < i1 then .fault 0x08
  else
    let a1 := s.rget R.MMU_CTX_PTBASE c * 4096 + 8 * i1
    if !s.tableOk a1 then .fault 0x10
    else
      let e1 := s.pte a1
      if !bit e1 0 then .fault 0
      else if pteMalformed 1 e1 then .fault 0x04
      else if bit e1 1 then .ok ⟨c, i1 * 512, true, bits e1 12 28, bit e1 2, bit e1 3, bit e1 4⟩
      else
        let a2 := bits e1 12 28 * 4096 + 8 * (vpn % 512)
        if !s.tableOk a2 then .fault 0x10
        else
          let e2 := s.pte a2
          if !bit e2 0 then .fault 0
          else if pteMalformed 2 e2 then .fault 0x04
          else .ok ⟨c, vpn, false, bits e2 12 28, bit e2 2, bit e2 3, bit e2 4⟩

/-! ### TLBs (R135) -/

/-- Whether an entry translates page `vpn` of context `c`. -/
def TlbEntry.hits (e : TlbEntry) (c vpn : Nat) : Bool :=
  e.ctx == c && (if e.big then e.vpn / 512 == vpn / 512 else e.vpn == vpn)

def State.tlb (s : State) (unit : Nat) : List TlbEntry := Sparse.get (fun _ => []) s.mmu.tlbs unit

def State.setTlb (s : State) (unit : Nat) (l : List TlbEntry) : State :=
  { s with mmu := { s.mmu with tlbs := Sparse.put (fun _ => []) s.mmu.tlbs unit l } }

/-- Translate a page through a unit's TLB: a hit becomes the most recently used entry, a miss walks and replaces the least
recently used of 64 (R135). -/
def State.translate (s : State) (unit c vpn : Nat) : Walk × State :=
  let l := s.tlb unit
  match l.find? (fun e => e.hits c vpn) with
  | some e => (.ok e, s.setTlb unit (e :: l.filter (fun x => x != e)))
  | none =>
    match s.walk c vpn with
    | .fault f => (.fault f, s)
    | .ok e => (.ok e, s.setTlb unit ((e :: l).take 64))

/-- The physical page number an entry gives for `vpn`. -/
def TlbEntry.page (e : TlbEntry) (vpn : Nat) : Nat := if e.big then e.ppn + vpn % 512 else e.ppn

/-- The check of a mapped page (R134): the right, then what lies at the physical page. -/
def State.pageAns (s : State) (e : TlbEntry) (vpn : Nat) (acc : Acc3) : PageAns :=
  let ok := match acc with | .read => e.r | .write => e.w | .fetch => e.p
  let pa := e.page vpn * 4096
  if !ok then .viol (match acc with | .read => 1 | .write => 2 | .fetch => 3)
  else
    match s.loc pa, acc with
    | .hole, _ => .viol 4
    | .regs, _ => .viol 0xC
    | .rom, .write => .viol 4
    | .proc, .write => .viol 4
    | .store _, .write => .viol 4
    | .remote, .write => if s.remoteOk pa then .page (e.page vpn) else .viol 4
    | .remote, _ => .viol 4
    | _, _ => .page (e.page vpn)

/-- The outcome of translating every page a step will touch (R139): the map, or the first fault. -/
inductive Pages where
  | ok (m : PageMap)
  | fault (vpn : Nat) (acc : Acc3) (flags : Nat)
deriving DecidableEq, Repr

/-- Translate a list of pages in order, stopping at the first that is unmapped (R139). -/
def State.translatePages (s : State) (unit c : Nat) : List (Nat × Acc3) → PageMap → Pages × State
  | [], m => (.ok m.reverse, s)
  | (v, acc) :: t, m =>
    match s.translate unit c v with
    | (.fault f, s) => (.fault v acc f, s)
    | (.ok e, s) => s.translatePages unit c t ((v, acc, s.pageAns e v acc) :: m)

/-- The physical address of a virtual byte in a map; none where the page is a violation or was not translated. -/
def PageMap.phys (m : PageMap) (acc : Acc3) (va : Nat) : Option Nat :=
  match m.find? (fun x => x.1 == va / 4096 && x.2.1 == acc) with
  | some (_, _, .page p) => some (p * 4096 + va % 4096)
  | _ => none

/-- Count one violation for each page of a map that refused (R137): the virtual address is the page's. -/
def State.violatePages (s : State) (unit c : Nat) (m : PageMap) : State :=
  m.foldl (fun s x => match x.2.2 with
    | .viol k => s.violate c unit k (x.1 * 4096)
    | .page _ => s) s

/-- The pages of `n` bytes from a virtual address. -/
def pagesOf (va n : Nat) : List Nat := if n = 0 then [] else (List.range ((va + n - 1) / 4096 - va / 4096 + 1)).map (· + va / 4096)

/-! ### TLB invalidation (R136) -/

/-- What a write of `v` to MMU_INVAL does (Table 04-10). -/
def State.writeInval (s : State) (v : Word) : State :=
  if s.flag F.MMU_INVAL_BUSY ∧ bit v.toNat 6 then s
  else
    let s := (s.fset F.MMU_INVAL_SCOPE (getField v 4 2)).fset F.MMU_INVAL_CTX (getField v 0 3)
    if bit v.toNat 6 then
      let s := s.setFlag F.MMU_INVAL_BUSY true
      { s with mmu := { s.mmu with invalBusy := some (getField v 4 2, getField v 0 3, s.rget R.MMU_INVADDR) } }
    else s

/-- TLB_INVALIDATE: a write of MMU_INVAL with GO = 1 (R136). -/
def execTlbInvalidate (r : Req) (v : Word) (s : State) : Out State :=
  .next (s.asHome r R.MMU_INVAL.at (fun s => s.writeInval (setField v 6 1 1)))

/-- Whether an invalidation of a scope, context and page drops an entry. -/
def invalHits (scope c vpn : Nat) (e : TlbEntry) : Bool :=
  match scope with
  | 0 => e.hits c vpn
  | 1 => e.ctx == c
  | _ => true

/-- TLB_INVALIDATE_DONE: every TLB has dropped the matching entries; BUSY clears (R136). -/
def execTlbInvalidateDone (s : State) : Out State :=
  .next (match s.mmu.invalBusy with
    | none => s
    | some (scope, c, vpn) =>
      let tlbs := s.mmu.tlbs.map (fun x => (x.1, x.2.filter (fun e => !invalHits scope c vpn e)))
      let s := { s with mmu := { s.mmu with tlbs := tlbs.filter (fun x => x.2 != []), invalBusy := none } }
      s.setFlag F.MMU_INVAL_BUSY false)

/-! ### Resume records (R138 to R140) -/

/-- What a unit says of a fault (Table 04-5). -/
structure FaultInfo where
  ctx : Nat
  unit : Nat
  cls : Nat
  kind : Nat
  flags : Nat
  handle : Nat
  vaddr : Nat
  pc : Nat
  step : Nat
  nsteps : Nat
  slot : Nat
  detail : Nat
deriving DecidableEq, Repr

/-- The 64 bytes of a pending resume record (Table 04-5). -/
def resumeRecord (f : FaultInfo) (origin : Nat) : List Byte :=
  [0x01, BitVec.ofNat 8 f.flags, BitVec.ofNat 8 f.unit, BitVec.ofNat 8 f.ctx, BitVec.ofNat 8 f.cls, BitVec.ofNat 8 f.kind] ++
  leBytes 2 f.handle ++ leBytes 8 f.vaddr ++ leBytes 8 origin ++ leBytes 4 f.pc ++ leBytes 4 f.step ++ leBytes 4 f.nsteps ++
  leBytes 4 f.slot ++ leBytes 8 f.detail ++ List.replicate 16 0

/-- The base of context `c`'s fault queue, where it lies wholly in AM, WBM or application TCM (R140). -/
def State.faultQueue (s : State) (c : Nat) : Option Nat :=
  let b := s.rget R.MMU_CTX_FQBASE c * 4096
  if (s.loc b).holdsTables ∧ s.loc (b + 8191) = s.loc b then some b else none

/-- The lowest-numbered free entry of the queue at `b`: TYPE 0x00 (R140). -/
def State.freeRecord (s : State) (b : Nat) : Option Nat :=
  (List.range 128).find? (fun i => s.mem.byte (b + 64 * i) == 0)

/-- MMU_FSTAT.PEND follows the suspended instructions. -/
def State.syncPend (s : State) : State :=
  s.fset F.MMU_FSTAT_PEND ((List.range 8).foldl (fun m c => if s.mmu.susps.any (fun x => x.ctx == c) then m + 2 ^ c else m) 0)

/-- Write a fault's resume record and raise the context's fault interrupt (R138, R140). The Bool says whether the fault could
be reported; where not, nothing is written and the caller aborts the instruction. -/
def State.reportFault (s : State) (f : FaultInfo) : Bool × State :=
  match s.faultQueue f.ctx with
  | none => (false, s)
  | some b =>
    match s.freeRecord b with
    | none => (false, s)
    | some i =>
      let s := s.store (b + 64 * i) (resumeRecord f s.now)
      let s := { s with mmu := { s.mmu with susps := s.mmu.susps ++ [(⟨f.ctx, i, f.unit, f.cls, s.now, f.slot, f.handle, f.vaddr⟩ : Susp)] },
                        irqFault := s.irqFault ||| 2 ^ f.ctx }
      (true, s.syncPend)

/-- Free a resume record: its TYPE becomes 0x00 and the suspended instruction leaves the list (R141, R142). -/
def State.freeSusp (s : State) (x : Susp) : State :=
  let s := match s.faultQueue x.ctx with
    | some b => s.store (b + 64 * x.index) [0]
    | none => s
  { s with mmu := { s.mmu with susps := s.mmu.susps.filter (fun y => y != x) } }.syncPend

end Sys2Proof.Machine
end

