-- ==== Sys2Proof/Machine/Tensor.lean ====
section
/-! DEFINITION. Tensor descriptors and the bytes they address (R168 to R170, R100, R248), whole and partial writes with their
check tags (R111, R112), and the checks a consumer makes of what it reads (R83, R113). -/

namespace Sys2Proof.Machine

/-- A tensor descriptor (Table 05-15). -/
structure Desc where
  base : Nat
  typ : Nat
  layout : Nat
  rank : Nat
  crbind : Bool
  cmode : Nat
  notag : Bool
  sizes : List Nat
  strides : List Nat
  crnum : Nat
  rstride : Nat
  reserved : Bool                 -- a reserved byte or MODE bit 7 is not 0
deriving DecidableEq, Repr

/-- The descriptor in 64 bytes. -/
def parseDesc (b : List Byte) : Desc :=
  let mode := leAt b 7 1
  { base := leAt b 0 5, typ := leAt b 5 1, layout := leAt b 6 1, rank := bits mode 0 3, crbind := bit mode 3,
    cmode := bits mode 4 2, notag := bit mode 6,
    sizes := (List.range 5).map (fun k => leAt b (8 + 4 * k) 4), strides := (List.range 5).map (fun k => leAt b (28 + 4 * k) 4),
    crnum := leAt b 48 1 % 64, rstride := leAt b 52 4,
    reserved := bit mode 7 || leAt b 49 3 != 0 || leAt b 56 4 != 0 }

def Desc.size (d : Desc) (k : Nat) : Nat := d.sizes.getD k 1
def Desc.stride (d : Desc) (k : Nat) : Nat := d.strides.getD k 0

/-- Bits of an element type (Table 05-16); 0 for an invalid code. -/
def typeBits (t : Nat) : Nat :=
  match t with
  | 1 => 8 | 2 => 8 | 3 => 4 | 4 => 16 | 5 => 32 | 6 => 8 | 7 => 8 | 8 => 16 | 9 => 32 | 10 => 1 | 11 => 8 | _ => 0

/-- Whether a type's elements are smaller than a byte (INT4 and Bit). -/
def subByte (t : Nat) : Bool := t == 3 || t == 10

/-- Bytes of one element; 1 for INT4 and Bit. -/
def Desc.ebytes (d : Desc) : Nat := if subByte d.typ then 1 else typeBits d.typ / 8

/-- Elements of the tensor. -/
def Desc.count (d : Desc) : Nat := d.sizes.foldl (· * ·) 1

/-- Bytes of one row (dimension 0) of INT4 or Bit elements (R170). -/
def Desc.rowBytes (d : Desc) : Nat := ceilDiv (d.size 0 * typeBits d.typ) 8

/-- The coordinates of element `i` in element order, dimension 0 innermost. -/
def Desc.coords (d : Desc) (i : Nat) : List Nat :=
  let c0 := i % d.size 0
  let i1 := i / d.size 0
  let c1 := i1 % d.size 1
  let i2 := i1 / d.size 1
  let c2 := i2 % d.size 2
  let i3 := i2 / d.size 2
  [c0, c1, c2, i3 % d.size 3, i3 / d.size 3]

/-- The byte offset from BASE and the bit within that byte at which the element at given coordinates begins (R170, R248). -/
def Desc.posOf (d : Desc) (c : List Nat) : Nat × Nat :=
  let x (k : Nat) := c.getD k 0
  let up := x 2 * d.stride 2 + x 3 * d.stride 3 + x 4 * d.stride 4
  if d.layout = 2 then
    let e := d.ebytes
    (((x 1 / 64) * ceilDiv (d.size 0) 64 + x 0 / 64) * 4096 * e + ((x 1 % 64) * 64 + x 0 % 64) * e + up, 0)
  else if subByte d.typ then
    (x 1 * d.stride 1 + up + x 0 * typeBits d.typ / 8, x 0 * typeBits d.typ % 8)
  else (x 0 * d.stride 0 + x 1 * d.stride 1 + up, 0)

/-- The position of element `i` in element order. -/
def Desc.pos (d : Desc) (i : Nat) : Nat × Nat := d.posOf (d.coords i)

/-- The extent from BASE (R170): for INT4 and Bit the sum runs over dimensions above 0 and a row stands for the element; a
tiled tensor ends with its last tile. -/
def Desc.extent (d : Desc) : Nat :=
  let span (k : Nat) := (d.size k - 1) * d.stride k
  let up := span 2 + span 3 + span 4
  if d.layout = 2 then ceilDiv (d.size 1) 64 * ceilDiv (d.size 0) 64 * 4096 * d.ebytes + up
  else if subByte d.typ then span 1 + up + d.rowBytes
  else span 0 + span 1 + up + d.ebytes

/-- Bytes of the tensor in element order, as a linear stream. -/
def Desc.streamBytes (d : Desc) : Nat := ceilDiv (d.count * typeBits d.typ) 8

/-- The conditions on a planar descriptor (R278). -/
def Desc.planarOk (d : Desc) : Bool :=
  let e := d.ebytes
  let ch := if d.rank = 2 then 1 else 2
  let plane := if d.rank = 2 then d.size 0 * e else (d.size 1 - 1) * d.stride 1 + d.size 0 * e
  decide (2 ≤ d.rank) && [1, 2, 4, 5, 6, 7, 8, 9].contains d.typ && d.stride 0 == e &&
  (d.rank == 2 || decide (d.size 0 * e ≤ d.stride 1)) && d.stride ch % 256 == 0 && decide (plane ≤ d.stride ch)

/-- A descriptor that R170 calls inconsistent, apart from the type's fit to the operation. `align` is the alignment its unit
asks of BASE. -/
def Desc.inconsistent (d : Desc) (align : Nat) : Bool :=
  d.rank == 0 || 5 < d.rank || d.sizes.any (fun x => x == 0) ||
  (List.range 5).any (fun k => d.rank ≤ k && d.size k != 1) ||
  (!d.crbind && d.base % align != 0) || (d.crbind && d.base != 0) || d.reserved ||
  decide (2 ^ 40 < d.base + d.extent) || (d.layout == 3) != (d.cmode == 2) || 3 < d.layout || d.cmode == 3 ||
  (d.layout == 1 && !d.planarOk) ||
  typeBits d.typ == 0

/-- The byte offsets that elements `lo` to `hi - 1` touch. -/
def Desc.offsets (d : Desc) (lo hi : Nat) : List Nat :=
  ((List.range (hi - lo)).flatMap (fun i =>
    let o := (d.pos (lo + i)).1
    (List.range d.ebytes).map (· + o))).eraseDups

/-- The virtual pages that elements `lo` to `hi - 1` touch; none for a region-bound tensor, which is not translated (R100). -/
def Desc.pages (d : Desc) (lo hi : Nat) : List Nat :=
  if d.crbind then [] else ((d.offsets lo hi).map (fun o => (d.base + o) / 4096)).eraseDups

/-! ### Bytes at physical addresses -/

/-- A storage byte by storage offset. -/
def Storage.byte (t : Storage) (o : Nat) : Byte := Sparse.get (fun _ => (0xFF : Byte)) t.cells o

/-- What a byte at a physical address reads as, apart from the requester's rights: SRAM, the storage window and the boot ROM
have contents; other addresses read 0. -/
def State.physByte (s : State) (a : Nat) : Byte :=
  match s.loc a with
  | .store _ => s.sto.byte (a - 0x1000000000)
  | .rom => Config.bootRomByte a
  | .hole | .regs | .cim | .remote => 0
  | _ => s.mem.byte a

/-- The physical address of byte `o` of a tensor: through the page map, or in its bound region from the running count
`start` (R100). None where a page refused the access. -/
def State.tensorPhys (s : State) (d : Desc) (m : PageMap) (acc : Acc3) (start o : Nat) : Option Nat :=
  if d.crbind then some (s.crAddr d.crnum start o) else m.phys acc (d.base + o)

/-- The bits of element `i`, read through `rd`; a refused page reads 0 (R137). -/
def State.elem (s : State) (rd : Nat → Byte) (d : Desc) (m : PageMap) (start i : Nat) : Nat :=
  let p := d.pos i
  let v := leNat ((List.range d.ebytes).map (fun k => match s.tensorPhys d m .read start (p.1 + k) with
    | some a => rd a
    | none => 0))
  if subByte d.typ then bits v p.2 (typeBits d.typ) else v

/-- Elements `lo` to `hi - 1`. -/
def State.elems (s : State) (rd : Nat → Byte) (d : Desc) (m : PageMap) (start lo hi : Nat) : List Nat :=
  (List.range (hi - lo)).map (fun i => s.elem rd d m start (lo + i))

/-- Elements as the bytes of a linear stream: bits concatenated least significant first. -/
def packElems (w : Nat) (l : List Nat) : List Byte :=
  leBytes (ceilDiv (l.length * w) 8) (l.reverse.foldl (fun a x => a * 2 ^ w + x % 2 ^ w) 0)

/-- The elements of `w` bits in a linear stream of bytes. -/
def unpackElems (w n : Nat) (l : List Byte) : List Nat :=
  let v := leNat l
  (List.range n).map (fun i => bits v (i * w) w)

/-! ### Writing with check tags -/

/-- Write bytes at physical addresses of SRAM: a block written in full gets a fresh tag, part of a block follows R112.
Bytes outside the SRAM are dropped. -/
def State.writeBytes (s : State) (l : List (Nat × Byte)) : State :=
  let l := l.filter (fun x => (s.loc x.1).sram)
  let blocks := (l.map (fun x => x.1 / 256)).eraseDups
  blocks.foldl (fun s b =>
    let here := l.filter (fun x => x.1 / 256 == b)
    let whole := (here.map (·.1)).eraseDups.length == 256
    let m' := here.foldl (fun (m : Memory) (x : Nat × Byte) => m.setByte x.1 x.2) s.mem
    if !(s.loc (b * 256)).tagged then { s with mem := m' }
    else if whole then { s with mem := (m'.setTagDiff b 0).setBad b false }
    else if s.mem.tagOk b then { s with mem := m' }
    else { s with mem := m'.setBad b true }.count R.MEM_TAGERR) s

/-- The byte writes that set elements of a tensor: element index and bits. INT4 and Bit elements change their part of the
byte `old` gives. -/
def State.elemWrites (s : State) (d : Desc) (m : PageMap) (start : Nat) (vals : List (Nat × Nat)) : List (Nat × Byte) :=
  vals.foldl (fun (acc : List (Nat × Byte)) (iv : Nat × Nat) =>
    let p := d.pos iv.1
    if subByte d.typ then
      match s.tensorPhys d m .write start p.1 with
      | none => acc
      | some a =>
        let old := (match acc.find? (fun (x : Nat × Byte) => x.1 == a) with | some x => x.2 | none => s.mem.byte a).toNat
        let w := typeBits d.typ
        let new := old - bits old p.2 w * 2 ^ p.2 + (iv.2 % 2 ^ w) * 2 ^ p.2
        (a, BitVec.ofNat 8 new) :: acc.filter (fun x => x.1 != a)
    else
      (List.range d.ebytes).foldl (fun acc k => match s.tensorPhys d m .write start (p.1 + k) with
        | none => acc
        | some a => (a, BitVec.ofNat 8 (iv.2 / 256 ^ k)) :: acc) acc) []

/-- Write elements of a tensor. -/
def State.writeElems (s : State) (d : Desc) (m : PageMap) (start : Nat) (vals : List (Nat × Nat)) : State :=
  s.writeBytes (s.elemWrites d m start vals).reverse

/-! ### What a consumer checks (R83, R113, R114) -/

/-- A consumer's failure: at which address, and whether the check bits (true) or the tag failed. -/
def State.consumeFail (s : State) (notag : Bool) (addrs : List Nat) : Option (Nat × Bool) :=
  let blocks := ((addrs.filter (fun a => (s.loc a).sram)).map (fun a => a / 256)).eraseDups
  blocks.findSome? (fun b =>
    match (List.range 32).find? (fun w => s.mem.isEccBad (b * 32 + w)) with
    | some w => some (b * 256 + w * 8, true)
    | none => if !notag && (s.loc (b * 256)).tagged && !s.mem.tagOk b then some (b * 256, false) else none)

/-- Count and report a consumer's failure (R83, R113). -/
def State.reportConsume (s : State) (x : Nat × Bool) (c engine : Nat) : State :=
  if x.2 then s.eccFail x.1 c engine else s.tagFail x.1 c engine

/-- The physical addresses of the SRAM bytes elements `lo` to `hi - 1` are read from. -/
def State.readAddrs (s : State) (d : Desc) (m : PageMap) (start lo hi : Nat) : List Nat :=
  (d.offsets lo hi).filterMap (fun o => s.tensorPhys d m .read start o)

end Sys2Proof.Machine
end

