-- ==== Sys2Proof/Machine/Rings.lean ====
section
/-! DEFINITION. Result rings: space, cursors and the commit of a record (R33, R34, R478, R481). -/

namespace Sys2Proof.Machine

def State.ringX (s : State) (q : Nat) : Ring := Sparse.get (fun _ => Ring.idle) s.rings q

def State.setRingX (s : State) (q : Nat) (x : Ring) : State :=
  { s with rings := Sparse.put (fun _ => Ring.idle) s.rings q x }

/-- The owner context of ring pair `q` (Table 17-6). -/
def ringOwner (q : Nat) : Nat :=
  if 8 ≤ q then (q - 8) / 2 + 1 else if q = 2 then 6 else if q = 4 then 5 else if q = 6 then 7 else 0

/-- Entries of result ring `q`. -/
def State.ringSize (s : State) (q : Nat) : Nat := s.fget F.HOST_RR_CFG_SIZEM1 q + 1

def State.ringEnabled (s : State) (q : Nat) : Bool := s.flag F.HOST_RR_CFG_EN q

/-- The distances from HEAD of every cursor that counts (R481). -/
def State.ringDists (s : State) (q : Nat) : List Nat :=
  (if s.flag F.HOST_RR_CFG_FWREAD q then [(s.ringX q).fwDist] else []) ++ (s.ringX q).cursors.map (·.dist)

/-- Free entries of a ring: SIZE less the distance of the lowest cursor; a ring without cursors always has space. -/
def State.ringSpace (s : State) (q : Nat) : Nat := s.ringSize q - (s.ringDists q).foldl max 0

/-- Write the 64-byte entries of a record at consecutive entries modulo SIZE. -/
def State.putEntries (s : State) (q : Nat) : Nat → List (List Byte) → State
  | _, [] => s
  | i, e :: t => (s.store (s.rget R.HOST_RR_BASE q * 4096 + 64 * (i % s.ringSize q)) (padTo 64 e)).putEntries q (i + 1) t

/-- A record's bytes with SEQ written at bytes 4 to 7 (R33). -/
def withSeq (b : List Byte) (seq : Nat) : List Byte := b.take 4 ++ leBytes 4 seq ++ b.drop 8

/-- Commit a record to an enabled ring that has space for it: entries, HEAD, cursor distances and SEQ (R33, R34, R481). -/
def State.commitRecord (s : State) (q : Nat) (b : List Byte) : State :=
  let n := ceilDiv b.length 64
  let head := s.fget F.HOST_RR_HEAD_INDEX q
  let size := s.ringSize q
  let seq := s.rget R.HOST_RR_SEQ q
  let s := s.putEntries q head (chunksOf 64 n (withSeq b seq))
  let s := s.fset F.HOST_RR_HEAD_INDEX ((head + n) % size) q
  let s := s.rset R.HOST_RR_SEQ ((seq + 1) % 2 ^ 32) q
  let x := s.ringX q
  s.setRingX q { x with fwDist := if s.flag F.HOST_RR_CFG_FWREAD q then x.fwDist + n else x.fwDist,
                        cursors := x.cursors.map (fun c => { c with dist := c.dist + n }) }

/-- How an attempt to commit a record ends. -/
inductive Commit where
  | done | full | dropped
deriving DecidableEq, Repr

/-- Try to commit a record: a disabled ring drops it, a ring without space keeps the producer waiting (R481). -/
def State.tryCommit (s : State) (q : Nat) (b : List Byte) : Commit × State :=
  if !s.ringEnabled q then (.dropped, s)
  else if s.ringSpace q < ceilDiv b.length 64 then (.full, s)
  else (.done, s.commitRecord q b)

end Sys2Proof.Machine
end

