-- ==== Sys2Proof/Machine/Tile.lean ====
section
/-! DEFINITION. Weight tiles as the sequencers and the programming units see them: their records, the position each serves, the
deck a position selects (R185 to R189, R206, R215 to R217, R240, R241). -/

namespace Sys2Proof.Machine

/-- Physical tile `t` of die `d`. -/
def State.tileX (s : State) (d t : Nat) : Tile := Sparse.get (fun k => Tile.fresh (k % 1152)) s.cim.tiles (d * 1152 + t)

def State.setTile (s : State) (d t : Nat) (x : Tile) : State :=
  { s with cim := { s.cim with tiles := Sparse.put (fun k => Tile.fresh (k % 1152)) s.cim.tiles (d * 1152 + t) x } }

/-- Physical deck `p` of a tile. -/
def Tile.deck (t : Tile) (p : Nat) : DeckRec := Sparse.get (fun _ => DeckRec.fresh) t.decks p

def Tile.setDeck (t : Tile) (p : Nat) (x : DeckRec) : Tile :=
  { t with decks := Sparse.put (fun _ => DeckRec.fresh) t.decks p x }

/-- Replace a physical deck of a tile. -/
def State.setDeck (s : State) (d t p : Nat) (x : DeckRec) : State := s.setTile d t ((s.tileX d t).setDeck p x)

/-- Whether the grade has tile `t` on a weight die (R3, R215). -/
def State.tilePresent (s : State) (t : Nat) : Bool := decide (t < 1152) && decide (t / 72 < s.groupsPerDie)

/-- Whether a tile group can be named in a mask: enabled, not retired with its spares exhausted, its die's link up (R12, R178,
R241). -/
def State.groupOk (s : State) (d g : Nat) : Bool :=
  decide (g < s.groupsPerDie) && !s.cim.exhausted.contains (d * 16 + g) && !s.dieDown d

/-- The physical tile that serves a logical position; none while the position is unavailable (R240, R241). -/
def State.serving (s : State) (d g pos : Nat) : Option Nat :=
  ((List.range 72).map (· + 72 * g)).find? (fun t =>
    let x := s.tileX d t
    x.role == 0 && x.pos == pos && !x.stopped)

/-- The selected logical deck of a position, by die * 1024 + group * 64 + position (R206). -/
def State.lselOf (s : State) (k : Nat) : Nat := Sparse.get (fun _ => 0) s.cim.lsel k

/-- The physical deck that serves logical deck `l`, where it is READY (R217); 0xFF for none. -/
def Tile.ready (t : Tile) (l : Nat) : Nat :=
  let p := t.lmap.getD l 0xFF
  if p < 8 ∧ (t.deck p).state = 5 then p else 0xFF

/-- Select logical deck `l` at a position (R206, R217). -/
def State.selectDeck (s : State) (d g pos l : Nat) : State :=
  let s := { s with cim := { s.cim with lsel := Sparse.put (fun _ => 0) s.cim.lsel (d * 1024 + g * 64 + pos) l } }
  match s.serving d g pos with
  | none => s
  | some t => s.setTile d t { s.tileX d t with select := (s.tileX d t).ready l }

/-- The row of cells that stands for row `r` of deck `p`: a spare row where one is assigned (R189). -/
def Tile.rowOf (t : Tile) (p r : Nat) : Nat :=
  match t.defects.find? (fun e => e.kind == 2 && e.deck == p && e.row == r) with
  | some e => 512 + e.spare
  | none => r

/-- The column that is converted for column `c` of deck `p`. -/
def Tile.colOf (t : Tile) (p c : Nat) : Nat :=
  match t.defects.find? (fun e => e.kind == 1 && e.deck == p && e.col == c) with
  | some e => 528 + e.spare
  | none => c

/-- The level a cell of a deck holds. -/
def DeckRec.level (d : DeckRec) (r c : Nat) : Nat := Sparse.get (fun _ => 0) d.cells (r * 544 + c)

def DeckRec.setLevel (d : DeckRec) (r c v : Nat) : DeckRec := { d with cells := Sparse.put (fun _ => 0) d.cells (r * 544 + c) v }

/-- Columns per weight W, offset OFS and outputs per deck of a weight format (Table 06-2). -/
def wfmtShape (w : Nat) : Nat × Nat × Nat :=
  match w with
  | 0 => (4, 128, 128) | 1 => (2, 8, 256) | 2 => (1, 2, 512) | _ => (1, 1, 512)

/-! ### Reports of a programming unit (R219, R229, R239, R240) -/

/-- A report card of the programming unit of die `d` about deck `p` of tile `t`. -/
def State.cimpCard (s : State) (d t p event value ctx : Nat) : State :=
  s.card { block := 9, event := event, ctx := ctx, ukind := 1, ua := d * 16 + t / 72 % 16, ub := t % 72 * 8 + p, die := d + 1,
           detail := leBytes 2 value }

/-- Commands of die `d`'s programming unit, in the order read. -/
def State.cmds (s : State) (d : Nat) : List TileCmd := Sparse.get (fun _ => []) s.cim.cmds d

def State.setCmds (s : State) (d : Nat) (l : List TileCmd) : State :=
  { s with cim := { s.cim with cmds := Sparse.put (fun _ => []) s.cim.cmds d l } }

/-- A command of the unit's own (R219). -/
def TileCmd.own (op t p arg : Nat) : TileCmd :=
  { idx := none, op := op, tile := t, deck := p, arg := arg, src := 0, block := 0, tagpfx := 0, rsvd := false, running := false,
    step := 0, count := 0, out := false, susp := false, sums := [], trim := [] }

/-- Queue a command of the unit's own behind those already read. -/
def State.queueOwn (s : State) (d op t p arg : Nat) : State := s.setCmds d (s.cmds d ++ [TileCmd.own op t p arg])

/-- The drift index of a deck (R229). GAIN0 = 0 is a record no calibration wrote; the index is then 255. -/
def DeckRec.driftIndex (x : DeckRec) : Nat :=
  if x.cal.gain0 = 0 then 255
  else min 255 (((x.gain : Int) - x.cal.gain0).natAbs * 256 / x.cal.gain0 + (x.offs - x.cal.offs0).natAbs / 64)

/-- Recompute the drift index of deck `p` of tile `t` after an update of its OFFS and GAIN; at the threshold set REFRESH, report
once and queue a TOPUP under AUTOREF (R229). -/
def State.driftUpdate (s : State) (d t p : Nat) : State :=
  let x := (s.tileX d t).deck p
  let di := x.driftIndex
  let th := s.fget F.CIMP_DRIFT_TH d
  let hit := !x.refresh && decide ((if th = 0 then 255 else th) ≤ di)
  let s := s.setDeck d t p { x with drift := di, refresh := x.refresh || hit }
  if hit then
    let s := s.cimpCard d t p 0x80 di 0xFF
    if s.flag F.CIMP_CTL_AUTOREF d then s.queueOwn d 3 t p 0 else s
  else s

end Sys2Proof.Machine
end

