-- ==== Sys2Proof/Machine/Eng.lean ====
section
/-! DEFINITION. Engine streams (spec/05): starts, program begin, fetch, waits, bells, halts and completion records. The
issue checks and the commit of a bundle are in Issue, the operations in their units' files. -/

namespace Sys2Proof.Machine

/-! ### Streams and programs -/

/-- The program kind of a stream (Table 05-1). -/
def streamKind (n : Nat) : Nat := if n < 4 then 0 else if n < 12 then 1 else if n < 14 then 2 else 3

/-- A program as it stands before its header is checked (R155). -/
def Prog.ofStart (x : Start) : Prog :=
  { start := x, began := false, beginTb := none, length := 0, timed := false, pinres := 0, marktype := 0, pc := 32, bcnt := 0,
    marks := List.replicate 16 0, expect := List.replicate 8 0, phase := .fetch, bundle := none, w0 := false, w1 := false,
    iter := 0, ops := [], descs := [], markWr := [], expWr := [], branch := none, ending := false, delay := 0, susp := false,
    lastIssue := 0, group := false, broken := false, readyTb := 0, resident := false, maps := [], ahead := none, behind := [] }

/-- Replace the running program of stream `n`. -/
def State.setRun (s : State) (n : Nat) (p : Option Prog) : State := s.setStream n { s.stream n with run := p }

/-- Whether a DME core is retired (R272). -/
def State.coreRetired (s : State) (n : Nat) : Bool := s.flag F.DME_STAT_RETIRED n

/-! ### Completion records (R155, Table 05-4) -/

/-- The completion record of a program: STATUS, REASON and PC as given. -/
def completionBytes (p : Prog) (status reason pc origin : Nat) : List Byte :=
  [0x10, 0] ++ leBytes 2 1 ++ leBytes 4 0 ++ leBytes 8 origin ++ leBytes 4 p.start.tag ++
  [BitVec.ofNat 8 p.start.stream, BitVec.ofNat 8 status, BitVec.ofNat 8 reason, BitVec.ofNat 8 p.start.cls] ++
  leBytes 4 pc ++ leBytes 4 p.bcnt ++ leBytes 8 (p.beginTb.getD 0) ++
  ((List.range 6).flatMap (fun m => leBytes 4 (p.marks.getD m 0).toNat))

/-- Queue a program's completion record behind the stream's earlier ones; none where RING is 0xFF. -/
def State.addCompletion (s : State) (n : Nat) (p : Prog) (status reason pc : Nat) : State :=
  if p.start.ring = 0xFF then s
  else
    let x := s.stream n
    s.setStream n { x with compl := x.compl ++ [⟨p.start.ctx, p.start.ring, completionBytes p status reason pc s.now⟩] }

/-- COMPLETION_RECORD_COMMIT: the oldest completion record of the stream is committed once its ring has space; one aimed at a
ring its context does not own is dropped with a violation of kind 0x7 (R155). -/
def execCompletionRecordCommit (n : Fin 22) (s : State) : Out State :=
  .next (match (s.stream n.val).compl with
    | [] => s
    | c :: t =>
      let drop (s : State) := s.setStream n.val { s.stream n.val with compl := t }
      if ringOwner c.ring ≠ c.ctx then (drop s).violate c.ctx n.val 0x7 0
      else
        match s.tryCommit c.ring c.bytes with
        | (.full, s) => s
        | (_, s) => drop s)

/-! ### Halting (R181, R182) -/

/-- End the arrivals a unit leaves unfinished (R594). -/
def State.abandonArrivals (s : State) (unit : Nat) : State :=
  (List.range 64).foldl (fun s n =>
    let reg := s.region n
    if reg.opened.any (fun a => a.unit == unit && !a.done && !a.window) || reg.waiting.any (fun w => w.1 == unit) then
      let s := s.setRegion n { reg with
        opened := reg.opened.map (fun a => if a.unit = unit ∧ a.done = false ∧ a.window = false then
          { a with done := true, abandoned := true } else a),
        waiting := reg.waiting.filter (fun w => w.1 != unit) }
      s.retireArrivals n (reg.opened.length + 1)
    else s) s

/-- Drop context `c`'s queued starts on the stream, each with a ring leaving a completion record of STATUS 0x2 (R182). -/
def State.dropStarts (s : State) (n c : Nat) : State :=
  let x := s.stream n
  let gone := (x.queue ++ x.held).filter (fun q => q.ctx == c)
  let s := s.setStream n { x with queue := x.queue.filter (fun q => q.ctx != c), held := x.held.filter (fun q => q.ctx != c) }
  gone.foldl (fun s q => s.addCompletion n (Prog.ofStart q) 2 0 0) s

/-- Leave what the registers show of the last program (ENG_Sn_PC, ENG_Sn_BCNT, ENG_MARKn_m). -/
def Stream.remember (x : Stream) (p : Prog) : Stream := { x with lastPc := p.pc, lastBcnt := p.bcnt, lastMarks := p.marks }

/-- Release the cores that follow a broadcast of stream `n` (R179). -/
def State.endBroadcast (s : State) (n : Nat) : State :=
  (List.range 8).foldl (fun s k =>
    let x := s.stream (4 + k)
    if x.follows = some n then s.setStream (4 + k) { x with follows := none } else s) s

/-- The halt of program `p` of stream `n`, running or suspended, with a reason (R181, R182): ENG_Sn_HALT and HALTPC, the
completion record of STATUS 0x1, the halt interrupt, the report card (but for 0x0D and 0x15) and the refusal of the
context's starts. -/
def State.haltProg (s : State) (n : Nat) (p : Prog) (reason slot handle vaddr : Nat) : State :=
  let c := p.start.ctx
  let s := s.abandonArrivals n
  let s := s.rset R.ENG_S_HALT (p.iter * 0x10000 + slot * 0x1000 + c * 0x100 + reason) n
  let s := s.rset R.ENG_S_HALTPC p.pc n
  let s := s.addCompletion n p 1 reason p.pc
  let s := { s with irqHalt := s.irqHalt ||| 2 ^ c }
  let s := if reason = 0x0D ∨ reason = 0x15 then s
    else s.card { block := 7, event := reason, ctx := c, ukind := 3, ua := n, engine := n, slot := if slot = 15 then 0xFF else slot,
                  handle := handle, pc := p.pc, prog := p.start.prog,
                  detail := if reason = 0x0C then leBytes 8 vaddr else [] }
  let x := s.stream n
  let s := s.setStream n { x with halted := x.halted ||| 2 ^ c }
  s.dropStarts n c

/-- The lines a program of stream `n` has locked in the L1 caches of its DME cores unlock (R251, R265). -/
def State.unlockProg (s : State) (n : Nat) (p : Prog) : State :=
  if streamKind n ≠ 1 then s
  else (if p.start.bcast then setBits 16 p.start.cmask else [n - 4]).foldl (fun s k => s.unlockLines k) s

/-- Halt the running program of stream `n` (R181). -/
def State.halt (s : State) (n reason slot handle vaddr : Nat) : State :=
  match (s.stream n).run with
  | none => s
  | some p =>
    let s := s.unlockProg n p
    let s := s.haltProg n p reason slot handle vaddr
    let s := s.setStream n { (s.stream n).remember p with run := none }
    if p.start.bcast then s.endBroadcast n else s

/-- Halt every stream of the running timed group with reason 0x14 (R176, R177). -/
def State.breakGroup (s : State) (except : Nat) : State :=
  (List.range 22).foldl (fun s n =>
    match (s.stream n).run with
    | some p => if p.group ∧ n ≠ except then s.halt n 0x14 15 0xFFFF 0 else s
    | none => s) s

/-! ### Starts (R153, R154) -/

/-- The start descriptor in 32 bytes, for a context. -/
def parseStart (c : Nat) (b : List Byte) : Start :=
  { ctx := c, prog := leAt b 0 8, tag := leAt b 8 4, stream := leAt b 12 1, cls := leAt b 13 1, ring := leAt b 14 1,
    hold := bit (leAt b 15 1) 0, bcast := bit (leAt b 15 1) 1, cmask := leAt b 16 2 }

/-- Whether a start descriptor breaks the format of result 0x5 (Table 05-3). -/
def startMalformed (c : Nat) (b : List Byte) : Bool :=
  bits (leAt b 15 1) 2 6 != 0 || leAt b 18 14 != 0 || leAt b 0 8 % 32 != 0 || decide (2 ^ 40 ≤ leAt b 0 8) ||
  decide (21 < leAt b 12 1) || (decide (16 ≤ leAt b 14 1) && leAt b 14 1 != 0xFF) ||
  (!bit (leAt b 15 1) 1 && leAt b 16 2 != 0) || (bit (leAt b 15 1) 0 && c != 0)

/-- Whether no start is accepted: the device enters Recess, or the last bell or thermal shutdown runs (PWR_STAT.STATE). -/
def State.startsBarred (s : State) : Bool :=
  let st := s.fget F.PWR_STAT_STATE
  st == 1 || st == 2 || st == 4 || st == 5 || st == 6

/-- The result of a start (Table 05-3). The order in which the reasons are tried is not stated: format, unit, class, state of
the device, halt, queue. DESIGN CHOICE, safe. -/
def State.startResult (s : State) (c : Nat) (b : List Byte) : Nat :=
  let x := parseStart c b
  if startMalformed c b then 5
  else if !s.streamEnabled x.stream then 3
  else if !s.classOk c x.cls then 2
  else if s.startsBarred then 6
  else if bit (s.stream x.stream).halted c ∧ !(streamKind x.stream == 1 && s.coreRetired (x.stream - 4)) then 4
  else if 8 ≤ (((s.stream x.stream).queue ++ (s.stream x.stream).held).filter (fun q => q.cls == x.cls)).length then 1
  else 0

/-- Submit a start descriptor in a context: its result, and the state with the start queued or refused (R154). Results 2 and 3
are violations; `addr` is the address they record. -/
def State.submitStart (s : State) (c unit addr : Nat) (b : List Byte) : Nat × State :=
  let res := s.startResult c b
  let x := parseStart c b
  let s := if res = 2 then s.violate c unit 0xB addr else if res = 3 then s.violate c unit 0x4 addr else s
  if res = 0 then
    let t := s.stream x.stream
    (res, s.setStream x.stream (if x.hold then { t with held := t.held ++ [x] } else { t with queue := t.queue ++ [x] }))
  else (res, s)

/-- What a write of `v` to ENG_Cc_SGO of context `n` does: the start of its window's descriptor (R154). -/
def State.startGo (s : State) (r : Req) (n : Nat) (v : Word) : State :=
  if bit v.toNat 0 then
    let b := (List.range 8).flatMap (fun k => leBytes 4 (s.rget R.ENG_C_SDESC n k))
    let x := s.submitStart n (unitOf r) (R.ENG_C_SGO.at n) b
    x.2.fset F.ENG_C_SSTAT_RESULT x.1 n
  else s

/-- ENG_START_GO: a write of ENG_Cc_SGO. Only context `c` writes its window; another is a violation of kind 0x5 (R153). -/
def execEngStartGo (r : Req) (n : Fin 8) (v : Word) (s : State) : Out State :=
  .next (s.asCtx r (R.ENG_C_SGO.at n.val) 0x5 (fun c => c == n.val) (fun s => s.startGo r n.val v))

/-- What a write of `v` to ENG_TSTART does: the held starts of the named streams are released (R175). -/
def State.releaseTimed (s : State) (v : Word) : State :=
  (setBits 22 v.toNat).foldl (fun s n =>
    if (s.stream n).held = [] then s else s.setStream n { s.stream n with released := true }) s

/-- TIMED_GROUP_RELEASE: a write of ENG_TSTART by home (R175). -/
def execTimedGroupRelease (r : Req) (v : Word) (s : State) : Out State :=
  .next (s.asHome r R.ENG_TSTART.at (fun s => s.releaseTimed v))

/-! ### Fetching through the stream's TLB (R157) -/

/-- What a stream fetch gives: the bytes, or a fault at a virtual address. A violating page delivers zero bytes (R137). -/
inductive Fetched where
  | bytes (b : List Byte)
  | fault (va flags : Nat)
deriving DecidableEq, Repr

/-- Fetch `k` bytes of a program at virtual address `va` for context `c` on stream `n`. -/
def State.fetch (s : State) (n c va k : Nat) : Fetched × State :=
  match s.translatePages n c ((pagesOf va k).map (fun v => (v, Acc3.fetch))) [] with
  | (.fault v _ f, s) => (.fault (if v = va / 4096 then va else v * 4096) f, s)
  | (.ok m, s) =>
    let s := s.violatePages n c m
    (.bytes ((List.range k).map (fun i => match m.phys .fetch (va + i) with
      | some a => s.physByte a
      | none => 0)), s)

/-- Keep the deck selection of stream `n`'s die for a class whose work is saved there (R207). -/
def State.recordDecks (s : State) (n cls : Nat) : State :=
  if 4 ≤ n then s
  else
    let kept := s.cim.lsel.filter (fun x => x.1 / 1024 == n)
    { s with cim := { s.cim with recs := Sparse.put (fun _ => []) s.cim.recs (n * 8 + cls) kept } }

/-- Reselect a class's decks on every tile of the die where they differ (R207). -/
def State.restoreDecks (s : State) (n cls : Nat) : State :=
  if 4 ≤ n then s
  else
    let kept := Sparse.get (fun _ => []) s.cim.recs (n * 8 + cls)
    let keys := ((s.cim.lsel.filter (fun x => x.1 / 1024 == n)) ++ kept).map (·.1)
    keys.foldl (fun s k =>
      let l := Sparse.get (fun _ => 0) kept k
      if s.lselOf k = l then s else s.selectDeck n (k % 1024 / 64) (k % 64) l) s

/-- Suspend the running program of stream `n` on a fault: the record is written and the program leaves the unit (R138). A fault
that cannot be reported aborts it (R140). A fault of a timed group halts the group's other streams (R177). -/
def State.suspend (s : State) (n : Nat) (p : Prog) (kind flags handle va step nsteps slot detail : Nat) : State :=
  let s := if p.group then s.breakGroup n else s
  let s := s.unlockProg n p
  let p := { p with resident := false, maps := [], broken := p.broken || p.group }
  let s := s.recordDecks n p.start.cls
  let f : FaultInfo := { ctx := p.start.ctx, unit := n, cls := p.start.cls, kind := kind, flags := flags, handle := handle,
                         vaddr := va, pc := p.pc, step := step, nsteps := nsteps, slot := slot, detail := detail }
  match s.reportFault f with
  | (true, s) => s.setStream n { s.stream n with run := none, saved := (s.stream n).saved ++ [{ p with susp := true }] }
  | (false, s) => (s.setRun n (some p)).halt n 0x0C slot handle va

/-! ### Beginning a program (R146, R155, R156, R179) -/

/-- The class to run next on a stream: the highest with resumable saved work or a start, leaving out classes whose suspended
instruction waits on a fault (R146). -/
def Stream.nextClass (x : Stream) : Option Nat :=
  (List.range 6).find? (fun c =>
    !x.saved.any (fun p => p.start.cls == c && p.susp) &&
    (x.saved.any (fun p => p.start.cls == c) || x.queue.any (fun q => q.cls == c) || (x.released && x.held.any (fun q => q.cls == c))))

/-- Whether a program header is valid for a stream (Table 05-5). -/
def headerOk (n : Nat) (h : List Byte) : Bool :=
  let mode := leAt h 7 1
  let len := leAt h 8 4
  let pin := leAt h 12 1
  h.length == 32 && leAt h 0 4 == 0x4752504C && leAt h 4 2 == 1 && leAt h 6 1 == streamKind n && bits mode 1 7 == 0 &&
  len % 4 == 0 && decide (4 ≤ len) && decide (len ≤ 524256) &&
  (pin == 0 || (bit mode 0 && streamKind n == 0 && decide (4 ≤ pin) && decide (pin ≤ 9))) &&
  leAt h 13 3 == 0 && leAt h 18 14 == 0

/-- Check the header of program `p`, which has just begun on stream `n`, and set it up; a bad header halts with reason 0x10 and
PC 0 (R156). A retired core halts with reason 0x12 before its first bundle (R272). -/
def State.checkHeader (s : State) (n : Nat) (p : Prog) : State :=
  if streamKind n = 1 ∧ s.coreRetired (n - 4) = true then (s.setRun n (some { p with pc := 0 })).halt n 0x12 15 0xFFFF 0 else
  match s.fetch n p.start.ctx p.start.prog 32 with
  | (.fault va f, s) => s.suspend n p 7 (f + 2) 0xFFFF va 0 1 15 0
  | (.bytes h, s) =>
    if headerOk n h then
      s.setRun n (some { p with began := true, length := leAt h 8 4, timed := bit (leAt h 7 1) 0, pinres := leAt h 12 1,
                                marktype := leAt h 16 2, lastIssue := s.now })
    else (s.setRun n (some { p with pc := 0 })).halt n 0x10 15 0xFFFF 0

/-- Whether the domain of stream `n` is on (R532). -/
def State.streamPower (s : State) (n : Nat) : Bool :=
  match streamKind n with | 0 => s.dieOn n | 1 => s.domOn 4 | 2 => s.domOn 5 | _ => s.domOn 2

/-- Whether stream `n` may take up work now: its domain on, enabled, nothing running, no completion record waiting, not a broadcast follower,
not in split mode (R91, R155, R179). -/
def State.streamFree (s : State) (n : Nat) : Bool :=
  let x := s.stream n
  s.streamEnabled n && s.streamPower n && x.run == none && x.compl == [] && x.follows == none && !s.flag F.MEM_STAT_SPLITON

/-- The start that would begin next in a class: a released held start first. -/
def Stream.firstStart (x : Stream) (c : Nat) : Option Start :=
  match (if x.released then x.held.find? (fun q => q.cls == c) else none) with
  | some q => some q
  | none => x.queue.find? (fun q => q.cls == c)

/-- Take a start out of its queue. -/
def Stream.take (x : Stream) (q : Start) : Stream :=
  if q.hold then { x with held := x.held.erase q, released := false } else { x with queue := x.queue.erase q }

/-- Between the programs of a tile sequencer no timed program runs on its die: the clock-enable changes that waited for that apply
(R443). -/
def State.applyClocks (s : State) (n : Nat) : State :=
  if n < 4 then
    { s with safe := { s.safe with suspects := s.safe.suspects.map (fun x =>
        if x.1 / 16 = n then (x.1, { x.2 with waits := false }) else x) } }
  else s

/-- Whether a bundle's slots name a handle, in any iteration of its RPT. -/
def Bundle.names (b : Bundle) (h : Nat) : Bool :=
  let slot (i : Nat) : Option Nat := (b.slots.find? (fun x => x.1 == i)).map (·.2)
  let rpt := (slot 7).getD 0
  [2, 4].any (fun k => match slot k with
    | none => false
    | some y => (List.range 3).any (fun j => (List.range (bits rpt 40 16 + 1)).any (fun i =>
        decide ((bits y (44 - 12 * j) 12 : Int) + i * toSigned 12 (bits rpt (28 - 12 * j) 12) = h)))) ||
  [1, 6].any (fun k => match slot k with | none => false | some y => bits y 44 12 == h)

/-- The program as it resumes: the descriptor cache is empty (R169), but for the descriptors of an issued bundle, which its unit holds
(R143). -/
def Prog.resumed (p : Prog) : Prog :=
  match p.phase, p.bundle with
  | .fetch, _ | .waiting, _ | .ready, _ | _, none => { p with descs := [] }
  | _, some b => { p with descs := p.descs.filter (fun x => b.names x.1) }

/-- Begin or resume the next work of stream `n`: saved work of the class resumes, else the oldest start of the class begins (R146,
R147, R169). Starts with BCAST begin in BROADCAST_START. -/
def State.beginNext (s : State) (n : Nat) : State :=
  if !s.streamFree n then s
  else
    let s := s.applyClocks n
    let x := s.stream n
    match x.nextClass with
    | none => s
    | some c =>
      match x.saved.find? (fun p => p.start.cls == c) with
      | some p =>
        let s := s.setStream n { x with run := some p.resumed, saved := x.saved.erase p }
        let s := s.restoreDecks n c
        if p.began then s else s.checkHeader n p
      | none =>
        match x.firstStart c with
        | none => s
        | some q =>
          if q.bcast then s
          else
            let p := { Prog.ofStart q with group := q.hold }
            (s.setStream n { x.take q with run := some p }).checkHeader n p

/-- PROGRAM_BEGIN (R146, R155, R156). -/
def execProgramBegin (n : Fin 22) (s : State) : Out State := .next (s.beginNext n.val)

/-- Save the running program of stream `n` to its class's slot (R147). -/
def State.saveRun (s : State) (n : Nat) : State :=
  match (s.stream n).run with
  | none => s
  | some p =>
    let s := s.unlockProg n p
    let p := { p with resident := false, maps := [] }
    let s := s.recordDecks n p.start.cls
    let s := s.setStream n { (s.stream n).remember p with run := none, saved := (s.stream n).saved ++ [p] }
    if p.start.bcast then s.endBroadcast n else s

/-- PREEMPTION: a start of higher class waits, so the running work is saved at its boundary and the new start begins (R147); a
timed group gives way to safety only, and breaks (R177). -/
def execPreemption (n : Fin 22) (s : State) : Out State :=
  .next (
    let n := n.val
    let x := s.stream n
    match x.run, (List.range 6).find? (fun c => x.queue.any (fun q => q.cls == c)) with
    | some p, some c =>
      if p.start.cls ≤ c then s
      else if p.group then (if c = 0 then ((s.breakGroup n).halt n 0x14 15 0xFFFF 0).beginNext n else s)
      else (s.saveRun n).beginNext n
    | _, _ => s)

/-- BROADCAST_START: the oldest start of stream `n`'s highest class is a BCAST start (R179). Its mask must hold the leader and
name only enabled cores that are not retired, else it halts with reason 0x12; it begins when no core of the mask runs equal
or higher class, lower work on them being saved. -/
def execBroadcastStart (n : Fin 22) (s : State) : Out State :=
  .next (
    let n := n.val
    let x := s.stream n
    match x.nextClass.bind (fun c => x.firstStart c) with
    | none => s
    | some q =>
      if !q.bcast || !s.streamFree n then s
      else
        let p := Prog.ofStart q
        let cores := setBits 16 q.cmask
        if streamKind n ≠ 1 ∨ !bit q.cmask (n - 4) ∨ !cores.all (fun k => decide (k < 8) && s.coreEnabled k && !s.coreRetired k) then
          (s.setStream n { x.take q with run := some { p with pc := 0 } }).halt n 0x12 15 0xFFFF 0
        else if cores.any (fun k => match (s.stream (4 + k)).run with | some p' => decide (p'.start.cls ≤ q.cls) | none => false) then s
        else
          let s := (cores.filter (fun k => 4 + k ≠ n)).foldl (fun s k =>
            let s := s.saveRun (4 + k)
            s.setStream (4 + k) { s.stream (4 + k) with follows := some n }) s
          (s.setStream n { (s.stream n).take q with run := some p }).checkHeader n p)

/-! ### Bundles (R158, R159, R184) -/

def Bundle.slot (b : Bundle) (i : Nat) : Option Nat := (b.slots.find? (fun x => x.1 == i)).map (·.2)

/-- The virtual address of the byte at PC. -/
def Prog.va (p : Prog) (pc : Nat) : Nat := p.start.prog + pc

/-- Whether the bundle's SYNC slot has a wait still to be satisfied. -/
def Prog.waits (p : Prog) : Bool :=
  match p.bundle.bind (fun b => b.slot 0) with
  | none => false
  | some y => (bit y 63 && !p.w0) || (bit y 42 && !p.w1)

/-- The bytes of a bundle at a PC: what BUNDLE_FETCH finds there (R157, R158, R174, R184). -/
inductive FetchEnd where
  | bundle (b : Bundle)
  | halts (reason : Nat)
  | faults (va flags : Nat)
deriving DecidableEq, Repr

/-- Fetch the bundle at `pc` of program `p` on stream `n`: program overrun, stop point, marker, slots. -/
def State.fetchBundle (s : State) (n : Nat) (p : Prog) (pc : Nat) : FetchEnd × State :=
  if 32 + p.length ≤ pc then (.halts 0x11, s)
  else if s.flag F.ENG_S_STOP_EN n ∧ s.fget F.ENG_S_STOP_COUNT n ≤ p.bcnt then (.halts 0x0D, s)
  else
    match s.fetch n p.start.ctx (p.va pc) 4 with
    | (.fault va f, s) => (.faults va f, s)
    | (.bytes hb, s) =>
      let h := leNat hb
      let pos := setBits 8 (bits h 20 8)
      if bits h 28 4 ≠ 0xB then (.halts 0x0E, s)
      else if 32 + p.length < pc + 4 + 8 * pos.length then (.halts 0x11, s)
      else
        match s.fetch n p.start.ctx (p.va (pc + 4)) (8 * pos.length) with
        | (.fault va f, s) => (.faults va f, s)
        | (.bytes sb, s) => (.bundle ⟨pc, h, pos.zipIdx.map (fun x => (x.1, leAt sb (8 * x.2) 8))⟩, s)

/-- Bytes of a bundle (R158). -/
def Bundle.size (b : Bundle) : Nat := 4 + 8 * b.slots.length

/-- Whether a bundle's CTRL slot is END or BR: the next PC is known only at its commit. -/
def Bundle.turns (b : Bundle) : Bool :=
  match b.slot 1 with
  | some y => bits y 56 8 == 1 || bits y 56 8 == 2
  | none => false

/-- Program `p` with a fetched bundle to be executed. -/
def Prog.withBundle (p : Prog) (b : Bundle) (now : Nat) : Prog :=
  let p := { p with pc := b.pc, bundle := some b, w0 := false, w1 := false, iter := 0, ops := [], markWr := [], expWr := [],
                    branch := if p.branch = some b.pc then p.branch else none, ending := false, delay := 0, readyTb := now, resident := false, maps := [] }
  { p with phase := if p.waits && !p.timed then .waiting else .ready }

/-- BUNDLE_FETCH: the stream fetches the bundle at its PC; in timed mode, while bundles run, the one behind the last issued,
unless that one ends or may branch (R152, R157, R158, R174, R175, R184). -/
def execBundleFetch (n : Fin 22) (s : State) : Out State :=
  .next (
    let n := n.val
    match (s.stream n).run with
    | none => s
    | some p =>
      if !p.began then s
      else if p.phase = .fetch then
        match s.fetchBundle n p p.pc with
        | (.halts r, s) => s.halt n r 15 0xFFFF 0
        | (.faults va f, s) => s.suspend n p 7 (f + 2) 0xFFFF va 0 1 15 0
        | (.bundle b, s) => s.setRun n (some (p.withBundle b s.now))
      else if p.timed ∧ p.phase ≠ .ready ∧ p.phase ≠ .waiting ∧ p.ahead = none then
        match p.behind.getLast?.orElse (fun _ => p.bundle) with
        | none => s
        | some l =>
          if l.turns then s
          else match s.fetchBundle n p (l.pc + l.size) with
            | (.bundle b, s) => s.setRun n (some { p with ahead := some b })
            | _ => s
      else s)

/-- SYNC_WAIT_SATISFIED: wait `w` of the bundle is latched once its bell has reached E[k] + s, and E[k] advances (R172). -/
def execSyncWaitSatisfied (n : Fin 22) (w : Fin 2) (s : State) : Out State :=
  .next (
    match (s.stream n.val).run with
    | none => s
    | some p =>
      if p.phase ≠ .waiting then s
      else
        match p.bundle.bind (fun b => b.slot 0) with
        | none => s
        | some y =>
          let base := if w.val = 0 then 43 else 22
          let en := bit y (base + 20)
          let bell := bits y (base + 11) 9
          let k := bits y (base + 8) 3
          let step := bits y base 8
          let target := p.expect.getD k 0 + step
          let latched := if w.val = 0 then p.w0 else p.w1
          if en && !latched && decide (0 ≤ toSigned 16 ((s.bell bell + 2 ^ 17 - target) % 65536)) then
            let p := { p with expect := setAt p.expect k (target % 65536),
                              w0 := p.w0 || decide (w.val = 0), w1 := p.w1 || decide (w.val = 1) }
            s.setRun n.val (some (if p.waits then p else { p with phase := .ready, readyTb := s.now }))
          else s)

/-! ### Bells by register write (R171, R173) -/

/-- BELL_INCREMENT_WRITE: a write to ENG_BELLb by home or the context whose range holds the bell (R171, R173). -/
def execBellIncrementWrite (r : Req) (b : Fin 512) (v : Word) (s : State) : Out State :=
  .next (s.asCtx r (R.ENG_BELL.at b.val) 0xA (fun c => c == 0 || s.bellOf c b.val) (fun s => s.ring b.val (getField v 0 16)))

/-- BELL_SET_WRITE: a write to ENG_BELLSETb; the increments of the same cycle are added to the value set (R171). -/
def execBellSetWrite (r : Req) (b : Fin 512) (v : Word) (incs : List Half) (s : State) : Out State :=
  .next (
    let s := s.asCtx r (R.ENG_BELLSET.at b.val) 0xA (fun c => c == 0 || s.bellOf c b.val)
      (fun s => s.fset F.ENG_BELL_VALUE (getField v 0 16) b.val)
    incs.foldl (fun s i => s.ring b.val i.toNat) s)

/-! ### Halt requests (R182, R183) -/

/-- Halt context `c`'s work on stream `n` with a reason: what runs, and what is suspended there by pre-emption or a fault, whose
resume records are freed without an abort (R183). -/
def State.haltContext (s : State) (n c reason : Nat) : State :=
  let s := match (s.stream n).run with
    | some p => if p.start.ctx = c then s.halt n reason 15 0xFFFF 0 else s
    | none => s
  let gone := (s.stream n).saved.filter (fun p => p.start.ctx == c)
  let s := (s.mmu.susps.filter (fun x => x.unit == n && x.ctx == c)).foldl (fun s x => s.freeSusp x) s
  let s := s.setStream n { s.stream n with saved := (s.stream n).saved.filter (fun p => p.start.ctx != c) }
  gone.foldl (fun s p => s.haltProg n p reason 15 0xFFFF 0) s

/-- Refuse context `c`'s starts on stream `n` and drop those queued (R182). -/
def State.refuseContext (s : State) (n c : Nat) : State :=
  let x := s.stream n
  (s.setStream n { x with halted := x.halted ||| 2 ^ c }).dropStarts n c

/-- What a write of `v` to ENG_Sn_CTL by context `c` does (Table 05-28, R182, R183). -/
def State.writeEngCtl (s : State) (r : Req) (n : Nat) (v : Word) : State :=
  let c := s.ctxOf r
  let mask := if c = 0 then getField v 0 8 else getField v 0 8 &&& 2 ^ c
  let x := s.stream n
  let s := s.setStream n { x with halted := x.halted - (x.halted &&& mask) }
  if bit v.toNat 11 then
    let t := getField v 8 3
    if c = 0 ∨ c = t then (s.haltContext n t 0x15).refuseContext n t
    else s.violateBy r 0x5 (R.ENG_S_CTL.at n)
  else s

/-- A write to ENG_Sn_CTL: a hole where the stream is not enabled. -/
def State.engCtlWrite (s : State) (r : Req) (n : Nat) (v : Word) : State :=
  if !s.ctxEnabled (s.ctxOf r) then s.violateBy r 0xD (R.ENG_S_CTL.at n)
  else if !s.streamEnabled n then s.violateBy r 0x4 (R.ENG_S_CTL.at n)
  else s.writeEngCtl r n v

/-- HALT_REQUEST: a write of ENG_Sn_CTL with HALTGO = 1 (R183). -/
def execHaltRequest (r : Req) (n : Fin 22) (v : Word) (s : State) : Out State :=
  .next (s.engCtlWrite r n.val (setField v 11 1 1))

/-- HALT_CLEAR: a write of ENG_Sn_CTL with HALTGO = 0: the CLR bits end refusals (R182). -/
def execHaltClear (r : Req) (n : Fin 22) (v : Word) (s : State) : Out State :=
  .next (s.engCtlWrite r n.val (setField v 11 1 0))

end Sys2Proof.Machine
end

