-- ==== Sys2Proof/Machine/Float.lean ====
section
/-! DEFINITION. Floating-point arithmetic as R257, R258 and R355 define it: exact values in sign, magnitude and power of two,
rounded once to nearest even. -/

namespace Sys2Proof.Machine

/-- What a floating-point pattern stands for. `fin neg m e` is ±m·2^e. -/
inductive FV where
  | nan
  | inf (neg : Bool)
  | fin (neg : Bool) (m : Nat) (e : Int)
deriving DecidableEq, Repr

/-- A format: exponent and fraction bits, and whether it is E4M3, which has no infinity. -/
structure FFmt where
  eb : Nat
  mb : Nat
  noInf : Bool
deriving DecidableEq, Repr

def FFmt.f32 : FFmt := ⟨8, 23, false⟩
def FFmt.f64 : FFmt := ⟨11, 52, false⟩
def FFmt.bf16 : FFmt := ⟨8, 7, false⟩
def FFmt.e4m3 : FFmt := ⟨4, 3, true⟩
def FFmt.e5m2 : FFmt := ⟨5, 2, false⟩

/-- Bits of the format. -/
def FFmt.width (f : FFmt) : Nat := 1 + f.eb + f.mb

/-- The exponent of the last place of a subnormal. -/
def FFmt.emin (f : FFmt) : Int := 2 - (2 ^ (f.eb - 1) : Nat) - f.mb

/-- The magnitude pattern of the infinity; for E4M3 the pattern above the greatest number, its NaN. -/
def FFmt.top (f : FFmt) : Nat := if f.noInf then 2 ^ (f.eb + f.mb) - 1 else (2 ^ f.eb - 1) * 2 ^ f.mb

/-- The value of a pattern. -/
def FFmt.decode (f : FFmt) (x : Nat) : FV :=
  let neg := bit x (f.eb + f.mb)
  let mag := bits x 0 (f.eb + f.mb)
  let ef := bits x f.mb f.eb
  let m := bits x 0 f.mb
  if f.top < mag ∨ (f.noInf = true ∧ mag = f.top) then .nan
  else if mag = f.top then .inf neg
  else if ef = 0 then .fin neg m f.emin
  else .fin neg (m + 2 ^ f.mb) (f.emin + (ef - 1 : Nat))

/-- The magnitude pattern of m·2^e rounded to nearest even; `sticky` says that the exact value lies a little above. It may
reach or pass `top` on overflow. -/
def FFmt.roundMag (f : FFmt) (m : Nat) (e : Int) (sticky : Bool := false) : Nat :=
  if m = 0 then 0
  else
    let q := max f.emin (e + (Nat.log2 m : Nat) - f.mb)
    if q ≤ e then (q - f.emin).toNat * 2 ^ f.mb + m * 2 ^ (e - q).toNat
    else
      let sh := (q - e).toNat
      let hi := m >>> sh
      let rem := m % 2 ^ sh
      let half := 2 ^ (sh - 1)
      let up := decide (half < rem) || (rem == half && (sticky || hi % 2 == 1))
      (q - f.emin).toNat * 2 ^ f.mb + hi + b2n up

/-- The sign bit of a format, in place. -/
def FFmt.sign (f : FFmt) (neg : Bool) : Nat := b2n neg * 2 ^ (f.eb + f.mb)

/-- The NaN a format is given (R258). -/
def FFmt.nanPat (f : FFmt) : Nat :=
  if f.noInf then 0x7F else if f.mb = 2 then 0x7E else f.top + 2 ^ (f.mb - 1)

/-- Whether finite overflow saturates in the format (R258: E4M3 and E5M2). -/
def FFmt.saturates (f : FFmt) : Bool := f.eb < 8

/-- Convert a value to a format with one rounding (R258). -/
def FFmt.encode (f : FFmt) (v : FV) (sticky : Bool := false) : Nat :=
  match v with
  | .nan => f.nanPat
  | .inf neg => f.sign neg + (if f.noInf then f.top - 1 else f.top)
  | .fin neg m e =>
    let r := f.roundMag m e sticky
    f.sign neg + (if r < f.top then r else if f.saturates then f.top - 1 else f.top)

/-- The FP32 value of a pattern. -/
def f32 (x : Nat) : FV := FFmt.f32.decode x

/-- A value as an FP32 pattern. -/
def toF32 (v : FV) : Nat := FFmt.f32.encode v

/-- The NaN of R258. -/
def f32NaN : Nat := 0x7FC00000

def FV.neg : FV → FV
  | .nan => .nan
  | .inf n => .inf !n
  | .fin n m e => .fin (!n) m e

def FV.abs : FV → FV
  | .nan => .nan
  | .inf _ => .inf false
  | .fin _ m e => .fin false m e

def FV.isNaN : FV → Bool
  | .nan => true
  | _ => false

def FV.isInf : FV → Bool
  | .inf _ => true
  | _ => false

/-- A finite value as an integer at exponent `q`, which is at most its own. -/
def FV.at (neg : Bool) (m : Nat) (e q : Int) : Int :=
  let x : Int := (m * 2 ^ (e - q).toNat : Nat)
  if neg then -x else x

/-- An integer at exponent `q`; a zero is positive. -/
def FV.ofIntAt (x : Int) (q : Int) : FV := .fin (decide (x < 0)) x.natAbs q

/-- The exact value of an integer. -/
def FV.ofInt (x : Int) : FV := FV.ofIntAt x 0

/-- The exact sum; a zero sum is +0 unless both are −0 (round to nearest). -/
def FV.add : FV → FV → FV
  | .nan, _ | _, .nan => .nan
  | .inf a, .inf b => if a = b then .inf a else .nan
  | .inf a, _ => .inf a
  | _, .inf b => .inf b
  | .fin na ma ea, .fin nb mb eb =>
    let q := min ea eb
    let x := FV.at na ma ea q + FV.at nb mb eb q
    if x = 0 then .fin (na && nb && (ma == 0) && (mb == 0)) 0 q else FV.ofIntAt x q

def FV.sub (a b : FV) : FV := a.add b.neg

/-- The exact product. -/
def FV.mul : FV → FV → FV
  | .nan, _ | _, .nan => .nan
  | .inf a, .inf b => .inf (a != b)
  | .inf a, .fin b m _ => if m = 0 then .nan else .inf (a != b)
  | .fin a m _, .inf b => if m = 0 then .nan else .inf (a != b)
  | .fin a ma ea, .fin b mb eb => .fin (a != b) (ma * mb) (ea + eb)

/-- The quotient to at least 128 bits, and whether the exact quotient lies a little above it. -/
def FV.div : FV → FV → FV × Bool
  | .nan, _ | _, .nan => (.nan, false)
  | .inf _, .inf _ => (.nan, false)
  | .inf a, .fin b _ _ => (.inf (a != b), false)
  | .fin a _ _, .inf b => (.fin (a != b) 0 0, false)
  | .fin a ma ea, .fin b mb eb =>
    if mb = 0 then (if ma = 0 then .nan else .inf (a != b), false)
    else
      let sh := 128 + Nat.log2 mb
      (.fin (a != b) (ma * 2 ^ sh / mb) (ea - eb - sh), ma * 2 ^ sh % mb != 0)

/-- Integer square root by bits, high to low: `r` is the root so far, `k` the next bit plus one. -/
def isqrtBits (n : Nat) : Nat → Nat → Nat
  | 0, r => r
  | k + 1, r => isqrtBits n k (if (r + 2 ^ k) * (r + 2 ^ k) ≤ n then r + 2 ^ k else r)

/-- The integer square root. -/
def isqrt (n : Nat) : Nat := isqrtBits n (Nat.log2 n / 2 + 1) 0

/-- The square root to at least 100 bits, and whether the exact root lies a little above it. -/
def FV.sqrt : FV → FV × Bool
  | .nan => (.nan, false)
  | .inf false => (.inf false, false)
  | .inf true => (.nan, false)
  | .fin n m e =>
    if m = 0 then (.fin n 0 e, false)
    else if n then (.nan, false)
    else
      let odd := (e % 2 + 2) % 2
      let m' := m * 2 ^ (200 + odd.toNat)
      let r := isqrt m'
      (.fin false r ((e - odd - 200) / 2), r * r != m')

/-! ### FP32 operations on patterns, one rounding each (R257) -/

def fadd (a b : Nat) : Nat := toF32 ((f32 a).add (f32 b))
def fsub (a b : Nat) : Nat := toF32 ((f32 a).sub (f32 b))
def fmul (a b : Nat) : Nat := toF32 ((f32 a).mul (f32 b))
def fdiv (a b : Nat) : Nat := let r := (f32 a).div (f32 b); FFmt.f32.encode r.1 r.2
def fsqrt (a : Nat) : Nat := let r := (f32 a).sqrt; FFmt.f32.encode r.1 r.2
def fabs (a : Nat) : Nat := if (f32 a).isNaN then f32NaN else a % 2 ^ 31
def fneg (a : Nat) : Nat := if (f32 a).isNaN then f32NaN else if a < 2 ^ 31 then a + 2 ^ 31 else a - 2 ^ 31

/-- The exact comparison of two values that are not NaN. -/
def FV.lt : FV → FV → Bool
  | .nan, _ | _, .nan => false
  | .inf a, .inf b => a && !b
  | .inf a, .fin _ _ _ => a
  | .fin _ _ _, .inf b => !b
  | .fin na ma ea, .fin nb mb eb => decide (FV.at na ma ea (min ea eb) < FV.at nb mb eb (min ea eb))

def FV.eq : FV → FV → Bool
  | .nan, _ | _, .nan => false
  | a, b => !a.lt b && !b.lt a

def flt (a b : Nat) : Bool := (f32 a).lt (f32 b)
def feq (a b : Nat) : Bool := (f32 a).eq (f32 b)

/-- IEEE 754 minimumNumber and maximumNumber: a NaN gives the other operand; −0 counts as less than +0. -/
def fminNum (a b : Nat) : Nat :=
  if (f32 a).isNaN then (if (f32 b).isNaN then f32NaN else b) else if (f32 b).isNaN then a
  else if flt a b || (feq a b && decide (2 ^ 31 ≤ a)) then a else b
def fmaxNum (a b : Nat) : Nat :=
  if (f32 a).isNaN then (if (f32 b).isNaN then f32NaN else b) else if (f32 b).isNaN then a
  else if flt b a || (feq a b && decide (a < 2 ^ 31)) then a else b

/-- Minimum and maximum that a NaN wins (R258). -/
def fminN (a b : Nat) : Nat := if (f32 a).isNaN || (f32 b).isNaN then f32NaN else fminNum a b
def fmaxN (a b : Nat) : Nat := if (f32 a).isNaN || (f32 b).isNaN then f32NaN else fmaxNum a b

/-- The nearest integer, ties to even; 0 for a NaN. An infinity gives a value beyond any word. -/
def FV.round : FV → Int
  | .nan => 0
  | .inf n => if n then -(2 ^ 200) else 2 ^ 200
  | .fin n m e =>
    let r : Int := if 0 ≤ e then (m * 2 ^ e.toNat : Nat)
      else
        let sh := (-e).toNat
        let rem := m % 2 ^ sh
        let half := 2 ^ (sh - 1)
        ((m >>> sh) + b2n (decide (half < rem) || (rem == half && (m >>> sh) % 2 == 1)) : Nat)
    if n then -r else r

/-- FP32 to an integer of `w` bits, saturated; a NaN gives 0 (R258). -/
def fToInt (w a : Nat) : Int := satSigned w (f32 a).round

/-- An integer as FP32, rounded to nearest even. -/
def intToF (x : Int) : Nat := toF32 (FV.ofInt x)

/-- The format of an element type that holds floating-point numbers (Table 05-16). -/
def typeFmt : Nat → Option FFmt
  | 6 => some .e4m3
  | 7 => some .e5m2
  | 8 => some .bf16
  | 9 => some .f32
  | _ => none

/-- An element of a type as an FP32 pattern: floating types exactly, integers as their values, bits and bytes unsigned. -/
def elemF32 (t v : Nat) : Nat :=
  match typeFmt t with
  | some f => toF32 (f.decode v)
  | none =>
    match t with
    | 1 => intToF (toSigned 8 v) | 3 => intToF (toSigned 4 v) | 4 => intToF (toSigned 16 v) | 5 => intToF (toSigned 32 v)
    | _ => intToF v

/-- An element of an integer type as its value. -/
def elemInt (t v : Nat) : Int :=
  match t with
  | 1 => toSigned 8 v | 3 => toSigned 4 v | 4 => toSigned 16 v | 5 => toSigned 32 v | _ => v

/-- An FP32 pattern as an element of a floating type, or of INT8 or INT32 (R258). -/
def f32ToElem (t a : Nat) : Nat :=
  match typeFmt t with
  | some f => f.encode (f32 a)
  | none => match t with
    | 1 => ofSigned 8 (fToInt 8 a)
    | 5 => ofSigned 32 (fToInt 32 a)
    | 4 => ofSigned 16 (fToInt 16 a)
    | _ => ofSigned 32 (fToInt 32 a)

/-! ### Results the spec bounds in units in the last place -/

/-- An FP32 pattern as a place on the line of FP32 numbers, in ulps from zero. -/
def f32Rank (a : Nat) : Int := if a < 2 ^ 31 then (a : Int) else -((a - 2 ^ 31 : Nat) : Int)

/-- The FP32 pattern `k` places from one, kept among the finite numbers. -/
def f32Step (a : Nat) (k : Int) : Nat :=
  let r := clampInt (-0x7F7FFFFF) 0x7F7FFFFF (f32Rank a + k)
  if r < 0 then 2 ^ 31 + r.natAbs else r.natAbs

/-- A finite result known to within `ulp` places of `a`: the free value `d` picks one of those. NaN and infinities stand. -/
def f32Within (a ulp d : Nat) : Nat :=
  if (f32 a).isNaN || (f32 a).isInf then a else f32Step a ((d % (2 * ulp + 1) : Nat) - (ulp : Int))

/-- ln 2 scaled by 2^192. -/
def ln2Fix : Nat := 0xB17217F7D1CF79ABC9E3B39803F2F6AF40F343267298B62D

/-- `n` terms of the exponential series at `x`·2^−192, from the last to the first. -/
def expSeries (x : Nat) : Nat → Nat → Nat
  | 0, acc => acc
  | n + 1, acc => expSeries x n (2 ^ 192 + x * acc / 2 ^ 192 / (n + 1))

/-- exp of a value at most 0, as a number scaled by 2^192 (0 below exp(−130)): the argument is split at ln 2. -/
def expFix (v : FV) : Nat :=
  match v with
  | .fin neg m e =>
    let x := if 0 ≤ e + 192 then m * 2 ^ (e + 192).toNat else m / 2 ^ (-(e + 192)).toNat
    if x = 0 then 2 ^ 192
    else if !neg then 2 ^ 192
    else
      let k := x / ln2Fix + 1
      let r := k * ln2Fix - x
      if 190 < k then 0 else expSeries r 60 (2 ^ 192) / 2 ^ k
  | _ => 0

end Sys2Proof.Machine
end

