-- ==== Sys2Proof/Machine/StoCtl.lean ====
section
/-! DEFINITION. The storage array (spec/13): reading through the window, the shared read cache's fills, the descriptor ring,
programs, erases, relocation and spares. Contents are held by logical storage offset: a relocation moves them with their
sector. -/

namespace Sys2Proof.Machine

/-! ### Words, sectors and banks -/

def State.setSto (s : State) (t : Storage) : State := { s with sto := t }

def Storage.sector (t : Storage) (n : Nat) : Sector := Sparse.get (fun _ => Sector.fresh) t.sectors n

def Storage.setSector (t : Storage) (n : Nat) (x : Sector) : Storage :=
  { t with sectors := Sparse.put (fun _ => Sector.fresh) t.sectors n x }

def Storage.err (t : Storage) (w : Nat) : Nat := Sparse.get (fun _ => 0) t.wordErr w

def Storage.setErr (t : Storage) (w n : Nat) : Storage := { t with wordErr := Sparse.put (fun _ => 0) t.wordErr w n }

/-- `n` bytes from a storage offset. -/
def Storage.read (t : Storage) (o : Nat) : Nat → List Byte
  | 0 => []
  | n + 1 => t.byte o :: t.read (o + 1) n

/-- Store bytes at consecutive storage offsets. -/
def Storage.store (t : Storage) (o : Nat) : List Byte → Storage
  | [] => t
  | b :: l => Storage.store { t with cells := Sparse.put (fun _ => (0xFF : Byte)) t.cells o b } (o + 1) l

/-- Program one word: its bytes, with sound check bits. -/
def Storage.progWord (t : Storage) (w : Nat) (b : List Byte) : Storage := (t.store (8 * w) (padTo 8 b)).setErr w 0

/-- Erase sector `n`: every byte reads 0xFF and every word is sound. -/
def Storage.eraseSector (t : Storage) (n : Nat) : Storage :=
  { t with cells := Sparse.clear (fun o => o / 4096 == n) t.cells, wordErr := Sparse.clear (fun w => w / 512 == n) t.wordErr }

/-- Whether a word is blank: in the model, when its 64 bits read as ones and it is sound (R375). -/
def Storage.blank (t : Storage) (w : Nat) : Bool := (t.read (8 * w) 8).all (fun b => b == 0xFF) && t.err w != 3

def bankOfOfs (o : Nat) : Nat := o / 0x8000000
def bankOfSector (n : Nat) : Nat := n / 32768

/-- Free spares of a bank. -/
def Storage.freeSpares (t : Storage) (k : Nat) : Nat := 512 - (t.spareUsed.filter (fun x => x.1 == k)).length

/-- The lowest-numbered free spare of a bank that needs no erase (R390, R393). -/
def Storage.lowSpare (t : Storage) (k : Nat) : Option Nat :=
  (List.range 512).find? (fun i => !t.spareUsed.contains (k, i) && !t.dirtySpares.contains (k, i))

def State.bankBusy (s : State) (k : Nat) : Bool := bit (s.rget R.STO_BUSY) k || !s.dieOn (k / 8)

/-- Mark a bank busy or free; INFLIGHT counts the busy banks. -/
def State.setBusy (s : State) (k : Nat) (b : Bool) : State :=
  let old := s.rget R.STO_BUSY
  let new := if b then old ||| 2 ^ k else old - (old &&& 2 ^ k)
  (s.rset R.STO_BUSY new).fset F.STO_STAT_INFLIGHT (popCount 32 new)

/-- STO_BANKk follows the bank's metadata. -/
def State.syncBank (s : State) (k : Nat) : State :=
  let here := s.sto.sectors.filter (fun x => bankOfSector x.1 == k)
  let n (st : Nat) := min 1023 (here.filter (fun x => x.2.state == st)).length
  s.rset R.STO_BANK (b2n (s.sto.pendErase.any (fun x => bankOfSector x == k)) * 2 ^ 31 + n 3 * 2 ^ 21 + n 2 * 2 ^ 11 +
    s.sto.freeSpares k) k

/-- A report card of the storage block about an offset. -/
def State.stoCard (s : State) (event ofs cnt : Nat) : State :=
  s.card { block := 0xF, event := event, ctx := s.fget F.STO_RINGCFG_CTX, ukind := 5, ua := bankOfOfs ofs,
           detail := leBytes 8 ofs ++ leBytes 4 cnt, die := bankOfOfs ofs / 8 + 1 }

/-! ### Reads (R374 to R378) -/

/-- WARN in force: 0 and 3 act as 2. -/
def State.warnBits (s : State) : Nat := if s.fget F.STO_CTL_WARN = 1 then 1 else 2

/-- Account for a word read at an offset that needed `n` corrected bits (R376): the counters, and a card at most once per bank
per second. -/
def State.correction (s : State) (ofs n : Nat) : State :=
  if n = 0 ∨ n < s.warnBits then s
  else
    let k := bankOfOfs ofs
    let s := (s.rset R.STO_WARNADDR ofs).count R.STO_CORRBITS n
    let last := Sparse.get (fun _ => 0) s.sto.warnTb k
    if last = 0 ∨ last - 1 + 1000000000 ≤ s.now then
      (s.setSto { s.sto with warnTb := Sparse.put (fun _ => 0) s.sto.warnTb k (s.now + 1) }).stoCard 0x80 ofs n
    else s

/-- An uncorrectable word confirmed by the repeated read (R378). -/
def State.uncorrectable (s : State) (ofs : Nat) (r : Nat) : State :=
  (s.count R.STO_UNCORR).card
    { block := 0xF, event := 0x81, ukind := 5, ua := bankOfOfs ofs, engine := if r < 22 then r else 0xFF,
      detail := leBytes 8 ofs, die := bankOfOfs ofs / 8 + 1 }

/-- What a window read of bytes at storage offsets meets (Table 13-2). -/
inductive WindowRead where
  | ok | busy (ofs : Nat) | bad (ofs : Nat)
deriving DecidableEq, Repr

/-- The first obstacle among storage offsets: a busy bank, then a dead sector or an uncorrectable word. Offsets whose line the
shared read cache holds are served from it (R97). -/
def State.windowCheck (s : State) (cached : Bool) (ofs : List Nat) : WindowRead :=
  let miss := ofs.filter (fun o => !(cached && s.memsys.wbmLines.contains (o / 4096 * 4096)))
  match miss.find? (fun o => s.bankBusy (bankOfOfs o)) with
  | some o => .busy o
  | none =>
    match miss.find? (fun o => (s.sto.sector (o / 4096)).state == 3 || s.sto.err (o / 8) == 3) with
    | some o => .bad o
    | none => .ok

/-- Whether a requester's wide reads go through the shared read cache: DME cores and data movers (R96). -/
def usesWbm (r : Req) : Bool :=
  match r with
  | .stream n => (4 ≤ n.val && n.val < 12) || 14 ≤ n.val
  | _ => false

/-- A line of the shared read cache is filled or refreshed; nothing where the cache has size 0. -/
def State.wbmTouch (s : State) (line : Nat) : State :=
  let mib := s.fget F.MEM_WBMCACHE_SIZE
  if mib = 0 then s
  else { s with memsys := { s.memsys with wbmLines := wbmInsert mib s.memsys.wbmLines line } }

/-- Invalidate a sector's line when an erase or a program of the sector begins (R97). -/
def State.wbmDropSector (s : State) (n : Nat) : State :=
  { s with memsys := { s.memsys with wbmLines := s.memsys.wbmLines.filter (fun l => l != 4096 * n) } }

/-- WBM_CACHE_FILL: a requester's wide read of the window misses the cache: the line is filled, or the busy-bank error is
answered (R96, R97). -/
def execWbmCacheFill (r : Req) (a : Addr) (s : State) : Out State :=
  .next (
    let o := a.toNat - 0x1000000000
    match s.loc a.toNat with
    | .store k =>
      if s.fget F.MEM_WBMCACHE_SIZE = 0 ∨ !usesWbm r ∨ s.memsys.wbmLines.contains (o / 4096 * 4096) then s
      else
        let s := s.count R.MEM_WBMMISS
        if s.bankBusy k then ((match r with | .stream n => if 14 ≤ n.val then s.count R.STO_BUSYERR else s | _ => s)).respond true []
        else (s.wbmTouch (o / 4096 * 4096)).respond false (s.sto.read (o / 256 * 256) 256)
    | _ => s)

/-- STORAGE_WINDOW_READ: a read of 256 bytes (wide) or 8 bytes (narrow) through the window, whose worst word needed `worst`
corrected bits, 3 = uncorrectable (R375 to R378, Table 13-2). -/
def execStorageWindowRead (r : Req) (a : Addr) (wide : Bool) (worst : Fin 4) (s : State) : Out State :=
  .next (
    let o := a.toNat - 0x1000000000
    match s.loc a.toNat with
    | .store k =>
      let w := if wide then 256 else 8
      let o := o / w * w
      let cached := wide && usesWbm r && s.fget F.MEM_WBMCACHE_SIZE != 0
      let hit := cached && s.memsys.wbmLines.contains (o / 4096 * 4096)
      let s := if cached then (if hit then s.count R.MEM_WBMHIT else s.count R.MEM_WBMMISS) else s
      if hit then (s.wbmTouch (o / 4096 * 4096)).respond false (s.sto.read o w)
      else
        let offs := (List.range (w / 8)).map (fun i => o + 8 * i)
        match s.windowCheck false offs with
        | .busy _ =>
          match r with
          | .stream n => if 14 ≤ n.val then (s.count R.STO_BUSYERR).respond true [] else s
          | _ => s.respond true []
        | .bad b => (s.uncorrectable b (unitOf r)).respond true []
        | .ok =>
          if worst.val = 3 then (s.uncorrectable o (unitOf r)).respond true []
          else
            let s := s.correction o worst.val
            let s := s.count R.STO_BLANK (offs.filter (fun i => s.sto.blank (i / 8))).length
            let s := if wide then s.setSto { s.sto with readPos := Sparse.put (fun _ => 0) s.sto.readPos k (o / 256 + 2) } else s
            let s := if cached then s.wbmTouch (o / 4096 * 4096) else s
            s.respond false (s.sto.read o w)
    | _ => s)

/-! ### The descriptor ring (R380, R381, R383) -/

/-- Physical address of ring entry `i`. -/
def State.stoSlot (s : State) (i : Nat) : Nat := s.rget R.STO_RINGBASE * 4096 + 64 * i

def Storage.setEntry (t : Storage) (e : StoEntry) : Storage :=
  { t with active := t.active.map (fun x => if x.idx = e.idx then e else x) }

/-- Finish an entry: STATUS and the result fields are written, its interrupt raised, a card written from 0x12 up (R380, Table
13-5). -/
def State.stoFinish (s : State) (e : StoEntry) (status failofs : Nat) : State :=
  let a := s.stoSlot e.idx
  let s := s.store (a + 24) (leBytes 4 e.doneCnt ++ leBytes 4 e.corrBits ++ [BitVec.ofNat 8 e.corrMax, 0] ++ leBytes 2 e.reloc ++
    leBytes 4 e.blankW ++ leBytes 4 failofs)
  let s := s.store (a + 48) (leBytes 8 s.now)
  let s := s.store (a + 1) [BitVec.ofNat 8 status]
  let s := s.setSto { s.sto with active := s.sto.active.filter (fun x => x.idx != e.idx) }
  let s := if bit e.flags 2 then { s with irqSto := true } else s
  if 0x12 ≤ status then s.stoCard status failofs e.doneCnt else s

/-- The bank of an entry. -/
def StoEntry.bank (e : StoEntry) : Nat := bankOfOfs e.saddr

/-- Whether an entry may run: no earlier entry on its bank, and with FENCE no earlier entry at all (R381). -/
def Storage.runnable (t : Storage) (e : StoEntry) : Bool :=
  let before := t.active.takeWhile (fun x => x.idx != e.idx)
  !before.any (fun x => x.bank == e.bank) && (!bit e.flags 0 || before == [])

/-- The status a descriptor is refused with (Table 13-4, Table 13-5, R373), if any. -/
def stoRefusal (b : List Byte) : Option Nat :=
  let op := leAt b 0 1
  let cnt := leAt b 4 4
  let sa := leAt b 8 8
  let ma := leAt b 16 8
  let len := if op = 1 then cnt else if op = 2 then 8 * cnt else 4096 * cnt
  if op = 0 ∨ 5 < op ∨ bits (leAt b 2 1) 3 5 ≠ 0 ∨ leAt b 3 1 ≠ 0 ∨ leAt b 33 1 ≠ 0 ∨ leAt b 56 8 ≠ 0 then some 0x10
  else if 2 ^ 32 ≤ sa ∨ 2 ^ 40 ≤ ma ∨ ((op = 3 ∨ op = 4) ∧ ma ≠ 0) then some 0x10
  else if cnt = 0 ∨ 2 ^ 32 < sa + len ∨ sa / 0x8000000 ≠ (sa + len - 1) / 0x8000000 then some 0x11
  else if (op = 1 ∧ (sa % 8 ≠ 0 ∨ cnt % 8 ≠ 0)) ∨ (op = 2 ∧ sa % 8 ≠ 0) ∨ (3 ≤ op ∧ sa % 4096 ≠ 0) then some 0x11
  else if (op = 1 ∨ op = 2 ∨ op = 5) ∧ ma % 8 ≠ 0 then some 0x11
  else if (op = 2 ∨ op = 3 ∨ op = 4) ∧ (bankOfOfs sa = 26 ∨ bankOfOfs sa = 27) then some 0x11
  else none

/-- The sector an ERASE, RELOCATE or COUNTS entry works on, or the sector of a PROGRAM entry's next word. -/
def StoEntry.sectorNow (e : StoEntry) : Nat := if e.op = 2 then (e.saddr + 8 * e.doneCnt) / 4096 else e.saddr / 4096 + e.doneCnt

/-! ### Relocation (R390, R391) -/

/-- How a relocation ends. -/
inductive Reloc where
  | done | noSpare | unreadable (ofs : Nat)
deriving DecidableEq, Repr

/-- Move sector `n` to its bank's lowest free spare (R390). `copy` keeps the contents; without it the sector is left erased. -/
def State.relocate (s : State) (n : Nat) (copy : Bool) : Reloc × State :=
  let k := bankOfSector n
  match s.sto.lowSpare k with
  | none => (.noSpare, s)
  | some i =>
    match (if copy then (List.range 512).find? (fun w => s.sto.err (512 * n + w) == 3) else none) with
    | some w => (.unreadable (4096 * n + 8 * w), s.setSto { s.sto with dirtySpares := s.sto.dirtySpares ++ [(k, i)] })
    | none =>
      let t := if copy then { s.sto with wordErr := Sparse.clear (fun w => w / 512 == n) s.sto.wordErr } else s.sto.eraseSector n
      let t := { t with spareUsed := t.spareUsed ++ [(k, i)] }
      let s := (s.setSto (t.setSector n ⟨1, 0, some i⟩)).syncBank k
      (.done, (s.count R.STO_RELOC).stoCard 0x82 (4096 * n) 1)

/-! ### Running entries -/

/-- WEARLIM in force: a value above 100,000 acts as 100,000. -/
def State.wearLimit (s : State) : Nat := min 100000 (s.fget F.STO_WEARLIM_LIMIT)

/-- A suspended entry's fault record (R383, R138): unit 0x20, DETAIL the ring index. A fault that cannot be reported ends the entry
with status 0x15. -/
def State.stoFault (s : State) (e : StoEntry) (kind flags va : Nat) : State :=
  let nsteps := if e.op = 2 then e.count else if e.op = 1 then ceilDiv e.count 4096 else ceilDiv e.count 1024
  let step := if e.op = 2 then e.doneCnt else if e.op = 1 then e.doneCnt / 4096 else e.doneCnt / 1024
  let f : FaultInfo := { ctx := s.fget F.STO_RINGCFG_CTX, unit := 0x20, cls := s.fget F.STO_RINGCFG_CLASS, kind := kind, flags := flags,
                         handle := 0xFFFF, vaddr := va, pc := 0, step := step, nsteps := nsteps, slot := 0, detail := e.idx }
  match s.reportFault f with
  | (true, s) => s.setSto (s.sto.setEntry { e with susp := true, started := false })
  | (false, s) => (s.setBusy e.bank false).stoFinish e 0x15 e.saddr

/-- Whether bank `k` begins no word or erase now: its die is off, or Recess or a power sequence has begun (R394, R396, R535). -/
def State.bankStopped (s : State) (k : Nat) : Bool := s.fget F.PWR_STAT_STATE != 0 || !s.dieOn (k / 8)

/-- Begin the next step of an entry whose turn it is: the blank check and source of a word, the count and wear limit of a sector.
READ and COUNTS chunks begin with STORAGE_READ_CHUNK. `fuel` bounds the sectors that are relocated without an erase. -/
def State.stoStep (s : State) (e : StoEntry) : Nat → State
  | 0 => s
  | fuel + 1 =>
    if e.op = 2 then
      if e.count ≤ e.doneCnt then s.stoFinish e 0x02 0xFFFFFFFF
      else if s.bankStopped e.bank then s
      else
        let w := e.saddr / 8 + e.doneCnt
        let st := (s.sto.sector (w / 512)).state
        if st = 3 then s.stoFinish e 0x17 (8 * w)
        else if st = 2 then s.stoFinish e 0x18 (8 * w)
        else if !s.sto.blank w then s.stoFinish e 0x12 (8 * w)
        else
          let c := s.fget F.STO_RINGCFG_CTX
          let va := e.maddr + 8 * e.doneCnt
          match s.translatePages 0x20 c [(va / 4096, .read)] [] with
          | (.fault _ _ f, s) => s.stoFault e 4 f va
          | (.ok m, s) =>
            let s := s.violatePages 0x20 c m
            let src := (List.range 8).filterMap (fun i => m.phys .read (va + i))
            match s.consumeFail (bit e.flags 1) src with
            | some x => (s.reportConsume x c 0xFF).stoFinish e 0x14 (8 * w)
            | none => ((s.wbmDropSector (w / 512)).setBusy e.bank true).setSto (s.sto.setEntry { e with started := true })
    else if e.op = 3 then
      if e.count ≤ e.doneCnt then s.stoFinish e 0x02 0xFFFFFFFF
      else if s.bankStopped e.bank then s
      else
        let n := e.sectorNow
        let x := s.sto.sector n
        if x.state = 3 then s.stoFinish e 0x17 (4096 * n)
        else if x.state = 2 then s.stoFinish e 0x18 (4096 * n)
        else if s.wearLimit ≤ x.count then
          match s.relocate n false with
          | (.noSpare, s) => ((s.setSto (s.sto.setSector n { x with state := 2 })).syncBank e.bank).stoFinish e 0x16 (4096 * n)
          | (_, s) =>
            let e := { e with doneCnt := e.doneCnt + 1, reloc := e.reloc + 1 }
            ((s.wbmDropSector n).setSto (s.sto.setEntry e)).stoStep e fuel
        else
          let s := s.setSto (s.sto.setSector n { x with count := x.count + 1 })
          let s := if x.count + 1 = s.fget F.STO_WEARWARN_WARN then s.stoCard 0x83 (4096 * n) (x.count + 1) else s
          ((s.wbmDropSector n).setBusy e.bank true).setSto (s.sto.setEntry { e with started := true })
    else if e.op = 4 then
      if e.count ≤ e.doneCnt then s.stoFinish e 0x02 0xFFFFFFFF
      else if s.bankStopped e.bank then s
      else
        let n := e.sectorNow
        let x := s.sto.sector n
        if x.state = 3 then s.stoFinish e 0x17 (4096 * n)
        else if x.state = 2 then s.stoFinish e 0x18 (4096 * n)
        else
          match s.relocate n true with
          | (.noSpare, s) => s.stoFinish e 0x16 (4096 * n)
          | (.unreadable o, s) => (s.uncorrectable o 0x20).stoFinish e 0x13 o
          | (.done, s) =>
            let e := { e with doneCnt := e.doneCnt + 1, reloc := e.reloc + 1 }
            (s.setSto (s.sto.setEntry e)).stoStep e fuel
    else s

/-- Start every entry whose turn has come: bank by bank, the first active entry if it is not yet started (R381). -/
def State.stoKick (s : State) : State :=
  s.sto.active.foldl (fun s e =>
    match s.sto.active.find? (fun x => x.idx == e.idx) with
    | some e => if !e.started && !e.susp && s.sto.runnable e then s.stoStep e (e.count + 1) else s
    | none => s) s

/-- The controller reads the entry at STO_TAIL if its OP is `op`, or undefined: refused, or active and started when its turn has
come (R380, R381). Outside running service (Recess, last bell, thermal shutdown) nothing starts (R394, R396). -/
def State.stoFetch (s : State) (op : Nat) : State :=
  let i := s.fget F.STO_TAIL_INDEX
  if !s.flag F.STO_RINGCFG_EN ∨ i = s.fget F.STO_HEAD_INDEX ∨ s.fget F.PWR_STAT_STATE ≠ 0 then s
  else
    let b := s.load (s.stoSlot i) 64
    let o := leAt b 0 1
    if o ≠ op ∧ 1 ≤ o ∧ o ≤ 5 then s
    else
      let e : StoEntry := { idx := i, op := o, flags := leAt b 2 1, count := leAt b 4 4, saddr := leAt b 8 8, maddr := leAt b 16 8,
                            doneCnt := 0, corrBits := 0, corrMax := 0, reloc := 0, blankW := 0, started := false, susp := false }
      let s := s.fset F.STO_TAIL_INDEX ((i + 1) % (s.fget F.STO_RINGCFG_SIZEM1 + 1))
      match stoRefusal b with
      | some st => s.stoFinish e st (e.saddr % 2 ^ 32)
      | none => ((s.store (s.stoSlot i + 1) [1]).setSto { s.sto with active := s.sto.active ++ [e] }).stoKick

/-- STO_READ (R380). -/
def execStoRead (s : State) : Out State := .next (s.stoFetch 1)

/-- STO_PROGRAM (R384). -/
def execStoProgram (s : State) : Out State := .next (s.stoFetch 2)

/-- STO_ERASE (R386). -/
def execStoErase (s : State) : Out State := .next (s.stoFetch 3)

/-- STO_RELOCATE (R392). -/
def execStoRelocate (s : State) : Out State := .next (s.stoFetch 4)

/-- STO_COUNTS (R380). -/
def execStoCounts (s : State) : Out State := .next (s.stoFetch 5)

/-- The entry whose turn it is in bank `k`: the first active entry of the bank, where it may run. -/
def Storage.current (t : Storage) (k : Nat) : Option StoEntry :=
  match t.active.find? (fun e => e.bank == k) with
  | some e => if t.runnable e && !e.susp then some e else none
  | none => none

/-- The bytes a READ or COUNTS chunk delivers, from byte `o` of the entry's result. -/
def State.stoChunk (s : State) (e : StoEntry) (o n : Nat) : List Byte :=
  if e.op = 1 then s.sto.read (e.saddr + o) n
  else (((List.range (n / 4)).flatMap (fun i =>
    let x := s.sto.sector (e.saddr / 4096 + o / 4 + i)
    leBytes 4 (x.state * 2 ^ 28 + x.count % 2 ^ 28))))

/-- STORAGE_READ_CHUNK: a 4 KiB chunk of the READ or COUNTS entry of bank `k` completes; `errs` gives the words of the chunk that
needed corrected bits, 3 = uncorrectable (R376, R378, R383). -/
def execStorageReadChunk (k : Fin 32) (errs : List (Nat × Fin 4)) (s : State) : Out State :=
  .next (
    match s.sto.current k.val with
    | none => s
    | some e =>
      if e.op ≠ 1 ∧ e.op ≠ 5 then s
      else
        let total := if e.op = 1 then e.count else 4 * e.count
        let o := if e.op = 1 then e.doneCnt else 4 * e.doneCnt
        let n := min 4096 (total - o)
        let c := s.fget F.STO_RINGCFG_CTX
        let words := if e.op = 1 then (List.range (n / 8)).map (fun i => (e.saddr + o) / 8 + i) else []
        let errOf (i : Nat) : Nat := match errs.find? (fun x => x.1 == i) with
          | some x => x.2.val
          | none => s.sto.err ((e.saddr + o) / 8 + i)
        match (List.range words.length).find? (fun i => errOf i == 3 || (s.sto.sector ((e.saddr + o + 8 * i) / 4096)).state == 3) with
        | some i =>
          let ofs := e.saddr + o + 8 * i
          if (s.sto.sector (ofs / 4096)).state = 3 then s.stoFinish e 0x17 ofs else (s.uncorrectable ofs 0x20).stoFinish e 0x13 ofs
        | none =>
          match s.translatePages 0x20 c ((pagesOf (e.maddr + o) n).map (fun v => (v, Acc3.write))) [] with
          | (.fault v _ f, s) => s.stoFault e 3 (f + 1) (if v = (e.maddr + o) / 4096 then e.maddr + o else v * 4096)
          | (.ok m, s) =>
            let s := s.violatePages 0x20 c m
            let data := s.stoChunk e o n
            let s := s.writeBytes (data.zipIdx.filterMap (fun x => (m.phys .write (e.maddr + o + x.2)).map (fun a => (a, x.1))))
            let corr := (List.range words.length).map errOf
            let s := (List.range words.length).foldl (fun s i => s.correction (e.saddr + o + 8 * i) (errOf i)) s
            let blank := (words.filter (fun w => s.sto.blank w)).length
            let s := s.count R.STO_BLANK blank
            let e := { e with doneCnt := if e.op = 1 then e.doneCnt + n else e.doneCnt + n / 4,
                              corrBits := satAdd 32 e.corrBits corr.sum, corrMax := max e.corrMax (corr.foldl max 0),
                              blankW := e.blankW + (if e.op = 1 then blank else 0), started := true }
            let s := s.setSto (s.sto.setEntry e)
            if total ≤ o + n then (s.stoFinish e 0x02 0xFFFFFFFF).stoKick else s)

/-- The word program in progress in bank `k` ends; `ok` says whether it verified (R384, R385, R390, R391). -/
def State.wordDone (s : State) (k : Nat) (ok : Bool) : State :=
    match s.sto.current k with
    | none => s
    | some e =>
      if e.op ≠ 2 ∨ !e.started then s
      else
        let w := e.saddr / 8 + e.doneCnt
        let n := w / 512
        let s := s.setBusy k false
        if ok then
          let c := s.fget F.STO_RINGCFG_CTX
          let va := e.maddr + 8 * e.doneCnt
          match s.translatePages 0x20 c [(va / 4096, .read)] [] with
          | (.fault _ _ f, s) => s.stoFault e 4 f va
          | (.ok m, s) =>
            let data := (List.range 8).map (fun i => match m.phys .read (va + i) with | some a => s.physByte a | none => 0)
            let e := { e with doneCnt := e.doneCnt + 1, started := false }
            let s := s.setSto ((s.sto.progWord w data).setEntry e)
            (s.stoStep e (e.count + 1)).stoKick
        else
          match s.relocate n true with
          | (.unreadable o, s) => ((s.uncorrectable o 0x20).stoFinish e 0x13 o).stoKick
          | (.noSpare, s) =>
            let x := s.draw
            let v := if x.1 % 2 ^ 64 = 2 ^ 64 - 1 then 0 else x.1
            let t := (x.2.sto.progWord w (leBytes 8 v)).setSector n { x.2.sto.sector n with state := 2 }
            (((x.2.setSto t).syncBank k).stoFinish e 0x16 (8 * w)).stoKick
          | (.done, s) =>
            let e := { e with reloc := e.reloc + 1, started := false }
            (s.setSto (s.sto.setEntry e)).stoStep e (e.count + 1)

/-- STORAGE_WORD_DONE. -/
def execStorageWordDone (k : Fin 32) (ok : Bool) (s : State) : Out State := .next (s.wordDone k.val ok)

/-- The sector erase in progress in bank `k` ends; `ok` says whether it verified (R386, R390, R391). -/
def State.eraseDone (s : State) (k : Nat) (ok : Bool) : State :=
    match s.sto.current k with
    | none => s
    | some e =>
      if e.op ≠ 3 ∨ !e.started then s
      else
        let n := e.sectorNow
        let s := s.setBusy k false
        if ok then
          let e := { e with doneCnt := e.doneCnt + 1, started := false }
          let s := s.setSto ((s.sto.eraseSector n).setEntry e)
          (s.stoStep e (e.count + 1)).stoKick
        else
          match s.relocate n false with
          | (.noSpare, s) =>
            let t := (s.sto.eraseSector n).setSector n { s.sto.sector n with state := 3 }
            (((s.setSto t).syncBank k).stoFinish e 0x16 (4096 * n)).stoKick
          | (_, s) =>
            let e := { e with doneCnt := e.doneCnt + 1, reloc := e.reloc + 1, started := false }
            ((s.setSto (s.sto.setEntry e)).stoStep e (e.count + 1)).stoKick

/-- SECTOR_ERASE_DONE. -/
def execSectorEraseDone (k : Fin 32) (ok : Bool) (s : State) : Out State := .next (s.eraseDone k.val ok)

/-- SPARE_ERASE: the erase of a partly programmed spare of bank `k` begins, if the bank has no pending work, or ends (R393). -/
def execSpareErase (k : Fin 32) (start : Bool) (s : State) : Out State :=
  .next (
    match s.sto.dirtySpares.find? (fun x => x.1 == k.val) with
    | none => s
    | some d =>
      if start then
        if s.bankBusy k.val || s.sto.active.any (fun e => e.bank == k.val) then s
        else (s.setBusy k.val true).setFlag F.STO_STAT_CLEANUP true
      else if s.flag F.STO_STAT_CLEANUP && s.bankBusy k.val then
        let s := (s.setBusy k.val false).setFlag F.STO_STAT_CLEANUP false
        (s.setSto { s.sto with dirtySpares := s.sto.dirtySpares.erase d }).stoKick
      else s)

/-- What a write of `v` to STO_CTL does (Table 13-9, R376). -/
def State.writeStoCtl (s : State) (v : Word) : State :=
  let s := s.fset F.STO_CTL_WARN (getField v 16 2)
  if bit v.toNat 0 then
    ((((s.rset R.STO_CORRBITS 0).rset R.STO_UNCORR 0).rset R.STO_BLANK 0).rset R.STO_BUSYERR 0).rset R.STO_RELOC 0
  else s

/-- STO_COUNTER_CLEAR: a write of STO_CTL with CNTCLR = 1. -/
def execStoCounterClear (r : Req) (v : Word) (s : State) : Out State :=
  .next (s.asHome r R.STO_CTL.at (fun s => s.writeStoCtl (v ||| 1)))

/-- PENDING_ERASE_REDO: the redo of one pending-erase record of bank `k` ends; the erase counts again. When every redo is done
RECOVER clears (R395). A redo that does not verify relocates the sector, or leaves it dead (R386, R391). -/
def execPendingEraseRedo (k : Fin 32) (ok : Bool) (s : State) : Out State :=
  .next (
    let done (s : State) : State :=
      let s := s.syncBank k.val
      let s := if s.sto.pendErase.any (fun n => bankOfSector n == k.val) then s else s.setBusy k.val false
      if s.sto.pendErase = [] then s.setFlag F.STO_STAT_RECOVER false else s
    match s.sto.pendErase.find? (fun n => bankOfSector n == k.val) with
    | none => done s
    | some n =>
      let x := s.sto.sector n
      let t := (s.sto.eraseSector n).setSector n { x with count := x.count + 1 }
      let s := s.setSto { t with pendErase := t.pendErase.erase n }
      if ok then done s
      else
        match s.relocate n false with
        | (.noSpare, s) => done (s.setSto (s.sto.setSector n { s.sto.sector n with state := 3 }))
        | (_, s) => done s)

end Sys2Proof.Machine
end

