-- ==== Sys2Proof/Machine/Unit.lean ====
section
/-! DEFINITION. What the units of all operations share: the operation slots of the current bundle, the iterations of RPT, the
descriptor cache, and the translation of the pages of a step (R139, R164, R168, R169). -/

namespace Sys2Proof.Machine

/-- The operation of slot position `pos` as its slot word gives it (Table 05-11). -/
def OpRun.ofSlot (pos y : Nat) (arg : Option Nat) : OpRun :=
  { slot := pos, opc := bits y 56 8, ha := bits y 44 12, hb := bits y 32 12, hc := bits y 20 12, fmt := bits y 16 4,
    mod := bits y 0 16, arg := arg, started := false, step := 0, nsteps := 1, finished := false, staged := [], sums := [],
    acc := [], note := [] }

/-- The operations a bundle issues: OP with ARG, OP2 with ARG2. -/
def Bundle.ops (b : Bundle) : List OpRun :=
  (match b.slot 2 with | some y => [OpRun.ofSlot 2 y (b.slot 3)] | none => []) ++
  (match b.slot 4 with | some y => [OpRun.ofSlot 4 y (b.slot 5)] | none => [])

/-- Signed delta `k` of the RPT slot, 0 without one (R168). -/
def Bundle.delta (b : Bundle) (k : Nat) : Int :=
  match b.slot 7 with
  | some y => toSigned 12 (bits y (28 - 12 * k) 12)
  | none => 0

/-- COUNTM1 of the RPT slot, 0 without one. -/
def Bundle.countM1 (b : Bundle) : Nat := match b.slot 7 with | some y => bits y 40 16 | none => 0

/-- Handle `k` (0 HA, 1 HB, 2 HC) of an operation in iteration `i`. -/
def Bundle.handleAt (b : Bundle) (o : OpRun) (k i : Nat) : Int :=
  ((match k with | 0 => o.ha | 1 => o.hb | _ => o.hc : Nat) : Int) + i * b.delta k

/-- Handle `k` of an operation in the current iteration. -/
def Prog.handle (p : Prog) (o : OpRun) (k : Nat) : Nat :=
  match p.bundle with
  | some b => (b.handleAt o k p.iter).toNat
  | none => 0

/-- The descriptor at a handle in memory (R130, R169). -/
def State.tdt (s : State) (c h : Nat) : List Byte :=
  (List.range 64).map (fun i => s.physByte (s.rget R.MMU_CTX_TDTBASE c * 4096 + 64 * h + i))

/-- The descriptor cache with the descriptors of more handles (R169). -/
def State.cacheDescs (s : State) (p : Prog) (hs : List Nat) : Prog :=
  { p with descs := hs.foldl (fun (d : List (Nat × List Byte)) h =>
      if d.any (fun x => x.1 == h) then d else (h, s.tdt p.start.ctx h) :: d) p.descs }

/-- The descriptor of a handle as the program's cache holds it. -/
def Prog.desc (p : Prog) (h : Nat) : Desc :=
  parseDesc ((p.descs.find? (fun x => x.1 == h)).elim [] (·.2))

/-- The descriptor as core rank `r` of a broadcast uses it (R179). -/
def Desc.forRank (d : Desc) (r : Nat) : Desc := { d with base := d.base + r * d.rstride }

/-- The DME cores that run a program of stream `n`: those of a broadcast, or the stream's own. -/
def Prog.cores (p : Prog) (n : Nat) : List Nat := if p.start.bcast then setBits 16 p.start.cmask else [n - 4]

/-- Replace an operation of the running program by slot position. -/
def Prog.setOp (p : Prog) (o : OpRun) : Prog := { p with ops := p.ops.map (fun x => if x.slot = o.slot then o else x) }

/-- Store the program with one operation replaced. -/
def State.setOp (s : State) (n : Nat) (p : Prog) (o : OpRun) : State := s.setRun n (some (p.setOp o))

/-- Act on the unfinished operation of stream `n` that satisfies `ok`, in an issued bundle; nothing where there is none. -/
def State.withOp (s : State) (n : Nat) (ok : OpRun → Bool) (f : Prog → OpRun → State) : State :=
  match (s.stream n).run with
  | none => s
  | some p =>
    if p.phase ≠ .issued then s
    else
      match p.ops.find? (fun o => !o.finished && ok o) with
      | none => s
      | some o => f p o

/-- Begin an issued operation of opcode `opc` on stream `n`. -/
def State.beginOp (s : State) (n opc : Nat) (f : Prog → OpRun → State) : State :=
  s.withOp n (fun o => !o.started && o.opc == opc) f

/-- The bundle moves on once all its operations have finished and no RPT iteration is left (R160). -/
def Prog.advance (p : Prog) : Prog :=
  if p.phase = .issued ∧ p.ops.all (fun o => o.finished) = true ∧ p.iter = (p.bundle.elim 0 (·.countM1)) then
    { p with phase := .opsDone } else p

/-- An operation of stream `n` has finished. -/
def State.finishOp (s : State) (n : Nat) (p : Prog) (o : OpRun) : State :=
  s.setRun n (some (p.setOp { o with finished := true }).advance)

/-! ### Pages of a step (R139) -/

/-- A page a step touches: the page, the purpose, the first address touched in it, the handle of the operand. -/
structure Touch where
  vpn : Nat
  acc : Acc3
  va : Nat
  handle : Nat
deriving DecidableEq, Repr

/-- The pages of virtual byte offsets of a tensor, in order; none for a region-bound tensor. -/
def Desc.touches (d : Desc) (h : Nat) (acc : Acc3) (offs : List Nat) : List Touch :=
  if d.crbind then []
  else (offs.map (fun o => (d.base + o) / 4096)).eraseDups.map (fun v =>
    let here := (offs.filter (fun o => (d.base + o) / 4096 == v)).map (fun o => d.base + o)
    ⟨v, acc, here.foldl min (here.headD 0), h⟩)

/-- The outcome of translating what a step touches. -/
inductive Touched where
  | ok (m : PageMap)
  | fault (t : Touch) (flags : Nat)
deriving DecidableEq, Repr

/-- Translate every page of a step before it writes (R139). -/
def State.touch (s : State) (unit c : Nat) : List Touch → PageMap → Touched × State
  | [], m => (.ok m.reverse, s)
  | t :: ts, m =>
    match s.translate unit c t.vpn with
    | (.fault f, s) => (.fault t (f + b2n (t.acc == .write)), s)
    | (.ok e, s) => s.touch unit c ts ((t.vpn, t.acc, s.pageAns e t.vpn t.acc) :: m)

/-- Pages of the remote window refuse every access but a data mover's (R512). -/
def State.noRemote (s : State) (m : PageMap) : PageMap :=
  m.map (fun x => match x.2.2 with
    | .page p => if s.loc (p * 4096) = .remote then (x.1, x.2.1, .viol 4) else x
    | .viol _ => x)

/-- Suspend the running program in an operation's step on a fault (R138). -/
def State.suspendOp (s : State) (n : Nat) (p : Prog) (o : OpRun) (kind : Nat) (t : Touch) (flags detail : Nat) : State :=
  s.suspend n p kind flags t.handle t.va o.step o.nsteps o.slot detail

/-- A consumer's confirmed failure: counted, reported, and the program halts with reason 0x0C (R83, R113). -/
def State.failRead (s : State) (n : Nat) (p : Prog) (x : Nat × Bool) (slot handle va : Nat) : State :=
  (s.reportConsume x p.start.ctx n).halt n 0x0C slot handle va

/-- The running count at which a consumer or an engine output reads or writes a bound region: TAIL for a consumer, HEAD for an
engine's output (R100). -/
def State.crStart (s : State) (d : Desc) (acc : Acc3) : Nat :=
  if acc = .write then s.crHead d.crnum else s.crTail d.crnum

/-! ### Reading the storage window (R376 to R378, R96) -/

/-- Offsets in the storage array of the addresses that lie in its window. -/
def State.storeOffs (s : State) (addrs : List Nat) : List Nat :=
  (addrs.filter (fun a => match s.loc a with | .store _ => true | _ => false)).map (fun a => a - 0x1000000000)

/-- The effects of a window read that succeeded: corrections, blank words, the lines of the shared read cache. -/
def State.storeRead (s : State) (offs : List Nat) : State :=
  let words := (offs.map (· / 8)).eraseDups
  let cached := s.fget F.MEM_WBMCACHE_SIZE != 0
  let miss := words.filter (fun w => !(cached && s.memsys.wbmLines.contains (w / 512 * 4096)))
  let s := miss.foldl (fun s w => s.correction (8 * w) (s.sto.err w)) s
  let s := s.count R.STO_BLANK (miss.filter (fun w => s.sto.blank w)).length
  let lines := (words.map (· / 512)).eraseDups
  if cached then
    lines.foldl (fun s l =>
      ((if s.memsys.wbmLines.contains (4096 * l) then s.count R.MEM_WBMHIT else s.count R.MEM_WBMMISS)).wbmTouch (4096 * l)) s
  else s

/-- What reading operand bytes at physical addresses meets: nothing, or the failure that ends the operation, counted. The Bool
says whether the operation may go on: a DME feeder or the signal engine holds while a storage bank is busy (Table 13-2). -/
def State.readCheck (s : State) (n : Nat) (p : Prog) (notag : Bool) (addrs : List Nat) (slot handle va : Nat) : Bool × State :=
  match s.consumeFail notag addrs with
  | some x => (false, s.failRead n p x slot handle va)
  | none =>
    let offs := s.storeOffs addrs
    if offs = [] then (true, s)
    else
      match s.windowCheck (s.fget F.MEM_WBMCACHE_SIZE != 0) offs with
      | .busy _ => if 14 ≤ n then (false, (s.count R.STO_BUSYERR).halt n 0x0C slot handle va) else (false, s)
      | .bad o => (false, (s.uncorrectable o n).halt n 0x0C slot handle va)
      | .ok => (true, s.storeRead offs)

end Sys2Proof.Machine
end

