-- ==== Sys2Proof/Machine/DmeCheck.lean ====
section
/-! DEFINITION. The operands of DME operations, their encodings, shapes, types and capacity (R246, R247, R249, R250, R254,
R255, R270, R284 to R286, R354): what BUNDLE_ISSUE checks of them. -/

namespace Sys2Proof.Machine

/-- A failed issue check: its order in Table 05-18, the reason, the slot position, the handle concerned. -/
structure Fail where
  order : Nat
  reason : Nat
  slot : Nat
  handle : Nat
deriving DecidableEq, Repr

/-- The first failed check in the order of Table 05-18. -/
def firstFail (l : List Fail) : Option Fail :=
  match l with
  | [] => none
  | f :: t => some (t.foldl (fun b x => if x.order < b.order then x else b) f)

/-- A check that fails where the condition is false. -/
def need (ok : Bool) (order reason slot handle : Nat) : List Fail := if ok then [] else [⟨order, reason, slot, handle⟩]

/-! ### ARG (Tables 05-14 and 12-3) -/

structure DmeArg where
  qmul : Nat
  qshift : Nat
  fn : Nat
  bias : Nat
  biasen : Bool
  ch : Nat
  cen : Bool
  low : Nat
deriving DecidableEq, Repr

/-- The ARG of MMA, DIST and EWISE, with the defaults of R164 where it is absent. -/
def dmeArg (o : OpRun) : DmeArg :=
  match o.arg with
  | none => ⟨1, 0, 0, 0, false, 0, false, 0⟩
  | some y => ⟨bits y 48 16, bits y 43 5, bits y 40 3, bits y 28 12, bit y 27, bits y 15 12, bit y 14, bits y 0 14⟩

/-- Whether an opcode takes the pipeline's ARG. -/
def hasPipe (opc : Nat) : Bool := opc == 0x20 || opc == 0x21 || opc == 0x22

/-- The working-copy handle of OPTIM in iteration `i` (R354). -/
def optimWc (b : Bundle) (o : OpRun) (i : Nat) : Int := (bits (o.arg.getD 0) 40 12 : Int) + i * b.delta 0

/-- The coefficient-record handle of OPTIM. -/
def optimCo (o : OpRun) : Nat := bits (o.arg.getD 0) 52 12

/-- The handles an operation reads in iteration `i`. -/
def dmeReads (b : Bundle) (o : OpRun) (i : Nat) : List Int :=
  let h (k : Nat) := b.handleAt o k i
  let a := dmeArg o
  if hasPipe o.opc then [h 0, h 1] ++ (if a.cen then [(a.ch : Int)] else []) ++ (if a.biasen then [(a.bias : Int)] else [])
  else if o.opc = 0x23 then [h 0, h 1]
  else if o.opc = 0x25 then [h 0, h 1, h 2, (optimCo o : Int)]
  else [h 0]

/-- The handles an operation writes in iteration `i`. -/
def dmeWrites (b : Bundle) (o : OpRun) (i : Nat) : List Int :=
  if o.opc = 0x25 then [b.handleAt o 0 i, b.handleAt o 2 i, optimWc b o i] else [b.handleAt o 2 i]

/-! ### Encodings (reason 0x02) -/

/-- The defined values of FMT, MOD, unused handles and ARG fields of a DME operation. -/
def dmeEncodingOk (o : OpRun) : Bool :=
  let m := o.mod
  let a := dmeArg o
  decide (o.fmt ≤ 3) &&
  match o.opc with
  | 0x20 => bits m 0 12 == 0 && decide (a.fn ≤ 3) && a.low == 0
  | 0x21 => bits m 0 12 == 0 && decide (bits m 12 4 ≤ 4) && decide (a.fn ≤ 3) && a.low == 0
  | 0x22 => bits m 0 12 == 0 && decide (bits m 12 4 ≤ 5) && decide (a.fn ≤ 3) && a.low == 0
  | 0x23 => bits m 0 8 == 0 && decide (bits m 12 4 ≤ 1)
  | 0x24 => bits m 0 8 == 0 && bits m 12 4 == 0 && o.hb == 0
  | 0x25 => m == 0 && decide (bits (o.arg.getD 0) 36 4 ≤ 1) && bits (o.arg.getD 0) 0 36 == 0
  | 0x26 => bits m 0 8 == 0 && bits m 12 4 == 0 && o.hb == 0
  | _ => bits m 0 12 == 0 && decide (bits m 12 4 ≤ 3) && o.hb == 0

/-! ### Shapes and types (reason 0x04) -/

/-- The element type of A and B under FMT (R247). -/
def fmtType (fmt : Nat) : Nat := match fmt with | 0 => 1 | 1 => 6 | 2 => 7 | _ => 8

/-- The type of C, the bias and OUTF 0. -/
def wideType (fmt : Nat) : Nat := if fmt = 0 then 5 else 9

/-- The OUTF that D's type stands for, where the operation has no OUTF field; none where no OUTF selects it (R247). -/
def outfOf (fmt typ : Nat) : Option Nat :=
  if typ = wideType fmt then some 0 else if typ = 8 then some 1 else if typ = 1 then some 2
  else if typ = fmtType fmt then some 3 else none

/-- The OUTF of an operation: MMA's field, else the one D's type stands for. -/
def dmeOutf (o : OpRun) (d : Desc) : Option Nat :=
  if o.opc = 0x20 then
    let f := bits o.mod 12 2
    let t := match f with | 0 => wideType o.fmt | 1 => 8 | 2 => 1 | _ => fmtType o.fmt
    if d.typ = t then some f else none
  else outfOf o.fmt d.typ

def Desc.flat2 (d : Desc) : Bool := d.size 2 == 1 && d.size 3 == 1 && d.size 4 == 1
def Desc.sameSizes (a b : Desc) : Bool := a.sizes == b.sizes

/-- Whether two descriptors have equal sizes but for dimension `k`. -/
def Desc.sameBut (a b : Desc) (k : Nat) : Bool := (List.range 5).all (fun i => i == k || a.size i == b.size i)

/-- M, N and K of MMA and DIST as A and B give them (R246); K of an XOR-popcount counts bytes (R247). -/
def mnk (o : OpRun) (a b : Desc) : Nat × Nat × Nat :=
  let ta := o.opc == 0x20 && bit o.mod 15
  let tb := o.opc == 0x20 && bit o.mod 14
  let row (d : Desc) : Nat := if d.typ = 10 then d.rowBytes else d.size 0
  let m := if ta then a.size 0 else a.size 1
  let k := if ta then a.size 1 else row a
  let n := if o.opc = 0x20 then (if tb then b.size 1 else b.size 0) else b.size 1
  (m, n, k)

/-- K as B gives it. -/
def kOfB (o : OpRun) (b : Desc) : Nat :=
  if o.opc = 0x20 then (if bit o.mod 14 then b.size 0 else b.size 1) else if b.typ = 10 then b.rowBytes else b.size 0

/-- A transposed view serves whole-byte elements of 1, 2 and 4 bytes in linear and tiled layouts (R249). -/
def Desc.viewOk (d : Desc) : Bool := !subByte d.typ && (d.layout == 0 || d.layout == 2)

/-- The shape and type conditions of MMA and DIST. `ad` is the addend, `bi` the bias. -/
def mmaShapeOk (o : OpRun) (a b d : Desc) (ad bi : Option Desc) : Bool :=
  let (m, n, k) := mnk o a b
  let mode := bits o.mod 12 4
  let typesOk := if o.opc = 0x21 ∧ mode = 4 then o.fmt == 0 && (a.typ == 10 || a.typ == 11) && (b.typ == 10 || b.typ == 11)
    else a.typ == fmtType o.fmt && b.typ == fmtType o.fmt
  typesOk && a.flat2 && b.flat2 && d.flat2 && kOfB o b == k && d.size 0 == n && d.size 1 == m &&
  (!(o.opc == 0x20 && bit o.mod 15) || a.viewOk) && (!(o.opc == 0x20 && bit o.mod 14) || b.viewOk) &&
  (match ad with | none => true | some c => c.typ == wideType o.fmt && c.sameSizes d) &&
  (match bi with | none => true | some c => c.typ == wideType o.fmt && c.rank == 1 && c.size 0 == n) &&
  (match dmeOutf o d with
    | none => false
    | some f => (o.opc != 0x21 || o.fmt != 0 || mode == 2 || mode == 3 || f == 0) && (f != 2 || o.arg.isSome) &&
        ((dmeArg o).fn != 3 || (f == 2 && o.fmt == 0)))

/-- A's outermost dimension of size above 1; 0 where none is. -/
def Desc.outermost (d : Desc) : Nat := ((List.range 5).filter (fun k => 1 < d.size k)).getLastD 0

/-- The shape and type conditions of EWISE (R246, R261). -/
def ewiseShapeOk (o : OpRun) (a b d : Desc) (ad bi : Option Desc) : Bool :=
  let bOk := if bits o.mod 12 4 = 5 then b.rank == 1 && b.size 0 == a.size a.outermost
    else (List.range 5).all (fun k => b.size k == a.size k || b.size k == 1)
  a.typ == fmtType o.fmt && b.typ == fmtType o.fmt && bOk && d.sameSizes a &&
  (match ad with | none => true | some c => c.typ == wideType o.fmt && c.sameSizes d) &&
  (match bi with | none => true | some c => c.typ == wideType o.fmt && c.rank == 1 && c.size 0 == d.size 0) &&
  (match dmeOutf o d with
    | none => false
    | some f => (f != 2 || o.arg.isSome) && ((dmeArg o).fn != 3 || (f == 2 && o.fmt == 0)))

/-- The output types of NORM and SOFTMAX: FP32, BF16 or A's own FP8 type. -/
def realOut (a d : Desc) : Bool := d.typ == 9 || d.typ == 8 || ((a.typ == 6 || a.typ == 7) && d.typ == a.typ)

/-- The sizes WINO asks of its operands (R284 to R286). -/
def winoOk (o : OpRun) (a d : Desc) : Bool :=
  let evenW (x : Nat) : Bool := decide (4 ≤ x) && x % 2 == 0
  let inT := a.typ == fmtType o.fmt && (d.typ == 9 || d.typ == 8 || ((a.typ == 6 || a.typ == 7) && d.typ == a.typ))
  let outT := (a.typ == 9 || a.typ == 8) && (d.typ == 9 || d.typ == 8 || d.typ == 6 || d.typ == 7)
  o.fmt != 0 &&
  match bits o.mod 12 4 with
  | 0 =>
    let t := (a.size 0 - 2) / 2 * ((a.size 1 - 2) / 2)
    inT && a.layout == 1 && a.rank == 3 && evenW (a.size 0) && evenW (a.size 1) && d.rank == 3 && d.size 0 == a.size 2 &&
    d.size 1 == t && d.size 2 == 16
  | 1 =>
    outT && a.rank == 3 && a.size 2 == 16 && d.layout == 1 && d.rank == 3 && d.size 0 % 2 == 0 && d.size 1 % 2 == 0 &&
    d.size 0 / 2 * (d.size 1 / 2) == a.size 1 && d.size 2 == a.size 0
  | 2 =>
    inT && a.layout == 1 && a.rank == 2 && evenW (a.size 0) && d.rank == 3 && d.size 0 == a.size 1 &&
    d.size 1 == (a.size 0 - 2) / 2 && d.size 2 == 4
  | _ =>
    outT && a.rank == 3 && a.size 2 == 4 && d.layout == 1 && d.rank == 2 && d.size 0 == 2 * a.size 1 && d.size 1 == a.size 0

/-- The sizes and types OPTIM asks of its operands (R354). -/
def optimOk (o : OpRun) (p g st co wc : Desc) : Bool :=
  let n := p.count
  o.fmt == 3 && p.typ == 9 && g.typ == 9 && st.typ == 9 && g.count == n && wc.typ == 8 && wc.count == n && decide (64 ≤ co.streamBytes) &&
  (if bits (o.arg.getD 0) 36 4 = 0 then st.count == n else st.count == 2 * n && st.size 0 == 2)

/-- The axis of NORM, SOFTMAX and ARGMAX. -/
def dmeAxis (o : OpRun) : Nat := bits o.mod 8 4

/-- Whether the descriptors of iteration `i` suit the operation (R246, R247). -/
def dmeShapeOk (p : Prog) (b : Bundle) (o : OpRun) (i : Nat) : Bool :=
  let d (h : Int) := p.desc h.toNat
  let a := d (b.handleAt o 0 i)
  let bb := d (b.handleAt o 1 i)
  let dd := d (b.handleAt o 2 i)
  let x := dmeArg o
  let ad := if x.cen then some (p.desc x.ch) else none
  let bi := if x.biasen then some (p.desc x.bias) else none
  (dd.layout != 3 || o.opc == 0x25) &&
  match o.opc with
  | 0x20 | 0x21 => mmaShapeOk o a bb dd ad bi
  | 0x22 => ewiseShapeOk o a bb dd ad bi
  | 0x23 => decide (dmeAxis o < a.rank) && a.typ == fmtType o.fmt && bb.typ == 9 && bb.count == bb.size 0 &&
      bb.size 0 == 2 * a.size (dmeAxis o) && dd.sameSizes a && realOut a dd
  | 0x24 => decide (dmeAxis o < a.rank) && a.typ == fmtType o.fmt && dd.sameSizes a && realOut a dd
  | 0x25 => optimOk o a bb dd (p.desc (optimCo o)) (d (optimWc b o i)) && a.layout != 3 && dd.layout != 3 &&
      (d (optimWc b o i)).layout != 3
  | 0x26 => decide (dmeAxis o < a.rank) && a.typ == fmtType o.fmt && dd.typ == 5 && dd.size (dmeAxis o) == 1 && a.sameBut dd (dmeAxis o)
  | _ => winoOk o a dd

/-! ### Capacity and timed mode -/

/-- A core's DUTY as it acts: 6 to 8 (R270), at most 7 or 6 while the core is at suspect level 2 or 3 (R442). -/
def State.duty (s : State) (k : Nat) : Nat :=
  let d := s.fget F.DME_CTL_DUTY k
  let d := if d < 6 then 6 else if 8 < d then 8 else d
  match bits (s.fget F.SAFE_LEVELC_LEVEL) (2 * k) 2 with
  | 2 => min d 7
  | 3 => min d 6
  | _ => d

/-- The accumulator condition of Table 08-3 (reason 0x05). -/
def State.accumOk (s : State) (p : Prog) (b : Bundle) (o : OpRun) (i core : Nat) : Bool :=
  let a := p.desc (b.handleAt o 0 i).toNat
  let bb := p.desc (b.handleAt o 1 i).toNat
  match o.opc with
  | 0x20 | 0x21 =>
    let r := if o.fmt = 3 then 2 else 1
    decide ((mnk o a bb).2.2 * r * 8 ≤ 8192 * s.duty core)
  | 0x23 | 0x24 => decide (a.size (dmeAxis o) ≤ 8192)
  | 0x26 => decide (a.size (dmeAxis o) ≤ 16777215)
  | _ => true

/-- The scratchpad bytes of a core. -/
def State.scratch (s : State) (core : Nat) : Nat := (8 - s.l1Cache core) * 0x10000

/-- The buffer conditions of Table 08-3 that no address enters (reason 0x06). -/
def State.bufferOk (s : State) (p : Prog) (b : Bundle) (o : OpRun) (i core : Nat) : Bool :=
  let small (h : Int) : Bool := decide ((p.desc h.toNat).streamBytes ≤ 0x400000)
  (o.opc == 0x20 || o.opc == 0x21 || (dmeReads b o i ++ dmeWrites b o i).all small) &&
  (!hasPipe o.opc || (dmeArg o).fn != 3 || decide (s.fget F.DME_TABLE_OFS core * 256 + 256 ≤ s.scratch core))

/-- The checks of a DME operation in iteration `i` that need no translation. -/
def State.dmeCheck (s : State) (n : Nat) (p : Prog) (b : Bundle) (o : OpRun) (i : Nat) : List Fail :=
  let cores := p.cores n
  let hs := dmeReads b o i ++ dmeWrites b o i
  let bad := hs.find? (fun h => (p.desc h.toNat).inconsistent 256)
  need (bad == none) 9 0x04 o.slot (bad.elim 0 Int.toNat) ++
  need (dmeShapeOk p b o i) 9 0x04 o.slot (b.handleAt o 0 i).toNat ++
  need (cores.all (fun k => s.accumOk p b o i k)) 10 0x05 o.slot (b.handleAt o 0 i).toNat ++
  need (cores.all (fun k => s.bufferOk p b o i k)) 11 0x06 o.slot (b.handleAt o 0 i).toNat ++
  need (!p.timed || (cores.all (fun k => s.duty k == 8) && hs.all (fun h => (p.desc h.toNat).cmode != 2))) 13 0x09 o.slot
    (b.handleAt o 0 i).toNat

/-! ### Where operands lie (R250) -/

/-- The memories whose lines an L1 cache may hold (R93). -/
def Loc.cacheable : Loc → Bool
  | .am | .psm | .wbm | .dam _ | .store _ => true
  | _ => false

/-- How an operand lies to a core: wholly in its scratchpad, wholly in memory the cache may hold, or otherwise (R250). -/
inductive Place where
  | scratch | cached | wrong
deriving DecidableEq, Repr

/-- The place of physical addresses to a core. -/
def State.place (s : State) (core : Nat) (addrs : List Nat) : Place :=
  if addrs.all (fun a => s.loc a == .l1 core) then .scratch
  else if addrs.all (fun a => (s.loc a).cacheable) then .cached
  else .wrong

/-- The physical addresses of a tensor's bytes as a core's pages map them, without touching a TLB; pages that refuse or are
unmapped give none. -/
def State.peekAddrs (s : State) (unit c : Nat) (d : Desc) (offs : List Nat) : List Nat :=
  offs.filterMap (fun o =>
    if d.crbind then some (s.crAddr d.crnum (s.crTail d.crnum) o)
    else match (s.translate unit c ((d.base + o) / 4096)).1 with
      | .fault _ => none
      | .ok e => match s.pageAns e ((d.base + o) / 4096) .read with
        | .page p => if s.loc (p * 4096) = .remote then none else some (p * 4096 + (d.base + o) % 4096)
        | .viol _ => none)

/-- The byte offsets an operand covers: its elements', or a lossless stream's header and index (its blocks' offsets are read from
it). -/
def Desc.covered (d : Desc) : List Nat :=
  if d.layout = 3 then List.range (32 + 16 * ceilDiv d.streamBytes 4096) else d.offsets 0 d.count

/-- The key of a cache line: its physical address, or for an expanded line the stream's base and the offset in it (R252). -/
def expandedKey (base ofs : Nat) : Nat := 2 ^ 40 * (base + 1) + ofs / 128 * 128

/-- The set of a line (R92, R252). -/
def lineSet (sets key : Nat) : Nat := if sets = 0 then 0 else (key % 2 ^ 40) / 128 % sets

/-- The lines an operand locks in a core's cache. -/
def State.operandLines (s : State) (unit c core : Nat) (d : Desc) : List Nat :=
  let addrs := s.peekAddrs unit c d d.covered
  if s.place core addrs = .scratch ∧ d.layout ≠ 3 then []
  else if d.layout = 3 then
    (List.range (ceilDiv d.streamBytes 128)).map (fun k => expandedKey (addrs.headD 0) (128 * k))
  else (addrs.map (fun a => a / 128 * 128)).eraseDups

/-- Whether D overlaps an input operand, or the bundle's RED reduces D: the results are staged (R265, R356). Overlap is judged on
virtual extents; region-bound tensors overlap where they share a region. -/
def dmeStaged (p : Prog) (b : Bundle) (o : OpRun) (i : Nat) : Bool :=
  let meet (x y : Desc) : Bool :=
    if x.crbind || y.crbind then x.crbind && y.crbind && x.crnum == y.crnum
    else decide (x.base < y.base + y.extent) && decide (y.base < x.base + x.extent)
  let outs := (dmeWrites b o i).map (fun h => p.desc h.toNat)
  let ins := (dmeReads b o i).map (fun h => p.desc h.toNat)
  o.opc == 0x25 || outs.any (fun x => ins.any (fun y => meet x y)) ||
  (match b.slot 6 with
    | some y => bits y 56 8 == 0x60 && (dmeWrites b o i).any (fun h => h == (bits y 44 12 : Int))
    | none => false)

/-- The lines that staging takes: as many as hold D, in consecutive sets. -/
def stagingLines (p : Prog) (b : Bundle) (o : OpRun) (i : Nat) : List Nat :=
  if dmeStaged p b o i then
    ((dmeWrites b o i).zipIdx).flatMap (fun h =>
      (List.range (ceilDiv (p.desc h.1.toNat).streamBytes 128)).map (fun k => 2 ^ 82 * (h.2 + 1) + 128 * k))
  else []

/-- The location conditions of a DME operation in iteration `i` on one core of rank `r` (R180, R250, R255, R270). -/
def State.dmePlaceCheck (s : State) (p : Prog) (b : Bundle) (o : OpRun) (i core r : Nat) : List Fail :=
  let unit := 4 + core
  let c := p.start.ctx
  let ds := (dmeReads b o i).map (fun h => (h.toNat, (p.desc h.toNat).forRank r))
  let place (d : Desc) := s.place core (s.peekAddrs unit c d d.covered)
  let wrong := ds.find? (fun x => place x.2 == .wrong)
  let lines := (ds.flatMap (fun x => s.operandLines unit c core x.2)).eraseDups
  let staging := stagingLines p b o i
  let outs := (dmeWrites b o i).map (fun h => (p.desc h.toNat).forRank r)
  let outside := lines != [] || staging != [] || outs.any (fun d => place d != .scratch)
  let sets := 64 * s.l1Cache core
  let all := lines ++ staging
  let fits := all.length ≤ 7 * sets ∧ (List.range sets).all (fun k => decide ((all.filter (fun l => lineSet sets l == k)).length ≤ 7)) = true
  need (wrong == none) 9 0x04 o.slot (wrong.elim 0 (·.1)) ++
  need (!outside || decide (1 ≤ s.l1Cache core)) 11 0x06 o.slot (b.handleAt o 0 i).toNat ++
  need (all == [] || decide fits) 11 0x06 o.slot (b.handleAt o 0 i).toNat ++
  need (!p.timed || lines == []) 13 0x09 o.slot (b.handleAt o 0 i).toNat

end Sys2Proof.Machine
end

