-- ==== Sys2Proof/Machine/Cim.lean ====
section
/-! DEFINITION. Computing in the weight tiles (spec/06): layer entries, slots, the gray card, the checksum check, deck selection
and the output stage. -/

namespace Sys2Proof.Machine

/-! ### Layer entries and tile masks (R191, R192, Table 05-13) -/

/-- A layer entry (Tables 06-22 to 06-27), as read at issue. -/
structure Layer where
  valid : Bool
  deck : Nat
  wfmt : Nat
  afmt : Nat
  wide : Bool
  satact : Bool
  rowsplit : Bool
  rowfirst : Nat
  rowcnt : Nat
  colfirst : Nat
  colcnt : Nat
  fn : Nat
  chi : Nat
  clo : Nat
  wclip : Nat
  param : Nat
  table : Nat
deriving DecidableEq, Repr

/-- The six registers of entry `k` of die `d`. -/
def State.layerRegs (s : State) (d k : Nat) : List Nat :=
  [s.rget R.CIM_LT_GEOM d k, s.rget R.CIM_LT_COLS d k, s.rget R.CIM_LT_FUNC d k, s.rget R.CIM_LT_WIDE d k,
   s.rget R.CIM_LT_PARAM d k, s.rget R.CIM_LT_TABLE d k]

/-- A layer entry from its registers. WCLIP above 1,536 acts as 0 (Table 06-25). -/
def Layer.ofRegs (l : List Nat) : Layer :=
  let g := l.getD 0 0
  let c := l.getD 1 0
  let f := l.getD 2 0
  let w := bits (l.getD 3 0) 0 11
  { valid := bit g 31, deck := bits g 28 3, wfmt := bits g 26 2, afmt := bits g 23 3, wide := bit g 22, satact := bit g 21,
    rowsplit := bit g 20, rowfirst := bits g 10 9, rowcnt := bits g 0 9 + 1, colfirst := bits c 16 9, colcnt := bits c 0 9 + 1,
    fn := bits f 30 2, chi := bits f 8 8, clo := bits f 0 8, wclip := if 1536 < w then 0 else w,
    param := bits (l.getD 4 0) 8 15 * 256, table := bits (l.getD 5 0) 8 15 * 256 }

/-- The positions of a tile mask, in the order of their ranks (R192): ascending groups, ascending positions. -/
def maskTiles (arg : Nat) : List (Nat × Nat) :=
  (setBits 16 (bits arg 48 16)).flatMap (fun g => (List.range (bits arg 36 6 + 1)).map (fun i => (g, bits arg 42 6 + i)))

/-- A tile as an MVM sees it from issue to commit: group, position, physical tile, physical deck (R209). -/
structure TileRef where
  group : Nat
  pos : Nat
  tile : Nat
  deck : Nat
deriving DecidableEq, Repr

/-- The tiles of a mask under the deck map now in force, for logical deck `l`. -/
def State.tileRefs (s : State) (d arg l : Nat) : List TileRef :=
  (maskTiles arg).map (fun x =>
    let t := (s.serving d x.1 x.2).getD 0
    ⟨x.1, x.2, t, (s.tileX d t).ready l⟩)

/-- What an MVM keeps of its issue (R191, R209): the entry's registers, its number, its tiles. -/
def State.mvmNote (s : State) (d : Nat) (o : OpRun) : List Nat :=
  let k := bits o.mod 8 8
  let regs := s.layerRegs d k
  regs ++ [k] ++ (s.tileRefs d (o.arg.getD 0) (Layer.ofRegs regs).deck).flatMap (fun x => [x.group, x.pos, x.tile, x.deck])

/-- The tiles in an MVM's note. -/
def refsOf : List Nat → List TileRef
  | g :: p :: t :: k :: r => ⟨g, p, t, k⟩ :: refsOf r
  | _ => []

def OpRun.layer (o : OpRun) : Layer := Layer.ofRegs o.note
def OpRun.entry (o : OpRun) : Nat := o.note.getD 6 0
def OpRun.tiles (o : OpRun) : List TileRef := refsOf (o.note.drop 7)

/-- Element type, planes, whether signed, x_max of an activation format (Table 06-4). -/
def afmtShape (a : Nat) : Nat × Nat × Bool × Nat :=
  match a with
  | 0 => (1, 8, true, 128) | 1 => (2, 8, false, 255) | 2 => (3, 4, true, 8) | _ => (10, 1, false, 1)

/-- Weight of plane `j` (Table 06-4). -/
def planeWeight (a j : Nat) : Int :=
  if a = 0 ∧ j = 7 then -128 else if a = 2 ∧ j = 3 then -8 else (2 ^ j : Nat)

/-- Outputs of an MVM over `t` tiles (R192). -/
def Layer.outputs (l : Layer) (t : Nat) : Nat := if l.rowsplit then l.colcnt else t * l.colcnt

/-- Largest weight magnitude of a format (R213). -/
def wMax (w : Nat) : Nat := match w with | 0 => 128 | 1 => 8 | 2 => 2 | _ => 1

/-! ### Issue checks (R213, Table 06-10) -/

/-- The first byte of die `d`'s DAM. -/
def damBase (d : Nat) : Nat := 0x0800000000 + d * 0x1000000

/-- A descriptor that is not of a type and a number of elements. -/
def Desc.is (x : Desc) (typ count : Nat) : Bool := x.typ == typ && x.count == count

/-- The checks of one MVM or DECK of die `d` in iteration `i` that need no translation. `argSlot` is its ARG's position. -/
def State.cimCheck (s : State) (d : Nat) (p : Prog) (b : Bundle) (o : OpRun) (i : Nat) : List Fail :=
  let argSlot := o.slot + 1
  let arg := o.arg.getD 0
  let h (k : Nat) := (b.handleAt o k i).toNat
  let mvm := o.opc == 0x10
  let accen := bit o.mod 1
  let raw := bit o.mod 0
  let l := Layer.ofRegs (s.layerRegs d (bits o.mod 8 8))
  let tiles := maskTiles arg
  let refs := s.tileRefs d arg l.deck
  let t := tiles.length
  let tr := if l.rowsplit then t else 1
  let af := afmtShape l.afmt
  let enc := if mvm then o.fmt == 0 && bits o.mod 2 6 == 0 && (accen || o.hc == 0)
    else o.fmt == 0 && bits o.mod 3 13 == 0 && o.ha == 0 && o.hb == 0 && o.hc == 0
  need enc 2 0x02 o.slot 0xFFFF ++ need (bits arg 0 36 == 0) 2 0x02 argSlot 0xFFFF ++
  need ((setBits 16 (bits arg 48 16)).all (s.groupOk d) &&
    tiles.all (fun x => decide (63 < x.2) || (s.serving d x.1 x.2).isSome)) 8 0x12 argSlot 0xFFFF ++
  need (bits arg 48 16 != 0 && decide (bits arg 42 6 + bits arg 36 6 ≤ 63)) 9 0x04 argSlot 0xFFFF ++
  (if !mvm then []
   else
    need (l.valid && decide (l.afmt ≤ 3) && decide (l.rowfirst + l.rowcnt ≤ 512) &&
      decide (l.colfirst + l.colcnt ≤ (wfmtShape l.wfmt).2.2) && !(l.fn == 2 && decide (toSigned 8 l.chi < toSigned 8 l.clo)) &&
      refs.all (fun x => decide (7 < x.deck) || ((s.tileX d x.tile).deck x.deck).wfmt == l.wfmt)) 9 0x04 o.slot 0xFFFF ++
    need ((p.desc (h 0)).is af.1 (tr * l.rowcnt)) 9 0x04 o.slot (h 0) ++
    need ((p.desc (h 1)).is (if raw then 5 else 1) (l.outputs t)) 9 0x04 o.slot (h 1) ++
    need (!accen || (p.desc (h 2)).is 5 (l.outputs t)) 9 0x04 o.slot (h 2) ++
    need (raw || (decide (l.param + 8 * l.outputs t ≤ 0x800000) && (l.fn != 3 || decide (l.table + 256 ≤ 0x800000)))) 9 0x04 o.slot 0xFFFF ++
    need (!(p.timed && !l.wide && decide (2 ^ p.pinres - 1 < 3 * l.rowcnt) && decide (p.pinres < 9))) 9 0x04 o.slot 0xFFFF ++
    need (decide (tr * l.rowcnt * wMax l.wfmt * af.2.2.2 ≤ 2 ^ 30)) 10 0x05 o.slot 0xFFFF ++
    need (decide ((p.desc (h 0)).streamBytes ≤ 65536)) 11 0x06 o.slot (h 0) ++
    need (decide ((p.desc (h 1)).streamBytes ≤ 65536)) 11 0x06 o.slot (h 1) ++
    need (!(p.timed && (p.pinres == 0 || (l.wide && l.satact)))) 13 0x09 o.slot 0xFFFF ++
    need (refs.all (fun x => s.lselOf (d * 1024 + x.group * 64 + x.pos) == l.deck && decide (x.deck ≤ 7))) 14 0x0A o.slot 0xFFFF)

/-- Whether every byte of an operand lies in die `d`'s DAM, on the translated addresses; a page that refused the access is not
judged (R137, R180, R213). -/
def State.inDam (s : State) (d : Nat) (x : Desc) (m : PageMap) (start : Nat) : Bool :=
  (x.offsets 0 x.count).all (fun o => match s.tensorPhys x m .read start o with
    | some a => decide (damBase d ≤ a) && decide (a < damBase d + 0x800000)
    | none => true)

/-! ### Slots (R193 to R200, R214) -/

/-- The input elements of tile rank `t` (R192). -/
def Layer.inputOf (l : Layer) (xs : List Nat) (t : Nat) : List Nat := if l.rowsplit then (xs.drop (t * l.rowcnt)).take l.rowcnt else xs

/-- The deck rows active in plane `j` (R193). -/
def Layer.active (l : Layer) (xs : List Nat) (j : Nat) : List Nat :=
  xs.zipIdx.filterMap (fun x => if bit x.1 j then some (l.rowfirst + x.2) else none)

/-- A slot: kind 0 a whole plane in exact mode, 1 segment `seg` of it, 2 a wide-mode plane. -/
structure Slot where
  kind : Nat
  plane : Nat
  seg : Nat
deriving DecidableEq, Repr

def Slot.code (x : Slot) : Int := (x.kind * 64 + x.plane * 8 + x.seg : Nat)
def Slot.ofCode (x : Int) : Slot := ⟨x.toNat / 64, x.toNat / 8 % 8, x.toNat % 8⟩

/-- The exact-mode slots of plane `j` over the tiles' inputs (R197, R214). -/
def Layer.exactSlots (l : Layer) (timed : Bool) (pin : Nat) (inputs : List (List Nat)) (j : Nat) : List Slot :=
  let whole := if timed then decide (3 * l.rowcnt ≤ 2 ^ pin - 1) else inputs.all (fun xs => decide ((l.active xs j).length ≤ 170))
  if whole then [⟨0, j, 0⟩]
  else ((List.range 4).filter (fun k => decide (l.rowfirst / 128 ≤ k) && decide (k ≤ (l.rowfirst + l.rowcnt - 1) / 128))).map (fun k => ⟨1, j, k⟩)

/-- Every slot of an MVM as issued (R193, R197, R198). -/
def Layer.plan (l : Layer) (timed : Bool) (pin : Nat) (inputs : List (List Nat)) : List Slot :=
  (List.range (afmtShape l.afmt).2.1).flatMap (fun j => if l.wide then [⟨2, j, 0⟩] else l.exactSlots timed pin inputs j)

/-- The rows a tile drives in a slot. -/
def Layer.slotRows (l : Layer) (xs : List Nat) (x : Slot) : List Nat :=
  (l.active xs x.plane).filter (fun r => x.kind != 1 || r / 128 == x.seg)

/-- The smallest resolution from 4 to 9 that holds `f`, at most 9 (R195, R198). -/
def resolution (f : Nat) : Nat := ((List.range 6).map (· + 4)).find? (fun b => decide (f ≤ 2 ^ b - 1)) |>.getD 9

/-- Full scale F, resolution b and step s of a tile with `n` active rows in a slot (R195, R198, R214). -/
def Layer.scale (l : Layer) (timed : Bool) (pin n : Nat) (x : Slot) : Nat × Nat × Nat :=
  if x.kind = 2 then
    let top := if timed then 3 * l.rowcnt else 3 * n
    let f := if l.wclip = 0 ∨ top ≤ l.wclip then top else l.wclip
    let b := if timed then pin else resolution f
    (f, b, ceilDiv (f + 1) (2 ^ b))
  else (3 * n, if timed then pin else resolution (3 * n), 1)

/-! ### One exposure of one tile (R199, R202, R203) -/

/-- What an exposure of a tile gives. -/
structure Exposed where
  offs : Int
  gain : Nat
  cols : List Int                 -- S of the 520 data and checksum columns
  sat : Bool                      -- a data or checksum column saturated
  nsat : Nat                      -- saturated data columns of the layer's range
  diff : Int                      -- D of R203
  step : Nat
  res : Nat
deriving DecidableEq, Repr

/-- The sum of a column's levels over the active rows, spares in place (R185, R189). -/
def Tile.columnSum (t : Tile) (p : Nat) (rows : List Nat) (c : Nat) : Nat :=
  let x := t.deck p
  let c' := t.colOf p c
  (rows.map (fun r => x.level (t.rowOf p r) c')).sum

/-- The raw code of a column: the sum over the step, rounded to nearest, moved by what the converter adds, within b bits. How a
conversion rounds when s is above 1 the spec does not say: `dev` holds every other outcome (R198, R202). -/
def rawCode (sum s b : Nat) (dev : Int) : Int := clampInt 0 ((2 ^ b : Nat) - 1) (((2 * sum + s) / (2 * s) : Nat) + dev)

/-- An exposure of deck `p` of tile `t` with the given rows active (R202, R199, R203). `dev` gives each column's deviation. -/
def Tile.expose (t : Tile) (p : Nat) (l : Layer) (wide : Bool) (rows : List Nat) (f b st gfilt : Nat) (dev : Nat → Int) : Exposed :=
  let n := rows.length
  let x := t.deck p
  let sum (c : Nat) := t.columnSum p rows c
  let rho (c : Nat) : Int := rawCode (sum c) st b (dev c)
  let hi := rho 520 + rho 521 + rho 522 + rho 523
  let lo := rho 524 + rho 525 + rho 526 + rho 527
  let om := lo * 64
  let offs := toSigned 16 (ofSigned 16 (x.offs + (om - x.offs) / (2 ^ gfilt : Nat)))
  let gain : Nat :=
    if 3 * n ≤ f ∧ lo < hi then
      let den : Int := st * (hi - lo)
      let gm := min 65535 ((((12 * n) * 2 ^ 14 : Nat) + den / 2) / den)
      ofSigned 16 (x.gain + (gm - x.gain) / (2 ^ gfilt : Nat))
    else x.gain
  let w := (wfmtShape (x.wfmt)).1
  let inRange (c : Nat) : Bool := decide (w * l.colfirst ≤ c) && decide (c < w * (l.colfirst + l.colcnt))
  let conv := (List.range 520).map (fun c =>
    let code := clampInt 0 ((2 ^ b : Nat) - 1) (((rho c * 256 - offs) * gain + 2 ^ 21) / 2 ^ 22)
    let v := st * code
    let clip := wide && (decide (f < sum c) || decide ((f : Int) < v))
    (if clip then (f : Int) else v, clip))
  let cols := conv.map (·.1)
  let psum := ((List.range 512).map (fun c => 4 ^ (c % w) * cols.getD c 0)).sum
  let q := ((List.range 8).map (fun i => 4 ^ i * cols.getD (512 + i) 0)).sum
  { offs := offs, gain := gain, cols := cols, sat := conv.any (·.2),
    nsat := ((List.range 512).filter (fun c => inRange c && (conv.getD c (0, false)).2)).length,
    diff := psum - q, step := st, res := b }

/-! ### One slot on every tile of the mask (R194, R199, R204, R206, R214, R229) -/

/-- Tile accumulators, inputs and slots of an MVM in progress live in its `acc`: rank, or one of these keys. -/
def accInput : Nat := 100000
def accPlan : Nat := 100001

def OpRun.accOf (o : OpRun) (k : Nat) : List Int := (o.acc.find? (fun x => x.1 == k)).elim [] (·.2)
def OpRun.setAcc (o : OpRun) (k : Nat) (v : List Int) : OpRun := { o with acc := (k, v) :: o.acc.filter (fun x => x.1 != k) }

/-- The inputs of the tiles of an MVM, by rank. -/
def OpRun.inputs (o : OpRun) : List (List Nat) :=
  let xs := (o.accOf accInput).map Int.toNat
  (List.range o.tiles.length).map (fun t => o.layer.inputOf xs t)

/-- The slots an MVM has still to run. -/
def OpRun.slots (o : OpRun) : List Slot := (o.accOf accPlan).map Slot.ofCode

/-- Expose every tile of the mask that has active rows, once; `devs` gives (rank, column, deviation). The decks' OFFS, GAIN and
drift index follow, saturations and the slot are counted. -/
def State.exposeAll (s : State) (d : Nat) (p : Prog) (o : OpRun) (x : Slot) (devs : List (Nat × Nat × Int)) : List (Option Exposed) × State :=
  let l := o.layer
  let one := (o.tiles.zip o.inputs).zipIdx.map (fun e =>
    let ref := e.1.1
    let rows := l.slotRows e.1.2 x
    if rows = [] then none
    else
      let (f, b, st) := l.scale p.timed p.pinres rows.length x
      let dev (c : Nat) : Int := (devs.find? (fun v => v.1 == e.2 && v.2.1 == c)).elim 0 (·.2.2)
      some ((s.tileX d ref.tile).expose ref.deck l (x.kind == 2) rows f b st (s.fget F.CIM_CTL_GFILT d) dev))
  let s := (o.tiles.zip one).foldl (fun s e => match e.2 with
    | none => s
    | some r =>
      let t := s.tileX d e.1.tile
      let s := s.setTile d e.1.tile ({ t with select := e.1.deck }.setDeck e.1.deck { t.deck e.1.deck with offs := r.offs, gain := r.gain })
      (s.driftUpdate d e.1.tile e.1.deck).count R.CIM_SAT r.nsat d o.entry) s
  let b := if p.timed then p.pinres else one.foldl (fun m r => max m (r.elim 4 (·.res))) 4
  let s := s.countWrap R.CIM_EXPLO 1 d
  let s := if s.rget R.CIM_EXPLO d = 0 then s.countWrap R.CIM_EXPHI 1 d else s
  (one, s.count R.CIM_RES 1 d (b - 4))

/-- Whether a tile's exposure fails the checksum check; a saturated wide exposure is not compared (R203). -/
def State.csFails (s : State) (d : Nat) (x : Slot) (r : Exposed) : Bool :=
  if x.kind = 2 ∧ r.sat = true then false
  else
    let tol := if r.step = 1 then s.fget F.CIM_CSTOL_EXACT d else s.fget F.CIM_CSTOL_WIDE d * r.step
    decide (tol < r.diff.natAbs)

/-- The report of a checksum mismatch (R204, R214, Table 14-7). -/
def State.csCard (s : State) (n : Nat) (p : Prog) (o : OpRun) (x : Slot) (ref : TileRef) (diff : Int) (verdict : Nat) : State :=
  s.card { block := 8, event := 1, verdict := verdict, ctx := p.start.ctx, ukind := 1, ua := n * 16 + ref.group,
           ub := ref.tile % 72 * 8 + ref.deck, engine := n, slot := o.slot, handle := p.handle o 0, pc := p.pc, prog := p.start.prog,
           die := n + 1, detail := leBytes 8 (ofSigned 64 diff) ++ [BitVec.ofNat 8 x.plane, BitVec.ofNat 8 x.seg, BitVec.ofNat 8 o.entry] }

/-- Repeat a slot for the tiles that failed, at most `fuel` times; the values the slot ends with, and the ranks that still fail
(R204). -/
def State.repeatSlot (s : State) (n : Nat) (p : Prog) (o : OpRun) (x : Slot) :
    Nat → List (List (Nat × Nat × Int)) → List (Option Exposed) → List Nat → List (Option Exposed) × List Nat × State
  | 0, _, vals, failing => (vals, failing, s)
  | fuel + 1, devs, vals, failing =>
    if failing = [] then (vals, [], s)
    else
      let (rep, s) := s.exposeAll n p o x (devs.headD [])
      let bad (r : Nat) : Bool := (rep.getD r none).elim false (s.csFails n x)
      let cured := failing.filter (fun r => !bad r)
      let s := cured.foldl (fun s r =>
        let s := (s.count R.CIM_CSFIX 1 n).fcount F.CIM_GCSERR_TRANSIENT 1 n ((o.tiles.getD r ⟨0, 0, 0, 0⟩).group)
        s.csCard n p o x (o.tiles.getD r ⟨0, 0, 0, 0⟩) ((vals.getD r none).elim 0 (·.diff)) 1) s
      let vals := vals.zipIdx.map (fun v => if cured.contains v.2 then rep.getD v.2 none else v.1)
      s.repeatSlot n p o x fuel devs.tail vals (failing.filter bad)

/-- Add a slot's columns to a tile's accumulators (R201). -/
def Layer.accumulate (l : Layer) (j : Nat) (acc : List Int) (cols : List Int) : List Int :=
  let w := (wfmtShape l.wfmt).1
  acc.zipIdx.map (fun a =>
    a.1 + planeWeight l.afmt j * ((List.range w).map (fun i => 4 ^ i * cols.getD (w * (l.colfirst + a.2) + i) 0)).sum)

/-- A tile in the darkroom leaves it for the slot (R209, R231). -/
def State.leaveDark (s : State) (d : Nat) (tiles : List TileRef) : State :=
  s.setCmds d ((s.cmds d).map (fun c =>
    if c.running && (c.op == 3 || c.op == 4) && tiles.any (fun x => x.tile == c.tile) then { c with out := true } else c))

/-- EXPOSURE_SLOT: the next slot of the MVM of stream `n` in slot position OP, or OP2 where `second`. `devs` gives for each attempt
the converters' deviations: tile rank, column, codes. -/
def execExposureSlot (n : Fin 22) (second : Bool) (devs : List (List (Nat × Nat × Int))) (s : State) : Out State :=
  .next (s.withOp n.val (fun o => o.started && o.opc == 0x10 && (o.slot == 4) == second && !(o.slots.isEmpty)) (fun p o =>
    let n := n.val
    match o.slots with
    | [] => s
    | x :: rest =>
      let l := o.layer
      let moved (s : State) (o : OpRun) (slots : List Slot) : State :=
        s.setOp n p ({ o with step := o.step + 1, nsteps := o.step + 2 + slots.length }.setAcc accPlan (slots.map Slot.code))
      if !p.timed && o.inputs.all (fun xs => (l.slotRows xs x).isEmpty) then
        if s.flag F.CIM_CTL_NOSKIP n then
          let s := s.countWrap R.CIM_EXPLO 1 n
          let s := if s.rget R.CIM_EXPLO n = 0 then s.countWrap R.CIM_EXPHI 1 n else s
          moved (s.count R.CIM_RES 1 n 0) o rest
        else moved (s.count R.CIM_SKIP 1 n) o rest
      else
        let s := s.leaveDark n o.tiles
        let (first, s) := s.exposeAll n p o x (devs.headD [])
        let s := s.count R.CIM_CSSKIP (first.filter (fun r => r.elim false (fun e => x.kind == 2 && e.sat))).length n
        let failing := (List.range first.length).filter (fun r => (first.getD r none).elim false (s.csFails n x))
        let retry := if p.timed then 0 else s.fget F.CIM_CTL_CSRETRY n
        let (vals, failing, s) := s.repeatSlot n p o x retry devs.tail first failing
        if failing ≠ [] then
          let s := failing.foldl (fun s r =>
            let ref := o.tiles.getD r ⟨0, 0, 0, 0⟩
            let s := (s.count R.CIM_CSFAIL 1 n).fcount F.CIM_GCSERR_PERSIST 1 n ref.group
            s.csCard n p o x ref ((vals.getD r none).elim 0 (·.diff)) (if p.timed then 3 else 2)) s
          let s := s.halt n 0x0B o.slot (p.handle o 0) 0
          if p.timed then s.breakGroup n else s
        else if x.kind = 2 ∧ l.satact = true ∧ vals.any (fun r => r.elim false (fun e => decide (0 < e.nsat))) = true then
          moved s o (l.exactSlots p.timed p.pinres o.inputs x.plane ++ rest)
        else
          let o := (List.range o.tiles.length).foldl (fun (o : OpRun) r => match vals.getD r none with
            | none => o
            | some e => o.setAcc r (l.accumulate x.plane (o.accOf r) e.cols)) o
          moved s o rest))

/-! ### Beginning and committing (R191, R201, R210 to R212, R237) -/

/-- MVM: an issued MVM of stream `n` begins: its input is staged and its slots follow (R191 to R193, R201). -/
def execMvm (n : Fin 22) (s : State) : Out State :=
  .next (s.beginOp n.val 0x10 (fun p o =>
    let n := n.val
    let h := p.handle o 0
    let x := p.desc h
    match s.touch n p.start.ctx (x.touches h .read (x.offsets 0 x.count)) [] with
    | (.fault t f, s) => s.suspendOp n p o 1 t f 0
    | (.ok m, s) =>
      let m := s.noRemote m
      let s := s.violatePages n p.start.ctx m
      let start := s.crTail x.crnum
      match s.readCheck n p x.notag (s.readAddrs x m start 0 x.count) o.slot h x.base with
      | (false, s) => s
      | (true, s) =>
        let xs := s.elems s.physByte x m start 0 x.count
        let l := o.layer
        let o := o.setAcc accInput (xs.map Int.ofNat)
        let plan := l.plan p.timed p.pinres o.inputs
        let o := (List.range o.tiles.length).foldl (fun (o : OpRun) r => o.setAcc r (List.replicate l.colcnt 0)) o
        s.setOp n p ({ o with started := true, step := 0, nsteps := plan.length + 1 }.setAcc accPlan (plan.map Slot.code))))

/-- The sums y of a tile: the accumulators less OFS times the sum of its inputs (R201). -/
def OpRun.tileSums (o : OpRun) (r : Nat) : List Int :=
  let l := o.layer
  let af := afmtShape l.afmt
  let sx := ((o.inputs.getD r []).map (fun v => if af.2.2.1 then toSigned (typeBits af.1) v else (v : Int))).sum
  (o.accOf r).map (fun a => toSigned 32 (ofSigned 32 (a - (wfmtShape l.wfmt).2.1 * sx)))

/-- The sums of an MVM in output order (R192). -/
def OpRun.outSums (o : OpRun) : List Int :=
  let ys := (List.range o.tiles.length).map o.tileSums
  if o.layer.rowsplit then (List.range o.layer.colcnt).map (fun k => (ys.map (fun y => y.getD k 0)).sum) else ys.flatten

/-- The output stage for one output (R210): `entry` is its parameter entry, `table` the function table. -/
def outputStage (l : Layer) (raw : Bool) (t : Int) (entry table : List Byte) : Nat :=
  if raw then ofSigned 32 (satSigned 32 t)
  else
    let t := t + toSigned 32 (leAt entry 0 4)
    let m := t * toSigned 16 (leAt entry 4 2)
    let sh := min 31 (leAt entry 6 1)
    let r := if sh = 0 then m else (m + 2 ^ (sh - 1)) / 2 ^ sh
    let q := clampInt (-128) 127 r
    let q := match l.fn with
      | 1 => max q 0
      | 2 => clampInt (toSigned 8 l.clo) (toSigned 8 l.chi) q
      | 3 => toSigned 8 (leAt table (q + 128).toNat 1)
      | _ => q
    ofSigned 8 q

/-- The statistics unit takes one MVM of its layer entry (R237). With ROWSPLIT it takes the elements of rank 0. -/
def State.statStep (s : State) (d : Nat) (o : OpRun) : State :=
  if !s.flag F.CIMP_STATCFG_ARM d || s.fget F.CIMP_STATCFG_LAYER d != o.entry then s
  else
    let l := o.layer
    let af := afmtShape l.afmt
    let xs := (o.inputs.getD 0 []).map (fun v => if af.2.2.1 then toSigned (typeBits af.1) v else (v : Int))
    let rows := s.rget R.CIMP_STATROWS d
    let r := bits rows 0 9
    let ofs := [bits rows 9 6, bits rows 15 6, bits rows 21 6, bits rows 27 5]
    let bad := decide (l.rowcnt ≤ r) || ofs.any (fun k => decide (l.rowcnt ≤ r + k))
    let x := xs.getD r 0
    let cs := ofs.map (fun k => if k = 0 then 0 else xs.getD (r + k) 0)
    let add := if bad then List.replicate 14 0 else (x :: cs) ++ (x :: cs).map (fun v => v * v) ++ cs.map (fun v => x * v)
    let old := (s.cim.stats.find? (fun e => e.1 == d)).elim (⟨0, List.replicate 14 0⟩ : StatAcc) (·.2)
    let acc : StatAcc := ⟨old.n + 1, (List.range 14).map (fun k => if bad then 0 else old.sums.getD k 0 + add.getD k 0)⟩
    let keep (s : State) (l : List (Nat × StatAcc)) : State := { s with cim := { s.cim with stats := l ++ s.cim.stats.filter (fun e => e.1 != d) } }
    if acc.n < s.fget F.CIMP_STATCFG_COUNT d then keep s [(d, acc)]
    else
      let dst := s.rget R.CIMP_STATDST d * 256
      let rec' := leBytes 4 acc.n ++ List.replicate 12 0 ++ acc.sums.flatMap (fun v => leBytes 8 (ofSigned 64 v))
      let s := if (s.loc dst).holdsTables then s.store dst rec' else s
      (keep s []).setFlag F.CIMP_STATCFG_ARM false d

/-- MVM_COMMIT: the commit step of an MVM whose slots are done: outputs through the output stage into their destination (R210 to
R212). -/
def execMvmCommit (n : Fin 22) (second : Bool) (s : State) : Out State :=
  .next (s.withOp n.val (fun o => o.started && o.opc == 0x10 && (o.slot == 4) == second && o.slots.isEmpty) (fun p o =>
    let n := n.val
    let l := o.layer
    let raw := bit o.mod 0
    let accen := bit o.mod 1
    let hd := p.handle o 1
    let d := p.desc hd
    let hp := p.handle o 2
    let ps := p.desc hp
    let touches := d.touches hd .write (d.offsets 0 d.count) ++ (if accen then ps.touches hp .read (ps.offsets 0 ps.count) else [])
    match s.touch n p.start.ctx touches [] with
    | (.fault t f, s) => s.suspendOp n p o 1 t f 0
    | (.ok m, s) =>
      let m := s.noRemote m
      let s := s.violatePages n p.start.ctx m
      let outs := l.outputs o.tiles.length
      let params := damBase n + l.param
      let table := damBase n + l.table
      let extra := if raw then [] else (List.range (8 * outs)).map (· + params) ++ (if l.fn = 3 then (List.range 256).map (· + table) else [])
      let psAddrs := if accen then s.readAddrs ps m (s.crTail ps.crnum) 0 ps.count else []
      match s.readCheck n p false extra o.slot 0xFFFF 0 with
      | (false, s) => s
      | (true, s) =>
        match s.readCheck n p ps.notag psAddrs o.slot hp ps.base with
        | (false, s) => s
        | (true, s) =>
          let psum := if accen then (s.elems s.physByte ps m (s.crTail ps.crnum) 0 ps.count).map (toSigned 32) else []
          let vals := o.outSums.zipIdx.map (fun y =>
            (y.2, outputStage l raw (y.1 + psum.getD y.2 0) (s.load (params + 8 * y.2) 8) (s.load table 256)))
          let s := s.writeElems d m (s.crHead d.crnum) vals
          let s := s.statStep n o
          s.finishOp n p { o with step := o.step + 1, acc := [] }))

/-! ### DECK (R206, R214) -/

/-- DECK: an issued DECK of stream `n` selects its logical deck on every tile of its mask, which leaves the darkroom for it. -/
def execDeck (n : Fin 22) (s : State) : Out State :=
  .next (s.beginOp n.val 0x12 (fun p o =>
    let n := n.val
    let l := bits o.mod 0 3
    let arg := o.arg.getD 0
    let s := s.leaveDark n (s.tileRefs n arg l)
    let s := (maskTiles arg).foldl (fun s x => s.selectDeck n x.1 x.2 l) s
    s.finishOp n p { o with started := true, step := 1 }))

/-! ### CIM_CTL (R199, Table 06-12) -/

/-- What a write of `v` to CIM_CTL of die `d` does. -/
def State.writeCimCtl (s : State) (d : Nat) (v : Word) : State :=
  let s := (s.fset F.CIM_CTL_GFILT (getField v 8 3) d).fset F.CIM_CTL_CSRETRY (getField v 4 2) d
  let s := s.setFlag F.CIM_CTL_NOSKIP (bit v.toNat 0) d
  if bit v.toNat 12 then
    { s with regs := Sparse.clear (fun a => decide (R.CIM_SAT.at d ≤ a) && decide (a < R.CIM_SAT.at d + 1024)) s.regs }
  else s

/-- SAT_COUNTER_CLEAR: a write of CIM_CTL with SATCLR = 1 (R199). -/
def execSatCounterClear (r : Req) (d : Fin 4) (v : Word) (s : State) : Out State :=
  .next (s.asHome r (R.CIM_CTL.at d.val) (fun s => s.writeCimCtl d.val (setField v 12 1 1)))

end Sys2Proof.Machine
end

