-- ==== Sys2Proof/Machine/Compress.lean ====
section
/-! DEFINITION. Zero compression (R116) and the lossless block format (R118 to R123): what a decoder accepts and gives, and
what the device's encoder emits. -/

namespace Sys2Proof.Machine

/-! ### Zero compression (R116, R117) -/

/-- The elements of `e` bytes of a block. -/
def zcElems (e : Nat) (b : List Byte) : List (List Byte) := chunksOf e (256 / e) b

/-- The bitmap bytes of a block: bit i is 1 when element i is not zero. -/
def zcBitmap (e : Nat) (b : List Byte) : List Byte :=
  let v := ((zcElems e b).map (fun x => b2n (x.any (fun y => y != 0)))).reverse.foldl (fun a x => 2 * a + x) 0
  leBytes (256 / e / 8) v

/-- The zero-compressed form of a 256-byte block; none where it would not be shorter, and the block travels raw. -/
def zcEncode (e : Nat) (b : List Byte) : Option (List Byte) :=
  let body := zcBitmap e b ++ ((zcElems e b).filter (fun x => x.any (fun y => y != 0))).flatten
  let body := padTo (roundUp body.length 16) body
  if body.length < 256 then some body else none

/-- Lay the non-zero elements out again under the bitmap. -/
def zcExpand (e : Nat) : List Bool → List Byte → List Byte
  | [], _ => []
  | false :: t, d => List.replicate e 0 ++ zcExpand e t d
  | true :: t, d => padTo e (d.take e) ++ zcExpand e t (d.drop e)

/-- The block a zero-compressed form stands for. -/
def zcDecode (e : Nat) (c : List Byte) : List Byte :=
  let n := 256 / e
  let bm := leAt c 0 (n / 8)
  zcExpand e ((List.range n).map (fun i => bit bm i)) (c.drop (n / 8))

/-! ### Canonical codes (R119, R120) -/

/-- The 256 code lengths in bytes 0 to 127 of a coded block. -/
def codeLens (b : List Byte) : List Nat :=
  (List.range 256).map (fun v => bits (b.getD (v / 2) 0).toNat (4 * (v % 2)) 4)

/-- Whether code lengths obey R120: at most 12, at least two symbols, Kraft sum exactly 1. -/
def lensOk (l : List Nat) : Bool :=
  l.all (fun x => x ≤ 12) && decide (2 ≤ (l.filter (fun x => x != 0)).length) &&
  (l.map (fun x => if x = 0 then 0 else 2 ^ (12 - x))).sum == 4096

/-- The symbols that occur, by code length and then by value. -/
def symbolOrder (l : List Nat) : List (Nat × Nat) :=
  (List.range 13).flatMap (fun n => if n = 0 then [] else
    ((List.range 256).filter (fun v => l.getD v 0 == n)).map (fun v => (v, n)))

/-- The codes: symbol, length, code, in canonical order. -/
def canonCodes : List (Nat × Nat) → Nat → Nat → List (Nat × Nat × Nat)
  | [], _, _ => []
  | (v, n) :: t, prev, code =>
    let c := if prev = 0 then 0 else (code + 1) <<< (n - prev)
    (v, n, c) :: canonCodes t n c

def codesOf (l : List Nat) : List (Nat × Nat × Nat) := canonCodes (symbolOrder l) 0 0

/-- The bits of a byte list, bit 0 of each byte first. -/
def bitsOf (b : List Byte) : List Bool := b.flatMap (fun x => (List.range 8).map (fun i => bit x.toNat i))

/-- Read one code, most significant bit first: the symbol and the bits left. `fuel` 12. -/
def readCode (codes : List (Nat × Nat × Nat)) : Nat → Nat → Nat → List Bool → Option (Nat × List Bool)
  | 0, _, _, _ => none
  | _ + 1, _, _, [] => none
  | fuel + 1, len, acc, x :: t =>
    let acc := 2 * acc + b2n x
    match codes.find? (fun c => c.2.1 == len + 1 && c.2.2 == acc) with
    | some c => some (c.1, t)
    | none => readCode codes fuel (len + 1) acc t

/-- Decode exactly `n` symbols; at most 7 bits may be left over. -/
def decodeSub (codes : List (Nat × Nat × Nat)) : Nat → List Bool → Option (List Byte)
  | 0, rest => if rest.length ≤ 7 then some [] else none
  | n + 1, b =>
    match readCode codes 12 0 0 b with
    | none => none
    | some (v, rest) => (decodeSub codes n rest).map (fun t => BitVec.ofNat 8 v :: t)

/-- Decode the sub-streams in turn: lengths, bytes left to produce, the bytes that follow. -/
def decodeSubs (codes : List (Nat × Nat × Nat)) : List Nat → Nat → List Byte → Option (List Byte)
  | [], left, _ => if left = 0 then some [] else none
  | n :: t, left, b =>
    let k := min 256 left
    if left = 0 then (if n = 0 then decodeSubs codes t 0 b else none)
    else
      match decodeSub codes k (bitsOf (b.take n)), decodeSubs codes t (left - k) (b.drop n) with
      | some x, some y => some (x ++ y)
      | _, _ => none

/-! ### Blocks and streams (R118 to R121) -/

/-- An index entry (Table 03-5). -/
structure BlockEntry where
  offset : Nat
  stored : Nat
  blen : Nat
  mode : Nat
  value : Nat
  bcrc : Nat
deriving DecidableEq, Repr

def parseEntry (b : List Byte) : BlockEntry :=
  ⟨leAt b 0 4, leAt b 4 2, leAt b 6 2, leAt b 8 1, leAt b 9 1, leAt b 12 4⟩

/-- The uncompressed bytes of a block from its stored bytes; none where the block fails its check (R121). -/
def decodeBlock (e : BlockEntry) (b : List Byte) : Option (List Byte) :=
  let out : Option (List Byte) :=
    match e.mode with
    | 0 => if e.stored = e.blen then some (b.take e.blen) else none
    | 1 =>
      let lens := codeLens b
      let subs := (List.range 16).map (fun k => leAt b (128 + 2 * k) 2)
      if e.stored < e.blen ∧ 160 ≤ e.stored ∧ lensOk lens ∧ subs.sum = e.stored - 160 then
        decodeSubs (codesOf lens) subs e.blen (b.drop 160)
      else none
    | 2 => if e.stored = 0 then some (List.replicate e.blen (BitVec.ofNat 8 e.value)) else none
    | _ => none
  match out with
  | none => none
  | some x => if x.length = e.blen ∧ crc32c x = e.bcrc then some x else none

/-- A stream's uncompressed length and its block count, where the header and the index table are sound (R118, R121). `rd`
reads a byte of the stream. -/
def streamHeader (rd : Nat → Byte) : Option (Nat × Nat) :=
  let h := (List.range 32).map rd
  let ulen := leAt h 0 8
  let n := leAt h 8 4
  if 1 ≤ ulen ∧ n = ceilDiv ulen 4096 ∧ crc32c ((List.range (16 * n)).map (fun i => rd (32 + i))) = leAt h 16 4
  then some (ulen, n) else none

/-- Block `i` of a stream of `ulen` bytes, expanded (R118, R121). -/
def streamBlock (rd : Nat → Byte) (ulen i : Nat) : Option (List Byte) :=
  let e := parseEntry ((List.range 16).map (fun k => rd (32 + 16 * i + k)))
  if e.blen = min 4096 (ulen - 4096 * i) then decodeBlock e ((List.range e.stored).map (fun k => rd (e.offset + k))) else none

/-- The whole stream expanded; none where a block or the index fails. -/
def expandStream (rd : Nat → Byte) : Option (List Byte) :=
  match streamHeader rd with
  | none => none
  | some (ulen, n) =>
    ((List.range n).map (fun i => streamBlock rd ulen i)).foldr
      (fun x acc => match x, acc with | some a, some b => some (a ++ b) | _, _ => none) (some [])

/-! ### The device's encoder (R122) -/

/-- The bits of a symbol's code, most significant first. -/
def codeBits (codes : List (Nat × Nat × Nat)) (v : Nat) : List Bool :=
  match codes.find? (fun c => c.1 == v) with
  | some (_, n, c) => ((List.range n).map (fun i => bit c i)).reverse
  | none => []

/-- Bits packed into bytes from bit 0 upward, the last byte padded with zero bits. -/
def packBits (l : List Bool) : List Byte :=
  (chunksOf 8 (l.length / 8 + 1) l).map (fun c => BitVec.ofNat 8 (c.reverse.foldl (fun a x => 2 * a + b2n x) 0))

/-- A MODE 1 coding of a block under given code lengths. -/
def encodeCoded (lens : List Nat) (b : List Byte) : List Byte :=
  let codes := codesOf lens
  let subs := (List.range 16).map (fun k => packBits (((b.drop (256 * k)).take 256).flatMap (fun x => codeBits codes x.toNat)))
  (List.range 128).map (fun i => BitVec.ofNat 8 (lens.getD (2 * i) 0 + 16 * lens.getD (2 * i + 1) 0)) ++
  subs.flatMap (fun x => leBytes 2 x.length) ++ subs.flatten

/-- Whether code lengths fit a block: valid, and giving a code to exactly the byte values that occur. -/
def lensFit (lens : List Nat) (b : List Byte) : Bool :=
  lens.length == 256 && lensOk lens && (List.range 256).all (fun v => (lens.getD v 0 != 0) == b.contains (BitVec.ofNat 8 v))

/-- How the encoder stores a block: mode, value, stored bytes. One distinct value is MODE 2; a coding that is not shorter is
MODE 0. The code lengths are free (Config.codeLengths); lengths that do not fit the block leave it raw. -/
def encodeBlock (b : List Byte) : Nat × Byte × List Byte :=
  match b with
  | [] => (0, 0, [])
  | x :: t =>
    if t.all (fun y => y == x) then (2, x, [])
    else
      let lens := Config.codeLengths b
      let c := encodeCoded lens b
      if lensFit lens b && decide (c.length < b.length) then (1, 0, c) else (0, 0, b)

/-- Lay out blocks from an offset: index entries and bytes (R118). -/
def layBlocks : Nat → List (List Byte) → List (List Byte) × List Byte
  | _, [] => ([], [])
  | off, b :: t =>
    let r := encodeBlock b
    let pad := roundUp r.2.2.length 8 - r.2.2.length
    let rest := layBlocks (off + r.2.2.length + (if t = [] then 0 else pad)) t
    let entry := leBytes 4 off ++ leBytes 2 r.2.2.length ++ leBytes 2 b.length ++
      [BitVec.ofNat 8 r.1, r.2.1, 0, 0] ++ leBytes 4 (crc32c b)
    (entry :: rest.1, r.2.2 ++ (if t = [] then [] else List.replicate pad 0) ++ rest.2)

/-- The compressed stream of a byte list (R118). -/
def compressStream (b : List Byte) : List Byte :=
  let n := ceilDiv b.length 4096
  let r := layBlocks (32 + 16 * n) (chunksOf 4096 n b)
  let index := r.1.flatten
  leBytes 8 b.length ++ leBytes 4 n ++ leBytes 4 0 ++ leBytes 4 (crc32c index) ++ List.replicate 12 0 ++ index ++ r.2

end Sys2Proof.Machine
end

