-- ==== Sys2Proof/Machine/Cimp.lean ====
section
/-! DEFINITION. Writing the weight tiles (spec/07): the command ring of each programming unit, erase, program-verify, top-up and
calibration in the darkroom, spares and defects, retirement, the deck-map switch, drift and the statistics unit's arming. -/

namespace Sys2Proof.Machine

/-! ### The command ring (R218 to R220, Tables 07-4 and 07-5) -/

/-- The physical address of ring entry `i` of die `d`. -/
def State.cimpSlot (s : State) (d i : Nat) : Nat := s.fget F.CIMP_RINGBASE_PPN d * 4096 + 32 * i

/-- Whether a field of an entry that its command leaves reserved is not 0, or a MAPSET byte names no deck (STATUS 0x1A). -/
def cmdReserved (b : List Byte) : Bool :=
  let op := leAt b 0 1
  let arg := leAt b 5 1
  decide (7 < leAt b 4 1) ||
  (match op with | 2 => decide (15 < arg) | 6 => decide (1 < arg) | _ => arg != 0) ||
  (op != 2 && op != 5 && leAt b 8 8 != 0) || (op == 2 && decide (2 ^ 40 ≤ leAt b 8 8)) ||
  (leAt b 16 2 != 0 && !(op == 2 && bit arg 2)) || (op != 2 && leAt b 18 6 != 0) ||
  (op == 5 && (List.range 8).any (fun k => decide (7 < leAt b (8 + k) 1) && leAt b (8 + k) 1 != 0xFF))

/-- Read the entries from TAIL up to HEAD (R218); `fuel` bounds them. -/
def State.cimpFetch (s : State) (d : Nat) : Nat → State
  | 0 => s
  | fuel + 1 =>
    let size := s.fget F.CIMP_RINGCFG_SIZEM1 d + 1
    let i := s.fget F.CIMP_TAIL_INDEX d
    if !s.flag F.CIMP_RINGCFG_EN d || i == s.fget F.CIMP_HEAD_INDEX d % size then s
    else
      let b := s.load (s.cimpSlot d i) 32
      let c : TileCmd :=
        { idx := some i, op := leAt b 0 1, tile := leAt b 2 2, deck := leAt b 4 1 % 8, arg := leAt b 5 1, src := leAt b 8 8,
          block := leAt b 16 2, tagpfx := leAt b 18 6, rsvd := cmdReserved b, running := false, step := 0, count := 0, out := false,
          susp := false, sums := [], trim := [] }
      ((s.setCmds d (s.cmds d ++ [c])).fset F.CIMP_TAIL_INDEX ((i + 1) % size) d).cimpFetch d fuel

/-- Finish a command: STATUS, RESULT and DONE in its entry, the completion interrupt, and a report card from STATUS 0x03 up
(R218, R219). -/
def State.cimpFinish (s : State) (d : Nat) (c : TileCmd) (st res : Nat) : State :=
  let s := match c.idx with
    | none => s
    | some i =>
      let a := s.cimpSlot d i
      let s := ((s.store (a + 1) [BitVec.ofNat 8 st]).store (a + 6) (leBytes 2 res)).store (a + 24) (leBytes 8 s.now)
      { s with irqCimp := s.irqCimp ||| 2 ^ d }
  let s := s.setCmds d ((s.cmds d).filter (fun x => x != c))
  if 3 ≤ st then s.cimpCard d c.tile c.deck st res (s.fget F.CIMP_RINGCFG_CTX d) else s

/-- Replace a command. -/
def State.setCmd (s : State) (d : Nat) (c c' : TileCmd) : State := s.setCmds d ((s.cmds d).map (fun x => if x = c then c' else x))

/-- The command that runs on a tile. -/
def State.runningOn (s : State) (d t : Nat) : Option TileCmd := (s.cmds d).find? (fun c => c.running && c.tile == t)

/-- Change one deck of a tile. -/
def State.onDeck (s : State) (d t p : Nat) (f : DeckRec → DeckRec) : State := s.setDeck d t p (f ((s.tileX d t).deck p))

/-- Whether a timed program runs on the die's sequencer (R209). -/
def State.timedOn (s : State) (d : Nat) : Bool := match (s.stream d).run with | some p => p.timed | none => false

/-- What refuses a command when it starts (Table 07-5, R220, R239); 0 where nothing does. -/
def State.cmdRefusal (s : State) (d : Nat) (c : TileCmd) : Nat :=
  let x := s.tileX d c.tile
  let k := x.deck c.deck
  if c.op = 0 ∨ 6 < c.op ∨ c.rsvd = true then 0x1A
  else if !s.tilePresent c.tile || x.role == 3 then 0x17
  else match c.op with
    | 1 => if x.select = c.deck ∨ x.lmap.contains c.deck ∨ x.pmap.contains c.deck then 0x10 else if 3000 ≤ k.erases then 0x12 else 0
    | 2 => if k.state = 0 then 0 else 0x11
    | 3 => if k.state = 5 then 0 else 0x11
    | 4 => if k.state = 4 ∨ k.state = 5 then 0 else 0x11
    | 5 => if (List.range 8).all (fun i => let v := c.src / 256 ^ i % 256; v == 0xFF || (x.deck v).state == 5) then 0 else 0x11
    | _ => if x.role = 0 then 0 else 0x11

/-- Tiles of die `d` in the darkroom (R231). -/
def State.darkTiles (s : State) (d : Nat) : List TileCmd := (s.cmds d).filter (fun c => c.running && (c.op == 3 || c.op == 4) && !c.out)

/-- Start the oldest waiting command of tile `t`, where it is an `op`: at most MAXPROG run, one to a tile; TOPUP and CALIBRATE need
a place in the darkroom. `f` says what the start of an accepted command does. -/
def State.cimpStart (s : State) (d op t : Nat) (f : State → TileCmd → State) : State :=
  let s := s.cimpFetch d 256
  if s.startsBarred || (s.runningOn d t).isSome then s
  else
    match (s.cmds d).find? (fun c => c.tile == t) with
    | none => s
    | some c =>
      if c.op ≠ op ∧ 1 ≤ c.op ∧ c.op ≤ 6 then s
      else if min 64 (s.fget F.CIMP_CTL_MAXPROG d) ≤ ((s.cmds d).filter (·.running)).length then s
      else if (op = 3 ∨ op = 4) ∧ s.fget F.CIMP_DARK_MAX d ≤ (s.darkTiles d).length then s
      else
        let st := s.cmdRefusal d c
        if st ≠ 0 then s.cimpFinish d c st 0
        else
          let s := match c.idx with | some i => s.store (s.cimpSlot d i + 1) [1] | none => s
          let c' := { c with running := true }
          f (s.setCmd d c c') c'

/-! ### Stuck cells and spares (R235, R236) -/

/-- Record a stuck cell once; a full record takes no more. The Bool says whether it is new. -/
def Tile.recordStuck (t : Tile) (p r c held target : Nat) : Tile × Bool :=
  if t.defects.any (fun e => e.kind == 3 && e.deck == p && e.row == r && e.col == c) ∨ 504 ≤ t.defects.length then (t, false)
  else ({ t with defects := t.defects ++ [⟨3, p, c, r, 0, held, target⟩] }, true)

/-- Record several stuck cells of a deck: row, column, level held, target; how many were new. -/
def Tile.recordAll (t : Tile) (p : Nat) (l : List (Nat × Nat × Nat × Nat)) : Tile × Nat :=
  l.foldl (fun (a : Tile × Nat) (e : Nat × Nat × Nat × Nat) =>
    let x := a.1.recordStuck p e.1 e.2.1 e.2.2.1 e.2.2.2
    (x.1, a.2 + b2n x.2)) (t, 0)

def Tile.stuckCells (t : Tile) (p : Nat) : List Defect := t.defects.filter (fun e => e.kind == 3 && e.deck == p)

/-- A spare row or column that holds a recorded stuck cell is unusable (R236). -/
def Tile.badSpare (t : Tile) (p kind i : Nat) : Bool :=
  (t.stuckCells p).any (fun e => if kind = 2 then e.row == 512 + i else e.col == 528 + i)

def Tile.spareUsed (t : Tile) (p kind i : Nat) : Bool := t.defects.any (fun e => e.kind == kind && e.deck == p && e.spare == i)

/-- SPROW (kind 2) and SPCOL (kind 1) of a deck: spares assigned or unusable (R236). -/
def Tile.sparesGone (t : Tile) (p kind : Nat) : Nat := ((List.range 16).filter (fun i => t.spareUsed p kind i || t.badSpare p kind i)).length

/-- The lowest spare that can be assigned. -/
def Tile.freeSpareOf (t : Tile) (p kind : Nat) : Option Nat := (List.range 16).find? (fun i => !t.spareUsed p kind i && !t.badSpare p kind i)

/-- Whether a stuck cell is still in use: neither its row nor its column is replaced. -/
def Tile.inUse (t : Tile) (e : Defect) : Bool :=
  decide (e.row < 512) && decide (e.col < 528) && t.rowOf e.deck e.row == e.row && t.colOf e.deck e.col == e.col

/-- Assign a spare, where one is free and the record has room. -/
def Tile.assignSpare (t : Tile) (p kind row col : Nat) : Tile × Nat :=
  match t.freeSpareOf p kind with
  | none => (t, 0)
  | some i => if 504 ≤ t.defects.length then (t, 0) else ({ t with defects := t.defects ++ [⟨kind, p, col, row, i, 0, 0⟩] }, 1)

/-- The repairs of AUTOREPAIR (R236): the tile, the spares assigned, and whether a gray-card or checksum column stays stuck. -/
def Tile.autoRepair (t : Tile) (p rowth : Nat) : Tile × Nat × Bool :=
  let t := { t with defects := t.defects.filter (fun e => !((e.kind == 1 || e.kind == 2) && e.deck == p && t.badSpare p e.kind e.spare)) }
  let x := (List.range 512).foldl (fun (a : Tile × Nat) r =>
    let here := ((a.1.stuckCells p).filter (fun e => e.row == r && a.1.inUse e)).length
    if (if rowth = 0 then 1 else rowth) ≤ here then let y := a.1.assignSpare p 2 r 0; (y.1, a.2 + y.2) else a) (t, 0)
  let x := (x.1.stuckCells p).foldl (fun (a : Tile × Nat) e =>
    if a.1.inUse e then let y := a.1.assignSpare p 1 0 e.col; (y.1, a.2 + y.2) else a) x
  (x.1, x.2, (x.1.stuckCells p).any (fun e => x.1.inUse e && decide (512 ≤ e.col)))

/-! ### Erase (R221, R239) -/

/-- TILE_ERASE: an ERASE of tile `t` starts: the count first, then ERASING. -/
def execTileErase (d : Fin 4) (t : Half) (s : State) : Out State :=
  .next (s.cimpStart d.val 1 t.toNat (fun s c =>
    let s := s.onDeck d.val c.tile c.deck (fun k => { k with erases := k.erases + 1, state := 1 })
    let n := ((s.tileX d.val c.tile).deck c.deck).erases
    if n = s.fget F.CIMP_WEAR_WARN d.val then s.cimpCard d.val c.tile c.deck 0x81 n (s.fget F.CIMP_RINGCFG_CTX d.val) else s))

/-- TILE_ERASE_DONE: the erase of tile `t` ends; `bad` gives the cells that did not verify (row, column, level held) and `pulse`
whether the erase pulse failed. -/
def execTileEraseDone (d : Fin 4) (t : Half) (bad : List (Fin 528 × Fin 544 × Fin 4)) (pulse : Bool) (s : State) : Out State :=
  .next (match s.runningOn d.val t.toNat with
    | none => s
    | some c =>
      if c.op ≠ 1 then s
      else
        let x := s.tileX d.val c.tile
        let rec' := x.recordAll c.deck (bad.map (fun b => (b.1.val, b.2.1.val, b.2.2.val, 0)))
        let fails := pulse || decide (64 < bad.length)
        let k := { rec'.1.deck c.deck with cells := [], drift := 0, refresh := false, state := if fails then 6 else 0 }
        let k := bad.foldl (fun (k : DeckRec) b => k.setLevel b.1.val b.2.1.val b.2.2.val) k
        let s := (s.setTile d.val c.tile (rec'.1.setDeck c.deck k)).count R.CIMP_STUCKNEW rec'.2 d.val
        s.cimpFinish d.val c (if fails then 0x15 else if rec'.2 ≠ 0 then 0x03 else 0x02) 0)

/-! ### Program (R222, R223, R236) -/

/-- TILE_PROGRAM: a PROGRAM of tile `t` starts: a full defect record or an uncovered defect makes the deck FAULTY. -/
def execTileProgram (d : Fin 4) (t : Half) (s : State) : Out State :=
  .next (s.cimpStart d.val 2 t.toNat (fun s c =>
    let x := s.tileX d.val c.tile
    let faulty (s : State) := (s.onDeck d.val c.tile c.deck (fun k => { k with state := 6 })).cimpFinish d.val c 0x16 0
    if 504 ≤ x.defects.length then faulty s
    else
      let rep := if bit c.arg 3 then x.autoRepair c.deck (s.fget F.CIMP_CTL_ROWTH d.val) else (x, 0, false)
      let s := (s.setTile d.val c.tile rep.1).count R.CIMP_REPAIRS rep.2.1 d.val
      if rep.2.2 then faulty s
      else s.onDeck d.val c.tile c.deck (fun k => { k with state := 2, wfmt := bits c.arg 0 2 })))

/-- What the source of a row gives. -/
inductive RowSrc where
  | row (b : List Byte)
  | invalid
  | busy
  | fault (va flags : Nat)
deriving DecidableEq, Repr

/-- `n` bytes at virtual address `va` of the command's context, through the unit's TLB (R218). -/
def State.cimpBytes (s : State) (d va n : Nat) : RowSrc × State :=
  let c := s.fget F.CIMP_RINGCFG_CTX d
  let unit := 0x24 + d
  match s.translatePages unit c ((pagesOf va n).map (fun v => (v, Acc3.read))) [] with
  | (.fault v _ f, s) => (.fault (if v = va / 4096 then va else v * 4096) f, s)
  | (.ok m, s) =>
    let s := s.violatePages unit c (s.noRemote m)
    let phys := (List.range n).map (fun i => (s.noRemote m).phys .read (va + i))
    match s.windowCheck false (s.storeOffs (phys.filterMap id)) with
    | .busy _ => (.busy, s)
    | .bad o => (.invalid, s.uncorrectable o 0xFF)
    | .ok => (.row (phys.map (fun a => a.elim 0 s.physByte)), s)

/-- Row `r` of the deck image of a PROGRAM (R222): from SRC, or from the block of the lossless stream that holds it. -/
def State.rowSource (s : State) (d : Nat) (c : TileCmd) (r : Nat) : RowSrc × State :=
  if !bit c.arg 2 then s.cimpBytes d (c.src + 128 * r) 128
  else
    match s.cimpBytes d c.src 32 with
    | (.row h, s) =>
      let o := c.block * 65536 + 128 * r
      match streamHeader (fun k => h.getD k 0) with
      | none => (.invalid, s)
      | some (ulen, _) =>
        if ulen < o + 128 then (.invalid, s)
        else
          let i := o / 4096
          match s.cimpBytes d (c.src + 32 + 16 * i) 16 with
          | (.row eb, s) =>
            let e := parseEntry eb
            match s.cimpBytes d (c.src + e.offset) e.stored with
            | (.row b, s) =>
              let rd (k : Nat) : Byte :=
                if k < 32 then h.getD k 0
                else if 32 + 16 * i ≤ k ∧ k < 48 + 16 * i then eb.getD (k - 32 - 16 * i) 0
                else b.getD (k - e.offset) 0
              match streamBlock rd ulen i with
              | none => (.invalid, s)
              | some x => (.row (padTo 128 (x.drop (o % 4096))), s)
            | x => x
          | x => x
    | x => x

/-- The stored code of output `k` in a row of levels (R186, R222). -/
def codeOf (wfmt : Nat) (lvl : Nat → Nat) (k : Nat) : Nat :=
  let w := (wfmtShape wfmt).1
  ((List.range w).map (fun i => 4 ^ i * lvl (w * k + i))).sum

/-- What a row's programming leaves: physical column, level held, target. -/
def Tile.programLevels (t : Tile) (p r : Nat) (img : List Byte) (cells : List (Nat × Nat)) : List (Nat × Nat × Nat) :=
  let pr := t.rowOf p r
  let image (c : Nat) := bits (leNat img) (2 * c) 2
  let data (c : Nat) : Nat := if c < 512 then image c else if 520 ≤ c ∧ c < 524 then 3 else 0
  let spareOf (c : Nat) : Option Nat := (t.defects.find? (fun e => e.kind == 1 && e.deck == p && 528 + e.spare == c)).map (·.col)
  let covered (c : Nat) : Bool := t.colOf p c != c
  let held (c target : Nat) : Nat :=
    match cells.find? (fun x => x.1 == c) with
    | some x => x.2
    | none => match (t.stuckCells p).find? (fun e => e.row == pr && e.col == c) with
      | some e => e.stuck
      | none => target
  let one (c : Nat) : Nat × Nat × Nat :=
    let tg := if covered c then 0 else if c < 528 then data c else (spareOf c).elim 0 data
    (c, held c tg, tg)
  let check (c : Nat) : Bool := decide (512 ≤ c ∧ c < 520) || (spareOf c).elim false (fun k => decide (512 ≤ k ∧ k < 520))
  let ph1 := ((List.range 544).filter (fun c => !check c)).map one
  let lvl (c : Nat) : Nat := (ph1.find? (fun x => x.1 == t.colOf p c)).elim 0 (·.2.1)
  let w := (t.deck p).wfmt
  let sum := ((List.range (wfmtShape w).2.2).map (codeOf w lvl)).sum
  let ph2 := ((List.range 544).filter check).map (fun c =>
    let tg := if covered c then 0 else sum / 4 ^ ((if c < 520 then c else (spareOf c).getD 512) - 512) % 4
    (c, held c tg, tg))
  ph1 ++ ph2

/-- PROGRAM_ROW: the next row of the PROGRAM on tile `t` is program-verified; `cells` gives the columns whose cell did not end at
its target and the level it holds, `p1` and `p2` the pulses of the two phases (R222, R223, R235). Nothing is programmed while a
timed program runs on the die or a slot of an MVM is pending on the tile (R209). -/
def execProgramRow (d : Fin 4) (t : Half) (p1 : Fin 9) (p2 : Fin 5) (cells : List (Fin 544 × Fin 4)) (s : State) : Out State :=
  .next (match s.runningOn d.val t.toNat with
    | none => s
    | some c =>
      let d := d.val
      let pending := match (s.stream d).run with
        | some p => p.ops.any (fun o => o.opc == 0x10 && o.started && !o.finished && o.tiles.any (fun x => x.tile == c.tile))
        | none => false
      if c.op ≠ 2 ∨ c.susp = true ∨ s.timedOn d = true ∨ pending = true then s
      else
        let incomplete (s : State) (st : Nat) := (s.onDeck d c.tile c.deck (fun k => { k with state := 3 })).cimpFinish d c st c.count
        match s.rowSource d c c.step with
        | (.busy, s) => s
        | (.invalid, s) => incomplete s 0x13
        | (.fault va f, s) =>
          let info : FaultInfo :=
            { ctx := s.fget F.CIMP_RINGCFG_CTX d, unit := 0x24 + d, cls := s.fget F.CIMP_RINGCFG_CLASS d, kind := 5, flags := f,
              handle := 0xFFFF, vaddr := va, pc := 0, step := c.step, nsteps := 512, slot := 0, detail := c.idx.getD 0 }
          match s.reportFault info with
          | (true, s) => s.setCmd d c { c with susp := true }
          | (false, s) => incomplete s 0x14
        | (.row img, s) =>
          let x := s.tileX d c.tile
          let wf := (x.deck c.deck).wfmt
          if wf = 3 ∧ (List.range 512).any (fun k => bits (leNat img) (2 * k) 2 == 3) = true then incomplete s 0x13
          else
            let pr := x.rowOf c.deck c.step
            let lv := x.programLevels c.deck c.step img (cells.map (fun e => (e.1.val, e.2.val)))
            let off := lv.filter (fun e => e.2.1 != e.2.2)
            let rec' := x.recordAll c.deck (off.map (fun e => (pr, e.1, e.2.1, e.2.2)))
            let k := lv.foldl (fun (k : DeckRec) e => k.setLevel pr e.1 e.2.1) (rec'.1.deck c.deck)
            let s := ((s.setTile d c.tile (rec'.1.setDeck c.deck k)).count R.CIMP_STUCKNEW rec'.2 d).count R.CIMP_PULSES (p1.val + p2.val) d
            let served (e : Nat) : Bool := decide (512 ≤ e ∧ e < 528) ||
              x.defects.any (fun q => q.kind == 1 && q.deck == c.deck && 528 + q.spare == e && decide (512 ≤ q.col))
            if off.any (fun e => served e.1 && x.colOf c.deck e.1 == e.1) then
              (s.onDeck d c.tile c.deck (fun k => { k with state := 6 })).cimpFinish d c 0x16 (c.count + rec'.2)
            else if c.step + 1 < 512 then s.setCmd d c { c with step := c.step + 1, count := c.count + rec'.2 }
            else
              let s := s.onDeck d c.tile c.deck (fun k => { k with state := 4, tagpfx := c.tagpfx, block := c.block })
              s.cimpFinish d c (if c.count + rec'.2 = 0 then 0x02 else 0x03) (c.count + rec'.2))

/-! ### The darkroom: top-up and calibration (R230 to R233) -/

/-- TILE_TOPUP: a TOPUP of tile `t` starts (R230). -/
def execTileTopup (d : Fin 4) (t : Half) (s : State) : Out State := .next (s.cimpStart d.val 3 t.toNat (fun s _ => s))

/-- TILE_CALIBRATE: a CALIBRATE of tile `t` starts (R232). -/
def execTileCalibrate (d : Fin 4) (t : Half) (s : State) : Out State :=
  .next (s.cimpStart d.val 4 t.toNat (fun s c => s.setCmd d.val c { c with sums := List.replicate 7 0 }))

/-- What the world gives a darkroom step: the trim found for a converter; the active rows and the lo and hi sums of an exposure;
whether a segment's pattern failed its checksum check; the cells a top-up found outside their level and how many it pulsed. -/
structure DarkFacts where
  trim : Nat
  n : Nat
  lo : Int
  hi : Int
  seg : Nat
  fails : Bool
  cells : List (Nat × Nat)
  pulsed : Nat
deriving DecidableEq, Repr

/-- One row of a TOPUP (R230): a cell found above its level is recorded stuck and stays, one found below is pulsed back. -/
def State.topupRow (s : State) (d : Nat) (c : TileCmd) (x : DarkFacts) : State :=
  let t := s.tileX d c.tile
  let r := t.rowOf c.deck c.step
  let k := t.deck c.deck
  let out := x.cells.filter (fun e => e.2 != k.level r e.1)
  let above := out.filter (fun e => decide (k.level r e.1 < e.2))
  let rec' := t.recordAll c.deck (above.map (fun e => (r, e.1, e.2, k.level r e.1)))
  let k' := above.foldl (fun (k : DeckRec) e => k.setLevel r e.1 e.2) { rec'.1.deck c.deck with late := k.late + out.length }
  let s := (s.setTile d c.tile (rec'.1.setDeck c.deck k')).count R.CIMP_STUCKNEW rec'.2 d
  let c' := { c with step := c.step + 1, count := satAdd 16 c.count x.pulsed, sums := [c.sums.headD 0 + (rec'.2 : Int)] }
  if c.step + 1 < 512 then s.setCmd d c c'
  else
    let s := s.onDeck d c.tile c.deck (fun k => { k with refresh := false })
    let s := s.cimpFinish d c (if c'.sums.headD 0 = 0 then 0x02 else 0x03) c'.count
    s.queueOwn d 4 c.tile c.deck 0

/-- The fit of OFFS0 and GAIN0 (R232): from Σ lo, Σ n and Σ (hi − lo) over the 120 exposures. A fit without any difference of the
columns gives no gain; it is limited to 65,535. -/
def calFit (lo n diff : Int) : Int × Nat :=
  (satSigned 16 ((2 * (64 * lo) + 120) / 240),
   if diff ≤ 0 then 65535 else (clampInt 0 65535 ((2 * (12 * n * 2 ^ 14) + diff) / (2 * diff))).toNat)

/-- One step of a CALIBRATE (R232): 132 trims, 120 exposures, 148 checks. `sums` holds Σ lo, Σ n, Σ (hi − lo) and the failures in a
row of each segment. -/
def State.calStep (s : State) (d : Nat) (c : TileCmd) (x : DarkFacts) : State :=
  let g (k : Nat) := c.sums.getD k 0
  if c.step < 132 then s.setCmd d c { c with step := c.step + 1, trim := c.trim ++ [BitVec.ofNat 8 x.trim] }
  else if c.step < 252 then
    s.setCmd d c { c with step := c.step + 1, sums := [g 0 + x.lo, g 1 + x.n, g 2 + (x.hi - x.lo), 0, 0, 0, 0] }
  else
    let run := if x.fails then g (3 + x.seg) + 1 else 0
    let c' := { c with step := c.step + 1, sums := c.sums.set (3 + x.seg) run }
    if run = 3 then (s.onDeck d c.tile c.deck (fun k => { k with state := 6 })).cimpFinish d c 0x16 0
    else if c.step + 1 < 400 then s.setCmd d c c'
    else
      let fit := calFit (g 0) (g 1) (g 2)
      let s := s.onDeck d c.tile c.deck (fun k =>
        { k with cal := ⟨fit.1, fit.2, s.fget F.THM_TEMP_NOW (d + 1), k.erases, c.trim, false⟩, calTb := s.now,
                 offs := fit.1, gain := fit.2, drift := 0, state := 5 })
      s.cimpFinish d c 0x02 0

/-- DARKROOM_STEP: one step of the TOPUP or CALIBRATE on tile `t`, which must be in the darkroom; none begins while a timed program
runs on the die (R209, R231). -/
def execDarkroomStep (d : Fin 4) (t : Half) (trim : Byte) (n : Fin 171) (lo hi : Half) (seg : Fin 4) (fails : Bool)
    (cells : List (Fin 544 × Fin 4)) (pulsed : Half) (s : State) : Out State :=
  .next (match s.runningOn d.val t.toNat with
    | none => s
    | some c =>
      let x : DarkFacts := { trim := trim.toNat, n := n.val, lo := lo.toNat, hi := hi.toNat, seg := seg.val, fails := fails,
                             cells := cells.map (fun e => (e.1.val, e.2.val)), pulsed := pulsed.toNat }
      if c.out = true ∨ s.timedOn d.val = true then s
      else if c.op = 3 then s.topupRow d.val c x
      else if c.op = 4 then s.calStep d.val c x
      else s)

/-- DARKROOM_REENTER: tile `t` goes back into the darkroom once no MVM in progress uses it (R231). -/
def execDarkroomReenter (d : Fin 4) (t : Half) (s : State) : Out State :=
  .next (match s.runningOn d.val t.toNat with
    | none => s
    | some c =>
      let busy := match (s.stream d.val).run with
        | some p => p.ops.any (fun o => o.opc == 0x10 && o.started && !o.finished && o.tiles.any (fun x => x.tile == c.tile))
        | none => false
      if c.out && !busy then s.setCmd d.val c { c with out := false } else s)

/-- CALIBRATION_DUE: a CALIBRATE of a mapped READY deck is queued when its period has passed, or the die's temperature has moved by
more than DTEMP since its record (the 60 s are the caller's) (R233). -/
def execCalibrationDue (d : Fin 4) (t : Half) (p : Fin 8) (s : State) : Out State :=
  .next (
    let x := s.tileX d.val t.toNat
    let k := x.deck p.val
    let period := s.fget F.CIMP_DARK_PERIOD d.val
    let dtemp := s.fget F.CIMP_DARK_DTEMP d.val
    let aged := period != 0 && decide (k.calTb + period * 3600 * 10 ^ 9 ≤ s.now)
    let warm := dtemp != 0 && decide (4 * dtemp < (toSigned 16 (s.fget F.THM_TEMP_NOW (d.val + 1)) - toSigned 16 k.cal.temp).natAbs)
    let queued := (s.cmds d.val).any (fun c => c.idx == none && c.op == 4 && c.tile == t.toNat && c.deck == p.val)
    if s.tilePresent t.toNat && k.state == 5 && x.lmap.contains p.val && (aged || warm) && !queued then s.queueOwn d.val 4 t.toNat p.val 0
    else s)

/-- DRIFT_PERSIST: the drift indices of a tile are persisted, at most once an hour (R229). -/
def execDriftPersist (d : Fin 4) (t : Half) (s : State) : Out State :=
  .next (
    let x := s.tileX d.val t.toNat
    if !s.tilePresent t.toNat || (x.driftTb != 0 && decide (s.now < x.driftTb - 1 + 3600 * 10 ^ 9)) then s
    else s.setTile d.val t.toNat { x with decks := x.decks.map (fun k => (k.1, { k.2 with driftKept := k.2.drift })), driftTb := s.now + 1 })

/-! ### Map, retirement and the switch (R226 to R228, R240, R241) -/

/-- TILE_MAPSET: a MAPSET of tile `t` writes its PMAP. -/
def execTileMapset (d : Fin 4) (t : Half) (s : State) : Out State :=
  .next (s.cimpStart d.val 5 t.toNat (fun s c =>
    (s.setTile d.val c.tile { s.tileX d.val c.tile with pmap := (List.range 8).map (fun i => c.src / 256 ^ i % 256) }).cimpFinish d.val c 0x02 0))

/-- Retire tile `t` of die `d`: the lowest free spare of its group takes its position at the next switch; with none the position is
unavailable and the group retired with its spares exhausted (R240, R241). Answers the spare. -/
def State.retireTile (s : State) (d t : Nat) (force : Bool) : Option Nat × State :=
  let x := s.tileX d t
  let g := t / 72
  match (List.range 72).find? (fun j => (s.tileX d (72 * g + j)).role == 1) with
  | none =>
    let s := s.setTile d t { x with stopped := true }
    (none, { s with cim := { s.cim with exhausted := if s.cim.exhausted.contains (d * 16 + g) then s.cim.exhausted
                                                      else s.cim.exhausted ++ [d * 16 + g] } })
  | some j =>
    let sp := 72 * g + j
    let s := s.setTile d sp { s.tileX d sp with role := 2, pos := x.pos }
    let s := if force then s.setTile d t { x with stopped := true } else s
    let s := { s with cim := { s.cim with retiring := s.cim.retiring ++ [(d, t, sp)] } }
    (some sp, s.cimpCard d t 0 0x82 sp (s.fget F.CIMP_RINGCFG_CTX d))

/-- TILE_RETIRE: a RETIRE of tile `t` (R240, R241). -/
def execTileRetire (d : Fin 4) (t : Half) (s : State) : Out State :=
  .next (s.cimpStart d.val 6 t.toNat (fun s c =>
    match s.retireTile d.val c.tile (bit c.arg 0) with
    | (none, s) => s.cimpFinish d.val c 0x18 0
    | (some sp, s) => s.cimpFinish d.val c 0x02 sp))

/-- The dies armed with stream `st`. -/
def State.armedDies (s : State) (st : Nat) : List Nat :=
  (List.range 4).filter (fun d => s.flag F.CIMP_SWITCH_ARM d && s.fget F.CIMP_SWITCH_STREAM d == st)

/-- Tiles of a die with a pending PMAP (R227). -/
def State.pendingTiles (s : State) (d : Nat) : List Nat :=
  (s.cim.tiles.filter (fun x => x.1 / 1152 == d && (x.2.pmap != x.2.lmap || x.2.role == 2))).map (fun x => x.1 % 1152)

/-- Apply the armed switch of stream `st` on every die of its set, in one cycle: refused if a pending deck is not READY, put off
while a die of the set runs a timed program (R227, R228). -/
def State.deckSwitch (s : State) (st : Nat) : State :=
  let dies := s.armedDies st
  if dies.any s.timedOn then s
  else
    let ok := dies.all (fun d => (s.pendingTiles d).all (fun t =>
      let x := s.tileX d t
      x.pmap.all (fun p => p == 0xFF || (x.deck p).state == 5)))
    let s := dies.foldl (fun s d => (s.setFlag F.CIMP_SWITCH_ARM false d).fset F.CIMP_SWITCH_RESULT (if ok then 1 else 2) d) s
    if !ok then s
    else
      let s := dies.foldl (fun s d => (s.pendingTiles d).foldl (fun s t => s.setTile d t { s.tileX d t with lmap := (s.tileX d t).pmap }) s) s
      let s := (s.cim.retiring.filter (fun r => dies.contains r.1)).foldl (fun s r =>
        let s := s.setTile r.1 r.2.2 { s.tileX r.1 r.2.2 with role := 0 }
        let s := s.setTile r.1 r.2.1 { s.tileX r.1 r.2.1 with role := 3, stopped := false }
        s.count R.CIMP_RETIRED 1 r.1) s
      { s with cim := { s.cim with retiring := s.cim.retiring.filter (fun r => !dies.contains r.1) } }

/-- Whether acquisition stream `st` is running. -/
def State.streamRuns (s : State) (st : Nat) : Bool := s.flag F.ACQ_ST_STAT_RUN st

/-- What a write of `v` to CIMP_SWITCH of die `d` does (R227, R228). -/
def State.writeSwitch (s : State) (d : Nat) (v : Word) : State :=
  let was := s.flag F.CIMP_SWITCH_ARM d
  let s := (s.fset F.CIMP_SWITCH_STREAM (getField v 0 4) d).setFlag F.CIMP_SWITCH_ARM (bit v.toNat 31) d
  if bit v.toNat 31 then (if s.streamRuns (getField v 0 4) then s else s.deckSwitch (getField v 0 4))
  else if was then s.fset F.CIMP_SWITCH_RESULT 0 d else s

/-- SWITCH_ARM: a write of CIMP_SWITCH with ARM = 1. -/
def execSwitchArm (r : Req) (d : Fin 4) (v : Word) (s : State) : Out State :=
  .next (s.asHome r (R.CIMP_SWITCH.at d.val) (fun s => s.writeSwitch d.val (setField v 31 1 1)))

/-- SWITCH_DISARM: a write of CIMP_SWITCH with ARM = 0. -/
def execSwitchDisarm (r : Req) (d : Fin 4) (v : Word) (s : State) : Out State :=
  .next (s.asHome r (R.CIMP_SWITCH.at d.val) (fun s => s.writeSwitch d.val (setField v 31 1 0)))

/-- DECK_MAP_SWITCH: a switch that a timed program put off, of a stream that does not run, is applied in the first cycle that allows
it (R228). A running stream applies its switch at a frame close. -/
def execDeckMapSwitch (st : Fin 16) (s : State) : Out State :=
  .next (if s.streamRuns st.val then s else s.deckSwitch st.val)

/-! ### The statistics unit (R237) -/

/-- What a write of `v` to CIMP_STATCFG of die `d` does. -/
def State.writeStatCfg (s : State) (d : Nat) (v : Word) : State :=
  let s := (s.fset F.CIMP_STATCFG_LAYER (getField v 16 8) d).fset F.CIMP_STATCFG_COUNT (getField v 0 16) d
  let s := s.setFlag F.CIMP_STATCFG_ARM (bit v.toNat 31) d
  { s with cim := { s.cim with stats := s.cim.stats.filter (fun e => e.1 != d) } }

/-- STATS_ARM: a write of CIMP_STATCFG with ARM = 1. -/
def execStatsArm (r : Req) (d : Fin 4) (v : Word) (s : State) : Out State :=
  .next (s.asHome r (R.CIMP_STATCFG.at d.val) (fun s => s.writeStatCfg d.val (setField v 31 1 1)))

/-! ### Interruption and restart (R234, R242) -/

/-- The last-bell sequence or thermal shutdown interrupts the units (Table 07-11). -/
def State.cimpInterrupt (s : State) : State :=
  (List.range 4).foldl (fun s d =>
    ((s.cmds d).filter (·.running)).foldl (fun s c =>
      let s := if c.op = 1 ∨ c.op = 2 then s.onDeck d c.tile c.deck (fun k => { k with state := 3 }) else s
      s.cimpFinish d c 0x19 c.count) s) s

/-- What a deck is after a restart (R234, R242). -/
def DeckRec.restarted (k : DeckRec) : DeckRec :=
  let k := { k with drift := k.driftKept, calTb := 0 }
  if k.state = 1 ∨ k.state = 2 then { k with state := 3 }
  else if k.state = 5 then (if k.cal.crcBad then { k with state := 4 } else { k with offs := k.cal.offs0, gain := k.cal.gain0 })
  else k

/-- The tiles after a restart (R207, R208, R234, R242): `sel` gives the selections that the placements name, as in `Cim.lsel`; decks
whose record fails its CRC have a CALIBRATE queued. -/
def State.tilesRestart (s : State) (sel : List (Nat × Nat)) : State :=
  let bad := s.cim.tiles.flatMap (fun x => (x.2.decks.filter (fun k => k.2.state == 5 && k.2.cal.crcBad)).map (fun k => (x.1, k.1)))
  let tiles := s.cim.tiles.map (fun x =>
    let t := { x.2 with decks := x.2.decks.map (fun (k : Nat × DeckRec) => (k.1, k.2.restarted)), driftTb := 0 }
    let l := Sparse.get (fun _ => 0) sel (x.1 / 1152 * 1024 + x.1 % 1152 / 72 * 64 + t.pos % 64)
    (x.1, { t with select := if t.role = 0 ∧ t.stopped = false then t.ready l else 0xFF }))
  let s := { s with irqCimp := 0, cim := { s.cim with tiles := tiles, lsel := sel, recs := [], cmds := [], stats := [] } }
  bad.foldl (fun s x => s.queueOwn (x.1 / 1152) 4 (x.1 % 1152) x.2 0) s

/-! ### The deck-map and calibration window (R215, R216, Table 07-1) -/

def Tile.recordBytes (t : Tile) : List Byte :=
  t.lmap.map (BitVec.ofNat 8) ++ t.pmap.map (BitVec.ofNat 8) ++
  (List.range 8).map (fun p => BitVec.ofNat 8 ((t.deck p).state + 16 * (t.deck p).wfmt + 64 * b2n (t.deck p).refresh)) ++
  (List.range 8).flatMap (fun p => leBytes 2 (t.deck p).erases) ++ (List.range 8).map (fun p => BitVec.ofNat 8 (t.deck p).drift) ++
  (List.range 8).map (fun p => BitVec.ofNat 8 (t.sparesGone p 1)) ++
  [BitVec.ofNat 8 t.role, BitVec.ofNat 8 t.pos, BitVec.ofNat 8 t.select] ++ List.replicate 5 0

def Tile.contentBytes (t : Tile) : List Byte := (List.range 8).flatMap (fun p => leBytes 6 (t.deck p).tagpfx ++ leBytes 2 (t.deck p).block)

def Defect.bytes (e : Defect) : List Byte :=
  leBytes 8 (e.kind * 2 ^ 62 + e.deck * 2 ^ 59 + (if e.kind = 2 then 0 else e.col) * 2 ^ 49 + (if e.kind = 1 then 0 else e.row) * 2 ^ 39 +
    (if e.kind = 3 then 0 else e.spare) * 2 ^ 35 + e.stuck * 2 ^ 33 + e.target * 2 ^ 31)

def Tile.defectBytes (t : Tile) : List Byte :=
  padTo 4096 ((List.range 8).map (fun p => BitVec.ofNat 8 (t.sparesGone p 2)) ++ leBytes 2 t.defects.length ++ List.replicate 54 0 ++
    t.defects.flatMap Defect.bytes)

def CalRec.bytes (c : CalRec) : List Byte :=
  let body := leBytes 2 (ofSigned 16 c.offs0) ++ leBytes 2 c.gain0 ++ leBytes 2 c.temp ++ leBytes 2 c.ecount ++ padTo 132 c.trim ++
    List.replicate 112 0
  body ++ leBytes 4 (crc32c body ^^^ b2n c.crcBad)

/-- The byte at offset `o` of die `d`'s window; none in a hole (Table 07-1). -/
def State.cimWindowByte (s : State) (d o : Nat) : Option Byte :=
  let at' (t k : Nat) (f : Tile → List Byte) : Option Byte := if s.tilePresent t then some ((f (s.tileX d t)).getD k 0) else none
  if o < 0x12000 then at' (o / 64) (o % 64) Tile.recordBytes
  else if o < 0x24000 then at' ((o - 0x12000) / 64) (o % 64) Tile.contentBytes
  else if 0x100000 ≤ o ∧ o < 0x580000 then at' ((o - 0x100000) / 4096) (o % 4096) Tile.defectBytes
  else if 0x600000 ≤ o ∧ o < 0x840000 then
    at' ((o - 0x600000) / 2048) (o % 256) (fun t => (t.deck ((o - 0x600000) / 256 % 8)).cal.bytes)
  else none

end Sys2Proof.Machine
end

