-- ==== Sys2Proof/Machine/Out.lean ====
section
/-! DEFINITION. Analog outputs (spec/16, R448 to R457): ranges and codes, failure actions, overrides, what each output drives
and its monitoring. -/

namespace Sys2Proof.Machine

def State.ao (s : State) (n : Nat) : Ao := Sparse.get (fun _ => Ao.fresh) s.aos n

def State.setAo (s : State) (n : Nat) (x : Ao) : State := { s with aos := Sparse.put (fun _ => Ao.fresh) s.aos n x }

/-- Smin and Smax of a range (Table 16-1). -/
def aoSpan (range : Nat) : Int × Int :=
  match range with
  | 1 => (0, 10240000) | 2 => (-10240000, 10240000) | _ => (0, 24576000)

/-- The limits Table 16-1 gives for LO and HI; none where any value is allowed. -/
def aoLimits (range : Nat) : Option (Int × Int) :=
  match range with
  | 1 => some (0, 10240000) | 2 => some (-10240000, 10240000) | 3 => some (0, 24000000) | 4 => some (3800000, 20500000)
  | _ => none

/-- Whether RANGE, LO and HI agree (R449). -/
def aoAgrees (range : Nat) (lo hi : Int) : Bool :=
  decide (range ≤ 4) && (match aoLimits range with
    | none => true
    | some (a, b) => decide (a ≤ lo) && decide (lo ≤ b) && decide (a ≤ hi) && decide (hi ≤ b))

/-- The target of value `v` (R450). -/
def aoTarget (range : Nat) (lo hi : Int) (v : Nat) : Int :=
  let num : Int := (v : Int) * (hi - lo)
  let t : Int := lo + (if 0 ≤ num then (num + 32767).tdiv 65535 else -((-num + 32767).tdiv 65535))
  if range = 4 then clampInt 3800000 20500000 t else t

/-- The converter code of a target (R450). -/
def aoCode (range : Nat) (target : Int) : Nat :=
  let sp := aoSpan range
  (clampInt 0 65535 (((target - sp.1) * 65536 + (sp.2 - sp.1).tdiv 2).tdiv (sp.2 - sp.1))).toNat

def State.aoRange (s : State) (n : Nat) : Nat := s.fget F.OUT_AO_CFG_RANGE n

/-- The value in force (R454). -/
def State.aoValue (s : State) (n : Nat) : Nat :=
  if s.flag F.OUT_AO_OVR_EN n then s.fget F.OUT_AO_OVR_VALUE n else s.fget F.OUT_AO_VALUE_VALUE n

/-- The target of the value in force. -/
def State.aoTargetNow (s : State) (n : Nat) : Int :=
  aoTarget (s.aoRange n) (toSigned 32 (s.rget R.OUT_AO_LO n)) (toSigned 32 (s.rget R.OUT_AO_HI n)) (s.aoValue n)

/-- Whether the field die's analog outputs are off: before step 9 of the start-up sequence and in enrolment, in Recess, after
thermal shutdown (Table 16-3, row 1). -/
def State.aoBarred (s : State) : Bool :=
  !s.flag F.ACQ_STAT_SETTLED || s.fget F.PWR_STAT_STATE == 2 || s.fget F.PWR_STAT_STATE == 3 ||
  s.pwr.cause == some 1

/-- Device safe state, or the rejection of the safety parameters, which acts as it does (R421, R429). -/
def State.safeState (s : State) : Bool := s.fget F.SAFE_STAT_STATE == 2 || s.fget F.SAFE_STAT_STATE == 3

/-- The acquisition link: declared down (R12). -/
def State.acqDown (s : State) : Bool := bit (s.fget F.SYS_D2DSTAT_DOWN) 4

/-- The conditions that call for output `n`'s failure action (R453): 1 device safe state, 2 refresh timeout, 3 power-fail
warning, 4 link silence. -/
def State.aoCauses (s : State) (n : Nat) : List Nat :=
  (if s.safeState && s.flag F.OUT_AO_FAIL_FSAFE n then [1] else []) ++ (if (s.ao n).timedOut then [2] else []) ++
  (if s.pwr.warn then [3] else []) ++ (if s.aoSilent || s.acqDown then [4] else [])

/-- The failure code of FMODE (Table 16-2); none: disabled. -/
def State.aoFailCode (s : State) (n : Nat) : Option Nat :=
  let four := s.aoRange n == 4
  match s.fget F.OUT_AO_FAIL_FMODE n with
  | 0 => none
  | 1 => (s.ao n).hold
  | 2 => some (if four then 9333 else 0)
  | _ => some (if four then 57333 else 65535)

/-- What output `n` drives (Table 16-3): the converter code, or none while disabled. -/
def State.aoDrive (s : State) (n : Nat) : Option Nat :=
  if s.aoBarred ∨ s.aoRange n = 0 then none
  else if (s.ao n).breakEnd ≠ 0 then none
  else if s.aoCauses n ≠ [] then s.aoFailCode n
  else some (aoCode (s.aoRange n) (s.aoTargetNow n))

/-- Set bit `n` of a field of OUT_STAT. -/
def State.aoBit (s : State) (f : Fld) (n : Nat) (b : Bool) : State :=
  let m := s.fget f
  s.fset f (if b then m ||| 2 ^ n else m - (m &&& 2 ^ n))

/-- An OUT report card (Table 16-4). -/
def State.outCard (s : State) (n event : Nat) (detail : List Byte) : State :=
  s.card { block := 0x0D, event := event, ukind := 11, ua := n, detail := detail, die := 5 }

/-- Follow a change of what output `n` depends on: the failure action begins or ends, the output drives its state, the status
registers show it. An output that row 1 of Table 16-3 disables reports no failure action. DESIGN CHOICE, safe. -/
def State.aoUpdate (s : State) (n : Nat) : State :=
  let x := s.ao n
  let causes := s.aoCauses n
  let active := !(s.aoBarred || s.aoRange n == 0)
  let fail := causes != [] && active
  let on := bit (s.fget F.OUT_STAT_AOEN) n
  let old := s.fget F.OUT_AO_STAT_FCAUSE n
  let s := s.setAo n { x with failing := fail, hold := if x.failing then x.hold else if on then some x.code else none }
  let s := if fail && !x.failing then s.outCard n 7 [BitVec.ofNat 8 (causes.headD 0)]
    else if x.failing && !fail then
      s.outCard n 8 [BitVec.ofNat 8 (if bit old 0 then 1 else if bit old 1 then 2 else if s.pwr.warn then 3 else 4)]
    else s
  let d := s.aoDrive n
  let s := s.setAo n { s.ao n with code := d.getD 0, codeTb := if d = some x.code then x.codeTb else s.now }
  let s := ((s.aoBit F.OUT_STAT_AOEN n d.isSome).aoBit F.OUT_STAT_AOFAIL n fail).aoBit F.OUT_STAT_AOOVR n (s.flag F.OUT_AO_OVR_EN n)
  let s := (s.fset F.OUT_AO_STAT_CODE (d.getD 0) n).setFlag F.OUT_AO_STAT_BREAK ((s.ao n).breakEnd != 0) n
  let s := s.fset F.OUT_AO_STAT_FCAUSE
    (b2n (causes.contains 1) + 2 * b2n (causes.contains 2) + 4 * b2n (causes.contains 3 || causes.contains 4)) n
  if d.isSome then s else s.rset R.OUT_AO_RBACK 0 n

/-- Follow a change that concerns every analog output. -/
def State.aoUpdateAll (s : State) : State := (List.range 4).foldl (fun s n => s.aoUpdate n) s

/-- What an applied commit of output `n`'s group does (R452): `old` is the RANGE in force before. -/
def State.aoApplied (s : State) (n old : Nat) : State :=
  let x := s.ao n
  let s := if s.aoRange n = old then s
    else if s.aoRange n = 0 then s.setAo n { x with breakEnd := 0 }
    else s.setAo n { x with breakEnd := s.now + 1000000 + 1 }
  s.aoUpdate n

/-- AO_RANGE_BREAK_END: 1 ms after an applied range change the output enables in the new range (R452). -/
def execAoRangeBreakEnd (n : Fin 4) (s : State) : Out State :=
  .next (
    let x := s.ao n.val
    if x.breakEnd ≠ 0 ∧ x.breakEnd ≤ s.now + 1 then (s.setAo n.val { x with breakEnd := 0 }).aoUpdate n.val else s)

/-- What a write of `v` to OUT_AOn_VALUE does (R451, R453). -/
def State.writeAoValue (s : State) (n : Nat) (v : Word) : State :=
  let s := s.fset F.OUT_AO_VALUE_VALUE (getField v 0 16) n
  let x := s.ao n
  (s.setAo n { x with refresh := s.now, timedOut := false, paused := if x.paused = 0 then 0 else s.now + 1 }).aoUpdate n

/-- AO_VALUE_WRITE: a write of OUT_AOn_VALUE by home. -/
def execAoValueWrite (r : Req) (n : Fin 4) (v : Word) (s : State) : Out State :=
  .next (s.asHome r (R.OUT_AO_VALUE.at n.val) (fun s => s.writeAoValue n.val v))

/-- Set or clear output `n`'s override (R454): an override in force pauses the refresh timeout (R453). -/
def State.setOverride (s : State) (n : Nat) (en : Bool) (v : Nat) (pass : Bool) : State :=
  let x := s.ao n
  let was := s.flag F.OUT_AO_OVR_EN n
  let s := (s.setFlag F.OUT_AO_OVR_EN en n).fset F.OUT_AO_OVR_VALUE v n
  let x := if en && !was then { x with paused := s.now + 1 }
    else if was && !en then { x with refresh := x.refresh + (s.now + 1 - x.paused), paused := 0 } else x
  (s.setAo n { x with underPass := pass && en }).aoUpdate n

/-- The holder of hall pass `p`: 0 home, 1 to 4 hosts; none where it is free (R482). -/
def State.passHolder (s : State) (p : Nat) : Option Nat := (s.hosts.passes.find? (fun x => x.1 == p)).map (·.2.holder)

/-- Who holds pass `p` for an operation that is checked now: a lease that ends in this cycle has ended (R484). -/
def State.passOf (s : State) (p : Nat) : Option Nat :=
  ((s.hosts.passes.find? (fun x => x.1 == p)).filter (fun x => decide (s.now < x.2.ends))).map (·.2.holder)

/-- AO_OVERRIDE_WRITE: a write of OUT_AOn_OVR by home, or by the ring agent for the host that holds pass 1 (R454). -/
def execAoOverrideWrite (r : Req) (n : Fin 4) (v : Word) (s : State) : Out State :=
  .next (
    let host := match r with | .agent h => s.passOf 1 == some (h.val + 1) | _ => false
    s.asCtx r (R.OUT_AO_OVR.at n.val) 0x5 (fun c => c == 0 || host) (fun s =>
      s.setOverride n.val (bit v.toNat 31) (getField v 0 16) host))

/-- AO_REFRESH_TIMEOUT: TMO ms have passed since the last write of VALUE, not counting an override in force (R453). -/
def execAoRefreshTimeout (n : Fin 4) (s : State) : Out State :=
  .next (
    let x := s.ao n.val
    let tmo := s.fget F.OUT_AO_FAIL_TMO n.val
    if tmo ≠ 0 ∧ s.flag F.ACQ_STAT_SETTLED = true ∧ s.flag F.OUT_AO_OVR_EN n.val = false ∧ x.refresh + tmo * 1000000 ≤ s.now then
      (s.setAo n.val { x with timedOut := true }).aoUpdate n.val
    else s)

/-- AO_LINK_SILENCE: the field die has received no valid acquisition-link unit for 2 ms (R453). -/
def execAoLinkSilence (s : State) : Out State := .next ({ s with aoSilent := true }.aoUpdateAll)

/-- A monitored condition held for 10 ms sets or clears its flag with a report card (R457). `k` is 0 OPEN, 1 OVLD, 2 DEV. -/
def State.aoFlag (s : State) (n k : Nat) (f : Fld) (cond : Bool) (detail : List Byte) : State :=
  let x := s.ao n
  let on := s.flag f n
  let t := Sparse.get (fun _ => 0) x.since k
  let mark (s : State) (v : Nat) : State := s.setAo n { s.ao n with since := Sparse.put (fun _ => 0) (s.ao n).since k v }
  if cond = on then mark s 0
  else if t = 0 then mark s (s.now + 1)
  else if t + 10000000 ≤ s.now + 1 then ((mark s 0).setFlag f cond n).outCard n (2 * k + 1 + b2n (!cond)) detail
  else s

/-- AO_MONITOR: output `n` measured at its ball, and whether its driver is at its limit (R451, R457). -/
def execAoMonitor (n : Fin 4) (rback : Word) (limit : Bool) (s : State) : Out State :=
  .next (
    let i := n.val
    match s.aoDrive i with
    | none => s.rset R.OUT_AO_RBACK 0 i
    | some code =>
      let s := s.rset R.OUT_AO_RBACK rback.toNat i
      let range := s.aoRange i
      let sp := aoSpan range
      let target : Int := if (s.ao i).failing then sp.1 + (code : Int) * (sp.2 - sp.1) / 65536 else s.aoTargetNow i
      let rb := leBytes 4 rback.toNat
      let s := s.aoFlag i 0 F.OUT_AO_STAT_OPEN (limit && decide (3 ≤ range)) rb
      let s := s.aoFlag i 1 F.OUT_AO_STAT_OVLD (limit && decide (range ≤ 2)) rb
      if s.flag F.OUT_AO_STAT_OPEN i ∨ s.flag F.OUT_AO_STAT_OVLD i ∨ s.now < (s.ao i).codeTb + 1000000 then
        s.setAo i { s.ao i with since := Sparse.put (fun _ => 0) (s.ao i).since 2 0 }
      else
        s.aoFlag i 2 F.OUT_AO_STAT_DEV (decide ((sp.2 - sp.1) < 200 * ((toSigned 32 rback.toNat - target).natAbs : Int)))
          (rb ++ leBytes 4 (ofSigned 32 target)))

end Sys2Proof.Machine
end

