-- ==== Sys2Proof/Machine/Sys.lean ====
section
/-! DEFINITION. Wall time (spec/01, R21 to R23). -/

namespace Sys2Proof.Machine

/-- The applied wall-time offset (R21). -/
def State.wallOfs (s : State) : Nat := s.rget R.SYS_WALLOFS_HI * 2 ^ 32 + s.rget R.SYS_WALLOFS_LO

/-- Wall time: TIMEBASE plus the offset modulo 2^64 (R21). -/
def State.wallTime (s : State) : Nat := (s.now + s.wallOfs) % 2 ^ 64

/-- The shadow of a staged register; the applied value where nothing was written since the last commit (R66). -/
def State.shadow (s : State) (a : Nat) : Word := (Sparse.get (fun _ => none) s.shadows a).getD (s.rd a)

/-- Set the shadow of a staged register. -/
def State.setShadow (s : State) (a : Nat) (v : Word) : State :=
  { s with shadows := Sparse.put (fun _ => none) s.shadows a (some v) }

/-- The shadow of a register has been applied. -/
def State.dropShadow (s : State) (a : Nat) : State :=
  { s with shadows := Sparse.put (fun _ => none) s.shadows a none }

/-- Apply a new wall-time offset from a source; a change of more than 1 µs is a step: counted, with a report card that carries
both offsets (R22, R23). The ledger takes note of each step and of the first valid offset (R403). -/
def State.moveWall (s : State) (ofs source : Nat) : State :=
  let old := s.wallOfs
  let first := !s.flag F.SYS_WALLSTAT_VALID
  let step := decide (1000 < (toSigned 64 (ofs + 2 ^ 64 - old)).natAbs)
  let s := (s.rset R.SYS_WALLOFS_LO (ofs % 2 ^ 32)).rset R.SYS_WALLOFS_HI (ofs / 2 ^ 32)
  let s := (s.setFlag F.SYS_WALLSTAT_VALID true).fset F.SYS_WALLSTAT_SOURCE source
  let s := if step || first then { s with ledger := { s.ledger with steps := s.ledger.steps ++ [(old, ofs, source)] } } else s
  if step then
    (s.fcount F.SYS_WALLSTAT_STEPS).card { block := 1, event := 2, detail := leBytes 8 old ++ leBytes 8 ofs }
  else s

/-- WALLOFS_HI_WRITE: a write of SYS_WALLOFS_HI by home applies it with the shadow low half (R22). -/
def execWallofsHiWrite (r : Req) (v : Word) (s : State) : Out State :=
  .next (s.asHome r R.SYS_WALLOFS_HI.at (fun s =>
    let lo := s.shadow R.SYS_WALLOFS_LO.at
    (s.dropShadow R.SYS_WALLOFS_LO.at).moveWall (v.toNat * 2 ^ 32 + lo.toNat) 1))

end Sys2Proof.Machine
end

