-- ==== Sys2Proof/Machine/Staged.lean ====
section
/-! DEFINITION. Staged groups (R66 to R70): the groups of every chapter, their shadows, agreement rules, owners, and their
application (R300, R304, R306, R309, R335, R419, R449, R469). -/

namespace Sys2Proof.Machine

/-- A staged group, by the chapter's instance number. The wall-time offset (R22) has an operation of its own. -/
inductive Group where
  | vch (n : Nat)                 -- vibration channel (R299)
  | ae (n : Nat)                  -- acoustic emission (R303)
  | sp (n : Nat)                  -- speed input (R304)
  | sl (n : Nat)                  -- slow input (R305)
  | dp (n : Nat)                  -- digital port with its slots (R306)
  | st (n : Nat)                  -- stream definition (R308)
  | sig (n : Nat)                 -- order settings (R335)
  | ao (n : Nat)                  -- analog output (R449)
  | qbv (n : Nat)                 -- gate control list (R469)
deriving DecidableEq, Repr

/-- Every staged group. -/
def allGroups : List Group :=
  (List.range 16).map .vch ++ (List.range 2).map .ae ++ (List.range 4).map .sp ++ (List.range 8).map .sl ++
  (List.range 4).map .dp ++ (List.range 16).map .st ++ (List.range 16).map .sig ++ (List.range 4).map .ao ++
  (List.range 2).map .qbv

/-- The registers of a group, by address, with the bits that are staged. -/
def Group.fields : Group → List (Nat × Word)
  | .vch n => [(R.ACQ_VCH_CFG.at n, 0x3333)]
  | .ae n => [(R.ACQ_AE_CFG.at n, 0x11)]
  | .sp n => [(R.ACQ_SP_CFG.at n, 0xFFFFFF33)]
  | .sl n => [(R.ACQ_SL_CFG.at n, 0x3)]
  | .dp n => (R.ACQ_DP_CFG.at n, 0xFFFF0033) :: (List.range 16).flatMap (fun j =>
      [(R.ACQ_SLOT_CMD.at (16 * n + j), 0xFFFFFFFF), (R.ACQ_SLOT_VMASK.at (16 * n + j), 0xFFFFFFFF),
       (R.ACQ_SLOT_VVAL.at (16 * n + j), 0xFFFFFFFF), (R.ACQ_SLOT_SEL.at (16 * n + j), 3)])
  | .st n => [(R.ACQ_ST_MEMB0.at n, 0xFFFFFFFF), (R.ACQ_ST_MEMB1.at n, 0xFFFFFFFF), (R.ACQ_ST_MEMB2.at n, 0xFFFFFFFF),
      (R.ACQ_ST_PERIOD.at n, 0x3FFFFFFF), (R.ACQ_ST_REGION.at n, 0xFFFF003F)]
  | .sig n => [(R.SIG_ST_ORD.at n, 0x830F1F00), (R.SIG_ST_EPR.at n, 0xFFFFFFFF), (R.SIG_ST_TBASE.at n, 0xFFFFFFFF)]
  | .ao n => [(R.OUT_AO_CFG.at n, 7), (R.OUT_AO_LO.at n, 0xFFFFFFFF), (R.OUT_AO_HI.at n, 0xFFFFFFFF)]
  | .qbv n => [(R.HOST_QBV_CFG.at n, 0x8000007F), (R.HOST_QBV_CYCLE.at n, 0xFFFFFFFF), (R.HOST_QBV_BASE_LO.at n, 0xFFFFFFFF),
      (R.HOST_QBV_BASE_HI.at n, 0xFFFFFFFF)] ++ (List.range 64).map (fun j => (R.HOST_GCL.at n j, 0xFFFFFFFF))

/-- The address of a group's commit register. -/
def Group.commit : Group → Nat
  | .vch n => R.ACQ_VCH_COMMIT.at n | .ae n => R.ACQ_AE_COMMIT.at n | .sp n => R.ACQ_SP_COMMIT.at n
  | .sl n => R.ACQ_SL_COMMIT.at n | .dp n => R.ACQ_DP_COMMIT.at n | .st n => R.ACQ_ST_COMMIT.at n
  | .sig n => R.SIG_ST_COMMIT.at n | .ao n => R.OUT_AO_COMMIT.at n | .qbv n => R.HOST_QBV_COMMIT.at n

/-- A group's disagree flag and instance. -/
def Group.flag : Group → Fld × Nat
  | .vch n => (F.ACQ_VCH_STAT_DISAGREE, n) | .ae n => (F.ACQ_AE_STAT_DISAGREE, n) | .sp n => (F.ACQ_SP_STAT_DISAGREE, n)
  | .sl n => (F.ACQ_SL_STAT_DISAGREE, n) | .dp n => (F.ACQ_DP_STAT_DISAGREE, n) | .st n => (F.ACQ_ST_STAT_DISAGREE, n)
  | .sig n => (F.SIG_ST_STAT_DISAGREE, n) | .ao n => (F.OUT_AO_STAT_DISAGREE, n) | .qbv n => (F.HOST_QBV_STAT_DISAGREE, n)

/-- A group's ARMED bit; none for the write-committed groups. -/
def Group.armedBit : Group → Option (Fld × Nat)
  | .vch n => some (F.ACQ_VCH_STAT_ARMED, n) | .ae n => some (F.ACQ_AE_STAT_ARMED, n) | .sp n => some (F.ACQ_SP_STAT_ARMED, n)
  | .sl n => some (F.ACQ_SL_STAT_ARMED, n) | .dp n => some (F.ACQ_DP_STAT_ARMED, n) | .st n => some (F.ACQ_ST_STAT_ARMED, n)
  | .sig n => some (F.SIG_ST_STAT_ARMED, n) | .ao _ => none | .qbv _ => none

/-- The counter of disagreeing groups of the group's block, where the block has one. -/
def Group.blockCount : Group → Option Fld
  | .sig _ => none | .qbv _ => none | .ao _ => some F.OUT_STAT_DISAGREE | _ => some F.ACQ_STAT_DISAGREE

/-- The group whose field register lies at an address. -/
def groupAt (a : Nat) : Option Group := allGroups.find? (fun g => g.fields.any (fun x => x.1 == a))

/-- The group whose commit register lies at an address. -/
def groupCommit (a : Nat) : Option Group := allGroups.find? (fun g => g.commit == a)

/-- The acquisition channels a group sets (Table 10-1). -/
def Group.channels : Group → List Nat
  | .vch n => [n] | .ae n => [16 + n] | .sp n => [18 + n] | .sl n => [22 + n]
  | .dp n => (List.range 16).map (fun j => 30 + 16 * n + j) | _ => []

/-! ### Members, owners and agreement -/

/-- Whether channel `c` is a member in a mask of three words (R308). -/
def memberIn (m0 m1 m2 : Nat) (c : Nat) : Bool := if c < 32 then bit m0 c else if c < 64 then bit m1 (c - 32) else bit m2 (c - 64)

/-- Whether channel `c` is a member of stream definition `n` as applied. -/
def State.isMember (s : State) (n c : Nat) : Bool :=
  memberIn (s.rget R.ACQ_ST_MEMB0 n) (s.rget R.ACQ_ST_MEMB1 n) (s.rget R.ACQ_ST_MEMB2 n) c

/-- The members of stream definition `n`, ascending. -/
def State.members (s : State) (n : Nat) : List Nat := (List.range 96).filter (s.isMember n)

def State.acqRuns (s : State) (n : Nat) : Bool := s.flag F.ACQ_ST_STAT_RUN n

/-- The running stream that owns a group (R67, R317); none where the group applies at its commit write. -/
def State.owner (s : State) (g : Group) : Option Nat :=
  match g with
  | .st n => if s.acqRuns n then some n else none
  | .sig n => if s.acqRuns n then some n else none
  | .ao _ => none
  | .qbv _ => none
  | _ => (List.range 16).find? (fun n => s.acqRuns n && g.channels.any (s.isMember n))

/-- Most samples and element bytes of a member's block, for Wmax (R309). -/
def blockMax (period edgemax c : Nat) : Nat × Nat :=
  if c < 16 then (ceilDiv period 5120, 4)
  else if c < 18 then (ceilDiv period 100, 2)
  else if c < 22 then (edgemax, 8)
  else if c < 30 ∨ 94 ≤ c then (ceilDiv period 1000000, 4)
  else (ceilDiv period 20480, 4)

/-- Wmax of a definition (R309). -/
def windowMax (period edgemax : Nat) (memb : List Nat) : Nat :=
  memb.foldl (fun w c => let x := blockMax period edgemax c; w + roundUp (64 + x.1 * x.2) 256) 256

/-- EDGEMAX as it acts: 0 acts as 4,096. -/
def edgeMax (v : Nat) : Nat := if bits v 16 16 = 0 then 4096 else bits v 16 16

/-- Whether the two order-table buffers of `noutl` from `tbase` lie wholly in AM (R335). -/
def State.tablesInAm (s : State) (tbase noutl : Nat) : Bool :=
  s.loc (tbase * 256) == .am && s.loc (tbase * 256 + 8 * 2 ^ noutl - 1) == .am

/-- Safety entries that name an input: kind, and the input bytes of the entry (R419). -/
def State.safetyNames (s : State) (kind ch : Nat) : Bool :=
  s.safe.fns.any (fun f => f.kind == kind && (leAt f.bytes 0 1 == ch || (kind == 2 && leAt f.bytes 1 1 == ch)))

/-- Whether the shadows of a group agree (R300, R304, R306, R309, R335, R419, R449, R469). -/
def State.agrees (s : State) (g : Group) : Bool :=
  let sh (a : Nat) : Nat := (s.shadow a).toNat
  match g with
  | .vch n =>
    let v := sh (R.ACQ_VCH_CFG.at n)
    let mode := bits v 0 2
    let icur := bits v 4 2
    (mode == 1) == (icur != 0) && bits v 8 2 != 3 &&
    !(s.safetyNames 1 n && (v &&& 0x333) != (s.rget R.ACQ_VCH_CFG n &&& 0x333))
  | .ae _ => true
  | .sp n =>
    let v := sh (R.ACQ_SP_CFG.at n)
    bits v 0 2 != 3 && bits v 4 2 != 3 && !(s.safetyNames 2 n && bits v 0 2 != s.fget F.ACQ_SP_CFG_MODE n)
  | .sl n => !(s.safetyNames 3 n && bits (sh (R.ACQ_SL_CFG.at n)) 0 2 != s.fget F.ACQ_SL_CFG_MODE n)
  | .dp n =>
    let v := sh (R.ACQ_DP_CFG.at n)
    bits v 0 2 != 3 && !(bits v 0 2 == 2 && decide (20480 * 2 ^ bits v 4 2 < popCount 16 (bits v 16 16) * 2760))
  | .st n =>
    let period := bits (sh (R.ACQ_ST_PERIOD.at n)) 0 30
    let reg := sh (R.ACQ_ST_REGION.at n)
    let cr := bits reg 0 6
    let memb := (List.range 96).filter (memberIn (sh (R.ACQ_ST_MEMB0.at n)) (sh (R.ACQ_ST_MEMB1.at n)) (sh (R.ACQ_ST_MEMB2.at n)))
    let w := windowMax period (edgeMax reg) memb
    decide (4166667 ≤ period) && decide (period ≤ 1000000000) && s.flag F.MEM_CR_CFG_EN cr && !s.flag F.MEM_CR_CFG_INVALID cr &&
    !(List.range 16).any (fun m => m != n && s.acqRuns m && s.fget F.ACQ_ST_REGION_CR m == cr) &&
    decide (2 * w ≤ s.crSize cr) && decide (w ≤ 0x1000000)
  | .sig n =>
    let ord := sh (R.SIG_ST_ORD.at n)
    let noutl := bits ord 8 5
    let lo := sh (R.SIG_ST_TBASE.at n) * 256
    let epr := f32 (sh (R.SIG_ST_EPR.at n))
    !bit ord 31 ||
    (decide (4 ≤ bits ord 16 4) && decide (bits ord 16 4 ≤ 12) && decide (8 ≤ noutl) && decide (noutl ≤ 16) &&
     !epr.isNaN && !epr.isInf && (FV.ofInt 0).lt epr && s.tablesInAm (sh (R.SIG_ST_TBASE.at n)) noutl &&
     !(List.range 16).any (fun m => m != n && s.flag F.SIG_ST_ORD_EN m &&
        decide (lo < s.rget R.SIG_ST_TBASE m * 256 + 8 * 2 ^ s.fget F.SIG_ST_ORD_NOUTL m) &&
        decide (s.rget R.SIG_ST_TBASE m * 256 < lo + 8 * 2 ^ noutl)))
  | .ao n =>
    aoAgrees (bits (sh (R.OUT_AO_CFG.at n)) 0 3) (toSigned 32 (sh (R.OUT_AO_LO.at n))) (toSigned 32 (sh (R.OUT_AO_HI.at n)))
  | .qbv n =>
    let len := bits (sh (R.HOST_QBV_CFG.at n)) 0 7
    let es := (List.range (min len 64)).map (fun j => sh (R.HOST_GCL.at n j))
    !(bit (sh (R.HOST_QBV_CFG.at n)) 31 && len == 0) && decide (len ≤ 64) &&
    16 * es.foldl (fun a e => a + bits e 0 24) 0 == sh (R.HOST_QBV_CYCLE.at n) && es.all (fun e => bit e 31)

/-! ### Channel histories -/

def State.chan (s : State) (c : Nat) : Chan := Sparse.get (fun _ => Chan.fresh) s.acq.chans c

def State.setChan (s : State) (c : Nat) (x : Chan) : State :=
  { s with acq := { s.acq with chans := Sparse.put (fun _ => Chan.fresh) s.acq.chans c x } }

def State.acqStream (s : State) (n : Nat) : AcqStream := Sparse.get (fun _ => AcqStream.fresh) s.acq.streams n

def State.setAcq (s : State) (n : Nat) (x : AcqStream) : State :=
  { s with acq := { s.acq with streams := Sparse.put (fun _ => AcqStream.fresh) s.acq.streams n x } }

/-- The entries of a history that a window still open can need: those younger than 2·10^9 cycles, and the one before them. -/
def trimHist (now : Nat) (h : List (Nat × Nat)) : List (Nat × Nat) :=
  let new := h.filter (fun e => decide (now < e.1 + 2000000000))
  new ++ (h.filter (fun e => !decide (now < e.1 + 2000000000))).take 1

/-- The value of a history in force at cycle `t`; `d` before its first entry. -/
def histAt (d : Nat) (h : List (Nat × Nat)) (t : Nat) : Nat := (h.find? (fun e => decide (e.1 ≤ t))).elim d (·.2)

/-- The channel under which a channel's settings are kept: a digital port's under its slot 0. -/
def settingChan (c : Nat) : Nat := if 30 ≤ c ∧ c < 94 then 30 + (c - 30) / 16 * 16 else c

/-- The CFG register of a channel; none for channels 94 and 95. -/
def cfgReg (c : Nat) : Option (RegDesc × Nat) :=
  if c < 16 then some (R.ACQ_VCH_CFG, c) else if c < 18 then some (R.ACQ_AE_CFG, c - 16)
  else if c < 22 then some (R.ACQ_SP_CFG, c - 18) else if c < 30 then some (R.ACQ_SL_CFG, c - 22)
  else if c < 94 then some (R.ACQ_DP_CFG, (c - 30) / 16) else none

/-- The CFG value applied to a channel at cycle `t` (KEEP, which is not staged, left out). -/
def State.cfgAt (s : State) (c t : Nat) : Nat :=
  match cfgReg c with
  | some r => histAt (r.1.reset.toNat) (s.chan (settingChan c)).cfg t
  | none => 0

/-- Note the CFG value a channel group has just had applied (R318), where it differs from the one before. -/
def State.noteCfg (s : State) (g : Group) : State :=
  match g.channels with
  | [] => s
  | c :: _ =>
    match cfgReg c with
    | none => s
    | some r =>
      let v := s.rget r.1 r.2 &&& (match g.fields with | f :: _ => f.2.toNat | [] => 0)
      let x := s.chan c
      if histAt r.1.reset.toNat x.cfg s.now = v then s
      else s.setChan c { x with cfg := trimHist s.now ((s.now, v) :: x.cfg) }

/-- Note the flags OPEN, SHORT and SETTLE of a vibration channel from this cycle on. -/
def State.noteCond (s : State) (c : Nat) : State :=
  let v := 2 * b2n (s.flag F.ACQ_VCH_STAT_OPEN c) + 4 * b2n (s.flag F.ACQ_VCH_STAT_SHORT c) +
    16 * b2n (s.flag F.ACQ_VCH_STAT_SETTLING c)
  let x := s.chan c
  if histAt 0 x.cond s.now = v then s else s.setChan c { x with cond := trimHist s.now ((s.now, v) :: x.cond) }

/-- A vibration channel begins to settle (R302). -/
def State.beginSettle (s : State) (c : Nat) : State :=
  let s := s.setFlag F.ACQ_VCH_STAT_SETTLING true c
  (s.setChan c { s.chan c with okFrom := 0 }).noteCond c

/-- What an applied vibration group does beyond its registers (R301, R302): a current source switched on begins a settling; outside
IEPE mode OPEN, SHORT and SETTLING clear, without a card. DEDUCED, safe. -/
def State.vchApplied (s : State) (n old : Nat) : State :=
  let mode := s.fget F.ACQ_VCH_CFG_MODE n
  let s := if mode = 1 then s
    else
      let s := ((s.setFlag F.ACQ_VCH_STAT_OPEN false n).setFlag F.ACQ_VCH_STAT_SHORT false n).setFlag F.ACQ_VCH_STAT_SETTLING false n
      let s := s.fset F.ACQ_VCH_STAT_VALUE 0 n
      (s.setChan n { s.chan n with above := 0, below := 0, within := 0, okFrom := 0 }).noteCond n
  if mode = 1 ∧ bits old 4 2 = 0 then s.beginSettle n else s

/-- The order-tracking buffers of stream definition `n` become invalid and HCOUNT 0 (R335, R340). -/
def State.orderReset (s : State) (n : Nat) : State :=
  let s := ((s.setFlag F.SIG_ST_STAT_TVALID false n).setFlag F.SIG_ST_STAT_READY false n).fset F.SIG_ST_STAT_HCOUNT 0 n
  let s := (s.setFlag F.SIG_ST_STAT_FRONT false n).setFlag F.SIG_ST_STAT_PENDING false n
  let s := s.setAcq n { s.acqStream n with tables := [] }
  { s with acq := { s.acq with builds := s.acq.builds.filter (fun b => b.1 != n) } }

/-! ### Applying a group (R67, R69) -/

/-- Take the shadows of a group as its applied state. -/
def State.takeShadows (s : State) (g : Group) : State :=
  g.fields.foldl (fun s f =>
    let old := s.rd f.1
    (s.wr f.1 ((old &&& ~~~f.2) ||| (s.shadow f.1 &&& f.2))).dropShadow f.1) s

/-- A group has agreed or disagreed: its flag and the counters of disagreeing groups (R69). -/
def State.setDisagree (s : State) (g : Group) (b : Bool) : State :=
  let was := s.flag g.flag.1 g.flag.2
  let s := s.setFlag g.flag.1 b g.flag.2
  let move (s : State) (f : Fld) : State :=
    if b && !was then s.fcount f else if was && !b then s.fset f (s.fget f - 1) else s
  let s := move s F.BOOT_STAT_DISAGREE
  match g.blockCount with
  | some f => move s f
  | none => s

/-- Apply a group: an agreeing combination is taken, one that disagrees leaves the applied state and is reported (R69). -/
def State.applyGroup (s : State) (g : Group) : State :=
  if s.agrees g then
    let old := (g.fields.map (fun f => (s.rd f.1).toNat)).headD 0
    let changed := g.fields.any (fun f => (s.rd f.1 ^^^ s.shadow f.1) &&& f.2 != 0)
    let s := (s.takeShadows g).setDisagree g false
    let s := s.noteCfg g
    match g with
    | .vch n => s.vchApplied n old
    | .st n => s.setAcq n { s.acqStream n with hasDef := true }
    | .sig n => if changed then s.orderReset n else s
    | .ao n => s.aoApplied n (bits old 0 3)
    | _ => s
  else
    (s.setDisagree g true).card { block := 4, event := 1, detail := leBytes 4 (g.commit - 0x0200000000) }

/-- Whether a group is armed. -/
def State.isArmed (s : State) (g : Group) : Bool := s.armed.any (fun x => x.1 == g.commit)

/-- Show a group's ARMED bit. -/
def State.showArmed (s : State) (g : Group) : State :=
  match g.armedBit with
  | some b => s.setFlag b.1 (s.isArmed g) b.2
  | none => s

/-- Disarm a group (R68). -/
def State.disarm (s : State) (g : Group) : State :=
  { s with armed := s.armed.filter (fun x => x.1 != g.commit) }.showArmed g

/-- A commit write: a write-committed group, or one whose owning stream does not run, applies at once; else it is armed for that
stream's next frame close (R67, R68, R317). -/
def State.commitGroup (s : State) (g : Group) : State :=
  match s.owner g with
  | none => (s.disarm g).applyGroup g
  | some n => if s.isArmed g then s else { s with armed := s.armed ++ [(g.commit, n)] }.showArmed g

/-- Apply the armed groups that stream `n` owns, at its frame close or in the cycle in which it stops (R67, R338). -/
def State.applyArmed (s : State) (n : Nat) : State :=
  (allGroups.filter (fun g => s.armed.contains (g.commit, n))).foldl (fun s g => (s.disarm g).applyGroup g) s

/-- The write of a group's field register: staged bits go to the shadow, the others take effect, and an armed group is disarmed
(R66, R68). -/
def State.writeStaged (s : State) (g : Group) (a : Nat) (v : Word) : State :=
  match g.fields.find? (fun f => f.1 == a), findReg a with
  | some f, some r =>
    let s := s.wr a ((s.rd a &&& f.2) ||| (r.1.written s.locked (s.rd a) v &&& ~~~f.2))
    (s.setShadow a ((s.shadow a &&& ~~~f.2) ||| (v &&& f.2))).disarm g
  | _, _ => s

/-- STAGED_FIELD_WRITE: a write to a field of a staged group by home (R66, R68, R129). Before the end of step 8 too only the shadow
changes (R70). -/
def execStagedFieldWrite (r : Req) (a : Addr) (v : Word) (s : State) : Out State :=
  .next (
    if a.toNat = R.SYS_WALLOFS_LO.at then s.asHome r a.toNat (fun s => s.setShadow a.toNat v)
    else match groupAt a.toNat with
      | none => s
      | some g => s.asHome r a.toNat (fun s => s.writeStaged g a.toNat v))

/-- STAGED_COMMIT_WRITE: a commit write by home (R67, R68). A write without GO does nothing. -/
def execStagedCommitWrite (r : Req) (a : Addr) (v : Word) (s : State) : Out State :=
  .next (match groupCommit a.toNat with
    | none => s
    | some g => s.asHome r a.toNat (fun s => if bit v.toNat 0 then s.commitGroup g else s))

end Sys2Proof.Machine
end

