-- ==== Sys2Proof/Machine/Order.lean ====
section
/-! DEFINITION. Order tracking (R335 to R340): the fitted speed profile, the order tables and what each frame latches. -/

namespace Sys2Proof.Machine

/-! ### The fit (R336) -/

/-- A rational times a power of two, rounded once to FP64. The order of roundings of the least-squares fit is not given; the
exact solution is rounded once. DEDUCED, unsafe in the last place. -/
def ratF64 (num den e : Int) : Nat :=
  match (FV.ofInt num).div (FV.ofInt den) with
  | (.fin n m q, sticky) => FFmt.f64.encode (.fin n m (q + e)) sticky
  | (v, sticky) => FFmt.f64.encode v sticky

/-- The sum of `x^k` over a list, and of `i·x^k` with the position `i`. -/
def powSum (xs : List Nat) (k : Nat) : Int := xs.foldl (fun a x => a + ((x ^ k : Nat) : Int)) 0
def posSum (xs : List Nat) (k : Nat) : Int := xs.zipIdx.foldl (fun a x => a + ((x.2 * x.1 ^ k : Nat) : Int)) 0

/-- A 3 by 3 determinant, by rows. -/
def det3 (a b c d e f g h i : Int) : Int := a * (e * i - f * h) - b * (d * i - f * g) + c * (d * h - e * g)

/-- The fit of θ = c + f·τ + ½·a·τ² to edges `xs` cycles after OPEN: f and a in FP64 (R336). `epr` is an FP32 pattern. -/
def fitProfile (epr : Nat) (xs : List Nat) : Option (Nat × Nat) :=
  match f32 epr with
  | .fin _ m e =>
    let s (k : Nat) : Int := powSum xs k
    let t (k : Nat) : Int := posSum xs k
    let det := det3 (s 0) (s 1) (s 2) (s 1) (s 2) (s 3) (s 2) (s 3) (s 4)
    if xs.length < 3 ∨ det = 0 ∨ m = 0 then none
    else
      let df := det3 (s 0) (t 0) (s 2) (s 1) (t 1) (s 3) (s 2) (t 2) (s 4)
      let db := det3 (s 0) (s 1) (t 0) (s 1) (s 2) (t 1) (s 2) (s 3) (t 2)
      some (ratF64 (df * 1000000000) (det * m) (-e), ratF64 (2 * db * 1000000000000000000) (det * m) (-e))
  | _ => none

/-- Two FP64 patterns as integers at a common power of two, at most `q`. -/
def atCommon (a b : Nat) (q : Int) : Int × Int × Int :=
  match FFmt.f64.decode a, FFmt.f64.decode b with
  | .fin na ma ea, .fin nb mb eb =>
    let e := min q (min ea eb)
    (FV.at na ma ea e, FV.at nb mb eb e, e)
  | _, _ => (0, 0, q)

/-- Whether `a·2^q > b`. -/
def gtPow (a : Nat) (q : Int) (b : Nat) : Bool :=
  if 0 ≤ q then decide (b < a * 2 ^ q.toNat) else decide (b * 2 ^ (-q).toNat < a)

/-- Whether the deviation of profile `(f, a)` from `(ft, at')` over a window of `len` cycles exceeds `tol`/16 output points
(R337). -/
def deviates (f a ft at' pprl len tol : Nat) : Bool :=
  let sub (x y : Nat) : Nat := FFmt.f64.encode ((FFmt.f64.decode x).sub (FFmt.f64.decode y))
  let c := atCommon (sub f ft) (sub a at') 0
  let df := c.1
  let da := c.2.1
  let scale := 16 * 2 ^ pprl
  let atEnd := (2000000000 * df * len + da * len * len).natAbs * scale
  let peak := da ≠ 0 ∧ 0 < -df * da ∧ 1000000000 * df.natAbs < len * da.natAbs
  gtPow atEnd c.2.2 (tol * 2000000000000000000) || (decide peak && gtPow (df.natAbs * df.natAbs * scale) c.2.2 (2 * tol * da.natAbs))

/-! ### Order tables (R337) -/

/-- Whether τ_m is at least n − ½ cycles, for a profile and an angle as integers at one power of two (n ≥ 1): the least root τ
satisfies τ·(f + √(f² + 2aθ)) = 2θ. -/
def rootReaches (f a th : Int) (n : Nat) : Bool :=
  let d := f * f + 2 * a * th
  let k : Int := 2 * n - 1
  let r := 4000000000 * th - k * f
  decide (0 ≤ r) && decide (k * k * d ≤ r * r)

/-- Entry m of a table: the least τ ≥ 0 with f·τ + ½·a·τ² = m / PPR, in cycles, rounded to nearest with ties upward; none where
no such τ exists. -/
def tableEntry (f a pprl m : Nat) : Option Nat :=
  if m = 0 then some 0
  else
    let c := atCommon f a (-(pprl : Int))
    let fi := c.1
    let ai := c.2.1
    let th : Int := ((m * 2 ^ (-c.2.2 - pprl).toNat : Nat) : Int)
    let d := fi * fi + 2 * ai * th
    if d < 0 ∨ (fi ≤ 0 ∧ ai ≤ 0) ∨ (fi < 0 ∧ d ≤ fi * fi) then none
    else
      let den := fi * 2 ^ 32 + (isqrt (d.toNat * 2 ^ 64) : Nat)
      let n0 := if 0 < den then ((4000000000 * th * 2 ^ 32 + den) / (2 * den)).toNat else 2 ^ 33
      let ok (n : Nat) : Bool := n == 0 || rootReaches fi ai th n
      some (if ok (n0 + 1) then n0 + 1 else if ok n0 then n0 else n0 - 1)

/-- The entries m, m + 1, … of a table: 0xFFFF_FFFF from the first that has no τ below 2^32. -/
def tableFrom (f a pprl : Nat) : Nat → Nat → List Nat
  | 0, _ => []
  | k + 1, m =>
    match tableEntry f a pprl m with
    | some t => if t < 2 ^ 32 then t :: tableFrom f a pprl k (m + 1) else List.replicate (k + 1) 0xFFFFFFFF
    | none => List.replicate (k + 1) 0xFFFFFFFF

/-- The address of order-table buffer `b` of stream definition `n`. -/
def State.tableAddr (s : State) (n b : Nat) : Nat :=
  s.rget R.SIG_ST_TBASE n * 256 + b * 4 * 2 ^ s.fget F.SIG_ST_ORD_NOUTL n

/-- The front buffer, and the back one. -/
def State.front (s : State) (n : Nat) : Nat := s.fget F.SIG_ST_STAT_FRONT n
def State.back (s : State) (n : Nat) : Nat := 1 - s.front n

/-- Request a build for stream `n`: its pending request is replaced in its place (R337). The place is a DESIGN CHOICE, safe. -/
def State.requestBuild (s : State) (n f a : Nat) : State :=
  let b := s.acq.builds
  let b := if b.any (fun x => x.1 == n) then b.map (fun x => if x.1 = n then (n, f, a) else x) else b ++ [(n, f, a)]
  { s with acq := { s.acq with builds := b } }.setFlag F.SIG_ST_STAT_PENDING true n

/-- Change the latch of a frame of stream `n`. -/
def State.onLatch (s : State) (n opn : Nat) (f : Latch → Latch) : State :=
  let x := s.acqStream n
  s.setAcq n { x with flight := x.flight.map (fun l => if l.opn = opn then f l else l) }

/-- The profile of the table in force, or of a READY one where none is. -/
def State.tableProfile (s : State) (n : Nat) : Option (Nat × Nat) :=
  let at' (b : Nat) := ((s.acqStream n).tables.find? (fun t => t.1 == b)).map (·.2)
  if s.flag F.SIG_ST_STAT_TVALID n then at' (s.front n) else if s.flag F.SIG_ST_STAT_READY n then at' (s.back n) else none

/-- PROFILE_FIT: what the completion of a window with edges `xs` (cycles after OPEN) does (R336, R337). -/
def State.profileFit (s : State) (n opn close : Nat) (xs : List Nat) : State :=
  if !s.flag F.SIG_ST_ORD_EN n then s
  else
    match fitProfile (s.rget R.SIG_ST_EPR n) xs with
    | none => s
    | some (f, a) =>
      let f' := toF32 (FFmt.f64.decode f)
      let a' := toF32 (FFmt.f64.decode a)
      let s := (s.rset R.SIG_ST_FITF f' n).rset R.SIG_ST_FITA a' n
      let s := s.onLatch n opn (fun l => { l with fit := some (f', a') })
      match s.tableProfile n with
      | none => s.requestBuild n f a
      | some (ft, at') =>
        if !deviates f a ft at' (s.fget F.SIG_ST_ORD_PPRL n) (close - opn) (s.fget F.SIG_ST_CTL_TOL n) then s
        else
          let s := s.requestBuild n f a
          let x := s.acqStream n
          let hit := x.flight.any (fun l => l.opn == opn && l.buf.isSome)
          let last := match x.flight.getLast? with | some l => l.opn == opn | none => false
          let s := if hit then s.onLatch n opn (fun l => { l with stale := true }) else s
          if hit && last then s.setFlag F.SIG_ST_STAT_STALE true n else s

/-- ORDER_TABLE_BUILD: the builder takes the oldest request whose back buffer no frame in flight has latched, writes its table
and makes it READY (R337, R338). -/
def execOrderTableBuild (s : State) : Out State :=
  .next (
    match s.acq.builds.find? (fun b => !(s.acqStream b.1).flight.any (fun l => l.buf == some (s.back b.1))) with
    | none => s
    | some (n, f, a) =>
      let b := s.back n
      let es := tableFrom f a (s.fget F.SIG_ST_ORD_PPRL n) (2 ^ s.fget F.SIG_ST_ORD_NOUTL n) 0
      let s := s.store (s.tableAddr n b) (es.flatMap (leBytes 4))
      let x := s.acqStream n
      let s := s.setAcq n { x with tables := (b, f, a) :: x.tables.filter (fun t => t.1 != b) }
      let s := { s with acq := { s.acq with builds := s.acq.builds.filter (fun y => y.1 != n) } }
      let s := (s.setFlag F.SIG_ST_STAT_READY true n).setFlag F.SIG_ST_STAT_PENDING false n
      (s.count R.SIG_BUILDS).fset F.SIG_STAT_BLDSTREAM n)

/-- What the close of a window of stream `n` does to order tracking (R338): a READY back buffer becomes the front one, a frame
that enters flight latches it, HCOUNT advances. -/
def State.orderClose (s : State) (n : Nat) (w : Window) (close : Nat) (flies : Bool) : State :=
  let swap := s.flag F.SIG_ST_STAT_READY n
  let s := if swap then ((s.fset F.SIG_ST_STAT_FRONT (s.back n) n).setFlag F.SIG_ST_STAT_TVALID true n).setFlag F.SIG_ST_STAT_READY false n
    else s
  let h := if w.first then 1 else satAdd 8 (s.fget F.SIG_ST_STAT_HCOUNT n) 1
  let s := s.fset F.SIG_ST_STAT_HCOUNT h n
  if !flies then s
  else
    let buf := if s.flag F.SIG_ST_STAT_TVALID n then some (s.front n) else none
    let l : Latch := { frame := w.frame, opn := w.opn, close := close, buf := buf, base := s.tableAddr n (s.front n),
                       noutl := s.fget F.SIG_ST_ORD_NOUTL n, pprl := s.fget F.SIG_ST_ORD_PPRL n, fit := none, stale := false, hcount := h }
    let x := s.acqStream n
    let s := s.setAcq n { x with flight := x.flight ++ [l] }
    s.setFlag F.SIG_ST_STAT_STALE false n

/-- A frame of stream `n` leaves flight (R314, R344). -/
def State.leaveFlight (s : State) (n frame : Nat) : State :=
  let x := s.acqStream n
  let s := s.setAcq n { x with flight := x.flight.filter (fun l => l.frame != frame) }
  s.fset F.ACQ_ST_STAT_INFLIGHT (s.acqStream n).flight.length n

end Sys2Proof.Machine
end

