-- ==== Sys2Proof/Machine/Acq.lean ====
section
/-! DEFINITION. Acquisition and streams (spec/10): samples and edges as they reach the stream logic, the windows of the stream
definitions, frame closes, and the arrival of a window with its headers and flags. -/

namespace Sys2Proof.Machine

/-! ### Channels and their schedules (R295, R296, R306) -/

/-- Whether a channel is on under a CFG value. -/
def chanOn (c v : Nat) : Bool :=
  if c < 16 then bits v 0 2 != 0
  else if c < 18 then bit v 0
  else if c < 22 then bits v 0 2 == 1 || bits v 0 2 == 2
  else if c < 30 then bits v 0 2 != 0
  else if c < 94 then (bits v 0 2 == 1 || bits v 0 2 == 2) && bit v (16 + (c - 30) % 16)
  else true

/-- The sample period of a channel under a CFG value; 0 for a speed input. -/
def chanPeriod (c v : Nat) : Nat :=
  if c < 16 then 5120 * 2 ^ bits v 12 2
  else if c < 18 then 100
  else if c < 22 then 0
  else if 30 ≤ c ∧ c < 94 then 20480 * 2 ^ bits v 4 2
  else 1000000

/-- The offset of a channel's sample times from the multiples of its period: an SPI slot's rank among the enabled slots (R306). -/
def chanOffset (c v : Nat) : Nat :=
  if 30 ≤ c ∧ c < 94 ∧ bits v 0 2 = 2 then 2760 * popCount ((c - 30) % 16) (bits v 16 16) else 0

/-- The sample times of a channel under a CFG value from `a` up to `b`. -/
def sampleTimes (c v a b : Nat) : List Nat :=
  let p := chanPeriod c v
  if !chanOn c v ∨ p = 0 then []
  else
    let o := chanOffset c v
    let first := roundUp (a - o) p + o
    (List.range (ceilDiv (b - first) p)).map (fun k => first + k * p)

/-- The cycles at which a channel's applied settings changed within `(a, b)`, ascending, with the new value. -/
def State.changes (s : State) (c a b : Nat) : List (Nat × Nat) :=
  ((s.chan (settingChan c)).cfg.filter (fun e => decide (a < e.1) && decide (e.1 < b))).reverse

/-- The spans of constant settings of `[a, b)`: start, end, CFG value. -/
def spansFrom (b : Nat) : Nat → Nat → List (Nat × Nat) → List (Nat × Nat × Nat)
  | a, v, [] => [(a, b, v)]
  | a, v, e :: t => (a, e.1, v) :: spansFrom b e.1 e.2 t

def State.spans (s : State) (c a b : Nat) : List (Nat × Nat × Nat) := spansFrom b a (s.cfgAt c a) (s.changes c a b)

/-- The sample times of channel `c` in `[a, b)` under the settings in force (R312). -/
def State.times (s : State) (c a b : Nat) : List Nat := (s.spans c a b).flatMap (fun x => sampleTimes c x.2.2 x.1 x.2.1)

/-! ### Samples reaching the stream logic -/

/-- A sample entered in a list that its times order. -/
def insertSample (x : Sample) : List Sample → List Sample
  | [] => [x]
  | y :: t => if x.t < y.t then x :: y :: t else if x.t = y.t then y :: t else y :: insertSample x t

/-- Whether a sample of channel `c` with time `t` belongs to a window (R310). -/
def Window.takes (w : Window) (c t : Nat) : Bool :=
  w.memb.contains c && decide (w.opn ≤ t) && (match w.close with | some z => decide (t < z) | none => true)

/-- The samples of a channel that a window holds. -/
def Window.of (w : Window) (c : Nat) : List Sample := Sparse.get (fun _ => []) w.got c

/-- A sample or edge enters a window. The edges of a closed window's speed block are fixed, and only the first EDGEMAX are
delivered (R313, EDGELOST). -/
def Window.add (w : Window) (c : Nat) (x : Sample) : Window :=
  if !w.takes c x.t then w
  else if 18 ≤ c ∧ c < 22 ∧ (w.close.isSome ∨ w.edgemax ≤ (w.of c).length) then
    { w with lost := if w.lost.contains c then w.lost else c :: w.lost }
  else { w with got := Sparse.put (fun _ => []) w.got c (insertSample x (w.of c)) }

/-- Act on every window of every stream. -/
def State.onWindows (s : State) (f : Window → Window) : State :=
  { s with acq := { s.acq with streams := s.acq.streams.map (fun x => (x.1, { x.2 with wins := x.2.wins.map f })) } }

/-- A sample of channel `c` reaches every stream that has it as a member (R308), and the ledger, whose torque source it may be
(R398). -/
def State.deliver (s : State) (c : Nat) (x : Sample) : State :=
  let s := s.onWindows (fun w => w.add c x)
  if leAt s.ledger.profile 0 1 = c ∧ 22 ≤ c ∧ c ≤ 93 then
    { s with ledger := { s.ledger with src := some (toSigned 32 x.v, x.flags) } }
  else s

/-- Whether the front ends deliver samples: not in Recess (R320), where the slow inputs serve wake comparison only. -/
def State.frontEnds (s : State) : Bool := s.fget F.PWR_STAT_STATE != 2 && s.fget F.PWR_STAT_STATE != 3

/-- The code of a sample as the link delivers it: zero with SENSOR while the link is down (R322). -/
def State.linked (s : State) (t v flags : Nat) : Sample := if s.acqDown then ⟨t, 0, 0x40⟩ else ⟨t, v, flags⟩

/-- SAMPLE_AVAILABLE: a sample of a vibration, acoustic-emission or internal channel, with the fault its front end reports (R296,
R297, R299). A code at a limit of its range carries OVR. -/
def execSampleAvailable (c : Fin 96) (t : DWord) (code : Word) (fault : Bool) (s : State) : Out State :=
  .next (
    let ch := c.val
    let v := s.cfgAt ch t.toNat
    let p := chanPeriod ch v
    if (18 ≤ ch ∧ ch < 94) ∨ !chanOn ch v ∨ t.toNat % p ≠ 0 ∨ !s.frontEnds then s
    else
      let x := toSigned 32 code.toNat
      let ovr := if ch < 16 then decide (8388607 ≤ x) || decide (x ≤ -8388608)
        else if ch < 18 then decide (32767 ≤ x) || decide (x ≤ -32768) else false
      s.deliver ch (s.linked t.toNat code.toNat (8 * b2n ovr + 0x40 * b2n fault)))

/-- SPEED_EDGE: an edge of speed input `k` recognised at `t` (R304): one within 2 µs of the last is discarded. -/
def execSpeedEdge (k : Fin 4) (t : DWord) (s : State) : Out State :=
  .next (
    let ch := 18 + k.val
    let t := t.toNat
    let x := s.chan ch
    if !chanOn ch (s.cfgAt ch t) then s
    else if x.lastEdge ≠ 0 ∧ t < x.lastEdge - 1 + 2000 then
      s.onWindows (fun w => if w.takes ch t ∧ w.lost.contains ch = false then { w with lost := ch :: w.lost } else w)
    else
      let s := (s.countWrap R.ACQ_SP_EDGES 1 k.val).setChan ch { x with lastEdge := t + 1 }
      let s := if s.acqDown ∨ !s.frontEnds then s else s.onWindows (fun w => w.add ch ⟨t, 0, 0⟩)
      let spd := leAt s.ledger.profile 1 1
      if bit spd 7 ∧ bits spd 0 2 = k.val then { s with ledger := { s.ledger with edges := t :: s.ledger.edges.take 1 } } else s)

/-- SLOW_SAMPLE: a sample of slow input `k`; in Pt100 mode its line resistance, in mΩ, gives OPEN or SHORT (R305). -/
def execSlowSample (k : Fin 8) (t : DWord) (v ohm : Word) (s : State) : Out State :=
  .next (
    let ch := 22 + k.val
    let cfg := s.cfgAt ch t.toNat
    if !chanOn ch cfg ∨ t.toNat % 1000000 ≠ 0 ∨ !s.frontEnds then s
    else
      let rtd := bits cfg 0 2 == 1
      let opn := rtd && decide (400000 < ohm.toNat)
      let short := rtd && decide (ohm.toNat < 15000)
      let s := (s.setFlag F.ACQ_SL_STAT_OPEN opn k.val).setFlag F.ACQ_SL_STAT_SHORT short k.val
      s.deliver ch (s.linked t.toNat v.toNat (2 * b2n opn + 4 * b2n short)))

/-- DIGITAL_PORT_SAMPLE: port `p` at sample instant `t` receives the words of its slots; a slot that delivers no word reads all ones,
from the pull-ups. In SPI mode it shifts out the command words of the enabled slots (R306, R307). -/
def execDigitalPortSample (p : Fin 4) (t : DWord) (words : List Word) (s : State) : Out State :=
  .next (
    let p := p.val
    let t := t.toNat
    let v := s.cfgAt (30 + 16 * p) t
    let mode := bits v 0 2
    if (mode ≠ 1 ∧ mode ≠ 2) ∨ t % (20480 * 2 ^ bits v 4 2) ≠ 0 ∨ !s.frontEnds then s
    else
      let slots := setBits 16 (bits v 16 16)
      let bad (s : State) (j : Nat) : Bool :=
        ((words.getD j 0xFFFFFFFF).toNat &&& s.rget R.ACQ_SLOT_VMASK (16 * p + j)) != s.rget R.ACQ_SLOT_VVAL (16 * p + j)
      let s := if mode = 2 then slots.foldl (fun s j =>
          s.send (0x600 + 16 * p + s.fget F.ACQ_SLOT_SEL_CS (16 * p + j)) 1 (leBytes 4 (s.rget R.ACQ_SLOT_CMD (16 * p + j)))) s else s
      let s := s.fset F.ACQ_DP_STAT_VALUE (slots.foldl (fun m j => m + b2n (bad s j) * 2 ^ j) 0) p
      slots.foldl (fun s j =>
        let ch := 30 + 16 * p + j
        s.deliver ch (s.linked (t + chanOffset ch v) (words.getD j 0xFFFFFFFF).toNat (0x80 * b2n (bad s j)))) s)

/-- An ACQ report card (Table 14-7): OPEN or SHORT set or cleared, with the bias. -/
def State.acqCard (s : State) (i event mv : Nat) : State :=
  s.card { block := 0x0C, event := event, ukind := 6, ua := i, detail := leBytes 4 mv, die := 5 }

/-- BIAS_MEASURE: the bias of an IEPE channel, in mV (R301): ten consecutive measurements set or clear OPEN and SHORT; the channel
settles after a clearing (R302). -/
def execBiasMeasure (i : Fin 16) (mv : Half) (s : State) : Out State :=
  .next (
    let i := i.val
    let mv := mv.toNat
    if s.fget F.ACQ_VCH_CFG_MODE i ≠ 1 ∨ !s.frontEnds then s
    else
      let hi := decide (s.fget F.ACQ_BIASTH_HI < mv)
      let lo := decide (mv < s.fget F.ACQ_BIASTH_LO)
      let ok := !hi && !lo
      let x := s.chan i
      let x := { x with above := if hi then min 10 (x.above + 1) else 0, below := if lo then min 10 (x.below + 1) else 0,
                        within := if ok then min 10 (x.within + 1) else 0,
                        okFrom := if !ok then 0 else if x.okFrom = 0 then s.now + 1 else x.okFrom }
      let s := (s.setChan i x).fset F.ACQ_VCH_STAT_VALUE mv i
      let s := s.onWindows (fun w =>
        if w.close.isNone ∧ w.memb.contains i then
          { w with bias := Sparse.put (fun _ => 0x10000) w.bias i (min mv (Sparse.get (fun _ => 0x10000) w.bias i)) }
        else w)
      let s := if x.above = 10 ∧ s.flag F.ACQ_VCH_STAT_OPEN i = false then
        (s.setFlag F.ACQ_VCH_STAT_OPEN true i).acqCard i 1 mv else s
      let s := if x.below = 10 ∧ s.flag F.ACQ_VCH_STAT_SHORT i = false then
        (s.setFlag F.ACQ_VCH_STAT_SHORT true i).acqCard i 3 mv else s
      let wasO := s.flag F.ACQ_VCH_STAT_OPEN i
      let wasS := s.flag F.ACQ_VCH_STAT_SHORT i
      let s := if x.within = 10 ∧ wasO = true then (s.setFlag F.ACQ_VCH_STAT_OPEN false i).acqCard i 2 mv else s
      let s := if x.within = 10 ∧ wasS = true then (s.setFlag F.ACQ_VCH_STAT_SHORT false i).acqCard i 4 mv else s
      if x.within = 10 ∧ (wasO = true ∨ wasS = true) then
        (s.setFlag F.ACQ_VCH_STAT_SETTLING true i).setChan i { s.chan i with okFrom := s.now + 1 } |>.noteCond i
      else s.noteCond i)

/-- IEPE_SETTLE_END: the bias of a settling channel has stayed within the limits for ACQ_BSETTLE.MS (R302). -/
def execIepeSettleEnd (i : Fin 16) (s : State) : Out State :=
  .next (
    let x := s.chan i.val
    if s.flag F.ACQ_VCH_STAT_SETTLING i.val = true ∧ x.okFrom ≠ 0 ∧
        x.okFrom - 1 + s.fget F.ACQ_BSETTLE_MS * 1000000 ≤ s.now then
      (s.setFlag F.ACQ_VCH_STAT_SETTLING false i.val).noteCond i.val
    else s)

/-- SUPPLY_SAMPLE: the field supply in mV, measured every 100 µs (R313). -/
def execSupplySample (mv : Half) (s : State) : Out State :=
  .next (
    let low := decide (mv.toNat < s.fget F.ACQ_SUPTH_MV)
    let s := (s.fset F.ACQ_SUPPLY_MV mv.toNat).setFlag F.ACQ_STAT_SUPLOW low
    s.onWindows (fun w => if w.close.isNone then { w with supMin := min w.supMin mv.toNat, supLow := w.supLow || low } else w))

/-! ### Starting, closing and stopping (R310, R314, R316, R594) -/

/-- The tag of a window's arrival: its stream and its OPEN. -/
def windowTag (n opn : Nat) : Nat := 16 * opn + n

/-- Open the next window of stream `n` at cycle `opn` (R310, R594): its arrival starts at RES; it is dropped where its region takes
no arrival (R104). -/
def State.openWindow (s : State) (n opn : Nat) (first config : Bool) : State :=
  let cr := s.fget F.ACQ_ST_REGION_CR n
  let ok := s.crOpen cr
  let reg := s.region cr
  let mv := s.fget F.ACQ_SUPPLY_MV
  let w : Window := { opn := opn, close := none, frame := 0, first := first, config := config, skip := false, region := cr,
                      start := if ok then some reg.res else none, len := 0, memb := s.members n,
                      edgemax := edgeMax (s.rget R.ACQ_ST_REGION n), got := [], lost := [],
                      bias := [], supMin := mv, supLow := s.flag F.ACQ_STAT_SUPLOW, fdTemp := 0, linkDown := s.acqDown }
  let s := s.setAcq n { s.acqStream n with wins := (s.acqStream n).wins ++ [w] }
  if ok then
    s.setRegion cr { reg with opened := reg.opened ++ [(⟨0x58, windowTag n opn, reg.res, 0, false, false, true⟩ : Arrival)] }
  else s.violate (s.fget F.MEM_CR_CFG_CTX cr) 0x58 0xF (s.crBase cr)

/-- Start stream `n` at this cycle, or refuse it (R316). -/
def State.startStream (s : State) (n : Nat) : State :=
  let cr := s.fget F.ACQ_ST_REGION_CR n
  let clash := (List.range 16).any (fun m => m != n && s.acqRuns m && s.fget F.ACQ_ST_REGION_CR m == cr)
  if !(s.acqStream n).hasDef ∨ clash then s.setFlag F.ACQ_ST_STAT_REFUSED true n
  else
    let s := ((s.setFlag F.ACQ_ST_STAT_REFUSED false n).setFlag F.ACQ_ST_STAT_RUN true n).setFlag F.ACQ_ST_STAT_STOPPING false n
    s.openWindow n s.now true false

/-- What a write of EN to ACQ_STn_CTL does: a start, or a stop at the next frame close (R316). Before step 10 it takes effect at
step 10 (Table 10-25). -/
def State.writeStCtl (s : State) (n : Nat) (en : Bool) : State :=
  let s := s.setFlag F.ACQ_ST_CTL_EN en n
  if !s.acq.live then s
  else if en then (if s.acqRuns n then s.setFlag F.ACQ_ST_STAT_STOPPING false n else s.startStream n)
  else if s.acqRuns n then s.setFlag F.ACQ_ST_STAT_STOPPING true n else s

/-- STREAM_START: a write of ACQ_STn_CTL with EN = 1 by home; the register has no other field. -/
def execStreamStart (r : Req) (n : Fin 16) (_v : Word) (s : State) : Out State :=
  .next (s.asHome r (R.ACQ_ST_CTL.at n.val) (fun s => s.writeStCtl n.val true))

/-- STREAM_STOP_REQUEST: a write of EN = 0. -/
def execStreamStopRequest (r : Req) (n : Fin 16) (_v : Word) (s : State) : Out State :=
  .next (s.asHome r (R.ACQ_ST_CTL.at n.val) (fun s => s.writeStCtl n.val false))

/-- The count of samples or edges of member `c` in a closed window (R312, R322). -/
def State.blockCount (s : State) (w : Window) (close c : Nat) : Nat :=
  if 18 ≤ c ∧ c < 22 then (if w.linkDown then 0 else (w.of c).length) else (s.times c w.opn close).length

/-- Bytes of an element of a channel's block. -/
def chanBytes (c : Nat) : Nat := if c < 16 then 4 else if c < 18 then 2 else if c < 22 then 8 else 4

/-- LENGTH of a closed window (R312). -/
def State.windowLength (s : State) (w : Window) (close : Nat) : Nat :=
  w.memb.foldl (fun a c => a + roundUp (64 + s.blockCount w close c * chanBytes c) 256) 256

/-- K of R28 for a frame period. -/
def framesInFlight (period : Nat) : Nat := ceilDiv 25000000 period + 1

/-- Reserve the closed window's bytes in its region: the fit check advances TAIL, RES advances, and the arrivals that waited start
(R102, R594). -/
def State.reserveWindow (s : State) (n : Nat) (w : Window) (len : Nat) : State :=
  let s := s.overwrite w.region len
  let reg := s.region w.region
  let tag := windowTag n w.opn
  let s := s.setRegion w.region { reg with
    res := (reg.res + len) % 2 ^ 32,
    opened := reg.opened.map (fun a => if a.unit = 0x58 ∧ a.tag = tag then { a with len := len, window := false } else a) }
  s.startWaiting w.region (s.region w.region).waiting

/-- Stream `n` stops: the groups it owns that are armed apply, and an armed deck-map switch (R67, R228, R316). -/
def State.streamStops (s : State) (n : Nat) : State :=
  let s := ((s.setFlag F.ACQ_ST_STAT_RUN false n).setFlag F.ACQ_ST_STAT_STOPPING false n)
  (s.applyArmed n).deckSwitch n

/-- The close of stream `n`'s open window `w` at cycle `tc` (R310, R314, R338). -/
def State.closeWindow (s : State) (n : Nat) (w : Window) (tc : Nat) : State :=
  let x := s.acqStream n
  let late := w.got.map (fun (e : Nat × List Sample) => (e.1, e.2.filter (fun y => decide (tc ≤ y.t))))
  let early := w.got.map (fun (e : Nat × List Sample) => (e.1, e.2.filter (fun y => decide (y.t < tc))))
  let temp := ofSigned 32 (toSigned 16 (s.fget F.ACQ_SUPPLY_TEMP) * 250)
  let w := { w with close := some tc, linkDown := w.linkDown || s.acqDown, got := early, fdTemp := temp }
  let front := x.wins.dropLast
  let s := match w.start with
    | none => (s.setAcq n { x with wins := front }).orderClose n w tc false
    | some _ =>
      let skip := decide (framesInFlight (s.fget F.ACQ_ST_PERIOD_CYCLES n) ≤ x.flight.length)
      let len := s.windowLength w tc
      let w := { w with frame := x.next, skip := skip, len := len }
      let s := s.setAcq n { x with next := (x.next + 1) % 2 ^ 32, wins := front ++ [w] }
      let s := s.reserveWindow n w len
      let s := if skip then s.count R.ACQ_ST_OVR 1 n else s
      let s := s.orderClose n w tc (!skip)
      s.fset F.ACQ_ST_STAT_INFLIGHT (s.acqStream n).flight.length n
  let config := s.isArmed (.st n)
  let s := (s.applyArmed n).deckSwitch n
  if s.flag F.ACQ_ST_STAT_STOPPING n then s.streamStops n
  else
    let s := s.openWindow n tc false (config && !s.flag F.ACQ_ST_STAT_DISAGREE n)
    let y := s.acqStream n
    match y.wins.getLast? with
    | none => s
    | some o => s.setAcq n { y with wins := y.wins.dropLast ++
        [late.foldl (fun (o : Window) (e : Nat × List Sample) => e.2.foldl (fun (o : Window) z => o.add e.1 z) o) o] }

/-- FRAME_CLOSE: the open window of running stream `n` closes one PERIOD after its OPEN (R310); it closes late only in the order of
the commands, never in its times. -/
def execFrameClose (n : Fin 16) (s : State) : Out State :=
  .next (
    match (s.acqStream n.val).wins.getLast? with
    | none => s
    | some w =>
      let tc := w.opn + s.fget F.ACQ_ST_PERIOD_CYCLES n.val
      if s.acqRuns n.val ∧ w.close = none ∧ tc ≤ s.now then s.closeWindow n.val w tc else s)

/-! ### The window in memory (R311 to R313, R318, R322) -/

/-- The samples at the given times, in order: a time without a delivered sample holds zero. -/
def fillSamples : List Nat → List Sample → List Sample
  | [], _ => []
  | t :: ts, l =>
    match l.dropWhile (fun x => decide (x.t < t)) with
    | x :: r => if x.t = t then x :: fillSamples ts r else ⟨t, 0, 0⟩ :: fillSamples ts (x :: r)
    | [] => ⟨t, 0, 0⟩ :: fillSamples ts []

/-- The group delay that a vibration setting removes (Table 10-2). -/
def groupDelay (v : Nat) : Nat := match bits v 12 2 with | 0 => 163840 | 1 => 245760 | 2 => 327680 | _ => 491520

/-- Whether a sample of channel `c` at `t` lies in the settling span of a setting applied at `e.1` (R318): `old` and `e.2` are the
settings on each side. -/
def settleSpan (c old : Nat) (e : Nat × Nat) (t : Nat) : Bool :=
  if c < 16 then decide (e.1 ≤ t + groupDelay old) && decide (t ≤ e.1 + groupDelay e.2 + 1000000)
  else if c < 18 then decide (e.1 ≤ t) && decide (t ≤ e.1 + 100000)
  else if 22 ≤ c ∧ c < 30 then decide (e.1 ≤ t + 500000) && decide (t ≤ e.1 + 500000)
  else false

/-- Whether a sample of channel `c` at `t` is in a settling span of a change of its settings. -/
def State.settlesAt (s : State) (c t : Nat) : Bool :=
  (s.chan (settingChan c)).cfg.any (fun e => settleSpan c (s.cfgAt c (e.1 - 1)) e t)

/-- The flags of Table 10-6 of one sample: what came with it, the channel's condition and settling at its time. -/
def State.sampleFlags (s : State) (c : Nat) (x : Sample) : Nat :=
  let cond := if c < 16 then histAt 0 (s.chan c).cond x.t else 0
  x.flags ||| cond ||| (0x10 * b2n (s.settlesAt c x.t))

/-- A member's block of a closed window: its flags and its bytes (Tables 10-5, 10-6). -/
def State.windowBlock (s : State) (w : Window) (close c : Nat) : Nat × List Byte :=
  let speed := decide (18 ≤ c) && decide (c < 22)
  let xs := if speed then (if w.linkDown then [] else w.of c) else fillSamples (s.times c w.opn close) (w.of c)
  let per := xs.map (s.sampleFlags c)
  let on := (s.spans c w.opn close).map (fun y => chanOn c y.2.2)
  let chg := s.changes c w.opn close
  let keep := if c < 16 then s.rget R.ACQ_VCH_CFG c &&& 0x10000 else 0
  let flags := per.foldl (· ||| ·) 0 ||| b2n (on.any (fun b => !b)) ||| 0x20 * b2n w.supLow ||| 0x40 * b2n w.linkDown |||
    0x100 * b2n (w.lost.contains c) ||| 0x200 * b2n (speed && on.any (fun b => b) && xs.isEmpty) ||| 0x400 * b2n (chg != [])
  let first := (per.zipIdx.find? (fun y => y.1 &&& 0xCE != 0)).elim 0xFFFFFFFF (·.2)
  let t0 := (xs.head?.map (fun (x : Sample) => x.t)).getD w.opn
  let set1 := s.cfgAt c t0
  let set2 := chg.getLast?
  let idx := match set2 with | some e => (xs.takeWhile (fun x => decide (x.t < e.1))).length | none => 0
  let e := chanBytes c
  let blen := roundUp (64 + xs.length * e) 256
  let iepe := decide (c < 16) && on != [] && bits set1 0 2 == 1
  let head := [0x21, BitVec.ofNat 8 (if c < 16 then 1 else if c < 18 then 2 else if speed then 4 else if 30 ≤ c ∧ c < 94 then 3 else 1)] ++
    leBytes 2 c ++ leBytes 4 xs.length ++ leBytes 8 t0 ++ leBytes 4 (if xs.isEmpty then 0 else chanPeriod c set1) ++ leBytes 4 flags ++
    leBytes 4 blen ++ leBytes 4 first ++ leBytes 4 (set1 ||| keep) ++ leBytes 4 (set2.elim 0 (fun e => e.2 ||| keep)) ++ leBytes 4 idx ++
    leBytes 4 (if iepe then Sparse.get (fun _ => 0) w.bias c else 0) ++ leBytes 16 0
  (flags, padTo blen (head ++ xs.flatMap (fun x => leBytes e (if speed then x.t else x.v))))

/-- The bytes of a closed window (Table 10-4). -/
def State.windowBytes (s : State) (n : Nat) (w : Window) (close : Nat) : List Byte :=
  let blocks := w.memb.map (s.windowBlock w close)
  let fault := blocks.any (fun b => b.1 &&& 0xCE != 0)
  [0x20, BitVec.ofNat 8 (b2n w.first + 2 * b2n w.skip + 4 * b2n fault + 8 * b2n w.config)] ++ leBytes 2 blocks.length ++
  leBytes 4 w.frame ++ leBytes 8 close ++ leBytes 8 w.opn ++ leBytes 4 w.len ++ [BitVec.ofNat 8 n, 0, 0, 0] ++
  leBytes 4 (b2n w.skip) ++ leBytes 4 w.supMin ++ leBytes 4 w.fdTemp ++ List.replicate 212 0 ++ blocks.flatMap (·.2)

/-- Write an arrival's bytes into its region from running count `start`, wrapping at the region's end. -/
def State.storeRegion (s : State) (cr start : Nat) (b : List Byte) : State :=
  let room := s.crSize cr - start % s.crSize cr
  (s.store (s.crAddr cr start 0) (b.take room)).store (s.crBase cr) (b.drop room)

/-- Complete the oldest closed window of stream `n` (R311, R315, R336). -/
def State.completeWindow (s : State) (n : Nat) : State :=
  let x := s.acqStream n
  match x.wins with
  | [] => s
  | w :: t =>
    match w.close, w.start with
    | some close, some start =>
      let w := { w with linkDown := w.linkDown || s.acqDown }
      let s := s.storeRegion w.region start (s.windowBytes n w close)
      let s := s.setAcq n { x with wins := t }
      let s := s.rset R.ACQ_ST_FRAME w.frame n
      let s := s.finishArrival w.region 0x58 (windowTag n w.opn) false
      let spd := 18 + s.fget F.SIG_ST_ORD_SPD n
      s.profileFit n w.opn close (if w.linkDown then [] else (w.of spd).map (fun (y : Sample) => y.t - w.opn))
    | _, _ => s

/-- WINDOW_ARRIVAL_COMPLETE (R311, R315). -/
def execWindowArrivalComplete (n : Fin 16) (s : State) : Out State := .next (s.completeWindow n.val)

/-! ### Recess (R320) -/

/-- Complete every closed window of stream `n`. -/
def State.completeAll (s : State) (n : Nat) : Nat → State
  | 0 => s
  | fuel + 1 => (s.completeWindow n).completeAll n fuel

/-- Stream `n` stops for Recess: its closed windows complete, its open window is discarded with its arrival, and it is not counted
as STOPPING. -/
def State.recessStream (s : State) (n : Nat) : State :=
  if !s.acqRuns n then s
  else
    let s := s.completeAll n (s.acqStream n).wins.length
    let x := s.acqStream n
    let s := x.wins.foldl (fun s w =>
      let reg := s.region w.region
      let s := s.setRegion w.region { reg with
        opened := reg.opened.filter (fun a => !(a.unit == 0x58 && a.tag == windowTag n w.opn)) }
      s.retireArrivals w.region (reg.opened.length + 1)) s
    (s.setAcq n { x with wins := [], wasRunning := true }).streamStops n

/-- At wake each stream that ran starts again at the wake cycle with FIRST (R320); its order-table buffers are invalid (R340). -/
def State.wakeStreams (s : State) : State :=
  (List.range 16).foldl (fun s n =>
    let s := s.orderReset n
    if (s.acqStream n).wasRunning then
      (s.setAcq n { s.acqStream n with wasRunning := false }).startStream n
    else s) s

end Sys2Proof.Machine
end

