-- ==== Sys2Proof/Machine/Link.lean ====
section
/-! DEFINITION. The Shunto link up to the segment (spec/18, R494 to R504, R510 to R514): ports, lanes, flits, credits, replay,
routes and the queues of segments. -/

namespace Sys2Proof.Machine

def State.port (s : State) (p : Nat) : Port := Sparse.get (fun _ => Port.fresh) s.chn.ports p

def State.setPort (s : State) (p : Nat) (x : Port) : State :=
  { s with chn := { s.chn with ports := Sparse.put (fun _ => Port.fresh) s.chn.ports p x } }

/-! ### Segments (Table 18-6) -/

def Seg.dest (g : Seg) : Nat := leAt g.body 0 2 % 4096
def Seg.src (g : Seg) : Nat := leAt g.body 2 2 % 4096
def Seg.ttype (g : Seg) : Nat := leAt g.body 4 1
def Seg.flags (g : Seg) : Nat := leAt g.body 5 1
def Seg.hops (g : Seg) : Nat := leAt g.body 6 2
def Seg.cls (g : Seg) : Nat := leAt g.body 8 1
def Seg.ofs (g : Seg) : Nat := leAt g.body 12 4
def Seg.len (g : Seg) : Nat := leAt g.body 16 4
def Seg.tlen (g : Seg) : Nat := leAt g.body 20 4
def Seg.target (g : Seg) : Nat := leAt g.body 24 4
def Seg.xfer (g : Seg) : Nat := leAt g.body 28 4
/-- The TTYPE's own content, bytes 32 to 55. -/
def Seg.own (g : Seg) : List Byte := (g.body.drop 32).take 24

/-- What a segment header says. -/
structure SegArgs where
  dest : Nat
  ttype : Nat
  flags : Nat := 0
  cls : Nat := 0
  ofs : Nat := 0
  len : Nat := 0
  tlen : Nat := 0
  target : Nat := 0
  xfer : Nat := 0
  own : List Byte := []
deriving DecidableEq, Repr

/-- The 56 bytes of a segment header BODY (Table 18-6). -/
def segBody (src : Nat) (a : SegArgs) : List Byte :=
  leBytes 2 a.dest ++ leBytes 2 src ++ [BitVec.ofNat 8 a.ttype, BitVec.ofNat 8 a.flags] ++ leBytes 2 4095 ++
  [BitVec.ofNat 8 a.cls, 0, 0, 0] ++ leBytes 4 a.ofs ++ leBytes 4 a.len ++ leBytes 4 a.tlen ++ leBytes 4 a.target ++
  leBytes 4 a.xfer ++ padTo 24 a.own

/-- The device's own chain address. -/
def State.chainAddr (s : State) : Nat := s.fget F.CHN_STAT_ADDR

/-- A segment of this device. -/
def State.seg (s : State) (vc : Nat) (a : SegArgs) (data : List (List Byte)) : Seg := ⟨vc, segBody s.chainAddr a, data⟩

/-- The virtual channel of a remote write's class (Table 18-3). -/
def vcOfClass (cls : Nat) : Nat := if cls = 0 ∨ cls = 1 ∨ cls = 4 then 2 else 3

/-- The record of one block (R514): BHDR, check tag, the bytes; filled with zeros to whole flits. `e` is the element width for
zero compression, 0 for none. -/
def blockRecord (e : Nat) (zc : List Byte → Option (List Byte)) (tag : Nat) (b : List Byte) : List (List Byte) :=
  let c := if e = 0 ∨ b.length ≠ 256 then none else zc b
  let body := c.getD b
  let rec' := leBytes 4 (body.length + (if c.isSome then 512 else 0)) ++ leBytes 4 tag ++ body
  (chunksOf 56 (rec'.length / 56 + 1) rec').map (padTo 56)

/-! ### Routes (R508, R510, R512) -/

/-- Whether a port carries traffic. -/
def State.portUp (s : State) (p : Nat) : Bool :=
  let st := s.fget F.CHN_P_STAT_STATE p
  st == 2 || st == 3 || st == 4

/-- The port toward a chain address; none where it is unreachable. -/
def State.route (s : State) (a : Nat) : Option Nat :=
  let p := s.fget F.CHN_RT_PRIMARY a
  if a < 4095 ∧ p < 3 ∧ s.portUp p = true then some p else none

/-- Put a segment into a port's queue. -/
def State.enqueue (s : State) (p : Nat) (g : Seg) : State :=
  let x := s.port p
  s.setPort p { x with queue := x.queue ++ [g] }

/-- Send a segment toward its destination; a broadcast goes out of every port that is UP. The Bool says whether it could
leave. -/
def State.sendSeg (s : State) (g : Seg) : Bool × State :=
  if g.dest = 0xFFF then
    (true, ((List.range 3).filter (fun p => s.portUp p)).foldl (fun s p => s.enqueue p g) s)
  else match s.route g.dest with
    | some p => (true, s.enqueue p g)
    | none => (false, s)

/-- A segment kept for this device has been dealt with: it leaves the port's buffer, and its credits are owed (R503). -/
def State.takeSeg (s : State) (p : Nat) (g : Seg) : State :=
  let x := s.port p
  s.setPort p { x with segs := x.segs.erase g, owed := setAt x.owed g.vc (x.owed.getD g.vc 0 + 1 + g.data.length) }

/-- The header of a forwarded segment: HOPS one lower. -/
def Seg.hop (g : Seg) : Seg := { g with body := g.body.take 6 ++ leBytes 2 (g.hops - 1) ++ g.body.drop 8 }

/-! ### Port states (R495 to R497, R500, R510) -/

/-- Write a CHN report card of a port. -/
def State.chnCard (s : State) (event p lane : Nat) (detail : List Byte) : State :=
  s.card { block := 0x12, event := event, ukind := 9, ua := p, ub := lane, detail := detail }

/-- The route entries that are written. -/
def State.routes (s : State) : List Nat :=
  (s.regs.filter (fun x => decide (R.CHN_RT.at ≤ x.1) && decide (x.1 < R.CHN_RT.at 4095))).map (fun x => (x.1 - R.CHN_RT.at) / 4)

/-- Set PRIMARY to ALT for the route entries that satisfy `f` (R510). -/
def State.turnRoutes (s : State) (f : Nat → Bool) : State :=
  (s.routes.filter f).foldl (fun s a => s.fset F.CHN_RT_PRIMARY (s.fget F.CHN_RT_ALT a) a) s

/-- The ends of the STANDBY link take it UP. -/
def State.wakeStandby (s : State) : State :=
  (List.range 3).foldl (fun s p => if s.fget F.CHN_P_STAT_STATE p = 5 then s.fset F.CHN_P_STAT_STATE 2 p else s) s

/-- A port goes DOWN; on a ring its device wraps and broadcasts a wrap notice (R497, R500, R510). -/
def State.portDown (s : State) (p : Nat) : State :=
  let partner := s.fget F.CHN_P_STAT_PARTNER p
  let s := (s.fset F.CHN_P_STAT_STATE 0 p).fset F.CHN_P_STAT_LANES 0 p
  let s := s.chnCard 2 p 0 (leBytes 2 partner)
  if s.fget F.CHN_STAT_TOPO = 2 then
    let s := s.turnRoutes (fun a => s.fget F.CHN_RT_PRIMARY a == p)
    let s := (s.wakeStandby).fset F.CHN_STAT_TOPO 4
    let s := (s.sendSeg (s.seg 0 { dest := 0xFFF, ttype := 7, own := leBytes 2 partner } [])).2
    s.chnCard 6 p 0 (leBytes 2 partner)
  else s

/-- A port must train again, keeping its unacknowledged flits; the third time within 1 s takes it DOWN (R500). -/
def State.retrain (s : State) (p : Nat) : State :=
  let x := s.port p
  let recent := (x.trainings ++ [s.now]).filter (fun t => decide (s.now < t + 1000000000))
  let s := s.setPort p { x with trainings := recent, replayFrom := (x.unacked.head?).map (·.1), replays := 0 }
  if 3 ≤ recent.length then s.portDown p else s.fset F.CHN_P_STAT_STATE 1 p

/-- PORT_TRAINING: a port that PORTEN enables trains with its partner; `good` says which lanes lock (R495 to R497). With
`partner` none it stays without a partner. -/
def execPortTraining (p : Fin 3) (partner : Option (Fin 4096)) (good : Fin 32) (s : State) : Out State :=
  .next (
    let p := p.val
    if !bit (s.fget F.CHN_CTL_PORTEN) p || !s.domOn 6 then s
    else
      match partner with
      | none => s.fset F.CHN_P_STAT_STATE 1 p
      | some a =>
        let bad := (List.range 4).filter (fun k => !bit good.val k)
        let up (s : State) (st lanes spare : Nat) : State :=
          let s := (s.fset F.CHN_P_STAT_STATE st p).fset F.CHN_P_STAT_LANES lanes p
          let s := (s.fset F.CHN_P_STAT_SPAREFOR spare p).fset F.CHN_P_STAT_PARTNER a.val p
          s.chnCard 1 p 0 (leBytes 2 a.val)
        match bad with
        | [] => up s 2 0xF 0xF
        | [k] =>
          if bit good.val 4 then up s 2 (0x1F - 2 ^ k) k
          else up s 3 (if k < 2 then 0xC else 3) 0xF
        | _ =>
          if bit good.val 0 && bit good.val 1 then up s 3 3 0xF
          else if bit good.val 2 && bit good.val 3 then up s 3 0xC 0xF
          else s.portDown p)

/-- PORT_TRAIN_RETRY: a port without a partner begins training again (R495). -/
def execPortTrainRetry (p : Fin 3) (s : State) : Out State :=
  .next (if bit (s.fget F.CHN_CTL_PORTEN) p.val && s.domOn 6 && decide (s.fget F.CHN_P_STAT_STATE p.val ≤ 1)
    then s.fset F.CHN_P_STAT_STATE 1 p.val else s)

/-- LANE_FAIL: a lane in use fails: its traffic moves to lane 4; a second failure leaves the good pair in DEGRADED, or the port
goes DOWN (R496, R497). Flits in flight are replayed. -/
def execLaneFail (p : Fin 3) (lane : Fin 5) (s : State) : Out State :=
  .next (
    let p := p.val
    let k := lane.val
    let lanes := s.fget F.CHN_P_STAT_LANES p
    let st := s.fget F.CHN_P_STAT_STATE p
    if !bit lanes k || (st != 2 && st != 3) then s
    else
      let spare := s.fget F.CHN_P_STAT_SPAREFOR p
      let again (s : State) : State := s.setPort p { s.port p with replayFrom := ((s.port p).unacked.head?).map (·.1) }
      if st = 3 then s.portDown p
      else if spare = 0xF ∧ k < 4 then
        let s := (s.fset F.CHN_P_STAT_LANES (lanes - 2 ^ k + 16) p).fset F.CHN_P_STAT_SPAREFOR k p
        (again s).chnCard 3 p k (leBytes 2 k)
      else
        -- the logical lane that is lost, and the one lane 4 stands for where it is another
        let lost := if k = 4 then spare else k
        let pairOk (q : Nat) : Bool := (if q = 0 then decide (2 ≤ lost) else decide (lost < 2))
        let pairLanes (q : Nat) : Nat :=
          ([2 * q, 2 * q + 1]).foldl (fun m l => m + (if k ≠ 4 ∧ spare = l then 16 else 2 ^ l)) 0
        let q := if pairOk 0 then 0 else 1
        if pairOk q then
          let s := (s.fset F.CHN_P_STAT_STATE 3 p).fset F.CHN_P_STAT_LANES (pairLanes q) p
          (again s).chnCard 4 p k (leBytes 2 q)
        else s.portDown p)

/-- WRAP_NOTICE: a wrap notice received on a port redirects the entries whose PRIMARY crosses the break, brings the STANDBY
link UP and goes on to the other ports (R510). -/
def execWrapNotice (p : Fin 3) (crossing : List (Fin 4095)) (s : State) : Out State :=
  .next (
    match (s.port p.val).segs.find? (fun g => g.ttype == 7) with
    | none => s
    | some g =>
      let s := s.takeSeg p.val g
      let s := s.turnRoutes (fun a => crossing.any (fun c => c.val == a))
      (s.wakeStandby).fset F.CHN_STAT_TOPO 4)

/-! ### Flits (R498 to R504) -/

/-- The 64 bytes of a flit (Table 18-2). -/
def flitBytes (vc kind : Nat) (last : Bool) (ack cvc credits : Nat) (body : List Byte) : List Byte :=
  let b := [BitVec.ofNat 8 (vc + 4 * kind + 32 * b2n last)] ++ leBytes 3 (ack % 65536 + cvc * 65536 + credits * 2 ^ 18) ++ padTo 56 body
  b ++ leBytes 4 (crc32 b)

/-- The flits of a segment: KIND, LAST as a number, BODY. -/
def Seg.flits (g : Seg) : List (Nat × Nat × List Byte) :=
  (2, b2n (g.data == []), g.body) :: (g.data.zipIdx.map (fun x => (3, b2n (x.2 + 1 == g.data.length), x.1)))

/-- The flits left of the segment that a port is sending on a VC. -/
def Port.left (x : Port) (vc : Nat) : List (Nat × Nat × List Byte) := Sparse.get (fun _ => []) x.sending vc

/-- Begin the next segment of a VC where none is being sent: the highest class, then the oldest (R504). -/
def Port.load (x : Port) (vc : Nat) : Port :=
  if x.left vc ≠ [] then x
  else
    let mine := x.queue.filter (fun g => g.vc == vc)
    match mine with
    | [] => x
    | g :: t =>
      let best := t.foldl (fun b g => if g.cls < b.cls then g else b) g
      { x with queue := x.queue.erase best, sending := Sparse.put (fun _ => []) x.sending vc best.flits }

/-- Whether a VC has a flit and a credit. -/
def Port.ready (x : Port) (vc : Nat) : Bool :=
  (x.left vc != [] || x.queue.any (fun g => g.vc == vc)) && decide (0 < x.credits.getD vc 0)

/-- The VC of the next new flit (R504): VC0 first; VC1 and VC3 at least once in 64 flit times; then VC2, VC1, VC3. -/
def Port.pick (x : Port) : Option Nat :=
  if x.ready 0 then some 0
  else if x.ready 1 && decide (63 ≤ x.starve1) then some 1
  else if x.ready 3 && decide (63 ≤ x.starve3) then some 3
  else if x.ready 2 then some 2
  else if x.ready 1 then some 1
  else if x.ready 3 then some 3
  else none

/-- The credits a port returns with its next flit: the first VC that owes some, at most 63 (Table 18-2). -/
def Port.giveBack (x : Port) : Nat × Nat × Port :=
  match (List.range 4).find? (fun v => 0 < x.owed.getD v 0) with
  | none => (0, 0, x)
  | some v =>
    let k := min 63 (x.owed.getD v 0)
    (v, k, { x with owed := setAt x.owed v (x.owed.getD v 0 - k) })

/-- Move forwarded records toward the collector into the queue of the port they leave by (R520). -/
def State.loadForwards (s : State) (p : Nat) : State :=
  let dest := s.fget F.CHN_FWD_COLLECT
  if s.chn.fwd = [] ∨ s.route dest ≠ some p then s
  else
    let segs := s.chn.fwd.map (fun b => s.seg 1 { dest := dest, ttype := 3, cls := 5, len := b.length } ((chunksOf 56 3 b).map (padTo 56)))
    let s := { s with chn := { s.chn with fwd := [] } }
    s.setPort p { s.port p with queue := (s.port p).queue ++ segs }

/-- FLIT_SEND: a port sends its next flit: a NAK, a flit being replayed, a new numbered flit of the VC that R504 picks, or a
null flit. A port whose partner is in Recess sends WAKE while a segment waits (R526). Port code 0x90 + p; kind 0 is a flit, 1 a
link-control NAK with its number, 2 RECESS, 3 WAKE with its address. -/
def execFlitSend (p : Fin 3) (s : State) : Out State :=
  .next (
    let p := p.val
    let st := s.fget F.CHN_P_STAT_STATE p
    if st = 4 then
      (match (if s.domOn 6 then (s.port p).queue else []) with
      | g :: _ => s.send (0x90 + p) 3 (leBytes 2 g.dest)
      | [] => s)
    else if st ≠ 2 ∧ st ≠ 3 then s
    else
      let s := s.loadForwards p
      let x := s.port p
      if x.nak then (s.setPort p { x with nak := false }).send (0x90 + p) 1 (leBytes 2 x.rxCount)
      else
        let g := x.giveBack
        let pig := (g.1, g.2.1)
        let x := g.2.2
        match x.replayFrom.bind (fun k => x.unacked.find? (fun u => u.1 == k)) with
        | some u =>
          let next := (u.1 + 1) % 65536
          let x := { x with replayFrom := if x.unacked.any (fun v => v.1 == next) then some next else none }
          let f := (u.2.headD 0).toNat
          (s.setPort p x).send (0x90 + p) 0
            (flitBytes (f % 4) (bits f 2 3) (bit f 5) x.rxCount pig.1 pig.2 (u.2.drop 1))
        | none =>
          let x := { x with replayFrom := none }
          match (if x.unacked.length < 256 then x.pick else none) with
          | none => (s.setPort p x).send (0x90 + p) 0 (flitBytes 0 0 false x.rxCount pig.1 pig.2 [])
          | some vc =>
            let r1 := x.ready 1
            let r3 := x.ready 3
            let x := x.load vc
            match x.left vc with
            | [] => s
            | (kind, last, body) :: t =>
              let x := { x with
                sending := Sparse.put (fun _ => []) x.sending vc t,
                credits := setAt x.credits vc (x.credits.getD vc 0 - 1),
                unacked := x.unacked ++ [(x.nextNo, BitVec.ofNat 8 (vc + 4 * kind + 32 * last) :: padTo 56 body)],
                nextNo := (x.nextNo + 1) % 65536,
                starve1 := if vc = 1 ∨ r1 = false then 0 else x.starve1 + 1,
                starve3 := if vc = 3 ∨ r3 = false then 0 else x.starve3 + 1 }
              (s.setPort p x).send (0x90 + p) 0 (flitBytes vc kind (last == 1) x.rxCount pig.1 pig.2 body))

/-- Replay from a flit number; the eighth replay of one number in a row trains the port again (R499, R500). -/
def State.replay (s : State) (p no : Nat) : State :=
  let x := s.port p
  let k := if x.replayNo = no ∧ x.replays ≠ 0 then x.replays + 1 else 1
  let s := (s.setPort p { x with replayFrom := some no, replayNo := no, replays := k }).count R.CHN_P_REPLAY 1 p
  if 8 ≤ k then s.retrain p else s

/-- REPLAY_TIMEOUT: ACK has not advanced for 2 µs while flits are outstanding (R499). -/
def execReplayTimeout (p : Fin 3) (s : State) : Out State :=
  .next (match (s.port p.val).unacked with
    | [] => s
    | u :: _ => s.replay p.val u.1)

/-- A segment received whole on port `p`: forwarded where its destination is another device, kept for this device, or both for
a broadcast. A device without an address keeps only roll call (R505, R513). The credits of a segment that is kept are returned when it
has been dealt with (R503, R516). -/
def State.routeSeg (s : State) (p : Nat) (g : Seg) : State :=
  let keep (s : State) : State := s.setPort p { s.port p with segs := (s.port p).segs ++ [g] }
  let pass (s : State) : State := (keep s).takeSeg p g
  if g.ttype = 5 then keep s
  else if !s.flag F.CHN_STAT_ADDRVALID then pass s
  else if g.dest = s.chainAddr then keep s
  else if g.hops ≤ 1 then (if g.dest = 0xFFF then keep s else pass s)
  else if g.dest = 0xFFF then
    -- a time segment is forwarded when its delay has been added (R522)
    if g.ttype = 6 then keep s
    else ((List.range 3).filter (fun q => q != p && s.portUp q)).foldl (fun s q => s.enqueue q g.hop) (keep s)
  else ((pass s).sendSeg g.hop).2

/-- A link-control flit on port `p`: a NAK replays; RECESS takes the port to RECESS too; WAKE toward another address goes on. -/
def State.linkCtl (s : State) (p : Nat) (c : LinkCtl) : State :=
  match c with
  | .nak n => s.replay p n.toNat
  | .recess => s.fset F.CHN_P_STAT_STATE 4 p
  | .wake a => if a.val = s.chainAddr then s else match s.route a.val with
    | some q => s.send (0x90 + q) 3 (leBytes 2 a.val)
    | none => s

/-- FLIT_RECEIVE: a flit arrives. `num` is the number the transmitter counts for it, `ctl` what a link-control flit says; `swallowed` says
that a bubble took one burst, `errs` the sync-header errors of lanes 0 to 4 (R498, R499, R501 to R503). In RECESS and STANDBY only link-control flits are taken. -/
def execFlitReceive (p : Fin 3) (flit : List Byte) (num : Half) (ctl : Option LinkCtl) (swallowed : Bool) (errs : List Half)
    (s : State) : Out State :=
  .next (
    let p := p.val
    let s := (errs.take 5).zipIdx.foldl (fun (s : State) e => s.count R.CHN_P_LANEERR e.1.toNat p e.2) s
    let st := s.fget F.CHN_P_STAT_STATE p
    let b := padTo 64 flit
    if st < 2 then s
    else if swallowed || crc32 (b.take 60) != leAt b 60 4 then
      let s := s.count R.CHN_P_CRCERR 1 p
      let s := if swallowed then s.count R.CHN_P_BUBLOST 1 p else s
      s.setPort p { s.port p with nak := true }
    else
      let fctl := leAt b 0 1
      let vc := fctl % 4
      let kind := bits fctl 2 3
      let pig := leAt b 1 3
      let x := s.port p
      let ack := pig % 65536
      let gone := x.unacked.filter (fun u => decide (0 < toSigned 16 (ack + 65536 - u.1)))
      let cvc := bits pig 16 2
      let x := { x with
        unacked := x.unacked.filter (fun u => !gone.contains u),
        replays := if gone = [] then x.replays else 0,
        credits := setAt x.credits cvc (x.credits.getD cvc 0 + bits pig 18 6) }
      let s := s.setPort p x
      if kind = 1 then (match ctl with | some c => s.linkCtl p c | none => s)
      else if (kind ≠ 2 ∧ kind ≠ 3) ∨ 4 ≤ st ∨ num.toNat ≠ x.rxCount then s
      else
        let got := Sparse.get (fun _ => []) x.rx vc ++ [(kind, (b.drop 4).take 56)]
        let x := { x with rxCount := (x.rxCount + 1) % 65536 }
        if bit fctl 5 then
          let x := { x with rx := Sparse.put (fun _ => []) x.rx vc [] }
          match got with
          | (2, body) :: t => (s.setPort p x).routeSeg p ⟨vc, body, t.map (·.2)⟩
          | _ => s.setPort p { x with owed := setAt x.owed vc (x.owed.getD vc 0 + got.length) }
        else s.setPort p { x with rx := Sparse.put (fun _ => []) x.rx vc got })

end Sys2Proof.Machine
end

