-- ==== Sys2Proof/Machine/Dme.lean ====
section
/-! DEFINITION. The digital matrix engine (spec/08; WINO of spec/09, OPTIM of spec/12): residency, arithmetic, output tiles,
staging, checks, supply steps and retirement. -/

namespace Sys2Proof.Machine

/-! ### The L1 cache of a core (R92, R93, R250 to R252) -/

/-- Insert a line as the most recently used; a full set of 8 loses its least recently used unlocked line, which is written back
if dirty (R92, R251). -/
def State.l1Insert (s : State) (core : Nat) (x : L1Line) : State :=
  let sets := 64 * s.l1Cache core
  let rest := (s.lines core).filter (fun l => l.addr != x.addr)
  let same := rest.filter (fun l => lineSet sets l.addr == lineSet sets x.addr)
  if same.length < 8 then s.setLines core (x :: rest)
  else
    match (same.filter (fun l => !l.locked)).getLast? with
    | none => s.setLines core (x :: rest)
    | some v =>
      let s := if v.dirty then s.store v.addr v.data else s
      s.setLines core (x :: rest.filter (fun l => l.addr != v.addr))

/-- Fill and lock the line at a physical address: a valid line is locked as it stands (R251). -/
def State.l1Lock (s : State) (core key : Nat) (data : List Byte) : State :=
  match (s.lines core).find? (fun l => l.addr == key) with
  | some l => s.setLines core ({ l with locked := true } :: (s.lines core).filter (fun x => x.addr != key))
  | none => s.l1Insert core ⟨key, data, false, true, false⟩

/-- A byte as core `core` reads it: from a cached line, else from memory. -/
def State.dmeByte (s : State) (core a : Nat) : Byte :=
  match (s.lines core).find? (fun l => l.addr == a / 128 * 128) with
  | some l => l.data.getD (a % 128) 0
  | none => s.physByte a

/-- Write bytes as a core does: into its scratchpad or memory its cache does not hold directly, else through the cache, whose
line is filled first and becomes dirty (R93, R265). -/
def State.dmeWrite (s : State) (core : Nat) (l : List (Nat × Byte)) : State :=
  let cached := l.filter (fun x => (s.loc x.1).cacheable && s.l1Cache core != 0)
  let s := s.writeBytes (l.filter (fun x => !((s.loc x.1).cacheable && s.l1Cache core != 0)))
  ((cached.map (fun x => x.1 / 128 * 128)).eraseDups).foldl (fun s k =>
    let old := match (s.lines core).find? (fun l => l.addr == k) with
      | some l => l
      | none => ⟨k, (List.range 128).map (fun i => s.physByte (k + i)), false, false, false⟩
    let data := (cached.filter (fun x => x.1 / 128 * 128 == k)).foldl (fun (d : List Byte) (x : Nat × Byte) => d.set (x.1 % 128) x.2) old.data
    s.l1Insert core { old with data := data, dirty := true }) s

/-! ### Residency (R250 to R253) -/

/-- The outcome of a feeder's work on an operand. -/
inductive Fed where
  | ok (m : PageMap)
  | held                          -- a storage bank is busy: the feeder repeats later (Table 13-2)
  | stop                          -- suspended or halted
deriving DecidableEq, Repr

/-- Expand a lossless operand into locked lines (R252, R253). A block that fails twice ends the program with reason 0x0C. -/
def State.feedStream (s : State) (n core : Nat) (p : Prog) (o : OpRun) (h : Nat) (d : Desc) : Fed × State :=
  let c := p.start.ctx
  let unit := 4 + core
  let total := d.streamBytes
  let nblk := ceilDiv total 4096
  let fail (s : State) : Fed × State :=
    let s := (s.count R.MEM_TAGFAIL).card { block := 0xA, event := 3, ctx := c, ukind := 2, ua := core, engine := n, slot := o.slot,
                                             handle := h, pc := p.pc, prog := p.start.prog }
    (.stop, s.halt n 0x0C o.slot h d.base)
  let start := s.crTail d.crnum
  match s.touch unit c (d.touches h .read d.covered) [] with
  | (.fault t f, s) => (.stop, s.suspendOp n p o 2 t f 0)
  | (.ok m, s) =>
    let rd0 (s : State) (m : PageMap) (k : Nat) : Byte :=
      match s.tensorPhys d (s.noRemote m) .read start k with | some a => s.physByte a | none => 0
    match streamHeader (rd0 s m) with
    | none => fail s
    | some (ulen, _) =>
      if ulen ≠ total then fail s
      else
        let ents := (List.range nblk).map (fun i => parseEntry ((List.range 16).map (fun k => rd0 s m (32 + 16 * i + k))))
        let offs := d.covered ++ ents.flatMap (fun e => (List.range e.stored).map (· + e.offset))
        match s.touch unit c (d.touches h .read offs) [] with
        | (.fault t f, s) => (.stop, s.suspendOp n p o 2 t f 0)
        | (.ok m, s) =>
          let s := s.violatePages unit c (s.noRemote m)
          let addrs := offs.filterMap (fun k => s.tensorPhys d (s.noRemote m) .read start k)
          match s.readCheck n p d.notag addrs o.slot h d.base with
          | (false, s) => ((if (s.stream n).run = none then .stop else .held), s)
          | (true, s) =>
            match expandStream (rd0 s m) with
            | none => fail s
            | some b =>
              let base := addrs.headD 0
              (.ok (s.noRemote m), (List.range (ceilDiv total 128)).foldl (fun s k =>
                s.l1Lock core (expandedKey base (128 * k)) (padTo 128 ((b.drop (128 * k)).take 128))) s)

/-- Make one operand resident in a core's L1: translate its pages, fill and lock its lines (R251). -/
def State.feed (s : State) (n core : Nat) (p : Prog) (o : OpRun) (h : Nat) (d : Desc) : Fed × State :=
  if d.layout = 3 then s.feedStream n core p o h d
  else
    let c := p.start.ctx
    let unit := 4 + core
    match s.touch unit c (d.touches h .read d.covered) [] with
    | (.fault t f, s) => (.stop, s.suspendOp n p o 2 t f 0)
    | (.ok m, s) =>
      let m := s.noRemote m
      let s := s.violatePages unit c m
      let addrs := d.covered.filterMap (fun k => s.tensorPhys d m .read (s.crTail d.crnum) k)
      if s.place core addrs = .scratch then
        match s.readCheck n p d.notag addrs o.slot h d.base with
        | (false, s) => (.stop, s)
        | (true, s) => (.ok m, s)
      else
        let keys := (addrs.map (fun a => a / 128 * 128)).eraseDups
        let miss := keys.filter (fun k => !(s.lines core).any (fun l => l.addr == k))
        match s.readCheck n p d.notag (miss.flatMap (fun k => (List.range 128).map (· + k))) o.slot h d.base with
        | (false, s) => ((if (s.stream n).run = none then .stop else .held), s)
        | (true, s) =>
          (.ok m, keys.foldl (fun s k => s.l1Lock core k ((List.range 128).map (fun i => s.physByte (k + i)))) s)

/-- Feed the operands of one core in turn. -/
def State.feedAll (s : State) (n core r : Nat) (p : Prog) (o : OpRun) : List Nat → PageMap → Fed × State
  | [], m => (.ok m, s)
  | h :: t, m =>
    match s.feed n core p o h ((p.desc h).forRank r) with
    | (.ok m', s) => s.feedAll n core r p o t (m ++ m')
    | x => x

/-- Feed every core of the program. -/
def State.feedCores (s : State) (n : Nat) (p : Prog) (o : OpRun) (hs : List Nat) : List (Nat × Nat) → List (Nat × PageMap) → Fed × List (Nat × PageMap) × State
  | [], l => (.ok [], l, s)
  | (core, r) :: t, l =>
    match s.feedAll n core r p o hs [] with
    | (.ok m, s) => s.feedCores n p o hs t (l ++ [(core, m)])
    | (x, s) => (x, l, s)

/-- DME_STAT of a core while an operation holds lines. -/
def State.syncLocked (s : State) (core extra : Nat) : State :=
  (s.fset F.DME_STAT_LOCKED (min 4095 (((s.lines core).filter (fun l => l.locked)).length + extra)) core).setFlag F.DME_STAT_BUSY true core

/-- The DME operation of a bundle that its operands are needed for: the slot as issued, or as it will issue. -/
def Prog.dmeOp (p : Prog) : Option OpRun :=
  match p.phase with
  | .ready => (p.bundle.bind (fun b => b.ops.head?))
  | .issued => p.ops.find? (fun o => !o.finished)
  | _ => none

/-- OPERAND_RESIDENT: the feeder of stream `n` makes the operands of the next DME instruction resident and locks them; `xp`
cycles went by waiting for the block unit (R250 to R253). An operand that a location check refuses is left to the issue
checks. -/
def execOperandResident (n : Fin 22) (xp : Word) (s : State) : Out State :=
  .next (
    let n := n.val
    match (s.stream n).run with
    | none => s
    | some p =>
      if streamKind n ≠ 1 ∨ p.resident = true then s
      else
        match p.dmeOp, p.bundle with
        | some o, some b =>
          let p := s.cacheDescs p ((dmeReads b o p.iter ++ dmeWrites b o p.iter).map Int.toNat)
          let cores := (p.cores n).zipIdx
          if s.dmeCheck n p b o p.iter ≠ [] ∨ cores.any (fun k => s.dmePlaceCheck p b o p.iter k.1 k.2 != []) = true then s
          else
            let hs := (dmeReads b o p.iter).map Int.toNat
            match s.feedCores n p o hs cores [] with
            | (.stop, _, s) => s
            | (.held, _, s) => s
            | (.ok _, maps, s) =>
              let extra := (stagingLines p b o p.iter).length
              let s := (p.cores n).foldl (fun s k => (s.syncLocked k extra).count R.DME_XPWAIT xp.toNat k) s
              s.setRun n (some { p with resident := true, maps := maps })
        | _, _ => s)

/-! ### Operand elements -/

/-- An operand as a core sees it: descriptor with its rank's offset, pages, the running count of a bound region. -/
structure View where
  core : Nat
  d : Desc
  m : PageMap
  start : Nat
deriving DecidableEq, Repr

/-- The view of a handle on a core of rank `r`. -/
def State.view (s : State) (p : Prog) (core r h : Nat) : View :=
  let d := (p.desc h).forRank r
  ⟨core, d, (p.maps.find? (fun x => x.1 == core)).elim [] (·.2), s.crTail d.crnum⟩

/-- Element `i` of an operand: a lossless stream's elements lie in its expanded lines (R252). -/
def State.viewElem (s : State) (v : View) (i : Nat) : Nat :=
  if v.d.layout = 3 then
    match s.tensorPhys v.d v.m .read v.start 0 with
    | none => 0
    | some base =>
      let w := typeBits v.d.typ
      let byte (k : Nat) : Byte := match (s.lines v.core).find? (fun l => l.addr == expandedKey base k) with
        | some l => l.data.getD (k % 128) 0
        | none => 0
      bits (leNat ((List.range 5).map (fun k => byte (i * w / 8 + k)))) (i * w % 8) w
  else s.elem (s.dmeByte v.core) v.d v.m v.start i

/-- Byte `t` of row `i` of a Bit or Byte operand of an XOR-popcount (R247). -/
def State.viewRowByte (s : State) (v : View) (i t : Nat) : Nat :=
  if v.d.typ = 10 then
    match s.tensorPhys v.d v.m .read v.start (i * v.d.stride 1 + t) with
    | some a => (s.dmeByte v.core a).toNat
    | none => 0
  else s.viewElem v (i * v.d.size 0 + t)

/-! ### The output pipeline (R259) -/

/-- What the pipeline takes from ARG and the core's registers. -/
structure Pipe where
  fmt : Nat
  outf : Nat
  typ : Nat                       -- D's type
  qmul : Nat
  qshift : Nat
  fn : Nat
  lo : Nat
  hi : Nat
  table : Nat → Nat               -- the 256-byte table of FN 3

/-- The integer path: `t` is the sum with addend and bias (R256, R259). -/
def Pipe.int (q : Pipe) (t : Int) : Nat :=
  let m := t * q.qmul
  let r := if q.qshift = 0 then m else (m + 2 ^ (q.qshift - 1)) / 2 ^ q.qshift
  let r := match q.fn with
    | 1 => max r 0
    | 2 => clampInt (toSigned 32 q.lo) (toSigned 32 q.hi) r
    | 3 => toSigned 8 (q.table (clampInt (-128) 127 r + 128).toNat)
    | _ => r
  match q.outf with
  | 0 => ofSigned 32 (satSigned 32 r)
  | 1 => FFmt.bf16.encode (FV.ofInt r)
  | _ => ofSigned 8 (satSigned 8 r)

/-- The floating path: `t` is the FP32 sum with addend and bias (R259). -/
def Pipe.float (q : Pipe) (t : Nat) : Nat :=
  let t := if q.qmul ≠ 1 ∨ q.qshift ≠ 0 then toF32 ((f32 t).mul (.fin false q.qmul (-(q.qshift : Int)))) else t
  let t := match q.fn with
    | 1 => if flt t 0 then 0 else t
    | 2 => fminNum (fmaxNum t q.lo) q.hi
    | _ => t
  f32ToElem q.typ t

/-- The pipeline of an operation on a core. -/
def State.pipe (s : State) (core : Nat) (o : OpRun) (d : Desc) : Pipe :=
  let a := dmeArg o
  { fmt := o.fmt, outf := (dmeOutf o d).getD 0, typ := d.typ, qmul := a.qmul, qshift := a.qshift, fn := a.fn,
    lo := s.rget R.DME_CLIPLO core, hi := s.rget R.DME_CLIPHI core,
    table := fun i => (s.mem.byte (l1Base core + s.fget F.DME_TABLE_OFS core * 256 + i)).toNat }

/-- Add the addend and the bias, and run the pipeline. `acc` is the integer accumulator, `facc` the FP32 one. -/
def Pipe.run (q : Pipe) (acc : Int) (facc : Nat) (c bias : Option Nat) : Nat :=
  if q.fmt = 0 then
    q.int (acc + (c.elim 0 (toSigned 32)) + (bias.elim 0 (toSigned 32)))
  else
    let t := match c with | some x => fadd facc x | none => facc
    let t := match bias with | some x => fadd t x | none => t
    q.float t

/-! ### MMA and DIST (R249, R256, R257, R260) -/

/-- The FP32 sum of products in ascending k (R257). -/
def dotF (l : List (Nat × Nat)) : Nat := l.foldl (fun acc x => fadd acc (fmul x.1 x.2)) 0

/-- The exact integer sum of products (R256). -/
def dotI (l : List (Int × Int)) : Int := l.foldl (fun acc x => acc + x.1 * x.2) 0

/-- One step of a distance in integers (Table 08-4). -/
def distI (mode : Nat) (l : List (Int × Int)) : Int :=
  match mode with
  | 0 => l.foldl (fun acc x => acc + (x.1 - x.2).natAbs) 0
  | 1 => l.foldl (fun acc x => acc + (x.1 - x.2) * (x.1 - x.2)) 0
  | 2 => match l with | [] => 0 | x :: t => t.foldl (fun acc y => min acc (y.1 + y.2)) (x.1 + x.2)
  | 3 => match l with | [] => 0 | x :: t => t.foldl (fun acc y => max acc (y.1 + y.2)) (x.1 + x.2)
  | _ => l.foldl (fun acc x => acc + (popCount 8 (x.1.toNat ^^^ x.2.toNat) : Nat)) 0

/-- A distance in FP32, one rounding per operation, ascending k (R260). -/
def distF (mode : Nat) (l : List (Nat × Nat)) : Nat :=
  match mode with
  | 0 => l.foldl (fun acc x => fadd acc (fabs (fsub x.1 x.2))) 0
  | 1 => l.foldl (fun acc x => let d := fsub x.1 x.2; fadd acc (fmul d d)) 0
  | 2 => match l with | [] => 0 | x :: t => t.foldl (fun acc y => fminN acc (fadd y.1 y.2)) (fadd x.1 x.2)
  | _ => match l with | [] => 0 | x :: t => t.foldl (fun acc y => fmaxN acc (fadd y.1 y.2)) (fadd x.1 x.2)

/-- The accumulator of output (i, j): integer and FP32. -/
def State.mmaAcc (s : State) (o : OpRun) (va vb : View) (k i j : Nat) : Int × Nat :=
  let mode := bits o.mod 12 4
  let ai (t : Nat) := if o.opc = 0x20 ∧ bit o.mod 15 then t * va.d.size 0 + i else i * va.d.size 0 + t
  let bi (t : Nat) := if o.opc = 0x20 then (if bit o.mod 14 then j * vb.d.size 0 + t else t * vb.d.size 0 + j) else j * vb.d.size 0 + t
  if o.opc = 0x21 ∧ mode = 4 then
    (distI 4 ((List.range k).map (fun t => ((s.viewRowByte va i t : Nat), (s.viewRowByte vb j t : Nat)))), 0)
  else
    let raw := (List.range k).map (fun t => (s.viewElem va (ai t), s.viewElem vb (bi t)))
    if o.fmt = 0 then
      let l := raw.map (fun x => (elemInt va.d.typ x.1, elemInt vb.d.typ x.2))
      (if o.opc = 0x20 then dotI l else distI mode l, 0)
    else
      let l := raw.map (fun x => (elemF32 va.d.typ x.1, elemF32 vb.d.typ x.2))
      (0, if o.opc = 0x20 then dotF l else distF mode l)

/-- Rows and columns of output tile `q` of an M × N output: tiles run row band by row band (R264). -/
def tileSpan (m n q : Nat) : List (Nat × Nat) :=
  let cb := ceilDiv n 64
  let r0 := q / cb * 64
  let c0 := q % cb * 64
  (List.range (min 64 (m - r0))).flatMap (fun i => (List.range (min 64 (n - c0))).map (fun j => (r0 + i, c0 + j)))

/-- The elements of output tile `q` of MMA or DIST: index in D and bits. -/
def State.mmaTile (s : State) (p : Prog) (b : Bundle) (o : OpRun) (core r q : Nat) : List (Nat × Nat) :=
  let h (k : Nat) := (b.handleAt o k p.iter).toNat
  let va := s.view p core r (h 0)
  let vb := s.view p core r (h 1)
  let d := p.desc (h 2)
  let (m, n, k) := mnk o va.d vb.d
  let a := dmeArg o
  let pipe := s.pipe core o d
  (tileSpan m n q).map (fun x =>
    let i := x.1 * n + x.2
    let acc := s.mmaAcc o va vb k x.1 x.2
    let c := if a.cen then some (s.viewElem (s.view p core r a.ch) i) else none
    let bs := if a.biasen then some (s.viewElem (s.view p core r a.bias) x.2) else none
    (i, pipe.run acc.1 acc.2 c bs))

/-! ### EWISE, NORM, SOFTMAX, ARGMAX (R261 to R263) -/

/-- The index of the element at coordinates, in element order. -/
def Desc.indexOf (d : Desc) (c : List Nat) : Nat :=
  c.getD 0 0 + d.size 0 * (c.getD 1 0 + d.size 1 * (c.getD 2 0 + d.size 2 * (c.getD 3 0 + d.size 3 * c.getD 4 0)))

/-- EWISE at output element `i`. -/
def State.ewiseElem (s : State) (p : Prog) (b : Bundle) (o : OpRun) (core r i : Nat) : Nat :=
  let h (k : Nat) := (b.handleAt o k p.iter).toNat
  let va := s.view p core r (h 0)
  let vb := s.view p core r (h 1)
  let d := p.desc (h 2)
  let a := dmeArg o
  let fn := bits o.mod 12 4
  let c := va.d.coords i
  let j := if fn = 5 then c.getD va.d.outermost 0
    else vb.d.indexOf ((List.range 5).map (fun k => if vb.d.size k = 1 then 0 else c.getD k 0))
  let x := s.viewElem va i
  let y := s.viewElem vb j
  let acc : Int × Nat :=
    if o.fmt = 0 then
      let x := elemInt va.d.typ x
      let y := elemInt vb.d.typ y
      (match fn with | 0 => x + y | 1 => x - y | 3 => max x y | 4 => min x y | _ => x * y, 0)
    else
      let x := elemF32 va.d.typ x
      let y := elemF32 vb.d.typ y
      (0, match fn with | 0 => fadd x y | 1 => fsub x y | 3 => fmaxN x y | 4 => fminN x y | _ => fmul x y)
  let ad := if a.cen then some (s.viewElem (s.view p core r a.ch) i) else none
  let bs := if a.biasen then some (s.viewElem (s.view p core r a.bias) (c.getD 0 0)) else none
  (s.pipe core o d).run acc.1 acc.2 ad bs

/-- The elements of A along the axis through the output element at coordinates `c`. -/
def State.axisLine (s : State) (v : View) (axis : Nat) (c : List Nat) : List Nat :=
  (List.range (v.d.size axis)).map (fun t => s.viewElem v (v.d.indexOf (c.set axis t)))

/-- Sequential FP32 sum in ascending index. -/
def sumF (l : List Nat) : Nat := l.foldl fadd 0

/-- The normalised value of element `x` of a line (R262): the exact formula on the computed mean and variance, rounded once;
`free` picks the value within 4 ulp. -/
def normValue (mode eps : Nat) (line : List Nat) (x sc sh free : Nat) : Nat :=
  let n := intToF line.length
  let mu := if mode = 0 then fdiv (sumF line) n else 0
  let v := if mode = 0 then fdiv (sumF (line.map (fun y => let d := fsub y mu; fmul d d))) n
    else fdiv (sumF (line.map (fun y => fmul y y))) n
  let root := ((f32 v).add (f32 eps)).sqrt.1
  let num := if mode = 0 then (f32 x).sub (f32 mu) else f32 x
  let q := (num.mul (f32 sc)).div root
  f32Within (FFmt.f32.encode (q.1.add (f32 sh)) q.2) 4 free

/-- The softmax of element `x` of a line (R262): the exact ratio rounded once; `free` picks the value within 4 ulp. -/
def softmaxValue (line : List Nat) (x free : Nat) : Nat :=
  let top := line.foldl fmaxN (line.headD 0)
  if (f32 top).isNaN || (f32 top).isInf then f32NaN
  else
    let e (y : Nat) : Nat := if (f32 y).isInf then 0 else expFix ((f32 y).sub (f32 top))
    let q := (FV.fin false (e x) 0).div (.fin false ((line.map e).sum) 0)
    f32Within (FFmt.f32.encode q.1 q.2) 4 free

/-- The index of the first greatest element: integers signed; a NaN counts as greater than every number (R263). -/
def argmaxOf (t : Nat) (l : List Nat) : Nat :=
  let less (x y : Nat) : Bool :=
    match typeFmt t with
    | some _ => let a := f32 (elemF32 t x); let b := f32 (elemF32 t y); (!a.isNaN && b.isNaN) || a.lt b
    | none => decide (elemInt t x < elemInt t y)
  match l.zipIdx with
  | [] => 0
  | x :: r => (r.foldl (fun (best : Nat × Nat) (y : Nat × Nat) => if less best.1 y.1 then y else best) x).2

/-- NORM, SOFTMAX or ARGMAX at output element `i`; `free` is the element's free value. -/
def State.axisElem (s : State) (p : Prog) (b : Bundle) (o : OpRun) (core r i free : Nat) : Nat :=
  let h (k : Nat) := (b.handleAt o k p.iter).toNat
  let va := s.view p core r (h 0)
  let d := p.desc (h 2)
  let axis := dmeAxis o
  let c := d.coords i
  let raw := s.axisLine va axis c
  if o.opc = 0x26 then argmaxOf va.d.typ raw
  else
    let line := raw.map (elemF32 va.d.typ)
    let pos := c.getD axis 0
    let x := line.getD pos 0
    let y := if o.opc = 0x24 then softmaxValue line x free
      else
        let vh := s.view p core r (h 1)
        normValue (bits o.mod 12 4) (s.rget R.DME_EPS core) line x (s.viewElem vh pos) (s.viewElem vh (line.length + pos)) free
    f32ToElem d.typ y

/-! ### WINO (R284 to R286) -/

/-- Rows of Bᵀ. -/
def winoIn (z : List Nat) (u : Nat) : Nat :=
  let g (k : Nat) := z.getD k 0
  match u with
  | 0 => fsub (g 0) (g 2)
  | 1 => fadd (g 1) (g 2)
  | 2 => fsub (g 2) (g 1)
  | _ => fsub (g 1) (g 3)

/-- Rows of Aᵀ. -/
def winoOut (z : List Nat) (i : Nat) : Nat :=
  let g (k : Nat) := z.getD k 0
  if i = 0 then fadd (fadd (g 0) (g 1)) (g 2) else fsub (fsub (g 1) (g 2)) (g 3)

/-- WINO at output element `i`. -/
def State.winoElem (s : State) (p : Prog) (b : Bundle) (o : OpRun) (core r i : Nat) : Nat :=
  let h (k : Nat) := (b.handleAt o k p.iter).toNat
  let va := s.view p core r (h 0)
  let d := p.desc (h 2)
  let c := d.coords i
  let a (l : List Nat) : Nat := elemF32 va.d.typ (s.viewElem va (va.d.indexOf l))
  let four := List.range 4
  let x (k : Nat) := c.getD k 0
  let y := match bits o.mod 12 4 with
    | 0 =>
      let tw := (va.d.size 0 - 2) / 2
      let tx := x 1 % tw
      let ty := x 1 / tw
      let u := x 2 / 4
      let v := four.map (fun j => winoIn (four.map (fun k => a [2 * tx + j, 2 * ty + k, x 0])) u)
      winoIn v (x 2 % 4)
    | 1 =>
      let tw := d.size 0 / 2
      let t := (x 1 / 2) * tw + x 0 / 2
      let z := four.map (fun w => winoOut (four.map (fun u => a [x 2, t, 4 * u + w])) (x 1 % 2))
      winoOut z (x 0 % 2)
    | 2 => winoIn (four.map (fun j => a [2 * x 1 + j, x 0])) (x 2)
    | _ => winoOut (four.map (fun u => a [x 1, x 0 / 2, u])) (x 0 % 2)
  f32ToElem d.typ y

/-! ### OPTIM (R354, R355) -/

/-- The coefficients of Table 12-4 by position. -/
structure Coef where
  lr : Nat
  beta1 : Nat
  beta2 : Nat
  eps : Nat
  wd : Nat
  clip : Nat
  gscale : Nat
  bc1 : Nat
  bc2 : Nat
  omb1 : Nat
  omb2 : Nat
deriving DecidableEq, Repr

/-- What OPTIM leaves of one element: parameter, m, v, working copy, and whether it counted as non-finite. -/
structure OptOut where
  p : Nat
  m : Nat
  v : Nat
  wc : Nat
  nonfinite : Bool
deriving DecidableEq, Repr

def isFinite (a : Nat) : Bool := !(f32 a).isNaN && !(f32 a).isInf

/-- The update of one element (R355). -/
def optimElem (alg : Nat) (k : Coef) (p grad m v : Nat) : OptOut :=
  let bf (x : Nat) := FFmt.bf16.encode (f32 x)
  let g := fmul grad k.gscale
  if !isFinite g then ⟨p, m, v, bf p, true⟩
  else
    let g := if flt 0 k.clip then fminNum (fmaxNum g (fneg k.clip)) k.clip else g
    let (m1, v1, u) :=
      if alg = 0 then
        let m1 := fadd (fmul k.beta1 m) g
        (m1, v, fadd m1 (fmul k.wd p))
      else
        let m1 := fadd (fmul k.beta1 m) (fmul k.omb1 g)
        let v1 := fadd (fmul k.beta2 v) (fmul k.omb2 (fmul g g))
        let den := fadd (fsqrt (fmul v1 k.bc2)) k.eps
        (m1, v1, fadd (fdiv (fmul m1 k.bc1) den) (fmul k.wd p))
    let p1 := fsub p (fmul k.lr u)
    if !isFinite p1 || !isFinite m1 || (alg == 1 && !isFinite v1) then ⟨p, m, v, bf p, true⟩
    else ⟨p1, m1, if alg = 1 then v1 else v, bf p1, false⟩

/-- The coefficient record of OPTIM as a core reads it. -/
def State.coef (s : State) (v : View) : Coef :=
  let b := (List.range 44).map (fun i => match s.tensorPhys v.d v.m .read v.start i with
    | some a => s.dmeByte v.core a
    | none => 0)
  ⟨leAt b 0 4, leAt b 4 4, leAt b 8 4, leAt b 12 4, leAt b 16 4, leAt b 20 4, leAt b 24 4, leAt b 28 4, leAt b 32 4, leAt b 36 4,
   leAt b 40 4⟩

/-- OPTIM over parameters `lo` to `hi - 1`: the elements of master copy, state and working copy, and the non-finite count. -/
def State.optimTile (s : State) (p : Prog) (b : Bundle) (o : OpRun) (core r lo hi : Nat) :
    List (Nat × Nat) × List (Nat × Nat) × List (Nat × Nat) × Nat :=
  let h (k : Nat) := (b.handleAt o k p.iter).toNat
  let vp := s.view p core r (h 0)
  let vg := s.view p core r (h 1)
  let vs := s.view p core r (h 2)
  let k := s.coef (s.view p core r (optimCo o))
  let alg := bits (o.arg.getD 0) 36 4
  let res := (List.range (hi - lo)).map (fun t =>
    let i := lo + t
    (i, if alg = 0 then optimElem 0 k (s.viewElem vp i) (s.viewElem vg i) (s.viewElem vs i) 0
        else optimElem 1 k (s.viewElem vp i) (s.viewElem vg i) (s.viewElem vs (2 * i)) (s.viewElem vs (2 * i + 1))))
  (res.map (fun x => (x.1, x.2.p)),
   res.flatMap (fun x => if alg = 0 then [(x.1, x.2.m)] else [(2 * x.1, x.2.m), (2 * x.1 + 1, x.2.v)]),
   res.map (fun x => (x.1, x.2.wc)), (res.filter (fun x => x.2.nonfinite)).length)

/-! ### Output tiles (R264 to R269) -/

/-- Elements that the 4,096 of an output tile run over: D's, or OPTIM's parameters. -/
def outCount (p : Prog) (b : Bundle) (o : OpRun) : Nat :=
  (p.desc (b.handleAt o (if o.opc = 0x25 then 0 else 2) p.iter).toNat).count

/-- Output tiles of an operation (R264). -/
def tileCount (p : Prog) (b : Bundle) (o : OpRun) : Nat :=
  let d := p.desc (b.handleAt o 2 p.iter).toNat
  if o.opc = 0x20 ∨ o.opc = 0x21 then ceilDiv (d.size 1) 64 * ceilDiv (d.size 0) 64 else ceilDiv (outCount p b o) 4096

/-- The results of output tile `q` on one core: by handle, the elements and their bits; and the non-finite count of OPTIM. -/
def State.tileResults (s : State) (p : Prog) (b : Bundle) (o : OpRun) (core r q : Nat) : List (Nat × List (Nat × Nat)) × Nat :=
  let lo := 4096 * q
  let hi := min (outCount p b o) (lo + 4096)
  let d := (b.handleAt o 2 p.iter).toNat
  let each (f : Nat → Nat) : List (Nat × List (Nat × Nat)) × Nat := ([(d, (List.range (hi - lo)).map (fun t => (lo + t, f (lo + t))))], 0)
  match o.opc with
  | 0x20 | 0x21 => ([(d, s.mmaTile p b o core r q)], 0)
  | 0x22 => each (fun i => s.ewiseElem p b o core r i)
  | 0x25 =>
    let x := s.optimTile p b o core r lo hi
    ([((b.handleAt o 0 p.iter).toNat, x.1), (d, x.2.1), ((optimWc b o p.iter).toNat, x.2.2.1)], x.2.2.2)
  | 0x27 => each (fun i => s.winoElem p b o core r i)
  | _ => each (fun i => s.axisElem p b o core r i (Config.freeNat (s.free + i - lo)))

/-- The row and column of an output tile, as DETAIL gives them (Table 04-5). -/
def tileDetail (p : Prog) (b : Bundle) (o : OpRun) (q : Nat) : Nat :=
  if o.opc = 0x20 ∨ o.opc = 0x21 then
    let cb := ceilDiv ((p.desc (b.handleAt o 2 p.iter).toNat).size 0) 64
    q / cb + 65536 * (q % cb)
  else q

/-- Write elements of D on one core: its pages translated first; the fault, or the state (R139, R266). -/
def State.dmeStore (s : State) (p : Prog) (core r h : Nat) (vals : List (Nat × Nat)) : (Option (Touch × Nat)) × State :=
  let d := (p.desc h).forRank r
  let offs := (vals.flatMap (fun x => (List.range d.ebytes).map (· + (d.pos x.1).1))).eraseDups
  match s.touch (4 + core) p.start.ctx (d.touches h .write offs) [] with
  | (.fault t f, s) => (some (t, f), s)
  | (.ok m, s) =>
    let m := s.noRemote m
    let s := s.violatePages (4 + core) p.start.ctx m
    (none, s.dmeWrite core (s.elemWrites d m (s.crHead d.crnum) vals).reverse)

/-- Write the results of every core and handle in turn; stops at the first fault. -/
def State.dmeStoreAll (s : State) (p : Prog) : List (Nat × Nat × Nat × List (Nat × Nat)) → (Option (Touch × Nat)) × State
  | [] => (none, s)
  | (core, r, h, vals) :: t =>
    match s.dmeStore p core r h vals with
    | (some f, s) => (some f, s)
    | (none, s) => s.dmeStoreAll p t

/-- Every page the results of a step touch is mapped: the first that is not (R139). -/
def State.dmeUnmapped (s : State) (p : Prog) (l : List (Nat × Nat × Nat × List (Nat × Nat))) : Option (Touch × Nat) :=
  l.findSome? (fun x =>
    let d := (p.desc x.2.2.1).forRank x.2.1
    let offs := (x.2.2.2.flatMap (fun v => (List.range d.ebytes).map (· + (d.pos v.1).1))).eraseDups
    match (s.touch (4 + x.1) p.start.ctx (d.touches x.2.2.1 .write offs) []).1 with
    | .fault t f => some (t, f)
    | .ok _ => none)

/-- The columns of an MMA tile that R267 does not compare: m_j infinite. -/
def State.skippedColumns (s : State) (p : Prog) (b : Bundle) (o : OpRun) (core r q : Nat) : Nat :=
  if o.opc ≠ 0x20 ∨ o.fmt = 0 then 0
  else
    let va := s.view p core r (b.handleAt o 0 p.iter).toNat
    let vb := s.view p core r (b.handleAt o 1 p.iter).toNat
    let (m, n, k) := mnk o va.d vb.d
    let span := tileSpan m n q
    let rows := (span.map (·.1)).eraseDups
    let cols := (span.map (·.2)).eraseDups
    let a (i t : Nat) := fabs (elemF32 va.d.typ (s.viewElem va (if bit o.mod 15 then t * va.d.size 0 + i else i * va.d.size 0 + t)))
    let bv (t j : Nat) := fabs (elemF32 vb.d.typ (s.viewElem vb (if bit o.mod 14 then j * vb.d.size 0 + t else t * vb.d.size 0 + j)))
    let am := (List.range k).map (fun t => sumF (rows.map (fun i => a i t)))
    (cols.filter (fun j => (f32 (dotF (am.zipIdx.map (fun x => (x.1, bv x.2 j))))).isInf)).length

/-- A check of a tile failed on one core: counted and reported; `verdict` 1 transient, 2 persistent, 3 not repeated (R269). -/
def State.dmeVerdict (s : State) (n core : Nat) (p : Prog) (o : OpRun) (verdict : Nat) : State :=
  let s := if verdict = 1 then s.count R.DME_CSFIX 1 core else s.count R.DME_CSFAIL 1 core
  s.card { block := 0xA, event := 1, verdict := verdict, ctx := p.start.ctx, ukind := 2, ua := core, engine := n, slot := o.slot,
           handle := p.handle o 0, pc := p.pc, prog := p.start.prog, detail := leBytes 8 o.step }

/-- Staged results as the operation holds them: handle + 4096 × core index, element index, bits. -/
def unstage (p : Prog) (n : Nat) (l : List (Nat × Nat × List Byte)) : List (Nat × Nat × Nat × List (Nat × Nat)) :=
  let keys := (l.map (·.1)).eraseDups
  keys.map (fun k => ((p.cores n).getD (k / 4096) 0, k / 4096, k % 4096,
    (l.filter (fun x => x.1 == k)).map (fun x => (x.2.1, leNat x.2.2))))

/-- The DME operation of stream `n` ends: its lines unlock, TILES counts, the next iteration needs its own operands. -/
def State.dmeFinish (s : State) (n : Nat) (p : Prog) (o : OpRun) : State :=
  (s.unlockProg n p).finishOp n { p with resident := false, maps := [] } o

/-- DME_OUTPUT_TILE: the next output tile of stream `n` completes on every core of the program, after its check, and is written or
staged; the last tile also commits staged results. `core` is the core whose check failed and `fails` how many times in a
row it did (R265 to R269, R356). -/
def execDmeOutputTile (n : Fin 22) (core : Fin 8) (fails : Fin 5) (s : State) : Out State :=
  .next (s.withOp n.val (fun o => o.started && decide (0x20 ≤ o.opc) && decide (o.opc ≤ 0x27)) (fun p o =>
    let n := n.val
    match (if p.resident then p.bundle else none) with
    | none => s
    | some b =>
      let cores := (p.cores n).zipIdx
      let hit := fails.val ≠ 0 ∧ (p.cores n).contains core.val
      let retry := s.fget F.DME_CTL_CSRETRY core.val
      if hit ∧ p.timed = true then
        ((s.dmeVerdict n core.val p o 3).halt n 0x0B o.slot (p.handle o 0) 0).breakGroup n
      else if hit ∧ retry < fails.val then (s.dmeVerdict n core.val p o 2).halt n 0x0B o.slot (p.handle o 0) 0
      else
        let s := if hit then s.dmeVerdict n core.val p o 1 else s
        let res := cores.map (fun k => (k.1, k.2, s.tileResults p b o k.1 k.2 o.step))
        let flat := res.flatMap (fun x => x.2.2.1.map (fun y => (x.1, x.2.1, y.1, y.2)))
        let last := o.step + 1 = o.nsteps
        let stage := dmeStaged p b o p.iter
        let held := if stage then o.staged ++ flat.flatMap (fun x => x.2.2.2.map (fun v => (x.2.2.1 + 4096 * x.2.1, v.1, leBytes 4 v.2)))
          else []
        let out := if stage then (if last then unstage p n held else []) else flat
        match s.dmeUnmapped p out with
        | some (t, f) => s.suspendOp n p o 2 t f (tileDetail p b o o.step)
        | none =>
          let s := res.foldl (fun s x =>
            let s := s.count R.DME_CSSKIP (s.skippedColumns p b o x.1 x.2.1 o.step) x.1
            (s.count R.DME_OPTNF x.2.2.2 x.1).count R.DME_TILES 1 x.1) s
          let s := { s with free := s.free + 4096 }
          let s := (s.dmeStoreAll p out).2
          let o := { o with step := o.step + 1, staged := held }
          if last then s.dmeFinish n p { o with staged := [] } else s.setOp n p o))

/-- Begin the DME operation of opcode `opc` of stream `n`, once its operands are resident (R250). -/
def State.dmeBegin (s : State) (n opc : Nat) : State :=
  s.beginOp n opc (fun p o => match p.bundle with
    | none => s
    | some b =>
      if !p.resident then s
      else s.setOp n p { o with started := true, step := 0, nsteps := tileCount p b o, staged := [] })

/-- MMA: the issued operation of stream `n` begins (R246 to R249, R256 to R259). -/
def execMma (n : Fin 22) (s : State) : Out State := .next (s.dmeBegin n.val 0x20)
/-- DIST (R260). -/
def execDist (n : Fin 22) (s : State) : Out State := .next (s.dmeBegin n.val 0x21)
/-- EWISE (R261). -/
def execEwise (n : Fin 22) (s : State) : Out State := .next (s.dmeBegin n.val 0x22)
/-- NORM (R262). -/
def execNorm (n : Fin 22) (s : State) : Out State := .next (s.dmeBegin n.val 0x23)
/-- SOFTMAX (R262). -/
def execSoftmax (n : Fin 22) (s : State) : Out State := .next (s.dmeBegin n.val 0x24)
/-- OPTIM (R354, R355). -/
def execOptim (n : Fin 22) (s : State) : Out State := .next (s.dmeBegin n.val 0x25)
/-- ARGMAX (R263). -/
def execArgmax (n : Fin 22) (s : State) : Out State := .next (s.dmeBegin n.val 0x26)
/-- WINO (R284 to R286). -/
def execWino (n : Fin 22) (s : State) : Out State := .next (s.dmeBegin n.val 0x27)

/-! ### Supply and retirement (R271, R272) -/

/-- Retire core `k` (R272): its program halts, its starts drop, broadcasts that include it halt, its L1 window becomes a hole and
the regions in it INVALID, a report card is written. `perm` also programs the OTP bit. -/
def State.retireCore (s : State) (k : Nat) (perm : Bool) : State :=
  let s := if perm then s.setFlag F.DME_STAT_PERMANENT true k else s
  if s.flag F.DME_STAT_RETIRED k then s
  else
    let n := 4 + k
    let s := s.halt n 0x12 15 0xFFFF 0
    let gone := (s.stream n).queue ++ (s.stream n).held
    let s := s.setStream n { s.stream n with queue := [], held := [] }
    let s := gone.foldl (fun s q => s.addCompletion n (Prog.ofStart q) 2 0 0) s
    let s := (List.range 8).foldl (fun s j =>
      match (s.stream (4 + j)).run with
      | some p => if p.start.bcast && bit p.start.cmask k then s.halt (4 + j) 0x12 15 0xFFFF 0 else s
      | none => s) s
    let s := s.setFlag F.DME_STAT_RETIRED true k
    let s := (s.setLines k []).invalidateRegions (l1Base k) (l1Base k + 0x100000)
    s.card { block := 0xA, event := 2, ukind := 2, ua := k }

/-- What a write of `v` to DME_CTL of core `k` does (Table 08-7). -/
def State.writeDmeCtl (s : State) (k : Nat) (v : Word) : State :=
  let old := s.fget F.DME_CTL_VSTEP k
  let s := (s.fset F.DME_CTL_CSRETRY (getField v 12 2) k).fset F.DME_CTL_DUTY (getField v 0 4) k
  let s := s.fset F.DME_CTL_VSTEP (getField v 8 2) k
  let s := if getField v 8 2 ≠ old then s.setFlag F.DME_STAT_VSETTLE true k else s
  if bit v.toNat 30 then s.retireCore k true else if bit v.toNat 31 then s.retireCore k false else s

/-- A write to DME_CTL by home or the safety context; a core that is not enabled is a hole. -/
def State.dmeCtlWrite (s : State) (r : Req) (k : Nat) (v : Word) : State :=
  if !s.ctxEnabled (s.ctxOf r) then s.violateBy r 0xD (R.DME_CTL.at k)
  else if !s.coreEnabled k then s.violateBy r 0x4 (R.DME_CTL.at k)
  else if s.ctxOf r = 0 ∨ s.ctxOf r = 7 then s.writeDmeCtl k v else s.violateBy r 0x5 (R.DME_CTL.at k)

/-- DME_CORE_RETIRE: a write of DME_CTL with RETIRE = 1 (R272). -/
def execDmeCoreRetire (r : Req) (k : Fin 8) (v : Word) (s : State) : Out State :=
  .next (s.dmeCtlWrite r k.val (setField v 31 1 1))

/-- DME_CORE_RETIRE_PERM: a write of DME_CTL with PERM = 1 (R272). -/
def execDmeCoreRetirePerm (r : Req) (k : Fin 8) (v : Word) (s : State) : Out State :=
  .next (s.dmeCtlWrite r k.val (setField v 30 1 1))

/-- VSTEP_CHANGE: a write of DME_CTL.VSTEP; the supply settles meanwhile (R271). -/
def execVstepChange (r : Req) (k : Fin 8) (v : Word) (s : State) : Out State :=
  .next (s.dmeCtlWrite r k.val (v &&& 0x3FFFFFFF))

/-- VSTEP_SETTLED: the local supply of a core has settled (R271). -/
def execVstepSettled (k : Fin 8) (s : State) : Out State := .next (s.setFlag F.DME_STAT_VSETTLE false k.val)

end Sys2Proof.Machine
end

