-- ==== Sys2Proof/Machine/SigMath.lean ====
section
/-! DEFINITION. The arithmetic of the signal engine (R325, R327 to R332): windows, transforms and moments. Where the spec gives an
accuracy, the result is a free value within it; elsewhere one FP32 rounding follows each operation. -/

namespace Sys2Proof.Machine

/-! ### Elementary functions at 2^192 -/

/-- π scaled by 2^192. -/
def piFix : Nat := 0x3243F6A8885A308D313198A2E03707344A4093822299F31D0

/-- The cosine series in Horner form, for a squared argument `x2` at 2^192. -/
def cosSeries (x2 : Int) : Nat → Int → Int
  | 0, acc => acc
  | k + 1, acc => cosSeries x2 k (2 ^ 192 - x2 * acc / 2 ^ 192 / ((2 * k + 1) * (2 * k + 2)))

/-- The cosine of `num/den` turns, at 2^192. -/
def cosTurn (num den : Int) : Int :=
  let x := num % den * (2 * piFix) / den
  cosSeries (x * x / 2 ^ 192) 60 (2 ^ 192)

/-- The sine of `num/den` turns. -/
def sinTurn (num den : Int) : Int := cosTurn (4 * num - den) (4 * den)

/-- A number at 2^192 as a value. -/
def fixV (x : Int) : FV := FV.ofIntAt x (-192)

/-- The odd powers of `z` over their exponents, in Horner form. -/
def atanhSeries (z2 : Int) : Nat → Int → Int
  | 0, acc => acc
  | k + 1, acc => atanhSeries z2 k (2 ^ 192 / (2 * k + 1) + z2 * acc / 2 ^ 192)

/-- The natural logarithm of a positive finite value, at 2^192. -/
def lnFix (m : Nat) (e : Int) : Int :=
  let t := Nat.log2 m
  let x : Int := (m * 2 ^ 192 / 2 ^ t : Nat)
  let z := (x - 2 ^ 192) * 2 ^ 192 / (x + 2 ^ 192)
  (e + t) * ln2Fix + 2 * (z * atanhSeries (z * z / 2 ^ 192) 62 0 / 2 ^ 192)

/-- ln of an FP32 pattern: negative arguments give NaN, zero −∞. -/
def lnV (a : Nat) : FV :=
  match f32 a with
  | .fin n m e => if m = 0 then .inf true else if n then .nan else fixV (lnFix m e)
  | .inf n => if n then .nan else .inf false
  | .nan => .nan

/-- `n` terms of the series of I0 in `y` = (x/2)², at 2^192: `k` counts the terms done, `t` is the current one. -/
def i0Series (y : Nat) : Nat → Nat → Nat → Nat → Nat
  | 0, _, _, acc => acc
  | n + 1, k, t, acc => i0Series y n (k + 1) (t * y / 2 ^ 192 / ((k + 1) * (k + 1))) (acc + t)

/-- I0(x), from (x/2)² at 2^192. -/
def i0Fix (y : Nat) : Nat := i0Series y 1200 0 (2 ^ 192) 0

/-! ### Results within a stated accuracy -/

/-- A square root within 1 ulp (R325). -/
def sqrtNear (a d : Nat) : Nat := f32Within (fsqrt a) 1 d

/-- A natural logarithm within 1 ulp (R325). -/
def lnNear (a d : Nat) : Nat := f32Within (toF32 (lnV a)) 1 d

/-- 10·log10 of a value: within 4 ulp, what a logarithm within 1 ulp and a product leave. -/
def decibel (a d : Nat) : Nat :=
  let ten := fixV (lnFix 10 0)
  let q := ((lnV a).mul (FV.ofInt 10)).div ten
  f32Within (FFmt.f32.encode q.1 q.2) 4 d

/-! ### Windows (R329) -/

/-- Cosine coefficients of window codes 1 to 4, in units of 10^−9; signs alternate. -/
def windowCoefs : Nat → List Nat
  | 1 => [500000000, 500000000]
  | 2 => [540000000, 460000000]
  | 3 => [358750000, 488290000, 141280000, 11680000]
  | 4 => [215578950, 416631580, 277263158, 83578947, 6947368]
  | _ => [1000000000]

/-- The exact value of window `code` at sample `i` of `n`, and whether it lies a little above; β = `p`/16. -/
def windowExact (code i n p : Nat) : FV × Bool :=
  if code = 5 then
    let a : Int := 2 * i - n
    let y : Int := (p * p : Nat) * ((n * n : Nat) - a * a) * 2 ^ 192 / (1024 * (n * n : Nat))
    (FV.fin false (i0Fix y.toNat) 0).div (.fin false (i0Fix (p * p * 2 ^ 192 / 1024)) 0)
  else
    let l := (windowCoefs code).zipIdx
    let x : Int := l.foldl (fun a c => if c.2 % 2 = 0 then a + c.1 * cosTurn (i * c.2) n else a - c.1 * cosTurn (i * c.2) n) 0
    (fixV x).div (FV.ofInt 1000000000)

/-- The window value the engine uses: exact for code 0, the AUX element for code 6, else within 2 ulp. -/
def windowVal (code i n p : Nat) (aux : List Nat) (d : Nat) : Nat :=
  if code = 0 then 0x3F800000
  else if code = 6 then aux.getD i 0
  else let w := windowExact code i n p; f32Within (FFmt.f32.encode w.1 w.2) 2 d

/-- A row multiplied by its window. `fr` gives the free values. -/
def windowed (code p : Nat) (aux row : List Nat) (fr : Nat → Nat) : List Nat :=
  row.zipIdx.map (fun x => fmul x.1 (windowVal code x.2 row.length p aux (fr x.2)))

/-! ### Transforms (R328) -/

/-- A complex number as two FP32 patterns. -/
abbrev Cplx := Nat × Nat

/-- The exact value of bin `k` of the `n`-point transform of `xs`, forward, or inverse without its factor 1/n. -/
def dftExact (xs : List Cplx) (n k : Nat) (inv : Bool) : FV × FV :=
  xs.zipIdx.foldl (fun (acc : FV × FV) (x : Cplx × Nat) =>
    let c := fixV (cosTurn (x.2 * k) n)
    let s0 := fixV (sinTurn (x.2 * k) n)
    let s := if inv then s0.neg else s0
    let re := f32 x.1.1
    let im := f32 x.1.2
    (acc.1.add ((re.mul c).add (im.mul s)), acc.2.add ((im.mul c).sub (re.mul s)))) (.fin false 0 0, .fin false 0 0)

/-- The square of the accuracy bound 2^−20·log2 N·√N·‖x‖. -/
def dftBound2 (xs : List Cplx) (n : Nat) : FV :=
  let norm2 := xs.foldl (fun (a : FV) (x : Cplx) => (a.add ((f32 x.1).mul (f32 x.1))).add ((f32 x.2).mul (f32 x.2))) (.fin false 0 0)
  let l := if 2 ^ Nat.log2 n = n then Nat.log2 n else Nat.log2 n + 1
  norm2.mul (.fin false (n * l * l) (-40))

/-- A complex result: the free values name a pair of FP32 numbers, taken where it lies within the bound, else the nearest pair. -/
def cplxWithin (x : FV × FV) (bound2 : FV) (d1 d2 : Nat) : Cplx :=
  let a := d1 % 2 ^ 32
  let b := d2 % 2 ^ 32
  let e1 := (f32 a).sub x.1
  let e2 := (f32 b).sub x.2
  let dist2 := (e1.mul e1).add (e2.mul e2)
  if dist2.lt bound2 || dist2.eq bound2 then (a, b) else (toF32 x.1, toF32 x.2)

/-- Bin `k` as the engine computes it. The inverse is scaled by 1/n. -/
def dftBin (xs : List Cplx) (n k : Nat) (inv : Bool) (d1 d2 : Nat) : Cplx :=
  let x := dftExact xs n k inv
  let x := if inv then ((x.1.div (FV.ofInt n)).1, (x.2.div (FV.ofInt n)).1) else x
  cplxWithin x (dftBound2 xs n) d1 d2

/-- re² + im². -/
def power (z : Cplx) : Nat := fadd (fmul z.1 z.1) (fmul z.2 z.2)

/-- The output elements of an FFT of a windowed input, `bins` of them; `out` 0 complex, 1 power, 2 magnitude. -/
def fftRow (xs : List Cplx) (n bins out : Nat) (inv : Bool) (fr : Nat → Nat) : List Nat :=
  (List.range bins).flatMap (fun k =>
    let z := dftBin xs n k inv (fr (3 * k)) (fr (3 * k + 1))
    match out with
    | 0 => [z.1, z.2]
    | 1 => [power z]
    | _ => [sqrtNear (power z) (fr (3 * k + 2))])

/-- ENV of a row (R330): the band `lo` to `hi`, 2^`dl` magnitudes averaged. -/
def envRow (row : List Nat) (lo hi dl : Nat) (fr : Nat → Nat) : List Nat :=
  let n := row.length
  let xs : List Cplx := row.map (fun x => (x, 0))
  let ys : List Cplx := (List.range n).map (fun k =>
    if lo ≤ k ∧ k ≤ hi then
      let z := dftBin xs n k false (fr (5 * k)) (fr (5 * k + 1))
      (fmul 0x40000000 z.1, fmul 0x40000000 z.2)
    else (0, 0))
  let mags := (List.range n).map (fun i =>
    sqrtNear (power (dftBin ys n i true (fr (5 * i + 2)) (fr (5 * i + 3)))) (fr (5 * i + 4)))
  (List.range (n / 2 ^ dl)).map (fun j => fdiv (sumF ((mags.drop (j * 2 ^ dl)).take (2 ^ dl))) (intToF (2 ^ dl : Nat)))

/-- CEPS of a row of N/2 + 1 powers (R331). -/
def cepsRow (row : List Nat) (eps : Nat) (fr : Nat → Nat) : List Nat :=
  let h := row.length - 1
  let n := 2 * h
  let ln := row.zipIdx.map (fun x => lnNear (fmaxN x.1 eps) (fr (3 * x.2)))
  let xs : List Cplx := (List.range n).map (fun k => (ln.getD (if k ≤ h then k else n - k) 0, 0))
  (List.range row.length).map (fun q => fdiv (dftBin xs n q false (fr (3 * q + 1)) (fr (3 * q + 2))).1 (intToF n))

/-- SKURT of a row with segments of 2^`nl` samples (R331). -/
def skurtRow (row : List Nat) (nl : Nat) (fr : Nat → Nat) : List Nat :=
  let ns := 2 ^ nl
  let segs := (row.length - ns) / (ns / 2) + 1
  let parts : List (List Cplx) := (List.range segs).map (fun s =>
    (windowed 1 0 [] ((row.drop (s * (ns / 2))).take ns) fr).map (fun x => (x, 0)))
  (List.range (ns / 2 + 1)).map (fun k =>
    let ps := parts.zipIdx.map (fun x =>
      power (dftBin x.1 ns k false (fr (ns + 2 * (k * segs + x.2))) (fr (ns + 2 * (k * segs + x.2) + 1))))
    let s2 := sumF ps
    let den := fmul s2 s2
    if feq den 0 then 0 else fsub (fdiv (fmul (intToF segs) (sumF (ps.map (fun y => fmul y y)))) den) 0x40000000)

/-! ### BAND, STATS, LAYER, MARKER, RESAMP -/

/-- The ascending FP32 sum of elements `lo` to `hi` that exist. -/
def bandSum (row : List Nat) (lo hi : Int) : Nat :=
  if hi < 0 ∨ hi < lo then 0 else sumF ((row.take (hi + 1).toNat).drop lo.toNat)

/-- The eight results of STATS (R332). -/
def statsRow (row : List Nat) (fr : Nat → Nat) : List Nat :=
  let n := intToF row.length
  let mean := fdiv (sumF row) n
  let rms := sqrtNear (fdiv (sumF (row.map (fun x => fmul x x))) n) (fr 0)
  let peak := (row.map fabs).foldl fmaxN 0
  let span := fsub (row.foldl fmaxN (row.headD 0)) (row.foldl fminN (row.headD 0))
  let c := row.map (fun x => fsub x mean)
  let m2 := fdiv (sumF (c.map (fun x => fmul x x))) n
  let m3 := fdiv (sumF (c.map (fun x => fmul (fmul x x) x))) n
  let m4 := fdiv (sumF (c.map (fun x => fmul (fmul x x) (fmul x x)))) n
  [mean, rms, peak, span, fdiv peak rms, fdiv m4 (fmul m2 m2), fdiv m3 (fmul m2 (sqrtNear m2 (fr 1))), n]

/-- One output of LAYER (R332): `x c t` is input channel `c` at position `t`, `w k c` the weight. -/
def layerOut (x : Nat → Int → Nat) (w : Nat → Nat → Nat) (cin kt p stride dil pad : Nat) (bias : Option Nat) (relu : Bool) : Nat :=
  let terms := (List.range cin).flatMap (fun c => (List.range kt).map (fun k =>
    fmul (w k c) (x c ((stride * p + dil * k : Nat) - (pad : Int)))))
  let y := sumF terms
  let y := match bias with | some b => fadd y b | none => y
  if relu && flt y 0 then 0 else y

/-- The interpolated value of RESAMP between samples (R339), within 4 ulp: `r` of `per` cycles past sample `i`. -/
def resampPoint (linear : Bool) (x : Int → Int) (i : Int) (r per : Nat) (d : Nat) : Nat :=
  let r : Int := r
  let p : Int := per
  let q :=
    if linear then (FV.ofInt ((p - r) * x i + r * x (i + 1))).div (FV.ofInt p)
    else (FV.ofInt (-(r * (r - p) * (r - 2 * p)) * x (i - 1) + 3 * ((r + p) * (r - p) * (r - 2 * p)) * x i
      - 3 * ((r + p) * r * (r - 2 * p)) * x (i + 1) + (r + p) * r * (r - p) * x (i + 2))).div (FV.ofInt (6 * p * p * p))
  f32Within (FFmt.f32.encode q.1 q.2) 4 d

/-- The interpolated points of a block whose first sample lies `ofs` cycles after OPEN: the valid points of the table, in order. -/
def resampRow (linear : Bool) (table : List Nat) (xs : List Int) (ofs : Int) (per : Nat) (fr : Nat → Nat) : List Nat :=
  let n : Int := xs.length
  let x (i : Int) : Int := xs.getD i.toNat 0
  table.zipIdx.filterMap (fun e =>
    if e.1 = 0xFFFFFFFF ∨ per = 0 then none
    else
      let t : Int := (e.1 : Int) - ofs
      let i := t / (per : Int)
      let r := (t % (per : Int)).toNat
      let ok := if linear then 0 ≤ i ∧ i + 1 < n else 1 ≤ i ∧ i + 2 < n
      if ok then some (resampPoint linear x i r per (fr e.2)) else none)

end Sys2Proof.Machine
end

