-- ==== Sys2Proof/Machine/Ledger.lean ====
section
/-! DEFINITION. The usage ledger and the event recorder (spec/14): the evaluation of a tick, tariffs and demand intervals, the
records and their two-phase writing, snapshots, cut and restart; the draining of the event ring. -/

namespace Sys2Proof.Machine

/-! ### FP64 (R398, R399) -/

/-- The value of an FP64 pattern, and a value rounded to one. -/
def f64 (x : Nat) : FV := FFmt.f64.decode x
def toF64 (v : FV) : Nat := FFmt.f64.encode v
def dadd (a b : Nat) : Nat := toF64 ((f64 a).add (f64 b))
def dmul (a b : Nat) : Nat := toF64 ((f64 a).mul (f64 b))

/-- The integer part, rounded down, of a finite value; 0 for the others. -/
def FV.floor : FV → Int
  | .fin neg m e =>
    let x : Int := if neg then -(m : Int) else m
    if 0 ≤ e then x * (2 ^ e.toNat : Nat) else x / (2 ^ (-e).toNat : Nat)
  | _ => 0

/-- The quotient of two finite values, the second above 0, rounded down; 0 otherwise. -/
def FV.floorDiv (a b : FV) : Int :=
  match a, b with
  | .fin na ma ea, .fin nb mb eb =>
    if nb || mb == 0 then 0
    else
      let q := min ea eb
      FV.at na ma ea q / FV.at nb mb eb q
  | _, _ => 0

/-- x to the power y for finite x above 0, in FP64; its last place is free within one. -/
def dpow (x y : FV) (d : Nat) : Nat :=
  match x, y with
  | .fin false m e, .fin n my ey =>
    if m = 0 then 0
    else
      let l := lnFix m e
      let w : Int := if n then -(my : Int) else my
      let t : Int := if 0 ≤ ey then w * l * (2 ^ ey.toNat : Nat) else w * l / (2 ^ (-ey).toNat : Nat)
      let k := t / ln2Fix + 1
      let v := toF64 (.fin false (expFix (fixV (t - k * ln2Fix))) (k - 192))
      if v = 0 ∨ FFmt.f64.top ≤ v + 1 then v else v + d % 3 - 1
  | _, _ => FFmt.f64.nanPat

/-! ### The profile (Table 14-1) -/

def Ledger.tsrc (l : Ledger) : Nat := leAt l.profile 0 1
def Ledger.spdOn (l : Ledger) : Bool := bit (leAt l.profile 1 1) 7

/-- DEMMIN in ns: 0 and values that do not divide 60 act as 15 minutes (R397). -/
def Ledger.len (l : Ledger) : Nat :=
  let m := leAt l.profile 2 1
  (if m = 0 ∨ 60 % m ≠ 0 then 15 else m) * 60000000000

def Ledger.fp (l : Ledger) (o : Nat) (dflt : Nat := 0) : FV :=
  let x := leAt l.profile o 4
  f32 (if x = 0 then dflt else x)

def Ledger.zone (l : Ledger) : Int := toSigned 16 (leAt l.profile 44 2)
def Ledger.leaps (l : Ledger) : Nat := if leAt l.profile 46 1 = 0 then 37 else leAt l.profile 46 1
def Ledger.snapNs (l : Ledger) : Nat := (if leAt l.profile 47 1 = 0 then 24 else leAt l.profile 47 1) * 3600000000000
def Ledger.nsched (l : Ledger) : Nat := min 32 (leAt l.profile 48 1)
def Ledger.hysl (l : Ledger) : Nat := if leAt l.profile 49 1 = 0 then 1 else leAt l.profile 49 1

def State.setLedger (s : State) (l : Ledger) : State := { s with ledger := l }

/-- Local time at a cycle under a wall-time offset, in ns. -/
def Ledger.localAt (l : Ledger) (t : Nat) (ofs : Int) : Int :=
  (t : Int) + ofs - (l.leaps * 1000000000 : Nat) + l.zone * 60000000000

/-- The demand-interval boundaries around a local time: the last one at or before it, the first one after it (R402). -/
def Ledger.boundAt (l : Ledger) (x : Int) : Int := x / l.len * l.len
def Ledger.boundAfter (l : Ledger) (x : Int) : Int := l.boundAt x + l.len

/-- The offset in force as a signed number of ns. -/
def State.ofsNow (s : State) : Int := toSigned 64 s.wallOfs

def State.wallValid (s : State) : Bool := s.flag F.SYS_WALLSTAT_VALID

/-! ### Tariffs (R401) -/

/-- The schedule's tariff at a local time: that of the entry and weekday passed last, back across the week; of entries at the
same minute the first. None where no entry names a day. -/
def Ledger.scheduled (l : Ledger) (x : Int) : Option Nat :=
  let w := ((x / 86400000000000 + 3) % 7).toNat
  let m := (x / 60000000000 % 1440).toNat
  let cand := (List.range l.nsched).flatMap (fun i =>
    (setBits 7 (leAt l.profile (64 + 4 * i) 1)).map (fun d =>
      (((w + 7 - d) * 1440 + 10080 + m - leAt l.profile (66 + 4 * i) 2) % 10080, leAt l.profile (65 + 4 * i) 1 % 8)))
  match cand with
  | [] => none
  | a :: t => some (t.foldl (fun (b : Nat × Nat) c => if c.1 < b.1 then c else b) a).2

/-- The tariff that is to be in force at a cycle, under an offset and its validity. -/
def State.tariffAt (s : State) (t : Nat) (ofs : Int) (valid : Bool) : Nat :=
  let l := s.ledger
  let dflt := leAt l.profile 3 1 % 8
  if s.flag F.LDG_TOVR_EN then s.fget F.LDG_TOVR_TARIFF
  else if valid ∧ 1 ≤ l.nsched then (l.scheduled (l.localAt t ofs)).getD dflt else dflt

def State.ldgTariff (s : State) : Nat := s.fget F.LDG_STAT_TARIFF

/-! ### Records (R404 to R406, R410) -/

/-- A card of block LDG about a storage offset. -/
def State.ldgCard (s : State) (event ofs : Nat) : State :=
  s.card { block := 0x10, event := event, ukind := 5, ua := bankOfOfs ofs, detail := leBytes 8 ofs, die := 4 }

/-- Whether a sector of bank 26 can take records. -/
def State.sectorUsable (s : State) (sec : Nat) : Bool :=
  let st := (s.sto.sector (0x1A * 32768 + sec)).state
  st != 2 && st != 3

/-- The first usable sector from `sec` on, circularly, within `fuel` sectors; each skipped one is reported (R410). -/
def State.seekSector (s : State) (sec : Nat) : Nat → Option Nat × State
  | 0 => (none, s)
  | fuel + 1 =>
    let sec := sec % 32768
    if s.sectorUsable sec then (some sec, s) else (s.ldgCard 2 (0xD0000000 + 4096 * sec)).seekSector (sec + 1) fuel

/-- The write position goes to a sector: the sector two further on is to be erased (R406). With no usable sector the ledger
stops storing (R410). -/
def State.enterSector (s : State) (sec : Nat) : State :=
  match s.seekSector sec 32768 with
  | (none, s) => if s.flag F.LDG_STAT_STOPPED then s else (s.setFlag F.LDG_STAT_STOPPED true).ldgCard 4 0xD0000000
  | (some sec, s) =>
    s.setLedger { s.ledger with slot := 64 * sec, jobs := s.ledger.jobs ++ [(0, 0xD0000000 + 4096 * ((sec + 2) % 32768), 0)] }

/-- Take the slot at the write position. -/
def State.takeSlot (s : State) : Option Nat × State :=
  if s.flag F.LDG_STAT_STOPPED then (none, s)
  else
    let k := s.ledger.slot
    (some k, if (k + 1) % 64 = 0 then s.enterSector ((k + 1) / 64) else s.setLedger { s.ledger with slot := k + 1 })

/-- The key in force: 32 zero bytes until one is programmed (R405). -/
def State.ledgerKey (s : State) : List Byte :=
  if s.flag F.LDG_STAT_KEYSET then s.ledger.key else List.replicate 32 0

/-- Write a ledger record (Table 14-2): its MAC chains it to the previous one; it waits for its storage commit. -/
def State.ledgerWrite (s : State) (kind origin flags tariff cls : Nat) (body : List Byte) : State :=
  let x := s.takeSlot
  let s := x.2
  let l := s.ledger
  let fl := flags ||| b2n (!s.flag F.LDG_STAT_KEYSET) ||| 2 * b2n (!l.openWall) ||| 64 * b2n x.1.isNone
  let b := [BitVec.ofNat 8 kind, BitVec.ofNat 8 fl] ++ leBytes 2 1 ++ leBytes 4 0 ++ leBytes 8 origin ++ leBytes 4 l.nextSeq ++
    leBytes 2 (s.fget F.LDG_EPOCH_EPOCH) ++ [BitVec.ofNat 8 tariff, BitVec.ofNat 8 cls] ++ padTo 24 body
  let mac := (hmac s.ledgerKey (l.mac ++ b)).take 16
  let s := s.setLedger { l with mac := mac, nextSeq := (l.nextSeq + 1) % 2 ^ 32, recs := l.recs ++ [⟨b ++ mac, x.1, 0⟩] }
  s.forward (s.flag F.CHN_FWD_LEDGER) (b ++ mac)

/-- Record flags of the open interval and segment: SHORT, LONG, PART, INFAULT. -/
def flSHORT : Nat := 8
def flLONG : Nat := 16
def flPART : Nat := 32
def flINFAULT : Nat := 128
def flATBOUND : Nat := 4

def State.ofsBytes (s : State) : List Byte := leBytes 8 (ofSigned 64 s.ofsNow)

/-- Whole kJ of an energy in J. -/
def kJ (e : Nat) : Int := (f64 e).floor / 1000

/-- The energies of the closing segment (Table 14-3). -/
def Ledger.segBody (l : Ledger) : List Byte :=
  leBytes 4 (ofSigned 32 (kJ l.epos - kJ l.segPos)) ++ leBytes 4 (ofSigned 32 (kJ l.eneg - kJ l.segNeg))

/-- Mean power of the open interval up to tick `t`, W rounded down. -/
def Ledger.demand (l : Ledger) (t : Nat) : Nat :=
  ofSigned 32 (FV.floorDiv (((f64 l.epos).sub (f64 l.intPos)).mul (FV.ofInt 1000000000)) (FV.ofInt (t - l.opened : Nat)))

/-- A new segment opens at tick `t` (R404). -/
def Ledger.newSegment (l : Ledger) (t : Nat) : Ledger :=
  { l with segTb := t, segPos := l.epos, segNeg := l.eneg, flags := l.flags - (l.flags &&& flINFAULT) }

/-- Tb of the open interval follows into LDG_NEXTB. -/
def State.setTb (s : State) (tb : Nat) (bound : Int) : State :=
  let s := s.setLedger { s.ledger with tb := tb, bound := bound }
  (s.rset R.LDG_NEXTB_LO (tb % 2 ^ 32)).rset R.LDG_NEXTB_HI (tb / 2 ^ 32)

/-- Open a demand interval at tick `t` under an offset (R402). -/
def State.openInterval (s : State) (t : Nat) (ofs : Int) (valid : Bool) (flags : Nat) : State :=
  let l := { s.ledger with opened := t, intPos := s.ledger.epos, flags := flags, openWall := valid }.newSegment t
  let x := l.localAt t ofs
  let s := (s.setLedger l).setFlag F.LDG_STAT_NOWALL (!valid)
  if valid then s.setTb (((t : Int) + (l.boundAfter x - x)).toNat) (l.boundAfter x) else s.setTb (t + l.len) 0

/-- Close the open interval at tick `t` with an INTERVAL record and open the next (R402). -/
def State.closeInterval (s : State) (t : Nat) (ofs : Int) (valid : Bool) (extra : Nat) : State :=
  let l := s.ledger
  let dem := l.demand t
  let k := s.ldgTariff
  let s := s.ledgerWrite 0x51 t (l.flags ||| extra) k (s.fget F.LDG_STAT_CLASS)
    (l.segBody ++ leBytes 4 dem ++ leBytes 4 ((t - l.opened) / 1000000) ++ leBytes 8 (ofSigned 64 ofs))
  let tar := s.ledger.tariffs.mapIdx (fun i (x : TariffSum) => if i = k then { x with maxDem := max x.maxDem dem } else x)
  (s.setLedger { s.ledger with tariffs := tar, last := l.bound }).openInterval t ofs valid 0

/-- Change the tariff in force at tick `t` with a TARIFF record (R401). -/
def State.changeTariff (s : State) (t new source : Nat) (ofs : Int) (atBound : Bool) : State :=
  if new = s.ldgTariff then s
  else
    let l := s.ledger
    let s := s.ledgerWrite 0x52 t (l.flags ||| (if atBound then flATBOUND else 0)) s.ldgTariff (s.fget F.LDG_STAT_CLASS)
      (l.segBody ++ leBytes 4 (new + 16 * source) ++ leBytes 4 ((t - l.segTb) / 1000000) ++ leBytes 8 (ofSigned 64 ofs))
    (s.setLedger (s.ledger.newSegment t)).fset F.LDG_STAT_TARIFF new

/-- Process one wall-time step at tick `t` (R403). -/
def State.timeCorr (s : State) (t : Nat) (step : Nat × Nat × Nat) : State :=
  let old := toSigned 64 step.1
  let new := toSigned 64 step.2.1
  let l := s.ledger
  let before := l.wasValid
  let s := s.ledgerWrite 0x55 t 0 s.ldgTariff (s.fget F.LDG_STAT_CLASS)
    (leBytes 8 step.1 ++ leBytes 8 step.2.1 ++ [BitVec.ofNat 8 step.2.2])
  let lnew := l.localAt t new
  let fl := if before ∧ new < old then s.ledger.flags ||| flLONG else s.ledger.flags
  let s := s.setLedger { s.ledger with wasValid := true, flags := fl }
  let forward := before && decide (l.bound ≤ lnew) && l.openWall && l.opened != t
  let s := if forward then s.closeInterval t new true flSHORT else s
  let frm := if forward then lnew else if before && l.openWall then max lnew (min l.last (lnew + l.len)) else lnew
  let s := if forward || (before && l.openWall) then s else s.setLedger { s.ledger with last := l.boundAt lnew }
  let nb := l.boundAfter frm
  let s := s.setTb (((t : Int) + (nb - lnew)).toNat) nb
  s.changeTariff t (s.tariffAt t new true) 3 new false

/-- The 1,464 bytes of a snapshot (Table 14-5). -/
def Ledger.snapshot (l : Ledger) : List Byte :=
  padTo 224 (l.tariffs.flatMap (fun x => leBytes 8 x.epos ++ leBytes 8 x.eneg ++ leBytes 8 x.ms ++ leBytes 4 x.maxDem)) ++
  padTo 128 (l.classMs.flatMap (leBytes 8)) ++
  (List.range 256).flatMap (fun i => leBytes 4 (Sparse.get (fun _ => 0) l.rf i)) ++
  leBytes 8 l.dmg ++ leBytes 4 l.starts ++ leBytes 4 l.stops ++ leBytes 4 l.overs ++
  padTo 64 (BitVec.ofNat 8 l.residue.length :: l.residue.map (BitVec.ofNat 8)) ++ List.replicate 4 0

/-- Write a snapshot: 61 SNAP records (R408). -/
def State.writeSnapshot (s : State) (t : Nat) : State :=
  let b := s.ledger.snapshot
  (List.range 61).foldl (fun s i => s.ledgerWrite 0x57 t 0 i 61 ((b.drop (24 * i)).take 24)) s

/-- The snapshot that is due at tick `t`, if any (R408). -/
def State.snapIfDue (s : State) (t : Nat) : State :=
  let l := s.ledger
  if l.snapNow ∨ l.snapDue ≤ t then
    let s := s.writeSnapshot t
    s.setLedger { s.ledger with snapNow := false, snapDue := if l.snapDue ≤ t then t + l.snapNs else l.snapDue }
  else s

/-- An EVENT record (R399). -/
def State.ledgerEvent (s : State) (t kind count : Nat) : State :=
  s.ledgerWrite 0x56 t 0 s.ldgTariff (s.fget F.LDG_STAT_CLASS)
    (leBytes 4 kind ++ leBytes 4 s.ledger.f ++ leBytes 4 s.ledger.t ++ leBytes 4 count ++ s.ofsBytes)

/-! ### The tick (R398 to R400) -/

/-- Four-point counting on the residue, newest last; each cycle closed adds to the counts and to D (R400). -/
def State.rainClose (s : State) (span m : FV) : Nat → State
  | 0 => s
  | fuel + 1 =>
    let l := s.ledger
    let n := l.residue.length
    let at' (k : Nat) := l.residue.getD (n - k) 0
    let dif (a b : Nat) := if a ≤ b then b - a else a - b
    let r1 := dif (at' 4) (at' 3)
    let r2 := dif (at' 3) (at' 2)
    let r3 := dif (at' 2) (at' 1)
    if n < 4 ∨ r1 < r2 ∨ r3 < r2 then s
    else
      let a := at' 3
      let b := at' 2
      let key := 16 * (r2 / 2) + (a + b) / 4
      let x := s.draw
      let s := x.2
      let load := toF64 ((FV.ofInt r2).mul span)
      let load := toF64 ((f64 load).mul (.fin false 1 (-5)))
      let l := { l with rf := Sparse.put (fun _ => 0) l.rf key (Sparse.get (fun _ => 0) l.rf key + 2),
                        dmg := dadd l.dmg (dpow (f64 load) m x.1), residue := l.residue.take (n - 3) ++ [at' 1] }
      (s.setLedger l).rainClose span m fuel

/-- One unfaulted tick's level (R400). -/
def State.rainflow (s : State) (torque : FV) : State :=
  let l := s.ledger
  let lo := l.fp 32
  let span := f64 (toF64 ((l.fp 36).sub lo))
  if !lo.lt (l.fp 36) then s
  else
    let q := (clampInt 0 31 (FV.floorDiv ((torque.sub lo).mul (FV.ofInt 32)) span)).toNat
    let n := l.residue.length
    let far (r : Nat) : Bool := decide (l.hysl ≤ (if q ≤ r then r - q else q - r))
    if n < 2 then
      if n = 0 ∨ far (l.residue.getD 0 0) then s.setLedger { l with residue := l.residue ++ [q] } else s
    else
      let r1 := l.residue.getD (n - 1) 0
      let r2 := l.residue.getD (n - 2) 0
      let m := l.fp 40 0x40400000
      if (r2 < r1 ∧ r1 < q) ∨ (r1 < r2 ∧ q < r1) then
        (s.setLedger { l with residue := l.residue.take (n - 1) ++ [q] }).rainClose span m 64
      else if far r1 then (s.setLedger { l with residue := l.residue ++ [q] }).rainClose span m 64
      else s

/-- Speed at tick `t`, FP64 (R398). -/
def Ledger.speed (l : Ledger) (t : Nat) : Nat :=
  match l.edges with
  | [a, b] =>
    if !l.spdOn ∨ 2000000000 + a < t ∨ a ≤ b then 0
    else
      let x := (FV.ofInt 1000000000).div ((l.fp 12 0x3F800000).mul (FV.ofInt (a - b : Nat)))
      FFmt.f64.encode x.1 x.2
  | _ => 0

/-- 2π and 10^−3 in FP64. -/
def dTwoPi : Nat := 0x401921FB54442D18
def dMilli : Nat := 0x3F50624DD2F1A9FC

/-- The inputs of tick `t` and what they add to the accumulators (R398, R399). The tick's energy belongs to the segment that is
open when the tick is evaluated, before any record of the tick. DEDUCED. -/
def State.accumulate (s : State) (t : Nat) : State :=
  let l := s.ledger
  let on := decide (22 ≤ l.tsrc) && decide (l.tsrc ≤ 93)
  let smp := if on then l.src else none
  let faulted := match smp with
    | some x => x.2 &&& 0xC6 != 0
    | none => true
  let tq := match smp with
    | some x => if faulted then 0 else toF64 ((FV.ofInt (x.1 - toSigned 32 (leAt l.profile 4 4))).mul (l.fp 8))
    | none => 0
  let f := l.speed t
  let p := dmul (dmul dTwoPi f) tq
  let pos := (f64 0).lt (f64 p)
  let neg := (f64 p).lt (f64 0)
  let e := dmul (if neg then p - 2 ^ 63 else p) dMilli
  let k := s.ldgTariff
  let cls := if (f64 f).lt (l.fp 24) then 0
    else if (l.fp 16) == f32 0 then 1
    else 1 + (clampInt 0 14 (FV.floorDiv ((FV.ofInt 15).mul (if (f64 tq).lt (f64 0) then f64 0 else f64 tq)) (l.fp 16))).toNat
  let add (b : Bool) (x : Nat) := if b then dadd x e else x
  let tar := l.tariffs.mapIdx (fun i (x : TariffSum) =>
    if i = k then { x with epos := add pos x.epos, eneg := add neg x.eneg, ms := x.ms + 1 } else x)
  let l := { l with epos := add pos l.epos, eneg := add neg l.eneg, tariffs := tar,
                    classMs := l.classMs.mapIdx (fun i x => if i = cls then x + 1 else x),
                    f := toF32 (f64 f), t := toF32 (f64 tq), lastTick := t,
                    flags := if faulted then l.flags ||| flINFAULT else l.flags }
  let s := (s.setLedger l).fset F.LDG_STAT_CLASS cls
  if faulted then s else s.rainflow (f64 tq)

/-- The machine events of a tick (R399). -/
def State.machineEvents (s : State) (t : Nat) : State :=
  let f := f64 (s.ledger.speed t)
  let run := s.flag F.LDG_STAT_RUNNING
  let fover := s.ledger.fp 28
  let s :=
    if !run ∧ (s.ledger.fp 20).lt f then
      let s := (s.setLedger { s.ledger with starts := satAdd 32 s.ledger.starts 1 }).setFlag F.LDG_STAT_RUNNING true
      s.ledgerEvent t 1 s.ledger.starts
    else if run ∧ f.lt (s.ledger.fp 24) then
      let s := (s.setLedger { s.ledger with stops := satAdd 32 s.ledger.stops 1 }).setFlag F.LDG_STAT_RUNNING false
      s.ledgerEvent t 2 s.ledger.stops
    else s
  if fover == f32 0 then s
  else if !s.ledger.speedy ∧ fover.lt f then
    let s := s.setLedger { s.ledger with overs := satAdd 32 s.ledger.overs 1, speedy := true }
    s.ledgerEvent t 3 s.ledger.overs
  else if s.ledger.speedy ∧ f.lt (f64 (toF64 ((f64 0x3FEF5C28F5C28F5C).mul fover))) then
    let s := s.setLedger { s.ledger with overEnds := satAdd 32 s.ledger.overEnds 1, speedy := false }
    s.ledgerEvent t 4 s.ledger.overEnds
  else s

/-- Whether the ledger accumulates. -/
def State.ledgerOn (s : State) : Bool := s.ledger.begun && !s.ledger.stopped

/-- Events that waited for the ledger to run: maximum demand cleared, key set (R404, R405). -/
def State.heldEvents (s : State) (t : Nat) : State :=
  if !s.ledgerOn then s
  else
    let s := if s.ledger.keySet then (s.setLedger { s.ledger with keySet := false }).ledgerEvent t 6 0 else s
    if s.ledger.clearMd then (s.setLedger { s.ledger with clearMd := false }).ledgerEvent t 5 0 else s

/-- The latest ledger tick at or before the current cycle. -/
def State.tickNow (s : State) : Nat := s.now / 1000000 * 1000000

/-- LEDGER_TICK: the tick at or before the current cycle is evaluated, once: accumulators, then the records of R407. -/
def execLedgerTick (s : State) : Out State :=
  .next (
    let t := s.tickNow
    if !s.ledgerOn ∨ t ≤ s.ledger.lastTick then s
    else
      let s := s.accumulate t
      let steps := s.ledger.steps
      let ofs := match steps with | x :: _ => toSigned 64 x.1 | [] => s.ofsNow
      let valid := match steps with | _ :: _ => s.ledger.wasValid | [] => s.wallValid
      let bound := decide (s.ledger.tb ≤ t)
      let s := if bound then s.closeInterval t ofs valid 0 else s
      let src := if s.ledger.ovrSet then (if s.flag F.LDG_TOVR_EN then 1 else 2) else 0
      let s := s.changeTariff t (s.tariffAt t ofs valid) src ofs bound
      let s := s.setLedger { s.ledger with ovrSet := false, steps := [] }
      let s := steps.foldl (fun s x => s.timeCorr t x) s
      ((s.machineEvents t).heldEvents t).snapIfDue t)

/-- SNAPSHOT_DUE: SNAPH hours have passed, or LDG_CTL.SNAPNOW was written (R408). -/
def execSnapshotDue (s : State) : Out State := .next (if s.ledgerOn then s.snapIfDue s.tickNow else s)

/-- CUT or RECESS (R407, R409, R411): the interruption closes the open segment and the ledger stops; a cut writes a snapshot. A
tick that the interruption shares is accumulated first. A ledger that has not written START writes nothing. -/
def State.ledgerCut (s : State) (recess : Bool) (cause : Nat) : State :=
  if !s.ledgerOn then s
  else
    let t := s.tickNow
    let fresh := decide (s.ledger.lastTick < t)
    let s := if fresh then s.accumulate t else s
    let l := s.ledger
    let s := s.ledgerWrite (if recess then 0x54 else 0x53) t (l.flags ||| (if l.tb ≤ t then flATBOUND else 0)) s.ldgTariff
      (s.fget F.LDG_STAT_CLASS)
      (l.segBody ++ leBytes 2 (s.fget F.LDG_EVSTAT_OCC) ++ leBytes 2 (s.fget F.LDG_EVSTAT_SAFEOCC + 8192 * cause) ++
        leBytes 4 ((t - l.opened) / 1000000) ++ s.ofsBytes)
    let s := if fresh then s.machineEvents t else s
    let s := if recess then s else s.writeSnapshot t
    (s.setLedger { s.ledger with stopped := true, steps := [] }).setFlag F.LDG_STAT_RUN false

/-- The ledger begins: START, and an interval that carries PART opens under the tariff then in force (R404, R407, R411). -/
def State.ledgerStart (s : State) (reason restore snapSeq : Nat) : State :=
  let t := s.tickNow
  let valid := s.wallValid
  let s := s.setLedger { s.ledger with begun := true, stopped := false, steps := [], wasValid := valid, ovrSet := false, lastTick := t,
                                       snapDue := t + s.ledger.snapNs, speedy := false }
  let s := (s.setFlag F.LDG_STAT_RUN true).setFlag F.LDG_STAT_RECOVER false
  let s := (s.openInterval t s.ofsNow valid flPART).fset F.LDG_STAT_TARIFF (s.tariffAt t s.ofsNow valid)
  let s := s.setLedger { s.ledger with last := s.ledger.boundAt (s.ledger.localAt t s.ofsNow) }
  let s := s.ledgerWrite 0x50 t 0 s.ldgTariff (s.fget F.LDG_STAT_CLASS)
    ([BitVec.ofNat 8 reason, BitVec.ofNat 8 restore, 0, 0] ++ leBytes 4 snapSeq ++ leBytes 4 0 ++ leBytes 4 (crc32c s.ledger.profile) ++
      s.ofsBytes)
  s.heldEvents t

/-! ### Commands of the LDG registers (Tables 14-9 to 14-20) -/

/-- Clear the maximum demand of every tariff and write EVENT KIND 5 (R404). -/
def State.clearMaxDemand (s : State) : State :=
  let l := s.ledger
  (s.setLedger { l with tariffs := l.tariffs.map (fun (x : TariffSum) => { x with maxDem := 0 }), clearMd := true }).heldEvents s.tickNow

/-- What a write of `v` to LDG_CTL does. -/
def State.writeLdgCtl (s : State) (v : Word) : State :=
  let s := s.setFlag F.LDG_CTL_RINGEN (bit v.toNat 0)
  let s := if bit v.toNat 1 then s.setLedger { s.ledger with snapNow := true } else s
  if bit v.toNat 2 then s.clearMaxDemand else s

/-- LDG_SNAPNOW: a write of LDG_CTL with SNAPNOW = 1; the snapshot follows at the next tick, or with SNAPSHOT_DUE (R408). -/
def execLdgSnapnow (r : Req) (v : Word) (s : State) : Out State := .next (s.asHome r R.LDG_CTL.at (fun s => s.writeLdgCtl (v ||| 2)))

/-- Whether a requester is the ring agent of the host that holds hall pass `p` (R482). -/
def State.agentHolds (s : State) (r : Req) (p : Nat) : Bool :=
  match r with
  | .agent h => s.passOf p == some (h.val + 1)
  | _ => false

/-- MAX_DEMAND_CLEAR: a write of LDG_CTL with MDCLR = 1, by home or by the ring agent for the holder of pass 0; the agent's write
is of MDCLR alone. -/
def execMaxDemandClear (r : Req) (v : Word) (s : State) : Out State :=
  .next (s.asCtx r R.LDG_CTL.at 0x5 (fun c => c == 0 || s.agentHolds r 0) (fun s =>
    if s.ctxOf r = 0 then s.writeLdgCtl (v ||| 4) else s.clearMaxDemand))

/-- Set LDG_TOVR (R401): the tariff follows at the next tick. -/
def State.setTovr (s : State) (en : Bool) (k : Nat) (pass : Bool) : State :=
  let s := ((s.setFlag F.LDG_TOVR_EN en).fset F.LDG_TOVR_TARIFF k).setFlag F.LDG_STAT_OVR en
  s.setLedger { s.ledger with ovrSet := true, underPass := pass && en }

/-- TARIFF_OVERRIDE_WRITE: a write of LDG_TOVR by home, or by the ring agent for the holder of pass 0 (R401). -/
def execTariffOverrideWrite (r : Req) (v : Word) (s : State) : Out State :=
  .next (s.asCtx r R.LDG_TOVR.at 0x5 (fun c => c == 0 || s.agentHolds r 0) (fun s =>
    s.setTovr (bit v.toNat 31) (getField v 0 3) (s.agentHolds r 0)))

/-- Program the held ledger key into OTP (R405). -/
def State.programKey (s : State) : State :=
  if s.flag F.LDG_STAT_KEYSET then s
  else
    let key := (List.range 8).flatMap (fun i => leBytes 4 (s.rget R.LDG_KEY i))
    let s := (List.range 8).foldl (fun s i => s.rset R.LDG_KEY 0 i) s
    ((s.setLedger { s.ledger with key := key, keySet := true }).setFlag F.LDG_STAT_KEYSET true).heldEvents s.tickNow

/-- LEDGER_KEY_PROGRAM: a write of LDG_KEYCTL by home (R405). -/
def execLedgerKeyProgram (r : Req) (v : Word) (s : State) : Out State :=
  .next (s.asHome r R.LDG_KEYCTL.at (fun s => if bit v.toNat 0 then s.programKey else s))

/-! ### The ledger port (R382, R406, R410) -/

/-- The sector of a bank 26 or 27 offset. -/
def secOf (o : Nat) : Nat := o / 4096

/-- The lowest LSEQ that bank 26 holds, in LDG_OLDEST (Table 14-12). -/
def State.ledgerSlots (s : State) : List Nat :=
  ((s.sto.cells.filter (fun c => decide (0xD0000000 ≤ c.1) && decide (c.1 < 0xD8000000))).map (fun c => (c.1 - 0xD0000000) / 64)).eraseDups

/-- The record in slot `k`: none while its word 0 is blank (R406). -/
def State.slotRecord (s : State) (k : Nat) : Option (List Byte) :=
  if s.sto.blank ((0xD0000000 + 64 * k) / 8) then none else some (s.sto.read (0xD0000000 + 64 * k) 64)

def State.syncOldest (s : State) : State :=
  match (s.ledgerSlots.filterMap s.slotRecord).map (fun b => leAt b 16 4) with
  | [] => s
  | a :: t => s.rset R.LDG_OLDEST (t.foldl min a)

/-- WORN follows bank 26's spares (R410). -/
def State.syncWorn (s : State) : State :=
  if s.sto.freeSpares 26 = 0 ∧ s.flag F.LDG_STAT_WORN = false then (s.setFlag F.LDG_STAT_WORN true).ldgCard 3 0xD0000000 else s

/-- Erase a sector of the ledger port: it counts; one that does not verify, or has reached the wear limit, is relocated, or stays
dead without a spare (R386, R391). -/
def State.portErase (s : State) (o : Nat) (ok : Bool) : State :=
  let n := secOf o
  let x := s.sto.sector n
  if x.state = 2 ∨ x.state = 3 then s
  else if ok ∧ x.count < s.wearLimit then
    let s := s.setSto ((s.sto.eraseSector n).setSector n { x with count := x.count + 1 })
    if x.count + 1 = s.fget F.STO_WEARWARN_WARN then s.stoCard 0x83 o (x.count + 1) else s
  else
    match s.relocate n false with
    | (.noSpare, s) => (s.setSto ((s.sto.eraseSector n).setSector n { x with state := 3 })).syncBank (bankOfSector n)
    | (_, s) => s

/-- Program one word through the ledger port; `ok` says whether it verified. A failed word relocates its sector and is
programmed there; the Bool says whether the word stands (R390, R391). -/
def State.portWord (s : State) (o : Nat) (b : List Byte) (ok : Bool) : Bool × State :=
  let n := secOf o
  let x := s.sto.sector n
  if x.state = 2 ∨ x.state = 3 then (false, s)
  else if ok then (true, s.setSto (s.sto.progWord (o / 8) b))
  else
    match s.relocate n true with
    | (.done, s) => (true, s.setSto (s.sto.progWord (o / 8) b))
    | (_, s) => (false, (s.setSto (s.sto.setSector n { s.sto.sector n with state := 2 })).syncBank (bankOfSector n))

/-- Give the waiting records new slots from the write position on (R410). -/
def State.replaceRecs (s : State) (l : List LedgerRec) : State :=
  l.foldl (fun (s : State) (r : LedgerRec) =>
    let x := if r.slot.isNone then (none, s) else s.takeSlot
    x.2.setLedger { x.2.ledger with recs := x.2.ledger.recs ++ [{ r with slot := x.1, words := 0 }] })
    (s.setLedger { s.ledger with recs := [] })

/-- The next word of the oldest record that is not wholly programmed: words 1 to 7, then word 0 (R406). A word that cannot be
programmed moves the record, unchanged, to the next usable sector (R410). -/
def State.portRecord (s : State) (ok : Bool) : State :=
  match s.ledger.recs.find? (fun (r : LedgerRec) => r.slot.isSome && r.words < 8) with
  | none => s
  | some r =>
    match r.slot with
    | none => s
    | some k =>
      let w := if r.words < 7 then r.words + 1 else 0
      let o := 0xD0000000 + 64 * k + 8 * w
      if s.sectorUsable (k / 64) ∧ !s.sto.blank (o / 8) then s
      else
        let x := s.portWord o ((r.bytes.drop (8 * w)).take 8) ok
        let s := x.2.syncWorn
        let l := s.ledger
        if x.1 then
          s.setLedger { l with recs := l.recs.map (fun (q : LedgerRec) => if q.slot = r.slot then { q with words := q.words + 1 } else q) }
        else
          let done := l.recs.filter (fun (q : LedgerRec) => q.slot.isNone || q.words == 8)
          let rest := l.recs.filter (fun (q : LedgerRec) => !(q.slot.isNone || q.words == 8))
          let s := (s.ldgCard 2 (0xD0000000 + 4096 * (k / 64))).enterSector (k / 64 + 1)
          let s := s.replaceRecs rest
          s.setLedger { s.ledger with recs := done ++ s.ledger.recs }

/-- A non-safety card or a waiting safety card enters the event ring as entries come free: safety cards first, then the one card
that reports every drop (R414, R415). -/
def State.fillEvents (s : State) : State :=
  let e := s.events
  match e.waitingSafety with
  | c :: t =>
    if e.cards.length < 4096 then { s with events := { e with cards := e.cards ++ [c], waitingSafety := t } }.evOcc else s.evOcc
  | [] =>
    if e.dropCount ≠ 0 ∧ e.cards.length < 4096 ∧ e.plain < 3584 then
      { s with events := { e with dropCount := 0 } }.cardAt
        { block := 0x10, event := 1, detail := leBytes 8 e.dropLast ++ leBytes 4 (min e.dropCount 0xFFFFFFFF), lostRep := true } e.dropFirst
    else s.evOcc

/-- The card being written to the event log is done: its entry is free (R416). -/
def State.freeCard (s : State) : State :=
  match s.events.draining with
  | none => s
  | some c => { s with events := { s.events with cards := s.events.cards.erase c, draining := none } }.fillEvents

/-- The next job of the event log in bank 27. A word that cannot be programmed gives its slot up. -/
def State.portLog (s : State) (ok : Bool) : State :=
  match s.ledger.jobs.find? (fun j => decide (0xD8000000 ≤ j.2.1)) with
  | none => s
  | some j =>
    let s := s.setLedger { s.ledger with jobs := s.ledger.jobs.erase j }
    let s := if j.1 = 0 then s.portErase j.2.1 ok else (s.portWord j.2.1 (leBytes 8 j.2.2) ok).2
    if j.1 ≠ 0 ∧ j.2.1 % 64 = 0 then s.freeCard else s

/-- Whether the ledger port may begin an operation: not before start-up, not in Recess, not after the storage stop; an erase not
in a power-fail or shutdown sequence (R409, R416, R553). -/
def State.portOpen (s : State) (erase : Bool) : Bool :=
  let st := s.fget F.PWR_STAT_STATE
  decide (8 ≤ s.boot.step) && (st == 0 || st == 1 || st == 3 || (!erase && (st == 4 || st == 5))) && !s.dieDown 3

/-- LEDGER_PORT_WRITE: one operation of the ledger port: `what` 0 the next word of the oldest record, 1 the next erase ahead in
bank 26, 2 the next word or erase of the event log in bank 27; `ok` says whether it verified. -/
def execLedgerPortWrite (what : Fin 3) (ok : Bool) (s : State) : Out State :=
  .next (
    if what.val = 0 then (if s.portOpen false then s.portRecord ok else s)
    else if what.val = 1 then
      match s.ledger.jobs.find? (fun j => decide (j.2.1 < 0xD8000000)) with
      | none => s
      | some j =>
        if !s.portOpen true then s
        else ((s.setLedger { s.ledger with jobs := s.ledger.jobs.erase j }).portErase j.2.1 ok).syncWorn.syncOldest
    else
      match s.ledger.jobs.find? (fun j => decide (0xD8000000 ≤ j.2.1)) with
      | none => s
      | some j => if s.portOpen (j.1 == 0) then s.portLog ok else s)

/-- The oldest record whose storage commit is complete, or that is not stored, goes to the ledger result ring (R406, R410). -/
def State.commitLedger (s : State) : State :=
    match s.ledger.recs with
    | [] => s
    | r :: t =>
      if r.slot.isSome ∧ r.words < 8 then s
      else
        let s := s.setLedger { s.ledger with recs := t }
        let s := if r.slot.isSome then (s.rset R.LDG_LSEQ (leAt r.bytes 16 4)).syncOldest else s
        if s.flag F.LDG_CTL_RINGEN then
          match s.tryCommit 1 r.bytes with
          | (.full, s) => s.count R.LDG_RINGDROP
          | (_, s) => s
        else s

/-- LEDGER_RECORD_COMMIT. -/
def execLedgerRecordCommit (s : State) : Out State := .next s.commitLedger

/-- Every record that waits is programmed and committed: the ledger's part of a power sequence (R409, R411). `fuel` bounds its
words and records. -/
def State.flushLedger (s : State) : Nat → State
  | 0 => s
  | fuel + 1 =>
    if s.ledger.recs = [] then s
    else if s.ledger.recs.any (fun (r : LedgerRec) => r.slot.isSome && r.words < 8) then (s.portRecord true).flushLedger fuel
    else s.commitLedger.flushLedger fuel

/-- The result ring that takes the cards of context `c` (R416, Table 14-18). -/
def State.cardRing (s : State) (c : Nat) : Nat :=
  let c := if c < 8 then c else 0
  let b := bits (s.rget R.LDG_ROUTE (c / 4)) (8 * (c % 4)) 8
  if bit b 7 then (if c = 0 then 0 else if c = 5 then 4 else if c = 6 then 2 else if c = 7 then 6 else 8 + 2 * (c - 1)) else b % 16

/-- Put the work of writing a card to the event log: its eight words, word 0 last, and the erase ahead when its slot opens a
sector (R416). -/
def State.logCard (s : State) (c : Card) : State :=
  let l := s.ledger
  let k := l.evSlot
  let base := 0xD8000000
  let words : List (Nat × Nat × Nat) := [1, 2, 3, 4, 5, 6, 7, 0].map (fun w => (1, base + 64 * k + 8 * w, leAt c.bytes (8 * w) 8))
  let ahead : List (Nat × Nat × Nat) := if k % 64 = 0 then [(0, base + 4096 * ((k / 64 + 1) % 32768), 0)] else []
  let e := s.events
  { s with ledger := { l with evSlot := (k + 1) % 2097152, jobs := l.jobs ++ ahead ++ words },
           events := { e with draining := some c } }

/-- The card the recorder drains next: the oldest safety card, else the oldest card (R416). -/
def EventRing.next (e : EventRing) : Option Card :=
  match e.cards.find? (fun c => c.safety) with
  | some c => some c
  | none => e.cards.head?

/-- The recorder takes the next card, commits it to its result ring, and gives it to the ledger port for the event log (R416). -/
def State.drainCard (s : State) : State :=
    if s.events.draining.isSome || !s.portOpen false then s
    else
      match s.events.next with
      | none => s.fillEvents
      | some c =>
        match s.tryCommit (s.cardRing c.ctx) c.bytes with
        | (.full, s) => (s.count R.LDG_RINGDROP).logCard c
        | (_, s) => s.logCard c

/-- EVENT_RING_DRAIN. -/
def execEventRingDrain (s : State) : Out State := .next s.drainCard

/-- The words of the event log that wait are programmed. -/
def State.flushWords (s : State) : Nat → State
  | 0 => s
  | fuel + 1 => if s.events.draining.isNone then s else (s.portLog true).flushWords fuel

/-- The recorder's flush on a power-fail warning: the card being written and `n` more are written to the event log, and no erase
is done (R416). -/
def State.flushCards (s : State) : Nat → State
  | 0 => s.flushWords 9
  | n + 1 =>
    let s := s.flushWords 9
    let s := s.drainCard
    (s.setLedger { s.ledger with jobs := s.ledger.jobs.filter (fun j => j.1 != 0) }).flushCards n

/-! ### Recovery (R409) -/

/-- The records that verify, in the order of their LSEQ: each MAC against the record before it. -/
def State.ledgerChain (s : State) : List (Nat × List Byte) :=
  let recs := (s.ledgerSlots.filterMap (fun k => (s.slotRecord k).map (fun b => (k, b)))).mergeSort
    (fun x y => decide (leAt x.2 16 4 ≤ leAt y.2 16 4))
  let ok (prev : Option (List Byte)) (b : List Byte) : Bool :=
    let key := if bit (leAt b 1 1) 0 then List.replicate 32 0 else s.ledger.key
    match prev with
    | some p => (b.drop 48) == (hmac key (p.drop 48 ++ padTo 4 (b.take 4) ++ leBytes 4 0 ++ (b.drop 8).take 40)).take 16
    | none => leAt b 16 4 != 0 || (b.drop 48) == (hmac key (List.replicate 16 0 ++ b.take 4 ++ leBytes 4 0 ++ (b.drop 8).take 40)).take 16
  (recs.foldl (fun (a : List (Nat × List Byte)) x =>
    if ok (match a.head? with
           | some p => if leAt p.2 16 4 + 1 = leAt x.2 16 4 then some p.2 else none
           | none => none) x.2 then x :: a else a) []).reverse

/-- The bytes of the latest complete snapshot, with the LSEQ of its part 0. -/
def lastSnapshot (recs : List (List Byte)) : Option (Nat × List Byte) :=
  let snaps := recs.filter (fun b => leAt b 0 1 == 0x57)
  let starts := snaps.filter (fun b => leAt b 22 1 == 0)
  let whole := starts.filterMap (fun b =>
    let q := leAt b 16 4
    let parts := (List.range 61).filterMap (fun i => snaps.find? (fun x => leAt x 16 4 == q + i && leAt x 22 1 == i))
    if parts.length = 61 then some (q, parts.flatMap (fun x => (x.drop 24).take 24)) else none)
  whole.getLast?

/-- The accumulators of a snapshot (Table 14-5). -/
def Ledger.restore (l : Ledger) (b : List Byte) : Ledger :=
  let tar := (List.range 8).map (fun k =>
    (⟨leAt b (28 * k) 8, leAt b (28 * k + 8) 8, leAt b (28 * k + 16) 8, leAt b (28 * k + 24) 4⟩ : TariffSum))
  { l with tariffs := tar, epos := tar.foldl (fun a (x : TariffSum) => dadd a x.epos) 0,
           eneg := tar.foldl (fun a (x : TariffSum) => dadd a x.eneg) 0,
           classMs := (List.range 16).map (fun c => leAt b (224 + 8 * c) 8),
           rf := (List.range 256).foldl (fun t i => Sparse.put (fun _ => 0) t i (leAt b (352 + 4 * i) 4)) [],
           dmg := leAt b 1376 8, starts := leAt b 1384 4, stops := leAt b 1388 4, overs := leAt b 1392 4,
           residue := (List.range (min 63 (leAt b 1396 1))).map (fun i => leAt b (1397 + i) 1) }

/-- What a record after the snapshot adds: energies, tariff time, event counts; and the maximum demand its INTERVAL records and
KIND 5 events tell. `part` is the tariff time of the interval already added. -/
def Ledger.replay (lp : Ledger × Nat) (b : List Byte) : Ledger × Nat :=
  let l := lp.1
  let kind := leAt b 0 1
  let k := leAt b 22 1
  let upd (ms dem : Nat) : Ledger :=
    let p := toF64 (FV.ofInt (1000 * leAt b 24 4))
    let n := toF64 (FV.ofInt (1000 * leAt b 28 4))
    { l with epos := dadd l.epos p, eneg := dadd l.eneg n,
             tariffs := l.tariffs.mapIdx (fun i (x : TariffSum) =>
               if i = k then { x with epos := dadd x.epos p, eneg := dadd x.eneg n, ms := x.ms + ms, maxDem := max x.maxDem dem } else x) }
  if kind = 0x51 then (upd (leAt b 36 4 - lp.2) (leAt b 32 4), 0)
  else if kind = 0x52 then (upd (leAt b 36 4) 0, lp.2 + leAt b 36 4)
  else if kind = 0x53 ∨ kind = 0x54 then (upd (leAt b 36 4 - lp.2) 0, 0)
  else if kind = 0x50 then (l, 0)
  else if kind = 0x56 then
    match leAt b 24 1 with
    | 1 => ({ l with starts := leAt b 36 4 }, lp.2)
    | 2 => ({ l with stops := leAt b 36 4 }, lp.2)
    | 3 => ({ l with overs := leAt b 36 4 }, lp.2)
    | 4 => ({ l with overEnds := leAt b 36 4 }, lp.2)
    | 5 => ({ l with tariffs := l.tariffs.map (fun (x : TariffSum) => { x with maxDem := 0 }) }, lp.2)
    | _ => lp
  else lp

/-- The first slot after `k` that holds no non-blank word (R409). -/
def State.freeSlotAfter (s : State) (used : List Nat) (k : Nat) : Nat → Nat
  | 0 => k
  | fuel + 1 => if used.contains k then s.freeSlotAfter used ((k + 1) % 2097152) fuel else k

/-- Recovery at a restart (R409): the chain, the write position, the restored state. `kept` says that AO stayed powered. Answers
RESTORE and the LSEQ of the restored snapshot's part 0. -/
def State.ledgerRecover (s : State) (kept : Bool) : (Nat × Nat) × State :=
  let chain := s.ledgerChain
  let used := s.ledgerSlots
  let recs := chain.map (·.2)
  let l := s.ledger
  match chain.getLast? with
  | none =>
    let s := s.setLedger { l with slot := s.freeSlotAfter used 0 (used.length + 1), nextSeq := 0, mac := List.replicate 16 0, recs := [] }
    ((if kept then 0 else 3, 0), s)
  | some last =>
    let q := leAt last.2 16 4
    let pos := s.freeSlotAfter used last.1 (used.length + 1)
    let s := (s.rset R.LDG_LSEQ q).syncOldest
    let l := { l with slot := pos, nextSeq := q + 1, mac := last.2.drop 48, recs := [],
                      jobs := ((([1, 2] : List Nat).map (fun i => (pos / 64 + i) % 32768)).filter (fun n => used.any (fun k => k / 64 == n))).map
                          (fun n => (0, 0xD0000000 + 4096 * n, 0)) ++ l.jobs.filter (fun j => decide (0xD8000000 ≤ j.2.1)) }
    if kept then ((0, 0), s.setLedger l)
    else
      let s := s.fset F.LDG_EPOCH_EPOCH (leAt last.2 20 2)
      match lastSnapshot recs with
      | none => ((2, 0), s.setLedger (recs.foldl Ledger.replay (l, 0)).1)
      | some (q0, b) =>
        let before := (recs.filter (fun x => leAt x 16 4 < q0 && leAt x 0 1 != 0x56)).getLast?
        let cut := q == q0 + 60 && (match before with | some x => leAt x 0 1 == 0x53 | none => false)
        let later := recs.filter (fun x => decide (q0 + 60 < leAt x 16 4))
        ((if cut then 1 else 2, q0), s.setLedger (later.foldl Ledger.replay (l.restore b, 0)).1)

end Sys2Proof.Machine
end

