-- ==== Sys2Proof/Machine/Pass.lean ====
section
/-! DEFINITION. Hall passes (R482, R484): who holds them, how they end, and the writes of home and Proctor. -/

namespace Sys2Proof.Machine

/-- HOST_PASSn shows who holds pass `p`. -/
def State.syncPass (s : State) (p : Nat) : State :=
  match s.passHolder p with
  | some h => (s.setFlag F.HOST_PASS_HELD true p).fset F.HOST_PASS_HOLDER h p
  | none => (s.setFlag F.HOST_PASS_HELD false p).fset F.HOST_PASS_HOLDER 0 p

def State.setPasses (s : State) (l : List (Nat × Pass)) : State := { s with hosts := { s.hosts with passes := l } }

/-- A pass ends, with what it governs (Table 17-8): the tariff override last set under pass 0, the analog output overrides set
under pass 1. -/
def State.endPass (s : State) (p : Nat) : State :=
  if s.passHolder p = none then s
  else
    let s := (s.setPasses (s.hosts.passes.filter (fun x => x.1 != p))).syncPass p
    let s := if p = 0 ∧ s.ledger.underPass then s.setTovr false (s.fget F.LDG_TOVR_TARIFF) false else s
    if p = 1 then
      (List.range 4).foldl (fun s n => if (s.ao n).underPass then s.setOverride n false (s.fget F.OUT_AO_OVR_VALUE n) false else s) s
    else s

/-- A holder takes or renews pass `p` for some seconds from now. -/
def State.takePass (s : State) (p holder secs : Nat) : State :=
  (s.setPasses (s.hosts.passes.filter (fun x => x.1 != p) ++ [(p, ⟨holder, s.now + secs * 1000000000⟩)])).syncPass p

/-- Whether `holder` may take pass `p`: it is free, or its own and not at its end, and the device is not in device safe state (R482,
R484). -/
def State.passFree (s : State) (p holder : Nat) : Bool :=
  !s.safeState && (s.passHolder p == none || s.passOf p == some holder)

/-- A SAFE report card (R447). -/
def State.safeCard (s : State) (event : Nat) (detail : List Byte) (ukind : Nat := 0) (ua : Nat := 0) (ub : Nat := 0) : State :=
  s.card { block := 0x0E, event := event, ctx := 7, ukind := ukind, ua := ua, ub := ub, detail := detail, safety := true, die := 0 }

/-- A HOST report card (Table 17-20). -/
def State.hostCard (s : State) (event : Nat) (detail : List Byte) (ukind : Nat := 0) (ua : Nat := 0) : State :=
  s.card { block := 0x11, event := event, ukind := ukind, ua := ua, detail := detail }

/-- Proctor revokes every pass (R429). -/
def State.revokeAll (s : State) : State :=
  (List.range 8).foldl (fun s p =>
    if s.passHolder p = none then s else (s.endPass p).safeCard 0x0D [BitVec.ofNat 8 p]) s

/-- Home's write of HOST_PASSACQ (Table 17-16): REL first, then GO. A SECONDS of 0 takes no pass. -/
def State.writePassAcq (s : State) (v : Word) : State :=
  let p := getField v 16 3
  let secs := getField v 0 16
  let s := if bit v.toNat 30 ∧ s.passHolder p = some 0 then s.endPass p else s
  if bit v.toNat 31 ∧ secs ≠ 0 ∧ s.passFree p 0 then s.takePass p 0 secs else s

/-- HALL_PASS_ACQUIRE_HOME: a write of HOST_PASSACQ with GO = 1 (R482). -/
def execHallPassAcquireHome (r : Req) (v : Word) (s : State) : Out State :=
  .next (s.asHome r R.HOST_PASSACQ.at (fun s => s.writePassAcq (setField v 31 1 1)))

/-- HALL_PASS_RELEASE_HOME: a write of HOST_PASSACQ with REL = 1 and GO = 0. -/
def execHallPassReleaseHome (r : Req) (v : Word) (s : State) : Out State :=
  .next (s.asHome r R.HOST_PASSACQ.at (fun s => s.writePassAcq (setField (setField v 30 1 1) 31 1 0)))

/-- HALL_PASS_REVOKE: a write of HOST_PASSn.REVOKE by Proctor or home (R482). -/
def execHallPassRevoke (r : Req) (n : Fin 8) (v : Word) (s : State) : Out State :=
  .next (s.asCtx r (R.HOST_PASS.at n.val) 0x5 (fun c => c == 0 || c == 7) (fun s =>
    match s.passHolder n.val with
    | none => s
    | some h =>
      if !bit v.toNat 31 then s
      else if s.ctxOf r = 7 then (s.endPass n.val).safeCard 0x0D [BitVec.ofNat 8 n.val]
      else (s.endPass n.val).hostCard 3 [BitVec.ofNat 8 n.val, BitVec.ofNat 8 h]))

/-- HALL_PASS_EXPIRE: the lease of pass `n` has ended (R482). -/
def execHallPassExpire (n : Fin 8) (s : State) : Out State :=
  .next (match s.hosts.passes.find? (fun x => x.1 == n.val) with
    | some x => if x.2.ends ≤ s.now then s.endPass n.val else s
    | none => s)

end Sys2Proof.Machine
end

