-- ==== Sys2Proof/Machine/Safe.lean ====
section
/-! DEFINITION. Functional safety and silent-error control (spec/15) and the safe outputs (R458 to R462): parameters and
activation, function instances, trips and resets, diagnostics and device safe state, readback and dark tests, suspect units. -/

namespace Sys2Proof.Machine

def State.setSafe (s : State) (x : Safe) : State := { s with safe := x }

/-! ### Parameters (R420, R421) -/

/-- Bit of an instance in SAFE_TRIP, SAFE_WARN and SAFE_SENSF (Table 15-16). -/
def fnBit (kind entry : Nat) : Nat := if kind = 1 then entry else if kind = 2 then 16 + entry else 20 + entry

def SafeFn.bit (f : SafeFn) : Nat := fnBit f.kind f.entry

/-- The outputs an instance trips. -/
def SafeFn.omask (f : SafeFn) : Nat := bits (leAt f.bytes (if f.kind = 2 then 2 else 1) 1) 0 4

/-- Warning and trip thresholds of an instance, FP32. -/
def SafeFn.warnAt (f : SafeFn) : Nat := leAt f.bytes (if f.kind = 3 then 4 else 8) 4
def SafeFn.tripAt (f : SafeFn) : Nat := leAt f.bytes (if f.kind = 3 then 8 else 12) 4

def Safe.tlim (x : Safe) : Nat := if leAt x.params 8 1 = 0 then 4 else leAt x.params 8 1
def Safe.twin (x : Safe) : Nat := if leAt x.params 9 1 = 0 then 1 else leAt x.params 9 1
def Safe.outen (x : Safe) : Nat := bits (leAt x.params 7 1) 0 4
def Safe.polOff (x : Safe) : Bool := bit (leAt x.params 10 1) 0
def Safe.sensTrip (x : Safe) : Bool := bit (leAt x.params 6 1) 0
def Safe.startRst (x : Safe) : Bool := bit (leAt x.params 6 1) 1

/-- Whether an FP32 pattern is finite and above 0. -/
def fposOk (x : Nat) : Bool := decide (0 < x) && decide (x < 0x7F800000)

/-- The instances that parameter bytes describe, in the order of their entries. -/
def safeEntries (p : List Byte) : List SafeFn :=
  let nv := leAt p 2 1
  let ns := leAt p 3 1
  let mk (kind e o : Nat) : SafeFn := ⟨kind, e, (p.drop (16 + 16 * o)).take 16, 0, 0, 0, false⟩
  (List.range nv).map (fun e => mk 1 e e) ++ (List.range ns).map (fun e => mk 2 e (nv + e)) ++
    (List.range (leAt p 4 1)).map (fun e => mk 3 e (nv + ns + e))

/-- What is wrong with one entry: offsets within it (R421). -/
def SafeFn.wrong (f : SafeFn) (outen : Nat) (before : List SafeFn) : List Nat :=
  let b (o n : Nat) := leAt f.bytes o n
  let need (c : Bool) (o : Nat) : List Nat := if c then [] else [o]
  let dup := before.any (fun g => g.kind == f.kind && leAt g.bytes 0 1 == b 0 1)
  let mask := need (f.omask &&& outen == f.omask) (if f.kind = 2 then 2 else 1)
  let levels := need (fposOk f.warnAt) (if f.kind = 3 then 4 else 8) ++ need (fposOk f.tripAt) (if f.kind = 3 then 8 else 12) ++
    need (decide (f.warnAt < f.tripAt)) (if f.kind = 3 then 4 else 8)
  if f.kind = 1 then
    need (decide (b 0 1 < 16) && !dup) 0 ++ need (bits (b 1 1) 4 3 == 0) 1 ++ need (decide (100 ≤ b 2 2) && decide (b 2 2 ≤ 10000)) 2 ++
    need (fposOk (b 4 4)) 4 ++ mask ++ levels
  else if f.kind = 2 then
    need (decide (b 0 1 < 4) && !dup) 0 ++
    need ((decide (b 1 1 < 4) || b 1 1 == 0xFF) && b 1 1 != b 0 1) 1 ++
    need (bits (b 2 1) 4 4 == 0) 2 ++ need (b 3 1 == 0) 3 ++ need (decide (1 ≤ b 4 2) && decide (b 4 2 ≤ 1024)) 4 ++ need (b 6 2 == 0) 6 ++
    mask ++ levels
  else
    need (decide (b 0 1 < 8) && !dup) 0 ++ need (bits (b 1 1) 4 4 == 0) 1 ++ need (b 2 2 == 0) 2 ++ need (b 12 4 == 0) 12 ++ mask ++ levels

/-- The first byte offset at which the parameter bytes are to be rejected, if any (R421). -/
def safeReject (p : List Byte) : Option Nat :=
  let need (c : Bool) (o : Nat) : List Nat := if c then [] else [o]
  let head := need (leAt p 0 2 == 1) 0 ++ need (decide (leAt p 2 1 ≤ 16)) 2 ++ need (decide (leAt p 3 1 ≤ 4)) 3 ++
    need (decide (leAt p 4 1 ≤ 8)) 4 ++ need (!bit (leAt p 5 1) 7) 5 ++ need (decide (leAt p 6 1 < 4)) 6 ++ need (decide (leAt p 7 1 < 16)) 7 ++
    need (decide (leAt p 8 1 ≤ 15)) 8 ++ need (decide (leAt p 10 1 < 2)) 10 ++ need (leAt p 11 5 == 0) 11 ++
    need (p.length == 16 + 16 * (leAt p 2 1 + leAt p 3 1 + leAt p 4 1)) 2
  let fns := if head = [] then safeEntries p else []
  let ent := (List.range fns.length).flatMap (fun i =>
    match fns[i]? with
    | some f => (f.wrong (leAt p 7 1) (fns.take i)).map (· + 16 + 16 * i)
    | none => [])
  match head ++ ent with
  | [] => none
  | a :: t => some (t.foldl min a)

/-! ### Outputs (R426, R458, R459) -/

def State.so (s : State) (n : Nat) : So := Sparse.get (fun _ => So.fresh) s.safe.sos n

def State.setSo (s : State) (n : Nat) (x : So) : State :=
  s.setSafe { s.safe with sos := Sparse.put (fun _ => So.fresh) s.safe.sos n x }

def State.outCmd (s : State) (n : Nat) : Bool := bit (s.fget F.SAFE_STAT_OUTCMD) n

/-- Whether output `n` is to be commanded on (R426): only while Proctor runs its functions and the device is in service. -/
def State.outWanted (s : State) (n : Nat) : Bool :=
  let x := s.safe
  let st := s.fget F.PWR_STAT_STATE
  s.fget F.SAFE_STAT_STATE == 1 && (st == 0 || st == 1) && !s.pwr.warn && bit x.outen n && !x.resetWait && !x.linkDead &&
  !bit (s.fget F.SAFE_STAT_OUTFLT) n &&
  !x.fns.any (fun f => bit (s.rget R.SAFE_TRIP) f.bit && bit f.omask n)

/-- Proctor's commands follow what R426 says: OUTCMD and the CMD bits of OUT_SOSTAT. -/
def State.safeOutputs (s : State) : State :=
  (List.range 4).foldl (fun s n =>
    let want := s.outWanted n
    if want = s.outCmd n then s
    else
      let m := s.fget F.SAFE_STAT_OUTCMD
      let s := s.fset F.SAFE_STAT_OUTCMD (if want then m + 2 ^ n else m - 2 ^ n)
      let s := s.rset R.OUT_SOSTAT (setField (BitVec.ofNat 32 (s.rget R.OUT_SOSTAT)) (8 * n + 3) 1 (b2n want)).toNat
      let x := s.so n
      s.setSo n (if want then { x with onTb := s.now, offTb := 0 } else { x with offTb := s.now + 1 })) s

/-! ### Device safe state (R429, R435) -/

/-- Enter device safe state for a cause. A second cause of the same cycle leaves the lower code; every cause is reported. -/
def State.enterSafe (s : State) (cause : Nat) (injected : Bool) : State :=
  let was := s.fget F.SAFE_STAT_STATE == 2
  let code := if !was then cause
    else if s.safe.enteredTb = s.now + 1 then min cause (s.fget F.SAFE_STAT_CAUSE) else s.fget F.SAFE_STAT_CAUSE
  let s := (s.fset F.SAFE_STAT_STATE 2).fset F.SAFE_STAT_CAUSE code
  let s := if injected then s.setFlag F.SAFE_STAT_INJECTED true else s
  let s := if was then s else s.setSafe { s.safe with enteredTb := s.now + 1 }
  let s := s.safeCard 7 [BitVec.ofNat 8 cause]
  if was then s else s.safeOutputs.revokeAll.aoUpdateAll

/-- Whether the diagnostics run: from step 9 of start-up on (R431). -/
def State.diagOn (s : State) : Bool := decide (9 ≤ s.boot.step)

/-- A diagnostic of Proctor flags a fault. -/
def State.diagnose (s : State) (bad : Bool) (cause : Nat) : State :=
  if bad ∧ s.diagOn ∧ !s.safe.linkDead then s.enterSafe cause false else s

/-- Proctor rejects the parameters: STATE 3 (R421). -/
def State.rejectParams (s : State) (offset : Nat) (injected : Bool) : State :=
  let s := (s.fset F.SAFE_STAT_STATE 3).fset F.SAFE_STAT_CAUSE 0x0A
  let s := if injected then s.setFlag F.SAFE_STAT_INJECTED true else s
  let s := s.setSafe { s.safe with fns := [] }
  ((s.safeCard 0x0B (leBytes 4 offset)).safeOutputs.revokeAll).aoUpdateAll

/-! ### Function instances (R422 to R427) -/

/-- Replace an instance. -/
def State.setFn (s : State) (f : SafeFn) : State :=
  s.setSafe { s.safe with fns := s.safe.fns.map (fun g => if g.kind = f.kind ∧ g.entry = f.entry then f else g) }

def State.fnSet (s : State) (r : RegDesc) (f : SafeFn) (b : Bool) : State :=
  let v := s.rget r
  s.rset r (if b then v ||| 2 ^ f.bit else v - (v &&& 2 ^ f.bit))

def SafeFn.head (f : SafeFn) : List Byte := [BitVec.ofNat 8 f.kind, BitVec.ofNat 8 f.entry]

/-- A trip latches (R426). -/
def State.tripFn (s : State) (f : SafeFn) (value : Nat) : State :=
  if bit (s.rget R.SAFE_TRIP) f.bit then s
  else
    let s := s.fnSet R.SAFE_TRIP f true
    (s.safeCard 1 (f.head ++ [0, 0] ++ leBytes 4 value ++ leBytes 4 f.tripAt)).safeOutputs

/-- A warning sets or clears with its card. -/
def State.warnFn (s : State) (f : SafeFn) (b : Bool) (value : Nat) : State :=
  if bit (s.rget R.SAFE_WARN) f.bit = b then s
  else (s.fnSet R.SAFE_WARN f b).safeCard (if b then 2 else 3) (f.head ++ [0, 0] ++ leBytes 4 value ++ leBytes 4 f.warnAt)

/-- The sensor-fault condition of an instance, as now measured, and the persistence it needs (R425): `since` cycles of it set the
fault, 100 ms without it clear it. The condition code of the card is not stated: a free value. -/
def State.sensorFn (s : State) (f : SafeFn) (cond : Bool) (since : Nat) (value : Nat) : State :=
  let now := s.now
  let f := if cond then { f with badTb := if f.badTb = 0 then now + 1 else f.badTb, goodTb := 0 }
    else { f with badTb := 0, goodTb := if f.goodTb = 0 then now + 1 else f.goodTb }
  let s := s.setFn f
  let on := bit (s.rget R.SAFE_SENSF) f.bit
  if cond ∧ !on ∧ f.badTb - 1 + since ≤ now then
    let x := s.draw
    let s := (x.2.fnSet R.SAFE_SENSF f true).safeCard 4 (f.head ++ [BitVec.ofNat 8 x.1])
    if s.safe.sensTrip then s.tripFn f value else s
  else if !cond ∧ on ∧ f.goodTb - 1 + 100000000 ≤ now then
    let x := s.draw
    (x.2.fnSet R.SAFE_SENSF f false).safeCard 5 (f.head ++ [BitVec.ofNat 8 x.1])
  else s

/-- The measurement of an instance: the trip, the warning at `warn`, its clearing at `clear`. -/
def State.measureFn (s : State) (f : SafeFn) (value : Nat) (clear : Bool) : State :=
  let above := flt f.tripAt value
  let f := { f with above := above }
  let s := s.setFn f
  let s := if flt f.warnAt value then s.warnFn f true value else if clear then s.warnFn f false value else s
  if above then s.tripFn f value else s

/-- Whether Proctor evaluates its functions: from activation on, in device safe state too (Table 15-9); not while the pair is held
in reset. -/
def State.fnsRun (s : State) : Bool :=
  (s.fget F.SAFE_STAT_STATE == 1 || s.fget F.SAFE_STAT_STATE == 2) && !s.safe.linkDead

/-- Act on an instance by kind and entry. -/
def State.onFn (s : State) (kind entry : Nat) (g : State → SafeFn → State) : State :=
  match s.safe.fns.find? (fun f => f.kind == kind && f.entry == entry) with
  | some f => if s.fnsRun then g s f else s
  | none => s

/-- The instance as it now stands. -/
def State.fnNow (s : State) (f : SafeFn) : SafeFn := (s.safe.fns.find? (fun g => g.kind == f.kind && g.entry == f.entry)).getD f

/-- VIBRATION_SEVERITY_EVAL: the velocity RMS of vibration entry `e` over its window, FP32 mm/s; the shadow bias in mV; whether
the shadow code sits at a limit (R422, R425). -/
def execVibrationSeverityEval (e : Fin 16) (rms : Word) (bias : Half) (limit : Bool) (s : State) : Out State :=
  .next (s.onFn 1 e.val (fun s f =>
    let mode := s.fget F.ACQ_VCH_CFG_MODE (leAt f.bytes 0 1)
    let cond := mode == 0 || (mode == 1 && (decide (bias.toNat < 1000) || decide (22000 < bias.toNat))) || (decide (2 ≤ mode) && limit)
    let v := rms.toNat
    let s := s.measureFn f v (flt v (fmul 0x3F733333 f.warnAt))
    s.sensorFn (s.fnNow f) cond 10000000 v))

/-- Speed of safety input `k` over its last `epr` edges, FP32; none before enough edges (R423). -/
def State.safeSpeed (s : State) (k epr : Nat) : Option Nat :=
  let l := Sparse.get (fun _ => []) s.safe.edges k
  match l[0]?, l[epr]? with
  | some a, some b => if b < a then some (let x := (FV.ofInt 1000000000).div (FV.ofInt (a - b : Nat)); FFmt.f32.encode x.1 x.2) else none
  | _, _ => none

/-- The sensor-fault conditions of a speed instance with two inputs (R423): a difference above 5 % of the higher speed for
100 ms, or edges on one input only within the last 2 s. -/
def State.speedFault (s : State) (f : SafeFn) : State :=
  let ka := leAt f.bytes 0 1
  let kb := leAt f.bytes 1 1
  if kb = 0xFF then s
  else
    let epr := leAt f.bytes 4 2
    let fa := (s.safeSpeed ka epr).getD 0
    let fb := (s.safeSpeed kb epr).getD 0
    let hi := if flt fa fb then fb else fa
    let lo := if flt fa fb then fa else fb
    let differ := flt (fmul 0x3DCCCCCD f.tripAt) hi && flt (fmul 0x3D4CCCCD hi) (fsub hi lo)
    let recent (k : Nat) : Bool := match (Sparse.get (fun _ => []) s.safe.edges k).head? with
      | some t => decide (s.now < t + 2000000000)
      | none => false
    let f := { f with diffTb := if !differ then 0 else if f.diffTb = 0 then s.now + 1 else f.diffTb }
    let s := s.setFn f
    if recent ka != recent kb then s.sensorFn f true 10000000 hi
    else s.sensorFn f (f.diffTb != 0 && decide (f.diffTb - 1 + 100000000 ≤ s.now)) 0 hi

/-- OVERSPEED_EVAL: a safety speed edge of input `k` at time `t`: every speed instance that names the input is evaluated (R423). -/
def execOverspeedEval (k : Fin 4) (t : DWord) (s : State) : Out State :=
  .next (
    if !s.fnsRun then s
    else
      let l := Sparse.get (fun _ => []) s.safe.edges k.val
      let s := s.setSafe { s.safe with edges := Sparse.put (fun _ => []) s.safe.edges k.val (t.toNat :: l.take 1024) }
      (s.safe.fns.filter (fun f => f.kind == 2 && (leAt f.bytes 0 1 == k.val || leAt f.bytes 1 1 == k.val))).foldl (fun s f =>
        let epr := leAt f.bytes 4 2
        let fa := (s.safeSpeed (leAt f.bytes 0 1) epr).getD 0
        let fb := if leAt f.bytes 1 1 = 0xFF then 0 else (s.safeSpeed (leAt f.bytes 1 1) epr).getD 0
        let hi := if flt fa fb then fb else fa
        let s := s.measureFn f hi (flt hi (fmul 0x3F7AE148 f.warnAt))
        s.speedFault (s.fnNow f)) s)

/-- TEMPERATURE_EVAL: the 100 ms mean of temperature entry `e`, FP32 °C, and the line resistance in mΩ (R424, R425). -/
def execTemperatureEval (e : Fin 8) (mean ohm : Word) (s : State) : Out State :=
  .next (s.onFn 3 e.val (fun s f =>
    let pt := s.fget F.ACQ_SL_CFG_MODE (leAt f.bytes 0 1) == 2
    let cond := !pt || decide (400000 < ohm.toNat) || decide (ohm.toNat < 15000)
    let v := mean.toNat
    let s := s.measureFn f v (flt v (fsub f.warnAt 0x40000000))
    s.sensorFn (s.fnNow f) cond 10000000 v))

/-- Proctor activates its functions at step 9 of start-up and at wake (R427): conditions that the applied settings alone decide
are sensor faults from the start; outputs without a trip or a sensor fault are commanded on, unless STARTRST holds them. -/
def State.activateFns (s : State) : State :=
  let s := (s.fset F.SAFE_STAT_STATE 1).setSafe { s.safe with resetWait := s.safe.startRst }
  let s := s.safe.fns.foldl (fun s f =>
    let k := leAt f.bytes 0 1
    let bad := (f.kind == 1 && s.fget F.ACQ_VCH_CFG_MODE k == 0) || (f.kind == 3 && s.fget F.ACQ_SL_CFG_MODE k != 2)
    if bad then s.sensorFn f true 0 0 else s) s
  s.safeOutputs

/-- Proctor takes its parameter bytes at step 9: `sigOk` is its own verification of the safety block (R55, R421, R427). -/
def State.proctorStart (s : State) (p : List Byte) (sigOk : Bool) : State :=
  if !sigOk then s.rejectParams 0 false
  else
    match safeReject p with
    | some o => s.rejectParams o false
    | none =>
      let s := s.setSafe { s.safe with params := p, fns := safeEntries p }
      let s := ((s.setFlag F.SAFE_POLICY_OFF s.safe.polOff).fset F.SAFE_POLICY_TLIM s.safe.tlim).fset F.SAFE_POLICY_TWIN s.safe.twin
      s.activateFns

/-! ### Resets (R426) -/

/-- Whether output `n`'s faults may be cleared: its readback has been clean for 100 ms. -/
def State.outClean (s : State) (n : Nat) : Bool :=
  let x := s.so n
  x.cleanTb != 0 && decide (x.cleanTb - 1 + 100000000 ≤ s.now)

/-- A reset request accepted from its source (0 slow input, 1 host): latched trips and output faults whose conditions no longer
stand clear. One that leaves something standing is reported as refused; the items it cleared stay cleared. -/
def State.resetRequest (s : State) (source : Nat) : State :=
  let tr := s.rget R.SAFE_TRIP
  let stand (f : SafeFn) : Bool := f.above || (bit (s.rget R.SAFE_SENSF) f.bit && s.safe.sensTrip)
  let left := (s.safe.fns.filter (fun f => bit tr f.bit && stand f)).foldl (fun m f => m ||| 2 ^ f.bit) 0
  let flt := s.fget F.SAFE_STAT_OUTFLT
  let fleft := (setBits 4 flt).foldl (fun m n => if s.outClean n then m else m + 2 ^ n) 0
  let s := (s.rset R.SAFE_TRIP left).fset F.SAFE_STAT_OUTFLT fleft
  let s := (setBits 4 flt).foldl (fun s n => if bit fleft n then s else s.setSo n { s.so n with faults := [], bad := [], hsOff := false, lsOff := false }) s
  if left = 0 ∧ fleft = 0 then
    let s := (s.count R.SAFE_RESETS).setSafe { s.safe with resetWait := false }
    (s.safeCard 6 ([BitVec.ofNat 8 source, 0, 0, 0] ++ leBytes 4 tr)).safeOutputs
  else (s.safeCard 0x0C ([0, 0, 0, 0] ++ leBytes 4 left)).safeOutputs

/-- SAFETY_RESET_REQUEST: from the slow input that RSTSRC names (none), or from a host (R426). -/
def execSafetyResetRequest (host : Option (Fin 4)) (s : State) : Out State :=
  .next (
    let src := leAt s.safe.params 5 1
    if !s.fnsRun then s
    else
      match host with
      | none => if bit src 3 then s.resetRequest 0 else s
      | some h => if bit src 4 ∧ bits src 5 2 = h.val then s.resetRequest 1 else s)

/-! ### Diagnostics (Table 15-6) -/

/-- The Proctor pair is held in reset until the next restart; the SAFE-domain logic reports (R429). -/
def State.lockstep (s : State) (injected : Bool) : State :=
  (s.enterSafe 1 injected).setSafe { (s.enterSafe 1 injected).safe with linkDead := true }

/-- LOCKSTEP_MISMATCH. -/
def execLockstepMismatch (s : State) : Out State := .next (if s.diagOn then s.lockstep false else s)

/-- SRAM_SCRUB_PASS: one pass over Proctor SRAM corrected some errors, or met an uncorrectable one. -/
def execSramScrubPass (corrected : Half) (bad : Bool) (s : State) : Out State :=
  .next (if s.diagOn then (s.count R.SAFE_SCRUB corrected.toNat).diagnose bad 2 else s)

/-- PROCTOR_WATCHDOG_EXPIRE. -/
def execProctorWatchdogExpire (s : State) : Out State := .next (s.diagnose true 3)

/-- CLOCK_MONITOR_CHECK: whether REFCLK, DCLK and the SAFE oscillator agree within ±5 %. -/
def execClockMonitorCheck (ok : Bool) (s : State) : Out State := .next (s.diagnose (!ok) 4)

/-- SUPPLY_MONITOR_TRIP: supply 0 to 5 (VDD_AO, VDD_CORE, VDD_SRAM, VDD_IO, VDD_F33, VDD_F24) has left its window (R576). From
step 7 of the last bell, and in the thermal hold, the monitors of VDD_CORE, VDD_SRAM and VDD_IO take no action (R578). -/
def execSupplyMonitorTrip (k : Fin 6) (s : State) : Out State :=
  .next (s.diagnose (!(s.fget F.PWR_STAT_STATE == 6 && (k.val == 1 || k.val == 2 || k.val == 3))) 5)

/-- SAFETY_LINK_FRAME: a frame toward Proctor or toward the field die, and whether it passed its check (R432). Proctor flags the
link when no frame has passed for 1.0 ms, ten frames. Speed instances, whose conditions time alone can change, are looked at. -/
def execSafetyLinkFrame (toProctor ok : Bool) (s : State) : Out State :=
  .next (
    if !s.diagOn then s
    else
      let s := if ok then s else s.count R.SAFE_LINKERR
      if !toProctor then (if ok then s.setSafe { s.safe with fieldOpen := false } else s)
      else
        let n := if ok then 0 else s.safe.badFrames + 1
        let s := s.setSafe { s.safe with badFrames := n }
        let s := if ok ∧ s.fnsRun then (s.safe.fns.filter (fun f => f.kind == 2)).foldl (fun s f => s.speedFault (s.fnNow f)) s else s
        s.diagnose (n == 10) 6)

/-- SAFETY_LINK_TIMEOUT: the field die has received no valid frame for 2 ms: it opens both switches of every safe output (R432). -/
def execSafetyLinkTimeout (s : State) : Out State := .next (s.setSafe { s.safe with fieldOpen := true })

/-- SHADOW_REFERENCE_TEST: whether the injected level was read back. -/
def execShadowReferenceTest (ok : Bool) (s : State) : Out State := .next (s.diagnose (!ok) 7)

/-- SHADOW_COEFF_CRC. -/
def execShadowCoeffCrc (ok : Bool) (s : State) : Out State := .next (s.diagnose (!ok) 8)

/-- COMPARATOR_SELF_TEST. -/
def execComparatorSelfTest (ok : Bool) (s : State) : Out State := .next (s.diagnose (!ok) 9)

/-! ### Readback and dark tests (R434, R460, R461) -/

/-- An output fault of a kind stands on output `n` (R434). -/
def State.outFault (s : State) (n kind : Nat) : State :=
  let x := s.so n
  if x.faults.contains kind then s
  else
    let both := kind == 2 || kind == 4
    let x := { x with faults := kind :: x.faults, hsOff := x.hsOff || both || bit x.stuck 1 || kind == 1,
                      lsOff := x.lsOff || both || bit x.stuck 0 || kind == 1 }
    let s := (s.setSo n x).fset F.SAFE_STAT_OUTFLT (s.fget F.SAFE_STAT_OUTFLT ||| 2 ^ n)
    let s := (s.safeCard 8 [BitVec.ofNat 8 kind] 11 n).safeOutputs
    if x.stuck = 3 then s.enterSafe 0x0B false else s

/-- Count consecutive readings that show a condition; the fault comes at the second, 0.2 ms after the first began. -/
def State.outCond (s : State) (n kind : Nat) (cond : Bool) : State :=
  let x := s.so n
  let c := if cond then Sparse.get (fun _ => 0) x.bad kind + 1 else 0
  let s := s.setSo n { x with bad := Sparse.put (fun _ => 0) x.bad kind (min c 2) }
  if c = 2 then s.outFault n kind else s

/-- OUTPUT_READBACK: output `n` as the field die measures it: the voltages of its balls in 0.01 V, its current in mA, whether the
limit is active, whether each switch reads closed, and the other output whose ball moved with a switching of this one. -/
def execOutputReadback (n : Fin 4) (vh vl ma : Half) (limit hs ls : Bool) (moved : Option (Fin 4)) (s : State) : Out State :=
  .next (
    if !s.diagOn then s
    else
      let i := n.val
      let s := (s.fset F.OUT_SOCUR_VH vh.toNat i).fset F.OUT_SOCUR_MA ma.toNat i
      let low := b2n hs + 2 * b2n ls + 4 * b2n limit
      let s := s.rset R.OUT_SOSTAT (setField (BitVec.ofNat 32 (s.rget R.OUT_SOSTAT)) (8 * i) 3 low).toNat
      let x := s.so i
      let on := s.outCmd i
      let s := if !on ∧ x.offTb ≠ 0 ∧ !hs ∧ !ls then
          let us := (s.now + 1 - x.offTb) / 1000
          (s.fset F.SAFE_REACTMAX_US (max (s.fget F.SAFE_REACTMAX_US) (min us 0xFFFF))).setSo i { x with offTb := 0 }
        else s
      if s.safe.linkDead then s
      else
        let settled := on || (s.so i).offTb == 0
        let short := settled && ((!on && (decide (1200 < vh.toNat) || decide (1200 < vl.toNat))) || (on && decide (1200 < vl.toNat)))
        let heavy := limit && on && decide (x.onTb + 5000000 ≤ s.now)
        let stuckBoth := !on && (s.so i).offTb == 0 && hs && ls
        let s := s.outCond i 1 short
        let s := s.outCond i 4 heavy
        let s := match moved with
          | some m => if m.val = i then s else (s.outFault i 2).outFault m.val 2
          | none => s
        let clean := !short && !heavy && moved == none && !(!on && (hs || ls))
        let y := s.so i
        let s := s.setSo i { y with cleanTb := if !clean then 0 else if y.cleanTb = 0 then s.now + 1 else y.cleanTb,
                                    stuck := if stuckBoth then 3 else y.stuck }
        if stuckBoth ∧ s.fget F.SAFE_STAT_STATE ≠ 2 then s.enterSafe 0x0B false else s)

/-- DARK_TEST_PULSE: output `n`, while on, opens its high-side and then its low-side switch: whether each read open, and the other
output whose ball moved (R461). A switch that stays closed is a fault; the other switch is opened (R434). -/
def execDarkTestPulse (n : Fin 4) (hsOpen lsOpen : Bool) (moved : Option (Fin 4)) (s : State) : Out State :=
  .next (
    let i := n.val
    if !s.outCmd i ∨ !s.diagOn ∨ s.safe.linkDead then s
    else
      let ok := hsOpen && lsOpen && moved == none
      let s := s.rset R.OUT_SOSTAT (setField (BitVec.ofNat 32 (s.rget R.OUT_SOSTAT)) (8 * i + 4) 1 (b2n ok)).toNat
      let x := s.so i
      let s := s.setSo i { x with stuck := x.stuck ||| b2n (!hsOpen) ||| 2 * b2n (!lsOpen), cleanTb := if ok then x.cleanTb else 0 }
      let s := if hsOpen && lsOpen then s else s.outFault i 3
      match moved with
      | some m => if m.val = i then s else (s.outFault i 2).outFault m.val 2
      | none => s)

/-! ### Suspect units (R441 to R446) -/

def State.suspect (s : State) (k : Nat) : Suspect := Sparse.get (fun _ => Suspect.fresh) s.safe.suspects k

def State.setSuspect (s : State) (k : Nat) (x : Suspect) : State :=
  s.setSafe { s.safe with suspects := Sparse.put (fun _ => Suspect.fresh) s.safe.suspects k x }

/-- The level of a unit: a tile group (die × 16 + group) or a DME core (0x100 + core). -/
def State.unitLevel (s : State) (k : Nat) : Nat :=
  if k < 0x100 then bits (s.rget R.SAFE_LEVELG (k / 16)) (2 * (k % 16)) 2 else bits (s.rget R.SAFE_LEVELC) (2 * (k - 0x100)) 2

def State.setUnitLevel (s : State) (k l : Nat) : State :=
  if k < 0x100 then s.rset R.SAFE_LEVELG (setField (BitVec.ofNat 32 (s.rget R.SAFE_LEVELG (k / 16))) (2 * (k % 16)) 2 l).toNat (k / 16)
  else s.rset R.SAFE_LEVELC (setField (BitVec.ofNat 32 (s.rget R.SAFE_LEVELC)) (2 * (k - 0x100)) 2 l).toNat

/-- Escalate a unit, whose triggering card names `ub` (R442, R443, R445). -/
def State.escalate (s : State) (k ub : Nat) : State :=
  let l := s.unitLevel k
  let tile := decide (k < 0x100)
  let s := s.setSuspect k ⟨[], s.now + 1, tile && s.timedOn (k / 16)⟩
  if l < 3 then
    let s := s.setUnitLevel k (l + 1)
    let s := if !tile ∧ l = 0 ∧ s.fget F.DME_CTL_VSTEP (k - 0x100) = 0 then s.setFlag F.DME_STAT_VSETTLE true (k - 0x100) else s
    s.safeCard 9 [BitVec.ofNat 8 (l + 1)] (if tile then 1 else 2) (if tile then k else k - 0x100)
  else if tile then
    let t := 72 * (k % 16) + ub / 8
    let s := (s.retireTile (k / 16) t true).2
    let s := (s.setUnitLevel k 0).setSuspect k ⟨[], s.now + 1, false⟩
    s.safeCard 0x0A (leBytes 4 t) 1 k
  else (s.writeDmeCtl (k - 0x100) (BitVec.ofNat 32 (s.rget R.DME_CTL (k - 0x100)) ||| 0x40000000)).safeCard 0x0A (leBytes 4 (k - 0x100)) 2 (k - 0x100)

/-- SUSPECT_VERDICT: a checksum verdict reaches Proctor: of a DME core or a tile group `ua`, the card's UB, VERDICT and ORIGIN
(R441). -/
def execSuspectVerdict (dme : Bool) (ua ub : Byte) (verdict : Fin 4) (origin : DWord) (s : State) : Out State :=
  .next (
    let k := if dme then 0x100 + ua.toNat % 8 else ua.toNat % 64
    let x := s.suspect k
    let o := origin.toNat
    if s.safe.polOff ∨ !s.fnsRun ∨ verdict.val = 0 then s
    else if x.applied ≠ 0 ∧ x.applied - 1 ≤ o ∧ o < x.applied - 1 + 100000 then s
    else if verdict.val = 2 then s.escalate k ub.toNat
    else
      let l := o :: x.origins.filter (fun t => decide (o < t + s.safe.twin * 3600000000000))
      if s.safe.tlim ≤ l.length then s.escalate k ub.toNat else s.setSuspect k { x with origins := l })

/-! ### Fault injection (Table 15-22) -/

/-- Proctor's injection of the fault of one cause, which its mechanism detects. -/
def State.injectCause (s : State) (c out : Nat) : State :=
  if c = 1 then s.lockstep true
  else if c = 0x0A then
    let x := s.draw
    x.2.rejectParams (x.1 % (max 1 x.2.safe.params.length)) true
  else if c = 0x0B then (s.setSo out { s.so out with stuck := 3 }).enterSafe 0x0B true
  else s.enterSafe c true

/-- SAFE_INJECT: a write of SAFE_INJECT by context 7. FAULT reads back 0 after the detection. -/
def execSafeInject (r : Req) (v : Word) (s : State) : Out State :=
  .next (s.asCtx r R.SAFE_INJECT.at 0x5 (fun c => c == 7) (fun s =>
    let out := getField v 12 2
    let s := s.fset F.SAFE_INJECT_OUT out
    if !s.diagOn then s
    else ((List.range 12).filter (fun c => 1 ≤ c && bit v.toNat c)).foldl (fun s c => s.injectCause c out) s))

end Sys2Proof.Machine
end

