-- ==== Sys2Proof/Machine/Pwr.lean ====
section
/-! DEFINITION. Power, clock, reset and temperature (spec/19): the domains, what every reset leaves, Recess and wake, the last bell,
thermal shutdown, and the clock. A sequence of Tables 19-4 to 19-6 happens within the command that starts it. -/

namespace Sys2Proof.Machine

def State.setPwr (s : State) (x : Pwr) : State := { s with pwr := x }
def State.setBoot (s : State) (x : Boot) : State := { s with boot := x }

/-- A PWR report card (Table 19-11). -/
def State.pwrCard (s : State) (event : Nat) (detail : List Byte) : State := s.card { block := 2, event := event, detail := detail }

/-- A CLK report card. -/
def State.clkCard (s : State) (event : Nat) (detail : List Byte) : State := s.card { block := 3, event := event, detail := detail }

/-- A THM report card: the die, and its reading (Table 19-11). -/
def State.thmCard (s : State) (event die reading : Nat) : State :=
  s.card { block := 0x13, event := event, detail := [BitVec.ofNat 8 die, 0] ++ leBytes 2 reading, die := die }

/-- PWR_STAT.STATE. -/
def State.pwrState (s : State) : Nat := s.fget F.PWR_STAT_STATE

/-! ### Resets (R537, R538) -/

/-- Registers that every reset keeps: OTP, and what the storage array's metadata holds. -/
def keptRegs : List Nat :=
  [R.BOOT_ROLLBACK.at, R.BOOT_REVOKE.at, R.BOOT_UNITID_LO.at, R.BOOT_UNITID_HI.at] ++ (List.range 32).map (fun k => R.STO_BANK.at k)

/-- Registers of the AO state (R537): every reset but power-on reset keeps them. -/
def aoRegs : List Nat :=
  [R.BOOT_SLOTRES.at, R.BOOT_GENA.at, R.BOOT_GENB.at, R.BOOT_UPDRES.at, R.PWR_LBTIME.at, R.PWR_LBCOUNT.at, R.LDG_CARDNO.at,
   R.LDG_EPOCH.at, R.LDG_LSEQ.at, R.LDG_OLDEST.at, R.LDG_EVSTAT.at, R.LDG_LOST.at]

/-- The storage array after a reset: its contents and metadata; an erase in progress is recorded, a word in progress holds what it
got to (R394, R395). -/
def State.resetSto (s : State) : State :=
  s.sto.active.foldl (fun s e =>
    if !e.started then s
    else if e.op = 3 then s.setSto { s.sto with pendErase := s.sto.pendErase ++ [e.sectorNow] }
    else if e.op = 2 then
      let x := s.draw
      x.2.setSto (x.2.sto.progWord (e.saddr / 8 + e.doneCnt) (leBytes 8 (x.1 % 2 ^ 64)))
    else s) s

/-- A card kept across a reset that set TIMEBASE to 0 (EPOCHOLD, Table 14-6). -/
def Card.old (c : Card) : Card := { c with bytes := c.bytes.take 1 ++ [(c.bytes.getD 1 0) ||| 2] ++ c.bytes.drop 2 }

/-- The event ring across a reset (R414). -/
def EventRing.afterReset (e : EventRing) (code : Nat) : EventRing :=
  if code = 1 then EventRing.fresh
  else if code = 2 then { e with cards := e.cards.map Card.old, waitingSafety := e.waitingSafety.map Card.old, draining := none }
  else { e with draining := none }

/-- What a DME core's OTP bit leaves of it: retired from the start (R272). -/
def State.retiredCores (s old : State) : State :=
  (List.range 8).foldl (fun s k =>
    if old.flag F.DME_STAT_PERMANENT k then (s.setFlag F.DME_STAT_PERMANENT true k).setFlag F.DME_STAT_RETIRED true k else s) s

/-- The ledger across a reset: its state is AO state, its key lies in OTP (R409, R537). -/
def Ledger.afterReset (l : Ledger) (code : Nat) : Ledger :=
  if code = 1 then { Ledger.fresh with key := l.key }
  else { l with begun := false, stopped := false, recs := [], jobs := l.jobs.filter (fun j => j.1 == 0) }

/-- The start-up's own state across a reset: the flash, the OTP and a pending update. -/
def Boot.afterReset (b : Boot) : Boot :=
  { b with step := 0, keyIdx := 0, safeIdx := 0, imgRollback := 0, keyAdds := [], lockMode := false, confirmMs := 0, releaseTb := 0,
           restartAt := none, reapply := [] }

/-- The weight dies across a reset: everything in the tiles stays (R215). -/
def Cim.afterReset (c : Cim) : Cim := { c with lsel := [], recs := [], cmds := [], stats := [] }

/-- What no reset keeps: registers' companions, SRAM, translation, engine streams. -/
def State.resetCore (s : State) (code : Nat) : State :=
  let ms : MemSys := { MemSys.fresh with fuseRows := s.memsys.fuseRows }
  { s with timebase := if code = 1 ∨ code = 2 then 0 else s.timebase, shadows := [], armed := [], latches := [], lyctx0 := 0x10,
           lyctx1 := 0x10, locked := false, d2dFails := [], mem := Memory.fresh, memsys := ms, mmu := Mmu.fresh, streams := [] }

/-- What each unit keeps in its own way: rings, link, tiles, acquisition, outputs, safety, ledger, hosts. Only the loss of VDD_AO
resets the TAP (R538). -/
def State.resetUnits (s : State) (code : Nat) : State :=
  { s with rings := [], chn := Chn.fresh, cim := s.cim.afterReset, acq := Acq.fresh, aos := [], aoSilent := false, safe := Safe.fresh,
           ledger := s.ledger.afterReset code, hosts := Hosts.fresh, boot := s.boot.afterReset,
           events := s.events.afterReset code, tap := if code = 1 then Tap.fresh else s.tap }

/-- Interrupt lines, answers, and what is left of the storage controller and the power controller. -/
def State.resetRest (s : State) : State :=
  let t : Storage := { s.sto with active := [], readPos := [], warnTb := [] }
  let p : Pwr := { s.pwr with cause := none, hot := false, kickTb := 0, wdUsed := 0 }
  { s with irqCimp := 0, irqFault := 0, irqHalt := 0, irqSto := false, resp := ⟨false, []⟩, sto := t, pwr := p }

/-- Whether a reset keeps the register at an address. -/
def keptReg (code a : Nat) : Bool := keptRegs.contains a || (code != 1 && aoRegs.contains a)

/-- The register file across a reset. -/
def State.resetRegs (s : State) (code : Nat) : State := { s with regs := s.regs.filter (fun x => keptReg code x.1) }

/-- A reset of Table 19-3 with its code: the device is at the release of reset, before step 1 of the start-up sequence. -/
def State.intoReset (s : State) (code : Nat) : State :=
  let old := s.resetSto
  let s := (((old.resetRegs code).resetCore code).resetUnits code).resetRest
  let s := (s.retiredCores old).fset F.PWR_RSTCAUSE_CAUSE code
  let s := if s.ledger.key = [] then s else s.setFlag F.LDG_STAT_KEYSET true
  s.evOcc

/-- EXTERNAL_RESET: RST_N low, at once in any sequence (R537, R555). -/
def execExternalReset (s : State) : Out State := .next (s.intoReset 2)

/-- POWER_ON_RESET: VDD_AO has failed, or the supplies have come up; `ref` and `supply` say whether REFCLK is present and the field
supply stands at its release (R534). A supply that fell away took the warning with it. -/
def execPowerOnReset (ref supply : Bool) (s : State) : Out State :=
  .next (
    let s := s.intoReset 1
    s.setPwr { s.pwr with warn := false, refOk := ref, supplyOk := supply })

/-! ### Domains (R532 to R536) -/

/-- PWR_STAT shows which CIM dies are on: bit d of `m`. -/
def State.setDies (s : State) (m : Nat) : State :=
  let s := s.fset F.PWR_STAT_CIMON m
  s.fset F.PWR_STAT_DOMON (setField (BitVec.ofNat 32 (s.fget F.PWR_STAT_DOMON)) 7 1 (b2n (m != 0))).toNat

/-- Show a domain on or off. -/
def State.setDom (s : State) (k : Nat) (on : Bool) : State :=
  s.fset F.PWR_STAT_DOMON (setField (BitVec.ofNat 32 (s.fget F.PWR_STAT_DOMON)) k 1 (b2n on)).toNat

/-- The state of an engine stream returns to its reset values when its domain comes on (R536). -/
def State.freshStream (s : State) (n : Nat) : State :=
  let s := s.setStream n { Stream.idle with compl := (s.stream n).compl }
  (s.rset R.ENG_S_HALT 0 n).rset R.ENG_S_HALTPC 0 n

/-- The L1 memories are lost, and zero when they come back (R84). -/
def State.zeroL1 (s : State) : State :=
  { s with mem := s.mem.zero (fun a => 0x01C0000000 ≤ a && a < 0x0200000000), memsys := { s.memsys with l1 := [], l1resize := [] } }

/-- A weight die's DAM is lost, and zero when it comes back. -/
def State.zeroDam (s : State) (d : Nat) : State := s.zeroRange (damBase d) (damBase d + 0x1000000)

/-- Switch a weight die off, or on: coming on, it loads the calibration records and reselects the decks as they stood (R234, R535). -/
def State.switchDie (s : State) (d : Nat) (on : Bool) : State :=
  let m := s.fget F.PWR_STAT_CIMON
  if on then
    let s := (s.zeroDam d).freshStream d
    let bad := s.cim.tiles.flatMap (fun x => if x.1 / 1152 = d then
      (x.2.decks.filter (fun k => k.2.state == 5 && k.2.cal.crcBad)).map (fun k => (x.1, k.1)) else [])
    let tiles := s.cim.tiles.map (fun x => if x.1 / 1152 = d then
      (x.1, { x.2 with decks := x.2.decks.map (fun (k : Nat × DeckRec) => (k.1, k.2.restarted)) }) else x)
    let s := { s with cim := { s.cim with tiles := tiles } }
    let s := s.setDies (m ||| 2 ^ d)
    (bad.foldl (fun s x => s.queueOwn d 4 (x.1 % 1152) x.2 0) s).stoKick
  else (s.zeroDam d).setDies (m - (m &&& 2 ^ d))

/-- The Shunto ports and the MACs lose their link with the LINK domain (R535). -/
def State.linksDown (s : State) : State :=
  let s := (List.range 3).foldl (fun s p => if s.fget F.CHN_P_STAT_STATE p = 0 then s else s.portDown p) s
  (List.range 2).foldl (fun s p =>
    let l := s.fget F.HOST_STAT_LINK
    if bit l p then (s.fset F.HOST_STAT_LINK (l - 2 ^ p)).hostCard 7 [] 8 p else s) s

/-- Whether an engine stream is idle: nothing runs, waits or is saved. -/
def Stream.isIdle (x : Stream) : Bool := x.run == none && x.queue == [] && x.saved == [] && x.held == [] && x.follows == none

/-- The reason of Table 19-2 for which a domain switch is refused, 0 for none. `v` is the value written. -/
def State.domRefusal (s : State) (v : Word) : Nat :=
  let old := (s.rget R.PWR_DOMCTL)
  let off (k : Nat) : Bool := bit v.toNat k && !bit old k
  if off 0 ∧ (List.range 8).any (fun k => !(s.stream (4 + k)).isIdle) then 1
  else if off 1 ∧ ((List.range 16).any (fun n => s.acqRuns n) ∨ (List.range 2).any (fun k => !(s.stream (12 + k)).isIdle)) then 2
  else if (List.range 4).any (fun d => off (4 + d) && (!(s.stream d).isIdle || (s.cmds d).any (·.running) ||
      (List.range 8).any (fun b => s.bankBusy (8 * d + b)) || s.sto.active.any (fun e => e.bank / 8 == d))) then 3
  else if off 7 ∧ s.flag F.LDG_STAT_RUN = true then 4
  else if off 2 ∧ s.chn.flights ≠ [] then 5
  else if s.pwrState ≠ 0 then 6
  else 0

/-- A write of PWR_DOMCTL (R535): refused whole with a report card, or every switch it asks for is done. -/
def State.writeDomctl (s : State) (v : Word) : State :=
  let res := s.domRefusal v
  if res ≠ 0 then
    (s.fset F.PWR_DOMCTL_RESULT res).pwrCard 5 [BitVec.ofNat 8 res, BitVec.ofNat 8 v.toNat]
  else
    let old := s.rget R.PWR_DOMCTL
    let now := v.toNat
    let turned (k : Nat) : Bool := bit old k != bit now k
    let s := s.rset R.PWR_DOMCTL (now &&& 0xF7)
    let s := if turned 0 then
        let s := s.zeroL1.setDom 4 (!bit now 0)
        if bit now 0 then s else (List.range 8).foldl (fun s k => s.freshStream (4 + k)) s
      else s
    let s := if turned 1 then
        let s := s.setDom 5 (!bit now 1)
        if bit now 1 then s else (List.range 2).foldl (fun s k => s.freshStream (12 + k)) s
      else s
    let s := if turned 2 then (if bit now 2 then s.linksDown else s).setDom 6 (!bit now 2) else s
    (List.range 4).foldl (fun s d => if turned (4 + d) then s.switchDie d (!bit now (4 + d)) else s) s

/-- DOMAIN_SWITCH_OFF: a write of PWR_DOMCTL by home that switches domains off (R535). -/
def execDomainSwitchOff (r : Req) (v : Word) (s : State) : Out State := .next (s.asHome r R.PWR_DOMCTL.at (fun s => s.writeDomctl v))

/-- DOMAIN_SWITCH_ON: a write of PWR_DOMCTL by home that switches on the domains whose bits it clears; the bits it sets keep what
is off. -/
def execDomainSwitchOn (r : Req) (v : Word) (s : State) : Out State :=
  .next (s.asHome r R.PWR_DOMCTL.at (fun s => s.writeDomctl (v &&& BitVec.ofNat 32 (s.rget R.PWR_DOMCTL))))

/-! ### The watchdog (R539) -/

/-- What a write of `v` to PWR_WDOG does. -/
def State.writeWdog (s : State) (v : Word) : State :=
  let en := s.flag F.PWR_WDOG_EN
  let s := if en then s else s.fset F.PWR_WDOG_MS (getField v 0 16)
  let s := if bit v.toNat 31 ∧ en = false then (s.setFlag F.PWR_WDOG_EN true).setPwr { s.pwr with kickTb := s.now, wdUsed := 0 } else s
  if bit v.toNat 30 then s.setPwr { s.pwr with kickTb := s.now, wdUsed := 0 } else s

/-- WATCHDOG_ENABLE: a write of PWR_WDOG with EN = 1. -/
def execWatchdogEnable (r : Req) (v : Word) (s : State) : Out State :=
  .next (s.asHome r R.PWR_WDOG.at (fun s => s.writeWdog (setField v 31 1 1)))

/-- WATCHDOG_KICK: a write of PWR_WDOG with KICK = 1. -/
def execWatchdogKick (r : Req) (v : Word) (s : State) : Out State :=
  .next (s.asHome r R.PWR_WDOG.at (fun s => s.writeWdog (setField v 30 1 1)))

/-- The watchdog's timeout in cycles: a value below 10 ms acts as 10. -/
def State.wdogSpan (s : State) : Nat := max 10 (s.fget F.PWR_WDOG_MS) * 1000000

/-- WATCHDOG_EXPIRE: the timeout has passed without a kick; the count pauses in Recess and in the power sequences. -/
def execWatchdogExpire (s : State) : Out State :=
  .next (if s.flag F.PWR_WDOG_EN && s.pwrState == 0 && decide (s.wdogSpan ≤ s.now - s.pwr.kickTb + s.pwr.wdUsed) then
    (s.pwrCard 4 (leBytes 2 (s.fget F.PWR_WDOG_MS))).intoReset 3 else s)

/-! ### What the sequences share -/

/-- The contexts that have work on stream `n`. -/
def State.workOn (s : State) (n : Nat) : List Nat :=
  let x := s.stream n
  (List.range 8).filter (fun c => x.run.any (fun p => p.start.ctx == c) || x.saved.any (fun p => p.start.ctx == c) ||
    x.queue.any (fun q => q.ctx == c) || x.held.any (fun q => q.ctx == c))

/-- Every engine program halts with reason 0x15, and queued starts are dropped (Tables 19-4, 19-6). -/
def State.haltAll (s : State) : State :=
  (List.range 22).foldl (fun s n => (s.workOn n).foldl (fun s c => (s.haltContext n c 0x15).refuseContext n c) s) s

/-- The same without a completion record (R544). -/
def State.haltAllSilent (s : State) : State :=
  let before := (List.range 22).map (fun n => (s.stream n).compl)
  let s := s.haltAll
  (List.range 22).foldl (fun s n => s.setStream n { s.stream n with compl := before.getD n [] }) s

/-- Every word and erase in progress ends; `bad` names the banks where it does not verify (R396). -/
def State.stoDrain (s : State) (bad : List (Fin 32)) : State :=
  (List.range 32).foldl (fun s k =>
    let ok := !bad.any (fun b => b.val == k)
    (s.wordDone k ok).eraseDone k ok) s

/-- A power sequence meets the storage controller (R394): words in progress complete, erases are abandoned and recorded, running
entries end with status 0x19. -/
def State.stoInterrupt (s : State) (bad : List (Fin 32)) : State :=
  let s := (List.range 32).foldl (fun s k => s.wordDone k (!bad.any (fun b => b.val == k))) s
  s.sto.active.foldl (fun s e =>
    let s := if e.op = 3 ∧ e.started then
        (((s.setBusy e.bank false).setSto { s.sto with pendErase := s.sto.pendErase ++ [e.sectorNow] })).syncBank e.bank else s
    s.stoFinish e 0x19 0xFFFFFFFF) s

/-! ### Recess (R540, R541) -/

/-- The reason a Recess request is refused for, 0 for none (R540). -/
def State.recessRefusal (s : State) : Nat :=
  if (List.range 4).any (fun d => (s.cmds d).any (·.running)) then 1
  else if s.fget F.MMU_FSTAT_PEND ≠ 0 then 2
  else if s.flag F.MEM_STAT_SPLITON ∨ s.flag F.MEM_STAT_SPLITPEND then 3
  else if s.pwrState ≠ 0 then 4
  else if s.fget F.PWR_WAKEEN_EN = 0 then 5
  else 0

/-- The completion records that find space are committed; the rest are lost with the streams' domains. -/
def State.lastCompletions (s : State) : State :=
  (List.range 22).foldl (fun s n =>
    let s := (s.stream n).compl.foldl (fun s c => if ringOwner c.ring = c.ctx then (s.tryCommit c.ring c.bytes).2 else s) s
    s.setStream n { s.stream n with compl := [] }) s

/-- Shunto ports at entry to Recess (R524): what is being sent is finished, RECESS is sent (kind 2), and the port drops to lane 0. -/
def State.portsRecess (s : State) : State :=
  (List.range 3).foldl (fun s p =>
    let st := s.fget F.CHN_P_STAT_STATE p
    if st = 2 ∨ st = 3 ∨ st = 5 then
      let s := s.send (0x90 + p) 2 []
      (s.fset F.CHN_P_STAT_STATE 4 p).setPort p { s.port p with sending := [] }
    else s) { s with chn := { s.chn with flights := [] } }

/-- The steps of Table 19-4. -/
def State.enterRecess (s : State) (bad : List (Fin 32)) : State :=
  let s := s.fset F.PWR_STAT_STATE 1
  let s := s.haltAll
  let s := (List.range 16).foldl (fun s n => s.recessStream n) s
  let s := (s.ledgerCut true 0)
  let s := s.flushLedger (16 * s.ledger.recs.length + 16)
  let s := s.stoDrain bad
  let s := s.lastCompletions.portsRecess
  let s := s.pwrCard 2 [BitVec.ofNat 8 (s.fget F.PWR_WAKEEN_EN)]
  let s := s.setPwr { s.pwr with wdUsed := s.pwr.wdUsed + (s.now - s.pwr.kickTb) }
  let s := ((s.fset F.PWR_STAT_DOMON 3).fset F.PWR_STAT_CIMON 0).fset F.PWR_STAT_STATE 2
  (s.setFlag F.CLK_STAT_LOCK false).aoUpdateAll.safeOutputs

/-- RECESS_REQUEST: a write of PWR_RECESS.GO by home; `bad` names the banks whose word or erase in progress does not verify. -/
def execRecessRequest (r : Req) (v : Word) (bad : List (Fin 32)) (s : State) : Out State :=
  .next (s.asHome r R.PWR_RECESS.at (fun s =>
    if !bit v.toNat 31 then s
    else
      let s := s.fset F.PWR_RECESS_RESULT s.recessRefusal
      if s.fget F.PWR_RECESS_RESULT = 0 then s.enterRecess bad else s))

/-! ### Wake (R542, R543) -/

/-- Whether an address lies in AM or PSM, which Recess does not keep. -/
def State.lostInRecess (s : State) (a : Nat) : Bool := s.loc a == .am || s.loc a == .psm

/-- Whether Recess keeps the memory at an address (Table 03-3). -/
def Loc.keptInRecess : Loc → Bool
  | .am | .psm | .l1 _ | .dam _ => false
  | _ => true

/-- Rings and regions in AM and PSM are empty after a wake; ARRIVE stays (R543). -/
def State.emptyLost (s : State) : State :=
  let s := (List.range 16).foldl (fun s q =>
    let s := if s.lostInRecess (s.rget R.HOST_RR_BASE q * 4096) then
        let x := s.ringX q
        let s := (s.fset F.HOST_RR_HEAD_INDEX 0 q).fset F.HOST_RR_TAIL_INDEX 0 q
        (s.rset R.HOST_RR_SEQ 0 q).setRingX q
          { x with fwDist := 0, cursors := x.cursors.map (fun (c : Cursor) => { c with index := 0, dist := 0 }) }
      else s
    if s.lostInRecess (s.rget R.HOST_JR_BASE q * 4096) then
      let s := (s.fset F.HOST_JR_HEAD_INDEX 0 q).fset F.HOST_JR_TAIL_INDEX 0 q
      { s with hosts := { s.hosts with jobSeq := s.hosts.jobSeq.filter (fun x => x.1 != q) } }
    else s) s
  (List.range 64).foldl (fun s n =>
    if s.lostInRecess (s.crBase n) ∧ s.flag F.MEM_CR_CFG_EN n then
      ((s.rset R.MEM_CR_HEAD 0 n).rset R.MEM_CR_TAIL 0 n).setRegion n Region.idle
    else s) s

/-- The weight dies after a wake: calibration records loaded, decks as they stood (R208, R234). -/
def State.wakeDies (s : State) : State := (List.range 4).foldl (fun s d => s.switchDie d true) s

/-- The domains that PWR_DOMCTL leaves on come on at a wake. -/
def State.wakeDomains (s : State) : State :=
  let off := s.rget R.PWR_DOMCTL
  let s := (List.range 22).foldl (fun s n => s.freshStream n) s
  let s := { s with mem := s.mem.zero (fun a => (0x0100000000 ≤ a && a < 0x0102000000) || (0x0140000000 ≤ a && a < 0x0140800000)) }.zeroL1
  let s := { s with mmu := { s.mmu with tlbs := [] }, lyctx0 := 0x10, lyctx1 := 0x10, irqFault := 0, irqHalt := 0, irqSto := false, irqCimp := 0 }
  let s := s.wakeDies
  let s := (s.setDies (0xF - bits off 4 4)).fset F.PWR_STAT_DOMON (0x0F + 16 * b2n (!bit off 0) + 32 * b2n (!bit off 1) + 64 * b2n (!bit off 2) + 128 * b2n (bits off 4 4 != 15))
  (List.range 8).foldl (fun s k => s.fset F.DME_CTL_VSTEP 0 k) s

/-- The records of the running placements whose destination Recess did not keep are applied again (R276). -/
def State.reapplyPlacements (s : State) : State :=
  s.boot.reapply.foldl (fun s x => if (s.loc x.1).keptInRecess then s else s.store x.1 x.2) s

/-- The steps of Table 19-5, for the sources that requested it. -/
def State.wake (s : State) (cause : Nat) : State :=
  if s.pwrState ≠ 2 ∨ s.pwr.hot then s
  else
    let s := (s.fset F.PWR_WAKECAUSE_CAUSE cause).fset F.PWR_STAT_STATE 3
    let s := (s.setFlag F.CLK_STAT_LOCK true).wakeDomains.emptyLost
    let s := (List.range 3).foldl (fun s p => if s.fget F.CHN_P_STAT_STATE p = 4 then s.fset F.CHN_P_STAT_STATE 1 p else s) s
    let s := s.reapplyPlacements
    let s := (s.fset F.PWR_STAT_STATE 0).setPwr { s.pwr with kickTb := s.now }
    let s := (s.pwrCard 3 [BitVec.ofNat 8 cause]).wakeStreams
    let s := if s.ledger.begun then s.ledgerStart 3 0 0 else s
    let s := if s.safeState then s else s.activateFns
    s.stoKick.aoUpdateAll

/-- WAKE_REQUEST: a wake source asks for wake: 0 a WAKE or VC0 segment for this device, 1 a datagram on port 2, 2 the timer, 3 slow
input `k` with value `v`, 4 speed input `k` having seen its edges (R321, R542). -/
def execWakeRequest (src : Fin 5) (k : Fin 8) (v : Word) (s : State) : Out State :=
  .next (
    let en := bit (s.fget F.PWR_WAKEEN_EN) src.val
    let time := s.rget R.PWR_WAKETIME_HI * 2 ^ 32 + s.rget R.PWR_WAKETIME_LO
    let th := toSigned 32 (s.rget R.ACQ_SL_WTH k.val)
    let ok := match src.val with
      | 2 => time != 0 && decide (time ≤ s.now)
      | 3 => s.flag F.ACQ_SL_WAKE_EN k.val &&
        (if s.flag F.ACQ_SL_WAKE_DIR k.val then decide (toSigned 32 v.toNat < th) else decide (th < toSigned 32 v.toNat))
      | 4 => k.val < 4 && bit (s.fget F.ACQ_SPWAKE_EN) k.val
      | _ => true
    if en && ok then s.wake (2 ^ src.val) else s)

/-! ### Last bell and thermal shutdown (R544 to R555) -/

/-- Start-up is not over: R65 applies to a power-fail warning. -/
def State.starting (s : State) : Bool := decide (s.boot.step < 10)

/-- Steps 2 to 7 of Table 19-6, for CUT CAUSE `cause`. `flushed` cards reach the event log before the storage stop, `us` µs after the
warning. -/
def State.powerSequence (s : State) (cause : Nat) (bad : List (Fin 32)) (flushed us : Nat) : State :=
  let s := s.haltAllSilent.cimpInterrupt
  let s := s.stoInterrupt bad
  let s := ((s.setDom 4 false).setDom 5 false).setDom 6 false
  let s := (List.range 3).foldl (fun s p => s.fset F.CHN_P_STAT_STATE 0 p) s
  let s := s.fset F.HOST_STAT_LINK (s.fget F.HOST_STAT_LINK &&& 0xC)
  let s := s.safeOutputs.ledgerCut false cause
  let s := s.flushLedger (16 * s.ledger.recs.length + 16)
  let s := s.flushCards flushed
  let s := (s.rset R.PWR_LBTIME us).setDies 0
  ((s.setDom 2 false).setDom 3 false).fset F.PWR_STAT_STATE 6

/-- POWER_FAIL_WARNING: the field supply, at `mv` mV, has stayed below 16.0 V (R544). In Recess nothing else happens, a sequence in
progress goes on, and during start-up the device waits in reset (R65, R555). -/
def execPowerFailWarning (mv : Half) (bad : List (Fin 32)) (flushed : Half) (us : Word) (s : State) : Out State :=
  .next (
    if s.pwr.warn then s
    else
      let s := s.setPwr { s.pwr with warn := true, warnTb := s.now }
      let s := s.count R.PWR_LBCOUNT
      let st := s.pwrState
      if st = 2 ∨ st = 4 ∨ st = 5 ∨ st = 6 then s.pwrCard 1 (leBytes 2 mv.toNat)
      else if s.starting then
        let s := s.pwrCard 1 (leBytes 2 mv.toNat)
        let c := s.fget F.PWR_RSTCAUSE_CAUSE
        s.intoReset (if c = 1 ∨ c = 2 then 4 else c) |>.fset F.PWR_RSTCAUSE_CAUSE c
      else
        let s := (s.fset F.PWR_STAT_STATE 4).setPwr { s.pwr with cause := some 0 }
        let s := s.aoUpdateAll.pwrCard 1 (leBytes 2 mv.toNat)
        s.powerSequence 0 bad flushed.toNat us.toNat)

/-- POWER_FAIL_CLEAR: the supply has stayed above 18.0 V for 100 ms; a held device restarts with code 0x6, once no thermal hold is
left (R547, R555). -/
def execPowerFailClear (s : State) : Out State :=
  .next (
    if !s.pwr.warn then s
    else
      let s := s.setPwr { s.pwr with warn := false }
      if s.pwrState = 6 ∧ s.pwr.hot = false then s.intoReset 6 else s)

/-- THERMAL_SHUTDOWN: the comparator trips at 125 °C (R552, R554, R555). -/
def execThermalShutdown (bad : List (Fin 32)) (flushed : Half) (us : Word) (s : State) : Out State :=
  .next (
    if s.pwr.hot then s
    else
      let s := s.setPwr { s.pwr with hot := true }
      let st := s.pwrState
      let card (s : State) : State := s.thmCard 5 (s.fget F.THM_STAT_HOTDIE) (s.fget F.THM_STAT_TJ)
      if st = 2 ∨ st = 4 ∨ st = 5 ∨ st = 6 then s
      else
        let s := (s.fset F.PWR_STAT_STATE 5).setPwr { s.pwr with cause := some 1 }
        (card s.aoUpdateAll).powerSequence 1 bad flushed.toNat us.toNat)

/-- THERMAL_HOLD_END: every die reading has stayed below 105 °C for 10 s; the device restarts with code 0x5, once no power-fail
warning stands (R554, R555). -/
def execThermalHoldEnd (s : State) : Out State :=
  .next (
    if !s.pwr.hot then s
    else
      let s := s.setPwr { s.pwr with hot := false }
      if s.pwrState = 2 ∨ (s.pwrState = 6 ∧ s.pwr.warn = false) then s.intoReset 5 else s)

/-! ### Temperature (R548 to R550) -/

/-- The warning threshold in force, in 0.25 °C: outside 85 to 115 °C it acts as the nearer end. -/
def State.warnTh (s : State) : Int := clampInt 340 460 (toSigned 16 (s.fget F.THM_WARNTH_TH))

/-- The hottest die and its reading. -/
def hottest : Nat → List Half → Nat × Int
  | _, [] => (0, -(2 ^ 15 : Nat))
  | k, t :: l =>
    let x := hottest (k + 1) l
    if x.2 ≤ toSigned 16 t.toNat then (k, toSigned 16 t.toNat) else x

/-- THERMAL_READING: the readings of the six dies, in 0.25 °C, every 1 ms: core, WD0 to WD3, field. -/
def execThermalReading (t : List Half) (s : State) : Out State :=
  .next (
    let t := t.take 6
    let s := t.zipIdx.foldl (fun s x =>
      let peak := toSigned 16 (s.fget F.THM_TEMP_PEAK x.2)
      let s := s.fset F.THM_TEMP_NOW x.1.toNat x.2
      let s := s.fset F.THM_TEMP_PEAK (ofSigned 16 (max peak (toSigned 16 x.1.toNat))) x.2
      if x.2 = 5 then s.fset F.ACQ_SUPPLY_TEMP x.1.toNat else s) s
    let h := hottest 0 t
    let tj := ofSigned 16 h.2
    let s := (s.fset F.THM_STAT_HOTDIE h.1).fset F.THM_STAT_TJ tj
    let warn := s.flag F.THM_STAT_WARN
    let s := if !warn && decide (s.warnTh ≤ h.2) then (s.setFlag F.THM_STAT_WARN true).thmCard 1 h.1 tj
      else if warn && decide (h.2 < s.warnTh - 12) then (s.setFlag F.THM_STAT_WARN false).thmCard 2 h.1 tj else s
    let thr := s.flag F.THM_STAT_THROT
    let s := if thr then s.count R.THM_THROTMS else s
    if !thr && decide (480 ≤ h.2) then ((s.setFlag F.THM_STAT_THROT true).fset F.CLK_STAT_THROT 6).thmCard 3 h.1 tj
    else if thr && decide (h.2 < 468) then ((s.setFlag F.THM_STAT_THROT false).fset F.CLK_STAT_THROT 8).thmCard 4 h.1 tj
    else s)

/-! ### The clock (R529, R531) -/

/-- REFCLK_LOSS: the clock monitor declares REFCLK lost: holdover, and device safe state with CAUSE 0x04. -/
def execRefclkLoss (s : State) : Out State :=
  .next (
    if !s.pwr.refOk then s
    else
      let s := s.setPwr { s.pwr with refOk := false }
      let s := s.setFlag F.CLK_STAT_REFOK false
      if s.flag F.CLK_STAT_LOCK then
        ((s.setFlag F.CLK_STAT_HOLDOVER true).clkCard 1 []).diagnose true 4
      else s)

/-- REFCLK_PRESENT: REFCLK is present; a start-up that waits for it at step 1 goes on with step 2 (R531). -/
def execRefclkPresent (s : State) : Out State :=
  .next (
    let s := (s.setPwr { s.pwr with refOk := true }).setFlag F.CLK_STAT_REFOK true
    if s.boot.step = 1 then (s.setBoot { s.boot with step := 2 }).setFlag F.CLK_STAT_LOCK true else s)

/-- PLL_LOCK_LOSS: the PLL has lost lock and regained it after `us` µs (R556, Table 19-13). -/
def execPllLockLoss (us : Word) (s : State) : Out State :=
  .next (if s.flag F.CLK_STAT_LOCK then (s.count R.CLK_UNLOCK).clkCard 2 (leBytes 4 us.toNat) else s)

end Sys2Proof.Machine
end

