-- ==== Sys2Proof/Machine/BootReg.lean ====
section
/-! DEFINITION. The BOOT registers (spec/02, Tables 02-13 to 02-18): confirmation, the configuration lock, restart requests and key
revocation. -/

namespace Sys2Proof.Machine

/-- The slot that is loaded: 0 A, 1 B. -/
def State.bootSlot (s : State) : Nat := s.fget F.BOOT_STAT_SLOT

/-- Set or clear the avoided mark of a slot (R60). -/
def State.setAvoid (s : State) (k : Nat) (b : Bool) : State :=
  if k = 0 then s.setFlag F.BOOT_SLOTRES_AVOIDA b else if k = 1 then s.setFlag F.BOOT_SLOTRES_AVOIDB b else s

/-- Set the configuration lock (R71). -/
def State.setLock (s : State) : State := { s with locked := true }.setFlag F.BOOT_STAT_LOCKED true

/-- A list of key hashes with a KEYADD entry programmed into a blank slot (R54). -/
def addKey (l : List (List Byte)) (slot : Nat) (h : List Byte) : List (List Byte) := if l.getD slot [0] = [] then l.set slot h else l

/-- The OTP fields that confirmation programs: the rollback count up to the image's, and the KEYADD entries (R61, R54). -/
def Boot.confirmed (b : Boot) : Boot :=
  { b with
    rollback := max b.rollback b.imgRollback
    signKeys := (b.keyAdds.filter (fun x => x.1 == 0)).foldl (fun l x => addKey l x.2.1 x.2.2) b.signKeys
    safeKeys := (b.keyAdds.filter (fun x => x.1 == 1)).foldl (fun l x => addKey l x.2.1 x.2.2) b.safeKeys }

/-- The image is confirmed (R60, R61). -/
def State.confirm (s : State) : State :=
  let s := ((s.setFlag F.BOOT_STAT_CONFIRMED true).setFlag F.BOOT_STAT_TRIAL false).setAvoid s.bootSlot false
  let s := s.setBoot s.boot.confirmed
  s.fset F.BOOT_ROLLBACK_OTPCOUNT s.boot.rollback

/-- A restart is asked for: 1 ms from now, with code 0x4; one already due comes first (R537). -/
def State.askRestart (s : State) (update : Bool) : State :=
  let at' := match s.boot.restartAt with
    | some x => x
    | none => (s.now + 1000000, 4)
  s.setBoot { s.boot with restartAt := some at', update := s.boot.update || update, lastSlot := s.bootSlot }

/-- What a write of `v` to BOOT_CTRL by home does (Table 02-13). -/
def State.writeBootCtrl (s : State) (v : Word) : State :=
  let s := if bit v.toNat 0 then s.setLock else s
  let s := if bit v.toNat 1 ∧ s.fget F.BOOT_STAT_STATE = 2 ∧ s.flag F.BOOT_STAT_CONFIRMED = false then s.confirm else s
  if bit v.toNat 2 then s.askRestart (bit v.toNat 3) else s

/-- BOOT_CONFIRM: a write of BOOT_CTRL with CONFIRM = 1. -/
def execBootConfirm (r : Req) (v : Word) (s : State) : Out State :=
  .next (s.asHome r R.BOOT_CTRL.at (fun s => s.writeBootCtrl (setField v 1 1 1)))

/-- BOOT_LOCK: a write of BOOT_CTRL with LOCK = 1. -/
def execBootLock (r : Req) (v : Word) (s : State) : Out State :=
  .next (s.asHome r R.BOOT_CTRL.at (fun s => s.writeBootCtrl (setField v 0 1 1)))

/-- BOOT_RESTART_REQUEST: a write of BOOT_CTRL with RESTART = 1 and UPDATE = 0. -/
def execBootRestartRequest (r : Req) (v : Word) (s : State) : Out State :=
  .next (s.asHome r R.BOOT_CTRL.at (fun s => s.writeBootCtrl (setField v 2 2 1)))

/-- BOOT_UPDATE_REQUEST: a write of BOOT_CTRL with RESTART and UPDATE = 1 (R73). -/
def execBootUpdateRequest (r : Req) (v : Word) (s : State) : Out State :=
  .next (s.asHome r R.BOOT_CTRL.at (fun s => s.writeBootCtrl (setField v 2 2 3)))

/-- What a write of `v` to BOOT_REVOKE by `r` does (Table 02-14, R71): the bits of a field that would revoke a slot in use revoke
nothing of that field; after the lock a 1 at a bit that reads 0 is a violation. -/
def State.writeRevoke (s : State) (r : Req) (v : Word) : State :=
  let old := s.rd R.BOOT_REVOKE.at
  if s.locked then (if v &&& ~~~old &&& 0x30F != 0 then s.violateBy r 0x8 R.BOOT_REVOKE.at else s)
  else
    let b := s.boot
    let loaded := decide (s.fget F.BOOT_STAT_STATE = 2)
    let sign := if loaded && bit v.toNat b.keyIdx && !bit b.signRev b.keyIdx then b.signRev else b.signRev ||| getField v 0 4
    let safe := if loaded && bit (getField v 8 2) b.safeIdx && !bit b.safeRev b.safeIdx then b.safeRev else b.safeRev ||| getField v 8 2
    ((s.setBoot { b with signRev := sign, safeRev := safe }).fset F.BOOT_REVOKE_SIGNREV sign).fset F.BOOT_REVOKE_SAFEREV safe

/-- BOOT_REVOKE_WRITE: a write of BOOT_REVOKE by home. -/
def execBootRevokeWrite (r : Req) (v : Word) (s : State) : Out State :=
  .next (s.asHome r R.BOOT_REVOKE.at (fun s => s.writeRevoke r v))

/-- Cycles from now to the end of the confirmation window; 0 when none is open. -/
def State.confirmLeft (s : State) : Nat :=
  if s.flag F.BOOT_STAT_TRIAL then s.boot.releaseTb + s.boot.confirmMs * 1000000 - s.now else 0

/-- CONFIRM_WINDOW_EXPIRE: CONFIRMMS has passed without confirmation: the slot is marked avoided and the device restarts (R60). The spec
names no Table 19-3 code for this restart: that of a restart request. DESIGN CHOICE, unsafe. -/
def execConfirmWindowExpire (s : State) : Out State :=
  .next (if s.flag F.BOOT_STAT_TRIAL && s.confirmLeft == 0 then (s.setAvoid s.bootSlot true).intoReset 4 else s)

end Sys2Proof.Machine
end

