-- ==== Sys2Proof/Machine/Dm.lean ====
section
/-! DEFINITION. Data movers: COPY and FILL in their steps of 4,096 bytes, compression and expansion on the way, arrivals into
circular regions, and the segments of a remote COPY (R111, R123, R143, R165, R512 to R514). -/

namespace Sys2Proof.Machine

/-- The byte width of an element, for zero compression (R116). -/
def Desc.zcWidth (d : Desc) : Nat := if subByte d.typ then 1 else d.ebytes

/-- Bytes of the uncompressed stream a data-mover transfer moves: the destination's; the source's where the destination is a
lossless stream. -/
def dmTotal (isFill : Bool) (src dst : Desc) : Nat :=
  if dst.layout = 3 ∧ isFill = false ∧ src.layout ≠ 3 then src.streamBytes else dst.streamBytes

/-- The elements of a tensor whose bits lie in bytes `lo` to `hi - 1` of its stream. -/
def Desc.elemsIn (d : Desc) (lo hi : Nat) : Nat × Nat :=
  let w := typeBits d.typ
  (8 * lo / w, min d.count (ceilDiv (8 * hi) w))

/-- What a step of a transfer has as its bytes: the state, and the bytes with the physical address each came from where it came
whole from one; nothing where the step has been suspended or has failed. -/
abbrev DmBytes := State × Option (List Byte × List (Option Nat))

/-- Bytes of a linear range of a tensor's stored form (a lossless stream) at offsets `lo` to `hi - 1`: translated, checked,
read. -/
def State.dmLinear (s : State) (n : Nat) (p : Prog) (o : OpRun) (h : Nat) (d : Desc) (ranges : List (Nat × Nat)) :
    State × Option (List Byte) :=
  let offs := ranges.flatMap (fun r => (List.range (r.2 - r.1)).map (· + r.1))
  match s.touch n p.start.ctx (d.touches h .read offs) [] with
  | (.fault t f, s) => (s.suspendOp n p o 3 t f h, none)
  | (.ok m, s) =>
    let s := s.violatePages n p.start.ctx m
    let start := s.crTail d.crnum
    let addr (k : Nat) := s.tensorPhys d m .read start k
    match s.readCheck n p d.notag (offs.filterMap addr) o.slot h d.base with
    | (false, s) => (s, none)
    | (true, s) => (s, some (offs.map (fun k => match addr k with | some a => s.physByte a | none => 0)))

/-- The uncompressed bytes of block `i` of a lossless source, or its stored form where `raw` (index entry, then stored bytes);
a failed block or index ends the transfer with error status (R121, R122). -/
def State.dmBlock (s : State) (n : Nat) (p : Prog) (o : OpRun) (h : Nat) (d : Desc) (total i : Nat) (raw : Bool) :
    State × Option (List Byte) :=
  let fail (s : State) : State × Option (List Byte) := (s.halt n 0x0C o.slot h d.base, none)
  let nblk := ceilDiv total 4096
  match s.dmLinear n p o h d [(0, 32 + 16 * nblk)] with
  | (s, none) => (s, none)
  | (s, some head) =>
    let rd (k : Nat) : Byte := head.getD k 0
    match streamHeader rd with
    | none => fail s
    | some (ulen, _) =>
      if ulen ≠ total then fail s
      else
        let e := parseEntry ((head.drop (32 + 16 * i)).take 16)
        match s.dmLinear n p o h d [(e.offset, e.offset + e.stored)] with
        | (s, none) => (s, none)
        | (s, some stored) =>
          let all (k : Nat) : Byte := if k < 32 + 16 * nblk then rd k else stored.getD (k - e.offset) 0
          match streamBlock all ulen i with
          | none => fail s
          | some b => (s, some (if raw then (head.drop (32 + 16 * i)).take 16 ++ stored else b))

/-- Bytes `lo` to `hi - 1` of a tensor's element stream, with their physical addresses where elements are whole bytes. -/
def State.dmTensor (s : State) (n : Nat) (p : Prog) (o : OpRun) (h : Nat) (d : Desc) (lo hi : Nat) : DmBytes :=
  let r := d.elemsIn lo hi
  match s.touch n p.start.ctx (d.touches h .read (d.offsets r.1 r.2)) [] with
  | (.fault t f, s) => (s.suspendOp n p o 3 t f h, none)
  | (.ok m, s) =>
    let s := s.violatePages n p.start.ctx m
    let start := s.crTail d.crnum
    let addrs := s.readAddrs d m start r.1 r.2
    match s.readCheck n p d.notag addrs o.slot h d.base with
    | (false, s) => (s, none)
    | (true, s) =>
      let b := packElems (typeBits d.typ) (s.elems s.physByte d m start r.1 r.2)
      let from' := if subByte d.typ then List.replicate b.length none
        else (List.range (r.2 - r.1)).flatMap (fun i => (List.range d.ebytes).map (fun k =>
          s.tensorPhys d m .read start ((d.pos (r.1 + i)).1 + k)))
      (s, some (b, from'))

/-- The 32-bit pattern of FILL over bytes `lo` to `hi - 1` of a stream (R165). -/
def fillBytes (pat lo hi : Nat) : List Byte :=
  (List.range (hi - lo)).map (fun i => BitVec.ofNat 8 (pat >>> (8 * ((lo + i) % 4))))

/-- The source bytes of step `o.step` of a transfer. -/
def State.dmSource (s : State) (n : Nat) (p : Prog) (o : OpRun) (src dst : Desc) (lo hi total : Nat) : DmBytes :=
  let lift (x : State × Option (List Byte)) : DmBytes := (x.1, x.2.map (fun b => (b, List.replicate b.length none)))
  if o.opc = 0x31 then (s, some (fillBytes (o.arg.getD 0) lo hi, List.replicate (hi - lo) none))
  else if src.layout = 3 then lift (s.dmBlock n p o (p.handle o 0) src total (lo / 4096) (dst.layout == 3))
  else s.dmTensor n p o (p.handle o 0) src lo hi

/-! ### Writing a chunk -/

/-- Whole blocks copied without rearrangement carry their source's tag: where the source was read without a tag check, a tag
that did not verify goes with the data (R111, R114). `l` pairs destination and source addresses. -/
def State.carryTags (s : State) (l : List (Nat × Option Nat)) : State :=
  let blocks := (l.map (fun x => x.1 / 256)).eraseDups
  blocks.foldl (fun s b =>
    let here := l.filter (fun x => x.1 / 256 == b)
    match here.head?.bind (·.2) with
    | none => s
    | some a0 =>
      let sb := a0 / 256
      if here.length = 256 ∧ here.all (fun x => x.2 == some (sb * 256 + x.1 % 256)) = true ∧ (s.loc (b * 256)).tagged = true ∧
          (s.loc (sb * 256)).tagged = true then
        { s with mem := s.mem.setTagDiff b (s.mem.tagDiff sb) }
      else s) s

/-- What the destination of a transfer into a bound region does before its first byte: its arrival starts, waits, or is
dropped (R101, R102, R594). `none` means wait; otherwise the start count, or no start where the arrival is dropped. -/
def State.dmArrival (s : State) (n : Nat) (p : Prog) (o : OpRun) (dst : Desc) (total : Nat) : State × Option (Option Nat) :=
  match o.note with
  | [1, start] => (s, some (some start))
  | [2] => (s, some none)
  | _ =>
    let len := if dst.layout = 3 then 32 + 16 * ceilDiv total 4096 + 4096 * ceilDiv total 4096 else total
    match s.startArrival dst.crnum p.start.ctx n p.start.cls len with
    | (.started, s) =>
      let a := (s.region dst.crnum).opened.find? (fun a => a.unit == n && a.tag == p.start.cls && !a.window)
      (s, some (some (a.elim 0 (·.start))))
    | (.waits, s) => (s, none)
    | (.dropped, s) => (s, some none)

/-- The byte offsets and bytes that a step lays into a lossless destination, and what the step leaves for the next: the offset of
the next block and the index so far (R118). -/
def dmCompress (o : OpRun) (total : Nat) (data : List Byte) (raw : Bool) (e : BlockEntry) :
    List (Nat × List Byte) × (Nat × Nat × List Byte) :=
  let nblk := ceilDiv total 4096
  let st := (o.staged.head?).getD (0, 32 + 16 * nblk, [])
  let off := st.2.1
  let r := if raw then (e.mode, BitVec.ofNat 8 e.value, data.drop 16) else encodeBlock data
  let entry := leBytes 4 off ++ leBytes 2 r.2.2.length ++ leBytes 2 (if raw then e.blen else data.length) ++
    [BitVec.ofNat 8 r.1, r.2.1, 0, 0] ++ leBytes 4 (if raw then e.bcrc else crc32c data)
  let last := o.step + 1 = nblk
  let pad := if last then 0 else roundUp r.2.2.length 8 - r.2.2.length
  let index := st.2.2 ++ entry
  let head := if last then [(0, leBytes 8 total ++ leBytes 4 nblk ++ leBytes 4 0 ++ leBytes 4 (crc32c index) ++ List.replicate 12 0)] else []
  ([(32 + 16 * o.step, entry), (off, r.2.2 ++ List.replicate pad 0)] ++ head, (0, off + r.2.2.length + pad, index))

/-- The step of a transfer is done: the next one, or the end, where an arrival completes (R101). -/
def State.dmStepDone (s : State) (n : Nat) (p : Prog) (o : OpRun) (dst : Desc) : State :=
  let o := { o with step := o.step + 1 }
  if o.step < o.nsteps then s.setOp n p o
  else
    let s := if dst.crbind ∧ o.note ≠ [2] then s.finishArrival dst.crnum n p.start.cls false else s
    s.finishOp n p o

/-- One step of a COPY or FILL whose destination is this device's memory: translate, read and check, then write (R139, R143,
R165). -/
def State.dmStep (s : State) (n : Nat) (p : Prog) (o : OpRun) : State :=
  let src := p.desc (p.handle o 0)
  let hd := p.handle o 1
  let dst := p.desc hd
  let total := dmTotal (o.opc == 0x31) src dst
  let lo := 4096 * o.step
  let hi := min total (lo + 4096)
  match (if dst.crbind then s.dmArrival n p o dst total else (s, some (some 0))) with
  | (s, none) => s
  | (s, some start) =>
    let o := { o with note := if dst.crbind then (match start with | some x => [1, x] | none => [2]) else o.note }
    let st := start.getD 0
    match s.dmSource n p o src dst lo hi total with
    | (s, none) => s
    | (s, some (data, from')) =>
      let raw := o.opc == 0x30 && src.layout == 3 && dst.layout == 3
      let comp := dmCompress o total data raw (parseEntry (data.take 16))
      let r := dst.elemsIn lo hi
      let offs := if dst.layout = 3 then comp.1.flatMap (fun x => (List.range x.2.length).map (· + x.1))
        else dst.offsets r.1 r.2
      match s.touch n p.start.ctx (dst.touches hd .write offs) [] with
      | (.fault t f, s) => s.suspendOp n p o 3 t f hd
      | (.ok m, s) =>
        let s := s.violatePages n p.start.ctx m
        let addr (k : Nat) := s.tensorPhys dst m .write st k
        if start = none then s.dmStepDone n p o dst
        else if dst.layout = 3 then
          let l := comp.1.flatMap (fun x => x.2.zipIdx.filterMap (fun b => (addr (x.1 + b.2)).map (fun a => (a, b.1))))
          (s.writeBytes l).dmStepDone n p { o with staged := [comp.2] } dst
        else
          let w := typeBits dst.typ
          let vals := unpackElems w (r.2 - r.1) data
          let s := s.writeElems dst m st (vals.zipIdx.map (fun x => (r.1 + x.2, x.1)))
          let s := if subByte dst.typ then s
            else
              let dests := (List.range (r.2 - r.1)).flatMap (fun i => (List.range dst.ebytes).map (fun k =>
                addr ((dst.pos (r.1 + i)).1 + k)))
              s.carryTags ((dests.zip from').filterMap (fun x => x.1.map (fun a => (a, x.2))))
          s.dmStepDone n p o dst

/-! ### Remote destinations (R511 to R514, R517) -/

/-- The physical address a transfer's destination begins at, where its first page is mapped. -/
def State.dmFirst (s : State) (n : Nat) (p : Prog) (dst : Desc) : Option Nat :=
  if dst.crbind then none
  else match (s.translate n p.start.ctx (dst.base / 4096)).1 with
    | .ok e => some (e.page (dst.base / 4096) * 4096 + dst.base % 4096)
    | .fault _ => none

/-- Whether a transfer's destination lies in the remote window. -/
def State.dmRemote (s : State) (n : Nat) (p : Prog) (o : OpRun) : Bool :=
  o.opc == 0x30 && (match s.dmFirst n p (p.desc (p.handle o 1)) with
    | some a => s.loc a == .remote && s.remoteOk a
    | none => false)

/-- Whether a remote destination is linear and contiguous with a BASE multiple of 256 (R512). -/
def Desc.contiguous (d : Desc) : Bool :=
  d.layout == 0 && d.base % 256 == 0 && !subByte d.typ && !d.crbind && d.extent == d.streamBytes &&
  (List.range 5).all (fun k => d.size k == 1 || d.stride k == d.ebytes * ((d.sizes.take k).foldl (· * ·) 1))

/-- Bytes `lo` to `hi - 1` of the destination stream that segment `k` of a remote COPY carries: up to the 4 KiB boundaries of
the destination (R513). -/
def segRange (base total k : Nat) : Nat × Nat :=
  let first := 4096 - base % 4096
  if k = 0 then (0, min total first) else (min total (first + 4096 * (k - 1)), min total (first + 4096 * k))

/-- Segments of a remote COPY. -/
def segCount (base total : Nat) : Nat := 1 + ceilDiv (total - min total (4096 - base % 4096)) 4096

/-- The COPY ends with error status: counted, reported, the program halts with reason 0x0C (R512, R517). -/
def State.copyError (s : State) (n slot handle : Nat) (counter : RegDesc) (event dest : Nat) (detail : List Byte) : State :=
  ((s.count counter).chnCard event ((s.route dest).getD 0) 0 detail).halt n 0x0C slot handle 0

/-- SEGMENT_SEND: the next segment of a remote COPY is cut and queued on the port toward its device, as a segment header and
block records; the COPY ends once no segment is outstanding (R512 to R514, R517). -/
def State.segmentSend (s : State) (n : Nat) (p : Prog) (o : OpRun) : State :=
  let src := p.desc (p.handle o 0)
  let hd := p.handle o 1
  let dst := p.desc hd
  let owner := n * 8 + p.start.cls
  if o.nsteps ≤ o.step then (if s.chn.flights.any (fun f => f.owner == owner) then s else s.finishOp n p o)
  else
    let total := dst.streamBytes
    let r := segRange dst.base total o.step
    match s.dmSource n p o src dst r.1 r.2 total with
    | (s, none) => s
    | (s, some (data, _)) =>
      match s.touch n p.start.ctx [⟨(dst.base + r.1) / 4096, .write, dst.base + r.1, hd⟩] [] with
      | (.fault t f, s) => s.suspendOp n p o 3 t f hd
      | (.ok m, s) =>
        let s := s.violatePages n p.start.ctx m
        match m.phys .write (dst.base + r.1) with
        | none => s.setOp n p { o with step := o.step + 1 }
        | some a =>
          let dev := (a - 0x4000000000) / 0x8000000
          let wofs := (a - 0x4000000000) % 0x8000000
          let arrive := bit o.mod 0
          let zc := bit o.mod 1 || src.cmode == 1 || dst.cmode == 1
          match s.flag F.CHN_STAT_ADDRVALID, s.route dev with
          | false, _ | _, none => s.copyError n o.slot hd R.CHN_UNREACH 7 dev (leBytes 2 dev)
          | true, some port =>
            let xfer := match o.note with | [3, x, _] => x | _ => s.chn.nextXfer
            let target := match o.note with | [3, _, t] => t | _ => wofs
            let s := if o.step = 0 then { s with chn := { s.chn with nextXfer := (s.chn.nextXfer + 1) % 2 ^ 32 } } else s
            let e := src.zcWidth
            let ofs := if arrive then r.1 else wofs
            let blocks := chunksOf 256 (data.length / 256 + 1) data
            let flits := blocks.flatMap (fun b => blockRecord (if zc then e else 0) (zcEncode e) (crc32c b) b)
            let g := s.seg (vcOfClass p.start.cls)
              { dest := dev, ttype := if arrive then 2 else 1, cls := p.start.cls,
                flags := b2n zc + 2 * b2n (src.notag || dst.notag) + 4 * b2n (o.step + 1 == o.nsteps),
                ofs := ofs, len := data.length, tlen := if arrive then total else 0, target := if arrive then target else 0,
                xfer := xfer } flits
            let s := s.enqueue port g
            let s := { s with chn := { s.chn with
              flights := s.chn.flights ++ [(⟨owner, xfer, ofs, g, s.now, false⟩ : Flight)] } }
            s.setOp n p { o with step := o.step + 1, note := [3, xfer, target] }

/-- SEGMENT_SEND (R513). -/
def execSegmentSend (n : Fin 22) (s : State) : Out State :=
  .next (s.withOp n.val (fun o => o.started && o.opc == 0x30) (fun p o =>
    if s.dmRemote n.val p o then s.segmentSend n.val p o else s))

/-! ### The commands of a data-mover channel -/

/-- Begin a transfer: count its steps; a remote destination must be linear and contiguous (R165, R512). -/
def State.dmBegin (s : State) (n : Nat) (p : Prog) (o : OpRun) : State :=
  let src := p.desc (p.handle o 0)
  let dst := p.desc (p.handle o 1)
  let total := dmTotal (o.opc == 0x31) src dst
  if s.dmRemote n p o then
    if dst.contiguous then s.setOp n p { o with started := true, nsteps := segCount dst.base total }
    else s.halt n 0x04 o.slot (p.handle o 1) 0
  else s.setOp n p { o with started := true, nsteps := ceilDiv total 4096 }

/-- COPY: the issued operation of stream `n` begins, if it is a COPY (R165). -/
def execCopy (n : Fin 22) (s : State) : Out State := .next (s.beginOp n.val 0x30 (fun p o => s.dmBegin n.val p o))

/-- FILL: the issued operation of stream `n` begins, if it is a FILL (R165). -/
def execFill (n : Fin 22) (s : State) : Out State := .next (s.beginOp n.val 0x31 (fun p o => s.dmBegin n.val p o))

/-- DM_CHUNK: one step of 4,096 bytes of the transfer of stream `n` (R143, R165). -/
def execDmChunk (n : Fin 22) (s : State) : Out State :=
  .next (s.withOp n.val (fun o => o.started && (o.opc == 0x30 || o.opc == 0x31)) (fun p o =>
    if s.dmRemote n.val p o then s else s.dmStep n.val p o))

end Sys2Proof.Machine
end

