-- ==== Sys2Proof/Machine/Crypto.lean ====
section
/-! DEFINITION. The ciphers of the host ports and of start-up: AES-256, GCM and key wrap (R471, R474), and ECDSA P-256 signature
verification (R45). -/

namespace Sys2Proof.Machine

/-! ### AES-256 (FIPS 197) -/

/-- Multiplication by x in GF(2^8). -/
def gfDouble (a : Nat) : Nat := if a < 128 then 2 * a else (2 * a) ^^^ 0x11B

/-- Multiplication in GF(2^8), by the low `n` bits of `b`. -/
def gfMulBits (a b : Nat) : Nat → Nat
  | 0 => 0
  | n + 1 => (if b % 2 = 1 then a else 0) ^^^ gfMulBits (gfDouble a) (b / 2) n

def gfMul (a b : Nat) : Nat := gfMulBits a b 8

/-- The inverse in GF(2^8): the power 254; 0 for 0. -/
def gfInv (a : Nat) : Nat :=
  let a2 := gfMul a a
  let a3 := gfMul a2 a
  let a12 := gfMul (gfMul a3 a3) (gfMul a3 a3)
  let a15 := gfMul a12 a3
  let a30 := gfMul a15 a15
  let a60 := gfMul a30 a30
  let a120 := gfMul a60 a60
  let a240 := gfMul a120 a120
  gfMul a240 (gfMul a12 a2)

def rotl8 (a n : Nat) : Nat := (a <<< n ||| a >>> (8 - n)) % 256

/-- The S-box, computed. -/
def sboxOf (a : Nat) : Nat :=
  let b := gfInv a
  b ^^^ rotl8 b 1 ^^^ rotl8 b 2 ^^^ rotl8 b 3 ^^^ rotl8 b 4 ^^^ 0x63

def sboxTable : List Nat := (List.range 256).map sboxOf
def sbox (a : Nat) : Nat := sboxTable.getD a 0

/-- The inverse S-box. -/
def sboxInv (a : Nat) : Nat := sboxTable.findIdx (fun x => x == a)

def xorBytes (a b : List Nat) : List Nat := List.zipWith (· ^^^ ·) a b

/-- The key schedule: words of 4 bytes, newest first, extended `n` times; `i` counts words, `rc` is the round constant. -/
def aesExpand : Nat → Nat → Nat → List (List Nat) → List (List Nat)
  | 0, _, _, w => w
  | n + 1, i, rc, w =>
    let t := w.headD []
    let t' := if i % 8 = 0 then xorBytes ((t.drop 1 ++ t.take 1).map sbox) [rc, 0, 0, 0]
      else if i % 8 = 4 then t.map sbox else t
    aesExpand n (i + 1) (if i % 8 = 0 then gfDouble rc else rc) (xorBytes (w.getD 7 []) t' :: w)

/-- The 15 round keys of 16 bytes. -/
def aesKeys (key : List Byte) : List (List Nat) :=
  let w0 := (chunksOf 4 8 ((padTo 32 key).map (·.toNat))).reverse
  let w := (aesExpand 52 8 1 w0).reverse
  (chunksOf 4 15 w).map (fun l => l.flatMap id)

/-- ShiftRows, or its inverse, on 16 bytes in column order. -/
def shiftRows (inv : Bool) (b : List Nat) : List Nat :=
  (List.range 16).map (fun k =>
    let r := k % 4
    let c := k / 4
    b.getD (4 * ((if inv then c + 4 - r else c + r) % 4) + r) 0)

/-- MixColumns with the first column of its matrix. -/
def mixColumns (m : List Nat) (b : List Nat) : List Nat :=
  (List.range 16).map (fun k =>
    (List.range 4).foldl (fun a j => a ^^^ gfMul (m.getD ((j + 4 - k % 4) % 4) 0) (b.getD (4 * (k / 4) + j) 0)) 0)

/-- AES-256 of one block. -/
def aesEncrypt (key blk : List Byte) : List Byte :=
  let ks := aesKeys key
  let b := xorBytes ((padTo 16 blk).map (·.toNat)) (ks.getD 0 [])
  let b := (List.range 13).foldl (fun b i => xorBytes (mixColumns [2, 3, 1, 1] (shiftRows false (b.map sbox))) (ks.getD (i + 1) [])) b
  (xorBytes (shiftRows false (b.map sbox)) (ks.getD 14 [])).map (BitVec.ofNat 8)

/-- The inverse cipher. -/
def aesDecrypt (key blk : List Byte) : List Byte :=
  let ks := aesKeys key
  let b := xorBytes ((padTo 16 blk).map (·.toNat)) (ks.getD 14 [])
  let b := (List.range 13).foldl (fun b i =>
    mixColumns [14, 11, 13, 9] (xorBytes ((shiftRows true b).map sboxInv) (ks.getD (13 - i) []))) b
  (xorBytes ((shiftRows true b).map sboxInv) (ks.getD 0 [])).map (BitVec.ofNat 8)

/-! ### GCM (NIST SP 800-38D) -/

/-- Multiplication in GF(2^128) as GHASH orders its bits: the low `n` bits of `y`, from the most significant of 128. -/
def ghashMul (v y : Nat) : Nat → Nat → Nat
  | 0, z => z
  | n + 1, z =>
    ghashMul (if v % 2 = 1 then (v / 2) ^^^ (0xE1 <<< 120) else v / 2) y n (if y.testBit n then z ^^^ v else z)

def ghash (h : Nat) (m : List Byte) : Nat :=
  (chunksOf 16 (m.length / 16 + 1) m).foldl (fun z b => ghashMul h (z ^^^ beNat (padTo 16 b)) 128 0) 0

/-- A message filled with zeros to a multiple of 16 bytes. -/
def pad16 (m : List Byte) : List Byte := padTo (roundUp m.length 16) m

/-- Encrypt or decrypt in counter mode from counter `n`. -/
def gcmCtr (key nonce m : List Byte) : List Byte :=
  ((chunksOf 16 (m.length / 16 + 1) m).mapIdx (fun i b =>
    List.zipWith (· ^^^ ·) b (aesEncrypt key (nonce ++ beBytes 4 (i + 2))))).flatMap id

/-- The GCM tag of a ciphertext and its additional data. -/
def gcmTag (key nonce aad c : List Byte) : List Byte :=
  let h := beNat (aesEncrypt key (List.replicate 16 0))
  let s := ghash h (pad16 aad ++ pad16 c ++ beBytes 8 (8 * aad.length) ++ beBytes 8 (8 * c.length))
  List.zipWith (· ^^^ ·) (beBytes 16 s) (aesEncrypt key (nonce ++ beBytes 4 1))

/-- Open a sealed message: ciphertext followed by its tag of 16 bytes. -/
def gcmOpen (key nonce aad m : List Byte) : Option (List Byte) :=
  let c := m.take (m.length - 16)
  if 16 ≤ m.length ∧ gcmTag key nonce aad c = m.drop (m.length - 16) then some (gcmCtr key nonce c) else none

/-- Seal a message. -/
def gcmSeal (key nonce aad p : List Byte) : List Byte :=
  let c := gcmCtr key nonce p
  c ++ gcmTag key nonce aad c

/-! ### Key wrap (RFC 3394) -/

/-- One unwrapping step: the register A, the key blocks, and the step number. -/
def unwrapStep (kek : List Byte) (x : List Byte × List (List Byte)) (t : Nat) : List Byte × List (List Byte) :=
  let n := x.2.length
  let i := (t - 1) % n
  let b := aesDecrypt kek (List.zipWith (· ^^^ ·) x.1 (beBytes 8 t) ++ x.2.getD i [])
  (b.take 8, x.2.set i (b.drop 8))

/-- Unwrap a wrapped key; none where its check value is wrong. -/
def keyUnwrap (kek w : List Byte) : Option (List Byte) :=
  let n := w.length / 8 - 1
  let r := (List.range (6 * n)).foldl (fun x k => unwrapStep kek x (6 * n - k)) (w.take 8, chunksOf 8 n (w.drop 8))
  if r.1 = List.replicate 8 0xA6 then some (r.2.flatMap id) else none

/-! ### ECDSA P-256 (FIPS 186) -/

def p256P : Nat := 0xFFFFFFFF00000001000000000000000000000000FFFFFFFFFFFFFFFFFFFFFFFF
def p256N : Nat := 0xFFFFFFFF00000000FFFFFFFFFFFFFFFFBCE6FAADA7179E84F3B9CAC2FC632551
def p256B : Nat := 0x5AC635D8AA3A93E7B3EBBD55769886BC651D06B0CC53B0F63BCE3C3E27D2604B
def p256G : Nat × Nat :=
  (0x6B17D1F2E12C4247F8BCE6E563A440F277037D812DEB33A0F4A13945D898C296,
   0x4FE342E2FE1A7F9B8EE7EB4A7C0F9E162BCE33576B315ECECBB6406837BF51F5)

/-- Powers modulo `m`, by the low `n` bits of the exponent. -/
def powMod (m : Nat) : Nat → Nat → Nat → Nat → Nat
  | 0, _, _, acc => acc
  | n + 1, b, e, acc => powMod m n (b * b % m) (e / 2) (if e % 2 = 1 then acc * b % m else acc)

/-- The inverse modulo a 256-bit prime. -/
def invMod (m a : Nat) : Nat := powMod m 256 (a % m) (m - 2) 1

/-- A point of the curve: none is the point at infinity. -/
abbrev Point := Option (Nat × Nat)

/-- The sum of two points. -/
def pointAdd (a b : Point) : Point :=
  match a, b with
  | none, q => q
  | p, none => p
  | some (x1, y1), some (x2, y2) =>
    let m := p256P
    if x1 = x2 ∧ (y1 + y2) % m = 0 then none
    else
      let l := if x1 = x2 then (3 * (x1 * x1 + m - 1) % m) * invMod m (2 * y1) % m
        else (y2 + m - y1) * invMod m ((x2 + m - x1) % m) % m
      let x3 := (l * l + 2 * m - x1 - x2) % m
      some (x3, (l * (x1 + m - x3) + m - y1) % m)

/-- The multiple of a point by the low `n` bits of `k`. -/
def pointMul : Nat → Nat → Point → Point → Point
  | 0, _, _, acc => acc
  | n + 1, k, p, acc => pointMul n (k / 2) (pointAdd p p) (if k % 2 = 1 then pointAdd acc p else acc)

/-- Whether (r, s) is a valid signature by the public key (x, y) over a digest. -/
def ecdsaOk (x y r s : Nat) (digest : List Byte) : Bool :=
  let n := p256N
  let m := p256P
  let onCurve := decide (x < m) && decide (y < m) && y * y % m == (x * x * x + (m - 3) * x + p256B) % m
  if !onCurve || r == 0 || decide (n ≤ r) || s == 0 || decide (n ≤ s) then false
  else
    let w := invMod n s
    let u1 := beNat digest * w % n
    let u2 := r * w % n
    match pointAdd (pointMul 256 u1 (some p256G) none) (pointMul 256 u2 (some (x, y)) none) with
    | some q => q.1 % n == r
    | none => false

end Sys2Proof.Machine
end

