-- ==== Sys2Proof/Machine/Image.lean ====
section
/-! DEFINITION. The configuration image (spec/02): the flash, the header and table checks, the sections as they are read, the
placements of MODEL sections (spec/07, spec/09), and the transfer of an image in enrolment (R76, R77, R491). -/

namespace Sys2Proof.Machine

/-! ### Where an image lies -/

/-- A place an image is read from: its bytes, its room, and whether a range cannot be read. -/
structure ImgSrc where
  rd : Nat → Byte
  cap : Nat
  bad : Nat → Nat → Bool

def ImgSrc.bytes (x : ImgSrc) (o n : Nat) : List Byte := (List.range n).map (fun i => x.rd (o + i))
def ImgSrc.num (x : ImgSrc) (o n : Nat) : Nat := leNat (x.bytes o n)

/-- Bytes of a slot: half the flash density (R42). -/
def Boot.slotSize (b : Boot) : Nat := 2 ^ (b.flashLog - 1)

def Boot.flashByte (b : Boot) (o : Nat) : Byte := Sparse.get (fun _ => (0xFF : Byte)) b.flash o

/-- Slot `k` of the flash; `err` says that the flash fails to answer for it. -/
def Boot.slotSrc (b : Boot) (k : Nat) (err : Bool) : ImgSrc :=
  ⟨fun o => b.flashByte (k * b.slotSize + o), b.slotSize, fun _ _ => err⟩

/-- The staged-image area, banks 30 and 31 of the storage array (R72). -/
def stagedBase : Nat := 0xF0000000

def State.stagedSrc (s : State) : ImgSrc :=
  ⟨fun o => s.sto.byte (stagedBase + o), 0x10000000,
   fun o n => (List.range (n / 8 + 2)).any (fun i => s.sto.err ((stagedBase + o) / 8 + i) == 3)⟩

/-- Erase slot `k` and program bytes into it. -/
def Boot.writeSlot (b : Boot) (k : Nat) (data : List Byte) : Boot :=
  let cells := Sparse.clear (fun o => o / b.slotSize == k) b.flash
  { b with flash := data.zipIdx.foldl (fun l x => Sparse.put (fun _ => (0xFF : Byte)) l (k * b.slotSize + x.2) x.1) cells }

/-! ### Header (R44 to R45) -/

/-- The bit of GRADES that stands for this device's grade. -/
def State.gradeBit (s : State) : Nat :=
  match s.fget F.SYS_PARTID_PART with
  | 0x9440 => 0
  | 0x9430 => 1
  | _ => 2

/-- The size of the header and section table. -/
def ImgSrc.headLen (x : ImgSrc) : Nat := 0x100 + 64 * x.num 6 2

/-- Whether MAGIC, FORMAT, a reserved field or a header range is wrong (code 0x03). -/
def ImgSrc.badHeader (x : ImgSrc) : Bool :=
  x.num 0 4 != 0x5459434F || x.num 4 2 != 1 || x.num 6 2 == 0 || decide (256 < x.num 6 2) || x.num 8 4 % 4096 != 0 ||
  x.num 12 4 == 0 || decide (256 < x.num 0x10 2) || decide (1 < x.num 0x12 2) || x.num 0x14 1 == 0 || decide (7 < x.num 0x14 1) ||
  decide (3 < x.num 0x15 1) || x.num 0x70 0x50 != 0

def State.signKey (s : State) (k : Nat) : List Byte := s.boot.signKeys.getD k []
def State.safeKey (s : State) (k : Nat) : List Byte := s.boot.safeKeys.getD k []

/-- Every signing-key slot is blank (R77). -/
def State.unsignedUnit (s : State) : Bool := (List.range 4).all (fun k => s.signKey k == [])

/-- Whether the signature over a digest verifies: the key and the signature as little-endian integers (R45). -/
def sigOk (pub sig digest : List Byte) : Bool :=
  ecdsaOk (leAt pub 0 32) (leAt pub 32 32) (leAt sig 0 32) (leAt sig 32 32) digest

/-- Whether signing-key slot KEYIDX takes the image's PUBKEY; `first` stands for the first-signer binding (R45, R77). -/
def State.keyTakes (s : State) (x : ImgSrc) (first : Bool) : Bool :=
  let k := x.num 0x15 1
  if first then k == 0 else s.signKey k != [] && !bit s.boot.signRev k && sha256 (x.bytes 0x20 64) == s.signKey k

/-- The first failing check of Table 02-5 up to 0x08, 0 for none (R56). -/
def State.headerCode (s : State) (x : ImgSrc) (first : Bool) : Nat :=
  if x.bad 0 0x100 then 0x0E
  else if x.num 0 4 = 0xFFFFFFFF then 0x02
  else if x.badHeader then 0x03
  else if x.bad 0 x.headLen then 0x0E
  else if !bit (x.num 0x14 1) s.gradeBit then 0x04
  else if x.num 0x18 8 ≠ 0 ∧ x.num 0x18 8 ≠ s.boot.unitId then 0x05
  else if !s.keyTakes x first then 0x06
  else if !sigOk (x.bytes 0x20 64) (x.bytes 0xC0 64) (sha256 (x.bytes 0 0xC0 ++ x.bytes 0x100 (64 * x.num 6 2))) then 0x07
  else if x.num 0x10 2 < s.boot.rollback then 0x08
  else 0

/-! ### Section table (R46 to R49) -/

/-- A section table entry (Table 02-2). -/
structure SecEntry where
  typ : Nat
  inst : Nat
  flags : Nat
  ofs : Nat
  len : Nat
  size : Nat
  rsvd : Nat
  dest : Nat
  hash : List Byte
deriving DecidableEq, Repr

def parseSec (b : List Byte) : SecEntry :=
  ⟨leAt b 0 2, leAt b 2 2, leAt b 4 4, leAt b 8 4, leAt b 12 4, leAt b 16 4, leAt b 20 4, leAt b 24 8, (b.drop 32).take 32⟩

def ImgSrc.sections (x : ImgSrc) : List SecEntry := (List.range (x.num 6 2)).map (fun k => parseSec (x.bytes (0x100 + 64 * k) 64))

/-- A range inside another. -/
def inside (a n lo len : Nat) : Bool := decide (lo ≤ a) && decide (a + n ≤ lo + len)

def inAm (a n : Nat) : Bool := inside a n 0x0100000000 0x02000000
def inPsm (a n : Nat) : Bool := inside a n 0x0140000000 0x00800000
def inWbm (a n : Nat) : Bool := inside a n 0x0180000000 0x01000000
def inTcm (a n : Nat) : Bool := inside a n 0x10000000 0x200000 || inside a n 0x10200000 0x200000
def inAnyDam (a n : Nat) : Bool := (List.range 4).any (fun d => inside a n (0x0800000000 + 0x1000000 * d) 0x800000)

/-- Instances of each section type (Table 02-3); 0 for a TYPE the table does not list. -/
def secInstances (t : Nat) : Nat :=
  match t with
  | 0x01 => 2 | 0x03 => 22 | 0x04 => 8 | 0x05 => 64 | 0x0F => 8 | 0x10 => 65536 | 0x11 => 1 | 0xFF => 1
  | _ => if 2 ≤ t ∧ t ≤ 14 then 1 else 0

/-- Whether the device parses the section. -/
def secParsed (t : Nat) : Bool := !(t == 1 || t == 2 || t == 3 || t == 0x10)

/-- Whether the destination is one Table 02-3 allows. -/
def SecEntry.destOk (e : SecEntry) : Bool :=
  match e.typ with
  | 1 => inside e.dest e.size (0x10000000 + 0x200000 * e.inst) 0x200000
  | 2 => inside e.dest e.size 0x20000000 0x80000
  | 3 => inAm e.dest e.size || inWbm e.dest e.size
  | 0x10 => inAm e.dest e.size || inPsm e.dest e.size || inWbm e.dest e.size || inTcm e.dest e.size || inAnyDam e.dest e.size
  | _ => e.dest == 0

/-- Whether one entry obeys Tables 02-2 and 02-3. -/
def SecEntry.ok (e : SecEntry) (headLen imgSize : Nat) : Bool :=
  decide (e.flags ≤ 1) && e.rsvd == 0 && decide (1 ≤ e.len) && (e.flags == 1 || e.size == e.len) &&
  e.ofs % 4096 == 0 && decide (headLen ≤ e.ofs) && decide (e.ofs + e.len ≤ imgSize) && decide (e.inst < secInstances e.typ) && e.destOk

/-- Whether the section table is valid, and no program is for a stream that the grade does not enable (R47, R49). -/
def State.tableOk' (s : State) (x : ImgSrc) : Bool :=
  let l := x.sections
  let ids := l.map (fun e => (e.typ, e.inst))
  decide (x.num 8 4 ≤ x.cap) && l.all (fun e => e.ok x.headLen (x.num 8 4)) &&
  (l.zip l.tail).all (fun p => decide (p.1.ofs < p.2.ofs) && decide (p.1.ofs + p.1.len ≤ p.2.ofs)) &&
  ids.eraseDups.length == ids.length && ids.contains (1, 0) && ids.contains (2, 0) && ids.contains (9, 0) &&
  l.all (fun e => e.typ != 3 || s.streamEnabled e.inst)

/-- The result of the checks made before a section is read: codes 0x02 to 0x08, 0x0A and 0x0E (R56). -/
def State.slotCode (s : State) (x : ImgSrc) (first : Bool) : Nat :=
  let c := s.headerCode x first
  if c ≠ 0 then c else if s.tableOk' x then 0 else 0x0A

/-! ### Parsed sections (R50 to R55) -/

/-- A section as loaded: its type, instance and destination, and its bytes. -/
structure Section where
  typ : Nat
  inst : Nat
  dest : Nat
  data : List Byte
deriving DecidableEq, Repr

/-- The basic profile, and the expert entries as register address and value (R50). -/
def Section.profile (x : Section) : List Byte := (x.data.drop 16).take (leAt x.data 2 2)
def Section.experts (x : Section) : List (Nat × Word) :=
  (List.range (leAt x.data 4 4)).map (fun k =>
    let o := 16 + leAt x.data 2 2 + 8 * k
    (regBase + leAt x.data o 4, BitVec.ofNat 32 (leAt x.data (o + 4) 4)))

/-- Whether the prefix is sound and the section holds the profile and the entries it names. -/
def Section.prefixOk (x : Section) : Bool :=
  leAt x.data 0 2 == 1 && leAt x.data 8 8 == 0 && decide (16 + leAt x.data 2 2 + 8 * leAt x.data 4 4 ≤ x.data.length)

/-- Whether register block `b` is one that a section of TYPE `t` may write (R52, Table 03-2). -/
def secBlock (t b : Nat) : Bool :=
  match t with
  | 0x04 => b == 6
  | 0x05 => decide (8 ≤ b) && decide (b < 24)
  | 0x06 => b == 25
  | 0x07 => b == 24
  | 0x08 => b == 26
  | 0x0A => b == 30
  | 0x0B => b == 29
  | 0x0C => b == 31
  | 0x0D => b == 1 || b == 2 || b == 7
  | 0x0E => b == 4
  | 0x0F => b == 5
  | 0xFF => b != 3
  | _ => false

/-- Whether an expert entry of a section of TYPE `t` addresses a register it may write. -/
def expertOk (t a : Nat) : Bool := a % 4 == 0 && (findReg a).isSome && secBlock t ((a - regBase) / 0x10000)

/-- The SAFETY section's parameter bytes (R55). -/
def Section.params (x : Section) : List Byte := (x.data.drop 144).take (leAt x.data 0 4)

/-- Whether a SAFETY section verifies against OTP; `first` stands for the first-signer binding (R55, R77). -/
def State.safetyOk (s : State) (x : Section) (first : Bool) : Bool :=
  let k := leAt x.data 4 2
  let pub := (x.data.drop 16).take 64
  decide (144 + leAt x.data 0 4 ≤ x.data.length) && decide (k < 2) &&
  (if first then k == 0 else s.safeKey k != [] && !bit s.boot.safeRev k && sha256 pub == s.safeKey k) &&
  sigOk pub ((x.data.drop 80).take 64) (sha256 x.params)

/-- The KEYADD entries: kind, slot, hash (R54). -/
def Section.keyAdds (x : Section) : List (Nat × Nat × List Byte) :=
  (List.range (min 6 (x.data.length / 40))).map (fun k =>
    (leAt x.data (40 * k) 1, leAt x.data (40 * k + 1) 1, (x.data.drop (40 * k + 8)).take 32))

/-! ### Models and placements (spec/07, spec/09) -/

/-- An assignment of a deck image to a logical deck. -/
structure Assign where
  die : Nat
  group : Nat
  pos : Nat
  deck : Nat
  wfmt : Nat
  block : Nat
deriving DecidableEq, Repr

/-- A placement record (Tables 09-1 to 09-4): layer records as die, entry and values; descriptor records as handle, context and
descriptor; copy records as length, source and destination. -/
structure Placement where
  assigns : List Assign
  dmeMask : Nat
  layers : List (Nat × Nat × List Word)
  descs : List (Nat × Nat × List Byte)
  copies : List (Nat × Nat × Nat)
deriving DecidableEq, Repr

def parseAssign (v : Nat) : Assign := ⟨bits v 0 2, bits v 2 4, bits v 6 6, bits v 12 3, bits v 15 2, bits v 32 16⟩

/-- The directory of a MODEL profile: OFFSET, NASSIGN and DMEMASK of each placement. -/
def modelDirectory (p : List Byte) : List (Nat × Nat × Nat) :=
  (List.range (min 8 (leAt p 44 1))).map (fun k => (leAt p (48 + 8 * k) 4, leAt p (52 + 8 * k) 2, leAt p (54 + 8 * k) 1))

/-- The bytes of `n` records of `w` bytes from an offset. -/
def recordsOf (b : List Byte) (o w n : Nat) : List (List Byte) := (List.range n).map (fun k => (b.drop (o + w * k)).take w)

/-- The placement a directory entry points at; none where the record's own bytes make it malformed (R274, R275). -/
def parsePlacement (p : List Byte) (dir : Nat × Nat × Nat) : Option Placement :=
  let b := p.drop dir.1
  let na := dir.2.1
  let nl := leAt b 4 2
  let nd := leAt b 6 2
  let nc := leAt b 8 2
  let plen := 16 + 8 * na + 32 * nl + 72 * nd + 24 * nc
  let as := (recordsOf b 16 8 na).map (fun r => leAt r 0 8)
  let ls := recordsOf b (16 + 8 * na) 32 nl
  let ds := recordsOf b (16 + 8 * na + 32 * nl) 72 nd
  let cs := recordsOf b (16 + 8 * na + 32 * nl + 72 * nd) 24 nc
  if leAt b 0 4 ≠ plen ∨ b.length < plen then none
  else if as.any (fun v => v / 2 ^ 48 != 0 || bits v 17 15 != 0) || ls.any (fun r => leAt r 2 6 != 0 || decide (3 < leAt r 0 1)) ||
      ds.any (fun r => leAt r 3 5 != 0) || cs.any (fun r => leAt r 1 3 != 0 || leAt r 4 4 == 0 || decide (2 ^ 40 ≤ leAt r 16 8)) then none
  else some ⟨as.map parseAssign, dir.2.2,
    ls.map (fun r => (leAt r 0 1, leAt r 1 1, (List.range 6).map (fun k => BitVec.ofNat 32 (leAt r (8 + 4 * k) 4)))),
    ds.map (fun r => (leAt r 0 2, leAt r 2 1, r.drop 8)), cs.map (fun r => (leAt r 4 4, leAt r 8 8, leAt r 16 8))⟩

/-- Whether the grade enables every tile group and DME core a placement names (R5, R49). -/
def State.gradeFits (s : State) (x : Placement) : Bool :=
  x.assigns.all (fun a => decide (a.group < s.groupsPerDie)) && (setBits 8 x.dmeMask).all s.coreEnabled

/-- Whether a logical position has a tile in service, or its group a spare that can be assigned (R224). -/
def State.positionServed (s : State) (a : Assign) : Bool :=
  (s.serving a.die a.group a.pos).isSome ||
  (List.range 72).any (fun j => (s.tileX a.die (72 * a.group + j)).role == 1)

/-- Where a placement's records go in memory: address and length (R276). -/
def State.placementRanges (s : State) (x : Placement) : List (Nat × Nat) :=
  x.descs.map (fun d => (s.fget F.MMU_CTX_TDTBASE_PPN d.2.1 * 4096 + 64 * d.1, 64)) ++ x.copies.map (fun c => (c.2.2, c.1))

/-- Whether a copy's source and destination each stay inside their memory (R275, Table 09-4). -/
def State.copyOk (s : State) (c : Nat × Nat × Nat) : Bool :=
  let l := s.loc c.2.2
  decide (c.2.1 + c.1 ≤ 2 ^ 32) && s.loc (c.2.2 + c.1 - 1) == l &&
  (l.tagged || l == .tcm 0 || l == .tcm 1)

/-- No two elements of a list satisfy `p`. -/
def noPair {α : Type} (p : α → α → Bool) : List α → Bool
  | [] => true
  | a :: t => t.all (fun b => !p a b) && noPair p t

/-- Whether the placement is sound on this device as set up (R275). -/
def State.placementOk (s : State) (x : Placement) : Bool :=
  x.descs.all (fun d => decide (d.2.1 < 8) && decide (d.1 < s.fget F.MMU_CTX_TDTCNT_CNT d.2.1)) && x.copies.all s.copyOk &&
  noPair (fun a b => a.1 == b.1 && a.2.1 == b.2.1) x.layers && noPair (fun a b => a.1 == b.1 && a.2.1 == b.2.1) x.descs &&
  noPair (fun a b => decide (a.1 < b.1 + b.2) && decide (b.1 < a.1 + a.2)) (s.placementRanges x)

/-- Whether a placement fits (R224, R275). -/
def State.placementFits (s : State) (x : Placement) : Bool :=
  s.gradeFits x && x.assigns.all (fun a => s.groupOk a.die a.group && s.positionServed a) &&
  (setBits 8 x.dmeMask).all (fun k => !s.coreRetired k) && s.placementOk x

/-- The placement records of a MODEL section that are well formed, in order. -/
def Section.placements (x : Section) : List Placement := (modelDirectory x.profile).filterMap (parsePlacement x.profile)

/-! ### Reading the sections (R58, R59) -/

/-- The failure a section shows when it is read, 0 for none: hash and blocks, safety block, expert range, model fit. -/
def State.sectionCode (s : State) (x : Section) (first : Bool) : Nat :=
  if x.typ = 9 then (if s.safetyOk x first then 0 else 0x0B)
  else if x.typ = 0x11 ∨ !secParsed x.typ then 0
  else if !x.prefixOk ∨ !x.experts.all (fun e => expertOk x.typ e.1) then 0x0C
  else if x.typ = 5 ∧ !x.placements.any s.gradeFits then 0x0A
  else 0

/-- The loaded bytes of a section; none where its hash or a block fails on the second read too. -/
def ImgSrc.loadSec (x : ImgSrc) (e : SecEntry) : Option (List Byte) :=
  let b := x.bytes e.ofs e.len
  if sha256 b ≠ e.hash then none
  else if e.flags = 1 then
    match expandStream (fun i => x.rd (e.ofs + i)) with
    | some d => if d.length = e.size then some d else none
    | none => none
  else some b

/-- Read the sections one after another: the first failure's code, or the sections. -/
def State.readSections (s : State) (x : ImgSrc) (first : Bool) : List SecEntry → List Section → Nat × List Section
  | [], acc => (0, acc)
  | e :: t, acc =>
    if x.bad e.ofs e.len then (0x0E, acc)
    else match x.loadSec e with
      | none => (0x09, acc)
      | some d =>
        let y : Section := ⟨e.typ, e.inst, e.dest, d⟩
        let c := s.sectionCode y first
        if c ≠ 0 then (c, acc) else s.readSections x first t (acc ++ [y])

/-- All checks of Table 02-5 on an image, its sections included: the staged image's check (R73, R76, R77). -/
def State.imageCode (s : State) (x : ImgSrc) (first : Bool) : Nat :=
  let c := s.slotCode x first
  if c ≠ 0 then c else (s.readSections x first x.sections []).1

/-! ### Enrolment (R75 to R78) -/

/-- Enrolment rules apply. -/
def State.enrolling (s : State) : Bool := s.fget F.BOOT_STAT_STATE == 3

/-- The first-signer binding: the SHA-256 of each key goes to OTP slot 0 of its kind (R77). -/
def State.bindKeys (s : State) (x : ImgSrc) : State :=
  let safety := x.sections.find? (fun e => e.typ == 9)
  let pub := match safety with
    | some e => (match x.loadSec e with | some d => (d.drop 16).take 64 | none => [])
    | none => []
  s.setBoot { s.boot with signKeys := s.boot.signKeys.set 0 (sha256 (x.bytes 0x20 64)), safeKeys := s.boot.safeKeys.set 0 (sha256 pub) }

/-- Who may do what with the image transfer: 0, or the LRP status 0x08 or 0x0A (R491, R78). -/
def State.imgRefusal (s : State) (src : List Byte) (begin' : Bool) : Nat :=
  if !s.enrolling || !s.flag F.BOOT_STAT_FLASHOK then 0x08
  else match s.hosts.image with
    | none => if begin' then 0 else 0x08
    | some x => if x.source = src then 0 else 0x0A

def State.setImage (s : State) (x : Option ImageXfer) : State := { s with hosts := { s.hosts with image := x } }

/-- IMGBEGIN from a source: the LRP status, and the sectors erased (R491). -/
def State.imgBegin (s : State) (src : List Byte) (len : Nat) : Nat × State :=
  let c := s.imgRefusal src true
  if c ≠ 0 then (c, s)
  else if 268435456 < len then (0x06, s)
  else
    let s := (List.range (ceilDiv len 4096)).foldl (fun s k => s.portErase (stagedBase + 4096 * k) true) s
    (0, s.setImage (some ⟨src, len, []⟩))

/-- Program bytes into the staged-image area word by word; a word that is not blank keeps what it holds. -/
def State.stageWords (s : State) (o : Nat) (l : List (List Byte)) : State :=
  l.zipIdx.foldl (fun s x =>
    let a := stagedBase + o + 8 * x.2
    if s.sto.blank (a / 8) then (s.portWord a (x.1 ++ List.replicate (8 - x.1.length) 0xFF) true).2 else s) s

/-- IMGDATA: the LRP status, and the bytes in the staged-image area. -/
def State.imgData (s : State) (src : List Byte) (ofs : Nat) (data : List Byte) : Nat × State :=
  let c := s.imgRefusal src false
  if c ≠ 0 then (c, s)
  else match s.hosts.image with
    | none => (0x08, s)
    | some x =>
      if ofs % 8 ≠ 0 ∨ x.len < ofs + data.length ∨ 1024 < data.length then (0x06, s)
      else if x.got.contains (ofs, data.length) then (0, s)
      else (0, (s.stageWords ofs (chunksOf 8 (data.length / 8 + 1) data)).setImage (some { x with got := x.got ++ [(ofs, data.length)] }))

/-- IMGEND: the LRP status, the Table 02-5 code, and after code 0 both slots programmed and a restart due at once; `flashOk`
says whether both verified (R76, R77, R492). -/
def State.imgEnd (s : State) (src : List Byte) (flashOk : Bool) : Nat × Nat × State :=
  let c := s.imgRefusal src false
  if c ≠ 0 then (c, 0, s)
  else
    let x := s.stagedSrc
    let first := s.unsignedUnit
    let size := x.num 8 4
    let s := s.setImage none
    let code := s.imageCode x first
    let code := if code = 0 ∧ s.boot.slotSize < size then 0x0A else code
    if code ≠ 0 then (0x09, code, s)
    else
      let s := if first then s.bindKeys x else s
      let data := x.bytes 0 size
      let s := s.setBoot ((s.boot.writeSlot 0 data).writeSlot 1 data)
      if flashOk then (0, 0, s.setBoot { s.boot with restartAt := some (s.now, 4) }) else (0x09, 0x0E, s)

end Sys2Proof.Machine
end

