-- ==== Sys2Proof/Machine/Lrp.lean ====
section
/-! DEFINITION. The Lystan Ring Protocol (spec/17): received frames and the port buffers, sessions, the check of a message, replies,
and the operations. Each LRP command serves the next message of a port when that message carries its operation; a message that
fails a check is dropped by whichever of them meets it. -/

namespace Sys2Proof.Machine

/-! ### Hosts as bound (Table 17-2) -/

def State.hostX (s : State) (h : Nat) : HostX := Sparse.get (fun _ => HostX.fresh) s.hosts.hosts h

def State.setHostX (s : State) (h : Nat) (x : HostX) : State :=
  { s with hosts := { s.hosts with hosts := Sparse.put (fun _ => HostX.fresh) s.hosts.hosts h x } }

def State.setHosts (s : State) (x : Hosts) : State := { s with hosts := x }

def HostX.port (x : HostX) : Nat := leAt x.conf 1 1
def HostX.perm (x : HostX) : Nat := leAt x.conf 2 1
def HostX.stopMask (x : HostX) : Nat := leAt x.conf 3 1
def HostX.passMask (x : HostX) : Nat := leAt x.conf 4 1
def HostX.readMask (x : HostX) : Nat := leAt x.conf 5 1
def HostX.passMax (x : HostX) : Nat := if leAt x.conf 6 2 = 0 then 3600 else leAt x.conf 6 2

/-- Whether a source address lies within PEER; prefix length 0 is any. -/
def HostX.peerOk (x : HostX) (a : List Byte) : Bool :=
  let n := min 128 (leAt x.conf 24 1)
  n == 0 || beNat (a.take 16) / 2 ^ (128 - n) == beNat ((x.conf.drop 8).take 16) / 2 ^ (128 - n)

def State.hostBound (s : State) (h : Nat) : Bool := bit (s.fget F.HOST_STAT_BOUND) h

/-- Whether port `p` is enabled by the HOSTCTX section, or listens in enrolment (R490). -/
def State.portOn (s : State) (p : Nat) : Bool := leAt s.hosts.conf (64 * p) 1 == 1 || (s.enrolling && decide (p < 3))

/-! ### Frames (R465, R466, R493) -/

def State.ordBuf (s : State) (p : Nat) : List Pkt := Sparse.get (fun _ => []) s.hosts.ord p
def State.urgBuf (s : State) (p : Nat) : List Pkt := Sparse.get (fun _ => []) s.hosts.urgent p
def State.setOrd (s : State) (p : Nat) (l : List Pkt) : State := s.setHosts { s.hosts with ord := Sparse.put (fun _ => []) s.hosts.ord p l }
def State.setUrg (s : State) (p : Nat) (l : List Pkt) : State := s.setHosts { s.hosts with urgent := Sparse.put (fun _ => []) s.hosts.urgent p l }

/-- Whether a frame of this kind is answered or handed on: 0 an LRP datagram, 1 ARP or Neighbour Discovery for the port's address, 2 an
echo request, 3 gPTP, 4 any other. -/
def frameKept (p kind len : Nat) : Bool := kind == 0 || kind == 1 || (kind == 2 && decide (len ≤ 64)) || (kind == 3 && decide (p < 2))

/-- The VLAN half-word of port `p`. -/
def State.vlan (s : State) (p : Nat) : List Byte := padTo 2 ((s.hosts.conf.drop (64 * p + 2)).take 2)

/-- HOST_FRAME_RECEIVE: a frame of a kind arrives on port 0 to 2 with its PCP, its source (16 address bytes, 2 of the UDP port) and its
content. In Recess an LRP datagram on port 2 from a bound host's PEER range requests wake (R493). -/
def execHostFrameReceive (p : Fin 3) (kind : Fin 5) (pcp : Fin 8) (src body : List Byte) (s : State) : Out State :=
  .next (
    let p := p.val
    if s.pwrState = 2 then
      if p = 2 ∧ kind.val = 0 ∧ s.portOn 2 ∧ bit (s.fget F.PWR_WAKEEN_EN) 1 = true ∧
          (List.range 4).any (fun h => s.hostBound h && (s.hostX h).port == 2 && (s.hostX h).peerOk src) = true then s.wake 2 else s
    else if !s.portOn p || !s.domOn 2 || (decide (p < 2) && !s.domOn 6) then s
    else
      let urgent := pcp.val = 7
      let full := if urgent then decide (16 ≤ (s.urgBuf p).length) else decide (64 ≤ (s.ordBuf p).length)
      if full then s.count R.HOST_RXDROP 1 p
      else if !frameKept p kind.val body.length then s
      else match kind.val with
        | 0 => if urgent then s.setUrg p (s.urgBuf p ++ [⟨padTo 18 src, body⟩]) else s.setOrd p (s.ordBuf p ++ [⟨padTo 18 src, body⟩])
        | 1 => s.send (0x80 + p) 4 (s.vlan p ++ padTo 18 src ++ beBytes 6 (s.boot.macBase + p))
        | 2 => s.send (0x80 + p) 4 (s.vlan p ++ padTo 18 src ++ body)
        | _ => s)

/-! ### Sessions and the check of a message (R473 to R475) -/

/-- Whether a counter is above the highest accepted, or within 64 below it and not yet accepted. -/
def Session.takes (x : Session) (c : Nat) : Bool :=
  decide (1 ≤ c) && (decide (x.top < c) || (decide (x.top ≤ c + 64) && !x.seen.contains c))

def Session.accept (x : Session) (c : Nat) : Session :=
  let top := max x.top c
  { x with top := top, seen := (c :: x.seen).filter (fun k => decide (top ≤ k + 64)) }

/-- A session key: `label` is 0 for host to device, 1 for device to host. -/
def sessionKey (key : List Byte) (x : Session) (label : Nat) : List Byte :=
  hmac key ([0x4C, 0x52, 0x50, 0x31] ++ (if label = 0 then [0x68, 0x64] else [0x64, 0x68]) ++ x.hn ++ x.dn)

/-- What a packet is. -/
inductive Msg where
  | dropped                       -- no LRP message, or one this state of the device drops
  | refused                       -- fails R475: dropped and counted
  | barred (h : Nat)              -- of a host whose context is disabled (R472)
  | hello (h : Nat) (hn : List Byte)
  | secured (h number ctr : Nat) (payload : List Byte)
  | plain (payload : List Byte)   -- KIND 3, in enrolment
deriving DecidableEq, Repr

/-- The check of a sealed packet (R475). -/
def State.checkSealed (s : State) (p h : Nat) (k : Pkt) : Msg :=
  let b := k.bytes
  let x := s.hostX h
  match [x.cur, x.next].filterMap (fun y => y.bind (fun y => if y.number = leAt b 16 4 then some y else none)) with
  | [] => .refused
  | y :: _ =>
    match gcmOpen (sessionKey (x.key.getD []) y 0) ((b.drop 16).take 4 ++ (b.drop 8).take 8) (b.take 24) (b.drop 24) with
    | none => .refused
    | some d => if (p = 3 ∨ x.peerOk k.src = true) ∧ y.takes (leAt b 8 8) = true then .secured h y.number (leAt b 8 8) d else .refused

/-- What a packet of port `p` is (R472 to R475, R490). -/
def State.readMsg (s : State) (p : Nat) (k : Pkt) : Msg :=
  let b := k.bytes
  let kind := leAt b 5 1
  let h := leAt b 6 1
  let len := leAt b 20 4
  if b.length < 24 ∨ leAt b 0 4 ≠ 0x3150524C ∨ leAt b 4 1 ≠ 1 ∨ leAt b 7 1 ≠ 0 ∨ 3 < h ∨ 1400 < len then .dropped
  else if s.enrolling then
    if kind = 3 ∧ p < 3 ∧ h = 0 ∧ b.length = 24 + len then .plain (b.drop 24) else .dropped
  else if kind = 0 then
    let x := s.hostX h
    if !s.hostBound h ∨ x.port ≠ p ∨ leAt b 8 12 ≠ 0 ∨ len ≠ 16 ∨ b.length ≠ 40 then .dropped
    else if !s.ctxEnabled (h + 1) then .barred h
    else if p = 3 ∨ x.peerOk k.src then .hello h (b.drop 24) else .dropped
  else if kind = 2 then
    if b.length ≠ 40 + len then .dropped
    else if !s.hostBound h ∨ (s.hostX h).port ≠ p then .refused
    else if !s.ctxEnabled (h + 1) then .barred h
    else s.checkSealed p h k
  else .dropped

/-- The operation a message carries: 0 for HELLO, 0xFF for none. -/
def Msg.op : Msg → Nat
  | .hello _ _ => 0x100
  | .secured _ _ _ d => leAt d 0 1
  | .plain d => leAt d 0 1
  | _ => 0xFF

/-- A host's cursor joins a result ring at HEAD (R481). -/
def State.joinRing (s : State) (q h : Nat) : State :=
  let x := s.ringX q
  s.setRingX q { x with cursors := x.cursors.filter (fun c => c.host != h) ++ [⟨h, s.fget F.HOST_RR_HEAD_INDEX q, 0⟩] }

/-- The result rings a host may read: its own, and the internal ones READMASK grants. -/
def State.readable (s : State) (h : Nat) : List Nat := setBits 8 (s.hostX h).readMask ++ [8 + 2 * h, 9 + 2 * h]

/-- The counter of an accepted message is noted; the first message of a pending session makes it current, with new cursors (R474,
R481). -/
def State.acceptMsg (s : State) (h number c : Nat) : State :=
  let x := s.hostX h
  match x.cur with
  | some y =>
    if y.number = number then s.setHostX h { x with cur := some (y.accept c) }
    else
      let s := s.setHostX h { x with cur := x.next.map (fun z => z.accept c), next := none }
      (s.readable h).foldl (fun s q => s.joinRing q h) s
  | none =>
    let s := s.setHostX h { x with cur := x.next.map (fun z => z.accept c), next := none }
    let s := s.fset F.HOST_STAT_SESS (s.fget F.HOST_STAT_SESS ||| 2 ^ h)
    (s.readable h).foldl (fun s q => s.joinRing q h) s

/-! ### Replies (R467, R473, R476) -/

/-- A packet leaves port `p` on an egress queue, to the address its request came from; the SPI target keeps it as pending reply. -/
def State.transmit (s : State) (p queue : Nat) (addr pkt : List Byte) : State :=
  if p = 3 then s.setHosts { s.hosts with spiReply := s.hosts.spiReply ++ [pkt] }
  else s.send (0x80 + p) queue (s.vlan p ++ padTo 18 addr ++ pkt)

def lrpHead (kind h ctr session len : Nat) : List Byte :=
  leBytes 4 0x3150524C ++ [1, BitVec.ofNat 8 kind, BitVec.ofNat 8 h, 1] ++ leBytes 8 ctr ++ leBytes 4 session ++ leBytes 4 len

/-- Send a sealed payload to host `h` (R474). -/
def State.sendSealed (s : State) (h queue : Nat) (payload : List Byte) : State :=
  let x := s.hostX h
  match x.cur with
  | none => s
  | some y =>
    let ctr := y.sent + 1
    let head := lrpHead 2 h ctr y.number payload.length
    let s := s.setHostX h { x with cur := some { y with sent := ctr } }
    s.transmit x.port queue x.addr
      (head ++ gcmSeal (sessionKey (x.key.getD []) y 1) (leBytes 4 y.number ++ leBytes 8 ctr) head payload)

/-- Whom a reply goes to: a host, or the sender of an open message. -/
inductive Peer where
  | host (h : Nat)
  | enrol (p : Nat) (addr : List Byte)
deriving DecidableEq, Repr

/-- A reply: operation, status, tag and body (R476). -/
def State.reply (s : State) (w : Peer) (queue : Nat) (req : List Byte) (status : Nat) (body : List Byte := []) : State :=
  let payload := padTo 1 (req.take 1) ++ [BitVec.ofNat 8 status, 0, 0] ++ padTo 4 ((req.drop 4).take 4) ++ body
  match w with
  | .host h => s.sendSealed h queue payload
  | .enrol p a => s.transmit p queue a (lrpHead 3 0 0 0 payload.length ++ payload)

/-! ### Serving the next message -/

/-- The SPI target's next packet: a STOP ahead of the others (R470). -/
def State.spiNext (s : State) : Nat :=
  match s.hosts.spiRx.findIdx? (fun b => (s.readMsg 3 ⟨[], b⟩).op == 7) with
  | some i => i
  | none => 0

/-- The next packet of port `p`: whether it comes from the reserved buffer, its place, and itself (R477, R486). -/
def State.nextPkt (s : State) (p : Nat) : Option (Bool × Nat × Pkt) :=
  if p = 3 then (s.hosts.spiRx[s.spiNext]?).map (fun b => (false, s.spiNext, ⟨[], b⟩))
  else match s.urgBuf p with
    | k :: _ => some (true, 0, k)
    | [] => (s.ordBuf p).head?.map (fun k => (false, 0, k))

def State.dropPkt (s : State) (p : Nat) (urgent : Bool) (i : Nat) : State :=
  if p = 3 then s.setHosts { s.hosts with spiRx := s.hosts.spiRx.eraseIdx i }
  else if urgent then s.setUrg p ((s.urgBuf p).drop 1) else s.setOrd p ((s.ordBuf p).drop 1)

/-- The operations of Table 17-4; those enrolment accepts. -/
def lrpOps : List Nat := [1, 2, 3, 4, 5, 6, 7, 8, 9, 10, 11, 12, 13, 14, 15, 16, 17, 18]
def enrolOps : List Nat := [1, 16, 17, 18]

/-- Serve the next message of port `p` if it carries operation `op`: `f` answers it. Whatever fails a check is dropped; an undefined
operation has status 0x06 (R475, R476). -/
def State.serve (s : State) (p op : Nat) (f : State → Peer → List Byte → State) : State :=
  if !s.domOn 2 then s
  else match s.nextPkt p with
    | none => s
    | some (urgent, i, k) =>
      let gone := s.dropPkt p urgent i
      let m := s.readMsg p k
      let o := m.op
      match m with
      | .dropped => gone
      | .refused => gone.count R.HOST_AUTHERR
      | .barred h => gone.violate (h + 1) (0x30 + h) 0xD 0
      | .hello h hn => if urgent then gone.count R.HOST_AUTHERR else if op = 0x100 then
            f (gone.setHostX h { gone.hostX h with addr := k.src }) (.host h) hn else s
      | .plain d =>
        if urgent then gone.count R.HOST_AUTHERR
        else if !enrolOps.contains o then gone
        else if o = op then f gone (.enrol p k.src) d else s
      | .secured h n c d =>
        if urgent ∧ o ≠ 7 then gone.count R.HOST_AUTHERR
        else if o = op ∨ !lrpOps.contains o then
          let s := gone.acceptMsg h n c
          let s := s.setHostX h { s.hostX h with addr := k.src }
          if o = op then f s (.host h) d else s.reply (.host h) 4 d 0x06
        else s

/-- Serve an operation of a bound host; a payload that breaks its layout has status 0x06. -/
def State.serveHost (s : State) (p op : Nat) (ok : List Byte → Bool) (f : State → Nat → List Byte → State) : State :=
  s.serve p op (fun s w d =>
    if leAt d 1 3 != 0 || decide (d.length < 8) || !ok d then s.reply w (if op = 7 then 7 else 4) d 0x06
    else match w with
      | .host h => f s h d
      | .enrol _ _ => s)

/-- LRP_HELLO: a device nonce, a new session and its proof, at most ten times a second (R474). -/
def execLrpHello (p : Fin 4) (s : State) : Out State :=
  .next (s.serve p.val 0x100 (fun s w hn =>
    match w with
    | .enrol _ _ => s
    | .host h =>
      let x := s.hostX h
      let recent := x.hellos.filter (fun t => decide (s.now < t + 1000000000))
      if 10 ≤ recent.length then s
      else
        let a := s.draw
        let b := a.2.draw
        let s := b.2
        let dn := leBytes 16 (a.1 % 2 ^ 128)
        let n := b.1 % 2 ^ 32
        let n := if x.cur.any (fun y => y.number == n) then (n + 1) % 2 ^ 32 else n
        let s := s.setHostX h { s.hostX h with next := some ⟨n, hn, dn, 0, [], 0⟩, hellos := recent ++ [s.now] }
        let proof := (hmac (x.key.getD []) ([0x4C, 0x52, 0x50, 0x31] ++ hn ++ dn ++ leBytes 4 n ++ [BitVec.ofNat 8 h])).take 16
        s.transmit p.val 4 (s.hostX h).addr (lrpHead 1 h 0 n 32 ++ dn ++ proof)))

/-! ### Operations (Table 17-4) -/

/-- LRP_STATUS. In enrolment the violation counter is that of host A's context. -/
def execLrpStatus (p : Fin 4) (s : State) : Out State :=
  .next (s.serve p.val 1 (fun s w d =>
    if d.length ≠ 8 ∨ leAt d 1 3 ≠ 0 then s.reply w 4 d 0x06
    else
      let h := match w with | .host h => h | .enrol _ _ => 0
      s.reply w 4 d 0 (leBytes 4 (s.rget R.SYS_PARTID) ++ leBytes 4 (s.rget R.BOOT_UNITID_LO) ++ leBytes 4 (s.rget R.BOOT_UNITID_HI) ++
        leBytes 4 (s.rget R.BOOT_STAT) ++ [BitVec.ofNat 8 (s.fget F.SAFE_STAT_STATE), BitVec.ofNat 8 (s.fget F.SAFE_STAT_CAUSE)] ++
        leBytes 4 (s.rget R.LDG_STAT) ++ leBytes 4 (s.rget R.MMU_CTX_VIOL (h + 1)) ++ leBytes 4 (s.rget R.HOST_STAT))))

/-- The queue of a reply: 6 on the urgent ring, 4 otherwise. -/
def roleQueue (role : Nat) : Nat := if role = 1 then 6 else 4

/-- The ring a role names for host `h`. -/
def roleRing (h role : Nat) : Nat := if role < 2 then 8 + 2 * h + role else role - 2

/-- Whether host `h` may name the role. -/
def State.roleOk (s : State) (h role : Nat) : Bool := decide (role < 2) || bit (s.hostX h).readMask (role - 2)

/-- Entries of job ring `q`, and those that hold an entry not yet served. -/
def State.jobSize (s : State) (q : Nat) : Nat := s.fget F.HOST_JR_CFG_SIZEM1 q + 1
def State.jobCount (s : State) (q : Nat) : Nat :=
  (s.fget F.HOST_JR_HEAD_INDEX q + s.jobSize q - s.fget F.HOST_JR_TAIL_INDEX q) % s.jobSize q

/-- The address of entry `i` of job ring `q`. -/
def State.jobSlot (s : State) (q i : Nat) : Nat := s.fget F.HOST_JR_BASE_PPN q * 4096 + 64 * (i % s.jobSize q)

/-- An entry that POST accepts: a START with zeros at its end, or a firmware job (R479). -/
def jobOk (e : List Byte) : Bool :=
  let t := leAt e 0 1
  decide (1 ≤ t) && decide (t ≤ 0x7F) && (t != 1 || leAt e 48 16 == 0)

/-- Write an entry at HEAD with its SEQ and ORIGIN. -/
def State.postEntry (s : State) (q : Nat) (e : List Byte) : State :=
  let seq := Sparse.get (fun _ => 0) s.hosts.jobSeq q
  let head := s.fget F.HOST_JR_HEAD_INDEX q
  let s := s.store (s.jobSlot q head) (e.take 4 ++ leBytes 4 seq ++ leBytes 8 s.now ++ (e.drop 16).take 48)
  let s := s.fset F.HOST_JR_HEAD_INDEX ((head + 1) % s.jobSize q) q
  s.setHosts { s.hosts with jobSeq := Sparse.put (fun _ => 0) s.hosts.jobSeq q ((seq + 1) % 2 ^ 32) }

/-- LRP_POST: all entries or none (R476, R479). The ring keeps one entry free, so that a full ring is no empty one. -/
def execLrpPost (p : Fin 4) (s : State) : Out State :=
  .next (s.serveHost p.val 2
    (fun d => decide (leAt d 8 1 < 2) && decide (1 ≤ leAt d 9 1) && decide (leAt d 9 1 ≤ 16) && leAt d 10 6 == 0 &&
      d.length == 16 + 64 * leAt d 9 1 && (chunksOf 64 16 (d.drop 16)).all jobOk)
    (fun s h d =>
      let role := leAt d 8 1
      let q := roleRing h role
      let n := leAt d 9 1
      if !s.flag F.HOST_JR_CFG_EN q ∨ s.jobSize q < s.jobCount q + n + 1 then s.reply (.host h) (roleQueue role) d 0x01
      else
        let seq := Sparse.get (fun _ => 0) s.hosts.jobSeq q
        let s := (chunksOf 64 16 (d.drop 16)).foldl (fun s e => s.postEntry q e) s
        s.reply (.host h) (roleQueue role) d 0 (leBytes 4 seq)))

/-- A host's cursor on a ring. -/
def State.cursor (s : State) (q h : Nat) : Cursor := ((s.ringX q).cursors.find? (fun c => c.host == h)).getD ⟨h, s.fget F.HOST_RR_HEAD_INDEX q, 0⟩

/-- Release entries from a host's cursor, at most up to HEAD. -/
def State.release (s : State) (q h n : Nat) : State :=
  let x := s.ringX q
  let size := s.ringSize q
  s.setRingX q { x with cursors := x.cursors.map (fun (c : Cursor) =>
    if c.host = h then { c with index := (c.index + min n c.dist) % size, dist := c.dist - min n c.dist } else c) }

/-- The bytes of `n` entries of a result ring from an index. -/
def State.ringBytes (s : State) (q i n : Nat) : List Byte :=
  (List.range n).flatMap (fun k => s.load (s.fget F.HOST_RR_BASE_PPN q * 4096 + 64 * ((i + k) % s.ringSize q)) 64)

/-- Open a bulk transfer of host `h` (R488). -/
def State.openBulk (s : State) (h : Nat) (req : List Byte) (packets : List (List Byte)) : State :=
  let x := s.hostX h
  let id := (x.bulkId + 1) % 65536
  s.setHostX h { x with bulkId := id, bulk := some ⟨id, leAt req 0 1, leAt req 4 4, packets, 0, 0, 0, s.now⟩ }

/-- LRP_READ: entries released, then read: up to 16 inline, more as a bulk transfer (R476, R488). -/
def execLrpRead (p : Fin 4) (s : State) : Out State :=
  .next (s.serveHost p.val 3
    (fun d => decide (leAt d 8 1 < 10) && leAt d 9 3 == 0 && d.length == 20 && decide (1 ≤ leAt d 16 4) && decide (leAt d 16 4 ≤ 4096))
    (fun s h d =>
      let role := leAt d 8 1
      let q := roleRing h role
      let c := s.cursor q h
      let left := c.dist - min (leAt d 12 4) c.dist
      let n := min (leAt d 16 4) left
      if !s.roleOk h role then s.reply (.host h) (roleQueue role) d 0x02
      else if !s.ringEnabled q then s.reply (.host h) (roleQueue role) d 0x01
      else if 16 < n ∧ (s.hostX h).bulk.isSome then s.reply (.host h) (roleQueue role) d 0x0A
      else
        let s := s.release q h (leAt d 12 4)
        let b := s.ringBytes q (s.cursor q h).index n
        if n ≤ 16 then s.reply (.host h) (roleQueue role) d 0 b
        else s.openBulk h d (chunksOf 1024 (n / 16 + 1) b)))

/-- Ask for a fence on a result ring (R36, R481): an automatic fence merges with one that waits. -/
def State.askFence (s : State) (q : Nat) (auto : Bool) (tag : Nat) : State :=
  let x := s.ringX q
  if !s.ringEnabled q ∨ (auto = true ∧ x.fences.any (·.auto) = true) then s
  else s.setRingX q { x with fences := x.fences ++ [⟨auto, tag⟩] }

/-- LRP_FENCE (R37, R481). -/
def execLrpFence (p : Fin 4) (s : State) : Out State :=
  .next (s.serveHost p.val 4 (fun d => decide (leAt d 8 1 < 10) && leAt d 9 3 == 0 && d.length == 16)
    (fun s h d =>
      let role := leAt d 8 1
      let q := roleRing h role
      if !s.roleOk h role then s.reply (.host h) (roleQueue role) d 0x02
      else if !s.ringEnabled q then s.reply (.host h) (roleQueue role) d 0x01
      else (s.askFence q false (leAt d 12 4)).reply (.host h) (roleQueue role) d 0))

/-- LRP_PASSACQ (R482). -/
def execLrpPassacq (p : Fin 4) (s : State) : Out State :=
  .next (s.serveHost p.val 5 (fun d => decide (leAt d 8 1 < 8) && leAt d 9 1 == 0 && d.length == 12 && leAt d 10 2 != 0)
    (fun s h d =>
      let n := leAt d 8 1
      let secs := leAt d 10 2
      if !bit (s.hostX h).passMask n then s.reply (.host h) 4 d 0x02
      else if (s.hostX h).passMax < secs ∨ s.safeState = true then s.reply (.host h) 4 d 0x08
      else if !s.passFree n (h + 1) then s.reply (.host h) 4 d 0x03
      else
        let s := s.takePass n (h + 1) secs
        s.reply (.host h) 4 d 0 (leBytes 8 (s.now + secs * 1000000000))))

/-- LRP_PASSREL: by the holder only (R482). -/
def execLrpPassrel (p : Fin 4) (s : State) : Out State :=
  .next (s.serveHost p.val 6 (fun d => decide (leAt d 8 1 < 8) && d.length == 9)
    (fun s h d =>
      let n := leAt d 8 1
      if s.passOf n ≠ some (h + 1) then s.reply (.host h) 4 d 0x04
      else (s.endPass n).reply (.host h) 4 d 0))

/-! ### STOP and RESUME (R485 to R487) -/

/-- The job status record of Table 17-7. -/
def jobStatus (e : List Byte) (result origin : Nat) : List Byte :=
  [0x11, 0, 1, 0, 0, 0, 0, 0] ++ leBytes 8 origin ++ (e.drop 24).take 4 ++ [BitVec.ofNat 8 (leAt e 28 1), BitVec.ofNat 8 result, 0, 0] ++
  (e.drop 4).take 4 ++ List.replicate 36 0

/-- Commit a job status record to result ring `q`, or keep it waiting for space (R480). -/
def State.jobRecord (s : State) (q : Nat) (b : List Byte) : State :=
  if s.hosts.jobWait.any (fun x => x.1 == q) then s.setHosts { s.hosts with jobWait := s.hosts.jobWait ++ [(q, b)] }
  else match s.tryCommit q b with
    | (.full, s) => s.setHosts { s.hosts with jobWait := s.hosts.jobWait ++ [(q, b)] }
    | (_, s) => s

/-- Discard the entries of job ring `q` not yet served; each START among them takes result 0x4 (R486). -/
def State.discardJobs (s : State) (q : Nat) : State :=
  let tail := s.fget F.HOST_JR_TAIL_INDEX q
  let es := (List.range (s.jobCount q)).map (fun k => s.load (s.jobSlot q (tail + k)) 64)
  let s := (s.fset F.HOST_JR_TAIL_INDEX (s.fget F.HOST_JR_HEAD_INDEX q) q).setHosts
    { s.hosts with jobStop := s.hosts.jobStop.filter (fun x => x.1 != q) }
  es.foldl (fun s e => if leAt e 0 1 = 1 then s.jobRecord q (jobStatus e 4 s.now) else s) s

/-- Programs of context `c` that a halt of every stream ends. -/
def State.programsOf (s : State) (c : Nat) : Nat :=
  ((List.range 22).map (fun n => ((s.stream n).run.toList ++ (s.stream n).saved).countP (fun p => p.start.ctx == c))).sum

/-- The steps of R486 for one target host: transfer, job rings, programs, passes, STOPPED. A SNAPSHOT suspended on a fault ends with the
transfer, status 0x07. -/
def State.stopTarget (s : State) (k : Nat) : State :=
  let x := s.hostX k
  let s := match x.snap with
    | some (tag, _, _) =>
      let s := (s.mmu.susps.filter (fun (y : Susp) => y.unit == 0x30 + k)).foldl (fun (s : State) y => s.freeSusp y) s
      (s.setHostX k { s.hostX k with snap := none }).reply (.host k) 4 ([9, 0, 0, 0] ++ leBytes 4 tag) 0x07
    | none => s
  let s := s.setHostX k { s.hostX k with bulk := none }
  let s := (s.discardJobs (8 + 2 * k)).discardJobs (9 + 2 * k)
  let s := (List.range 22).foldl (fun s n => (s.haltContext n (k + 1) 0x15).refuseContext n (k + 1)) s
  let s := (List.range 8).foldl (fun s n =>
    if s.passHolder n = some (k + 1) then (s.endPass n).hostCard 4 [BitVec.ofNat 8 n, BitVec.ofNat 8 (k + 1)] else s) s
  s.fset F.HOST_STAT_STOPPED (s.fget F.HOST_STAT_STOPPED ||| 2 ^ k)

/-- A STOP by host `h`: its targets, their contexts as a mask, the programs halted (R485, R486). -/
def State.stop (s : State) (h : Nat) : Nat × Nat × State :=
  let ts := (List.range 4).filter (fun k => k == h || bit (s.hostX h).stopMask k)
  let mask := (ts.map (fun k => 2 ^ (k + 1))).sum
  let n := (ts.map (fun k => s.programsOf (k + 1))).sum
  let s := ts.foldl (fun s k => s.stopTarget k) s
  (mask, n, (s.count R.HOST_STOPS).hostCard 2 ([BitVec.ofNat 8 h, BitVec.ofNat 8 mask, 0, 0] ++ leBytes 4 n))

/-- LRP_STOP. -/
def execLrpStop (p : Fin 4) (s : State) : Out State :=
  .next (s.serveHost p.val 7 (fun d => d.length == 8) (fun s h d =>
    let x := s.stop h
    x.2.2.reply (.host h) 7 d 0 ([BitVec.ofNat 8 x.1, 0, 0, 0] ++ leBytes 4 x.2.1)))

/-- LRP_RESUME (R487). -/
def execLrpResume (p : Fin 4) (s : State) : Out State :=
  .next (s.serveHost p.val 8 (fun d => d.length == 8) (fun s h d =>
    let s := (List.range 22).foldl (fun s n =>
      let x := s.stream n
      s.setStream n { x with halted := x.halted - (x.halted &&& 2 ^ (h + 1)) }) s
    let m := s.fget F.HOST_STAT_STOPPED
    (s.fset F.HOST_STAT_STOPPED (m - (m &&& 2 ^ h))).reply (.host h) 4 d 0))

/-! ### SNAPSHOT and bulk transfers (R477, R488, R489) -/

/-- The bytes of a snapshot as its pages answer: a page that refuses reads 0; none where a word cannot be read. -/
def State.snapBytes (s : State) (m : PageMap) (va n : Nat) : Option (List Byte) × State :=
  let addrs := (List.range n).map (fun i => m.phys .read (va + i))
  let bad := addrs.filterMap (fun a => a.bind (fun a => match s.loc a with
    | .store _ => if s.windowCheck false [a - 0x1000000000] = .ok then none else some a
    | l => if l.sram && s.mem.isEccBad (a / 8) then some a else none))
  match bad with
  | [] => (some (addrs.map (fun a => match a with | some a => s.physByte a | none => 0)), s)
  | a :: _ =>
    (none, match s.loc a with
      | .store _ => (match s.windowCheck false [a - 0x1000000000] with
        | .bad o => s.uncorrectable o 0x30
        | _ => s)
      | _ => s.eccFail a 0xFF 0xFF)

/-- Take a snapshot for host `h` through its TLB; a fault suspends it (R477, R138). -/
def State.snapshotHost (s : State) (h : Nat) (req : List Byte) (va n : Nat) : State :=
  match s.translatePages (0x30 + h) (h + 1) ((pagesOf va n).map (fun v => (v, .read))) [] with
  | (.fault v _ fl, s) =>
    let f : FaultInfo := { ctx := h + 1, unit := 0x30 + h, cls := 3, kind := 4, flags := fl, handle := 0xFFFF, vaddr := v * 4096, pc := 0,
                           step := 0, nsteps := 1, slot := 0, detail := leAt req 4 4 }
    (match s.reportFault f with
    | (true, s) => s.setHostX h { s.hostX h with snap := some (leAt req 4 4, va, n) }
    | (false, s) => s.reply (.host h) 4 req 0x05)
  | (.ok m, s) =>
    let s := s.violatePages (0x30 + h) (h + 1) m
    match s.snapBytes m va n with
    | (none, s) => s.reply (.host h) 4 req 0x07
    | (some b, s) => s.openBulk h req (if n = 0 then [[]] else chunksOf 1024 (n / 1024 + 1) b)

/-- LRP_SNAPSHOT. -/
def execLrpSnapshot (p : Fin 4) (s : State) : Out State :=
  .next (s.serveHost p.val 9
    (fun d => d.length == 20 && leAt d 8 8 % 8 == 0 && leAt d 16 4 % 8 == 0 && decide (leAt d 16 4 ≤ 0x1000000) &&
      decide (leAt d 8 8 + leAt d 16 4 ≤ 2 ^ 40))
    (fun s h d =>
      let x := s.hostX h
      if !bit x.perm 1 then s.reply (.host h) 4 d 0x02
      else if x.bulk.isSome ∨ x.snap.isSome then s.reply (.host h) 4 d 0x0A
      else s.snapshotHost h d (leAt d 8 8) (leAt d 16 4)))

/-- LRP_BULKACK: every packet up to PKT is acknowledged; the last one ends the transfer (R489). -/
def execLrpBulkack (p : Fin 4) (s : State) : Out State :=
  .next (s.serveHost p.val 10 (fun d => d.length == 16 && leAt d 10 2 == 0) (fun s h d =>
    let x := s.hostX h
    match x.bulk with
    | none => s
    | some b =>
      let a := min b.sent (leAt d 12 4 + 1)
      if b.id ≠ leAt d 8 2 ∨ a ≤ b.acked then s
      else if b.packets.length ≤ a then s.setHostX h { x with bulk := none }
      else s.setHostX h { x with bulk := some { b with acked := a, resends := 0, ackTb := s.now } }))

/-- The payload of packet `k` of a transfer. -/
def Bulk.packet (b : Bulk) (k status : Nat) (last : Bool) (data : List Byte) : List Byte :=
  [BitVec.ofNat 8 b.op, BitVec.ofNat 8 status] ++ leBytes 2 b.id ++ leBytes 4 b.tag ++ leBytes 4 k ++ [BitVec.ofNat 8 (b2n last), 0, 0, 0] ++ data

/-- BULK_PACKET_SEND: the next packet leaves while fewer than 64 are unacknowledged (R489). -/
def execBulkPacketSend (h : Fin 4) (s : State) : Out State :=
  .next (
    let x := s.hostX h.val
    match x.bulk with
    | none => s
    | some b =>
      if !s.domOn 2 ∨ b.packets.length ≤ b.sent ∨ b.acked + 64 ≤ b.sent then s
      else
        let b' := { b with sent := b.sent + 1, ackTb := if b.sent = b.acked then s.now else b.ackTb }
        let s := s.setHostX h.val { x with bulk := some b' }
        let s := s.sendSealed h.val 1 (b.packet b.sent 0 (b.sent + 1 == b.packets.length) (b.packets.getD b.sent []))
        if b.acked + 64 = b.sent + 1 then s.count R.HOST_BULKPAUSE else s)

/-- BULK_RESEND_TIMEOUT: 100 ms without a new acknowledgement: the oldest packet is resent, or after eight resends the transfer is
abandoned (R489). -/
def execBulkResendTimeout (h : Fin 4) (s : State) : Out State :=
  .next (
    let x := s.hostX h.val
    match x.bulk with
    | none => s
    | some b =>
      if !s.domOn 2 ∨ b.sent ≤ b.acked ∨ s.now < b.ackTb + 100000000 then s
      else if b.resends < 8 then
        let s := s.setHostX h.val { x with bulk := some { b with resends := b.resends + 1, ackTb := s.now } }
        s.sendSealed h.val 1 (b.packet b.acked 0 (b.acked + 1 == b.packets.length) (b.packets.getD b.acked []))
      else
        let s := s.setHostX h.val { x with bulk := none }
        let s := s.sendSealed h.val 1 (b.packet b.sent 0x07 true [])
        s.hostCard 5 ([BitVec.ofNat 8 h.val, 0] ++ leBytes 2 b.id))

/-! ### Gated operations -/

/-- LRP_TARIFF: by the holder of pass 0 (R482, R401). -/
def execLrpTariff (p : Fin 4) (s : State) : Out State :=
  .next (s.serveHost p.val 11 (fun d => d.length == 10 && decide (leAt d 8 1 < 2) && decide (leAt d 9 1 < 8)) (fun s h d =>
    if s.passOf 0 ≠ some (h + 1) then s.reply (.host h) 4 d 0x04
    else (s.setTovr (leAt d 8 1 == 1) (leAt d 9 1) true).reply (.host h) 4 d 0))

/-- LRP_MDCLR: by the holder of pass 0. -/
def execLrpMdclr (p : Fin 4) (s : State) : Out State :=
  .next (s.serveHost p.val 12 (fun d => d.length == 8) (fun s h d =>
    if s.passOf 0 ≠ some (h + 1) then s.reply (.host h) 4 d 0x04
    else s.clearMaxDemand.reply (.host h) 4 d 0))

/-- LRP_AOVR: by the holder of pass 1 (R454). -/
def execLrpAovr (p : Fin 4) (s : State) : Out State :=
  .next (s.serveHost p.val 13 (fun d => d.length == 12 && decide (leAt d 8 1 < 4) && decide (leAt d 9 1 < 2)) (fun s h d =>
    if s.passOf 1 ≠ some (h + 1) then s.reply (.host h) 4 d 0x04
    else (s.setOverride (leAt d 8 1) (leAt d 9 1 == 1) (leAt d 10 2) true).reply (.host h) 4 d 0))

/-- LRP_SAFERESET: from the host that HOSTRST names (R426). -/
def execLrpSafereset (p : Fin 4) (s : State) : Out State :=
  .next (s.serveHost p.val 14 (fun d => d.length == 8) (fun s h d =>
    let src := leAt s.safe.params 5 1
    if !bit src 4 ∨ bits src 5 2 ≠ h then s.reply (.host h) 4 d 0x02
    else (if s.fnsRun then s.resetRequest 1 else s).reply (.host h) 4 d 0))

/-- LRP_LEDGERKEY (R405). -/
def execLrpLedgerkey (p : Fin 4) (s : State) : Out State :=
  .next (s.serveHost p.val 15 (fun d => d.length == 40) (fun s h d =>
    if !bit (s.hostX h).perm 0 then s.reply (.host h) 4 d 0x02
    else if s.flag F.LDG_STAT_KEYSET then s.reply (.host h) 4 d 0x08
    else
      let s := (List.range 8).foldl (fun s i => s.rset R.LDG_KEY (leAt d (8 + 4 * i) 4) i) s
      s.programKey.reply (.host h) 4 d 0))

/-! ### Image transfer (R490 to R492) -/

/-- Serve an image operation: outside enrolment status 0x08. The source is the address of the sender. -/
def State.serveImg (s : State) (p op : Nat) (ok : List Byte → Bool) (f : State → List Byte → List Byte → Nat × List Byte × State) : State :=
  s.serve p op (fun s w d =>
    match w with
    | .host _ => s.reply w 4 d 0x08
    | .enrol _ a =>
      if leAt d 1 3 != 0 || decide (d.length < 8) || !ok d then s.reply w 4 d 0x06
      else
        let x := f s (a.take 16) d
        x.2.2.reply w 4 d x.1 x.2.1)

/-- IMGBEGIN. -/
def execImgbegin (p : Fin 4) (s : State) : Out State :=
  .next (s.serveImg p.val 16 (fun d => d.length == 12) (fun s a d => let x := s.imgBegin a (leAt d 8 4); (x.1, [], x.2)))

/-- IMGDATA. -/
def execImgdata (p : Fin 4) (s : State) : Out State :=
  .next (s.serveImg p.val 17 (fun d => decide (16 ≤ d.length) && leAt d 12 4 == 0)
    (fun s a d => let x := s.imgData a (leAt d 8 4) (d.drop 16); (x.1, [], x.2)))

/-- IMGEND: the check, both slots programmed (`flashOk` says whether they verify), and a restart due at once (R492, R76). -/
def execImgend (p : Fin 4) (flashOk : Bool) (s : State) : Out State :=
  .next (s.serveImg p.val 18 (fun d => d.length == 8) (fun s a _ =>
    let x := s.imgEnd a flashOk
    (x.1, if x.1 = 0 ∨ x.1 = 0x09 then [BitVec.ofNat 8 x.2.1] else [], x.2.2)))

end Sys2Proof.Machine
end

