-- ==== Sys2Proof/Machine/HostNet.lean ====
section
/-! DEFINITION. The host block beside LRP (spec/17): job rings and their service, fences, ring registers, time synchronisation,
scheduled egress, the SPI target and the port links. -/

namespace Sys2Proof.Machine

/-! ### Job rings (R479, R480) -/

/-- Whether the ring agent can serve the head entry of job ring `q`: it holds one, no status record of it waits, and it has not stopped
there. -/
def State.servable (s : State) (q : Nat) : Bool :=
  s.flag F.HOST_JR_CFG_EN q && s.jobCount q != 0 && !s.hosts.jobWait.any (fun x => x.1 == q) &&
  !s.hosts.jobStop.contains (q, s.fget F.HOST_JR_TAIL_INDEX q + 1)

/-- The urgent host rings. -/
def urgentRings : List Nat := [9, 11, 13, 15]

/-- The class a host ring's STARTs must have (Table 17-6); none for an internal ring. -/
def ringClass (q : Nat) : Option Nat := if q < 8 then none else if q % 2 = 0 then some 3 else some 2

/-- The ring agent's unit code for ring `q`: that of its host; 0x30 for the internal rings. -/
def agentUnit (q : Nat) : Nat := if q < 8 then 0x30 else 0x30 + (q - 8) / 2

/-- The result of a job ring's START, submitted in the ring's owner context (R480). -/
def State.jobStart (s : State) (q : Nat) (b : List Byte) : Nat × State :=
  let c := ringOwner q
  if !s.ctxEnabled c then (2, s.violate c (agentUnit q) 0xD 0)
  else if (ringClass q).any (fun k => k != leAt b 13 1) then (2, s.violate c (agentUnit q) 0xB 0)
  else s.submitStart c (agentUnit q) 0 b

/-- JOB_ENTRY_SERVE: the agent serves the head entry of job ring `q`, urgent host rings ahead of all others (R480). -/
def execJobEntryServe (q : Fin 16) (s : State) : Out State :=
  .next (
    let q := q.val
    if !s.domOn 2 || !s.servable q || (!urgentRings.contains q && urgentRings.any s.servable) then s
    else
      let tail := s.fget F.HOST_JR_TAIL_INDEX q
      let e := s.load (s.jobSlot q tail) 64
      if leAt e 0 1 = 1 then
        let x := s.jobStart q ((e.drop 16).take 32)
        let s := x.2.fset F.HOST_JR_TAIL_INDEX ((tail + 1) % s.jobSize q) q
        if x.1 = 0 then s else s.jobRecord q (jobStatus e x.1 s.now)
      else
        let s := s.setHosts { s.hosts with jobStop := s.hosts.jobStop.filter (fun x => x.1 != q) ++ [(q, tail + 1)] }
        s.rset R.HOST_JOBIRQ (s.rget R.HOST_JOBIRQ ||| 2 ^ q))

/-- JOB_STATUS_RECORD: the oldest status record of ring `q` that waits is committed, if it finds space. -/
def execJobStatusRecord (q : Fin 16) (s : State) : Out State :=
  .next (
    match s.hosts.jobWait.find? (fun x => x.1 == q.val) with
    | none => s
    | some x =>
      if !s.domOn 2 then s
      else match s.tryCommit q.val x.2 with
        | (.full, s) => s
        | (_, s) => s.setHosts { s.hosts with jobWait := s.hosts.jobWait.erase x })

/-- JOB_TAIL_WRITE: a write of HOST_JRq_TAIL by home: the agent continues from the new tail (R480). -/
def State.writeJobTail (s : State) (q : Nat) (v : Word) : State :=
  let s := s.fset F.HOST_JR_TAIL_INDEX (getField v 0 12) q
  s.setHosts { s.hosts with jobStop := s.hosts.jobStop.filter (fun x => x.1 != q || x.2 == getField v 0 12 + 1) }

def execJobTailWrite (r : Req) (q : Fin 16) (v : Word) (s : State) : Out State :=
  .next (s.asHome r (R.HOST_JR_TAIL.at q.val) (fun s => s.writeJobTail q.val v))

/-! ### Ring registers (Table 17-18) -/

/-- A write of a job ring's CFG: enabling sets HEAD, TAIL and SEQ to 0. -/
def State.writeJobCfg (s : State) (q : Nat) (v : Word) : State :=
  let was := s.flag F.HOST_JR_CFG_EN q
  let s := s.rset R.HOST_JR_CFG (v.toNat &&& 0xC0000FFF) q
  if bit v.toNat 31 ∧ was = false then
    let s := (s.fset F.HOST_JR_HEAD_INDEX 0 q).fset F.HOST_JR_TAIL_INDEX 0 q
    s.setHosts { s.hosts with jobSeq := s.hosts.jobSeq.filter (fun x => x.1 != q), jobStop := s.hosts.jobStop.filter (fun x => x.1 != q) }
  else s

/-- A write of a result ring's CFG: enabling sets HEAD, cursors and SEQ to 0 and starts the grid of automatic fences; a firmware cursor
that begins to count stands where TAIL says (R481). -/
def State.writeRingCfg (s : State) (q : Nat) (v : Word) : State :=
  let was := s.flag F.HOST_RR_CFG_EN q
  let read := s.flag F.HOST_RR_CFG_FWREAD q
  let s := s.rset R.HOST_RR_CFG (v.toNat &&& 0xC0000FFF) q
  if bit v.toNat 31 ∧ was = false then
    let x := s.ringX q
    let s := (s.fset F.HOST_RR_HEAD_INDEX 0 q).fset F.HOST_RR_TAIL_INDEX 0 q
    (s.rset R.HOST_RR_SEQ 0 q).setRingX q
      { x with fwDist := 0, autoBase := s.now, cursors := x.cursors.map (fun (c : Cursor) => { c with index := 0, dist := 0 }) }
  else if bit v.toNat 30 ∧ read = false then
    let d := (s.fget F.HOST_RR_HEAD_INDEX q + s.ringSize q - s.fget F.HOST_RR_TAIL_INDEX q) % s.ringSize q
    s.setRingX q { s.ringX q with fwDist := d }
  else s

/-- RING_ENABLE: a write of HOST_JRq_CFG or HOST_RRq_CFG with EN = 1 by home. -/
def execRingEnable (r : Req) (job : Bool) (q : Fin 16) (v : Word) (s : State) : Out State :=
  .next (
    if job then s.asHome r (R.HOST_JR_CFG.at q.val) (fun s => s.writeJobCfg q.val (setField v 31 1 1))
    else s.asHome r (R.HOST_RR_CFG.at q.val) (fun s => s.writeRingCfg q.val (setField v 31 1 1)))

/-- A write of a result ring's TAIL: the firmware cursor advances, at most to HEAD. -/
def State.writeRingTail (s : State) (q : Nat) (v : Word) : State :=
  let x := s.ringX q
  let adv := (getField v 0 12 + s.ringSize q - s.fget F.HOST_RR_TAIL_INDEX q) % s.ringSize q
  (s.fset F.HOST_RR_TAIL_INDEX (getField v 0 12) q).setRingX q { x with fwDist := x.fwDist - min adv x.fwDist }

/-- A write of FAUTO starts the grid of automatic fences anew (R481). -/
def State.writeRingAuto (s : State) (q : Nat) (v : Word) : State :=
  (s.rset R.HOST_RR_FAUTO v.toNat q).setRingX q { s.ringX q with autoBase := s.now }

/-! ### Fences (R35 to R37, R481) -/

/-- FENCE_REQUEST: a write of HOST_RRq_FENCE with REQ = 1 by home. -/
def execFenceRequest (r : Req) (q : Fin 16) (v : Word) (s : State) : Out State :=
  .next (s.asHome r (R.HOST_RR_FENCE.at q.val) (fun s =>
    if bit v.toNat 0 then s.askFence q.val false (s.rget R.HOST_RR_FTAG q.val) else s))

/-- AUTO_FENCE_DUE: the ring's automatic interval has passed (R481). -/
def execAutoFenceDue (q : Fin 16) (s : State) : Out State :=
  .next (
    let us := s.rget R.HOST_RR_FAUTO q.val * 1000
    if us = 0 ∨ s.now ≤ (s.ringX q.val).autoBase ∨ (s.now - (s.ringX q.val).autoBase) % us ≠ 0 then s else s.askFence q.val true 0)

/-- The origins a producer may still commit (R35): frames in flight, report cards, ledger records and the tick to come, completions, job
status records. -/
def State.horizons (s : State) : List Nat :=
  let frames := (List.range 16).flatMap (fun n => (s.acqStream n).flight.map (·.close))
  let cards := (s.events.cards ++ s.events.waitingSafety ++ s.events.draining.toList).map (fun c => leAt c.bytes 8 8)
  let recs := s.ledger.recs.map (fun r => leAt r.bytes 8 8)
  let tick := if s.ledgerOn then [s.ledger.lastTick + 1000000] else []
  let compl := (List.range 22).flatMap (fun n => (s.stream n).compl.map (fun c => leAt c.bytes 8 8))
  frames ++ cards ++ recs ++ tick ++ compl ++ s.hosts.jobWait.map (fun x => leAt x.2 8 8)

/-- A fence record (Table 01-18). -/
def fenceRecord (auto : Bool) (f commit tag : Nat) : List Byte :=
  [0xF0, BitVec.ofNat 8 (b2n auto), 1, 0, 0, 0, 0, 0] ++ leBytes 8 f ++ leBytes 8 commit ++ leBytes 4 tag ++ List.replicate 36 0

/-- FENCE_COMMIT: the oldest fence of ring `q` is committed if the least horizon has reached the last F and there is space. The pipeline
delay of the producers that hold no record is a free value (R35, R36). -/
def execFenceCommit (q : Fin 16) (s : State) : Out State :=
  .next (
    let x := s.ringX q.val
    match x.fences with
    | [] => s
    | g :: rest =>
      let d := s.draw
      let s := d.2
      let f := s.horizons.foldl min (s.now - d.1 % (s.now + 1))
      if s.ringEnabled q.val ∧ f < x.lastF then s
      else match s.tryCommit q.val (fenceRecord g.auto f s.now g.tag) with
        | (.done, s) => s.setRingX q.val { s.ringX q.val with fences := rest, lastF := f }
        | (.dropped, s) => s.setRingX q.val { s.ringX q.val with fences := rest }
        | (.full, s) => if g.auto then s.setRingX q.val { s.ringX q.val with fences := rest } else s)

/-! ### Time synchronisation (R468) -/

/-- The MAC that HOST_TSYNC.SRC selects. -/
def State.syncSrc (s : State) : Option Nat :=
  match s.fget F.HOST_TSYNC_SRC with
  | 1 => some 0
  | 2 => some 1
  | _ => none

/-- SYNCED follows the selected port. -/
def State.showSynced (s : State) : State :=
  s.setFlag F.HOST_TSYNC_SYNCED (match s.syncSrc with
    | some p => Sparse.get (fun _ => 0) s.hosts.synced p != 0
    | none => false)

def State.setSynced (s : State) (p t : Nat) : State :=
  (s.setHosts { s.hosts with synced := Sparse.put (fun _ => 0) s.hosts.synced p t }).showSynced

/-- GPTP_FRAME: a gPTP frame of a domain on MAC `p`: 0 a Sync that carries the grandmaster's wall time at this cycle and its rate, with
`capable` the port's asCapable; 1 a Pdelay_Req, answered on queue 7; 2 another. -/
def execGptpFrame (p : Fin 2) (kind : Fin 3) (domain : Byte) (capable : Bool) (master : DWord) (ppb : Word) (s : State) : Out State :=
  .next (
    if !s.portOn p.val || !s.domOn 6 then s
    else if kind.val = 1 then s.send (0x80 + p.val) 7 (leBytes 8 s.now)
    else if kind.val ≠ 0 ∨ domain.toNat ≠ s.fget F.HOST_TSYNC_DOMAIN ∨ capable = false then s
    else
      let s := s.setSynced p.val (s.now + 1)
      if s.syncSrc = some p.val then
        (s.moveWall ((master.toNat + 2 ^ 64 - s.now) % 2 ^ 64) (p.val + 2)).rset R.HOST_TSRATE ppb.toNat
      else s)

/-- GPTP_SYNC_LOSS: MAC `p` is no longer synchronised. -/
def execGptpSyncLoss (p : Fin 2) (s : State) : Out State := .next (s.setSynced p.val 0)

/-! ### Scheduled egress (R469) -/

/-- The applied gate list of MAC `p`: cycle, base, entries; empty while EN is 0. -/
def State.gateList (s : State) (p : Nat) : List Nat :=
  if s.flag F.HOST_QBV_CFG_EN p then
    [s.rget R.HOST_QBV_CYCLE p, s.rget R.HOST_QBV_BASE_LO p + 2 ^ 32 * s.rget R.HOST_QBV_BASE_HI p] ++
      (List.range (min 64 (s.fget F.HOST_QBV_CFG_LEN p))).map (fun e => s.rget R.HOST_GCL p e)
  else []

/-- Whether a list's cycle starts at a wall time. -/
def cycleStart (l : List Nat) (t : Nat) : Bool := decide (l.getD 1 0 ≤ t) && (t - l.getD 1 0) % (max 1 (l.getD 0 0)) == 0

/-- The entry in force at an offset into the cycle. -/
def gateAt (es : List Nat) (o k : Nat) : Nat :=
  match es with
  | [] => k - 1
  | e :: t => if o < bits e 0 24 * 16 then k else gateAt t (o - bits e 0 24 * 16) (k + 1)

/-- QBV_GATE_ENTRY: MAC `p` reaches the next entry of its list; an applied list takes over at its first cycle start (R469). -/
def execQbvGateEntry (p : Fin 2) (s : State) : Out State :=
  .next (
    let p := p.val
    let t := s.wallTime
    if !s.wallValid then (s.setFlag F.HOST_QBV_STAT_ACTIVE false p).fset F.HOST_QBV_STAT_ENTRY 0 p
    else
      let new := s.gateList p
      let cur := Sparse.get (fun _ => []) s.hosts.gates p
      let l := if cycleStart (if new = [] then cur else new) t ∨ cur = [] ∧ new = [] then new else cur
      let s := s.setHosts { s.hosts with gates := Sparse.put (fun _ => []) s.hosts.gates p l }
      let on := l != [] && decide (l.getD 1 0 ≤ t)
      let s := s.setFlag F.HOST_QBV_STAT_ACTIVE on p
      s.fset F.HOST_QBV_STAT_ENTRY (if on then gateAt (l.drop 2) ((t - l.getD 1 0) % (max 1 (l.getD 0 0))) 0 else 0) p)

/-! ### The SPI target (R470) -/

/-- Whether the SPI target is enabled and powered. -/
def State.spiOn (s : State) : Bool := leAt s.hosts.conf 192 1 == 1 && s.domOn 2 && s.tap.ir != 0

/-- SPIT_STATUS: a byte (reply pending, able to accept), then the length of the pending reply. -/
def execSpitStatus (s : State) : Out State :=
  .next (
    if !s.spiOn then s
    else
      let x := s.hosts.spiReply
      s.respond false ([BitVec.ofNat 8 (b2n (x != []) + 2 * b2n (decide (s.hosts.spiRx.length < 4)))] ++ leBytes 2 (x.headD []).length))

/-- SPIT_WRITE: a packet from the host; the target buffers four. -/
def execSpitWrite (body : List Byte) (s : State) : Out State :=
  .next (
    if !s.spiOn ∨ 1440 < body.length ∨ 4 ≤ s.hosts.spiRx.length then s
    else s.setHosts { s.hosts with spiRx := s.hosts.spiRx ++ [body] })

/-- SPIT_READ: the pending reply, which is then no longer pending. -/
def execSpitRead (s : State) : Out State :=
  .next (
    if !s.spiOn then s
    else (s.respond false (s.hosts.spiReply.headD [])).setHosts { s.hosts with spiReply := s.hosts.spiReply.drop 1 })

/-! ### Links -/

/-- HOST_PORT_LINK_CHANGE: the link of port `p` comes up or goes down (Table 17-20). -/
def execHostPortLinkChange (p : Fin 3) (up : Bool) (s : State) : Out State :=
  .next (
    let l := s.fget F.HOST_STAT_LINK
    if bit l p.val = up || (up && ((decide (p.val < 2) && !s.domOn 6) || !s.domOn 2)) then s
    else
      let s := s.fset F.HOST_STAT_LINK (if up then l + 2 ^ p.val else l - 2 ^ p.val)
      s.hostCard (if up then 6 else 7) [] 8 p.val)

end Sys2Proof.Machine
end

