-- ==== Sys2Proof/Machine/Chn.lean ====
section
/-! DEFINITION. The Shunto link above the segment (spec/18, R505 to R523): roll call, inbound segments, completions, forwarded records,
messages, chain time, and images from a neighbour. -/

namespace Sys2Proof.Machine

def State.setChn (s : State) (x : Chn) : State := { s with chn := x }

/-- The first segment of TTYPE `t` that port `p` keeps. -/
def State.firstSeg (s : State) (p : Nat) (ok : Seg → Bool) : Option Seg := (s.port p).segs.find? ok

/-! ### Roll call (R506 to R509) -/

/-- A claim: ROOTPRIO, unit identity, address plus 1. Its place in a segment is the model's own: bytes 32 to 42. -/
def claimBytes (c : Nat × Nat × Nat) : List Byte := BitVec.ofNat 8 c.1 :: leBytes 8 c.2.1 ++ leBytes 2 c.2.2
def parseClaim (g : Seg) : Nat × Nat × Nat := (leAt g.own 0 1, leAt g.own 1 8, leAt g.own 9 2)

/-- This device's claim. -/
def State.ownClaim (s : State) : Nat × Nat × Nat :=
  (s.fget F.CHN_CTL_ROOTPRIO, s.boot.unitId, if s.flag F.CHN_STAT_ADDRVALID then s.chainAddr + 1 else 0)

/-- Flood a claim out of every port that is UP, but for `not`. -/
def State.flood (s : State) (c : Nat × Nat × Nat) (not : Nat) : State :=
  let g := s.seg 0 { dest := 0xFFF, ttype := 5, own := claimBytes c } []
  ((List.range 3).filter (fun p => p != not && s.portUp p)).foldl (fun s p => s.enqueue p g) s

/-- Roll call begins here: the device floods its claim (Table 18-4, step 1). -/
def State.startRoll (s : State) : State :=
  let c := s.ownClaim
  ((s.setFlag F.CHN_STAT_ROLL true).setChn { s.chn with claims := [c] }).flood c 3

/-- ROLL_CALL_START: a port is UP for the first time since restart, the root is unreachable, or two roots meet (R506). -/
def execRollCallStart (s : State) : Out State := .next (if s.domOn 6 then s.startRoll else s)

/-- The best claim: the lowest ROOTPRIO, then the lowest unit identity; 255 never wins. -/
def bestClaim (l : List (Nat × Nat × Nat)) : Option (Nat × Nat × Nat) :=
  (l.filter (fun c => c.1 != 255)).foldl (fun b c => match b with
    | none => some c
    | some x => if c.1 < x.1 ∨ (c.1 = x.1 ∧ c.2.1 < x.2.1) then some c else some x) none

/-- ROLL_CALL_ROOT_DECIDED: 2 ms after the last improvement the best claim wins (R506). -/
def execRollCallRootDecided (s : State) : Out State :=
  .next (
    if !s.flag F.CHN_STAT_ROLL then s
    else s.setFlag F.CHN_STAT_ROOT ((bestClaim s.chn.claims).any (fun c => c.2.1 == s.boot.unitId)))

/-- The addresses the root assigns, as unit and address (R507). `held` are the addresses of devices that are unreachable. -/
def assignAddrs (held : List Nat) (devs : List ChainDev) : List (Nat × Nat) :=
  let keeps (d : ChainDev) (a : Fin 4095) : Bool := !devs.any (fun e => e.cur == some a && e.unit.toNat < d.unit.toNat)
  let one := devs.filterMap (fun d => d.cur.bind (fun a => if keeps d a then some (d.unit.toNat, a.val) else none))
  let free (l : List (Nat × Nat)) (a : Nat) : Bool := !held.contains a && !l.any (fun x => x.2 == a)
  let has (l : List (Nat × Nat)) (d : ChainDev) : Bool := l.any (fun x => x.1 == d.unit.toNat)
  let two := devs.foldl (fun l d =>
    if !has l d && d.fix.val != 0 && free l d.fix.val then l ++ [(d.unit.toNat, d.fix.val)] else l) one
  devs.foldl (fun l d =>
    if has l d then l
    else match (List.range 4095).find? (fun a => free l a) with
      | some a => l ++ [(d.unit.toNat, a)]
      | none => l) two

def addrOf (l : List (Nat × Nat)) (u : Nat) : Option Nat := (l.find? (fun x => x.1 == u)).map (·.2)

/-- The topology (R507): `links` STANDBY links. -/
def topology (devs : List ChainDev) (links : Nat) : Nat :=
  if devs.length ≤ 1 then 0
  else if links = 1 ∧ devs.all (·.onRing) = true then 2
  else if links ≤ 1 ∧ devs.all (fun d => d.ups.val ≤ 2) = true then 1
  else 3

def portCode (p : Option (Fin 3)) : Nat := match p with | some k => k.val | none => 3

/-- Write the route table (R508). -/
def State.writeRoutes (s : State) (devs : List ChainDev) (l : List (Nat × Nat)) (ring : Bool) : State :=
  let s := s.routes.foldl (fun s a => s.rset R.CHN_RT 0xF a) s
  devs.foldl (fun s d =>
    match addrOf l d.unit.toNat with
    | none => s
    | some a =>
      if d.unit.toNat = s.boot.unitId then s
      else
        let s := (s.fset F.CHN_RT_PRIMARY (portCode d.primary) a).fset F.CHN_RT_ALT (if ring then portCode d.alt else 3) a
        match d.primary with
        | some p => if d.hops = 1 then s.fset F.CHN_P_STAT_PARTNER a p.val else s
        | none => s) s

/-- An entry of the directory (R508). -/
def dirEntry (d : ChainDev) : List Byte :=
  leBytes 8 d.unit.toNat ++ leBytes 2 d.part.toNat ++ [d.group, BitVec.ofNat 8 (min 255 d.hops.toNat), 1, 0, 0, 0]

/-- Write the directory into WBM, one entry for each address up to the highest assigned. -/
def State.writeDirectory (s : State) (devs : List ChainDev) (l : List (Nat × Nat)) : State :=
  if !s.flag F.CHN_DIRBASE_EN then s
  else
    let base := s.fget F.CHN_DIRBASE_PPN * 4096
    let top := l.foldl (fun m x => max m x.2) 0
    (List.range (top + 1)).foldl (fun s a =>
      if s.loc (base + 16 * a) ≠ .wbm then s
      else s.store (base + 16 * a) (match devs.find? (fun d => addrOf l d.unit.toNat == some a) with
        | some d => dirEntry d
        | none => List.replicate 16 0)) s

/-- The ring-closing links go to STANDBY; the others of this device are UP. -/
def State.setStandby (s : State) (m : Nat) : State :=
  (List.range 3).foldl (fun s p =>
    let st := s.fget F.CHN_P_STAT_STATE p
    if bit m p ∧ (st = 2 ∨ st = 3) then s.fset F.CHN_P_STAT_STATE 5 p
    else if bit m p = false ∧ st = 5 then s.fset F.CHN_P_STAT_STATE 2 p else s) s

/-- ROLL_CALL_DIRECTORY: the root's walk has found `devs`, in its order and the root first, with `links` links in STANDBY; `standby` are
this device's. Addresses are assigned, routes and directory written (R507, R508). -/
def execRollCallDirectory (devs : List ChainDev) (links : Fin 64) (standby : Fin 8) (s : State) : Out State :=
  .next (
    if !s.flag F.CHN_STAT_ROLL then s
    else
      let held := (s.chn.record.filter (fun r => !devs.any (fun d => d.unit.toNat == r.2))).map (·.1)
      let l := assignAddrs held devs
      let topo := topology devs links.val
      let old := if s.flag F.CHN_STAT_ADDRVALID then s.chainAddr else 0xFFFF
      let s := s.writeRoutes devs l (topo == 2)
      let s := (s.setStandby standby.val).fset F.CHN_STAT_TOPO topo
      let s := match devs.head?.bind (fun d => addrOf l d.unit.toNat) with
        | some a => s.fset F.CHN_STAT_ROOTADDR a
        | none => s
      let s := s.writeDirectory devs l
      let s := s.setChn { s.chn with record := s.chn.record.filter (fun r => held.contains r.1) ++ l.map (fun x => (x.2, x.1)), claims := [] }
      let s := s.setFlag F.CHN_STAT_ROLL false
      match addrOf l s.boot.unitId with
      | none => s
      | some a =>
        let s := (s.fset F.CHN_STAT_ADDR a).setFlag F.CHN_STAT_ADDRVALID true
        if a = old then s else s.card { block := 0x12, event := 5, ukind := 9, detail := leBytes 2 old ++ leBytes 2 a })

/-- UNREACHABLE_ADDRESS_EXPIRY: the root's record gives up the address of a device unreachable for 10 s (R509). -/
def execUnreachableAddressExpiry (a : Fin 4095) (s : State) : Out State :=
  .next (if s.flag F.CHN_STAT_ROOT && (s.route a.val).isNone && a.val != s.chainAddr then
    s.setChn { s.chn with record := s.chn.record.filter (fun r => r.1 != a.val) } else s)

/-! ### Block records and inbound writes (R513 to R518) -/

/-- The physical address of an offset of the remote window (Table 18-5). -/
def remotePhys (o : Nat) : Option Nat :=
  if o < 0x2000000 then some (0x0100000000 + o)
  else if o < 0x2800000 then some (0x0140000000 + (o - 0x2000000))
  else if o < 0x3000000 then some (0x01C0000000 + (o - 0x2800000))
  else if o < 0x4000000 then some (0x0180000000 + (o - 0x3000000))
  else if o < 0x6000000 then some (0x0800000000 + (o - 0x4000000) / 0x800000 * 0x1000000 + (o - 0x4000000) % 0x800000)
  else none

/-- A block record taken apart: its check tag, whether it is zero-compressed, its bytes. -/
structure BlockRec where
  tag : Nat
  zc : Bool
  bytes : List Byte
deriving DecidableEq, Repr

/-- The block records in data flits (R514). -/
def blockRecords : Nat → List (List Byte) → List BlockRec
  | 0, _ => []
  | _ + 1, [] => []
  | fuel + 1, f :: t =>
    let l := bits (leAt f 0 2) 0 9
    let n := ceilDiv (8 + l) 56
    ⟨leAt f 4 4, bit (leAt f 0 2) 9, (((f :: t).take n).flatten.drop 8).take l⟩ :: blockRecords fuel ((f :: t).drop n)

/-- The expanded bytes of a record. The record does not carry the element width: the width whose expansion has the record's tag is
taken. -/
def BlockRec.expand (r : BlockRec) : List Byte :=
  if !r.zc then r.bytes
  else
    let c := [1, 2, 4].map (fun e => zcDecode e r.bytes)
    (c.find? (fun b => (crc32c b) == r.tag)).getD (c.headD [])

/-- Write one block; the Bool says that its tag was good, or not checked (R518, R111, R112). -/
def State.putBlock (s : State) (a : Nat) (r : BlockRec) (notag : Bool) : Bool × State :=
  let b := r.expand
  let diff := BitVec.ofNat 32 (crc32c b) ^^^ BitVec.ofNat 32 r.tag
  if !notag && diff != 0 then (false, s.count R.MEM_TAGERR)
  else if b.length = 256 ∧ a % 256 = 0 then (true, { s with mem := s.mem.writeBlock (a / 256) b diff })
  else (true, s.store a b)

/-- Write the blocks of a segment at the addresses `at'` gives for their offsets in it; the Bool says that every tag was good. -/
def State.putBlocks (s : State) (at' : Nat → Nat) (notag : Bool) : List BlockRec → Nat → Bool × State
  | [], _ => (true, s)
  | r :: t, k =>
    let x := s.putBlock (at' (256 * k)) r notag
    let y := x.2.putBlocks at' notag t (k + 1)
    (x.1 && y.1, y.2)

def Seg.records (g : Seg) : List BlockRec := (blockRecords (g.data.length + 1) g.data).take (ceilDiv g.len 256)

/-- The completion of a segment goes to its sender (R517). -/
def State.completeSeg (s : State) (g : Seg) (status : Nat) : State :=
  (s.sendSeg (s.seg 0 { dest := g.src, ttype := 4, ofs := g.ofs, xfer := g.xfer, own := [BitVec.ofNat 8 status] } [])).2

/-- A segment that is refused: counted, a violation of context `c`, completed as dropped (R515, R516). -/
def State.refuseSeg (s : State) (p : Nat) (g : Seg) (c kind : Nat) : State :=
  (((s.takeSeg p g).count R.CHN_INDROP).violate c (0x50 + p) kind (match remotePhys (if g.ttype = 2 then g.target else g.ofs) with
    | some a => a
    | none => 0)).completeSeg g 1

/-- The enabled inbound window that holds a physical range. -/
def State.inWindow (s : State) (a n : Nat) : Option Nat :=
  (List.range 16).find? (fun w => s.flag F.CHN_IW_CFG_EN w &&
    inside a n (s.fget F.CHN_IW_BASE_PPN w * 4096) (s.fget F.CHN_IW_SIZE_PAGES w * 4096))

/-- Why context `c` may not take a segment of a class: the violation's kind, 0 for none. -/
def State.inboundKind (s : State) (c cls : Nat) : Nat := if !s.ctxEnabled c then 0xD else if s.classOk c cls then 0 else 0xB

/-- A segment of TTYPE 1: a write through an inbound window (R515). -/
def State.inboundWrite (s : State) (p : Nat) (g : Seg) : State :=
  match remotePhys g.ofs with
  | none => s.refuseSeg p g 0 0x4
  | some a =>
    if g.len = 0 ∨ 4096 < g.len ∨ remotePhys (g.ofs + g.len - 1) ≠ some (a + g.len - 1) ∨ s.loc a = .hole ∨ s.loc (a + g.len - 1) ≠ s.loc a then
      s.refuseSeg p g 0 0x4
    else match s.inWindow a g.len with
      | none => s.refuseSeg p g 0 0x4
      | some w =>
        let c := s.fget F.CHN_IW_CFG_CTX w
        let k := s.inboundKind c g.cls
        if k ≠ 0 then s.refuseSeg p g c k
        else
          let x := (s.takeSeg p g).putBlocks (fun o => a + o) (bit g.flags 1) g.records 0
          x.2.completeSeg g (if x.1 then 0 else 2)

/-- The enabled, valid region whose BASE is the target and whose bit ARRMASK has. -/
def State.arrivalRegion (s : State) (g : Seg) : Option Nat :=
  match remotePhys g.target with
  | none => none
  | some a => (List.range 64).find? (fun n => s.crOpen n && s.crBase n == a)

def State.arrMask (s : State) (n : Nat) : Bool :=
  if n < 32 then bit (s.rget R.CHN_ARRMASK_LO) n else bit (s.rget R.CHN_ARRMASK_HI) (n - 32)

/-- The arrival a segment belongs to. -/
def State.rxOf (s : State) (g : Seg) : Option RxArrival := s.chn.arrivals.find? (fun x => x.src == g.src && x.xfer == g.xfer)

/-- Write a segment of an arrival that has started; the arrival completes when all of its bytes are there (R516, R101). -/
def State.arrivalWrite (s : State) (p : Nat) (g : Seg) (x : RxArrival) : State :=
  let w := (s.takeSeg p g).putBlocks (fun o => s.crAddr x.region x.start (g.ofs + o)) (bit g.flags 1) g.records 0
  let s := w.2.completeSeg g (if w.1 then 0 else 2)
  if !w.1 then s
  else
    let x' := { x with got := if x.got.contains (g.ofs, g.len) then x.got else x.got ++ [(g.ofs, g.len)] }
    if x.tlen ≤ (x'.got.map (·.2)).sum then
      (s.setChn { s.chn with arrivals := s.chn.arrivals.filter (fun y => y != x) }).finishArrival x.region (x.tag % 256) (x.tag / 256) false
    else s.setChn { s.chn with arrivals := s.chn.arrivals.map (fun y => if y = x then x' else y) }

/-- A segment of TTYPE 2: it may open its arrival, or wait in the buffer while the arrival does not fit (R516). -/
def State.inboundArrival (s : State) (p : Nat) (g : Seg) : State :=
  match s.rxOf g with
  | some x => s.arrivalWrite p g x
  | none =>
    match s.arrivalRegion g with
    | none => s.refuseSeg p g 0 0x4
    | some n =>
      let c := s.fget F.MEM_CR_CFG_CTX n
      let k := s.inboundKind c g.cls
      if !s.arrMask n ∨ g.tlen < g.ofs + g.len ∨ s.crSize n < g.tlen then s.refuseSeg p g c 0x4
      else if k ≠ 0 then s.refuseSeg p g c k
      else
        let tag := g.src * 2 ^ 32 + g.xfer
        let start := (s.region n).res
        match s.startArrival n c (0x50 + p) tag g.tlen with
        | (.waits, s) => s
        | (.dropped, s) => ((s.takeSeg p g).count R.CHN_INDROP).completeSeg g 1
        | (.started, s) =>
          let x : RxArrival := ⟨g.src, g.xfer, n, (0x50 + p) + 256 * tag, start, g.tlen, []⟩
          (s.setChn { s.chn with arrivals := s.chn.arrivals ++ [x] }).arrivalWrite p g x

/-! ### Messages (R521, R523) -/

/-- The bytes a message carries in its data flits. -/
def Seg.message (g : Seg) : List Byte := g.data.flatten.take g.len

/-- A message of this device: KIND in byte 32. -/
def State.msgSeg (s : State) (dest vc kind xfer : Nat) (b : List Byte) : Seg :=
  s.seg vc { dest := dest, ttype := 3, cls := 5, len := b.length, xfer := xfer, own := [BitVec.ofNat 8 kind] }
    ((chunksOf 56 (b.length / 56 + 1) b).map (padTo 56))

/-- The record of a message at its receiver: TYPE 0x61. -/
def messageRecord (g : Seg) (now : Nat) : List Byte :=
  let b := padTo (roundUp g.len 64) g.message
  [0x61, 0] ++ leBytes 2 (1 + b.length / 64) ++ leBytes 4 0 ++ leBytes 8 now ++ padTo 2 (g.own.take 1) ++ leBytes 2 g.src ++ leBytes 4 g.len ++
    List.replicate 40 0 ++ b

/-- An image message in enrolment (R523): handled as IMGBEGIN, IMGDATA and IMGEND; image end is answered with KIND 0x05. -/
def State.imageMessage (s : State) (g : Seg) (flashOk : Bool) : State :=
  let src := leBytes 2 g.src
  let b := g.message
  match leAt g.own 0 1 with
  | 2 => (s.imgBegin src (leAt b 0 4)).2
  | 3 => (s.imgData src (leAt b 0 4) (b.drop 8)).2
  | _ =>
    let x := s.imgEnd src flashOk
    (x.2.2.sendSeg (x.2.2.msgSeg g.src 3 5 0 [BitVec.ofNat 8 x.2.1])).2

/-- A segment of TTYPE 3 on VC0 or VC3: a message for ring 3, or an image message in enrolment. A message that finds ring 3 full waits in
the port's buffer. -/
def State.inboundMessage (s : State) (p : Nat) (g : Seg) (flashOk : Bool) : State :=
  if s.enrolling ∧ g.vc = 3 ∧ 2 ≤ leAt g.own 0 1 ∧ leAt g.own 0 1 ≤ 4 then ((s.takeSeg p g).imageMessage g flashOk).completeSeg g 0
  else match s.tryCommit 3 (messageRecord g s.now) with
    | (.full, s) => s
    | (.dropped, s) => (s.takeSeg p g).completeSeg g 1
    | (.done, s) => (s.takeSeg p g).completeSeg g 0

/-- A claim received: it starts roll call here, and a claim not yet known is flooded on. -/
def State.inboundClaim (s : State) (p : Nat) (g : Seg) : State :=
  let c := parseClaim g
  let s := s.takeSeg p g
  let s := if s.flag F.CHN_STAT_ROLL then s else s.startRoll
  if s.chn.claims.contains c then s else (s.setChn { s.chn with claims := s.chn.claims ++ [c] }).flood c p

/-- SEGMENT_RECEIVE: the first segment of a VC that port `p` keeps: a write, an arrival, a message or a claim (R515, R516, R521, R506);
others have commands of their own. `flashOk` is for an image end: whether both slots verify. -/
def execSegmentReceive (p : Fin 3) (vc : Fin 4) (flashOk : Bool) (s : State) : Out State :=
  .next (
    match s.firstSeg p.val (fun g => g.vc == vc.val) with
    | none => s
    | some g =>
      if !s.domOn 6 then s
      else match g.ttype with
        | 1 => s.inboundWrite p.val g
        | 2 => s.inboundArrival p.val g
        | 3 => if vc.val = 1 then s else s.inboundMessage p.val g flashOk
        | 4 | 6 | 7 => s
        | 5 => s.inboundClaim p.val g
        | _ => ((s.takeSeg p.val g).count R.CHN_INDROP).completeSeg g 1)

/-! ### The sender's side (R517, R521) -/

/-- The COPY of stream `n` and a class completes with error status: its program halts, wherever it stands. -/
def State.failCopy (s : State) (n cls : Nat) : State :=
  let at' (p : Prog) : Nat × Nat := match p.ops.find? (fun o => o.opc == 0x30) with
    | some o => (o.slot, p.handle o 1)
    | none => (15, 0xFFFF)
  match (s.stream n).run with
  | some p => if p.start.cls = cls then s.halt n 0x0C (at' p).1 (at' p).2 0 else s
  | none =>
    match (s.stream n).saved.find? (fun p => p.start.cls == cls) with
    | none => s
    | some p =>
      let s := s.setStream n { s.stream n with saved := (s.stream n).saved.filter (fun q => q != p) }
      s.haltProg n p 0x0C (at' p).1 (at' p).2 0

/-- A segment has failed end to end: with it the whole COPY, or the message (R517). -/
def State.flightFails (s : State) (f : Flight) (status result : Nat) : State :=
  let s := s.setChn { s.chn with flights := s.chn.flights.filter (fun x => x.owner != f.owner) }
  let s := (s.count R.CHN_E2EFAIL).chnCard 8 ((s.route f.seg.dest).getD 0) 0
    (leBytes 2 f.seg.dest ++ [0, 0] ++ leBytes 4 f.xfer ++ [BitVec.ofNat 8 status])
  if f.owner = 0x100 then (s.setFlag F.CHN_MSGSTAT_BUSY false).fset F.CHN_MSGSTAT_RESULT result
  else s.failCopy (f.owner / 8) (f.owner % 8)

/-- SEGMENT_COMPLETION: a completion received on port `p` ends one segment (R517). -/
def execSegmentCompletion (p : Fin 3) (s : State) : Out State :=
  .next (
    match s.firstSeg p.val (fun g => g.ttype == 4) with
    | none => s
    | some g =>
      let s := s.takeSeg p.val g
      match s.chn.flights.find? (fun f => f.xfer == g.xfer && f.ofs == g.ofs) with
      | none => s
      | some f =>
        let st := leAt g.own 0 1
        if st ≠ 0 then s.flightFails f st 4
        else
          let s := s.setChn { s.chn with flights := s.chn.flights.filter (fun x => x != f) }
          if f.owner = 0x100 then (s.setFlag F.CHN_MSGSTAT_BUSY false).fset F.CHN_MSGSTAT_RESULT 1 else s)

/-- E2E_TIMEOUT: no completion of a segment within CHN_E2E.US: it is resent once, and then fails (R517). -/
def execE2eTimeout (xfer ofs : Word) (s : State) : Out State :=
  .next (
    match s.chn.flights.find? (fun f => f.xfer == xfer.toNat && f.ofs == ofs.toNat) with
    | none => s
    | some f =>
      if s.now < f.sentTb + max 1 (s.fget F.CHN_E2E_US) * 1000 then s
      else if f.resent then s.flightFails f 0xFF 3
      else
        let s := (s.sendSeg f.seg).2
        s.setChn { s.chn with flights := s.chn.flights.map (fun x => if x = f then { x with sentTb := s.now, resent := true } else x) })

/-- What a write of `v` to CHN_MSGLEN does (R521). -/
def State.writeMsgLen (s : State) (v : Word) : State :=
  let busy := s.flag F.CHN_MSGSTAT_BUSY
  let s := s.fset F.CHN_MSGLEN_LEN (getField v 0 11)
  if !bit v.toNat 31 ∨ busy = true then s
  else
    let dest := s.fget F.CHN_MSGDST_DEST
    let vc := s.fget F.CHN_MSGDST_VC
    let len := getField v 0 11
    if (vc ≠ 0 ∧ vc ≠ 3) ∨ (dest = 0xFFF ∧ vc = 3) ∨ 1024 < len then s.fset F.CHN_MSGSTAT_RESULT 4
    else
      let a := s.rget R.CHN_MSGSRC_LO + 2 ^ 32 * (s.rget R.CHN_MSGSRC_HI % 256)
      let b := (List.range len).map (fun i => s.physByte (a + i))
      let xfer := s.chn.nextXfer
      let g := s.msgSeg dest vc (s.fget F.CHN_MSGDST_KIND) xfer b
      let x := if s.flag F.CHN_STAT_ADDRVALID then s.sendSeg g else (false, s)
      if !x.1 then s.fset F.CHN_MSGSTAT_RESULT 2
      else
        let s := (x.2.setFlag F.CHN_MSGSTAT_BUSY true).fset F.CHN_MSGSTAT_RESULT 0
        s.setChn { s.chn with nextXfer := (xfer + 1) % 2 ^ 32, flights := s.chn.flights ++ [⟨0x100, xfer, 0, g, s.now, false⟩] }

/-- CHN_MESSAGE_SEND: a write of CHN_MSGLEN with GO = 1 by home. -/
def execChnMessageSend (r : Req) (v : Word) (s : State) : Out State :=
  .next (s.asHome r R.CHN_MSGLEN.at (fun s => s.writeMsgLen (setField v 31 1 1)))

/-- IMAGE_REQUEST_BROADCAST: an enrolling device asks its neighbours for an image (R523). -/
def execImageRequestBroadcast (s : State) : Out State :=
  .next (if s.enrolling && s.flag F.CHN_STAT_ADDRVALID then
    (s.sendSeg (s.msgSeg 0xFFF 0 1 0 (leBytes 8 s.boot.unitId ++ leBytes 4 (s.rget R.SYS_PARTID)))).2 else s)

/-! ### Forwarded records (R520) -/

/-- FORWARD_RECORD_RECEIVE: a forwarded record on port `p` goes to result ring 3 behind its TYPE 0x60 entry. -/
def execForwardRecordReceive (p : Fin 3) (s : State) : Out State :=
  .next (
    match s.firstSeg p.val (fun g => g.ttype == 3 && g.vc == 1) with
    | none => s
    | some g =>
      let r := padTo 64 g.message
      let unit := ((s.chn.record.find? (fun x => x.1 == g.src)).map (·.2)).getD 0
      let e := [0x60, 0, 2, 0, 0, 0, 0, 0] ++ (r.drop 8).take 8 ++ leBytes 2 g.src ++ List.replicate 6 0 ++ leBytes 8 unit ++ List.replicate 32 0
      let s := s.takeSeg p.val g
      match s.tryCommit 3 (e ++ r) with
      | (.done, s) => s.completeSeg g 0
      | (_, s) => (s.count R.LDG_RINGDROP).completeSeg g 1)

/-- FORWARD_DROP_TIMEOUT: the oldest copy that could not leave within 100 ms is dropped. -/
def execForwardDropTimeout (s : State) : Out State :=
  .next (if s.chn.fwd = [] then s else (s.setChn { s.chn with fwd := s.chn.fwd.drop 1 }).count R.CHN_FWDDROP)

/-! ### Time (R522) -/

/-- CHAIN_TIME_BROADCAST: the time master broadcasts its wall time. `lower` says that a device of a lower address is synchronised, `any` that
some other device is. -/
def execChainTimeBroadcast (lower any : Bool) (s : State) : Out State :=
  .next (
    let m := s.flag F.CHN_STAT_ADDRVALID && (if s.flag F.HOST_TSYNC_SYNCED then !lower else s.flag F.CHN_STAT_ROOT && !any)
    let s := s.setFlag F.CHN_STAT_TMASTER m
    if m then (s.sendSeg (s.seg 0 { dest := 0xFFF, ttype := 6, own := leBytes 8 s.wallTime ++ leBytes 8 0 } [])).2 else s)

/-- CHAIN_TIME_RECEIVE: a time segment of port `p`: a device that follows chain time sets its offset; the segment goes on with the link
delay and its residence of `resid` ns added. -/
def execChainTimeReceive (p : Fin 3) (resid : Half) (s : State) : Out State :=
  .next (
    match s.firstSeg p.val (fun g => g.ttype == 6) with
    | none => s
    | some g =>
      let s := s.takeSeg p.val g
      let link := s.fget F.CHN_P_DELAY_NS p.val
      let run := leAt g.own 8 8
      let follow := s.flag F.CHN_CTL_TIMEEN && !s.flag F.HOST_TSYNC_SYNCED
      let s := s.setFlag F.CHN_STAT_TFOLLOW follow
      let s := if follow then
          let ofs := (leAt g.own 0 8 + link + run + 2 ^ 64 - s.now) % 2 ^ 64
          let corr := toSigned 64 (ofs + 2 ^ 64 - s.wallOfs)
          (s.moveWall ofs 4).rset R.CHN_TIMEERR (ofSigned 32 (satSigned 32 corr))
        else s
      if g.hops ≤ 1 then s
      else
        let f := { g with body := g.body.take 6 ++ leBytes 2 (g.hops - 1) ++ (g.body.drop 8).take 32 ++ leBytes 8 (run + link + resid.toNat) ++ g.body.drop 48 }
        ((List.range 3).filter (fun q => q != p.val && s.portUp q)).foldl (fun s q => s.enqueue q f) s)

/-- LINK_DELAY_MEASURE: port `p` has measured its link delay. -/
def execLinkDelayMeasure (p : Fin 3) (ns : Half) (s : State) : Out State :=
  .next (if s.portUp p.val then s.fset F.CHN_P_DELAY_NS ns.toNat p.val else s)

end Sys2Proof.Machine
end

