-- ==== Sys2Proof/Machine/Fault.lean ====
section
/-! DEFINITION. The service of faults (R141, R142): resume, abort, the automatic abort, and the disabling of a context. -/

namespace Sys2Proof.Machine

/-- The suspended instruction that entry `i` of context `c`'s fault queue holds; none for a free entry (TYPE 0x00). -/
def State.suspAt (s : State) (c i : Nat) : Option Susp :=
  let free := match s.faultQueue c with
    | some b => s.mem.byte (b + 64 * i) == 0
    | none => false
  if free then none else s.mmu.susps.find? (fun x => x.ctx == c && x.index == i)

/-- The program that a suspended instruction of a stream belongs to. -/
def Stream.suspended (x : Stream) (y : Susp) : Option Prog := x.saved.find? (fun p => p.susp && p.start.cls == y.cls && p.start.ctx == y.ctx)

/-- The storage entry that is suspended. -/
def Storage.suspended (t : Storage) : Option StoEntry := t.active.find? (·.susp)

/-- The request that a suspended SNAPSHOT answers. -/
def snapReq (x : Nat × Nat × Nat) : List Byte := [9, 0, 0, 0] ++ leBytes 4 x.1 ++ leBytes 8 x.2.1 ++ leBytes 4 x.2.2

/-- ACTION = resume: the record is freed, and the instruction may continue; its unit translates from step STEP again (R141). -/
def State.resume (s : State) (x : Susp) : State :=
  let s := s.freeSusp x
  if x.unit < 22 then
    let t := s.stream x.unit
    s.setStream x.unit { t with saved := t.saved.map (fun p => if t.suspended x = some p then { p with susp := false } else p) }
  else if x.unit = 0x20 then
    match s.sto.suspended with
    | some e => (s.setSto (s.sto.setEntry { e with susp := false })).stoKick
    | none => s
  else if x.unit < 0x30 then
    s.setCmds (x.unit - 0x24) ((s.cmds (x.unit - 0x24)).map (fun c => { c with susp := false }))
  else
    let h := x.unit - 0x30
    match (s.hostX h).snap with
    | some q => (s.setHostX h { s.hostX h with snap := none }).snapshotHost h (snapReq q) q.2.1 q.2.2
    | none => s

/-- An abort: the steps before STEP stay, the record is freed, and the unit ends the instruction (R142). -/
def State.abort (s : State) (x : Susp) : State :=
  let s := s.freeSusp x
  if x.unit < 22 then
    match (s.stream x.unit).suspended x with
    | none => s
    | some p =>
      let t := s.stream x.unit
      let s := s.setStream x.unit ({ t with saved := t.saved.erase p }.remember p)
      let s := s.haltProg x.unit p 0x0C x.slot x.handle x.vaddr
      if p.start.bcast then s.endBroadcast x.unit else s
  else if x.unit = 0x20 then
    match s.sto.suspended with
    | some e => ((s.setBusy e.bank false).stoFinish e 0x15 (e.saddr % 2 ^ 32)).stoKick
    | none => s
  else if x.unit < 0x30 then
    let d := x.unit - 0x24
    match (s.cmds d).find? (·.susp) with
    | some c => (s.onDeck d c.tile c.deck (fun k => { k with state := 3 })).cimpFinish d c 0x14 c.count
    | none => s
  else
    let h := x.unit - 0x30
    match (s.hostX h).snap with
    | some q => (s.setHostX h { s.hostX h with snap := none }).reply (.host h) 4 (snapReq q) 0x05
    | none => s

/-- What a write of `v` to MMU_RESUME by `r` does (Table 04-12). A free entry is a violation of kind 0xE. -/
def State.writeResume (s : State) (r : Req) (v : Word) : State :=
  match s.suspAt (getField v 8 3) (getField v 0 7) with
  | none => s.violateBy r 0xE R.MMU_RESUME.at
  | some x => if bit v.toNat 16 then s.abort x else s.resume x

/-- FAULT_RESUME: a write of MMU_RESUME with ACTION = resume. -/
def execFaultResume (r : Req) (v : Word) (s : State) : Out State :=
  .next (s.asHome r R.MMU_RESUME.at (fun s => s.writeResume r (setField v 16 1 0)))

/-- FAULT_ABORT: a write of MMU_RESUME with ACTION = abort. -/
def execFaultAbort (r : Req) (v : Word) (s : State) : Out State :=
  .next (s.asHome r R.MMU_RESUME.at (fun s => s.writeResume r (setField v 16 1 1)))

/-- The automatic abort time in cycles: a value below 100 µs acts as 100. -/
def State.faultSpan (s : State) : Nat := max 100 (s.fget F.MMU_FTIMEOUT_US) * 1000

/-- FAULT_TIMEOUT: the record in entry `index` of context `c` has been pending for MMU_FTIMEOUT µs, by the value now in force (R142). -/
def execFaultTimeout (c : Fin 8) (index : Fin 128) (s : State) : Out State :=
  .next (match s.mmu.susps.find? (fun x => x.ctx == c.val && x.index == index.val) with
    | none => s
    | some x => if x.origin + s.faultSpan ≤ s.now then s.abort x else s)

/-! ### Disabling a context (R142) -/

/-- What the clearing of context `c`'s EN ends: its pending records, its programs, its saved work and its queued starts. -/
def State.disableContext (s : State) (c : Nat) : State :=
  let s := (s.mmu.susps.filter (fun x => x.ctx == c)).foldl (fun s x => s.abort x) s
  (List.range 22).foldl (fun s n => (s.haltContext n c 0x0C).dropStarts n c) s

/-- Whether enabling context `n` would make two enabled contexts' bell ranges overlap (R130). -/
def State.bellClash (s : State) (n : Nat) : Bool :=
  let b := s.fget F.MMU_CTX_BELLS_BASE n
  let k := s.fget F.MMU_CTX_BELLS_CNT n
  (List.range 8).any (fun m => m != n && s.ctxEnabled m &&
    rangesMeet b k (s.fget F.MMU_CTX_BELLS_BASE m) (s.fget F.MMU_CTX_BELLS_CNT m))

/-- What a write of `v` to MMU_CTXn_CFG by `r` does: RWL (R71). A write that would make bell ranges overlap leaves EN at 0 and is a
violation of kind 0xE (R130). DEDUCED, safe. -/
def State.writeCtxCfg (s : State) (r : Req) (n : Nat) (v : Word) : State :=
  let a := R.MMU_CTX_CFG.at n
  let old := s.rd a
  if s.locked then (if R.MMU_CTX_CFG.lockHit old v then s.violateBy r 0x8 a else s)
  else
    let on := s.ctxEnabled n
    let clash := bit v.toNat 31 && !on && s.bellClash n
    let s := s.wr a (R.MMU_CTX_CFG.written false old (if clash then setField v 31 1 0 else v))
    if clash then s.violateBy r 0xE a
    else if on && !bit v.toNat 31 then s.disableContext n else s

/-- CONTEXT_DISABLE: a write of MMU_CTXn_CFG with EN = 0 by home. -/
def execContextDisable (r : Req) (n : Fin 8) (v : Word) (s : State) : Out State :=
  .next (s.asHome r (R.MMU_CTX_CFG.at n.val) (fun s => s.writeCtxCfg r n.val (setField v 31 1 0)))

end Sys2Proof.Machine
end

