-- ==== Sys2Proof/Machine/Sig.lean ====
section
/-! DEFINITION. The signal engine (spec/11): its operations, their issue checks, staging banks, steps and results, the contact
sheet, and the kinematic markers. -/

namespace Sys2Proof.Machine

/-! ### Operands (R326, R327) -/

structure SigArg where
  scale : Nat
  zero : Int
  aux : Nat
  p : Nat
deriving DecidableEq, Repr

/-- The ARG of an operation (Table 11-2), with the defaults of R326. -/
def sigArg (o : OpRun) : SigArg :=
  match o.arg with
  | none => ⟨0x3F800000, 0, 0, 0⟩
  | some y => ⟨bits y 32 32, toSigned 8 (bits y 24 8), bits y 12 12, bits y 0 12⟩

/-- The window code of FFT and WINDOW. -/
def sigWin (o : OpRun) : Nat := if o.opc = 0x40 then bits o.mod 9 4 else if o.opc = 0x41 then bits o.mod 0 4 else 0

/-- Whether the auxiliary tensor is an operand. -/
def usesAux (o : OpRun) : Bool := sigWin o == 6 || o.opc == 0x43 || (o.opc == 0x48 && o.arg.isSome)

/-- The handles an operation reads, and those it writes, in iteration `i`. -/
def sigReads (b : Bundle) (o : OpRun) (i : Nat) : List Int :=
  let h (k : Nat) := b.handleAt o k i
  [h 0] ++ (if o.opc = 0x46 ∨ o.opc = 0x48 ∨ (o.opc = 0x4A ∧ bits o.mod 10 2 < 2) then [h 1] else []) ++
  (if usesAux o then [((sigArg o).aux : Int)] else [])
def sigWrites (b : Bundle) (o : OpRun) (i : Nat) : List Int :=
  if o.opc = 0x42 ∨ o.opc = 0x47 then [b.handleAt o 1 i, b.handleAt o 2 i] else [b.handleAt o 2 i]

/-! ### Issue checks (R326 to R333) -/

/-- Defined values of FMT, MOD, window codes and unused handles (reason 0x02). -/
def sigEncodingOk (o : OpRun) : Bool :=
  let m := o.mod
  let noB := o.hb == 0
  decide (o.fmt ≤ 1) &&
  match o.opc with
  | 0x40 => bits m 13 3 == 0 && bits m 7 2 != 3 && decide (sigWin o ≤ 6) && noB
  | 0x41 => bits m 4 12 == 0 && decide (sigWin o ≤ 6) && noB
  | 0x42 => bits m 5 11 == 0
  | 0x43 | 0x45 => bits m 4 12 == 0 && noB
  | 0x44 | 0x4B => m == 0 && noB
  | 0x46 => m == 0
  | 0x47 => bits (sigArg o).p 4 3 == 0
  | 0x48 => bits m 3 1 == 0 && bits m 9 7 == 0
  | 0x49 => bits m 0 8 == 0 && bits m 12 4 == 0 && noB
  | _ => bits m 7 3 == 0

/-- Whether the ARG slot is present or absent as Table 11-1 asks (reason 0x0F). -/
def sigArgOk (o : OpRun) : Bool :=
  if o.opc = 0x43 then o.arg.isSome
  else if o.opc = 0x42 ∨ o.opc = 0x49 ∨ o.opc = 0x4A ∨ o.opc = 0x4B then o.arg.isNone else true

/-- The numeric types of inputs that Table 11-1 does not name, and of outputs it does not name (R327). -/
def sigIn (t : Nat) : Bool := [1, 4, 5, 8, 9].contains t
def sigOut (t : Nat) : Bool := [1, 4, 5, 8, 9].contains t

/-- Channel rows of an operand. -/
def Desc.rows (d : Desc) : Nat := d.count / d.size 0

/-- A power of two in a range. -/
def powerIn (n lo hi : Nat) : Bool := decide (lo ≤ n) && decide (n ≤ hi) && 2 ^ Nat.log2 n == n

/-- The operand rules of Table 11-1 and R327 to R332 (reason 0x04). -/
def sigShapeOk (p : Prog) (b : Bundle) (o : OpRun) (i : Nat) : Bool :=
  let ds (k : Nat) := p.desc (b.handleAt o k i).toNat
  let a := ds 0
  let hb := ds 1
  let d := ds 2
  let arg := sigArg o
  let aux := p.desc arg.aux
  let m := o.mod
  let rowsOk := d.rows == a.rows
  let plain := ((sigReads b o i ++ sigWrites b o i).map (fun h => p.desc h.toNat)).all (fun x => x.layout == 0 || x.layout == 1)
  let logOk := o.fmt == 0 || o.opc == 0x46 || o.opc == 0x47 || (o.opc == 0x40 && bits m 7 2 != 0)
  let winOk (n : Nat) := sigWin o != 6 || (o.arg.isSome && aux.typ == 9 && aux.size 0 == n && aux.count == n)
  plain && logOk &&
  match o.opc with
  | 0x40 =>
    let cplx := bit m 6
    let l := bits m 0 5
    let n := if cplx then a.size 0 / 2 else a.size 0
    let bins := if cplx then 2 ^ l else 2 ^ (l - 1) + 1
    decide (4 ≤ l) && decide (l ≤ 16) && (cplx || !bit m 5) && decide (n ≤ 2 ^ l) &&
    (if cplx then a.typ == 9 && a.size 0 % 2 == 0 else a.typ == 4 || a.typ == 5 || a.typ == 9) &&
    d.typ == 9 && d.size 0 == (if bits m 7 2 = 0 then 2 * bins else bins) && rowsOk && winOk n
  | 0x41 => sigIn a.typ && d.typ == 9 && d.sameSizes a && winOk (a.size 0)
  | 0x42 => typeBits a.typ % 8 == 0 && hb.typ == 9 && hb.count == hb.size 0 && d.typ == 5
  | 0x43 => sigIn a.typ && powerIn (a.size 0) 256 65536 && decide (bits m 0 4 ≤ 8) && d.typ == 9 &&
      d.size 0 == a.size 0 / 2 ^ bits m 0 4 && rowsOk && aux.typ == 5 && aux.count == 2
  | 0x44 => sigIn a.typ && decide (2 ≤ a.size 0) && sigOut d.typ && d.size 0 == a.size 0 && rowsOk
  | 0x45 =>
    let ns := 2 ^ bits m 0 4
    sigIn a.typ && powerIn ns 16 4096 && decide (ns + ns / 2 ≤ a.size 0) && sigOut d.typ && d.size 0 == ns / 2 + 1 && rowsOk
  | 0x46 => sigIn a.typ && hb.typ == 5 && hb.size 0 == 2 && hb.count == 2 * hb.size 1 && sigOut d.typ && d.size 0 == hb.size 1 && rowsOk
  | 0x47 =>
    let cnt := bits m 8 6 + 1
    let h := bits arg.p 8 4 + 1
    sigIn a.typ && decide (2 ≤ a.size 0) && decide (bits m 0 8 + cnt ≤ 256) && hb.typ == 9 && hb.size 0 == cnt * h && hb.rows == a.rows &&
    d.typ == 9 && d.size 0 == 2 * cnt && rowsOk
  | 0x48 =>
    let kt := hb.size 0
    let cin := hb.size 1
    let cout := hb.size 2
    a.layout == 1 && d.layout == 1 && a.rank == 2 && d.rank == 2 && sigIn a.typ && sigOut d.typ && (hb.typ == 1 || hb.typ == 9) &&
    hb.count == kt * cin * cout && a.size 1 == cin && d.size 1 == cout && decide (cin * kt ≤ 4096) && (decide (cin ≤ 8) || decide (cout ≤ 16)) &&
    (o.arg.isNone || (aux.typ == 9 && aux.size 0 == cout && aux.count == cout))
  | 0x49 => sigIn a.typ && decide (bits m 8 4 < a.rank) && d.typ == 5 && d.size (bits m 8 4) == 1 && a.sameBut d (bits m 8 4)
  | 0x4A => typeBits a.typ % 8 == 0 && typeBits d.typ % 8 == 0 && d.streamBytes == 64 * (bits m 12 4 + 1) &&
      (decide (2 ≤ bits m 10 2) || (typeBits hb.typ % 8 == 0 && decide (32 + 64 * bits m 12 4 ≤ hb.streamBytes)))
  | _ => sigIn a.typ && d.typ == 9 && d.size 0 == 8 && rowsOk

/-- The staging need of an operation in bytes (R333); of RESAMP, its block and its output. -/
def sigStaging (p : Prog) (b : Bundle) (o : OpRun) (i : Nat) : Nat :=
  let a := p.desc (b.handleAt o 0 i).toNat
  match o.opc with
  | 0x40 => 8 * 2 ^ bits o.mod 0 5
  | 0x42 => a.streamBytes + (p.desc (b.handleAt o 1 i).toNat).streamBytes
  | 0x43 => 8 * a.size 0
  | 0x44 => 16 * (a.size 0 - 1)
  | 0x45 => 8 * 2 ^ bits o.mod 0 4
  | _ => 0

/-- The checks of a signal-engine operation in iteration `i` that need no translation. RESAMP and MARKER vary in time (Table
05-17). -/
def sigCheck (p : Prog) (b : Bundle) (o : OpRun) (i : Nat) : List Fail :=
  let bad := (sigReads b o i ++ sigWrites b o i).find? (fun h => (p.desc h.toNat).inconsistent 256)
  need (bad == none) 9 0x04 o.slot (bad.elim 0 Int.toNat) ++
  need (sigShapeOk p b o i) 9 0x04 o.slot (b.handleAt o 0 i).toNat ++
  need (decide (sigStaging p b o i ≤ 0x80000)) 11 0x06 o.slot (b.handleAt o 0 i).toNat ++
  need (!p.timed || (o.opc != 0x42 && o.opc != 0x47)) 13 0x09 o.slot (b.handleAt o 0 i).toNat

/-- The memories the signal engine reaches. -/
def Loc.sigOk : Loc → Bool
  | .am | .psm | .wbm | .dam _ | .l1 _ => true
  | _ => false

/-- The location conditions of iteration `i` on stream `n`. -/
def State.sigPlaceCheck (s : State) (n : Nat) (p : Prog) (b : Bundle) (o : OpRun) (i : Nat) : List Fail :=
  let wrong := (sigReads b o i ++ sigWrites b o i).find? (fun h =>
    let d := p.desc h.toNat
    !(s.peekAddrs n p.start.ctx d (d.offsets 0 d.count)).all (fun a => (s.loc a).sigOk))
  need (wrong == none) 9 0x04 o.slot (wrong.elim 0 Int.toNat)

/-! ### Staging banks (R334) -/

/-- The operations that run in staging. -/
def sigStaged (opc : Nat) : Bool := opc == 0x40 || opc == 0x42 || opc == 0x43 || opc == 0x44 || opc == 0x45

/-- The started staged operation of a program, if one holds a bank. -/
def Prog.bankOp (p : Prog) : Option OpRun := p.ops.find? (fun o => o.started && !o.finished && sigStaged o.opc)

/-- The bank an operation holds. -/
def OpRun.bank (o : OpRun) : Nat := o.note.headD 0

/-- The banks of signal-engine core `c` that suspended instructions hold (SIG_STAT.BANKS). -/
def State.heldBanks (s : State) (c : Nat) : List Nat := (s.stream (12 + c)).saved.filterMap (fun p => p.bankOp.map (·.bank))

/-- SIG_STAT.BANKS. -/
def State.bankBits (s : State) : Nat :=
  let core (c : Nat) := (if (s.heldBanks c).contains 0 then 1 else 0) + (if (s.heldBanks c).contains 1 then 2 else 0)
  core 0 + 4 * core 1

/-- Return a suspended instruction to step 0 and count it. -/
def State.releaseBank (s : State) (n : Nat) : State :=
  let x := s.stream n
  let low := (x.saved.filter (fun p => p.bankOp.isSome)).map (fun p => p.start.cls)
  let cls := low.foldl max 0
  let saved := x.saved.map (fun (p : Prog) =>
    if p.start.cls = cls then
      { p with ops := p.ops.map (fun o =>
          if o.started && !o.finished && sigStaged o.opc then { o with started := false, step := 0, staged := [], note := [] } else o) }
    else p)
  (s.setStream n { x with saved := saved }).count R.SIG_BANKREL

/-- A bank for a starting staged instruction of stream `n`, released from the lowest class where both are held. -/
def State.takeBank (s : State) (n : Nat) : Nat × State :=
  let s := if (s.heldBanks (n - 12)).length < 2 then s else s.releaseBank n
  (if (s.heldBanks (n - 12)).contains 0 then 1 else 0, s)

/-! ### Reading operands -/

/-- Translate and check the operands with handles `hs`; none where the program was suspended or halted. -/
def State.sigViews (s : State) (n : Nat) (p : Prog) (o : OpRun) : List Nat → List (Nat × View) → Option (List (Nat × View)) × State
  | [], l => (some l, s)
  | h :: t, l =>
    let d := p.desc h
    match s.touch n p.start.ctx (d.touches h .read (d.offsets 0 d.count)) [] with
    | (.fault x f, s) => (none, s.suspendOp n p o 6 x f h)
    | (.ok m, s) =>
      let m := s.noRemote m
      let s := s.violatePages n p.start.ctx m
      match s.readCheck n p d.notag (s.readAddrs d m (s.crTail d.crnum) 0 d.count) o.slot h d.base with
      | (false, s) => (none, s)
      | (true, s) => s.sigViews n p o t (l ++ [(h, ⟨0, d, m, s.crTail d.crnum⟩)])

/-- The operand of a handle. -/
def viewOf (l : List (Nat × View)) (h : Nat) : View := (l.find? (fun x => x.1 == h)).elim ⟨0, parseDesc [], [], 0⟩ (·.2)

/-- The bits of every element of an operand. -/
def State.viewBits (s : State) (v : View) : List Nat := s.elems s.physByte v.d v.m v.start 0 v.d.count

/-- Row `r` of an operand as FP32. -/
def State.viewRow (s : State) (v : View) (r : Nat) : List Nat :=
  (s.elems s.physByte v.d v.m v.start (r * v.d.size 0) ((r + 1) * v.d.size 0)).map (elemF32 v.d.typ)

/-- The bytes of an operand in element order. -/
def State.viewBytes (s : State) (v : View) : List Byte := packElems (typeBits v.d.typ) (s.viewBits v)

/-! ### Results (R327 to R332, R339, R342) -/

/-- One result in the output type (R327). `d` is the free value of the logarithm. -/
def sigConv (t : Nat) (log : Bool) (eps scale : Nat) (zero : Int) (y d : Nat) : Nat :=
  let y := if log then decibel (fmaxN y eps) d else y
  match typeFmt t with
  | some f => f.encode (f32 (fmul y scale))
  | none =>
    let w := typeBits t
    ofSigned w (satSigned w (((f32 y).mul (f32 scale)).add (FV.ofInt zero)).round)

/-- The latch of stream definition `k` that holds an instant. -/
def State.latchAt (s : State) (k t : Nat) : Option Latch :=
  (s.acqStream k).flight.find? (fun l => decide (l.opn ≤ t) && decide (t < l.close))

/-- The samples of a block: what its header and its bytes give. -/
def blockSamples (b : List Byte) : List Int :=
  let w := if leAt b 1 1 = 2 then 2 else 4
  let n := min (leAt b 4 4) ((b.length - 64) / w)
  (List.range n).map (fun i => toSigned (8 * w) (leAt b (64 + w * i) w))

/-- Whether RESAMP accepts the block's header. -/
def blockOk (b : List Byte) : Bool := leAt b 0 1 == 0x21 && [1, 2, 3].contains (leAt b 1 1)

/-- The points of RESAMP (R339); none of them without a latch, with NOTABLE, or with COUNT 0. -/
def State.resampPoints (s : State) (o : OpRun) (b : List Byte) (fr : Nat → Nat) : List Nat :=
  let origin := leAt b 8 8
  match s.latchAt (bits o.mod 0 4) origin with
  | some l =>
    if l.buf.isNone ∨ leAt b 4 4 = 0 then []
    else
      let t := s.load l.base (4 * 2 ^ l.noutl)
      let table := (List.range (2 ^ l.noutl)).map (fun k => leAt t (4 * k) 4)
      resampRow (bit o.mod 4) table (blockSamples b) ((origin : Int) - l.opn) (leAt b 16 4) fr
  | none => []

/-- The levels of a row, and the marker orders and frequencies, of MARKER (R342). -/
def State.markerRow (s : State) (o : OpRun) (row : List Nat) (fr : Nat → Nat) : List Nat × List Nat :=
  let a := sigArg o
  let first := bits o.mod 0 8
  let cnt := bits o.mod 8 6 + 1
  let w := bits o.mod 14 2
  let h := bits a.p 8 4 + 1
  let hz := bit a.p 7
  let order (j : Nat) := s.rget R.SIG_MARK (first + j)
  match (s.acqStream (bits a.p 0 4)).flight.head? with
  | some l =>
    match l.fit with
    | some (f, _) =>
      let beta := if hz then fdiv f a.scale else fdiv (intToF (2 * (row.length - 1) : Nat)) (intToF (2 ^ l.pprl : Nat))
      let level (j k : Nat) : Nat :=
        let c := (f32 (fmul (fmul (intToF (k + 1 : Nat)) (order j)) beta)).round
        let y := if (row.length : Int) ≤ c then 0 else bandSum row (c - w) (c + w)
        sigConv 9 (o.fmt == 1) (s.rget R.SIG_EPS) (if hz then 0x3F800000 else a.scale) 0 y (fr (16 * j + k))
      ((List.range cnt).flatMap (fun j => (List.range h).map (level j)),
       (List.range cnt).flatMap (fun j => [order j, fmul (order j) f]))
    | none => (List.replicate (cnt * h) 0, (List.range cnt).flatMap (fun j => [order j, 0]))
  | none => (List.replicate (cnt * h) 0, (List.range cnt).flatMap (fun j => [order j, 0]))

/-- The values of a row of an operation whose results are one row of HC, before conversion. -/
def State.sigRow (s : State) (o : OpRun) (vs : List (Nat × View)) (a : View) (hb : View) (r : Nat) (fr : Nat → Nat) : List Nat :=
  let arg := sigArg o
  let row := s.viewRow a r
  let aux := if usesAux o then s.viewBits (viewOf vs arg.aux) else []
  let m := o.mod
  match o.opc with
  | 0x40 =>
    let cplx := bit m 6
    let n := 2 ^ bits m 0 5
    let wv (k len : Nat) := windowVal (sigWin o) k len arg.p aux (fr k)
    let xs : List Cplx :=
      if cplx then (List.range (row.length / 2)).map (fun k =>
        (fmul (row.getD (2 * k) 0) (wv k (row.length / 2)), fmul (row.getD (2 * k + 1) 0) (wv k (row.length / 2))))
      else (windowed (sigWin o) arg.p aux row fr).map (fun x => (x, 0))
    fftRow xs n (if cplx then n else n / 2 + 1) (bits m 7 2) (bit m 5) (fun k => fr (65536 + k))
  | 0x41 => windowed (sigWin o) arg.p aux row fr
  | 0x43 => envRow row (aux.getD 0 0) (aux.getD 1 0) (bits m 0 4) fr
  | 0x44 => cepsRow row (s.rget R.SIG_EPS) fr
  | 0x45 => skurtRow row (bits m 0 4) fr
  | 0x46 =>
    let t := (s.viewBits hb).map (toSigned 32)
    (List.range (t.length / 2)).map (fun k => bandSum row (t.getD (2 * k) 0) (t.getD (2 * k + 1) 0))
  | _ => statsRow row fr

/-- Every result of an operation: by handle, the bits of the elements in order. `fr` gives the free values. -/
def State.sigResults (s : State) (p : Prog) (o : OpRun) (vs : List (Nat × View)) (fr : Nat → Nat) : List (Nat × List Nat) :=
  let h0 := p.handle o 0
  let h1 := p.handle o 1
  let h2 := p.handle o 2
  let a := viewOf vs h0
  let d := p.desc h2
  let arg := sigArg o
  let eps := s.rget R.SIG_EPS
  let rowFr (r : Nat) (k : Nat) : Nat := fr (2 ^ 24 * r + k)
  match o.opc with
  | 0x42 =>
    let n := (p.desc h1).count
    let pts := (s.resampPoints o (s.viewBytes a) fr).take n
    [(h1, pts ++ List.replicate (n - pts.length) 0), (h2, [pts.length])]
  | 0x47 =>
    let rs := (List.range a.d.rows).map (fun r => s.markerRow o (s.viewRow a r) (rowFr r))
    [(h1, rs.flatMap (·.1)), (h2, rs.flatMap (·.2))]
  | 0x48 =>
    let hb := viewOf vs h1
    let w := (s.viewBits hb).map (elemF32 hb.d.typ)
    let kt := hb.d.size 0
    let cin := hb.d.size 1
    let bias := if o.arg.isSome then s.viewBits (viewOf vs arg.aux) else []
    let x (c : Nat) (t : Int) : Nat :=
      if 0 ≤ t ∧ t < (a.d.size 0 : Int) then elemF32 a.d.typ (s.viewElem a (c * a.d.size 0 + t.toNat)) else 0
    [(h2, (List.range d.count).map (fun i =>
      let oc := i / d.size 0
      let y := layerOut x (fun k c => w.getD ((oc * cin + c) * kt + k) 0) cin kt (i % d.size 0) (bits o.mod 0 3 + 1) (bits o.mod 4 4 + 1)
        (bits arg.p 0 8) bias[oc]? (bit o.mod 8)
      sigConv d.typ false eps arg.scale arg.zero y 0))]
  | 0x49 =>
    [(h2, (List.range d.count).map (fun i => argmaxOf a.d.typ (s.axisLine a (bits o.mod 8 4) (d.coords i))))]
  | _ =>
    [(h2, (List.range a.d.rows).flatMap (fun r =>
      (s.sigRow o vs a (viewOf vs h1) r (rowFr r)).zipIdx.map (fun y =>
        sigConv d.typ (o.fmt == 1) eps arg.scale arg.zero y.1 (rowFr r (2 ^ 23 + y.2)))))]

/-! ### The contact sheet (R343, R345) -/

/-- The flags of a window's blocks, OR-ed: `n` blocks from offset `at'`. -/
def blockFlags (b : List Byte) : Nat → Nat → Nat
  | 0, _ => 0
  | n + 1, at' => leAt b (at' + 20) 4 ||| blockFlags b n (at' + leAt b (at' + 24) 4)

/-- The contact sheet of a window (Table 11-5). -/
def State.sheet (s : State) (o : OpRun) (w : List Byte) (summary : List Byte) : List Byte :=
  let e := bits o.mod 12 4 + 1
  let st := leAt w 28 1 % 16
  let frame := leAt w 4 4
  let fl := leAt w 1 1
  let bf := blockFlags w (leAt w 2 2) 256
  let skip := bit fl 1
  let latch := (s.acqStream st).flight.find? (fun l => l.frame == frame)
  let notable := latch.elim false (fun l => l.buf.isNone)
  let hcount := latch.elim (s.fget F.SIG_ST_STAT_HCOUNT st) (·.hcount)
  let inc := bit fl 0 || decide (hcount ≤ s.fget F.SIG_ST_CTL_NEED st) || bit bf 4 || (s.flag F.SIG_ST_ORD_EN st && notable)
  let status := if skip then 1 else bits o.mod 10 2
  let flags := 2 * b2n skip + 4 * b2n inc + 8 * s.fget F.SIG_ST_CTL_PROV st + 16 * bits o.mod 6 1
  let sfl := b2n (bit fl 2) + 2 * b2n (bit bf 4) + 4 * b2n (bit bf 10) + 8 * b2n (bit bf 5) + 16 * b2n (bit bf 9) + 32 * b2n notable +
    64 * b2n (latch.elim false (·.stale)) + 128 * b2n (bit bf 8) + 256 * b2n (bit fl 3)
  let speed := if s.flag F.SIG_ST_ORD_EN st then latch.elim 0 (fun l => l.fit.elim 0 (·.1)) else 0
  let rest := if skip ∨ 2 ≤ status then List.replicate (64 * e - 32) 0 else padTo (64 * e - 32) summary
  [0x30, BitVec.ofNat 8 flags] ++ leBytes 2 e ++ leBytes 4 0 ++ leBytes 8 (leAt w 8 8) ++ leBytes 4 frame ++
  [BitVec.ofNat 8 st, BitVec.ofNat 8 status, BitVec.ofNat 8 (bits o.mod 0 6), 0] ++ leBytes 2 sfl ++ leBytes 2 0 ++ leBytes 4 speed ++ rest

/-! ### Steps (Table 04-7, R334, R347) -/

/-- Passes of at most 4,096 cycles. -/
def passes (c : Nat) : Nat := max 1 (ceilDiv c 4096)

/-- Load, compute and commit passes of an FFT of 2^`l` points. -/
def fftPasses (bin bout l : Nat) : Nat := passes (64 + ceilDiv bin 128) + ceilDiv l 2 + passes (ceilDiv bout 128)

/-- Steps of an operation: its passes row by row, or its 256-byte output blocks. -/
def sigSteps (p : Prog) (o : OpRun) : Nat :=
  let a := p.desc (p.handle o 0)
  let d := p.desc (p.handle o 2)
  let bin := a.size 0 * a.ebytes
  let bout := d.size 0 * d.ebytes
  let lg (n : Nat) : Nat := if 2 ^ Nat.log2 n = n then Nat.log2 n else Nat.log2 n + 1
  match o.opc with
  | 0x40 => a.rows * fftPasses bin bout (bits o.mod 0 5)
  | 0x42 =>
    let n := (p.desc (p.handle o 1)).count
    passes (64 + ceilDiv a.streamBytes 128) + passes (2 * ceilDiv n 32) + passes (ceilDiv (4 * n) 128)
  | 0x43 => a.rows * (fftPasses bin 0 (lg (a.size 0)) + fftPasses 0 bout (lg (a.size 0)))
  | 0x44 => a.rows * fftPasses bin bout (lg (2 * (a.size 0 - 1)))
  | 0x45 => a.rows * ((a.size 0 - 2 ^ bits o.mod 0 4) / (2 ^ bits o.mod 0 4 / 2) + 1) * fftPasses bin bout (bits o.mod 0 4)
  | 0x47 => ceilDiv ((p.desc (p.handle o 1)).streamBytes + d.streamBytes) 256
  | _ => ceilDiv d.streamBytes 256

/-- The elements of results that output block `k` holds: 256 bytes of the results laid one after the other. -/
def sigBlock (p : Prog) (k : Nat) (res : List (Nat × List Nat)) : List (Nat × List (Nat × Nat)) :=
  let flat := (res.flatMap (fun x => x.2.zipIdx.map (fun v => (x.1, v.2, v.1))))
  let pos := flat.foldl (fun (acc : List (Nat × Nat × Nat × Nat) × Nat) x =>
    (acc.1 ++ [(acc.2, x)], acc.2 + (p.desc x.1).ebytes)) ([], 0)
  let here := pos.1.filter (fun x => x.1 / 256 == k)
  (here.map (fun x => x.2.1)).eraseDups.map (fun h => (h, (here.filter (fun x => x.2.1 == h)).map (fun x => x.2.2)))

/-- Write results: every page is translated before the first byte is written (R139). -/
def State.sigWrite (s : State) (n : Nat) (p : Prog) (o : OpRun) (res : List (Nat × List (Nat × Nat))) : Option (Touch × Nat) × State :=
  let c := p.start.ctx
  let ts := res.flatMap (fun x =>
    let d := p.desc x.1
    d.touches x.1 .write ((x.2.flatMap (fun v => (List.range d.ebytes).map (· + (d.pos v.1).1))).eraseDups))
  match s.touch n c ts [] with
  | (.fault t f, s) => (some (t, f), s.suspendOp n p o 6 t f t.handle)
  | (.ok m, s) =>
    let m := s.noRemote m
    let s := s.violatePages n c m
    (none, res.foldl (fun s x => let d := p.desc x.1; s.writeElems d m (s.crHead d.crnum) x.2) s)

/-- Free values set aside for one step of an operation. -/
def sigDraws : Nat := 2 ^ 40

/-- The results of an operation from its operands; none where the program was suspended or halted (0x04: a block or window
header, or an envelope band, that the operation does not accept). -/
def State.sigCompute (s : State) (n : Nat) (p : Prog) (b : Bundle) (o : OpRun) : Option (List (Nat × List Nat)) × State :=
  match s.sigViews n p o ((sigReads b o p.iter).map Int.toNat) [] with
  | (none, s) => (none, s)
  | (some vs, s) =>
    let h0 := p.handle o 0
    let a := viewOf vs h0
    let bytes := s.viewBytes a
    let aux := s.viewBits (viewOf vs (sigArg o).aux)
    let okRun :=
      match o.opc with
      | 0x42 => blockOk bytes
      | 0x43 =>
        let lo := toSigned 32 (aux.getD 0 0)
        let hi := toSigned 32 (aux.getD 1 0)
        decide (0 ≤ lo) && decide (lo ≤ hi) && decide (hi ≤ (a.d.size 0 / 2 : Nat))
      | 0x4A => leAt bytes 0 1 == 0x20
      | _ => true
    let table := if o.opc = 0x42 then (s.latchAt (bits o.mod 0 4) (leAt bytes 8 8)).elim [] (fun l =>
      if l.buf.isSome then (List.range (4 * 2 ^ l.noutl)).map (· + l.base) else []) else []
    if !okRun then (none, s.halt n 0x04 o.slot h0 0)
    else
      match s.readCheck n p false table o.slot h0 0 with
      | (false, s) => (none, s)
      | (true, s) =>
        let res :=
          if o.opc = 0x4A then
            let h2 := p.handle o 2
            let sum := if bits o.mod 10 2 < 2 then s.viewBytes (viewOf vs (p.handle o 1)) else []
            [(h2, unpackElems (typeBits (p.desc h2).typ) (p.desc h2).count (s.sheet o bytes sum))]
          else s.sigResults p o vs (fun k => Config.freeNat (s.free + k))
        (some res, { s with free := s.free + sigDraws })

/-- Begin the operation of opcode `opc` on stream `n`: a staged one takes a bank, loads its operands and holds its results until
the final commit step; another goes on block by block. -/
def State.sigBegin (s : State) (n opc : Nat) : State :=
  s.beginOp n opc (fun p o => match p.bundle with
    | none => s
    | some b =>
      let o := { o with started := true, step := 0, nsteps := max 1 (sigSteps p o) }
      if !sigStaged opc then s.setOp n p o
      else
        let (bank, s) := s.takeBank n
        match s.sigCompute n p b o with
        | (none, s) => s
        | (some res, s) =>
          s.setOp n p { o with note := [bank], staged := res.flatMap (fun x => x.2.zipIdx.map (fun v => (x.1, v.2, leBytes 4 v.1))) })

/-- The results a staged operation holds. -/
def sigHeld (o : OpRun) : List (Nat × List (Nat × Nat)) :=
  ((o.staged.map (·.1)).eraseDups).map (fun h => (h, (o.staged.filter (fun x => x.1 == h)).map (fun x => (x.2.1, leNat x.2.2))))

/-- SIG_PASS: the next pass or output block of the operation of stream `n` completes (R334, R347); a parity error halts the
program (R440). -/
def execSigPass (n : Fin 22) (parity : Bool) (s : State) : Out State :=
  .next (s.withOp n.val (fun o => o.started && decide (0x40 ≤ o.opc) && decide (o.opc ≤ 0x4B)) (fun p o =>
    let n := n.val
    let last := o.step + 1 = o.nsteps
    let o' := { o with step := o.step + 1 }
    if parity then s.halt n 0x0C o.slot 0xFFFF 0
    else if sigStaged o.opc then
      if !last then s.setOp n p o'
      else
        match s.sigWrite n p o (sigHeld o) with
        | (some _, s) => s
        | (none, s) => s.finishOp n p { o' with staged := [], note := [] }
    else
      match p.bundle with
      | none => s
      | some b =>
        match s.sigCompute n p b o with
        | (none, s) => s
        | (some res, s) =>
          match s.sigWrite n p o (sigBlock p o.step res) with
          | (some _, s) => s
          | (none, s) => if last then s.finishOp n p o' else s.setOp n p o'))

/-- FFT: the issued operation of stream `n` begins (R328). -/
def execFft (n : Fin 22) (s : State) : Out State := .next (s.sigBegin n.val 0x40)
/-- WINDOW (R329). -/
def execWindow (n : Fin 22) (s : State) : Out State := .next (s.sigBegin n.val 0x41)
/-- RESAMP (R339). -/
def execResamp (n : Fin 22) (s : State) : Out State := .next (s.sigBegin n.val 0x42)
/-- ENV (R330). -/
def execEnv (n : Fin 22) (s : State) : Out State := .next (s.sigBegin n.val 0x43)
/-- CEPS (R331). -/
def execCeps (n : Fin 22) (s : State) : Out State := .next (s.sigBegin n.val 0x44)
/-- SKURT (R331). -/
def execSkurt (n : Fin 22) (s : State) : Out State := .next (s.sigBegin n.val 0x45)
/-- BAND (R332). -/
def execBand (n : Fin 22) (s : State) : Out State := .next (s.sigBegin n.val 0x46)
/-- MARKER (R342). -/
def execMarker (n : Fin 22) (s : State) : Out State := .next (s.sigBegin n.val 0x47)
/-- LAYER (R332). -/
def execLayer (n : Fin 22) (s : State) : Out State := .next (s.sigBegin n.val 0x48)
/-- Signal-engine ARGMAX (R263, R332). -/
def execSigArgmax (n : Fin 22) (s : State) : Out State := .next (s.sigBegin n.val 0x49)
/-- SHEET (R343). -/
def execSheet (n : Fin 22) (s : State) : Out State := .next (s.sigBegin n.val 0x4A)
/-- STATS (R332). -/
def execStats (n : Fin 22) (s : State) : Out State := .next (s.sigBegin n.val 0x4B)

/-! ### Kinematic markers (R341) -/

/-- The four marker orders of a component entry (Table 11-4), before its shaft's RATIO; none for an invalid component. -/
def componentOrders (nshaft : Nat) (c : List Byte) : Option (List Nat) :=
  let shaft := leAt c 1 1
  let rot := leAt c 2 1
  let z := leAt c 4 2
  let z2 := leAt c 6 2
  let bd := f32 (leAt c 8 4)
  let pd := f32 (leAt c 12 4)
  let one := FV.ofInt 1
  let half (v : FV) : FV := v.mul (.fin false 1 (-1))
  let zero (v : FV) : Bool := match v with | .fin _ m _ => m == 0 | _ => false
  if nshaft ≤ shaft then none
  else if leAt c 0 1 = 1 then
    if z = 0 ∨ zero bd ∨ zero pd then none
    else
      let phi := match f32 (leAt c 16 4) with
        | .fin n m e =>
          let x : Int := if n then -(m : Int) else m
          if 0 ≤ e then fixV (cosTurn (x * 2 ^ e.toNat) 360) else fixV (cosTurn x (360 * 2 ^ (-e).toNat))
        | _ => .nan
      let r := (bd.mul phi).div pd |>.1
      let cage := if rot = 1 then half (one.add r) else half (one.sub r)
      let ball := (pd.mul (one.sub (r.mul r))).div (bd.add bd)
      some [toF32 cage, FFmt.f32.encode ball.1 ball.2, toF32 (half ((FV.ofInt z).mul (one.sub r))), toF32 (half ((FV.ofInt z).mul (one.add r)))]
  else if leAt c 0 1 = 2 then
    if z = 0 ∨ z2 = 0 ∨ nshaft ≤ rot then none
    else some [intToF z, 0x3F800000, fdiv (intToF z) (intToF z2), fdiv (intToF (Nat.gcd z z2)) (intToF z2)]
  else none

/-- Load the geometry of the SIGGEO profile: the 256 marker orders, GEOBAD and a card for each invalid component. -/
def State.loadGeometry (s : State) (b : List Byte) : State :=
  let nshaft := leAt b 0 2
  let ncomp := min 64 (leAt b 2 2)
  let ratio (k : Nat) : Nat := if k = 0 then 0x3F800000 else leAt b (8 + 8 * k) 4
  (List.range 64).foldl (fun s k =>
    let c := padTo 32 ((b.drop (8 + 8 * nshaft + 32 * k)).take 32)
    let put (s : State) (l : List Nat) : State := (List.range 4).foldl (fun s j => s.rset R.SIG_MARK (l.getD j 0) (4 * k + j)) s
    if ncomp ≤ k then put s []
    else
      match componentOrders nshaft c with
      | some l => put s (l.map (fun x => fmul x (ratio (leAt c 1 1))))
      | none => ((put s []).setFlag F.SIG_STAT_GEOBAD true).card { block := 0xB, event := 1, detail := leBytes 8 k }) s

end Sys2Proof.Machine
end

