-- ==== Sys2Proof/Machine/RegWrite.lean ====
section
/-! DEFINITION. Register accesses (R8, R53, R71, R81, R129): which context may read and write a register, what a write does to each
register of the map, and what a read of it gives. -/

namespace Sys2Proof.Machine

/-- The register block of an address (Table 03-2). -/
def blockOf (a : Nat) : Nat := (a - regBase) / 0x10000

/-- Whether a register is an instance of `d` of the map. -/
def RegDesc.is (r d : RegDesc) : Bool := r.base == d.base

/-! ### Writes -/

/-- A write of a register that only holds what is written to it: RW fields take it, W1C fields clear, RWL fields follow the lock
(R8, R71). -/
def State.plainWrite (s : State) (r : Req) (d : RegDesc) (a : Nat) (v : Word) : State :=
  let old := s.rd a
  let s' := s.wr a (d.written s.locked old v)
  if s.locked && d.lockHit old v then s'.violateBy r 0x8 a else s'

/-- A write that is ignored while a condition holds. -/
def State.writeUnless (s : State) (c : Bool) (r : Req) (d : RegDesc) (a : Nat) (v : Word) : State := if c then s else s.plainWrite r d a v

/-- SYS: the wall-time offset is a staged group (R22). During set-up a write of _HI changes only its shadow too (R70). -/
def State.putSys (s : State) (setup : Bool) (a : Nat) (v : Word) : State :=
  if a = R.SYS_WALLOFS_LO.at then s.setShadow a v
  else if a = R.SYS_WALLOFS_HI.at then
    if setup then s.setShadow a v
    else (s.dropShadow R.SYS_WALLOFS_LO.at).moveWall (v.toNat * 2 ^ 32 + (s.shadow R.SYS_WALLOFS_LO.at).toNat) 1
  else s

/-- PWR (Table 19-12). A write of PWR_WAKETIME_HI applies both halves; Recess is refused during set-up. -/
def State.putPwr (s : State) (r : Req) (setup : Bool) (d : RegDesc) (a : Nat) (v : Word) : State :=
  if d.is R.PWR_DOMCTL then s.writeDomctl v
  else if d.is R.PWR_RECESS then
    if !bit v.toNat 31 then s
    else
      let s := s.fset F.PWR_RECESS_RESULT (if setup then 4 else s.recessRefusal)
      if s.fget F.PWR_RECESS_RESULT = 0 then s.enterRecess [] else s
  else if d.is R.PWR_WAKETIME_LO then s.setShadow a v
  else if d.is R.PWR_WAKETIME_HI then
    let lo := s.shadow R.PWR_WAKETIME_LO.at
    ((s.dropShadow R.PWR_WAKETIME_LO.at).wr R.PWR_WAKETIME_LO.at lo).wr a v
  else if d.is R.PWR_WDOG then s.writeWdog v
  else s.plainWrite r d a v

/-- BOOT (Tables 02-13, 02-14). -/
def State.putBoot (s : State) (r : Req) (d : RegDesc) (a : Nat) (v : Word) : State :=
  if d.is R.BOOT_CTRL then s.writeBootCtrl v else if d.is R.BOOT_REVOKE then s.writeRevoke r v else s.plainWrite r d a v

/-- MEM (Tables 03-8 to 03-27). -/
def State.putMemReg (s : State) (r : Req) (setup : Bool) (d : RegDesc) (i a : Nat) (v : Word) : State :=
  if d.is R.MEM_CTL then s.writeMemCtl v
  else if d.is R.MEM_SPLITAM || d.is R.MEM_SPLITPSM || d.is R.MEM_SPLITWBM then s.writeUnless (s.flag F.MEM_STAT_SPLITON) r d a v
  else if d.is R.MEM_REPAIR then s.writeRepair v
  else if d.is R.MEM_L1CFG then (if s.coreEnabled i && !s.flag F.DME_STAT_RETIRED i then s.writeL1Cfg r i v else s)
  else if d.is R.MEM_WBMCACHE then s.writeWbmCache v
  else if d.is R.MEM_CR_BASE || d.is R.MEM_CR_SIZE then s.writeUnless (s.flag F.MEM_CR_CFG_EN i) r d a v
  else if d.is R.MEM_CR_CFG then s.writeCrCfg r i v setup
  else if d.is R.MEM_CR_RELEASE then s.releaseRegion (s.ctxOf r) (unitOf r) i v.toNat
  else s.plainWrite r d a v

/-- MMU (Tables 04-10 to 04-23). -/
def State.putMmu (s : State) (r : Req) (d : RegDesc) (i a : Nat) (v : Word) : State :=
  if d.is R.MMU_INVAL then s.writeInval v
  else if d.is R.MMU_RESUME then s.writeResume r v
  else if d.is R.MMU_CTX_CFG then s.writeCtxCfg r i v
  else if d.is R.MMU_CTX_TDTCNT then s.writeUnless (decide (4096 < getField v 0 13)) r d a v
  else if d.is R.MMU_CTX_BELLS then s.writeBells r i v
  else if d.is R.MMU_CTX_FQBASE then s.writeUnless (bit (s.fget F.MMU_FSTAT_PEND) i) r d a v
  else if d.is R.MMU_CTX_VCAPINFO then s.writeVcap i v
  else s.plainWrite r d a v

/-- ENG (Tables 05-27 to 05-34). -/
def State.putEng (s : State) (r : Req) (d : RegDesc) (i a : Nat) (v : Word) : State :=
  if d.is R.ENG_S_CTL then s.writeEngCtl r i v
  else if d.is R.ENG_BELL then s.ring i (getField v 0 16)
  else if d.is R.ENG_BELLSET then s.fset F.ENG_BELL_VALUE (getField v 0 16) i
  else if d.is R.ENG_C_SGO then s.startGo r i v
  else if d.is R.ENG_TSTART then s.releaseTimed v
  else s.plainWrite r d a v

/-- The tile programming unit's registers (Tables 07-13 to 07-26). -/
def State.putCimp (s : State) (r : Req) (d : RegDesc) (i a : Nat) (v : Word) : State :=
  if d.is R.CIMP_RINGBASE then s.writeUnless (s.flag F.CIMP_RINGCFG_EN i) r d a v
  else if d.is R.CIMP_RINGCFG then
    let was := s.flag F.CIMP_RINGCFG_EN i
    let s := s.plainWrite r d a v
    if bit v.toNat 31 && !was then (s.rset R.CIMP_HEAD 0 i).rset R.CIMP_TAIL 0 i else s
  else if d.is R.CIMP_SWITCH then s.writeSwitch i v
  else if d.is R.CIMP_STATCFG then s.writeStatCfg i v
  else s.plainWrite r d a v

/-- STO (Tables 13-9 to 13-16). -/
def State.putSto (s : State) (r : Req) (d : RegDesc) (a : Nat) (v : Word) : State :=
  if d.is R.STO_CTL then s.writeStoCtl v
  else if d.is R.STO_RINGBASE then s.writeUnless (s.flag F.STO_RINGCFG_EN) r d a v
  else if d.is R.STO_RINGCFG then
    let was := s.flag F.STO_RINGCFG_EN
    let s := s.plainWrite r d a v
    if bit v.toNat 31 && !was then (s.rset R.STO_HEAD 0).rset R.STO_TAIL 0 else s
  else s.plainWrite r d a v

/-- LDG (Tables 14-9 to 14-20). -/
def State.putLdg (s : State) (r : Req) (d : RegDesc) (i a : Nat) (v : Word) : State :=
  if d.is R.LDG_CTL then s.writeLdgCtl v
  else if d.is R.LDG_TOVR then s.setTovr (bit v.toNat 31) (getField v 0 3) false
  else if d.is R.LDG_KEY then (if s.flag F.LDG_STAT_KEYSET then s else s.rset R.LDG_KEY v.toNat i)
  else if d.is R.LDG_KEYCTL then (if bit v.toNat 0 then s.programKey else s)
  else s.plainWrite r d a v

/-- OUT: an applied failure mode shows at once (R453). -/
def State.putOut (s : State) (r : Req) (d : RegDesc) (i a : Nat) (v : Word) : State :=
  if d.is R.OUT_AO_VALUE then s.writeAoValue i v
  else if d.is R.OUT_AO_OVR then s.setOverride i (bit v.toNat 31) (getField v 0 16) false
  else if d.is R.OUT_AO_FAIL then (s.plainWrite r d a v).aoUpdate i
  else s.plainWrite r d a v

/-- HOST (Tables 17-12 to 17-18). -/
def State.putHost (s : State) (r : Req) (d : RegDesc) (i a : Nat) (v : Word) : State :=
  if d.is R.HOST_TSYNC then (s.plainWrite r d a v).showSynced
  else if d.is R.HOST_PASSACQ then s.writePassAcq v
  else if d.is R.HOST_JR_BASE then s.writeUnless (s.flag F.HOST_JR_CFG_EN i) r d a v
  else if d.is R.HOST_RR_BASE then s.writeUnless (s.flag F.HOST_RR_CFG_EN i) r d a v
  else if d.is R.HOST_JR_CFG then s.writeJobCfg i v
  else if d.is R.HOST_RR_CFG then s.writeRingCfg i v
  else if d.is R.HOST_JR_HEAD then (if i < 8 then s.fset F.HOST_JR_HEAD_INDEX (getField v 0 12) i else s)
  else if d.is R.HOST_JR_TAIL then s.writeJobTail i v
  else if d.is R.HOST_RR_HEAD then s
  else if d.is R.HOST_RR_TAIL then s.writeRingTail i v
  else if d.is R.HOST_RR_FENCE then (if bit v.toNat 0 then s.askFence i false (s.rget R.HOST_RR_FTAG i) else s)
  else if d.is R.HOST_RR_FAUTO then s.writeRingAuto i v
  else s.plainWrite r d a v

/-- CHN (Tables 18-9, 18-10): a port that PORTEN no longer enables goes DOWN. DEDUCED, safe. -/
def State.putChn (s : State) (r : Req) (d : RegDesc) (a : Nat) (v : Word) : State :=
  if d.is R.CHN_CTL then
    let s := s.plainWrite r d a v
    let s := (List.range 3).foldl (fun s p =>
      if !bit (s.fget F.CHN_CTL_PORTEN) p && s.fget F.CHN_P_STAT_STATE p != 0 then s.portDown p else s) s
    if bit v.toNat 31 && s.domOn 6 then s.startRoll else s
  else if d.is R.CHN_MSGLEN then s.writeMsgLen v
  else s.plainWrite r d a v

/-- What a permitted write of `v` to instance `i` of a register, at address `a`, does. `setup` stands for steps 7 and 8 of the start-up
sequence: staged fields take it in their shadows, and a commit write triggers nothing (R66, R70). -/
def State.putReg (s : State) (r : Req) (setup : Bool) (d : RegDesc) (i a : Nat) (v : Word) : State :=
  match groupAt a, groupCommit a with
  | some g, _ => s.writeStaged g a v
  | none, some g => if setup || !bit v.toNat 0 then s else s.commitGroup g
  | none, none =>
    match blockOf a with
    | 0 => s.putSys setup a v
    | 1 => s.putPwr r setup d a v
    | 3 => s.putBoot r d a v
    | 4 => s.putMemReg r setup d i a v
    | 5 => s.putMmu r d i a v
    | 6 => s.putEng r d i a v
    | 25 => if d.is R.ACQ_ST_CTL then s.writeStCtl i (bit v.toNat 0) else s.plainWrite r d a v
    | 26 => s.putOut r d i a v
    | 27 => s
    | 28 => s.putSto r d a v
    | 29 => s.putLdg r d i a v
    | 30 => s.putHost r d i a v
    | 31 => s.putChn r d a v
    | b =>
      if 8 ≤ b ∧ b < 12 ∧ d.is R.CIM_CTL then s.writeCimCtl i v
      else if 12 ≤ b ∧ b < 16 then s.putCimp r d i a v
      else if 16 ≤ b ∧ b < 24 then
        (if d.is R.DME_CTL then s.writeDmeCtl i v else s.writeUnless (s.flag F.DME_STAT_RETIRED i) r d a v)
      else s.plainWrite r d a v

/-! ### Who may access what (R3, R129) -/

/-- Registers of units that the grade does not enable: they are holes (R3). -/
def State.regHole (s : State) (d : RegDesc) (i j a : Nat) : Bool :=
  let b := blockOf a
  (decide (16 ≤ b) && decide (b < 24) && !s.coreEnabled (b - 16)) ||
  (d.is R.MEM_L1CFG && !s.coreEnabled i) ||
  (d.is R.CIM_GCSERR && !decide (j < s.groupsPerDie)) ||
  ((d.is R.ENG_S_STAT || d.is R.ENG_S_PC || d.is R.ENG_S_HALT || d.is R.ENG_S_HALTPC || d.is R.ENG_S_BCNT || d.is R.ENG_S_STOP ||
    d.is R.ENG_S_CTL || d.is R.ENG_MARK) && !s.streamEnabled i)

/-- The registers of a context's start window (R153). -/
def startWindow (d : RegDesc) : Bool := d.is R.ENG_C_SDESC || d.is R.ENG_C_SGO || d.is R.ENG_C_SSTAT

/-- Whether context `c` may read a register (R129, and what the chapters of the blocks grant). -/
def mayRead (c : Nat) (d : RegDesc) (i a : Nat) : Bool :=
  c == 0 || c == 6 || c == 7 || (blockOf a == 6 && (c == 5 || (startWindow d && c == i)))

/-- Whether context `c` may write a register: home, but for the SAFE block and the start windows, and whom a chapter names beside it. -/
def State.mayWrite (s : State) (c : Nat) (d : RegDesc) (i a : Nat) : Bool :=
  if blockOf a = 27 then c == 7
  else if startWindow d then c == i
  else if d.is R.ENG_BELL || d.is R.ENG_BELLSET then c == 0 || s.bellOf c i
  else if d.is R.MEM_CR_RELEASE then c == 0 || c == s.fget F.MEM_CR_CFG_CTX i
  else if d.is R.SIG_ST_CTL then c == 0 || c == 5
  else if d.is R.STO_HEAD then c == 0 || c == s.fget F.STO_RINGCFG_CTX
  else if d.is R.CIMP_HEAD then c == 0 || c == s.fget F.CIMP_RINGCFG_CTX i
  else if d.is R.DME_CTL || d.is R.HOST_PASS then c == 0 || c == 7
  else if d.is R.ENG_S_CTL then true
  else c == 0

/-- The violation kind of a write that is not permitted: a bell outside the range, a RELEASE by another context, or another register. -/
def refusedKind (d : RegDesc) : Nat := if d.is R.ENG_BELL || d.is R.ENG_BELLSET then 0xA else if d.is R.MEM_CR_RELEASE then 0x9 else 0x5

/-- The state a command of its own row leaves. -/
def outState (o : Out State) (s : State) : State := match o with | .next t => t | _ => s

/-- The registers that rows of their own write for requesters beside home. -/
def State.agentWrite (s : State) (r : Req) (d : RegDesc) (i : Nat) (v : Word) : Option State :=
  if d.is R.LDG_CTL && bit v.toNat 2 then some (outState (execMaxDemandClear r v s) s)
  else if d.is R.LDG_TOVR then some (outState (execTariffOverrideWrite r v s) s)
  else if d.is R.OUT_AO_OVR then some (outState (execAoOverrideWrite r (Fin.ofNat 4 i) v s) s)
  else if d.is R.HOST_PASS then some (outState (execHallPassRevoke r (Fin.ofNat 8 i) v s) s)
  else if d.is R.SAFE_INJECT then some (outState (execSafeInject r v s) s)
  else none

/-- A write of `v` to the register at address `a` by `r`: a request in a disabled context, to a hole, to a reserved offset or of a
register not permitted to the context is a violation (R128, R129, R137). -/
def State.regWrite (s : State) (r : Req) (a : Nat) (v : Word) : State :=
  let c := s.ctxOf r
  if !s.reqOn r then s
  else if !s.ctxEnabled c then s.violateBy r 0xD a
  else
    match findReg a with
    | none => s.violateBy r (if a < regBase + 0x200000 then 0x6 else 0x4) a
    | some (d, i, j) =>
      if s.regHole d i j a then s.violateBy r 0x4 a
      else
        match s.agentWrite r d i v with
        | some t => t
        | none => if s.mayWrite c d i a then s.putReg r false d i a v else s.violateBy r (refusedKind d) a

/-- REGISTER_WRITE: a 4-byte write of a register. One whose write has a row of its own acts as that row says. -/
def execRegisterWrite (r : Req) (a : Addr) (v : Word) (s : State) : Out State := .next (s.regWrite r (a.toNat / 4 * 4) v)

/-! ### Reads -/

/-- ENG_Sn_STAT (Table 05-22). -/
def State.engStat (s : State) (n : Nat) : Nat :=
  let x := s.stream n
  let who (p : Prog) : Nat := p.start.cls * 2 ^ 24 + p.start.ctx * 2 ^ 20
  let top := match x.run with
    | some p => (if p.phase = .waiting then 2 else 1) * 2 ^ 29 + who p
    | none =>
      (if x.follows.isSome then 4 else if x.saved.any (·.susp) then 3 else if x.held ≠ [] then 5 else 0) * 2 ^ 29
  top + x.halted % 256 * 256 + min 255 (x.queue.length + x.held.length)

/-- The groups of die `d` that have a slot, deck switch or commit in progress (CIM_STAT.BUSY). -/
def State.cimBusy (s : State) (d : Nat) : Nat :=
  match (s.stream d).run with
  | none => 0
  | some p => ((List.range 16).filter (fun g => p.ops.any (fun o => o.started && !o.finished && o.opc == 0x10 &&
      o.tiles.any (fun (t : TileRef) => t.group == g)))).foldl (fun m g => m + 2 ^ g) 0

/-- The commands of die `d` whose tile is in the darkroom (R231). -/
def State.darkCmds (s : State) (d : Nat) : List TileCmd := (s.cmds d).filter (fun c => c.running && (c.op == 3 || c.op == 4) && !c.out)

/-- CIM_STAT.DARK: the groups that have a tile in the darkroom. -/
def State.cimDark (s : State) (d : Nat) : Nat :=
  ((List.range 16).filter (fun g => (s.darkCmds d).any (fun c => c.tile / 72 == g))).foldl (fun m g => m + 2 ^ g) 0

/-- What instance `(i, j)` of a register holds: those that show what a unit is doing are computed, the others stored. -/
def State.liveReg (s : State) (d : RegDesc) (i j a : Nat) : Nat :=
  let x := s.stream i
  if d.is R.SYS_TIMEBASE_LO then s.now % 2 ^ 32
  else if d.is R.SYS_TIMEBASE_HI then s.now / 2 ^ 32
  else if d.is R.SYS_WALLTIME_LO then s.wallTime % 2 ^ 32
  else if d.is R.SYS_WALLTIME_HI then s.wallTime / 2 ^ 32
  else if d.is R.BOOT_CONFLEFT then s.confirmLeft / 1000000
  else if d.is R.ENG_S_STAT then s.engStat i
  else if d.is R.ENG_S_PC then (match x.run with | some p => p.pc | none => x.lastPc)
  else if d.is R.ENG_S_BCNT then min 0xFFFFFFFF (match x.run with | some p => p.bcnt | none => x.lastBcnt)
  else if d.is R.ENG_MARK then ((match x.run with | some p => p.marks | none => x.lastMarks).getD j 0).toNat
  else if d.is R.CIM_STAT then s.cimBusy i * 65536 + s.cimDark i
  else if d.is R.CIMP_STAT then (s.darkCmds i).length * 65536 + (s.cmds i).countP (·.running)
  else if d.is R.SIG_STAT then (s.rd a).toNat / 16 * 16 + s.bankBits
  else if d.is R.LDG_SEGKJ then ofSigned 32 (kJ s.ledger.epos - kJ s.ledger.segPos)
  else if d.is R.HOST_PASS then
    (s.rd a).toNat / 65536 * 65536 + (match s.hosts.passes.find? (fun y => y.1 == i) with
      | some y => min 65535 ((y.2.ends - s.now) / 1000000000)
      | none => 0)
  else (s.rd a).toNat

/-- The counters whose low half latches the high half (R20, R21, Tables 06-15, 14-15): the key of the latch, low and high address. -/
def latchPairs : List (Nat × Nat × Nat) :=
  [(0, R.SYS_TIMEBASE_LO.at, R.SYS_TIMEBASE_HI.at), (1, R.SYS_WALLTIME_LO.at, R.SYS_WALLTIME_HI.at),
   (2, R.LDG_NEXTB_LO.at, R.LDG_NEXTB_HI.at)] ++
  (List.range 4).map (fun d => (3 + d, R.CIM_EXPLO.at d, R.CIM_EXPHI.at d))

/-- The latch of a requester. -/
def latchKey (r : Req) (k : Nat) : Nat := unitOf r * 8 + k

/-- The value of a register by address; WO fields read 0. -/
def State.regValue (s : State) (a : Nat) : Word :=
  match findReg a with
  | some (d, i, j) => BitVec.ofNat 32 (s.liveReg d i j a) &&& ~~~(d.mask .wo)
  | none => 0

/-- A 4-byte read that is permitted: a high half gives the requester's latch, a low half fills it (R20). -/
def State.readWord (s : State) (r : Req) (a : Nat) : Word × State :=
  match latchPairs.find? (fun x => x.2.2 == a) with
  | some x => (Sparse.get (fun _ => (0 : Word)) s.latches (latchKey r x.1), s)
  | none =>
    match latchPairs.find? (fun x => x.2.1 == a) with
    | some x => (s.regValue a, { s with latches := Sparse.put (fun _ => (0 : Word)) s.latches (latchKey r x.1) (s.regValue x.2.2) })
    | none => (s.regValue a, s)

/-- Whether `r` may read the register at `a`: the violation kind if not. -/
def State.readRefusal (s : State) (r : Req) (a : Nat) : Option Nat :=
  if !s.ctxEnabled (s.ctxOf r) then some 0xD
  else
    match findReg a with
    | none => some (if a < regBase + 0x200000 then 0x6 else 0x4)
    | some (d, i, j) =>
      if s.regHole d i j a then some 0x4 else if mayRead (s.ctxOf r) d i a then none else some 0x5

/-- A 4-byte register read by `r`: the word, 0 for a violation (R137). -/
def State.regRead (s : State) (r : Req) (a : Nat) : Word × State :=
  match s.readRefusal r a with
  | some k => (0, s.violateBy r k a)
  | none => s.readWord r a

/-- An 8-byte register read: two registers of one instant, without latching (R20). -/
def State.regRead8 (s : State) (r : Req) (a : Nat) : Nat × State :=
  let one (s : State) (a : Nat) : Nat × State :=
    match s.readRefusal r a with
    | some k => (0, s.violateBy r k a)
    | none => ((s.regValue a).toNat, s)
  let x := one s a
  let y := one x.2 (a + 4)
  (x.1 + 2 ^ 32 * y.1, y.2)

/-- LATCHING_LO_READ: a 4-byte read of the low half of a 64-bit counter. -/
def execLatchingLoRead (r : Req) (a : Addr) (s : State) : Out State :=
  .next (
    if !s.reqOn r || !latchPairs.any (fun x => x.2.1 == a.toNat) then s
    else
      let x := s.regRead r a.toNat
      x.2.respond false (leBytes 4 x.1.toNat))

end Sys2Proof.Machine
end

