-- ==== Sys2Proof/Machine/Access.lean ====
section
/-! DEFINITION. Single accesses by physical address (R79, R80, R83, R86, R87, R112, R113): the narrow view of the control cores and the
wide view of blocks, wherever they fall in the physical map. -/

namespace Sys2Proof.Machine

/-- The domain that feeds a memory is on, and its weight die's link is up (Table 03-3, R12, R532). -/
def State.locOn (s : State) : Loc → Bool
  | .am | .psm | .wbm | .tcm _ => s.domOn 3
  | .l1 _ => s.domOn 4
  | .dam d => s.dieOn d && !s.dieDown d
  | .proc => s.domOn 1
  | _ => true

/-- Whether a requester reaches a memory (Table 03-1, last column, and R80 for writes). The column is read as leaving the access of
any other requester a hole. DEDUCED, safe. -/
def State.reaches (s : State) (r : Req) (write : Bool) : Loc → Bool
  | .rom => !write && (match r with | .core _ => true | _ => false)
  | .ao => (match r with | .core _ | .proctor => true | _ => false)
  | .tcm p => (match r with | .core q => q.val == p | .stream n => decide (14 ≤ n.val) | _ => false)
  | .proc => !write || r == .proctor || (r == .core 0 && decide (s.boot.step < 8))
  | .am | .psm | .wbm | .l1 _ | .dam _ => true
  | _ => false

/-- Whether a requester has the wide view of a memory (Table 03-3). An expander serves its data mover. -/
def State.reachesWide (s : State) (r : Req) (write : Bool) (l : Loc) : Bool :=
  s.reaches r write l &&
  (match l, r with
   | .am, _ | .psm, _ | .wbm, _ | .dam _, _ => true
   | .l1 n, .stream m => m.val == 4 + n || decide (14 ≤ m.val)
   | .tcm _, .stream m => decide (14 ≤ m.val)
   | _, _ => false)

/-- A violation by an access: a read answers `n` zero bytes (and the tag of an all-zero block on the wide view), a write is dropped
(R137). -/
def State.refuse (s : State) (r : Req) (write : Bool) (kind a n : Nat) : State :=
  (s.violateBy r kind a).respond false (if write then [] else leBytes n 0 ++ (if n = 256 then leBytes 4 (crc32c (leBytes 256 0)) else []))

/-- Whether a narrow access of `n` bytes lies in one 8-byte word, aligned (R87). -/
def narrowOk (a n : Nat) : Bool := a % n == 0

/-- A narrow access of SRAM (R83, R87, R112). An uncorrectable word read, or stored to in part, is an access fault and the store is
dropped; a store of all 8 bytes replaces the word. -/
def State.narrowMem (s : State) (write : Bool) (a n : Nat) (v : DWord) (ecc : Ecc) : State :=
  let s := if ecc = .corrected then s.eccCorrected else s
  let s := if ecc = .uncorrectable then { s with mem := s.mem.setEcc (a / 8) true } else s
  let bad := s.mem.isEccBad (a / 8) || ecc == .once
  if write then
    if bad && n != 8 then s.respond true [] else (s.store a (leBytes n v.toNat)).respond false []
  else if bad then s.respond true [] else s.respond false (s.load a n)

/-- A byte of the boot ROM, which the spec does not give. -/
def romBytes (a n : Nat) : List Byte := (List.range n).map (fun i => Config.bootRomByte (a + i))

/-- A narrow register access: 4 and 8 bytes as R8 and R20 state. One of 1 or 2 bytes acts on its part of the register: a read gives that
part, a write leaves the other RW bits as they are. DEDUCED, safe. -/
def State.narrowReg (s : State) (r : Req) (write : Bool) (a n : Nat) (v : DWord) : State :=
  let lo := BitVec.ofNat 32 v.toNat
  if write then
    if n = 8 then ((s.regWrite r a lo).regWrite r (a + 4) (BitVec.ofNat 32 (v.toNat / 2 ^ 32))).respond false []
    else if n = 4 then (s.regWrite r a lo).respond false []
    else
      let b := a / 4 * 4
      let k := 8 * (a % 4)
      let keep := match findReg b with
        | some (d, _, _) => s.rd b &&& (d.mask .rw ||| d.mask .rwl)
        | none => 0
      (s.regWrite r b (setField keep k (8 * n) lo.toNat)).respond false []
  else if n = 8 then
    let x := s.regRead8 r a
    x.2.respond false (leBytes 8 x.1)
  else
    let x := s.regRead r (a / 4 * 4)
    x.2.respond false (((leBytes 4 x.1.toNat).drop (a % 4)).take n)

/-- A narrow access of a deck-map and calibration window: contexts 0, 5, 6 and 7 read it, nobody writes it (R216). -/
def State.narrowCim (s : State) (r : Req) (write : Bool) (a n : Nat) : State :=
  let o := a - 0x2000000000
  let c := s.ctxOf r
  if decide (4 * 0x1000000 ≤ o) then s.refuse r write 0x4 a n
  else
    match s.cimWindowByte (o / 0x1000000) (o % 0x1000000) with
    | none => s.refuse r write 0x4 a n
    | some _ =>
      if write || !(c == 0 || c == 5 || c == 6 || c == 7) then s.refuse r write 0x5 a n
      else
        s.respond false ((List.range n).map (fun i => (s.cimWindowByte (o / 0x1000000) (o % 0x1000000 + i)).getD 0))

/-- How many bits the read of a storage word needed corrected, as its requester's operand says (Table 13-2). -/
def eccWorst : Ecc → Fin 4
  | .corrected => 1
  | .uncorrectable => 3
  | _ => 0

/-- The bytes of an 8-byte answer that a smaller read asked for. -/
def State.cutAnswer (s : State) (k n : Nat) : State := { s with resp := { s.resp with data := (s.resp.data.drop k).take n } }

/-- NARROW_ACCESS: `r` reads or writes up to 8 bytes at `a`. `ecc` is how the word's check bits were met, `rivals` the ports and classes
that ask for the bank in the same slot. An access that does not get the slot waits: it is sent again as a command of its own. -/
def execNarrowAccess (r : Req) (write : Bool) (a : Addr) (sz : NSize) (v : DWord) (ecc : Ecc) (rivals : List (Fin 8 × Fin 6)) (s : State) :
    Out State :=
  .next (
    let n := sz.bytes
    let p := a.toNat
    if !s.reqOn r || !narrowOk p n then s
    else if !s.ctxEnabled (s.ctxOf r) then s.refuse r write 0xD p n
    else
      match s.loc p with
      | .regs => s.narrowReg r write p n v
      | .cim => s.narrowCim r write p n
      | .store _ =>
        if write then s.refuse r write 0x4 p n
        else (match execStorageWindowRead r a false (eccWorst ecc) s with | .next t => t.cutAnswer (p % 8) n | _ => s)
      | l =>
        if !s.reaches r write l then s.refuse r write 0x4 p n
        else if l == .rom then s.respond false (romBytes p n)
        else
          let g := s.slotFor r p rivals
          if !g.1 then g.2
          else if !s.locOn l then
            if write then g.2.respond false []
            else
              let x := g.2.draw
              x.2.respond false (leBytes n x.1)
          else g.2.narrowMem write p n v ecc)

/-- The stream number of a requester, 0xFF where it is none. -/
def engineOf : Req → Nat
  | .stream n => n.val
  | _ => 0xFF

/-- A stream that consumed a bad block halts with reason 0x0C (R83, R113); another requester sees the error. -/
def State.consumerFail (s : State) (r : Req) (a : Nat) : State :=
  (match r with | .stream n => s.halt n.val 0x0C 15 0xFFFF a | _ => s).respond true []

/-- A wide read of a block of SRAM whose check bits `ecc` describes; `check` says whether the consumer verifies the tag (R113, R114).
The answer is the 256 bytes and the tag. -/
def State.wideRead (s : State) (r : Req) (a : Nat) (check : Bool) (ecc : Ecc) : State :=
  let blk := a / 256
  let s := if ecc = .corrected then s.eccCorrected else s
  let s := if ecc = .uncorrectable then { s with mem := s.mem.setEcc (a / 8) true } else s
  let tagged := (s.loc a).tagged
  if (List.range 32).any (fun i => s.mem.isEccBad (a / 8 + i)) then (s.eccFail a (s.ctxOf r) (engineOf r)).consumerFail r a
  else if check && tagged && !s.mem.tagOk blk then (s.tagFail a (s.ctxOf r) (engineOf r)).consumerFail r a
  else
    let s := if check && tagged && ecc == .tagOnce then s.count R.MEM_TAGERR else s
    let tag := if tagged then s.mem.tag blk else BitVec.ofNat 32 (crc32c (s.load a 256))
    s.respond false (s.load a 256 ++ leBytes 4 tag.toNat)

/-- A wide write of a whole block with the tag it carries (R111). -/
def State.wideWrite (s : State) (a : Nat) (data : List Byte) (tag : Word) : State :=
  let d := padTo 256 data
  if (s.loc a).tagged then
    { s with mem := s.mem.writeBlock (a / 256) d (tag ^^^ BitVec.ofNat 32 (crc32c d)) }.respond false []
  else (s.store a d).respond false []

/-- The check tag that goes with a block the storage controller reads out (R115). -/
def State.tagAnswer (s : State) : State :=
  if s.resp.error || s.resp.data.length != 256 then s
  else { s with resp := { s.resp with data := s.resp.data ++ leBytes 4 (crc32c s.resp.data) } }

/-- WIDE_ACCESS: `r` reads or writes the 256-byte block at `a`, with its check tag `tag`. -/
def execWideAccess (r : Req) (write : Bool) (a : Addr) (data : List Byte) (tag : Word) (check : Bool) (ecc : Ecc)
    (rivals : List (Fin 8 × Fin 6)) (s : State) : Out State :=
  .next (
    let p := a.toNat
    if !s.reqOn r || p % 256 != 0 then s
    else if !s.ctxEnabled (s.ctxOf r) then s.refuse r write 0xD p 256
    else
      match s.loc p with
      | .store _ =>
        if write then s.refuse r write 0x4 p 256
        else (match execStorageWindowRead r a true (eccWorst ecc) s with | .next t => t.tagAnswer | _ => s)
      | l =>
        if !s.reachesWide r write l then s.refuse r write 0x4 p 256
        else
          let g := s.slotFor r p rivals
          if !g.1 then g.2
          else if !s.locOn l then
            if write then g.2.respond false []
            else
              let x := g.2.draw
              x.2.respond false (leBytes 260 x.1)
          else if write then g.2.wideWrite p data tag
          else g.2.wideRead r p check ecc)

end Sys2Proof.Machine
end

