-- ==== Sys2Proof/Machine/Setup.lean ====
section
/-! DEFINITION. The set-up sections of a configuration image as step 8 of the start-up sequence applies them (R50 to R53, R63, R70): the
basic profiles (Tables 10-7, 14-1, 17-2 and 18-8, R341, R463), the placements of the MODEL sections (R224, R276), the expert entries, and
the commit of the staged groups. -/

namespace Sys2Proof.Machine

/-! ### Basic profiles -/

/-- Put a value into the shadow of a staged field (R70). -/
def State.setUp (s : State) (f : Fld) (v : Nat) (i : Nat := 0) : State :=
  let a := f.reg.at i
  s.setShadow a (setField (s.shadow a) f.lo f.width v)

/-- Apply a field of `n` bytes at offset `o` of a profile that reaches it (R51). -/
def State.profileField (s : State) (p : List Byte) (o n : Nat) (f : State → Nat → State) : State :=
  if o + n ≤ p.length then f s (leAt p o n) else s

/-- A profile's members, period, region and edge limit of stream definition `n` (Table 10-7). -/
def State.applyStreamDef (s : State) (p : List Byte) (n : Nat) : State :=
  let o := 20 * n
  let s := s.profileField p (40 + o) 4 (fun s v => s.setUp F.ACQ_ST_MEMB0_MEMB v n)
  let s := s.profileField p (44 + o) 4 (fun s v => s.setUp F.ACQ_ST_MEMB1_MEMB v n)
  let s := s.profileField p (48 + o) 4 (fun s v => s.setUp F.ACQ_ST_MEMB2_MEMB v n)
  let s := s.profileField p (52 + o) 4 (fun s v => s.setUp F.ACQ_ST_PERIOD_CYCLES (if v = 0 then 16666667 else v) n)
  let s := s.profileField p (56 + o) 1 (fun s v => s.setUp F.ACQ_ST_REGION_CR v n)
  s.profileField p (58 + o) 2 (fun s v => s.setUp F.ACQ_ST_REGION_EDGEMAX (if v = 0 then 4096 else v) n)

/-- The ACQ profile (Table 10-7). -/
def State.applyAcq (s : State) (p : List Byte) : State :=
  let s := (List.range 16).foldl (fun s i => s.profileField p i 1 (fun s v =>
    (((s.setUp F.ACQ_VCH_CFG_MODE (bits v 0 2) i).setUp F.ACQ_VCH_CFG_ICUR (bits v 2 2) i).setUp F.ACQ_VCH_CFG_RANGE (bits v 4 2) i).setUp
      F.ACQ_VCH_CFG_RATE (bits v 6 2) i)) s
  let s := (List.range 2).foldl (fun s i => s.profileField p (16 + i) 1 (fun s v =>
    (s.setUp F.ACQ_AE_CFG_EN (bits v 0 1) i).setUp F.ACQ_AE_CFG_GAIN (bits v 1 1) i)) s
  let s := (List.range 4).foldl (fun s i => s.profileField p (18 + i) 1 (fun s v =>
    (s.setUp F.ACQ_SP_CFG_MODE (bits v 0 2) i).setUp F.ACQ_SP_CFG_EDGE (bits v 2 2) i)) s
  let s := (List.range 8).foldl (fun s i => s.profileField p (22 + i) 1 (fun s v => s.setUp F.ACQ_SL_CFG_MODE (bits v 0 2) i)) s
  let s := (List.range 4).foldl (fun s i => s.profileField p (30 + i) 1 (fun s v =>
    let s := (s.setUp F.ACQ_DP_CFG_MODE (bits v 0 2) i).setUp F.ACQ_DP_CFG_RATE (bits v 2 2) i
    if bits v 0 2 = 0 then s else s.setUp F.ACQ_DP_CFG_SLOTEN 0xFFFF i)) s
  let s := s.profileField p 34 2 (fun s v => (List.range 16).foldl (fun s n => s.writeStCtl n (bit v n)) s)
  (List.range 16).foldl (fun s n => s.applyStreamDef p n) s

/-- The OUT profile (R463). -/
def State.applyOut (s : State) (p : List Byte) : State :=
  (List.range 4).foldl (fun s n =>
    let o := 16 * n
    let s := s.profileField p o 1 (fun s v => s.setUp F.OUT_AO_CFG_RANGE v n)
    let s := s.profileField p (o + 1) 1 (fun s v => (s.fset F.OUT_AO_FAIL_FMODE (bits v 0 2) n).fset F.OUT_AO_FAIL_FSAFE (bits v 2 1) n)
    let s := s.profileField p (o + 2) 2 (fun s v => s.fset F.OUT_AO_FAIL_TMO v n)
    let s := s.profileField p (o + 4) 4 (fun s v => s.setUp F.OUT_AO_LO_BOUND v n)
    let s := s.profileField p (o + 8) 4 (fun s v => s.setUp F.OUT_AO_HI_BOUND v n)
    s.profileField p (o + 12) 2 (fun s v => s.fset F.OUT_AO_VALUE_VALUE v n)) s

/-- Ring pair `q` of the HOSTCTX profile. A size above 4,096 names no ring. -/
def State.applyRingPair (s : State) (p : List Byte) (q : Nat) : State :=
  let o := 640 + 16 * q
  let size (k : Nat) : Nat := if leAt p k 2 ≤ 4096 then leAt p k 2 else 0
  let s := (s.fset F.HOST_JR_BASE_PPN (leAt p o 4) q).fset F.HOST_RR_BASE_PPN (leAt p (o + 4) 4) q
  let s := if size (o + 8) = 0 then s else s.writeJobCfg q (BitVec.ofNat 32 (2 ^ 31 + size (o + 8) - 1))
  let s := if size (o + 10) = 0 then s else s.writeRingCfg q (BitVec.ofNat 32 (2 ^ 31 + size (o + 10) - 1))
  s.writeRingAuto q (BitVec.ofNat 32 (leAt p (o + 12) 4))

/-- Bind host `h`, or report why it is not bound (R471, R472, Table 17-20). Of several hosts on the SPI target the first is bound.
DEDUCED from the wording of reason 3, safe. -/
def State.bindHost (s : State) (h : Nat) : State :=
  let x := s.hostX h
  if leAt x.conf 0 1 ≠ 1 then s
  else
    let key := keyUnwrap s.boot.unitKey ((x.conf.drop 32).take 40)
    let second := x.port == 3 && (List.range h).any (fun k => leAt (s.hostX k).conf 0 1 == 1 && (s.hostX k).port == 3)
    let why := if key = none then 1 else if leAt s.hosts.conf (64 * x.port) 1 ≠ 1 then 2 else if second then 3 else 0
    if why ≠ 0 then s.hostCard 1 [BitVec.ofNat 8 h, BitVec.ofNat 8 why]
    else (s.setHostX h { x with key := key }).fset F.HOST_STAT_BOUND (s.fget F.HOST_STAT_BOUND ||| 2 ^ h)

/-- The HOSTCTX profile (Table 17-2). -/
def State.applyHosts (s : State) (p : List Byte) : State :=
  let s := s.setHosts { s.hosts with conf := padTo 256 p }
  let s := (List.range 4).foldl (fun s h => s.setHostX h { s.hostX h with conf := padTo 96 (p.drop (256 + 96 * h)) }) s
  let s := (List.range 4).foldl (fun s h => s.bindHost h) s
  let s := if leAt s.hosts.conf 192 1 = 1 then s.fset F.HOST_STAT_LINK (s.fget F.HOST_STAT_LINK ||| 8) else s
  (List.range 16).foldl (fun s q => s.applyRingPair p q) s

/-- The LEDGER profile, kept whole; a DEMMIN that does not divide 60 is reported (R397). The spec gives that card no event code: it is a
free value. -/
def State.applyLedger (s : State) (p : List Byte) : State :=
  let s := s.setLedger { s.ledger with profile := padTo 192 p }
  let m := leAt p 2 1
  if m ≠ 0 ∧ 60 % m ≠ 0 then
    let x := s.draw
    x.2.card { block := 0x10, event := x.1 % 256, detail := [BitVec.ofNat 8 m] }
  else s

/-- An inbound window of the CHAIN profile: enabled where it has a size. -/
def State.applyInbound (s : State) (p : List Byte) (w : Nat) : State :=
  let o := 32 + 16 * w
  let s := (s.fset F.CHN_IW_BASE_PPN (leAt p o 8 / 4096) w).fset F.CHN_IW_SIZE_PAGES (leAt p (o + 8) 4) w
  (s.fset F.CHN_IW_CFG_CTX (leAt p (o + 12) 1) w).setFlag F.CHN_IW_CFG_EN (decide (leAt p (o + 8) 4 ≠ 0)) w

/-- The CHAIN profile (Table 18-8). -/
def State.applyChain (s : State) (p : List Byte) : State :=
  let s := s.setChn { s.chn with conf := padTo 96 p }
  let s := s.fset F.CHN_CTL_PORTEN (if bits (leAt p 0 1) 0 3 = 0 then 7 else bits (leAt p 0 1) 0 3)
  let s := s.fset F.CHN_CTL_ROOTPRIO (if leAt p 1 1 = 0 then 128 else leAt p 1 1)
  let s := (s.fset F.CHN_CTL_FIXADDR (leAt p 2 2)).setFlag F.CHN_CTL_TIMEEN (leAt p 7 1 != 1)
  let f := leAt p 6 1
  let s := ((s.setFlag F.CHN_FWD_CARDS (bit f 0)).setFlag F.CHN_FWD_SAFECARDS (bit f 1)).setFlag F.CHN_FWD_LEDGER (bit f 2)
  let s := s.fset F.CHN_FWD_COLLECT (leAt p 8 2)
  let s := (s.rset R.CHN_ARRMASK_LO (leAt p 16 4)).rset R.CHN_ARRMASK_HI (leAt p 20 4)
  let s := (s.fset F.CHN_DIRBASE_PPN (leAt p 24 8 / 4096)).setFlag F.CHN_DIRBASE_EN (bit (leAt p 24 8) 63)
  (List.range 4).foldl (fun s w => s.applyInbound p w) s

/-- The TDT section of context `n`: its profile's bytes are the descriptors from handle 0 on, as far as the context's table reaches.
DEDUCED: the spec lays out no field of this profile and says that the section places the descriptors. Unsafe. -/
def State.applyTdt (s : State) (n : Nat) (p : List Byte) : State :=
  s.store (s.fget F.MMU_CTX_TDTBASE_PPN n * 4096) (p.take (64 * s.fget F.MMU_CTX_TDTCNT_CNT n))

/-! ### Placements (R224, R276, R208) -/

/-- The memory records of a placement, in the order of R276: destination and bytes. -/
def State.placementRecords (s : State) (x : Placement) : List (Nat × List Byte) :=
  x.descs.map (fun d => (s.fget F.MMU_CTX_TDTBASE_PPN d.2.1 * 4096 + 64 * d.1, d.2.2)) ++
  x.copies.map (fun c => (c.2.2, s.sto.read c.2.1 c.1))

/-- The six registers of a layer entry. -/
def layerDescs : List RegDesc := [R.CIM_LT_GEOM, R.CIM_LT_COLS, R.CIM_LT_FUNC, R.CIM_LT_WIDE, R.CIM_LT_PARAM, R.CIM_LT_TABLE]

/-- Apply a placement's records. -/
def State.applyPlacement (s : State) (x : Placement) : State :=
  let l := s.placementRecords x
  let s := l.foldl (fun s r => s.store r.1 r.2) s
  let s := s.setBoot { s.boot with reapply := s.boot.reapply ++ l }
  x.layers.foldl (fun s y => (layerDescs.zip y.2.2).foldl (fun s z => s.rset z.1 z.2.toNat y.1 y.2.1) s) s

/-- The logical deck that a placement selects at a position, unless an earlier model's placement names one (R208). `named` are the
positions named so far. -/
def State.selectNamed (x : State × List Nat) (a : Assign) : State × List Nat :=
  let k := a.die * 1024 + a.group * 64 + a.pos
  if x.2.contains k then x else (x.1.selectDeck a.die a.group a.pos a.deck, k :: x.2)

/-- A MODEL section: the first placement that fits is taken. -/
def State.applyModel (x : State × List Nat) (m : Section) : State × List Nat :=
  match m.placements.find? x.1.placementFits with
  | none => x
  | some y => y.assigns.foldl State.selectNamed (x.1.applyPlacement y, x.2)

/-! ### The sections in their order (R63) -/

/-- An expert entry: a write of the register during set-up; one of a unit that the grade does not enable reaches a hole (R3, R53). -/
def State.applyExpert (s : State) (e : Nat × Word) : State :=
  match findReg e.1 with
  | none => s
  | some (d, i, j) => if s.regHole d i j e.1 then s else s.putReg (.core 0) true d i e.1 e.2

/-- The sections of a type in instance order. -/
def sectionsOf (l : List Section) (t : Nat) : List Section :=
  (l.filter (fun x => x.typ == t)).mergeSort (fun a b => decide (a.inst ≤ b.inst))

/-- The profile of a section; that of an absent one is empty. -/
def profileOf (l : List Section) (t : Nat) : List Byte := ((sectionsOf l t).head?).elim [] Section.profile

/-- The basic profile of a section, then its expert entries (R51). The profiles of PWRCLK, MEMSET, CONTEXT and EXPERT have no field that
the spec lays out: they set nothing. DESIGN CHOICE, unsafe. -/
def State.applySection (s : State) (x : Section) : State :=
  let p := x.profile
  let s := match x.typ with
    | 0x04 => s.applyTdt x.inst p
    | 0x06 => s.applyAcq p
    | 0x07 => s.loadGeometry p
    | 0x08 => s.applyOut p
    | 0x0A => s.applyHosts p
    | 0x0B => s.applyLedger p
    | 0x0C => s.applyChain p
    | _ => s
  x.experts.foldl State.applyExpert s

def State.applyAll (s : State) (l : List Section) (t : Nat) : State := (sectionsOf l t).foldl State.applySection s

/-- The MODEL sections: placements in instance order, with each section's expert entries behind its placement. -/
def State.applyModels (s : State) (l : List Section) : State :=
  ((sectionsOf l 5).foldl (fun (x : State × List Nat) m =>
    let y := State.applyModel x m
    (m.experts.foldl State.applyExpert y.1, y.2)) (s, [])).1

/-- Hand the safety parameters to Proctor, which takes them at step 9 (R63, R427). -/
def State.applySafety (s : State) (l : List Section) : State :=
  match (sectionsOf l 9).head? with
  | some x => s.setSafe { s.safe with params := x.params }
  | none => s

/-- A region whose bell is outside its context's range at the end of set-up: BELLEN clears, and a card names the region (R105). -/
def State.bellCheck (s : State) : State :=
  (List.range 64).foldl (fun s n =>
    if s.flag F.MEM_CR_CFG_BELLEN n && !s.bellOf (s.fget F.MEM_CR_CFG_CTX n) (s.fget F.MEM_CR_CFG_BELL n) then
      (s.setFlag F.MEM_CR_CFG_BELLEN false n).card { block := 5, event := 4, detail := [BitVec.ofNat 8 n] }
    else s) s

/-- The wall-time offset, like every staged group, is committed once: it applies where set-up wrote a shadow (R22, R70). -/
def State.commitWall (s : State) : State :=
  let lo := R.SYS_WALLOFS_LO.at
  let hi := R.SYS_WALLOFS_HI.at
  if s.shadows.any (fun x => x.1 == lo || x.1 == hi) then
    let v := (s.shadow hi).toNat * 2 ^ 32 + (s.shadow lo).toNat
    ((s.dropShadow lo).dropShadow hi).moveWall v 1
  else s

/-- Step 8 up to the commit of the staged groups: every section applies in the order of R63 (R70, R105, R495). -/
def State.applySetups (s : State) (l : List Section) : State :=
  let s := ([0x0D, 0x0E, 0x0F, 0x04] : List Nat).foldl (fun s t => s.applyAll l t) s
  let s := (s.applySafety l).applyAll l 0x08
  let s := ((s.applyAll l 0x06).applyAll l 0x07).applyModels l
  let s := (s.applyAll l 0x0A).applyAll (if (sectionsOf l 0x0B).isEmpty then [⟨0x0B, 0, 0, []⟩] else l) 0x0B
  let s := (s.applyAll (if (sectionsOf l 0x0C).isEmpty then [⟨0x0C, 0, 0, []⟩] else l) 0x0C).applyAll l 0xFF
  let s := (allGroups.foldl State.applyGroup s).commitWall
  s.bellCheck

/-- The enabled Shunto ports begin training (R495). -/
def State.trainPorts (s : State) : State :=
  (setBits 3 (s.fget F.CHN_CTL_PORTEN)).foldl (fun s p => s.fset F.CHN_P_STAT_STATE 1 p) s

end Sys2Proof.Machine
end

