-- ==== Sys2Proof/Machine/Boot.lean ====
section
/-! DEFINITION. The start-up sequence (R62): reset release, choosing and loading a slot (R56 to R59), the installation of an update (R73),
enrolment (R75), set-up, and what follows once the field die is ready: Proctor, the tile health check, the ledger, the streams. A
start-up happens within the command that starts it; TIMEBASE does not advance, the bounds of Table 02-6 being upper bounds. -/

namespace Sys2Proof.Machine

/-! ### Steps 1 to 4 -/

def State.setStep (s : State) (k : Nat) : State := s.setBoot { s.boot with step := k }

/-- Step 1: the straps are sampled, and every domain but AO is off (R538, R568). -/
def State.releaseReset (s : State) : State :=
  let s := s.setBoot { s.boot with step := 1, testmode := s.boot.pinTestmode }
  ((s.setFlag F.SYS_STRAP_DBGEN s.boot.pinDbgen).fset F.PWR_STAT_DOMON 1).fset F.PWR_STAT_CIMON 0

/-- The pending erases that the storage controllers redo make their banks busy (R395). -/
def State.recoverSto (s : State) : State :=
  if s.sto.pendErase = [] then s
  else (s.sto.pendErase.foldl (fun s n => s.setBusy (bankOfSector n) true) s).setFlag F.STO_STAT_RECOVER true

/-- Steps 2 to 4: the clock, the domains (R533), zeroed SRAM (R84), the weight dies' records (R215, R234, R242), the storage controllers,
and the boot ROM. -/
def State.powerUp (s : State) : State :=
  let s := (s.setFlag F.CLK_STAT_LOCK true).setFlag F.CLK_STAT_REFOK true
  let s := ((s.fset F.PWR_STAT_DOMON 0xFF).fset F.PWR_STAT_CIMON 0xF).setStep 4
  let s := ({ s with mem := Memory.fresh }.tilesRestart []).recoverSto
  s.fset F.BOOT_STAT_STATE 1

/-! ### Steps 5 and 6: the slots -/

/-- A flash answers SFDP: one is fitted, and its balls are not driven by EXTEST (R41, R571). -/
def State.flashAnswers (s : State) : Bool := s.boot.flashLog != 0 && s.tap.ir != 0

/-- Slot `k` as the boot ROM reads it. Bit `k` of `slotErr` says that reading its header or table fails, bit `k` of `secErr` that
reading its sections fails (code 0x0E). -/
def State.slotOf (s : State) (slotErr secErr : Fin 4) (k : Nat) : ImgSrc :=
  { s.boot.slotSrc k false with bad := fun o _ => if o = 0 then bit slotErr.val k else bit secErr.val k }

/-- Record the result code of a slot. -/
def State.setSlotRes (s : State) (k c : Nat) : State := if k = 0 then s.fset F.BOOT_SLOTRES_RESA c else s.fset F.BOOT_SLOTRES_RESB c

/-- GENERATION as BOOT_GENA and BOOT_GENB show it: 0 for a slot whose header failed code 0x02 or 0x03, or could not be read. -/
def shownGen (x : ImgSrc) (code : Nat) : Nat := if code = 2 ∨ code = 3 ∨ x.bad 0 256 then 0 else x.num 12 4

/-- The installation of a staged image (R73, Table 02-15): the Boolean says that the running slot is to be started. What a target slot
holds when its programming failed the spec does not say: erased. DESIGN CHOICE, unsafe. -/
def State.installUpdate (s : State) (installOk : Bool) : Bool × State :=
  let run := s.boot.lastSlot
  let asked := s.boot.update && decide (run < 2)
  let s := s.setBoot { s.boot with update := false }
  if !asked then (false, s)
  else
    let x := s.stagedSrc
    let c := s.imageCode x false
    let c := if c = 0 ∧ s.boot.slotSize < x.num 8 4 then 0x0A else c
    let target := 1 - run
    if c ≠ 0 then (true, (s.fset F.BOOT_UPDRES_RESULT 2).fset F.BOOT_UPDRES_CHECK c)
    else if x.num 12 4 ≤ (s.boot.slotSrc run false).num 12 4 then (true, s.fset F.BOOT_UPDRES_RESULT 3)
    else
      let s := s.fset F.BOOT_UPDRES_TARGET target
      if installOk then
        (false, (s.setBoot (s.boot.writeSlot target (x.bytes 0 (x.num 8 4)))).fset F.BOOT_UPDRES_RESULT 1)
      else (false, (s.setBoot (s.boot.writeSlot target [])).fset F.BOOT_UPDRES_RESULT 4)

/-- The slots to load from, first choice first (R57): of those that pass the checks the higher GENERATION, A where both have the same;
an avoided one only behind the other; the running one first where `run` says so. -/
def slotOrder (ca cb ga gb : Nat) (avoidA avoidB : Bool) (run : Option Nat) : List Nat :=
  let two : List Nat :=
    match run with
    | some 1 => [1, 0]
    | some _ => [0, 1]
    | none =>
      if avoidA ≠ avoidB then (if avoidA then [1, 0] else [0, 1])
      else if ga < gb then [1, 0] else [0, 1]
  two.filter (fun k => (if k = 0 then ca else cb) == 0)

/-- Read the sections of the slots in their order until one loads (R58, R59). A slot that fails leaves its code; memory holds nothing of
it. Answers the slot and its sections. -/
def State.loadSlot (s : State) (src : Nat → ImgSrc) : List Nat → Option (Nat × List Section) × State
  | [] => (none, s)
  | k :: t =>
    let r := s.readSections (src k) false (src k).sections []
    if r.1 = 0 then (some (k, r.2), s.setSlotRes k 0)
    else (s.setSlotRes k r.1).loadSlot src t

/-- Enrolment (R75 to R78, R490, R495). -/
def State.enterEnrolment (s : State) : State :=
  let s := ((s.fset F.BOOT_STAT_STATE 3).fset F.BOOT_STAT_SLOT 3).setFlag F.HOST_STAT_ENROL true
  (s.setStep 5).trainPorts

/-! ### Step 7 -/

/-- What the header of the loaded image gives: build identifier, key slots, ROLLBACK, KEYADD entries, LOCKMODE, CONFIRMMS. -/
def State.takeHeader (s : State) (x : ImgSrc) (l : List Section) : State :=
  let s := (List.range 4).foldl (fun s n => s.rset R.BOOT_BUILDID (x.num (0x60 + 4 * n) 4) n) s
  let safety := ((sectionsOf l 9).head?).elim [] (·.data)
  s.setBoot { s.boot with
    keyIdx := x.num 0x15 1
    safeIdx := leAt safety 4 2
    imgRollback := x.num 0x10 2
    keyAdds := ((sectionsOf l 0x11).head?).elim [] Section.keyAdds
    lockMode := bit (x.num 0x12 2) 0
    confirmMs := x.num 0x16 2 }

/-- Place the sections that have a destination (R63). -/
def State.placeSections (s : State) (l : List Section) : State :=
  (l.filter (fun x => !secParsed x.typ)).foldl (fun s x => s.store x.dest x.data) s

/-! ### Steps 9 and 10 -/

/-- One exposure of the health check: `rows` driven in exact mode on the deck that tile `t` of die `d` has selected (R197, R202). -/
def State.healthExpose (s : State) (d t : Nat) (rows : List Nat) (devs : List (Fin 544 × Int)) : Exposed × State :=
  let x := s.tileX d t
  let p := x.select
  let f := 3 * rows.length
  let dev (c : Nat) : Int := (devs.find? (fun v => v.1.val == c)).elim 0 (·.2)
  let r := x.expose p (Layer.ofRegs []) false rows f (resolution f) 1 (s.fget F.CIM_CTL_GFILT d) dev
  let s := s.setTile d t (x.setDeck p { x.deck p with offs := r.offs, gain := r.gain })
  let s := (s.driftUpdate d t p).countWrap R.CIM_EXPLO 1 d
  let s := if s.rget R.CIM_EXPLO d = 0 then s.countWrap R.CIM_EXPHI 1 d else s
  (r, s.count R.CIM_RES 1 d (r.res - 4))

/-- The report of a mismatch that the health check finds: no program and no context stands behind it. -/
def State.healthCard (s : State) (d t seg : Nat) (diff : Int) (verdict : Nat) : State :=
  s.card { block := 8, event := 1, verdict := verdict, ukind := 1, ua := d * 16 + t / 72, ub := t % 72 * 8 + (s.tileX d t).select,
           die := d + 1, detail := leBytes 8 (ofSigned 64 diff) ++ [0, BitVec.ofNat 8 seg, 0] }

/-- Expose a segment and repeat it while it fails its checksum comparison, at most CSRETRY times (R203, R204). `devs` are the deviations
that are left, attempt by attempt; `first` is the difference of the first attempt that failed. -/
def State.healthSegment (s : State) (d t seg : Nat) (rows : List Nat) (first : Option Int) :
    Nat → List (List (Fin 544 × Int)) → List (List (Fin 544 × Int)) × State
  | 0, devs =>
    let g := t / 72
    (devs, ((s.count R.CIM_CSFAIL 1 d).fcount F.CIM_GCSERR_PERSIST 1 d g).healthCard d t seg (first.getD 0) 2)
  | fuel + 1, devs =>
    let r := s.healthExpose d t rows (devs.headD [])
    if s.fget F.CIM_CSTOL_EXACT d < r.1.diff.natAbs then r.2.healthSegment d t seg rows (some (first.getD r.1.diff)) fuel devs.tail
    else match first with
      | none => (devs.tail, r.2)
      | some x => (devs.tail, ((r.2.count R.CIM_CSFIX 1 d).fcount F.CIM_GCSERR_TRANSIENT 1 d (t / 72)).healthCard d t seg x 1)

/-- The health check of tile `t` of die `d`, where it is active: in service, with a deck selected. More than 170 rows are driven segment
by segment (R197). -/
def State.healthTile (s : State) (h : Health) (d t : Nat) : State :=
  let x := s.tileX d t
  if !(s.tilePresent t && s.groupOk d (t / 72) && x.role == 0 && !x.stopped && decide (x.select < 8)) then s
  else
    let rows := h.rows.map (·.val)
    let segs := if rows.length ≤ 170 then [(0, rows)] else (List.range 4).map (fun k => (k, rows.filter (fun r => r / 128 == k)))
    let devs := (h.devs.find? (fun v => v.1.val == d && v.2.1.val == t)).elim [] (·.2.2)
    ((segs.filter (fun y => y.2 != [])).foldl (fun (z : List (List (Fin 544 × Int)) × State) y =>
      z.2.healthSegment d t y.1 y.2 none (z.2.fget F.CIM_CTL_CSRETRY d + 1) z.1) (devs, s)).2

/-- The tile health check of step 10 (R62). -/
def State.healthCheck (s : State) (h : Health) : State :=
  (s.cim.tiles.map (·.1)).foldl (fun s k => s.healthTile h (k / 1152) (k % 1152)) s

/-- The ledger recovers and begins (R404, R409): EPOCH counts the resets that set TIMEBASE to 0. -/
def State.ledgerBegin (s : State) : State :=
  let c := s.fget F.PWR_RSTCAUSE_CAUSE
  let x := (s.setFlag F.LDG_STAT_RECOVER true).ledgerRecover (c != 1)
  let s := if c = 1 ∨ c = 2 then x.2.fset F.LDG_EPOCH_EPOCH ((x.2.fget F.LDG_EPOCH_EPOCH + 1) % 65536) else x.2
  s.ledgerStart (if c = 1 then 0 else if c = 2 then 1 else 2) x.1.1 x.1.2

/-- Steps 9 and 10 (R62, R319, R427, R431): the field inputs have settled, Proctor takes its parameters, the outputs leave their disabled
state, tiles are checked, the ledger begins, the streams start, and the lock is set if it is not. -/
def State.fieldSteps (s : State) (h : Health) : State :=
  let s := (s.setStep 9).setFlag F.ACQ_STAT_SETTLED true
  let s := (List.range 4).foldl (fun s n => s.setAo n { s.ao n with refresh := s.now }) s
  let s := (s.proctorStart s.safe.params true).aoUpdateAll
  let s := (s.healthCheck h).ledgerBegin
  let s := { s with acq := { s.acq with live := true } }
  let s := (List.range 16).foldl (fun s n => if s.flag F.ACQ_ST_CTL_EN n then s.startStream n else s) s
  (if s.locked then s else s.setLock).setStep 10

/-! ### Step 8 and the whole -/

/-- Step 8: set-up, the lock, the release of Proctor and of the application cores (R60, R62, R71). -/
def State.runImage (s : State) (l : List Section) : State :=
  let s := s.applySetups l
  let s := if s.boot.lockMode then s else s.setLock
  let s := (s.fset F.BOOT_STAT_STATE 2).setBoot { s.boot with step := 8, releaseTb := s.now }
  (if s.boot.confirmMs = 0 then s.confirm else s.setFlag F.BOOT_STAT_TRIAL true).trainPorts

/-- Steps 5 to 8 of a device whose flash answers. -/
def State.startFromFlash (s : State) (slotErr secErr : Fin 4) (installOk : Bool) (us : Word) (h : Health) : State :=
  let u := s.installUpdate installOk
  let s := u.2
  let src := s.slotOf slotErr secErr
  let ca := s.slotCode (src 0) false
  let cb := s.slotCode (src 1) false
  let avoidA := s.flag F.BOOT_SLOTRES_AVOIDA
  let avoidB := s.flag F.BOOT_SLOTRES_AVOIDB
  let shown (c : Nat) (avoid : Bool) : Nat := if c ≠ 0 then c else if avoid then 0x0D else 0x01
  let s := (s.setSlotRes 0 (shown ca avoidA)).setSlotRes 1 (shown cb avoidB)
  let s := (s.rset R.BOOT_GENA (shownGen (src 0) ca)).rset R.BOOT_GENB (shownGen (src 1) cb)
  let order := slotOrder ca cb ((src 0).num 12 4) ((src 1).num 12 4) avoidA avoidB (if u.1 then some s.boot.lastSlot else none)
  match s.loadSlot src order with
  | (none, s) => s.enterEnrolment
  | (some (k, l), s) =>
    let s := (s.fset F.BOOT_STAT_SLOT k).takeHeader (src k) l
    let s := ((s.placeSections l).rset R.BOOT_LOADUS us.toNat).runImage l
    if s.pwr.supplyOk then s.fieldSteps h else s

/-- The start-up sequence from the release of reset, or from step 2 where REFCLK has come. A device in production test mode stays at
step 1, one without REFCLK waits there (R531, R569). -/
def State.startUp (s : State) (slotErr secErr : Fin 4) (installOk : Bool) (us : Word) (h : Health) : State :=
  let s := if s.boot.step = 2 then s else s.releaseReset
  if s.boot.testmode || !s.pwr.refOk then s
  else
    let s := s.powerUp
    if s.flashAnswers then (s.setFlag F.BOOT_STAT_FLASHOK true).startFromFlash slotErr secErr installOk us h
    else ((s.setSlotRes 0 0x0F).setSlotRes 1 0x0F).enterEnrolment

/-- Whether a restart asked for by BOOT_CTRL, or after an enrolment, is due (R76, Table 02-13). -/
def State.restartDue (s : State) : Option Nat :=
  match s.boot.restartAt with
  | some x => if x.1 ≤ s.now then some x.2 else none
  | none => none

/-- RESTART: the device restarts, from a reset that has been released or a restart that is due (R538). `slotErr`, `secErr` and `installOk`
say how the flash answers, `us` is the time to step 7, `h` what the tile health check meets. While the power-fail warning stands the
device waits in reset (R65). -/
def execRestart (slotErr secErr : Fin 4) (installOk : Bool) (us : Word) (h : Health) (s : State) : Out State :=
  .next (
    if s.pwr.warn then s
    else match s.restartDue with
      | some c => (s.intoReset c).startUp slotErr secErr installOk us h
      | none => if s.boot.step = 0 ∨ s.boot.step = 2 then s.startUp slotErr secErr installOk us h else s)

/-- FIELD_SUPPLY_READY: VDD_F33 is in its window and VDD_F24 has risen above 18.0 V: steps 9 and 10 go on (R534). -/
def execFieldSupplyReady (h : Health) (s : State) : Out State :=
  .next (
    let s := s.setPwr { s.pwr with supplyOk := true }
    if s.boot.step = 8 then s.fieldSteps h else s)

end Sys2Proof.Machine
end

