-- ==== Sys2Proof/Machine/D2d.lean ====
section
/-! DEFINITION. The die-to-die links (spec/01, R11, R12): links 0 to 3 of the weight dies, 4 of acquisition, 5 of safety. -/

namespace Sys2Proof.Machine

/-- What a link that goes down means for its users, beside the weight dies, whose tile groups and storage banks count as retired: samples
carry the fault flag and the field die applies its failure actions, or Proctor enters device safe state (R12, R453, Table 15-6). -/
def State.linkLost (s : State) (l : Nat) : State :=
  if l = 4 then
    ((s.setFlag F.ACQ_STAT_LINKDOWN true).onWindows (fun w => if w.close.isNone then { w with linkDown := true } else w)).aoUpdateAll
  else if l = 5 then s.diagnose true 6
  else s

/-- D2D_TRANSFER_UNIT: a transfer unit arrives on a link; one that fails its CRC is replayed and counted, and after 8 failed replays
the link is down until the next reset (R12). A valid unit ends the silence of the acquisition link (R453). -/
def execD2dTransferUnit (link : Fin 6) (crcOk : Bool) (s : State) : Out State :=
  .next (
    let l := link.val
    let setFails (s : State) (k : Nat) : State := { s with d2dFails := Sparse.put (fun _ => 0) s.d2dFails l k }
    if bit (s.fget F.SYS_D2DSTAT_DOWN) l || !bit (s.fget F.SYS_D2DSTAT_UP) l then s
    else if crcOk then
      let s := setFails s 0
      if l = 4 ∧ s.aoSilent = true then { s with aoSilent := false }.aoUpdateAll else s
    else
      let k := Sparse.get (fun _ => 0) s.d2dFails l
      if k < 8 then (setFails s (k + 1)).count R.SYS_D2DRETRY 1 l
      else
        let s := setFails s 0
        let s := s.fset F.SYS_D2DSTAT_DOWN (s.fget F.SYS_D2DSTAT_DOWN ||| 2 ^ l)
        let s := s.fset F.SYS_D2DSTAT_UP (s.fget F.SYS_D2DSTAT_UP - 2 ^ l)
        (s.card { block := 1, event := 1, ukind := 7, ua := l }).linkLost l)

end Sys2Proof.Machine
end

