-- ==== Sys2Proof/Machine/Issue.lean ====
section
/-! DEFINITION. Bundles at issue and after it (spec/05): the issue checks of Table 05-18, RPT, the RED and CTRL slots, timed issue
and the commit. -/

namespace Sys2Proof.Machine

/-! ### Handles and opcodes (Table 05-12) -/

/-- The handles an operation of a stream reads, and those it writes, in iteration `i`. -/
def opReads (n : Nat) (b : Bundle) (o : OpRun) (i : Nat) : List Int :=
  match streamKind n with
  | 0 => if o.opc = 0x10 then [b.handleAt o 0 i] ++ (if bit o.mod 1 then [b.handleAt o 2 i] else []) else []
  | 1 => dmeReads b o i
  | 2 => sigReads b o i
  | _ => if o.opc = 0x30 then [b.handleAt o 0 i] else []
def opWrites (n : Nat) (b : Bundle) (o : OpRun) (i : Nat) : List Int :=
  match streamKind n with
  | 0 => if o.opc = 0x10 then [b.handleAt o 1 i] else []
  | 1 => dmeWrites b o i
  | 2 => sigWrites b o i
  | _ => [b.handleAt o 1 i]

/-- Whether an opcode is defined for a program kind (Table 05-12). -/
def opcodeOk (kind opc : Nat) : Bool :=
  match kind with
  | 0 => opc == 0x10 || opc == 0x12
  | 1 => decide (0x20 ≤ opc) && decide (opc ≤ 0x27)
  | 2 => decide (0x40 ≤ opc) && decide (opc ≤ 0x4B)
  | _ => opc == 0x30 || opc == 0x31

/-- Whether an operation has an ARG slot where its row asks for one, and none where its row gives none. -/
def argPresenceOk (kind : Nat) (o : OpRun) : Bool :=
  match kind with
  | 0 => o.arg.isSome
  | 1 => if o.opc = 0x25 then o.arg.isSome else hasPipe o.opc || o.arg.isNone
  | 2 => sigArgOk o
  | _ => if o.opc = 0x31 then o.arg.isSome else o.arg.isNone

/-- Iterations of an operation of a bundle: RPT repeats OP. -/
def Bundle.iters (b : Bundle) (o : OpRun) : Nat := if o.slot = 2 then b.countM1 + 1 else 1

/-- Handles that a bundle's CTRL and RED slots name: slot position, handle. -/
def Bundle.sideHandles (b : Bundle) : List (Nat × Nat) :=
  (match b.slot 1 with
    | some y => if bits y 56 8 = 5 ∨ bits y 56 8 = 8 then [(1, bits y 44 12)] else []
    | none => []) ++
  (match b.slot 6 with | some y => [(6, bits y 44 12)] | none => [])

/-- Every handle of an operation over its iterations: slot position, handle. -/
def Bundle.opHandles (n : Nat) (b : Bundle) (o : OpRun) : List (Nat × Int) :=
  ((List.range (b.iters o)).flatMap (fun i => (opReads n b o i ++ opWrites n b o i).map (fun h => (o.slot, h)))).eraseDups

/-! ### Checks of the slots' form (orders 2 to 6) -/

/-- Reserved fields of a CTRL slot (Table 05-10). -/
def ctrlFormOk (y : Nat) : Bool :=
  match bits y 56 8 with
  | 1 => bits y 0 56 == 0
  | 2 => bits y 53 3 != 7
  | 3 => bits y 16 27 == 0 && (bit y 55 || bits y 43 9 == 0)
  | 4 => bits y 32 20 == 0
  | 5 => bits y 32 12 == 0
  | 6 => bits y 54 2 != 0 && bits y 0 54 == 0
  | 7 => bits y 32 24 == 0
  | 8 => bits y 36 8 == 0 && bits y 0 32 == 0
  | _ => true

/-- Reserved fields and FN of a RED slot (R166). -/
def redFormOk (y : Nat) : Bool :=
  bits y 0 36 == 0 && (if bits y 56 8 = 0x60 then decide (bits y 36 4 ≤ 6) else bits y 36 4 == 0)

/-- Encodings of an operation (reason 0x02): its own slot, then its ARG slot. -/
def State.opFormChecks (s : State) (n : Nat) (p : Prog) (b : Bundle) (o : OpRun) : List Fail :=
  match streamKind n with
  | 0 => (s.cimCheck n p b o 0).filter (fun f => f.order == 2)
  | 1 => need (dmeEncodingOk { o with arg := none }) 2 0x02 o.slot 0xFFFF ++ need (dmeEncodingOk o) 2 0x02 (o.slot + 1) 0xFFFF
  | 2 => need (sigEncodingOk { o with arg := none }) 2 0x02 o.slot 0xFFFF ++ need (sigEncodingOk o) 2 0x02 (o.slot + 1) 0xFFFF
  | _ =>
    need (o.fmt == 0 && o.hc == 0 && (if o.opc = 0x30 then decide (o.mod ≤ 3) else o.mod == 0 && o.ha == 0)) 2 0x02 o.slot 0xFFFF ++
    need (o.opc != 0x31 || bits (o.arg.getD 0) 32 32 == 0) 2 0x02 (o.slot + 1) 0xFFFF

/-- The checks of a bundle's form: reserved fields, slot combination, opcodes, bells and handles (R158 to R168, R173). -/
def State.formChecks (s : State) (n : Nat) (p : Prog) (b : Bundle) : List Fail :=
  let kind := streamKind n
  let c := p.start.ctx
  let has (i : Nat) : Bool := (b.slot i).isSome
  let y0 := (b.slot 0).getD 0
  let y1 := (b.slot 1).getD 0
  let y6 := (b.slot 6).getD 0
  let y7 := (b.slot 7).getD 0
  let ctrl := bits y1 56 8
  let red := bits y6 56 8
  let valid := b.ops.filter (fun o => opcodeOk kind o.opc)
  let cnt := s.fget F.MMU_CTX_TDTCNT_CNT c
  let inTable (h : Int) : Bool := decide (0 ≤ h) && decide (h < 4096) && decide (h < cnt)
  need (bits b.header 0 8 == 0 && (p.timed || bits b.header 8 12 == 0)) 2 0x02 15 0xFFFF ++
  need (bits y0 0 4 == 0 && (!bit y0 21 || bits y0 4 8 != 0)) 2 0x02 0 0xFFFF ++
  need (ctrlFormOk y1) 2 0x02 1 0xFFFF ++
  valid.flatMap (s.opFormChecks n p b) ++
  need (!has 6 || redFormOk y6) 2 0x02 6 0xFFFF ++
  need (bits y7 0 4 == 0) 2 0x02 7 0xFFFF ++
  need (!(bit y0 63 && bit y0 42 && bits y0 51 3 == bits y0 30 3)) 3 0x0F 0 0xFFFF ++
  need (!(ctrl == 6 && kind != 1)) 3 0x0F 1 0xFFFF ++
  need (!(ctrl == 4 && has 6 && bits y1 52 4 == bits y6 40 4)) 3 0x0F 1 0xFFFF ++
  need (!has 3 || has 2) 3 0x0F 3 0xFFFF ++
  need (!has 4 || (has 2 && kind == 0)) 3 0x0F 4 0xFFFF ++
  need (!has 5 || (has 4 && kind == 0)) 3 0x0F 5 0xFFFF ++
  need (!has 7 || (has 2 && !has 4)) 3 0x0F 7 0xFFFF ++
  valid.flatMap (fun o => need (argPresenceOk kind o) 3 0x0F (if o.arg.isSome then o.slot + 1 else o.slot) 0xFFFF) ++
  need (!has 1 || (decide (1 ≤ ctrl) && decide (ctrl ≤ 8))) 4 0x01 1 0xFFFF ++
  b.ops.flatMap (fun o => need (opcodeOk kind o.opc) 4 0x01 o.slot 0xFFFF) ++
  need (!has 6 || (decide (0x60 ≤ red) && decide (red ≤ 0x62))) 4 0x01 6 0xFFFF ++
  need (!has 7 || bits y7 56 8 == 0x70) 4 0x01 7 0xFFFF ++
  need ((!bit y0 63 || s.bellOf c (bits y0 54 9)) && (!bit y0 42 || s.bellOf c (bits y0 33 9)) &&
    (!bit y0 21 || s.bellOf c (bits y0 12 9))) 5 0x07 0 0xFFFF ++
  need (!(ctrl == 3 && bit y1 55) || s.bellOf c (bits y1 43 9)) 5 0x07 1 0xFFFF ++
  valid.flatMap (fun o => (b.opHandles n o).flatMap (fun x => need (inTable x.2) 6 0x03 x.1 (x.2 % 4096).toNat)) ++
  b.sideHandles.flatMap (fun x => need (inTable x.2) 6 0x03 x.1 x.2)

/-! ### Checks of descriptors, units and timing (orders 7 to 14) -/

/-- Whether a bound region serves a descriptor of context `c` (R170). -/
def State.boundOk (s : State) (c : Nat) (d : Desc) : Bool :=
  !d.crbind || (s.flag F.MEM_CR_CFG_EN d.crnum && !s.flag F.MEM_CR_CFG_INVALID d.crnum && s.fget F.MEM_CR_CFG_CTX d.crnum == c &&
    decide (d.extent ≤ s.crSize d.crnum))

/-- The alignment that a stream's unit asks of BASE (Table 05-15). -/
def baseAlign (n : Nat) (d : Desc) : Nat := if streamKind n = 3 then max 1 d.ebytes else 256

/-- The result type of a RED suits the mark (R167). -/
def redTypeOk (p : Prog) (y : Nat) (d : Desc) : Bool :=
  let fp := (typeFmt d.typ).isSome && !(decide (3 ≤ bits y 36 4) && decide (bits y 36 4 ≤ 5))
  bit p.marktype (bits y 40 4) == fp

/-- The shapes of a data-mover operation (R165); unequal element widths do not pair. -/
def dmShapeOk (a d : Desc) (o : OpRun) : Bool :=
  o.opc == 0x31 || a.layout == 3 || d.layout == 3 || (a.sizes == d.sizes && typeBits a.typ == typeBits d.typ)

/-- The checks of one operation in iteration `i` that need no translation. -/
def State.opChecks (s : State) (n : Nat) (p : Prog) (b : Bundle) (o : OpRun) (i : Nat) : List Fail :=
  let hs := opReads n b o i ++ opWrites n b o i
  let d (h : Int) := p.desc h.toNat
  let unbound := hs.find? (fun h => !s.boundOk p.start.ctx (d h))
  let bad := hs.find? (fun h => (d h).inconsistent (baseAlign n (d h)))
  need (unbound == none) 7 0x13 o.slot (unbound.elim 0 Int.toNat) ++
  need (bad == none) 9 0x04 o.slot (bad.elim 0 Int.toNat) ++
  match streamKind n with
  | 0 => s.cimCheck n p b o i
  | 1 => s.dmeCheck n p b o i
  | 2 => sigCheck p b o i
  | _ =>
    need (dmShapeOk (d (b.handleAt o 0 i)) (d (b.handleAt o 1 i)) o) 9 0x04 o.slot (b.handleAt o 1 i).toNat ++
    need (!p.timed || o.opc == 0x31 || ((d (b.handleAt o 0 i)).cmode != 2 && (d (b.handleAt o 1 i)).cmode != 2)) 13 0x09 o.slot
      (b.handleAt o 0 i).toNat ++
    need (!p.timed || o.opc == 0x30 || (d (b.handleAt o 1 i)).cmode != 2) 13 0x09 o.slot (b.handleAt o 1 i).toNat

/-- Tile groups of a mask that run slowed: level 2 or 3, once the change has applied (R443). -/
def State.slowGroups (s : State) (d arg : Nat) : Bool :=
  (setBits 16 (bits arg 48 16)).any (fun g =>
    decide (2 ≤ bits (s.fget F.SAFE_LEVELG_LEVEL d) (2 * g) 2) &&
    !(Sparse.get (fun _ => Suspect.fresh) s.safe.suspects (d * 16 + g)).waits)

/-- The throttle is active (R550). -/
def State.throttled (s : State) : Bool := decide (s.fget F.CLK_STAT_THROT < 8)

/-- The checks of the CTRL and RED slots and of the pair of operations. -/
def State.sideChecks (s : State) (n : Nat) (p : Prog) (b : Bundle) : List Fail :=
  let c := p.start.ctx
  let y1 := (b.slot 1).getD 0
  let y6 := (b.slot 6).getD 0
  let ctrl := bits y1 56 8
  let d1 := p.desc (bits y1 44 12)
  let d6 := p.desc (bits y6 44 12)
  let target := 4 * bits y1 32 17
  let named (y : Nat) := bits y 44 12
  (if ctrl = 5 ∨ ctrl = 8 then
    need (s.boundOk c d1 && (ctrl != 5 || d1.crbind)) 7 0x13 1 (named y1) ++
    need (!d1.inconsistent 1 && (ctrl != 8 || d1.layout == 3 || decide (64 ≤ d1.streamBytes))) 9 0x04 1 (named y1)
   else []) ++
  (if (b.slot 6).isSome then
    need (s.boundOk c d6) 7 0x13 6 (named y6) ++
    need (!d6.inconsistent 1 && d6.layout != 3 && (bits y6 56 8 == 0x60 || typeBits d6.typ == 32) &&
      (bits y6 56 8 != 0x60 || redTypeOk p y6 d6)) 9 0x04 6 (named y6) ++
    need (bits y6 56 8 != 0x60 || decide (d6.streamBytes ≤ 0x100000)) 11 0x06 6 (named y6)
   else []) ++
  (match b.slot 3, b.slot 5 with
    | some x, some y => need ((maskTiles x).all (fun t => !(maskTiles y).contains t)) 9 0x04 4 0xFFFF
    | _, _ => []) ++
  need (ctrl != 2 || (decide (32 ≤ target) && decide (target ≤ 32 + p.length - 4))) 12 0x08 1 0xFFFF ++
  (if p.timed then
    need (!bit ((b.slot 0).getD 0) 63 && !bit ((b.slot 0).getD 0) 42) 13 0x09 0 0xFFFF ++
    need (ctrl != 8) 13 0x09 1 0xFFFF ++
    b.ops.flatMap (fun o => need (!s.throttled && (streamKind n != 0 || !s.slowGroups n (o.arg.getD 0))) 13 0x09 o.slot 0xFFFF)
   else [])

/-- Every check of a bundle whose form is sound that needs no translation. -/
def State.descChecks (s : State) (n : Nat) (p : Prog) (b : Bundle) : List Fail :=
  b.ops.flatMap (fun o => (List.range (b.iters o)).flatMap (s.opChecks n p b o)) ++ s.sideChecks n p b

/-! ### Location checks (R180) -/

/-- The operands of an operation on each core or unit that runs it: TLB, descriptor, handle, whether written. -/
def Prog.operands (p : Prog) (n : Nat) (b : Bundle) (o : OpRun) (i : Nat) : List (Nat × Desc × Nat × Bool) :=
  let of (unit r : Nat) : List (Nat × Desc × Nat × Bool) :=
    (opReads n b o i).map (fun h => (unit, (p.desc h.toNat).forRank r, h.toNat, false)) ++
    (opWrites n b o i).map (fun h => (unit, (p.desc h.toNat).forRank r, h.toNat, true))
  if streamKind n = 1 then (p.cores n).zipIdx.flatMap (fun k => of (4 + k.1) k.2) else of n 0

/-- What timed mode asks of where operands lie (Table 05-17): not the storage window, not the remote window, no region in block
mode. -/
def State.timedPlaceOk (s : State) (p : Prog) (x : Nat × Desc × Nat × Bool) : Bool :=
  !(x.2.1.crbind && !s.flag F.MEM_CR_CFG_MODE x.2.1.crnum) &&
  (match (s.translate x.1 p.start.ctx (x.2.1.base / 4096)).1 with
    | .ok e => s.loc (e.page (x.2.1.base / 4096) * 4096) != .remote
    | .fault _ => true) &&
  (s.peekAddrs x.1 p.start.ctx x.2.1 x.2.1.covered).all (fun a => match s.loc a with | .store _ | .remote => false | _ => true)

/-- The conditions on where the operands of iteration `i` lie. -/
def State.placeChecks (s : State) (n : Nat) (p : Prog) (b : Bundle) (o : OpRun) (i : Nat) : List Fail :=
  (match streamKind n with
    | 0 =>
      let inDam (h : Int) : Bool :=
        let d := p.desc h.toNat
        (s.peekAddrs n p.start.ctx d (d.offsets 0 d.count)).all (fun a => decide (damBase n ≤ a) && decide (a < damBase n + 0x800000))
      (opReads n b o i).flatMap (fun h => need (inDam h) 9 0x04 o.slot h.toNat)
    | 1 => (p.cores n).zipIdx.flatMap (fun k => s.dmePlaceCheck p b o i k.1 k.2)
    | 2 => s.sigPlaceCheck n p b o i
    | _ => []) ++
  (if p.timed then (p.operands n b o i).flatMap (fun x => need (s.timedPlaceOk p x) 13 0x09 o.slot x.2.2.1) else [])

/-- Steps of an operation in its first iteration, as a resume record gives them. -/
def opSteps (n : Nat) (p : Prog) (b : Bundle) (o : OpRun) : Nat :=
  match streamKind n with
  | 0 => 1
  | 1 => tileCount p b o
  | 2 => max 1 (sigSteps p o)
  | _ => ceilDiv (dmTotal (o.opc == 0x31) (p.desc (p.handle o 0)) (p.desc (p.handle o 1))) 4096

/-- The resume record's KIND for an operation of a stream (Table 04-5). -/
def opFaultKind (n : Nat) : Nat := match streamKind n with | 0 => 1 | 1 => 2 | 2 => 6 | _ => 3

/-- The byte offsets of an operand whose pages are translated at issue. Where an operation's operands must lie is judged on translated
addresses, so every page is translated first (R180); a data mover outside timed mode has no such condition and translates step by step
(R139, Table 04-9): its first chunk. -/
def Prog.issueOffsets (p : Prog) (n : Nat) (d : Desc) : List Nat :=
  if streamKind n = 3 ∧ p.timed = false then (if d.layout = 3 then List.range 32 else d.offsets 0 (d.elemsIn 0 4096).2) else d.covered

/-- Translate the pages that the operations' first iterations need at issue; the first unmapped one suspends the program with STEP 0.
True where all are mapped. -/
def State.touchOps (s : State) (n : Nat) (p : Prog) (b : Bundle) : List (OpRun × Nat × Desc × Nat × Bool) → Bool × State
  | [] => (true, s)
  | (o, unit, d, h, w) :: t =>
    match s.touch unit p.start.ctx (d.touches h (if w then .write else .read) (p.issueOffsets n d)) [] with
    | (.fault x f, s) => (false, s.suspendOp n p { o with nsteps := opSteps n p b o } (opFaultKind n) x f h)
    | (.ok _, s) => s.touchOps n p b t

/-! ### Issue (R160, R180) -/

/-- A bundle at issue: it may go, it must halt, or it has been suspended. -/
inductive Checked where
  | go (p : Prog)
  | halts (f : Fail)
  | suspended
deriving DecidableEq, Repr

/-- The checks of step 3 of Table 05-8. -/
def State.issueChecks (s : State) (n : Nat) (p : Prog) (b : Bundle) : Checked × State :=
  match firstFail (s.formChecks n p b) with
  | some f => (.halts f, s)
  | none =>
    let hs := b.ops.flatMap (fun o => (b.opHandles n o).map (fun x => x.2.toNat)) ++ b.sideHandles.map (·.2)
    let p := s.cacheDescs p hs
    let desc := s.descChecks n p b
    match firstFail (desc.filter (fun f => decide (f.order ≤ 9))) with
    | some f => (.halts f, s)
    | none =>
      match s.touchOps n p b (b.ops.flatMap (fun o => (p.operands n b o 0).map (fun x => (o, x)))) with
      | (false, s) => (.suspended, s)
      | (true, s) =>
        match firstFail (desc ++ b.ops.flatMap (fun o => (List.range (b.iters o)).flatMap (s.placeChecks n p b o))) with
        | some f => (.halts f, s)
        | none => (.go p, s)

/-- The operations of a bundle as they issue; an MVM keeps its layer entry and tiles as at its issue (R191, R209). -/
def State.issuedOps (s : State) (n : Nat) (b : Bundle) : List OpRun :=
  b.ops.map (fun o => if o.opc = 0x10 then { o with note := s.mvmNote n o } else o)

/-- Program `p` with its bundle issued. -/
def State.issued (s : State) (n : Nat) (p : Prog) (b : Bundle) : Prog :=
  { p with phase := .issued, ops := s.issuedOps n b, bcnt := (p.bcnt + 1) % 2 ^ 32, beginTb := some (p.beginTb.getD s.now),
           lastIssue := s.now }.advance

/-- The halt of a failed check; a throttled timed instruction takes its group with it (R551). -/
def State.failIssue (s : State) (n : Nat) (p : Prog) (f : Fail) : State :=
  let s' := s.halt n f.reason f.slot f.handle 0
  if f.reason = 9 ∧ p.group = true ∧ s.throttled = true then s'.breakGroup n else s'

/-- Issue the current bundle of stream `n`, whose waits are satisfied. -/
def State.issueNow (s : State) (n : Nat) (p : Prog) (b : Bundle) : State :=
  match s.issueChecks n p b with
  | (.halts f, s) => s.failIssue n p f
  | (.suspended, s) => s
  | (.go p, s) =>
    let s := if streamKind n = 1 ∧ b.ops ≠ [] then (p.cores n).foldl (fun s k => s.count R.DME_RESWAIT (s.now - p.readyTb) k) s else s
    s.setRun n (some (s.issued n p b))

/-- BUNDLE_ISSUE: the bundle of stream `n`, in bell mode, passes the checks and issues, or halts or suspends the program. A DME
operation that passes waits until its operands are resident (R160, R180, R250). -/
def execBundleIssue (n : Fin 22) (s : State) : Out State :=
  .next (
    let n := n.val
    match (s.stream n).run with
    | none => s
    | some p =>
      match p.bundle with
      | none => s
      | some b =>
        if p.timed ∨ p.phase ≠ .ready then s
        else if streamKind n = 1 ∧ b.ops ≠ [] ∧ p.resident = false then
          match s.issueChecks n p b with
          | (.halts f, s) => s.failIssue n p f
          | (.suspended, s) => s
          | (.go _, _) => s
        else s.issueNow n p b)

/-- Why a timed bundle cannot issue in its cycle (R176): DELAY below the issue overhead of R152, its unit busy, an operand not
resident. -/
def Prog.timedBlocked (p : Prog) (n : Nat) (b : Bundle) : Bool :=
  let least := if p.branch = some b.pc then 40 else if p.bcnt = 0 then 0 else 8
  let busy := p.phase == .issued && p.ops.any (fun o => !o.finished) && b.ops != []
  decide (bits b.header 8 12 < least) || busy || (streamKind n == 1 && b.ops != [] && !p.resident)

/-- A timed bundle of stream `n` could not issue: its whole group halts with reason 0x14. -/
def State.breakTimed (s : State) (n : Nat) : State := (s.breakGroup 99).halt n 0x14 15 0xFFFF 0

/-- TIMED_BUNDLE_DUE: the next bundle of a timed program falls due DELAY cycles after the previous issue: it issues, behind the
current one where that still runs; if it cannot, every stream of the group halts with reason 0x14 (R175, R176). -/
def execTimedBundleDue (n : Fin 22) (s : State) : Out State :=
  .next (
    let n := n.val
    match (s.stream n).run with
    | none => s
    | some p =>
      if !p.timed || !p.began then s
      else
        let current := p.phase == .ready
        match (if current then p.bundle else p.ahead) with
        | none => s.breakTimed n
        | some b =>
          if p.timedBlocked n b then s.breakTimed n
          else if current then s.issueNow n p b
          else
            match s.issueChecks n p b with
            | (.halts f, s) => s.failIssue n p f
            | (.suspended, s) => s
            | (.go p, s) =>
              s.setRun n (some { p with behind := p.behind ++ [b], ahead := none, bcnt := (p.bcnt + 1) % 2 ^ 32, lastIssue := s.now }))

/-- RPT: the next iteration of the OP slot begins once the previous one has completed (R168). -/
def execRpt (n : Fin 22) (s : State) : Out State :=
  .next (
    match (s.stream n.val).run with
    | none => s
    | some p =>
      match p.bundle with
      | none => s
      | some b =>
        if p.phase = .issued ∧ p.ops.all (fun o => o.finished) = true ∧ p.iter < b.countM1 then
          s.setRun n.val (some { p with iter := p.iter + 1, ops := s.issuedOps n.val b, resident := false, maps := [] })
        else s)

/-! ### The RED slot (R166, R167) -/

/-- A byte as the stream's unit reads it: a DME core through its L1. -/
def State.unitByte (s : State) (n : Nat) : Nat → Byte := if streamKind n = 1 then s.dmeByte (n - 4) else s.physByte

/-- The rank of a stream's own core in its program's broadcast. -/
def Prog.ownRank (p : Prog) (n : Nat) : Nat := if streamKind n = 1 then (p.cores n).findIdx (fun k => k == n - 4) else 0

/-- The reduction of a tensor's elements by FN (R167). -/
def reduce (t fn : Nat) (l : List Nat) : Nat :=
  let fs := l.map (elemF32 t)
  let ints := l.map (elemInt t)
  let least := match l.zipIdx with
    | [] => 0
    | x :: r =>
      let less (a b : Nat) : Bool := match typeFmt t with
        | some _ => let u := f32 (elemF32 t a); let v := f32 (elemF32 t b); (!u.isNaN && v.isNaN) || u.lt v
        | none => decide (elemInt t a < elemInt t b)
      (r.foldl (fun (best : Nat × Nat) (y : Nat × Nat) => if less y.1 best.1 then y else best) x).2
  let nonzero (x : Nat) : Bool := match typeFmt t with | some f => f.decode x |>.eq (.fin false 0 0) |> (!·) | none => x != 0
  match fn with
  | 3 => argmaxOf t l
  | 4 => least
  | 5 => (l.filter nonzero).length
  | _ =>
    match typeFmt t with
    | some _ =>
      (match fn with
        | 0 => sumF fs
        | 1 => fs.foldl fmaxN (fs.headD 0)
        | 2 => fs.foldl fminN (fs.headD 0)
        | _ => sumF (fs.map (fun x => fmul x x)))
    | none =>
      ofSigned 32 (satSigned 32 (match fn with
        | 0 => ints.sum
        | 1 => ints.foldl max (ints.headD 0)
        | 2 => ints.foldl min (ints.headD 0)
        | _ => (ints.map (fun x => x * x)).sum))

/-- The bundle's RED slot waits to be performed. -/
def Prog.redDue (p : Prog) : Option Nat := if p.phase = .opsDone then p.bundle.bind (fun b => b.slot 6) else none

/-- An operation record for a slot of the bundle that is no OP, to suspend at. -/
def sideOp (slot : Nat) : OpRun := { OpRun.ofSlot slot 0 none with nsteps := 1 }

/-- Perform the RED slot of opcode `opc` of stream `n`. -/
def State.redSlot (s : State) (n opc : Nat) (f : Prog → Nat → Nat → Desc → PageMap → State → State) (acc : Acc3) : State :=
  match (s.stream n).run with
  | none => s
  | some p =>
    match p.redDue with
    | none => s
    | some y =>
      if bits y 56 8 ≠ opc then s
      else
        let h := bits y 44 12
        let d := (p.desc h).forRank (p.ownRank n)
        let offs := if opc = 0x60 then d.offsets 0 d.count else d.offsets 0 1
        match s.touch n p.start.ctx (d.touches h acc offs) [] with
        | (.fault t fl, s) => s.suspendOp n p (sideOp 6) 7 t fl h
        | (.ok m, s) =>
          let m := s.noRemote m
          let s := s.violatePages n p.start.ctx m
          f { p with phase := .redDone } y h d m s

/-- Read elements `0` to `hi - 1` of a RED operand, checked; the program with `k` of their bits. -/
def State.redRead (s : State) (n : Nat) (p : Prog) (h : Nat) (d : Desc) (m : PageMap) (hi : Nat) (k : List Nat → Prog) : State :=
  let st := s.crTail d.crnum
  match s.readCheck n p d.notag (s.readAddrs d m st 0 hi) 6 h d.base with
  | (false, s) => s
  | (true, s) => s.setRun n (some (k (s.elems (s.unitByte n) d m st 0 hi)))

/-- RED: reduces the whole tensor into a mark (R166, R167). -/
def execRed (n : Fin 22) (s : State) : Out State :=
  .next (s.redSlot n.val 0x60 (fun p y h d m s => s.redRead n.val p h d m d.count (fun l =>
    { p with markWr := p.markWr ++ [(bits y 40 4, BitVec.ofNat 32 (reduce d.typ (bits y 36 4) l))] })) .read)

/-- MLOAD: the mark takes the tensor's first 4 bytes (R166). -/
def execMload (n : Fin 22) (s : State) : Out State :=
  .next (s.redSlot n.val 0x62 (fun p y h d m s => s.redRead n.val p h d m 1 (fun l =>
    { p with markWr := p.markWr ++ [(bits y 40 4, BitVec.ofNat 32 (l.headD 0))] })) .read)

/-- MSTORE: the mark's 4 bytes go to the tensor's first element (R166). -/
def execMstore (n : Fin 22) (s : State) : Out State :=
  .next (s.redSlot n.val 0x61 (fun p y _ d m s =>
    let w := s.elemWrites d m (s.crHead d.crnum) [(0, (p.marks.getD (bits y 40 4) 0).toNat)]
    let s := if streamKind n.val = 1 then s.dmeWrite (n.val - 4) w else s.writeBytes w
    s.setRun n.val (some p)) .write)

/-! ### The CTRL slot (R162, R163) -/

/-- The bundle's CTRL slot waits to be performed. -/
def Prog.ctrlDue (p : Prog) : Option Nat :=
  match p.bundle with
  | none => none
  | some b => if p.phase = .redDone ∨ (p.phase = .opsDone ∧ b.slot 6 = none) then b.slot 1 else none

/-- Perform the CTRL slot of opcode `opc`: what it leaves of the program and the state. -/
def State.ctrlSlot (s : State) (n opc : Nat) (f : Prog → Nat → State) : State :=
  match (s.stream n).run with
  | none => s
  | some p =>
    match p.ctrlDue with
    | none => s
    | some y => if bits y 56 8 = opc then f p y else s

/-- The program with its CTRL slot done. -/
def Prog.ctrlEnd (p : Prog) : Prog := { p with phase := .ctrlDone }

/-- END: the program ends when the bundle completes (R162). -/
def execCtrlEnd (n : Fin 22) (s : State) : Out State :=
  .next (s.ctrlSlot n.val 1 (fun p _ => s.setRun n.val (some { p with phase := .ctrlDone, ending := true })))

/-- BR: decided at the commit (R162, R174). -/
def execCtrlBr (n : Fin 22) (s : State) : Out State := .next (s.ctrlSlot n.val 2 (fun p _ => s.setRun n.val (some p.ctrlEnd)))

/-- EXPSET: at commit the expect counter takes IMM, or the bell's value as read now (R162). -/
def execCtrlExpset (n : Fin 22) (s : State) : Out State :=
  .next (s.ctrlSlot n.val 3 (fun p y =>
    let v := if bit y 55 then s.bell (bits y 43 9) else bits y 0 16
    s.setRun n.val (some { p.ctrlEnd with expWr := p.expWr ++ [(bits y 52 3, v)] })))

/-- MARKSET: at commit the mark takes IMM (R162). -/
def execCtrlMarkset (n : Fin 22) (s : State) : Out State :=
  .next (s.ctrlSlot n.val 4 (fun p y =>
    s.setRun n.val (some { p.ctrlEnd with markWr := p.markWr ++ [(bits y 52 4, BitVec.ofNat 32 (bits y 0 32))] })))

/-- RELEASE: bytes of the region bound to the handle, the whole extent for BYTES 0, are released (R103, R162). -/
def execCtrlRelease (n : Fin 22) (s : State) : Out State :=
  .next (s.ctrlSlot n.val 5 (fun p y =>
    let d := p.desc (bits y 44 12)
    let cnt := if bits y 0 32 = 0 then d.extent else bits y 0 32
    (s.releaseRegion p.start.ctx n.val d.crnum cnt).setRun n.val (some p.ctrlEnd)))

/-- L1: write back, invalidate, or both, the L1 cache of the cores that run the program (R93, R162, R254). -/
def execCtrlL1 (n : Fin 22) (s : State) : Out State :=
  .next (s.ctrlSlot n.val 6 (fun p y =>
    let act := bits y 54 2
    let s := (p.cores n.val).foldl (fun s k =>
      let s := if bit act 0 then s.l1WriteBack k else s
      if bit act 1 then s.l1Drop k else s) s
    s.setRun n.val (some p.ctrlEnd)))

/-- DELAY: the bundle completes CYCLES cycles after its operations: the first event starts the count, a later one ends it once the
cycle has come (R162). -/
def execCtrlDelay (n : Fin 22) (s : State) : Out State :=
  .next (s.ctrlSlot n.val 7 (fun p y =>
    let last := if p.delay = 0 then s.now + bits y 0 32 else p.delay - 1
    s.setRun n.val (some (if last ≤ s.now then { p.ctrlEnd with delay := 0 } else { p with delay := last + 1 }))))

/-- The bytes of a POST's tensor in element order; a lossless stream expands. None where a block of it fails. -/
def State.postBytes (s : State) (d : Desc) (m : PageMap) (st : Nat) : Option (List Byte) :=
  if d.layout = 3 then
    expandStream (fun k => match s.tensorPhys d m .read st k with | some a => s.physByte a | none => 0)
  else some (packElems (typeBits d.typ) (s.elems s.physByte d m st 0 d.count))

/-- A record as the ring logic commits it: a contact sheet later than 25 ms after its ORIGIN carries LATE (R27, R344). -/
def State.stampLate (s : State) (b : List Byte) : List Byte :=
  if leAt b 0 1 = 0x30 ∧ leAt b 8 8 + 25000000 < s.now then b.set 1 (BitVec.ofNat 8 (leAt b 1 1 ||| 1)) else b

/-- Commit a contact sheet's record and let its frame leave flight where it is FINAL (R344). -/
def State.sheetLeaves (s : State) (b : List Byte) : State :=
  if leAt b 0 1 = 0x30 ∧ bit (leAt b 1 1) 4 = true then s.leaveFlight (leAt b 20 1 % 16) (leAt b 16 4) else s

/-- POST: the tensor is committed as a record on the result ring; a full ring holds the bundle (R163, R344). -/
def execCtrlPost (n : Fin 22) (s : State) : Out State :=
  .next (s.ctrlSlot n.val 8 (fun p y =>
    let n := n.val
    let h := bits y 44 12
    let ring := bits y 32 4
    let d := p.desc h
    let st := s.crTail d.crnum
    match s.touch n p.start.ctx (d.touches h .read d.covered) [] with
    | (.fault t f, s) => s.suspendOp n p (sideOp 1) 7 t f h
    | (.ok m, s) =>
      let m := s.noRemote m
      let s := s.violatePages n p.start.ctx m
      match s.readCheck n p d.notag (d.covered.filterMap (fun k => s.tensorPhys d m .read st k)) 1 h d.base with
      | (false, s) => s
      | (true, s) =>
        match s.postBytes d m st with
        | none => s.halt n 0x0C 1 h d.base
        | some b =>
          let ents := leAt b 2 2
          let typ := leAt b 0 1
          if b.length < 64 ∨ ents = 0 ∨ 16 < ents ∨ b.length < 64 * ents ∨ typ = 0 ∨ typ = 0xF0 then s.halt n 0x04 1 h 0
          else if ringOwner ring ≠ p.start.ctx then
            (s.violate p.start.ctx n 0x7 d.base).setRun n (some p.ctrlEnd)
          else
            let rec' := s.stampLate (b.take (64 * ents))
            match s.tryCommit ring rec' with
            | (.full, s) => s
            | (.dropped, s) => s.setRun n (some p.ctrlEnd)
            | (.done, s) => (s.sheetLeaves rec').setRun n (some p.ctrlEnd)))

/-! ### Commit (R160, R174) -/

/-- Whether a BR's condition holds for its mark (R174). -/
def brTaken (marktype : Nat) (marks : List Word) (y : Nat) : Bool :=
  let m := bits y 49 4
  let v := (marks.getD m 0).toNat
  let imm := bits y 0 32
  let fp := bit marktype m
  let lt (a b : Nat) : Bool := if fp then flt a b else decide (toSigned 32 a < toSigned 32 b)
  let eq (a b : Nat) : Bool := if fp then feq a b else a == b
  match bits y 53 3 with
  | 0 => true
  | 1 => eq v imm
  | 2 => !eq v imm
  | 3 => lt v imm
  | 4 => lt imm v || eq v imm
  | 5 => lt v imm || eq v imm
  | _ => lt imm v

/-- Whether everything of the bundle but its commit is done. -/
def Prog.commitDue (p : Prog) (b : Bundle) : Bool :=
  p.phase == .ctrlDone ||
  (b.slot 1 == none && (p.phase == .redDone || (p.phase == .opsDone && b.slot 6 == none)))

/-- End the running program of stream `n` (R155). -/
def State.endProgram (s : State) (n : Nat) (p : Prog) : State :=
  let s := s.addCompletion n p 0 0 p.pc
  let s := s.setStream n { (s.stream n).remember p with run := none }
  if p.start.bcast then s.endBroadcast n else s

/-- The program with the bundle after the committed one: issued already, fetched ahead, or to be fetched. -/
def State.nextBundle (s : State) (n : Nat) (p : Prog) (next : Nat) : Prog :=
  let p := { p with pc := next, phase := .fetch, bundle := none, ops := [], markWr := [], expWr := [] }
  match p.behind with
  | b :: t =>
    let q := p.withBundle b s.now
    { q with phase := .issued, ops := s.issuedOps n b, behind := t }.advance
  | [] =>
    match p.ahead with
    | some b => if b.pc = next then { p.withBundle b s.now with ahead := none } else { p with ahead := none }
    | none => p

/-- BUNDLE_COMMIT: marks and expect counters are written, the bell is signalled, then BR is decided or END taken (R160, R171, R174).
A program whose timed group broke halts at this boundary (R177). -/
def execBundleCommit (n : Fin 22) (s : State) : Out State :=
  .next (
    let n := n.val
    match (s.stream n).run with
    | none => s
    | some p =>
      match p.bundle with
      | none => s
      | some b =>
        if !p.commitDue b then s
        else
          let marks := p.markWr.foldl (fun l x => setAt l x.1 x.2) p.marks
          let exps := p.expWr.foldl (fun l x => setAt l x.1 x.2) p.expect
          let p := { p with marks := marks, expect := exps }
          let y0 := (b.slot 0).getD 0
          let y1 := (b.slot 1).getD 0
          let s := if bit y0 21 then s.ring (bits y0 12 9) (bits y0 4 8) else s
          if p.ending then s.endProgram n p
          else
            let taken := bits y1 56 8 = 2 ∧ brTaken p.marktype marks y1 = true
            let next := if taken then 4 * bits y1 32 17 else b.pc + b.size
            let q := s.nextBundle n { p with branch := if taken then some next else none } next
            let s := s.setRun n (some q)
            if p.broken then s.halt n 0x14 15 0xFFFF 0 else s)

end Sys2Proof.Machine
end

