-- ==== Sys2Proof/Machine/Tap.lean ====
section
/-! DEFINITION. The JTAG TAP (spec/20 R570 and R571, spec/21 R573): its instructions, boundary scan, and the debug access that DBGEN
opens. -/

namespace Sys2Proof.Machine

def State.setTap (s : State) (x : Tap) : State := { s with tap := x }

/-- The 32 bits of the identification register (Table 21-1). -/
def State.idcode (s : State) : Nat :=
  s.fget F.SYS_PARTID_STEP * 2 ^ 28 + s.fget F.SYS_PARTID_PART * 2 ^ 12 + 0x47B * 2 + 1

/-- A scan of the boundary register: the levels `pins` leave it and `shift` enters it. -/
def State.scan (s : State) (ir : Byte) (pins shift : BitVec 21) : State :=
  (s.setTap { s.tap with ir := ir, bsr := shift }).respond false (leBytes 3 pins.toNat)

/-- TAP_EXTEST: the covered balls drive and capture through the boundary-scan register (R571). They have the levels `pins`; from the
next update the register drives `shift`. -/
def execTapExtest (pins shift : BitVec 21) (s : State) : Out State := .next (s.scan 0x00 pins shift)

/-- TAP_SAMPLE_PRELOAD: the covered balls keep their functions. -/
def execTapSamplePreload (pins shift : BitVec 21) (s : State) : Out State := .next (s.scan 0x02 pins shift)

/-- TAP_IDCODE. -/
def execTapIdcode (s : State) : Out State :=
  .next ((s.setTap { s.tap with ir := 0x01 }).respond false (leBytes 4 s.idcode))

/-- The codes that select a register of their own: those of Table 21-1, and DTMCS and DMI where DBGEN was sampled as 1 (R573). -/
def State.tapDecodes (s : State) (code : Byte) : Bool :=
  code == 0 || code == 1 || code == 2 || (s.flag F.SYS_STRAP_DBGEN && (code == 0x10 || code == 0x11))

/-- BYPASS selected by a code, and eight bits `tdi` through the register, which captures 0. -/
def State.bypass (s : State) (code tdi : Byte) : State :=
  (s.setTap { s.tap with ir := code, dr := tdi.msb }).respond false [tdi <<< 1]

/-- TAP_BYPASS: 0xFF or a code that nothing decodes. A code that another instruction has is none of this command. -/
def execTapBypass (code tdi : Byte) (s : State) : Out State :=
  .next (if s.tapDecodes code then s else s.bypass code tdi)

/-- TAP_DEBUG_ACCESS: code 0x10 (DTMCS), or 0x11 (DMI) where `dmi`. With DBGEN sampled as 0 the code selects BYPASS. What the debug
module's registers hold the spec leaves to another document: a free value. A debugger has the rights of machine mode: `set` is the
`lyctx` that it writes (R570, R127). -/
def execTapDebugAccess (dmi : Bool) (set : Option (Fin 2 × Word)) (s : State) : Out State :=
  .next (
    let code : Byte := if dmi then 0x11 else 0x10
    if !s.flag F.SYS_STRAP_DBGEN then s.bypass code 0
    else
      let x := s.draw
      let s := (x.2.setTap { x.2.tap with ir := code }).respond false (leBytes 5 (x.1 % 2 ^ 40))
      match set with
      | some (p, v) => if dmi && s.domOn 2 then s.writeLyctx p v else s
      | none => s)

/-- TAP_RESET: only the TAP controller (R538). -/
def execTapReset (s : State) : Out State := .next (s.setTap { s.tap with ir := 0x01, dr := false })

end Sys2Proof.Machine
end

