-- ==== Sys2Proof/Machine/Dispatch.lean ====
section
/-! DEFINITION. What each command does, one arm per constructor of Instr. -/

namespace Sys2Proof.Machine

/-- The effect of a command on the state. -/
def exec (i : Instr) (s : State) : Host.Outcome State Fault Refusal :=
  match i with
  | .powerOnReset ref supply => Sys2Proof.Machine.execPowerOnReset ref supply s
  | .externalReset => Sys2Proof.Machine.execExternalReset s
  | .restart slotErr secErr installOk us h => Sys2Proof.Machine.execRestart slotErr secErr installOk us h s
  | .pendingEraseRedo k ok => Sys2Proof.Machine.execPendingEraseRedo k ok s
  | .confirmWindowExpire => Sys2Proof.Machine.execConfirmWindowExpire s
  | .bootConfirm r v => Sys2Proof.Machine.execBootConfirm r v s
  | .bootLock r v => Sys2Proof.Machine.execBootLock r v s
  | .bootRestartRequest r v => Sys2Proof.Machine.execBootRestartRequest r v s
  | .bootUpdateRequest r v => Sys2Proof.Machine.execBootUpdateRequest r v s
  | .bootRevokeWrite r v => Sys2Proof.Machine.execBootRevokeWrite r v s
  | .registerWrite r a v => Sys2Proof.Machine.execRegisterWrite r a v s
  | .stagedFieldWrite r a v => Sys2Proof.Machine.execStagedFieldWrite r a v s
  | .stagedCommitWrite r a v => Sys2Proof.Machine.execStagedCommitWrite r a v s
  | .wallofsHiWrite r v => Sys2Proof.Machine.execWallofsHiWrite r v s
  | .latchingLoRead r a => Sys2Proof.Machine.execLatchingLoRead r a s
  | .d2dTransferUnit link crcOk => Sys2Proof.Machine.execD2dTransferUnit link crcOk s
  | .narrowAccess r write a sz v ecc rivals => Sys2Proof.Machine.execNarrowAccess r write a sz v ecc rivals s
  | .wideAccess r write a data tag check ecc rivals => Sys2Proof.Machine.execWideAccess r write a data tag check ecc rivals s
  | .splitRequest r v => Sys2Proof.Machine.execSplitRequest r v s
  | .splitEnter => Sys2Proof.Machine.execSplitEnter s
  | .splitLeave r v => Sys2Proof.Machine.execSplitLeave r v s
  | .conflictCounterClear r v => Sys2Proof.Machine.execConflictCounterClear r v s
  | .l1CacheResize r n v => Sys2Proof.Machine.execL1CacheResize r n v s
  | .l1CacheResizeDone n => Sys2Proof.Machine.execL1CacheResizeDone n s
  | .l1Flush r n v => Sys2Proof.Machine.execL1Flush r n v s
  | .l1Invalidate r n v => Sys2Proof.Machine.execL1Invalidate r n v s
  | .wbmCacheResize r v => Sys2Proof.Machine.execWbmCacheResize r v s
  | .wbmCacheInvalidate r v => Sys2Proof.Machine.execWbmCacheInvalidate r v s
  | .wbmCacheFill r a => Sys2Proof.Machine.execWbmCacheFill r a s
  | .regionEnable r n v => Sys2Proof.Machine.execRegionEnable r n v s
  | .regionClear r n v => Sys2Proof.Machine.execRegionClear r n v s
  | .regionRelease r n v => Sys2Proof.Machine.execRegionRelease r n v s
  | .arrivalStart n p tag len => Sys2Proof.Machine.execArrivalStart n p tag len s
  | .arrivalComplete n p tag => Sys2Proof.Machine.execArrivalComplete n p tag s
  | .rowRepair r v => Sys2Proof.Machine.execRowRepair r v s
  | .rowRepairDone => Sys2Proof.Machine.execRowRepairDone s
  | .lyctxWrite p machine v => Sys2Proof.Machine.execLyctxWrite p machine v s
  | .bellRangeWrite r n v => Sys2Proof.Machine.execBellRangeWrite r n v s
  | .tlbInvalidate r v => Sys2Proof.Machine.execTlbInvalidate r v s
  | .tlbInvalidateDone => Sys2Proof.Machine.execTlbInvalidateDone s
  | .faultResume r v => Sys2Proof.Machine.execFaultResume r v s
  | .faultAbort r v => Sys2Proof.Machine.execFaultAbort r v s
  | .faultTimeout c index => Sys2Proof.Machine.execFaultTimeout c index s
  | .contextDisable r n v => Sys2Proof.Machine.execContextDisable r n v s
  | .violCaptureArm r n v => Sys2Proof.Machine.execViolCaptureArm r n v s
  | .violCountClear r n v => Sys2Proof.Machine.execViolCountClear r n v s
  | .preemption n => Sys2Proof.Machine.execPreemption n s
  | .engStartGo r n v => Sys2Proof.Machine.execEngStartGo r n v s
  | .programBegin n => Sys2Proof.Machine.execProgramBegin n s
  | .broadcastStart n => Sys2Proof.Machine.execBroadcastStart n s
  | .bundleFetch n => Sys2Proof.Machine.execBundleFetch n s
  | .syncWaitSatisfied n w => Sys2Proof.Machine.execSyncWaitSatisfied n w s
  | .bundleIssue n => Sys2Proof.Machine.execBundleIssue n s
  | .timedGroupRelease r v => Sys2Proof.Machine.execTimedGroupRelease r v s
  | .timedBundleDue n => Sys2Proof.Machine.execTimedBundleDue n s
  | .bundleCommit n => Sys2Proof.Machine.execBundleCommit n s
  | .completionRecordCommit n => Sys2Proof.Machine.execCompletionRecordCommit n s
  | .haltRequest r n v => Sys2Proof.Machine.execHaltRequest r n v s
  | .haltClear r n v => Sys2Proof.Machine.execHaltClear r n v s
  | .bellIncrementWrite r b v => Sys2Proof.Machine.execBellIncrementWrite r b v s
  | .bellSetWrite r b v incs => Sys2Proof.Machine.execBellSetWrite r b v incs s
  | .ctrlEnd n => Sys2Proof.Machine.execCtrlEnd n s
  | .ctrlBr n => Sys2Proof.Machine.execCtrlBr n s
  | .ctrlExpset n => Sys2Proof.Machine.execCtrlExpset n s
  | .ctrlMarkset n => Sys2Proof.Machine.execCtrlMarkset n s
  | .ctrlRelease n => Sys2Proof.Machine.execCtrlRelease n s
  | .ctrlL1 n => Sys2Proof.Machine.execCtrlL1 n s
  | .ctrlDelay n => Sys2Proof.Machine.execCtrlDelay n s
  | .ctrlPost n => Sys2Proof.Machine.execCtrlPost n s
  | .red n => Sys2Proof.Machine.execRed n s
  | .mstore n => Sys2Proof.Machine.execMstore n s
  | .mload n => Sys2Proof.Machine.execMload n s
  | .rpt n => Sys2Proof.Machine.execRpt n s
  | .copy n => Sys2Proof.Machine.execCopy n s
  | .fill n => Sys2Proof.Machine.execFill n s
  | .dmChunk n => Sys2Proof.Machine.execDmChunk n s
  | .mvm n => Sys2Proof.Machine.execMvm n s
  | .deck n => Sys2Proof.Machine.execDeck n s
  | .exposureSlot n second devs => Sys2Proof.Machine.execExposureSlot n second devs s
  | .mvmCommit n second => Sys2Proof.Machine.execMvmCommit n second s
  | .satCounterClear r d v => Sys2Proof.Machine.execSatCounterClear r d v s
  | .tileErase d t => Sys2Proof.Machine.execTileErase d t s
  | .tileEraseDone d t bad pulse => Sys2Proof.Machine.execTileEraseDone d t bad pulse s
  | .tileProgram d t => Sys2Proof.Machine.execTileProgram d t s
  | .programRow d t p1 p2 cells => Sys2Proof.Machine.execProgramRow d t p1 p2 cells s
  | .tileTopup d t => Sys2Proof.Machine.execTileTopup d t s
  | .tileCalibrate d t => Sys2Proof.Machine.execTileCalibrate d t s
  | .darkroomStep d t trim n lo hi seg fails cells pulsed => Sys2Proof.Machine.execDarkroomStep d t trim n lo hi seg fails cells pulsed s
  | .darkroomReenter d t => Sys2Proof.Machine.execDarkroomReenter d t s
  | .tileMapset d t => Sys2Proof.Machine.execTileMapset d t s
  | .tileRetire d t => Sys2Proof.Machine.execTileRetire d t s
  | .calibrationDue d t p => Sys2Proof.Machine.execCalibrationDue d t p s
  | .driftPersist d t => Sys2Proof.Machine.execDriftPersist d t s
  | .switchArm r d v => Sys2Proof.Machine.execSwitchArm r d v s
  | .switchDisarm r d v => Sys2Proof.Machine.execSwitchDisarm r d v s
  | .deckMapSwitch st => Sys2Proof.Machine.execDeckMapSwitch st s
  | .statsArm r d v => Sys2Proof.Machine.execStatsArm r d v s
  | .ringEnable r job q v => Sys2Proof.Machine.execRingEnable r job q v s
  | .operandResident n xp => Sys2Proof.Machine.execOperandResident n xp s
  | .mma n => Sys2Proof.Machine.execMma n s
  | .dist n => Sys2Proof.Machine.execDist n s
  | .ewise n => Sys2Proof.Machine.execEwise n s
  | .norm n => Sys2Proof.Machine.execNorm n s
  | .softmax n => Sys2Proof.Machine.execSoftmax n s
  | .argmax n => Sys2Proof.Machine.execArgmax n s
  | .wino n => Sys2Proof.Machine.execWino n s
  | .optim n => Sys2Proof.Machine.execOptim n s
  | .dmeOutputTile n core fails => Sys2Proof.Machine.execDmeOutputTile n core fails s
  | .dmeCoreRetire r k v => Sys2Proof.Machine.execDmeCoreRetire r k v s
  | .dmeCoreRetirePerm r k v => Sys2Proof.Machine.execDmeCoreRetirePerm r k v s
  | .vstepChange r k v => Sys2Proof.Machine.execVstepChange r k v s
  | .vstepSettled k => Sys2Proof.Machine.execVstepSettled k s
  | .fft n => Sys2Proof.Machine.execFft n s
  | .window n => Sys2Proof.Machine.execWindow n s
  | .resamp n => Sys2Proof.Machine.execResamp n s
  | .env n => Sys2Proof.Machine.execEnv n s
  | .ceps n => Sys2Proof.Machine.execCeps n s
  | .skurt n => Sys2Proof.Machine.execSkurt n s
  | .band n => Sys2Proof.Machine.execBand n s
  | .marker n => Sys2Proof.Machine.execMarker n s
  | .layer n => Sys2Proof.Machine.execLayer n s
  | .sigArgmax n => Sys2Proof.Machine.execSigArgmax n s
  | .sheet n => Sys2Proof.Machine.execSheet n s
  | .stats n => Sys2Proof.Machine.execStats n s
  | .sigPass n parity => Sys2Proof.Machine.execSigPass n parity s
  | .orderTableBuild => Sys2Proof.Machine.execOrderTableBuild s
  | .sampleAvailable c t code fault => Sys2Proof.Machine.execSampleAvailable c t code fault s
  | .speedEdge k t => Sys2Proof.Machine.execSpeedEdge k t s
  | .slowSample k t v ohm => Sys2Proof.Machine.execSlowSample k t v ohm s
  | .digitalPortSample p t words => Sys2Proof.Machine.execDigitalPortSample p t words s
  | .biasMeasure n mv => Sys2Proof.Machine.execBiasMeasure n mv s
  | .iepeSettleEnd n => Sys2Proof.Machine.execIepeSettleEnd n s
  | .supplySample mv => Sys2Proof.Machine.execSupplySample mv s
  | .streamStart r n v => Sys2Proof.Machine.execStreamStart r n v s
  | .streamStopRequest r n v => Sys2Proof.Machine.execStreamStopRequest r n v s
  | .frameClose n => Sys2Proof.Machine.execFrameClose n s
  | .windowArrivalComplete n => Sys2Proof.Machine.execWindowArrivalComplete n s
  | .wakeRequest src k v => Sys2Proof.Machine.execWakeRequest src k v s
  | .stoRead => Sys2Proof.Machine.execStoRead s
  | .stoProgram => Sys2Proof.Machine.execStoProgram s
  | .stoErase => Sys2Proof.Machine.execStoErase s
  | .stoRelocate => Sys2Proof.Machine.execStoRelocate s
  | .stoCounts => Sys2Proof.Machine.execStoCounts s
  | .storageWordDone k ok => Sys2Proof.Machine.execStorageWordDone k ok s
  | .sectorEraseDone k ok => Sys2Proof.Machine.execSectorEraseDone k ok s
  | .storageReadChunk k errs => Sys2Proof.Machine.execStorageReadChunk k errs s
  | .storageWindowRead r a wide worst => Sys2Proof.Machine.execStorageWindowRead r a wide worst s
  | .spareErase k start => Sys2Proof.Machine.execSpareErase k start s
  | .stoCounterClear r v => Sys2Proof.Machine.execStoCounterClear r v s
  | .ledgerTick => Sys2Proof.Machine.execLedgerTick s
  | .ledgerRecordCommit => Sys2Proof.Machine.execLedgerRecordCommit s
  | .ledgerPortWrite what ok => Sys2Proof.Machine.execLedgerPortWrite what ok s
  | .snapshotDue => Sys2Proof.Machine.execSnapshotDue s
  | .ldgSnapnow r v => Sys2Proof.Machine.execLdgSnapnow r v s
  | .maxDemandClear r v => Sys2Proof.Machine.execMaxDemandClear r v s
  | .tariffOverrideWrite r v => Sys2Proof.Machine.execTariffOverrideWrite r v s
  | .ledgerKeyProgram r v => Sys2Proof.Machine.execLedgerKeyProgram r v s
  | .eventRingDrain => Sys2Proof.Machine.execEventRingDrain s
  | .vibrationSeverityEval e rms bias limit => Sys2Proof.Machine.execVibrationSeverityEval e rms bias limit s
  | .overspeedEval k t => Sys2Proof.Machine.execOverspeedEval k t s
  | .temperatureEval e mean ohm => Sys2Proof.Machine.execTemperatureEval e mean ohm s
  | .safetyResetRequest host => Sys2Proof.Machine.execSafetyResetRequest host s
  | .lockstepMismatch => Sys2Proof.Machine.execLockstepMismatch s
  | .sramScrubPass corrected bad => Sys2Proof.Machine.execSramScrubPass corrected bad s
  | .proctorWatchdogExpire => Sys2Proof.Machine.execProctorWatchdogExpire s
  | .clockMonitorCheck ok => Sys2Proof.Machine.execClockMonitorCheck ok s
  | .supplyMonitorTrip k => Sys2Proof.Machine.execSupplyMonitorTrip k s
  | .safetyLinkFrame toProctor ok => Sys2Proof.Machine.execSafetyLinkFrame toProctor ok s
  | .safetyLinkTimeout => Sys2Proof.Machine.execSafetyLinkTimeout s
  | .shadowReferenceTest ok => Sys2Proof.Machine.execShadowReferenceTest ok s
  | .shadowCoeffCrc ok => Sys2Proof.Machine.execShadowCoeffCrc ok s
  | .comparatorSelfTest ok => Sys2Proof.Machine.execComparatorSelfTest ok s
  | .outputReadback n vh vl ma limit hs ls moved => Sys2Proof.Machine.execOutputReadback n vh vl ma limit hs ls moved s
  | .darkTestPulse n hsOpen lsOpen moved => Sys2Proof.Machine.execDarkTestPulse n hsOpen lsOpen moved s
  | .suspectVerdict dme ua ub verdict origin => Sys2Proof.Machine.execSuspectVerdict dme ua ub verdict origin s
  | .safeInject r v => Sys2Proof.Machine.execSafeInject r v s
  | .aoRangeBreakEnd n => Sys2Proof.Machine.execAoRangeBreakEnd n s
  | .aoValueWrite r n v => Sys2Proof.Machine.execAoValueWrite r n v s
  | .aoOverrideWrite r n v => Sys2Proof.Machine.execAoOverrideWrite r n v s
  | .aoRefreshTimeout n => Sys2Proof.Machine.execAoRefreshTimeout n s
  | .aoLinkSilence => Sys2Proof.Machine.execAoLinkSilence s
  | .aoMonitor n rback limit => Sys2Proof.Machine.execAoMonitor n rback limit s
  | .hostFrameReceive p kind pcp src body => Sys2Proof.Machine.execHostFrameReceive p kind pcp src body s
  | .gptpFrame p kind domain capable master ppb => Sys2Proof.Machine.execGptpFrame p kind domain capable master ppb s
  | .qbvGateEntry p => Sys2Proof.Machine.execQbvGateEntry p s
  | .spitStatus => Sys2Proof.Machine.execSpitStatus s
  | .spitWrite body => Sys2Proof.Machine.execSpitWrite body s
  | .spitRead => Sys2Proof.Machine.execSpitRead s
  | .lrpHello p => Sys2Proof.Machine.execLrpHello p s
  | .lrpStatus p => Sys2Proof.Machine.execLrpStatus p s
  | .lrpPost p => Sys2Proof.Machine.execLrpPost p s
  | .lrpRead p => Sys2Proof.Machine.execLrpRead p s
  | .lrpFence p => Sys2Proof.Machine.execLrpFence p s
  | .lrpPassacq p => Sys2Proof.Machine.execLrpPassacq p s
  | .lrpPassrel p => Sys2Proof.Machine.execLrpPassrel p s
  | .lrpStop p => Sys2Proof.Machine.execLrpStop p s
  | .lrpResume p => Sys2Proof.Machine.execLrpResume p s
  | .lrpSnapshot p => Sys2Proof.Machine.execLrpSnapshot p s
  | .lrpBulkack p => Sys2Proof.Machine.execLrpBulkack p s
  | .lrpTariff p => Sys2Proof.Machine.execLrpTariff p s
  | .lrpMdclr p => Sys2Proof.Machine.execLrpMdclr p s
  | .lrpAovr p => Sys2Proof.Machine.execLrpAovr p s
  | .lrpSafereset p => Sys2Proof.Machine.execLrpSafereset p s
  | .lrpLedgerkey p => Sys2Proof.Machine.execLrpLedgerkey p s
  | .imgbegin p => Sys2Proof.Machine.execImgbegin p s
  | .imgdata p => Sys2Proof.Machine.execImgdata p s
  | .imgend p flashOk => Sys2Proof.Machine.execImgend p flashOk s
  | .bulkPacketSend h => Sys2Proof.Machine.execBulkPacketSend h s
  | .bulkResendTimeout h => Sys2Proof.Machine.execBulkResendTimeout h s
  | .jobEntryServe q => Sys2Proof.Machine.execJobEntryServe q s
  | .jobStatusRecord q => Sys2Proof.Machine.execJobStatusRecord q s
  | .jobTailWrite r q v => Sys2Proof.Machine.execJobTailWrite r q v s
  | .fenceRequest r q v => Sys2Proof.Machine.execFenceRequest r q v s
  | .autoFenceDue q => Sys2Proof.Machine.execAutoFenceDue q s
  | .fenceCommit q => Sys2Proof.Machine.execFenceCommit q s
  | .hallPassAcquireHome r v => Sys2Proof.Machine.execHallPassAcquireHome r v s
  | .hallPassReleaseHome r v => Sys2Proof.Machine.execHallPassReleaseHome r v s
  | .hallPassRevoke r n v => Sys2Proof.Machine.execHallPassRevoke r n v s
  | .hallPassExpire n => Sys2Proof.Machine.execHallPassExpire n s
  | .portTraining p partner good => Sys2Proof.Machine.execPortTraining p partner good s
  | .portTrainRetry p => Sys2Proof.Machine.execPortTrainRetry p s
  | .laneFail p lane => Sys2Proof.Machine.execLaneFail p lane s
  | .wrapNotice p crossing => Sys2Proof.Machine.execWrapNotice p crossing s
  | .flitReceive p flit num ctl swallowed errs => Sys2Proof.Machine.execFlitReceive p flit num ctl swallowed errs s
  | .replayTimeout p => Sys2Proof.Machine.execReplayTimeout p s
  | .flitSend p => Sys2Proof.Machine.execFlitSend p s
  | .rollCallStart => Sys2Proof.Machine.execRollCallStart s
  | .rollCallRootDecided => Sys2Proof.Machine.execRollCallRootDecided s
  | .rollCallDirectory devs links standby => Sys2Proof.Machine.execRollCallDirectory devs links standby s
  | .segmentSend n => Sys2Proof.Machine.execSegmentSend n s
  | .segmentReceive p vc flashOk => Sys2Proof.Machine.execSegmentReceive p vc flashOk s
  | .segmentCompletion p => Sys2Proof.Machine.execSegmentCompletion p s
  | .e2eTimeout xfer ofs => Sys2Proof.Machine.execE2eTimeout xfer ofs s
  | .forwardRecordReceive p => Sys2Proof.Machine.execForwardRecordReceive p s
  | .forwardDropTimeout => Sys2Proof.Machine.execForwardDropTimeout s
  | .chnMessageSend r v => Sys2Proof.Machine.execChnMessageSend r v s
  | .chainTimeBroadcast lower any => Sys2Proof.Machine.execChainTimeBroadcast lower any s
  | .chainTimeReceive p resid => Sys2Proof.Machine.execChainTimeReceive p resid s
  | .linkDelayMeasure p ns => Sys2Proof.Machine.execLinkDelayMeasure p ns s
  | .imageRequestBroadcast => Sys2Proof.Machine.execImageRequestBroadcast s
  | .refclkLoss => Sys2Proof.Machine.execRefclkLoss s
  | .domainSwitchOff r v => Sys2Proof.Machine.execDomainSwitchOff r v s
  | .domainSwitchOn r v => Sys2Proof.Machine.execDomainSwitchOn r v s
  | .watchdogEnable r v => Sys2Proof.Machine.execWatchdogEnable r v s
  | .watchdogKick r v => Sys2Proof.Machine.execWatchdogKick r v s
  | .watchdogExpire => Sys2Proof.Machine.execWatchdogExpire s
  | .recessRequest r v bad => Sys2Proof.Machine.execRecessRequest r v bad s
  | .powerFailWarning mv bad flushed us => Sys2Proof.Machine.execPowerFailWarning mv bad flushed us s
  | .powerFailClear => Sys2Proof.Machine.execPowerFailClear s
  | .thermalReading t => Sys2Proof.Machine.execThermalReading t s
  | .thermalShutdown bad flushed us => Sys2Proof.Machine.execThermalShutdown bad flushed us s
  | .thermalHoldEnd => Sys2Proof.Machine.execThermalHoldEnd s
  | .tapExtest pins shift => Sys2Proof.Machine.execTapExtest pins shift s
  | .tapIdcode => Sys2Proof.Machine.execTapIdcode s
  | .tapSamplePreload pins shift => Sys2Proof.Machine.execTapSamplePreload pins shift s
  | .tapBypass code tdi => Sys2Proof.Machine.execTapBypass code tdi s
  | .tapDebugAccess dmi set => Sys2Proof.Machine.execTapDebugAccess dmi set s
  | .tapReset => Sys2Proof.Machine.execTapReset s
  | .refclkPresent => Sys2Proof.Machine.execRefclkPresent s
  | .fieldSupplyReady h => Sys2Proof.Machine.execFieldSupplyReady h s
  | .pllLockLoss us => Sys2Proof.Machine.execPllLockLoss us s
  | .gptpSyncLoss p => Sys2Proof.Machine.execGptpSyncLoss p s
  | .hostPortLinkChange p up => Sys2Proof.Machine.execHostPortLinkChange p up s
  | .unreachableAddressExpiry a => Sys2Proof.Machine.execUnreachableAddressExpiry a s

end Sys2Proof.Machine
end

