-- ==== Sys2Proof/Machine/Tick.lean ====
section
/-! DEFINITION. The block's clock (R16, R17). -/

namespace Sys2Proof.Machine

/-- One tick: TIMEBASE counts one DCLK cycle, or, in Recess, one REFCLK edge of 40 cycles (R17). -/
def State.tick (s : State) : State :=
  { s with timebase := s.timebase + (if s.fget F.PWR_STAT_STATE = 2 then 40 else 1) }

end Sys2Proof.Machine
end

