-- ==== Sys2Proof/Safety.lean ====
section
/-! DEFINITION. What claims call safe: states in which the memory keeps its canonical form, and steps that answer a next state. -/

namespace Sys2Proof.Machine

/-- The invariant of the block's memories: SRAM, its tags and flags are in canonical form, and so are the register file and the storage
array. -/
def State.memInv (s : State) : Bool :=
  s.mem.wf && Sparse.wf regReset s.regs && Sparse.wf (fun _ => (0xFF : Byte)) s.sto.cells

/-- The parts of the state, one for each field: what frames speak of. -/
inductive Part where
  | timebase | regs | shadows | armed | latches | lyctx0 | lyctx1 | locked | d2dFails | mem | memsys | mmu | streams |
  sto | rings | chn | cim | acq | aos | aoSilent | safe | ledger | hosts | pwr | boot | tap | irqCimp | events |
  irqFault | irqHalt | irqSto | resp | tx | free | pending
deriving DecidableEq, Repr

/-- A part is the same in two states. -/
def Part.same (p : Part) (s t : State) : Prop :=
  match p with
  | .timebase => t.timebase = s.timebase
  | .regs => t.regs = s.regs
  | .shadows => t.shadows = s.shadows
  | .armed => t.armed = s.armed
  | .latches => t.latches = s.latches
  | .lyctx0 => t.lyctx0 = s.lyctx0
  | .lyctx1 => t.lyctx1 = s.lyctx1
  | .locked => t.locked = s.locked
  | .d2dFails => t.d2dFails = s.d2dFails
  | .mem => t.mem = s.mem
  | .memsys => t.memsys = s.memsys
  | .mmu => t.mmu = s.mmu
  | .streams => t.streams = s.streams
  | .sto => t.sto = s.sto
  | .rings => t.rings = s.rings
  | .chn => t.chn = s.chn
  | .cim => t.cim = s.cim
  | .acq => t.acq = s.acq
  | .aos => t.aos = s.aos
  | .aoSilent => t.aoSilent = s.aoSilent
  | .safe => t.safe = s.safe
  | .ledger => t.ledger = s.ledger
  | .hosts => t.hosts = s.hosts
  | .pwr => t.pwr = s.pwr
  | .boot => t.boot = s.boot
  | .tap => t.tap = s.tap
  | .irqCimp => t.irqCimp = s.irqCimp
  | .events => t.events = s.events
  | .irqFault => t.irqFault = s.irqFault
  | .irqHalt => t.irqHalt = s.irqHalt
  | .irqSto => t.irqSto = s.irqSto
  | .resp => t.resp = s.resp
  | .tx => t.tx = s.tx
  | .free => t.free = s.free
  | .pending => t.pending = s.pending

/-- From `s` to `t` only the parts of a list may have changed. -/
def State.only (s t : State) (l : List Part) : Prop := ∀ p, p ∉ l → p.same s t

/-- From `s` to `t` only the registers at the addresses of a list may have changed. -/
def State.regsOnly (s t : State) (l : List Nat) : Prop := ∀ a, a ∉ l → t.rd a = s.rd a

/-- From `s` to `t` only the `n` bytes of SRAM at address `a` may have changed. -/
def State.bytesOnly (s t : State) (a n : Nat) : Prop := ∀ b, ¬(a ≤ b ∧ b < a + n) → t.mem.byte b = s.mem.byte b

/-- A powered requester in the context of home, which is enabled (R128, R129). -/
abbrev State.homeReq (s : State) (r : Req) : Prop := s.reqOn r = true ∧ s.ctxOf r = 0 ∧ s.ctxEnabled 0 = true

/-- The pages of an operand's byte offsets translated for stream `n`, its violating pages counted: the page map and the state then. None
where a page is not mapped. -/
def State.mapped (s : State) (n : Nat) (p : Prog) (d : Desc) (h : Nat) (acc : Acc3) (offs : List Nat) : Option (PageMap × State) :=
  match s.touch n p.start.ctx (d.touches h acc offs) [] with
  | (.ok m, u) => some (u.noRemote m, u.violatePages n p.start.ctx (u.noRemote m))
  | (.fault _ _, _) => none

/-- Command `c` of opcode `op` is the next that starts on tile `tl` of die `d`'s programming unit, and nothing refuses it (R219, R220,
R231); `u` is the state once the unit has read its ring up to HEAD (R218). -/
def State.cimpReady (s u : State) (d op tl : Nat) (c : TileCmd) : Prop :=
  u = s.cimpFetch d 256 ∧ u.startsBarred = false ∧ u.runningOn d tl = none ∧ (u.cmds d).find? (fun c => c.tile == tl) = some c ∧ c.op = op ∧
  ((u.cmds d).filter (·.running)).length < min 64 (u.fget F.CIMP_CTL_MAXPROG d) ∧
  (op = 3 ∨ op = 4 → (u.darkTiles d).length < u.fget F.CIMP_DARK_MAX d) ∧ u.cmdRefusal d c = 0

/-- The next message of port `p` is one of host `h` with operation `op` and payload `d` that passes every check (R475, R476); `u` is the
state once it is taken: out of its buffer, its counter noted, its source kept. -/
def State.lrpMsg (s u : State) (p op h : Nat) (d : List Byte) : Prop :=
  s.domOn 2 = true ∧ leAt d 0 1 = op ∧ leAt d 1 3 = 0 ∧ 8 ≤ d.length ∧
  ∃ urgent i k n c, s.nextPkt p = some (urgent, i, k) ∧ s.readMsg p k = .secured h n c d ∧ (urgent = true → op = 7) ∧
    u = ((s.dropPkt p urgent i).acceptMsg h n c).setHostX h { ((s.dropPkt p urgent i).acceptMsg h n c).hostX h with addr := k.src }

/-- The next message of port `p`, in enrolment, is an open one with operation `op` and payload `d` from address `a` (R490); `u` is the
state once it is taken. -/
def State.imgMsg (s u : State) (p op : Nat) (a d : List Byte) : Prop :=
  s.domOn 2 = true ∧ leAt d 0 1 = op ∧ leAt d 1 3 = 0 ∧ 8 ≤ d.length ∧
  ∃ i k, s.nextPkt p = some (false, i, k) ∧ s.readMsg p k = .plain d ∧ a = k.src ∧ u = s.dropPkt p false i

/-- A run that neither faults nor is refused. -/
def State.runs (n : Nat) (s : State) : Prop := ∃ t, Sys2Proof.core.run n s = .next t

end Sys2Proof.Machine
end

