-- ==== Sys2Proof/Certificates/Slice0/Obligations.lean ====
section
/-! DEFINITION. The statements for the provers. `State.only`, `State.regsOnly` and `State.bytesOnly` of Safety.lean are the frames: which
parts of the state, which registers and which bytes of SRAM a command may change. -/

open Sys2Proof Sys2Proof.Machine

/-- A step runs the command at the front of the queue. Derived from: Step of the block (README of the row: commands come one at a
time). -/
def Obligations.StepRunsFrontCommand : Prop :=
  ∀ (c : Instr) (rest : List Instr) (s : State),
    step { s with pending := c :: rest } = exec c { s with pending := rest }

/-- A step on an empty queue is one clock tick: TIMEBASE advances by 1, in Recess by 40. Derived from: 01_device_overview: R16, R17. -/
def Obligations.IdleStepCountsTime : Prop :=
  ∀ s : State, s.pending = [] → ∃ t, step s = .next t ∧
    t = { s with timebase := s.timebase + (if s.fget F.PWR_STAT_STATE = 2 then 40 else 1) }

/-- Reset: TIMEBASE 0, every SRAM byte 0, bells 0, lyctx home and frame work, no lock, no command waiting. Derived from:
03_on_package_memory: R84 zeroed SRAM; 05_engine_programs: R171 bells; 04_contexts_and_translation: R127 lyctx reset;
01_device_overview: R18. -/
def Obligations.ResetLeavesStartValues : Prop :=
  State.reset.timebase = 0 ∧ (∀ a, State.reset.mem.byte a = 0) ∧ (∀ b, State.reset.mem.tagOk b = true) ∧
  (∀ b, b < 512 → State.reset.bell b = 0) ∧ State.reset.lyctx0 = 0x10 ∧ State.reset.lyctx1 = 0x10 ∧
  State.reset.locked = false ∧ (∀ n, State.reset.stream n = Stream.idle) ∧ State.reset.pending = []

/-- The canonical form of SRAM, register file and storage array holds at reset. Derived from: 03_on_package_memory. -/
def Obligations.ResetHasCanonicalMemories : Prop :=
  State.reset.memInv = true

/-- Every step keeps the canonical form of SRAM, register file and storage array. Derived from: 03_on_package_memory;
13_storage_array. -/
def Obligations.StepKeepsCanonicalMemories : Prop :=
  ∀ s t : State, s.memInv = true → step s = .next t → t.memInv = true

/-- Every command answers a next state and leaves the commands that wait as they are. Derived from: 00_scope. -/
def Obligations.CommandsLeaveTheQueueAlone : Prop :=
  ∀ (c : Instr) (s : State), ∃ t, exec c s = .next t ∧ t.pending = s.pending

/-- A step leaves TIMEBASE as it is, advances it by a tick, or sets it to 0. Derived from: 01_device_overview: R16, R17, R18. -/
def Obligations.TimebaseMovesOnlyByTicksAndResets : Prop :=
  ∀ s t : State, step s = .next t →
    t.timebase = s.timebase ∨ t.timebase = 0 ∨
    (s.pending = [] ∧ t.timebase = s.timebase + (if s.fget F.PWR_STAT_STATE = 2 then 40 else 1))

/-- TIMEBASE becomes 0 at power-on and external reset and is kept by every other reset and by every other command. Rules: R18. -/
def Obligations.OnlyResetsZeroTimebase : Prop :=
  (∀ (a b : Bool) (s : State), ∃ t, exec (.powerOnReset a b) s = .next t ∧ t.timebase = 0) ∧
  (∀ s : State, ∃ t, exec .externalReset s = .next t ∧ t.timebase = 0) ∧
  (∀ (s : State) (k : Nat), k ≠ 1 → k ≠ 2 → (s.intoReset k).timebase = s.timebase) ∧
  (∀ s t : State, exec .watchdogExpire s = .next t → t.timebase = s.timebase) ∧
  (∀ s t : State, exec .powerFailClear s = .next t → t.timebase = s.timebase) ∧
  (∀ s t : State, exec .thermalHoldEnd s = .next t → t.timebase = s.timebase) ∧
  (∀ s t : State, exec .confirmWindowExpire s = .next t → t.timebase = s.timebase) ∧
  (∀ (r : Req) (v : Word) (bad : List (Fin 32)) (s t : State), exec (.recessRequest r v bad) s = .next t → t.timebase = s.timebase) ∧
  (∀ (src : Fin 5) (k : Fin 8) (v : Word) (s t : State), exec (.wakeRequest src k v) s = .next t → t.timebase = s.timebase) ∧
  (∀ (mv : Half) (bad : List (Fin 32)) (f : Half) (us : Word) (s t : State),
    exec (.powerFailWarning mv bad f us) s = .next t → t.timebase = s.timebase) ∧
  (∀ (bad : List (Fin 32)) (f : Half) (us : Word) (s t : State),
    exec (.thermalShutdown bad f us) s = .next t → t.timebase = s.timebase)

/-- BOOT_CTRL by home: confirmation, the lock, a restart in 1 ms, and an update. Derived from: 02_configuration_image: Table 02-13,
R60, R61, R71, R73. -/
def Obligations.BootControlWritesTakeEffect : Prop :=
  (∀ (r : Req) (v : Word) (s : State), s.homeReq r → s.fget F.BOOT_STAT_STATE = 2 → s.flag F.BOOT_STAT_CONFIRMED = false →
    ∃ t, exec (.bootConfirm r v) s = .next t ∧ t.flag F.BOOT_STAT_CONFIRMED = true ∧ t.flag F.BOOT_STAT_TRIAL = false ∧
      t.boot.rollback = max s.boot.rollback s.boot.imgRollback ∧ s.only t [.regs, .locked, .boot] ∧
      s.regsOnly t [R.BOOT_STAT.at, R.BOOT_SLOTRES.at, R.BOOT_ROLLBACK.at]) ∧
  (∀ (r : Req) (v : Word) (s : State), s.homeReq r →
    ∃ t, exec (.bootLock r v) s = .next t ∧ t.locked = true ∧ t.flag F.BOOT_STAT_LOCKED = true ∧
      s.only t [.regs, .locked, .boot] ∧ s.regsOnly t [R.BOOT_STAT.at, R.BOOT_SLOTRES.at, R.BOOT_ROLLBACK.at]) ∧
  (∀ (r : Req) (v : Word) (s : State), s.homeReq r →
    ∃ t, exec (.bootRestartRequest r v) s = .next t ∧
      t.boot.restartAt = some (s.boot.restartAt.getD (s.now + 1000000, 4)) ∧ t.boot.update = s.boot.update ∧
      s.only t [.regs, .locked, .boot] ∧ s.regsOnly t [R.BOOT_STAT.at, R.BOOT_SLOTRES.at, R.BOOT_ROLLBACK.at]) ∧
  (∀ (r : Req) (v : Word) (s : State), s.homeReq r →
    ∃ t, exec (.bootUpdateRequest r v) s = .next t ∧
      t.boot.restartAt = some (s.boot.restartAt.getD (s.now + 1000000, 4)) ∧ t.boot.update = true ∧
      s.only t [.regs, .locked, .boot] ∧ s.regsOnly t [R.BOOT_STAT.at, R.BOOT_SLOTRES.at, R.BOOT_ROLLBACK.at])

/-- Key revocation programs OTP until the lock; an expired confirmation window avoids the slot and restarts. Derived from:
02_configuration_image: Table 02-14, R60, R71; 04_contexts_and_translation: R137. -/
def Obligations.RevocationAndConfirmWindow : Prop :=
  (∀ (r : Req) (v : Word) (s : State), s.homeReq r → s.locked = false → s.fget F.BOOT_STAT_STATE ≠ 2 →
    ∃ t, exec (.bootRevokeWrite r v) s = .next t ∧ t.boot.signRev = s.boot.signRev ||| getField v 0 4 ∧
      t.boot.safeRev = s.boot.safeRev ||| getField v 8 2 ∧ s.only t [.regs, .boot] ∧ s.regsOnly t [R.BOOT_REVOKE.at]) ∧
  (∀ (r : Req) (v : Word) (s : State), s.homeReq r → s.locked = true →
    v &&& ~~~(s.rd R.BOOT_REVOKE.at) &&& 0x30F ≠ 0 →
    ∃ t, exec (.bootRevokeWrite r v) s = .next t ∧ t = s.violateBy r 0x8 R.BOOT_REVOKE.at ∧ t.boot = s.boot) ∧
  (∀ s : State, s.flag F.BOOT_STAT_TRIAL = true → s.confirmLeft = 0 → s.bootSlot < 2 →
    ∃ t, exec .confirmWindowExpire s = .next t ∧ t.boot.step = 0 ∧ t.locked = false ∧ t.timebase = s.timebase ∧
      t.fget F.PWR_RSTCAUSE_CAUSE = 4 ∧
      t.flag (if s.bootSlot = 0 then F.BOOT_SLOTRES_AVOIDA else F.BOOT_SLOTRES_AVOIDB) = true)

/-- Every reset: cause code, zeroed SRAM, no program, and what AO and OTP keep. Derived from: 19_power_clock_reset: R537, R538,
Table 19-3, R547, R554, R539. -/
def Obligations.ResetsLeaveWhatTheSpecKeeps : Prop :=
  (∀ (ref supply : Bool) (s : State),
    ∃ t, exec (.powerOnReset ref supply) s = .next t ∧ t.fget F.PWR_RSTCAUSE_CAUSE = 1 ∧ t.timebase = 0 ∧ t.mem = Memory.fresh ∧
      t.streams = [] ∧ t.boot.step = 0 ∧ t.boot.flash = s.boot.flash ∧ t.pwr.refOk = ref ∧ t.pwr.supplyOk = supply ∧ t.pwr.warn = false ∧
      (∀ a, a ∈ keptRegs → t.rd a = s.rd a) ∧ (s.sto.active = [] → t.sto.cells = s.sto.cells)) ∧
  (∀ s : State, ∃ t, exec .externalReset s = .next t ∧ t.fget F.PWR_RSTCAUSE_CAUSE = 2 ∧ t.timebase = 0 ∧ t.mem = Memory.fresh ∧
      t.streams = [] ∧ t.boot.step = 0 ∧ t.locked = false ∧ t.boot.flash = s.boot.flash ∧
      (∀ a, a ∈ keptRegs ∨ (a ∈ aoRegs ∧ a ≠ R.LDG_EVSTAT.at) → t.rd a = s.rd a) ∧
      (s.sto.active = [] → t.sto.cells = s.sto.cells)) ∧
  (∀ s : State, s.flag F.PWR_WDOG_EN = true → s.pwrState = 0 → s.wdogSpan ≤ s.now - s.pwr.kickTb + s.pwr.wdUsed →
    ∃ t, exec .watchdogExpire s = .next t ∧ t.fget F.PWR_RSTCAUSE_CAUSE = 3 ∧ t.timebase = s.timebase ∧ t.mem = Memory.fresh ∧
      t.streams = [] ∧ t.boot.step = 0) ∧
  (∀ s : State, s.pwr.warn = true → s.pwrState = 6 → s.pwr.hot = false →
    ∃ t, exec .powerFailClear s = .next t ∧ t.fget F.PWR_RSTCAUSE_CAUSE = 6 ∧ t.pwr.warn = false ∧ t.boot.step = 0 ∧
      t.mem = Memory.fresh) ∧
  (∀ s : State, s.pwr.hot = true → s.pwrState = 6 → s.pwr.warn = false →
    ∃ t, exec .thermalHoldEnd s = .next t ∧ t.fget F.PWR_RSTCAUSE_CAUSE = 5 ∧ t.pwr.hot = false ∧ t.boot.step = 0 ∧
      t.mem = Memory.fresh)

/-- The last bell and thermal shutdown end with the core domains off and their cause held. Derived from: 19_power_clock_reset: R544,
R545, R552, Table 19-6. -/
def Obligations.PowerSequencesEndWithCoreDomainsOff : Prop :=
  (∀ (mv : Half) (bad : List (Fin 32)) (f : Half) (us : Word) (s : State), s.pwr.warn = false → s.pwrState = 0 → s.starting = false →
    ∃ t, exec (.powerFailWarning mv bad f us) s = .next t ∧ t.pwr.warn = true ∧ t.pwr.cause = some 0 ∧ t.pwrState = 6 ∧
      t.rget R.PWR_LBCOUNT = satAdd 32 (s.rget R.PWR_LBCOUNT) 1 ∧ t.rget R.PWR_LBTIME = us.toNat ∧
      t.domOn 2 = false ∧ t.domOn 3 = false ∧ t.domOn 4 = false ∧ t.domOn 5 = false ∧ t.domOn 6 = false ∧
      (∀ p, p < 3 → t.fget F.CHN_P_STAT_STATE p = 0) ∧ t.timebase = s.timebase) ∧
  (∀ (bad : List (Fin 32)) (f : Half) (us : Word) (s : State), s.pwr.hot = false → s.pwrState = 0 →
    ∃ t, exec (.thermalShutdown bad f us) s = .next t ∧ t.pwr.hot = true ∧ t.pwr.cause = some 1 ∧ t.pwrState = 6 ∧
      t.rget R.PWR_LBTIME = us.toNat ∧
      t.domOn 2 = false ∧ t.domOn 3 = false ∧ t.domOn 4 = false ∧ t.domOn 5 = false ∧ t.domOn 6 = false ∧
      (∀ p, p < 3 → t.fget F.CHN_P_STAT_STATE p = 0) ∧ t.timebase = s.timebase)

/-- Start-up without a flash enters enrolment, without REFCLK waits, and goes on with the field supply. Derived from:
02_configuration_image: R62, R75, R78; 19_power_clock_reset: R531, R534; 20_package_and_balls: R569; 13_storage_array: R395. -/
def Obligations.StartUpAndFieldSupply : Prop :=
  (∀ (a b : Fin 4) (o : Bool) (us : Word) (h : Health) (s : State), s.pwr.warn = false → s.boot.restartAt = none → s.boot.step = 0 →
    s.boot.pinTestmode = false → s.pwr.refOk = true → s.boot.flashLog = 0 →
    ∃ t, exec (.restart a b o us h) s = .next t ∧ t.fget F.BOOT_STAT_STATE = 3 ∧ t.fget F.BOOT_SLOTRES_RESA = 0x0F ∧
      t.fget F.BOOT_SLOTRES_RESB = 0x0F ∧ t.flag F.HOST_STAT_ENROL = true ∧ t.boot.step = 5 ∧ t.mem = Memory.fresh) ∧
  (∀ (a b : Fin 4) (o : Bool) (us : Word) (h : Health) (s : State), s.pwr.warn = false → s.boot.restartAt = none → s.boot.step = 0 →
    s.pwr.refOk = false →
    ∃ t, exec (.restart a b o us h) s = .next t ∧ t.boot.step = 1 ∧ t.fget F.PWR_STAT_DOMON = 1 ∧ t.fget F.PWR_STAT_CIMON = 0) ∧
  (∀ s : State, s.boot.step = 1 →
    ∃ t, exec .refclkPresent s = .next t ∧ t.pwr.refOk = true ∧ t.boot.step = 2 ∧ t.flag F.CLK_STAT_REFOK = true ∧
      t.flag F.CLK_STAT_LOCK = true ∧ s.only t [.regs, .pwr, .boot] ∧ s.regsOnly t [R.CLK_STAT.at]) ∧
  (∀ (h : Health) (s : State), s.boot.step = 8 →
    ∃ t, exec (.fieldSupplyReady h) s = .next t ∧ t.pwr.supplyOk = true ∧ t.boot.step = 10 ∧ t.locked = true ∧ t.acq.live = true) ∧
  (∀ (k : Fin 32) (n : Nat) (s : State), s.sto.pendErase = [n] → bankOfSector n = k.val →
    ∃ t, exec (.pendingEraseRedo k true) s = .next t ∧ t.sto.pendErase = [] ∧ t.flag F.STO_STAT_RECOVER = false ∧
      (t.sto.sector n).count = (s.sto.sector n).count + 1 ∧ s.only t [.regs, .sto])

/-- Recess request, wake and domain switching show what they did. Derived from: 19_power_clock_reset: R535, R540, R541, R542, R543,
Tables 19-2, 19-4, 19-5. -/
def Obligations.RecessWakeAndDomains : Prop :=
  (∀ (r : Req) (v : Word) (bad : List (Fin 32)) (s : State), s.homeReq r → bit v.toNat 31 = true → s.recessRefusal = 0 →
    ∃ t, exec (.recessRequest r v bad) s = .next t ∧ t.fget F.PWR_STAT_STATE = 2 ∧ t.fget F.PWR_RECESS_RESULT = 0 ∧
      t.fget F.PWR_STAT_DOMON = 3 ∧ t.fget F.PWR_STAT_CIMON = 0 ∧ t.flag F.CLK_STAT_LOCK = false) ∧
  (∀ (r : Req) (v : Word) (bad : List (Fin 32)) (s : State), s.homeReq r → bit v.toNat 31 = true → s.recessRefusal ≠ 0 →
    ∃ t, exec (.recessRequest r v bad) s = .next t ∧ t = s.fset F.PWR_RECESS_RESULT s.recessRefusal) ∧
  (∀ (k : Fin 8) (v : Word) (src : Fin 5) (s : State), src.val < 2 → bit (s.fget F.PWR_WAKEEN_EN) src.val = true → s.pwrState = 2 →
    s.pwr.hot = false →
    ∃ t, exec (.wakeRequest src k v) s = .next t ∧ t.fget F.PWR_STAT_STATE = 0 ∧ t.fget F.PWR_WAKECAUSE_CAUSE = 2 ^ src.val ∧
      t.flag F.CLK_STAT_LOCK = true) ∧
  (∀ (r : Req) (v : Word) (s : State), s.homeReq r → s.domRefusal v = 0 →
    ∃ t, exec (.domainSwitchOff r v) s = .next t ∧ t.rget R.PWR_DOMCTL = v.toNat &&& 0xF7) ∧
  (∀ (r : Req) (v : Word) (s : State), s.homeReq r → s.domRefusal v ≠ 0 →
    ∃ t, exec (.domainSwitchOff r v) s = .next t ∧
      t = (s.fset F.PWR_DOMCTL_RESULT (s.domRefusal v)).pwrCard 5 [BitVec.ofNat 8 (s.domRefusal v), BitVec.ofNat 8 v.toNat]) ∧
  (∀ (r : Req) (v : Word) (s : State), s.homeReq r → s.domRefusal (v &&& BitVec.ofNat 32 (s.rget R.PWR_DOMCTL)) = 0 →
    ∃ t, exec (.domainSwitchOn r v) s = .next t ∧ t.rget R.PWR_DOMCTL = (v.toNat &&& s.rget R.PWR_DOMCTL) &&& 0xF7)

/-- The watchdog, the clock's losses and the die readings. Derived from: 19_power_clock_reset: R529, R531, R539, R549, R550, Table
19-7, Table 19-13. -/
def Obligations.WatchdogClockAndTemperature : Prop :=
  (∀ (r : Req) (v : Word) (s : State), s.homeReq r → s.flag F.PWR_WDOG_EN = false →
    ∃ t, exec (.watchdogEnable r v) s = .next t ∧ t.flag F.PWR_WDOG_EN = true ∧ t.fget F.PWR_WDOG_MS = getField v 0 16 ∧
      t.pwr = { s.pwr with kickTb := s.now, wdUsed := 0 } ∧ s.only t [.regs, .pwr] ∧ s.regsOnly t [R.PWR_WDOG.at]) ∧
  (∀ (r : Req) (v : Word) (s : State), s.homeReq r → s.flag F.PWR_WDOG_EN = true →
    ∃ t, exec (.watchdogKick r v) s = .next t ∧ t = s.setPwr { s.pwr with kickTb := s.now, wdUsed := 0 }) ∧
  (∀ s : State, s.pwr.refOk = true → s.flag F.CLK_STAT_LOCK = true →
    ∃ t, exec .refclkLoss s = .next t ∧ t.pwr = { s.pwr with refOk := false } ∧ t.flag F.CLK_STAT_REFOK = false ∧
      t.flag F.CLK_STAT_HOLDOVER = true) ∧
  (∀ (us : Word) (s : State), s.flag F.CLK_STAT_LOCK = true →
    ∃ t, exec (.pllLockLoss us) s = .next t ∧ t = (s.count R.CLK_UNLOCK).clkCard 2 (leBytes 4 us.toNat)) ∧
  (∀ (l : List Half) (s : State), l.length = 6 →
    ∃ t, exec (.thermalReading l) s = .next t ∧ (∀ k, k < 6 → t.fget F.THM_TEMP_NOW k = (l.getD k 0).toNat) ∧
      t.fget F.THM_STAT_TJ = ofSigned 16 (hottest 0 l).2 ∧ t.fget F.THM_STAT_HOTDIE = (hottest 0 l).1 ∧
      (s.flag F.THM_STAT_THROT = false → 480 ≤ (hottest 0 l).2 → t.flag F.THM_STAT_THROT = true ∧ t.fget F.CLK_STAT_THROT = 6) ∧
      s.only t [.regs, .chn, .events])

/-- A register write: RW fields take it, RO fields stay, a locked RWL field stays, and a refused write is a violation. Derived from:
00_scope: R8, Table 00-6; 04_contexts_and_translation: R128, R129, R137; 02_configuration_image: R71. -/
def Obligations.RegisterWritesActByAccessType : Prop :=
  (∀ (r : Req) (a : Addr) (v : Word) (s : State) (d : RegDesc) (i j : Nat), s.homeReq r → a.toNat % 4 = 0 →
    findReg a.toNat = some (d, i, j) → blockOf a.toNat = 2 ∨ blockOf a.toNat = 7 ∨ blockOf a.toNat = 24 →
    groupAt a.toNat = none → groupCommit a.toNat = none → s.locked = false →
    ∃ t, exec (.registerWrite r a v) s = .next t ∧ t.rd a.toNat = d.written false (s.rd a.toNat) v ∧
      s.only t [.regs] ∧ s.regsOnly t [a.toNat]) ∧
  (∀ (r : Req) (n : Fin 8) (v : Word) (s : State), s.homeReq r → s.locked = true →
    ∃ t, exec (.registerWrite r (BitVec.ofNat 40 (R.MMU_CTX_CFG.at n.val)) v) s = .next t ∧
      t = if R.MMU_CTX_CFG.lockHit (s.rget R.MMU_CTX_CFG n.val) v then s.violateBy r 0x8 (R.MMU_CTX_CFG.at n.val) else s) ∧
  (∀ (d : RegDesc) (old v : Word), d.written true old v &&& d.mask .rwl &&& ~~~(d.mask .rw) &&& ~~~(d.mask .w1c) =
    old &&& d.mask .rwl &&& ~~~(d.mask .rw) &&& ~~~(d.mask .w1c)) ∧
  (∀ (r : Req) (a : Addr) (v : Word) (s : State), s.reqOn r = true → s.ctxEnabled (s.ctxOf r) = false →
    ∃ t, exec (.registerWrite r a v) s = .next t ∧ t = s.violateBy r 0xD (a.toNat / 4 * 4)) ∧
  (∀ (r : Req) (a : Addr) (v : Word) (s : State), s.reqOn r = true → s.ctxEnabled (s.ctxOf r) = true →
    findReg (a.toNat / 4 * 4) = none → a.toNat < regBase + 0x200000 →
    ∃ t, exec (.registerWrite r a v) s = .next t ∧ t = s.violateBy r 0x6 (a.toNat / 4 * 4))

/-- A write to a staged group's field changes only its shadow and disarms the group. Derived from: 02_configuration_image: R66, R68. -/
def Obligations.StagedWritesTouchShadowsOnly : Prop :=
  ∀ (r : Req) (a : Addr) (v : Word) (s : State) (g : Group) (f : Nat × Word), s.homeReq r → a.toNat ≠ R.SYS_WALLOFS_LO.at →
    groupAt a.toNat = some g → g.fields.find? (fun f => f.1 == a.toNat) = some f → (findReg a.toNat).isSome = true →
    ∃ t, exec (.stagedFieldWrite r a v) s = .next t ∧ t.rd a.toNat &&& f.2 = s.rd a.toNat &&& f.2 ∧
      t.shadow a.toNat &&& f.2 = v &&& f.2 ∧ t.isArmed g = false ∧ s.only t [.regs, .shadows, .armed] ∧
      s.regsOnly t (a.toNat :: (match g.armedBit with | some b => [b.1.reg.at b.2] | none => []))

/-- A commit write applies an agreeing group whole, flags one that disagrees, and arms one that a running stream owns. Derived from:
02_configuration_image: R67, R68, R69. -/
def Obligations.CommitWritesApplyOrArm : Prop :=
  (∀ (r : Req) (a : Addr) (v : Word) (s : State) (g : Group), s.homeReq r → groupCommit a.toNat = some g → bit v.toNat 0 = true →
    s.owner g = none → (s.disarm g).agrees g = true →
    ∃ t, exec (.stagedCommitWrite r a v) s = .next t ∧ ∀ f, f ∈ g.fields → t.rd f.1 &&& f.2 = s.shadow f.1 &&& f.2) ∧
  (∀ (r : Req) (a : Addr) (v : Word) (s : State) (g : Group), s.homeReq r → groupCommit a.toNat = some g → bit v.toNat 0 = true →
    s.owner g = none → (s.disarm g).agrees g = false →
    ∃ t, exec (.stagedCommitWrite r a v) s = .next t ∧ (∀ f, f ∈ g.fields → t.rd f.1 &&& f.2 = s.rd f.1 &&& f.2) ∧
      t.flag g.flag.1 g.flag.2 = true) ∧
  (∀ (r : Req) (a : Addr) (v : Word) (s : State) (g : Group) (n : Nat), s.homeReq r → groupCommit a.toNat = some g →
    bit v.toNat 0 = true → s.owner g = some n → s.isArmed g = false →
    ∃ t, exec (.stagedCommitWrite r a v) s = .next t ∧ t.armed = s.armed ++ [(g.commit, n)] ∧
      (∀ f, f ∈ g.fields → t.rd f.1 &&& f.2 = s.rd f.1 &&& f.2) ∧ s.only t [.regs, .armed]) ∧
  (∀ (r : Req) (a : Addr) (v : Word) (s : State) (g : Group) (n : Nat), s.homeReq r → groupCommit a.toNat = some g →
    bit v.toNat 0 = true → s.owner g = some n → s.isArmed g = true →
    ∃ t, exec (.stagedCommitWrite r a v) s = .next t ∧ t = s)

/-- The wall-time offset applies as one staged group; a step is counted and reported. Rules: R22, R23. -/
def Obligations.WallTimeOffsetAndLatches : Prop :=
  (∀ (r : Req) (a : Addr) (v : Word) (s : State), s.homeReq r → a.toNat = R.SYS_WALLOFS_LO.at →
    ∃ t, exec (.stagedFieldWrite r a v) s = .next t ∧ t = s.setShadow a.toNat v) ∧
  (∀ (r : Req) (v : Word) (s : State), s.homeReq r →
    ∃ t, exec (.wallofsHiWrite r v) s = .next t ∧ t.wallOfs = v.toNat * 2 ^ 32 + (s.shadow R.SYS_WALLOFS_LO.at).toNat ∧
      t.timebase = s.timebase) ∧
  (∀ (s : State) (ofs src : Nat), ofs < 2 ^ 64 → 1000 < (toSigned 64 (ofs + 2 ^ 64 - s.wallOfs)).natAbs →
    (s.moveWall ofs src).fget F.SYS_WALLSTAT_STEPS = satAdd F.SYS_WALLSTAT_STEPS.width (s.fget F.SYS_WALLSTAT_STEPS) 1 ∧
    ∃ u : State, u.timebase = s.timebase ∧
      s.moveWall ofs src = u.cardAt { block := 1, event := 2, detail := leBytes 8 s.wallOfs ++ leBytes 8 ofs } s.now)

/-- A low-half read latches the high half for its requester; die links replay, count and go down. Derived from: 01_device_overview:
R12, R20. -/
def Obligations.LatchesAndDieLinks : Prop :=
  (∀ (r : Req) (a : Addr) (s : State), s.homeReq r → a.toNat = R.SYS_TIMEBASE_LO.at →
    ∃ t, exec (.latchingLoRead r a) s = .next t ∧ t.resp = ⟨false, leBytes 4 (s.now % 2 ^ 32)⟩ ∧ s.only t [.latches, .resp] ∧
      ∀ u : State, u.latches = t.latches → (u.readWord r R.SYS_TIMEBASE_HI.at).1 = BitVec.ofNat 32 (s.now / 2 ^ 32)) ∧
  (∀ (l : Fin 6) (s : State), bit (s.fget F.SYS_D2DSTAT_DOWN) l.val = false → bit (s.fget F.SYS_D2DSTAT_UP) l.val = true →
    Sparse.get (fun _ => 0) s.d2dFails l.val < 8 →
    ∃ t, exec (.d2dTransferUnit l false) s = .next t ∧
      t.rget R.SYS_D2DRETRY l.val = satAdd 32 (s.rget R.SYS_D2DRETRY l.val) 1 ∧
      Sparse.get (fun _ => 0) t.d2dFails l.val = Sparse.get (fun _ => 0) s.d2dFails l.val + 1 ∧
      s.only t [.regs, .d2dFails] ∧ s.regsOnly t [R.SYS_D2DRETRY.at l.val]) ∧
  (∀ (l : Fin 6) (s : State), bit (s.fget F.SYS_D2DSTAT_DOWN) l.val = false → bit (s.fget F.SYS_D2DSTAT_UP) l.val = true →
    8 ≤ Sparse.get (fun _ => 0) s.d2dFails l.val →
    ∃ t, exec (.d2dTransferUnit l false) s = .next t ∧ bit (t.fget F.SYS_D2DSTAT_DOWN) l.val = true ∧
      bit (t.fget F.SYS_D2DSTAT_UP) l.val = false) ∧
  (∀ (l : Fin 6) (s : State), bit (s.fget F.SYS_D2DSTAT_DOWN) l.val = false → bit (s.fget F.SYS_D2DSTAT_UP) l.val = true →
    ∃ t, exec (.d2dTransferUnit l true) s = .next t ∧ Sparse.get (fun _ => 0) t.d2dFails l.val = 0) ∧
  (∀ (l : Fin 6) (ok : Bool) (s : State), bit (s.fget F.SYS_D2DSTAT_DOWN) l.val = true →
    ∃ t, exec (.d2dTransferUnit l ok) s = .next t ∧ t = s)

/-- Narrow and wide accesses of SRAM: what a write stores, what a read answers, and the bytes they leave alone. Derived from:
03_on_package_memory: R79, R86, R87, R111, R113. -/
def Obligations.NarrowAndWideAccessesReachMemory : Prop :=
  (∀ (r : Req) (a : Addr) (sz : NSize) (v : DWord) (rivals : List (Fin 8 × Fin 6)) (s : State), s.reqOn r = true →
    narrowOk a.toNat sz.bytes = true → s.ctxEnabled (s.ctxOf r) = true → (s.loc a.toNat).sram = true →
    s.reaches r true (s.loc a.toNat) = true → (s.slotFor r a.toNat rivals).1 = true →
    (s.slotFor r a.toNat rivals).2.locOn (s.loc a.toNat) = true → s.mem.isEccBad (a.toNat / 8) = false →
    ∃ t, exec (.narrowAccess r true a sz v .clean rivals) s = .next t ∧ t.load a.toNat sz.bytes = leBytes sz.bytes v.toNat ∧
      t.resp = ⟨false, []⟩ ∧ s.bytesOnly t a.toNat sz.bytes ∧ s.only t [.regs, .mem, .memsys, .resp]) ∧
  (∀ (r : Req) (a : Addr) (sz : NSize) (v : DWord) (rivals : List (Fin 8 × Fin 6)) (s : State), s.reqOn r = true →
    narrowOk a.toNat sz.bytes = true → s.ctxEnabled (s.ctxOf r) = true → (s.loc a.toNat).sram = true →
    s.reaches r false (s.loc a.toNat) = true → (s.slotFor r a.toNat rivals).1 = true →
    (s.slotFor r a.toNat rivals).2.locOn (s.loc a.toNat) = true → s.mem.isEccBad (a.toNat / 8) = false →
    ∃ t, exec (.narrowAccess r false a sz v .clean rivals) s = .next t ∧ t.resp = ⟨false, s.load a.toNat sz.bytes⟩ ∧
      s.only t [.regs, .memsys, .resp]) ∧
  (∀ (r : Req) (a : Addr) (data : List Byte) (tag : Word) (check : Bool) (rivals : List (Fin 8 × Fin 6)) (s : State), s.reqOn r = true →
    a.toNat % 256 = 0 → s.ctxEnabled (s.ctxOf r) = true → (s.loc a.toNat).tagged = true →
    s.reachesWide r true (s.loc a.toNat) = true → (s.slotFor r a.toNat rivals).1 = true →
    (s.slotFor r a.toNat rivals).2.locOn (s.loc a.toNat) = true →
    ∃ t, exec (.wideAccess r true a data tag check .clean rivals) s = .next t ∧ t.load a.toNat 256 = padTo 256 data ∧
      t.mem.tag (a.toNat / 256) = tag ∧ t.mem.isBad (a.toNat / 256) = false ∧ s.bytesOnly t a.toNat 256 ∧
      s.only t [.regs, .mem, .memsys, .resp]) ∧
  (∀ (r : Req) (a : Addr) (data : List Byte) (tag : Word) (rivals : List (Fin 8 × Fin 6)) (s : State), s.reqOn r = true →
    a.toNat % 256 = 0 → s.ctxEnabled (s.ctxOf r) = true → (s.loc a.toNat).tagged = true →
    s.reachesWide r false (s.loc a.toNat) = true → (s.slotFor r a.toNat rivals).1 = true →
    (s.slotFor r a.toNat rivals).2.locOn (s.loc a.toNat) = true → (∀ i, i < 32 → s.mem.isEccBad (a.toNat / 8 + i) = false) →
    s.mem.tagOk (a.toNat / 256) = true →
    ∃ t, exec (.wideAccess r false a data tag true .clean rivals) s = .next t ∧
      t.resp = ⟨false, s.load a.toNat 256 ++ leBytes 4 (s.mem.tag (a.toNat / 256)).toNat⟩ ∧ s.only t [.regs, .memsys, .resp])

/-- A partial write of a tagged block never makes a failing tag verify, and a whole-block write sets it sound. Derived from:
03_on_package_memory: R111, R112. -/
def Obligations.PartialWritesKeepTagsHonest : Prop :=
  (∀ (m : Memory) (a : Nat) (data : List Byte), a % 256 + data.length ≤ 256 →
    ((m.writePart a data).1.tagOk (a / 256) = m.tagOk (a / 256)) ∧
    ((m.writePart a data).2 = !m.tagOk (a / 256)) ∧
    (m.tagOk (a / 256) = false → (m.writePart a data).1.isBad (a / 256) = true) ∧
    (m.writePart a data).1.read a data.length = data ∧
    (∀ b, ¬(a ≤ b ∧ b < a + data.length) → (m.writePart a data).1.byte b = m.byte b)) ∧
  (∀ (m : Memory) (blk : Nat) (data : List Byte), (m.writeBlock blk data).tagOk blk = true ∧
    (m.writeBlock blk data).read (blk * 256) 256 = padTo 256 data ∧
    (∀ k, k ≠ blk → (m.writeBlock blk data).tagOk k = m.tagOk k))

/-- Split mode is requested, entered when streams are idle, and left; the conflict counters clear together. Derived from:
03_on_package_memory: R91, R106. -/
def Obligations.SplitModeAndConflictCounters : Prop :=
  (∀ (r : Req) (v : Word) (s : State), s.homeReq r → s.flag F.MEM_STAT_SPLITON = false →
    ∃ t, exec (.splitRequest r v) s = .next t ∧ t.flag F.MEM_STAT_SPLITPEND = true ∧ t.flag F.MEM_STAT_SPLITON = false ∧
      t.flag F.MEM_CTL_SPLIT = true ∧ s.only t [.regs]) ∧
  (∀ s : State, s.flag F.MEM_STAT_SPLITPEND = true → s.allStreamsIdle = true →
    ∃ t, exec .splitEnter s = .next t ∧ t.flag F.MEM_STAT_SPLITPEND = false ∧ t.flag F.MEM_STAT_SPLITON = true ∧
      s.only t [.regs] ∧ s.regsOnly t [R.MEM_STAT.at]) ∧
  (∀ (r : Req) (v : Word) (s : State), s.homeReq r →
    ∃ t, exec (.splitLeave r v) s = .next t ∧ t.flag F.MEM_STAT_SPLITPEND = false ∧ t.flag F.MEM_STAT_SPLITON = false ∧
      t.flag F.MEM_CTL_SPLIT = false ∧ s.only t [.regs]) ∧
  (∀ (r : Req) (v : Word) (s : State), s.homeReq r →
    ∃ t, exec (.conflictCounterClear r v) s = .next t ∧ (∀ k, k < 256 → t.rd (R.MEM_CONFBANK.at k) = 0) ∧
      (∀ k, k < 8 → t.rd (R.MEM_CONFPORT.at k) = 0) ∧ s.only t [.regs])

/-- L1 flush, invalidate and resize: what the lines, the split and the memory hold afterwards. Derived from: 03_on_package_memory:
R92, R93, R94, Table 03-19. -/
def Obligations.FirstLevelCacheCommands : Prop :=
  (∀ (r : Req) (n : Fin 8) (v : Word) (s : State), s.ctxEnabled (s.ctxOf r) = true → s.ctxOf r = 0 → s.coreEnabled n.val = true →
    s.flag F.DME_STAT_RETIRED n.val = false → getField v 0 4 = s.l1Cache n.val → bit v.toNat 9 = false →
    ∃ t, exec (.l1Flush r n v) s = .next t ∧ t.lines n.val = (s.lines n.val).map (fun l => { l with dirty := false }) ∧
      (∀ b, (∀ l, l ∈ s.lines n.val → l.dirty = true → ¬(l.addr ≤ b ∧ b < l.addr + l.data.length)) → t.mem.byte b = s.mem.byte b) ∧
      s.only t [.regs, .mem, .memsys]) ∧
  (∀ (r : Req) (n : Fin 8) (v : Word) (s : State), s.ctxEnabled (s.ctxOf r) = true → s.ctxOf r = 0 → s.coreEnabled n.val = true →
    s.flag F.DME_STAT_RETIRED n.val = false → getField v 0 4 = s.l1Cache n.val → bit v.toNat 8 = false →
    ∃ t, exec (.l1Invalidate r n v) s = .next t ∧
      t.lines n.val = ((s.lines n.val).filter (fun l => l.locked)).map (fun l => { l with inval := true }) ∧ s.only t [.memsys]) ∧
  (∀ (r : Req) (n : Fin 8) (v : Word) (s : State), s.ctxEnabled (s.ctxOf r) = true → s.ctxOf r = 0 → s.coreEnabled n.val = true →
    s.flag F.DME_STAT_RETIRED n.val = false → getField v 0 4 ≠ s.l1Cache n.val → getField v 0 4 ≤ 8 → bit v.toNat 8 = false →
    bit v.toNat 9 = false → (s.stream (4 + n.val)).run = none →
    ∃ t, exec (.l1CacheResize r n v) s = .next t ∧ t.flag F.MEM_L1CFG_BUSY n.val = true ∧ t.l1Cache n.val = getField v 0 4 ∧
      t.lines n.val = [] ∧ l1ResizeOf t n.val = getField v 0 4 + 1 ∧
      (∀ b, l1Base n.val + (8 - max (s.l1Cache n.val) (getField v 0 4)) * 0x10000 ≤ b →
        b < l1Base n.val + (8 - min (s.l1Cache n.val) (getField v 0 4)) * 0x10000 → t.mem.byte b = 0)) ∧
  (∀ (n : Fin 8) (s : State), l1ResizeOf s n.val ≠ 0 →
    ∃ t, exec (.l1CacheResizeDone n) s = .next t ∧ t.flag F.MEM_L1CFG_BUSY n.val = false ∧ l1ResizeOf t n.val = 0 ∧
      s.only t [.regs, .memsys])

/-- The shared read cache resizes, invalidates and fills; a row repair begins and ends. Derived from: 03_on_package_memory: R95,
R96, R107, R108, R109. -/
def Obligations.SharedReadCacheAndRowRepair : Prop :=
  (∀ (r : Req) (v : Word) (s : State), s.homeReq r → bit v.toNat 8 = false → getField v 0 4 ≠ s.fget F.MEM_WBMCACHE_SIZE → getField v 0 4 ≤ 8 →
    ∃ t, exec (.wbmCacheResize r v) s = .next t ∧ t.fget F.MEM_WBMCACHE_SIZE = getField v 0 4 ∧ t.memsys.wbmLines = [] ∧
      (∀ b, t.mem.byte b = if 0x0181000000 - max (s.fget F.MEM_WBMCACHE_SIZE) (getField v 0 4) * 0x100000 ≤ b ∧ b < 0x0181000000
        then 0 else s.mem.byte b) ∧ s.only t [.regs, .mem, .memsys]) ∧
  (∀ (r : Req) (v : Word) (s : State), s.homeReq r → getField v 0 4 = s.fget F.MEM_WBMCACHE_SIZE →
    ∃ t, exec (.wbmCacheInvalidate r v) s = .next t ∧ t.memsys.wbmLines = [] ∧ t.rget R.MEM_WBMHIT = 0 ∧ t.rget R.MEM_WBMMISS = 0 ∧
      s.only t [.regs, .memsys] ∧ s.regsOnly t [R.MEM_WBMHIT.at, R.MEM_WBMMISS.at]) ∧
  (∀ (r : Req) (a : Addr) (s : State) (k : Nat), s.loc a.toNat = .store k → s.fget F.MEM_WBMCACHE_SIZE ≠ 0 → usesWbm r = true →
    s.memsys.wbmLines.contains ((a.toNat - 0x1000000000) / 4096 * 4096) = false → s.bankBusy k = false →
    ∃ t, exec (.wbmCacheFill r a) s = .next t ∧ t.rget R.MEM_WBMMISS = satAdd 32 (s.rget R.MEM_WBMMISS) 1 ∧
      t.resp = ⟨false, s.sto.read ((a.toNat - 0x1000000000) / 256 * 256) 256⟩ ∧
      t.memsys.wbmLines.contains ((a.toNat - 0x1000000000) / 4096 * 4096) = true ∧ s.only t [.regs, .memsys, .resp]) ∧
  (∀ (r : Req) (v : Word) (s : State), s.homeReq r → s.flag F.MEM_REPSTAT_BUSY = false →
    ∃ t, exec (.rowRepair r v) s = .next t ∧ t.flag F.MEM_REPSTAT_BUSY = true ∧ t.flag F.MEM_STAT_REPBUSY = true ∧
      t.memsys.repair = some (getField v 28 4, getField v 20 8, getField v 8 10) ∧ s.only t [.regs, .memsys] ∧
      s.regsOnly t [R.MEM_REPAIR.at, R.MEM_REPSTAT.at, R.MEM_STAT.at]) ∧
  (∀ (m b row : Nat) (s : State), s.memsys.repair = some (m, b, row) → s.repairResult m b row = 1 →
    ∃ t, exec .rowRepairDone s = .next t ∧ t.flag F.MEM_REPSTAT_BUSY = false ∧ t.fget F.MEM_REPSTAT_RESULT = 1 ∧
      t.memsys.repair = none ∧ t.memsys.fieldRows = s.memsys.fieldRows ++ [(m, b, row)] ∧ s.only t [.regs, .memsys])

/-- Circular regions: enabling, clearing, releasing, and arrivals from start to completion. Derived from: 03_on_package_memory: R99,
R101, R102, R103, R104, R105, R594. -/
def Obligations.CircularRegionsCountBytes : Prop :=
  (∀ (r : Req) (n : Fin 64) (v : Word) (s : State), s.homeReq r → s.flag F.MEM_CR_CFG_EN n.val = false → s.crPlaced n.val = true →
    ∃ t, exec (.regionEnable r n v) s = .next t ∧ t.flag F.MEM_CR_CFG_EN n.val = true ∧ t.flag F.MEM_CR_CFG_INVALID n.val = false ∧
      t.crHead n.val = 0 ∧ t.crTail n.val = 0 ∧ t.rget R.MEM_CR_LOST n.val = 0 ∧ t.region n.val = Region.idle ∧ s.only t [.regs, .memsys]) ∧
  (∀ (r : Req) (n : Fin 64) (v : Word) (s : State), s.homeReq r → s.flag F.MEM_CR_CFG_EN n.val = true → (s.region n.val).opened = [] →
    ∃ t, exec (.regionClear r n v) s = .next t ∧ t.flag F.MEM_CR_CFG_EN n.val = false ∧ (t.region n.val).clearing = false ∧
      s.only t [.regs, .memsys]) ∧
  (∀ (r : Req) (n : Fin 64) (v : Word) (s : State), s.homeReq r → s.flag F.MEM_CR_CFG_EN n.val = true → (s.region n.val).opened ≠ [] →
    ∃ t, exec (.regionClear r n v) s = .next t ∧ t.flag F.MEM_CR_CFG_EN n.val = true ∧ (t.region n.val).clearing = true) ∧
  (∀ (r : Req) (n : Fin 64) (v : Word) (s : State), s.homeReq r → v.toNat % 256 = 0 →
    v.toNat ≤ ringDiff (s.crHead n.val) (s.crTail n.val) →
    ∃ t, exec (.regionRelease r n v) s = .next t ∧ t = s.rset R.MEM_CR_TAIL ((s.crTail n.val + v.toNat) % 2 ^ 32) n.val) ∧
  (∀ (r : Req) (n : Fin 64) (v : Word) (s : State), s.homeReq r → v.toNat % 256 = 0 →
    ringDiff (s.crHead n.val) (s.crTail n.val) < v.toNat →
    ∃ t, exec (.regionRelease r n v) s = .next t ∧
      t = (s.rset R.MEM_CR_TAIL (s.crHead n.val) n.val).violate 0 (unitOf r) 0x9 (R.MEM_CR_RELEASE.at n.val)) ∧
  (∀ (n : Fin 64) (p : Req) (tag : Nat) (len : Word) (s : State), s.crOpen n.val = true → (s.region n.val).opened = [] →
    (s.region n.val).waiting = [] → ringDiff (s.region n.val).res (s.crTail n.val) + len.toNat ≤ s.crSize n.val →
    ∃ t, exec (.arrivalStart n p tag len) s = .next t ∧
      (t.region n.val).res = ((s.region n.val).res + roundUp len.toNat 256) % 2 ^ 32 ∧
      (t.region n.val).opened = [⟨unitOf p, tag, (s.region n.val).res, roundUp len.toNat 256, false, false, false⟩] ∧ s.only t [.memsys]) ∧
  (∀ (n : Fin 64) (p : Req) (tag : Nat) (a : Arrival) (s : State), (s.region n.val).opened = [a] → a.unit = unitOf p → a.tag = tag →
    a.window = false →
    ∃ t, exec (.arrivalComplete n p tag) s = .next t ∧ t.crHead n.val = (s.crHead n.val + a.len) % 2 ^ 32 ∧
      t.rget R.MEM_CR_ARRIVE n.val = (s.rget R.MEM_CR_ARRIVE n.val + 1) % 2 ^ 32 ∧ (t.region n.val).opened = [] ∧
      s.only t [.regs, .memsys])

/-- A violation counts for its context, and is captured once while the capture is armed. Derived from: 04_contexts_and_translation:
R137. -/
def Obligations.ViolationsCountAndCaptureOnce : Prop :=
  ∀ (s : State) (c unit kind addr : Nat), c < 8 → unit < 256 → kind < 16 → addr < 2 ^ 40 →
    (s.violate c unit kind addr).rget R.MMU_CTX_VIOL c = satAdd 32 (s.rget R.MMU_CTX_VIOL c) 1 ∧
    (s.flag F.MMU_CTX_VCAPINFO_ARMED c = true →
      (s.violate c unit kind addr).rget R.MMU_CTX_VCAPADDR c = addr / 256 ∧
      (s.violate c unit kind addr).flag F.MMU_CTX_VCAPINFO_VALID c = true ∧
      (s.violate c unit kind addr).flag F.MMU_CTX_VCAPINFO_ARMED c = false ∧
      (s.violate c unit kind addr).fget F.MMU_CTX_VCAPINFO_UNIT c = unit ∧
      (s.violate c unit kind addr).fget F.MMU_CTX_VCAPINFO_KIND c = kind) ∧
    (s.flag F.MMU_CTX_VCAPINFO_ARMED c = false →
      s.regsOnly (s.violate c unit kind addr) [R.MMU_CTX_VIOL.at c]) ∧
    s.only (s.violate c unit kind addr) [.regs] ∧
    s.regsOnly (s.violate c unit kind addr) [R.MMU_CTX_VIOL.at c, R.MMU_CTX_VCAPADDR.at c, R.MMU_CTX_VCAPINFO.at c]

/-- lyctx, bell ranges and captures: legal values are taken, illegal ones leave the register and are violations. Derived from:
04_contexts_and_translation: R127, R130, R137, Table 04-2, Table 04-23. -/
def Obligations.ContextRegistersTakeLegalValuesOnly : Prop :=
  (∀ (p : Fin 2) (v : Word) (s : State), classTable (getField v 0 3) (getField v 4 3) = true →
    ∃ t, exec (.lyctxWrite p true v) s = .next t ∧ t.lyctx p.val = v &&& 0x77 ∧ t.lyctx (1 - p.val) = s.lyctx (1 - p.val) ∧
      s.only t [.lyctx0, .lyctx1]) ∧
  (∀ (p : Fin 2) (v : Word) (s : State), classTable (getField v 0 3) (getField v 4 3) = false →
    ∃ t, exec (.lyctxWrite p true v) s = .next t ∧ t = s.violate (bits (s.lyctx p.val).toNat 0 3) (0x40 + p.val) 0xB 0) ∧
  (∀ (p : Fin 2) (v : Word) (s : State), ∃ t, exec (.lyctxWrite p false v) s = .next t ∧ t = s) ∧
  (∀ (r : Req) (n : Fin 8) (v : Word) (s : State), s.homeReq r → s.bellRangeOk n.val v = true →
    ∃ t, exec (.bellRangeWrite r n v) s = .next t ∧ t.fget F.MMU_CTX_BELLS_BASE n.val = getField v 0 9 ∧
      t.fget F.MMU_CTX_BELLS_CNT n.val = getField v 16 10 ∧ s.only t [.regs] ∧ s.regsOnly t [R.MMU_CTX_BELLS.at n.val]) ∧
  (∀ (r : Req) (n : Fin 8) (v : Word) (s : State), s.homeReq r → s.bellRangeOk n.val v = false →
    ∃ t, exec (.bellRangeWrite r n v) s = .next t ∧ t = s.violateBy r 0xE (R.MMU_CTX_BELLS.at n.val)) ∧
  (∀ (r : Req) (n : Fin 8) (v : Word) (s : State), s.homeReq r →
    ∃ t, exec (.violCaptureArm r n v) s = .next t ∧ t.flag F.MMU_CTX_VCAPINFO_ARMED n.val = true ∧
      t.flag F.MMU_CTX_VCAPINFO_VALID n.val = false ∧ s.only t [.regs] ∧
      s.regsOnly t [R.MMU_CTX_VCAPINFO.at n.val, R.MMU_CTX_VIOL.at n.val]) ∧
  (∀ (r : Req) (n : Fin 8) (v : Word) (s : State), s.homeReq r →
    ∃ t, exec (.violCountClear r n v) s = .next t ∧ t.rget R.MMU_CTX_VIOL n.val = 0 ∧ s.only t [.regs] ∧
      s.regsOnly t [R.MMU_CTX_VCAPINFO.at n.val, R.MMU_CTX_VIOL.at n.val])

/-- Bell-range writes and writes that enable a context never make two enabled contexts' bell ranges meet. Derived from:
04_contexts_and_translation: R130. -/
def Obligations.EnabledBellRangesStayApart : Prop :=
  (∀ (r : Req) (n : Fin 8) (v : Word) (s t : State),
    (∀ i j, i < 8 → j < 8 → i ≠ j → s.ctxEnabled i = true → s.ctxEnabled j = true →
      rangesMeet (s.fget F.MMU_CTX_BELLS_BASE i) (s.fget F.MMU_CTX_BELLS_CNT i)
        (s.fget F.MMU_CTX_BELLS_BASE j) (s.fget F.MMU_CTX_BELLS_CNT j) = false) →
    exec (.bellRangeWrite r n v) s = .next t ∨ (bit v.toNat 31 = true ∧ t = s.writeCtxCfg r n.val v) →
    (∀ i j, i < 8 → j < 8 → i ≠ j → t.ctxEnabled i = true → t.ctxEnabled j = true →
      rangesMeet (t.fget F.MMU_CTX_BELLS_BASE i) (t.fget F.MMU_CTX_BELLS_CNT i)
        (t.fget F.MMU_CTX_BELLS_BASE j) (t.fget F.MMU_CTX_BELLS_CNT j) = false))

/-- A translation answers an entry of the page asked for, keeps each TLB within 64 entries and writes no memory. Derived from:
04_contexts_and_translation: R133, R135. -/
def Obligations.TranslationAnswersAndTlbBound : Prop :=
  ∀ (s : State) (unit c vpn : Nat), (s.tlb unit).length ≤ 64 →
    (∀ e, (s.translate unit c vpn).1 = .ok e → e.hits c vpn = true ∧ ((s.translate unit c vpn).2.tlb unit).head? = some e) ∧
    ((s.translate unit c vpn).2.tlb unit).length ≤ 64 ∧
    (∀ u, u ≠ unit → (s.translate unit c vpn).2.tlb u = s.tlb u) ∧ s.only (s.translate unit c vpn).2 [.mmu]

/-- A TLB invalidation shows BUSY, ignores a further GO, and ends with no matching entry in any TLB. Derived from:
04_contexts_and_translation: R136. -/
def Obligations.InvalidationDropsMatchingEntries : Prop :=
  (∀ (r : Req) (v : Word) (s : State), s.homeReq r → s.flag F.MMU_INVAL_BUSY = false →
    ∃ t, exec (.tlbInvalidate r v) s = .next t ∧ t.flag F.MMU_INVAL_BUSY = true ∧
      t.mmu.invalBusy = some (getField v 4 2, getField v 0 3, s.rget R.MMU_INVADDR) ∧ t.mmu.tlbs = s.mmu.tlbs ∧
      s.only t [.regs, .mmu] ∧ s.regsOnly t [R.MMU_INVAL.at]) ∧
  (∀ (r : Req) (v : Word) (s : State), s.homeReq r → s.flag F.MMU_INVAL_BUSY = true →
    ∃ t, exec (.tlbInvalidate r v) s = .next t ∧ t = s) ∧
  (∀ (s : State) (scope c vpn : Nat), s.mmu.invalBusy = some (scope, c, vpn) →
    ∃ t, exec .tlbInvalidateDone s = .next t ∧ t.flag F.MMU_INVAL_BUSY = false ∧ t.mmu.invalBusy = none ∧
      (∀ u e, e ∈ t.tlb u → invalHits scope c vpn e = false) ∧
      (∀ u e, e ∈ s.tlb u → invalHits scope c vpn e = false → e ∈ t.tlb u) ∧ s.only t [.regs, .mmu])

/-- A reported fault writes its 64-byte record into the lowest free entry and raises the context's fault interrupt. Derived from:
04_contexts_and_translation: R138, R140, Table 04-5. -/
def Obligations.FaultRecordsTakeTheLowestFreeEntry : Prop :=
  ∀ (s : State) (f : FaultInfo),
    ((s.reportFault f).1 = true → ∃ b i, s.faultQueue f.ctx = some b ∧ i < 128 ∧ s.mem.byte (b + 64 * i) = 0 ∧
      (∀ j, j < i → s.mem.byte (b + 64 * j) ≠ 0) ∧ (s.reportFault f).2.load (b + 64 * i) 64 = resumeRecord f s.now ∧
      s.bytesOnly (s.reportFault f).2 (b + 64 * i) 64 ∧ (s.reportFault f).2.irqFault = s.irqFault ||| 2 ^ f.ctx ∧
      s.only (s.reportFault f).2 [.regs, .mem, .mmu, .irqFault]) ∧
    ((s.reportFault f).1 = false → (s.reportFault f).2 = s)

/-- Resuming and aborting a suspended instruction of a stream; the automatic abort; disabling a context. Derived from:
04_contexts_and_translation: R141, R142. -/
def Obligations.FaultsAreResumedOrAborted : Prop :=
  (∀ (r : Req) (v : Word) (s : State) (x : Susp), s.homeReq r → s.suspAt (getField v 8 3) (getField v 0 7) = some x → x.unit < 22 →
    ∃ t, exec (.faultResume r v) s = .next t ∧ t.mmu.susps = s.mmu.susps.filter (fun y => y != x) ∧
      (∀ b, s.faultQueue x.ctx = some b → t.mem.byte (b + 64 * x.index) = 0 ∧ s.bytesOnly t (b + 64 * x.index) 1) ∧
      (t.stream x.unit).saved = (s.stream x.unit).saved.map
        (fun p => if (s.stream x.unit).suspended x = some p then { p with susp := false } else p) ∧
      s.only t [.regs, .mem, .mmu, .streams]) ∧
  (∀ (r : Req) (v : Word) (s : State), s.homeReq r → s.suspAt (getField v 8 3) (getField v 0 7) = none →
    ∃ t, exec (.faultResume r v) s = .next t ∧ t = s.violateBy r 0xE R.MMU_RESUME.at) ∧
  (∀ (r : Req) (v : Word) (s : State) (x : Susp), s.homeReq r → s.suspAt (getField v 8 3) (getField v 0 7) = some x →
    ∃ t, exec (.faultAbort r v) s = .next t ∧ t = s.abort x) ∧
  (∀ (c : Fin 8) (i : Fin 128) (s : State) (x : Susp),
    s.mmu.susps.find? (fun x => x.ctx == c.val && x.index == i.val) = some x → x.origin + s.faultSpan ≤ s.now →
    ∃ t, exec (.faultTimeout c i) s = .next t ∧ t = s.abort x) ∧
  (∀ (s : State) (x : Susp) (p : Prog), x.unit < 22 → (s.stream x.unit).suspended x = some p → p.start.bcast = false →
    (s.abort x).fget F.ENG_S_HALT_REASON x.unit = 0x0C ∧ bit ((s.abort x).stream x.unit).halted p.start.ctx = true ∧
    (s.abort x).irqHalt = s.irqHalt ||| 2 ^ p.start.ctx ∧ (s.abort x).mmu.susps = s.mmu.susps.filter (fun y => y != x)) ∧
  (∀ (r : Req) (n : Fin 8) (v : Word) (s : State), s.homeReq r → s.locked = false → s.ctxEnabled n.val = true →
    ∃ t, exec (.contextDisable r n v) s = .next t ∧ t.ctxEnabled n.val = false ∧
      (∀ k, k < 22 → (∀ p, (t.stream k).run = some p → p.start.ctx ≠ n.val) ∧ (∀ p, p ∈ (t.stream k).saved → p.start.ctx ≠ n.val) ∧
        (∀ q, q ∈ (t.stream k).queue → q.ctx ≠ n.val) ∧ (∀ q, q ∈ (t.stream k).held → q.ctx ≠ n.val)))

/-- Starts: the result shown, the queue a good start joins, the program that begins, and the held starts released. Derived from:
05_engine_programs: R153, R154, R155, R156, R175, Table 05-3. -/
def Obligations.StartsQueueAndBegin : Prop :=
  (∀ (r : Req) (n : Fin 8) (v : Word) (s : State), s.reqOn r = true → s.ctxOf r = n.val → s.ctxEnabled n.val = true → bit v.toNat 0 = true →
    ∃ t, exec (.engStartGo r n v) s = .next t ∧
      (let b := (List.range 8).flatMap (fun k => leBytes 4 (s.rget R.ENG_C_SDESC n.val k))
       let x := parseStart n.val b
       t.fget F.ENG_C_SSTAT_RESULT n.val = s.startResult n.val b ∧
       (s.startResult n.val b = 0 → x.hold = false → (t.stream x.stream).queue = (s.stream x.stream).queue ++ [x]) ∧
       (s.startResult n.val b = 0 → x.hold = true → (t.stream x.stream).held = (s.stream x.stream).held ++ [x]) ∧
       (s.startResult n.val b ≠ 0 → t.streams = s.streams) ∧ s.only t [.regs, .streams])) ∧
  (∀ (n : Fin 22) (s : State) (c : Nat) (q : Start) (h : List Byte), s.streamFree n.val = true →
    (s.stream n.val).nextClass = some c → (s.stream n.val).saved.find? (fun p => p.start.cls == c) = none →
    (s.stream n.val).firstStart c = some q → q.bcast = false → streamKind n.val ≠ 1 ∨ s.coreRetired (n.val - 4) = false →
    (((s.applyClocks n.val).setStream n.val { (s.stream n.val).take q with run := some { Prog.ofStart q with group := q.hold } }).fetch
      n.val q.ctx q.prog 32).1 = .bytes h → headerOk n.val h = true →
    ∃ t p, exec (.programBegin n) s = .next t ∧ (t.stream n.val).run = some p ∧ p.start = q ∧ p.pc = 32 ∧ p.bcnt = 0 ∧
      p.marks = List.replicate 16 0 ∧ p.expect = List.replicate 8 0 ∧ p.descs = [] ∧ p.length = leAt h 8 4 ∧ p.began = true ∧
      (t.stream n.val).queue = ((s.stream n.val).take q).queue ∧ s.only t [.regs, .mmu, .streams, .safe]) ∧
  (∀ (n : Fin 22) (s : State) (c : Nat) (p : Prog), s.streamFree n.val = true → (s.stream n.val).nextClass = some c →
    (s.stream n.val).saved.find? (fun p => p.start.cls == c) = some p → p.began = true →
    ∃ t, exec (.programBegin n) s = .next t ∧ (t.stream n.val).run = some p.resumed ∧
      (t.stream n.val).saved = (s.stream n.val).saved.erase p ∧ s.only t [.streams, .safe, .cim]) ∧
  (∀ (r : Req) (v : Word) (s : State), s.homeReq r →
    ∃ t, exec (.timedGroupRelease r v) s = .next t ∧ s.only t [.streams] ∧
      ∀ k, t.stream k = (if k < 22 ∧ bit v.toNat k = true ∧ (s.stream k).held ≠ [] then
        { s.stream k with released := true } else s.stream k))

/-- Pre-emption saves the lower-class program whole; a broadcast start binds every other core of its mask to its leader. Derived
from: 04_contexts_and_translation: R147; 05_engine_programs: R179. -/
def Obligations.PreemptionSavesAndBroadcastBinds : Prop :=
  (∀ (n : Fin 22) (s : State) (p : Prog) (c : Nat), (s.stream n.val).run = some p → p.group = false →
    (List.range 6).find? (fun c => (s.stream n.val).queue.any (fun q => q.cls == c)) = some c → c < p.start.cls →
    ∃ t u, exec (.preemption n) s = .next t ∧ t = u.beginNext n.val ∧ (u.stream n.val).run = none ∧
      (u.stream n.val).saved = (s.stream n.val).saved ++ [{ p with resident := false, maps := [] }] ∧
      (u.stream n.val).queue = (s.stream n.val).queue ∧ s.only u [.regs, .memsys, .streams, .cim]) ∧
  (∀ (n : Fin 22) (s : State) (p : Prog) (c : Nat), (s.stream n.val).run = some p →
    (List.range 6).find? (fun c => (s.stream n.val).queue.any (fun q => q.cls == c)) = some c → p.start.cls ≤ c →
    ∃ t, exec (.preemption n) s = .next t ∧ t = s) ∧
  (∀ (n : Fin 22) (s : State) (q : Start), (s.stream n.val).nextClass.bind (fun c => (s.stream n.val).firstStart c) = some q →
    q.bcast = true → s.streamFree n.val = true → streamKind n.val = 1 → bit q.cmask (n.val - 4) = true →
    (∀ k, k ∈ setBits 16 q.cmask → k < 8 ∧ s.coreEnabled k = true ∧ s.coreRetired k = false ∧
      ∀ p, (s.stream (4 + k)).run = some p → q.cls < p.start.cls) →
    ∃ t u, exec (.broadcastStart n) s = .next t ∧ t = u.checkHeader n.val (Prog.ofStart q) ∧
      (u.stream n.val).run = some (Prog.ofStart q) ∧ s.only u [.regs, .memsys, .streams, .cim] ∧
      (∀ k, k ∈ setBits 16 q.cmask → 4 + k ≠ n.val → (u.stream (4 + k)).follows = some n.val ∧ (u.stream (4 + k)).run = none ∧
        ∀ p, (s.stream (4 + k)).run = some p → ∃ p', p' ∈ (u.stream (4 + k)).saved ∧ p'.start = p.start ∧ p'.pc = p.pc) ∧
      (∀ h, (u.fetch n.val q.ctx q.prog 32).1 = .bytes h → headerOk n.val h = true → u.coreRetired (n.val - 4) = false →
        ∃ p, (t.stream n.val).run = some p ∧ p.start = q ∧ p.began = true))

/-- A wait is satisfied at a difference of 0 or more, is latched, advances its expect counter, and is saved at pre-emption. Rules:
R172. -/
def Obligations.WaitsAreSatisfiedAndLatched : Prop :=
  ∀ (n : Fin 22) (w : Fin 2) (s : State) (p : Prog) (b : Bundle) (y : Nat), (s.stream n.val).run = some p → p.phase = .waiting →
    p.bundle = some b → b.slot 0 = some y → p.expect.length = 8 →
    (let base := if w.val = 0 then 43 else 22
     let k := bits y (base + 8) 3
     let target := p.expect.getD k 0 + bits y base 8
     let diff := toSigned 16 (ofSigned 16 ((s.bell (bits y (base + 11) 9) : Int) - (target : Int)))
     let latched := if w.val = 0 then p.w0 else p.w1
     (p.expect.getD k 0 < 65536 → bit y (base + 20) = true → latched = false → 0 ≤ diff →
       ∃ t q, exec (.syncWaitSatisfied n w) s = .next t ∧ (t.stream n.val).run = some q ∧ (if w.val = 0 then q.w0 else q.w1) = true ∧
         (if w.val = 0 then q.w1 else q.w0) = (if w.val = 0 then p.w1 else p.w0) ∧ q.expect.getD k 0 = target % 65536 ∧
         (∀ j, j ≠ k → q.expect.getD j 0 = p.expect.getD j 0) ∧ q.bundle = p.bundle ∧ q.pc = p.pc ∧ q.marks = p.marks ∧
         s.only t [.streams]) ∧
     (p.expect.getD k 0 < 65536 → diff < 0 → ∃ t, exec (.syncWaitSatisfied n w) s = .next t ∧ t = s) ∧
     (latched = true → ∃ t, exec (.syncWaitSatisfied n w) s = .next t ∧ t = s)) ∧
    (∃ q, q ∈ ((s.saveRun n.val).stream n.val).saved ∧ q.w0 = p.w0 ∧ q.w1 = p.w1 ∧ q.expect = p.expect)

/-- Bundle fetch, issue, timed issue, RPT and commit: what each leaves of the program, and the halts of overrun and stop point.
Derived from: 05_engine_programs: R157, R158, R160, R168, R174, R176, R184, Table 05-8. -/
def Obligations.BundlesFetchIssueAndCommit : Prop :=
  (∀ (n : Fin 22) (s : State) (p : Prog) (b : Bundle), (s.stream n.val).run = some p → p.began = true → p.phase = .fetch →
    (s.fetchBundle n.val p p.pc).1 = .bundle b →
    ∃ t, exec (.bundleFetch n) s = .next t ∧ (t.stream n.val).run = some (p.withBundle b s.now) ∧ s.only t [.regs, .mmu, .streams]) ∧
  (∀ (n : Fin 22) (s : State) (p : Prog), (s.stream n.val).run = some p → p.began = true → p.phase = .fetch → 32 + p.length ≤ p.pc →
    ∃ t, exec (.bundleFetch n) s = .next t ∧ (t.stream n.val).run = none ∧ t.fget F.ENG_S_HALT_REASON n.val = 0x11) ∧
  (∀ (n : Fin 22) (s : State) (p : Prog), (s.stream n.val).run = some p → p.began = true → p.phase = .fetch → p.pc < 32 + p.length →
    s.flag F.ENG_S_STOP_EN n.val = true → s.fget F.ENG_S_STOP_COUNT n.val ≤ p.bcnt →
    ∃ t, exec (.bundleFetch n) s = .next t ∧ (t.stream n.val).run = none ∧ t.fget F.ENG_S_HALT_REASON n.val = 0x0D) ∧
  (∀ (n : Fin 22) (s u : State) (p q : Prog) (b : Bundle), (s.stream n.val).run = some p → p.bundle = some b → p.timed = false →
    p.phase = .ready → streamKind n.val ≠ 1 ∨ b.ops = [] ∨ p.resident = true → s.issueChecks n.val p b = (.go q, u) →
    ∃ t x, exec (.bundleIssue n) s = .next t ∧ (t.stream n.val).run = some x ∧ x.bcnt = (q.bcnt + 1) % 2 ^ 32 ∧ x.descs = q.descs ∧
      x.lastIssue = s.now ∧ x.ops.map (·.slot) = b.ops.map (·.slot) ∧ (b.ops ≠ [] → x.phase = .issued)) ∧
  (∀ (n : Fin 22) (s u : State) (p : Prog) (b : Bundle) (f : Fail), (s.stream n.val).run = some p → p.bundle = some b → p.timed = false →
    p.phase = .ready → s.issueChecks n.val p b = (.halts f, u) →
    ∃ t, exec (.bundleIssue n) s = .next t ∧ (t.stream n.val).run = none ∧ t.fget F.ENG_S_HALT_REASON n.val = f.reason % 256) ∧
  (∀ (n : Fin 22) (s u : State) (p q : Prog) (b : Bundle), (s.stream n.val).run = some p → p.bundle = some b → p.timed = true →
    p.began = true → p.phase = .ready → p.timedBlocked n.val b = false → s.issueChecks n.val p b = (.go q, u) →
    ∃ t x, exec (.timedBundleDue n) s = .next t ∧ (t.stream n.val).run = some x ∧ x.bcnt = (q.bcnt + 1) % 2 ^ 32 ∧ x.lastIssue = s.now) ∧
  (∀ (n : Fin 22) (s : State) (p : Prog) (b : Bundle), (s.stream n.val).run = some p → p.bundle = some b → p.timed = true →
    p.began = true → p.phase = .ready → p.timedBlocked n.val b = true →
    ∃ t, exec (.timedBundleDue n) s = .next t ∧ (t.stream n.val).run = none ∧ t.fget F.ENG_S_HALT_REASON n.val = 0x14) ∧
  (∀ (n : Fin 22) (s : State) (p : Prog) (b : Bundle), (s.stream n.val).run = some p → p.bundle = some b → p.phase = .issued →
    p.ops.all (fun o => o.finished) = true → p.iter < b.countM1 →
    ∃ t, exec (.rpt n) s = .next t ∧ s.only t [.streams] ∧ (t.stream n.val).run =
      some { p with iter := p.iter + 1, ops := s.issuedOps n.val b, resident := false, maps := [] }) ∧
  (∀ (n : Fin 22) (s : State) (p : Prog) (b : Bundle), (s.stream n.val).run = some p → p.bundle = some b → p.commitDue b = true →
    p.ending = false → p.broken = false → p.behind = [] →
    ∃ t q, exec (.bundleCommit n) s = .next t ∧ (t.stream n.val).run = some q ∧
      q.marks = p.markWr.foldl (fun l x => setAt l x.1 x.2) p.marks ∧ q.expect = p.expWr.foldl (fun l x => setAt l x.1 x.2) p.expect ∧
      (let y1 := (b.slot 1).getD 0
       q.pc = if bits y1 56 8 = 2 ∧ brTaken p.marktype q.marks y1 = true then 4 * bits y1 32 17 else b.pc + b.size) ∧
      (let y0 := (b.slot 0).getD 0
       (bit y0 21 = true → t.bell (bits y0 12 9) = (s.bell (bits y0 12 9) + bits y0 4 8) % 65536) ∧
       s.regsOnly t (if bit y0 21 then [R.ENG_BELL.at (bits y0 12 9)] else [])) ∧ s.only t [.regs, .streams]) ∧
  (∀ (n : Fin 22) (s : State) (p : Prog) (b : Bundle), (s.stream n.val).run = some p → p.bundle = some b → p.commitDue b = true →
    p.ending = true → p.start.ring ≠ 0xFF →
    ∃ t, exec (.bundleCommit n) s = .next t ∧ (t.stream n.val).run = none ∧ (t.stream n.val).lastPc = p.pc ∧
      (t.stream n.val).compl = (s.stream n.val).compl ++ [⟨p.start.ctx, p.start.ring,
        completionBytes { p with marks := p.markWr.foldl (fun l x => setAt l x.1 x.2) p.marks } 0 0 p.pc s.now⟩])

/-- END, BR, EXPSET, MARKSET and DELAY: what each leaves for the commit; RELEASE moves the region's tail. Derived from:
05_engine_programs: R162, Table 05-10. -/
def Obligations.ControlSlotsAct : Prop :=
  ∀ (n : Fin 22) (s : State) (p : Prog) (y : Nat), (s.stream n.val).run = some p → p.ctrlDue = some y →
    (bits y 56 8 = 1 → ∃ t, exec (.ctrlEnd n) s = .next t ∧ s.only t [.streams] ∧
      (t.stream n.val).run = some { p with phase := .ctrlDone, ending := true }) ∧
    (bits y 56 8 = 2 → ∃ t, exec (.ctrlBr n) s = .next t ∧ s.only t [.streams] ∧
      (t.stream n.val).run = some { p with phase := .ctrlDone }) ∧
    (bits y 56 8 = 3 → ∃ t, exec (.ctrlExpset n) s = .next t ∧ s.only t [.streams] ∧
      (t.stream n.val).run = some { p with
        phase := .ctrlDone
        expWr := p.expWr ++ [(bits y 52 3, if bit y 55 then s.bell (bits y 43 9) else bits y 0 16)] }) ∧
    (bits y 56 8 = 4 → ∃ t, exec (.ctrlMarkset n) s = .next t ∧ s.only t [.streams] ∧
      (t.stream n.val).run = some { p with
        phase := .ctrlDone
        markWr := p.markWr ++ [(bits y 52 4, BitVec.ofNat 32 (bits y 0 32))] }) ∧
    (bits y 56 8 = 5 → (let d := p.desc (bits y 44 12)
      let cnt := if bits y 0 32 = 0 then d.extent else bits y 0 32
      cnt % 256 = 0 → d.crnum < 64 → cnt ≤ ringDiff (s.crHead d.crnum) (s.crTail d.crnum) →
      ∃ t, exec (.ctrlRelease n) s = .next t ∧ s.only t [.regs, .streams] ∧ s.regsOnly t [R.MEM_CR_TAIL.at d.crnum] ∧
        t.crTail d.crnum = (s.crTail d.crnum + cnt) % 2 ^ 32 ∧ (t.stream n.val).run = some { p with phase := .ctrlDone })) ∧
    (bits y 56 8 = 7 → p.delay = 0 → bits y 0 32 ≠ 0 → ∃ t, exec (.ctrlDelay n) s = .next t ∧ s.only t [.streams] ∧
      (t.stream n.val).run = some { p with delay := s.now + bits y 0 32 + 1 }) ∧
    (bits y 56 8 = 7 → p.delay ≠ 0 → p.delay - 1 ≤ s.now → ∃ t, exec (.ctrlDelay n) s = .next t ∧ s.only t [.streams] ∧
      (t.stream n.val).run = some { p with
        phase := .ctrlDone
        delay := 0 })

/-- RED, MLOAD and MSTORE between tensor and mark, POST onto a ring, and the L1 slot. Derived from: 05_engine_programs: R163, R166,
R167; 03_on_package_memory: R93. -/
def Obligations.SideSlotsReadWriteAndPost : Prop :=
  (∀ (n : Fin 22) (s u w : State) (p : Prog) (y : Nat) (m : PageMap), (s.stream n.val).run = some p → p.redDue = some y →
    (let d := (p.desc (bits y 44 12)).forRank (p.ownRank n.val)
     (bits y 56 8 = 0x60 → s.mapped n.val p d (bits y 44 12) .read (d.offsets 0 d.count) = some (m, u) →
       u.readCheck n.val { p with phase := .redDone } d.notag (u.readAddrs d m (u.crTail d.crnum) 0 d.count) 6 (bits y 44 12) d.base =
         (true, w) →
       ∃ t, exec (.red n) s = .next t ∧ w.only t [.streams] ∧ (t.stream n.val).run = some { p with
         phase := .redDone
         markWr := p.markWr ++ [(bits y 40 4, BitVec.ofNat 32 (reduce d.typ (bits y 36 4)
           (w.elems (w.unitByte n.val) d m (u.crTail d.crnum) 0 d.count)))] }) ∧
     (bits y 56 8 = 0x62 → s.mapped n.val p d (bits y 44 12) .read (d.offsets 0 1) = some (m, u) →
       u.readCheck n.val { p with phase := .redDone } d.notag (u.readAddrs d m (u.crTail d.crnum) 0 1) 6 (bits y 44 12) d.base =
         (true, w) →
       ∃ t, exec (.mload n) s = .next t ∧ w.only t [.streams] ∧ (t.stream n.val).run = some { p with
         phase := .redDone
         markWr := p.markWr ++ [(bits y 40 4, BitVec.ofNat 32 (w.elem (w.unitByte n.val) d m (u.crTail d.crnum) 0))] }) ∧
     (bits y 56 8 = 0x61 → s.mapped n.val p d (bits y 44 12) .write (d.offsets 0 1) = some (m, u) →
       ∃ t, exec (.mstore n) s = .next t ∧ s.only t [.regs, .mem, .memsys, .mmu, .streams] ∧
         (t.stream n.val).run = some { p with phase := .redDone } ∧
         (streamKind n.val ≠ 1 →
           (let wr := u.elemWrites d m (u.crHead d.crnum) [(0, (p.marks.getD (bits y 40 4) 0).toNat)]
            (∀ a, (∀ x, x ∈ wr → x.1 ≠ a) → t.mem.byte a = s.mem.byte a) ∧
            ((wr.map (·.1)).Nodup → ∀ x, x ∈ wr → (u.loc x.1).sram = true → t.mem.byte x.1 = x.2)))))) ∧
  (∀ (n : Fin 22) (s u w : State) (p : Prog) (y : Nat) (m : PageMap) (b : List Byte), (s.stream n.val).run = some p →
    p.ctrlDue = some y → bits y 56 8 = 8 →
    (let d := p.desc (bits y 44 12)
     let ring := bits y 32 4
     s.mapped n.val p d (bits y 44 12) .read d.covered = some (m, u) →
     u.readCheck n.val p d.notag (d.covered.filterMap (fun k => u.tensorPhys d m .read (s.crTail d.crnum) k)) 1 (bits y 44 12) d.base =
       (true, w) →
     w.postBytes d m (s.crTail d.crnum) = some b → 1 ≤ leAt b 2 2 → leAt b 2 2 ≤ 16 → 64 * leAt b 2 2 ≤ b.length → leAt b 0 1 ≠ 0 →
     leAt b 0 1 ≠ 0xF0 → ringOwner ring = p.start.ctx → w.ringEnabled ring = true →
     leAt b 2 2 ≤ w.ringSpace ring →
     ∃ t, exec (.ctrlPost n) s = .next t ∧ t.rings = (w.commitRecord ring (w.stampLate (b.take (64 * leAt b 2 2)))).rings ∧
       t.mem = (w.commitRecord ring (w.stampLate (b.take (64 * leAt b 2 2)))).mem ∧ (t.stream n.val).run = some { p with phase := .ctrlDone })) ∧
  (∀ (n : Fin 22) (s : State) (p : Prog) (y : Nat), (s.stream n.val).run = some p → p.ctrlDue = some y → bits y 56 8 = 6 →
    p.start.bcast = false →
    ∃ t, exec (.ctrlL1 n) s = .next t ∧ (t.stream n.val).run = some { p with phase := .ctrlDone } ∧
      (bits y 54 2 = 1 → t.lines (n.val - 4) = (s.lines (n.val - 4)).map (fun l => { l with dirty := false })) ∧
      (bit y 55 = true → ∀ l, l ∈ t.lines (n.val - 4) → l.locked = true ∧ l.inval = true) ∧
      (bit y 54 = false → t.mem = s.mem) ∧ s.only t [.regs, .mem, .memsys, .streams])

/-- COPY and FILL begin with their step count, each step writes only its own bytes, and a remote COPY cuts segments. Derived from:
05_engine_programs: R165; 04_contexts_and_translation: R143; 18_shunto_link: R512, R513, R517. -/
def Obligations.TransfersMoveBytesStepByStep : Prop :=
  (∀ (n : Fin 22) (s : State) (p : Prog) (o : OpRun), (s.stream n.val).run = some p → p.phase = .issued →
    p.ops.find? (fun o => !o.finished && (!o.started && o.opc == 0x30)) = some o →
    (s.dmRemote n.val p o = false →
      ∃ t, exec (.copy n) s = .next t ∧ s.only t [.streams] ∧ (t.stream n.val).run = some (p.setOp { o with
        started := true
        nsteps := ceilDiv (dmTotal false (p.desc (p.handle o 0)) (p.desc (p.handle o 1))) 4096 })) ∧
    (s.dmRemote n.val p o = true → (p.desc (p.handle o 1)).contiguous = true →
      ∃ t, exec (.copy n) s = .next t ∧ s.only t [.streams] ∧ (t.stream n.val).run = some (p.setOp { o with
        started := true
        nsteps := segCount (p.desc (p.handle o 1)).base (dmTotal false (p.desc (p.handle o 0)) (p.desc (p.handle o 1))) }))) ∧
  (∀ (n : Fin 22) (s : State) (p : Prog) (o : OpRun), (s.stream n.val).run = some p → p.phase = .issued →
    p.ops.find? (fun o => !o.finished && (!o.started && o.opc == 0x31)) = some o →
    ∃ t, exec (.fill n) s = .next t ∧ s.only t [.streams] ∧ (t.stream n.val).run = some (p.setOp { o with
      started := true
      nsteps := ceilDiv (p.desc (p.handle o 1)).streamBytes 4096 })) ∧
  (∀ (n : Fin 22) (s u : State) (p : Prog) (o : OpRun) (m : PageMap), (s.stream n.val).run = some p → p.phase = .issued →
    p.ops.find? (fun o => !o.finished && (o.started && (o.opc == 0x30 || o.opc == 0x31))) = some o → o.opc = 0x31 →
    (let d := p.desc (p.handle o 1)
     let r := d.elemsIn (4096 * o.step) (min d.streamBytes (4096 * o.step + 4096))
     d.crbind = false → d.layout ≠ 3 →
     s.touch n.val p.start.ctx (d.touches (p.handle o 1) .write (d.offsets r.1 r.2)) [] = (.ok m, u) →
     ∃ t q, exec (.dmChunk n) s = .next t ∧ (t.stream n.val).run = some q ∧
       (o.step + 1 < o.nsteps → q = p.setOp { o with step := o.step + 1 }) ∧
       (o.nsteps ≤ o.step + 1 → q = (p.setOp { o with
         step := o.step + 1
         finished := true }).advance) ∧
       t.mem = ((u.violatePages n.val p.start.ctx m).writeElems d m 0 ((unpackElems (typeBits d.typ) (r.2 - r.1)
         (fillBytes (o.arg.getD 0) (4096 * o.step) (min d.streamBytes (4096 * o.step + 4096)))).zipIdx.map
         (fun x => (r.1 + x.2, x.1)))).mem ∧
       (∀ a, (∀ k, k ∈ d.offsets r.1 r.2 → m.phys .write (d.base + k) ≠ some a) → t.mem.byte a = s.mem.byte a) ∧
       s.only t [.regs, .mem, .mmu, .streams])) ∧
  (∀ (n : Fin 22) (s : State) (p : Prog) (o : OpRun), (s.stream n.val).run = some p → p.phase = .issued →
    p.ops.find? (fun o => !o.finished && (o.started && o.opc == 0x30)) = some o → s.dmRemote n.val p o = true → o.nsteps ≤ o.step →
    s.chn.flights.any (fun f => f.owner == n.val * 8 + p.start.cls) = false →
    ∃ t, exec (.segmentSend n) s = .next t ∧ s.only t [.streams] ∧
      (t.stream n.val).run = some (p.setOp { o with finished := true }).advance) ∧
  (∀ (n : Fin 22) (s w u : State) (p : Prog) (o : OpRun) (m : PageMap) (data : List Byte) (origins : List (Option Nat)) (a port : Nat),
    (s.stream n.val).run = some p → p.phase = .issued →
    p.ops.find? (fun o => !o.finished && (o.started && o.opc == 0x30)) = some o → s.dmRemote n.val p o = true → o.step < o.nsteps →
    (let d := p.desc (p.handle o 1)
     let r := segRange d.base d.streamBytes o.step
     let v := u.violatePages n.val p.start.ctx m
     s.dmSource n.val p o (p.desc (p.handle o 0)) d r.1 r.2 d.streamBytes = (w, some (data, origins)) →
     w.touch n.val p.start.ctx [⟨(d.base + r.1) / 4096, .write, d.base + r.1, p.handle o 1⟩] [] = (.ok m, u) →
     m.phys .write (d.base + r.1) = some a → v.flag F.CHN_STAT_ADDRVALID = true →
     v.route ((a - 0x4000000000) / 0x8000000) = some port →
     ∃ t f q, exec (.segmentSend n) s = .next t ∧ t.chn.flights = v.chn.flights ++ [f] ∧ f.owner = n.val * 8 + p.start.cls ∧
       f.sentTb = s.now ∧ f.seg.len = data.length % 2 ^ 32 ∧ (t.port port).queue = (v.port port).queue ++ [f.seg] ∧
       (t.stream n.val).run = some q ∧ q.ops.any (fun x => x.slot == o.slot && x.step == o.step + 1) = true))

/-- Halt requests and clears, completion records, and register writes of the bells. Derived from: 05_engine_programs: R155, R171,
R173, R181, R182, R183, Tables 05-4, 05-28. -/
def Obligations.HaltsCompletionsAndBells : Prop :=
  (∀ (r : Req) (n : Fin 22) (v : Word) (s : State), s.ctxEnabled (s.ctxOf r) = true → s.streamEnabled n.val = true →
    s.ctxOf r = 0 ∨ s.ctxOf r = getField v 8 3 →
    ∃ t, exec (.haltRequest r n v) s = .next t ∧ bit (t.stream n.val).halted (getField v 8 3) = true ∧
      (∀ p, (t.stream n.val).run = some p → p.start.ctx ≠ getField v 8 3) ∧
      (∀ p, p ∈ (t.stream n.val).saved → p.start.ctx ≠ getField v 8 3) ∧
      (∀ q, q ∈ (t.stream n.val).queue ++ (t.stream n.val).held → q.ctx ≠ getField v 8 3) ∧
      (∀ p, (s.stream n.val).run = some p → p.start.ctx = getField v 8 3 → t.fget F.ENG_S_HALT_REASON n.val = 0x15) ∧
      s.only t [.regs, .mem, .memsys, .mmu, .streams, .irqHalt]) ∧
  (∀ (r : Req) (n : Fin 22) (v : Word) (s : State), s.ctxEnabled (s.ctxOf r) = true → s.streamEnabled n.val = true → s.ctxOf r = 0 →
    ∃ t, exec (.haltClear r n v) s = .next t ∧ s.only t [.streams] ∧
      (∀ c, c < 8 → bit (t.stream n.val).halted c = (bit (s.stream n.val).halted c && !bit v.toNat c)) ∧
      (t.stream n.val).queue = (s.stream n.val).queue ∧ (t.stream n.val).run = (s.stream n.val).run) ∧
  (∀ (n : Fin 22) (s : State) (c : Completion) (rest : List Completion), (s.stream n.val).compl = c :: rest → c.ring < 16 →
    ringOwner c.ring = c.ctx → s.ringEnabled c.ring = true → ceilDiv c.bytes.length 64 ≤ s.ringSpace c.ring →
    ∃ t, exec (.completionRecordCommit n) s = .next t ∧ (t.stream n.val).compl = rest ∧
      t.fget F.HOST_RR_HEAD_INDEX c.ring = (s.fget F.HOST_RR_HEAD_INDEX c.ring + ceilDiv c.bytes.length 64) % s.ringSize c.ring ∧
      t.rget R.HOST_RR_SEQ c.ring = (s.rget R.HOST_RR_SEQ c.ring + 1) % 2 ^ 32 ∧ s.only t [.regs, .mem, .streams, .rings]) ∧
  (∀ (n : Fin 22) (s : State) (c : Completion) (rest : List Completion), (s.stream n.val).compl = c :: rest → ringOwner c.ring = c.ctx →
    s.ringEnabled c.ring = true → s.ringSpace c.ring < ceilDiv c.bytes.length 64 →
    ∃ t, exec (.completionRecordCommit n) s = .next t ∧ t = s) ∧
  (∀ (n : Fin 22) (s : State) (c : Completion) (rest : List Completion), (s.stream n.val).compl = c :: rest → ringOwner c.ring ≠ c.ctx →
    ∃ t, exec (.completionRecordCommit n) s = .next t ∧ (t.stream n.val).compl = rest ∧
      t.regs = (s.violate c.ctx n.val 0x7 0).regs ∧ s.only t [.regs, .streams]) ∧
  (∀ (r : Req) (b : Fin 512) (v : Word) (s : State), s.reqOn r = true → s.ctxEnabled (s.ctxOf r) = true →
    s.ctxOf r = 0 ∨ s.bellOf (s.ctxOf r) b.val = true →
    ∃ t, exec (.bellIncrementWrite r b v) s = .next t ∧ t.bell b.val = (s.bell b.val + getField v 0 16) % 65536 ∧
      s.only t [.regs] ∧ s.regsOnly t [R.ENG_BELL.at b.val]) ∧
  (∀ (r : Req) (b : Fin 512) (v : Word) (s : State), s.reqOn r = true → s.ctxEnabled (s.ctxOf r) = true → s.ctxOf r ≠ 0 →
    s.bellOf (s.ctxOf r) b.val = false →
    ∃ t, exec (.bellIncrementWrite r b v) s = .next t ∧ t = s.violateBy r 0xA (R.ENG_BELL.at b.val)) ∧
  (∀ (r : Req) (b : Fin 512) (v : Word) (incs : List Half) (s : State), s.reqOn r = true → s.ctxEnabled (s.ctxOf r) = true →
    s.ctxOf r = 0 ∨ s.bellOf (s.ctxOf r) b.val = true →
    ∃ t, exec (.bellSetWrite r b v incs) s = .next t ∧ t.bell b.val = (getField v 0 16 + (incs.map (·.toNat)).sum) % 65536 ∧
      s.only t [.regs] ∧ s.regsOnly t [R.ENG_BELL.at b.val])

/-- MVM, its slots and its commit, DECK, and the saturation counters. Derived from: 06_weight_tiles_exposure: R191, R193, R194,
R199, R201, R203, R204, R206, R210, R212. -/
def Obligations.MvmsExposeCheckAndCommit : Prop :=
  (∀ (n : Fin 22) (s u w : State) (p : Prog) (o : OpRun) (m : PageMap), (s.stream n.val).run = some p → p.phase = .issued →
    p.ops.find? (fun o => !o.finished && (!o.started && o.opc == 0x10)) = some o → o.tiles.length ≤ 1024 →
    (let x := p.desc (p.handle o 0)
     s.mapped n.val p x (p.handle o 0) .read (x.offsets 0 x.count) = some (m, u) →
     u.readCheck n.val p x.notag (u.readAddrs x m (u.crTail x.crnum) 0 x.count) o.slot (p.handle o 0) x.base = (true, w) →
     ∃ t o', exec (.mvm n) s = .next t ∧ w.only t [.streams] ∧ (t.stream n.val).run = some (p.setOp o') ∧ o'.started = true ∧
       o'.step = 0 ∧ o'.nsteps = o'.slots.length + 1 ∧
       o'.accOf accInput = (w.elems w.physByte x m (u.crTail x.crnum) 0 x.count).map Int.ofNat ∧
       ∀ r, r < o.tiles.length → o'.accOf r = List.replicate o.layer.colcnt 0)) ∧
  (∀ (n : Fin 22) (second : Bool) (devs : List (List (Nat × Nat × Int))) (s : State) (p : Prog) (o : OpRun) (x : Slot) (rest : List Slot),
    (s.stream n.val).run = some p → p.phase = .issued →
    p.ops.find? (fun o => !o.finished && (o.started && o.opc == 0x10 && (o.slot == 4) == second && !(o.slots.isEmpty))) = some o →
    o.slots = x :: rest → n.val < 4 → o.tiles.length ≤ 1024 → o.entry < 256 → p.pinres ≤ 9 →
    (p.timed = false → o.inputs.all (fun xs => (o.layer.slotRows xs x).isEmpty) = true → s.flag F.CIM_CTL_NOSKIP n.val = false →
      ∃ t o', exec (.exposureSlot n second devs) s = .next t ∧ (t.stream n.val).run = some (p.setOp o') ∧ o'.step = o.step + 1 ∧
        o'.slots.length = rest.length ∧ t.rget R.CIM_SKIP n.val = satAdd 32 (s.rget R.CIM_SKIP n.val) 1 ∧ s.only t [.regs, .streams] ∧
        s.regsOnly t [R.CIM_SKIP.at n.val]) ∧
    (let first := ((s.leaveDark n.val o.tiles).exposeAll n.val p o x (devs.headD [])).1
     (p.timed = true ∨ o.inputs.all (fun xs => (o.layer.slotRows xs x).isEmpty) = false) → x.kind ≠ 2 ∨ o.layer.satact = false →
     ((∀ e, some e ∈ first → s.csFails n.val x e = false) →
       ∃ t o', exec (.exposureSlot n second devs) s = .next t ∧ (t.stream n.val).run = some (p.setOp o') ∧ o'.step = o.step + 1 ∧
         o'.slots.length = rest.length ∧ t.rget R.CIM_EXPLO n.val = (s.rget R.CIM_EXPLO n.val + 1) % 2 ^ 32 ∧
         (∀ r, r < o.tiles.length → o'.accOf r = (match first.getD r none with
           | some e => o.layer.accumulate x.plane (o.accOf r) e.cols
           | none => o.accOf r))) ∧
     ((∃ e, some e ∈ first ∧ s.csFails n.val x e = true) → p.timed = true ∨ s.fget F.CIM_CTL_CSRETRY n.val = 0 →
       ∃ t, exec (.exposureSlot n second devs) s = .next t ∧ (t.stream n.val).run = none ∧
         t.fget F.ENG_S_HALT_REASON n.val = 0x0B))) ∧
  (∀ (n : Fin 22) (second : Bool) (s u v w : State) (p : Prog) (o : OpRun) (m : PageMap), (s.stream n.val).run = some p →
    p.phase = .issued →
    p.ops.find? (fun o => !o.finished && (o.started && o.opc == 0x10 && (o.slot == 4) == second && o.slots.isEmpty)) = some o →
    (let d := p.desc (p.handle o 1)
     let ps := p.desc (p.handle o 2)
     let l := o.layer
     let raw := bit o.mod 0
     let accen := bit o.mod 1
     let params := damBase n.val + l.param
     let table := damBase n.val + l.table
     let m' := u.noRemote m
     let u' := u.violatePages n.val p.start.ctx m'
     s.touch n.val p.start.ctx (d.touches (p.handle o 1) .write (d.offsets 0 d.count) ++
       (if accen then ps.touches (p.handle o 2) .read (ps.offsets 0 ps.count) else [])) [] = (.ok m, u) →
     u'.readCheck n.val p false (if raw then [] else (List.range (8 * l.outputs o.tiles.length)).map (· + params) ++
       (if l.fn = 3 then (List.range 256).map (· + table) else [])) o.slot 0xFFFF 0 = (true, v) →
     v.readCheck n.val p ps.notag (if accen then u'.readAddrs ps m' (u'.crTail ps.crnum) 0 ps.count else []) o.slot (p.handle o 2) ps.base =
       (true, w) →
     ∃ t, exec (.mvmCommit n second) s = .next t ∧ (t.stream n.val).run = some ((p.setOp { o with
         step := o.step + 1
         acc := []
         finished := true }).advance) ∧
       (let psum := if accen then (w.elems w.physByte ps m' (w.crTail ps.crnum) 0 ps.count).map (toSigned 32) else []
        let vals := o.outSums.zipIdx.map (fun y => (y.2, outputStage l raw (y.1 + psum.getD y.2 0) (w.load (params + 8 * y.2) 8)
          (w.load table 256)))
        t.mem = ((w.writeElems d m' (w.crHead d.crnum) vals).statStep n.val o).mem))) ∧
  (∀ (n : Fin 22) (s : State) (p : Prog) (o : OpRun), (s.stream n.val).run = some p → p.phase = .issued →
    p.ops.find? (fun o => !o.finished && (!o.started && o.opc == 0x12)) = some o →
    ∃ t, exec (.deck n) s = .next t ∧ s.only t [.streams, .cim] ∧ (t.stream n.val).run = some ((p.setOp { o with
        started := true
        step := 1
        finished := true }).advance) ∧
      (∀ x, x ∈ maskTiles (o.arg.getD 0) → t.lselOf (n.val * 1024 + x.1 * 64 + x.2) = bits o.mod 0 3 ∧
        ∀ k, s.serving n.val x.1 x.2 = some k → (t.tileX n.val k).select = (s.tileX n.val k).ready (bits o.mod 0 3)) ∧
      (∀ k, (∀ x, x ∈ maskTiles (o.arg.getD 0) → k ≠ n.val * 1024 + x.1 * 64 + x.2) → t.lselOf k = s.lselOf k)) ∧
  (∀ (r : Req) (d : Fin 4) (v : Word) (s : State), s.homeReq r →
    ∃ t, exec (.satCounterClear r d v) s = .next t ∧ (∀ k, k < 256 → t.rget R.CIM_SAT d.val k = 0) ∧
      t.fget F.CIM_CTL_GFILT d.val = getField v 8 3 ∧ t.fget F.CIM_CTL_CSRETRY d.val = getField v 4 2 ∧ s.only t [.regs])

/-- The commands of the tile programming unit: erase, program, map and retire. Derived from: 07_weight_tiles_writing: R217, R218,
R220, R221, R222, R226, R236, R239, R240, R241, Table 07-5. -/
def Obligations.TileCommandsEraseProgramMapAndRetire : Prop :=
  (∀ (d : Fin 4) (tl : Half) (s u : State) (c : TileCmd), s.cimpReady u d.val 1 tl.toNat c →
    ∃ t, exec (.tileErase d tl) s = .next t ∧ t.runningOn d.val tl.toNat = some { c with running := true } ∧
      (t.tileX d.val tl.toNat).deck c.deck = { (s.tileX d.val tl.toNat).deck c.deck with
        erases := ((s.tileX d.val tl.toNat).deck c.deck).erases + 1
        state := 1 } ∧
      (∀ p, p ≠ c.deck → (t.tileX d.val tl.toNat).deck p = (s.tileX d.val tl.toNat).deck p) ∧
      (∀ k, k < 1152 → k ≠ tl.toNat → t.tileX d.val k = s.tileX d.val k) ∧ s.only t [.regs, .mem, .chn, .cim, .events]) ∧
  (∀ (d : Fin 4) (tl : Half) (s : State) (c : TileCmd), s.runningOn d.val tl.toNat = some c → c.op = 1 →
    ∃ t, exec (.tileEraseDone d tl [] false) s = .next t ∧ (∀ r k, ((t.tileX d.val tl.toNat).deck c.deck).level r k = 0) ∧
      ((t.tileX d.val tl.toNat).deck c.deck).state = 0 ∧ ((t.tileX d.val tl.toNat).deck c.deck).drift = 0 ∧
      ((t.tileX d.val tl.toNat).deck c.deck).erases = ((s.tileX d.val tl.toNat).deck c.deck).erases ∧
      (∀ x, x ∈ t.cmds d.val → x ≠ c) ∧ s.only t [.regs, .mem, .cim, .irqCimp]) ∧
  (∀ (d : Fin 4) (tl : Half) (bad : List (Fin 528 × Fin 544 × Fin 4)) (pulse : Bool) (s : State) (c : TileCmd),
    s.runningOn d.val tl.toNat = some c → c.op = 1 → pulse = true ∨ 64 < bad.length →
    ∃ t, exec (.tileEraseDone d tl bad pulse) s = .next t ∧ ((t.tileX d.val tl.toNat).deck c.deck).state = 6) ∧
  (∀ (d : Fin 4) (tl : Half) (s u : State) (c : TileCmd), s.cimpReady u d.val 2 tl.toNat c →
    (u.tileX d.val tl.toNat).defects.length < 504 →
    (let rep := if bit c.arg 3 then (u.tileX d.val tl.toNat).autoRepair c.deck (u.fget F.CIMP_CTL_ROWTH d.val)
       else (u.tileX d.val tl.toNat, 0, false)
     rep.2.2 = false →
     ∃ t, exec (.tileProgram d tl) s = .next t ∧ t.runningOn d.val tl.toNat = some { c with running := true } ∧
       ((t.tileX d.val tl.toNat).deck c.deck).state = 2 ∧ ((t.tileX d.val tl.toNat).deck c.deck).wfmt = bits c.arg 0 2 ∧
       (t.tileX d.val tl.toNat).defects = rep.1.defects ∧ s.only t [.regs, .mem, .cim])) ∧
  (∀ (d : Fin 4) (tl : Half) (p1 : Fin 9) (p2 : Fin 5) (cells : List (Fin 544 × Fin 4)) (s u : State) (c : TileCmd) (img : List Byte),
    s.runningOn d.val tl.toNat = some c → c.op = 2 → c.susp = false → s.timedOn d.val = false →
    (∀ p, (s.stream d.val).run = some p →
      p.ops.any (fun o => o.opc == 0x10 && o.started && !o.finished && o.tiles.any (fun x => x.tile == c.tile)) = false) →
    s.rowSource d.val c c.step = (.row img, u) →
    (let x := s.tileX d.val tl.toNat
     let lv := x.programLevels c.deck c.step img (cells.map (fun e => (e.1.val, e.2.val)))
     let pr := x.rowOf c.deck c.step
     (x.deck c.deck).wfmt ≠ 3 ∨ (List.range 512).any (fun k => bits (leNat img) (2 * k) 2 == 3) = false →
     lv.all (fun e => e.2.1 == e.2.2) = true →
     ∃ t, exec (.programRow d tl p1 p2 cells) s = .next t ∧
       (∀ e, e ∈ lv → ((t.tileX d.val tl.toNat).deck c.deck).level pr e.1 = e.2.1) ∧
       (∀ r k, r ≠ pr → k < 544 → ((t.tileX d.val tl.toNat).deck c.deck).level r k = (x.deck c.deck).level r k) ∧
       (c.step + 1 < 512 → t.cmds d.val = (s.cmds d.val).map (fun y => if y = c then { c with step := c.step + 1 } else y) ∧
         ((t.tileX d.val tl.toNat).deck c.deck).state = (x.deck c.deck).state) ∧
       (512 ≤ c.step + 1 → ((t.tileX d.val tl.toNat).deck c.deck).state = 4 ∧
         ((t.tileX d.val tl.toNat).deck c.deck).tagpfx = c.tagpfx ∧ ((t.tileX d.val tl.toNat).deck c.deck).block = c.block))) ∧
  (∀ (d : Fin 4) (tl : Half) (s u : State) (c : TileCmd), s.cimpReady u d.val 5 tl.toNat c →
    ∃ t, exec (.tileMapset d tl) s = .next t ∧ (t.tileX d.val tl.toNat).pmap = (List.range 8).map (fun i => c.src / 256 ^ i % 256) ∧
      (t.tileX d.val tl.toNat).lmap = (s.tileX d.val tl.toNat).lmap ∧
      (∀ i, c.idx = some i → t.mem.byte (s.cimpSlot d.val i + 1) = 2 ∧ t.irqCimp = s.irqCimp ||| 2 ^ d.val) ∧
      s.only t [.regs, .mem, .cim, .irqCimp]) ∧
  (∀ (d : Fin 4) (tl : Half) (s u : State) (c : TileCmd) (j : Nat), s.cimpReady u d.val 6 tl.toNat c → tl.toNat < 1152 →
    (List.range 72).find? (fun j => (u.tileX d.val (72 * (tl.toNat / 72) + j)).role == 1) = some j →
    ∃ t, exec (.tileRetire d tl) s = .next t ∧ (t.tileX d.val (72 * (tl.toNat / 72) + j)).role = 2 ∧
      (t.tileX d.val (72 * (tl.toNat / 72) + j)).pos = (s.tileX d.val tl.toNat).pos ∧
      t.cim.retiring = s.cim.retiring ++ [(d.val, tl.toNat, 72 * (tl.toNat / 72) + j)] ∧ t.cim.exhausted = s.cim.exhausted) ∧
  (∀ (d : Fin 4) (tl : Half) (s u : State) (c : TileCmd), s.cimpReady u d.val 6 tl.toNat c →
    (List.range 72).find? (fun j => (u.tileX d.val (72 * (tl.toNat / 72) + j)).role == 1) = none →
    ∃ t, exec (.tileRetire d tl) s = .next t ∧ (t.tileX d.val tl.toNat).stopped = true ∧
      d.val * 16 + tl.toNat / 72 ∈ t.cim.exhausted)

/-- Top-up, calibration, drift, the deck-map switch and the statistics unit. Derived from: 07_weight_tiles_writing: R227, R228,
R229, R230, R231, R232, R233, R237. -/
def Obligations.DarkroomSwitchesAndStatistics : Prop :=
  (∀ (d : Fin 4) (tl : Half) (s u : State) (c : TileCmd), s.cimpReady u d.val 3 tl.toNat c →
    ∃ t, exec (.tileTopup d tl) s = .next t ∧ t.runningOn d.val tl.toNat = some { c with running := true } ∧
      t.cim.tiles = s.cim.tiles ∧ s.only t [.regs, .mem, .cim]) ∧
  (∀ (d : Fin 4) (tl : Half) (s u : State) (c : TileCmd), s.cimpReady u d.val 4 tl.toNat c →
    ∃ t, exec (.tileCalibrate d tl) s = .next t ∧ t.cim.tiles = s.cim.tiles ∧ s.only t [.regs, .mem, .cim] ∧
      t.runningOn d.val tl.toNat = some { c with
        running := true
        sums := List.replicate 7 0 }) ∧
  (∀ (d : Fin 4) (tl : Half) (trim : Byte) (n : Fin 171) (lo hi : Half) (seg : Fin 4) (fails : Bool) (cells : List (Fin 544 × Fin 4))
      (pulsed : Half) (s : State) (c : TileCmd), s.runningOn d.val tl.toNat = some c → c.out = false → s.timedOn d.val = false →
    (c.op = 3 → c.step + 1 < 512 → cells = [] →
      ∃ t, exec (.darkroomStep d tl trim n lo hi seg fails cells pulsed) s = .next t ∧
        t.cmds d.val = (s.cmds d.val).map (fun y => if y = c then { c with
          step := c.step + 1
          count := satAdd 16 c.count pulsed.toNat
          sums := [c.sums.headD 0] } else y) ∧
        ((t.tileX d.val tl.toNat).deck c.deck).cells = ((s.tileX d.val tl.toNat).deck c.deck).cells) ∧
    (c.op = 4 → c.step < 132 →
      ∃ t, exec (.darkroomStep d tl trim n lo hi seg fails cells pulsed) s = .next t ∧ s.only t [.cim] ∧ t.cim.tiles = s.cim.tiles ∧
        t.cmds d.val = (s.cmds d.val).map (fun y => if y = c then { c with
          step := c.step + 1
          trim := c.trim ++ [trim] } else y)) ∧
    (c.op = 4 → c.step = 399 → fails = false →
      ∃ t, exec (.darkroomStep d tl trim n lo hi seg fails cells pulsed) s = .next t ∧
        (let k := (t.tileX d.val tl.toNat).deck c.deck
         let fit := calFit (c.sums.getD 0 0) (c.sums.getD 1 0) (c.sums.getD 2 0)
         k.state = 5 ∧ k.offs = fit.1 ∧ k.gain = fit.2 ∧ k.cal.offs0 = fit.1 ∧ k.cal.gain0 = fit.2 ∧ k.cal.crcBad = false ∧ k.drift = 0 ∧
         k.calTb = s.now ∧ k.cells = ((s.tileX d.val tl.toNat).deck c.deck).cells) ∧ (∀ x, x ∈ t.cmds d.val → x ≠ c))) ∧
  (∀ (d : Fin 4) (tl : Half) (s : State) (c : TileCmd), s.runningOn d.val tl.toNat = some c → c.out = true →
    (∀ p, (s.stream d.val).run = some p →
      p.ops.any (fun o => o.opc == 0x10 && o.started && !o.finished && o.tiles.any (fun x => x.tile == c.tile)) = false) →
    ∃ t, exec (.darkroomReenter d tl) s = .next t ∧ s.only t [.cim] ∧
      t.cmds d.val = (s.cmds d.val).map (fun y => if y = c then { c with out := false } else y)) ∧
  (∀ (d : Fin 4) (tl : Half) (p : Fin 8) (s : State), s.tilePresent tl.toNat = true → ((s.tileX d.val tl.toNat).deck p.val).state = 5 →
    (s.tileX d.val tl.toNat).lmap.contains p.val = true → s.fget F.CIMP_DARK_PERIOD d.val ≠ 0 →
    ((s.tileX d.val tl.toNat).deck p.val).calTb + s.fget F.CIMP_DARK_PERIOD d.val * 3600 * 10 ^ 9 ≤ s.now →
    (s.cmds d.val).any (fun c => c.idx == none && c.op == 4 && c.tile == tl.toNat && c.deck == p.val) = false →
    ∃ t, exec (.calibrationDue d tl p) s = .next t ∧ t.cmds d.val = s.cmds d.val ++ [TileCmd.own 4 tl.toNat p.val 0] ∧ s.only t [.cim]) ∧
  (∀ (d : Fin 4) (tl : Half) (s : State), s.tilePresent tl.toNat = true →
    (s.tileX d.val tl.toNat).driftTb = 0 ∨ (s.tileX d.val tl.toNat).driftTb - 1 + 3600 * 10 ^ 9 ≤ s.now →
    ∃ t, exec (.driftPersist d tl) s = .next t ∧ s.only t [.cim] ∧ (t.tileX d.val tl.toNat).driftTb = s.now + 1 ∧
      ∀ p, ((t.tileX d.val tl.toNat).deck p).driftKept = ((s.tileX d.val tl.toNat).deck p).drift) ∧
  (∀ (r : Req) (d : Fin 4) (v : Word) (s : State), s.homeReq r → s.streamRuns (getField v 0 4) = true →
    ∃ t, exec (.switchArm r d v) s = .next t ∧ t.flag F.CIMP_SWITCH_ARM d.val = true ∧
      t.fget F.CIMP_SWITCH_STREAM d.val = getField v 0 4 ∧ s.only t [.regs] ∧ s.regsOnly t [R.CIMP_SWITCH.at d.val]) ∧
  (∀ (r : Req) (d : Fin 4) (v : Word) (s : State), s.homeReq r →
    ∃ t, exec (.switchDisarm r d v) s = .next t ∧ t.flag F.CIMP_SWITCH_ARM d.val = false ∧
      (s.flag F.CIMP_SWITCH_ARM d.val = true → t.fget F.CIMP_SWITCH_RESULT d.val = 0) ∧ s.only t [.regs] ∧
      s.regsOnly t [R.CIMP_SWITCH.at d.val]) ∧
  (∀ (st : Fin 16) (s : State), s.streamRuns st.val = false → (∀ d, d ∈ s.armedDies st.val → s.timedOn d = false) →
    ∃ t, exec (.deckMapSwitch st) s = .next t ∧ (∀ d, d ∈ s.armedDies st.val → t.flag F.CIMP_SWITCH_ARM d = false) ∧
      ((∀ d k, d ∈ s.armedDies st.val → k ∈ s.pendingTiles d →
          (s.tileX d k).pmap.all (fun p => p == 0xFF || ((s.tileX d k).deck p).state == 5) = true) →
        (∀ d, d ∈ s.armedDies st.val → t.fget F.CIMP_SWITCH_RESULT d = 1 ∧
          ∀ k, k ∈ s.pendingTiles d → (t.tileX d k).lmap = (s.tileX d k).pmap) ∧
        t.cim.retiring = s.cim.retiring.filter (fun r => !(s.armedDies st.val).contains r.1)) ∧
      ((∃ d k, d ∈ s.armedDies st.val ∧ k ∈ s.pendingTiles d ∧
          (s.tileX d k).pmap.all (fun p => p == 0xFF || ((s.tileX d k).deck p).state == 5) = false) →
        t.cim = s.cim ∧ ∀ d, d ∈ s.armedDies st.val → t.fget F.CIMP_SWITCH_RESULT d = 2) ∧ s.only t [.regs, .cim]) ∧
  (∀ (r : Req) (d : Fin 4) (v : Word) (s : State), s.homeReq r →
    ∃ t, exec (.statsArm r d v) s = .next t ∧ t.flag F.CIMP_STATCFG_ARM d.val = true ∧
      t.fget F.CIMP_STATCFG_LAYER d.val = getField v 16 8 ∧ t.fget F.CIMP_STATCFG_COUNT d.val = getField v 0 16 ∧
      t.cim.stats.find? (fun e => e.1 == d.val) = none ∧ s.only t [.regs, .cim] ∧ s.regsOnly t [R.CIMP_STATCFG.at d.val])

/-- DME operands become resident, an operation begins with its tile count, tiles are written, and cores settle and retire. Derived
from: 08_matrix_engine: R250, R264, R265, R266, R271, R272; 12_on_device_learning: R356. -/
def Obligations.DmeOperationsRunTileByTile : Prop :=
  (∀ (n : Fin 22) (xp : Word) (s u : State) (p : Prog) (o : OpRun) (b : Bundle) (m : PageMap) (maps : List (Nat × PageMap)),
    (s.stream n.val).run = some p → streamKind n.val = 1 → p.resident = false → p.dmeOp = some o → p.bundle = some b →
    (let q := s.cacheDescs p ((dmeReads b o p.iter ++ dmeWrites b o p.iter).map Int.toNat)
     s.dmeCheck n.val q b o q.iter = [] →
     (q.cores n.val).zipIdx.any (fun k => s.dmePlaceCheck q b o q.iter k.1 k.2 != []) = false →
     s.feedCores n.val q o ((dmeReads b o q.iter).map Int.toNat) (q.cores n.val).zipIdx [] = (.ok m, maps, u) →
     ∃ t, exec (.operandResident n xp) s = .next t ∧ u.only t [.regs, .streams] ∧
       (∀ k, k ∈ q.cores n.val → t.flag F.DME_STAT_BUSY k = true) ∧
       (t.stream n.val).run = some { q with
         resident := true
         maps := maps })) ∧
  (∀ (n : Fin 22) (x : Instr × Nat) (s : State) (p : Prog) (o : OpRun) (b : Bundle),
    x ∈ [(Instr.mma n, 0x20), (Instr.dist n, 0x21), (Instr.ewise n, 0x22), (Instr.norm n, 0x23), (Instr.softmax n, 0x24),
      (Instr.optim n, 0x25), (Instr.argmax n, 0x26), (Instr.wino n, 0x27)] →
    (s.stream n.val).run = some p → p.phase = .issued → p.bundle = some b → p.resident = true →
    p.ops.find? (fun o => !o.finished && (!o.started && o.opc == x.2)) = some o →
    ∃ t, exec x.1 s = .next t ∧ s.only t [.streams] ∧ (t.stream n.val).run = some (p.setOp { o with
      started := true
      step := 0
      nsteps := tileCount p b o
      staged := [] })) ∧
  (∀ (n : Fin 22) (core : Fin 8) (s : State) (p : Prog) (o : OpRun) (b : Bundle), (s.stream n.val).run = some p → p.phase = .issued →
    p.ops.find? (fun o => !o.finished && (o.started && decide (0x20 ≤ o.opc) && decide (o.opc ≤ 0x27))) = some o →
    p.bundle = some b → p.resident = true →
    (let res := (p.cores n.val).zipIdx.map (fun k => (k.1, k.2, s.tileResults p b o k.1 k.2 o.step))
     let flat := res.flatMap (fun x => x.2.2.1.map (fun y => (x.1, x.2.1, y.1, y.2)))
     dmeStaged p b o p.iter = false → s.dmeUnmapped p flat = none →
     ∃ t u q, exec (.dmeOutputTile n core 0) s = .next t ∧ s.only u [.regs, .free] ∧ u.free = s.free + 4096 ∧
       s.regsOnly u ((p.cores n.val).flatMap (fun k => [R.DME_CSSKIP.at k, R.DME_OPTNF.at k, R.DME_TILES.at k])) ∧
       t.mem = (u.dmeStoreAll p flat).2.mem ∧ (t.stream n.val).run = some q ∧
       (o.step + 1 ≠ o.nsteps → q = p.setOp { o with
         step := o.step + 1
         staged := [] }) ∧
       (o.step + 1 = o.nsteps → q.resident = false ∧ q.ops.any (fun x => x.slot == o.slot && x.finished) = true)) ∧
    (dmeStaged p b o p.iter = true → o.step + 1 ≠ o.nsteps →
     ∃ t q, exec (.dmeOutputTile n core 0) s = .next t ∧ t.mem = s.mem ∧ (t.stream n.val).run = some q ∧
       q.ops.any (fun x => x.slot == o.slot && x.step == o.step + 1) = true)) ∧
  (∀ (r : Req) (k : Fin 8) (v : Word) (s : State), s.ctxEnabled (s.ctxOf r) = true → s.coreEnabled k.val = true →
    s.ctxOf r = 0 ∨ s.ctxOf r = 7 → s.flag F.DME_STAT_RETIRED k.val = false →
    ∃ t, exec (.dmeCoreRetire r k v) s = .next t ∧ t.flag F.DME_STAT_RETIRED k.val = true ∧ (t.stream (4 + k.val)).run = none ∧
      (t.stream (4 + k.val)).queue = [] ∧ (t.stream (4 + k.val)).held = [] ∧ t.lines k.val = [] ∧
      ((s.stream (4 + k.val)).run ≠ none → t.fget F.ENG_S_HALT_REASON (4 + k.val) = 0x12)) ∧
  (∀ (r : Req) (k : Fin 8) (v : Word) (s : State), s.ctxEnabled (s.ctxOf r) = true → s.coreEnabled k.val = true →
    s.ctxOf r = 0 ∨ s.ctxOf r = 7 → s.flag F.DME_STAT_RETIRED k.val = false →
    ∃ t, exec (.dmeCoreRetirePerm r k v) s = .next t ∧ t.flag F.DME_STAT_RETIRED k.val = true ∧
      t.flag F.DME_STAT_PERMANENT k.val = true ∧ (t.stream (4 + k.val)).run = none ∧ t.lines k.val = []) ∧
  (∀ (r : Req) (k : Fin 8) (v : Word) (s : State), s.ctxEnabled (s.ctxOf r) = true → s.coreEnabled k.val = true →
    s.ctxOf r = 0 ∨ s.ctxOf r = 7 →
    ∃ t, exec (.vstepChange r k v) s = .next t ∧ t.fget F.DME_CTL_VSTEP k.val = getField v 8 2 ∧
      t.fget F.DME_CTL_DUTY k.val = getField v 0 4 ∧ t.fget F.DME_CTL_CSRETRY k.val = getField v 12 2 ∧
      (getField v 8 2 ≠ s.fget F.DME_CTL_VSTEP k.val → t.flag F.DME_STAT_VSETTLE k.val = true) ∧ s.only t [.regs] ∧
      s.regsOnly t [R.DME_CTL.at k.val, R.DME_STAT.at k.val]) ∧
  (∀ (k : Fin 8) (s : State), ∃ t, exec (.vstepSettled k) s = .next t ∧ t.flag F.DME_STAT_VSETTLE k.val = false ∧ s.only t [.regs] ∧
      s.regsOnly t [R.DME_STAT.at k.val])

/-- Signal-engine operations begin with their step count, hold or write their results, and the order-table builder writes a table.
Derived from: 11_signal_engine: R333, R334, R337, R343, R347; 15_functional_safety: R440. -/
def Obligations.SignalOperationsRunInSteps : Prop :=
  (∀ (n : Fin 22) (x : Instr × Nat) (s : State) (p : Prog) (o : OpRun) (b : Bundle),
    x ∈ [(Instr.window n, 0x41), (Instr.band n, 0x46), (Instr.marker n, 0x47), (Instr.layer n, 0x48), (Instr.sigArgmax n, 0x49),
      (Instr.sheet n, 0x4A), (Instr.stats n, 0x4B)] →
    (s.stream n.val).run = some p → p.phase = .issued → p.bundle = some b →
    p.ops.find? (fun o => !o.finished && (!o.started && o.opc == x.2)) = some o →
    ∃ t, exec x.1 s = .next t ∧ s.only t [.streams] ∧ (t.stream n.val).run = some (p.setOp { o with
      started := true
      step := 0
      nsteps := max 1 (sigSteps p o) })) ∧
  (∀ (n : Fin 22) (x : Instr × Nat) (s w : State) (p : Prog) (o : OpRun) (b : Bundle) (res : List (Nat × List Nat)),
    x ∈ [(Instr.fft n, 0x40), (Instr.resamp n, 0x42), (Instr.env n, 0x43), (Instr.ceps n, 0x44), (Instr.skurt n, 0x45)] →
    (s.stream n.val).run = some p → p.phase = .issued → p.bundle = some b →
    p.ops.find? (fun o => !o.finished && (!o.started && o.opc == x.2)) = some o →
    (let o1 : OpRun := { o with
       started := true
       step := 0
       nsteps := max 1 (sigSteps p o) }
     (s.takeBank n.val).2.sigCompute n.val p b o1 = (some res, w) →
     ∃ t, exec x.1 s = .next t ∧ w.only t [.streams] ∧ (t.stream n.val).run = some (p.setOp { o1 with
       note := [(s.takeBank n.val).1]
       staged := res.flatMap (fun x => x.2.zipIdx.map (fun v => (x.1, v.2, leBytes 4 v.1))) }))) ∧
  (∀ (n : Fin 22) (s : State) (p : Prog) (o : OpRun), (s.stream n.val).run = some p → p.phase = .issued →
    p.ops.find? (fun o => !o.finished && (o.started && decide (0x40 ≤ o.opc) && decide (o.opc ≤ 0x4B))) = some o →
    (∃ t, exec (.sigPass n true) s = .next t ∧ (t.stream n.val).run = none ∧ t.fget F.ENG_S_HALT_REASON n.val = 0x0C) ∧
    (sigStaged o.opc = true → o.step + 1 ≠ o.nsteps →
      ∃ t, exec (.sigPass n false) s = .next t ∧ s.only t [.streams] ∧
        (t.stream n.val).run = some (p.setOp { o with step := o.step + 1 })) ∧
    (∀ u, sigStaged o.opc = true → o.step + 1 = o.nsteps → s.sigWrite n.val p o (sigHeld o) = (none, u) →
      ∃ t, exec (.sigPass n false) s = .next t ∧ u.only t [.streams] ∧ (t.stream n.val).run = some ((p.setOp { o with
        step := o.step + 1
        staged := []
        note := []
        finished := true }).advance)) ∧
    (∀ b res u w, sigStaged o.opc = false → p.bundle = some b → s.sigCompute n.val p b o = (some res, u) →
      u.sigWrite n.val p o (sigBlock p o.step res) = (none, w) →
      ∃ t, exec (.sigPass n false) s = .next t ∧ w.only t [.streams] ∧ (t.stream n.val).run = some (if o.step + 1 = o.nsteps
        then (p.setOp { o with
          step := o.step + 1
          finished := true }).advance
        else p.setOp { o with step := o.step + 1 }))) ∧
  (∀ (s : State) (n f a : Nat), n < 16 →
    s.acq.builds.find? (fun b => !(s.acqStream b.1).flight.any (fun l => l.buf == some (s.back b.1))) = some (n, f, a) →
    ∃ t, exec .orderTableBuild s = .next t ∧ t.flag F.SIG_ST_STAT_READY n = true ∧ t.flag F.SIG_ST_STAT_PENDING n = false ∧
      t.fget F.SIG_STAT_BLDSTREAM = n ∧ t.acq.builds = s.acq.builds.filter (fun y => y.1 != n) ∧
      t.load (s.tableAddr n (s.back n)) (4 * 2 ^ s.fget F.SIG_ST_ORD_NOUTL n) =
        (tableFrom f a (s.fget F.SIG_ST_ORD_PPRL n) (2 ^ s.fget F.SIG_ST_ORD_NOUTL n) 0).flatMap (leBytes 4) ∧
      s.bytesOnly t (s.tableAddr n (s.back n)) (4 * 2 ^ s.fget F.SIG_ST_ORD_NOUTL n) ∧ s.only t [.regs, .mem, .acq])

/-- Samples, edges, bias and supply readings reach the open windows; streams start, stop, close frames and complete windows. Derived
from: 10_acquisition: R295, R296, R301, R302, R304, R305, R307, R308; 10_acquisition: R310, R311, R313, R314, R316. -/
def Obligations.SamplesReachTheirWindows : Prop :=
  (∀ (c : Fin 96) (t : DWord) (code : Word) (fault : Bool) (s : State), c.val < 18 ∨ 94 ≤ c.val → chanOn c.val (s.cfgAt c.val t.toNat) = true →
    t.toNat % chanPeriod c.val (s.cfgAt c.val t.toNat) = 0 → s.frontEnds = true →
    ∃ u x, exec (.sampleAvailable c t code fault) s = .next u ∧ x.t = t.toNat ∧ (s.acqDown = false → x.v = code.toNat) ∧
      (∀ n, (u.acqStream n).wins = (s.acqStream n).wins.map (fun w => w.add c.val x)) ∧ s.only u [.acq]) ∧
  (∀ (k : Fin 4) (t : DWord) (s : State), chanOn (18 + k.val) (s.cfgAt (18 + k.val) t.toNat) = true → s.acqDown = false →
    s.frontEnds = true → (s.chan (18 + k.val)).lastEdge = 0 ∨ (s.chan (18 + k.val)).lastEdge - 1 + 2000 ≤ t.toNat →
    ∃ u, exec (.speedEdge k t) s = .next u ∧ u.rget R.ACQ_SP_EDGES k.val = (s.rget R.ACQ_SP_EDGES k.val + 1) % 2 ^ 32 ∧
      (u.chan (18 + k.val)).lastEdge = t.toNat + 1 ∧
      (∀ n, (u.acqStream n).wins = (s.acqStream n).wins.map (fun w => w.add (18 + k.val) ⟨t.toNat, 0, 0⟩)) ∧
      s.only u [.regs, .acq, .ledger] ∧ s.regsOnly u [R.ACQ_SP_EDGES.at k.val]) ∧
  (∀ (k : Fin 8) (t : DWord) (v ohm : Word) (s : State), chanOn (22 + k.val) (s.cfgAt (22 + k.val) t.toNat) = true →
    t.toNat % 1000000 = 0 → s.frontEnds = true →
    ∃ u x, exec (.slowSample k t v ohm) s = .next u ∧ x.t = t.toNat ∧ (s.acqDown = false → x.v = v.toNat) ∧
      u.flag F.ACQ_SL_STAT_OPEN k.val = (bits (s.cfgAt (22 + k.val) t.toNat) 0 2 == 1 && decide (400000 < ohm.toNat)) ∧
      u.flag F.ACQ_SL_STAT_SHORT k.val = (bits (s.cfgAt (22 + k.val) t.toNat) 0 2 == 1 && decide (ohm.toNat < 15000)) ∧
      (∀ n, (u.acqStream n).wins = (s.acqStream n).wins.map (fun w => w.add (22 + k.val) x)) ∧ s.only u [.regs, .acq, .ledger]) ∧
  (∀ (p : Fin 4) (t : DWord) (words : List Word) (s : State),
    (let v := s.cfgAt (30 + 16 * p.val) t.toNat
     bits v 0 2 = 1 ∨ bits v 0 2 = 2 → t.toNat % (20480 * 2 ^ bits v 4 2) = 0 → s.frontEnds = true →
     ∃ u, exec (.digitalPortSample p t words) s = .next u ∧ s.only u [.regs, .acq, .ledger, .tx] ∧
       s.regsOnly u [R.ACQ_DP_STAT.at p.val] ∧
       (∀ j, j < 16 → bit (u.fget F.ACQ_DP_STAT_VALUE p.val) j = (bit (bits v 16 16) j &&
         ((words.getD j 0xFFFFFFFF).toNat &&& s.rget R.ACQ_SLOT_VMASK (16 * p.val + j)) != s.rget R.ACQ_SLOT_VVAL (16 * p.val + j))) ∧
       u.tx.length = s.tx.length + (if bits v 0 2 = 2 then popCount 16 (bits v 16 16) else 0))) ∧
  (∀ (i : Fin 16) (mv : Half) (s : State), s.fget F.ACQ_VCH_CFG_MODE i.val = 1 → s.frontEnds = true →
    s.fget F.ACQ_BIASTH_HI < mv.toNat → s.fget F.ACQ_BIASTH_LO ≤ mv.toNat →
    ∃ u, exec (.biasMeasure i mv) s = .next u ∧ u.fget F.ACQ_VCH_STAT_VALUE i.val = mv.toNat ∧
      (u.chan i.val).above = min 10 ((s.chan i.val).above + 1) ∧
      (9 ≤ (s.chan i.val).above → u.flag F.ACQ_VCH_STAT_OPEN i.val = true)) ∧
  (∀ (i : Fin 16) (s : State), s.flag F.ACQ_VCH_STAT_SETTLING i.val = true → (s.chan i.val).okFrom ≠ 0 →
    (s.chan i.val).okFrom - 1 + s.fget F.ACQ_BSETTLE_MS * 1000000 ≤ s.now →
    ∃ u, exec (.iepeSettleEnd i) s = .next u ∧ u.flag F.ACQ_VCH_STAT_SETTLING i.val = false ∧ s.only u [.regs, .acq] ∧
      s.regsOnly u [R.ACQ_VCH_STAT.at i.val]) ∧
  (∀ (mv : Half) (s : State), ∃ u, exec (.supplySample mv) s = .next u ∧ u.fget F.ACQ_SUPPLY_MV = mv.toNat ∧
    u.flag F.ACQ_STAT_SUPLOW = decide (mv.toNat < s.fget F.ACQ_SUPTH_MV) ∧ s.only u [.regs, .acq] ∧
    s.regsOnly u [R.ACQ_SUPPLY.at, R.ACQ_STAT.at]) ∧
  (∀ (r : Req) (n : Fin 16) (v : Word) (s : State), s.homeReq r → s.acq.live = true → s.acqRuns n.val = false →
    (s.acqStream n.val).hasDef = true → ((List.range 16).any (fun m => m != n.val && s.acqRuns m &&
      s.fget F.ACQ_ST_REGION_CR m == s.fget F.ACQ_ST_REGION_CR n.val)) = false →
    ∃ u w, exec (.streamStart r n v) s = .next u ∧ u.acqRuns n.val = true ∧ u.flag F.ACQ_ST_STAT_REFUSED n.val = false ∧
      u.flag F.ACQ_ST_CTL_EN n.val = true ∧ (u.acqStream n.val).wins = (s.acqStream n.val).wins ++ [w] ∧ w.opn = s.now ∧
      w.first = true ∧ w.close = none ∧ s.only u [.regs, .memsys, .acq]) ∧
  (∀ (r : Req) (n : Fin 16) (v : Word) (s : State), s.homeReq r → s.acq.live = true → s.acqRuns n.val = true →
    ∃ u, exec (.streamStopRequest r n v) s = .next u ∧ u.flag F.ACQ_ST_STAT_STOPPING n.val = true ∧ u.acqRuns n.val = true ∧
      u.flag F.ACQ_ST_CTL_EN n.val = false ∧ s.only u [.regs] ∧ s.regsOnly u [R.ACQ_ST_CTL.at n.val, R.ACQ_ST_STAT.at n.val]) ∧
  (∀ (n : Fin 16) (s : State) (w : Window),
    (let x := s.acqStream n.val
     let tc := w.opn + s.fget F.ACQ_ST_PERIOD_CYCLES n.val
     x.wins.getLast? = some w → s.acqRuns n.val = true → w.close = none → w.start ≠ none → tc ≤ s.now →
     s.flag F.ACQ_ST_STAT_STOPPING n.val = false →
     ∃ u wc wo, exec (.frameClose n) s = .next u ∧ (u.acqStream n.val).next = (x.next + 1) % 2 ^ 32 ∧
       (u.acqStream n.val).wins = x.wins.dropLast ++ [wc, wo] ∧ wc.close = some tc ∧ wc.frame = x.next ∧ wc.opn = w.opn ∧
       wc.skip = decide (framesInFlight (s.fget F.ACQ_ST_PERIOD_CYCLES n.val) ≤ x.flight.length) ∧ wo.opn = tc ∧ wo.close = none ∧
       wo.first = false)) ∧
  (∀ (n : Fin 16) (s : State) (w : Window) (rest : List Window) (close start : Nat), (s.acqStream n.val).wins = w :: rest →
    w.close = some close → w.start = some start →
    ∃ u, exec (.windowArrivalComplete n) s = .next u ∧ (u.acqStream n.val).wins = rest ∧ u.rget R.ACQ_ST_FRAME n.val = w.frame % 2 ^ 32 ∧
      u.mem = (s.storeRegion w.region start (s.windowBytes n.val { w with linkDown := w.linkDown || s.acqDown } close)).mem ∧
      s.only u [.regs, .mem, .memsys, .acq])

/-- Storage ring entries become active, chunks are delivered, words and sectors change as told, the window reads. Derived from:
13_storage_array: R374, R375, R376, R377, R380, R381, R383; 13_storage_array: R384, R386, R388, R390, R393, Tables 13-2, 13-4,
13-9. -/
def Obligations.StorageEntriesAndWindowReads : Prop :=
  (∀ (x : Instr × Nat) (s : State), x ∈ [(Instr.stoRead, 1), (.stoProgram, 2), (.stoErase, 3), (.stoRelocate, 4), (.stoCounts, 5)] →
    s.flag F.STO_RINGCFG_EN = true → s.fget F.STO_TAIL_INDEX ≠ s.fget F.STO_HEAD_INDEX → s.fget F.PWR_STAT_STATE = 0 →
    (let i := s.fget F.STO_TAIL_INDEX
     let b := s.load (s.stoSlot i) 64
     leAt b 0 1 = x.2 → s.fget F.STO_TAIL_INDEX ≤ s.fget F.STO_RINGCFG_SIZEM1 →
     (stoRefusal b = none → ∃ u e, exec x.1 s = .next u.stoKick ∧ u.sto = { s.sto with active := s.sto.active ++ [e] } ∧
       e.idx = i ∧ e.op = x.2 ∧ e.flags = leAt b 2 1 ∧ e.count = leAt b 4 4 ∧ e.saddr = leAt b 8 8 ∧ e.maddr = leAt b 16 8 ∧
       e.doneCnt = 0 ∧ e.started = false ∧ u.mem.byte (s.stoSlot i + 1) = 1 ∧ s.bytesOnly u (s.stoSlot i + 1) 1 ∧
       u.fget F.STO_TAIL_INDEX = (i + 1) % (s.fget F.STO_RINGCFG_SIZEM1 + 1) ∧ s.only u [.regs, .mem, .sto]) ∧
     (∀ st, stoRefusal b = some st → ∃ t, exec x.1 s = .next t ∧ t.mem.byte (s.stoSlot i + 1) = BitVec.ofNat 8 st ∧
       t.sto.cells = s.sto.cells ∧ t.sto.sectors = s.sto.sectors ∧ s.bytesOnly t (s.stoSlot i) 64))) ∧
  (∀ (s : State) (e : StoEntry) (fuel : Nat), e.op = 3 → e.doneCnt < e.count → s.bankStopped e.bank = false → e.bank < 32 →
    (s.sto.sector e.sectorNow).state ≠ 2 → (s.sto.sector e.sectorNow).state ≠ 3 → (s.sto.sector e.sectorNow).count < s.wearLimit →
    ((s.stoStep e (fuel + 1)).sto.sector e.sectorNow).count = (s.sto.sector e.sectorNow).count + 1 ∧
    (s.stoStep e (fuel + 1)).sto.cells = s.sto.cells ∧ bit ((s.stoStep e (fuel + 1)).rget R.STO_BUSY) e.bank = true) ∧
  (∀ (k : Fin 32) (s u : State) (e : StoEntry) (m : PageMap), s.sto.current k.val = some e → e.op = 1 → e.doneCnt + 4096 < e.count →
    (∀ i, i < 512 → s.sto.err ((e.saddr + e.doneCnt) / 8 + i) < 3 ∧ (s.sto.sector ((e.saddr + e.doneCnt + 8 * i) / 4096)).state ≠ 3) →
    s.translatePages 0x20 (s.fget F.STO_RINGCFG_CTX) ((pagesOf (e.maddr + e.doneCnt) 4096).map (fun v => (v, Acc3.write))) [] =
      (.ok m, u) →
    ∃ t, exec (.storageReadChunk k []) s = .next t ∧ t.sto.cells = s.sto.cells ∧
      (∃ e', e' ∈ t.sto.active ∧ e'.idx = e.idx ∧ e'.doneCnt = e.doneCnt + 4096) ∧
      t.mem = ((u.violatePages 0x20 (s.fget F.STO_RINGCFG_CTX) m).writeBytes ((s.sto.read (e.saddr + e.doneCnt) 4096).zipIdx.filterMap
        (fun x => (m.phys .write (e.maddr + e.doneCnt + x.2)).map (fun a => (a, x.1))))).mem) ∧
  (∀ (k : Fin 32) (s v : State) (e : StoEntry) (m : PageMap), s.sto.current k.val = some e → e.op = 2 → e.started = true →
    (s.setBusy k.val false).translatePages 0x20 (s.fget F.STO_RINGCFG_CTX) [((e.maddr + 8 * e.doneCnt) / 4096, .read)] [] = (.ok m, v) →
    (let w := e.saddr / 8 + e.doneCnt
     ∃ u e', exec (.storageWordDone k true) s = .next ((u.stoStep e' (e.count + 1)).stoKick) ∧ e'.doneCnt = e.doneCnt + 1 ∧
       e'.started = false ∧ e'.idx = e.idx ∧ s.only u [.regs, .mmu, .sto] ∧ u.sto.err w = 0 ∧
       u.sto.read (8 * w) 8 = (List.range 8).map (fun i => match m.phys .read (e.maddr + 8 * e.doneCnt + i) with
         | some a => v.physByte a
         | none => 0) ∧
       ∀ o, ¬(8 * w ≤ o ∧ o < 8 * w + 8) → u.sto.byte o = s.sto.byte o)) ∧
  (∀ (k : Fin 32) (s : State) (e : StoEntry), s.sto.current k.val = some e → e.op = 3 → e.started = true →
    ∃ u e', exec (.sectorEraseDone k true) s = .next ((u.stoStep e' (e.count + 1)).stoKick) ∧ e'.doneCnt = e.doneCnt + 1 ∧
      e'.started = false ∧ e'.idx = e.idx ∧ s.only u [.regs, .sto] ∧
      ∀ o, u.sto.byte o = if o / 4096 = e.sectorNow then 0xFF else s.sto.byte o) ∧
  (∀ (r : Req) (a : Addr) (wide : Bool) (worst : Fin 4) (s : State) (k : Nat), s.loc a.toNat = .store k → worst.val < 3 →
    (let w := if wide then 256 else 8
     let o := (a.toNat - 0x1000000000) / w * w
     (wide && usesWbm r && s.fget F.MEM_WBMCACHE_SIZE != 0) = false →
     s.windowCheck false ((List.range (w / 8)).map (fun i => o + 8 * i)) = .ok →
     ∃ t, exec (.storageWindowRead r a wide worst) s = .next t ∧ t.resp = ⟨false, s.sto.read o w⟩ ∧ t.sto.cells = s.sto.cells ∧
       s.only t [.regs, .chn, .sto, .events, .resp])) ∧
  (∀ (k : Fin 32) (s : State) (d : Nat × Nat), s.sto.dirtySpares.find? (fun x => x.1 == k.val) = some d → s.bankBusy k.val = false →
    s.sto.active.any (fun e => e.bank == k.val) = false →
    ∃ t, exec (.spareErase k true) s = .next t ∧ t.bankBusy k.val = true ∧ t.flag F.STO_STAT_CLEANUP = true ∧ s.only t [.regs]) ∧
  (∀ (k : Fin 32) (s : State) (d : Nat × Nat), s.sto.dirtySpares.find? (fun x => x.1 == k.val) = some d → s.bankBusy k.val = true →
    s.flag F.STO_STAT_CLEANUP = true → s.sto.active = [] →
    ∃ t, exec (.spareErase k false) s = .next t ∧ t.flag F.STO_STAT_CLEANUP = false ∧
      t.sto = { s.sto with dirtySpares := s.sto.dirtySpares.erase d } ∧ s.only t [.regs, .sto]) ∧
  (∀ (r : Req) (v : Word) (s : State), s.homeReq r →
    ∃ t, exec (.stoCounterClear r v) s = .next t ∧ t.rget R.STO_CORRBITS = 0 ∧ t.rget R.STO_UNCORR = 0 ∧ t.rget R.STO_BLANK = 0 ∧
      t.rget R.STO_BUSYERR = 0 ∧ t.rget R.STO_RELOC = 0 ∧ t.fget F.STO_CTL_WARN = getField v 16 2 ∧ s.only t [.regs] ∧
      s.regsOnly t [R.STO_CTL.at, R.STO_CORRBITS.at, R.STO_UNCORR.at, R.STO_BLANK.at, R.STO_BUSYERR.at, R.STO_RELOC.at])

/-- Each ledger tick is evaluated once; records are programmed and committed in order; LDG's commands and the event log act. Derived
from: 14_usage_ledger: R398, R399, R401, R404, R405, R406; 14_usage_ledger: R408, R410, R416, Tables 14-9 to 14-20. -/
def Obligations.LedgerTicksRecordsAndSnapshots : Prop :=
  (∀ s : State, s.ledgerOn = false ∨ s.tickNow ≤ s.ledger.lastTick → exec .ledgerTick s = .next s) ∧
  (∀ s : State, s.ledgerOn = true → s.ledger.lastTick < s.tickNow →
    ∃ t, exec .ledgerTick s = .next t ∧ t.ledger.lastTick = s.tickNow ∧ t.ledger.steps = [] ∧ t.ledger.ovrSet = false ∧
      t.ledger.tariffs.map (·.ms) = s.ledger.tariffs.mapIdx (fun i x => if i = s.ldgTariff then x.ms + 1 else x.ms) ∧
      t.ledger.classMs = s.ledger.classMs.mapIdx (fun i x => if i = t.fget F.LDG_STAT_CLASS then x + 1 else x) ∧
      (s.ledger.tsrc < 22 ∨ 93 < s.ledger.tsrc ∨ s.ledger.src = none ∨ (∃ x, s.ledger.src = some x ∧ x.2 &&& 0xC6 ≠ 0) →
        t.ledger.epos = s.ledger.epos ∧ t.ledger.eneg = s.ledger.eneg ∧ t.ledger.rf = s.ledger.rf ∧ t.ledger.dmg = s.ledger.dmg ∧
        t.ledger.residue = s.ledger.residue) ∧
      (s.ledger.steps = [] → t.ledger.opened = if s.ledger.tb ≤ s.tickNow then s.tickNow else s.ledger.opened) ∧
      s.only t [.regs, .chn, .ledger, .events, .free]) ∧
  (∀ (s : State) (r : LedgerRec) (rest : List LedgerRec) (k : Nat), s.ledger.recs = r :: rest → r.slot = some k → 8 ≤ r.words →
    ∃ t, exec .ledgerRecordCommit s = .next t ∧ t.ledger = { s.ledger with recs := rest } ∧ t.rget R.LDG_LSEQ = leAt r.bytes 16 4 ∧
      (s.flag F.LDG_CTL_RINGEN = false → t.mem = s.mem ∧ t.rings = s.rings) ∧ s.only t [.regs, .mem, .rings, .ledger]) ∧
  (∀ (s : State) (r : LedgerRec) (k : Nat), s.portOpen false = true → s.ledger.recs.find? (fun r => r.slot.isSome && r.words < 8) = some r →
    r.slot = some k → s.sectorUsable (k / 64) = true →
    (let w := if r.words < 7 then r.words + 1 else 0
     let o := 0xD0000000 + 64 * k + 8 * w
     s.sto.blank (o / 8) = true →
     ∃ t, exec (.ledgerPortWrite 0 true) s = .next t ∧ t.sto = s.sto.progWord (o / 8) ((r.bytes.drop (8 * w)).take 8) ∧
       t.ledger = { s.ledger with recs := s.ledger.recs.map (fun q => if q.slot = r.slot then { q with words := q.words + 1 } else q) } ∧
       s.only t [.regs, .sto, .chn, .ledger, .events])) ∧
  (∀ (s : State) (j : Nat × Nat × Nat), s.portOpen true = true → s.ledger.jobs.find? (fun j => decide (j.2.1 < 0xD8000000)) = some j →
    (let x := s.sto.sector (secOf j.2.1)
     x.state ≠ 2 → x.state ≠ 3 → x.count < s.wearLimit →
     ∃ t, exec (.ledgerPortWrite 1 true) s = .next t ∧ t.ledger = { s.ledger with jobs := s.ledger.jobs.erase j } ∧
       t.sto = (s.sto.eraseSector (secOf j.2.1)).setSector (secOf j.2.1) { x with count := x.count + 1 } ∧
       s.only t [.regs, .sto, .chn, .ledger, .events])) ∧
  (∀ s : State, s.ledgerOn = true → s.ledger.snapNow = true ∨ s.ledger.snapDue ≤ s.tickNow →
    ∃ t l, exec .snapshotDue s = .next t ∧ t.ledger.snapNow = false ∧ s.tickNow < t.ledger.snapDue ∧ l.length = 61 ∧
      t.ledger.recs = s.ledger.recs ++ l ∧
      (∀ i r, l[i]? = some r → leAt r.bytes 0 1 = 0x57 ∧ leAt r.bytes 22 1 = i ∧ leAt r.bytes 23 1 = 61 ∧
        (r.bytes.drop 24).take 24 = padTo 24 ((s.ledger.snapshot.drop (24 * i)).take 24)) ∧
      s.only t [.regs, .chn, .ledger, .events]) ∧
  (∀ (r : Req) (v : Word) (s : State), s.homeReq r → bit v.toNat 2 = false →
    ∃ t, exec (.ldgSnapnow r v) s = .next t ∧ t.ledger = { s.ledger with snapNow := true } ∧ t.flag F.LDG_CTL_RINGEN = bit v.toNat 0 ∧
      s.only t [.regs, .ledger] ∧ s.regsOnly t [R.LDG_CTL.at]) ∧
  (∀ (r : Req) (v : Word) (s : State), s.reqOn r = true → s.ctxEnabled (s.ctxOf r) = true → s.ctxOf r = 0 ∨ s.agentHolds r 0 = true →
    ∃ t, exec (.maxDemandClear r v) s = .next t ∧ t.ledger.tariffs = s.ledger.tariffs.map (fun x => { x with maxDem := 0 }) ∧
      (s.ledgerOn = false → t.ledger.clearMd = true ∧ t.ledger.recs = s.ledger.recs) ∧
      (s.ledgerOn = true → t.ledger.clearMd = false ∧ ∃ e, t.ledger.recs.getLast? = some e ∧ leAt e.bytes 0 1 = 0x56 ∧
        leAt e.bytes 24 1 = 5) ∧
      s.only t [.regs, .chn, .ledger, .events]) ∧
  (∀ (r : Req) (v : Word) (s : State), s.reqOn r = true → s.ctxEnabled (s.ctxOf r) = true → s.ctxOf r = 0 ∨ s.agentHolds r 0 = true →
    ∃ t, exec (.tariffOverrideWrite r v) s = .next t ∧ t.flag F.LDG_TOVR_EN = bit v.toNat 31 ∧
      t.fget F.LDG_TOVR_TARIFF = getField v 0 3 ∧ t.flag F.LDG_STAT_OVR = bit v.toNat 31 ∧
      t.ledger = { s.ledger with ovrSet := true, underPass := s.agentHolds r 0 && bit v.toNat 31 } ∧
      s.only t [.regs, .ledger] ∧ s.regsOnly t [R.LDG_TOVR.at, R.LDG_STAT.at]) ∧
  (∀ (r : Req) (v : Word) (s : State), s.homeReq r → bit v.toNat 0 = true → s.flag F.LDG_STAT_KEYSET = false →
    ∃ t, exec (.ledgerKeyProgram r v) s = .next t ∧
      t.ledger.key = (List.range 8).flatMap (fun i => leBytes 4 (s.rget R.LDG_KEY i)) ∧ t.flag F.LDG_STAT_KEYSET = true ∧
      (∀ i, i < 8 → t.rget R.LDG_KEY i = 0) ∧ t.ledger.keySet = !s.ledgerOn ∧ s.only t [.regs, .chn, .ledger, .events]) ∧
  (∀ (r : Req) (v : Word) (s : State), s.homeReq r → s.flag F.LDG_STAT_KEYSET = true → exec (.ledgerKeyProgram r v) s = .next s) ∧
  (∀ (s : State) (c : Card), s.events.draining = none → s.portOpen false = true → s.events.next = some c →
    ∃ t, exec .eventRingDrain s = .next t ∧ t.events = { s.events with draining := some c } ∧
      t.ledger.evSlot = (s.ledger.evSlot + 1) % 2097152 ∧
      (∃ l, t.ledger.jobs = s.ledger.jobs ++ l ++ [1, 2, 3, 4, 5, 6, 7, 0].map (fun w =>
        (1, 0xD8000000 + 64 * s.ledger.evSlot + 8 * w, leAt c.bytes (8 * w) 8)) ∧ l.length = if s.ledger.evSlot % 64 = 0 then 1 else 0) ∧
      s.only t [.regs, .mem, .rings, .ledger, .events])

/-- Proctor's functions trip, warn and clear as measured; a trip switches its outputs off; resets clear what no longer stands.
Derived from: 15_functional_safety: R422, R423, R424, R425, R426, R427. -/
def Obligations.SafetyFunctionsTripWarnAndReset : Prop :=
  (∀ (s : State) (c : Instr) (f : SafeFn) (v : Word) (clear : Nat) (cond : Bool),
    (∃ (e : Fin 16) (bias : Half) (limit : Bool), c = .vibrationSeverityEval e v bias limit ∧
      s.safe.fns.find? (fun f => f.kind == 1 && f.entry == e.val) = some f ∧ clear = fmul 0x3F733333 f.warnAt ∧
      cond = (let mode := s.fget F.ACQ_VCH_CFG_MODE (leAt f.bytes 0 1)
              mode == 0 || (mode == 1 && (decide (bias.toNat < 1000) || decide (22000 < bias.toNat))) || (decide (2 ≤ mode) && limit))) ∨
    (∃ (e : Fin 8) (ohm : Word), c = .temperatureEval e v ohm ∧ s.safe.fns.find? (fun f => f.kind == 3 && f.entry == e.val) = some f ∧
      clear = fsub f.warnAt 0x40000000 ∧ cond = (s.fget F.ACQ_SL_CFG_MODE (leAt f.bytes 0 1) != 2 || decide (400000 < ohm.toNat) ||
        decide (ohm.toNat < 15000))) → s.fnsRun = true →
    ∃ t, exec c s = .next t ∧ (flt f.tripAt v.toNat = true → bit (t.rget R.SAFE_TRIP) f.bit = true) ∧
      (flt f.tripAt v.toNat = true → bit (s.rget R.SAFE_TRIP) f.bit = false → ∀ n, n < 4 → bit f.omask n = true → t.outCmd n = false) ∧
      (flt f.tripAt v.toNat = false → s.safe.sensTrip = false → t.rget R.SAFE_TRIP = s.rget R.SAFE_TRIP) ∧
      (flt f.warnAt v.toNat = true → bit (t.rget R.SAFE_WARN) f.bit = true) ∧
      (flt f.warnAt v.toNat = false → bit (t.rget R.SAFE_WARN) f.bit = (bit (s.rget R.SAFE_WARN) f.bit && !flt v.toNat clear)) ∧
      (cond = true → f.badTb ≠ 0 → f.badTb - 1 + 10000000 ≤ s.now → bit (t.rget R.SAFE_SENSF) f.bit = true) ∧
      (∀ b, b ≠ f.bit → bit (t.rget R.SAFE_TRIP) b = bit (s.rget R.SAFE_TRIP) b ∧ bit (t.rget R.SAFE_WARN) b = bit (s.rget R.SAFE_WARN) b ∧
        bit (t.rget R.SAFE_SENSF) b = bit (s.rget R.SAFE_SENSF) b) ∧ s.only t [.regs, .chn, .safe, .events, .free]) ∧
  (∀ (k : Fin 4) (tm : DWord) (s u : State), s.fnsRun = true → (let l := Sparse.get (fun _ => []) s.safe.edges k.val
     u = s.setSafe { s.safe with edges := Sparse.put (fun _ => []) s.safe.edges k.val (tm.toNat :: l.take 1024) }) →
    (s.safe.fns.filter (fun f => f.kind == 2 && (leAt f.bytes 0 1 == k.val || leAt f.bytes 1 1 == k.val)) = [] →
      exec (.overspeedEval k tm) s = .next u) ∧
    (∀ f, s.safe.fns.filter (fun f => f.kind == 2 && (leAt f.bytes 0 1 == k.val || leAt f.bytes 1 1 == k.val)) = [f] → f.entry < 4 →
      leAt f.bytes 1 1 = 0xFF → ∃ t, exec (.overspeedEval k tm) s = .next t ∧ t.safe.edges = u.safe.edges ∧
        (let v := (u.safeSpeed k.val (leAt f.bytes 4 2)).getD 0
         (flt f.tripAt v = true → bit (t.rget R.SAFE_TRIP) f.bit = true) ∧
         (flt f.tripAt v = false → t.rget R.SAFE_TRIP = s.rget R.SAFE_TRIP) ∧
         (flt f.warnAt v = true → bit (t.rget R.SAFE_WARN) f.bit = true) ∧
         (flt f.warnAt v = false → flt v (fmul 0x3F7AE148 f.warnAt) = true → bit (t.rget R.SAFE_WARN) f.bit = false)) ∧
        s.only t [.regs, .chn, .safe, .events])) ∧
  (∀ (host : Option (Fin 4)) (s : State),
    (let src := leAt s.safe.params 5 1
     let mine := match host with
       | none => bit src 3
       | some h => bit src 4 && bits src 5 2 == h.val
     (s.fnsRun = false ∨ mine = false → exec (.safetyResetRequest host) s = .next s) ∧
     (s.fnsRun = true → mine = true → (∀ n, n < 4 → bit (s.fget F.SAFE_STAT_OUTFLT) n = true → s.outClean n = true) →
       (∀ f, f ∈ s.safe.fns → bit (s.rget R.SAFE_TRIP) f.bit = true → f.above = false ∧
         (s.safe.sensTrip = false ∨ bit (s.rget R.SAFE_SENSF) f.bit = false)) →
       ∃ t, exec (.safetyResetRequest host) s = .next t ∧ t.rget R.SAFE_TRIP = 0 ∧ t.fget F.SAFE_STAT_OUTFLT = 0 ∧
         t.rget R.SAFE_RESETS = satAdd 32 (s.rget R.SAFE_RESETS) 1 ∧ t.safe.resetWait = false ∧
         s.only t [.regs, .chn, .safe, .events]) ∧
     (s.fnsRun = true → mine = true → ∀ f, f ∈ s.safe.fns → f.bit < 32 → bit (s.rget R.SAFE_TRIP) f.bit = true → f.above = true →
       ∃ t, exec (.safetyResetRequest host) s = .next t ∧ bit (t.rget R.SAFE_TRIP) f.bit = true ∧
         t.rget R.SAFE_RESETS = s.rget R.SAFE_RESETS ∧ t.safe.resetWait = s.safe.resetWait)))

/-- A failed diagnostic enters device safe state with its cause, switches every safe output off and revokes every hall pass. Derived
from: 15_functional_safety: R429, R431, R432, R435, Tables 15-6, 15-22; 19_power_clock_reset: R578. -/
def Obligations.DiagnosticsEnterDeviceSafeState : Prop :=
  (∀ (x : Instr × Nat) (s : State), x ∈ [(Instr.lockstepMismatch, 1), (.sramScrubPass 0 true, 2), (.proctorWatchdogExpire, 3),
      (.clockMonitorCheck false, 4), (.supplyMonitorTrip 0, 5), (.supplyMonitorTrip 4, 5), (.shadowReferenceTest false, 7),
      (.shadowCoeffCrc false, 8), (.comparatorSelfTest false, 9)] → s.diagOn = true → s.safe.linkDead = false →
    ∃ t, exec x.1 s = .next t ∧ t.fget F.SAFE_STAT_STATE = 2 ∧ t.safe.linkDead = (x.2 == 1) ∧
      (s.fget F.SAFE_STAT_STATE ≠ 2 → t.fget F.SAFE_STAT_CAUSE = x.2 ∧ (∀ n, n < 4 → t.outCmd n = false) ∧
        ∀ p, p < 8 → t.passHolder p = none) ∧
      (s.fget F.SAFE_STAT_STATE = 2 → t.fget F.SAFE_STAT_CAUSE =
        if s.safe.enteredTb = s.now + 1 then min x.2 (s.fget F.SAFE_STAT_CAUSE) else s.fget F.SAFE_STAT_CAUSE) ∧
      s.only t [.regs, .chn, .aos, .safe, .ledger, .hosts, .events]) ∧
  (∀ (c : Instr) (s : State), c ∈ [Instr.clockMonitorCheck true, .shadowReferenceTest true, .shadowCoeffCrc true, .comparatorSelfTest true] →
    exec c s = .next s) ∧
  (∀ (n : Half) (s : State), s.diagOn = true → ∃ t, exec (.sramScrubPass n false) s = .next t ∧
    t.rget R.SAFE_SCRUB = satAdd 32 (s.rget R.SAFE_SCRUB) n.toNat ∧ s.only t [.regs] ∧ s.regsOnly t [R.SAFE_SCRUB.at]) ∧
  (∀ (k : Fin 6) (s : State), s.fget F.PWR_STAT_STATE = 6 → k.val = 1 ∨ k.val = 2 ∨ k.val = 3 →
    exec (.supplyMonitorTrip k) s = .next s) ∧
  (∀ s : State, s.diagOn = true → ∃ t, exec (.safetyLinkFrame true false) s = .next t ∧
    t.rget R.SAFE_LINKERR = satAdd 32 (s.rget R.SAFE_LINKERR) 1 ∧ t.safe.badFrames = s.safe.badFrames + 1 ∧
    (s.safe.badFrames ≠ 9 → s.only t [.regs, .safe] ∧ s.regsOnly t [R.SAFE_LINKERR.at]) ∧
    (s.safe.badFrames = 9 → s.safe.linkDead = false → t.fget F.SAFE_STAT_STATE = 2 ∧
      (s.fget F.SAFE_STAT_STATE ≠ 2 → t.fget F.SAFE_STAT_CAUSE = 6))) ∧
  (∀ s : State, s.diagOn = true → s.fnsRun = false → exec (.safetyLinkFrame true true) s = .next (s.setSafe { s.safe with badFrames := 0 })) ∧
  (∀ s : State, s.diagOn = true → exec (.safetyLinkFrame false true) s = .next (s.setSafe { s.safe with fieldOpen := false })) ∧
  (∀ s : State, exec .safetyLinkTimeout s = .next (s.setSafe { s.safe with fieldOpen := true })) ∧
  (∀ (r : Req) (v : Word) (s : State) (c : Nat), s.reqOn r = true → s.ctxOf r = 7 → s.ctxEnabled 7 = true → s.diagOn = true →
    1 ≤ c → c ≤ 11 → c ≠ 10 → getField v 1 11 = 2 ^ (c - 1) →
    ∃ t, exec (.safeInject r v) s = .next t ∧ t.fget F.SAFE_STAT_STATE = 2 ∧ t.flag F.SAFE_STAT_INJECTED = true ∧
      t.fget F.SAFE_INJECT_OUT = getField v 12 2 ∧ (s.fget F.SAFE_STAT_STATE ≠ 2 → t.fget F.SAFE_STAT_CAUSE = c) ∧
      s.only t [.regs, .chn, .aos, .safe, .ledger, .hosts, .events]) ∧
  (∀ (r : Req) (v : Word) (s : State), s.reqOn r = true → s.ctxOf r = 7 → s.ctxEnabled 7 = true → s.diagOn = true → getField v 1 11 = 512 →
    ∃ t, exec (.safeInject r v) s = .next t ∧ t.fget F.SAFE_STAT_STATE = 3 ∧ t.fget F.SAFE_STAT_CAUSE = 0x0A ∧ t.safe.fns = [])

/-- Readback shows each safe output and its second bad reading is a fault; dark tests; verdicts escalate a suspect unit. Derived
from: 16_signal_outputs: R460, R461; 15_functional_safety: R434, R441, R442, R443. -/
def Obligations.SafeOutputsAndSuspectUnits : Prop :=
  (∀ (n : Fin 4) (vh vl ma : Half) (limit hs ls : Bool) (moved : Option (Fin 4)) (s : State), s.diagOn = true →
    ∃ t, exec (.outputReadback n vh vl ma limit hs ls moved) s = .next t ∧ t.fget F.OUT_SOCUR_VH n.val = vh.toNat ∧
      t.fget F.OUT_SOCUR_MA n.val = ma.toNat ∧ bits (t.rget R.OUT_SOSTAT) (8 * n.val) 3 = b2n hs + 2 * b2n ls + 4 * b2n limit ∧
      s.only t [.regs, .chn, .aos, .safe, .ledger, .hosts, .events] ∧
      (s.safe.linkDead = false → s.outCmd n.val = true → 1200 < vl.toNat → Sparse.get (fun _ => 0) (s.so n.val).bad 1 = 1 →
        (s.so n.val).faults.contains 1 = false → bit (t.fget F.SAFE_STAT_OUTFLT) n.val = true ∧ t.outCmd n.val = false ∧
        (t.so n.val).faults.contains 1 = true ∧ (t.so n.val).hsOff = true ∧ (t.so n.val).lsOff = true)) ∧
  (∀ (n : Fin 4) (s : State), s.outCmd n.val = true → s.diagOn = true → s.safe.linkDead = false →
    ∃ t, exec (.darkTestPulse n true true none) s = .next t ∧ bit (t.rget R.OUT_SOSTAT) (8 * n.val + 4) = true ∧
      t.fget F.SAFE_STAT_OUTFLT = s.fget F.SAFE_STAT_OUTFLT ∧ (t.so n.val) = s.so n.val ∧ s.only t [.regs, .safe] ∧
      s.regsOnly t [R.OUT_SOSTAT.at]) ∧
  (∀ (n : Fin 4) (hs ls : Bool) (s : State), s.outCmd n.val = true → s.diagOn = true → s.safe.linkDead = false → (hs && ls) = false →
    (s.so n.val).faults.contains 3 = false →
    ∃ t, exec (.darkTestPulse n hs ls none) s = .next t ∧ bit (t.rget R.OUT_SOSTAT) (8 * n.val + 4) = false ∧
      bit (t.fget F.SAFE_STAT_OUTFLT) n.val = true ∧ t.outCmd n.val = false ∧ (t.so n.val).faults.contains 3 = true ∧
      (hs = false → (t.so n.val).lsOff = true) ∧ (ls = false → (t.so n.val).hsOff = true)) ∧
  (∀ (dme : Bool) (ua ub : Byte) (vd : Fin 4) (og : DWord) (s : State),
    (let k := if dme then 0x100 + ua.toNat % 8 else ua.toNat % 64
     let x := s.suspect k
     let l := og.toNat :: x.origins.filter (fun t => decide (og.toNat < t + s.safe.twin * 3600000000000))
     s.safe.polOff = false → s.fnsRun = true → x.applied = 0 ∨ og.toNat < x.applied - 1 ∨ x.applied - 1 + 100000 ≤ og.toNat →
     (vd.val = 1 ∨ vd.val = 3 → l.length < s.safe.tlim →
       ∃ t, exec (.suspectVerdict dme ua ub vd og) s = .next t ∧ t.suspect k = { x with origins := l } ∧ t.unitLevel k = s.unitLevel k ∧
         (∀ j, j ≠ k → t.suspect j = s.suspect j) ∧ s.only t [.safe]) ∧
     (vd.val = 2 ∨ ((vd.val = 1 ∨ vd.val = 3) ∧ s.safe.tlim ≤ l.length) → s.unitLevel k < 3 →
       ∃ t, exec (.suspectVerdict dme ua ub vd og) s = .next t ∧ t.unitLevel k = s.unitLevel k + 1 ∧ (t.suspect k).origins = [] ∧
         (t.suspect k).applied = s.now + 1 ∧ (∀ j, j ≠ k → j < 64 ∨ (0x100 ≤ j ∧ j < 0x108) → t.unitLevel j = s.unitLevel j) ∧
         s.only t [.regs, .chn, .safe, .events]) ∧
     (vd.val = 2 → s.unitLevel k = 3 → dme = false →
       ∃ t, exec (.suspectVerdict dme ua ub vd og) s = .next t ∧ t.unitLevel k = 0 ∧ (t.suspect k).origins = [])))

/-- Analog outputs follow values, overrides and failures; hall passes are taken, released, revoked and expire with what they govern.
Derived from: 16_signal_outputs: R450, R451, R452, R453, R454, R457; 17_host_ports_and_ring_protocol: R482, Tables 17-8, 17-16. -/
def Obligations.AnalogOutputsAndHallPasses : Prop :=
  (∀ (c : Instr) (n : Fin 4) (s : State),
    (s.ao n.val).breakEnd ≠ 0 ∧ (s.ao n.val).breakEnd ≤ s.now + 1 ∧ c = .aoRangeBreakEnd n ∨
    (∃ (r : Req) (v : Word), s.homeReq r ∧ c = .aoValueWrite r n v) ∨
    (∃ (r : Req) (v : Word), s.reqOn r = true ∧ s.ctxEnabled (s.ctxOf r) = true ∧ (s.ctxOf r = 0 ∨ s.agentHolds r 1 = true) ∧
      c = .aoOverrideWrite r n v) ∨
    (s.fget F.OUT_AO_FAIL_TMO n.val ≠ 0 ∧ s.flag F.ACQ_STAT_SETTLED = true ∧ s.flag F.OUT_AO_OVR_EN n.val = false ∧
      (s.ao n.val).refresh + s.fget F.OUT_AO_FAIL_TMO n.val * 1000000 ≤ s.now ∧ c = .aoRefreshTimeout n) ∨ c = .aoLinkSilence →
    ∃ t, exec c s = .next t ∧ t.fget F.OUT_AO_STAT_CODE n.val = (t.aoDrive n.val).getD 0 % 65536 ∧
      bit (t.fget F.OUT_STAT_AOEN) n.val = (t.aoDrive n.val).isSome ∧
      bit (t.fget F.OUT_AO_STAT_FCAUSE n.val) 1 = (t.ao n.val).timedOut ∧
      t.flag F.OUT_AO_STAT_BREAK n.val = ((t.ao n.val).breakEnd != 0) ∧
      t.aoSilent = (s.aoSilent || c == .aoLinkSilence) ∧ s.only t [.regs, .chn, .aos, .aoSilent, .events] ∧
      (c = .aoRangeBreakEnd n → (t.ao n.val).breakEnd = 0) ∧ (c = .aoRefreshTimeout n → (t.ao n.val).timedOut = true) ∧
      (∀ r v, c = .aoValueWrite r n v → t.fget F.OUT_AO_VALUE_VALUE n.val = getField v 0 16 ∧ (t.ao n.val).timedOut = false ∧
        (t.ao n.val).refresh = s.now) ∧
      (∀ r v, c = .aoOverrideWrite r n v → t.flag F.OUT_AO_OVR_EN n.val = bit v.toNat 31 ∧
        t.fget F.OUT_AO_OVR_VALUE n.val = getField v 0 16 ∧ (t.ao n.val).underPass = (s.agentHolds r 1 && bit v.toNat 31))) ∧
  (∀ (n : Fin 4) (rb : Word) (limit : Bool) (s : State),
    ∃ t, exec (.aoMonitor n rb limit) s = .next t ∧ t.rget R.OUT_AO_RBACK n.val = (if s.aoDrive n.val = none then 0 else rb.toNat) ∧
      s.only t [.regs, .chn, .aos, .events] ∧
      (s.aoDrive n.val ≠ none → limit = true → 3 ≤ s.aoRange n.val → Sparse.get (fun _ => 0) (s.ao n.val).since 0 ≠ 0 →
        Sparse.get (fun _ => 0) (s.ao n.val).since 0 + 10000000 ≤ s.now + 1 → t.flag F.OUT_AO_STAT_OPEN n.val = true)) ∧
  (∀ (r : Req) (v : Word) (s : State),
    (let p := getField v 16 3
     s.homeReq r → getField v 0 16 ≠ 0 → bit v.toNat 30 = false → s.passFree p 0 = true →
     ∃ t, exec (.hallPassAcquireHome r v) s = .next t ∧
       t.hosts.passes.find? (fun x => x.1 == p) = some (p, ⟨0, s.now + getField v 0 16 * 1000000000⟩) ∧
       t.flag F.HOST_PASS_HELD p = true ∧ t.fget F.HOST_PASS_HOLDER p = 0 ∧ (∀ q, q ≠ p → t.passHolder q = s.passHolder q) ∧
       s.only t [.regs, .hosts] ∧ s.regsOnly t [R.HOST_PASS.at p])) ∧
  (∀ (c : Instr) (n : Fin 8) (s : State),
    (∃ (r : Req) (v : Word), s.homeReq r ∧ getField v 16 3 = n.val ∧ s.passHolder n.val = some 0 ∧ c = .hallPassReleaseHome r v) ∨
    (∃ (r : Req) (v : Word), s.reqOn r = true ∧ s.ctxEnabled (s.ctxOf r) = true ∧ (s.ctxOf r = 0 ∨ s.ctxOf r = 7) ∧ bit v.toNat 31 = true ∧
      s.passHolder n.val ≠ none ∧ c = .hallPassRevoke r n v) ∨
    (∃ x, s.hosts.passes.find? (fun x => x.1 == n.val) = some x ∧ x.2.ends ≤ s.now ∧ c = .hallPassExpire n) →
    ∃ t, exec c s = .next t ∧ t.passHolder n.val = none ∧ t.flag F.HOST_PASS_HELD n.val = false ∧
      (∀ q, q ≠ n.val → t.passHolder q = s.passHolder q) ∧
      (n.val = 0 → s.ledger.underPass = true → t.flag F.LDG_TOVR_EN = false) ∧
      (n.val = 1 → ∀ k, k < 4 → (s.ao k).underPass = true → t.flag F.OUT_AO_OVR_EN k = false) ∧
      s.only t [.regs, .chn, .aos, .ledger, .hosts, .events])

/-- Frames enter port buffers or are answered, gPTP sets wall time, gates follow their list, the SPI target answers, rings enable
empty. Derived from: 17_host_ports_and_ring_protocol: R465, R466, R468, R469, R470, R478; 17_host_ports_and_ring_protocol:
Tables 17-18, 17-20. -/
def Obligations.HostPortsTimeSyncAndSpiTarget : Prop :=
  (∀ (p : Fin 3) (kind : Fin 5) (pcp : Fin 8) (src body : List Byte) (s : State), s.pwrState ≠ 2 → s.portOn p.val = true → s.domOn 2 = true →
    (p.val < 2 → s.domOn 6 = true) →
    (let full := if pcp.val = 7 then decide (16 ≤ (s.urgBuf p.val).length) else decide (64 ≤ (s.ordBuf p.val).length)
     (full = true → ∃ t, exec (.hostFrameReceive p kind pcp src body) s = .next t ∧
       t.rget R.HOST_RXDROP p.val = satAdd 32 (s.rget R.HOST_RXDROP p.val) 1 ∧ s.only t [.regs] ∧ s.regsOnly t [R.HOST_RXDROP.at p.val]) ∧
     (full = false → kind.val = 0 → pcp.val ≠ 7 → exec (.hostFrameReceive p kind pcp src body) s =
       .next (s.setOrd p.val (s.ordBuf p.val ++ [⟨padTo 18 src, body⟩]))) ∧
     (full = false → kind.val = 0 → pcp.val = 7 → exec (.hostFrameReceive p kind pcp src body) s =
       .next (s.setUrg p.val (s.urgBuf p.val ++ [⟨padTo 18 src, body⟩]))) ∧
     (full = false → kind.val = 1 ∨ (kind.val = 2 ∧ body.length ≤ 64) →
       ∃ t x, exec (.hostFrameReceive p kind pcp src body) s = .next t ∧ t.tx = s.tx ++ [x] ∧ x.port = 0x80 + p.val ∧ x.kind = 4 ∧
         s.only t [.tx]) ∧
     (full = false → (kind.val = 2 ∧ 64 < body.length) ∨ kind.val = 4 → exec (.hostFrameReceive p kind pcp src body) s = .next s))) ∧
  (∀ (p : Fin 2) (dom : Byte) (master : DWord) (ppb : Word) (s : State), s.portOn p.val = true → s.domOn 6 = true →
    dom.toNat = s.fget F.HOST_TSYNC_DOMAIN → s.syncSrc = some p.val →
    ∃ t, exec (.gptpFrame p 0 dom true master ppb) s = .next t ∧ t.wallTime = master.toNat ∧ t.flag F.SYS_WALLSTAT_VALID = true ∧
      t.fget F.SYS_WALLSTAT_SOURCE = p.val + 2 ∧ t.rget R.HOST_TSRATE = ppb.toNat ∧ t.flag F.HOST_TSYNC_SYNCED = true ∧
      s.only t [.regs, .chn, .ledger, .hosts, .events]) ∧
  (∀ (p : Fin 2) (dom : Byte) (cap : Bool) (master : DWord) (ppb : Word) (s : State), s.portOn p.val = true → s.domOn 6 = true →
    exec (.gptpFrame p 1 dom cap master ppb) s = .next (s.send (0x80 + p.val) 7 (leBytes 8 s.now))) ∧
  (∀ (p : Fin 2) (s : State), ∃ t, exec (.gptpSyncLoss p) s = .next t ∧ Sparse.get (fun _ => 0) t.hosts.synced p.val = 0 ∧
    (s.syncSrc = some p.val → t.flag F.HOST_TSYNC_SYNCED = false) ∧ s.only t [.regs, .hosts] ∧ s.regsOnly t [R.HOST_TSYNC.at]) ∧
  (∀ (p : Fin 2) (s : State), s.wallValid = false → ∃ t, exec (.qbvGateEntry p) s = .next t ∧ t.flag F.HOST_QBV_STAT_ACTIVE p.val = false ∧
    t.fget F.HOST_QBV_STAT_ENTRY p.val = 0 ∧ s.only t [.regs] ∧ s.regsOnly t [R.HOST_QBV_STAT.at p.val]) ∧
  (∀ (p : Fin 2) (s : State) (cyc base : Nat) (es : List Nat), s.wallValid = true → s.gateList p.val = cyc :: base :: es →
    Sparse.get (fun _ => []) s.hosts.gates p.val = s.gateList p.val → 0 < cyc → base ≤ s.wallTime →
    (let o := (s.wallTime - base) % cyc
     let ns := es.map (fun e => bits e 0 24 * 16)
     o < ns.sum → ∃ t k, exec (.qbvGateEntry p) s = .next t ∧ t.flag F.HOST_QBV_STAT_ACTIVE p.val = true ∧
       t.fget F.HOST_QBV_STAT_ENTRY p.val = k ∧ (ns.take k).sum ≤ o ∧ o < (ns.take (k + 1)).sum ∧ s.only t [.regs, .hosts])) ∧
  (∀ s : State, s.spiOn = true → exec .spitStatus s = .next (s.respond false
    (BitVec.ofNat 8 (b2n (s.hosts.spiReply != []) + 2 * b2n (decide (s.hosts.spiRx.length < 4))) ::
      leBytes 2 (s.hosts.spiReply.headD []).length))) ∧
  (∀ (body : List Byte) (s : State), s.spiOn = true → body.length ≤ 1440 → s.hosts.spiRx.length < 4 →
    exec (.spitWrite body) s = .next (s.setHosts { s.hosts with spiRx := s.hosts.spiRx ++ [body] })) ∧
  (∀ (s : State) (b : List Byte) (rest : List (List Byte)), s.spiOn = true → s.hosts.spiReply = b :: rest →
    ∃ t, exec .spitRead s = .next t ∧ t.resp = ⟨false, b⟩ ∧ t.hosts = { s.hosts with spiReply := rest } ∧ s.only t [.hosts, .resp]) ∧
  (∀ (p : Fin 3) (up : Bool) (s : State), bit (s.fget F.HOST_STAT_LINK) p.val = !up →
    (up = true → s.domOn 2 = true ∧ (p.val < 2 → s.domOn 6 = true)) →
    ∃ t, exec (.hostPortLinkChange p up) s = .next t ∧ bit (t.fget F.HOST_STAT_LINK) p.val = up ∧
      (∀ q, q < 3 → q ≠ p.val → bit (t.fget F.HOST_STAT_LINK) q = bit (s.fget F.HOST_STAT_LINK) q) ∧ s.only t [.regs, .chn, .events]) ∧
  (∀ (r : Req) (q : Fin 16) (v : Word) (s : State), s.homeReq r → s.flag F.HOST_JR_CFG_EN q.val = false →
    ∃ t, exec (.ringEnable r true q v) s = .next t ∧ t.flag F.HOST_JR_CFG_EN q.val = true ∧
      t.fget F.HOST_JR_CFG_SIZEM1 q.val = getField v 0 12 ∧ t.fget F.HOST_JR_HEAD_INDEX q.val = 0 ∧ t.fget F.HOST_JR_TAIL_INDEX q.val = 0 ∧
      Sparse.get (fun _ => 0) t.hosts.jobSeq q.val = 0 ∧ s.only t [.regs, .hosts] ∧
      s.regsOnly t [R.HOST_JR_CFG.at q.val, R.HOST_JR_HEAD.at q.val, R.HOST_JR_TAIL.at q.val]) ∧
  (∀ (r : Req) (q : Fin 16) (v : Word) (s : State), s.homeReq r → s.ringEnabled q.val = false →
    ∃ t, exec (.ringEnable r false q v) s = .next t ∧ t.ringEnabled q.val = true ∧ t.ringSize q.val = getField v 0 12 + 1 ∧
      t.fget F.HOST_RR_HEAD_INDEX q.val = 0 ∧ t.fget F.HOST_RR_TAIL_INDEX q.val = 0 ∧ t.rget R.HOST_RR_SEQ q.val = 0 ∧
      (t.ringX q.val).fwDist = 0 ∧ (∀ c, c ∈ (t.ringX q.val).cursors → c.index = 0 ∧ c.dist = 0) ∧ s.only t [.regs, .rings])

/-- Job entries are served and reported, TAIL writes let the agent go on, fences commit an F no later than any horizon. Derived
from: 17_host_ports_and_ring_protocol: R479, R480, R481, Tables 17-6, 17-7; 01_device_overview: R34, R35, R36. -/
def Obligations.JobRingsAndFences : Prop :=
  (∀ (q : Fin 16) (s : State), s.domOn 2 = true → s.servable q.val = true → urgentRings.contains q.val = true ∨ urgentRings.any s.servable = false →
    (let tail := s.fget F.HOST_JR_TAIL_INDEX q.val
     let e := s.load (s.jobSlot q.val tail) 64
     (leAt e 0 1 = 1 →
       (let x := s.jobStart q.val ((e.drop 16).take 32)
        let u := x.2.fset F.HOST_JR_TAIL_INDEX ((tail + 1) % s.jobSize q.val) q.val
        exec (.jobEntryServe q) s = .next (if x.1 = 0 then u else u.jobRecord q.val (jobStatus e x.1 s.now)) ∧
        u.fget F.HOST_JR_TAIL_INDEX q.val = (tail + 1) % s.jobSize q.val ∧
        (s.ctxEnabled (ringOwner q.val) = false → x.1 = 2) ∧ (∀ k, ringClass q.val = some k → k ≠ leAt e 29 1 → x.1 = 2))) ∧
     (leAt e 0 1 ≠ 1 → ∃ t, exec (.jobEntryServe q) s = .next t ∧ bit (t.rget R.HOST_JOBIRQ) q.val = true ∧ t.servable q.val = false ∧
       s.only t [.regs, .hosts] ∧ s.regsOnly t [R.HOST_JOBIRQ.at]))) ∧
  (∀ (q : Fin 16) (s : State) (x : Nat × List Byte), s.hosts.jobWait.find? (fun x => x.1 == q.val) = some x → s.domOn 2 = true →
    s.ringEnabled q.val = true →
    (ceilDiv x.2.length 64 ≤ s.ringSpace q.val → ∃ t, exec (.jobStatusRecord q) s = .next t ∧
      t.hosts = { s.hosts with jobWait := s.hosts.jobWait.erase x } ∧ t.mem = (s.commitRecord q.val x.2).mem ∧
      t.fget F.HOST_RR_HEAD_INDEX q.val = (s.fget F.HOST_RR_HEAD_INDEX q.val + ceilDiv x.2.length 64) % s.ringSize q.val ∧
      s.only t [.regs, .mem, .rings, .hosts]) ∧
    (s.ringSpace q.val < ceilDiv x.2.length 64 → exec (.jobStatusRecord q) s = .next s)) ∧
  (∀ (r : Req) (q : Fin 16) (v : Word) (s : State), s.homeReq r →
    ∃ t, exec (.jobTailWrite r q v) s = .next t ∧ t.fget F.HOST_JR_TAIL_INDEX q.val = getField v 0 12 ∧
      (∀ x, x ∈ t.hosts.jobStop ↔ x ∈ s.hosts.jobStop ∧ (x.1 ≠ q.val ∨ x.2 = getField v 0 12 + 1)) ∧
      s.only t [.regs, .hosts] ∧ s.regsOnly t [R.HOST_JR_TAIL.at q.val]) ∧
  (∀ (r : Req) (q : Fin 16) (v : Word) (s : State), s.homeReq r → bit v.toNat 0 = true → s.ringEnabled q.val = true →
    ∃ t, exec (.fenceRequest r q v) s = .next t ∧
      (t.ringX q.val) = { s.ringX q.val with fences := (s.ringX q.val).fences ++ [⟨false, s.rget R.HOST_RR_FTAG q.val⟩] } ∧
      (∀ j, j ≠ q.val → t.ringX j = s.ringX j) ∧ s.only t [.rings]) ∧
  (∀ (q : Fin 16) (s : State),
    (let us := s.rget R.HOST_RR_FAUTO q.val * 1000
     let x := s.ringX q.val
     us ≠ 0 → x.autoBase < s.now → (s.now - x.autoBase) % us = 0 → s.ringEnabled q.val = true →
     ∃ t, exec (.autoFenceDue q) s = .next t ∧
       t.ringX q.val = { x with fences := x.fences ++ (if x.fences.any (·.auto) then [] else [⟨true, 0⟩]) } ∧
       (∀ j, j ≠ q.val → t.ringX j = s.ringX j) ∧ s.only t [.rings])) ∧
  (∀ (q : Fin 16) (s : State), ∃ t, exec (.fenceCommit q) s = .next t ∧ (s.ringX q.val).lastF ≤ (t.ringX q.val).lastF ∧
    s.only t [.regs, .mem, .rings, .free]) ∧
  (∀ (q : Fin 16) (s : State) (g : FenceReq) (rest : List FenceReq), (s.ringX q.val).fences = g :: rest → (s.ringX q.val).lastF = 0 →
    s.ringEnabled q.val = true → 1 ≤ s.ringSpace q.val →
    ∃ t f, exec (.fenceCommit q) s = .next t ∧ (t.ringX q.val).fences = rest ∧ (t.ringX q.val).lastF = f ∧ f ≤ s.now ∧
      (∀ h, h ∈ s.horizons → f ≤ h) ∧ t.rget R.HOST_RR_SEQ q.val = (s.rget R.HOST_RR_SEQ q.val + 1) % 2 ^ 32 ∧
      t.mem = (s.store (s.rget R.HOST_RR_BASE q.val * 4096 + 64 * (s.fget F.HOST_RR_HEAD_INDEX q.val % s.ringSize q.val))
        (withSeq (fenceRecord g.auto f s.now g.tag) (s.rget R.HOST_RR_SEQ q.val))).mem)

/-- LRP: a HELLO opens a session, a message that fails is dropped and counted, each operation of a checked message has its effect
and reply. Derived from: 17_host_ports_and_ring_protocol: R474, R475, R476, R477, R479, R481; 17_host_ports_and_ring_protocol:
R482, R485, R486, R487, R488, R489, Table 17-4. -/
def Obligations.RingProtocolMessagesAreServed : Prop :=
  (∀ (p : Fin 4) (s : State) (i h : Nat) (k : Pkt) (hn : List Byte), s.domOn 2 = true → s.nextPkt p.val = some (false, i, k) →
    s.readMsg p.val k = .hello h hn → ((s.hostX h).hellos.filter (fun t => decide (s.now < t + 1000000000))).length < 10 →
    ∃ t y, exec (.lrpHello p) s = .next t ∧ (t.hostX h).next = some y ∧ y.hn = hn ∧ y.dn.length = 16 ∧ y.seen = [] ∧ y.sent = 0 ∧
      (∀ z, (s.hostX h).cur = some z → z.number ≠ y.number) ∧ (t.hostX h).cur = (s.hostX h).cur ∧ s.now ∈ (t.hostX h).hellos ∧
      (p.val ≠ 3 → t.tx.length = s.tx.length + 1) ∧ (p.val = 3 → t.hosts.spiReply.length = s.hosts.spiReply.length + 1) ∧
      s.only t [.hosts, .tx, .free]) ∧
  (∀ (p : Fin 4) (s : State) (urgent : Bool) (i : Nat) (k : Pkt) (c : Instr), s.domOn 2 = true → s.nextPkt p.val = some (urgent, i, k) →
    s.readMsg p.val k = .refused → c ∈ [Instr.lrpHello p, .lrpStatus p, .lrpPost p, .lrpRead p, .lrpFence p, .lrpPassacq p, .lrpPassrel p,
      .lrpStop p, .lrpResume p, .lrpSnapshot p, .lrpBulkack p, .lrpTariff p, .lrpMdclr p, .lrpAovr p, .lrpSafereset p, .lrpLedgerkey p] →
    exec c s = .next ((s.dropPkt p.val urgent i).count R.HOST_AUTHERR)) ∧
  (∀ (p : Fin 4) (s u : State) (h : Nat) (d : List Byte),
    (s.lrpMsg u p.val 1 h d → d.length = 8 → ∃ t b, exec (.lrpStatus p) s = .next t ∧ t = u.reply (.host h) 4 d 0 b ∧
      leAt b 0 4 = s.rget R.SYS_PARTID ∧ leAt b 4 4 = s.rget R.BOOT_UNITID_LO ∧ leAt b 8 4 = s.rget R.BOOT_UNITID_HI ∧
      leAt b 12 4 = s.rget R.BOOT_STAT ∧ leAt b 16 1 = s.fget F.SAFE_STAT_STATE ∧ leAt b 17 1 = s.fget F.SAFE_STAT_CAUSE ∧
      leAt b 18 4 = s.rget R.LDG_STAT ∧ leAt b 22 4 = s.rget R.MMU_CTX_VIOL (h + 1) ∧ b.length = 30) ∧
    (s.lrpMsg u p.val 2 h d → leAt d 8 1 < 2 → 1 ≤ leAt d 9 1 → leAt d 9 1 ≤ 16 → leAt d 10 6 = 0 → d.length = 16 + 64 * leAt d 9 1 →
      (chunksOf 64 16 (d.drop 16)).all jobOk = true →
      (let q := roleRing h (leAt d 8 1)
       u.flag F.HOST_JR_CFG_EN q = true → u.jobCount q + leAt d 9 1 + 1 ≤ u.jobSize q →
       (let seq := Sparse.get (fun _ => 0) u.hosts.jobSeq q
        ∃ w : State, exec (.lrpPost p) s = .next (w.reply (.host h) (roleQueue (leAt d 8 1)) d 0 (leBytes 4 seq)) ∧
          w.fget F.HOST_JR_HEAD_INDEX q = (u.fget F.HOST_JR_HEAD_INDEX q + leAt d 9 1) % u.jobSize q ∧
          Sparse.get (fun _ => 0) w.hosts.jobSeq q = (seq + leAt d 9 1) % 2 ^ 32 ∧ u.only w [.regs, .mem, .hosts] ∧
          u.regsOnly w [R.HOST_JR_HEAD.at q, R.MEM_TAGERR.at]))) ∧
    (s.lrpMsg u p.val 3 h d → leAt d 8 1 < 10 → leAt d 9 3 = 0 → d.length = 20 → 1 ≤ leAt d 16 4 → leAt d 16 4 ≤ 4096 →
      (let q := roleRing h (leAt d 8 1)
       let w := u.release q h (leAt d 12 4)
       let n := min (leAt d 16 4) ((u.cursor q h).dist - min (leAt d 12 4) (u.cursor q h).dist)
       let b := w.ringBytes q (w.cursor q h).index n
       u.roleOk h (leAt d 8 1) = true → u.ringEnabled q = true →
       (n ≤ 16 → exec (.lrpRead p) s = .next (w.reply (.host h) (roleQueue (leAt d 8 1)) d 0 b)) ∧
       (16 < n → (u.hostX h).bulk = none → ∃ t x, exec (.lrpRead p) s = .next t ∧ (t.hostX h).bulk = some x ∧ x.packets.flatten = b ∧
         x.op = 3 ∧ x.tag = leAt d 4 4 ∧ x.acked = 0 ∧ x.sent = 0 ∧ w.only t [.hosts]))) ∧
    (s.lrpMsg u p.val 4 h d → leAt d 8 1 < 10 → leAt d 9 3 = 0 → d.length = 16 → u.roleOk h (leAt d 8 1) = true →
      u.ringEnabled (roleRing h (leAt d 8 1)) = true →
      ∃ w : State, exec (.lrpFence p) s = .next (w.reply (.host h) (roleQueue (leAt d 8 1)) d 0) ∧ u.only w [.rings] ∧
        (w.ringX (roleRing h (leAt d 8 1))).fences = (u.ringX (roleRing h (leAt d 8 1))).fences ++ [⟨false, leAt d 12 4⟩]) ∧
    (s.lrpMsg u p.val 5 h d → leAt d 8 1 < 8 → leAt d 9 1 = 0 → d.length = 12 → leAt d 10 2 ≠ 0 → bit (u.hostX h).passMask (leAt d 8 1) = true →
      leAt d 10 2 ≤ (u.hostX h).passMax → u.safeState = false →
      (u.passFree (leAt d 8 1) (h + 1) = true → ∃ w : State, u.only w [.regs, .hosts] ∧ w.passHolder (leAt d 8 1) = some (h + 1) ∧
        exec (.lrpPassacq p) s = .next (w.reply (.host h) 4 d 0 (leBytes 8 (s.now + leAt d 10 2 * 1000000000)))) ∧
      (u.passFree (leAt d 8 1) (h + 1) = false → exec (.lrpPassacq p) s = .next (u.reply (.host h) 4 d 0x03))) ∧
    (s.lrpMsg u p.val 6 h d → leAt d 8 1 < 8 → d.length = 9 → u.passOf (leAt d 8 1) = some (h + 1) →
      ∃ w : State, exec (.lrpPassrel p) s = .next (w.reply (.host h) 4 d 0) ∧ w.passHolder (leAt d 8 1) = none) ∧
    (s.lrpMsg u p.val 7 h d → d.length = 8 → ∃ (w : State) (m : Byte) (n : Nat), exec (.lrpStop p) s = .next (w.reply (.host h) 7 d 0 ([m, 0, 0, 0] ++ leBytes 4 n)) ∧
      w.rget R.HOST_STOPS = satAdd 32 (u.rget R.HOST_STOPS) 1 ∧ ∀ k, k < 4 → bit m.toNat (k + 1) = (k == h || bit (u.hostX h).stopMask k) ∧
        (k = h ∨ bit (u.hostX h).stopMask k = true → bit (w.fget F.HOST_STAT_STOPPED) k = true ∧ (w.hostX k).bulk = none ∧
          w.fget F.HOST_JR_TAIL_INDEX (8 + 2 * k) = w.fget F.HOST_JR_HEAD_INDEX (8 + 2 * k) ∧
          w.fget F.HOST_JR_TAIL_INDEX (9 + 2 * k) = w.fget F.HOST_JR_HEAD_INDEX (9 + 2 * k) ∧ ∀ j, j < 8 → w.passHolder j ≠ some (k + 1))) ∧
    (s.lrpMsg u p.val 8 h d → d.length = 8 → ∃ w : State, exec (.lrpResume p) s = .next (w.reply (.host h) 4 d 0) ∧
      (∀ k, k < 4 → bit (w.fget F.HOST_STAT_STOPPED) k = (bit (u.fget F.HOST_STAT_STOPPED) k && k != h)) ∧
      (∀ n, n < 22 → bit (w.stream n).halted (h + 1) = false) ∧ u.only w [.regs, .streams] ∧ u.regsOnly w [R.HOST_STAT.at]) ∧
    (∀ v v2 m b, s.lrpMsg u p.val 9 h d → d.length = 20 → leAt d 8 8 % 8 = 0 → leAt d 16 4 % 8 = 0 → leAt d 16 4 ≤ 0x1000000 →
      leAt d 8 8 + leAt d 16 4 ≤ 2 ^ 40 → bit (u.hostX h).perm 1 = true → (u.hostX h).bulk = none → (u.hostX h).snap = none →
      u.translatePages (0x30 + h) (h + 1) ((pagesOf (leAt d 8 8) (leAt d 16 4)).map (fun x => (x, Acc3.read))) [] = (.ok m, v) →
      (v.violatePages (0x30 + h) (h + 1) m).snapBytes m (leAt d 8 8) (leAt d 16 4) = (some b, v2) →
      ∃ t x, exec (.lrpSnapshot p) s = .next t ∧ (t.hostX h).bulk = some x ∧ x.packets.flatten = b ∧ x.op = 9 ∧ x.tag = leAt d 4 4 ∧
        x.acked = 0 ∧ x.sent = 0 ∧ v2.only t [.hosts]) ∧
    (∀ x, s.lrpMsg u p.val 10 h d → d.length = 16 → leAt d 10 2 = 0 → (u.hostX h).bulk = some x → x.id = leAt d 8 2 →
      (let a := min x.sent (leAt d 12 4 + 1)
       x.acked < a → ∃ t, exec (.lrpBulkack p) s = .next t ∧ u.only t [.hosts] ∧ (t.hostX h).bulk =
         if x.packets.length ≤ a then none else some { x with acked := a, resends := 0, ackTb := s.now })) ∧
    (s.lrpMsg u p.val 11 h d → d.length = 10 → leAt d 8 1 < 2 → leAt d 9 1 < 8 → u.passOf 0 = some (h + 1) →
      ∃ w : State, exec (.lrpTariff p) s = .next (w.reply (.host h) 4 d 0) ∧ w.flag F.LDG_TOVR_EN = (leAt d 8 1 == 1) ∧
        w.fget F.LDG_TOVR_TARIFF = leAt d 9 1 ∧ u.only w [.regs, .ledger]) ∧
    (s.lrpMsg u p.val 12 h d → d.length = 8 → u.passOf 0 = some (h + 1) →
      ∃ w : State, exec (.lrpMdclr p) s = .next (w.reply (.host h) 4 d 0) ∧
        w.ledger.tariffs = u.ledger.tariffs.map (fun x => { x with maxDem := 0 }) ∧ u.only w [.regs, .chn, .ledger, .events]) ∧
    (s.lrpMsg u p.val 13 h d → d.length = 12 → leAt d 8 1 < 4 → leAt d 9 1 < 2 → u.passOf 1 = some (h + 1) →
      ∃ w : State, exec (.lrpAovr p) s = .next (w.reply (.host h) 4 d 0) ∧ w.flag F.OUT_AO_OVR_EN (leAt d 8 1) = (leAt d 9 1 == 1) ∧
        w.fget F.OUT_AO_OVR_VALUE (leAt d 8 1) = leAt d 10 2 ∧ u.only w [.regs, .chn, .aos, .events]) ∧
    (s.lrpMsg u p.val 14 h d → d.length = 8 → bit (leAt u.safe.params 5 1) 4 = true → bits (leAt u.safe.params 5 1) 5 2 = h → u.fnsRun = true →
      exec (.lrpSafereset p) s = .next ((u.resetRequest 1).reply (.host h) 4 d 0)) ∧
    (s.lrpMsg u p.val 15 h d → d.length = 40 → bit (u.hostX h).perm 0 = true → u.flag F.LDG_STAT_KEYSET = false →
      ∃ w : State, exec (.lrpLedgerkey p) s = .next (w.reply (.host h) 4 d 0) ∧ w.ledger.key = d.drop 8 ∧ w.flag F.LDG_STAT_KEYSET = true ∧
        u.only w [.regs, .chn, .ledger, .events]) ∧
    (∀ op, 18 < op → s.lrpMsg u p.val op h d → exec (.lrpStatus p) s = .next (u.reply (.host h) 4 d 0x06)))

/-- An image is begun, staged and ended in enrolment; bulk packets leave in a window of 64, are resent, and abandoned after eight
resends. Derived from: 17_host_ports_and_ring_protocol: R488, R489, R490, R491, R492; 02_power_on_and_startup: R76, R77. -/
def Obligations.ImageAndBulkTransfers : Prop :=
  (∀ (p : Fin 4) (s u : State) (a d : List Byte), s.imgMsg u p.val 16 a d → d.length = 12 → u.imgRefusal (a.take 16) true = 0 →
    leAt d 8 4 ≤ 268435456 →
    ∃ w : State, exec (.imgbegin p) s = .next (w.reply (.enrol p.val a) 4 d 0) ∧ w.hosts = { u.hosts with image := some ⟨a.take 16, leAt d 8 4, []⟩ } ∧
      (∀ o, stagedBase ≤ o → o < stagedBase + leAt d 8 4 → (u.sto.sector (o / 4096)).state ≠ 2 → (u.sto.sector (o / 4096)).state ≠ 3 →
        (u.sto.sector (o / 4096)).count < u.wearLimit → w.sto.byte o = 0xFF) ∧
      (∀ o, ¬(stagedBase ≤ o ∧ o < stagedBase + 4096 * ceilDiv (leAt d 8 4) 4096) → w.sto.byte o = u.sto.byte o) ∧
      u.only w [.regs, .sto, .chn, .hosts, .events]) ∧
  (∀ (p : Fin 4) (s u : State) (a d : List Byte) (x : ImageXfer), s.imgMsg u p.val 17 a d → 16 ≤ d.length → leAt d 12 4 = 0 →
    u.imgRefusal (a.take 16) false = 0 → u.hosts.image = some x →
    (let o := leAt d 8 4
     let b := d.drop 16
     o % 8 = 0 → o + b.length ≤ x.len → b.length ≤ 1024 →
     (x.got.contains (o, b.length) = true → exec (.imgdata p) s = .next (u.reply (.enrol p.val a) 4 d 0)) ∧
     (x.got.contains (o, b.length) = false →
       ∃ w : State, exec (.imgdata p) s = .next (w.reply (.enrol p.val a) 4 d 0) ∧
         w.hosts = { u.hosts with image := some { x with got := x.got ++ [(o, b.length)] } } ∧
         (∀ i, i < b.length → u.sto.blank ((stagedBase + o + i) / 8) = true → (u.sto.sector ((stagedBase + o + i) / 4096)).state ≠ 2 →
           (u.sto.sector ((stagedBase + o + i) / 4096)).state ≠ 3 → w.sto.byte (stagedBase + o + i) = b.getD i 0) ∧
         (∀ j, ¬(stagedBase + o ≤ j ∧ j < stagedBase + o + 8 * ceilDiv b.length 8) → w.sto.byte j = u.sto.byte j)))) ∧
  (∀ (p : Fin 4) (ok : Bool) (s u : State) (a d : List Byte), s.imgMsg u p.val 18 a d → d.length = 8 → u.imgRefusal (a.take 16) false = 0 →
    (let code := u.imageCode u.stagedSrc u.unsignedUnit
     (code ≠ 0 → ∃ w : State, exec (.imgend p ok) s = .next (w.reply (.enrol p.val a) 4 d 0x09 [BitVec.ofNat 8 code]) ∧
       w.hosts = { u.hosts with image := none } ∧ u.only w [.hosts]) ∧
     (code = 0 → u.stagedSrc.num 8 4 ≤ u.boot.slotSize → ok = true →
       ∃ w : State, exec (.imgend p ok) s = .next (w.reply (.enrol p.val a) 4 d 0 [0]) ∧ w.hosts = { u.hosts with image := none } ∧
         w.boot.restartAt = some (s.now, 4) ∧ u.only w [.hosts, .boot]))) ∧
  (∀ (h : Fin 4) (s : State) (b : Bulk) (y : Session),
    (let x := s.hostX h.val
     x.bulk = some b → x.cur = some y → s.domOn 2 = true → b.sent < b.packets.length → b.sent < b.acked + 64 →
     ∃ t, exec (.bulkPacketSend h) s = .next t ∧
       (t.hostX h.val).bulk = some { b with sent := b.sent + 1, ackTb := if b.sent = b.acked then s.now else b.ackTb } ∧
       (x.port ≠ 3 → ∃ f, t.tx = s.tx ++ [f] ∧ f.port = 0x80 + x.port ∧ f.kind = 1) ∧
       (t.hostX h.val).cur = some { y with sent := y.sent + 1 } ∧
       t.rget R.HOST_BULKPAUSE = (if b.acked + 64 = b.sent + 1 then satAdd 32 (s.rget R.HOST_BULKPAUSE) 1 else s.rget R.HOST_BULKPAUSE) ∧
       s.only t [.regs, .hosts, .tx] ∧ s.regsOnly t [R.HOST_BULKPAUSE.at])) ∧
  (∀ (h : Fin 4) (s : State) (b : Bulk) (y : Session),
    (let x := s.hostX h.val
     x.bulk = some b → x.cur = some y → s.domOn 2 = true → b.acked < b.sent → b.ackTb + 100000000 ≤ s.now →
     ∃ t, exec (.bulkResendTimeout h) s = .next t ∧
       (t.hostX h.val).bulk = (if b.resends < 8 then some { b with resends := b.resends + 1, ackTb := s.now } else none) ∧
       (x.port ≠ 3 → ∃ f, t.tx = s.tx ++ [f] ∧ f.port = 0x80 + x.port ∧ f.kind = 1) ∧
       (b.resends < 8 → s.only t [.hosts, .tx]) ∧ s.only t [.regs, .chn, .hosts, .events, .tx])) ∧
  (∀ (h : Fin 4) (s : State), (s.hostX h.val).bulk = none → exec (.bulkPacketSend h) s = .next s ∧ exec (.bulkResendTimeout h) s = .next s)

/-- Ports train by their lanes and fall back on lane failure, flits are numbered, acknowledged and replayed, wrap turns the routes.
Derived from: 18_shunto_link: R495, R496, R497, R498, R499, R500; 18_shunto_link: R501, R503, R504, R510, R526. -/
def Obligations.ShuntoPortsTrainSendReceiveAndReplay : Prop :=
  (∀ (p : Fin 3) (a : Fin 4096) (good : Fin 32) (s : State), bit (s.fget F.CHN_CTL_PORTEN) p.val = true → s.domOn 6 = true →
    ∃ t, exec (.portTraining p (some a) good) s = .next t ∧ s.only t [.regs, .chn, .events] ∧
      (good.val % 16 = 15 → t.fget F.CHN_P_STAT_STATE p.val = 2 ∧ t.fget F.CHN_P_STAT_LANES p.val = 15 ∧
        t.fget F.CHN_P_STAT_SPAREFOR p.val = 15 ∧ t.fget F.CHN_P_STAT_PARTNER p.val = a.val) ∧
      (∀ k, k < 4 → good.val = 31 - 2 ^ k → t.fget F.CHN_P_STAT_STATE p.val = 2 ∧ t.fget F.CHN_P_STAT_LANES p.val = 31 - 2 ^ k ∧
        t.fget F.CHN_P_STAT_SPAREFOR p.val = k) ∧
      (good.val % 4 = 3 → good.val / 4 % 4 ≠ 3 → good.val < 16 → t.fget F.CHN_P_STAT_STATE p.val = 3 ∧ t.fget F.CHN_P_STAT_LANES p.val = 3) ∧
      (good.val / 4 % 4 = 3 → good.val % 4 ≠ 3 → good.val < 16 → t.fget F.CHN_P_STAT_STATE p.val = 3 ∧ t.fget F.CHN_P_STAT_LANES p.val = 12) ∧
      (good.val % 4 ≠ 3 → good.val / 4 % 4 ≠ 3 → t.fget F.CHN_P_STAT_STATE p.val = 0)) ∧
  (∀ (p : Fin 3) (s : State), bit (s.fget F.CHN_CTL_PORTEN) p.val = true → s.domOn 6 = true → s.fget F.CHN_P_STAT_STATE p.val ≤ 1 →
    ∃ t, exec (.portTrainRetry p) s = .next t ∧ t.fget F.CHN_P_STAT_STATE p.val = 1 ∧ s.only t [.regs] ∧
      s.regsOnly t [R.CHN_P_STAT.at p.val]) ∧
  (∀ (p : Fin 3) (k : Fin 5) (s : State), bit (s.fget F.CHN_P_STAT_LANES p.val) k.val = true →
    (s.fget F.CHN_P_STAT_STATE p.val = 2 → s.fget F.CHN_P_STAT_SPAREFOR p.val = 15 → s.fget F.CHN_P_STAT_LANES p.val = 15 →
      ∃ t, exec (.laneFail p k) s = .next t ∧ t.fget F.CHN_P_STAT_STATE p.val = 2 ∧ t.fget F.CHN_P_STAT_LANES p.val = 31 - 2 ^ k.val ∧
        t.fget F.CHN_P_STAT_SPAREFOR p.val = k.val ∧ (t.port p.val).replayFrom = ((s.port p.val).unacked.head?).map (·.1)) ∧
    (s.fget F.CHN_P_STAT_STATE p.val = 2 → s.fget F.CHN_P_STAT_SPAREFOR p.val < 4 →
      ∃ t, exec (.laneFail p k) s = .next t ∧ t.fget F.CHN_P_STAT_STATE p.val = 3) ∧
    (s.fget F.CHN_P_STAT_STATE p.val = 3 → ∃ t, exec (.laneFail p k) s = .next t ∧ t.fget F.CHN_P_STAT_STATE p.val = 0 ∧
      t.fget F.CHN_P_STAT_LANES p.val = 0)) ∧
  (∀ (p : Fin 3) (crossing : List (Fin 4095)) (s : State) (g : Seg), (s.port p.val).segs.find? (fun g => g.ttype == 7) = some g →
    ∃ t, exec (.wrapNotice p crossing) s = .next t ∧ (t.port p.val).segs = (s.port p.val).segs.erase g ∧ t.fget F.CHN_STAT_TOPO = 4 ∧
      (∀ a : Fin 4095, t.fget F.CHN_RT_PRIMARY a.val = if a ∈ crossing then s.fget F.CHN_RT_ALT a.val else s.fget F.CHN_RT_PRIMARY a.val) ∧
      (∀ q, q < 3 → s.fget F.CHN_P_STAT_STATE q = 5 → t.fget F.CHN_P_STAT_STATE q = 2) ∧ s.only t [.regs, .chn]) ∧
  (∀ (p : Fin 3) (flit : List Byte) (num : Half) (ctl : Option LinkCtl) (sw : Bool) (s : State),
    (let b := padTo 64 flit
     let x := s.port p.val
     let vc := leAt b 0 1 % 4
     let kind := bits (leAt b 0 1) 2 3
     let ok := !sw && crc32 (b.take 60) == leAt b 60 4
     2 ≤ s.fget F.CHN_P_STAT_STATE p.val →
     (ok = false → ∃ t, exec (.flitReceive p flit num ctl sw []) s = .next t ∧ (t.port p.val) = { x with nak := true } ∧
       t.rget R.CHN_P_CRCERR p.val = satAdd 32 (s.rget R.CHN_P_CRCERR p.val) 1 ∧
       t.rget R.CHN_P_BUBLOST p.val = satAdd 32 (s.rget R.CHN_P_BUBLOST p.val) (b2n sw) ∧ s.only t [.regs, .chn]) ∧
     (ok = true → kind = 0 → ∃ t, exec (.flitReceive p flit num ctl sw []) s = .next t ∧ s.only t [.chn] ∧
       (t.port p.val).unacked = x.unacked.filter (fun u => decide (toSigned 16 (leAt b 1 3 % 65536 + 65536 - u.1) ≤ 0)) ∧
       (t.port p.val).credits = setAt x.credits (bits (leAt b 1 3) 16 2)
         (x.credits.getD (bits (leAt b 1 3) 16 2) 0 + bits (leAt b 1 3) 18 6) ∧
       (t.port p.val).rxCount = x.rxCount ∧ ∀ q, q ≠ p.val → t.port q = s.port q) ∧
     (ok = true → kind = 1 → ∀ n, ctl = some (.nak n) → x.replays < 7 → ∃ t, exec (.flitReceive p flit num ctl sw []) s = .next t ∧
       (t.port p.val).replayFrom = some n.toNat ∧ t.rget R.CHN_P_REPLAY p.val = satAdd 32 (s.rget R.CHN_P_REPLAY p.val) 1) ∧
     (ok = true → kind = 2 ∨ kind = 3 → s.fget F.CHN_P_STAT_STATE p.val < 4 → num.toNat = x.rxCount → bit (leAt b 0 1) 5 = false →
       ∃ t, exec (.flitReceive p flit num ctl sw []) s = .next t ∧ (t.port p.val).rxCount = (x.rxCount + 1) % 65536 ∧
         Sparse.get (fun _ => []) (t.port p.val).rx vc = Sparse.get (fun _ => []) x.rx vc ++ [(kind, (b.drop 4).take 56)] ∧ s.only t [.chn]) ∧
     (ok = true → kind = 2 → s.fget F.CHN_P_STAT_STATE p.val < 4 → num.toNat = x.rxCount → bit (leAt b 0 1) 5 = true →
       Sparse.get (fun _ => []) x.rx vc = [] →
       (let g : Seg := ⟨vc, (b.drop 4).take 56, []⟩
        g.ttype ≠ 5 → s.flag F.CHN_STAT_ADDRVALID = true → g.dest = s.chainAddr →
        ∃ t, exec (.flitReceive p flit num ctl sw []) s = .next t ∧ (t.port p.val).rxCount = (x.rxCount + 1) % 65536 ∧
          (t.port p.val).segs = x.segs ++ [g] ∧ s.only t [.chn])))) ∧
  (∀ (p : Fin 3) (s : State) (u : Nat × List Byte) (rest : List (Nat × List Byte)), (s.port p.val).unacked = u :: rest →
    (let x := s.port p.val
     let k := if x.replayNo = u.1 ∧ x.replays ≠ 0 then x.replays + 1 else 1
     (k < 8 → ∃ t, exec (.replayTimeout p) s = .next t ∧ t.port p.val = { x with replayFrom := some u.1, replayNo := u.1, replays := k } ∧
       t.rget R.CHN_P_REPLAY p.val = satAdd 32 (s.rget R.CHN_P_REPLAY p.val) 1 ∧ s.only t [.regs, .chn] ∧
       s.regsOnly t [R.CHN_P_REPLAY.at p.val]) ∧
     (8 ≤ k → ∃ t, exec (.replayTimeout p) s = .next t ∧ t.fget F.CHN_P_STAT_STATE p.val =
       if 2 ≤ (x.trainings.filter (fun t => decide (s.now < t + 1000000000))).length then 0 else 1))) ∧
  (∀ (p : Fin 3) (s : State), s.fget F.CHN_P_STAT_STATE p.val = 2 ∨ s.fget F.CHN_P_STAT_STATE p.val = 3 → s.chn.fwd = [] →
    (let x := s.port p.val
     (x.nak = true → exec (.flitSend p) s = .next ((s.setPort p.val { x with nak := false }).send (0x90 + p.val) 1 (leBytes 2 x.rxCount))) ∧
     (∀ k u, x.nak = false → x.replayFrom = some k → x.unacked.find? (fun u => u.1 == k) = some u →
       (let f := (u.2.headD 0).toNat
        ∃ t c n, exec (.flitSend p) s = .next t ∧ t.tx = s.tx ++ [⟨0x90 + p.val, 0,
          flitBytes (f % 4) (bits f 2 3) (bit f 5) x.rxCount c n (u.2.drop 1)⟩] ∧ (t.port p.val).unacked = x.unacked ∧ s.only t [.chn, .tx])) ∧
     (x.nak = false → x.replayFrom = none → x.pick = none → ∃ t c n, exec (.flitSend p) s = .next t ∧
       t.tx = s.tx ++ [⟨0x90 + p.val, 0, flitBytes 0 0 false x.rxCount c n []⟩] ∧ (t.port p.val).unacked = x.unacked ∧ s.only t [.chn, .tx]) ∧
     (∀ vc kind last body rest, x.nak = false → x.replayFrom = none → x.unacked.length < 256 → x.pick = some vc →
       (x.load vc).left vc = (kind, last, body) :: rest → ∃ t c n, exec (.flitSend p) s = .next t ∧
         t.tx = s.tx ++ [⟨0x90 + p.val, 0, flitBytes vc kind (last == 1) x.rxCount c n body⟩] ∧
         (t.port p.val).unacked = x.unacked ++ [(x.nextNo, BitVec.ofNat 8 (vc + 4 * kind + 32 * last) :: padTo 56 body)] ∧
         (t.port p.val).nextNo = (x.nextNo + 1) % 65536 ∧ (t.port p.val).credits = setAt x.credits vc (x.credits.getD vc 0 - 1) ∧
         (t.port p.val).left vc = rest ∧ s.only t [.chn, .tx]))) ∧
  (∀ (p : Fin 3) (s : State) (g : Seg) (rest : List Seg), s.fget F.CHN_P_STAT_STATE p.val = 4 → s.domOn 6 = true →
    (s.port p.val).queue = g :: rest → exec (.flitSend p) s = .next (s.send (0x90 + p.val) 3 (leBytes 2 g.dest)))

/-- Roll call assigns distinct addresses and routes; segments, completions, messages, forwarded records and chain time act as told.
Derived from: 18_shunto_link: R506, R507, R508, R509, R514, R515; 18_shunto_link: R516, R517, R518, R520, R521, R522. -/
def Obligations.ChainRollCallSegmentsMessagesAndTime : Prop :=
  (∀ s : State, s.domOn 6 = true → ∃ t g, exec .rollCallStart s = .next t ∧ t.flag F.CHN_STAT_ROLL = true ∧ t.chn.claims = [s.ownClaim] ∧
    g.ttype = 5 ∧ g.dest = 0xFFF ∧ g.own.take 11 = claimBytes s.ownClaim ∧
    (∀ q, q < 3 → (t.port q).queue = (s.port q).queue ++ if s.portUp q then [g] else []) ∧ s.only t [.regs, .chn]) ∧
  (∀ s : State, s.flag F.CHN_STAT_ROLL = true → ∃ t, exec .rollCallRootDecided s = .next t ∧ s.only t [.regs] ∧ s.regsOnly t [R.CHN_STAT.at] ∧
    ((∃ c, c ∈ s.chn.claims ∧ c.1 ≠ 255 ∧ c.2.1 = s.boot.unitId ∧
      ∀ e, e ∈ s.chn.claims → e.1 ≠ 255 → c.1 < e.1 ∨ (c.1 = e.1 ∧ c.2.1 ≤ e.2.1)) ↔ t.flag F.CHN_STAT_ROOT = true)) ∧
  (∀ (devs : List ChainDev) (links : Fin 64) (standby : Fin 8) (s : State), s.flag F.CHN_STAT_ROLL = true → (devs.map (·.unit)).Nodup →
    (let held := (s.chn.record.filter (fun r => !devs.any (fun d => d.unit.toNat == r.2))).map (·.1)
     let l := assignAddrs held devs
     (l.map (·.2)).Nodup ∧ ∃ t, exec (.rollCallDirectory devs links standby) s = .next t ∧ t.flag F.CHN_STAT_ROLL = false ∧
       t.fget F.CHN_STAT_TOPO = topology devs links.val ∧
       (∀ a, addrOf l s.boot.unitId = some a → t.chainAddr = a ∧ t.flag F.CHN_STAT_ADDRVALID = true) ∧
       (∀ d a, d ∈ devs → d.unit.toNat ≠ s.boot.unitId → addrOf l d.unit.toNat = some a → t.fget F.CHN_RT_PRIMARY a = portCode d.primary ∧
         t.fget F.CHN_RT_ALT a = if topology devs links.val = 2 then portCode d.alt else 3) ∧ s.only t [.regs, .mem, .chn, .events])) ∧
  (∀ (a : Fin 4095) (s : State), s.flag F.CHN_STAT_ROOT = true → s.route a.val = none → a.val ≠ s.chainAddr →
    ∃ t, exec (.unreachableAddressExpiry a) s = .next t ∧ t.chn = { s.chn with record := s.chn.record.filter (fun r => r.1 != a.val) } ∧
      s.only t [.chn]) ∧
  (∀ (p : Fin 3) (vc : Fin 4) (ok : Bool) (s : State) (g : Seg), s.firstSeg p.val (fun g => g.vc == vc.val) = some g → s.domOn 6 = true →
    (∀ a r, g.ttype = 1 → remotePhys g.ofs = some a → g.len ≠ 0 → g.len ≤ 4096 → remotePhys (g.ofs + g.len - 1) = some (a + g.len - 1) →
      s.loc a ≠ .hole → s.loc (a + g.len - 1) = s.loc a → g.records = [r] → r.zc = false → r.bytes.length ≠ 256 → bit g.flags 1 = false →
      ∃ t, exec (.segmentReceive p vc ok) s = .next t ∧ (t.port p.val).segs = (s.port p.val).segs.erase g ∧
        (∀ w, s.inWindow a g.len = some w → s.inboundKind (s.fget F.CHN_IW_CFG_CTX w) g.cls = 0 →
          (crc32c r.bytes = r.tag → t.mem = (s.store a r.bytes).mem) ∧
          (crc32c r.bytes ≠ r.tag → r.tag < 2 ^ 32 → t.mem = s.mem ∧ t.rget R.MEM_TAGERR = satAdd 32 (s.rget R.MEM_TAGERR) 1)) ∧
        (s.inWindow a g.len = none → t.mem = s.mem ∧ t.rget R.CHN_INDROP = satAdd 32 (s.rget R.CHN_INDROP) 1)) ∧
    (g.ttype = 3 → vc.val ≠ 1 → s.enrolling = false → s.ringEnabled 3 = true → ceilDiv (messageRecord g s.now).length 64 ≤ s.ringSpace 3 →
      ∃ t, exec (.segmentReceive p vc ok) s = .next t ∧ t.mem = (s.commitRecord 3 (messageRecord g s.now)).mem ∧
        (t.port p.val).segs = (s.port p.val).segs.erase g ∧ s.only t [.regs, .mem, .rings, .chn]) ∧
    (g.ttype = 5 → s.flag F.CHN_STAT_ROLL = true → s.chn.claims.contains (parseClaim g) = false →
      ∃ t h, exec (.segmentReceive p vc ok) s = .next t ∧ t.chn.claims = s.chn.claims ++ [parseClaim g] ∧ h.ttype = 5 ∧
        h.own.take 11 = claimBytes (parseClaim g) ∧
        (∀ q, q < 3 → (t.port q).queue = (s.port q).queue ++ if q ≠ p.val ∧ s.portUp q = true then [h] else []) ∧ s.only t [.chn])) ∧
  (∀ (p : Fin 3) (s : State) (g : Seg) (f : Flight), s.firstSeg p.val (fun g => g.ttype == 4) = some g →
    s.chn.flights.find? (fun f => f.xfer == g.xfer && f.ofs == g.ofs) = some f →
    (leAt g.own 0 1 = 0 → ∃ t, exec (.segmentCompletion p) s = .next t ∧ t.chn.flights = s.chn.flights.filter (fun x => x != f) ∧
      (f.owner = 0x100 → t.flag F.CHN_MSGSTAT_BUSY = false ∧ t.fget F.CHN_MSGSTAT_RESULT = 1) ∧ s.only t [.regs, .chn]) ∧
    (leAt g.own 0 1 ≠ 0 → ∃ t, exec (.segmentCompletion p) s = .next t ∧
      t.rget R.CHN_E2EFAIL = satAdd 32 (s.rget R.CHN_E2EFAIL) 1 ∧ t.chn.flights = s.chn.flights.filter (fun x => x.owner != f.owner) ∧
      (f.owner = 0x100 → t.flag F.CHN_MSGSTAT_BUSY = false ∧ t.fget F.CHN_MSGSTAT_RESULT = 4))) ∧
  (∀ (x o : Word) (s : State) (f : Flight), s.chn.flights.find? (fun f => f.xfer == x.toNat && f.ofs == o.toNat) = some f →
    f.sentTb + max 1 (s.fget F.CHN_E2E_US) * 1000 ≤ s.now →
    (f.resent = false → ∃ t, exec (.e2eTimeout x o) s = .next t ∧ s.only t [.chn] ∧
      t.chn.flights = s.chn.flights.map (fun x => if x = f then { x with sentTb := s.now, resent := true } else x) ∧
      ∀ q, q < 3 → f.seg.dest ≠ 0xFFF → s.route f.seg.dest = some q → (t.port q).queue = (s.port q).queue ++ [f.seg]) ∧
    (f.resent = true → f.owner = 0x100 → ∃ t, exec (.e2eTimeout x o) s = .next t ∧ t.fget F.CHN_MSGSTAT_RESULT = 3 ∧
      t.flag F.CHN_MSGSTAT_BUSY = false ∧ t.rget R.CHN_E2EFAIL = satAdd 32 (s.rget R.CHN_E2EFAIL) 1)) ∧
  (∀ (p : Fin 3) (s : State) (g : Seg), s.firstSeg p.val (fun g => g.ttype == 3 && g.vc == 1) = some g →
    (s.ringEnabled 3 = true → 2 ≤ s.ringSpace 3 → ∃ t e, exec (.forwardRecordReceive p) s = .next t ∧ e.length = 64 ∧ leAt e 0 1 = 0x60 ∧
      leAt e 16 2 = g.src ∧ t.mem = (s.commitRecord 3 (e ++ padTo 64 g.message)).mem ∧ s.only t [.regs, .mem, .rings, .chn]) ∧
    (s.ringEnabled 3 = false ∨ s.ringSpace 3 < 2 → ∃ t, exec (.forwardRecordReceive p) s = .next t ∧
      t.rget R.LDG_RINGDROP = satAdd 32 (s.rget R.LDG_RINGDROP) 1 ∧ s.only t [.regs, .chn])) ∧
  (∀ (s : State) (b : List Byte) (rest : List (List Byte)), s.chn.fwd = b :: rest → ∃ t, exec .forwardDropTimeout s = .next t ∧
    t.chn = { s.chn with fwd := rest } ∧ t.rget R.CHN_FWDDROP = satAdd 32 (s.rget R.CHN_FWDDROP) 1 ∧ s.only t [.regs, .chn]) ∧
  (∀ (r : Req) (v : Word) (s : State) (q : Nat), s.homeReq r → s.flag F.CHN_MSGSTAT_BUSY = false → s.flag F.CHN_STAT_ADDRVALID = true →
    s.fget F.CHN_MSGDST_VC = 0 ∨ s.fget F.CHN_MSGDST_VC = 3 → s.fget F.CHN_MSGDST_DEST ≠ 0xFFF → getField v 0 11 ≤ 1024 →
    s.route (s.fget F.CHN_MSGDST_DEST) = some q →
    ∃ t g, exec (.chnMessageSend r v) s = .next t ∧ t.flag F.CHN_MSGSTAT_BUSY = true ∧ t.fget F.CHN_MSGSTAT_RESULT = 0 ∧
      (t.port q).queue = (s.port q).queue ++ [g] ∧ g.ttype = 3 ∧ g.dest = s.fget F.CHN_MSGDST_DEST ∧ g.len = getField v 0 11 ∧
      g.message = (List.range (getField v 0 11)).map (fun i =>
        s.physByte (s.rget R.CHN_MSGSRC_LO + 2 ^ 32 * (s.rget R.CHN_MSGSRC_HI % 256) + i)) ∧
      t.chn.flights = s.chn.flights ++ [⟨0x100, s.chn.nextXfer, 0, g, s.now, false⟩] ∧ s.only t [.regs, .chn]) ∧
  (∀ (lower any : Bool) (s : State),
    (let m := s.flag F.CHN_STAT_ADDRVALID && (if s.flag F.HOST_TSYNC_SYNCED then !lower else s.flag F.CHN_STAT_ROOT && !any)
     ∃ t g, exec (.chainTimeBroadcast lower any) s = .next t ∧ t.flag F.CHN_STAT_TMASTER = m ∧ g.ttype = 6 ∧ leAt g.own 0 8 = s.wallTime ∧
       (∀ q, q < 3 → (t.port q).queue = (s.port q).queue ++ if m && s.portUp q then [g] else []) ∧ s.only t [.regs, .chn])) ∧
  (∀ (p : Fin 3) (resid : Half) (s : State) (g : Seg), s.firstSeg p.val (fun g => g.ttype == 6) = some g → g.body.length = 56 →
    (let follow := s.flag F.CHN_CTL_TIMEEN && !s.flag F.HOST_TSYNC_SYNCED
     let add := s.fget F.CHN_P_DELAY_NS p.val + leAt g.own 8 8
     ∃ t, exec (.chainTimeReceive p resid) s = .next t ∧ t.flag F.CHN_STAT_TFOLLOW = follow ∧
       t.wallTime = (if follow then (leAt g.own 0 8 + add) % 2 ^ 64 else s.wallTime) ∧
       (1 < g.hops → ∃ f, f.hops = g.hops - 1 ∧ leAt f.own 0 8 = leAt g.own 0 8 ∧ leAt f.own 8 8 = (add + resid.toNat) % 2 ^ 64 ∧
         ∀ q, q < 3 → q ≠ p.val → (t.port q).queue = (s.port q).queue ++ if s.portUp q then [f] else []) ∧
       s.only t [.regs, .chn, .ledger, .events])) ∧
  (∀ (p : Fin 3) (ns : Half) (s : State), s.portUp p.val = true → ∃ t, exec (.linkDelayMeasure p ns) s = .next t ∧
    t.fget F.CHN_P_DELAY_NS p.val = ns.toNat ∧ s.only t [.regs] ∧ s.regsOnly t [R.CHN_P_DELAY.at p.val]) ∧
  (∀ s : State, s.enrolling = true → s.flag F.CHN_STAT_ADDRVALID = true → ∃ t g, exec .imageRequestBroadcast s = .next t ∧ g.ttype = 3 ∧
    g.dest = 0xFFF ∧ leAt g.own 0 1 = 1 ∧ g.message = leBytes 8 s.boot.unitId ++ leBytes 4 (s.rget R.SYS_PARTID) ∧
    (∀ q, q < 3 → (t.port q).queue = (s.port q).queue ++ if s.portUp q then [g] else []) ∧ s.only t [.chn])

/-- The TAP answers the identification code, scans the balls, bypasses what it does not decode, and opens debug only with DBGEN.
Derived from: 20_package_and_straps: R570, R571; 21_identification_and_debug: R573, Table 21-1; 19_power_clock_reset: R538. -/
def Obligations.TapInstructionsSelectAndAnswer : Prop :=
  (∀ s : State, ∃ t, exec .tapIdcode s = .next t ∧ t.tap = { s.tap with ir := 1 } ∧ t.resp.error = false ∧ t.resp.data.length = 4 ∧
    leAt t.resp.data 0 4 = s.fget F.SYS_PARTID_STEP * 2 ^ 28 + s.fget F.SYS_PARTID_PART * 2 ^ 12 + 0x8F7 ∧ s.only t [.tap, .resp]) ∧
  (∀ (pins shift : BitVec 21) (s : State), ∃ t, exec (.tapExtest pins shift) s = .next t ∧ t.tap = { s.tap with ir := 0, bsr := shift } ∧
    t.resp = ⟨false, leBytes 3 pins.toNat⟩ ∧ s.only t [.tap, .resp]) ∧
  (∀ (pins shift : BitVec 21) (s : State), ∃ t, exec (.tapSamplePreload pins shift) s = .next t ∧
    t.tap = { s.tap with ir := 2, bsr := shift } ∧ t.resp = ⟨false, leBytes 3 pins.toNat⟩ ∧ s.only t [.tap, .resp]) ∧
  (∀ (code tdi : Byte) (s : State), 2 < code.toNat → (code ≠ 0x10 ∧ code ≠ 0x11) ∨ s.flag F.SYS_STRAP_DBGEN = false →
    ∃ t, exec (.tapBypass code tdi) s = .next t ∧ t.tap = { s.tap with ir := code, dr := tdi.msb } ∧ t.resp = ⟨false, [tdi <<< 1]⟩ ∧
      s.only t [.tap, .resp]) ∧
  (∀ (dmi : Bool) (set : Option (Fin 2 × Word)) (s : State), s.flag F.SYS_STRAP_DBGEN = false →
    ∃ t, exec (.tapDebugAccess dmi set) s = .next t ∧ t.tap = { s.tap with ir := if dmi then 0x11 else 0x10, dr := false } ∧
      s.only t [.tap, .resp]) ∧
  (∀ (dmi : Bool) (s : State), s.flag F.SYS_STRAP_DBGEN = true → ∃ t, exec (.tapDebugAccess dmi none) s = .next t ∧
    t.tap = { s.tap with ir := if dmi then 0x11 else 0x10 } ∧ t.resp.error = false ∧ t.resp.data.length = 5 ∧
    s.only t [.tap, .resp, .free]) ∧
  (∀ (p : Fin 2) (v : Word) (s : State), s.flag F.SYS_STRAP_DBGEN = true → s.domOn 2 = true →
    classTable (getField v 0 3) (getField v 4 3) = true → ∃ t, exec (.tapDebugAccess true (some (p, v))) s = .next t ∧
      t.lyctx0 = (if p.val = 0 then v &&& 0x77 else s.lyctx0) ∧ t.lyctx1 = (if p.val = 1 then v &&& 0x77 else s.lyctx1) ∧
      s.only t [.lyctx0, .lyctx1, .tap, .resp, .free]) ∧
  (∀ s : State, exec .tapReset s = .next (s.setTap { s.tap with ir := 0x01, dr := false }))
end

