-- ==== Sys2Proof/Laws/Bits.lean ====
section
/-! SUPPORT. The laws of bit fields. -/

namespace Sys2Proof.Machine

theorem getField_lt (v : Word) (lo w : Nat) : getField v lo w < 2 ^ w := Nat.mod_lt _ (Nat.two_pow_pos w)

theorem testBit_getField (v : Word) (lo w i : Nat) : (getField v lo w).testBit i = (decide (i < w) && v.getLsbD (lo + i)) := by
  simp [getField, bits, Nat.testBit_mod_two_pow, Nat.testBit_shiftRight, BitVec.getLsbD]

theorem getLsbD_fieldMask (hi lo i : Nat) (h : hi < 32) (hl : lo ≤ hi + 1) :
    (fieldMask hi lo).getLsbD i = (decide (lo ≤ i) && decide (i ≤ hi)) := by
  simp only [fieldMask, BitVec.getLsbD_ofNat, Nat.testBit_shiftLeft, Nat.testBit_two_pow_sub_one]
  rw [Bool.eq_iff_iff]
  simp only [Bool.and_eq_true, decide_eq_true_eq]
  omega

theorem getLsbD_setField (v : Word) (lo w x i : Nat) (h : lo + w ≤ 32) (hw : 0 < w) :
    (setField v lo w x).getLsbD i = if lo ≤ i ∧ i < lo + w then x.testBit (i - lo) else v.getLsbD i := by
  have hv : ¬ i < 32 → v.getLsbD i = false := fun h => BitVec.getLsbD_of_ge _ _ (by omega)
  simp only [setField, BitVec.getLsbD_or, BitVec.getLsbD_and, BitVec.getLsbD_not, BitVec.getLsbD_ofNat,
    Nat.testBit_shiftLeft, Nat.testBit_mod_two_pow, getLsbD_fieldMask (lo + w - 1) lo i (by omega) (by omega)]
  by_cases h1 : lo ≤ i ∧ i < lo + w
  · have h2 : i < 32 := by omega
    have h3 : i ≤ lo + w - 1 := by omega
    have h4 : i - lo < w := by omega
    simp [h1, h2, h3, h4]
  · have h5 : (decide (lo ≤ i) && decide (i ≤ lo + w - 1)) = false := by
      rw [Bool.and_eq_false_iff, decide_eq_false_iff_not, decide_eq_false_iff_not]; omega
    have h6 : (decide (i ≥ lo) && (decide (i - lo < w) && x.testBit (i - lo))) = false := by
      by_cases h7 : lo ≤ i
      · have : ¬ i - lo < w := by omega
        simp [this]
      · simp [h7]
    rw [if_neg h1, h5, h6]
    by_cases h2 : i < 32
    · simp [h2]
    · simp [hv h2, h2]

/-- A field reads what was put into it. -/
theorem getField_setField_self (v : Word) (lo w x : Nat) (h : lo + w ≤ 32) (hw : 0 < w) :
    getField (setField v lo w x) lo w = x % 2 ^ w := by
  apply Nat.eq_of_testBit_eq
  intro i
  rw [testBit_getField, Nat.testBit_mod_two_pow, getLsbD_setField v lo w x (lo + i) h hw]
  by_cases hi : i < w
  · simp [hi, show lo ≤ lo + i by omega]
  · simp [hi]

/-- Putting a field leaves a field that shares no bit with it alone. -/
theorem getField_setField_disjoint (v : Word) (lo w x lo' w' : Nat) (h : lo + w ≤ 32) (hw : 0 < w)
    (hd : lo' + w' ≤ lo ∨ lo + w ≤ lo') : getField (setField v lo w x) lo' w' = getField v lo' w' := by
  apply Nat.eq_of_testBit_eq
  intro i
  rw [testBit_getField, testBit_getField, getLsbD_setField v lo w x (lo' + i) h hw]
  by_cases hi : i < w'
  · have : ¬ (lo ≤ lo' + i ∧ lo' + i < lo + w) := by omega
    simp [hi, this]
  · simp [hi]

end Sys2Proof.Machine
end

