-- ==== Sys2Proof/Laws/Crypto.lean ====
section
/-! SUPPORT. Sealing and opening are inverse (R474): a message sealed with a key opens to itself, 16 bytes longer while sealed. -/

namespace Sys2Proof.Machine

/-- A number takes as many bytes as it is given. -/
theorem leBytes_length (n v : Nat) : (leBytes n v).length = n := by
  induction n generalizing v with
  | zero => rfl
  | succ n ih => rw [leBytes, List.length_cons, ih]

/-- A block of 16 bytes comes out of a key schedule whose last round key has 16. -/
theorem aesEncrypt_length (key blk : List Byte) (h : ((aesKeys key).getD 14 []).length = 16) : (aesEncrypt key blk).length = 16 := by
  simp only [aesEncrypt, xorBytes, List.length_map, List.length_zipWith, h, shiftRows, List.length_range]
  rfl

/-- A key stream laid over twice is gone. -/
theorem xor_twice (b k : List Byte) (h : b.length ≤ k.length) : List.zipWith (· ^^^ ·) (List.zipWith (· ^^^ ·) b k) k = b := by
  induction b generalizing k with
  | nil => rfl
  | cons x t ih =>
    cases k with
    | nil => simp at h
    | cons y u =>
      simp only [List.zipWith_cons_cons, List.length_cons, Nat.add_le_add_iff_right] at h ⊢
      rw [ih u h, BitVec.xor_assoc, BitVec.xor_self, BitVec.xor_zero]

/-- The key stream laid over the chunks of a message, from chunk `i` on. -/
def overlay (k : Nat → List Byte) (i : Nat) : List (List Byte) → List Byte
  | [] => []
  | b :: t => List.zipWith (· ^^^ ·) b (k i) ++ overlay k (i + 1) t

/-- The key stream as counter mode lays it over a message. -/
theorem overlay_mapIdx (k : Nat → List Byte) (i : Nat) (l : List (List Byte)) :
    (l.mapIdx (fun j b => List.zipWith (· ^^^ ·) b (k (j + i)))).flatMap id = overlay k i l := by
  induction l generalizing i with
  | nil => rfl
  | cons b t ih =>
    rw [List.mapIdx_cons, List.flatMap_cons, overlay, id_eq, Nat.zero_add, ← ih (i + 1)]
    congr 3
    funext j c
    rw [show j + 1 + i = j + (i + 1) by omega]

/-- Laid over the chunks of a message and over those of the result, it gives the message. -/
theorem overlay_chunks (k : Nat → List Byte) (hk : ∀ i, (k i).length = 16) (f i : Nat) (l : List Byte) (h : l.length ≤ 16 * f) :
    (overlay k i (chunksOf 16 f l)).length = l.length ∧ overlay k i (chunksOf 16 f (overlay k i (chunksOf 16 f l))) = l := by
  induction f generalizing l i with
  | zero => cases l with
    | nil => exact ⟨rfl, rfl⟩
    | cons a t => simp at h
  | succ f ih =>
    cases l with
    | nil => exact ⟨rfl, rfl⟩
    | cons a t =>
      have h' : ((a :: t).drop 16).length ≤ 16 * f := by
        rw [List.length_drop]
        omega
      obtain ⟨hl, hi⟩ := ih (i + 1) _ h'
      have hc : overlay k i (chunksOf 16 (f + 1) (a :: t)) =
          List.zipWith (· ^^^ ·) ((a :: t).take 16) (k i) ++ overlay k (i + 1) (chunksOf 16 f ((a :: t).drop 16)) := rfl
      have hz : (List.zipWith (fun x y : Byte => x ^^^ y) ((a :: t).take 16) (k i)).length = ((a :: t).take 16).length := by
        rw [List.length_zipWith, hk, List.length_take]
        omega
      have hlen : (overlay k i (chunksOf 16 (f + 1) (a :: t))).length = (a :: t).length := by
        rw [hc, List.length_append, hz, hl, ← List.length_append, List.take_append_drop]
      refine ⟨hlen, ?_⟩
      generalize hm : overlay k i (chunksOf 16 (f + 1) (a :: t)) = m at hlen hc ⊢
      have ht : m.take 16 = List.zipWith (· ^^^ ·) ((a :: t).take 16) (k i) ∧
          m.drop 16 = overlay k (i + 1) (chunksOf 16 f ((a :: t).drop 16)) := by
        by_cases h16 : 16 ≤ (a :: t).length
        · have : (List.zipWith (fun x y : Byte => x ^^^ y) ((a :: t).take 16) (k i)).length = 16 := by
            rw [hz, List.length_take]
            omega
          rw [hc]
          exact ⟨List.take_left' this, List.drop_left' this⟩
        · have h0 : (a :: t).drop 16 = [] := List.drop_eq_nil_of_le (by omega)
          have h1 : overlay k (i + 1) (chunksOf 16 f ((a :: t).drop 16)) = [] := by
            rw [h0]
            cases f <;> rfl
          rw [h1, List.append_nil] at hc
          rw [h1, hc]
          have : (List.zipWith (fun x y : Byte => x ^^^ y) ((a :: t).take 16) (k i)).length ≤ 16 := by
            rw [hz, List.length_take]
            omega
          exact ⟨List.take_of_length_le this, List.drop_eq_nil_of_le this⟩
      have hu : overlay k i (chunksOf 16 (f + 1) m) =
          List.zipWith (· ^^^ ·) (m.take 16) (k i) ++ overlay k (i + 1) (chunksOf 16 f (m.drop 16)) := by
        cases m with
        | nil => simp at hlen
        | cons x u => rfl
      rw [hu, ht.1, ht.2, hi, xor_twice _ _ (by rw [hk, List.length_take]; omega), List.take_append_drop]

/-- What is sealed opens. -/
theorem gcm_opens (key nonce aad p : List Byte) (h : ((aesKeys key).getD 14 []).length = 16) :
    (gcmSeal key nonce aad p).length = p.length + 16 ∧ gcmOpen key nonce aad (gcmSeal key nonce aad p) = some p := by
  have hk : ∀ i, (aesEncrypt key (nonce ++ beBytes 4 (i + 2))).length = 16 := fun i => aesEncrypt_length _ _ h
  have hctr : ∀ m : List Byte, gcmCtr key nonce m =
      overlay (fun i => aesEncrypt key (nonce ++ beBytes 4 (i + 2))) 0 (chunksOf 16 (m.length / 16 + 1) m) := fun m => by
    rw [← overlay_mapIdx]
    rfl
  have hf : p.length ≤ 16 * (p.length / 16 + 1) := by omega
  obtain ⟨hl, hi⟩ := overlay_chunks _ hk (p.length / 16 + 1) 0 p hf
  rw [← hctr] at hl
  have hback : gcmCtr key nonce (gcmCtr key nonce p) = p := by
    rw [hctr (gcmCtr key nonce p), hl, hctr p]
    exact hi
  have ht : ∀ c, (gcmTag key nonce aad c).length = 16 := fun c => by
    simp only [gcmTag, List.length_zipWith, aesEncrypt_length _ _ h]
    simp [beBytes, leBytes_length]
  have hs : (gcmSeal key nonce aad p).length = p.length + 16 := by
    rw [gcmSeal, List.length_append, hl, ht]
  refine ⟨hs, ?_⟩
  rw [gcmOpen, hs]
  have h1 : (gcmSeal key nonce aad p).take (p.length + 16 - 16) = gcmCtr key nonce p := by
    rw [gcmSeal, Nat.add_sub_cancel]
    exact List.take_left' hl
  have h2 : (gcmSeal key nonce aad p).drop (p.length + 16 - 16) = gcmTag key nonce aad (gcmCtr key nonce p) := by
    rw [gcmSeal, Nat.add_sub_cancel]
    exact List.drop_left' hl
  simp only [h1, h2, hback]
  rw [if_pos ⟨by omega, trivial⟩]

end Sys2Proof.Machine
end

