-- ==== Sys2Proof/Laws/Sparse.lean ====
section
/-! SUPPORT. The laws of sparse tables: reading after a write, and the canonical form that every operation keeps. -/

namespace Sys2Proof.Machine.Sparse

variable {α : Type} (d : Nat → α)

theorem get_drop_self (l : List (Nat × α)) (k : Nat) : get d (drop l k) k = d k := by
  induction l with
  | nil => rfl
  | cons e t ih =>
    by_cases h : e.1 = k
    · simpa [drop, h] using ih
    · simpa [drop, h, get, Ne.symm h] using ih

theorem get_drop_ne (l : List (Nat × α)) {k k' : Nat} (h : k' ≠ k) : get d (drop l k) k' = get d l k' := by
  induction l with
  | nil => rfl
  | cons e t ih =>
    by_cases he : e.1 = k
    · simpa [drop, he, get, h] using ih
    · by_cases hk : k' = e.1
      · simp [drop, he, get, hk]
      · simpa [drop, he, get, hk] using ih

theorem get_insert_self (l : List (Nat × α)) (k : Nat) (v : α) (h : ∀ e ∈ l, e.1 ≠ k) : get d (insert l k v) k = v := by
  induction l with
  | nil => simp [insert, get]
  | cons e t ih =>
    have he : k ≠ e.1 := fun x => h e (by simp) x.symm
    by_cases hk : k < e.1
    · simp [insert, hk, get]
    · simpa [insert, hk, get, he] using ih (fun x hx => h x (by simp [hx]))

theorem get_insert_ne (l : List (Nat × α)) {k k' : Nat} (v : α) (h : k' ≠ k) : get d (insert l k v) k' = get d l k' := by
  induction l with
  | nil => simp [insert, get, h]
  | cons e t ih =>
    by_cases hk : k < e.1
    · simp [insert, hk, get, h]
    · simp [insert, hk, get, ih]

variable [DecidableEq α]

/-- A key reads what was written to it. -/
@[simp] theorem get_put_self (l : List (Nat × α)) (k : Nat) (v : α) : get d (put d l k v) k = v := by
  unfold put
  split
  · next h => rw [get_drop_self, h]
  · exact get_insert_self d _ k v (by simp [drop])

/-- A write leaves every other key alone. -/
theorem get_put_ne (l : List (Nat × α)) {k k' : Nat} (v : α) (h : k' ≠ k) : get d (put d l k v) k' = get d l k' := by
  unfold put
  split
  · exact get_drop_ne d l h
  · rw [get_insert_ne d _ v h, get_drop_ne d l h]

/-- Reading after a write, both cases. -/
theorem get_put (l : List (Nat × α)) (k k' : Nat) (v : α) :
    get d (put d l k v) k' = if k' = k then v else get d l k' := by
  by_cases h : k' = k
  · simp [h]
  · simp [h, get_put_ne d l v h]

/-- A cleared key reads as unlisted, another as before. -/
theorem get_clear (p : Nat → Bool) (l : List (Nat × α)) (k : Nat) :
    get d (clear p l) k = if p k then d k else get d l k := by
  induction l with
  | nil => simp [clear, get]
  | cons e t ih =>
    rcases e with ⟨k', v⟩
    by_cases hp : p k'
    · by_cases hk : k = k'
      · subst hk
        simpa [clear, hp, get] using ih
      · simpa [clear, hp, get, hk] using ih
    · by_cases hk : k = k'
      · subst hk
        simp [clear, hp, get]
      · simpa [clear, hp, get, hk] using ih

/-! ### The canonical form -/

theorem wfFrom_mono {lo lo' : Nat} (h : lo ≤ lo') (l : List (Nat × α)) (hl : wfFrom d lo' l = true) :
    wfFrom d lo l = true := by
  cases l with
  | nil => rfl
  | cons e t =>
    simp only [wfFrom, Bool.and_eq_true, decide_eq_true_eq] at hl ⊢
    exact ⟨⟨Nat.le_trans h hl.1.1, hl.1.2⟩, hl.2⟩

theorem wfFrom_filter (q : Nat × α → Bool) (lo : Nat) (l : List (Nat × α)) (h : wfFrom d lo l = true) :
    wfFrom d lo (l.filter q) = true := by
  induction l generalizing lo with
  | nil => rfl
  | cons e t ih =>
    simp only [wfFrom, Bool.and_eq_true, decide_eq_true_eq] at h
    have ht := ih (e.1 + 1) h.2
    by_cases hq : q e
    · simp only [List.filter_cons, hq, if_true, wfFrom, Bool.and_eq_true, decide_eq_true_eq]
      exact ⟨h.1, ht⟩
    · simp only [List.filter_cons, hq]
      exact wfFrom_mono d (by omega) _ ht

theorem wfFrom_insert (lo : Nat) (l : List (Nat × α)) (k : Nat) (v : α) (h : wfFrom d lo l = true) (hlo : lo ≤ k)
    (hv : v ≠ d k) (hk : ∀ e ∈ l, e.1 ≠ k) : wfFrom d lo (insert l k v) = true := by
  induction l generalizing lo with
  | nil => simp [insert, wfFrom, hlo, hv]
  | cons e t ih =>
    simp only [wfFrom, Bool.and_eq_true, decide_eq_true_eq] at h
    have he : e.1 ≠ k := hk e (by simp)
    by_cases hlt : k < e.1
    · simp only [insert, hlt, if_true, wfFrom, Bool.and_eq_true, decide_eq_true_eq]
      exact ⟨⟨hlo, hv⟩, ⟨by omega, h.1.2⟩, h.2⟩
    · simp only [insert, hlt, if_false, wfFrom, Bool.and_eq_true, decide_eq_true_eq]
      exact ⟨h.1, ih (e.1 + 1) h.2 (by omega) (fun x hx => hk x (by simp [hx]))⟩

/-- A write keeps the canonical form. -/
theorem wf_put (l : List (Nat × α)) (k : Nat) (v : α) (h : wf d l = true) : wf d (put d l k v) = true := by
  unfold put
  have hd : wfFrom d 0 (drop l k) = true := wfFrom_filter d _ 0 l h
  split
  · exact hd
  · next hv => exact wfFrom_insert d 0 _ k v hd (Nat.zero_le k) hv (by simp [drop])

/-- A clearing keeps the canonical form. -/
theorem wf_clear (p : Nat → Bool) (l : List (Nat × α)) (h : wf d l = true) : wf d (clear p l) = true :=
  wfFrom_filter d _ 0 l h

/-- Leaving entries out keeps the canonical form. -/
theorem wf_filter (q : Nat × α → Bool) (l : List (Nat × α)) (h : wf d l = true) : wf d (l.filter q) = true :=
  wfFrom_filter d q 0 l h

end Sys2Proof.Machine.Sparse
end

