-- ==== Sys2Proof/Laws/Regs.lean ====
section
/-! SUPPORT. The laws of registers and their fields: what a read gives after a write, the same place or another. -/

namespace Sys2Proof.Machine

variable (s : State)

@[simp] theorem State.rd_wr_self (a : Nat) (v : Word) : (s.wr a v).rd a = v := by simp [State.rd, State.wr]

theorem State.rd_wr_ne {a b : Nat} (v : Word) (h : b ≠ a) : (s.wr a v).rd b = s.rd b := by
  simp [State.rd, State.wr, Sparse.get_put_ne _ _ _ h]

theorem State.rd_wr (a b : Nat) (v : Word) : (s.wr a v).rd b = if b = a then v else s.rd b := by
  simp [State.rd, State.wr, Sparse.get_put]

theorem State.rd_rset_ne (r : RegDesc) (v i j a : Nat) (h : a ≠ r.at i j) : (s.rset r v i j).rd a = s.rd a :=
  s.rd_wr_ne _ h

theorem State.rd_fset_ne (f : Fld) (v i j a : Nat) (h : a ≠ f.reg.at i j) : (s.fset f v i j).rd a = s.rd a :=
  s.rd_wr_ne _ h

theorem State.rd_setFlag_ne (f : Fld) (b : Bool) (i j a : Nat) (h : a ≠ f.reg.at i j) : (s.setFlag f b i j).rd a = s.rd a :=
  s.rd_wr_ne _ h

theorem State.rd_count_ne (r : RegDesc) (n i j a : Nat) (h : a ≠ r.at i j) : (s.count r n i j).rd a = s.rd a :=
  s.rd_wr_ne _ h

theorem State.rd_fcount_ne (f : Fld) (n i j a : Nat) (h : a ≠ f.reg.at i j) : (s.fcount f n i j).rd a = s.rd a :=
  s.rd_wr_ne _ h

theorem State.rd_countWrap_ne (r : RegDesc) (n i j a : Nat) (h : a ≠ r.at i j) : (s.countWrap r n i j).rd a = s.rd a :=
  s.rd_wr_ne _ h

@[simp] theorem State.rget_rset_self (r : RegDesc) (v i j : Nat) : (s.rset r v i j).rget r i j = v % 2 ^ 32 := by
  simp [State.rget, State.rset]

@[simp] theorem State.rget_count_self (r : RegDesc) (n i j : Nat) :
    (s.count r n i j).rget r i j = satAdd 32 (s.rget r i j) n := by
  have h : satAdd 32 (s.rget r i j) n < 2 ^ 32 := by unfold satAdd; split <;> omega
  simp only [State.count, State.rget_rset_self]
  exact Nat.mod_eq_of_lt h

@[simp] theorem State.rget_countWrap_self (r : RegDesc) (n i j : Nat) :
    (s.countWrap r n i j).rget r i j = (s.rget r i j + n) % 2 ^ 32 := by
  simp [State.countWrap]

/-- A field reads what was put into it. -/
theorem State.fget_fset_self (f : Fld) (v i j : Nat) (h : f.lo + f.width ≤ 32) (hw : 0 < f.width) :
    (s.fset f v i j).fget f i j = v % 2 ^ f.width := by
  simp only [State.fget, State.fset, State.rd_wr_self]
  exact getField_setField_self _ _ _ _ h hw

/-- Putting a field of a register leaves its other fields alone. -/
theorem State.fget_fset_other (f g : Fld) (v i j : Nat) (hr : g.reg = f.reg) (h : f.lo + f.width ≤ 32) (hw : 0 < f.width)
    (hd : g.lo + g.width ≤ f.lo ∨ f.lo + f.width ≤ g.lo) : (s.fset f v i j).fget g i j = s.fget g i j := by
  simp only [State.fget, State.fset, hr, State.rd_wr_self]
  exact getField_setField_disjoint _ _ _ _ _ _ h hw hd

/-- Putting a field leaves every other register alone. -/
theorem State.fget_fset_ne (f g : Fld) (v i j i' j' : Nat) (h : g.reg.at i' j' ≠ f.reg.at i j) :
    (s.fset f v i j).fget g i' j' = s.fget g i' j' := by
  simp only [State.fget, State.rd_fset_ne s f v i j _ h]

theorem State.fget_rset_ne (r : RegDesc) (g : Fld) (v i j i' j' : Nat) (h : g.reg.at i' j' ≠ r.at i j) :
    (s.rset r v i j).fget g i' j' = s.fget g i' j' := by
  simp only [State.fget, State.rd_rset_ne s r v i j _ h]

theorem State.rget_fset_ne (f : Fld) (r : RegDesc) (v i j i' j' : Nat) (h : r.at i' j' ≠ f.reg.at i j) :
    (s.fset f v i j).rget r i' j' = s.rget r i' j' := by
  simp only [State.rget, State.rd_fset_ne s f v i j _ h]

theorem State.rget_rset_ne (r q : RegDesc) (v i j i' j' : Nat) (h : q.at i' j' ≠ r.at i j) :
    (s.rset r v i j).rget q i' j' = s.rget q i' j' := by
  simp only [State.rget, State.rd_rset_ne s r v i j _ h]

/-- A flag reads what it was set to. -/
theorem State.flag_setFlag_self (f : Fld) (b : Bool) (i j : Nat) (h : f.lo + f.width ≤ 32) (hw : 0 < f.width) :
    (s.setFlag f b i j).flag f i j = b := by
  have h2 : 1 < 2 ^ f.width := Nat.one_lt_two_pow (by omega)
  simp only [State.flag, State.setFlag, State.fget_fset_self s f _ i j h hw]
  cases b <;> simp [b2n, Nat.mod_eq_of_lt h2]

theorem State.flag_setFlag_other (f g : Fld) (b : Bool) (i j : Nat) (hr : g.reg = f.reg) (h : f.lo + f.width ≤ 32)
    (hw : 0 < f.width) (hd : g.lo + g.width ≤ f.lo ∨ f.lo + f.width ≤ g.lo) : (s.setFlag f b i j).flag g i j = s.flag g i j := by
  simp only [State.flag, State.setFlag, State.fget_fset_other s f g _ i j hr h hw hd]

theorem State.flag_fset_other (f g : Fld) (v i j : Nat) (hr : g.reg = f.reg) (h : f.lo + f.width ≤ 32)
    (hw : 0 < f.width) (hd : g.lo + g.width ≤ f.lo ∨ f.lo + f.width ≤ g.lo) : (s.fset f v i j).flag g i j = s.flag g i j := by
  simp only [State.flag, State.fget_fset_other s f g _ i j hr h hw hd]

theorem State.fget_setFlag_other (f g : Fld) (b : Bool) (i j : Nat) (hr : g.reg = f.reg) (h : f.lo + f.width ≤ 32)
    (hw : 0 < f.width) (hd : g.lo + g.width ≤ f.lo ∨ f.lo + f.width ≤ g.lo) : (s.setFlag f b i j).fget g i j = s.fget g i j := by
  simp only [State.setFlag, State.fget_fset_other s f g _ i j hr h hw hd]

theorem State.flag_fset_ne (f g : Fld) (v i j i' j' : Nat) (h : g.reg.at i' j' ≠ f.reg.at i j) :
    (s.fset f v i j).flag g i' j' = s.flag g i' j' := by
  simp only [State.flag, State.fget_fset_ne s f g v i j i' j' h]

theorem State.flag_setFlag_ne (f g : Fld) (b : Bool) (i j i' j' : Nat) (h : g.reg.at i' j' ≠ f.reg.at i j) :
    (s.setFlag f b i j).flag g i' j' = s.flag g i' j' :=
  State.flag_fset_ne s f g _ i j i' j' h

end Sys2Proof.Machine
end

