-- ==== Sys2Proof/Laws/Memory.lean ====
section
/-! SUPPORT. The laws of SRAM and of the storage array: what a byte reads after a write, and the canonical form that every operation
on them keeps. -/

namespace Sys2Proof.Machine

/-! ### Bytes -/

@[simp] theorem Memory.byte_setByte (m : Memory) (a b : Nat) (v : Byte) : (m.setByte a v).byte b = if b = a then v else m.byte b := by
  simp [Memory.byte, Memory.setByte, Sparse.get_put]

/-- A byte outside the stored ones reads as before; a stored one reads what was stored. -/
theorem Memory.byte_store (m : Memory) (a : Nat) (l : List Byte) (b : Nat) :
    (m.store a l).byte b = if a ≤ b ∧ b < a + l.length then l.getD (b - a) 0 else m.byte b := by
  induction l generalizing m a with
  | nil => simp [Memory.store]
  | cons v t ih =>
    simp only [Memory.store, ih, Memory.byte_setByte, List.length_cons]
    by_cases h : b = a
    · subst h
      have h1 : ¬(b + 1 ≤ b ∧ b < b + 1 + t.length) := by omega
      simp [h1]
    · by_cases h2 : a + 1 ≤ b ∧ b < a + 1 + t.length
      · have h3 : a ≤ b ∧ b < a + (t.length + 1) := by omega
        have h4 : b - a = (b - (a + 1)) + 1 := by omega
        simp [h2, h3, h4]
      · have h3 : ¬(a ≤ b ∧ b < a + (t.length + 1)) := by omega
        rw [if_neg h2, if_neg h, if_neg h3]

@[simp] theorem Memory.byte_setTagDiff (m : Memory) (k : Nat) (x : Word) (b : Nat) : (m.setTagDiff k x).byte b = m.byte b := rfl
@[simp] theorem Memory.byte_setBad (m : Memory) (k : Nat) (x : Bool) (b : Nat) : (m.setBad k x).byte b = m.byte b := rfl
@[simp] theorem Memory.byte_setEcc (m : Memory) (k : Nat) (x : Bool) (b : Nat) : (m.setEcc k x).byte b = m.byte b := rfl
@[simp] theorem Memory.byte_mend (m : Memory) (a n b : Nat) : (m.mend a n).byte b = m.byte b := rfl

/-- A block's write changes its 256 bytes alone. -/
theorem Memory.byte_writeBlock_of_ne (m : Memory) (k : Nat) (l : List Byte) (x : Word) (b : Nat)
    (h : ¬(k * 256 ≤ b ∧ b < k * 256 + 256)) : (m.writeBlock k l x).byte b = m.byte b := by
  have hl : (padTo 256 l).length = 256 := by simp only [padTo, List.length_append, List.length_take, List.length_replicate]; omega
  simp [Memory.writeBlock, Memory.byte_store, hl, h]

/-- A part's write changes its bytes alone. -/
theorem Memory.byte_writePart_of_ne (m : Memory) (a : Nat) (l : List Byte) (b : Nat) (h : ¬(a ≤ b ∧ b < a + l.length)) :
    (m.writePart a l).1.byte b = m.byte b := by
  simp only [Memory.writePart]
  split <;> simp only [Memory.byte_setBad, Memory.byte_mend, Memory.byte_store, if_neg h]

/-- A store changes the bytes it names alone. -/
theorem State.byte_putMem_of_ne (s : State) (a : Nat) (l : List Byte) (fuel b : Nat) (h : ¬(a ≤ b ∧ b < a + l.length)) :
    (s.putMem a l fuel).mem.byte b = s.mem.byte b := by
  induction fuel generalizing s a l with
  | zero => rfl
  | succ n ih =>
    simp only [State.putMem]
    split
    · rfl
    · next hl =>
      have hp : (l.take (256 - a % 256)).length ≤ l.length := by simp
      have hd : ¬(a + (256 - a % 256) ≤ b ∧ b < a + (256 - a % 256) + (l.drop (256 - a % 256)).length) := by
        simp only [List.length_drop]; omega
      rw [ih _ _ _ hd]
      have hn : ¬(a ≤ b ∧ b < a + (l.take (256 - a % 256)).length) := by omega
      split
      · split
        · next hw =>
          have ha : a / 256 * 256 = a := by
            simp only [List.length_take] at hw; omega
          exact Memory.byte_writeBlock_of_ne _ _ _ _ _ (by rw [ha]; omega)
        · split
          · exact Memory.byte_writePart_of_ne _ _ _ _ hn
          · exact Memory.byte_writePart_of_ne _ _ _ _ hn
      · simp only [Memory.byte_mend, Memory.byte_store, if_neg hn]

theorem State.bytesOnly_store (s : State) (a : Nat) (l : List Byte) : s.bytesOnly (s.store a l) a l.length :=
  fun b h => s.byte_putMem_of_ne a l _ b h

/-! ### The canonical form -/

theorem Memory.wf_iff (m : Memory) : m.wf = true ↔
    Sparse.wf (fun _ => (0 : Byte)) m.cells = true ∧ Sparse.wf (fun _ => (0 : Word)) m.tagX = true ∧
    Sparse.wf (fun _ => false) m.bad = true ∧ Sparse.wf (fun _ => false) m.eccBad = true := by
  simp [Memory.wf, and_assoc]

variable {m : Memory}

theorem Memory.wf_setByte (h : m.wf = true) (a : Nat) (b : Byte) : (m.setByte a b).wf = true := by
  rw [Memory.wf_iff] at h ⊢
  exact ⟨Sparse.wf_put _ _ _ _ h.1, h.2⟩

theorem Memory.wf_store (h : m.wf = true) (a : Nat) (l : List Byte) : (m.store a l).wf = true := by
  induction l generalizing m a with
  | nil => exact h
  | cons b t ih => exact ih (Memory.wf_setByte h a b) (a + 1)

theorem Memory.wf_setTagDiff (h : m.wf = true) (k : Nat) (x : Word) : (m.setTagDiff k x).wf = true := by
  rw [Memory.wf_iff] at h ⊢
  exact ⟨h.1, Sparse.wf_put _ _ _ _ h.2.1, h.2.2⟩

theorem Memory.wf_setBad (h : m.wf = true) (k : Nat) (x : Bool) : (m.setBad k x).wf = true := by
  rw [Memory.wf_iff] at h ⊢
  exact ⟨h.1, h.2.1, Sparse.wf_put _ _ _ _ h.2.2.1, h.2.2.2⟩

theorem Memory.wf_setEcc (h : m.wf = true) (k : Nat) (x : Bool) : (m.setEcc k x).wf = true := by
  rw [Memory.wf_iff] at h ⊢
  exact ⟨h.1, h.2.1, h.2.2.1, Sparse.wf_put _ _ _ _ h.2.2.2⟩

theorem Memory.wf_mend (h : m.wf = true) (a n : Nat) : (m.mend a n).wf = true := by
  rw [Memory.wf_iff] at h ⊢
  simp only [Memory.mend]
  exact ⟨h.1, h.2.1, h.2.2.1, Sparse.wf_clear _ _ _ h.2.2.2⟩

theorem Memory.wf_writeBlock (h : m.wf = true) (k : Nat) (l : List Byte) (x : Word) : (m.writeBlock k l x).wf = true :=
  Memory.wf_mend (Memory.wf_setBad (Memory.wf_setTagDiff (Memory.wf_store h _ _) _ _) _ _) _ _

theorem Memory.wf_writePart (h : m.wf = true) (a : Nat) (l : List Byte) : (m.writePart a l).1.wf = true := by
  simp only [Memory.writePart]
  split
  · exact Memory.wf_mend (Memory.wf_store h _ _) _ _
  · exact Memory.wf_setBad (Memory.wf_mend (Memory.wf_store h _ _) _ _) _ _

theorem Memory.wf_zero (h : m.wf = true) (p : Nat → Bool) : (m.zero p).wf = true := by
  rw [Memory.wf_iff] at h ⊢
  simp only [Memory.zero]
  exact ⟨Sparse.wf_clear _ _ _ h.1, Sparse.wf_clear _ _ _ h.2.1, Sparse.wf_clear _ _ _ h.2.2.1, Sparse.wf_clear _ _ _ h.2.2.2⟩

theorem State.wf_putMem (s : State) (h : s.mem.wf = true) (a : Nat) (l : List Byte) (fuel : Nat) : (s.putMem a l fuel).mem.wf = true := by
  induction fuel generalizing s a l with
  | zero => exact h
  | succ n ih =>
    simp only [State.putMem]
    split
    · exact h
    · apply ih
      split
      · split
        · exact Memory.wf_writeBlock h _ _ _
        · split <;> exact Memory.wf_writePart h _ _
      · exact Memory.wf_mend (Memory.wf_store h _ _) _ _

/-- A store of SRAM keeps the canonical form. -/
theorem State.wf_store (s : State) (h : s.mem.wf = true) (a : Nat) (l : List Byte) : (s.store a l).mem.wf = true :=
  s.wf_putMem h a l _

/-! ### Registers and storage -/

/-- A register's write keeps the register file's canonical form. -/
theorem State.wf_wr (s : State) (h : Sparse.wf regReset s.regs = true) (a : Nat) (v : Word) : Sparse.wf regReset (s.wr a v).regs = true :=
  Sparse.wf_put _ _ _ _ h

theorem Storage.wf_store (t : Storage) (h : Sparse.wf (fun _ => (0xFF : Byte)) t.cells = true) (o : Nat) (l : List Byte) :
    Sparse.wf (fun _ => (0xFF : Byte)) (t.store o l).cells = true := by
  induction l generalizing t o with
  | nil => exact h
  | cons b l ih => exact ih _ (Sparse.wf_put _ _ _ _ h) (o + 1)

theorem Storage.wf_progWord (t : Storage) (h : Sparse.wf (fun _ => (0xFF : Byte)) t.cells = true) (w : Nat) (l : List Byte) :
    Sparse.wf (fun _ => (0xFF : Byte)) (t.progWord w l).cells = true := Storage.wf_store t h _ _

theorem Storage.wf_eraseSector (t : Storage) (h : Sparse.wf (fun _ => (0xFF : Byte)) t.cells = true) (n : Nat) :
    Sparse.wf (fun _ => (0xFF : Byte)) (t.eraseSector n).cells = true := by
  simp only [Storage.eraseSector]
  exact Sparse.wf_clear _ _ _ h

/-- An erased sector reads 0xFF; every other byte reads as before. -/
theorem Storage.byte_eraseSector (t : Storage) (n o : Nat) :
    (t.eraseSector n).byte o = if o / 4096 = n then 0xFF else t.byte o := by
  simp [Storage.byte, Storage.eraseSector, Sparse.get_clear]

end Sys2Proof.Machine
end

