-- ==== Sys2Proof/Laws/Ops.lean ====
section
/-! SUPPORT. What the shared operations answer: register commands by requester, attempts to commit a record; and the laws of frames. -/

namespace Sys2Proof.Machine

/-! ### Frames -/

theorem Part.same_refl (p : Part) (s : State) : p.same s s := by cases p <;> rfl

theorem Part.same_trans (p : Part) {s t u : State} (h : p.same s t) (k : p.same t u) : p.same s u := by
  cases p <;> exact k.trans h

theorem State.only_refl (s : State) (l : List Part) : s.only s l := fun p _ => p.same_refl s

theorem State.only_trans {s t u : State} {l : List Part} (h : s.only t l) (k : t.only u l) : s.only u l :=
  fun p hp => p.same_trans (h p hp) (k p hp)

theorem State.only_mono {s t : State} {l l' : List Part} (h : s.only t l) (hl : ∀ p, p ∈ l → p ∈ l') : s.only t l' :=
  fun p hp => h p (fun x => hp (hl p x))

theorem State.regsOnly_refl (s : State) (l : List Nat) : s.regsOnly s l := fun _ _ => rfl

theorem State.regsOnly_trans {s t u : State} {l : List Nat} (h : s.regsOnly t l) (k : t.regsOnly u l) : s.regsOnly u l :=
  fun a ha => (k a ha).trans (h a ha)

theorem State.regsOnly_mono {s t : State} {l l' : List Nat} (h : s.regsOnly t l) (hl : ∀ a, a ∈ l → a ∈ l') : s.regsOnly t l' :=
  fun a ha => h a (fun x => ha (hl a x))

theorem State.bytesOnly_refl (s : State) (a n : Nat) : s.bytesOnly s a n := fun _ _ => rfl

/-! ### Register commands by requester -/

/-- A command of home's has its effect for a powered requester in the context of home. -/
theorem State.asHome_of_homeReq {s : State} {r : Req} (h : s.homeReq r) (a : Nat) (f : State → State) : s.asHome r a f = f s := by
  obtain ⟨h1, h2, h3⟩ := h
  simp [State.asHome, h1, h2, h3]

/-- A command of home's by another context is a violation of kind 5 (R145). -/
theorem State.asHome_of_other {s : State} {r : Req} (a : Nat) (f : State → State) (h1 : s.reqOn r = true)
    (h2 : s.ctxEnabled (s.ctxOf r) = true) (h3 : s.ctxOf r ≠ 0) : s.asHome r a f = s.violateBy r 0x5 a := by
  simp [State.asHome, h1, h2, h3]

/-- A command that the requester's context may make has its effect. -/
theorem State.asCtx_of_ok {s : State} {r : Req} (a k : Nat) {ok : Nat → Bool} (f : State → State) (h1 : s.reqOn r = true)
    (h2 : s.ctxEnabled (s.ctxOf r) = true) (h3 : ok (s.ctxOf r) = true) : s.asCtx r a k ok f = f s := by
  simp [State.asCtx, h1, h2, h3]

/-- One that it may not make is a violation. -/
theorem State.asCtx_of_not {s : State} {r : Req} (a k : Nat) {ok : Nat → Bool} (f : State → State) (h1 : s.reqOn r = true)
    (h2 : s.ctxEnabled (s.ctxOf r) = true) (h3 : ok (s.ctxOf r) = false) : s.asCtx r a k ok f = s.violateBy r k a := by
  simp [State.asCtx, h1, h2, h3]

/-! ### Result rings -/

theorem State.tryCommit_dropped {s : State} {q : Nat} (b : List Byte) (h : s.ringEnabled q = false) :
    s.tryCommit q b = (.dropped, s) := by
  simp [State.tryCommit, h]

theorem State.tryCommit_full {s : State} {q : Nat} {b : List Byte} (h : s.ringEnabled q = true)
    (hs : s.ringSpace q < ceilDiv b.length 64) : s.tryCommit q b = (.full, s) := by
  simp [State.tryCommit, h, hs]

theorem State.tryCommit_done {s : State} {q : Nat} {b : List Byte} (h : s.ringEnabled q = true)
    (hs : ceilDiv b.length 64 ≤ s.ringSpace q) : s.tryCommit q b = (.done, s.commitRecord q b) := by
  simp [State.tryCommit, h, Nat.not_lt.mpr hs]

/-- An attempt that is not done leaves the state alone. -/
theorem State.tryCommit_cases (s : State) (q : Nat) (b : List Byte) :
    s.tryCommit q b = (.dropped, s) ∨ s.tryCommit q b = (.full, s) ∨
    (s.ringEnabled q = true ∧ ceilDiv b.length 64 ≤ s.ringSpace q ∧ s.tryCommit q b = (.done, s.commitRecord q b)) := by
  by_cases h : s.ringEnabled q = true
  · by_cases hs : s.ringSpace q < ceilDiv b.length 64
    · exact .inr (.inl (State.tryCommit_full h hs))
    · exact .inr (.inr ⟨h, Nat.le_of_not_lt hs, State.tryCommit_done h (Nat.le_of_not_lt hs)⟩)
  · exact .inl (State.tryCommit_dropped b (by simpa using h))

end Sys2Proof.Machine
end

