-- ==== Sys2Proof/Laws/State.lean ====
section
/-! SUPPORT. What each update of the state leaves alone: one lemma for each update and each part of the state it does not change. -/

namespace Sys2Proof.Machine

variable (s : State)

@[simp] theorem State.wr_timebase (a : Nat) (v : Word) : (s.wr a v).timebase = s.timebase := rfl
@[simp] theorem State.wr_shadows (a : Nat) (v : Word) : (s.wr a v).shadows = s.shadows := rfl
@[simp] theorem State.wr_armed (a : Nat) (v : Word) : (s.wr a v).armed = s.armed := rfl
@[simp] theorem State.wr_latches (a : Nat) (v : Word) : (s.wr a v).latches = s.latches := rfl
@[simp] theorem State.wr_lyctx0 (a : Nat) (v : Word) : (s.wr a v).lyctx0 = s.lyctx0 := rfl
@[simp] theorem State.wr_lyctx1 (a : Nat) (v : Word) : (s.wr a v).lyctx1 = s.lyctx1 := rfl
@[simp] theorem State.wr_locked (a : Nat) (v : Word) : (s.wr a v).locked = s.locked := rfl
@[simp] theorem State.wr_d2dFails (a : Nat) (v : Word) : (s.wr a v).d2dFails = s.d2dFails := rfl
@[simp] theorem State.wr_mem (a : Nat) (v : Word) : (s.wr a v).mem = s.mem := rfl
@[simp] theorem State.wr_memsys (a : Nat) (v : Word) : (s.wr a v).memsys = s.memsys := rfl
@[simp] theorem State.wr_mmu (a : Nat) (v : Word) : (s.wr a v).mmu = s.mmu := rfl
@[simp] theorem State.wr_streams (a : Nat) (v : Word) : (s.wr a v).streams = s.streams := rfl
@[simp] theorem State.wr_sto (a : Nat) (v : Word) : (s.wr a v).sto = s.sto := rfl
@[simp] theorem State.wr_rings (a : Nat) (v : Word) : (s.wr a v).rings = s.rings := rfl
@[simp] theorem State.wr_chn (a : Nat) (v : Word) : (s.wr a v).chn = s.chn := rfl
@[simp] theorem State.wr_cim (a : Nat) (v : Word) : (s.wr a v).cim = s.cim := rfl
@[simp] theorem State.wr_acq (a : Nat) (v : Word) : (s.wr a v).acq = s.acq := rfl
@[simp] theorem State.wr_aos (a : Nat) (v : Word) : (s.wr a v).aos = s.aos := rfl
@[simp] theorem State.wr_aoSilent (a : Nat) (v : Word) : (s.wr a v).aoSilent = s.aoSilent := rfl
@[simp] theorem State.wr_safe (a : Nat) (v : Word) : (s.wr a v).safe = s.safe := rfl
@[simp] theorem State.wr_ledger (a : Nat) (v : Word) : (s.wr a v).ledger = s.ledger := rfl
@[simp] theorem State.wr_hosts (a : Nat) (v : Word) : (s.wr a v).hosts = s.hosts := rfl
@[simp] theorem State.wr_pwr (a : Nat) (v : Word) : (s.wr a v).pwr = s.pwr := rfl
@[simp] theorem State.wr_boot (a : Nat) (v : Word) : (s.wr a v).boot = s.boot := rfl
@[simp] theorem State.wr_tap (a : Nat) (v : Word) : (s.wr a v).tap = s.tap := rfl
@[simp] theorem State.wr_irqCimp (a : Nat) (v : Word) : (s.wr a v).irqCimp = s.irqCimp := rfl
@[simp] theorem State.wr_events (a : Nat) (v : Word) : (s.wr a v).events = s.events := rfl
@[simp] theorem State.wr_irqFault (a : Nat) (v : Word) : (s.wr a v).irqFault = s.irqFault := rfl
@[simp] theorem State.wr_irqHalt (a : Nat) (v : Word) : (s.wr a v).irqHalt = s.irqHalt := rfl
@[simp] theorem State.wr_irqSto (a : Nat) (v : Word) : (s.wr a v).irqSto = s.irqSto := rfl
@[simp] theorem State.wr_resp (a : Nat) (v : Word) : (s.wr a v).resp = s.resp := rfl
@[simp] theorem State.wr_tx (a : Nat) (v : Word) : (s.wr a v).tx = s.tx := rfl
@[simp] theorem State.wr_free (a : Nat) (v : Word) : (s.wr a v).free = s.free := rfl
@[simp] theorem State.wr_pending (a : Nat) (v : Word) : (s.wr a v).pending = s.pending := rfl

@[simp] theorem State.rset_timebase (r : RegDesc) (v i j : Nat) : (s.rset r v i j).timebase = s.timebase := rfl
@[simp] theorem State.rset_shadows (r : RegDesc) (v i j : Nat) : (s.rset r v i j).shadows = s.shadows := rfl
@[simp] theorem State.rset_armed (r : RegDesc) (v i j : Nat) : (s.rset r v i j).armed = s.armed := rfl
@[simp] theorem State.rset_latches (r : RegDesc) (v i j : Nat) : (s.rset r v i j).latches = s.latches := rfl
@[simp] theorem State.rset_lyctx0 (r : RegDesc) (v i j : Nat) : (s.rset r v i j).lyctx0 = s.lyctx0 := rfl
@[simp] theorem State.rset_lyctx1 (r : RegDesc) (v i j : Nat) : (s.rset r v i j).lyctx1 = s.lyctx1 := rfl
@[simp] theorem State.rset_locked (r : RegDesc) (v i j : Nat) : (s.rset r v i j).locked = s.locked := rfl
@[simp] theorem State.rset_d2dFails (r : RegDesc) (v i j : Nat) : (s.rset r v i j).d2dFails = s.d2dFails := rfl
@[simp] theorem State.rset_mem (r : RegDesc) (v i j : Nat) : (s.rset r v i j).mem = s.mem := rfl
@[simp] theorem State.rset_memsys (r : RegDesc) (v i j : Nat) : (s.rset r v i j).memsys = s.memsys := rfl
@[simp] theorem State.rset_mmu (r : RegDesc) (v i j : Nat) : (s.rset r v i j).mmu = s.mmu := rfl
@[simp] theorem State.rset_streams (r : RegDesc) (v i j : Nat) : (s.rset r v i j).streams = s.streams := rfl
@[simp] theorem State.rset_sto (r : RegDesc) (v i j : Nat) : (s.rset r v i j).sto = s.sto := rfl
@[simp] theorem State.rset_rings (r : RegDesc) (v i j : Nat) : (s.rset r v i j).rings = s.rings := rfl
@[simp] theorem State.rset_chn (r : RegDesc) (v i j : Nat) : (s.rset r v i j).chn = s.chn := rfl
@[simp] theorem State.rset_cim (r : RegDesc) (v i j : Nat) : (s.rset r v i j).cim = s.cim := rfl
@[simp] theorem State.rset_acq (r : RegDesc) (v i j : Nat) : (s.rset r v i j).acq = s.acq := rfl
@[simp] theorem State.rset_aos (r : RegDesc) (v i j : Nat) : (s.rset r v i j).aos = s.aos := rfl
@[simp] theorem State.rset_aoSilent (r : RegDesc) (v i j : Nat) : (s.rset r v i j).aoSilent = s.aoSilent := rfl
@[simp] theorem State.rset_safe (r : RegDesc) (v i j : Nat) : (s.rset r v i j).safe = s.safe := rfl
@[simp] theorem State.rset_ledger (r : RegDesc) (v i j : Nat) : (s.rset r v i j).ledger = s.ledger := rfl
@[simp] theorem State.rset_hosts (r : RegDesc) (v i j : Nat) : (s.rset r v i j).hosts = s.hosts := rfl
@[simp] theorem State.rset_pwr (r : RegDesc) (v i j : Nat) : (s.rset r v i j).pwr = s.pwr := rfl
@[simp] theorem State.rset_boot (r : RegDesc) (v i j : Nat) : (s.rset r v i j).boot = s.boot := rfl
@[simp] theorem State.rset_tap (r : RegDesc) (v i j : Nat) : (s.rset r v i j).tap = s.tap := rfl
@[simp] theorem State.rset_irqCimp (r : RegDesc) (v i j : Nat) : (s.rset r v i j).irqCimp = s.irqCimp := rfl
@[simp] theorem State.rset_events (r : RegDesc) (v i j : Nat) : (s.rset r v i j).events = s.events := rfl
@[simp] theorem State.rset_irqFault (r : RegDesc) (v i j : Nat) : (s.rset r v i j).irqFault = s.irqFault := rfl
@[simp] theorem State.rset_irqHalt (r : RegDesc) (v i j : Nat) : (s.rset r v i j).irqHalt = s.irqHalt := rfl
@[simp] theorem State.rset_irqSto (r : RegDesc) (v i j : Nat) : (s.rset r v i j).irqSto = s.irqSto := rfl
@[simp] theorem State.rset_resp (r : RegDesc) (v i j : Nat) : (s.rset r v i j).resp = s.resp := rfl
@[simp] theorem State.rset_tx (r : RegDesc) (v i j : Nat) : (s.rset r v i j).tx = s.tx := rfl
@[simp] theorem State.rset_free (r : RegDesc) (v i j : Nat) : (s.rset r v i j).free = s.free := rfl
@[simp] theorem State.rset_pending (r : RegDesc) (v i j : Nat) : (s.rset r v i j).pending = s.pending := rfl

@[simp] theorem State.fset_timebase (f : Fld) (v i j : Nat) : (s.fset f v i j).timebase = s.timebase := rfl
@[simp] theorem State.fset_shadows (f : Fld) (v i j : Nat) : (s.fset f v i j).shadows = s.shadows := rfl
@[simp] theorem State.fset_armed (f : Fld) (v i j : Nat) : (s.fset f v i j).armed = s.armed := rfl
@[simp] theorem State.fset_latches (f : Fld) (v i j : Nat) : (s.fset f v i j).latches = s.latches := rfl
@[simp] theorem State.fset_lyctx0 (f : Fld) (v i j : Nat) : (s.fset f v i j).lyctx0 = s.lyctx0 := rfl
@[simp] theorem State.fset_lyctx1 (f : Fld) (v i j : Nat) : (s.fset f v i j).lyctx1 = s.lyctx1 := rfl
@[simp] theorem State.fset_locked (f : Fld) (v i j : Nat) : (s.fset f v i j).locked = s.locked := rfl
@[simp] theorem State.fset_d2dFails (f : Fld) (v i j : Nat) : (s.fset f v i j).d2dFails = s.d2dFails := rfl
@[simp] theorem State.fset_mem (f : Fld) (v i j : Nat) : (s.fset f v i j).mem = s.mem := rfl
@[simp] theorem State.fset_memsys (f : Fld) (v i j : Nat) : (s.fset f v i j).memsys = s.memsys := rfl
@[simp] theorem State.fset_mmu (f : Fld) (v i j : Nat) : (s.fset f v i j).mmu = s.mmu := rfl
@[simp] theorem State.fset_streams (f : Fld) (v i j : Nat) : (s.fset f v i j).streams = s.streams := rfl
@[simp] theorem State.fset_sto (f : Fld) (v i j : Nat) : (s.fset f v i j).sto = s.sto := rfl
@[simp] theorem State.fset_rings (f : Fld) (v i j : Nat) : (s.fset f v i j).rings = s.rings := rfl
@[simp] theorem State.fset_chn (f : Fld) (v i j : Nat) : (s.fset f v i j).chn = s.chn := rfl
@[simp] theorem State.fset_cim (f : Fld) (v i j : Nat) : (s.fset f v i j).cim = s.cim := rfl
@[simp] theorem State.fset_acq (f : Fld) (v i j : Nat) : (s.fset f v i j).acq = s.acq := rfl
@[simp] theorem State.fset_aos (f : Fld) (v i j : Nat) : (s.fset f v i j).aos = s.aos := rfl
@[simp] theorem State.fset_aoSilent (f : Fld) (v i j : Nat) : (s.fset f v i j).aoSilent = s.aoSilent := rfl
@[simp] theorem State.fset_safe (f : Fld) (v i j : Nat) : (s.fset f v i j).safe = s.safe := rfl
@[simp] theorem State.fset_ledger (f : Fld) (v i j : Nat) : (s.fset f v i j).ledger = s.ledger := rfl
@[simp] theorem State.fset_hosts (f : Fld) (v i j : Nat) : (s.fset f v i j).hosts = s.hosts := rfl
@[simp] theorem State.fset_pwr (f : Fld) (v i j : Nat) : (s.fset f v i j).pwr = s.pwr := rfl
@[simp] theorem State.fset_boot (f : Fld) (v i j : Nat) : (s.fset f v i j).boot = s.boot := rfl
@[simp] theorem State.fset_tap (f : Fld) (v i j : Nat) : (s.fset f v i j).tap = s.tap := rfl
@[simp] theorem State.fset_irqCimp (f : Fld) (v i j : Nat) : (s.fset f v i j).irqCimp = s.irqCimp := rfl
@[simp] theorem State.fset_events (f : Fld) (v i j : Nat) : (s.fset f v i j).events = s.events := rfl
@[simp] theorem State.fset_irqFault (f : Fld) (v i j : Nat) : (s.fset f v i j).irqFault = s.irqFault := rfl
@[simp] theorem State.fset_irqHalt (f : Fld) (v i j : Nat) : (s.fset f v i j).irqHalt = s.irqHalt := rfl
@[simp] theorem State.fset_irqSto (f : Fld) (v i j : Nat) : (s.fset f v i j).irqSto = s.irqSto := rfl
@[simp] theorem State.fset_resp (f : Fld) (v i j : Nat) : (s.fset f v i j).resp = s.resp := rfl
@[simp] theorem State.fset_tx (f : Fld) (v i j : Nat) : (s.fset f v i j).tx = s.tx := rfl
@[simp] theorem State.fset_free (f : Fld) (v i j : Nat) : (s.fset f v i j).free = s.free := rfl
@[simp] theorem State.fset_pending (f : Fld) (v i j : Nat) : (s.fset f v i j).pending = s.pending := rfl

@[simp] theorem State.setFlag_timebase (f : Fld) (b : Bool) (i j : Nat) : (s.setFlag f b i j).timebase = s.timebase := rfl
@[simp] theorem State.setFlag_shadows (f : Fld) (b : Bool) (i j : Nat) : (s.setFlag f b i j).shadows = s.shadows := rfl
@[simp] theorem State.setFlag_armed (f : Fld) (b : Bool) (i j : Nat) : (s.setFlag f b i j).armed = s.armed := rfl
@[simp] theorem State.setFlag_latches (f : Fld) (b : Bool) (i j : Nat) : (s.setFlag f b i j).latches = s.latches := rfl
@[simp] theorem State.setFlag_lyctx0 (f : Fld) (b : Bool) (i j : Nat) : (s.setFlag f b i j).lyctx0 = s.lyctx0 := rfl
@[simp] theorem State.setFlag_lyctx1 (f : Fld) (b : Bool) (i j : Nat) : (s.setFlag f b i j).lyctx1 = s.lyctx1 := rfl
@[simp] theorem State.setFlag_locked (f : Fld) (b : Bool) (i j : Nat) : (s.setFlag f b i j).locked = s.locked := rfl
@[simp] theorem State.setFlag_d2dFails (f : Fld) (b : Bool) (i j : Nat) : (s.setFlag f b i j).d2dFails = s.d2dFails := rfl
@[simp] theorem State.setFlag_mem (f : Fld) (b : Bool) (i j : Nat) : (s.setFlag f b i j).mem = s.mem := rfl
@[simp] theorem State.setFlag_memsys (f : Fld) (b : Bool) (i j : Nat) : (s.setFlag f b i j).memsys = s.memsys := rfl
@[simp] theorem State.setFlag_mmu (f : Fld) (b : Bool) (i j : Nat) : (s.setFlag f b i j).mmu = s.mmu := rfl
@[simp] theorem State.setFlag_streams (f : Fld) (b : Bool) (i j : Nat) : (s.setFlag f b i j).streams = s.streams := rfl
@[simp] theorem State.setFlag_sto (f : Fld) (b : Bool) (i j : Nat) : (s.setFlag f b i j).sto = s.sto := rfl
@[simp] theorem State.setFlag_rings (f : Fld) (b : Bool) (i j : Nat) : (s.setFlag f b i j).rings = s.rings := rfl
@[simp] theorem State.setFlag_chn (f : Fld) (b : Bool) (i j : Nat) : (s.setFlag f b i j).chn = s.chn := rfl
@[simp] theorem State.setFlag_cim (f : Fld) (b : Bool) (i j : Nat) : (s.setFlag f b i j).cim = s.cim := rfl
@[simp] theorem State.setFlag_acq (f : Fld) (b : Bool) (i j : Nat) : (s.setFlag f b i j).acq = s.acq := rfl
@[simp] theorem State.setFlag_aos (f : Fld) (b : Bool) (i j : Nat) : (s.setFlag f b i j).aos = s.aos := rfl
@[simp] theorem State.setFlag_aoSilent (f : Fld) (b : Bool) (i j : Nat) : (s.setFlag f b i j).aoSilent = s.aoSilent := rfl
@[simp] theorem State.setFlag_safe (f : Fld) (b : Bool) (i j : Nat) : (s.setFlag f b i j).safe = s.safe := rfl
@[simp] theorem State.setFlag_ledger (f : Fld) (b : Bool) (i j : Nat) : (s.setFlag f b i j).ledger = s.ledger := rfl
@[simp] theorem State.setFlag_hosts (f : Fld) (b : Bool) (i j : Nat) : (s.setFlag f b i j).hosts = s.hosts := rfl
@[simp] theorem State.setFlag_pwr (f : Fld) (b : Bool) (i j : Nat) : (s.setFlag f b i j).pwr = s.pwr := rfl
@[simp] theorem State.setFlag_boot (f : Fld) (b : Bool) (i j : Nat) : (s.setFlag f b i j).boot = s.boot := rfl
@[simp] theorem State.setFlag_tap (f : Fld) (b : Bool) (i j : Nat) : (s.setFlag f b i j).tap = s.tap := rfl
@[simp] theorem State.setFlag_irqCimp (f : Fld) (b : Bool) (i j : Nat) : (s.setFlag f b i j).irqCimp = s.irqCimp := rfl
@[simp] theorem State.setFlag_events (f : Fld) (b : Bool) (i j : Nat) : (s.setFlag f b i j).events = s.events := rfl
@[simp] theorem State.setFlag_irqFault (f : Fld) (b : Bool) (i j : Nat) : (s.setFlag f b i j).irqFault = s.irqFault := rfl
@[simp] theorem State.setFlag_irqHalt (f : Fld) (b : Bool) (i j : Nat) : (s.setFlag f b i j).irqHalt = s.irqHalt := rfl
@[simp] theorem State.setFlag_irqSto (f : Fld) (b : Bool) (i j : Nat) : (s.setFlag f b i j).irqSto = s.irqSto := rfl
@[simp] theorem State.setFlag_resp (f : Fld) (b : Bool) (i j : Nat) : (s.setFlag f b i j).resp = s.resp := rfl
@[simp] theorem State.setFlag_tx (f : Fld) (b : Bool) (i j : Nat) : (s.setFlag f b i j).tx = s.tx := rfl
@[simp] theorem State.setFlag_free (f : Fld) (b : Bool) (i j : Nat) : (s.setFlag f b i j).free = s.free := rfl
@[simp] theorem State.setFlag_pending (f : Fld) (b : Bool) (i j : Nat) : (s.setFlag f b i j).pending = s.pending := rfl

@[simp] theorem State.count_timebase (r : RegDesc) (n i j : Nat) : (s.count r n i j).timebase = s.timebase := rfl
@[simp] theorem State.count_shadows (r : RegDesc) (n i j : Nat) : (s.count r n i j).shadows = s.shadows := rfl
@[simp] theorem State.count_armed (r : RegDesc) (n i j : Nat) : (s.count r n i j).armed = s.armed := rfl
@[simp] theorem State.count_latches (r : RegDesc) (n i j : Nat) : (s.count r n i j).latches = s.latches := rfl
@[simp] theorem State.count_lyctx0 (r : RegDesc) (n i j : Nat) : (s.count r n i j).lyctx0 = s.lyctx0 := rfl
@[simp] theorem State.count_lyctx1 (r : RegDesc) (n i j : Nat) : (s.count r n i j).lyctx1 = s.lyctx1 := rfl
@[simp] theorem State.count_locked (r : RegDesc) (n i j : Nat) : (s.count r n i j).locked = s.locked := rfl
@[simp] theorem State.count_d2dFails (r : RegDesc) (n i j : Nat) : (s.count r n i j).d2dFails = s.d2dFails := rfl
@[simp] theorem State.count_mem (r : RegDesc) (n i j : Nat) : (s.count r n i j).mem = s.mem := rfl
@[simp] theorem State.count_memsys (r : RegDesc) (n i j : Nat) : (s.count r n i j).memsys = s.memsys := rfl
@[simp] theorem State.count_mmu (r : RegDesc) (n i j : Nat) : (s.count r n i j).mmu = s.mmu := rfl
@[simp] theorem State.count_streams (r : RegDesc) (n i j : Nat) : (s.count r n i j).streams = s.streams := rfl
@[simp] theorem State.count_sto (r : RegDesc) (n i j : Nat) : (s.count r n i j).sto = s.sto := rfl
@[simp] theorem State.count_rings (r : RegDesc) (n i j : Nat) : (s.count r n i j).rings = s.rings := rfl
@[simp] theorem State.count_chn (r : RegDesc) (n i j : Nat) : (s.count r n i j).chn = s.chn := rfl
@[simp] theorem State.count_cim (r : RegDesc) (n i j : Nat) : (s.count r n i j).cim = s.cim := rfl
@[simp] theorem State.count_acq (r : RegDesc) (n i j : Nat) : (s.count r n i j).acq = s.acq := rfl
@[simp] theorem State.count_aos (r : RegDesc) (n i j : Nat) : (s.count r n i j).aos = s.aos := rfl
@[simp] theorem State.count_aoSilent (r : RegDesc) (n i j : Nat) : (s.count r n i j).aoSilent = s.aoSilent := rfl
@[simp] theorem State.count_safe (r : RegDesc) (n i j : Nat) : (s.count r n i j).safe = s.safe := rfl
@[simp] theorem State.count_ledger (r : RegDesc) (n i j : Nat) : (s.count r n i j).ledger = s.ledger := rfl
@[simp] theorem State.count_hosts (r : RegDesc) (n i j : Nat) : (s.count r n i j).hosts = s.hosts := rfl
@[simp] theorem State.count_pwr (r : RegDesc) (n i j : Nat) : (s.count r n i j).pwr = s.pwr := rfl
@[simp] theorem State.count_boot (r : RegDesc) (n i j : Nat) : (s.count r n i j).boot = s.boot := rfl
@[simp] theorem State.count_tap (r : RegDesc) (n i j : Nat) : (s.count r n i j).tap = s.tap := rfl
@[simp] theorem State.count_irqCimp (r : RegDesc) (n i j : Nat) : (s.count r n i j).irqCimp = s.irqCimp := rfl
@[simp] theorem State.count_events (r : RegDesc) (n i j : Nat) : (s.count r n i j).events = s.events := rfl
@[simp] theorem State.count_irqFault (r : RegDesc) (n i j : Nat) : (s.count r n i j).irqFault = s.irqFault := rfl
@[simp] theorem State.count_irqHalt (r : RegDesc) (n i j : Nat) : (s.count r n i j).irqHalt = s.irqHalt := rfl
@[simp] theorem State.count_irqSto (r : RegDesc) (n i j : Nat) : (s.count r n i j).irqSto = s.irqSto := rfl
@[simp] theorem State.count_resp (r : RegDesc) (n i j : Nat) : (s.count r n i j).resp = s.resp := rfl
@[simp] theorem State.count_tx (r : RegDesc) (n i j : Nat) : (s.count r n i j).tx = s.tx := rfl
@[simp] theorem State.count_free (r : RegDesc) (n i j : Nat) : (s.count r n i j).free = s.free := rfl
@[simp] theorem State.count_pending (r : RegDesc) (n i j : Nat) : (s.count r n i j).pending = s.pending := rfl

@[simp] theorem State.fcount_timebase (f : Fld) (n i j : Nat) : (s.fcount f n i j).timebase = s.timebase := rfl
@[simp] theorem State.fcount_shadows (f : Fld) (n i j : Nat) : (s.fcount f n i j).shadows = s.shadows := rfl
@[simp] theorem State.fcount_armed (f : Fld) (n i j : Nat) : (s.fcount f n i j).armed = s.armed := rfl
@[simp] theorem State.fcount_latches (f : Fld) (n i j : Nat) : (s.fcount f n i j).latches = s.latches := rfl
@[simp] theorem State.fcount_lyctx0 (f : Fld) (n i j : Nat) : (s.fcount f n i j).lyctx0 = s.lyctx0 := rfl
@[simp] theorem State.fcount_lyctx1 (f : Fld) (n i j : Nat) : (s.fcount f n i j).lyctx1 = s.lyctx1 := rfl
@[simp] theorem State.fcount_locked (f : Fld) (n i j : Nat) : (s.fcount f n i j).locked = s.locked := rfl
@[simp] theorem State.fcount_d2dFails (f : Fld) (n i j : Nat) : (s.fcount f n i j).d2dFails = s.d2dFails := rfl
@[simp] theorem State.fcount_mem (f : Fld) (n i j : Nat) : (s.fcount f n i j).mem = s.mem := rfl
@[simp] theorem State.fcount_memsys (f : Fld) (n i j : Nat) : (s.fcount f n i j).memsys = s.memsys := rfl
@[simp] theorem State.fcount_mmu (f : Fld) (n i j : Nat) : (s.fcount f n i j).mmu = s.mmu := rfl
@[simp] theorem State.fcount_streams (f : Fld) (n i j : Nat) : (s.fcount f n i j).streams = s.streams := rfl
@[simp] theorem State.fcount_sto (f : Fld) (n i j : Nat) : (s.fcount f n i j).sto = s.sto := rfl
@[simp] theorem State.fcount_rings (f : Fld) (n i j : Nat) : (s.fcount f n i j).rings = s.rings := rfl
@[simp] theorem State.fcount_chn (f : Fld) (n i j : Nat) : (s.fcount f n i j).chn = s.chn := rfl
@[simp] theorem State.fcount_cim (f : Fld) (n i j : Nat) : (s.fcount f n i j).cim = s.cim := rfl
@[simp] theorem State.fcount_acq (f : Fld) (n i j : Nat) : (s.fcount f n i j).acq = s.acq := rfl
@[simp] theorem State.fcount_aos (f : Fld) (n i j : Nat) : (s.fcount f n i j).aos = s.aos := rfl
@[simp] theorem State.fcount_aoSilent (f : Fld) (n i j : Nat) : (s.fcount f n i j).aoSilent = s.aoSilent := rfl
@[simp] theorem State.fcount_safe (f : Fld) (n i j : Nat) : (s.fcount f n i j).safe = s.safe := rfl
@[simp] theorem State.fcount_ledger (f : Fld) (n i j : Nat) : (s.fcount f n i j).ledger = s.ledger := rfl
@[simp] theorem State.fcount_hosts (f : Fld) (n i j : Nat) : (s.fcount f n i j).hosts = s.hosts := rfl
@[simp] theorem State.fcount_pwr (f : Fld) (n i j : Nat) : (s.fcount f n i j).pwr = s.pwr := rfl
@[simp] theorem State.fcount_boot (f : Fld) (n i j : Nat) : (s.fcount f n i j).boot = s.boot := rfl
@[simp] theorem State.fcount_tap (f : Fld) (n i j : Nat) : (s.fcount f n i j).tap = s.tap := rfl
@[simp] theorem State.fcount_irqCimp (f : Fld) (n i j : Nat) : (s.fcount f n i j).irqCimp = s.irqCimp := rfl
@[simp] theorem State.fcount_events (f : Fld) (n i j : Nat) : (s.fcount f n i j).events = s.events := rfl
@[simp] theorem State.fcount_irqFault (f : Fld) (n i j : Nat) : (s.fcount f n i j).irqFault = s.irqFault := rfl
@[simp] theorem State.fcount_irqHalt (f : Fld) (n i j : Nat) : (s.fcount f n i j).irqHalt = s.irqHalt := rfl
@[simp] theorem State.fcount_irqSto (f : Fld) (n i j : Nat) : (s.fcount f n i j).irqSto = s.irqSto := rfl
@[simp] theorem State.fcount_resp (f : Fld) (n i j : Nat) : (s.fcount f n i j).resp = s.resp := rfl
@[simp] theorem State.fcount_tx (f : Fld) (n i j : Nat) : (s.fcount f n i j).tx = s.tx := rfl
@[simp] theorem State.fcount_free (f : Fld) (n i j : Nat) : (s.fcount f n i j).free = s.free := rfl
@[simp] theorem State.fcount_pending (f : Fld) (n i j : Nat) : (s.fcount f n i j).pending = s.pending := rfl

@[simp] theorem State.countWrap_timebase (r : RegDesc) (n i j : Nat) : (s.countWrap r n i j).timebase = s.timebase := rfl
@[simp] theorem State.countWrap_shadows (r : RegDesc) (n i j : Nat) : (s.countWrap r n i j).shadows = s.shadows := rfl
@[simp] theorem State.countWrap_armed (r : RegDesc) (n i j : Nat) : (s.countWrap r n i j).armed = s.armed := rfl
@[simp] theorem State.countWrap_latches (r : RegDesc) (n i j : Nat) : (s.countWrap r n i j).latches = s.latches := rfl
@[simp] theorem State.countWrap_lyctx0 (r : RegDesc) (n i j : Nat) : (s.countWrap r n i j).lyctx0 = s.lyctx0 := rfl
@[simp] theorem State.countWrap_lyctx1 (r : RegDesc) (n i j : Nat) : (s.countWrap r n i j).lyctx1 = s.lyctx1 := rfl
@[simp] theorem State.countWrap_locked (r : RegDesc) (n i j : Nat) : (s.countWrap r n i j).locked = s.locked := rfl
@[simp] theorem State.countWrap_d2dFails (r : RegDesc) (n i j : Nat) : (s.countWrap r n i j).d2dFails = s.d2dFails := rfl
@[simp] theorem State.countWrap_mem (r : RegDesc) (n i j : Nat) : (s.countWrap r n i j).mem = s.mem := rfl
@[simp] theorem State.countWrap_memsys (r : RegDesc) (n i j : Nat) : (s.countWrap r n i j).memsys = s.memsys := rfl
@[simp] theorem State.countWrap_mmu (r : RegDesc) (n i j : Nat) : (s.countWrap r n i j).mmu = s.mmu := rfl
@[simp] theorem State.countWrap_streams (r : RegDesc) (n i j : Nat) : (s.countWrap r n i j).streams = s.streams := rfl
@[simp] theorem State.countWrap_sto (r : RegDesc) (n i j : Nat) : (s.countWrap r n i j).sto = s.sto := rfl
@[simp] theorem State.countWrap_rings (r : RegDesc) (n i j : Nat) : (s.countWrap r n i j).rings = s.rings := rfl
@[simp] theorem State.countWrap_chn (r : RegDesc) (n i j : Nat) : (s.countWrap r n i j).chn = s.chn := rfl
@[simp] theorem State.countWrap_cim (r : RegDesc) (n i j : Nat) : (s.countWrap r n i j).cim = s.cim := rfl
@[simp] theorem State.countWrap_acq (r : RegDesc) (n i j : Nat) : (s.countWrap r n i j).acq = s.acq := rfl
@[simp] theorem State.countWrap_aos (r : RegDesc) (n i j : Nat) : (s.countWrap r n i j).aos = s.aos := rfl
@[simp] theorem State.countWrap_aoSilent (r : RegDesc) (n i j : Nat) : (s.countWrap r n i j).aoSilent = s.aoSilent := rfl
@[simp] theorem State.countWrap_safe (r : RegDesc) (n i j : Nat) : (s.countWrap r n i j).safe = s.safe := rfl
@[simp] theorem State.countWrap_ledger (r : RegDesc) (n i j : Nat) : (s.countWrap r n i j).ledger = s.ledger := rfl
@[simp] theorem State.countWrap_hosts (r : RegDesc) (n i j : Nat) : (s.countWrap r n i j).hosts = s.hosts := rfl
@[simp] theorem State.countWrap_pwr (r : RegDesc) (n i j : Nat) : (s.countWrap r n i j).pwr = s.pwr := rfl
@[simp] theorem State.countWrap_boot (r : RegDesc) (n i j : Nat) : (s.countWrap r n i j).boot = s.boot := rfl
@[simp] theorem State.countWrap_tap (r : RegDesc) (n i j : Nat) : (s.countWrap r n i j).tap = s.tap := rfl
@[simp] theorem State.countWrap_irqCimp (r : RegDesc) (n i j : Nat) : (s.countWrap r n i j).irqCimp = s.irqCimp := rfl
@[simp] theorem State.countWrap_events (r : RegDesc) (n i j : Nat) : (s.countWrap r n i j).events = s.events := rfl
@[simp] theorem State.countWrap_irqFault (r : RegDesc) (n i j : Nat) : (s.countWrap r n i j).irqFault = s.irqFault := rfl
@[simp] theorem State.countWrap_irqHalt (r : RegDesc) (n i j : Nat) : (s.countWrap r n i j).irqHalt = s.irqHalt := rfl
@[simp] theorem State.countWrap_irqSto (r : RegDesc) (n i j : Nat) : (s.countWrap r n i j).irqSto = s.irqSto := rfl
@[simp] theorem State.countWrap_resp (r : RegDesc) (n i j : Nat) : (s.countWrap r n i j).resp = s.resp := rfl
@[simp] theorem State.countWrap_tx (r : RegDesc) (n i j : Nat) : (s.countWrap r n i j).tx = s.tx := rfl
@[simp] theorem State.countWrap_free (r : RegDesc) (n i j : Nat) : (s.countWrap r n i j).free = s.free := rfl
@[simp] theorem State.countWrap_pending (r : RegDesc) (n i j : Nat) : (s.countWrap r n i j).pending = s.pending := rfl

@[simp] theorem State.ring_timebase (b inc : Nat) : (s.ring b inc).timebase = s.timebase := rfl
@[simp] theorem State.ring_shadows (b inc : Nat) : (s.ring b inc).shadows = s.shadows := rfl
@[simp] theorem State.ring_armed (b inc : Nat) : (s.ring b inc).armed = s.armed := rfl
@[simp] theorem State.ring_latches (b inc : Nat) : (s.ring b inc).latches = s.latches := rfl
@[simp] theorem State.ring_lyctx0 (b inc : Nat) : (s.ring b inc).lyctx0 = s.lyctx0 := rfl
@[simp] theorem State.ring_lyctx1 (b inc : Nat) : (s.ring b inc).lyctx1 = s.lyctx1 := rfl
@[simp] theorem State.ring_locked (b inc : Nat) : (s.ring b inc).locked = s.locked := rfl
@[simp] theorem State.ring_d2dFails (b inc : Nat) : (s.ring b inc).d2dFails = s.d2dFails := rfl
@[simp] theorem State.ring_mem (b inc : Nat) : (s.ring b inc).mem = s.mem := rfl
@[simp] theorem State.ring_memsys (b inc : Nat) : (s.ring b inc).memsys = s.memsys := rfl
@[simp] theorem State.ring_mmu (b inc : Nat) : (s.ring b inc).mmu = s.mmu := rfl
@[simp] theorem State.ring_streams (b inc : Nat) : (s.ring b inc).streams = s.streams := rfl
@[simp] theorem State.ring_sto (b inc : Nat) : (s.ring b inc).sto = s.sto := rfl
@[simp] theorem State.ring_rings (b inc : Nat) : (s.ring b inc).rings = s.rings := rfl
@[simp] theorem State.ring_chn (b inc : Nat) : (s.ring b inc).chn = s.chn := rfl
@[simp] theorem State.ring_cim (b inc : Nat) : (s.ring b inc).cim = s.cim := rfl
@[simp] theorem State.ring_acq (b inc : Nat) : (s.ring b inc).acq = s.acq := rfl
@[simp] theorem State.ring_aos (b inc : Nat) : (s.ring b inc).aos = s.aos := rfl
@[simp] theorem State.ring_aoSilent (b inc : Nat) : (s.ring b inc).aoSilent = s.aoSilent := rfl
@[simp] theorem State.ring_safe (b inc : Nat) : (s.ring b inc).safe = s.safe := rfl
@[simp] theorem State.ring_ledger (b inc : Nat) : (s.ring b inc).ledger = s.ledger := rfl
@[simp] theorem State.ring_hosts (b inc : Nat) : (s.ring b inc).hosts = s.hosts := rfl
@[simp] theorem State.ring_pwr (b inc : Nat) : (s.ring b inc).pwr = s.pwr := rfl
@[simp] theorem State.ring_boot (b inc : Nat) : (s.ring b inc).boot = s.boot := rfl
@[simp] theorem State.ring_tap (b inc : Nat) : (s.ring b inc).tap = s.tap := rfl
@[simp] theorem State.ring_irqCimp (b inc : Nat) : (s.ring b inc).irqCimp = s.irqCimp := rfl
@[simp] theorem State.ring_events (b inc : Nat) : (s.ring b inc).events = s.events := rfl
@[simp] theorem State.ring_irqFault (b inc : Nat) : (s.ring b inc).irqFault = s.irqFault := rfl
@[simp] theorem State.ring_irqHalt (b inc : Nat) : (s.ring b inc).irqHalt = s.irqHalt := rfl
@[simp] theorem State.ring_irqSto (b inc : Nat) : (s.ring b inc).irqSto = s.irqSto := rfl
@[simp] theorem State.ring_resp (b inc : Nat) : (s.ring b inc).resp = s.resp := rfl
@[simp] theorem State.ring_tx (b inc : Nat) : (s.ring b inc).tx = s.tx := rfl
@[simp] theorem State.ring_free (b inc : Nat) : (s.ring b inc).free = s.free := rfl
@[simp] theorem State.ring_pending (b inc : Nat) : (s.ring b inc).pending = s.pending := rfl

@[simp] theorem State.setStream_timebase (n : Nat) (x : Stream) : (s.setStream n x).timebase = s.timebase := rfl
@[simp] theorem State.setStream_regs (n : Nat) (x : Stream) : (s.setStream n x).regs = s.regs := rfl
@[simp] theorem State.setStream_shadows (n : Nat) (x : Stream) : (s.setStream n x).shadows = s.shadows := rfl
@[simp] theorem State.setStream_armed (n : Nat) (x : Stream) : (s.setStream n x).armed = s.armed := rfl
@[simp] theorem State.setStream_latches (n : Nat) (x : Stream) : (s.setStream n x).latches = s.latches := rfl
@[simp] theorem State.setStream_lyctx0 (n : Nat) (x : Stream) : (s.setStream n x).lyctx0 = s.lyctx0 := rfl
@[simp] theorem State.setStream_lyctx1 (n : Nat) (x : Stream) : (s.setStream n x).lyctx1 = s.lyctx1 := rfl
@[simp] theorem State.setStream_locked (n : Nat) (x : Stream) : (s.setStream n x).locked = s.locked := rfl
@[simp] theorem State.setStream_d2dFails (n : Nat) (x : Stream) : (s.setStream n x).d2dFails = s.d2dFails := rfl
@[simp] theorem State.setStream_mem (n : Nat) (x : Stream) : (s.setStream n x).mem = s.mem := rfl
@[simp] theorem State.setStream_memsys (n : Nat) (x : Stream) : (s.setStream n x).memsys = s.memsys := rfl
@[simp] theorem State.setStream_mmu (n : Nat) (x : Stream) : (s.setStream n x).mmu = s.mmu := rfl
@[simp] theorem State.setStream_sto (n : Nat) (x : Stream) : (s.setStream n x).sto = s.sto := rfl
@[simp] theorem State.setStream_rings (n : Nat) (x : Stream) : (s.setStream n x).rings = s.rings := rfl
@[simp] theorem State.setStream_chn (n : Nat) (x : Stream) : (s.setStream n x).chn = s.chn := rfl
@[simp] theorem State.setStream_cim (n : Nat) (x : Stream) : (s.setStream n x).cim = s.cim := rfl
@[simp] theorem State.setStream_acq (n : Nat) (x : Stream) : (s.setStream n x).acq = s.acq := rfl
@[simp] theorem State.setStream_aos (n : Nat) (x : Stream) : (s.setStream n x).aos = s.aos := rfl
@[simp] theorem State.setStream_aoSilent (n : Nat) (x : Stream) : (s.setStream n x).aoSilent = s.aoSilent := rfl
@[simp] theorem State.setStream_safe (n : Nat) (x : Stream) : (s.setStream n x).safe = s.safe := rfl
@[simp] theorem State.setStream_ledger (n : Nat) (x : Stream) : (s.setStream n x).ledger = s.ledger := rfl
@[simp] theorem State.setStream_hosts (n : Nat) (x : Stream) : (s.setStream n x).hosts = s.hosts := rfl
@[simp] theorem State.setStream_pwr (n : Nat) (x : Stream) : (s.setStream n x).pwr = s.pwr := rfl
@[simp] theorem State.setStream_boot (n : Nat) (x : Stream) : (s.setStream n x).boot = s.boot := rfl
@[simp] theorem State.setStream_tap (n : Nat) (x : Stream) : (s.setStream n x).tap = s.tap := rfl
@[simp] theorem State.setStream_irqCimp (n : Nat) (x : Stream) : (s.setStream n x).irqCimp = s.irqCimp := rfl
@[simp] theorem State.setStream_events (n : Nat) (x : Stream) : (s.setStream n x).events = s.events := rfl
@[simp] theorem State.setStream_irqFault (n : Nat) (x : Stream) : (s.setStream n x).irqFault = s.irqFault := rfl
@[simp] theorem State.setStream_irqHalt (n : Nat) (x : Stream) : (s.setStream n x).irqHalt = s.irqHalt := rfl
@[simp] theorem State.setStream_irqSto (n : Nat) (x : Stream) : (s.setStream n x).irqSto = s.irqSto := rfl
@[simp] theorem State.setStream_resp (n : Nat) (x : Stream) : (s.setStream n x).resp = s.resp := rfl
@[simp] theorem State.setStream_tx (n : Nat) (x : Stream) : (s.setStream n x).tx = s.tx := rfl
@[simp] theorem State.setStream_free (n : Nat) (x : Stream) : (s.setStream n x).free = s.free := rfl
@[simp] theorem State.setStream_pending (n : Nat) (x : Stream) : (s.setStream n x).pending = s.pending := rfl

@[simp] theorem State.setRun_timebase (n : Nat) (p : Option Prog) : (s.setRun n p).timebase = s.timebase := rfl
@[simp] theorem State.setRun_regs (n : Nat) (p : Option Prog) : (s.setRun n p).regs = s.regs := rfl
@[simp] theorem State.setRun_shadows (n : Nat) (p : Option Prog) : (s.setRun n p).shadows = s.shadows := rfl
@[simp] theorem State.setRun_armed (n : Nat) (p : Option Prog) : (s.setRun n p).armed = s.armed := rfl
@[simp] theorem State.setRun_latches (n : Nat) (p : Option Prog) : (s.setRun n p).latches = s.latches := rfl
@[simp] theorem State.setRun_lyctx0 (n : Nat) (p : Option Prog) : (s.setRun n p).lyctx0 = s.lyctx0 := rfl
@[simp] theorem State.setRun_lyctx1 (n : Nat) (p : Option Prog) : (s.setRun n p).lyctx1 = s.lyctx1 := rfl
@[simp] theorem State.setRun_locked (n : Nat) (p : Option Prog) : (s.setRun n p).locked = s.locked := rfl
@[simp] theorem State.setRun_d2dFails (n : Nat) (p : Option Prog) : (s.setRun n p).d2dFails = s.d2dFails := rfl
@[simp] theorem State.setRun_mem (n : Nat) (p : Option Prog) : (s.setRun n p).mem = s.mem := rfl
@[simp] theorem State.setRun_memsys (n : Nat) (p : Option Prog) : (s.setRun n p).memsys = s.memsys := rfl
@[simp] theorem State.setRun_mmu (n : Nat) (p : Option Prog) : (s.setRun n p).mmu = s.mmu := rfl
@[simp] theorem State.setRun_sto (n : Nat) (p : Option Prog) : (s.setRun n p).sto = s.sto := rfl
@[simp] theorem State.setRun_rings (n : Nat) (p : Option Prog) : (s.setRun n p).rings = s.rings := rfl
@[simp] theorem State.setRun_chn (n : Nat) (p : Option Prog) : (s.setRun n p).chn = s.chn := rfl
@[simp] theorem State.setRun_cim (n : Nat) (p : Option Prog) : (s.setRun n p).cim = s.cim := rfl
@[simp] theorem State.setRun_acq (n : Nat) (p : Option Prog) : (s.setRun n p).acq = s.acq := rfl
@[simp] theorem State.setRun_aos (n : Nat) (p : Option Prog) : (s.setRun n p).aos = s.aos := rfl
@[simp] theorem State.setRun_aoSilent (n : Nat) (p : Option Prog) : (s.setRun n p).aoSilent = s.aoSilent := rfl
@[simp] theorem State.setRun_safe (n : Nat) (p : Option Prog) : (s.setRun n p).safe = s.safe := rfl
@[simp] theorem State.setRun_ledger (n : Nat) (p : Option Prog) : (s.setRun n p).ledger = s.ledger := rfl
@[simp] theorem State.setRun_hosts (n : Nat) (p : Option Prog) : (s.setRun n p).hosts = s.hosts := rfl
@[simp] theorem State.setRun_pwr (n : Nat) (p : Option Prog) : (s.setRun n p).pwr = s.pwr := rfl
@[simp] theorem State.setRun_boot (n : Nat) (p : Option Prog) : (s.setRun n p).boot = s.boot := rfl
@[simp] theorem State.setRun_tap (n : Nat) (p : Option Prog) : (s.setRun n p).tap = s.tap := rfl
@[simp] theorem State.setRun_irqCimp (n : Nat) (p : Option Prog) : (s.setRun n p).irqCimp = s.irqCimp := rfl
@[simp] theorem State.setRun_events (n : Nat) (p : Option Prog) : (s.setRun n p).events = s.events := rfl
@[simp] theorem State.setRun_irqFault (n : Nat) (p : Option Prog) : (s.setRun n p).irqFault = s.irqFault := rfl
@[simp] theorem State.setRun_irqHalt (n : Nat) (p : Option Prog) : (s.setRun n p).irqHalt = s.irqHalt := rfl
@[simp] theorem State.setRun_irqSto (n : Nat) (p : Option Prog) : (s.setRun n p).irqSto = s.irqSto := rfl
@[simp] theorem State.setRun_resp (n : Nat) (p : Option Prog) : (s.setRun n p).resp = s.resp := rfl
@[simp] theorem State.setRun_tx (n : Nat) (p : Option Prog) : (s.setRun n p).tx = s.tx := rfl
@[simp] theorem State.setRun_free (n : Nat) (p : Option Prog) : (s.setRun n p).free = s.free := rfl
@[simp] theorem State.setRun_pending (n : Nat) (p : Option Prog) : (s.setRun n p).pending = s.pending := rfl

@[simp] theorem State.send_timebase (port kind : Nat) (b : List Byte) : (s.send port kind b).timebase = s.timebase := rfl
@[simp] theorem State.send_regs (port kind : Nat) (b : List Byte) : (s.send port kind b).regs = s.regs := rfl
@[simp] theorem State.send_shadows (port kind : Nat) (b : List Byte) : (s.send port kind b).shadows = s.shadows := rfl
@[simp] theorem State.send_armed (port kind : Nat) (b : List Byte) : (s.send port kind b).armed = s.armed := rfl
@[simp] theorem State.send_latches (port kind : Nat) (b : List Byte) : (s.send port kind b).latches = s.latches := rfl
@[simp] theorem State.send_lyctx0 (port kind : Nat) (b : List Byte) : (s.send port kind b).lyctx0 = s.lyctx0 := rfl
@[simp] theorem State.send_lyctx1 (port kind : Nat) (b : List Byte) : (s.send port kind b).lyctx1 = s.lyctx1 := rfl
@[simp] theorem State.send_locked (port kind : Nat) (b : List Byte) : (s.send port kind b).locked = s.locked := rfl
@[simp] theorem State.send_d2dFails (port kind : Nat) (b : List Byte) : (s.send port kind b).d2dFails = s.d2dFails := rfl
@[simp] theorem State.send_mem (port kind : Nat) (b : List Byte) : (s.send port kind b).mem = s.mem := rfl
@[simp] theorem State.send_memsys (port kind : Nat) (b : List Byte) : (s.send port kind b).memsys = s.memsys := rfl
@[simp] theorem State.send_mmu (port kind : Nat) (b : List Byte) : (s.send port kind b).mmu = s.mmu := rfl
@[simp] theorem State.send_streams (port kind : Nat) (b : List Byte) : (s.send port kind b).streams = s.streams := rfl
@[simp] theorem State.send_sto (port kind : Nat) (b : List Byte) : (s.send port kind b).sto = s.sto := rfl
@[simp] theorem State.send_rings (port kind : Nat) (b : List Byte) : (s.send port kind b).rings = s.rings := rfl
@[simp] theorem State.send_chn (port kind : Nat) (b : List Byte) : (s.send port kind b).chn = s.chn := rfl
@[simp] theorem State.send_cim (port kind : Nat) (b : List Byte) : (s.send port kind b).cim = s.cim := rfl
@[simp] theorem State.send_acq (port kind : Nat) (b : List Byte) : (s.send port kind b).acq = s.acq := rfl
@[simp] theorem State.send_aos (port kind : Nat) (b : List Byte) : (s.send port kind b).aos = s.aos := rfl
@[simp] theorem State.send_aoSilent (port kind : Nat) (b : List Byte) : (s.send port kind b).aoSilent = s.aoSilent := rfl
@[simp] theorem State.send_safe (port kind : Nat) (b : List Byte) : (s.send port kind b).safe = s.safe := rfl
@[simp] theorem State.send_ledger (port kind : Nat) (b : List Byte) : (s.send port kind b).ledger = s.ledger := rfl
@[simp] theorem State.send_hosts (port kind : Nat) (b : List Byte) : (s.send port kind b).hosts = s.hosts := rfl
@[simp] theorem State.send_pwr (port kind : Nat) (b : List Byte) : (s.send port kind b).pwr = s.pwr := rfl
@[simp] theorem State.send_boot (port kind : Nat) (b : List Byte) : (s.send port kind b).boot = s.boot := rfl
@[simp] theorem State.send_tap (port kind : Nat) (b : List Byte) : (s.send port kind b).tap = s.tap := rfl
@[simp] theorem State.send_irqCimp (port kind : Nat) (b : List Byte) : (s.send port kind b).irqCimp = s.irqCimp := rfl
@[simp] theorem State.send_events (port kind : Nat) (b : List Byte) : (s.send port kind b).events = s.events := rfl
@[simp] theorem State.send_irqFault (port kind : Nat) (b : List Byte) : (s.send port kind b).irqFault = s.irqFault := rfl
@[simp] theorem State.send_irqHalt (port kind : Nat) (b : List Byte) : (s.send port kind b).irqHalt = s.irqHalt := rfl
@[simp] theorem State.send_irqSto (port kind : Nat) (b : List Byte) : (s.send port kind b).irqSto = s.irqSto := rfl
@[simp] theorem State.send_resp (port kind : Nat) (b : List Byte) : (s.send port kind b).resp = s.resp := rfl
@[simp] theorem State.send_free (port kind : Nat) (b : List Byte) : (s.send port kind b).free = s.free := rfl
@[simp] theorem State.send_pending (port kind : Nat) (b : List Byte) : (s.send port kind b).pending = s.pending := rfl

@[simp] theorem State.respond_timebase (e : Bool) (b : List Byte) : (s.respond e b).timebase = s.timebase := rfl
@[simp] theorem State.respond_regs (e : Bool) (b : List Byte) : (s.respond e b).regs = s.regs := rfl
@[simp] theorem State.respond_shadows (e : Bool) (b : List Byte) : (s.respond e b).shadows = s.shadows := rfl
@[simp] theorem State.respond_armed (e : Bool) (b : List Byte) : (s.respond e b).armed = s.armed := rfl
@[simp] theorem State.respond_latches (e : Bool) (b : List Byte) : (s.respond e b).latches = s.latches := rfl
@[simp] theorem State.respond_lyctx0 (e : Bool) (b : List Byte) : (s.respond e b).lyctx0 = s.lyctx0 := rfl
@[simp] theorem State.respond_lyctx1 (e : Bool) (b : List Byte) : (s.respond e b).lyctx1 = s.lyctx1 := rfl
@[simp] theorem State.respond_locked (e : Bool) (b : List Byte) : (s.respond e b).locked = s.locked := rfl
@[simp] theorem State.respond_d2dFails (e : Bool) (b : List Byte) : (s.respond e b).d2dFails = s.d2dFails := rfl
@[simp] theorem State.respond_mem (e : Bool) (b : List Byte) : (s.respond e b).mem = s.mem := rfl
@[simp] theorem State.respond_memsys (e : Bool) (b : List Byte) : (s.respond e b).memsys = s.memsys := rfl
@[simp] theorem State.respond_mmu (e : Bool) (b : List Byte) : (s.respond e b).mmu = s.mmu := rfl
@[simp] theorem State.respond_streams (e : Bool) (b : List Byte) : (s.respond e b).streams = s.streams := rfl
@[simp] theorem State.respond_sto (e : Bool) (b : List Byte) : (s.respond e b).sto = s.sto := rfl
@[simp] theorem State.respond_rings (e : Bool) (b : List Byte) : (s.respond e b).rings = s.rings := rfl
@[simp] theorem State.respond_chn (e : Bool) (b : List Byte) : (s.respond e b).chn = s.chn := rfl
@[simp] theorem State.respond_cim (e : Bool) (b : List Byte) : (s.respond e b).cim = s.cim := rfl
@[simp] theorem State.respond_acq (e : Bool) (b : List Byte) : (s.respond e b).acq = s.acq := rfl
@[simp] theorem State.respond_aos (e : Bool) (b : List Byte) : (s.respond e b).aos = s.aos := rfl
@[simp] theorem State.respond_aoSilent (e : Bool) (b : List Byte) : (s.respond e b).aoSilent = s.aoSilent := rfl
@[simp] theorem State.respond_safe (e : Bool) (b : List Byte) : (s.respond e b).safe = s.safe := rfl
@[simp] theorem State.respond_ledger (e : Bool) (b : List Byte) : (s.respond e b).ledger = s.ledger := rfl
@[simp] theorem State.respond_hosts (e : Bool) (b : List Byte) : (s.respond e b).hosts = s.hosts := rfl
@[simp] theorem State.respond_pwr (e : Bool) (b : List Byte) : (s.respond e b).pwr = s.pwr := rfl
@[simp] theorem State.respond_boot (e : Bool) (b : List Byte) : (s.respond e b).boot = s.boot := rfl
@[simp] theorem State.respond_tap (e : Bool) (b : List Byte) : (s.respond e b).tap = s.tap := rfl
@[simp] theorem State.respond_irqCimp (e : Bool) (b : List Byte) : (s.respond e b).irqCimp = s.irqCimp := rfl
@[simp] theorem State.respond_events (e : Bool) (b : List Byte) : (s.respond e b).events = s.events := rfl
@[simp] theorem State.respond_irqFault (e : Bool) (b : List Byte) : (s.respond e b).irqFault = s.irqFault := rfl
@[simp] theorem State.respond_irqHalt (e : Bool) (b : List Byte) : (s.respond e b).irqHalt = s.irqHalt := rfl
@[simp] theorem State.respond_irqSto (e : Bool) (b : List Byte) : (s.respond e b).irqSto = s.irqSto := rfl
@[simp] theorem State.respond_tx (e : Bool) (b : List Byte) : (s.respond e b).tx = s.tx := rfl
@[simp] theorem State.respond_free (e : Bool) (b : List Byte) : (s.respond e b).free = s.free := rfl
@[simp] theorem State.respond_pending (e : Bool) (b : List Byte) : (s.respond e b).pending = s.pending := rfl

@[simp] theorem State.setShadow_timebase (a : Nat) (v : Word) : (s.setShadow a v).timebase = s.timebase := rfl
@[simp] theorem State.setShadow_regs (a : Nat) (v : Word) : (s.setShadow a v).regs = s.regs := rfl
@[simp] theorem State.setShadow_armed (a : Nat) (v : Word) : (s.setShadow a v).armed = s.armed := rfl
@[simp] theorem State.setShadow_latches (a : Nat) (v : Word) : (s.setShadow a v).latches = s.latches := rfl
@[simp] theorem State.setShadow_lyctx0 (a : Nat) (v : Word) : (s.setShadow a v).lyctx0 = s.lyctx0 := rfl
@[simp] theorem State.setShadow_lyctx1 (a : Nat) (v : Word) : (s.setShadow a v).lyctx1 = s.lyctx1 := rfl
@[simp] theorem State.setShadow_locked (a : Nat) (v : Word) : (s.setShadow a v).locked = s.locked := rfl
@[simp] theorem State.setShadow_d2dFails (a : Nat) (v : Word) : (s.setShadow a v).d2dFails = s.d2dFails := rfl
@[simp] theorem State.setShadow_mem (a : Nat) (v : Word) : (s.setShadow a v).mem = s.mem := rfl
@[simp] theorem State.setShadow_memsys (a : Nat) (v : Word) : (s.setShadow a v).memsys = s.memsys := rfl
@[simp] theorem State.setShadow_mmu (a : Nat) (v : Word) : (s.setShadow a v).mmu = s.mmu := rfl
@[simp] theorem State.setShadow_streams (a : Nat) (v : Word) : (s.setShadow a v).streams = s.streams := rfl
@[simp] theorem State.setShadow_sto (a : Nat) (v : Word) : (s.setShadow a v).sto = s.sto := rfl
@[simp] theorem State.setShadow_rings (a : Nat) (v : Word) : (s.setShadow a v).rings = s.rings := rfl
@[simp] theorem State.setShadow_chn (a : Nat) (v : Word) : (s.setShadow a v).chn = s.chn := rfl
@[simp] theorem State.setShadow_cim (a : Nat) (v : Word) : (s.setShadow a v).cim = s.cim := rfl
@[simp] theorem State.setShadow_acq (a : Nat) (v : Word) : (s.setShadow a v).acq = s.acq := rfl
@[simp] theorem State.setShadow_aos (a : Nat) (v : Word) : (s.setShadow a v).aos = s.aos := rfl
@[simp] theorem State.setShadow_aoSilent (a : Nat) (v : Word) : (s.setShadow a v).aoSilent = s.aoSilent := rfl
@[simp] theorem State.setShadow_safe (a : Nat) (v : Word) : (s.setShadow a v).safe = s.safe := rfl
@[simp] theorem State.setShadow_ledger (a : Nat) (v : Word) : (s.setShadow a v).ledger = s.ledger := rfl
@[simp] theorem State.setShadow_hosts (a : Nat) (v : Word) : (s.setShadow a v).hosts = s.hosts := rfl
@[simp] theorem State.setShadow_pwr (a : Nat) (v : Word) : (s.setShadow a v).pwr = s.pwr := rfl
@[simp] theorem State.setShadow_boot (a : Nat) (v : Word) : (s.setShadow a v).boot = s.boot := rfl
@[simp] theorem State.setShadow_tap (a : Nat) (v : Word) : (s.setShadow a v).tap = s.tap := rfl
@[simp] theorem State.setShadow_irqCimp (a : Nat) (v : Word) : (s.setShadow a v).irqCimp = s.irqCimp := rfl
@[simp] theorem State.setShadow_events (a : Nat) (v : Word) : (s.setShadow a v).events = s.events := rfl
@[simp] theorem State.setShadow_irqFault (a : Nat) (v : Word) : (s.setShadow a v).irqFault = s.irqFault := rfl
@[simp] theorem State.setShadow_irqHalt (a : Nat) (v : Word) : (s.setShadow a v).irqHalt = s.irqHalt := rfl
@[simp] theorem State.setShadow_irqSto (a : Nat) (v : Word) : (s.setShadow a v).irqSto = s.irqSto := rfl
@[simp] theorem State.setShadow_resp (a : Nat) (v : Word) : (s.setShadow a v).resp = s.resp := rfl
@[simp] theorem State.setShadow_tx (a : Nat) (v : Word) : (s.setShadow a v).tx = s.tx := rfl
@[simp] theorem State.setShadow_free (a : Nat) (v : Word) : (s.setShadow a v).free = s.free := rfl
@[simp] theorem State.setShadow_pending (a : Nat) (v : Word) : (s.setShadow a v).pending = s.pending := rfl

@[simp] theorem State.dropShadow_timebase (a : Nat) : (s.dropShadow a).timebase = s.timebase := rfl
@[simp] theorem State.dropShadow_regs (a : Nat) : (s.dropShadow a).regs = s.regs := rfl
@[simp] theorem State.dropShadow_armed (a : Nat) : (s.dropShadow a).armed = s.armed := rfl
@[simp] theorem State.dropShadow_latches (a : Nat) : (s.dropShadow a).latches = s.latches := rfl
@[simp] theorem State.dropShadow_lyctx0 (a : Nat) : (s.dropShadow a).lyctx0 = s.lyctx0 := rfl
@[simp] theorem State.dropShadow_lyctx1 (a : Nat) : (s.dropShadow a).lyctx1 = s.lyctx1 := rfl
@[simp] theorem State.dropShadow_locked (a : Nat) : (s.dropShadow a).locked = s.locked := rfl
@[simp] theorem State.dropShadow_d2dFails (a : Nat) : (s.dropShadow a).d2dFails = s.d2dFails := rfl
@[simp] theorem State.dropShadow_mem (a : Nat) : (s.dropShadow a).mem = s.mem := rfl
@[simp] theorem State.dropShadow_memsys (a : Nat) : (s.dropShadow a).memsys = s.memsys := rfl
@[simp] theorem State.dropShadow_mmu (a : Nat) : (s.dropShadow a).mmu = s.mmu := rfl
@[simp] theorem State.dropShadow_streams (a : Nat) : (s.dropShadow a).streams = s.streams := rfl
@[simp] theorem State.dropShadow_sto (a : Nat) : (s.dropShadow a).sto = s.sto := rfl
@[simp] theorem State.dropShadow_rings (a : Nat) : (s.dropShadow a).rings = s.rings := rfl
@[simp] theorem State.dropShadow_chn (a : Nat) : (s.dropShadow a).chn = s.chn := rfl
@[simp] theorem State.dropShadow_cim (a : Nat) : (s.dropShadow a).cim = s.cim := rfl
@[simp] theorem State.dropShadow_acq (a : Nat) : (s.dropShadow a).acq = s.acq := rfl
@[simp] theorem State.dropShadow_aos (a : Nat) : (s.dropShadow a).aos = s.aos := rfl
@[simp] theorem State.dropShadow_aoSilent (a : Nat) : (s.dropShadow a).aoSilent = s.aoSilent := rfl
@[simp] theorem State.dropShadow_safe (a : Nat) : (s.dropShadow a).safe = s.safe := rfl
@[simp] theorem State.dropShadow_ledger (a : Nat) : (s.dropShadow a).ledger = s.ledger := rfl
@[simp] theorem State.dropShadow_hosts (a : Nat) : (s.dropShadow a).hosts = s.hosts := rfl
@[simp] theorem State.dropShadow_pwr (a : Nat) : (s.dropShadow a).pwr = s.pwr := rfl
@[simp] theorem State.dropShadow_boot (a : Nat) : (s.dropShadow a).boot = s.boot := rfl
@[simp] theorem State.dropShadow_tap (a : Nat) : (s.dropShadow a).tap = s.tap := rfl
@[simp] theorem State.dropShadow_irqCimp (a : Nat) : (s.dropShadow a).irqCimp = s.irqCimp := rfl
@[simp] theorem State.dropShadow_events (a : Nat) : (s.dropShadow a).events = s.events := rfl
@[simp] theorem State.dropShadow_irqFault (a : Nat) : (s.dropShadow a).irqFault = s.irqFault := rfl
@[simp] theorem State.dropShadow_irqHalt (a : Nat) : (s.dropShadow a).irqHalt = s.irqHalt := rfl
@[simp] theorem State.dropShadow_irqSto (a : Nat) : (s.dropShadow a).irqSto = s.irqSto := rfl
@[simp] theorem State.dropShadow_resp (a : Nat) : (s.dropShadow a).resp = s.resp := rfl
@[simp] theorem State.dropShadow_tx (a : Nat) : (s.dropShadow a).tx = s.tx := rfl
@[simp] theorem State.dropShadow_free (a : Nat) : (s.dropShadow a).free = s.free := rfl
@[simp] theorem State.dropShadow_pending (a : Nat) : (s.dropShadow a).pending = s.pending := rfl

@[simp] theorem State.setTlb_timebase (u : Nat) (l : List TlbEntry) : (s.setTlb u l).timebase = s.timebase := rfl
@[simp] theorem State.setTlb_regs (u : Nat) (l : List TlbEntry) : (s.setTlb u l).regs = s.regs := rfl
@[simp] theorem State.setTlb_shadows (u : Nat) (l : List TlbEntry) : (s.setTlb u l).shadows = s.shadows := rfl
@[simp] theorem State.setTlb_armed (u : Nat) (l : List TlbEntry) : (s.setTlb u l).armed = s.armed := rfl
@[simp] theorem State.setTlb_latches (u : Nat) (l : List TlbEntry) : (s.setTlb u l).latches = s.latches := rfl
@[simp] theorem State.setTlb_lyctx0 (u : Nat) (l : List TlbEntry) : (s.setTlb u l).lyctx0 = s.lyctx0 := rfl
@[simp] theorem State.setTlb_lyctx1 (u : Nat) (l : List TlbEntry) : (s.setTlb u l).lyctx1 = s.lyctx1 := rfl
@[simp] theorem State.setTlb_locked (u : Nat) (l : List TlbEntry) : (s.setTlb u l).locked = s.locked := rfl
@[simp] theorem State.setTlb_d2dFails (u : Nat) (l : List TlbEntry) : (s.setTlb u l).d2dFails = s.d2dFails := rfl
@[simp] theorem State.setTlb_mem (u : Nat) (l : List TlbEntry) : (s.setTlb u l).mem = s.mem := rfl
@[simp] theorem State.setTlb_memsys (u : Nat) (l : List TlbEntry) : (s.setTlb u l).memsys = s.memsys := rfl
@[simp] theorem State.setTlb_streams (u : Nat) (l : List TlbEntry) : (s.setTlb u l).streams = s.streams := rfl
@[simp] theorem State.setTlb_sto (u : Nat) (l : List TlbEntry) : (s.setTlb u l).sto = s.sto := rfl
@[simp] theorem State.setTlb_rings (u : Nat) (l : List TlbEntry) : (s.setTlb u l).rings = s.rings := rfl
@[simp] theorem State.setTlb_chn (u : Nat) (l : List TlbEntry) : (s.setTlb u l).chn = s.chn := rfl
@[simp] theorem State.setTlb_cim (u : Nat) (l : List TlbEntry) : (s.setTlb u l).cim = s.cim := rfl
@[simp] theorem State.setTlb_acq (u : Nat) (l : List TlbEntry) : (s.setTlb u l).acq = s.acq := rfl
@[simp] theorem State.setTlb_aos (u : Nat) (l : List TlbEntry) : (s.setTlb u l).aos = s.aos := rfl
@[simp] theorem State.setTlb_aoSilent (u : Nat) (l : List TlbEntry) : (s.setTlb u l).aoSilent = s.aoSilent := rfl
@[simp] theorem State.setTlb_safe (u : Nat) (l : List TlbEntry) : (s.setTlb u l).safe = s.safe := rfl
@[simp] theorem State.setTlb_ledger (u : Nat) (l : List TlbEntry) : (s.setTlb u l).ledger = s.ledger := rfl
@[simp] theorem State.setTlb_hosts (u : Nat) (l : List TlbEntry) : (s.setTlb u l).hosts = s.hosts := rfl
@[simp] theorem State.setTlb_pwr (u : Nat) (l : List TlbEntry) : (s.setTlb u l).pwr = s.pwr := rfl
@[simp] theorem State.setTlb_boot (u : Nat) (l : List TlbEntry) : (s.setTlb u l).boot = s.boot := rfl
@[simp] theorem State.setTlb_tap (u : Nat) (l : List TlbEntry) : (s.setTlb u l).tap = s.tap := rfl
@[simp] theorem State.setTlb_irqCimp (u : Nat) (l : List TlbEntry) : (s.setTlb u l).irqCimp = s.irqCimp := rfl
@[simp] theorem State.setTlb_events (u : Nat) (l : List TlbEntry) : (s.setTlb u l).events = s.events := rfl
@[simp] theorem State.setTlb_irqFault (u : Nat) (l : List TlbEntry) : (s.setTlb u l).irqFault = s.irqFault := rfl
@[simp] theorem State.setTlb_irqHalt (u : Nat) (l : List TlbEntry) : (s.setTlb u l).irqHalt = s.irqHalt := rfl
@[simp] theorem State.setTlb_irqSto (u : Nat) (l : List TlbEntry) : (s.setTlb u l).irqSto = s.irqSto := rfl
@[simp] theorem State.setTlb_resp (u : Nat) (l : List TlbEntry) : (s.setTlb u l).resp = s.resp := rfl
@[simp] theorem State.setTlb_tx (u : Nat) (l : List TlbEntry) : (s.setTlb u l).tx = s.tx := rfl
@[simp] theorem State.setTlb_free (u : Nat) (l : List TlbEntry) : (s.setTlb u l).free = s.free := rfl
@[simp] theorem State.setTlb_pending (u : Nat) (l : List TlbEntry) : (s.setTlb u l).pending = s.pending := rfl

@[simp] theorem State.setSto_timebase (t : Storage) : (s.setSto t).timebase = s.timebase := rfl
@[simp] theorem State.setSto_regs (t : Storage) : (s.setSto t).regs = s.regs := rfl
@[simp] theorem State.setSto_shadows (t : Storage) : (s.setSto t).shadows = s.shadows := rfl
@[simp] theorem State.setSto_armed (t : Storage) : (s.setSto t).armed = s.armed := rfl
@[simp] theorem State.setSto_latches (t : Storage) : (s.setSto t).latches = s.latches := rfl
@[simp] theorem State.setSto_lyctx0 (t : Storage) : (s.setSto t).lyctx0 = s.lyctx0 := rfl
@[simp] theorem State.setSto_lyctx1 (t : Storage) : (s.setSto t).lyctx1 = s.lyctx1 := rfl
@[simp] theorem State.setSto_locked (t : Storage) : (s.setSto t).locked = s.locked := rfl
@[simp] theorem State.setSto_d2dFails (t : Storage) : (s.setSto t).d2dFails = s.d2dFails := rfl
@[simp] theorem State.setSto_mem (t : Storage) : (s.setSto t).mem = s.mem := rfl
@[simp] theorem State.setSto_memsys (t : Storage) : (s.setSto t).memsys = s.memsys := rfl
@[simp] theorem State.setSto_mmu (t : Storage) : (s.setSto t).mmu = s.mmu := rfl
@[simp] theorem State.setSto_streams (t : Storage) : (s.setSto t).streams = s.streams := rfl
@[simp] theorem State.setSto_rings (t : Storage) : (s.setSto t).rings = s.rings := rfl
@[simp] theorem State.setSto_chn (t : Storage) : (s.setSto t).chn = s.chn := rfl
@[simp] theorem State.setSto_cim (t : Storage) : (s.setSto t).cim = s.cim := rfl
@[simp] theorem State.setSto_acq (t : Storage) : (s.setSto t).acq = s.acq := rfl
@[simp] theorem State.setSto_aos (t : Storage) : (s.setSto t).aos = s.aos := rfl
@[simp] theorem State.setSto_aoSilent (t : Storage) : (s.setSto t).aoSilent = s.aoSilent := rfl
@[simp] theorem State.setSto_safe (t : Storage) : (s.setSto t).safe = s.safe := rfl
@[simp] theorem State.setSto_ledger (t : Storage) : (s.setSto t).ledger = s.ledger := rfl
@[simp] theorem State.setSto_hosts (t : Storage) : (s.setSto t).hosts = s.hosts := rfl
@[simp] theorem State.setSto_pwr (t : Storage) : (s.setSto t).pwr = s.pwr := rfl
@[simp] theorem State.setSto_boot (t : Storage) : (s.setSto t).boot = s.boot := rfl
@[simp] theorem State.setSto_tap (t : Storage) : (s.setSto t).tap = s.tap := rfl
@[simp] theorem State.setSto_irqCimp (t : Storage) : (s.setSto t).irqCimp = s.irqCimp := rfl
@[simp] theorem State.setSto_events (t : Storage) : (s.setSto t).events = s.events := rfl
@[simp] theorem State.setSto_irqFault (t : Storage) : (s.setSto t).irqFault = s.irqFault := rfl
@[simp] theorem State.setSto_irqHalt (t : Storage) : (s.setSto t).irqHalt = s.irqHalt := rfl
@[simp] theorem State.setSto_irqSto (t : Storage) : (s.setSto t).irqSto = s.irqSto := rfl
@[simp] theorem State.setSto_resp (t : Storage) : (s.setSto t).resp = s.resp := rfl
@[simp] theorem State.setSto_tx (t : Storage) : (s.setSto t).tx = s.tx := rfl
@[simp] theorem State.setSto_free (t : Storage) : (s.setSto t).free = s.free := rfl
@[simp] theorem State.setSto_pending (t : Storage) : (s.setSto t).pending = s.pending := rfl

@[simp] theorem State.setTile_timebase (d t : Nat) (x : Tile) : (s.setTile d t x).timebase = s.timebase := rfl
@[simp] theorem State.setTile_regs (d t : Nat) (x : Tile) : (s.setTile d t x).regs = s.regs := rfl
@[simp] theorem State.setTile_shadows (d t : Nat) (x : Tile) : (s.setTile d t x).shadows = s.shadows := rfl
@[simp] theorem State.setTile_armed (d t : Nat) (x : Tile) : (s.setTile d t x).armed = s.armed := rfl
@[simp] theorem State.setTile_latches (d t : Nat) (x : Tile) : (s.setTile d t x).latches = s.latches := rfl
@[simp] theorem State.setTile_lyctx0 (d t : Nat) (x : Tile) : (s.setTile d t x).lyctx0 = s.lyctx0 := rfl
@[simp] theorem State.setTile_lyctx1 (d t : Nat) (x : Tile) : (s.setTile d t x).lyctx1 = s.lyctx1 := rfl
@[simp] theorem State.setTile_locked (d t : Nat) (x : Tile) : (s.setTile d t x).locked = s.locked := rfl
@[simp] theorem State.setTile_d2dFails (d t : Nat) (x : Tile) : (s.setTile d t x).d2dFails = s.d2dFails := rfl
@[simp] theorem State.setTile_mem (d t : Nat) (x : Tile) : (s.setTile d t x).mem = s.mem := rfl
@[simp] theorem State.setTile_memsys (d t : Nat) (x : Tile) : (s.setTile d t x).memsys = s.memsys := rfl
@[simp] theorem State.setTile_mmu (d t : Nat) (x : Tile) : (s.setTile d t x).mmu = s.mmu := rfl
@[simp] theorem State.setTile_streams (d t : Nat) (x : Tile) : (s.setTile d t x).streams = s.streams := rfl
@[simp] theorem State.setTile_sto (d t : Nat) (x : Tile) : (s.setTile d t x).sto = s.sto := rfl
@[simp] theorem State.setTile_rings (d t : Nat) (x : Tile) : (s.setTile d t x).rings = s.rings := rfl
@[simp] theorem State.setTile_chn (d t : Nat) (x : Tile) : (s.setTile d t x).chn = s.chn := rfl
@[simp] theorem State.setTile_acq (d t : Nat) (x : Tile) : (s.setTile d t x).acq = s.acq := rfl
@[simp] theorem State.setTile_aos (d t : Nat) (x : Tile) : (s.setTile d t x).aos = s.aos := rfl
@[simp] theorem State.setTile_aoSilent (d t : Nat) (x : Tile) : (s.setTile d t x).aoSilent = s.aoSilent := rfl
@[simp] theorem State.setTile_safe (d t : Nat) (x : Tile) : (s.setTile d t x).safe = s.safe := rfl
@[simp] theorem State.setTile_ledger (d t : Nat) (x : Tile) : (s.setTile d t x).ledger = s.ledger := rfl
@[simp] theorem State.setTile_hosts (d t : Nat) (x : Tile) : (s.setTile d t x).hosts = s.hosts := rfl
@[simp] theorem State.setTile_pwr (d t : Nat) (x : Tile) : (s.setTile d t x).pwr = s.pwr := rfl
@[simp] theorem State.setTile_boot (d t : Nat) (x : Tile) : (s.setTile d t x).boot = s.boot := rfl
@[simp] theorem State.setTile_tap (d t : Nat) (x : Tile) : (s.setTile d t x).tap = s.tap := rfl
@[simp] theorem State.setTile_irqCimp (d t : Nat) (x : Tile) : (s.setTile d t x).irqCimp = s.irqCimp := rfl
@[simp] theorem State.setTile_events (d t : Nat) (x : Tile) : (s.setTile d t x).events = s.events := rfl
@[simp] theorem State.setTile_irqFault (d t : Nat) (x : Tile) : (s.setTile d t x).irqFault = s.irqFault := rfl
@[simp] theorem State.setTile_irqHalt (d t : Nat) (x : Tile) : (s.setTile d t x).irqHalt = s.irqHalt := rfl
@[simp] theorem State.setTile_irqSto (d t : Nat) (x : Tile) : (s.setTile d t x).irqSto = s.irqSto := rfl
@[simp] theorem State.setTile_resp (d t : Nat) (x : Tile) : (s.setTile d t x).resp = s.resp := rfl
@[simp] theorem State.setTile_tx (d t : Nat) (x : Tile) : (s.setTile d t x).tx = s.tx := rfl
@[simp] theorem State.setTile_free (d t : Nat) (x : Tile) : (s.setTile d t x).free = s.free := rfl
@[simp] theorem State.setTile_pending (d t : Nat) (x : Tile) : (s.setTile d t x).pending = s.pending := rfl

@[simp] theorem State.setCmds_timebase (d : Nat) (l : List TileCmd) : (s.setCmds d l).timebase = s.timebase := rfl
@[simp] theorem State.setCmds_regs (d : Nat) (l : List TileCmd) : (s.setCmds d l).regs = s.regs := rfl
@[simp] theorem State.setCmds_shadows (d : Nat) (l : List TileCmd) : (s.setCmds d l).shadows = s.shadows := rfl
@[simp] theorem State.setCmds_armed (d : Nat) (l : List TileCmd) : (s.setCmds d l).armed = s.armed := rfl
@[simp] theorem State.setCmds_latches (d : Nat) (l : List TileCmd) : (s.setCmds d l).latches = s.latches := rfl
@[simp] theorem State.setCmds_lyctx0 (d : Nat) (l : List TileCmd) : (s.setCmds d l).lyctx0 = s.lyctx0 := rfl
@[simp] theorem State.setCmds_lyctx1 (d : Nat) (l : List TileCmd) : (s.setCmds d l).lyctx1 = s.lyctx1 := rfl
@[simp] theorem State.setCmds_locked (d : Nat) (l : List TileCmd) : (s.setCmds d l).locked = s.locked := rfl
@[simp] theorem State.setCmds_d2dFails (d : Nat) (l : List TileCmd) : (s.setCmds d l).d2dFails = s.d2dFails := rfl
@[simp] theorem State.setCmds_mem (d : Nat) (l : List TileCmd) : (s.setCmds d l).mem = s.mem := rfl
@[simp] theorem State.setCmds_memsys (d : Nat) (l : List TileCmd) : (s.setCmds d l).memsys = s.memsys := rfl
@[simp] theorem State.setCmds_mmu (d : Nat) (l : List TileCmd) : (s.setCmds d l).mmu = s.mmu := rfl
@[simp] theorem State.setCmds_streams (d : Nat) (l : List TileCmd) : (s.setCmds d l).streams = s.streams := rfl
@[simp] theorem State.setCmds_sto (d : Nat) (l : List TileCmd) : (s.setCmds d l).sto = s.sto := rfl
@[simp] theorem State.setCmds_rings (d : Nat) (l : List TileCmd) : (s.setCmds d l).rings = s.rings := rfl
@[simp] theorem State.setCmds_chn (d : Nat) (l : List TileCmd) : (s.setCmds d l).chn = s.chn := rfl
@[simp] theorem State.setCmds_acq (d : Nat) (l : List TileCmd) : (s.setCmds d l).acq = s.acq := rfl
@[simp] theorem State.setCmds_aos (d : Nat) (l : List TileCmd) : (s.setCmds d l).aos = s.aos := rfl
@[simp] theorem State.setCmds_aoSilent (d : Nat) (l : List TileCmd) : (s.setCmds d l).aoSilent = s.aoSilent := rfl
@[simp] theorem State.setCmds_safe (d : Nat) (l : List TileCmd) : (s.setCmds d l).safe = s.safe := rfl
@[simp] theorem State.setCmds_ledger (d : Nat) (l : List TileCmd) : (s.setCmds d l).ledger = s.ledger := rfl
@[simp] theorem State.setCmds_hosts (d : Nat) (l : List TileCmd) : (s.setCmds d l).hosts = s.hosts := rfl
@[simp] theorem State.setCmds_pwr (d : Nat) (l : List TileCmd) : (s.setCmds d l).pwr = s.pwr := rfl
@[simp] theorem State.setCmds_boot (d : Nat) (l : List TileCmd) : (s.setCmds d l).boot = s.boot := rfl
@[simp] theorem State.setCmds_tap (d : Nat) (l : List TileCmd) : (s.setCmds d l).tap = s.tap := rfl
@[simp] theorem State.setCmds_irqCimp (d : Nat) (l : List TileCmd) : (s.setCmds d l).irqCimp = s.irqCimp := rfl
@[simp] theorem State.setCmds_events (d : Nat) (l : List TileCmd) : (s.setCmds d l).events = s.events := rfl
@[simp] theorem State.setCmds_irqFault (d : Nat) (l : List TileCmd) : (s.setCmds d l).irqFault = s.irqFault := rfl
@[simp] theorem State.setCmds_irqHalt (d : Nat) (l : List TileCmd) : (s.setCmds d l).irqHalt = s.irqHalt := rfl
@[simp] theorem State.setCmds_irqSto (d : Nat) (l : List TileCmd) : (s.setCmds d l).irqSto = s.irqSto := rfl
@[simp] theorem State.setCmds_resp (d : Nat) (l : List TileCmd) : (s.setCmds d l).resp = s.resp := rfl
@[simp] theorem State.setCmds_tx (d : Nat) (l : List TileCmd) : (s.setCmds d l).tx = s.tx := rfl
@[simp] theorem State.setCmds_free (d : Nat) (l : List TileCmd) : (s.setCmds d l).free = s.free := rfl
@[simp] theorem State.setCmds_pending (d : Nat) (l : List TileCmd) : (s.setCmds d l).pending = s.pending := rfl

@[simp] theorem State.setChan_timebase (c : Nat) (x : Chan) : (s.setChan c x).timebase = s.timebase := rfl
@[simp] theorem State.setChan_regs (c : Nat) (x : Chan) : (s.setChan c x).regs = s.regs := rfl
@[simp] theorem State.setChan_shadows (c : Nat) (x : Chan) : (s.setChan c x).shadows = s.shadows := rfl
@[simp] theorem State.setChan_armed (c : Nat) (x : Chan) : (s.setChan c x).armed = s.armed := rfl
@[simp] theorem State.setChan_latches (c : Nat) (x : Chan) : (s.setChan c x).latches = s.latches := rfl
@[simp] theorem State.setChan_lyctx0 (c : Nat) (x : Chan) : (s.setChan c x).lyctx0 = s.lyctx0 := rfl
@[simp] theorem State.setChan_lyctx1 (c : Nat) (x : Chan) : (s.setChan c x).lyctx1 = s.lyctx1 := rfl
@[simp] theorem State.setChan_locked (c : Nat) (x : Chan) : (s.setChan c x).locked = s.locked := rfl
@[simp] theorem State.setChan_d2dFails (c : Nat) (x : Chan) : (s.setChan c x).d2dFails = s.d2dFails := rfl
@[simp] theorem State.setChan_mem (c : Nat) (x : Chan) : (s.setChan c x).mem = s.mem := rfl
@[simp] theorem State.setChan_memsys (c : Nat) (x : Chan) : (s.setChan c x).memsys = s.memsys := rfl
@[simp] theorem State.setChan_mmu (c : Nat) (x : Chan) : (s.setChan c x).mmu = s.mmu := rfl
@[simp] theorem State.setChan_streams (c : Nat) (x : Chan) : (s.setChan c x).streams = s.streams := rfl
@[simp] theorem State.setChan_sto (c : Nat) (x : Chan) : (s.setChan c x).sto = s.sto := rfl
@[simp] theorem State.setChan_rings (c : Nat) (x : Chan) : (s.setChan c x).rings = s.rings := rfl
@[simp] theorem State.setChan_chn (c : Nat) (x : Chan) : (s.setChan c x).chn = s.chn := rfl
@[simp] theorem State.setChan_cim (c : Nat) (x : Chan) : (s.setChan c x).cim = s.cim := rfl
@[simp] theorem State.setChan_aos (c : Nat) (x : Chan) : (s.setChan c x).aos = s.aos := rfl
@[simp] theorem State.setChan_aoSilent (c : Nat) (x : Chan) : (s.setChan c x).aoSilent = s.aoSilent := rfl
@[simp] theorem State.setChan_safe (c : Nat) (x : Chan) : (s.setChan c x).safe = s.safe := rfl
@[simp] theorem State.setChan_ledger (c : Nat) (x : Chan) : (s.setChan c x).ledger = s.ledger := rfl
@[simp] theorem State.setChan_hosts (c : Nat) (x : Chan) : (s.setChan c x).hosts = s.hosts := rfl
@[simp] theorem State.setChan_pwr (c : Nat) (x : Chan) : (s.setChan c x).pwr = s.pwr := rfl
@[simp] theorem State.setChan_boot (c : Nat) (x : Chan) : (s.setChan c x).boot = s.boot := rfl
@[simp] theorem State.setChan_tap (c : Nat) (x : Chan) : (s.setChan c x).tap = s.tap := rfl
@[simp] theorem State.setChan_irqCimp (c : Nat) (x : Chan) : (s.setChan c x).irqCimp = s.irqCimp := rfl
@[simp] theorem State.setChan_events (c : Nat) (x : Chan) : (s.setChan c x).events = s.events := rfl
@[simp] theorem State.setChan_irqFault (c : Nat) (x : Chan) : (s.setChan c x).irqFault = s.irqFault := rfl
@[simp] theorem State.setChan_irqHalt (c : Nat) (x : Chan) : (s.setChan c x).irqHalt = s.irqHalt := rfl
@[simp] theorem State.setChan_irqSto (c : Nat) (x : Chan) : (s.setChan c x).irqSto = s.irqSto := rfl
@[simp] theorem State.setChan_resp (c : Nat) (x : Chan) : (s.setChan c x).resp = s.resp := rfl
@[simp] theorem State.setChan_tx (c : Nat) (x : Chan) : (s.setChan c x).tx = s.tx := rfl
@[simp] theorem State.setChan_free (c : Nat) (x : Chan) : (s.setChan c x).free = s.free := rfl
@[simp] theorem State.setChan_pending (c : Nat) (x : Chan) : (s.setChan c x).pending = s.pending := rfl

@[simp] theorem State.setAcq_timebase (n : Nat) (x : AcqStream) : (s.setAcq n x).timebase = s.timebase := rfl
@[simp] theorem State.setAcq_regs (n : Nat) (x : AcqStream) : (s.setAcq n x).regs = s.regs := rfl
@[simp] theorem State.setAcq_shadows (n : Nat) (x : AcqStream) : (s.setAcq n x).shadows = s.shadows := rfl
@[simp] theorem State.setAcq_armed (n : Nat) (x : AcqStream) : (s.setAcq n x).armed = s.armed := rfl
@[simp] theorem State.setAcq_latches (n : Nat) (x : AcqStream) : (s.setAcq n x).latches = s.latches := rfl
@[simp] theorem State.setAcq_lyctx0 (n : Nat) (x : AcqStream) : (s.setAcq n x).lyctx0 = s.lyctx0 := rfl
@[simp] theorem State.setAcq_lyctx1 (n : Nat) (x : AcqStream) : (s.setAcq n x).lyctx1 = s.lyctx1 := rfl
@[simp] theorem State.setAcq_locked (n : Nat) (x : AcqStream) : (s.setAcq n x).locked = s.locked := rfl
@[simp] theorem State.setAcq_d2dFails (n : Nat) (x : AcqStream) : (s.setAcq n x).d2dFails = s.d2dFails := rfl
@[simp] theorem State.setAcq_mem (n : Nat) (x : AcqStream) : (s.setAcq n x).mem = s.mem := rfl
@[simp] theorem State.setAcq_memsys (n : Nat) (x : AcqStream) : (s.setAcq n x).memsys = s.memsys := rfl
@[simp] theorem State.setAcq_mmu (n : Nat) (x : AcqStream) : (s.setAcq n x).mmu = s.mmu := rfl
@[simp] theorem State.setAcq_streams (n : Nat) (x : AcqStream) : (s.setAcq n x).streams = s.streams := rfl
@[simp] theorem State.setAcq_sto (n : Nat) (x : AcqStream) : (s.setAcq n x).sto = s.sto := rfl
@[simp] theorem State.setAcq_rings (n : Nat) (x : AcqStream) : (s.setAcq n x).rings = s.rings := rfl
@[simp] theorem State.setAcq_chn (n : Nat) (x : AcqStream) : (s.setAcq n x).chn = s.chn := rfl
@[simp] theorem State.setAcq_cim (n : Nat) (x : AcqStream) : (s.setAcq n x).cim = s.cim := rfl
@[simp] theorem State.setAcq_aos (n : Nat) (x : AcqStream) : (s.setAcq n x).aos = s.aos := rfl
@[simp] theorem State.setAcq_aoSilent (n : Nat) (x : AcqStream) : (s.setAcq n x).aoSilent = s.aoSilent := rfl
@[simp] theorem State.setAcq_safe (n : Nat) (x : AcqStream) : (s.setAcq n x).safe = s.safe := rfl
@[simp] theorem State.setAcq_ledger (n : Nat) (x : AcqStream) : (s.setAcq n x).ledger = s.ledger := rfl
@[simp] theorem State.setAcq_hosts (n : Nat) (x : AcqStream) : (s.setAcq n x).hosts = s.hosts := rfl
@[simp] theorem State.setAcq_pwr (n : Nat) (x : AcqStream) : (s.setAcq n x).pwr = s.pwr := rfl
@[simp] theorem State.setAcq_boot (n : Nat) (x : AcqStream) : (s.setAcq n x).boot = s.boot := rfl
@[simp] theorem State.setAcq_tap (n : Nat) (x : AcqStream) : (s.setAcq n x).tap = s.tap := rfl
@[simp] theorem State.setAcq_irqCimp (n : Nat) (x : AcqStream) : (s.setAcq n x).irqCimp = s.irqCimp := rfl
@[simp] theorem State.setAcq_events (n : Nat) (x : AcqStream) : (s.setAcq n x).events = s.events := rfl
@[simp] theorem State.setAcq_irqFault (n : Nat) (x : AcqStream) : (s.setAcq n x).irqFault = s.irqFault := rfl
@[simp] theorem State.setAcq_irqHalt (n : Nat) (x : AcqStream) : (s.setAcq n x).irqHalt = s.irqHalt := rfl
@[simp] theorem State.setAcq_irqSto (n : Nat) (x : AcqStream) : (s.setAcq n x).irqSto = s.irqSto := rfl
@[simp] theorem State.setAcq_resp (n : Nat) (x : AcqStream) : (s.setAcq n x).resp = s.resp := rfl
@[simp] theorem State.setAcq_tx (n : Nat) (x : AcqStream) : (s.setAcq n x).tx = s.tx := rfl
@[simp] theorem State.setAcq_free (n : Nat) (x : AcqStream) : (s.setAcq n x).free = s.free := rfl
@[simp] theorem State.setAcq_pending (n : Nat) (x : AcqStream) : (s.setAcq n x).pending = s.pending := rfl

@[simp] theorem State.setAo_timebase (n : Nat) (x : Ao) : (s.setAo n x).timebase = s.timebase := rfl
@[simp] theorem State.setAo_regs (n : Nat) (x : Ao) : (s.setAo n x).regs = s.regs := rfl
@[simp] theorem State.setAo_shadows (n : Nat) (x : Ao) : (s.setAo n x).shadows = s.shadows := rfl
@[simp] theorem State.setAo_armed (n : Nat) (x : Ao) : (s.setAo n x).armed = s.armed := rfl
@[simp] theorem State.setAo_latches (n : Nat) (x : Ao) : (s.setAo n x).latches = s.latches := rfl
@[simp] theorem State.setAo_lyctx0 (n : Nat) (x : Ao) : (s.setAo n x).lyctx0 = s.lyctx0 := rfl
@[simp] theorem State.setAo_lyctx1 (n : Nat) (x : Ao) : (s.setAo n x).lyctx1 = s.lyctx1 := rfl
@[simp] theorem State.setAo_locked (n : Nat) (x : Ao) : (s.setAo n x).locked = s.locked := rfl
@[simp] theorem State.setAo_d2dFails (n : Nat) (x : Ao) : (s.setAo n x).d2dFails = s.d2dFails := rfl
@[simp] theorem State.setAo_mem (n : Nat) (x : Ao) : (s.setAo n x).mem = s.mem := rfl
@[simp] theorem State.setAo_memsys (n : Nat) (x : Ao) : (s.setAo n x).memsys = s.memsys := rfl
@[simp] theorem State.setAo_mmu (n : Nat) (x : Ao) : (s.setAo n x).mmu = s.mmu := rfl
@[simp] theorem State.setAo_streams (n : Nat) (x : Ao) : (s.setAo n x).streams = s.streams := rfl
@[simp] theorem State.setAo_sto (n : Nat) (x : Ao) : (s.setAo n x).sto = s.sto := rfl
@[simp] theorem State.setAo_rings (n : Nat) (x : Ao) : (s.setAo n x).rings = s.rings := rfl
@[simp] theorem State.setAo_chn (n : Nat) (x : Ao) : (s.setAo n x).chn = s.chn := rfl
@[simp] theorem State.setAo_cim (n : Nat) (x : Ao) : (s.setAo n x).cim = s.cim := rfl
@[simp] theorem State.setAo_acq (n : Nat) (x : Ao) : (s.setAo n x).acq = s.acq := rfl
@[simp] theorem State.setAo_aoSilent (n : Nat) (x : Ao) : (s.setAo n x).aoSilent = s.aoSilent := rfl
@[simp] theorem State.setAo_safe (n : Nat) (x : Ao) : (s.setAo n x).safe = s.safe := rfl
@[simp] theorem State.setAo_ledger (n : Nat) (x : Ao) : (s.setAo n x).ledger = s.ledger := rfl
@[simp] theorem State.setAo_hosts (n : Nat) (x : Ao) : (s.setAo n x).hosts = s.hosts := rfl
@[simp] theorem State.setAo_pwr (n : Nat) (x : Ao) : (s.setAo n x).pwr = s.pwr := rfl
@[simp] theorem State.setAo_boot (n : Nat) (x : Ao) : (s.setAo n x).boot = s.boot := rfl
@[simp] theorem State.setAo_tap (n : Nat) (x : Ao) : (s.setAo n x).tap = s.tap := rfl
@[simp] theorem State.setAo_irqCimp (n : Nat) (x : Ao) : (s.setAo n x).irqCimp = s.irqCimp := rfl
@[simp] theorem State.setAo_events (n : Nat) (x : Ao) : (s.setAo n x).events = s.events := rfl
@[simp] theorem State.setAo_irqFault (n : Nat) (x : Ao) : (s.setAo n x).irqFault = s.irqFault := rfl
@[simp] theorem State.setAo_irqHalt (n : Nat) (x : Ao) : (s.setAo n x).irqHalt = s.irqHalt := rfl
@[simp] theorem State.setAo_irqSto (n : Nat) (x : Ao) : (s.setAo n x).irqSto = s.irqSto := rfl
@[simp] theorem State.setAo_resp (n : Nat) (x : Ao) : (s.setAo n x).resp = s.resp := rfl
@[simp] theorem State.setAo_tx (n : Nat) (x : Ao) : (s.setAo n x).tx = s.tx := rfl
@[simp] theorem State.setAo_free (n : Nat) (x : Ao) : (s.setAo n x).free = s.free := rfl
@[simp] theorem State.setAo_pending (n : Nat) (x : Ao) : (s.setAo n x).pending = s.pending := rfl

@[simp] theorem State.setSafe_timebase (x : Safe) : (s.setSafe x).timebase = s.timebase := rfl
@[simp] theorem State.setSafe_regs (x : Safe) : (s.setSafe x).regs = s.regs := rfl
@[simp] theorem State.setSafe_shadows (x : Safe) : (s.setSafe x).shadows = s.shadows := rfl
@[simp] theorem State.setSafe_armed (x : Safe) : (s.setSafe x).armed = s.armed := rfl
@[simp] theorem State.setSafe_latches (x : Safe) : (s.setSafe x).latches = s.latches := rfl
@[simp] theorem State.setSafe_lyctx0 (x : Safe) : (s.setSafe x).lyctx0 = s.lyctx0 := rfl
@[simp] theorem State.setSafe_lyctx1 (x : Safe) : (s.setSafe x).lyctx1 = s.lyctx1 := rfl
@[simp] theorem State.setSafe_locked (x : Safe) : (s.setSafe x).locked = s.locked := rfl
@[simp] theorem State.setSafe_d2dFails (x : Safe) : (s.setSafe x).d2dFails = s.d2dFails := rfl
@[simp] theorem State.setSafe_mem (x : Safe) : (s.setSafe x).mem = s.mem := rfl
@[simp] theorem State.setSafe_memsys (x : Safe) : (s.setSafe x).memsys = s.memsys := rfl
@[simp] theorem State.setSafe_mmu (x : Safe) : (s.setSafe x).mmu = s.mmu := rfl
@[simp] theorem State.setSafe_streams (x : Safe) : (s.setSafe x).streams = s.streams := rfl
@[simp] theorem State.setSafe_sto (x : Safe) : (s.setSafe x).sto = s.sto := rfl
@[simp] theorem State.setSafe_rings (x : Safe) : (s.setSafe x).rings = s.rings := rfl
@[simp] theorem State.setSafe_chn (x : Safe) : (s.setSafe x).chn = s.chn := rfl
@[simp] theorem State.setSafe_cim (x : Safe) : (s.setSafe x).cim = s.cim := rfl
@[simp] theorem State.setSafe_acq (x : Safe) : (s.setSafe x).acq = s.acq := rfl
@[simp] theorem State.setSafe_aos (x : Safe) : (s.setSafe x).aos = s.aos := rfl
@[simp] theorem State.setSafe_aoSilent (x : Safe) : (s.setSafe x).aoSilent = s.aoSilent := rfl
@[simp] theorem State.setSafe_ledger (x : Safe) : (s.setSafe x).ledger = s.ledger := rfl
@[simp] theorem State.setSafe_hosts (x : Safe) : (s.setSafe x).hosts = s.hosts := rfl
@[simp] theorem State.setSafe_pwr (x : Safe) : (s.setSafe x).pwr = s.pwr := rfl
@[simp] theorem State.setSafe_boot (x : Safe) : (s.setSafe x).boot = s.boot := rfl
@[simp] theorem State.setSafe_tap (x : Safe) : (s.setSafe x).tap = s.tap := rfl
@[simp] theorem State.setSafe_irqCimp (x : Safe) : (s.setSafe x).irqCimp = s.irqCimp := rfl
@[simp] theorem State.setSafe_events (x : Safe) : (s.setSafe x).events = s.events := rfl
@[simp] theorem State.setSafe_irqFault (x : Safe) : (s.setSafe x).irqFault = s.irqFault := rfl
@[simp] theorem State.setSafe_irqHalt (x : Safe) : (s.setSafe x).irqHalt = s.irqHalt := rfl
@[simp] theorem State.setSafe_irqSto (x : Safe) : (s.setSafe x).irqSto = s.irqSto := rfl
@[simp] theorem State.setSafe_resp (x : Safe) : (s.setSafe x).resp = s.resp := rfl
@[simp] theorem State.setSafe_tx (x : Safe) : (s.setSafe x).tx = s.tx := rfl
@[simp] theorem State.setSafe_free (x : Safe) : (s.setSafe x).free = s.free := rfl
@[simp] theorem State.setSafe_pending (x : Safe) : (s.setSafe x).pending = s.pending := rfl

@[simp] theorem State.setLedger_timebase (x : Ledger) : (s.setLedger x).timebase = s.timebase := rfl
@[simp] theorem State.setLedger_regs (x : Ledger) : (s.setLedger x).regs = s.regs := rfl
@[simp] theorem State.setLedger_shadows (x : Ledger) : (s.setLedger x).shadows = s.shadows := rfl
@[simp] theorem State.setLedger_armed (x : Ledger) : (s.setLedger x).armed = s.armed := rfl
@[simp] theorem State.setLedger_latches (x : Ledger) : (s.setLedger x).latches = s.latches := rfl
@[simp] theorem State.setLedger_lyctx0 (x : Ledger) : (s.setLedger x).lyctx0 = s.lyctx0 := rfl
@[simp] theorem State.setLedger_lyctx1 (x : Ledger) : (s.setLedger x).lyctx1 = s.lyctx1 := rfl
@[simp] theorem State.setLedger_locked (x : Ledger) : (s.setLedger x).locked = s.locked := rfl
@[simp] theorem State.setLedger_d2dFails (x : Ledger) : (s.setLedger x).d2dFails = s.d2dFails := rfl
@[simp] theorem State.setLedger_mem (x : Ledger) : (s.setLedger x).mem = s.mem := rfl
@[simp] theorem State.setLedger_memsys (x : Ledger) : (s.setLedger x).memsys = s.memsys := rfl
@[simp] theorem State.setLedger_mmu (x : Ledger) : (s.setLedger x).mmu = s.mmu := rfl
@[simp] theorem State.setLedger_streams (x : Ledger) : (s.setLedger x).streams = s.streams := rfl
@[simp] theorem State.setLedger_sto (x : Ledger) : (s.setLedger x).sto = s.sto := rfl
@[simp] theorem State.setLedger_rings (x : Ledger) : (s.setLedger x).rings = s.rings := rfl
@[simp] theorem State.setLedger_chn (x : Ledger) : (s.setLedger x).chn = s.chn := rfl
@[simp] theorem State.setLedger_cim (x : Ledger) : (s.setLedger x).cim = s.cim := rfl
@[simp] theorem State.setLedger_acq (x : Ledger) : (s.setLedger x).acq = s.acq := rfl
@[simp] theorem State.setLedger_aos (x : Ledger) : (s.setLedger x).aos = s.aos := rfl
@[simp] theorem State.setLedger_aoSilent (x : Ledger) : (s.setLedger x).aoSilent = s.aoSilent := rfl
@[simp] theorem State.setLedger_safe (x : Ledger) : (s.setLedger x).safe = s.safe := rfl
@[simp] theorem State.setLedger_hosts (x : Ledger) : (s.setLedger x).hosts = s.hosts := rfl
@[simp] theorem State.setLedger_pwr (x : Ledger) : (s.setLedger x).pwr = s.pwr := rfl
@[simp] theorem State.setLedger_boot (x : Ledger) : (s.setLedger x).boot = s.boot := rfl
@[simp] theorem State.setLedger_tap (x : Ledger) : (s.setLedger x).tap = s.tap := rfl
@[simp] theorem State.setLedger_irqCimp (x : Ledger) : (s.setLedger x).irqCimp = s.irqCimp := rfl
@[simp] theorem State.setLedger_events (x : Ledger) : (s.setLedger x).events = s.events := rfl
@[simp] theorem State.setLedger_irqFault (x : Ledger) : (s.setLedger x).irqFault = s.irqFault := rfl
@[simp] theorem State.setLedger_irqHalt (x : Ledger) : (s.setLedger x).irqHalt = s.irqHalt := rfl
@[simp] theorem State.setLedger_irqSto (x : Ledger) : (s.setLedger x).irqSto = s.irqSto := rfl
@[simp] theorem State.setLedger_resp (x : Ledger) : (s.setLedger x).resp = s.resp := rfl
@[simp] theorem State.setLedger_tx (x : Ledger) : (s.setLedger x).tx = s.tx := rfl
@[simp] theorem State.setLedger_free (x : Ledger) : (s.setLedger x).free = s.free := rfl
@[simp] theorem State.setLedger_pending (x : Ledger) : (s.setLedger x).pending = s.pending := rfl

@[simp] theorem State.setHosts_timebase (x : Hosts) : (s.setHosts x).timebase = s.timebase := rfl
@[simp] theorem State.setHosts_regs (x : Hosts) : (s.setHosts x).regs = s.regs := rfl
@[simp] theorem State.setHosts_shadows (x : Hosts) : (s.setHosts x).shadows = s.shadows := rfl
@[simp] theorem State.setHosts_armed (x : Hosts) : (s.setHosts x).armed = s.armed := rfl
@[simp] theorem State.setHosts_latches (x : Hosts) : (s.setHosts x).latches = s.latches := rfl
@[simp] theorem State.setHosts_lyctx0 (x : Hosts) : (s.setHosts x).lyctx0 = s.lyctx0 := rfl
@[simp] theorem State.setHosts_lyctx1 (x : Hosts) : (s.setHosts x).lyctx1 = s.lyctx1 := rfl
@[simp] theorem State.setHosts_locked (x : Hosts) : (s.setHosts x).locked = s.locked := rfl
@[simp] theorem State.setHosts_d2dFails (x : Hosts) : (s.setHosts x).d2dFails = s.d2dFails := rfl
@[simp] theorem State.setHosts_mem (x : Hosts) : (s.setHosts x).mem = s.mem := rfl
@[simp] theorem State.setHosts_memsys (x : Hosts) : (s.setHosts x).memsys = s.memsys := rfl
@[simp] theorem State.setHosts_mmu (x : Hosts) : (s.setHosts x).mmu = s.mmu := rfl
@[simp] theorem State.setHosts_streams (x : Hosts) : (s.setHosts x).streams = s.streams := rfl
@[simp] theorem State.setHosts_sto (x : Hosts) : (s.setHosts x).sto = s.sto := rfl
@[simp] theorem State.setHosts_rings (x : Hosts) : (s.setHosts x).rings = s.rings := rfl
@[simp] theorem State.setHosts_chn (x : Hosts) : (s.setHosts x).chn = s.chn := rfl
@[simp] theorem State.setHosts_cim (x : Hosts) : (s.setHosts x).cim = s.cim := rfl
@[simp] theorem State.setHosts_acq (x : Hosts) : (s.setHosts x).acq = s.acq := rfl
@[simp] theorem State.setHosts_aos (x : Hosts) : (s.setHosts x).aos = s.aos := rfl
@[simp] theorem State.setHosts_aoSilent (x : Hosts) : (s.setHosts x).aoSilent = s.aoSilent := rfl
@[simp] theorem State.setHosts_safe (x : Hosts) : (s.setHosts x).safe = s.safe := rfl
@[simp] theorem State.setHosts_ledger (x : Hosts) : (s.setHosts x).ledger = s.ledger := rfl
@[simp] theorem State.setHosts_pwr (x : Hosts) : (s.setHosts x).pwr = s.pwr := rfl
@[simp] theorem State.setHosts_boot (x : Hosts) : (s.setHosts x).boot = s.boot := rfl
@[simp] theorem State.setHosts_tap (x : Hosts) : (s.setHosts x).tap = s.tap := rfl
@[simp] theorem State.setHosts_irqCimp (x : Hosts) : (s.setHosts x).irqCimp = s.irqCimp := rfl
@[simp] theorem State.setHosts_events (x : Hosts) : (s.setHosts x).events = s.events := rfl
@[simp] theorem State.setHosts_irqFault (x : Hosts) : (s.setHosts x).irqFault = s.irqFault := rfl
@[simp] theorem State.setHosts_irqHalt (x : Hosts) : (s.setHosts x).irqHalt = s.irqHalt := rfl
@[simp] theorem State.setHosts_irqSto (x : Hosts) : (s.setHosts x).irqSto = s.irqSto := rfl
@[simp] theorem State.setHosts_resp (x : Hosts) : (s.setHosts x).resp = s.resp := rfl
@[simp] theorem State.setHosts_tx (x : Hosts) : (s.setHosts x).tx = s.tx := rfl
@[simp] theorem State.setHosts_free (x : Hosts) : (s.setHosts x).free = s.free := rfl
@[simp] theorem State.setHosts_pending (x : Hosts) : (s.setHosts x).pending = s.pending := rfl

@[simp] theorem State.setPwr_timebase (x : Pwr) : (s.setPwr x).timebase = s.timebase := rfl
@[simp] theorem State.setPwr_regs (x : Pwr) : (s.setPwr x).regs = s.regs := rfl
@[simp] theorem State.setPwr_shadows (x : Pwr) : (s.setPwr x).shadows = s.shadows := rfl
@[simp] theorem State.setPwr_armed (x : Pwr) : (s.setPwr x).armed = s.armed := rfl
@[simp] theorem State.setPwr_latches (x : Pwr) : (s.setPwr x).latches = s.latches := rfl
@[simp] theorem State.setPwr_lyctx0 (x : Pwr) : (s.setPwr x).lyctx0 = s.lyctx0 := rfl
@[simp] theorem State.setPwr_lyctx1 (x : Pwr) : (s.setPwr x).lyctx1 = s.lyctx1 := rfl
@[simp] theorem State.setPwr_locked (x : Pwr) : (s.setPwr x).locked = s.locked := rfl
@[simp] theorem State.setPwr_d2dFails (x : Pwr) : (s.setPwr x).d2dFails = s.d2dFails := rfl
@[simp] theorem State.setPwr_mem (x : Pwr) : (s.setPwr x).mem = s.mem := rfl
@[simp] theorem State.setPwr_memsys (x : Pwr) : (s.setPwr x).memsys = s.memsys := rfl
@[simp] theorem State.setPwr_mmu (x : Pwr) : (s.setPwr x).mmu = s.mmu := rfl
@[simp] theorem State.setPwr_streams (x : Pwr) : (s.setPwr x).streams = s.streams := rfl
@[simp] theorem State.setPwr_sto (x : Pwr) : (s.setPwr x).sto = s.sto := rfl
@[simp] theorem State.setPwr_rings (x : Pwr) : (s.setPwr x).rings = s.rings := rfl
@[simp] theorem State.setPwr_chn (x : Pwr) : (s.setPwr x).chn = s.chn := rfl
@[simp] theorem State.setPwr_cim (x : Pwr) : (s.setPwr x).cim = s.cim := rfl
@[simp] theorem State.setPwr_acq (x : Pwr) : (s.setPwr x).acq = s.acq := rfl
@[simp] theorem State.setPwr_aos (x : Pwr) : (s.setPwr x).aos = s.aos := rfl
@[simp] theorem State.setPwr_aoSilent (x : Pwr) : (s.setPwr x).aoSilent = s.aoSilent := rfl
@[simp] theorem State.setPwr_safe (x : Pwr) : (s.setPwr x).safe = s.safe := rfl
@[simp] theorem State.setPwr_ledger (x : Pwr) : (s.setPwr x).ledger = s.ledger := rfl
@[simp] theorem State.setPwr_hosts (x : Pwr) : (s.setPwr x).hosts = s.hosts := rfl
@[simp] theorem State.setPwr_boot (x : Pwr) : (s.setPwr x).boot = s.boot := rfl
@[simp] theorem State.setPwr_tap (x : Pwr) : (s.setPwr x).tap = s.tap := rfl
@[simp] theorem State.setPwr_irqCimp (x : Pwr) : (s.setPwr x).irqCimp = s.irqCimp := rfl
@[simp] theorem State.setPwr_events (x : Pwr) : (s.setPwr x).events = s.events := rfl
@[simp] theorem State.setPwr_irqFault (x : Pwr) : (s.setPwr x).irqFault = s.irqFault := rfl
@[simp] theorem State.setPwr_irqHalt (x : Pwr) : (s.setPwr x).irqHalt = s.irqHalt := rfl
@[simp] theorem State.setPwr_irqSto (x : Pwr) : (s.setPwr x).irqSto = s.irqSto := rfl
@[simp] theorem State.setPwr_resp (x : Pwr) : (s.setPwr x).resp = s.resp := rfl
@[simp] theorem State.setPwr_tx (x : Pwr) : (s.setPwr x).tx = s.tx := rfl
@[simp] theorem State.setPwr_free (x : Pwr) : (s.setPwr x).free = s.free := rfl
@[simp] theorem State.setPwr_pending (x : Pwr) : (s.setPwr x).pending = s.pending := rfl

@[simp] theorem State.setBoot_timebase (x : Boot) : (s.setBoot x).timebase = s.timebase := rfl
@[simp] theorem State.setBoot_regs (x : Boot) : (s.setBoot x).regs = s.regs := rfl
@[simp] theorem State.setBoot_shadows (x : Boot) : (s.setBoot x).shadows = s.shadows := rfl
@[simp] theorem State.setBoot_armed (x : Boot) : (s.setBoot x).armed = s.armed := rfl
@[simp] theorem State.setBoot_latches (x : Boot) : (s.setBoot x).latches = s.latches := rfl
@[simp] theorem State.setBoot_lyctx0 (x : Boot) : (s.setBoot x).lyctx0 = s.lyctx0 := rfl
@[simp] theorem State.setBoot_lyctx1 (x : Boot) : (s.setBoot x).lyctx1 = s.lyctx1 := rfl
@[simp] theorem State.setBoot_locked (x : Boot) : (s.setBoot x).locked = s.locked := rfl
@[simp] theorem State.setBoot_d2dFails (x : Boot) : (s.setBoot x).d2dFails = s.d2dFails := rfl
@[simp] theorem State.setBoot_mem (x : Boot) : (s.setBoot x).mem = s.mem := rfl
@[simp] theorem State.setBoot_memsys (x : Boot) : (s.setBoot x).memsys = s.memsys := rfl
@[simp] theorem State.setBoot_mmu (x : Boot) : (s.setBoot x).mmu = s.mmu := rfl
@[simp] theorem State.setBoot_streams (x : Boot) : (s.setBoot x).streams = s.streams := rfl
@[simp] theorem State.setBoot_sto (x : Boot) : (s.setBoot x).sto = s.sto := rfl
@[simp] theorem State.setBoot_rings (x : Boot) : (s.setBoot x).rings = s.rings := rfl
@[simp] theorem State.setBoot_chn (x : Boot) : (s.setBoot x).chn = s.chn := rfl
@[simp] theorem State.setBoot_cim (x : Boot) : (s.setBoot x).cim = s.cim := rfl
@[simp] theorem State.setBoot_acq (x : Boot) : (s.setBoot x).acq = s.acq := rfl
@[simp] theorem State.setBoot_aos (x : Boot) : (s.setBoot x).aos = s.aos := rfl
@[simp] theorem State.setBoot_aoSilent (x : Boot) : (s.setBoot x).aoSilent = s.aoSilent := rfl
@[simp] theorem State.setBoot_safe (x : Boot) : (s.setBoot x).safe = s.safe := rfl
@[simp] theorem State.setBoot_ledger (x : Boot) : (s.setBoot x).ledger = s.ledger := rfl
@[simp] theorem State.setBoot_hosts (x : Boot) : (s.setBoot x).hosts = s.hosts := rfl
@[simp] theorem State.setBoot_pwr (x : Boot) : (s.setBoot x).pwr = s.pwr := rfl
@[simp] theorem State.setBoot_tap (x : Boot) : (s.setBoot x).tap = s.tap := rfl
@[simp] theorem State.setBoot_irqCimp (x : Boot) : (s.setBoot x).irqCimp = s.irqCimp := rfl
@[simp] theorem State.setBoot_events (x : Boot) : (s.setBoot x).events = s.events := rfl
@[simp] theorem State.setBoot_irqFault (x : Boot) : (s.setBoot x).irqFault = s.irqFault := rfl
@[simp] theorem State.setBoot_irqHalt (x : Boot) : (s.setBoot x).irqHalt = s.irqHalt := rfl
@[simp] theorem State.setBoot_irqSto (x : Boot) : (s.setBoot x).irqSto = s.irqSto := rfl
@[simp] theorem State.setBoot_resp (x : Boot) : (s.setBoot x).resp = s.resp := rfl
@[simp] theorem State.setBoot_tx (x : Boot) : (s.setBoot x).tx = s.tx := rfl
@[simp] theorem State.setBoot_free (x : Boot) : (s.setBoot x).free = s.free := rfl
@[simp] theorem State.setBoot_pending (x : Boot) : (s.setBoot x).pending = s.pending := rfl

@[simp] theorem State.setChn_timebase (x : Chn) : (s.setChn x).timebase = s.timebase := rfl
@[simp] theorem State.setChn_regs (x : Chn) : (s.setChn x).regs = s.regs := rfl
@[simp] theorem State.setChn_shadows (x : Chn) : (s.setChn x).shadows = s.shadows := rfl
@[simp] theorem State.setChn_armed (x : Chn) : (s.setChn x).armed = s.armed := rfl
@[simp] theorem State.setChn_latches (x : Chn) : (s.setChn x).latches = s.latches := rfl
@[simp] theorem State.setChn_lyctx0 (x : Chn) : (s.setChn x).lyctx0 = s.lyctx0 := rfl
@[simp] theorem State.setChn_lyctx1 (x : Chn) : (s.setChn x).lyctx1 = s.lyctx1 := rfl
@[simp] theorem State.setChn_locked (x : Chn) : (s.setChn x).locked = s.locked := rfl
@[simp] theorem State.setChn_d2dFails (x : Chn) : (s.setChn x).d2dFails = s.d2dFails := rfl
@[simp] theorem State.setChn_mem (x : Chn) : (s.setChn x).mem = s.mem := rfl
@[simp] theorem State.setChn_memsys (x : Chn) : (s.setChn x).memsys = s.memsys := rfl
@[simp] theorem State.setChn_mmu (x : Chn) : (s.setChn x).mmu = s.mmu := rfl
@[simp] theorem State.setChn_streams (x : Chn) : (s.setChn x).streams = s.streams := rfl
@[simp] theorem State.setChn_sto (x : Chn) : (s.setChn x).sto = s.sto := rfl
@[simp] theorem State.setChn_rings (x : Chn) : (s.setChn x).rings = s.rings := rfl
@[simp] theorem State.setChn_cim (x : Chn) : (s.setChn x).cim = s.cim := rfl
@[simp] theorem State.setChn_acq (x : Chn) : (s.setChn x).acq = s.acq := rfl
@[simp] theorem State.setChn_aos (x : Chn) : (s.setChn x).aos = s.aos := rfl
@[simp] theorem State.setChn_aoSilent (x : Chn) : (s.setChn x).aoSilent = s.aoSilent := rfl
@[simp] theorem State.setChn_safe (x : Chn) : (s.setChn x).safe = s.safe := rfl
@[simp] theorem State.setChn_ledger (x : Chn) : (s.setChn x).ledger = s.ledger := rfl
@[simp] theorem State.setChn_hosts (x : Chn) : (s.setChn x).hosts = s.hosts := rfl
@[simp] theorem State.setChn_pwr (x : Chn) : (s.setChn x).pwr = s.pwr := rfl
@[simp] theorem State.setChn_boot (x : Chn) : (s.setChn x).boot = s.boot := rfl
@[simp] theorem State.setChn_tap (x : Chn) : (s.setChn x).tap = s.tap := rfl
@[simp] theorem State.setChn_irqCimp (x : Chn) : (s.setChn x).irqCimp = s.irqCimp := rfl
@[simp] theorem State.setChn_events (x : Chn) : (s.setChn x).events = s.events := rfl
@[simp] theorem State.setChn_irqFault (x : Chn) : (s.setChn x).irqFault = s.irqFault := rfl
@[simp] theorem State.setChn_irqHalt (x : Chn) : (s.setChn x).irqHalt = s.irqHalt := rfl
@[simp] theorem State.setChn_irqSto (x : Chn) : (s.setChn x).irqSto = s.irqSto := rfl
@[simp] theorem State.setChn_resp (x : Chn) : (s.setChn x).resp = s.resp := rfl
@[simp] theorem State.setChn_tx (x : Chn) : (s.setChn x).tx = s.tx := rfl
@[simp] theorem State.setChn_free (x : Chn) : (s.setChn x).free = s.free := rfl
@[simp] theorem State.setChn_pending (x : Chn) : (s.setChn x).pending = s.pending := rfl

@[simp] theorem State.setPort_timebase (p : Nat) (x : Port) : (s.setPort p x).timebase = s.timebase := rfl
@[simp] theorem State.setPort_regs (p : Nat) (x : Port) : (s.setPort p x).regs = s.regs := rfl
@[simp] theorem State.setPort_shadows (p : Nat) (x : Port) : (s.setPort p x).shadows = s.shadows := rfl
@[simp] theorem State.setPort_armed (p : Nat) (x : Port) : (s.setPort p x).armed = s.armed := rfl
@[simp] theorem State.setPort_latches (p : Nat) (x : Port) : (s.setPort p x).latches = s.latches := rfl
@[simp] theorem State.setPort_lyctx0 (p : Nat) (x : Port) : (s.setPort p x).lyctx0 = s.lyctx0 := rfl
@[simp] theorem State.setPort_lyctx1 (p : Nat) (x : Port) : (s.setPort p x).lyctx1 = s.lyctx1 := rfl
@[simp] theorem State.setPort_locked (p : Nat) (x : Port) : (s.setPort p x).locked = s.locked := rfl
@[simp] theorem State.setPort_d2dFails (p : Nat) (x : Port) : (s.setPort p x).d2dFails = s.d2dFails := rfl
@[simp] theorem State.setPort_mem (p : Nat) (x : Port) : (s.setPort p x).mem = s.mem := rfl
@[simp] theorem State.setPort_memsys (p : Nat) (x : Port) : (s.setPort p x).memsys = s.memsys := rfl
@[simp] theorem State.setPort_mmu (p : Nat) (x : Port) : (s.setPort p x).mmu = s.mmu := rfl
@[simp] theorem State.setPort_streams (p : Nat) (x : Port) : (s.setPort p x).streams = s.streams := rfl
@[simp] theorem State.setPort_sto (p : Nat) (x : Port) : (s.setPort p x).sto = s.sto := rfl
@[simp] theorem State.setPort_rings (p : Nat) (x : Port) : (s.setPort p x).rings = s.rings := rfl
@[simp] theorem State.setPort_cim (p : Nat) (x : Port) : (s.setPort p x).cim = s.cim := rfl
@[simp] theorem State.setPort_acq (p : Nat) (x : Port) : (s.setPort p x).acq = s.acq := rfl
@[simp] theorem State.setPort_aos (p : Nat) (x : Port) : (s.setPort p x).aos = s.aos := rfl
@[simp] theorem State.setPort_aoSilent (p : Nat) (x : Port) : (s.setPort p x).aoSilent = s.aoSilent := rfl
@[simp] theorem State.setPort_safe (p : Nat) (x : Port) : (s.setPort p x).safe = s.safe := rfl
@[simp] theorem State.setPort_ledger (p : Nat) (x : Port) : (s.setPort p x).ledger = s.ledger := rfl
@[simp] theorem State.setPort_hosts (p : Nat) (x : Port) : (s.setPort p x).hosts = s.hosts := rfl
@[simp] theorem State.setPort_pwr (p : Nat) (x : Port) : (s.setPort p x).pwr = s.pwr := rfl
@[simp] theorem State.setPort_boot (p : Nat) (x : Port) : (s.setPort p x).boot = s.boot := rfl
@[simp] theorem State.setPort_tap (p : Nat) (x : Port) : (s.setPort p x).tap = s.tap := rfl
@[simp] theorem State.setPort_irqCimp (p : Nat) (x : Port) : (s.setPort p x).irqCimp = s.irqCimp := rfl
@[simp] theorem State.setPort_events (p : Nat) (x : Port) : (s.setPort p x).events = s.events := rfl
@[simp] theorem State.setPort_irqFault (p : Nat) (x : Port) : (s.setPort p x).irqFault = s.irqFault := rfl
@[simp] theorem State.setPort_irqHalt (p : Nat) (x : Port) : (s.setPort p x).irqHalt = s.irqHalt := rfl
@[simp] theorem State.setPort_irqSto (p : Nat) (x : Port) : (s.setPort p x).irqSto = s.irqSto := rfl
@[simp] theorem State.setPort_resp (p : Nat) (x : Port) : (s.setPort p x).resp = s.resp := rfl
@[simp] theorem State.setPort_tx (p : Nat) (x : Port) : (s.setPort p x).tx = s.tx := rfl
@[simp] theorem State.setPort_free (p : Nat) (x : Port) : (s.setPort p x).free = s.free := rfl
@[simp] theorem State.setPort_pending (p : Nat) (x : Port) : (s.setPort p x).pending = s.pending := rfl

@[simp] theorem State.setTap_timebase (x : Tap) : (s.setTap x).timebase = s.timebase := rfl
@[simp] theorem State.setTap_regs (x : Tap) : (s.setTap x).regs = s.regs := rfl
@[simp] theorem State.setTap_shadows (x : Tap) : (s.setTap x).shadows = s.shadows := rfl
@[simp] theorem State.setTap_armed (x : Tap) : (s.setTap x).armed = s.armed := rfl
@[simp] theorem State.setTap_latches (x : Tap) : (s.setTap x).latches = s.latches := rfl
@[simp] theorem State.setTap_lyctx0 (x : Tap) : (s.setTap x).lyctx0 = s.lyctx0 := rfl
@[simp] theorem State.setTap_lyctx1 (x : Tap) : (s.setTap x).lyctx1 = s.lyctx1 := rfl
@[simp] theorem State.setTap_locked (x : Tap) : (s.setTap x).locked = s.locked := rfl
@[simp] theorem State.setTap_d2dFails (x : Tap) : (s.setTap x).d2dFails = s.d2dFails := rfl
@[simp] theorem State.setTap_mem (x : Tap) : (s.setTap x).mem = s.mem := rfl
@[simp] theorem State.setTap_memsys (x : Tap) : (s.setTap x).memsys = s.memsys := rfl
@[simp] theorem State.setTap_mmu (x : Tap) : (s.setTap x).mmu = s.mmu := rfl
@[simp] theorem State.setTap_streams (x : Tap) : (s.setTap x).streams = s.streams := rfl
@[simp] theorem State.setTap_sto (x : Tap) : (s.setTap x).sto = s.sto := rfl
@[simp] theorem State.setTap_rings (x : Tap) : (s.setTap x).rings = s.rings := rfl
@[simp] theorem State.setTap_chn (x : Tap) : (s.setTap x).chn = s.chn := rfl
@[simp] theorem State.setTap_cim (x : Tap) : (s.setTap x).cim = s.cim := rfl
@[simp] theorem State.setTap_acq (x : Tap) : (s.setTap x).acq = s.acq := rfl
@[simp] theorem State.setTap_aos (x : Tap) : (s.setTap x).aos = s.aos := rfl
@[simp] theorem State.setTap_aoSilent (x : Tap) : (s.setTap x).aoSilent = s.aoSilent := rfl
@[simp] theorem State.setTap_safe (x : Tap) : (s.setTap x).safe = s.safe := rfl
@[simp] theorem State.setTap_ledger (x : Tap) : (s.setTap x).ledger = s.ledger := rfl
@[simp] theorem State.setTap_hosts (x : Tap) : (s.setTap x).hosts = s.hosts := rfl
@[simp] theorem State.setTap_pwr (x : Tap) : (s.setTap x).pwr = s.pwr := rfl
@[simp] theorem State.setTap_boot (x : Tap) : (s.setTap x).boot = s.boot := rfl
@[simp] theorem State.setTap_irqCimp (x : Tap) : (s.setTap x).irqCimp = s.irqCimp := rfl
@[simp] theorem State.setTap_events (x : Tap) : (s.setTap x).events = s.events := rfl
@[simp] theorem State.setTap_irqFault (x : Tap) : (s.setTap x).irqFault = s.irqFault := rfl
@[simp] theorem State.setTap_irqHalt (x : Tap) : (s.setTap x).irqHalt = s.irqHalt := rfl
@[simp] theorem State.setTap_irqSto (x : Tap) : (s.setTap x).irqSto = s.irqSto := rfl
@[simp] theorem State.setTap_resp (x : Tap) : (s.setTap x).resp = s.resp := rfl
@[simp] theorem State.setTap_tx (x : Tap) : (s.setTap x).tx = s.tx := rfl
@[simp] theorem State.setTap_free (x : Tap) : (s.setTap x).free = s.free := rfl
@[simp] theorem State.setTap_pending (x : Tap) : (s.setTap x).pending = s.pending := rfl

end Sys2Proof.Machine
end

