-- ==== Sys2Proof/WellFormed.lean ====
section
/-! DEFINITION. Well-formed commands: the conditions on operands that their types do not state. A command that is not well formed stands
for no event of the block; `exec` still answers for it. -/

namespace Sys2Proof

/-- No two rivals of a bank slot come through the same port (R88). -/
def rivalsOk (l : List (Fin 8 × Fin 6)) : Bool := decide (l.map (·.1)).Nodup

/-- What a health check meets: each row once, each tile once (R62). -/
def Health.ok (h : Health) : Bool := decide h.rows.Nodup && decide (h.devs.map (fun d => (d.1, d.2.1))).Nodup

/-- The shape of a command's operands: alignment and lengths (R86, R87), rivals, tile numbers (R185), frame sizes. -/
def Instr.WellFormed (i : Instr) : Bool :=
  match i with
  | .restart _ _ _ _ h => h.ok
  | .fieldSupplyReady h => h.ok
  | .registerWrite _ a _ => a.toNat % 4 == 0
  | .stagedFieldWrite _ a _ => a.toNat % 4 == 0
  | .stagedCommitWrite _ a _ => a.toNat % 4 == 0
  | .latchingLoRead _ a => a.toNat % 4 == 0
  | .narrowAccess _ _ a sz _ _ l => a.toNat % sz.bytes == 0 && rivalsOk l
  | .wideAccess _ write a data _ _ _ l => a.toNat % 256 == 0 && (!write || data.length == 256) && rivalsOk l
  | .wbmCacheFill _ a => a.toNat % 256 == 0
  | .storageWindowRead _ a wide _ => a.toNat % (if wide then 256 else 8) == 0
  | .tileErase _ t | .tileProgram _ t | .tileTopup _ t | .tileCalibrate _ t | .tileMapset _ t | .tileRetire _ t => decide (t.toNat < 1152)
  | .tileEraseDone _ t bad _ => decide (t.toNat < 1152) && decide (bad.map (fun x => (x.1, x.2.1))).Nodup
  | .programRow _ t _ _ cells => decide (t.toNat < 1152) && decide (cells.map (·.1)).Nodup
  | .exposureSlot _ _ devs => devs.all (fun l => l.all (fun x => decide (x.2.1 < 544)))
  | .digitalPortSample _ _ words => decide (words.length ≤ 16)
  | .thermalReading t => t.length == 6
  | .flitReceive _ flit _ _ _ errs => flit.length == 64 && decide (errs.length ≤ 5)
  | .hostFrameReceive _ _ _ src _ => src.length == 18
  | _ => true

end Sys2Proof
end

