-- ==== Sys2Proof/Tests/Slice0.lean ====
section
/-! SUPPORT. Tests: an ill-formed term for every well-formedness check; worked examples of the manual and published vectors of the
standards it names; and, for every statement of Certificates/Slice0/Obligations.lean that has hypotheses, one theorem that shows for each of
its clauses a concrete state and operands which meet all of that clause's hypotheses. -/

set_option linter.unusedVariables false
set_option maxRecDepth 100000
set_option Elab.async false
namespace Sys2Proof.Machine.Tests
open Sys2Proof

/-! ### Well-formedness: each check refuses an ill-formed command -/

theorem test_wf_restart : (Instr.restart 0 0 true 0 ⟨[3, 3], []⟩).WellFormed = false := by decide
theorem test_wf_fieldSupplyReady : (Instr.fieldSupplyReady ⟨[], [(0, 5, []), (0, 5, [])]⟩).WellFormed = false := by decide
theorem test_wf_registerWrite : (Instr.registerWrite .proctor 0x0200000002 0).WellFormed = false := by decide
theorem test_wf_stagedFieldWrite : (Instr.stagedFieldWrite .proctor 0x0200000001 0).WellFormed = false := by decide
theorem test_wf_stagedCommitWrite : (Instr.stagedCommitWrite .proctor 0x0200000003 0).WellFormed = false := by decide
theorem test_wf_latchingLoRead : (Instr.latchingLoRead .proctor 0x0200000006).WellFormed = false := by decide
theorem test_wf_narrowAccess : (Instr.narrowAccess .proctor true 0x0100000004 .b8 0 .clean []).WellFormed = false := by decide
theorem test_wf_narrowAccess_rivals :
    (Instr.narrowAccess .proctor true 0x0100000000 .b8 0 .clean [(1, 0), (1, 2)]).WellFormed = false := by decide
theorem test_wf_wideAccess : (Instr.wideAccess .proctor false 0x0100000080 [] 0 false .clean []).WellFormed = false := by decide
theorem test_wf_wideAccess_data : (Instr.wideAccess .proctor true 0x0100000000 [1] 0 false .clean []).WellFormed = false := by decide
theorem test_wf_wbmCacheFill : (Instr.wbmCacheFill .proctor 0x1000000010).WellFormed = false := by decide
theorem test_wf_storageWindowRead : (Instr.storageWindowRead .proctor 0x1000000080 true 0).WellFormed = false := by decide
theorem test_wf_tileErase : (Instr.tileErase 0 1152).WellFormed = false := by decide
theorem test_wf_tileProgram : (Instr.tileProgram 0 1152).WellFormed = false := by decide
theorem test_wf_tileTopup : (Instr.tileTopup 0 1152).WellFormed = false := by decide
theorem test_wf_tileCalibrate : (Instr.tileCalibrate 0 1152).WellFormed = false := by decide
theorem test_wf_tileMapset : (Instr.tileMapset 0 1152).WellFormed = false := by decide
theorem test_wf_tileRetire : (Instr.tileRetire 0 1152).WellFormed = false := by decide
theorem test_wf_tileEraseDone : (Instr.tileEraseDone 0 3 [(1, 2, 0), (1, 2, 3)] true).WellFormed = false := by decide
theorem test_wf_programRow : (Instr.programRow 0 3 0 0 [(7, 1), (7, 2)]).WellFormed = false := by decide
theorem test_wf_exposureSlot : (Instr.exposureSlot 4 false [[(0, 544, 1)]]).WellFormed = false := by decide
theorem test_wf_digitalPortSample : (Instr.digitalPortSample 0 0 (List.replicate 17 0)).WellFormed = false := by decide
theorem test_wf_thermalReading : (Instr.thermalReading [1, 2]).WellFormed = false := by decide
theorem test_wf_flitReceive : (Instr.flitReceive 0 [1] 0 none false []).WellFormed = false := by decide
theorem test_wf_flitReceive_errs :
    (Instr.flitReceive 0 (List.replicate 64 0) 0 none false (List.replicate 6 0)).WellFormed = false := by decide
theorem test_wf_hostFrameReceive : (Instr.hostFrameReceive 0 0 0 [1] []).WellFormed = false := by decide

/-! ### The manual's worked examples -/

/-- Chapter 6, after R202: plane 6 of Table 06-8 (high columns 6, 6, 6, 7; low columns 0, 0, 1, 0; raw codes 6 and 5 in columns 1 and 2). -/
theorem test_gray_card_example :
    (let t := { Tile.fresh 5 with decks := [(0, { DeckRec.fresh with offs := 32, gain := 16384 })] }
     let dev (c : Nat) : Int := if c = 523 then 7 else if c = 1 ∨ (520 ≤ c ∧ c < 523) then 6 else if c = 2 then 5 else if c = 526 then 1 else 0
     let x := t.expose 0 (Layer.ofRegs []) false [1, 3] 6 4 1 3 dev
     (x.offs, x.gain, x.cols.getD 1 0, x.cols.getD 2 0)) = (36, 16384, 6, 5) := by decide +kernel

/-- Chapter 3, after R116: an INT8 block with 60 non-zero bytes encodes to 96 bytes. -/
theorem test_zero_compression_example :
    ((zcEncode 1 (List.replicate 60 7 ++ List.replicate 196 0)).map List.length) = some 96 := by decide +kernel

/-- Chapter 9, "placing a spectral encoder": assignment 8 places deck image 8 at position 8. -/
theorem test_assignment_example : parseAssign 0x0000000800000200 = ⟨0, 0, 8, 0, 0, 8⟩ := by decide

/-- Chapter 16, "moving an output from volts to a NAMUR loop": the target and the code of VALUE 0x8000 on a 4 to 20 mA loop. -/
theorem test_ao_target_example : aoTarget 4 4000000 20000000 0x8000 = 12000122 := by decide
theorem test_ao_code_example : aoCode 4 12000122 = 32000 := by decide

/-! ### Vectors of the standards that the manual names -/

/-- The check value of CRC-32C: the ASCII digits 1 to 9 (RFC 3720). -/
theorem test_crc32c : crc32c [0x31, 0x32, 0x33, 0x34, 0x35, 0x36, 0x37, 0x38, 0x39] = 0xE3069283 := by decide +kernel

/-- The check value of CRC-32 over the same digits (IEEE 802.3). -/
theorem test_crc32 : crc32 [0x31, 0x32, 0x33, 0x34, 0x35, 0x36, 0x37, 0x38, 0x39] = 0xCBF43926 := by decide +kernel

/-- SHA-256 of "abc" (FIPS 180). -/
theorem test_sha256 :
    beNat (sha256 [0x61, 0x62, 0x63]) = 0xba7816bf8f01cfea414140de5dae2223b00361a396177a9cb410ff61f20015ad := by decide +kernel

/-- AES-256 of the example vector of FIPS 197, appendix C.3. -/
theorem test_aes256 :
    beNat (aesEncrypt ((List.range 32).map (fun k => BitVec.ofNat 8 k)) ((List.range 16).map (fun k => BitVec.ofNat 8 (17 * k)))) =
      0x8ea2b7ca516745bfeafc49904b496089 := by decide +kernel

/-! ### States for the witnesses -/

/-- A device in service: start-up done, every context enabled, 10 s of time. -/
def on : State :=
  (List.range 8).foldl (fun s c => s.setFlag F.MMU_CTX_CFG_EN true c)
    { State.reset with timebase := 10000000000, boot := { Boot.fresh with step := 10 } }

/-- `on` with the first 2 MiB of context 0's virtual space mapped to AM. -/
def vm : State := (on.rset R.MMU_CTX_PTBASE 0x100000 0).store 0x0100000000 (leBytes 8 0x010000001F)

/-- A start of class 1 by home on stream `n`. -/
def st (n : Nat) : Start := ⟨0, 0x1000, 0, n, 1, 0, false, false, 0⟩

/-- A program of 256 bytes that has begun. -/
def pr (n : Nat) : Prog :=
  { Prog.ofStart (st n) with
    began := true
    length := 256 }

/-- A bundle of given slots. -/
def bun (l : List (Nat × Nat)) : Bundle := ⟨32, 0xB0000000, l⟩

/-- `s` with program `p` running on stream `n`. -/
def running (s : State) (n : Nat) (p : Prog) : State := s.setStream n { Stream.idle with run := some p }

/-- A descriptor of one dimension: BASE, TYPE, elements. -/
def flat (base typ n e : Nat) : List Byte :=
  leBytes 5 base ++ leBytes 1 typ ++ [0, 1] ++ leBytes 4 n ++ leBytes 4 1 ++ leBytes 4 1 ++ leBytes 4 1 ++ leBytes 4 1 ++ leBytes 4 e ++ List.replicate 32 0

/-- A program whose bundle's operations have issued. -/
def issuedWith (n : Nat) (b : Bundle) (ops : List OpRun) (ds : List (Nat × List Byte)) : Prog :=
  { pr n with
    phase := .issued
    bundle := some b
    ops := ops
    descs := ds }

/-- A program of stream `n` of which the slots of a bundle wait in a phase. -/
def atPhase (n : Nat) (ph : Phase) (b : Bundle) (ds : List (Nat × List Byte)) : Prog :=
  { pr n with
    phase := ph
    bundle := some b
    descs := ds }

theorem pair_some {α β : Type} [Inhabited α] (x : Option α × β) (h : x.1.isSome = true) : x = (some x.1.get!, x.2) := by
  obtain ⟨a, b⟩ := x
  cases a with
  | none => cases h
  | some v => rfl

/-- An FFT of one row of 4 FP32 elements, issued and not begun, its operation, and what it computes. -/
def fftOp : OpRun := OpRun.ofSlot 2 (0x40 * 2 ^ 56 + 2 * 2 ^ 20 + 2) none
def fftProg : Prog := issuedWith 12 (bun [(2, 0x40 * 2 ^ 56 + 2 * 2 ^ 20 + 2)]) [fftOp] [(0, flat 0x2000 9 4 4), (2, flat 0x4000 9 3 4)]
def fftState : State := running vm 12 fftProg
def fftBegun : OpRun := { fftOp with started := true, step := 0, nsteps := max 1 (sigSteps fftProg fftOp) }
def fftRun : Option (List (Nat × List Nat)) × State :=
  (fftState.takeBank 12).2.sigCompute 12 fftProg (bun [(2, 0x40 * 2 ^ 56 + 2 * 2 ^ 20 + 2)]) fftBegun

/-- An EWISE of 64 INT8 elements that waits for its operands, its program with the descriptors read, and what the feeder does. -/
def ewBundle : Bundle := bun [(2, 0x22 * 2 ^ 56 + 1 * 2 ^ 32 + 2 * 2 ^ 20)]
def ewOp : OpRun := OpRun.ofSlot 2 (0x22 * 2 ^ 56 + 1 * 2 ^ 32 + 2 * 2 ^ 20) none
def ewProg : Prog := atPhase 4 .ready ewBundle []
def ewState : State :=
  running (((vm.rset R.MMU_CTX_TDTBASE 0x100005 0).fset F.MEM_L1CFG_CACHE 1 0).store 0x0100005000
    (flat 0x2000 1 64 1 ++ flat 0x3000 1 64 1 ++ flat 0x4000 5 64 4)) 4 ewProg
def ewRead : Prog := ewState.cacheDescs ewProg ((dmeReads ewBundle ewOp 0 ++ dmeWrites ewBundle ewOp 0).map Int.toNat)
def ewFed : Fed × List (Nat × PageMap) × State :=
  ewState.feedCores 4 ewRead ewOp ((dmeReads ewBundle ewOp 0).map Int.toNat) (ewRead.cores 4).zipIdx []
def ewMap : PageMap := match ewFed.1 with | .ok m => m | _ => []

/-- Session 7 of host A, its key, a sealed message with counter 1 and payload `d`, and a device in whose port 2 it waits. -/
def sess : Session := ⟨7, List.replicate 16 1, List.replicate 16 2, 0, [], 0⟩
def hostConf : List Byte := [1, 2, 3, 0xFF, 0xFF, 0xFF, 0, 0] ++ List.replicate 88 0
def lrpKey : List Byte := sessionKey (List.replicate 32 5) sess 0
def lrpTop (d : List Byte) : List Byte := leBytes 4 0x3150524C ++ [1, 2, 0, 0] ++ leBytes 8 1 ++ leBytes 4 7 ++ leBytes 4 d.length
def lrpPkt (d : List Byte) : Pkt :=
  ⟨List.replicate 18 0, lrpTop d ++ gcmSeal lrpKey (((lrpTop d).drop 16).take 4 ++ ((lrpTop d).drop 8).take 8) (lrpTop d) d⟩
def hostA (s : State) : State :=
  (s.setHostX 0 { HostX.fresh with conf := hostConf, key := some (List.replicate 32 5), cur := some sess }).fset F.HOST_STAT_BOUND 1
def lrpIn (s : State) (d : List Byte) : State := s.setOrd 2 [lrpPkt d]
def lrpOut (s : State) (d : List Byte) : State :=
  (((lrpIn s d).dropPkt 2 false 0).acceptMsg 0 7 1).setHostX 0 { (((lrpIn s d).dropPkt 2 false 0).acceptMsg 0 7 1).hostX 0 with addr := (lrpPkt d).src }

/-- An image that the staged check accepts on a unit with blank key slots: three sections, the public key of private key 1, signatures
with the nonce 1. -/
def imgKey : List Byte := leBytes 32 p256G.1 ++ leBytes 32 p256G.2
def imgSafety : List Byte :=
  List.replicate 16 0 ++ imgKey ++ leBytes 32 (p256G.1 % p256N) ++
    leBytes 32 0x4ec896367a285e5b93b8dbadfd13fa16e1cac4b7eb6f2868a57d079e5488559a
def imgEntry (typ ofs len dest : Nat) (hash : Nat) : List Byte :=
  leBytes 2 typ ++ leBytes 2 0 ++ leBytes 4 0 ++ leBytes 4 ofs ++ leBytes 4 len ++ leBytes 4 len ++ leBytes 4 0 ++ leBytes 8 dest ++ leBytes 32 hash
def imgHead : List Byte :=
  leBytes 4 0x5459434F ++ [1, 0, 3, 0] ++ leBytes 4 0x4000 ++ leBytes 4 1 ++ [0, 0, 0, 0, 1, 0, 0, 0] ++ leBytes 8 0 ++ imgKey ++
    List.replicate 96 0 ++ leBytes 32 (p256G.1 % p256N) ++ leBytes 32 0xc74a2d9f2dcb26b6c38e104572644c8760cac205d0088101730183f43b24873f ++
    imgEntry 1 0x1000 1 0x10000000 0x1da0af1706a31185763837b33f1d90782c0a78bbe644a59c987ab3ff9c0b346e ++
    imgEntry 2 0x2000 1 0x20000000 0x1da0af1706a31185763837b33f1d90782c0a78bbe644a59c987ab3ff9c0b346e ++
    imgEntry 9 0x3000 144 0 0xb81e10c7ef801133996c6223bcf8b9782edd4186925006aa93e8f8bafed9e7da
def imgCells : List (Nat × Byte) :=
  imgHead.zipIdx.map (fun x => (0xF0000000 + x.2, x.1)) ++ [(0xF0001000, 0), (0xF0002000, 0)] ++
    imgSafety.zipIdx.map (fun x => (0xF0003000 + x.2, x.1))

def imgPkt : Pkt := ⟨List.replicate 18 0, leBytes 4 0x3150524C ++ [1, 3, 0, 0] ++ List.replicate 12 0 ++ leBytes 4 8 ++ [18, 0, 0, 0, 0, 0, 0, 0]⟩
def imgState : State :=
  { (on.fset F.BOOT_STAT_STATE 3).setFlag F.BOOT_STAT_FLASHOK true with
    hosts := { Hosts.fresh with
      ord := [(2, [imgPkt])]
      image := some ⟨List.replicate 16 0, 16, []⟩ }
    sto := { Storage.fresh with cells := imgCells } }
def imgNext : State := imgState.dropPkt 2 false 0
def imgSig1 : List Byte := leBytes 32 (p256G.1 % p256N) ++ leBytes 32 0xc74a2d9f2dcb26b6c38e104572644c8760cac205d0088101730183f43b24873f
def imgSig2 : List Byte := leBytes 32 (p256G.1 % p256N) ++ leBytes 32 0x4ec896367a285e5b93b8dbadfd13fa16e1cac4b7eb6f2868a57d079e5488559a
def imgDigest : List Byte := sha256 (imgHead.take 0xC0 ++ imgHead.drop 0x100)
theorem img_sig1 : sigOk imgKey imgSig1 imgDigest = true := by decide +kernel
theorem img_sig2 : sigOk imgKey imgSig2 (sha256 []) = true := by decide +kernel
def imgSrc : ImgSrc := imgNext.stagedSrc
theorem img_key : imgSrc.bytes 0x20 64 = imgKey := by decide +kernel
theorem img_sig : imgSrc.bytes 0xC0 64 = imgSig1 := by decide +kernel
theorem img_text : imgSrc.bytes 0 0xC0 ++ imgSrc.bytes 0x100 (64 * imgSrc.num 6 2) = imgHead.take 0xC0 ++ imgHead.drop 0x100 := by decide +kernel
theorem img_head : imgNext.headerCode imgSrc true = 0 := by
  unfold State.headerCode
  rw [img_key, img_sig, img_text, show sha256 (imgHead.take 0xC0 ++ imgHead.drop 0x100) = imgDigest from rfl, img_sig1,
    if_neg (by decide +kernel), if_neg (by decide +kernel), if_neg (by decide +kernel), if_neg (by decide +kernel), if_neg (by decide +kernel),
    if_neg (by decide +kernel), if_neg (by decide +kernel), if_neg (by decide +kernel), if_neg (by decide +kernel)]
def imgSec (typ ofs len dest hash : Nat) : SecEntry := ⟨typ, 0, 0, ofs, len, len, 0, dest, leBytes 32 hash⟩
def imgA : SecEntry := imgSec 1 0x1000 1 0x10000000 0x1da0af1706a31185763837b33f1d90782c0a78bbe644a59c987ab3ff9c0b346e
def imgB : SecEntry := imgSec 2 0x2000 1 0x20000000 0x1da0af1706a31185763837b33f1d90782c0a78bbe644a59c987ab3ff9c0b346e
def imgC : SecEntry := imgSec 9 0x3000 144 0 0xb81e10c7ef801133996c6223bcf8b9782edd4186925006aa93e8f8bafed9e7da
theorem img_secs : imgSrc.sections = [imgA, imgB, imgC] := by decide +kernel
theorem img_slot : imgNext.slotCode imgSrc true = 0 := by
  unfold State.slotCode
  rw [img_head]
  exact (if_neg (by decide)).trans (if_pos (by decide +kernel))
theorem img_safe : imgNext.safetyOk ⟨9, 0, 0, imgSafety⟩ true = true := by
  have hp : (imgSafety.drop 16).take 64 = imgKey := by decide +kernel
  have hs : (imgSafety.drop 80).take 64 = imgSig2 := by decide +kernel
  have he : (⟨9, 0, 0, imgSafety⟩ : Section).params = [] := by decide +kernel
  unfold State.safetyOk
  simp only [hp, hs, he, img_sig2]
  decide +kernel
theorem img_step (e : SecEntry) (t : List SecEntry) (acc : List Section) (d : List Byte) (hb : imgSrc.bad e.ofs e.len = false)
    (hl : imgSrc.loadSec e = some d) (hc : imgNext.sectionCode ⟨e.typ, e.inst, e.dest, d⟩ true = 0) :
    imgNext.readSections imgSrc true (e :: t) acc = imgNext.readSections imgSrc true t (acc ++ [⟨e.typ, e.inst, e.dest, d⟩]) := by
  rw [State.readSections, hb, hl]
  simp only [hc]
  rfl
theorem img_code : imgNext.imageCode imgNext.stagedSrc imgNext.unsignedUnit = 0 := by
  have hu : imgNext.unsignedUnit = true := by decide +kernel
  rw [hu]
  unfold State.imageCode
  rw [show imgNext.stagedSrc = imgSrc from rfl, img_slot, img_secs,
    img_step imgA _ _ [0] (by decide +kernel) (by decide +kernel) (by decide +kernel),
    img_step imgB _ _ [0] (by decide +kernel) (by decide +kernel) (by decide +kernel),
    img_step imgC _ _ imgSafety (by decide +kernel) (by decide +kernel) (by
      unfold State.sectionCode
      rw [show (⟨imgC.typ, imgC.inst, imgC.dest, imgSafety⟩ : Section) = ⟨9, 0, 0, imgSafety⟩ from rfl, img_safe]
      rfl)]
  rfl

theorem lrp_secured (s : State) (d X : List Byte) (h2 : s.enrolling = false) (h3 : s.hostBound 0 = true)
    (h4 : s.ctxEnabled 1 = true) (hp : (s.hostX 0).port = 2) (hr : (s.hostX 0).peerOk (List.replicate 18 0) = true)
    (hk : (s.hostX 0).key = some (List.replicate 32 5)) (hc : (s.hostX 0).cur = some sess) (hn : (s.hostX 0).next = none)
    (hd : d.length ≤ 1400) (hl : leNat (leBytes 4 d.length) = d.length) (hX : X.length = d.length + 16)
    (hop : gcmOpen lrpKey (((lrpTop d).drop 16).take 4 ++ ((lrpTop d).drop 8).take 8) (lrpTop d) X = some d) :
    s.readMsg 2 ⟨List.replicate 18 0, lrpTop d ++ X⟩ = .secured 0 7 1 d := by
  have htl : (lrpTop d).length = 24 := rfl
  have hlen : (lrpTop d ++ X).length = 40 + d.length := by
    rw [List.length_append, htl, hX]
    omega
  have htop : (lrpTop d ++ X).take 24 = lrpTop d := List.take_left' htl
  have hrest : (lrpTop d ++ X).drop 24 = X := List.drop_left' htl
  have hnon : ((lrpTop d ++ X).drop 16).take 4 ++ ((lrpTop d ++ X).drop 8).take 8 = ((lrpTop d).drop 16).take 4 ++ ((lrpTop d).drop 8).take 8 := rfl
  have hlen4 : leAt (lrpTop d ++ X) 20 4 = d.length := (show leNat (leBytes 4 d.length) = d.length from hl)
  have hnum : leAt (lrpTop d ++ X) 16 4 = 7 := (show leNat (leBytes 4 7) = 7 by decide)
  have hctr : leAt (lrpTop d ++ X) 8 8 = 1 := (show leNat (leBytes 8 1) = 1 by decide)
  have e0 : leAt (lrpTop d ++ X) 0 4 = 0x3150524C := (show leNat (leBytes 4 0x3150524C) = 0x3150524C by decide)
  have e4 : leAt (lrpTop d ++ X) 4 1 = 1 := rfl
  have e5 : leAt (lrpTop d ++ X) 5 1 = 2 := rfl
  have e6 : leAt (lrpTop d ++ X) 6 1 = 0 := rfl
  have e7 : leAt (lrpTop d ++ X) 7 1 = 0 := rfl
  have hses : [(s.hostX 0).cur, (s.hostX 0).next].filterMap (fun y => y.bind (fun y => if y.number = 7 then some y else none)) = [sess] := by
    rw [hc, hn]
    rfl
  have hchk : s.checkSealed 2 0 ⟨List.replicate 18 0, lrpTop d ++ X⟩ = .secured 0 7 1 d := by
    unfold State.checkSealed
    simp only [hnum, hses, hk, Option.getD_some, htop, hrest, hnon, hctr, hr]
    rw [show sessionKey (List.replicate 32 5) sess 0 = lrpKey from rfl, hop]
    rfl
  unfold State.readMsg
  simp only [hlen, hlen4, e0, e4, e5, e6, e7, h2, h3, h4, hp, hchk]
  rw [if_neg (by omega)]
  simp

theorem lrp_waits (s : State) (d : List Byte) (h1 : s.domOn 2 = true) (h2 : s.enrolling = false) (h3 : s.hostBound 0 = true)
    (h4 : s.ctxEnabled 1 = true) (h5 : s.urgBuf 2 = []) (hp : (s.hostX 0).port = 2) (hr : (s.hostX 0).peerOk (List.replicate 18 0) = true)
    (hk : (s.hostX 0).key = some (List.replicate 32 5)) (hc : (s.hostX 0).cur = some sess) (hn : (s.hostX 0).next = none)
    (hd : d.length ≤ 1400) (hl : leNat (leBytes 4 d.length) = d.length) (h8 : 8 ≤ d.length) (hz : leAt d 1 3 = 0) :
    (lrpIn s d).lrpMsg (lrpOut s d) 2 (leAt d 0 1) 0 d := by
  have hkey : ((aesKeys lrpKey).getD 14 []).length = 16 := by decide +kernel
  obtain ⟨ho, hop⟩ := gcm_opens lrpKey (((lrpTop d).drop 16).take 4 ++ ((lrpTop d).drop 8).take 8) (lrpTop d) d hkey
  refine ⟨h1, rfl, hz, h8, false, 0, lrpPkt d, 7, 1, ?_, lrp_secured (lrpIn s d) d _ h2 h3 h4 hp hr hk hc hn hd hl ho hop, (by intro h; cases h), rfl⟩
  have hb : (lrpIn s d).ordBuf 2 = [lrpPkt d] := by
    exact Sparse.get_put_self (α := List Pkt) (fun _ => []) s.hosts.ord 2 [lrpPkt d]
  have hu : (lrpIn s d).urgBuf 2 = [] := h5
  simp [State.nextPkt, hu, hb]

/-! ### Witnesses -/

/-- Concrete states and operands that meet the hypotheses of `Obligations.IdleStepCountsTime`. -/
theorem test_IdleStepCountsTime_has_witnesses :
    ∃ s : State, (s.pending = []) :=
  ⟨on, by decide +kernel⟩

/-- Concrete states and operands that meet the hypotheses of `Obligations.ResetLeavesStartValues`. -/
theorem test_ResetLeavesStartValues_has_witnesses :
    ∃ b, (b < 512) :=
  ⟨511, by decide +kernel⟩

/-- Concrete states and operands that meet the hypotheses of `Obligations.StepKeepsCanonicalMemories`. -/
theorem test_StepKeepsCanonicalMemories_has_witnesses :
    ∃ s : State, ∃ t : State, (s.memInv = true) ∧ (step s = .next t) :=
  ⟨on, on.tick, by decide +kernel, rfl⟩

/-- Concrete states and operands that meet the hypotheses of `Obligations.TimebaseMovesOnlyByTicksAndResets`. -/
theorem test_TimebaseMovesOnlyByTicksAndResets_has_witnesses :
    ∃ s : State, ∃ t : State, (step s = .next t) :=
  ⟨on, on.tick, rfl⟩

/-- Concrete states and operands that meet the hypotheses of `Obligations.OnlyResetsZeroTimebase`, clause by clause. -/
theorem test_OnlyResetsZeroTimebase_has_witnesses :
    (∃ s : State, ∃ k : Nat, (k ≠ 1) ∧ (k ≠ 2)) ∧
    (∃ s : State, ∃ t : State, (exec .watchdogExpire s = .next t)) ∧
    (∃ s : State, ∃ t : State, (exec .powerFailClear s = .next t)) ∧
    (∃ s : State, ∃ t : State, (exec .thermalHoldEnd s = .next t)) ∧
    (∃ s : State, ∃ t : State, (exec .confirmWindowExpire s = .next t)) ∧
    (∃ r : Req, ∃ v : Word, ∃ bad : List (Fin 32), ∃ s : State, ∃ t : State, (exec (.recessRequest r v bad) s = .next t)) ∧
    (∃ src : Fin 5, ∃ k : Fin 8, ∃ v : Word, ∃ s : State, ∃ t : State, (exec (.wakeRequest src k v) s = .next t)) ∧
    (∃ mv : Half, ∃ bad : List (Fin 32), ∃ f : Half, ∃ us : Word, ∃ s : State, ∃ t : State, (exec (.powerFailWarning mv bad f us) s = .next t)) ∧
    (∃ bad : List (Fin 32), ∃ f : Half, ∃ us : Word, ∃ s : State, ∃ t : State, (exec (.thermalShutdown bad f us) s = .next t)) :=
  ⟨⟨on, 0, by decide +kernel, by decide +kernel⟩,
   ⟨on, _, rfl⟩,
   ⟨on, _, rfl⟩,
   ⟨on, _, rfl⟩,
   ⟨on, _, rfl⟩,
   ⟨.core 0, 0, [], on, _, rfl⟩,
   ⟨0, 0, 0, on, _, rfl⟩,
   ⟨0, [], 0, 0, on, _, rfl⟩,
   ⟨[], 0, 0, on, _, rfl⟩⟩

/-- Concrete states and operands that meet the hypotheses of `Obligations.BootControlWritesTakeEffect`, clause by clause. -/
theorem test_BootControlWritesTakeEffect_has_witnesses :
    (∃ r : Req, ∃ v : Word, ∃ s : State, (s.homeReq r) ∧ (s.fget F.BOOT_STAT_STATE = 2) ∧ (s.flag F.BOOT_STAT_CONFIRMED = false)) ∧
    (∃ r : Req, ∃ v : Word, ∃ s : State, (s.homeReq r)) :=
  ⟨⟨.core 0, 0, on.fset F.BOOT_STAT_STATE 2, by decide +kernel, by decide +kernel, by decide +kernel⟩,
   ⟨.core 0, 0, on, by decide +kernel⟩⟩

/-- Concrete states and operands that meet the hypotheses of `Obligations.RevocationAndConfirmWindow`, clause by clause. -/
theorem test_RevocationAndConfirmWindow_has_witnesses :
    (∃ r : Req, ∃ v : Word, ∃ s : State, (s.homeReq r) ∧ (s.locked = false) ∧ (s.fget F.BOOT_STAT_STATE ≠ 2)) ∧
    (∃ r : Req, ∃ v : Word, ∃ s : State, (s.homeReq r) ∧ (s.locked = true) ∧ (v &&& ~~~(s.rd R.BOOT_REVOKE.at) &&& 0x30F ≠ 0)) ∧
    (∃ s : State, (s.flag F.BOOT_STAT_TRIAL = true) ∧ (s.confirmLeft = 0) ∧ (s.bootSlot < 2)) :=
  ⟨⟨.core 0, 0, on, by decide +kernel, by decide +kernel, by decide +kernel⟩,
   ⟨.core 0, 0x30F, { on with locked := true }, by decide +kernel, by decide +kernel, by decide +kernel⟩,
   ⟨(on.setFlag F.BOOT_STAT_TRIAL true).fset F.BOOT_STAT_SLOT 0, by decide +kernel, by decide +kernel, by decide +kernel⟩⟩

/-- Concrete states and operands that meet the hypotheses of `Obligations.ResetsLeaveWhatTheSpecKeeps`, clause by clause. -/
theorem test_ResetsLeaveWhatTheSpecKeeps_has_witnesses :
    (∃ s : State, (s.flag F.PWR_WDOG_EN = true) ∧ (s.pwrState = 0) ∧ (s.wdogSpan ≤ s.now - s.pwr.kickTb + s.pwr.wdUsed)) ∧
    (∃ s : State, (s.pwr.warn = true) ∧ (s.pwrState = 6) ∧ (s.pwr.hot = false)) ∧
    (∃ s : State, (s.pwr.hot = true) ∧ (s.pwrState = 6) ∧ (s.pwr.warn = false)) :=
  ⟨⟨on.rset R.PWR_WDOG 0x8000000A, by decide +kernel, by decide +kernel, by decide +kernel⟩,
   ⟨({ on with pwr := { Pwr.fresh with warn := true } }: State).fset F.PWR_STAT_STATE 6, by decide +kernel, by decide +kernel, by decide +kernel⟩,
   ⟨({ on with pwr := { Pwr.fresh with hot := true } }: State).fset F.PWR_STAT_STATE 6, by decide +kernel, by decide +kernel, by decide +kernel⟩⟩

/-- Concrete states and operands that meet the hypotheses of `Obligations.PowerSequencesEndWithCoreDomainsOff`, clause by clause. -/
theorem test_PowerSequencesEndWithCoreDomainsOff_has_witnesses :
    (∃ mv : Half, ∃ bad : List (Fin 32), ∃ f : Half, ∃ us : Word, ∃ s : State, (s.pwr.warn = false) ∧ (s.pwrState = 0) ∧ (s.starting = false)) ∧
    (∃ bad : List (Fin 32), ∃ f : Half, ∃ us : Word, ∃ s : State, (s.pwr.hot = false) ∧ (s.pwrState = 0)) :=
  ⟨⟨0, [], 0, 0, on, by decide +kernel, by decide +kernel, by decide +kernel⟩,
   ⟨[], 0, 0, on, by decide +kernel, by decide +kernel⟩⟩

/-- Concrete states and operands that meet the hypotheses of `Obligations.StartUpAndFieldSupply`, clause by clause. -/
theorem test_StartUpAndFieldSupply_has_witnesses :
    (∃ a : Fin 4, ∃ b : Fin 4, ∃ o : Bool, ∃ us : Word, ∃ h : Health, ∃ s : State, (s.pwr.warn = false) ∧ (s.boot.restartAt = none) ∧
      (s.boot.step = 0) ∧ (s.boot.pinTestmode = false) ∧ (s.pwr.refOk = true) ∧ (s.boot.flashLog = 0)) ∧
    (∃ a : Fin 4, ∃ b : Fin 4, ∃ o : Bool, ∃ us : Word, ∃ h : Health, ∃ s : State, (s.pwr.warn = false) ∧ (s.boot.restartAt = none) ∧
      (s.boot.step = 0) ∧ (s.pwr.refOk = false)) ∧
    (∃ s : State, (s.boot.step = 1)) ∧
    (∃ h : Health, ∃ s : State, (s.boot.step = 8)) ∧
    (∃ k : Fin 32, ∃ n : Nat, ∃ s : State, (s.sto.pendErase = [n]) ∧ (bankOfSector n = k.val)) :=
  ⟨⟨0, 0, true, 0, ⟨[], []⟩, { on with boot := { Boot.fresh with flashLog := 0 } }, by decide +kernel, by decide +kernel,
    by decide +kernel, by decide +kernel, by decide +kernel, by decide +kernel⟩,
   ⟨0, 0, true, 0, ⟨[], []⟩, { State.reset with pwr := { Pwr.fresh with refOk := false } }, by decide +kernel, by decide +kernel,
     by decide +kernel, by decide +kernel⟩,
   ⟨{ on with boot := { Boot.fresh with step := 1 } }, by decide +kernel⟩,
   ⟨⟨[], []⟩, { on with boot := { Boot.fresh with step := 8 } }, by decide +kernel⟩,
   ⟨1, 32768, { on with sto := { Storage.fresh with pendErase := [32768] } }, by decide +kernel, by decide +kernel⟩⟩

/-- Concrete states and operands that meet the hypotheses of `Obligations.RecessWakeAndDomains`, clause by clause. -/
theorem test_RecessWakeAndDomains_has_witnesses :
    (∃ r : Req, ∃ v : Word, ∃ bad : List (Fin 32), ∃ s : State, (s.homeReq r) ∧ (bit v.toNat 31 = true) ∧ (s.recessRefusal = 0)) ∧
    (∃ r : Req, ∃ v : Word, ∃ bad : List (Fin 32), ∃ s : State, (s.homeReq r) ∧ (bit v.toNat 31 = true) ∧ (s.recessRefusal ≠ 0)) ∧
    (∃ k : Fin 8, ∃ v : Word, ∃ src : Fin 5, ∃ s : State, (src.val < 2) ∧ (bit (s.fget F.PWR_WAKEEN_EN) src.val = true) ∧ (s.pwrState = 2) ∧
      (s.pwr.hot = false)) ∧
    (∃ r : Req, ∃ v : Word, ∃ s : State, (s.homeReq r) ∧ (s.domRefusal v = 0)) ∧
    (∃ r : Req, ∃ v : Word, ∃ s : State, (s.homeReq r) ∧ (s.domRefusal v ≠ 0)) ∧
    (∃ r : Req, ∃ v : Word, ∃ s : State, (s.homeReq r) ∧ (s.domRefusal (v &&& BitVec.ofNat 32 (s.rget R.PWR_DOMCTL)) = 0)) :=
  ⟨⟨.core 0, 0x80000000, [], on.fset F.PWR_WAKEEN_EN 1, by decide +kernel, by decide +kernel, by decide +kernel⟩,
   ⟨.core 0, 0x80000000, [], on.fset F.PWR_WAKEEN_EN 0, by decide +kernel, by decide +kernel, by decide +kernel⟩,
   ⟨0, 0, 1, (on.fset F.PWR_WAKEEN_EN 2).fset F.PWR_STAT_STATE 2, by decide +kernel, by decide +kernel, by decide +kernel, by decide +kernel⟩,
   ⟨.core 0, 0, on, by decide +kernel, by decide +kernel⟩,
   ⟨.core 0, 0, on.fset F.PWR_STAT_STATE 1, by decide +kernel, by decide +kernel⟩,
   ⟨.core 0, 0, on, by decide +kernel, by decide +kernel⟩⟩

/-- Concrete states and operands that meet the hypotheses of `Obligations.WatchdogClockAndTemperature`, clause by clause. -/
theorem test_WatchdogClockAndTemperature_has_witnesses :
    (∃ r : Req, ∃ v : Word, ∃ s : State, (s.homeReq r) ∧ (s.flag F.PWR_WDOG_EN = false)) ∧
    (∃ r : Req, ∃ v : Word, ∃ s : State, (s.homeReq r) ∧ (s.flag F.PWR_WDOG_EN = true)) ∧
    (∃ s : State, (s.pwr.refOk = true) ∧ (s.flag F.CLK_STAT_LOCK = true)) ∧
    (∃ us : Word, ∃ s : State, (s.flag F.CLK_STAT_LOCK = true)) ∧
    (∃ l : List Half, ∃ s : State, (l.length = 6)) :=
  ⟨⟨.core 0, 0, on, by decide +kernel, by decide +kernel⟩,
   ⟨.core 0, 0, on.rset R.PWR_WDOG 0x8000000A, by decide +kernel, by decide +kernel⟩,
   ⟨on.setFlag F.CLK_STAT_LOCK true, by decide +kernel, by decide +kernel⟩,
   ⟨0, on.setFlag F.CLK_STAT_LOCK true, by decide +kernel⟩,
   ⟨[0, 0, 0, 0, 0, 0], on, by decide +kernel⟩⟩

/-- Concrete states and operands that meet the hypotheses of `Obligations.RegisterWritesActByAccessType`, clause by clause. -/
theorem test_RegisterWritesActByAccessType_has_witnesses :
    (∃ r : Req, ∃ a : Addr, ∃ v : Word, ∃ s : State, ∃ d : RegDesc, ∃ i : Nat, ∃ j : Nat, (s.homeReq r) ∧ (a.toNat % 4 = 0) ∧
      (findReg a.toNat = some (d, i, j)) ∧ (blockOf a.toNat = 2 ∨ blockOf a.toNat = 7 ∨ blockOf a.toNat = 24) ∧ (groupAt a.toNat = none) ∧
      (groupCommit a.toNat = none) ∧ (s.locked = false)) ∧
    (∃ r : Req, ∃ n : Fin 8, ∃ v : Word, ∃ s : State, (s.homeReq r) ∧ (s.locked = true)) ∧
    (∃ r : Req, ∃ a : Addr, ∃ v : Word, ∃ s : State, (s.reqOn r = true) ∧ (s.ctxEnabled (s.ctxOf r) = false)) ∧
    (∃ r : Req, ∃ a : Addr, ∃ v : Word, ∃ s : State, (s.reqOn r = true) ∧ (s.ctxEnabled (s.ctxOf r) = true) ∧
      (findReg (a.toNat / 4 * 4) = none) ∧ (a.toNat < regBase + 0x200000)) :=
  ⟨⟨.core 0, 0x0200180004#40, 5, on, R.SIG_EPS, 0, 0, by decide +kernel, by decide +kernel, by decide +kernel, by decide +kernel,
    by decide +kernel, by decide +kernel, by decide +kernel⟩,
   ⟨.core 0, 1, 0, { on with locked := true }, by decide +kernel, by decide +kernel⟩,
   ⟨.proctor, 0x0200180004#40, 5, on.setFlag F.MMU_CTX_CFG_EN false 7, by decide +kernel, by decide +kernel⟩,
   ⟨.core 0, 0x020000FFF4#40, 5, on, by decide +kernel, by decide +kernel, by decide +kernel, by decide +kernel⟩⟩

/-- Concrete states and operands that meet the hypotheses of `Obligations.StagedWritesTouchShadowsOnly`. -/
theorem test_StagedWritesTouchShadowsOnly_has_witnesses :
    ∃ r : Req, ∃ a : Addr, ∃ v : Word, ∃ s : State, ∃ g : Group, ∃ f : Nat × Word, (s.homeReq r) ∧ (a.toNat ≠ R.SYS_WALLOFS_LO.at) ∧
      (groupAt a.toNat = some g) ∧ (g.fields.find? (fun f => f.1 == a.toNat) = some f) ∧ ((findReg a.toNat).isSome = true) :=
  ⟨.core 0, (BitVec.ofNat 40 (R.OUT_AO_CFG.at 1)), 5, on, .ao 1, (R.OUT_AO_CFG.at 1, 7), by decide +kernel, by decide +kernel,
    by decide +kernel, by decide +kernel, by decide +kernel⟩

/-- Concrete states and operands that meet the hypotheses of `Obligations.CommitWritesApplyOrArm`, clause by clause. -/
theorem test_CommitWritesApplyOrArm_has_witnesses :
    (∃ r : Req, ∃ a : Addr, ∃ v : Word, ∃ s : State, ∃ g : Group, (s.homeReq r) ∧ (groupCommit a.toNat = some g) ∧ (bit v.toNat 0 = true) ∧
      (s.owner g = none) ∧ ((s.disarm g).agrees g = true)) ∧
    (∃ r : Req, ∃ a : Addr, ∃ v : Word, ∃ s : State, ∃ g : Group, (s.homeReq r) ∧ (groupCommit a.toNat = some g) ∧ (bit v.toNat 0 = true) ∧
      (s.owner g = none) ∧ ((s.disarm g).agrees g = false)) ∧
    (∃ r : Req, ∃ a : Addr, ∃ v : Word, ∃ s : State, ∃ g : Group, ∃ n : Nat, (s.homeReq r) ∧ (groupCommit a.toNat = some g) ∧
      (bit v.toNat 0 = true) ∧ (s.owner g = some n) ∧ (s.isArmed g = false)) ∧
    (∃ r : Req, ∃ a : Addr, ∃ v : Word, ∃ s : State, ∃ g : Group, ∃ n : Nat, (s.homeReq r) ∧ (groupCommit a.toNat = some g) ∧
      (bit v.toNat 0 = true) ∧ (s.owner g = some n) ∧ (s.isArmed g = true)) :=
  ⟨⟨.core 0, (BitVec.ofNat 40 (R.ACQ_AE_COMMIT.at 1)), 1, on, .ae 1, by decide +kernel, by decide +kernel, by decide +kernel,
    by decide +kernel, by decide +kernel⟩,
   ⟨.core 0, (BitVec.ofNat 40 (R.ACQ_DP_COMMIT.at 1)), 1, on.setShadow (R.ACQ_DP_CFG.at 1) 3, .dp 1, by decide +kernel,
     by decide +kernel, by decide +kernel, by decide +kernel, by decide +kernel⟩,
   ⟨.core 0, (BitVec.ofNat 40 (R.ACQ_ST_COMMIT.at 1)), 1, on.setFlag F.ACQ_ST_STAT_RUN true 1, .st 1, 1, by decide +kernel,
     by decide +kernel, by decide +kernel, by decide +kernel, by decide +kernel⟩,
   ⟨.core 0, (BitVec.ofNat 40 (R.ACQ_ST_COMMIT.at 1)), 1, { on.setFlag F.ACQ_ST_STAT_RUN true 1 with armed := [(R.ACQ_ST_COMMIT.at 1, 1)] }, .st 1, 1,
     by decide +kernel, by decide +kernel, by decide +kernel, by decide +kernel, by decide +kernel⟩⟩

/-- Concrete states and operands that meet the hypotheses of `Obligations.WallTimeOffsetAndLatches`, clause by clause. -/
theorem test_WallTimeOffsetAndLatches_has_witnesses :
    (∃ r : Req, ∃ a : Addr, ∃ v : Word, ∃ s : State, (s.homeReq r) ∧ (a.toNat = R.SYS_WALLOFS_LO.at)) ∧
    (∃ r : Req, ∃ v : Word, ∃ s : State, (s.homeReq r)) ∧
    (∃ s : State, ∃ ofs : Nat, ∃ src : Nat, (ofs < 2 ^ 64) ∧ (1000 < (toSigned 64 (ofs + 2 ^ 64 - s.wallOfs)).natAbs)) :=
  ⟨⟨.core 0, (BitVec.ofNat 40 (R.SYS_WALLOFS_LO.at)), 0, on, by decide +kernel, by decide +kernel⟩,
   ⟨.core 0, 0, on, by decide +kernel⟩,
   ⟨on, 2000, 0, by decide +kernel, by decide +kernel⟩⟩

/-- Concrete states and operands that meet the hypotheses of `Obligations.LatchesAndDieLinks`, clause by clause. -/
theorem test_LatchesAndDieLinks_has_witnesses :
    (∃ r : Req, ∃ a : Addr, ∃ s : State, (s.homeReq r) ∧ (a.toNat = R.SYS_TIMEBASE_LO.at)) ∧
    (∃ l : Fin 6, ∃ s : State, (bit (s.fget F.SYS_D2DSTAT_DOWN) l.val = false) ∧ (bit (s.fget F.SYS_D2DSTAT_UP) l.val = true) ∧
      (Sparse.get (fun _ => 0) s.d2dFails l.val < 8)) ∧
    (∃ l : Fin 6, ∃ s : State, (bit (s.fget F.SYS_D2DSTAT_DOWN) l.val = false) ∧ (bit (s.fget F.SYS_D2DSTAT_UP) l.val = true) ∧
      (8 ≤ Sparse.get (fun _ => 0) s.d2dFails l.val)) ∧
    (∃ l : Fin 6, ∃ s : State, (bit (s.fget F.SYS_D2DSTAT_DOWN) l.val = false) ∧ (bit (s.fget F.SYS_D2DSTAT_UP) l.val = true)) ∧
    (∃ l : Fin 6, ∃ ok : Bool, ∃ s : State, (bit (s.fget F.SYS_D2DSTAT_DOWN) l.val = true)) :=
  ⟨⟨.core 0, (BitVec.ofNat 40 (R.SYS_TIMEBASE_LO.at)), on, by decide +kernel, by decide +kernel⟩,
   ⟨0, on, by decide +kernel, by decide +kernel, by decide +kernel⟩,
   ⟨1, { on with d2dFails := [(1, 8)] }, by decide +kernel, by decide +kernel, by decide +kernel⟩,
   ⟨0, on, by decide +kernel, by decide +kernel⟩,
   ⟨1, true, on.fset F.SYS_D2DSTAT_DOWN 63, by decide +kernel⟩⟩

/-- Concrete states and operands that meet the hypotheses of `Obligations.NarrowAndWideAccessesReachMemory`, clause by clause. -/
theorem test_NarrowAndWideAccessesReachMemory_has_witnesses :
    (∃ r : Req, ∃ a : Addr, ∃ sz : NSize, ∃ v : DWord, ∃ rivals : List (Fin 8 × Fin 6), ∃ s : State, (s.reqOn r = true) ∧
      (narrowOk a.toNat sz.bytes = true) ∧ (s.ctxEnabled (s.ctxOf r) = true) ∧ ((s.loc a.toNat).sram = true) ∧
      (s.reaches r true (s.loc a.toNat) = true) ∧ ((s.slotFor r a.toNat rivals).1 = true) ∧
      ((s.slotFor r a.toNat rivals).2.locOn (s.loc a.toNat) = true) ∧ (s.mem.isEccBad (a.toNat / 8) = false)) ∧
    (∃ r : Req, ∃ a : Addr, ∃ sz : NSize, ∃ v : DWord, ∃ rivals : List (Fin 8 × Fin 6), ∃ s : State, (s.reqOn r = true) ∧
      (narrowOk a.toNat sz.bytes = true) ∧ (s.ctxEnabled (s.ctxOf r) = true) ∧ ((s.loc a.toNat).sram = true) ∧
      (s.reaches r false (s.loc a.toNat) = true) ∧ ((s.slotFor r a.toNat rivals).1 = true) ∧
      ((s.slotFor r a.toNat rivals).2.locOn (s.loc a.toNat) = true) ∧ (s.mem.isEccBad (a.toNat / 8) = false)) ∧
    (∃ r : Req, ∃ a : Addr, ∃ data : List Byte, ∃ tag : Word, ∃ check : Bool, ∃ rivals : List (Fin 8 × Fin 6), ∃ s : State, (s.reqOn r = true) ∧
      (a.toNat % 256 = 0) ∧ (s.ctxEnabled (s.ctxOf r) = true) ∧ ((s.loc a.toNat).tagged = true) ∧ (s.reachesWide r true (s.loc a.toNat) = true) ∧
      ((s.slotFor r a.toNat rivals).1 = true) ∧ ((s.slotFor r a.toNat rivals).2.locOn (s.loc a.toNat) = true)) ∧
    (∃ r : Req, ∃ a : Addr, ∃ data : List Byte, ∃ tag : Word, ∃ rivals : List (Fin 8 × Fin 6), ∃ s : State, (s.reqOn r = true) ∧
      (a.toNat % 256 = 0) ∧ (s.ctxEnabled (s.ctxOf r) = true) ∧ ((s.loc a.toNat).tagged = true) ∧
      (s.reachesWide r false (s.loc a.toNat) = true) ∧ ((s.slotFor r a.toNat rivals).1 = true) ∧
      ((s.slotFor r a.toNat rivals).2.locOn (s.loc a.toNat) = true) ∧ ((∀ i, i < 32 → s.mem.isEccBad (a.toNat / 8 + i) = false)) ∧
      (s.mem.tagOk (a.toNat / 256) = true)) :=
  ⟨⟨.core 0, 0x0100000008#40, .b8, 1, [(0, 5)], on, by decide +kernel, by decide +kernel, by decide +kernel, by decide +kernel,
    by decide +kernel, by decide +kernel, by decide +kernel, by decide +kernel⟩,
   ⟨.core 0, 0x0100000008#40, .b8, 1, [], on, by decide +kernel, by decide +kernel, by decide +kernel, by decide +kernel,
     by decide +kernel, by decide +kernel, by decide +kernel, by decide +kernel⟩,
   ⟨.core 0, 0x0100000100#40, [1], 0, true, [], on, by decide +kernel, by decide +kernel, by decide +kernel, by decide +kernel,
     by decide +kernel, by decide +kernel, by decide +kernel⟩,
   ⟨.core 0, 0x0100000100#40, [1], 0, [], on, by decide +kernel, by decide +kernel, by decide +kernel, by decide +kernel,
     by decide +kernel, by decide +kernel, by decide +kernel, by decide +kernel, by decide +kernel⟩⟩

/-- Concrete states and operands that meet the hypotheses of `Obligations.PartialWritesKeepTagsHonest`, clause by clause. -/
theorem test_PartialWritesKeepTagsHonest_has_witnesses :
    (∃ m : Memory, ∃ a : Nat, ∃ data : List Byte, (a % 256 + data.length ≤ 256)) ∧
    (∃ m : Memory, ∃ a : Nat, ∃ data : List Byte, (a % 256 + data.length ≤ 256) ∧ (m.tagOk (a / 256) = false)) ∧
    (∃ m : Memory, ∃ a : Nat, ∃ data : List Byte, (a % 256 + data.length ≤ 256) ∧ ∃ b, (¬(a ≤ b ∧ b < a + data.length))) ∧
    (∃ m : Memory, ∃ blk : Nat, ∃ data : List Byte, ∃ k, (k ≠ blk)) :=
  ⟨⟨on.mem, 255, [7], by decide +kernel⟩,
   ⟨{ on.mem with tagX := [(0, 1)] }, 255, [7], by decide +kernel, by decide +kernel⟩,
   ⟨on.mem, 255, [7], by decide +kernel, 254, by decide +kernel⟩,
   ⟨on.mem, 0, [7], 1, by decide +kernel⟩⟩

/-- Concrete states and operands that meet the hypotheses of `Obligations.SplitModeAndConflictCounters`, clause by clause. -/
theorem test_SplitModeAndConflictCounters_has_witnesses :
    (∃ r : Req, ∃ v : Word, ∃ s : State, (s.homeReq r) ∧ (s.flag F.MEM_STAT_SPLITON = false)) ∧
    (∃ s : State, (s.flag F.MEM_STAT_SPLITPEND = true) ∧ (s.allStreamsIdle = true)) ∧
    (∃ r : Req, ∃ v : Word, ∃ s : State, (s.homeReq r)) :=
  ⟨⟨.core 0, 0, on, by decide +kernel, by decide +kernel⟩,
   ⟨on.setFlag F.MEM_STAT_SPLITPEND true, by decide +kernel, by decide +kernel⟩,
   ⟨.core 0, 0, on, by decide +kernel⟩⟩

/-- Concrete states and operands that meet the hypotheses of `Obligations.FirstLevelCacheCommands`, clause by clause. -/
theorem test_FirstLevelCacheCommands_has_witnesses :
    (∃ r : Req, ∃ n : Fin 8, ∃ v : Word, ∃ s : State, (s.ctxEnabled (s.ctxOf r) = true) ∧ (s.ctxOf r = 0) ∧ (s.coreEnabled n.val = true) ∧
      (s.flag F.DME_STAT_RETIRED n.val = false) ∧ (getField v 0 4 = s.l1Cache n.val) ∧ (bit v.toNat 9 = false)) ∧
    (∃ r : Req, ∃ n : Fin 8, ∃ v : Word, ∃ s : State, (s.ctxEnabled (s.ctxOf r) = true) ∧ (s.ctxOf r = 0) ∧ (s.coreEnabled n.val = true) ∧
      (s.flag F.DME_STAT_RETIRED n.val = false) ∧ (getField v 0 4 = s.l1Cache n.val) ∧ (bit v.toNat 8 = false)) ∧
    (∃ r : Req, ∃ n : Fin 8, ∃ v : Word, ∃ s : State, (s.ctxEnabled (s.ctxOf r) = true) ∧ (s.ctxOf r = 0) ∧ (s.coreEnabled n.val = true) ∧
      (s.flag F.DME_STAT_RETIRED n.val = false) ∧ (getField v 0 4 ≠ s.l1Cache n.val) ∧ (getField v 0 4 ≤ 8) ∧ (bit v.toNat 8 = false) ∧
      (bit v.toNat 9 = false) ∧ ((s.stream (4 + n.val)).run = none)) ∧
    (∃ n : Fin 8, ∃ s : State, (l1ResizeOf s n.val ≠ 0)) :=
  ⟨⟨.core 0, 0, 0, on, by decide +kernel, by decide +kernel, by decide +kernel, by decide +kernel, by decide +kernel, by decide +kernel⟩,
   ⟨.core 0, 0, 0, on, by decide +kernel, by decide +kernel, by decide +kernel, by decide +kernel, by decide +kernel, by decide +kernel⟩,
   ⟨.core 0, 0, 8, on, by decide +kernel, by decide +kernel, by decide +kernel, by decide +kernel, by decide +kernel, by decide +kernel,
     by decide +kernel, by decide +kernel, by decide +kernel⟩,
   ⟨0, on.setL1Resize 0 9, by decide +kernel⟩⟩

/-- Concrete states and operands that meet the hypotheses of `Obligations.SharedReadCacheAndRowRepair`, clause by clause. -/
theorem test_SharedReadCacheAndRowRepair_has_witnesses :
    (∃ r : Req, ∃ v : Word, ∃ s : State, (s.homeReq r) ∧ (bit v.toNat 8 = false) ∧ (getField v 0 4 ≠ s.fget F.MEM_WBMCACHE_SIZE) ∧
      (getField v 0 4 ≤ 8)) ∧
    (∃ r : Req, ∃ v : Word, ∃ s : State, (s.homeReq r) ∧ (getField v 0 4 = s.fget F.MEM_WBMCACHE_SIZE)) ∧
    (∃ r : Req, ∃ a : Addr, ∃ s : State, ∃ k : Nat, (s.loc a.toNat = .store k) ∧ (s.fget F.MEM_WBMCACHE_SIZE ≠ 0) ∧ (usesWbm r = true) ∧
      (s.memsys.wbmLines.contains ((a.toNat - 0x1000000000) / 4096 * 4096) = false) ∧ (s.bankBusy k = false)) ∧
    (∃ r : Req, ∃ v : Word, ∃ s : State, (s.homeReq r) ∧ (s.flag F.MEM_REPSTAT_BUSY = false)) ∧
    (∃ m : Nat, ∃ b : Nat, ∃ row : Nat, ∃ s : State, (s.memsys.repair = some (m, b, row)) ∧ (s.repairResult m b row = 1)) :=
  ⟨⟨.core 0, 8, on, by decide +kernel, by decide +kernel, by decide +kernel, by decide +kernel⟩,
   ⟨.core 0, 0, on, by decide +kernel, by decide +kernel⟩,
   ⟨.stream 14, 0x1000000000#40, on.fset F.MEM_WBMCACHE_SIZE 8, 0, by decide +kernel, by decide +kernel, by decide +kernel,
     by decide +kernel, by decide +kernel⟩,
   ⟨.core 0, 0, on, by decide +kernel, by decide +kernel⟩,
   ⟨0, 0, 0, { on with memsys := { on.memsys with repair := some (0, 0, 0) } }, by decide +kernel, by decide +kernel⟩⟩

/-- Concrete states and operands that meet the hypotheses of `Obligations.CircularRegionsCountBytes`, clause by clause. -/
theorem test_CircularRegionsCountBytes_has_witnesses :
    (∃ r : Req, ∃ n : Fin 64, ∃ v : Word, ∃ s : State, (s.homeReq r) ∧ (s.flag F.MEM_CR_CFG_EN n.val = false) ∧ (s.crPlaced n.val = true)) ∧
    (∃ r : Req, ∃ n : Fin 64, ∃ v : Word, ∃ s : State, (s.homeReq r) ∧ (s.flag F.MEM_CR_CFG_EN n.val = true) ∧ ((s.region n.val).opened = [])) ∧
    (∃ r : Req, ∃ n : Fin 64, ∃ v : Word, ∃ s : State, (s.homeReq r) ∧ (s.flag F.MEM_CR_CFG_EN n.val = true) ∧ ((s.region n.val).opened ≠ [])) ∧
    (∃ r : Req, ∃ n : Fin 64, ∃ v : Word, ∃ s : State, (s.homeReq r) ∧ (v.toNat % 256 = 0) ∧
      (v.toNat ≤ ringDiff (s.crHead n.val) (s.crTail n.val))) ∧
    (∃ r : Req, ∃ n : Fin 64, ∃ v : Word, ∃ s : State, (s.homeReq r) ∧ (v.toNat % 256 = 0) ∧
      (ringDiff (s.crHead n.val) (s.crTail n.val) < v.toNat)) ∧
    (∃ n : Fin 64, ∃ p : Req, ∃ tag : Nat, ∃ len : Word, ∃ s : State, (s.crOpen n.val = true) ∧ ((s.region n.val).opened = []) ∧
      ((s.region n.val).waiting = []) ∧ (ringDiff (s.region n.val).res (s.crTail n.val) + len.toNat ≤ s.crSize n.val)) ∧
    (∃ n : Fin 64, ∃ p : Req, ∃ tag : Nat, ∃ a : Arrival, ∃ s : State, ((s.region n.val).opened = [a]) ∧ (a.unit = unitOf p) ∧ (a.tag = tag) ∧
      (a.window = false)) :=
  ⟨⟨.core 0, 1, 0x80000000, ((on.rset R.MEM_CR_BASE 0x1000000 1).fset F.MEM_CR_SIZE_SIZE 16 1), by decide +kernel, by decide +kernel,
    by decide +kernel⟩,
   ⟨.core 0, 1, 0, (((on.rset R.MEM_CR_BASE 0x1000000 1).fset F.MEM_CR_SIZE_SIZE 16 1).setFlag F.MEM_CR_CFG_EN true 1),
     by decide +kernel, by decide +kernel, by decide +kernel⟩,
   ⟨.core 0, 1, 0, (((on.rset R.MEM_CR_BASE 0x1000000 1).fset F.MEM_CR_SIZE_SIZE 16 1).setFlag F.MEM_CR_CFG_EN true 1).setRegion 1 { Region.idle with res := 256, opened := [⟨unitOf (.core 0), 3, 0, 256, false, false, false⟩] },
     by decide +kernel, by decide +kernel, by decide +kernel⟩,
   ⟨.core 0, 1, 256, (((on.rset R.MEM_CR_BASE 0x1000000 1).fset F.MEM_CR_SIZE_SIZE 16 1).setFlag F.MEM_CR_CFG_EN true 1).rset R.MEM_CR_HEAD 256 1, by decide +kernel,
     by decide +kernel, by decide +kernel⟩,
   ⟨.core 0, 1, 512, (((on.rset R.MEM_CR_BASE 0x1000000 1).fset F.MEM_CR_SIZE_SIZE 16 1).setFlag F.MEM_CR_CFG_EN true 1).rset R.MEM_CR_HEAD 256 1, by decide +kernel,
     by decide +kernel, by decide +kernel⟩,
   ⟨1, .core 0, 3, 4096, (((on.rset R.MEM_CR_BASE 0x1000000 1).fset F.MEM_CR_SIZE_SIZE 16 1).setFlag F.MEM_CR_CFG_EN true 1),
     by decide +kernel, by decide +kernel, by decide +kernel, by decide +kernel⟩,
   ⟨1, .core 0, 3, ⟨unitOf (.core 0), 3, 0, 256, false, false, false⟩, (((on.rset R.MEM_CR_BASE 0x1000000 1).fset F.MEM_CR_SIZE_SIZE 16 1).setFlag F.MEM_CR_CFG_EN true 1).setRegion 1 { Region.idle with res := 256, opened := [⟨unitOf (.core 0), 3, 0, 256, false, false, false⟩] },
     by decide +kernel, by decide +kernel, by decide +kernel, by decide +kernel⟩⟩

/-- Concrete states and operands that meet the hypotheses of `Obligations.ViolationsCountAndCaptureOnce`, clause by clause. -/
theorem test_ViolationsCountAndCaptureOnce_has_witnesses :
    (∃ s : State, ∃ c : Nat, ∃ unit : Nat, ∃ kind : Nat, ∃ addr : Nat, (c < 8) ∧ (unit < 256) ∧ (kind < 16) ∧ (addr < 2 ^ 40)) ∧
    (∃ s : State, ∃ c : Nat, ∃ unit : Nat, ∃ kind : Nat, ∃ addr : Nat, (c < 8) ∧ (unit < 256) ∧ (kind < 16) ∧ (addr < 2 ^ 40) ∧
      (s.flag F.MMU_CTX_VCAPINFO_ARMED c = true)) ∧
    (∃ s : State, ∃ c : Nat, ∃ unit : Nat, ∃ kind : Nat, ∃ addr : Nat, (c < 8) ∧ (unit < 256) ∧ (kind < 16) ∧ (addr < 2 ^ 40) ∧
      (s.flag F.MMU_CTX_VCAPINFO_ARMED c = false)) :=
  ⟨⟨on, 0, 0, 0, 0, by decide +kernel, by decide +kernel, by decide +kernel, by decide +kernel⟩,
   ⟨on, 0, 0, 0, 0, by decide +kernel, by decide +kernel, by decide +kernel, by decide +kernel, by decide +kernel⟩,
   ⟨on.setFlag F.MMU_CTX_VCAPINFO_ARMED false 7, 7, 255, 15, 0xFFFFFFFFFF, by decide +kernel, by decide +kernel, by decide +kernel,
     by decide +kernel, by decide +kernel⟩⟩

/-- Concrete states and operands that meet the hypotheses of `Obligations.ContextRegistersTakeLegalValuesOnly`, clause by clause. -/
theorem test_ContextRegistersTakeLegalValuesOnly_has_witnesses :
    (∃ p : Fin 2, ∃ v : Word, ∃ s : State, (classTable (getField v 0 3) (getField v 4 3) = true)) ∧
    (∃ p : Fin 2, ∃ v : Word, ∃ s : State, (classTable (getField v 0 3) (getField v 4 3) = false)) ∧
    (∃ r : Req, ∃ n : Fin 8, ∃ v : Word, ∃ s : State, (s.homeReq r) ∧ (s.bellRangeOk n.val v = true)) ∧
    (∃ r : Req, ∃ n : Fin 8, ∃ v : Word, ∃ s : State, (s.homeReq r) ∧ (s.bellRangeOk n.val v = false)) ∧
    (∃ r : Req, ∃ n : Fin 8, ∃ v : Word, ∃ s : State, (s.homeReq r)) :=
  ⟨⟨1, 0x10, on, by decide +kernel⟩,
   ⟨0, 0, on, by decide +kernel⟩,
   ⟨.core 0, 0, 0, on, by decide +kernel, by decide +kernel⟩,
   ⟨.core 0, 7, 0x000201FF, on, by decide +kernel, by decide +kernel⟩,
   ⟨.core 0, 0, 0, on, by decide +kernel⟩⟩

/-- Concrete states and operands that meet the hypotheses of `Obligations.EnabledBellRangesStayApart`. -/
theorem test_EnabledBellRangesStayApart_has_witnesses :
    ∃ r : Req, ∃ n : Fin 8, ∃ v : Word, ∃ s : State, ∃ t : State, ((∀ i j, i < 8 → j < 8 → i ≠ j → s.ctxEnabled i = true → s.ctxEnabled j = true →
      rangesMeet (s.fget F.MMU_CTX_BELLS_BASE i) (s.fget F.MMU_CTX_BELLS_CNT i)
        (s.fget F.MMU_CTX_BELLS_BASE j) (s.fget F.MMU_CTX_BELLS_CNT j) = false)) ∧
          (exec (.bellRangeWrite r n v) s = .next t ∨ (bit v.toNat 31 = true ∧ t = s.writeCtxCfg r n.val v)) ∧ ∃ i, ∃ j, (i < 8) ∧ (j < 8) ∧
          (i ≠ j) ∧ (t.ctxEnabled i = true) ∧ (t.ctxEnabled j = true) :=
  ⟨.core 0, 7, 0x00010000, on, _, fun i j hi hj => (by decide +kernel : ∀ i, i < 8 → ∀ j, j < 8 → i ≠ j → on.ctxEnabled i = true → on.ctxEnabled j = true → rangesMeet (on.fget F.MMU_CTX_BELLS_BASE i) (on.fget F.MMU_CTX_BELLS_CNT i) (on.fget F.MMU_CTX_BELLS_BASE j) (on.fget F.MMU_CTX_BELLS_CNT j) = false) i hi j hj, .inl rfl, 6, 7,
    by decide +kernel, by decide +kernel, by decide +kernel, by decide +kernel, by decide +kernel⟩

/-- Concrete states and operands that meet the hypotheses of `Obligations.TranslationAnswersAndTlbBound`, clause by clause. -/
theorem test_TranslationAnswersAndTlbBound_has_witnesses :
    (∃ s : State, ∃ unit : Nat, ∃ c : Nat, ∃ vpn : Nat, ((s.tlb unit).length ≤ 64) ∧ ∃ e, ((s.translate unit c vpn).1 = .ok e)) ∧
    (∃ s : State, ∃ unit : Nat, ∃ c : Nat, ∃ vpn : Nat, ((s.tlb unit).length ≤ 64)) ∧
    (∃ s : State, ∃ unit : Nat, ∃ c : Nat, ∃ vpn : Nat, ((s.tlb unit).length ≤ 64) ∧ ∃ u, (u ≠ unit)) :=
  ⟨⟨((on.rset R.MMU_CTX_PTBASE 0x100000 0).store 0x0100000000 (leBytes 8 0x010000001F)), 0x40, 0, 3,
    by decide +kernel, ⟨0, 0, true, 0x100000, true, true, true⟩, by decide +kernel⟩,
   ⟨on, 0, 0, 0, by decide +kernel⟩,
   ⟨((on.rset R.MMU_CTX_PTBASE 0x100000 0).store 0x0100000000 (leBytes 8 0x010000001F)), 0x40, 0, 3, by decide +kernel, 0x41, by decide +kernel⟩⟩

/-- Concrete states and operands that meet the hypotheses of `Obligations.InvalidationDropsMatchingEntries`, clause by clause. -/
theorem test_InvalidationDropsMatchingEntries_has_witnesses :
    (∃ r : Req, ∃ v : Word, ∃ s : State, (s.homeReq r) ∧ (s.flag F.MMU_INVAL_BUSY = false)) ∧
    (∃ r : Req, ∃ v : Word, ∃ s : State, (s.homeReq r) ∧ (s.flag F.MMU_INVAL_BUSY = true)) ∧
    (∃ s : State, ∃ scope : Nat, ∃ c : Nat, ∃ vpn : Nat, (s.mmu.invalBusy = some (scope, c, vpn))) :=
  ⟨⟨.core 0, 0, on, by decide +kernel, by decide +kernel⟩,
   ⟨.core 0, 0, on.setFlag F.MMU_INVAL_BUSY true, by decide +kernel, by decide +kernel⟩,
   ⟨{ on with mmu := { on.mmu with invalBusy := some (2, 0, 0) } }, 2, 0, 0, by decide +kernel⟩⟩

/-- Concrete states and operands that meet the hypotheses of `Obligations.FaultRecordsTakeTheLowestFreeEntry`, clause by clause. -/
theorem test_FaultRecordsTakeTheLowestFreeEntry_has_witnesses :
    (∃ s : State, ∃ f : FaultInfo, ((s.reportFault f).1 = true)) ∧
    (∃ s : State, ∃ f : FaultInfo, ((s.reportFault f).1 = false)) :=
  ⟨⟨on.rset R.MMU_CTX_FQBASE 0x100000 0, ⟨0, 0x40, 1, 1, 0, 0, 0, 0, 0, 0, 0, 0⟩, by decide +kernel⟩,
   ⟨on.rset R.MMU_CTX_FQBASE 0x20000 0, ⟨0, 0x40, 1, 1, 0, 0, 0, 0, 0, 0, 0, 0⟩, by decide +kernel⟩⟩

/-- Concrete states and operands that meet the hypotheses of `Obligations.FaultsAreResumedOrAborted`, clause by clause. -/
theorem test_FaultsAreResumedOrAborted_has_witnesses :
    (∃ r : Req, ∃ v : Word, ∃ s : State, ∃ x : Susp, (s.homeReq r) ∧ (s.suspAt (getField v 8 3) (getField v 0 7) = some x) ∧ (x.unit < 22)) ∧
    (∃ r : Req, ∃ v : Word, ∃ s : State, (s.homeReq r) ∧ (s.suspAt (getField v 8 3) (getField v 0 7) = none)) ∧
    (∃ r : Req, ∃ v : Word, ∃ s : State, ∃ x : Susp, (s.homeReq r) ∧ (s.suspAt (getField v 8 3) (getField v 0 7) = some x)) ∧
    (∃ c : Fin 8, ∃ i : Fin 128, ∃ s : State, ∃ x : Susp, (s.mmu.susps.find? (fun x => x.ctx == c.val && x.index == i.val) = some x) ∧
      (x.origin + s.faultSpan ≤ s.now)) ∧
    (∃ s : State, ∃ x : Susp, ∃ p : Prog, (x.unit < 22) ∧ ((s.stream x.unit).suspended x = some p) ∧ (p.start.bcast = false)) ∧
    (∃ r : Req, ∃ n : Fin 8, ∃ v : Word, ∃ s : State, (s.homeReq r) ∧ (s.locked = false) ∧ (s.ctxEnabled n.val = true)) :=
  ⟨⟨.core 0, 5, { on.setStream 4 { Stream.idle with saved := [{ Prog.ofStart ⟨0, 0x0100001000, 0, 4, 1, 0, false, false, 0⟩ with susp := true }] } with mmu := { on.mmu with susps := [⟨0, 5, 4, 1, 0, 0, 0, 0⟩] } }, ⟨0, 5, 4, 1, 0, 0, 0, 0⟩,
    by decide +kernel, by decide +kernel, by decide +kernel⟩,
   ⟨.core 0, 0, on, by decide +kernel, by decide +kernel⟩,
   ⟨.core 0, 5, { on.setStream 4 { Stream.idle with saved := [{ Prog.ofStart ⟨0, 0x0100001000, 0, 4, 1, 0, false, false, 0⟩ with susp := true }] } with mmu := { on.mmu with susps := [⟨0, 5, 4, 1, 0, 0, 0, 0⟩] } }, ⟨0, 5, 4, 1, 0, 0, 0, 0⟩,
     by decide +kernel, by decide +kernel⟩,
   ⟨0, 5, { on.setStream 4 { Stream.idle with saved := [{ Prog.ofStart ⟨0, 0x0100001000, 0, 4, 1, 0, false, false, 0⟩ with susp := true }] } with mmu := { on.mmu with susps := [⟨0, 5, 4, 1, 0, 0, 0, 0⟩] } }, ⟨0, 5, 4, 1, 0, 0, 0, 0⟩,
     by decide +kernel, by decide +kernel⟩,
   ⟨{ on.setStream 4 { Stream.idle with saved := [{ Prog.ofStart ⟨0, 0x0100001000, 0, 4, 1, 0, false, false, 0⟩ with susp := true }] } with mmu := { on.mmu with susps := [⟨0, 5, 4, 1, 0, 0, 0, 0⟩] } }, ⟨0, 5, 4, 1, 0, 0, 0, 0⟩, { Prog.ofStart ⟨0, 0x0100001000, 0, 4, 1, 0, false, false, 0⟩ with susp := true },
     by decide +kernel, by decide +kernel, by decide +kernel⟩,
   ⟨.core 0, 0, 0, on, by decide +kernel, by decide +kernel, by decide +kernel⟩⟩

/-- Concrete states and operands that meet the hypotheses of `Obligations.StartsQueueAndBegin`, clause by clause. -/
theorem test_StartsQueueAndBegin_has_witnesses :
    (∃ r : Req, ∃ n : Fin 8, ∃ v : Word, ∃ s : State, (s.reqOn r = true) ∧ (s.ctxOf r = n.val) ∧ (s.ctxEnabled n.val = true) ∧
      (bit v.toNat 0 = true)) ∧
    (∃ n : Fin 22, ∃ s : State, ∃ c : Nat, ∃ q : Start, ∃ h : List Byte, (s.streamFree n.val = true) ∧ ((s.stream n.val).nextClass = some c) ∧
      ((s.stream n.val).saved.find? (fun p => p.start.cls == c) = none) ∧ ((s.stream n.val).firstStart c = some q) ∧ (q.bcast = false) ∧
      (streamKind n.val ≠ 1 ∨ s.coreRetired (n.val - 4) = false) ∧
      ((((s.applyClocks n.val).setStream n.val { (s.stream n.val).take q with run := some { Prog.ofStart q with group := q.hold } }).fetch
      n.val q.ctx q.prog 32).1 = .bytes h) ∧ (headerOk n.val h = true)) ∧
    (∃ n : Fin 22, ∃ s : State, ∃ c : Nat, ∃ p : Prog, (s.streamFree n.val = true) ∧ ((s.stream n.val).nextClass = some c) ∧
      ((s.stream n.val).saved.find? (fun p => p.start.cls == c) = some p) ∧ (p.began = true)) ∧
    (∃ r : Req, ∃ v : Word, ∃ s : State, (s.homeReq r)) :=
  ⟨⟨.core 0, 0, 1, on, by decide +kernel, by decide +kernel, by decide +kernel, by decide +kernel⟩,
   ⟨4, (vm.store 0x0100001000 (leBytes 4 0x4752504C ++ leBytes 2 1 ++ [1, 0] ++ leBytes 4 4 ++ List.replicate 20 0)).setStream 4 { Stream.idle with queue := [st 4] }, 1, st 4, _,
     by decide +kernel, by decide +kernel, by decide +kernel, by decide +kernel, by decide +kernel, by decide +kernel, rfl, by decide +kernel⟩,
   ⟨4, on.setStream 4 { Stream.idle with saved := [pr 4] }, 1, pr 4, by decide +kernel, by decide +kernel, by decide +kernel, by decide +kernel⟩,
   ⟨.core 0, 0, on, by decide +kernel⟩⟩

/-- Concrete states and operands that meet the hypotheses of `Obligations.PreemptionSavesAndBroadcastBinds`, clause by clause. -/
theorem test_PreemptionSavesAndBroadcastBinds_has_witnesses :
    (∃ n : Fin 22, ∃ s : State, ∃ p : Prog, ∃ c : Nat, ((s.stream n.val).run = some p) ∧ (p.group = false) ∧
      ((List.range 6).find? (fun c => (s.stream n.val).queue.any (fun q => q.cls == c)) = some c) ∧ (c < p.start.cls)) ∧
    (∃ n : Fin 22, ∃ s : State, ∃ p : Prog, ∃ c : Nat, ((s.stream n.val).run = some p) ∧
      ((List.range 6).find? (fun c => (s.stream n.val).queue.any (fun q => q.cls == c)) = some c) ∧ (p.start.cls ≤ c)) ∧
    (∃ n : Fin 22, ∃ s : State, ∃ q : Start, ((s.stream n.val).nextClass.bind (fun c => (s.stream n.val).firstStart c) = some q) ∧
      (q.bcast = true) ∧ (s.streamFree n.val = true) ∧ (streamKind n.val = 1) ∧ (bit q.cmask (n.val - 4) = true) ∧
      ((∀ k, k ∈ setBits 16 q.cmask → k < 8 ∧ s.coreEnabled k = true ∧ s.coreRetired k = false ∧
      ∀ p, (s.stream (4 + k)).run = some p → q.cls < p.start.cls))) :=
  ⟨⟨4, on.setStream 4 { Stream.idle with run := some (pr 4), queue := [{ st 4 with cls := 0 }] }, pr 4, 0, by decide +kernel,
    by decide +kernel, by decide +kernel, by decide +kernel⟩,
   ⟨4, on.setStream 4 { Stream.idle with run := some (pr 4), queue := [st 4] }, pr 4, 1, by decide +kernel, by decide +kernel, by decide +kernel⟩,
   ⟨4, on.setStream 4 { Stream.idle with queue := [{ st 4 with bcast := true, cmask := 3 }] }, { st 4 with bcast := true, cmask := 3 },
     by decide +kernel, by decide +kernel, by decide +kernel, by decide +kernel, by decide +kernel, by decide +revert⟩⟩

/-- Concrete states and operands that meet the hypotheses of `Obligations.WaitsAreSatisfiedAndLatched`, clause by clause. -/
theorem test_WaitsAreSatisfiedAndLatched_has_witnesses :
    (∃ n : Fin 22, ∃ w : Fin 2, ∃ s : State, ∃ p : Prog, ∃ b : Bundle, ∃ y : Nat, ((s.stream n.val).run = some p) ∧ (p.phase = .waiting) ∧
      (p.bundle = some b) ∧ (b.slot 0 = some y) ∧ (p.expect.length = 8) ∧ (let base := if w.val = 0 then 43 else 22
 (let k := bits y (base + 8) 3
  (let target := p.expect.getD k 0 + bits y base 8
   (let diff := toSigned 16 (ofSigned 16 ((s.bell (bits y (base + 11) 9) : Int) - (target : Int)))
    (let latched := if w.val = 0 then p.w0 else p.w1
     (p.expect.getD k 0 < 65536) ∧ (bit y (base + 20) = true) ∧ (latched = false) ∧ (0 ≤ diff))))))) ∧
    (∃ n : Fin 22, ∃ w : Fin 2, ∃ s : State, ∃ p : Prog, ∃ b : Bundle, ∃ y : Nat, ((s.stream n.val).run = some p) ∧ (p.phase = .waiting) ∧
      (p.bundle = some b) ∧ (b.slot 0 = some y) ∧ (p.expect.length = 8) ∧ (let base := if w.val = 0 then 43 else 22
 (let k := bits y (base + 8) 3
  (let target := p.expect.getD k 0 + bits y base 8
   (let diff := toSigned 16 (ofSigned 16 ((s.bell (bits y (base + 11) 9) : Int) - (target : Int)))
    (let latched := if w.val = 0 then p.w0 else p.w1
     (p.expect.getD k 0 < 65536) ∧ (diff < 0))))))) ∧
    (∃ n : Fin 22, ∃ w : Fin 2, ∃ s : State, ∃ p : Prog, ∃ b : Bundle, ∃ y : Nat, ((s.stream n.val).run = some p) ∧ (p.phase = .waiting) ∧
      (p.bundle = some b) ∧ (b.slot 0 = some y) ∧ (p.expect.length = 8) ∧ (let base := if w.val = 0 then 43 else 22
 (let k := bits y (base + 8) 3
  (let target := p.expect.getD k 0 + bits y base 8
   (let diff := toSigned 16 (ofSigned 16 ((s.bell (bits y (base + 11) 9) : Int) - (target : Int)))
    (let latched := if w.val = 0 then p.w0 else p.w1
     (latched = true))))))) ∧
    (∃ n : Fin 22, ∃ w : Fin 2, ∃ s : State, ∃ p : Prog, ∃ b : Bundle, ∃ y : Nat, ((s.stream n.val).run = some p) ∧ (p.phase = .waiting) ∧
      (p.bundle = some b) ∧ (b.slot 0 = some y) ∧ (p.expect.length = 8)) :=
  ⟨⟨4, 0, running (on.fset F.ENG_BELL_VALUE 1 3) 4 ({ pr 4 with phase := .waiting, bundle := some (bun [(0, (2 ^ 63 + 3 * 2 ^ 54 + 1 * 2 ^ 43))]) }), { pr 4 with phase := .waiting, bundle := some (bun [(0, (2 ^ 63 + 3 * 2 ^ 54 + 1 * 2 ^ 43))]) }, bun [(0, (2 ^ 63 + 3 * 2 ^ 54 + 1 * 2 ^ 43))], (2 ^ 63 + 3 * 2 ^ 54 + 1 * 2 ^ 43),
    by decide +kernel, by decide +kernel, by decide +kernel, by decide +kernel, by decide +kernel, by decide +kernel, by decide +kernel,
    by decide +kernel, by decide +kernel⟩,
   ⟨4, 0, running (on) 4 ({ pr 4 with phase := .waiting, bundle := some (bun [(0, (2 ^ 63 + 3 * 2 ^ 54 + 1 * 2 ^ 43))]) }), { pr 4 with phase := .waiting, bundle := some (bun [(0, (2 ^ 63 + 3 * 2 ^ 54 + 1 * 2 ^ 43))]) }, bun [(0, (2 ^ 63 + 3 * 2 ^ 54 + 1 * 2 ^ 43))], (2 ^ 63 + 3 * 2 ^ 54 + 1 * 2 ^ 43),
     by decide +kernel, by decide +kernel, by decide +kernel, by decide +kernel, by decide +kernel, by decide +kernel, by decide +kernel⟩,
   ⟨4, 0, running (on) 4 ({ pr 4 with phase := .waiting, bundle := some (bun [(0, (2 ^ 63 + 3 * 2 ^ 54 + 1 * 2 ^ 43))]), w0 := true }), { pr 4 with phase := .waiting, bundle := some (bun [(0, (2 ^ 63 + 3 * 2 ^ 54 + 1 * 2 ^ 43))]), w0 := true }, bun [(0, (2 ^ 63 + 3 * 2 ^ 54 + 1 * 2 ^ 43))], (2 ^ 63 + 3 * 2 ^ 54 + 1 * 2 ^ 43),
     by decide +kernel, by decide +kernel, by decide +kernel, by decide +kernel, by decide +kernel, by decide +kernel⟩,
   ⟨4, 0, running (on) 4 ({ pr 4 with phase := .waiting, bundle := some (bun [(0, (2 ^ 63 + 3 * 2 ^ 54 + 1 * 2 ^ 43))]) }), { pr 4 with phase := .waiting, bundle := some (bun [(0, (2 ^ 63 + 3 * 2 ^ 54 + 1 * 2 ^ 43))]) }, bun [(0, (2 ^ 63 + 3 * 2 ^ 54 + 1 * 2 ^ 43))], (2 ^ 63 + 3 * 2 ^ 54 + 1 * 2 ^ 43),
     by decide +kernel, by decide +kernel, by decide +kernel, by decide +kernel, by decide +kernel⟩⟩

/-- Concrete states and operands that meet the hypotheses of `Obligations.BundlesFetchIssueAndCommit`, clause by clause. -/
theorem test_BundlesFetchIssueAndCommit_has_witnesses :
    (∃ n : Fin 22, ∃ s : State, ∃ p : Prog, ∃ b : Bundle, ((s.stream n.val).run = some p) ∧ (p.began = true) ∧ (p.phase = .fetch) ∧
      ((s.fetchBundle n.val p p.pc).1 = .bundle b)) ∧
    (∃ n : Fin 22, ∃ s : State, ∃ p : Prog, ((s.stream n.val).run = some p) ∧ (p.began = true) ∧ (p.phase = .fetch) ∧ (32 + p.length ≤ p.pc)) ∧
    (∃ n : Fin 22, ∃ s : State, ∃ p : Prog, ((s.stream n.val).run = some p) ∧ (p.began = true) ∧ (p.phase = .fetch) ∧ (p.pc < 32 + p.length) ∧
      (s.flag F.ENG_S_STOP_EN n.val = true) ∧ (s.fget F.ENG_S_STOP_COUNT n.val ≤ p.bcnt)) ∧
    (∃ n : Fin 22, ∃ s : State, ∃ u : State, ∃ p : Prog, ∃ q : Prog, ∃ b : Bundle, ((s.stream n.val).run = some p) ∧ (p.bundle = some b) ∧
      (p.timed = false) ∧ (p.phase = .ready) ∧ (streamKind n.val ≠ 1 ∨ b.ops = [] ∨ p.resident = true) ∧ (s.issueChecks n.val p b = (.go q, u))) ∧
    (∃ n : Fin 22, ∃ s : State, ∃ u : State, ∃ p : Prog, ∃ b : Bundle, ∃ f : Fail, ((s.stream n.val).run = some p) ∧ (p.bundle = some b) ∧
      (p.timed = false) ∧ (p.phase = .ready) ∧ (s.issueChecks n.val p b = (.halts f, u))) ∧
    (∃ n : Fin 22, ∃ s : State, ∃ u : State, ∃ p : Prog, ∃ q : Prog, ∃ b : Bundle, ((s.stream n.val).run = some p) ∧ (p.bundle = some b) ∧
      (p.timed = true) ∧ (p.began = true) ∧ (p.phase = .ready) ∧ (p.timedBlocked n.val b = false) ∧ (s.issueChecks n.val p b = (.go q, u))) ∧
    (∃ n : Fin 22, ∃ s : State, ∃ p : Prog, ∃ b : Bundle, ((s.stream n.val).run = some p) ∧ (p.bundle = some b) ∧ (p.timed = true) ∧
      (p.began = true) ∧ (p.phase = .ready) ∧ (p.timedBlocked n.val b = true)) ∧
    (∃ n : Fin 22, ∃ s : State, ∃ p : Prog, ∃ b : Bundle, ((s.stream n.val).run = some p) ∧ (p.bundle = some b) ∧ (p.phase = .issued) ∧
      (p.ops.all (fun o => o.finished) = true) ∧ (p.iter < b.countM1)) ∧
    (∃ n : Fin 22, ∃ s : State, ∃ p : Prog, ∃ b : Bundle, ((s.stream n.val).run = some p) ∧ (p.bundle = some b) ∧ (p.commitDue b = true) ∧
      (p.ending = false) ∧ (p.broken = false) ∧ (p.behind = [])) ∧
    (∃ n : Fin 22, ∃ s : State, ∃ p : Prog, ∃ b : Bundle, ((s.stream n.val).run = some p) ∧ (p.bundle = some b) ∧ (p.commitDue b = true) ∧
      (p.ending = true) ∧ (p.start.ring ≠ 0xFF)) :=
  ⟨⟨4, running (vm.store 0x0100001020 (leBytes 4 0xB0000000)) 4 (pr 4), pr 4, ⟨32, 0xB0000000, []⟩, by decide +kernel,
    by decide +kernel, by decide +kernel, by decide +kernel⟩,
   ⟨4, running on 4 ({ pr 4 with pc := 288 }), { pr 4 with pc := 288 }, by decide +kernel, by decide +kernel, by decide +kernel, by decide +kernel⟩,
   ⟨4, running (on.setFlag F.ENG_S_STOP_EN true 4) 4 (pr 4), pr 4, by decide +kernel, by decide +kernel, by decide +kernel,
     by decide +kernel, by decide +kernel, by decide +kernel⟩,
   ⟨12, running on 12 (atPhase 12 .ready (bun []) []), _, atPhase 12 .ready (bun []) [], _, bun [], by decide +kernel,
     by decide +kernel, by decide +kernel, by decide +kernel, by decide +kernel, rfl⟩,
   ⟨12, running on 12 (atPhase 12 .ready (bun [(2, 0)]) []), _, atPhase 12 .ready (bun [(2, 0)]) [], bun [(2, 0)], _, by decide +kernel,
     by decide +kernel, by decide +kernel, by decide +kernel, rfl⟩,
   ⟨12, running on 12 ({ atPhase 12 .ready (bun []) [] with timed := true }), _, { atPhase 12 .ready (bun []) [] with timed := true }, _, bun [], by decide +kernel,
     by decide +kernel, by decide +kernel, by decide +kernel, by decide +kernel, by decide +kernel, rfl⟩,
   ⟨12, running on 12 ({ atPhase 12 .ready ⟨32, 0xB0000000, []⟩ [] with timed := true, bcnt := 1 }), { atPhase 12 .ready ⟨32, 0xB0000000, []⟩ [] with timed := true, bcnt := 1 }, ⟨32, 0xB0000000, []⟩,
     by decide +kernel, by decide +kernel, by decide +kernel, by decide +kernel, by decide +kernel, by decide +kernel⟩,
   ⟨12, running on 12 (atPhase 12 .issued (bun [(7, 2 ^ 40)]) []), atPhase 12 .issued (bun [(7, 2 ^ 40)]) [], bun [(7, 2 ^ 40)],
     by decide +kernel, by decide +kernel, by decide +kernel, by decide +kernel, by decide +kernel⟩,
   ⟨12, running on 12 (atPhase 12 .ctrlDone (bun []) []), atPhase 12 .ctrlDone (bun []) [], bun [], by decide +kernel,
     by decide +kernel, by decide +kernel, by decide +kernel, by decide +kernel, by decide +kernel⟩,
   ⟨12, running on 12 ({ atPhase 12 .ctrlDone (bun []) [] with ending := true }), { atPhase 12 .ctrlDone (bun []) [] with ending := true }, bun [],
     by decide +kernel, by decide +kernel, by decide +kernel, by decide +kernel, by decide +kernel⟩⟩

/-- Concrete states and operands that meet the hypotheses of `Obligations.ControlSlotsAct`, clause by clause. -/
theorem test_ControlSlotsAct_has_witnesses :
    (∃ n : Fin 22, ∃ s : State, ∃ p : Prog, ∃ y : Nat, ((s.stream n.val).run = some p) ∧ (p.ctrlDue = some y) ∧ (bits y 56 8 = 1)) ∧
    (∃ n : Fin 22, ∃ s : State, ∃ p : Prog, ∃ y : Nat, ((s.stream n.val).run = some p) ∧ (p.ctrlDue = some y) ∧ (bits y 56 8 = 2)) ∧
    (∃ n : Fin 22, ∃ s : State, ∃ p : Prog, ∃ y : Nat, ((s.stream n.val).run = some p) ∧ (p.ctrlDue = some y) ∧ (bits y 56 8 = 3)) ∧
    (∃ n : Fin 22, ∃ s : State, ∃ p : Prog, ∃ y : Nat, ((s.stream n.val).run = some p) ∧ (p.ctrlDue = some y) ∧ (bits y 56 8 = 4)) ∧
    (∃ n : Fin 22, ∃ s : State, ∃ p : Prog, ∃ y : Nat, ((s.stream n.val).run = some p) ∧ (p.ctrlDue = some y) ∧ (bits y 56 8 = 5) ∧
      (let d := p.desc (bits y 44 12)
 (let cnt := if bits y 0 32 = 0 then d.extent else bits y 0 32
  (cnt % 256 = 0) ∧ (d.crnum < 64) ∧ (cnt ≤ ringDiff (s.crHead d.crnum) (s.crTail d.crnum))))) ∧
    (∃ n : Fin 22, ∃ s : State, ∃ p : Prog, ∃ y : Nat, ((s.stream n.val).run = some p) ∧ (p.ctrlDue = some y) ∧ (bits y 56 8 = 7) ∧
      (p.delay = 0) ∧ (bits y 0 32 ≠ 0)) ∧
    (∃ n : Fin 22, ∃ s : State, ∃ p : Prog, ∃ y : Nat, ((s.stream n.val).run = some p) ∧ (p.ctrlDue = some y) ∧ (bits y 56 8 = 7) ∧
      (p.delay ≠ 0) ∧ (p.delay - 1 ≤ s.now)) :=
  ⟨⟨12, running (on) 12 (atPhase 12 .redDone (bun [(1, (1 * 2 ^ 56 + 0))]) []), atPhase 12 .redDone (bun [(1, (1 * 2 ^ 56 + 0))]) [], (1 * 2 ^ 56 + 0),
    by decide +kernel, by decide +kernel, by decide +kernel⟩,
   ⟨12, running (on) 12 (atPhase 12 .redDone (bun [(1, (2 * 2 ^ 56 + 0))]) []), atPhase 12 .redDone (bun [(1, (2 * 2 ^ 56 + 0))]) [], (2 * 2 ^ 56 + 0),
     by decide +kernel, by decide +kernel, by decide +kernel⟩,
   ⟨12, running (on) 12 (atPhase 12 .redDone (bun [(1, (3 * 2 ^ 56 + 2 ^ 55 + 5 * 2 ^ 43))]) []), atPhase 12 .redDone (bun [(1, (3 * 2 ^ 56 + 2 ^ 55 + 5 * 2 ^ 43))]) [], (3 * 2 ^ 56 + 2 ^ 55 + 5 * 2 ^ 43),
     by decide +kernel, by decide +kernel, by decide +kernel⟩,
   ⟨12, running (on) 12 (atPhase 12 .redDone (bun [(1, (4 * 2 ^ 56 + 7))]) []), atPhase 12 .redDone (bun [(1, (4 * 2 ^ 56 + 7))]) [], (4 * 2 ^ 56 + 7),
     by decide +kernel, by decide +kernel, by decide +kernel⟩,
   ⟨12, running (on.rset R.MEM_CR_HEAD 256 0) 12 (atPhase 12 .redDone (bun [(1, (5 * 2 ^ 56 + 256))]) [(0, [])]), atPhase 12 .redDone (bun [(1, (5 * 2 ^ 56 + 256))]) [(0, [])], (5 * 2 ^ 56 + 256),
     by decide +kernel, by decide +kernel, by decide +kernel, by decide +kernel, by decide +kernel, by decide +kernel⟩,
   ⟨12, running (on) 12 (atPhase 12 .redDone (bun [(1, (7 * 2 ^ 56 + 9))]) []), atPhase 12 .redDone (bun [(1, (7 * 2 ^ 56 + 9))]) [], (7 * 2 ^ 56 + 9),
     by decide +kernel, by decide +kernel, by decide +kernel, by decide +kernel, by decide +kernel⟩,
   ⟨12, running on 12 ({ atPhase 12 .redDone (bun [(1, (7 * 2 ^ 56 + 9))]) [] with delay := 1 }), { atPhase 12 .redDone (bun [(1, (7 * 2 ^ 56 + 9))]) [] with delay := 1 }, (7 * 2 ^ 56 + 9),
     by decide +kernel, by decide +kernel, by decide +kernel, by decide +kernel, by decide +kernel⟩⟩

/-- Concrete states and operands that meet the hypotheses of `Obligations.SideSlotsReadWriteAndPost`, clause by clause. -/
theorem test_SideSlotsReadWriteAndPost_has_witness_1 :
    ∃ n : Fin 22, ∃ s : State, ∃ u : State, ∃ w : State, ∃ p : Prog, ∃ y : Nat, ∃ m : PageMap, ((s.stream n.val).run = some p) ∧
      (p.redDue = some y) ∧ (let d := (p.desc (bits y 44 12)).forRank (p.ownRank n.val)
 (bits y 56 8 = 0x60) ∧ (s.mapped n.val p d (bits y 44 12) .read (d.offsets 0 d.count) = some (m, u)) ∧
   (u.readCheck n.val { p with phase := .redDone } d.notag (u.readAddrs d m (u.crTail d.crnum) 0 d.count) 6 (bits y 44 12) d.base =
          (true, w))) :=
  ⟨12, (running vm 12 (atPhase 12 .opsDone (bun [(6, (96 * 2 ^ 56 + 3 * 2 ^ 40))]) [(0, flat 0x2000 5 4 4)])), (((running vm 12 (atPhase 12 .opsDone (bun [(6, (96 * 2 ^ 56 + 3 * 2 ^ 40))]) [(0, flat 0x2000 5 4 4)])).mapped 12 (atPhase 12 .opsDone (bun [(6, (96 * 2 ^ 56 + 3 * 2 ^ 40))]) [(0, flat 0x2000 5 4 4)]) ((atPhase 12 .opsDone (bun [(6, (96 * 2 ^ 56 + 3 * 2 ^ 40))]) [(0, flat 0x2000 5 4 4)]).desc 0) 0 .read (((atPhase 12 .opsDone (bun [(6, (96 * 2 ^ 56 + 3 * 2 ^ 40))]) [(0, flat 0x2000 5 4 4)]).desc 0).offsets 0 ((atPhase 12 .opsDone (bun [(6, (96 * 2 ^ 56 + 3 * 2 ^ 40))]) [(0, flat 0x2000 5 4 4)]).desc 0).count)).getD ([], on)).2, ((((running vm 12 (atPhase 12 .opsDone (bun [(6, (96 * 2 ^ 56 + 3 * 2 ^ 40))]) [(0, flat 0x2000 5 4 4)])).mapped 12 (atPhase 12 .opsDone (bun [(6, (96 * 2 ^ 56 + 3 * 2 ^ 40))]) [(0, flat 0x2000 5 4 4)]) ((atPhase 12 .opsDone (bun [(6, (96 * 2 ^ 56 + 3 * 2 ^ 40))]) [(0, flat 0x2000 5 4 4)]).desc 0) 0 .read (((atPhase 12 .opsDone (bun [(6, (96 * 2 ^ 56 + 3 * 2 ^ 40))]) [(0, flat 0x2000 5 4 4)]).desc 0).offsets 0 ((atPhase 12 .opsDone (bun [(6, (96 * 2 ^ 56 + 3 * 2 ^ 40))]) [(0, flat 0x2000 5 4 4)]).desc 0).count)).getD ([], on)).2.readCheck 12 { atPhase 12 .opsDone (bun [(6, (96 * 2 ^ 56 + 3 * 2 ^ 40))]) [(0, flat 0x2000 5 4 4)] with phase := .redDone } false ((((running vm 12 (atPhase 12 .opsDone (bun [(6, (96 * 2 ^ 56 + 3 * 2 ^ 40))]) [(0, flat 0x2000 5 4 4)])).mapped 12 (atPhase 12 .opsDone (bun [(6, (96 * 2 ^ 56 + 3 * 2 ^ 40))]) [(0, flat 0x2000 5 4 4)]) ((atPhase 12 .opsDone (bun [(6, (96 * 2 ^ 56 + 3 * 2 ^ 40))]) [(0, flat 0x2000 5 4 4)]).desc 0) 0 .read (((atPhase 12 .opsDone (bun [(6, (96 * 2 ^ 56 + 3 * 2 ^ 40))]) [(0, flat 0x2000 5 4 4)]).desc 0).offsets 0 ((atPhase 12 .opsDone (bun [(6, (96 * 2 ^ 56 + 3 * 2 ^ 40))]) [(0, flat 0x2000 5 4 4)]).desc 0).count)).getD ([], on)).2.readAddrs ((atPhase 12 .opsDone (bun [(6, (96 * 2 ^ 56 + 3 * 2 ^ 40))]) [(0, flat 0x2000 5 4 4)]).desc 0) (((running vm 12 (atPhase 12 .opsDone (bun [(6, (96 * 2 ^ 56 + 3 * 2 ^ 40))]) [(0, flat 0x2000 5 4 4)])).mapped 12 (atPhase 12 .opsDone (bun [(6, (96 * 2 ^ 56 + 3 * 2 ^ 40))]) [(0, flat 0x2000 5 4 4)]) ((atPhase 12 .opsDone (bun [(6, (96 * 2 ^ 56 + 3 * 2 ^ 40))]) [(0, flat 0x2000 5 4 4)]).desc 0) 0 .read (((atPhase 12 .opsDone (bun [(6, (96 * 2 ^ 56 + 3 * 2 ^ 40))]) [(0, flat 0x2000 5 4 4)]).desc 0).offsets 0 ((atPhase 12 .opsDone (bun [(6, (96 * 2 ^ 56 + 3 * 2 ^ 40))]) [(0, flat 0x2000 5 4 4)]).desc 0).count)).getD ([], on)).1 0 0 ((atPhase 12 .opsDone (bun [(6, (96 * 2 ^ 56 + 3 * 2 ^ 40))]) [(0, flat 0x2000 5 4 4)]).desc 0).count) 6 0 0x2000).2, atPhase 12 .opsDone (bun [(6, (96 * 2 ^ 56 + 3 * 2 ^ 40))]) [(0, flat 0x2000 5 4 4)], (96 * 2 ^ 56 + 3 * 2 ^ 40), (((running vm 12 (atPhase 12 .opsDone (bun [(6, (96 * 2 ^ 56 + 3 * 2 ^ 40))]) [(0, flat 0x2000 5 4 4)])).mapped 12 (atPhase 12 .opsDone (bun [(6, (96 * 2 ^ 56 + 3 * 2 ^ 40))]) [(0, flat 0x2000 5 4 4)]) ((atPhase 12 .opsDone (bun [(6, (96 * 2 ^ 56 + 3 * 2 ^ 40))]) [(0, flat 0x2000 5 4 4)]).desc 0) 0 .read (((atPhase 12 .opsDone (bun [(6, (96 * 2 ^ 56 + 3 * 2 ^ 40))]) [(0, flat 0x2000 5 4 4)]).desc 0).offsets 0 ((atPhase 12 .opsDone (bun [(6, (96 * 2 ^ 56 + 3 * 2 ^ 40))]) [(0, flat 0x2000 5 4 4)]).desc 0).count)).getD ([], on)).1,
    by decide +kernel, by decide +kernel, by decide +kernel, by decide +kernel, by decide +kernel⟩

theorem test_SideSlotsReadWriteAndPost_has_witness_2 :
    ∃ n : Fin 22, ∃ s : State, ∃ u : State, ∃ w : State, ∃ p : Prog, ∃ y : Nat, ∃ m : PageMap, ((s.stream n.val).run = some p) ∧
      (p.redDue = some y) ∧ (let d := (p.desc (bits y 44 12)).forRank (p.ownRank n.val)
 (bits y 56 8 = 0x62) ∧ (s.mapped n.val p d (bits y 44 12) .read (d.offsets 0 1) = some (m, u)) ∧
   (u.readCheck n.val { p with phase := .redDone } d.notag (u.readAddrs d m (u.crTail d.crnum) 0 1) 6 (bits y 44 12) d.base =
          (true, w))) :=
  ⟨12, (running vm 12 (atPhase 12 .opsDone (bun [(6, (98 * 2 ^ 56 + 3 * 2 ^ 40))]) [(0, flat 0x2000 5 4 4)])), (((running vm 12 (atPhase 12 .opsDone (bun [(6, (98 * 2 ^ 56 + 3 * 2 ^ 40))]) [(0, flat 0x2000 5 4 4)])).mapped 12 (atPhase 12 .opsDone (bun [(6, (98 * 2 ^ 56 + 3 * 2 ^ 40))]) [(0, flat 0x2000 5 4 4)]) ((atPhase 12 .opsDone (bun [(6, (98 * 2 ^ 56 + 3 * 2 ^ 40))]) [(0, flat 0x2000 5 4 4)]).desc 0) 0 .read (((atPhase 12 .opsDone (bun [(6, (98 * 2 ^ 56 + 3 * 2 ^ 40))]) [(0, flat 0x2000 5 4 4)]).desc 0).offsets 0 1)).getD ([], on)).2, ((((running vm 12 (atPhase 12 .opsDone (bun [(6, (98 * 2 ^ 56 + 3 * 2 ^ 40))]) [(0, flat 0x2000 5 4 4)])).mapped 12 (atPhase 12 .opsDone (bun [(6, (98 * 2 ^ 56 + 3 * 2 ^ 40))]) [(0, flat 0x2000 5 4 4)]) ((atPhase 12 .opsDone (bun [(6, (98 * 2 ^ 56 + 3 * 2 ^ 40))]) [(0, flat 0x2000 5 4 4)]).desc 0) 0 .read (((atPhase 12 .opsDone (bun [(6, (98 * 2 ^ 56 + 3 * 2 ^ 40))]) [(0, flat 0x2000 5 4 4)]).desc 0).offsets 0 1)).getD ([], on)).2.readCheck 12 { atPhase 12 .opsDone (bun [(6, (98 * 2 ^ 56 + 3 * 2 ^ 40))]) [(0, flat 0x2000 5 4 4)] with phase := .redDone } false ((((running vm 12 (atPhase 12 .opsDone (bun [(6, (98 * 2 ^ 56 + 3 * 2 ^ 40))]) [(0, flat 0x2000 5 4 4)])).mapped 12 (atPhase 12 .opsDone (bun [(6, (98 * 2 ^ 56 + 3 * 2 ^ 40))]) [(0, flat 0x2000 5 4 4)]) ((atPhase 12 .opsDone (bun [(6, (98 * 2 ^ 56 + 3 * 2 ^ 40))]) [(0, flat 0x2000 5 4 4)]).desc 0) 0 .read (((atPhase 12 .opsDone (bun [(6, (98 * 2 ^ 56 + 3 * 2 ^ 40))]) [(0, flat 0x2000 5 4 4)]).desc 0).offsets 0 1)).getD ([], on)).2.readAddrs ((atPhase 12 .opsDone (bun [(6, (98 * 2 ^ 56 + 3 * 2 ^ 40))]) [(0, flat 0x2000 5 4 4)]).desc 0) (((running vm 12 (atPhase 12 .opsDone (bun [(6, (98 * 2 ^ 56 + 3 * 2 ^ 40))]) [(0, flat 0x2000 5 4 4)])).mapped 12 (atPhase 12 .opsDone (bun [(6, (98 * 2 ^ 56 + 3 * 2 ^ 40))]) [(0, flat 0x2000 5 4 4)]) ((atPhase 12 .opsDone (bun [(6, (98 * 2 ^ 56 + 3 * 2 ^ 40))]) [(0, flat 0x2000 5 4 4)]).desc 0) 0 .read (((atPhase 12 .opsDone (bun [(6, (98 * 2 ^ 56 + 3 * 2 ^ 40))]) [(0, flat 0x2000 5 4 4)]).desc 0).offsets 0 1)).getD ([], on)).1 0 0 1) 6 0 0x2000).2, atPhase 12 .opsDone (bun [(6, (98 * 2 ^ 56 + 3 * 2 ^ 40))]) [(0, flat 0x2000 5 4 4)], (98 * 2 ^ 56 + 3 * 2 ^ 40), (((running vm 12 (atPhase 12 .opsDone (bun [(6, (98 * 2 ^ 56 + 3 * 2 ^ 40))]) [(0, flat 0x2000 5 4 4)])).mapped 12 (atPhase 12 .opsDone (bun [(6, (98 * 2 ^ 56 + 3 * 2 ^ 40))]) [(0, flat 0x2000 5 4 4)]) ((atPhase 12 .opsDone (bun [(6, (98 * 2 ^ 56 + 3 * 2 ^ 40))]) [(0, flat 0x2000 5 4 4)]).desc 0) 0 .read (((atPhase 12 .opsDone (bun [(6, (98 * 2 ^ 56 + 3 * 2 ^ 40))]) [(0, flat 0x2000 5 4 4)]).desc 0).offsets 0 1)).getD ([], on)).1,
    by decide +kernel, by decide +kernel, by decide +kernel, by decide +kernel, by decide +kernel⟩

theorem test_SideSlotsReadWriteAndPost_has_witness_3 :
    ∃ n : Fin 22, ∃ s : State, ∃ u : State, ∃ w : State, ∃ p : Prog, ∃ y : Nat, ∃ m : PageMap, ((s.stream n.val).run = some p) ∧
      (p.redDue = some y) ∧ (let d := (p.desc (bits y 44 12)).forRank (p.ownRank n.val)
 (bits y 56 8 = 0x61) ∧ (s.mapped n.val p d (bits y 44 12) .write (d.offsets 0 1) = some (m, u))) :=
  ⟨12, (running vm 12 (atPhase 12 .opsDone (bun [(6, (97 * 2 ^ 56 + 3 * 2 ^ 40))]) [(0, flat 0x2000 5 4 4)])), (((running vm 12 (atPhase 12 .opsDone (bun [(6, (97 * 2 ^ 56 + 3 * 2 ^ 40))]) [(0, flat 0x2000 5 4 4)])).mapped 12 (atPhase 12 .opsDone (bun [(6, (97 * 2 ^ 56 + 3 * 2 ^ 40))]) [(0, flat 0x2000 5 4 4)]) ((atPhase 12 .opsDone (bun [(6, (97 * 2 ^ 56 + 3 * 2 ^ 40))]) [(0, flat 0x2000 5 4 4)]).desc 0) 0 .write (((atPhase 12 .opsDone (bun [(6, (97 * 2 ^ 56 + 3 * 2 ^ 40))]) [(0, flat 0x2000 5 4 4)]).desc 0).offsets 0 1)).getD ([], on)).2, on, atPhase 12 .opsDone (bun [(6, (97 * 2 ^ 56 + 3 * 2 ^ 40))]) [(0, flat 0x2000 5 4 4)], (97 * 2 ^ 56 + 3 * 2 ^ 40), (((running vm 12 (atPhase 12 .opsDone (bun [(6, (97 * 2 ^ 56 + 3 * 2 ^ 40))]) [(0, flat 0x2000 5 4 4)])).mapped 12 (atPhase 12 .opsDone (bun [(6, (97 * 2 ^ 56 + 3 * 2 ^ 40))]) [(0, flat 0x2000 5 4 4)]) ((atPhase 12 .opsDone (bun [(6, (97 * 2 ^ 56 + 3 * 2 ^ 40))]) [(0, flat 0x2000 5 4 4)]).desc 0) 0 .write (((atPhase 12 .opsDone (bun [(6, (97 * 2 ^ 56 + 3 * 2 ^ 40))]) [(0, flat 0x2000 5 4 4)]).desc 0).offsets 0 1)).getD ([], on)).1,
    by decide +kernel, by decide +kernel, by decide +kernel, by decide +kernel⟩

theorem test_SideSlotsReadWriteAndPost_has_witness_4 :
    ∃ n : Fin 22, ∃ s : State, ∃ u : State, ∃ w : State, ∃ p : Prog, ∃ y : Nat, ∃ m : PageMap, ∃ b : List Byte, ((s.stream n.val).run = some p) ∧
      (p.ctrlDue = some y) ∧ (bits y 56 8 = 8) ∧ (let d := p.desc (bits y 44 12)
 (let ring := bits y 32 4
  (s.mapped n.val p d (bits y 44 12) .read d.covered = some (m, u)) ∧
    (u.readCheck n.val p d.notag (d.covered.filterMap (fun k => u.tensorPhys d m .read (s.crTail d.crnum) k)) 1 (bits y 44 12) d.base =
         (true, w)) ∧ (w.postBytes d m (s.crTail d.crnum) = some b) ∧ (1 ≤ leAt b 2 2) ∧ (leAt b 2 2 ≤ 16) ∧ (64 * leAt b 2 2 ≤ b.length) ∧
           (leAt b 0 1 ≠ 0) ∧ (leAt b 0 1 ≠ 0xF0) ∧ (ringOwner ring = p.start.ctx) ∧ (w.ringEnabled ring = true) ∧
           (leAt b 2 2 ≤ w.ringSpace ring))) :=
  ⟨12, (running ((((vm.store 0x0100002000 ([0x40, 0] ++ leBytes 2 1)).rset R.HOST_RR_BASE 0x100800 0).setFlag F.HOST_RR_CFG_EN true 0).fset F.HOST_RR_CFG_SIZEM1 63 0) 12 (atPhase 12 .redDone (bun [(1, (8 * 2 ^ 56 + 0))]) [(0, flat 0x2000 2 64 1)])), (((running ((((vm.store 0x0100002000 ([0x40, 0] ++ leBytes 2 1)).rset R.HOST_RR_BASE 0x100800 0).setFlag F.HOST_RR_CFG_EN true 0).fset F.HOST_RR_CFG_SIZEM1 63 0) 12 (atPhase 12 .redDone (bun [(1, (8 * 2 ^ 56 + 0))]) [(0, flat 0x2000 2 64 1)])).mapped 12 (atPhase 12 .redDone (bun [(1, (8 * 2 ^ 56 + 0))]) [(0, flat 0x2000 2 64 1)]) ((atPhase 12 .redDone (bun [(1, (8 * 2 ^ 56 + 0))]) [(0, flat 0x2000 2 64 1)]).desc 0) 0 .read ((atPhase 12 .redDone (bun [(1, (8 * 2 ^ 56 + 0))]) [(0, flat 0x2000 2 64 1)]).desc 0).covered).getD ([], on)).2, ((((running ((((vm.store 0x0100002000 ([0x40, 0] ++ leBytes 2 1)).rset R.HOST_RR_BASE 0x100800 0).setFlag F.HOST_RR_CFG_EN true 0).fset F.HOST_RR_CFG_SIZEM1 63 0) 12 (atPhase 12 .redDone (bun [(1, (8 * 2 ^ 56 + 0))]) [(0, flat 0x2000 2 64 1)])).mapped 12 (atPhase 12 .redDone (bun [(1, (8 * 2 ^ 56 + 0))]) [(0, flat 0x2000 2 64 1)]) ((atPhase 12 .redDone (bun [(1, (8 * 2 ^ 56 + 0))]) [(0, flat 0x2000 2 64 1)]).desc 0) 0 .read ((atPhase 12 .redDone (bun [(1, (8 * 2 ^ 56 + 0))]) [(0, flat 0x2000 2 64 1)]).desc 0).covered).getD ([], on)).2.readCheck 12 (atPhase 12 .redDone (bun [(1, (8 * 2 ^ 56 + 0))]) [(0, flat 0x2000 2 64 1)]) false (((atPhase 12 .redDone (bun [(1, (8 * 2 ^ 56 + 0))]) [(0, flat 0x2000 2 64 1)]).desc 0).covered.filterMap (fun k => (((running ((((vm.store 0x0100002000 ([0x40, 0] ++ leBytes 2 1)).rset R.HOST_RR_BASE 0x100800 0).setFlag F.HOST_RR_CFG_EN true 0).fset F.HOST_RR_CFG_SIZEM1 63 0) 12 (atPhase 12 .redDone (bun [(1, (8 * 2 ^ 56 + 0))]) [(0, flat 0x2000 2 64 1)])).mapped 12 (atPhase 12 .redDone (bun [(1, (8 * 2 ^ 56 + 0))]) [(0, flat 0x2000 2 64 1)]) ((atPhase 12 .redDone (bun [(1, (8 * 2 ^ 56 + 0))]) [(0, flat 0x2000 2 64 1)]).desc 0) 0 .read ((atPhase 12 .redDone (bun [(1, (8 * 2 ^ 56 + 0))]) [(0, flat 0x2000 2 64 1)]).desc 0).covered).getD ([], on)).2.tensorPhys ((atPhase 12 .redDone (bun [(1, (8 * 2 ^ 56 + 0))]) [(0, flat 0x2000 2 64 1)]).desc 0) (((running ((((vm.store 0x0100002000 ([0x40, 0] ++ leBytes 2 1)).rset R.HOST_RR_BASE 0x100800 0).setFlag F.HOST_RR_CFG_EN true 0).fset F.HOST_RR_CFG_SIZEM1 63 0) 12 (atPhase 12 .redDone (bun [(1, (8 * 2 ^ 56 + 0))]) [(0, flat 0x2000 2 64 1)])).mapped 12 (atPhase 12 .redDone (bun [(1, (8 * 2 ^ 56 + 0))]) [(0, flat 0x2000 2 64 1)]) ((atPhase 12 .redDone (bun [(1, (8 * 2 ^ 56 + 0))]) [(0, flat 0x2000 2 64 1)]).desc 0) 0 .read ((atPhase 12 .redDone (bun [(1, (8 * 2 ^ 56 + 0))]) [(0, flat 0x2000 2 64 1)]).desc 0).covered).getD ([], on)).1 .read 0 k)) 1 0 0x2000).2, atPhase 12 .redDone (bun [(1, (8 * 2 ^ 56 + 0))]) [(0, flat 0x2000 2 64 1)], (8 * 2 ^ 56 + 0), (((running ((((vm.store 0x0100002000 ([0x40, 0] ++ leBytes 2 1)).rset R.HOST_RR_BASE 0x100800 0).setFlag F.HOST_RR_CFG_EN true 0).fset F.HOST_RR_CFG_SIZEM1 63 0) 12 (atPhase 12 .redDone (bun [(1, (8 * 2 ^ 56 + 0))]) [(0, flat 0x2000 2 64 1)])).mapped 12 (atPhase 12 .redDone (bun [(1, (8 * 2 ^ 56 + 0))]) [(0, flat 0x2000 2 64 1)]) ((atPhase 12 .redDone (bun [(1, (8 * 2 ^ 56 + 0))]) [(0, flat 0x2000 2 64 1)]).desc 0) 0 .read ((atPhase 12 .redDone (bun [(1, (8 * 2 ^ 56 + 0))]) [(0, flat 0x2000 2 64 1)]).desc 0).covered).getD ([], on)).1, ([0x40, 0, 1, 0] ++ List.replicate 60 0),
    by decide +kernel, by decide +kernel, by decide +kernel, by decide +kernel, by decide +kernel, by decide +kernel, by decide +kernel,
    by decide +kernel, by decide +kernel, by decide +kernel, by decide +kernel, by decide +kernel, by decide +kernel, by decide +kernel⟩

theorem test_SideSlotsReadWriteAndPost_has_witness_5 :
    ∃ n : Fin 22, ∃ s : State, ∃ p : Prog, ∃ y : Nat, ((s.stream n.val).run = some p) ∧ (p.ctrlDue = some y) ∧ (bits y 56 8 = 6) ∧
      (p.start.bcast = false) :=
  ⟨4, running on 4 (atPhase 4 .redDone (bun [(1, (6 * 2 ^ 56 + 3 * 2 ^ 54))]) []), atPhase 4 .redDone (bun [(1, (6 * 2 ^ 56 + 3 * 2 ^ 54))]) [], (6 * 2 ^ 56 + 3 * 2 ^ 54),
    by decide +kernel, by decide +kernel, by decide +kernel, by decide +kernel⟩

/-- Concrete states and operands that meet the hypotheses of `Obligations.TransfersMoveBytesStepByStep`, clause by clause. -/
theorem test_TransfersMoveBytesStepByStep_has_witness_1 :
    ∃ n : Fin 22, ∃ s : State, ∃ p : Prog, ∃ o : OpRun, ((s.stream n.val).run = some p) ∧ (p.phase = .issued) ∧
      (p.ops.find? (fun o => !o.finished && (!o.started && o.opc == 0x30)) = some o) ∧ (s.dmRemote n.val p o = false) :=
  ⟨14, running (vm) 14 (issuedWith 14 (bun [(2, 48 * 2 ^ 56 + 1 * 2 ^ 32)]) [{ OpRun.ofSlot 2 (48 * 2 ^ 56 + 1 * 2 ^ 32) none with started := false }] [(0, flat 0x2000 2 256 1), (1, flat 0x3000 2 256 1)]), issuedWith 14 (bun [(2, 48 * 2 ^ 56 + 1 * 2 ^ 32)]) [{ OpRun.ofSlot 2 (48 * 2 ^ 56 + 1 * 2 ^ 32) none with started := false }] [(0, flat 0x2000 2 256 1), (1, flat 0x3000 2 256 1)], { OpRun.ofSlot 2 (48 * 2 ^ 56 + 1 * 2 ^ 32) none with started := false },
    by decide +kernel, by decide +kernel, by decide +kernel, by decide +kernel⟩

theorem test_TransfersMoveBytesStepByStep_has_witness_2 :
    ∃ n : Fin 22, ∃ s : State, ∃ p : Prog, ∃ o : OpRun, ((s.stream n.val).run = some p) ∧ (p.phase = .issued) ∧
      (p.ops.find? (fun o => !o.finished && (!o.started && o.opc == 0x30)) = some o) ∧ (s.dmRemote n.val p o = true) ∧
      ((p.desc (p.handle o 1)).contiguous = true) :=
  ⟨14, running (((vm.rset R.MMU_CTX_CFG 0x80000001 0).store 0x0100000008 (leBytes 8 (0x4000000000 + 5 * 0x8000000 + 0x1F)))) 14 (issuedWith 14 (bun [(2, 48 * 2 ^ 56 + 1 * 2 ^ 32)]) [{ OpRun.ofSlot 2 (48 * 2 ^ 56 + 1 * 2 ^ 32) none with started := false }] [(0, flat 0x2000 2 256 1), (1, flat 0x200000 2 256 1)]), issuedWith 14 (bun [(2, 48 * 2 ^ 56 + 1 * 2 ^ 32)]) [{ OpRun.ofSlot 2 (48 * 2 ^ 56 + 1 * 2 ^ 32) none with started := false }] [(0, flat 0x2000 2 256 1), (1, flat 0x200000 2 256 1)], { OpRun.ofSlot 2 (48 * 2 ^ 56 + 1 * 2 ^ 32) none with started := false },
    by decide +kernel, by decide +kernel, by decide +kernel, by decide +kernel, by decide +kernel⟩

theorem test_TransfersMoveBytesStepByStep_has_witness_3 :
    ∃ n : Fin 22, ∃ s : State, ∃ p : Prog, ∃ o : OpRun, ((s.stream n.val).run = some p) ∧ (p.phase = .issued) ∧
      (p.ops.find? (fun o => !o.finished && (!o.started && o.opc == 0x31)) = some o) :=
  ⟨14, running (vm) 14 (issuedWith 14 (bun [(2, 49 * 2 ^ 56 + 1 * 2 ^ 32)]) [{ OpRun.ofSlot 2 (49 * 2 ^ 56 + 1 * 2 ^ 32) none with started := false }] [(0, flat 0x2000 2 256 1), (1, flat 0x3000 2 256 1)]), issuedWith 14 (bun [(2, 49 * 2 ^ 56 + 1 * 2 ^ 32)]) [{ OpRun.ofSlot 2 (49 * 2 ^ 56 + 1 * 2 ^ 32) none with started := false }] [(0, flat 0x2000 2 256 1), (1, flat 0x3000 2 256 1)], { OpRun.ofSlot 2 (49 * 2 ^ 56 + 1 * 2 ^ 32) none with started := false },
    by decide +kernel, by decide +kernel, by decide +kernel⟩

theorem test_TransfersMoveBytesStepByStep_has_witness_4 :
    ∃ n : Fin 22, ∃ s : State, ∃ u : State, ∃ p : Prog, ∃ o : OpRun, ∃ m : PageMap, ((s.stream n.val).run = some p) ∧ (p.phase = .issued) ∧
      (p.ops.find? (fun o => !o.finished && (o.started && (o.opc == 0x30 || o.opc == 0x31))) = some o) ∧ (o.opc = 0x31) ∧
      (let d := p.desc (p.handle o 1)
 (let r := d.elemsIn (4096 * o.step) (min d.streamBytes (4096 * o.step + 4096))
  (d.crbind = false) ∧ (d.layout ≠ 3) ∧ (s.touch n.val p.start.ctx (d.touches (p.handle o 1) .write (d.offsets r.1 r.2)) [] = (.ok m, u)))) :=
  ⟨14, (running (vm) 14 (issuedWith 14 (bun [(2, 49 * 2 ^ 56 + 1 * 2 ^ 32)]) [{ OpRun.ofSlot 2 (49 * 2 ^ 56 + 1 * 2 ^ 32) none with started := true }] [(0, flat 0x2000 2 256 1), (1, flat 0x3000 2 256 1)])), (running (vm) 14 (issuedWith 14 (bun [(2, 49 * 2 ^ 56 + 1 * 2 ^ 32)]) [{ OpRun.ofSlot 2 (49 * 2 ^ 56 + 1 * 2 ^ 32) none with started := true }] [(0, flat 0x2000 2 256 1), (1, flat 0x3000 2 256 1)])).touch 14 0 (((issuedWith 14 (bun [(2, 49 * 2 ^ 56 + 1 * 2 ^ 32)]) [{ OpRun.ofSlot 2 (49 * 2 ^ 56 + 1 * 2 ^ 32) none with started := true }] [(0, flat 0x2000 2 256 1), (1, flat 0x3000 2 256 1)]).desc 1).touches 1 .write (((issuedWith 14 (bun [(2, 49 * 2 ^ 56 + 1 * 2 ^ 32)]) [{ OpRun.ofSlot 2 (49 * 2 ^ 56 + 1 * 2 ^ 32) none with started := true }] [(0, flat 0x2000 2 256 1), (1, flat 0x3000 2 256 1)]).desc 1).offsets 0 256)) [] |>.2, issuedWith 14 (bun [(2, 49 * 2 ^ 56 + 1 * 2 ^ 32)]) [{ OpRun.ofSlot 2 (49 * 2 ^ 56 + 1 * 2 ^ 32) none with started := true }] [(0, flat 0x2000 2 256 1), (1, flat 0x3000 2 256 1)], { OpRun.ofSlot 2 (49 * 2 ^ 56 + 1 * 2 ^ 32) none with started := true }, [(3, .write, .page 0x100003)],
    by decide +kernel, by decide +kernel, by decide +kernel, by decide +kernel, by decide +kernel, by decide +kernel, by decide +kernel⟩

theorem test_TransfersMoveBytesStepByStep_has_witness_5 :
    ∃ n : Fin 22, ∃ s : State, ∃ p : Prog, ∃ o : OpRun, ((s.stream n.val).run = some p) ∧ (p.phase = .issued) ∧
      (p.ops.find? (fun o => !o.finished && (o.started && o.opc == 0x30)) = some o) ∧ (s.dmRemote n.val p o = true) ∧ (o.nsteps ≤ o.step) ∧
      (s.chn.flights.any (fun f => f.owner == n.val * 8 + p.start.cls) = false) :=
  ⟨14, running (((vm.rset R.MMU_CTX_CFG 0x80000001 0).store 0x0100000008 (leBytes 8 (0x4000000000 + 5 * 0x8000000 + 0x1F)))) 14 (issuedWith 14 (bun [(2, 48 * 2 ^ 56 + 1 * 2 ^ 32)]) [{ OpRun.ofSlot 2 (48 * 2 ^ 56 + 1 * 2 ^ 32) none with started := true, step := 1 }] [(0, flat 0x2000 2 256 1), (1, flat 0x200000 2 256 1)]), issuedWith 14 (bun [(2, 48 * 2 ^ 56 + 1 * 2 ^ 32)]) [{ OpRun.ofSlot 2 (48 * 2 ^ 56 + 1 * 2 ^ 32) none with started := true, step := 1 }] [(0, flat 0x2000 2 256 1), (1, flat 0x200000 2 256 1)], { OpRun.ofSlot 2 (48 * 2 ^ 56 + 1 * 2 ^ 32) none with started := true, step := 1 },
    by decide +kernel, by decide +kernel, by decide +kernel, by decide +kernel, by decide +kernel, by decide +kernel⟩

theorem test_TransfersMoveBytesStepByStep_has_witness_6 :
    ∃ n : Fin 22, ∃ s : State, ∃ w : State, ∃ u : State, ∃ p : Prog, ∃ o : OpRun, ∃ m : PageMap, ∃ data : List Byte,
      ∃ origins : List (Option Nat), ∃ a : Nat, ∃ port : Nat, ((s.stream n.val).run = some p) ∧ (p.phase = .issued) ∧
      (p.ops.find? (fun o => !o.finished && (o.started && o.opc == 0x30)) = some o) ∧ (s.dmRemote n.val p o = true) ∧ (o.step < o.nsteps) ∧
      (let d := p.desc (p.handle o 1)
 (let r := segRange d.base d.streamBytes o.step
  (let v := u.violatePages n.val p.start.ctx m
   (s.dmSource n.val p o (p.desc (p.handle o 0)) d r.1 r.2 d.streamBytes = (w, some (data, origins))) ∧
     (w.touch n.val p.start.ctx [⟨(d.base + r.1) / 4096, .write, d.base + r.1, p.handle o 1⟩] [] = (.ok m, u)) ∧
     (m.phys .write (d.base + r.1) = some a) ∧ (v.flag F.CHN_STAT_ADDRVALID = true) ∧ (v.route ((a - 0x4000000000) / 0x8000000) = some port)))) :=
  ⟨14, running (((((((vm.rset R.MMU_CTX_CFG 0x80000001 0).store 0x0100000008 (leBytes 8 (0x4000000000 + 5 * 0x8000000 + 0x1F)))).setFlag F.CHN_STAT_ADDRVALID true).fset F.CHN_STAT_ADDR 1).fset F.CHN_RT_PRIMARY 1 5).fset F.CHN_P_STAT_STATE 2 1) 14 (issuedWith 14 (bun [(2, 48 * 2 ^ 56 + 1 * 2 ^ 32)]) [{ OpRun.ofSlot 2 (48 * 2 ^ 56 + 1 * 2 ^ 32) none with started := true }] [(0, flat 0x2000 2 256 1), (1, flat 0x200000 2 256 1)]), ((running (((((((vm.rset R.MMU_CTX_CFG 0x80000001 0).store 0x0100000008 (leBytes 8 (0x4000000000 + 5 * 0x8000000 + 0x1F)))).setFlag F.CHN_STAT_ADDRVALID true).fset F.CHN_STAT_ADDR 1).fset F.CHN_RT_PRIMARY 1 5).fset F.CHN_P_STAT_STATE 2 1) 14 (issuedWith 14 (bun [(2, 48 * 2 ^ 56 + 1 * 2 ^ 32)]) [{ OpRun.ofSlot 2 (48 * 2 ^ 56 + 1 * 2 ^ 32) none with started := true }] [(0, flat 0x2000 2 256 1), (1, flat 0x200000 2 256 1)])).dmSource 14 (issuedWith 14 (bun [(2, 48 * 2 ^ 56 + 1 * 2 ^ 32)]) [{ OpRun.ofSlot 2 (48 * 2 ^ 56 + 1 * 2 ^ 32) none with started := true }] [(0, flat 0x2000 2 256 1), (1, flat 0x200000 2 256 1)]) ({ OpRun.ofSlot 2 (48 * 2 ^ 56 + 1 * 2 ^ 32) none with started := true }) ((issuedWith 14 (bun [(2, 48 * 2 ^ 56 + 1 * 2 ^ 32)]) [{ OpRun.ofSlot 2 (48 * 2 ^ 56 + 1 * 2 ^ 32) none with started := true }] [(0, flat 0x2000 2 256 1), (1, flat 0x200000 2 256 1)]).desc 0) ((issuedWith 14 (bun [(2, 48 * 2 ^ 56 + 1 * 2 ^ 32)]) [{ OpRun.ofSlot 2 (48 * 2 ^ 56 + 1 * 2 ^ 32) none with started := true }] [(0, flat 0x2000 2 256 1), (1, flat 0x200000 2 256 1)]).desc 1) 0 256 256).1, (((running (((((((vm.rset R.MMU_CTX_CFG 0x80000001 0).store 0x0100000008 (leBytes 8 (0x4000000000 + 5 * 0x8000000 + 0x1F)))).setFlag F.CHN_STAT_ADDRVALID true).fset F.CHN_STAT_ADDR 1).fset F.CHN_RT_PRIMARY 1 5).fset F.CHN_P_STAT_STATE 2 1) 14 (issuedWith 14 (bun [(2, 48 * 2 ^ 56 + 1 * 2 ^ 32)]) [{ OpRun.ofSlot 2 (48 * 2 ^ 56 + 1 * 2 ^ 32) none with started := true }] [(0, flat 0x2000 2 256 1), (1, flat 0x200000 2 256 1)])).dmSource 14 (issuedWith 14 (bun [(2, 48 * 2 ^ 56 + 1 * 2 ^ 32)]) [{ OpRun.ofSlot 2 (48 * 2 ^ 56 + 1 * 2 ^ 32) none with started := true }] [(0, flat 0x2000 2 256 1), (1, flat 0x200000 2 256 1)]) ({ OpRun.ofSlot 2 (48 * 2 ^ 56 + 1 * 2 ^ 32) none with started := true }) ((issuedWith 14 (bun [(2, 48 * 2 ^ 56 + 1 * 2 ^ 32)]) [{ OpRun.ofSlot 2 (48 * 2 ^ 56 + 1 * 2 ^ 32) none with started := true }] [(0, flat 0x2000 2 256 1), (1, flat 0x200000 2 256 1)]).desc 0) ((issuedWith 14 (bun [(2, 48 * 2 ^ 56 + 1 * 2 ^ 32)]) [{ OpRun.ofSlot 2 (48 * 2 ^ 56 + 1 * 2 ^ 32) none with started := true }] [(0, flat 0x2000 2 256 1), (1, flat 0x200000 2 256 1)]).desc 1) 0 256 256).1.touch 14 0 [⟨512, .write, 0x200000, 1⟩] []).2, issuedWith 14 (bun [(2, 48 * 2 ^ 56 + 1 * 2 ^ 32)]) [{ OpRun.ofSlot 2 (48 * 2 ^ 56 + 1 * 2 ^ 32) none with started := true }] [(0, flat 0x2000 2 256 1), (1, flat 0x200000 2 256 1)], { OpRun.ofSlot 2 (48 * 2 ^ 56 + 1 * 2 ^ 32) none with started := true }, [(512, .write, .page (0x4000000 + 5 * 0x8000))], (((running (((((((vm.rset R.MMU_CTX_CFG 0x80000001 0).store 0x0100000008 (leBytes 8 (0x4000000000 + 5 * 0x8000000 + 0x1F)))).setFlag F.CHN_STAT_ADDRVALID true).fset F.CHN_STAT_ADDR 1).fset F.CHN_RT_PRIMARY 1 5).fset F.CHN_P_STAT_STATE 2 1) 14 (issuedWith 14 (bun [(2, 48 * 2 ^ 56 + 1 * 2 ^ 32)]) [{ OpRun.ofSlot 2 (48 * 2 ^ 56 + 1 * 2 ^ 32) none with started := true }] [(0, flat 0x2000 2 256 1), (1, flat 0x200000 2 256 1)])).dmSource 14 (issuedWith 14 (bun [(2, 48 * 2 ^ 56 + 1 * 2 ^ 32)]) [{ OpRun.ofSlot 2 (48 * 2 ^ 56 + 1 * 2 ^ 32) none with started := true }] [(0, flat 0x2000 2 256 1), (1, flat 0x200000 2 256 1)]) ({ OpRun.ofSlot 2 (48 * 2 ^ 56 + 1 * 2 ^ 32) none with started := true }) ((issuedWith 14 (bun [(2, 48 * 2 ^ 56 + 1 * 2 ^ 32)]) [{ OpRun.ofSlot 2 (48 * 2 ^ 56 + 1 * 2 ^ 32) none with started := true }] [(0, flat 0x2000 2 256 1), (1, flat 0x200000 2 256 1)]).desc 0) ((issuedWith 14 (bun [(2, 48 * 2 ^ 56 + 1 * 2 ^ 32)]) [{ OpRun.ofSlot 2 (48 * 2 ^ 56 + 1 * 2 ^ 32) none with started := true }] [(0, flat 0x2000 2 256 1), (1, flat 0x200000 2 256 1)]).desc 1) 0 256 256).2.getD ([], [])).1, (((running (((((((vm.rset R.MMU_CTX_CFG 0x80000001 0).store 0x0100000008 (leBytes 8 (0x4000000000 + 5 * 0x8000000 + 0x1F)))).setFlag F.CHN_STAT_ADDRVALID true).fset F.CHN_STAT_ADDR 1).fset F.CHN_RT_PRIMARY 1 5).fset F.CHN_P_STAT_STATE 2 1) 14 (issuedWith 14 (bun [(2, 48 * 2 ^ 56 + 1 * 2 ^ 32)]) [{ OpRun.ofSlot 2 (48 * 2 ^ 56 + 1 * 2 ^ 32) none with started := true }] [(0, flat 0x2000 2 256 1), (1, flat 0x200000 2 256 1)])).dmSource 14 (issuedWith 14 (bun [(2, 48 * 2 ^ 56 + 1 * 2 ^ 32)]) [{ OpRun.ofSlot 2 (48 * 2 ^ 56 + 1 * 2 ^ 32) none with started := true }] [(0, flat 0x2000 2 256 1), (1, flat 0x200000 2 256 1)]) ({ OpRun.ofSlot 2 (48 * 2 ^ 56 + 1 * 2 ^ 32) none with started := true }) ((issuedWith 14 (bun [(2, 48 * 2 ^ 56 + 1 * 2 ^ 32)]) [{ OpRun.ofSlot 2 (48 * 2 ^ 56 + 1 * 2 ^ 32) none with started := true }] [(0, flat 0x2000 2 256 1), (1, flat 0x200000 2 256 1)]).desc 0) ((issuedWith 14 (bun [(2, 48 * 2 ^ 56 + 1 * 2 ^ 32)]) [{ OpRun.ofSlot 2 (48 * 2 ^ 56 + 1 * 2 ^ 32) none with started := true }] [(0, flat 0x2000 2 256 1), (1, flat 0x200000 2 256 1)]).desc 1) 0 256 256).2.getD ([], [])).2, 0x4028000000, 1,
    by decide +kernel, by decide +kernel, by decide +kernel, by decide +kernel, by decide +kernel, by decide +kernel, by decide +kernel,
    by decide +kernel, by decide +kernel, by decide +kernel⟩

/-- Concrete states and operands that meet the hypotheses of `Obligations.HaltsCompletionsAndBells`, clause by clause. -/
theorem test_HaltsCompletionsAndBells_has_witnesses :
    (∃ r : Req, ∃ n : Fin 22, ∃ v : Word, ∃ s : State, (s.ctxEnabled (s.ctxOf r) = true) ∧ (s.streamEnabled n.val = true) ∧
      (s.ctxOf r = 0 ∨ s.ctxOf r = getField v 8 3)) ∧
    (∃ r : Req, ∃ n : Fin 22, ∃ v : Word, ∃ s : State, (s.ctxEnabled (s.ctxOf r) = true) ∧ (s.streamEnabled n.val = true) ∧ (s.ctxOf r = 0)) ∧
    (∃ n : Fin 22, ∃ s : State, ∃ c : Completion, ∃ rest : List Completion, ((s.stream n.val).compl = c :: rest) ∧ (c.ring < 16) ∧
      (ringOwner c.ring = c.ctx) ∧ (s.ringEnabled c.ring = true) ∧ (ceilDiv c.bytes.length 64 ≤ s.ringSpace c.ring)) ∧
    (∃ n : Fin 22, ∃ s : State, ∃ c : Completion, ∃ rest : List Completion, ((s.stream n.val).compl = c :: rest) ∧ (ringOwner c.ring = c.ctx) ∧
      (s.ringEnabled c.ring = true) ∧ (s.ringSpace c.ring < ceilDiv c.bytes.length 64)) ∧
    (∃ n : Fin 22, ∃ s : State, ∃ c : Completion, ∃ rest : List Completion, ((s.stream n.val).compl = c :: rest) ∧ (ringOwner c.ring ≠ c.ctx)) ∧
    (∃ r : Req, ∃ b : Fin 512, ∃ v : Word, ∃ s : State, (s.reqOn r = true) ∧ (s.ctxEnabled (s.ctxOf r) = true) ∧
      (s.ctxOf r = 0 ∨ s.bellOf (s.ctxOf r) b.val = true)) ∧
    (∃ r : Req, ∃ b : Fin 512, ∃ v : Word, ∃ s : State, (s.reqOn r = true) ∧ (s.ctxEnabled (s.ctxOf r) = true) ∧ (s.ctxOf r ≠ 0) ∧
      (s.bellOf (s.ctxOf r) b.val = false)) ∧
    (∃ r : Req, ∃ b : Fin 512, ∃ v : Word, ∃ incs : List Half, ∃ s : State, (s.reqOn r = true) ∧ (s.ctxEnabled (s.ctxOf r) = true) ∧
      (s.ctxOf r = 0 ∨ s.bellOf (s.ctxOf r) b.val = true)) :=
  ⟨⟨.core 0, 0, 0, on, by decide +kernel, by decide +kernel, by decide +kernel⟩,
   ⟨.core 0, 0, 0, on, by decide +kernel, by decide +kernel, by decide +kernel⟩,
   ⟨4, (((on.rset R.HOST_RR_BASE 0x100800 0).setFlag F.HOST_RR_CFG_EN true 0).fset F.HOST_RR_CFG_SIZEM1 63 0).setStream 4 { Stream.idle with compl := [⟨0, 0, List.replicate 64 1⟩] }, ⟨0, 0, List.replicate 64 1⟩, [],
     by decide +kernel, by decide +kernel, by decide +kernel, by decide +kernel, by decide +kernel⟩,
   ⟨4, { (((((on.fset F.HOST_RR_CFG_SIZEM1 0 0).rset R.HOST_RR_BASE 0x100800 0).setFlag F.HOST_RR_CFG_EN true 0).setFlag F.HOST_RR_CFG_FWREAD true 0).setStream 4 { Stream.idle with compl := [⟨0, 0, List.replicate 64 1⟩] } : State) with rings := [(0, { Ring.idle with fwDist := 1 })] }, ⟨0, 0, List.replicate 64 1⟩, [],
     by decide +kernel, by decide +kernel, by decide +kernel, by decide +kernel⟩,
   ⟨4, on.setStream 4 { Stream.idle with compl := [⟨0, 2, List.replicate 64 1⟩] }, ⟨0, 2, List.replicate 64 1⟩, [], by decide +kernel,
     by decide +kernel⟩,
   ⟨.core 0, 0, 0, on, by decide +kernel, by decide +kernel, by decide +kernel⟩,
   ⟨.agent 0, 511, 1, on, by decide +kernel, by decide +kernel, by decide +kernel, by decide +kernel⟩,
   ⟨.core 0, 511, 1, [], on, by decide +kernel, by decide +kernel, by decide +kernel⟩⟩

/-- Concrete states and operands that meet the hypotheses of `Obligations.MvmsExposeCheckAndCommit`, clause by clause. -/
theorem test_MvmsExposeCheckAndCommit_has_witness_1 :
    ∃ n : Fin 22, ∃ s : State, ∃ u : State, ∃ w : State, ∃ p : Prog, ∃ o : OpRun, ∃ m : PageMap, ((s.stream n.val).run = some p) ∧
      (p.phase = .issued) ∧ (p.ops.find? (fun o => !o.finished && (!o.started && o.opc == 0x10)) = some o) ∧ (o.tiles.length ≤ 1024) ∧
      (let x := p.desc (p.handle o 0)
 (s.mapped n.val p x (p.handle o 0) .read (x.offsets 0 x.count) = some (m, u)) ∧
   (u.readCheck n.val p x.notag (u.readAddrs x m (u.crTail x.crnum) 0 x.count) o.slot (p.handle o 0) x.base = (true, w))) :=
  ⟨0, running (vm) 0 (issuedWith 0 (bun [(2, 0x10 * 2 ^ 56 + 1 * 2 ^ 32 + 1)]) [{ OpRun.ofSlot 2 (0x10 * 2 ^ 56 + 1 * 2 ^ 32 + 1) none with started := false, note := [0x80000000, 0, 0, 0, 0, 0, 0, 0, 0, 0, 0] }] [(0, flat 0x2000 1 1 1), (1, flat 0x3000 5 1 4)]), (((running (vm) 0 (issuedWith 0 (bun [(2, 0x10 * 2 ^ 56 + 1 * 2 ^ 32 + 1)]) [{ OpRun.ofSlot 2 (0x10 * 2 ^ 56 + 1 * 2 ^ 32 + 1) none with started := false, note := [0x80000000, 0, 0, 0, 0, 0, 0, 0, 0, 0, 0] }] [(0, flat 0x2000 1 1 1), (1, flat 0x3000 5 1 4)])).mapped 0 (issuedWith 0 (bun [(2, 0x10 * 2 ^ 56 + 1 * 2 ^ 32 + 1)]) [{ OpRun.ofSlot 2 (0x10 * 2 ^ 56 + 1 * 2 ^ 32 + 1) none with started := false, note := [0x80000000, 0, 0, 0, 0, 0, 0, 0, 0, 0, 0] }] [(0, flat 0x2000 1 1 1), (1, flat 0x3000 5 1 4)]) ((issuedWith 0 (bun [(2, 0x10 * 2 ^ 56 + 1 * 2 ^ 32 + 1)]) [{ OpRun.ofSlot 2 (0x10 * 2 ^ 56 + 1 * 2 ^ 32 + 1) none with started := false, note := [0x80000000, 0, 0, 0, 0, 0, 0, 0, 0, 0, 0] }] [(0, flat 0x2000 1 1 1), (1, flat 0x3000 5 1 4)]).desc 0) 0 .read (((issuedWith 0 (bun [(2, 0x10 * 2 ^ 56 + 1 * 2 ^ 32 + 1)]) [{ OpRun.ofSlot 2 (0x10 * 2 ^ 56 + 1 * 2 ^ 32 + 1) none with started := false, note := [0x80000000, 0, 0, 0, 0, 0, 0, 0, 0, 0, 0] }] [(0, flat 0x2000 1 1 1), (1, flat 0x3000 5 1 4)]).desc 0).offsets 0 ((issuedWith 0 (bun [(2, 0x10 * 2 ^ 56 + 1 * 2 ^ 32 + 1)]) [{ OpRun.ofSlot 2 (0x10 * 2 ^ 56 + 1 * 2 ^ 32 + 1) none with started := false, note := [0x80000000, 0, 0, 0, 0, 0, 0, 0, 0, 0, 0] }] [(0, flat 0x2000 1 1 1), (1, flat 0x3000 5 1 4)]).desc 0).count)).getD ([], on)).2, ((((running (vm) 0 (issuedWith 0 (bun [(2, 0x10 * 2 ^ 56 + 1 * 2 ^ 32 + 1)]) [{ OpRun.ofSlot 2 (0x10 * 2 ^ 56 + 1 * 2 ^ 32 + 1) none with started := false, note := [0x80000000, 0, 0, 0, 0, 0, 0, 0, 0, 0, 0] }] [(0, flat 0x2000 1 1 1), (1, flat 0x3000 5 1 4)])).mapped 0 (issuedWith 0 (bun [(2, 0x10 * 2 ^ 56 + 1 * 2 ^ 32 + 1)]) [{ OpRun.ofSlot 2 (0x10 * 2 ^ 56 + 1 * 2 ^ 32 + 1) none with started := false, note := [0x80000000, 0, 0, 0, 0, 0, 0, 0, 0, 0, 0] }] [(0, flat 0x2000 1 1 1), (1, flat 0x3000 5 1 4)]) ((issuedWith 0 (bun [(2, 0x10 * 2 ^ 56 + 1 * 2 ^ 32 + 1)]) [{ OpRun.ofSlot 2 (0x10 * 2 ^ 56 + 1 * 2 ^ 32 + 1) none with started := false, note := [0x80000000, 0, 0, 0, 0, 0, 0, 0, 0, 0, 0] }] [(0, flat 0x2000 1 1 1), (1, flat 0x3000 5 1 4)]).desc 0) 0 .read (((issuedWith 0 (bun [(2, 0x10 * 2 ^ 56 + 1 * 2 ^ 32 + 1)]) [{ OpRun.ofSlot 2 (0x10 * 2 ^ 56 + 1 * 2 ^ 32 + 1) none with started := false, note := [0x80000000, 0, 0, 0, 0, 0, 0, 0, 0, 0, 0] }] [(0, flat 0x2000 1 1 1), (1, flat 0x3000 5 1 4)]).desc 0).offsets 0 ((issuedWith 0 (bun [(2, 0x10 * 2 ^ 56 + 1 * 2 ^ 32 + 1)]) [{ OpRun.ofSlot 2 (0x10 * 2 ^ 56 + 1 * 2 ^ 32 + 1) none with started := false, note := [0x80000000, 0, 0, 0, 0, 0, 0, 0, 0, 0, 0] }] [(0, flat 0x2000 1 1 1), (1, flat 0x3000 5 1 4)]).desc 0).count)).getD ([], on)).2.readCheck 0 (issuedWith 0 (bun [(2, 0x10 * 2 ^ 56 + 1 * 2 ^ 32 + 1)]) [{ OpRun.ofSlot 2 (0x10 * 2 ^ 56 + 1 * 2 ^ 32 + 1) none with started := false, note := [0x80000000, 0, 0, 0, 0, 0, 0, 0, 0, 0, 0] }] [(0, flat 0x2000 1 1 1), (1, flat 0x3000 5 1 4)]) false ((((running (vm) 0 (issuedWith 0 (bun [(2, 0x10 * 2 ^ 56 + 1 * 2 ^ 32 + 1)]) [{ OpRun.ofSlot 2 (0x10 * 2 ^ 56 + 1 * 2 ^ 32 + 1) none with started := false, note := [0x80000000, 0, 0, 0, 0, 0, 0, 0, 0, 0, 0] }] [(0, flat 0x2000 1 1 1), (1, flat 0x3000 5 1 4)])).mapped 0 (issuedWith 0 (bun [(2, 0x10 * 2 ^ 56 + 1 * 2 ^ 32 + 1)]) [{ OpRun.ofSlot 2 (0x10 * 2 ^ 56 + 1 * 2 ^ 32 + 1) none with started := false, note := [0x80000000, 0, 0, 0, 0, 0, 0, 0, 0, 0, 0] }] [(0, flat 0x2000 1 1 1), (1, flat 0x3000 5 1 4)]) ((issuedWith 0 (bun [(2, 0x10 * 2 ^ 56 + 1 * 2 ^ 32 + 1)]) [{ OpRun.ofSlot 2 (0x10 * 2 ^ 56 + 1 * 2 ^ 32 + 1) none with started := false, note := [0x80000000, 0, 0, 0, 0, 0, 0, 0, 0, 0, 0] }] [(0, flat 0x2000 1 1 1), (1, flat 0x3000 5 1 4)]).desc 0) 0 .read (((issuedWith 0 (bun [(2, 0x10 * 2 ^ 56 + 1 * 2 ^ 32 + 1)]) [{ OpRun.ofSlot 2 (0x10 * 2 ^ 56 + 1 * 2 ^ 32 + 1) none with started := false, note := [0x80000000, 0, 0, 0, 0, 0, 0, 0, 0, 0, 0] }] [(0, flat 0x2000 1 1 1), (1, flat 0x3000 5 1 4)]).desc 0).offsets 0 ((issuedWith 0 (bun [(2, 0x10 * 2 ^ 56 + 1 * 2 ^ 32 + 1)]) [{ OpRun.ofSlot 2 (0x10 * 2 ^ 56 + 1 * 2 ^ 32 + 1) none with started := false, note := [0x80000000, 0, 0, 0, 0, 0, 0, 0, 0, 0, 0] }] [(0, flat 0x2000 1 1 1), (1, flat 0x3000 5 1 4)]).desc 0).count)).getD ([], on)).2.readAddrs ((issuedWith 0 (bun [(2, 0x10 * 2 ^ 56 + 1 * 2 ^ 32 + 1)]) [{ OpRun.ofSlot 2 (0x10 * 2 ^ 56 + 1 * 2 ^ 32 + 1) none with started := false, note := [0x80000000, 0, 0, 0, 0, 0, 0, 0, 0, 0, 0] }] [(0, flat 0x2000 1 1 1), (1, flat 0x3000 5 1 4)]).desc 0) (((running (vm) 0 (issuedWith 0 (bun [(2, 0x10 * 2 ^ 56 + 1 * 2 ^ 32 + 1)]) [{ OpRun.ofSlot 2 (0x10 * 2 ^ 56 + 1 * 2 ^ 32 + 1) none with started := false, note := [0x80000000, 0, 0, 0, 0, 0, 0, 0, 0, 0, 0] }] [(0, flat 0x2000 1 1 1), (1, flat 0x3000 5 1 4)])).mapped 0 (issuedWith 0 (bun [(2, 0x10 * 2 ^ 56 + 1 * 2 ^ 32 + 1)]) [{ OpRun.ofSlot 2 (0x10 * 2 ^ 56 + 1 * 2 ^ 32 + 1) none with started := false, note := [0x80000000, 0, 0, 0, 0, 0, 0, 0, 0, 0, 0] }] [(0, flat 0x2000 1 1 1), (1, flat 0x3000 5 1 4)]) ((issuedWith 0 (bun [(2, 0x10 * 2 ^ 56 + 1 * 2 ^ 32 + 1)]) [{ OpRun.ofSlot 2 (0x10 * 2 ^ 56 + 1 * 2 ^ 32 + 1) none with started := false, note := [0x80000000, 0, 0, 0, 0, 0, 0, 0, 0, 0, 0] }] [(0, flat 0x2000 1 1 1), (1, flat 0x3000 5 1 4)]).desc 0) 0 .read (((issuedWith 0 (bun [(2, 0x10 * 2 ^ 56 + 1 * 2 ^ 32 + 1)]) [{ OpRun.ofSlot 2 (0x10 * 2 ^ 56 + 1 * 2 ^ 32 + 1) none with started := false, note := [0x80000000, 0, 0, 0, 0, 0, 0, 0, 0, 0, 0] }] [(0, flat 0x2000 1 1 1), (1, flat 0x3000 5 1 4)]).desc 0).offsets 0 ((issuedWith 0 (bun [(2, 0x10 * 2 ^ 56 + 1 * 2 ^ 32 + 1)]) [{ OpRun.ofSlot 2 (0x10 * 2 ^ 56 + 1 * 2 ^ 32 + 1) none with started := false, note := [0x80000000, 0, 0, 0, 0, 0, 0, 0, 0, 0, 0] }] [(0, flat 0x2000 1 1 1), (1, flat 0x3000 5 1 4)]).desc 0).count)).getD ([], on)).1 0 0 1) 2 0 0x2000).2, issuedWith 0 (bun [(2, 0x10 * 2 ^ 56 + 1 * 2 ^ 32 + 1)]) [{ OpRun.ofSlot 2 (0x10 * 2 ^ 56 + 1 * 2 ^ 32 + 1) none with started := false, note := [0x80000000, 0, 0, 0, 0, 0, 0, 0, 0, 0, 0] }] [(0, flat 0x2000 1 1 1), (1, flat 0x3000 5 1 4)], { OpRun.ofSlot 2 (0x10 * 2 ^ 56 + 1 * 2 ^ 32 + 1) none with started := false, note := [0x80000000, 0, 0, 0, 0, 0, 0, 0, 0, 0, 0] }, (((running (vm) 0 (issuedWith 0 (bun [(2, 0x10 * 2 ^ 56 + 1 * 2 ^ 32 + 1)]) [{ OpRun.ofSlot 2 (0x10 * 2 ^ 56 + 1 * 2 ^ 32 + 1) none with started := false, note := [0x80000000, 0, 0, 0, 0, 0, 0, 0, 0, 0, 0] }] [(0, flat 0x2000 1 1 1), (1, flat 0x3000 5 1 4)])).mapped 0 (issuedWith 0 (bun [(2, 0x10 * 2 ^ 56 + 1 * 2 ^ 32 + 1)]) [{ OpRun.ofSlot 2 (0x10 * 2 ^ 56 + 1 * 2 ^ 32 + 1) none with started := false, note := [0x80000000, 0, 0, 0, 0, 0, 0, 0, 0, 0, 0] }] [(0, flat 0x2000 1 1 1), (1, flat 0x3000 5 1 4)]) ((issuedWith 0 (bun [(2, 0x10 * 2 ^ 56 + 1 * 2 ^ 32 + 1)]) [{ OpRun.ofSlot 2 (0x10 * 2 ^ 56 + 1 * 2 ^ 32 + 1) none with started := false, note := [0x80000000, 0, 0, 0, 0, 0, 0, 0, 0, 0, 0] }] [(0, flat 0x2000 1 1 1), (1, flat 0x3000 5 1 4)]).desc 0) 0 .read (((issuedWith 0 (bun [(2, 0x10 * 2 ^ 56 + 1 * 2 ^ 32 + 1)]) [{ OpRun.ofSlot 2 (0x10 * 2 ^ 56 + 1 * 2 ^ 32 + 1) none with started := false, note := [0x80000000, 0, 0, 0, 0, 0, 0, 0, 0, 0, 0] }] [(0, flat 0x2000 1 1 1), (1, flat 0x3000 5 1 4)]).desc 0).offsets 0 ((issuedWith 0 (bun [(2, 0x10 * 2 ^ 56 + 1 * 2 ^ 32 + 1)]) [{ OpRun.ofSlot 2 (0x10 * 2 ^ 56 + 1 * 2 ^ 32 + 1) none with started := false, note := [0x80000000, 0, 0, 0, 0, 0, 0, 0, 0, 0, 0] }] [(0, flat 0x2000 1 1 1), (1, flat 0x3000 5 1 4)]).desc 0).count)).getD ([], on)).1,
    by decide +kernel, by decide +kernel, by decide +kernel, by decide +kernel, by decide +kernel, by decide +kernel⟩

theorem test_MvmsExposeCheckAndCommit_has_witness_2 :
    ∃ n : Fin 22, ∃ second : Bool, ∃ devs : List (List (Nat × Nat × Int)), ∃ s : State, ∃ p : Prog, ∃ o : OpRun, ∃ x : Slot,
      ∃ rest : List Slot, ((s.stream n.val).run = some p) ∧ (p.phase = .issued) ∧
      (p.ops.find? (fun o => !o.finished && (o.started && o.opc == 0x10 && (o.slot == 4) == second && !(o.slots.isEmpty))) = some o) ∧
      (o.slots = x :: rest) ∧ (n.val < 4) ∧ (o.tiles.length ≤ 1024) ∧ (o.entry < 256) ∧ (p.pinres ≤ 9) ∧ (p.timed = false) ∧
      (o.inputs.all (fun xs => (o.layer.slotRows xs x).isEmpty) = true) ∧ (s.flag F.CIM_CTL_NOSKIP n.val = false) :=
  ⟨0, false, [], running (vm) 0 (issuedWith 0 (bun [(2, 0x10 * 2 ^ 56 + 1 * 2 ^ 32 + 1)]) [{ OpRun.ofSlot 2 (0x10 * 2 ^ 56 + 1 * 2 ^ 32 + 1) none with started := true, acc := [(100001, [0]), (100000, [0])], note := [0x80000000, 0, 0, 0, 0, 0, 0, 0, 0, 0, 0] }] [(0, flat 0x2000 1 1 1), (1, flat 0x3000 5 1 4)]), issuedWith 0 (bun [(2, 0x10 * 2 ^ 56 + 1 * 2 ^ 32 + 1)]) [{ OpRun.ofSlot 2 (0x10 * 2 ^ 56 + 1 * 2 ^ 32 + 1) none with started := true, acc := [(100001, [0]), (100000, [0])], note := [0x80000000, 0, 0, 0, 0, 0, 0, 0, 0, 0, 0] }] [(0, flat 0x2000 1 1 1), (1, flat 0x3000 5 1 4)], { OpRun.ofSlot 2 (0x10 * 2 ^ 56 + 1 * 2 ^ 32 + 1) none with started := true, acc := [(100001, [0]), (100000, [0])], note := [0x80000000, 0, 0, 0, 0, 0, 0, 0, 0, 0, 0] }, ⟨0, 0, 0⟩, [],
    by decide +kernel, by decide +kernel, by decide +kernel, by decide +kernel, by decide +kernel, by decide +kernel, by decide +kernel,
    by decide +kernel, by decide +kernel, by decide +kernel, by decide +kernel⟩

theorem test_MvmsExposeCheckAndCommit_has_witness_3 :
    ∃ n : Fin 22, ∃ second : Bool, ∃ devs : List (List (Nat × Nat × Int)), ∃ s : State, ∃ p : Prog, ∃ o : OpRun, ∃ x : Slot,
      ∃ rest : List Slot, ((s.stream n.val).run = some p) ∧ (p.phase = .issued) ∧
      (p.ops.find? (fun o => !o.finished && (o.started && o.opc == 0x10 && (o.slot == 4) == second && !(o.slots.isEmpty))) = some o) ∧
      (o.slots = x :: rest) ∧ (n.val < 4) ∧ (o.tiles.length ≤ 1024) ∧ (o.entry < 256) ∧ (p.pinres ≤ 9) ∧
      (let first := ((s.leaveDark n.val o.tiles).exposeAll n.val p o x (devs.headD [])).1
 ((p.timed = true ∨ o.inputs.all (fun xs => (o.layer.slotRows xs x).isEmpty) = false)) ∧ (x.kind ≠ 2 ∨ o.layer.satact = false) ∧
   ((∀ e, some e ∈ first → s.csFails n.val x e = false))) :=
  ⟨0, false, [], running (vm) 0 (issuedWith 0 (bun [(2, 0x10 * 2 ^ 56 + 1 * 2 ^ 32 + 1)]) [{ OpRun.ofSlot 2 (0x10 * 2 ^ 56 + 1 * 2 ^ 32 + 1) none with started := true, acc := [(100001, [0]), (100000, [1])], note := [0x80000000, 0, 0, 0, 0, 0, 0, 0, 0, 0, 0] }] [(0, flat 0x2000 1 1 1), (1, flat 0x3000 5 1 4)]), issuedWith 0 (bun [(2, 0x10 * 2 ^ 56 + 1 * 2 ^ 32 + 1)]) [{ OpRun.ofSlot 2 (0x10 * 2 ^ 56 + 1 * 2 ^ 32 + 1) none with started := true, acc := [(100001, [0]), (100000, [1])], note := [0x80000000, 0, 0, 0, 0, 0, 0, 0, 0, 0, 0] }] [(0, flat 0x2000 1 1 1), (1, flat 0x3000 5 1 4)], { OpRun.ofSlot 2 (0x10 * 2 ^ 56 + 1 * 2 ^ 32 + 1) none with started := true, acc := [(100001, [0]), (100000, [1])], note := [0x80000000, 0, 0, 0, 0, 0, 0, 0, 0, 0, 0] }, ⟨0, 0, 0⟩, [],
    by decide +kernel, by decide +kernel, by decide +kernel, by decide +kernel, by decide +kernel, by decide +kernel, by decide +kernel,
    by decide +kernel, by decide +kernel,
    by decide +kernel, fun e he => by simpa using (by decide +kernel : ∀ r, r ∈ ((((running (vm) 0 (issuedWith 0 (bun [(2, 0x10 * 2 ^ 56 + 1 * 2 ^ 32 + 1)]) [{ OpRun.ofSlot 2 (0x10 * 2 ^ 56 + 1 * 2 ^ 32 + 1) none with started := true, acc := [(100001, [0]), (100000, [1])], note := [0x80000000, 0, 0, 0, 0, 0, 0, 0, 0, 0, 0] }] [(0, flat 0x2000 1 1 1), (1, flat 0x3000 5 1 4)])).leaveDark 0 ({  OpRun.ofSlot 2 (0x10 * 2 ^ 56 + 1 * 2 ^ 32 + 1) none with started := true, acc := [(100001, [0]), (100000, [1])], note := [0x80000000, 0, 0, 0, 0, 0, 0, 0, 0, 0, 0]  : OpRun }).tiles).exposeAll 0 (issuedWith 0 (bun [(2, 0x10 * 2 ^ 56 + 1 * 2 ^ 32 + 1)]) [{ OpRun.ofSlot 2 (0x10 * 2 ^ 56 + 1 * 2 ^ 32 + 1) none with started := true, acc := [(100001, [0]), (100000, [1])], note := [0x80000000, 0, 0, 0, 0, 0, 0, 0, 0, 0, 0] }] [(0, flat 0x2000 1 1 1), (1, flat 0x3000 5 1 4)]) ({ OpRun.ofSlot 2 (0x10 * 2 ^ 56 + 1 * 2 ^ 32 + 1) none with started := true, acc := [(100001, [0]), (100000, [1])], note := [0x80000000, 0, 0, 0, 0, 0, 0, 0, 0, 0, 0] }) ⟨0, 0, 0⟩ []).1) → r.elim true (fun e => !((running (vm) 0 (issuedWith 0 (bun [(2, 0x10 * 2 ^ 56 + 1 * 2 ^ 32 + 1)]) [{ OpRun.ofSlot 2 (0x10 * 2 ^ 56 + 1 * 2 ^ 32 + 1) none with started := true, acc := [(100001, [0]), (100000, [1])], note := [0x80000000, 0, 0, 0, 0, 0, 0, 0, 0, 0, 0] }] [(0, flat 0x2000 1 1 1), (1, flat 0x3000 5 1 4)])).csFails 0 ⟨0, 0, 0⟩ e)) = true) _ he⟩

theorem test_MvmsExposeCheckAndCommit_has_witness_4 :
    ∃ n : Fin 22, ∃ second : Bool, ∃ devs : List (List (Nat × Nat × Int)), ∃ s : State, ∃ p : Prog, ∃ o : OpRun, ∃ x : Slot,
      ∃ rest : List Slot, ((s.stream n.val).run = some p) ∧ (p.phase = .issued) ∧
      (p.ops.find? (fun o => !o.finished && (o.started && o.opc == 0x10 && (o.slot == 4) == second && !(o.slots.isEmpty))) = some o) ∧
      (o.slots = x :: rest) ∧ (n.val < 4) ∧ (o.tiles.length ≤ 1024) ∧ (o.entry < 256) ∧ (p.pinres ≤ 9) ∧
      (let first := ((s.leaveDark n.val o.tiles).exposeAll n.val p o x (devs.headD [])).1
 ((p.timed = true ∨ o.inputs.all (fun xs => (o.layer.slotRows xs x).isEmpty) = false)) ∧ (x.kind ≠ 2 ∨ o.layer.satact = false) ∧
   ((∃ e, some e ∈ first ∧ s.csFails n.val x e = true)) ∧ (p.timed = true ∨ s.fget F.CIM_CTL_CSRETRY n.val = 0)) :=
  ⟨0, false, [], running (((vm.setDeck 0 0 0 { DeckRec.fresh with gain := 16384, cells := [(3, 3)] }).fset F.CIM_CTL_CSRETRY 0 0)) 0 (issuedWith 0 (bun [(2, 0x10 * 2 ^ 56 + 1 * 2 ^ 32 + 1)]) [{ OpRun.ofSlot 2 (0x10 * 2 ^ 56 + 1 * 2 ^ 32 + 1) none with started := true, acc := [(100001, [0]), (100000, [1])], note := [0x80000000, 0, 0, 0, 0, 0, 0, 0, 0, 0, 0] }] [(0, flat 0x2000 1 1 1), (1, flat 0x3000 5 1 4)]), issuedWith 0 (bun [(2, 0x10 * 2 ^ 56 + 1 * 2 ^ 32 + 1)]) [{ OpRun.ofSlot 2 (0x10 * 2 ^ 56 + 1 * 2 ^ 32 + 1) none with started := true, acc := [(100001, [0]), (100000, [1])], note := [0x80000000, 0, 0, 0, 0, 0, 0, 0, 0, 0, 0] }] [(0, flat 0x2000 1 1 1), (1, flat 0x3000 5 1 4)], { OpRun.ofSlot 2 (0x10 * 2 ^ 56 + 1 * 2 ^ 32 + 1) none with started := true, acc := [(100001, [0]), (100000, [1])], note := [0x80000000, 0, 0, 0, 0, 0, 0, 0, 0, 0, 0] }, ⟨0, 0, 0⟩, [],
    by decide +kernel, by decide +kernel, by decide +kernel, by decide +kernel, by decide +kernel, by decide +kernel, by decide +kernel,
    by decide +kernel, by decide +kernel,
    by decide +kernel, ⟨(((((running (((vm.setDeck 0 0 0 { DeckRec.fresh with gain := 16384, cells := [(3, 3)] }).fset F.CIM_CTL_CSRETRY 0 0)) 0 (issuedWith 0 (bun [(2, 0x10 * 2 ^ 56 + 1 * 2 ^ 32 + 1)]) [{ OpRun.ofSlot 2 (0x10 * 2 ^ 56 + 1 * 2 ^ 32 + 1) none with started := true, acc := [(100001, [0]), (100000, [1])], note := [0x80000000, 0, 0, 0, 0, 0, 0, 0, 0, 0, 0] }] [(0, flat 0x2000 1 1 1), (1, flat 0x3000 5 1 4)])).leaveDark 0 ({  OpRun.ofSlot 2 (0x10 * 2 ^ 56 + 1 * 2 ^ 32 + 1) none with started := true, acc := [(100001, [0]), (100000, [1])], note := [0x80000000, 0, 0, 0, 0, 0, 0, 0, 0, 0, 0]  : OpRun }).tiles).exposeAll 0 (issuedWith 0 (bun [(2, 0x10 * 2 ^ 56 + 1 * 2 ^ 32 + 1)]) [{ OpRun.ofSlot 2 (0x10 * 2 ^ 56 + 1 * 2 ^ 32 + 1) none with started := true, acc := [(100001, [0]), (100000, [1])], note := [0x80000000, 0, 0, 0, 0, 0, 0, 0, 0, 0, 0] }] [(0, flat 0x2000 1 1 1), (1, flat 0x3000 5 1 4)]) ({ OpRun.ofSlot 2 (0x10 * 2 ^ 56 + 1 * 2 ^ 32 + 1) none with started := true, acc := [(100001, [0]), (100000, [1])], note := [0x80000000, 0, 0, 0, 0, 0, 0, 0, 0, 0, 0] }) ⟨0, 0, 0⟩ []).1).headD none).getD ⟨0, 0, [], false, 0, 0, 0, 0⟩,
    by decide +kernel⟩, by decide +kernel⟩

theorem test_MvmsExposeCheckAndCommit_has_witness_5 :
    ∃ n : Fin 22, ∃ second : Bool, ∃ s : State, ∃ u : State, ∃ v : State, ∃ w : State, ∃ p : Prog, ∃ o : OpRun,
      ∃ m : PageMap, ((s.stream n.val).run = some p) ∧ (p.phase = .issued) ∧
      (p.ops.find? (fun o => !o.finished && (o.started && o.opc == 0x10 && (o.slot == 4) == second && o.slots.isEmpty)) = some o) ∧
      (let d := p.desc (p.handle o 1)
 (let ps := p.desc (p.handle o 2)
  (let l := o.layer
   (let raw := bit o.mod 0
    (let accen := bit o.mod 1
     (let params := damBase n.val + l.param
      (let table := damBase n.val + l.table
       (let m' := u.noRemote m
        (let u' := u.violatePages n.val p.start.ctx m'
         (s.touch n.val p.start.ctx (d.touches (p.handle o 1) .write (d.offsets 0 d.count) ++
                (if accen then ps.touches (p.handle o 2) .read (ps.offsets 0 ps.count) else [])) [] = (.ok m, u)) ∧
                  (u'.readCheck n.val p false (if raw then [] else (List.range (8 * l.outputs o.tiles.length)).map (· + params) ++
                (if l.fn = 3 then (List.range 256).map (· + table) else [])) o.slot 0xFFFF 0 = (true, v)) ∧
                  (v.readCheck n.val p ps.notag (if accen then u'.readAddrs ps m' (u'.crTail ps.crnum) 0 ps.count else []) o.slot (p.handle o 2) ps.base =
                (true, w))))))))))) :=
  ⟨0, false, running (vm) 0 (issuedWith 0 (bun [(2, 0x10 * 2 ^ 56 + 1 * 2 ^ 32 + 1)]) [{ OpRun.ofSlot 2 (0x10 * 2 ^ 56 + 1 * 2 ^ 32 + 1) none with started := true, acc := [(0, [0]), (100000, [0])], note := [0x80000000, 0, 0, 0, 0, 0, 0, 0, 0, 0, 0] }] [(0, flat 0x2000 1 1 1), (1, flat 0x3000 5 1 4)]), ((running (vm) 0 (issuedWith 0 (bun [(2, 0x10 * 2 ^ 56 + 1 * 2 ^ 32 + 1)]) [{ OpRun.ofSlot 2 (0x10 * 2 ^ 56 + 1 * 2 ^ 32 + 1) none with started := true, acc := [(0, [0]), (100000, [0])], note := [0x80000000, 0, 0, 0, 0, 0, 0, 0, 0, 0, 0] }] [(0, flat 0x2000 1 1 1), (1, flat 0x3000 5 1 4)])).touch 0 0 (((issuedWith 0 (bun [(2, 0x10 * 2 ^ 56 + 1 * 2 ^ 32 + 1)]) [{ OpRun.ofSlot 2 (0x10 * 2 ^ 56 + 1 * 2 ^ 32 + 1) none with started := true, acc := [(0, [0]), (100000, [0])], note := [0x80000000, 0, 0, 0, 0, 0, 0, 0, 0, 0, 0] }] [(0, flat 0x2000 1 1 1), (1, flat 0x3000 5 1 4)]).desc 1).touches 1 .write (((issuedWith 0 (bun [(2, 0x10 * 2 ^ 56 + 1 * 2 ^ 32 + 1)]) [{ OpRun.ofSlot 2 (0x10 * 2 ^ 56 + 1 * 2 ^ 32 + 1) none with started := true, acc := [(0, [0]), (100000, [0])], note := [0x80000000, 0, 0, 0, 0, 0, 0, 0, 0, 0, 0] }] [(0, flat 0x2000 1 1 1), (1, flat 0x3000 5 1 4)]).desc 1).offsets 0 1)) []).2, ((((running (vm) 0 (issuedWith 0 (bun [(2, 0x10 * 2 ^ 56 + 1 * 2 ^ 32 + 1)]) [{ OpRun.ofSlot 2 (0x10 * 2 ^ 56 + 1 * 2 ^ 32 + 1) none with started := true, acc := [(0, [0]), (100000, [0])], note := [0x80000000, 0, 0, 0, 0, 0, 0, 0, 0, 0, 0] }] [(0, flat 0x2000 1 1 1), (1, flat 0x3000 5 1 4)])).touch 0 0 (((issuedWith 0 (bun [(2, 0x10 * 2 ^ 56 + 1 * 2 ^ 32 + 1)]) [{ OpRun.ofSlot 2 (0x10 * 2 ^ 56 + 1 * 2 ^ 32 + 1) none with started := true, acc := [(0, [0]), (100000, [0])], note := [0x80000000, 0, 0, 0, 0, 0, 0, 0, 0, 0, 0] }] [(0, flat 0x2000 1 1 1), (1, flat 0x3000 5 1 4)]).desc 1).touches 1 .write (((issuedWith 0 (bun [(2, 0x10 * 2 ^ 56 + 1 * 2 ^ 32 + 1)]) [{ OpRun.ofSlot 2 (0x10 * 2 ^ 56 + 1 * 2 ^ 32 + 1) none with started := true, acc := [(0, [0]), (100000, [0])], note := [0x80000000, 0, 0, 0, 0, 0, 0, 0, 0, 0, 0] }] [(0, flat 0x2000 1 1 1), (1, flat 0x3000 5 1 4)]).desc 1).offsets 0 1)) []).2.violatePages 0 0 (((running (vm) 0 (issuedWith 0 (bun [(2, 0x10 * 2 ^ 56 + 1 * 2 ^ 32 + 1)]) [{ OpRun.ofSlot 2 (0x10 * 2 ^ 56 + 1 * 2 ^ 32 + 1) none with started := true, acc := [(0, [0]), (100000, [0])], note := [0x80000000, 0, 0, 0, 0, 0, 0, 0, 0, 0, 0] }] [(0, flat 0x2000 1 1 1), (1, flat 0x3000 5 1 4)])).touch 0 0 (((issuedWith 0 (bun [(2, 0x10 * 2 ^ 56 + 1 * 2 ^ 32 + 1)]) [{ OpRun.ofSlot 2 (0x10 * 2 ^ 56 + 1 * 2 ^ 32 + 1) none with started := true, acc := [(0, [0]), (100000, [0])], note := [0x80000000, 0, 0, 0, 0, 0, 0, 0, 0, 0, 0] }] [(0, flat 0x2000 1 1 1), (1, flat 0x3000 5 1 4)]).desc 1).touches 1 .write (((issuedWith 0 (bun [(2, 0x10 * 2 ^ 56 + 1 * 2 ^ 32 + 1)]) [{ OpRun.ofSlot 2 (0x10 * 2 ^ 56 + 1 * 2 ^ 32 + 1) none with started := true, acc := [(0, [0]), (100000, [0])], note := [0x80000000, 0, 0, 0, 0, 0, 0, 0, 0, 0, 0] }] [(0, flat 0x2000 1 1 1), (1, flat 0x3000 5 1 4)]).desc 1).offsets 0 1)) []).2.noRemote [(3, .write, .page 0x100003)])).readCheck 0 (issuedWith 0 (bun [(2, 0x10 * 2 ^ 56 + 1 * 2 ^ 32 + 1)]) [{ OpRun.ofSlot 2 (0x10 * 2 ^ 56 + 1 * 2 ^ 32 + 1) none with started := true, acc := [(0, [0]), (100000, [0])], note := [0x80000000, 0, 0, 0, 0, 0, 0, 0, 0, 0, 0] }] [(0, flat 0x2000 1 1 1), (1, flat 0x3000 5 1 4)]) false [] 2 0xFFFF 0).2, (((((running (vm) 0 (issuedWith 0 (bun [(2, 0x10 * 2 ^ 56 + 1 * 2 ^ 32 + 1)]) [{ OpRun.ofSlot 2 (0x10 * 2 ^ 56 + 1 * 2 ^ 32 + 1) none with started := true, acc := [(0, [0]), (100000, [0])], note := [0x80000000, 0, 0, 0, 0, 0, 0, 0, 0, 0, 0] }] [(0, flat 0x2000 1 1 1), (1, flat 0x3000 5 1 4)])).touch 0 0 (((issuedWith 0 (bun [(2, 0x10 * 2 ^ 56 + 1 * 2 ^ 32 + 1)]) [{ OpRun.ofSlot 2 (0x10 * 2 ^ 56 + 1 * 2 ^ 32 + 1) none with started := true, acc := [(0, [0]), (100000, [0])], note := [0x80000000, 0, 0, 0, 0, 0, 0, 0, 0, 0, 0] }] [(0, flat 0x2000 1 1 1), (1, flat 0x3000 5 1 4)]).desc 1).touches 1 .write (((issuedWith 0 (bun [(2, 0x10 * 2 ^ 56 + 1 * 2 ^ 32 + 1)]) [{ OpRun.ofSlot 2 (0x10 * 2 ^ 56 + 1 * 2 ^ 32 + 1) none with started := true, acc := [(0, [0]), (100000, [0])], note := [0x80000000, 0, 0, 0, 0, 0, 0, 0, 0, 0, 0] }] [(0, flat 0x2000 1 1 1), (1, flat 0x3000 5 1 4)]).desc 1).offsets 0 1)) []).2.violatePages 0 0 (((running (vm) 0 (issuedWith 0 (bun [(2, 0x10 * 2 ^ 56 + 1 * 2 ^ 32 + 1)]) [{ OpRun.ofSlot 2 (0x10 * 2 ^ 56 + 1 * 2 ^ 32 + 1) none with started := true, acc := [(0, [0]), (100000, [0])], note := [0x80000000, 0, 0, 0, 0, 0, 0, 0, 0, 0, 0] }] [(0, flat 0x2000 1 1 1), (1, flat 0x3000 5 1 4)])).touch 0 0 (((issuedWith 0 (bun [(2, 0x10 * 2 ^ 56 + 1 * 2 ^ 32 + 1)]) [{ OpRun.ofSlot 2 (0x10 * 2 ^ 56 + 1 * 2 ^ 32 + 1) none with started := true, acc := [(0, [0]), (100000, [0])], note := [0x80000000, 0, 0, 0, 0, 0, 0, 0, 0, 0, 0] }] [(0, flat 0x2000 1 1 1), (1, flat 0x3000 5 1 4)]).desc 1).touches 1 .write (((issuedWith 0 (bun [(2, 0x10 * 2 ^ 56 + 1 * 2 ^ 32 + 1)]) [{ OpRun.ofSlot 2 (0x10 * 2 ^ 56 + 1 * 2 ^ 32 + 1) none with started := true, acc := [(0, [0]), (100000, [0])], note := [0x80000000, 0, 0, 0, 0, 0, 0, 0, 0, 0, 0] }] [(0, flat 0x2000 1 1 1), (1, flat 0x3000 5 1 4)]).desc 1).offsets 0 1)) []).2.noRemote [(3, .write, .page 0x100003)])).readCheck 0 (issuedWith 0 (bun [(2, 0x10 * 2 ^ 56 + 1 * 2 ^ 32 + 1)]) [{ OpRun.ofSlot 2 (0x10 * 2 ^ 56 + 1 * 2 ^ 32 + 1) none with started := true, acc := [(0, [0]), (100000, [0])], note := [0x80000000, 0, 0, 0, 0, 0, 0, 0, 0, 0, 0] }] [(0, flat 0x2000 1 1 1), (1, flat 0x3000 5 1 4)]) false [] 2 0xFFFF 0).2.readCheck 0 (issuedWith 0 (bun [(2, 0x10 * 2 ^ 56 + 1 * 2 ^ 32 + 1)]) [{ OpRun.ofSlot 2 (0x10 * 2 ^ 56 + 1 * 2 ^ 32 + 1) none with started := true, acc := [(0, [0]), (100000, [0])], note := [0x80000000, 0, 0, 0, 0, 0, 0, 0, 0, 0, 0] }] [(0, flat 0x2000 1 1 1), (1, flat 0x3000 5 1 4)]) false [] 2 0 0).2, issuedWith 0 (bun [(2, 0x10 * 2 ^ 56 + 1 * 2 ^ 32 + 1)]) [{ OpRun.ofSlot 2 (0x10 * 2 ^ 56 + 1 * 2 ^ 32 + 1) none with started := true, acc := [(0, [0]), (100000, [0])], note := [0x80000000, 0, 0, 0, 0, 0, 0, 0, 0, 0, 0] }] [(0, flat 0x2000 1 1 1), (1, flat 0x3000 5 1 4)], { OpRun.ofSlot 2 (0x10 * 2 ^ 56 + 1 * 2 ^ 32 + 1) none with started := true, acc := [(0, [0]), (100000, [0])], note := [0x80000000, 0, 0, 0, 0, 0, 0, 0, 0, 0, 0] }, [(3, .write, .page 0x100003)],
    by decide +kernel, by decide +kernel, by decide +kernel, by decide +kernel, by decide +kernel, by decide +kernel⟩

theorem test_MvmsExposeCheckAndCommit_has_witness_6 :
    ∃ n : Fin 22, ∃ s : State, ∃ p : Prog, ∃ o : OpRun, ((s.stream n.val).run = some p) ∧ (p.phase = .issued) ∧
      (p.ops.find? (fun o => !o.finished && (!o.started && o.opc == 0x12)) = some o) :=
  ⟨0, running (on) 0 (issuedWith 0 (bun [(2, 0x12 * 2 ^ 56)]) [{ OpRun.ofSlot 2 (0x12 * 2 ^ 56) none with started := false, note := [0x80000000, 0, 0, 0, 0, 0, 0, 0, 0, 0, 0] }] [(0, flat 0x2000 1 1 1), (1, flat 0x3000 5 1 4)]), issuedWith 0 (bun [(2, 0x12 * 2 ^ 56)]) [{ OpRun.ofSlot 2 (0x12 * 2 ^ 56) none with started := false, note := [0x80000000, 0, 0, 0, 0, 0, 0, 0, 0, 0, 0] }] [(0, flat 0x2000 1 1 1), (1, flat 0x3000 5 1 4)], { OpRun.ofSlot 2 (0x12 * 2 ^ 56) none with started := false, note := [0x80000000, 0, 0, 0, 0, 0, 0, 0, 0, 0, 0] },
    by decide +kernel, by decide +kernel, by decide +kernel⟩

theorem test_MvmsExposeCheckAndCommit_has_witness_7 :
    ∃ r : Req, ∃ d : Fin 4, ∃ v : Word, ∃ s : State, (s.homeReq r) :=
  ⟨.core 0, 0, 0, on, by decide +kernel⟩

/-- Concrete states and operands that meet the hypotheses of `Obligations.TileCommandsEraseProgramMapAndRetire`, clause by clause. -/
theorem test_TileCommandsEraseProgramMapAndRetire_has_witnesses :
    (∃ d : Fin 4, ∃ tl : Half, ∃ s : State, ∃ u : State, ∃ c : TileCmd, (s.cimpReady u d.val 1 tl.toNat c)) ∧
    (∃ d : Fin 4, ∃ tl : Half, ∃ s : State, ∃ c : TileCmd, (s.runningOn d.val tl.toNat = some c) ∧ (c.op = 1)) ∧
    (∃ d : Fin 4, ∃ tl : Half, ∃ bad : List (Fin 528 × Fin 544 × Fin 4), ∃ pulse : Bool, ∃ s : State,
      ∃ c : TileCmd, (s.runningOn d.val tl.toNat = some c) ∧ (c.op = 1) ∧ (pulse = true ∨ 64 < bad.length)) ∧
    (∃ d : Fin 4, ∃ tl : Half, ∃ s : State, ∃ u : State, ∃ c : TileCmd, (s.cimpReady u d.val 2 tl.toNat c) ∧
      ((u.tileX d.val tl.toNat).defects.length < 504) ∧
      (let rep := if bit c.arg 3 then (u.tileX d.val tl.toNat).autoRepair c.deck (u.fget F.CIMP_CTL_ROWTH d.val)
       else (u.tileX d.val tl.toNat, 0, false)
 (rep.2.2 = false))) ∧
    (∃ d : Fin 4, ∃ tl : Half, ∃ p1 : Fin 9, ∃ p2 : Fin 5, ∃ cells : List (Fin 544 × Fin 4), ∃ s : State, ∃ u : State, ∃ c : TileCmd,
      ∃ img : List Byte, (s.runningOn d.val tl.toNat = some c) ∧ (c.op = 2) ∧ (c.susp = false) ∧ (s.timedOn d.val = false) ∧
      ((∀ p, (s.stream d.val).run = some p →
      p.ops.any (fun o => o.opc == 0x10 && o.started && !o.finished && o.tiles.any (fun x => x.tile == c.tile)) = false)) ∧
        (s.rowSource d.val c c.step = (.row img, u)) ∧ (let x := s.tileX d.val tl.toNat
 (let lv := x.programLevels c.deck c.step img (cells.map (fun e => (e.1.val, e.2.val)))
  (let pr := x.rowOf c.deck c.step
   ((x.deck c.deck).wfmt ≠ 3 ∨ (List.range 512).any (fun k => bits (leNat img) (2 * k) 2 == 3) = false) ∧
     (lv.all (fun e => e.2.1 == e.2.2) = true))))) ∧
    (∃ d : Fin 4, ∃ tl : Half, ∃ s : State, ∃ u : State, ∃ c : TileCmd, (s.cimpReady u d.val 5 tl.toNat c)) ∧
    (∃ d : Fin 4, ∃ tl : Half, ∃ s : State, ∃ u : State, ∃ c : TileCmd, ∃ j : Nat, (s.cimpReady u d.val 6 tl.toNat c) ∧ (tl.toNat < 1152) ∧
      ((List.range 72).find? (fun j => (u.tileX d.val (72 * (tl.toNat / 72) + j)).role == 1) = some j)) ∧
    (∃ d : Fin 4, ∃ tl : Half, ∃ s : State, ∃ u : State, ∃ c : TileCmd, (s.cimpReady u d.val 6 tl.toNat c) ∧
      ((List.range 72).find? (fun j => (u.tileX d.val (72 * (tl.toNat / 72) + j)).role == 1) = none)) :=
  ⟨⟨0, 0, (on).setCmds 0 [⟨none, 1, 0, 0, 0, 0, 0, 0, false, false, 0, 0, false, false, [], []⟩], (on).setCmds 0 [⟨none, 1, 0, 0, 0, 0, 0, 0, false, false, 0, 0, false, false, [], []⟩], ⟨none, 1, 0, 0, 0, 0, 0, 0, false, false, 0, 0, false, false, [], []⟩, by unfold State.cimpReady; decide +kernel⟩,
   ⟨0, 0, (on).setCmds 0 [⟨none, 1, 0, 0, 0, 0, 0, 0, false, true, 0, 0, false, false, [], []⟩], ⟨none, 1, 0, 0, 0, 0, 0, 0, false, true, 0, 0, false, false, [], []⟩,
     by decide +kernel, by decide +kernel⟩,
   ⟨0, 0, [], true, (on).setCmds 0 [⟨none, 1, 0, 0, 0, 0, 0, 0, false, true, 0, 0, false, false, [], []⟩], ⟨none, 1, 0, 0, 0, 0, 0, 0, false, true, 0, 0, false, false, [], []⟩,
     by decide +kernel, by decide +kernel, by decide +kernel⟩,
   ⟨0, 0, (on).setCmds 0 [⟨none, 2, 0, 0, 0, 0, 0, 0, false, false, 0, 0, false, false, [], []⟩], (on).setCmds 0 [⟨none, 2, 0, 0, 0, 0, 0, 0, false, false, 0, 0, false, false, [], []⟩], ⟨none, 2, 0, 0, 0, 0, 0, 0, false, false, 0, 0, false, false, [], []⟩, by unfold State.cimpReady; decide +kernel,
     by decide +kernel, by decide +kernel⟩,
   ⟨0, 0, 8, 4, [], (vm).setCmds 0 [⟨none, 2, 0, 0, 0, 0x2000, 0, 0, false, true, 0, 0, false, false, [], []⟩], (((vm).setCmds 0 [⟨none, 2, 0, 0, 0, 0x2000, 0, 0, false, true, 0, 0, false, false, [], []⟩]).rowSource 0 ⟨none, 2, 0, 0, 0, 0x2000, 0, 0, false, true, 0, 0, false, false, [], []⟩ 0).2, ⟨none, 2, 0, 0, 0, 0x2000, 0, 0, false, true, 0, 0, false, false, [], []⟩, List.replicate 128 0,
     by decide +kernel, by decide +kernel, by decide +kernel,
     by decide +kernel, by intro p hp; have h : (State.stream ((vm).setCmds 0 [⟨none, 2, 0, 0, 0, 0x2000, 0, 0, false, true, 0, 0, false, false, [], []⟩]) 0).run = none := (by decide +kernel); exact absurd (h.symm.trans hp) (by simp),
     by decide +kernel, by decide +kernel, by decide +kernel⟩,
   ⟨0, 0, (on).setCmds 0 [⟨none, 5, 0, 0, 0, 0xFFFFFFFFFFFFFFFF, 0, 0, false, false, 0, 0, false, false, [], []⟩], (on).setCmds 0 [⟨none, 5, 0, 0, 0, 0xFFFFFFFFFFFFFFFF, 0, 0, false, false, 0, 0, false, false, [], []⟩], ⟨none, 5, 0, 0, 0, 0xFFFFFFFFFFFFFFFF, 0, 0, false, false, 0, 0, false, false, [], []⟩, by unfold State.cimpReady; decide +kernel⟩,
   ⟨0, 0, (on).setCmds 0 [⟨none, 6, 0, 0, 0, 0, 0, 0, false, false, 0, 0, false, false, [], []⟩], (on).setCmds 0 [⟨none, 6, 0, 0, 0, 0, 0, 0, false, false, 0, 0, false, false, [], []⟩], ⟨none, 6, 0, 0, 0, 0, 0, 0, false, false, 0, 0, false, false, [], []⟩, 64, by unfold State.cimpReady; decide +kernel,
     by decide +kernel, by decide +kernel⟩,
   ⟨0, 0, ((List.range 8).foldl (fun s k => s.setTile 0 (64 + k) { Tile.fresh 64 with role := 2 }) on).setCmds 0 [⟨none, 6, 0, 0, 0, 0, 0, 0, false, false, 0, 0, false, false, [], []⟩], ((List.range 8).foldl (fun s k => s.setTile 0 (64 + k) { Tile.fresh 64 with role := 2 }) on).setCmds 0 [⟨none, 6, 0, 0, 0, 0, 0, 0, false, false, 0, 0, false, false, [], []⟩], ⟨none, 6, 0, 0, 0, 0, 0, 0, false, false, 0, 0, false, false, [], []⟩, by unfold State.cimpReady; decide +kernel,
     by decide +kernel⟩⟩

/-- Concrete states and operands that meet the hypotheses of `Obligations.DarkroomSwitchesAndStatistics`, clause by clause. -/
theorem test_DarkroomSwitchesAndStatistics_has_witnesses :
    (∃ d : Fin 4, ∃ tl : Half, ∃ s : State, ∃ u : State, ∃ c : TileCmd, (s.cimpReady u d.val 3 tl.toNat c)) ∧
    (∃ d : Fin 4, ∃ tl : Half, ∃ s : State, ∃ u : State, ∃ c : TileCmd, (s.cimpReady u d.val 4 tl.toNat c)) ∧
    (∃ d : Fin 4, ∃ tl : Half, ∃ trim : Byte, ∃ n : Fin 171, ∃ lo : Half, ∃ hi : Half, ∃ seg : Fin 4, ∃ fails : Bool,
      ∃ cells : List (Fin 544 × Fin 4), ∃ pulsed : Half, ∃ s : State, ∃ c : TileCmd, (s.runningOn d.val tl.toNat = some c) ∧ (c.out = false) ∧
      (s.timedOn d.val = false) ∧ (c.op = 3) ∧ (c.step + 1 < 512) ∧ (cells = [])) ∧
    (∃ d : Fin 4, ∃ tl : Half, ∃ trim : Byte, ∃ n : Fin 171, ∃ lo : Half, ∃ hi : Half, ∃ seg : Fin 4, ∃ fails : Bool,
      ∃ cells : List (Fin 544 × Fin 4), ∃ pulsed : Half, ∃ s : State, ∃ c : TileCmd, (s.runningOn d.val tl.toNat = some c) ∧ (c.out = false) ∧
      (s.timedOn d.val = false) ∧ (c.op = 4) ∧ (c.step < 132)) ∧
    (∃ d : Fin 4, ∃ tl : Half, ∃ trim : Byte, ∃ n : Fin 171, ∃ lo : Half, ∃ hi : Half, ∃ seg : Fin 4, ∃ fails : Bool,
      ∃ cells : List (Fin 544 × Fin 4), ∃ pulsed : Half, ∃ s : State, ∃ c : TileCmd, (s.runningOn d.val tl.toNat = some c) ∧ (c.out = false) ∧
      (s.timedOn d.val = false) ∧ (c.op = 4) ∧ (c.step = 399) ∧ (fails = false)) ∧
    (∃ d : Fin 4, ∃ tl : Half, ∃ s : State, ∃ c : TileCmd, (s.runningOn d.val tl.toNat = some c) ∧ (c.out = true) ∧
      ((∀ p, (s.stream d.val).run = some p →
      p.ops.any (fun o => o.opc == 0x10 && o.started && !o.finished && o.tiles.any (fun x => x.tile == c.tile)) = false))) ∧
    (∃ d : Fin 4, ∃ tl : Half, ∃ p : Fin 8, ∃ s : State, (s.tilePresent tl.toNat = true) ∧ (((s.tileX d.val tl.toNat).deck p.val).state = 5) ∧
      ((s.tileX d.val tl.toNat).lmap.contains p.val = true) ∧ (s.fget F.CIMP_DARK_PERIOD d.val ≠ 0) ∧
      (((s.tileX d.val tl.toNat).deck p.val).calTb + s.fget F.CIMP_DARK_PERIOD d.val * 3600 * 10 ^ 9 ≤ s.now) ∧
      ((s.cmds d.val).any (fun c => c.idx == none && c.op == 4 && c.tile == tl.toNat && c.deck == p.val) = false)) ∧
    (∃ d : Fin 4, ∃ tl : Half, ∃ s : State, (s.tilePresent tl.toNat = true) ∧
      ((s.tileX d.val tl.toNat).driftTb = 0 ∨ (s.tileX d.val tl.toNat).driftTb - 1 + 3600 * 10 ^ 9 ≤ s.now)) ∧
    (∃ r : Req, ∃ d : Fin 4, ∃ v : Word, ∃ s : State, (s.homeReq r) ∧ (s.streamRuns (getField v 0 4) = true)) ∧
    (∃ r : Req, ∃ d : Fin 4, ∃ v : Word, ∃ s : State, (s.homeReq r)) ∧
    (∃ st : Fin 16, ∃ s : State, (s.streamRuns st.val = false) ∧ ((∀ d, d ∈ s.armedDies st.val → s.timedOn d = false))) :=
  ⟨⟨0, 0, (on.setDeck 0 0 0 { DeckRec.fresh with state := 5 }).setCmds 0 [⟨none, 3, 0, 0, 0, 0, 0, 0, false, false, 0, 0, false, false, [], []⟩], (on.setDeck 0 0 0 { DeckRec.fresh with state := 5 }).setCmds 0 [⟨none, 3, 0, 0, 0, 0, 0, 0, false, false, 0, 0, false, false, [], []⟩], ⟨none, 3, 0, 0, 0, 0, 0, 0, false, false, 0, 0, false, false, [], []⟩, by unfold State.cimpReady; decide +kernel⟩,
   ⟨0, 0, (on.setDeck 0 0 0 { DeckRec.fresh with state := 5 }).setCmds 0 [⟨none, 4, 0, 0, 0, 0, 0, 0, false, false, 0, 0, false, false, [], []⟩], (on.setDeck 0 0 0 { DeckRec.fresh with state := 5 }).setCmds 0 [⟨none, 4, 0, 0, 0, 0, 0, 0, false, false, 0, 0, false, false, [], []⟩], ⟨none, 4, 0, 0, 0, 0, 0, 0, false, false, 0, 0, false, false, [], []⟩, by unfold State.cimpReady; decide +kernel⟩,
   ⟨0, 0, 0, 0, 0, 0, 0, false, [], 0, (on).setCmds 0 [⟨none, 3, 0, 0, 0, 0, 0, 0, false, true, 0, 0, false, false, [], []⟩], ⟨none, 3, 0, 0, 0, 0, 0, 0, false, true, 0, 0, false, false, [], []⟩,
     by decide +kernel, by decide +kernel, by decide +kernel, by decide +kernel, by decide +kernel, by decide +kernel⟩,
   ⟨0, 0, 0, 0, 0, 0, 0, false, [], 0, (on).setCmds 0 [⟨none, 4, 0, 0, 0, 0, 0, 0, false, true, 0, 0, false, false, [], []⟩], ⟨none, 4, 0, 0, 0, 0, 0, 0, false, true, 0, 0, false, false, [], []⟩,
     by decide +kernel, by decide +kernel, by decide +kernel, by decide +kernel, by decide +kernel⟩,
   ⟨0, 0, 0, 0, 0, 0, 0, false, [], 0, (on).setCmds 0 [⟨none, 4, 0, 0, 0, 0, 0, 0, false, true, 399, 0, false, false, [], []⟩], ⟨none, 4, 0, 0, 0, 0, 0, 0, false, true, 399, 0, false, false, [], []⟩,
     by decide +kernel, by decide +kernel, by decide +kernel, by decide +kernel, by decide +kernel, by decide +kernel⟩,
   ⟨0, 0, (on).setCmds 0 [⟨none, 4, 0, 0, 0, 0, 0, 0, false, true, 3, 0, true, false, [], []⟩], ⟨none, 4, 0, 0, 0, 0, 0, 0, false, true, 3, 0, true, false, [], []⟩,
     by decide +kernel,
     by decide +kernel, by intro p hp; have h : (State.stream ((on).setCmds 0 [⟨none, 4, 0, 0, 0, 0, 0, 0, false, true, 3, 0, true, false, [], []⟩]) 0).run = none := (by decide +kernel); exact absurd (h.symm.trans hp) (by simp)⟩,
   ⟨0, 0, 0, ((({ on with timebase := 0x1000000000000000 } : State).setTile 0 0 { Tile.fresh 0 with lmap := List.replicate 8 0 }).setDeck 0 0 0 { DeckRec.fresh with state := 5 }).fset F.CIMP_DARK_PERIOD 1 0,
     by decide +kernel, by decide +kernel, by decide +kernel, by decide +kernel, by decide +kernel, by decide +kernel⟩,
   ⟨0, 0, on, by decide +kernel, by decide +kernel⟩,
   ⟨.core 0, 0, 4, on.setFlag F.ACQ_ST_STAT_RUN true 4, by decide +kernel, by decide +kernel⟩,
   ⟨.core 0, 0, 0, on, by decide +kernel⟩,
   ⟨0, on, by decide +kernel, by decide +kernel⟩⟩

/-- Concrete states and operands that meet the hypotheses of `Obligations.DmeOperationsRunTileByTile`, clause by clause. -/
theorem test_DmeOperationsRunTileByTile_has_witnesses :
    (∃ n : Fin 22, ∃ xp : Word, ∃ s : State, ∃ u : State, ∃ p : Prog, ∃ o : OpRun, ∃ b : Bundle, ∃ m : PageMap,
      ∃ maps : List (Nat × PageMap), ((s.stream n.val).run = some p) ∧ (streamKind n.val = 1) ∧ (p.resident = false) ∧ (p.dmeOp = some o) ∧
      (p.bundle = some b) ∧ (let q := s.cacheDescs p ((dmeReads b o p.iter ++ dmeWrites b o p.iter).map Int.toNat)
 (s.dmeCheck n.val q b o q.iter = []) ∧ ((q.cores n.val).zipIdx.any (fun k => s.dmePlaceCheck q b o q.iter k.1 k.2 != []) = false) ∧
   (s.feedCores n.val q o ((dmeReads b o q.iter).map Int.toNat) (q.cores n.val).zipIdx [] = (.ok m, maps, u)))) ∧
    (∃ n : Fin 22, ∃ x : Instr × Nat, ∃ s : State, ∃ p : Prog, ∃ o : OpRun,
      ∃ b : Bundle, (x ∈ [(Instr.mma n, 0x20), (Instr.dist n, 0x21), (Instr.ewise n, 0x22), (Instr.norm n, 0x23), (Instr.softmax n, 0x24),
      (Instr.optim n, 0x25), (Instr.argmax n, 0x26), (Instr.wino n, 0x27)]) ∧ ((s.stream n.val).run = some p) ∧ (p.phase = .issued) ∧
        (p.bundle = some b) ∧ (p.resident = true) ∧ (p.ops.find? (fun o => !o.finished && (!o.started && o.opc == x.2)) = some o)) ∧
    (∃ n : Fin 22, ∃ core : Fin 8, ∃ s : State, ∃ p : Prog, ∃ o : OpRun, ∃ b : Bundle, ((s.stream n.val).run = some p) ∧ (p.phase = .issued) ∧
      (p.ops.find? (fun o => !o.finished && (o.started && decide (0x20 ≤ o.opc) && decide (o.opc ≤ 0x27))) = some o) ∧ (p.bundle = some b) ∧
      (p.resident = true) ∧ (let res := (p.cores n.val).zipIdx.map (fun k => (k.1, k.2, s.tileResults p b o k.1 k.2 o.step))
 (let flat := res.flatMap (fun x => x.2.2.1.map (fun y => (x.1, x.2.1, y.1, y.2)))
  (dmeStaged p b o p.iter = false) ∧ (s.dmeUnmapped p flat = none)))) ∧
    (∃ n : Fin 22, ∃ core : Fin 8, ∃ s : State, ∃ p : Prog, ∃ o : OpRun, ∃ b : Bundle, ((s.stream n.val).run = some p) ∧ (p.phase = .issued) ∧
      (p.ops.find? (fun o => !o.finished && (o.started && decide (0x20 ≤ o.opc) && decide (o.opc ≤ 0x27))) = some o) ∧ (p.bundle = some b) ∧
      (p.resident = true) ∧ (dmeStaged p b o p.iter = true) ∧ (o.step + 1 ≠ o.nsteps)) ∧
    (∃ r : Req, ∃ k : Fin 8, ∃ v : Word, ∃ s : State, (s.ctxEnabled (s.ctxOf r) = true) ∧ (s.coreEnabled k.val = true) ∧
      (s.ctxOf r = 0 ∨ s.ctxOf r = 7) ∧ (s.flag F.DME_STAT_RETIRED k.val = false)) ∧
    (∃ r : Req, ∃ k : Fin 8, ∃ v : Word, ∃ s : State, (s.ctxEnabled (s.ctxOf r) = true) ∧ (s.coreEnabled k.val = true) ∧
      (s.ctxOf r = 0 ∨ s.ctxOf r = 7)) :=
  ⟨⟨4, 0, ewState, ewFed.2.2, ewProg, ewOp, ewBundle, ewMap, ewFed.2.1, by decide +kernel, by decide +kernel, by decide +kernel,
    by decide +kernel, by decide +kernel, by decide +kernel,
    by decide +kernel, Prod.ext (show ewFed.1 = .ok ewMap by decide +kernel) (show ewFed.2 = (ewFed.2.1, ewFed.2.2) from rfl)⟩,
   ⟨4, (Instr.ewise 4, 0x22), running (vm) 4 ({ issuedWith 4 (bun [(2, 34 * 2 ^ 56 + 1 * 2 ^ 32 + 2 * 2 ^ 20)]) [{ OpRun.ofSlot 2 (34 * 2 ^ 56 + 1 * 2 ^ 32 + 2 * 2 ^ 20) none with started := false }] [(0, flat 0x2000 5 64 4), (1, flat 0x3000 5 64 4), (2, flat 0x4000 5 64 4)] with phase := .issued, resident := true }), { issuedWith 4 (bun [(2, 34 * 2 ^ 56 + 1 * 2 ^ 32 + 2 * 2 ^ 20)]) [{ OpRun.ofSlot 2 (34 * 2 ^ 56 + 1 * 2 ^ 32 + 2 * 2 ^ 20) none with started := false }] [(0, flat 0x2000 5 64 4), (1, flat 0x3000 5 64 4), (2, flat 0x4000 5 64 4)] with phase := .issued, resident := true }, { OpRun.ofSlot 2 (34 * 2 ^ 56 + 1 * 2 ^ 32 + 2 * 2 ^ 20) none with started := false }, bun [(2, 34 * 2 ^ 56 + 1 * 2 ^ 32 + 2 * 2 ^ 20)],
     by decide +kernel, by decide +kernel, by decide +kernel, by decide +kernel, by decide +kernel, by decide +kernel⟩,
   ⟨4, 0, running (vm) 4 ({ issuedWith 4 (bun [(2, 34 * 2 ^ 56 + 1 * 2 ^ 32 + 2 * 2 ^ 20)]) [{ OpRun.ofSlot 2 (34 * 2 ^ 56 + 1 * 2 ^ 32 + 2 * 2 ^ 20) none with started := true }] [(0, flat 0x2000 5 64 4), (1, flat 0x3000 5 64 4), (2, flat 0x4000 5 64 4)] with phase := .issued, resident := true }), { issuedWith 4 (bun [(2, 34 * 2 ^ 56 + 1 * 2 ^ 32 + 2 * 2 ^ 20)]) [{ OpRun.ofSlot 2 (34 * 2 ^ 56 + 1 * 2 ^ 32 + 2 * 2 ^ 20) none with started := true }] [(0, flat 0x2000 5 64 4), (1, flat 0x3000 5 64 4), (2, flat 0x4000 5 64 4)] with phase := .issued, resident := true }, { OpRun.ofSlot 2 (34 * 2 ^ 56 + 1 * 2 ^ 32 + 2 * 2 ^ 20) none with started := true }, bun [(2, 34 * 2 ^ 56 + 1 * 2 ^ 32 + 2 * 2 ^ 20)],
     by decide +kernel, by decide +kernel, by decide +kernel, by decide +kernel, by decide +kernel, by decide +kernel, by decide +kernel⟩,
   ⟨4, 0, running (vm) 4 ({ issuedWith 4 (bun [(2, 37 * 2 ^ 56 + 1 * 2 ^ 32 + 2 * 2 ^ 20)]) [{ OpRun.ofSlot 2 (37 * 2 ^ 56 + 1 * 2 ^ 32 + 2 * 2 ^ 20) none with started := true, nsteps := 2 }] [(0, flat 0x2000 5 64 4), (1, flat 0x3000 5 64 4), (2, flat 0x4000 5 64 4)] with phase := .issued, resident := true }), { issuedWith 4 (bun [(2, 37 * 2 ^ 56 + 1 * 2 ^ 32 + 2 * 2 ^ 20)]) [{ OpRun.ofSlot 2 (37 * 2 ^ 56 + 1 * 2 ^ 32 + 2 * 2 ^ 20) none with started := true, nsteps := 2 }] [(0, flat 0x2000 5 64 4), (1, flat 0x3000 5 64 4), (2, flat 0x4000 5 64 4)] with phase := .issued, resident := true }, { OpRun.ofSlot 2 (37 * 2 ^ 56 + 1 * 2 ^ 32 + 2 * 2 ^ 20) none with started := true, nsteps := 2 }, bun [(2, 37 * 2 ^ 56 + 1 * 2 ^ 32 + 2 * 2 ^ 20)],
     by decide +kernel, by decide +kernel, by decide +kernel, by decide +kernel, by decide +kernel, by decide +kernel, by decide +kernel⟩,
   ⟨.core 0, 0, 0, on, by decide +kernel, by decide +kernel, by decide +kernel, by decide +kernel⟩,
   ⟨.core 0, 0, 0, on, by decide +kernel, by decide +kernel, by decide +kernel⟩⟩

/-- Concrete states and operands that meet the hypotheses of `Obligations.SignalOperationsRunInSteps`, clause by clause. -/
theorem test_SignalOperationsRunInSteps_has_witness_1 :
    ∃ n : Fin 22, ∃ x : Instr × Nat, ∃ s : State, ∃ p : Prog, ∃ o : OpRun,
      ∃ b : Bundle, (x ∈ [(Instr.window n, 0x41), (Instr.band n, 0x46), (Instr.marker n, 0x47), (Instr.layer n, 0x48), (Instr.sigArgmax n, 0x49),
      (Instr.sheet n, 0x4A), (Instr.stats n, 0x4B)]) ∧ ((s.stream n.val).run = some p) ∧ (p.phase = .issued) ∧ (p.bundle = some b) ∧
        (p.ops.find? (fun o => !o.finished && (!o.started && o.opc == x.2)) = some o) :=
  ⟨12, (Instr.window 12, 0x41), running (vm) 12 ({ issuedWith 12 (bun [(2, 65 * 2 ^ 56 + 1 * 2 ^ 32 + 2 * 2 ^ 20)]) [{ OpRun.ofSlot 2 (65 * 2 ^ 56 + 1 * 2 ^ 32 + 2 * 2 ^ 20) none with started := false }] [(0, flat 0x2000 5 64 4), (1, flat 0x3000 5 64 4), (2, flat 0x4000 5 64 4)] with phase := .issued }), { issuedWith 12 (bun [(2, 65 * 2 ^ 56 + 1 * 2 ^ 32 + 2 * 2 ^ 20)]) [{ OpRun.ofSlot 2 (65 * 2 ^ 56 + 1 * 2 ^ 32 + 2 * 2 ^ 20) none with started := false }] [(0, flat 0x2000 5 64 4), (1, flat 0x3000 5 64 4), (2, flat 0x4000 5 64 4)] with phase := .issued }, { OpRun.ofSlot 2 (65 * 2 ^ 56 + 1 * 2 ^ 32 + 2 * 2 ^ 20) none with started := false }, bun [(2, 65 * 2 ^ 56 + 1 * 2 ^ 32 + 2 * 2 ^ 20)],
    by decide +kernel, by decide +kernel, by decide +kernel, by decide +kernel, by decide +kernel⟩

theorem test_SignalOperationsRunInSteps_has_witness_2 :
    ∃ n : Fin 22, ∃ x : Instr × Nat, ∃ s : State, ∃ w : State, ∃ p : Prog, ∃ o : OpRun, ∃ b : Bundle,
      ∃ res : List (Nat × List Nat), (x ∈ [(Instr.fft n, 0x40), (Instr.resamp n, 0x42), (Instr.env n, 0x43), (Instr.ceps n, 0x44), (Instr.skurt n, 0x45)]) ∧
      ((s.stream n.val).run = some p) ∧ (p.phase = .issued) ∧ (p.bundle = some b) ∧
      (p.ops.find? (fun o => !o.finished && (!o.started && o.opc == x.2)) = some o) ∧ (let o1 : OpRun := { o with
       started := true
       step := 0
       nsteps := max 1 (sigSteps p o) }
 ((s.takeBank n.val).2.sigCompute n.val p b o1 = (some res, w))) :=
  ⟨12, (Instr.fft 12, 0x40), fftState, fftRun.2, fftProg, fftOp, bun [(2, 0x40 * 2 ^ 56 + 2 * 2 ^ 20 + 2)], fftRun.1.get!,
    by decide +kernel, by decide +kernel, by decide +kernel, by decide +kernel,
    by decide +kernel, show fftRun = (some fftRun.1.get!, fftRun.2) from pair_some fftRun (by decide +kernel)⟩

theorem test_SignalOperationsRunInSteps_has_witness_3 :
    ∃ n : Fin 22, ∃ s : State, ∃ p : Prog, ∃ o : OpRun, ((s.stream n.val).run = some p) ∧ (p.phase = .issued) ∧
      (p.ops.find? (fun o => !o.finished && (o.started && decide (0x40 ≤ o.opc) && decide (o.opc ≤ 0x4B))) = some o) :=
  ⟨12, running (vm) 12 ({ issuedWith 12 (bun [(2, 64 * 2 ^ 56 + 1 * 2 ^ 32 + 2 * 2 ^ 20)]) [{ OpRun.ofSlot 2 (64 * 2 ^ 56 + 1 * 2 ^ 32 + 2 * 2 ^ 20) none with started := true }] [(0, flat 0x2000 5 64 4), (1, flat 0x3000 5 64 4), (2, flat 0x4000 5 64 4)] with phase := .issued }), { issuedWith 12 (bun [(2, 64 * 2 ^ 56 + 1 * 2 ^ 32 + 2 * 2 ^ 20)]) [{ OpRun.ofSlot 2 (64 * 2 ^ 56 + 1 * 2 ^ 32 + 2 * 2 ^ 20) none with started := true }] [(0, flat 0x2000 5 64 4), (1, flat 0x3000 5 64 4), (2, flat 0x4000 5 64 4)] with phase := .issued }, { OpRun.ofSlot 2 (64 * 2 ^ 56 + 1 * 2 ^ 32 + 2 * 2 ^ 20) none with started := true },
    by decide +kernel, by decide +kernel, by decide +kernel⟩

theorem test_SignalOperationsRunInSteps_has_witness_4 :
    ∃ n : Fin 22, ∃ s : State, ∃ p : Prog, ∃ o : OpRun, ((s.stream n.val).run = some p) ∧ (p.phase = .issued) ∧
      (p.ops.find? (fun o => !o.finished && (o.started && decide (0x40 ≤ o.opc) && decide (o.opc ≤ 0x4B))) = some o) ∧ (sigStaged o.opc = true) ∧
      (o.step + 1 ≠ o.nsteps) :=
  ⟨12, running (vm) 12 ({ issuedWith 12 (bun [(2, 64 * 2 ^ 56 + 1 * 2 ^ 32 + 2 * 2 ^ 20)]) [{ OpRun.ofSlot 2 (64 * 2 ^ 56 + 1 * 2 ^ 32 + 2 * 2 ^ 20) none with started := true, nsteps := 2 }] [(0, flat 0x2000 5 64 4), (1, flat 0x3000 5 64 4), (2, flat 0x4000 5 64 4)] with phase := .issued }), { issuedWith 12 (bun [(2, 64 * 2 ^ 56 + 1 * 2 ^ 32 + 2 * 2 ^ 20)]) [{ OpRun.ofSlot 2 (64 * 2 ^ 56 + 1 * 2 ^ 32 + 2 * 2 ^ 20) none with started := true, nsteps := 2 }] [(0, flat 0x2000 5 64 4), (1, flat 0x3000 5 64 4), (2, flat 0x4000 5 64 4)] with phase := .issued }, { OpRun.ofSlot 2 (64 * 2 ^ 56 + 1 * 2 ^ 32 + 2 * 2 ^ 20) none with started := true, nsteps := 2 },
    by decide +kernel, by decide +kernel, by decide +kernel, by decide +kernel, by decide +kernel⟩

theorem test_SignalOperationsRunInSteps_has_witness_5 :
    ∃ n : Fin 22, ∃ s : State, ∃ p : Prog, ∃ o : OpRun, ((s.stream n.val).run = some p) ∧ (p.phase = .issued) ∧
      (p.ops.find? (fun o => !o.finished && (o.started && decide (0x40 ≤ o.opc) && decide (o.opc ≤ 0x4B))) = some o) ∧
      ∃ u, (sigStaged o.opc = true) ∧ (o.step + 1 = o.nsteps) ∧ (s.sigWrite n.val p o (sigHeld o) = (none, u)) :=
  ⟨12, running (vm) 12 ({ issuedWith 12 (bun [(2, 64 * 2 ^ 56 + 1 * 2 ^ 32 + 2 * 2 ^ 20)]) [{ OpRun.ofSlot 2 (64 * 2 ^ 56 + 1 * 2 ^ 32 + 2 * 2 ^ 20) none with started := true, staged := [(2, 0, [1, 0, 0, 0])] }] [(0, flat 0x2000 5 64 4), (1, flat 0x3000 5 64 4), (2, flat 0x4000 5 64 4)] with phase := .issued }), { issuedWith 12 (bun [(2, 64 * 2 ^ 56 + 1 * 2 ^ 32 + 2 * 2 ^ 20)]) [{ OpRun.ofSlot 2 (64 * 2 ^ 56 + 1 * 2 ^ 32 + 2 * 2 ^ 20) none with started := true, staged := [(2, 0, [1, 0, 0, 0])] }] [(0, flat 0x2000 5 64 4), (1, flat 0x3000 5 64 4), (2, flat 0x4000 5 64 4)] with phase := .issued }, { OpRun.ofSlot 2 (64 * 2 ^ 56 + 1 * 2 ^ 32 + 2 * 2 ^ 20) none with started := true, staged := [(2, 0, [1, 0, 0, 0])] },
    by decide +kernel, by decide +kernel,
    by decide +kernel, ((running (vm) 12 ({ issuedWith 12 (bun [(2, 64 * 2 ^ 56 + 1 * 2 ^ 32 + 2 * 2 ^ 20)]) [{ OpRun.ofSlot 2 (64 * 2 ^ 56 + 1 * 2 ^ 32 + 2 * 2 ^ 20) none with started := true, staged := [(2, 0, [1, 0, 0, 0])] }] [(0, flat 0x2000 5 64 4), (1, flat 0x3000 5 64 4), (2, flat 0x4000 5 64 4)] with phase := .issued })).sigWrite 12 ({ issuedWith 12 (bun [(2, 64 * 2 ^ 56 + 1 * 2 ^ 32 + 2 * 2 ^ 20)]) [{ OpRun.ofSlot 2 (64 * 2 ^ 56 + 1 * 2 ^ 32 + 2 * 2 ^ 20) none with started := true, staged := [(2, 0, [1, 0, 0, 0])] }] [(0, flat 0x2000 5 64 4), (1, flat 0x3000 5 64 4), (2, flat 0x4000 5 64 4)] with phase := .issued }) ({ OpRun.ofSlot 2 (64 * 2 ^ 56 + 1 * 2 ^ 32 + 2 * 2 ^ 20) none with started := true, staged := [(2, 0, [1, 0, 0, 0])] }) (sigHeld { OpRun.ofSlot 2 (64 * 2 ^ 56 + 1 * 2 ^ 32 + 2 * 2 ^ 20) none with started := true, staged := [(2, 0, [1, 0, 0, 0])] })).2,
    by decide +kernel, by decide +kernel, by decide +kernel⟩

theorem test_SignalOperationsRunInSteps_has_witness_6 :
    ∃ n : Fin 22, ∃ s : State, ∃ p : Prog, ∃ o : OpRun, ((s.stream n.val).run = some p) ∧ (p.phase = .issued) ∧
      (p.ops.find? (fun o => !o.finished && (o.started && decide (0x40 ≤ o.opc) && decide (o.opc ≤ 0x4B))) = some o) ∧ ∃ b, ∃ res, ∃ u,
      ∃ w, (sigStaged o.opc = false) ∧ (p.bundle = some b) ∧ (s.sigCompute n.val p b o = (some res, u)) ∧
      (u.sigWrite n.val p o (sigBlock p o.step res) = (none, w)) :=
  ⟨12, running (vm) 12 ({ issuedWith 12 (bun [(2, 73 * 2 ^ 56 + 2 * 2 ^ 20)]) [{ OpRun.ofSlot 2 (73 * 2 ^ 56 + 2 * 2 ^ 20) none with started := true }] [(0, flat 0x2000 9 4 4), (2, flat 0x4000 5 1 4)] with phase := .issued }), { issuedWith 12 (bun [(2, 73 * 2 ^ 56 + 2 * 2 ^ 20)]) [{ OpRun.ofSlot 2 (73 * 2 ^ 56 + 2 * 2 ^ 20) none with started := true }] [(0, flat 0x2000 9 4 4), (2, flat 0x4000 5 1 4)] with phase := .issued }, { OpRun.ofSlot 2 (73 * 2 ^ 56 + 2 * 2 ^ 20) none with started := true },
    by decide +kernel, by decide +kernel,
    by decide +kernel, bun [(2, 73 * 2 ^ 56 + 2 * 2 ^ 20)], ((running (vm) 12 ({ issuedWith 12 (bun [(2, 73 * 2 ^ 56 + 2 * 2 ^ 20)]) [{ OpRun.ofSlot 2 (73 * 2 ^ 56 + 2 * 2 ^ 20) none with started := true }] [(0, flat 0x2000 9 4 4), (2, flat 0x4000 5 1 4)] with phase := .issued })).sigCompute 12 ({ issuedWith 12 (bun [(2, 73 * 2 ^ 56 + 2 * 2 ^ 20)]) [{ OpRun.ofSlot 2 (73 * 2 ^ 56 + 2 * 2 ^ 20) none with started := true }] [(0, flat 0x2000 9 4 4), (2, flat 0x4000 5 1 4)] with phase := .issued }) (bun [(2, 73 * 2 ^ 56 + 2 * 2 ^ 20)]) { OpRun.ofSlot 2 (73 * 2 ^ 56 + 2 * 2 ^ 20) none with started := true }).1.get!, ((running (vm) 12 ({ issuedWith 12 (bun [(2, 73 * 2 ^ 56 + 2 * 2 ^ 20)]) [{ OpRun.ofSlot 2 (73 * 2 ^ 56 + 2 * 2 ^ 20) none with started := true }] [(0, flat 0x2000 9 4 4), (2, flat 0x4000 5 1 4)] with phase := .issued })).sigCompute 12 ({ issuedWith 12 (bun [(2, 73 * 2 ^ 56 + 2 * 2 ^ 20)]) [{ OpRun.ofSlot 2 (73 * 2 ^ 56 + 2 * 2 ^ 20) none with started := true }] [(0, flat 0x2000 9 4 4), (2, flat 0x4000 5 1 4)] with phase := .issued }) (bun [(2, 73 * 2 ^ 56 + 2 * 2 ^ 20)]) { OpRun.ofSlot 2 (73 * 2 ^ 56 + 2 * 2 ^ 20) none with started := true }).2, (((running (vm) 12 ({ issuedWith 12 (bun [(2, 73 * 2 ^ 56 + 2 * 2 ^ 20)]) [{ OpRun.ofSlot 2 (73 * 2 ^ 56 + 2 * 2 ^ 20) none with started := true }] [(0, flat 0x2000 9 4 4), (2, flat 0x4000 5 1 4)] with phase := .issued })).sigCompute 12 ({ issuedWith 12 (bun [(2, 73 * 2 ^ 56 + 2 * 2 ^ 20)]) [{ OpRun.ofSlot 2 (73 * 2 ^ 56 + 2 * 2 ^ 20) none with started := true }] [(0, flat 0x2000 9 4 4), (2, flat 0x4000 5 1 4)] with phase := .issued }) (bun [(2, 73 * 2 ^ 56 + 2 * 2 ^ 20)]) { OpRun.ofSlot 2 (73 * 2 ^ 56 + 2 * 2 ^ 20) none with started := true }).2.sigWrite 12 ({ issuedWith 12 (bun [(2, 73 * 2 ^ 56 + 2 * 2 ^ 20)]) [{ OpRun.ofSlot 2 (73 * 2 ^ 56 + 2 * 2 ^ 20) none with started := true }] [(0, flat 0x2000 9 4 4), (2, flat 0x4000 5 1 4)] with phase := .issued }) { OpRun.ofSlot 2 (73 * 2 ^ 56 + 2 * 2 ^ 20) none with started := true } (sigBlock ({ issuedWith 12 (bun [(2, 73 * 2 ^ 56 + 2 * 2 ^ 20)]) [{ OpRun.ofSlot 2 (73 * 2 ^ 56 + 2 * 2 ^ 20) none with started := true }] [(0, flat 0x2000 9 4 4), (2, flat 0x4000 5 1 4)] with phase := .issued }) 0 ((running (vm) 12 ({ issuedWith 12 (bun [(2, 73 * 2 ^ 56 + 2 * 2 ^ 20)]) [{ OpRun.ofSlot 2 (73 * 2 ^ 56 + 2 * 2 ^ 20) none with started := true }] [(0, flat 0x2000 9 4 4), (2, flat 0x4000 5 1 4)] with phase := .issued })).sigCompute 12 ({ issuedWith 12 (bun [(2, 73 * 2 ^ 56 + 2 * 2 ^ 20)]) [{ OpRun.ofSlot 2 (73 * 2 ^ 56 + 2 * 2 ^ 20) none with started := true }] [(0, flat 0x2000 9 4 4), (2, flat 0x4000 5 1 4)] with phase := .issued }) (bun [(2, 73 * 2 ^ 56 + 2 * 2 ^ 20)]) { OpRun.ofSlot 2 (73 * 2 ^ 56 + 2 * 2 ^ 20) none with started := true }).1.get!)).2,
    by decide +kernel, by decide +kernel, by decide +kernel, by decide +kernel⟩

theorem test_SignalOperationsRunInSteps_has_witness_7 :
    ∃ s : State, ∃ n : Nat, ∃ f : Nat, ∃ a : Nat, (n < 16) ∧
      (s.acq.builds.find? (fun b => !(s.acqStream b.1).flight.any (fun l => l.buf == some (s.back b.1))) = some (n, f, a)) :=
  ⟨{ on with acq := { on.acq with builds := [(3, 1, 2)] } }, 3, 1, 2, by decide +kernel, by decide +kernel⟩

/-- Concrete states and operands that meet the hypotheses of `Obligations.SamplesReachTheirWindows`, clause by clause. -/
theorem test_SamplesReachTheirWindows_has_witnesses :
    (∃ c : Fin 96, ∃ t : DWord, ∃ code : Word, ∃ fault : Bool, ∃ s : State, (c.val < 18 ∨ 94 ≤ c.val) ∧
      (chanOn c.val (s.cfgAt c.val t.toNat) = true) ∧ (t.toNat % chanPeriod c.val (s.cfgAt c.val t.toNat) = 0) ∧ (s.frontEnds = true)) ∧
    (∃ k : Fin 4, ∃ t : DWord, ∃ s : State, (chanOn (18 + k.val) (s.cfgAt (18 + k.val) t.toNat) = true) ∧ (s.acqDown = false) ∧
      (s.frontEnds = true) ∧ ((s.chan (18 + k.val)).lastEdge = 0 ∨ (s.chan (18 + k.val)).lastEdge - 1 + 2000 ≤ t.toNat)) ∧
    (∃ k : Fin 8, ∃ t : DWord, ∃ v : Word, ∃ ohm : Word, ∃ s : State, (chanOn (22 + k.val) (s.cfgAt (22 + k.val) t.toNat) = true) ∧
      (t.toNat % 1000000 = 0) ∧ (s.frontEnds = true)) ∧
    (∃ p : Fin 4, ∃ t : DWord, ∃ words : List Word, ∃ s : State, (let v := s.cfgAt (30 + 16 * p.val) t.toNat
 (bits v 0 2 = 1 ∨ bits v 0 2 = 2) ∧ (t.toNat % (20480 * 2 ^ bits v 4 2) = 0) ∧ (s.frontEnds = true))) ∧
    (∃ i : Fin 16, ∃ mv : Half, ∃ s : State, (s.fget F.ACQ_VCH_CFG_MODE i.val = 1) ∧ (s.frontEnds = true) ∧ (s.fget F.ACQ_BIASTH_HI < mv.toNat) ∧
      (s.fget F.ACQ_BIASTH_LO ≤ mv.toNat)) ∧
    (∃ i : Fin 16, ∃ s : State, (s.flag F.ACQ_VCH_STAT_SETTLING i.val = true) ∧ ((s.chan i.val).okFrom ≠ 0) ∧
      ((s.chan i.val).okFrom - 1 + s.fget F.ACQ_BSETTLE_MS * 1000000 ≤ s.now)) ∧
    (∃ r : Req, ∃ n : Fin 16, ∃ v : Word, ∃ s : State, (s.homeReq r) ∧ (s.acq.live = true) ∧ (s.acqRuns n.val = false) ∧
      ((s.acqStream n.val).hasDef = true) ∧ (((List.range 16).any (fun m => m != n.val && s.acqRuns m &&
      s.fget F.ACQ_ST_REGION_CR m == s.fget F.ACQ_ST_REGION_CR n.val)) = false)) ∧
    (∃ r : Req, ∃ n : Fin 16, ∃ v : Word, ∃ s : State, (s.homeReq r) ∧ (s.acq.live = true) ∧ (s.acqRuns n.val = true)) ∧
    (∃ n : Fin 16, ∃ s : State, ∃ w : Window, (let x := s.acqStream n.val
 (let tc := w.opn + s.fget F.ACQ_ST_PERIOD_CYCLES n.val
  (x.wins.getLast? = some w) ∧ (s.acqRuns n.val = true) ∧ (w.close = none) ∧ (w.start ≠ none) ∧ (tc ≤ s.now) ∧
    (s.flag F.ACQ_ST_STAT_STOPPING n.val = false)))) ∧
    (∃ n : Fin 16, ∃ s : State, ∃ w : Window, ∃ rest : List Window, ∃ close : Nat, ∃ start : Nat, ((s.acqStream n.val).wins = w :: rest) ∧
      (w.close = some close) ∧ (w.start = some start)) :=
  ⟨⟨95, 0, 0, false, on, by decide +kernel, by decide +kernel, by decide +kernel, by decide +kernel⟩,
   ⟨3, 0, on.setChan 21 { Chan.fresh with cfg := [(0, 1)] }, by decide +kernel, by decide +kernel, by decide +kernel, by decide +kernel⟩,
   ⟨7, 1000000, 0, 0, on.setChan 29 { Chan.fresh with cfg := [(0, 1)] }, by decide +kernel, by decide +kernel, by decide +kernel⟩,
   ⟨3, 0, [], on.setChan 78 { Chan.fresh with cfg := [(0, 2)] }, by decide +kernel, by decide +kernel, by decide +kernel⟩,
   ⟨15, 65535, on.fset F.ACQ_VCH_CFG_MODE 1 15, by decide +kernel, by decide +kernel, by decide +kernel, by decide +kernel⟩,
   ⟨15, (on.setFlag F.ACQ_VCH_STAT_SETTLING true 15).setChan 15 { Chan.fresh with okFrom := 1 }, by decide +kernel, by decide +kernel,
     by decide +kernel⟩,
   ⟨.core 0, 15, 1, ({ on with acq := { on.acq with live := true } } : State).setAcq 15 { AcqStream.fresh with hasDef := true },
     by decide +kernel, by decide +kernel, by decide +kernel, by decide +kernel, by decide +kernel⟩,
   ⟨.core 0, 15, 0, ({ on with acq := { on.acq with live := true } } : State).setFlag F.ACQ_ST_STAT_RUN true 15, by decide +kernel,
     by decide +kernel, by decide +kernel⟩,
   ⟨15, (on.setFlag F.ACQ_ST_STAT_RUN true 15).setAcq 15 { AcqStream.fresh with wins := [⟨0, none, 0, true, false, false, 0, some 0, 4096, [], 4096, [], [], [], 0, false, 0, false⟩] }, ⟨0, none, 0, true, false, false, 0, some 0, 4096, [], 4096, [], [], [], 0, false, 0, false⟩,
     by decide +kernel, by decide +kernel, by decide +kernel, by decide +kernel, by decide +kernel, by decide +kernel⟩,
   ⟨15, (on.setFlag F.ACQ_ST_STAT_RUN true 15).setAcq 15 { AcqStream.fresh with wins := [⟨0, some 9, 0, true, false, false, 0, some 0, 4096, [], 4096, [], [], [], 0, false, 0, false⟩] }, ⟨0, some 9, 0, true, false, false, 0, some 0, 4096, [], 4096, [], [], [], 0, false, 0, false⟩, [], 9, 0,
     by decide +kernel, by decide +kernel, by decide +kernel⟩⟩

/-- Concrete states and operands that meet the hypotheses of `Obligations.StorageEntriesAndWindowReads`, clause by clause. -/
theorem test_StorageEntriesAndWindowReads_has_witnesses :
    (∃ x : Instr × Nat, ∃ s : State, (x ∈ [(Instr.stoRead, 1), (.stoProgram, 2), (.stoErase, 3), (.stoRelocate, 4), (.stoCounts, 5)]) ∧
      (s.flag F.STO_RINGCFG_EN = true) ∧ (s.fget F.STO_TAIL_INDEX ≠ s.fget F.STO_HEAD_INDEX) ∧ (s.fget F.PWR_STAT_STATE = 0) ∧
      (let i := s.fget F.STO_TAIL_INDEX
 (let b := s.load (s.stoSlot i) 64
  (leAt b 0 1 = x.2) ∧ (s.fget F.STO_TAIL_INDEX ≤ s.fget F.STO_RINGCFG_SIZEM1) ∧ (stoRefusal b = none)))) ∧
    (∃ x : Instr × Nat, ∃ s : State, (x ∈ [(Instr.stoRead, 1), (.stoProgram, 2), (.stoErase, 3), (.stoRelocate, 4), (.stoCounts, 5)]) ∧
      (s.flag F.STO_RINGCFG_EN = true) ∧ (s.fget F.STO_TAIL_INDEX ≠ s.fget F.STO_HEAD_INDEX) ∧ (s.fget F.PWR_STAT_STATE = 0) ∧
      (let i := s.fget F.STO_TAIL_INDEX
 (let b := s.load (s.stoSlot i) 64
  (leAt b 0 1 = x.2) ∧ (s.fget F.STO_TAIL_INDEX ≤ s.fget F.STO_RINGCFG_SIZEM1) ∧ ∃ st, (stoRefusal b = some st)))) ∧
    (∃ s : State, ∃ e : StoEntry, ∃ fuel : Nat, (e.op = 3) ∧ (e.doneCnt < e.count) ∧ (s.bankStopped e.bank = false) ∧ (e.bank < 32) ∧
      ((s.sto.sector e.sectorNow).state ≠ 2) ∧ ((s.sto.sector e.sectorNow).state ≠ 3) ∧ ((s.sto.sector e.sectorNow).count < s.wearLimit)) ∧
    (∃ k : Fin 32, ∃ s : State, ∃ u : State, ∃ e : StoEntry, ∃ m : PageMap, (s.sto.current k.val = some e) ∧ (e.op = 1) ∧
      (e.doneCnt + 4096 < e.count) ∧ ((∀ i, i < 512 → s.sto.err ((e.saddr + e.doneCnt) / 8 + i) < 3 ∧
      (s.sto.sector ((e.saddr + e.doneCnt + 8 * i) / 4096)).state ≠ 3)) ∧
      (s.translatePages 0x20 (s.fget F.STO_RINGCFG_CTX) ((pagesOf (e.maddr + e.doneCnt) 4096).map (fun v => (v, Acc3.write))) [] =
      (.ok m, u))) ∧
    (∃ k : Fin 32, ∃ s : State, ∃ v : State, ∃ e : StoEntry, ∃ m : PageMap, (s.sto.current k.val = some e) ∧ (e.op = 2) ∧ (e.started = true) ∧
      ((s.setBusy k.val false).translatePages 0x20 (s.fget F.STO_RINGCFG_CTX) [((e.maddr + 8 * e.doneCnt) / 4096, .read)] [] = (.ok m, v))) ∧
    (∃ k : Fin 32, ∃ s : State, ∃ e : StoEntry, (s.sto.current k.val = some e) ∧ (e.op = 3) ∧ (e.started = true)) ∧
    (∃ r : Req, ∃ a : Addr, ∃ wide : Bool, ∃ worst : Fin 4, ∃ s : State, ∃ k : Nat, (s.loc a.toNat = .store k) ∧ (worst.val < 3) ∧
      (let w := if wide then 256 else 8
 (let o := (a.toNat - 0x1000000000) / w * w
  ((wide && usesWbm r && s.fget F.MEM_WBMCACHE_SIZE != 0) = false) ∧
    (s.windowCheck false ((List.range (w / 8)).map (fun i => o + 8 * i)) = .ok)))) ∧
    (∃ k : Fin 32, ∃ s : State, ∃ d : Nat × Nat, (s.sto.dirtySpares.find? (fun x => x.1 == k.val) = some d) ∧ (s.bankBusy k.val = false) ∧
      (s.sto.active.any (fun e => e.bank == k.val) = false)) ∧
    (∃ k : Fin 32, ∃ s : State, ∃ d : Nat × Nat, (s.sto.dirtySpares.find? (fun x => x.1 == k.val) = some d) ∧ (s.bankBusy k.val = true) ∧
      (s.flag F.STO_STAT_CLEANUP = true) ∧ (s.sto.active = [])) ∧
    (∃ r : Req, ∃ v : Word, ∃ s : State, (s.homeReq r)) :=
  ⟨⟨(.stoRead, 1), ((((on.rset R.STO_RINGBASE 0x100006).setFlag F.STO_RINGCFG_EN true).fset F.STO_HEAD_INDEX 1).store 0x0100006000 ([1, 0, 0, 0] ++ leBytes 4 4096 ++ leBytes 8 0 ++ leBytes 8 0x2000)),
    by decide +kernel, by decide +kernel, by decide +kernel, by decide +kernel, by decide +kernel, by decide +kernel, by decide +kernel⟩,
   ⟨(.stoErase, 3), ((((on.rset R.STO_RINGBASE 0x100006).setFlag F.STO_RINGCFG_EN true).fset F.STO_HEAD_INDEX 1).store 0x0100006000 ([3, 0, 0, 0] ++ leBytes 4 0)),
     by decide +kernel, by decide +kernel, by decide +kernel, by decide +kernel, by decide +kernel, by decide +kernel, 0x11, by decide +kernel⟩,
   ⟨on.fset F.STO_WEARLIM_LIMIT 100000, ⟨0, 3, 0, 1, 0, 0x2000, 0, 0, 0, 0, 0, false, false⟩, 1, by decide +kernel, by decide +kernel,
     by decide +kernel, by decide +kernel, by decide +kernel, by decide +kernel, by decide +kernel⟩,
   ⟨0, { vm with sto := { Storage.fresh with active := [⟨0, 1, 0, 8192, 0, 0x2000, 0, 0, 0, 0, 0, false, false⟩] } }, (({ vm with sto := { Storage.fresh with active := [⟨0, 1, 0, 8192, 0, 0x2000, 0, 0, 0, 0, 0, false, false⟩] } } : State).translatePages 0x20 0 [(2, .write)] []).2, ⟨0, 1, 0, 8192, 0, 0x2000, 0, 0, 0, 0, 0, false, false⟩, [(2, .write, .page 0x100002)],
     by decide +kernel, by decide +kernel, by decide +kernel, by decide +kernel, by decide +kernel⟩,
   ⟨0, { vm with sto := { Storage.fresh with active := [⟨0, 2, 0, 1, 0, 0x2000, 0, 0, 0, 0, 0, true, false⟩] } }, ((({ vm with sto := { Storage.fresh with active := [⟨0, 2, 0, 1, 0, 0x2000, 0, 0, 0, 0, 0, true, false⟩] } } : State).setBusy 0 false).translatePages 0x20 0 [(2, .read)] []).2, ⟨0, 2, 0, 1, 0, 0x2000, 0, 0, 0, 0, 0, true, false⟩, [(2, .read, .page 0x100002)],
     by decide +kernel, by decide +kernel, by decide +kernel, by decide +kernel⟩,
   ⟨0, { on with sto := { Storage.fresh with active := [⟨0, 3, 0, 1, 0, 0x2000, 0, 0, 0, 0, 0, true, false⟩] } }, ⟨0, 3, 0, 1, 0, 0x2000, 0, 0, 0, 0, 0, true, false⟩,
     by decide +kernel, by decide +kernel, by decide +kernel⟩,
   ⟨.core 0, 0x10FFFFFFF8#40, false, 2, on, 31, by decide +kernel, by decide +kernel, by decide +kernel, by decide +kernel⟩,
   ⟨31, { on with sto := { Storage.fresh with dirtySpares := [(31, 4)] } }, (31, 4), by decide +kernel, by decide +kernel, by decide +kernel⟩,
   ⟨31, (({ on with sto := { Storage.fresh with dirtySpares := [(31, 4)] } } : State).setBusy 31 true).setFlag F.STO_STAT_CLEANUP true, (31, 4), by decide +kernel,
     by decide +kernel, by decide +kernel, by decide +kernel⟩,
   ⟨.core 0, 0, on, by decide +kernel⟩⟩

/-- Concrete states and operands that meet the hypotheses of `Obligations.LedgerTicksRecordsAndSnapshots`, clause by clause. -/
theorem test_LedgerTicksRecordsAndSnapshots_has_witnesses :
    (∃ s : State, (s.ledgerOn = false ∨ s.tickNow ≤ s.ledger.lastTick)) ∧
    (∃ s : State, (s.ledgerOn = true) ∧ (s.ledger.lastTick < s.tickNow)) ∧
    (∃ s : State, ∃ r : LedgerRec, ∃ rest : List LedgerRec, ∃ k : Nat, (s.ledger.recs = r :: rest) ∧ (r.slot = some k) ∧ (8 ≤ r.words)) ∧
    (∃ s : State, ∃ r : LedgerRec, ∃ k : Nat, (s.portOpen false = true) ∧
      (s.ledger.recs.find? (fun r => r.slot.isSome && r.words < 8) = some r) ∧ (r.slot = some k) ∧ (s.sectorUsable (k / 64) = true) ∧
      (let w := if r.words < 7 then r.words + 1 else 0
 (let o := 0xD0000000 + 64 * k + 8 * w
  (s.sto.blank (o / 8) = true)))) ∧
    (∃ s : State, ∃ j : Nat × Nat × Nat, (s.portOpen true = true) ∧ (s.ledger.jobs.find? (fun j => decide (j.2.1 < 0xD8000000)) = some j) ∧
      (let x := s.sto.sector (secOf j.2.1)
 (x.state ≠ 2) ∧ (x.state ≠ 3) ∧ (x.count < s.wearLimit))) ∧
    (∃ s : State, (s.ledgerOn = true) ∧ (s.ledger.snapNow = true ∨ s.ledger.snapDue ≤ s.tickNow)) ∧
    (∃ r : Req, ∃ v : Word, ∃ s : State, (s.homeReq r) ∧ (bit v.toNat 2 = false)) ∧
    (∃ r : Req, ∃ v : Word, ∃ s : State, (s.reqOn r = true) ∧ (s.ctxEnabled (s.ctxOf r) = true) ∧ (s.ctxOf r = 0 ∨ s.agentHolds r 0 = true)) ∧
    (∃ r : Req, ∃ v : Word, ∃ s : State, (s.homeReq r) ∧ (bit v.toNat 0 = true) ∧ (s.flag F.LDG_STAT_KEYSET = false)) ∧
    (∃ r : Req, ∃ v : Word, ∃ s : State, (s.homeReq r) ∧ (s.flag F.LDG_STAT_KEYSET = true)) ∧
    (∃ s : State, ∃ c : Card, (s.events.draining = none) ∧ (s.portOpen false = true) ∧ (s.events.next = some c)) :=
  ⟨⟨on, by decide +kernel⟩,
   ⟨{ on with ledger := { Ledger.fresh with begun := true } }, by decide +kernel, by decide +kernel⟩,
   ⟨{ on with ledger := { Ledger.fresh with recs := [⟨List.replicate 64 0, some 63, 8⟩] } }, ⟨List.replicate 64 0, some 63, 8⟩, [], 63,
     by decide +kernel, by decide +kernel, by decide +kernel⟩,
   ⟨{ on with ledger := { Ledger.fresh with recs := [⟨List.replicate 64 0, some 63, 7⟩] } }, ⟨List.replicate 64 0, some 63, 7⟩, 63,
     by decide +kernel, by decide +kernel, by decide +kernel, by decide +kernel, by decide +kernel⟩,
   ⟨{ (on.fset F.STO_WEARLIM_LIMIT 100000) with ledger := { Ledger.fresh with jobs := [(0, 0xD0000000, 0)] } }, (0, 0xD0000000, 0),
     by decide +kernel, by decide +kernel, by decide +kernel, by decide +kernel, by decide +kernel⟩,
   ⟨{ on with ledger := { Ledger.fresh with begun := true, snapNow := true } }, by decide +kernel, by decide +kernel⟩,
   ⟨.core 0, 0, on, by decide +kernel, by decide +kernel⟩,
   ⟨.core 0, 0, on, by decide +kernel, by decide +kernel, by decide +kernel⟩,
   ⟨.core 0, 1, on, by decide +kernel, by decide +kernel, by decide +kernel⟩,
   ⟨.core 0, 1, on.setFlag F.LDG_STAT_KEYSET true, by decide +kernel, by decide +kernel⟩,
   ⟨{ on with events := { EventRing.fresh with cards := [⟨true, 0, []⟩] } }, ⟨true, 0, []⟩, by decide +kernel, by decide +kernel,
     by decide +kernel⟩⟩

/-- Concrete states and operands that meet the hypotheses of `Obligations.SafetyFunctionsTripWarnAndReset`, clause by clause. -/
theorem test_SafetyFunctionsTripWarnAndReset_has_witnesses :
    (∃ s : State, ∃ c : Instr, ∃ f : SafeFn, ∃ v : Word, ∃ clear : Nat,
      ∃ cond : Bool, ((∃ (e : Fin 16) (bias : Half) (limit : Bool), c = .vibrationSeverityEval e v bias limit ∧
      s.safe.fns.find? (fun f => f.kind == 1 && f.entry == e.val) = some f ∧ clear = fmul 0x3F733333 f.warnAt ∧
      cond = (let mode := s.fget F.ACQ_VCH_CFG_MODE (leAt f.bytes 0 1)
              mode == 0 || (mode == 1 && (decide (bias.toNat < 1000) || decide (22000 < bias.toNat))) || (decide (2 ≤ mode) && limit))) ∨
    (∃ (e : Fin 8) (ohm : Word), c = .temperatureEval e v ohm ∧ s.safe.fns.find? (fun f => f.kind == 3 && f.entry == e.val) = some f ∧
      clear = fsub f.warnAt 0x40000000 ∧ cond = (s.fget F.ACQ_SL_CFG_MODE (leAt f.bytes 0 1) != 2 || decide (400000 < ohm.toNat) ||
        decide (ohm.toNat < 15000)))) ∧ (s.fnsRun = true)) ∧
    (∃ k : Fin 4, ∃ tm : DWord, ∃ s : State, ∃ u : State, (s.fnsRun = true) ∧ ((let l := Sparse.get (fun _ => []) s.safe.edges k.val
     u = s.setSafe { s.safe with edges := Sparse.put (fun _ => []) s.safe.edges k.val (tm.toNat :: l.take 1024) })) ∧
       (s.safe.fns.filter (fun f => f.kind == 2 && (leAt f.bytes 0 1 == k.val || leAt f.bytes 1 1 == k.val)) = [])) ∧
    (∃ k : Fin 4, ∃ tm : DWord, ∃ s : State, ∃ u : State, (s.fnsRun = true) ∧ ((let l := Sparse.get (fun _ => []) s.safe.edges k.val
     u = s.setSafe { s.safe with edges := Sparse.put (fun _ => []) s.safe.edges k.val (tm.toNat :: l.take 1024) })) ∧
       ∃ f, (s.safe.fns.filter (fun f => f.kind == 2 && (leAt f.bytes 0 1 == k.val || leAt f.bytes 1 1 == k.val)) = [f]) ∧ (f.entry < 4) ∧
       (leAt f.bytes 1 1 = 0xFF)) ∧
    (∃ host : Option (Fin 4), ∃ s : State, (let src := leAt s.safe.params 5 1
 (let mine := match host with
        | none => bit src 3
        | some h => bit src 4 && bits src 5 2 == h.val
  (s.fnsRun = false ∨ mine = false)))) ∧
    (∃ host : Option (Fin 4), ∃ s : State, (let src := leAt s.safe.params 5 1
 (let mine := match host with
        | none => bit src 3
        | some h => bit src 4 && bits src 5 2 == h.val
  (s.fnsRun = true) ∧ (mine = true) ∧ ((∀ n, n < 4 → bit (s.fget F.SAFE_STAT_OUTFLT) n = true → s.outClean n = true)) ∧
    ((∀ f, f ∈ s.safe.fns → bit (s.rget R.SAFE_TRIP) f.bit = true → f.above = false ∧
           (s.safe.sensTrip = false ∨ bit (s.rget R.SAFE_SENSF) f.bit = false)))))) ∧
    (∃ host : Option (Fin 4), ∃ s : State, (let src := leAt s.safe.params 5 1
 (let mine := match host with
        | none => bit src 3
        | some h => bit src 4 && bits src 5 2 == h.val
  (s.fnsRun = true) ∧ (mine = true) ∧ ∃ f, (f ∈ s.safe.fns) ∧ (f.bit < 32) ∧ (bit (s.rget R.SAFE_TRIP) f.bit = true) ∧ (f.above = true)))) :=
  ⟨⟨{ (on.fset F.SAFE_STAT_STATE 1) with safe := { Safe.fresh with fns := [⟨1, 15, List.replicate 16 0, 0, 0, 0, false⟩] } }, .vibrationSeverityEval 15 0 0 false, ⟨1, 15, List.replicate 16 0, 0, 0, 0, false⟩, 0, fmul 0x3F733333 0, true, .inl ⟨15, 0, false, rfl,
    by decide +kernel, by decide +kernel, by decide +kernel⟩, by decide +kernel⟩,
   ⟨3, 7, on.fset F.SAFE_STAT_STATE 1, (on.fset F.SAFE_STAT_STATE 1).setSafe { (on.fset F.SAFE_STAT_STATE 1).safe with edges := Sparse.put (fun _ => []) (on.fset F.SAFE_STAT_STATE 1).safe.edges 3 [7] },
     by decide +kernel, by decide +kernel, by decide +kernel⟩,
   ⟨3, 7, { (on.fset F.SAFE_STAT_STATE 1) with safe := { Safe.fresh with fns := [⟨2, 3, [3, 0xFF, 0, 0] ++ List.replicate 12 0, 0, 0, 0, false⟩] } }, ({ (on.fset F.SAFE_STAT_STATE 1) with safe := { Safe.fresh with fns := [⟨2, 3, [3, 0xFF, 0, 0] ++ List.replicate 12 0, 0, 0, 0, false⟩] } } : State).setSafe { ({ (on.fset F.SAFE_STAT_STATE 1) with safe := { Safe.fresh with fns := [⟨2, 3, [3, 0xFF, 0, 0] ++ List.replicate 12 0, 0, 0, 0, false⟩] } } : State).safe with edges := Sparse.put (fun _ => []) ({ (on.fset F.SAFE_STAT_STATE 1) with safe := { Safe.fresh with fns := [⟨2, 3, [3, 0xFF, 0, 0] ++ List.replicate 12 0, 0, 0, 0, false⟩] } } : State).safe.edges 3 [7] },
     by decide +kernel, by decide +kernel, ⟨2, 3, [3, 0xFF, 0, 0] ++ List.replicate 12 0, 0, 0, 0, false⟩, by decide +kernel,
     by decide +kernel, by decide +kernel⟩,
   ⟨none, { (on.fset F.SAFE_STAT_STATE 1) with safe := { Safe.fresh with params := [] } }, by decide +kernel⟩,
   ⟨none, { (on.fset F.SAFE_STAT_STATE 1) with safe := { Safe.fresh with params := [0, 0, 0, 0, 0, 8], fns := [⟨1, 0, List.replicate 16 0, 0, 0, 0, false⟩] } },
     by decide +kernel, by decide +kernel, by decide +kernel, by decide +kernel⟩,
   ⟨none, ({ (on.fset F.SAFE_STAT_STATE 1 : State) with safe := { Safe.fresh with params := [0, 0, 0, 0, 0, 8], fns := [⟨1, 15, List.replicate 16 0, 0, 0, 0, true⟩] } } : State).rset R.SAFE_TRIP (2 ^ (SafeFn.bit ⟨1, 15, List.replicate 16 0, 0, 0, 0, true⟩)),
     by decide +kernel, by decide +kernel, ⟨1, 15, List.replicate 16 0, 0, 0, 0, true⟩, by decide +kernel, by decide +kernel,
     by decide +kernel, by decide +kernel⟩⟩

/-- Concrete states and operands that meet the hypotheses of `Obligations.DiagnosticsEnterDeviceSafeState`, clause by clause. -/
theorem test_DiagnosticsEnterDeviceSafeState_has_witnesses :
    (∃ x : Instr × Nat, ∃ s : State, (x ∈ [(Instr.lockstepMismatch, 1), (.sramScrubPass 0 true, 2), (.proctorWatchdogExpire, 3),
      (.clockMonitorCheck false, 4), (.supplyMonitorTrip 0, 5), (.supplyMonitorTrip 4, 5), (.shadowReferenceTest false, 7),
      (.shadowCoeffCrc false, 8), (.comparatorSelfTest false, 9)]) ∧ (s.diagOn = true) ∧ (s.safe.linkDead = false)) ∧
    (∃ c : Instr, ∃ s : State, (c ∈ [Instr.clockMonitorCheck true, .shadowReferenceTest true, .shadowCoeffCrc true, .comparatorSelfTest true])) ∧
    (∃ n : Half, ∃ s : State, (s.diagOn = true)) ∧
    (∃ k : Fin 6, ∃ s : State, (s.fget F.PWR_STAT_STATE = 6) ∧ (k.val = 1 ∨ k.val = 2 ∨ k.val = 3)) ∧
    (∃ s : State, (s.diagOn = true)) ∧
    (∃ s : State, (s.diagOn = true) ∧ (s.fnsRun = false)) ∧
    (∃ r : Req, ∃ v : Word, ∃ s : State, ∃ c : Nat, (s.reqOn r = true) ∧ (s.ctxOf r = 7) ∧ (s.ctxEnabled 7 = true) ∧ (s.diagOn = true) ∧
      (1 ≤ c) ∧ (c ≤ 11) ∧ (c ≠ 10) ∧ (getField v 1 11 = 2 ^ (c - 1))) ∧
    (∃ r : Req, ∃ v : Word, ∃ s : State, (s.reqOn r = true) ∧ (s.ctxOf r = 7) ∧ (s.ctxEnabled 7 = true) ∧ (s.diagOn = true) ∧
      (getField v 1 11 = 512)) :=
  ⟨⟨(.supplyMonitorTrip 4, 5), on, by decide +kernel, by decide +kernel, by decide +kernel⟩,
   ⟨.clockMonitorCheck true, on, by decide +kernel⟩,
   ⟨0, on, by decide +kernel⟩,
   ⟨3, on.fset F.PWR_STAT_STATE 6, by decide +kernel, by decide +kernel⟩,
   ⟨on, by decide +kernel⟩,
   ⟨on, by decide +kernel, by decide +kernel⟩,
   ⟨.proctor, 2 ^ 11, on, 11, by decide +kernel, by decide +kernel, by decide +kernel, by decide +kernel, by decide +kernel,
     by decide +kernel, by decide +kernel, by decide +kernel⟩,
   ⟨.proctor, 1024, on, by decide +kernel, by decide +kernel, by decide +kernel, by decide +kernel, by decide +kernel⟩⟩

/-- Concrete states and operands that meet the hypotheses of `Obligations.SafeOutputsAndSuspectUnits`, clause by clause. -/
theorem test_SafeOutputsAndSuspectUnits_has_witnesses :
    (∃ n : Fin 4, ∃ vh : Half, ∃ vl : Half, ∃ ma : Half, ∃ limit : Bool, ∃ hs : Bool, ∃ ls : Bool, ∃ moved : Option (Fin 4),
      ∃ s : State, (s.diagOn = true)) ∧
    (∃ n : Fin 4, ∃ s : State, (s.outCmd n.val = true) ∧ (s.diagOn = true) ∧ (s.safe.linkDead = false)) ∧
    (∃ n : Fin 4, ∃ hs : Bool, ∃ ls : Bool, ∃ s : State, (s.outCmd n.val = true) ∧ (s.diagOn = true) ∧ (s.safe.linkDead = false) ∧
      ((hs && ls) = false) ∧ ((s.so n.val).faults.contains 3 = false)) ∧
    (∃ dme : Bool, ∃ ua : Byte, ∃ ub : Byte, ∃ vd : Fin 4, ∃ og : DWord, ∃ s : State, (let k := if dme then 0x100 + ua.toNat % 8 else ua.toNat % 64
 (let x := s.suspect k
  (let l := og.toNat :: x.origins.filter (fun t => decide (og.toNat < t + s.safe.twin * 3600000000000))
   (s.safe.polOff = false) ∧ (s.fnsRun = true) ∧ (x.applied = 0 ∨ og.toNat < x.applied - 1 ∨ x.applied - 1 + 100000 ≤ og.toNat) ∧
     (vd.val = 1 ∨ vd.val = 3) ∧ (l.length < s.safe.tlim))))) ∧
    (∃ dme : Bool, ∃ ua : Byte, ∃ ub : Byte, ∃ vd : Fin 4, ∃ og : DWord, ∃ s : State, (let k := if dme then 0x100 + ua.toNat % 8 else ua.toNat % 64
 (let x := s.suspect k
  (let l := og.toNat :: x.origins.filter (fun t => decide (og.toNat < t + s.safe.twin * 3600000000000))
   (s.safe.polOff = false) ∧ (s.fnsRun = true) ∧ (x.applied = 0 ∨ og.toNat < x.applied - 1 ∨ x.applied - 1 + 100000 ≤ og.toNat) ∧
     (vd.val = 2 ∨ ((vd.val = 1 ∨ vd.val = 3) ∧ s.safe.tlim ≤ l.length)) ∧ (s.unitLevel k < 3))))) ∧
    (∃ dme : Bool, ∃ ua : Byte, ∃ ub : Byte, ∃ vd : Fin 4, ∃ og : DWord, ∃ s : State, (let k := if dme then 0x100 + ua.toNat % 8 else ua.toNat % 64
 (let x := s.suspect k
  (let l := og.toNat :: x.origins.filter (fun t => decide (og.toNat < t + s.safe.twin * 3600000000000))
   (s.safe.polOff = false) ∧ (s.fnsRun = true) ∧ (x.applied = 0 ∨ og.toNat < x.applied - 1 ∨ x.applied - 1 + 100000 ≤ og.toNat) ∧ (vd.val = 2) ∧
     (s.unitLevel k = 3) ∧ (dme = false))))) :=
  ⟨⟨3, 0, 0, 0, true, false, false, none, on, by decide +kernel⟩,
   ⟨3, on.fset F.SAFE_STAT_OUTCMD 8, by decide +kernel, by decide +kernel, by decide +kernel⟩,
   ⟨3, true, false, on.fset F.SAFE_STAT_OUTCMD 8, by decide +kernel, by decide +kernel, by decide +kernel, by decide +kernel, by decide +kernel⟩,
   ⟨false, 63, 0, 1, 0, on.fset F.SAFE_STAT_STATE 1, by decide +kernel, by decide +kernel, by decide +kernel, by decide +kernel, by decide +kernel⟩,
   ⟨false, 63, 0, 2, 0, on.fset F.SAFE_STAT_STATE 1, by decide +kernel, by decide +kernel, by decide +kernel, by decide +kernel, by decide +kernel⟩,
   ⟨false, 63, 0, 2, 0, (on.fset F.SAFE_STAT_STATE 1).setUnitLevel 63 3, by decide +kernel, by decide +kernel, by decide +kernel,
     by decide +kernel, by decide +kernel, by decide +kernel⟩⟩

/-- Concrete states and operands that meet the hypotheses of `Obligations.AnalogOutputsAndHallPasses`, clause by clause. -/
theorem test_AnalogOutputsAndHallPasses_has_witnesses :
    (∃ c : Instr, ∃ n : Fin 4, ∃ s : State, ((s.ao n.val).breakEnd ≠ 0 ∧ (s.ao n.val).breakEnd ≤ s.now + 1 ∧ c = .aoRangeBreakEnd n ∨
    (∃ (r : Req) (v : Word), s.homeReq r ∧ c = .aoValueWrite r n v) ∨
    (∃ (r : Req) (v : Word), s.reqOn r = true ∧ s.ctxEnabled (s.ctxOf r) = true ∧ (s.ctxOf r = 0 ∨ s.agentHolds r 1 = true) ∧
      c = .aoOverrideWrite r n v) ∨
    (s.fget F.OUT_AO_FAIL_TMO n.val ≠ 0 ∧ s.flag F.ACQ_STAT_SETTLED = true ∧ s.flag F.OUT_AO_OVR_EN n.val = false ∧
      (s.ao n.val).refresh + s.fget F.OUT_AO_FAIL_TMO n.val * 1000000 ≤ s.now ∧ c = .aoRefreshTimeout n) ∨ c = .aoLinkSilence)) ∧
    (∃ r : Req, ∃ v : Word, ∃ s : State, (let p := getField v 16 3
 (s.homeReq r) ∧ (getField v 0 16 ≠ 0) ∧ (bit v.toNat 30 = false) ∧ (s.passFree p 0 = true))) ∧
    (∃ c : Instr, ∃ n : Fin 8, ∃ s : State, ((∃ (r : Req) (v : Word), s.homeReq r ∧ getField v 16 3 = n.val ∧ s.passHolder n.val = some 0 ∧
      c = .hallPassReleaseHome r v) ∨
    (∃ (r : Req) (v : Word), s.reqOn r = true ∧ s.ctxEnabled (s.ctxOf r) = true ∧ (s.ctxOf r = 0 ∨ s.ctxOf r = 7) ∧ bit v.toNat 31 = true ∧
      s.passHolder n.val ≠ none ∧ c = .hallPassRevoke r n v) ∨
    (∃ x, s.hosts.passes.find? (fun x => x.1 == n.val) = some x ∧ x.2.ends ≤ s.now ∧ c = .hallPassExpire n))) :=
  ⟨⟨.aoLinkSilence, 0, on, .inr (.inr (.inr (.inr rfl)))⟩,
   ⟨.core 0, 0x00070001, on, by decide +kernel, by decide +kernel, by decide +kernel, by decide +kernel⟩,
   ⟨.hallPassExpire 7, 7, { on with hosts := { Hosts.fresh with passes := [(7, ⟨1, 0⟩)] } }, .inr (.inr ⟨(7, ⟨1, 0⟩), by decide +kernel,
     by decide +kernel, rfl⟩)⟩⟩

/-- Concrete states and operands that meet the hypotheses of `Obligations.HostPortsTimeSyncAndSpiTarget`, clause by clause. -/
theorem test_HostPortsTimeSyncAndSpiTarget_has_witnesses :
    (∃ p : Fin 3, ∃ kind : Fin 5, ∃ pcp : Fin 8, ∃ src : List Byte, ∃ body : List Byte, ∃ s : State, (s.pwrState ≠ 2) ∧ (s.portOn p.val = true) ∧
      (s.domOn 2 = true) ∧ ((p.val < 2 → s.domOn 6 = true)) ∧
      (let full := if pcp.val = 7 then decide (16 ≤ (s.urgBuf p.val).length) else decide (64 ≤ (s.ordBuf p.val).length)
 (full = true))) ∧
    (∃ p : Fin 3, ∃ kind : Fin 5, ∃ pcp : Fin 8, ∃ src : List Byte, ∃ body : List Byte, ∃ s : State, (s.pwrState ≠ 2) ∧ (s.portOn p.val = true) ∧
      (s.domOn 2 = true) ∧ ((p.val < 2 → s.domOn 6 = true)) ∧
      (let full := if pcp.val = 7 then decide (16 ≤ (s.urgBuf p.val).length) else decide (64 ≤ (s.ordBuf p.val).length)
 (full = false) ∧ (kind.val = 0) ∧ (pcp.val ≠ 7))) ∧
    (∃ p : Fin 3, ∃ kind : Fin 5, ∃ pcp : Fin 8, ∃ src : List Byte, ∃ body : List Byte, ∃ s : State, (s.pwrState ≠ 2) ∧ (s.portOn p.val = true) ∧
      (s.domOn 2 = true) ∧ ((p.val < 2 → s.domOn 6 = true)) ∧
      (let full := if pcp.val = 7 then decide (16 ≤ (s.urgBuf p.val).length) else decide (64 ≤ (s.ordBuf p.val).length)
 (full = false) ∧ (kind.val = 0) ∧ (pcp.val = 7))) ∧
    (∃ p : Fin 3, ∃ kind : Fin 5, ∃ pcp : Fin 8, ∃ src : List Byte, ∃ body : List Byte, ∃ s : State, (s.pwrState ≠ 2) ∧ (s.portOn p.val = true) ∧
      (s.domOn 2 = true) ∧ ((p.val < 2 → s.domOn 6 = true)) ∧
      (let full := if pcp.val = 7 then decide (16 ≤ (s.urgBuf p.val).length) else decide (64 ≤ (s.ordBuf p.val).length)
 (full = false) ∧ (kind.val = 1 ∨ (kind.val = 2 ∧ body.length ≤ 64)))) ∧
    (∃ p : Fin 3, ∃ kind : Fin 5, ∃ pcp : Fin 8, ∃ src : List Byte, ∃ body : List Byte, ∃ s : State, (s.pwrState ≠ 2) ∧ (s.portOn p.val = true) ∧
      (s.domOn 2 = true) ∧ ((p.val < 2 → s.domOn 6 = true)) ∧
      (let full := if pcp.val = 7 then decide (16 ≤ (s.urgBuf p.val).length) else decide (64 ≤ (s.ordBuf p.val).length)
 (full = false) ∧ ((kind.val = 2 ∧ 64 < body.length) ∨ kind.val = 4))) ∧
    (∃ p : Fin 2, ∃ dom : Byte, ∃ master : DWord, ∃ ppb : Word, ∃ s : State, (s.portOn p.val = true) ∧ (s.domOn 6 = true) ∧
      (dom.toNat = s.fget F.HOST_TSYNC_DOMAIN) ∧ (s.syncSrc = some p.val)) ∧
    (∃ p : Fin 2, ∃ dom : Byte, ∃ cap : Bool, ∃ master : DWord, ∃ ppb : Word, ∃ s : State, (s.portOn p.val = true) ∧ (s.domOn 6 = true)) ∧
    (∃ p : Fin 2, ∃ s : State, (s.wallValid = false)) ∧
    (∃ p : Fin 2, ∃ s : State, ∃ cyc : Nat, ∃ base : Nat, ∃ es : List Nat, (s.wallValid = true) ∧ (s.gateList p.val = cyc :: base :: es) ∧
      (Sparse.get (fun _ => []) s.hosts.gates p.val = s.gateList p.val) ∧ (0 < cyc) ∧ (base ≤ s.wallTime) ∧ (let o := (s.wallTime - base) % cyc
 (let ns := es.map (fun e => bits e 0 24 * 16)
  (o < ns.sum)))) ∧
    (∃ s : State, (s.spiOn = true)) ∧
    (∃ body : List Byte, ∃ s : State, (s.spiOn = true) ∧ (body.length ≤ 1440) ∧ (s.hosts.spiRx.length < 4)) ∧
    (∃ s : State, ∃ b : List Byte, ∃ rest : List (List Byte), (s.spiOn = true) ∧ (s.hosts.spiReply = b :: rest)) ∧
    (∃ p : Fin 3, ∃ up : Bool, ∃ s : State, (bit (s.fget F.HOST_STAT_LINK) p.val = !up) ∧ ((up = true → s.domOn 2 = true ∧
      (p.val < 2 → s.domOn 6 = true)))) ∧
    (∃ r : Req, ∃ q : Fin 16, ∃ v : Word, ∃ s : State, (s.homeReq r) ∧ (s.flag F.HOST_JR_CFG_EN q.val = false)) ∧
    (∃ r : Req, ∃ q : Fin 16, ∃ v : Word, ∃ s : State, (s.homeReq r) ∧ (s.ringEnabled q.val = false)) :=
  ⟨⟨2, 0, 0, [], [], { on with hosts := { Hosts.fresh with conf := [1, 0] ++ List.replicate 62 0 ++ [1, 0] ++ List.replicate 62 0 ++ [1, 0] ++ List.replicate 62 0 ++ [1, 0] ++ List.replicate 62 0, ord := [(2, List.replicate 64 ⟨[], []⟩)] } },
    by decide +kernel, by decide +kernel, by decide +kernel, by decide +kernel, by decide +kernel⟩,
   ⟨2, 0, 6, [], [], { on with hosts := { Hosts.fresh with conf := [1, 0] ++ List.replicate 62 0 ++ [1, 0] ++ List.replicate 62 0 ++ [1, 0] ++ List.replicate 62 0 ++ [1, 0] ++ List.replicate 62 0 } },
     by decide +kernel, by decide +kernel, by decide +kernel, by decide +kernel, by decide +kernel, by decide +kernel, by decide +kernel⟩,
   ⟨2, 0, 7, [], [], { on with hosts := { Hosts.fresh with conf := [1, 0] ++ List.replicate 62 0 ++ [1, 0] ++ List.replicate 62 0 ++ [1, 0] ++ List.replicate 62 0 ++ [1, 0] ++ List.replicate 62 0 } },
     by decide +kernel, by decide +kernel, by decide +kernel, by decide +kernel, by decide +kernel, by decide +kernel, by decide +kernel⟩,
   ⟨2, 2, 0, [], List.replicate 64 0, { on with hosts := { Hosts.fresh with conf := [1, 0] ++ List.replicate 62 0 ++ [1, 0] ++ List.replicate 62 0 ++ [1, 0] ++ List.replicate 62 0 ++ [1, 0] ++ List.replicate 62 0 } },
     by decide +kernel, by decide +kernel, by decide +kernel, by decide +kernel, by decide +kernel, by decide +kernel⟩,
   ⟨2, 2, 0, [], List.replicate 65 0, { on with hosts := { Hosts.fresh with conf := [1, 0] ++ List.replicate 62 0 ++ [1, 0] ++ List.replicate 62 0 ++ [1, 0] ++ List.replicate 62 0 ++ [1, 0] ++ List.replicate 62 0 } },
     by decide +kernel, by decide +kernel, by decide +kernel, by decide +kernel, by decide +kernel, by decide +kernel⟩,
   ⟨1, 0, 0, 0, ({ on with hosts := { Hosts.fresh with conf := [1, 0] ++ List.replicate 62 0 ++ [1, 0] ++ List.replicate 62 0 ++ [1, 0] ++ List.replicate 62 0 ++ [1, 0] ++ List.replicate 62 0 } } : State).fset F.HOST_TSYNC_SRC 2,
     by decide +kernel, by decide +kernel, by decide +kernel, by decide +kernel⟩,
   ⟨1, 0, true, 0, 0, { on with hosts := { Hosts.fresh with conf := [1, 0] ++ List.replicate 62 0 ++ [1, 0] ++ List.replicate 62 0 ++ [1, 0] ++ List.replicate 62 0 ++ [1, 0] ++ List.replicate 62 0 } },
     by decide +kernel, by decide +kernel⟩,
   ⟨0, on, by decide +kernel⟩,
   ⟨1, { ((((({ { on with hosts := { Hosts.fresh with conf := [1, 0] ++ List.replicate 62 0 ++ [1, 0] ++ List.replicate 62 0 ++ [1, 0] ++ List.replicate 62 0 ++ [1, 0] ++ List.replicate 62 0 } } with timebase := 16 } : State).setFlag F.SYS_WALLSTAT_VALID true).setFlag F.HOST_QBV_CFG_EN true 1).fset F.HOST_QBV_CFG_LEN 1 1).rset R.HOST_QBV_CYCLE 32 1).rset R.HOST_GCL 2 1 0 with hosts := { Hosts.fresh with gates := [(1, [32, 0, 2])] } }, 32, 0, [2],
     by decide +kernel, by decide +kernel, by decide +kernel, by decide +kernel, by decide +kernel, by decide +kernel⟩,
   ⟨{ on with hosts := { Hosts.fresh with conf := [1, 0] ++ List.replicate 62 0 ++ [1, 0] ++ List.replicate 62 0 ++ [1, 0] ++ List.replicate 62 0 ++ [1, 0] ++ List.replicate 62 0 } },
     by decide +kernel⟩,
   ⟨List.replicate 1440 0, { on with hosts := { Hosts.fresh with conf := [1, 0] ++ List.replicate 62 0 ++ [1, 0] ++ List.replicate 62 0 ++ [1, 0] ++ List.replicate 62 0 ++ [1, 0] ++ List.replicate 62 0, spiRx := [[], [], []] } },
     by decide +kernel, by decide +kernel, by decide +kernel⟩,
   ⟨{ on with hosts := { Hosts.fresh with conf := [1, 0] ++ List.replicate 62 0 ++ [1, 0] ++ List.replicate 62 0 ++ [1, 0] ++ List.replicate 62 0 ++ [1, 0] ++ List.replicate 62 0, spiReply := [[1]] } }, [1], [],
     by decide +kernel, by decide +kernel⟩,
   ⟨0, true, on, by decide +kernel, by decide +kernel⟩,
   ⟨.core 0, 0, 0, on, by decide +kernel, by decide +kernel⟩,
   ⟨.core 0, 0, 0, on, by decide +kernel, by decide +kernel⟩⟩

/-- Concrete states and operands that meet the hypotheses of `Obligations.JobRingsAndFences`, clause by clause. -/
theorem test_JobRingsAndFences_has_witnesses :
    (∃ q : Fin 16, ∃ s : State, (s.domOn 2 = true) ∧ (s.servable q.val = true) ∧
      (urgentRings.contains q.val = true ∨ urgentRings.any s.servable = false) ∧ (let tail := s.fget F.HOST_JR_TAIL_INDEX q.val
 (let e := s.load (s.jobSlot q.val tail) 64
  (leAt e 0 1 = 1)))) ∧
    (∃ q : Fin 16, ∃ s : State, (s.domOn 2 = true) ∧ (s.servable q.val = true) ∧
      (urgentRings.contains q.val = true ∨ urgentRings.any s.servable = false) ∧ (let tail := s.fget F.HOST_JR_TAIL_INDEX q.val
 (let e := s.load (s.jobSlot q.val tail) 64
  (leAt e 0 1 = 1) ∧ (let x := s.jobStart q.val ((e.drop 16).take 32)
   (let u := x.2.fset F.HOST_JR_TAIL_INDEX ((tail + 1) % s.jobSize q.val) q.val
    (s.ctxEnabled (ringOwner q.val) = false)))))) ∧
    (∃ q : Fin 16, ∃ s : State, (s.domOn 2 = true) ∧ (s.servable q.val = true) ∧
      (urgentRings.contains q.val = true ∨ urgentRings.any s.servable = false) ∧ (let tail := s.fget F.HOST_JR_TAIL_INDEX q.val
 (let e := s.load (s.jobSlot q.val tail) 64
  (leAt e 0 1 = 1) ∧ (let x := s.jobStart q.val ((e.drop 16).take 32)
   (let u := x.2.fset F.HOST_JR_TAIL_INDEX ((tail + 1) % s.jobSize q.val) q.val
    ∃ k, (ringClass q.val = some k) ∧ (k ≠ leAt e 29 1)))))) ∧
    (∃ q : Fin 16, ∃ s : State, (s.domOn 2 = true) ∧ (s.servable q.val = true) ∧
      (urgentRings.contains q.val = true ∨ urgentRings.any s.servable = false) ∧ (let tail := s.fget F.HOST_JR_TAIL_INDEX q.val
 (let e := s.load (s.jobSlot q.val tail) 64
  (leAt e 0 1 ≠ 1)))) ∧
    (∃ q : Fin 16, ∃ s : State, ∃ x : Nat × List Byte, (s.hosts.jobWait.find? (fun x => x.1 == q.val) = some x) ∧ (s.domOn 2 = true) ∧
      (s.ringEnabled q.val = true) ∧ (ceilDiv x.2.length 64 ≤ s.ringSpace q.val)) ∧
    (∃ q : Fin 16, ∃ s : State, ∃ x : Nat × List Byte, (s.hosts.jobWait.find? (fun x => x.1 == q.val) = some x) ∧ (s.domOn 2 = true) ∧
      (s.ringEnabled q.val = true) ∧ (s.ringSpace q.val < ceilDiv x.2.length 64)) ∧
    (∃ r : Req, ∃ q : Fin 16, ∃ v : Word, ∃ s : State, (s.homeReq r)) ∧
    (∃ r : Req, ∃ q : Fin 16, ∃ v : Word, ∃ s : State, (s.homeReq r) ∧ (bit v.toNat 0 = true) ∧ (s.ringEnabled q.val = true)) ∧
    (∃ q : Fin 16, ∃ s : State, (let us := s.rget R.HOST_RR_FAUTO q.val * 1000
 (let x := s.ringX q.val
  (us ≠ 0) ∧ (x.autoBase < s.now) ∧ ((s.now - x.autoBase) % us = 0) ∧ (s.ringEnabled q.val = true)))) ∧
    (∃ q : Fin 16, ∃ s : State, ∃ g : FenceReq, ∃ rest : List FenceReq, ((s.ringX q.val).fences = g :: rest) ∧ ((s.ringX q.val).lastF = 0) ∧
      (s.ringEnabled q.val = true) ∧ (1 ≤ s.ringSpace q.val)) :=
  ⟨⟨0, (((((((on.rset R.HOST_RR_BASE 0x100800 0).setFlag F.HOST_RR_CFG_EN true 0).fset F.HOST_RR_CFG_SIZEM1 63 0).fset F.HOST_JR_BASE_PPN 0x100900 0).setFlag F.HOST_JR_CFG_EN true 0).fset F.HOST_JR_CFG_SIZEM1 15 0).fset F.HOST_JR_HEAD_INDEX 1 0).store 0x0100900000 ([1] ++ List.replicate 63 0),
    by decide +kernel, by decide +kernel, by decide +kernel, by decide +kernel⟩,
   ⟨0, ((((((((on.rset R.HOST_RR_BASE 0x100800 0).setFlag F.HOST_RR_CFG_EN true 0).fset F.HOST_RR_CFG_SIZEM1 63 0).fset F.HOST_JR_BASE_PPN 0x100900 0).setFlag F.HOST_JR_CFG_EN true 0).fset F.HOST_JR_CFG_SIZEM1 15 0).fset F.HOST_JR_HEAD_INDEX 1 0).store 0x0100900000 ([1] ++ List.replicate 63 0)).setFlag F.MMU_CTX_CFG_EN false 0,
     by decide +kernel, by decide +kernel, by decide +kernel, by decide +kernel, by decide +kernel⟩,
   ⟨8, ((((on.fset F.HOST_JR_BASE_PPN 0x100900 8).setFlag F.HOST_JR_CFG_EN true 8).fset F.HOST_JR_CFG_SIZEM1 15 8).fset F.HOST_JR_HEAD_INDEX 1 8).store 0x0100900000 ([1] ++ List.replicate 28 0 ++ [2] ++ List.replicate 34 0),
     by decide +kernel, by decide +kernel, by decide +kernel, by decide +kernel, 3, by decide +kernel, by decide +kernel⟩,
   ⟨0, (((((((on.rset R.HOST_RR_BASE 0x100800 0).setFlag F.HOST_RR_CFG_EN true 0).fset F.HOST_RR_CFG_SIZEM1 63 0).fset F.HOST_JR_BASE_PPN 0x100900 0).setFlag F.HOST_JR_CFG_EN true 0).fset F.HOST_JR_CFG_SIZEM1 15 0).fset F.HOST_JR_HEAD_INDEX 1 0).store 0x0100900000 ([2] ++ List.replicate 63 0),
     by decide +kernel, by decide +kernel, by decide +kernel, by decide +kernel⟩,
   ⟨0, { (((on.rset R.HOST_RR_BASE 0x100800 0).setFlag F.HOST_RR_CFG_EN true 0).fset F.HOST_RR_CFG_SIZEM1 63 0) with hosts := { Hosts.fresh with jobWait := [(0, List.replicate 64 0)] } }, (0, List.replicate 64 0),
     by decide +kernel, by decide +kernel, by decide +kernel, by decide +kernel⟩,
   ⟨0, { ((((on.rset R.HOST_RR_BASE 0x100800 0).setFlag F.HOST_RR_CFG_EN true 0).fset F.HOST_RR_CFG_SIZEM1 63 0).fset F.HOST_RR_CFG_SIZEM1 0 0).setFlag F.HOST_RR_CFG_FWREAD true 0 with hosts := { Hosts.fresh with jobWait := [(0, List.replicate 64 0)] }, rings := [(0, { Ring.idle with fwDist := 1 })] }, (0, List.replicate 64 0),
     by decide +kernel, by decide +kernel, by decide +kernel, by decide +kernel⟩,
   ⟨.core 0, 0, 0, on, by decide +kernel⟩,
   ⟨.core 0, 0, 1, (((on.rset R.HOST_RR_BASE 0x100800 0).setFlag F.HOST_RR_CFG_EN true 0).fset F.HOST_RR_CFG_SIZEM1 63 0),
     by decide +kernel, by decide +kernel, by decide +kernel⟩,
   ⟨0, (((on.rset R.HOST_RR_BASE 0x100800 0).setFlag F.HOST_RR_CFG_EN true 0).fset F.HOST_RR_CFG_SIZEM1 63 0).rset R.HOST_RR_FAUTO 1000 0, by decide +kernel,
     by decide +kernel, by decide +kernel, by decide +kernel⟩,
   ⟨0, { (((on.rset R.HOST_RR_BASE 0x100800 0).setFlag F.HOST_RR_CFG_EN true 0).fset F.HOST_RR_CFG_SIZEM1 63 0) with rings := [(0, { Ring.idle with fences := [⟨false, 5⟩] })] }, ⟨false, 5⟩, [],
     by decide +kernel, by decide +kernel, by decide +kernel, by decide +kernel⟩⟩

/-- Concrete states and operands that meet the hypotheses of `Obligations.RingProtocolMessagesAreServed`, clause by clause. -/
theorem test_RingProtocolMessagesAreServed_has_witnesses :
    (∃ p : Fin 4, ∃ s : State, ∃ i : Nat, ∃ h : Nat, ∃ k : Pkt, ∃ hn : List Byte, (s.domOn 2 = true) ∧ (s.nextPkt p.val = some (false, i, k)) ∧
      (s.readMsg p.val k = .hello h hn) ∧ (((s.hostX h).hellos.filter (fun t => decide (s.now < t + 1000000000))).length < 10)) ∧
    (∃ p : Fin 4, ∃ s : State, ∃ urgent : Bool, ∃ i : Nat, ∃ k : Pkt, ∃ c : Instr, (s.domOn 2 = true) ∧ (s.nextPkt p.val = some (urgent, i, k)) ∧
      (s.readMsg p.val k = .refused) ∧ (c ∈ [Instr.lrpHello p, .lrpStatus p, .lrpPost p, .lrpRead p, .lrpFence p, .lrpPassacq p, .lrpPassrel p,
      .lrpStop p, .lrpResume p, .lrpSnapshot p, .lrpBulkack p, .lrpTariff p, .lrpMdclr p, .lrpAovr p, .lrpSafereset p, .lrpLedgerkey p])) ∧
    (∃ p : Fin 4, ∃ s : State, ∃ u : State, ∃ h : Nat, ∃ d : List Byte, (s.lrpMsg u p.val 1 h d) ∧ (d.length = 8)) ∧
    (∃ p : Fin 4, ∃ s : State, ∃ u : State, ∃ h : Nat, ∃ d : List Byte, (s.lrpMsg u p.val 2 h d) ∧ (leAt d 8 1 < 2) ∧ (1 ≤ leAt d 9 1) ∧
      (leAt d 9 1 ≤ 16) ∧ (leAt d 10 6 = 0) ∧ (d.length = 16 + 64 * leAt d 9 1) ∧ ((chunksOf 64 16 (d.drop 16)).all jobOk = true) ∧
      (let q := roleRing h (leAt d 8 1)
 (u.flag F.HOST_JR_CFG_EN q = true) ∧ (u.jobCount q + leAt d 9 1 + 1 ≤ u.jobSize q))) ∧
    (∃ p : Fin 4, ∃ s : State, ∃ u : State, ∃ h : Nat, ∃ d : List Byte, (s.lrpMsg u p.val 3 h d) ∧ (leAt d 8 1 < 10) ∧ (leAt d 9 3 = 0) ∧
      (d.length = 20) ∧ (1 ≤ leAt d 16 4) ∧ (leAt d 16 4 ≤ 4096) ∧ (let q := roleRing h (leAt d 8 1)
 (let w := u.release q h (leAt d 12 4)
  (let n := min (leAt d 16 4) ((u.cursor q h).dist - min (leAt d 12 4) (u.cursor q h).dist)
   (let b := w.ringBytes q (w.cursor q h).index n
    (u.roleOk h (leAt d 8 1) = true) ∧ (u.ringEnabled q = true) ∧ (n ≤ 16)))))) ∧
    (∃ p : Fin 4, ∃ s : State, ∃ u : State, ∃ h : Nat, ∃ d : List Byte, (s.lrpMsg u p.val 3 h d) ∧ (leAt d 8 1 < 10) ∧ (leAt d 9 3 = 0) ∧
      (d.length = 20) ∧ (1 ≤ leAt d 16 4) ∧ (leAt d 16 4 ≤ 4096) ∧ (let q := roleRing h (leAt d 8 1)
 (let w := u.release q h (leAt d 12 4)
  (let n := min (leAt d 16 4) ((u.cursor q h).dist - min (leAt d 12 4) (u.cursor q h).dist)
   (let b := w.ringBytes q (w.cursor q h).index n
    (u.roleOk h (leAt d 8 1) = true) ∧ (u.ringEnabled q = true) ∧ (16 < n) ∧ ((u.hostX h).bulk = none)))))) ∧
    (∃ p : Fin 4, ∃ s : State, ∃ u : State, ∃ h : Nat, ∃ d : List Byte, (s.lrpMsg u p.val 4 h d) ∧ (leAt d 8 1 < 10) ∧ (leAt d 9 3 = 0) ∧
      (d.length = 16) ∧ (u.roleOk h (leAt d 8 1) = true) ∧ (u.ringEnabled (roleRing h (leAt d 8 1)) = true)) ∧
    (∃ p : Fin 4, ∃ s : State, ∃ u : State, ∃ h : Nat, ∃ d : List Byte, (s.lrpMsg u p.val 5 h d) ∧ (leAt d 8 1 < 8) ∧ (leAt d 9 1 = 0) ∧
      (d.length = 12) ∧ (leAt d 10 2 ≠ 0) ∧ (bit (u.hostX h).passMask (leAt d 8 1) = true) ∧ (leAt d 10 2 ≤ (u.hostX h).passMax) ∧
      (u.safeState = false) ∧ (u.passFree (leAt d 8 1) (h + 1) = true)) ∧
    (∃ p : Fin 4, ∃ s : State, ∃ u : State, ∃ h : Nat, ∃ d : List Byte, (s.lrpMsg u p.val 5 h d) ∧ (leAt d 8 1 < 8) ∧ (leAt d 9 1 = 0) ∧
      (d.length = 12) ∧ (leAt d 10 2 ≠ 0) ∧ (bit (u.hostX h).passMask (leAt d 8 1) = true) ∧ (leAt d 10 2 ≤ (u.hostX h).passMax) ∧
      (u.safeState = false) ∧ (u.passFree (leAt d 8 1) (h + 1) = false)) ∧
    (∃ p : Fin 4, ∃ s : State, ∃ u : State, ∃ h : Nat, ∃ d : List Byte, (s.lrpMsg u p.val 6 h d) ∧ (leAt d 8 1 < 8) ∧ (d.length = 9) ∧
      (u.passOf (leAt d 8 1) = some (h + 1))) ∧
    (∃ p : Fin 4, ∃ s : State, ∃ u : State, ∃ h : Nat, ∃ d : List Byte, (s.lrpMsg u p.val 7 h d) ∧ (d.length = 8)) ∧
    (∃ p : Fin 4, ∃ s : State, ∃ u : State, ∃ h : Nat, ∃ d : List Byte, (s.lrpMsg u p.val 8 h d) ∧ (d.length = 8)) ∧
    (∃ p : Fin 4, ∃ s : State, ∃ u : State, ∃ h : Nat, ∃ d : List Byte, ∃ v, ∃ v2, ∃ m, ∃ b, (s.lrpMsg u p.val 9 h d) ∧ (d.length = 20) ∧
      (leAt d 8 8 % 8 = 0) ∧ (leAt d 16 4 % 8 = 0) ∧ (leAt d 16 4 ≤ 0x1000000) ∧ (leAt d 8 8 + leAt d 16 4 ≤ 2 ^ 40) ∧
      (bit (u.hostX h).perm 1 = true) ∧ ((u.hostX h).bulk = none) ∧ ((u.hostX h).snap = none) ∧
      (u.translatePages (0x30 + h) (h + 1) ((pagesOf (leAt d 8 8) (leAt d 16 4)).map (fun x => (x, Acc3.read))) [] = (.ok m, v)) ∧
      ((v.violatePages (0x30 + h) (h + 1) m).snapBytes m (leAt d 8 8) (leAt d 16 4) = (some b, v2))) ∧
    (∃ p : Fin 4, ∃ s : State, ∃ u : State, ∃ h : Nat, ∃ d : List Byte, ∃ x, (s.lrpMsg u p.val 10 h d) ∧ (d.length = 16) ∧ (leAt d 10 2 = 0) ∧
      ((u.hostX h).bulk = some x) ∧ (x.id = leAt d 8 2) ∧ (let a := min x.sent (leAt d 12 4 + 1)
 (x.acked < a))) ∧
    (∃ p : Fin 4, ∃ s : State, ∃ u : State, ∃ h : Nat, ∃ d : List Byte, (s.lrpMsg u p.val 11 h d) ∧ (d.length = 10) ∧ (leAt d 8 1 < 2) ∧
      (leAt d 9 1 < 8) ∧ (u.passOf 0 = some (h + 1))) ∧
    (∃ p : Fin 4, ∃ s : State, ∃ u : State, ∃ h : Nat, ∃ d : List Byte, (s.lrpMsg u p.val 12 h d) ∧ (d.length = 8) ∧ (u.passOf 0 = some (h + 1))) ∧
    (∃ p : Fin 4, ∃ s : State, ∃ u : State, ∃ h : Nat, ∃ d : List Byte, (s.lrpMsg u p.val 13 h d) ∧ (d.length = 12) ∧ (leAt d 8 1 < 4) ∧
      (leAt d 9 1 < 2) ∧ (u.passOf 1 = some (h + 1))) ∧
    (∃ p : Fin 4, ∃ s : State, ∃ u : State, ∃ h : Nat, ∃ d : List Byte, (s.lrpMsg u p.val 14 h d) ∧ (d.length = 8) ∧
      (bit (leAt u.safe.params 5 1) 4 = true) ∧ (bits (leAt u.safe.params 5 1) 5 2 = h) ∧ (u.fnsRun = true)) ∧
    (∃ p : Fin 4, ∃ s : State, ∃ u : State, ∃ h : Nat, ∃ d : List Byte, (s.lrpMsg u p.val 15 h d) ∧ (d.length = 40) ∧
      (bit (u.hostX h).perm 0 = true) ∧ (u.flag F.LDG_STAT_KEYSET = false)) ∧
    (∃ p : Fin 4, ∃ s : State, ∃ u : State, ∃ h : Nat, ∃ d : List Byte, ∃ op, (18 < op) ∧ (s.lrpMsg u p.val op h d)) :=
  ⟨⟨2, (hostA on).setOrd 2 [⟨List.replicate 18 0, leBytes 4 0x3150524C ++ [1, 0, 0, 0] ++ List.replicate 12 0 ++ leBytes 4 16 ++ List.replicate 16 9⟩], 0, 0, ⟨List.replicate 18 0, leBytes 4 0x3150524C ++ [1, 0, 0, 0] ++ List.replicate 12 0 ++ leBytes 4 16 ++ List.replicate 16 9⟩, List.replicate 16 9,
    by decide +kernel, by decide +kernel, by decide +kernel, by decide +kernel⟩,
   ⟨2, ((hostA on).fset F.HOST_STAT_BOUND 0).setOrd 2 [⟨List.replicate 18 0, leBytes 4 0x3150524C ++ [1, 2, 0, 0] ++ List.replicate 32 0⟩], false, 0, ⟨List.replicate 18 0, leBytes 4 0x3150524C ++ [1, 2, 0, 0] ++ List.replicate 32 0⟩, .lrpHello 2,
     by decide +kernel, by decide +kernel, by decide +kernel, by decide +kernel⟩,
   ⟨2, lrpIn (hostA on) ([1, 0, 0, 0, 0, 0, 0, 0]), lrpOut (hostA on) ([1, 0, 0, 0, 0, 0, 0, 0]), 0, [1, 0, 0, 0, 0, 0, 0, 0], by apply lrp_waits <;> decide +kernel,
     by decide +kernel⟩,
   ⟨2, lrpIn (((((hostA on).fset F.HOST_JR_BASE_PPN 0x100900 8).setFlag F.HOST_JR_CFG_EN true 8).fset F.HOST_JR_CFG_SIZEM1 15 8)) ([2, 0, 0, 0, 0, 0, 0, 0, 0, 1, 0, 0, 0, 0, 0, 0] ++ [1] ++ List.replicate 63 0), lrpOut (((((hostA on).fset F.HOST_JR_BASE_PPN 0x100900 8).setFlag F.HOST_JR_CFG_EN true 8).fset F.HOST_JR_CFG_SIZEM1 15 8)) ([2, 0, 0, 0, 0, 0, 0, 0, 0, 1, 0, 0, 0, 0, 0, 0] ++ [1] ++ List.replicate 63 0), 0, [2, 0, 0, 0, 0, 0, 0, 0, 0, 1, 0, 0, 0, 0, 0, 0] ++ [1] ++ List.replicate 63 0, by apply lrp_waits <;> decide +kernel,
     by decide +kernel, by decide +kernel, by decide +kernel, by decide +kernel, by decide +kernel, by decide +kernel,
     by decide +kernel, by decide +kernel⟩,
   ⟨2, lrpIn (((((hostA on).rset R.HOST_RR_BASE 0x100800 8).setFlag F.HOST_RR_CFG_EN true 8).fset F.HOST_RR_CFG_SIZEM1 63 8)) ([3, 0, 0, 0, 0, 0, 0, 0, 0, 0, 0, 0] ++ leBytes 4 0 ++ leBytes 4 4096), lrpOut (((((hostA on).rset R.HOST_RR_BASE 0x100800 8).setFlag F.HOST_RR_CFG_EN true 8).fset F.HOST_RR_CFG_SIZEM1 63 8)) ([3, 0, 0, 0, 0, 0, 0, 0, 0, 0, 0, 0] ++ leBytes 4 0 ++ leBytes 4 4096), 0, [3, 0, 0, 0, 0, 0, 0, 0, 0, 0, 0, 0] ++ leBytes 4 0 ++ leBytes 4 4096, by apply lrp_waits <;> decide +kernel,
     by decide +kernel, by decide +kernel, by decide +kernel, by decide +kernel, by decide +kernel, by decide +kernel,
     by decide +kernel, by decide +kernel⟩,
   ⟨2, lrpIn ({ ((((hostA on).rset R.HOST_RR_BASE 0x100800 8).setFlag F.HOST_RR_CFG_EN true 8).fset F.HOST_RR_CFG_SIZEM1 63 8) with rings := [(8, { Ring.idle with cursors := [⟨0, 0, 17⟩] })] }) ([3, 0, 0, 0, 0, 0, 0, 0, 0, 0, 0, 0] ++ leBytes 4 0 ++ leBytes 4 4096), lrpOut ({ ((((hostA on).rset R.HOST_RR_BASE 0x100800 8).setFlag F.HOST_RR_CFG_EN true 8).fset F.HOST_RR_CFG_SIZEM1 63 8) with rings := [(8, { Ring.idle with cursors := [⟨0, 0, 17⟩] })] }) ([3, 0, 0, 0, 0, 0, 0, 0, 0, 0, 0, 0] ++ leBytes 4 0 ++ leBytes 4 4096), 0, [3, 0, 0, 0, 0, 0, 0, 0, 0, 0, 0, 0] ++ leBytes 4 0 ++ leBytes 4 4096, by apply lrp_waits <;> decide +kernel,
     by decide +kernel, by decide +kernel, by decide +kernel, by decide +kernel, by decide +kernel, by decide +kernel,
     by decide +kernel, by decide +kernel, by decide +kernel⟩,
   ⟨2, lrpIn (((((hostA on).rset R.HOST_RR_BASE 0x100800 8).setFlag F.HOST_RR_CFG_EN true 8).fset F.HOST_RR_CFG_SIZEM1 63 8)) ([4, 0, 0, 0, 0, 0, 0, 0] ++ [0, 0, 0, 0, 0, 0, 0, 0]), lrpOut (((((hostA on).rset R.HOST_RR_BASE 0x100800 8).setFlag F.HOST_RR_CFG_EN true 8).fset F.HOST_RR_CFG_SIZEM1 63 8)) ([4, 0, 0, 0, 0, 0, 0, 0] ++ [0, 0, 0, 0, 0, 0, 0, 0]), 0, [4, 0, 0, 0, 0, 0, 0, 0] ++ [0, 0, 0, 0, 0, 0, 0, 0], by apply lrp_waits <;> decide +kernel,
     by decide +kernel, by decide +kernel, by decide +kernel, by decide +kernel, by decide +kernel⟩,
   ⟨2, lrpIn (hostA on) ([5, 0, 0, 0, 0, 0, 0, 0] ++ [7, 0] ++ leBytes 2 3600), lrpOut (hostA on) ([5, 0, 0, 0, 0, 0, 0, 0] ++ [7, 0] ++ leBytes 2 3600), 0, [5, 0, 0, 0, 0, 0, 0, 0] ++ [7, 0] ++ leBytes 2 3600, by apply lrp_waits <;> decide +kernel,
     by decide +kernel, by decide +kernel, by decide +kernel, by decide +kernel, by decide +kernel, by decide +kernel,
     by decide +kernel, by decide +kernel⟩,
   ⟨2, lrpIn ((let s := hostA on; { s with hosts := { s.hosts with passes := [(7, ⟨2, 2 ^ 60⟩)] } })) ([5, 0, 0, 0, 0, 0, 0, 0] ++ [7, 0] ++ leBytes 2 3600), lrpOut ((let s := hostA on; { s with hosts := { s.hosts with passes := [(7, ⟨2, 2 ^ 60⟩)] } })) ([5, 0, 0, 0, 0, 0, 0, 0] ++ [7, 0] ++ leBytes 2 3600), 0, [5, 0, 0, 0, 0, 0, 0, 0] ++ [7, 0] ++ leBytes 2 3600, by apply lrp_waits <;> decide +kernel,
     by decide +kernel, by decide +kernel, by decide +kernel, by decide +kernel, by decide +kernel, by decide +kernel,
     by decide +kernel, by decide +kernel⟩,
   ⟨2, lrpIn ((let s := hostA on; { s with hosts := { s.hosts with passes := [(7, ⟨1, 2 ^ 60⟩)] } })) ([6, 0, 0, 0, 0, 0, 0, 0, 7]), lrpOut ((let s := hostA on; { s with hosts := { s.hosts with passes := [(7, ⟨1, 2 ^ 60⟩)] } })) ([6, 0, 0, 0, 0, 0, 0, 0, 7]), 0, [6, 0, 0, 0, 0, 0, 0, 0, 7], by apply lrp_waits <;> decide +kernel,
     by decide +kernel, by decide +kernel, by decide +kernel⟩,
   ⟨2, lrpIn (hostA on) ([7, 0, 0, 0, 0, 0, 0, 0]), lrpOut (hostA on) ([7, 0, 0, 0, 0, 0, 0, 0]), 0, [7, 0, 0, 0, 0, 0, 0, 0], by apply lrp_waits <;> decide +kernel,
     by decide +kernel⟩,
   ⟨2, lrpIn (hostA on) ([8, 0, 0, 0, 0, 0, 0, 0]), lrpOut (hostA on) ([8, 0, 0, 0, 0, 0, 0, 0]), 0, [8, 0, 0, 0, 0, 0, 0, 0], by apply lrp_waits <;> decide +kernel,
     by decide +kernel⟩,
   ⟨2, lrpIn (hostA ((on.rset R.MMU_CTX_PTBASE 0x100000 1).store 0x0100000000 (leBytes 8 0x010000001F))) ([9, 0, 0, 0, 0, 0, 0, 0] ++ leBytes 8 0x2000 ++ leBytes 4 8), lrpOut (hostA ((on.rset R.MMU_CTX_PTBASE 0x100000 1).store 0x0100000000 (leBytes 8 0x010000001F))) ([9, 0, 0, 0, 0, 0, 0, 0] ++ leBytes 8 0x2000 ++ leBytes 4 8), 0, [9, 0, 0, 0, 0, 0, 0, 0] ++ leBytes 8 0x2000 ++ leBytes 4 8, ((lrpOut (hostA ((on.rset R.MMU_CTX_PTBASE 0x100000 1).store 0x0100000000 (leBytes 8 0x010000001F))) ([9, 0, 0, 0, 0, 0, 0, 0] ++ leBytes 8 0x2000 ++ leBytes 4 8)).translatePages 0x30 1 [(2, .read)] []).2, ((((lrpOut (hostA ((on.rset R.MMU_CTX_PTBASE 0x100000 1).store 0x0100000000 (leBytes 8 0x010000001F))) ([9, 0, 0, 0, 0, 0, 0, 0] ++ leBytes 8 0x2000 ++ leBytes 4 8)).translatePages 0x30 1 [(2, .read)] []).2.violatePages 0x30 1 [(2, .read, .page 0x100002)]).snapBytes [(2, .read, .page 0x100002)] 0x2000 8).2, [(2, .read, .page 0x100002)], List.replicate 8 0, by apply lrp_waits <;> decide +kernel,
     by decide +kernel, by decide +kernel, by decide +kernel, by decide +kernel, by decide +kernel, by decide +kernel,
     by decide +kernel, by decide +kernel, by decide +kernel, by decide +kernel⟩,
   ⟨2, lrpIn ((let s := hostA on; s.setHostX 0 { s.hostX 0 with bulk := some ⟨1, 9, 0, [[1], [2]], 0, 1, 0, 0⟩ })) ([10, 0, 0, 0, 0, 0, 0, 0] ++ leBytes 2 1 ++ leBytes 2 0 ++ leBytes 4 0), lrpOut ((let s := hostA on; s.setHostX 0 { s.hostX 0 with bulk := some ⟨1, 9, 0, [[1], [2]], 0, 1, 0, 0⟩ })) ([10, 0, 0, 0, 0, 0, 0, 0] ++ leBytes 2 1 ++ leBytes 2 0 ++ leBytes 4 0), 0, [10, 0, 0, 0, 0, 0, 0, 0] ++ leBytes 2 1 ++ leBytes 2 0 ++ leBytes 4 0, ⟨1, 9, 0, [[1], [2]], 0, 1, 0, 0⟩, by apply lrp_waits <;> decide +kernel,
     by decide +kernel, by decide +kernel, by decide +kernel, by decide +kernel, by decide +kernel⟩,
   ⟨2, lrpIn ((let s := hostA on; { s with hosts := { s.hosts with passes := [(0, ⟨1, 2 ^ 60⟩)] } })) ([11, 0, 0, 0, 0, 0, 0, 0, 1, 7]), lrpOut ((let s := hostA on; { s with hosts := { s.hosts with passes := [(0, ⟨1, 2 ^ 60⟩)] } })) ([11, 0, 0, 0, 0, 0, 0, 0, 1, 7]), 0, [11, 0, 0, 0, 0, 0, 0, 0, 1, 7], by apply lrp_waits <;> decide +kernel,
     by decide +kernel, by decide +kernel, by decide +kernel, by decide +kernel⟩,
   ⟨2, lrpIn ((let s := hostA on; { s with hosts := { s.hosts with passes := [(0, ⟨1, 2 ^ 60⟩)] } })) ([12, 0, 0, 0, 0, 0, 0, 0]), lrpOut ((let s := hostA on; { s with hosts := { s.hosts with passes := [(0, ⟨1, 2 ^ 60⟩)] } })) ([12, 0, 0, 0, 0, 0, 0, 0]), 0, [12, 0, 0, 0, 0, 0, 0, 0], by apply lrp_waits <;> decide +kernel,
     by decide +kernel, by decide +kernel⟩,
   ⟨2, lrpIn ((let s := hostA on; { s with hosts := { s.hosts with passes := [(1, ⟨1, 2 ^ 60⟩)] } })) ([13, 0, 0, 0, 0, 0, 0, 0, 3, 1, 255, 255]), lrpOut ((let s := hostA on; { s with hosts := { s.hosts with passes := [(1, ⟨1, 2 ^ 60⟩)] } })) ([13, 0, 0, 0, 0, 0, 0, 0, 3, 1, 255, 255]), 0, [13, 0, 0, 0, 0, 0, 0, 0, 3, 1, 255, 255], by apply lrp_waits <;> decide +kernel,
     by decide +kernel, by decide +kernel, by decide +kernel, by decide +kernel⟩,
   ⟨2, lrpIn (hostA ({ on.fset F.SAFE_STAT_STATE 1 with safe := { Safe.fresh with params := [0, 0, 0, 0, 0, 16] } })) ([14, 0, 0, 0, 0, 0, 0, 0]), lrpOut (hostA ({ on.fset F.SAFE_STAT_STATE 1 with safe := { Safe.fresh with params := [0, 0, 0, 0, 0, 16] } })) ([14, 0, 0, 0, 0, 0, 0, 0]), 0, [14, 0, 0, 0, 0, 0, 0, 0], by apply lrp_waits <;> decide +kernel,
     by decide +kernel, by decide +kernel, by decide +kernel, by decide +kernel⟩,
   ⟨2, lrpIn ((let s := hostA on; s.setHostX 0 { s.hostX 0 with conf := [1, 2, 1] ++ hostConf.drop 3 })) ([15, 0, 0, 0, 0, 0, 0, 0] ++ List.replicate 32 4), lrpOut ((let s := hostA on; s.setHostX 0 { s.hostX 0 with conf := [1, 2, 1] ++ hostConf.drop 3 })) ([15, 0, 0, 0, 0, 0, 0, 0] ++ List.replicate 32 4), 0, [15, 0, 0, 0, 0, 0, 0, 0] ++ List.replicate 32 4, by apply lrp_waits <;> decide +kernel,
     by decide +kernel, by decide +kernel, by decide +kernel⟩,
   ⟨2, lrpIn (hostA on) ([19, 0, 0, 0, 0, 0, 0, 0]), lrpOut (hostA on) ([19, 0, 0, 0, 0, 0, 0, 0]), 0, [19, 0, 0, 0, 0, 0, 0, 0], 19,
     by decide +kernel, by apply lrp_waits <;> decide +kernel⟩⟩

/-- Concrete states and operands that meet the hypotheses of `Obligations.ImageAndBulkTransfers`, clause by clause. -/
theorem test_ImageAndBulkTransfers_has_witnesses :
    (∃ p : Fin 4, ∃ s : State, ∃ u : State, ∃ a : List Byte, ∃ d : List Byte, (s.imgMsg u p.val 16 a d) ∧ (d.length = 12) ∧
      (u.imgRefusal (a.take 16) true = 0) ∧ (leAt d 8 4 ≤ 268435456)) ∧
    (∃ p : Fin 4, ∃ s : State, ∃ u : State, ∃ a : List Byte, ∃ d : List Byte, ∃ x : ImageXfer, (s.imgMsg u p.val 17 a d) ∧ (16 ≤ d.length) ∧
      (leAt d 12 4 = 0) ∧ (u.imgRefusal (a.take 16) false = 0) ∧ (u.hosts.image = some x) ∧ (let o := leAt d 8 4
 (let b := d.drop 16
  (o % 8 = 0) ∧ (o + b.length ≤ x.len) ∧ (b.length ≤ 1024) ∧ (x.got.contains (o, b.length) = true)))) ∧
    (∃ p : Fin 4, ∃ s : State, ∃ u : State, ∃ a : List Byte, ∃ d : List Byte, ∃ x : ImageXfer, (s.imgMsg u p.val 17 a d) ∧ (16 ≤ d.length) ∧
      (leAt d 12 4 = 0) ∧ (u.imgRefusal (a.take 16) false = 0) ∧ (u.hosts.image = some x) ∧ (let o := leAt d 8 4
 (let b := d.drop 16
  (o % 8 = 0) ∧ (o + b.length ≤ x.len) ∧ (b.length ≤ 1024) ∧ (x.got.contains (o, b.length) = false)))) ∧
    (∃ p : Fin 4, ∃ ok : Bool, ∃ s : State, ∃ u : State, ∃ a : List Byte, ∃ d : List Byte, (s.imgMsg u p.val 18 a d) ∧ (d.length = 8) ∧
      (u.imgRefusal (a.take 16) false = 0) ∧ (let code := u.imageCode u.stagedSrc u.unsignedUnit
 (code ≠ 0))) ∧
    (∃ p : Fin 4, ∃ ok : Bool, ∃ s : State, ∃ u : State, ∃ a : List Byte, ∃ d : List Byte, (s.imgMsg u p.val 18 a d) ∧ (d.length = 8) ∧
      (u.imgRefusal (a.take 16) false = 0) ∧ (let code := u.imageCode u.stagedSrc u.unsignedUnit
 (code = 0) ∧ (u.stagedSrc.num 8 4 ≤ u.boot.slotSize) ∧ (ok = true))) ∧
    (∃ h : Fin 4, ∃ s : State, ∃ b : Bulk, ∃ y : Session, (let x := s.hostX h.val
 (x.bulk = some b) ∧ (x.cur = some y) ∧ (s.domOn 2 = true) ∧ (b.sent < b.packets.length) ∧ (b.sent < b.acked + 64))) ∧
    (∃ h : Fin 4, ∃ s : State, ∃ b : Bulk, ∃ y : Session, (let x := s.hostX h.val
 (x.bulk = some b) ∧ (x.cur = some y) ∧ (s.domOn 2 = true) ∧ (b.acked < b.sent) ∧ (b.ackTb + 100000000 ≤ s.now))) ∧
    (∃ h : Fin 4, ∃ s : State, ((s.hostX h.val).bulk = none)) :=
  ⟨⟨2, (((on.fset F.BOOT_STAT_STATE 3).setFlag F.BOOT_STAT_FLASHOK true)).setOrd 2 [⟨List.replicate 18 0, leBytes 4 0x3150524C ++ ([1, 3, 0, 0] : List Byte) ++ List.replicate 12 0 ++ leBytes 4 (([16, 0, 0, 0, 0, 0, 0, 0] ++ leBytes 4 268435456 : List Byte)).length ++ (([16, 0, 0, 0, 0, 0, 0, 0] ++ leBytes 4 268435456 : List Byte))⟩], ((((on.fset F.BOOT_STAT_STATE 3).setFlag F.BOOT_STAT_FLASHOK true)).setOrd 2 [⟨List.replicate 18 0, leBytes 4 0x3150524C ++ ([1, 3, 0, 0] : List Byte) ++ List.replicate 12 0 ++ leBytes 4 (([16, 0, 0, 0, 0, 0, 0, 0] ++ leBytes 4 268435456 : List Byte)).length ++ (([16, 0, 0, 0, 0, 0, 0, 0] ++ leBytes 4 268435456 : List Byte))⟩]).dropPkt 2 false 0, List.replicate 18 0, ([16, 0, 0, 0, 0, 0, 0, 0] ++ leBytes 4 268435456 : List Byte), ⟨by decide +kernel,
    by decide +kernel, by decide +kernel,
    by decide +kernel, 0, ⟨List.replicate 18 0, leBytes 4 0x3150524C ++ ([1, 3, 0, 0] : List Byte) ++ List.replicate 12 0 ++ leBytes 4 (([16, 0, 0, 0, 0, 0, 0, 0] ++ leBytes 4 268435456 : List Byte)).length ++ (([16, 0, 0, 0, 0, 0, 0, 0] ++ leBytes 4 268435456 : List Byte))⟩,
    by decide +kernel, by decide +kernel, by decide +kernel, rfl⟩, by decide +kernel, by decide +kernel, by decide +kernel⟩,
   ⟨2, ({ ((on.fset F.BOOT_STAT_STATE 3).setFlag F.BOOT_STAT_FLASHOK true) with hosts := { Hosts.fresh with image := some ⟨List.replicate 16 0, 16, [(8, 8)]⟩ } }).setOrd 2 [⟨List.replicate 18 0, leBytes 4 0x3150524C ++ ([1, 3, 0, 0] : List Byte) ++ List.replicate 12 0 ++ leBytes 4 (([17, 0, 0, 0, 0, 0, 0, 0] ++ leBytes 4 8 ++ leBytes 4 0 ++ List.replicate 8 1 : List Byte)).length ++ (([17, 0, 0, 0, 0, 0, 0, 0] ++ leBytes 4 8 ++ leBytes 4 0 ++ List.replicate 8 1 : List Byte))⟩], (({ ((on.fset F.BOOT_STAT_STATE 3).setFlag F.BOOT_STAT_FLASHOK true) with hosts := { Hosts.fresh with image := some ⟨List.replicate 16 0, 16, [(8, 8)]⟩ } }).setOrd 2 [⟨List.replicate 18 0, leBytes 4 0x3150524C ++ ([1, 3, 0, 0] : List Byte) ++ List.replicate 12 0 ++ leBytes 4 (([17, 0, 0, 0, 0, 0, 0, 0] ++ leBytes 4 8 ++ leBytes 4 0 ++ List.replicate 8 1 : List Byte)).length ++ (([17, 0, 0, 0, 0, 0, 0, 0] ++ leBytes 4 8 ++ leBytes 4 0 ++ List.replicate 8 1 : List Byte))⟩]).dropPkt 2 false 0, List.replicate 18 0, ([17, 0, 0, 0, 0, 0, 0, 0] ++ leBytes 4 8 ++ leBytes 4 0 ++ List.replicate 8 1 : List Byte), ⟨List.replicate 16 0, 16, [(8, 8)]⟩, ⟨by decide +kernel,
     by decide +kernel, by decide +kernel,
     by decide +kernel, 0, ⟨List.replicate 18 0, leBytes 4 0x3150524C ++ ([1, 3, 0, 0] : List Byte) ++ List.replicate 12 0 ++ leBytes 4 (([17, 0, 0, 0, 0, 0, 0, 0] ++ leBytes 4 8 ++ leBytes 4 0 ++ List.replicate 8 1 : List Byte)).length ++ (([17, 0, 0, 0, 0, 0, 0, 0] ++ leBytes 4 8 ++ leBytes 4 0 ++ List.replicate 8 1 : List Byte))⟩,
     by decide +kernel, by decide +kernel, by decide +kernel, rfl⟩, by decide +kernel, by decide +kernel, by decide +kernel,
     by decide +kernel, by decide +kernel, by decide +kernel, by decide +kernel, by decide +kernel⟩,
   ⟨2, ({ ((on.fset F.BOOT_STAT_STATE 3).setFlag F.BOOT_STAT_FLASHOK true) with hosts := { Hosts.fresh with image := some ⟨List.replicate 16 0, 16, []⟩ } }).setOrd 2 [⟨List.replicate 18 0, leBytes 4 0x3150524C ++ ([1, 3, 0, 0] : List Byte) ++ List.replicate 12 0 ++ leBytes 4 (([17, 0, 0, 0, 0, 0, 0, 0] ++ leBytes 4 8 ++ leBytes 4 0 ++ List.replicate 8 1 : List Byte)).length ++ (([17, 0, 0, 0, 0, 0, 0, 0] ++ leBytes 4 8 ++ leBytes 4 0 ++ List.replicate 8 1 : List Byte))⟩], (({ ((on.fset F.BOOT_STAT_STATE 3).setFlag F.BOOT_STAT_FLASHOK true) with hosts := { Hosts.fresh with image := some ⟨List.replicate 16 0, 16, []⟩ } }).setOrd 2 [⟨List.replicate 18 0, leBytes 4 0x3150524C ++ ([1, 3, 0, 0] : List Byte) ++ List.replicate 12 0 ++ leBytes 4 (([17, 0, 0, 0, 0, 0, 0, 0] ++ leBytes 4 8 ++ leBytes 4 0 ++ List.replicate 8 1 : List Byte)).length ++ (([17, 0, 0, 0, 0, 0, 0, 0] ++ leBytes 4 8 ++ leBytes 4 0 ++ List.replicate 8 1 : List Byte))⟩]).dropPkt 2 false 0, List.replicate 18 0, ([17, 0, 0, 0, 0, 0, 0, 0] ++ leBytes 4 8 ++ leBytes 4 0 ++ List.replicate 8 1 : List Byte), ⟨List.replicate 16 0, 16, []⟩, ⟨by decide +kernel,
     by decide +kernel, by decide +kernel,
     by decide +kernel, 0, ⟨List.replicate 18 0, leBytes 4 0x3150524C ++ ([1, 3, 0, 0] : List Byte) ++ List.replicate 12 0 ++ leBytes 4 (([17, 0, 0, 0, 0, 0, 0, 0] ++ leBytes 4 8 ++ leBytes 4 0 ++ List.replicate 8 1 : List Byte)).length ++ (([17, 0, 0, 0, 0, 0, 0, 0] ++ leBytes 4 8 ++ leBytes 4 0 ++ List.replicate 8 1 : List Byte))⟩,
     by decide +kernel, by decide +kernel, by decide +kernel, rfl⟩, by decide +kernel, by decide +kernel, by decide +kernel,
     by decide +kernel, by decide +kernel, by decide +kernel, by decide +kernel, by decide +kernel⟩,
   ⟨2, true, ({ ((on.fset F.BOOT_STAT_STATE 3).setFlag F.BOOT_STAT_FLASHOK true) with hosts := { Hosts.fresh with image := some ⟨List.replicate 16 0, 16, []⟩ } }).setOrd 2 [⟨List.replicate 18 0, leBytes 4 0x3150524C ++ ([1, 3, 0, 0] : List Byte) ++ List.replicate 12 0 ++ leBytes 4 (([18, 0, 0, 0, 0, 0, 0, 0] : List Byte)).length ++ (([18, 0, 0, 0, 0, 0, 0, 0] : List Byte))⟩], (({ ((on.fset F.BOOT_STAT_STATE 3).setFlag F.BOOT_STAT_FLASHOK true) with hosts := { Hosts.fresh with image := some ⟨List.replicate 16 0, 16, []⟩ } }).setOrd 2 [⟨List.replicate 18 0, leBytes 4 0x3150524C ++ ([1, 3, 0, 0] : List Byte) ++ List.replicate 12 0 ++ leBytes 4 (([18, 0, 0, 0, 0, 0, 0, 0] : List Byte)).length ++ (([18, 0, 0, 0, 0, 0, 0, 0] : List Byte))⟩]).dropPkt 2 false 0, List.replicate 18 0, ([18, 0, 0, 0, 0, 0, 0, 0] : List Byte), ⟨by decide +kernel,
     by decide +kernel, by decide +kernel,
     by decide +kernel, 0, ⟨List.replicate 18 0, leBytes 4 0x3150524C ++ ([1, 3, 0, 0] : List Byte) ++ List.replicate 12 0 ++ leBytes 4 (([18, 0, 0, 0, 0, 0, 0, 0] : List Byte)).length ++ (([18, 0, 0, 0, 0, 0, 0, 0] : List Byte))⟩,
     by decide +kernel, by decide +kernel, by decide +kernel, rfl⟩, by decide +kernel, by decide +kernel, by decide +kernel⟩,
   ⟨2, true, imgState, imgNext, List.replicate 18 0, [18, 0, 0, 0, 0, 0, 0, 0], ⟨by decide +kernel, by decide +kernel,
     by decide +kernel, by decide +kernel, 0, imgPkt, by decide +kernel, by decide +kernel, by decide +kernel, rfl⟩, by decide +kernel,
     by decide +kernel, img_code, by decide +kernel, by decide +kernel⟩,
   ⟨3, { on with hosts := { Hosts.fresh with hosts := [(3, { HostX.fresh with cur := some sess, bulk := some ⟨1, 9, 0, [[1], [2]], 0, 1, 0, 0⟩ })] } }, ⟨1, 9, 0, [[1], [2]], 0, 1, 0, 0⟩, sess,
     by decide +kernel, by decide +kernel, by decide +kernel, by decide +kernel, by decide +kernel⟩,
   ⟨3, { on with hosts := { Hosts.fresh with hosts := [(3, { HostX.fresh with cur := some sess, bulk := some ⟨1, 9, 0, [[1], [2]], 0, 1, 0, 0⟩ })] } }, ⟨1, 9, 0, [[1], [2]], 0, 1, 0, 0⟩, sess,
     by decide +kernel, by decide +kernel, by decide +kernel, by decide +kernel, by decide +kernel⟩,
   ⟨0, on, by decide +kernel⟩⟩

/-- Concrete states and operands that meet the hypotheses of `Obligations.ShuntoPortsTrainSendReceiveAndReplay`, clause by clause. -/
theorem test_ShuntoPortsTrainSendReceiveAndReplay_has_witnesses :
    (∃ p : Fin 3, ∃ a : Fin 4096, ∃ good : Fin 32, ∃ s : State, (bit (s.fget F.CHN_CTL_PORTEN) p.val = true) ∧ (s.domOn 6 = true)) ∧
    (∃ p : Fin 3, ∃ s : State, (bit (s.fget F.CHN_CTL_PORTEN) p.val = true) ∧ (s.domOn 6 = true) ∧ (s.fget F.CHN_P_STAT_STATE p.val ≤ 1)) ∧
    (∃ p : Fin 3, ∃ k : Fin 5, ∃ s : State, (bit (s.fget F.CHN_P_STAT_LANES p.val) k.val = true) ∧ (s.fget F.CHN_P_STAT_STATE p.val = 2) ∧
      (s.fget F.CHN_P_STAT_SPAREFOR p.val = 15) ∧ (s.fget F.CHN_P_STAT_LANES p.val = 15)) ∧
    (∃ p : Fin 3, ∃ k : Fin 5, ∃ s : State, (bit (s.fget F.CHN_P_STAT_LANES p.val) k.val = true) ∧ (s.fget F.CHN_P_STAT_STATE p.val = 2) ∧
      (s.fget F.CHN_P_STAT_SPAREFOR p.val < 4)) ∧
    (∃ p : Fin 3, ∃ k : Fin 5, ∃ s : State, (bit (s.fget F.CHN_P_STAT_LANES p.val) k.val = true) ∧ (s.fget F.CHN_P_STAT_STATE p.val = 3)) ∧
    (∃ p : Fin 3, ∃ crossing : List (Fin 4095), ∃ s : State, ∃ g : Seg, ((s.port p.val).segs.find? (fun g => g.ttype == 7) = some g)) ∧
    (∃ p : Fin 3, ∃ flit : List Byte, ∃ num : Half, ∃ ctl : Option LinkCtl, ∃ sw : Bool, ∃ s : State, (let b := padTo 64 flit
 (let x := s.port p.val
  (let vc := leAt b 0 1 % 4
   (let kind := bits (leAt b 0 1) 2 3
    (let ok := !sw && crc32 (b.take 60) == leAt b 60 4
     (2 ≤ s.fget F.CHN_P_STAT_STATE p.val) ∧ (ok = false))))))) ∧
    (∃ p : Fin 3, ∃ flit : List Byte, ∃ num : Half, ∃ ctl : Option LinkCtl, ∃ sw : Bool, ∃ s : State, (let b := padTo 64 flit
 (let x := s.port p.val
  (let vc := leAt b 0 1 % 4
   (let kind := bits (leAt b 0 1) 2 3
    (let ok := !sw && crc32 (b.take 60) == leAt b 60 4
     (2 ≤ s.fget F.CHN_P_STAT_STATE p.val) ∧ (ok = true) ∧ (kind = 0))))))) ∧
    (∃ p : Fin 3, ∃ flit : List Byte, ∃ num : Half, ∃ ctl : Option LinkCtl, ∃ sw : Bool, ∃ s : State, (let b := padTo 64 flit
 (let x := s.port p.val
  (let vc := leAt b 0 1 % 4
   (let kind := bits (leAt b 0 1) 2 3
    (let ok := !sw && crc32 (b.take 60) == leAt b 60 4
     (2 ≤ s.fget F.CHN_P_STAT_STATE p.val) ∧ (ok = true) ∧ (kind = 1) ∧ ∃ n, (ctl = some (.nak n)) ∧ (x.replays < 7))))))) ∧
    (∃ p : Fin 3, ∃ flit : List Byte, ∃ num : Half, ∃ ctl : Option LinkCtl, ∃ sw : Bool, ∃ s : State, (let b := padTo 64 flit
 (let x := s.port p.val
  (let vc := leAt b 0 1 % 4
   (let kind := bits (leAt b 0 1) 2 3
    (let ok := !sw && crc32 (b.take 60) == leAt b 60 4
     (2 ≤ s.fget F.CHN_P_STAT_STATE p.val) ∧ (ok = true) ∧ (kind = 2 ∨ kind = 3) ∧ (s.fget F.CHN_P_STAT_STATE p.val < 4) ∧
       (num.toNat = x.rxCount) ∧ (bit (leAt b 0 1) 5 = false))))))) ∧
    (∃ p : Fin 3, ∃ flit : List Byte, ∃ num : Half, ∃ ctl : Option LinkCtl, ∃ sw : Bool, ∃ s : State, (let b := padTo 64 flit
 (let x := s.port p.val
  (let vc := leAt b 0 1 % 4
   (let kind := bits (leAt b 0 1) 2 3
    (let ok := !sw && crc32 (b.take 60) == leAt b 60 4
     (2 ≤ s.fget F.CHN_P_STAT_STATE p.val) ∧ (ok = true) ∧ (kind = 2) ∧ (s.fget F.CHN_P_STAT_STATE p.val < 4) ∧ (num.toNat = x.rxCount) ∧
       (bit (leAt b 0 1) 5 = true) ∧ (Sparse.get (fun _ => []) x.rx vc = []) ∧ (let g : Seg := ⟨vc, (b.drop 4).take 56, []⟩
      (g.ttype ≠ 5) ∧ (s.flag F.CHN_STAT_ADDRVALID = true) ∧ (g.dest = s.chainAddr)))))))) ∧
    (∃ p : Fin 3, ∃ s : State, ∃ u : Nat × List Byte, ∃ rest : List (Nat × List Byte), ((s.port p.val).unacked = u :: rest) ∧ (let x := s.port p.val
 (let k := if x.replayNo = u.1 ∧ x.replays ≠ 0 then x.replays + 1 else 1
  (k < 8)))) ∧
    (∃ p : Fin 3, ∃ s : State, ∃ u : Nat × List Byte, ∃ rest : List (Nat × List Byte), ((s.port p.val).unacked = u :: rest) ∧ (let x := s.port p.val
 (let k := if x.replayNo = u.1 ∧ x.replays ≠ 0 then x.replays + 1 else 1
  (8 ≤ k)))) ∧
    (∃ p : Fin 3, ∃ s : State, (s.fget F.CHN_P_STAT_STATE p.val = 2 ∨ s.fget F.CHN_P_STAT_STATE p.val = 3) ∧ (s.chn.fwd = []) ∧
      (let x := s.port p.val
 (x.nak = true))) ∧
    (∃ p : Fin 3, ∃ s : State, (s.fget F.CHN_P_STAT_STATE p.val = 2 ∨ s.fget F.CHN_P_STAT_STATE p.val = 3) ∧ (s.chn.fwd = []) ∧
      (let x := s.port p.val
 ∃ k, ∃ u, (x.nak = false) ∧ (x.replayFrom = some k) ∧ (x.unacked.find? (fun u => u.1 == k) = some u))) ∧
    (∃ p : Fin 3, ∃ s : State, (s.fget F.CHN_P_STAT_STATE p.val = 2 ∨ s.fget F.CHN_P_STAT_STATE p.val = 3) ∧ (s.chn.fwd = []) ∧
      (let x := s.port p.val
 (x.nak = false) ∧ (x.replayFrom = none) ∧ (x.pick = none))) ∧
    (∃ p : Fin 3, ∃ s : State, (s.fget F.CHN_P_STAT_STATE p.val = 2 ∨ s.fget F.CHN_P_STAT_STATE p.val = 3) ∧ (s.chn.fwd = []) ∧
      (let x := s.port p.val
 ∃ vc, ∃ kind, ∃ last, ∃ body, ∃ rest, (x.nak = false) ∧ (x.replayFrom = none) ∧ (x.unacked.length < 256) ∧ (x.pick = some vc) ∧
   ((x.load vc).left vc = (kind, last, body) :: rest))) ∧
    (∃ p : Fin 3, ∃ s : State, ∃ g : Seg, ∃ rest : List Seg, (s.fget F.CHN_P_STAT_STATE p.val = 4) ∧ (s.domOn 6 = true) ∧
      ((s.port p.val).queue = g :: rest)) :=
  ⟨⟨0, 7, 31, (on.fset F.CHN_CTL_PORTEN 1), by decide +kernel, by decide +kernel⟩,
   ⟨0, (on.fset F.CHN_CTL_PORTEN 1), by decide +kernel, by decide +kernel, by decide +kernel⟩,
   ⟨0, 1, (((on.fset F.CHN_P_STAT_STATE 2 0).fset F.CHN_P_STAT_LANES 15 0).fset F.CHN_P_STAT_SPAREFOR 15 0), by decide +kernel,
     by decide +kernel, by decide +kernel, by decide +kernel⟩,
   ⟨0, 1, (((((on.fset F.CHN_P_STAT_STATE 2 0).fset F.CHN_P_STAT_LANES 15 0).fset F.CHN_P_STAT_SPAREFOR 15 0).fset F.CHN_P_STAT_LANES 30 0).fset F.CHN_P_STAT_SPAREFOR 0 0),
     by decide +kernel, by decide +kernel, by decide +kernel⟩,
   ⟨0, 1, (((((on.fset F.CHN_P_STAT_STATE 2 0).fset F.CHN_P_STAT_LANES 15 0).fset F.CHN_P_STAT_SPAREFOR 15 0).fset F.CHN_P_STAT_LANES 3 0).fset F.CHN_P_STAT_STATE 3 0),
     by decide +kernel, by decide +kernel⟩,
   ⟨0, [3], (((((on.fset F.CHN_P_STAT_STATE 2 0).fset F.CHN_P_STAT_LANES 15 0).fset F.CHN_P_STAT_SPAREFOR 15 0)).setPort 0 { Port.fresh with segs := [⟨0, segBody 5 { dest := 0xFFF, ttype := 7, own := [7, 0] }, []⟩] }), ⟨0, segBody 5 { dest := 0xFFF, ttype := 7, own := [7, 0] }, []⟩,
     by decide +kernel⟩,
   ⟨0, [], 0, none, true, (((on.fset F.CHN_P_STAT_STATE 2 0).fset F.CHN_P_STAT_LANES 15 0).fset F.CHN_P_STAT_SPAREFOR 15 0),
     by decide +kernel, by decide +kernel⟩,
   ⟨0, flitBytes 0 0 false 0 0 0 [], 0, none, false, (((on.fset F.CHN_P_STAT_STATE 2 0).fset F.CHN_P_STAT_LANES 15 0).fset F.CHN_P_STAT_SPAREFOR 15 0),
     by decide +kernel, by decide +kernel, by decide +kernel⟩,
   ⟨0, flitBytes 0 1 false 0 0 0 [], 0, some (.nak 3), false, (((on.fset F.CHN_P_STAT_STATE 2 0).fset F.CHN_P_STAT_LANES 15 0).fset F.CHN_P_STAT_SPAREFOR 15 0),
     by decide +kernel, by decide +kernel, by decide +kernel, 3, by decide +kernel, by decide +kernel⟩,
   ⟨0, flitBytes 2 3 false 0 0 0 [1, 2], 0, none, false, (((on.fset F.CHN_P_STAT_STATE 2 0).fset F.CHN_P_STAT_LANES 15 0).fset F.CHN_P_STAT_SPAREFOR 15 0),
     by decide +kernel, by decide +kernel, .inr (by decide +kernel), by decide +kernel, by decide +kernel, by decide +kernel⟩,
   ⟨0, flitBytes 3 2 true 0 0 0 (segBody 5 { dest := 7, ttype := 3 }), 0, none, false, (((((on.fset F.CHN_P_STAT_STATE 2 0).fset F.CHN_P_STAT_LANES 15 0).fset F.CHN_P_STAT_SPAREFOR 15 0).setFlag F.CHN_STAT_ADDRVALID true).fset F.CHN_STAT_ADDR 7),
     by decide +kernel, by decide +kernel, by decide +kernel, by decide +kernel, by decide +kernel, by decide +kernel,
     by decide +kernel, by decide +kernel, by decide +kernel, by decide +kernel⟩,
   ⟨0, (((((on.fset F.CHN_P_STAT_STATE 2 0).fset F.CHN_P_STAT_LANES 15 0).fset F.CHN_P_STAT_SPAREFOR 15 0)).setPort 0 { Port.fresh with unacked := [(9, [0x0B, 1])] }), (9, [0x0B, 1]), [],
     by decide +kernel, by decide +kernel⟩,
   ⟨0, (((((on.fset F.CHN_P_STAT_STATE 2 0).fset F.CHN_P_STAT_LANES 15 0).fset F.CHN_P_STAT_SPAREFOR 15 0)).setPort 0 { Port.fresh with unacked := [(9, [0x0B, 1])], replayNo := 9, replays := 7 }), (9, [0x0B, 1]), [],
     by decide +kernel, by decide +kernel⟩,
   ⟨0, (((((on.fset F.CHN_P_STAT_STATE 2 0).fset F.CHN_P_STAT_LANES 15 0).fset F.CHN_P_STAT_SPAREFOR 15 0)).setPort 0 { Port.fresh with nak := true }), .inl (by decide +kernel),
     by decide +kernel, by decide +kernel⟩,
   ⟨0, (((((on.fset F.CHN_P_STAT_STATE 2 0).fset F.CHN_P_STAT_LANES 15 0).fset F.CHN_P_STAT_SPAREFOR 15 0)).setPort 0 { Port.fresh with unacked := [(9, [0x0B, 1])], replayFrom := some 9 }), .inl (by decide +kernel),
     by decide +kernel, 9, (9, [0x0B, 1]), by decide +kernel, by decide +kernel, by decide +kernel⟩,
   ⟨0, (((on.fset F.CHN_P_STAT_STATE 2 0).fset F.CHN_P_STAT_LANES 15 0).fset F.CHN_P_STAT_SPAREFOR 15 0), .inl (by decide +kernel),
     by decide +kernel, by decide +kernel, by decide +kernel, by decide +kernel⟩,
   ⟨0, (((((on.fset F.CHN_P_STAT_STATE 2 0).fset F.CHN_P_STAT_LANES 15 0).fset F.CHN_P_STAT_SPAREFOR 15 0)).setPort 0 { Port.fresh with queue := [⟨3, segBody 5 { dest := 7, ttype := 3, own := [] }, []⟩] }), .inl (by decide +kernel),
     by decide +kernel, 3, 2, 1, segBody 5 { dest := 7, ttype := 3 }, [], by decide +kernel, by decide +kernel, by decide +kernel,
     by decide +kernel, by decide +kernel⟩,
   ⟨0, (((((on.fset F.CHN_P_STAT_STATE 2 0).fset F.CHN_P_STAT_LANES 15 0).fset F.CHN_P_STAT_SPAREFOR 15 0).fset F.CHN_P_STAT_STATE 4 0).setPort 0 { Port.fresh with queue := [⟨3, segBody 5 { dest := 7, ttype := 3, own := [] }, []⟩] }), ⟨3, segBody 5 { dest := 7, ttype := 3, own := [] }, []⟩, [],
     by decide +kernel, by decide +kernel, by decide +kernel⟩⟩

/-- Concrete states and operands that meet the hypotheses of `Obligations.ChainRollCallSegmentsMessagesAndTime`, clause by clause. -/
theorem test_ChainRollCallSegmentsMessagesAndTime_has_witnesses :
    (∃ s : State, (s.domOn 6 = true)) ∧
    (∃ s : State, (s.flag F.CHN_STAT_ROLL = true)) ∧
    (∃ devs : List ChainDev, ∃ links : Fin 64, ∃ standby : Fin 8, ∃ s : State, (s.flag F.CHN_STAT_ROLL = true) ∧ ((devs.map (·.unit)).Nodup)) ∧
    (∃ a : Fin 4095, ∃ s : State, (s.flag F.CHN_STAT_ROOT = true) ∧ (s.route a.val = none) ∧ (a.val ≠ s.chainAddr)) ∧
    (∃ p : Fin 3, ∃ vc : Fin 4, ∃ ok : Bool, ∃ s : State, ∃ g : Seg, (s.firstSeg p.val (fun g => g.vc == vc.val) = some g) ∧ (s.domOn 6 = true) ∧
      ∃ a, ∃ r, (g.ttype = 1) ∧ (remotePhys g.ofs = some a) ∧ (g.len ≠ 0) ∧ (g.len ≤ 4096) ∧
      (remotePhys (g.ofs + g.len - 1) = some (a + g.len - 1)) ∧ (s.loc a ≠ .hole) ∧ (s.loc (a + g.len - 1) = s.loc a) ∧ (g.records = [r]) ∧
      (r.zc = false) ∧ (r.bytes.length ≠ 256) ∧ (bit g.flags 1 = false)) ∧
    (∃ p : Fin 3, ∃ vc : Fin 4, ∃ ok : Bool, ∃ s : State, ∃ g : Seg, (s.firstSeg p.val (fun g => g.vc == vc.val) = some g) ∧ (s.domOn 6 = true) ∧
      (g.ttype = 3) ∧ (vc.val ≠ 1) ∧ (s.enrolling = false) ∧ (s.ringEnabled 3 = true) ∧
      (ceilDiv (messageRecord g s.now).length 64 ≤ s.ringSpace 3)) ∧
    (∃ p : Fin 3, ∃ vc : Fin 4, ∃ ok : Bool, ∃ s : State, ∃ g : Seg, (s.firstSeg p.val (fun g => g.vc == vc.val) = some g) ∧ (s.domOn 6 = true) ∧
      (g.ttype = 5) ∧ (s.flag F.CHN_STAT_ROLL = true) ∧ (s.chn.claims.contains (parseClaim g) = false)) ∧
    (∃ p : Fin 3, ∃ s : State, ∃ g : Seg, ∃ f : Flight, (s.firstSeg p.val (fun g => g.ttype == 4) = some g) ∧
      (s.chn.flights.find? (fun f => f.xfer == g.xfer && f.ofs == g.ofs) = some f) ∧ (leAt g.own 0 1 = 0)) ∧
    (∃ p : Fin 3, ∃ s : State, ∃ g : Seg, ∃ f : Flight, (s.firstSeg p.val (fun g => g.ttype == 4) = some g) ∧
      (s.chn.flights.find? (fun f => f.xfer == g.xfer && f.ofs == g.ofs) = some f) ∧ (leAt g.own 0 1 ≠ 0)) ∧
    (∃ x : Word, ∃ o : Word, ∃ s : State, ∃ f : Flight, (s.chn.flights.find? (fun f => f.xfer == x.toNat && f.ofs == o.toNat) = some f) ∧
      (f.sentTb + max 1 (s.fget F.CHN_E2E_US) * 1000 ≤ s.now) ∧ (f.resent = false)) ∧
    (∃ x : Word, ∃ o : Word, ∃ s : State, ∃ f : Flight, (s.chn.flights.find? (fun f => f.xfer == x.toNat && f.ofs == o.toNat) = some f) ∧
      (f.sentTb + max 1 (s.fget F.CHN_E2E_US) * 1000 ≤ s.now) ∧ (f.resent = true) ∧ (f.owner = 0x100)) ∧
    (∃ p : Fin 3, ∃ s : State, ∃ g : Seg, (s.firstSeg p.val (fun g => g.ttype == 3 && g.vc == 1) = some g) ∧ (s.ringEnabled 3 = true) ∧
      (2 ≤ s.ringSpace 3)) ∧
    (∃ p : Fin 3, ∃ s : State, ∃ g : Seg, (s.firstSeg p.val (fun g => g.ttype == 3 && g.vc == 1) = some g) ∧
      (s.ringEnabled 3 = false ∨ s.ringSpace 3 < 2)) ∧
    (∃ s : State, ∃ b : List Byte, ∃ rest : List (List Byte), (s.chn.fwd = b :: rest)) ∧
    (∃ r : Req, ∃ v : Word, ∃ s : State, ∃ q : Nat, (s.homeReq r) ∧ (s.flag F.CHN_MSGSTAT_BUSY = false) ∧ (s.flag F.CHN_STAT_ADDRVALID = true) ∧
      (s.fget F.CHN_MSGDST_VC = 0 ∨ s.fget F.CHN_MSGDST_VC = 3) ∧ (s.fget F.CHN_MSGDST_DEST ≠ 0xFFF) ∧ (getField v 0 11 ≤ 1024) ∧
      (s.route (s.fget F.CHN_MSGDST_DEST) = some q)) ∧
    (∃ p : Fin 3, ∃ resid : Half, ∃ s : State, ∃ g : Seg, (s.firstSeg p.val (fun g => g.ttype == 6) = some g) ∧ (g.body.length = 56)) ∧
    (∃ p : Fin 3, ∃ ns : Half, ∃ s : State, (s.portUp p.val = true)) ∧
    (∃ s : State, (s.enrolling = true) ∧ (s.flag F.CHN_STAT_ADDRVALID = true)) :=
  ⟨⟨on, by decide +kernel⟩,
   ⟨((((on.fset F.CHN_P_STAT_STATE 2 0).fset F.CHN_P_STAT_LANES 15 0).fset F.CHN_P_STAT_SPAREFOR 15 0).setFlag F.CHN_STAT_ROLL true),
     by decide +kernel⟩,
   ⟨[⟨1, none, 0, 0x9440, 0, 0, false, 0, none, none⟩, ⟨2, some 9, 0, 0x9440, 0, 1, false, 1, some 0, none⟩], 0, 0, ((((on.fset F.CHN_P_STAT_STATE 2 0).fset F.CHN_P_STAT_LANES 15 0).fset F.CHN_P_STAT_SPAREFOR 15 0).setFlag F.CHN_STAT_ROLL true),
     by decide +kernel, by decide +kernel⟩,
   ⟨9, on.setFlag F.CHN_STAT_ROOT true, by decide +kernel, by decide +kernel, by decide +kernel⟩,
   ⟨0, 2, true, (((((((on.fset F.CHN_P_STAT_STATE 2 0).fset F.CHN_P_STAT_LANES 15 0).fset F.CHN_P_STAT_SPAREFOR 15 0).setFlag F.CHN_STAT_ADDRVALID true).fset F.CHN_STAT_ADDR 7)).setPort 0 { Port.fresh with segs := [⟨2, segBody 5 { dest := 7, ttype := 1, own := [], ofs := 0x1000, len := 8, cls := 1 }, [leBytes 4 8 ++ leBytes 4 (crc32c [1, 2, 3, 4, 5, 6, 7, 8]) ++ [1, 2, 3, 4, 5, 6, 7, 8] ++ List.replicate 40 0]⟩] }), ⟨2, segBody 5 { dest := 7, ttype := 1, own := [], ofs := 0x1000, len := 8, cls := 1 }, [leBytes 4 8 ++ leBytes 4 (crc32c [1, 2, 3, 4, 5, 6, 7, 8]) ++ [1, 2, 3, 4, 5, 6, 7, 8] ++ List.replicate 40 0]⟩,
     by decide +kernel, by decide +kernel, 0x0100001000, ⟨crc32c [1, 2, 3, 4, 5, 6, 7, 8], false, [1, 2, 3, 4, 5, 6, 7, 8]⟩,
     by decide +kernel, by decide +kernel, by decide +kernel, by decide +kernel, by decide +kernel, by decide +kernel,
     by decide +kernel, by decide +kernel, by decide +kernel, by decide +kernel, by decide +kernel⟩,
   ⟨0, 3, true, ((((((((((on.fset F.CHN_P_STAT_STATE 2 0).fset F.CHN_P_STAT_LANES 15 0).fset F.CHN_P_STAT_SPAREFOR 15 0).setFlag F.CHN_STAT_ADDRVALID true).fset F.CHN_STAT_ADDR 7).rset R.HOST_RR_BASE 0x100800 3).setFlag F.HOST_RR_CFG_EN true 3).fset F.HOST_RR_CFG_SIZEM1 63 3)).setPort 0 { Port.fresh with segs := [⟨3, segBody 5 { dest := 7, ttype := 3, own := [0x41], len := 8 }, [List.replicate 56 1]⟩] }), ⟨3, segBody 5 { dest := 7, ttype := 3, own := [0x41], len := 8 }, [List.replicate 56 1]⟩,
     by decide +kernel, by decide +kernel, by decide +kernel, by decide +kernel, by decide +kernel, by decide +kernel, by decide +kernel⟩,
   ⟨0, 0, true, ((((((on.fset F.CHN_P_STAT_STATE 2 0).fset F.CHN_P_STAT_LANES 15 0).fset F.CHN_P_STAT_SPAREFOR 15 0).setFlag F.CHN_STAT_ROLL true)).setPort 0 { Port.fresh with segs := [⟨0, segBody 5 { dest := 0xFFF, ttype := 5, own := claimBytes (1, 4, 0) }, []⟩] }), ⟨0, segBody 5 { dest := 0xFFF, ttype := 5, own := claimBytes (1, 4, 0) }, []⟩,
     by decide +kernel, by decide +kernel, by decide +kernel, by decide +kernel, by decide +kernel⟩,
   ⟨0, ({ (((((((on.fset F.CHN_P_STAT_STATE 2 0).fset F.CHN_P_STAT_LANES 15 0).fset F.CHN_P_STAT_SPAREFOR 15 0).setFlag F.CHN_STAT_ADDRVALID true).fset F.CHN_STAT_ADDR 7)).setPort 0 { Port.fresh with segs := [⟨2, segBody 5 { dest := 7, ttype := 4, own := [0], xfer := 3, ofs := 0 }, []⟩] }) with chn := { ((((((((on.fset F.CHN_P_STAT_STATE 2 0).fset F.CHN_P_STAT_LANES 15 0).fset F.CHN_P_STAT_SPAREFOR 15 0).setFlag F.CHN_STAT_ADDRVALID true).fset F.CHN_STAT_ADDR 7)).setPort 0 { Port.fresh with segs := [⟨2, segBody 5 { dest := 7, ttype := 4, own := [0], xfer := 3, ofs := 0 }, []⟩] }) : State).chn with flights := [⟨0x100, 3, 0, ⟨3, segBody 5 { dest := 7, ttype := 3, own := [] }, []⟩, 0, false⟩] } } : State), ⟨2, segBody 5 { dest := 7, ttype := 4, own := [0], xfer := 3, ofs := 0 }, []⟩, ⟨0x100, 3, 0, ⟨3, segBody 5 { dest := 7, ttype := 3, own := [] }, []⟩, 0, false⟩,
     by decide +kernel, by decide +kernel, by decide +kernel⟩,
   ⟨0, ({ (((((((on.fset F.CHN_P_STAT_STATE 2 0).fset F.CHN_P_STAT_LANES 15 0).fset F.CHN_P_STAT_SPAREFOR 15 0).setFlag F.CHN_STAT_ADDRVALID true).fset F.CHN_STAT_ADDR 7)).setPort 0 { Port.fresh with segs := [⟨2, segBody 5 { dest := 7, ttype := 4, own := [1], xfer := 3, ofs := 0 }, []⟩] }) with chn := { ((((((((on.fset F.CHN_P_STAT_STATE 2 0).fset F.CHN_P_STAT_LANES 15 0).fset F.CHN_P_STAT_SPAREFOR 15 0).setFlag F.CHN_STAT_ADDRVALID true).fset F.CHN_STAT_ADDR 7)).setPort 0 { Port.fresh with segs := [⟨2, segBody 5 { dest := 7, ttype := 4, own := [1], xfer := 3, ofs := 0 }, []⟩] }) : State).chn with flights := [⟨0x100, 3, 0, ⟨3, segBody 5 { dest := 7, ttype := 3, own := [] }, []⟩, 0, false⟩] } } : State), ⟨2, segBody 5 { dest := 7, ttype := 4, own := [1], xfer := 3, ofs := 0 }, []⟩, ⟨0x100, 3, 0, ⟨3, segBody 5 { dest := 7, ttype := 3, own := [] }, []⟩, 0, false⟩,
     by decide +kernel, by decide +kernel, by decide +kernel⟩,
   ⟨3, 0, ({ (((((on.fset F.CHN_P_STAT_STATE 2 0).fset F.CHN_P_STAT_LANES 15 0).fset F.CHN_P_STAT_SPAREFOR 15 0).setFlag F.CHN_STAT_ADDRVALID true).fset F.CHN_STAT_ADDR 7) with chn := { ((((((on.fset F.CHN_P_STAT_STATE 2 0).fset F.CHN_P_STAT_LANES 15 0).fset F.CHN_P_STAT_SPAREFOR 15 0).setFlag F.CHN_STAT_ADDRVALID true).fset F.CHN_STAT_ADDR 7) : State).chn with flights := [⟨0x100, 3, 0, ⟨3, segBody 5 { dest := 7, ttype := 3, own := [] }, []⟩, 0, false⟩] } } : State), ⟨0x100, 3, 0, ⟨3, segBody 5 { dest := 7, ttype := 3, own := [] }, []⟩, 0, false⟩,
     by decide +kernel, by decide +kernel, by decide +kernel⟩,
   ⟨3, 0, ({ (((((on.fset F.CHN_P_STAT_STATE 2 0).fset F.CHN_P_STAT_LANES 15 0).fset F.CHN_P_STAT_SPAREFOR 15 0).setFlag F.CHN_STAT_ADDRVALID true).fset F.CHN_STAT_ADDR 7) with chn := { ((((((on.fset F.CHN_P_STAT_STATE 2 0).fset F.CHN_P_STAT_LANES 15 0).fset F.CHN_P_STAT_SPAREFOR 15 0).setFlag F.CHN_STAT_ADDRVALID true).fset F.CHN_STAT_ADDR 7) : State).chn with flights := [⟨0x100, 3, 0, ⟨3, segBody 5 { dest := 7, ttype := 3, own := [] }, []⟩, 0, true⟩] } } : State), ⟨0x100, 3, 0, ⟨3, segBody 5 { dest := 7, ttype := 3, own := [] }, []⟩, 0, true⟩,
     by decide +kernel, by decide +kernel, by decide +kernel, by decide +kernel⟩,
   ⟨0, ((((((((((on.fset F.CHN_P_STAT_STATE 2 0).fset F.CHN_P_STAT_LANES 15 0).fset F.CHN_P_STAT_SPAREFOR 15 0).setFlag F.CHN_STAT_ADDRVALID true).fset F.CHN_STAT_ADDR 7).rset R.HOST_RR_BASE 0x100800 3).setFlag F.HOST_RR_CFG_EN true 3).fset F.HOST_RR_CFG_SIZEM1 63 3)).setPort 0 { Port.fresh with segs := [⟨1, segBody 5 { dest := 7, ttype := 3, own := [], len := 64, cls := 5 }, [List.replicate 56 1, List.replicate 56 2]⟩] }), ⟨1, segBody 5 { dest := 7, ttype := 3, own := [], len := 64, cls := 5 }, [List.replicate 56 1, List.replicate 56 2]⟩,
     by decide +kernel, by decide +kernel, by decide +kernel⟩,
   ⟨0, (((((((on.fset F.CHN_P_STAT_STATE 2 0).fset F.CHN_P_STAT_LANES 15 0).fset F.CHN_P_STAT_SPAREFOR 15 0).setFlag F.CHN_STAT_ADDRVALID true).fset F.CHN_STAT_ADDR 7)).setPort 0 { Port.fresh with segs := [⟨1, segBody 5 { dest := 7, ttype := 3, own := [], len := 64, cls := 5 }, [List.replicate 56 1, List.replicate 56 2]⟩] }), ⟨1, segBody 5 { dest := 7, ttype := 3, own := [], len := 64, cls := 5 }, [List.replicate 56 1, List.replicate 56 2]⟩,
     by decide +kernel, .inl (by decide +kernel)⟩,
   ⟨({ on with chn := { Chn.fresh with fwd := [[1], [2]] } } : State), [1], [[2]], by decide +kernel⟩,
   ⟨.core 0, 8, ((((((((on.fset F.CHN_P_STAT_STATE 2 0).fset F.CHN_P_STAT_LANES 15 0).fset F.CHN_P_STAT_SPAREFOR 15 0).setFlag F.CHN_STAT_ADDRVALID true).fset F.CHN_STAT_ADDR 7).fset F.CHN_MSGDST_DEST 9).fset F.CHN_MSGDST_VC 3).fset F.CHN_RT_PRIMARY 0 9), 0,
     by decide +kernel, by decide +kernel, by decide +kernel, .inr (by decide +kernel), by decide +kernel, by decide +kernel, by decide +kernel⟩,
   ⟨0, 10, (((((((on.fset F.CHN_P_STAT_STATE 2 0).fset F.CHN_P_STAT_LANES 15 0).fset F.CHN_P_STAT_SPAREFOR 15 0).setFlag F.CHN_STAT_ADDRVALID true).fset F.CHN_STAT_ADDR 7)).setPort 0 { Port.fresh with segs := [⟨0, segBody 5 { dest := 0xFFF, ttype := 6, own := leBytes 8 1000000 ++ leBytes 8 50 }, []⟩] }), ⟨0, segBody 5 { dest := 0xFFF, ttype := 6, own := leBytes 8 1000000 ++ leBytes 8 50 }, []⟩,
     by decide +kernel, by decide +kernel⟩,
   ⟨0, 12, (((on.fset F.CHN_P_STAT_STATE 2 0).fset F.CHN_P_STAT_LANES 15 0).fset F.CHN_P_STAT_SPAREFOR 15 0), by decide +kernel⟩,
   ⟨(((((on.fset F.CHN_P_STAT_STATE 2 0).fset F.CHN_P_STAT_LANES 15 0).fset F.CHN_P_STAT_SPAREFOR 15 0).setFlag F.CHN_STAT_ADDRVALID true).fset F.CHN_STAT_ADDR 7).fset F.BOOT_STAT_STATE 3,
     by decide +kernel, by decide +kernel⟩⟩

/-- Concrete states and operands that meet the hypotheses of `Obligations.TapInstructionsSelectAndAnswer`, clause by clause. -/
theorem test_TapInstructionsSelectAndAnswer_has_witnesses :
    (∃ code : Byte, ∃ tdi : Byte, ∃ s : State, (2 < code.toNat) ∧ ((code ≠ 0x10 ∧ code ≠ 0x11) ∨ s.flag F.SYS_STRAP_DBGEN = false)) ∧
    (∃ dmi : Bool, ∃ set : Option (Fin 2 × Word), ∃ s : State, (s.flag F.SYS_STRAP_DBGEN = false)) ∧
    (∃ dmi : Bool, ∃ s : State, (s.flag F.SYS_STRAP_DBGEN = true)) ∧
    (∃ p : Fin 2, ∃ v : Word, ∃ s : State, (s.flag F.SYS_STRAP_DBGEN = true) ∧ (s.domOn 2 = true) ∧
      (classTable (getField v 0 3) (getField v 4 3) = true)) :=
  ⟨⟨0x20, 1, on, by decide +kernel, .inl (by decide +kernel)⟩,
   ⟨true, none, on, by decide +kernel⟩,
   ⟨true, on.setFlag F.SYS_STRAP_DBGEN true, by decide +kernel⟩,
   ⟨0, 0x23, on.setFlag F.SYS_STRAP_DBGEN true, by decide +kernel, by decide +kernel, by decide +kernel⟩⟩

end Sys2Proof.Machine.Tests
end

section
/-! PROOF. What the operations of the model leave alone: TIMEBASE and the queue of commands that wait. One lemma for each operation, in
the order of the model; an operation's proof cites those of the operations it uses. A reset alone writes TIMEBASE (R18). -/

namespace Sys2Proof.Machine

/-- TIMEBASE and the commands that wait. -/
def State.clockQueue (s : State) : DWord × List Instr := (s.timebase, s.pending)

theorem State.timebase_of_clockQueue {s t : State} (h : t.clockQueue = s.clockQueue) : t.timebase = s.timebase := congrArg Prod.fst h

variable (s : State)

/-- A record update of any other part. Its proof is `(rfl)`, as are those of this part of the file: simp then cites the lemma, and the
kernel need not compare two unfolded states. -/
@[simp ↓] theorem State.clockQueue_mk (regs shadows armed latches lyctx0 lyctx1 locked d2dFails mem memsys mmu streams sto rings chn cim acq
    aos aoSilent safe ledger hosts pwr boot tap irqCimp events irqFault irqHalt irqSto resp tx free) :
    State.clockQueue ⟨s.timebase, regs, shadows, armed, latches, lyctx0, lyctx1, locked, d2dFails, mem, memsys, mmu, streams, sto, rings,
      chn, cim, acq, aos, aoSilent, safe, ledger, hosts, pwr, boot, tap, irqCimp, events, irqFault, irqHalt, irqSto, resp, tx, free,
      s.pending⟩ = s.clockQueue := (rfl)

@[simp ↓] theorem State.clockQueue_ite (c : Prop) [Decidable c] (a b : State) :
    (if c then a else b).clockQueue = if c then a.clockQueue else b.clockQueue := apply_ite ..

/-! ### Folds and pairs -/

@[simp] theorem clockQueue_foldl {α : Type} (f : State → α → State) (h : ∀ t x, (f t x).clockQueue = t.clockQueue) (l : List α)
    (s : State) : (l.foldl f s).clockQueue = s.clockQueue := by
  induction l generalizing s with
  | nil => rfl
  | cons x l ih => rw [List.foldl_cons, ih, h]

theorem clockQueue_foldl_fst {α β : Type} (f : State × β → α → State × β) (h : ∀ x y, (f x y).1.clockQueue = x.1.clockQueue)
    (l : List α) (x : State × β) : (l.foldl f x).1.clockQueue = x.1.clockQueue := by
  induction l generalizing x with
  | nil => rfl
  | cons y l ih => rw [List.foldl_cons, ih, h]

theorem clockQueue_foldl_snd {α β : Type} (f : β × State → α → β × State) (h : ∀ x y, (f x y).2.clockQueue = x.2.clockQueue)
    (l : List α) (x : β × State) : (l.foldl f x).2.clockQueue = x.2.clockQueue := by
  induction l generalizing x with
  | nil => rfl
  | cons y l ih => rw [List.foldl_cons, ih, h]

/-- The state that a match takes out of an answer, from the lemma about the answer. -/
theorem clockQueue_of_fst {α : Type} {p : State × α} {t : State} {x : α} (h : p = (t, x)) : t.clockQueue = p.1.clockQueue := by
  rw [h]

theorem clockQueue_of_snd {α : Type} {p : α × State} {x : α} {t : State} (h : p = (x, t)) : t.clockQueue = p.2.clockQueue := by
  rw [h]

/-! ### Outcomes of commands -/

/-- The outcome of a command on `s` is a next state with the TIMEBASE and the waiting commands of `s`. -/
def KeepsClockQueue (s : State) (o : Out State) : Prop := ∃ t, o = .next t ∧ t.clockQueue = s.clockQueue

@[simp ↓] theorem keepsClockQueue_next (t : State) : KeepsClockQueue s (.next t) ↔ t.clockQueue = s.clockQueue := by
  simp [KeepsClockQueue]

theorem timebase_eq_of_keepsClockQueue {s t : State} {o : Out State} (h : KeepsClockQueue s o) (ho : o = .next t) :
    t.timebase = s.timebase := by
  subst ho
  exact State.timebase_of_clockQueue ((keepsClockQueue_next s t).mp h)

/-! ### The shared operations -/

@[simp ↓] theorem State.wr_clockQueue (a : Nat) (v : Word) : (s.wr a v).clockQueue = s.clockQueue := by simp [State.wr]
@[simp ↓] theorem State.rset_clockQueue (r : RegDesc) (v i j : Nat) : (s.rset r v i j).clockQueue = s.clockQueue := by simp [State.rset]
@[simp ↓] theorem State.fset_clockQueue (f : Fld) (v i j : Nat) : (s.fset f v i j).clockQueue = s.clockQueue := by simp [State.fset]
@[simp ↓] theorem State.setFlag_clockQueue (f : Fld) (b : Bool) (i j : Nat) :
    (s.setFlag f b i j).clockQueue = s.clockQueue := by simp [State.setFlag]
@[simp ↓] theorem State.count_clockQueue (r : RegDesc) (n i j : Nat) : (s.count r n i j).clockQueue = s.clockQueue := by simp [State.count]
@[simp ↓] theorem State.fcount_clockQueue (f : Fld) (n i j : Nat) : (s.fcount f n i j).clockQueue = s.clockQueue := by simp [State.fcount]
@[simp ↓] theorem State.countWrap_clockQueue (r : RegDesc) (n i j : Nat) :
    (s.countWrap r n i j).clockQueue = s.clockQueue := by simp [State.countWrap]
@[simp ↓] theorem State.draw_clockQueue : s.draw.2.clockQueue = s.clockQueue := by simp [State.draw]
@[simp ↓] theorem State.setStream_clockQueue (n : Nat) (x : Stream) :
    (s.setStream n x).clockQueue = s.clockQueue := by simp [State.setStream]
@[simp ↓] theorem State.violate_clockQueue (c unit kind addr : Nat) :
    (s.violate c unit kind addr).clockQueue = s.clockQueue := by simp [State.violate]
@[simp ↓] theorem State.violateBy_clockQueue (r : Req) (kind addr : Nat) :
    (s.violateBy r kind addr).clockQueue = s.clockQueue := by simp [State.violateBy]
@[simp ↓] theorem State.send_clockQueue (port kind : Nat) (b : List Byte) :
    (s.send port kind b).clockQueue = s.clockQueue := by simp [State.send]
@[simp ↓] theorem State.ring_clockQueue (b inc : Nat) : (s.ring b inc).clockQueue = s.clockQueue := by simp [State.ring]
@[simp ↓] theorem State.evOcc_clockQueue : s.evOcc.clockQueue = s.clockQueue := by simp [State.evOcc]
@[simp ↓] theorem State.forward_clockQueue (on : Bool) (b : List Byte) :
    (s.forward on b).clockQueue = s.clockQueue := by simp [State.forward]
@[simp ↓] theorem State.cardAt_clockQueue (c : CardArgs) (origin : Nat) :
    (s.cardAt c origin).clockQueue = s.clockQueue := by simp [State.cardAt]
@[simp ↓] theorem State.card_clockQueue (c : CardArgs) : (s.card c).clockQueue = s.clockQueue := by simp [State.card]

@[simp ↓] theorem State.putMem_clockQueue (a : Nat) (data : List Byte) (fuel : Nat) : (s.putMem a data fuel).clockQueue = s.clockQueue := by
  induction fuel generalizing s a data with
  | zero => simp [State.putMem]
  | succ fuel ih => simp [State.putMem, ih]

@[simp ↓] theorem State.store_clockQueue (a : Nat) (data : List Byte) : (s.store a data).clockQueue = s.clockQueue := by simp [State.store]

/-! ### On-package memory (spec/03) -/

@[simp ↓] theorem State.asHome_clockQueue (r : Req) (a : Nat) (f : State → State) (h : (f s).clockQueue = s.clockQueue) :
    (s.asHome r a f).clockQueue = s.clockQueue := by simp [State.asHome, h]
@[simp ↓] theorem State.asCtx_clockQueue (r : Req) (a kind : Nat) (ok : Nat → Bool) (f : State → State)
    (h : (f s).clockQueue = s.clockQueue) : (s.asCtx r a kind ok f).clockQueue = s.clockQueue := by simp [State.asCtx, h]
@[simp ↓] theorem State.respond_clockQueue (error : Bool) (data : List Byte) :
    (s.respond error data).clockQueue = s.clockQueue := by simp [State.respond]
@[simp ↓] theorem State.setLosses_clockQueue (bank port n : Nat) :
    (s.setLosses bank port n).clockQueue = s.clockQueue := by simp [State.setLosses]
@[simp ↓] theorem State.loseSlot_clockQueue (bank port : Nat) : (s.loseSlot bank port).clockQueue = s.clockQueue := by simp [State.loseSlot]
@[simp ↓] theorem State.arbitrate_clockQueue (bank port cls : Nat) (rivals : List (Nat × Nat)) :
    (s.arbitrate bank port cls rivals).2.clockQueue = s.clockQueue := by simp [State.arbitrate]

@[simp ↓] theorem State.slotFor_clockQueue (r : Req) (a : Nat) (rivals : List (Fin 8 × Fin 6)) :
    (s.slotFor r a rivals).2.clockQueue = s.clockQueue := by
  grind [State.slotFor, State.count_clockQueue, State.arbitrate_clockQueue]

@[simp ↓] theorem State.clearConflicts_clockQueue : s.clearConflicts.clockQueue = s.clockQueue := by simp [State.clearConflicts]
@[simp ↓] theorem State.writeMemCtl_clockQueue (v : Word) : (s.writeMemCtl v).clockQueue = s.clockQueue := by simp [State.writeMemCtl]
@[simp ↓] theorem execSplitRequest_keepsClockQueue (r : Req) (v : Word) :
    KeepsClockQueue s (execSplitRequest r v s) := by simp [execSplitRequest]
@[simp ↓] theorem execSplitEnter_keepsClockQueue : KeepsClockQueue s (execSplitEnter s) := by simp [execSplitEnter]
@[simp ↓] theorem execSplitLeave_keepsClockQueue (r : Req) (v : Word) : KeepsClockQueue s (execSplitLeave r v s) := by simp [execSplitLeave]
@[simp ↓] theorem execConflictCounterClear_keepsClockQueue (r : Req) (v : Word) :
    KeepsClockQueue s (execConflictCounterClear r v s) := by simp [execConflictCounterClear]
@[simp ↓] theorem State.setLines_clockQueue (n : Nat) (l : List L1Line) :
    (s.setLines n l).clockQueue = s.clockQueue := by simp [State.setLines]
@[simp ↓] theorem State.l1WriteBack_clockQueue (n : Nat) : (s.l1WriteBack n).clockQueue = s.clockQueue := by simp [State.l1WriteBack]
@[simp ↓] theorem State.l1Drop_clockQueue (n : Nat) : (s.l1Drop n).clockQueue = s.clockQueue := by simp [State.l1Drop]
@[simp ↓] theorem State.unlockLines_clockQueue (n : Nat) : (s.unlockLines n).clockQueue = s.clockQueue := by simp [State.unlockLines]
@[simp ↓] theorem State.zeroRange_clockQueue (lo hi : Nat) : (s.zeroRange lo hi).clockQueue = s.clockQueue := by simp [State.zeroRange]
@[simp ↓] theorem State.setL1Resize_clockQueue (n v : Nat) : (s.setL1Resize n v).clockQueue = s.clockQueue := by simp [State.setL1Resize]
@[simp ↓] theorem State.writeL1Cfg_clockQueue (r : Req) (n : Nat) (v : Word) :
    (s.writeL1Cfg r n v).clockQueue = s.clockQueue := by simp [State.writeL1Cfg]
@[simp ↓] theorem State.l1CfgWrite_clockQueue (r : Req) (n : Nat) (v : Word) :
    (s.l1CfgWrite r n v).clockQueue = s.clockQueue := by simp [State.l1CfgWrite]
@[simp ↓] theorem execL1CacheResize_keepsClockQueue (r : Req) (n : Fin 8) (v : Word) :
    KeepsClockQueue s (execL1CacheResize r n v s) := by simp [execL1CacheResize]
@[simp ↓] theorem execL1Flush_keepsClockQueue (r : Req) (n : Fin 8) (v : Word) :
    KeepsClockQueue s (execL1Flush r n v s) := by simp [execL1Flush]
@[simp ↓] theorem execL1Invalidate_keepsClockQueue (r : Req) (n : Fin 8) (v : Word) :
    KeepsClockQueue s (execL1Invalidate r n v s) := by simp [execL1Invalidate]
@[simp ↓] theorem State.setRegion_clockQueue (n : Nat) (x : Region) :
    (s.setRegion n x).clockQueue = s.clockQueue := by simp [State.setRegion]
@[simp ↓] theorem State.invalidateRegions_clockQueue (lo hi : Nat) :
    (s.invalidateRegions lo hi).clockQueue = s.clockQueue := by simp [State.invalidateRegions]
@[simp ↓] theorem execL1CacheResizeDone_keepsClockQueue (n : Fin 8) :
    KeepsClockQueue s (execL1CacheResizeDone n s) := by simp [execL1CacheResizeDone]
@[simp ↓] theorem State.writeCrCfg_clockQueue (r : Req) (n : Nat) (v : Word) (setup : Bool) :
    (s.writeCrCfg r n v setup).clockQueue = s.clockQueue := by simp [State.writeCrCfg]
@[simp ↓] theorem execRegionEnable_keepsClockQueue (r : Req) (n : Fin 64) (v : Word) :
    KeepsClockQueue s (execRegionEnable r n v s) := by simp [execRegionEnable]
@[simp ↓] theorem execRegionClear_keepsClockQueue (r : Req) (n : Fin 64) (v : Word) :
    KeepsClockQueue s (execRegionClear r n v s) := by simp [execRegionClear]
@[simp ↓] theorem State.releaseRegion_clockQueue (c unit n cnt : Nat) :
    (s.releaseRegion c unit n cnt).clockQueue = s.clockQueue := by simp [State.releaseRegion]
@[simp ↓] theorem execRegionRelease_keepsClockQueue (r : Req) (n : Fin 64) (v : Word) :
    KeepsClockQueue s (execRegionRelease r n v s) := by simp [execRegionRelease]
@[simp ↓] theorem State.overwrite_clockQueue (n len : Nat) : (s.overwrite n len).clockQueue = s.clockQueue := by simp [State.overwrite]
@[simp ↓] theorem State.openArrival_clockQueue (n unit tag len : Nat) :
    (s.openArrival n unit tag len).clockQueue = s.clockQueue := by simp [State.openArrival]

@[simp ↓] theorem State.startArrival_clockQueue (n c unit tag len : Nat) :
    (s.startArrival n c unit tag len).2.clockQueue = s.clockQueue := by
  grind [State.startArrival, State.violate_clockQueue, State.setRegion_clockQueue, State.openArrival_clockQueue]

@[simp ↓] theorem State.startWaiting_clockQueue (n : Nat) (x0 : List (Nat × Nat × Nat)) :
    (s.startWaiting n x0).clockQueue = s.clockQueue := by
  induction x0 generalizing s with
  | nil => simp [State.startWaiting]
  | cons x l ih => simp [State.startWaiting, ih]

@[simp ↓] theorem State.retireArrivals_clockQueue (n x0 : Nat) : (s.retireArrivals n x0).clockQueue = s.clockQueue := by
  induction x0 generalizing s with
  | zero => simp [State.retireArrivals]
  | succ n ih =>
    unfold State.retireArrivals
    split <;> simp [ih]

@[simp ↓] theorem State.finishArrival_clockQueue (n unit tag : Nat) (abandoned : Bool) :
    (s.finishArrival n unit tag abandoned).clockQueue = s.clockQueue := by simp [State.finishArrival]
@[simp ↓] theorem execArrivalStart_keepsClockQueue (n : Fin 64) (p : Req) (tag : Nat) (len : Word) :
    KeepsClockQueue s (execArrivalStart n p tag len s) := by simp [execArrivalStart]
@[simp ↓] theorem execArrivalComplete_keepsClockQueue (n : Fin 64) (p : Req) (tag : Nat) :
    KeepsClockQueue s (execArrivalComplete n p tag s) := by simp [execArrivalComplete]
@[simp ↓] theorem State.writeWbmCache_clockQueue (v : Word) : (s.writeWbmCache v).clockQueue = s.clockQueue := by simp [State.writeWbmCache]
@[simp ↓] theorem execWbmCacheResize_keepsClockQueue (r : Req) (v : Word) :
    KeepsClockQueue s (execWbmCacheResize r v s) := by simp [execWbmCacheResize]
@[simp ↓] theorem execWbmCacheInvalidate_keepsClockQueue (r : Req) (v : Word) :
    KeepsClockQueue s (execWbmCacheInvalidate r v s) := by simp [execWbmCacheInvalidate]
@[simp ↓] theorem State.writeRepair_clockQueue (v : Word) : (s.writeRepair v).clockQueue = s.clockQueue := by simp [State.writeRepair]
@[simp ↓] theorem execRowRepair_keepsClockQueue (r : Req) (v : Word) : KeepsClockQueue s (execRowRepair r v s) := by simp [execRowRepair]

@[simp ↓] theorem execRowRepairDone_keepsClockQueue : KeepsClockQueue s (execRowRepairDone s) := by
  unfold execRowRepairDone
  split <;> simp

@[simp ↓] theorem State.eccCorrected_clockQueue : s.eccCorrected.clockQueue = s.clockQueue := by simp [State.eccCorrected]
@[simp ↓] theorem State.eccFail_clockQueue (a c engine : Nat) : (s.eccFail a c engine).clockQueue = s.clockQueue := by simp [State.eccFail]
@[simp ↓] theorem State.tagFail_clockQueue (a c engine : Nat) : (s.tagFail a c engine).clockQueue = s.clockQueue := by simp [State.tagFail]

/-! ### Contexts and translation (spec/04) -/

@[simp ↓] theorem State.writeLyctx_clockQueue (p : Fin 2) (v : Word) :
    (s.writeLyctx p v).clockQueue = s.clockQueue := by simp [State.writeLyctx]
@[simp ↓] theorem execLyctxWrite_keepsClockQueue (p : Fin 2) (machine : Bool) (v : Word) :
    KeepsClockQueue s (execLyctxWrite p machine v s) := by simp [execLyctxWrite]
@[simp ↓] theorem State.writeBells_clockQueue (r : Req) (n : Nat) (v : Word) :
    (s.writeBells r n v).clockQueue = s.clockQueue := by simp [State.writeBells]
@[simp ↓] theorem execBellRangeWrite_keepsClockQueue (r : Req) (n : Fin 8) (v : Word) :
    KeepsClockQueue s (execBellRangeWrite r n v s) := by simp [execBellRangeWrite]
@[simp ↓] theorem State.writeVcap_clockQueue (n : Nat) (v : Word) : (s.writeVcap n v).clockQueue = s.clockQueue := by simp [State.writeVcap]
@[simp ↓] theorem execViolCaptureArm_keepsClockQueue (r : Req) (n : Fin 8) (v : Word) :
    KeepsClockQueue s (execViolCaptureArm r n v s) := by simp [execViolCaptureArm]
@[simp ↓] theorem execViolCountClear_keepsClockQueue (r : Req) (n : Fin 8) (v : Word) :
    KeepsClockQueue s (execViolCountClear r n v s) := by simp [execViolCountClear]
@[simp ↓] theorem State.setTlb_clockQueue (unit : Nat) (l : List TlbEntry) :
    (s.setTlb unit l).clockQueue = s.clockQueue := by simp [State.setTlb]
@[simp ↓] theorem State.translate_clockQueue (unit c vpn : Nat) : (s.translate unit c vpn).2.clockQueue = s.clockQueue := by
  grind [State.translate, State.setTlb_clockQueue]

@[simp ↓] theorem State.translatePages_clockQueue (unit c : Nat) (l : List (Nat × Acc3)) (m : PageMap) :
    (s.translatePages unit c l m).2.clockQueue = s.clockQueue := by
  induction l generalizing s m with
  | nil => simp [State.translatePages]
  | cons x l ih => grind [State.translatePages, State.translate_clockQueue]

@[simp ↓] theorem State.violatePages_clockQueue (unit c : Nat) (m : PageMap) : (s.violatePages unit c m).clockQueue = s.clockQueue := by
  unfold State.violatePages
  refine clockQueue_foldl _ (fun t x => ?_) _ _
  split <;> simp

@[simp ↓] theorem State.writeInval_clockQueue (v : Word) : (s.writeInval v).clockQueue = s.clockQueue := by simp [State.writeInval]
@[simp ↓] theorem execTlbInvalidate_keepsClockQueue (r : Req) (v : Word) :
    KeepsClockQueue s (execTlbInvalidate r v s) := by simp [execTlbInvalidate]

@[simp ↓] theorem execTlbInvalidateDone_keepsClockQueue : KeepsClockQueue s (execTlbInvalidateDone s) := by
  unfold execTlbInvalidateDone
  split <;> simp

@[simp ↓] theorem State.syncPend_clockQueue : s.syncPend.clockQueue = s.clockQueue := by simp [State.syncPend]

@[simp ↓] theorem State.reportFault_clockQueue (f : FaultInfo) : (s.reportFault f).2.clockQueue = s.clockQueue := by
  unfold State.reportFault
  split
  · simp
  · split <;> simp

@[simp ↓] theorem State.freeSusp_clockQueue (x : Susp) : (s.freeSusp x).clockQueue = s.clockQueue := by
  unfold State.freeSusp
  split <;> simp

/-! ### Tensors -/

@[simp ↓] theorem State.writeBytes_clockQueue (l : List (Nat × Byte)) :
    (s.writeBytes l).clockQueue = s.clockQueue := by simp [State.writeBytes]
@[simp ↓] theorem State.writeElems_clockQueue (d : Desc) (m : PageMap) (start : Nat) (vals : List (Nat × Nat)) :
    (s.writeElems d m start vals).clockQueue = s.clockQueue := by simp [State.writeElems]
@[simp ↓] theorem State.reportConsume_clockQueue (x : Nat × Bool) (c engine : Nat) :
    (s.reportConsume x c engine).clockQueue = s.clockQueue := by simp [State.reportConsume]

/-! ### Result rings -/

@[simp ↓] theorem State.setRingX_clockQueue (q : Nat) (x : Ring) : (s.setRingX q x).clockQueue = s.clockQueue := by simp [State.setRingX]

@[simp ↓] theorem State.putEntries_clockQueue (q i : Nat) (l : List (List Byte)) : (s.putEntries q i l).clockQueue = s.clockQueue := by
  induction l generalizing s i with
  | nil => simp [State.putEntries]
  | cons x l ih => simp [State.putEntries, ih]

@[simp ↓] theorem State.commitRecord_clockQueue (q : Nat) (b : List Byte) :
    (s.commitRecord q b).clockQueue = s.clockQueue := by simp [State.commitRecord]

@[simp ↓] theorem State.tryCommit_clockQueue (q : Nat) (b : List Byte) : (s.tryCommit q b).2.clockQueue = s.clockQueue := by
  unfold State.tryCommit
  split
  · simp
  · split <;> simp

/-! ### Tiles -/

@[simp ↓] theorem State.setTile_clockQueue (d t : Nat) (x : Tile) : (s.setTile d t x).clockQueue = s.clockQueue := by simp [State.setTile]
@[simp ↓] theorem State.setDeck_clockQueue (d t p : Nat) (x : DeckRec) :
    (s.setDeck d t p x).clockQueue = s.clockQueue := by simp [State.setDeck]
@[simp ↓] theorem State.selectDeck_clockQueue (d g pos l : Nat) : (s.selectDeck d g pos l).clockQueue = s.clockQueue := by
  grind [State.selectDeck, State.setTile_clockQueue, State.clockQueue_mk]
@[simp ↓] theorem State.cimpCard_clockQueue (d t p event value ctx : Nat) :
    (s.cimpCard d t p event value ctx).clockQueue = s.clockQueue := by simp [State.cimpCard]
@[simp ↓] theorem State.setCmds_clockQueue (d : Nat) (l : List TileCmd) :
    (s.setCmds d l).clockQueue = s.clockQueue := by simp [State.setCmds]
@[simp ↓] theorem State.queueOwn_clockQueue (d op t p arg : Nat) :
    (s.queueOwn d op t p arg).clockQueue = s.clockQueue := by simp [State.queueOwn]
@[simp ↓] theorem State.driftUpdate_clockQueue (d t p : Nat) :
    (s.driftUpdate d t p).clockQueue = s.clockQueue := by simp [State.driftUpdate]

/-! ### Engine streams (spec/05) -/

@[simp ↓] theorem State.setRun_clockQueue (n : Nat) (p : Option Prog) : (s.setRun n p).clockQueue = s.clockQueue := by simp [State.setRun]
@[simp ↓] theorem State.addCompletion_clockQueue (n : Nat) (p : Prog) (status reason pc : Nat) :
    (s.addCompletion n p status reason pc).clockQueue = s.clockQueue := by simp [State.addCompletion]
@[simp ↓] theorem execCompletionRecordCommit_keepsClockQueue (n : Fin 22) : KeepsClockQueue s (execCompletionRecordCommit n s) := by
  grind [execCompletionRecordCommit, State.setStream_clockQueue, State.violate_clockQueue, State.tryCommit_clockQueue, keepsClockQueue_next]
@[simp ↓] theorem State.abandonArrivals_clockQueue (unit : Nat) :
    (s.abandonArrivals unit).clockQueue = s.clockQueue := by simp [State.abandonArrivals]
@[simp ↓] theorem State.dropStarts_clockQueue (n c : Nat) : (s.dropStarts n c).clockQueue = s.clockQueue := by simp [State.dropStarts]
@[simp ↓] theorem State.endBroadcast_clockQueue (n : Nat) : (s.endBroadcast n).clockQueue = s.clockQueue := by simp [State.endBroadcast]
@[simp ↓] theorem State.haltProg_clockQueue (n : Nat) (p : Prog) (reason slot handle vaddr : Nat) :
    (s.haltProg n p reason slot handle vaddr).clockQueue = s.clockQueue := by simp [State.haltProg]
@[simp ↓] theorem State.unlockProg_clockQueue (n : Nat) (p : Prog) :
    (s.unlockProg n p).clockQueue = s.clockQueue := by simp [State.unlockProg]

@[simp ↓] theorem State.halt_clockQueue (n reason slot handle vaddr : Nat) :
    (s.halt n reason slot handle vaddr).clockQueue = s.clockQueue := by
  unfold State.halt
  split <;> simp

@[simp ↓] theorem State.breakGroup_clockQueue (except : Nat) : (s.breakGroup except).clockQueue = s.clockQueue := by
  unfold State.breakGroup
  refine clockQueue_foldl _ (fun t x => ?_) _ _
  split <;> simp

@[simp ↓] theorem State.submitStart_clockQueue (c unit addr : Nat) (b : List Byte) :
    (s.submitStart c unit addr b).2.clockQueue = s.clockQueue := by
  grind [State.submitStart, State.setStream_clockQueue, State.violate_clockQueue]

@[simp ↓] theorem State.startGo_clockQueue (r : Req) (n : Nat) (v : Word) :
    (s.startGo r n v).clockQueue = s.clockQueue := by simp [State.startGo]
@[simp ↓] theorem execEngStartGo_keepsClockQueue (r : Req) (n : Fin 8) (v : Word) :
    KeepsClockQueue s (execEngStartGo r n v s) := by simp [execEngStartGo]
@[simp ↓] theorem State.releaseTimed_clockQueue (v : Word) : (s.releaseTimed v).clockQueue = s.clockQueue := by simp [State.releaseTimed]
@[simp ↓] theorem execTimedGroupRelease_keepsClockQueue (r : Req) (v : Word) :
    KeepsClockQueue s (execTimedGroupRelease r v s) := by simp [execTimedGroupRelease]
@[simp ↓] theorem State.fetch_clockQueue (n c va k : Nat) : (s.fetch n c va k).2.clockQueue = s.clockQueue := by
  grind [State.fetch, State.translatePages_clockQueue, State.violatePages_clockQueue]
@[simp ↓] theorem State.recordDecks_clockQueue (n cls : Nat) :
    (s.recordDecks n cls).clockQueue = s.clockQueue := by simp [State.recordDecks]
@[simp ↓] theorem State.restoreDecks_clockQueue (n cls : Nat) :
    (s.restoreDecks n cls).clockQueue = s.clockQueue := by simp [State.restoreDecks]

@[simp ↓] theorem State.suspend_clockQueue (n : Nat) (p : Prog) (kind flags handle va step nsteps slot detail : Nat) :
    (s.suspend n p kind flags handle va step nsteps slot detail).clockQueue = s.clockQueue := by
  grind [State.suspend, State.setStream_clockQueue, State.reportFault_clockQueue, State.setRun_clockQueue, State.unlockProg_clockQueue,
    State.halt_clockQueue, State.breakGroup_clockQueue, State.recordDecks_clockQueue]

@[simp ↓] theorem State.checkHeader_clockQueue (n : Nat) (p : Prog) : (s.checkHeader n p).clockQueue = s.clockQueue := by
  grind [State.checkHeader, State.setRun_clockQueue, State.halt_clockQueue, State.fetch_clockQueue, State.suspend_clockQueue]
@[simp ↓] theorem State.applyClocks_clockQueue (n : Nat) : (s.applyClocks n).clockQueue = s.clockQueue := by simp [State.applyClocks]

@[simp ↓] theorem State.beginNext_clockQueue (n : Nat) : (s.beginNext n).clockQueue = s.clockQueue := by
  grind [State.beginNext, State.setStream_clockQueue, State.restoreDecks_clockQueue, State.checkHeader_clockQueue,
    State.applyClocks_clockQueue]

@[simp ↓] theorem execProgramBegin_keepsClockQueue (n : Fin 22) : KeepsClockQueue s (execProgramBegin n s) := by simp [execProgramBegin]

@[simp ↓] theorem State.saveRun_clockQueue (n : Nat) : (s.saveRun n).clockQueue = s.clockQueue := by
  unfold State.saveRun
  split <;> simp

@[simp ↓] theorem execPreemption_keepsClockQueue (n : Fin 22) : KeepsClockQueue s (execPreemption n s) := by
  grind [execPreemption, State.halt_clockQueue, State.breakGroup_clockQueue, State.beginNext_clockQueue, State.saveRun_clockQueue,
    keepsClockQueue_next]

@[simp ↓] theorem execBroadcastStart_keepsClockQueue (n : Fin 22) : KeepsClockQueue s (execBroadcastStart n s) := by
  rw [execBroadcastStart, keepsClockQueue_next]
  dsimp only
  split
  · rfl
  · simp

@[simp ↓] theorem State.fetchBundle_clockQueue (n : Nat) (p : Prog) (pc : Nat) : (s.fetchBundle n p pc).2.clockQueue = s.clockQueue := by
  grind [State.fetchBundle, State.fetch_clockQueue]

@[simp ↓] theorem execBundleFetch_keepsClockQueue (n : Fin 22) : KeepsClockQueue s (execBundleFetch n s) := by
  grind [execBundleFetch, State.setRun_clockQueue, State.halt_clockQueue, State.suspend_clockQueue, State.fetchBundle_clockQueue,
    keepsClockQueue_next]

@[simp ↓] theorem execSyncWaitSatisfied_keepsClockQueue (n : Fin 22) (w : Fin 2) : KeepsClockQueue s (execSyncWaitSatisfied n w s) := by
  rw [execSyncWaitSatisfied, keepsClockQueue_next]
  split
  · simp
  · split
    · simp
    · split <;> simp

@[simp ↓] theorem execBellIncrementWrite_keepsClockQueue (r : Req) (b : Fin 512) (v : Word) :
    KeepsClockQueue s (execBellIncrementWrite r b v s) := by simp [execBellIncrementWrite]
@[simp ↓] theorem execBellSetWrite_keepsClockQueue (r : Req) (b : Fin 512) (v : Word) (incs : List Half) :
    KeepsClockQueue s (execBellSetWrite r b v incs s) := by simp [execBellSetWrite]

@[simp ↓] theorem State.haltContext_clockQueue (n c reason : Nat) : (s.haltContext n c reason).clockQueue = s.clockQueue := by
  unfold State.haltContext
  split <;> simp

@[simp ↓] theorem State.refuseContext_clockQueue (n c : Nat) :
    (s.refuseContext n c).clockQueue = s.clockQueue := by simp [State.refuseContext]
@[simp ↓] theorem State.writeEngCtl_clockQueue (r : Req) (n : Nat) (v : Word) :
    (s.writeEngCtl r n v).clockQueue = s.clockQueue := by simp [State.writeEngCtl]
@[simp ↓] theorem State.engCtlWrite_clockQueue (r : Req) (n : Nat) (v : Word) :
    (s.engCtlWrite r n v).clockQueue = s.clockQueue := by simp [State.engCtlWrite]
@[simp ↓] theorem execHaltRequest_keepsClockQueue (r : Req) (n : Fin 22) (v : Word) :
    KeepsClockQueue s (execHaltRequest r n v s) := by simp [execHaltRequest]
@[simp ↓] theorem execHaltClear_keepsClockQueue (r : Req) (n : Fin 22) (v : Word) :
    KeepsClockQueue s (execHaltClear r n v s) := by simp [execHaltClear]

/-! ### The storage controller (spec/13) -/

@[simp ↓] theorem State.setSto_clockQueue (t : Storage) : (s.setSto t).clockQueue = s.clockQueue := by simp [State.setSto]
@[simp ↓] theorem State.setBusy_clockQueue (k : Nat) (b : Bool) : (s.setBusy k b).clockQueue = s.clockQueue := by simp [State.setBusy]
@[simp ↓] theorem State.syncBank_clockQueue (k : Nat) : (s.syncBank k).clockQueue = s.clockQueue := by simp [State.syncBank]
@[simp ↓] theorem State.stoCard_clockQueue (event ofs cnt : Nat) :
    (s.stoCard event ofs cnt).clockQueue = s.clockQueue := by simp [State.stoCard]

@[simp ↓] theorem State.correction_clockQueue (ofs n : Nat) : (s.correction ofs n).clockQueue = s.clockQueue := by
  unfold State.correction
  split <;> simp

@[simp ↓] theorem State.uncorrectable_clockQueue (ofs r : Nat) :
    (s.uncorrectable ofs r).clockQueue = s.clockQueue := by simp [State.uncorrectable]
@[simp ↓] theorem State.wbmTouch_clockQueue (line : Nat) : (s.wbmTouch line).clockQueue = s.clockQueue := by simp [State.wbmTouch]
@[simp ↓] theorem State.wbmDropSector_clockQueue (n : Nat) : (s.wbmDropSector n).clockQueue = s.clockQueue := by simp [State.wbmDropSector]

@[simp ↓] theorem execWbmCacheFill_keepsClockQueue (r : Req) (a : Addr) : KeepsClockQueue s (execWbmCacheFill r a s) := by
  rw [execWbmCacheFill, keepsClockQueue_next]
  split
  · split <;> simp
  · simp

@[simp ↓] theorem execStorageWindowRead_keepsClockQueue (r : Req) (a : Addr) (wide : Bool) (worst : Fin 4) :
    KeepsClockQueue s (execStorageWindowRead r a wide worst s) := by
  grind [execStorageWindowRead, State.count_clockQueue, State.respond_clockQueue, State.setSto_clockQueue, State.correction_clockQueue,
    State.uncorrectable_clockQueue, State.wbmTouch_clockQueue, keepsClockQueue_next]

@[simp ↓] theorem State.stoFinish_clockQueue (e : StoEntry) (status failofs : Nat) :
    (s.stoFinish e status failofs).clockQueue = s.clockQueue := by simp [State.stoFinish]

@[simp ↓] theorem State.relocate_clockQueue (n : Nat) (copy : Bool) : (s.relocate n copy).2.clockQueue = s.clockQueue := by
  unfold State.relocate
  dsimp only
  split
  · rfl
  · split
    · rfl
    · simp only [State.stoCard_clockQueue, State.count_clockQueue, State.syncBank_clockQueue, State.setSto_clockQueue]

@[simp ↓] theorem State.stoFault_clockQueue (e : StoEntry) (kind flags va : Nat) :
    (s.stoFault e kind flags va).clockQueue = s.clockQueue := by
  grind [State.stoFault, State.reportFault_clockQueue, State.setSto_clockQueue, State.setBusy_clockQueue, State.stoFinish_clockQueue]

@[simp ↓] theorem State.stoStep_clockQueue (e : StoEntry) (fuel : Nat) : (s.stoStep e fuel).clockQueue = s.clockQueue := by
  induction fuel generalizing s e with
  | zero => rfl
  | succ fuel ih =>
    change (if e.op = 2 then _ else if e.op = 3 then _ else if e.op = 4 then _ else s).clockQueue = _
    split
    · grind [State.translatePages_clockQueue, State.stoFinish_clockQueue, State.stoFault_clockQueue, State.violatePages_clockQueue,
        State.reportConsume_clockQueue, State.setBusy_clockQueue, State.setSto_clockQueue, State.wbmDropSector_clockQueue]
    split
    · dsimp only
      iterate 4 (split; · simp only [State.stoFinish_clockQueue])
      split
      · split <;> next h => simp [clockQueue_of_snd h, ih]
      · simp
    split
    · grind [State.relocate_clockQueue, State.stoFinish_clockQueue, State.uncorrectable_clockQueue, State.setSto_clockQueue]
    · rfl

@[simp ↓] theorem State.stoKick_clockQueue : s.stoKick.clockQueue = s.clockQueue := by
  unfold State.stoKick
  refine clockQueue_foldl _ (fun t x => ?_) _ _
  split <;> simp

@[simp ↓] theorem State.stoFetch_clockQueue (op : Nat) : (s.stoFetch op).clockQueue = s.clockQueue := by
  grind [State.stoFetch, State.fset_clockQueue, State.store_clockQueue, State.setSto_clockQueue, State.stoFinish_clockQueue,
    State.stoKick_clockQueue]

@[simp ↓] theorem execStoRead_keepsClockQueue : KeepsClockQueue s (execStoRead s) := by simp [execStoRead]
@[simp ↓] theorem execStoProgram_keepsClockQueue : KeepsClockQueue s (execStoProgram s) := by simp [execStoProgram]
@[simp ↓] theorem execStoErase_keepsClockQueue : KeepsClockQueue s (execStoErase s) := by simp [execStoErase]
@[simp ↓] theorem execStoRelocate_keepsClockQueue : KeepsClockQueue s (execStoRelocate s) := by simp [execStoRelocate]
@[simp ↓] theorem execStoCounts_keepsClockQueue : KeepsClockQueue s (execStoCounts s) := by simp [execStoCounts]

@[simp ↓] theorem execStorageReadChunk_keepsClockQueue (k : Fin 32) (errs : List (Nat × Fin 4)) :
    KeepsClockQueue s (execStorageReadChunk k errs s) := by
  rw [execStorageReadChunk, keepsClockQueue_next]
  split
  · rfl
  split
  · rfl
  dsimp only
  split
  · simp
  split <;> next h => simp [clockQueue_of_snd h]

@[simp ↓] theorem State.wordDone_clockQueue (k : Nat) (ok : Bool) : (s.wordDone k ok).clockQueue = s.clockQueue := by
  grind [State.wordDone, State.draw_clockQueue, State.translatePages_clockQueue, State.setSto_clockQueue, State.setBusy_clockQueue,
    State.syncBank_clockQueue, State.uncorrectable_clockQueue, State.stoFinish_clockQueue, State.relocate_clockQueue,
    State.stoFault_clockQueue, State.stoStep_clockQueue, State.stoKick_clockQueue]

@[simp ↓] theorem execStorageWordDone_keepsClockQueue (k : Fin 32) (ok : Bool) :
    KeepsClockQueue s (execStorageWordDone k ok s) := by simp [execStorageWordDone]

@[simp ↓] theorem State.eraseDone_clockQueue (k : Nat) (ok : Bool) : (s.eraseDone k ok).clockQueue = s.clockQueue := by
  unfold State.eraseDone
  split
  · rfl
  · dsimp only
    split
    · rfl
    · split
      · simp
      · split <;> next h => simp [clockQueue_of_snd h]

@[simp ↓] theorem execSectorEraseDone_keepsClockQueue (k : Fin 32) (ok : Bool) :
    KeepsClockQueue s (execSectorEraseDone k ok s) := by simp [execSectorEraseDone]

@[simp ↓] theorem execSpareErase_keepsClockQueue (k : Fin 32) (start : Bool) : KeepsClockQueue s (execSpareErase k start s) := by
  unfold execSpareErase
  split <;> simp

@[simp ↓] theorem State.writeStoCtl_clockQueue (v : Word) : (s.writeStoCtl v).clockQueue = s.clockQueue := by simp [State.writeStoCtl]
@[simp ↓] theorem execStoCounterClear_keepsClockQueue (r : Req) (v : Word) :
    KeepsClockQueue s (execStoCounterClear r v s) := by simp [execStoCounterClear]

@[simp ↓] theorem execPendingEraseRedo_keepsClockQueue (k : Fin 32) (ok : Bool) : KeepsClockQueue s (execPendingEraseRedo k ok s) := by
  rw [execPendingEraseRedo, keepsClockQueue_next]
  dsimp only
  split
  · simp
  split
  · simp
  split <;> next h => simp [clockQueue_of_snd h]

/-! ### Operations of the units -/

@[simp ↓] theorem State.setOp_clockQueue (n : Nat) (p : Prog) (o : OpRun) :
    (s.setOp n p o).clockQueue = s.clockQueue := by simp [State.setOp]

@[simp ↓] theorem State.withOp_clockQueue (n : Nat) (ok : OpRun → Bool) (f : Prog → OpRun → State)
    (h : ∀ p o, (f p o).clockQueue = s.clockQueue) : (s.withOp n ok f).clockQueue = s.clockQueue := by
  grind [State.withOp]

@[simp ↓] theorem State.beginOp_clockQueue (n opc : Nat) (f : Prog → OpRun → State) (h : ∀ p o, (f p o).clockQueue = s.clockQueue) :
    (s.beginOp n opc f).clockQueue = s.clockQueue := by simp [State.beginOp, h]
@[simp ↓] theorem State.finishOp_clockQueue (n : Nat) (p : Prog) (o : OpRun) :
    (s.finishOp n p o).clockQueue = s.clockQueue := by simp [State.finishOp]

@[simp ↓] theorem State.touch_clockQueue (unit c : Nat) (l : List Touch) (m : PageMap) :
    (s.touch unit c l m).2.clockQueue = s.clockQueue := by
  induction l generalizing s m with
  | nil => simp [State.touch]
  | cons x l ih => grind [State.touch, State.translate_clockQueue]

@[simp ↓] theorem State.suspendOp_clockQueue (n : Nat) (p : Prog) (o : OpRun) (kind : Nat) (t : Touch) (flags detail : Nat) :
    (s.suspendOp n p o kind t flags detail).clockQueue = s.clockQueue := by simp [State.suspendOp]
@[simp ↓] theorem State.failRead_clockQueue (n : Nat) (p : Prog) (x : Nat × Bool) (slot handle va : Nat) :
    (s.failRead n p x slot handle va).clockQueue = s.clockQueue := by simp [State.failRead]
@[simp ↓] theorem State.storeRead_clockQueue (offs : List Nat) : (s.storeRead offs).clockQueue = s.clockQueue := by simp [State.storeRead]

@[simp ↓] theorem State.readCheck_clockQueue (n : Nat) (p : Prog) (notag : Bool) (addrs : List Nat) (slot handle va : Nat) :
    (s.readCheck n p notag addrs slot handle va).2.clockQueue = s.clockQueue := by
  grind [State.readCheck, State.count_clockQueue, State.halt_clockQueue, State.uncorrectable_clockQueue, State.failRead_clockQueue,
    State.storeRead_clockQueue]

/-! ### Exposures (spec/06) -/

@[simp ↓] theorem State.exposeAll_clockQueue (d : Nat) (p : Prog) (o : OpRun) (x : Slot) (devs : List (Nat × Nat × Int)) :
    (s.exposeAll d p o x devs).2.clockQueue = s.clockQueue := by
  unfold State.exposeAll
  dsimp only
  rw [State.count_clockQueue, State.clockQueue_ite, State.countWrap_clockQueue, ite_self, State.countWrap_clockQueue]
  refine clockQueue_foldl _ (fun t x => ?_) _ _
  split <;> simp

@[simp ↓] theorem State.csCard_clockQueue (n : Nat) (p : Prog) (o : OpRun) (x : Slot) (ref : TileRef) (diff : Int) (verdict : Nat) :
    (s.csCard n p o x ref diff verdict).clockQueue = s.clockQueue := by simp [State.csCard]

@[simp ↓] theorem State.repeatSlot_clockQueue (n : Nat) (p : Prog) (o : OpRun) (x : Slot) (x0 : Nat) (x1 : List (List (Nat × Nat × Int)))
    (x2 : List (Option Exposed)) (x3 : List Nat) : (s.repeatSlot n p o x x0 x1 x2 x3).2.2.clockQueue = s.clockQueue := by
  induction x0 generalizing s x1 x2 x3 with
  | zero => simp [State.repeatSlot]
  | succ n ih =>
    unfold State.repeatSlot
    split <;> simp [ih]

@[simp ↓] theorem State.leaveDark_clockQueue (d : Nat) (tiles : List TileRef) :
    (s.leaveDark d tiles).clockQueue = s.clockQueue := by simp [State.leaveDark]

@[simp ↓] theorem execExposureSlot_keepsClockQueue (n : Fin 22) (second : Bool) (devs : List (List (Nat × Nat × Int))) :
    KeepsClockQueue s (execExposureSlot n second devs s) := by
  rw [execExposureSlot, keepsClockQueue_next]
  refine State.withOp_clockQueue _ _ _ _ (fun p o => ?_)
  dsimp only
  split
  · rfl
  split <;> simp

@[simp ↓] theorem execMvm_keepsClockQueue (n : Fin 22) : KeepsClockQueue s (execMvm n s) := by
  grind [execMvm, State.violatePages_clockQueue, State.setOp_clockQueue, State.beginOp_clockQueue, State.touch_clockQueue,
    State.suspendOp_clockQueue, State.readCheck_clockQueue, keepsClockQueue_next]

@[simp ↓] theorem State.statStep_clockQueue (d : Nat) (o : OpRun) : (s.statStep d o).clockQueue = s.clockQueue := by simp [State.statStep]

@[simp ↓] theorem execMvmCommit_keepsClockQueue (n : Fin 22) (second : Bool) : KeepsClockQueue s (execMvmCommit n second s) := by
  rw [execMvmCommit, keepsClockQueue_next]
  refine State.withOp_clockQueue _ _ _ _ (fun p o => ?_)
  dsimp only
  split
  · next h1 => simp [clockQueue_of_snd h1]
  next h1 =>
  split
  · next h2 => simp [clockQueue_of_snd h2, clockQueue_of_snd h1]
  next h2 =>
  split <;> next h3 => simp [clockQueue_of_snd h3, clockQueue_of_snd h2, clockQueue_of_snd h1]

@[simp ↓] theorem execDeck_keepsClockQueue (n : Fin 22) : KeepsClockQueue s (execDeck n s) := by simp [execDeck]
@[simp ↓] theorem State.writeCimCtl_clockQueue (d : Nat) (v : Word) :
    (s.writeCimCtl d v).clockQueue = s.clockQueue := by simp [State.writeCimCtl]
@[simp ↓] theorem execSatCounterClear_keepsClockQueue (r : Req) (d : Fin 4) (v : Word) :
    KeepsClockQueue s (execSatCounterClear r d v s) := by simp [execSatCounterClear]

/-! ### Tile programming (spec/07) -/

@[simp ↓] theorem State.cimpFetch_clockQueue (d x0 : Nat) : (s.cimpFetch d x0).clockQueue = s.clockQueue := by
  induction x0 generalizing s with
  | zero => simp [State.cimpFetch]
  | succ n ih => simp [State.cimpFetch, ih]

@[simp ↓] theorem State.cimpFinish_clockQueue (d : Nat) (c : TileCmd) (st res : Nat) :
    (s.cimpFinish d c st res).clockQueue = s.clockQueue := by
  unfold State.cimpFinish
  split <;> simp

@[simp ↓] theorem State.setCmd_clockQueue (d : Nat) (c c' : TileCmd) : (s.setCmd d c c').clockQueue = s.clockQueue := by simp [State.setCmd]
@[simp ↓] theorem State.onDeck_clockQueue (d t p : Nat) (f : DeckRec → DeckRec) :
    (s.onDeck d t p f).clockQueue = s.clockQueue := by simp [State.onDeck]

@[simp ↓] theorem State.cimpStart_clockQueue (d op t : Nat) (f : State → TileCmd → State) (h : ∀ u c, (f u c).clockQueue = u.clockQueue) :
    (s.cimpStart d op t f).clockQueue = s.clockQueue := by
  grind [State.cimpStart, State.cimpFetch_clockQueue, State.cimpFinish_clockQueue, State.store_clockQueue, State.setCmd_clockQueue]

@[simp ↓] theorem execTileErase_keepsClockQueue (d : Fin 4) (t : Half) : KeepsClockQueue s (execTileErase d t s) := by simp [execTileErase]

@[simp ↓] theorem execTileEraseDone_keepsClockQueue (d : Fin 4) (t : Half) (bad : List (Fin 528 × Fin 544 × Fin 4)) (pulse : Bool) :
    KeepsClockQueue s (execTileEraseDone d t bad pulse s) := by
  unfold execTileEraseDone
  split <;> simp

@[simp ↓] theorem execTileProgram_keepsClockQueue (d : Fin 4) (t : Half) :
    KeepsClockQueue s (execTileProgram d t s) := by simp [execTileProgram]
@[simp ↓] theorem State.cimpBytes_clockQueue (d va n : Nat) : (s.cimpBytes d va n).2.clockQueue = s.clockQueue := by
  grind [State.cimpBytes, State.translatePages_clockQueue, State.violatePages_clockQueue, State.uncorrectable_clockQueue]

@[simp ↓] theorem State.rowSource_clockQueue (d : Nat) (c : TileCmd) (r : Nat) : (s.rowSource d c r).2.clockQueue = s.clockQueue := by
  unfold State.rowSource
  split
  · simp
  split
  · next h1 =>
    dsimp only
    split
    · simp [clockQueue_of_snd h1]
    split
    · simp [clockQueue_of_snd h1]
    split
    · next h2 =>
      split
      · next h3 => split <;> simp [clockQueue_of_snd h1, clockQueue_of_snd h2, clockQueue_of_snd h3]
      · simp [clockQueue_of_snd h1, clockQueue_of_snd h2]
    · simp [clockQueue_of_snd h1]
  · simp

@[simp ↓] theorem execProgramRow_keepsClockQueue (d : Fin 4) (t : Half) (p1 : Fin 9) (p2 : Fin 5) (cells : List (Fin 544 × Fin 4)) :
    KeepsClockQueue s (execProgramRow d t p1 p2 cells s) := by
  grind [execProgramRow, State.count_clockQueue, State.reportFault_clockQueue, State.setTile_clockQueue, State.cimpFinish_clockQueue,
    State.setCmd_clockQueue, State.onDeck_clockQueue, State.rowSource_clockQueue, keepsClockQueue_next]

@[simp ↓] theorem execTileTopup_keepsClockQueue (d : Fin 4) (t : Half) : KeepsClockQueue s (execTileTopup d t s) := by simp [execTileTopup]
@[simp ↓] theorem execTileCalibrate_keepsClockQueue (d : Fin 4) (t : Half) :
    KeepsClockQueue s (execTileCalibrate d t s) := by simp [execTileCalibrate]
@[simp ↓] theorem State.topupRow_clockQueue (d : Nat) (c : TileCmd) (x : DarkFacts) :
    (s.topupRow d c x).clockQueue = s.clockQueue := by simp [State.topupRow]
@[simp ↓] theorem State.calStep_clockQueue (d : Nat) (c : TileCmd) (x : DarkFacts) :
    (s.calStep d c x).clockQueue = s.clockQueue := by simp [State.calStep]

@[simp ↓] theorem execDarkroomStep_keepsClockQueue (d : Fin 4) (t : Half) (trim : Byte) (n : Fin 171) (lo hi : Half) (seg : Fin 4)
    (fails : Bool) (cells : List (Fin 544 × Fin 4)) (pulsed : Half) :
    KeepsClockQueue s (execDarkroomStep d t trim n lo hi seg fails cells pulsed s) := by
  unfold execDarkroomStep
  split <;> simp

@[simp ↓] theorem execDarkroomReenter_keepsClockQueue (d : Fin 4) (t : Half) : KeepsClockQueue s (execDarkroomReenter d t s) := by
  unfold execDarkroomReenter
  split <;> simp

@[simp ↓] theorem execCalibrationDue_keepsClockQueue (d : Fin 4) (t : Half) (p : Fin 8) :
    KeepsClockQueue s (execCalibrationDue d t p s) := by simp [execCalibrationDue]
@[simp ↓] theorem execDriftPersist_keepsClockQueue (d : Fin 4) (t : Half) :
    KeepsClockQueue s (execDriftPersist d t s) := by simp [execDriftPersist]
@[simp ↓] theorem execTileMapset_keepsClockQueue (d : Fin 4) (t : Half) :
    KeepsClockQueue s (execTileMapset d t s) := by simp [execTileMapset]
@[simp ↓] theorem State.retireTile_clockQueue (d t : Nat) (force : Bool) : (s.retireTile d t force).2.clockQueue = s.clockQueue := by
  grind [State.retireTile, State.setTile_clockQueue, State.cimpCard_clockQueue, State.clockQueue_mk]
@[simp ↓] theorem execTileRetire_keepsClockQueue (d : Fin 4) (t : Half) : KeepsClockQueue s (execTileRetire d t s) := by
  grind [execTileRetire, State.cimpFinish_clockQueue, State.cimpStart_clockQueue, State.retireTile_clockQueue, keepsClockQueue_next]
@[simp ↓] theorem State.deckSwitch_clockQueue (st : Nat) : (s.deckSwitch st).clockQueue = s.clockQueue := by simp [State.deckSwitch]
@[simp ↓] theorem State.writeSwitch_clockQueue (d : Nat) (v : Word) :
    (s.writeSwitch d v).clockQueue = s.clockQueue := by simp [State.writeSwitch]
@[simp ↓] theorem execSwitchArm_keepsClockQueue (r : Req) (d : Fin 4) (v : Word) :
    KeepsClockQueue s (execSwitchArm r d v s) := by simp [execSwitchArm]
@[simp ↓] theorem execSwitchDisarm_keepsClockQueue (r : Req) (d : Fin 4) (v : Word) :
    KeepsClockQueue s (execSwitchDisarm r d v s) := by simp [execSwitchDisarm]
@[simp ↓] theorem execDeckMapSwitch_keepsClockQueue (st : Fin 16) :
    KeepsClockQueue s (execDeckMapSwitch st s) := by simp [execDeckMapSwitch]
@[simp ↓] theorem State.writeStatCfg_clockQueue (d : Nat) (v : Word) :
    (s.writeStatCfg d v).clockQueue = s.clockQueue := by simp [State.writeStatCfg]
@[simp ↓] theorem execStatsArm_keepsClockQueue (r : Req) (d : Fin 4) (v : Word) :
    KeepsClockQueue s (execStatsArm r d v s) := by simp [execStatsArm]
@[simp ↓] theorem State.cimpInterrupt_clockQueue : s.cimpInterrupt.clockQueue = s.clockQueue := by simp [State.cimpInterrupt]
@[simp ↓] theorem State.tilesRestart_clockQueue (sel : List (Nat × Nat)) :
    (s.tilesRestart sel).clockQueue = s.clockQueue := by simp [State.tilesRestart]

/-! ### Field outputs (spec/16) -/

@[simp ↓] theorem State.setAo_clockQueue (n : Nat) (x : Ao) : (s.setAo n x).clockQueue = s.clockQueue := by simp [State.setAo]
@[simp ↓] theorem State.aoBit_clockQueue (f : Fld) (n : Nat) (b : Bool) : (s.aoBit f n b).clockQueue = s.clockQueue := by simp [State.aoBit]
@[simp ↓] theorem State.outCard_clockQueue (n event : Nat) (detail : List Byte) :
    (s.outCard n event detail).clockQueue = s.clockQueue := by simp [State.outCard]
@[simp ↓] theorem State.aoUpdate_clockQueue (n : Nat) : (s.aoUpdate n).clockQueue = s.clockQueue := by simp [State.aoUpdate]
@[simp ↓] theorem State.aoUpdateAll_clockQueue : s.aoUpdateAll.clockQueue = s.clockQueue := by simp [State.aoUpdateAll]
@[simp ↓] theorem State.aoApplied_clockQueue (n old : Nat) : (s.aoApplied n old).clockQueue = s.clockQueue := by simp [State.aoApplied]
@[simp ↓] theorem execAoRangeBreakEnd_keepsClockQueue (n : Fin 4) :
    KeepsClockQueue s (execAoRangeBreakEnd n s) := by simp [execAoRangeBreakEnd]
@[simp ↓] theorem State.writeAoValue_clockQueue (n : Nat) (v : Word) :
    (s.writeAoValue n v).clockQueue = s.clockQueue := by simp [State.writeAoValue]
@[simp ↓] theorem execAoValueWrite_keepsClockQueue (r : Req) (n : Fin 4) (v : Word) :
    KeepsClockQueue s (execAoValueWrite r n v s) := by simp [execAoValueWrite]
@[simp ↓] theorem State.setOverride_clockQueue (n : Nat) (en : Bool) (v : Nat) (pass : Bool) :
    (s.setOverride n en v pass).clockQueue = s.clockQueue := by simp [State.setOverride]
@[simp ↓] theorem execAoOverrideWrite_keepsClockQueue (r : Req) (n : Fin 4) (v : Word) :
    KeepsClockQueue s (execAoOverrideWrite r n v s) := by simp [execAoOverrideWrite]
@[simp ↓] theorem execAoRefreshTimeout_keepsClockQueue (n : Fin 4) :
    KeepsClockQueue s (execAoRefreshTimeout n s) := by simp [execAoRefreshTimeout]
@[simp ↓] theorem execAoLinkSilence_keepsClockQueue : KeepsClockQueue s (execAoLinkSilence s) := by simp [execAoLinkSilence]
@[simp ↓] theorem State.aoFlag_clockQueue (n k : Nat) (f : Fld) (cond : Bool) (detail : List Byte) :
    (s.aoFlag n k f cond detail).clockQueue = s.clockQueue := by simp [State.aoFlag]

@[simp ↓] theorem execAoMonitor_keepsClockQueue (n : Fin 4) (rback : Word) (limit : Bool) :
    KeepsClockQueue s (execAoMonitor n rback limit s) := by
  grind [execAoMonitor, State.rset_clockQueue, State.setAo_clockQueue, State.aoFlag_clockQueue, keepsClockQueue_next]

/-! ### Wall time (spec/01) -/

@[simp ↓] theorem State.setShadow_clockQueue (a : Nat) (v : Word) : (s.setShadow a v).clockQueue = s.clockQueue := by simp [State.setShadow]
@[simp ↓] theorem State.dropShadow_clockQueue (a : Nat) : (s.dropShadow a).clockQueue = s.clockQueue := by simp [State.dropShadow]
@[simp ↓] theorem State.moveWall_clockQueue (ofs source : Nat) :
    (s.moveWall ofs source).clockQueue = s.clockQueue := by simp [State.moveWall]
@[simp ↓] theorem execWallofsHiWrite_keepsClockQueue (r : Req) (v : Word) :
    KeepsClockQueue s (execWallofsHiWrite r v s) := by simp [execWallofsHiWrite]

/-! ### Staged groups (spec/02) -/

@[simp ↓] theorem State.setChan_clockQueue (c : Nat) (x : Chan) : (s.setChan c x).clockQueue = s.clockQueue := by simp [State.setChan]
@[simp ↓] theorem State.setAcq_clockQueue (n : Nat) (x : AcqStream) : (s.setAcq n x).clockQueue = s.clockQueue := by simp [State.setAcq]

@[simp ↓] theorem State.noteCfg_clockQueue (g : Group) : (s.noteCfg g).clockQueue = s.clockQueue := by
  unfold State.noteCfg
  split
  · simp
  · split <;> simp

@[simp ↓] theorem State.noteCond_clockQueue (c : Nat) : (s.noteCond c).clockQueue = s.clockQueue := by simp [State.noteCond]
@[simp ↓] theorem State.beginSettle_clockQueue (c : Nat) : (s.beginSettle c).clockQueue = s.clockQueue := by simp [State.beginSettle]
@[simp ↓] theorem State.vchApplied_clockQueue (n old : Nat) : (s.vchApplied n old).clockQueue = s.clockQueue := by simp [State.vchApplied]
@[simp ↓] theorem State.orderReset_clockQueue (n : Nat) : (s.orderReset n).clockQueue = s.clockQueue := by simp [State.orderReset]
@[simp ↓] theorem State.takeShadows_clockQueue (g : Group) : (s.takeShadows g).clockQueue = s.clockQueue := by simp [State.takeShadows]

@[simp ↓] theorem State.setDisagree_clockQueue (g : Group) (b : Bool) : (s.setDisagree g b).clockQueue = s.clockQueue := by
  unfold State.setDisagree
  split <;> simp

@[simp ↓] theorem State.applyGroup_clockQueue (g : Group) : (s.applyGroup g).clockQueue = s.clockQueue := by
  unfold State.applyGroup
  split
  · split <;> simp
  · simp

@[simp ↓] theorem State.showArmed_clockQueue (g : Group) : (s.showArmed g).clockQueue = s.clockQueue := by
  unfold State.showArmed
  split <;> simp

@[simp ↓] theorem State.disarm_clockQueue (g : Group) : (s.disarm g).clockQueue = s.clockQueue := by simp [State.disarm]

@[simp ↓] theorem State.commitGroup_clockQueue (g : Group) : (s.commitGroup g).clockQueue = s.clockQueue := by
  unfold State.commitGroup
  split <;> simp

@[simp ↓] theorem State.applyArmed_clockQueue (n : Nat) : (s.applyArmed n).clockQueue = s.clockQueue := by simp [State.applyArmed]

@[simp ↓] theorem State.writeStaged_clockQueue (g : Group) (a : Nat) (v : Word) : (s.writeStaged g a v).clockQueue = s.clockQueue := by
  unfold State.writeStaged
  split <;> simp

@[simp ↓] theorem execStagedFieldWrite_keepsClockQueue (r : Req) (a : Addr) (v : Word) :
    KeepsClockQueue s (execStagedFieldWrite r a v s) := by
  rw [execStagedFieldWrite, keepsClockQueue_next]
  split
  · simp
  · split <;> simp

@[simp ↓] theorem execStagedCommitWrite_keepsClockQueue (r : Req) (a : Addr) (v : Word) :
    KeepsClockQueue s (execStagedCommitWrite r a v s) := by
  unfold execStagedCommitWrite
  split <;> simp

/-! ### Order tables (spec/10) -/

@[simp ↓] theorem State.requestBuild_clockQueue (n f a : Nat) :
    (s.requestBuild n f a).clockQueue = s.clockQueue := by simp [State.requestBuild]
@[simp ↓] theorem State.onLatch_clockQueue (n opn : Nat) (f : Latch → Latch) :
    (s.onLatch n opn f).clockQueue = s.clockQueue := by simp [State.onLatch]

@[simp ↓] theorem State.profileFit_clockQueue (n opn close : Nat) (xs : List Nat) :
    (s.profileFit n opn close xs).clockQueue = s.clockQueue := by
  grind [State.profileFit, State.rset_clockQueue, State.setFlag_clockQueue, State.requestBuild_clockQueue, State.onLatch_clockQueue]

@[simp ↓] theorem execOrderTableBuild_keepsClockQueue : KeepsClockQueue s (execOrderTableBuild s) := by
  unfold execOrderTableBuild
  split <;> simp

@[simp ↓] theorem State.orderClose_clockQueue (n : Nat) (w : Window) (close : Nat) (flies : Bool) :
    (s.orderClose n w close flies).clockQueue = s.clockQueue := by simp [State.orderClose]
@[simp ↓] theorem State.leaveFlight_clockQueue (n frame : Nat) :
    (s.leaveFlight n frame).clockQueue = s.clockQueue := by simp [State.leaveFlight]

/-! ### Acquisition (spec/10) -/

@[simp ↓] theorem State.onWindows_clockQueue (f : Window → Window) : (s.onWindows f).clockQueue = s.clockQueue := by simp [State.onWindows]
@[simp ↓] theorem State.deliver_clockQueue (c : Nat) (x : Sample) : (s.deliver c x).clockQueue = s.clockQueue := by simp [State.deliver]
@[simp ↓] theorem execSampleAvailable_keepsClockQueue (c : Fin 96) (t : DWord) (code : Word) (fault : Bool) :
    KeepsClockQueue s (execSampleAvailable c t code fault s) := by simp [execSampleAvailable]
@[simp ↓] theorem execSpeedEdge_keepsClockQueue (k : Fin 4) (t : DWord) : KeepsClockQueue s (execSpeedEdge k t s) := by simp [execSpeedEdge]
@[simp ↓] theorem execSlowSample_keepsClockQueue (k : Fin 8) (t : DWord) (v ohm : Word) :
    KeepsClockQueue s (execSlowSample k t v ohm s) := by simp [execSlowSample]
@[simp ↓] theorem execDigitalPortSample_keepsClockQueue (p : Fin 4) (t : DWord) (words : List Word) :
    KeepsClockQueue s (execDigitalPortSample p t words s) := by simp [execDigitalPortSample]
@[simp ↓] theorem State.acqCard_clockQueue (i event mv : Nat) : (s.acqCard i event mv).clockQueue = s.clockQueue := by simp [State.acqCard]
@[simp ↓] theorem execBiasMeasure_keepsClockQueue (i : Fin 16) (mv : Half) :
    KeepsClockQueue s (execBiasMeasure i mv s) := by simp [execBiasMeasure]
@[simp ↓] theorem execIepeSettleEnd_keepsClockQueue (i : Fin 16) : KeepsClockQueue s (execIepeSettleEnd i s) := by simp [execIepeSettleEnd]
@[simp ↓] theorem execSupplySample_keepsClockQueue (mv : Half) : KeepsClockQueue s (execSupplySample mv s) := by simp [execSupplySample]
@[simp ↓] theorem State.openWindow_clockQueue (n opn : Nat) (first config : Bool) :
    (s.openWindow n opn first config).clockQueue = s.clockQueue := by simp [State.openWindow]
@[simp ↓] theorem State.startStream_clockQueue (n : Nat) : (s.startStream n).clockQueue = s.clockQueue := by simp [State.startStream]
@[simp ↓] theorem State.writeStCtl_clockQueue (n : Nat) (en : Bool) :
    (s.writeStCtl n en).clockQueue = s.clockQueue := by simp [State.writeStCtl]
@[simp ↓] theorem execStreamStart_keepsClockQueue (r : Req) (n : Fin 16) (_v : Word) :
    KeepsClockQueue s (execStreamStart r n _v s) := by simp [execStreamStart]
@[simp ↓] theorem execStreamStopRequest_keepsClockQueue (r : Req) (n : Fin 16) (_v : Word) :
    KeepsClockQueue s (execStreamStopRequest r n _v s) := by simp [execStreamStopRequest]
@[simp ↓] theorem State.reserveWindow_clockQueue (n : Nat) (w : Window) (len : Nat) :
    (s.reserveWindow n w len).clockQueue = s.clockQueue := by simp [State.reserveWindow]
@[simp ↓] theorem State.streamStops_clockQueue (n : Nat) : (s.streamStops n).clockQueue = s.clockQueue := by simp [State.streamStops]

@[simp ↓] theorem State.closeWindow_clockQueue (n : Nat) (w : Window) (tc : Nat) : (s.closeWindow n w tc).clockQueue = s.clockQueue := by
  grind [State.closeWindow, State.fset_clockQueue, State.count_clockQueue, State.deckSwitch_clockQueue, State.setAcq_clockQueue,
    State.applyArmed_clockQueue, State.orderClose_clockQueue, State.openWindow_clockQueue, State.reserveWindow_clockQueue,
    State.streamStops_clockQueue]

@[simp ↓] theorem execFrameClose_keepsClockQueue (n : Fin 16) : KeepsClockQueue s (execFrameClose n s) := by
  unfold execFrameClose
  split <;> simp

@[simp ↓] theorem State.storeRegion_clockQueue (cr start : Nat) (b : List Byte) :
    (s.storeRegion cr start b).clockQueue = s.clockQueue := by simp [State.storeRegion]

@[simp ↓] theorem State.completeWindow_clockQueue (n : Nat) : (s.completeWindow n).clockQueue = s.clockQueue := by
  grind [State.completeWindow, State.rset_clockQueue, State.finishArrival_clockQueue, State.setAcq_clockQueue, State.profileFit_clockQueue,
    State.storeRegion_clockQueue]

@[simp ↓] theorem execWindowArrivalComplete_keepsClockQueue (n : Fin 16) :
    KeepsClockQueue s (execWindowArrivalComplete n s) := by simp [execWindowArrivalComplete]

@[simp ↓] theorem State.completeAll_clockQueue (n x0 : Nat) : (s.completeAll n x0).clockQueue = s.clockQueue := by
  induction x0 generalizing s with
  | zero => simp [State.completeAll]
  | succ n ih => simp [State.completeAll, ih]

@[simp ↓] theorem State.recessStream_clockQueue (n : Nat) : (s.recessStream n).clockQueue = s.clockQueue := by simp [State.recessStream]
@[simp ↓] theorem State.wakeStreams_clockQueue : s.wakeStreams.clockQueue = s.clockQueue := by simp [State.wakeStreams]

/-! ### The Shunto link (spec/18) -/

@[simp ↓] theorem State.setPort_clockQueue (p : Nat) (x : Port) : (s.setPort p x).clockQueue = s.clockQueue := by simp [State.setPort]
@[simp ↓] theorem State.enqueue_clockQueue (p : Nat) (g : Seg) : (s.enqueue p g).clockQueue = s.clockQueue := by simp [State.enqueue]

@[simp ↓] theorem State.sendSeg_clockQueue (g : Seg) : (s.sendSeg g).2.clockQueue = s.clockQueue := by
  unfold State.sendSeg
  split
  · simp
  · split <;> simp

@[simp ↓] theorem State.takeSeg_clockQueue (p : Nat) (g : Seg) : (s.takeSeg p g).clockQueue = s.clockQueue := by simp [State.takeSeg]
@[simp ↓] theorem State.chnCard_clockQueue (event p lane : Nat) (detail : List Byte) :
    (s.chnCard event p lane detail).clockQueue = s.clockQueue := by simp [State.chnCard]
@[simp ↓] theorem State.turnRoutes_clockQueue (f : Nat → Bool) : (s.turnRoutes f).clockQueue = s.clockQueue := by simp [State.turnRoutes]
@[simp ↓] theorem State.wakeStandby_clockQueue : s.wakeStandby.clockQueue = s.clockQueue := by simp [State.wakeStandby]
@[simp ↓] theorem State.portDown_clockQueue (p : Nat) : (s.portDown p).clockQueue = s.clockQueue := by simp [State.portDown]
@[simp ↓] theorem State.retrain_clockQueue (p : Nat) : (s.retrain p).clockQueue = s.clockQueue := by simp [State.retrain]

@[simp ↓] theorem execPortTraining_keepsClockQueue (p : Fin 3) (partner : Option (Fin 4096)) (good : Fin 32) :
    KeepsClockQueue s (execPortTraining p partner good s) := by
  grind [execPortTraining, State.fset_clockQueue, State.chnCard_clockQueue, State.portDown_clockQueue, keepsClockQueue_next]

@[simp ↓] theorem execPortTrainRetry_keepsClockQueue (p : Fin 3) :
    KeepsClockQueue s (execPortTrainRetry p s) := by simp [execPortTrainRetry]
@[simp ↓] theorem execLaneFail_keepsClockQueue (p : Fin 3) (lane : Fin 5) :
    KeepsClockQueue s (execLaneFail p lane s) := by simp [execLaneFail]

@[simp ↓] theorem execWrapNotice_keepsClockQueue (p : Fin 3) (crossing : List (Fin 4095)) :
    KeepsClockQueue s (execWrapNotice p crossing s) := by
  unfold execWrapNotice
  split <;> simp

@[simp ↓] theorem State.loadForwards_clockQueue (p : Nat) : (s.loadForwards p).clockQueue = s.clockQueue := by simp [State.loadForwards]
@[simp ↓] theorem execFlitSend_keepsClockQueue (p : Fin 3) : KeepsClockQueue s (execFlitSend p s) := by
  grind [execFlitSend, State.send_clockQueue, State.setPort_clockQueue, State.loadForwards_clockQueue, keepsClockQueue_next]
@[simp ↓] theorem State.replay_clockQueue (p no : Nat) : (s.replay p no).clockQueue = s.clockQueue := by simp [State.replay]

@[simp ↓] theorem execReplayTimeout_keepsClockQueue (p : Fin 3) : KeepsClockQueue s (execReplayTimeout p s) := by
  unfold execReplayTimeout
  split <;> simp

@[simp ↓] theorem State.routeSeg_clockQueue (p : Nat) (g : Seg) : (s.routeSeg p g).clockQueue = s.clockQueue := by simp [State.routeSeg]

@[simp ↓] theorem State.linkCtl_clockQueue (p : Nat) (c : LinkCtl) : (s.linkCtl p c).clockQueue = s.clockQueue := by
  unfold State.linkCtl
  split
  · simp
  · simp
  · split
    · rfl
    · split <;> simp

@[simp ↓] theorem execFlitReceive_keepsClockQueue (p : Fin 3) (flit : List Byte) (num : Half) (ctl : Option LinkCtl) (swallowed : Bool)
    (errs : List Half) : KeepsClockQueue s (execFlitReceive p flit num ctl swallowed errs s) := by
  rw [execFlitReceive, keepsClockQueue_next]
  dsimp only
  split
  · simp
  split
  · simp
  split
  · split <;> simp
  split
  · simp
  split
  · split <;> simp
  · simp

/-! ### The digital matrix engine (spec/08) -/

@[simp ↓] theorem State.l1Insert_clockQueue (core : Nat) (x : L1Line) : (s.l1Insert core x).clockQueue = s.clockQueue := by
  grind [State.l1Insert, State.store_clockQueue, State.setLines_clockQueue]

@[simp ↓] theorem State.l1Lock_clockQueue (core key : Nat) (data : List Byte) : (s.l1Lock core key data).clockQueue = s.clockQueue := by
  unfold State.l1Lock
  split <;> simp

@[simp ↓] theorem State.dmeWrite_clockQueue (core : Nat) (l : List (Nat × Byte)) :
    (s.dmeWrite core l).clockQueue = s.clockQueue := by simp [State.dmeWrite]

@[simp ↓] theorem State.feedStream_clockQueue (n core : Nat) (p : Prog) (o : OpRun) (h : Nat) (d : Desc) :
    (s.feedStream n core p o h d).2.clockQueue = s.clockQueue := by
  unfold State.feedStream
  dsimp only
  split
  · next h1 => simp [clockQueue_of_snd h1]
  next h1 =>
  split
  · simp [clockQueue_of_snd h1]
  split
  · simp [clockQueue_of_snd h1]
  split
  · next h2 => simp [clockQueue_of_snd h2, clockQueue_of_snd h1]
  next h2 =>
  split
  · next h3 => simp [clockQueue_of_snd h3, clockQueue_of_snd h2, clockQueue_of_snd h1]
  · next h3 => split <;> simp [clockQueue_of_snd h3, clockQueue_of_snd h2, clockQueue_of_snd h1]

@[simp ↓] theorem State.feed_clockQueue (n core : Nat) (p : Prog) (o : OpRun) (h : Nat) (d : Desc) :
    (s.feed n core p o h d).2.clockQueue = s.clockQueue := by
  unfold State.feed
  split
  · simp
  dsimp only
  split
  · next h1 => simp [clockQueue_of_snd h1]
  next h1 =>
  split
  · split <;> next h2 => simp [clockQueue_of_snd h2, clockQueue_of_snd h1]
  · split <;> next h2 => simp [clockQueue_of_snd h2, clockQueue_of_snd h1]

@[simp ↓] theorem State.feedAll_clockQueue (n core r : Nat) (p : Prog) (o : OpRun) (l : List Nat) (m : PageMap) :
    (s.feedAll n core r p o l m).2.clockQueue = s.clockQueue := by
  induction l generalizing s m with
  | nil => simp [State.feedAll]
  | cons x l ih => grind [State.feedAll, State.feed_clockQueue]

@[simp ↓] theorem State.feedCores_clockQueue (n : Nat) (p : Prog) (o : OpRun) (hs : List Nat) (l : List (Nat × Nat))
    (m : List (Nat × PageMap)) : (s.feedCores n p o hs l m).2.2.clockQueue = s.clockQueue := by
  induction l generalizing s m with
  | nil => simp [State.feedCores]
  | cons x l ih => grind [State.feedCores, State.feedAll_clockQueue]

@[simp ↓] theorem State.syncLocked_clockQueue (core extra : Nat) :
    (s.syncLocked core extra).clockQueue = s.clockQueue := by simp [State.syncLocked]

@[simp ↓] theorem execOperandResident_keepsClockQueue (n : Fin 22) (xp : Word) : KeepsClockQueue s (execOperandResident n xp s) := by
  rw [execOperandResident, keepsClockQueue_next]
  dsimp only
  split
  · rfl
  split
  · rfl
  split
  · split
    · rfl
    · split <;> next h => simp [clockQueue_of_snd (congrArg Prod.snd h)]
  · rfl

@[simp ↓] theorem State.dmeStore_clockQueue (p : Prog) (core r h : Nat) (vals : List (Nat × Nat)) :
    (s.dmeStore p core r h vals).2.clockQueue = s.clockQueue := by
  grind [State.dmeStore, State.violatePages_clockQueue, State.touch_clockQueue, State.dmeWrite_clockQueue]

@[simp ↓] theorem State.dmeStoreAll_clockQueue (p : Prog) (l : List (Nat × Nat × Nat × List (Nat × Nat))) :
    (s.dmeStoreAll p l).2.clockQueue = s.clockQueue := by
  induction l generalizing s with
  | nil => simp [State.dmeStoreAll]
  | cons x l ih => grind [State.dmeStoreAll, State.dmeStore_clockQueue]

@[simp ↓] theorem State.dmeVerdict_clockQueue (n core : Nat) (p : Prog) (o : OpRun) (verdict : Nat) :
    (s.dmeVerdict n core p o verdict).clockQueue = s.clockQueue := by simp [State.dmeVerdict]
@[simp ↓] theorem State.dmeFinish_clockQueue (n : Nat) (p : Prog) (o : OpRun) :
    (s.dmeFinish n p o).clockQueue = s.clockQueue := by simp [State.dmeFinish]

@[simp ↓] theorem execDmeOutputTile_keepsClockQueue (n : Fin 22) (core : Fin 8) (fails : Fin 5) :
    KeepsClockQueue s (execDmeOutputTile n core fails s) := by
  rw [execDmeOutputTile, keepsClockQueue_next]
  refine State.withOp_clockQueue _ _ _ _ (fun p o => ?_)
  dsimp only
  split
  · rfl
  split
  · simp
  split
  · simp
  split
  · simp
  · simp

@[simp ↓] theorem State.dmeBegin_clockQueue (n opc : Nat) : (s.dmeBegin n opc).clockQueue = s.clockQueue := by
  refine State.beginOp_clockQueue _ _ _ _ (fun p o => ?_)
  split
  · rfl
  · split <;> simp

@[simp ↓] theorem execMma_keepsClockQueue (n : Fin 22) : KeepsClockQueue s (execMma n s) := by simp [execMma]
@[simp ↓] theorem execDist_keepsClockQueue (n : Fin 22) : KeepsClockQueue s (execDist n s) := by simp [execDist]
@[simp ↓] theorem execEwise_keepsClockQueue (n : Fin 22) : KeepsClockQueue s (execEwise n s) := by simp [execEwise]
@[simp ↓] theorem execNorm_keepsClockQueue (n : Fin 22) : KeepsClockQueue s (execNorm n s) := by simp [execNorm]
@[simp ↓] theorem execSoftmax_keepsClockQueue (n : Fin 22) : KeepsClockQueue s (execSoftmax n s) := by simp [execSoftmax]
@[simp ↓] theorem execOptim_keepsClockQueue (n : Fin 22) : KeepsClockQueue s (execOptim n s) := by simp [execOptim]
@[simp ↓] theorem execArgmax_keepsClockQueue (n : Fin 22) : KeepsClockQueue s (execArgmax n s) := by simp [execArgmax]
@[simp ↓] theorem execWino_keepsClockQueue (n : Fin 22) : KeepsClockQueue s (execWino n s) := by simp [execWino]

@[simp ↓] theorem State.retireCore_clockQueue (k : Nat) (perm : Bool) : (s.retireCore k perm).clockQueue = s.clockQueue := by
  unfold State.retireCore
  dsimp only
  rw [State.clockQueue_ite, State.card_clockQueue, State.invalidateRegions_clockQueue, State.setLines_clockQueue, State.setFlag_clockQueue,
    clockQueue_foldl]
  · simp
  · intro t j
    split <;> simp

@[simp ↓] theorem State.writeDmeCtl_clockQueue (k : Nat) (v : Word) :
    (s.writeDmeCtl k v).clockQueue = s.clockQueue := by simp [State.writeDmeCtl]
@[simp ↓] theorem State.dmeCtlWrite_clockQueue (r : Req) (k : Nat) (v : Word) :
    (s.dmeCtlWrite r k v).clockQueue = s.clockQueue := by simp [State.dmeCtlWrite]
@[simp ↓] theorem execDmeCoreRetire_keepsClockQueue (r : Req) (k : Fin 8) (v : Word) :
    KeepsClockQueue s (execDmeCoreRetire r k v s) := by simp [execDmeCoreRetire]
@[simp ↓] theorem execDmeCoreRetirePerm_keepsClockQueue (r : Req) (k : Fin 8) (v : Word) :
    KeepsClockQueue s (execDmeCoreRetirePerm r k v s) := by simp [execDmeCoreRetirePerm]
@[simp ↓] theorem execVstepChange_keepsClockQueue (r : Req) (k : Fin 8) (v : Word) :
    KeepsClockQueue s (execVstepChange r k v s) := by simp [execVstepChange]
@[simp ↓] theorem execVstepSettled_keepsClockQueue (k : Fin 8) : KeepsClockQueue s (execVstepSettled k s) := by simp [execVstepSettled]

/-! ### The usage ledger (spec/14) -/

@[simp ↓] theorem State.setLedger_clockQueue (l : Ledger) : (s.setLedger l).clockQueue = s.clockQueue := by simp [State.setLedger]
@[simp ↓] theorem State.ldgCard_clockQueue (event ofs : Nat) : (s.ldgCard event ofs).clockQueue = s.clockQueue := by simp [State.ldgCard]

@[simp ↓] theorem State.seekSector_clockQueue (sec fuel : Nat) : (s.seekSector sec fuel).2.clockQueue = s.clockQueue := by
  induction fuel generalizing s sec with
  | zero => simp [State.seekSector]
  | succ fuel ih => grind [State.seekSector, State.ldgCard_clockQueue]

@[simp ↓] theorem State.enterSector_clockQueue (sec : Nat) : (s.enterSector sec).clockQueue = s.clockQueue := by
  grind [State.enterSector, State.setFlag_clockQueue, State.setLedger_clockQueue, State.ldgCard_clockQueue, State.seekSector_clockQueue]

@[simp ↓] theorem State.takeSlot_clockQueue : s.takeSlot.2.clockQueue = s.clockQueue := by
  unfold State.takeSlot
  split <;> simp

@[simp ↓] theorem State.ledgerWrite_clockQueue (kind origin flags tariff cls : Nat) (body : List Byte) :
    (s.ledgerWrite kind origin flags tariff cls body).clockQueue = s.clockQueue := by simp [State.ledgerWrite]
@[simp ↓] theorem State.setTb_clockQueue (tb : Nat) (bound : Int) : (s.setTb tb bound).clockQueue = s.clockQueue := by simp [State.setTb]
@[simp ↓] theorem State.openInterval_clockQueue (t : Nat) (ofs : Int) (valid : Bool) (flags : Nat) :
    (s.openInterval t ofs valid flags).clockQueue = s.clockQueue := by simp [State.openInterval]
@[simp ↓] theorem State.closeInterval_clockQueue (t : Nat) (ofs : Int) (valid : Bool) (extra : Nat) :
    (s.closeInterval t ofs valid extra).clockQueue = s.clockQueue := by simp [State.closeInterval]
@[simp ↓] theorem State.changeTariff_clockQueue (t new source : Nat) (ofs : Int) (atBound : Bool) :
    (s.changeTariff t new source ofs atBound).clockQueue = s.clockQueue := by simp [State.changeTariff]
@[simp ↓] theorem State.timeCorr_clockQueue (t : Nat) (step : Nat × Nat × Nat) :
    (s.timeCorr t step).clockQueue = s.clockQueue := by simp [State.timeCorr]
@[simp ↓] theorem State.writeSnapshot_clockQueue (t : Nat) : (s.writeSnapshot t).clockQueue = s.clockQueue := by simp [State.writeSnapshot]
@[simp ↓] theorem State.snapIfDue_clockQueue (t : Nat) : (s.snapIfDue t).clockQueue = s.clockQueue := by simp [State.snapIfDue]
@[simp ↓] theorem State.ledgerEvent_clockQueue (t kind count : Nat) :
    (s.ledgerEvent t kind count).clockQueue = s.clockQueue := by simp [State.ledgerEvent]

@[simp ↓] theorem State.rainClose_clockQueue (span m : FV) (x0 : Nat) : (s.rainClose span m x0).clockQueue = s.clockQueue := by
  induction x0 generalizing s with
  | zero => simp [State.rainClose]
  | succ n ih => simp [State.rainClose, ih]

@[simp ↓] theorem State.rainflow_clockQueue (torque : FV) : (s.rainflow torque).clockQueue = s.clockQueue := by simp [State.rainflow]
@[simp ↓] theorem State.accumulate_clockQueue (t : Nat) : (s.accumulate t).clockQueue = s.clockQueue := by simp [State.accumulate]
@[simp ↓] theorem State.machineEvents_clockQueue (t : Nat) : (s.machineEvents t).clockQueue = s.clockQueue := by simp [State.machineEvents]
@[simp ↓] theorem State.heldEvents_clockQueue (t : Nat) : (s.heldEvents t).clockQueue = s.clockQueue := by simp [State.heldEvents]
@[simp ↓] theorem execLedgerTick_keepsClockQueue : KeepsClockQueue s (execLedgerTick s) := by simp [execLedgerTick]
@[simp ↓] theorem execSnapshotDue_keepsClockQueue : KeepsClockQueue s (execSnapshotDue s) := by simp [execSnapshotDue]
@[simp ↓] theorem State.ledgerCut_clockQueue (recess : Bool) (cause : Nat) :
    (s.ledgerCut recess cause).clockQueue = s.clockQueue := by simp [State.ledgerCut]
@[simp ↓] theorem State.ledgerStart_clockQueue (reason restore snapSeq : Nat) :
    (s.ledgerStart reason restore snapSeq).clockQueue = s.clockQueue := by simp [State.ledgerStart]
@[simp ↓] theorem State.clearMaxDemand_clockQueue : s.clearMaxDemand.clockQueue = s.clockQueue := by simp [State.clearMaxDemand]
@[simp ↓] theorem State.writeLdgCtl_clockQueue (v : Word) : (s.writeLdgCtl v).clockQueue = s.clockQueue := by simp [State.writeLdgCtl]
@[simp ↓] theorem execLdgSnapnow_keepsClockQueue (r : Req) (v : Word) : KeepsClockQueue s (execLdgSnapnow r v s) := by simp [execLdgSnapnow]
@[simp ↓] theorem execMaxDemandClear_keepsClockQueue (r : Req) (v : Word) :
    KeepsClockQueue s (execMaxDemandClear r v s) := by simp [execMaxDemandClear]
@[simp ↓] theorem State.setTovr_clockQueue (en : Bool) (k : Nat) (pass : Bool) :
    (s.setTovr en k pass).clockQueue = s.clockQueue := by simp [State.setTovr]
@[simp ↓] theorem execTariffOverrideWrite_keepsClockQueue (r : Req) (v : Word) :
    KeepsClockQueue s (execTariffOverrideWrite r v s) := by simp [execTariffOverrideWrite]
@[simp ↓] theorem State.programKey_clockQueue : s.programKey.clockQueue = s.clockQueue := by simp [State.programKey]
@[simp ↓] theorem execLedgerKeyProgram_keepsClockQueue (r : Req) (v : Word) :
    KeepsClockQueue s (execLedgerKeyProgram r v s) := by simp [execLedgerKeyProgram]

@[simp ↓] theorem State.syncOldest_clockQueue : s.syncOldest.clockQueue = s.clockQueue := by
  unfold State.syncOldest
  split <;> simp

@[simp ↓] theorem State.syncWorn_clockQueue : s.syncWorn.clockQueue = s.clockQueue := by simp [State.syncWorn]

@[simp ↓] theorem State.portErase_clockQueue (o : Nat) (ok : Bool) : (s.portErase o ok).clockQueue = s.clockQueue := by
  unfold State.portErase
  dsimp only
  split
  · rfl
  split
  · simp
  · split <;> next h => simp [clockQueue_of_snd h]

@[simp ↓] theorem State.portWord_clockQueue (o : Nat) (b : List Byte) (ok : Bool) : (s.portWord o b ok).2.clockQueue = s.clockQueue := by
  unfold State.portWord
  dsimp only
  split
  · rfl
  split
  · simp
  · split <;> next h => simp [clockQueue_of_snd h]

@[simp ↓] theorem State.replaceRecs_clockQueue (l : List LedgerRec) : (s.replaceRecs l).clockQueue = s.clockQueue := by
  unfold State.replaceRecs
  refine clockQueue_foldl _ (fun t x => ?_) _ _
  split <;> simp

@[simp ↓] theorem State.portRecord_clockQueue (ok : Bool) : (s.portRecord ok).clockQueue = s.clockQueue := by
  unfold State.portRecord
  split
  · simp
  · split <;> simp

@[simp ↓] theorem State.fillEvents_clockQueue : s.fillEvents.clockQueue = s.clockQueue := by
  grind [State.fillEvents, State.evOcc_clockQueue, State.cardAt_clockQueue, State.clockQueue_mk]

@[simp ↓] theorem State.freeCard_clockQueue : s.freeCard.clockQueue = s.clockQueue := by
  unfold State.freeCard
  split <;> simp

@[simp ↓] theorem State.portLog_clockQueue (ok : Bool) : (s.portLog ok).clockQueue = s.clockQueue := by
  unfold State.portLog
  split <;> simp

@[simp ↓] theorem execLedgerPortWrite_keepsClockQueue (what : Fin 3) (ok : Bool) : KeepsClockQueue s (execLedgerPortWrite what ok s) := by
  rw [execLedgerPortWrite, keepsClockQueue_next]
  split
  · simp
  · split
    · split <;> simp
    · split <;> simp

@[simp ↓] theorem State.commitLedger_clockQueue : s.commitLedger.clockQueue = s.clockQueue := by
  grind [State.commitLedger, State.rset_clockQueue, State.count_clockQueue, State.tryCommit_clockQueue, State.setLedger_clockQueue,
    State.syncOldest_clockQueue]

@[simp ↓] theorem execLedgerRecordCommit_keepsClockQueue : KeepsClockQueue s (execLedgerRecordCommit s) := by simp [execLedgerRecordCommit]

@[simp ↓] theorem State.flushLedger_clockQueue (x0 : Nat) : (s.flushLedger x0).clockQueue = s.clockQueue := by
  induction x0 generalizing s with
  | zero => simp [State.flushLedger]
  | succ n ih => simp [State.flushLedger, ih]

@[simp ↓] theorem State.logCard_clockQueue (c : Card) : (s.logCard c).clockQueue = s.clockQueue := by simp [State.logCard]
@[simp ↓] theorem State.drainCard_clockQueue : s.drainCard.clockQueue = s.clockQueue := by
  grind [State.drainCard, State.count_clockQueue, State.tryCommit_clockQueue, State.fillEvents_clockQueue, State.logCard_clockQueue]
@[simp ↓] theorem execEventRingDrain_keepsClockQueue : KeepsClockQueue s (execEventRingDrain s) := by simp [execEventRingDrain]

@[simp ↓] theorem State.flushWords_clockQueue (x0 : Nat) : (s.flushWords x0).clockQueue = s.clockQueue := by
  induction x0 generalizing s with
  | zero => simp [State.flushWords]
  | succ n ih => simp [State.flushWords, ih]

@[simp ↓] theorem State.flushCards_clockQueue (x0 : Nat) : (s.flushCards x0).clockQueue = s.clockQueue := by
  induction x0 generalizing s with
  | zero => simp [State.flushCards]
  | succ n ih => simp [State.flushCards, ih]

@[simp ↓] theorem State.ledgerRecover_clockQueue (kept : Bool) : (s.ledgerRecover kept).2.clockQueue = s.clockQueue := by
  grind [State.ledgerRecover, State.rset_clockQueue, State.fset_clockQueue, State.setLedger_clockQueue, State.syncOldest_clockQueue]

/-! ### Hall passes -/

@[simp ↓] theorem State.syncPass_clockQueue (p : Nat) : (s.syncPass p).clockQueue = s.clockQueue := by
  unfold State.syncPass
  split <;> simp

@[simp ↓] theorem State.setPasses_clockQueue (l : List (Nat × Pass)) :
    (s.setPasses l).clockQueue = s.clockQueue := by simp [State.setPasses]
@[simp ↓] theorem State.endPass_clockQueue (p : Nat) : (s.endPass p).clockQueue = s.clockQueue := by simp [State.endPass]
@[simp ↓] theorem State.takePass_clockQueue (p holder secs : Nat) :
    (s.takePass p holder secs).clockQueue = s.clockQueue := by simp [State.takePass]
@[simp ↓] theorem State.safeCard_clockQueue (event : Nat) (detail : List Byte) (ukind ua ub : Nat) :
    (s.safeCard event detail ukind ua ub).clockQueue = s.clockQueue := by simp [State.safeCard]
@[simp ↓] theorem State.hostCard_clockQueue (event : Nat) (detail : List Byte) (ukind ua : Nat) :
    (s.hostCard event detail ukind ua).clockQueue = s.clockQueue := by simp [State.hostCard]
@[simp ↓] theorem State.revokeAll_clockQueue : s.revokeAll.clockQueue = s.clockQueue := by simp [State.revokeAll]
@[simp ↓] theorem State.writePassAcq_clockQueue (v : Word) : (s.writePassAcq v).clockQueue = s.clockQueue := by simp [State.writePassAcq]
@[simp ↓] theorem execHallPassAcquireHome_keepsClockQueue (r : Req) (v : Word) :
    KeepsClockQueue s (execHallPassAcquireHome r v s) := by simp [execHallPassAcquireHome]
@[simp ↓] theorem execHallPassReleaseHome_keepsClockQueue (r : Req) (v : Word) :
    KeepsClockQueue s (execHallPassReleaseHome r v s) := by simp [execHallPassReleaseHome]

@[simp ↓] theorem execHallPassRevoke_keepsClockQueue (r : Req) (n : Fin 8) (v : Word) : KeepsClockQueue s (execHallPassRevoke r n v s) := by
  grind [execHallPassRevoke, State.asCtx_clockQueue, State.endPass_clockQueue, State.safeCard_clockQueue, State.hostCard_clockQueue,
    keepsClockQueue_next]

@[simp ↓] theorem execHallPassExpire_keepsClockQueue (n : Fin 8) : KeepsClockQueue s (execHallPassExpire n s) := by
  unfold execHallPassExpire
  split <;> simp

/-! ### Functional safety (spec/15) -/

@[simp ↓] theorem State.setSafe_clockQueue (x : Safe) : (s.setSafe x).clockQueue = s.clockQueue := by simp [State.setSafe]
@[simp ↓] theorem State.setSo_clockQueue (n : Nat) (x : So) : (s.setSo n x).clockQueue = s.clockQueue := by simp [State.setSo]
@[simp ↓] theorem State.safeOutputs_clockQueue : s.safeOutputs.clockQueue = s.clockQueue := by simp [State.safeOutputs]
@[simp ↓] theorem State.enterSafe_clockQueue (cause : Nat) (injected : Bool) :
    (s.enterSafe cause injected).clockQueue = s.clockQueue := by simp [State.enterSafe]
@[simp ↓] theorem State.diagnose_clockQueue (bad : Bool) (cause : Nat) :
    (s.diagnose bad cause).clockQueue = s.clockQueue := by simp [State.diagnose]
@[simp ↓] theorem State.rejectParams_clockQueue (offset : Nat) (injected : Bool) :
    (s.rejectParams offset injected).clockQueue = s.clockQueue := by simp [State.rejectParams]
@[simp ↓] theorem State.setFn_clockQueue (f : SafeFn) : (s.setFn f).clockQueue = s.clockQueue := by simp [State.setFn]
@[simp ↓] theorem State.fnSet_clockQueue (r : RegDesc) (f : SafeFn) (b : Bool) :
    (s.fnSet r f b).clockQueue = s.clockQueue := by simp [State.fnSet]
@[simp ↓] theorem State.tripFn_clockQueue (f : SafeFn) (value : Nat) :
    (s.tripFn f value).clockQueue = s.clockQueue := by simp [State.tripFn]
@[simp ↓] theorem State.warnFn_clockQueue (f : SafeFn) (b : Bool) (value : Nat) :
    (s.warnFn f b value).clockQueue = s.clockQueue := by simp [State.warnFn]
@[simp ↓] theorem State.sensorFn_clockQueue (f : SafeFn) (cond : Bool) (since value : Nat) :
    (s.sensorFn f cond since value).clockQueue = s.clockQueue := by simp [State.sensorFn]
@[simp ↓] theorem State.measureFn_clockQueue (f : SafeFn) (value : Nat) (clear : Bool) :
    (s.measureFn f value clear).clockQueue = s.clockQueue := by simp [State.measureFn]

@[simp ↓] theorem State.onFn_clockQueue (kind entry : Nat) (g : State → SafeFn → State) (h : ∀ f, (g s f).clockQueue = s.clockQueue) :
    (s.onFn kind entry g).clockQueue = s.clockQueue := by
  grind [State.onFn]

@[simp ↓] theorem execVibrationSeverityEval_keepsClockQueue (e : Fin 16) (rms : Word) (bias : Half) (limit : Bool) :
    KeepsClockQueue s (execVibrationSeverityEval e rms bias limit s) := by simp [execVibrationSeverityEval]
@[simp ↓] theorem State.speedFault_clockQueue (f : SafeFn) : (s.speedFault f).clockQueue = s.clockQueue := by simp [State.speedFault]
@[simp ↓] theorem execOverspeedEval_keepsClockQueue (k : Fin 4) (t : DWord) :
    KeepsClockQueue s (execOverspeedEval k t s) := by simp [execOverspeedEval]
@[simp ↓] theorem execTemperatureEval_keepsClockQueue (e : Fin 8) (mean ohm : Word) :
    KeepsClockQueue s (execTemperatureEval e mean ohm s) := by simp [execTemperatureEval]
@[simp ↓] theorem State.activateFns_clockQueue : s.activateFns.clockQueue = s.clockQueue := by simp [State.activateFns]

@[simp ↓] theorem State.proctorStart_clockQueue (p : List Byte) (sigOk : Bool) : (s.proctorStart p sigOk).clockQueue = s.clockQueue := by
  unfold State.proctorStart
  split
  · simp
  · split <;> simp

@[simp ↓] theorem State.resetRequest_clockQueue (source : Nat) :
    (s.resetRequest source).clockQueue = s.clockQueue := by simp [State.resetRequest]

@[simp ↓] theorem execSafetyResetRequest_keepsClockQueue (host : Option (Fin 4)) : KeepsClockQueue s (execSafetyResetRequest host s) := by
  rw [execSafetyResetRequest, keepsClockQueue_next]
  split
  · simp
  · split <;> simp

@[simp ↓] theorem State.lockstep_clockQueue (injected : Bool) : (s.lockstep injected).clockQueue = s.clockQueue := by simp [State.lockstep]
@[simp ↓] theorem execLockstepMismatch_keepsClockQueue : KeepsClockQueue s (execLockstepMismatch s) := by simp [execLockstepMismatch]
@[simp ↓] theorem execSramScrubPass_keepsClockQueue (corrected : Half) (bad : Bool) :
    KeepsClockQueue s (execSramScrubPass corrected bad s) := by simp [execSramScrubPass]
@[simp ↓] theorem execProctorWatchdogExpire_keepsClockQueue :
    KeepsClockQueue s (execProctorWatchdogExpire s) := by simp [execProctorWatchdogExpire]
@[simp ↓] theorem execClockMonitorCheck_keepsClockQueue (ok : Bool) :
    KeepsClockQueue s (execClockMonitorCheck ok s) := by simp [execClockMonitorCheck]
@[simp ↓] theorem execSupplyMonitorTrip_keepsClockQueue (k : Fin 6) :
    KeepsClockQueue s (execSupplyMonitorTrip k s) := by simp [execSupplyMonitorTrip]
@[simp ↓] theorem execSafetyLinkFrame_keepsClockQueue (toProctor ok : Bool) :
    KeepsClockQueue s (execSafetyLinkFrame toProctor ok s) := by simp [execSafetyLinkFrame]
@[simp ↓] theorem execSafetyLinkTimeout_keepsClockQueue : KeepsClockQueue s (execSafetyLinkTimeout s) := by simp [execSafetyLinkTimeout]
@[simp ↓] theorem execShadowReferenceTest_keepsClockQueue (ok : Bool) :
    KeepsClockQueue s (execShadowReferenceTest ok s) := by simp [execShadowReferenceTest]
@[simp ↓] theorem execShadowCoeffCrc_keepsClockQueue (ok : Bool) :
    KeepsClockQueue s (execShadowCoeffCrc ok s) := by simp [execShadowCoeffCrc]
@[simp ↓] theorem execComparatorSelfTest_keepsClockQueue (ok : Bool) :
    KeepsClockQueue s (execComparatorSelfTest ok s) := by simp [execComparatorSelfTest]
@[simp ↓] theorem State.outFault_clockQueue (n kind : Nat) : (s.outFault n kind).clockQueue = s.clockQueue := by simp [State.outFault]
@[simp ↓] theorem State.outCond_clockQueue (n kind : Nat) (cond : Bool) :
    (s.outCond n kind cond).clockQueue = s.clockQueue := by simp [State.outCond]

@[simp ↓] theorem execOutputReadback_keepsClockQueue (n : Fin 4) (vh vl ma : Half) (limit hs ls : Bool) (moved : Option (Fin 4)) :
    KeepsClockQueue s (execOutputReadback n vh vl ma limit hs ls moved s) := by
  unfold execOutputReadback
  rw [keepsClockQueue_next]
  cases moved <;> simp

@[simp ↓] theorem execDarkTestPulse_keepsClockQueue (n : Fin 4) (hsOpen lsOpen : Bool) (moved : Option (Fin 4)) :
    KeepsClockQueue s (execDarkTestPulse n hsOpen lsOpen moved s) := by
  rw [execDarkTestPulse, keepsClockQueue_next]
  split
  · split <;> simp
  · split <;> simp

@[simp ↓] theorem State.setSuspect_clockQueue (k : Nat) (x : Suspect) :
    (s.setSuspect k x).clockQueue = s.clockQueue := by simp [State.setSuspect]
@[simp ↓] theorem State.setUnitLevel_clockQueue (k l : Nat) : (s.setUnitLevel k l).clockQueue = s.clockQueue := by simp [State.setUnitLevel]
@[simp ↓] theorem State.escalate_clockQueue (k ub : Nat) : (s.escalate k ub).clockQueue = s.clockQueue := by simp [State.escalate]
@[simp ↓] theorem execSuspectVerdict_keepsClockQueue (dme : Bool) (ua ub : Byte) (verdict : Fin 4) (origin : DWord) :
    KeepsClockQueue s (execSuspectVerdict dme ua ub verdict origin s) := by simp [execSuspectVerdict]
@[simp ↓] theorem State.injectCause_clockQueue (c out : Nat) :
    (s.injectCause c out).clockQueue = s.clockQueue := by simp [State.injectCause]
@[simp ↓] theorem execSafeInject_keepsClockQueue (r : Req) (v : Word) : KeepsClockQueue s (execSafeInject r v s) := by simp [execSafeInject]

/-! ### Power, clock and reset (spec/19) -/

@[simp ↓] theorem State.setPwr_clockQueue (x : Pwr) : (s.setPwr x).clockQueue = s.clockQueue := by simp [State.setPwr]
@[simp ↓] theorem State.setBoot_clockQueue (x : Boot) : (s.setBoot x).clockQueue = s.clockQueue := by simp [State.setBoot]
@[simp ↓] theorem State.pwrCard_clockQueue (event : Nat) (detail : List Byte) :
    (s.pwrCard event detail).clockQueue = s.clockQueue := by simp [State.pwrCard]
@[simp ↓] theorem State.clkCard_clockQueue (event : Nat) (detail : List Byte) :
    (s.clkCard event detail).clockQueue = s.clockQueue := by simp [State.clkCard]
@[simp ↓] theorem State.thmCard_clockQueue (event die reading : Nat) :
    (s.thmCard event die reading).clockQueue = s.clockQueue := by simp [State.thmCard]
@[simp ↓] theorem State.resetSto_clockQueue : s.resetSto.clockQueue = s.clockQueue := by simp [State.resetSto]
@[simp ↓] theorem State.retiredCores_clockQueue (s old : State) :
    (s.retiredCores old).clockQueue = s.clockQueue := by simp [State.retiredCores]
theorem State.resetCore_clockQueue (code : Nat) :
    (s.resetCore code).clockQueue = (if code = 1 ∨ code = 2 then 0 else s.timebase, s.pending) := (rfl)
@[simp ↓] theorem State.resetUnits_clockQueue (code : Nat) : (s.resetUnits code).clockQueue = s.clockQueue := by simp [State.resetUnits]
@[simp ↓] theorem State.resetRest_clockQueue : s.resetRest.clockQueue = s.clockQueue := by simp [State.resetRest]
@[simp ↓] theorem State.resetRegs_clockQueue (code : Nat) : (s.resetRegs code).clockQueue = s.clockQueue := by simp [State.resetRegs]

theorem State.intoReset_clockQueue (code : Nat) :
    (s.intoReset code).clockQueue = (if code = 1 ∨ code = 2 then 0 else s.timebase, s.pending) := by
  have hold : ((s.resetSto.resetRegs code).timebase, (s.resetSto.resetRegs code).pending) = (s.timebase, s.pending) :=
    (State.resetRegs_clockQueue s.resetSto code).trans (State.resetSto_clockQueue s)
  obtain ⟨htime, hqueue⟩ := Prod.mk.inj hold
  unfold State.intoReset
  dsimp only
  rw [State.evOcc_clockQueue, State.clockQueue_ite, State.setFlag_clockQueue, ite_self, State.fset_clockQueue,
    State.retiredCores_clockQueue, State.resetRest_clockQueue, State.resetUnits_clockQueue, State.resetCore_clockQueue, htime, hqueue]

@[simp ↓] theorem State.intoReset_clockQueue_of_keeps (code : Nat) (h1 : code ≠ 1) (h2 : code ≠ 2) :
    (s.intoReset code).clockQueue = s.clockQueue := by
  rw [State.intoReset_clockQueue, if_neg (not_or.mpr ⟨h1, h2⟩)]
  rfl

@[simp ↓] theorem State.setDies_clockQueue (m : Nat) : (s.setDies m).clockQueue = s.clockQueue := by simp [State.setDies]
@[simp ↓] theorem State.setDom_clockQueue (k : Nat) (on : Bool) : (s.setDom k on).clockQueue = s.clockQueue := by simp [State.setDom]
@[simp ↓] theorem State.freshStream_clockQueue (n : Nat) : (s.freshStream n).clockQueue = s.clockQueue := by simp [State.freshStream]
@[simp ↓] theorem State.zeroL1_clockQueue : s.zeroL1.clockQueue = s.clockQueue := by simp [State.zeroL1]
@[simp ↓] theorem State.zeroDam_clockQueue (d : Nat) : (s.zeroDam d).clockQueue = s.clockQueue := by simp [State.zeroDam]
@[simp ↓] theorem State.switchDie_clockQueue (d : Nat) (on : Bool) :
    (s.switchDie d on).clockQueue = s.clockQueue := by simp [State.switchDie]
@[simp ↓] theorem State.linksDown_clockQueue : s.linksDown.clockQueue = s.clockQueue := by simp [State.linksDown]
@[simp ↓] theorem State.writeDomctl_clockQueue (v : Word) : (s.writeDomctl v).clockQueue = s.clockQueue := by simp [State.writeDomctl]
@[simp ↓] theorem execDomainSwitchOff_keepsClockQueue (r : Req) (v : Word) :
    KeepsClockQueue s (execDomainSwitchOff r v s) := by simp [execDomainSwitchOff]
@[simp ↓] theorem execDomainSwitchOn_keepsClockQueue (r : Req) (v : Word) :
    KeepsClockQueue s (execDomainSwitchOn r v s) := by simp [execDomainSwitchOn]
@[simp ↓] theorem State.writeWdog_clockQueue (v : Word) : (s.writeWdog v).clockQueue = s.clockQueue := by simp [State.writeWdog]
@[simp ↓] theorem execWatchdogEnable_keepsClockQueue (r : Req) (v : Word) :
    KeepsClockQueue s (execWatchdogEnable r v s) := by simp [execWatchdogEnable]
@[simp ↓] theorem execWatchdogKick_keepsClockQueue (r : Req) (v : Word) :
    KeepsClockQueue s (execWatchdogKick r v s) := by simp [execWatchdogKick]
@[simp ↓] theorem execWatchdogExpire_keepsClockQueue : KeepsClockQueue s (execWatchdogExpire s) := by simp [execWatchdogExpire]
@[simp ↓] theorem State.haltAll_clockQueue : s.haltAll.clockQueue = s.clockQueue := by simp [State.haltAll]
@[simp ↓] theorem State.haltAllSilent_clockQueue : s.haltAllSilent.clockQueue = s.clockQueue := by simp [State.haltAllSilent]
@[simp ↓] theorem State.stoDrain_clockQueue (bad : List (Fin 32)) : (s.stoDrain bad).clockQueue = s.clockQueue := by simp [State.stoDrain]
@[simp ↓] theorem State.stoInterrupt_clockQueue (bad : List (Fin 32)) :
    (s.stoInterrupt bad).clockQueue = s.clockQueue := by simp [State.stoInterrupt]
@[simp ↓] theorem State.lastCompletions_clockQueue : s.lastCompletions.clockQueue = s.clockQueue := by simp [State.lastCompletions]
@[simp ↓] theorem State.portsRecess_clockQueue : s.portsRecess.clockQueue = s.clockQueue := by simp [State.portsRecess]
@[simp ↓] theorem State.enterRecess_clockQueue (bad : List (Fin 32)) :
    (s.enterRecess bad).clockQueue = s.clockQueue := by simp [State.enterRecess]
@[simp ↓] theorem execRecessRequest_keepsClockQueue (r : Req) (v : Word) (bad : List (Fin 32)) :
    KeepsClockQueue s (execRecessRequest r v bad s) := by simp [execRecessRequest]
@[simp ↓] theorem State.emptyLost_clockQueue : s.emptyLost.clockQueue = s.clockQueue := by simp [State.emptyLost]
@[simp ↓] theorem State.wakeDies_clockQueue : s.wakeDies.clockQueue = s.clockQueue := by simp [State.wakeDies]
@[simp ↓] theorem State.wakeDomains_clockQueue : s.wakeDomains.clockQueue = s.clockQueue := by simp [State.wakeDomains]
@[simp ↓] theorem State.reapplyPlacements_clockQueue : s.reapplyPlacements.clockQueue = s.clockQueue := by simp [State.reapplyPlacements]
@[simp ↓] theorem State.wake_clockQueue (cause : Nat) : (s.wake cause).clockQueue = s.clockQueue := by simp [State.wake]
@[simp ↓] theorem execWakeRequest_keepsClockQueue (src : Fin 5) (k : Fin 8) (v : Word) :
    KeepsClockQueue s (execWakeRequest src k v s) := by simp [execWakeRequest]
@[simp ↓] theorem State.powerSequence_clockQueue (cause : Nat) (bad : List (Fin 32)) (flushed us : Nat) :
    (s.powerSequence cause bad flushed us).clockQueue = s.clockQueue := by simp [State.powerSequence]

@[simp ↓] theorem execPowerFailWarning_keepsClockQueue (mv : Half) (bad : List (Fin 32)) (flushed : Half) (us : Word) :
    KeepsClockQueue s (execPowerFailWarning mv bad flushed us s) := by
  rw [execPowerFailWarning, keepsClockQueue_next]
  dsimp only
  split
  · rfl
  split
  · simp
  split
  · rw [State.fset_clockQueue, State.intoReset_clockQueue_of_keeps _ _ (by grind) (by grind)]
    simp
  · simp

@[simp ↓] theorem execPowerFailClear_keepsClockQueue : KeepsClockQueue s (execPowerFailClear s) := by simp [execPowerFailClear]
@[simp ↓] theorem execThermalShutdown_keepsClockQueue (bad : List (Fin 32)) (flushed : Half) (us : Word) :
    KeepsClockQueue s (execThermalShutdown bad flushed us s) := by simp [execThermalShutdown]
@[simp ↓] theorem execThermalHoldEnd_keepsClockQueue : KeepsClockQueue s (execThermalHoldEnd s) := by simp [execThermalHoldEnd]
@[simp ↓] theorem execThermalReading_keepsClockQueue (t : List Half) :
    KeepsClockQueue s (execThermalReading t s) := by simp [execThermalReading]
@[simp ↓] theorem execRefclkLoss_keepsClockQueue : KeepsClockQueue s (execRefclkLoss s) := by simp [execRefclkLoss]

@[simp ↓] theorem execRefclkPresent_keepsClockQueue : KeepsClockQueue s (execRefclkPresent s) := by
  unfold execRefclkPresent
  simp

@[simp ↓] theorem execPllLockLoss_keepsClockQueue (us : Word) : KeepsClockQueue s (execPllLockLoss us s) := by simp [execPllLockLoss]

/-! ### The registers of the configuration (spec/02) -/

@[simp ↓] theorem State.setAvoid_clockQueue (k : Nat) (b : Bool) : (s.setAvoid k b).clockQueue = s.clockQueue := by simp [State.setAvoid]
@[simp ↓] theorem State.setLock_clockQueue : s.setLock.clockQueue = s.clockQueue := by simp [State.setLock]
@[simp ↓] theorem State.confirm_clockQueue : s.confirm.clockQueue = s.clockQueue := by simp [State.confirm]
@[simp ↓] theorem State.askRestart_clockQueue (update : Bool) :
    (s.askRestart update).clockQueue = s.clockQueue := by simp [State.askRestart]
@[simp ↓] theorem State.writeBootCtrl_clockQueue (v : Word) : (s.writeBootCtrl v).clockQueue = s.clockQueue := by simp [State.writeBootCtrl]
@[simp ↓] theorem execBootConfirm_keepsClockQueue (r : Req) (v : Word) :
    KeepsClockQueue s (execBootConfirm r v s) := by simp [execBootConfirm]
@[simp ↓] theorem execBootLock_keepsClockQueue (r : Req) (v : Word) : KeepsClockQueue s (execBootLock r v s) := by simp [execBootLock]
@[simp ↓] theorem execBootRestartRequest_keepsClockQueue (r : Req) (v : Word) :
    KeepsClockQueue s (execBootRestartRequest r v s) := by simp [execBootRestartRequest]
@[simp ↓] theorem execBootUpdateRequest_keepsClockQueue (r : Req) (v : Word) :
    KeepsClockQueue s (execBootUpdateRequest r v s) := by simp [execBootUpdateRequest]
@[simp ↓] theorem State.writeRevoke_clockQueue (r : Req) (v : Word) :
    (s.writeRevoke r v).clockQueue = s.clockQueue := by simp [State.writeRevoke]
@[simp ↓] theorem execBootRevokeWrite_keepsClockQueue (r : Req) (v : Word) :
    KeepsClockQueue s (execBootRevokeWrite r v s) := by simp [execBootRevokeWrite]
@[simp ↓] theorem execConfirmWindowExpire_keepsClockQueue :
    KeepsClockQueue s (execConfirmWindowExpire s) := by simp [execConfirmWindowExpire]

/-! ### The data mover (spec/05) -/

@[simp ↓] theorem State.dmLinear_clockQueue (n : Nat) (p : Prog) (o : OpRun) (h : Nat) (d : Desc) (ranges : List (Nat × Nat)) :
    (s.dmLinear n p o h d ranges).1.clockQueue = s.clockQueue := by
  grind [State.dmLinear, State.violatePages_clockQueue, State.touch_clockQueue, State.suspendOp_clockQueue, State.readCheck_clockQueue]

@[simp ↓] theorem State.dmBlock_clockQueue (n : Nat) (p : Prog) (o : OpRun) (h : Nat) (d : Desc) (total i : Nat) (raw : Bool) :
    (s.dmBlock n p o h d total i raw).1.clockQueue = s.clockQueue := by
  unfold State.dmBlock
  dsimp only
  split
  · next h1 => simp [clockQueue_of_fst h1]
  next h1 =>
  split
  · simp [clockQueue_of_fst h1]
  split
  · simp [clockQueue_of_fst h1]
  split
  · next h2 => simp [clockQueue_of_fst h2, clockQueue_of_fst h1]
  · next h2 => split <;> simp [clockQueue_of_fst h2, clockQueue_of_fst h1]

@[simp ↓] theorem State.dmTensor_clockQueue (n : Nat) (p : Prog) (o : OpRun) (h : Nat) (d : Desc) (lo hi : Nat) :
    (s.dmTensor n p o h d lo hi).1.clockQueue = s.clockQueue := by
  unfold State.dmTensor
  dsimp only
  split
  · next h1 => simp [clockQueue_of_snd h1]
  · next h1 => split <;> next h2 => simp [clockQueue_of_snd h2, clockQueue_of_snd h1]

@[simp ↓] theorem State.dmSource_clockQueue (n : Nat) (p : Prog) (o : OpRun) (src dst : Desc) (lo hi total : Nat) :
    (s.dmSource n p o src dst lo hi total).1.clockQueue = s.clockQueue := by
  unfold State.dmSource
  dsimp only
  split
  · rfl
  · split <;> simp

@[simp ↓] theorem State.carryTags_clockQueue (l : List (Nat × Option Nat)) : (s.carryTags l).clockQueue = s.clockQueue := by
  refine clockQueue_foldl _ (fun t b => ?_) _ _
  dsimp only
  split
  · rfl
  · split <;> simp

@[simp ↓] theorem State.dmArrival_clockQueue (n : Nat) (p : Prog) (o : OpRun) (dst : Desc) (total : Nat) :
    (s.dmArrival n p o dst total).1.clockQueue = s.clockQueue := by
  grind [State.dmArrival, State.startArrival_clockQueue]

@[simp ↓] theorem State.dmStepDone_clockQueue (n : Nat) (p : Prog) (o : OpRun) (dst : Desc) :
    (s.dmStepDone n p o dst).clockQueue = s.clockQueue := by simp [State.dmStepDone]

@[simp ↓] theorem State.dmStep_clockQueue (n : Nat) (p : Prog) (o : OpRun) : (s.dmStep n p o).clockQueue = s.clockQueue := by
  unfold State.dmStep
  dsimp only
  split
  · next h1 => simp [clockQueue_of_fst h1, apply_ite Prod.fst]
  next t start h1 =>
  have ht : t.clockQueue = s.clockQueue := by simpa [apply_ite Prod.fst] using clockQueue_of_fst h1
  split
  · next h2 => simp [clockQueue_of_fst h2, ht]
  next h2 =>
  split
  · next h3 => simp [clockQueue_of_snd h3, clockQueue_of_fst h2, ht]
  next u h3 =>
  have hu : u.clockQueue = s.clockQueue := by simpa [clockQueue_of_fst h2, ht] using clockQueue_of_snd h3
  split
  · simp [hu]
  · split <;> simp [hu]

@[simp ↓] theorem State.copyError_clockQueue (n slot handle : Nat) (counter : RegDesc) (event dest : Nat) (detail : List Byte) :
    (s.copyError n slot handle counter event dest detail).clockQueue = s.clockQueue := by simp [State.copyError]

@[simp ↓] theorem State.segmentSend_clockQueue (n : Nat) (p : Prog) (o : OpRun) : (s.segmentSend n p o).clockQueue = s.clockQueue := by
  simp only [State.segmentSend]
  split
  · simp
  split
  · next h1 => simp [clockQueue_of_fst h1]
  next h1 =>
  split
  · next h2 => simp [clockQueue_of_snd h2, clockQueue_of_fst h1]
  next t h2 =>
  have ht : t.clockQueue = s.clockQueue := by simpa [clockQueue_of_fst h1] using clockQueue_of_snd h2
  split
  · simp [ht]
  · split <;> simp [ht]

@[simp ↓] theorem execSegmentSend_keepsClockQueue (n : Fin 22) : KeepsClockQueue s (execSegmentSend n s) := by simp [execSegmentSend]
@[simp ↓] theorem State.dmBegin_clockQueue (n : Nat) (p : Prog) (o : OpRun) :
    (s.dmBegin n p o).clockQueue = s.clockQueue := by simp [State.dmBegin]
@[simp ↓] theorem execCopy_keepsClockQueue (n : Fin 22) : KeepsClockQueue s (execCopy n s) := by simp [execCopy]
@[simp ↓] theorem execFill_keepsClockQueue (n : Fin 22) : KeepsClockQueue s (execFill n s) := by simp [execFill]
@[simp ↓] theorem execDmChunk_keepsClockQueue (n : Fin 22) : KeepsClockQueue s (execDmChunk n s) := by simp [execDmChunk]

/-! ### The image transfer of enrolment (spec/02) -/

@[simp ↓] theorem State.bindKeys_clockQueue (x : ImgSrc) : (s.bindKeys x).clockQueue = s.clockQueue := by simp [State.bindKeys]
@[simp ↓] theorem State.setImage_clockQueue (x : Option ImageXfer) : (s.setImage x).clockQueue = s.clockQueue := by simp [State.setImage]

@[simp ↓] theorem State.imgBegin_clockQueue (src : List Byte) (len : Nat) : (s.imgBegin src len).2.clockQueue = s.clockQueue := by
  unfold State.imgBegin
  dsimp only
  split
  · rfl
  split
  · rfl
  · simp

@[simp ↓] theorem State.stageWords_clockQueue (o : Nat) (l : List (List Byte)) :
    (s.stageWords o l).clockQueue = s.clockQueue := by simp [State.stageWords]

@[simp ↓] theorem State.imgData_clockQueue (src : List Byte) (ofs : Nat) (data : List Byte) :
    (s.imgData src ofs data).2.clockQueue = s.clockQueue := by
  grind [State.imgData, State.setImage_clockQueue, State.stageWords_clockQueue]

@[simp ↓] theorem State.imgEnd_clockQueue (src : List Byte) (flashOk : Bool) : (s.imgEnd src flashOk).2.2.clockQueue = s.clockQueue := by
  grind [State.imgEnd, State.setBoot_clockQueue, State.bindKeys_clockQueue, State.setImage_clockQueue]

/-! ### The ring protocol (spec/17) -/

@[simp ↓] theorem State.setHostX_clockQueue (h : Nat) (x : HostX) : (s.setHostX h x).clockQueue = s.clockQueue := by simp [State.setHostX]
@[simp ↓] theorem State.setHosts_clockQueue (x : Hosts) : (s.setHosts x).clockQueue = s.clockQueue := by simp [State.setHosts]
@[simp ↓] theorem State.setOrd_clockQueue (p : Nat) (l : List Pkt) : (s.setOrd p l).clockQueue = s.clockQueue := by simp [State.setOrd]
@[simp ↓] theorem State.setUrg_clockQueue (p : Nat) (l : List Pkt) : (s.setUrg p l).clockQueue = s.clockQueue := by simp [State.setUrg]

@[simp ↓] theorem execHostFrameReceive_keepsClockQueue (p : Fin 3) (kind : Fin 5) (pcp : Fin 8) (src body : List Byte) :
    KeepsClockQueue s (execHostFrameReceive p kind pcp src body s) := by
  rw [execHostFrameReceive, keepsClockQueue_next]
  split
  · simp
  · split <;> simp

@[simp ↓] theorem State.joinRing_clockQueue (q h : Nat) : (s.joinRing q h).clockQueue = s.clockQueue := by simp [State.joinRing]

@[simp ↓] theorem State.acceptMsg_clockQueue (h number c : Nat) : (s.acceptMsg h number c).clockQueue = s.clockQueue := by
  unfold State.acceptMsg
  dsimp only
  split
  · split <;> simp
  · simp

@[simp ↓] theorem State.transmit_clockQueue (p queue : Nat) (addr pkt : List Byte) :
    (s.transmit p queue addr pkt).clockQueue = s.clockQueue := by simp [State.transmit]

@[simp ↓] theorem State.sendSealed_clockQueue (h queue : Nat) (payload : List Byte) :
    (s.sendSealed h queue payload).clockQueue = s.clockQueue := by
  grind [State.sendSealed, State.setHostX_clockQueue, State.transmit_clockQueue]

@[simp ↓] theorem State.reply_clockQueue (w : Peer) (queue : Nat) (req : List Byte) (status : Nat) (body : List Byte) :
    (s.reply w queue req status body).clockQueue = s.clockQueue := by
  unfold State.reply
  split <;> simp

@[simp ↓] theorem State.dropPkt_clockQueue (p : Nat) (urgent : Bool) (i : Nat) :
    (s.dropPkt p urgent i).clockQueue = s.clockQueue := by simp [State.dropPkt]

@[simp ↓] theorem State.serve_clockQueue (p op : Nat) (f : State → Peer → List Byte → State)
    (h : ∀ u k b, (f u k b).clockQueue = u.clockQueue) : (s.serve p op f).clockQueue = s.clockQueue := by
  grind [State.serve, State.dropPkt_clockQueue, State.count_clockQueue, State.violate_clockQueue, State.setHostX_clockQueue,
    State.acceptMsg_clockQueue, State.reply_clockQueue]

@[simp ↓] theorem State.serveHost_clockQueue (p op : Nat) (ok : List Byte → Bool) (f : State → Nat → List Byte → State)
    (h : ∀ u k b, (f u k b).clockQueue = u.clockQueue) : (s.serveHost p op ok f).clockQueue = s.clockQueue := by
  unfold State.serveHost
  refine State.serve_clockQueue _ _ _ _ (fun u k b => ?_)
  split
  · simp
  · split
    · exact h ..
    · rfl

@[simp ↓] theorem execLrpHello_keepsClockQueue (p : Fin 4) : KeepsClockQueue s (execLrpHello p s) := by
  grind [execLrpHello, State.draw_clockQueue, State.setHostX_clockQueue, State.transmit_clockQueue, State.serve_clockQueue,
    keepsClockQueue_next]

@[simp ↓] theorem execLrpStatus_keepsClockQueue (p : Fin 4) : KeepsClockQueue s (execLrpStatus p s) := by simp [execLrpStatus]
@[simp ↓] theorem State.postEntry_clockQueue (q : Nat) (e : List Byte) :
    (s.postEntry q e).clockQueue = s.clockQueue := by simp [State.postEntry]
@[simp ↓] theorem execLrpPost_keepsClockQueue (p : Fin 4) : KeepsClockQueue s (execLrpPost p s) := by simp [execLrpPost]
@[simp ↓] theorem State.release_clockQueue (q h n : Nat) : (s.release q h n).clockQueue = s.clockQueue := by simp [State.release]
@[simp ↓] theorem State.openBulk_clockQueue (h : Nat) (req : List Byte) (packets : List (List Byte)) :
    (s.openBulk h req packets).clockQueue = s.clockQueue := by simp [State.openBulk]
@[simp ↓] theorem execLrpRead_keepsClockQueue (p : Fin 4) : KeepsClockQueue s (execLrpRead p s) := by simp [execLrpRead]
@[simp ↓] theorem State.askFence_clockQueue (q : Nat) (auto : Bool) (tag : Nat) :
    (s.askFence q auto tag).clockQueue = s.clockQueue := by simp [State.askFence]
@[simp ↓] theorem execLrpFence_keepsClockQueue (p : Fin 4) : KeepsClockQueue s (execLrpFence p s) := by simp [execLrpFence]
@[simp ↓] theorem execLrpPassacq_keepsClockQueue (p : Fin 4) : KeepsClockQueue s (execLrpPassacq p s) := by simp [execLrpPassacq]
@[simp ↓] theorem execLrpPassrel_keepsClockQueue (p : Fin 4) : KeepsClockQueue s (execLrpPassrel p s) := by simp [execLrpPassrel]
@[simp ↓] theorem State.jobRecord_clockQueue (q : Nat) (b : List Byte) : (s.jobRecord q b).clockQueue = s.clockQueue := by
  grind [State.jobRecord, State.tryCommit_clockQueue, State.setHosts_clockQueue]
@[simp ↓] theorem State.discardJobs_clockQueue (q : Nat) : (s.discardJobs q).clockQueue = s.clockQueue := by simp [State.discardJobs]

@[simp ↓] theorem State.stopTarget_clockQueue (k : Nat) : (s.stopTarget k).clockQueue = s.clockQueue := by
  unfold State.stopTarget
  dsimp only
  rw [State.fset_clockQueue, clockQueue_foldl _ (fun t n => by simp), clockQueue_foldl _ (fun t n => by simp), State.discardJobs_clockQueue,
    State.discardJobs_clockQueue, State.setHostX_clockQueue]
  split <;> simp

@[simp ↓] theorem State.stop_clockQueue (h : Nat) : (s.stop h).2.2.clockQueue = s.clockQueue := by simp [State.stop]
@[simp ↓] theorem execLrpStop_keepsClockQueue (p : Fin 4) : KeepsClockQueue s (execLrpStop p s) := by simp [execLrpStop]
@[simp ↓] theorem execLrpResume_keepsClockQueue (p : Fin 4) : KeepsClockQueue s (execLrpResume p s) := by simp [execLrpResume]
@[simp ↓] theorem State.snapBytes_clockQueue (m : PageMap) (va n : Nat) : (s.snapBytes m va n).2.clockQueue = s.clockQueue := by
  grind [State.snapBytes, State.eccFail_clockQueue, State.uncorrectable_clockQueue]

@[simp ↓] theorem State.snapshotHost_clockQueue (h : Nat) (req : List Byte) (va n : Nat) :
    (s.snapshotHost h req va n).clockQueue = s.clockQueue := by
  grind [State.snapshotHost, State.translatePages_clockQueue, State.violatePages_clockQueue, State.reportFault_clockQueue,
    State.setHostX_clockQueue, State.reply_clockQueue, State.openBulk_clockQueue, State.snapBytes_clockQueue]

@[simp ↓] theorem execLrpSnapshot_keepsClockQueue (p : Fin 4) : KeepsClockQueue s (execLrpSnapshot p s) := by simp [execLrpSnapshot]
@[simp ↓] theorem execLrpBulkack_keepsClockQueue (p : Fin 4) : KeepsClockQueue s (execLrpBulkack p s) := by
  grind [execLrpBulkack, State.setHostX_clockQueue, State.serveHost_clockQueue, keepsClockQueue_next]
@[simp ↓] theorem execBulkPacketSend_keepsClockQueue (h : Fin 4) : KeepsClockQueue s (execBulkPacketSend h s) := by
  grind [execBulkPacketSend, State.count_clockQueue, State.setHostX_clockQueue, State.sendSealed_clockQueue, keepsClockQueue_next]
@[simp ↓] theorem execBulkResendTimeout_keepsClockQueue (h : Fin 4) : KeepsClockQueue s (execBulkResendTimeout h s) := by
  grind [execBulkResendTimeout, State.hostCard_clockQueue, State.setHostX_clockQueue, State.sendSealed_clockQueue, keepsClockQueue_next]
@[simp ↓] theorem execLrpTariff_keepsClockQueue (p : Fin 4) : KeepsClockQueue s (execLrpTariff p s) := by simp [execLrpTariff]
@[simp ↓] theorem execLrpMdclr_keepsClockQueue (p : Fin 4) : KeepsClockQueue s (execLrpMdclr p s) := by simp [execLrpMdclr]
@[simp ↓] theorem execLrpAovr_keepsClockQueue (p : Fin 4) : KeepsClockQueue s (execLrpAovr p s) := by simp [execLrpAovr]
@[simp ↓] theorem execLrpSafereset_keepsClockQueue (p : Fin 4) : KeepsClockQueue s (execLrpSafereset p s) := by simp [execLrpSafereset]
@[simp ↓] theorem execLrpLedgerkey_keepsClockQueue (p : Fin 4) : KeepsClockQueue s (execLrpLedgerkey p s) := by simp [execLrpLedgerkey]

@[simp ↓] theorem State.serveImg_clockQueue (p op : Nat) (ok : List Byte → Bool)
    (f : State → List Byte → List Byte → Nat × List Byte × State) (h : ∀ u k b, (f u k b).2.2.clockQueue = u.clockQueue) :
    (s.serveImg p op ok f).clockQueue = s.clockQueue := by
  unfold State.serveImg
  refine State.serve_clockQueue _ _ _ _ (fun u k b => ?_)
  split <;> simp [h]

@[simp ↓] theorem execImgbegin_keepsClockQueue (p : Fin 4) : KeepsClockQueue s (execImgbegin p s) := by simp [execImgbegin]
@[simp ↓] theorem execImgdata_keepsClockQueue (p : Fin 4) : KeepsClockQueue s (execImgdata p s) := by simp [execImgdata]
@[simp ↓] theorem execImgend_keepsClockQueue (p : Fin 4) (flashOk : Bool) :
    KeepsClockQueue s (execImgend p flashOk s) := by simp [execImgend]

/-! ### Host ports (spec/17) -/

@[simp ↓] theorem State.jobStart_clockQueue (q : Nat) (b : List Byte) : (s.jobStart q b).2.clockQueue = s.clockQueue := by
  grind [State.jobStart, State.violate_clockQueue, State.submitStart_clockQueue]
@[simp ↓] theorem execJobEntryServe_keepsClockQueue (q : Fin 16) : KeepsClockQueue s (execJobEntryServe q s) := by simp [execJobEntryServe]
@[simp ↓] theorem execJobStatusRecord_keepsClockQueue (q : Fin 16) : KeepsClockQueue s (execJobStatusRecord q s) := by
  grind [execJobStatusRecord, State.tryCommit_clockQueue, State.setHosts_clockQueue, keepsClockQueue_next]
@[simp ↓] theorem State.writeJobTail_clockQueue (q : Nat) (v : Word) :
    (s.writeJobTail q v).clockQueue = s.clockQueue := by simp [State.writeJobTail]
@[simp ↓] theorem execJobTailWrite_keepsClockQueue (r : Req) (q : Fin 16) (v : Word) :
    KeepsClockQueue s (execJobTailWrite r q v s) := by simp [execJobTailWrite]
@[simp ↓] theorem State.writeJobCfg_clockQueue (q : Nat) (v : Word) :
    (s.writeJobCfg q v).clockQueue = s.clockQueue := by simp [State.writeJobCfg]
@[simp ↓] theorem State.writeRingCfg_clockQueue (q : Nat) (v : Word) :
    (s.writeRingCfg q v).clockQueue = s.clockQueue := by simp [State.writeRingCfg]
@[simp ↓] theorem execRingEnable_keepsClockQueue (r : Req) (job : Bool) (q : Fin 16) (v : Word) :
    KeepsClockQueue s (execRingEnable r job q v s) := by simp [execRingEnable]
@[simp ↓] theorem State.writeRingTail_clockQueue (q : Nat) (v : Word) :
    (s.writeRingTail q v).clockQueue = s.clockQueue := by simp [State.writeRingTail]
@[simp ↓] theorem State.writeRingAuto_clockQueue (q : Nat) (v : Word) :
    (s.writeRingAuto q v).clockQueue = s.clockQueue := by simp [State.writeRingAuto]
@[simp ↓] theorem execFenceRequest_keepsClockQueue (r : Req) (q : Fin 16) (v : Word) :
    KeepsClockQueue s (execFenceRequest r q v s) := by simp [execFenceRequest]
@[simp ↓] theorem execAutoFenceDue_keepsClockQueue (q : Fin 16) : KeepsClockQueue s (execAutoFenceDue q s) := by simp [execAutoFenceDue]
@[simp ↓] theorem execFenceCommit_keepsClockQueue (q : Fin 16) : KeepsClockQueue s (execFenceCommit q s) := by
  grind [execFenceCommit, State.draw_clockQueue, State.setRingX_clockQueue, State.tryCommit_clockQueue, keepsClockQueue_next]
@[simp ↓] theorem State.showSynced_clockQueue : s.showSynced.clockQueue = s.clockQueue := by simp [State.showSynced]
@[simp ↓] theorem State.setSynced_clockQueue (p t : Nat) : (s.setSynced p t).clockQueue = s.clockQueue := by simp [State.setSynced]
@[simp ↓] theorem execGptpFrame_keepsClockQueue (p : Fin 2) (kind : Fin 3) (domain : Byte) (capable : Bool) (master : DWord) (ppb : Word) :
    KeepsClockQueue s (execGptpFrame p kind domain capable master ppb s) := by simp [execGptpFrame]
@[simp ↓] theorem execGptpSyncLoss_keepsClockQueue (p : Fin 2) : KeepsClockQueue s (execGptpSyncLoss p s) := by simp [execGptpSyncLoss]
@[simp ↓] theorem execQbvGateEntry_keepsClockQueue (p : Fin 2) : KeepsClockQueue s (execQbvGateEntry p s) := by simp [execQbvGateEntry]
@[simp ↓] theorem execSpitStatus_keepsClockQueue : KeepsClockQueue s (execSpitStatus s) := by simp [execSpitStatus]
@[simp ↓] theorem execSpitWrite_keepsClockQueue (body : List Byte) : KeepsClockQueue s (execSpitWrite body s) := by simp [execSpitWrite]
@[simp ↓] theorem execSpitRead_keepsClockQueue : KeepsClockQueue s (execSpitRead s) := by simp [execSpitRead]
@[simp ↓] theorem execHostPortLinkChange_keepsClockQueue (p : Fin 3) (up : Bool) :
    KeepsClockQueue s (execHostPortLinkChange p up s) := by simp [execHostPortLinkChange]

/-! ### Segments between devices (spec/18) -/

@[simp ↓] theorem State.setChn_clockQueue (x : Chn) : (s.setChn x).clockQueue = s.clockQueue := by simp [State.setChn]
@[simp ↓] theorem State.flood_clockQueue (c : Nat × Nat × Nat) (not : Nat) :
    (s.flood c not).clockQueue = s.clockQueue := by simp [State.flood]
@[simp ↓] theorem State.startRoll_clockQueue : s.startRoll.clockQueue = s.clockQueue := by simp [State.startRoll]
@[simp ↓] theorem execRollCallStart_keepsClockQueue : KeepsClockQueue s (execRollCallStart s) := by simp [execRollCallStart]
@[simp ↓] theorem execRollCallRootDecided_keepsClockQueue :
    KeepsClockQueue s (execRollCallRootDecided s) := by simp [execRollCallRootDecided]

@[simp ↓] theorem State.writeRoutes_clockQueue (devs : List ChainDev) (l : List (Nat × Nat)) (ring : Bool) :
    (s.writeRoutes devs l ring).clockQueue = s.clockQueue := by
  unfold State.writeRoutes
  rw [clockQueue_foldl]
  · simp
  · intro t d
    split
    · rfl
    dsimp only
    rw [State.clockQueue_ite]
    split
    · rfl
    · split
      · simp
      · simp

@[simp ↓] theorem State.writeDirectory_clockQueue (devs : List ChainDev) (l : List (Nat × Nat)) :
    (s.writeDirectory devs l).clockQueue = s.clockQueue := by simp [State.writeDirectory]
@[simp ↓] theorem State.setStandby_clockQueue (m : Nat) : (s.setStandby m).clockQueue = s.clockQueue := by simp [State.setStandby]

@[simp ↓] theorem execRollCallDirectory_keepsClockQueue (devs : List ChainDev) (links : Fin 64) (standby : Fin 8) :
    KeepsClockQueue s (execRollCallDirectory devs links standby s) := by
  grind [execRollCallDirectory, State.fset_clockQueue, State.setFlag_clockQueue, State.card_clockQueue, State.setChn_clockQueue,
    State.writeRoutes_clockQueue, State.writeDirectory_clockQueue, State.setStandby_clockQueue, keepsClockQueue_next]

@[simp ↓] theorem execUnreachableAddressExpiry_keepsClockQueue (a : Fin 4095) :
    KeepsClockQueue s (execUnreachableAddressExpiry a s) := by simp [execUnreachableAddressExpiry]

@[simp ↓] theorem State.putBlock_clockQueue (a : Nat) (r : BlockRec) (notag : Bool) :
    (s.putBlock a r notag).2.clockQueue = s.clockQueue := by
  grind [State.putBlock, State.count_clockQueue, State.store_clockQueue, State.clockQueue_mk]

@[simp ↓] theorem State.putBlocks_clockQueue (at' : Nat → Nat) (notag : Bool) (x0 : List BlockRec) (x1 : Nat) :
    (s.putBlocks at' notag x0 x1).2.clockQueue = s.clockQueue := by
  induction x0 generalizing s x1 with
  | nil => simp [State.putBlocks]
  | cons x l ih => simp [State.putBlocks, ih]

@[simp ↓] theorem State.completeSeg_clockQueue (g : Seg) (status : Nat) :
    (s.completeSeg g status).clockQueue = s.clockQueue := by simp [State.completeSeg]
@[simp ↓] theorem State.refuseSeg_clockQueue (p : Nat) (g : Seg) (c kind : Nat) :
    (s.refuseSeg p g c kind).clockQueue = s.clockQueue := by simp [State.refuseSeg]

@[simp ↓] theorem State.inboundWrite_clockQueue (p : Nat) (g : Seg) : (s.inboundWrite p g).clockQueue = s.clockQueue := by
  unfold State.inboundWrite
  split
  · simp
  · split
    · simp
    · split <;> simp

@[simp ↓] theorem State.arrivalWrite_clockQueue (p : Nat) (g : Seg) (x : RxArrival) :
    (s.arrivalWrite p g x).clockQueue = s.clockQueue := by simp [State.arrivalWrite]

@[simp ↓] theorem State.inboundArrival_clockQueue (p : Nat) (g : Seg) : (s.inboundArrival p g).clockQueue = s.clockQueue := by
  grind [State.inboundArrival, State.count_clockQueue, State.startArrival_clockQueue, State.takeSeg_clockQueue, State.setChn_clockQueue,
    State.completeSeg_clockQueue, State.refuseSeg_clockQueue, State.arrivalWrite_clockQueue]

@[simp ↓] theorem State.imageMessage_clockQueue (g : Seg) (flashOk : Bool) : (s.imageMessage g flashOk).clockQueue = s.clockQueue := by
  unfold State.imageMessage
  split <;> simp

@[simp ↓] theorem State.inboundMessage_clockQueue (p : Nat) (g : Seg) (flashOk : Bool) :
    (s.inboundMessage p g flashOk).clockQueue = s.clockQueue := by
  grind [State.inboundMessage, State.tryCommit_clockQueue, State.takeSeg_clockQueue, State.completeSeg_clockQueue,
    State.imageMessage_clockQueue]

@[simp ↓] theorem State.inboundClaim_clockQueue (p : Nat) (g : Seg) :
    (s.inboundClaim p g).clockQueue = s.clockQueue := by simp [State.inboundClaim]

@[simp ↓] theorem execSegmentReceive_keepsClockQueue (p : Fin 3) (vc : Fin 4) (flashOk : Bool) :
    KeepsClockQueue s (execSegmentReceive p vc flashOk s) := by
  unfold execSegmentReceive
  split
  · simp
  · split
    · simp
    · split <;> simp

@[simp ↓] theorem State.failCopy_clockQueue (n cls : Nat) : (s.failCopy n cls).clockQueue = s.clockQueue := by
  unfold State.failCopy
  split
  · simp
  · split <;> simp

@[simp ↓] theorem State.flightFails_clockQueue (f : Flight) (status result : Nat) :
    (s.flightFails f status result).clockQueue = s.clockQueue := by simp [State.flightFails]

@[simp ↓] theorem execSegmentCompletion_keepsClockQueue (p : Fin 3) : KeepsClockQueue s (execSegmentCompletion p s) := by
  grind [execSegmentCompletion, State.fset_clockQueue, State.setFlag_clockQueue, State.takeSeg_clockQueue, State.setChn_clockQueue,
    State.flightFails_clockQueue, keepsClockQueue_next]

@[simp ↓] theorem execE2eTimeout_keepsClockQueue (xfer ofs : Word) : KeepsClockQueue s (execE2eTimeout xfer ofs s) := by
  unfold execE2eTimeout
  split <;> simp

@[simp ↓] theorem State.writeMsgLen_clockQueue (v : Word) : (s.writeMsgLen v).clockQueue = s.clockQueue := by
  grind [State.writeMsgLen, State.fset_clockQueue, State.setFlag_clockQueue, State.sendSeg_clockQueue, State.setChn_clockQueue]
@[simp ↓] theorem execChnMessageSend_keepsClockQueue (r : Req) (v : Word) :
    KeepsClockQueue s (execChnMessageSend r v s) := by simp [execChnMessageSend]
@[simp ↓] theorem execImageRequestBroadcast_keepsClockQueue :
    KeepsClockQueue s (execImageRequestBroadcast s) := by simp [execImageRequestBroadcast]

@[simp ↓] theorem execForwardRecordReceive_keepsClockQueue (p : Fin 3) : KeepsClockQueue s (execForwardRecordReceive p s) := by
  grind [execForwardRecordReceive, State.count_clockQueue, State.tryCommit_clockQueue, State.takeSeg_clockQueue,
    State.completeSeg_clockQueue, keepsClockQueue_next]

@[simp ↓] theorem execForwardDropTimeout_keepsClockQueue : KeepsClockQueue s (execForwardDropTimeout s) := by simp [execForwardDropTimeout]
@[simp ↓] theorem execChainTimeBroadcast_keepsClockQueue (lower any : Bool) :
    KeepsClockQueue s (execChainTimeBroadcast lower any s) := by simp [execChainTimeBroadcast]

@[simp ↓] theorem execChainTimeReceive_keepsClockQueue (p : Fin 3) (resid : Half) : KeepsClockQueue s (execChainTimeReceive p resid s) := by
  unfold execChainTimeReceive
  split <;> simp

@[simp ↓] theorem execLinkDelayMeasure_keepsClockQueue (p : Fin 3) (ns : Half) :
    KeepsClockQueue s (execLinkDelayMeasure p ns s) := by simp [execLinkDelayMeasure]

/-! ### Resume records (spec/04) -/

@[simp ↓] theorem State.resume_clockQueue (x : Susp) : (s.resume x).clockQueue = s.clockQueue := by
  grind [State.resume, State.setStream_clockQueue, State.freeSusp_clockQueue, State.setCmds_clockQueue, State.setSto_clockQueue,
    State.stoKick_clockQueue, State.setHostX_clockQueue, State.snapshotHost_clockQueue]

@[simp ↓] theorem State.abort_clockQueue (x : Susp) : (s.abort x).clockQueue = s.clockQueue := by
  grind [State.abort, State.setStream_clockQueue, State.freeSusp_clockQueue, State.endBroadcast_clockQueue, State.haltProg_clockQueue,
    State.setBusy_clockQueue, State.stoFinish_clockQueue, State.stoKick_clockQueue, State.cimpFinish_clockQueue, State.onDeck_clockQueue,
    State.setHostX_clockQueue, State.reply_clockQueue]

@[simp ↓] theorem State.writeResume_clockQueue (r : Req) (v : Word) : (s.writeResume r v).clockQueue = s.clockQueue := by
  unfold State.writeResume
  split <;> simp

@[simp ↓] theorem execFaultResume_keepsClockQueue (r : Req) (v : Word) :
    KeepsClockQueue s (execFaultResume r v s) := by simp [execFaultResume]
@[simp ↓] theorem execFaultAbort_keepsClockQueue (r : Req) (v : Word) : KeepsClockQueue s (execFaultAbort r v s) := by simp [execFaultAbort]

@[simp ↓] theorem execFaultTimeout_keepsClockQueue (c : Fin 8) (index : Fin 128) : KeepsClockQueue s (execFaultTimeout c index s) := by
  unfold execFaultTimeout
  split <;> simp

@[simp ↓] theorem State.disableContext_clockQueue (c : Nat) :
    (s.disableContext c).clockQueue = s.clockQueue := by simp [State.disableContext]
@[simp ↓] theorem State.writeCtxCfg_clockQueue (r : Req) (n : Nat) (v : Word) :
    (s.writeCtxCfg r n v).clockQueue = s.clockQueue := by simp [State.writeCtxCfg]
@[simp ↓] theorem execContextDisable_keepsClockQueue (r : Req) (n : Fin 8) (v : Word) :
    KeepsClockQueue s (execContextDisable r n v s) := by simp [execContextDisable]

/-! ### The signal engine (spec/11) -/

@[simp ↓] theorem State.releaseBank_clockQueue (n : Nat) : (s.releaseBank n).clockQueue = s.clockQueue := by simp [State.releaseBank]
@[simp ↓] theorem State.takeBank_clockQueue (n : Nat) : (s.takeBank n).2.clockQueue = s.clockQueue := by simp [State.takeBank]

@[simp ↓] theorem State.sigViews_clockQueue (n : Nat) (p : Prog) (o : OpRun) (l : List Nat) (vs : List (Nat × View)) :
    (s.sigViews n p o l vs).2.clockQueue = s.clockQueue := by
  induction l generalizing s vs with
  | nil => simp [State.sigViews]
  | cons x l ih => grind [State.sigViews, State.touch_clockQueue, State.suspendOp_clockQueue, State.violatePages_clockQueue,
    State.readCheck_clockQueue]

@[simp ↓] theorem State.sigWrite_clockQueue (n : Nat) (p : Prog) (o : OpRun) (res : List (Nat × List (Nat × Nat))) :
    (s.sigWrite n p o res).2.clockQueue = s.clockQueue := by
  unfold State.sigWrite
  dsimp only
  split <;> next h => simp [clockQueue_of_snd h]

@[simp ↓] theorem State.sigCompute_clockQueue (n : Nat) (p : Prog) (b : Bundle) (o : OpRun) :
    (s.sigCompute n p b o).2.clockQueue = s.clockQueue := by
  grind [State.sigCompute, State.halt_clockQueue, State.readCheck_clockQueue, State.sigViews_clockQueue, State.clockQueue_mk]

@[simp ↓] theorem State.sigBegin_clockQueue (n opc : Nat) : (s.sigBegin n opc).clockQueue = s.clockQueue := by
  refine State.beginOp_clockQueue _ _ _ _ (fun p o => ?_)
  dsimp only
  split
  · rfl
  split
  · simp
  split <;> next h => simp [clockQueue_of_snd h]

@[simp ↓] theorem execSigPass_keepsClockQueue (n : Fin 22) (parity : Bool) : KeepsClockQueue s (execSigPass n parity s) := by
  rw [execSigPass, keepsClockQueue_next]
  refine State.withOp_clockQueue _ _ _ _ (fun p o => ?_)
  dsimp only
  split
  · simp
  split
  · split
    · simp
    · split <;> next h => simp [clockQueue_of_snd h]
  split
  · rfl
  split
  · next h1 => simp [clockQueue_of_snd h1]
  · next h1 => split <;> next h2 => simp [clockQueue_of_snd h2, clockQueue_of_snd h1]

@[simp ↓] theorem execFft_keepsClockQueue (n : Fin 22) : KeepsClockQueue s (execFft n s) := by simp [execFft]
@[simp ↓] theorem execWindow_keepsClockQueue (n : Fin 22) : KeepsClockQueue s (execWindow n s) := by simp [execWindow]
@[simp ↓] theorem execResamp_keepsClockQueue (n : Fin 22) : KeepsClockQueue s (execResamp n s) := by simp [execResamp]
@[simp ↓] theorem execEnv_keepsClockQueue (n : Fin 22) : KeepsClockQueue s (execEnv n s) := by simp [execEnv]
@[simp ↓] theorem execCeps_keepsClockQueue (n : Fin 22) : KeepsClockQueue s (execCeps n s) := by simp [execCeps]
@[simp ↓] theorem execSkurt_keepsClockQueue (n : Fin 22) : KeepsClockQueue s (execSkurt n s) := by simp [execSkurt]
@[simp ↓] theorem execBand_keepsClockQueue (n : Fin 22) : KeepsClockQueue s (execBand n s) := by simp [execBand]
@[simp ↓] theorem execMarker_keepsClockQueue (n : Fin 22) : KeepsClockQueue s (execMarker n s) := by simp [execMarker]
@[simp ↓] theorem execLayer_keepsClockQueue (n : Fin 22) : KeepsClockQueue s (execLayer n s) := by simp [execLayer]
@[simp ↓] theorem execSigArgmax_keepsClockQueue (n : Fin 22) : KeepsClockQueue s (execSigArgmax n s) := by simp [execSigArgmax]
@[simp ↓] theorem execSheet_keepsClockQueue (n : Fin 22) : KeepsClockQueue s (execSheet n s) := by simp [execSheet]
@[simp ↓] theorem execStats_keepsClockQueue (n : Fin 22) : KeepsClockQueue s (execStats n s) := by simp [execStats]

@[simp ↓] theorem State.loadGeometry_clockQueue (b : List Byte) : (s.loadGeometry b).clockQueue = s.clockQueue := by
  refine clockQueue_foldl _ (fun t k => ?_) _ _
  dsimp only
  split
  · simp
  · split <;> simp

/-! ### Register accesses -/

@[simp ↓] theorem State.plainWrite_clockQueue (r : Req) (d : RegDesc) (a : Nat) (v : Word) :
    (s.plainWrite r d a v).clockQueue = s.clockQueue := by simp [State.plainWrite]
@[simp ↓] theorem State.writeUnless_clockQueue (c : Bool) (r : Req) (d : RegDesc) (a : Nat) (v : Word) :
    (s.writeUnless c r d a v).clockQueue = s.clockQueue := by simp [State.writeUnless]
@[simp ↓] theorem State.putSys_clockQueue (setup : Bool) (a : Nat) (v : Word) :
    (s.putSys setup a v).clockQueue = s.clockQueue := by simp [State.putSys]
@[simp ↓] theorem State.putPwr_clockQueue (r : Req) (setup : Bool) (d : RegDesc) (a : Nat) (v : Word) :
    (s.putPwr r setup d a v).clockQueue = s.clockQueue := by simp [State.putPwr]
@[simp ↓] theorem State.putBoot_clockQueue (r : Req) (d : RegDesc) (a : Nat) (v : Word) :
    (s.putBoot r d a v).clockQueue = s.clockQueue := by simp [State.putBoot]
@[simp ↓] theorem State.putMemReg_clockQueue (r : Req) (setup : Bool) (d : RegDesc) (i a : Nat) (v : Word) :
    (s.putMemReg r setup d i a v).clockQueue = s.clockQueue := by simp [State.putMemReg]
@[simp ↓] theorem State.putMmu_clockQueue (r : Req) (d : RegDesc) (i a : Nat) (v : Word) :
    (s.putMmu r d i a v).clockQueue = s.clockQueue := by simp [State.putMmu]
@[simp ↓] theorem State.putEng_clockQueue (r : Req) (d : RegDesc) (i a : Nat) (v : Word) :
    (s.putEng r d i a v).clockQueue = s.clockQueue := by simp [State.putEng]
@[simp ↓] theorem State.putCimp_clockQueue (r : Req) (d : RegDesc) (i a : Nat) (v : Word) :
    (s.putCimp r d i a v).clockQueue = s.clockQueue := by simp [State.putCimp]
@[simp ↓] theorem State.putSto_clockQueue (r : Req) (d : RegDesc) (a : Nat) (v : Word) :
    (s.putSto r d a v).clockQueue = s.clockQueue := by simp [State.putSto]
@[simp ↓] theorem State.putLdg_clockQueue (r : Req) (d : RegDesc) (i a : Nat) (v : Word) :
    (s.putLdg r d i a v).clockQueue = s.clockQueue := by simp [State.putLdg]
@[simp ↓] theorem State.putOut_clockQueue (r : Req) (d : RegDesc) (i a : Nat) (v : Word) :
    (s.putOut r d i a v).clockQueue = s.clockQueue := by simp [State.putOut]
@[simp ↓] theorem State.putHost_clockQueue (r : Req) (d : RegDesc) (i a : Nat) (v : Word) :
    (s.putHost r d i a v).clockQueue = s.clockQueue := by simp [State.putHost]
@[simp ↓] theorem State.putChn_clockQueue (r : Req) (d : RegDesc) (a : Nat) (v : Word) :
    (s.putChn r d a v).clockQueue = s.clockQueue := by simp [State.putChn]

@[simp ↓] theorem State.putReg_clockQueue (r : Req) (setup : Bool) (d : RegDesc) (i a : Nat) (v : Word) :
    (s.putReg r setup d i a v).clockQueue = s.clockQueue := by
  unfold State.putReg
  split
  · simp
  · simp
  · split <;> simp

@[simp] theorem outState_clockQueue (o : Out State) (h : KeepsClockQueue s o) : (outState o s).clockQueue = s.clockQueue := by
  obtain ⟨t, rfl, ht⟩ := h
  exact ht

theorem State.agentWrite_clockQueue (t : State) (r : Req) (d : RegDesc) (i : Nat) (v : Word) (h : s.agentWrite r d i v = some t) :
    t.clockQueue = s.clockQueue := by
  unfold State.agentWrite at h
  split at h
  · cases h
    simp
  split at h
  · cases h
    simp
  split at h
  · cases h
    simp
  split at h
  · cases h
    simp
  split at h
  · cases h
    simp
  · cases h

@[simp ↓] theorem State.regWrite_clockQueue (r : Req) (a : Nat) (v : Word) : (s.regWrite r a v).clockQueue = s.clockQueue := by
  unfold State.regWrite
  dsimp only
  split
  · rfl
  split
  · simp
  split
  · simp
  split
  · simp
  split
  · next h => exact State.agentWrite_clockQueue _ _ _ _ _ _ h
  · split <;> simp

@[simp ↓] theorem execRegisterWrite_keepsClockQueue (r : Req) (a : Addr) (v : Word) :
    KeepsClockQueue s (execRegisterWrite r a v s) := by simp [execRegisterWrite]

@[simp ↓] theorem State.readWord_clockQueue (r : Req) (a : Nat) : (s.readWord r a).2.clockQueue = s.clockQueue := by
  unfold State.readWord
  split
  · simp
  · split <;> simp

@[simp ↓] theorem State.regRead_clockQueue (r : Req) (a : Nat) : (s.regRead r a).2.clockQueue = s.clockQueue := by
  unfold State.regRead
  split <;> simp

@[simp ↓] theorem State.regRead8_clockQueue (r : Req) (a : Nat) : (s.regRead8 r a).2.clockQueue = s.clockQueue := by
  grind [State.regRead8, State.violateBy_clockQueue]
@[simp ↓] theorem execLatchingLoRead_keepsClockQueue (r : Req) (a : Addr) :
    KeepsClockQueue s (execLatchingLoRead r a s) := by simp [execLatchingLoRead]

/-! ### Single accesses by physical address (spec/03) -/

@[simp ↓] theorem State.refuse_clockQueue (r : Req) (write : Bool) (kind a n : Nat) :
    (s.refuse r write kind a n).clockQueue = s.clockQueue := by simp [State.refuse]
@[simp ↓] theorem State.narrowMem_clockQueue (write : Bool) (a n : Nat) (v : DWord) (ecc : Ecc) :
    (s.narrowMem write a n v ecc).clockQueue = s.clockQueue := by simp [State.narrowMem]
@[simp ↓] theorem State.narrowReg_clockQueue (r : Req) (write : Bool) (a n : Nat) (v : DWord) :
    (s.narrowReg r write a n v).clockQueue = s.clockQueue := by simp [State.narrowReg]

@[simp ↓] theorem State.narrowCim_clockQueue (r : Req) (write : Bool) (a n : Nat) :
    (s.narrowCim r write a n).clockQueue = s.clockQueue := by
  unfold State.narrowCim
  dsimp only
  split
  · simp
  split
  · simp
  · split <;> simp

@[simp ↓] theorem State.cutAnswer_clockQueue (k n : Nat) : (s.cutAnswer k n).clockQueue = s.clockQueue := by simp [State.cutAnswer]

@[simp ↓] theorem execNarrowAccess_keepsClockQueue (r : Req) (write : Bool) (a : Addr) (sz : NSize) (v : DWord) (ecc : Ecc)
    (rivals : List (Fin 8 × Fin 6)) : KeepsClockQueue s (execNarrowAccess r write a sz v ecc rivals s) := by
  obtain ⟨t, hread, ht⟩ := execStorageWindowRead_keepsClockQueue s r a false (eccWorst ecc)
  rw [execNarrowAccess, keepsClockQueue_next]
  dsimp only
  split
  · rfl
  split
  · simp
  split
  · simp
  · simp
  · simp [hread, ht]
  · simp

@[simp ↓] theorem State.consumerFail_clockQueue (r : Req) (a : Nat) : (s.consumerFail r a).clockQueue = s.clockQueue := by
  unfold State.consumerFail
  split <;> simp

@[simp ↓] theorem State.wideRead_clockQueue (r : Req) (a : Nat) (check : Bool) (ecc : Ecc) :
    (s.wideRead r a check ecc).clockQueue = s.clockQueue := by simp [State.wideRead]
@[simp ↓] theorem State.wideWrite_clockQueue (a : Nat) (data : List Byte) (tag : Word) :
    (s.wideWrite a data tag).clockQueue = s.clockQueue := by simp [State.wideWrite]
@[simp ↓] theorem State.tagAnswer_clockQueue : s.tagAnswer.clockQueue = s.clockQueue := by simp [State.tagAnswer]

@[simp ↓] theorem execWideAccess_keepsClockQueue (r : Req) (write : Bool) (a : Addr) (data : List Byte) (tag : Word) (check : Bool)
    (ecc : Ecc) (rivals : List (Fin 8 × Fin 6)) : KeepsClockQueue s (execWideAccess r write a data tag check ecc rivals s) := by
  obtain ⟨t, hread, ht⟩ := execStorageWindowRead_keepsClockQueue s r a true (eccWorst ecc)
  rw [execWideAccess, keepsClockQueue_next]
  dsimp only
  split
  · rfl
  split
  · simp
  split
  · simp [hread, ht]
  · simp

/-! ### Set-up from an image (spec/02) -/

@[simp ↓] theorem State.setUp_clockQueue (f : Fld) (v i : Nat) : (s.setUp f v i).clockQueue = s.clockQueue := by simp [State.setUp]
@[simp ↓] theorem State.profileField_clockQueue (p : List Byte) (o n : Nat) (f : State → Nat → State)
    (h : ∀ v, (f s v).clockQueue = s.clockQueue) : (s.profileField p o n f).clockQueue = s.clockQueue := by simp [State.profileField, h]
@[simp ↓] theorem State.applyStreamDef_clockQueue (p : List Byte) (n : Nat) :
    (s.applyStreamDef p n).clockQueue = s.clockQueue := by simp [State.applyStreamDef]
@[simp ↓] theorem State.applyAcq_clockQueue (p : List Byte) : (s.applyAcq p).clockQueue = s.clockQueue := by simp [State.applyAcq]
@[simp ↓] theorem State.applyOut_clockQueue (p : List Byte) : (s.applyOut p).clockQueue = s.clockQueue := by simp [State.applyOut]
@[simp ↓] theorem State.applyRingPair_clockQueue (p : List Byte) (q : Nat) :
    (s.applyRingPair p q).clockQueue = s.clockQueue := by simp [State.applyRingPair]
@[simp ↓] theorem State.bindHost_clockQueue (h : Nat) : (s.bindHost h).clockQueue = s.clockQueue := by simp [State.bindHost]
@[simp ↓] theorem State.applyHosts_clockQueue (p : List Byte) : (s.applyHosts p).clockQueue = s.clockQueue := by simp [State.applyHosts]
@[simp ↓] theorem State.applyLedger_clockQueue (p : List Byte) : (s.applyLedger p).clockQueue = s.clockQueue := by simp [State.applyLedger]
@[simp ↓] theorem State.applyInbound_clockQueue (p : List Byte) (w : Nat) :
    (s.applyInbound p w).clockQueue = s.clockQueue := by simp [State.applyInbound]
@[simp ↓] theorem State.applyChain_clockQueue (p : List Byte) : (s.applyChain p).clockQueue = s.clockQueue := by simp [State.applyChain]
@[simp ↓] theorem State.applyTdt_clockQueue (n : Nat) (p : List Byte) :
    (s.applyTdt n p).clockQueue = s.clockQueue := by simp [State.applyTdt]
@[simp ↓] theorem State.applyPlacement_clockQueue (x : Placement) :
    (s.applyPlacement x).clockQueue = s.clockQueue := by simp [State.applyPlacement]

@[simp ↓] theorem State.selectNamed_clockQueue (x : State × List Nat) (a : Assign) :
    (State.selectNamed x a).1.clockQueue = x.1.clockQueue := by
  unfold State.selectNamed
  dsimp only
  split <;> simp

@[simp ↓] theorem State.applyModel_clockQueue (x : State × List Nat) (m : Section) :
    (State.applyModel x m).1.clockQueue = x.1.clockQueue := by
  unfold State.applyModel
  split
  · rfl
  · rw [clockQueue_foldl_fst _ State.selectNamed_clockQueue, State.applyPlacement_clockQueue]

@[simp ↓] theorem State.applyExpert_clockQueue (e : Nat × Word) : (s.applyExpert e).clockQueue = s.clockQueue := by
  unfold State.applyExpert
  split <;> simp

@[simp ↓] theorem State.applySection_clockQueue (x : Section) : (s.applySection x).clockQueue = s.clockQueue := by
  unfold State.applySection
  split <;> simp

@[simp ↓] theorem State.applyAll_clockQueue (l : List Section) (t : Nat) :
    (s.applyAll l t).clockQueue = s.clockQueue := by simp [State.applyAll]

@[simp ↓] theorem State.applyModels_clockQueue (l : List Section) : (s.applyModels l).clockQueue = s.clockQueue := by
  unfold State.applyModels
  rw [clockQueue_foldl_fst]
  intro x m
  simp

@[simp ↓] theorem State.applySafety_clockQueue (l : List Section) : (s.applySafety l).clockQueue = s.clockQueue := by
  unfold State.applySafety
  split <;> simp

@[simp ↓] theorem State.bellCheck_clockQueue : s.bellCheck.clockQueue = s.clockQueue := by simp [State.bellCheck]
@[simp ↓] theorem State.commitWall_clockQueue : s.commitWall.clockQueue = s.clockQueue := by simp [State.commitWall]
@[simp ↓] theorem State.applySetups_clockQueue (l : List Section) :
    (s.applySetups l).clockQueue = s.clockQueue := by simp [State.applySetups]
@[simp ↓] theorem State.trainPorts_clockQueue : s.trainPorts.clockQueue = s.clockQueue := by simp [State.trainPorts]

/-! ### Start-up (spec/02) -/

@[simp ↓] theorem State.setStep_clockQueue (k : Nat) : (s.setStep k).clockQueue = s.clockQueue := by simp [State.setStep]
@[simp ↓] theorem State.releaseReset_clockQueue : s.releaseReset.clockQueue = s.clockQueue := by simp [State.releaseReset]
@[simp ↓] theorem State.recoverSto_clockQueue : s.recoverSto.clockQueue = s.clockQueue := by simp [State.recoverSto]
@[simp ↓] theorem State.powerUp_clockQueue : s.powerUp.clockQueue = s.clockQueue := by simp [State.powerUp]
@[simp ↓] theorem State.setSlotRes_clockQueue (k c : Nat) : (s.setSlotRes k c).clockQueue = s.clockQueue := by simp [State.setSlotRes]
@[simp ↓] theorem State.installUpdate_clockQueue (installOk : Bool) : (s.installUpdate installOk).2.clockQueue = s.clockQueue := by
  grind [State.installUpdate, State.fset_clockQueue, State.setBoot_clockQueue]

@[simp ↓] theorem State.loadSlot_clockQueue (src : Nat → ImgSrc) (l : List Nat) : (s.loadSlot src l).2.clockQueue = s.clockQueue := by
  induction l generalizing s with
  | nil => simp [State.loadSlot]
  | cons x l ih => grind [State.loadSlot, State.setSlotRes_clockQueue]

@[simp ↓] theorem State.enterEnrolment_clockQueue : s.enterEnrolment.clockQueue = s.clockQueue := by simp [State.enterEnrolment]
@[simp ↓] theorem State.takeHeader_clockQueue (x : ImgSrc) (l : List Section) :
    (s.takeHeader x l).clockQueue = s.clockQueue := by simp [State.takeHeader]
@[simp ↓] theorem State.placeSections_clockQueue (l : List Section) :
    (s.placeSections l).clockQueue = s.clockQueue := by simp [State.placeSections]
@[simp ↓] theorem State.healthExpose_clockQueue (d t : Nat) (rows : List Nat) (devs : List (Fin 544 × Int)) :
    (s.healthExpose d t rows devs).2.clockQueue = s.clockQueue := by simp [State.healthExpose]
@[simp ↓] theorem State.healthCard_clockQueue (d t seg : Nat) (diff : Int) (verdict : Nat) :
    (s.healthCard d t seg diff verdict).clockQueue = s.clockQueue := by simp [State.healthCard]

@[simp ↓] theorem State.healthSegment_clockQueue (d t seg : Nat) (rows : List Nat) (first : Option Int) (fuel : Nat)
    (devs : List (List (Fin 544 × Int))) : (s.healthSegment d t seg rows first fuel devs).2.clockQueue = s.clockQueue := by
  induction fuel generalizing s first devs with
  | zero => simp [State.healthSegment]
  | succ fuel ih =>
    unfold State.healthSegment
    dsimp only
    split
    · simp [ih]
    · split <;> simp

@[simp ↓] theorem State.healthTile_clockQueue (h : Health) (d t : Nat) : (s.healthTile h d t).clockQueue = s.clockQueue := by
  unfold State.healthTile
  dsimp only
  split
  · rfl
  · rw [clockQueue_foldl_snd]
    simp

@[simp ↓] theorem State.healthCheck_clockQueue (h : Health) : (s.healthCheck h).clockQueue = s.clockQueue := by simp [State.healthCheck]
@[simp ↓] theorem State.ledgerBegin_clockQueue : s.ledgerBegin.clockQueue = s.clockQueue := by simp [State.ledgerBegin]
@[simp ↓] theorem State.fieldSteps_clockQueue (h : Health) : (s.fieldSteps h).clockQueue = s.clockQueue := by simp [State.fieldSteps]
@[simp ↓] theorem State.runImage_clockQueue (l : List Section) : (s.runImage l).clockQueue = s.clockQueue := by simp [State.runImage]

@[simp ↓] theorem State.startFromFlash_clockQueue (slotErr secErr : Fin 4) (installOk : Bool) (us : Word) (h : Health) :
    (s.startFromFlash slotErr secErr installOk us h).clockQueue = s.clockQueue := by
  grind [State.startFromFlash, State.rset_clockQueue, State.fset_clockQueue, State.setSlotRes_clockQueue, State.installUpdate_clockQueue,
    State.loadSlot_clockQueue, State.enterEnrolment_clockQueue, State.takeHeader_clockQueue, State.placeSections_clockQueue,
    State.fieldSteps_clockQueue, State.runImage_clockQueue]

@[simp ↓] theorem State.startUp_clockQueue (slotErr secErr : Fin 4) (installOk : Bool) (us : Word) (h : Health) :
    (s.startUp slotErr secErr installOk us h).clockQueue = s.clockQueue := by simp [State.startUp]

@[simp ↓] theorem execFieldSupplyReady_keepsClockQueue (h : Health) : KeepsClockQueue s (execFieldSupplyReady h s) := by
  unfold execFieldSupplyReady
  simp

/-! ### Die-to-die links (spec/01) -/

@[simp ↓] theorem State.linkLost_clockQueue (l : Nat) : (s.linkLost l).clockQueue = s.clockQueue := by simp [State.linkLost]
@[simp ↓] theorem execD2dTransferUnit_keepsClockQueue (link : Fin 6) (crcOk : Bool) :
    KeepsClockQueue s (execD2dTransferUnit link crcOk s) := by simp [execD2dTransferUnit]

/-! ### Issue of bundles (spec/05) -/

@[simp ↓] theorem State.touchOps_clockQueue (n : Nat) (p : Prog) (b : Bundle) (l : List (OpRun × Nat × Desc × Nat × Bool)) :
    (s.touchOps n p b l).2.clockQueue = s.clockQueue := by
  induction l generalizing s with
  | nil => simp [State.touchOps]
  | cons x l ih => grind [State.touchOps, State.touch_clockQueue, State.suspendOp_clockQueue]

@[simp ↓] theorem State.issueChecks_clockQueue (n : Nat) (p : Prog) (b : Bundle) : (s.issueChecks n p b).2.clockQueue = s.clockQueue := by
  grind [State.issueChecks, State.touchOps_clockQueue]
@[simp ↓] theorem State.failIssue_clockQueue (n : Nat) (p : Prog) (f : Fail) :
    (s.failIssue n p f).clockQueue = s.clockQueue := by simp [State.failIssue]

@[simp ↓] theorem State.issueNow_clockQueue (n : Nat) (p : Prog) (b : Bundle) : (s.issueNow n p b).clockQueue = s.clockQueue := by
  unfold State.issueNow
  split <;> next h => simp [clockQueue_of_snd h]

@[simp ↓] theorem execBundleIssue_keepsClockQueue (n : Fin 22) : KeepsClockQueue s (execBundleIssue n s) := by
  grind [execBundleIssue, State.issueChecks_clockQueue, State.failIssue_clockQueue, State.issueNow_clockQueue, keepsClockQueue_next]
@[simp ↓] theorem State.breakTimed_clockQueue (n : Nat) : (s.breakTimed n).clockQueue = s.clockQueue := by simp [State.breakTimed]

@[simp ↓] theorem execTimedBundleDue_keepsClockQueue (n : Fin 22) : KeepsClockQueue s (execTimedBundleDue n s) := by
  grind [execTimedBundleDue, State.setRun_clockQueue, State.issueChecks_clockQueue, State.failIssue_clockQueue, State.issueNow_clockQueue,
    State.breakTimed_clockQueue, keepsClockQueue_next]

@[simp ↓] theorem execRpt_keepsClockQueue (n : Fin 22) : KeepsClockQueue s (execRpt n s) := by
  rw [execRpt, keepsClockQueue_next]
  split
  · simp
  · split <;> simp

@[simp ↓] theorem State.redSlot_clockQueue (n opc : Nat) (f : Prog → Nat → Nat → Desc → PageMap → State → State) (acc : Acc3)
    (h : ∀ p y k d m u, (f p y k d m u).clockQueue = u.clockQueue) : (s.redSlot n opc f acc).clockQueue = s.clockQueue := by
  grind [State.redSlot, State.touch_clockQueue, State.suspendOp_clockQueue, State.violatePages_clockQueue]

@[simp ↓] theorem State.redRead_clockQueue (n : Nat) (p : Prog) (h : Nat) (d : Desc) (m : PageMap) (hi : Nat) (k : List Nat → Prog) :
    (s.redRead n p h d m hi k).clockQueue = s.clockQueue := by
  grind [State.redRead, State.setRun_clockQueue, State.readCheck_clockQueue]

@[simp ↓] theorem execRed_keepsClockQueue (n : Fin 22) : KeepsClockQueue s (execRed n s) := by simp [execRed]
@[simp ↓] theorem execMload_keepsClockQueue (n : Fin 22) : KeepsClockQueue s (execMload n s) := by simp [execMload]
@[simp ↓] theorem execMstore_keepsClockQueue (n : Fin 22) : KeepsClockQueue s (execMstore n s) := by simp [execMstore]

@[simp ↓] theorem State.ctrlSlot_clockQueue (n opc : Nat) (f : Prog → Nat → State) (h : ∀ p y, (f p y).clockQueue = s.clockQueue) :
    (s.ctrlSlot n opc f).clockQueue = s.clockQueue := by
  grind [State.ctrlSlot]

@[simp ↓] theorem execCtrlEnd_keepsClockQueue (n : Fin 22) : KeepsClockQueue s (execCtrlEnd n s) := by simp [execCtrlEnd]
@[simp ↓] theorem execCtrlBr_keepsClockQueue (n : Fin 22) : KeepsClockQueue s (execCtrlBr n s) := by simp [execCtrlBr]
@[simp ↓] theorem execCtrlExpset_keepsClockQueue (n : Fin 22) : KeepsClockQueue s (execCtrlExpset n s) := by simp [execCtrlExpset]
@[simp ↓] theorem execCtrlMarkset_keepsClockQueue (n : Fin 22) : KeepsClockQueue s (execCtrlMarkset n s) := by simp [execCtrlMarkset]
@[simp ↓] theorem execCtrlRelease_keepsClockQueue (n : Fin 22) : KeepsClockQueue s (execCtrlRelease n s) := by simp [execCtrlRelease]
@[simp ↓] theorem execCtrlL1_keepsClockQueue (n : Fin 22) : KeepsClockQueue s (execCtrlL1 n s) := by simp [execCtrlL1]
@[simp ↓] theorem execCtrlDelay_keepsClockQueue (n : Fin 22) : KeepsClockQueue s (execCtrlDelay n s) := by simp [execCtrlDelay]
@[simp ↓] theorem State.sheetLeaves_clockQueue (b : List Byte) : (s.sheetLeaves b).clockQueue = s.clockQueue := by simp [State.sheetLeaves]

@[simp ↓] theorem execCtrlPost_keepsClockQueue (n : Fin 22) : KeepsClockQueue s (execCtrlPost n s) := by
  rw [execCtrlPost, keepsClockQueue_next]
  refine State.ctrlSlot_clockQueue _ _ _ _ (fun p y => ?_)
  dsimp only
  split
  · next h1 => simp [clockQueue_of_snd h1]
  next h1 =>
  split
  · next h2 => simp [clockQueue_of_snd h2, clockQueue_of_snd h1]
  next h2 =>
  split
  · simp [clockQueue_of_snd h2, clockQueue_of_snd h1]
  split
  · simp [clockQueue_of_snd h2, clockQueue_of_snd h1]
  split
  · simp [clockQueue_of_snd h2, clockQueue_of_snd h1]
  split <;> next h3 => simp [clockQueue_of_snd h3, clockQueue_of_snd h2, clockQueue_of_snd h1]

@[simp ↓] theorem State.endProgram_clockQueue (n : Nat) (p : Prog) :
    (s.endProgram n p).clockQueue = s.clockQueue := by simp [State.endProgram]

@[simp ↓] theorem execBundleCommit_keepsClockQueue (n : Fin 22) : KeepsClockQueue s (execBundleCommit n s) := by
  grind [execBundleCommit, State.ring_clockQueue, State.setRun_clockQueue, State.halt_clockQueue, State.endProgram_clockQueue,
    keepsClockQueue_next]

/-! ### The TAP (spec/21) -/

@[simp ↓] theorem State.setTap_clockQueue (x : Tap) : (s.setTap x).clockQueue = s.clockQueue := by simp [State.setTap]
@[simp ↓] theorem State.scan_clockQueue (ir : Byte) (pins shift : BitVec 21) :
    (s.scan ir pins shift).clockQueue = s.clockQueue := by simp [State.scan]
@[simp ↓] theorem execTapExtest_keepsClockQueue (pins shift : BitVec 21) :
    KeepsClockQueue s (execTapExtest pins shift s) := by simp [execTapExtest]
@[simp ↓] theorem execTapSamplePreload_keepsClockQueue (pins shift : BitVec 21) :
    KeepsClockQueue s (execTapSamplePreload pins shift s) := by simp [execTapSamplePreload]
@[simp ↓] theorem execTapIdcode_keepsClockQueue : KeepsClockQueue s (execTapIdcode s) := by simp [execTapIdcode]
@[simp ↓] theorem State.bypass_clockQueue (code tdi : Byte) : (s.bypass code tdi).clockQueue = s.clockQueue := by simp [State.bypass]
@[simp ↓] theorem execTapBypass_keepsClockQueue (code tdi : Byte) : KeepsClockQueue s (execTapBypass code tdi s) := by simp [execTapBypass]

@[simp ↓] theorem execTapDebugAccess_keepsClockQueue (dmi : Bool) (set : Option (Fin 2 × Word)) :
    KeepsClockQueue s (execTapDebugAccess dmi set s) := by
  unfold execTapDebugAccess
  cases set with
  | none => simp
  | some x => simp

@[simp ↓] theorem execTapReset_keepsClockQueue : KeepsClockQueue s (execTapReset s) := by simp [execTapReset]

/-! ### Every command -/

/-- The commands that may leave TIMEBASE 0: power-on reset, external reset, and a restart, whose cause code stands in the state. -/
def mayZeroTimebase : Instr → Bool
  | .powerOnReset _ _ | .externalReset | .restart _ _ _ _ _ => true
  | _ => false

theorem exec_keepsClockQueue (c : Instr) (h : mayZeroTimebase c = false) : KeepsClockQueue s (exec c s) := by
  cases c
  case powerOnReset | externalReset | restart => cases h
  all_goals simp [exec]

theorem execExternalReset_zeroesTimebase : ∃ t, execExternalReset s = .next t ∧ t.clockQueue = (0, s.pending) :=
  ⟨_, rfl, by simp [State.intoReset_clockQueue]⟩

theorem execPowerOnReset_zeroesTimebase (ref supply : Bool) :
    ∃ t, execPowerOnReset ref supply s = .next t ∧ t.clockQueue = (0, s.pending) :=
  ⟨_, rfl, by simp [State.intoReset_clockQueue]⟩

/-- A restart that is due is a reset with the code that asked for it; one that is not leaves TIMEBASE alone. -/
theorem execRestart_clockQueue (slotErr secErr : Fin 4) (installOk : Bool) (us : Word) (h : Health) :
    ∃ t, execRestart slotErr secErr installOk us h s = .next t ∧ (t.clockQueue = s.clockQueue ∨ t.clockQueue = (0, s.pending)) := by
  refine ⟨_, rfl, ?_⟩
  split
  · exact .inl rfl
  split
  · next code _ =>
    rw [State.startUp_clockQueue, State.intoReset_clockQueue]
    split
    · exact .inr rfl
    · exact .inl rfl
  · left
    split
    · exact State.startUp_clockQueue s slotErr secErr installOk us h
    · rfl

/-- What any command does to TIMEBASE and to the queue: both are kept, or TIMEBASE alone becomes 0. -/
theorem exec_clockQueue (c : Instr) : ∃ t, exec c s = .next t ∧ (t.clockQueue = s.clockQueue ∨ t.clockQueue = (0, s.pending)) := by
  cases hc : mayZeroTimebase c
  case false =>
    obtain ⟨t, ht, hkeep⟩ := exec_keepsClockQueue s c hc
    exact ⟨t, ht, .inl hkeep⟩
  case true =>
    cases c with
    | powerOnReset ref supply =>
      obtain ⟨t, ht, hzero⟩ := execPowerOnReset_zeroesTimebase s ref supply
      exact ⟨t, ht, .inr hzero⟩
    | externalReset =>
      obtain ⟨t, ht, hzero⟩ := execExternalReset_zeroesTimebase s
      exact ⟨t, ht, .inr hzero⟩
    | restart slotErr secErr installOk us h => exact execRestart_clockQueue s slotErr secErr installOk us h
    | _ => cases hc

theorem exec_timebase (c : Instr) {t : State} (h : exec c s = .next t) : t.timebase = s.timebase ∨ t.timebase = 0 := by
  obtain ⟨u, hu, hq⟩ := exec_clockQueue s c
  cases h.symm.trans hu
  exact hq.imp State.timebase_of_clockQueue (congrArg Prod.fst)

end Sys2Proof.Machine
end

section
/-! PROOF. What the operations that other chapters share leave alone of spec/01: the registers of the SYS block and the links' rows of
failed transfer units. -/

namespace Sys2Proof.Machine

/-- The end of the SYS block, whose registers are those of spec/01: the block after it begins here. -/
def sysEnd : Nat := regBase + 0x10000

/-- The registers of the SYS block by address. -/
def State.sysRegs (s : State) (a : Nat) : Word := if a < sysEnd then s.rd a else 0

/-- The SYS registers and the rows of failed transfer units. -/
def State.sysPart (s : State) : (Nat → Word) × List (Nat × Nat) := (s.sysRegs, s.d2dFails)

variable (s : State)

theorem State.rd_of_sysPart {s t : State} (h : t.sysPart = s.sysPart) {a : Nat} (ha : a < sysEnd) : t.rd a = s.rd a := by
  have hregs := congrFun (congrArg Prod.fst h) a
  simpa [State.sysPart, State.sysRegs, ha] using hregs

theorem State.d2dFails_of_sysPart {s t : State} (h : t.sysPart = s.sysPart) : t.d2dFails = s.d2dFails := congrArg Prod.snd h

@[simp ↓] theorem State.sysPart_mk (timebase shadows armed latches lyctx0 lyctx1 locked mem memsys mmu streams sto rings chn cim acq
    aos aoSilent safe ledger hosts pwr boot tap irqCimp events irqFault irqHalt irqSto resp tx free pending) :
    State.sysPart ⟨timebase, s.regs, shadows, armed, latches, lyctx0, lyctx1, locked, s.d2dFails, mem, memsys, mmu, streams, sto, rings,
      chn, cim, acq, aos, aoSilent, safe, ledger, hosts, pwr, boot, tap, irqCimp, events, irqFault, irqHalt, irqSto, resp, tx, free,
      pending⟩ = s.sysPart := (rfl)

@[simp ↓] theorem State.sysPart_ite (c : Prop) [Decidable c] (a b : State) :
    (if c then a else b).sysPart = if c then a.sysPart else b.sysPart := apply_ite ..

theorem RegDesc.base_le_at (r : RegDesc) (i j : Nat) : r.base ≤ r.at i j :=
  Nat.le_trans (Nat.le_add_right ..) (Nat.le_add_right ..)

theorem State.sysPart_wr {a : Nat} (h : sysEnd ≤ a) (v : Word) : (s.wr a v).sysPart = s.sysPart := by
  refine Prod.ext (funext fun b => ?_) rfl
  by_cases hb : b < sysEnd
  · simp [State.sysPart, State.sysRegs, hb, s.rd_wr_ne v (show b ≠ a by omega)]
  · simp [State.sysPart, State.sysRegs, hb]

/-! A register of another block may be written. -/

@[simp ↓] theorem State.rset_sysPart {r : RegDesc} (h : sysEnd ≤ r.base) (v i j : Nat) : (s.rset r v i j).sysPart = s.sysPart :=
  s.sysPart_wr (h.trans (r.base_le_at i j)) _
@[simp ↓] theorem State.fset_sysPart {f : Fld} (h : sysEnd ≤ f.reg.base) (v i j : Nat) : (s.fset f v i j).sysPart = s.sysPart :=
  s.sysPart_wr (h.trans (f.reg.base_le_at i j)) _
@[simp ↓] theorem State.setFlag_sysPart {f : Fld} (h : sysEnd ≤ f.reg.base) (b : Bool) (i j : Nat) :
    (s.setFlag f b i j).sysPart = s.sysPart := s.fset_sysPart h _ i j
@[simp ↓] theorem State.count_sysPart {r : RegDesc} (h : sysEnd ≤ r.base) (n i j : Nat) : (s.count r n i j).sysPart = s.sysPart :=
  s.rset_sysPart h _ i j

/-! ### Report cards -/

@[simp ↓] theorem State.evOcc_sysPart : s.evOcc.sysPart = s.sysPart := by simp (disch := decide) [State.evOcc]
@[simp ↓] theorem State.forward_sysPart (on : Bool) (b : List Byte) : (s.forward on b).sysPart = s.sysPart := by simp [State.forward]
@[simp ↓] theorem State.cardAt_sysPart (c : CardArgs) (origin : Nat) : (s.cardAt c origin).sysPart = s.sysPart := by
  simp (disch := decide) [State.cardAt]
@[simp ↓] theorem State.card_sysPart (c : CardArgs) : (s.card c).sysPart = s.sysPart := s.cardAt_sysPart c _
@[simp ↓] theorem State.outCard_sysPart (n event : Nat) (detail : List Byte) : (s.outCard n event detail).sysPart = s.sysPart :=
  s.card_sysPart _
@[simp ↓] theorem State.safeCard_sysPart (event : Nat) (detail : List Byte) (ukind ua ub : Nat) :
    (s.safeCard event detail ukind ua ub).sysPart = s.sysPart := s.card_sysPart _

/-! ### Analog outputs, passes and safe outputs -/

theorem sysPart_foldl {α : Type} (f : State → α → State) (h : ∀ t x, (f t x).sysPart = t.sysPart) (l : List α) (s : State) :
    (l.foldl f s).sysPart = s.sysPart := by
  induction l generalizing s with
  | nil => rfl
  | cons x l ih => rw [List.foldl_cons, ih, h]

@[simp ↓] theorem State.setAo_sysPart (n : Nat) (x : Ao) : (s.setAo n x).sysPart = s.sysPart := by simp [State.setAo]
@[simp ↓] theorem State.aoBit_sysPart {f : Fld} (h : sysEnd ≤ f.reg.base) (n : Nat) (b : Bool) : (s.aoBit f n b).sysPart = s.sysPart :=
  s.fset_sysPart h _ 0 0
@[simp ↓] theorem State.aoUpdate_sysPart (n : Nat) : (s.aoUpdate n).sysPart = s.sysPart := by simp (disch := decide) [State.aoUpdate]
@[simp ↓] theorem State.aoUpdateAll_sysPart : s.aoUpdateAll.sysPart = s.sysPart := sysPart_foldl _ State.aoUpdate_sysPart _ _
@[simp ↓] theorem State.setLedger_sysPart (x : Ledger) : (s.setLedger x).sysPart = s.sysPart := by simp [State.setLedger]
@[simp ↓] theorem State.setTovr_sysPart (en : Bool) (tariff : Nat) (under : Bool) : (s.setTovr en tariff under).sysPart = s.sysPart := by
  simp (disch := decide) [State.setTovr]

@[simp ↓] theorem State.setOverride_sysPart (n : Nat) (en : Bool) (value : Nat) (under : Bool) :
    (s.setOverride n en value under).sysPart = s.sysPart := by
  simp (disch := decide) [State.setOverride]

@[simp ↓] theorem State.setPasses_sysPart (l : List (Nat × Pass)) : (s.setPasses l).sysPart = s.sysPart := by simp [State.setPasses]

@[simp ↓] theorem State.syncPass_sysPart (p : Nat) : (s.syncPass p).sysPart = s.sysPart := by
  unfold State.syncPass
  split <;> simp (disch := decide)

@[simp ↓] theorem State.endPass_sysPart (p : Nat) : (s.endPass p).sysPart = s.sysPart := by
  simp [State.endPass, sysPart_foldl]
@[simp ↓] theorem State.revokeAll_sysPart : s.revokeAll.sysPart = s.sysPart := by simp [State.revokeAll, sysPart_foldl]
@[simp ↓] theorem State.setSafe_sysPart (x : Safe) : (s.setSafe x).sysPart = s.sysPart := by simp [State.setSafe]
@[simp ↓] theorem State.setSo_sysPart (n : Nat) (x : So) : (s.setSo n x).sysPart = s.sysPart := s.setSafe_sysPart _

@[simp ↓] theorem State.safeOutputs_sysPart : s.safeOutputs.sysPart = s.sysPart := by
  refine sysPart_foldl _ (fun t n => ?_) _ _
  simp (disch := decide)

@[simp ↓] theorem State.enterSafe_sysPart (cause : Nat) (injected : Bool) : (s.enterSafe cause injected).sysPart = s.sysPart := by
  simp (disch := decide) [State.enterSafe]
@[simp ↓] theorem State.diagnose_sysPart (bad : Bool) (cause : Nat) : (s.diagnose bad cause).sysPart = s.sysPart := by
  simp [State.diagnose]
@[simp ↓] theorem State.onWindows_sysPart (f : Window → Window) : (s.onWindows f).sysPart = s.sysPart := by simp [State.onWindows]
@[simp ↓] theorem State.linkLost_sysPart (l : Nat) : (s.linkLost l).sysPart = s.sysPart := by
  simp (disch := decide) [State.linkLost]

end Sys2Proof.Machine
end

section
/-! PROOF. The obligations of spec/01 on TIMEBASE. -/

namespace Sys2Proof.Machine

theorem step_of_idle (s : State) (h : s.pending = []) : step s = .next s.tick := by
  simp [step, h]

/-- Settles O2: the step on an empty queue is the tick. -/
theorem idleStepCountsTime : Obligations.IdleStepCountsTime :=
  fun s h => ⟨s.tick, step_of_idle s h, rfl⟩

/-- Settles O7, from the tick on an empty queue and what any command does to TIMEBASE. -/
theorem timebaseMovesOnlyByTicksAndResets : Obligations.TimebaseMovesOnlyByTicksAndResets := by
  intro s t h
  cases hq : s.pending with
  | nil =>
    rw [step_of_idle s hq] at h
    cases h
    exact .inr (.inr ⟨rfl, rfl⟩)
  | cons c rest =>
    simp only [step, hq] at h
    rcases exec_timebase { s with pending := rest } c h with hkeep | hzero
    · exact .inl hkeep
    · exact .inr (.inl hzero)

/-- A command that is none of the three resets keeps TIMEBASE. -/
theorem exec_timebase_eq {c : Instr} (hc : mayZeroTimebase c = false) {s t : State} (h : exec c s = .next t) : t.timebase = s.timebase :=
  timebase_eq_of_keepsClockQueue (exec_keepsClockQueue s c hc) h

/-- Settles O8: the two resets of R18 set TIMEBASE to 0, a reset with any other code keeps it, and so do the commands that are no reset
of their own. -/
theorem onlyResetsZeroTimebase : Obligations.OnlyResetsZeroTimebase := by
  refine ⟨fun ref supply s => ?_, fun s => ?_, fun s code h1 h2 => ?_, fun s t => exec_timebase_eq rfl, fun s t => exec_timebase_eq rfl,
    fun s t => exec_timebase_eq rfl, fun s t => exec_timebase_eq rfl, fun r v bad s t => exec_timebase_eq rfl,
    fun src k v s t => exec_timebase_eq rfl, fun mv bad f us s t => exec_timebase_eq rfl, fun bad f us s t => exec_timebase_eq rfl⟩
  · obtain ⟨t, ht, hzero⟩ := execPowerOnReset_zeroesTimebase s ref supply
    exact ⟨t, ht, congrArg Prod.fst hzero⟩
  · obtain ⟨t, ht, hzero⟩ := execExternalReset_zeroesTimebase s
    exact ⟨t, ht, congrArg Prod.fst hzero⟩
  · exact State.timebase_of_clockQueue (State.intoReset_clockQueue_of_keeps s code h1 h2)

end Sys2Proof.Machine
end

section
/-! PROOF. The obligation of spec/01 on the wall-time offset (R22, R23). -/

namespace Sys2Proof.Machine

variable (s : State)

/-! ### The applied offset -/

theorem State.wallOfs_rset (lo hi : Nat) :
    ((s.rset R.SYS_WALLOFS_LO lo).rset R.SYS_WALLOFS_HI hi).wallOfs = hi % 2 ^ 32 * 2 ^ 32 + lo % 2 ^ 32 := by
  have hlo := State.rget_rset_ne (s.rset R.SYS_WALLOFS_LO lo) R.SYS_WALLOFS_HI R.SYS_WALLOFS_LO hi 0 0 0 0 (by decide)
  simp only [State.wallOfs, hlo, State.rget_rset_self]

/-- SYS_WALLSTAT says what became of the offset; a change of it is none of the offset's. -/
theorem State.wallOfs_fset {f : Fld} (hf : f.reg = R.SYS_WALLSTAT) (v : Nat) : (s.fset f v).wallOfs = s.wallOfs := by
  have hhi := s.rget_fset_ne f R.SYS_WALLOFS_HI v 0 0 0 0 (by rw [hf]; decide)
  have hlo := s.rget_fset_ne f R.SYS_WALLOFS_LO v 0 0 0 0 (by rw [hf]; decide)
  simp only [State.wallOfs, hhi, hlo]

theorem State.wallOfs_card (c : CardArgs) : (s.card c).wallOfs = s.wallOfs := by
  have h (r : RegDesc) (hr : r.at < sysEnd) : (s.card c).rget r = s.rget r :=
    congrArg BitVec.toNat (State.rd_of_sysPart (s.card_sysPart c) hr)
  simp only [State.wallOfs, h R.SYS_WALLOFS_HI (by decide), h R.SYS_WALLOFS_LO (by decide)]

theorem State.fget_fcount_self (f : Fld) (n : Nat) (h : f.lo + f.width ≤ 32) (hw : 0 < f.width) :
    (s.fcount f n).fget f = satAdd f.width (s.fget f) n := by
  have hlt : satAdd f.width (s.fget f) n < 2 ^ f.width := by
    have := Nat.two_pow_pos f.width
    unfold satAdd
    split <;> omega
  rw [State.fcount, State.fget_fset_self s f _ 0 0 h hw, Nat.mod_eq_of_lt hlt]

/-! ### A move of the offset -/

/-- The registers that a move of the offset sets. -/
def State.setWall (s : State) (ofs source : Nat) : State :=
  (((s.rset R.SYS_WALLOFS_LO (ofs % 2 ^ 32)).rset R.SYS_WALLOFS_HI (ofs / 2 ^ 32)).setFlag F.SYS_WALLSTAT_VALID true).fset
    F.SYS_WALLSTAT_SOURCE source

/-- A move of the offset before its step is counted: the registers, and the ledger's note of a step or of the first valid offset. -/
def State.applyWall (s : State) (ofs source : Nat) : State :=
  if decide (1000 < (toSigned 64 (ofs + 2 ^ 64 - s.wallOfs)).natAbs) || !s.flag F.SYS_WALLSTAT_VALID then
    { s.setWall ofs source with ledger := { s.ledger with steps := s.ledger.steps ++ [(s.wallOfs, ofs, source)] } }
  else s.setWall ofs source

/-- The card of a step, with the offset before it and the new one. -/
def State.wallCard (s : State) (ofs : Nat) : CardArgs :=
  { block := 1, event := 2, detail := leBytes 8 s.wallOfs ++ leBytes 8 ofs }

theorem State.moveWall_eq (ofs source : Nat) : s.moveWall ofs source =
    if 1000 < (toSigned 64 (ofs + 2 ^ 64 - s.wallOfs)).natAbs then
      ((s.applyWall ofs source).fcount F.SYS_WALLSTAT_STEPS).card (s.wallCard ofs)
    else s.applyWall ofs source := by
  simp only [State.moveWall, decide_eq_true_eq]
  rfl

theorem State.setWall_wallOfs {ofs : Nat} (h : ofs < 2 ^ 64) (source : Nat) : (s.setWall ofs source).wallOfs = ofs := by
  rw [State.setWall, State.wallOfs_fset _ rfl, State.setFlag, State.wallOfs_fset _ rfl, State.wallOfs_rset]
  omega

theorem State.setWall_steps (ofs source : Nat) : (s.setWall ofs source).fget F.SYS_WALLSTAT_STEPS = s.fget F.SYS_WALLSTAT_STEPS := by
  rw [State.setWall, State.fget_fset_other _ F.SYS_WALLSTAT_SOURCE F.SYS_WALLSTAT_STEPS _ _ _ rfl (by decide) (by decide) (by decide),
    State.fget_setFlag_other _ F.SYS_WALLSTAT_VALID F.SYS_WALLSTAT_STEPS _ _ _ rfl (by decide) (by decide) (by decide),
    State.fget_rset_ne _ _ _ _ _ _ _ _ (by decide), State.fget_rset_ne _ _ _ _ _ _ _ _ (by decide)]

/-- What the ledger takes note of is in none of the registers and not in TIMEBASE. -/
theorem State.applyWall_regs_timebase (ofs source : Nat) :
    (s.applyWall ofs source).regs = (s.setWall ofs source).regs ∧ (s.applyWall ofs source).timebase = s.timebase := by
  unfold State.applyWall
  split
  · exact ⟨rfl, rfl⟩
  · exact ⟨rfl, rfl⟩

theorem State.applyWall_rd (ofs source a : Nat) : (s.applyWall ofs source).rd a = (s.setWall ofs source).rd a := by
  rw [State.rd, (s.applyWall_regs_timebase ofs source).1, State.rd]

theorem State.applyWall_wallOfs {ofs : Nat} (h : ofs < 2 ^ 64) (source : Nat) : (s.applyWall ofs source).wallOfs = ofs := by
  refine Eq.trans ?_ (s.setWall_wallOfs h source)
  simp only [State.wallOfs, State.rget, State.applyWall_rd]

theorem State.applyWall_steps (ofs source : Nat) : (s.applyWall ofs source).fget F.SYS_WALLSTAT_STEPS = s.fget F.SYS_WALLSTAT_STEPS := by
  rw [← s.setWall_steps ofs source, State.fget, State.applyWall_rd, State.fget]

theorem State.moveWall_wallOfs {ofs : Nat} (h : ofs < 2 ^ 64) (source : Nat) : (s.moveWall ofs source).wallOfs = ofs := by
  rw [State.moveWall_eq]
  split
  · rw [State.wallOfs_card, State.fcount, State.wallOfs_fset _ rfl, State.applyWall_wallOfs s h]
  · exact s.applyWall_wallOfs h source

/-! ### The statement -/

theorem execStagedFieldWrite_wallofs {s : State} {r : Req} {a : Addr} (hr : s.homeReq r) (ha : a.toNat = R.SYS_WALLOFS_LO.at) (v : Word) :
    execStagedFieldWrite r a v s = .next (s.setShadow a.toNat v) := by
  rw [execStagedFieldWrite, if_pos ha, State.asHome_of_homeReq hr]

theorem execWallofsHiWrite_of_homeReq {s : State} {r : Req} (hr : s.homeReq r) (v : Word) : execWallofsHiWrite r v s =
    .next ((s.dropShadow R.SYS_WALLOFS_LO.at).moveWall (v.toNat * 2 ^ 32 + (s.shadow R.SYS_WALLOFS_LO.at).toNat) 1) := by
  rw [execWallofsHiWrite, State.asHome_of_homeReq hr]

theorem State.moveWall_timebase (ofs source : Nat) : (s.moveWall ofs source).timebase = s.timebase :=
  State.timebase_of_clockQueue (s.moveWall_clockQueue ofs source)

/-- A step is counted, then its card is written at the time of the move. -/
theorem State.moveWall_of_step {ofs : Nat} (hstep : 1000 < (toSigned 64 (ofs + 2 ^ 64 - s.wallOfs)).natAbs) (source : Nat) :
    s.moveWall ofs source = ((s.applyWall ofs source).fcount F.SYS_WALLSTAT_STEPS).cardAt (s.wallCard ofs) s.now := by
  rw [State.moveWall_eq, if_pos hstep, State.card, State.now, State.fcount_timebase, (s.applyWall_regs_timebase ofs source).2, State.now]

theorem State.moveWall_steps {ofs : Nat} (hstep : 1000 < (toSigned 64 (ofs + 2 ^ 64 - s.wallOfs)).natAbs) (source : Nat) :
    (s.moveWall ofs source).fget F.SYS_WALLSTAT_STEPS = satAdd F.SYS_WALLSTAT_STEPS.width (s.fget F.SYS_WALLSTAT_STEPS) 1 := by
  have hcard := State.rd_of_sysPart (State.cardAt_sysPart ((s.applyWall ofs source).fcount F.SYS_WALLSTAT_STEPS) (s.wallCard ofs) s.now)
    (show F.SYS_WALLSTAT_STEPS.reg.at < sysEnd by decide)
  rw [s.moveWall_of_step hstep, State.fget, hcard, ← s.applyWall_steps ofs source]
  exact State.fget_fcount_self _ _ 1 (by decide) (by decide)

/-- Settles O19: the offset is read back from the registers that a move sets, and a step's card is the last thing that happens. -/
theorem wallTimeOffsetAndLatches : Obligations.WallTimeOffsetAndLatches := by
  refine ⟨fun r a v s hr ha => ⟨_, execStagedFieldWrite_wallofs hr ha v, rfl⟩,
    fun r v s hr => ⟨_, execWallofsHiWrite_of_homeReq hr v, ?_, State.moveWall_timebase _ _ _⟩,
    fun s ofs src _ hstep => ⟨s.moveWall_steps hstep src, _, ?_, s.moveWall_of_step hstep src⟩⟩
  · have hv := v.isLt
    have hlo := (s.shadow R.SYS_WALLOFS_LO.at).isLt
    exact State.moveWall_wallOfs _ (by omega) 1
  · exact (State.fcount_timebase _ _ _ _ _).trans (s.applyWall_regs_timebase ofs src).2

end Sys2Proof.Machine
end

section
/-! PROOF. The obligation of spec/01 on latching reads and die links (R12, R20). -/

namespace Sys2Proof.Machine

variable (s : State)

/-! ### Latching reads -/

theorem findReg_timebaseLo : findReg R.SYS_TIMEBASE_LO.at = some (R.SYS_TIMEBASE_LO, 0, 0) := by decide +kernel
theorem findReg_timebaseHi : findReg R.SYS_TIMEBASE_HI.at = some (R.SYS_TIMEBASE_HI, 0, 0) := by decide +kernel

/-- Home may read TIMEBASE. -/
theorem State.readRefusal_timebaseLo {s : State} {r : Req} (hr : s.homeReq r) : s.readRefusal r R.SYS_TIMEBASE_LO.at = none := by
  obtain ⟨-, hctx, hen⟩ := hr
  have hhole : s.regHole R.SYS_TIMEBASE_LO 0 0 R.SYS_TIMEBASE_LO.at = false := by
    have hblock : blockOf R.SYS_TIMEBASE_LO.at = 0 := by decide
    simp only [State.regHole, hblock]
    rfl
  simp [State.readRefusal, hctx, hen, findReg_timebaseLo, hhole, mayRead]

theorem State.regValue_timebaseLo : s.regValue R.SYS_TIMEBASE_LO.at = BitVec.ofNat 32 (s.now % 2 ^ 32) := by
  have hmask : ~~~R.SYS_TIMEBASE_LO.mask .wo = BitVec.allOnes 32 := by decide
  have hlive : s.liveReg R.SYS_TIMEBASE_LO 0 0 R.SYS_TIMEBASE_LO.at = s.now % 2 ^ 32 := rfl
  simp only [State.regValue, findReg_timebaseLo, hmask, hlive, BitVec.and_allOnes]

theorem State.regValue_timebaseHi : s.regValue R.SYS_TIMEBASE_HI.at = BitVec.ofNat 32 (s.now / 2 ^ 32) := by
  have hmask : ~~~R.SYS_TIMEBASE_HI.mask .wo = BitVec.allOnes 32 := by decide
  have hlive : s.liveReg R.SYS_TIMEBASE_HI 0 0 R.SYS_TIMEBASE_HI.at = s.now / 2 ^ 32 := rfl
  simp only [State.regValue, findReg_timebaseHi, hmask, hlive, BitVec.and_allOnes]

theorem State.readWord_timebaseHi (r : Req) :
    (s.readWord r R.SYS_TIMEBASE_HI.at).1 = Sparse.get (fun _ => (0 : Word)) s.latches (latchKey r 0) := rfl

/-- The low half is answered, and the high half of the same instant goes to the requester's latch. -/
theorem State.readWord_timebaseLo (r : Req) : s.readWord r R.SYS_TIMEBASE_LO.at = (BitVec.ofNat 32 (s.now % 2 ^ 32),
    { s with latches := Sparse.put (fun _ => (0 : Word)) s.latches (latchKey r 0) (BitVec.ofNat 32 (s.now / 2 ^ 32)) }) := by
  rw [← s.regValue_timebaseLo, ← s.regValue_timebaseHi]
  rfl

theorem execLatchingLoRead_timebase {s : State} {r : Req} (hr : s.homeReq r) {a : Addr} (ha : a.toNat = R.SYS_TIMEBASE_LO.at) :
    execLatchingLoRead r a s = .next
      { s with latches := Sparse.put (fun _ => (0 : Word)) s.latches (latchKey r 0) (BitVec.ofNat 32 (s.now / 2 ^ 32)),
               resp := ⟨false, leBytes 4 (s.now % 2 ^ 32)⟩ } := by
  have hpair : latchPairs.any (fun x => x.2.1 == R.SYS_TIMEBASE_LO.at) = true := by decide
  have hlo : (BitVec.ofNat 32 (s.now % 2 ^ 32)).toNat = s.now % 2 ^ 32 := by simp
  simp only [execLatchingLoRead, ha, hpair, hr.1, State.regRead, State.readRefusal_timebaseLo hr, State.readWord_timebaseLo,
    State.respond, hlo, Bool.not_true, Bool.or_self, Bool.false_eq_true, if_false]

/-! ### Die links -/

/-- The row of failed transfer units of a link. -/
def State.d2dFail (s : State) (l : Nat) : Nat := Sparse.get (fun _ => 0) s.d2dFails l

def State.setD2dFail (s : State) (l k : Nat) : State := { s with d2dFails := Sparse.put (fun _ => 0) s.d2dFails l k }

/-- SYS_D2DSTAT shows a link as down. -/
def State.showLinkDown (s : State) (l : Nat) : State :=
  let t := s.fset F.SYS_D2DSTAT_DOWN (s.fget F.SYS_D2DSTAT_DOWN ||| 2 ^ l)
  t.fset F.SYS_D2DSTAT_UP (t.fget F.SYS_D2DSTAT_UP - 2 ^ l)

section
variable {s : State} {l : Fin 6}

theorem execD2dTransferUnit_of_down (h : bit (s.fget F.SYS_D2DSTAT_DOWN) l.val = true) (ok : Bool) :
    execD2dTransferUnit l ok s = .next s := by
  simp [execD2dTransferUnit, h]

theorem execD2dTransferUnit_good (hdown : bit (s.fget F.SYS_D2DSTAT_DOWN) l.val = false)
    (hup : bit (s.fget F.SYS_D2DSTAT_UP) l.val = true) : execD2dTransferUnit l true s = .next
      (if l.val = 4 ∧ s.aoSilent = true then { s.setD2dFail l 0 with aoSilent := false }.aoUpdateAll else s.setD2dFail l 0) := by
  simp only [execD2dTransferUnit, hdown, hup, Bool.not_true, Bool.or_self, Bool.false_eq_true, if_false, if_true]
  rfl

theorem execD2dTransferUnit_replayed (hdown : bit (s.fget F.SYS_D2DSTAT_DOWN) l.val = false)
    (hup : bit (s.fget F.SYS_D2DSTAT_UP) l.val = true) (hfail : s.d2dFail l < 8) : execD2dTransferUnit l false s =
      .next ((s.setD2dFail l (s.d2dFail l + 1)).count R.SYS_D2DRETRY 1 l) := by
  rw [State.d2dFail] at hfail
  simp only [execD2dTransferUnit, hdown, hup, hfail, Bool.not_true, Bool.or_self, Bool.false_eq_true, if_false, if_true]
  rfl

theorem execD2dTransferUnit_lost (hdown : bit (s.fget F.SYS_D2DSTAT_DOWN) l.val = false)
    (hup : bit (s.fget F.SYS_D2DSTAT_UP) l.val = true) (hfail : 8 ≤ s.d2dFail l) : execD2dTransferUnit l false s =
      .next ((((s.setD2dFail l 0).showLinkDown l).card { block := 1, event := 1, ukind := 7, ua := l }).linkLost l) := by
  rw [State.d2dFail, ← Nat.not_lt] at hfail
  simp only [execD2dTransferUnit, hdown, hup, hfail, Bool.not_true, Bool.or_self, Bool.false_eq_true, if_false]
  rfl

end

theorem State.d2dFail_setD2dFail_self (l k : Nat) : (s.setD2dFail l k).d2dFail l = k := Sparse.get_put_self ..

theorem State.d2dFail_of_sysPart {s t : State} (h : t.sysPart = s.sysPart) (l : Nat) : t.d2dFail l = s.d2dFail l := by
  rw [State.d2dFail, State.d2dFails_of_sysPart h, State.d2dFail]

theorem State.fget_of_sysPart {s t : State} (h : t.sysPart = s.sysPart) {f : Fld} (hf : f.reg.at < sysEnd) : t.fget f = s.fget f := by
  rw [State.fget, State.rd_of_sysPart h hf, State.fget]

theorem bit_or_two_pow : ∀ (l : Fin 6) (v : Fin 64), bit ((v.val ||| 2 ^ l.val) % 2 ^ 6) l.val = true := by decide

theorem bit_sub_two_pow : ∀ (l : Fin 6) (v : Fin 64), bit v.val l.val = true → bit ((v.val - 2 ^ l.val) % 2 ^ 6) l.val = false := by
  decide

theorem State.down_showLinkDown (l : Fin 6) : bit ((s.showLinkDown l).fget F.SYS_D2DSTAT_DOWN) l.val = true := by
  rw [State.showLinkDown, State.fget_fset_other _ F.SYS_D2DSTAT_UP F.SYS_D2DSTAT_DOWN _ _ _ rfl (by decide) (by decide) (by decide),
    State.fget_fset_self _ _ _ _ _ (by decide) (by decide)]
  exact bit_or_two_pow l ⟨s.fget F.SYS_D2DSTAT_DOWN, getField_lt _ _ _⟩

theorem State.up_showLinkDown {s : State} {l : Fin 6} (h : bit (s.fget F.SYS_D2DSTAT_UP) l.val = true) :
    bit ((s.showLinkDown l).fget F.SYS_D2DSTAT_UP) l.val = false := by
  rw [State.showLinkDown, State.fget_fset_self _ _ _ _ _ (by decide) (by decide),
    State.fget_fset_other _ F.SYS_D2DSTAT_DOWN F.SYS_D2DSTAT_UP _ _ _ rfl (by decide) (by decide) (by decide)]
  exact bit_sub_two_pow l ⟨s.fget F.SYS_D2DSTAT_UP, getField_lt _ _ _⟩ h

/-! ### The statement -/

/-- What a link lost reports and calls for leaves SYS_D2DSTAT alone. -/
theorem State.fget_linkLost_card {f : Fld} (hf : f.reg = R.SYS_D2DSTAT) (c : CardArgs) (l : Nat) :
    ((s.card c).linkLost l).fget f = s.fget f :=
  State.fget_of_sysPart (((s.card c).linkLost_sysPart l).trans (s.card_sysPart c)) (by rw [hf]; decide)

theorem State.replayed_only (l k : Nat) :
    s.only ((s.setD2dFail l k).count R.SYS_D2DRETRY 1 l) [.regs, .d2dFails] := by
  intro p hp
  cases p
  case regs | d2dFails => simp at hp
  all_goals rfl

theorem State.latched_only (ls : List (Nat × Word)) (x : Resp) : s.only { s with latches := ls, resp := x } [.latches, .resp] := by
  intro p hp
  cases p
  case latches | resp => simp at hp
  all_goals rfl

/-- Settles O20: a read of the low half by its one outcome, a transfer unit by the four cases of its link. -/
theorem latchesAndDieLinks : Obligations.LatchesAndDieLinks := by
  refine ⟨fun r a s hr ha => ⟨_, execLatchingLoRead_timebase hr ha, rfl, s.latched_only _ _, fun u hu => ?_⟩,
    fun l s hdown hup hfail => ⟨_, execD2dTransferUnit_replayed hdown hup hfail, ?_, ?_, s.replayed_only _ _, fun a ha => ?_⟩,
    fun l s hdown hup hfail => ⟨_, execD2dTransferUnit_lost hdown hup hfail, ?_, ?_⟩,
    fun l s hdown hup => ⟨_, execD2dTransferUnit_good hdown hup, ?_⟩,
    fun l ok s hdown => ⟨_, execD2dTransferUnit_of_down hdown ok, rfl⟩⟩
  · rw [State.readWord_timebaseHi, hu, Sparse.get_put_self]
  · exact State.rget_count_self _ _ _ _ _
  · exact s.d2dFail_setD2dFail_self l (s.d2dFail l + 1)
  · exact State.rd_count_ne _ _ _ _ _ a (by simpa using ha)
  · rw [State.fget_linkLost_card _ rfl]
    exact State.down_showLinkDown _ l
  · rw [State.fget_linkLost_card _ rfl]
    exact State.up_showLinkDown hup
  · split
    · exact (State.d2dFail_of_sysPart (State.aoUpdateAll_sysPart _) l).trans (s.d2dFail_setD2dFail_self l 0)
    · exact s.d2dFail_setD2dFail_self l 0

end Sys2Proof.Machine
end

section
/-! PROOF. Frames of spec/02: from one state to another only listed registers, or only listed parts, have changed. -/

namespace Sys2Proof.Machine

variable (s : State)

/-! ### Registers -/

/-- The register file by address, with the registers of a list left out. -/
def State.regsBut (s : State) (l : List Nat) (a : Nat) : Word := if a ∈ l then 0 else s.rd a

theorem State.regsOnly_iff_regsBut {s t : State} {l : List Nat} : s.regsOnly t l ↔ t.regsBut l = s.regsBut l := by
  constructor
  · intro h
    funext a
    by_cases ha : a ∈ l
    · simp [State.regsBut, ha]
    · simp [State.regsBut, ha, h a ha]
  · intro h a ha
    simpa [State.regsBut, ha] using congrFun h a

@[simp ↓] theorem State.regsBut_mk (l : List Nat) (timebase shadows armed latches lyctx0 lyctx1 locked d2dFails mem memsys mmu streams sto
    rings chn cim acq aos aoSilent safe ledger hosts pwr boot tap irqCimp events irqFault irqHalt irqSto resp tx free pending) :
    State.regsBut ⟨timebase, s.regs, shadows, armed, latches, lyctx0, lyctx1, locked, d2dFails, mem, memsys, mmu, streams, sto, rings,
      chn, cim, acq, aos, aoSilent, safe, ledger, hosts, pwr, boot, tap, irqCimp, events, irqFault, irqHalt, irqSto, resp, tx, free,
      pending⟩ l = s.regsBut l := (rfl)

@[simp ↓] theorem State.regsBut_ite (c : Prop) [Decidable c] (a b : State) (l : List Nat) :
    (if c then a else b).regsBut l = if c then a.regsBut l else b.regsBut l := by
  split <;> rfl

section
variable {l : List Nat}

@[simp ↓] theorem State.regsBut_wr {a : Nat} (h : a ∈ l) (v : Word) : (s.wr a v).regsBut l = s.regsBut l :=
  State.regsOnly_iff_regsBut.mp fun _ hb => s.rd_wr_ne v fun hba => hb (hba ▸ h)
@[simp ↓] theorem State.regsBut_rset {r : RegDesc} {i j : Nat} (h : r.at i j ∈ l) (v : Nat) : (s.rset r v i j).regsBut l = s.regsBut l :=
  s.regsBut_wr h _
@[simp ↓] theorem State.regsBut_fset {f : Fld} {i j : Nat} (h : f.reg.at i j ∈ l) (v : Nat) : (s.fset f v i j).regsBut l = s.regsBut l :=
  s.regsBut_wr h _
@[simp ↓] theorem State.regsBut_setFlag {f : Fld} {i j : Nat} (h : f.reg.at i j ∈ l) (b : Bool) :
    (s.setFlag f b i j).regsBut l = s.regsBut l := s.regsBut_wr h _
@[simp ↓] theorem State.regsBut_count {r : RegDesc} {i j : Nat} (h : r.at i j ∈ l) (n : Nat) : (s.count r n i j).regsBut l = s.regsBut l :=
  s.regsBut_wr h _
@[simp ↓] theorem State.regsBut_fcount {f : Fld} {i j : Nat} (h : f.reg.at i j ∈ l) (n : Nat) :
    (s.fcount f n i j).regsBut l = s.regsBut l := s.regsBut_wr h _

/-- The registers of the event ring that a report card moves. -/
def cardRegs : List Nat := [R.LDG_CARDNO.at, R.LDG_EVSTAT.at, R.LDG_LOST.at]

/-! The lemmas below are proved write by write. The discharger takes a register's membership from the hypotheses: a field names its register
by a definition, so the hypothesis is the side goal only after unfolding, and `id` gives it the side goal's own form. -/

@[simp ↓] theorem State.regsBut_evOcc (h : R.LDG_EVSTAT.at ∈ l) : s.evOcc.regsBut l = s.regsBut l := by
  simp (disch := apply id; with_unfolding_all assumption) [State.evOcc]

@[simp ↓] theorem State.regsBut_forward (on : Bool) (b : List Byte) : (s.forward on b).regsBut l = s.regsBut l := by simp [State.forward]

@[simp ↓] theorem State.regsBut_card (h : cardRegs ⊆ l) (c : CardArgs) : (s.card c).regsBut l = s.regsBut l := by
  have hno : R.LDG_CARDNO.at ∈ l := h (by decide)
  have hev : R.LDG_EVSTAT.at ∈ l := h (by decide)
  have hlost : R.LDG_LOST.at ∈ l := h (by decide)
  simp (disch := apply id; with_unfolding_all assumption) [State.card, State.cardAt]

end

/-! ### Parts -/

theorem State.only_regs (regs : List (Nat × Word)) : s.only { s with regs := regs } [.regs] := by
  intro p hp
  cases p
  case regs => simp at hp
  all_goals rfl

theorem State.wr_only (a : Nat) (v : Word) : s.only (s.wr a v) [.regs] := s.only_regs _

end Sys2Proof.Machine
end

section
/-! PROOF. Staged groups (R66 to R69): what a group's registers read after its shadows are written, armed or applied. -/

namespace Sys2Proof.Machine

variable (s : State)

/-! ### The registers of the groups -/

/-- The register that shows a group's state: whether it is armed, whether it disagrees. -/
def Group.statusReg (g : Group) : Nat := g.flag.1.reg.at g.flag.2

/-- The registers that several groups' applications move: the counters of disagreeing groups, what the analog outputs show, and the event
ring's. -/
def sharedStatusRegs : List Nat := [R.BOOT_STAT.at, R.ACQ_STAT.at, R.OUT_STAT.at] ++ cardRegs

/-- The registers that the application of a group may change besides its fields. -/
def Group.statusRegs (g : Group) : List Nat :=
  g.statusReg :: (sharedStatusRegs ++ match g with | .ao n => [R.OUT_AO_RBACK.at n] | _ => [])

theorem Group.statusReg_mem (g : Group) : g.statusReg ∈ g.statusRegs := List.mem_cons_self

theorem Group.sharedStatusRegs_subset (g : Group) : sharedStatusRegs ⊆ g.statusRegs :=
  fun _ h => List.mem_cons_of_mem _ (List.mem_append_left _ h)

theorem Group.armedBit_reg {g : Group} {b : Fld × Nat} (h : g.armedBit = some b) : b.1.reg.at b.2 = g.statusReg := by
  cases g <;> cases h <;> rfl

/-- In the register map no field of a group is a status register, and no status register is a shared one. -/
theorem Group.fields_apart : ∀ g ∈ allGroups, (g.fields.map (·.1)).Nodup ∧ (∀ f ∈ g.fields, f.1 ∉ g.statusRegs) ∧
    g.statusReg ∉ sharedStatusRegs := by decide +kernel

theorem Group.fields_nodup {g : Group} (hg : g ∈ allGroups) : (g.fields.map (·.1)).Nodup := (g.fields_apart hg).1

theorem Group.field_not_mem_statusRegs {g : Group} (hg : g ∈ allGroups) {f : Nat × Word} (hf : f ∈ g.fields) : f.1 ∉ g.statusRegs :=
  let ⟨_, hfields, _⟩ := g.fields_apart hg
  hfields f hf

theorem Group.statusReg_not_mem {g : Group} (hg : g ∈ allGroups) : g.statusReg ∉ sharedStatusRegs :=
  let ⟨_, _, hstat⟩ := g.fields_apart hg
  hstat

theorem groupAt_mem {a : Nat} {g : Group} (h : groupAt a = some g) : g ∈ allGroups := List.mem_of_find?_eq_some h

theorem groupCommit_mem {a : Nat} {g : Group} (h : groupCommit a = some g) : g ∈ allGroups := List.mem_of_find?_eq_some h

/-! ### Shadows -/

/-- Bits taken from one word within a mask and from another outside it. -/
theorem merge_and_mask (old v m : Word) : ((old &&& ~~~m) ||| (v &&& m)) &&& m = v &&& m := by
  ext i hi
  cases hm : m[i] <;> simp [hm]

theorem State.shadow_congr {s t : State} (hsh : t.shadows = s.shadows) {a : Nat} (hrd : t.rd a = s.rd a) : t.shadow a = s.shadow a := by
  simp only [State.shadow, hsh, hrd]

theorem State.shadow_setShadow_self (a : Nat) (v : Word) : (s.setShadow a v).shadow a = v := by
  simp [State.shadow, State.setShadow]

/-- Take the shadow of one register. -/
def State.takeShadow (s : State) (f : Nat × Word) : State :=
  (s.wr f.1 ((s.rd f.1 &&& ~~~f.2) ||| (s.shadow f.1 &&& f.2))).dropShadow f.1

theorem State.takeShadows_eq (g : Group) : s.takeShadows g = g.fields.foldl State.takeShadow s := rfl

theorem State.rd_takeShadow_self (f : Nat × Word) : (s.takeShadow f).rd f.1 &&& f.2 = s.shadow f.1 &&& f.2 :=
  (congrArg (· &&& f.2) (s.rd_wr_self f.1 _)).trans (merge_and_mask _ _ _)

theorem State.rd_takeShadow_ne {f : Nat × Word} {a : Nat} (h : a ≠ f.1) : (s.takeShadow f).rd a = s.rd a := s.rd_wr_ne _ h

theorem State.shadow_takeShadow_ne {f : Nat × Word} {a : Nat} (h : a ≠ f.1) : (s.takeShadow f).shadow a = s.shadow a := by
  simp only [State.shadow, s.rd_takeShadow_ne h]
  simp only [State.takeShadow, State.dropShadow, State.wr_shadows, Sparse.get_put_ne _ _ _ h]

theorem State.rd_foldl_takeShadow_of_not_mem (l : List (Nat × Word)) (s : State) {a : Nat} (h : a ∉ l.map (·.1)) :
    (l.foldl State.takeShadow s).rd a = s.rd a := by
  induction l generalizing s with
  | nil => rfl
  | cons f l ih =>
    obtain ⟨hne, hl⟩ := not_or.mp (List.mem_cons.not.mp h)
    exact (ih _ hl).trans (s.rd_takeShadow_ne hne)

/-- Registers of different addresses each take their own shadow. -/
theorem State.rd_foldl_takeShadow (l : List (Nat × Word)) (s : State) (hl : (l.map (·.1)).Nodup) {f : Nat × Word} (hf : f ∈ l) :
    (l.foldl State.takeShadow s).rd f.1 &&& f.2 = s.shadow f.1 &&& f.2 := by
  induction l generalizing s with
  | nil => cases hf
  | cons e l ih =>
    obtain ⟨he, hl⟩ := List.nodup_cons.mp hl
    rw [List.foldl_cons]
    rcases List.mem_cons.mp hf with rfl | hf
    · rw [State.rd_foldl_takeShadow_of_not_mem l _ he, s.rd_takeShadow_self]
    · have hne : f.1 ≠ e.1 := fun h => he (List.mem_map.mpr ⟨f, hf, h⟩)
      rw [ih _ hl hf, s.shadow_takeShadow_ne hne]

/-! ### Armed groups -/

theorem State.showArmed_only (g : Group) : s.only (s.showArmed g) [.regs] := by
  unfold State.showArmed
  split
  · exact s.wr_only _ _
  · exact s.only_refl _

/-- The register of a group's ARMED bit. -/
def Group.armedRegs (g : Group) : List Nat :=
  match g.armedBit with
  | some b => [b.1.reg.at b.2]
  | none => []

theorem Group.armedRegs_subset (g : Group) : g.armedRegs ⊆ g.statusRegs := by
  unfold Group.armedRegs
  split
  · next b hb => simpa [Group.armedBit_reg hb] using g.statusReg_mem
  · exact List.nil_subset _

theorem State.showArmed_regsOnly (g : Group) : s.regsOnly (s.showArmed g) g.armedRegs := by
  unfold State.showArmed Group.armedRegs
  cases g.armedBit with
  | some b => exact fun a ha => s.rd_setFlag_ne _ _ _ _ a (List.ne_of_not_mem_cons ha)
  | none => exact s.regsOnly_refl _

theorem State.rd_showArmed_field {g : Group} (hg : g ∈ allGroups) {f : Nat × Word} (hf : f ∈ g.fields) :
    (s.showArmed g).rd f.1 = s.rd f.1 :=
  s.showArmed_regsOnly g f.1 fun h => Group.field_not_mem_statusRegs hg hf (g.armedRegs_subset h)

/-- The state without the arming of a group, its ARMED bit still to be shown. -/
def State.unarm (s : State) (g : Group) : State := { s with armed := s.armed.filter (fun x => x.1 != g.commit) }

theorem State.unarm_only (g : Group) : s.only (s.unarm g) [.armed] := by
  intro p hp
  cases p
  case armed => simp at hp
  all_goals rfl

theorem State.disarm_only (g : Group) : s.only (s.disarm g) [.regs, .armed] :=
  State.only_trans (State.only_mono (s.unarm_only g) (by simp)) (State.only_mono ((s.unarm g).showArmed_only g) (by simp))

theorem State.disarm_regsOnly (g : Group) : s.regsOnly (s.disarm g) g.armedRegs := (s.unarm g).showArmed_regsOnly g

theorem State.isArmed_disarm (g : Group) : (s.disarm g).isArmed g = false := by
  have harmed : (s.disarm g).armed = s.armed.filter (fun x => x.1 != g.commit) := (s.unarm g).showArmed_only g .armed (by simp)
  simp [State.isArmed, harmed]

theorem State.rd_disarm_field {g : Group} (hg : g ∈ allGroups) {f : Nat × Word} (hf : f ∈ g.fields) : (s.disarm g).rd f.1 = s.rd f.1 :=
  (s.unarm g).rd_showArmed_field hg hf

theorem State.shadow_disarm_field {g : Group} (hg : g ∈ allGroups) {f : Nat × Word} (hf : f ∈ g.fields) :
    (s.disarm g).shadow f.1 = s.shadow f.1 :=
  State.shadow_congr (s.disarm_only g .shadows (by simp)) (s.rd_disarm_field hg hf)

/-! ### The counters of disagreeing groups -/

/-- A counter of disagreeing groups where a group's flag moves from `was` to `b`. -/
def State.moveCount (s : State) (b was : Bool) (f : Fld) : State :=
  if b && !was then s.fcount f else if was && !b then s.fset f (s.fget f - 1) else s

theorem State.setDisagree_eq (g : Group) (b : Bool) : s.setDisagree g b =
    (g.blockCount.toList).foldl (State.moveCount · b (s.flag g.flag.1 g.flag.2))
      ((s.setFlag g.flag.1 b g.flag.2).moveCount b (s.flag g.flag.1 g.flag.2) F.BOOT_STAT_DISAGREE) := by
  unfold State.setDisagree
  cases g.blockCount <;> rfl

section
variable {l : List Nat}

theorem State.regsBut_moveCount {f : Fld} (h : f.reg.at ∈ l) (b was : Bool) : (s.moveCount b was f).regsBut l = s.regsBut l := by
  simp [State.moveCount, h]

theorem Group.blockCount_mem {g : Group} {f : Fld} (h : g.blockCount = some f) : f.reg.at ∈ sharedStatusRegs := by
  cases g <;> cases h <;> decide

/-- Besides its flag a disagreement moves counters alone. -/
theorem State.regsBut_setDisagree (hl : sharedStatusRegs ⊆ l) (g : Group) (b : Bool) :
    (s.setDisagree g b).regsBut l = (s.setFlag g.flag.1 b g.flag.2).regsBut l := by
  have hboot : F.BOOT_STAT_DISAGREE.reg.at ∈ l := hl (by decide)
  rw [State.setDisagree_eq]
  cases h : g.blockCount with
  | none => exact State.regsBut_moveCount _ hboot _ _
  | some f => exact (State.regsBut_moveCount _ (hl (Group.blockCount_mem h)) _ _).trans (State.regsBut_moveCount _ hboot _ _)

/-! ### What an application does beyond the fields (R301, R318, R335, R452) -/

@[simp ↓] theorem State.regsBut_setChan (c : Nat) (x : Chan) : (s.setChan c x).regsBut l = s.regsBut l := (rfl)
@[simp ↓] theorem State.regsBut_setAcq (n : Nat) (x : AcqStream) : (s.setAcq n x).regsBut l = s.regsBut l := (rfl)
@[simp ↓] theorem State.regsBut_setAo (n : Nat) (x : Ao) : (s.setAo n x).regsBut l = s.regsBut l := (rfl)

@[simp ↓] theorem State.regsBut_noteCfg (g : Group) : (s.noteCfg g).regsBut l = s.regsBut l := by
  unfold State.noteCfg
  split
  · rfl
  · split
    · rfl
    · simp

@[simp ↓] theorem State.regsBut_noteCond (c : Nat) : (s.noteCond c).regsBut l = s.regsBut l := by simp [State.noteCond]

@[simp ↓] theorem State.regsBut_beginSettle {c : Nat} (h : R.ACQ_VCH_STAT.at c ∈ l) : (s.beginSettle c).regsBut l = s.regsBut l := by
  simp (disch := apply id; with_unfolding_all assumption) [State.beginSettle]

@[simp ↓] theorem State.regsBut_vchApplied {n : Nat} (h : R.ACQ_VCH_STAT.at n ∈ l) (old : Nat) :
    (s.vchApplied n old).regsBut l = s.regsBut l := by
  simp (disch := apply id; with_unfolding_all assumption) [State.vchApplied]

@[simp ↓] theorem State.regsBut_orderReset {n : Nat} (h : R.SIG_ST_STAT.at n ∈ l) : (s.orderReset n).regsBut l = s.regsBut l := by
  simp (disch := apply id; with_unfolding_all assumption) [State.orderReset]

@[simp ↓] theorem State.regsBut_outCard (h : cardRegs ⊆ l) (n event : Nat) (detail : List Byte) :
    (s.outCard n event detail).regsBut l = s.regsBut l := s.regsBut_card h _

@[simp ↓] theorem State.regsBut_aoBit {f : Fld} (h : f.reg.at ∈ l) (n : Nat) (b : Bool) : (s.aoBit f n b).regsBut l = s.regsBut l :=
  s.regsBut_fset h _

@[simp ↓] theorem State.regsBut_aoUpdate {n : Nat} (hcard : cardRegs ⊆ l) (hout : R.OUT_STAT.at ∈ l) (hstat : R.OUT_AO_STAT.at n ∈ l)
    (hrback : R.OUT_AO_RBACK.at n ∈ l) : (s.aoUpdate n).regsBut l = s.regsBut l := by
  simp (disch := apply id; with_unfolding_all assumption) [State.aoUpdate]

@[simp ↓] theorem State.regsBut_aoApplied {n : Nat} (hcard : cardRegs ⊆ l) (hout : R.OUT_STAT.at ∈ l) (hstat : R.OUT_AO_STAT.at n ∈ l)
    (hrback : R.OUT_AO_RBACK.at n ∈ l) (old : Nat) : (s.aoApplied n old).regsBut l = s.regsBut l := by
  simp (disch := apply id; with_unfolding_all assumption) [State.aoApplied]

end

/-! ### A group's application -/

/-- What follows the shadows of a group: `old` is its first register before, `changed` whether any staged bit has moved. -/
def State.followGroup (s : State) (g : Group) (old : Nat) (changed : Bool) : State :=
  match g with
  | .vch n => s.vchApplied n old
  | .st n => s.setAcq n { s.acqStream n with hasDef := true }
  | .sig n => if changed then s.orderReset n else s
  | .ao n => s.aoApplied n (bits old 0 3)
  | _ => s

theorem State.regsBut_followGroup (g : Group) (old : Nat) (changed : Bool) :
    (s.followGroup g old changed).regsBut g.statusRegs = s.regsBut g.statusRegs := by
  have hstat := g.statusReg_mem
  have hshared := g.sharedStatusRegs_subset
  cases g with
  | vch n => exact s.regsBut_vchApplied hstat old
  | st n => exact s.regsBut_setAcq n _
  | sig n =>
    cases changed with
    | true => exact s.regsBut_orderReset hstat
    | false => rfl
  | ao n =>
    exact s.regsBut_aoApplied (fun _ h => hshared (List.mem_append_right _ h)) (hshared (by decide)) hstat
      (List.mem_cons_of_mem _ (List.mem_append_right _ (List.mem_singleton.mpr rfl))) (bits old 0 3)
  | ae n | sp n | sl n | dp n | qbv n => rfl

theorem State.applyGroup_of_agrees {s : State} {g : Group} (h : s.agrees g = true) : ∃ old changed,
    s.applyGroup g = (((s.takeShadows g).setDisagree g false).noteCfg g).followGroup g old changed :=
  ⟨_, _, by rw [State.applyGroup, if_pos h]; rfl⟩

/-- The report card of a group that disagrees (R69). -/
def Group.disagreeCard (g : Group) : CardArgs := { block := 4, event := 1, detail := leBytes 4 (g.commit - 0x0200000000) }

theorem State.applyGroup_of_disagrees {s : State} {g : Group} (h : s.agrees g = false) :
    s.applyGroup g = (s.setDisagree g true).card g.disagreeCard := by
  rw [State.applyGroup, h]
  rfl

/-- An agreeing group's application changes no register but status registers and those that take their shadows. -/
theorem State.applyGroup_regsOnly_of_agrees {s : State} {g : Group} (h : s.agrees g = true) :
    (s.takeShadows g).regsOnly (s.applyGroup g) g.statusRegs := by
  obtain ⟨old, changed, heq⟩ := State.applyGroup_of_agrees h
  rw [State.regsOnly_iff_regsBut, heq, State.regsBut_followGroup, State.regsBut_noteCfg,
    State.regsBut_setDisagree _ g.sharedStatusRegs_subset, State.regsBut_setFlag _ g.statusReg_mem]

theorem State.rd_applyGroup_of_agrees {s : State} {g : Group} (hg : g ∈ allGroups) (h : s.agrees g = true) {f : Nat × Word}
    (hf : f ∈ g.fields) : (s.applyGroup g).rd f.1 &&& f.2 = s.shadow f.1 &&& f.2 := by
  rw [State.applyGroup_regsOnly_of_agrees h f.1 (Group.field_not_mem_statusRegs hg hf), State.takeShadows_eq]
  exact State.rd_foldl_takeShadow _ _ (Group.fields_nodup hg) hf

theorem cardRegs_subset_shared : cardRegs ⊆ sharedStatusRegs := List.subset_append_right _ _

/-- A group that disagrees changes its flag, the counters and the event ring's registers alone. -/
theorem State.applyGroup_regsOnly_of_disagrees {s : State} {g : Group} (h : s.agrees g = false) :
    (s.setFlag g.flag.1 true g.flag.2).regsOnly (s.applyGroup g) sharedStatusRegs := by
  rw [State.regsOnly_iff_regsBut, State.applyGroup_of_disagrees h, State.regsBut_card _ cardRegs_subset_shared,
    State.regsBut_setDisagree _ (List.Subset.refl _)]

theorem State.rd_applyGroup_of_disagrees {s : State} {g : Group} (hg : g ∈ allGroups) (h : s.agrees g = false) {f : Nat × Word}
    (hf : f ∈ g.fields) : (s.applyGroup g).rd f.1 = s.rd f.1 := by
  have hnot := Group.field_not_mem_statusRegs hg hf
  have hshared : f.1 ∉ sharedStatusRegs := fun hmem => hnot (g.sharedStatusRegs_subset hmem)
  have hstat : f.1 ≠ g.statusReg := fun heq => hnot (heq ▸ g.statusReg_mem)
  rw [State.applyGroup_regsOnly_of_disagrees h f.1 hshared, s.rd_setFlag_ne _ _ _ _ _ hstat]

theorem Group.flag_fits (g : Group) : g.flag.1.lo + g.flag.1.width ≤ 32 ∧ 0 < g.flag.1.width := by
  cases g <;> exact ⟨Nat.le_of_ble_eq_true rfl, Nat.one_pos⟩

theorem State.flag_applyGroup_of_disagrees {s : State} {g : Group} (hg : g ∈ allGroups) (h : s.agrees g = false) :
    (s.applyGroup g).flag g.flag.1 g.flag.2 = true := by
  obtain ⟨hfit, hwidth⟩ := g.flag_fits
  have hrd := State.applyGroup_regsOnly_of_disagrees h g.statusReg (Group.statusReg_not_mem hg)
  rw [← s.flag_setFlag_self g.flag.1 true g.flag.2 0 hfit hwidth]
  exact congrArg (getField · g.flag.1.lo g.flag.1.width == 1) hrd

/-! ### Commit writes (R67, R68) -/

theorem execStagedCommitWrite_of_go {s : State} {r : Req} {a : Addr} {v : Word} {g : Group} (hr : s.homeReq r)
    (hg : groupCommit a.toNat = some g) (hgo : bit v.toNat 0 = true) : execStagedCommitWrite r a v s = .next (s.commitGroup g) := by
  simp only [execStagedCommitWrite, hg, State.asHome_of_homeReq hr, hgo, if_true]

theorem State.commitGroup_of_free {s : State} {g : Group} (h : s.owner g = none) : s.commitGroup g = (s.disarm g).applyGroup g := by
  simp only [State.commitGroup, h]

theorem State.commitGroup_of_armed {s : State} {g : Group} {n : Nat} (h : s.owner g = some n) (harm : s.isArmed g = true) :
    s.commitGroup g = s := by
  simp only [State.commitGroup, h, harm, if_true]

/-- The state with a group armed for stream `n`, its ARMED bit still to be shown. -/
def State.arm (s : State) (g : Group) (n : Nat) : State := { s with armed := s.armed ++ [(g.commit, n)] }

theorem State.commitGroup_of_unarmed {s : State} {g : Group} {n : Nat} (h : s.owner g = some n) (harm : s.isArmed g = false) :
    s.commitGroup g = (s.arm g n).showArmed g := by
  simp only [State.commitGroup, h, harm, Bool.false_eq_true, if_false, State.arm]

theorem State.arm_only (g : Group) (n : Nat) : s.only (s.arm g n) [.armed] := by
  intro p hp
  cases p
  case armed => simp at hp
  all_goals rfl

/-- Settles O18, by what becomes of the group: applied, refused, armed for its stream, or armed already. -/
theorem commitWritesApplyOrArm : Obligations.CommitWritesApplyOrArm := by
  refine ⟨fun r a v s g hr hg hgo hfree hagree => ?_, fun r a v s g hr hg hgo hfree hbad => ?_,
    fun r a v s g n hr hg hgo hown harm => ?_, fun r a v s g n hr hg hgo hown harm => ?_⟩
  · refine ⟨_, execStagedCommitWrite_of_go hr hg hgo, fun f hf => ?_⟩
    rw [State.commitGroup_of_free hfree, State.rd_applyGroup_of_agrees (groupCommit_mem hg) hagree hf,
      s.shadow_disarm_field (groupCommit_mem hg) hf]
  · refine ⟨_, execStagedCommitWrite_of_go hr hg hgo, fun f hf => ?_, ?_⟩
    · rw [State.commitGroup_of_free hfree, State.rd_applyGroup_of_disagrees (groupCommit_mem hg) hbad hf,
        s.rd_disarm_field (groupCommit_mem hg) hf]
    · rw [State.commitGroup_of_free hfree]
      exact State.flag_applyGroup_of_disagrees (groupCommit_mem hg) hbad
  · have hshow := (s.arm g n).showArmed_only g
    refine ⟨_, execStagedCommitWrite_of_go hr hg hgo, ?_⟩
    rw [State.commitGroup_of_unarmed hown harm]
    refine ⟨hshow .armed (by simp), fun f hf => ?_, ?_⟩
    · exact congrArg (· &&& f.2) ((s.arm g n).rd_showArmed_field (groupCommit_mem hg) hf)
    · exact State.only_trans (State.only_mono (s.arm_only g n) (by simp)) (State.only_mono hshow (by simp))
  · exact ⟨_, execStagedCommitWrite_of_go hr hg hgo, State.commitGroup_of_armed hown harm⟩

/-! ### Field writes (R66, R68) -/

theorem execStagedFieldWrite_of_group {s : State} {r : Req} {a : Addr} {g : Group} (hr : s.homeReq r) (ha : a.toNat ≠ R.SYS_WALLOFS_LO.at)
    (hg : groupAt a.toNat = some g) (v : Word) : execStagedFieldWrite r a v s = .next (s.writeStaged g a.toNat v) := by
  simp only [execStagedFieldWrite, ha, if_false, hg, State.asHome_of_homeReq hr]

/-- A write of a field register before its group is disarmed: `x` is what its bits that are not staged take. -/
def State.stage (s : State) (f : Nat × Word) (v x : Word) : State :=
  let t := s.wr f.1 ((x &&& ~~~f.2) ||| (s.rd f.1 &&& f.2))
  t.setShadow f.1 ((t.shadow f.1 &&& ~~~f.2) ||| (v &&& f.2))

theorem State.writeStaged_eq_stage {a : Nat} {g : Group} {f : Nat × Word} (hf : g.fields.find? (fun f => f.1 == a) = some f)
    (hreg : (findReg a).isSome = true) (v : Word) : ∃ x, s.writeStaged g a v = (s.stage f v x).disarm g := by
  obtain ⟨d, hd⟩ := Option.isSome_iff_exists.mp hreg
  obtain rfl : f.1 = a := by simpa using List.find?_some hf
  refine ⟨d.1.written s.locked (s.rd f.1) v, ?_⟩
  simp only [State.writeStaged, hf, hd, State.stage]
  rw [BitVec.or_comm]

theorem State.stage_only (f : Nat × Word) (v x : Word) : s.only (s.stage f v x) [.regs, .shadows] := by
  intro p hp
  cases p
  case regs | shadows => simp at hp
  all_goals rfl

theorem State.rd_stage_self (f : Nat × Word) (v x : Word) : (s.stage f v x).rd f.1 &&& f.2 = s.rd f.1 &&& f.2 :=
  (congrArg (· &&& f.2) (s.rd_wr_self f.1 _)).trans (merge_and_mask _ _ _)

theorem State.shadow_stage_self (f : Nat × Word) (v x : Word) : (s.stage f v x).shadow f.1 &&& f.2 = v &&& f.2 :=
  (congrArg (· &&& f.2) (State.shadow_setShadow_self _ f.1 _)).trans (merge_and_mask _ _ _)

theorem State.stage_regsOnly (f : Nat × Word) (v x : Word) : s.regsOnly (s.stage f v x) [f.1] :=
  fun _ ha => s.rd_wr_ne _ (List.ne_of_not_mem_cons ha)

/-- Settles O17: the write reaches the field's register and its shadow, and the disarming the ARMED bit alone. -/
theorem stagedWritesTouchShadowsOnly : Obligations.StagedWritesTouchShadowsOnly := by
  intro r a v s g f hr ha hg hfind hreg
  have hmem := List.mem_of_find?_eq_some hfind
  obtain ⟨x, hx⟩ := s.writeStaged_eq_stage hfind hreg v
  obtain hfa : f.1 = a.toNat := by simpa using List.find?_some hfind
  refine ⟨_, execStagedFieldWrite_of_group hr ha hg v, ?_⟩
  rw [hx, ← hfa]
  refine ⟨?_, ?_, State.isArmed_disarm _ g, ?_, ?_⟩
  · rw [State.rd_disarm_field _ (groupAt_mem hg) hmem, s.rd_stage_self]
  · rw [State.shadow_disarm_field _ (groupAt_mem hg) hmem, s.shadow_stage_self]
  · exact State.only_trans (State.only_mono (s.stage_only f v x) (by simp)) (State.only_mono (State.disarm_only _ g) (by simp))
  · exact State.regsOnly_trans (State.regsOnly_mono (s.stage_regsOnly f v x) (by simp))
      (State.regsOnly_mono (State.disarm_regsOnly _ g) fun b => List.mem_cons_of_mem f.1)

end Sys2Proof.Machine
end

section
/-! PROOF. The obligation of spec/02 on BOOT_CTRL (Table 02-13, R60, R61, R71, R73). -/

namespace Sys2Proof.Machine

variable (s : State)

/-! ### The parts of a write, in their order -/

/-- LOCK. -/
def State.lockIf (s : State) (v : Word) : State := if bit v.toNat 0 then s.setLock else s

/-- CONFIRM, where an image runs unconfirmed. -/
def State.confirmIf (s : State) (v : Word) : State :=
  if bit v.toNat 1 ∧ s.fget F.BOOT_STAT_STATE = 2 ∧ s.flag F.BOOT_STAT_CONFIRMED = false then s.confirm else s

/-- RESTART, with UPDATE or without. -/
def State.restartIf (s : State) (v : Word) : State := if bit v.toNat 2 then s.askRestart (bit v.toNat 3) else s

theorem State.writeBootCtrl_eq (v : Word) : s.writeBootCtrl v = ((s.lockIf v).confirmIf v).restartIf v := rfl

/-! ### Frames -/

/-- What a write of BOOT_CTRL may change. -/
def bootCtrlParts : List Part := [.regs, .locked, .boot]
def bootCtrlRegs : List Nat := [R.BOOT_STAT.at, R.BOOT_SLOTRES.at, R.BOOT_ROLLBACK.at]

theorem State.bootCtrl_only (regs : List (Nat × Word)) (locked : Bool) (boot : Boot) :
    s.only { s with regs := regs, locked := locked, boot := boot } bootCtrlParts := by
  intro p hp
  cases p
  case regs | locked | boot => simp [bootCtrlParts] at hp
  all_goals rfl

theorem State.setAvoid_only (k : Nat) (b : Bool) : s.only (s.setAvoid k b) [.regs] := by
  unfold State.setAvoid
  split
  · exact s.wr_only _ _
  · split
    · exact s.wr_only _ _
    · exact s.only_refl _

theorem State.regsBut_setAvoid {l : List Nat} (h : R.BOOT_SLOTRES.at ∈ l) (k : Nat) (b : Bool) :
    (s.setAvoid k b).regsBut l = s.regsBut l := by
  simp (disch := apply id; with_unfolding_all assumption) [State.setAvoid]

/-- The BOOT_STAT bits of a confirmation. -/
def State.showConfirmed (s : State) : State := (s.setFlag F.BOOT_STAT_CONFIRMED true).setFlag F.BOOT_STAT_TRIAL false

theorem State.confirm_eq : s.confirm =
    ((s.showConfirmed.setAvoid s.bootSlot false).setBoot s.boot.confirmed).fset F.BOOT_ROLLBACK_OTPCOUNT s.boot.confirmed.rollback := by
  have hboot : (s.showConfirmed.setAvoid s.bootSlot false).boot = s.boot := State.setAvoid_only _ _ _ .boot (by simp)
  rw [← hboot]
  rfl

theorem State.confirm_boot : s.confirm.boot = s.boot.confirmed := by
  rw [State.confirm_eq]
  rfl

theorem State.confirm_only : s.only s.confirm bootCtrlParts := by
  rw [State.confirm_eq]
  exact State.only_trans (State.bootCtrl_only s s.showConfirmed.regs s.locked s.boot)
    (State.only_trans (State.only_mono (s.showConfirmed.setAvoid_only _ _) (by simp [bootCtrlParts]))
      (State.bootCtrl_only _ _ _ _))

/-- A confirmation changes BOOT_STAT by the two bits it shows there. -/
theorem State.confirm_regsOnly : s.showConfirmed.regsOnly s.confirm [R.BOOT_SLOTRES.at, R.BOOT_ROLLBACK.at] := by
  rw [State.regsOnly_iff_regsBut, State.confirm_eq, State.regsBut_fset _ (by decide)]
  exact State.regsBut_setAvoid _ (by decide) _ _

theorem State.fget_confirm {f : Fld} (hf : f.reg = R.BOOT_STAT) : s.confirm.fget f = s.showConfirmed.fget f := by
  have hrd := s.confirm_regsOnly R.BOOT_STAT.at (by decide)
  rw [State.fget, State.fget, hf, hrd]

theorem State.flag_confirmed_confirm : s.confirm.flag F.BOOT_STAT_CONFIRMED = true := by
  rw [State.flag, State.fget_confirm _ rfl, ← State.flag, State.showConfirmed,
    State.flag_setFlag_other _ F.BOOT_STAT_TRIAL F.BOOT_STAT_CONFIRMED _ _ _ rfl (by decide) (by decide) (by decide),
    State.flag_setFlag_self _ _ _ _ _ (by decide) (by decide)]

theorem State.flag_trial_confirm : s.confirm.flag F.BOOT_STAT_TRIAL = false := by
  rw [State.flag, State.fget_confirm _ rfl, ← State.flag, State.showConfirmed, State.flag_setFlag_self _ _ _ _ _ (by decide) (by decide)]

theorem State.flag_locked_confirm : s.confirm.flag F.BOOT_STAT_LOCKED = s.flag F.BOOT_STAT_LOCKED := by
  rw [State.flag, State.fget_confirm _ rfl, ← State.flag, State.showConfirmed,
    State.flag_setFlag_other _ F.BOOT_STAT_TRIAL F.BOOT_STAT_LOCKED _ _ _ rfl (by decide) (by decide) (by decide),
    State.flag_setFlag_other _ F.BOOT_STAT_CONFIRMED F.BOOT_STAT_LOCKED _ _ _ rfl (by decide) (by decide) (by decide)]

/-! ### LOCK -/

theorem State.lockIf_boot (v : Word) : (s.lockIf v).boot = s.boot := by
  unfold State.lockIf
  split <;> rfl

theorem State.lockIf_locked {v : Word} (h : bit v.toNat 0 = true) : (s.lockIf v).locked = true := by
  rw [State.lockIf, if_pos h]
  rfl

theorem State.flag_locked_lockIf {v : Word} (h : bit v.toNat 0 = true) : (s.lockIf v).flag F.BOOT_STAT_LOCKED = true := by
  rw [State.lockIf, if_pos h, State.setLock]
  exact State.flag_setFlag_self _ _ _ _ _ (by decide) (by decide)

/-- LOCKED alone of BOOT_STAT moves. -/
theorem State.fget_lockIf {f : Fld} (hf : f.reg = R.BOOT_STAT) (hd : f.lo + f.width ≤ 23 ∨ 24 ≤ f.lo) (v : Word) :
    (s.lockIf v).fget f = s.fget f := by
  unfold State.lockIf
  split
  · exact State.fget_setFlag_other { s with locked := true } F.BOOT_STAT_LOCKED f true 0 0 hf (by decide) (by decide) hd
  · rfl

theorem State.lockIf_only (v : Word) : s.only (s.lockIf v) bootCtrlParts := by
  unfold State.lockIf
  split
  · exact s.bootCtrl_only _ _ _
  · exact s.only_refl _

theorem State.lockIf_regsOnly (v : Word) : s.regsOnly (s.lockIf v) bootCtrlRegs := by
  unfold State.lockIf
  split
  · exact State.regsOnly_iff_regsBut.mpr (State.regsBut_setFlag { s with locked := true } (by decide) true)
  · exact s.regsOnly_refl _

/-! ### CONFIRM -/

theorem State.confirmIf_locked (v : Word) : (s.confirmIf v).locked = s.locked := by
  unfold State.confirmIf
  split
  · rw [State.confirm_eq]
    exact State.setAvoid_only s.showConfirmed _ _ .locked (by simp)
  · rfl

theorem State.flag_locked_confirmIf (v : Word) : (s.confirmIf v).flag F.BOOT_STAT_LOCKED = s.flag F.BOOT_STAT_LOCKED := by
  unfold State.confirmIf
  split
  · exact s.flag_locked_confirm
  · rfl

/-- A confirmation leaves a restart that is due, and an update, as they are. -/
theorem State.confirmIf_restart (v : Word) :
    (s.confirmIf v).boot.restartAt = s.boot.restartAt ∧ (s.confirmIf v).boot.update = s.boot.update := by
  unfold State.confirmIf
  split
  · rw [State.confirm_boot]
    exact ⟨rfl, rfl⟩
  · exact ⟨rfl, rfl⟩

theorem State.confirmIf_only (v : Word) : s.only (s.confirmIf v) bootCtrlParts := by
  unfold State.confirmIf
  split
  · exact s.confirm_only
  · exact s.only_refl _

theorem State.confirmIf_regsOnly (v : Word) : s.regsOnly (s.confirmIf v) bootCtrlRegs := by
  unfold State.confirmIf
  split
  · refine State.regsOnly_trans ?_ (State.regsOnly_mono s.confirm_regsOnly (by simp [bootCtrlRegs]))
    rw [State.regsOnly_iff_regsBut, State.showConfirmed, State.regsBut_setFlag _ (by decide), State.regsBut_setFlag _ (by decide)]
  · exact s.regsOnly_refl _

/-! ### RESTART -/

/-- A restart changes the start-up's own state: what is due and when, the update, the slot that asked. -/
theorem State.askRestart_eq (update : Bool) : s.askRestart update =
    s.setBoot { s.boot with restartAt := some (s.boot.restartAt.getD (s.now + 1000000, 4)), update := s.boot.update || update,
                            lastSlot := s.bootSlot } := by
  unfold State.askRestart
  cases s.boot.restartAt <;> rfl

theorem State.restartIf_cases (v : Word) :
    ∃ x, s.restartIf v = s.setBoot x ∧ x.rollback = s.boot.rollback := by
  unfold State.restartIf
  split
  · exact ⟨_, s.askRestart_eq _, rfl⟩
  · exact ⟨s.boot, rfl, rfl⟩

theorem State.restartIf_boot {v : Word} (h : bit v.toNat 2 = true) :
    (s.restartIf v).boot.restartAt = some (s.boot.restartAt.getD (s.now + 1000000, 4)) ∧
    (s.restartIf v).boot.update = (s.boot.update || bit v.toNat 3) := by
  rw [State.restartIf, if_pos h, State.askRestart_eq]
  exact ⟨rfl, rfl⟩

/-! ### The write as a whole -/

theorem State.writeBootCtrl_only (v : Word) : s.only (s.writeBootCtrl v) [.regs, .locked, .boot] := by
  obtain ⟨x, hx, -⟩ := ((s.lockIf v).confirmIf v).restartIf_cases v
  rw [State.writeBootCtrl_eq, hx]
  exact State.only_trans (s.lockIf_only v) (State.only_trans ((s.lockIf v).confirmIf_only v) (State.bootCtrl_only _ _ _ x))

theorem State.writeBootCtrl_regsOnly (v : Word) :
    s.regsOnly (s.writeBootCtrl v) [R.BOOT_STAT.at, R.BOOT_SLOTRES.at, R.BOOT_ROLLBACK.at] := by
  obtain ⟨x, hx, -⟩ := ((s.lockIf v).confirmIf v).restartIf_cases v
  rw [State.writeBootCtrl_eq, hx]
  exact State.regsOnly_trans (s.lockIf_regsOnly v) ((s.lockIf v).confirmIf_regsOnly v)

theorem State.writeBootCtrl_confirm {v : Word} (hv : bit v.toNat 1 = true) (hstate : s.fget F.BOOT_STAT_STATE = 2)
    (hconf : s.flag F.BOOT_STAT_CONFIRMED = false) : (s.writeBootCtrl v).flag F.BOOT_STAT_CONFIRMED = true ∧
    (s.writeBootCtrl v).flag F.BOOT_STAT_TRIAL = false ∧ (s.writeBootCtrl v).boot.rollback = max s.boot.rollback s.boot.imgRollback := by
  have hconfirm : (s.lockIf v).confirmIf v = (s.lockIf v).confirm := by
    rw [State.confirmIf, State.flag, s.fget_lockIf rfl (by decide), s.fget_lockIf rfl (by decide)]
    exact if_pos ⟨hv, hstate, hconf⟩
  obtain ⟨x, hx, hroll⟩ := ((s.lockIf v).confirmIf v).restartIf_cases v
  rw [State.writeBootCtrl_eq, hx]
  rw [hconfirm] at hroll ⊢
  refine ⟨(s.lockIf v).flag_confirmed_confirm, (s.lockIf v).flag_trial_confirm, hroll.trans ?_⟩
  rw [State.confirm_boot, State.lockIf_boot]
  rfl

theorem State.writeBootCtrl_lock {v : Word} (hv : bit v.toNat 0 = true) :
    (s.writeBootCtrl v).locked = true ∧ (s.writeBootCtrl v).flag F.BOOT_STAT_LOCKED = true := by
  obtain ⟨x, hx, -⟩ := ((s.lockIf v).confirmIf v).restartIf_cases v
  rw [State.writeBootCtrl_eq, hx]
  exact ⟨((s.lockIf v).confirmIf_locked v).trans (s.lockIf_locked hv),
    ((s.lockIf v).flag_locked_confirmIf v).trans (s.flag_locked_lockIf hv)⟩

theorem State.writeBootCtrl_restart {v : Word} (hv : bit v.toNat 2 = true) :
    (s.writeBootCtrl v).boot.restartAt = some (s.boot.restartAt.getD (s.now + 1000000, 4)) ∧
    (s.writeBootCtrl v).boot.update = (s.boot.update || bit v.toNat 3) := by
  obtain ⟨hat, hupd⟩ := ((s.lockIf v).confirmIf v).restartIf_boot hv
  obtain ⟨hat', hupd'⟩ := (s.lockIf v).confirmIf_restart v
  have hnow : ((s.lockIf v).confirmIf v).now = s.now := congrArg BitVec.toNat
    (State.only_trans (s.lockIf_only v) ((s.lockIf v).confirmIf_only v) .timebase (by simp [bootCtrlParts]))
  rw [State.writeBootCtrl_eq, hat, hupd, hat', hupd', hnow, State.lockIf_boot]
  exact ⟨rfl, rfl⟩

/-! ### The statement -/

theorem bit_toNat (v : Word) (i : Nat) : bit v.toNat i = v.getLsbD i := by
  simp [bit, bits, BitVec.getLsbD, Nat.testBit_eq_decide_div_mod_eq, Nat.shiftRight_eq_div_pow, beq_eq_decide]

theorem bit_setField (v : Word) {lo w : Nat} (h : lo + w ≤ 32) (hw : 0 < w) (x i : Nat) (hi : lo ≤ i) (hi' : i < lo + w) :
    bit (setField v lo w x).toNat i = x.testBit (i - lo) := by
  rw [bit_toNat, getLsbD_setField _ _ _ _ _ h hw]
  simp [hi, hi']

/-- A write with RESTART and UPDATE as the two bits of `x`. -/
theorem State.writeBootCtrl_restartField (v : Word) {x : Nat} (hx : x.testBit 0 = true) :
    (s.writeBootCtrl (setField v 2 2 x)).boot.restartAt = some (s.boot.restartAt.getD (s.now + 1000000, 4)) ∧
    (s.writeBootCtrl (setField v 2 2 x)).boot.update = (s.boot.update || x.testBit 1) := by
  have hrestart := bit_setField v (lo := 2) (w := 2) (by decide) (by decide) x 2 (by decide) (by decide)
  have hupdate := bit_setField v (lo := 2) (w := 2) (by decide) (by decide) x 3 (by decide) (by decide)
  rw [← hupdate]
  exact s.writeBootCtrl_restart (hrestart.trans hx)

theorem bootCtrl_of_homeReq {s : State} {r : Req} (hr : s.homeReq r) (v : Word) :
    (.next (s.asHome r R.BOOT_CTRL.at (fun s => s.writeBootCtrl v)) : Out State) = .next (s.writeBootCtrl v) := by
  rw [State.asHome_of_homeReq hr]

/-- Settles O9, by the parts of the write: each command sets the bit of its own part. -/
theorem bootControlWritesTakeEffect : Obligations.BootControlWritesTakeEffect := by
  refine ⟨fun r v s hr hstate hconf => ?_, fun r v s hr => ?_, fun r v s hr => ?_, fun r v s hr => ?_⟩
  · have hbit := bit_setField v (lo := 1) (w := 1) (by decide) (by decide) 1 1 (by decide) (by decide)
    obtain ⟨hshown, htrial, hroll⟩ := s.writeBootCtrl_confirm hbit hstate hconf
    exact ⟨_, bootCtrl_of_homeReq hr _, hshown, htrial, hroll, s.writeBootCtrl_only _, s.writeBootCtrl_regsOnly _⟩
  · have hbit := bit_setField v (lo := 0) (w := 1) (by decide) (by decide) 1 0 (by decide) (by decide)
    obtain ⟨hlocked, hshown⟩ := s.writeBootCtrl_lock hbit
    exact ⟨_, bootCtrl_of_homeReq hr _, hlocked, hshown, s.writeBootCtrl_only _, s.writeBootCtrl_regsOnly _⟩
  · obtain ⟨hat, hupdate⟩ := s.writeBootCtrl_restartField v (x := 1) rfl
    exact ⟨_, bootCtrl_of_homeReq hr _, hat, hupdate.trans (Bool.or_false _), s.writeBootCtrl_only _, s.writeBootCtrl_regsOnly _⟩
  · obtain ⟨hat, hupdate⟩ := s.writeBootCtrl_restartField v (x := 3) rfl
    exact ⟨_, bootCtrl_of_homeReq hr _, hat, hupdate.trans (Bool.or_true _), s.writeBootCtrl_only _, s.writeBootCtrl_regsOnly _⟩

end Sys2Proof.Machine
end

section
/-! PROOF. The obligation of spec/02 on key revocation and the confirmation window (Table 02-14, R60, R71), and what a reset leaves. -/

namespace Sys2Proof.Machine

variable (s : State)

/-! ### Violations -/

theorem State.violateBy_boot (r : Req) (kind addr : Nat) : (s.violateBy r kind addr).boot = s.boot := by
  simp [State.violateBy, State.violate, apply_ite State.boot]

/-! ### Revocation -/

/-- OTP and BOOT_REVOKE with the revoked slots of both key kinds. -/
def State.setRevoked (s : State) (sign safe : Nat) : State :=
  ((s.setBoot { s.boot with signRev := sign, safeRev := safe }).fset F.BOOT_REVOKE_SIGNREV sign).fset F.BOOT_REVOKE_SAFEREV safe

theorem State.setRevoked_only (sign safe : Nat) : s.only (s.setRevoked sign safe) [.regs, .boot] := by
  intro p hp
  cases p
  case regs | boot => simp at hp
  all_goals rfl

theorem State.setRevoked_regsOnly (sign safe : Nat) : s.regsOnly (s.setRevoked sign safe) [R.BOOT_REVOKE.at] := by
  rw [State.regsOnly_iff_regsBut, State.setRevoked, State.regsBut_fset _ (by decide), State.regsBut_fset _ (by decide)]
  rfl

/-- While no image runs no slot is in use, and every bit revokes. -/
theorem State.writeRevoke_of_unlocked {s : State} (hlock : s.locked = false) (hstate : s.fget F.BOOT_STAT_STATE ≠ 2) (r : Req) (v : Word) :
    s.writeRevoke r v = s.setRevoked (s.boot.signRev ||| getField v 0 4) (s.boot.safeRev ||| getField v 8 2) := by
  simp [State.writeRevoke, hlock, hstate, State.setRevoked]

theorem State.writeRevoke_of_locked {s : State} (hlock : s.locked = true) {v : Word} (r : Req)
    (hv : v &&& ~~~(s.rd R.BOOT_REVOKE.at) &&& 0x30F ≠ 0) : s.writeRevoke r v = s.violateBy r 0x8 R.BOOT_REVOKE.at := by
  rw [State.writeRevoke, if_pos hlock, if_pos (bne_iff_ne.mpr hv)]

theorem execBootRevokeWrite_of_homeReq {s : State} {r : Req} (hr : s.homeReq r) (v : Word) :
    execBootRevokeWrite r v s = .next (s.writeRevoke r v) := by
  rw [execBootRevokeWrite, State.asHome_of_homeReq hr]

/-! ### Resets -/

theorem State.resetSto_regs : s.resetSto.regs = s.regs := by
  unfold State.resetSto
  refine List.foldlRecOn (motive := fun t : State => t.regs = s.regs) _ _ rfl fun t ht e _ => ?_
  split
  · exact ht
  · split
    · exact ht
    · split <;> exact ht

/-- The state at the release of a reset, before the device shows in its registers what it comes from. -/
def State.released (s : State) (code : Nat) : State := (((s.resetSto.resetRegs code).resetCore code).resetUnits code).resetRest

theorem State.rd_released {code a : Nat} (h : keptReg code a = true) : (s.released code).rd a = s.rd a := by
  have hregs : (s.released code).regs = Sparse.clear (fun a => !keptReg code a) s.resetSto.regs := by
    simp only [Sparse.clear, Bool.not_not]
    rfl
  rw [State.rd, hregs, Sparse.get_clear, h, State.resetSto_regs]
  rfl

/-- The registers in which a reset shows what it comes from and what has outlived it. -/
def resetMarks : List Nat := [R.PWR_RSTCAUSE.at, R.LDG_STAT.at, R.LDG_EVSTAT.at] ++ (List.range 8).map (fun k => R.DME_STAT.at k)

theorem State.regsBut_retiredCores {l : List Nat} (h : ∀ k < 8, R.DME_STAT.at k ∈ l) (old : State) :
    (s.retiredCores old).regsBut l = s.regsBut l := by
  unfold State.retiredCores
  refine List.foldlRecOn (motive := fun t : State => t.regsBut l = s.regsBut l) _ _ rfl fun t ht k hk => ?_
  have hmem := h k (List.mem_range.mp hk)
  split
  · rw [State.regsBut_setFlag _ hmem, State.regsBut_setFlag _ hmem, ht]
  · exact ht

theorem State.retiredCores_only (old : State) : s.only (s.retiredCores old) [.regs] := by
  unfold State.retiredCores
  refine List.foldlRecOn (motive := fun t : State => s.only t [.regs]) _ _ (s.only_refl _) fun t ht k _ => ?_
  split
  · exact State.only_trans ht (t.only_regs _)
  · exact ht

/-- The cause and the key's presence are shown, then the event ring's occupancy. -/
def State.showReset (s : State) (code : Nat) : State :=
  let t := s.fset F.PWR_RSTCAUSE_CAUSE code
  if t.ledger.key = [] then t else t.setFlag F.LDG_STAT_KEYSET true

theorem State.intoReset_eq (code : Nat) : s.intoReset code = (((s.released code).retiredCores s.resetSto).showReset code).evOcc := rfl

theorem State.showReset_only (code : Nat) : s.only (s.showReset code) [.regs] := by
  unfold State.showReset
  dsimp only
  split
  · exact s.only_regs _
  · exact s.only_regs _

theorem State.intoReset_only (code : Nat) : (s.released code).only (s.intoReset code) [.regs] := by
  rw [State.intoReset_eq]
  exact State.only_trans (State.retiredCores_only _ _) (State.only_trans (State.showReset_only _ code) (State.only_regs _ _))

theorem State.intoReset_step (code : Nat) : (s.intoReset code).boot.step = 0 := congrArg Boot.step (s.intoReset_only code .boot (by simp))

theorem State.intoReset_locked (code : Nat) : (s.intoReset code).locked = false := s.intoReset_only code .locked (by simp)

theorem State.intoReset_regsOnly (code : Nat) : (s.released code).regsOnly (s.intoReset code) resetMarks := by
  have hcores : ∀ k < 8, R.DME_STAT.at k ∈ resetMarks := by decide
  rw [State.regsOnly_iff_regsBut, State.intoReset_eq, State.regsBut_evOcc _ (by decide), State.showReset]
  simp (disch := decide) [State.regsBut_retiredCores _ hcores]

/-- A register that a reset keeps reads after it as before. -/
theorem State.rd_intoReset {code a : Nat} (h : keptReg code a = true) (ha : a ∉ resetMarks) : (s.intoReset code).rd a = s.rd a :=
  (s.intoReset_regsOnly code a ha).trans (s.rd_released h)

theorem State.fget_cause_showReset (code : Nat) : (s.showReset code).fget F.PWR_RSTCAUSE_CAUSE = code % 2 ^ 4 := by
  have hcause := s.fget_fset_self F.PWR_RSTCAUSE_CAUSE code 0 0 (by decide) (by decide)
  unfold State.showReset
  dsimp only
  split
  · exact hcause
  · exact (State.fget_fset_ne _ _ _ _ _ _ _ _ (by decide)).trans hcause

theorem State.fget_cause_intoReset (code : Nat) : (s.intoReset code).fget F.PWR_RSTCAUSE_CAUSE = code % 2 ^ 4 := by
  rw [State.intoReset_eq, State.evOcc, State.fget_fset_ne _ _ _ _ _ _ _ _ (by decide), State.fget_fset_ne _ _ _ _ _ _ _ _ (by decide)]
  exact State.fget_cause_showReset _ code

/-! ### The confirmation window -/

theorem execConfirmWindowExpire_of_expired {s : State} (htrial : s.flag F.BOOT_STAT_TRIAL = true) (hleft : s.confirmLeft = 0) :
    execConfirmWindowExpire s = .next ((s.setAvoid s.bootSlot true).intoReset 4) := by
  simp [execConfirmWindowExpire, htrial, hleft]

/-- The avoided mark of a slot. -/
def avoidFld (k : Nat) : Fld := if k = 0 then F.BOOT_SLOTRES_AVOIDA else F.BOOT_SLOTRES_AVOIDB

theorem avoidFld_reg (k : Nat) : (avoidFld k).reg = R.BOOT_SLOTRES := by
  unfold avoidFld
  split <;> rfl

theorem State.flag_setAvoid {k : Nat} (hk : k < 2) (b : Bool) : (s.setAvoid k b).flag (avoidFld k) = b := by
  rcases (by omega : k = 0 ∨ k = 1) with rfl | rfl
  · exact s.flag_setFlag_self F.BOOT_SLOTRES_AVOIDA b 0 0 (by decide) (by decide)
  · exact s.flag_setFlag_self F.BOOT_SLOTRES_AVOIDB b 0 0 (by decide) (by decide)

theorem State.flag_avoid_intoReset (k : Nat) : (s.intoReset 4).flag (avoidFld k) = s.flag (avoidFld k) := by
  have hrd : (s.intoReset 4).rd R.BOOT_SLOTRES.at = s.rd R.BOOT_SLOTRES.at := s.rd_intoReset (by decide) (by decide)
  rw [State.flag, State.fget, avoidFld_reg, hrd, ← avoidFld_reg k, ← State.fget, ← State.flag]

/-- Settles O10: the write by the two states of the lock, the end of the window by the reset that it is. -/
theorem revocationAndConfirmWindow : Obligations.RevocationAndConfirmWindow := by
  refine ⟨fun r v s hr hlock hstate => ?_, fun r v s hr hlock hv => ?_, fun s htrial hleft hslot => ?_⟩
  · refine ⟨_, execBootRevokeWrite_of_homeReq hr v, ?_⟩
    rw [State.writeRevoke_of_unlocked hlock hstate]
    exact ⟨rfl, rfl, s.setRevoked_only _ _, s.setRevoked_regsOnly _ _⟩
  · refine ⟨_, execBootRevokeWrite_of_homeReq hr v, ?_⟩
    rw [State.writeRevoke_of_locked hlock r hv]
    exact ⟨rfl, s.violateBy_boot _ _ _⟩
  · have havoid := s.setAvoid_only s.bootSlot true
    refine ⟨_, execConfirmWindowExpire_of_expired htrial hleft, State.intoReset_step _ 4, State.intoReset_locked _ 4, ?_,
      State.fget_cause_intoReset _ 4, ?_⟩
    · exact (State.timebase_of_clockQueue (State.intoReset_clockQueue_of_keeps _ 4 (by decide) (by decide))).trans
        (havoid .timebase (by simp))
    · exact (State.flag_avoid_intoReset _ s.bootSlot).trans (s.flag_setAvoid hslot true)

end Sys2Proof.Machine
end

section
/-! PROOF. What the operations of on-package memory (spec/03) leave alone, and what a register reads that nothing has written. -/

namespace Sys2Proof.Machine

/-! ### Parts -/

section
variable {s t u : State} {l : List Part} {p : Part}

theorem Part.same_symm (h : p.same s t) : p.same t s := by cases p <;> exact h.symm

theorem State.only_iff_of_only (h : t.only u [p]) (hp : p ∈ l) : s.only u l ↔ s.only t l := by
  have hl : t.only u l := State.only_mono h (by simpa using hp)
  exact ⟨fun k q hq => q.same_trans (k q hq) (Part.same_symm (hl q hq)), fun k => State.only_trans k hl⟩

end

section
variable (s t : State) {l : List Part}

@[simp] theorem State.only_self : s.only s l := s.only_refl l

theorem State.only_ite (c : Prop) [Decidable c] (a b : State) : s.only (if c then a else b) l ↔ if c then s.only a l else s.only b l := by
  split <;> rfl

theorem State.mem_only (m : Memory) : s.only { s with mem := m } [.mem] := by
  intro p hp
  cases p
  case mem => simp at hp
  all_goals rfl

theorem State.memsys_only (m : MemSys) : s.only { s with memsys := m } [.memsys] := by
  intro p hp
  cases p
  case memsys => simp at hp
  all_goals rfl

theorem State.respond_only (error : Bool) (data : List Byte) : s.only (s.respond error data) [.resp] := by
  intro p hp
  cases p
  case resp => simp at hp
  all_goals rfl

/-! An operation on a part of the list keeps the frame. -/

@[simp] theorem State.only_mem_iff (h : .mem ∈ l) (m : Memory) : s.only { t with mem := m } l ↔ s.only t l :=
  State.only_iff_of_only (t.mem_only m) h
@[simp] theorem State.only_memsys_iff (h : .memsys ∈ l) (m : MemSys) : s.only { t with memsys := m } l ↔ s.only t l :=
  State.only_iff_of_only (t.memsys_only m) h
@[simp] theorem State.only_respond_iff (h : .resp ∈ l) (e : Bool) (d : List Byte) : s.only (t.respond e d) l ↔ s.only t l :=
  State.only_iff_of_only (t.respond_only e d) h
@[simp] theorem State.only_regs_iff (h : .regs ∈ l) (x : List (Nat × Word)) : s.only { t with regs := x } l ↔ s.only t l :=
  State.only_iff_of_only (t.only_regs x) h
@[simp] theorem State.only_wr_iff (h : .regs ∈ l) (a : Nat) (v : Word) : s.only (t.wr a v) l ↔ s.only t l :=
  State.only_iff_of_only (t.wr_only a v) h
@[simp] theorem State.only_rset_iff (h : .regs ∈ l) (r : RegDesc) (v i j : Nat) : s.only (t.rset r v i j) l ↔ s.only t l :=
  s.only_wr_iff t h _ _
@[simp] theorem State.only_fset_iff (h : .regs ∈ l) (f : Fld) (v i j : Nat) : s.only (t.fset f v i j) l ↔ s.only t l :=
  s.only_wr_iff t h _ _
@[simp] theorem State.only_setFlag_iff (h : .regs ∈ l) (f : Fld) (b : Bool) (i j : Nat) : s.only (t.setFlag f b i j) l ↔ s.only t l :=
  s.only_wr_iff t h _ _
@[simp] theorem State.only_count_iff (h : .regs ∈ l) (r : RegDesc) (n i j : Nat) : s.only (t.count r n i j) l ↔ s.only t l :=
  s.only_wr_iff t h _ _
@[simp] theorem State.only_countWrap_iff (h : .regs ∈ l) (r : RegDesc) (n i j : Nat) : s.only (t.countWrap r n i j) l ↔ s.only t l :=
  s.only_wr_iff t h _ _
@[simp] theorem State.only_ring_iff (h : .regs ∈ l) (b inc : Nat) : s.only (t.ring b inc) l ↔ s.only t l :=
  s.only_wr_iff t h _ _
@[simp] theorem State.only_violate_iff (h : .regs ∈ l) (c unit kind addr : Nat) :
    s.only (t.violate c unit kind addr) l ↔ s.only t l := by
  simp [State.violate, State.only_ite, h]
@[simp] theorem State.only_violateBy_iff (h : .regs ∈ l) (r : Req) (kind addr : Nat) :
    s.only (t.violateBy r kind addr) l ↔ s.only t l :=
  s.only_violate_iff t h _ _ _ _
@[simp] theorem State.only_setRegion_iff (h : .memsys ∈ l) (n : Nat) (x : Region) : s.only (t.setRegion n x) l ↔ s.only t l :=
  s.only_memsys_iff t h _
@[simp] theorem State.only_setLosses_iff (h : .memsys ∈ l) (bank port n : Nat) : s.only (t.setLosses bank port n) l ↔ s.only t l :=
  s.only_memsys_iff t h _
@[simp] theorem State.only_loseSlot_iff (hr : .regs ∈ l) (hm : .memsys ∈ l) (bank port : Nat) :
    s.only (t.loseSlot bank port) l ↔ s.only t l := by
  simp [State.loseSlot, State.only_ite, hr, hm]
@[simp] theorem State.only_clearConflicts_iff (h : .regs ∈ l) : s.only t.clearConflicts l ↔ s.only t l :=
  s.only_regs_iff t h _
@[simp] theorem State.only_zeroRange_iff (h : .mem ∈ l) (lo hi : Nat) : s.only (t.zeroRange lo hi) l ↔ s.only t l :=
  s.only_mem_iff t h _
@[simp] theorem State.only_wbmTouch_iff (h : .memsys ∈ l) (line : Nat) : s.only (t.wbmTouch line) l ↔ s.only t l := by
  simp only [State.wbmTouch, State.only_ite, s.only_memsys_iff t h, ite_self]

theorem State.only_foldl {α : Type} (f : State → α → State) (h : ∀ u x, s.only (f u x) l ↔ s.only u l) (xs : List α) :
    s.only (xs.foldl f t) l ↔ s.only t l := by
  induction xs generalizing t with
  | nil => rfl
  | cons x xs ih => rw [List.foldl_cons, ih, h]

end

/-! ### Fields by their register -/

section
variable {s t : State} {f : Fld} {i j : Nat}

theorem State.fget_of_rd (h : t.rd (f.reg.at i j) = s.rd (f.reg.at i j)) : t.fget f i j = s.fget f i j := by
  rw [State.fget, State.fget, h]

theorem State.flag_of_rd (h : t.rd (f.reg.at i j) = s.rd (f.reg.at i j)) : t.flag f i j = s.flag f i j := by
  rw [State.flag, State.flag, State.fget_of_rd h]

end

/-! ### Where registers lie -/

theorem RegDesc.at_mono (r : RegDesc) {i i' j j' : Nat} (hi : i ≤ i') (hj : j ≤ j') : r.at i j ≤ r.at i' j' :=
  Nat.add_le_add (Nat.add_le_add_left (Nat.mul_le_mul_left _ hi) _) (Nat.mul_le_mul_left _ hj)

/-- Two registers of one array of register groups lie apart in each group. -/
theorem RegDesc.at_ne_of_base_ne {q r : RegDesc} (h0 : q.s0 = r.s0) (h1 : q.s1 = r.s1) (h : q.base ≠ r.base) (i j : Nat) :
    q.at i j ≠ r.at i j := by
  simp only [RegDesc.at, h0, h1]
  omega

/-- An array of registers lies above every address below its base. -/
theorem RegDesc.ne_at_of_lt {r : RegDesc} {a : Nat} (h : a < r.base) (i j : Nat) : a ≠ r.at i j := by
  have hbase := r.base_le_at i j
  omega

/-- The register found at an address lies there. -/
theorem RegDesc.at_of_index {r : RegDesc} {a i j : Nat} (h : r.index a = some (i, j)) : r.at i j = a ∧ i < r.n0 ∧ j < r.n1 := by
  simp only [RegDesc.index, Option.ite_none_left_eq_some, Option.ite_none_right_eq_some, Option.some.injEq, Prod.mk.injEq] at h
  obtain ⟨hbase, ⟨hi, hj, hrem⟩, rfl, rfl⟩ := h
  refine ⟨?_, hi, hj⟩
  have hle : r.s0 * (if r.s0 = 0 then 0 else (a - r.base) / r.s0) ≤ a - r.base := by
    split
    · simp
    · exact Nat.mul_div_le _ _
  rw [RegDesc.at, hrem]
  omega

/-- An address reads 0 until it is written, unless a register with another reset value reaches over it. -/
theorem regReset_eq_zero {a : Nat} (h : ∀ r ∈ blockRegs ((a - regBase) / 0x10000),
    r.reset = 0 ∨ a < r.base ∨ r.at (r.n0 - 1) (r.n1 - 1) < a) : regReset a = 0 := by
  unfold regReset
  split
  · next r i j hfind =>
    unfold findReg at hfind
    split at hfind
    · cases hfind
    · obtain ⟨q, hq, hindex⟩ := List.exists_of_findSome?_eq_some hfind
      obtain ⟨ij, hij, heq⟩ := Option.map_eq_some_iff.mp hindex
      obtain ⟨rfl, rfl⟩ : q = r ∧ ij = (i, j) := by simpa using heq
      obtain ⟨hat, hi, hj⟩ := RegDesc.at_of_index hij
      have hlast : q.at i j ≤ q.at (q.n0 - 1) (q.n1 - 1) := q.at_mono (by omega) (by omega)
      rcases h q hq with hzero | hlow | hhigh
      · exact hzero
      · have hbase := q.base_le_at i j
        omega
      · omega
  · rfl

end Sys2Proof.Machine
end

section
/-! PROOF. The obligation on the state after reset (R18, R84, R127, R171). -/

namespace Sys2Proof.Machine

/-- At reset a register reads its reset value; BOOT_UNITID_LO alone shows what OTP holds. -/
theorem State.rd_reset {a : Nat} (h : a ≠ R.BOOT_UNITID_LO.at) : State.reset.rd a = regReset a := if_neg h

theorem regReset_bell {b : Nat} (hb : b < 512) : regReset (R.ENG_BELL.at b) = 0 := by
  have hat : R.ENG_BELL.at b = 0x0200061000 + 4 * b := rfl
  refine regReset_eq_zero fun r hr => ?_
  have hblock : (R.ENG_BELL.at b - regBase) / 0x10000 = 6 := by
    rw [hat, regBase]
    omega
  rw [hblock] at hr
  have hother : ∀ r ∈ regsENG, r.reset = 0 ∨ r.at (r.n0 - 1) (r.n1 - 1) < 0x0200061000 := by decide
  exact (hother r hr).imp_right fun hlast => .inr (by omega)

theorem State.bell_reset {b : Nat} (hb : b < 512) : State.reset.bell b = 0 := by
  have hne : R.ENG_BELL.at b ≠ R.BOOT_UNITID_LO.at := (RegDesc.ne_at_of_lt (by decide) b 0).symm
  have hrd : State.reset.rd (R.ENG_BELL.at b) = 0 := (State.rd_reset hne).trans (regReset_bell hb)
  rw [State.bell, State.fget, show F.ENG_BELL_VALUE.reg = R.ENG_BELL from rfl, hrd]
  decide

/-- Settles O3: the bells read the reset value of their registers, the other parts stand in the state itself. -/
theorem resetLeavesStartValues : Obligations.ResetLeavesStartValues :=
  ⟨rfl, fun _ => rfl, fun _ => rfl, fun _ hb => State.bell_reset hb, rfl, rfl, rfl, fun _ => rfl, rfl⟩

end Sys2Proof.Machine
end

section
/-! PROOF. The obligation on check tags (R111, R112): partial writes and whole-block writes. -/

namespace Sys2Proof.Machine

variable (m : Memory)

/-! ### Bytes read -/

/-- Bytes that agree one by one are read as one list. -/
theorem Memory.read_eq {m : Memory} {a : Nat} {l : List Byte}
    (h : ∀ b, a ≤ b → b < a + l.length → m.byte b = l.getD (b - a) 0) : m.read a l.length = l := by
  induction l generalizing a with
  | nil => rfl
  | cons v t ih =>
    have hhead : m.byte a = v := by simpa using h a (Nat.le_refl a) (by simp)
    have htail : m.read (a + 1) t.length = t := ih fun b hlow hhigh => by
      rw [h b (by omega) (by rw [List.length_cons]; omega), show b - a = b - (a + 1) + 1 by omega, List.getD_cons_succ]
    rw [List.length_cons, Memory.read, hhead, htail]

theorem length_padTo (n : Nat) (l : List Byte) : (padTo n l).length = n := by
  simp only [padTo, List.length_append, List.length_take, List.length_replicate]
  omega

/-- A list of the length asked for is not padded. -/
theorem padTo_of_length {n : Nat} {l : List Byte} (h : l.length = n) : padTo n l = l := by
  simp [padTo, ← h]

/-! ### Tags and flags -/

theorem Memory.store_tags (a : Nat) (l : List Byte) : (m.store a l).tagX = m.tagX ∧ (m.store a l).bad = m.bad := by
  induction l generalizing m a with
  | nil => exact ⟨rfl, rfl⟩
  | cons v t ih => exact ih (m.setByte a v) (a + 1)

@[simp] theorem Memory.tagOk_store (a : Nat) (l : List Byte) (k : Nat) : (m.store a l).tagOk k = m.tagOk k := by
  obtain ⟨htag, hbad⟩ := m.store_tags a l
  simp only [Memory.tagOk, Memory.tagDiff, Memory.isBad, htag, hbad]

@[simp] theorem Memory.tagOk_mend (a n k : Nat) : (m.mend a n).tagOk k = m.tagOk k := rfl
@[simp] theorem Memory.isBad_mend (a n k : Nat) : (m.mend a n).isBad k = m.isBad k := rfl
@[simp] theorem Memory.tagDiff_mend (a n k : Nat) : (m.mend a n).tagDiff k = m.tagDiff k := rfl
@[simp] theorem Memory.tagDiff_setBad (k k' : Nat) (b : Bool) : (m.setBad k b).tagDiff k' = m.tagDiff k' := rfl

@[simp] theorem Memory.isBad_setBad_self (k : Nat) (b : Bool) : (m.setBad k b).isBad k = b := Sparse.get_put_self ..
@[simp] theorem Memory.tagDiff_setTagDiff_self (k : Nat) (x : Word) : (m.setTagDiff k x).tagDiff k = x := Sparse.get_put_self ..

theorem Memory.tagOk_setBad_ne {k k' : Nat} (h : k' ≠ k) (b : Bool) : (m.setBad k b).tagOk k' = m.tagOk k' := by
  rw [Memory.tagOk, Memory.isBad, Memory.setBad, Sparse.get_put_ne _ _ _ h]
  rfl

theorem Memory.tagOk_setTagDiff_ne {k k' : Nat} (h : k' ≠ k) (x : Word) : (m.setTagDiff k x).tagOk k' = m.tagOk k' := by
  rw [Memory.tagOk, Memory.tagDiff, Memory.setTagDiff, Sparse.get_put_ne _ _ _ h]
  rfl

/-! ### Writes of a part -/

section
variable {m : Memory} {a : Nat}

theorem Memory.writePart_of_tagOk (h : m.tagOk (a / 256) = true) (l : List Byte) :
    m.writePart a l = ((m.store a l).mend a l.length, false) := by
  rw [Memory.writePart, if_pos h]

theorem Memory.writePart_of_not_tagOk (h : m.tagOk (a / 256) = false) (l : List Byte) :
    m.writePart a l = (((m.store a l).mend a l.length).setBad (a / 256) true, true) := by
  rw [Memory.writePart, if_neg (by simp [h])]

end

theorem Memory.byte_writePart (a : Nat) (l : List Byte) (b : Nat) : (m.writePart a l).1.byte b = (m.store a l).byte b := by
  unfold Memory.writePart
  dsimp only
  split <;> rfl

/-- The tag of the block verifies after the write exactly where it did before. -/
theorem Memory.tagOk_writePart (a : Nat) (l : List Byte) : (m.writePart a l).1.tagOk (a / 256) = m.tagOk (a / 256) := by
  cases h : m.tagOk (a / 256) with
  | true => simp [Memory.writePart_of_tagOk h, h]
  | false => simp [Memory.writePart_of_not_tagOk h, Memory.tagOk]

theorem Memory.read_writePart (a : Nat) (l : List Byte) : (m.writePart a l).1.read a l.length = l :=
  Memory.read_eq fun b hlow hhigh => by rw [m.byte_writePart, m.byte_store, if_pos ⟨hlow, hhigh⟩]

/-! ### Writes of a whole block -/

theorem Memory.tagDiff_writeBlock (k : Nat) (l : List Byte) (x : Word) : (m.writeBlock k l x).tagDiff k = x := by
  simp [Memory.writeBlock]

theorem Memory.isBad_writeBlock (k : Nat) (l : List Byte) (x : Word) : (m.writeBlock k l x).isBad k = false := by
  simp [Memory.writeBlock]

theorem Memory.tagOk_writeBlock_ne {k k' : Nat} (h : k' ≠ k) (l : List Byte) (x : Word) :
    (m.writeBlock k l x).tagOk k' = m.tagOk k' := by
  rw [Memory.writeBlock, Memory.tagOk_mend, Memory.tagOk_setBad_ne _ h, Memory.tagOk_setTagDiff_ne _ h, Memory.tagOk_store]

theorem Memory.byte_writeBlock (k : Nat) (l : List Byte) (x : Word) (b : Nat) :
    (m.writeBlock k l x).byte b = (m.store (k * 256) (padTo 256 l)).byte b := rfl

theorem Memory.read_writeBlock (k : Nat) (l : List Byte) (x : Word) : (m.writeBlock k l x).read (k * 256) 256 = padTo 256 l := by
  have hread : (m.writeBlock k l x).read (k * 256) (padTo 256 l).length = padTo 256 l :=
    Memory.read_eq fun b hlow hhigh => by rw [m.byte_writeBlock, m.byte_store, if_pos ⟨hlow, hhigh⟩]
  rwa [length_padTo] at hread

/-! ### The statement -/

/-- Settles O22: a partial write by whether the block's tag verifies, a whole write by the tag it sets. -/
theorem partialWritesKeepTagsHonest : Obligations.PartialWritesKeepTagsHonest := by
  refine ⟨fun m a l _ => ⟨m.tagOk_writePart a l, ?_, fun h => ?_, m.read_writePart a l, fun b hb => m.byte_writePart_of_ne a l b hb⟩,
    fun m k l => ⟨?_, m.read_writeBlock k l 0, fun k' hk => m.tagOk_writeBlock_ne hk l 0⟩⟩
  · cases h : m.tagOk (a / 256) with
    | true => simp [Memory.writePart_of_tagOk h]
    | false => simp [Memory.writePart_of_not_tagOk h]
  · simp [Memory.writePart_of_not_tagOk h]
  · rw [Memory.tagOk, m.tagDiff_writeBlock, m.isBad_writeBlock]
    rfl

end Sys2Proof.Machine
end

section
/-! PROOF. The obligation on split mode and the conflict counters (R91, R106). -/

namespace Sys2Proof.Machine

variable (s : State)

/-! ### The conflict counters -/

theorem State.rd_clearConflicts (a : Nat) : s.clearConflicts.rd a =
    if R.MEM_CONFBANK.at ≤ a ∧ a < R.MEM_CONFBANK.at 256 ∨ R.MEM_CONFPORT.at ≤ a ∧ a < R.MEM_CONFPORT.at 8 then regReset a
    else s.rd a := by
  simp [State.rd, State.clearConflicts, Sparse.get_clear]

/-- The counters lie at the end of the MEM block, and no register there has a reset value other than 0. -/
theorem regReset_conflict {a : Nat} (hlow : R.MEM_CONFBANK.at ≤ a) (hhigh : a < R.MEM_CONFPORT.at 8) : regReset a = 0 := by
  have hfirst : R.MEM_CONFBANK.at = 0x0200041000 := by decide
  have hlast : R.MEM_CONFPORT.at 8 = 0x0200041420 := by decide
  refine regReset_eq_zero fun r hr => ?_
  have hblock : (a - regBase) / 0x10000 = 4 := by
    rw [regBase]
    omega
  rw [hblock] at hr
  have hother : ∀ r ∈ regsMEM, r.reset = 0 ∨ r.at (r.n0 - 1) (r.n1 - 1) < 0x0200041000 := by decide
  exact (hother r hr).imp_right fun hr => .inr (by omega)

theorem State.rd_confBank_clearConflicts {k : Nat} (hk : k < 256) : s.clearConflicts.rd (R.MEM_CONFBANK.at k) = 0 := by
  have hfirst : R.MEM_CONFBANK.at ≤ R.MEM_CONFBANK.at k := RegDesc.at_mono _ (Nat.zero_le k) (Nat.le_refl 0)
  have hlast : R.MEM_CONFBANK.at k < R.MEM_CONFBANK.at 256 := by
    simp only [RegDesc.at, R.MEM_CONFBANK]
    omega
  rw [State.rd_clearConflicts, if_pos (.inl ⟨hfirst, hlast⟩)]
  exact regReset_conflict hfirst (hlast.trans (by decide))

theorem State.rd_confPort_clearConflicts {k : Nat} (hk : k < 8) : s.clearConflicts.rd (R.MEM_CONFPORT.at k) = 0 := by
  have hfirst : R.MEM_CONFPORT.at ≤ R.MEM_CONFPORT.at k := RegDesc.at_mono _ (Nat.zero_le k) (Nat.le_refl 0)
  have hlast : R.MEM_CONFPORT.at k < R.MEM_CONFPORT.at 8 := by
    simp only [RegDesc.at, R.MEM_CONFPORT]
    omega
  rw [State.rd_clearConflicts, if_pos (.inr ⟨hfirst, hlast⟩)]
  exact regReset_conflict (Nat.le_trans (by decide) hfirst) hlast

/-! ### MEM_CTL -/

/-- What a write of MEM_CTL does before it comes to split mode: CNTFREEZE and SPLIT are kept, CNTCLR clears. -/
def State.memCtlCounters (s : State) (v : Word) : State :=
  let t := (s.setFlag F.MEM_CTL_CNTFREEZE (bit v.toNat 1)).setFlag F.MEM_CTL_SPLIT (bit v.toNat 0)
  if bit v.toNat 2 then t.clearConflicts else t

/-- What it does to split mode. -/
def State.askSplit (s : State) (on : Bool) : State :=
  if on then (if s.flag F.MEM_STAT_SPLITON then s else s.setFlag F.MEM_STAT_SPLITPEND true)
  else (s.setFlag F.MEM_STAT_SPLITPEND false).setFlag F.MEM_STAT_SPLITON false

theorem State.writeMemCtl_eq (v : Word) : s.writeMemCtl v = (s.memCtlCounters v).askSplit (bit v.toNat 0) := rfl

theorem State.writeMemCtl_only (v : Word) : s.only (s.writeMemCtl v) [.regs] := by
  simp [State.writeMemCtl, State.only_ite]

/-- The counters' clearing leaves MEM_CTL and MEM_STAT alone. -/
theorem State.flag_clearConflicts {f : Fld} (h : f.reg = R.MEM_CTL ∨ f.reg = R.MEM_STAT) : s.clearConflicts.flag f = s.flag f := by
  refine State.flag_of_rd ?_
  rw [State.rd_clearConflicts, if_neg]
  rcases h with h | h <;> rw [h] <;> decide

theorem State.flag_split_memCtlCounters (v : Word) : (s.memCtlCounters v).flag F.MEM_CTL_SPLIT = bit v.toNat 0 := by
  have hset := (s.setFlag F.MEM_CTL_CNTFREEZE (bit v.toNat 1)).flag_setFlag_self F.MEM_CTL_SPLIT (bit v.toNat 0) 0 0 (by decide) (by decide)
  unfold State.memCtlCounters
  dsimp only
  split
  · rw [State.flag_clearConflicts _ (.inl rfl), hset]
  · exact hset

theorem State.flag_memStat_memCtlCounters (v : Word) {f : Fld} (h : f.reg = R.MEM_STAT) : (s.memCtlCounters v).flag f = s.flag f := by
  have hne : ∀ g : Fld, g.reg = R.MEM_CTL → f.reg.at ≠ g.reg.at := fun g hg => by
    rw [h, hg]
    decide
  have hset := (s.setFlag F.MEM_CTL_CNTFREEZE (bit v.toNat 1)).flag_setFlag_ne F.MEM_CTL_SPLIT f (bit v.toNat 0) 0 0 0 0 (hne _ rfl)
  rw [State.flag_setFlag_ne _ _ _ _ _ _ _ _ (hne F.MEM_CTL_CNTFREEZE rfl)] at hset
  unfold State.memCtlCounters
  dsimp only
  split
  · rw [State.flag_clearConflicts _ (.inr h), hset]
  · exact hset

/-- MEM_CTL keeps what the write gave it, whatever becomes of split mode; so do the counters. -/
theorem State.rd_askSplit {a : Nat} (h : a ≠ R.MEM_STAT.at) (on : Bool) : (s.askSplit on).rd a = s.rd a := by
  have hpend : ∀ (t : State) (b : Bool), (t.setFlag F.MEM_STAT_SPLITPEND b).rd a = t.rd a := fun t b => t.rd_setFlag_ne _ _ _ _ _ h
  unfold State.askSplit
  split
  · split
    · rfl
    · exact hpend s true
  · exact (State.rd_setFlag_ne _ _ _ _ _ _ h).trans (hpend s false)

theorem State.flag_split_writeMemCtl (v : Word) : (s.writeMemCtl v).flag F.MEM_CTL_SPLIT = bit v.toNat 0 :=
  (State.flag_of_rd ((s.memCtlCounters v).rd_askSplit (by decide) _)).trans (s.flag_split_memCtlCounters v)

/-! ### Split mode -/

theorem State.flag_setFlag_pend (b : Bool) : (s.setFlag F.MEM_STAT_SPLITPEND b).flag F.MEM_STAT_SPLITPEND = b :=
  s.flag_setFlag_self _ _ _ _ (by decide) (by decide)

theorem State.flag_on_setFlag_pend (b : Bool) : (s.setFlag F.MEM_STAT_SPLITPEND b).flag F.MEM_STAT_SPLITON = s.flag F.MEM_STAT_SPLITON :=
  s.flag_setFlag_other _ _ _ _ _ rfl (by decide) (by decide) (by decide)

theorem State.flag_setFlag_on (b : Bool) : (s.setFlag F.MEM_STAT_SPLITON b).flag F.MEM_STAT_SPLITON = b :=
  s.flag_setFlag_self _ _ _ _ (by decide) (by decide)

theorem State.flag_pend_setFlag_on (b : Bool) : (s.setFlag F.MEM_STAT_SPLITON b).flag F.MEM_STAT_SPLITPEND = s.flag F.MEM_STAT_SPLITPEND :=
  s.flag_setFlag_other _ _ _ _ _ rfl (by decide) (by decide) (by decide)

/-- Outside split mode a request is shown pending. -/
theorem State.writeMemCtl_of_request {s : State} {v : Word} (hv : bit v.toNat 0 = true) (hoff : s.flag F.MEM_STAT_SPLITON = false) :
    s.writeMemCtl v = (s.memCtlCounters v).setFlag F.MEM_STAT_SPLITPEND true := by
  have hoff' := (s.flag_memStat_memCtlCounters v (f := F.MEM_STAT_SPLITON) rfl).trans hoff
  rw [State.writeMemCtl_eq, State.askSplit, if_pos hv, if_neg (by simp [hoff'])]

theorem State.writeMemCtl_of_leave {s : State} {v : Word} (hv : bit v.toNat 0 = false) :
    s.writeMemCtl v = ((s.memCtlCounters v).setFlag F.MEM_STAT_SPLITPEND false).setFlag F.MEM_STAT_SPLITON false := by
  rw [State.writeMemCtl_eq, State.askSplit, if_neg (by simp [hv])]

theorem execSplitEnter_of_idle {s : State} (hpend : s.flag F.MEM_STAT_SPLITPEND = true) (hidle : s.allStreamsIdle = true) :
    execSplitEnter s = .next ((s.setFlag F.MEM_STAT_SPLITPEND false).setFlag F.MEM_STAT_SPLITON true) := by
  simp [execSplitEnter, hpend, hidle]

theorem State.memCtlCounters_of_clear {s : State} {v : Word} (hv : bit v.toNat 2 = true) : s.memCtlCounters v =
    ((s.setFlag F.MEM_CTL_CNTFREEZE (bit v.toNat 1)).setFlag F.MEM_CTL_SPLIT (bit v.toNat 0)).clearConflicts := by
  rw [State.memCtlCounters, if_pos hv]

/-! ### The bits that the commands set -/

theorem bit_or_of_set {m : Word} {i : Nat} (h : m.getLsbD i = true) (v : Word) : bit (v ||| m).toNat i = true := by
  rw [bit_toNat, BitVec.getLsbD_or, h, Bool.or_true]

theorem bit_and_of_clear {m : Word} {i : Nat} (h : m.getLsbD i = false) (v : Word) : bit (v &&& m).toNat i = false := by
  rw [bit_toNat, BitVec.getLsbD_and, h, Bool.and_false]

/-! ### The statement -/

/-- Settles O23: the writes of MEM_CTL by their bits, the entry into split mode by its one outcome. -/
theorem splitModeAndConflictCounters : Obligations.SplitModeAndConflictCounters := by
  refine ⟨fun r v s hr hoff => ?_, fun s hpend hidle => ?_, fun r v s hr => ?_, fun r v s hr => ?_⟩
  · have hv : bit (v ||| 1).toNat 0 = true := bit_or_of_set (by decide) v
    refine ⟨s.writeMemCtl (v ||| 1), congrArg _ (State.asHome_of_homeReq hr _ _), ?_, ?_,
      (s.flag_split_writeMemCtl _).trans hv, s.writeMemCtl_only _⟩
    · rw [State.writeMemCtl_of_request hv hoff, State.flag_setFlag_pend]
    · rw [State.writeMemCtl_of_request hv hoff, State.flag_on_setFlag_pend, s.flag_memStat_memCtlCounters _ rfl, hoff]
  · refine ⟨_, execSplitEnter_of_idle hpend hidle, ?_, State.flag_setFlag_on _ _, by simp, ?_⟩
    · rw [State.flag_pend_setFlag_on, State.flag_setFlag_pend]
    · rw [State.regsOnly_iff_regsBut, State.regsBut_setFlag _ (by decide), State.regsBut_setFlag _ (by decide)]
  · have hv : bit (v &&& ~~~1).toNat 0 = false := bit_and_of_clear (by decide) v
    refine ⟨s.writeMemCtl (v &&& ~~~1), congrArg _ (State.asHome_of_homeReq hr _ _), ?_, ?_,
      (s.flag_split_writeMemCtl _).trans hv, s.writeMemCtl_only _⟩
    · rw [State.writeMemCtl_of_leave hv, State.flag_pend_setFlag_on, State.flag_setFlag_pend]
    · rw [State.writeMemCtl_of_leave hv, State.flag_setFlag_on]
  · refine ⟨s.writeMemCtl (v ||| 4), congrArg _ (State.asHome_of_homeReq hr _ _), fun k hk => ?_, fun k hk => ?_, s.writeMemCtl_only _⟩
    all_goals rw [State.writeMemCtl_eq, State.memCtlCounters_of_clear (bit_or_of_set (by decide) v), State.rd_askSplit]
    · exact State.rd_confBank_clearConflicts _ hk
    · exact (RegDesc.ne_at_of_lt (by decide) k 0).symm
    · exact State.rd_confPort_clearConflicts _ hk
    · exact (RegDesc.ne_at_of_lt (by decide) k 0).symm

end Sys2Proof.Machine
end

section
/-! PROOF. The obligation on the shared read cache and row repair (R95, R96, R107 to R109). -/

namespace Sys2Proof.Machine

variable (s : State)

/-! ### The shared read cache -/

theorem Memory.byte_zero (m : Memory) (p : Nat → Bool) (b : Nat) : (m.zero p).byte b = if p b then 0 else m.byte b :=
  Sparse.get_clear ..

theorem State.byte_zeroRange (lo hi b : Nat) : (s.zeroRange lo hi).mem.byte b = if lo ≤ b ∧ b < hi then 0 else s.mem.byte b := by
  simp [State.zeroRange, Memory.byte_zero]

/-- The state with an empty shared read cache. -/
def State.emptyWbm (s : State) : State := { s with memsys := { s.memsys with wbmLines := [] } }

@[simp] theorem State.only_emptyWbm_iff {s t : State} {l : List Part} (h : .memsys ∈ l) : s.only t.emptyWbm l ↔ s.only t l :=
  s.only_memsys_iff t h _

/-- A new size takes effect on an empty cache, and what changes its role reads 0. -/
theorem State.writeWbmCache_of_resize {s : State} {v : Word} (hinval : bit v.toNat 8 = false)
    (hnew : getField v 0 4 ≠ s.fget F.MEM_WBMCACHE_SIZE) (hmax : getField v 0 4 ≤ 8) : s.writeWbmCache v =
      (s.emptyWbm.zeroRange (0x0181000000 - max (s.fget F.MEM_WBMCACHE_SIZE) (getField v 0 4) * 0x100000) 0x0181000000).fset
        F.MEM_WBMCACHE_SIZE (getField v 0 4) := by
  simp [State.writeWbmCache, hinval, hnew, Nat.not_lt.mpr hmax, State.emptyWbm]

theorem State.writeWbmCache_of_invalidate {s : State} {v : Word} (hinval : bit v.toNat 8 = true)
    (hsame : getField v 0 4 = s.fget F.MEM_WBMCACHE_SIZE) :
    s.writeWbmCache v = (s.emptyWbm.rset R.MEM_WBMHIT 0).rset R.MEM_WBMMISS 0 := by
  simp [State.writeWbmCache, hinval, hsame, State.emptyWbm]

theorem mem_wbmInsert_self (mib : Nat) (lines : List Nat) (line : Nat) : line ∈ wbmInsert mib lines line := by simp [wbmInsert]

theorem State.wbmLines_wbmTouch {s : State} (hsize : s.fget F.MEM_WBMCACHE_SIZE ≠ 0) (line : Nat) :
    line ∈ (s.wbmTouch line).memsys.wbmLines := by
  rw [State.wbmTouch, if_neg hsize]
  exact mem_wbmInsert_self _ _ _

theorem State.rget_wbmTouch (line : Nat) (r : RegDesc) (i j : Nat) : (s.wbmTouch line).rget r i j = s.rget r i j := by
  unfold State.wbmTouch
  dsimp only
  split <;> rfl

theorem State.rget_respond (e : Bool) (data : List Byte) (r : RegDesc) (i j : Nat) : (s.respond e data).rget r i j = s.rget r i j := rfl

/-- The count of a miss does not bear on whether a bank is busy. -/
theorem State.bankBusy_count_miss (k : Nat) : (s.count R.MEM_WBMMISS).bankBusy k = s.bankBusy k := by
  have hrd : ∀ a, a ≠ R.MEM_WBMMISS.at → (s.count R.MEM_WBMMISS).rd a = s.rd a := fun a ha => s.rd_count_ne _ _ _ _ _ ha
  have hon : (s.count R.MEM_WBMMISS).fget F.PWR_STAT_CIMON = s.fget F.PWR_STAT_CIMON := State.fget_of_rd (hrd _ (by decide))
  simp only [State.bankBusy, State.dieOn, State.rget, hon, hrd R.STO_BUSY.at (by decide)]

theorem State.wbmSize_count_miss : (s.count R.MEM_WBMMISS).fget F.MEM_WBMCACHE_SIZE = s.fget F.MEM_WBMCACHE_SIZE :=
  State.fget_of_rd (s.rd_count_ne R.MEM_WBMMISS 1 0 0 _ (by decide))

theorem execWbmCacheFill_of_miss {s : State} {r : Req} {a : Addr} {k : Nat} (hloc : s.loc a.toNat = .store k)
    (hsize : s.fget F.MEM_WBMCACHE_SIZE ≠ 0) (huse : usesWbm r = true)
    (hmiss : s.memsys.wbmLines.contains ((a.toNat - 0x1000000000) / 4096 * 4096) = false) (hfree : s.bankBusy k = false) :
    execWbmCacheFill r a s = .next (((s.count R.MEM_WBMMISS).wbmTouch ((a.toNat - 0x1000000000) / 4096 * 4096)).respond false
      (s.sto.read ((a.toNat - 0x1000000000) / 256 * 256) 256)) := by
  simp only [execWbmCacheFill, hloc, hsize, huse, hmiss, State.bankBusy_count_miss, hfree, Bool.not_true, Bool.false_eq_true, or_self,
    if_false]
  rfl

/-! ### Row repair -/

/-- The state that shows a repair in progress. -/
def State.showRepair (s : State) (b : Bool) : State := (s.setFlag F.MEM_REPSTAT_BUSY b).setFlag F.MEM_STAT_REPBUSY b

theorem State.flag_busy_showRepair (b : Bool) : (s.showRepair b).flag F.MEM_REPSTAT_BUSY = b := by
  rw [State.showRepair, State.flag_setFlag_ne _ _ _ _ _ _ _ _ (by decide)]
  exact s.flag_setFlag_self _ _ _ _ (by decide) (by decide)

theorem State.flag_repBusy_showRepair (b : Bool) : (s.showRepair b).flag F.MEM_STAT_REPBUSY = b :=
  State.flag_setFlag_self _ _ _ _ _ (by decide) (by decide)

/-- The state with another repair in progress, or none. -/
def State.setRepair (s : State) (x : Option (Nat × Nat × Nat)) : State := { s with memsys := { s.memsys with repair := x } }

@[simp] theorem State.only_setRepair_iff {s t : State} {l : List Part} (h : .memsys ∈ l) (x : Option (Nat × Nat × Nat)) :
    s.only (t.setRepair x) l ↔ s.only t l :=
  s.only_memsys_iff t h _

theorem State.flag_setRepair (x : Option (Nat × Nat × Nat)) (f : Fld) : (s.setRepair x).flag f = s.flag f := rfl

/-- GO starts the repair that the write names, where none runs. -/
theorem State.writeRepair_of_go {s : State} {v : Word} (hgo : bit v.toNat 0 = true) (hidle : s.flag F.MEM_REPSTAT_BUSY = false) :
    s.writeRepair v = ((s.rset R.MEM_REPAIR (v &&& 0xFFF3FF00).toNat).showRepair true).setRepair
      (some (getField v 28 4, getField v 20 8, getField v 8 10)) := by
  have hkept := s.rd_rset_ne R.MEM_REPAIR (v &&& 0xFFF3FF00).toNat 0 0 F.MEM_REPSTAT_BUSY.reg.at (by decide)
  have hidle' := (State.flag_of_rd hkept).trans hidle
  simp only [State.writeRepair, hgo, hidle', Bool.not_false, Bool.and_self, if_true]
  rfl

/-- GO lies in no field that says which row is repaired. -/
theorem getField_or_one (v : Word) {lo : Nat} (h : 0 < lo) (w : Nat) : getField (v ||| 1) lo w = getField v lo w := by
  refine Nat.eq_of_testBit_eq fun i => ?_
  have hone : (1 : Word).getLsbD (lo + i) = false := by
    rw [show (1 : Word) = 1#32 from rfl, BitVec.getLsbD_one, decide_eq_false (show ¬lo + i = 0 by omega), Bool.and_false]
  rw [testBit_getField, testBit_getField, BitVec.getLsbD_or, hone, Bool.or_false]

/-- The state with the row of the repair among those repaired in the field, and no repair in progress. -/
def State.keepRepair (s : State) (row : Nat × Nat × Nat) : State :=
  { s with memsys := { s.memsys with repair := none, fieldRows := s.memsys.fieldRows ++ [row] } }

@[simp] theorem State.only_keepRepair_iff {s t : State} {l : List Part} (h : .memsys ∈ l) (row : Nat × Nat × Nat) :
    s.only (t.keepRepair row) l ↔ s.only t l :=
  s.only_memsys_iff t h _

/-- A repair that succeeds: its end, its result and the spares left are shown. -/
theorem execRowRepairDone_of_success {s : State} {m b row : Nat} (hrun : s.memsys.repair = some (m, b, row))
    (hok : s.repairResult m b row = 1) : ∃ spares, execRowRepairDone s = .next
      ((((s.keepRepair (m, b, row)).showRepair false).fset F.MEM_REPSTAT_RESULT 1).fset F.MEM_REPSTAT_SPARES spares) := by
  simp only [execRowRepairDone, hrun, hok, if_true]
  exact ⟨_, rfl⟩

/-! ### The statement -/

/-- Settles O25: a write of MEM_WBMCACHE by whether SIZE is new, a missing read, and both ends of a repair. -/
theorem sharedReadCacheAndRowRepair : Obligations.SharedReadCacheAndRowRepair := by
  refine ⟨fun r v s hr hinval hnew hmax => ⟨s.writeWbmCache v, congrArg _ (State.asHome_of_homeReq hr _ _), ?_⟩,
    fun r v s hr hsame => ?_,
    fun r a s k hloc hsize huse hmiss hfree => ⟨_, execWbmCacheFill_of_miss hloc hsize huse hmiss hfree, ?_, rfl, ?_, ?_⟩,
    fun r v s hr hidle => ⟨s.writeRepair (v ||| 1), congrArg _ (State.asHome_of_homeReq hr _ _), ?_⟩, fun m b row s hrun hok => ?_⟩
  · rw [State.writeWbmCache_of_resize hinval hnew hmax]
    refine ⟨?_, rfl, fun b => ?_, by simp⟩
    · rw [State.fget_fset_self _ _ _ _ _ (by decide) (by decide)]
      exact Nat.mod_eq_of_lt (getField_lt v 0 4)
    · rw [State.fset_mem, State.byte_zeroRange]
      rfl
  · have hv : bit (setField v 8 1 1).toNat 8 = true := bit_setField v (by decide) (by decide) 1 8 (by decide) (by decide)
    have hsize := (getField_setField_disjoint v 8 1 1 0 4 (by decide) (by decide) (by decide)).trans hsame
    refine ⟨s.writeWbmCache (setField v 8 1 1), congrArg _ (State.asHome_of_homeReq hr _ _), ?_⟩
    rw [State.writeWbmCache_of_invalidate hv hsize]
    refine ⟨rfl, ?_, State.rget_rset_self _ _ _ _ _, by simp, ?_⟩
    · rw [State.rget_rset_ne _ _ _ _ _ _ _ _ (by decide), State.rget_rset_self, Nat.zero_mod]
    · rw [State.regsOnly_iff_regsBut, State.regsBut_rset _ (by decide), State.regsBut_rset _ (by decide)]
      rfl
  · rw [State.rget_respond, State.rget_wbmTouch, State.rget_count_self]
  · refine List.contains_iff_mem.mpr (State.wbmLines_wbmTouch ?_ _)
    rwa [State.wbmSize_count_miss]
  · simp
  · rw [State.writeRepair_of_go (bit_or_of_set (by decide) v) hidle, getField_or_one v (by decide), getField_or_one v (by decide),
      getField_or_one v (by decide)]
    refine ⟨?_, ?_, rfl, ?_, ?_⟩
    · rw [State.flag_setRepair, State.flag_busy_showRepair]
    · rw [State.flag_setRepair, State.flag_repBusy_showRepair]
    · simp [State.showRepair]
    · rw [State.regsOnly_iff_regsBut, State.setRepair, State.regsBut_mk, State.showRepair, State.regsBut_setFlag _ (by decide),
        State.regsBut_setFlag _ (by decide), State.regsBut_rset _ (by decide)]
  · obtain ⟨spares, hdone⟩ := execRowRepairDone_of_success hrun hok
    refine ⟨_, hdone, ?_, ?_, rfl, rfl, ?_⟩
    · rw [State.flag_fset_other _ F.MEM_REPSTAT_SPARES F.MEM_REPSTAT_BUSY _ _ _ rfl (by decide) (by decide) (by decide),
        State.flag_fset_other _ F.MEM_REPSTAT_RESULT F.MEM_REPSTAT_BUSY _ _ _ rfl (by decide) (by decide) (by decide)]
      exact State.flag_busy_showRepair _ _
    · rw [State.fget_fset_other _ F.MEM_REPSTAT_SPARES F.MEM_REPSTAT_RESULT _ _ _ rfl (by decide) (by decide) (by decide)]
      exact State.fget_fset_self _ _ _ _ _ (by decide) (by decide)
    · simp [State.showRepair]

end Sys2Proof.Machine
end

section
/-! PROOF. The obligation on circular regions (R99, R101 to R105, R594). -/

namespace Sys2Proof.Machine

variable (s : State)

/-! ### What decides where an address lies -/

/-- The registers that decide what lies at an address: the size of the shared read cache, the cores and the split of their L1. -/
def locRegs : List Nat :=
  [R.MEM_WBMCACHE.at, R.SYS_UNITS.at] ++ (List.range 8).map (fun n => R.DME_STAT.at n) ++ (List.range 8).map (fun n => R.MEM_L1CFG.at n)

/-- In the window of the cores' L1 lies what the core's split leaves as scratchpad. -/
theorem State.loc_of_l1Window {a : Nat} (h : 0x01C0000000 ≤ a ∧ a < 0x01C0800000) : s.loc a =
    if s.coreEnabled ((a - 0x01C0000000) / 0x100000) ∧ s.flag F.DME_STAT_RETIRED ((a - 0x01C0000000) / 0x100000) = false ∧
      (a - 0x01C0000000) % 0x100000 < (8 - s.l1Cache ((a - 0x01C0000000) / 0x100000)) * 0x10000
    then .l1 ((a - 0x01C0000000) / 0x100000) else .hole := by
  unfold State.loc
  iterate 8 rw [if_neg (by omega)]
  exact if_pos h

theorem State.loc_congr {s t : State} (h : ∀ a ∈ locRegs, t.rd a = s.rd a) (a : Nat) : t.loc a = s.loc a := by
  have hsize : t.fget F.MEM_WBMCACHE_SIZE = s.fget F.MEM_WBMCACHE_SIZE := State.fget_of_rd (h _ (by decide))
  have hunits : t.fget F.SYS_UNITS_DMECORES = s.fget F.SYS_UNITS_DMECORES := State.fget_of_rd (h _ (by decide))
  by_cases hl1 : 0x01C0000000 ≤ a ∧ a < 0x01C0800000
  · have hcore : ∀ n < 8, t.coreEnabled n = s.coreEnabled n ∧ t.flag F.DME_STAT_RETIRED n = s.flag F.DME_STAT_RETIRED n ∧
        t.l1Cache n = s.l1Cache n := fun n hn =>
      ⟨by rw [State.coreEnabled, State.coreEnabled, hunits],
        State.flag_of_rd (h _ (List.mem_append_left _ (List.mem_append_right _ (List.mem_map_of_mem (List.mem_range.mpr hn))))),
        State.fget_of_rd (h _ (List.mem_append_right _ (List.mem_map_of_mem (List.mem_range.mpr hn))))⟩
    obtain ⟨henabled, hretired, hcache⟩ := hcore ((a - 0x01C0000000) / 0x100000) (by omega)
    rw [t.loc_of_l1Window hl1, s.loc_of_l1Window hl1, henabled, hretired, hcache]
  · simp only [State.loc, hsize, hl1, if_false]

/-! ### Violations -/

/-- The registers of context `c` in which a violation shows. -/
def violRegs (c : Nat) : List Nat := [R.MMU_CTX_VIOL.at c, R.MMU_CTX_VCAPADDR.at c, R.MMU_CTX_VCAPINFO.at c]

theorem State.violate_regsOnly (c unit kind addr : Nat) : s.regsOnly (s.violate c unit kind addr) (violRegs c) := by
  have hviol : R.MMU_CTX_VIOL.at c ∈ violRegs c := by simp [violRegs]
  have haddr : R.MMU_CTX_VCAPADDR.at c ∈ violRegs c := by simp [violRegs]
  have hinfo : R.MMU_CTX_VCAPINFO.at c ∈ violRegs c := by simp [violRegs]
  rw [State.regsOnly_iff_regsBut]
  simp (disch := apply id; with_unfolding_all assumption) [State.violate]

/-! ### The registers of a region -/

/-- The registers that a region has in the model. -/
def crRegs : List RegDesc :=
  [R.MEM_CR_BASE, R.MEM_CR_SIZE, R.MEM_CR_CFG, R.MEM_CR_HEAD, R.MEM_CR_TAIL, R.MEM_CR_ARRIVE, R.MEM_CR_LOST]

/-- They lie between those of the shared read cache and the conflict counters. -/
theorem crRegs_range {r : RegDesc} (hr : r ∈ crRegs) {n : Nat} (hn : n < 64) :
    R.MEM_CR_BASE.at ≤ r.at n ∧ r.at n < R.MEM_CONFBANK.at := by
  have hbounds : ∀ r ∈ crRegs, R.MEM_CR_BASE.at ≤ r.base ∧ r.at 63 < R.MEM_CONFBANK.at := by decide
  obtain ⟨hlow, hhigh⟩ := hbounds r hr
  exact ⟨hlow.trans (r.base_le_at n 0), (r.at_mono (show n ≤ 63 by omega) (Nat.le_refl 0)).trans_lt hhigh⟩

/-- Those of one region lie apart. -/
theorem crRegs_at_ne {q r : RegDesc} (hq : q ∈ crRegs) (hr : r ∈ crRegs) (h : q.base ≠ r.base) (n : Nat) : q.at n ≠ r.at n := by
  have hstride : ∀ r ∈ crRegs, r.s0 = 0x20 ∧ r.s1 = 0 := by decide
  exact RegDesc.at_ne_of_base_ne ((hstride q hq).1.trans (hstride r hr).1.symm) ((hstride q hq).2.trans (hstride r hr).2.symm) h n 0

section
variable {n : Nat}

theorem State.region_setRegion_self (x : Region) : (s.setRegion n x).region n = x := Sparse.get_put_self ..
theorem State.rget_setRegion (x : Region) (r : RegDesc) (i j : Nat) : (s.setRegion n x).rget r i j = s.rget r i j := rfl
theorem State.flag_setRegion (x : Region) (f : Fld) (i j : Nat) : (s.setRegion n x).flag f i j = s.flag f i j := rfl
theorem State.region_rset (k : Nat) (r : RegDesc) (v i j : Nat) : (s.rset r v i j).region k = s.region k := rfl
theorem State.region_countWrap (k : Nat) (r : RegDesc) (m i j : Nat) : (s.countWrap r m i j).region k = s.region k := rfl
theorem State.region_ring (k b inc : Nat) : (s.ring b inc).region k = s.region k := rfl
theorem State.region_setFlag (k : Nat) (f : Fld) (b : Bool) (i j : Nat) : (s.setFlag f b i j).region k = s.region k := rfl

end

/-! ### MEM_CRn_CFG -/

/-- The context of a region after a write: that of an enabled region stays. -/
def State.crCtx (s : State) (n : Nat) (v : Word) : Nat :=
  if s.flag F.MEM_CR_CFG_EN n then s.fget F.MEM_CR_CFG_CTX n else getField v 24 3

/-- The fields that a write of MEM_CRn_CFG sets unchecked: INVALID, and of a disabled region MODE and CTX. -/
def State.crModeFields (s : State) (n : Nat) (v : Word) : State :=
  let t := s.setFlag F.MEM_CR_CFG_INVALID false n
  if s.flag F.MEM_CR_CFG_EN n then t else (t.setFlag F.MEM_CR_CFG_MODE (bit v.toNat 30) n).fset F.MEM_CR_CFG_CTX (s.crCtx n v) n

/-- The fields of the region's bell. -/
def State.crBellFields (s : State) (n : Nat) (v : Word) : State :=
  (s.setFlag F.MEM_CR_CFG_BELLEN (bit v.toNat 15) n).fset F.MEM_CR_CFG_BELL (getField v 0 9) n

/-- What a write of MEM_CRn_CFG does before it comes to EN; a bell that is not the context's is refused. -/
def State.crCfgFields (s : State) (r : Req) (n : Nat) (v : Word) : State :=
  if !bit v.toNat 15 || s.bellOf (s.crCtx n v) (getField v 0 9) then (s.crModeFields n v).crBellFields n v
  else (s.crModeFields n v).violateBy r 0xA (R.MEM_CR_CFG.at n)

/-- A region that is placed as R99 allows, enabled and empty. -/
def State.startRegion (s : State) (n : Nat) : State :=
  ((((s.rset R.MEM_CR_HEAD 0 n).rset R.MEM_CR_TAIL 0 n).rset R.MEM_CR_LOST 0 n).setRegion n Region.idle).setFlag F.MEM_CR_CFG_EN true n

section
variable {s : State} {r : Req} {n : Nat} {v : Word}

theorem State.writeCrCfg_of_enable (hv : bit v.toNat 31 = true) (hen : s.flag F.MEM_CR_CFG_EN n = false)
    (hplaced : (s.crCfgFields r n v).crPlaced n = true) : s.writeCrCfg r n v = (s.crCfgFields r n v).startRegion n :=
  (if_pos hv).trans ((if_neg (by simp [hen])).trans (if_pos hplaced))

theorem State.writeCrCfg_of_clear_idle (hv : bit v.toNat 31 = false) (hen : s.flag F.MEM_CR_CFG_EN n = true)
    (hopened : ((s.crCfgFields r n v).region n).opened = []) : s.writeCrCfg r n v =
      ((s.crCfgFields r n v).setFlag F.MEM_CR_CFG_EN false n).setRegion n { (s.crCfgFields r n v).region n with clearing := false } :=
  (if_neg (by simp [hv])).trans ((if_pos hen).trans (if_pos hopened))

theorem State.writeCrCfg_of_clear_open (hv : bit v.toNat 31 = false) (hen : s.flag F.MEM_CR_CFG_EN n = true)
    (hopened : ((s.crCfgFields r n v).region n).opened ≠ []) : s.writeCrCfg r n v =
      (s.crCfgFields r n v).setRegion n { (s.crCfgFields r n v).region n with clearing := true } :=
  (if_neg (by simp [hv])).trans ((if_pos hen).trans (if_neg hopened))

end

/-! ### What the write of the other fields leaves -/

theorem State.crModeFields_only (n : Nat) (v : Word) : s.only (s.crModeFields n v) [.regs] := by
  simp [State.crModeFields, State.only_ite]

theorem State.crCfgFields_only (r : Req) (n : Nat) (v : Word) : s.only (s.crCfgFields r n v) [.regs] := by
  simp [State.crCfgFields, State.crBellFields, State.only_ite, s.crModeFields_only n v]

theorem State.region_crCfgFields (r : Req) (n : Nat) (v : Word) (k : Nat) : (s.crCfgFields r n v).region k = s.region k :=
  congrArg (fun m : MemSys => Sparse.get (fun _ => Region.idle) m.regions k) (s.crCfgFields_only r n v .memsys (by simp))

theorem State.crModeFields_regsOnly (n : Nat) (v : Word) : s.regsOnly (s.crModeFields n v) [R.MEM_CR_CFG.at n] := by
  have hcfg : R.MEM_CR_CFG.at n ∈ [R.MEM_CR_CFG.at n] := List.mem_singleton_self _
  rw [State.regsOnly_iff_regsBut]
  simp (disch := apply id; with_unfolding_all assumption) [State.crModeFields]

theorem State.crBellFields_regsOnly (n : Nat) (v : Word) : s.regsOnly (s.crBellFields n v) [R.MEM_CR_CFG.at n] := by
  have hcfg : R.MEM_CR_CFG.at n ∈ [R.MEM_CR_CFG.at n] := List.mem_singleton_self _
  rw [State.regsOnly_iff_regsBut]
  simp (disch := apply id; with_unfolding_all assumption) [State.crBellFields]

/-- The requester's context is read from no register of a region. -/
theorem State.ctxOf_crModeFields {n : Nat} (hn : n < 64) (r : Req) (v : Word) : (s.crModeFields n v).ctxOf r = s.ctxOf r := by
  have hlow := (crRegs_range (r := R.MEM_CR_CFG) (by decide) hn).2
  have hrd : ∀ a, R.MEM_CONFBANK.at ≤ a → (s.crModeFields n v).rd a = s.rd a := fun a ha =>
    s.crModeFields_regsOnly n v a (by rw [List.mem_singleton]; omega)
  have hsto : (s.crModeFields n v).fget F.STO_RINGCFG_CTX = s.fget F.STO_RINGCFG_CTX := State.fget_of_rd (hrd _ (by decide))
  have hcimp : ∀ d, (s.crModeFields n v).fget F.CIMP_RINGCFG_CTX d = s.fget F.CIMP_RINGCFG_CTX d := fun d =>
    State.fget_of_rd (hrd _ (Nat.le_trans (by decide) (RegDesc.base_le_at R.CIMP_RINGCFG d 0)))
  have honly := s.crModeFields_only n v
  have h0 : (s.crModeFields n v).lyctx0 = s.lyctx0 := honly .lyctx0 (by simp)
  have h1 : (s.crModeFields n v).lyctx1 = s.lyctx1 := honly .lyctx1 (by simp)
  have hstreams : (s.crModeFields n v).streams = s.streams := honly .streams (by simp)
  cases r <;> simp only [State.ctxOf, State.lyctx, State.stream, h0, h1, hstreams, hsto, hcimp]

/-- EN stays as it was, INVALID clears. -/
theorem State.flags_crModeFields (n : Nat) (v : Word) :
    (s.crModeFields n v).flag F.MEM_CR_CFG_EN n = s.flag F.MEM_CR_CFG_EN n ∧
    (s.crModeFields n v).flag F.MEM_CR_CFG_INVALID n = false := by
  unfold State.crModeFields
  dsimp only
  split
  all_goals
    simp (disch := decide) only [State.flag_fset_other, State.flag_setFlag_other, State.flag_setFlag_self, and_self]

theorem State.flag_crBellFields {f : Fld} (hf : f = F.MEM_CR_CFG_EN ∨ f = F.MEM_CR_CFG_INVALID) (n : Nat) (v : Word) :
    (s.crBellFields n v).flag f n = s.flag f n := by
  rcases hf with rfl | rfl
  all_goals simp (disch := decide) only [State.crBellFields, State.flag_fset_other, State.flag_setFlag_other]

section
variable {s : State} {r : Req} {n : Nat} {v : Word} (hn : n < 64) (hctx : s.ctxOf r = 0)
include hn hctx

/-- A refused bell shows as a violation of the requester's context. -/
theorem State.crCfgFields_of_home : (s.crCfgFields r n v) = (s.crModeFields n v).crBellFields n v ∨
    (s.crCfgFields r n v) = (s.crModeFields n v).violate 0 (unitOf r) 0xA (R.MEM_CR_CFG.at n) := by
  unfold State.crCfgFields
  split
  · exact .inl rfl
  · exact .inr (by rw [State.violateBy, s.ctxOf_crModeFields hn, hctx])

theorem State.crCfgFields_regsOnly : s.regsOnly (s.crCfgFields r n v) (R.MEM_CR_CFG.at n :: violRegs 0) := by
  refine State.regsOnly_trans (State.regsOnly_mono (s.crModeFields_regsOnly n v) (by simp)) ?_
  rcases State.crCfgFields_of_home hn hctx (v := v) with h | h
  · rw [h]
    exact State.regsOnly_mono (State.crBellFields_regsOnly _ n v) (by simp)
  · rw [h]
    exact State.regsOnly_mono (State.violate_regsOnly _ _ _ _ _) fun a => List.mem_cons_of_mem _

/-- A register that is not the region's MEM_CRn_CFG and shows no violation of home reads as before. -/
theorem State.rd_crCfgFields {a : Nat} (hcfg : a ≠ R.MEM_CR_CFG.at n) (hviol : a ∉ violRegs 0) :
    (s.crCfgFields r n v).rd a = s.rd a :=
  State.crCfgFields_regsOnly hn hctx a (by simp [hcfg, hviol])

theorem State.flag_crCfgFields {f : Fld} (hf : f = F.MEM_CR_CFG_EN ∨ f = F.MEM_CR_CFG_INVALID) :
    (s.crCfgFields r n v).flag f n = (s.crModeFields n v).flag f n := by
  have hreg : f.reg = R.MEM_CR_CFG := by rcases hf with rfl | rfl <;> rfl
  rcases State.crCfgFields_of_home hn hctx (v := v) with h | h
  · rw [h, State.flag_crBellFields _ hf]
  · rw [h]
    refine State.flag_of_rd (State.violate_regsOnly _ _ _ _ _ _ fun hmem => ?_)
    have hlow := (crRegs_range (r := R.MEM_CR_CFG) (by decide) hn).2
    have hviol : ∀ a ∈ violRegs 0, R.MEM_CONFBANK.at ≤ a := by decide
    have hhigh := hviol _ hmem
    rw [hreg] at hhigh
    omega

/-- The write does not move the region. -/
theorem State.crPlaced_crCfgFields : (s.crCfgFields r n v).crPlaced n = s.crPlaced n := by
  have hviol : ∀ a ∈ violRegs 0, R.MEM_CONFBANK.at ≤ a := by decide
  have hcr : ∀ q ∈ crRegs, q.base ≠ R.MEM_CR_CFG.base → (s.crCfgFields r n v).rd (q.at n) = s.rd (q.at n) := fun q hq hne =>
    State.rd_crCfgFields hn hctx (crRegs_at_ne hq (by decide) hne n) fun hmem => by
      have hlow := (crRegs_range hq hn).2
      have hhigh := hviol _ hmem
      omega
  have hloc : ∀ a, (s.crCfgFields r n v).loc a = s.loc a := State.loc_congr fun a ha => by
    have hapart : ∀ a ∈ locRegs, a ∉ violRegs 0 ∧ (a < R.MEM_CR_BASE.at ∨ R.MEM_CONFBANK.at ≤ a) := by decide
    obtain ⟨hnot, hrange⟩ := hapart a ha
    have hcfg := crRegs_range (r := R.MEM_CR_CFG) (by decide) hn
    exact State.rd_crCfgFields hn hctx (by omega) hnot
  have hbase : (s.crCfgFields r n v).crBase n = s.crBase n := by
    rw [State.crBase, State.crBase, State.rget, State.rget, hcr _ (by decide) (by decide)]
  have hsize : (s.crCfgFields r n v).crSize n = s.crSize n := by
    rw [State.crSize, State.crSize, State.fget_of_rd (hcr R.MEM_CR_SIZE (by decide) (by decide))]
  simp only [State.crPlaced, hbase, hsize, hloc]

end

/-! ### Enabling -/

theorem State.startRegion_only {t : State} (h : s.only t [.regs]) (n : Nat) : s.only (t.startRegion n) [.regs, .memsys] := by
  have hregs : s.only t [.regs, .memsys] := State.only_mono h (by simp)
  simp [State.startRegion, hregs]

/-- EN is set; the other fields of MEM_CRn_CFG stay. -/
theorem State.flags_startRegion (n : Nat) : (s.startRegion n).flag F.MEM_CR_CFG_EN n = true ∧
    (s.startRegion n).flag F.MEM_CR_CFG_INVALID n = s.flag F.MEM_CR_CFG_INVALID n := by
  have hne : ∀ q ∈ crRegs, q.base ≠ R.MEM_CR_CFG.base → R.MEM_CR_CFG.at n ≠ q.at n := fun q hq h =>
    (crRegs_at_ne hq (by decide) h n).symm
  refine ⟨State.flag_setFlag_self _ _ _ _ _ (by decide) (by decide), ?_⟩
  rw [State.startRegion, State.flag_setFlag_other _ F.MEM_CR_CFG_EN F.MEM_CR_CFG_INVALID _ _ _ rfl (by decide) (by decide) (by decide),
    State.flag_setRegion]
  refine State.flag_of_rd ?_
  rw [show F.MEM_CR_CFG_INVALID.reg = R.MEM_CR_CFG from rfl, State.rd_rset_ne _ _ _ _ _ _ (hne R.MEM_CR_LOST (by decide) (by decide)),
    State.rd_rset_ne _ _ _ _ _ _ (hne R.MEM_CR_TAIL (by decide) (by decide)),
    State.rd_rset_ne _ _ _ _ _ _ (hne R.MEM_CR_HEAD (by decide) (by decide))]

theorem State.counts_startRegion (n : Nat) : (s.startRegion n).crHead n = 0 ∧ (s.startRegion n).crTail n = 0 ∧
    (s.startRegion n).rget R.MEM_CR_LOST n = 0 := by
  have hne : ∀ q ∈ crRegs, ∀ r ∈ crRegs, q.base ≠ r.base → q.at n ≠ r.at n := fun q hq r hr h => crRegs_at_ne hq hr h n
  have hset : ∀ r ∈ crRegs, r.base ≠ R.MEM_CR_CFG.base → (s.startRegion n).rget r n =
      (((s.rset R.MEM_CR_HEAD 0 n).rset R.MEM_CR_TAIL 0 n).rset R.MEM_CR_LOST 0 n).rget r n := fun r hr h => by
    rw [State.startRegion, State.setFlag, State.rget_fset_ne _ F.MEM_CR_CFG_EN r _ _ _ _ _ (hne r hr _ (by decide) h),
      State.rget_setRegion]
  rw [State.crHead, State.crTail, hset _ (by decide) (by decide), hset _ (by decide) (by decide), hset _ (by decide) (by decide)]
  refine ⟨?_, ?_, ?_⟩
  · rw [State.rget_rset_ne _ _ _ _ _ _ _ _ (hne _ (by decide) _ (by decide) (by decide)),
      State.rget_rset_ne _ _ _ _ _ _ _ _ (hne _ (by decide) _ (by decide) (by decide)), State.rget_rset_self, Nat.zero_mod]
  · rw [State.rget_rset_ne _ _ _ _ _ _ _ _ (hne _ (by decide) _ (by decide) (by decide)), State.rget_rset_self, Nat.zero_mod]
  · rw [State.rget_rset_self, Nat.zero_mod]

theorem State.region_startRegion (n : Nat) : (s.startRegion n).region n = Region.idle := by
  rw [State.startRegion, State.region_setFlag, State.region_setRegion_self]

/-! ### Releases -/

section
variable {s : State} {c unit n cnt : Nat} (hunits : cnt % 256 = 0)
include hunits

theorem State.releaseRegion_of_le (h : cnt ≤ ringDiff (s.crHead n) (s.crTail n)) :
    s.releaseRegion c unit n cnt = s.rset R.MEM_CR_TAIL ((s.crTail n + cnt) % 2 ^ 32) n := by
  rw [State.releaseRegion, if_neg (not_not_intro hunits), if_neg (Nat.not_lt.mpr h)]

theorem State.releaseRegion_of_lt (h : ringDiff (s.crHead n) (s.crTail n) < cnt) : s.releaseRegion c unit n cnt =
    (s.rset R.MEM_CR_TAIL (s.crHead n) n).violate c unit 0x9 (R.MEM_CR_RELEASE.at n) := by
  rw [State.releaseRegion, if_neg (not_not_intro hunits), if_pos h]

end

theorem execRegionRelease_of_homeReq {s : State} {r : Req} (hr : s.homeReq r) (n : Fin 64) (v : Word) :
    execRegionRelease r n v s = .next (s.releaseRegion 0 (unitOf r) n.val v.toNat) := by
  obtain ⟨hon, hctx, hen⟩ := hr
  rw [execRegionRelease, State.asCtx_of_ok _ _ _ hon (hctx ▸ hen) (by simp [hctx]), hctx]

/-! ### Arrivals -/

section
variable {s : State} {n unit tag len : Nat}

/-- An arrival for which there is room overwrites nothing. -/
theorem State.openArrival_of_room (hfits : ringDiff (s.region n).res (s.crTail n) + len ≤ s.crSize n) :
    s.openArrival n unit tag len = s.setRegion n { s.region n with
      res := ((s.region n).res + roundUp len 256) % 2 ^ 32,
      opened := (s.region n).opened ++ [⟨unit, tag, (s.region n).res, roundUp len 256, false, false, false⟩],
      waiting := (s.region n).waiting.filter (fun w => !(w.1 == unit && w.2.1 == tag)) } := by
  have hroom : s.overwrite n len = s := if_pos hfits
  simp only [State.openArrival, hroom]

/-- Where no arrival is open and none waits, one that fits starts. -/
theorem State.startArrival_of_room (hopen : s.crOpen n = true) (hopened : (s.region n).opened = []) (hwaiting : (s.region n).waiting = [])
    (hfits : ringDiff (s.region n).res (s.crTail n) + len ≤ s.crSize n) (c : Nat) :
    s.startArrival n c unit tag len = (.started, s.openArrival n unit tag len) := by
  simp [State.startArrival, hopen, hopened, hwaiting, State.arrivalFits, hfits]

end

theorem execArrivalStart_of_room {s : State} {n : Fin 64} {len : Word} (hopen : s.crOpen n.val = true)
    (hopened : (s.region n.val).opened = []) (hwaiting : (s.region n.val).waiting = [])
    (hfits : ringDiff (s.region n.val).res (s.crTail n.val) + len.toNat ≤ s.crSize n.val) (p : Req) (tag : Nat) :
    execArrivalStart n p tag len s = .next (s.openArrival n.val (unitOf p) tag len.toNat) := by
  rw [execArrivalStart, State.startArrival_of_room hopen hopened hwaiting hfits]

/-- The front arrival of a region completes, with `rest` left open: HEAD advances, ARRIVE counts, the region's bell rings. -/
def State.completeFront (s : State) (n len : Nat) (rest : List Arrival) : State :=
  let t := s.setRegion n { s.region n with opened := rest }
  let t := (t.rset R.MEM_CR_HEAD ((t.crHead n + len) % 2 ^ 32) n).countWrap R.MEM_CR_ARRIVE 1 n
  if t.flag F.MEM_CR_CFG_BELLEN n then t.ring (t.fget F.MEM_CR_CFG_BELL n) 1 else t

/-- A clearing region whose last arrival has ended becomes disabled. -/
def State.endClearing (s : State) (n : Nat) : State :=
  if (s.region n).clearing then (s.setFlag F.MEM_CR_CFG_EN false n).setRegion n { s.region n with clearing := false } else s

section
variable {s : State} {n : Nat}

theorem State.retireArrivals_of_none (h : (s.region n).opened = []) (fuel : Nat) : s.retireArrivals n (fuel + 1) = s.endClearing n := by
  rw [State.retireArrivals, h]
  rfl

theorem State.retireArrivals_of_done {a : Arrival} {rest : List Arrival} (h : (s.region n).opened = a :: rest) (hdone : a.done = true)
    (hkept : a.abandoned = false) (fuel : Nat) :
    s.retireArrivals n (fuel + 1) = (s.completeFront n a.len rest).retireArrivals n fuel := by
  rw [State.retireArrivals, h]
  simp only [hdone, hkept, Bool.not_true, Bool.false_eq_true, if_false]
  rfl

end

theorem State.completeFront_only (n len : Nat) (rest : List Arrival) : s.only (s.completeFront n len rest) [.regs, .memsys] := by
  simp [State.completeFront, State.only_ite]

theorem State.endClearing_only (n : Nat) : s.only (s.endClearing n) [.regs, .memsys] := by
  simp [State.endClearing, State.only_ite]

theorem State.region_completeFront (n len : Nat) (rest : List Arrival) :
    (s.completeFront n len rest).region n = { s.region n with opened := rest } := by
  unfold State.completeFront
  dsimp only
  split
  · rw [State.region_ring, State.region_countWrap, State.region_rset, State.region_setRegion_self]
  · rw [State.region_countWrap, State.region_rset, State.region_setRegion_self]

theorem State.opened_endClearing (n : Nat) : ((s.endClearing n).region n).opened = (s.region n).opened := by
  unfold State.endClearing
  split
  · rw [State.region_setRegion_self]
  · rfl

/-- The end of a clearing changes EN alone. -/
theorem State.rd_endClearing {n a : Nat} (h : a ≠ R.MEM_CR_CFG.at n) : (s.endClearing n).rd a = s.rd a := by
  unfold State.endClearing
  split
  · exact s.rd_setFlag_ne F.MEM_CR_CFG_EN false n 0 a h
  · rfl

theorem State.rget_ring_of_lt {r : RegDesc} {i j : Nat} (h : r.at i j < R.ENG_BELL.base) (b inc : Nat) :
    (s.ring b inc).rget r i j = s.rget r i j :=
  s.rget_fset_ne F.ENG_BELL_VALUE r _ _ _ _ _ (RegDesc.ne_at_of_lt h _ _)

/-- The counts of a region lie apart from the bells. -/
theorem State.counts_completeFront {n : Nat} (hn : n < 64) (len : Nat) (rest : List Arrival) :
    (s.completeFront n len rest).crHead n = (s.crHead n + len) % 2 ^ 32 ∧
    (s.completeFront n len rest).rget R.MEM_CR_ARRIVE n = (s.rget R.MEM_CR_ARRIVE n + 1) % 2 ^ 32 := by
  have hbell : ∀ q ∈ crRegs, q.at n < R.ENG_BELL.base := fun q hq => (crRegs_range hq hn).2.trans (by decide)
  have hne : R.MEM_CR_HEAD.at n ≠ R.MEM_CR_ARRIVE.at n := crRegs_at_ne (by decide) (by decide) (by decide) n
  have hcounts : ∀ t : State,
      ((t.rset R.MEM_CR_HEAD ((t.crHead n + len) % 2 ^ 32) n).countWrap R.MEM_CR_ARRIVE 1 n).rget R.MEM_CR_HEAD n =
        (t.crHead n + len) % 2 ^ 32 ∧
      ((t.rset R.MEM_CR_HEAD ((t.crHead n + len) % 2 ^ 32) n).countWrap R.MEM_CR_ARRIVE 1 n).rget R.MEM_CR_ARRIVE n =
        (t.rget R.MEM_CR_ARRIVE n + 1) % 2 ^ 32 := fun t => by
    rw [State.rget_countWrap_self, State.countWrap, State.rget_rset_ne _ _ _ _ _ _ _ _ hne, State.rget_rset_self, Nat.mod_mod,
      State.rget_rset_ne _ _ _ _ _ _ _ _ hne.symm]
    exact ⟨rfl, rfl⟩
  unfold State.completeFront
  dsimp only
  split
  · rw [State.crHead, State.rget_ring_of_lt _ (hbell _ (by decide)), State.rget_ring_of_lt _ (hbell _ (by decide))]
    exact hcounts _
  · exact hcounts _

/-- The one open arrival of a region completes as soon as its bytes are visible. -/
theorem State.finishArrival_of_single {s : State} {n unit tag : Nat} {a : Arrival} (hopened : (s.region n).opened = [a])
    (hunit : a.unit = unit) (htag : a.tag = tag) (hwindow : a.window = false) : s.finishArrival n unit tag false =
      ((s.setRegion n { s.region n with
        opened := [{ a with done := true, abandoned := false }],
        waiting := (s.region n).waiting.filter (fun w => !(w.1 == unit && w.2.1 == tag)) }).completeFront n a.len []).endClearing n := by
  have hdone : (s.region n).opened.map (fun a => if a.unit = unit ∧ a.tag = tag ∧ a.window = false then
      { a with done := true, abandoned := false } else a) = [{ a with done := true, abandoned := false }] := by
    simp [hopened, hunit, htag, hwindow]
  have hlen : (s.region n).opened.length + 1 = 1 + 1 := by rw [hopened, List.length_singleton]
  rw [State.finishArrival, hdone, hlen,
    State.retireArrivals_of_done (by rw [State.region_setRegion_self]) rfl rfl,
    State.retireArrivals_of_none (by rw [State.region_completeFront])]

/-! ### The statement -/

/-- Settles O26: a write of MEM_CRn_CFG by EN before and after it and by what is open, a release by the fill, an arrival's start and end. -/
theorem circularRegionsCountBytes : Obligations.CircularRegionsCountBytes := by
  refine ⟨fun r n v s hr hen hplaced => ?_, fun r n v s hr hen hopened => ?_, fun r n v s hr hen hopened => ?_,
    fun r n v s hr hunits hle => ⟨_, execRegionRelease_of_homeReq hr n v, State.releaseRegion_of_le hunits hle⟩,
    fun r n v s hr hunits hlt => ⟨_, execRegionRelease_of_homeReq hr n v, State.releaseRegion_of_lt hunits hlt⟩,
    fun n p tag len s hopen hopened hwaiting hfits => ?_, fun n p tag a s hopened hunit htag hwindow => ?_⟩
  · have hctx : s.ctxOf r = 0 := hr.2.1
    have hv : bit (setField v 31 1 1).toNat 31 = true := bit_setField v (by decide) (by decide) 1 31 (by decide) (by decide)
    have hplaced' := (State.crPlaced_crCfgFields (v := setField v 31 1 1) n.isLt hctx).trans hplaced
    obtain ⟨hon, hinvalid⟩ := (s.crCfgFields r n.val (setField v 31 1 1)).flags_startRegion n.val
    obtain ⟨hhead, htail, hlost⟩ := (s.crCfgFields r n.val (setField v 31 1 1)).counts_startRegion n.val
    refine ⟨s.writeCrCfg r n.val (setField v 31 1 1), congrArg _ (State.asHome_of_homeReq hr _ _), ?_⟩
    rw [State.writeCrCfg_of_enable hv hen hplaced']
    refine ⟨hon, hinvalid.trans ?_, hhead, htail, hlost, State.region_startRegion _ _,
      State.startRegion_only s (s.crCfgFields_only _ _ _) _⟩
    exact (State.flag_crCfgFields n.isLt hctx (.inr rfl)).trans (s.flags_crModeFields _ _).2
  · have hv : bit (setField v 31 1 0).toNat 31 = false := bit_setField v (by decide) (by decide) 0 31 (by decide) (by decide)
    have hopened' := (congrArg Region.opened (s.region_crCfgFields r n.val (setField v 31 1 0) n.val)).trans hopened
    have honly : s.only (s.crCfgFields r n.val (setField v 31 1 0)) [.regs, .memsys] :=
      State.only_mono (s.crCfgFields_only _ _ _) (by simp)
    refine ⟨s.writeCrCfg r n.val (setField v 31 1 0), congrArg _ (State.asHome_of_homeReq hr _ _), ?_⟩
    rw [State.writeCrCfg_of_clear_idle hv hen hopened']
    refine ⟨?_, ?_, by simp [honly]⟩
    · rw [State.flag_setRegion]
      exact State.flag_setFlag_self _ _ _ _ _ (by decide) (by decide)
    · rw [State.region_setRegion_self]
  · have hctx : s.ctxOf r = 0 := hr.2.1
    have hv : bit (setField v 31 1 0).toNat 31 = false := bit_setField v (by decide) (by decide) 0 31 (by decide) (by decide)
    have hopened' : ((s.crCfgFields r n.val (setField v 31 1 0)).region n.val).opened ≠ [] := by
      rwa [s.region_crCfgFields]
    refine ⟨s.writeCrCfg r n.val (setField v 31 1 0), congrArg _ (State.asHome_of_homeReq hr _ _), ?_⟩
    rw [State.writeCrCfg_of_clear_open hv hen hopened']
    refine ⟨?_, ?_⟩
    · rw [State.flag_setRegion, State.flag_crCfgFields n.isLt hctx (.inl rfl), (s.flags_crModeFields _ _).1, hen]
    · rw [State.region_setRegion_self]
  · refine ⟨_, execArrivalStart_of_room hopen hopened hwaiting hfits p tag, ?_⟩
    rw [State.openArrival_of_room hfits]
    refine ⟨?_, ?_, by simp⟩
    · rw [State.region_setRegion_self]
    · rw [State.region_setRegion_self, hopened, List.nil_append]
  · refine ⟨s.finishArrival n.val (unitOf p) tag false, rfl, ?_⟩
    rw [State.finishArrival_of_single hopened hunit htag hwindow]
    obtain ⟨hhead, harrive⟩ := State.counts_completeFront (s.setRegion n.val { s.region n.val with
      opened := [{ a with done := true, abandoned := false }],
      waiting := (s.region n.val).waiting.filter (fun w => !(w.1 == unitOf p && w.2.1 == tag)) }) n.isLt a.len []
    have hne : ∀ q ∈ crRegs, q.base ≠ R.MEM_CR_CFG.base → q.at n.val ≠ R.MEM_CR_CFG.at n.val := fun q hq h =>
      crRegs_at_ne hq (by decide) h n.val
    refine ⟨?_, ?_, ?_, ?_⟩
    · rw [State.crHead, State.rget, State.rd_endClearing _ (hne _ (by decide) (by decide))]
      exact hhead
    · rw [State.rget, State.rd_endClearing _ (hne _ (by decide) (by decide))]
      exact harrive
    · rw [State.opened_endClearing, State.region_completeFront]
    · exact State.only_trans (State.only_trans (by simp) (State.completeFront_only _ _ _ _)) (State.endClearing_only _ _)

end Sys2Proof.Machine
end

section
/-! PROOF. The obligation on narrow and wide accesses (R79, R86, R87, R111, R113): what a bank slot leaves alone, what a store leaves and
reads back, and the two accesses. -/

namespace Sys2Proof.Machine

variable (s : State)

/-! ### Bank slots -/

/-- The registers that count conflicts, by address. -/
def conflictReg (a : Nat) : Bool :=
  a == R.MEM_SPLITCOL.at || (decide (R.MEM_CONFBANK.at ≤ a) && decide (a < R.MEM_CONFPORT.at 8))

theorem conflictReg_confBank {k : Nat} (hk : k < 256) : conflictReg (R.MEM_CONFBANK.at k) = true := by
  have hfirst : R.MEM_CONFBANK.at ≤ R.MEM_CONFBANK.at k := RegDesc.at_mono _ (Nat.zero_le k) (Nat.le_refl 0)
  have hlast : R.MEM_CONFBANK.at k < R.MEM_CONFPORT.at 8 :=
    (RegDesc.at_mono _ (show k ≤ 255 by omega) (Nat.le_refl 0)).trans_lt (by decide)
  simp [conflictReg, hfirst, hlast]

theorem conflictReg_confPort {k : Nat} (hk : k < 8) : conflictReg (R.MEM_CONFPORT.at k) = true := by
  have hfirst : R.MEM_CONFBANK.at ≤ R.MEM_CONFPORT.at k := Nat.le_trans (by decide) (RegDesc.base_le_at _ k 0)
  have hlast : R.MEM_CONFPORT.at k < R.MEM_CONFPORT.at 8 :=
    (RegDesc.at_mono _ (show k ≤ 7 by omega) (Nat.le_refl 0)).trans_lt (by decide)
  simp [conflictReg, hfirst, hlast]

theorem ne_of_conflictReg {a b : Nat} (ha : conflictReg a = false) (hb : conflictReg b = true) : a ≠ b := by
  rintro rfl
  exact Bool.false_ne_true (ha.symm.trans hb)

theorem State.rd_loseSlot {bank port : Nat} (hbank : bank < 256) (hport : port < 8) {a : Nat} (ha : conflictReg a = false) :
    (s.loseSlot bank port).rd a = s.rd a := by
  unfold State.loseSlot
  dsimp only
  split
  · rfl
  · rw [State.rd_count_ne _ _ _ _ _ _ (ne_of_conflictReg ha (conflictReg_confPort hport)),
      State.rd_count_ne _ _ _ _ _ _ (ne_of_conflictReg ha (conflictReg_confBank hbank))]
    rfl

/-- A slot of a bank changes what is counted and what the bank remembers. -/
theorem State.rd_arbitrate {bank port : Nat} (hbank : bank < 256) (hport : port < 8) (cls : Nat) {rivals : List (Nat × Nat)}
    (hrivals : ∀ q ∈ rivals, q.1 < 8) {a : Nat} (ha : conflictReg a = false) :
    (s.arbitrate bank port cls rivals).2.rd a = s.rd a := by
  have hfold : ∀ (l : List (Nat × Nat)) (t : State), (∀ q ∈ l, q.1 < 8) →
      (l.foldl (fun s q => s.loseSlot bank q.1) t).rd a = t.rd a := by
    intro l t hl
    refine List.foldlRecOn (motive := fun u : State => u.rd a = t.rd a) _ _ rfl fun u hu q hq => ?_
    exact (u.rd_loseSlot hbank (hl q hq) ha).trans hu
  refine hfold _ s fun q hq => ?_
  rcases List.mem_cons.mp (List.mem_of_mem_filter hq) with rfl | hq
  · exact hport
  · exact hrivals q (List.mem_of_mem_filter hq)

theorem State.arbitrate_only (bank port cls : Nat) (rivals : List (Nat × Nat)) :
    s.only (s.arbitrate bank port cls rivals).2 [.regs, .memsys] := by
  simp [State.arbitrate, State.only_foldl]

theorem portOf_lt (r : Req) : portOf r < 8 := by
  cases r
  case stream n =>
    simp only [portOf]
    split_ifs <;> decide
  all_goals
    simp only [portOf]
    decide

/-- The ports and classes of a slot's rivals as numbers. -/
def rivalPorts (rivals : List (Fin 8 × Fin 6)) : List (Nat × Nat) := rivals.map (fun q => (q.1.val, q.2.val))

theorem rivalPorts_lt {rivals : List (Fin 8 × Fin 6)} {q : Nat × Nat} (h : q ∈ rivalPorts rivals) : q.1 < 8 := by
  obtain ⟨x, -, rfl⟩ := List.mem_map.mp h
  exact x.1.isLt

/-- A slot is granted at once, or is one of the bank's; a port that does not own the bank may be counted. -/
theorem State.slotFor_cases (r : Req) (a : Nat) (rivals : List (Fin 8 × Fin 6)) : (s.slotFor r a rivals).2 = s ∨
    ∃ i, s.confBank a = some i ∧
      ((s.slotFor r a rivals).2 = (s.arbitrate i (portOf r) (s.clsOf r) (rivalPorts rivals)).2.count R.MEM_SPLITCOL ∨
       (s.slotFor r a rivals).2 = (s.arbitrate i (portOf r) (s.clsOf r) (rivalPorts rivals)).2) := by
  cases hbank : s.confBank a with
  | none => exact .inl (by simp only [State.slotFor, hbank])
  | some i =>
    refine .inr ⟨i, rfl, ?_⟩
    simp only [State.slotFor, hbank]
    exact (ite_eq_or_eq _ _ _).imp (congrArg Prod.snd) (congrArg Prod.snd)

theorem State.slotFor_only (r : Req) (a : Nat) (rivals : List (Fin 8 × Fin 6)) : s.only (s.slotFor r a rivals).2 [.regs, .memsys] := by
  rcases s.slotFor_cases r a rivals with h | ⟨i, -, h | h⟩
  · rw [h]
    exact s.only_refl _
  · rw [h, State.only_count_iff _ _ (by decide)]
    exact s.arbitrate_only _ _ _ _
  · rw [h]
    exact s.arbitrate_only _ _ _ _

theorem State.mem_slotFor (r : Req) (a : Nat) (rivals : List (Fin 8 × Fin 6)) : (s.slotFor r a rivals).2.mem = s.mem :=
  s.slotFor_only r a rivals .mem (by simp)

theorem State.loc_dam_lt {s : State} {a d : Nat} (h : s.loc a = .dam d) : d < 4 := by
  simp only [State.loc, ite_eq_iff, reduceCtorEq, Loc.dam.injEq, and_false, false_or, or_false] at h
  omega

theorem State.confBank_lt {s : State} {a i : Nat} (h : s.confBank a = some i) : i < 256 := by
  unfold State.confBank at h
  split at h
  case h_4 d hloc =>
    have hd := State.loc_dam_lt hloc
    injection h with h
    omega
  case h_5 => cases h
  all_goals
    injection h with h
    omega

theorem State.rd_slotFor (r : Req) (b : Nat) (rivals : List (Fin 8 × Fin 6)) {a : Nat} (ha : conflictReg a = false) :
    (s.slotFor r b rivals).2.rd a = s.rd a := by
  have hcol : a ≠ R.MEM_SPLITCOL.at := ne_of_conflictReg ha (by decide)
  rcases s.slotFor_cases r b rivals with h | ⟨i, hbank, h | h⟩
  · rw [h]
  · rw [h, State.rd_count_ne _ _ _ _ _ _ hcol, s.rd_arbitrate (State.confBank_lt hbank) (portOf_lt r) _ (fun _ => rivalPorts_lt) ha]
  · rw [h, s.rd_arbitrate (State.confBank_lt hbank) (portOf_lt r) _ (fun _ => rivalPorts_lt) ha]

theorem State.loc_slotFor (r : Req) (b : Nat) (rivals : List (Fin 8 × Fin 6)) (a : Nat) : (s.slotFor r b rivals).2.loc a = s.loc a := by
  have hapart : ∀ a ∈ locRegs, conflictReg a = false := by decide
  exact State.loc_congr (fun a ha => s.rd_slotFor r b rivals (hapart a ha)) a

theorem State.locOn_slotFor (r : Req) (b : Nat) (rivals : List (Fin 8 × Fin 6)) (l : Loc) :
    (s.slotFor r b rivals).2.locOn l = s.locOn l := by
  have hdom : (s.slotFor r b rivals).2.fget F.PWR_STAT_DOMON = s.fget F.PWR_STAT_DOMON :=
    State.fget_of_rd (s.rd_slotFor r b rivals (by decide))
  have hcim : (s.slotFor r b rivals).2.fget F.PWR_STAT_CIMON = s.fget F.PWR_STAT_CIMON :=
    State.fget_of_rd (s.rd_slotFor r b rivals (by decide))
  have hdown : (s.slotFor r b rivals).2.fget F.SYS_D2DSTAT_DOWN = s.fget F.SYS_D2DSTAT_DOWN :=
    State.fget_of_rd (s.rd_slotFor r b rivals (by decide))
  cases l <;> simp only [State.locOn, State.domOn, State.dieOn, State.dieDown, hdom, hcim, hdown]

/-! ### What a store leaves -/

/-- The write of one block or of a part of one, by whether its memory has tags. -/
def State.putPart (s : State) (a : Nat) (part : List Byte) : State :=
  if (s.loc a).tagged then
    if part.length = 256 then { s with mem := s.mem.writeBlock (a / 256) part }
    else
      let t := { s with mem := (s.mem.writePart a part).1 }
      if (s.mem.writePart a part).2 then t.count R.MEM_TAGERR else t
  else { s with mem := (s.mem.store a part).mend a part.length }

theorem State.putMem_succ {l : List Byte} (h : l ≠ []) (a fuel : Nat) : s.putMem a l (fuel + 1) =
    (s.putPart a (l.take (256 - a % 256))).putMem (a + (256 - a % 256)) (l.drop (256 - a % 256)) fuel := by
  rw [State.putMem, if_neg h]
  rfl

theorem State.putPart_only (a : Nat) (part : List Byte) : s.only (s.putPart a part) [.regs, .mem] := by
  simp [State.putPart, State.only_ite]

theorem State.putMem_only (a : Nat) (l : List Byte) (fuel : Nat) : s.only (s.putMem a l fuel) [.regs, .mem] := by
  induction fuel generalizing s a l with
  | zero => exact s.only_refl _
  | succ fuel ih =>
    by_cases hl : l = []
    · rw [State.putMem, if_pos hl]
      exact s.only_refl _
    · rw [s.putMem_succ hl]
      exact State.only_trans (s.putPart_only _ _) (ih _ _ _)

theorem State.byte_putPart {a : Nat} {part : List Byte} (h : a % 256 + part.length ≤ 256) (b : Nat) :
    (s.putPart a part).mem.byte b = (s.mem.store a part).byte b := by
  unfold State.putPart
  split
  · split
    · next hfull =>
      have hblock : a / 256 * 256 = a := by omega
      rw [Memory.byte_writeBlock, padTo_of_length hfull, hblock]
    · dsimp only
      split <;> exact s.mem.byte_writePart a part b
  · rfl

theorem Memory.store_append (m : Memory) (a : Nat) (l l' : List Byte) :
    m.store a (l ++ l') = (m.store a l).store (a + l.length) l' := by
  induction l generalizing m a with
  | nil => rfl
  | cons v t ih => rw [List.cons_append, Memory.store, ih, Memory.store, List.length_cons, Nat.add_assoc, Nat.add_comm 1]

theorem Memory.byte_store_congr {m m' : Memory} (h : ∀ b, m.byte b = m'.byte b) (a : Nat) (l : List Byte) (b : Nat) :
    (m.store a l).byte b = (m'.store a l).byte b := by
  rw [Memory.byte_store, Memory.byte_store, h]

theorem State.putMem_nil (a fuel : Nat) : s.putMem a [] fuel = s := by cases fuel <;> rfl

/-- Block by block or at once, the bytes stored are the same. -/
theorem State.byte_putMem {a : Nat} {l : List Byte} {fuel : Nat} (h : a % 256 + l.length ≤ 256 * fuel) (b : Nat) :
    (s.putMem a l fuel).mem.byte b = (s.mem.store a l).byte b := by
  induction fuel generalizing s a l with
  | zero => rw [List.eq_nil_of_length_eq_zero (by omega : l.length = 0), State.putMem, Memory.store]
  | succ fuel ih =>
    by_cases hl : l = []
    · rw [hl, State.putMem_nil, Memory.store]
    · rw [s.putMem_succ hl]
      by_cases hshort : l.length ≤ 256 - a % 256
      · rw [List.take_of_length_le hshort, List.drop_of_length_le hshort, State.putMem_nil, s.byte_putPart (by omega)]
      · have hlen : (l.take (256 - a % 256)).length = 256 - a % 256 := List.length_take_of_le (by omega)
        have hsplit := s.mem.store_append a (l.take (256 - a % 256)) (l.drop (256 - a % 256))
        rw [List.take_append_drop, hlen] at hsplit
        rw [ih _ (by rw [List.length_drop]; omega), hsplit]
        exact Memory.byte_store_congr (s.byte_putPart (by omega)) _ _ b

theorem State.load_store (a : Nat) (l : List Byte) : (s.store a l).load a l.length = l :=
  Memory.read_eq fun b hlow hhigh => by rw [State.store, s.byte_putMem (by omega), Memory.byte_store, if_pos ⟨hlow, hhigh⟩]

/-! ### Narrow accesses -/

section
variable {s : State} {a n : Nat}

theorem State.narrowMem_write_clean (h : s.mem.isEccBad (a / 8) = false) (v : DWord) :
    s.narrowMem true a n v .clean = (s.store a (leBytes n v.toNat)).respond false [] := by
  simp [State.narrowMem, h]

theorem State.narrowMem_read_clean (h : s.mem.isEccBad (a / 8) = false) (v : DWord) :
    s.narrowMem false a n v .clean = s.respond false (s.load a n) := by
  simp [State.narrowMem, h]

end

/-- A granted access of SRAM whose domain is on reaches the memory. -/
theorem execNarrowAccess_of_sram {s : State} {r : Req} {write : Bool} {a : Addr} {sz : NSize} {rivals : List (Fin 8 × Fin 6)}
    (hon : s.reqOn r = true) (hok : narrowOk a.toNat sz.bytes = true) (hen : s.ctxEnabled (s.ctxOf r) = true)
    (hsram : (s.loc a.toNat).sram = true) (hreach : s.reaches r write (s.loc a.toNat) = true)
    (hslot : (s.slotFor r a.toNat rivals).1 = true) (hdom : s.locOn (s.loc a.toNat) = true) (v : DWord) (ecc : Ecc) :
    execNarrowAccess r write a sz v ecc rivals s = .next ((s.slotFor r a.toNat rivals).2.narrowMem write a.toNat sz.bytes v ecc) := by
  have hrom : (s.loc a.toNat == .rom) = false := by
    rw [beq_eq_false_iff_ne]
    intro h
    rw [h] at hsram
    cases hsram
  rw [execNarrowAccess]
  simp only [hon, hok, hen, Bool.not_true, Bool.or_self, Bool.false_eq_true, if_false]
  split
  case h_4 => simp [hreach, hrom, hslot, hdom]
  all_goals
    next h =>
      rw [h] at hsram
      cases hsram

/-! ### Wide accesses -/

theorem execWideAccess_of_tagged {s : State} {r : Req} {write : Bool} {a : Addr} {rivals : List (Fin 8 × Fin 6)}
    (hon : s.reqOn r = true) (hok : a.toNat % 256 = 0) (hen : s.ctxEnabled (s.ctxOf r) = true)
    (htagged : (s.loc a.toNat).tagged = true) (hreach : s.reachesWide r write (s.loc a.toNat) = true)
    (hslot : (s.slotFor r a.toNat rivals).1 = true) (hdom : s.locOn (s.loc a.toNat) = true) (data : List Byte) (tag : Word)
    (check : Bool) (ecc : Ecc) : execWideAccess r write a data tag check ecc rivals s = .next
      (if write then (s.slotFor r a.toNat rivals).2.wideWrite a.toNat data tag
       else (s.slotFor r a.toNat rivals).2.wideRead r a.toNat check ecc) := by
  rw [execWideAccess]
  simp only [hon, hok, hen, Bool.not_true, bne_self_eq_false, Bool.or_self, Bool.false_eq_true, if_false]
  split
  · next h =>
    rw [h] at htagged
    cases htagged
  · simp [hreach, hslot, hdom]

section
variable {s : State} {a : Nat}

theorem State.wideWrite_of_tagged (h : (s.loc a).tagged = true) (data : List Byte) (tag : Word) : s.wideWrite a data tag =
    ({ s with mem := s.mem.writeBlock (a / 256) (padTo 256 data) (tag ^^^ BitVec.ofNat 32 (crc32c (padTo 256 data))) } : State).respond
      false [] := by
  rw [State.wideWrite, if_pos h]

theorem State.wideRead_of_sound (htagged : (s.loc a).tagged = true) (hecc : ∀ i, i < 32 → s.mem.isEccBad (a / 8 + i) = false)
    (htag : s.mem.tagOk (a / 256) = true) (r : Req) : s.wideRead r a true .clean =
      s.respond false (s.load a 256 ++ leBytes 4 (s.mem.tag (a / 256)).toNat) := by
  have hany : (List.range 32).any (fun i => s.mem.isEccBad (a / 8 + i)) = false := by
    rw [List.any_eq_false]
    intro i hi
    simp [hecc i (List.mem_range.mp hi)]
  simp [State.wideRead, hany, htagged, htag]

end

/-- A block reads as it was written, with the tag that it was given. -/
theorem Memory.tag_writeBlock (m : Memory) (k : Nat) {d : List Byte} (hd : d.length = 256) (tag : Word) :
    (m.writeBlock k d (tag ^^^ BitVec.ofNat 32 (crc32c d))).tag k = tag := by
  rw [Memory.tag, Memory.read_writeBlock, Memory.tagDiff_writeBlock, padTo_of_length hd, BitVec.xor_comm tag, ← BitVec.xor_assoc,
    BitVec.xor_self, BitVec.zero_xor]

/-! ### The statement -/

/-- Settles O21: each access reaches the memory of its address, after a slot that leaves the memory alone. -/
theorem narrowAndWideAccessesReachMemory : Obligations.NarrowAndWideAccessesReachMemory := by
  refine ⟨fun r a sz v rivals s hon hok hen hsram hreach hslot hdom hecc => ?_,
    fun r a sz v rivals s hon hok hen hsram hreach hslot hdom hecc => ?_,
    fun r a data tag check rivals s hon hok hen htagged hreach hslot hdom => ?_,
    fun r a data tag rivals s hon hok hen htagged hreach hslot hdom hecc htag => ?_⟩
  all_goals
    rw [s.locOn_slotFor] at hdom
    have hmem := s.mem_slotFor r a.toNat rivals
    have honly := s.slotFor_only r a.toNat rivals
  · refine ⟨_, execNarrowAccess_of_sram hon hok hen hsram hreach hslot hdom v .clean, ?_⟩
    rw [State.narrowMem_write_clean (by rw [hmem, hecc])]
    have hlen := leBytes_length sz.bytes v.toNat
    refine ⟨?_, rfl, ?_, ?_⟩
    · have hload := (s.slotFor r a.toNat rivals).2.load_store a.toNat (leBytes sz.bytes v.toNat)
      rwa [hlen] at hload
    · have hbytes := (s.slotFor r a.toNat rivals).2.bytesOnly_store a.toNat (leBytes sz.bytes v.toNat)
      rw [hlen] at hbytes
      exact fun b hb => (hbytes b hb).trans (by rw [hmem])
    · rw [State.only_respond_iff _ _ (by decide)]
      exact State.only_trans (State.only_mono honly (by simp)) (State.only_mono (State.putMem_only _ _ _ _) (by simp))
  · refine ⟨_, execNarrowAccess_of_sram hon hok hen hsram hreach hslot hdom v .clean, ?_⟩
    rw [State.narrowMem_read_clean (by rw [hmem, hecc]), State.load, State.load, hmem, State.only_respond_iff _ _ (by decide)]
    exact ⟨rfl, State.only_mono honly (by simp)⟩
  · have hblock : a.toNat / 256 * 256 = a.toNat := by omega
    refine ⟨_, execWideAccess_of_tagged hon hok hen htagged hreach hslot hdom data tag check .clean, ?_⟩
    rw [if_pos rfl, State.wideWrite_of_tagged (by rw [s.loc_slotFor, htagged]), hmem]
    refine ⟨?_, s.mem.tag_writeBlock _ (length_padTo 256 data) tag, s.mem.isBad_writeBlock _ _ _, fun b hb => ?_, ?_⟩
    · have hread := s.mem.read_writeBlock (a.toNat / 256) (padTo 256 data) (tag ^^^ BitVec.ofNat 32 (crc32c (padTo 256 data)))
      rw [hblock, padTo_of_length (length_padTo 256 data)] at hread
      exact hread
    · exact s.mem.byte_writeBlock_of_ne _ _ _ _ (by rwa [hblock])
    · rw [State.only_respond_iff _ _ (by decide), State.only_mem_iff _ _ (by decide)]
      exact State.only_mono honly (by simp)
  · refine ⟨_, execWideAccess_of_tagged hon hok hen htagged hreach hslot hdom data tag true .clean, ?_⟩
    rw [if_neg (by simp), State.wideRead_of_sound (by rw [s.loc_slotFor, htagged]) (by rwa [hmem]) (by rwa [hmem]), State.load, State.load,
      hmem, State.only_respond_iff _ _ (by decide)]
    exact ⟨rfl, State.only_mono honly (by simp)⟩

end Sys2Proof.Machine
end

section
/-! PROOF. The obligations of spec/04 on violations and on the registers of a context (R127, R130, R137). -/

namespace Sys2Proof.Machine

variable (s : State)

/-! ### The registers of a context -/

/-- The registers of a context that a violation or a write of its configuration, its bells or its capture changes. -/
def ctxRegs : List RegDesc := [R.MMU_CTX_CFG, R.MMU_CTX_BELLS, R.MMU_CTX_VIOL, R.MMU_CTX_VCAPADDR, R.MMU_CTX_VCAPINFO]

/-- Each context has its own group of 64 bytes, and each register its own place in the group. -/
theorem ctxRegs_at_ne {q r : RegDesc} (hq : q ∈ ctxRegs) (hr : r ∈ ctxRegs) {c c' : Nat} (h : q.base ≠ r.base ∨ c ≠ c') :
    q.at c ≠ r.at c' := by
  have hgroup : ∀ r ∈ ctxRegs, r.s0 = 0x40 ∧ r.s1 = 0 ∧ R.MMU_CTX_CFG.base ≤ r.base ∧ r.base < R.MMU_CTX_CFG.base + 0x40 := by decide
  obtain ⟨hq0, hq1, hqlow, hqhigh⟩ := hgroup q hq
  obtain ⟨hr0, hr1, hrlow, hrhigh⟩ := hgroup r hr
  simp only [RegDesc.at, hq0, hq1, hr0, hr1]
  omega

theorem viol_ne_vcapInfo (c : Nat) : R.MMU_CTX_VIOL.at c ≠ R.MMU_CTX_VCAPINFO.at c :=
  ctxRegs_at_ne (by decide) (by decide) (.inl (by decide))
theorem viol_ne_vcapAddr (c : Nat) : R.MMU_CTX_VIOL.at c ≠ R.MMU_CTX_VCAPADDR.at c :=
  ctxRegs_at_ne (by decide) (by decide) (.inl (by decide))
theorem vcapAddr_ne_vcapInfo (c : Nat) : R.MMU_CTX_VCAPADDR.at c ≠ R.MMU_CTX_VCAPINFO.at c :=
  ctxRegs_at_ne (by decide) (by decide) (.inl (by decide))

/-! ### Violations -/

/-- What an armed capture puts into MMU_CTXc_VCAPINFO. -/
def State.captureInfo (s : State) (c unit kind : Nat) : State :=
  (((s.setFlag F.MMU_CTX_VCAPINFO_VALID true c).setFlag F.MMU_CTX_VCAPINFO_ARMED false c).fset F.MMU_CTX_VCAPINFO_UNIT unit c).fset
    F.MMU_CTX_VCAPINFO_KIND kind c

theorem State.captureInfo_regsOnly (c unit kind : Nat) : s.regsOnly (s.captureInfo c unit kind) [R.MMU_CTX_VCAPINFO.at c] := by
  have hinfo : R.MMU_CTX_VCAPINFO.at c ∈ [R.MMU_CTX_VCAPINFO.at c] := List.mem_singleton_self _
  rw [State.regsOnly_iff_regsBut]
  simp (disch := apply id; with_unfolding_all assumption) [State.captureInfo]

theorem State.rget_captureInfo {q : RegDesc} {c : Nat} (h : q.at c ≠ R.MMU_CTX_VCAPINFO.at c) (unit kind : Nat) :
    (s.captureInfo c unit kind).rget q c = s.rget q c :=
  congrArg BitVec.toNat (s.captureInfo_regsOnly c unit kind _ (by simpa using h))

/-- What the capture shows then. -/
theorem State.fields_captureInfo {unit kind : Nat} (hunit : unit < 256) (hkind : kind < 16) (c : Nat) :
    (s.captureInfo c unit kind).flag F.MMU_CTX_VCAPINFO_VALID c = true ∧
    (s.captureInfo c unit kind).flag F.MMU_CTX_VCAPINFO_ARMED c = false ∧
    (s.captureInfo c unit kind).fget F.MMU_CTX_VCAPINFO_UNIT c = unit ∧
    (s.captureInfo c unit kind).fget F.MMU_CTX_VCAPINFO_KIND c = kind := by
  have hunit' : unit % 2 ^ F.MMU_CTX_VCAPINFO_UNIT.width = unit := Nat.mod_eq_of_lt hunit
  have hkind' : kind % 2 ^ F.MMU_CTX_VCAPINFO_KIND.width = kind := Nat.mod_eq_of_lt hkind
  simp (disch := decide) only [State.captureInfo, State.flag_fset_other, State.flag_setFlag_other, State.flag_setFlag_self,
    State.fget_fset_other, State.fget_fset_self, hunit', hkind', and_self]

section
variable {s} {c : Nat}

theorem State.flag_armed_count (s : State) (c : Nat) : (s.count R.MMU_CTX_VIOL 1 c).flag F.MMU_CTX_VCAPINFO_ARMED c =
    s.flag F.MMU_CTX_VCAPINFO_ARMED c :=
  State.flag_of_rd (s.rd_count_ne _ _ _ _ _ (viol_ne_vcapInfo c).symm)

theorem State.violate_of_armed (h : s.flag F.MMU_CTX_VCAPINFO_ARMED c = true) (unit kind addr : Nat) : s.violate c unit kind addr =
    ((s.count R.MMU_CTX_VIOL 1 c).rset R.MMU_CTX_VCAPADDR (addr / 256) c).captureInfo c unit kind := by
  rw [State.violate, if_pos ((s.flag_armed_count c).trans h)]
  rfl

theorem State.violate_of_unarmed (h : s.flag F.MMU_CTX_VCAPINFO_ARMED c = false) (unit kind addr : Nat) :
    s.violate c unit kind addr = s.count R.MMU_CTX_VIOL 1 c := by
  rw [State.violate, if_neg (by rw [s.flag_armed_count c, h]; decide)]

theorem State.rget_viol_violate (s : State) (c unit kind addr : Nat) :
    (s.violate c unit kind addr).rget R.MMU_CTX_VIOL c = satAdd 32 (s.rget R.MMU_CTX_VIOL c) 1 := by
  cases h : s.flag F.MMU_CTX_VCAPINFO_ARMED c
  · rw [State.violate_of_unarmed h, State.rget_count_self]
  · rw [State.violate_of_armed h, State.rget_captureInfo _ (viol_ne_vcapInfo c), State.rget_rset_ne _ _ _ _ _ _ _ _ (viol_ne_vcapAddr c),
      State.rget_count_self]

end

/-- Settles O27: the capture is armed or not, and a capture that is not armed leaves the count alone to change. -/
theorem violationsCountAndCaptureOnce : Obligations.ViolationsCountAndCaptureOnce := by
  intro s c unit kind addr _ hunit hkind haddr
  refine ⟨s.rget_viol_violate c unit kind addr, fun harmed => ?_, fun harmed => ?_, by simp, s.violate_regsOnly c unit kind addr⟩
  · rw [State.violate_of_armed harmed]
    refine ⟨?_, State.fields_captureInfo _ hunit hkind c⟩
    rw [State.rget_captureInfo _ (vcapAddr_ne_vcapInfo c), State.rget_rset_self, Nat.mod_eq_of_lt (by omega)]
  · rw [State.violate_of_unarmed harmed]
    exact fun a ha => s.rd_count_ne _ _ _ _ _ (by simpa using ha)

/-- A bit reads 1 after a write that sets it. -/
theorem bit_setField_one (v : Word) {i : Nat} (hi : i < 32) : bit (setField v i 1 1).toNat i = true := by
  rw [bit_setField v hi (by decide) 1 i (Nat.le_refl i) (Nat.lt_succ_self i), Nat.sub_self]
  rfl

/-! ### The CSR `lyctx` (R127) -/

/-- The CSR `lyctx` of pair `p` replaced. -/
def State.setLyctx (s : State) (p : Fin 2) (x : Word) : State :=
  if p.val = 0 then { s with lyctx0 := x } else { s with lyctx1 := x }

theorem State.writeLyctx_eq (p : Fin 2) (v : Word) : s.writeLyctx p v =
    if classTable (getField v 0 3) (getField v 4 3) then s.setLyctx p (v &&& 0x77)
    else s.violate (s.ctxOf (.core p)) (0x40 + p.val) 0xB 0 := rfl

theorem State.lyctx_setLyctx (p : Fin 2) (x : Word) :
    (s.setLyctx p x).lyctx p.val = x ∧ (s.setLyctx p x).lyctx (1 - p.val) = s.lyctx (1 - p.val) := by
  obtain rfl | rfl : p = 0 ∨ p = 1 := by omega
  all_goals exact ⟨rfl, rfl⟩

theorem State.setLyctx_only (p : Fin 2) (x : Word) : s.only (s.setLyctx p x) [.lyctx0, .lyctx1] := by
  intro q hq
  obtain rfl | rfl : p = 0 ∨ p = 1 := by omega
  all_goals
    cases q
    case lyctx0 => simp at hq
    case lyctx1 => simp at hq
    all_goals rfl

/-! ### Bell ranges (R130) -/

/-- The bell range of a context replaced. -/
def State.setBells (s : State) (n : Nat) (v : Word) : State :=
  (s.fset F.MMU_CTX_BELLS_CNT (getField v 16 10) n).fset F.MMU_CTX_BELLS_BASE (getField v 0 9) n

theorem State.writeBells_eq (r : Req) (n : Nat) (v : Word) : s.writeBells r n v =
    if s.bellRangeOk n v then s.setBells n v else s.violateBy r 0xE (R.MMU_CTX_BELLS.at n) := rfl

theorem State.fget_base_setBells (n : Nat) (v : Word) : (s.setBells n v).fget F.MMU_CTX_BELLS_BASE n = getField v 0 9 := by
  rw [State.setBells, State.fget_fset_self _ _ _ _ _ (by decide) (by decide)]
  exact Nat.mod_eq_of_lt (getField_lt v 0 9)

theorem State.fget_cnt_setBells (n : Nat) (v : Word) : (s.setBells n v).fget F.MMU_CTX_BELLS_CNT n = getField v 16 10 := by
  have hfits : getField v 16 10 % 2 ^ F.MMU_CTX_BELLS_CNT.width = getField v 16 10 := Nat.mod_eq_of_lt (getField_lt v 16 10)
  simp (disch := decide) only [State.setBells, State.fget_fset_other, State.fget_fset_self, hfits]

theorem State.setBells_regsOnly (n : Nat) (v : Word) : s.regsOnly (s.setBells n v) [R.MMU_CTX_BELLS.at n] := by
  have hbells : R.MMU_CTX_BELLS.at n ∈ [R.MMU_CTX_BELLS.at n] := List.mem_singleton_self _
  rw [State.regsOnly_iff_regsBut]
  simp (disch := apply id; with_unfolding_all assumption) [State.setBells]

/-! ### Violation captures (R137) -/

/-- ARM: the capture is armed and holds nothing valid. -/
def State.armIf (s : State) (n : Nat) (v : Word) : State :=
  if bit v.toNat 29 then (s.setFlag F.MMU_CTX_VCAPINFO_VALID false n).setFlag F.MMU_CTX_VCAPINFO_ARMED true n else s

/-- CLR: the counter is 0. -/
def State.clearViolIf (s : State) (n : Nat) (v : Word) : State := if bit v.toNat 28 then s.rset R.MMU_CTX_VIOL 0 n else s

theorem State.writeVcap_eq (n : Nat) (v : Word) : s.writeVcap n v = (s.armIf n v).clearViolIf n v := rfl

theorem State.writeVcap_only (n : Nat) (v : Word) : s.only (s.writeVcap n v) [.regs] := by
  simp [State.writeVcap_eq, State.clearViolIf, State.armIf, State.only_ite]

theorem State.writeVcap_regsOnly (n : Nat) (v : Word) :
    s.regsOnly (s.writeVcap n v) [R.MMU_CTX_VCAPINFO.at n, R.MMU_CTX_VIOL.at n] := by
  have hinfo : R.MMU_CTX_VCAPINFO.at n ∈ [R.MMU_CTX_VCAPINFO.at n, R.MMU_CTX_VIOL.at n] := by simp
  have hviol : R.MMU_CTX_VIOL.at n ∈ [R.MMU_CTX_VCAPINFO.at n, R.MMU_CTX_VIOL.at n] := by simp
  rw [State.regsOnly_iff_regsBut]
  simp (disch := apply id; with_unfolding_all assumption) [State.writeVcap_eq, State.clearViolIf, State.armIf]

theorem State.rd_vcapInfo_clearViolIf (n : Nat) (v : Word) :
    (s.clearViolIf n v).rd (R.MMU_CTX_VCAPINFO.at n) = s.rd (R.MMU_CTX_VCAPINFO.at n) := by
  unfold State.clearViolIf
  split
  · exact s.rd_rset_ne _ _ _ _ _ (viol_ne_vcapInfo n).symm
  · rfl

theorem State.flags_writeVcap_of_arm {v : Word} (hv : bit v.toNat 29 = true) (n : Nat) :
    (s.writeVcap n v).flag F.MMU_CTX_VCAPINFO_ARMED n = true ∧ (s.writeVcap n v).flag F.MMU_CTX_VCAPINFO_VALID n = false := by
  have hrd := (s.armIf n v).rd_vcapInfo_clearViolIf n v
  rw [State.writeVcap_eq, State.flag_of_rd (f := F.MMU_CTX_VCAPINFO_ARMED) hrd, State.flag_of_rd (f := F.MMU_CTX_VCAPINFO_VALID) hrd,
    State.armIf, if_pos hv]
  simp (disch := decide) only [State.flag_setFlag_other, State.flag_setFlag_self, and_self]

theorem State.rget_viol_writeVcap_of_clear {v : Word} (hv : bit v.toNat 28 = true) (n : Nat) :
    (s.writeVcap n v).rget R.MMU_CTX_VIOL n = 0 := by
  rw [State.writeVcap_eq, State.clearViolIf, if_pos hv, State.rget_rset_self, Nat.zero_mod]

/-! ### The commands -/

section
variable {s} {r : Req} (hr : s.homeReq r) (n : Fin 8) (v : Word)
include hr

theorem execBellRangeWrite_of_homeReq : execBellRangeWrite r n v s = .next (s.writeBells r n.val v) := by
  rw [execBellRangeWrite, State.asHome_of_homeReq hr]

theorem execViolCaptureArm_of_homeReq : execViolCaptureArm r n v s = .next (s.writeVcap n.val (setField v 29 1 1)) := by
  rw [execViolCaptureArm, State.asHome_of_homeReq hr]

theorem execViolCountClear_of_homeReq : execViolCountClear r n v s = .next (s.writeVcap n.val (setField v 28 1 1)) := by
  rw [execViolCountClear, State.asHome_of_homeReq hr]

end

/-- Settles O28: each write by whether its value is legal, and the two commands on a capture by the bit that they set. -/
theorem contextRegistersTakeLegalValuesOnly : Obligations.ContextRegistersTakeLegalValuesOnly := by
  refine ⟨fun p v s h => ⟨s.writeLyctx p v, rfl, ?_⟩, fun p v s h => ⟨s.writeLyctx p v, rfl, ?_⟩, fun p v s => ⟨s, rfl, rfl⟩,
    fun r n v s hr h => ⟨_, execBellRangeWrite_of_homeReq hr n v, ?_⟩, fun r n v s hr h => ⟨_, execBellRangeWrite_of_homeReq hr n v, ?_⟩,
    fun r n v s hr => ⟨_, execViolCaptureArm_of_homeReq hr n v, ?_⟩, fun r n v s hr => ⟨_, execViolCountClear_of_homeReq hr n v, ?_⟩⟩
  · obtain ⟨hself, hother⟩ := s.lyctx_setLyctx p (v &&& 0x77)
    rw [s.writeLyctx_eq, if_pos h]
    exact ⟨hself, hother, s.setLyctx_only p _⟩
  · rw [s.writeLyctx_eq, if_neg (by simp [h])]
    rfl
  · rw [s.writeBells_eq, if_pos h]
    exact ⟨s.fget_base_setBells n.val v, s.fget_cnt_setBells n.val v, by simp [State.setBells], s.setBells_regsOnly n.val v⟩
  · rw [s.writeBells_eq, if_neg (by simp [h])]
  · obtain ⟨harmed, hvalid⟩ := s.flags_writeVcap_of_arm (bit_setField_one v (i := 29) (by decide)) n.val
    exact ⟨harmed, hvalid, s.writeVcap_only _ _, s.writeVcap_regsOnly _ _⟩
  · exact ⟨s.rget_viol_writeVcap_of_clear (bit_setField_one v (i := 28) (by decide)) n.val, s.writeVcap_only _ _,
      s.writeVcap_regsOnly _ _⟩

end Sys2Proof.Machine
end

section
/-! PROOF. The obligation of spec/04 on the bell ranges of enabled contexts (R130). -/

namespace Sys2Proof.Machine

variable {s t : State}

/-! ### Ranges that share no bell -/

/-- Whether the bell ranges of two contexts share a bell. -/
def State.bellsMeet (s : State) (i j : Nat) : Bool :=
  rangesMeet (s.fget F.MMU_CTX_BELLS_BASE i) (s.fget F.MMU_CTX_BELLS_CNT i) (s.fget F.MMU_CTX_BELLS_BASE j) (s.fget F.MMU_CTX_BELLS_CNT j)

/-- The invariant: no two enabled contexts' ranges share a bell. -/
def State.bellsApart (s : State) : Prop :=
  ∀ i j, i < 8 → j < 8 → i ≠ j → s.ctxEnabled i = true → s.ctxEnabled j = true → s.bellsMeet i j = false

theorem rangesMeet_comm (b1 n1 b2 n2 : Nat) : rangesMeet b1 n1 b2 n2 = rangesMeet b2 n2 b1 n1 := by
  simp only [rangesMeet, ← Bool.decide_and, decide_eq_decide]
  omega

theorem State.bellsMeet_comm (s : State) (i j : Nat) : s.bellsMeet i j = s.bellsMeet j i := rangesMeet_comm ..

theorem State.bellsMeet_of_rd {i j : Nat} (hi : t.rd (R.MMU_CTX_BELLS.at i) = s.rd (R.MMU_CTX_BELLS.at i))
    (hj : t.rd (R.MMU_CTX_BELLS.at j) = s.rd (R.MMU_CTX_BELLS.at j)) : t.bellsMeet i j = s.bellsMeet i j := by
  simp only [State.bellsMeet, State.fget_of_rd (f := F.MMU_CTX_BELLS_BASE) hi, State.fget_of_rd (f := F.MMU_CTX_BELLS_CNT) hi,
    State.fget_of_rd (f := F.MMU_CTX_BELLS_BASE) hj, State.fget_of_rd (f := F.MMU_CTX_BELLS_CNT) hj]

theorem State.ctxEnabled_of_rd {c : Nat} (h : t.rd (R.MMU_CTX_CFG.at c) = s.rd (R.MMU_CTX_CFG.at c)) : t.ctxEnabled c = s.ctxEnabled c :=
  State.flag_of_rd h

/-- Where only context `n` may have changed, its range alone is to be compared with the others. -/
theorem State.bellsApart_of_others {n : Nat} (hs : s.bellsApart)
    (hcfg : ∀ m, m ≠ n → t.rd (R.MMU_CTX_CFG.at m) = s.rd (R.MMU_CTX_CFG.at m))
    (hbells : ∀ m, m ≠ n → t.rd (R.MMU_CTX_BELLS.at m) = s.rd (R.MMU_CTX_BELLS.at m))
    (hn : t.ctxEnabled n = true → ∀ m, m < 8 → m ≠ n → s.ctxEnabled m = true → t.bellsMeet n m = false) : t.bellsApart := by
  intro i j hi hj hij heni henj
  by_cases hin : i = n
  · subst hin
    exact hn heni j hj hij.symm ((State.ctxEnabled_of_rd (hcfg j hij.symm)).symm.trans henj)
  · have heni' : s.ctxEnabled i = true := (State.ctxEnabled_of_rd (hcfg i hin)).symm.trans heni
    by_cases hjn : j = n
    · subst hjn
      rw [State.bellsMeet_comm]
      exact hn henj i hi hij heni'
    · rw [State.bellsMeet_of_rd (hbells i hin) (hbells j hjn)]
      exact hs i j hi hj hij heni' ((State.ctxEnabled_of_rd (hcfg j hjn)).symm.trans henj)

theorem State.bellsApart_violate (hs : s.bellsApart) (c unit kind addr : Nat) : (s.violate c unit kind addr).bellsApart := by
  have hrd : ∀ q ∈ [R.MMU_CTX_CFG, R.MMU_CTX_BELLS], ∀ m, (s.violate c unit kind addr).rd (q.at m) = s.rd (q.at m) := by
    intro q hq m
    have hmem : q ∈ ctxRegs ∧ q.base ≠ R.MMU_CTX_VIOL.base ∧ q.base ≠ R.MMU_CTX_VCAPADDR.base ∧ q.base ≠ R.MMU_CTX_VCAPINFO.base := by
      revert q
      decide
    obtain ⟨hreg, hviol, haddr, hinfo⟩ := hmem
    refine s.violate_regsOnly c unit kind addr _ ?_
    simp only [violRegs, List.mem_cons, List.not_mem_nil, or_false, not_or]
    exact ⟨ctxRegs_at_ne hreg (by decide) (.inl hviol), ctxRegs_at_ne hreg (by decide) (.inl haddr),
      ctxRegs_at_ne hreg (by decide) (.inl hinfo)⟩
  have hcfg := hrd R.MMU_CTX_CFG (by decide)
  have hbells := hrd R.MMU_CTX_BELLS (by decide)
  intro i j hi hj hij heni henj
  rw [State.bellsMeet_of_rd (hbells i) (hbells j)]
  exact hs i j hi hj hij ((State.ctxEnabled_of_rd (hcfg i)).symm.trans heni) ((State.ctxEnabled_of_rd (hcfg j)).symm.trans henj)

/-! ### BELL_RANGE_WRITE -/

theorem State.bellRangeOk_apart {n m : Nat} {v : Word} (h : s.bellRangeOk n v = true) (hn : s.ctxEnabled n = true) (hm : m < 8)
    (hne : m ≠ n) (hen : s.ctxEnabled m = true) :
    rangesMeet (getField v 0 9) (getField v 16 10) (s.fget F.MMU_CTX_BELLS_BASE m) (s.fget F.MMU_CTX_BELLS_CNT m) = false := by
  simp only [State.bellRangeOk, hn, Bool.not_true, Bool.false_or, Bool.and_eq_true, List.all_eq_true, List.mem_range] at h
  simpa [hne, hen] using h.2 m hm

theorem State.bellsApart_setBells (hs : s.bellsApart) {n : Nat} {v : Word} (h : s.bellRangeOk n v = true) :
    (s.setBells n v).bellsApart := by
  have hcfg : ∀ m, (s.setBells n v).rd (R.MMU_CTX_CFG.at m) = s.rd (R.MMU_CTX_CFG.at m) := fun m =>
    s.setBells_regsOnly n v _ (by simpa using ctxRegs_at_ne (by decide) (by decide) (.inl (by decide)))
  have hbells : ∀ m, m ≠ n → (s.setBells n v).rd (R.MMU_CTX_BELLS.at m) = s.rd (R.MMU_CTX_BELLS.at m) := fun m hm =>
    s.setBells_regsOnly n v _ (by simpa using ctxRegs_at_ne (by decide) (by decide) (.inr hm))
  refine State.bellsApart_of_others (n := n) hs (fun m _ => hcfg m) hbells fun hn m hm hne hen => ?_
  rw [State.bellsMeet, State.fget_base_setBells, State.fget_cnt_setBells, State.fget_of_rd (f := F.MMU_CTX_BELLS_BASE) (hbells m hne),
    State.fget_of_rd (f := F.MMU_CTX_BELLS_CNT) (hbells m hne)]
  exact State.bellRangeOk_apart h ((State.ctxEnabled_of_rd (hcfg n)).symm.trans hn) hm hne hen

theorem State.bellsApart_writeBells (hs : s.bellsApart) (r : Req) (n : Nat) (v : Word) : (s.writeBells r n v).bellsApart := by
  rw [State.writeBells_eq]
  split
  · next h => exact State.bellsApart_setBells hs h
  · exact State.bellsApart_violate hs _ _ _ _

/-- A write that home may make, by any requester: nothing, a violation, or its effect. -/
theorem State.asHome_cases (s : State) (r : Req) (a : Nat) (f : State → State) :
    s.asHome r a f = s ∨ (∃ kind, s.asHome r a f = s.violateBy r kind a) ∨ s.asHome r a f = f s := by
  unfold State.asHome
  split_ifs
  · exact .inl rfl
  · exact .inr (.inl ⟨_, rfl⟩)
  · exact .inr (.inr rfl)
  · exact .inr (.inl ⟨_, rfl⟩)

theorem State.bellsApart_asHome (hs : s.bellsApart) {f : State → State} (hf : (f s).bellsApart) (r : Req) (a : Nat) :
    (s.asHome r a f).bellsApart := by
  rcases s.asHome_cases r a f with h | ⟨kind, h⟩ | h
  · rwa [h]
  · rw [h]
    exact State.bellsApart_violate hs _ _ _ _
  · rwa [h]

/-! ### Writes of MMU_CTXn_CFG that ask for EN -/

/-- EN takes bit 31 of a write while the lock is open. -/
theorem bit_en_written (old v : Word) : bit (R.MMU_CTX_CFG.written false old v).toNat 31 = bit v.toNat 31 := by
  have hopen : (R.MMU_CTX_CFG.mask .rw ||| R.MMU_CTX_CFG.mask .rwl).getLsbD 31 = true := by decide
  have hw1c : (R.MMU_CTX_CFG.mask .w1c).getLsbD 31 = false := by decide
  simp only [bit_toNat, RegDesc.written, Bool.false_eq_true, if_false, BitVec.getLsbD_and, BitVec.getLsbD_or (y := v &&& _),
    BitVec.getLsbD_not, hopen, hw1c]
  simp

/-- The register as such a write leaves it. -/
def State.setCtxCfg (s : State) (n : Nat) (v : Word) : State :=
  s.wr (R.MMU_CTX_CFG.at n) (R.MMU_CTX_CFG.written false (s.rd (R.MMU_CTX_CFG.at n)) v)

theorem State.ctxEnabled_setCtxCfg (s : State) (n : Nat) (v : Word) : (s.setCtxCfg n v).ctxEnabled n = bit v.toNat 31 := by
  rw [← bit_en_written (s.rd (R.MMU_CTX_CFG.at n)) v, ← s.rd_wr_self (R.MMU_CTX_CFG.at n) (R.MMU_CTX_CFG.written _ _ v)]
  rfl

/-- Locked it changes no context; a clash leaves EN 0; else the register takes the value. -/
theorem State.writeCtxCfg_cases (s : State) (r : Req) (n : Nat) {v : Word} (hv : bit v.toNat 31 = true) :
    s.writeCtxCfg r n v = s ∨ s.writeCtxCfg r n v = s.violateBy r 0x8 (R.MMU_CTX_CFG.at n) ∨
    s.writeCtxCfg r n v = (s.setCtxCfg n (setField v 31 1 0)).violateBy r 0xE (R.MMU_CTX_CFG.at n) ∨
    ((s.ctxEnabled n = true ∨ s.bellClash n = false) ∧ s.writeCtxCfg r n v = s.setCtxCfg n v) := by
  unfold State.writeCtxCfg
  by_cases hlock : s.locked = true
  · rw [if_pos hlock]
    split
    · exact .inr (.inl rfl)
    · exact .inl rfl
  · rw [if_neg hlock]
    by_cases hclash : s.ctxEnabled n = false ∧ s.bellClash n = true
    · exact .inr (.inr (.inl (by simp [hv, hclash, State.setCtxCfg])))
    · have hok : s.ctxEnabled n = true ∨ s.bellClash n = false := by
        rwa [not_and_or, Bool.not_eq_false, Bool.not_eq_true] at hclash
      exact .inr (.inr (.inr ⟨hok, by simp [hv, hclash, State.setCtxCfg]⟩))

theorem State.bellClash_apart {n m : Nat} (h : s.bellClash n = false) (hm : m < 8) (hne : m ≠ n) (hen : s.ctxEnabled m = true) :
    s.bellsMeet n m = false := by
  simp only [State.bellClash, List.any_eq_false, List.mem_range] at h
  simpa [hne, hen, State.bellsMeet] using h m hm

theorem State.bellsApart_setCtxCfg (hs : s.bellsApart) {n : Nat} (hn : n < 8) {v : Word}
    (h : bit v.toNat 31 = true → s.ctxEnabled n = true ∨ s.bellClash n = false) : (s.setCtxCfg n v).bellsApart := by
  have hbells : ∀ m, (s.setCtxCfg n v).rd (R.MMU_CTX_BELLS.at m) = s.rd (R.MMU_CTX_BELLS.at m) := fun m =>
    s.rd_wr_ne _ (ctxRegs_at_ne (by decide) (by decide) (.inl (by decide)))
  refine State.bellsApart_of_others hs (fun m hm => s.rd_wr_ne _ (ctxRegs_at_ne (by decide) (by decide) (.inr hm))) (fun m _ => hbells m)
    fun henn m hm hne hen => ?_
  rw [State.bellsMeet_of_rd (hbells n) (hbells m)]
  rw [State.ctxEnabled_setCtxCfg] at henn
  rcases h henn with hon | hclash
  · exact hs n m hn hm hne.symm hon hen
  · exact State.bellClash_apart hclash hm hne hen

theorem State.bellsApart_writeCtxCfg (hs : s.bellsApart) {n : Nat} (hn : n < 8) (r : Req) {v : Word} (hv : bit v.toNat 31 = true) :
    (s.writeCtxCfg r n v).bellsApart := by
  rcases s.writeCtxCfg_cases r n hv with h | h | h | ⟨hok, h⟩
  · rwa [h]
  · rw [h]
    exact State.bellsApart_violate hs _ _ _ _
  · have hoff : bit (setField v 31 1 0).toNat 31 = false := bit_setField v (by decide) (by decide) 0 31 (by decide) (by decide)
    rw [h]
    exact State.bellsApart_violate (State.bellsApart_setCtxCfg hs hn fun hon => absurd (hoff.symm.trans hon) (by decide)) _ _ _ _
  · rw [h]
    exact State.bellsApart_setCtxCfg hs hn fun _ => hok

/-- Settles O29: each of the two writes changes one context at most, and leaves it disabled or apart from the others. -/
theorem enabledBellRangesStayApart : Obligations.EnabledBellRangesStayApart := by
  intro r n v s t hs hstep
  have happart : s.bellsApart := hs
  have ht : t.bellsApart := by
    rcases hstep with hexec | ⟨hv, rfl⟩
    · rw [← Host.Outcome.next.inj (show execBellRangeWrite r n v s = .next t from hexec)]
      refine State.bellsApart_asHome happart ?_ r (R.MMU_CTX_BELLS.at n.val)
      exact State.bellsApart_writeBells happart r n.val v
    · exact State.bellsApart_writeCtxCfg happart n.isLt r hv
  exact ht

end Sys2Proof.Machine
end

section
/-! PROOF. The obligations of spec/04 on translation and on the invalidation of TLBs (R133, R135, R136). -/

namespace Sys2Proof.Machine

variable (s t : State)

theorem State.mmu_only (m : Mmu) : s.only { s with mmu := m } [.mmu] := by
  intro p hp
  cases p
  case mmu => simp at hp
  all_goals rfl

@[simp] theorem State.only_mmu_iff {l : List Part} (h : .mmu ∈ l) (m : Mmu) : s.only { t with mmu := m } l ↔ s.only t l :=
  State.only_iff_of_only (t.mmu_only m) h

/-! ### Translation -/

@[simp] theorem State.tlb_setTlb_self (unit : Nat) (l : List TlbEntry) : (s.setTlb unit l).tlb unit = l := Sparse.get_put_self ..

theorem State.tlb_setTlb_ne {unit u : Nat} (h : u ≠ unit) (l : List TlbEntry) : (s.setTlb unit l).tlb u = s.tlb u :=
  Sparse.get_put_ne _ _ _ h

theorem State.setTlb_only (unit : Nat) (l : List TlbEntry) : s.only (s.setTlb unit l) [.mmu] := s.mmu_only _

/-- A walk gives an entry of the page asked for, of 2 MiB or of 4 KiB. -/
theorem State.hits_of_walk {c vpn : Nat} {e : TlbEntry} (h : s.walk c vpn = .ok e) : e.hits c vpn = true := by
  simp only [State.walk] at h
  split_ifs at h
  · cases h
    simp [TlbEntry.hits]
  · cases h
    simp [TlbEntry.hits]

/-- A translation is a fault, which changes nothing, or an entry of the page asked for, which heads the TLB before at most 63 others. -/
theorem State.translate_cases (unit c vpn : Nat) :
    (∃ f, s.translate unit c vpn = (.fault f, s)) ∨
    ∃ e l, e.hits c vpn = true ∧ ((s.tlb unit).length ≤ 64 → l.length ≤ 63) ∧ s.translate unit c vpn = (.ok e, s.setTlb unit (e :: l)) := by
  unfold State.translate
  dsimp only
  split
  · next e he =>
    have hmem : e ∈ s.tlb unit := List.mem_of_find?_eq_some he
    have hhits : e.hits c vpn = true := by simpa using List.find?_some he
    have hlen : ((s.tlb unit).filter (fun x => x != e)).length < (s.tlb unit).length :=
      List.length_filter_lt_length_iff_exists.mpr ⟨e, hmem, by simp⟩
    exact .inr ⟨e, _, hhits, fun h => by omega, rfl⟩
  · split
    · exact .inl ⟨_, rfl⟩
    · next e he => exact .inr ⟨e, (s.tlb unit).take 63, s.hits_of_walk he, fun _ => List.length_take_le _ _, rfl⟩

/-- Settles O30: by the two outcomes of a translation. -/
theorem translationAnswersAndTlbBound : Obligations.TranslationAnswersAndTlbBound := by
  intro s unit c vpn hlen
  rcases s.translate_cases unit c vpn with ⟨f, h⟩ | ⟨e, l, hhits, hrest, h⟩
  · rw [h]
    exact ⟨fun e he => (nomatch he), hlen, fun _ _ => rfl, s.only_refl _⟩
  · rw [h]
    refine ⟨fun e' he => ?_, ?_, fun u hu => s.tlb_setTlb_ne hu _, s.setTlb_only unit _⟩
    · obtain rfl : e = e' := Walk.ok.inj he
      exact ⟨hhits, by rw [s.tlb_setTlb_self]; rfl⟩
    · have hrest63 := hrest hlen
      rw [s.tlb_setTlb_self, List.length_cons]
      omega

/-! ### A write of MMU_INVAL (R136) -/

/-- The fields of MMU_INVAL as a write with GO leaves them. -/
def State.showInval (s : State) (v : Word) : State :=
  ((s.fset F.MMU_INVAL_SCOPE (getField v 4 2)).fset F.MMU_INVAL_CTX (getField v 0 3)).setFlag F.MMU_INVAL_BUSY true

/-- The invalidation under way replaced. -/
def State.setInvalBusy (s : State) (x : Option (Nat × Nat × Nat)) : State := { s with mmu := { s.mmu with invalBusy := x } }

@[simp] theorem State.only_setInvalBusy_iff {l : List Part} (h : .mmu ∈ l) (x : Option (Nat × Nat × Nat)) :
    s.only (t.setInvalBusy x) l ↔ s.only t l := s.only_mmu_iff t h _

theorem State.rd_setInvalBusy (x : Option (Nat × Nat × Nat)) (a : Nat) : (s.setInvalBusy x).rd a = s.rd a := rfl
theorem State.flag_setInvalBusy (x : Option (Nat × Nat × Nat)) (f : Fld) (i j : Nat) : (s.setInvalBusy x).flag f i j = s.flag f i j := rfl

theorem State.showInval_regsOnly (v : Word) : s.regsOnly (s.showInval v) [R.MMU_INVAL.at] := by
  have hinval : R.MMU_INVAL.at ∈ [R.MMU_INVAL.at] := List.mem_singleton_self _
  rw [State.regsOnly_iff_regsBut]
  simp (disch := apply id; with_unfolding_all assumption) [State.showInval]

theorem State.flag_busy_showInval (v : Word) : (s.showInval v).flag F.MMU_INVAL_BUSY = true :=
  State.flag_setFlag_self _ _ _ _ _ (by decide) (by decide)

theorem State.rget_invAddr_showInval (v : Word) : (s.showInval v).rget R.MMU_INVADDR = s.rget R.MMU_INVADDR :=
  congrArg BitVec.toNat (s.showInval_regsOnly v _ (by decide))

section
variable {s} {v : Word} (hv : bit v.toNat 6 = true)
include hv

theorem State.writeInval_of_idle (hidle : s.flag F.MMU_INVAL_BUSY = false) : s.writeInval v =
    (s.showInval v).setInvalBusy (some (getField v 4 2, getField v 0 3, s.rget R.MMU_INVADDR)) := by
  rw [State.writeInval, if_neg (by simp [hidle])]
  dsimp only
  rw [if_pos hv, ← s.rget_invAddr_showInval v]
  rfl

theorem State.writeInval_of_busy (hbusy : s.flag F.MMU_INVAL_BUSY = true) : s.writeInval v = s := by
  rw [State.writeInval, if_pos ⟨hbusy, hv⟩]

end

theorem execTlbInvalidate_of_homeReq {s : State} {r : Req} (hr : s.homeReq r) (v : Word) :
    execTlbInvalidate r v s = .next (s.writeInval (setField v 6 1 1)) := by
  rw [execTlbInvalidate, State.asHome_of_homeReq hr]

/-! ### The end of an invalidation (R136) -/

/-- Every TLB without the entries that fail a test; a TLB left empty is not listed. -/
def keepEntries (keep : TlbEntry → Bool) (tlbs : List (Nat × List TlbEntry)) : List (Nat × List TlbEntry) :=
  (tlbs.map (fun x => (x.1, x.2.filter keep))).filter (fun x => x.2 != [])

theorem keepEntries_cons (keep : TlbEntry → Bool) (x : Nat × List TlbEntry) (tlbs : List (Nat × List TlbEntry)) :
    keepEntries keep (x :: tlbs) =
      if x.2.filter keep = [] then keepEntries keep tlbs else (x.1, x.2.filter keep) :: keepEntries keep tlbs := by
  simp only [keepEntries, List.map_cons, List.filter_cons, bne_iff_ne, ite_not]

theorem keep_of_mem_keepEntries {keep : TlbEntry → Bool} {tlbs : List (Nat × List TlbEntry)} {u : Nat} {e : TlbEntry}
    (h : e ∈ Sparse.get (fun _ => []) (keepEntries keep tlbs) u) : keep e = true := by
  induction tlbs with
  | nil => simp [keepEntries, Sparse.get] at h
  | cons x tlbs ih =>
    rw [keepEntries_cons] at h
    split_ifs at h with hempty
    · exact ih h
    · rw [Sparse.get] at h
      split_ifs at h with hu
      · exact (List.mem_filter.mp h).2
      · exact ih h

theorem mem_keepEntries {keep : TlbEntry → Bool} {tlbs : List (Nat × List TlbEntry)} {u : Nat} {e : TlbEntry}
    (h : e ∈ Sparse.get (fun _ => []) tlbs u) (hkeep : keep e = true) : e ∈ Sparse.get (fun _ => []) (keepEntries keep tlbs) u := by
  induction tlbs with
  | nil => simp [Sparse.get] at h
  | cons x tlbs ih =>
    rw [Sparse.get] at h
    rw [keepEntries_cons]
    split_ifs at h with hu
    · have hmem : e ∈ x.2.filter keep := List.mem_filter.mpr ⟨h, hkeep⟩
      rw [if_neg (List.ne_nil_of_mem hmem), Sparse.get, if_pos hu]
      exact hmem
    · split_ifs
      · exact ih h
      · rw [Sparse.get, if_neg hu]
        exact ih h

/-- The entries that an invalidation names dropped from every TLB. -/
def State.dropInval (s : State) (scope c vpn : Nat) : State :=
  { s with mmu := { s.mmu with tlbs := keepEntries (fun e => !invalHits scope c vpn e) s.mmu.tlbs, invalBusy := none } }

theorem State.invalHits_of_mem_dropInval {scope c vpn u : Nat} {e : TlbEntry} (h : e ∈ (s.dropInval scope c vpn).tlb u) :
    invalHits scope c vpn e = false := by
  simpa using keep_of_mem_keepEntries h

theorem State.mem_tlb_dropInval {scope c vpn u : Nat} {e : TlbEntry} (h : e ∈ s.tlb u) (hkeep : invalHits scope c vpn e = false) :
    e ∈ (s.dropInval scope c vpn).tlb u :=
  mem_keepEntries h (by simp [hkeep])

theorem State.tlb_setFlag (f : Fld) (b : Bool) (i j u : Nat) : (s.setFlag f b i j).tlb u = s.tlb u := rfl

theorem execTlbInvalidateDone_of_busy {s : State} {scope c vpn : Nat} (h : s.mmu.invalBusy = some (scope, c, vpn)) :
    execTlbInvalidateDone s = .next ((s.dropInval scope c vpn).setFlag F.MMU_INVAL_BUSY false) := by
  rw [execTlbInvalidateDone, h]
  rfl

/-- Settles O31: the write by whether an invalidation runs, and its end by what the TLBs keep. -/
theorem invalidationDropsMatchingEntries : Obligations.InvalidationDropsMatchingEntries := by
  refine ⟨fun r v s hr hidle => ⟨_, execTlbInvalidate_of_homeReq hr v, ?_⟩,
    fun r v s hr hbusy => ⟨_, execTlbInvalidate_of_homeReq hr v, State.writeInval_of_busy (bit_setField_one v (by decide)) hbusy⟩,
    fun s scope c vpn h => ⟨_, execTlbInvalidateDone_of_busy h, State.flag_setFlag_self _ _ _ _ _ (by decide) (by decide), rfl, ?_⟩⟩
  · have hscope : getField (setField v 6 1 1) 4 2 = getField v 4 2 :=
      getField_setField_disjoint v 6 1 1 4 2 (by decide) (by decide) (by decide)
    have hctx : getField (setField v 6 1 1) 0 3 = getField v 0 3 :=
      getField_setField_disjoint v 6 1 1 0 3 (by decide) (by decide) (by decide)
    rw [State.writeInval_of_idle (bit_setField_one v (by decide)) hidle, hscope, hctx]
    refine ⟨?_, rfl, rfl, by simp [State.showInval], fun a ha => ?_⟩
    · rw [State.flag_setInvalBusy, State.flag_busy_showInval]
    · rw [State.rd_setInvalBusy, s.showInval_regsOnly _ a ha]
  · simp only [State.tlb_setFlag]
    refine ⟨fun u e he => ?_, fun u e he hkeep => ?_, ?_⟩
    · exact s.invalHits_of_mem_dropInval he
    · exact s.mem_tlb_dropInval he hkeep
    · simp [State.dropInval]

end Sys2Proof.Machine
end

section
/-! PROOF. The obligation of spec/04 and spec/05 on pre-emption and broadcast starts (R147, R179). -/

namespace Sys2Proof.Machine

variable (s t : State)

/-! ### Streams -/

@[simp] theorem State.stream_setStream_self (n : Nat) (x : Stream) : (s.setStream n x).stream n = x := Sparse.get_put_self ..

theorem State.stream_setStream_ne {n k : Nat} (h : k ≠ n) (x : Stream) : (s.setStream n x).stream k = s.stream k :=
  Sparse.get_put_ne _ _ _ h

theorem State.setStream_only (n : Nat) (x : Stream) : s.only (s.setStream n x) [.streams] := by
  intro p hp
  cases p
  case streams => simp at hp
  all_goals rfl

theorem State.cim_only (x : Cim) : s.only { s with cim := x } [.cim] := by
  intro p hp
  cases p
  case cim => simp at hp
  all_goals rfl

@[simp] theorem State.only_setStream_iff {l : List Part} (h : .streams ∈ l) (n : Nat) (x : Stream) :
    s.only (t.setStream n x) l ↔ s.only t l :=
  State.only_iff_of_only (t.setStream_only n x) h

@[simp] theorem State.only_cim_iff {l : List Part} (h : .cim ∈ l) (x : Cim) : s.only { t with cim := x } l ↔ s.only t l :=
  State.only_iff_of_only (t.cim_only x) h

theorem State.stream_of_only {s t : State} {l : List Part} (h : s.only t l) (hl : .streams ∉ l) (k : Nat) : t.stream k = s.stream k :=
  congrArg (fun x => Sparse.get (fun _ => Stream.idle) x k) (h .streams hl)

/-! ### What a program holds on its unit -/

@[simp] theorem State.only_unlockLines_iff {l : List Part} (hr : .regs ∈ l) (hm : .memsys ∈ l) (k : Nat) :
    s.only (t.unlockLines k) l ↔ s.only t l := by
  simp [State.unlockLines, State.setLines, hr, hm]

theorem State.unlockProg_only (n : Nat) (p : Prog) : s.only (s.unlockProg n p) [.regs, .memsys] := by
  simp [State.unlockProg, State.only_ite, State.only_foldl]

theorem State.recordDecks_only (n cls : Nat) : s.only (s.recordDecks n cls) [.cim] := by
  simp [State.recordDecks, State.only_ite]

/-- The locked lines of program `p` are unlocked and the decks of its class are noted. -/
def State.leaveUnit (s : State) (n : Nat) (p : Prog) : State := (s.unlockProg n p).recordDecks n p.start.cls

theorem State.leaveUnit_only (n : Nat) (p : Prog) : s.only (s.leaveUnit n p) [.regs, .memsys, .cim] :=
  State.only_trans (State.only_mono (s.unlockProg_only n p) (by simp)) (State.only_mono (State.recordDecks_only _ n p.start.cls) (by simp))

theorem State.stream_leaveUnit (n : Nat) (p : Prog) (k : Nat) : (s.leaveUnit n p).stream k = s.stream k :=
  State.stream_of_only (s.leaveUnit_only n p) (by decide) k

/-! ### The end of a broadcast -/

theorem State.endBroadcast_only (n : Nat) : s.only (s.endBroadcast n) [.streams] := by
  simp [State.endBroadcast, State.only_foldl, State.only_ite]

/-- A core that follows stream `n` is released, and every other stream stays as it is. -/
theorem State.stream_endBroadcast (n k : Nat) : (s.endBroadcast n).stream k = s.stream k ∨
    ((s.stream k).follows = some n ∧ (s.endBroadcast n).stream k = { s.stream k with follows := none }) := by
  refine List.foldlRecOn (motive := fun u : State => u.stream k = s.stream k ∨
    ((s.stream k).follows = some n ∧ u.stream k = { s.stream k with follows := none })) _ _ (.inl rfl) fun u hu m _ => ?_
  dsimp only
  split
  · next hfollows =>
    by_cases hk : k = 4 + m
    · subst hk
      rcases hu with hu | ⟨-, hu⟩
      · rw [hu] at hfollows ⊢
        exact .inr ⟨hfollows, State.stream_setStream_self ..⟩
      · rw [hu] at hfollows
        cases hfollows
    · rwa [State.stream_setStream_ne _ hk]
  · exact hu

/-! ### Saving the running program (R147) -/

/-- A program as it is saved: off its unit. -/
def Prog.offUnit (p : Prog) : Prog := { p with resident := false, maps := [] }

/-- A stream with the running program `p` saved. -/
def Stream.saveProg (x : Stream) (p : Prog) : Stream := { x.remember p.offUnit with run := none, saved := x.saved ++ [p.offUnit] }

theorem State.saveRun_of_none {s : State} {n : Nat} (h : (s.stream n).run = none) : s.saveRun n = s := by
  rw [State.saveRun, h]

theorem State.saveRun_of_some {s : State} {n : Nat} {p : Prog} (h : (s.stream n).run = some p) : s.saveRun n =
    if p.start.bcast then ((s.leaveUnit n p).setStream n ((s.stream n).saveProg p)).endBroadcast n
    else (s.leaveUnit n p).setStream n ((s.stream n).saveProg p) := by
  rw [State.saveRun, h, ← s.stream_leaveUnit n p n]
  rfl

theorem State.saveRun_only (n : Nat) : s.only (s.saveRun n) [.regs, .memsys, .streams, .cim] := by
  cases h : (s.stream n).run with
  | none => simp [State.saveRun_of_none h]
  | some p =>
    have hleave : s.only (s.leaveUnit n p) [.regs, .memsys, .streams, .cim] := State.only_mono (s.leaveUnit_only n p) (by simp)
    rw [State.saveRun_of_some h, State.only_ite, State.only_iff_of_only (State.endBroadcast_only _ n) (by simp)]
    simpa using hleave

/-- Saving leaves another stream as it is, but for a core that follows the broadcast that is saved. -/
theorem State.stream_saveRun_ne {n k : Nat} (hk : k ≠ n) : (s.saveRun n).stream k = s.stream k ∨
    ((s.stream k).follows = some n ∧ (s.saveRun n).stream k = { s.stream k with follows := none }) := by
  cases h : (s.stream n).run with
  | none => exact .inl (by rw [State.saveRun_of_none h])
  | some p =>
    have hset : ((s.leaveUnit n p).setStream n ((s.stream n).saveProg p)).stream k = s.stream k := by
      rw [State.stream_setStream_ne _ hk, s.stream_leaveUnit]
    rw [State.saveRun_of_some h]
    split
    · rw [← hset]
      exact State.stream_endBroadcast _ n k
    · exact .inl hset

/-- The stream itself runs nothing then, and has saved the program; its queue is as it was. -/
theorem State.stream_saveRun_self {s : State} {n : Nat} {p : Prog} (h : (s.stream n).run = some p) :
    ((s.saveRun n).stream n).run = none ∧ ((s.saveRun n).stream n).saved = (s.stream n).saved ++ [p.offUnit] ∧
    ((s.saveRun n).stream n).queue = (s.stream n).queue := by
  have hset := (s.leaveUnit n p).stream_setStream_self n ((s.stream n).saveProg p)
  rw [State.saveRun_of_some h]
  split
  · rcases State.stream_endBroadcast ((s.leaveUnit n p).setStream n ((s.stream n).saveProg p)) n n with hend | ⟨-, hend⟩
    all_goals
      rw [hend, hset]
      exact ⟨rfl, rfl, rfl⟩
  · rw [hset]
    exact ⟨rfl, rfl, rfl⟩

theorem State.run_saveRun_self (n : Nat) : ((s.saveRun n).stream n).run = none := by
  cases h : (s.stream n).run with
  | none => rwa [State.saveRun_of_none h]
  | some p => exact (State.stream_saveRun_self h).1

/-! ### Binding the cores of a broadcast to their leader (R179) -/

/-- What core `k` runs is saved, and the core follows the leader, stream `n`. -/
def State.bindCore (n : Nat) (s : State) (k : Nat) : State :=
  (s.saveRun (4 + k)).setStream (4 + k) { (s.saveRun (4 + k)).stream (4 + k) with follows := some n }

/-- In `u` core `k` follows stream `n`, runs nothing and has saved what it ran in `s`. -/
structure State.Bound (s u : State) (n k : Nat) : Prop where
  follows : (u.stream (4 + k)).follows = some n
  run : (u.stream (4 + k)).run = none
  saved : ∀ p, (s.stream (4 + k)).run = some p → ∃ p', p' ∈ (u.stream (4 + k)).saved ∧ p'.start = p.start ∧ p'.pc = p.pc

theorem State.bindCore_only (n k : Nat) : s.only (s.bindCore n k) [.regs, .memsys, .streams, .cim] := by
  simpa [State.bindCore] using s.saveRun_only (4 + k)

theorem State.bound_bindCore (n k : Nat) : s.Bound (s.bindCore n k) n k where
  follows := by rw [State.bindCore, State.stream_setStream_self]
  run := by
    rw [State.bindCore, State.stream_setStream_self]
    exact s.run_saveRun_self _
  saved p hp := by
    obtain ⟨-, hsaved, -⟩ := State.stream_saveRun_self hp
    rw [State.bindCore, State.stream_setStream_self]
    exact ⟨p.offUnit, by simp [hsaved], rfl, rfl⟩

theorem State.stream_bindCore_ne {k m : Nat} (h : m ≠ 4 + k) (n : Nat) : (s.bindCore n k).stream m = s.stream m ∨
    ((s.stream m).follows = some (4 + k) ∧ (s.bindCore n k).stream m = { s.stream m with follows := none }) := by
  rw [State.bindCore, State.stream_setStream_ne _ h]
  exact s.stream_saveRun_ne h

theorem State.run_bindCore_ne {k m : Nat} (h : m ≠ 4 + k) (n : Nat) : ((s.bindCore n k).stream m).run = (s.stream m).run := by
  rcases s.stream_bindCore_ne h n with h | ⟨-, h⟩ <;> rw [h]

/-- Binding another core than the leader leaves a bound core bound. -/
theorem State.Bound.bindCore {s u : State} {n k m : Nat} (h : s.Bound u n k) (hm : m ≠ k) (hleader : 4 + m ≠ n) :
    s.Bound (u.bindCore n m) n k := by
  have hstream : (u.bindCore n m).stream (4 + k) = u.stream (4 + k) := by
    refine (u.stream_bindCore_ne (show 4 + k ≠ 4 + m by omega) n).resolve_right fun hother => hleader ?_
    exact Option.some.inj (hother.1.symm.trans h.follows)
  exact ⟨hstream ▸ h.follows, hstream ▸ h.run, hstream ▸ h.saved⟩

theorem State.foldl_bindCore_only (n : Nat) (l : List Nat) : s.only (l.foldl (State.bindCore n) s) [.regs, .memsys, .streams, .cim] :=
  List.foldlRecOn (motive := fun u : State => s.only u _) _ _ (s.only_refl _) fun u hu k _ => State.only_trans hu (u.bindCore_only n k)

/-- Binding the cores of a list in turn binds each of them. -/
theorem State.bound_foldl_bindCore {n : Nat} {l : List Nat} (hnodup : l.Nodup) (hleader : ∀ m ∈ l, 4 + m ≠ n) {k : Nat} (hk : k ∈ l) :
    s.Bound (l.foldl (State.bindCore n) s) n k := by
  induction l generalizing s with
  | nil => cases hk
  | cons m l ih =>
    obtain ⟨hml, hnodup⟩ := List.nodup_cons.mp hnodup
    have hleader' : ∀ m ∈ l, 4 + m ≠ n := fun m hm => hleader m (List.mem_cons_of_mem _ hm)
    rw [List.foldl_cons]
    rcases List.mem_cons.mp hk with rfl | hk
    · refine List.foldlRecOn (motive := fun u : State => s.Bound u n k) _ _ (s.bound_bindCore n k) fun u hu m hm => ?_
      exact hu.bindCore (fun h => hml (h ▸ hm)) (hleader' m hm)
    · have hne : 4 + k ≠ 4 + m := fun h => hml (Nat.add_left_cancel h ▸ hk)
      obtain ⟨hfollows, hrun, hsaved⟩ := ih (s := s.bindCore n m) hnodup hleader' hk
      exact ⟨hfollows, hrun, fun p hp => hsaved p ((s.run_bindCore_ne hne n).trans hp)⟩

/-! ### The header check (R156) -/

theorem State.run_setRun (n : Nat) (p : Option Prog) : ((s.setRun n p).stream n).run = p := by
  rw [State.setRun, State.stream_setStream_self]

/-- A program whose header is valid begins on a stream whose core is not retired. -/
theorem State.run_checkHeader {s : State} {n : Nat} {p : Prog} {h : List Byte} (hretired : s.coreRetired (n - 4) = false)
    (hfetch : (s.fetch n p.start.ctx p.start.prog 32).1 = .bytes h) (hok : headerOk n h = true) :
    ∃ p', ((s.checkHeader n p).stream n).run = some p' ∧ p'.start = p.start ∧ p'.began = true := by
  rw [State.checkHeader, if_neg (by simp [hretired])]
  split
  · next hfault => simp [hfault] at hfetch
  · next hbytes =>
    simp only [hbytes, Fetched.bytes.injEq] at hfetch
    subst hfetch
    rw [if_pos hok, State.run_setRun]
    exact ⟨_, rfl, rfl, rfl⟩

/-! ### The commands -/

section
variable {s} {n : Fin 22}

/-- The class of the highest start that waits. -/
def Stream.waitingClass (x : Stream) : Option Nat := (List.range 6).find? (fun c => x.queue.any (fun q => q.cls == c))

theorem execPreemption_of_higher {p : Prog} {c : Nat} (hrun : (s.stream n.val).run = some p) (hgroup : p.group = false)
    (hwait : (s.stream n.val).waitingClass = some c) (hc : c < p.start.cls) :
    execPreemption n s = .next ((s.saveRun n.val).beginNext n.val) := by
  rw [Stream.waitingClass] at hwait
  simp only [execPreemption, hrun, hwait]
  rw [if_neg (by omega), if_neg (by simp [hgroup])]

theorem execPreemption_of_not_higher {p : Prog} {c : Nat} (hrun : (s.stream n.val).run = some p)
    (hwait : (s.stream n.val).waitingClass = some c) (hc : p.start.cls ≤ c) : execPreemption n s = .next s := by
  rw [Stream.waitingClass] at hwait
  simp only [execPreemption, hrun, hwait]
  rw [if_pos hc]

/-- The other cores of a broadcast's mask. -/
def Start.followers (q : Start) (n : Nat) : List Nat := (setBits 16 q.cmask).filter (fun k => 4 + k ≠ n)

/-- The leader's state once the other cores are bound and the start is taken. -/
def State.lead (s : State) (n : Nat) (q : Start) : State :=
  ((q.followers n).foldl (State.bindCore n) s).setStream n
    { (((q.followers n).foldl (State.bindCore n) s).stream n).take q with run := some (Prog.ofStart q) }

theorem execBroadcastStart_of_ready {q : Start} (hq : (s.stream n.val).nextClass.bind (fun c => (s.stream n.val).firstStart c) = some q)
    (hbcast : q.bcast = true) (hfree : s.streamFree n.val = true) (hkind : streamKind n.val = 1) (hlead : bit q.cmask (n.val - 4) = true)
    (hcores : ∀ k ∈ setBits 16 q.cmask, k < 8 ∧ s.coreEnabled k = true ∧ s.coreRetired k = false ∧
      ∀ p, (s.stream (4 + k)).run = some p → q.cls < p.start.cls) :
    execBroadcastStart n s = .next ((s.lead n.val q).checkHeader n.val (Prog.ofStart q)) := by
  have hable : (setBits 16 q.cmask).all (fun k => decide (k < 8) && s.coreEnabled k && !s.coreRetired k) = true := by
    rw [List.all_eq_true]
    intro k hk
    obtain ⟨hlt, henabled, hretired, -⟩ := hcores k hk
    simp [hlt, henabled, hretired]
  simp only [execBroadcastStart, hq]
  rw [if_neg (by simp [hbcast, hfree]), if_neg (by simp [hkind, hlead, hable]), if_neg]
  · rfl
  · rw [Bool.not_eq_true, List.any_eq_false]
    intro k hk
    obtain ⟨-, -, -, hlower⟩ := hcores k hk
    cases hrun : (s.stream (4 + k)).run with
    | none => simp
    | some p => simpa using hlower p hrun

end

theorem State.lead_only (n : Nat) (q : Start) : s.only (s.lead n q) [.regs, .memsys, .streams, .cim] := by
  simpa [State.lead] using s.foldl_bindCore_only n (q.followers n)

theorem State.run_lead (n : Nat) (q : Start) : ((s.lead n q).stream n).run = some (Prog.ofStart q) := by
  rw [State.lead, State.stream_setStream_self]

theorem State.bound_lead {n k : Nat} {q : Start} (hk : k ∈ setBits 16 q.cmask) (hne : 4 + k ≠ n) : s.Bound (s.lead n q) n k := by
  have hnodup : (q.followers n).Nodup := (List.nodup_range.filter _).filter _
  have hleader : ∀ m ∈ q.followers n, 4 + m ≠ n := fun m hm => by simpa using (List.mem_filter.mp hm).2
  obtain ⟨hfollows, hrun, hsaved⟩ := s.bound_foldl_bindCore hnodup hleader (List.mem_filter.mpr ⟨hk, by simpa using hne⟩)
  have hstream : (s.lead n q).stream (4 + k) = ((q.followers n).foldl (State.bindCore n) s).stream (4 + k) :=
    State.stream_setStream_ne _ hne _
  exact ⟨hstream ▸ hfollows, hstream ▸ hrun, hstream ▸ hsaved⟩

/-- Settles O35: pre-emption by the class that waits; a broadcast start by the cores it binds, then the check of its header. -/
theorem preemptionSavesAndBroadcastBinds : Obligations.PreemptionSavesAndBroadcastBinds := by
  refine ⟨fun n s p c hrun hgroup hwait hc => ?_, fun n s p c hrun hwait hc => ⟨s, execPreemption_of_not_higher hrun hwait hc, rfl⟩,
    fun n s q hq hbcast hfree hkind hlead hcores => ?_⟩
  · obtain ⟨hnone, hsaved, hqueue⟩ := State.stream_saveRun_self hrun
    exact ⟨_, _, execPreemption_of_higher hrun hgroup hwait hc, rfl, hnone, hsaved, hqueue, s.saveRun_only n.val⟩
  · refine ⟨_, s.lead n.val q, execBroadcastStart_of_ready hq hbcast hfree hkind hlead hcores, rfl, s.run_lead n.val q, s.lead_only n.val q,
      fun k hk hne => ?_, fun h hfetch hok hretired => State.run_checkHeader (p := Prog.ofStart q) hretired hfetch hok⟩
    obtain ⟨hfollows, hnone, hsaved⟩ := s.bound_lead hk hne
    exact ⟨hfollows, hnone, hsaved⟩

end Sys2Proof.Machine
end

section
/-! PROOF. Rules of engine streams (spec/05): what a stream shows after its program is replaced. -/

namespace Sys2Proof.Machine

variable (s t : State)

theorem State.setRun_only (n : Nat) (p : Option Prog) : s.only (s.setRun n p) [.streams] := s.setStream_only n _

@[simp] theorem State.only_setRun_iff {l : List Part} (h : .streams ∈ l) (n : Nat) (p : Option Prog) :
    s.only (t.setRun n p) l ↔ s.only t l := s.only_setStream_iff t h n _

theorem State.stream_setRun_self (n : Nat) (p : Option Prog) : (s.setRun n p).stream n = { s.stream n with run := p } :=
  s.stream_setStream_self n _

theorem State.rd_setRun (n : Nat) (p : Option Prog) (a : Nat) : (s.setRun n p).rd a = s.rd a := rfl

end Sys2Proof.Machine
end

section
/-! PROOF. The obligation of spec/05 on the CTRL slot (R162). -/

namespace Sys2Proof.Machine

/-- A CTRL slot that falls due is performed by the command of its opcode. -/
theorem State.ctrlSlot_of_due {s : State} {n y opc : Nat} {p : Prog} (hrun : (s.stream n).run = some p) (hdue : p.ctrlDue = some y)
    (hop : bits y 56 8 = opc) (f : Prog → Nat → State) : s.ctrlSlot n opc f = f p y := by
  simp only [State.ctrlSlot, hrun, hdue]
  exact if_pos hop

/-- A command that stores a program for the stream changes nothing but the stream. -/
theorem exists_next_setRun {o : Out State} {s : State} {n : Nat} {q : Prog} (h : o = .next (s.setRun n (some q))) :
    ∃ t, o = .next t ∧ s.only t [.streams] ∧ (t.stream n).run = some q :=
  ⟨_, h, s.setRun_only n _, s.run_setRun n _⟩

/-- DELAY's first event counts CYCLES from now, each later one compares. -/
theorem execCtrlDelay_of_due {s : State} {n : Fin 22} {y : Nat} {p : Prog} (hrun : (s.stream n.val).run = some p)
    (hdue : p.ctrlDue = some y) (hop : bits y 56 8 = 7) {last : Nat} (hlast : last = if p.delay = 0 then s.now + bits y 0 32 else p.delay - 1) :
    execCtrlDelay n s =
      .next (s.setRun n.val (some (if last ≤ s.now then { p.ctrlEnd with delay := 0 } else { p with delay := last + 1 }))) := by
  subst hlast
  exact congrArg _ (State.ctrlSlot_of_due hrun hdue hop _)

/-- Settles O38: each command by the slot that falls due; RELEASE by the fill, DELAY by the cycle. -/
theorem controlSlotsAct : Obligations.ControlSlotsAct := by
  intro n s p y hrun hdue
  have hslot {opc : Nat} (hop : bits y 56 8 = opc) (f : Prog → Nat → State) : (.next (s.ctrlSlot n.val opc f) : Out State) = .next (f p y) :=
    congrArg _ (State.ctrlSlot_of_due hrun hdue hop f)
  refine ⟨fun hop => exists_next_setRun (hslot hop _), fun hop => exists_next_setRun (hslot hop _),
    fun hop => exists_next_setRun (hslot hop _), fun hop => exists_next_setRun (hslot hop _),
    fun hop hunits hregion hle => ⟨_, hslot hop _, ?_⟩, fun hop hfirst hcycles => exists_next_setRun ?_,
    fun hop hlater hcome => exists_next_setRun ?_⟩
  · dsimp only
    rw [State.releaseRegion_of_le hunits hle]
    refine ⟨by simp, fun a ha => ?_, ?_, State.run_setRun ..⟩
    · rw [State.rd_setRun, State.rd_rset_ne _ _ _ _ _ _ (by simpa using ha)]
    · rw [State.crTail, State.rget, State.rd_setRun]
      exact (State.rget_rset_self ..).trans (Nat.mod_mod ..)
  · refine (execCtrlDelay_of_due hrun hdue hop (if_pos hfirst).symm).trans ?_
    rw [if_neg (by omega)]
  · refine (execCtrlDelay_of_due hrun hdue hop (if_neg hlater).symm).trans ?_
    rw [if_pos hcome]
    rfl

end Sys2Proof.Machine
end

section
/-! PROOF. The obligation of spec/05 on waits (R172). -/

namespace Sys2Proof.Machine

variable (s : State)

theorem State.bell_lt (b : Nat) : s.bell b < 65536 := getField_lt _ _ _

/-- The model adds 2^17 before it subtracts, so that the difference of a bell and a wait's target stays a natural number. -/
theorem ofSigned_sub_eq {b x : Nat} (hb : b < 65536) (hx : x ≤ 2 ^ 17) : ofSigned 16 ((b : Int) - (x : Int)) = (b + 2 ^ 17 - x) % 65536 := by
  unfold ofSigned
  omega

/-! ### Latching -/

/-- The lowest bit of a wait's fields in the SYNC slot. -/
def waitBase (w : Fin 2) : Nat := if w.val = 0 then 43 else 22

/-- Whether a wait of the bundle is latched. -/
def Prog.latched (p : Prog) (w : Fin 2) : Bool := if w.val = 0 then p.w0 else p.w1

/-- A wait latched, with its expect counter advanced. -/
def Prog.latch (p : Prog) (w : Fin 2) (k v : Nat) : Prog :=
  { p with expect := setAt p.expect k v, w0 := p.w0 || decide (w.val = 0), w1 := p.w1 || decide (w.val = 1) }

/-- A program whose bundle waits no more is ready. -/
def Prog.endWaiting (p : Prog) (now : Nat) : Prog := if p.waits then p else { p with phase := .ready, readyTb := now }

theorem Prog.endWaiting_keeps (p : Prog) (now : Nat) : (p.endWaiting now).w0 = p.w0 ∧ (p.endWaiting now).w1 = p.w1 ∧
    (p.endWaiting now).expect = p.expect ∧ (p.endWaiting now).bundle = p.bundle ∧ (p.endWaiting now).pc = p.pc ∧
    (p.endWaiting now).marks = p.marks := by
  unfold Prog.endWaiting
  split <;> exact ⟨rfl, rfl, rfl, rfl, rfl, rfl⟩

theorem Prog.latch_waits (p : Prog) (w : Fin 2) (k v : Nat) :
    (if w.val = 0 then (p.latch w k v).w0 else (p.latch w k v).w1) = true ∧
    (if w.val = 0 then (p.latch w k v).w1 else (p.latch w k v).w0) = (if w.val = 0 then p.w1 else p.w0) := by
  obtain rfl | rfl : w = 0 ∨ w = 1 := by omega
  all_goals simp [Prog.latch]

theorem getD_setAt_self {α : Type} {l : List α} {k : Nat} (h : k < l.length) (v d : α) : (setAt l k v).getD k d = v := by
  simp [setAt, List.getD_eq_getElem?_getD, h]

theorem getD_setAt_ne {α : Type} (l : List α) {j k : Nat} (h : j ≠ k) (v d : α) : (setAt l k v).getD j d = l.getD j d := by
  simp [setAt, List.getD_eq_getElem?_getD, Ne.symm h]

/-! ### SYNC_WAIT_SATISFIED -/

/-- A wait's expect counter, its target, and what the bell has beyond the target. -/
def waitCounter (y : Nat) (w : Fin 2) : Nat := bits y (waitBase w + 8) 3
def Prog.waitTarget (p : Prog) (y : Nat) (w : Fin 2) : Nat := p.expect.getD (waitCounter y w) 0 + bits y (waitBase w) 8
def State.waitDiff (s : State) (p : Prog) (y : Nat) (w : Fin 2) : Int :=
  toSigned 16 (ofSigned 16 ((s.bell (bits y (waitBase w + 11) 9) : Int) - (p.waitTarget y w : Int)))

section
variable {s : State} {n : Fin 22} {w : Fin 2} {p : Prog} {y : Nat} (hrun : (s.stream n.val).run = some p)
  (hphase : p.phase = .waiting) (hsync : p.bundle.bind (fun b => b.slot 0) = some y)
include hrun hphase hsync

theorem execSyncWaitSatisfied_of_waiting : execSyncWaitSatisfied n w s = .next
    (if (bit y (waitBase w + 20) && !p.latched w &&
        decide (0 ≤ toSigned 16 ((s.bell (bits y (waitBase w + 11) 9) + 2 ^ 17 - p.waitTarget y w) % 65536))) = true
      then s.setRun n.val (some ((p.latch w (waitCounter y w) (p.waitTarget y w % 65536)).endWaiting s.now)) else s) := by
  simp only [execSyncWaitSatisfied, hrun, hsync]
  rw [if_neg (not_not_intro hphase)]
  rfl

theorem execSyncWaitSatisfied_of_latched (h : p.latched w = true) : execSyncWaitSatisfied n w s = .next s := by
  rw [execSyncWaitSatisfied_of_waiting hrun hphase hsync, if_neg (by simp [h])]

variable (hcounter : p.expect.getD (waitCounter y w) 0 < 65536)
include hcounter

omit hrun hphase hsync in
theorem State.waitDiff_eq (s : State) : s.waitDiff p y w =
    toSigned 16 ((s.bell (bits y (waitBase w + 11) 9) + 2 ^ 17 - p.waitTarget y w) % 65536) := by
  have hstep : bits y (waitBase w) 8 < 256 := Nat.mod_lt _ (by decide)
  rw [State.waitDiff, ofSigned_sub_eq (s.bell_lt _) (by unfold Prog.waitTarget; omega)]

theorem execSyncWaitSatisfied_of_reached (hen : bit y (waitBase w + 20) = true) (hlatched : p.latched w = false)
    (hdiff : 0 ≤ s.waitDiff p y w) : execSyncWaitSatisfied n w s = .next
      (s.setRun n.val (some ((p.latch w (waitCounter y w) (p.waitTarget y w % 65536)).endWaiting s.now))) := by
  rw [State.waitDiff_eq hcounter] at hdiff
  rw [execSyncWaitSatisfied_of_waiting hrun hphase hsync, if_pos (by rw [hen, hlatched, decide_eq_true hdiff]; rfl)]

theorem execSyncWaitSatisfied_of_not_reached (hdiff : s.waitDiff p y w < 0) : execSyncWaitSatisfied n w s = .next s := by
  rw [State.waitDiff_eq hcounter] at hdiff
  rw [execSyncWaitSatisfied_of_waiting hrun hphase hsync, decide_eq_false (Int.not_le.mpr hdiff),
    Bool.and_false, if_neg Bool.false_ne_true]

end

/-- Settles O36: a wait by whether it is latched and where its bell stands; a save keeps the whole program. -/
theorem waitsAreSatisfiedAndLatched : Obligations.WaitsAreSatisfiedAndLatched := by
  intro n w s p b y hrun hphase hbundle hslot hlen
  have hcounters : waitCounter y w < p.expect.length := hlen ▸ Nat.mod_lt _ (by decide)
  have hsync : p.bundle.bind (fun b => b.slot 0) = some y := by rw [hbundle, Option.bind_some, hslot]
  refine ⟨⟨fun hcounter hen hlatched hdiff => ?_,
    fun hcounter hdiff => ⟨s, execSyncWaitSatisfied_of_not_reached hrun hphase hsync hcounter hdiff, rfl⟩,
    fun hlatched => ⟨s, execSyncWaitSatisfied_of_latched hrun hphase hsync hlatched, rfl⟩⟩, ?_⟩
  · obtain ⟨hw0, hw1, hexpect, hbundle', hpc, hmarks⟩ :=
      (p.latch w (waitCounter y w) (p.waitTarget y w % 65536)).endWaiting_keeps s.now
    obtain ⟨hset, hother⟩ := p.latch_waits w (waitCounter y w) (p.waitTarget y w % 65536)
    refine ⟨_, _, execSyncWaitSatisfied_of_reached hrun hphase hsync hcounter hen hlatched hdiff, s.run_setRun _ _, ?_, ?_, ?_,
      fun j hj => ?_, hbundle', hpc, hmarks, s.setRun_only _ _⟩
    · rw [hw0, hw1, hset]
    · rw [hw0, hw1, hother]
    · rw [hexpect]
      exact getD_setAt_self hcounters _ _
    · rw [hexpect]
      exact getD_setAt_ne _ hj _ _
  · obtain ⟨-, hsaved, -⟩ := State.stream_saveRun_self hrun
    exact ⟨p.offUnit, by simp [hsaved], rfl, rfl, rfl⟩

end Sys2Proof.Machine
end

section
/-! PROOF. What the fetches and translations of engine streams (spec/04, spec/05) leave alone. -/

namespace Sys2Proof.Machine

variable (s : State)

theorem State.violatePages_only (unit c : Nat) (m : PageMap) : s.only (s.violatePages unit c m) [.regs] := by
  refine List.foldlRecOn (motive := fun u : State => s.only u [.regs]) _ _ (s.only_refl _) fun u hu x _ => ?_
  split
  · exact (s.only_violate_iff u (by simp) _ _ _ _).mpr hu
  · exact hu

theorem State.translate_only (unit c vpn : Nat) : s.only (s.translate unit c vpn).2 [.mmu] := by
  rcases s.translate_cases unit c vpn with ⟨f, h⟩ | ⟨e, l, -, -, h⟩
  · rw [h]
    exact s.only_refl _
  · rw [h]
    exact s.setTlb_only unit _

theorem State.translatePages_only (unit c : Nat) (l : List (Nat × Acc3)) (m : PageMap) :
    s.only (s.translatePages unit c l m).2 [.mmu] := by
  induction l generalizing s m with
  | nil => exact s.only_refl _
  | cons x l ih =>
    have hfirst := s.translate_only unit c x.1
    unfold State.translatePages
    split
    · next h => rwa [h] at hfirst
    · next h =>
      rw [h] at hfirst
      exact State.only_trans hfirst (ih _ _)

theorem State.touch_only (unit c : Nat) (l : List Touch) (m : PageMap) : s.only (s.touch unit c l m).2 [.mmu] := by
  induction l generalizing s m with
  | nil => exact s.only_refl _
  | cons x l ih =>
    have hfirst := s.translate_only unit c x.vpn
    unfold State.touch
    split
    · next h => rwa [h] at hfirst
    · next h =>
      rw [h] at hfirst
      exact State.only_trans hfirst (ih _ _)

theorem State.fetch_only (n c va k : Nat) : s.only (s.fetch n c va k).2 [.regs, .mmu] := by
  have hpages := s.translatePages_only n c ((pagesOf va k).map (fun v => (v, Acc3.fetch))) []
  unfold State.fetch
  split
  · next h =>
    rw [h] at hpages
    exact State.only_mono hpages (by simp)
  · next h =>
    rw [h] at hpages
    exact State.only_trans (State.only_mono hpages (by simp)) (State.only_mono (State.violatePages_only _ _ _ _) (by simp))

end Sys2Proof.Machine
end

section
/-! PROOF. The obligation of spec/05 on starts (R153 to R156, R175). -/

namespace Sys2Proof.Machine

variable (s : State)

/-! ### A start's submission (R154) -/

theorem State.startResult_lt (c : Nat) (b : List Byte) : s.startResult c b < 16 := by
  unfold State.startResult
  dsimp only
  split_ifs <;> decide

/-- The stream with a start joined to its queue, or to those held. -/
def Stream.join (x : Stream) (q : Start) : Stream :=
  if q.hold then { x with held := x.held ++ [q] } else { x with queue := x.queue ++ [q] }

theorem State.fst_submitStart (c unit addr : Nat) (b : List Byte) : (s.submitStart c unit addr b).1 = s.startResult c b := by
  unfold State.submitStart
  dsimp only
  split <;> rfl

theorem State.submitStart_of_good {s : State} {c : Nat} {b : List Byte} (h : s.startResult c b = 0) (unit addr : Nat) :
    s.submitStart c unit addr b =
      (0, s.setStream (parseStart c b).stream ((s.stream (parseStart c b).stream).join (parseStart c b))) := by
  simp [State.submitStart, h, Stream.join]

/-- A start that is refused is a violation at most. -/
theorem State.submitStart_of_refused {s : State} {c : Nat} {b : List Byte} (h : s.startResult c b ≠ 0) (unit addr : Nat) :
    s.only (s.submitStart c unit addr b).2 [.regs] := by
  simp [State.submitStart, h, State.only_ite]

/-- The 32 bytes of a context's start window. -/
def State.startWindow (s : State) (n : Nat) : List Byte := (List.range 8).flatMap (fun k => leBytes 4 (s.rget R.ENG_C_SDESC n k))

theorem State.startGo_of_set {v : Word} (hv : bit v.toNat 0 = true) (r : Req) (n : Nat) : s.startGo r n v =
    (s.submitStart n (unitOf r) (R.ENG_C_SGO.at n) (s.startWindow n)).2.fset F.ENG_C_SSTAT_RESULT (s.startResult n (s.startWindow n)) n := by
  rw [State.startGo, if_pos hv, ← s.fst_submitStart n (unitOf r) (R.ENG_C_SGO.at n) (s.startWindow n)]
  rfl

theorem State.stream_fset (f : Fld) (v i j k : Nat) : (s.fset f v i j).stream k = s.stream k := rfl

section
variable {s} {v : Word} (hv : bit v.toNat 0 = true) (r : Req) (n : Nat)
include hv

theorem State.result_startGo : (s.startGo r n v).fget F.ENG_C_SSTAT_RESULT n = s.startResult n (s.startWindow n) := by
  rw [s.startGo_of_set hv, State.fget_fset_self _ _ _ _ _ (by decide) (by decide)]
  exact Nat.mod_eq_of_lt (s.startResult_lt _ _)

theorem State.stream_startGo_of_good (hgood : s.startResult n (s.startWindow n) = 0) :
    (s.startGo r n v).stream (parseStart n (s.startWindow n)).stream =
      (s.stream (parseStart n (s.startWindow n)).stream).join (parseStart n (s.startWindow n)) := by
  rw [s.startGo_of_set hv, State.stream_fset, State.submitStart_of_good hgood, State.stream_setStream_self]

theorem State.startGo_only : s.only (s.startGo r n v) [.regs, .streams] := by
  rw [s.startGo_of_set hv, State.only_fset_iff _ _ (by simp)]
  by_cases hgood : s.startResult n (s.startWindow n) = 0
  · simp [State.submitStart_of_good hgood]
  · exact State.only_mono (State.submitStart_of_refused hgood _ _) (by simp)

theorem State.streams_startGo_of_refused (hbad : s.startResult n (s.startWindow n) ≠ 0) : (s.startGo r n v).streams = s.streams := by
  rw [s.startGo_of_set hv]
  exact State.submitStart_of_refused hbad _ _ .streams (by simp)

end

theorem execEngStartGo_of_own {s : State} {r : Req} {n : Fin 8} (hon : s.reqOn r = true) (hctx : s.ctxOf r = n.val)
    (hen : s.ctxEnabled n.val = true) (v : Word) : execEngStartGo r n v s = .next (s.startGo r n.val v) := by
  rw [execEngStartGo, State.asCtx_of_ok _ _ _ hon (hctx ▸ hen) (by simp [hctx])]

/-! ### The next work of a stream (R146, R155, R156) -/

theorem State.applyClocks_only (n : Nat) : s.only (s.applyClocks n) [.safe] := by
  unfold State.applyClocks
  split
  · intro p hp
    cases p
    case safe => simp at hp
    all_goals rfl
  · exact s.only_refl _

theorem State.stream_applyClocks (n k : Nat) : (s.applyClocks n).stream k = s.stream k :=
  State.stream_of_only (s.applyClocks_only n) (by decide) k

theorem State.rd_of_only {s t : State} {l : List Part} (h : s.only t l) (hl : .regs ∉ l) (a : Nat) : t.rd a = s.rd a :=
  congrArg (fun x => Sparse.get regReset x a) (h .regs hl)

theorem State.coreRetired_of_only {s t : State} {l : List Part} (h : s.only t l) (hl : .regs ∉ l) (k : Nat) :
    t.coreRetired k = s.coreRetired k := State.flag_of_rd (State.rd_of_only h hl _)

theorem State.selectDeck_only (d g pos l : Nat) : s.only (s.selectDeck d g pos l) [.cim] := by
  unfold State.selectDeck
  dsimp only
  split
  · exact s.cim_only _
  · exact State.only_trans (s.cim_only _) (State.cim_only _ _)

theorem State.restoreDecks_only (n cls : Nat) : s.only (s.restoreDecks n cls) [.cim] := by
  unfold State.restoreDecks
  split
  · exact s.only_refl _
  · refine List.foldlRecOn (motive := fun u : State => s.only u [.cim]) _ _ (s.only_refl _) fun u hu k _ => ?_
    dsimp only
    split
    · exact hu
    · exact State.only_trans hu (u.selectDeck_only _ _ _ _)

/-- A program whose header has been found valid. -/
def Prog.withHeader (p : Prog) (h : List Byte) (now : Nat) : Prog :=
  { p with began := true, length := leAt h 8 4, timed := bit (leAt h 7 1) 0, pinres := leAt h 12 1, marktype := leAt h 16 2, lastIssue := now }

theorem State.checkHeader_of_valid {s : State} {n : Nat} {p : Prog} {h : List Byte}
    (hretired : streamKind n ≠ 1 ∨ s.coreRetired (n - 4) = false) (hfetch : (s.fetch n p.start.ctx p.start.prog 32).1 = .bytes h)
    (hok : headerOk n h = true) : s.checkHeader n p =
      (s.fetch n p.start.ctx p.start.prog 32).2.setRun n
        (some (p.withHeader h (s.fetch n p.start.ctx p.start.prog 32).2.now)) := by
  have hcore : ¬(streamKind n = 1 ∧ s.coreRetired (n - 4) = true) := by
    rintro ⟨hkind, hcore⟩
    exact hretired.elim (· hkind) (fun h => Bool.false_ne_true (h.symm.trans hcore))
  rw [State.checkHeader, if_neg hcore]
  split
  · next h' => simp [h'] at hfetch
  · next h' =>
    simp only [h', Fetched.bytes.injEq] at hfetch ⊢
    subst hfetch
    rw [if_pos hok]
    rfl

/-- The program of start `q` as it begins. -/
def Prog.begun (q : Start) : Prog := { Prog.ofStart q with group := q.hold }

/-- The state in which start `q` has been taken up by stream `n`. -/
def State.takeStart (s : State) (n : Nat) (q : Start) : State :=
  (s.applyClocks n).setStream n { (s.stream n).take q with run := some (Prog.begun q) }

theorem State.takeStart_only (n : Nat) (q : Start) : s.only (s.takeStart n q) [.streams, .safe] := by
  rw [State.takeStart, State.only_setStream_iff _ _ (by simp)]
  exact State.only_mono (s.applyClocks_only n) (by simp)

theorem State.queue_takeStart (n : Nat) (q : Start) : ((s.takeStart n q).stream n).queue = ((s.stream n).take q).queue := by
  rw [State.takeStart, State.stream_setStream_self]

section
variable {s : State} {n c : Nat} (hfree : s.streamFree n = true) (hclass : (s.stream n).nextClass = some c)
include hfree hclass

theorem State.beginNext_of_start {q : Start} (hsaved : (s.stream n).saved.find? (fun p => p.start.cls == c) = none)
    (hfirst : (s.stream n).firstStart c = some q) (hbcast : q.bcast = false) :
    s.beginNext n = (s.takeStart n q).checkHeader n (Prog.begun q) := by
  simp only [State.beginNext, hfree, s.stream_applyClocks, hclass, hsaved, hfirst, hbcast]
  rfl

theorem State.beginNext_of_saved {p : Prog} (hsaved : (s.stream n).saved.find? (fun p => p.start.cls == c) = some p)
    (hbegan : p.began = true) : s.beginNext n =
      ((s.applyClocks n).setStream n { s.stream n with run := some p.resumed, saved := (s.stream n).saved.erase p }).restoreDecks n c := by
  simp only [State.beginNext, hfree, s.stream_applyClocks, hclass, hsaved, hbegan]
  rfl

end

/-! ### The held starts (R175) -/

/-- A stream that holds a start releases it. -/
def Stream.release (x : Stream) : Stream := if x.held = [] then x else { x with released := true }

theorem Stream.release_release (x : Stream) : x.release.release = x.release := by
  by_cases h : x.held = []
  · simp [Stream.release, h]
  · simp [Stream.release, h]

theorem State.releaseTimed_eq (v : Word) :
    s.releaseTimed v = (setBits 22 v.toNat).foldl (fun u k => if (u.stream k).held = [] then u else u.setStream k (u.stream k).release) s := by
  rw [State.releaseTimed]
  refine List.foldl_ext _ _ _ fun u k _ => ?_
  split
  · rfl
  · next h => rw [Stream.release, if_neg h]

theorem State.releaseTimed_only (v : Word) : s.only (s.releaseTimed v) [.streams] := by
  simp [State.releaseTimed, State.only_foldl, State.only_ite]

/-- Releasing the streams of a list, each stream is released or stays as it is. -/
theorem State.stream_foldl_release (l : List Nat) (k : Nat) :
    (l.foldl (fun u k => if (u.stream k).held = [] then u else u.setStream k (u.stream k).release) s).stream k =
      if k ∈ l then (s.stream k).release else s.stream k := by
  induction l generalizing s with
  | nil => simp
  | cons m l ih =>
    have hstep : (if (s.stream m).held = [] then s else s.setStream m (s.stream m).release).stream k =
        if k = m then (s.stream k).release else s.stream k := by
      split_ifs with hheld hkm hkm
      · rw [hkm, Stream.release, if_pos hheld]
      · rfl
      · rw [hkm, State.stream_setStream_self]
      · rw [State.stream_setStream_ne _ hkm]
    rw [List.foldl_cons, ih, hstep]
    by_cases hkm : k = m
    · simp [hkm, Stream.release_release]
    · simp [hkm]

theorem mem_setBits {n m k : Nat} : k ∈ setBits n m ↔ k < n ∧ bit m k = true := by
  simp [setBits]

theorem State.stream_releaseTimed (v : Word) (k : Nat) : (s.releaseTimed v).stream k =
    if k < 22 ∧ bit v.toNat k = true ∧ (s.stream k).held ≠ [] then { s.stream k with released := true } else s.stream k := by
  rw [s.releaseTimed_eq, s.stream_foldl_release, Stream.release]
  by_cases hheld : (s.stream k).held = [] <;> simp [mem_setBits, hheld]

theorem execTimedGroupRelease_of_homeReq {s : State} {r : Req} (hr : s.homeReq r) (v : Word) :
    execTimedGroupRelease r v s = .next (s.releaseTimed v) := by
  rw [execTimedGroupRelease, State.asHome_of_homeReq hr]

/-! ### The statement -/

/-- Settles O34: a start by its result, the next work of a stream by what it holds, a release stream by stream. -/
theorem startsQueueAndBegin : Obligations.StartsQueueAndBegin := by
  refine ⟨fun r n v s hon hctx hen hv => ⟨_, execEngStartGo_of_own hon hctx hen v, State.result_startGo hv r n.val,
      fun hgood hhold => ?_, fun hgood hhold => ?_, State.streams_startGo_of_refused hv r n.val, State.startGo_only hv r n.val⟩,
    fun n s c q h hfree hclass hsaved hfirst hbcast hretired hfetch hok => ⟨s.beginNext n.val, ?_⟩,
    fun n s c p hfree hclass hsaved hbegan => ⟨s.beginNext n.val, rfl, ?_⟩,
    fun r v s hr => ⟨_, execTimedGroupRelease_of_homeReq hr v, s.releaseTimed_only v, s.stream_releaseTimed v⟩⟩
  · refine (congrArg Stream.queue (State.stream_startGo_of_good hv r n.val hgood)).trans ?_
    exact congrArg Stream.queue (if_neg (ne_true_of_eq_false hhold))
  · refine (congrArg Stream.held (State.stream_startGo_of_good hv r n.val hgood)).trans ?_
    exact congrArg Stream.held (if_pos hhold)
  · have hcore : streamKind n.val ≠ 1 ∨ (s.takeStart n.val q).coreRetired (n.val - 4) = false := by
      rwa [State.coreRetired_of_only (s.takeStart_only n.val q) (by simp)]
    have hbegin := State.checkHeader_of_valid (p := Prog.begun q) hcore hfetch hok
    rw [← State.beginNext_of_start hfree hclass hsaved hfirst hbcast] at hbegin
    have hfetched := (s.takeStart n.val q).fetch_only n.val q.ctx q.prog 32
    refine ⟨_, rfl, (congrArg (fun u : State => (u.stream n.val).run) hbegin).trans (State.run_setRun ..), rfl, rfl, rfl, rfl, rfl, rfl,
      rfl, rfl, ?_, ?_⟩
    · rw [hbegin, State.stream_setRun_self]
      refine (congrArg Stream.queue (State.stream_of_only hfetched (by simp) n.val)).trans ?_
      exact s.queue_takeStart n.val q
    · rw [hbegin, State.only_setRun_iff _ _ (by simp)]
      exact State.only_trans (State.only_mono (s.takeStart_only n.val q) (by simp)) (State.only_mono hfetched (by simp))
  · rw [State.beginNext_of_saved hfree hclass hsaved hbegan]
    have hdecks := ((s.applyClocks n.val).setStream n.val
      { s.stream n.val with run := some p.resumed, saved := (s.stream n.val).saved.erase p }).restoreDecks_only n.val c
    rw [State.stream_of_only hdecks (by simp), State.stream_setStream_self]
    refine ⟨rfl, rfl, State.only_trans ?_ (State.only_mono hdecks (by simp))⟩
    rw [State.only_setStream_iff _ _ (by simp)]
    exact State.only_mono (s.applyClocks_only n.val) (by simp)

end Sys2Proof.Machine
end

section
/-! PROOF. What halts and the work around them leave alone (spec/05): the registers of the streams, and the streams themselves. -/

namespace Sys2Proof.Machine

variable (s t : State)

/-! ### The registers of the streams -/

/-- The registers that show the streams' state lie before the bells. -/
def streamReg (a : Nat) : Bool := decide (R.ENG_S_STAT.base ≤ a) && decide (a < R.ENG_BELL.base)

/-- The registers of the streams by address. -/
def State.streamRegs (s : State) (a : Nat) : Word := if streamReg a then s.rd a else 0

theorem State.rd_of_streamRegs {s t : State} (h : t.streamRegs = s.streamRegs) {a : Nat} (ha : streamReg a = true) : t.rd a = s.rd a := by
  simpa [State.streamRegs, ha] using congrFun h a

theorem State.streamRegs_of_only {s t : State} {l : List Part} (h : s.only t l) (hl : .regs ∉ l) : t.streamRegs = s.streamRegs :=
  funext fun a => by rw [State.streamRegs, State.streamRegs, State.rd_of_only h hl]

@[simp ↓] theorem State.streamRegs_mk (timebase shadows armed latches lyctx0 lyctx1 locked d2dFails mem memsys mmu streams sto rings chn cim
    acq aos aoSilent safe ledger hosts pwr boot tap irqCimp events irqFault irqHalt irqSto resp tx free pending) :
    State.streamRegs ⟨timebase, s.regs, shadows, armed, latches, lyctx0, lyctx1, locked, d2dFails, mem, memsys, mmu, streams, sto, rings,
      chn, cim, acq, aos, aoSilent, safe, ledger, hosts, pwr, boot, tap, irqCimp, events, irqFault, irqHalt, irqSto, resp, tx, free,
      pending⟩ = s.streamRegs := (rfl)

@[simp ↓] theorem State.streamRegs_ite (c : Prop) [Decidable c] (a b : State) :
    (if c then a else b).streamRegs = if c then a.streamRegs else b.streamRegs := apply_ite ..

theorem streamRegs_foldl {α : Type} {f : State → α → State} {l : List α}
    (h : ∀ u, ∀ x ∈ l, (f u x).streamRegs = u.streamRegs) (s : State) :
    (l.foldl f s).streamRegs = s.streamRegs :=
  List.foldlRecOn (motive := fun u : State => u.streamRegs = s.streamRegs) _ _ rfl fun u hu x hx => (h u x hx).trans hu

@[simp ↓] theorem State.wr_streamRegs {a : Nat} (h : streamReg a = false) (v : Word) : (s.wr a v).streamRegs = s.streamRegs := by
  funext b
  by_cases hb : b = a
  · simp [State.streamRegs, hb, h]
  · simp [State.streamRegs, s.rd_wr_ne v hb]

section
variable {i j : Nat}

@[simp ↓] theorem State.rset_streamRegs {r : RegDesc} (h : streamReg (r.at i j) = false) (v : Nat) :
    (s.rset r v i j).streamRegs = s.streamRegs := s.wr_streamRegs h _
@[simp ↓] theorem State.fset_streamRegs {f : Fld} (h : streamReg (f.reg.at i j) = false) (v : Nat) :
    (s.fset f v i j).streamRegs = s.streamRegs := s.wr_streamRegs h _
@[simp ↓] theorem State.setFlag_streamRegs {f : Fld} (h : streamReg (f.reg.at i j) = false) (b : Bool) :
    (s.setFlag f b i j).streamRegs = s.streamRegs := s.wr_streamRegs h _
@[simp ↓] theorem State.count_streamRegs {r : RegDesc} (h : streamReg (r.at i j) = false) (n : Nat) :
    (s.count r n i j).streamRegs = s.streamRegs := s.wr_streamRegs h _
@[simp ↓] theorem State.countWrap_streamRegs {r : RegDesc} (h : streamReg (r.at i j) = false) (n : Nat) :
    (s.countWrap r n i j).streamRegs = s.streamRegs := s.wr_streamRegs h _

theorem streamReg_of_high {r : RegDesc} (h : R.ENG_BELL.base ≤ r.base) (i j : Nat) : streamReg (r.at i j) = false := by
  have hbase := r.base_le_at i j
  rw [streamReg, Bool.and_eq_false_iff, decide_eq_false_iff_not, decide_eq_false_iff_not]
  omega

theorem streamReg_of_cr {r : RegDesc} (hr : r ∈ crRegs) {n : Nat} (hn : n < 64) : streamReg (r.at n) = false := by
  have hlow : R.MEM_CONFBANK.at < R.ENG_S_STAT.base := by decide
  have hhigh := (crRegs_range hr hn).2
  rw [streamReg, Bool.and_eq_false_iff, decide_eq_false_iff_not]
  omega

theorem streamReg_halt {n : Nat} (hn : n < 22) : streamReg (R.ENG_S_HALT.at n) = true := by
  have hat : R.ENG_S_HALT.at n = 0x0200060008 + 0x20 * n + 0 * 0 := rfl
  simp only [streamReg, Bool.and_eq_true, decide_eq_true_eq, hat, R.ENG_S_STAT, R.ENG_BELL]
  omega

end

@[simp ↓] theorem State.ring_streamRegs (b inc : Nat) : (s.ring b inc).streamRegs = s.streamRegs :=
  s.fset_streamRegs (f := F.ENG_BELL_VALUE) (streamReg_of_high (by decide) b 0) _

@[simp ↓] theorem State.setRegion_streamRegs (n : Nat) (x : Region) : (s.setRegion n x).streamRegs = s.streamRegs := (rfl)

theorem State.card_streamRegs (c : CardArgs) : (s.card c).streamRegs = s.streamRegs := by
  simp (disch := decide) [State.card, State.cardAt, State.forward, State.evOcc]

/-! ### Arrivals that a unit leaves unfinished (R594) -/

theorem State.retireArrivals_streamRegs {n : Nat} (hn : n < 64) (fuel : Nat) : (s.retireArrivals n fuel).streamRegs = s.streamRegs := by
  have hcfg : streamReg (R.MEM_CR_CFG.at n) = false := streamReg_of_cr (by decide) hn
  have hhead : streamReg (R.MEM_CR_HEAD.at n) = false := streamReg_of_cr (by decide) hn
  have hlost : streamReg (R.MEM_CR_LOST.at n) = false := streamReg_of_cr (by decide) hn
  have harrive : streamReg (R.MEM_CR_ARRIVE.at n) = false := streamReg_of_cr (by decide) hn
  induction fuel generalizing s with
  | zero => rfl
  | succ fuel ih =>
    unfold State.retireArrivals
    split
    · simp (disch := apply id; with_unfolding_all assumption)
    · dsimp only
      split
      · rfl
      · rw [ih]
        have hfront (x : Region) (v : Nat) : ((s.setRegion n x).rset R.MEM_CR_HEAD v n).streamRegs = s.streamRegs := State.rset_streamRegs _ hhead v
        split_ifs
        · rw [State.count_streamRegs _ hlost, hfront]
        · rw [State.ring_streamRegs, State.countWrap_streamRegs _ harrive, hfront]
        · rw [State.countWrap_streamRegs _ harrive, hfront]

theorem State.retireArrivals_only (n fuel : Nat) : s.only (s.retireArrivals n fuel) [.regs, .memsys] := by
  induction fuel generalizing s with
  | zero => exact s.only_refl _
  | succ fuel ih =>
    unfold State.retireArrivals
    split
    · simp [State.only_ite]
    · simp only [State.only_ite]
      split
      · exact s.only_refl _
      · refine State.only_trans ?_ (ih _)
        simp [State.only_ite]

theorem State.abandonArrivals_streamRegs (unit : Nat) : (s.abandonArrivals unit).streamRegs = s.streamRegs := by
  refine streamRegs_foldl (fun u n hn => ?_) s
  rw [State.streamRegs_ite, State.retireArrivals_streamRegs _ (List.mem_range.mp hn)]
  simp

theorem State.abandonArrivals_only (unit : Nat) : s.only (s.abandonArrivals unit) [.regs, .memsys] := by
  refine List.foldlRecOn (motive := fun u : State => s.only u [.regs, .memsys]) _ _ (s.only_refl _) fun u hu n _ => ?_
  rw [State.only_ite]
  split
  · exact State.only_trans ((s.only_setRegion_iff u (by simp) _ _).mpr hu) (State.retireArrivals_only _ _ _)
  · exact hu

theorem State.unlockProg_streamRegs (n : Nat) (p : Prog) : (s.unlockProg n p).streamRegs = s.streamRegs := by
  have hlines : ∀ u : State, ∀ k, (u.unlockLines k).streamRegs = u.streamRegs := fun u k => by
    have hstat : streamReg (R.DME_STAT.at k) = false := streamReg_of_high (by decide) k 0
    simp (disch := apply id; with_unfolding_all assumption) [State.unlockLines, State.setLines]
  unfold State.unlockProg
  split
  · rfl
  · exact streamRegs_foldl (fun u k _ => hlines u k) s

/-! ### Completion records and dropped starts -/

theorem State.addCompletion_only (n : Nat) (p : Prog) (status reason pc : Nat) :
    s.only (s.addCompletion n p status reason pc) [.streams] := by
  simp [State.addCompletion, State.only_ite]

theorem State.dropStarts_only (n c : Nat) : s.only (s.dropStarts n c) [.streams] := by
  refine List.foldlRecOn (motive := fun u : State => s.only u [.streams]) _ _ (s.setStream_only n _) fun u hu q _ => ?_
  exact State.only_trans hu (u.addCompletion_only n _ _ _ _)

/-- A completion record of stream `n` changes only the records that wait there. -/
theorem State.stream_addCompletion (n : Nat) (p : Prog) (status reason pc : Nat) :
    (∃ l, (s.addCompletion n p status reason pc).stream n = { s.stream n with compl := l }) ∧
    ∀ k, k ≠ n → (s.addCompletion n p status reason pc).stream k = s.stream k := by
  unfold State.addCompletion
  split
  · exact ⟨⟨_, rfl⟩, fun _ _ => rfl⟩
  · exact ⟨⟨_, s.stream_setStream_self n _⟩, fun k hk => s.stream_setStream_ne hk _⟩

/-- A stream without the starts of context `c`. -/
def Stream.withoutStarts (x : Stream) (c : Nat) : Stream :=
  { x with queue := x.queue.filter (fun q => q.ctx != c), held := x.held.filter (fun q => q.ctx != c) }

theorem State.stream_dropStarts (n c : Nat) :
    (∃ l, (s.dropStarts n c).stream n = { (s.stream n).withoutStarts c with compl := l }) ∧
    ∀ k, k ≠ n → (s.dropStarts n c).stream k = s.stream k := by
  refine List.foldlRecOn (motive := fun u : State => (∃ l, u.stream n = { (s.stream n).withoutStarts c with compl := l }) ∧
    ∀ k, k ≠ n → u.stream k = s.stream k) _ _
    ⟨⟨_, s.stream_setStream_self n _⟩, fun k hk => s.stream_setStream_ne hk _⟩ fun u hu q _ => ?_
  obtain ⟨⟨l, hself⟩, hother⟩ := hu
  obtain ⟨⟨l', hself'⟩, hother'⟩ := u.stream_addCompletion n (Prog.ofStart q) 2 0 0
  exact ⟨⟨l', by rw [hself', hself]⟩, fun k hk => (hother' k hk).trans (hother k hk)⟩

end Sys2Proof.Machine
end

section
/-! PROOF. What a halt leaves (R181, R182): the program gone, its reason shown, the other streams and their halts as they were. -/

namespace Sys2Proof.Machine

variable (s t : State)

theorem State.events_only (x : EventRing) : s.only { s with events := x } [.events] := by
  intro p hp
  cases p
  case events => simp at hp
  all_goals rfl

theorem State.chn_only (x : Chn) : s.only { s with chn := x } [.chn] := by
  intro p hp
  cases p
  case chn => simp at hp
  all_goals rfl

theorem State.irqHalt_only (x : Nat) : s.only { s with irqHalt := x } [.irqHalt] := by
  intro p hp
  cases p
  case irqHalt => simp at hp
  all_goals rfl

@[simp] theorem State.only_events_iff {l : List Part} (h : .events ∈ l) (x : EventRing) : s.only { t with events := x } l ↔ s.only t l :=
  State.only_iff_of_only (t.events_only x) h

theorem State.forward_only (on : Bool) (b : List Byte) : s.only (s.forward on b) [.chn] := by
  unfold State.forward
  split
  · exact s.chn_only _
  · exact s.only_refl _

theorem State.card_only (c : CardArgs) : s.only (s.card c) [.regs, .events, .chn] := by
  have hforward (u : State) (on : Bool) (b : List Byte) : s.only (u.forward on b) [.regs, .events, .chn] ↔ s.only u [.regs, .events, .chn] :=
    State.only_iff_of_only (u.forward_only on b) (by simp)
  simp [State.card, State.cardAt, State.evOcc, State.only_ite, hforward]

/-! ### The halt of a program -/

/-- ENG_Sn_HALT and ENG_Sn_HALTPC of a halt. -/
def State.showHalt (s : State) (n : Nat) (p : Prog) (reason slot : Nat) : State :=
  (s.rset R.ENG_S_HALT (p.iter * 0x10000 + slot * 0x1000 + p.start.ctx * 0x100 + reason) n).rset R.ENG_S_HALTPC p.pc n

theorem halt_at_ne_haltPc (n m : Nat) : R.ENG_S_HALT.at m ≠ R.ENG_S_HALTPC.at n := by
  have hpc : R.ENG_S_HALTPC.at n = 0x020006000C + 0x20 * n + 0 * 0 := rfl
  have hhalt : R.ENG_S_HALT.at m = 0x0200060008 + 0x20 * m + 0 * 0 := rfl
  omega

theorem halt_at_ne {n m : Nat} (h : m ≠ n) : R.ENG_S_HALT.at m ≠ R.ENG_S_HALT.at n := by
  have hn : R.ENG_S_HALT.at n = 0x0200060008 + 0x20 * n + 0 * 0 := rfl
  have hm : R.ENG_S_HALT.at m = 0x0200060008 + 0x20 * m + 0 * 0 := rfl
  omega

theorem State.reason_showHalt (n : Nat) (p : Prog) (reason slot : Nat) :
    (s.showHalt n p reason slot).fget F.ENG_S_HALT_REASON n = reason % 256 := by
  have hrd : (s.showHalt n p reason slot).rd (R.ENG_S_HALT.at n) =
      BitVec.ofNat 32 (p.iter * 0x10000 + slot * 0x1000 + p.start.ctx * 0x100 + reason) := by
    rw [State.showHalt, State.rd_rset_ne _ _ _ _ _ _ (halt_at_ne_haltPc n n), State.rset, State.rd_wr_self]
  have hfield : F.ENG_S_HALT_REASON.reg = R.ENG_S_HALT ∧ F.ENG_S_HALT_REASON.lo = 0 ∧ F.ENG_S_HALT_REASON.width = 8 := ⟨rfl, rfl, rfl⟩
  obtain ⟨hreg, hlo, hwidth⟩ := hfield
  rw [State.fget, hreg, hlo, hwidth, hrd]
  simp only [getField, bits, BitVec.toNat_ofNat, Nat.shiftRight_zero]
  omega

theorem State.rd_showHalt_ne {n m : Nat} (h : m ≠ n) (p : Prog) (reason slot : Nat) :
    (s.showHalt n p reason slot).rd (R.ENG_S_HALT.at m) = s.rd (R.ENG_S_HALT.at m) := by
  rw [State.showHalt, State.rd_rset_ne _ _ _ _ _ _ (halt_at_ne_haltPc n m), State.rd_rset_ne _ _ _ _ _ _ (halt_at_ne h)]

theorem State.showHalt_only (n : Nat) (p : Prog) (reason slot : Nat) : s.only (s.showHalt n p reason slot) [.regs] := by
  simp [State.showHalt]

/-- A stream on which context `c` is halted. -/
def Stream.refuse (x : Stream) (c : Nat) : Stream := ({ x with halted := x.halted ||| 2 ^ c } : Stream).withoutStarts c

/-- The registers and the interrupt of a halt, its completion record and its report card. -/
def State.reportHalt (s : State) (n : Nat) (p : Prog) (reason slot handle vaddr : Nat) : State :=
  let u := (((s.abandonArrivals n).showHalt n p reason slot).addCompletion n p 1 reason p.pc)
  let u := { u with irqHalt := u.irqHalt ||| 2 ^ p.start.ctx }
  if reason = 0x0D ∨ reason = 0x15 then u
  else u.card { block := 7, event := reason, ctx := p.start.ctx, ukind := 3, ua := n, engine := n, slot := if slot = 15 then 0xFF else slot,
                handle := handle, pc := p.pc, prog := p.start.prog, detail := if reason = 0x0C then leBytes 8 vaddr else [] }

section
variable (n : Nat) (p : Prog) (reason slot handle vaddr : Nat)

theorem State.haltProg_eq : s.haltProg n p reason slot handle vaddr =
    ((s.reportHalt n p reason slot handle vaddr).setStream n
      { (s.reportHalt n p reason slot handle vaddr).stream n with
        halted := ((s.reportHalt n p reason slot handle vaddr).stream n).halted ||| 2 ^ p.start.ctx }).dropStarts n p.start.ctx := rfl

theorem State.reportHalt_streamRegs :
    (s.reportHalt n p reason slot handle vaddr).streamRegs = ((s.abandonArrivals n).showHalt n p reason slot).streamRegs := by
  have hcompletion := State.streamRegs_of_only (((s.abandonArrivals n).showHalt n p reason slot).addCompletion_only n p 1 reason p.pc) (by simp)
  unfold State.reportHalt
  dsimp only
  split
  · exact hcompletion
  · rw [State.card_streamRegs]
    exact hcompletion

theorem State.stream_reportHalt : (∃ l, (s.reportHalt n p reason slot handle vaddr).stream n = { s.stream n with compl := l }) ∧
    ∀ k, k ≠ n → (s.reportHalt n p reason slot handle vaddr).stream k = s.stream k := by
  have hshow : ∀ k, ((s.abandonArrivals n).showHalt n p reason slot).stream k = s.stream k := fun k =>
    (State.stream_of_only (State.showHalt_only _ n p reason slot) (by simp) k).trans
      (State.stream_of_only (s.abandonArrivals_only n) (by simp) k)
  have hcompletion := ((s.abandonArrivals n).showHalt n p reason slot).stream_addCompletion n p 1 reason p.pc
  simp only [hshow] at hcompletion
  unfold State.reportHalt
  dsimp only
  split
  · exact hcompletion
  · simp only [State.stream_of_only (State.card_only _ _) (by simp)]
    exact hcompletion

/-- The halt of a program on request or at a stop point has no report card. -/
theorem State.reportHalt_only (h : reason = 0x0D ∨ reason = 0x15) :
    s.only (s.reportHalt n p reason slot handle vaddr) [.regs, .memsys, .streams, .irqHalt] := by
  rw [State.reportHalt, if_pos h]
  refine State.only_trans ?_ (State.only_mono (State.irqHalt_only _ _) (by simp))
  refine State.only_trans ?_ (State.only_mono (State.addCompletion_only _ _ _ _ _ _) (by simp))
  exact State.only_trans (State.only_mono (s.abandonArrivals_only n) (by simp)) (State.only_mono (State.showHalt_only _ _ _ _ _) (by simp))

/-- The halt of a program leaves on its stream the program as it was, refuses the context's starts and drops those queued. -/
theorem State.stream_haltProg :
    (∃ l, (s.haltProg n p reason slot handle vaddr).stream n = { (s.stream n).refuse p.start.ctx with compl := l }) ∧
    ∀ k, k ≠ n → (s.haltProg n p reason slot handle vaddr).stream k = s.stream k := by
  obtain ⟨⟨l, hself⟩, hother⟩ := s.stream_reportHalt n p reason slot handle vaddr
  obtain ⟨⟨l', hself'⟩, hother'⟩ := ((s.reportHalt n p reason slot handle vaddr).setStream n
      { (s.reportHalt n p reason slot handle vaddr).stream n with
        halted := ((s.reportHalt n p reason slot handle vaddr).stream n).halted ||| 2 ^ p.start.ctx }).stream_dropStarts n p.start.ctx
  rw [s.haltProg_eq]
  refine ⟨⟨l', ?_⟩, fun k hk => ?_⟩
  · rw [hself', State.stream_setStream_self, hself]
    rfl
  · rw [hother' k hk, State.stream_setStream_ne _ hk, hother k hk]

theorem State.haltProg_streamRegs :
    (s.haltProg n p reason slot handle vaddr).streamRegs = ((s.abandonArrivals n).showHalt n p reason slot).streamRegs := by
  rw [s.haltProg_eq, State.streamRegs_of_only (State.dropStarts_only _ _ _) (by simp),
    State.streamRegs_of_only (State.setStream_only _ _ _) (by simp), State.reportHalt_streamRegs]

theorem State.haltProg_only (h : reason = 0x0D ∨ reason = 0x15) :
    s.only (s.haltProg n p reason slot handle vaddr) [.regs, .memsys, .streams, .irqHalt] := by
  rw [s.haltProg_eq]
  refine State.only_trans ?_ (State.only_mono (State.dropStarts_only _ _ _) (by simp))
  rw [State.only_setStream_iff _ _ (by simp)]
  exact s.reportHalt_only n p reason slot handle vaddr h

theorem State.reason_haltProg (hn : n < 22) : (s.haltProg n p reason slot handle vaddr).fget F.ENG_S_HALT_REASON n = reason % 256 := by
  rw [State.fget_of_rd (State.rd_of_streamRegs (s.haltProg_streamRegs n p reason slot handle vaddr) (streamReg_halt hn)),
    State.reason_showHalt]

theorem State.rd_haltProg_ne {m : Nat} (hm : m < 22) (h : m ≠ n) :
    (s.haltProg n p reason slot handle vaddr).rd (R.ENG_S_HALT.at m) = s.rd (R.ENG_S_HALT.at m) := by
  rw [State.rd_of_streamRegs (s.haltProg_streamRegs n p reason slot handle vaddr) (streamReg_halt hm), State.rd_showHalt_ne _ h,
    State.rd_of_streamRegs (s.abandonArrivals_streamRegs n) (streamReg_halt hm)]

end

/-! ### The halt of a stream -/

section
variable {s} {n : Nat} {p : Prog} (reason slot handle vaddr : Nat)

theorem State.halt_of_none (h : (s.stream n).run = none) : s.halt n reason slot handle vaddr = s := by
  rw [State.halt, h]

/-- The state in which the running program has been halted, but for the cores that follow its broadcast. -/
def State.stopRun (s : State) (n : Nat) (p : Prog) (reason slot handle vaddr : Nat) : State :=
  ((s.unlockProg n p).haltProg n p reason slot handle vaddr).setStream n
    { (((s.unlockProg n p).haltProg n p reason slot handle vaddr).stream n).remember p with run := none }

theorem State.halt_of_some (h : (s.stream n).run = some p) : s.halt n reason slot handle vaddr =
    if p.start.bcast then (s.stopRun n p reason slot handle vaddr).endBroadcast n else s.stopRun n p reason slot handle vaddr := by
  rw [State.halt, h]
  rfl

theorem State.stream_unlockProg (s : State) (n : Nat) (p : Prog) (k : Nat) : (s.unlockProg n p).stream k = s.stream k :=
  State.stream_of_only (s.unlockProg_only n p) (by simp) k

theorem State.stream_stopRun (s : State) (n : Nat) (p : Prog) (reason slot handle vaddr : Nat) :
    (∃ l, (s.stopRun n p reason slot handle vaddr).stream n =
      { ((s.stream n).refuse p.start.ctx).remember p with run := none, compl := l }) ∧
    ∀ k, k ≠ n → (s.stopRun n p reason slot handle vaddr).stream k = s.stream k := by
  obtain ⟨⟨l, hself⟩, hother⟩ := (s.unlockProg n p).stream_haltProg n p reason slot handle vaddr
  rw [s.stream_unlockProg] at hself
  refine ⟨⟨l, ?_⟩, fun k hk => ?_⟩
  · rw [State.stopRun, State.stream_setStream_self, hself]
    rfl
  · rw [State.stopRun, State.stream_setStream_ne _ hk, hother k hk, s.stream_unlockProg]

/-- The stream runs nothing after the halt; what it has saved stays. -/
theorem State.stream_halt (h : (s.stream n).run = some p) : ((s.halt n reason slot handle vaddr).stream n).run = none ∧
    ((s.halt n reason slot handle vaddr).stream n).saved = (s.stream n).saved := by
  obtain ⟨⟨l, hself⟩, -⟩ := s.stream_stopRun n p reason slot handle vaddr
  rw [State.halt_of_some reason slot handle vaddr h]
  split
  · rcases (s.stopRun n p reason slot handle vaddr).stream_endBroadcast n n with hend | ⟨-, hend⟩
    all_goals
      rw [hend, hself]
      exact ⟨rfl, rfl⟩
  · rw [hself]
    exact ⟨rfl, rfl⟩

theorem State.run_halt_self (s : State) (n : Nat) : ((s.halt n reason slot handle vaddr).stream n).run = none := by
  cases h : (s.stream n).run with
  | none => rwa [State.halt_of_none reason slot handle vaddr h]
  | some p => exact (State.stream_halt reason slot handle vaddr h).1

theorem State.run_halt_ne (s : State) {k : Nat} (hk : k ≠ n) : ((s.halt n reason slot handle vaddr).stream k).run = (s.stream k).run := by
  cases h : (s.stream n).run with
  | none => rw [State.halt_of_none reason slot handle vaddr h]
  | some p =>
    obtain ⟨-, hother⟩ := s.stream_stopRun n p reason slot handle vaddr
    rw [State.halt_of_some reason slot handle vaddr h]
    split
    · rcases (s.stopRun n p reason slot handle vaddr).stream_endBroadcast n k with hend | ⟨-, hend⟩ <;> rw [hend, hother k hk]
    · rw [hother k hk]

theorem State.halt_streamRegs (h : (s.stream n).run = some p) : (s.halt n reason slot handle vaddr).streamRegs =
    ((s.unlockProg n p).haltProg n p reason slot handle vaddr).streamRegs := by
  have hstop : (s.stopRun n p reason slot handle vaddr).streamRegs = ((s.unlockProg n p).haltProg n p reason slot handle vaddr).streamRegs :=
    State.streamRegs_of_only (State.setStream_only _ _ _) (by simp)
  rw [State.halt_of_some reason slot handle vaddr h, State.streamRegs_ite, State.streamRegs_of_only (State.endBroadcast_only _ _) (by simp),
    hstop, ite_self]

theorem State.reason_halt (hn : n < 22) (h : (s.stream n).run = some p) :
    (s.halt n reason slot handle vaddr).fget F.ENG_S_HALT_REASON n = reason % 256 := by
  rw [State.fget_of_rd (State.rd_of_streamRegs (State.halt_streamRegs reason slot handle vaddr h) (streamReg_halt hn)),
    State.reason_haltProg _ _ _ _ _ _ _ hn]

theorem State.rd_halt_ne (s : State) {m : Nat} (hm : m < 22) (hne : m ≠ n) :
    (s.halt n reason slot handle vaddr).rd (R.ENG_S_HALT.at m) = s.rd (R.ENG_S_HALT.at m) := by
  cases h : (s.stream n).run with
  | none => rw [State.halt_of_none reason slot handle vaddr h]
  | some p =>
    rw [State.rd_of_streamRegs (State.halt_streamRegs reason slot handle vaddr h) (streamReg_halt hm), State.rd_haltProg_ne _ _ _ _ _ _ _ hm hne,
      State.rd_of_streamRegs (s.unlockProg_streamRegs n p) (streamReg_halt hm)]

theorem State.halt_only (s : State) (n : Nat) (h : reason = 0x0D ∨ reason = 0x15) :
    s.only (s.halt n reason slot handle vaddr) [.regs, .memsys, .streams, .irqHalt] := by
  cases hrun : (s.stream n).run with
  | none => rw [State.halt_of_none reason slot handle vaddr hrun]; exact s.only_refl _
  | some p =>
    have hstop : s.only (s.stopRun n p reason slot handle vaddr) [.regs, .memsys, .streams, .irqHalt] := by
      rw [State.stopRun, State.only_setStream_iff _ _ (by simp)]
      exact State.only_trans (State.only_mono (s.unlockProg_only n p) (by simp)) (State.haltProg_only _ _ _ _ _ _ _ h)
    rw [State.halt_of_some reason slot handle vaddr hrun, State.only_ite, State.only_iff_of_only (State.endBroadcast_only _ n) (by simp), ite_self]
    exact hstop

end

end Sys2Proof.Machine
end

section
/-! PROOF. The obligation of spec/05 on halts, completion records and bells (R155, R171, R173, R181 to R183). -/

namespace Sys2Proof.Machine

variable (s t : State)

/-! ### Bits of a mask -/

theorem bit_eq_testBit (v i : Nat) : bit v i = v.testBit i := by
  simp [bit, bits, Nat.testBit_eq_decide_div_mod_eq, Nat.shiftRight_eq_div_pow, beq_eq_decide]

/-- Taking the bits of a mask away clears those alone. -/
theorem testBit_sub_and (x m i : Nat) : (x - (x &&& m)).testBit i = (x.testBit i && !m.testBit i) := by
  induction i generalizing x m with
  | zero =>
    have hlow := Nat.and_mod_two_eq_one (a := x) (b := m)
    have hle : (x &&& m) ≤ x := Nat.and_le_left
    simp only [Nat.testBit_zero]
    rw [← decide_not, ← Bool.decide_and, decide_eq_decide]
    omega
  | succ i ih =>
    have hlow := Nat.and_mod_two_eq_one (a := x) (b := m)
    have hle : (x &&& m) ≤ x := Nat.and_le_left
    have hhalf : (x - (x &&& m)) / 2 = x / 2 - (x / 2 &&& m / 2) := by
      rw [← Nat.and_div_two]
      omega
    rw [Nat.testBit_succ, hhalf, ih, ← Nat.testBit_succ, ← Nat.testBit_succ]

theorem bit_sub_and (x m i : Nat) : bit (x - (x &&& m)) i = (bit x i && !bit m i) := by
  simp only [bit_eq_testBit, testBit_sub_and]

theorem bit_or_two_pow_self (x i : Nat) : bit (x ||| 2 ^ i) i = true := by
  simp [bit_eq_testBit]

/-! ### Resume records freed (R141) -/

theorem State.store_only (a : Nat) (l : List Byte) : s.only (s.store a l) [.regs, .mem] := s.putMem_only a l _

theorem State.store_streamRegs (a : Nat) (l : List Byte) : (s.store a l).streamRegs = s.streamRegs := by
  rw [State.store]
  induction l.length / 256 + 2 generalizing s a l with
  | zero => rfl
  | succ fuel ih =>
    by_cases hl : l = []
    · rw [hl, State.putMem_nil]
    · rw [s.putMem_succ hl, ih]
      simp (disch := decide) [State.putPart]

theorem State.syncPend_only : s.only s.syncPend [.regs] := by simp [State.syncPend]

theorem State.freeSusp_only (x : Susp) : s.only (s.freeSusp x) [.regs, .mem, .mmu] := by
  unfold State.freeSusp
  refine State.only_trans ?_ (State.only_mono (State.syncPend_only _) (by simp))
  rw [State.only_mmu_iff _ _ (by simp)]
  split
  · exact State.only_mono (s.store_only _ _) (by simp)
  · exact s.only_refl _

theorem State.freeSusp_streamRegs (x : Susp) : (s.freeSusp x).streamRegs = s.streamRegs := by
  unfold State.freeSusp State.syncPend
  rw [State.fset_streamRegs _ (by decide), State.streamRegs_mk]
  split
  · exact s.store_streamRegs _ _
  · rfl

theorem State.foldl_freeSusp_only (l : List Susp) : s.only (l.foldl (fun s x => s.freeSusp x) s) [.regs, .mem, .mmu] :=
  List.foldlRecOn (motive := fun u : State => s.only u _) _ _ (s.only_refl _) fun u hu x _ => State.only_trans hu (u.freeSusp_only x)

/-! ### The halt of a context (R182, R183) -/

/-- The halts of programs that were saved leave what the stream runs and has saved, and show their reason. -/
theorem State.stream_foldl_haltProg (n reason : Nat) (l : List Prog) :
    ((l.foldl (fun s p => s.haltProg n p reason 15 0xFFFF 0) s).stream n).run = (s.stream n).run ∧
    ((l.foldl (fun s p => s.haltProg n p reason 15 0xFFFF 0) s).stream n).saved = (s.stream n).saved := by
  refine List.foldlRecOn (motive := fun u : State => (u.stream n).run = (s.stream n).run ∧ (u.stream n).saved = (s.stream n).saved) _ _
    ⟨rfl, rfl⟩ fun u hu p _ => ?_
  obtain ⟨⟨l, hself⟩, -⟩ := u.stream_haltProg n p reason 15 0xFFFF 0
  rw [hself]
  exact hu

theorem State.reason_foldl_haltProg {s : State} {n reason : Nat} (hn : n < 22) (h : s.fget F.ENG_S_HALT_REASON n = reason % 256)
    (l : List Prog) : (l.foldl (fun s p => s.haltProg n p reason 15 0xFFFF 0) s).fget F.ENG_S_HALT_REASON n = reason % 256 :=
  List.foldlRecOn (motive := fun u : State => u.fget F.ENG_S_HALT_REASON n = reason % 256) _ _ h
    fun u _ p _ => u.reason_haltProg n p reason 15 0xFFFF 0 hn

theorem State.foldl_haltProg_only (n : Nat) {reason : Nat} (h : reason = 0x0D ∨ reason = 0x15) (l : List Prog) :
    s.only (l.foldl (fun s p => s.haltProg n p reason 15 0xFFFF 0) s) [.regs, .memsys, .streams, .irqHalt] :=
  List.foldlRecOn (motive := fun u : State => s.only u _) _ _ (s.only_refl _)
    fun u hu p _ => State.only_trans hu (u.haltProg_only n p reason 15 0xFFFF 0 h)

/-- What runs on stream `n` halted where it is context `c`'s. -/
def State.haltRunning (s : State) (n c reason : Nat) : State :=
  match (s.stream n).run with
  | some p => if p.start.ctx = c then s.halt n reason 15 0xFFFF 0 else s
  | none => s

theorem State.haltRunning_cases (n c reason : Nat) :
    (∃ p, (s.stream n).run = some p ∧ p.start.ctx = c ∧ s.haltRunning n c reason = s.halt n reason 15 0xFFFF 0) ∨
    ((∀ p, (s.stream n).run = some p → p.start.ctx ≠ c) ∧ s.haltRunning n c reason = s) := by
  cases hrun : (s.stream n).run with
  | none => exact .inr ⟨fun p hp => (nomatch hp), by rw [State.haltRunning, hrun]⟩
  | some p =>
    by_cases hc : p.start.ctx = c
    · exact .inl ⟨p, rfl, hc, by rw [State.haltRunning, hrun]; exact if_pos hc⟩
    · refine .inr ⟨fun q hq => ?_, by rw [State.haltRunning, hrun]; exact if_neg hc⟩
      cases hq
      exact hc

/-- The suspended work of context `c` on stream `n` dropped: its resume records freed, its saved programs gone. -/
def State.dropSaved (s : State) (n c : Nat) : State :=
  let u := (s.mmu.susps.filter (fun x => x.unit == n && x.ctx == c)).foldl (fun s x => s.freeSusp x) s
  u.setStream n { u.stream n with saved := (u.stream n).saved.filter (fun p => p.start.ctx != c) }

theorem State.haltContext_eq (n c reason : Nat) : s.haltContext n c reason =
    (((s.haltRunning n c reason).stream n).saved.filter (fun p => p.start.ctx == c)).foldl (fun s p => s.haltProg n p reason 15 0xFFFF 0)
      ((s.haltRunning n c reason).dropSaved n c) := by
  cases hrun : (s.stream n).run <;> simp only [State.haltContext, State.haltRunning, hrun] <;> rfl

theorem State.stream_dropSaved (n c : Nat) : (s.dropSaved n c).stream n =
    { s.stream n with saved := (s.stream n).saved.filter (fun p => p.start.ctx != c) } := by
  rw [State.dropSaved, State.stream_setStream_self, State.stream_of_only (s.foldl_freeSusp_only _) (by simp)]

theorem State.dropSaved_streamRegs (n c : Nat) : (s.dropSaved n c).streamRegs = s.streamRegs := by
  rw [State.dropSaved, State.streamRegs_of_only (State.setStream_only _ _ _) (by simp)]
  exact streamRegs_foldl (fun u x _ => u.freeSusp_streamRegs x) s

theorem State.dropSaved_only (n c : Nat) : s.only (s.dropSaved n c) [.regs, .mem, .mmu, .streams] := by
  rw [State.dropSaved, State.only_setStream_iff _ _ (by simp)]
  exact State.only_mono (s.foldl_freeSusp_only _) (by simp)

theorem State.haltContext_only (n c : Nat) {reason : Nat} (h : reason = 0x0D ∨ reason = 0x15) :
    s.only (s.haltContext n c reason) [.regs, .mem, .memsys, .mmu, .streams, .irqHalt] := by
  have hrunning : s.only (s.haltRunning n c reason) [.regs, .mem, .memsys, .mmu, .streams, .irqHalt] := by
    rcases s.haltRunning_cases n c reason with ⟨p, -, -, hhalt⟩ | ⟨-, hnone⟩
    · rw [hhalt]
      exact State.only_mono (State.halt_only _ _ _ _ s n h) (by simp)
    · rw [hnone]
      exact s.only_refl _
  rw [s.haltContext_eq]
  refine State.only_trans hrunning (State.only_trans (State.only_mono (State.dropSaved_only _ n c) (by simp)) ?_)
  exact State.only_mono (State.foldl_haltProg_only _ n h _) (by simp)

/-- The context neither runs on the stream nor has work saved there. -/
theorem State.stream_haltContext (n c reason : Nat) :
    (∀ p, ((s.haltContext n c reason).stream n).run = some p → p.start.ctx ≠ c) ∧
    ∀ p ∈ ((s.haltContext n c reason).stream n).saved, p.start.ctx ≠ c := by
  obtain ⟨hrun, hsaved⟩ := ((s.haltRunning n c reason).dropSaved n c).stream_foldl_haltProg n reason
    (((s.haltRunning n c reason).stream n).saved.filter (fun p => p.start.ctx == c))
  rw [s.haltContext_eq, hrun, hsaved, State.stream_dropSaved]
  refine ⟨fun p hp => ?_, fun p hp => ?_⟩
  · rcases s.haltRunning_cases n c reason with ⟨q, -, -, hhalt⟩ | ⟨hother, hnone⟩
    · rw [hhalt, State.run_halt_self] at hp
      cases hp
    · rw [hnone] at hp
      exact hother p hp
  · simpa using (List.mem_filter.mp hp).2

theorem State.reason_haltContext {s : State} {n : Nat} {p : Prog} (hn : n < 22) (hrun : (s.stream n).run = some p) (reason : Nat) :
    (s.haltContext n p.start.ctx reason).fget F.ENG_S_HALT_REASON n = reason % 256 := by
  rw [s.haltContext_eq]
  refine State.reason_foldl_haltProg hn ?_ _
  refine (State.fget_of_rd (State.rd_of_streamRegs (State.dropSaved_streamRegs _ n _) (streamReg_halt hn))).trans ?_
  rcases s.haltRunning_cases n p.start.ctx reason with ⟨q, -, -, hhalt⟩ | ⟨hother, -⟩
  · rw [hhalt, State.reason_halt _ _ _ _ hn hrun]
  · exact (hother p hrun rfl).elim

/-! ### Refusing a context (R182) -/

theorem State.stream_refuseContext (n c : Nat) : ∃ l, (s.refuseContext n c).stream n = { (s.stream n).refuse c with compl := l } := by
  obtain ⟨⟨l, hself⟩, -⟩ := (s.setStream n { s.stream n with halted := (s.stream n).halted ||| 2 ^ c }).stream_dropStarts n c
  refine ⟨l, ?_⟩
  rw [State.refuseContext, hself, State.stream_setStream_self]
  rfl

theorem State.refuseContext_only (n c : Nat) : s.only (s.refuseContext n c) [.streams] :=
  State.only_trans (s.setStream_only n _) (State.dropStarts_only _ n c)

theorem Stream.ctx_ne_of_mem_refuse {x : Stream} {c : Nat} {q : Start} (h : q ∈ (x.refuse c).queue ++ (x.refuse c).held) : q.ctx ≠ c := by
  rcases List.mem_append.mp h with h | h
  all_goals simpa using (List.mem_filter.mp h).2

/-! ### Writes of ENG_Sn_CTL (Table 05-28) -/

/-- The refusals that a mask names ended. -/
def State.clearHalts (s : State) (n mask : Nat) : State :=
  s.setStream n { s.stream n with halted := (s.stream n).halted - ((s.stream n).halted &&& mask) }

section
variable {s} {r : Req} {n : Nat} {v : Word}

theorem State.engCtlWrite_of_enabled (hen : s.ctxEnabled (s.ctxOf r) = true) (hstream : s.streamEnabled n = true) :
    s.engCtlWrite r n v = s.writeEngCtl r n v := by
  simp [State.engCtlWrite, hen, hstream]

/-- The mask that a write of ENG_Sn_CTL clears: home's as it is, another context's own bit alone. -/
def clearMask (c : Nat) (v : Word) : Nat := if c = 0 then getField v 0 8 else getField v 0 8 &&& 2 ^ c

theorem State.writeEngCtl_of_go (hv : bit v.toNat 11 = true) (hctx : s.ctxOf r = 0 ∨ s.ctxOf r = getField v 8 3) :
    s.writeEngCtl r n v =
      ((s.clearHalts n (clearMask (s.ctxOf r) v)).haltContext n (getField v 8 3) 0x15).refuseContext n (getField v 8 3) := by
  rw [State.writeEngCtl, if_pos hv, if_pos hctx]
  rfl

theorem State.writeEngCtl_of_clear (hv : bit v.toNat 11 = false) (hctx : s.ctxOf r = 0) :
    s.writeEngCtl r n v = s.clearHalts n (getField v 0 8) := by
  rw [State.writeEngCtl, if_neg (by simp [hv]), hctx]
  rfl

end

section
variable {s} {r : Req} {n : Fin 22} {v : Word} (hen : s.ctxEnabled (s.ctxOf r) = true) (hstream : s.streamEnabled n.val = true)
include hen hstream

theorem execHaltRequest_of_allowed (hctx : s.ctxOf r = 0 ∨ s.ctxOf r = getField (setField v 11 1 1) 8 3) :
    execHaltRequest r n v s = .next (((s.clearHalts n.val (clearMask (s.ctxOf r) (setField v 11 1 1))).haltContext n.val
      (getField (setField v 11 1 1) 8 3) 0x15).refuseContext n.val (getField (setField v 11 1 1) 8 3)) := by
  rw [execHaltRequest, State.engCtlWrite_of_enabled hen hstream, State.writeEngCtl_of_go (bit_setField_one v (by decide)) hctx]

theorem execHaltClear_of_home (hctx : s.ctxOf r = 0) :
    execHaltClear r n v s = .next (s.clearHalts n.val (getField (setField v 11 1 0) 0 8)) := by
  have hv : bit (setField v 11 1 0).toNat 11 = false := bit_setField v (by decide) (by decide) 0 11 (by decide) (by decide)
  rw [execHaltClear, State.engCtlWrite_of_enabled hen hstream, State.writeEngCtl_of_clear hv hctx]

end

theorem State.run_clearHalts (n mask : Nat) : ((s.clearHalts n mask).stream n).run = (s.stream n).run := by
  rw [State.clearHalts, State.stream_setStream_self]

/-! ### Completion records (R155) -/

theorem State.fget_setStream (n : Nat) (x : Stream) (f : Fld) (i j : Nat) : (s.setStream n x).fget f i j = s.fget f i j := rfl
theorem State.rget_setStream (n : Nat) (x : Stream) (r : RegDesc) (i j : Nat) : (s.setStream n x).rget r i j = s.rget r i j := rfl

/-- The oldest completion record of stream `n` gone. -/
def State.dropCompletion (s : State) (n : Nat) (rest : List Completion) : State := s.setStream n { s.stream n with compl := rest }

section
variable {s} {n : Fin 22} {c : Completion} {rest : List Completion} (hcompl : (s.stream n.val).compl = c :: rest)
include hcompl

theorem execCompletionRecordCommit_of_foreign (howner : ringOwner c.ring ≠ c.ctx) :
    execCompletionRecordCommit n s = .next ((s.dropCompletion n.val rest).violate c.ctx n.val 0x7 0) := by
  simp only [execCompletionRecordCommit, hcompl]
  rw [if_pos howner]
  rfl

variable (howner : ringOwner c.ring = c.ctx) (hen : s.ringEnabled c.ring = true)
include howner hen

theorem execCompletionRecordCommit_of_space (hspace : ceilDiv c.bytes.length 64 ≤ s.ringSpace c.ring) :
    execCompletionRecordCommit n s = .next ((s.commitRecord c.ring c.bytes).dropCompletion n.val rest) := by
  simp only [execCompletionRecordCommit, hcompl, State.tryCommit_done hen hspace]
  rw [if_neg (not_not_intro howner)]
  rfl

theorem execCompletionRecordCommit_of_full (hspace : s.ringSpace c.ring < ceilDiv c.bytes.length 64) :
    execCompletionRecordCommit n s = .next s := by
  simp only [execCompletionRecordCommit, hcompl, State.tryCommit_full hen hspace]
  rw [if_neg (not_not_intro howner)]

end

theorem State.violate_only (c unit kind addr : Nat) : s.only (s.violate c unit kind addr) [.regs] :=
  (s.only_violate_iff s (by simp) c unit kind addr).mpr (s.only_refl _)

/-- A violation reads and writes registers alone. -/
theorem State.regs_violate_setStream (n : Nat) (x : Stream) (c unit kind addr : Nat) :
    ((s.setStream n x).violate c unit kind addr).regs = (s.violate c unit kind addr).regs := by
  cases h : s.flag F.MMU_CTX_VCAPINFO_ARMED c
  · rw [State.violate_of_unarmed h, State.violate_of_unarmed (s := s.setStream n x) h]
    rfl
  · rw [State.violate_of_armed h, State.violate_of_armed (s := s.setStream n x) h]
    rfl

/-! ### A record's commit (R33, R34) -/

theorem State.setRingX_only (q : Nat) (x : Ring) : s.only (s.setRingX q x) [.rings] := by
  intro p hp
  cases p
  case rings => simp at hp
  all_goals rfl

theorem State.fget_setRingX (q : Nat) (x : Ring) (f : Fld) (i j : Nat) : (s.setRingX q x).fget f i j = s.fget f i j := rfl
theorem State.rget_setRingX (q : Nat) (x : Ring) (r : RegDesc) (i j : Nat) : (s.setRingX q x).rget r i j = s.rget r i j := rfl

theorem State.putEntries_only (q i : Nat) (l : List (List Byte)) : s.only (s.putEntries q i l) [.regs, .mem] := by
  induction l generalizing s i with
  | nil => exact s.only_refl _
  | cons b l ih => exact State.only_trans (s.store_only _ _) (ih _ _)

/-- HEAD and SEQ of a ring once a record of `k` entries stands in it. -/
def State.moveRing (s : State) (q head seq : Nat) : State := (s.fset F.HOST_RR_HEAD_INDEX head q).rset R.HOST_RR_SEQ seq q

theorem State.moveRing_only (q head seq : Nat) : s.only (s.moveRing q head seq) [.regs] := by simp [State.moveRing]

theorem State.commitRecord_eq (q : Nat) (b : List Byte) : ∃ x, s.commitRecord q b =
    ((s.putEntries q (s.fget F.HOST_RR_HEAD_INDEX q) (chunksOf 64 (ceilDiv b.length 64) (withSeq b (s.rget R.HOST_RR_SEQ q)))).moveRing q
      ((s.fget F.HOST_RR_HEAD_INDEX q + ceilDiv b.length 64) % s.ringSize q) ((s.rget R.HOST_RR_SEQ q + 1) % 2 ^ 32)).setRingX q x :=
  ⟨_, rfl⟩

theorem State.commitRecord_only (q : Nat) (b : List Byte) : s.only (s.commitRecord q b) [.regs, .mem, .rings] := by
  obtain ⟨x, hx⟩ := s.commitRecord_eq q b
  rw [hx]
  refine State.only_trans ?_ (State.only_mono (State.setRingX_only _ q x) (by simp))
  exact State.only_trans (State.only_mono (s.putEntries_only _ _ _) (by simp)) (State.only_mono (State.moveRing_only _ _ _ _) (by simp))

theorem State.ringSize_le (q : Nat) : s.ringSize q ≤ 4096 := Nat.succ_le_of_lt (getField_lt _ _ _)

theorem State.counts_commitRecord (q : Nat) (b : List Byte) :
    (s.commitRecord q b).fget F.HOST_RR_HEAD_INDEX q = (s.fget F.HOST_RR_HEAD_INDEX q + ceilDiv b.length 64) % s.ringSize q ∧
    (s.commitRecord q b).rget R.HOST_RR_SEQ q = (s.rget R.HOST_RR_SEQ q + 1) % 2 ^ 32 := by
  obtain ⟨x, hx⟩ := s.commitRecord_eq q b
  have hne : R.HOST_RR_HEAD.at q ≠ R.HOST_RR_SEQ.at q :=
    RegDesc.at_ne_of_base_ne (q := R.HOST_RR_HEAD) (r := R.HOST_RR_SEQ) rfl rfl (by decide) q 0
  have hhead : (s.fget F.HOST_RR_HEAD_INDEX q + ceilDiv b.length 64) % s.ringSize q < 2 ^ F.HOST_RR_HEAD_INDEX.width :=
    (Nat.mod_lt _ (Nat.succ_pos _)).trans_le (s.ringSize_le q)
  rw [hx]
  refine ⟨?_, ?_⟩
  · rw [State.fget_setRingX, State.moveRing, State.fget_rset_ne _ R.HOST_RR_SEQ F.HOST_RR_HEAD_INDEX _ q 0 q 0 hne,
      State.fget_fset_self _ _ _ _ _ (by decide) (by decide), Nat.mod_eq_of_lt hhead]
  · rw [State.rget_setRingX, State.moveRing, State.rget_rset_self, Nat.mod_mod]

/-! ### Bells (R171, R173) -/

theorem State.bell_fset (v b : Nat) : (s.fset F.ENG_BELL_VALUE v b).bell b = v % 65536 :=
  s.fget_fset_self F.ENG_BELL_VALUE v b 0 (by decide) (by decide)

theorem State.bell_ring (b inc : Nat) : (s.ring b inc).bell b = (s.bell b + inc) % 65536 := by
  rw [State.ring, State.bell_fset, Nat.mod_mod]

theorem State.fset_bell_regsOnly (v b : Nat) : s.regsOnly (s.fset F.ENG_BELL_VALUE v b) [R.ENG_BELL.at b] :=
  fun a ha => s.rd_fset_ne F.ENG_BELL_VALUE _ b 0 a fun h => ha (List.mem_singleton.mpr h)

theorem State.ring_regsOnly (b inc : Nat) : s.regsOnly (s.ring b inc) [R.ENG_BELL.at b] := s.fset_bell_regsOnly _ b

theorem State.ring_only (b inc : Nat) : s.only (s.ring b inc) [.regs] := s.wr_only _ _

/-- The increments of one cycle add up. -/
theorem State.bell_foldl_ring (b : Nat) (incs : List Half) :
    (incs.foldl (fun s i => s.ring b i.toNat) s).bell b = (s.bell b + (incs.map (·.toNat)).sum) % 65536 := by
  induction incs generalizing s with
  | nil => exact (Nat.mod_eq_of_lt (s.bell_lt b)).symm
  | cons i incs ih => rw [List.foldl_cons, ih, State.bell_ring, List.map_cons, List.sum_cons, Nat.mod_add_mod, Nat.add_assoc]

theorem State.foldl_ring_only (b : Nat) (incs : List Half) : s.only (incs.foldl (fun s i => s.ring b i.toNat) s) [.regs] ∧
    s.regsOnly (incs.foldl (fun s i => s.ring b i.toNat) s) [R.ENG_BELL.at b] :=
  List.foldlRecOn (motive := fun u : State => s.only u [.regs] ∧ s.regsOnly u [R.ENG_BELL.at b]) _ _ ⟨s.only_refl _, s.regsOnly_refl _⟩
    fun u hu _ _ => ⟨State.only_trans hu.1 (u.ring_only b _), State.regsOnly_trans hu.2 (u.ring_regsOnly b _)⟩

theorem execBellIncrementWrite_of_other {s : State} {r : Req} {b : Fin 512} (hon : s.reqOn r = true)
    (hen : s.ctxEnabled (s.ctxOf r) = true) (hctx : s.ctxOf r ≠ 0) (hbell : s.bellOf (s.ctxOf r) b.val = false) (v : Word) :
    execBellIncrementWrite r b v s = .next (s.violateBy r 0xA (R.ENG_BELL.at b.val)) := by
  rw [execBellIncrementWrite, State.asCtx_of_not _ _ _ hon hen (by simp [hctx, hbell])]

section
variable {s} {r : Req} {b : Fin 512} (hon : s.reqOn r = true) (hen : s.ctxEnabled (s.ctxOf r) = true)
  (hbell : s.ctxOf r = 0 ∨ s.bellOf (s.ctxOf r) b.val = true)
include hon hen hbell

theorem execBellIncrementWrite_of_owner (v : Word) : execBellIncrementWrite r b v s = .next (s.ring b.val (getField v 0 16)) := by
  rw [execBellIncrementWrite, State.asCtx_of_ok _ _ _ hon hen (by simpa using hbell)]

theorem execBellSetWrite_of_owner (v : Word) (incs : List Half) : execBellSetWrite r b v incs s =
    .next (incs.foldl (fun s i => s.ring b.val i.toNat) (s.fset F.ENG_BELL_VALUE (getField v 0 16) b.val)) := by
  rw [execBellSetWrite, State.asCtx_of_ok _ _ _ hon hen (by simpa using hbell)]

end

/-! ### The statement -/

/-- Settles O41: a halt request by what the context has on the stream, a completion record by its ring, a bell's write by its writer. -/
theorem haltsCompletionsAndBells : Obligations.HaltsCompletionsAndBells := by
  refine ⟨fun r n v s hen hstream hctx => ?_, fun r n v s hen hstream hctx => ?_, fun n s c rest hcompl hring howner hen hspace => ?_,
    fun n s c rest hcompl howner hen hspace => ⟨s, execCompletionRecordCommit_of_full hcompl howner hen hspace, rfl⟩,
    fun n s c rest hcompl howner => ?_, fun r b v s hon hen hbell => ?_, fun r b v s hon hen hctx hbell => ?_,
    fun r b v incs s hon hen hbell => ?_⟩
  · have hfield : getField (setField v 11 1 1) 8 3 = getField v 8 3 :=
      getField_setField_disjoint v 11 1 1 8 3 (by decide) (by decide) (by decide)
    refine ⟨_, execHaltRequest_of_allowed hen hstream (by rwa [hfield]), ?_⟩
    rw [hfield]
    generalize clearMask (s.ctxOf r) (setField v 11 1 1) = mask
    generalize getField v 8 3 = c
    obtain ⟨hrun, hsaved⟩ := (s.clearHalts n.val mask).stream_haltContext n.val c 0x15
    have hreason (p : Prog) (hp : (s.stream n.val).run = some p) (hc : p.start.ctx = c) :
        ((s.clearHalts n.val mask).haltContext n.val c 0x15).fget F.ENG_S_HALT_REASON n.val = 0x15 := by
      subst hc
      exact State.reason_haltContext n.isLt ((s.run_clearHalts n.val mask).trans hp) 0x15
    have hclear : s.only (s.clearHalts n.val mask) [.streams] := s.setStream_only n.val _
    have honly := State.only_trans (State.only_mono hclear (by simp)) ((s.clearHalts n.val mask).haltContext_only n.val c (.inr rfl))
    generalize (s.clearHalts n.val mask).haltContext n.val c 0x15 = u at hrun hsaved hreason honly ⊢
    obtain ⟨l, hself⟩ := u.stream_refuseContext n.val c
    have hrefuse := u.refuseContext_only n.val c
    rw [hself]
    refine ⟨bit_or_two_pow_self _ _, hrun, hsaved, fun q hq => Stream.ctx_ne_of_mem_refuse hq, fun p hp hc => ?_,
      State.only_trans honly (State.only_mono hrefuse (by simp))⟩
    rw [State.fget_of_rd (State.rd_of_only hrefuse (by simp) _), hreason p hp hc]
  · have hmask : getField (setField v 11 1 0) 0 8 = getField v 0 8 :=
      getField_setField_disjoint v 11 1 0 0 8 (by decide) (by decide) (by decide)
    refine ⟨_, execHaltClear_of_home hen hstream hctx, s.setStream_only n.val _, fun c hc => ?_, ?_⟩
    · rw [State.clearHalts, State.stream_setStream_self, bit_sub_and, hmask, bit_eq_testBit (getField v 0 8), testBit_getField, bit_toNat,
        decide_eq_true hc, Bool.true_and, Nat.zero_add]
    · rw [State.clearHalts, State.stream_setStream_self]
      exact ⟨rfl, rfl⟩
  · obtain ⟨hhead, hseq⟩ := s.counts_commitRecord c.ring c.bytes
    refine ⟨_, execCompletionRecordCommit_of_space hcompl howner hen hspace, ?_, ?_, ?_, ?_⟩
    · rw [State.dropCompletion, State.stream_setStream_self]
    · rw [State.dropCompletion, State.fget_setStream, hhead]
    · rw [State.dropCompletion, State.rget_setStream, hseq]
    · rw [State.dropCompletion, State.only_setStream_iff _ _ (by simp)]
      exact State.only_mono (s.commitRecord_only _ _) (by simp)
  · refine ⟨_, execCompletionRecordCommit_of_foreign hcompl howner, ?_, ?_, ?_⟩
    · rw [State.stream_of_only (State.violate_only _ _ _ _ _) (by simp), State.dropCompletion, State.stream_setStream_self]
    · exact State.regs_violate_setStream s _ _ _ _ _ _
    · rw [State.only_violate_iff _ _ (by simp)]
      exact State.only_mono (s.setStream_only n.val _) (by simp)
  · exact ⟨_, execBellIncrementWrite_of_owner hon hen hbell v, s.bell_ring _ _, s.ring_only _ _, s.ring_regsOnly _ _⟩
  · exact ⟨_, execBellIncrementWrite_of_other hon hen hctx hbell v, rfl⟩
  · have hset := s.bell_fset (getField v 0 16) b.val
    obtain ⟨honly, hregs⟩ := (s.fset F.ENG_BELL_VALUE (getField v 0 16) b.val).foldl_ring_only b.val incs
    refine ⟨_, execBellSetWrite_of_owner hon hen hbell v incs, ?_, State.only_trans (s.wr_only _ _) honly,
      State.regsOnly_trans (s.fset_bell_regsOnly _ _) hregs⟩
    rw [State.bell_foldl_ring, hset, Nat.mod_add_mod]

end Sys2Proof.Machine
end

section
/-! PROOF. The fetch, the issue and the end of bundles (spec/05 R155, R157, R158, R160, R176, R184): what each leaves of the program. -/

namespace Sys2Proof.Machine

variable (s t : State)

theorem State.now_of_clockQueue {s t : State} (h : t.clockQueue = s.clockQueue) : t.now = s.now :=
  congrArg BitVec.toNat (State.timebase_of_clockQueue h)

theorem State.only_of_snd {α : Type} {s t : State} {l : List Part} {r : α × State} {x : α} (h : r = (x, t))
    (hr : s.only r.2 l) : s.only t l := by
  rwa [h] at hr

/-! ### Fetch (R157, R158, R184) -/

theorem State.fetchBundle_only (n : Nat) (p : Prog) (pc : Nat) : s.only (s.fetchBundle n p pc).2 [.regs, .mmu] := by
  have hhead := s.fetch_only n p.start.ctx (p.va pc) 4
  have hslots (u : State) (k : Nat) := u.fetch_only n p.start.ctx (p.va (pc + 4)) k
  unfold State.fetchBundle
  split_ifs
  · exact s.only_refl _
  · exact s.only_refl _
  · split
    next va f u hu => rwa [hu] at hhead
    next hb u hu =>
      rw [hu] at hhead
      dsimp only
      split_ifs
      · exact hhead
      · exact hhead
      · split
        next hv => exact State.only_trans hhead (State.only_of_snd hv (hslots u _))
        next hv => exact State.only_trans hhead (State.only_of_snd hv (hslots u _))

section
variable {s} {n : Fin 22} {p : Prog} (hrun : (s.stream n.val).run = some p) (hbegan : p.began = true) (hphase : p.phase = .fetch)
include hrun hbegan hphase

theorem execBundleFetch_of_bundle {b : Bundle} {u : State} (h : s.fetchBundle n.val p p.pc = (.bundle b, u)) :
    execBundleFetch n s = .next (u.setRun n.val (some (p.withBundle b u.now))) := by
  simp [execBundleFetch, hrun, hbegan, hphase, h]

theorem execBundleFetch_of_halts {r : Nat} (h : s.fetchBundle n.val p p.pc = (.halts r, s)) :
    execBundleFetch n s = .next (s.halt n.val r 15 0xFFFF 0) := by
  simp [execBundleFetch, hrun, hbegan, hphase, h]

end

/-! ### Checks (R180) -/

theorem State.touchOps_only {s : State} {n : Nat} {p : Prog} {b : Bundle} {l : List (OpRun × Nat × Desc × Nat × Bool)}
    (h : (s.touchOps n p b l).1 = true) : s.only (s.touchOps n p b l).2 [.mmu] := by
  induction l generalizing s with
  | nil => exact s.only_refl _
  | cons x l ih =>
    obtain ⟨o, unit, d, hdl, w⟩ := x
    have htouch := s.touch_only unit p.start.ctx (d.touches hdl (if w then .write else .read) (p.issueOffsets n d)) []
    rw [State.touchOps] at h ⊢
    split at h
    next => exact absurd h Bool.false_ne_true
    next m u hu =>
      rw [hu] at htouch
      exact State.only_trans htouch (ih h)

/-- A failed check has changed nothing but what the translations of the earlier ones cached. -/
theorem State.issueChecks_only_of_halts {s u : State} {n : Nat} {p : Prog} {b : Bundle} {f : Fail}
    (h : s.issueChecks n p b = (.halts f, u)) : s.only u [.mmu] := by
  unfold State.issueChecks at h
  split at h
  next => cases h; exact s.only_refl _
  next =>
    dsimp only at h
    split at h
    next => cases h; exact s.only_refl _
    next =>
      split at h
      next => cases h
      next v hv =>
        split at h
        · cases h
          exact State.only_of_snd hv (State.touchOps_only (congrArg Prod.fst hv))
        · cases h

/-! ### Issue (R160) -/

theorem Prog.advance_eq (p : Prog) : ∃ ph, p.advance = { p with phase := ph } := by
  unfold Prog.advance
  split
  · exact ⟨_, rfl⟩
  · exact ⟨_, rfl⟩

theorem Prog.advance_of_running {p : Prog} (h : p.ops.all (fun o => o.finished) = false) : p.advance = p :=
  if_neg fun hall => by simp [h] at hall

theorem Bundle.finished_of_mem_ops {b : Bundle} {o : OpRun} (h : o ∈ b.ops) : o.finished = false := by
  simp only [Bundle.ops, List.mem_append] at h
  rcases h with h | h <;> split at h <;> simp_all [OpRun.ofSlot]

theorem State.slot_issuedOps (n : Nat) (b : Bundle) : (s.issuedOps n b).map (·.slot) = b.ops.map (·.slot) := by
  rw [State.issuedOps, List.map_map]
  refine List.map_congr_left fun o _ => ?_
  simp only [Function.comp]
  split <;> rfl

theorem State.issuedOps_unfinished (n : Nat) {b : Bundle} (h : b.ops ≠ []) : (s.issuedOps n b).all (fun o => o.finished) = false := by
  obtain ⟨o, ho⟩ := List.exists_mem_of_ne_nil _ h
  refine List.all_eq_false.mpr ⟨_, List.mem_map_of_mem ho, ?_⟩
  split <;> simp [Bundle.finished_of_mem_ops ho]

section
variable (n : Nat) (p : Prog) (b : Bundle)

theorem State.issued_eq : ∃ ph, s.issued n p b = { p with
    phase := ph, ops := s.issuedOps n b, bcnt := (p.bcnt + 1) % 2 ^ 32, beginTb := some (p.beginTb.getD s.now), lastIssue := s.now } :=
  Prog.advance_eq _

theorem State.phase_issued (h : b.ops ≠ []) : (s.issued n p b).phase = .issued := by
  rw [State.issued, Prog.advance_of_running (s.issuedOps_unfinished n h)]

/-- The wait for residency that a DME core counts at the issue (R250). -/
def State.countWait (s : State) : State :=
  if streamKind n = 1 ∧ b.ops ≠ [] then (p.cores n).foldl (fun s k => s.count R.DME_RESWAIT (s.now - p.readyTb) k) s else s

theorem State.now_countWait : (s.countWait n p b).now = s.now := by
  refine State.now_of_clockQueue ?_
  unfold State.countWait
  split
  · exact List.foldlRecOn (motive := fun u : State => u.clockQueue = s.clockQueue) _ _ rfl fun u hu k _ => (u.count_clockQueue ..).trans hu
  · rfl

end

section
variable {s u : State} {n : Nat} {p : Prog} {b : Bundle}

theorem State.issueNow_of_go {q : Prog} (h : s.issueChecks n p b = (.go q, u)) :
    s.issueNow n p b = (u.countWait n q b).setRun n (some ((u.countWait n q b).issued n q b)) := by
  rw [State.issueNow, h]
  rfl

theorem State.issueNow_of_halts {f : Fail} (h : s.issueChecks n p b = (.halts f, u)) : s.issueNow n p b = u.failIssue n p f := by
  rw [State.issueNow, h]

/-- A bundle whose checks pass runs, issued now. -/
theorem State.run_issueNow_of_go {q : Prog} (h : s.issueChecks n p b = (.go q, u)) :
    ∃ v : State, v.now = s.now ∧ ((s.issueNow n p b).stream n).run = some (v.issued n q b) := by
  have hnow : u.now = s.now := State.now_of_clockQueue ((clockQueue_of_snd h).trans (s.issueChecks_clockQueue n p b))
  refine ⟨u.countWait n q b, (u.now_countWait n q b).trans hnow, ?_⟩
  rw [State.issueNow_of_go h, State.run_setRun]

end

/-! ### Halts at the issue (R176, R180, R551) -/

/-- What holds of a state and of it with any stream but one halted holds of it with the group broken but for that stream. -/
theorem State.breakGroup_induction (motive : State → Prop) (except : Nat) (hs : motive s)
    (hhalt : ∀ u k, k < 22 → k ≠ except → motive u → motive (u.halt k 0x14 15 0xFFFF 0)) : motive (s.breakGroup except) := by
  refine List.foldlRecOn (motive := motive) _ _ hs fun u hu k hk => ?_
  split
  · split_ifs with h
    · exact hhalt u k (List.mem_range.mp hk) h.2 hu
    · exact hu
  · exact hu

/-- Stream `n` runs no program and shows the reason of a halt. -/
def State.haltedWith (s : State) (n reason : Nat) : Prop := (s.stream n).run = none ∧ s.fget F.ENG_S_HALT_REASON n = reason

theorem State.haltedWith_halt {s : State} {n : Nat} {p : Prog} (hn : n < 22) (hrun : (s.stream n).run = some p)
    (reason slot handle vaddr : Nat) : (s.halt n reason slot handle vaddr).haltedWith n (reason % 256) :=
  ⟨State.run_halt_self reason slot handle vaddr s n, State.reason_halt reason slot handle vaddr hn hrun⟩

/-- The halt of another stream leaves a stream halted as it was. -/
theorem State.haltedWith_halt_ne {s : State} {n k r : Nat} (hn : n < 22) (hk : k ≠ n) (h : s.haltedWith n r)
    (reason slot handle vaddr : Nat) : (s.halt k reason slot handle vaddr).haltedWith n r := by
  obtain ⟨hrun, hreason⟩ := h
  refine ⟨?_, ?_⟩
  · rwa [State.run_halt_ne _ _ _ _ s hk.symm]
  · rwa [State.fget_of_rd (State.rd_halt_ne reason slot handle vaddr s hn hk.symm)]

theorem State.haltedWith_failIssue {s : State} {n : Nat} {p : Prog} (hn : n < 22) (hrun : (s.stream n).run = some p) (f : Fail) :
    (s.failIssue n p f).haltedWith n (f.reason % 256) := by
  have hhalt := State.haltedWith_halt hn hrun f.reason f.slot f.handle 0
  unfold State.failIssue
  dsimp only
  split
  · exact State.breakGroup_induction _ (State.haltedWith · n (f.reason % 256)) n hhalt
      fun u k _ hk hu => State.haltedWith_halt_ne hn hk hu _ _ _ _
  · exact hhalt

/-- A timed bundle that cannot issue halts its stream, with the rest of its group or after it. -/
theorem State.haltedWith_breakTimed {s : State} {n : Nat} {p : Prog} (hn : n < 22) (hrun : (s.stream n).run = some p) :
    (s.breakTimed n).haltedWith n 0x14 := by
  have hgroup : ((s.breakGroup 99).stream n).run = some p ∨ (s.breakGroup 99).haltedWith n 0x14 := by
    refine State.breakGroup_induction _ (fun u => (u.stream n).run = some p ∨ u.haltedWith n 0x14) 99 (.inl hrun) fun u k _ _ hu => ?_
    obtain rfl | hk := eq_or_ne k n
    · cases hu with
      | inl hu => exact .inr (State.haltedWith_halt hn hu ..)
      | inr hu => exact .inr (by rwa [State.halt_of_none _ _ _ _ hu.1])
    · exact hu.imp (fun hu => by rwa [State.run_halt_ne _ _ _ _ u hk.symm]) (fun hu => State.haltedWith_halt_ne hn hk hu _ _ _ _)
  cases hgroup with
  | inl h => exact State.haltedWith_halt hn h ..
  | inr h => rwa [State.breakTimed, State.halt_of_none _ _ _ _ h.1]

end Sys2Proof.Machine
end

section
/-! PROOF. The obligation of spec/05 on the course of a bundle from its fetch to its commit (R157 to R160, R168, R174 to R176, R184). -/

namespace Sys2Proof.Machine

variable (s : State)

section
variable {s} {n : Fin 22} {p : Prog} {b : Bundle} (hrun : (s.stream n.val).run = some p) (hbundle : p.bundle = some b)
include hrun hbundle

theorem execBundleIssue_of_resident (htimed : p.timed = false) (hphase : p.phase = .ready)
    (hres : streamKind n.val ≠ 1 ∨ b.ops = [] ∨ p.resident = true) : execBundleIssue n s = .next (s.issueNow n.val p b) := by
  have hgo : ¬(streamKind n.val = 1 ∧ b.ops ≠ [] ∧ p.resident = false) := by
    rintro ⟨hkind, hops, hout⟩
    simp [hkind, hops, hout] at hres
  simp [execBundleIssue, hrun, hbundle, htimed, hphase, hgo]

/-- A failed check halts whether or not the operands are resident. -/
theorem execBundleIssue_of_halts (htimed : p.timed = false) (hphase : p.phase = .ready) {f : Fail} {u : State}
    (h : s.issueChecks n.val p b = (.halts f, u)) : execBundleIssue n s = .next (u.failIssue n.val p f) := by
  simp [execBundleIssue, hrun, hbundle, htimed, hphase, h, State.issueNow_of_halts h]

theorem execTimedBundleDue_of_ready (htimed : p.timed = true) (hbegan : p.began = true) (hphase : p.phase = .ready) :
    execTimedBundleDue n s = .next (if p.timedBlocked n.val b then s.breakTimed n.val else s.issueNow n.val p b) := by
  simp [execTimedBundleDue, hrun, hbundle, htimed, hbegan, hphase]

theorem execRpt_of_left (hphase : p.phase = .issued) (hall : p.ops.all (fun o => o.finished) = true) (hleft : p.iter < b.countM1) :
    execRpt n s =
      .next (s.setRun n.val (some { p with iter := p.iter + 1, ops := s.issuedOps n.val b, resident := false, maps := [] })) := by
  simp only [execRpt, hrun, hbundle]
  rw [if_pos ⟨hphase, hall, hleft⟩]

end

/-! ### Commit (R160, R171, R174) -/

/-- The program with the marks and expect counters of its bundle written. -/
def Prog.settled (p : Prog) : Prog := { p with
  marks := p.markWr.foldl (fun l x => setAt l x.1 x.2) p.marks, expect := p.expWr.foldl (fun l x => setAt l x.1 x.2) p.expect }

/-- The state with the bundle's bell signalled. -/
def State.signalled (s : State) (b : Bundle) : State :=
  let y := (b.slot 0).getD 0
  if bit y 21 then s.ring (bits y 12 9) (bits y 4 8) else s

/-- Where the program goes on after its bundle (R174). -/
def Prog.nextPc (p : Prog) (b : Bundle) : Nat :=
  let y := (b.slot 1).getD 0
  if bits y 56 8 = 2 ∧ brTaken p.marktype p.settled.marks y = true then 4 * bits y 32 17 else b.pc + b.size

theorem State.signalled_only (b : Bundle) : s.only (s.signalled b) [.regs] := by
  unfold State.signalled
  dsimp only
  split
  · exact s.ring_only _ _
  · exact s.only_refl _

theorem State.stream_signalled (b : Bundle) (k : Nat) : (s.signalled b).stream k = s.stream k :=
  State.stream_of_only (s.signalled_only b) (by simp) k

theorem State.now_signalled (b : Bundle) : (s.signalled b).now = s.now := by
  unfold State.signalled
  dsimp only
  split <;> rfl

theorem State.signalled_regsOnly (b : Bundle) :
    s.regsOnly (s.signalled b) (if bit ((b.slot 0).getD 0) 21 then [R.ENG_BELL.at (bits ((b.slot 0).getD 0) 12 9)] else []) := by
  unfold State.signalled
  dsimp only
  split
  · exact s.ring_regsOnly _ _
  · exact fun a _ => rfl

/-- With no later bundle issued, the program goes on at the next PC, with the bundle fetched ahead if it lies there. -/
theorem State.nextBundle_of_none_behind {p : Prog} (h : p.behind = []) (n next : Nat) :
    (s.nextBundle n p next).marks = p.marks ∧ (s.nextBundle n p next).expect = p.expect ∧ (s.nextBundle n p next).pc = next := by
  simp only [State.nextBundle, h]
  split
  · split
    next b hb hpc => exact ⟨rfl, rfl, hpc⟩
    next => exact ⟨rfl, rfl, rfl⟩
  · exact ⟨rfl, rfl, rfl⟩

section
variable {s} {n : Fin 22} {p : Prog} {b : Bundle} (hrun : (s.stream n.val).run = some p) (hbundle : p.bundle = some b)
  (hdue : p.commitDue b = true)
include hrun hbundle hdue

theorem execBundleCommit_of_next (hend : p.ending = false) (hbroken : p.broken = false) : ∃ br, execBundleCommit n s =
    .next ((s.signalled b).setRun n.val (some ((s.signalled b).nextBundle n.val { p.settled with branch := br } (p.nextPc b)))) := by
  simp only [execBundleCommit, hrun]
  split
  next h => cases h.symm.trans hbundle
  next h =>
    cases h.symm.trans hbundle
    rw [if_neg (by simp [hdue]), if_neg (by simp [hend]), if_neg (by simp [hbroken])]
    exact ⟨_, rfl⟩

theorem execBundleCommit_of_ending (hend : p.ending = true) :
    execBundleCommit n s = .next ((s.signalled b).endProgram n.val p.settled) := by
  simp only [execBundleCommit, hrun]
  split
  next h => cases h.symm.trans hbundle
  next h =>
    cases h.symm.trans hbundle
    rw [if_neg (by simp [hdue]), if_pos hend]
    rfl

end

/-- The stream of a program that has ended: no program, its last PC, its completion record queued. -/
theorem State.stream_endProgram {p : Prog} (hring : p.start.ring ≠ 0xFF) (n : Nat) :
    ((s.endProgram n p).stream n).run = none ∧ ((s.endProgram n p).stream n).lastPc = p.pc ∧
    ((s.endProgram n p).stream n).compl = (s.stream n).compl ++ [⟨p.start.ctx, p.start.ring, completionBytes p 0 0 p.pc s.now⟩] := by
  have hcompl : ((s.addCompletion n p 0 0 p.pc).stream n).compl =
      (s.stream n).compl ++ [⟨p.start.ctx, p.start.ring, completionBytes p 0 0 p.pc s.now⟩] := by
    simp [State.addCompletion, hring]
  unfold State.endProgram
  dsimp only
  generalize s.addCompletion n p 0 0 p.pc = u at hcompl
  have hself := u.stream_setStream_self n { (u.stream n).remember p with run := none }
  generalize u.setStream n { (u.stream n).remember p with run := none } = v at hself
  split
  · obtain h | ⟨-, h⟩ := v.stream_endBroadcast n n
    · rw [h, hself]; exact ⟨rfl, rfl, hcompl⟩
    · rw [h, hself]; exact ⟨rfl, rfl, hcompl⟩
  · rw [hself]; exact ⟨rfl, rfl, hcompl⟩

/-! ### The obligation -/

/-- Settles O37: fetch, issue, timed issue and RPT by what each stores for the stream; the halts by the reason a halted stream shows;
the commit by the settled program. -/
theorem bundlesFetchIssueAndCommit : Obligations.BundlesFetchIssueAndCommit := by
  refine ⟨fun n s p b hrun hbegan hphase hfetch => ?_, fun n s p hrun hbegan hphase hover => ?_,
    fun n s p hrun hbegan hphase hin hstop hcount => ?_, fun n s u p q b hrun hb htimed hphase hres hgo => ?_,
    fun n s u p b f hrun hb htimed hphase hhalts => ?_, fun n s u p q b hrun hb htimed hbegan hphase hfree hgo => ?_,
    fun n s p b hrun hb htimed hbegan hphase hblocked => ?_, fun n s p b hrun hb hphase hall hleft => ?_,
    fun n s p b hrun hb hdue hend hbroken hbehind => ?_, fun n s p b hrun hb hdue hend hring => ?_⟩
  · have hpair : s.fetchBundle n.val p p.pc = (.bundle b, (s.fetchBundle n.val p p.pc).2) := Prod.ext hfetch rfl
    refine ⟨_, execBundleFetch_of_bundle hrun hbegan hphase hpair, ?_, ?_⟩
    · rw [State.run_setRun, State.now_of_clockQueue (s.fetchBundle_clockQueue n.val p p.pc)]
    · rw [State.only_setRun_iff _ _ (by simp)]
      exact State.only_mono (s.fetchBundle_only n.val p p.pc) (by simp)
  · exact ⟨_, execBundleFetch_of_halts hrun hbegan hphase (if_pos hover), State.haltedWith_halt n.isLt hrun ..⟩
  · refine ⟨_, execBundleFetch_of_halts hrun hbegan hphase (r := 0x0D) ?_, State.haltedWith_halt n.isLt hrun ..⟩
    rw [State.fetchBundle, if_neg (by omega), if_pos ⟨hstop, hcount⟩]
  · obtain ⟨v, hnow, hx⟩ := State.run_issueNow_of_go hgo
    obtain ⟨ph, hissued⟩ := v.issued_eq n.val q b
    refine ⟨_, _, execBundleIssue_of_resident hrun hb htimed hphase hres, hx, ?_, ?_, ?_, ?_, v.phase_issued n.val q b⟩
    · rw [hissued]
    · rw [hissued]
    · rw [hissued, ← hnow]
    · rw [hissued]; exact v.slot_issuedOps n.val b
  · have hstream := State.stream_of_only (State.issueChecks_only_of_halts hhalts) (by simp) n.val
    exact ⟨_, execBundleIssue_of_halts hrun hb htimed hphase hhalts, State.haltedWith_failIssue n.isLt (hstream ▸ hrun) f⟩
  · obtain ⟨v, hnow, hx⟩ := State.run_issueNow_of_go hgo
    obtain ⟨ph, hissued⟩ := v.issued_eq n.val q b
    have hexec := execTimedBundleDue_of_ready hrun hb htimed hbegan hphase
    rw [if_neg (by simp [hfree])] at hexec
    refine ⟨_, _, hexec, hx, ?_, ?_⟩
    · rw [hissued]
    · rw [hissued, ← hnow]
  · have hexec := execTimedBundleDue_of_ready hrun hb htimed hbegan hphase
    rw [if_pos hblocked] at hexec
    exact ⟨_, hexec, State.haltedWith_breakTimed n.isLt hrun⟩
  · exact ⟨_, execRpt_of_left hrun hb hphase hall hleft, s.setRun_only n.val _, s.run_setRun n.val _⟩
  · obtain ⟨br, hexec⟩ := execBundleCommit_of_next hrun hb hdue hend hbroken
    obtain ⟨hmarks, hexpect, hpc⟩ :=
      (s.signalled b).nextBundle_of_none_behind (p := { p.settled with branch := br }) hbehind n.val (p.nextPc b)
    refine ⟨_, _, hexec, State.run_setRun .., hmarks, hexpect, ?_, ⟨fun hbell => ?_, s.signalled_regsOnly b⟩, ?_⟩
    · rw [hmarks]; exact hpc
    · rw [State.signalled, if_pos hbell]
      exact s.bell_ring _ _
    · rw [State.only_setRun_iff _ _ (by simp)]
      exact State.only_mono (s.signalled_only b) (by simp)
  · obtain ⟨hnone, hpc, hcompl⟩ := (s.signalled b).stream_endProgram (p := p.settled) hring n.val
    refine ⟨_, execBundleCommit_of_ending hrun hb hdue hend, hnone, hpc, ?_⟩
    rw [hcompl, s.stream_signalled, s.now_signalled]
    rfl

end Sys2Proof.Machine
end

section
/-! PROOF. Byte writes of operations (spec/03 R111, R112, spec/08 R265): which bytes they change, and which parts of the state. -/

namespace Sys2Proof.Machine

variable (s t : State)

/-! ### Bytes of a memory -/

/-- The memory with bytes written at the addresses listed. -/
def Memory.putBytes (m : Memory) (l : List (Nat × Byte)) : Memory := l.foldl (fun m x => m.setByte x.1 x.2) m

theorem Memory.byte_putBytes_of_ne {l : List (Nat × Byte)} {a : Nat} (h : ∀ x ∈ l, x.1 ≠ a) (m : Memory) :
    (m.putBytes l).byte a = m.byte a :=
  List.foldlRecOn (motive := fun u : Memory => u.byte a = m.byte a) _ _ rfl fun u hu x hx => by
    rw [Memory.byte_setByte, if_neg (h x hx).symm, hu]

theorem Memory.byte_putBytes_of_mem {l : List (Nat × Byte)} (hl : (l.map (·.1)).Nodup) {x : Nat × Byte} (hx : x ∈ l) (m : Memory) :
    (m.putBytes l).byte x.1 = x.2 := by
  induction l generalizing m with
  | nil => cases hx
  | cons y l ih =>
    obtain ⟨hy, hl⟩ := List.nodup_cons.mp hl
    obtain rfl | hx := List.mem_cons.mp hx
    · exact (Memory.byte_putBytes_of_ne (fun z hz h => hy (List.mem_map.mpr ⟨z, hz, h⟩)) (m.setByte x.1 x.2)).trans (by simp)
    · exact ih hl hx _

/-! ### Writes of bytes to SRAM (R111, R112) -/

/-- The writes that fall in block `b`, with what they make of its tag. -/
def State.writeInBlock (s : State) (l : List (Nat × Byte)) (b : Nat) : State :=
  let here := l.filter (fun x => x.1 / 256 == b)
  let m := s.mem.putBytes here
  if !(s.loc (b * 256)).tagged then { s with mem := m }
  else if (here.map (·.1)).eraseDups.length == 256 then { s with mem := (m.setTagDiff b 0).setBad b false }
  else if s.mem.tagOk b then { s with mem := m }
  else { s with mem := m.setBad b true }.count R.MEM_TAGERR

/-- The writes to addresses of the SRAM. -/
def State.sramWrites (s : State) (l : List (Nat × Byte)) : List (Nat × Byte) := l.filter (fun x => (s.loc x.1).sram)

theorem State.writeBytes_eq (l : List (Nat × Byte)) : s.writeBytes l =
    ((s.sramWrites l).map (fun x => x.1 / 256)).eraseDups.foldl (fun u b => u.writeInBlock (s.sramWrites l) b) s := rfl

theorem State.byte_writeInBlock (l : List (Nat × Byte)) (b a : Nat) :
    (s.writeInBlock l b).mem.byte a = (s.mem.putBytes (l.filter (fun x => x.1 / 256 == b))).byte a := by
  unfold State.writeInBlock
  dsimp only
  split_ifs <;> rfl

theorem State.writeInBlock_only (l : List (Nat × Byte)) (b : Nat) : s.only (s.writeInBlock l b) [.regs, .mem] := by
  simp [State.writeInBlock, State.only_ite]

theorem State.writeBytes_only (l : List (Nat × Byte)) : s.only (s.writeBytes l) [.regs, .mem] := by
  rw [s.writeBytes_eq]
  exact List.foldlRecOn (motive := fun u : State => s.only u [.regs, .mem]) _ _ (s.only_refl _) fun u hu b _ =>
    State.only_trans hu (u.writeInBlock_only _ b)

theorem State.byte_writeInBlock_of_ne {l : List (Nat × Byte)} {a : Nat} (h : ∀ x ∈ l, x.1 ≠ a) (b : Nat) :
    (s.writeInBlock l b).mem.byte a = s.mem.byte a := by
  rw [s.byte_writeInBlock, Memory.byte_putBytes_of_ne fun x hx => h x (List.mem_of_mem_filter hx)]

/-- A byte at no address of the writes stays. -/
theorem State.byte_writeBytes_of_ne {l : List (Nat × Byte)} {a : Nat} (h : ∀ x ∈ l, x.1 ≠ a) :
    (s.writeBytes l).mem.byte a = s.mem.byte a := by
  rw [s.writeBytes_eq]
  exact List.foldlRecOn (motive := fun u : State => u.mem.byte a = s.mem.byte a) _ _ rfl fun u hu b _ =>
    (u.byte_writeInBlock_of_ne (fun x hx => h x (List.mem_of_mem_filter hx)) b).trans hu

section
variable {l : List (Nat × Byte)} (hl : (l.map (·.1)).Nodup) {x : Nat × Byte} (hx : x ∈ l)
include hl hx

/-- The block of a write takes its byte; other blocks leave it. -/
theorem State.byte_writeInBlock_of_mem (b : Nat) :
    (s.writeInBlock l b).mem.byte x.1 = if b = x.1 / 256 then x.2 else s.mem.byte x.1 := by
  rw [s.byte_writeInBlock]
  split
  · next hb =>
    have hsub : ((l.filter (fun x => x.1 / 256 == b)).map (·.1)).Nodup := hl.sublist (List.filter_sublist.map _)
    exact Memory.byte_putBytes_of_mem hsub (List.mem_filter.mpr ⟨hx, by simp [hb]⟩) _
  · next hb =>
    refine Memory.byte_putBytes_of_ne (fun y hy h => hb ?_) _
    rw [← h]
    exact (beq_iff_eq.mp (List.mem_filter.mp hy).2).symm

/-- Writes at addresses of their own leave their bytes, once the block of each has had its turn. -/
theorem State.byte_foldl_writeInBlock (blocks : List Nat) : (blocks.foldl (fun u b => u.writeInBlock l b) s).mem.byte x.1 =
    if x.1 / 256 ∈ blocks then x.2 else s.mem.byte x.1 := by
  induction blocks generalizing s with
  | nil => rfl
  | cons b blocks ih =>
    rw [List.foldl_cons, ih, s.byte_writeInBlock_of_mem hl hx]
    by_cases hb : x.1 / 256 = b
    · simp [hb]
    · simp [hb, Ne.symm hb]

/-- Writes at addresses of their own are what the SRAM holds there. -/
theorem State.byte_writeBytes_of_mem (hsram : (s.loc x.1).sram = true) : (s.writeBytes l).mem.byte x.1 = x.2 := by
  have hmem : x ∈ s.sramWrites l := List.mem_filter.mpr ⟨hx, hsram⟩
  have hnodup : ((s.sramWrites l).map (·.1)).Nodup := hl.sublist (List.filter_sublist.map _)
  rw [s.writeBytes_eq, s.byte_foldl_writeInBlock hnodup hmem, if_pos]
  exact List.mem_eraseDups.mpr (List.mem_map.mpr ⟨x, hmem, rfl⟩)

end

/-! ### Writes of a DME core (R93, R265) -/

theorem State.setLines_only (n : Nat) (l : List L1Line) : s.only (s.setLines n l) [.memsys] := s.memsys_only _

@[simp] theorem State.only_setLines_iff {k : List Part} (h : .memsys ∈ k) (n : Nat) (l : List L1Line) :
    s.only (t.setLines n l) k ↔ s.only t k := State.only_iff_of_only (t.setLines_only n l) h

theorem State.lines_setLines (n : Nat) (l : List L1Line) : (s.setLines n l).lines n = l := Sparse.get_put_self ..

theorem State.l1Insert_only (core : Nat) (x : L1Line) : s.only (s.l1Insert core x) [.regs, .mem, .memsys] := by
  have hstore (a : Nat) (b : List Byte) : s.only (s.store a b) [.regs, .mem, .memsys] := State.only_mono (s.store_only a b) (by simp)
  unfold State.l1Insert
  dsimp only
  split
  · simp
  · split
    · simp
    · rw [State.only_setLines_iff _ _ (by simp), State.only_ite]
      simp [hstore]

theorem State.dmeWrite_only (core : Nat) (l : List (Nat × Byte)) : s.only (s.dmeWrite core l) [.regs, .mem, .memsys] := by
  unfold State.dmeWrite
  dsimp only
  refine List.foldlRecOn (motive := fun u : State => s.only u [.regs, .mem, .memsys]) _ _ ?_ fun u hu k _ =>
    State.only_trans hu (u.l1Insert_only core _)
  exact State.only_mono (s.writeBytes_only _) (by simp)

end Sys2Proof.Machine
end

section
/-! PROOF. The obligation of spec/05 on the RED slot, POST and the L1 slot (R163, R166, R167, spec/03 R93). -/

namespace Sys2Proof.Machine

variable (s t : State)

theorem State.mem_setRun (n : Nat) (p : Option Prog) : (s.setRun n p).mem = s.mem := rfl

/-! ### Mapped operands (R139) -/

theorem State.touch_of_mapped {s u : State} {n h : Nat} {p : Prog} {d : Desc} {acc : Acc3} {offs : List Nat} {m : PageMap}
    (hm : s.mapped n p d h acc offs = some (m, u)) : ∃ pages v, s.touch n p.start.ctx (d.touches h acc offs) [] = (.ok pages, v) ∧
      m = v.noRemote pages ∧ u = v.violatePages n p.start.ctx m := by
  unfold State.mapped at hm
  split at hm
  next pages v hv =>
    cases hm
    exact ⟨pages, v, hv, rfl, rfl⟩
  next => cases hm

theorem State.mapped_only {s u : State} {n h : Nat} {p : Prog} {d : Desc} {acc : Acc3} {offs : List Nat} {m : PageMap}
    (hm : s.mapped n p d h acc offs = some (m, u)) : s.only u [.regs, .mmu] := by
  obtain ⟨pages, v, hv, -, rfl⟩ := State.touch_of_mapped hm
  have htouch := State.only_of_snd hv (s.touch_only n p.start.ctx (d.touches h acc offs) [])
  exact State.only_trans (State.only_mono htouch (by simp)) (State.only_mono (v.violatePages_only n p.start.ctx m) (by simp))

/-! ### The RED slot (R166, R167) -/

/-- The tensor of the RED slot as the stream's own core uses it. -/
def Prog.redDesc (p : Prog) (n y : Nat) : Desc := (p.desc (bits y 44 12)).forRank (p.ownRank n)

section
variable {s u w : State} {n y opc : Nat} {p : Prog} {m : PageMap}

/-- A RED slot that falls due is performed by the command of its opcode, once its pages are mapped. -/
theorem State.redSlot_of_mapped (hrun : (s.stream n).run = some p) (hdue : p.redDue = some y) (hop : bits y 56 8 = opc) {acc : Acc3}
    {offs : List Nat} (hoffs : (if opc = 0x60 then (p.redDesc n y).offsets 0 (p.redDesc n y).count else (p.redDesc n y).offsets 0 1) = offs)
    (hm : s.mapped n p (p.redDesc n y) (bits y 44 12) acc offs = some (m, u)) (f : Prog → Nat → Nat → Desc → PageMap → State → State) :
    s.redSlot n opc f acc = f { p with phase := .redDone } y (bits y 44 12) (p.redDesc n y) m u := by
  obtain ⟨pages, v, hv, rfl, rfl⟩ := State.touch_of_mapped hm
  rw [Prog.redDesc] at hoffs hv
  subst hoffs
  simp only [State.redSlot, hrun, hdue, hop, ne_eq, not_true_eq_false, if_false]
  rw [hv]
  rfl

theorem State.redRead_of_sound {d : Desc} {h hi : Nat}
    (hread : s.readCheck n p d.notag (s.readAddrs d m (s.crTail d.crnum) 0 hi) 6 h d.base = (true, w)) (k : List Nat → Prog) :
    s.redRead n p h d m hi k = w.setRun n (some (k (w.elems (w.unitByte n) d m (s.crTail d.crnum) 0 hi))) := by
  simp only [State.redRead, hread]

end

/-- The write of MSTORE: through the L1 cache of a DME core, else to memory. -/
def State.storeMark (s : State) (n : Nat) (l : List (Nat × Byte)) : State :=
  if streamKind n = 1 then s.dmeWrite (n - 4) l else s.writeBytes l

theorem State.storeMark_only (n : Nat) (l : List (Nat × Byte)) : s.only (s.storeMark n l) [.regs, .mem, .memsys] := by
  unfold State.storeMark
  split
  · exact s.dmeWrite_only _ l
  · exact State.only_mono (s.writeBytes_only l) (by simp)

theorem execRed_of_sound {s u w : State} {n : Fin 22} {y : Nat} {p : Prog} {m : PageMap} {d : Desc} (hrun : (s.stream n.val).run = some p)
    (hdue : p.redDue = some y) (hop : bits y 56 8 = 0x60) (hd : p.redDesc n.val y = d)
    (hm : s.mapped n.val p d (bits y 44 12) .read (d.offsets 0 d.count) = some (m, u))
    (hread : u.readCheck n.val { p with phase := .redDone } d.notag (u.readAddrs d m (u.crTail d.crnum) 0 d.count) 6 (bits y 44 12) d.base =
      (true, w)) :
    execRed n s = .next (w.setRun n.val (some { p with
      phase := .redDone
      markWr := p.markWr ++ [(bits y 40 4, BitVec.ofNat 32 (reduce d.typ (bits y 36 4)
        (w.elems (w.unitByte n.val) d m (u.crTail d.crnum) 0 d.count)))] })) := by
  subst hd
  rw [execRed, State.redSlot_of_mapped hrun hdue hop (if_pos rfl) hm, State.redRead_of_sound hread]

theorem execMload_of_sound {s u w : State} {n : Fin 22} {y : Nat} {p : Prog} {m : PageMap} {d : Desc} (hrun : (s.stream n.val).run = some p)
    (hdue : p.redDue = some y) (hop : bits y 56 8 = 0x62) (hd : p.redDesc n.val y = d)
    (hm : s.mapped n.val p d (bits y 44 12) .read (d.offsets 0 1) = some (m, u))
    (hread : u.readCheck n.val { p with phase := .redDone } d.notag (u.readAddrs d m (u.crTail d.crnum) 0 1) 6 (bits y 44 12) d.base =
      (true, w)) :
    execMload n s = .next (w.setRun n.val (some { p with
      phase := .redDone
      markWr := p.markWr ++ [(bits y 40 4, BitVec.ofNat 32 (w.elem (w.unitByte n.val) d m (u.crTail d.crnum) 0))] })) := by
  subst hd
  rw [execMload, State.redSlot_of_mapped hrun hdue hop (if_neg (by decide)) hm, State.redRead_of_sound hread]
  rfl

theorem execMstore_of_mapped {s u : State} {n : Fin 22} {y : Nat} {p : Prog} {m : PageMap} {d : Desc} (hrun : (s.stream n.val).run = some p)
    (hdue : p.redDue = some y) (hop : bits y 56 8 = 0x61) (hd : p.redDesc n.val y = d)
    (hm : s.mapped n.val p d (bits y 44 12) .write (d.offsets 0 1) = some (m, u)) :
    execMstore n s = .next ((u.storeMark n.val (u.elemWrites d m (u.crHead d.crnum) [(0, (p.marks.getD (bits y 40 4) 0).toNat)])).setRun
      n.val (some { p with phase := .redDone })) := by
  subst hd
  rw [execMstore, State.redSlot_of_mapped hrun hdue hop (if_neg (by decide)) hm]
  rfl

/-! ### POST (R163) -/

theorem State.setAcq_only (n : Nat) (x : AcqStream) : s.only (s.setAcq n x) [.acq] := by
  intro p hp
  cases p
  case acq => simp at hp
  all_goals rfl

theorem State.leaveFlight_only (n frame : Nat) : s.only (s.leaveFlight n frame) [.regs, .acq] := by
  unfold State.leaveFlight
  rw [State.only_fset_iff _ _ (by simp)]
  exact State.only_mono (s.setAcq_only n _) (by simp)

theorem State.sheetLeaves_only (b : List Byte) : s.only (s.sheetLeaves b) [.regs, .acq] := by
  unfold State.sheetLeaves
  split
  · exact s.leaveFlight_only _ _
  · exact s.only_refl _

theorem State.length_stampLate (b : List Byte) : (s.stampLate b).length = b.length := by
  unfold State.stampLate
  split
  · exact List.length_set
  · rfl

/-- The first `k` entries of a record, stamped, are `k` entries. -/
theorem State.entries_stampLate {b : List Byte} {k : Nat} (h : 64 * k ≤ b.length) :
    ceilDiv (s.stampLate (b.take (64 * k))).length 64 = k := by
  rw [s.length_stampLate, List.length_take_of_le h, ceilDiv]
  omega

section
variable {s u w : State} {n : Fin 22} {p : Prog} {y : Nat} {m : PageMap} {b : List Byte}

/-- A sound record of a ring that its context owns is committed once the ring has space. -/
theorem execCtrlPost_of_sound (hrun : (s.stream n.val).run = some p) (hdue : p.ctrlDue = some y) (hop : bits y 56 8 = 8)
    {d : Desc} (hd : p.desc (bits y 44 12) = d) (hm : s.mapped n.val p d (bits y 44 12) .read d.covered = some (m, u))
    (hread : u.readCheck n.val p d.notag (d.covered.filterMap (fun k => u.tensorPhys d m .read (s.crTail d.crnum) k)) 1 (bits y 44 12)
      d.base = (true, w))
    (hbytes : w.postBytes d m (s.crTail d.crnum) = some b) (hlow : 1 ≤ leAt b 2 2) (hhigh : leAt b 2 2 ≤ 16)
    (hlen : 64 * leAt b 2 2 ≤ b.length) (htyp : leAt b 0 1 ≠ 0) (hcard : leAt b 0 1 ≠ 0xF0) (howner : ringOwner (bits y 32 4) = p.start.ctx)
    (hon : w.ringEnabled (bits y 32 4) = true) (hspace : leAt b 2 2 ≤ w.ringSpace (bits y 32 4)) :
    execCtrlPost n s = .next (((w.commitRecord (bits y 32 4) (w.stampLate (b.take (64 * leAt b 2 2)))).sheetLeaves
      (w.stampLate (b.take (64 * leAt b 2 2)))).setRun n.val (some p.ctrlEnd)) := by
  obtain ⟨pages, v, hv, rfl, rfl⟩ := State.touch_of_mapped hm
  have hform : ¬(b.length < 64 ∨ leAt b 2 2 = 0 ∨ 16 < leAt b 2 2 ∨ b.length < 64 * leAt b 2 2 ∨ leAt b 0 1 = 0 ∨ leAt b 0 1 = 0xF0) := by
    omega
  have hcommit := State.tryCommit_done (b := w.stampLate (b.take (64 * leAt b 2 2))) hon (by rwa [w.entries_stampLate hlen])
  rw [execCtrlPost, State.ctrlSlot_of_due hrun hdue hop]
  simp only [hd, hv, hread, hbytes, hcommit, howner, ne_eq, not_true_eq_false, if_neg hform, if_false]

end

/-! ### The L1 slot (R93, R162) -/

/-- The bits of a field are those of the number. -/
theorem bit_bits {k w : Nat} (h : k < w) (v lo : Nat) : bit (bits v lo w) k = bit v (lo + k) := by
  rw [bit_eq_testBit, bit_eq_testBit, bits, Nat.testBit_mod_two_pow, Nat.testBit_shiftRight]
  simp [h]

/-- The caches' work of the L1 slot on one core. -/
def State.l1Act (s : State) (act k : Nat) : State :=
  let s := if bit act 0 then s.l1WriteBack k else s
  if bit act 1 then s.l1Drop k else s

theorem State.storeLines_only (l : List L1Line) : s.only (l.foldl (fun u x => u.store x.addr x.data) s) [.regs, .mem] :=
  List.foldlRecOn (motive := fun u : State => s.only u [.regs, .mem]) _ _ (s.only_refl _) fun u hu x _ =>
    State.only_trans hu (u.store_only x.addr x.data)

theorem State.l1WriteBack_only (k : Nat) : s.only (s.l1WriteBack k) [.regs, .mem, .memsys] := by
  rw [State.l1WriteBack, State.only_setLines_iff _ _ (by simp)]
  exact State.only_mono (s.storeLines_only _) (by simp)

theorem State.lines_l1WriteBack (k : Nat) : (s.l1WriteBack k).lines k = (s.lines k).map (fun l => { l with dirty := false }) :=
  State.lines_setLines ..

theorem State.l1Drop_only (k : Nat) : s.only (s.l1Drop k) [.memsys] := s.setLines_only k _

theorem State.locked_of_mem_l1Drop {k : Nat} {l : L1Line} (h : l ∈ (s.l1Drop k).lines k) : l.locked = true ∧ l.inval = true := by
  rw [State.l1Drop, State.lines_setLines] at h
  obtain ⟨x, hx, rfl⟩ := List.mem_map.mp h
  exact ⟨(List.mem_filter.mp hx).2, rfl⟩

theorem State.l1Act_only (act k : Nat) : s.only (s.l1Act act k) [.regs, .mem, .memsys] := by
  have hback := s.l1WriteBack_only k
  have hdrop (u : State) : u.only (u.l1Drop k) [.regs, .mem, .memsys] := State.only_mono (u.l1Drop_only k) (by simp)
  unfold State.l1Act
  dsimp only
  split_ifs
  · exact State.only_trans hback (hdrop _)
  · exact hdrop s
  · exact hback
  · exact s.only_refl _

section
variable {act : Nat} (k : Nat)

theorem State.lines_l1Act_writeBack (h0 : bit act 0 = true) (h1 : bit act 1 = false) :
    (s.l1Act act k).lines k = (s.lines k).map (fun l => { l with dirty := false }) := by
  simp [State.l1Act, h0, h1, State.lines_l1WriteBack]

theorem State.locked_of_mem_l1Act (h1 : bit act 1 = true) {l : L1Line} (h : l ∈ (s.l1Act act k).lines k) :
    l.locked = true ∧ l.inval = true := by
  simp only [State.l1Act, h1, if_true] at h
  exact State.locked_of_mem_l1Drop _ h

theorem State.mem_l1Act (h0 : bit act 0 = false) : (s.l1Act act k).mem = s.mem := by
  simp only [State.l1Act, h0, Bool.false_eq_true, if_false]
  split <;> rfl

end

theorem execCtrlL1_of_due {s : State} {n : Fin 22} {y : Nat} {p : Prog} (hrun : (s.stream n.val).run = some p)
    (hdue : p.ctrlDue = some y) (hop : bits y 56 8 = 6) (hown : p.start.bcast = false) :
    execCtrlL1 n s = .next ((s.l1Act (bits y 54 2) (n.val - 4)).setRun n.val (some p.ctrlEnd)) := by
  have hcores : p.cores n.val = [n.val - 4] := by simp [Prog.cores, hown]
  rw [execCtrlL1, State.ctrlSlot_of_due hrun hdue hop, hcores]
  rfl

/-! ### The obligation -/

/-- Settles O39: RED and MLOAD by the elements read, MSTORE by the bytes written, POST by the record committed, L1 by the lines left. -/
theorem sideSlotsReadWriteAndPost : Obligations.SideSlotsReadWriteAndPost := by
  refine ⟨fun n s u w p y m hrun hdue => ⟨fun hop hm hread => ?_, fun hop hm hread => ?_, fun hop hm => ?_⟩,
    fun n s u w p y m b hrun hdue hop hm hread hbytes hlow hhigh hlen htyp hcard howner hon hspace => ?_,
    fun n s p y hrun hdue hop hown => ?_⟩
  · exact exists_next_setRun (execRed_of_sound hrun hdue hop rfl hm hread)
  · exact exists_next_setRun (execMload_of_sound hrun hdue hop rfl hm hread)
  · refine ⟨_, execMstore_of_mapped hrun hdue hop rfl hm, ?_, State.run_setRun .., fun hkind => ?_⟩
    · rw [State.only_setRun_iff _ _ (by simp)]
      exact State.only_trans (State.only_mono (State.mapped_only hm) (by simp)) (State.only_mono (u.storeMark_only _ _) (by simp))
    · rw [State.mem_setRun, State.storeMark, if_neg hkind]
      have hmem : u.mem = s.mem := State.mapped_only hm .mem (by simp)
      exact ⟨fun a ha => (u.byte_writeBytes_of_ne ha).trans (congrArg (Memory.byte · a) hmem),
        fun hnodup x hx hsram => u.byte_writeBytes_of_mem hnodup hx hsram⟩
  · have hexec := execCtrlPost_of_sound hrun hdue hop rfl hm hread hbytes hlow hhigh hlen htyp hcard howner hon hspace
    generalize w.stampLate (b.take (64 * leAt b 2 2)) = r at hexec ⊢
    generalize w.commitRecord (bits y 32 4) r = v at hexec ⊢
    exact ⟨_, hexec, v.sheetLeaves_only r .rings (by simp), v.sheetLeaves_only r .mem (by simp), State.run_setRun ..⟩
  · have hb0 : bit (bits y 54 2) 0 = bit y 54 := bit_bits (by decide) y 54
    have hb1 : bit (bits y 54 2) 1 = bit y 55 := bit_bits (by decide) y 54
    refine ⟨_, execCtrlL1_of_due hrun hdue hop hown, State.run_setRun .., fun hact => ?_, fun hdrop l hl => ?_, fun hkeep => ?_, ?_⟩
    · exact s.lines_l1Act_writeBack _ (by rw [hact]; decide) (by rw [hact]; decide)
    · exact s.locked_of_mem_l1Act _ (hb1.trans hdrop) hl
    · exact s.mem_l1Act _ (hb0.trans hkeep)
    · rw [State.only_setRun_iff _ _ (by simp)]
      exact State.only_mono (s.l1Act_only _ _) (by simp)

end Sys2Proof.Machine
end

section
/-! PROOF. The obligation of spec/05 on the transfers of a data mover (R143, R165, spec/18 R512, R513, R517). -/

namespace Sys2Proof.Machine

variable (s t : State)

section
variable {s} {n : Nat} {p : Prog} {o : OpRun}

/-- A command acts on the first unfinished operation that suits it. -/
theorem State.withOp_of_find {ok : OpRun → Bool} (hrun : (s.stream n).run = some p) (hphase : p.phase = .issued)
    (hfind : p.ops.find? (fun o => !o.finished && ok o) = some o) (f : Prog → OpRun → State) : s.withOp n ok f = f p o := by
  simp [State.withOp, hrun, hphase, hfind]

theorem OpRun.opc_of_find {l : List OpRun} {opc : Nat}
    (hfind : l.find? (fun o => !o.finished && (!o.started && o.opc == opc)) = some o) : o.opc = opc := by
  have hok := List.find?_some hfind
  simp only [Bool.and_eq_true, beq_iff_eq] at hok
  exact hok.2.2

theorem dmTotal_of_copy (h : o.opc = 0x30) (src dst : Desc) : dmTotal (o.opc == 0x31) src dst = dmTotal false src dst := by
  rw [h]
  rfl

theorem dmTotal_of_fill (h : o.opc = 0x31) (src dst : Desc) : dmTotal (o.opc == 0x31) src dst = dst.streamBytes := by
  simp [dmTotal, h]

theorem State.dmRemote_of_fill (h : o.opc = 0x31) : s.dmRemote n p o = false := by
  simp [State.dmRemote, h]

theorem State.dmBegin_of_local (h : s.dmRemote n p o = false) : s.dmBegin n p o = s.setOp n p { o with
    started := true, nsteps := ceilDiv (dmTotal (o.opc == 0x31) (p.desc (p.handle o 0)) (p.desc (p.handle o 1))) 4096 } := by
  simp [State.dmBegin, h]

theorem State.dmBegin_of_remote (h : s.dmRemote n p o = true) (hline : (p.desc (p.handle o 1)).contiguous = true) :
    s.dmBegin n p o = s.setOp n p { o with
      started := true
      nsteps := segCount (p.desc (p.handle o 1)).base (dmTotal (o.opc == 0x31) (p.desc (p.handle o 0)) (p.desc (p.handle o 1))) } := by
  simp [State.dmBegin, h, hline]

end

/-! ### A step of FILL -/

/-- No tag is carried to blocks whose bytes come from nowhere. -/
theorem State.carryTags_of_none {l : List (Nat × Option Nat)} (h : ∀ x ∈ l, x.2 = none) : s.carryTags l = s := by
  refine List.foldlRecOn (motive := fun u : State => u = s) _ _ rfl fun u hu b _ => ?_
  subst hu
  have hhead : (l.filter (fun x => x.1 / 256 == b)).head?.bind (·.2) = none := by
    refine Option.bind_eq_none_iff.mpr fun x hx => h x ?_
    exact List.mem_of_mem_filter (List.mem_of_mem_head? hx)
  simp only [hhead]

/-- The elements that step `k` of a FILL writes, by index and bits. -/
def fillElems (d : Desc) (pat k : Nat) : List (Nat × Nat) :=
  let hi := min d.streamBytes (4096 * k + 4096)
  let r := d.elemsIn (4096 * k) hi
  (unpackElems (typeBits d.typ) (r.2 - r.1) (fillBytes pat (4096 * k) hi)).zipIdx.map (fun x => (r.1 + x.2, x.1))

theorem State.dmStep_of_fill {s u : State} {n : Nat} {p : Prog} {o : OpRun} {d : Desc} {m : PageMap} {hi : Nat} (hopc : o.opc = 0x31)
    (hd : p.desc (p.handle o 1) = d) (hcr : d.crbind = false) (hlay : d.layout ≠ 3) (hhi : min d.streamBytes (4096 * o.step + 4096) = hi)
    (htouch : s.touch n p.start.ctx (d.touches (p.handle o 1) .write (d.offsets (d.elemsIn (4096 * o.step) hi).1
      (d.elemsIn (4096 * o.step) hi).2)) [] = (.ok m, u)) : s.dmStep n p o =
    ((u.violatePages n p.start.ctx m).writeElems d m 0 (fillElems d (o.arg.getD 0) o.step)).dmStepDone n p o d := by
  have hfill : (o.opc == 0x31) = true := by simp [hopc]
  have htotal (src : Desc) : dmTotal true src d = d.streamBytes := by simp [dmTotal]
  have hnone (l : List (Option Nat)) (k : Nat) :
      ∀ x ∈ (l.zip (List.replicate k (none : Option Nat))).filterMap (fun x => x.1.map (fun a => (a, x.2))), x.2 = none := by
    intro x hx
    obtain ⟨y, hy, hxy⟩ := List.mem_filterMap.mp hx
    obtain ⟨a, -, rfl⟩ := Option.map_eq_some_iff.mp hxy
    exact List.eq_of_mem_replicate (List.of_mem_zip hy).2
  unfold State.dmStep
  simp only [hd, hcr, hfill, htotal, hhi, Bool.false_eq_true, if_false, State.dmSource, if_pos hopc, if_neg hlay, htouch,
    State.carryTags_of_none _ (hnone _ _), ite_self, reduceCtorEq]
  rw [fillElems, hhi]
  rfl

/-- The bytes that writes of elements go to are those of the elements. -/
theorem State.addr_of_mem_elemWrites {d : Desc} {m : PageMap} {start : Nat} {vals : List (Nat × Nat)} {x : Nat × Byte}
    (hx : x ∈ s.elemWrites d m start vals) :
    ∃ v ∈ vals, ∃ k < d.ebytes, s.tensorPhys d m .write start ((d.pos v.1).1 + k) = some x.1 := by
  refine List.foldlRecOn (motive := fun acc : List (Nat × Byte) => ∀ x ∈ acc, ∃ v ∈ vals, ∃ k < d.ebytes,
    s.tensorPhys d m .write start ((d.pos v.1).1 + k) = some x.1) _ _ (fun x hx => by cases hx) (fun acc hacc v hv => ?_) x hx
  dsimp only
  split
  next hsub =>
    split
    next => exact hacc
    next a ha =>
      intro x hx
      obtain rfl | hx := List.mem_cons.mp hx
      · exact ⟨v, hv, 0, by simp [Desc.ebytes, hsub], ha⟩
      · exact hacc x (List.mem_of_mem_filter hx)
  next =>
    refine List.foldlRecOn (motive := fun acc : List (Nat × Byte) => ∀ x ∈ acc, ∃ v ∈ vals, ∃ k < d.ebytes,
      s.tensorPhys d m .write start ((d.pos v.1).1 + k) = some x.1) _ _ hacc fun acc hacc k hk => ?_
    split
    next => exact hacc
    next a ha =>
      intro x hx
      obtain rfl | hx := List.mem_cons.mp hx
      · exact ⟨v, hv, k, List.mem_range.mp hk, ha⟩
      · exact hacc x hx

/-- The bytes of an element are among the offsets of any range of elements that holds it. -/
theorem Desc.mem_offsets {d : Desc} {lo hi i k : Nat} (hi' : i < hi - lo) (hk : k < d.ebytes) : (d.pos (lo + i)).1 + k ∈ d.offsets lo hi := by
  rw [Desc.offsets, List.mem_eraseDups, List.mem_flatMap]
  exact ⟨i, List.mem_range.mpr hi', List.mem_map.mpr ⟨k, List.mem_range.mpr hk, Nat.add_comm ..⟩⟩

theorem index_of_mem_fillElems {d : Desc} {pat k hi : Nat} (hhi : min d.streamBytes (4096 * k + 4096) = hi) {v : Nat × Nat}
    (hv : v ∈ fillElems d pat k) :
    ∃ i, i < (d.elemsIn (4096 * k) hi).2 - (d.elemsIn (4096 * k) hi).1 ∧ v.1 = (d.elemsIn (4096 * k) hi).1 + i := by
  rw [fillElems, hhi] at hv
  obtain ⟨x, hx, rfl⟩ := List.mem_map.mp hv
  refine ⟨x.2, ?_, rfl⟩
  have hlt := (List.mem_zipIdx hx).2.1
  simpa [unpackElems] using hlt

theorem State.writeElems_only (d : Desc) (m : PageMap) (start : Nat) (vals : List (Nat × Nat)) :
    s.only (s.writeElems d m start vals) [.regs, .mem] := s.writeBytes_only _

/-- A step of FILL changes no byte outside its elements. -/
theorem State.byte_writeElems_fill {d : Desc} {m : PageMap} {pat k hi a : Nat} (hcr : d.crbind = false)
    (hhi : min d.streamBytes (4096 * k + 4096) = hi)
    (ha : ∀ j ∈ d.offsets (d.elemsIn (4096 * k) hi).1 (d.elemsIn (4096 * k) hi).2, m.phys .write (d.base + j) ≠ some a) :
    (s.writeElems d m 0 (fillElems d pat k)).mem.byte a = s.mem.byte a := by
  refine s.byte_writeBytes_of_ne fun x hx hxa => ?_
  obtain ⟨v, hv, j, hj, hphys⟩ := s.addr_of_mem_elemWrites (List.mem_reverse.mp hx)
  obtain ⟨i, hi', hvi⟩ := index_of_mem_fillElems hhi hv
  rw [State.tensorPhys, hcr, if_neg Bool.false_ne_true, hvi, hxa] at hphys
  exact ha _ (Desc.mem_offsets hi' hj) hphys

/-- After a step of a transfer to no bound region comes the next, or the end. -/
theorem State.dmStepDone_of_unbound {d : Desc} (hcr : d.crbind = false) (n : Nat) (p : Prog) (o : OpRun) :
    ∃ q, s.dmStepDone n p o d = s.setRun n (some q) ∧ (o.step + 1 < o.nsteps → q = p.setOp { o with step := o.step + 1 }) ∧
      (o.nsteps ≤ o.step + 1 → q = (p.setOp { o with step := o.step + 1, finished := true }).advance) := by
  by_cases hmore : o.step + 1 < o.nsteps
  · refine ⟨_, if_pos hmore, fun _ => rfl, fun hlast => ?_⟩
    omega
  · refine ⟨_, ?_, fun h => absurd h hmore, fun _ => rfl⟩
    simp [State.dmStepDone, hmore, hcr, State.finishOp]

/-! ### Segments of a remote COPY (R513) -/

/-- A number's bytes give the number, modulo what they can hold. -/
theorem leNat_leBytes (n v : Nat) : leNat (leBytes n v) = v % 256 ^ n := by
  induction n generalizing v with
  | zero => simp [leBytes, leNat, Nat.mod_one]
  | succ n ih =>
    have hpow : 256 ^ (n + 1) = 256 * 256 ^ n := Nat.pow_succ'
    rw [leBytes, leNat, ih, BitVec.toNat_ofNat, hpow]
    exact Nat.mod_mul.symm

/-- A number laid behind `o` bytes is read at offset `o`. -/
theorem leAt_append_leBytes {a : List Byte} {o : Nat} (ha : a.length = o) (n v : Nat) (b : List Byte) :
    leAt (a ++ (leBytes n v ++ b)) o n = v % 256 ^ n := by
  rw [leAt, List.drop_left' ha, List.take_left' (leBytes_length n v), leNat_leBytes]

/-- The length that a segment's header tells. -/
theorem State.len_seg (vc : Nat) (a : SegArgs) (data : List (List Byte)) : (s.seg vc a data).len = a.len % 2 ^ 32 := by
  have hbody : segBody s.chainAddr a = (leBytes 2 a.dest ++ leBytes 2 s.chainAddr ++ [BitVec.ofNat 8 a.ttype, BitVec.ofNat 8 a.flags] ++
      leBytes 2 4095 ++ [BitVec.ofNat 8 a.cls, 0, 0, 0] ++ leBytes 4 a.ofs) ++
      (leBytes 4 a.len ++ (leBytes 4 a.tlen ++ leBytes 4 a.target ++ leBytes 4 a.xfer ++ padTo 24 a.own)) := by
    simp only [segBody, List.append_assoc]
  have hlen := leAt_append_leBytes (a := leBytes 2 a.dest ++ leBytes 2 s.chainAddr ++ [BitVec.ofNat 8 a.ttype, BitVec.ofNat 8 a.flags] ++
    leBytes 2 4095 ++ [BitVec.ofNat 8 a.cls, 0, 0, 0] ++ leBytes 4 a.ofs) (o := 16) (by simp [leBytes_length]) 4 a.len
  exact (congrArg (leAt · 16 4) hbody).trans (hlen _)

/-- The program shows an operation that replaced one of its own. -/
theorem Prog.any_setOp {p : Prog} {o x : OpRun} (ho : o ∈ p.ops) (hslot : x.slot = o.slot) :
    (p.setOp x).ops.any (fun y => y.slot == o.slot && y.step == x.step) = true :=
  List.any_eq_true.mpr ⟨x, List.mem_map.mpr ⟨o, ho, if_pos hslot.symm⟩, by simp [hslot]⟩

/-- The first segment of a COPY takes the next transfer number. -/
def State.takeXfer (s : State) (step : Nat) : State :=
  if step = 0 then { s with chn := { s.chn with nextXfer := (s.chn.nextXfer + 1) % 2 ^ 32 } } else s

/-- A segment leaves on a port: queued there and outstanding. -/
def State.launch (s : State) (port owner xfer ofs : Nat) (g : Seg) : State :=
  let u := s.enqueue port g
  { u with chn := { u.chn with flights := u.chn.flights ++ [⟨owner, xfer, ofs, g, u.now, false⟩] } }

theorem State.chn_takeXfer (k : Nat) : (s.takeXfer k).chn.flights = s.chn.flights ∧ (s.takeXfer k).chn.ports = s.chn.ports ∧
    (s.takeXfer k).now = s.now := by
  unfold State.takeXfer
  split <;> exact ⟨rfl, rfl, rfl⟩

theorem State.queue_launch (port owner xfer ofs : Nat) (g : Seg) :
    ((s.launch port owner xfer ofs g).port port).queue = (s.port port).queue ++ [g] := congrArg Port.queue (Sparse.get_put_self ..)

section
variable {s} {n : Nat} {p : Prog} {o : OpRun}

theorem State.segmentSend_of_all_sent (hall : o.nsteps ≤ o.step) (hout : s.chn.flights.any (fun f => f.owner == n * 8 + p.start.cls) = false) :
    s.segmentSend n p o = s.finishOp n p o := by
  simp [State.segmentSend, hall, hout]

/-- A segment whose bytes are read and whose first page is mapped leaves on the port toward its device. -/
theorem State.segmentSend_of_routed {w u v : State} {d : Desc} {r : Nat × Nat} {m : PageMap} {data : List Byte}
    {origins : List (Option Nat)} {a port : Nat} (hleft : o.step < o.nsteps) (hd : p.desc (p.handle o 1) = d)
    (hr : segRange d.base d.streamBytes o.step = r)
    (hsource : s.dmSource n p o (p.desc (p.handle o 0)) d r.1 r.2 d.streamBytes = (w, some (data, origins)))
    (htouch : w.touch n p.start.ctx [⟨(d.base + r.1) / 4096, .write, d.base + r.1, p.handle o 1⟩] [] = (.ok m, u))
    (hv : u.violatePages n p.start.ctx m = v) (hphys : m.phys .write (d.base + r.1) = some a) (haddr : v.flag F.CHN_STAT_ADDRVALID = true)
    (hroute : v.route ((a - 0x4000000000) / 0x8000000) = some port) :
    ∃ xfer ofs g note, s.segmentSend n p o =
      ((v.takeXfer o.step).launch port (n * 8 + p.start.cls) xfer ofs g).setOp n p { o with step := o.step + 1, note := note } ∧
      g.len = data.length % 2 ^ 32 := by
  unfold State.segmentSend
  simp only [hd, hr, hsource, htouch, hv, hphys, haddr, hroute, if_neg (Nat.not_le_of_lt hleft)]
  exact ⟨_, _, _, _, rfl, State.len_seg _ _ _ _⟩

end

/-! ### The commands -/

section
variable {s} {n : Fin 22} {p : Prog} {o : OpRun} (hrun : (s.stream n.val).run = some p) (hphase : p.phase = .issued)
include hrun hphase

theorem execCopy_of_find (hfind : p.ops.find? (fun o => !o.finished && (!o.started && o.opc == 0x30)) = some o) :
    execCopy n s = .next (s.dmBegin n.val p o) := by
  rw [execCopy, State.beginOp, State.withOp_of_find hrun hphase hfind]

theorem execFill_of_find (hfind : p.ops.find? (fun o => !o.finished && (!o.started && o.opc == 0x31)) = some o) :
    execFill n s = .next (s.dmBegin n.val p o) := by
  rw [execFill, State.beginOp, State.withOp_of_find hrun hphase hfind]

theorem execDmChunk_of_find (hfind : p.ops.find? (fun o => !o.finished && (o.started && (o.opc == 0x30 || o.opc == 0x31))) = some o)
    (hlocal : s.dmRemote n.val p o = false) : execDmChunk n s = .next (s.dmStep n.val p o) := by
  rw [execDmChunk, State.withOp_of_find hrun hphase hfind, hlocal]
  rfl

theorem execSegmentSend_of_find (hfind : p.ops.find? (fun o => !o.finished && (o.started && o.opc == 0x30)) = some o)
    (hremote : s.dmRemote n.val p o = true) : execSegmentSend n s = .next (s.segmentSend n.val p o) := by
  rw [execSegmentSend, State.withOp_of_find hrun hphase hfind, hremote]
  rfl

end

/-- Settles O40: the begin by the step count, a FILL step by the addresses of its elements, a segment by its flight and its queue. -/
theorem transfersMoveBytesStepByStep : Obligations.TransfersMoveBytesStepByStep := by
  refine ⟨fun n s p o hrun hphase hfind => ⟨fun hlocal => exists_next_setRun ?_, fun hremote hline => exists_next_setRun ?_⟩,
    fun n s p o hrun hphase hfind => exists_next_setRun ?_, fun n s u p o m hrun hphase hfind hopc hcr hlay htouch => ?_,
    fun n s p o hrun hphase hfind hremote hall hout => exists_next_setRun ?_,
    fun n s w u p o m data origins a port hrun hphase hfind hremote hleft hsource htouch hphys haddr hroute => ?_⟩
  · have hexec := execCopy_of_find hrun hphase hfind
    rwa [State.dmBegin_of_local hlocal, dmTotal_of_copy (OpRun.opc_of_find hfind)] at hexec
  · have hexec := execCopy_of_find hrun hphase hfind
    rwa [State.dmBegin_of_remote hremote hline, dmTotal_of_copy (OpRun.opc_of_find hfind)] at hexec
  · have hopc := OpRun.opc_of_find hfind
    have hexec := execFill_of_find hrun hphase hfind
    rwa [State.dmBegin_of_local (State.dmRemote_of_fill hopc), dmTotal_of_fill hopc] at hexec
  · have hexec := execDmChunk_of_find hrun hphase hfind (State.dmRemote_of_fill hopc)
    rw [State.dmStep_of_fill hopc rfl hcr hlay rfl htouch] at hexec
    have hmapped : s.only (u.violatePages n.val p.start.ctx m) [.regs, .mmu] :=
      State.only_trans (State.only_mono (State.only_of_snd htouch (s.touch_only _ _ _ _)) (by simp))
        (State.only_mono (u.violatePages_only _ _ _) (by simp))
    generalize u.violatePages n.val p.start.ctx m = v at hexec hmapped ⊢
    obtain ⟨q, hdone, hmore, hlast⟩ := State.dmStepDone_of_unbound
      (v.writeElems (p.desc (p.handle o 1)) m 0 (fillElems (p.desc (p.handle o 1)) (o.arg.getD 0) o.step)) hcr n.val p o
    rw [hdone] at hexec
    refine ⟨_, q, hexec, State.run_setRun .., hmore, hlast, rfl, fun b hb => ?_, ?_⟩
    · rw [State.mem_setRun, v.byte_writeElems_fill hcr rfl hb]
      exact congrArg (Memory.byte · b) (hmapped .mem (by simp))
    · rw [State.only_setRun_iff _ _ (by simp)]
      exact State.only_trans (State.only_mono hmapped (by simp)) (State.only_mono (v.writeElems_only _ _ _ _) (by simp))
  · have hexec := execSegmentSend_of_find hrun hphase hfind hremote
    rwa [State.segmentSend_of_all_sent hall hout] at hexec
  · have hexec := execSegmentSend_of_find hrun hphase hfind hremote
    have hslot : o ∈ p.ops := List.mem_of_find?_eq_some hfind
    have hnow : (u.violatePages n.val p.start.ctx m).now = s.now := State.now_of_clockQueue (by
      rw [State.violatePages_clockQueue, clockQueue_of_snd htouch, State.touch_clockQueue, clockQueue_of_fst hsource,
        State.dmSource_clockQueue])
    generalize hv : u.violatePages n.val p.start.ctx m = v at haddr hroute hnow ⊢
    obtain ⟨xfer, ofs, g, note, hsend, hlen⟩ := State.segmentSend_of_routed hleft rfl rfl hsource htouch hv hphys haddr hroute
    rw [hsend] at hexec
    obtain ⟨hflights, hports, htime⟩ := v.chn_takeXfer o.step
    refine ⟨_, ⟨n.val * 8 + p.start.cls, xfer, ofs, g, (v.takeXfer o.step).now, false⟩, _, hexec, congrArg (· ++ [_]) hflights, rfl,
      htime.trans hnow, hlen, ?_, State.run_setRun .., Prog.any_setOp hslot rfl⟩
    refine ((v.takeXfer o.step).queue_launch port _ xfer ofs g).trans ?_
    rw [State.port, hports]
    rfl

end Sys2Proof.Machine
end

section
/-! PROOF. What an operation of the tile sequencers keeps in its accumulators (R194, R201). -/

namespace Sys2Proof.Machine

variable (o : OpRun)

theorem OpRun.accOf_setAcc_self (k : Nat) (v : List Int) : (o.setAcc k v).accOf k = v := by simp [OpRun.accOf, OpRun.setAcc]

theorem OpRun.accOf_setAcc_ne {k j : Nat} (h : j ≠ k) (v : List Int) : (o.setAcc k v).accOf j = o.accOf j := by
  have hkey (x : Nat × List Int) : decide ((x.1 != k) = true ∧ (x.1 == j) = true) = (x.1 == j) := by
    obtain rfl | hx := eq_or_ne x.1 j
    · simp [h]
    · simp [hx]
  rw [OpRun.accOf, OpRun.setAcc, List.find?_cons_of_neg (by simpa using h.symm), List.find?_filter, funext hkey, OpRun.accOf]

theorem OpRun.accOf_setAcc (k : Nat) (v : List Int) (j : Nat) : (o.setAcc k v).accOf j = if j = k then v else o.accOf j := by
  split
  · next h => rw [h, o.accOf_setAcc_self]
  · next h => exact o.accOf_setAcc_ne h v

/-- Where each step sets its own key, a fold sets every key of its list once. -/
theorem OpRun.accOf_foldl {f : OpRun → Nat → OpRun} {g : Nat → List Int → List Int}
    (hf : ∀ o r k, (f o r).accOf k = if k = r then g r (o.accOf r) else o.accOf k) {l : List Nat} (hl : l.Nodup) (k : Nat) :
    (l.foldl f o).accOf k = if k ∈ l then g k (o.accOf k) else o.accOf k := by
  induction l generalizing o with
  | nil => rfl
  | cons r l ih =>
    obtain ⟨hr, hl⟩ := List.nodup_cons.mp hl
    rw [List.foldl_cons, ih _ hl, hf]
    obtain rfl | hk := eq_or_ne k r
    · simp [hr]
    · simp [hk]

/-- Where each step moves the accumulators alone, so does a fold. -/
theorem OpRun.foldl_acc {f : OpRun → Nat → OpRun} (hf : ∀ o r, ∃ a, f o r = { o with acc := a }) (l : List Nat) :
    ∃ a, l.foldl f o = { o with acc := a } := by
  induction l generalizing o with
  | nil => exact ⟨o.acc, rfl⟩
  | cons r l ih =>
    obtain ⟨a, ha⟩ := hf o r
    obtain ⟨b, hb⟩ := ih (f o r)
    exact ⟨b, by rw [List.foldl_cons, hb, ha]⟩

/-- The `c` accumulators of the tile of rank `r` as an MVM begins (R201). -/
def OpRun.clearSum (c : Nat) (o : OpRun) (r : Nat) : OpRun := o.setAcc r (List.replicate c 0)

/-- The accumulators of the tile of rank `r` after slot `x`, whose values are `vals` (R201). -/
def OpRun.addSum (l : Layer) (x : Slot) (vals : List (Option Exposed)) (o : OpRun) (r : Nat) : OpRun :=
  match vals.getD r none with
  | none => o
  | some e => o.setAcc r (l.accumulate x.plane (o.accOf r) e.cols)

theorem OpRun.accOf_clearSum (c r k : Nat) : (o.clearSum c r).accOf k = if k = r then List.replicate c 0 else o.accOf k :=
  o.accOf_setAcc r _ k

theorem OpRun.accOf_addSum (l : Layer) (x : Slot) (vals : List (Option Exposed)) (r k : Nat) : (o.addSum l x vals r).accOf k =
    if k = r then (vals.getD r none).elim (o.accOf r) (fun e => l.accumulate x.plane (o.accOf r) e.cols) else o.accOf k := by
  rw [OpRun.addSum]
  cases vals.getD r none with
  | none =>
    dsimp only [Option.elim]
    split
    · next h => rw [h]
    · rfl
  | some e => exact o.accOf_setAcc r _ k

theorem OpRun.addSum_acc (l : Layer) (x : Slot) (vals : List (Option Exposed)) (r : Nat) :
    ∃ a, o.addSum l x vals r = { o with acc := a } := by
  rw [OpRun.addSum]
  cases vals.getD r none with
  | none => exact ⟨o.acc, rfl⟩
  | some e => exact ⟨_, rfl⟩

/-- The operation with the slots it has still to run. -/
def OpRun.setPlan (o : OpRun) (slots : List Slot) : OpRun := o.setAcc accPlan (slots.map Slot.code)

theorem OpRun.length_slots_setPlan (slots : List Slot) : (o.setPlan slots).slots.length = slots.length := by
  rw [OpRun.slots, OpRun.setPlan, OpRun.accOf_setAcc_self, List.length_map, List.length_map]

/-- The plan stands under a key of its own. -/
theorem OpRun.accOf_setPlan {r : Nat} (h : r ≠ accPlan) (slots : List Slot) : (o.setPlan slots).accOf r = o.accOf r :=
  o.accOf_setAcc_ne h _

end Sys2Proof.Machine
end

section
/-! PROOF. What the exposures of a slot leave alone (R194, R199, R204, R229). -/

namespace Sys2Proof.Machine

variable (s t : State)

/-- The drift index is stored in the deck; at the threshold a card follows, and under AUTOREF a command (R229). -/
theorem State.driftUpdate_eq (d k p : Nat) : ∃ (x : Tile) (c : CardArgs) (q : List TileCmd) (hit auto : Bool), s.driftUpdate d k p =
    if hit then if auto then ((s.setTile d k x).card c).setCmds d q else (s.setTile d k x).card c else s.setTile d k x :=
  ⟨_, _, _, _, _, rfl⟩

/-! ### Parts -/

section
variable {l : List Part}

@[simp] theorem State.only_setTile_iff (h : .cim ∈ l) (d k : Nat) (x : Tile) : s.only (t.setTile d k x) l ↔ s.only t l :=
  s.only_cim_iff t h _
@[simp] theorem State.only_setCmds_iff (h : .cim ∈ l) (d : Nat) (c : List TileCmd) : s.only (t.setCmds d c) l ↔ s.only t l :=
  s.only_cim_iff t h _
@[simp] theorem State.only_leaveDark_iff (h : .cim ∈ l) (d : Nat) (tiles : List TileRef) : s.only (t.leaveDark d tiles) l ↔ s.only t l :=
  s.only_cim_iff t h _
@[simp] theorem State.only_fcount_iff (h : .regs ∈ l) (f : Fld) (n i j : Nat) : s.only (t.fcount f n i j) l ↔ s.only t l :=
  s.only_wr_iff t h _ _

@[simp] theorem State.only_card_iff (hr : .regs ∈ l) (he : .events ∈ l) (hc : .chn ∈ l) (c : CardArgs) :
    s.only (t.card c) l ↔ s.only t l := by
  have hcard : t.only (t.card c) l := State.only_mono (t.card_only c) (by simp [hr, he, hc])
  exact ⟨fun h p hp => p.same_trans (h p hp) (Part.same_symm (hcard p hp)), fun h => State.only_trans h hcard⟩

@[simp] theorem State.only_driftUpdate_iff (hr : .regs ∈ l) (he : .events ∈ l) (hc : .chn ∈ l) (hcim : .cim ∈ l) (d k p : Nat) :
    s.only (t.driftUpdate d k p) l ↔ s.only t l := by
  obtain ⟨x, c, q, hit, auto, h⟩ := t.driftUpdate_eq d k p
  simp [h, State.only_ite, hr, he, hc, hcim]

end

section
variable {l : List Nat}

@[simp ↓] theorem State.regsBut_countWrap {r : RegDesc} {i j : Nat} (h : r.at i j ∈ l) (n : Nat) :
    (s.countWrap r n i j).regsBut l = s.regsBut l := s.regsBut_wr h _
@[simp ↓] theorem State.regsBut_setTile (d k : Nat) (x : Tile) : (s.setTile d k x).regsBut l = s.regsBut l := (rfl)
@[simp ↓] theorem State.regsBut_setCmds (d : Nat) (c : List TileCmd) : (s.setCmds d c).regsBut l = s.regsBut l := (rfl)

@[simp ↓] theorem State.regsBut_driftUpdate (h : cardRegs ⊆ l) (d k p : Nat) : (s.driftUpdate d k p).regsBut l = s.regsBut l := by
  obtain ⟨x, c, q, hit, auto, hd⟩ := s.driftUpdate_eq d k p
  simp [hd, h]

end

/-! ### The exposure of every tile -/

/-- A tile keeps the offset and the gain that its exposure gives, and its saturated columns are counted (R199, R229). -/
def State.keepExposed (d : Nat) (o : OpRun) (s : State) (e : TileRef × Option Exposed) : State :=
  match e.2 with
  | none => s
  | some r =>
    let x := s.tileX d e.1.tile
    let u := s.setTile d e.1.tile ({ x with select := e.1.deck }.setDeck e.1.deck { x.deck e.1.deck with offs := r.offs, gain := r.gain })
    (u.driftUpdate d e.1.tile e.1.deck).count R.CIM_SAT r.nsat d o.entry

/-- An exposure at resolution `b` + 4 is counted (R199). -/
def State.countExposure (s : State) (d b : Nat) : State :=
  let u := s.countWrap R.CIM_EXPLO 1 d
  (if u.rget R.CIM_EXPLO d = 0 then u.countWrap R.CIM_EXPHI 1 d else u).count R.CIM_RES 1 d b

/-- The parts that a slot's exposures and their reports move. -/
def exposureParts : List Part := [.regs, .events, .chn, .cim]

/-- The registers that an exposure for layer entry `e` of die `d` moves, at resolution `b` + 4. -/
def exposureRegs (d e b : Nat) : List Nat :=
  cardRegs ++ [R.CIM_EXPLO.at d, R.CIM_EXPHI.at d, R.CIM_SAT.at d e, R.CIM_RES.at d b, R.CIM_CSSKIP.at d]

theorem State.only_keepExposed (d : Nat) (o : OpRun) (e : TileRef × Option Exposed) :
    s.only (t.keepExposed d o e) exposureParts ↔ s.only t exposureParts := by
  rw [State.keepExposed]
  split
  · rfl
  · simp [exposureParts]

theorem State.regsBut_keepExposed {l : List Nat} {d : Nat} {o : OpRun} (hcard : cardRegs ⊆ l) (hsat : R.CIM_SAT.at d o.entry ∈ l)
    (e : TileRef × Option Exposed) : (s.keepExposed d o e).regsBut l = s.regsBut l := by
  rw [State.keepExposed]
  split
  · rfl
  · simp [hcard, hsat]

theorem State.regsBut_foldl_keepExposed {l : List Nat} {d : Nat} {o : OpRun} (hcard : cardRegs ⊆ l) (hsat : R.CIM_SAT.at d o.entry ∈ l)
    (es : List (TileRef × Option Exposed)) : (es.foldl (State.keepExposed d o) s).regsBut l = s.regsBut l :=
  List.foldlRecOn (motive := fun u : State => u.regsBut l = s.regsBut l) _ _ rfl fun u hu e _ =>
    (u.regsBut_keepExposed hcard hsat e).trans hu

theorem State.regsBut_countExposure {l : List Nat} {d b : Nat} (hlo : R.CIM_EXPLO.at d ∈ l) (hhi : R.CIM_EXPHI.at d ∈ l)
    (hres : R.CIM_RES.at d b ∈ l) : (s.countExposure d b).regsBut l = s.regsBut l := by
  simp [State.countExposure, hlo, hhi, hres]

/-- What an exposure counts besides CIM_EXPLO lies above it (R199). -/
theorem State.rget_explo_countExposure (d b : Nat) :
    (s.countExposure d b).rget R.CIM_EXPLO d = (s.rget R.CIM_EXPLO d + 1) % 2 ^ 32 := by
  have hres : R.CIM_EXPLO.at d ≠ R.CIM_RES.at d b := by
    simp only [RegDesc.at, R.CIM_EXPLO, R.CIM_RES]
    omega
  have hhi : R.CIM_EXPLO.at d ≠ R.CIM_EXPHI.at d := RegDesc.at_ne_of_base_ne (q := R.CIM_EXPLO) (r := R.CIM_EXPHI) rfl rfl (by decide) d 0
  rw [State.countExposure, State.rget, State.rd_count_ne _ _ _ _ _ _ hres]
  split
  · rw [State.rd_countWrap_ne _ _ _ _ _ _ hhi]
    exact s.rget_countWrap_self ..
  · exact s.rget_countWrap_self ..

/-! ### A slot's exposures -/

section
variable (n : Nat) (p : Prog) (o : OpRun) (x : Slot) (devs : List (Nat × Nat × Int))

/-- The values of a slot's exposures. -/
def State.slotValues : List (Option Exposed) := ((s.leaveDark n o.tiles).exposeAll n p o x devs).1

/-- The state after a slot's exposures, those not compared counted (R203). -/
def State.slotExposed : State :=
  ((s.leaveDark n o.tiles).exposeAll n p o x devs).2.count R.CIM_CSSKIP
    ((s.slotValues n p o x devs).filter (fun r => r.elim false (fun e => x.kind == 2 && e.sat))).length n

theorem State.slotExposed_eq : ∃ b k, s.slotExposed n p o x devs =
    (((o.tiles.zip (s.slotValues n p o x devs)).foldl (State.keepExposed n o) (s.leaveDark n o.tiles)).countExposure n b).count
      R.CIM_CSSKIP k n := ⟨_, _, rfl⟩

theorem State.slotExposed_only : s.only (s.slotExposed n p o x devs) exposureParts := by
  obtain ⟨b, k, h⟩ := s.slotExposed_eq n p o x devs
  have hfold := (s.only_foldl (s.leaveDark n o.tiles) (State.keepExposed n o) (fun u e => s.only_keepExposed u n o e)
    (o.tiles.zip (s.slotValues n p o x devs))).mpr (by simp [exposureParts])
  have hreg : Part.regs ∈ exposureParts := by decide
  simp [h, State.countExposure, State.only_ite, hreg, hfold]

theorem State.slotExposed_regsOnly : ∃ b, s.regsOnly (s.slotExposed n p o x devs) (exposureRegs n o.entry b) := by
  obtain ⟨b, k, h⟩ := s.slotExposed_eq n p o x devs
  refine ⟨b, State.regsOnly_iff_regsBut.mpr ?_⟩
  have hfold := (s.leaveDark n o.tiles).regsBut_foldl_keepExposed (l := exposureRegs n o.entry b) (d := n) (o := o)
    (List.subset_append_left _ _) (by simp [exposureRegs]) (o.tiles.zip (s.slotValues n p o x devs))
  rw [h, State.regsBut_count _ (by simp [exposureRegs]), State.regsBut_countExposure _ (by simp [exposureRegs]) (by simp [exposureRegs])
    (by simp [exposureRegs]), hfold]
  exact State.regsBut_setCmds ..

end

end Sys2Proof.Machine
end

section
/-! PROOF. An exposure slot's three outcomes: skipped, passed, failed for good (R194, R199, R203, R204). -/

namespace Sys2Proof.Machine

variable (s : State)

/-! ### The checksum check (R203) -/

theorem State.csFails_of_rd {s t : State} {d : Nat} (h : t.rd (R.CIM_CSTOL.at d) = s.rd (R.CIM_CSTOL.at d)) (x : Slot) (e : Exposed) :
    t.csFails d x e = s.csFails d x e := by
  have hexact : t.fget F.CIM_CSTOL_EXACT d = s.fget F.CIM_CSTOL_EXACT d := State.fget_of_rd h
  have hwide : t.fget F.CIM_CSTOL_WIDE d = s.fget F.CIM_CSTOL_WIDE d := State.fget_of_rd h
  rw [State.csFails, State.csFails, hexact, hwide]

/-- The ranks whose values fail the check. -/
def State.failing (s : State) (n : Nat) (x : Slot) (vals : List (Option Exposed)) : List Nat :=
  (List.range vals.length).filter (fun r => (vals.getD r none).elim false (s.csFails n x))

theorem State.mem_failing {n r : Nat} {x : Slot} {vals : List (Option Exposed)} :
    r ∈ s.failing n x vals ↔ ∃ e, vals[r]? = some (some e) ∧ s.csFails n x e = true := by
  simp only [State.failing, List.mem_filter, List.mem_range, List.getD_eq_getElem?_getD]
  constructor
  · rintro ⟨hr, h⟩
    rw [List.getElem?_eq_getElem hr] at h ⊢
    cases hv : vals[r] with
    | none => simp [hv] at h
    | some e => exact ⟨e, rfl, by simpa [hv] using h⟩
  · rintro ⟨e, he, h⟩
    exact ⟨(List.getElem?_eq_some_iff.mp he).1, by simpa [he] using h⟩

theorem State.failing_eq_nil {n : Nat} {x : Slot} {vals : List (Option Exposed)} (h : ∀ e, some e ∈ vals → s.csFails n x e = false) :
    s.failing n x vals = [] := by
  refine List.eq_nil_iff_forall_not_mem.mpr fun r hr => ?_
  obtain ⟨e, he, hfail⟩ := s.mem_failing.mp hr
  exact Bool.false_ne_true ((h e (List.mem_of_getElem? he)).symm.trans hfail)

theorem State.failing_ne_nil {n : Nat} {x : Slot} {vals : List (Option Exposed)} (h : ∃ e, some e ∈ vals ∧ s.csFails n x e = true) :
    s.failing n x vals ≠ [] := by
  obtain ⟨e, he, hfail⟩ := h
  obtain ⟨r, hr⟩ := List.mem_iff_getElem?.mp he
  exact List.ne_nil_of_mem (s.mem_failing.mpr ⟨e, hr, hfail⟩)

theorem State.failing_of_rd {s t : State} {n : Nat} (h : t.rd (R.CIM_CSTOL.at n) = s.rd (R.CIM_CSTOL.at n)) (x : Slot)
    (vals : List (Option Exposed)) : t.failing n x vals = s.failing n x vals := by
  rw [State.failing, State.failing, funext (State.csFails_of_rd h x)]

/-- Nothing is repeated where nothing fails, or where no repeat is allowed (R204). -/
theorem State.repeatSlot_of_done {n fuel : Nat} {failing : List Nat} (h : failing = [] ∨ fuel = 0) (p : Prog) (o : OpRun) (x : Slot)
    (devs : List (List (Nat × Nat × Int))) (vals : List (Option Exposed)) :
    s.repeatSlot n p o x fuel devs vals failing = (vals, failing, s) := by
  cases fuel with
  | zero => rfl
  | succ fuel =>
    obtain rfl : failing = [] := h.resolve_right (by simp)
    exact if_pos rfl

/-! ### The registers of a die that a slot reads -/

section
variable {n : Nat} (p : Prog) (o : OpRun) (x : Slot) (devs : List (Nat × Nat × Int))

theorem State.rd_slotExposed {a : Nat} (ha : a = R.CIM_CTL.at n ∨ a = R.CIM_CSTOL.at n) : (s.slotExposed n p o x devs).rd a = s.rd a := by
  obtain ⟨b, h⟩ := s.slotExposed_regsOnly n p o x devs
  refine h a ?_
  simp only [exposureRegs, cardRegs, RegDesc.at, R.CIM_CTL, R.CIM_CSTOL, R.LDG_CARDNO, R.LDG_EVSTAT, R.LDG_LOST, R.CIM_EXPLO, R.CIM_EXPHI,
    R.CIM_SAT, R.CIM_RES, R.CIM_CSSKIP, List.cons_append, List.nil_append, List.mem_cons, List.not_mem_nil, or_false] at ha ⊢
  omega

/-- A slot counts one exposure (R199). -/
theorem State.rget_explo_slotExposed :
    (s.slotExposed n p o x devs).rget R.CIM_EXPLO n = (s.rget R.CIM_EXPLO n + 1) % 2 ^ 32 := by
  obtain ⟨b, k, h⟩ := s.slotExposed_eq n p o x devs
  have hskip : R.CIM_EXPLO.at n ≠ R.CIM_CSSKIP.at n :=
    RegDesc.at_ne_of_base_ne (q := R.CIM_EXPLO) (r := R.CIM_CSSKIP) rfl rfl (by decide) n 0
  have hfold := (s.leaveDark n o.tiles).regsBut_foldl_keepExposed (l := cardRegs ++ [R.CIM_SAT.at n o.entry]) (d := n) (o := o)
    (List.subset_append_left _ _) (by simp) (o.tiles.zip (s.slotValues n p o x devs))
  have hlo : R.CIM_EXPLO.at n ∉ cardRegs ++ [R.CIM_SAT.at n o.entry] := by
    simp only [cardRegs, RegDesc.at, R.LDG_CARDNO, R.LDG_EVSTAT, R.LDG_LOST, R.CIM_EXPLO, R.CIM_SAT, List.cons_append, List.nil_append,
      List.mem_cons, List.not_mem_nil, or_false]
    omega
  have hrd := State.regsOnly_iff_regsBut.mpr hfold _ hlo
  rw [h, State.rget, State.rd_count_ne _ _ _ _ _ _ hskip]
  refine (State.rget_explo_countExposure _ n b).trans ?_
  rw [State.rget, hrd]
  rfl

end

/-! ### The three outcomes -/

/-- The operation past its slot, with those it has still to run. -/
def OpRun.nextSlot (o : OpRun) (slots : List Slot) : OpRun :=
  ({ o with step := o.step + 1, nsteps := o.step + 2 + slots.length } : OpRun).setPlan slots

/-- A tile whose values fail for good is counted and reported (R204). -/
def State.reportFailed (n : Nat) (p : Prog) (o : OpRun) (x : Slot) (vals : List (Option Exposed)) (s : State) (r : Nat) : State :=
  ((s.count R.CIM_CSFAIL 1 n).fcount F.CIM_GCSERR_PERSIST 1 n (o.tiles.getD r ⟨0, 0, 0, 0⟩).group).csCard n p o x
    (o.tiles.getD r ⟨0, 0, 0, 0⟩) ((vals.getD r none).elim 0 (·.diff)) (if p.timed then 3 else 2)

/-- The halt of a program on a slot that failed for good; a timed group halts with it (R176, R204). -/
def State.haltFailed (s : State) (n : Nat) (p : Prog) (o : OpRun) : State :=
  if p.timed then (s.halt n 0x0B o.slot (p.handle o 0) 0).breakGroup n else s.halt n 0x0B o.slot (p.handle o 0) 0

/-- What follows a slot's exposures and repeats, of which `r` holds the values, the ranks that still fail and the state. -/
def settleSlot (n : Nat) (p : Prog) (o : OpRun) (x : Slot) (rest : List Slot) (r : List (Option Exposed) × List Nat × State) : State :=
  if r.2.1 ≠ [] then (r.2.1.foldl (State.reportFailed n p o x r.1) r.2.2).haltFailed n p o
  else if x.kind = 2 ∧ o.layer.satact = true ∧ r.1.any (fun v => v.elim false (fun e => decide (0 < e.nsat))) = true then
    r.2.2.setOp n p (o.nextSlot (o.layer.exactSlots p.timed p.pinres o.inputs x.plane ++ rest))
  else r.2.2.setOp n p (((List.range o.tiles.length).foldl (OpRun.addSum o.layer x r.1) o).nextSlot rest)

theorem settleSlot_of_passed {x : Slot} {o : OpRun} (h : x.kind ≠ 2 ∨ o.layer.satact = false) (n : Nat) (p : Prog) (rest : List Slot)
    (vals : List (Option Exposed)) : settleSlot n p o x rest (vals, [], s) =
      s.setOp n p (((List.range o.tiles.length).foldl (OpRun.addSum o.layer x vals) o).nextSlot rest) := by
  have hact : ¬(x.kind = 2 ∧ o.layer.satact = true ∧ vals.any (fun v => v.elim false (fun e => decide (0 < e.nsat))) = true) := by
    rintro ⟨hkind, hsat, -⟩
    exact h.elim (· hkind) (fun h => Bool.false_ne_true (h.symm.trans hsat))
  rw [settleSlot, if_neg (not_not.mpr rfl), if_neg hact]

section
variable {s} {n : Fin 22} {second : Bool} {p : Prog} {o : OpRun} {x : Slot} {rest : List Slot}
variable (hrun : (s.stream n.val).run = some p) (hphase : p.phase = .issued)
  (hfind : p.ops.find? (fun o => !o.finished && (o.started && o.opc == 0x10 && (o.slot == 4) == second && !(o.slots.isEmpty))) = some o)
  (hslots : o.slots = x :: rest) (devs : List (List (Nat × Nat × Int)))
include hrun hphase hfind hslots

theorem execExposureSlot_of_skipped (htimed : p.timed = false)
    (hidle : o.inputs.all (fun xs => (o.layer.slotRows xs x).isEmpty) = true) (hskip : s.flag F.CIM_CTL_NOSKIP n.val = false) :
    execExposureSlot n second devs s = .next ((s.count R.CIM_SKIP 1 n.val).setOp n.val p (o.nextSlot rest)) := by
  have hrow : (!p.timed && o.inputs.all (fun xs => (o.layer.slotRows xs x).isEmpty)) = true := by rw [htimed, hidle]; rfl
  rw [execExposureSlot, State.withOp_of_find hrun hphase hfind, hslots]
  exact congrArg Host.Outcome.next ((if_pos hrow).trans (if_neg (ne_true_of_eq_false hskip)))

theorem execExposureSlot_of_driven
    (hdriven : p.timed = true ∨ o.inputs.all (fun xs => (o.layer.slotRows xs x).isEmpty) = false) :
    execExposureSlot n second devs s = .next (settleSlot n.val p o x rest ((s.slotExposed n.val p o x (devs.headD [])).repeatSlot n.val p o x
      (if p.timed then 0 else (s.slotExposed n.val p o x (devs.headD [])).fget F.CIM_CTL_CSRETRY n.val) devs.tail
      (s.slotValues n.val p o x (devs.headD []))
      ((s.slotExposed n.val p o x (devs.headD [])).failing n.val x (s.slotValues n.val p o x (devs.headD []))))) := by
  have hrow : ¬(!p.timed && o.inputs.all (fun xs => (o.layer.slotRows xs x).isEmpty)) = true := by
    rcases hdriven with h | h <;> simp [h]
  rw [execExposureSlot, State.withOp_of_find hrun hphase hfind, hslots]
  exact congrArg Host.Outcome.next (if_neg hrow)

/-- What follows a slot that is not repeated: no value fails, or no repeat is allowed. -/
theorem execExposureSlot_of_final
    (hdriven : p.timed = true ∨ o.inputs.all (fun xs => (o.layer.slotRows xs x).isEmpty) = false)
    (hfinal : s.failing n.val x (s.slotValues n.val p o x (devs.headD [])) = [] ∨ p.timed = true ∨ s.fget F.CIM_CTL_CSRETRY n.val = 0) :
    execExposureSlot n second devs s = .next (settleSlot n.val p o x rest (s.slotValues n.val p o x (devs.headD []),
      s.failing n.val x (s.slotValues n.val p o x (devs.headD [])), s.slotExposed n.val p o x (devs.headD []))) := by
  have hretry : (s.slotExposed n.val p o x (devs.headD [])).fget F.CIM_CTL_CSRETRY n.val = s.fget F.CIM_CTL_CSRETRY n.val :=
    State.fget_of_rd (s.rd_slotExposed p o x _ (.inl rfl))
  rw [execExposureSlot_of_driven hrun hphase hfind hslots devs hdriven, hretry,
    State.failing_of_rd (s.rd_slotExposed p o x _ (.inr rfl)), State.repeatSlot_of_done _ (hfinal.imp_right fun h => ?_)]
  rcases h with h | h <;> simp [h]

end

end Sys2Proof.Machine
end

section
/-! PROOF. How an MVM begins, what its slots leave in it and how it commits (R191 to R194, R201, R204, R210 to R212). -/

namespace Sys2Proof.Machine

variable (s : State)

/-! ### The beginning of an MVM (R191 to R193, R201) -/

/-- An MVM whose input is `xs`, its sums cleared and its slots planned. -/
def OpRun.begun (o : OpRun) (p : Prog) (xs : List Int) : OpRun :=
  let staged := o.setAcc accInput xs
  let plan := o.layer.plan p.timed p.pinres staged.inputs
  ({ (List.range staged.tiles.length).foldl (OpRun.clearSum o.layer.colcnt) staged with
    started := true
    step := 0
    nsteps := plan.length + 1 } : OpRun).setPlan plan

theorem execMvm_of_sound {s u w : State} {n : Fin 22} {p : Prog} {o : OpRun} {m : PageMap} {h : Nat} {x : Desc}
    (hrun : (s.stream n.val).run = some p) (hphase : p.phase = .issued)
    (hfind : p.ops.find? (fun o => !o.finished && (!o.started && o.opc == 0x10)) = some o) (hh : p.handle o 0 = h) (hx : p.desc h = x)
    (hm : s.mapped n.val p x h .read (x.offsets 0 x.count) = some (m, u))
    (hread : u.readCheck n.val p x.notag (u.readAddrs x m (u.crTail x.crnum) 0 x.count) o.slot h x.base = (true, w)) :
    execMvm n s = .next (w.setOp n.val p (o.begun p ((w.elems w.physByte x m (u.crTail x.crnum) 0 x.count).map Int.ofNat))) := by
  subst hh hx
  obtain ⟨pages, v, hv, rfl, rfl⟩ := State.touch_of_mapped hm
  rw [execMvm, State.beginOp, State.withOp_of_find hrun hphase hfind]
  simp only [hv, hread]
  rfl

theorem OpRun.accOf_begun (o : OpRun) (p : Prog) (xs : List Int) (ht : o.tiles.length ≤ 1024) : (o.begun p xs).accOf accInput = xs ∧
    ∀ r, r < o.tiles.length → (o.begun p xs).accOf r = List.replicate o.layer.colcnt 0 := by
  have hfold (k : Nat) (hk : k ≠ accPlan) : (o.begun p xs).accOf k =
      if k ∈ List.range o.tiles.length then List.replicate o.layer.colcnt 0 else (o.setAcc accInput xs).accOf k := by
    refine (OpRun.accOf_setPlan _ hk _).trans ?_
    exact OpRun.accOf_foldl (f := OpRun.clearSum o.layer.colcnt) (g := fun _ _ => List.replicate o.layer.colcnt 0) _
      (fun o r k => o.accOf_clearSum _ r k) List.nodup_range k
  refine ⟨?_, fun r hr => ?_⟩
  · rw [hfold _ (by decide), if_neg (by rw [List.mem_range, accInput]; omega), OpRun.accOf_setAcc_self]
  · rw [hfold _ (by rw [accPlan]; omega), if_pos (List.mem_range.mpr hr)]

theorem OpRun.nsteps_begun (o : OpRun) (p : Prog) (xs : List Int) : (o.begun p xs).nsteps = (o.begun p xs).slots.length + 1 :=
  congrArg (· + 1) (OpRun.length_slots_setPlan ..).symm

/-! ### The slots of an MVM -/

theorem State.rget_setOp (n : Nat) (p : Prog) (o : OpRun) (r : RegDesc) (i j : Nat) : (s.setOp n p o).rget r i j = s.rget r i j := rfl
theorem State.rd_setOp (n : Nat) (p : Prog) (o : OpRun) (a : Nat) : (s.setOp n p o).rd a = s.rd a := rfl

theorem OpRun.step_foldl_addSum (l : Layer) (x : Slot) (vals : List (Option Exposed)) (o : OpRun) (ranks : List Nat) :
    (ranks.foldl (OpRun.addSum l x vals) o).step = o.step := by
  obtain ⟨a, h⟩ := o.foldl_acc (fun o r => o.addSum_acc l x vals r) ranks
  rw [h]

theorem OpRun.accOf_nextSlot_addSum {o : OpRun} (ht : o.tiles.length ≤ 1024) (l : Layer) (x : Slot) (vals : List (Option Exposed))
    (rest : List Slot) {r : Nat} (hr : r < o.tiles.length) :
    (((List.range o.tiles.length).foldl (OpRun.addSum l x vals) o).nextSlot rest).accOf r =
      (vals.getD r none).elim (o.accOf r) (fun e => l.accumulate x.plane (o.accOf r) e.cols) := by
  have hplan : r ≠ accPlan := by
    rw [accPlan]
    omega
  have hsums := o.accOf_foldl (g := fun r a => (vals.getD r none).elim a (fun e => l.accumulate x.plane a e.cols))
    (fun o r k => o.accOf_addSum l x vals r k) (List.nodup_range (n := o.tiles.length)) r
  rw [OpRun.nextSlot, OpRun.accOf_setPlan _ hplan]
  exact hsums.trans (if_pos (List.mem_range.mpr hr))

/-- The reports of the tiles that failed leave the streams alone, so the halt finds the program. -/
theorem State.reportFailed_only (n : Nat) (p : Prog) (o : OpRun) (x : Slot) (vals : List (Option Exposed)) (failed : List Nat) :
    s.only (failed.foldl (State.reportFailed n p o x vals) s) exposureParts :=
  (s.only_foldl s (State.reportFailed n p o x vals)
    (fun u r => by simp [State.reportFailed, State.csCard, exposureParts]) failed).mpr (s.only_refl _)

theorem State.haltedWith_haltFailed {s : State} {n : Nat} {p : Prog} (hn : n < 22) (hrun : (s.stream n).run = some p) (o : OpRun) :
    (s.haltFailed n p o).haltedWith n 0x0B := by
  have hhalt := State.haltedWith_halt hn hrun 0x0B o.slot (p.handle o 0) 0
  rw [State.haltFailed]
  split
  · exact State.breakGroup_induction _ (State.haltedWith · n 0x0B) n hhalt fun u k _ hk hu => State.haltedWith_halt_ne hn hk hu _ _ _ _
  · exact hhalt

theorem State.haltedWith_settleSlot {s : State} {n : Nat} {p : Prog} (hn : n < 22) (hrun : (s.stream n).run = some p) {failed : List Nat}
    (hfailed : failed ≠ []) (o : OpRun) (x : Slot) (rest : List Slot) (vals : List (Option Exposed)) :
    (settleSlot n p o x rest (vals, failed, s)).haltedWith n 0x0B := by
  rw [settleSlot, if_pos hfailed]
  refine State.haltedWith_haltFailed hn ?_ o
  rwa [State.stream_of_only (s.reportFailed_only n p o x vals failed) (by decide)]

/-! ### The commit of an MVM (R210 to R212, R237) -/

theorem State.run_finishOp (n : Nat) (p : Prog) (o : OpRun) :
    ((s.finishOp n p o).stream n).run = some (p.setOp { o with finished := true }).advance := State.run_setRun ..

theorem State.mem_finishOp (n : Nat) (p : Prog) (o : OpRun) : (s.finishOp n p o).mem = s.mem := rfl

/-- The results of an MVM with the sums `psum` added to its own, as the output stage gives them from the die's parameters (R210). -/
def State.mvmResults (s : State) (n : Nat) (o : OpRun) (psum : List Int) : List (Nat × Nat) :=
  o.outSums.zipIdx.map (fun y => (y.2, outputStage o.layer (bit o.mod 0) (y.1 + psum.getD y.2 0)
    (s.load (damBase n + o.layer.param + 8 * y.2) 8) (s.load (damBase n + o.layer.table) 256)))

theorem execMvmCommit_of_sound {s u u' v w : State} {n : Fin 22} {second : Bool} {p : Prog} {o : OpRun} {m m' : PageMap} {d ps : Desc}
    {hd hp : Nat} (hrun : (s.stream n.val).run = some p) (hphase : p.phase = .issued)
    (hfind : p.ops.find? (fun o => !o.finished && (o.started && o.opc == 0x10 && (o.slot == 4) == second && o.slots.isEmpty)) = some o)
    (hhd : p.handle o 1 = hd) (hhp : p.handle o 2 = hp) (hdst : p.desc hd = d) (hps : p.desc hp = ps)
    (htouch : s.touch n.val p.start.ctx (d.touches hd .write (d.offsets 0 d.count) ++
      (if bit o.mod 1 then ps.touches hp .read (ps.offsets 0 ps.count) else [])) [] = (.ok m, u))
    (hm : u.noRemote m = m') (hu : u.violatePages n.val p.start.ctx m' = u')
    (hparam : u'.readCheck n.val p false (if bit o.mod 0 then [] else
      (List.range (8 * o.layer.outputs o.tiles.length)).map (· + (damBase n.val + o.layer.param)) ++
      (if o.layer.fn = 3 then (List.range 256).map (· + (damBase n.val + o.layer.table)) else [])) o.slot 0xFFFF 0 = (true, v))
    (hsums : v.readCheck n.val p ps.notag (if bit o.mod 1 then u'.readAddrs ps m' (u'.crTail ps.crnum) 0 ps.count else []) o.slot hp
      ps.base = (true, w)) :
    execMvmCommit n second s = .next (((w.writeElems d m' (w.crHead d.crnum) (w.mvmResults n.val o
      (if bit o.mod 1 then (w.elems w.physByte ps m' (w.crTail ps.crnum) 0 ps.count).map (toSigned 32) else []))).statStep n.val o).finishOp
        n.val p { o with step := o.step + 1, acc := [] }) := by
  subst hhd hhp hdst hps hm hu
  rw [execMvmCommit, State.withOp_of_find hrun hphase hfind]
  simp only [htouch, hparam, hsums]
  rfl

end Sys2Proof.Machine
end

section
/-! PROOF. DECK: the logical deck that a position selects, and the tile that serves it (R206, R217). -/

namespace Sys2Proof.Machine

variable (s : State)

/-- A tile on which logical deck `l` is selected. -/
def Tile.choose (x : Tile) (l : Nat) : Tile := { x with select := x.ready l }

theorem State.tileX_setTile (d k j : Nat) (x : Tile) : (s.setTile d k x).tileX d j = if j = k then x else s.tileX d j := by
  rw [State.tileX, State.setTile, Sparse.get_put]
  simp only [Nat.add_right_inj]
  rfl

theorem State.serving_of_tiles {s t : State} {d : Nat} (h : ∀ k, ∃ v, t.tileX d k = { s.tileX d k with select := v }) (g pos : Nat) :
    t.serving d g pos = s.serving d g pos := by
  refine congrArg (fun f => List.find? f ((List.range 72).map (· + 72 * g))) (funext fun k => ?_)
  obtain ⟨v, hv⟩ := h k
  rw [hv]

theorem State.tileX_selectDeck (d g pos l k : Nat) : (s.selectDeck d g pos l).tileX d k =
    if s.serving d g pos = some k then (s.tileX d k).choose l else s.tileX d k := by
  unfold State.selectDeck
  dsimp only
  split
  · next h =>
    have hserv : s.serving d g pos = none := h
    rw [hserv]
    rfl
  · next t h =>
    have hserv : s.serving d g pos = some t := h
    rw [hserv, State.tileX_setTile]
    by_cases hk : k = t
    · rw [if_pos hk, if_pos (congrArg some hk.symm), hk]
      rfl
    · rw [if_neg hk, if_neg fun hsome => hk (Option.some.inj hsome).symm]
      rfl

theorem State.serving_selectDeck (d g pos l g' pos' : Nat) : (s.selectDeck d g pos l).serving d g' pos' = s.serving d g' pos' := by
  refine State.serving_of_tiles (fun k => ?_) g' pos'
  rw [State.tileX_selectDeck]
  split <;> exact ⟨_, rfl⟩

theorem State.lselOf_selectDeck (d g pos l k : Nat) :
    (s.selectDeck d g pos l).lselOf k = if k = d * 1024 + g * 64 + pos then l else s.lselOf k := by
  have hput : Sparse.get (fun _ => 0) (Sparse.put (fun _ => 0) s.cim.lsel (d * 1024 + g * 64 + pos) l) k =
      if k = d * 1024 + g * 64 + pos then l else s.lselOf k := Sparse.get_put ..
  unfold State.selectDeck
  dsimp only
  split <;> exact hput

/-- Logical deck `l` selected at every position of a list. -/
def State.selectDecks (s : State) (d l : Nat) (xs : List (Nat × Nat)) : State := xs.foldl (fun s x => s.selectDeck d x.1 x.2 l) s

theorem State.selectDecks_only (d l : Nat) (xs : List (Nat × Nat)) : s.only (s.selectDecks d l xs) [.cim] :=
  List.foldlRecOn (motive := fun u : State => s.only u [.cim]) _ _ (s.only_refl _) fun u hu _ _ =>
    State.only_trans hu (u.selectDeck_only _ _ _ _)

theorem State.tileX_selectDecks (d l : Nat) (xs : List (Nat × Nat)) (k : Nat) : (s.selectDecks d l xs).tileX d k =
    if ∃ x ∈ xs, s.serving d x.1 x.2 = some k then (s.tileX d k).choose l else s.tileX d k := by
  induction xs generalizing s with
  | nil => simp [State.selectDecks]
  | cons x xs ih =>
    refine (ih (s.selectDeck d x.1 x.2 l)).trans ?_
    simp only [State.serving_selectDeck, State.tileX_selectDeck, List.exists_mem_cons_iff]
    by_cases hx : s.serving d x.1 x.2 = some k
    · simp only [hx, if_true, true_or]
      split <;> rfl
    · simp only [hx, if_false, false_or]

theorem State.lselOf_selectDecks (d l : Nat) (xs : List (Nat × Nat)) (k : Nat) : (s.selectDecks d l xs).lselOf k =
    if ∃ x ∈ xs, k = d * 1024 + x.1 * 64 + x.2 then l else s.lselOf k := by
  induction xs generalizing s with
  | nil => simp [State.selectDecks]
  | cons x xs ih =>
    refine (ih _).trans ?_
    simp only [State.lselOf_selectDeck, List.exists_mem_cons_iff]
    by_cases hx : k = d * 1024 + x.1 * 64 + x.2
    · simp [hx]
    · simp only [hx, if_false, false_or]

theorem execDeck_of_find {s : State} {n : Fin 22} {p : Prog} {o : OpRun} (hrun : (s.stream n.val).run = some p) (hphase : p.phase = .issued)
    (hfind : p.ops.find? (fun o => !o.finished && (!o.started && o.opc == 0x12)) = some o) : execDeck n s = .next
      (((s.leaveDark n.val (s.tileRefs n.val (o.arg.getD 0) (bits o.mod 0 3))).selectDecks n.val (bits o.mod 0 3)
        (maskTiles (o.arg.getD 0))).finishOp n.val p { o with started := true, step := 1 }) := by
  rw [execDeck, State.beginOp, State.withOp_of_find hrun hphase hfind]
  rfl

end Sys2Proof.Machine
end

section
/-! PROOF. A write of CIM_CTL that clears the saturation counters (R199). -/

namespace Sys2Proof.Machine

variable (s : State)

/-- The saturation counters of die `d` at their reset values. -/
def State.clearSat (s : State) (d : Nat) : State :=
  { s with regs := Sparse.clear (fun a => decide (R.CIM_SAT.at d ≤ a) && decide (a < R.CIM_SAT.at d + 1024)) s.regs }

theorem State.rd_clearSat (d a : Nat) : (s.clearSat d).rd a =
    if R.CIM_SAT.at d ≤ a ∧ a < R.CIM_SAT.at d + 1024 then regReset a else s.rd a := by
  simp [State.rd, State.clearSat, Sparse.get_clear]

/-- An address reads 0 until it is written, unless a register with another reset value lies there. -/
theorem regReset_eq_zero_of_index {a : Nat} (h : ∀ r ∈ blockRegs ((a - regBase) / 0x10000), r.reset = 0 ∨ r.index a = none) :
    regReset a = 0 := by
  unfold regReset
  split
  · next r i j hfind =>
    unfold findReg at hfind
    split at hfind
    · cases hfind
    · obtain ⟨q, hq, hindex⟩ := List.exists_of_findSome?_eq_some hfind
      obtain ⟨ij, hij, heq⟩ := Option.map_eq_some_iff.mp hindex
      obtain ⟨rfl, rfl⟩ : q = r ∧ ij = (i, j) := by simpa using heq
      exact (h q hq).resolve_right (by simp [hij])
  · rfl

/-- A register that stands once in each group lies at one place of the group alone. -/
theorem RegDesc.index_eq_none {r : RegDesc} {a : Nat} (h0 : r.s0 ≠ 0) (h1 : r.s1 = 0) (h : (a - r.base) % r.s0 ≠ 0) :
    r.index a = none := by
  simp [RegDesc.index, h0, h1, ← Nat.mod_eq_sub_mul_div, h.symm]

theorem regReset_sat {d k : Nat} (hd : d < 4) (hk : k < 256) : regReset (R.CIM_SAT.at d k) = 0 := by
  have hat : R.CIM_SAT.at d k = 0x0200080400 + 0x10000 * d + 4 * k := rfl
  have hblock : blockRegs ((R.CIM_SAT.at d k - regBase) / 0x10000) = regsCIM := by
    have hidx : (R.CIM_SAT.at d k - regBase) / 0x10000 = 8 + d := by
      rw [hat, regBase]
      omega
    rw [hidx]
    interval_cases d <;> rfl
  have hother : ∀ r ∈ regsCIM, r.reset = 0 ∨ r.s0 = 0x10000 ∧ r.s1 = 0 ∧ 0x0200080000 ≤ r.base ∧ r.base < 0x0200080400 := by
    decide
  refine regReset_eq_zero_of_index fun r hr => (hother r (hblock ▸ hr)).imp_right fun ⟨h0, h1, hlow, hhigh⟩ => ?_
  refine RegDesc.index_eq_none (by rw [h0]; decide) h1 ?_
  rw [hat, h0]
  omega

theorem State.rget_sat_clearSat {d k : Nat} (hd : d < 4) (hk : k < 256) : (s.clearSat d).rget R.CIM_SAT d k = 0 := by
  have hat : R.CIM_SAT.at d k = R.CIM_SAT.at d + 4 * k := rfl
  rw [State.rget, State.rd_clearSat, if_pos (by omega), regReset_sat hd hk]
  rfl

theorem State.rd_ctl_clearSat (d : Nat) : (s.clearSat d).rd (R.CIM_CTL.at d) = s.rd (R.CIM_CTL.at d) := by
  have hlow : R.CIM_CTL.at d < R.CIM_SAT.at d := by
    simp only [RegDesc.at, R.CIM_CTL, R.CIM_SAT]
    omega
  rw [State.rd_clearSat, if_neg (by omega)]

/-- What a write of CIM_CTL keeps: the filter, the repeats and NOSKIP. -/
def State.setCimCtl (s : State) (d : Nat) (v : Word) : State :=
  ((s.fset F.CIM_CTL_GFILT (getField v 8 3) d).fset F.CIM_CTL_CSRETRY (getField v 4 2) d).setFlag F.CIM_CTL_NOSKIP (bit v.toNat 0) d

theorem State.writeCimCtl_of_clear {v : Word} (hv : bit v.toNat 12 = true) (d : Nat) : s.writeCimCtl d v = (s.setCimCtl d v).clearSat d :=
  if_pos hv

theorem State.fget_gfilt_setCimCtl (d : Nat) (v : Word) : (s.setCimCtl d v).fget F.CIM_CTL_GFILT d = getField v 8 3 := by
  rw [State.setCimCtl, State.fget_setFlag_other _ _ _ _ _ _ (by rfl) (by decide) (by decide) (by decide),
    State.fget_fset_other _ _ _ _ _ _ (by rfl) (by decide) (by decide) (by decide), State.fget_fset_self _ _ _ _ _ (by decide) (by decide)]
  exact Nat.mod_eq_of_lt (getField_lt v 8 3)

theorem State.fget_csretry_setCimCtl (d : Nat) (v : Word) : (s.setCimCtl d v).fget F.CIM_CTL_CSRETRY d = getField v 4 2 := by
  rw [State.setCimCtl, State.fget_setFlag_other _ _ _ _ _ _ (by rfl) (by decide) (by decide) (by decide),
    State.fget_fset_self _ _ _ _ _ (by decide) (by decide)]
  exact Nat.mod_eq_of_lt (getField_lt v 4 2)

theorem State.clearSat_setCimCtl_only (d : Nat) (v : Word) : s.only ((s.setCimCtl d v).clearSat d) [.regs] := by
  rw [State.clearSat, State.only_regs_iff _ _ (by simp)]
  simp [State.setCimCtl]

/-- SATCLR leaves the fields below it alone. -/
theorem getField_setSatclr (v : Word) {lo w : Nat} (h : lo + w ≤ 12) : getField (setField v 12 1 1) lo w = getField v lo w :=
  getField_setField_disjoint _ _ _ _ _ _ (by decide) (by decide) (.inl h)

theorem execSatCounterClear_of_homeReq {s : State} {r : Req} (hr : s.homeReq r) (d : Fin 4) (v : Word) :
    execSatCounterClear r d v s = .next ((s.setCimCtl d.val (setField v 12 1 1)).clearSat d.val) := by
  rw [execSatCounterClear, State.asHome_of_homeReq hr, State.writeCimCtl_of_clear _ (bit_setField_one v (by decide))]

end Sys2Proof.Machine
end

section
/-! PROOF. The obligation of spec/06 on MVM, its slots and its commit, DECK and the saturation counters (R191 to R194, R199, R201, R203,
R204, R206, R210, R212). -/

namespace Sys2Proof.Machine

/-- Settles O42: the begin by what an MVM holds, a slot by its outcome, the commit by what it writes, DECK by its positions, SATCLR by
the counters cleared. -/
theorem mvmsExposeCheckAndCommit : Obligations.MvmsExposeCheckAndCommit := by
  refine ⟨fun n s u w p o m hrun hphase hfind ht hm hread => ?_,
    fun n second devs s p o x rest hrun hphase hfind hslots _ ht _ _ => ⟨fun htimed hidle hskip => ?_, fun hdriven hact =>
      ⟨fun hpass => ?_, fun hfail hretry => ?_⟩⟩,
    fun n second s u v w p o m hrun hphase hfind htouch hparam hsums => ?_,
    fun n s p o hrun hphase hfind => ?_, fun r d v s hr => ?_⟩
  · obtain ⟨hinput, hclear⟩ := o.accOf_begun p ((w.elems w.physByte _ m (u.crTail _) 0 _).map Int.ofNat) ht
    exact ⟨_, _, execMvm_of_sound hrun hphase hfind rfl rfl hm hread, w.setRun_only n.val _, w.run_setRun n.val _, rfl, rfl,
      OpRun.nsteps_begun .., hinput, hclear⟩
  · refine ⟨_, _, execExposureSlot_of_skipped hrun hphase hfind hslots devs htimed hidle hskip, State.run_setRun .., rfl,
      OpRun.length_slots_setPlan .., (State.rget_setOp ..).trans (s.rget_count_self ..), ?_, fun a ha => ?_⟩
    · rw [State.setOp, State.only_setRun_iff _ _ (by simp)]
      exact (s.only_count_iff s (by simp) ..).mpr (s.only_refl _)
    · exact (State.rd_setOp ..).trans (s.rd_count_ne _ _ _ _ _ (by simpa using ha))
  · have hnone : s.failing n.val x (s.slotValues n.val p o x (devs.headD [])) = [] := s.failing_eq_nil hpass
    have hexec := execExposureSlot_of_final hrun hphase hfind hslots devs hdriven (.inl hnone)
    rw [hnone, settleSlot_of_passed _ hact] at hexec
    refine ⟨_, _, hexec, State.run_setRun .., congrArg (· + 1) (OpRun.step_foldl_addSum ..), OpRun.length_slots_setPlan ..,
      (State.rget_setOp ..).trans (s.rget_explo_slotExposed ..), fun r hr => ?_⟩
    rw [OpRun.accOf_nextSlot_addSum ht _ _ _ _ hr, State.slotValues]
    cases ((s.leaveDark n.val o.tiles).exposeAll n.val p o x (devs.headD [])).1.getD r none <;> rfl
  · have hstream : ((s.slotExposed n.val p o x (devs.headD [])).stream n.val).run = some p := by
      rwa [State.stream_of_only (s.slotExposed_only n.val p o x _) (by decide)]
    exact ⟨_, execExposureSlot_of_final hrun hphase hfind hslots devs hdriven (.inr hretry),
      State.haltedWith_settleSlot n.isLt hstream (s.failing_ne_nil hfail) o x rest _⟩
  · exact ⟨_, execMvmCommit_of_sound hrun hphase hfind rfl rfl rfl rfl htouch rfl rfl hparam hsums, State.run_finishOp ..,
      State.mem_finishOp ..⟩
  · have honly := State.selectDecks_only (s.leaveDark n.val (s.tileRefs n.val (o.arg.getD 0) (bits o.mod 0 3))) n.val (bits o.mod 0 3)
      (maskTiles (o.arg.getD 0))
    refine ⟨_, execDeck_of_find hrun hphase hfind, ?_, State.run_finishOp .., fun x hx => ⟨?_, fun k hk => ?_⟩, fun k hk => ?_⟩
    · rw [State.finishOp, State.only_setRun_iff _ _ (by simp)]
      refine State.only_trans (t := s.leaveDark n.val (s.tileRefs n.val (o.arg.getD 0) (bits o.mod 0 3))) ?_ (State.only_mono honly (by simp))
      exact (s.only_leaveDark_iff s (by simp) ..).mpr (s.only_refl _)
    · exact (State.lselOf_selectDecks ..).trans (if_pos ⟨x, hx, rfl⟩)
    · exact congrArg Tile.select ((State.tileX_selectDecks ..).trans (if_pos ⟨x, hx, hk⟩))
    · exact (State.lselOf_selectDecks ..).trans (if_neg fun ⟨x, hx, h⟩ => hk x hx h)
  · refine ⟨_, execSatCounterClear_of_homeReq hr d v, fun k hk => State.rget_sat_clearSat _ d.isLt hk, ?_, ?_,
      s.clearSat_setCimCtl_only d.val _⟩
    · rw [State.fget_of_rd (State.rd_ctl_clearSat ..), State.fget_gfilt_setCimCtl, getField_setSatclr _ (by decide)]
    · rw [State.fget_of_rd (State.rd_ctl_clearSat ..), State.fget_csretry_setCimCtl, getField_setSatclr _ (by decide)]

end Sys2Proof.Machine
end

section
/-! PROOF. The tiles, decks and commands of a programming unit: what each reads after an update (R215 to R218, R222, R235). -/

namespace Sys2Proof.Machine

variable (s : State)

/-! ### Decks -/

theorem Tile.deck_setDeck (x : Tile) (p q : Nat) (k : DeckRec) : (x.setDeck p k).deck q = if q = p then k else x.deck q :=
  Sparse.get_put ..

@[simp] theorem Tile.deck_setDeck_self (x : Tile) (p : Nat) (k : DeckRec) : (x.setDeck p k).deck p = k := Sparse.get_put_self ..

theorem DeckRec.level_setLevel (k : DeckRec) (r c v r' c' : Nat) :
    (k.setLevel r c v).level r' c' = if r' * 544 + c' = r * 544 + c then v else k.level r' c' := Sparse.get_put ..

/-- Levels are set in a deck's cells alone. -/
theorem DeckRec.foldl_setLevel_eq {α : Type} (r c v : α → Nat) (l : List α) (k : DeckRec) :
    ∃ cells, l.foldl (fun k e => k.setLevel (r e) (c e) (v e)) k = { k with cells := cells } := by
  induction l generalizing k with
  | nil => exact ⟨k.cells, rfl⟩
  | cons e l ih => exact ih (k.setLevel (r e) (c e) (v e))

/-- The levels of row `r` set by column: `l` gives column, level held and target. -/
def DeckRec.setRow (k : DeckRec) (r : Nat) (l : List (Nat × Nat × Nat)) : DeckRec := l.foldl (fun k e => k.setLevel r e.1 e.2.1) k

theorem DeckRec.setRow_eq (k : DeckRec) (r : Nat) (l : List (Nat × Nat × Nat)) : ∃ cells, k.setRow r l = { k with cells := cells } :=
  k.foldl_setLevel_eq (fun _ => r) Prod.fst (fun e : Nat × Nat × Nat => e.2.1) l

theorem DeckRec.level_setRow_of_notMem {r r' c : Nat} {l : List (Nat × Nat × Nat)} (h : ∀ e ∈ l, r' * 544 + c ≠ r * 544 + e.1)
    (k : DeckRec) : (k.setRow r l).level r' c = k.level r' c := by
  induction l generalizing k with
  | nil => rfl
  | cons e l ih =>
    obtain ⟨he, hl⟩ := List.forall_mem_cons.mp h
    exact (ih hl _).trans ((k.level_setLevel ..).trans (if_neg he))

/-- Where no column is set twice, each holds its level. -/
theorem DeckRec.level_setRow_of_mem {r : Nat} {l : List (Nat × Nat × Nat)} (h : (l.map Prod.fst).Nodup) (k : DeckRec)
    {e : Nat × Nat × Nat} (he : e ∈ l) : (k.setRow r l).level r e.1 = e.2.1 := by
  induction l generalizing k with
  | nil => cases he
  | cons x l ih =>
    obtain ⟨hx, hl⟩ := List.nodup_cons.mp h
    obtain rfl | he := List.mem_cons.mp he
    · have hother : ∀ y ∈ l, r * 544 + e.1 ≠ r * 544 + y.1 := fun y hy heq =>
        hx (List.mem_map.mpr ⟨y, hy, (Nat.add_left_cancel heq).symm⟩)
      exact (DeckRec.level_setRow_of_notMem hother _).trans ((k.level_setLevel ..).trans (if_pos rfl))
    · exact ih hl _ he

/-- A deck's cells lie row by row. -/
theorem DeckRec.level_setRow_other {r r' c : Nat} {l : List (Nat × Nat × Nat)} (hl : ∀ e ∈ l, e.1 < 544) (hr : r' ≠ r) (hc : c < 544)
    (k : DeckRec) : (k.setRow r l).level r' c = k.level r' c :=
  DeckRec.level_setRow_of_notMem (fun e he => by have := hl e he; omega) k

/-! ### Tiles -/

/-- Stuck cells are recorded in a tile's defects alone (R235). -/
theorem Tile.recordAll_eq (x : Tile) (p : Nat) (l : List (Nat × Nat × Nat × Nat)) :
    ∃ ds, (x.recordAll p l).1 = { x with defects := ds } := by
  refine List.foldlRecOn (motive := fun a : Tile × Nat => ∃ ds, a.1 = { x with defects := ds }) _ _ ⟨x.defects, rfl⟩ fun a ha e _ => ?_
  obtain ⟨ds, hds⟩ := ha
  simp only [Tile.recordStuck, hds]
  split
  · exact ⟨_, rfl⟩
  · exact ⟨_, rfl⟩

theorem Tile.deck_recordAll (x : Tile) (p : Nat) (l : List (Nat × Nat × Nat × Nat)) (q : Nat) :
    (x.recordAll p l).1.deck q = x.deck q := by
  obtain ⟨ds, hds⟩ := x.recordAll_eq p l
  rw [hds]
  rfl

/-- A row's programming sets each of the 544 columns once (R222). -/
theorem Tile.programLevels_perm (x : Tile) (p r : Nat) (img : List Byte) (cells : List (Nat × Nat)) :
    ((x.programLevels p r img cells).map Prod.fst).Perm (List.range 544) := by
  obtain ⟨check, hcheck⟩ : ∃ check : Nat → Bool, (x.programLevels p r img cells).map Prod.fst =
      (List.range 544).filter (fun c => !check c) ++ (List.range 544).filter check :=
    ⟨_, by simp only [Tile.programLevels, List.map_append, List.map_map, Function.comp_def, List.map_id']; rfl⟩
  rw [hcheck]
  exact List.perm_append_comm.trans (List.filter_append_perm check _)

theorem Tile.nodup_programLevels (x : Tile) (p r : Nat) (img : List Byte) (cells : List (Nat × Nat)) :
    ((x.programLevels p r img cells).map Prod.fst).Nodup := (x.programLevels_perm p r img cells).nodup_iff.mpr List.nodup_range

theorem Tile.column_lt_of_programLevels {x : Tile} {p r : Nat} {img : List Byte} {cells : List (Nat × Nat)} {e : Nat × Nat × Nat}
    (he : e ∈ x.programLevels p r img cells) : e.1 < 544 :=
  List.mem_range.mp ((x.programLevels_perm p r img cells).mem_iff.mp (List.mem_map_of_mem he))

section
variable {s t : State}

theorem State.tileX_of_cim (h : t.cim = s.cim) (d k : Nat) : t.tileX d k = s.tileX d k := by rw [State.tileX, State.tileX, h]

theorem State.cmds_of_cim (h : t.cim = s.cim) (d : Nat) : t.cmds d = s.cmds d := by rw [State.cmds, State.cmds, h]

theorem State.runningOn_of_cmds {d : Nat} (h : t.cmds d = s.cmds d) (k : Nat) : t.runningOn d k = s.runningOn d k := by
  rw [State.runningOn, State.runningOn, h]

end

theorem State.tileX_setTile_self (d k : Nat) (x : Tile) : (s.setTile d k x).tileX d k = x := (s.tileX_setTile d k k x).trans (if_pos rfl)

theorem State.tileX_setTile_ne {d k j : Nat} (h : j ≠ k) (x : Tile) : (s.setTile d k x).tileX d j = s.tileX d j :=
  (s.tileX_setTile d k j x).trans (if_neg h)

theorem State.tileX_onDeck_self (d k p : Nat) (f : DeckRec → DeckRec) :
    (s.onDeck d k p f).tileX d k = (s.tileX d k).setDeck p (f ((s.tileX d k).deck p)) := s.tileX_setTile_self d k _

theorem State.deck_onDeck_self (d k p : Nat) (f : DeckRec → DeckRec) :
    ((s.onDeck d k p f).tileX d k).deck p = f ((s.tileX d k).deck p) := by rw [s.tileX_onDeck_self, Tile.deck_setDeck_self]

theorem State.tileX_onDeck_ne {d k j : Nat} (h : j ≠ k) (p : Nat) (f : DeckRec → DeckRec) :
    (s.onDeck d k p f).tileX d j = s.tileX d j := s.tileX_setTile_ne h _

/-! ### Commands -/

@[simp] theorem State.cmds_setCmds (d : Nat) (l : List TileCmd) : (s.setCmds d l).cmds d = l := Sparse.get_put_self ..

theorem State.cmds_setCmd (d : Nat) (c c' : TileCmd) : (s.setCmd d c c').cmds d = (s.cmds d).map (fun x => if x = c then c' else x) :=
  s.cmds_setCmds d _

section
variable {s : State} {d k : Nat} {c c' : TileCmd}

/-- The command put in place of the running one runs. -/
theorem State.runningOn_setCmd_of_some (h : s.runningOn d k = some c) (hrun : c'.running = true) (htile : c'.tile = k) :
    (s.setCmd d c c').runningOn d k = some c' := by
  have hc := List.find?_some h
  have hsame : ((fun c => c.running && c.tile == k) ∘ fun x => if x = c then c' else x) = fun c => c.running && c.tile == k := by
    funext x
    by_cases hx : x = c
    · simp [hx, hc, hrun, htile]
    · simp [hx]
  rw [State.runningOn, State.cmds_setCmd, List.find?_map, hsame, show (s.cmds d).find? _ = some c from h, Option.map_some, if_pos rfl]

/-- Where none runs, the command that starts is the one that runs. -/
theorem State.runningOn_setCmd_of_none (h : s.runningOn d k = none) (hc : c ∈ s.cmds d) (hrun : c'.running = true) (htile : c'.tile = k) :
    (s.setCmd d c c').runningOn d k = some c' := by
  have hmem : c' ∈ (s.setCmd d c c').cmds d := by
    rw [State.cmds_setCmd]
    exact List.mem_map.mpr ⟨c, hc, if_pos rfl⟩
  obtain ⟨x, hx⟩ := Option.isSome_iff_exists.mp
    (List.find?_isSome (p := fun c => c.running && c.tile == k) |>.mpr ⟨c', hmem, by simp [hrun, htile]⟩)
  rw [State.runningOn, hx]
  have hxmem := List.mem_of_find?_eq_some hx
  rw [State.cmds_setCmd] at hxmem
  obtain ⟨y, hy, rfl⟩ := List.mem_map.mp hxmem
  by_cases hyc : y = c
  · rw [if_pos hyc]
  · have hrunning := List.find?_some hx
    rw [if_neg hyc] at hrunning
    exact absurd hrunning (List.find?_eq_none.mp h y hy)

theorem State.tile_of_runningOn (h : s.runningOn d k = some c) : c.tile = k ∧ c.running = true := by
  have hc := List.find?_some h
  simpa [and_comm] using hc

end

end Sys2Proof.Machine
end

section
/-! PROOF. How a command of a programming unit starts, and how it finishes (R218, R219, R220). -/

namespace Sys2Proof.Machine

variable (s t : State)

/-! ### Parts -/

theorem State.irqCimp_only (x : Nat) : s.only { s with irqCimp := x } [.irqCimp] := by
  intro p hp
  cases p
  case irqCimp => simp at hp
  all_goals rfl

section
variable {l : List Part}

@[simp] theorem State.only_irqCimp_iff (h : .irqCimp ∈ l) (x : Nat) : s.only { t with irqCimp := x } l ↔ s.only t l :=
  State.only_iff_of_only (t.irqCimp_only x) h
@[simp] theorem State.only_onDeck_iff (h : .cim ∈ l) (d k p : Nat) (f : DeckRec → DeckRec) : s.only (t.onDeck d k p f) l ↔ s.only t l :=
  s.only_cim_iff t h _
@[simp] theorem State.only_setCmd_iff (h : .cim ∈ l) (d : Nat) (c c' : TileCmd) : s.only (t.setCmd d c c') l ↔ s.only t l :=
  s.only_cim_iff t h _
@[simp] theorem State.only_queueOwn_iff (h : .cim ∈ l) (d op k p arg : Nat) : s.only (t.queueOwn d op k p arg) l ↔ s.only t l :=
  s.only_cim_iff t h _

theorem State.only_store_iff (hr : .regs ∈ l) (hm : .mem ∈ l) (a : Nat) (b : List Byte) : s.only (t.store a b) l ↔ s.only t l := by
  have hstore : t.only (t.store a b) l := State.only_mono (t.store_only a b) (by simp [hr, hm])
  exact ⟨fun h p hp => p.same_trans (h p hp) (Part.same_symm (hstore p hp)), fun h => State.only_trans h hstore⟩

@[simp] theorem State.only_cimpCard_iff (hr : .regs ∈ l) (he : .events ∈ l) (hc : .chn ∈ l) (d k p event value ctx : Nat) :
    s.only (t.cimpCard d k p event value ctx) l ↔ s.only t l := s.only_card_iff t hr he hc _

end

@[simp] theorem State.cim_store (a : Nat) (b : List Byte) : (s.store a b).cim = s.cim := s.store_only a b .cim (by simp)

@[simp] theorem State.cim_cimpCard (d k p event value ctx : Nat) : (s.cimpCard d k p event value ctx).cim = s.cim :=
  s.card_only _ .cim (by simp)

/-- A store counts tag errors and writes no other register. -/
theorem State.store_regsOnly (a : Nat) (b : List Byte) : s.regsOnly (s.store a b) [R.MEM_TAGERR.at] := by
  rw [State.regsOnly_iff_regsBut, State.store]
  induction b.length / 256 + 2 generalizing s a b with
  | zero => rfl
  | succ fuel ih =>
    by_cases hb : b = []
    · rw [hb, State.putMem_nil]
    · rw [s.putMem_succ hb, ih]
      simp [State.putPart]

/-! ### Reading the ring (R218) -/

theorem State.cimpFetch_only (d fuel : Nat) : s.only (s.cimpFetch d fuel) [.regs, .cim] := by
  induction fuel generalizing s with
  | zero => exact s.only_refl _
  | succ fuel ih =>
    rw [State.cimpFetch]
    split
    · exact s.only_refl _
    · exact State.only_trans (by simp) (ih _)

/-- Commands are read; tiles, selections and the rest of the dies' state stay. -/
theorem State.cim_cimpFetch (d fuel : Nat) : ∃ cmds, (s.cimpFetch d fuel).cim = { s.cim with cmds := cmds } := by
  induction fuel generalizing s with
  | zero => exact ⟨_, rfl⟩
  | succ fuel ih =>
    rw [State.cimpFetch]
    split
    · exact ⟨_, rfl⟩
    · exact ih _

theorem State.cimpFetch_regsOnly (d fuel : Nat) : s.regsOnly (s.cimpFetch d fuel) [R.CIMP_TAIL.at d] := by
  induction fuel generalizing s with
  | zero => exact s.regsOnly_refl _
  | succ fuel ih =>
    rw [State.cimpFetch]
    split
    · exact s.regsOnly_refl _
    · refine State.regsOnly_trans (fun a ha => ?_) (ih _)
      exact State.rd_fset_ne _ _ _ _ _ _ fun h => ha (List.mem_singleton.mpr h)

/-- The ring's base stays where commands are read. -/
theorem State.cimpSlot_cimpFetch (d fuel i : Nat) : (s.cimpFetch d fuel).cimpSlot d i = s.cimpSlot d i := by
  have hne : R.CIMP_RINGBASE.at d ≠ R.CIMP_TAIL.at d :=
    RegDesc.at_ne_of_base_ne (q := R.CIMP_RINGBASE) (r := R.CIMP_TAIL) rfl rfl (by decide) d 0
  have hbase : (s.cimpFetch d fuel).fget F.CIMP_RINGBASE_PPN d = s.fget F.CIMP_RINGBASE_PPN d :=
    State.fget_of_rd (s.cimpFetch_regsOnly d fuel _ fun h => hne (List.mem_singleton.mp h))
  rw [State.cimpSlot, State.cimpSlot, hbase]

theorem State.fget_store_of_above {f : Fld} {d : Nat} (h : R.MEM_TAGERR.at < f.reg.base) (a : Nat) (b : List Byte) :
    (s.store a b).fget f d = s.fget f d :=
  State.fget_of_rd (s.store_regsOnly a b _ (by simpa using (RegDesc.ne_at_of_lt h d 0).symm))

/-! ### The start (R220, R231) -/

/-- Command `c` of die `d` runs, its ring entry marked. -/
def State.begun (s : State) (d : Nat) (c : TileCmd) : State :=
  (match c.idx with
    | some i => s.store (s.cimpSlot d i + 1) [1]
    | none => s).setCmd d c { c with running := true }

theorem State.begun_only (d : Nat) (c : TileCmd) : s.only (s.begun d c) [.regs, .mem, .cim] := by
  rw [State.begun, State.only_setCmd_iff _ _ (by simp)]
  split
  · exact State.only_mono (s.store_only _ _) (by simp)
  · exact s.only_refl _

theorem State.cim_begun (d : Nat) (c : TileCmd) : (s.begun d c).cim = (s.setCmd d c { c with running := true }).cim := by
  rw [State.begun]
  split <;> simp [State.setCmd, State.setCmds, State.cmds]

theorem State.tileX_begun (d : Nat) (c : TileCmd) (d' k : Nat) : (s.begun d c).tileX d' k = s.tileX d' k := by
  rw [State.tileX, State.cim_begun]
  rfl

theorem State.fget_setCmd (f : Fld) (d i j : Nat) (c c' : TileCmd) : (s.setCmd d c c').fget f i j = s.fget f i j := rfl

theorem State.fget_begun_of_above {f : Fld} {d k : Nat} (h : R.MEM_TAGERR.at < f.reg.base) (c : TileCmd) :
    (s.begun k c).fget f d = s.fget f d := by
  rw [State.begun, State.fget_setCmd]
  split
  · exact s.fget_store_of_above h _ _
  · rfl

section
variable {s u : State} {d op tl : Nat} {c : TileCmd}

theorem State.cimpStart_of_ready (h : s.cimpReady u d op tl c) (f : State → TileCmd → State) :
    s.cimpStart d op tl f = f (u.begun d c) { c with running := true } := by
  obtain ⟨rfl, hbar, hidle, hfind, rfl, hmax, hdark, hok⟩ := h
  have hplace : ¬((c.op = 3 ∨ c.op = 4) ∧
      (s.cimpFetch d 256).fget F.CIMP_DARK_MAX d ≤ ((s.cimpFetch d 256).darkTiles d).length) := fun ⟨h3, hle⟩ =>
    Nat.not_lt.mpr hle (hdark h3)
  rw [State.cimpStart]
  simp only [hbar, hidle, hfind, Nat.not_le.mpr hmax, hplace, hok, Option.isSome_none, Bool.or_self, Bool.false_eq_true, if_false, ne_eq,
    not_true_eq_false, false_and]
  rfl

theorem State.tile_of_ready (h : s.cimpReady u d op tl c) : c.tile = tl := by
  obtain ⟨-, -, -, hfind, -⟩ := h
  simpa using List.find?_some hfind

theorem State.only_begun_of_ready (h : s.cimpReady u d op tl c) : s.only (u.begun d c) [.regs, .mem, .cim] := by
  obtain ⟨rfl, -⟩ := h
  exact State.only_trans (State.only_mono (s.cimpFetch_only d 256) (by simp)) (State.begun_only _ _ _)

/-- A start changes the commands alone of what the dies hold. -/
theorem State.cim_begun_of_ready (h : s.cimpReady u d op tl c) : ∃ cmds, (u.begun d c).cim = { s.cim with cmds := cmds } := by
  obtain ⟨rfl, -⟩ := h
  obtain ⟨cmds, hcim⟩ := s.cim_cimpFetch d 256
  rw [State.cim_begun, State.setCmd, State.setCmds, hcim]
  exact ⟨_, rfl⟩

theorem State.tileX_of_ready (h : s.cimpReady u d op tl c) (k : Nat) : u.tileX d k = s.tileX d k := by
  obtain ⟨rfl, -⟩ := h
  obtain ⟨cmds, hcim⟩ := s.cim_cimpFetch d 256
  rw [State.tileX, hcim]
  rfl

theorem State.tileX_begun_of_ready (h : s.cimpReady u d op tl c) (k : Nat) : (u.begun d c).tileX d k = s.tileX d k :=
  (u.tileX_begun d c d k).trans (State.tileX_of_ready h k)

theorem State.retired_begun_of_ready (h : s.cimpReady u d op tl c) :
    (u.begun d c).cim.retiring = s.cim.retiring ∧ (u.begun d c).cim.exhausted = s.cim.exhausted := by
  obtain ⟨cmds, hcim⟩ := State.cim_begun_of_ready h
  rw [hcim]
  exact ⟨rfl, rfl⟩

theorem State.runningOn_begun_of_ready (h : s.cimpReady u d op tl c) :
    (u.begun d c).runningOn d tl = some { c with running := true } := by
  have htile := State.tile_of_ready h
  obtain ⟨-, -, hidle, hfind, -⟩ := h
  rw [State.runningOn_of_cmds (State.cmds_of_cim (u.cim_begun d c) d)]
  exact State.runningOn_setCmd_of_none hidle (List.mem_of_find?_eq_some hfind) rfl htile

end

/-! ### The finish (R218, R219) -/

/-- STATUS, RESULT and DONE stand in the command's ring entry, and the completion interrupt is set. -/
def State.markEntry (s : State) (d : Nat) (c : TileCmd) (st res : Nat) : State :=
  match c.idx with
  | none => s
  | some i =>
    let u := ((s.store (s.cimpSlot d i + 1) [BitVec.ofNat 8 st]).store (s.cimpSlot d i + 6) (leBytes 2 res)).store (s.cimpSlot d i + 24)
      (leBytes 8 s.now)
    { u with irqCimp := u.irqCimp ||| 2 ^ d }

theorem State.markEntry_only (d : Nat) (c : TileCmd) (st res : Nat) : s.only (s.markEntry d c st res) [.regs, .mem, .irqCimp] := by
  rw [State.markEntry]
  split
  · exact s.only_refl _
  · refine (s.only_irqCimp_iff _ (by simp) _).mpr ?_
    simp [State.only_store_iff]

/-- A command that no longer waits nor runs. -/
def State.dropCmd (s : State) (d : Nat) (c : TileCmd) : State := s.setCmds d ((s.cmds d).filter (fun x => x != c))

theorem State.cimpFinish_eq (d : Nat) (c : TileCmd) (st res : Nat) : ∃ ctx, s.cimpFinish d c st res =
    if 3 ≤ st then ((s.markEntry d c st res).dropCmd d c).cimpCard d c.tile c.deck st res ctx else (s.markEntry d c st res).dropCmd d c :=
  ⟨((s.markEntry d c st res).dropCmd d c).fget F.CIMP_RINGCFG_CTX d, rfl⟩

theorem State.cimpFinish_of_lt {st : Nat} (h : st < 3) (d : Nat) (c : TileCmd) (res : Nat) :
    s.cimpFinish d c st res = (s.markEntry d c st res).dropCmd d c := by
  obtain ⟨ctx, hfinish⟩ := s.cimpFinish_eq d c st res
  rw [hfinish, if_neg (Nat.not_le.mpr h)]

theorem State.cimpFinish_only_of_lt {st : Nat} (h : st < 3) (d : Nat) (c : TileCmd) (res : Nat) :
    s.only (s.cimpFinish d c st res) [.regs, .mem, .cim, .irqCimp] := by
  rw [s.cimpFinish_of_lt h, State.dropCmd, State.only_setCmds_iff _ _ (by simp)]
  exact State.only_mono (s.markEntry_only d c st res) (by simp)

@[simp] theorem State.cim_cimpFinish (d : Nat) (c : TileCmd) (st res : Nat) : (s.cimpFinish d c st res).cim = (s.dropCmd d c).cim := by
  have hmark : (s.markEntry d c st res).cim = s.cim := s.markEntry_only d c st res .cim (by simp)
  have hdrop : ((s.markEntry d c st res).dropCmd d c).cim = (s.dropCmd d c).cim := by
    simp only [State.dropCmd, State.setCmds, State.cmds, hmark]
  obtain ⟨ctx, hfinish⟩ := s.cimpFinish_eq d c st res
  rw [hfinish]
  split
  · exact (State.cim_cimpCard ..).trans hdrop
  · exact hdrop

theorem State.tileX_cimpFinish (d : Nat) (c : TileCmd) (st res d' k : Nat) : (s.cimpFinish d c st res).tileX d' k = s.tileX d' k :=
  State.tileX_of_cim (s.cim_cimpFinish d c st res) d' k

theorem State.ne_of_mem_cimpFinish {d : Nat} {c x : TileCmd} {st res : Nat} (h : x ∈ (s.cimpFinish d c st res).cmds d) : x ≠ c := by
  rw [State.cmds_of_cim (s.cim_cimpFinish d c st res), State.dropCmd, State.cmds_setCmds] at h
  simpa using List.of_mem_filter h

end Sys2Proof.Machine
end

section
/-! PROOF. ERASE and its end (R221, R239): the count, the cells, the deck's state. -/

namespace Sys2Proof.Machine

/-- A deck whose erase has started. -/
def DeckRec.erasing (k : DeckRec) : DeckRec := { k with erases := k.erases + 1, state := 1 }

/-- A deck whose erase has ended: the cells that did not verify hold their levels, the others none. -/
def DeckRec.erased (k : DeckRec) (bad : List (Fin 528 × Fin 544 × Fin 4)) (fails : Bool) : DeckRec :=
  bad.foldl (fun k b => k.setLevel b.1.val b.2.1.val b.2.2.val)
    { k with cells := [], drift := 0, refresh := false, state := if fails then 6 else 0 }

theorem DeckRec.state_erased (k : DeckRec) (bad : List (Fin 528 × Fin 544 × Fin 4)) (fails : Bool) :
    (k.erased bad fails).state = if fails then 6 else 0 := by
  obtain ⟨cells, h⟩ := DeckRec.foldl_setLevel_eq (fun b : Fin 528 × Fin 544 × Fin 4 => b.1.val) (fun b => b.2.1.val) (fun b => b.2.2.val) bad
    { k with cells := [], drift := 0, refresh := false, state := if fails then 6 else 0 }
  rw [DeckRec.erased, h]

section
variable {s u : State} {d : Fin 4} {tl : Half} {c : TileCmd}

/-- An erase starts on its deck, with a report card where the count reaches WARN (R239). -/
theorem execTileErase_of_ready (h : s.cimpReady u d.val 1 tl.toNat c) : ∃ v, execTileErase d tl s = .next v ∧
    v.cim = ((u.begun d.val c).onDeck d.val tl.toNat c.deck DeckRec.erasing).cim ∧ s.only v [.regs, .mem, .chn, .cim, .events] := by
  have hparts : s.only ((u.begun d.val c).onDeck d.val tl.toNat c.deck DeckRec.erasing) [.regs, .mem, .chn, .cim, .events] :=
    (s.only_onDeck_iff _ (by simp) ..).mpr (State.only_mono (State.only_begun_of_ready h) (by simp))
  rw [execTileErase, State.cimpStart_of_ready h]
  rw [← State.tile_of_ready h] at hparts ⊢
  refine ⟨_, rfl, ?_, ?_⟩
  · dsimp only
    split
    · exact State.cim_cimpCard ..
    · rfl
  · dsimp only
    split
    · exact (s.only_cimpCard_iff _ (by simp) (by simp) (by simp) ..).mpr hparts
    · exact hparts

/-- An erase's end, whatever it met. -/
theorem execTileEraseDone_of_running (hrun : s.runningOn d.val tl.toNat = some c) (hop : c.op = 1)
    (bad : List (Fin 528 × Fin 544 × Fin 4)) (pulse : Bool) : ∃ v : State, s.only v [.regs, .cim] ∧
      (v.tileX d.val tl.toNat).deck c.deck =
        ((s.tileX d.val tl.toNat).deck c.deck).erased bad (pulse || decide (64 < bad.length)) ∧
      ∃ st, execTileEraseDone d tl bad pulse s = .next (v.cimpFinish d.val c st 0) ∧ (pulse = false → bad = [] → st = 2) := by
  obtain ⟨htile, -⟩ := State.tile_of_runningOn hrun
  rw [execTileEraseDone, hrun]
  dsimp only
  rw [if_neg (not_not_intro hop), htile]
  refine ⟨_, ?_, ?_, _, rfl, ?_⟩
  · simp
  · refine (congrArg (Tile.deck · c.deck) (State.tileX_setTile_self ..)).trans ((Tile.deck_setDeck_self ..).trans ?_)
    rw [Tile.deck_recordAll, DeckRec.erased]
  · rintro rfl rfl
    rfl

end

end Sys2Proof.Machine
end

section
/-! PROOF. PROGRAM, row by row (R218, R222, R236). -/

namespace Sys2Proof.Machine

/-! ### The source of a row -/

/-- The parts that reading a row's source moves. -/
def rowSourceParts : List Part := [.regs, .mmu, .events, .chn]

theorem State.cimpBytes_only (s : State) (d va n : Nat) : s.only (s.cimpBytes d va n).2 rowSourceParts := by
  have hpages := s.translatePages_only (0x24 + d) (s.fget F.CIMP_RINGCFG_CTX d) ((pagesOf va n).map (fun v => (v, Acc3.read))) []
  unfold State.cimpBytes
  dsimp only
  split
  · next h =>
    rw [h] at hpages
    exact State.only_mono hpages (by simp [rowSourceParts])
  · next m u h =>
    rw [h] at hpages
    have hmapped : s.only (u.violatePages (0x24 + d) (s.fget F.CIMP_RINGCFG_CTX d) (u.noRemote m)) rowSourceParts :=
      State.only_trans (State.only_mono hpages (by simp [rowSourceParts]))
        (State.only_mono (State.violatePages_only _ _ _ _) (by simp [rowSourceParts]))
    split
    · exact hmapped
    · refine State.only_trans hmapped ?_
      simp [State.uncorrectable, rowSourceParts]
    · exact hmapped

theorem State.rowSource_only (s : State) (d : Nat) (c : TileCmd) (r : Nat) : s.only (s.rowSource d c r).2 rowSourceParts := by
  have hfirst := s.cimpBytes_only d c.src 32
  unfold State.rowSource
  split
  · exact s.cimpBytes_only _ _ _
  · split
    · next h u hhead =>
      rw [hhead] at hfirst
      dsimp only
      split
      · exact hfirst
      · next ulen x hx =>
        split
        · exact hfirst
        · have hsecond := u.cimpBytes_only d (c.src + 32 + 16 * ((c.block * 65536 + 128 * r) / 4096)) 16
          split
          · next eb v hentry =>
            rw [hentry] at hsecond
            have hthird := v.cimpBytes_only d (c.src + (parseEntry eb).offset) (parseEntry eb).stored
            split
            · next b w hblock =>
              rw [hblock] at hthird
              split <;> exact State.only_trans hfirst (State.only_trans hsecond hthird)
            · exact State.only_trans hfirst (State.only_trans hsecond hthird)
          · exact State.only_trans hfirst hsecond
    · exact hfirst

theorem State.cim_of_rowSource {s u : State} {d r : Nat} {c : TileCmd} {x : RowSrc} (h : s.rowSource d c r = (x, u)) : u.cim = s.cim := by
  have honly := s.rowSource_only d c r
  rw [h] at honly
  exact honly .cim (by simp [rowSourceParts])

/-! ### The start -/

section
variable {s u : State} {d : Fin 4} {tl : Half} {c : TileCmd}

/-- A deck whose program has started, in the format of ARG. -/
def DeckRec.programming (arg : Nat) (k : DeckRec) : DeckRec := { k with state := 2, wfmt := bits arg 0 2 }

/-- What the repairs of a PROGRAM give: the tile, the spares assigned, and whether a column of the checks stays stuck (R236). -/
def State.programRepairs (s : State) (d : Nat) (c : TileCmd) : Tile × Nat × Bool :=
  if bit c.arg 3 then (s.tileX d c.tile).autoRepair c.deck (s.fget F.CIMP_CTL_ROWTH d) else (s.tileX d c.tile, 0, false)

theorem State.programRepairs_begun (u : State) (d : Fin 4) (c : TileCmd) :
    (u.begun d.val c).programRepairs d.val { c with running := true } = u.programRepairs d.val c := by
  have hth : (u.begun d.val c).fget F.CIMP_CTL_ROWTH d.val = u.fget F.CIMP_CTL_ROWTH d.val := u.fget_begun_of_above (by decide) c
  simp only [State.programRepairs, hth, State.tileX_begun]

theorem execTileProgram_of_repaired (h : s.cimpReady u d.val 2 tl.toNat c) (hroom : (u.tileX d.val tl.toNat).defects.length < 504)
    (hrep : (u.programRepairs d.val c).2.2 = false) : execTileProgram d tl s = .next
      ((((u.begun d.val c).setTile d.val tl.toNat (u.programRepairs d.val c).1).count R.CIMP_REPAIRS
        (u.programRepairs d.val c).2.1 d.val).onDeck d.val tl.toNat c.deck (DeckRec.programming c.arg)) := by
  have hdefects : ¬504 ≤ ((u.begun d.val c).tileX d.val c.tile).defects.length := by
    rw [State.tileX_begun, State.tile_of_ready h]
    omega
  rw [execTileProgram, State.cimpStart_of_ready h]
  dsimp only
  rw [if_neg hdefects]
  have hrepairs := u.programRepairs_begun d c
  simp only [State.programRepairs] at hrepairs hrep ⊢
  rw [hrepairs, hrep, ← State.tile_of_ready h]
  rfl

end

/-! ### A row -/

/-- Whether an MVM in progress on die `d` uses tile `k` (R209, R231). -/
def State.mvmOn (s : State) (d k : Nat) : Bool :=
  match (s.stream d).run with
  | some p => p.ops.any (fun o => o.opc == 0x10 && o.started && !o.finished && o.tiles.any (fun x => x.tile == k))
  | none => false

theorem State.mvmOn_eq_false {s : State} {d k : Nat} (h : ∀ p, (s.stream d).run = some p →
    p.ops.any (fun o => o.opc == 0x10 && o.started && !o.finished && o.tiles.any (fun x => x.tile == k)) = false) :
    s.mvmOn d k = false := by
  rw [State.mvmOn]
  split
  · next p hp => exact h p hp
  · rfl

section
variable {s u : State} {d : Fin 4} {tl : Half} {c : TileCmd} {img : List Byte}

/-- A programmed row holds its levels, the other rows and the deck's state stay (R222). -/
theorem Tile.level_programLevels (x : Tile) (p r : Nat) (img : List Byte) (cells : List (Nat × Nat)) {k : DeckRec}
    (h : k = (x.deck p).setRow (x.rowOf p r) (x.programLevels p r img cells)) :
    (∀ e ∈ x.programLevels p r img cells, k.level (x.rowOf p r) e.1 = e.2.1) ∧
    (∀ r' c', r' ≠ x.rowOf p r → c' < 544 → k.level r' c' = (x.deck p).level r' c') ∧ k.state = (x.deck p).state := by
  obtain ⟨held, hheld⟩ := (x.deck p).setRow_eq (x.rowOf p r) (x.programLevels p r img cells)
  refine ⟨fun e he => ?_, fun r' c' hr hc => ?_, ?_⟩
  · rw [h]
    exact DeckRec.level_setRow_of_mem (x.nodup_programLevels p r img cells) _ he
  · rw [h]
    exact DeckRec.level_setRow_other (fun e he => Tile.column_lt_of_programLevels he) hr hc _
  · rw [h, hheld]

/-- A deck whose program has ended with the tag and the block of its entry. -/
def DeckRec.programmed (tagpfx block : Nat) (k : DeckRec) : DeckRec := { k with state := 4, tagpfx := tagpfx, block := block }

/-- A row whose cells all verify. -/
theorem execProgramRow_of_verified (hrun : s.runningOn d.val tl.toNat = some c) (hop : c.op = 2) (hsusp : c.susp = false)
    (htimed : s.timedOn d.val = false)
    (hidle : ∀ p, (s.stream d.val).run = some p →
      p.ops.any (fun o => o.opc == 0x10 && o.started && !o.finished && o.tiles.any (fun x => x.tile == c.tile)) = false)
    (hsource : s.rowSource d.val c c.step = (.row img, u)) (cells : List (Fin 544 × Fin 4))
    {x : Tile} (hx : s.tileX d.val tl.toNat = x) {lv : List (Nat × Nat × Nat)}
    (hlv : x.programLevels c.deck c.step img (cells.map (fun e => (e.1.val, e.2.val))) = lv)
    (hlegal : (x.deck c.deck).wfmt ≠ 3 ∨ (List.range 512).any (fun k => bits (leNat img) (2 * k) 2 == 3) = false)
    (hheld : lv.all (fun e => e.2.1 == e.2.2) = true) (p1 : Fin 9) (p2 : Fin 5) :
    ∃ v : State, v.cmds d.val = s.cmds d.val ∧
      (v.tileX d.val tl.toNat).deck c.deck = (x.deck c.deck).setRow (x.rowOf c.deck c.step) lv ∧
      execProgramRow d tl p1 p2 cells s = .next (if c.step + 1 < 512 then v.setCmd d.val c { c with step := c.step + 1 }
        else (v.onDeck d.val tl.toNat c.deck (DeckRec.programmed c.tagpfx c.block)).cimpFinish d.val c
          (if c.count = 0 then 0x02 else 0x03) c.count) := by
  obtain ⟨htile, -⟩ := State.tile_of_runningOn hrun
  have hcim := State.cim_of_rowSource hsource
  have hxu : u.tileX d.val tl.toNat = x := (State.tileX_of_cim hcim _ _).trans hx
  have hoff : lv.filter (fun e => e.2.1 != e.2.2) = [] := by
    refine List.filter_eq_nil_iff.mpr fun e he => ?_
    simpa using List.all_eq_true.mp hheld e he
  have hform : ¬((x.deck c.deck).wfmt = 3 ∧ (List.range 512).any (fun k => bits (leNat img) (2 * k) 2 == 3) = true) := by
    rintro ⟨hw, hany⟩
    rcases hlegal with h | h
    · exact h hw
    · exact Bool.false_ne_true (h.symm.trans hany)
  refine ⟨((u.setTile d.val tl.toNat (x.setDeck c.deck ((x.deck c.deck).setRow (x.rowOf c.deck c.step) lv))).count R.CIMP_STUCKNEW 0
    d.val).count R.CIMP_PULSES (p1.val + p2.val) d.val, State.cmds_of_cim hcim _,
    (congrArg (Tile.deck · c.deck) (State.tileX_setTile_self ..)).trans (Tile.deck_setDeck_self ..), ?_⟩
  have hpending := State.mvmOn_eq_false hidle
  rw [execProgramRow, hrun]
  refine congrArg Host.Outcome.next ((if_neg ?_).trans ?_)
  · rintro (h | h | h | h)
    · exact h hop
    · exact Bool.false_ne_true (hsusp.symm.trans h)
    · exact Bool.false_ne_true (htimed.symm.trans h)
    · exact Bool.false_ne_true (hpending.symm.trans h)
  · rw [hsource]
    dsimp only
    rw [htile, hxu, if_neg hform, hlv, hoff]
    rfl

end

end Sys2Proof.Machine
end

section
/-! PROOF. MAPSET and RETIRE (R226, R240, R241). -/

namespace Sys2Proof.Machine

variable {s u : State} {d : Fin 4} {tl : Half} {c : TileCmd}

/-! ### MAPSET -/

/-- STATUS stands in the entry, and the completion interrupt of the die is set. -/
theorem State.markEntry_status (s : State) {d i : Nat} (hidx : c.idx = some i) (st res : Nat) :
    (s.markEntry d c st res).mem.byte (s.cimpSlot d i + 1) = BitVec.ofNat 8 st ∧ (s.markEntry d c st res).irqCimp = s.irqCimp ||| 2 ^ d := by
  have hirq (u : State) (a : Nat) (b : List Byte) : (u.store a b).irqCimp = u.irqCimp := u.store_only a b .irqCimp (by simp)
  simp only [State.markEntry, hidx]
  constructor
  · rw [State.bytesOnly_store _ _ _ _ (by rw [leBytes_length]; omega), State.bytesOnly_store _ _ _ _ (by rw [leBytes_length]; omega),
      State.store, State.byte_putMem _ (by simp only [List.length_singleton]; omega), Memory.byte_store]
    simp
  · rw [hirq, hirq, hirq]

/-- The physical deck of each logical one that the entry's SRC gives. -/
def mapsetPmap (src : Nat) : List Nat := (List.range 8).map (fun i => src / 256 ^ i % 256)

theorem execTileMapset_of_ready (h : s.cimpReady u d.val 5 tl.toNat c) : execTileMapset d tl s = .next
    (((u.begun d.val c).setTile d.val tl.toNat { s.tileX d.val tl.toNat with pmap := mapsetPmap c.src }).cimpFinish d.val
      { c with running := true } 2 0) := by
  rw [execTileMapset, State.cimpStart_of_ready h]
  dsimp only
  rw [State.tile_of_ready h, State.tileX_begun_of_ready h]
  rfl

theorem State.cimpSlot_begun_of_ready {op tl d : Nat} (h : s.cimpReady u d op tl c) (i : Nat) :
    (u.begun d c).cimpSlot d i = s.cimpSlot d i := by
  obtain ⟨rfl, -⟩ := h
  have hbase : ((s.cimpFetch d 256).begun d c).fget F.CIMP_RINGBASE_PPN d = (s.cimpFetch d 256).fget F.CIMP_RINGBASE_PPN d :=
    State.fget_begun_of_above _ (by decide) c
  rw [← s.cimpSlot_cimpFetch d 256 i, State.cimpSlot, hbase, State.cimpSlot]

/-! ### RETIRE -/

/-- The place of the lowest spare in the group of tile `k` of die `d`. -/
def State.spareOf (s : State) (d k : Nat) : Option Nat := (List.range 72).find? (fun j => (s.tileX d (72 * (k / 72) + j)).role == 1)

theorem State.spareOf_of_tiles {s t : State} {d : Nat} (h : ∀ k, t.tileX d k = s.tileX d k) (k : Nat) : t.spareOf d k = s.spareOf d k := by
  simp only [State.spareOf, h]

/-- Spare `sp` takes the position of tile `k` at the next switch; a forced retirement stops the tile at once (R240). -/
def State.takeSpare (s : State) (d k sp : Nat) (force : Bool) : State :=
  let u := s.setTile d sp { s.tileX d sp with role := 2, pos := (s.tileX d k).pos }
  if force then u.setTile d k { s.tileX d k with stopped := true } else u

theorem State.tileX_takeSpare (s : State) {d k sp : Nat} (h : sp ≠ k) (force : Bool) :
    (s.takeSpare d k sp force).tileX d sp = { s.tileX d sp with role := 2, pos := (s.tileX d k).pos } := by
  unfold State.takeSpare
  dsimp only
  split
  · exact (State.tileX_setTile_ne _ h _).trans (s.tileX_setTile_self ..)
  · exact s.tileX_setTile_self ..

theorem State.cim_takeSpare (s : State) (d k sp : Nat) (force : Bool) :
    (s.takeSpare d k sp force).cim.retiring = s.cim.retiring ∧ (s.takeSpare d k sp force).cim.exhausted = s.cim.exhausted := by
  unfold State.takeSpare
  dsimp only
  split <;> exact ⟨rfl, rfl⟩

/-- Tile `k` waits for the switch that retires it. -/
def State.awaitSwitch (s : State) (d k sp : Nat) : State :=
  { s with cim := { s.cim with retiring := s.cim.retiring ++ [(d, k, sp)] } }

theorem State.tileX_awaitSwitch (s : State) (d k sp j : Nat) : (s.awaitSwitch d k sp).tileX d j = s.tileX d j := rfl

theorem State.retireTile_eq (s : State) {d k j : Nat} (force : Bool) (hspare : s.spareOf d k = some j) :
    ∃ ctx, s.retireTile d k force = (some (72 * (k / 72) + j),
      ((s.takeSpare d k (72 * (k / 72) + j) force).awaitSwitch d k (72 * (k / 72) + j)).cimpCard d k 0 0x82 (72 * (k / 72) + j) ctx) := by
  rw [State.spareOf] at hspare
  rw [State.retireTile]
  dsimp only
  rw [hspare]
  exact ⟨_, rfl⟩

theorem State.retireTile_of_spare (s : State) {d k j : Nat} (force : Bool) (hspare : s.spareOf d k = some j) (hrole : (s.tileX d k).role = 0) :
    ∃ v, s.retireTile d k force = (some (72 * (k / 72) + j), v) ∧ (v.tileX d (72 * (k / 72) + j)).role = 2 ∧
      (v.tileX d (72 * (k / 72) + j)).pos = (s.tileX d k).pos ∧
      v.cim.retiring = s.cim.retiring ++ [(d, k, 72 * (k / 72) + j)] ∧ v.cim.exhausted = s.cim.exhausted := by
  have hspareRole : (s.tileX d (72 * (k / 72) + j)).role = 1 := by simpa using List.find?_some hspare
  have hne : 72 * (k / 72) + j ≠ k := fun h => by
    rw [h, hrole] at hspareRole
    cases hspareRole
  have htile := s.tileX_takeSpare (d := d) hne force
  obtain ⟨hretiring, hexhausted⟩ := s.cim_takeSpare d k (72 * (k / 72) + j) force
  obtain ⟨ctx, hretire⟩ := s.retireTile_eq force hspare
  refine ⟨_, hretire, ?_⟩
  rw [State.tileX_of_cim (State.cim_cimpCard ..), State.cim_cimpCard, State.tileX_awaitSwitch, htile]
  exact ⟨rfl, rfl, congrArg (· ++ [_]) hretiring, hexhausted⟩

/-- With no spare left the position is unavailable and the group retired (R241). -/
theorem State.retireTile_of_none (s : State) {d k : Nat} (force : Bool) (hspare : s.spareOf d k = none) :
    ∃ v, s.retireTile d k force = (none, v) ∧ (v.tileX d k).stopped = true ∧ d * 16 + k / 72 ∈ v.cim.exhausted := by
  rw [State.spareOf] at hspare
  rw [State.retireTile]
  dsimp only
  rw [hspare]
  refine ⟨_, rfl, congrArg Tile.stopped (s.tileX_setTile_self d k { s.tileX d k with stopped := true }), ?_⟩
  dsimp only
  split
  · next h => simpa using h
  · exact List.mem_append_right _ (List.mem_singleton_self _)

theorem State.cimpFinish_retired (s : State) (d : Nat) (c : TileCmd) (st res : Nat) :
    (s.cimpFinish d c st res).cim.retiring = s.cim.retiring ∧ (s.cimpFinish d c st res).cim.exhausted = s.cim.exhausted := by
  rw [State.cim_cimpFinish]
  exact ⟨rfl, rfl⟩

theorem execTileRetire_of_spare (h : s.cimpReady u d.val 6 tl.toNat c) {v : State} {sp : Nat}
    (hretire : (u.begun d.val c).retireTile d.val tl.toNat (bit c.arg 0) = (some sp, v)) :
    execTileRetire d tl s = .next (v.cimpFinish d.val { c with running := true } 2 sp) := by
  rw [execTileRetire, State.cimpStart_of_ready h]
  dsimp only
  rw [State.tile_of_ready h, hretire]

theorem execTileRetire_of_none (h : s.cimpReady u d.val 6 tl.toNat c) {v : State}
    (hretire : (u.begun d.val c).retireTile d.val tl.toNat (bit c.arg 0) = (none, v)) :
    execTileRetire d tl s = .next (v.cimpFinish d.val { c with running := true } 0x18 0) := by
  rw [execTileRetire, State.cimpStart_of_ready h]
  dsimp only
  rw [State.tile_of_ready h, hretire]

/-- A command that nothing refuses retires a tile in service (Table 07-5). -/
theorem State.role_of_ready {d tl : Nat} (h : s.cimpReady u d 6 tl c) : (s.tileX d tl).role = 0 := by
  rw [← State.tileX_of_ready h, ← State.tile_of_ready h]
  obtain ⟨-, -, -, -, hop, -, -, hok⟩ := h
  by_contra hrole
  rw [State.cmdRefusal] at hok
  simp only [hop, hrole, if_false] at hok
  split_ifs at hok

end Sys2Proof.Machine
end

section
/-! PROOF. The obligation of spec/07 on ERASE, PROGRAM, MAPSET and RETIRE (R217, R218, R220 to R222, R226, R236, R239 to R241). -/

namespace Sys2Proof.Machine

/-- Settles O43: each start from the state in which its command runs, an erase's end by the cells that did not verify, a row by its
columns, RETIRE by the spares of the group. -/
theorem tileCommandsEraseProgramMapAndRetire : Obligations.TileCommandsEraseProgramMapAndRetire := by
  refine ⟨fun d tl s u c h => ?_, fun d tl s c hrun hop => ?_, fun d tl bad pulse s c hrun hop hfails => ?_,
    fun d tl s u c h hroom hrep => ?_, fun d tl p1 p2 cells s u c img hrun hop hsusp htimed hidle hsource hlegal hheld => ?_,
    fun d tl s u c h => ?_, fun d tl s u c j h _ hspare => ?_, fun d tl s u c h hspare => ?_⟩
  · obtain ⟨v, hexec, hcim, hparts⟩ := execTileErase_of_ready h
    have htile := (u.begun d.val c).tileX_onDeck_self d.val tl.toNat c.deck DeckRec.erasing
    rw [State.tileX_begun_of_ready h] at htile
    refine ⟨v, hexec, ?_, ?_, fun p hp => ?_, fun k _ hk => ?_, hparts⟩
    · exact (State.runningOn_of_cmds (State.cmds_of_cim hcim d.val) _).trans (State.runningOn_begun_of_ready h)
    · rw [State.tileX_of_cim hcim, htile, Tile.deck_setDeck_self]
      rfl
    · rw [State.tileX_of_cim hcim, htile, Tile.deck_setDeck, if_neg hp]
    · rw [State.tileX_of_cim hcim, State.tileX_onDeck_ne _ hk, State.tileX_begun_of_ready h]
  · obtain ⟨v, hparts, hdeck, st, hexec, hst⟩ := execTileEraseDone_of_running hrun hop [] false
    have hdone : ((v.cimpFinish d.val c st 0).tileX d.val tl.toNat).deck c.deck =
        ((s.tileX d.val tl.toNat).deck c.deck).erased [] false := by
      rw [State.tileX_cimpFinish, hdeck]
      rfl
    refine ⟨_, hexec, ?_⟩
    rw [hdone]
    refine ⟨fun _ _ => rfl, rfl, rfl, rfl, fun x hx => State.ne_of_mem_cimpFinish _ hx, ?_⟩
    rw [hst rfl rfl]
    exact State.only_trans (State.only_mono hparts (by simp)) (v.cimpFinish_only_of_lt (by decide) _ _ _)
  · obtain ⟨v, -, hdeck, st, hexec, -⟩ := execTileEraseDone_of_running hrun hop bad pulse
    refine ⟨_, hexec, ?_⟩
    rw [State.tileX_cimpFinish, hdeck, DeckRec.state_erased, if_pos (by simpa using hfails)]
  · have hrepair : u.programRepairs d.val c = if bit c.arg 3
        then (u.tileX d.val tl.toNat).autoRepair c.deck (u.fget F.CIMP_CTL_ROWTH d.val) else (u.tileX d.val tl.toNat, 0, false) := by
      rw [State.programRepairs, State.tile_of_ready h]
    rw [← hrepair] at hrep
    have htile := State.tileX_onDeck_self (((u.begun d.val c).setTile d.val tl.toNat (u.programRepairs d.val c).1).count R.CIMP_REPAIRS
      (u.programRepairs d.val c).2.1 d.val) d.val tl.toNat c.deck (DeckRec.programming c.arg)
    refine ⟨_, execTileProgram_of_repaired h hroom hrep, State.runningOn_begun_of_ready h, ?_, ?_, ?_, ?_⟩
    · rw [htile, Tile.deck_setDeck_self]
      rfl
    · rw [htile, Tile.deck_setDeck_self]
      rfl
    · rw [htile]
      exact (congrArg Tile.defects (State.tileX_setTile_self ..)).trans (congrArg (fun x => x.1.defects) hrepair)
    · simp [State.only_begun_of_ready h]
  · obtain ⟨v, hcmds, hdeck, hexec⟩ := execProgramRow_of_verified hrun hop hsusp htimed hidle hsource cells rfl rfl hlegal hheld p1 p2
    obtain ⟨hset, hkept, hstate⟩ := Tile.level_programLevels _ _ _ _ _ hdeck
    by_cases hmore : c.step + 1 < 512
    · rw [if_pos hmore] at hexec
      refine ⟨_, hexec, hset, hkept, fun _ => ⟨?_, hstate⟩, fun hlast => absurd hmore (Nat.not_lt.mpr hlast)⟩
      rw [State.cmds_setCmd, hcmds]
    · rw [if_neg hmore] at hexec
      refine ⟨_, hexec, ?_⟩
      rw [State.tileX_cimpFinish, State.deck_onDeck_self]
      exact ⟨hset, hkept, fun h => absurd h hmore, fun _ => ⟨rfl, rfl, rfl⟩⟩
  · have htile := (u.begun d.val c).tileX_setTile_self d.val tl.toNat { s.tileX d.val tl.toNat with pmap := mapsetPmap c.src }
    refine ⟨_, execTileMapset_of_ready h, ?_, ?_, fun i hi => ?_, ?_⟩
    · rw [State.tileX_cimpFinish, htile]
      rfl
    · rw [State.tileX_cimpFinish, htile]
    · rw [State.cimpFinish_of_lt _ (by decide)]
      have hslot := State.cimpSlot_begun_of_ready h i
      have hirq : (u.begun d.val c).irqCimp = s.irqCimp := State.only_begun_of_ready h .irqCimp (by simp)
      rw [← hslot, ← hirq]
      exact State.markEntry_status (c := { c with running := true }) _ hi 2 0
    · refine State.only_trans ?_ (State.cimpFinish_only_of_lt _ (by decide) _ _ _)
      exact (s.only_setTile_iff _ (by simp) ..).mpr (State.only_mono (State.only_begun_of_ready h) (by simp))
  · have hfree : (u.begun d.val c).spareOf d.val tl.toNat = some j :=
      (State.spareOf_of_tiles (u.tileX_begun d.val c d.val) _).trans hspare
    have hrole : ((u.begun d.val c).tileX d.val tl.toNat).role = 0 := by rw [State.tileX_begun_of_ready h, State.role_of_ready h]
    obtain ⟨v, hretire, hsp, hpos, hretiring, hexhausted⟩ := State.retireTile_of_spare _ (bit c.arg 0) hfree hrole
    obtain ⟨hkept, hkept'⟩ := v.cimpFinish_retired d.val { c with running := true } 2 (72 * (tl.toNat / 72) + j)
    obtain ⟨hr, he⟩ := State.retired_begun_of_ready h
    refine ⟨_, execTileRetire_of_spare h hretire, ?_, ?_, ?_, ?_⟩
    · rw [State.tileX_cimpFinish, hsp]
    · rw [State.tileX_cimpFinish, hpos, State.tileX_begun_of_ready h]
    · rw [hkept, hretiring, hr]
    · rw [hkept', hexhausted, he]
  · have hnone : (u.begun d.val c).spareOf d.val tl.toNat = none :=
      (State.spareOf_of_tiles (u.tileX_begun d.val c d.val) _).trans hspare
    obtain ⟨v, hretire, hstopped, hexhausted⟩ := State.retireTile_of_none _ (bit c.arg 0) hnone
    obtain ⟨-, hkept⟩ := v.cimpFinish_retired d.val { c with running := true } 0x18 0
    refine ⟨_, execTileRetire_of_none h hretire, ?_, ?_⟩
    · rw [State.tileX_cimpFinish, hstopped]
    · rw [hkept]
      exact hexhausted

end Sys2Proof.Machine
end

section
/-! PROOF. TOPUP and CALIBRATE in the darkroom, step by step (R230 to R232). -/

namespace Sys2Proof.Machine

section
variable {s u : State} {d : Fin 4} {tl : Half} {c : TileCmd}

/-! ### The start -/

theorem execTileTopup_of_ready (h : s.cimpReady u d.val 3 tl.toNat c) : execTileTopup d tl s = .next (u.begun d.val c) := by
  rw [execTileTopup, State.cimpStart_of_ready h]

theorem execTileCalibrate_of_ready (h : s.cimpReady u d.val 4 tl.toNat c) : execTileCalibrate d tl s = .next
    ((u.begun d.val c).setCmd d.val { c with running := true } { c with running := true, sums := List.replicate 7 0 }) := by
  rw [execTileCalibrate, State.cimpStart_of_ready h]

theorem State.tiles_begun_of_ready {op : Nat} (h : s.cimpReady u d.val op tl.toNat c) : (u.begun d.val c).cim.tiles = s.cim.tiles := by
  obtain ⟨cmds, hcim⟩ := State.cim_begun_of_ready h
  rw [hcim]

end

/-! ### A step -/

section
variable (s : State) (d : Nat) (c : TileCmd) (x : DarkFacts)

/-- A row on which no cell was found outside its level, and which is not the last. -/
theorem State.topupRow_of_clean (hmore : c.step + 1 < 512) (hclean : x.cells = []) : s.topupRow d c x =
    ((s.onDeck d c.tile c.deck id).count R.CIMP_STUCKNEW 0 d).setCmd d c
      { c with step := c.step + 1, count := satAdd 16 c.count x.pulsed, sums := [c.sums.headD 0] } := by
  have hsum : c.sums.headD 0 + ((0 : Nat) : Int) = c.sums.headD 0 := Int.add_zero _
  rw [State.topupRow, hclean]
  exact (if_pos hmore).trans (congrArg (fun z => ((s.onDeck d c.tile c.deck id).count R.CIMP_STUCKNEW 0 d).setCmd d c
    { c with step := c.step + 1, count := satAdd 16 c.count x.pulsed, sums := [z] }) hsum)

theorem State.calStep_of_trim (h : c.step < 132) : s.calStep d c x =
    s.setCmd d c { c with step := c.step + 1, trim := c.trim ++ [BitVec.ofNat 8 x.trim] } := if_pos h

/-- A deck whose calibration has ended with a fit, at a temperature and a time. -/
def DeckRec.calibrated (fit : Int × Nat) (temp : Nat) (trim : List Byte) (now : Nat) (k : DeckRec) : DeckRec :=
  { k with cal := ⟨fit.1, fit.2, temp, k.erases, trim, false⟩, calTb := now, offs := fit.1, gain := fit.2, drift := 0, state := 5 }

theorem State.calStep_of_last (hlast : c.step = 399) (hpass : x.fails = false) : s.calStep d c x =
    (s.onDeck d c.tile c.deck (DeckRec.calibrated (calFit (c.sums.getD 0 0) (c.sums.getD 1 0) (c.sums.getD 2 0))
      (s.fget F.THM_TEMP_NOW (d + 1)) c.trim s.now)).cimpFinish d c 2 0 := by
  have htrimmed : ¬c.step < 132 := by omega
  have hexposed : ¬c.step < 252 := by omega
  have hchecked : ¬c.step + 1 < 400 := by omega
  have hrun : ¬(if x.fails = true then c.sums.getD (3 + x.seg) 0 + 1 else 0) = 3 := by
    simp [hpass]
  rw [State.calStep]
  dsimp only
  rw [if_neg htrimmed, if_neg hexposed, if_neg hrun, if_neg hchecked]
  rfl

end

section
variable {s : State} {d : Fin 4} {tl : Half} {c : TileCmd}

/-- What the operands of DARKROOM_STEP say of the world. -/
def darkFacts (trim : Byte) (n : Fin 171) (lo hi : Half) (seg : Fin 4) (fails : Bool) (cells : List (Fin 544 × Fin 4)) (pulsed : Half) :
    DarkFacts :=
  { trim := trim.toNat, n := n.val, lo := lo.toNat, hi := hi.toNat, seg := seg.val, fails := fails,
    cells := cells.map (fun e => (e.1.val, e.2.val)), pulsed := pulsed.toNat }

/-- A tile in the darkroom takes the step of its command. -/
theorem execDarkroomStep_of_dark (hrun : s.runningOn d.val tl.toNat = some c) (hdark : c.out = false) (htimed : s.timedOn d.val = false)
    (trim : Byte) (n : Fin 171) (lo hi : Half) (seg : Fin 4) (fails : Bool) (cells : List (Fin 544 × Fin 4)) (pulsed : Half) :
    execDarkroomStep d tl trim n lo hi seg fails cells pulsed s = .next
      (if c.op = 3 then s.topupRow d.val c (darkFacts trim n lo hi seg fails cells pulsed)
        else if c.op = 4 then s.calStep d.val c (darkFacts trim n lo hi seg fails cells pulsed) else s) := by
  have hgo : ¬(c.out = true ∨ s.timedOn d.val = true) := by simp [hdark, htimed]
  rw [execDarkroomStep, hrun]
  dsimp only
  rw [if_neg hgo]
  rfl

/-- A tile goes back once no MVM in progress uses it (R231). -/
theorem execDarkroomReenter_of_idle (hrun : s.runningOn d.val tl.toNat = some c) (hout : c.out = true)
    (hidle : s.mvmOn d.val c.tile = false) :
    execDarkroomReenter d tl s = .next (s.setCmd d.val c { c with out := false }) := by
  have hback : (c.out && !s.mvmOn d.val c.tile) = true := by simp [hout, hidle]
  rw [execDarkroomReenter, hrun]
  exact congrArg Host.Outcome.next (if_pos hback)

end

end Sys2Proof.Machine
end

section
/-! PROOF. Calibrations that fall due and drifts that are persisted (R229, R233). -/

namespace Sys2Proof.Machine

variable {s : State} {d : Fin 4} {tl : Half}

/-- A mapped READY deck whose period has passed has a CALIBRATE queued, unless one is queued already. -/
theorem execCalibrationDue_of_aged {p : Fin 8} (hpresent : s.tilePresent tl.toNat = true)
    (hready : ((s.tileX d.val tl.toNat).deck p.val).state = 5) (hmapped : (s.tileX d.val tl.toNat).lmap.contains p.val = true)
    (hperiod : s.fget F.CIMP_DARK_PERIOD d.val ≠ 0)
    (haged : ((s.tileX d.val tl.toNat).deck p.val).calTb + s.fget F.CIMP_DARK_PERIOD d.val * 3600 * 10 ^ 9 ≤ s.now)
    (hnew : (s.cmds d.val).any (fun c => c.idx == none && c.op == 4 && c.tile == tl.toNat && c.deck == p.val) = false) :
    execCalibrationDue d tl p s = .next (s.queueOwn d.val 4 tl.toNat p.val 0) := by
  rw [execCalibrationDue]
  refine congrArg Host.Outcome.next (if_pos ?_)
  rw [hpresent, hmapped, hnew, hready, decide_eq_true haged, bne_iff_ne.mpr hperiod]
  rfl

/-- A deck whose drift index is persisted. -/
def DeckRec.persisted (k : DeckRec) : DeckRec := { k with driftKept := k.drift }

/-- A tile whose decks' drift indices are persisted at time `now`. -/
def Tile.persisted (x : Tile) (now : Nat) : Tile :=
  { x with decks := x.decks.map (fun k => (k.1, k.2.persisted)), driftTb := now + 1 }

/-- A map over a table's values reads mapped at each key. -/
theorem Sparse.get_map {α β : Type} (f : α → β) (d : Nat → α) (l : List (Nat × α)) (k : Nat) :
    Sparse.get (fun k => f (d k)) (l.map (fun e => (e.1, f e.2))) k = f (Sparse.get d l k) := by
  induction l with
  | nil => rfl
  | cons e l ih =>
    simp only [List.map_cons, Sparse.get, ih]
    split <;> rfl

theorem Tile.driftKept_persisted (x : Tile) (now p : Nat) : ((x.persisted now).deck p).driftKept = (x.deck p).drift :=
  congrArg DeckRec.driftKept (Sparse.get_map DeckRec.persisted (fun _ => DeckRec.fresh) x.decks p)

theorem execDriftPersist_of_hour (hpresent : s.tilePresent tl.toNat = true)
    (hhour : (s.tileX d.val tl.toNat).driftTb = 0 ∨ (s.tileX d.val tl.toNat).driftTb - 1 + 3600 * 10 ^ 9 ≤ s.now) :
    execDriftPersist d tl s = .next (s.setTile d.val tl.toNat ((s.tileX d.val tl.toNat).persisted s.now)) := by
  rw [execDriftPersist]
  refine congrArg Host.Outcome.next (if_neg ?_)
  rw [hpresent]
  rcases hhour with h | h
  · simp [h]
  · simpa using fun _ : ¬(s.tileX d.val tl.toNat).driftTb = 0 => h

end Sys2Proof.Machine
end

section
/-! PROOF. Writes of CIMP_SWITCH and CIMP_STATCFG (R227, R228, R237). -/

namespace Sys2Proof.Machine

variable (s : State)

/-- STREAM and ARM of CIMP_SWITCH written. -/
def State.setSwitch (s : State) (d : Nat) (st : Nat) (arm : Bool) : State :=
  (s.fset F.CIMP_SWITCH_STREAM st d).setFlag F.CIMP_SWITCH_ARM arm d

theorem State.flag_arm_setSwitch (d st : Nat) (arm : Bool) : (s.setSwitch d st arm).flag F.CIMP_SWITCH_ARM d = arm :=
  State.flag_setFlag_self _ _ _ _ _ (by decide) (by decide)

theorem State.fget_stream_setSwitch (d : Nat) {st : Nat} (h : st < 16) (arm : Bool) :
    (s.setSwitch d st arm).fget F.CIMP_SWITCH_STREAM d = st := by
  rw [State.setSwitch, State.fget_setFlag_other _ _ _ _ _ _ (by rfl) (by decide) (by decide) (by decide),
    State.fget_fset_self _ _ _ _ _ (by decide) (by decide)]
  exact Nat.mod_eq_of_lt h

theorem State.setSwitch_only (d st : Nat) (arm : Bool) : s.only (s.setSwitch d st arm) [.regs] := by simp [State.setSwitch]

theorem State.setSwitch_regsOnly (d st : Nat) (arm : Bool) : s.regsOnly (s.setSwitch d st arm) [R.CIMP_SWITCH.at d] := fun a ha => by
  have hne : a ≠ R.CIMP_SWITCH.at d := by simpa using ha
  rw [State.setSwitch, State.rd_setFlag_ne _ _ _ _ _ _ hne, State.rd_fset_ne _ _ _ _ _ _ hne]

/-- The status of a stream and a die's CIMP_SWITCH are two registers. -/
theorem State.streamRuns_setSwitch (d st k : Nat) (arm : Bool) :
    (s.setSwitch d st arm).streamRuns k = s.streamRuns k := by
  have hne : R.ACQ_ST_STAT.at k ≠ R.CIMP_SWITCH.at d := by
    simp only [RegDesc.at, R.ACQ_ST_STAT, R.CIMP_SWITCH]
    omega
  exact State.flag_of_rd (s.setSwitch_regsOnly d st arm _ fun h => hne (List.mem_singleton.mp h))

section
variable {s : State} {r : Req}

theorem getField_setField_bit31 (v : Word) (x : Nat) {lo w : Nat} (h : lo + w ≤ 31) : getField (setField v 31 1 x) lo w = getField v lo w :=
  getField_setField_disjoint _ _ _ _ _ _ (by decide) (by decide) (.inl h)

theorem bit_setField_zero (v : Word) {i : Nat} (hi : i < 32) : bit (setField v i 1 0).toNat i = false := by
  rw [bit_setField v hi (by decide) 0 i (Nat.le_refl i) (Nat.lt_succ_self i)]
  simp

/-- Arming for a stream that runs waits for its frame (R228). -/
theorem execSwitchArm_of_running (hr : s.homeReq r) (d : Fin 4) {v : Word} (hruns : s.streamRuns (getField v 0 4) = true) :
    execSwitchArm r d v s = .next (s.setSwitch d.val (getField v 0 4) true) := by
  have hstream : getField (setField v 31 1 1) 0 4 = getField v 0 4 := getField_setField_bit31 v 1 (by decide)
  have hkept := (s.streamRuns_setSwitch d.val (getField v 0 4) (getField v 0 4) true).trans hruns
  rw [execSwitchArm, State.asHome_of_homeReq hr, State.writeSwitch, hstream, bit_setField_one v (by decide)]
  exact congrArg Host.Outcome.next (if_pos hkept)

theorem execSwitchDisarm_of_homeReq (hr : s.homeReq r) (d : Fin 4) (v : Word) : execSwitchDisarm r d v s = .next
    (if s.flag F.CIMP_SWITCH_ARM d.val then (s.setSwitch d.val (getField v 0 4) false).fset F.CIMP_SWITCH_RESULT 0 d.val
      else s.setSwitch d.val (getField v 0 4) false) := by
  have hstream : getField (setField v 31 1 0) 0 4 = getField v 0 4 := getField_setField_bit31 v 0 (by decide)
  rw [execSwitchDisarm, State.asHome_of_homeReq hr, State.writeSwitch, hstream, bit_setField_zero v (by decide)]
  rfl

/-- The configuration of the statistics unit, its accumulation empty. -/
def State.startStats (s : State) (d layer count : Nat) : State :=
  let u := ((s.fset F.CIMP_STATCFG_LAYER layer d).fset F.CIMP_STATCFG_COUNT count d).setFlag F.CIMP_STATCFG_ARM true d
  { u with cim := { u.cim with stats := u.cim.stats.filter (fun e => e.1 != d) } }

theorem execStatsArm_of_homeReq (hr : s.homeReq r) (d : Fin 4) (v : Word) :
    execStatsArm r d v s = .next (s.startStats d.val (getField v 16 8) (getField v 0 16)) := by
  have hlayer : getField (setField v 31 1 1) 16 8 = getField v 16 8 := getField_setField_bit31 v 1 (by decide)
  have hcount : getField (setField v 31 1 1) 0 16 = getField v 0 16 := getField_setField_bit31 v 1 (by decide)
  rw [execStatsArm, State.asHome_of_homeReq hr, State.writeStatCfg, hlayer, hcount, bit_setField_one v (by decide)]
  rfl

end

/-- The fields of CIMP_STATCFG as a start of the unit leaves them. -/
theorem State.fields_startStats (d : Nat) {layer count : Nat} (hl : layer < 2 ^ 8) (hc : count < 2 ^ 16) :
    (s.startStats d layer count).flag F.CIMP_STATCFG_ARM d = true ∧ (s.startStats d layer count).fget F.CIMP_STATCFG_LAYER d = layer ∧
    (s.startStats d layer count).fget F.CIMP_STATCFG_COUNT d = count := by
  refine ⟨State.flag_setFlag_self _ F.CIMP_STATCFG_ARM true d 0 (by decide) (by decide),
    (State.fget_setFlag_other _ F.CIMP_STATCFG_ARM F.CIMP_STATCFG_LAYER true d 0 (by rfl) (by decide) (by decide) (by decide)).trans ?_,
    (State.fget_setFlag_other _ F.CIMP_STATCFG_ARM F.CIMP_STATCFG_COUNT true d 0 (by rfl) (by decide) (by decide) (by decide)).trans ?_⟩
  · rw [State.fget_fset_other _ _ _ _ _ _ (by rfl) (by decide) (by decide) (by decide), State.fget_fset_self _ _ _ _ _ (by decide) (by decide)]
    exact Nat.mod_eq_of_lt hl
  · rw [State.fget_fset_self _ _ _ _ _ (by decide) (by decide)]
    exact Nat.mod_eq_of_lt hc

theorem State.startStats_only (d layer count : Nat) : s.only (s.startStats d layer count) [.regs, .cim] := by
  refine (State.only_cim_iff _ _ (by simp) _).mpr ?_
  simp

theorem State.startStats_regsOnly (d layer count : Nat) : s.regsOnly (s.startStats d layer count) [R.CIMP_STATCFG.at d] := fun a ha => by
  have hne : a ≠ R.CIMP_STATCFG.at d := by simpa using ha
  exact (State.rd_setFlag_ne _ F.CIMP_STATCFG_ARM true d 0 a hne).trans ((State.rd_fset_ne _ F.CIMP_STATCFG_COUNT count d 0 a hne).trans
    (s.rd_fset_ne F.CIMP_STATCFG_LAYER layer d 0 a hne))

theorem State.find?_startStats (d layer count : Nat) : (s.startStats d layer count).cim.stats.find? (fun e => e.1 == d) = none := by
  refine List.find?_eq_none.mpr fun e he => ?_
  simpa using List.of_mem_filter he

end Sys2Proof.Machine
end

section
/-! PROOF. The deck-map switch on every armed die (R227, R228, R240). -/

namespace Sys2Proof.Machine

/-! ### Tables -/

/-- A write of a key that a test on keys leaves out changes no entry that it keeps. -/
theorem Sparse.filter_put {α : Type} [DecidableEq α] (f : Nat → α) {q : Nat → Bool} {k : Nat} (h : q k = false) (l : List (Nat × α))
    (v : α) : (Sparse.put f l k v).filter (fun e => q e.1) = l.filter (fun e => q e.1) := by
  have hdrop : (Sparse.drop l k).filter (fun e => q e.1) = l.filter (fun e => q e.1) := by
    rw [Sparse.drop, List.filter_filter]
    refine List.filter_congr fun e _ => ?_
    by_cases he : e.1 = k
    · simp [he, h]
    · simp [he]
  have hinsert (l : List (Nat × α)) : (Sparse.insert l k v).filter (fun e => q e.1) = l.filter (fun e => q e.1) := by
    induction l with
    | nil => simp [Sparse.insert, h]
    | cons e l ih =>
      rw [Sparse.insert]
      split
      · simp [List.filter_cons, h]
      · rw [List.filter_cons, List.filter_cons, ih]
  rw [Sparse.put]
  split
  · exact hdrop
  · exact (hinsert _).trans hdrop

/-! ### Tiles that adopt PMAP -/

/-- From `s` to `t` every PMAP stays, and a tile whose LMAP follows its PMAP still does. -/
def State.keepsMaps (s t : State) : Prop :=
  ∀ d k, (t.tileX d k).pmap = (s.tileX d k).pmap ∧ ((s.tileX d k).lmap = (s.tileX d k).pmap → (t.tileX d k).lmap = (t.tileX d k).pmap)

theorem State.keepsMaps_refl (s : State) : s.keepsMaps s := fun _ _ => ⟨rfl, id⟩

theorem State.keepsMaps_trans {s t u : State} (h : s.keepsMaps t) (h' : t.keepsMaps u) : s.keepsMaps u := fun d k =>
  ⟨(h' d k).1.trans (h d k).1, fun hs => (h' d k).2 ((h d k).2 hs)⟩

variable (s : State)

/-- A tile by its place among all dies. -/
theorem State.tileX_setTile_any (d k d' j : Nat) (x : Tile) :
    (s.setTile d k x).tileX d' j = if d' * 1152 + j = d * 1152 + k then x else s.tileX d' j := Sparse.get_put ..

theorem State.tileX_of_place_eq {d k d' j : Nat} (h : d' * 1152 + j = d * 1152 + k) : s.tileX d' j = s.tileX d k := by
  rw [State.tileX, State.tileX, h]

theorem State.keepsMaps_setTile {d k : Nat} {x : Tile} (hp : x.pmap = (s.tileX d k).pmap)
    (hl : (s.tileX d k).lmap = (s.tileX d k).pmap → x.lmap = x.pmap) : s.keepsMaps (s.setTile d k x) := fun d' j => by
  rw [State.tileX_setTile_any]
  split
  · next h =>
    rw [s.tileX_of_place_eq h]
    exact ⟨hp, hl⟩
  · exact ⟨rfl, id⟩

/-- Tile `k` of die `d` with its PMAP as its LMAP. -/
def State.adoptMap (s : State) (d k : Nat) : State := s.setTile d k { s.tileX d k with lmap := (s.tileX d k).pmap }

theorem State.adoptMap_keepsMaps (d k : Nat) : s.keepsMaps (s.adoptMap d k) := s.keepsMaps_setTile rfl fun _ => rfl

theorem State.lmap_adoptMap (d k : Nat) : ((s.adoptMap d k).tileX d k).lmap = ((s.adoptMap d k).tileX d k).pmap := by
  rw [State.adoptMap, State.tileX_setTile_self]

/-- Every tile of a list, of die `d`. -/
def State.adoptMaps (s : State) (d : Nat) (ks : List Nat) : State := ks.foldl (fun s k => s.adoptMap d k) s

theorem State.adoptMaps_keepsMaps (d : Nat) (ks : List Nat) : s.keepsMaps (s.adoptMaps d ks) :=
  List.foldlRecOn (motive := fun u : State => s.keepsMaps u) _ _ s.keepsMaps_refl fun u hu k _ =>
    State.keepsMaps_trans hu (u.adoptMap_keepsMaps d k)

theorem State.lmap_adoptMaps {d k : Nat} {ks : List Nat} (h : k ∈ ks) :
    ((s.adoptMaps d ks).tileX d k).lmap = ((s.adoptMaps d ks).tileX d k).pmap := by
  induction ks generalizing s with
  | nil => cases h
  | cons j ks ih =>
    obtain rfl | h := List.mem_cons.mp h
    · exact ((s.adoptMap d k).adoptMaps_keepsMaps d ks d k).2 (s.lmap_adoptMap d k)
    · exact ih (s.adoptMap d j) h

/-- The tiles of another die are listed as before. -/
theorem State.pendingTiles_adoptMaps {d d' : Nat} (hd : d' ≠ d) {ks : List Nat} (hks : ∀ k ∈ ks, k < 1152) :
    (s.adoptMaps d ks).pendingTiles d' = s.pendingTiles d' := by
  induction ks generalizing s with
  | nil => rfl
  | cons k ks ih =>
    obtain ⟨hk, hks⟩ := List.forall_mem_cons.mp hks
    refine (ih (s.adoptMap d k) hks).trans ?_
    have hplace : ((d * 1152 + k) / 1152 == d') = false := by
      rw [beq_eq_false_iff_ne]
      omega
    have hfilter := Sparse.filter_put (fun k => Tile.fresh (k % 1152)) (q := fun k => k / 1152 == d') hplace s.cim.tiles
      { s.tileX d k with lmap := (s.tileX d k).pmap }
    have hpending (l : List (Nat × Tile)) : l.filter (fun x => x.1 / 1152 == d' && (x.2.pmap != x.2.lmap || x.2.role == 2)) =
        (l.filter (fun x => x.1 / 1152 == d')).filter (fun x => x.2.pmap != x.2.lmap || x.2.role == 2) := by
      rw [List.filter_filter]
      exact List.filter_congr fun x _ => Bool.and_comm ..
    rw [State.pendingTiles, State.pendingTiles, hpending, hpending]
    exact congrArg (fun l : List (Nat × Tile) => (l.filter (fun x => x.2.pmap != x.2.lmap || x.2.role == 2)).map (fun x => x.1 % 1152))
      hfilter

theorem State.pendingTiles_of_cim {s t : State} (h : t.cim = s.cim) (d : Nat) : t.pendingTiles d = s.pendingTiles d := by
  rw [State.pendingTiles, State.pendingTiles, h]

theorem State.lt_of_mem_pendingTiles {d k : Nat} (h : k ∈ s.pendingTiles d) : k < 1152 := by
  obtain ⟨x, -, rfl⟩ := List.mem_map.mp h
  exact Nat.mod_lt _ (by decide)

/-- Every pending tile of each die of a list. -/
def State.adoptPending (s : State) (dies : List Nat) : State := dies.foldl (fun s d => s.adoptMaps d (s.pendingTiles d)) s

theorem State.adoptPending_keepsMaps (dies : List Nat) : s.keepsMaps (s.adoptPending dies) :=
  List.foldlRecOn (motive := fun u : State => s.keepsMaps u) _ _ s.keepsMaps_refl fun u hu d _ =>
    State.keepsMaps_trans hu (u.adoptMaps_keepsMaps d _)

/-- Die by die, each pending tile's LMAP becomes its PMAP (R227). -/
theorem State.lmap_adoptPending {dies : List Nat} (hdies : dies.Nodup) {d k : Nat} (hd : d ∈ dies) (hk : k ∈ s.pendingTiles d) :
    ((s.adoptPending dies).tileX d k).lmap = ((s.adoptPending dies).tileX d k).pmap := by
  induction dies generalizing s with
  | nil => cases hd
  | cons e dies ih =>
    obtain ⟨he, hdies⟩ := List.nodup_cons.mp hdies
    obtain rfl | hd := List.mem_cons.mp hd
    · exact ((s.adoptMaps d (s.pendingTiles d)).adoptPending_keepsMaps dies d k).2 (s.lmap_adoptMaps hk)
    · have hne : d ≠ e := fun h => he (h ▸ hd)
      refine ih (s.adoptMaps e (s.pendingTiles e)) hdies hd ?_
      rwa [s.pendingTiles_adoptMaps hne fun k hk => s.lt_of_mem_pendingTiles hk]

/-! ### Tiles that retire with the switch (R240) -/

/-- The spare is in service and the tile it replaces is retired. -/
def State.retireOne (s : State) (r : Nat × Nat × Nat) : State :=
  let u := s.setTile r.1 r.2.2 { s.tileX r.1 r.2.2 with role := 0 }
  (u.setTile r.1 r.2.1 { u.tileX r.1 r.2.1 with role := 3, stopped := false }).count R.CIMP_RETIRED 1 r.1

def State.retireAll (s : State) (rs : List (Nat × Nat × Nat)) : State := rs.foldl State.retireOne s

theorem State.retireOne_keepsMaps (r : Nat × Nat × Nat) : s.keepsMaps (s.retireOne r) :=
  State.keepsMaps_trans (s.keepsMaps_setTile (d := r.1) (k := r.2.2) (x := { s.tileX r.1 r.2.2 with role := 0 }) rfl id)
    (State.keepsMaps_setTile _ rfl id)

theorem State.retireAll_keepsMaps (rs : List (Nat × Nat × Nat)) : s.keepsMaps (s.retireAll rs) :=
  List.foldlRecOn (motive := fun u : State => s.keepsMaps u) _ _ s.keepsMaps_refl fun u hu r _ =>
    State.keepsMaps_trans hu (u.retireOne_keepsMaps r)

/-! ### What a switch answers -/

/-- ARM cleared and RESULT written on each die of a list. -/
def State.answerSwitch (s : State) (ok : Bool) (dies : List Nat) : State :=
  dies.foldl (fun s d => (s.setFlag F.CIMP_SWITCH_ARM false d).fset F.CIMP_SWITCH_RESULT (if ok then 1 else 2) d) s

theorem State.answerSwitch_only (ok : Bool) (dies : List Nat) : s.only (s.answerSwitch ok dies) [.regs] :=
  List.foldlRecOn (motive := fun u : State => s.only u [.regs]) _ _ (s.only_refl _) fun u hu d _ =>
    State.only_trans hu (by simp)

/-- Die `d` is no longer armed, and its RESULT says whether the switch was applied. -/
def State.answered (s : State) (ok : Bool) (d : Nat) : Prop :=
  s.flag F.CIMP_SWITCH_ARM d = false ∧ s.fget F.CIMP_SWITCH_RESULT d = if ok then 1 else 2

theorem State.answered_of_rd {s t : State} {ok : Bool} {d : Nat} (h : t.rd (R.CIMP_SWITCH.at d) = s.rd (R.CIMP_SWITCH.at d)) :
    t.answered ok d ↔ s.answered ok d := by
  have harm : t.flag F.CIMP_SWITCH_ARM d = s.flag F.CIMP_SWITCH_ARM d := State.flag_of_rd h
  have hresult : t.fget F.CIMP_SWITCH_RESULT d = s.fget F.CIMP_SWITCH_RESULT d := State.fget_of_rd h
  rw [State.answered, State.answered, harm, hresult]

theorem State.answered_self (ok : Bool) (d : Nat) :
    ((s.setFlag F.CIMP_SWITCH_ARM false d).fset F.CIMP_SWITCH_RESULT (if ok then 1 else 2) d).answered ok d := by
  constructor
  · rw [State.flag_fset_other _ _ _ _ _ _ (by rfl) (by decide) (by decide) (by decide), State.flag_setFlag_self _ _ _ _ _ (by decide) (by decide)]
  · rw [State.fget_fset_self _ _ _ _ _ (by decide) (by decide)]
    cases ok <;> rfl

theorem switch_at_ne {d e : Nat} (h : d ≠ e) : R.CIMP_SWITCH.at d ≠ R.CIMP_SWITCH.at e := by
  simp only [RegDesc.at, R.CIMP_SWITCH]
  omega

theorem State.answered_answerSwitch {ok : Bool} {dies : List Nat} {d : Nat} (h : d ∈ dies ∨ s.answered ok d) :
    (s.answerSwitch ok dies).answered ok d := by
  induction dies generalizing s with
  | nil => exact h.resolve_left (by simp)
  | cons e dies ih =>
    refine ih _ ?_
    by_cases he : d = e
    · exact .inr (he ▸ s.answered_self ok d)
    · refine h.imp (fun hmem => (List.mem_cons.mp hmem).resolve_left he) fun hs => (State.answered_of_rd ?_).mpr hs
      rw [State.rd_fset_ne _ _ _ _ _ _ (switch_at_ne he), State.rd_setFlag_ne _ _ _ _ _ _ (switch_at_ne he)]

/-! ### The switch -/

/-- The tiles' part of a switch that is applied on the dies of a list. -/
def State.switchTiles (s : State) (dies : List Nat) : State :=
  let u := (s.adoptPending dies).retireAll ((s.adoptPending dies).cim.retiring.filter (fun r => dies.contains r.1))
  { u with cim := { u.cim with retiring := u.cim.retiring.filter (fun r => !dies.contains r.1) } }

/-- Whether every pending deck of die `d` is READY (R227). -/
def State.switchReady (s : State) (d : Nat) : Bool :=
  (s.pendingTiles d).all (fun k => (s.tileX d k).pmap.all (fun p => p == 0xFF || ((s.tileX d k).deck p).state == 5))

theorem State.all_switchReady_iff {dies : List Nat} : dies.all s.switchReady = true ↔
    ∀ d k, d ∈ dies → k ∈ s.pendingTiles d → (s.tileX d k).pmap.all (fun p => p == 0xFF || ((s.tileX d k).deck p).state == 5) = true :=
  ⟨fun h d k hd hk => List.all_eq_true.mp (List.all_eq_true.mp h d hd) k hk,
    fun h => List.all_eq_true.mpr fun d hd => List.all_eq_true.mpr fun k hk => h d k hd hk⟩

theorem State.deckSwitch_eq (st : Nat) : s.deckSwitch st =
    if (s.armedDies st).any s.timedOn then s
    else if !(s.armedDies st).all s.switchReady then s.answerSwitch ((s.armedDies st).all s.switchReady) (s.armedDies st)
    else (s.answerSwitch ((s.armedDies st).all s.switchReady) (s.armedDies st)).switchTiles (s.armedDies st) := rfl

theorem State.switchTiles_only (dies : List Nat) : s.only (s.switchTiles dies) [.regs, .cim] := by
  have hadopt : s.only (s.adoptPending dies) [.regs, .cim] :=
    List.foldlRecOn (motive := fun u : State => s.only u [.regs, .cim]) _ _ (s.only_refl _) fun _ hu _ _ =>
      List.foldlRecOn (motive := fun u : State => s.only u [.regs, .cim]) _ _ hu fun v hv k _ => (s.only_setTile_iff v (by simp) _ _ _).mpr hv
  refine (State.only_cim_iff _ _ (by simp) _).mpr ?_
  refine List.foldlRecOn (motive := fun u : State => s.only u [.regs, .cim]) _ _ hadopt fun u hu r _ => ?_
  simpa [State.retireOne] using hu

theorem State.retiring_adoptPending (dies : List Nat) : (s.adoptPending dies).cim.retiring = s.cim.retiring :=
  List.foldlRecOn (motive := fun u : State => u.cim.retiring = s.cim.retiring) _ _ rfl fun _ hu _ _ =>
    List.foldlRecOn (motive := fun u : State => u.cim.retiring = s.cim.retiring) _ _ hu fun _ hv _ _ => hv

theorem State.retiring_switchTiles (dies : List Nat) :
    (s.switchTiles dies).cim.retiring = s.cim.retiring.filter (fun r => !dies.contains r.1) := by
  have hretire (u : State) (rs : List (Nat × Nat × Nat)) : (u.retireAll rs).cim.retiring = u.cim.retiring :=
    List.foldlRecOn (motive := fun v : State => v.cim.retiring = u.cim.retiring) _ _ rfl fun _ hv _ _ => hv
  exact congrArg (List.filter fun r => !dies.contains r.1) ((hretire _ _).trans (s.retiring_adoptPending dies))

/-- Only CIMP_RETIRED counts on. -/
theorem State.rd_switch_switchTiles (dies : List Nat) (d : Nat) : (s.switchTiles dies).rd (R.CIMP_SWITCH.at d) = s.rd (R.CIMP_SWITCH.at d) := by
  have hne (e : Nat) : R.CIMP_SWITCH.at d ≠ R.CIMP_RETIRED.at e := by
    simp only [RegDesc.at, R.CIMP_SWITCH, R.CIMP_RETIRED]
    omega
  have hadopt : (s.adoptPending dies).rd (R.CIMP_SWITCH.at d) = s.rd (R.CIMP_SWITCH.at d) :=
    List.foldlRecOn (motive := fun u : State => u.rd (R.CIMP_SWITCH.at d) = s.rd (R.CIMP_SWITCH.at d)) _ _ rfl fun _ hu _ _ =>
      List.foldlRecOn (motive := fun u : State => u.rd (R.CIMP_SWITCH.at d) = s.rd (R.CIMP_SWITCH.at d)) _ _ hu fun _ hv _ _ => hv
  exact List.foldlRecOn (motive := fun u : State => u.rd (R.CIMP_SWITCH.at d) = s.rd (R.CIMP_SWITCH.at d)) _ _ hadopt fun u hu r _ =>
    (State.rd_count_ne _ _ _ _ _ _ (hne r.1)).trans hu

/-- Each pending tile's LMAP becomes its PMAP, on every die of the list (R227). -/
theorem State.lmap_switchTiles {dies : List Nat} (hdies : dies.Nodup) {d k : Nat} (hd : d ∈ dies) (hk : k ∈ s.pendingTiles d) :
    ((s.switchTiles dies).tileX d k).lmap = (s.tileX d k).pmap := by
  have hretire := State.retireAll_keepsMaps (s.adoptPending dies) ((s.adoptPending dies).cim.retiring.filter (fun r => dies.contains r.1))
  have hkeeps := State.keepsMaps_trans (s.adoptPending_keepsMaps dies) hretire
  exact ((hretire d k).2 (s.lmap_adoptPending hdies hd hk)).trans (hkeeps d k).1

theorem State.nodup_armedDies (st : Nat) : (s.armedDies st).Nodup := List.Nodup.filter _ List.nodup_range

section
variable {s : State} {st : Fin 16}

theorem execDeckMapSwitch_of_stopped (hstopped : s.streamRuns st.val = false) (huntimed : ∀ d, d ∈ s.armedDies st.val → s.timedOn d = false) :
    execDeckMapSwitch st s = .next (if (s.armedDies st.val).all s.switchReady
      then (s.answerSwitch true (s.armedDies st.val)).switchTiles (s.armedDies st.val)
      else s.answerSwitch false (s.armedDies st.val)) := by
  have hidle : ¬(s.armedDies st.val).any s.timedOn = true := by simpa using huntimed
  rw [execDeckMapSwitch, hstopped, State.deckSwitch_eq, if_neg hidle]
  cases (s.armedDies st.val).all s.switchReady <;> rfl

end

end Sys2Proof.Machine
end

section
/-! PROOF. The obligation of spec/07 on the darkroom, drift, the deck-map switch and the statistics unit (R227 to R233, R237). -/

namespace Sys2Proof.Machine

/-- Settles O44: the darkroom by the command that runs there, the writes by their fields, the switch by whether every pending deck is
READY. -/
theorem darkroomSwitchesAndStatistics : Obligations.DarkroomSwitchesAndStatistics := by
  refine ⟨fun d tl s u c h => ?_, fun d tl s u c h => ?_,
    fun d tl trim n lo hi seg fails cells pulsed s c hrun hdark htimed =>
      ⟨fun hop hmore hclean => ?_, fun hop htrim => ?_, fun hop hlast hpass => ?_⟩,
    fun d tl s c hrun hout hidle => ?_, fun d tl p s hpresent hready hmapped hperiod haged hnew => ?_,
    fun d tl s hpresent hhour => ?_, fun r d v s hr hruns => ?_, fun r d v s hr => ?_,
    fun st s hstopped huntimed => ?_, fun r d v s hr => ?_⟩
  · exact ⟨_, execTileTopup_of_ready h, State.runningOn_begun_of_ready h, State.tiles_begun_of_ready h, State.only_begun_of_ready h⟩
  · have htile := State.tile_of_ready h
    refine ⟨_, execTileCalibrate_of_ready h, State.tiles_begun_of_ready h, ?_, ?_⟩
    · exact (s.only_setCmd_iff _ (by simp) ..).mpr (State.only_begun_of_ready h)
    · exact State.runningOn_setCmd_of_some (State.runningOn_begun_of_ready h) rfl htile
  · obtain ⟨htile, -⟩ := State.tile_of_runningOn hrun
    have hexec := execDarkroomStep_of_dark hrun hdark htimed trim n lo hi seg fails cells pulsed
    rw [if_pos hop, State.topupRow_of_clean _ _ _ _ hmore (by rw [hclean]; rfl)] at hexec
    refine ⟨_, hexec, State.cmds_setCmd .., ?_⟩
    rw [← htile]
    exact congrArg DeckRec.cells (s.deck_onDeck_self d.val c.tile c.deck id)
  · have hexec := execDarkroomStep_of_dark hrun hdark htimed trim n lo hi seg fails cells pulsed
    rw [if_neg (by omega), if_pos hop, State.calStep_of_trim _ _ _ _ htrim] at hexec
    refine ⟨_, hexec, ?_, rfl, ?_⟩
    · simp
    · rw [State.cmds_setCmd]
      simp [darkFacts]
  · obtain ⟨htile, -⟩ := State.tile_of_runningOn hrun
    have hexec := execDarkroomStep_of_dark hrun hdark htimed trim n lo hi seg fails cells pulsed
    rw [if_neg (by omega), if_pos hop, State.calStep_of_last _ _ _ _ hlast hpass, htile] at hexec
    refine ⟨_, hexec, ?_, fun x hx => State.ne_of_mem_cimpFinish _ hx⟩
    rw [State.tileX_cimpFinish, State.deck_onDeck_self]
    exact ⟨rfl, rfl, rfl, rfl, rfl, rfl, rfl, rfl, rfl⟩
  · refine ⟨_, execDarkroomReenter_of_idle hrun hout (State.mvmOn_eq_false hidle), ?_, State.cmds_setCmd ..⟩
    simp
  · refine ⟨_, execCalibrationDue_of_aged hpresent hready hmapped hperiod haged hnew, State.cmds_setCmds .., ?_⟩
    simp
  · have htile := s.tileX_setTile_self d.val tl.toNat ((s.tileX d.val tl.toNat).persisted s.now)
    refine ⟨_, execDriftPersist_of_hour hpresent hhour, ?_, ?_, fun p => ?_⟩
    · simp
    · rw [htile]
      rfl
    · rw [htile]
      exact Tile.driftKept_persisted ..
  · exact ⟨_, execSwitchArm_of_running hr d hruns, s.flag_arm_setSwitch .., s.fget_stream_setSwitch _ (getField_lt v 0 4) _,
      s.setSwitch_only _ _ _, s.setSwitch_regsOnly _ _ _⟩
  · refine ⟨_, execSwitchDisarm_of_homeReq hr d v, ?_⟩
    by_cases hwas : s.flag F.CIMP_SWITCH_ARM d.val = true
    · rw [if_pos hwas]
      refine ⟨?_, fun _ => ?_, ?_, ?_⟩
      · rw [State.flag_fset_other _ _ _ _ _ _ (by rfl) (by decide) (by decide) (by decide), State.flag_arm_setSwitch]
      · rw [State.fget_fset_self _ _ _ _ _ (by decide) (by decide)]
        rfl
      · exact (s.only_fset_iff _ (by simp) ..).mpr (s.setSwitch_only _ _ _)
      · exact State.regsOnly_trans (s.setSwitch_regsOnly _ _ _) fun a ha => State.rd_fset_ne _ _ _ _ _ _ fun h => ha (List.mem_singleton.mpr h)
    · rw [if_neg hwas]
      exact ⟨s.flag_arm_setSwitch .., fun h => absurd h hwas, s.setSwitch_only _ _ _, s.setSwitch_regsOnly _ _ _⟩
  · have hparts (ok : Bool) : s.only (s.answerSwitch ok (s.armedDies st.val)) [.regs, .cim] :=
      State.only_mono (s.answerSwitch_only ok _) (by simp)
    have hcim (ok : Bool) : (s.answerSwitch ok (s.armedDies st.val)).cim = s.cim := s.answerSwitch_only ok _ .cim (by simp)
    refine ⟨_, execDeckMapSwitch_of_stopped hstopped huntimed, ?_⟩
    by_cases hready : (s.armedDies st.val).all s.switchReady = true
    · have hanswered (d : Nat) (hd : d ∈ s.armedDies st.val) :=
        (State.answered_of_rd (State.rd_switch_switchTiles _ (s.armedDies st.val) d)).mpr (s.answered_answerSwitch (ok := true) (.inl hd))
      rw [if_pos hready]
      refine ⟨fun d hd => (hanswered d hd).1, fun _ => ⟨fun d hd => ⟨(hanswered d hd).2, fun k hk => ?_⟩, ?_⟩,
        fun ⟨d, k, hd, hk, hpending⟩ => ?_, State.only_trans (hparts true) (State.switchTiles_only _ _)⟩
      · rw [← State.pendingTiles_of_cim (hcim true)] at hk
        rw [State.lmap_switchTiles _ (s.nodup_armedDies _) hd hk, State.tileX_of_cim (hcim true)]
      · rw [State.retiring_switchTiles, hcim]
      · exact absurd (s.all_switchReady_iff.mp hready d k hd hk) (by rw [hpending]; decide)
    · have hanswered (d : Nat) (hd : d ∈ s.armedDies st.val) := s.answered_answerSwitch (ok := false) (.inl hd)
      rw [if_neg hready]
      exact ⟨fun d hd => (hanswered d hd).1, fun hall => absurd (s.all_switchReady_iff.mpr hall) hready,
        fun _ => ⟨hcim false, fun d hd => (hanswered d hd).2⟩, hparts false⟩
  · obtain ⟨harm, hlayer, hcount⟩ := s.fields_startStats d.val (getField_lt v 16 8) (getField_lt v 0 16)
    exact ⟨_, execStatsArm_of_homeReq hr d v, harm, hlayer, hcount, s.find?_startStats .., s.startStats_only _ _ _, s.startStats_regsOnly _ _ _⟩

end Sys2Proof.Machine
end

section
/-! PROOF. What a halt leaves of the registers above those of the streams, DME_STAT's bits of a retirement among them (R181, R272). -/

namespace Sys2Proof.Machine

variable (s : State)

/-! ### Registers above those of the streams -/

theorem not_mem_cardRegs_of_lt {a : Nat} (h : a < R.LDG_CARDNO.at) : a ∉ cardRegs := fun hmem => by
  have hlow : ∀ b ∈ cardRegs, R.LDG_CARDNO.at ≤ b := by decide
  exact absurd h (Nat.not_lt.mpr (hlow a hmem))

theorem State.rd_card {a : Nat} (h : a ∉ cardRegs) (c : CardArgs) : (s.card c).rd a = s.rd a :=
  State.regsOnly_iff_regsBut.mpr (s.regsBut_card (List.Subset.refl _) c) a h

section
variable {a : Nat} (ha : R.ENG_BELL.at 511 < a)
include ha

theorem ne_crReg_of_high {q : RegDesc} (hq : q ∈ crRegs) {n : Nat} (hn : n < 64) : a ≠ q.at n := by
  have hcr := (crRegs_range hq hn).2
  have hbell : R.MEM_CONFBANK.at < R.ENG_BELL.at 511 := by decide
  omega

theorem State.rd_ring_of_high {b : Nat} (hb : b < 512) (inc : Nat) : (s.ring b inc).rd a = s.rd a := by
  have hat := R.ENG_BELL.at_mono (show b ≤ 511 by omega) (Nat.le_refl 0)
  exact s.rd_fset_ne F.ENG_BELL_VALUE _ _ _ _ (by simp only [F.ENG_BELL_VALUE]; omega)

theorem State.rd_completeFront_of_high {n : Nat} (hn : n < 64) (len : Nat) (rest : List Arrival) :
    (s.completeFront n len rest).rd a = s.rd a := by
  have hcounts (t : State) (v : Nat) : ((t.rset R.MEM_CR_HEAD v n).countWrap R.MEM_CR_ARRIVE 1 n).rd a = t.rd a := by
    rw [State.rd_countWrap_ne _ _ _ _ _ _ (ne_crReg_of_high ha (by decide) hn), State.rd_rset_ne _ _ _ _ _ _ (ne_crReg_of_high ha (by decide) hn)]
  unfold State.completeFront
  dsimp only
  split
  · rw [State.rd_ring_of_high _ ha (getField_lt _ _ _), hcounts]
    rfl
  · exact hcounts _ _

theorem State.rd_retireArrivals_of_high {n : Nat} (hn : n < 64) (fuel : Nat) : (s.retireArrivals n fuel).rd a = s.rd a := by
  induction fuel generalizing s with
  | zero => rfl
  | succ fuel ih =>
    cases hopened : (s.region n).opened with
    | nil => rw [State.retireArrivals_of_none hopened, State.rd_endClearing _ (ne_crReg_of_high ha (by decide) hn)]
    | cons x rest =>
      cases hdone : x.done with
      | false => simp [State.retireArrivals, hopened, hdone]
      | true =>
        cases hkept : x.abandoned with
        | false => rw [State.retireArrivals_of_done hopened hdone hkept, ih, State.rd_completeFront_of_high _ ha hn]
        | true =>
          rw [State.retireArrivals, hopened]
          simp only [hdone, hkept, Bool.not_true, Bool.false_eq_true, if_false, if_true]
          rw [ih, State.rd_count_ne _ _ _ _ _ _ (ne_crReg_of_high ha (by decide) hn),
            State.rd_rset_ne _ _ _ _ _ _ (ne_crReg_of_high ha (by decide) hn)]
          rfl

theorem State.rd_abandonArrivals_of_high (unit : Nat) : (s.abandonArrivals unit).rd a = s.rd a := by
  refine List.foldlRecOn (motive := fun u : State => u.rd a = s.rd a) _ _ rfl fun u hu n hn => ?_
  dsimp only
  split
  · rw [State.rd_retireArrivals_of_high _ ha (List.mem_range.mp hn), ← hu]
    rfl
  · exact hu

/-- The halt of a program writes no register above the bells but those of its report card. -/
theorem State.rd_haltProg_of_high (hcard : a ∉ cardRegs) {n : Nat} (hn : n < 22) (p : Prog) (reason slot handle vaddr : Nat) :
    (s.haltProg n p reason slot handle vaddr).rd a = s.rd a := by
  have hhalt : a ≠ R.ENG_S_HALT.at n ∧ a ≠ R.ENG_S_HALTPC.at n := by
    simp only [RegDesc.at, R.ENG_BELL, R.ENG_S_HALT, R.ENG_S_HALTPC] at ha ⊢
    omega
  have hshow : ((s.abandonArrivals n).showHalt n p reason slot).rd a = s.rd a := by
    rw [State.showHalt, State.rd_rset_ne _ _ _ _ _ _ hhalt.2, State.rd_rset_ne _ _ _ _ _ _ hhalt.1, State.rd_abandonArrivals_of_high _ ha]
  have hcompletion := (State.rd_of_only (((s.abandonArrivals n).showHalt n p reason slot).addCompletion_only n p 1 reason p.pc)
    (by simp) a).trans hshow
  rw [s.haltProg_eq, State.rd_of_only (State.dropStarts_only _ _ _) (by simp), State.rd_of_only (State.setStream_only _ _ _) (by simp),
    State.reportHalt]
  split
  · exact hcompletion
  · rw [State.rd_card _ hcard]
    exact hcompletion

end

/-! ### The bits of a core's retirement -/

theorem dmeStat_at_ne {j k : Nat} (h : j ≠ k) : R.DME_STAT.at j ≠ R.DME_STAT.at k := by
  simp only [RegDesc.at, R.DME_STAT]
  omega

theorem dmeStat_high (k : Nat) : R.ENG_BELL.at 511 < R.DME_STAT.at k := by
  simp only [RegDesc.at, R.DME_STAT, R.ENG_BELL]
  omega

theorem dmeStat_not_mem_cardRegs {k : Nat} (hk : k < 8) : R.DME_STAT.at k ∉ cardRegs := by
  refine not_mem_cardRegs_of_lt ?_
  simp only [RegDesc.at, R.DME_STAT, R.LDG_CARDNO]
  omega

section
variable {f : Fld} (hreg : f.reg = R.DME_STAT) (hlo : 28 < f.lo)
include hreg hlo

/-- The end of an operation writes LOCKED and BUSY alone of DME_STAT. -/
theorem State.flag_unlockLines (j k : Nat) : (s.unlockLines j).flag f k = s.flag f k := by
  unfold State.unlockLines
  dsimp only
  by_cases hj : k = j
  · subst hj
    rw [State.flag_setFlag_other _ F.DME_STAT_BUSY f _ _ _ hreg (by decide) (by decide) (.inr hlo),
      State.flag_fset_other _ F.DME_STAT_LOCKED f _ _ _ hreg (by decide) (by decide) (.inr (by simp only [F.DME_STAT_LOCKED]; omega))]
    rfl
  · have hne : f.reg.at k ≠ R.DME_STAT.at j := by
      rw [hreg]
      exact dmeStat_at_ne hj
    rw [State.flag_setFlag_ne _ F.DME_STAT_BUSY _ _ _ _ _ _ hne, State.flag_fset_ne _ F.DME_STAT_LOCKED _ _ _ _ _ _ hne]
    rfl

theorem State.flag_unlockProg (n : Nat) (p : Prog) (k : Nat) : (s.unlockProg n p).flag f k = s.flag f k := by
  unfold State.unlockProg
  split
  · rfl
  · exact List.foldlRecOn (motive := fun u : State => u.flag f k = s.flag f k) _ _ rfl fun u hu j _ =>
      (u.flag_unlockLines hreg hlo j k).trans hu

theorem State.flag_halt {n k : Nat} (hn : n < 22) (hk : k < 8) (reason slot handle vaddr : Nat) :
    (s.halt n reason slot handle vaddr).flag f k = s.flag f k := by
  cases hrun : (s.stream n).run with
  | none => rw [State.halt_of_none _ _ _ _ hrun]
  | some p =>
    have hstop : (s.stopRun n p reason slot handle vaddr).flag f k = s.flag f k := by
      refine Eq.trans (State.flag_of_rd ?_) (s.flag_unlockProg hreg hlo n p k)
      rw [hreg, State.stopRun, State.rd_of_only (State.setStream_only _ _ _) (by simp),
        State.rd_haltProg_of_high _ (dmeStat_high k) (dmeStat_not_mem_cardRegs hk) hn]
    rw [State.halt_of_some _ _ _ _ hrun]
    split
    · rw [State.flag_of_rd (State.rd_of_only (State.endBroadcast_only _ _) (by simp) _), hstop]
    · exact hstop

end

end Sys2Proof.Machine
end

section
/-! PROOF. What a retirement leaves of a DME core (R272): its program halted, its starts dropped, its cache empty. -/

namespace Sys2Proof.Machine

variable (s : State)

/-! ### A stream with nothing left to run -/

/-- Stream `n` runs nothing, and no start waits on it. -/
def State.emptied (s : State) (n : Nat) : Prop := (s.stream n).run = none ∧ (s.stream n).queue = [] ∧ (s.stream n).held = []

theorem State.emptied_of_stream {s t : State} {n : Nat} (h : t.stream n = s.stream n) (hs : s.emptied n) : t.emptied n := by
  rwa [State.emptied, h]

theorem State.stream_halt_ne {n k : Nat} (hk : k ≠ n) (reason slot handle vaddr : Nat) :
    (s.halt n reason slot handle vaddr).stream k = s.stream k ∨
    (s.halt n reason slot handle vaddr).stream k = { s.stream k with follows := none } := by
  cases hrun : (s.stream n).run with
  | none => exact .inl (by rw [State.halt_of_none _ _ _ _ hrun])
  | some p =>
    obtain ⟨-, hother⟩ := s.stream_stopRun n p reason slot handle vaddr
    rw [State.halt_of_some _ _ _ _ hrun]
    split
    · rcases (s.stopRun n p reason slot handle vaddr).stream_endBroadcast n k with hend | ⟨-, hend⟩ <;> rw [hend, hother k hk]
      · exact .inl rfl
      · exact .inr rfl
    · exact .inl (hother k hk)

theorem State.emptied_halt {s : State} {k : Nat} (hs : s.emptied k) (n reason slot handle vaddr : Nat) :
    (s.halt n reason slot handle vaddr).emptied k := by
  by_cases hk : k = n
  · subst hk
    rwa [State.halt_of_none _ _ _ _ hs.1]
  · rcases s.stream_halt_ne hk reason slot handle vaddr with h | h
    · exact State.emptied_of_stream h hs
    · rw [State.emptied, h]
      exact hs

theorem State.emptied_addCompletion {s : State} {n : Nat} (hs : s.emptied n) (p : Prog) (status reason pc : Nat) :
    (s.addCompletion n p status reason pc).emptied n := by
  obtain ⟨⟨l, hself⟩, -⟩ := s.stream_addCompletion n p status reason pc
  rw [State.emptied, hself]
  exact hs

/-! ### The parts of a retirement (R272) -/

/-- Core `k`'s program halts, and its starts drop with their completion records. -/
def State.stopCore (s : State) (k : Nat) : State :=
  let u := s.halt (4 + k) 0x12 15 0xFFFF 0
  ((u.stream (4 + k)).queue ++ (u.stream (4 + k)).held).foldl (fun s q => s.addCompletion (4 + k) (Prog.ofStart q) 2 0 0)
    (u.setStream (4 + k) { u.stream (4 + k) with queue := [], held := [] })

/-- A broadcast that core `j` leads halts where core `k` is among its cores. -/
def State.haltBroadcast (k : Nat) (s : State) (j : Nat) : State :=
  match (s.stream (4 + j)).run with
  | some p => if p.start.bcast && bit p.start.cmask k then s.halt (4 + j) 0x12 15 0xFFFF 0 else s
  | none => s

/-- Core `k` shows that it is retired, its L1 goes, and the retirement is reported. -/
def State.closeCore (s : State) (k : Nat) : State :=
  (((s.setFlag F.DME_STAT_RETIRED true k).setLines k []).invalidateRegions (l1Base k) (l1Base k + 0x100000)).card
    { block := 0xA, event := 2, ukind := 2, ua := k }

/-- PERM marks the core permanent before it retires. -/
def State.markPermanent (s : State) (k : Nat) (perm : Bool) : State := if perm then s.setFlag F.DME_STAT_PERMANENT true k else s

theorem State.flag_retired_markPermanent (k : Nat) (perm : Bool) :
    (s.markPermanent k perm).flag F.DME_STAT_RETIRED k = s.flag F.DME_STAT_RETIRED k := by
  unfold State.markPermanent
  split
  · exact s.flag_setFlag_other F.DME_STAT_PERMANENT F.DME_STAT_RETIRED _ _ _ rfl (by decide) (by decide) (by decide)
  · rfl

theorem State.stream_markPermanent (k : Nat) (perm : Bool) (n : Nat) : (s.markPermanent k perm).stream n = s.stream n := by
  unfold State.markPermanent
  split <;> rfl

theorem State.retireCore_eq {s : State} {k : Nat} (h : s.flag F.DME_STAT_RETIRED k = false) (perm : Bool) : s.retireCore k perm =
    ((List.range 8).foldl (State.haltBroadcast k) ((s.markPermanent k perm).stopCore k)).closeCore k := by
  have hmarked := (s.flag_retired_markPermanent k perm).trans h
  rw [State.markPermanent] at hmarked
  rw [State.retireCore, hmarked]
  rfl

theorem State.stopCore_only (k : Nat) : (s.halt (4 + k) 0x12 15 0xFFFF 0).only (s.stopCore k) [.streams] :=
  List.foldlRecOn (motive := fun u : State => (s.halt (4 + k) 0x12 15 0xFFFF 0).only u [.streams]) _ _ (State.setStream_only _ _ _)
    fun u hu _ _ => State.only_trans hu (u.addCompletion_only _ _ _ _ _)

theorem State.emptied_stopCore (k : Nat) : (s.stopCore k).emptied (4 + k) := by
  refine List.foldlRecOn (motive := fun u : State => u.emptied (4 + k)) _ _ ?_ fun u hu _ _ => State.emptied_addCompletion hu _ _ _ _
  rw [State.emptied, State.stream_setStream_self]
  exact ⟨State.run_halt_self _ _ _ _ _ _, rfl, rfl⟩

/-- What the halts of broadcasts leave of stopped core `k`. -/
structure State.KeepsCore (s t : State) (k : Nat) : Prop where
  emptied : t.emptied (4 + k)
  reason : t.fget F.ENG_S_HALT_REASON (4 + k) = s.fget F.ENG_S_HALT_REASON (4 + k)
  flag : ∀ f : Fld, f.reg = R.DME_STAT → 28 < f.lo → t.flag f k = s.flag f k

theorem State.KeepsCore.haltBroadcast {s t : State} {k j : Nat} (h : s.KeepsCore t k) (hk : k < 8) (hj : j < 8) :
    s.KeepsCore (t.haltBroadcast k j) k := by
  have hhalt : s.KeepsCore (t.halt (4 + j) 0x12 15 0xFFFF 0) k :=
    { emptied := State.emptied_halt h.emptied _ _ _ _ _
      reason := by
        by_cases hjk : 4 + k = 4 + j
        · rw [← hjk, State.halt_of_none _ _ _ _ h.emptied.1, h.reason]
        · rw [State.fget_of_rd (State.rd_halt_ne _ _ _ _ t (by omega) hjk), h.reason]
      flag := fun f hreg hlo => (t.flag_halt hreg hlo (by omega) hk _ _ _ _).trans (h.flag f hreg hlo) }
  unfold State.haltBroadcast
  split
  · split
    · exact hhalt
    · exact h
  · exact h

theorem State.keepsCore_foldl_haltBroadcast {s : State} {k : Nat} (hs : s.emptied (4 + k)) (hk : k < 8) :
    s.KeepsCore ((List.range 8).foldl (State.haltBroadcast k) s) k :=
  List.foldlRecOn (motive := fun u : State => s.KeepsCore u k) _ _ ⟨hs, rfl, fun _ _ _ => rfl⟩
    fun _ hu _ hj => hu.haltBroadcast hk (List.mem_range.mp hj)

/-! ### The end of a retirement -/

theorem State.invalidateRegions_only (lo hi : Nat) : s.only (s.invalidateRegions lo hi) [.regs] := by
  simp [State.invalidateRegions, State.only_foldl, State.only_ite]

theorem State.rd_invalidateRegions {a : Nat} (h : ∀ n < 64, a ≠ R.MEM_CR_CFG.at n) (lo hi : Nat) : (s.invalidateRegions lo hi).rd a = s.rd a := by
  refine List.foldlRecOn (motive := fun u : State => u.rd a = s.rd a) _ _ rfl fun u hu n hn => ?_
  split
  · rw [State.rd_setFlag_ne _ F.MEM_CR_CFG_INVALID _ _ _ _ (h n (List.mem_range.mp hn)), hu]
  · exact hu

theorem State.lines_of_only {s t : State} {l : List Part} (h : s.only t l) (hl : .memsys ∉ l) (k : Nat) : t.lines k = s.lines k :=
  congrArg (fun m : MemSys => Sparse.get (fun _ => []) m.l1 k) (h .memsys hl)

theorem State.closeCore_only (k : Nat) : s.only (s.closeCore k) [.regs, .memsys, .events, .chn] := by
  refine State.only_trans ?_ (State.only_mono (State.card_only _ _) (by simp))
  refine State.only_trans ?_ (State.only_mono (State.invalidateRegions_only _ _ _) (by simp))
  refine State.only_trans ?_ (State.only_mono (State.setLines_only _ k []) (by simp))
  simp

theorem State.lines_closeCore (k : Nat) : (s.closeCore k).lines k = [] := by
  rw [State.closeCore, State.lines_of_only (State.card_only _ _) (by simp), State.lines_of_only (State.invalidateRegions_only _ _ _) (by simp)]
  exact State.lines_setLines ..

theorem State.rd_closeCore {k a : Nat} (hcard : a ∉ cardRegs) (hcfg : ∀ n < 64, a ≠ R.MEM_CR_CFG.at n) :
    (s.closeCore k).rd a = (s.setFlag F.DME_STAT_RETIRED true k).rd a := by
  rw [State.closeCore, State.rd_card _ hcard, State.rd_invalidateRegions _ hcfg]
  rfl

theorem State.flag_closeCore {f : Fld} (hreg : f.reg = R.DME_STAT) {k : Nat} (hk : k < 8) :
    (s.closeCore k).flag f k = (s.setFlag F.DME_STAT_RETIRED true k).flag f k := by
  refine State.flag_of_rd ?_
  rw [hreg]
  exact s.rd_closeCore (dmeStat_not_mem_cardRegs hk) fun n hn => ne_crReg_of_high (dmeStat_high k) (by decide) hn

theorem State.reason_closeCore {k : Nat} (hk : k < 8) :
    (s.closeCore k).fget F.ENG_S_HALT_REASON (4 + k) = s.fget F.ENG_S_HALT_REASON (4 + k) := by
  have hat : F.ENG_S_HALT_REASON.reg.at (4 + k) = 0x0200060008 + 0x20 * (4 + k) + 0 * 0 := rfl
  have hcard : F.ENG_S_HALT_REASON.reg.at (4 + k) ∉ cardRegs := by
    have hledger : R.LDG_CARDNO.at = 0x02001D0014 := rfl
    exact not_mem_cardRegs_of_lt (by omega)
  refine State.fget_of_rd ((s.rd_closeCore hcard fun n hn => ?_).trans (s.rd_setFlag_ne F.DME_STAT_RETIRED true k 0 _ ?_))
  · have hcr := (crRegs_range (r := R.MEM_CR_CFG) (by decide) hn).2
    have hlow : R.MEM_CONFBANK.at < 0x0200060008 := by decide
    omega
  · have hstat : F.DME_STAT_RETIRED.reg.at k 0 = 0x0200100004 + 0x10000 * k + 0 * 0 := rfl
    omega

/-! ### A retired core -/

/-- Core `k` as its retirement leaves it. -/
structure State.Retired (t : State) (k : Nat) : Prop where
  retired : t.flag F.DME_STAT_RETIRED k = true
  emptied : t.emptied (4 + k)
  lines : t.lines k = []

section
variable {s} {k : Nat} (h : s.flag F.DME_STAT_RETIRED k = false) (hk : k < 8) (perm : Bool)
include h hk

theorem State.retired_retireCore : (s.retireCore k perm).Retired k := by
  rw [State.retireCore_eq h]
  have hkept := State.keepsCore_foldl_haltBroadcast ((s.markPermanent k perm).emptied_stopCore k) hk
  refine ⟨?_, State.emptied_of_stream (State.stream_of_only (State.closeCore_only _ k) (by simp) _) hkept.emptied, State.lines_closeCore _ k⟩
  rw [State.flag_closeCore _ rfl hk]
  exact State.flag_setFlag_self _ _ _ _ _ (by decide) (by decide)

theorem State.flag_permanent_retireCore : (s.retireCore k true).flag F.DME_STAT_PERMANENT k = true := by
  rw [State.retireCore_eq h, State.flag_closeCore _ rfl hk,
    State.flag_setFlag_other _ F.DME_STAT_RETIRED F.DME_STAT_PERMANENT _ _ _ rfl (by decide) (by decide) (by decide),
    (State.keepsCore_foldl_haltBroadcast ((s.markPermanent k true).emptied_stopCore k) hk).flag _ rfl (by decide),
    State.flag_of_rd (State.rd_of_only (State.stopCore_only _ k) (by simp) _),
    State.flag_halt _ rfl (by decide) (by omega) hk]
  exact s.flag_setFlag_self _ _ _ _ (by decide) (by decide)

theorem State.reason_retireCore (hrun : (s.stream (4 + k)).run ≠ none) :
    (s.retireCore k perm).fget F.ENG_S_HALT_REASON (4 + k) = 0x12 := by
  obtain ⟨p, hp⟩ := Option.ne_none_iff_exists'.mp hrun
  rw [← s.stream_markPermanent k perm] at hp
  rw [State.retireCore_eq h, State.reason_closeCore _ hk,
    (State.keepsCore_foldl_haltBroadcast ((s.markPermanent k perm).emptied_stopCore k) hk).reason,
    State.fget_of_rd (State.rd_of_only (State.stopCore_only _ k) (by simp) _), State.reason_halt _ _ _ _ (by omega) hp]

end

end Sys2Proof.Machine
end

section
/-! PROOF. The feeder's residency, the begin of an operation and its output tiles (R250, R264 to R266, R356). -/

namespace Sys2Proof.Machine

variable (s : State)

/-! ### Operands become resident (R250) -/

/-- The cores show their locked lines, `extra` more for staging, and count the cycles waited for the block unit. -/
def State.showResident (s : State) (cores : List Nat) (extra xp : Nat) : State :=
  cores.foldl (fun s k => (s.syncLocked k extra).count R.DME_XPWAIT xp k) s

theorem execOperandResident_of_fed {s u : State} {n : Fin 22} {p q : Prog} {o : OpRun} {b : Bundle} {m : PageMap} {maps : List (Nat × PageMap)}
    (hrun : (s.stream n.val).run = some p) (hkind : streamKind n.val = 1) (hresident : p.resident = false) (hop : p.dmeOp = some o)
    (hb : p.bundle = some b) (hq : s.cacheDescs p ((dmeReads b o p.iter ++ dmeWrites b o p.iter).map Int.toNat) = q)
    (hcheck : s.dmeCheck n.val q b o q.iter = [])
    (hplace : (q.cores n.val).zipIdx.any (fun k => s.dmePlaceCheck q b o q.iter k.1 k.2 != []) = false)
    (hfed : s.feedCores n.val q o ((dmeReads b o q.iter).map Int.toNat) (q.cores n.val).zipIdx [] = (.ok m, maps, u)) (xp : Word) :
    execOperandResident n xp s = .next ((u.showResident (q.cores n.val) (stagingLines q b o q.iter).length xp.toNat).setRun n.val
      (some { q with resident := true, maps := maps })) := by
  subst hq
  simp only [execOperandResident, hrun, hkind, hresident, hop, hb, hcheck, hplace, hfed, ne_eq, not_true, Bool.false_eq_true, or_self, if_false]
  rfl

theorem State.showResident_only (cores : List Nat) (extra xp : Nat) : s.only (s.showResident cores extra xp) [.regs] := by
  simp [State.showResident, State.syncLocked, State.only_foldl]

theorem dmeStat_at_ne_xpwait (j k : Nat) : R.DME_STAT.at k ≠ R.DME_XPWAIT.at j := by
  simp only [RegDesc.at, R.DME_STAT, R.DME_XPWAIT]
  omega

theorem State.flag_busy_showResident {s : State} {cores : List Nat} {k : Nat} (h : k ∈ cores ∨ s.flag F.DME_STAT_BUSY k = true) (extra xp : Nat) :
    (s.showResident cores extra xp).flag F.DME_STAT_BUSY k = true := by
  induction cores generalizing s with
  | nil => exact h.resolve_left (List.not_mem_nil)
  | cons j cores ih =>
    refine ih ?_
    rw [State.flag_of_rd (State.rd_count_ne _ R.DME_XPWAIT xp j 0 _ (dmeStat_at_ne_xpwait j k)), State.syncLocked]
    by_cases hj : k = j
    · subst hj
      exact .inr (State.flag_setFlag_self _ _ _ _ _ (by decide) (by decide))
    · rw [State.flag_setFlag_ne _ F.DME_STAT_BUSY F.DME_STAT_BUSY _ _ _ _ _ (dmeStat_at_ne hj),
        State.flag_fset_ne _ F.DME_STAT_LOCKED F.DME_STAT_BUSY _ _ _ _ _ (dmeStat_at_ne hj)]
      exact h.imp_left fun hmem => (List.mem_cons.mp hmem).resolve_left hj

/-! ### An operation begins -/

/-- The commands that begin a DME operation, each with its opcode. -/
def dmeStarts (n : Fin 22) : List (Instr × Nat) :=
  [(.mma n, 0x20), (.dist n, 0x21), (.ewise n, 0x22), (.norm n, 0x23), (.softmax n, 0x24), (.optim n, 0x25), (.argmax n, 0x26), (.wino n, 0x27)]

theorem exec_of_mem_dmeStarts {n : Fin 22} {x : Instr × Nat} (h : x ∈ dmeStarts n) : exec x.1 s = .next (s.dmeBegin n.val x.2) := by
  simp only [dmeStarts, List.mem_cons, List.not_mem_nil, or_false] at h
  rcases h with rfl | rfl | rfl | rfl | rfl | rfl | rfl | rfl <;> rfl

theorem State.dmeBegin_of_resident {s : State} {n opc : Nat} {p : Prog} {o : OpRun} {b : Bundle} (hrun : (s.stream n).run = some p)
    (hphase : p.phase = .issued) (hb : p.bundle = some b) (hresident : p.resident = true)
    (hfind : p.ops.find? (fun o => !o.finished && (!o.started && o.opc == opc)) = some o) :
    s.dmeBegin n opc = s.setOp n p { o with started := true, step := 0, nsteps := tileCount p b o, staged := [] } := by
  rw [State.dmeBegin, State.beginOp, State.withOp_of_find hrun hphase hfind, hb]
  simp [hresident]

/-! ### Output tiles (R264 to R266, R356) -/

/-- What the cores of a program compute in the current output tile: core, rank, the results by handle and the count of OPTIM. -/
def State.coreTiles (s : State) (n : Nat) (p : Prog) (b : Bundle) (o : OpRun) : List (Nat × Nat × List (Nat × List (Nat × Nat)) × Nat) :=
  (p.cores n).zipIdx.map (fun k => (k.1, k.2, s.tileResults p b o k.1 k.2 o.step))

/-- Those results one by one, as they are written. -/
def State.tileWrites (s : State) (n : Nat) (p : Prog) (b : Bundle) (o : OpRun) : List (Nat × Nat × Nat × List (Nat × Nat)) :=
  (s.coreTiles n p b o).flatMap (fun x => x.2.2.1.map (fun y => (x.1, x.2.1, y.1, y.2)))

/-- One core counts its output tile. -/
def State.countCoreTile (p : Prog) (b : Bundle) (o : OpRun) (s : State) (x : Nat × Nat × List (Nat × List (Nat × Nat)) × Nat) : State :=
  ((s.count R.DME_CSSKIP (s.skippedColumns p b o x.1 x.2.1 o.step) x.1).count R.DME_OPTNF x.2.2.2 x.1).count R.DME_TILES 1 x.1

/-- The state in which a passed tile has been counted on every core and its free values are used up. -/
def State.countTile (s : State) (n : Nat) (p : Prog) (b : Bundle) (o : OpRun) : State :=
  let u := (s.coreTiles n p b o).foldl (State.countCoreTile p b o) s
  { u with free := u.free + 4096 }

/-- The operation one tile on, with the results it holds. -/
def OpRun.afterTile (o : OpRun) (held : List (Nat × Nat × List Byte)) : OpRun := { o with step := o.step + 1, staged := held }

section
variable {s} {n : Fin 22} {p : Prog} {o : OpRun} {b : Bundle} (hrun : (s.stream n.val).run = some p) (hphase : p.phase = .issued)
  (hfind : p.ops.find? (fun o => !o.finished && (o.started && decide (0x20 ≤ o.opc) && decide (o.opc ≤ 0x27))) = some o)
  (hb : p.bundle = some b) (hresident : p.resident = true)
include hrun hphase hfind hb hresident

theorem execDmeOutputTile_of_written (hstaged : dmeStaged p b o p.iter = false) (hmapped : s.dmeUnmapped p (s.tileWrites n.val p b o) = none)
    (core : Fin 8) : execDmeOutputTile n core 0 s = .next
      (if o.step + 1 = o.nsteps
        then ((s.countTile n.val p b o).dmeStoreAll p (s.tileWrites n.val p b o)).2.dmeFinish n.val p (o.afterTile [])
        else ((s.countTile n.val p b o).dmeStoreAll p (s.tileWrites n.val p b o)).2.setOp n.val p (o.afterTile [])) := by
  have hpassed : ((0 : Fin 5).val ≠ 0) = False := by simp
  rw [State.tileWrites, State.coreTiles] at hmapped
  rw [execDmeOutputTile, State.withOp_of_find hrun hphase hfind]
  simp only [hresident, hb, hpassed, hstaged, hmapped, false_and, Bool.false_eq_true, if_true, if_false]
  rfl

/-- Held results are written with the last tile only. -/
theorem execDmeOutputTile_of_held (hstaged : dmeStaged p b o p.iter = true) (hmore : o.step + 1 ≠ o.nsteps) (core : Fin 8) :
    ∃ held, execDmeOutputTile n core 0 s = .next ((s.countTile n.val p b o).setOp n.val p (o.afterTile held)) := by
  have hpassed : ((0 : Fin 5).val ≠ 0) = False := by simp
  have hnone : s.dmeUnmapped p [] = none := rfl
  rw [execDmeOutputTile, State.withOp_of_find hrun hphase hfind]
  simp only [hresident, hb, hpassed, hstaged, hmore, hnone, false_and, if_true, if_false]
  exact ⟨_, rfl⟩

end

theorem State.free_only (x : Nat) : s.only { s with free := x } [.free] := by
  intro p hp
  cases p
  case free => simp at hp
  all_goals rfl

section
variable (n : Nat) (p : Prog) (b : Bundle) (o : OpRun)

theorem State.foldl_countCoreTile_only (l : List (Nat × Nat × List (Nat × List (Nat × Nat)) × Nat)) :
    s.only (l.foldl (State.countCoreTile p b o) s) [.regs] := by
  simp [State.countCoreTile, State.only_foldl]

theorem State.countTile_only : s.only (s.countTile n p b o) [.regs, .free] :=
  State.only_trans (State.only_mono (s.foldl_countCoreTile_only p b o _) (by simp)) (State.only_mono (State.free_only _ _) (by simp))

theorem State.free_countTile : (s.countTile n p b o).free = s.free + 4096 :=
  congrArg (· + 4096) (s.foldl_countCoreTile_only p b o (s.coreTiles n p b o) .free (by simp))

theorem State.countTile_regsOnly : s.regsOnly (s.countTile n p b o)
    ((p.cores n).flatMap (fun k => [R.DME_CSSKIP.at k, R.DME_OPTNF.at k, R.DME_TILES.at k])) := by
  rw [State.regsOnly_iff_regsBut, State.countTile, State.regsBut_mk]
  refine List.foldlRecOn (motive := fun u : State => u.regsBut _ = s.regsBut _) _ _ rfl fun u hu x hx => ?_
  obtain ⟨k, hk, rfl⟩ := List.mem_map.mp hx
  have hmem : ∀ a ∈ [R.DME_CSSKIP.at k.1, R.DME_OPTNF.at k.1, R.DME_TILES.at k.1],
      a ∈ (p.cores n).flatMap (fun k => [R.DME_CSSKIP.at k, R.DME_OPTNF.at k, R.DME_TILES.at k]) := fun a ha =>
    List.mem_flatMap.mpr ⟨k.1, List.fst_mem_of_mem_zipIdx hk, ha⟩
  rw [State.countCoreTile, State.regsBut_count _ (hmem _ (by simp)), State.regsBut_count _ (hmem _ (by simp)),
    State.regsBut_count _ (hmem _ (by simp)), hu]

end

theorem State.mem_dmeFinish (n : Nat) (p : Prog) (o : OpRun) : (s.dmeFinish n p o).mem = s.mem :=
  s.unlockProg_only n p .mem (by simp)

/-- The program after the last tile: its operands are no longer resident, and the operation has finished. -/
theorem State.run_dmeFinish {p : Prog} {o x : OpRun} (ho : o ∈ p.ops) (hslot : x.slot = o.slot) (n : Nat) :
    ∃ q, ((s.dmeFinish n p x).stream n).run = some q ∧ q.resident = false ∧ q.ops.any (fun y => y.slot == o.slot && y.finished) = true := by
  obtain ⟨ph, hph⟩ := (Prog.setOp { p with resident := false, maps := [] } { x with finished := true }).advance_eq
  refine ⟨_, State.run_finishOp _ n _ x, ?_⟩
  rw [hph]
  exact ⟨rfl, List.any_eq_true.mpr ⟨_, List.mem_map.mpr ⟨o, ho, if_pos hslot.symm⟩, by simp [hslot]⟩⟩

end Sys2Proof.Machine
end

section
/-! PROOF. A write of DME_CTL: its fields, the supply that settles, the two commands that retire the core (R271, R272). -/

namespace Sys2Proof.Machine

variable (s : State)

/-! ### The fields (Table 08-7) -/

/-- The fields of DME_CTL as a write of `v` leaves them; a new VSTEP shows VSETTLE. -/
def State.setDmeCtl (s : State) (k : Nat) (v : Word) : State :=
  let u := ((s.fset F.DME_CTL_CSRETRY (getField v 12 2) k).fset F.DME_CTL_DUTY (getField v 0 4) k).fset F.DME_CTL_VSTEP (getField v 8 2) k
  if getField v 8 2 ≠ s.fget F.DME_CTL_VSTEP k then u.setFlag F.DME_STAT_VSETTLE true k else u

theorem State.writeDmeCtl_eq (k : Nat) (v : Word) : s.writeDmeCtl k v =
    if bit v.toNat 30 then (s.setDmeCtl k v).retireCore k true
    else if bit v.toNat 31 then (s.setDmeCtl k v).retireCore k false else s.setDmeCtl k v := rfl

theorem State.dmeCtlWrite_of_allowed {s : State} {r : Req} {k : Nat} (hen : s.ctxEnabled (s.ctxOf r) = true) (hcore : s.coreEnabled k = true)
    (hctx : s.ctxOf r = 0 ∨ s.ctxOf r = 7) (v : Word) : s.dmeCtlWrite r k v = s.writeDmeCtl k v := by
  simp [State.dmeCtlWrite, hen, hcore, hctx]

theorem dmeCtl_at_ne_stat (k : Nat) : R.DME_CTL.at k ≠ R.DME_STAT.at k := by
  simp only [RegDesc.at, R.DME_CTL, R.DME_STAT]
  omega

theorem State.setDmeCtl_only (k : Nat) (v : Word) : s.only (s.setDmeCtl k v) [.regs] := by
  simp [State.setDmeCtl, State.only_ite]

theorem State.setDmeCtl_regsOnly (k : Nat) (v : Word) : s.regsOnly (s.setDmeCtl k v) [R.DME_CTL.at k, R.DME_STAT.at k] := by
  have hctl : R.DME_CTL.at k ∈ [R.DME_CTL.at k, R.DME_STAT.at k] := by simp
  have hstat : R.DME_STAT.at k ∈ [R.DME_CTL.at k, R.DME_STAT.at k] := by simp
  rw [State.regsOnly_iff_regsBut]
  simp (disch := apply id; with_unfolding_all assumption) [State.setDmeCtl]

/-- VSETTLE apart, a write of DME_CTL moves its own register alone. -/
theorem State.fget_setDmeCtl {f : Fld} (hreg : f.reg = R.DME_CTL) (k : Nat) (v : Word) : (s.setDmeCtl k v).fget f k =
    (((s.fset F.DME_CTL_CSRETRY (getField v 12 2) k).fset F.DME_CTL_DUTY (getField v 0 4) k).fset F.DME_CTL_VSTEP (getField v 8 2) k).fget f k := by
  unfold State.setDmeCtl
  dsimp only
  split
  · refine State.fget_of_rd (State.rd_setFlag_ne _ F.DME_STAT_VSETTLE _ _ _ _ ?_)
    rw [hreg]
    exact dmeCtl_at_ne_stat k
  · rfl

theorem State.fields_setDmeCtl (k : Nat) (v : Word) : (s.setDmeCtl k v).fget F.DME_CTL_VSTEP k = getField v 8 2 ∧
    (s.setDmeCtl k v).fget F.DME_CTL_DUTY k = getField v 0 4 ∧ (s.setDmeCtl k v).fget F.DME_CTL_CSRETRY k = getField v 12 2 := by
  rw [s.fget_setDmeCtl rfl, s.fget_setDmeCtl rfl, s.fget_setDmeCtl rfl]
  refine ⟨?_, ?_, ?_⟩
  · rw [State.fget_fset_self _ _ _ _ _ (by decide) (by decide)]
    exact Nat.mod_eq_of_lt (getField_lt v 8 2)
  · rw [State.fget_fset_other _ F.DME_CTL_VSTEP F.DME_CTL_DUTY _ _ _ rfl (by decide) (by decide) (by decide),
      State.fget_fset_self _ _ _ _ _ (by decide) (by decide)]
    exact Nat.mod_eq_of_lt (getField_lt v 0 4)
  · rw [State.fget_fset_other _ F.DME_CTL_VSTEP F.DME_CTL_CSRETRY _ _ _ rfl (by decide) (by decide) (by decide),
      State.fget_fset_other _ F.DME_CTL_DUTY F.DME_CTL_CSRETRY _ _ _ rfl (by decide) (by decide) (by decide),
      State.fget_fset_self _ _ _ _ _ (by decide) (by decide)]
    exact Nat.mod_eq_of_lt (getField_lt v 12 2)

theorem State.flag_vsettle_setDmeCtl {k : Nat} {v : Word} (h : getField v 8 2 ≠ s.fget F.DME_CTL_VSTEP k) :
    (s.setDmeCtl k v).flag F.DME_STAT_VSETTLE k = true := by
  rw [State.setDmeCtl, if_pos h]
  exact State.flag_setFlag_self _ _ _ _ _ (by decide) (by decide)

theorem State.flag_retired_setDmeCtl (k : Nat) (v : Word) : (s.setDmeCtl k v).flag F.DME_STAT_RETIRED k = s.flag F.DME_STAT_RETIRED k := by
  have hne : F.DME_STAT_RETIRED.reg.at k ≠ R.DME_CTL.at k := (dmeCtl_at_ne_stat k).symm
  have hctl (f : Fld) (hreg : f.reg = R.DME_CTL) (t : State) (x : Nat) : (t.fset f x k).flag F.DME_STAT_RETIRED k = t.flag F.DME_STAT_RETIRED k :=
    t.flag_fset_ne f F.DME_STAT_RETIRED x k 0 k 0 (by rwa [hreg])
  unfold State.setDmeCtl
  dsimp only
  split
  · rw [State.flag_setFlag_other _ F.DME_STAT_VSETTLE F.DME_STAT_RETIRED _ _ _ rfl (by decide) (by decide) (by decide),
      hctl _ rfl, hctl _ rfl, hctl _ rfl]
  · rw [hctl _ rfl, hctl _ rfl, hctl _ rfl]

/-! ### The commands -/

/-- The two commands of DME_CTL lie in bits 30 and 31, its fields below. -/
theorem getField_and_low30 (v : Word) {lo w : Nat} (h : lo + w ≤ 30) : getField (v &&& 0x3FFFFFFF) lo w = getField v lo w := by
  have hmask : ∀ j < 30, (0x3FFFFFFF : Word).getLsbD j = true := by decide
  refine Nat.eq_of_testBit_eq fun i => ?_
  rw [testBit_getField, testBit_getField, BitVec.getLsbD_and]
  by_cases hi : i < w
  · rw [hmask (lo + i) (by omega), Bool.and_true]
  · simp [hi]

section
variable {s} {r : Req} {k : Fin 8} (hen : s.ctxEnabled (s.ctxOf r) = true) (hcore : s.coreEnabled k.val = true)
  (hctx : s.ctxOf r = 0 ∨ s.ctxOf r = 7) (v : Word)
include hen hcore hctx

/-- A write with RETIRE retires the core; PERM in the same write makes it permanent. -/
theorem execDmeCoreRetire_of_allowed : ∃ perm, execDmeCoreRetire r k v s = .next
    ((s.setDmeCtl k.val (setField v 31 1 1)).retireCore k.val perm) := by
  have hv : bit (setField v 31 1 1).toNat 31 = true := bit_setField_one v (by decide)
  rw [execDmeCoreRetire, State.dmeCtlWrite_of_allowed hen hcore hctx, State.writeDmeCtl_eq, hv]
  cases bit (setField v 31 1 1).toNat 30
  · exact ⟨false, rfl⟩
  · exact ⟨true, rfl⟩

theorem execDmeCoreRetirePerm_of_allowed : execDmeCoreRetirePerm r k v s = .next
    ((s.setDmeCtl k.val (setField v 30 1 1)).retireCore k.val true) := by
  rw [execDmeCoreRetirePerm, State.dmeCtlWrite_of_allowed hen hcore hctx, State.writeDmeCtl_eq, if_pos (bit_setField_one v (by decide))]

theorem execVstepChange_of_allowed : execVstepChange r k v s = .next (s.setDmeCtl k.val (v &&& 0x3FFFFFFF)) := by
  rw [execVstepChange, State.dmeCtlWrite_of_allowed hen hcore hctx, State.writeDmeCtl_eq, bit_and_of_clear (by decide),
    bit_and_of_clear (by decide)]
  rfl

end

end Sys2Proof.Machine
end

section
/-! PROOF. The obligation of spec/08 on the operations and the cores of the matrix engine (R250, R264 to R266, R271, R272, R356). -/

namespace Sys2Proof.Machine

/-- Settles O45: a begin and a tile by the operation they find, a retirement by what its halts leave of the core, a write of DME_CTL by its
fields. -/
theorem dmeOperationsRunTileByTile : Obligations.DmeOperationsRunTileByTile := by
  refine ⟨fun n xp s u p o b m maps hrun hkind hresident hop hb hcheck hplace hfed =>
      ⟨_, execOperandResident_of_fed hrun hkind hresident hop hb rfl hcheck hplace hfed xp, ?_, fun k hk => ?_, State.run_setRun ..⟩,
    fun n x s p o b hx hrun hphase hb hresident hfind => exists_next_setRun ?_,
    fun n core s p o b hrun hphase hfind hb hresident => ⟨fun hstaged hmapped => ?_, fun hstaged hmore => ?_⟩,
    fun r k v s hen hcore hctx hactive => ?_, fun r k v s hen hcore hctx hactive => ?_,
    fun r k v s hen hcore hctx => ⟨_, execVstepChange_of_allowed hen hcore hctx v, ?_⟩,
    fun k s => ⟨_, rfl, ?_, ?_, ?_⟩⟩
  · exact (u.only_setRun_iff _ (by simp) _ _).mpr (State.only_mono (u.showResident_only _ _ _) (by simp))
  · exact State.flag_busy_showResident (.inl hk) _ _
  · rw [exec_of_mem_dmeStarts s hx, State.dmeBegin_of_resident hrun hphase hb hresident hfind]
    rfl
  · have ho := List.mem_of_find?_eq_some hfind
    have hexec := execDmeOutputTile_of_written hrun hphase hfind hb hresident hstaged hmapped core
    by_cases hlast : o.step + 1 = o.nsteps
    · obtain ⟨q, hq, hdone⟩ := ((s.countTile n.val p b o).dmeStoreAll p (s.tileWrites n.val p b o)).2.run_dmeFinish
        (x := o.afterTile []) ho rfl n.val
      rw [if_pos hlast] at hexec
      exact ⟨_, _, q, hexec, s.countTile_only _ _ _ _, s.free_countTile .., s.countTile_regsOnly _ _ _ _, State.mem_dmeFinish .., hq,
        fun hmore => absurd hlast hmore, fun _ => hdone⟩
    · rw [if_neg hlast] at hexec
      exact ⟨_, _, _, hexec, s.countTile_only _ _ _ _, s.free_countTile .., s.countTile_regsOnly _ _ _ _, rfl, State.run_setRun ..,
        fun _ => rfl, fun h => absurd h hlast⟩
  · obtain ⟨held, hexec⟩ := execDmeOutputTile_of_held hrun hphase hfind hb hresident hstaged hmore core
    exact ⟨_, _, hexec, s.countTile_only n.val p b o .mem (by simp), State.run_setRun ..,
      Prog.any_setOp (x := o.afterTile held) (List.mem_of_find?_eq_some hfind) rfl⟩
  · obtain ⟨perm, hexec⟩ := execDmeCoreRetire_of_allowed hen hcore hctx v
    have hactive' := (s.flag_retired_setDmeCtl k.val (setField v 31 1 1)).trans hactive
    obtain ⟨hretired, ⟨hrun, hqueue, hheld⟩, hlines⟩ := State.retired_retireCore hactive' k.isLt perm
    refine ⟨_, hexec, hretired, hrun, hqueue, hheld, hlines, fun hruns => State.reason_retireCore hactive' k.isLt perm ?_⟩
    rwa [State.stream_of_only (s.setDmeCtl_only _ _) (by simp)]
  · have hactive' := (s.flag_retired_setDmeCtl k.val (setField v 30 1 1)).trans hactive
    obtain ⟨hretired, ⟨hrun, -, -⟩, hlines⟩ := State.retired_retireCore hactive' k.isLt true
    exact ⟨_, execDmeCoreRetirePerm_of_allowed hen hcore hctx v, hretired, State.flag_permanent_retireCore hactive' k.isLt, hrun, hlines⟩
  · have hfields := s.fields_setDmeCtl k.val (v &&& 0x3FFFFFFF)
    simp only [getField_and_low30 v (show 8 + 2 ≤ 30 by decide), getField_and_low30 v (show 0 + 4 ≤ 30 by decide),
      getField_and_low30 v (show 12 + 2 ≤ 30 by decide)] at hfields
    obtain ⟨hvstep, hduty, hretry⟩ := hfields
    refine ⟨hvstep, hduty, hretry, fun hnew => s.flag_vsettle_setDmeCtl ?_, s.setDmeCtl_only _ _, s.setDmeCtl_regsOnly _ _⟩
    rwa [getField_and_low30 v (show 8 + 2 ≤ 30 by decide)]
  · exact s.flag_setFlag_self _ _ _ _ (by decide) (by decide)
  · simp
  · exact fun a ha => s.rd_setFlag_ne _ _ _ _ _ fun h => ha (List.mem_singleton.mpr h)

end Sys2Proof.Machine
end

section
/-! PROOF. The obligation of spec/10 on samples, streams and windows is refuted at its clause on FRAME_CLOSE (R310, R314). -/

namespace Sys2Proof.Machine

/-- A close that is due closes the newest window of its running stream (R310). -/
theorem execFrameClose_of_due {n : Fin 16} {s : State} {w : Window} (hlast : (s.acqStream n.val).wins.getLast? = some w)
    (hruns : s.acqRuns n.val = true) (hopen : w.close = none) (hdue : w.opn + s.fget F.ACQ_ST_PERIOD_CYCLES n.val ≤ s.now) :
    exec (.frameClose n) s = .next (s.closeWindow n.val w (w.opn + s.fget F.ACQ_ST_PERIOD_CYCLES n.val)) := by
  change execFrameClose n s = _
  rw [execFrameClose, hlast]
  exact congrArg _ (if_pos ⟨hruns, hopen, hdue⟩)

/-- The number, far above 63, at which the address formula of MEM_CRn_LOST gives the address of ACQ_ST0_STAT. -/
def strayRegion : Nat := (R.ACQ_ST_STAT.at - R.MEM_CR_LOST.at) / R.MEM_CR_LOST.s0

/-- An open window without members that says it lies in region `strayRegion`. -/
def strayWindow : Window where
  opn := 0
  close := none
  frame := 0
  first := true
  config := false
  skip := false
  region := strayRegion
  start := some 0
  len := 0
  memb := []
  edgemax := 4096
  got := []
  lost := []
  bias := []
  supMin := 0
  supLow := false
  fdTemp := 0
  linkDown := false

/-- Reset, one frame period on: stream 0 runs with `strayWindow` open. In its ACQ_ST0_STAT every bit but STOPPING is set, as no run of the
device leaves it. -/
def strayStream : State :=
  (({ State.reset with timebase := 16666667 } : State).rset R.ACQ_ST_STAT 0xBFFFFFFF).setAcq 0
    { AcqStream.fresh with wins := [strayWindow] }

/-- The close reserves 256 bytes in a region that holds none, so it counts lost units (R102). They are counted in ACQ_ST0_STAT and carry
into STOPPING: the stream stops, and no window opens after the one that closes. -/
theorem wins_closeWindow_strayStream :
    ((strayStream.closeWindow (0 : Fin 16).val strayWindow 16666667).acqStream (0 : Fin 16).val).wins.length = 1 := by
  decide +kernel

/-- Refutes O47: its clause on FRAME_CLOSE takes a window of any region number, not only of the 64 that there are (R99, Table 10-28), to
which every window that the model opens keeps. The close of `strayWindow` counts lost units in ACQ_ST0_STAT and so stops the stream: one window is left where the
clause claims two. -/
theorem not_samplesReachTheirWindows : ¬ Obligations.SamplesReachTheirWindows := by
  rintro ⟨-, -, -, -, -, -, -, -, -, hclose, -⟩
  have hlast : (strayStream.acqStream 0).wins.getLast? = some strayWindow := by decide +kernel
  have hruns : strayStream.acqRuns 0 = true := by decide +kernel
  have hdue : strayWindow.opn + strayStream.fget F.ACQ_ST_PERIOD_CYCLES (0 : Fin 16).val = 16666667 := by decide +kernel
  have hnow : strayStream.now = 16666667 := by decide +kernel
  have hgoes : strayStream.flag F.ACQ_ST_STAT_STOPPING 0 = false := by decide +kernel
  obtain ⟨u, wc, wo, hexec, -, htwo, -⟩ :=
    hclose 0 strayStream strayWindow hlast hruns rfl nofun (hdue.trans hnow.symm).le hgoes
  have hu := execFrameClose_of_due (n := 0) hlast hruns rfl (hdue.trans hnow.symm).le
  rw [hexec, hdue] at hu
  have hone := wins_closeWindow_strayStream
  rw [← Host.Outcome.next.inj hu, htwo, List.length_append] at hone
  simp at hone

end Sys2Proof.Machine
end

section
/-! PROOF. The signal engine's operations: how one begins, and what a pass of one does (R334, R347, R440). -/

namespace Sys2Proof.Machine

variable (s : State)

/-- The operation as it begins: no pass done, the steps of its passes or result blocks to go. -/
def OpRun.sigBegun (p : Prog) (o : OpRun) : OpRun := { o with started := true, step := 0, nsteps := max 1 (sigSteps p o) }

/-- The operation one pass or block on. -/
def OpRun.afterPass (o : OpRun) : OpRun := { o with step := o.step + 1 }

/-- What a staged operation holds once its results are known, element by element. -/
def heldElems (res : List (Nat × List Nat)) : List (Nat × Nat × List Byte) :=
  res.flatMap (fun x => x.2.zipIdx.map (fun v => (x.1, v.2, leBytes 4 v.1)))

/-! ### An operation begins (R333, R334) -/

/-- The commands that begin an operation which writes its results block by block, each with its opcode. -/
def sigBlockStarts (n : Fin 22) : List (Instr × Nat) :=
  [(.window n, 0x41), (.band n, 0x46), (.marker n, 0x47), (.layer n, 0x48), (.sigArgmax n, 0x49), (.sheet n, 0x4A), (.stats n, 0x4B)]

/-- The commands that begin an operation in a staging bank, each with its opcode. -/
def sigStagedStarts (n : Fin 22) : List (Instr × Nat) :=
  [(.fft n, 0x40), (.resamp n, 0x42), (.env n, 0x43), (.ceps n, 0x44), (.skurt n, 0x45)]

theorem exec_of_mem_sigBlockStarts {n : Fin 22} {x : Instr × Nat} (h : x ∈ sigBlockStarts n) :
    exec x.1 s = .next (s.sigBegin n.val x.2) ∧ sigStaged x.2 = false := by
  simp only [sigBlockStarts, List.mem_cons, List.not_mem_nil, or_false] at h
  rcases h with rfl | rfl | rfl | rfl | rfl | rfl | rfl <;> exact ⟨rfl, rfl⟩

theorem exec_of_mem_sigStagedStarts {n : Fin 22} {x : Instr × Nat} (h : x ∈ sigStagedStarts n) :
    exec x.1 s = .next (s.sigBegin n.val x.2) ∧ sigStaged x.2 = true := by
  simp only [sigStagedStarts, List.mem_cons, List.not_mem_nil, or_false] at h
  rcases h with rfl | rfl | rfl | rfl | rfl <;> exact ⟨rfl, rfl⟩

section
variable {s} {n opc : Nat} {p : Prog} {o : OpRun} {b : Bundle} (hrun : (s.stream n).run = some p) (hphase : p.phase = .issued)
  (hb : p.bundle = some b) (hfind : p.ops.find? (fun o => !o.finished && (!o.started && o.opc == opc)) = some o)
include hrun hphase hb hfind

theorem State.sigBegin_of_block (hblock : sigStaged opc = false) : s.sigBegin n opc = s.setOp n p (o.sigBegun p) := by
  rw [State.sigBegin, State.beginOp, State.withOp_of_find hrun hphase hfind, hb]
  simp only [hblock, Bool.not_false, if_true]
  rfl

/-- A staged operation takes a bank, computes and holds its results there. -/
theorem State.sigBegin_of_staged (hstaged : sigStaged opc = true) {res : List (Nat × List Nat)} {w : State}
    (hres : (s.takeBank n).2.sigCompute n p b (o.sigBegun p) = (some res, w)) :
    s.sigBegin n opc = w.setOp n p { o.sigBegun p with note := [(s.takeBank n).1], staged := heldElems res } := by
  rw [OpRun.sigBegun] at hres
  rw [State.sigBegin, State.beginOp, State.withOp_of_find hrun hphase hfind, hb]
  simp only [hstaged, Bool.not_true, Bool.false_eq_true, if_false, hres]
  rfl

end

/-! ### A pass (R334, R347, R440) -/

section
variable {s} {n : Fin 22} {p : Prog} {o : OpRun} (hrun : (s.stream n.val).run = some p) (hphase : p.phase = .issued)
  (hfind : p.ops.find? (fun o => !o.finished && (o.started && decide (0x40 ≤ o.opc) && decide (o.opc ≤ 0x4B))) = some o)
include hrun hphase hfind

theorem execSigPass_of_parity : execSigPass n true s = .next (s.halt n.val 0x0C o.slot 0xFFFF 0) := by
  rw [execSigPass, State.withOp_of_find hrun hphase hfind]
  rfl

/-- A pass before the last of a staged operation counts, and no more. -/
theorem execSigPass_of_held (hstaged : sigStaged o.opc = true) (hmore : o.step + 1 ≠ o.nsteps) :
    execSigPass n false s = .next (s.setRun n.val (some (p.setOp o.afterPass))) := by
  rw [execSigPass, State.withOp_of_find hrun hphase hfind]
  simp only [hstaged, hmore, Bool.false_eq_true, decide_false, Bool.not_false, if_true, if_false]
  rfl

/-- The last pass of a staged operation writes the results it holds and ends it. -/
theorem execSigPass_of_last {u : State} (hstaged : sigStaged o.opc = true) (hlast : o.step + 1 = o.nsteps)
    (hwrite : s.sigWrite n.val p o (sigHeld o) = (none, u)) : execSigPass n false s = .next (u.setRun n.val
      (some (p.setOp { o.afterPass with staged := [], note := [], finished := true }).advance)) := by
  have hdone : decide (o.step + 1 = o.nsteps) = true := decide_eq_true hlast
  rw [execSigPass, State.withOp_of_find hrun hphase hfind]
  simp only [hstaged, hdone, hwrite, Bool.false_eq_true, Bool.not_true, if_true, if_false]
  rfl

/-- A pass of another operation computes and writes one block of its results; the last block ends it. -/
theorem execSigPass_of_block {b : Bundle} {res : List (Nat × List Nat)} {u w : State} (hblock : sigStaged o.opc = false)
    (hb : p.bundle = some b) (hres : s.sigCompute n.val p b o = (some res, u))
    (hwrite : u.sigWrite n.val p o (sigBlock p o.step res) = (none, w)) : execSigPass n false s = .next (w.setRun n.val
      (some (if o.step + 1 = o.nsteps then (p.setOp { o.afterPass with finished := true }).advance else p.setOp o.afterPass))) := by
  rw [execSigPass, State.withOp_of_find hrun hphase hfind]
  simp only [hblock, hb, hres, hwrite, Bool.false_eq_true, if_false]
  split <;> rfl

end

end Sys2Proof.Machine
end

section
/-! PROOF. The order-table builder: the table it writes and what it shows once the table is READY (R337, R338). -/

namespace Sys2Proof.Machine

variable (s : State)

theorem length_tableFrom (f a pprl k m : Nat) : (tableFrom f a pprl k m).length = k := by
  induction k generalizing m with
  | zero => rfl
  | succ k ih =>
    rw [tableFrom]
    split
    · split
      · rw [List.length_cons, ih]
      · exact List.length_replicate
    · exact List.length_replicate

/-- The bytes of the table that stream `n`'s request for a profile asks for. -/
def State.tableBytes (s : State) (n f a : Nat) : List Byte :=
  (tableFrom f a (s.fget F.SIG_ST_ORD_PPRL n) (2 ^ s.fget F.SIG_ST_ORD_NOUTL n) 0).flatMap (leBytes 4)

theorem State.length_tableBytes (n f a : Nat) : (s.tableBytes n f a).length = 4 * 2 ^ s.fget F.SIG_ST_ORD_NOUTL n := by
  simp only [State.tableBytes, List.length_flatMap, leBytes_length, List.map_const', length_tableFrom, List.sum_replicate_nat]
  exact Nat.mul_comm _ _

/-- The table is in the back buffer of stream `n`. -/
def State.storeTable (s : State) (n f a : Nat) : State := s.store (s.tableAddr n (s.back n)) (s.tableBytes n f a)

/-- The profile of buffer `b` of stream `n` is kept, and the stream's request is done. -/
def State.endBuild (s : State) (n b f a : Nat) : State :=
  let x := s.acqStream n
  let s := s.setAcq n { x with tables := (b, f, a) :: x.tables.filter (fun t => t.1 != b) }
  { s with acq := { s.acq with builds := s.acq.builds.filter (fun y => y.1 != n) } }

/-- The registers show that stream `n`'s table has been built. -/
def State.showBuilt (s : State) (n : Nat) : State :=
  (((s.setFlag F.SIG_ST_STAT_READY true n).setFlag F.SIG_ST_STAT_PENDING false n).count R.SIG_BUILDS).fset F.SIG_STAT_BLDSTREAM n

/-- The state in which stream `n`'s request for profile `(f, a)` has been served. -/
def State.built (s : State) (n f a : Nat) : State := ((s.storeTable n f a).endBuild n (s.back n) f a).showBuilt n

theorem execOrderTableBuild_of_find {s : State} {n f a : Nat}
    (h : s.acq.builds.find? (fun b => !(s.acqStream b.1).flight.any (fun l => l.buf == some (s.back b.1))) = some (n, f, a)) :
    execOrderTableBuild s = .next (s.built n f a) := by
  simp only [execOrderTableBuild, h]
  rfl

/-! ### What the build shows -/

theorem sigStStat_at_ne_builds (n : Nat) : R.SIG_ST_STAT.at n ≠ R.SIG_BUILDS.at := by
  simp only [RegDesc.at, R.SIG_ST_STAT, R.SIG_BUILDS]
  omega

theorem sigStStat_at_ne_stat (n : Nat) : R.SIG_ST_STAT.at n ≠ R.SIG_STAT.at := by
  simp only [RegDesc.at, R.SIG_ST_STAT, R.SIG_STAT]
  omega

/-- SIG_STn_STAT takes the two flags alone. -/
theorem State.rd_stStat_showBuilt (n : Nat) : (s.showBuilt n).rd (R.SIG_ST_STAT.at n) =
    ((s.setFlag F.SIG_ST_STAT_READY true n).setFlag F.SIG_ST_STAT_PENDING false n).rd (R.SIG_ST_STAT.at n) := by
  rw [State.showBuilt, State.rd_fset_ne _ _ _ _ _ _ (sigStStat_at_ne_stat n), State.rd_count_ne _ _ _ _ _ _ (sigStStat_at_ne_builds n)]

theorem State.flag_ready_showBuilt (n : Nat) : (s.showBuilt n).flag F.SIG_ST_STAT_READY n = true := by
  rw [State.flag_of_rd (s.rd_stStat_showBuilt n), State.flag_setFlag_other _ F.SIG_ST_STAT_PENDING F.SIG_ST_STAT_READY _ _ _ rfl
    (by decide) (by decide) (by decide)]
  exact State.flag_setFlag_self _ _ _ _ _ (by decide) (by decide)

theorem State.flag_pending_showBuilt (n : Nat) : (s.showBuilt n).flag F.SIG_ST_STAT_PENDING n = false := by
  rw [State.flag_of_rd (s.rd_stStat_showBuilt n)]
  exact State.flag_setFlag_self _ _ _ _ _ (by decide) (by decide)

theorem State.bldStream_showBuilt {n : Nat} (hn : n < 16) : (s.showBuilt n).fget F.SIG_STAT_BLDSTREAM = n := by
  rw [State.showBuilt, State.fget_fset_self _ _ _ _ _ (by decide) (by decide)]
  exact Nat.mod_eq_of_lt hn

/-! ### What the build changes -/

theorem State.endBuild_only (n b f a : Nat) : s.only (s.endBuild n b f a) [.acq] := by
  intro p hp
  cases p
  case acq => simp at hp
  all_goals rfl

theorem State.builds_endBuild (n b f a : Nat) : (s.endBuild n b f a).acq.builds = s.acq.builds.filter (fun y => y.1 != n) := rfl

theorem State.showBuilt_only (n : Nat) : s.only (s.showBuilt n) [.regs] := by
  simp [State.showBuilt]

/-- Where the table lies in SRAM, the build ends in registers and in the acquisition's part alone. -/
theorem State.storeTable_built_only (n f a : Nat) : (s.storeTable n f a).only (s.built n f a) [.regs, .acq] :=
  State.only_trans (State.only_mono (State.endBuild_only _ n (s.back n) f a) (by simp)) (State.only_mono (State.showBuilt_only _ n) (by simp))

theorem State.built_only (n f a : Nat) : s.only (s.built n f a) [.regs, .mem, .acq] :=
  State.only_trans (State.only_mono (s.store_only _ _) (by simp)) (State.only_mono (s.storeTable_built_only n f a) (by simp))

theorem State.builds_built (n f a : Nat) : (s.built n f a).acq.builds = s.acq.builds.filter (fun y => y.1 != n) := by
  have hshown : (s.built n f a).acq = ((s.storeTable n f a).endBuild n (s.back n) f a).acq := State.showBuilt_only _ n .acq (by simp)
  have hstored : (s.storeTable n f a).acq = s.acq := s.store_only _ _ .acq (by simp)
  rw [hshown, State.builds_endBuild, hstored]

theorem State.mem_built (n f a : Nat) : (s.built n f a).mem = (s.storeTable n f a).mem := s.storeTable_built_only n f a .mem (by simp)

theorem State.load_built (n f a : Nat) :
    (s.built n f a).load (s.tableAddr n (s.back n)) (4 * 2 ^ s.fget F.SIG_ST_ORD_NOUTL n) = s.tableBytes n f a := by
  rw [State.load, s.mem_built, ← s.length_tableBytes n f a]
  exact s.load_store _ _

theorem State.built_bytesOnly (n f a : Nat) :
    s.bytesOnly (s.built n f a) (s.tableAddr n (s.back n)) (4 * 2 ^ s.fget F.SIG_ST_ORD_NOUTL n) := by
  rw [State.bytesOnly, s.mem_built, ← s.length_tableBytes n f a]
  exact s.bytesOnly_store _ _

end Sys2Proof.Machine
end

section
/-! PROOF. The obligation of spec/11 on the signal engine's operations and its order-table builder (R333, R334, R337, R343, R347, R440). -/

namespace Sys2Proof.Machine

/-- Settles O46: a begin by the list its command stands in, a pass by whether its operation is staged and whether it is the last, a build
by the table it stores. -/
theorem signalOperationsRunInSteps : Obligations.SignalOperationsRunInSteps := by
  refine ⟨fun n x s p o b hx hrun hphase hb hfind => exists_next_setRun ?_,
    fun n x s w p o b res hx hrun hphase hb hfind hres => exists_next_setRun ?_,
    fun n s p o hrun hphase hfind => ⟨?_, fun hstaged hmore => ?_, fun u hstaged hlast hwrite => ?_,
      fun b res u w hblock hb hres hwrite => ?_⟩,
    fun s n f a hn hfind => ⟨_, execOrderTableBuild_of_find hfind, ?_⟩⟩
  · obtain ⟨hexec, hblock⟩ := exec_of_mem_sigBlockStarts s hx
    rw [hexec, State.sigBegin_of_block hrun hphase hb hfind hblock]
    rfl
  · obtain ⟨hexec, hstaged⟩ := exec_of_mem_sigStagedStarts s hx
    rw [hexec, State.sigBegin_of_staged hrun hphase hb hfind hstaged hres]
    rfl
  · obtain ⟨hnone, hreason⟩ := State.haltedWith_halt n.isLt hrun 0x0C o.slot 0xFFFF 0
    exact ⟨_, execSigPass_of_parity hrun hphase hfind, hnone, hreason⟩
  · exact exists_next_setRun (execSigPass_of_held hrun hphase hfind hstaged hmore)
  · exact exists_next_setRun (execSigPass_of_last hrun hphase hfind hstaged hlast hwrite)
  · exact exists_next_setRun (execSigPass_of_block hrun hphase hfind hblock hb hres hwrite)
  · exact ⟨State.flag_ready_showBuilt _ n, State.flag_pending_showBuilt _ n, State.bldStream_showBuilt _ hn, s.builds_built n f a,
      s.load_built n f a, s.built_bytesOnly n f a, s.built_only n f a⟩

end Sys2Proof.Machine
end

section
/-! PROOF. The storage array's words, sectors and entries: what each reads after an update (R375, R380, R383, R386). -/

namespace Sys2Proof.Machine

variable (t : Storage)

/-! ### Bytes and words -/

/-- A stored byte reads as stored, another as before. -/
theorem Storage.byte_store (o : Nat) (l : List Byte) (b : Nat) :
    (t.store o l).byte b = if o ≤ b ∧ b < o + l.length then l.getD (b - o) 0 else t.byte b := by
  induction l generalizing t o with
  | nil => simp [Storage.store]
  | cons v l ih =>
    have hfirst : Storage.byte { t with cells := Sparse.put (fun _ => (0xFF : Byte)) t.cells o v } b = if b = o then v else t.byte b := by
      simp [Storage.byte, Sparse.get_put]
    rw [Storage.store, ih, hfirst]
    grind

/-- Bytes that agree one by one are read as one list. -/
theorem Storage.read_eq {t : Storage} {o : Nat} {l : List Byte} (h : ∀ b, o ≤ b → b < o + l.length → t.byte b = l.getD (b - o) 0) :
    t.read o l.length = l := by
  induction l generalizing o with
  | nil => rfl
  | cons v l ih =>
    have hhead : t.byte o = v := by simpa using h o (Nat.le_refl o) (by simp)
    have htail : t.read (o + 1) l.length = l := ih fun b hlow hhigh => by
      rw [h b (by omega) (by rw [List.length_cons]; omega), show b - o = b - (o + 1) + 1 by omega, List.getD_cons_succ]
    rw [List.length_cons, Storage.read, hhead, htail]

theorem Storage.read_of_cells {t t' : Storage} (h : t.cells = t'.cells) (o n : Nat) : t.read o n = t'.read o n := by
  induction n generalizing o with
  | zero => rfl
  | succ n ih => rw [Storage.read, Storage.read, ih, Storage.byte, Storage.byte, h]

section
variable {l : List Byte} (h : l.length = 8) (w : Nat)
include h

theorem Storage.byte_progWord (b : Nat) :
    (t.progWord w l).byte b = if 8 * w ≤ b ∧ b < 8 * w + 8 then l.getD (b - 8 * w) 0 else t.byte b := by
  have hstored := t.byte_store (8 * w) l b
  rw [h] at hstored
  rw [Storage.progWord, padTo_of_length h]
  exact hstored

theorem Storage.read_progWord : (t.progWord w l).read (8 * w) 8 = l := by
  have hread : (t.progWord w l).read (8 * w) l.length = l :=
    Storage.read_eq fun b hlow hhigh => by rw [t.byte_progWord h, if_pos ⟨hlow, by omega⟩]
  rwa [h] at hread

end

@[simp] theorem Storage.err_progWord (w : Nat) (l : List Byte) : (t.progWord w l).err w = 0 := by
  simp [Storage.progWord, Storage.err, Storage.setErr]

/-! ### Sectors -/

@[simp] theorem Storage.sector_setSector (n : Nat) (x : Sector) : (t.setSector n x).sector n = x := by
  simp [Storage.sector, Storage.setSector]

/-! ### Entries -/

/-- The entry whose turn it is in a bank is an active one. -/
theorem Storage.mem_active_of_current {t : Storage} {k : Nat} {e : StoEntry} (h : t.current k = some e) : e ∈ t.active := by
  unfold Storage.current at h
  split at h
  · next x hfind =>
    obtain ⟨-, hx⟩ := Option.ite_none_right_eq_some.mp h
    cases hx
    exact List.mem_of_find?_eq_some hfind
  · cases h

/-- An entry that takes the place of an active one is active. -/
theorem Storage.mem_active_setEntry {t : Storage} {e x : StoEntry} (h : x ∈ t.active) (hidx : x.idx = e.idx) :
    e ∈ (t.setEntry e).active :=
  List.mem_map.mpr ⟨x, h, if_pos hidx⟩

end Sys2Proof.Machine
end

section
/-! PROOF. The operations of the storage controller that its commands share: what each writes and what it leaves alone (R376, R380, R382). -/

namespace Sys2Proof.Machine

variable (s t : State)

/-! ### Parts -/

theorem State.setSto_only (x : Storage) : s.only (s.setSto x) [.sto] := by
  intro p hp
  cases p
  case sto => simp at hp
  all_goals rfl

@[simp] theorem State.sto_setSto (x : Storage) : (s.setSto x).sto = x := rfl

@[simp] theorem State.sto_store (a : Nat) (b : List Byte) : (s.store a b).sto = s.sto := s.store_only a b .sto (by simp)

@[simp] theorem State.sto_stoCard (event ofs cnt : Nat) : (s.stoCard event ofs cnt).sto = s.sto := s.card_only _ .sto (by simp)

@[simp] theorem State.mem_stoCard (event ofs cnt : Nat) : (s.stoCard event ofs cnt).mem = s.mem := s.card_only _ .mem (by simp)

section
variable {l : List Part}

@[simp] theorem State.only_setSto_iff (h : .sto ∈ l) (x : Storage) : s.only (t.setSto x) l ↔ s.only t l :=
  State.only_iff_of_only (t.setSto_only x) h

@[simp] theorem State.only_stoCard_iff (hr : .regs ∈ l) (he : .events ∈ l) (hc : .chn ∈ l) (event ofs cnt : Nat) :
    s.only (t.stoCard event ofs cnt) l ↔ s.only t l := s.only_card_iff t hr he hc _

@[simp] theorem State.only_setBusy_iff (h : .regs ∈ l) (k : Nat) (b : Bool) : s.only (t.setBusy k b) l ↔ s.only t l := by
  simp [State.setBusy, h]

end

/-! ### Busy banks (STO_BUSY) -/

@[simp] theorem State.sto_setBusy (k : Nat) (b : Bool) : (s.setBusy k b).sto = s.sto := rfl

theorem State.rd_setBusy {a : Nat} (hbusy : a ≠ R.STO_BUSY.at) (hstat : a ≠ R.STO_STAT.at) (k : Nat) (b : Bool) :
    (s.setBusy k b).rd a = s.rd a := by
  rw [State.setBusy, State.rd_fset_ne _ _ _ _ _ _ hstat, State.rd_rset_ne _ _ _ _ _ _ hbusy]

theorem State.busy_setBusy {k : Nat} (h : k < 32) : bit ((s.setBusy k true).rget R.STO_BUSY) k = true := by
  have hnew : (s.setBusy k true).rget R.STO_BUSY = (s.rget R.STO_BUSY ||| 2 ^ k) % 2 ^ 32 := by
    rw [State.setBusy, State.rget_fset_ne _ _ _ _ _ _ _ _ (by decide), State.rget_rset_self, if_pos rfl]
  rw [hnew, bit_eq_testBit, Nat.testBit_mod_two_pow, ← bit_eq_testBit, bit_or_two_pow_self, decide_eq_true h, Bool.and_self]

/-! ### Corrected words (R376) -/

/-- A correction shows in counters and cards, and in the storage as its bank's last card alone. -/
theorem State.sto_correction (ofs n : Nat) : ∃ w, (s.correction ofs n).sto = { s.sto with warnTb := w } := by
  unfold State.correction
  split
  · exact ⟨_, rfl⟩
  · dsimp only
    split
    · exact ⟨_, State.sto_stoCard _ _ _ _⟩
    · exact ⟨_, rfl⟩

theorem State.correction_only (ofs n : Nat) : s.only (s.correction ofs n) [.regs, .chn, .sto, .events] := by
  unfold State.correction
  split
  · exact s.only_refl _
  · dsimp only
    split <;> simp

/-- The corrections of consecutive words. -/
def State.corrections (s : State) (ofs : Nat) (errOf : Nat → Nat) (l : List Nat) : State :=
  l.foldl (fun s i => s.correction (ofs + 8 * i) (errOf i)) s

section
variable (ofs : Nat) (errOf : Nat → Nat) (l : List Nat)

theorem State.sto_corrections : ∃ w, (s.corrections ofs errOf l).sto = { s.sto with warnTb := w } :=
  List.foldlRecOn (motive := fun u : State => ∃ w, u.sto = { s.sto with warnTb := w }) _ _ ⟨_, rfl⟩ fun u ⟨w, hu⟩ j _ => by
    obtain ⟨w', hnext⟩ := u.sto_correction (ofs + 8 * j) (errOf j)
    exact ⟨w', by rw [hnext, hu]⟩

theorem State.corrections_only : s.only (s.corrections ofs errOf l) [.regs, .chn, .sto, .events] :=
  List.foldlRecOn (motive := fun u : State => s.only u [.regs, .chn, .sto, .events]) _ _ (s.only_refl _) fun u hu _ _ =>
    State.only_trans hu (u.correction_only _ _)

end

/-! ### The end of an entry (R380) -/

theorem State.byte_store (a : Nat) (l : List Byte) (b : Nat) : (s.store a l).mem.byte b = (s.mem.store a l).byte b :=
  s.byte_putMem (by omega) b

theorem State.byte_store_one (a : Nat) (v : Byte) : (s.store a [v]).mem.byte a = v := by
  rw [s.byte_store, Memory.byte_store, if_pos (by simp), Nat.sub_self, List.getD_cons_zero]

theorem State.byte_store_of_ne {a b : Nat} {l : List Byte} (h : ¬(a ≤ b ∧ b < a + l.length)) : (s.store a l).mem.byte b = s.mem.byte b :=
  s.bytesOnly_store a l b h

/-- The result fields of a finished entry (Table 13-3). -/
def StoEntry.result (e : StoEntry) (failofs : Nat) : List Byte :=
  leBytes 4 e.doneCnt ++ leBytes 4 e.corrBits ++ [BitVec.ofNat 8 e.corrMax, 0] ++ leBytes 2 e.reloc ++ leBytes 4 e.blankW ++ leBytes 4 failofs

theorem StoEntry.length_result (e : StoEntry) (failofs : Nat) : (e.result failofs).length = 20 := by simp [StoEntry.result, leBytes_length]

/-- The state with the result of an entry, its time and its STATUS in the ring. -/
def State.storeResult (s : State) (e : StoEntry) (status failofs : Nat) : State :=
  let u := s.store (s.stoSlot e.idx + 24) (e.result failofs)
  (u.store (s.stoSlot e.idx + 48) (leBytes 8 u.now)).store (s.stoSlot e.idx + 1) [BitVec.ofNat 8 status]

/-- The state with an entry active no more, its interrupt raised where its flags ask for it. -/
def State.leaveRing (s : State) (e : StoEntry) : State :=
  let u := s.setSto { s.sto with active := s.sto.active.filter (fun x => x.idx != e.idx) }
  if bit e.flags 2 then { u with irqSto := true } else u

section
variable (e : StoEntry) (status failofs : Nat)

theorem State.stoFinish_eq : s.stoFinish e status failofs =
    if 0x12 ≤ status then ((s.storeResult e status failofs).leaveRing e).stoCard status failofs e.doneCnt
    else (s.storeResult e status failofs).leaveRing e := rfl

theorem State.leaveRing_eq : (s.leaveRing e).mem = s.mem ∧
    (s.leaveRing e).sto = { s.sto with active := s.sto.active.filter (fun x => x.idx != e.idx) } := by
  unfold State.leaveRing
  dsimp only
  split <;> exact ⟨rfl, rfl⟩

theorem State.sto_storeResult : (s.storeResult e status failofs).sto = s.sto := by simp [State.storeResult]

theorem State.mem_stoFinish : (s.stoFinish e status failofs).mem = (s.storeResult e status failofs).mem := by
  rw [s.stoFinish_eq, apply_ite State.mem, State.mem_stoCard, ite_self]
  exact (State.leaveRing_eq _ e).1

theorem State.sto_stoFinish : (s.stoFinish e status failofs).sto = { s.sto with active := s.sto.active.filter (fun x => x.idx != e.idx) } := by
  rw [s.stoFinish_eq, apply_ite State.sto, State.sto_stoCard, ite_self, (State.leaveRing_eq _ e).2, State.sto_storeResult]

theorem State.status_stoFinish : (s.stoFinish e status failofs).mem.byte (s.stoSlot e.idx + 1) = BitVec.ofNat 8 status := by
  rw [s.mem_stoFinish]
  exact State.byte_store_one _ _ _

theorem State.bytesOnly_stoFinish : s.bytesOnly (s.stoFinish e status failofs) (s.stoSlot e.idx) 64 := by
  intro b hb
  have hbyte (u : State) {o : Nat} {l : List Byte} (h : o + l.length ≤ 64) : (u.store (s.stoSlot e.idx + o) l).mem.byte b = u.mem.byte b :=
    u.byte_store_of_ne (by omega)
  rw [s.mem_stoFinish, State.storeResult, hbyte _ (by simp), hbyte _ (by simp [leBytes_length]), hbyte _ (by simp [e.length_result])]

end

end Sys2Proof.Machine
end

section
/-! PROOF. The storage controller reads its ring: an entry becomes active or is refused (R380, R381, R383). -/

namespace Sys2Proof.Machine

variable (s : State)

/-- The commands of the descriptor ring, each with the opcode it reads. -/
def stoStarts : List (Instr × Nat) := [(.stoRead, 1), (.stoProgram, 2), (.stoErase, 3), (.stoRelocate, 4), (.stoCounts, 5)]

theorem exec_of_mem_stoStarts {x : Instr × Nat} (h : x ∈ stoStarts) : exec x.1 s = .next (s.stoFetch x.2) := by
  simp only [stoStarts, List.mem_cons, List.not_mem_nil, or_false] at h
  rcases h with rfl | rfl | rfl | rfl | rfl <;> rfl

/-- The entry that the controller makes of a descriptor's bytes (Table 13-3). -/
def StoEntry.ofBytes (i : Nat) (b : List Byte) : StoEntry where
  idx := i
  op := leAt b 0 1
  flags := leAt b 2 1
  count := leAt b 4 4
  saddr := leAt b 8 8
  maddr := leAt b 16 8
  doneCnt := 0
  corrBits := 0
  corrMax := 0
  reloc := 0
  blankW := 0
  started := false
  susp := false

/-- The entry at STO_TAIL. -/
def State.stoTailEntry (s : State) : StoEntry :=
  .ofBytes (s.fget F.STO_TAIL_INDEX) (s.load (s.stoSlot (s.fget F.STO_TAIL_INDEX)) 64)

/-- The state with STO_TAIL at the next entry of the ring. -/
def State.stoAdvance (s : State) : State :=
  s.fset F.STO_TAIL_INDEX ((s.fget F.STO_TAIL_INDEX + 1) % (s.fget F.STO_RINGCFG_SIZEM1 + 1))

/-- The state with the entry at STO_TAIL active, its STATUS 1. -/
def State.stoAccept (s : State) : State :=
  (s.stoAdvance.store (s.stoAdvance.stoSlot (s.fget F.STO_TAIL_INDEX) + 1) [1]).setSto
    { s.sto with active := s.sto.active ++ [s.stoTailEntry] }

/-- The state with the entry at STO_TAIL refused with a status. -/
def State.stoRefuse (s : State) (st : Nat) : State := s.stoAdvance.stoFinish s.stoTailEntry st (s.stoTailEntry.saddr % 2 ^ 32)

theorem State.stoSlot_stoAdvance (i : Nat) : s.stoAdvance.stoSlot i = s.stoSlot i := by
  rw [State.stoSlot, State.stoSlot, State.stoAdvance, State.rget_fset_ne _ _ _ _ _ _ _ _ (by decide)]

section
variable {s} {op : Nat} (hen : s.flag F.STO_RINGCFG_EN = true) (hne : s.fget F.STO_TAIL_INDEX ≠ s.fget F.STO_HEAD_INDEX)
  (hruns : s.fget F.PWR_STAT_STATE = 0) (hop : leAt (s.load (s.stoSlot (s.fget F.STO_TAIL_INDEX)) 64) 0 1 = op)
include hen hne hruns hop

theorem State.stoFetch_of_sound (hst : stoRefusal (s.load (s.stoSlot (s.fget F.STO_TAIL_INDEX)) 64) = none) :
    s.stoFetch op = s.stoAccept.stoKick := by
  simp only [State.stoFetch, hen, hne, hruns, hop, hst, Bool.not_true, Bool.false_eq_true, ne_eq, not_true_eq_false, or_self, false_and,
    if_false]
  rw [← hop]
  rfl

theorem State.stoFetch_of_refused {st : Nat} (hst : stoRefusal (s.load (s.stoSlot (s.fget F.STO_TAIL_INDEX)) 64) = some st) :
    s.stoFetch op = s.stoRefuse st := by
  simp only [State.stoFetch, hen, hne, hruns, hop, hst, Bool.not_true, Bool.false_eq_true, ne_eq, not_true_eq_false, or_self, false_and,
    if_false]
  rw [← hop]
  rfl

end

/-! ### What an accepted entry changes -/

theorem State.status_stoAccept : s.stoAccept.mem.byte (s.stoSlot (s.fget F.STO_TAIL_INDEX) + 1) = 1 := by
  rw [← s.stoSlot_stoAdvance]
  exact State.byte_store_one _ _ _

theorem State.bytesOnly_stoAccept : s.bytesOnly s.stoAccept (s.stoSlot (s.fget F.STO_TAIL_INDEX) + 1) 1 := by
  rw [← s.stoSlot_stoAdvance]
  exact s.stoAdvance.bytesOnly_store _ [1]

theorem State.tail_stoAccept : s.stoAccept.fget F.STO_TAIL_INDEX = (s.fget F.STO_TAIL_INDEX + 1) % (s.fget F.STO_RINGCFG_SIZEM1 + 1) := by
  have hstore : s.stoAccept.fget F.STO_TAIL_INDEX = s.stoAdvance.fget F.STO_TAIL_INDEX :=
    s.stoAdvance.fget_store_of_above (f := F.STO_TAIL_INDEX) (d := 0) (by decide) _ [1]
  have hsize : s.fget F.STO_RINGCFG_SIZEM1 < 2 ^ 8 := getField_lt _ _ _
  rw [hstore, State.stoAdvance, State.fget_fset_self _ _ _ _ _ (by decide) (by decide)]
  exact Nat.mod_eq_of_lt ((Nat.mod_lt _ (Nat.succ_pos _)).trans_le hsize)

theorem State.stoAccept_only : s.only s.stoAccept [.regs, .mem, .sto] := by
  simp [State.stoAccept, State.stoAdvance, State.only_store_iff]

/-! ### What a refused entry changes -/

section
variable (st : Nat)

theorem State.status_stoRefuse : (s.stoRefuse st).mem.byte (s.stoSlot (s.fget F.STO_TAIL_INDEX) + 1) = BitVec.ofNat 8 st := by
  rw [← s.stoSlot_stoAdvance]
  exact s.stoAdvance.status_stoFinish s.stoTailEntry st _

theorem State.bytesOnly_stoRefuse : s.bytesOnly (s.stoRefuse st) (s.stoSlot (s.fget F.STO_TAIL_INDEX)) 64 := by
  rw [← s.stoSlot_stoAdvance]
  exact s.stoAdvance.bytesOnly_stoFinish s.stoTailEntry st _

theorem State.stored_stoRefuse : (s.stoRefuse st).sto.cells = s.sto.cells ∧ (s.stoRefuse st).sto.sectors = s.sto.sectors := by
  rw [State.stoRefuse, State.sto_stoFinish]
  exact ⟨rfl, rfl⟩

end

end Sys2Proof.Machine
end

section
/-! PROOF. Words, sectors and chunks: what begins an erase, what a chunk delivers, what a word and an erased sector hold (R374, R376, R383,
R384, R386). -/

namespace Sys2Proof.Machine

variable (s : State)

/-! ### An erase begins (R386, R388) -/

/-- The state with an erase of sector `n` counted, and the card at the count that warns. -/
def State.countErase (s : State) (n : Nat) : State :=
  let u := s.setSto (s.sto.setSector n { s.sto.sector n with count := (s.sto.sector n).count + 1 })
  if (s.sto.sector n).count + 1 = u.fget F.STO_WEARWARN_WARN then u.stoCard 0x83 (4096 * n) ((s.sto.sector n).count + 1) else u

theorem State.sto_countErase (n : Nat) :
    (s.countErase n).sto = s.sto.setSector n { s.sto.sector n with count := (s.sto.sector n).count + 1 } := by
  unfold State.countErase
  dsimp only
  split
  · exact State.sto_stoCard _ _ _ _
  · rfl

/-- The state with the step of an entry running in its bank. -/
def State.beginSector (s : State) (e : StoEntry) : State :=
  ((s.wbmDropSector e.sectorNow).setBusy e.bank true).setSto (s.sto.setEntry { e with started := true })

theorem State.count_countErase (n : Nat) : ((s.countErase n).sto.sector n).count = (s.sto.sector n).count + 1 := by
  rw [s.sto_countErase, Storage.sector_setSector]

theorem State.cells_countErase (n : Nat) : (s.countErase n).sto.cells = s.sto.cells := by
  rw [s.sto_countErase]
  rfl

theorem State.sector_beginSector (e : StoEntry) (n : Nat) : (s.beginSector e).sto.sector n = s.sto.sector n := rfl

theorem State.cells_beginSector (e : StoEntry) : (s.beginSector e).sto.cells = s.sto.cells := rfl

theorem State.busy_beginSector {e : StoEntry} (h : e.bank < 32) : bit ((s.beginSector e).rget R.STO_BUSY) e.bank = true := by
  have hbusy : (s.beginSector e).rget R.STO_BUSY = ((s.wbmDropSector e.sectorNow).setBusy e.bank true).rget R.STO_BUSY := rfl
  rw [hbusy, State.busy_setBusy _ h]

theorem State.stoStep_of_erase {s : State} {e : StoEntry} (fuel : Nat) (hop : e.op = 3) (hleft : e.doneCnt < e.count)
    (hbank : s.bankStopped e.bank = false) (hread : (s.sto.sector e.sectorNow).state ≠ 2) (hdead : (s.sto.sector e.sectorNow).state ≠ 3)
    (hwear : (s.sto.sector e.sectorNow).count < s.wearLimit) : s.stoStep e (fuel + 1) = (s.countErase e.sectorNow).beginSector e := by
  have hprogram : ¬e.op = 2 := by omega
  have hstopped : ¬s.bankStopped e.bank = true := by simp [hbank]
  change (if e.op = 2 then _ else if e.op = 3 then _ else _) = _
  rw [if_neg hprogram, if_pos hop, if_neg (Nat.not_le.mpr hleft), if_neg hstopped]
  dsimp only
  rw [if_neg hdead, if_neg hread, if_neg (Nat.not_le.mpr hwear)]
  rfl

/-! ### A sector erase ends (R386) -/

/-- The entry with one more word or sector done, its step not yet running. -/
def StoEntry.advanced (e : StoEntry) : StoEntry := { e with doneCnt := e.doneCnt + 1, started := false }

theorem execSectorEraseDone_of_good {s : State} {k : Fin 32} {e : StoEntry} (hcur : s.sto.current k.val = some e) (hop : e.op = 3)
    (hstarted : e.started = true) : execSectorEraseDone k true s = .next ((((s.setBusy k.val false).setSto
      ((s.sto.eraseSector e.sectorNow).setEntry e.advanced)).stoStep e.advanced (e.count + 1)).stoKick) := by
  have hdue : ¬(e.op ≠ 3 ∨ (!e.started) = true) := by simp [hop, hstarted]
  simp only [execSectorEraseDone, State.eraseDone, hcur, if_neg hdue, if_true]
  rfl

/-! ### A word is programmed (R384) -/

/-- The 8 bytes at a virtual address that a page map gives; a byte that is not mapped reads 0. -/
def State.wordAt (s : State) (m : PageMap) (va : Nat) : List Byte :=
  (List.range 8).map (fun i => match m.phys .read (va + i) with
    | some a => s.physByte a
    | none => 0)

theorem State.length_wordAt (m : PageMap) (va : Nat) : (s.wordAt m va).length = 8 := by simp [State.wordAt]

/-- The state with the word of an entry programmed and the entry at its next one. -/
def State.programmed (s : State) (e : StoEntry) (b : List Byte) : State :=
  s.setSto ((s.sto.progWord (e.saddr / 8 + e.doneCnt) b).setEntry e.advanced)

section
variable (e : StoEntry) {b : List Byte} (hb : b.length = 8)

theorem State.err_programmed (b : List Byte) : (s.programmed e b).sto.err (e.saddr / 8 + e.doneCnt) = 0 := s.sto.err_progWord _ b

include hb

theorem State.read_programmed : (s.programmed e b).sto.read (8 * (e.saddr / 8 + e.doneCnt)) 8 = b :=
  (Storage.read_of_cells rfl _ _).trans (s.sto.read_progWord hb (e.saddr / 8 + e.doneCnt))

theorem State.byte_programmed_of_ne {o : Nat} (ho : ¬(8 * (e.saddr / 8 + e.doneCnt) ≤ o ∧ o < 8 * (e.saddr / 8 + e.doneCnt) + 8)) :
    (s.programmed e b).sto.byte o = s.sto.byte o := (s.sto.byte_progWord hb _ o).trans (if_neg ho)

end

theorem execStorageWordDone_of_good {s v : State} {k : Fin 32} {e : StoEntry} {m : PageMap} (hcur : s.sto.current k.val = some e)
    (hop : e.op = 2) (hstarted : e.started = true) (hpages : (s.setBusy k.val false).translatePages 0x20 (s.fget F.STO_RINGCFG_CTX)
      [((e.maddr + 8 * e.doneCnt) / 4096, .read)] [] = (.ok m, v)) : execStorageWordDone k true s = .next
      (((v.programmed e (v.wordAt m (e.maddr + 8 * e.doneCnt))).stoStep e.advanced (e.count + 1)).stoKick) := by
  have hctx : (s.setBusy k.val false).fget F.STO_RINGCFG_CTX = s.fget F.STO_RINGCFG_CTX :=
    State.fget_of_rd (s.rd_setBusy (by decide) (by decide) _ _)
  have hdue : ¬(e.op ≠ 2 ∨ (!e.started) = true) := by simp [hop, hstarted]
  simp only [execStorageWordDone, State.wordDone, hcur, if_neg hdue, if_true, hctx, hpages]
  rfl

/-! ### A chunk is delivered (R376, R383) -/

/-- The writes that put `b` at the virtual address `va`, where a page map lets them. -/
def pageWrites (m : PageMap) (va : Nat) (b : List Byte) : List (Nat × Byte) :=
  b.zipIdx.filterMap (fun x => (m.phys .write (va + x.2)).map (fun a => (a, x.1)))

/-- The blank words among the 512 from a storage offset. -/
def State.blankWords (s : State) (ofs : Nat) : Nat :=
  (((List.range 512).map (fun i => ofs / 8 + i)).filter (fun w => s.sto.blank w)).length

/-- A READ entry with a chunk of 4 KiB done: `corr` gives the corrected bits of its words, `blank` counts the blank ones. -/
def StoEntry.chunkDone (e : StoEntry) (corr : List Nat) (blank : Nat) : StoEntry :=
  { e with
    doneCnt := e.doneCnt + 4096
    corrBits := satAdd 32 e.corrBits corr.sum
    corrMax := max e.corrMax (corr.foldl max 0)
    blankW := e.blankW + blank
    started := true }

/-- The state with the blank words of an entry's chunk counted and the entry at its next chunk. -/
def State.chunkDone (s : State) (e : StoEntry) (corr : List Nat) : State :=
  (s.count R.STO_BLANK (s.blankWords (e.saddr + e.doneCnt))).setSto
    (s.sto.setEntry (e.chunkDone corr (s.blankWords (e.saddr + e.doneCnt))))

theorem State.cells_chunkDone (e : StoEntry) (corr : List Nat) : (s.chunkDone e corr).sto.cells = s.sto.cells := rfl

theorem State.mem_chunkDone (e : StoEntry) (corr : List Nat) : (s.chunkDone e corr).mem = s.mem := by
  rw [State.chunkDone, State.setSto_mem, State.count_mem]

theorem State.active_chunkDone {e : StoEntry} (h : e ∈ s.sto.active) (corr : List Nat) :
    ∃ e', e' ∈ (s.chunkDone e corr).sto.active ∧ e'.idx = e.idx ∧ e'.doneCnt = e.doneCnt + 4096 :=
  ⟨_, Storage.mem_active_setEntry h rfl, rfl, rfl⟩

/-- The writes that deliver an entry's next 4 KiB. -/
def State.chunkWrites (s : State) (e : StoEntry) (m : PageMap) : List (Nat × Byte) :=
  pageWrites m (e.maddr + e.doneCnt) (s.sto.read (e.saddr + e.doneCnt) 4096)

/-- The state with a chunk of 4 KiB delivered through a page map, its words corrected by what `errOf` gives, and its entry carried on. -/
def State.chunkDelivered (s : State) (e : StoEntry) (m : PageMap) (errOf : Nat → Nat) : State :=
  ((s.writeBytes (s.chunkWrites e m)).corrections (e.saddr + e.doneCnt) errOf (List.range 512)).chunkDone e ((List.range 512).map errOf)

section
variable (e : StoEntry) (m : PageMap) (errOf : Nat → Nat)

theorem State.sto_delivered (ofs : Nat) (l : List (Nat × Byte)) (words : List Nat) :
    ∃ tb, ((s.writeBytes l).corrections ofs errOf words).sto = { s.sto with warnTb := tb } := by
  obtain ⟨tb, hsto⟩ := (s.writeBytes l).sto_corrections ofs errOf words
  exact ⟨tb, by rw [hsto, s.writeBytes_only l .sto (by simp)]⟩

theorem State.cells_chunkDelivered : (s.chunkDelivered e m errOf).sto.cells = s.sto.cells := by
  obtain ⟨tb, hsto⟩ := s.sto_delivered errOf (e.saddr + e.doneCnt) (s.chunkWrites e m) (List.range 512)
  rw [State.chunkDelivered, State.cells_chunkDone, hsto]

theorem State.active_chunkDelivered {e : StoEntry} (h : e ∈ s.sto.active) : ∃ e', e' ∈ (s.chunkDelivered e m errOf).sto.active ∧
    e'.idx = e.idx ∧ e'.doneCnt = e.doneCnt + 4096 := by
  obtain ⟨tb, hsto⟩ := s.sto_delivered errOf (e.saddr + e.doneCnt) (s.chunkWrites e m) (List.range 512)
  exact State.active_chunkDone _ (by rwa [hsto]) _

theorem State.mem_chunkDelivered : (s.chunkDelivered e m errOf).mem = (s.writeBytes (s.chunkWrites e m)).mem := by
  rw [State.chunkDelivered, State.mem_chunkDone]
  exact State.corrections_only _ _ _ _ .mem (by simp)

end

/-- The words of a 4 KiB chunk, none of them uncorrectable or in a dead sector, are delivered. -/
theorem execStorageReadChunk_of_sound {s u : State} {k : Fin 32} {e : StoEntry} {m : PageMap} (hcur : s.sto.current k.val = some e)
    (hop : e.op = 1) (hmore : e.doneCnt + 4096 < e.count)
    (hsound : ∀ i, i < 512 → s.sto.err ((e.saddr + e.doneCnt) / 8 + i) < 3 ∧
      (s.sto.sector ((e.saddr + e.doneCnt + 8 * i) / 4096)).state ≠ 3)
    (hpages : s.translatePages 0x20 (s.fget F.STO_RINGCFG_CTX)
      ((pagesOf (e.maddr + e.doneCnt) 4096).map (fun v => (v, Acc3.write))) [] = (.ok m, u))
    {errOf : Nat → Nat} (herrOf : errOf = fun i => s.sto.err ((e.saddr + e.doneCnt) / 8 + i)) :
    execStorageReadChunk k [] s = .next ((u.violatePages 0x20 (s.fget F.STO_RINGCFG_CTX) m).chunkDelivered e m errOf) := by
  subst herrOf
  have hread : ¬(e.op ≠ 1 ∧ e.op ≠ 5) := by simp [hop]
  have hsize : min 4096 (e.count - e.doneCnt) = 4096 := by omega
  have hnone : (List.range 512).find? (fun i => s.sto.err ((e.saddr + e.doneCnt) / 8 + i) == 3 ||
      (s.sto.sector ((e.saddr + e.doneCnt + 8 * i) / 4096)).state == 3) = none := by
    refine List.find?_eq_none.mpr fun i hi => ?_
    obtain ⟨herr, hstate⟩ := hsound i (List.mem_range.mp hi)
    simp [hstate, Nat.ne_of_lt herr]
  have hwords : 4096 / 8 = 512 := rfl
  simp only [execStorageReadChunk, hcur, hwords, if_neg hread, if_pos hop, hsize, List.find?_nil, List.length_map, List.length_range, hnone,
    hpages, if_neg (Nat.not_le.mpr hmore), State.stoChunk, State.chunkDelivered, State.chunkWrites, State.chunkDone, State.blankWords,
    StoEntry.chunkDone, State.corrections, pageWrites, State.count_sto]

end Sys2Proof.Machine
end

section
/-! PROOF. Reads through the storage window, erases of spares and the clear of the counters (R374 to R377, R390, R393, Table 13-9). -/

namespace Sys2Proof.Machine

variable (s : State)

/-! ### The window (R374 to R377) -/

/-- The state with the read position of bank `k` noted, where the read is wide. -/
def State.noteRead (s : State) (wide : Bool) (k o : Nat) : State :=
  if wide then s.setSto { s.sto with readPos := Sparse.put (fun _ => 0) s.sto.readPos k (o / 256 + 2) } else s

theorem State.cells_noteRead (wide : Bool) (k o : Nat) : (s.noteRead wide k o).sto.cells = s.sto.cells := by
  cases wide <;> rfl

theorem State.noteRead_only (wide : Bool) (k o : Nat) : s.only (s.noteRead wide k o) [.sto] := by
  cases wide
  · exact s.only_refl _
  · exact s.setSto_only _

/-- The state with the blank words at storage offsets counted. -/
def State.countBlank (s : State) (offs : List Nat) : State := s.count R.STO_BLANK (offs.filter (fun i => s.sto.blank (i / 8))).length

/-- The offsets of the words in `w` bytes from `o`. -/
def wordOffs (o w : Nat) : List Nat := (List.range (w / 8)).map (fun i => o + 8 * i)

/-- The state with a window read of `w` bytes accounted for: its correction, its blank words, its position. -/
def State.windowNoted (s : State) (wide : Bool) (k o w worst : Nat) : State :=
  ((s.correction o worst).countBlank (wordOffs o w)).noteRead wide k o

section
variable (wide : Bool) (k o w worst : Nat)

theorem State.cells_windowNoted : (s.windowNoted wide k o w worst).sto.cells = s.sto.cells := by
  obtain ⟨tb, hsto⟩ := s.sto_correction o worst
  rw [State.windowNoted, State.cells_noteRead, State.countBlank, State.count_sto, hsto]

theorem State.windowNoted_only : s.only (s.windowNoted wide k o w worst) [.regs, .chn, .sto, .events] := by
  have hcount : s.only ((s.correction o worst).countBlank (wordOffs o w)) [.regs, .chn, .sto, .events] :=
    (s.only_count_iff _ (by simp) _ _ _ _).mpr (s.correction_only o worst)
  exact State.only_trans hcount (State.only_mono (State.noteRead_only _ wide k o) (by simp))

end

/-- The state with a window read of `w` bytes from `o` answered. -/
def State.windowAnswered (s : State) (wide : Bool) (k o w worst : Nat) : State :=
  (s.windowNoted wide k o w worst).respond false ((s.windowNoted wide k o w worst).sto.read o w)

section
variable (wide : Bool) (k o w worst : Nat)

theorem State.resp_windowAnswered : (s.windowAnswered wide k o w worst).resp = ⟨false, s.sto.read o w⟩ :=
  congrArg (Resp.mk false) (Storage.read_of_cells (s.cells_windowNoted wide k o w worst) o w)

theorem State.windowAnswered_only : s.only (s.windowAnswered wide k o w worst) [.regs, .chn, .sto, .events, .resp] :=
  (s.only_respond_iff _ (by simp) _ _).mpr (State.only_mono (s.windowNoted_only wide k o w worst) (by simp))

end

theorem execStorageWindowRead_of_sound {s : State} {r : Req} {a : Addr} {wide : Bool} {worst : Fin 4} {k w o : Nat}
    (hloc : s.loc a.toNat = .store k) (hworst : worst.val < 3) (hw : (if wide then 256 else 8) = w)
    (ho : (a.toNat - 0x1000000000) / w * w = o) (huncached : (wide && usesWbm r && s.fget F.MEM_WBMCACHE_SIZE != 0) = false)
    (hok : s.windowCheck false (wordOffs o w) = .ok) : execStorageWindowRead r a wide worst s =
      .next (s.windowAnswered wide k o w worst.val) := by
  rw [wordOffs] at hok
  simp only [execStorageWindowRead, hloc, hw, ho, huncached, hok, Bool.false_and, Bool.false_eq_true, if_false, if_neg (Nat.ne_of_lt hworst)]
  rfl

/-! ### Spares (R390, R393) -/

section
variable {s} {k : Fin 32} {d : Nat × Nat} (hdirty : s.sto.dirtySpares.find? (fun x => x.1 == k.val) = some d)
include hdirty

theorem execSpareErase_of_idle (hfree : s.bankBusy k.val = false) (hidle : s.sto.active.any (fun e => e.bank == k.val) = false) :
    execSpareErase k true s = .next ((s.setBusy k.val true).setFlag F.STO_STAT_CLEANUP true) := by
  simp [execSpareErase, hdirty, hfree, hidle]

theorem execSpareErase_of_cleanup (hbusy : s.bankBusy k.val = true) (hclean : s.flag F.STO_STAT_CLEANUP = true) (hidle : s.sto.active = []) :
    execSpareErase k false s = .next (((s.setBusy k.val false).setFlag F.STO_STAT_CLEANUP false).setSto
      { s.sto with dirtySpares := s.sto.dirtySpares.erase d }) := by
  simp [execSpareErase, hdirty, hbusy, hclean, State.stoKick, hidle]

end

theorem State.bankBusy_setFlag_cleanup {k : Nat} (hk : k < 32) (b : Bool) :
    ((s.setBusy k true).setFlag F.STO_STAT_CLEANUP b).bankBusy k = true := by
  rw [State.bankBusy, State.setFlag, State.rget_fset_ne _ _ _ _ _ _ _ _ (by decide), s.busy_setBusy hk, Bool.true_or]

theorem State.flag_setFlag_cleanup (b : Bool) : (s.setFlag F.STO_STAT_CLEANUP b).flag F.STO_STAT_CLEANUP = b :=
  s.flag_setFlag_self _ b _ _ (by decide) (by decide)

/-! ### CNTCLR (Table 13-9) -/

/-- The storage counters that CNTCLR clears. -/
def State.clearStoCounters (s : State) : State :=
  ((((s.rset R.STO_CORRBITS 0).rset R.STO_UNCORR 0).rset R.STO_BLANK 0).rset R.STO_BUSYERR 0).rset R.STO_RELOC 0

theorem State.counters_clearStoCounters : s.clearStoCounters.rget R.STO_CORRBITS = 0 ∧ s.clearStoCounters.rget R.STO_UNCORR = 0 ∧
    s.clearStoCounters.rget R.STO_BLANK = 0 ∧ s.clearStoCounters.rget R.STO_BUSYERR = 0 ∧ s.clearStoCounters.rget R.STO_RELOC = 0 := by
  simp (disch := decide) [State.clearStoCounters, State.rget_rset_ne]

theorem State.fget_warn_clearStoCounters : s.clearStoCounters.fget F.STO_CTL_WARN = s.fget F.STO_CTL_WARN := by
  simp (disch := decide) only [State.clearStoCounters, State.fget_rset_ne]

theorem State.clearStoCounters_regsOnly :
    s.regsOnly s.clearStoCounters [R.STO_CORRBITS.at, R.STO_UNCORR.at, R.STO_BLANK.at, R.STO_BUSYERR.at, R.STO_RELOC.at] := by
  rw [State.regsOnly_iff_regsBut]
  simp (disch := decide) [State.clearStoCounters]

/-- The state with WARN written and the storage counters clear. -/
def State.stoCtlCleared (s : State) (v : Word) : State := (s.fset F.STO_CTL_WARN (getField v 16 2)).clearStoCounters

theorem State.fget_warn_stoCtlCleared (v : Word) : (s.stoCtlCleared v).fget F.STO_CTL_WARN = getField v 16 2 := by
  rw [State.stoCtlCleared, State.fget_warn_clearStoCounters, s.fget_fset_self _ _ _ _ (by decide) (by decide)]
  exact Nat.mod_eq_of_lt (getField_lt v 16 2)

theorem State.stoCtlCleared_only (v : Word) : s.only (s.stoCtlCleared v) [.regs] := by
  simp [State.stoCtlCleared, State.clearStoCounters]

theorem State.stoCtlCleared_regsOnly (v : Word) : s.regsOnly (s.stoCtlCleared v)
    [R.STO_CTL.at, R.STO_CORRBITS.at, R.STO_UNCORR.at, R.STO_BLANK.at, R.STO_BUSYERR.at, R.STO_RELOC.at] := by
  have hwarn : s.regsOnly (s.fset F.STO_CTL_WARN (getField v 16 2)) [R.STO_CTL.at] :=
    fun a ha => s.rd_fset_ne _ _ _ _ _ (List.ne_of_not_mem_cons ha)
  exact State.regsOnly_trans (State.regsOnly_mono hwarn (by simp)) (State.regsOnly_mono (State.clearStoCounters_regsOnly _) (by simp))

theorem execStoCounterClear_of_homeReq {r : Req} (hr : s.homeReq r) (v : Word) :
    execStoCounterClear r v s = .next (s.stoCtlCleared v) := by
  have hclear : bit (v ||| 1).toNat 0 = true := bit_or_of_set (by decide) v
  rw [execStoCounterClear, State.asHome_of_homeReq hr, State.writeStoCtl, if_pos hclear, getField_or_one v (by decide)]
  rfl

end Sys2Proof.Machine
end

section
/-! PROOF. The obligation of spec/13 on ring entries, chunks, words, sectors, the window and the spares (R374 to R377, R380, R381, R383, R384,
R386, R388, R390, R393). -/

namespace Sys2Proof.Machine

/-- Settles O48: an entry by whether it is refused, a completion by the state it leaves before the next step of its entry. -/
theorem storageEntriesAndWindowReads : Obligations.StorageEntriesAndWindowReads := by
  refine ⟨fun x s hx hen hne hruns hop _ => ⟨fun hst => ?_, fun st hst => ?_⟩,
    fun s e fuel hop hleft hstopped hbank hread hdead hwear => ?_, fun k s u e m hcur hop hmore hsound hpages => ?_,
    fun k s v e m hcur hop hstarted hpages => ?_, fun k s e hcur hop hstarted => ?_, fun r a wide worst s k hloc hworst huncached hok => ?_,
    fun k s d hdirty hfree hidle => ?_, fun k s d hdirty hbusy hclean hidle => ?_, fun r v s hr => ?_⟩
  · exact ⟨s.stoAccept, s.stoTailEntry, by rw [exec_of_mem_stoStarts s hx, State.stoFetch_of_sound hen hne hruns hop hst], rfl, rfl, hop,
      rfl, rfl, rfl, rfl, rfl, rfl, s.status_stoAccept, s.bytesOnly_stoAccept, s.tail_stoAccept, s.stoAccept_only⟩
  · obtain ⟨hcells, hsectors⟩ := s.stored_stoRefuse st
    exact ⟨s.stoRefuse st, by rw [exec_of_mem_stoStarts s hx, State.stoFetch_of_refused hen hne hruns hop hst], s.status_stoRefuse st,
      hcells, hsectors, s.bytesOnly_stoRefuse st⟩
  · rw [State.stoStep_of_erase fuel hop hleft hstopped hread hdead hwear, State.sector_beginSector, State.cells_beginSector]
    exact ⟨s.count_countErase _, s.cells_countErase _, State.busy_beginSector _ hbank⟩
  · have htranslated : s.only u [.mmu] := State.only_of_snd hpages (s.translatePages_only _ _ _ _)
    have hsto : (u.violatePages 0x20 (s.fget F.STO_RINGCFG_CTX) m).sto = s.sto :=
      (u.violatePages_only _ _ m .sto (by simp)).trans (htranslated .sto (by simp))
    have hactive := Storage.mem_active_of_current hcur
    refine ⟨_, execStorageReadChunk_of_sound hcur hop hmore hsound hpages rfl, ?_, State.active_chunkDelivered _ _ _ (by rwa [hsto]), ?_⟩
    · rw [State.cells_chunkDelivered, hsto]
    · rw [State.mem_chunkDelivered, State.chunkWrites, hsto]
      rfl
  · have htranslated : (s.setBusy k.val false).only v [.mmu] := State.only_of_snd hpages (State.translatePages_only _ _ _ _ _)
    have hsto : v.sto = s.sto := htranslated .sto (by simp)
    refine ⟨_, _, execStorageWordDone_of_good hcur hop hstarted hpages, rfl, rfl, rfl, ?_, State.err_programmed _ _ _,
      State.read_programmed _ _ (v.length_wordAt _ _), fun o ho => ?_⟩
    · have hbusy : s.only (s.setBusy k.val false) [.regs, .mmu, .sto] := by simp
      exact (s.only_setSto_iff v (by simp) _).mpr (State.only_trans hbusy (State.only_mono htranslated (by simp)))
    · rw [State.byte_programmed_of_ne _ _ (v.length_wordAt _ _) ho, hsto]
  · refine ⟨_, _, execSectorEraseDone_of_good hcur hop hstarted, rfl, rfl, rfl, by simp, fun o => ?_⟩
    exact s.sto.byte_eraseSector e.sectorNow o
  · exact ⟨_, execStorageWindowRead_of_sound hloc hworst rfl rfl huncached hok, s.resp_windowAnswered _ _ _ _ _,
      s.cells_windowNoted _ _ _ _ _, s.windowAnswered_only _ _ _ _ _⟩
  · exact ⟨_, execSpareErase_of_idle hdirty hfree hidle, s.bankBusy_setFlag_cleanup k.isLt true, State.flag_setFlag_cleanup _ true,
      by simp⟩
  · exact ⟨_, execSpareErase_of_cleanup hdirty hbusy hclean hidle, State.flag_setFlag_cleanup _ false, rfl, by simp⟩
  · obtain ⟨hcorr, huncorr, hblank, hbusyerr, hreloc⟩ := (s.fset F.STO_CTL_WARN (getField v 16 2)).counters_clearStoCounters
    exact ⟨s.stoCtlCleared v, execStoCounterClear_of_homeReq s hr v, hcorr, huncorr, hblank, hbusyerr, hreloc, s.fget_warn_stoCtlCleared v,
      s.stoCtlCleared_only v, s.stoCtlCleared_regsOnly v⟩

end Sys2Proof.Machine
end

section
/-! PROOF. The statements about the step and the queue. -/

namespace Sys2Proof.Machine

/-- Settles O1: this is how `step` is defined on a queue that is not empty. -/
theorem stepRunsFrontCommand : Obligations.StepRunsFrontCommand := fun _ _ _ => rfl

/-- Settles O4: nothing is listed at reset. -/
theorem resetHasCanonicalMemories : Obligations.ResetHasCanonicalMemories := rfl

theorem pending_eq_of_clockQueue {s t : State} (h : t.clockQueue = s.clockQueue ∨ t.clockQueue = (0, s.pending)) :
    t.pending = s.pending :=
  h.elim (congrArg Prod.snd) (congrArg Prod.snd)

/-- Settles O6: every command keeps TIMEBASE and the queue, or zeroes TIMEBASE and keeps the queue. -/
theorem commandsLeaveTheQueueAlone : Obligations.CommandsLeaveTheQueueAlone := fun c s =>
  have ⟨t, hnext, hkept⟩ := exec_clockQueue s c
  ⟨t, hnext, pending_eq_of_clockQueue hkept⟩

end Sys2Proof.Machine
end

section
/-! PROOF. Frames of the parts of the state that power, outputs, hosts and the chain change. -/

namespace Sys2Proof.Machine

variable (s t : State) {l : List Part}

theorem State.only_of_same {q : Part} (h : ∀ p, p ≠ q → p.same s t) : s.only t [q] := fun p hp => h p (by simpa using hp)

/-! A change of one part. -/

theorem State.tap_only (x : Tap) : s.only { s with tap := x } [.tap] := by
  refine s.only_of_same _ fun p hp => ?_
  cases p
  case tap => exact absurd rfl hp
  all_goals rfl

theorem State.lyctx0_only (x : Word) : s.only { s with lyctx0 := x } [.lyctx0] := by
  refine s.only_of_same _ fun p hp => ?_
  cases p
  case lyctx0 => exact absurd rfl hp
  all_goals rfl

theorem State.lyctx1_only (x : Word) : s.only { s with lyctx1 := x } [.lyctx1] := by
  refine s.only_of_same _ fun p hp => ?_
  cases p
  case lyctx1 => exact absurd rfl hp
  all_goals rfl

theorem State.aos_only (x : List (Nat × Ao)) : s.only { s with aos := x } [.aos] := by
  refine s.only_of_same _ fun p hp => ?_
  cases p
  case aos => exact absurd rfl hp
  all_goals rfl

theorem State.aoSilent_only (x : Bool) : s.only { s with aoSilent := x } [.aoSilent] := by
  refine s.only_of_same _ fun p hp => ?_
  cases p
  case aoSilent => exact absurd rfl hp
  all_goals rfl

theorem State.safe_only (x : Safe) : s.only { s with safe := x } [.safe] := by
  refine s.only_of_same _ fun p hp => ?_
  cases p
  case safe => exact absurd rfl hp
  all_goals rfl

theorem State.ledger_only (x : Ledger) : s.only { s with ledger := x } [.ledger] := by
  refine s.only_of_same _ fun p hp => ?_
  cases p
  case ledger => exact absurd rfl hp
  all_goals rfl

theorem State.hosts_only (x : Hosts) : s.only { s with hosts := x } [.hosts] := by
  refine s.only_of_same _ fun p hp => ?_
  cases p
  case hosts => exact absurd rfl hp
  all_goals rfl

theorem State.pwr_only (x : Pwr) : s.only { s with pwr := x } [.pwr] := by
  refine s.only_of_same _ fun p hp => ?_
  cases p
  case pwr => exact absurd rfl hp
  all_goals rfl

theorem State.boot_only (x : Boot) : s.only { s with boot := x } [.boot] := by
  refine s.only_of_same _ fun p hp => ?_
  cases p
  case boot => exact absurd rfl hp
  all_goals rfl

theorem State.acq_only (x : Acq) : s.only { s with acq := x } [.acq] := by
  refine s.only_of_same _ fun p hp => ?_
  cases p
  case acq => exact absurd rfl hp
  all_goals rfl

theorem State.tx_only (x : List Tx) : s.only { s with tx := x } [.tx] := by
  refine s.only_of_same _ fun p hp => ?_
  cases p
  case tx => exact absurd rfl hp
  all_goals rfl

theorem State.rings_only (x : List (Nat × Ring)) : s.only { s with rings := x } [.rings] := by
  refine s.only_of_same _ fun p hp => ?_
  cases p
  case rings => exact absurd rfl hp
  all_goals rfl

theorem State.irqSto_only (x : Bool) : s.only { s with irqSto := x } [.irqSto] := by
  refine s.only_of_same _ fun p hp => ?_
  cases p
  case irqSto => exact absurd rfl hp
  all_goals rfl

theorem State.irqFault_only (x : Nat) : s.only { s with irqFault := x } [.irqFault] := by
  refine s.only_of_same _ fun p hp => ?_
  cases p
  case irqFault => exact absurd rfl hp
  all_goals rfl

theorem State.timebase_only (x : DWord) : s.only { s with timebase := x } [.timebase] := by
  refine s.only_of_same _ fun p hp => ?_
  cases p
  case timebase => exact absurd rfl hp
  all_goals rfl

theorem State.shadows_only (x : List (Nat × Option Word)) : s.only { s with shadows := x } [.shadows] := by
  refine s.only_of_same _ fun p hp => ?_
  cases p
  case shadows => exact absurd rfl hp
  all_goals rfl

theorem State.latches_only (x : List (Nat × Word)) : s.only { s with latches := x } [.latches] := by
  refine s.only_of_same _ fun p hp => ?_
  cases p
  case latches => exact absurd rfl hp
  all_goals rfl

theorem State.armed_only (x : List (Nat × Nat)) : s.only { s with armed := x } [.armed] := by
  refine s.only_of_same _ fun p hp => ?_
  cases p
  case armed => exact absurd rfl hp
  all_goals rfl

/-! It keeps a frame that names the part. -/

@[simp] theorem State.only_tap_iff (h : .tap ∈ l) (x : Tap) : s.only { t with tap := x } l ↔ s.only t l :=
  State.only_iff_of_only (t.tap_only x) h
@[simp] theorem State.only_lyctx0_iff (h : .lyctx0 ∈ l) (x : Word) : s.only { t with lyctx0 := x } l ↔ s.only t l :=
  State.only_iff_of_only (t.lyctx0_only x) h
@[simp] theorem State.only_lyctx1_iff (h : .lyctx1 ∈ l) (x : Word) : s.only { t with lyctx1 := x } l ↔ s.only t l :=
  State.only_iff_of_only (t.lyctx1_only x) h
@[simp] theorem State.only_aos_iff (h : .aos ∈ l) (x : List (Nat × Ao)) : s.only { t with aos := x } l ↔ s.only t l :=
  State.only_iff_of_only (t.aos_only x) h
@[simp] theorem State.only_aoSilent_iff (h : .aoSilent ∈ l) (x : Bool) : s.only { t with aoSilent := x } l ↔ s.only t l :=
  State.only_iff_of_only (t.aoSilent_only x) h
@[simp] theorem State.only_safe_iff (h : .safe ∈ l) (x : Safe) : s.only { t with safe := x } l ↔ s.only t l :=
  State.only_iff_of_only (t.safe_only x) h
@[simp] theorem State.only_ledger_iff (h : .ledger ∈ l) (x : Ledger) : s.only { t with ledger := x } l ↔ s.only t l :=
  State.only_iff_of_only (t.ledger_only x) h
@[simp] theorem State.only_hosts_iff (h : .hosts ∈ l) (x : Hosts) : s.only { t with hosts := x } l ↔ s.only t l :=
  State.only_iff_of_only (t.hosts_only x) h
@[simp] theorem State.only_pwr_iff (h : .pwr ∈ l) (x : Pwr) : s.only { t with pwr := x } l ↔ s.only t l :=
  State.only_iff_of_only (t.pwr_only x) h
@[simp] theorem State.only_boot_iff (h : .boot ∈ l) (x : Boot) : s.only { t with boot := x } l ↔ s.only t l :=
  State.only_iff_of_only (t.boot_only x) h
@[simp] theorem State.only_acq_iff (h : .acq ∈ l) (x : Acq) : s.only { t with acq := x } l ↔ s.only t l :=
  State.only_iff_of_only (t.acq_only x) h
@[simp] theorem State.only_tx_iff (h : .tx ∈ l) (x : List Tx) : s.only { t with tx := x } l ↔ s.only t l :=
  State.only_iff_of_only (t.tx_only x) h
@[simp] theorem State.only_rings_iff (h : .rings ∈ l) (x : List (Nat × Ring)) : s.only { t with rings := x } l ↔ s.only t l :=
  State.only_iff_of_only (t.rings_only x) h
@[simp] theorem State.only_irqSto_iff (h : .irqSto ∈ l) (x : Bool) : s.only { t with irqSto := x } l ↔ s.only t l :=
  State.only_iff_of_only (t.irqSto_only x) h
@[simp] theorem State.only_irqFault_iff (h : .irqFault ∈ l) (x : Nat) : s.only { t with irqFault := x } l ↔ s.only t l :=
  State.only_iff_of_only (t.irqFault_only x) h
@[simp] theorem State.only_timebase_iff (h : .timebase ∈ l) (x : DWord) : s.only { t with timebase := x } l ↔ s.only t l :=
  State.only_iff_of_only (t.timebase_only x) h
@[simp] theorem State.only_shadows_iff (h : .shadows ∈ l) (x : List (Nat × Option Word)) : s.only { t with shadows := x } l ↔ s.only t l :=
  State.only_iff_of_only (t.shadows_only x) h
@[simp] theorem State.only_latches_iff (h : .latches ∈ l) (x : List (Nat × Word)) : s.only { t with latches := x } l ↔ s.only t l :=
  State.only_iff_of_only (t.latches_only x) h
@[simp] theorem State.only_armed_iff (h : .armed ∈ l) (x : List (Nat × Nat)) : s.only { t with armed := x } l ↔ s.only t l :=
  State.only_iff_of_only (t.armed_only x) h
@[simp] theorem State.only_chn_iff (h : .chn ∈ l) (x : Chn) : s.only { t with chn := x } l ↔ s.only t l :=
  State.only_iff_of_only (t.chn_only x) h
@[simp] theorem State.only_free_iff (h : .free ∈ l) (x : Nat) : s.only { t with free := x } l ↔ s.only t l :=
  State.only_iff_of_only (t.free_only x) h
@[simp] theorem State.only_irqHalt_iff (h : .irqHalt ∈ l) (x : Nat) : s.only { t with irqHalt := x } l ↔ s.only t l :=
  State.only_iff_of_only (t.irqHalt_only x) h

end Sys2Proof.Machine
end

section
/-! PROOF. The obligation of spec/20 and spec/21 on the TAP (R570, R571, R573). -/

namespace Sys2Proof.Machine

variable (s t : State) {l : List Part}

@[simp] theorem State.only_setTap_iff (h : .tap ∈ l) (x : Tap) : s.only (t.setTap x) l ↔ s.only t l := s.only_tap_iff t h x

@[simp] theorem State.only_draw_iff (h : .free ∈ l) : s.only t.draw.2 l ↔ s.only t l := s.only_free_iff t h _

theorem State.flag_setTap (x : Tap) (f : Fld) (i j : Nat) : (s.setTap x).flag f i j = s.flag f i j := rfl

/-- A number that fits in the bytes it is given is read back. -/
theorem leAt_leBytes_of_lt {n v : Nat} (h : v < 256 ^ n) : leAt (leBytes n v) 0 n = v := by
  have hread := leAt_append_leBytes (a := []) rfl n v []
  rwa [List.nil_append, List.append_nil, Nat.mod_eq_of_lt h] at hread

/-- The identification code has 32 bits: 0x8F7 stands for the manufacturer 0x47B and the fixed 1. -/
theorem State.idcode_lt : s.idcode < 256 ^ 4 := by
  have hstep : s.fget F.SYS_PARTID_STEP < 2 ^ 4 := getField_lt ..
  have hpart : s.fget F.SYS_PARTID_PART < 2 ^ 16 := getField_lt ..
  unfold State.idcode
  omega

theorem State.scan_only (ir : Byte) (pins shift : BitVec 21) : s.only (s.scan ir pins shift) [.tap, .resp] := by simp [State.scan]

theorem State.bypass_only (code tdi : Byte) : s.only (s.bypass code tdi) [.tap, .resp] := by simp [State.bypass]

/-- What a code answers that selects DTMCS or DMI: 40 bits of the debug module. -/
def State.debugAnswer (s : State) (dmi : Bool) : State :=
  (s.draw.2.setTap { s.tap with ir := if dmi then 0x11 else 0x10 }).respond false (leBytes 5 (s.draw.1 % 2 ^ 40))

theorem State.debugAnswer_only (dmi : Bool) : s.only (s.debugAnswer dmi) [.tap, .resp, .free] := by simp [State.debugAnswer]

section
variable {s}

theorem tapDecodes_of_undecoded {code : Byte} (hlow : 2 < code.toNat)
    (hdebug : (code ≠ 0x10 ∧ code ≠ 0x11) ∨ s.flag F.SYS_STRAP_DBGEN = false) : s.tapDecodes code = false := by
  have hne {k : Byte} (hk : k.toNat ≤ 2) : (code == k) = false := by
    rw [beq_eq_false_iff_ne]
    rintro rfl
    omega
  have hselect : (s.flag F.SYS_STRAP_DBGEN && (code == 0x10 || code == 0x11)) = false := by
    rcases hdebug with ⟨h10, h11⟩ | hclosed
    · rw [beq_false_of_ne h10, beq_false_of_ne h11, Bool.or_self, Bool.and_false]
    · rw [hclosed, Bool.false_and]
  simp only [State.tapDecodes, hselect, hne (k := 0) (by decide), hne (k := 1) (by decide), hne (k := 2) (by decide), Bool.or_self]

theorem execTapDebugAccess_of_closed (h : s.flag F.SYS_STRAP_DBGEN = false) (dmi : Bool) (set : Option (Fin 2 × Word)) :
    execTapDebugAccess dmi set s = .next (s.bypass (if dmi then 0x11 else 0x10) 0) := by
  simp [execTapDebugAccess, h]

theorem execTapDebugAccess_of_open (h : s.flag F.SYS_STRAP_DBGEN = true) (dmi : Bool) :
    execTapDebugAccess dmi none s = .next (s.debugAnswer dmi) := by
  simp only [execTapDebugAccess, h]
  rfl

/-- A debugger has the rights of machine mode (R570). -/
theorem execTapDebugAccess_lyctx (h : s.flag F.SYS_STRAP_DBGEN = true) (hon : s.domOn 2 = true) (p : Fin 2) (v : Word) :
    execTapDebugAccess true (some (p, v)) s = .next ((s.debugAnswer true).writeLyctx p v) := by
  have hon' : (s.debugAnswer true).domOn 2 = true := hon
  change Host.Outcome.next _ = _
  simp only [h, Bool.not_true, Bool.false_eq_true, if_false, Bool.true_and]
  exact congrArg _ (if_pos hon')

theorem writeLyctx_of_legal {v : Word} (hlegal : classTable (getField v 0 3) (getField v 4 3) = true) (p : Fin 2) :
    (s.writeLyctx p v).lyctx0 = (if p.val = 0 then v &&& 0x77 else s.lyctx0) ∧
    (s.writeLyctx p v).lyctx1 = (if p.val = 1 then v &&& 0x77 else s.lyctx1) ∧ s.only (s.writeLyctx p v) [.lyctx0, .lyctx1] := by
  rw [State.writeLyctx, if_pos hlegal]
  fin_cases p <;> simp

end

/-- Settles O60: every instruction selects its register and answers, and only DBGEN lets a code through to the debug module. -/
theorem tapInstructionsSelectAndAnswer : Obligations.TapInstructionsSelectAndAnswer := by
  refine ⟨fun s => ⟨_, rfl, rfl, rfl, leBytes_length _ _, ?_, by simp⟩, fun pins shift s => ⟨_, rfl, rfl, rfl, s.scan_only _ _ _⟩,
    fun pins shift s => ⟨_, rfl, rfl, rfl, s.scan_only _ _ _⟩, fun code tdi s hlow hdebug => ?_,
    fun dmi set s hclosed => ⟨_, execTapDebugAccess_of_closed hclosed dmi set, rfl, s.bypass_only _ _⟩,
    fun dmi s hopen => ⟨_, execTapDebugAccess_of_open hopen dmi, rfl, rfl, leBytes_length _ _, s.debugAnswer_only dmi⟩,
    fun p v s hopen hon hlegal => ?_, fun s => rfl⟩
  · exact leAt_leBytes_of_lt s.idcode_lt
  · refine ⟨s.bypass code tdi, ?_, rfl, rfl, s.bypass_only code tdi⟩
    simp [exec, execTapBypass, tapDecodes_of_undecoded hlow hdebug]
  · obtain ⟨h0, h1, honly⟩ := writeLyctx_of_legal (s := s.debugAnswer true) hlegal p
    refine ⟨_, execTapDebugAccess_lyctx hopen hon p v, h0, h1, ?_⟩
    exact State.only_trans (State.only_mono (s.debugAnswer_only true) (by simp)) (State.only_mono honly (by simp))

end Sys2Proof.Machine
end

section
/-! PROOF. What every operation of the model keeps: the canonical form of the register file, of SRAM and of the storage array (spec/03,
spec/13). One lemma for each operation, in the order of the model; an operation's proof cites those of the operations it uses. -/

namespace Sys2Proof.Machine

/-! ### Sufficient conditions as equivalences -/

/-- `q`, for which `p` is enough. -/
def enough (p q : Prop) : Prop := p ∨ q

/-- An implication `p → q` as an equivalence, which simp can chain over any number of operations: it goes on with `p`. -/
theorem iff_enough {p q : Prop} (h : p → q) : q ↔ enough p q := ⟨.inr, fun hq => hq.elim h id⟩

theorem of_iff_enough {p q : Prop} (h : q ↔ enough p q) (hp : p) : q := h.mpr (.inl hp)

@[simp ↓] theorem enough_true (q : Prop) : enough True q := .inl trivial

/-- simp passes `q` by. -/
@[congr] theorem enough_congr {p p' q : Prop} (h : p = p') : enough p q = enough p' q := congrArg (enough · q) h

/-! ### The canonical form of the three memories -/

def regsOk (l : List (Nat × Word)) : Prop := Sparse.wf regReset l = true

def Memory.ok (m : Memory) : Prop := m.wf = true

def Storage.ok (t : Storage) : Prop := Sparse.wf (fun _ => (0xFF : Byte)) t.cells = true

/-- The register file, SRAM and the storage array are in canonical form. -/
def State.memOk (s : State) : Prop := regsOk s.regs ∧ s.mem.ok ∧ s.sto.ok

theorem State.memOk_iff_memInv (s : State) : s.memOk ↔ s.memInv = true := by
  simp only [State.memOk, regsOk, Memory.ok, Storage.ok, State.memInv, Bool.and_eq_true]
  tauto

/-- What an operation that leads from `s` to `u` keeps: for `u`'s memories to be in canonical form it is enough that those of `s` are. -/
abbrev State.keepsMem (s u : State) : Prop := u.memOk ↔ enough s.memOk u.memOk

variable (s : State)

@[simp ↓] theorem State.regsOk_regs : regsOk s.regs ↔ enough s.memOk (regsOk s.regs) := iff_enough fun ⟨hregs, _, _⟩ => hregs
@[simp ↓] theorem State.ok_mem : s.mem.ok ↔ enough s.memOk s.mem.ok := iff_enough fun ⟨_, hmem, _⟩ => hmem
@[simp ↓] theorem State.ok_sto : s.sto.ok ↔ enough s.memOk s.sto.ok := iff_enough fun ⟨_, _, hsto⟩ => hsto

@[simp ↓] theorem State.memOk_mk (timebase regs shadows armed latches lyctx0 lyctx1 locked d2dFails mem memsys mmu streams sto rings chn
    cim acq aos aoSilent safe ledger hosts pwr boot tap irqCimp events irqFault irqHalt irqSto resp tx free pending) :
    State.memOk ⟨timebase, regs, shadows, armed, latches, lyctx0, lyctx1, locked, d2dFails, mem, memsys, mmu, streams, sto, rings,
      chn, cim, acq, aos, aoSilent, safe, ledger, hosts, pwr, boot, tap, irqCimp, events, irqFault, irqHalt, irqSto, resp, tx, free,
      pending⟩ ↔ regsOk regs ∧ mem.ok ∧ sto.ok := .rfl

@[simp ↓] theorem State.memOk_ite (c : Prop) [Decidable c] (a b : State) :
    (if c then a else b).memOk ↔ if c then a.memOk else b.memOk := by
  split <;> rfl

theorem State.memOk_of_ite {c : Prop} [Decidable c] {a b : State} (ha : a.memOk) (hb : b.memOk) : (if c then a else b).memOk := by
  split <;> assumption

/-! ### Registers, SRAM and storage -/

@[simp ↓] theorem regsOk_put {l : List (Nat × Word)} (a : Nat) (v : Word) :
    regsOk (Sparse.put regReset l a v) ↔ enough (regsOk l) (regsOk (Sparse.put regReset l a v)) := iff_enough (Sparse.wf_put _ _ _ _)

@[simp ↓] theorem regsOk_clear {l : List (Nat × Word)} (p : Nat → Bool) :
    regsOk (Sparse.clear p l) ↔ enough (regsOk l) (regsOk (Sparse.clear p l)) := iff_enough (Sparse.wf_clear _ _ _)

@[simp ↓] theorem regsOk_filter {l : List (Nat × Word)} (q : Nat × Word → Bool) :
    regsOk (l.filter q) ↔ enough (regsOk l) (regsOk (l.filter q)) := iff_enough (Sparse.wf_filter _ _ _)

section
variable (m : Memory)

@[simp ↓] theorem Memory.ok_fresh : Memory.fresh.ok := rfl

@[simp ↓] theorem Memory.ok_setByte (a : Nat) (b : Byte) : (m.setByte a b).ok ↔ enough m.ok (m.setByte a b).ok :=
  iff_enough (Memory.wf_setByte · a b)

@[simp ↓] theorem Memory.ok_store (a : Nat) (l : List Byte) : (m.store a l).ok ↔ enough m.ok (m.store a l).ok :=
  iff_enough (Memory.wf_store · a l)

@[simp ↓] theorem Memory.ok_setTagDiff (k : Nat) (x : Word) : (m.setTagDiff k x).ok ↔ enough m.ok (m.setTagDiff k x).ok :=
  iff_enough (Memory.wf_setTagDiff · k x)

@[simp ↓] theorem Memory.ok_setBad (k : Nat) (x : Bool) : (m.setBad k x).ok ↔ enough m.ok (m.setBad k x).ok :=
  iff_enough (Memory.wf_setBad · k x)

@[simp ↓] theorem Memory.ok_setEcc (k : Nat) (x : Bool) : (m.setEcc k x).ok ↔ enough m.ok (m.setEcc k x).ok :=
  iff_enough (Memory.wf_setEcc · k x)

@[simp ↓] theorem Memory.ok_mend (a n : Nat) : (m.mend a n).ok ↔ enough m.ok (m.mend a n).ok := iff_enough (Memory.wf_mend · a n)

@[simp ↓] theorem Memory.ok_writeBlock (k : Nat) (l : List Byte) (x : Word) : (m.writeBlock k l x).ok ↔ enough m.ok (m.writeBlock k l x).ok :=
  iff_enough (Memory.wf_writeBlock · k l x)

@[simp ↓] theorem Memory.ok_writePart (a : Nat) (l : List Byte) : (m.writePart a l).1.ok ↔ enough m.ok (m.writePart a l).1.ok :=
  iff_enough (Memory.wf_writePart · a l)

@[simp ↓] theorem Memory.ok_zero (p : Nat → Bool) : (m.zero p).ok ↔ enough m.ok (m.zero p).ok := iff_enough (Memory.wf_zero · p)

@[simp ↓] theorem Memory.ok_foldl_setByte (l : List (Nat × Byte)) :
    (l.foldl (fun (m : Memory) x => m.setByte x.1 x.2) m).ok ↔ enough m.ok (l.foldl (fun (m : Memory) x => m.setByte x.1 x.2) m).ok := by
  refine iff_enough fun h => ?_
  induction l generalizing m with
  | nil => exact h
  | cons x l ih => exact ih _ (Memory.wf_setByte h x.1 x.2)

end

section
variable (t : Storage)

@[simp ↓] theorem Storage.ok_mk (wordErr sectors spareUsed dirtySpares pendErase active readPos warnTb) :
    Storage.ok ⟨t.cells, wordErr, sectors, spareUsed, dirtySpares, pendErase, active, readPos, warnTb⟩ ↔ t.ok := .rfl

@[simp ↓] theorem Storage.ok_ite (c : Prop) [Decidable c] (t u : Storage) : (if c then t else u).ok ↔ if c then t.ok else u.ok := by
  split <;> rfl

@[simp ↓] theorem Storage.ok_setSector (n : Nat) (x : Sector) : (t.setSector n x).ok ↔ t.ok := .rfl
@[simp ↓] theorem Storage.ok_setErr (w n : Nat) : (t.setErr w n).ok ↔ t.ok := .rfl
@[simp ↓] theorem Storage.ok_setEntry (e : StoEntry) : (t.setEntry e).ok ↔ t.ok := .rfl

@[simp ↓] theorem Storage.ok_progWord (w : Nat) (l : List Byte) : (t.progWord w l).ok ↔ enough t.ok (t.progWord w l).ok :=
  iff_enough (t.wf_progWord · w l)

@[simp ↓] theorem Storage.ok_eraseSector (n : Nat) : (t.eraseSector n).ok ↔ enough t.ok (t.eraseSector n).ok :=
  iff_enough (t.wf_eraseSector · n)

end

/-! ### Folds and pairs -/

@[simp ↓] theorem memOk_foldl {α : Type} (f : State → α → State) (h : ∀ t x, t.memOk → (f t x).memOk) (l : List α) (s : State) :
    s.keepsMem (l.foldl f s) := by
  refine iff_enough fun hs => ?_
  induction l generalizing s with
  | nil => exact hs
  | cons x l ih => exact ih _ (h s x hs)

theorem memOk_foldl_fst {α β : Type} (f : State × β → α → State × β) (h : ∀ x y, x.1.memOk → (f x y).1.memOk) (l : List α)
    (x : State × β) : x.1.keepsMem (l.foldl f x).1 := by
  refine iff_enough fun hx => ?_
  induction l generalizing x with
  | nil => exact hx
  | cons y l ih => exact ih _ (h x y hx)

theorem memOk_foldl_snd {α β : Type} (f : β × State → α → β × State) (h : ∀ x y, x.2.memOk → (f x y).2.memOk) (l : List α)
    (x : β × State) : x.2.keepsMem (l.foldl f x).2 := by
  refine iff_enough fun hx => ?_
  induction l generalizing x with
  | nil => exact hx
  | cons y l ih => exact ih _ (h x y hx)

/-- The state that a match takes out of an answer. -/
theorem keepsMem_of_fst {α : Type} {p : State × α} {t : State} {x : α} (h : p = (t, x)) : p.1.keepsMem t :=
  iff_enough fun hp => by rwa [h] at hp

theorem keepsMem_of_snd {α : Type} {p : α × State} {x : α} {t : State} (h : p = (x, t)) : p.2.keepsMem t :=
  iff_enough fun hp => by rwa [h] at hp

/-! ### Outcomes of commands -/

/-- The outcome of a command on `s` is a next state, whose memories are in canonical form if those of `s` are. -/
def KeepsMem (s : State) (o : Out State) : Prop := ∃ t, o = .next t ∧ (s.memOk → t.memOk)

@[simp ↓] theorem keepsMem_next (t : State) : KeepsMem s (.next t) ↔ (s.memOk → t.memOk) := by
  simp [KeepsMem]

/-! ### The shared operations -/

@[simp ↓] theorem State.wr_keepsMem (a : Nat) (v : Word) : s.keepsMem (s.wr a v) := iff_enough (by simp +contextual [State.wr])

@[simp ↓] theorem State.rset_keepsMem (r : RegDesc) (v i j : Nat) : s.keepsMem (s.rset r v i j) :=
  iff_enough (by simp +contextual [State.rset])

@[simp ↓] theorem State.fset_keepsMem (f : Fld) (v i j : Nat) : s.keepsMem (s.fset f v i j) := iff_enough (by simp +contextual [State.fset])

@[simp ↓] theorem State.setFlag_keepsMem (f : Fld) (b : Bool) (i j : Nat) :
    s.keepsMem (s.setFlag f b i j) := iff_enough (by simp +contextual [State.setFlag])

@[simp ↓] theorem State.count_keepsMem (r : RegDesc) (n i j : Nat) : s.keepsMem (s.count r n i j) :=
  iff_enough (by simp +contextual [State.count])

@[simp ↓] theorem State.fcount_keepsMem (f : Fld) (n i j : Nat) : s.keepsMem (s.fcount f n i j) :=
  iff_enough (by simp +contextual [State.fcount])

@[simp ↓] theorem State.countWrap_keepsMem (r : RegDesc) (n i j : Nat) :
    s.keepsMem (s.countWrap r n i j) := iff_enough (by simp +contextual [State.countWrap])

@[simp ↓] theorem State.draw_keepsMem : s.keepsMem s.draw.2 := iff_enough (by simp +contextual [State.draw])

@[simp ↓] theorem State.setStream_keepsMem (n : Nat) (x : Stream) :
    s.keepsMem (s.setStream n x) := iff_enough (by simp +contextual [State.setStream])

@[simp ↓] theorem State.violate_keepsMem (c unit kind addr : Nat) :
    s.keepsMem (s.violate c unit kind addr) := iff_enough (by simp +contextual [State.violate])

@[simp ↓] theorem State.violateBy_keepsMem (r : Req) (kind addr : Nat) :
    s.keepsMem (s.violateBy r kind addr) := iff_enough (by simp +contextual [State.violateBy])

@[simp ↓] theorem State.send_keepsMem (port kind : Nat) (b : List Byte) :
    s.keepsMem (s.send port kind b) := iff_enough (by simp +contextual [State.send])

@[simp ↓] theorem State.ring_keepsMem (b inc : Nat) : s.keepsMem (s.ring b inc) := iff_enough (by simp +contextual [State.ring])
@[simp ↓] theorem State.evOcc_keepsMem : s.keepsMem s.evOcc := iff_enough (by simp +contextual [State.evOcc])

@[simp ↓] theorem State.forward_keepsMem (on : Bool) (b : List Byte) :
    s.keepsMem (s.forward on b) := iff_enough (by simp +contextual [State.forward])

@[simp ↓] theorem State.cardAt_keepsMem (c : CardArgs) (origin : Nat) :
    s.keepsMem (s.cardAt c origin) := iff_enough (by simp +contextual [State.cardAt])

@[simp ↓] theorem State.card_keepsMem (c : CardArgs) : s.keepsMem (s.card c) := iff_enough (by simp +contextual [State.card])

@[simp ↓] theorem State.putMem_keepsMem (a : Nat) (data : List Byte) (fuel : Nat) : s.keepsMem (s.putMem a data fuel) := by
  refine iff_enough ?_
  induction fuel generalizing s a data with
  | zero => simp +contextual [State.putMem]
  | succ fuel ih =>
    intro h
    unfold State.putMem
    split
    · exact h
    · exact ih _ _ _ (by simp [h])

@[simp ↓] theorem State.store_keepsMem (a : Nat) (data : List Byte) : s.keepsMem (s.store a data) :=
  iff_enough (by simp +contextual [State.store])

/-! ### On-package memory (spec/03) -/

@[simp ↓] theorem State.asHome_keepsMem (r : Req) (a : Nat) (f : State → State) (h : s.memOk → (f s).memOk) :
    s.keepsMem (s.asHome r a f) := iff_enough (by simp +contextual [State.asHome, h])

@[simp ↓] theorem State.asCtx_keepsMem (r : Req) (a kind : Nat) (ok : Nat → Bool) (f : State → State)
    (h : s.memOk → (f s).memOk) : s.keepsMem (s.asCtx r a kind ok f) := iff_enough (by simp +contextual [State.asCtx, h])

@[simp ↓] theorem State.respond_keepsMem (error : Bool) (data : List Byte) :
    s.keepsMem (s.respond error data) := iff_enough (by simp +contextual [State.respond])

@[simp ↓] theorem State.setLosses_keepsMem (bank port n : Nat) :
    s.keepsMem (s.setLosses bank port n) := iff_enough (by simp +contextual [State.setLosses])

@[simp ↓] theorem State.loseSlot_keepsMem (bank port : Nat) : s.keepsMem (s.loseSlot bank port) :=
  iff_enough (by simp +contextual [State.loseSlot])

@[simp ↓] theorem State.arbitrate_keepsMem (bank port cls : Nat) (rivals : List (Nat × Nat)) :
    s.keepsMem (s.arbitrate bank port cls rivals).2 := iff_enough (by simp +contextual [State.arbitrate])

@[simp ↓] theorem State.slotFor_keepsMem (r : Req) (a : Nat) (rivals : List (Fin 8 × Fin 6)) :
    s.keepsMem (s.slotFor r a rivals).2 := by
  refine iff_enough ?_
  grind [enough, State.slotFor, State.count_keepsMem, State.arbitrate_keepsMem]

@[simp ↓] theorem State.clearConflicts_keepsMem : s.keepsMem s.clearConflicts := iff_enough (by simp +contextual [State.clearConflicts])

@[simp ↓] theorem State.writeMemCtl_keepsMem (v : Word) : s.keepsMem (s.writeMemCtl v) :=
  iff_enough (by simp +contextual [State.writeMemCtl])

@[simp ↓] theorem execSplitRequest_keepsMem (r : Req) (v : Word) :
    KeepsMem s (execSplitRequest r v s) := by simp +contextual [execSplitRequest]

@[simp ↓] theorem execSplitEnter_keepsMem : KeepsMem s (execSplitEnter s) := by simp +contextual [execSplitEnter]
@[simp ↓] theorem execSplitLeave_keepsMem (r : Req) (v : Word) : KeepsMem s (execSplitLeave r v s) := by simp +contextual [execSplitLeave]

@[simp ↓] theorem execConflictCounterClear_keepsMem (r : Req) (v : Word) :
    KeepsMem s (execConflictCounterClear r v s) := by simp +contextual [execConflictCounterClear]

@[simp ↓] theorem State.setLines_keepsMem (n : Nat) (l : List L1Line) :
    s.keepsMem (s.setLines n l) := iff_enough (by simp +contextual [State.setLines])

@[simp ↓] theorem State.l1WriteBack_keepsMem (n : Nat) : s.keepsMem (s.l1WriteBack n) :=
  iff_enough (by simp +contextual [State.l1WriteBack])

@[simp ↓] theorem State.l1Drop_keepsMem (n : Nat) : s.keepsMem (s.l1Drop n) := iff_enough (by simp +contextual [State.l1Drop])

@[simp ↓] theorem State.unlockLines_keepsMem (n : Nat) : s.keepsMem (s.unlockLines n) :=
  iff_enough (by simp +contextual [State.unlockLines])

@[simp ↓] theorem State.zeroRange_keepsMem (lo hi : Nat) : s.keepsMem (s.zeroRange lo hi) :=
  iff_enough (by simp +contextual [State.zeroRange])

@[simp ↓] theorem State.setL1Resize_keepsMem (n v : Nat) : s.keepsMem (s.setL1Resize n v) :=
  iff_enough (by simp +contextual [State.setL1Resize])

@[simp ↓] theorem State.writeL1Cfg_keepsMem (r : Req) (n : Nat) (v : Word) :
    s.keepsMem (s.writeL1Cfg r n v) := iff_enough (by simp +contextual [State.writeL1Cfg])

@[simp ↓] theorem State.l1CfgWrite_keepsMem (r : Req) (n : Nat) (v : Word) :
    s.keepsMem (s.l1CfgWrite r n v) := iff_enough (by simp +contextual [State.l1CfgWrite])

@[simp ↓] theorem execL1CacheResize_keepsMem (r : Req) (n : Fin 8) (v : Word) :
    KeepsMem s (execL1CacheResize r n v s) := by simp +contextual [execL1CacheResize]

@[simp ↓] theorem execL1Flush_keepsMem (r : Req) (n : Fin 8) (v : Word) :
    KeepsMem s (execL1Flush r n v s) := by simp +contextual [execL1Flush]

@[simp ↓] theorem execL1Invalidate_keepsMem (r : Req) (n : Fin 8) (v : Word) :
    KeepsMem s (execL1Invalidate r n v s) := by simp +contextual [execL1Invalidate]

@[simp ↓] theorem State.setRegion_keepsMem (n : Nat) (x : Region) :
    s.keepsMem (s.setRegion n x) := iff_enough (by simp +contextual [State.setRegion])

@[simp ↓] theorem State.invalidateRegions_keepsMem (lo hi : Nat) :
    s.keepsMem (s.invalidateRegions lo hi) := iff_enough (by simp +contextual [State.invalidateRegions])

@[simp ↓] theorem execL1CacheResizeDone_keepsMem (n : Fin 8) :
    KeepsMem s (execL1CacheResizeDone n s) := by simp +contextual [execL1CacheResizeDone]

@[simp ↓] theorem State.writeCrCfg_keepsMem (r : Req) (n : Nat) (v : Word) (setup : Bool) :
    s.keepsMem (s.writeCrCfg r n v setup) := iff_enough (by simp +contextual [State.writeCrCfg])

@[simp ↓] theorem execRegionEnable_keepsMem (r : Req) (n : Fin 64) (v : Word) :
    KeepsMem s (execRegionEnable r n v s) := by simp +contextual [execRegionEnable]

@[simp ↓] theorem execRegionClear_keepsMem (r : Req) (n : Fin 64) (v : Word) :
    KeepsMem s (execRegionClear r n v s) := by simp +contextual [execRegionClear]

@[simp ↓] theorem State.releaseRegion_keepsMem (c unit n cnt : Nat) :
    s.keepsMem (s.releaseRegion c unit n cnt) := iff_enough (by simp +contextual [State.releaseRegion])

@[simp ↓] theorem execRegionRelease_keepsMem (r : Req) (n : Fin 64) (v : Word) :
    KeepsMem s (execRegionRelease r n v s) := by simp +contextual [execRegionRelease]

@[simp ↓] theorem State.overwrite_keepsMem (n len : Nat) : s.keepsMem (s.overwrite n len) :=
  iff_enough (by simp +contextual [State.overwrite])

@[simp ↓] theorem State.openArrival_keepsMem (n unit tag len : Nat) :
    s.keepsMem (s.openArrival n unit tag len) := iff_enough (by simp +contextual [State.openArrival])

@[simp ↓] theorem State.startArrival_keepsMem (n c unit tag len : Nat) :
    s.keepsMem (s.startArrival n c unit tag len).2 := by
  refine iff_enough ?_
  grind [enough, State.startArrival, State.violate_keepsMem, State.setRegion_keepsMem, State.openArrival_keepsMem]

@[simp ↓] theorem State.startWaiting_keepsMem (n : Nat) (x0 : List (Nat × Nat × Nat)) :
    s.keepsMem (s.startWaiting n x0) := by
  refine iff_enough ?_
  induction x0 generalizing s with
  | nil => simp +contextual [State.startWaiting]
  | cons x l ih => simp +contextual [State.startWaiting, ih]

@[simp ↓] theorem State.retireArrivals_keepsMem (n x0 : Nat) : s.keepsMem (s.retireArrivals n x0) := by
  refine iff_enough ?_
  induction x0 generalizing s with
  | zero => simp +contextual [State.retireArrivals]
  | succ n ih =>
    unfold State.retireArrivals
    split <;> simp +contextual [ih]

@[simp ↓] theorem State.finishArrival_keepsMem (n unit tag : Nat) (abandoned : Bool) :
    s.keepsMem (s.finishArrival n unit tag abandoned) := iff_enough (by simp +contextual [State.finishArrival])

@[simp ↓] theorem execArrivalStart_keepsMem (n : Fin 64) (p : Req) (tag : Nat) (len : Word) :
    KeepsMem s (execArrivalStart n p tag len s) := by simp +contextual [execArrivalStart]

@[simp ↓] theorem execArrivalComplete_keepsMem (n : Fin 64) (p : Req) (tag : Nat) :
    KeepsMem s (execArrivalComplete n p tag s) := by simp +contextual [execArrivalComplete]

@[simp ↓] theorem State.writeWbmCache_keepsMem (v : Word) : s.keepsMem (s.writeWbmCache v) :=
  iff_enough (by simp +contextual [State.writeWbmCache])

@[simp ↓] theorem execWbmCacheResize_keepsMem (r : Req) (v : Word) :
    KeepsMem s (execWbmCacheResize r v s) := by simp +contextual [execWbmCacheResize]

@[simp ↓] theorem execWbmCacheInvalidate_keepsMem (r : Req) (v : Word) :
    KeepsMem s (execWbmCacheInvalidate r v s) := by simp +contextual [execWbmCacheInvalidate]

@[simp ↓] theorem State.writeRepair_keepsMem (v : Word) : s.keepsMem (s.writeRepair v) :=
  iff_enough (by simp +contextual [State.writeRepair])

@[simp ↓] theorem execRowRepair_keepsMem (r : Req) (v : Word) : KeepsMem s (execRowRepair r v s) := by simp +contextual [execRowRepair]

@[simp ↓] theorem execRowRepairDone_keepsMem : KeepsMem s (execRowRepairDone s) := by
  unfold execRowRepairDone
  split <;> simp +contextual

@[simp ↓] theorem State.eccCorrected_keepsMem : s.keepsMem s.eccCorrected := iff_enough (by simp +contextual [State.eccCorrected])

@[simp ↓] theorem State.eccFail_keepsMem (a c engine : Nat) : s.keepsMem (s.eccFail a c engine) :=
  iff_enough (by simp +contextual [State.eccFail])

@[simp ↓] theorem State.tagFail_keepsMem (a c engine : Nat) : s.keepsMem (s.tagFail a c engine) :=
  iff_enough (by simp +contextual [State.tagFail])

/-! ### Contexts and translation (spec/04) -/

@[simp ↓] theorem State.writeLyctx_keepsMem (p : Fin 2) (v : Word) :
    s.keepsMem (s.writeLyctx p v) := iff_enough (by simp +contextual [State.writeLyctx])

@[simp ↓] theorem execLyctxWrite_keepsMem (p : Fin 2) (machine : Bool) (v : Word) :
    KeepsMem s (execLyctxWrite p machine v s) := by simp +contextual [execLyctxWrite]

@[simp ↓] theorem State.writeBells_keepsMem (r : Req) (n : Nat) (v : Word) :
    s.keepsMem (s.writeBells r n v) := iff_enough (by simp +contextual [State.writeBells])

@[simp ↓] theorem execBellRangeWrite_keepsMem (r : Req) (n : Fin 8) (v : Word) :
    KeepsMem s (execBellRangeWrite r n v s) := by simp +contextual [execBellRangeWrite]

@[simp ↓] theorem State.writeVcap_keepsMem (n : Nat) (v : Word) : s.keepsMem (s.writeVcap n v) :=
  iff_enough (by simp +contextual [State.writeVcap])

@[simp ↓] theorem execViolCaptureArm_keepsMem (r : Req) (n : Fin 8) (v : Word) :
    KeepsMem s (execViolCaptureArm r n v s) := by simp +contextual [execViolCaptureArm]

@[simp ↓] theorem execViolCountClear_keepsMem (r : Req) (n : Fin 8) (v : Word) :
    KeepsMem s (execViolCountClear r n v s) := by simp +contextual [execViolCountClear]

@[simp ↓] theorem State.setTlb_keepsMem (unit : Nat) (l : List TlbEntry) :
    s.keepsMem (s.setTlb unit l) := iff_enough (by simp +contextual [State.setTlb])

@[simp ↓] theorem State.translate_keepsMem (unit c vpn : Nat) : s.keepsMem (s.translate unit c vpn).2 := by
  refine iff_enough ?_
  grind [enough, State.translate, State.setTlb_keepsMem]

@[simp ↓] theorem State.translatePages_keepsMem (unit c : Nat) (l : List (Nat × Acc3)) (m : PageMap) :
    s.keepsMem (s.translatePages unit c l m).2 := by
  refine iff_enough ?_
  induction l generalizing s m with
  | nil => simp +contextual [State.translatePages]
  | cons x l ih => grind [enough, State.translatePages, State.translate_keepsMem]

@[simp ↓] theorem State.violatePages_keepsMem (unit c : Nat) (m : PageMap) : s.keepsMem (s.violatePages unit c m) := by
  unfold State.violatePages
  refine memOk_foldl _ (fun t x => ?_) _ _
  split <;> simp +contextual

@[simp ↓] theorem State.writeInval_keepsMem (v : Word) : s.keepsMem (s.writeInval v) := iff_enough (by simp +contextual [State.writeInval])

@[simp ↓] theorem execTlbInvalidate_keepsMem (r : Req) (v : Word) :
    KeepsMem s (execTlbInvalidate r v s) := by simp +contextual [execTlbInvalidate]

@[simp ↓] theorem execTlbInvalidateDone_keepsMem : KeepsMem s (execTlbInvalidateDone s) := by
  unfold execTlbInvalidateDone
  split <;> simp +contextual

@[simp ↓] theorem State.syncPend_keepsMem : s.keepsMem s.syncPend := iff_enough (by simp +contextual [State.syncPend])

@[simp ↓] theorem State.reportFault_keepsMem (f : FaultInfo) : s.keepsMem (s.reportFault f).2 := by
  refine iff_enough ?_
  unfold State.reportFault
  split
  · simp +contextual
  · split <;> simp +contextual

@[simp ↓] theorem State.freeSusp_keepsMem (x : Susp) : s.keepsMem (s.freeSusp x) := by
  refine iff_enough ?_
  unfold State.freeSusp
  split <;> simp +contextual

/-! ### Tensors -/

@[simp ↓] theorem State.writeBytes_keepsMem (l : List (Nat × Byte)) :
    s.keepsMem (s.writeBytes l) := iff_enough (by simp +contextual [State.writeBytes])

@[simp ↓] theorem State.writeElems_keepsMem (d : Desc) (m : PageMap) (start : Nat) (vals : List (Nat × Nat)) :
    s.keepsMem (s.writeElems d m start vals) := iff_enough (by simp +contextual [State.writeElems])

@[simp ↓] theorem State.reportConsume_keepsMem (x : Nat × Bool) (c engine : Nat) :
    s.keepsMem (s.reportConsume x c engine) := iff_enough (by simp +contextual [State.reportConsume])

/-! ### Result rings -/

@[simp ↓] theorem State.setRingX_keepsMem (q : Nat) (x : Ring) : s.keepsMem (s.setRingX q x) :=
  iff_enough (by simp +contextual [State.setRingX])

@[simp ↓] theorem State.putEntries_keepsMem (q i : Nat) (l : List (List Byte)) : s.keepsMem (s.putEntries q i l) := by
  refine iff_enough ?_
  induction l generalizing s i with
  | nil => simp +contextual [State.putEntries]
  | cons x l ih => simp +contextual [State.putEntries, ih]

@[simp ↓] theorem State.commitRecord_keepsMem (q : Nat) (b : List Byte) :
    s.keepsMem (s.commitRecord q b) := iff_enough (by simp +contextual [State.commitRecord])

@[simp ↓] theorem State.tryCommit_keepsMem (q : Nat) (b : List Byte) : s.keepsMem (s.tryCommit q b).2 := by
  refine iff_enough ?_
  unfold State.tryCommit
  split
  · simp +contextual
  · split <;> simp +contextual

/-! ### Tiles -/

@[simp ↓] theorem State.setTile_keepsMem (d t : Nat) (x : Tile) : s.keepsMem (s.setTile d t x) :=
  iff_enough (by simp +contextual [State.setTile])

@[simp ↓] theorem State.setDeck_keepsMem (d t p : Nat) (x : DeckRec) :
    s.keepsMem (s.setDeck d t p x) := iff_enough (by simp +contextual [State.setDeck])

@[simp ↓] theorem State.selectDeck_keepsMem (d g pos l : Nat) : s.keepsMem (s.selectDeck d g pos l) := by
  refine iff_enough ?_
  unfold State.selectDeck
  dsimp only
  split <;> simp +contextual

@[simp ↓] theorem State.cimpCard_keepsMem (d t p event value ctx : Nat) :
    s.keepsMem (s.cimpCard d t p event value ctx) := iff_enough (by simp +contextual [State.cimpCard])

@[simp ↓] theorem State.setCmds_keepsMem (d : Nat) (l : List TileCmd) :
    s.keepsMem (s.setCmds d l) := iff_enough (by simp +contextual [State.setCmds])

@[simp ↓] theorem State.queueOwn_keepsMem (d op t p arg : Nat) :
    s.keepsMem (s.queueOwn d op t p arg) := iff_enough (by simp +contextual [State.queueOwn])

@[simp ↓] theorem State.driftUpdate_keepsMem (d t p : Nat) :
    s.keepsMem (s.driftUpdate d t p) := iff_enough (by simp +contextual [State.driftUpdate])

/-! ### Engine streams (spec/05) -/

@[simp ↓] theorem State.setRun_keepsMem (n : Nat) (p : Option Prog) : s.keepsMem (s.setRun n p) :=
  iff_enough (by simp +contextual [State.setRun])

@[simp ↓] theorem State.addCompletion_keepsMem (n : Nat) (p : Prog) (status reason pc : Nat) :
    s.keepsMem (s.addCompletion n p status reason pc) := iff_enough (by simp +contextual [State.addCompletion])

@[simp ↓] theorem execCompletionRecordCommit_keepsMem (n : Fin 22) : KeepsMem s (execCompletionRecordCommit n s) := by
  grind [enough, execCompletionRecordCommit, State.setStream_keepsMem, State.violate_keepsMem, State.tryCommit_keepsMem, keepsMem_next]

@[simp ↓] theorem State.abandonArrivals_keepsMem (unit : Nat) :
    s.keepsMem (s.abandonArrivals unit) := iff_enough (by simp +contextual [State.abandonArrivals])

@[simp ↓] theorem State.dropStarts_keepsMem (n c : Nat) : s.keepsMem (s.dropStarts n c) :=
  iff_enough (by simp +contextual [State.dropStarts])

@[simp ↓] theorem State.endBroadcast_keepsMem (n : Nat) : s.keepsMem (s.endBroadcast n) :=
  iff_enough (by simp +contextual [State.endBroadcast])

@[simp ↓] theorem State.haltProg_keepsMem (n : Nat) (p : Prog) (reason slot handle vaddr : Nat) :
    s.keepsMem (s.haltProg n p reason slot handle vaddr) := iff_enough (by simp +contextual [State.haltProg])

@[simp ↓] theorem State.unlockProg_keepsMem (n : Nat) (p : Prog) :
    s.keepsMem (s.unlockProg n p) := iff_enough (by simp +contextual [State.unlockProg])

@[simp ↓] theorem State.halt_keepsMem (n reason slot handle vaddr : Nat) :
    s.keepsMem (s.halt n reason slot handle vaddr) := by
  refine iff_enough ?_
  unfold State.halt
  split <;> simp +contextual

@[simp ↓] theorem State.breakGroup_keepsMem (except : Nat) : s.keepsMem (s.breakGroup except) := by
  unfold State.breakGroup
  refine memOk_foldl _ (fun t x => ?_) _ _
  split <;> simp +contextual

@[simp ↓] theorem State.submitStart_keepsMem (c unit addr : Nat) (b : List Byte) :
    s.keepsMem (s.submitStart c unit addr b).2 := by
  refine iff_enough ?_
  grind [enough, State.submitStart, State.setStream_keepsMem, State.violate_keepsMem]

@[simp ↓] theorem State.startGo_keepsMem (r : Req) (n : Nat) (v : Word) :
    s.keepsMem (s.startGo r n v) := iff_enough (by simp +contextual [State.startGo])

@[simp ↓] theorem execEngStartGo_keepsMem (r : Req) (n : Fin 8) (v : Word) :
    KeepsMem s (execEngStartGo r n v s) := by simp +contextual [execEngStartGo]

@[simp ↓] theorem State.releaseTimed_keepsMem (v : Word) : s.keepsMem (s.releaseTimed v) :=
  iff_enough (by simp +contextual [State.releaseTimed])

@[simp ↓] theorem execTimedGroupRelease_keepsMem (r : Req) (v : Word) :
    KeepsMem s (execTimedGroupRelease r v s) := by simp +contextual [execTimedGroupRelease]

@[simp ↓] theorem State.fetch_keepsMem (n c va k : Nat) : s.keepsMem (s.fetch n c va k).2 := by
  refine iff_enough ?_
  grind [enough, State.fetch, State.translatePages_keepsMem, State.violatePages_keepsMem]

@[simp ↓] theorem State.recordDecks_keepsMem (n cls : Nat) :
    s.keepsMem (s.recordDecks n cls) := iff_enough (by simp +contextual [State.recordDecks])

@[simp ↓] theorem State.restoreDecks_keepsMem (n cls : Nat) :
    s.keepsMem (s.restoreDecks n cls) := iff_enough (by simp +contextual [State.restoreDecks])

@[simp ↓] theorem State.suspend_keepsMem (n : Nat) (p : Prog) (kind flags handle va step nsteps slot detail : Nat) :
    s.keepsMem (s.suspend n p kind flags handle va step nsteps slot detail) := by
  refine iff_enough ?_
  grind [enough, State.suspend, State.setStream_keepsMem, State.reportFault_keepsMem, State.setRun_keepsMem, State.unlockProg_keepsMem,
    State.halt_keepsMem, State.breakGroup_keepsMem, State.recordDecks_keepsMem]

@[simp ↓] theorem State.checkHeader_keepsMem (n : Nat) (p : Prog) : s.keepsMem (s.checkHeader n p) := by
  refine iff_enough ?_
  grind [enough, State.checkHeader, State.setRun_keepsMem, State.halt_keepsMem, State.fetch_keepsMem, State.suspend_keepsMem]

@[simp ↓] theorem State.applyClocks_keepsMem (n : Nat) : s.keepsMem (s.applyClocks n) :=
  iff_enough (by simp +contextual [State.applyClocks])

@[simp ↓] theorem State.beginNext_keepsMem (n : Nat) : s.keepsMem (s.beginNext n) := by
  refine iff_enough ?_
  grind [enough, State.beginNext, State.setStream_keepsMem, State.restoreDecks_keepsMem, State.checkHeader_keepsMem,
    State.applyClocks_keepsMem]

@[simp ↓] theorem execProgramBegin_keepsMem (n : Fin 22) : KeepsMem s (execProgramBegin n s) := by simp +contextual [execProgramBegin]

@[simp ↓] theorem State.saveRun_keepsMem (n : Nat) : s.keepsMem (s.saveRun n) := by
  refine iff_enough ?_
  unfold State.saveRun
  split <;> simp +contextual

@[simp ↓] theorem execPreemption_keepsMem (n : Fin 22) : KeepsMem s (execPreemption n s) := by
  grind [enough, execPreemption, State.halt_keepsMem, State.breakGroup_keepsMem, State.beginNext_keepsMem, State.saveRun_keepsMem,
    keepsMem_next]

@[simp ↓] theorem execBroadcastStart_keepsMem (n : Fin 22) : KeepsMem s (execBroadcastStart n s) := by
  rw [execBroadcastStart, keepsMem_next]
  dsimp only
  split
  · exact id
  · simp +contextual

@[simp ↓] theorem State.fetchBundle_keepsMem (n : Nat) (p : Prog) (pc : Nat) : s.keepsMem (s.fetchBundle n p pc).2 := by
  refine iff_enough ?_
  grind [enough, State.fetchBundle, State.fetch_keepsMem]

@[simp ↓] theorem execBundleFetch_keepsMem (n : Fin 22) : KeepsMem s (execBundleFetch n s) := by
  rw [execBundleFetch, keepsMem_next]
  dsimp only
  split
  · exact id
  split
  · exact id
  split
  · split <;> next h => simp +contextual [keepsMem_of_snd h]
  split
  · split
    · exact id
    split
    · exact id
    split
    · next h => simp +contextual [keepsMem_of_snd h]
    · exact id
  · exact id

@[simp ↓] theorem execSyncWaitSatisfied_keepsMem (n : Fin 22) (w : Fin 2) : KeepsMem s (execSyncWaitSatisfied n w s) := by
  rw [execSyncWaitSatisfied, keepsMem_next]
  split
  · simp +contextual
  · split
    · simp +contextual
    · split <;> simp +contextual

@[simp ↓] theorem execBellIncrementWrite_keepsMem (r : Req) (b : Fin 512) (v : Word) :
    KeepsMem s (execBellIncrementWrite r b v s) := by simp +contextual [execBellIncrementWrite]

@[simp ↓] theorem execBellSetWrite_keepsMem (r : Req) (b : Fin 512) (v : Word) (incs : List Half) :
    KeepsMem s (execBellSetWrite r b v incs s) := by simp +contextual [execBellSetWrite]

@[simp ↓] theorem State.haltContext_keepsMem (n c reason : Nat) : s.keepsMem (s.haltContext n c reason) := by
  refine iff_enough ?_
  unfold State.haltContext
  split <;> simp +contextual

@[simp ↓] theorem State.refuseContext_keepsMem (n c : Nat) :
    s.keepsMem (s.refuseContext n c) := iff_enough (by simp +contextual [State.refuseContext])

@[simp ↓] theorem State.writeEngCtl_keepsMem (r : Req) (n : Nat) (v : Word) :
    s.keepsMem (s.writeEngCtl r n v) := iff_enough (by simp +contextual [State.writeEngCtl])

@[simp ↓] theorem State.engCtlWrite_keepsMem (r : Req) (n : Nat) (v : Word) :
    s.keepsMem (s.engCtlWrite r n v) := iff_enough (by simp +contextual [State.engCtlWrite])

@[simp ↓] theorem execHaltRequest_keepsMem (r : Req) (n : Fin 22) (v : Word) :
    KeepsMem s (execHaltRequest r n v s) := by simp +contextual [execHaltRequest]

@[simp ↓] theorem execHaltClear_keepsMem (r : Req) (n : Fin 22) (v : Word) :
    KeepsMem s (execHaltClear r n v s) := by simp +contextual [execHaltClear]

/-! ### The storage controller (spec/13) -/

@[simp ↓] theorem State.memOk_setSto (t : Storage) : (s.setSto t).memOk ↔ enough (s.memOk ∧ t.ok) (s.setSto t).memOk :=
  iff_enough (by simp +contextual [State.setSto])

@[simp ↓] theorem State.setBusy_keepsMem (k : Nat) (b : Bool) : s.keepsMem (s.setBusy k b) :=
  iff_enough (by simp +contextual [State.setBusy])

@[simp ↓] theorem State.syncBank_keepsMem (k : Nat) : s.keepsMem (s.syncBank k) := iff_enough (by simp +contextual [State.syncBank])

@[simp ↓] theorem State.stoCard_keepsMem (event ofs cnt : Nat) :
    s.keepsMem (s.stoCard event ofs cnt) := iff_enough (by simp +contextual [State.stoCard])

@[simp ↓] theorem State.correction_keepsMem (ofs n : Nat) : s.keepsMem (s.correction ofs n) := by
  refine iff_enough ?_
  unfold State.correction
  split <;> simp +contextual

@[simp ↓] theorem State.uncorrectable_keepsMem (ofs r : Nat) :
    s.keepsMem (s.uncorrectable ofs r) := iff_enough (by simp +contextual [State.uncorrectable])

@[simp ↓] theorem State.wbmTouch_keepsMem (line : Nat) : s.keepsMem (s.wbmTouch line) := iff_enough (by simp +contextual [State.wbmTouch])

@[simp ↓] theorem State.wbmDropSector_keepsMem (n : Nat) : s.keepsMem (s.wbmDropSector n) :=
  iff_enough (by simp +contextual [State.wbmDropSector])

@[simp ↓] theorem execWbmCacheFill_keepsMem (r : Req) (a : Addr) : KeepsMem s (execWbmCacheFill r a s) := by
  rw [execWbmCacheFill, keepsMem_next]
  split
  · split <;> simp +contextual
  · simp +contextual

@[simp ↓] theorem execStorageWindowRead_keepsMem (r : Req) (a : Addr) (wide : Bool) (worst : Fin 4) :
    KeepsMem s (execStorageWindowRead r a wide worst s) := by
  rw [execStorageWindowRead, keepsMem_next]
  split
  · cases wide <;> simp only [Bool.false_eq_true, if_true, if_false, Bool.false_and, Bool.true_and]
    all_goals
      repeat' split
      all_goals simp +contextual
  · exact id

@[simp ↓] theorem State.stoFinish_keepsMem (e : StoEntry) (status failofs : Nat) :
    s.keepsMem (s.stoFinish e status failofs) := iff_enough (by simp +contextual [State.stoFinish])

@[simp ↓] theorem State.relocate_keepsMem (n : Nat) (copy : Bool) : s.keepsMem (s.relocate n copy).2 := by
  refine iff_enough ?_
  unfold State.relocate
  dsimp only
  split
  · exact id
  · split
    · simp +contextual
    · simp +contextual

@[simp ↓] theorem State.stoFault_keepsMem (e : StoEntry) (kind flags va : Nat) :
    s.keepsMem (s.stoFault e kind flags va) := by
  refine iff_enough ?_
  grind [enough, State.ok_sto, Storage.ok_setEntry, State.stoFault, State.reportFault_keepsMem, State.memOk_setSto,
    State.setBusy_keepsMem, State.stoFinish_keepsMem]

@[simp ↓] theorem State.stoStep_keepsMem (e : StoEntry) (fuel : Nat) : s.keepsMem (s.stoStep e fuel) := by
  refine iff_enough ?_
  induction fuel generalizing s e with
  | zero => exact id
  | succ fuel ih =>
    change s.memOk → State.memOk (if e.op = 2 then _ else if e.op = 3 then _ else if e.op = 4 then _ else s)
    split
    · grind [enough, State.translatePages_keepsMem, State.stoFinish_keepsMem, State.stoFault_keepsMem, State.violatePages_keepsMem,
        State.reportConsume_keepsMem, State.setBusy_keepsMem, State.memOk_setSto, State.ok_sto, Storage.ok_setEntry,
        State.wbmDropSector_keepsMem]
    split
    · dsimp only
      iterate 4 (split; · simp +contextual)
      split
      · split <;> next h => simp +contextual [keepsMem_of_snd h, ih]
      · simp +contextual
    split
    · grind [enough, State.relocate_keepsMem, State.stoFinish_keepsMem, State.uncorrectable_keepsMem, State.memOk_setSto, State.ok_sto,
        Storage.ok_setEntry]
    · exact id

@[simp ↓] theorem State.stoKick_keepsMem : s.keepsMem s.stoKick := by
  unfold State.stoKick
  refine memOk_foldl _ (fun t x => ?_) _ _
  split <;> simp +contextual

@[simp ↓] theorem State.stoFetch_keepsMem (op : Nat) : s.keepsMem (s.stoFetch op) := by
  refine iff_enough ?_
  grind [enough, State.ok_sto, Storage.ok_mk, State.stoFetch, State.fset_keepsMem, State.store_keepsMem, State.memOk_setSto,
    State.stoFinish_keepsMem,
    State.stoKick_keepsMem]

@[simp ↓] theorem execStoRead_keepsMem : KeepsMem s (execStoRead s) := by simp +contextual [execStoRead]
@[simp ↓] theorem execStoProgram_keepsMem : KeepsMem s (execStoProgram s) := by simp +contextual [execStoProgram]
@[simp ↓] theorem execStoErase_keepsMem : KeepsMem s (execStoErase s) := by simp +contextual [execStoErase]
@[simp ↓] theorem execStoRelocate_keepsMem : KeepsMem s (execStoRelocate s) := by simp +contextual [execStoRelocate]
@[simp ↓] theorem execStoCounts_keepsMem : KeepsMem s (execStoCounts s) := by simp +contextual [execStoCounts]

@[simp ↓] theorem execStorageReadChunk_keepsMem (k : Fin 32) (errs : List (Nat × Fin 4)) :
    KeepsMem s (execStorageReadChunk k errs s) := by
  rw [execStorageReadChunk, keepsMem_next]
  split
  · exact id
  split
  · exact id
  dsimp only
  split
  · simp +contextual
  split <;> next h => simp +contextual [keepsMem_of_snd h]

@[simp ↓] theorem State.wordDone_keepsMem (k : Nat) (ok : Bool) : s.keepsMem (s.wordDone k ok) := by
  refine iff_enough ?_
  grind [enough, State.ok_sto, Storage.ok_setEntry, Storage.ok_progWord, Storage.ok_setSector, State.wordDone, State.draw_keepsMem,
    State.translatePages_keepsMem, State.memOk_setSto, State.setBusy_keepsMem,
    State.syncBank_keepsMem, State.uncorrectable_keepsMem, State.stoFinish_keepsMem, State.relocate_keepsMem,
    State.stoFault_keepsMem, State.stoStep_keepsMem, State.stoKick_keepsMem]

@[simp ↓] theorem execStorageWordDone_keepsMem (k : Fin 32) (ok : Bool) :
    KeepsMem s (execStorageWordDone k ok s) := by simp +contextual [execStorageWordDone]

@[simp ↓] theorem State.eraseDone_keepsMem (k : Nat) (ok : Bool) : s.keepsMem (s.eraseDone k ok) := by
  refine iff_enough ?_
  unfold State.eraseDone
  split
  · exact id
  dsimp only
  split
  · exact id
  split
  · simp +contextual
  split <;> next h => simp +contextual [keepsMem_of_snd h]

@[simp ↓] theorem execSectorEraseDone_keepsMem (k : Fin 32) (ok : Bool) :
    KeepsMem s (execSectorEraseDone k ok s) := by simp +contextual [execSectorEraseDone]

@[simp ↓] theorem execSpareErase_keepsMem (k : Fin 32) (start : Bool) : KeepsMem s (execSpareErase k start s) := by
  unfold execSpareErase
  split <;> simp +contextual

@[simp ↓] theorem State.writeStoCtl_keepsMem (v : Word) : s.keepsMem (s.writeStoCtl v) :=
  iff_enough (by simp +contextual [State.writeStoCtl])

@[simp ↓] theorem execStoCounterClear_keepsMem (r : Req) (v : Word) :
    KeepsMem s (execStoCounterClear r v s) := by simp +contextual [execStoCounterClear]

@[simp ↓] theorem execPendingEraseRedo_keepsMem (k : Fin 32) (ok : Bool) : KeepsMem s (execPendingEraseRedo k ok s) := by
  rw [execPendingEraseRedo, keepsMem_next]
  dsimp only
  split
  · simp +contextual
  split
  · simp +contextual
  split <;> next h => simp +contextual [keepsMem_of_snd h]

/-! ### Operations of the units -/

@[simp ↓] theorem State.setOp_keepsMem (n : Nat) (p : Prog) (o : OpRun) :
    s.keepsMem (s.setOp n p o) := iff_enough (by simp +contextual [State.setOp])

@[simp ↓] theorem State.withOp_keepsMem (n : Nat) (ok : OpRun → Bool) (f : Prog → OpRun → State)
    (h : ∀ p o, s.memOk → (f p o).memOk) : s.keepsMem (s.withOp n ok f) := by
  refine iff_enough ?_
  grind [enough, State.withOp]

@[simp ↓] theorem State.beginOp_keepsMem (n opc : Nat) (f : Prog → OpRun → State) (h : ∀ p o, s.memOk → (f p o).memOk) :
    s.keepsMem (s.beginOp n opc f) := iff_enough (by simp +contextual [State.beginOp, h])

@[simp ↓] theorem State.finishOp_keepsMem (n : Nat) (p : Prog) (o : OpRun) :
    s.keepsMem (s.finishOp n p o) := iff_enough (by simp +contextual [State.finishOp])

@[simp ↓] theorem State.touch_keepsMem (unit c : Nat) (l : List Touch) (m : PageMap) :
    s.keepsMem (s.touch unit c l m).2 := by
  refine iff_enough ?_
  induction l generalizing s m with
  | nil => simp +contextual [State.touch]
  | cons x l ih => grind [enough, State.touch, State.translate_keepsMem]

@[simp ↓] theorem State.suspendOp_keepsMem (n : Nat) (p : Prog) (o : OpRun) (kind : Nat) (t : Touch) (flags detail : Nat) :
    s.keepsMem (s.suspendOp n p o kind t flags detail) := iff_enough (by simp +contextual [State.suspendOp])

@[simp ↓] theorem State.failRead_keepsMem (n : Nat) (p : Prog) (x : Nat × Bool) (slot handle va : Nat) :
    s.keepsMem (s.failRead n p x slot handle va) := iff_enough (by simp +contextual [State.failRead])

@[simp ↓] theorem State.storeRead_keepsMem (offs : List Nat) : s.keepsMem (s.storeRead offs) :=
  iff_enough (by simp +contextual [State.storeRead])

@[simp ↓] theorem State.readCheck_keepsMem (n : Nat) (p : Prog) (notag : Bool) (addrs : List Nat) (slot handle va : Nat) :
    s.keepsMem (s.readCheck n p notag addrs slot handle va).2 := by
  refine iff_enough ?_
  grind [enough, State.readCheck, State.count_keepsMem, State.halt_keepsMem, State.uncorrectable_keepsMem, State.failRead_keepsMem,
    State.storeRead_keepsMem]

/-! ### Exposures (spec/06) -/

@[simp ↓] theorem State.exposeAll_keepsMem (d : Nat) (p : Prog) (o : OpRun) (x : Slot) (devs : List (Nat × Nat × Int)) :
    s.keepsMem (s.exposeAll d p o x devs).2 := by
  refine iff_enough fun hs => ?_
  unfold State.exposeAll
  dsimp only
  refine of_iff_enough (State.count_keepsMem ..) ?_
  generalize hu : List.foldl _ s _ = u
  have hfold : u.memOk := by
    rw [← hu]
    refine of_iff_enough (memOk_foldl _ (fun t x ht => ?_) _ _) hs
    split <;> simp [ht]
  simp [hfold]

@[simp ↓] theorem State.csCard_keepsMem (n : Nat) (p : Prog) (o : OpRun) (x : Slot) (ref : TileRef) (diff : Int) (verdict : Nat) :
    s.keepsMem (s.csCard n p o x ref diff verdict) := iff_enough (by simp +contextual [State.csCard])

@[simp ↓] theorem State.repeatSlot_keepsMem (n : Nat) (p : Prog) (o : OpRun) (x : Slot) (x0 : Nat) (x1 : List (List (Nat × Nat × Int)))
    (x2 : List (Option Exposed)) (x3 : List Nat) : s.keepsMem (s.repeatSlot n p o x x0 x1 x2 x3).2.2 := by
  refine iff_enough ?_
  induction x0 generalizing s x1 x2 x3 with
  | zero => simp +contextual [State.repeatSlot]
  | succ n ih =>
    unfold State.repeatSlot
    split <;> simp +contextual [ih]

@[simp ↓] theorem State.leaveDark_keepsMem (d : Nat) (tiles : List TileRef) :
    s.keepsMem (s.leaveDark d tiles) := iff_enough (by simp +contextual [State.leaveDark])

@[simp ↓] theorem execExposureSlot_keepsMem (n : Fin 22) (second : Bool) (devs : List (List (Nat × Nat × Int))) :
    KeepsMem s (execExposureSlot n second devs s) := by
  rw [execExposureSlot, keepsMem_next]
  refine of_iff_enough (State.withOp_keepsMem _ _ _ _ (fun p o => ?_))
  dsimp only
  split
  · exact id
  split <;> simp +contextual

@[simp ↓] theorem execMvm_keepsMem (n : Fin 22) : KeepsMem s (execMvm n s) := by
  grind [enough, execMvm, State.violatePages_keepsMem, State.setOp_keepsMem, State.beginOp_keepsMem, State.touch_keepsMem,
    State.suspendOp_keepsMem, State.readCheck_keepsMem, keepsMem_next]

@[simp ↓] theorem State.statStep_keepsMem (d : Nat) (o : OpRun) : s.keepsMem (s.statStep d o) := by
  refine iff_enough ?_
  unfold State.statStep
  split
  · exact id
  dsimp only
  split <;> simp +contextual

@[simp ↓] theorem execMvmCommit_keepsMem (n : Fin 22) (second : Bool) : KeepsMem s (execMvmCommit n second s) := by
  rw [execMvmCommit, keepsMem_next]
  refine of_iff_enough (State.withOp_keepsMem _ _ _ _ (fun p o => ?_))
  dsimp only
  split
  · next h1 => simp +contextual [keepsMem_of_snd h1]
  next h1 =>
  split
  · next h2 => simp +contextual [keepsMem_of_snd h2, keepsMem_of_snd h1]
  next h2 =>
  split <;> next h3 => simp +contextual [keepsMem_of_snd h3, keepsMem_of_snd h2, keepsMem_of_snd h1]

@[simp ↓] theorem execDeck_keepsMem (n : Fin 22) : KeepsMem s (execDeck n s) := by simp +contextual [execDeck]

@[simp ↓] theorem State.writeCimCtl_keepsMem (d : Nat) (v : Word) :
    s.keepsMem (s.writeCimCtl d v) := iff_enough (by simp +contextual [State.writeCimCtl])

@[simp ↓] theorem execSatCounterClear_keepsMem (r : Req) (d : Fin 4) (v : Word) :
    KeepsMem s (execSatCounterClear r d v s) := by simp +contextual [execSatCounterClear]

/-! ### Tile programming (spec/07) -/

@[simp ↓] theorem State.cimpFetch_keepsMem (d x0 : Nat) : s.keepsMem (s.cimpFetch d x0) := by
  refine iff_enough ?_
  induction x0 generalizing s with
  | zero => simp +contextual [State.cimpFetch]
  | succ n ih => simp +contextual [State.cimpFetch, ih]

@[simp ↓] theorem State.cimpFinish_keepsMem (d : Nat) (c : TileCmd) (st res : Nat) :
    s.keepsMem (s.cimpFinish d c st res) := by
  refine iff_enough ?_
  unfold State.cimpFinish
  split <;> simp +contextual

@[simp ↓] theorem State.setCmd_keepsMem (d : Nat) (c c' : TileCmd) : s.keepsMem (s.setCmd d c c') :=
  iff_enough (by simp +contextual [State.setCmd])

@[simp ↓] theorem State.onDeck_keepsMem (d t p : Nat) (f : DeckRec → DeckRec) :
    s.keepsMem (s.onDeck d t p f) := iff_enough (by simp +contextual [State.onDeck])

@[simp ↓] theorem State.cimpStart_keepsMem (d op t : Nat) (f : State → TileCmd → State) (h : ∀ u c, u.memOk → (f u c).memOk) :
    s.keepsMem (s.cimpStart d op t f) := by
  refine iff_enough ?_
  grind [enough, State.cimpStart, State.cimpFetch_keepsMem, State.cimpFinish_keepsMem, State.store_keepsMem, State.setCmd_keepsMem]

@[simp ↓] theorem execTileErase_keepsMem (d : Fin 4) (t : Half) : KeepsMem s (execTileErase d t s) := by simp +contextual [execTileErase]

@[simp ↓] theorem execTileEraseDone_keepsMem (d : Fin 4) (t : Half) (bad : List (Fin 528 × Fin 544 × Fin 4)) (pulse : Bool) :
    KeepsMem s (execTileEraseDone d t bad pulse s) := by
  unfold execTileEraseDone
  split <;> simp +contextual

@[simp ↓] theorem execTileProgram_keepsMem (d : Fin 4) (t : Half) :
    KeepsMem s (execTileProgram d t s) := by simp +contextual [execTileProgram]

@[simp ↓] theorem State.cimpBytes_keepsMem (d va n : Nat) : s.keepsMem (s.cimpBytes d va n).2 := by
  refine iff_enough ?_
  grind [enough, State.cimpBytes, State.translatePages_keepsMem, State.violatePages_keepsMem, State.uncorrectable_keepsMem]

@[simp ↓] theorem State.rowSource_keepsMem (d : Nat) (c : TileCmd) (r : Nat) : s.keepsMem (s.rowSource d c r).2 := by
  refine iff_enough ?_
  unfold State.rowSource
  split
  · simp +contextual
  split
  · next h1 =>
    dsimp only
    split
    · simp +contextual [keepsMem_of_snd h1]
    split
    · simp +contextual [keepsMem_of_snd h1]
    split
    · next h2 =>
      split
      · next h3 => split <;> simp +contextual [keepsMem_of_snd h1, keepsMem_of_snd h2, keepsMem_of_snd h3]
      · simp +contextual [keepsMem_of_snd h1, keepsMem_of_snd h2]
    · simp +contextual [keepsMem_of_snd h1]
  · simp +contextual

@[simp ↓] theorem execProgramRow_keepsMem (d : Fin 4) (t : Half) (p1 : Fin 9) (p2 : Fin 5) (cells : List (Fin 544 × Fin 4)) :
    KeepsMem s (execProgramRow d t p1 p2 cells s) := by
  rw [execProgramRow, keepsMem_next]
  split
  · exact id
  refine fun hs => State.memOk_of_ite hs ?_
  split
  · next h => simp [keepsMem_of_snd h, hs]
  · next h => simp [keepsMem_of_snd h, hs]
  · next h =>
    dsimp only
    split <;> next h2 => simp [keepsMem_of_snd h2, keepsMem_of_snd h, hs]
  · next h =>
    refine State.memOk_of_ite ?_ (State.memOk_of_ite ?_ (State.memOk_of_ite ?_ ?_))
    all_goals simp [keepsMem_of_snd h, hs]

@[simp ↓] theorem execTileTopup_keepsMem (d : Fin 4) (t : Half) : KeepsMem s (execTileTopup d t s) := by simp +contextual [execTileTopup]

@[simp ↓] theorem execTileCalibrate_keepsMem (d : Fin 4) (t : Half) :
    KeepsMem s (execTileCalibrate d t s) := by simp +contextual [execTileCalibrate]

@[simp ↓] theorem State.topupRow_keepsMem (d : Nat) (c : TileCmd) (x : DarkFacts) :
    s.keepsMem (s.topupRow d c x) := iff_enough (by simp +contextual [State.topupRow])

@[simp ↓] theorem State.calStep_keepsMem (d : Nat) (c : TileCmd) (x : DarkFacts) :
    s.keepsMem (s.calStep d c x) := iff_enough (by simp +contextual [State.calStep])

@[simp ↓] theorem execDarkroomStep_keepsMem (d : Fin 4) (t : Half) (trim : Byte) (n : Fin 171) (lo hi : Half) (seg : Fin 4)
    (fails : Bool) (cells : List (Fin 544 × Fin 4)) (pulsed : Half) :
    KeepsMem s (execDarkroomStep d t trim n lo hi seg fails cells pulsed s) := by
  unfold execDarkroomStep
  split <;> simp +contextual

@[simp ↓] theorem execDarkroomReenter_keepsMem (d : Fin 4) (t : Half) : KeepsMem s (execDarkroomReenter d t s) := by
  unfold execDarkroomReenter
  split <;> simp +contextual

@[simp ↓] theorem execCalibrationDue_keepsMem (d : Fin 4) (t : Half) (p : Fin 8) :
    KeepsMem s (execCalibrationDue d t p s) := by simp +contextual [execCalibrationDue]

@[simp ↓] theorem execDriftPersist_keepsMem (d : Fin 4) (t : Half) :
    KeepsMem s (execDriftPersist d t s) := by simp +contextual [execDriftPersist]

@[simp ↓] theorem execTileMapset_keepsMem (d : Fin 4) (t : Half) :
    KeepsMem s (execTileMapset d t s) := by simp +contextual [execTileMapset]

@[simp ↓] theorem State.retireTile_keepsMem (d t : Nat) (force : Bool) : s.keepsMem (s.retireTile d t force).2 := by
  refine iff_enough ?_
  unfold State.retireTile
  dsimp only
  split <;> simp +contextual

@[simp ↓] theorem execTileRetire_keepsMem (d : Fin 4) (t : Half) : KeepsMem s (execTileRetire d t s) := by
  grind [enough, execTileRetire, State.cimpFinish_keepsMem, State.cimpStart_keepsMem, State.retireTile_keepsMem, keepsMem_next]

@[simp ↓] theorem State.deckSwitch_keepsMem (st : Nat) : s.keepsMem (s.deckSwitch st) := iff_enough (by simp +contextual [State.deckSwitch])

@[simp ↓] theorem State.writeSwitch_keepsMem (d : Nat) (v : Word) :
    s.keepsMem (s.writeSwitch d v) := iff_enough (by simp +contextual [State.writeSwitch])

@[simp ↓] theorem execSwitchArm_keepsMem (r : Req) (d : Fin 4) (v : Word) :
    KeepsMem s (execSwitchArm r d v s) := by simp +contextual [execSwitchArm]

@[simp ↓] theorem execSwitchDisarm_keepsMem (r : Req) (d : Fin 4) (v : Word) :
    KeepsMem s (execSwitchDisarm r d v s) := by simp +contextual [execSwitchDisarm]

@[simp ↓] theorem execDeckMapSwitch_keepsMem (st : Fin 16) :
    KeepsMem s (execDeckMapSwitch st s) := by simp +contextual [execDeckMapSwitch]

@[simp ↓] theorem State.writeStatCfg_keepsMem (d : Nat) (v : Word) :
    s.keepsMem (s.writeStatCfg d v) := iff_enough (by simp +contextual [State.writeStatCfg])

@[simp ↓] theorem execStatsArm_keepsMem (r : Req) (d : Fin 4) (v : Word) :
    KeepsMem s (execStatsArm r d v s) := by simp +contextual [execStatsArm]

@[simp ↓] theorem State.cimpInterrupt_keepsMem : s.keepsMem s.cimpInterrupt := iff_enough (by simp +contextual [State.cimpInterrupt])

@[simp ↓] theorem State.tilesRestart_keepsMem (sel : List (Nat × Nat)) :
    s.keepsMem (s.tilesRestart sel) := iff_enough (by simp +contextual [State.tilesRestart])

/-! ### Field outputs (spec/16) -/

@[simp ↓] theorem State.setAo_keepsMem (n : Nat) (x : Ao) : s.keepsMem (s.setAo n x) := iff_enough (by simp +contextual [State.setAo])

@[simp ↓] theorem State.aoBit_keepsMem (f : Fld) (n : Nat) (b : Bool) : s.keepsMem (s.aoBit f n b) :=
  iff_enough (by simp +contextual [State.aoBit])

@[simp ↓] theorem State.outCard_keepsMem (n event : Nat) (detail : List Byte) :
    s.keepsMem (s.outCard n event detail) := iff_enough (by simp +contextual [State.outCard])

@[simp ↓] theorem State.aoUpdate_keepsMem (n : Nat) : s.keepsMem (s.aoUpdate n) := iff_enough (by simp +contextual [State.aoUpdate])
@[simp ↓] theorem State.aoUpdateAll_keepsMem : s.keepsMem s.aoUpdateAll := iff_enough (by simp +contextual [State.aoUpdateAll])

@[simp ↓] theorem State.aoApplied_keepsMem (n old : Nat) : s.keepsMem (s.aoApplied n old) :=
  iff_enough (by simp +contextual [State.aoApplied])

@[simp ↓] theorem execAoRangeBreakEnd_keepsMem (n : Fin 4) :
    KeepsMem s (execAoRangeBreakEnd n s) := by simp +contextual [execAoRangeBreakEnd]

@[simp ↓] theorem State.writeAoValue_keepsMem (n : Nat) (v : Word) :
    s.keepsMem (s.writeAoValue n v) := iff_enough (by simp +contextual [State.writeAoValue])

@[simp ↓] theorem execAoValueWrite_keepsMem (r : Req) (n : Fin 4) (v : Word) :
    KeepsMem s (execAoValueWrite r n v s) := by simp +contextual [execAoValueWrite]

@[simp ↓] theorem State.setOverride_keepsMem (n : Nat) (en : Bool) (v : Nat) (pass : Bool) :
    s.keepsMem (s.setOverride n en v pass) := iff_enough (by simp +contextual [State.setOverride])

@[simp ↓] theorem execAoOverrideWrite_keepsMem (r : Req) (n : Fin 4) (v : Word) :
    KeepsMem s (execAoOverrideWrite r n v s) := by simp +contextual [execAoOverrideWrite]

@[simp ↓] theorem execAoRefreshTimeout_keepsMem (n : Fin 4) :
    KeepsMem s (execAoRefreshTimeout n s) := by simp +contextual [execAoRefreshTimeout]

@[simp ↓] theorem execAoLinkSilence_keepsMem : KeepsMem s (execAoLinkSilence s) := by simp +contextual [execAoLinkSilence]

@[simp ↓] theorem State.aoFlag_keepsMem (n k : Nat) (f : Fld) (cond : Bool) (detail : List Byte) :
    s.keepsMem (s.aoFlag n k f cond detail) := iff_enough (by simp +contextual [State.aoFlag])

@[simp ↓] theorem execAoMonitor_keepsMem (n : Fin 4) (rback : Word) (limit : Bool) :
    KeepsMem s (execAoMonitor n rback limit s) := by
  grind [enough, execAoMonitor, State.rset_keepsMem, State.setAo_keepsMem, State.aoFlag_keepsMem, keepsMem_next]

/-! ### Wall time (spec/01) -/

@[simp ↓] theorem State.setShadow_keepsMem (a : Nat) (v : Word) : s.keepsMem (s.setShadow a v) :=
  iff_enough (by simp +contextual [State.setShadow])

@[simp ↓] theorem State.dropShadow_keepsMem (a : Nat) : s.keepsMem (s.dropShadow a) := iff_enough (by simp +contextual [State.dropShadow])

@[simp ↓] theorem State.moveWall_keepsMem (ofs source : Nat) :
    s.keepsMem (s.moveWall ofs source) := iff_enough (by simp +contextual [State.moveWall])

@[simp ↓] theorem execWallofsHiWrite_keepsMem (r : Req) (v : Word) :
    KeepsMem s (execWallofsHiWrite r v s) := by simp +contextual [execWallofsHiWrite]

/-! ### Staged groups (spec/02) -/

@[simp ↓] theorem State.setChan_keepsMem (c : Nat) (x : Chan) : s.keepsMem (s.setChan c x) :=
  iff_enough (by simp +contextual [State.setChan])

@[simp ↓] theorem State.setAcq_keepsMem (n : Nat) (x : AcqStream) : s.keepsMem (s.setAcq n x) :=
  iff_enough (by simp +contextual [State.setAcq])

@[simp ↓] theorem State.noteCfg_keepsMem (g : Group) : s.keepsMem (s.noteCfg g) := by
  refine iff_enough ?_
  unfold State.noteCfg
  split
  · simp +contextual
  · split <;> simp +contextual

@[simp ↓] theorem State.noteCond_keepsMem (c : Nat) : s.keepsMem (s.noteCond c) := iff_enough (by simp +contextual [State.noteCond])

@[simp ↓] theorem State.beginSettle_keepsMem (c : Nat) : s.keepsMem (s.beginSettle c) :=
  iff_enough (by simp +contextual [State.beginSettle])

@[simp ↓] theorem State.vchApplied_keepsMem (n old : Nat) : s.keepsMem (s.vchApplied n old) :=
  iff_enough (by simp +contextual [State.vchApplied])

@[simp ↓] theorem State.orderReset_keepsMem (n : Nat) : s.keepsMem (s.orderReset n) := iff_enough (by simp +contextual [State.orderReset])

@[simp ↓] theorem State.takeShadows_keepsMem (g : Group) : s.keepsMem (s.takeShadows g) :=
  iff_enough (by simp +contextual [State.takeShadows])

@[simp ↓] theorem State.setDisagree_keepsMem (g : Group) (b : Bool) : s.keepsMem (s.setDisagree g b) := by
  refine iff_enough ?_
  unfold State.setDisagree
  split <;> simp +contextual

@[simp ↓] theorem State.applyGroup_keepsMem (g : Group) : s.keepsMem (s.applyGroup g) := by
  refine iff_enough ?_
  unfold State.applyGroup
  split
  · split <;> simp +contextual
  · simp +contextual

@[simp ↓] theorem State.showArmed_keepsMem (g : Group) : s.keepsMem (s.showArmed g) := by
  refine iff_enough ?_
  unfold State.showArmed
  split <;> simp +contextual

@[simp ↓] theorem State.disarm_keepsMem (g : Group) : s.keepsMem (s.disarm g) := iff_enough (by simp +contextual [State.disarm])

@[simp ↓] theorem State.commitGroup_keepsMem (g : Group) : s.keepsMem (s.commitGroup g) := by
  refine iff_enough ?_
  unfold State.commitGroup
  split <;> simp +contextual

@[simp ↓] theorem State.applyArmed_keepsMem (n : Nat) : s.keepsMem (s.applyArmed n) := iff_enough (by simp +contextual [State.applyArmed])

@[simp ↓] theorem State.writeStaged_keepsMem (g : Group) (a : Nat) (v : Word) : s.keepsMem (s.writeStaged g a v) := by
  refine iff_enough ?_
  unfold State.writeStaged
  split <;> simp +contextual

@[simp ↓] theorem execStagedFieldWrite_keepsMem (r : Req) (a : Addr) (v : Word) :
    KeepsMem s (execStagedFieldWrite r a v s) := by
  rw [execStagedFieldWrite, keepsMem_next]
  split
  · simp +contextual
  · split <;> simp +contextual

@[simp ↓] theorem execStagedCommitWrite_keepsMem (r : Req) (a : Addr) (v : Word) :
    KeepsMem s (execStagedCommitWrite r a v s) := by
  unfold execStagedCommitWrite
  split <;> simp +contextual

/-! ### Order tables (spec/10) -/

@[simp ↓] theorem State.requestBuild_keepsMem (n f a : Nat) :
    s.keepsMem (s.requestBuild n f a) := iff_enough (by simp +contextual [State.requestBuild])

@[simp ↓] theorem State.onLatch_keepsMem (n opn : Nat) (f : Latch → Latch) :
    s.keepsMem (s.onLatch n opn f) := iff_enough (by simp +contextual [State.onLatch])

@[simp ↓] theorem State.profileFit_keepsMem (n opn close : Nat) (xs : List Nat) :
    s.keepsMem (s.profileFit n opn close xs) := by
  refine iff_enough ?_
  grind [enough, State.profileFit, State.rset_keepsMem, State.setFlag_keepsMem, State.requestBuild_keepsMem, State.onLatch_keepsMem]

@[simp ↓] theorem execOrderTableBuild_keepsMem : KeepsMem s (execOrderTableBuild s) := by
  unfold execOrderTableBuild
  split <;> simp +contextual

@[simp ↓] theorem State.orderClose_keepsMem (n : Nat) (w : Window) (close : Nat) (flies : Bool) :
    s.keepsMem (s.orderClose n w close flies) := iff_enough (by simp +contextual [State.orderClose])

@[simp ↓] theorem State.leaveFlight_keepsMem (n frame : Nat) :
    s.keepsMem (s.leaveFlight n frame) := iff_enough (by simp +contextual [State.leaveFlight])

/-! ### Acquisition (spec/10) -/

@[simp ↓] theorem State.onWindows_keepsMem (f : Window → Window) : s.keepsMem (s.onWindows f) :=
  iff_enough (by simp +contextual [State.onWindows])

@[simp ↓] theorem State.deliver_keepsMem (c : Nat) (x : Sample) : s.keepsMem (s.deliver c x) :=
  iff_enough (by simp +contextual [State.deliver])

@[simp ↓] theorem execSampleAvailable_keepsMem (c : Fin 96) (t : DWord) (code : Word) (fault : Bool) :
    KeepsMem s (execSampleAvailable c t code fault s) := by simp +contextual [execSampleAvailable]

@[simp ↓] theorem execSpeedEdge_keepsMem (k : Fin 4) (t : DWord) : KeepsMem s (execSpeedEdge k t s) := by simp +contextual [execSpeedEdge]

@[simp ↓] theorem execSlowSample_keepsMem (k : Fin 8) (t : DWord) (v ohm : Word) :
    KeepsMem s (execSlowSample k t v ohm s) := by simp +contextual [execSlowSample]

@[simp ↓] theorem execDigitalPortSample_keepsMem (p : Fin 4) (t : DWord) (words : List Word) :
    KeepsMem s (execDigitalPortSample p t words s) := by simp +contextual [execDigitalPortSample]

@[simp ↓] theorem State.acqCard_keepsMem (i event mv : Nat) : s.keepsMem (s.acqCard i event mv) :=
  iff_enough (by simp +contextual [State.acqCard])

@[simp ↓] theorem execBiasMeasure_keepsMem (i : Fin 16) (mv : Half) :
    KeepsMem s (execBiasMeasure i mv s) := by
  rw [execBiasMeasure, keepsMem_next]
  intro h
  simp [h]

@[simp ↓] theorem execIepeSettleEnd_keepsMem (i : Fin 16) : KeepsMem s (execIepeSettleEnd i s) := by simp +contextual [execIepeSettleEnd]
@[simp ↓] theorem execSupplySample_keepsMem (mv : Half) : KeepsMem s (execSupplySample mv s) := by simp +contextual [execSupplySample]

@[simp ↓] theorem State.openWindow_keepsMem (n opn : Nat) (first config : Bool) :
    s.keepsMem (s.openWindow n opn first config) := iff_enough (by simp +contextual [State.openWindow])

@[simp ↓] theorem State.startStream_keepsMem (n : Nat) : s.keepsMem (s.startStream n) :=
  iff_enough (by simp +contextual [State.startStream])

@[simp ↓] theorem State.writeStCtl_keepsMem (n : Nat) (en : Bool) :
    s.keepsMem (s.writeStCtl n en) := iff_enough (by simp +contextual [State.writeStCtl])

@[simp ↓] theorem execStreamStart_keepsMem (r : Req) (n : Fin 16) (_v : Word) :
    KeepsMem s (execStreamStart r n _v s) := by simp +contextual [execStreamStart]

@[simp ↓] theorem execStreamStopRequest_keepsMem (r : Req) (n : Fin 16) (_v : Word) :
    KeepsMem s (execStreamStopRequest r n _v s) := by simp +contextual [execStreamStopRequest]

@[simp ↓] theorem State.reserveWindow_keepsMem (n : Nat) (w : Window) (len : Nat) :
    s.keepsMem (s.reserveWindow n w len) := iff_enough (by simp +contextual [State.reserveWindow])

@[simp ↓] theorem State.streamStops_keepsMem (n : Nat) : s.keepsMem (s.streamStops n) :=
  iff_enough (by simp +contextual [State.streamStops])

@[simp ↓] theorem State.closeWindow_keepsMem (n : Nat) (w : Window) (tc : Nat) : s.keepsMem (s.closeWindow n w tc) := by
  refine iff_enough ?_
  grind [enough, State.closeWindow, State.fset_keepsMem, State.count_keepsMem, State.deckSwitch_keepsMem, State.setAcq_keepsMem,
    State.applyArmed_keepsMem, State.orderClose_keepsMem, State.openWindow_keepsMem, State.reserveWindow_keepsMem,
    State.streamStops_keepsMem]

@[simp ↓] theorem execFrameClose_keepsMem (n : Fin 16) : KeepsMem s (execFrameClose n s) := by
  unfold execFrameClose
  split <;> simp +contextual

@[simp ↓] theorem State.storeRegion_keepsMem (cr start : Nat) (b : List Byte) :
    s.keepsMem (s.storeRegion cr start b) := iff_enough (by simp +contextual [State.storeRegion])

@[simp ↓] theorem State.completeWindow_keepsMem (n : Nat) : s.keepsMem (s.completeWindow n) := by
  refine iff_enough ?_
  grind [enough, State.completeWindow, State.rset_keepsMem, State.finishArrival_keepsMem, State.setAcq_keepsMem, State.profileFit_keepsMem,
    State.storeRegion_keepsMem]

@[simp ↓] theorem execWindowArrivalComplete_keepsMem (n : Fin 16) :
    KeepsMem s (execWindowArrivalComplete n s) := by simp +contextual [execWindowArrivalComplete]

@[simp ↓] theorem State.completeAll_keepsMem (n x0 : Nat) : s.keepsMem (s.completeAll n x0) := by
  refine iff_enough ?_
  induction x0 generalizing s with
  | zero => simp +contextual [State.completeAll]
  | succ n ih => simp +contextual [State.completeAll, ih]

@[simp ↓] theorem State.recessStream_keepsMem (n : Nat) : s.keepsMem (s.recessStream n) :=
  iff_enough (by simp +contextual [State.recessStream])

@[simp ↓] theorem State.wakeStreams_keepsMem : s.keepsMem s.wakeStreams := iff_enough (by simp +contextual [State.wakeStreams])

/-! ### The Shunto link (spec/18) -/

@[simp ↓] theorem State.setPort_keepsMem (p : Nat) (x : Port) : s.keepsMem (s.setPort p x) :=
  iff_enough (by simp +contextual [State.setPort])

@[simp ↓] theorem State.enqueue_keepsMem (p : Nat) (g : Seg) : s.keepsMem (s.enqueue p g) :=
  iff_enough (by simp +contextual [State.enqueue])

@[simp ↓] theorem State.sendSeg_keepsMem (g : Seg) : s.keepsMem (s.sendSeg g).2 := by
  refine iff_enough ?_
  unfold State.sendSeg
  split
  · simp +contextual
  · split <;> simp +contextual

@[simp ↓] theorem State.takeSeg_keepsMem (p : Nat) (g : Seg) : s.keepsMem (s.takeSeg p g) :=
  iff_enough (by simp +contextual [State.takeSeg])

@[simp ↓] theorem State.chnCard_keepsMem (event p lane : Nat) (detail : List Byte) :
    s.keepsMem (s.chnCard event p lane detail) := iff_enough (by simp +contextual [State.chnCard])

@[simp ↓] theorem State.turnRoutes_keepsMem (f : Nat → Bool) : s.keepsMem (s.turnRoutes f) :=
  iff_enough (by simp +contextual [State.turnRoutes])

@[simp ↓] theorem State.wakeStandby_keepsMem : s.keepsMem s.wakeStandby := iff_enough (by simp +contextual [State.wakeStandby])
@[simp ↓] theorem State.portDown_keepsMem (p : Nat) : s.keepsMem (s.portDown p) := iff_enough (by simp +contextual [State.portDown])
@[simp ↓] theorem State.retrain_keepsMem (p : Nat) : s.keepsMem (s.retrain p) := iff_enough (by simp +contextual [State.retrain])

@[simp ↓] theorem execPortTraining_keepsMem (p : Fin 3) (partner : Option (Fin 4096)) (good : Fin 32) :
    KeepsMem s (execPortTraining p partner good s) := by
  grind [enough, execPortTraining, State.fset_keepsMem, State.chnCard_keepsMem, State.portDown_keepsMem, keepsMem_next]

@[simp ↓] theorem execPortTrainRetry_keepsMem (p : Fin 3) :
    KeepsMem s (execPortTrainRetry p s) := by simp +contextual [execPortTrainRetry]

@[simp ↓] theorem execLaneFail_keepsMem (p : Fin 3) (lane : Fin 5) :
    KeepsMem s (execLaneFail p lane s) := by simp +contextual [execLaneFail]

@[simp ↓] theorem execWrapNotice_keepsMem (p : Fin 3) (crossing : List (Fin 4095)) :
    KeepsMem s (execWrapNotice p crossing s) := by
  unfold execWrapNotice
  split <;> simp +contextual

@[simp ↓] theorem State.loadForwards_keepsMem (p : Nat) : s.keepsMem (s.loadForwards p) :=
  iff_enough (by simp +contextual [State.loadForwards])

@[simp ↓] theorem execFlitSend_keepsMem (p : Fin 3) : KeepsMem s (execFlitSend p s) := by
  grind [enough, execFlitSend, State.send_keepsMem, State.setPort_keepsMem, State.loadForwards_keepsMem, keepsMem_next]

@[simp ↓] theorem State.replay_keepsMem (p no : Nat) : s.keepsMem (s.replay p no) := iff_enough (by simp +contextual [State.replay])

@[simp ↓] theorem execReplayTimeout_keepsMem (p : Fin 3) : KeepsMem s (execReplayTimeout p s) := by
  unfold execReplayTimeout
  split <;> simp +contextual

@[simp ↓] theorem State.routeSeg_keepsMem (p : Nat) (g : Seg) : s.keepsMem (s.routeSeg p g) :=
  iff_enough (by simp +contextual [State.routeSeg])

@[simp ↓] theorem State.linkCtl_keepsMem (p : Nat) (c : LinkCtl) : s.keepsMem (s.linkCtl p c) := by
  refine iff_enough ?_
  unfold State.linkCtl
  split
  · simp +contextual
  · simp +contextual
  · split
    · exact id
    · split <;> simp +contextual

@[simp ↓] theorem execFlitReceive_keepsMem (p : Fin 3) (flit : List Byte) (num : Half) (ctl : Option LinkCtl) (swallowed : Bool)
    (errs : List Half) : KeepsMem s (execFlitReceive p flit num ctl swallowed errs s) := by
  rw [execFlitReceive, keepsMem_next]
  dsimp only
  split
  · simp +contextual
  split
  · simp +contextual
  split
  · split <;> simp +contextual
  split
  · simp +contextual
  split
  · split <;> simp +contextual
  · simp +contextual

/-! ### The digital matrix engine (spec/08) -/

@[simp ↓] theorem State.l1Insert_keepsMem (core : Nat) (x : L1Line) : s.keepsMem (s.l1Insert core x) := by
  refine iff_enough ?_
  grind [enough, State.l1Insert, State.store_keepsMem, State.setLines_keepsMem]

@[simp ↓] theorem State.l1Lock_keepsMem (core key : Nat) (data : List Byte) : s.keepsMem (s.l1Lock core key data) := by
  refine iff_enough ?_
  unfold State.l1Lock
  split <;> simp +contextual

@[simp ↓] theorem State.dmeWrite_keepsMem (core : Nat) (l : List (Nat × Byte)) :
    s.keepsMem (s.dmeWrite core l) := iff_enough (by simp +contextual [State.dmeWrite])

@[simp ↓] theorem State.feedStream_keepsMem (n core : Nat) (p : Prog) (o : OpRun) (h : Nat) (d : Desc) :
    s.keepsMem (s.feedStream n core p o h d).2 := by
  refine iff_enough ?_
  unfold State.feedStream
  dsimp only
  split
  · next h1 => simp +contextual [keepsMem_of_snd h1]
  next h1 =>
  split
  · simp +contextual [keepsMem_of_snd h1]
  split
  · simp +contextual [keepsMem_of_snd h1]
  split
  · next h2 => simp +contextual [keepsMem_of_snd h2, keepsMem_of_snd h1]
  next h2 =>
  split
  · next h3 => simp +contextual [keepsMem_of_snd h3, keepsMem_of_snd h2, keepsMem_of_snd h1]
  · next h3 => split <;> simp +contextual [keepsMem_of_snd h3, keepsMem_of_snd h2, keepsMem_of_snd h1]

@[simp ↓] theorem State.feed_keepsMem (n core : Nat) (p : Prog) (o : OpRun) (h : Nat) (d : Desc) :
    s.keepsMem (s.feed n core p o h d).2 := by
  refine iff_enough ?_
  unfold State.feed
  split
  · simp +contextual
  dsimp only
  split
  · next h1 => simp +contextual [keepsMem_of_snd h1]
  next h1 =>
  split
  · split <;> next h2 => simp +contextual [keepsMem_of_snd h2, keepsMem_of_snd h1]
  · split <;> next h2 => simp +contextual [keepsMem_of_snd h2, keepsMem_of_snd h1]

@[simp ↓] theorem State.feedAll_keepsMem (n core r : Nat) (p : Prog) (o : OpRun) (l : List Nat) (m : PageMap) :
    s.keepsMem (s.feedAll n core r p o l m).2 := by
  refine iff_enough ?_
  induction l generalizing s m with
  | nil => simp +contextual [State.feedAll]
  | cons x l ih => grind [enough, State.feedAll, State.feed_keepsMem]

@[simp ↓] theorem State.feedCores_keepsMem (n : Nat) (p : Prog) (o : OpRun) (hs : List Nat) (l : List (Nat × Nat))
    (m : List (Nat × PageMap)) : s.keepsMem (s.feedCores n p o hs l m).2.2 := by
  refine iff_enough ?_
  induction l generalizing s m with
  | nil => simp +contextual [State.feedCores]
  | cons x l ih => grind [enough, State.feedCores, State.feedAll_keepsMem]

@[simp ↓] theorem State.syncLocked_keepsMem (core extra : Nat) :
    s.keepsMem (s.syncLocked core extra) := iff_enough (by simp +contextual [State.syncLocked])

@[simp ↓] theorem execOperandResident_keepsMem (n : Fin 22) (xp : Word) : KeepsMem s (execOperandResident n xp s) := by
  rw [execOperandResident, keepsMem_next]
  dsimp only
  split
  · exact id
  split
  · exact id
  split
  · split
    · exact id
    · split <;> next h => simp +contextual [keepsMem_of_snd (congrArg Prod.snd h)]
  · exact id

@[simp ↓] theorem State.dmeStore_keepsMem (p : Prog) (core r h : Nat) (vals : List (Nat × Nat)) :
    s.keepsMem (s.dmeStore p core r h vals).2 := by
  refine iff_enough ?_
  grind [enough, State.dmeStore, State.violatePages_keepsMem, State.touch_keepsMem, State.dmeWrite_keepsMem]

@[simp ↓] theorem State.dmeStoreAll_keepsMem (p : Prog) (l : List (Nat × Nat × Nat × List (Nat × Nat))) :
    s.keepsMem (s.dmeStoreAll p l).2 := by
  refine iff_enough ?_
  induction l generalizing s with
  | nil => simp +contextual [State.dmeStoreAll]
  | cons x l ih => grind [enough, State.dmeStoreAll, State.dmeStore_keepsMem]

@[simp ↓] theorem State.dmeVerdict_keepsMem (n core : Nat) (p : Prog) (o : OpRun) (verdict : Nat) :
    s.keepsMem (s.dmeVerdict n core p o verdict) := iff_enough (by simp +contextual [State.dmeVerdict])

@[simp ↓] theorem State.dmeFinish_keepsMem (n : Nat) (p : Prog) (o : OpRun) :
    s.keepsMem (s.dmeFinish n p o) := iff_enough (by simp +contextual [State.dmeFinish])

@[simp ↓] theorem execDmeOutputTile_keepsMem (n : Fin 22) (core : Fin 8) (fails : Fin 5) :
    KeepsMem s (execDmeOutputTile n core fails s) := by
  rw [execDmeOutputTile, keepsMem_next]
  refine of_iff_enough (State.withOp_keepsMem _ _ _ _ (fun p o => ?_))
  dsimp only
  split
  · exact id
  split
  · simp +contextual
  split
  · simp +contextual
  split
  · simp +contextual
  · simp +contextual

@[simp ↓] theorem State.dmeBegin_keepsMem (n opc : Nat) : s.keepsMem (s.dmeBegin n opc) := by
  refine State.beginOp_keepsMem _ _ _ _ (fun p o => ?_)
  split
  · exact id
  · split <;> simp +contextual

@[simp ↓] theorem execMma_keepsMem (n : Fin 22) : KeepsMem s (execMma n s) := by simp +contextual [execMma]
@[simp ↓] theorem execDist_keepsMem (n : Fin 22) : KeepsMem s (execDist n s) := by simp +contextual [execDist]
@[simp ↓] theorem execEwise_keepsMem (n : Fin 22) : KeepsMem s (execEwise n s) := by simp +contextual [execEwise]
@[simp ↓] theorem execNorm_keepsMem (n : Fin 22) : KeepsMem s (execNorm n s) := by simp +contextual [execNorm]
@[simp ↓] theorem execSoftmax_keepsMem (n : Fin 22) : KeepsMem s (execSoftmax n s) := by simp +contextual [execSoftmax]
@[simp ↓] theorem execOptim_keepsMem (n : Fin 22) : KeepsMem s (execOptim n s) := by simp +contextual [execOptim]
@[simp ↓] theorem execArgmax_keepsMem (n : Fin 22) : KeepsMem s (execArgmax n s) := by simp +contextual [execArgmax]
@[simp ↓] theorem execWino_keepsMem (n : Fin 22) : KeepsMem s (execWino n s) := by simp +contextual [execWino]

@[simp ↓] theorem State.retireCore_keepsMem (k : Nat) (perm : Bool) : s.keepsMem (s.retireCore k perm) := by
  refine iff_enough fun hs => ?_
  unfold State.retireCore
  refine State.memOk_of_ite (by simp [hs]) ?_
  dsimp only
  generalize hu : List.foldl _ _ (List.range 8) = u
  have hcasts : u.memOk := by
    rw [← hu]
    refine of_iff_enough (memOk_foldl _ (fun t j ht => ?_) _ _) (by simp +contextual [hs])
    split <;> simp [ht]
  simp [hcasts]

@[simp ↓] theorem State.writeDmeCtl_keepsMem (k : Nat) (v : Word) :
    s.keepsMem (s.writeDmeCtl k v) := iff_enough (by simp +contextual [State.writeDmeCtl])

@[simp ↓] theorem State.dmeCtlWrite_keepsMem (r : Req) (k : Nat) (v : Word) :
    s.keepsMem (s.dmeCtlWrite r k v) := iff_enough (by simp +contextual [State.dmeCtlWrite])

@[simp ↓] theorem execDmeCoreRetire_keepsMem (r : Req) (k : Fin 8) (v : Word) :
    KeepsMem s (execDmeCoreRetire r k v s) := by simp +contextual [execDmeCoreRetire]

@[simp ↓] theorem execDmeCoreRetirePerm_keepsMem (r : Req) (k : Fin 8) (v : Word) :
    KeepsMem s (execDmeCoreRetirePerm r k v s) := by simp +contextual [execDmeCoreRetirePerm]

@[simp ↓] theorem execVstepChange_keepsMem (r : Req) (k : Fin 8) (v : Word) :
    KeepsMem s (execVstepChange r k v s) := by simp +contextual [execVstepChange]

@[simp ↓] theorem execVstepSettled_keepsMem (k : Fin 8) : KeepsMem s (execVstepSettled k s) := by simp +contextual [execVstepSettled]

/-! ### The usage ledger (spec/14) -/

@[simp ↓] theorem State.setLedger_keepsMem (l : Ledger) : s.keepsMem (s.setLedger l) := iff_enough (by simp +contextual [State.setLedger])

@[simp ↓] theorem State.ldgCard_keepsMem (event ofs : Nat) : s.keepsMem (s.ldgCard event ofs) :=
  iff_enough (by simp +contextual [State.ldgCard])

@[simp ↓] theorem State.seekSector_keepsMem (sec fuel : Nat) : s.keepsMem (s.seekSector sec fuel).2 := by
  refine iff_enough ?_
  induction fuel generalizing s sec with
  | zero => simp +contextual [State.seekSector]
  | succ fuel ih => grind [enough, State.seekSector, State.ldgCard_keepsMem]

@[simp ↓] theorem State.enterSector_keepsMem (sec : Nat) : s.keepsMem (s.enterSector sec) := by
  refine iff_enough ?_
  grind [enough, State.enterSector, State.setFlag_keepsMem, State.setLedger_keepsMem, State.ldgCard_keepsMem, State.seekSector_keepsMem]

@[simp ↓] theorem State.takeSlot_keepsMem : s.keepsMem s.takeSlot.2 := by
  refine iff_enough ?_
  unfold State.takeSlot
  split <;> simp +contextual

@[simp ↓] theorem State.ledgerWrite_keepsMem (kind origin flags tariff cls : Nat) (body : List Byte) :
    s.keepsMem (s.ledgerWrite kind origin flags tariff cls body) := iff_enough (by simp +contextual [State.ledgerWrite])

@[simp ↓] theorem State.setTb_keepsMem (tb : Nat) (bound : Int) : s.keepsMem (s.setTb tb bound) :=
  iff_enough (by simp +contextual [State.setTb])

@[simp ↓] theorem State.openInterval_keepsMem (t : Nat) (ofs : Int) (valid : Bool) (flags : Nat) :
    s.keepsMem (s.openInterval t ofs valid flags) := iff_enough (by simp +contextual [State.openInterval])

@[simp ↓] theorem State.closeInterval_keepsMem (t : Nat) (ofs : Int) (valid : Bool) (extra : Nat) :
    s.keepsMem (s.closeInterval t ofs valid extra) := iff_enough (by simp +contextual [State.closeInterval])

@[simp ↓] theorem State.changeTariff_keepsMem (t new source : Nat) (ofs : Int) (atBound : Bool) :
    s.keepsMem (s.changeTariff t new source ofs atBound) := iff_enough (by simp +contextual [State.changeTariff])

@[simp ↓] theorem State.timeCorr_keepsMem (t : Nat) (step : Nat × Nat × Nat) :
    s.keepsMem (s.timeCorr t step) := iff_enough (by simp +contextual [State.timeCorr])

@[simp ↓] theorem State.writeSnapshot_keepsMem (t : Nat) : s.keepsMem (s.writeSnapshot t) :=
  iff_enough (by simp +contextual [State.writeSnapshot])

@[simp ↓] theorem State.snapIfDue_keepsMem (t : Nat) : s.keepsMem (s.snapIfDue t) := iff_enough (by simp +contextual [State.snapIfDue])

@[simp ↓] theorem State.ledgerEvent_keepsMem (t kind count : Nat) :
    s.keepsMem (s.ledgerEvent t kind count) := iff_enough (by simp +contextual [State.ledgerEvent])

@[simp ↓] theorem State.rainClose_keepsMem (span m : FV) (x0 : Nat) : s.keepsMem (s.rainClose span m x0) := by
  refine iff_enough ?_
  induction x0 generalizing s with
  | zero => simp +contextual [State.rainClose]
  | succ n ih => simp +contextual [State.rainClose, ih]

@[simp ↓] theorem State.rainflow_keepsMem (torque : FV) : s.keepsMem (s.rainflow torque) :=
  iff_enough (by simp +contextual [State.rainflow])

@[simp ↓] theorem State.accumulate_keepsMem (t : Nat) : s.keepsMem (s.accumulate t) := iff_enough (by simp +contextual [State.accumulate])

@[simp ↓] theorem State.machineEvents_keepsMem (t : Nat) : s.keepsMem (s.machineEvents t) :=
  iff_enough (by simp +contextual [State.machineEvents])

@[simp ↓] theorem State.heldEvents_keepsMem (t : Nat) : s.keepsMem (s.heldEvents t) := iff_enough (by simp +contextual [State.heldEvents])
@[simp ↓] theorem execLedgerTick_keepsMem : KeepsMem s (execLedgerTick s) := by simp +contextual [execLedgerTick]
@[simp ↓] theorem execSnapshotDue_keepsMem : KeepsMem s (execSnapshotDue s) := by simp +contextual [execSnapshotDue]

@[simp ↓] theorem State.ledgerCut_keepsMem (recess : Bool) (cause : Nat) :
    s.keepsMem (s.ledgerCut recess cause) := iff_enough (by simp +contextual [State.ledgerCut])

@[simp ↓] theorem State.ledgerStart_keepsMem (reason restore snapSeq : Nat) :
    s.keepsMem (s.ledgerStart reason restore snapSeq) := iff_enough (by simp +contextual [State.ledgerStart])

@[simp ↓] theorem State.clearMaxDemand_keepsMem : s.keepsMem s.clearMaxDemand := iff_enough (by simp +contextual [State.clearMaxDemand])

@[simp ↓] theorem State.writeLdgCtl_keepsMem (v : Word) : s.keepsMem (s.writeLdgCtl v) :=
  iff_enough (by simp +contextual [State.writeLdgCtl])

@[simp ↓] theorem execLdgSnapnow_keepsMem (r : Req) (v : Word) : KeepsMem s (execLdgSnapnow r v s) := by simp +contextual [execLdgSnapnow]

@[simp ↓] theorem execMaxDemandClear_keepsMem (r : Req) (v : Word) :
    KeepsMem s (execMaxDemandClear r v s) := by simp +contextual [execMaxDemandClear]

@[simp ↓] theorem State.setTovr_keepsMem (en : Bool) (k : Nat) (pass : Bool) :
    s.keepsMem (s.setTovr en k pass) := iff_enough (by simp +contextual [State.setTovr])

@[simp ↓] theorem execTariffOverrideWrite_keepsMem (r : Req) (v : Word) :
    KeepsMem s (execTariffOverrideWrite r v s) := by simp +contextual [execTariffOverrideWrite]

@[simp ↓] theorem State.programKey_keepsMem : s.keepsMem s.programKey := iff_enough (by simp +contextual [State.programKey])

@[simp ↓] theorem execLedgerKeyProgram_keepsMem (r : Req) (v : Word) :
    KeepsMem s (execLedgerKeyProgram r v s) := by simp +contextual [execLedgerKeyProgram]

@[simp ↓] theorem State.syncOldest_keepsMem : s.keepsMem s.syncOldest := by
  refine iff_enough ?_
  unfold State.syncOldest
  split <;> simp +contextual

@[simp ↓] theorem State.syncWorn_keepsMem : s.keepsMem s.syncWorn := iff_enough (by simp +contextual [State.syncWorn])

@[simp ↓] theorem State.portErase_keepsMem (o : Nat) (ok : Bool) : s.keepsMem (s.portErase o ok) := by
  refine iff_enough ?_
  unfold State.portErase
  dsimp only
  split
  · exact id
  split
  · simp +contextual
  · split <;> next h => simp +contextual [keepsMem_of_snd h]

@[simp ↓] theorem State.portWord_keepsMem (o : Nat) (b : List Byte) (ok : Bool) : s.keepsMem (s.portWord o b ok).2 := by
  refine iff_enough ?_
  unfold State.portWord
  dsimp only
  split
  · exact id
  split
  · simp +contextual
  · split <;> next h => simp +contextual [keepsMem_of_snd h]

@[simp ↓] theorem State.replaceRecs_keepsMem (l : List LedgerRec) : s.keepsMem (s.replaceRecs l) := by
  unfold State.replaceRecs
  refine memOk_foldl _ (fun t x => ?_) _ _
  split <;> simp +contextual

@[simp ↓] theorem State.portRecord_keepsMem (ok : Bool) : s.keepsMem (s.portRecord ok) := by
  refine iff_enough ?_
  unfold State.portRecord
  split
  · simp +contextual
  · split <;> simp +contextual

@[simp ↓] theorem State.fillEvents_keepsMem : s.keepsMem s.fillEvents := by
  refine iff_enough ?_
  unfold State.fillEvents
  dsimp only
  split
  · split <;> simp +contextual
  · split <;> simp +contextual

@[simp ↓] theorem State.freeCard_keepsMem : s.keepsMem s.freeCard := by
  refine iff_enough ?_
  unfold State.freeCard
  split <;> simp +contextual

@[simp ↓] theorem State.portLog_keepsMem (ok : Bool) : s.keepsMem (s.portLog ok) := by
  refine iff_enough ?_
  unfold State.portLog
  split <;> simp +contextual

@[simp ↓] theorem execLedgerPortWrite_keepsMem (what : Fin 3) (ok : Bool) : KeepsMem s (execLedgerPortWrite what ok s) := by
  rw [execLedgerPortWrite, keepsMem_next]
  split
  · simp +contextual
  · split
    · split <;> simp +contextual
    · split <;> simp +contextual

@[simp ↓] theorem State.commitLedger_keepsMem : s.keepsMem s.commitLedger := by
  refine iff_enough ?_
  grind [enough, State.commitLedger, State.rset_keepsMem, State.count_keepsMem, State.tryCommit_keepsMem, State.setLedger_keepsMem,
    State.syncOldest_keepsMem]

@[simp ↓] theorem execLedgerRecordCommit_keepsMem : KeepsMem s (execLedgerRecordCommit s) := by simp +contextual [execLedgerRecordCommit]

@[simp ↓] theorem State.flushLedger_keepsMem (x0 : Nat) : s.keepsMem (s.flushLedger x0) := by
  refine iff_enough ?_
  induction x0 generalizing s with
  | zero => simp +contextual [State.flushLedger]
  | succ n ih => simp +contextual [State.flushLedger, ih]

@[simp ↓] theorem State.logCard_keepsMem (c : Card) : s.keepsMem (s.logCard c) := iff_enough (by simp +contextual [State.logCard])

@[simp ↓] theorem State.drainCard_keepsMem : s.keepsMem s.drainCard := by
  refine iff_enough ?_
  grind [enough, State.drainCard, State.count_keepsMem, State.tryCommit_keepsMem, State.fillEvents_keepsMem, State.logCard_keepsMem]

@[simp ↓] theorem execEventRingDrain_keepsMem : KeepsMem s (execEventRingDrain s) := by simp +contextual [execEventRingDrain]

@[simp ↓] theorem State.flushWords_keepsMem (x0 : Nat) : s.keepsMem (s.flushWords x0) := by
  refine iff_enough ?_
  induction x0 generalizing s with
  | zero => simp +contextual [State.flushWords]
  | succ n ih => simp +contextual [State.flushWords, ih]

@[simp ↓] theorem State.flushCards_keepsMem (x0 : Nat) : s.keepsMem (s.flushCards x0) := by
  refine iff_enough ?_
  induction x0 generalizing s with
  | zero => simp +contextual [State.flushCards]
  | succ n ih => simp +contextual [State.flushCards, ih]

@[simp ↓] theorem State.ledgerRecover_keepsMem (kept : Bool) : s.keepsMem (s.ledgerRecover kept).2 := by
  refine iff_enough ?_
  grind [enough, State.ledgerRecover, State.rset_keepsMem, State.fset_keepsMem, State.setLedger_keepsMem, State.syncOldest_keepsMem]

/-! ### Hall passes -/

@[simp ↓] theorem State.syncPass_keepsMem (p : Nat) : s.keepsMem (s.syncPass p) := by
  refine iff_enough ?_
  unfold State.syncPass
  split <;> simp +contextual

@[simp ↓] theorem State.setPasses_keepsMem (l : List (Nat × Pass)) :
    s.keepsMem (s.setPasses l) := iff_enough (by simp +contextual [State.setPasses])

@[simp ↓] theorem State.endPass_keepsMem (p : Nat) : s.keepsMem (s.endPass p) := iff_enough (by simp +contextual [State.endPass])

@[simp ↓] theorem State.takePass_keepsMem (p holder secs : Nat) :
    s.keepsMem (s.takePass p holder secs) := iff_enough (by simp +contextual [State.takePass])

@[simp ↓] theorem State.safeCard_keepsMem (event : Nat) (detail : List Byte) (ukind ua ub : Nat) :
    s.keepsMem (s.safeCard event detail ukind ua ub) := iff_enough (by simp +contextual [State.safeCard])

@[simp ↓] theorem State.hostCard_keepsMem (event : Nat) (detail : List Byte) (ukind ua : Nat) :
    s.keepsMem (s.hostCard event detail ukind ua) := iff_enough (by simp +contextual [State.hostCard])

@[simp ↓] theorem State.revokeAll_keepsMem : s.keepsMem s.revokeAll := iff_enough (by simp +contextual [State.revokeAll])

@[simp ↓] theorem State.writePassAcq_keepsMem (v : Word) : s.keepsMem (s.writePassAcq v) :=
  iff_enough (by simp +contextual [State.writePassAcq])

@[simp ↓] theorem execHallPassAcquireHome_keepsMem (r : Req) (v : Word) :
    KeepsMem s (execHallPassAcquireHome r v s) := by simp +contextual [execHallPassAcquireHome]

@[simp ↓] theorem execHallPassReleaseHome_keepsMem (r : Req) (v : Word) :
    KeepsMem s (execHallPassReleaseHome r v s) := by simp +contextual [execHallPassReleaseHome]

@[simp ↓] theorem execHallPassRevoke_keepsMem (r : Req) (n : Fin 8) (v : Word) : KeepsMem s (execHallPassRevoke r n v s) := by
  grind [enough, execHallPassRevoke, State.asCtx_keepsMem, State.endPass_keepsMem, State.safeCard_keepsMem, State.hostCard_keepsMem,
    keepsMem_next]

@[simp ↓] theorem execHallPassExpire_keepsMem (n : Fin 8) : KeepsMem s (execHallPassExpire n s) := by
  unfold execHallPassExpire
  split <;> simp +contextual

/-! ### Functional safety (spec/15) -/

@[simp ↓] theorem State.setSafe_keepsMem (x : Safe) : s.keepsMem (s.setSafe x) := iff_enough (by simp +contextual [State.setSafe])
@[simp ↓] theorem State.setSo_keepsMem (n : Nat) (x : So) : s.keepsMem (s.setSo n x) := iff_enough (by simp +contextual [State.setSo])
@[simp ↓] theorem State.safeOutputs_keepsMem : s.keepsMem s.safeOutputs := iff_enough (by simp +contextual [State.safeOutputs])

@[simp ↓] theorem State.enterSafe_keepsMem (cause : Nat) (injected : Bool) :
    s.keepsMem (s.enterSafe cause injected) := iff_enough (by simp +contextual [State.enterSafe])

@[simp ↓] theorem State.diagnose_keepsMem (bad : Bool) (cause : Nat) :
    s.keepsMem (s.diagnose bad cause) := iff_enough (by simp +contextual [State.diagnose])

@[simp ↓] theorem State.rejectParams_keepsMem (offset : Nat) (injected : Bool) :
    s.keepsMem (s.rejectParams offset injected) := iff_enough (by simp +contextual [State.rejectParams])

@[simp ↓] theorem State.setFn_keepsMem (f : SafeFn) : s.keepsMem (s.setFn f) := iff_enough (by simp +contextual [State.setFn])

@[simp ↓] theorem State.fnSet_keepsMem (r : RegDesc) (f : SafeFn) (b : Bool) :
    s.keepsMem (s.fnSet r f b) := iff_enough (by simp +contextual [State.fnSet])

@[simp ↓] theorem State.tripFn_keepsMem (f : SafeFn) (value : Nat) :
    s.keepsMem (s.tripFn f value) := iff_enough (by simp +contextual [State.tripFn])

@[simp ↓] theorem State.warnFn_keepsMem (f : SafeFn) (b : Bool) (value : Nat) :
    s.keepsMem (s.warnFn f b value) := iff_enough (by simp +contextual [State.warnFn])

@[simp ↓] theorem State.sensorFn_keepsMem (f : SafeFn) (cond : Bool) (since value : Nat) :
    s.keepsMem (s.sensorFn f cond since value) := iff_enough (by simp +contextual [State.sensorFn])

@[simp ↓] theorem State.measureFn_keepsMem (f : SafeFn) (value : Nat) (clear : Bool) :
    s.keepsMem (s.measureFn f value clear) := iff_enough (by simp +contextual [State.measureFn])

@[simp ↓] theorem State.onFn_keepsMem (kind entry : Nat) (g : State → SafeFn → State) (h : ∀ f, s.memOk → (g s f).memOk) :
    s.keepsMem (s.onFn kind entry g) := by
  refine iff_enough ?_
  grind [enough, State.onFn]

@[simp ↓] theorem execVibrationSeverityEval_keepsMem (e : Fin 16) (rms : Word) (bias : Half) (limit : Bool) :
    KeepsMem s (execVibrationSeverityEval e rms bias limit s) := by simp +contextual [execVibrationSeverityEval]

@[simp ↓] theorem State.speedFault_keepsMem (f : SafeFn) : s.keepsMem (s.speedFault f) :=
  iff_enough (by simp +contextual [State.speedFault])

@[simp ↓] theorem execOverspeedEval_keepsMem (k : Fin 4) (t : DWord) :
    KeepsMem s (execOverspeedEval k t s) := by simp +contextual [execOverspeedEval]

@[simp ↓] theorem execTemperatureEval_keepsMem (e : Fin 8) (mean ohm : Word) :
    KeepsMem s (execTemperatureEval e mean ohm s) := by simp +contextual [execTemperatureEval]

@[simp ↓] theorem State.activateFns_keepsMem : s.keepsMem s.activateFns := iff_enough (by simp +contextual [State.activateFns])

@[simp ↓] theorem State.proctorStart_keepsMem (p : List Byte) (sigOk : Bool) : s.keepsMem (s.proctorStart p sigOk) := by
  refine iff_enough ?_
  unfold State.proctorStart
  split
  · simp +contextual
  · split <;> simp +contextual

@[simp ↓] theorem State.resetRequest_keepsMem (source : Nat) :
    s.keepsMem (s.resetRequest source) := iff_enough (by simp +contextual [State.resetRequest])

@[simp ↓] theorem execSafetyResetRequest_keepsMem (host : Option (Fin 4)) : KeepsMem s (execSafetyResetRequest host s) := by
  rw [execSafetyResetRequest, keepsMem_next]
  split
  · simp +contextual
  · split <;> simp +contextual

@[simp ↓] theorem State.lockstep_keepsMem (injected : Bool) : s.keepsMem (s.lockstep injected) :=
  iff_enough (by simp +contextual [State.lockstep])

@[simp ↓] theorem execLockstepMismatch_keepsMem : KeepsMem s (execLockstepMismatch s) := by simp +contextual [execLockstepMismatch]

@[simp ↓] theorem execSramScrubPass_keepsMem (corrected : Half) (bad : Bool) :
    KeepsMem s (execSramScrubPass corrected bad s) := by simp +contextual [execSramScrubPass]

@[simp ↓] theorem execProctorWatchdogExpire_keepsMem :
    KeepsMem s (execProctorWatchdogExpire s) := by simp +contextual [execProctorWatchdogExpire]

@[simp ↓] theorem execClockMonitorCheck_keepsMem (ok : Bool) :
    KeepsMem s (execClockMonitorCheck ok s) := by simp +contextual [execClockMonitorCheck]

@[simp ↓] theorem execSupplyMonitorTrip_keepsMem (k : Fin 6) :
    KeepsMem s (execSupplyMonitorTrip k s) := by simp +contextual [execSupplyMonitorTrip]

@[simp ↓] theorem execSafetyLinkFrame_keepsMem (toProctor ok : Bool) :
    KeepsMem s (execSafetyLinkFrame toProctor ok s) := by simp +contextual [execSafetyLinkFrame]

@[simp ↓] theorem execSafetyLinkTimeout_keepsMem : KeepsMem s (execSafetyLinkTimeout s) := by simp +contextual [execSafetyLinkTimeout]

@[simp ↓] theorem execShadowReferenceTest_keepsMem (ok : Bool) :
    KeepsMem s (execShadowReferenceTest ok s) := by simp +contextual [execShadowReferenceTest]

@[simp ↓] theorem execShadowCoeffCrc_keepsMem (ok : Bool) :
    KeepsMem s (execShadowCoeffCrc ok s) := by simp +contextual [execShadowCoeffCrc]

@[simp ↓] theorem execComparatorSelfTest_keepsMem (ok : Bool) :
    KeepsMem s (execComparatorSelfTest ok s) := by simp +contextual [execComparatorSelfTest]

@[simp ↓] theorem State.outFault_keepsMem (n kind : Nat) : s.keepsMem (s.outFault n kind) :=
  iff_enough (by simp +contextual [State.outFault])

@[simp ↓] theorem State.outCond_keepsMem (n kind : Nat) (cond : Bool) :
    s.keepsMem (s.outCond n kind cond) := iff_enough (by simp +contextual [State.outCond])

@[simp ↓] theorem execOutputReadback_keepsMem (n : Fin 4) (vh vl ma : Half) (limit hs ls : Bool) (moved : Option (Fin 4)) :
    KeepsMem s (execOutputReadback n vh vl ma limit hs ls moved s) := by
  unfold execOutputReadback
  rw [keepsMem_next]
  intro hs
  cases moved <;> simp [hs]

@[simp ↓] theorem execDarkTestPulse_keepsMem (n : Fin 4) (hsOpen lsOpen : Bool) (moved : Option (Fin 4)) :
    KeepsMem s (execDarkTestPulse n hsOpen lsOpen moved s) := by
  rw [execDarkTestPulse, keepsMem_next]
  split
  · split <;> simp +contextual
  · split <;> simp +contextual

@[simp ↓] theorem State.setSuspect_keepsMem (k : Nat) (x : Suspect) :
    s.keepsMem (s.setSuspect k x) := iff_enough (by simp +contextual [State.setSuspect])

@[simp ↓] theorem State.setUnitLevel_keepsMem (k l : Nat) : s.keepsMem (s.setUnitLevel k l) :=
  iff_enough (by simp +contextual [State.setUnitLevel])

@[simp ↓] theorem State.escalate_keepsMem (k ub : Nat) : s.keepsMem (s.escalate k ub) := iff_enough (by simp +contextual [State.escalate])

@[simp ↓] theorem execSuspectVerdict_keepsMem (dme : Bool) (ua ub : Byte) (verdict : Fin 4) (origin : DWord) :
    KeepsMem s (execSuspectVerdict dme ua ub verdict origin s) := by simp +contextual [execSuspectVerdict]

@[simp ↓] theorem State.injectCause_keepsMem (c out : Nat) :
    s.keepsMem (s.injectCause c out) := iff_enough (by simp +contextual [State.injectCause])

@[simp ↓] theorem execSafeInject_keepsMem (r : Req) (v : Word) : KeepsMem s (execSafeInject r v s) := by simp +contextual [execSafeInject]

/-! ### Power, clock and reset (spec/19) -/

@[simp ↓] theorem State.setPwr_keepsMem (x : Pwr) : s.keepsMem (s.setPwr x) := iff_enough (by simp +contextual [State.setPwr])
@[simp ↓] theorem State.setBoot_keepsMem (x : Boot) : s.keepsMem (s.setBoot x) := iff_enough (by simp +contextual [State.setBoot])

@[simp ↓] theorem State.pwrCard_keepsMem (event : Nat) (detail : List Byte) :
    s.keepsMem (s.pwrCard event detail) := iff_enough (by simp +contextual [State.pwrCard])

@[simp ↓] theorem State.clkCard_keepsMem (event : Nat) (detail : List Byte) :
    s.keepsMem (s.clkCard event detail) := iff_enough (by simp +contextual [State.clkCard])

@[simp ↓] theorem State.thmCard_keepsMem (event die reading : Nat) :
    s.keepsMem (s.thmCard event die reading) := iff_enough (by simp +contextual [State.thmCard])

@[simp ↓] theorem State.resetSto_keepsMem : s.keepsMem s.resetSto := iff_enough (by simp +contextual [State.resetSto])

@[simp ↓] theorem State.retiredCores_keepsMem (s old : State) :
    s.keepsMem (s.retiredCores old) := iff_enough (by simp +contextual [State.retiredCores])

@[simp ↓] theorem State.resetCore_keepsMem (code : Nat) :
    s.keepsMem (s.resetCore code) := iff_enough (by simp +contextual [State.resetCore])

@[simp ↓] theorem State.resetUnits_keepsMem (code : Nat) : s.keepsMem (s.resetUnits code) :=
  iff_enough (by simp +contextual [State.resetUnits])

@[simp ↓] theorem State.resetRest_keepsMem : s.keepsMem s.resetRest := iff_enough (by simp +contextual [State.resetRest])

@[simp ↓] theorem State.resetRegs_keepsMem (code : Nat) : s.keepsMem (s.resetRegs code) :=
  iff_enough (by simp +contextual [State.resetRegs])

@[simp ↓] theorem State.intoReset_keepsMem (code : Nat) :
    s.keepsMem (s.intoReset code) := by
  refine iff_enough fun hs => ?_
  unfold State.intoReset
  dsimp only
  have hcore : (((s.resetSto.resetRegs code).resetCore code).resetUnits code).memOk := by simp [hs]
  generalize (((s.resetSto.resetRegs code).resetCore code).resetUnits code) = u at hcore
  simp [hcore]

@[simp ↓] theorem State.setDies_keepsMem (m : Nat) : s.keepsMem (s.setDies m) := iff_enough (by simp +contextual [State.setDies])

@[simp ↓] theorem State.setDom_keepsMem (k : Nat) (on : Bool) : s.keepsMem (s.setDom k on) :=
  iff_enough (by simp +contextual [State.setDom])

@[simp ↓] theorem State.freshStream_keepsMem (n : Nat) : s.keepsMem (s.freshStream n) :=
  iff_enough (by simp +contextual [State.freshStream])

@[simp ↓] theorem State.zeroL1_keepsMem : s.keepsMem s.zeroL1 := iff_enough (by simp +contextual [State.zeroL1])
@[simp ↓] theorem State.zeroDam_keepsMem (d : Nat) : s.keepsMem (s.zeroDam d) := iff_enough (by simp +contextual [State.zeroDam])

@[simp ↓] theorem State.switchDie_keepsMem (d : Nat) (on : Bool) :
    s.keepsMem (s.switchDie d on) := iff_enough (by simp +contextual [State.switchDie])

@[simp ↓] theorem State.linksDown_keepsMem : s.keepsMem s.linksDown := iff_enough (by simp +contextual [State.linksDown])

@[simp ↓] theorem State.writeDomctl_keepsMem (v : Word) : s.keepsMem (s.writeDomctl v) :=
  iff_enough (by simp +contextual [State.writeDomctl])

@[simp ↓] theorem execDomainSwitchOff_keepsMem (r : Req) (v : Word) :
    KeepsMem s (execDomainSwitchOff r v s) := by simp +contextual [execDomainSwitchOff]

@[simp ↓] theorem execDomainSwitchOn_keepsMem (r : Req) (v : Word) :
    KeepsMem s (execDomainSwitchOn r v s) := by simp +contextual [execDomainSwitchOn]

@[simp ↓] theorem State.writeWdog_keepsMem (v : Word) : s.keepsMem (s.writeWdog v) := iff_enough (by simp +contextual [State.writeWdog])

@[simp ↓] theorem execWatchdogEnable_keepsMem (r : Req) (v : Word) :
    KeepsMem s (execWatchdogEnable r v s) := by simp +contextual [execWatchdogEnable]

@[simp ↓] theorem execWatchdogKick_keepsMem (r : Req) (v : Word) :
    KeepsMem s (execWatchdogKick r v s) := by simp +contextual [execWatchdogKick]

@[simp ↓] theorem execWatchdogExpire_keepsMem : KeepsMem s (execWatchdogExpire s) := by simp +contextual [execWatchdogExpire]
@[simp ↓] theorem State.haltAll_keepsMem : s.keepsMem s.haltAll := iff_enough (by simp +contextual [State.haltAll])
@[simp ↓] theorem State.haltAllSilent_keepsMem : s.keepsMem s.haltAllSilent := iff_enough (by simp +contextual [State.haltAllSilent])

@[simp ↓] theorem State.stoDrain_keepsMem (bad : List (Fin 32)) : s.keepsMem (s.stoDrain bad) :=
  iff_enough (by simp +contextual [State.stoDrain])

@[simp ↓] theorem State.stoInterrupt_keepsMem (bad : List (Fin 32)) :
    s.keepsMem (s.stoInterrupt bad) := iff_enough (by simp +contextual [State.stoInterrupt])

@[simp ↓] theorem State.lastCompletions_keepsMem : s.keepsMem s.lastCompletions := iff_enough (by simp +contextual [State.lastCompletions])
@[simp ↓] theorem State.portsRecess_keepsMem : s.keepsMem s.portsRecess := iff_enough (by simp +contextual [State.portsRecess])

@[simp ↓] theorem State.enterRecess_keepsMem (bad : List (Fin 32)) :
    s.keepsMem (s.enterRecess bad) := iff_enough (by simp +contextual [State.enterRecess])

@[simp ↓] theorem execRecessRequest_keepsMem (r : Req) (v : Word) (bad : List (Fin 32)) :
    KeepsMem s (execRecessRequest r v bad s) := by simp +contextual [execRecessRequest]

@[simp ↓] theorem State.emptyLost_keepsMem : s.keepsMem s.emptyLost := iff_enough (by simp +contextual [State.emptyLost])
@[simp ↓] theorem State.wakeDies_keepsMem : s.keepsMem s.wakeDies := iff_enough (by simp +contextual [State.wakeDies])
@[simp ↓] theorem State.wakeDomains_keepsMem : s.keepsMem s.wakeDomains := iff_enough (by simp +contextual [State.wakeDomains])

@[simp ↓] theorem State.reapplyPlacements_keepsMem : s.keepsMem s.reapplyPlacements :=
  iff_enough (by simp +contextual [State.reapplyPlacements])

@[simp ↓] theorem State.wake_keepsMem (cause : Nat) : s.keepsMem (s.wake cause) := iff_enough (by simp +contextual [State.wake])

@[simp ↓] theorem execWakeRequest_keepsMem (src : Fin 5) (k : Fin 8) (v : Word) :
    KeepsMem s (execWakeRequest src k v s) := by simp +contextual [execWakeRequest]

@[simp ↓] theorem State.powerSequence_keepsMem (cause : Nat) (bad : List (Fin 32)) (flushed us : Nat) :
    s.keepsMem (s.powerSequence cause bad flushed us) := iff_enough (by simp +contextual [State.powerSequence])

@[simp ↓] theorem execPowerFailWarning_keepsMem (mv : Half) (bad : List (Fin 32)) (flushed : Half) (us : Word) :
    KeepsMem s (execPowerFailWarning mv bad flushed us s) := by
  rw [execPowerFailWarning, keepsMem_next]
  dsimp only
  split
  · exact id
  split
  · simp +contextual
  split <;> simp +contextual

@[simp ↓] theorem execPowerFailClear_keepsMem : KeepsMem s (execPowerFailClear s) := by simp +contextual [execPowerFailClear]

@[simp ↓] theorem execThermalShutdown_keepsMem (bad : List (Fin 32)) (flushed : Half) (us : Word) :
    KeepsMem s (execThermalShutdown bad flushed us s) := by simp +contextual [execThermalShutdown]

@[simp ↓] theorem execThermalHoldEnd_keepsMem : KeepsMem s (execThermalHoldEnd s) := by simp +contextual [execThermalHoldEnd]

@[simp ↓] theorem execThermalReading_keepsMem (t : List Half) :
    KeepsMem s (execThermalReading t s) := by
  rw [execThermalReading, keepsMem_next]
  intro hs
  dsimp only
  generalize hu : List.foldl _ _ _ = u
  have hread : u.memOk := by
    rw [← hu]
    refine of_iff_enough (memOk_foldl _ (fun t x ht => ?_) _ _) hs
    simp [ht]
  clear hu
  generalize hw : State.fset _ F.THM_STAT_TJ _ = w
  have hshown : w.memOk := by simp [← hw, hread]
  clear hw
  simp [hshown]

@[simp ↓] theorem execRefclkLoss_keepsMem : KeepsMem s (execRefclkLoss s) := by simp +contextual [execRefclkLoss]

@[simp ↓] theorem execRefclkPresent_keepsMem : KeepsMem s (execRefclkPresent s) := by
  unfold execRefclkPresent
  simp +contextual

@[simp ↓] theorem execPllLockLoss_keepsMem (us : Word) : KeepsMem s (execPllLockLoss us s) := by simp +contextual [execPllLockLoss]

/-! ### The registers of the configuration (spec/02) -/

@[simp ↓] theorem State.setAvoid_keepsMem (k : Nat) (b : Bool) : s.keepsMem (s.setAvoid k b) :=
  iff_enough (by simp +contextual [State.setAvoid])

@[simp ↓] theorem State.setLock_keepsMem : s.keepsMem s.setLock := iff_enough (by simp +contextual [State.setLock])
@[simp ↓] theorem State.confirm_keepsMem : s.keepsMem s.confirm := iff_enough (by simp +contextual [State.confirm])

@[simp ↓] theorem State.askRestart_keepsMem (update : Bool) :
    s.keepsMem (s.askRestart update) := iff_enough (by simp +contextual [State.askRestart])

@[simp ↓] theorem State.writeBootCtrl_keepsMem (v : Word) : s.keepsMem (s.writeBootCtrl v) :=
  iff_enough (by simp +contextual [State.writeBootCtrl])

@[simp ↓] theorem execBootConfirm_keepsMem (r : Req) (v : Word) :
    KeepsMem s (execBootConfirm r v s) := by simp +contextual [execBootConfirm]

@[simp ↓] theorem execBootLock_keepsMem (r : Req) (v : Word) : KeepsMem s (execBootLock r v s) := by simp +contextual [execBootLock]

@[simp ↓] theorem execBootRestartRequest_keepsMem (r : Req) (v : Word) :
    KeepsMem s (execBootRestartRequest r v s) := by simp +contextual [execBootRestartRequest]

@[simp ↓] theorem execBootUpdateRequest_keepsMem (r : Req) (v : Word) :
    KeepsMem s (execBootUpdateRequest r v s) := by simp +contextual [execBootUpdateRequest]

@[simp ↓] theorem State.writeRevoke_keepsMem (r : Req) (v : Word) :
    s.keepsMem (s.writeRevoke r v) := iff_enough (by simp +contextual [State.writeRevoke])

@[simp ↓] theorem execBootRevokeWrite_keepsMem (r : Req) (v : Word) :
    KeepsMem s (execBootRevokeWrite r v s) := by simp +contextual [execBootRevokeWrite]

@[simp ↓] theorem execConfirmWindowExpire_keepsMem :
    KeepsMem s (execConfirmWindowExpire s) := by simp +contextual [execConfirmWindowExpire]

/-! ### The data mover (spec/05) -/

@[simp ↓] theorem State.dmLinear_keepsMem (n : Nat) (p : Prog) (o : OpRun) (h : Nat) (d : Desc) (ranges : List (Nat × Nat)) :
    s.keepsMem (s.dmLinear n p o h d ranges).1 := by
  refine iff_enough ?_
  grind [enough, State.dmLinear, State.violatePages_keepsMem, State.touch_keepsMem, State.suspendOp_keepsMem, State.readCheck_keepsMem]

@[simp ↓] theorem State.dmBlock_keepsMem (n : Nat) (p : Prog) (o : OpRun) (h : Nat) (d : Desc) (total i : Nat) (raw : Bool) :
    s.keepsMem (s.dmBlock n p o h d total i raw).1 := by
  refine iff_enough ?_
  unfold State.dmBlock
  dsimp only
  split
  · next h1 => simp +contextual [keepsMem_of_fst h1]
  next h1 =>
  split
  · simp +contextual [keepsMem_of_fst h1]
  split
  · simp +contextual [keepsMem_of_fst h1]
  split
  · next h2 => simp +contextual [keepsMem_of_fst h2, keepsMem_of_fst h1]
  · next h2 => split <;> simp +contextual [keepsMem_of_fst h2, keepsMem_of_fst h1]

@[simp ↓] theorem State.dmTensor_keepsMem (n : Nat) (p : Prog) (o : OpRun) (h : Nat) (d : Desc) (lo hi : Nat) :
    s.keepsMem (s.dmTensor n p o h d lo hi).1 := by
  refine iff_enough ?_
  unfold State.dmTensor
  dsimp only
  split
  · next h1 => simp +contextual [keepsMem_of_snd h1]
  · next h1 => split <;> next h2 => simp +contextual [keepsMem_of_snd h2, keepsMem_of_snd h1]

@[simp ↓] theorem State.dmSource_keepsMem (n : Nat) (p : Prog) (o : OpRun) (src dst : Desc) (lo hi total : Nat) :
    s.keepsMem (s.dmSource n p o src dst lo hi total).1 := by
  refine iff_enough ?_
  unfold State.dmSource
  dsimp only
  split
  · exact id
  · split <;> simp +contextual

@[simp ↓] theorem State.carryTags_keepsMem (l : List (Nat × Option Nat)) : s.keepsMem (s.carryTags l) := by
  refine memOk_foldl _ (fun t b => ?_) _ _
  dsimp only
  split
  · exact id
  · split <;> simp +contextual

@[simp ↓] theorem State.dmArrival_keepsMem (n : Nat) (p : Prog) (o : OpRun) (dst : Desc) (total : Nat) :
    s.keepsMem (s.dmArrival n p o dst total).1 := by
  refine iff_enough ?_
  grind [enough, State.dmArrival, State.startArrival_keepsMem]

@[simp ↓] theorem State.dmStepDone_keepsMem (n : Nat) (p : Prog) (o : OpRun) (dst : Desc) :
    s.keepsMem (s.dmStepDone n p o dst) := iff_enough (by simp +contextual [State.dmStepDone])

@[simp ↓] theorem State.dmStep_keepsMem (n : Nat) (p : Prog) (o : OpRun) : s.keepsMem (s.dmStep n p o) := by
  refine iff_enough fun hs => ?_
  unfold State.dmStep
  dsimp only
  split
  · next h1 => simp [keepsMem_of_fst h1, apply_ite Prod.fst, hs]
  next t start h1 =>
  have ht : t.memOk := by simp [keepsMem_of_fst h1, apply_ite Prod.fst, hs]
  split
  · next h2 => simp [keepsMem_of_fst h2, ht]
  next h2 =>
  split
  · next h3 => simp [keepsMem_of_snd h3, keepsMem_of_fst h2, ht]
  next u h3 =>
  have hu : u.memOk := by simp [keepsMem_of_snd h3, keepsMem_of_fst h2, ht]
  split
  · simp [hu]
  · split <;> simp [hu]

@[simp ↓] theorem State.copyError_keepsMem (n slot handle : Nat) (counter : RegDesc) (event dest : Nat) (detail : List Byte) :
    s.keepsMem (s.copyError n slot handle counter event dest detail) := iff_enough (by simp +contextual [State.copyError])

@[simp ↓] theorem State.segmentSend_keepsMem (n : Nat) (p : Prog) (o : OpRun) : s.keepsMem (s.segmentSend n p o) := by
  refine iff_enough fun hs => ?_
  simp only [State.segmentSend]
  split
  · simp [hs]
  split
  · next h1 => simp [keepsMem_of_fst h1, hs]
  next h1 =>
  split
  · next h2 => simp [keepsMem_of_snd h2, keepsMem_of_fst h1, hs]
  next t h2 =>
  have ht : t.memOk := by simp [keepsMem_of_snd h2, keepsMem_of_fst h1, hs]
  split
  · simp [ht]
  · split <;> simp [ht]

@[simp ↓] theorem execSegmentSend_keepsMem (n : Fin 22) : KeepsMem s (execSegmentSend n s) := by simp +contextual [execSegmentSend]

@[simp ↓] theorem State.dmBegin_keepsMem (n : Nat) (p : Prog) (o : OpRun) :
    s.keepsMem (s.dmBegin n p o) := iff_enough (by simp +contextual [State.dmBegin])

@[simp ↓] theorem execCopy_keepsMem (n : Fin 22) : KeepsMem s (execCopy n s) := by simp +contextual [execCopy]
@[simp ↓] theorem execFill_keepsMem (n : Fin 22) : KeepsMem s (execFill n s) := by simp +contextual [execFill]
@[simp ↓] theorem execDmChunk_keepsMem (n : Fin 22) : KeepsMem s (execDmChunk n s) := by simp +contextual [execDmChunk]

/-! ### The image transfer of enrolment (spec/02) -/

@[simp ↓] theorem State.bindKeys_keepsMem (x : ImgSrc) : s.keepsMem (s.bindKeys x) := iff_enough (by simp +contextual [State.bindKeys])

@[simp ↓] theorem State.setImage_keepsMem (x : Option ImageXfer) : s.keepsMem (s.setImage x) :=
  iff_enough (by simp +contextual [State.setImage])

@[simp ↓] theorem State.imgBegin_keepsMem (src : List Byte) (len : Nat) : s.keepsMem (s.imgBegin src len).2 := by
  refine iff_enough ?_
  unfold State.imgBegin
  dsimp only
  split
  · exact id
  split
  · exact id
  · simp +contextual

@[simp ↓] theorem State.stageWords_keepsMem (o : Nat) (l : List (List Byte)) :
    s.keepsMem (s.stageWords o l) := iff_enough (by simp +contextual [State.stageWords])

@[simp ↓] theorem State.imgData_keepsMem (src : List Byte) (ofs : Nat) (data : List Byte) :
    s.keepsMem (s.imgData src ofs data).2 := by
  refine iff_enough ?_
  grind [enough, State.imgData, State.setImage_keepsMem, State.stageWords_keepsMem]

@[simp ↓] theorem State.imgEnd_keepsMem (src : List Byte) (flashOk : Bool) : s.keepsMem (s.imgEnd src flashOk).2.2 := by
  refine iff_enough ?_
  grind [enough, State.imgEnd, State.setBoot_keepsMem, State.bindKeys_keepsMem, State.setImage_keepsMem]

/-! ### The ring protocol (spec/17) -/

@[simp ↓] theorem State.setHostX_keepsMem (h : Nat) (x : HostX) : s.keepsMem (s.setHostX h x) :=
  iff_enough (by simp +contextual [State.setHostX])

@[simp ↓] theorem State.setHosts_keepsMem (x : Hosts) : s.keepsMem (s.setHosts x) := iff_enough (by simp +contextual [State.setHosts])

@[simp ↓] theorem State.setOrd_keepsMem (p : Nat) (l : List Pkt) : s.keepsMem (s.setOrd p l) :=
  iff_enough (by simp +contextual [State.setOrd])

@[simp ↓] theorem State.setUrg_keepsMem (p : Nat) (l : List Pkt) : s.keepsMem (s.setUrg p l) :=
  iff_enough (by simp +contextual [State.setUrg])

@[simp ↓] theorem execHostFrameReceive_keepsMem (p : Fin 3) (kind : Fin 5) (pcp : Fin 8) (src body : List Byte) :
    KeepsMem s (execHostFrameReceive p kind pcp src body s) := by
  rw [execHostFrameReceive, keepsMem_next]
  split
  · simp +contextual
  · split <;> simp +contextual

@[simp ↓] theorem State.joinRing_keepsMem (q h : Nat) : s.keepsMem (s.joinRing q h) := iff_enough (by simp +contextual [State.joinRing])

@[simp ↓] theorem State.acceptMsg_keepsMem (h number c : Nat) : s.keepsMem (s.acceptMsg h number c) := by
  refine iff_enough ?_
  unfold State.acceptMsg
  dsimp only
  split
  · split <;> simp +contextual
  · simp +contextual

@[simp ↓] theorem State.transmit_keepsMem (p queue : Nat) (addr pkt : List Byte) :
    s.keepsMem (s.transmit p queue addr pkt) := iff_enough (by simp +contextual [State.transmit])

@[simp ↓] theorem State.sendSealed_keepsMem (h queue : Nat) (payload : List Byte) :
    s.keepsMem (s.sendSealed h queue payload) := by
  refine iff_enough ?_
  grind [enough, State.sendSealed, State.setHostX_keepsMem, State.transmit_keepsMem]

@[simp ↓] theorem State.reply_keepsMem (w : Peer) (queue : Nat) (req : List Byte) (status : Nat) (body : List Byte) :
    s.keepsMem (s.reply w queue req status body) := by
  refine iff_enough ?_
  unfold State.reply
  split <;> simp +contextual

@[simp ↓] theorem State.dropPkt_keepsMem (p : Nat) (urgent : Bool) (i : Nat) :
    s.keepsMem (s.dropPkt p urgent i) := iff_enough (by simp +contextual [State.dropPkt])

@[simp ↓] theorem State.serve_keepsMem (p op : Nat) (f : State → Peer → List Byte → State)
    (h : ∀ u k b, u.memOk → (f u k b).memOk) : s.keepsMem (s.serve p op f) := by
  refine iff_enough ?_
  grind [enough, State.serve, State.dropPkt_keepsMem, State.count_keepsMem, State.violate_keepsMem, State.setHostX_keepsMem,
    State.acceptMsg_keepsMem, State.reply_keepsMem]

@[simp ↓] theorem State.serveHost_keepsMem (p op : Nat) (ok : List Byte → Bool) (f : State → Nat → List Byte → State)
    (h : ∀ u k b, u.memOk → (f u k b).memOk) : s.keepsMem (s.serveHost p op ok f) := by
  unfold State.serveHost
  refine State.serve_keepsMem _ _ _ _ (fun u k b hu => ?_)
  split
  · simp [hu]
  · split
    · exact h _ _ _ hu
    · exact hu

@[simp ↓] theorem execLrpHello_keepsMem (p : Fin 4) : KeepsMem s (execLrpHello p s) := by
  grind [enough, execLrpHello, State.draw_keepsMem, State.setHostX_keepsMem, State.transmit_keepsMem, State.serve_keepsMem,
    keepsMem_next]

@[simp ↓] theorem execLrpStatus_keepsMem (p : Fin 4) : KeepsMem s (execLrpStatus p s) := by simp +contextual [execLrpStatus]

@[simp ↓] theorem State.postEntry_keepsMem (q : Nat) (e : List Byte) :
    s.keepsMem (s.postEntry q e) := iff_enough (by simp +contextual [State.postEntry])

@[simp ↓] theorem execLrpPost_keepsMem (p : Fin 4) : KeepsMem s (execLrpPost p s) := by simp +contextual [execLrpPost]
@[simp ↓] theorem State.release_keepsMem (q h n : Nat) : s.keepsMem (s.release q h n) := iff_enough (by simp +contextual [State.release])

@[simp ↓] theorem State.openBulk_keepsMem (h : Nat) (req : List Byte) (packets : List (List Byte)) :
    s.keepsMem (s.openBulk h req packets) := iff_enough (by simp +contextual [State.openBulk])

@[simp ↓] theorem execLrpRead_keepsMem (p : Fin 4) : KeepsMem s (execLrpRead p s) := by simp +contextual [execLrpRead]

@[simp ↓] theorem State.askFence_keepsMem (q : Nat) (auto : Bool) (tag : Nat) :
    s.keepsMem (s.askFence q auto tag) := iff_enough (by simp +contextual [State.askFence])

@[simp ↓] theorem execLrpFence_keepsMem (p : Fin 4) : KeepsMem s (execLrpFence p s) := by simp +contextual [execLrpFence]
@[simp ↓] theorem execLrpPassacq_keepsMem (p : Fin 4) : KeepsMem s (execLrpPassacq p s) := by simp +contextual [execLrpPassacq]
@[simp ↓] theorem execLrpPassrel_keepsMem (p : Fin 4) : KeepsMem s (execLrpPassrel p s) := by simp +contextual [execLrpPassrel]

@[simp ↓] theorem State.jobRecord_keepsMem (q : Nat) (b : List Byte) : s.keepsMem (s.jobRecord q b) := by
  refine iff_enough ?_
  grind [enough, State.jobRecord, State.tryCommit_keepsMem, State.setHosts_keepsMem]

@[simp ↓] theorem State.discardJobs_keepsMem (q : Nat) : s.keepsMem (s.discardJobs q) :=
  iff_enough (by simp +contextual [State.discardJobs])

@[simp ↓] theorem State.stopTarget_keepsMem (k : Nat) : s.keepsMem (s.stopTarget k) := by
  refine iff_enough fun hs => ?_
  unfold State.stopTarget
  dsimp only
  split <;> simp +contextual [hs]

@[simp ↓] theorem State.stop_keepsMem (h : Nat) : s.keepsMem (s.stop h).2.2 := iff_enough (by simp +contextual [State.stop])
@[simp ↓] theorem execLrpStop_keepsMem (p : Fin 4) : KeepsMem s (execLrpStop p s) := by simp +contextual [execLrpStop]
@[simp ↓] theorem execLrpResume_keepsMem (p : Fin 4) : KeepsMem s (execLrpResume p s) := by simp +contextual [execLrpResume]

@[simp ↓] theorem State.snapBytes_keepsMem (m : PageMap) (va n : Nat) : s.keepsMem (s.snapBytes m va n).2 := by
  refine iff_enough fun hs => ?_
  unfold State.snapBytes
  generalize 0x1000000000 = base
  dsimp only
  generalize List.filterMap _ _ = l
  cases l with
  | nil => exact hs
  | cons a l =>
    dsimp only
    generalize s.loc a = c
    cases c with
    | store k => cases s.windowCheck false [a - base] <;> simp [hs]
    | _ => simp [hs]

@[simp ↓] theorem State.snapshotHost_keepsMem (h : Nat) (req : List Byte) (va n : Nat) :
    s.keepsMem (s.snapshotHost h req va n) := by
  refine iff_enough ?_
  grind [enough, State.snapshotHost, State.translatePages_keepsMem, State.violatePages_keepsMem, State.reportFault_keepsMem,
    State.setHostX_keepsMem, State.reply_keepsMem, State.openBulk_keepsMem, State.snapBytes_keepsMem]

@[simp ↓] theorem execLrpSnapshot_keepsMem (p : Fin 4) : KeepsMem s (execLrpSnapshot p s) := by simp +contextual [execLrpSnapshot]

@[simp ↓] theorem execLrpBulkack_keepsMem (p : Fin 4) : KeepsMem s (execLrpBulkack p s) := by
  grind [enough, execLrpBulkack, State.setHostX_keepsMem, State.serveHost_keepsMem, keepsMem_next]

@[simp ↓] theorem execBulkPacketSend_keepsMem (h : Fin 4) : KeepsMem s (execBulkPacketSend h s) := by
  grind [enough, execBulkPacketSend, State.count_keepsMem, State.setHostX_keepsMem, State.sendSealed_keepsMem, keepsMem_next]

@[simp ↓] theorem execBulkResendTimeout_keepsMem (h : Fin 4) : KeepsMem s (execBulkResendTimeout h s) := by
  grind [enough, execBulkResendTimeout, State.hostCard_keepsMem, State.setHostX_keepsMem, State.sendSealed_keepsMem, keepsMem_next]

@[simp ↓] theorem execLrpTariff_keepsMem (p : Fin 4) : KeepsMem s (execLrpTariff p s) := by simp +contextual [execLrpTariff]
@[simp ↓] theorem execLrpMdclr_keepsMem (p : Fin 4) : KeepsMem s (execLrpMdclr p s) := by simp +contextual [execLrpMdclr]
@[simp ↓] theorem execLrpAovr_keepsMem (p : Fin 4) : KeepsMem s (execLrpAovr p s) := by simp +contextual [execLrpAovr]
@[simp ↓] theorem execLrpSafereset_keepsMem (p : Fin 4) : KeepsMem s (execLrpSafereset p s) := by simp +contextual [execLrpSafereset]
@[simp ↓] theorem execLrpLedgerkey_keepsMem (p : Fin 4) : KeepsMem s (execLrpLedgerkey p s) := by simp +contextual [execLrpLedgerkey]

@[simp ↓] theorem State.serveImg_keepsMem (p op : Nat) (ok : List Byte → Bool)
    (f : State → List Byte → List Byte → Nat × List Byte × State) (h : ∀ u k b, u.memOk → (f u k b).2.2.memOk) :
    s.keepsMem (s.serveImg p op ok f) := by
  unfold State.serveImg
  refine State.serve_keepsMem _ _ _ _ (fun u k b => ?_)
  split <;> simp +contextual [h]

@[simp ↓] theorem execImgbegin_keepsMem (p : Fin 4) : KeepsMem s (execImgbegin p s) := by simp +contextual [execImgbegin]
@[simp ↓] theorem execImgdata_keepsMem (p : Fin 4) : KeepsMem s (execImgdata p s) := by simp +contextual [execImgdata]

@[simp ↓] theorem execImgend_keepsMem (p : Fin 4) (flashOk : Bool) :
    KeepsMem s (execImgend p flashOk s) := by simp +contextual [execImgend]

/-! ### Host ports (spec/17) -/

@[simp ↓] theorem State.jobStart_keepsMem (q : Nat) (b : List Byte) : s.keepsMem (s.jobStart q b).2 := by
  refine iff_enough ?_
  grind [enough, State.jobStart, State.violate_keepsMem, State.submitStart_keepsMem]

@[simp ↓] theorem execJobEntryServe_keepsMem (q : Fin 16) : KeepsMem s (execJobEntryServe q s) := by simp +contextual [execJobEntryServe]

@[simp ↓] theorem execJobStatusRecord_keepsMem (q : Fin 16) : KeepsMem s (execJobStatusRecord q s) := by
  grind [enough, execJobStatusRecord, State.tryCommit_keepsMem, State.setHosts_keepsMem, keepsMem_next]

@[simp ↓] theorem State.writeJobTail_keepsMem (q : Nat) (v : Word) :
    s.keepsMem (s.writeJobTail q v) := iff_enough (by simp +contextual [State.writeJobTail])

@[simp ↓] theorem execJobTailWrite_keepsMem (r : Req) (q : Fin 16) (v : Word) :
    KeepsMem s (execJobTailWrite r q v s) := by simp +contextual [execJobTailWrite]

@[simp ↓] theorem State.writeJobCfg_keepsMem (q : Nat) (v : Word) :
    s.keepsMem (s.writeJobCfg q v) := iff_enough (by simp +contextual [State.writeJobCfg])

@[simp ↓] theorem State.writeRingCfg_keepsMem (q : Nat) (v : Word) :
    s.keepsMem (s.writeRingCfg q v) := iff_enough (by simp +contextual [State.writeRingCfg])

@[simp ↓] theorem execRingEnable_keepsMem (r : Req) (job : Bool) (q : Fin 16) (v : Word) :
    KeepsMem s (execRingEnable r job q v s) := by simp +contextual [execRingEnable]

@[simp ↓] theorem State.writeRingTail_keepsMem (q : Nat) (v : Word) :
    s.keepsMem (s.writeRingTail q v) := iff_enough (by simp +contextual [State.writeRingTail])

@[simp ↓] theorem State.writeRingAuto_keepsMem (q : Nat) (v : Word) :
    s.keepsMem (s.writeRingAuto q v) := iff_enough (by simp +contextual [State.writeRingAuto])

@[simp ↓] theorem execFenceRequest_keepsMem (r : Req) (q : Fin 16) (v : Word) :
    KeepsMem s (execFenceRequest r q v s) := by simp +contextual [execFenceRequest]

@[simp ↓] theorem execAutoFenceDue_keepsMem (q : Fin 16) : KeepsMem s (execAutoFenceDue q s) := by simp +contextual [execAutoFenceDue]

@[simp ↓] theorem execFenceCommit_keepsMem (q : Fin 16) : KeepsMem s (execFenceCommit q s) := by
  grind [enough, execFenceCommit, State.draw_keepsMem, State.setRingX_keepsMem, State.tryCommit_keepsMem, keepsMem_next]

@[simp ↓] theorem State.showSynced_keepsMem : s.keepsMem s.showSynced := iff_enough (by simp +contextual [State.showSynced])
@[simp ↓] theorem State.setSynced_keepsMem (p t : Nat) : s.keepsMem (s.setSynced p t) := iff_enough (by simp +contextual [State.setSynced])

@[simp ↓] theorem execGptpFrame_keepsMem (p : Fin 2) (kind : Fin 3) (domain : Byte) (capable : Bool) (master : DWord) (ppb : Word) :
    KeepsMem s (execGptpFrame p kind domain capable master ppb s) := by simp +contextual [execGptpFrame]

@[simp ↓] theorem execGptpSyncLoss_keepsMem (p : Fin 2) : KeepsMem s (execGptpSyncLoss p s) := by simp +contextual [execGptpSyncLoss]
@[simp ↓] theorem execQbvGateEntry_keepsMem (p : Fin 2) : KeepsMem s (execQbvGateEntry p s) := by simp +contextual [execQbvGateEntry]
@[simp ↓] theorem execSpitStatus_keepsMem : KeepsMem s (execSpitStatus s) := by simp +contextual [execSpitStatus]
@[simp ↓] theorem execSpitWrite_keepsMem (body : List Byte) : KeepsMem s (execSpitWrite body s) := by simp +contextual [execSpitWrite]
@[simp ↓] theorem execSpitRead_keepsMem : KeepsMem s (execSpitRead s) := by simp +contextual [execSpitRead]

@[simp ↓] theorem execHostPortLinkChange_keepsMem (p : Fin 3) (up : Bool) :
    KeepsMem s (execHostPortLinkChange p up s) := by simp +contextual [execHostPortLinkChange]

/-! ### Segments between devices (spec/18) -/

@[simp ↓] theorem State.setChn_keepsMem (x : Chn) : s.keepsMem (s.setChn x) := iff_enough (by simp +contextual [State.setChn])

@[simp ↓] theorem State.flood_keepsMem (c : Nat × Nat × Nat) (not : Nat) :
    s.keepsMem (s.flood c not) := iff_enough (by simp +contextual [State.flood])

@[simp ↓] theorem State.startRoll_keepsMem : s.keepsMem s.startRoll := iff_enough (by simp +contextual [State.startRoll])
@[simp ↓] theorem execRollCallStart_keepsMem : KeepsMem s (execRollCallStart s) := by simp +contextual [execRollCallStart]

@[simp ↓] theorem execRollCallRootDecided_keepsMem :
    KeepsMem s (execRollCallRootDecided s) := by simp +contextual [execRollCallRootDecided]

@[simp ↓] theorem State.writeRoutes_keepsMem (devs : List ChainDev) (l : List (Nat × Nat)) (ring : Bool) :
    s.keepsMem (s.writeRoutes devs l ring) := by
  refine iff_enough fun hs => ?_
  unfold State.writeRoutes
  refine of_iff_enough (memOk_foldl _ (fun t d ht => ?_) _ _) ?_
  · split
    · exact ht
    · refine State.memOk_of_ite ht ?_
      dsimp only
      split
      · split <;> simp [ht]
      · simp [ht]
  · exact of_iff_enough (memOk_foldl _ (fun t d ht => by simp [ht]) _ _) hs

@[simp ↓] theorem State.writeDirectory_keepsMem (devs : List ChainDev) (l : List (Nat × Nat)) :
    s.keepsMem (s.writeDirectory devs l) := iff_enough (by simp +contextual [State.writeDirectory])

@[simp ↓] theorem State.setStandby_keepsMem (m : Nat) : s.keepsMem (s.setStandby m) := iff_enough (by simp +contextual [State.setStandby])

@[simp ↓] theorem execRollCallDirectory_keepsMem (devs : List ChainDev) (links : Fin 64) (standby : Fin 8) :
    KeepsMem s (execRollCallDirectory devs links standby s) := by
  grind [enough, execRollCallDirectory, State.fset_keepsMem, State.setFlag_keepsMem, State.card_keepsMem, State.setChn_keepsMem,
    State.writeRoutes_keepsMem, State.writeDirectory_keepsMem, State.setStandby_keepsMem, keepsMem_next]

@[simp ↓] theorem execUnreachableAddressExpiry_keepsMem (a : Fin 4095) :
    KeepsMem s (execUnreachableAddressExpiry a s) := by simp +contextual [execUnreachableAddressExpiry]

@[simp ↓] theorem State.putBlock_keepsMem (a : Nat) (r : BlockRec) (notag : Bool) :
    s.keepsMem (s.putBlock a r notag).2 := by
  refine iff_enough fun hs => ?_
  unfold State.putBlock
  dsimp only
  split
  · simp [hs]
  · split <;> simp [hs]

@[simp ↓] theorem State.putBlocks_keepsMem (at' : Nat → Nat) (notag : Bool) (x0 : List BlockRec) (x1 : Nat) :
    s.keepsMem (s.putBlocks at' notag x0 x1).2 := by
  refine iff_enough ?_
  induction x0 generalizing s x1 with
  | nil => simp +contextual [State.putBlocks]
  | cons x l ih => simp +contextual [State.putBlocks, ih]

@[simp ↓] theorem State.completeSeg_keepsMem (g : Seg) (status : Nat) :
    s.keepsMem (s.completeSeg g status) := iff_enough (by simp +contextual [State.completeSeg])

@[simp ↓] theorem State.refuseSeg_keepsMem (p : Nat) (g : Seg) (c kind : Nat) :
    s.keepsMem (s.refuseSeg p g c kind) := iff_enough (by simp +contextual [State.refuseSeg])

@[simp ↓] theorem State.inboundWrite_keepsMem (p : Nat) (g : Seg) : s.keepsMem (s.inboundWrite p g) := by
  refine iff_enough ?_
  unfold State.inboundWrite
  split
  · simp +contextual
  · split
    · simp +contextual
    · split <;> simp +contextual

@[simp ↓] theorem State.arrivalWrite_keepsMem (p : Nat) (g : Seg) (x : RxArrival) :
    s.keepsMem (s.arrivalWrite p g x) := iff_enough (by simp +contextual [State.arrivalWrite])

@[simp ↓] theorem State.inboundArrival_keepsMem (p : Nat) (g : Seg) : s.keepsMem (s.inboundArrival p g) := by
  refine iff_enough ?_
  grind [enough, State.inboundArrival, State.count_keepsMem, State.startArrival_keepsMem, State.takeSeg_keepsMem, State.setChn_keepsMem,
    State.completeSeg_keepsMem, State.refuseSeg_keepsMem, State.arrivalWrite_keepsMem]

@[simp ↓] theorem State.imageMessage_keepsMem (g : Seg) (flashOk : Bool) : s.keepsMem (s.imageMessage g flashOk) := by
  refine iff_enough ?_
  unfold State.imageMessage
  split <;> simp +contextual

@[simp ↓] theorem State.inboundMessage_keepsMem (p : Nat) (g : Seg) (flashOk : Bool) :
    s.keepsMem (s.inboundMessage p g flashOk) := by
  refine iff_enough ?_
  grind [enough, State.inboundMessage, State.tryCommit_keepsMem, State.takeSeg_keepsMem, State.completeSeg_keepsMem,
    State.imageMessage_keepsMem]

@[simp ↓] theorem State.inboundClaim_keepsMem (p : Nat) (g : Seg) :
    s.keepsMem (s.inboundClaim p g) := iff_enough (by simp +contextual [State.inboundClaim])

@[simp ↓] theorem execSegmentReceive_keepsMem (p : Fin 3) (vc : Fin 4) (flashOk : Bool) :
    KeepsMem s (execSegmentReceive p vc flashOk s) := by
  unfold execSegmentReceive
  split
  · simp +contextual
  · split
    · simp +contextual
    · split <;> simp +contextual

@[simp ↓] theorem State.failCopy_keepsMem (n cls : Nat) : s.keepsMem (s.failCopy n cls) := by
  refine iff_enough ?_
  unfold State.failCopy
  split
  · simp +contextual
  · split <;> simp +contextual

@[simp ↓] theorem State.flightFails_keepsMem (f : Flight) (status result : Nat) :
    s.keepsMem (s.flightFails f status result) := iff_enough (by simp +contextual [State.flightFails])

@[simp ↓] theorem execSegmentCompletion_keepsMem (p : Fin 3) : KeepsMem s (execSegmentCompletion p s) := by
  grind [enough, execSegmentCompletion, State.fset_keepsMem, State.setFlag_keepsMem, State.takeSeg_keepsMem, State.setChn_keepsMem,
    State.flightFails_keepsMem, keepsMem_next]

@[simp ↓] theorem execE2eTimeout_keepsMem (xfer ofs : Word) : KeepsMem s (execE2eTimeout xfer ofs s) := by
  unfold execE2eTimeout
  split <;> simp +contextual

@[simp ↓] theorem State.writeMsgLen_keepsMem (v : Word) : s.keepsMem (s.writeMsgLen v) := by
  refine iff_enough ?_
  grind [enough, State.writeMsgLen, State.fset_keepsMem, State.setFlag_keepsMem, State.sendSeg_keepsMem, State.setChn_keepsMem]

@[simp ↓] theorem execChnMessageSend_keepsMem (r : Req) (v : Word) :
    KeepsMem s (execChnMessageSend r v s) := by simp +contextual [execChnMessageSend]

@[simp ↓] theorem execImageRequestBroadcast_keepsMem :
    KeepsMem s (execImageRequestBroadcast s) := by simp +contextual [execImageRequestBroadcast]

@[simp ↓] theorem execForwardRecordReceive_keepsMem (p : Fin 3) : KeepsMem s (execForwardRecordReceive p s) := by
  grind [enough, execForwardRecordReceive, State.count_keepsMem, State.tryCommit_keepsMem, State.takeSeg_keepsMem,
    State.completeSeg_keepsMem, keepsMem_next]

@[simp ↓] theorem execForwardDropTimeout_keepsMem : KeepsMem s (execForwardDropTimeout s) := by simp +contextual [execForwardDropTimeout]

@[simp ↓] theorem execChainTimeBroadcast_keepsMem (lower any : Bool) :
    KeepsMem s (execChainTimeBroadcast lower any s) := by simp +contextual [execChainTimeBroadcast]

@[simp ↓] theorem execChainTimeReceive_keepsMem (p : Fin 3) (resid : Half) : KeepsMem s (execChainTimeReceive p resid s) := by
  unfold execChainTimeReceive
  split <;> simp +contextual

@[simp ↓] theorem execLinkDelayMeasure_keepsMem (p : Fin 3) (ns : Half) :
    KeepsMem s (execLinkDelayMeasure p ns s) := by simp +contextual [execLinkDelayMeasure]

/-! ### Resume records (spec/04) -/

@[simp ↓] theorem State.resume_keepsMem (x : Susp) : s.keepsMem (s.resume x) := by
  refine iff_enough fun hs => ?_
  unfold State.resume
  dsimp only
  split
  · simp [hs]
  split
  · split <;> simp [hs]
  split
  · simp [hs]
  · split <;> simp [hs]

@[simp ↓] theorem State.abort_keepsMem (x : Susp) : s.keepsMem (s.abort x) := by
  refine iff_enough ?_
  grind [enough, State.abort, State.setStream_keepsMem, State.freeSusp_keepsMem, State.endBroadcast_keepsMem, State.haltProg_keepsMem,
    State.setBusy_keepsMem, State.stoFinish_keepsMem, State.stoKick_keepsMem, State.cimpFinish_keepsMem, State.onDeck_keepsMem,
    State.setHostX_keepsMem, State.reply_keepsMem]

@[simp ↓] theorem State.writeResume_keepsMem (r : Req) (v : Word) : s.keepsMem (s.writeResume r v) := by
  refine iff_enough ?_
  unfold State.writeResume
  split <;> simp +contextual

@[simp ↓] theorem execFaultResume_keepsMem (r : Req) (v : Word) :
    KeepsMem s (execFaultResume r v s) := by simp +contextual [execFaultResume]

@[simp ↓] theorem execFaultAbort_keepsMem (r : Req) (v : Word) : KeepsMem s (execFaultAbort r v s) := by simp +contextual [execFaultAbort]

@[simp ↓] theorem execFaultTimeout_keepsMem (c : Fin 8) (index : Fin 128) : KeepsMem s (execFaultTimeout c index s) := by
  unfold execFaultTimeout
  split <;> simp +contextual

@[simp ↓] theorem State.disableContext_keepsMem (c : Nat) :
    s.keepsMem (s.disableContext c) := iff_enough (by simp +contextual [State.disableContext])

@[simp ↓] theorem State.writeCtxCfg_keepsMem (r : Req) (n : Nat) (v : Word) :
    s.keepsMem (s.writeCtxCfg r n v) := iff_enough (by simp +contextual [State.writeCtxCfg])

@[simp ↓] theorem execContextDisable_keepsMem (r : Req) (n : Fin 8) (v : Word) :
    KeepsMem s (execContextDisable r n v s) := by simp +contextual [execContextDisable]

/-! ### The signal engine (spec/11) -/

@[simp ↓] theorem State.releaseBank_keepsMem (n : Nat) : s.keepsMem (s.releaseBank n) :=
  iff_enough (by simp +contextual [State.releaseBank])

@[simp ↓] theorem State.takeBank_keepsMem (n : Nat) : s.keepsMem (s.takeBank n).2 := iff_enough (by simp +contextual [State.takeBank])

@[simp ↓] theorem State.sigViews_keepsMem (n : Nat) (p : Prog) (o : OpRun) (l : List Nat) (vs : List (Nat × View)) :
    s.keepsMem (s.sigViews n p o l vs).2 := by
  refine iff_enough ?_
  induction l generalizing s vs with
  | nil => simp +contextual [State.sigViews]
  | cons x l ih => grind [enough, State.sigViews, State.touch_keepsMem, State.suspendOp_keepsMem, State.violatePages_keepsMem,
    State.readCheck_keepsMem]

@[simp ↓] theorem State.sigWrite_keepsMem (n : Nat) (p : Prog) (o : OpRun) (res : List (Nat × List (Nat × Nat))) :
    s.keepsMem (s.sigWrite n p o res).2 := by
  refine iff_enough ?_
  unfold State.sigWrite
  dsimp only
  split <;> next h => simp +contextual [keepsMem_of_snd h]

@[simp ↓] theorem State.sigCompute_keepsMem (n : Nat) (p : Prog) (b : Bundle) (o : OpRun) :
    s.keepsMem (s.sigCompute n p b o).2 := by
  refine iff_enough fun hs => ?_
  unfold State.sigCompute
  split
  · next h1 => simp [keepsMem_of_snd h1, hs]
  next t h1 =>
  have ht : t.memOk := by simp [keepsMem_of_snd h1, hs]
  dsimp only
  rw [apply_ite Prod.snd]
  refine State.memOk_of_ite (by simp [ht]) ?_
  split <;> next h2 => simp [keepsMem_of_snd h2, ht]

@[simp ↓] theorem State.sigBegin_keepsMem (n opc : Nat) : s.keepsMem (s.sigBegin n opc) := by
  refine State.beginOp_keepsMem _ _ _ _ (fun p o => ?_)
  dsimp only
  split
  · exact id
  split
  · simp +contextual
  split <;> next h => simp +contextual [keepsMem_of_snd h]

@[simp ↓] theorem execSigPass_keepsMem (n : Fin 22) (parity : Bool) : KeepsMem s (execSigPass n parity s) := by
  rw [execSigPass, keepsMem_next]
  refine of_iff_enough (State.withOp_keepsMem _ _ _ _ (fun p o => ?_))
  dsimp only
  split
  · simp +contextual
  split
  · split
    · simp +contextual
    · split <;> next h => simp +contextual [keepsMem_of_snd h]
  split
  · exact id
  split
  · next h1 => simp +contextual [keepsMem_of_snd h1]
  · next h1 => split <;> next h2 => simp +contextual [keepsMem_of_snd h2, keepsMem_of_snd h1]

@[simp ↓] theorem execFft_keepsMem (n : Fin 22) : KeepsMem s (execFft n s) := by simp +contextual [execFft]
@[simp ↓] theorem execWindow_keepsMem (n : Fin 22) : KeepsMem s (execWindow n s) := by simp +contextual [execWindow]
@[simp ↓] theorem execResamp_keepsMem (n : Fin 22) : KeepsMem s (execResamp n s) := by simp +contextual [execResamp]
@[simp ↓] theorem execEnv_keepsMem (n : Fin 22) : KeepsMem s (execEnv n s) := by simp +contextual [execEnv]
@[simp ↓] theorem execCeps_keepsMem (n : Fin 22) : KeepsMem s (execCeps n s) := by simp +contextual [execCeps]
@[simp ↓] theorem execSkurt_keepsMem (n : Fin 22) : KeepsMem s (execSkurt n s) := by simp +contextual [execSkurt]
@[simp ↓] theorem execBand_keepsMem (n : Fin 22) : KeepsMem s (execBand n s) := by simp +contextual [execBand]
@[simp ↓] theorem execMarker_keepsMem (n : Fin 22) : KeepsMem s (execMarker n s) := by simp +contextual [execMarker]
@[simp ↓] theorem execLayer_keepsMem (n : Fin 22) : KeepsMem s (execLayer n s) := by simp +contextual [execLayer]
@[simp ↓] theorem execSigArgmax_keepsMem (n : Fin 22) : KeepsMem s (execSigArgmax n s) := by simp +contextual [execSigArgmax]
@[simp ↓] theorem execSheet_keepsMem (n : Fin 22) : KeepsMem s (execSheet n s) := by simp +contextual [execSheet]
@[simp ↓] theorem execStats_keepsMem (n : Fin 22) : KeepsMem s (execStats n s) := by simp +contextual [execStats]

@[simp ↓] theorem State.loadGeometry_keepsMem (b : List Byte) : s.keepsMem (s.loadGeometry b) := by
  refine memOk_foldl _ (fun t k => ?_) _ _
  dsimp only
  split
  · simp +contextual
  · split <;> simp +contextual

/-! ### Register accesses -/

@[simp ↓] theorem State.plainWrite_keepsMem (r : Req) (d : RegDesc) (a : Nat) (v : Word) :
    s.keepsMem (s.plainWrite r d a v) := iff_enough (by simp +contextual [State.plainWrite])

@[simp ↓] theorem State.writeUnless_keepsMem (c : Bool) (r : Req) (d : RegDesc) (a : Nat) (v : Word) :
    s.keepsMem (s.writeUnless c r d a v) := iff_enough (by simp +contextual [State.writeUnless])

@[simp ↓] theorem State.putSys_keepsMem (setup : Bool) (a : Nat) (v : Word) :
    s.keepsMem (s.putSys setup a v) := iff_enough (by simp +contextual [State.putSys])

@[simp ↓] theorem State.putPwr_keepsMem (r : Req) (setup : Bool) (d : RegDesc) (a : Nat) (v : Word) :
    s.keepsMem (s.putPwr r setup d a v) := iff_enough (by simp +contextual [State.putPwr])

@[simp ↓] theorem State.putBoot_keepsMem (r : Req) (d : RegDesc) (a : Nat) (v : Word) :
    s.keepsMem (s.putBoot r d a v) := iff_enough (by simp +contextual [State.putBoot])

@[simp ↓] theorem State.putMemReg_keepsMem (r : Req) (setup : Bool) (d : RegDesc) (i a : Nat) (v : Word) :
    s.keepsMem (s.putMemReg r setup d i a v) := iff_enough (by simp +contextual [State.putMemReg])

@[simp ↓] theorem State.putMmu_keepsMem (r : Req) (d : RegDesc) (i a : Nat) (v : Word) :
    s.keepsMem (s.putMmu r d i a v) := iff_enough (by simp +contextual [State.putMmu])

@[simp ↓] theorem State.putEng_keepsMem (r : Req) (d : RegDesc) (i a : Nat) (v : Word) :
    s.keepsMem (s.putEng r d i a v) := iff_enough (by simp +contextual [State.putEng])

@[simp ↓] theorem State.putCimp_keepsMem (r : Req) (d : RegDesc) (i a : Nat) (v : Word) :
    s.keepsMem (s.putCimp r d i a v) := iff_enough (by simp +contextual [State.putCimp])

@[simp ↓] theorem State.putSto_keepsMem (r : Req) (d : RegDesc) (a : Nat) (v : Word) :
    s.keepsMem (s.putSto r d a v) := iff_enough (by simp +contextual [State.putSto])

@[simp ↓] theorem State.putLdg_keepsMem (r : Req) (d : RegDesc) (i a : Nat) (v : Word) :
    s.keepsMem (s.putLdg r d i a v) := iff_enough (by simp +contextual [State.putLdg])

@[simp ↓] theorem State.putOut_keepsMem (r : Req) (d : RegDesc) (i a : Nat) (v : Word) :
    s.keepsMem (s.putOut r d i a v) := iff_enough (by simp +contextual [State.putOut])

@[simp ↓] theorem State.putHost_keepsMem (r : Req) (d : RegDesc) (i a : Nat) (v : Word) :
    s.keepsMem (s.putHost r d i a v) := by
  refine iff_enough fun hs => ?_
  unfold State.putHost
  iterate 12 refine State.memOk_of_ite (by simp [hs]) ?_
  simp [hs]

@[simp ↓] theorem State.putChn_keepsMem (r : Req) (d : RegDesc) (a : Nat) (v : Word) :
    s.keepsMem (s.putChn r d a v) := iff_enough (by simp +contextual [State.putChn])

@[simp ↓] theorem State.putReg_keepsMem (r : Req) (setup : Bool) (d : RegDesc) (i a : Nat) (v : Word) :
    s.keepsMem (s.putReg r setup d i a v) := by
  refine iff_enough ?_
  unfold State.putReg
  split
  · simp +contextual
  · simp +contextual
  · split <;> simp +contextual

@[simp] theorem outState_keepsMem (o : Out State) (h : KeepsMem s o) : s.keepsMem (outState o s) := by
  refine iff_enough ?_
  obtain ⟨t, rfl, ht⟩ := h
  exact ht

theorem State.agentWrite_keepsMem (t : State) (r : Req) (d : RegDesc) (i : Nat) (v : Word) (h : s.agentWrite r d i v = some t) :
    s.keepsMem t := by
  refine iff_enough ?_
  unfold State.agentWrite at h
  split at h
  · cases h
    simp +contextual
  split at h
  · cases h
    simp +contextual
  split at h
  · cases h
    simp +contextual
  split at h
  · cases h
    simp +contextual
  split at h
  · cases h
    simp +contextual
  · cases h

@[simp ↓] theorem State.regWrite_keepsMem (r : Req) (a : Nat) (v : Word) : s.keepsMem (s.regWrite r a v) := by
  refine iff_enough ?_
  unfold State.regWrite
  dsimp only
  split
  · exact id
  split
  · simp +contextual
  split
  · simp +contextual
  split
  · simp +contextual
  split
  · next h => exact of_iff_enough (State.agentWrite_keepsMem _ _ _ _ _ _ h)
  · split <;> simp +contextual

@[simp ↓] theorem execRegisterWrite_keepsMem (r : Req) (a : Addr) (v : Word) :
    KeepsMem s (execRegisterWrite r a v s) := by simp +contextual [execRegisterWrite]

@[simp ↓] theorem State.readWord_keepsMem (r : Req) (a : Nat) : s.keepsMem (s.readWord r a).2 := by
  refine iff_enough ?_
  unfold State.readWord
  split
  · simp +contextual
  · split <;> simp +contextual

@[simp ↓] theorem State.regRead_keepsMem (r : Req) (a : Nat) : s.keepsMem (s.regRead r a).2 := by
  refine iff_enough ?_
  unfold State.regRead
  split <;> simp +contextual

@[simp ↓] theorem State.regRead8_keepsMem (r : Req) (a : Nat) : s.keepsMem (s.regRead8 r a).2 := by
  refine iff_enough ?_
  grind [enough, State.regRead8, State.violateBy_keepsMem]

@[simp ↓] theorem execLatchingLoRead_keepsMem (r : Req) (a : Addr) :
    KeepsMem s (execLatchingLoRead r a s) := by simp +contextual [execLatchingLoRead]

/-! ### Single accesses by physical address (spec/03) -/

@[simp ↓] theorem State.refuse_keepsMem (r : Req) (write : Bool) (kind a n : Nat) :
    s.keepsMem (s.refuse r write kind a n) := iff_enough (by simp +contextual [State.refuse])

@[simp ↓] theorem State.narrowMem_keepsMem (write : Bool) (a n : Nat) (v : DWord) (ecc : Ecc) :
    s.keepsMem (s.narrowMem write a n v ecc) := iff_enough (by simp +contextual [State.narrowMem])

@[simp ↓] theorem State.narrowReg_keepsMem (r : Req) (write : Bool) (a n : Nat) (v : DWord) :
    s.keepsMem (s.narrowReg r write a n v) := iff_enough (by simp +contextual [State.narrowReg])

@[simp ↓] theorem State.narrowCim_keepsMem (r : Req) (write : Bool) (a n : Nat) :
    s.keepsMem (s.narrowCim r write a n) := by
  refine iff_enough ?_
  unfold State.narrowCim
  dsimp only
  split
  · simp +contextual
  split
  · simp +contextual
  · split <;> simp +contextual

@[simp ↓] theorem State.cutAnswer_keepsMem (k n : Nat) : s.keepsMem (s.cutAnswer k n) := iff_enough (by simp +contextual [State.cutAnswer])

@[simp ↓] theorem execNarrowAccess_keepsMem (r : Req) (write : Bool) (a : Addr) (sz : NSize) (v : DWord) (ecc : Ecc)
    (rivals : List (Fin 8 × Fin 6)) : KeepsMem s (execNarrowAccess r write a sz v ecc rivals s) := by
  obtain ⟨t, hread, ht⟩ := execStorageWindowRead_keepsMem s r a false (eccWorst ecc)
  rw [execNarrowAccess, keepsMem_next]
  dsimp only
  split
  · exact id
  split
  · simp +contextual
  split
  · simp +contextual
  · simp +contextual
  · simp +contextual [hread, ht]
  · simp +contextual

@[simp ↓] theorem State.consumerFail_keepsMem (r : Req) (a : Nat) : s.keepsMem (s.consumerFail r a) := by
  refine iff_enough ?_
  unfold State.consumerFail
  split <;> simp +contextual

@[simp ↓] theorem State.wideRead_keepsMem (r : Req) (a : Nat) (check : Bool) (ecc : Ecc) :
    s.keepsMem (s.wideRead r a check ecc) := iff_enough (by simp +contextual [State.wideRead])

@[simp ↓] theorem State.wideWrite_keepsMem (a : Nat) (data : List Byte) (tag : Word) :
    s.keepsMem (s.wideWrite a data tag) := iff_enough (by simp +contextual [State.wideWrite])

@[simp ↓] theorem State.tagAnswer_keepsMem : s.keepsMem s.tagAnswer := iff_enough (by simp +contextual [State.tagAnswer])

@[simp ↓] theorem execWideAccess_keepsMem (r : Req) (write : Bool) (a : Addr) (data : List Byte) (tag : Word) (check : Bool)
    (ecc : Ecc) (rivals : List (Fin 8 × Fin 6)) : KeepsMem s (execWideAccess r write a data tag check ecc rivals s) := by
  obtain ⟨t, hread, ht⟩ := execStorageWindowRead_keepsMem s r a true (eccWorst ecc)
  rw [execWideAccess, keepsMem_next]
  dsimp only
  split
  · exact id
  split
  · simp +contextual
  split
  · simp +contextual [hread, ht]
  · simp +contextual

/-! ### Set-up from an image (spec/02) -/

@[simp ↓] theorem State.setUp_keepsMem (f : Fld) (v i : Nat) : s.keepsMem (s.setUp f v i) := iff_enough (by simp +contextual [State.setUp])

@[simp ↓] theorem State.profileField_keepsMem (p : List Byte) (o n : Nat) (f : State → Nat → State)
    (h : ∀ v, s.memOk → (f s v).memOk) : s.keepsMem (s.profileField p o n f) := iff_enough (by simp +contextual [State.profileField, h])

@[simp ↓] theorem State.applyStreamDef_keepsMem (p : List Byte) (n : Nat) :
    s.keepsMem (s.applyStreamDef p n) := iff_enough (by simp +contextual [State.applyStreamDef])

@[simp ↓] theorem State.applyAcq_keepsMem (p : List Byte) : s.keepsMem (s.applyAcq p) := iff_enough (by simp +contextual [State.applyAcq])
@[simp ↓] theorem State.applyOut_keepsMem (p : List Byte) : s.keepsMem (s.applyOut p) := iff_enough (by simp +contextual [State.applyOut])

@[simp ↓] theorem State.applyRingPair_keepsMem (p : List Byte) (q : Nat) :
    s.keepsMem (s.applyRingPair p q) := iff_enough (by simp +contextual [State.applyRingPair])

@[simp ↓] theorem State.bindHost_keepsMem (h : Nat) : s.keepsMem (s.bindHost h) := iff_enough (by simp +contextual [State.bindHost])

@[simp ↓] theorem State.applyHosts_keepsMem (p : List Byte) : s.keepsMem (s.applyHosts p) :=
  iff_enough (by simp +contextual [State.applyHosts])

@[simp ↓] theorem State.applyLedger_keepsMem (p : List Byte) : s.keepsMem (s.applyLedger p) :=
  iff_enough (by simp +contextual [State.applyLedger])

@[simp ↓] theorem State.applyInbound_keepsMem (p : List Byte) (w : Nat) :
    s.keepsMem (s.applyInbound p w) := iff_enough (by simp +contextual [State.applyInbound])

@[simp ↓] theorem State.applyChain_keepsMem (p : List Byte) : s.keepsMem (s.applyChain p) :=
  iff_enough (by simp +contextual [State.applyChain])

@[simp ↓] theorem State.applyTdt_keepsMem (n : Nat) (p : List Byte) :
    s.keepsMem (s.applyTdt n p) := iff_enough (by simp +contextual [State.applyTdt])

@[simp ↓] theorem State.applyPlacement_keepsMem (x : Placement) :
    s.keepsMem (s.applyPlacement x) := iff_enough (by simp +contextual [State.applyPlacement])

@[simp ↓] theorem State.selectNamed_keepsMem (x : State × List Nat) (a : Assign) :
    x.1.keepsMem (State.selectNamed x a).1 := by
  refine iff_enough ?_
  unfold State.selectNamed
  dsimp only
  split <;> simp +contextual

@[simp ↓] theorem State.applyModel_keepsMem (x : State × List Nat) (m : Section) :
    x.1.keepsMem (State.applyModel x m).1 := by
  refine iff_enough fun hx => ?_
  unfold State.applyModel
  split
  · exact hx
  · refine of_iff_enough (memOk_foldl_fst _ (fun y a hy => ?_) _ _) (by simp [hx])
    simp [hy]

@[simp ↓] theorem State.applyExpert_keepsMem (e : Nat × Word) : s.keepsMem (s.applyExpert e) := by
  refine iff_enough ?_
  unfold State.applyExpert
  split <;> simp +contextual

@[simp ↓] theorem State.applySection_keepsMem (x : Section) : s.keepsMem (s.applySection x) := by
  refine iff_enough ?_
  unfold State.applySection
  split <;> simp +contextual

@[simp ↓] theorem State.applyAll_keepsMem (l : List Section) (t : Nat) :
    s.keepsMem (s.applyAll l t) := iff_enough (by simp +contextual [State.applyAll])

@[simp ↓] theorem State.applyModels_keepsMem (l : List Section) : s.keepsMem (s.applyModels l) := by
  refine iff_enough fun hs => ?_
  unfold State.applyModels
  refine of_iff_enough (memOk_foldl_fst _ (fun x m hx => ?_) _ _) hs
  have hplaced : (State.applyModel x m).1.memOk := by simp [hx]
  exact of_iff_enough (memOk_foldl _ (fun t e ht => by simp [ht]) _ _) hplaced

@[simp ↓] theorem State.applySafety_keepsMem (l : List Section) : s.keepsMem (s.applySafety l) := by
  refine iff_enough ?_
  unfold State.applySafety
  split <;> simp +contextual

@[simp ↓] theorem State.bellCheck_keepsMem : s.keepsMem s.bellCheck := iff_enough (by simp +contextual [State.bellCheck])
@[simp ↓] theorem State.commitWall_keepsMem : s.keepsMem s.commitWall := iff_enough (by simp +contextual [State.commitWall])

@[simp ↓] theorem State.applySetups_keepsMem (l : List Section) :
    s.keepsMem (s.applySetups l) := iff_enough (by simp +contextual [State.applySetups])

@[simp ↓] theorem State.trainPorts_keepsMem : s.keepsMem s.trainPorts := iff_enough (by simp +contextual [State.trainPorts])

/-! ### Start-up (spec/02) -/

@[simp ↓] theorem State.setStep_keepsMem (k : Nat) : s.keepsMem (s.setStep k) := iff_enough (by simp +contextual [State.setStep])
@[simp ↓] theorem State.releaseReset_keepsMem : s.keepsMem s.releaseReset := iff_enough (by simp +contextual [State.releaseReset])
@[simp ↓] theorem State.recoverSto_keepsMem : s.keepsMem s.recoverSto := iff_enough (by simp +contextual [State.recoverSto])
@[simp ↓] theorem State.powerUp_keepsMem : s.keepsMem s.powerUp := iff_enough (by simp +contextual [State.powerUp])

@[simp ↓] theorem State.setSlotRes_keepsMem (k c : Nat) : s.keepsMem (s.setSlotRes k c) :=
  iff_enough (by simp +contextual [State.setSlotRes])

@[simp ↓] theorem State.installUpdate_keepsMem (installOk : Bool) : s.keepsMem (s.installUpdate installOk).2 := by
  refine iff_enough ?_
  grind [enough, State.installUpdate, State.fset_keepsMem, State.setBoot_keepsMem]

@[simp ↓] theorem State.loadSlot_keepsMem (src : Nat → ImgSrc) (l : List Nat) : s.keepsMem (s.loadSlot src l).2 := by
  refine iff_enough ?_
  induction l generalizing s with
  | nil => simp +contextual [State.loadSlot]
  | cons x l ih => grind [enough, State.loadSlot, State.setSlotRes_keepsMem]

@[simp ↓] theorem State.enterEnrolment_keepsMem : s.keepsMem s.enterEnrolment := iff_enough (by simp +contextual [State.enterEnrolment])

@[simp ↓] theorem State.takeHeader_keepsMem (x : ImgSrc) (l : List Section) :
    s.keepsMem (s.takeHeader x l) := iff_enough (by simp +contextual [State.takeHeader])

@[simp ↓] theorem State.placeSections_keepsMem (l : List Section) :
    s.keepsMem (s.placeSections l) := iff_enough (by simp +contextual [State.placeSections])

@[simp ↓] theorem State.healthExpose_keepsMem (d t : Nat) (rows : List Nat) (devs : List (Fin 544 × Int)) :
    s.keepsMem (s.healthExpose d t rows devs).2 := iff_enough (by simp +contextual [State.healthExpose])

@[simp ↓] theorem State.healthCard_keepsMem (d t seg : Nat) (diff : Int) (verdict : Nat) :
    s.keepsMem (s.healthCard d t seg diff verdict) := iff_enough (by simp +contextual [State.healthCard])

@[simp ↓] theorem State.healthSegment_keepsMem (d t seg : Nat) (rows : List Nat) (first : Option Int) (fuel : Nat)
    (devs : List (List (Fin 544 × Int))) : s.keepsMem (s.healthSegment d t seg rows first fuel devs).2 := by
  refine iff_enough ?_
  induction fuel generalizing s first devs with
  | zero => simp +contextual [State.healthSegment]
  | succ fuel ih =>
    unfold State.healthSegment
    dsimp only
    split
    · simp +contextual [ih]
    · split <;> simp +contextual

@[simp ↓] theorem State.healthTile_keepsMem (h : Health) (d t : Nat) : s.keepsMem (s.healthTile h d t) := by
  refine iff_enough fun hs => ?_
  unfold State.healthTile
  refine State.memOk_of_ite hs ?_
  refine of_iff_enough (memOk_foldl_snd _ (fun z y hz => ?_) _ _) hs
  simp [hz]

@[simp ↓] theorem State.healthCheck_keepsMem (h : Health) : s.keepsMem (s.healthCheck h) :=
  iff_enough (by simp +contextual [State.healthCheck])

@[simp ↓] theorem State.ledgerBegin_keepsMem : s.keepsMem s.ledgerBegin := iff_enough (by simp +contextual [State.ledgerBegin])

@[simp ↓] theorem State.fieldSteps_keepsMem (h : Health) : s.keepsMem (s.fieldSteps h) :=
  iff_enough (by simp +contextual [State.fieldSteps])

@[simp ↓] theorem State.runImage_keepsMem (l : List Section) : s.keepsMem (s.runImage l) :=
  iff_enough (by simp +contextual [State.runImage])

@[simp ↓] theorem State.startFromFlash_keepsMem (slotErr secErr : Fin 4) (installOk : Bool) (us : Word) (h : Health) :
    s.keepsMem (s.startFromFlash slotErr secErr installOk us h) := by
  refine iff_enough ?_
  grind [enough, State.startFromFlash, State.rset_keepsMem, State.fset_keepsMem, State.setSlotRes_keepsMem, State.installUpdate_keepsMem,
    State.loadSlot_keepsMem, State.enterEnrolment_keepsMem, State.takeHeader_keepsMem, State.placeSections_keepsMem,
    State.fieldSteps_keepsMem, State.runImage_keepsMem]

@[simp ↓] theorem State.startUp_keepsMem (slotErr secErr : Fin 4) (installOk : Bool) (us : Word) (h : Health) :
    s.keepsMem (s.startUp slotErr secErr installOk us h) := iff_enough (by simp +contextual [State.startUp])

@[simp ↓] theorem execFieldSupplyReady_keepsMem (h : Health) : KeepsMem s (execFieldSupplyReady h s) := by
  unfold execFieldSupplyReady
  simp +contextual

/-! ### Die-to-die links (spec/01) -/

@[simp ↓] theorem State.linkLost_keepsMem (l : Nat) : s.keepsMem (s.linkLost l) := iff_enough (by simp +contextual [State.linkLost])

@[simp ↓] theorem execD2dTransferUnit_keepsMem (link : Fin 6) (crcOk : Bool) :
    KeepsMem s (execD2dTransferUnit link crcOk s) := by simp +contextual [execD2dTransferUnit]

/-! ### Issue of bundles (spec/05) -/

@[simp ↓] theorem State.touchOps_keepsMem (n : Nat) (p : Prog) (b : Bundle) (l : List (OpRun × Nat × Desc × Nat × Bool)) :
    s.keepsMem (s.touchOps n p b l).2 := by
  refine iff_enough ?_
  induction l generalizing s with
  | nil => simp +contextual [State.touchOps]
  | cons x l ih => grind [enough, State.touchOps, State.touch_keepsMem, State.suspendOp_keepsMem]

@[simp ↓] theorem State.issueChecks_keepsMem (n : Nat) (p : Prog) (b : Bundle) : s.keepsMem (s.issueChecks n p b).2 := by
  refine iff_enough ?_
  grind [enough, State.issueChecks, State.touchOps_keepsMem]

@[simp ↓] theorem State.failIssue_keepsMem (n : Nat) (p : Prog) (f : Fail) :
    s.keepsMem (s.failIssue n p f) := iff_enough (by simp +contextual [State.failIssue])

@[simp ↓] theorem State.issueNow_keepsMem (n : Nat) (p : Prog) (b : Bundle) : s.keepsMem (s.issueNow n p b) := by
  refine iff_enough ?_
  unfold State.issueNow
  split <;> next h => simp +contextual [keepsMem_of_snd h]

@[simp ↓] theorem execBundleIssue_keepsMem (n : Fin 22) : KeepsMem s (execBundleIssue n s) := by
  rw [execBundleIssue, keepsMem_next]
  intro hs
  dsimp only
  split
  · exact hs
  split
  · exact hs
  refine State.memOk_of_ite hs (State.memOk_of_ite ?_ (by simp [hs]))
  split
  · next h => simp [keepsMem_of_snd h, hs]
  · next h => simp [keepsMem_of_snd h, hs]
  · exact hs

@[simp ↓] theorem State.breakTimed_keepsMem (n : Nat) : s.keepsMem (s.breakTimed n) := iff_enough (by simp +contextual [State.breakTimed])

@[simp ↓] theorem execTimedBundleDue_keepsMem (n : Fin 22) : KeepsMem s (execTimedBundleDue n s) := by
  rw [execTimedBundleDue, keepsMem_next]
  intro hs
  dsimp only
  split
  · exact hs
  refine State.memOk_of_ite hs ?_
  split
  · simp [hs]
  refine State.memOk_of_ite (by simp [hs]) (State.memOk_of_ite (by simp [hs]) ?_)
  split <;> next h => simp [keepsMem_of_snd h, hs]

@[simp ↓] theorem execRpt_keepsMem (n : Fin 22) : KeepsMem s (execRpt n s) := by
  rw [execRpt, keepsMem_next]
  split
  · simp +contextual
  · split <;> simp +contextual

@[simp ↓] theorem State.redSlot_keepsMem (n opc : Nat) (f : Prog → Nat → Nat → Desc → PageMap → State → State) (acc : Acc3)
    (h : ∀ p y k d m u, u.memOk → (f p y k d m u).memOk) : s.keepsMem (s.redSlot n opc f acc) := by
  refine iff_enough fun hs => ?_
  unfold State.redSlot
  dsimp only
  split
  · exact hs
  split
  · exact hs
  refine State.memOk_of_ite hs ?_
  split
  · next h1 => simp [keepsMem_of_snd h1, hs]
  · next h1 =>
    refine h _ _ _ _ _ _ ?_
    simp [keepsMem_of_snd h1, hs]

@[simp ↓] theorem State.redRead_keepsMem (n : Nat) (p : Prog) (h : Nat) (d : Desc) (m : PageMap) (hi : Nat) (k : List Nat → Prog) :
    s.keepsMem (s.redRead n p h d m hi k) := by
  refine iff_enough ?_
  grind [enough, State.redRead, State.setRun_keepsMem, State.readCheck_keepsMem]

@[simp ↓] theorem execRed_keepsMem (n : Fin 22) : KeepsMem s (execRed n s) := by simp +contextual [execRed]
@[simp ↓] theorem execMload_keepsMem (n : Fin 22) : KeepsMem s (execMload n s) := by simp +contextual [execMload]
@[simp ↓] theorem execMstore_keepsMem (n : Fin 22) : KeepsMem s (execMstore n s) := by simp +contextual [execMstore]

@[simp ↓] theorem State.ctrlSlot_keepsMem (n opc : Nat) (f : Prog → Nat → State) (h : ∀ p y, s.memOk → (f p y).memOk) :
    s.keepsMem (s.ctrlSlot n opc f) := by
  refine iff_enough ?_
  grind [enough, State.ctrlSlot]

@[simp ↓] theorem execCtrlEnd_keepsMem (n : Fin 22) : KeepsMem s (execCtrlEnd n s) := by simp +contextual [execCtrlEnd]
@[simp ↓] theorem execCtrlBr_keepsMem (n : Fin 22) : KeepsMem s (execCtrlBr n s) := by simp +contextual [execCtrlBr]
@[simp ↓] theorem execCtrlExpset_keepsMem (n : Fin 22) : KeepsMem s (execCtrlExpset n s) := by simp +contextual [execCtrlExpset]
@[simp ↓] theorem execCtrlMarkset_keepsMem (n : Fin 22) : KeepsMem s (execCtrlMarkset n s) := by simp +contextual [execCtrlMarkset]
@[simp ↓] theorem execCtrlRelease_keepsMem (n : Fin 22) : KeepsMem s (execCtrlRelease n s) := by simp +contextual [execCtrlRelease]
@[simp ↓] theorem execCtrlL1_keepsMem (n : Fin 22) : KeepsMem s (execCtrlL1 n s) := by simp +contextual [execCtrlL1]
@[simp ↓] theorem execCtrlDelay_keepsMem (n : Fin 22) : KeepsMem s (execCtrlDelay n s) := by simp +contextual [execCtrlDelay]

@[simp ↓] theorem State.sheetLeaves_keepsMem (b : List Byte) : s.keepsMem (s.sheetLeaves b) :=
  iff_enough (by simp +contextual [State.sheetLeaves])

@[simp ↓] theorem execCtrlPost_keepsMem (n : Fin 22) : KeepsMem s (execCtrlPost n s) := by
  rw [execCtrlPost, keepsMem_next]
  refine of_iff_enough (State.ctrlSlot_keepsMem _ _ _ _ (fun p y => ?_))
  dsimp only
  split
  · next h1 => simp +contextual [keepsMem_of_snd h1]
  next h1 =>
  split
  · next h2 => simp +contextual [keepsMem_of_snd h2, keepsMem_of_snd h1]
  next h2 =>
  split
  · simp +contextual [keepsMem_of_snd h2, keepsMem_of_snd h1]
  split
  · simp +contextual [keepsMem_of_snd h2, keepsMem_of_snd h1]
  split
  · simp +contextual [keepsMem_of_snd h2, keepsMem_of_snd h1]
  split <;> next h3 => simp +contextual [keepsMem_of_snd h3, keepsMem_of_snd h2, keepsMem_of_snd h1]

@[simp ↓] theorem State.endProgram_keepsMem (n : Nat) (p : Prog) :
    s.keepsMem (s.endProgram n p) := iff_enough (by simp +contextual [State.endProgram])

@[simp ↓] theorem execBundleCommit_keepsMem (n : Fin 22) : KeepsMem s (execBundleCommit n s) := by
  grind [enough, execBundleCommit, State.ring_keepsMem, State.setRun_keepsMem, State.halt_keepsMem, State.endProgram_keepsMem,
    keepsMem_next]

/-! ### The TAP (spec/21) -/

@[simp ↓] theorem State.setTap_keepsMem (x : Tap) : s.keepsMem (s.setTap x) := iff_enough (by simp +contextual [State.setTap])

@[simp ↓] theorem State.scan_keepsMem (ir : Byte) (pins shift : BitVec 21) :
    s.keepsMem (s.scan ir pins shift) := iff_enough (by simp +contextual [State.scan])

@[simp ↓] theorem execTapExtest_keepsMem (pins shift : BitVec 21) :
    KeepsMem s (execTapExtest pins shift s) := by simp +contextual [execTapExtest]

@[simp ↓] theorem execTapSamplePreload_keepsMem (pins shift : BitVec 21) :
    KeepsMem s (execTapSamplePreload pins shift s) := by simp +contextual [execTapSamplePreload]

@[simp ↓] theorem execTapIdcode_keepsMem : KeepsMem s (execTapIdcode s) := by simp +contextual [execTapIdcode]

@[simp ↓] theorem State.bypass_keepsMem (code tdi : Byte) : s.keepsMem (s.bypass code tdi) :=
  iff_enough (by simp +contextual [State.bypass])

@[simp ↓] theorem execTapBypass_keepsMem (code tdi : Byte) : KeepsMem s (execTapBypass code tdi s) := by simp +contextual [execTapBypass]

@[simp ↓] theorem execTapDebugAccess_keepsMem (dmi : Bool) (set : Option (Fin 2 × Word)) :
    KeepsMem s (execTapDebugAccess dmi set s) := by
  unfold execTapDebugAccess
  cases set with
  | none => simp +contextual
  | some x => simp +contextual

@[simp ↓] theorem execTapReset_keepsMem : KeepsMem s (execTapReset s) := by simp +contextual [execTapReset]

/-! ### Every command -/

@[simp ↓] theorem execExternalReset_keepsMem : KeepsMem s (execExternalReset s) := by simp +contextual [execExternalReset]

@[simp ↓] theorem execPowerOnReset_keepsMem (ref supply : Bool) : KeepsMem s (execPowerOnReset ref supply s) := by
  simp +contextual [execPowerOnReset]

@[simp ↓] theorem execRestart_keepsMem (slotErr secErr : Fin 4) (installOk : Bool) (us : Word) (h : Health) :
    KeepsMem s (execRestart slotErr secErr installOk us h s) := by
  rw [execRestart, keepsMem_next]
  intro hs
  split
  · exact hs
  split
  · simp [hs]
  · simp [hs]

theorem exec_keepsMem (c : Instr) : KeepsMem s (exec c s) := by
  cases c <;> simp only [exec] <;> simp

theorem memOk_step {s t : State} (h : step s = .next t) (hs : s.memOk) : t.memOk := by
  cases hqueue : s.pending with
  | nil =>
    obtain rfl : s.tick = t := by simpa [step_of_idle s hqueue] using h
    exact hs
  | cons c rest =>
    obtain ⟨u, hu, hkept⟩ := exec_keepsMem { s with pending := rest } c
    obtain rfl : u = t := by simpa [step, hqueue, hu] using h
    exact hkept hs

/-- Settles O5: an idle step moves TIMEBASE alone; a command is made of operations that keep the canonical forms. -/
theorem stepKeepsCanonicalMemories : Obligations.StepKeepsCanonicalMemories := fun s t hs h =>
  t.memOk_iff_memInv.mp (memOk_step h (s.memOk_iff_memInv.mpr hs))

end Sys2Proof.Machine
end

section
/-! PROOF. The setters of the units in frames, and what they leave readable. -/

namespace Sys2Proof.Machine

variable (s t : State) {l : List Part}

/-! ### Frames -/

@[simp] theorem State.only_setAo_iff (h : .aos ∈ l) (n : Nat) (x : Ao) : s.only (t.setAo n x) l ↔ s.only t l := s.only_aos_iff t h _
@[simp] theorem State.only_setLedger_iff (h : .ledger ∈ l) (x : Ledger) : s.only (t.setLedger x) l ↔ s.only t l := s.only_ledger_iff t h x
@[simp] theorem State.only_setSafe_iff (h : .safe ∈ l) (x : Safe) : s.only (t.setSafe x) l ↔ s.only t l := s.only_safe_iff t h x
@[simp] theorem State.only_setSo_iff (h : .safe ∈ l) (n : Nat) (x : So) : s.only (t.setSo n x) l ↔ s.only t l := s.only_safe_iff t h _
@[simp] theorem State.only_setPwr_iff (h : .pwr ∈ l) (x : Pwr) : s.only (t.setPwr x) l ↔ s.only t l := s.only_pwr_iff t h x
@[simp] theorem State.only_setBoot_iff (h : .boot ∈ l) (x : Boot) : s.only (t.setBoot x) l ↔ s.only t l := s.only_boot_iff t h x
@[simp] theorem State.only_setHosts_iff (h : .hosts ∈ l) (x : Hosts) : s.only (t.setHosts x) l ↔ s.only t l := s.only_hosts_iff t h x
@[simp] theorem State.only_setHostX_iff (h : .hosts ∈ l) (n : Nat) (x : HostX) : s.only (t.setHostX n x) l ↔ s.only t l :=
  s.only_hosts_iff t h _
@[simp] theorem State.only_setImage_iff (h : .hosts ∈ l) (x : Option ImageXfer) : s.only (t.setImage x) l ↔ s.only t l :=
  s.only_hosts_iff t h _
@[simp] theorem State.only_setPasses_iff (h : .hosts ∈ l) (x : List (Nat × Pass)) : s.only (t.setPasses x) l ↔ s.only t l :=
  s.only_hosts_iff t h _
@[simp] theorem State.only_setOrd_iff (h : .hosts ∈ l) (p : Nat) (x : List Pkt) : s.only (t.setOrd p x) l ↔ s.only t l :=
  s.only_hosts_iff t h _
@[simp] theorem State.only_setUrg_iff (h : .hosts ∈ l) (p : Nat) (x : List Pkt) : s.only (t.setUrg p x) l ↔ s.only t l :=
  s.only_hosts_iff t h _
@[simp] theorem State.only_setChn_iff (h : .chn ∈ l) (x : Chn) : s.only (t.setChn x) l ↔ s.only t l := s.only_chn_iff t h x
@[simp] theorem State.only_setPort_iff (h : .chn ∈ l) (p : Nat) (x : Port) : s.only (t.setPort p x) l ↔ s.only t l := s.only_chn_iff t h _
@[simp] theorem State.only_setChan_iff (h : .acq ∈ l) (c : Nat) (x : Chan) : s.only (t.setChan c x) l ↔ s.only t l := s.only_acq_iff t h _
@[simp] theorem State.only_setAcq_iff (h : .acq ∈ l) (n : Nat) (x : AcqStream) : s.only (t.setAcq n x) l ↔ s.only t l :=
  s.only_acq_iff t h _
@[simp] theorem State.only_setRingX_iff (h : .rings ∈ l) (q : Nat) (x : Ring) : s.only (t.setRingX q x) l ↔ s.only t l :=
  s.only_rings_iff t h _
@[simp] theorem State.only_send_iff (h : .tx ∈ l) (p k : Nat) (b : List Byte) : s.only (t.send p k b) l ↔ s.only t l := s.only_tx_iff t h _

/-- An operation with a frame of its own keeps a frame that holds it. -/
theorem State.only_iff_of_onlys {u : State} {k : List Part} (h : t.only u k) (hk : ∀ p, p ∈ k → p ∈ l) : s.only u l ↔ s.only t l := by
  have hl : t.only u l := State.only_mono h hk
  exact ⟨fun hu p hp => p.same_trans (hu p hp) (Part.same_symm (hl p hp)), fun ht => State.only_trans ht hl⟩

/-! ### Reads -/

theorem State.ringX_setRingX_self (q : Nat) (x : Ring) : (s.setRingX q x).ringX q = x := Sparse.get_put_self ..
theorem State.ringX_setRingX_ne {q j : Nat} (h : j ≠ q) (x : Ring) : (s.setRingX q x).ringX j = s.ringX j := Sparse.get_put_ne _ _ _ h
theorem State.port_setPort_self (p : Nat) (x : Port) : (s.setPort p x).port p = x := Sparse.get_put_self ..
theorem State.port_setPort_ne {p q : Nat} (h : q ≠ p) (x : Port) : (s.setPort p x).port q = s.port q := Sparse.get_put_ne _ _ _ h
theorem State.hostX_setHostX_self (h : Nat) (x : HostX) : (s.setHostX h x).hostX h = x := Sparse.get_put_self ..
theorem State.hostX_setHostX_ne {h k : Nat} (hk : k ≠ h) (x : HostX) : (s.setHostX h x).hostX k = s.hostX k := Sparse.get_put_ne _ _ _ hk

end Sys2Proof.Machine
end

section
/-! PROOF. What an analog output drives and shows (spec/16, R450 to R457). -/

namespace Sys2Proof.Machine

variable (s : State)

/-! ### The state of an output -/

theorem State.ao_setAo_self (n : Nat) (x : Ao) : (s.setAo n x).ao n = x := Sparse.get_put_self ..

theorem State.ao_setAo_ne {n m : Nat} (h : m ≠ n) (x : Ao) : (s.setAo n x).ao m = s.ao m := Sparse.get_put_ne _ _ _ h

theorem State.ao_of_only {t : State} {l : List Part} (h : s.only t l) (hl : .aos ∉ l) (n : Nat) : t.ao n = s.ao n :=
  congrArg (Sparse.get (fun _ => Ao.fresh) · n) (h .aos hl)

@[simp] theorem State.only_outCard_iff {t : State} {l : List Part} (hr : .regs ∈ l) (he : .events ∈ l) (hc : .chn ∈ l) (n e : Nat)
    (d : List Byte) : s.only (t.outCard n e d) l ↔ s.only t l := State.only_card_iff s t hr he hc _

/-! ### What an output drives -/

/-- The registers on which an output's state depends (Table 16-3). -/
def aoDriveRegs (n : Nat) : List Nat :=
  [R.ACQ_STAT.at, R.PWR_STAT.at, R.SAFE_STAT.at, R.SYS_D2DSTAT.at, R.OUT_AO_CFG.at n, R.OUT_AO_LO.at n, R.OUT_AO_HI.at n,
   R.OUT_AO_VALUE.at n, R.OUT_AO_OVR.at n, R.OUT_AO_FAIL.at n]

/-- What decides over output `n` is the same in two states, but for the code that FMODE 1 holds. -/
structure State.SameCauses (s t : State) (n : Nat) : Prop where
  regs : ∀ a ∈ aoDriveRegs n, t.rd a = s.rd a
  pwr : t.pwr = s.pwr
  silent : t.aoSilent = s.aoSilent
  breakEnd : (t.ao n).breakEnd = (s.ao n).breakEnd
  timedOut : (t.ao n).timedOut = (s.ao n).timedOut

section
variable {s} {t : State} {n : Nat}

theorem State.SameCauses.aoRange (h : s.SameCauses t n) : t.aoRange n = s.aoRange n := State.fget_of_rd (h.regs _ (by simp [aoDriveRegs, F.OUT_AO_CFG_RANGE]))

theorem State.SameCauses.aoBarred (h : s.SameCauses t n) : t.aoBarred = s.aoBarred := by
  have hsettled : t.flag F.ACQ_STAT_SETTLED = s.flag F.ACQ_STAT_SETTLED := State.flag_of_rd (h.regs _ (List.mem_cons_self ..))
  have hstate : t.fget F.PWR_STAT_STATE = s.fget F.PWR_STAT_STATE := State.fget_of_rd (h.regs _ (by simp [aoDriveRegs, F.PWR_STAT_STATE]))
  simp only [State.aoBarred, hsettled, hstate, h.pwr]

theorem State.SameCauses.aoCauses (h : s.SameCauses t n) : t.aoCauses n = s.aoCauses n := by
  have hsafe : t.fget F.SAFE_STAT_STATE = s.fget F.SAFE_STAT_STATE := State.fget_of_rd (h.regs _ (by simp [aoDriveRegs, F.SAFE_STAT_STATE]))
  have hfsafe : t.flag F.OUT_AO_FAIL_FSAFE n = s.flag F.OUT_AO_FAIL_FSAFE n :=
    State.flag_of_rd (h.regs _ (by simp [aoDriveRegs, F.OUT_AO_FAIL_FSAFE]))
  have hdown : t.fget F.SYS_D2DSTAT_DOWN = s.fget F.SYS_D2DSTAT_DOWN :=
    State.fget_of_rd (h.regs _ (by simp [aoDriveRegs, F.SYS_D2DSTAT_DOWN]))
  simp only [State.aoCauses, State.safeState, State.acqDown, hsafe, hfsafe, hdown, h.pwr, h.silent, h.timedOut]
  rfl

theorem State.SameCauses.aoTargetNow (h : s.SameCauses t n) : t.aoTargetNow n = s.aoTargetNow n := by
  have hlo : t.rget R.OUT_AO_LO n = s.rget R.OUT_AO_LO n := congrArg _ (h.regs _ (by simp [aoDriveRegs]))
  have hhi : t.rget R.OUT_AO_HI n = s.rget R.OUT_AO_HI n := congrArg _ (h.regs _ (by simp [aoDriveRegs]))
  have hen : t.flag F.OUT_AO_OVR_EN n = s.flag F.OUT_AO_OVR_EN n := State.flag_of_rd (h.regs _ (by simp [aoDriveRegs, F.OUT_AO_OVR_EN]))
  have hover : t.fget F.OUT_AO_OVR_VALUE n = s.fget F.OUT_AO_OVR_VALUE n :=
    State.fget_of_rd (h.regs _ (by simp [aoDriveRegs, F.OUT_AO_OVR_VALUE]))
  have hvalue : t.fget F.OUT_AO_VALUE_VALUE n = s.fget F.OUT_AO_VALUE_VALUE n :=
    State.fget_of_rd (h.regs _ (by simp [aoDriveRegs, F.OUT_AO_VALUE_VALUE]))
  simp only [State.aoTargetNow, State.aoValue, h.aoRange, hlo, hhi, hen, hover, hvalue]

theorem State.SameCauses.aoDrive (h : s.SameCauses t n) (hhold : (t.ao n).hold = (s.ao n).hold) : t.aoDrive n = s.aoDrive n := by
  have hmode : t.fget F.OUT_AO_FAIL_FMODE n = s.fget F.OUT_AO_FAIL_FMODE n :=
    State.fget_of_rd (h.regs _ (by simp [aoDriveRegs, F.OUT_AO_FAIL_FMODE]))
  simp only [State.aoDrive, State.aoFailCode, h.aoRange, h.aoBarred, h.aoCauses, h.aoTargetNow, h.breakEnd, hhold, hmode]

end

/-! ### An update -/

/-- The registers that show output `n`. -/
def aoShowRegs (n : Nat) : List Nat := cardRegs ++ [R.OUT_STAT.at, R.OUT_AO_STAT.at n, R.OUT_AO_RBACK.at n]

theorem aoDriveRegs_disjoint_show : ∀ n m : Fin 4, ∀ a ∈ aoDriveRegs n.val, a ∉ aoShowRegs m.val := by decide

/-- The failure action of output `n` is in force. -/
def State.aoFails (s : State) (n : Nat) : Bool := s.aoCauses n != [] && !(s.aoBarred || s.aoRange n == 0)

/-- The first half of an update: the failure action begins or ends. -/
def State.aoReported (s : State) (n : Nat) : State :=
  let x := s.ao n
  let on := bit (s.fget F.OUT_STAT_AOEN) n
  let old := s.fget F.OUT_AO_STAT_FCAUSE n
  let s' := s.setAo n { x with failing := s.aoFails n, hold := if x.failing then x.hold else if on then some x.code else none }
  if s.aoFails n && !x.failing then s'.outCard n 7 [BitVec.ofNat 8 ((s.aoCauses n).headD 0)]
  else if x.failing && !s.aoFails n then
    s'.outCard n 8 [BitVec.ofNat 8 (if bit old 0 then 1 else if bit old 1 then 2 else if s'.pwr.warn then 3 else 4)]
  else s'

/-- FCAUSE as it shows a list of causes. -/
def aoCauseBits (causes : List Nat) : Nat :=
  b2n (causes.contains 1) + 2 * b2n (causes.contains 2) + 4 * b2n (causes.contains 3 || causes.contains 4)

/-- The code in force is noted, with the cycle of its last change; `x` is the output before. -/
def State.aoNoted (s : State) (n : Nat) (x : Ao) : State :=
  s.setAo n { s.ao n with code := (s.aoDrive n).getD 0, codeTb := if s.aoDrive n = some x.code then x.codeTb else s.now }

/-- The three bits of OUT_STAT of output `n`. -/
def State.aoBits (s : State) (n : Nat) (on fail : Bool) : State :=
  ((s.aoBit F.OUT_STAT_AOEN n on).aoBit F.OUT_STAT_AOFAIL n fail).aoBit F.OUT_STAT_AOOVR n (s.flag F.OUT_AO_OVR_EN n)

/-- OUT_AO_STAT of output `n`. -/
def State.aoStatus (s : State) (n code : Nat) (causes : List Nat) : State :=
  let s := (s.fset F.OUT_AO_STAT_CODE code n).setFlag F.OUT_AO_STAT_BREAK ((s.ao n).breakEnd != 0) n
  s.fset F.OUT_AO_STAT_FCAUSE (aoCauseBits causes) n

/-- A disabled output has no readback. -/
def State.aoReadback (s : State) (n : Nat) (on : Bool) : State := if on then s else s.rset R.OUT_AO_RBACK 0 n

theorem State.aoUpdate_eq (n : Nat) : s.aoUpdate n =
    ((((s.aoReported n).aoNoted n (s.ao n)).aoBits n ((s.aoReported n).aoDrive n).isSome (s.aoFails n)).aoStatus n
      (((s.aoReported n).aoDrive n).getD 0) (s.aoCauses n)).aoReadback n ((s.aoReported n).aoDrive n).isSome := rfl

/-- The parts of the state that an update of outputs may change. -/
abbrev aoParts : List Part := [.regs, .chn, .aos, .events]

/-- The output that an update leaves before its code is noted. -/
def State.aoMarked (s : State) (n : Nat) : State :=
  s.setAo n { s.ao n with failing := s.aoFails n, hold := if (s.ao n).failing then (s.ao n).hold else
    (if bit (s.fget F.OUT_STAT_AOEN) n then some (s.ao n).code else none) }

/-- A failure action that begins or ends has a card. -/
theorem State.aoReported_cases (n : Nat) :
    s.aoReported n = s.aoMarked n ∨ ∃ e d, s.aoReported n = (s.aoMarked n).outCard n e d := by
  unfold State.aoReported
  dsimp only
  split
  · exact .inr ⟨_, _, rfl⟩
  · split
    · exact .inr ⟨_, _, rfl⟩
    · exact .inl rfl

theorem State.aoReported_only (n : Nat) : (s.aoMarked n).only (s.aoReported n) [.regs, .chn, .events] := by
  rcases s.aoReported_cases n with h | ⟨e, d, h⟩ <;> simp [h]

theorem State.aoReported_regsOnly (n : Nat) : s.regsOnly (s.aoReported n) cardRegs := by
  rw [State.regsOnly_iff_regsBut]
  rcases s.aoReported_cases n with h | ⟨e, d, h⟩
  · rw [h, State.aoMarked, State.regsBut_setAo]
  · rw [h, State.regsBut_outCard _ (List.Subset.refl _), State.aoMarked, State.regsBut_setAo]

theorem State.ao_aoReported (n m : Nat) : (s.aoReported n).ao m = (s.aoMarked n).ao m := State.ao_of_only _ (s.aoReported_only n) (by simp) m

/-- What follows the report changes registers, and the code and its cycle. -/
theorem State.ao_aoUpdate (n m : Nat) : (s.aoUpdate n).ao m = ((s.aoReported n).aoNoted n (s.ao n)).ao m := by
  have hregs : ((s.aoReported n).aoNoted n (s.ao n)).only (s.aoUpdate n) [.regs] := by
    rw [s.aoUpdate_eq]
    simp [State.aoReadback, State.only_ite, State.aoStatus, State.aoBits, State.aoBit]
  exact State.ao_of_only _ hregs (by simp) m

theorem State.ao_aoUpdate_ne {n m : Nat} (h : m ≠ n) : (s.aoUpdate n).ao m = s.ao m := by
  rw [s.ao_aoUpdate, State.aoNoted, State.ao_setAo_ne _ h, s.ao_aoReported, State.aoMarked, State.ao_setAo_ne _ h]

/-- An update of an output leaves its condition but for the failure action, the held code and the code driven. -/
theorem State.ao_aoUpdate_self (n : Nat) : ∃ failing hold code codeTb,
    (s.aoUpdate n).ao n = { s.ao n with failing := failing, hold := hold, code := code, codeTb := codeTb } := by
  rw [s.ao_aoUpdate, State.aoNoted, State.ao_setAo_self, s.ao_aoReported, State.aoMarked, State.ao_setAo_self]
  exact ⟨_, _, _, _, rfl⟩

theorem State.aoUpdate_only (n : Nat) : s.only (s.aoUpdate n) aoParts := by
  have hreported : s.only (s.aoReported n) aoParts := by
    refine State.only_trans ?_ (State.only_mono (s.aoReported_only n) (by simp))
    simp [State.aoMarked]
  rw [s.aoUpdate_eq]
  simpa [State.aoReadback, State.only_ite, State.aoStatus, State.aoBits, State.aoBit, State.aoNoted] using hreported

theorem State.aoUpdate_regsOnly (n : Nat) : s.regsOnly (s.aoUpdate n) (aoShowRegs n) :=
  State.regsOnly_iff_regsBut.mpr
    (s.regsBut_aoUpdate (List.subset_append_left _ _) (by simp [aoShowRegs]) (by simp [aoShowRegs]) (by simp [aoShowRegs]))

section
variable {s} {n : Fin 4}

/-- An update changes nothing that decides over an output. -/
theorem State.sameCauses_aoUpdate (m : Fin 4) : s.SameCauses (s.aoUpdate n.val) m.val := by
  have honly := s.aoUpdate_only n.val
  have hao : (∃ failing hold code codeTb, (s.aoUpdate n.val).ao m.val =
      { s.ao m.val with failing := failing, hold := hold, code := code, codeTb := codeTb }) := by
    by_cases h : m.val = n.val
    · rw [h]
      exact s.ao_aoUpdate_self n.val
    · rw [s.ao_aoUpdate_ne h]
      exact ⟨_, _, _, _, rfl⟩
  obtain ⟨_, _, _, _, hao⟩ := hao
  exact ⟨fun a ha => s.aoUpdate_regsOnly n.val a (aoDriveRegs_disjoint_show m n a ha), honly .pwr (by simp), honly .aoSilent (by simp),
    by rw [hao], by rw [hao]⟩

theorem State.sameCauses_aoReported : s.SameCauses (s.aoReported n.val) n.val := by
  have hmarked : s.only (s.aoMarked n.val) [.aos] := by simp [State.aoMarked]
  have hreported := s.aoReported_only n.val
  refine ⟨fun a ha => s.aoReported_regsOnly n.val a fun hcard =>
    aoDriveRegs_disjoint_show n n a ha (List.mem_append_left _ hcard), ?_, ?_, ?_, ?_⟩
  · exact (hreported .pwr (by simp)).trans (hmarked .pwr (by simp))
  · exact (hreported .aoSilent (by simp)).trans (hmarked .aoSilent (by simp))
  · rw [s.ao_aoReported, State.aoMarked, State.ao_setAo_self]
  · rw [s.ao_aoReported, State.aoMarked, State.ao_setAo_self]

theorem State.SameCauses.trans_left {s t u : State} {n : Nat} (h : s.SameCauses t n) (k : s.SameCauses u n) : t.SameCauses u n where
  regs a ha := (k.regs a ha).trans (h.regs a ha).symm
  pwr := k.pwr.trans h.pwr.symm
  silent := k.silent.trans h.silent.symm
  breakEnd := k.breakEnd.trans h.breakEnd.symm
  timedOut := k.timedOut.trans h.timedOut.symm

/-- After an update the output drives what the update has found. -/
theorem State.aoDrive_aoUpdate : (s.aoUpdate n.val).aoDrive n.val = (s.aoReported n.val).aoDrive n.val := by
  refine (State.sameCauses_aoReported.trans_left (State.sameCauses_aoUpdate n)).aoDrive ?_
  rw [s.ao_aoUpdate, State.aoNoted, State.ao_setAo_self]

/-- An update of another output leaves what this one drives. -/
theorem State.aoDrive_aoUpdate_ne {m : Fin 4} (h : m ≠ n) : (s.aoUpdate n.val).aoDrive m.val = s.aoDrive m.val :=
  (State.sameCauses_aoUpdate m).aoDrive (by rw [s.ao_aoUpdate_ne (fun hv => h (Fin.ext hv))])

end

/-! ### The status registers -/

/-- The status registers of output `n` show what it drives, its refresh timeout and its break. -/
structure State.ShowsAo (s : State) (n : Nat) : Prop where
  code : s.fget F.OUT_AO_STAT_CODE n = (s.aoDrive n).getD 0 % 65536
  on : bit (s.fget F.OUT_STAT_AOEN) n = (s.aoDrive n).isSome
  timedOut : bit (s.fget F.OUT_AO_STAT_FCAUSE n) 1 = (s.ao n).timedOut
  inBreak : s.flag F.OUT_AO_STAT_BREAK n = ((s.ao n).breakEnd != 0)

theorem bit_setBit : ∀ (b : Bool) (n k : Fin 4) (v : Fin 16),
    bit ((if b then v.val ||| 2 ^ n.val else v.val - (v.val &&& 2 ^ n.val)) % 2 ^ 4) k.val = if k = n then b else bit v.val k.val := by
  decide

theorem State.bit_aoBit (n k : Fin 4) (b : Bool) :
    bit ((s.aoBit F.OUT_STAT_AOEN n.val b).fget F.OUT_STAT_AOEN) k.val = if k = n then b else bit (s.fget F.OUT_STAT_AOEN) k.val := by
  rw [State.aoBit, State.fget_fset_self _ _ _ _ _ (by decide) (by decide)]
  exact bit_setBit b n k ⟨s.fget F.OUT_STAT_AOEN, getField_lt ..⟩

theorem State.fget_aoen_aoBits (n : Nat) (on fail : Bool) :
    (s.aoBits n on fail).fget F.OUT_STAT_AOEN = (s.aoBit F.OUT_STAT_AOEN n on).fget F.OUT_STAT_AOEN := by
  rw [State.aoBits, State.aoBit, State.fget_fset_other _ _ _ _ _ _ (by rfl) (by decide) (by decide) (by decide), State.aoBit,
    State.fget_fset_other _ _ _ _ _ _ (by rfl) (by decide) (by decide) (by decide)]

theorem State.aoStatus_regsOnly (n code : Nat) (causes : List Nat) : s.regsOnly (s.aoStatus n code causes) [R.OUT_AO_STAT.at n] := by
  rw [State.regsOnly_iff_regsBut, State.aoStatus, State.regsBut_fset _ (by simp [F.OUT_AO_STAT_FCAUSE]),
    State.regsBut_setFlag _ (by simp [F.OUT_AO_STAT_BREAK]), State.regsBut_fset _ (by simp [F.OUT_AO_STAT_CODE])]

theorem State.aoReadback_regsOnly (n : Nat) (on : Bool) : s.regsOnly (s.aoReadback n on) [R.OUT_AO_RBACK.at n] := by
  rw [State.regsOnly_iff_regsBut, State.aoReadback]
  cases on
  · exact s.regsBut_rset (by simp) 0
  · rfl

theorem State.code_aoStatus (n code : Nat) (causes : List Nat) : (s.aoStatus n code causes).fget F.OUT_AO_STAT_CODE n = code % 65536 := by
  rw [State.aoStatus, State.fget_fset_other _ _ _ _ _ _ (by rfl) (by decide) (by decide) (by decide),
    State.fget_setFlag_other _ _ _ _ _ _ (by rfl) (by decide) (by decide) (by decide),
    State.fget_fset_self _ _ _ _ _ (by decide) (by decide)]
  rfl

theorem State.break_aoStatus (n code : Nat) (causes : List Nat) :
    (s.aoStatus n code causes).flag F.OUT_AO_STAT_BREAK n = ((s.ao n).breakEnd != 0) := by
  rw [State.aoStatus, State.flag_fset_other _ _ _ _ _ _ (by rfl) (by decide) (by decide) (by decide),
    State.flag_setFlag_self _ _ _ _ _ (by decide) (by decide)]

theorem bit_aoCauseBits (causes : List Nat) : bit (aoCauseBits causes % 2 ^ 3) 1 = causes.contains 2 := by
  unfold aoCauseBits
  cases causes.contains 1 <;> cases causes.contains 2 <;> cases (causes.contains 3 || causes.contains 4) <;> rfl

theorem State.fcause_aoStatus (n code : Nat) (causes : List Nat) :
    bit ((s.aoStatus n code causes).fget F.OUT_AO_STAT_FCAUSE n) 1 = causes.contains 2 := by
  rw [State.aoStatus, State.fget_fset_self _ _ _ _ _ (by decide) (by decide)]
  exact bit_aoCauseBits causes

theorem State.contains_aoCauses (n : Nat) : (s.aoCauses n).contains 2 = (s.ao n).timedOut := by
  unfold State.aoCauses
  cases (s.ao n).timedOut <;> simp

theorem aoStat_ne_rback : ∀ n m : Fin 4, R.OUT_AO_STAT.at n.val ∉ [R.OUT_AO_RBACK.at m.val] := by decide

theorem aoStat_not_mem_show : ∀ m n : Fin 4, m ≠ n → R.OUT_AO_STAT.at m.val ∉ aoShowRegs n.val := by decide

theorem outStat_not_mem : ∀ n : Fin 4, R.OUT_STAT.at ∉ [R.OUT_AO_STAT.at n.val] ∧ R.OUT_STAT.at ∉ [R.OUT_AO_RBACK.at n.val] := by decide

section
variable {s} {n m : Fin 4}

theorem State.fget_aoen_aoUpdate :
    (s.aoUpdate n.val).fget F.OUT_STAT_AOEN =
      (((s.aoReported n.val).aoNoted n.val (s.ao n.val)).aoBit F.OUT_STAT_AOEN n.val ((s.aoReported n.val).aoDrive n.val).isSome).fget
        F.OUT_STAT_AOEN := by
  rw [s.aoUpdate_eq, State.fget_of_rd (State.aoReadback_regsOnly _ _ _ _ (outStat_not_mem n).2),
    State.fget_of_rd (State.aoStatus_regsOnly _ _ _ _ _ (outStat_not_mem n).1), State.fget_aoen_aoBits]

theorem State.showsAo_aoUpdate : (s.aoUpdate n.val).ShowsAo n.val := by
  have hstat := aoStat_ne_rback n n
  obtain ⟨_, _, _, _, hao⟩ := s.ao_aoUpdate_self n.val
  constructor
  · rw [State.aoDrive_aoUpdate, s.aoUpdate_eq, State.fget_of_rd (State.aoReadback_regsOnly _ _ _ _ hstat), State.code_aoStatus]
  · rw [State.aoDrive_aoUpdate, State.fget_aoen_aoUpdate, State.bit_aoBit, if_pos rfl]
  · rw [hao, s.aoUpdate_eq, State.fget_of_rd (State.aoReadback_regsOnly _ _ _ _ hstat), State.fcause_aoStatus, State.contains_aoCauses]
  · have hnoted (on fail : Bool) : (((s.aoReported n.val).aoNoted n.val (s.ao n.val)).aoBits n.val on fail).ao n.val = (s.aoUpdate n.val).ao n.val := by
      rw [s.ao_aoUpdate]
      rfl
    rw [← hnoted, s.aoUpdate_eq, State.flag_of_rd (State.aoReadback_regsOnly _ _ _ _ hstat), State.break_aoStatus]

/-- The update of another output leaves what the status registers show of this one. -/
theorem State.ShowsAo.aoUpdate (h : s.ShowsAo m.val) (hne : m ≠ n) : (s.aoUpdate n.val).ShowsAo m.val := by
  have hv : m.val ≠ n.val := fun hv => hne (Fin.ext hv)
  have hrd : (s.aoUpdate n.val).rd (R.OUT_AO_STAT.at m.val) = s.rd (R.OUT_AO_STAT.at m.val) := by
    exact s.aoUpdate_regsOnly n.val _ (aoStat_not_mem_show m n hne)
  have hen : bit ((s.aoUpdate n.val).fget F.OUT_STAT_AOEN) m.val = bit (s.fget F.OUT_STAT_AOEN) m.val := by
    have hnoted : ((s.aoReported n.val).aoNoted n.val (s.ao n.val)).fget F.OUT_STAT_AOEN = s.fget F.OUT_STAT_AOEN :=
      State.fget_of_rd (s.aoReported_regsOnly n.val _ (by decide))
    rw [State.fget_aoen_aoUpdate, State.bit_aoBit, if_neg hne, hnoted]
  constructor
  · rw [State.fget_of_rd hrd, State.aoDrive_aoUpdate_ne hne, h.code]
  · rw [hen, State.aoDrive_aoUpdate_ne hne, h.on]
  · rw [State.fget_of_rd hrd, s.ao_aoUpdate_ne hv, h.timedOut]
  · rw [State.flag_of_rd hrd, s.ao_aoUpdate_ne hv, h.inBreak]

end

end Sys2Proof.Machine
end

section
/-! PROOF. The obligation of spec/16 and spec/17 on analog outputs and hall passes (R450 to R457, R482). -/

namespace Sys2Proof.Machine

variable (s : State)

/-! ### Updates of every output -/

theorem State.aoUpdateAll_only : s.only s.aoUpdateAll aoParts :=
  State.only_trans (State.only_trans (State.only_trans (s.aoUpdate_only 0) (State.aoUpdate_only _ 1)) (State.aoUpdate_only _ 2))
    (State.aoUpdate_only _ 3)

theorem State.showsAo_aoUpdateAll (n : Fin 4) : s.aoUpdateAll.ShowsAo n.val := by
  change ((((s.aoUpdate (0 : Fin 4).val).aoUpdate (1 : Fin 4).val).aoUpdate (2 : Fin 4).val).aoUpdate (3 : Fin 4).val).ShowsAo n.val
  by_cases h3 : n = 3
  · rw [h3]; exact State.showsAo_aoUpdate
  refine State.ShowsAo.aoUpdate ?_ h3
  by_cases h2 : n = 2
  · rw [h2]; exact State.showsAo_aoUpdate
  refine State.ShowsAo.aoUpdate ?_ h2
  by_cases h1 : n = 1
  · rw [h1]; exact State.showsAo_aoUpdate
  refine State.ShowsAo.aoUpdate ?_ h1
  obtain rfl : n = 0 := by omega
  exact State.showsAo_aoUpdate

/-! ### The commands of an output -/

section
variable {s} {n : Fin 4}

theorem State.fget_aoUpdate {f : Fld} (hf : f.reg.at n.val ∈ aoDriveRegs n.val) : (s.aoUpdate n.val).fget f n.val = s.fget f n.val :=
  State.fget_of_rd (s.aoUpdate_regsOnly n.val _ (aoDriveRegs_disjoint_show n n _ hf))

theorem State.flag_aoUpdate {f : Fld} (hf : f.reg.at n.val ∈ aoDriveRegs n.val) : (s.aoUpdate n.val).flag f n.val = s.flag f n.val :=
  State.flag_of_rd (s.aoUpdate_regsOnly n.val _ (aoDriveRegs_disjoint_show n n _ hf))

theorem execAoRangeBreakEnd_of_due (h : (s.ao n.val).breakEnd ≠ 0) (hdue : (s.ao n.val).breakEnd ≤ s.now + 1) :
    execAoRangeBreakEnd n s = .next ((s.setAo n.val { s.ao n.val with breakEnd := 0 }).aoUpdate n.val) := by
  simp only [execAoRangeBreakEnd]
  rw [if_pos ⟨h, hdue⟩]

theorem execAoRefreshTimeout_of_due (htmo : s.fget F.OUT_AO_FAIL_TMO n.val ≠ 0) (hsettled : s.flag F.ACQ_STAT_SETTLED = true)
    (hovr : s.flag F.OUT_AO_OVR_EN n.val = false)
    (hdue : (s.ao n.val).refresh + s.fget F.OUT_AO_FAIL_TMO n.val * 1000000 ≤ s.now) :
    execAoRefreshTimeout n s = .next ((s.setAo n.val { s.ao n.val with timedOut := true }).aoUpdate n.val) := by
  simp only [execAoRefreshTimeout]
  rw [if_pos ⟨htmo, hsettled, hovr, hdue⟩]

/-- Output `n` with VALUE written, before it follows. -/
def State.valueWritten (s : State) (n : Nat) (v : Word) : State :=
  let s := s.fset F.OUT_AO_VALUE_VALUE (getField v 0 16) n
  s.setAo n { s.ao n with refresh := s.now, timedOut := false, paused := if (s.ao n).paused = 0 then 0 else s.now + 1 }

theorem execAoValueWrite_of_homeReq {r : Req} (hr : s.homeReq r) (v : Word) :
    execAoValueWrite r n v s = .next ((s.valueWritten n.val v).aoUpdate n.val) := by
  rw [execAoValueWrite, State.asHome_of_homeReq hr]
  rfl

theorem State.value_valueWritten (v : Word) : (s.valueWritten n.val v).fget F.OUT_AO_VALUE_VALUE n.val = getField v 0 16 :=
  (State.fget_fset_self s F.OUT_AO_VALUE_VALUE _ _ _ (by decide) (by decide)).trans (Nat.mod_eq_of_lt (getField_lt ..))

theorem State.valueWritten_only (v : Word) : s.only (s.valueWritten n.val v) aoParts := by simp [State.valueWritten]

/-- Output `n` with its override written, before it follows. -/
def State.overrideWritten (s : State) (n : Nat) (en : Bool) (v : Nat) (pass : Bool) : State :=
  let x := s.ao n
  let was := s.flag F.OUT_AO_OVR_EN n
  let s := (s.setFlag F.OUT_AO_OVR_EN en n).fset F.OUT_AO_OVR_VALUE v n
  let x := if en && !was then { x with paused := s.now + 1 }
    else if was && !en then { x with refresh := x.refresh + (s.now + 1 - x.paused), paused := 0 } else x
  s.setAo n { x with underPass := pass && en }

theorem State.setOverride_eq (n : Nat) (en : Bool) (v : Nat) (pass : Bool) :
    s.setOverride n en v pass = (s.overrideWritten n en v pass).aoUpdate n := rfl

theorem execAoOverrideWrite_of_ok {r : Req} (hon : s.reqOn r = true) (hen : s.ctxEnabled (s.ctxOf r) = true)
    (hok : s.ctxOf r = 0 ∨ s.agentHolds r 1 = true) (v : Word) : execAoOverrideWrite r n v s =
      .next ((s.overrideWritten n.val (bit v.toNat 31) (getField v 0 16) (s.agentHolds r 1)).aoUpdate n.val) := by
  have hpass : (s.ctxOf r == 0 || s.agentHolds r 1) = true := by simpa using hok
  change Host.Outcome.next (s.asCtx r _ _ (fun c => c == 0 || s.agentHolds r 1)
    (fun s' => s'.setOverride n.val (bit v.toNat 31) (getField v 0 16) (s.agentHolds r 1))) = _
  rw [State.asCtx_of_ok _ _ _ hon hen hpass, State.setOverride_eq]

theorem State.overrideWritten_only (n : Nat) (en : Bool) (v : Nat) (pass : Bool) : s.only (s.overrideWritten n en v pass) aoParts := by
  simp [State.overrideWritten]

theorem State.en_overrideWritten (n : Nat) (en : Bool) (v : Nat) (pass : Bool) :
    (s.overrideWritten n en v pass).flag F.OUT_AO_OVR_EN n = en := by
  change ((s.setFlag F.OUT_AO_OVR_EN en n).fset F.OUT_AO_OVR_VALUE v n).flag F.OUT_AO_OVR_EN n = en
  rw [State.flag_fset_other _ _ _ _ _ _ (by rfl) (by decide) (by decide) (by decide),
    State.flag_setFlag_self _ _ _ _ _ (by decide) (by decide)]

theorem State.value_overrideWritten (n : Nat) (en : Bool) (v : Nat) (pass : Bool) :
    (s.overrideWritten n en v pass).fget F.OUT_AO_OVR_VALUE n = v % 2 ^ 16 :=
  State.fget_fset_self (s.setFlag F.OUT_AO_OVR_EN en n) F.OUT_AO_OVR_VALUE _ _ _ (by decide) (by decide)

theorem State.underPass_overrideWritten (n : Nat) (en : Bool) (v : Nat) (pass : Bool) :
    ((s.overrideWritten n en v pass).ao n).underPass = (pass && en) := by
  rw [State.overrideWritten, State.ao_setAo_self]

theorem State.ao_overrideWritten_ne {n m : Nat} (h : m ≠ n) (en : Bool) (v : Nat) (pass : Bool) :
    (s.overrideWritten n en v pass).ao m = s.ao m :=
  State.ao_setAo_ne _ h _

end

/-! ### Monitoring (R457) -/

section
variable {s} {n k : Nat} {f : Fld} {cond : Bool} {d : List Byte}

theorem State.flag_setAo (x : Ao) (g : Fld) (m : Nat) : (s.setAo n x).flag g m = s.flag g m := rfl

/-- The cycle noted from which a condition has differed from its flag. -/
def State.noteSince (s : State) (n k v : Nat) : State :=
  s.setAo n { s.ao n with since := Sparse.put (fun _ => 0) (s.ao n).since k v }

theorem State.aoFlag_cases : (s.aoFlag n k f cond d = s ∧ cond ≠ s.flag f n) ∨
    (∃ v, s.aoFlag n k f cond d = s.noteSince n k v ∧ (v = 0 ∧ cond = s.flag f n ∨ cond ≠ s.flag f n)) ∨
    ∃ e, s.aoFlag n k f cond d = ((s.noteSince n k 0).setFlag f cond n).outCard n e d := by
  unfold State.aoFlag
  dsimp only
  split
  · next h => exact .inr (.inl ⟨0, rfl, .inl ⟨rfl, h⟩⟩)
  next h =>
  split
  · exact .inr (.inl ⟨_, rfl, .inr h⟩)
  · split
    · exact .inr (.inr ⟨_, rfl⟩)
    · exact .inl ⟨rfl, h⟩

theorem State.aoFlag_only : s.only (s.aoFlag n k f cond d) aoParts := by
  rcases State.aoFlag_cases (s := s) (n := n) (k := k) (f := f) (cond := cond) (d := d) with ⟨h, -⟩ | ⟨v, h, -⟩ | ⟨e, h⟩
  · rw [h]
    exact s.only_refl _
  · simp [h, State.noteSince]
  · simp [h, State.noteSince]

theorem State.aoFlag_regsBut {l : List Nat} (hcard : cardRegs ⊆ l) (hf : f.reg.at n ∈ l) :
    (s.aoFlag n k f cond d).regsBut l = s.regsBut l := by
  rcases State.aoFlag_cases (s := s) (n := n) (k := k) (f := f) (cond := cond) (d := d) with ⟨h, -⟩ | ⟨v, h, -⟩ | ⟨e, h⟩
  · rw [h]
  · rw [h, State.noteSince, State.regsBut_setAo]
  · rw [h, State.regsBut_outCard _ hcard, State.regsBut_setFlag _ hf, State.noteSince, State.regsBut_setAo]

/-- A condition that has held for 10 ms is shown by its flag. -/
theorem State.flag_aoFlag_of_held (hw : f.lo + f.width ≤ 32 ∧ 0 < f.width) (hf : f.reg.at n ∉ cardRegs)
    (hsince : Sparse.get (fun _ => 0) (s.ao n).since k ≠ 0) (hheld : Sparse.get (fun _ => 0) (s.ao n).since k + 10000000 ≤ s.now + 1) :
    (s.aoFlag n k f cond d).flag f n = cond := by
  unfold State.aoFlag
  dsimp only
  split
  · next h => exact h.symm
  · rw [State.outCard, State.flag_of_rd (State.rd_card _ hf _),
      State.flag_setFlag_self _ _ _ _ _ hw.1 hw.2]

/-- The other flags of a status register stay. -/
theorem State.flag_aoFlag_other {g : Fld} (hreg : g.reg = f.reg) (hw : f.lo + f.width ≤ 32 ∧ 0 < f.width)
    (hd : g.lo + g.width ≤ f.lo ∨ f.lo + f.width ≤ g.lo) (hg : g.reg.at n ∉ cardRegs) :
    (s.aoFlag n k f cond d).flag g n = s.flag g n := by
  rcases State.aoFlag_cases (s := s) (n := n) (k := k) (f := f) (cond := cond) (d := d) with ⟨h, -⟩ | ⟨v, h, -⟩ | ⟨e, h⟩
  · rw [h]
  · rw [h]
    rfl
  · rw [h, State.outCard, State.flag_of_rd (State.rd_card _ hg _), State.flag_setFlag_other _ _ _ _ _ _ hreg hw.1 hw.2 hd]
    rfl

end

/-- What the monitor does with a converter code in force, the readback stored. -/
def State.monitored (s : State) (i code : Nat) (rback : Word) (limit : Bool) : State :=
  let range := s.aoRange i
  let sp := aoSpan range
  let target : Int := if (s.ao i).failing then sp.1 + (code : Int) * (sp.2 - sp.1) / 65536 else s.aoTargetNow i
  let rb := leBytes 4 rback.toNat
  let s := s.aoFlag i 0 F.OUT_AO_STAT_OPEN (limit && decide (3 ≤ range)) rb
  let s := s.aoFlag i 1 F.OUT_AO_STAT_OVLD (limit && decide (range ≤ 2)) rb
  if s.flag F.OUT_AO_STAT_OPEN i ∨ s.flag F.OUT_AO_STAT_OVLD i ∨ s.now < (s.ao i).codeTb + 1000000 then s.noteSince i 2 0
  else s.aoFlag i 2 F.OUT_AO_STAT_DEV (decide ((sp.2 - sp.1) < 200 * ((toSigned 32 rback.toNat - target).natAbs : Int)))
    (rb ++ leBytes 4 (ofSigned 32 target))

theorem execAoMonitor_eq (n : Fin 4) (rback : Word) (limit : Bool) : execAoMonitor n rback limit s = .next
    (match s.aoDrive n.val with
     | none => s.rset R.OUT_AO_RBACK 0 n.val
     | some code => (s.rset R.OUT_AO_RBACK rback.toNat n.val).monitored n.val code rback limit) := rfl

theorem State.monitored_only (i code : Nat) (rback : Word) (limit : Bool) : s.only (s.monitored i code rback limit) aoParts := by
  have hflags (c c' : Bool) (d : List Byte) :
      s.only ((s.aoFlag i 0 F.OUT_AO_STAT_OPEN c d).aoFlag i 1 F.OUT_AO_STAT_OVLD c' d) aoParts :=
    State.only_trans State.aoFlag_only State.aoFlag_only
  unfold State.monitored
  dsimp only
  split
  · simpa [State.noteSince] using hflags _ _ _
  · exact State.only_trans (hflags _ _ _) State.aoFlag_only

theorem State.monitored_regsBut (i code : Nat) (rback : Word) (limit : Bool) :
    (s.monitored i code rback limit).regsBut (cardRegs ++ [R.OUT_AO_STAT.at i]) = s.regsBut (cardRegs ++ [R.OUT_AO_STAT.at i]) := by
  have hmem (f : Fld) (hf : f.reg = R.OUT_AO_STAT) : f.reg.at i ∈ cardRegs ++ [R.OUT_AO_STAT.at i] := by simp [hf]
  have hcard := List.subset_append_left cardRegs [R.OUT_AO_STAT.at i]
  have hflags (c c' : Bool) (d : List Byte) : ((s.aoFlag i 0 F.OUT_AO_STAT_OPEN c d).aoFlag i 1 F.OUT_AO_STAT_OVLD c' d).regsBut
      (cardRegs ++ [R.OUT_AO_STAT.at i]) = s.regsBut (cardRegs ++ [R.OUT_AO_STAT.at i]) := by
    rw [State.aoFlag_regsBut hcard (hmem F.OUT_AO_STAT_OVLD rfl), State.aoFlag_regsBut hcard (hmem F.OUT_AO_STAT_OPEN rfl)]
  unfold State.monitored
  dsimp only
  split
  · rw [State.noteSince, State.regsBut_setAo, hflags]
  · rw [State.aoFlag_regsBut hcard (hmem F.OUT_AO_STAT_DEV rfl), hflags]

theorem aoStat_rback_apart : ∀ n : Fin 4, R.OUT_AO_STAT.at n.val ∉ cardRegs ∧
    R.OUT_AO_RBACK.at n.val ∉ cardRegs ++ [R.OUT_AO_STAT.at n.val] := by decide

theorem State.open_monitored {s : State} {n : Fin 4} (hrange : 3 ≤ s.aoRange n.val)
    (hsince : Sparse.get (fun _ => 0) (s.ao n.val).since 0 ≠ 0)
    (hheld : Sparse.get (fun _ => 0) (s.ao n.val).since 0 + 10000000 ≤ s.now + 1) (code : Nat) (rback : Word) :
    (s.monitored n.val code rback true).flag F.OUT_AO_STAT_OPEN n.val = true := by
  have hstat := (aoStat_rback_apart n).1
  have hflags (c' : Bool) (d : List Byte) : ((s.aoFlag n.val 0 F.OUT_AO_STAT_OPEN true d).aoFlag n.val 1 F.OUT_AO_STAT_OVLD c' d).flag
      F.OUT_AO_STAT_OPEN n.val = true := by
    rw [State.flag_aoFlag_other (by rfl) (by decide) (by decide) hstat, State.flag_aoFlag_of_held (by decide) hstat hsince hheld]
  unfold State.monitored
  simp only [decide_eq_true hrange, Bool.true_and]
  split
  · rw [State.noteSince, State.flag_setAo, hflags]
  · rw [State.flag_aoFlag_other (by rfl) (by decide) (by decide) hstat, hflags]

end Sys2Proof.Machine
end

section
/-! PROOF. Hall passes, what ends with them (spec/17, R482), and the obligation on outputs and passes. -/

namespace Sys2Proof.Machine

variable (s : State)

/-! ### The list of leases -/

theorem State.passHolder_of_only {s t : State} {l : List Part} (h : s.only t l) (hl : .hosts ∉ l) (q : Nat) :
    t.passHolder q = s.passHolder q := by
  have hhosts : t.hosts = s.hosts := h .hosts hl
  rw [State.passHolder, hhosts, State.passHolder]

theorem find?_filter_ne {α : Type} (l : List (Nat × α)) {p q : Nat} (h : q ≠ p) :
    (l.filter (fun x => x.1 != p)).find? (fun x => x.1 == q) = l.find? (fun x => x.1 == q) := by
  rw [List.find?_filter]
  congr 1
  funext x
  by_cases hx : x.1 = q <;> simp [hx, h]

theorem find?_filter_self {α : Type} (l : List (Nat × α)) (p : Nat) : (l.filter (fun x => x.1 != p)).find? (fun x => x.1 == p) = none := by
  simp [List.find?_filter]

/-! ### A pass is taken -/

theorem State.syncPass_of_held {p h : Nat} (hold : s.passHolder p = some h) :
    s.syncPass p = (s.setFlag F.HOST_PASS_HELD true p).fset F.HOST_PASS_HOLDER h p := by rw [State.syncPass, hold]

theorem State.syncPass_of_free {p : Nat} (hold : s.passHolder p = none) :
    s.syncPass p = (s.setFlag F.HOST_PASS_HELD false p).fset F.HOST_PASS_HOLDER 0 p := by rw [State.syncPass, hold]

/-- The leases with pass `p` given to `holder`. -/
def State.leases (s : State) (p holder secs : Nat) : List (Nat × Pass) :=
  s.hosts.passes.filter (fun x => x.1 != p) ++ [(p, ⟨holder, s.now + secs * 1000000000⟩)]

theorem State.find?_leases (p holder secs : Nat) :
    (s.leases p holder secs).find? (fun x => x.1 == p) = some (p, ⟨holder, s.now + secs * 1000000000⟩) := by
  rw [State.leases, List.find?_append, find?_filter_self]
  simp

theorem State.find?_leases_ne {p q : Nat} (h : q ≠ p) (holder secs : Nat) :
    (s.leases p holder secs).find? (fun x => x.1 == q) = s.hosts.passes.find? (fun x => x.1 == q) := by
  rw [State.leases, List.find?_append, find?_filter_ne _ h]
  simp [Ne.symm h]

theorem State.takePass_eq (p holder secs : Nat) : s.takePass p holder secs =
    ((s.setPasses (s.leases p holder secs)).setFlag F.HOST_PASS_HELD true p).fset F.HOST_PASS_HOLDER holder p := by
  refine State.syncPass_of_held _ ?_
  rw [State.passHolder]
  exact congrArg _ (s.find?_leases p holder secs)

theorem execHallPassAcquireHome_of_free {s : State} {r : Req} {v : Word} (hr : s.homeReq r) (hsecs : getField v 0 16 ≠ 0)
    (hgive : bit v.toNat 30 = false) (hfree : s.passFree (getField v 16 3) 0 = true) :
    execHallPassAcquireHome r v s = .next (s.takePass (getField v 16 3) 0 (getField v 0 16)) := by
  have hlow {lo w : Nat} (h : lo + w ≤ 31) : getField (setField v 31 1 1) lo w = getField v lo w := getField_setField_bit31 v 1 h
  have h30 : bit (setField v 31 1 1).toNat 30 = false := by
    rw [← hgive]
    exact congrArg (· == 1) (hlow (lo := 30) (w := 1) (by decide))
  rw [execHallPassAcquireHome, State.asHome_of_homeReq hr, State.writePassAcq, hlow (by decide), hlow (by decide), h30,
    bit_setField_one v (by decide)]
  simp [hsecs, hfree]

theorem State.takePass_only (p holder secs : Nat) : s.only (s.takePass p holder secs) [.regs, .hosts] := by
  simp [State.takePass_eq, State.setPasses]

theorem State.takePass_regsOnly (p holder secs : Nat) : s.regsOnly (s.takePass p holder secs) [R.HOST_PASS.at p] := by
  rw [State.regsOnly_iff_regsBut, State.takePass_eq, State.regsBut_fset _ (by simp [F.HOST_PASS_HOLDER]),
    State.regsBut_setFlag _ (by simp [F.HOST_PASS_HELD])]
  rfl

theorem State.held_takePass (p holder secs : Nat) : (s.takePass p holder secs).flag F.HOST_PASS_HELD p = true := by
  rw [State.takePass_eq, State.flag_fset_other _ _ _ _ _ _ (by rfl) (by decide) (by decide) (by decide),
    State.flag_setFlag_self _ _ _ _ _ (by decide) (by decide)]

theorem State.holder_takePass_home (p secs : Nat) : (s.takePass p 0 secs).fget F.HOST_PASS_HOLDER p = 0 := by
  rw [State.takePass_eq, State.fget_fset_self _ _ _ _ _ (by decide) (by decide), Nat.zero_mod]

theorem State.passHolder_takePass_ne {p q : Nat} (h : q ≠ p) (holder secs : Nat) :
    (s.takePass p holder secs).passHolder q = s.passHolder q := by
  rw [State.takePass_eq]
  exact congrArg (Option.map _) (s.find?_leases_ne h holder secs)

/-! ### Overrides under a pass -/

/-- Output `n`'s override ends if it was set under pass 1. -/
def State.dropOverride (s : State) (n : Nat) : State :=
  if (s.ao n).underPass then s.setOverride n false (s.fget F.OUT_AO_OVR_VALUE n) false else s

/-- The registers that the end of output `n`'s override changes. -/
def overrideRegs (n : Nat) : List Nat := aoShowRegs n ++ [R.OUT_AO_OVR.at n]

theorem State.dropOverride_only (n : Nat) : s.only (s.dropOverride n) aoParts := by
  unfold State.dropOverride
  split
  · rw [State.setOverride_eq]
    exact State.only_trans (s.overrideWritten_only n _ _ _) (State.aoUpdate_only _ n)
  · exact s.only_refl _

theorem State.setOverride_regsOnly (n : Nat) (en : Bool) (v : Nat) (pass : Bool) :
    s.regsOnly (s.setOverride n en v pass) (overrideRegs n) := by
  intro a ha
  have hshow : a ∉ aoShowRegs n := fun h => ha (List.mem_append_left _ h)
  have hovr : a ≠ R.OUT_AO_OVR.at n := fun h => ha (List.mem_append_right _ (List.mem_singleton.mpr h))
  rw [State.setOverride_eq, State.aoUpdate_regsOnly _ n a hshow]
  exact (State.rd_fset_ne _ F.OUT_AO_OVR_VALUE _ _ _ _ hovr).trans (State.rd_setFlag_ne _ F.OUT_AO_OVR_EN _ _ _ _ hovr)

theorem State.dropOverride_regsOnly (n : Nat) : s.regsOnly (s.dropOverride n) (overrideRegs n) := by
  unfold State.dropOverride
  split
  · exact s.setOverride_regsOnly n _ _ _
  · exact fun _ _ => rfl

theorem ovr_not_mem_overrideRegs : ∀ k n : Fin 4, k ≠ n → R.OUT_AO_OVR.at k.val ∉ overrideRegs n.val := by decide

theorem State.ovr_setOverride {s : State} (n : Fin 4) (en : Bool) (v : Nat) (pass : Bool) :
    (s.setOverride n.val en v pass).flag F.OUT_AO_OVR_EN n.val = en := by
  rw [State.setOverride_eq, State.flag_aoUpdate (by simp [aoDriveRegs, F.OUT_AO_OVR_EN]), State.en_overrideWritten]

/-- An override that has ended, or that was not in force, stays so. -/
theorem State.ovr_dropOverride_of_off {k : Fin 4} (h : s.flag F.OUT_AO_OVR_EN k.val = false) (n : Fin 4) :
    (s.dropOverride n.val).flag F.OUT_AO_OVR_EN k.val = false := by
  by_cases hk : k = n
  · subst hk
    unfold State.dropOverride
    split
    · exact State.ovr_setOverride k _ _ _
    · exact h
  · rw [State.flag_of_rd (s.dropOverride_regsOnly n.val _ (ovr_not_mem_overrideRegs k n hk)), h]

theorem State.ovr_dropOverride_self {n : Fin 4} (h : (s.ao n.val).underPass = true) :
    (s.dropOverride n.val).flag F.OUT_AO_OVR_EN n.val = false := by
  rw [State.dropOverride, if_pos h]
  exact State.ovr_setOverride n _ _ _

theorem State.ao_dropOverride_ne {n k : Nat} (h : k ≠ n) : (s.dropOverride n).ao k = s.ao k := by
  unfold State.dropOverride
  split
  · rw [State.setOverride_eq, State.ao_aoUpdate_ne _ h, State.ao_overrideWritten_ne h]
  · rfl

/-- The overrides of all outputs that were set under pass 1 end. -/
def State.dropOverrides (s : State) : State := (List.range 4).foldl (fun s n => s.dropOverride n) s

theorem State.dropOverrides_eq : s.dropOverrides = (((s.dropOverride (0 : Fin 4).val).dropOverride (1 : Fin 4).val).dropOverride
    (2 : Fin 4).val).dropOverride (3 : Fin 4).val := rfl

theorem State.dropOverrides_only : s.only s.dropOverrides aoParts :=
  State.only_trans (State.only_trans (State.only_trans (s.dropOverride_only 0) (State.dropOverride_only _ 1)) (State.dropOverride_only _ 2))
    (State.dropOverride_only _ 3)

theorem State.rd_dropOverrides {a : Nat} (h : ∀ n : Fin 4, a ∉ overrideRegs n.val) : s.dropOverrides.rd a = s.rd a := by
  rw [State.dropOverrides_eq, State.dropOverride_regsOnly _ _ a (h 3), State.dropOverride_regsOnly _ _ a (h 2),
    State.dropOverride_regsOnly _ _ a (h 1), State.dropOverride_regsOnly _ _ a (h 0)]

theorem State.ovr_dropOverrides {k : Fin 4} (h : (s.ao k.val).underPass = true) : s.dropOverrides.flag F.OUT_AO_OVR_EN k.val = false := by
  have hkeep {u : State} {k : Fin 4} (hu : (u.ao k.val).underPass = true) {n : Fin 4} (hn : k.val ≠ n.val) :
      ((u.dropOverride n.val).ao k.val).underPass = true := by rwa [u.ao_dropOverride_ne hn]
  have hoff {u : State} {k : Fin 4} (hu : u.flag F.OUT_AO_OVR_EN k.val = false) (n : Fin 4) := u.ovr_dropOverride_of_off hu n
  rw [State.dropOverrides_eq]
  obtain rfl | rfl | rfl | rfl : k = 0 ∨ k = 1 ∨ k = 2 ∨ k = 3 := by omega
  · exact hoff (hoff (hoff (State.ovr_dropOverride_self _ h) 1) 2) 3
  · exact hoff (hoff (State.ovr_dropOverride_self _ (hkeep h (n := 0) (by decide))) 2) 3
  · exact hoff (State.ovr_dropOverride_self _ (hkeep (hkeep h (n := 0) (by decide)) (n := 1) (by decide))) 3
  · exact State.ovr_dropOverride_self _ (hkeep (hkeep (hkeep h (n := 0) (by decide)) (n := 1) (by decide)) (n := 2) (by decide))

/-! ### A pass ends -/

/-- Pass `p` is free and shown so. -/
def State.freedPass (s : State) (p : Nat) : State :=
  ((s.setPasses (s.hosts.passes.filter (fun x => x.1 != p))).setFlag F.HOST_PASS_HELD false p).fset F.HOST_PASS_HOLDER 0 p

/-- The tariff override that was set under pass 0 ends. -/
def State.dropTovr (s : State) : State := if s.ledger.underPass then s.setTovr false (s.fget F.LDG_TOVR_TARIFF) false else s

theorem State.endPass_of_held {s : State} {p : Nat} (h : s.passHolder p ≠ none) :
    s.endPass p = if p = 0 then (s.freedPass p).dropTovr else if p = 1 then (s.freedPass p).dropOverrides else s.freedPass p := by
  have hsync : (s.setPasses (s.hosts.passes.filter (fun x => x.1 != p))).syncPass p = s.freedPass p := by
    refine State.syncPass_of_free _ ?_
    exact congrArg (Option.map _) (find?_filter_self s.hosts.passes p)
  rw [State.endPass, if_neg h]
  dsimp only
  rw [hsync]
  by_cases h0 : p = 0
  · subst h0
    simp only [true_and, if_true, if_neg (show ¬(0 = 1) by decide)]
    rfl
  · simp only [h0, false_and, if_false]
    rfl

/-- What the end of pass `p` leaves and what it ends. -/
structure State.PassEnded (s t : State) (p : Nat) : Prop where
  free : t.passHolder p = none
  shown : t.flag F.HOST_PASS_HELD p = false
  others : ∀ q, q ≠ p → t.passHolder q = s.passHolder q
  tariff : p = 0 → s.ledger.underPass = true → t.flag F.LDG_TOVR_EN = false
  outputs : p = 1 → ∀ k, k < 4 → (s.ao k).underPass = true → t.flag F.OUT_AO_OVR_EN k = false
  only : s.only t [.regs, .chn, .aos, .ledger, .hosts, .events]

theorem State.held_freedPass (p : Nat) : (s.freedPass p).flag F.HOST_PASS_HELD p = false := by
  rw [State.freedPass, State.flag_fset_other _ _ _ _ _ _ (by rfl) (by decide) (by decide) (by decide),
    State.flag_setFlag_self _ _ _ _ _ (by decide) (by decide)]

theorem State.freedPass_only (p : Nat) : s.only (s.freedPass p) [.regs, .hosts] := by simp [State.freedPass, State.setPasses]

theorem State.passHolder_freedPass (p : Nat) : (s.freedPass p).passHolder p = none :=
  congrArg (Option.map _) (find?_filter_self s.hosts.passes p)

theorem State.passHolder_freedPass_ne {p q : Nat} (h : q ≠ p) : (s.freedPass p).passHolder q = s.passHolder q :=
  congrArg (Option.map _) (find?_filter_ne s.hosts.passes h)

theorem State.dropTovr_only : s.only s.dropTovr [.regs, .ledger] := by
  unfold State.dropTovr
  split
  · simp [State.setTovr]
  · exact s.only_refl _

theorem State.tovr_dropTovr {s : State} (h : s.ledger.underPass = true) : s.dropTovr.flag F.LDG_TOVR_EN = false := by
  rw [State.dropTovr, if_pos h]
  change (((s.setFlag F.LDG_TOVR_EN false).fset F.LDG_TOVR_TARIFF _).setFlag F.LDG_STAT_OVR false).flag F.LDG_TOVR_EN = false
  rw [State.flag_setFlag_ne _ _ _ _ _ _ _ _ (by decide), State.flag_fset_other _ _ _ _ _ _ (by rfl) (by decide) (by decide) (by decide),
    State.flag_setFlag_self _ _ _ _ _ (by decide) (by decide)]

theorem State.held_dropTovr : s.dropTovr.flag F.HOST_PASS_HELD 0 = s.flag F.HOST_PASS_HELD 0 := by
  unfold State.dropTovr
  split
  · change (((s.setFlag F.LDG_TOVR_EN false).fset F.LDG_TOVR_TARIFF _).setFlag F.LDG_STAT_OVR false).flag F.HOST_PASS_HELD 0 = _
    rw [State.flag_setFlag_ne _ _ _ _ _ _ _ _ (by decide), State.flag_fset_ne _ _ _ _ _ _ _ _ (by decide),
      State.flag_setFlag_ne _ _ _ _ _ _ _ _ (by decide)]
  · rfl

theorem pass_not_mem_overrideRegs : ∀ n : Fin 4, R.HOST_PASS.at 1 ∉ overrideRegs n.val := by decide

/-- What follows a freed pass leaves the leases. -/
theorem State.passEnded_of_freed {s t : State} {p : Nat} (h : (s.freedPass p).only t [.regs, .chn, .aos, .ledger, .events])
    (hshown : t.flag F.HOST_PASS_HELD p = false) (htariff : p = 0 → s.ledger.underPass = true → t.flag F.LDG_TOVR_EN = false)
    (houtputs : p = 1 → ∀ k, k < 4 → (s.ao k).underPass = true → t.flag F.OUT_AO_OVR_EN k = false) : s.PassEnded t p where
  free := (State.passHolder_of_only h (by simp) p).trans (s.passHolder_freedPass p)
  shown := hshown
  others q hq := (State.passHolder_of_only h (by simp) q).trans (s.passHolder_freedPass_ne hq)
  tariff := htariff
  outputs := houtputs
  only := State.only_trans (State.only_mono (s.freedPass_only p) (by simp)) (State.only_mono h (by simp))

theorem State.passEnded_endPass {s : State} {p : Nat} (h : s.passHolder p ≠ none) : s.PassEnded (s.endPass p) p := by
  rw [State.endPass_of_held h]
  by_cases h0 : p = 0
  · subst h0
    rw [if_pos rfl]
    exact State.passEnded_of_freed (State.only_mono (State.dropTovr_only _) (by simp))
      ((State.held_dropTovr _).trans (s.held_freedPass 0)) (fun _ hunder => State.tovr_dropTovr hunder) (fun h01 => absurd h01 (by decide))
  rw [if_neg h0]
  by_cases h1 : p = 1
  · subst h1
    rw [if_pos rfl]
    refine State.passEnded_of_freed (State.only_mono (State.dropOverrides_only _) (by simp)) ?_ (fun h10 => absurd h10 h0)
      (fun _ k hk hunder => State.ovr_dropOverrides (s := s.freedPass 1) (k := ⟨k, hk⟩) hunder)
    exact (State.flag_of_rd (State.rd_dropOverrides _ pass_not_mem_overrideRegs)).trans (s.held_freedPass 1)
  · rw [if_neg h1]
    exact State.passEnded_of_freed (State.only_refl _ _) (s.held_freedPass p) (fun hp => absurd hp h0) (fun hp => absurd hp h1)

theorem pass_ovr_apart_card : (∀ n : Fin 8, R.HOST_PASS.at n.val ∉ cardRegs) ∧ (∀ k : Fin 4, R.OUT_AO_OVR.at k.val ∉ cardRegs) ∧
    R.LDG_TOVR.at ∉ cardRegs := by decide

/-- A card says so. -/
theorem State.PassEnded.card {s t : State} {n : Fin 8} (h : s.PassEnded t n.val) (c : CardArgs) : s.PassEnded (t.card c) n.val := by
  obtain ⟨hpass, hovr, htovr⟩ := pass_ovr_apart_card
  have hhosts (q : Nat) : (t.card c).passHolder q = t.passHolder q := State.passHolder_of_only (t.card_only c) (by simp) q
  exact
    { free := (hhosts _).trans h.free
      shown := (State.flag_of_rd (State.rd_card _ (hpass n) c)).trans h.shown
      others := fun q hq => (hhosts q).trans (h.others q hq)
      tariff := fun h0 hunder => (State.flag_of_rd (State.rd_card _ htovr c)).trans (h.tariff h0 hunder)
      outputs := fun h1 k hk hunder => (State.flag_of_rd (State.rd_card _ (hovr ⟨k, hk⟩) c)).trans (h.outputs h1 k hk hunder)
      only := State.only_trans h.only (State.only_mono (t.card_only c) (by simp)) }

section
variable {s} {n : Fin 8}

theorem execHallPassReleaseHome_of_held {r : Req} {v : Word} (hr : s.homeReq r) (hn : getField v 16 3 = n.val)
    (hheld : s.passHolder n.val = some 0) : execHallPassReleaseHome r v s = .next (s.endPass n.val) := by
  have h31 : bit (setField (setField v 30 1 1) 31 1 0).toNat 31 = false := by
    rw [bit_setField _ (by decide) (by decide) _ _ (by decide) (by decide)]
    rfl
  have h30 : bit (setField (setField v 30 1 1) 31 1 0).toNat 30 = true := by
    have hlow : getField (setField (setField v 30 1 1) 31 1 0) 30 1 = getField (setField v 30 1 1) 30 1 := getField_setField_bit31 _ 0 (by decide)
    exact (congrArg (· == 1) hlow).trans (bit_setField_one v (by decide))
  have hp : getField (setField (setField v 30 1 1) 31 1 0) 16 3 = n.val := by
    rw [getField_setField_bit31 _ 0 (by decide), getField_setField_disjoint _ _ _ _ _ _ (by decide) (by decide) (by decide), hn]
  rw [execHallPassReleaseHome, State.asHome_of_homeReq hr, State.writePassAcq, h30, h31, hp]
  simp [hheld]

theorem execHallPassRevoke_of_held {r : Req} {v : Word} (hon : s.reqOn r = true) (hen : s.ctxEnabled (s.ctxOf r) = true)
    (hctx : s.ctxOf r = 0 ∨ s.ctxOf r = 7) (hgo : bit v.toNat 31 = true) (hheld : s.passHolder n.val ≠ none) :
    ∃ c, execHallPassRevoke r n v s = .next ((s.endPass n.val).card c) := by
  obtain ⟨h, hh⟩ := Option.ne_none_iff_exists'.mp hheld
  rw [execHallPassRevoke, State.asCtx_of_ok _ _ _ hon hen (by simpa using hctx)]
  simp only [hh, hgo, Bool.not_true, Bool.false_eq_true, if_false]
  split
  · exact ⟨_, rfl⟩
  · exact ⟨_, rfl⟩

theorem execHallPassExpire_of_due {x : Nat × Pass} (hx : s.hosts.passes.find? (fun x => x.1 == n.val) = some x) (hdue : x.2.ends ≤ s.now) :
    execHallPassExpire n s = .next (s.endPass n.val) := by
  simp only [execHallPassExpire, hx, if_pos hdue]

theorem State.passHolder_of_find {p : Nat} {x : Nat × Pass} (hx : s.hosts.passes.find? (fun x => x.1 == p) = some x) :
    s.passHolder p ≠ none := by simp [State.passHolder, hx]

end

section
variable {s : State} {n : Fin 4}

/-- What an output shows when `c` has led from `s` through `u` to its update (the statement's common part). -/
theorem State.output_followed {u : State} (hu : s.only u aoParts) {c : Instr} (hc : c ≠ .aoLinkSilence) :
    (u.aoUpdate n.val).aoSilent = (s.aoSilent || c == .aoLinkSilence) ∧
    s.only (u.aoUpdate n.val) [.regs, .chn, .aos, .aoSilent, .events] := by
  have h := State.only_trans hu (u.aoUpdate_only n.val)
  rw [beq_false_of_ne hc, Bool.or_false]
  exact ⟨h .aoSilent (by simp), State.only_mono h (by simp)⟩

theorem State.ao_kept_aoUpdate (m : Nat) : ((s.aoUpdate m).ao m).breakEnd = (s.ao m).breakEnd ∧
    ((s.aoUpdate m).ao m).timedOut = (s.ao m).timedOut ∧ ((s.aoUpdate m).ao m).refresh = (s.ao m).refresh ∧
    ((s.aoUpdate m).ao m).underPass = (s.ao m).underPass := by
  obtain ⟨_, _, _, _, h⟩ := s.ao_aoUpdate_self m
  rw [h]
  exact ⟨rfl, rfl, rfl, rfl⟩

end

theorem aoCfg_ne_rback : ∀ n : Fin 4, R.OUT_AO_CFG.at n.val ≠ R.OUT_AO_RBACK.at n.val := by decide

theorem State.aoMonitor_shows (s : State) (n : Fin 4) (rb : Word) (limit : Bool) : ∃ t, exec (.aoMonitor n rb limit) s = .next t ∧
    t.rget R.OUT_AO_RBACK n.val = (if s.aoDrive n.val = none then 0 else rb.toNat) ∧ s.only t aoParts ∧
    (s.aoDrive n.val ≠ none → limit = true → 3 ≤ s.aoRange n.val → Sparse.get (fun _ => 0) (s.ao n.val).since 0 ≠ 0 →
      Sparse.get (fun _ => 0) (s.ao n.val).since 0 + 10000000 ≤ s.now + 1 → t.flag F.OUT_AO_STAT_OPEN n.val = true) := by
  have hstore (v : Nat) : s.only (s.rset R.OUT_AO_RBACK v n.val) aoParts := by simp
  cases hdrive : s.aoDrive n.val with
  | none =>
    refine ⟨s.rset R.OUT_AO_RBACK 0 n.val, ?_, by simp, hstore 0, fun h => absurd rfl h⟩
    rw [exec, execAoMonitor_eq, hdrive]
  | some code =>
    have hrback : ((s.rset R.OUT_AO_RBACK rb.toNat n.val).monitored n.val code rb limit).rd (R.OUT_AO_RBACK.at n.val) =
        (s.rset R.OUT_AO_RBACK rb.toNat n.val).rd (R.OUT_AO_RBACK.at n.val) :=
      State.regsOnly_iff_regsBut.mpr (State.monitored_regsBut _ n.val code rb limit) _ (aoStat_rback_apart n).2
    refine ⟨(s.rset R.OUT_AO_RBACK rb.toNat n.val).monitored n.val code rb limit, ?_, ?_,
      State.only_trans (hstore rb.toNat) (State.monitored_only _ n.val code rb limit), fun _ hlimit hrange hsince hheld => ?_⟩
    · rw [exec, execAoMonitor_eq, hdrive]
    · rw [State.rget, hrback, if_neg (by simp)]
      exact (State.rget_rset_self ..).trans (Nat.mod_eq_of_lt rb.isLt)
    · subst hlimit
      have hcfg : (s.rset R.OUT_AO_RBACK rb.toNat n.val).aoRange n.val = s.aoRange n.val :=
        State.fget_of_rd (State.rd_rset_ne _ _ _ _ _ _ (aoCfg_ne_rback n))
      exact State.open_monitored (s := s.rset R.OUT_AO_RBACK rb.toNat n.val) (hrange.trans_eq hcfg.symm) hsince hheld code rb

theorem State.PassEnded.exists_next {s t : State} {c : Instr} {n : Fin 8} (hexec : exec c s = .next t) (h : s.PassEnded t n.val) :
    ∃ t, exec c s = .next t ∧ t.passHolder n.val = none ∧ t.flag F.HOST_PASS_HELD n.val = false ∧
      (∀ q, q ≠ n.val → t.passHolder q = s.passHolder q) ∧
      (n.val = 0 → s.ledger.underPass = true → t.flag F.LDG_TOVR_EN = false) ∧
      (n.val = 1 → ∀ k, k < 4 → (s.ao k).underPass = true → t.flag F.OUT_AO_OVR_EN k = false) ∧
      s.only t [.regs, .chn, .aos, .ledger, .hosts, .events] :=
  ⟨t, hexec, h.free, h.shown, h.others, h.tariff, h.outputs, h.only⟩

/-- Settles O53: every command of an output ends with its update, and every end of a lease with what it governs. -/
theorem analogOutputsAndHallPasses : Obligations.AnalogOutputsAndHallPasses := by
  refine ⟨?_, fun n rb limit s => ?_, fun r v s hr hsecs hgive hfree => ?_, ?_⟩
  · rintro c n s (⟨hbreak, hdue, rfl⟩ | ⟨r, v, hr, rfl⟩ | ⟨r, v, hon, hen, hok, rfl⟩ | ⟨htmo, hsettled, hovr, hdue, rfl⟩ | rfl)
    · obtain ⟨hsilent, honly⟩ := State.output_followed (n := n) (u := s.setAo n.val { s.ao n.val with breakEnd := 0 }) (s := s)
        (c := .aoRangeBreakEnd n) (by simp) (by simp)
      obtain ⟨hcode, hon, htimed, hinBreak⟩ := State.showsAo_aoUpdate (s := s.setAo n.val { s.ao n.val with breakEnd := 0 }) (n := n)
      refine ⟨_, execAoRangeBreakEnd_of_due hbreak hdue, hcode, hon, htimed, hinBreak, hsilent, honly, fun _ => ?_, nofun, nofun, nofun⟩
      rw [(State.ao_kept_aoUpdate _).1, State.ao_setAo_self]
    · obtain ⟨hsilent, honly⟩ := State.output_followed (n := n) (s.valueWritten_only v) (c := .aoValueWrite r n v) (by simp)
      obtain ⟨hcode, hon, htimed, hinBreak⟩ := State.showsAo_aoUpdate (s := s.valueWritten n.val v) (n := n)
      refine ⟨_, execAoValueWrite_of_homeReq hr v, hcode, hon, htimed, hinBreak, hsilent, honly, nofun, nofun, ?_, nofun⟩
      rintro r' v' ⟨⟩
      obtain ⟨-, htimedOut, hrefresh, -⟩ := State.ao_kept_aoUpdate (s := s.valueWritten n.val v) n.val
      rw [State.fget_aoUpdate (by simp [aoDriveRegs, F.OUT_AO_VALUE_VALUE]), State.value_valueWritten, htimedOut, hrefresh,
        State.valueWritten, State.ao_setAo_self]
      exact ⟨rfl, rfl, rfl⟩
    · obtain ⟨hsilent, honly⟩ := State.output_followed (n := n)
        (s.overrideWritten_only n.val (bit v.toNat 31) (getField v 0 16) (s.agentHolds r 1)) (c := .aoOverrideWrite r n v) (by simp)
      obtain ⟨hcode, hshown, htimed, hinBreak⟩ :=
        State.showsAo_aoUpdate (s := s.overrideWritten n.val (bit v.toNat 31) (getField v 0 16) (s.agentHolds r 1)) (n := n)
      refine ⟨_, execAoOverrideWrite_of_ok hon hen hok v, hcode, hshown, htimed, hinBreak, hsilent, honly, nofun, nofun, nofun, ?_⟩
      rintro r' v' ⟨⟩
      obtain ⟨-, -, -, hunder⟩ := State.ao_kept_aoUpdate
        (s := s.overrideWritten n.val (bit v.toNat 31) (getField v 0 16) (s.agentHolds r 1)) n.val
      rw [hunder, State.flag_aoUpdate (by simp [aoDriveRegs, F.OUT_AO_OVR_EN]), State.fget_aoUpdate (by simp [aoDriveRegs, F.OUT_AO_OVR_VALUE]),
        State.en_overrideWritten, State.value_overrideWritten, State.underPass_overrideWritten, Nat.mod_eq_of_lt (getField_lt ..)]
      exact ⟨rfl, rfl, rfl⟩
    · obtain ⟨hsilent, honly⟩ := State.output_followed (n := n) (u := s.setAo n.val { s.ao n.val with timedOut := true }) (s := s)
        (c := .aoRefreshTimeout n) (by simp) (by simp)
      obtain ⟨hcode, hon, htimed, hinBreak⟩ := State.showsAo_aoUpdate (s := s.setAo n.val { s.ao n.val with timedOut := true }) (n := n)
      refine ⟨_, execAoRefreshTimeout_of_due htmo hsettled hovr hdue, hcode, hon, htimed, hinBreak, hsilent, honly, nofun, fun _ => ?_,
        nofun, nofun⟩
      rw [(State.ao_kept_aoUpdate _).2.1, State.ao_setAo_self]
    · obtain ⟨hcode, hon, htimed, hinBreak⟩ := State.showsAo_aoUpdateAll { s with aoSilent := true } n
      have honly := State.aoUpdateAll_only { s with aoSilent := true }
      refine ⟨_, rfl, hcode, hon, htimed, hinBreak, ?_, ?_, nofun, nofun, nofun, nofun⟩
      · rw [honly .aoSilent (by simp)]
        simp
      · exact State.only_trans (s := s) (t := { s with aoSilent := true }) (by simp) (State.only_mono honly (by simp))
  · exact s.aoMonitor_shows n rb limit
  · exact ⟨_, execHallPassAcquireHome_of_free hr hsecs hgive hfree, by rw [State.takePass_eq]; exact s.find?_leases _ _ _,
      s.held_takePass _ _ _, s.holder_takePass_home _ _, fun q hq => s.passHolder_takePass_ne hq _ _, s.takePass_only _ _ _,
      s.takePass_regsOnly _ _ _⟩
  · rintro c n s (⟨r, v, hr, hn, hheld, rfl⟩ | ⟨r, v, hon, hen, hctx, hgo, hheld, rfl⟩ | ⟨x, hx, hdue, rfl⟩)
    · exact State.PassEnded.exists_next (execHallPassReleaseHome_of_held hr hn hheld) (State.passEnded_endPass (by simp [hheld]))
    · obtain ⟨card, hexec⟩ := execHallPassRevoke_of_held hon hen hctx hgo hheld
      exact State.PassEnded.exists_next hexec ((State.passEnded_endPass hheld).card card)
    · exact State.PassEnded.exists_next (execHallPassExpire_of_due hx hdue) (State.passEnded_endPass (State.passHolder_of_find hx))

end Sys2Proof.Machine
end

section
/-! PROOF. The obligation of spec/17 on job rings and fences (R479 to R481, R34 to R36). -/

namespace Sys2Proof.Machine

variable (s : State)

/-! ### Serving a job entry (R479) -/

section
variable {s} {q : Fin 16}

theorem State.jobSize_le (q : Nat) : s.jobSize q ≤ 4096 := Nat.succ_le_of_lt (getField_lt _ _ _)

/-- The class that an entry's start has is the byte at 29. -/
theorem leAt_start (e : List Byte) : leAt ((e.drop 16).take 32) 13 1 = leAt e 29 1 := by
  simp [leAt, List.drop_take, List.drop_drop, List.take_take]

theorem State.jobStart_of_disabled (h : s.ctxEnabled (ringOwner q.val) = false) (b : List Byte) : (s.jobStart q.val b).1 = 2 := by
  simp [State.jobStart, h]

theorem State.jobStart_of_otherClass {k : Nat} (hclass : ringClass q.val = some k) {b : List Byte} (h : k ≠ leAt b 13 1) :
    (s.jobStart q.val b).1 = 2 := by
  have hany : (ringClass q.val).any (fun k => k != leAt b 13 1) = true := by simpa [hclass] using h
  rw [State.jobStart, if_pos hany]
  split <;> rfl

/-- The job entry that TAIL names. -/
def State.jobEntry (s : State) (q : Nat) : List Byte := s.load (s.jobSlot q (s.fget F.HOST_JR_TAIL_INDEX q)) 64

theorem jobTail_ne_irq : ∀ q : Fin 16, F.HOST_JR_TAIL_INDEX.reg.at q.val ≠ R.HOST_JOBIRQ.at := by decide

/-- The agent stops at a firmware job until TAIL is written, and says so. -/
def State.jobStopped (s : State) (q : Nat) : State :=
  (s.setHosts { s.hosts with jobStop := s.hosts.jobStop.filter (fun x => x.1 != q) ++ [(q, s.fget F.HOST_JR_TAIL_INDEX q + 1)] }).rset
    R.HOST_JOBIRQ (s.rget R.HOST_JOBIRQ ||| 2 ^ q)

/-- A start is submitted, and TAIL moves past it. -/
def State.jobServed (s : State) (q : Nat) (x : Nat × State) : State :=
  let u := x.2.fset F.HOST_JR_TAIL_INDEX ((s.fget F.HOST_JR_TAIL_INDEX q + 1) % s.jobSize q) q
  if x.1 = 0 then u else u.jobRecord q (jobStatus (s.jobEntry q) x.1 s.now)

theorem execJobEntryServe_of_servable (hon : s.domOn 2 = true) (hserve : s.servable q.val = true)
    (hturn : urgentRings.contains q.val = true ∨ urgentRings.any s.servable = false) : execJobEntryServe q s = .next
      (if leAt (s.jobEntry q.val) 0 1 = 1 then s.jobServed q.val (s.jobStart q.val (((s.jobEntry q.val).drop 16).take 32))
       else s.jobStopped q.val) := by
  have hwait : (!urgentRings.contains q.val && urgentRings.any s.servable) = false := by
    rcases hturn with h | h <;> rw [h] <;> simp
  have hnow : ∀ b v, ((s.jobStart q.val b).2.fset F.HOST_JR_TAIL_INDEX v q.val).now = s.now := fun b v =>
    congrArg BitVec.toNat (State.timebase_of_clockQueue (s.jobStart_clockQueue q.val b))
  unfold execJobEntryServe
  simp only [hon, hserve, hwait, Bool.not_true, Bool.or_self, Bool.false_eq_true, if_false, hnow]
  rfl

theorem State.tail_jobServed (u : State) : (u.fset F.HOST_JR_TAIL_INDEX ((s.fget F.HOST_JR_TAIL_INDEX q.val + 1) % s.jobSize q.val) q.val).fget
    F.HOST_JR_TAIL_INDEX q.val = (s.fget F.HOST_JR_TAIL_INDEX q.val + 1) % s.jobSize q.val := by
  have hlt : (s.fget F.HOST_JR_TAIL_INDEX q.val + 1) % s.jobSize q.val < 2 ^ 12 :=
    (Nat.mod_lt _ (Nat.succ_pos _)).trans_le (State.jobSize_le q.val)
  rw [State.fget_fset_self _ _ _ _ _ (by decide) (by decide)]
  exact Nat.mod_eq_of_lt hlt

theorem State.jobStopped_only : s.only (s.jobStopped q.val) [.regs, .hosts] := by simp [State.jobStopped]

theorem State.jobStopped_regsOnly : s.regsOnly (s.jobStopped q.val) [R.HOST_JOBIRQ.at] := fun _ ha =>
  State.rd_rset_ne _ _ _ _ _ _ fun h => ha (List.mem_singleton.mpr h)

theorem State.jobirq_jobStopped : bit ((s.jobStopped q.val).rget R.HOST_JOBIRQ) q.val = true := by
  rw [State.jobStopped, State.rget_rset_self, bit_eq_testBit, Nat.testBit_mod_two_pow]
  simp
  omega

theorem State.servable_jobStopped : (s.jobStopped q.val).servable q.val = false := by
  have htail : (s.jobStopped q.val).fget F.HOST_JR_TAIL_INDEX q.val = s.fget F.HOST_JR_TAIL_INDEX q.val :=
    State.fget_of_rd (State.jobStopped_regsOnly _ (List.mem_singleton.not.mpr (jobTail_ne_irq q)))
  have hstop : (s.jobStopped q.val).hosts.jobStop.contains (q.val, s.fget F.HOST_JR_TAIL_INDEX q.val + 1) = true := by
    simp [State.jobStopped, State.setHosts, State.rset, State.wr]
  rw [State.servable, htail, hstop, Bool.not_true, Bool.and_false]

end

/-! ### Status records and TAIL -/

section
variable {s} {q : Fin 16}

theorem execJobStatusRecord_of_space {x : Nat × List Byte} (hx : s.hosts.jobWait.find? (fun x => x.1 == q.val) = some x)
    (hon : s.domOn 2 = true) (hen : s.ringEnabled q.val = true) (hspace : ceilDiv x.2.length 64 ≤ s.ringSpace q.val) :
    execJobStatusRecord q s = .next
      ((s.commitRecord q.val x.2).setHosts { s.hosts with jobWait := s.hosts.jobWait.erase x }) := by
  have hhosts : (s.commitRecord q.val x.2).hosts = s.hosts := s.commitRecord_only q.val x.2 .hosts (by simp)
  simp only [execJobStatusRecord, hx, hon, State.tryCommit_done hen hspace, hhosts]
  rfl

theorem execJobStatusRecord_of_full {x : Nat × List Byte} (hx : s.hosts.jobWait.find? (fun x => x.1 == q.val) = some x)
    (hon : s.domOn 2 = true) (hen : s.ringEnabled q.val = true) (hspace : s.ringSpace q.val < ceilDiv x.2.length 64) :
    execJobStatusRecord q s = .next s := by
  simp only [execJobStatusRecord, hx, hon, State.tryCommit_full hen hspace]
  rfl

theorem State.only_setHosts_commitRecord (b : List Byte) (x : Hosts) :
    s.only ((s.commitRecord q.val b).setHosts x) [.regs, .mem, .rings, .hosts] := by
  simpa using State.only_mono (s.commitRecord_only q.val b) (by simp)

theorem State.tail_writeJobTail (v : Word) : (s.writeJobTail q.val v).fget F.HOST_JR_TAIL_INDEX q.val = getField v 0 12 :=
  (State.fget_fset_self s F.HOST_JR_TAIL_INDEX _ _ _ (by decide) (by decide)).trans (Nat.mod_eq_of_lt (getField_lt ..))

theorem State.mem_jobStop_writeJobTail (v : Word) (x : Nat × Nat) : x ∈ (s.writeJobTail q.val v).hosts.jobStop ↔
    x ∈ s.hosts.jobStop ∧ (x.1 ≠ q.val ∨ x.2 = getField v 0 12 + 1) := by
  change x ∈ s.hosts.jobStop.filter (fun x => x.1 != q.val || x.2 == getField v 0 12 + 1) ↔ _
  simp

theorem State.writeJobTail_only (v : Word) : s.only (s.writeJobTail q.val v) [.regs, .hosts] := by simp [State.writeJobTail]

theorem State.writeJobTail_regsOnly (v : Word) : s.regsOnly (s.writeJobTail q.val v) [R.HOST_JR_TAIL.at q.val] := fun _ ha =>
  State.rd_fset_ne _ F.HOST_JR_TAIL_INDEX _ _ _ _ fun h => ha (List.mem_singleton.mpr h)

end

/-! ### Fences (R34 to R36) -/

section
variable {s} {q : Fin 16}

theorem execFenceRequest_of_homeReq {r : Req} (hr : s.homeReq r) {v : Word} (hgo : bit v.toNat 0 = true) :
    execFenceRequest r q v s = .next (s.askFence q.val false (s.rget R.HOST_RR_FTAG q.val)) := by
  rw [execFenceRequest, State.asHome_of_homeReq hr]
  simp only [hgo, if_true]

theorem State.askFence_of_enabled (hen : s.ringEnabled q.val = true) {auto : Bool}
    (hone : auto = false ∨ (s.ringX q.val).fences.any (·.auto) = false) (tag : Nat) : s.askFence q.val auto tag =
    s.setRingX q.val { s.ringX q.val with fences := (s.ringX q.val).fences ++ [⟨auto, tag⟩] } := by
  rw [State.askFence]
  refine if_neg ?_
  rw [hen]
  rcases hone with h | h <;> simp [h]

/-- An automatic fence that still waits stands for the one that falls due (R36). -/
theorem State.askFence_of_waiting (h : (s.ringX q.val).fences.any (·.auto) = true) (tag : Nat) : s.askFence q.val true tag = s := by
  rw [State.askFence]
  exact if_pos (.inr ⟨rfl, h⟩)

theorem execAutoFenceDue_of_due (hus : s.rget R.HOST_RR_FAUTO q.val * 1000 ≠ 0) (hafter : (s.ringX q.val).autoBase < s.now)
    (hgrid : (s.now - (s.ringX q.val).autoBase) % (s.rget R.HOST_RR_FAUTO q.val * 1000) = 0) :
    execAutoFenceDue q s = .next (s.askFence q.val true 0) := by
  have hdue : ¬(s.rget R.HOST_RR_FAUTO q.val * 1000 = 0 ∨ s.now ≤ (s.ringX q.val).autoBase ∨
      (s.now - (s.ringX q.val).autoBase) % (s.rget R.HOST_RR_FAUTO q.val * 1000) ≠ 0) := by
    simp only [hgrid]
    omega
  simp only [execAutoFenceDue, if_neg hdue]

/-- F of a fence committed now: no later than any horizon, the draw standing for how far the block has looked. -/
def State.fenceF (s : State) : Nat := s.draw.2.horizons.foldl min (s.draw.2.now - s.draw.1 % (s.draw.2.now + 1))

theorem foldl_min_le (l : List Nat) (a : Nat) : l.foldl min a ≤ a ∧ ∀ x ∈ l, l.foldl min a ≤ x := by
  induction l generalizing a with
  | nil => simp
  | cons y l ih =>
    obtain ⟨hstart, helem⟩ := ih (min a y)
    refine ⟨hstart.trans (min_le_left _ _), fun x hx => ?_⟩
    rcases List.mem_cons.mp hx with rfl | hx
    · exact hstart.trans (min_le_right _ _)
    · exact helem x hx

theorem State.fenceF_le_now : s.fenceF ≤ s.now := (foldl_min_le _ _).1.trans (Nat.sub_le _ _)

theorem State.fenceF_le_horizon {h : Nat} (hh : h ∈ s.horizons) : s.fenceF ≤ h := (foldl_min_le _ _).2 h hh

/-- The state once a fence has been tried, the oldest request done with. -/
def State.fenced (s u : State) (q : Nat) (rest : List FenceReq) (f : Nat) : State :=
  u.setRingX q { s.ringX q with fences := rest, lastF := f }

theorem State.ringX_commitRecord (k : Nat) (b : List Byte) : ((s.commitRecord k b).ringX k).lastF = (s.ringX k).lastF := by
  unfold State.commitRecord
  dsimp only
  rw [State.ringX_setRingX_self]
  have hrings (i : Nat) (l : List (List Byte)) : (s.putEntries k i l).rings = s.rings := s.putEntries_only k i l .rings (by simp)
  change (Sparse.get (fun _ => Ring.idle) (s.putEntries k _ _).rings k).lastF = _
  rw [hrings]
  rfl

theorem execFenceCommit_of_idle (h : (s.ringX q.val).fences = []) : execFenceCommit q s = .next s := by
  simp only [execFenceCommit, h]

theorem execFenceCommit_of_waiting {g : FenceReq} {rest : List FenceReq} (h : (s.ringX q.val).fences = g :: rest) :
    execFenceCommit q s = .next
      (if s.ringEnabled q.val = true ∧ s.fenceF < (s.ringX q.val).lastF then s.draw.2
       else match s.draw.2.tryCommit q.val (fenceRecord g.auto s.fenceF s.now g.tag) with
        | (.done, u) => u.setRingX q.val { u.ringX q.val with fences := rest, lastF := s.fenceF }
        | (.dropped, u) => u.setRingX q.val { u.ringX q.val with fences := rest }
        | (.full, u) => if g.auto then u.setRingX q.val { u.ringX q.val with fences := rest } else u) := by
  simp only [execFenceCommit, h]
  rfl

theorem State.draw_only : s.only s.draw.2 [.free] := s.free_only _

/-- Whatever becomes of the oldest fence, F never falls. -/
theorem execFenceCommit_lastF : ∃ t, execFenceCommit q s = .next t ∧ (s.ringX q.val).lastF ≤ (t.ringX q.val).lastF ∧
    s.only t [.regs, .mem, .rings, .free] := by
  have hdraw : s.only s.draw.2 [.regs, .mem, .rings, .free] := State.only_mono s.draw_only (by simp)
  have hcommit (b : List Byte) : s.only (s.draw.2.commitRecord q.val b) [.regs, .mem, .rings, .free] :=
    State.only_trans hdraw (State.only_mono (s.draw.2.commitRecord_only q.val b) (by simp))
  cases hfences : (s.ringX q.val).fences with
  | nil => exact ⟨s, execFenceCommit_of_idle hfences, le_refl _, s.only_refl _⟩
  | cons g rest =>
    refine ⟨_, execFenceCommit_of_waiting hfences, ?_⟩
    by_cases hearly : s.ringEnabled q.val = true ∧ s.fenceF < (s.ringX q.val).lastF
    · rw [if_pos hearly]
      exact ⟨le_refl _, hdraw⟩
    rw [if_neg hearly]
    rcases s.draw.2.tryCommit_cases q.val (fenceRecord g.auto s.fenceF s.now g.tag) with h | h | ⟨hen, -, h⟩
    · rw [h]
      exact ⟨by rw [State.ringX_setRingX_self]; rfl, by simpa using hdraw⟩
    · rw [h]
      dsimp only
      split
      · exact ⟨by rw [State.ringX_setRingX_self]; rfl, by simpa using hdraw⟩
      · exact ⟨le_refl _, hdraw⟩
    · rw [h]
      have hlate : (s.ringX q.val).lastF ≤ s.fenceF := Nat.le_of_not_lt fun hlt => hearly ⟨hen, hlt⟩
      exact ⟨by rw [State.ringX_setRingX_self]; exact hlate, by simpa using hcommit _⟩

theorem length_fenceRecord (auto : Bool) (f now tag : Nat) : (fenceRecord auto f now tag).length = 64 := by
  simp [fenceRecord, leBytes_length]

theorem length_withSeq {b : List Byte} (h : b.length = 64) (seq : Nat) : (withSeq b seq).length = 64 := by
  simp [withSeq, leBytes_length, h]

theorem chunksOf_one {b : List Byte} (h : b.length = 64) : chunksOf 64 1 b = [b] := by
  cases b with
  | nil => simp at h
  | cons x b => simp [chunksOf, List.take_of_length_le (Nat.le_of_eq h)]

/-- A record of one entry is stored at HEAD. -/
theorem State.mem_commitRecord_one {b : List Byte} (h : b.length = 64) (k : Nat) : (s.commitRecord k b).mem =
    (s.store (s.rget R.HOST_RR_BASE k * 4096 + 64 * (s.fget F.HOST_RR_HEAD_INDEX k % s.ringSize k)) (withSeq b (s.rget R.HOST_RR_SEQ k))).mem := by
  have hone : ceilDiv b.length 64 = 1 := by rw [h]; rfl
  obtain ⟨x, hx⟩ := s.commitRecord_eq k b
  rw [hx, hone, chunksOf_one (length_withSeq h _)]
  change (s.store _ (padTo 64 _)).mem = _
  rw [padTo_of_length (length_withSeq h _)]

/-- A state with another number of draws. -/
def State.withFree (s : State) (k : Nat) : State := { s with free := k }

/-- A store does not look at the draws. -/
theorem State.putMem_withFree (k a : Nat) (l : List Byte) (fuel : Nat) :
    (s.withFree k).putMem a l fuel = (s.putMem a l fuel).withFree k := by
  induction fuel generalizing s a l with
  | zero => rfl
  | succ fuel ih =>
    have hmem (m : Memory) : ({ s.withFree k with mem := m } : State) = ({ s with mem := m } : State).withFree k := rfl
    have hcount (u : State) : (u.withFree k).count R.MEM_TAGERR = (u.count R.MEM_TAGERR).withFree k := rfl
    have hloc : (s.withFree k).loc a = s.loc a := rfl
    have hsame : (s.withFree k).mem = s.mem := rfl
    simp only [State.putMem, hmem, hcount, hloc, hsame]
    by_cases hl : l = []
    · rw [if_pos hl, if_pos hl]
    rw [if_neg hl, if_neg hl]
    split
    · split
      · exact ih ..
      · split <;> exact ih ..
    · exact ih ..

theorem State.mem_store_draw (a : Nat) (l : List Byte) : (s.draw.2.store a l).mem = (s.store a l).mem := by
  have hstore : (s.withFree (s.free + 1)).store a l = (s.store a l).withFree (s.free + 1) := State.putMem_withFree ..
  change ((s.withFree (s.free + 1)).store a l).mem = _
  rw [hstore]
  rfl

theorem execFenceCommit_of_space {g : FenceReq} {rest : List FenceReq} (hfences : (s.ringX q.val).fences = g :: rest)
    (hfirst : (s.ringX q.val).lastF = 0) (hen : s.ringEnabled q.val = true) (hspace : 1 ≤ s.ringSpace q.val) :
    execFenceCommit q s = .next (let u := s.draw.2.commitRecord q.val (fenceRecord g.auto s.fenceF s.now g.tag)
      u.setRingX q.val { u.ringX q.val with fences := rest, lastF := s.fenceF }) := by
  have hearly : ¬(s.ringEnabled q.val = true ∧ s.fenceF < (s.ringX q.val).lastF) := by
    rw [hfirst]
    exact fun h => Nat.not_lt_zero _ h.2
  have hroom : ceilDiv (fenceRecord g.auto s.fenceF s.now g.tag).length 64 ≤ s.draw.2.ringSpace q.val := by
    rw [length_fenceRecord]
    exact hspace
  rw [execFenceCommit_of_waiting hfences, if_neg hearly, State.tryCommit_done (s := s.draw.2) hen hroom]

end

/-- Settles O55: an entry is served or stops the agent, and a fence's F is a minimum over the horizons. -/
theorem jobRingsAndFences : Obligations.JobRingsAndFences := by
  refine ⟨fun q s hon hserve hturn => ?_, fun q s x hx hon hen => ?_, fun r q v s hr => ?_, fun r q v s hr hgo hen => ?_,
    fun q s hus hafter hgrid hen => ?_, fun q s => execFenceCommit_lastF, fun q s g rest hfences hfirst hen hspace => ?_⟩
  · refine ⟨fun hstart => ⟨?_, State.tail_jobServed _, fun h => State.jobStart_of_disabled h _, fun k hk hne => ?_⟩, fun hfirm => ?_⟩
    · rw [exec, execJobEntryServe_of_servable hon hserve hturn]
      exact congrArg Host.Outcome.next (if_pos hstart)
    · exact State.jobStart_of_otherClass hk (by rwa [leAt_start])
    · refine ⟨s.jobStopped q.val, ?_, State.jobirq_jobStopped, State.servable_jobStopped, State.jobStopped_only, State.jobStopped_regsOnly⟩
      rw [exec, execJobEntryServe_of_servable hon hserve hturn]
      exact congrArg Host.Outcome.next (if_neg hfirm)
  · exact ⟨fun hspace => ⟨_, execJobStatusRecord_of_space hx hon hen hspace, rfl, rfl, (s.counts_commitRecord q.val x.2).1,
      State.only_setHosts_commitRecord _ _⟩, execJobStatusRecord_of_full hx hon hen⟩
  · refine ⟨s.writeJobTail q.val v, ?_, State.tail_writeJobTail v, State.mem_jobStop_writeJobTail v, State.writeJobTail_only v,
      State.writeJobTail_regsOnly v⟩
    rw [exec, execJobTailWrite, State.asHome_of_homeReq hr]
  · refine ⟨_, execFenceRequest_of_homeReq hr hgo, ?_⟩
    rw [State.askFence_of_enabled hen (.inl rfl)]
    exact ⟨State.ringX_setRingX_self .., fun j hj => State.ringX_setRingX_ne _ hj _, State.setRingX_only _ _ _⟩
  · refine ⟨_, execAutoFenceDue_of_due hus hafter hgrid, ?_⟩
    cases hauto : (s.ringX q.val).fences.any (·.auto) with
    | true =>
      rw [State.askFence_of_waiting hauto]
      exact ⟨by simp, fun _ _ => rfl, s.only_refl _⟩
    | false =>
      rw [State.askFence_of_enabled hen (.inr hauto)]
      exact ⟨State.ringX_setRingX_self .., fun j hj => State.ringX_setRingX_ne _ hj _, State.setRingX_only _ _ _⟩
  · refine ⟨_, s.fenceF, execFenceCommit_of_space hfences hfirst hen hspace, ?_, ?_, State.fenceF_le_now, fun h => State.fenceF_le_horizon,
      (s.draw.2.counts_commitRecord q.val _).2, ?_⟩
    · rw [State.ringX_setRingX_self]
    · rw [State.ringX_setRingX_self]
    · exact (State.mem_commitRecord_one (length_fenceRecord ..) q.val).trans (State.mem_store_draw ..)

end Sys2Proof.Machine
end

section
/-! PROOF. Proctor's commands of the safe outputs and what its functions change (spec/15, R422 to R427). -/

namespace Sys2Proof.Machine

variable (s : State)

/-! ### Commands of the safe outputs (R426) -/

/-- What Proctor holds but for its records of the outputs. -/
def State.safeCore (s : State) : Safe := { s.safe with sos := [] }

variable {s} in
theorem State.fns_of_safeCore {t : State} (h : t.safeCore = s.safeCore) : t.safe.fns = s.safe.fns :=
  have hfns : t.safeCore.fns = s.safeCore.fns := congrArg Safe.fns h
  hfns

theorem State.safeCore_setSo (n : Nat) (x : So) : (s.setSo n x).safeCore = s.safeCore := rfl

/-- Output `n`'s command follows what is wanted. -/
def State.commandOutput (s : State) (n : Nat) : State :=
  let want := s.outWanted n
  if want = s.outCmd n then s
  else
    let m := s.fget F.SAFE_STAT_OUTCMD
    let s := s.fset F.SAFE_STAT_OUTCMD (if want then m + 2 ^ n else m - 2 ^ n)
    let s := s.rset R.OUT_SOSTAT (setField (BitVec.ofNat 32 (s.rget R.OUT_SOSTAT)) (8 * n + 3) 1 (b2n want)).toNat
    let x := s.so n
    s.setSo n (if want then { x with onTb := s.now, offTb := 0 } else { x with offTb := s.now + 1 })

theorem State.safeOutputs_eq :
    s.safeOutputs = (((s.commandOutput (0 : Fin 4).val).commandOutput (1 : Fin 4).val).commandOutput (2 : Fin 4).val).commandOutput
      (3 : Fin 4).val := rfl

theorem State.commandOutput_only (n : Nat) : s.only (s.commandOutput n) [.regs, .safe] := by
  unfold State.commandOutput
  dsimp only
  split
  · exact s.only_refl _
  · simp

theorem State.safeCore_commandOutput (n : Nat) : (s.commandOutput n).safeCore = s.safeCore := by
  unfold State.commandOutput
  dsimp only
  split
  · rfl
  · exact State.safeCore_setSo _ n _

/-- The registers that show the safe outputs' commands. -/
def commandRegs : List Nat := [R.SAFE_STAT.at, R.OUT_SOSTAT.at]

theorem State.commandOutput_regsOnly (n : Nat) : s.regsOnly (s.commandOutput n) commandRegs := by
  intro a ha
  have hstat : a ≠ R.SAFE_STAT.at := fun h => ha (by simp [commandRegs, h])
  have hso : a ≠ R.OUT_SOSTAT.at := fun h => ha (by simp [commandRegs, h])
  unfold State.commandOutput
  dsimp only
  split
  · rfl
  · exact (State.rd_rset_ne _ R.OUT_SOSTAT _ _ _ _ hso).trans (State.rd_fset_ne _ F.SAFE_STAT_OUTCMD _ _ _ _ hstat)

/-- The other fields of SAFE_STAT stay. -/
theorem State.fget_commandOutput {f : Fld} (hreg : f.reg = R.SAFE_STAT) (hd : f.lo + f.width ≤ 24 ∨ 28 ≤ f.lo) (n : Nat) :
    (s.commandOutput n).fget f = s.fget f := by
  unfold State.commandOutput
  dsimp only
  split
  · rfl
  · change (State.rset _ R.OUT_SOSTAT _).fget f = _
    rw [State.fget_rset_ne _ _ _ _ _ _ _ _ (by rw [hreg]; decide),
      State.fget_fset_other _ F.SAFE_STAT_OUTCMD f _ _ _ hreg (by decide) (by decide) hd]

theorem bit_command : ∀ (want : Bool) (n k : Fin 4) (m : Fin 16), want ≠ bit m.val n.val →
    bit ((if want then m.val + 2 ^ n.val else m.val - 2 ^ n.val) % 2 ^ 4) k.val = if k = n then want else bit m.val k.val := by
  decide

theorem State.outCmd_commandOutput (n k : Fin 4) : (s.commandOutput n.val).outCmd k.val = if k = n then s.outWanted n.val else s.outCmd k.val := by
  unfold State.commandOutput
  dsimp only
  split
  · next h =>
    split
    · next hk => rw [hk, h]
    · rfl
  · next h =>
    rw [State.outCmd]
    change bit ((State.rset _ R.OUT_SOSTAT _).fget F.SAFE_STAT_OUTCMD) k.val = _
    rw [State.fget_rset_ne _ _ _ _ _ _ _ _ (by decide), State.fget_fset_self _ _ _ _ _ (by decide) (by decide)]
    exact bit_command _ n k ⟨s.fget F.SAFE_STAT_OUTCMD, getField_lt ..⟩ h

theorem State.outWanted_eq (n : Nat) : s.outWanted n =
    (s.fget F.SAFE_STAT_STATE == 1 && (s.fget F.PWR_STAT_STATE == 0 || s.fget F.PWR_STAT_STATE == 1) && !s.pwr.warn &&
      bit s.safeCore.outen n && !s.safeCore.resetWait && !s.safeCore.linkDead && !bit (s.fget F.SAFE_STAT_OUTFLT) n &&
      !s.safeCore.fns.any (fun f => bit (s.rget R.SAFE_TRIP) f.bit && bit f.omask n)) := rfl

theorem State.outWanted_commandOutput (n k : Nat) : (s.commandOutput n).outWanted k = s.outWanted k := by
  have hreg {a : Nat} (ha : a ∉ commandRegs) : (s.commandOutput n).rd a = s.rd a := s.commandOutput_regsOnly n a ha
  have hpwr : (s.commandOutput n).pwr = s.pwr := s.commandOutput_only n .pwr (by simp)
  have htrip : (s.commandOutput n).rget R.SAFE_TRIP = s.rget R.SAFE_TRIP := congrArg BitVec.toNat (hreg (by decide))
  rw [State.outWanted_eq, State.outWanted_eq, s.safeCore_commandOutput, hpwr, htrip,
    s.fget_commandOutput (f := F.SAFE_STAT_STATE) rfl (by decide),
    s.fget_commandOutput (f := F.SAFE_STAT_OUTFLT) rfl (by decide), State.fget_of_rd (f := F.PWR_STAT_STATE) (hreg (by decide))]

/-- After a round of commands every output is commanded as wanted. -/
theorem State.outCmd_safeOutputs (n : Fin 4) : s.safeOutputs.outCmd n.val = s.outWanted n.val := by
  rw [State.safeOutputs_eq]
  obtain rfl | rfl | rfl | rfl : n = 0 ∨ n = 1 ∨ n = 2 ∨ n = 3 := by omega
  all_goals
    simp only [State.outCmd_commandOutput, State.outWanted_commandOutput]
    rfl

theorem State.safeOutputs_only : s.only s.safeOutputs [.regs, .safe] :=
  State.only_trans (State.only_trans (State.only_trans (s.commandOutput_only 0) (State.commandOutput_only _ 1))
    (State.commandOutput_only _ 2)) (State.commandOutput_only _ 3)

theorem State.safeOutputs_regsOnly : s.regsOnly s.safeOutputs commandRegs := fun a ha => by
  rw [State.safeOutputs_eq, State.commandOutput_regsOnly _ _ a ha, State.commandOutput_regsOnly _ _ a ha,
    State.commandOutput_regsOnly _ _ a ha, State.commandOutput_regsOnly _ _ a ha]

theorem State.safeCore_safeOutputs : s.safeOutputs.safeCore = s.safeCore := by
  simp only [State.safeOutputs_eq, State.safeCore_commandOutput]

theorem State.fget_safeOutputs {f : Fld} (hreg : f.reg = R.SAFE_STAT) (hd : f.lo + f.width ≤ 24 ∨ 28 ≤ f.lo) :
    s.safeOutputs.fget f = s.fget f := by
  simp only [State.safeOutputs_eq, State.fget_commandOutput _ hreg hd]

@[simp] theorem State.only_safeOutputs_iff {t : State} {l : List Part} (hr : .regs ∈ l) (hs : .safe ∈ l) :
    s.only t.safeOutputs l ↔ s.only t l := s.only_iff_of_onlys t t.safeOutputs_only (by simp [hr, hs])

@[simp] theorem State.only_safeCard_iff {t : State} {l : List Part} (hr : .regs ∈ l) (he : .events ∈ l) (hc : .chn ∈ l) (event : Nat)
    (d : List Byte) (ukind ua ub : Nat) : s.only (t.safeCard event d ukind ua ub) l ↔ s.only t l := State.only_card_iff s t hr he hc _

theorem State.safeCore_card (c : CardArgs) : (s.card c).safeCore = s.safeCore :=
  congrArg (fun x : Safe => { x with sos := [] }) (s.card_only c .safe (by simp))

theorem State.safeCore_safeCard (event : Nat) (d : List Byte) (ukind ua ub : Nat) :
    (s.safeCard event d ukind ua ub).safeCore = s.safeCore := s.safeCore_card _

theorem State.rd_safeCard {a : Nat} (h : a ∉ cardRegs) (event : Nat) (d : List Byte) (ukind ua ub : Nat) :
    (s.safeCard event d ukind ua ub).rd a = s.rd a := State.rd_card _ h _

/-! ### The registers of the functions -/

/-- The registers that no function's measurement shows. -/
def tripCardRegs : List Nat := commandRegs ++ cardRegs

theorem bit_of_toNat_ge (v : Word) {i : Nat} (h : 32 ≤ i) : bit v.toNat i = false := by
  rw [bit_toNat]
  exact BitVec.getLsbD_of_ge v i h

/-- A bit of a function is set or cleared; the others stay. -/
theorem State.bit_fnSet {f : SafeFn} (hf : f.bit < 32) (r : RegDesc) (b : Bool) (k : Nat) :
    bit ((s.fnSet r f b).rget r) k = if k = f.bit then b else bit (s.rget r) k := by
  rw [State.fnSet, State.rget_rset_self]
  by_cases hk : k < 32
  · have hmod (v : Nat) : bit (v % 2 ^ 32) k = bit v k := by
      rw [bit_eq_testBit, Nat.testBit_mod_two_pow, bit_eq_testBit, decide_eq_true hk, Bool.true_and]
    have hpow : bit (2 ^ f.bit) k = decide (k = f.bit) := by
      rw [bit_eq_testBit, Nat.testBit_two_pow]
      exact decide_eq_decide.mpr eq_comm
    rw [hmod]
    cases b
    · rw [if_neg Bool.false_ne_true, bit_sub_and, hpow]
      by_cases h : k = f.bit <;> simp [h]
    · rw [if_pos rfl, bit_eq_testBit, Nat.testBit_or, ← bit_eq_testBit, ← bit_eq_testBit, hpow]
      by_cases h : k = f.bit <;> simp [h]
  · have hge : 32 ≤ k := Nat.le_of_not_lt hk
    have hzero (v : Nat) : bit (v % 2 ^ 32) k = false := by
      rw [bit_eq_testBit, Nat.testBit_mod_two_pow, decide_eq_false hk, Bool.false_and]
    rw [hzero, if_neg (by omega), State.rget, bit_of_toNat_ge _ hge]

theorem State.fnSet_only (r : RegDesc) (f : SafeFn) (b : Bool) : s.only (s.fnSet r f b) [.regs] := by simp [State.fnSet]

theorem State.rd_fnSet_ne {r : RegDesc} {a : Nat} (h : a ≠ r.at) (f : SafeFn) (b : Bool) : (s.fnSet r f b).rd a = s.rd a :=
  State.rd_rset_ne _ _ _ _ _ _ h

theorem State.safeCore_fnSet (r : RegDesc) (f : SafeFn) (b : Bool) : (s.fnSet r f b).safeCore = s.safeCore := rfl

/-! ### Trips and warnings -/

/-- The parts of the state that a function's measurement may change. -/
abbrev fnParts : List Part := [.regs, .chn, .safe, .events]

theorem State.tripFn_of_latched {f : SafeFn} (h : bit (s.rget R.SAFE_TRIP) f.bit = true) (v : Nat) : s.tripFn f v = s := by
  simp [State.tripFn, h]

/-- A trip that latches commands its outputs off. -/
theorem State.tripFn_of_clear {f : SafeFn} (h : bit (s.rget R.SAFE_TRIP) f.bit = false) (v : Nat) : s.tripFn f v =
    ((s.fnSet R.SAFE_TRIP f true).safeCard 1 (f.head ++ [0, 0] ++ leBytes 4 v ++ leBytes 4 f.tripAt)).safeOutputs := by
  simp [State.tripFn, h]

theorem State.tripFn_only (f : SafeFn) (v : Nat) : s.only (s.tripFn f v) fnParts := by
  cases h : bit (s.rget R.SAFE_TRIP) f.bit
  · rw [s.tripFn_of_clear h]
    simp [State.fnSet]
  · rw [s.tripFn_of_latched h]
    exact s.only_refl _

theorem State.safeCore_tripFn (f : SafeFn) (v : Nat) : (s.tripFn f v).safeCore = s.safeCore := by
  cases h : bit (s.rget R.SAFE_TRIP) f.bit
  · rw [s.tripFn_of_clear h, State.safeCore_safeOutputs, State.safeCore_safeCard, State.safeCore_fnSet]
  · rw [s.tripFn_of_latched h]

theorem State.rd_tripFn {a : Nat} (htrip : a ≠ R.SAFE_TRIP.at) (h : a ∉ tripCardRegs) (f : SafeFn) (v : Nat) :
    (s.tripFn f v).rd a = s.rd a := by
  obtain ⟨hcommand, hcard⟩ := not_or.mp (List.mem_append.not.mp h)
  cases hbit : bit (s.rget R.SAFE_TRIP) f.bit
  · rw [s.tripFn_of_clear hbit, State.safeOutputs_regsOnly _ a hcommand, State.rd_safeCard _ hcard, State.rd_fnSet_ne _ htrip]
  · rw [s.tripFn_of_latched hbit]

theorem safeTrip_apart : R.SAFE_TRIP.at ∉ commandRegs ∧ R.SAFE_TRIP.at ∉ cardRegs := by decide

theorem State.bit_tripFn {f : SafeFn} (hf : f.bit < 32) (v k : Nat) :
    bit ((s.tripFn f v).rget R.SAFE_TRIP) k = if k = f.bit then true else bit (s.rget R.SAFE_TRIP) k := by
  cases h : bit (s.rget R.SAFE_TRIP) f.bit
  · rw [s.tripFn_of_clear h, State.rget, State.safeOutputs_regsOnly _ _ safeTrip_apart.1, State.rd_safeCard _ safeTrip_apart.2]
    exact s.bit_fnSet hf R.SAFE_TRIP true k
  · rw [s.tripFn_of_latched h]
    split
    · next hk => rw [hk, h]
    · rfl

/-- The outputs of a function whose trip latches are commanded off. -/
theorem State.outCmd_tripFn {f g : SafeFn} (hf : f.bit < 32) (hg : g ∈ s.safe.fns) (hbit : g.bit = f.bit) (hmask : g.omask = f.omask)
    (h : bit (s.rget R.SAFE_TRIP) f.bit = false) (v : Nat) {n : Nat} (hn : n < 4) (hout : bit f.omask n = true) :
    (s.tripFn f v).outCmd n = false := by
  rw [s.tripFn_of_clear h]
  refine (State.outCmd_safeOutputs _ ⟨n, hn⟩).trans ?_
  rw [State.outWanted_eq, State.safeCore_safeCard, State.safeCore_fnSet, State.rget, State.rd_safeCard _ safeTrip_apart.2]
  have hset : bit ((s.fnSet R.SAFE_TRIP f true).rd R.SAFE_TRIP.at).toNat g.bit = true :=
    (s.bit_fnSet hf R.SAFE_TRIP true g.bit).trans (if_pos hbit)
  have hany : (s.safeCore.fns.any fun f' => bit ((s.fnSet R.SAFE_TRIP f true).rd R.SAFE_TRIP.at).toNat f'.bit && bit f'.omask n) = true :=
    List.any_eq_true.mpr ⟨g, hg, by rw [hset, hmask, hout]; rfl⟩
  rw [hany, Bool.not_true, Bool.and_false]

theorem State.warnFn_cases (f : SafeFn) (b : Bool) (v : Nat) :
    (bit (s.rget R.SAFE_WARN) f.bit = b ∧ s.warnFn f b v = s) ∨
    ∃ e d, s.warnFn f b v = (s.fnSet R.SAFE_WARN f b).safeCard e d := by
  unfold State.warnFn
  split
  · next h => exact .inl ⟨h, rfl⟩
  · exact .inr ⟨_, _, rfl⟩

theorem State.warnFn_only (f : SafeFn) (b : Bool) (v : Nat) : s.only (s.warnFn f b v) fnParts := by
  rcases s.warnFn_cases f b v with ⟨-, h⟩ | ⟨e, d, h⟩ <;> rw [h]
  · exact s.only_refl _
  · simp [State.fnSet]

theorem State.safeCore_warnFn (f : SafeFn) (b : Bool) (v : Nat) : (s.warnFn f b v).safeCore = s.safeCore := by
  rcases s.warnFn_cases f b v with ⟨-, h⟩ | ⟨e, d, h⟩ <;> rw [h]
  rw [State.safeCore_safeCard, State.safeCore_fnSet]

theorem State.rd_warnFn {a : Nat} (hwarn : a ≠ R.SAFE_WARN.at) (h : a ∉ cardRegs) (f : SafeFn) (b : Bool) (v : Nat) :
    (s.warnFn f b v).rd a = s.rd a := by
  rcases s.warnFn_cases f b v with ⟨-, h'⟩ | ⟨e, d, h'⟩ <;> rw [h']
  rw [State.rd_safeCard _ h, State.rd_fnSet_ne _ hwarn]

theorem State.bit_warnFn {f : SafeFn} (hf : f.bit < 32) (b : Bool) (v k : Nat) :
    bit ((s.warnFn f b v).rget R.SAFE_WARN) k = if k = f.bit then b else bit (s.rget R.SAFE_WARN) k := by
  rcases s.warnFn_cases f b v with ⟨hb, h⟩ | ⟨e, d, h⟩ <;> rw [h]
  · split
    · next hk => rw [hk, hb]
    · rfl
  · rw [State.rget, State.rd_safeCard _ (by decide)]
    exact s.bit_fnSet hf R.SAFE_WARN b k

/-! ### The measurement of a function -/

theorem State.safeCore_setFn (f : SafeFn) : (s.setFn f).safeCore = { s.safeCore with fns := s.safe.fns.map (fun g =>
    if g.kind = f.kind ∧ g.entry = f.entry then f else g) } := rfl

/-- The function's record after a measurement at `v`. -/
def SafeFn.measured (f : SafeFn) (v : Nat) : SafeFn := { f with above := flt f.tripAt v }

@[simp] theorem SafeFn.bit_measured (f : SafeFn) (v : Nat) : (f.measured v).bit = f.bit := rfl
@[simp] theorem SafeFn.omask_measured (f : SafeFn) (v : Nat) : (f.measured v).omask = f.omask := rfl

theorem State.measured_mem {f : SafeFn} (h : f ∈ s.safe.fns) (v : Nat) : f.measured v ∈ (s.setFn (f.measured v)).safe.fns :=
  List.mem_map.mpr ⟨f, h, if_pos ⟨rfl, rfl⟩⟩

/-- The warning of a measurement. -/
def State.warned (s : State) (f : SafeFn) (v : Nat) (clear : Bool) : State :=
  if flt f.warnAt v then s.warnFn f true v else if clear then s.warnFn f false v else s

theorem State.measureFn_eq (f : SafeFn) (v : Nat) (clear : Bool) : s.measureFn f v clear =
    if flt f.tripAt v then ((s.setFn (f.measured v)).warned (f.measured v) v clear).tripFn (f.measured v) v
    else (s.setFn (f.measured v)).warned (f.measured v) v clear := rfl

theorem State.warned_only (f : SafeFn) (v : Nat) (clear : Bool) : s.only (s.warned f v clear) fnParts := by
  unfold State.warned
  split
  · exact s.warnFn_only f true v
  · split
    · exact s.warnFn_only f false v
    · exact s.only_refl _

theorem State.safeCore_warned (f : SafeFn) (v : Nat) (clear : Bool) : (s.warned f v clear).safeCore = s.safeCore := by
  unfold State.warned
  split
  · exact s.safeCore_warnFn f true v
  · split
    · exact s.safeCore_warnFn f false v
    · rfl

theorem State.rd_warned {a : Nat} (hwarn : a ≠ R.SAFE_WARN.at) (h : a ∉ cardRegs) (f : SafeFn) (v : Nat) (clear : Bool) :
    (s.warned f v clear).rd a = s.rd a := by
  unfold State.warned
  split
  · exact s.rd_warnFn hwarn h f true v
  · split
    · exact s.rd_warnFn hwarn h f false v
    · rfl

theorem State.bit_warned {f : SafeFn} (hf : f.bit < 32) (v : Nat) (clear : Bool) (k : Nat) : bit ((s.warned f v clear).rget R.SAFE_WARN) k =
    if k = f.bit then flt f.warnAt v || (bit (s.rget R.SAFE_WARN) f.bit && !clear) else bit (s.rget R.SAFE_WARN) k := by
  unfold State.warned
  cases hw : flt f.warnAt v
  · cases clear
    · by_cases hk : k = f.bit <;> simp [hk]
    · rw [if_neg Bool.false_ne_true, if_pos rfl, s.bit_warnFn hf]
      simp
  · rw [if_pos rfl, s.bit_warnFn hf]
    simp

/-- What a measurement of function `f` at `v` leaves; `clear` says whether a warning may clear. -/
structure State.Measured (s t : State) (f : SafeFn) (v : Nat) (clear : Bool) : Prop where
  trip : ∀ k, bit (t.rget R.SAFE_TRIP) k = if k = f.bit then flt f.tripAt v || bit (s.rget R.SAFE_TRIP) f.bit else bit (s.rget R.SAFE_TRIP) k
  tripKept : flt f.tripAt v = false → t.rget R.SAFE_TRIP = s.rget R.SAFE_TRIP
  out : flt f.tripAt v = true → bit (s.rget R.SAFE_TRIP) f.bit = false → f ∈ s.safe.fns → ∀ n, n < 4 → bit f.omask n = true →
    t.outCmd n = false
  warn : ∀ k, bit (t.rget R.SAFE_WARN) k =
    if k = f.bit then flt f.warnAt v || (bit (s.rget R.SAFE_WARN) f.bit && !clear) else bit (s.rget R.SAFE_WARN) k
  sensf : t.rget R.SAFE_SENSF = s.rget R.SAFE_SENSF
  core : t.safeCore = (s.setFn (f.measured v)).safeCore
  only : s.only t fnParts

theorem safeRegs_apart : R.SAFE_TRIP.at ≠ R.SAFE_WARN.at ∧ R.SAFE_SENSF.at ≠ R.SAFE_WARN.at ∧ R.SAFE_SENSF.at ≠ R.SAFE_TRIP.at ∧
    R.SAFE_WARN.at ∉ tripCardRegs ∧ R.SAFE_SENSF.at ∉ tripCardRegs ∧ R.SAFE_SENSF.at ∉ cardRegs ∧ R.SAFE_WARN.at ∉ cardRegs := by decide

theorem State.measured_measureFn {f : SafeFn} (hf : f.bit < 32) (v : Nat) (clear : Bool) : s.Measured (s.measureFn f v clear) f v clear := by
  obtain ⟨htw, hsw, hst, hwt, hst', hsc, -⟩ := safeRegs_apart
  have honly : s.only ((s.setFn (f.measured v)).warned (f.measured v) v clear) fnParts :=
    State.only_trans (s := s) (t := s.setFn _) (by simp [State.setFn]) (State.warned_only _ _ _ _)
  have htrip := congrArg BitVec.toNat (State.rd_warned (s.setFn (f.measured v)) htw safeTrip_apart.2 (f.measured v) v clear)
  have hwarn := State.bit_warned (s.setFn (f.measured v)) (f := f.measured v) hf v clear
  have hsensf := State.rd_warned (s.setFn (f.measured v)) hsw hsc (f.measured v) v clear
  have hcore := State.safeCore_warned (s.setFn (f.measured v)) (f.measured v) v clear
  rw [s.measureFn_eq]
  generalize (s.setFn (f.measured v)).warned (f.measured v) v clear = u at *
  change u.rget R.SAFE_TRIP = s.rget R.SAFE_TRIP at htrip
  cases habove : flt f.tripAt v
  · rw [if_neg Bool.false_ne_true]
    refine ⟨fun k => ?_, fun _ => htrip, fun h => ?_, hwarn, congrArg BitVec.toNat hsensf, hcore, honly⟩
    · rw [htrip, habove, Bool.false_or]
      split <;> simp [*]
    · rw [habove] at h
      cases h
  · rw [if_pos rfl]
    refine ⟨fun k => ?_, fun h => ?_, fun _ hclear hmem n hn hout => ?_, fun k => ?_, ?_, ?_,
      State.only_trans honly (State.tripFn_only _ _ _)⟩
    · rw [State.bit_tripFn _ (f := f.measured v) hf, htrip, habove, Bool.true_or]
      rfl
    · rw [habove] at h
      cases h
    · refine State.outCmd_tripFn _ (f := f.measured v) (g := f.measured v) hf ?_ rfl rfl (htrip ▸ hclear) v hn hout
      have hfns : u.safe.fns = (s.setFn (f.measured v)).safe.fns := State.fns_of_safeCore hcore
      rw [hfns]
      exact s.measured_mem hmem v
    · rw [State.rget, State.rd_tripFn _ htw.symm hwt]
      exact hwarn k
    · rw [State.rget, State.rd_tripFn _ hst hst', hsensf]
      rfl
    · rw [State.safeCore_tripFn, hcore]

/-- The record of a measured function is what Proctor holds for it now. -/
theorem State.fnNow_of_setFn {t : State} {f g : SafeFn} (hg : f.kind = g.kind ∧ f.entry = g.entry) (hmem : f ∈ s.safe.fns)
    (hcore : t.safeCore = (s.setFn g).safeCore) : t.fnNow f = g := by
  have hfns : t.safe.fns = (s.setFn g).safe.fns := State.fns_of_safeCore hcore
  have hpred : ((fun x : SafeFn => x.kind == f.kind && x.entry == f.entry) ∘ fun x => if x.kind = g.kind ∧ x.entry = g.entry then g else x) =
      fun x => x.kind == f.kind && x.entry == f.entry := by
    funext x
    dsimp only [Function.comp]
    split
    · next h => simp [h, hg]
    · rfl
  obtain ⟨x, hx⟩ : ∃ x, s.safe.fns.find? (fun x => x.kind == f.kind && x.entry == f.entry) = some x :=
    Option.isSome_iff_exists.mp (List.find?_isSome.mpr ⟨f, hmem, by simp⟩)
  have hkey := List.find?_some hx
  simp only [Bool.and_eq_true, beq_iff_eq] at hkey
  rw [State.fnNow, hfns]
  change ((s.safe.fns.map _).find? _).getD f = g
  rw [List.find?_map, hpred, hx]
  exact if_pos ⟨hkey.1.trans hg.1, hkey.2.trans hg.2⟩

/-! ### The sensor fault of a function -/

/-- The function's record after an evaluation of its sensor-fault condition. -/
def SafeFn.sensed (f : SafeFn) (cond : Bool) (now : Nat) : SafeFn :=
  if cond then { f with badTb := if f.badTb = 0 then now + 1 else f.badTb, goodTb := 0 }
  else { f with badTb := 0, goodTb := if f.goodTb = 0 then now + 1 else f.goodTb }

theorem SafeFn.bit_sensed (f : SafeFn) (cond : Bool) (now : Nat) : (f.sensed cond now).bit = f.bit := by
  cases cond <;> rfl

/-- The sensor-fault bit of a function is set or cleared, with its card. -/
def State.showSensor (s : State) (f : SafeFn) (b : Bool) (event : Nat) : State :=
  (s.draw.2.fnSet R.SAFE_SENSF f b).safeCard event (f.head ++ [BitVec.ofNat 8 s.draw.1])

theorem State.sensorFn_eq (f : SafeFn) (cond : Bool) (since v : Nat) : s.sensorFn f cond since v =
    let g := f.sensed cond s.now
    let on := bit ((s.setFn g).rget R.SAFE_SENSF) g.bit
    if cond ∧ !on ∧ g.badTb - 1 + since ≤ s.now then
      if ((s.setFn g).showSensor g true 4).safe.sensTrip then ((s.setFn g).showSensor g true 4).tripFn g v
      else (s.setFn g).showSensor g true 4
    else if !cond ∧ on ∧ g.goodTb - 1 + 100000000 ≤ s.now then (s.setFn g).showSensor g false 5
    else s.setFn g := rfl

/-- What an evaluation of the sensor-fault condition leaves. -/
structure State.Sensed (s t : State) (f : SafeFn) (cond : Bool) (since : Nat) : Prop where
  trip : ∀ k, k ≠ f.bit → bit (t.rget R.SAFE_TRIP) k = bit (s.rget R.SAFE_TRIP) k
  latched : bit (s.rget R.SAFE_TRIP) f.bit = true → t.rget R.SAFE_TRIP = s.rget R.SAFE_TRIP ∧ ∀ n, t.outCmd n = s.outCmd n
  tripKept : s.safe.sensTrip = false → t.rget R.SAFE_TRIP = s.rget R.SAFE_TRIP
  warn : t.rget R.SAFE_WARN = s.rget R.SAFE_WARN
  sensf : ∀ k, k ≠ f.bit → bit (t.rget R.SAFE_SENSF) k = bit (s.rget R.SAFE_SENSF) k
  set : cond = true → f.badTb ≠ 0 → f.badTb - 1 + since ≤ s.now → bit (t.rget R.SAFE_SENSF) f.bit = true
  only : s.only t (.free :: fnParts)

theorem State.showSensor_only (f : SafeFn) (b : Bool) (e : Nat) : s.only (s.showSensor f b e) (.free :: fnParts) := by
  simp [State.showSensor, State.fnSet, State.draw]

theorem State.rd_showSensor {a : Nat} (hsensf : a ≠ R.SAFE_SENSF.at) (h : a ∉ cardRegs) (f : SafeFn) (b : Bool) (e : Nat) :
    (s.showSensor f b e).rd a = s.rd a := by
  rw [State.showSensor, State.rd_safeCard _ h, State.rd_fnSet_ne _ hsensf]
  rfl

theorem State.bit_showSensor {f : SafeFn} (hf : f.bit < 32) (b : Bool) (e k : Nat) :
    bit ((s.showSensor f b e).rget R.SAFE_SENSF) k = if k = f.bit then b else bit (s.rget R.SAFE_SENSF) k := by
  rw [State.rget, State.showSensor, State.rd_safeCard _ (by decide)]
  exact State.bit_fnSet _ hf R.SAFE_SENSF b k

theorem State.outCmd_showSensor (f : SafeFn) (b : Bool) (e n : Nat) : (s.showSensor f b e).outCmd n = s.outCmd n :=
  congrArg (bit · n) (State.fget_of_rd (f := F.SAFE_STAT_OUTCMD) (s.rd_showSensor (by decide) (by decide) f b e))

theorem State.sensTrip_showSensor (f : SafeFn) (b : Bool) (e : Nat) : (s.showSensor f b e).safe.sensTrip = s.safe.sensTrip :=
  have hcore : (s.showSensor f b e).safeCore.sensTrip = s.safeCore.sensTrip :=
    congrArg Safe.sensTrip (State.safeCore_safeCard (s.draw.2.fnSet R.SAFE_SENSF f b) _ _ _ _ _)
  hcore

theorem State.sensed_setFn (f : SafeFn) {cond : Bool} {since now : Nat}
    (hset : cond = true → f.badTb ≠ 0 → f.badTb - 1 + since ≤ s.now → bit (s.rget R.SAFE_SENSF) f.bit = true) :
    s.Sensed (s.setFn (f.sensed cond now)) f cond since where
  trip _ _ := rfl
  latched _ := ⟨rfl, fun _ => rfl⟩
  tripKept _ := rfl
  warn := rfl
  sensf _ _ := rfl
  set := hset
  only := by simp [State.setFn]

theorem State.sensed_showSensor {f : SafeFn} (hf : f.bit < 32) {cond : Bool} {b : Bool} (hb : cond = true → b = true) (e since now : Nat) :
    s.Sensed ((s.setFn (f.sensed cond now)).showSensor (f.sensed cond now) b e) f cond since := by
  have hbit := f.bit_sensed cond now
  obtain ⟨htw, hsw, hst, -, -, hsc, hwc⟩ := safeRegs_apart
  have htrip : ((s.setFn (f.sensed cond now)).showSensor (f.sensed cond now) b e).rget R.SAFE_TRIP = s.rget R.SAFE_TRIP :=
    congrArg BitVec.toNat (State.rd_showSensor _ hst.symm safeTrip_apart.2 ..)
  have hshow := State.bit_showSensor (s.setFn (f.sensed cond now)) (f := f.sensed cond now) (by rwa [hbit]) b e
  exact {
    trip := fun _ _ => by rw [htrip]
    latched := fun _ => ⟨htrip, fun n => State.outCmd_showSensor _ _ _ _ n⟩
    tripKept := fun _ => htrip
    warn := congrArg BitVec.toNat (State.rd_showSensor _ hsw.symm hwc _ _ _)
    sensf := fun k hk => (hshow k).trans (if_neg (by rwa [hbit]))
    set := fun hc _ _ => (hshow f.bit).trans ((if_pos hbit.symm).trans (hb hc))
    only := State.only_trans (s := s) (t := s.setFn _) (by simp [State.setFn]) (State.showSensor_only _ _ _ _) }

theorem State.sensed_sensorFn {f : SafeFn} (hf : f.bit < 32) (cond : Bool) (since v : Nat) :
    s.Sensed (s.sensorFn f cond since v) f cond since := by
  have hbit := f.bit_sensed cond s.now
  rw [s.sensorFn_eq]
  dsimp only
  split
  · next hfire =>
    have hshow := s.sensed_showSensor hf (cond := cond) (b := true) (fun _ => rfl) 4 since s.now
    have hcore : ((s.setFn (f.sensed cond s.now)).showSensor (f.sensed cond s.now) true 4).safe.sensTrip = s.safe.sensTrip :=
      (s.setFn (f.sensed cond s.now)).sensTrip_showSensor (f.sensed cond s.now) true 4
    generalize (s.setFn (f.sensed cond s.now)).showSensor (f.sensed cond s.now) true 4 = u at *
    split
    · next htrip =>
      obtain ⟨htw, hsw, hst, hwt, hst', -⟩ := safeRegs_apart
      have hsens : (u.tripFn (f.sensed cond s.now) v).rget R.SAFE_SENSF = u.rget R.SAFE_SENSF :=
        congrArg BitVec.toNat (State.rd_tripFn _ hst hst' _ _)
      refine ⟨fun k hk => ?_, fun h => ?_, fun h => ?_, ?_, fun k hk => ?_, fun hc hb hn => ?_,
        State.only_trans hshow.only (State.only_mono (u.tripFn_only _ _) (by simp))⟩
      · rw [State.bit_tripFn _ (by rwa [hbit]), hbit, if_neg hk, hshow.trip k hk]
      · obtain ⟨hkept, hcmd⟩ := hshow.latched h
        have hon : bit (u.rget R.SAFE_TRIP) (f.sensed cond s.now).bit = true := by rw [hbit, hkept, h]
        rw [u.tripFn_of_latched hon]
        exact ⟨hkept, hcmd⟩
      · rw [h] at hcore
        exact absurd (hcore.symm.trans htrip) Bool.false_ne_true
      · rw [← hshow.warn]
        exact congrArg BitVec.toNat (State.rd_tripFn _ htw.symm hwt _ _)
      · rw [hsens, hshow.sensf k hk]
      · rw [hsens, hshow.set hc hb hn]
    · exact hshow
  · next hfire =>
    split
    · next hclear => exact s.sensed_showSensor hf (fun h => by simp [h] at hclear) 5 since s.now
    · refine s.sensed_setFn f fun hc hb hn => ?_
      rw [hbit] at hfire
      subst hc
      by_contra hoff
      have hoff' : (!bit ((s.setFn (f.sensed true s.now)).rget R.SAFE_SENSF) f.bit) = true := Bool.not_eq_true' _ ▸ (Bool.not_eq_true _).mp hoff
      refine hfire ⟨rfl, hoff', ?_⟩
      simpa [SafeFn.sensed, hb] using hn

end Sys2Proof.Machine
end

section
/-! PROOF. Proctor's functions trip, warn and clear; resets (spec/15, R422 to R427). -/

namespace Sys2Proof.Machine

variable (s : State)

/-! ### The evaluations of one function -/

/-- What an evaluation of function `f` at `v` with its clearing level and sensor-fault condition shows. -/
structure State.Evaluated (s t : State) (f : SafeFn) (v clear : Nat) (cond : Bool) : Prop where
  trip : flt f.tripAt v = true → bit (t.rget R.SAFE_TRIP) f.bit = true
  out : flt f.tripAt v = true → bit (s.rget R.SAFE_TRIP) f.bit = false → ∀ n, n < 4 → bit f.omask n = true → t.outCmd n = false
  tripKept : flt f.tripAt v = false → s.safe.sensTrip = false → t.rget R.SAFE_TRIP = s.rget R.SAFE_TRIP
  warn : flt f.warnAt v = true → bit (t.rget R.SAFE_WARN) f.bit = true
  clears : flt f.warnAt v = false → bit (t.rget R.SAFE_WARN) f.bit = (bit (s.rget R.SAFE_WARN) f.bit && !flt v clear)
  sensf : cond = true → f.badTb ≠ 0 → f.badTb - 1 + 10000000 ≤ s.now → bit (t.rget R.SAFE_SENSF) f.bit = true
  others : ∀ b, b ≠ f.bit → bit (t.rget R.SAFE_TRIP) b = bit (s.rget R.SAFE_TRIP) b ∧
    bit (t.rget R.SAFE_WARN) b = bit (s.rget R.SAFE_WARN) b ∧ bit (t.rget R.SAFE_SENSF) b = bit (s.rget R.SAFE_SENSF) b
  only : s.only t (.free :: fnParts)

theorem State.evaluated_measure_sensor {f : SafeFn} (hmem : f ∈ s.safe.fns) (hf : f.bit < 32) (v clear : Nat) (cond : Bool) :
    s.Evaluated ((s.measureFn f v (flt v clear)).sensorFn ((s.measureFn f v (flt v clear)).fnNow f) cond 10000000 v) f v clear cond := by
  have hm := s.measured_measureFn hf v (flt v clear)
  generalize s.measureFn f v (flt v clear) = u at *
  rw [State.fnNow_of_setFn s (f := f) (g := f.measured v) ⟨rfl, rfl⟩ hmem hm.core]
  have hs := u.sensed_sensorFn (f := f.measured v) hf cond 10000000 v
  generalize u.sensorFn (f.measured v) cond 10000000 v = t at *
  have hself : bit (u.rget R.SAFE_TRIP) f.bit = (flt f.tripAt v || bit (s.rget R.SAFE_TRIP) f.bit) := (hm.trip f.bit).trans (if_pos rfl)
  have hwarn : bit (t.rget R.SAFE_WARN) f.bit = (flt f.warnAt v || (bit (s.rget R.SAFE_WARN) f.bit && !flt v clear)) := by
    rw [hs.warn]
    exact (hm.warn f.bit).trans (if_pos rfl)
  have hsensTrip : u.safeCore.sensTrip = (s.setFn (f.measured v)).safeCore.sensTrip := congrArg Safe.sensTrip hm.core
  have hnow : u.now = s.now := congrArg BitVec.toNat (hm.only .timebase (by simp))
  refine ⟨fun h => ?_, fun h hclear n hn hout => ?_, fun h hoff => ?_, fun h => ?_, fun h => ?_, fun hc hb hn => ?_, fun b hb => ⟨?_, ?_, ?_⟩,
    State.only_trans (State.only_mono hm.only (by simp)) hs.only⟩
  · have hon : bit (u.rget R.SAFE_TRIP) f.bit = true := by rw [hself, h, Bool.true_or]
    rw [(hs.latched hon).1, hon]
  · rw [(hs.latched (by rw [SafeFn.bit_measured, hself, h, Bool.true_or])).2, hm.out h hclear hmem n hn hout]
  · rw [hs.tripKept (hsensTrip.trans hoff), hm.tripKept h]
  · rw [hwarn, h, Bool.true_or]
  · rw [hwarn, h, Bool.false_or]
  · exact hs.set hc hb (hnow ▸ hn)
  · exact (hs.trip b hb).trans ((hm.trip b).trans (if_neg hb))
  · rw [hs.warn]
    exact (hm.warn b).trans (if_neg hb)
  · rw [hs.sensf b hb, hm.sensf]

theorem State.onFn_of_find {kind entry : Nat} {f : SafeFn} (hfind : s.safe.fns.find? (fun f => f.kind == kind && f.entry == entry) = some f)
    (hrun : s.fnsRun = true) (g : State → SafeFn → State) : s.onFn kind entry g = g s f := by
  unfold State.onFn
  rw [hfind, hrun]
  rfl

/-- The function that an evaluation finds has the kind and the entry. -/
theorem fn_of_find {l : List SafeFn} {kind entry : Nat} {f : SafeFn} (h : l.find? (fun f => f.kind == kind && f.entry == entry) = some f) :
    f ∈ l ∧ f.kind = kind ∧ f.entry = entry := by
  have hkey := List.find?_some h
  simp only [Bool.and_eq_true, beq_iff_eq] at hkey
  exact ⟨List.mem_of_find?_eq_some h, hkey⟩

/-! ### The speed of an input is no negative number -/

/-- The sign of a value that has one. -/
def FV.negative : FV → Bool
  | .nan => false
  | .inf neg => neg
  | .fin neg _ _ => neg

theorem FFmt.encode_f32_lt {v : FV} (hv : v.negative = false) (sticky : Bool) : FFmt.f32.encode v sticky < 2 ^ 31 := by
  match v with
  | .nan => change 0x7FC00000 < 2 ^ 31
            decide
  | .inf neg =>
    obtain rfl : neg = false := hv
    change 0 * 2 ^ 31 + FFmt.f32.top < 2 ^ 31
    decide
  | .fin neg m e =>
    obtain rfl : neg = false := hv
    have htop : FFmt.f32.top < 2 ^ 31 := by decide
    change 0 * 2 ^ 31 + (if FFmt.f32.roundMag m e sticky < FFmt.f32.top then FFmt.f32.roundMag m e sticky else FFmt.f32.top) < 2 ^ 31
    split <;> omega

theorem negative_f32 {x : Nat} (hx : x < 2 ^ 31) : (f32 x).negative = false := by
  have hneg : bit x (FFmt.f32.eb + FFmt.f32.mb) = false := by
    rw [bit_eq_testBit]
    exact Nat.testBit_lt_two_pow hx
  rw [f32, FFmt.decode, hneg]
  repeat' split
  all_goals rfl

theorem FV.lt_zero {v : FV} (hv : v.negative = false) (e : Int) : v.lt (.fin false 0 e) = false := by
  match v with
  | .nan => rfl
  | .inf neg => exact hv
  | .fin neg m q =>
    obtain rfl : neg = false := hv
    simp [FV.lt, FV.at]

theorem flt_zero_of_lt {x : Nat} (hx : x < 2 ^ 31) : flt x 0 = false := FV.lt_zero (negative_f32 hx) FFmt.f32.emin

theorem FV.negative_div_ofInt (a b : Nat) : ((FV.ofInt a).div (FV.ofInt b)).1.negative = false := by
  have ha : decide ((a : Int) < 0) = false := decide_eq_false (by omega)
  have hb : decide ((b : Int) < 0) = false := decide_eq_false (by omega)
  simp only [FV.ofInt, FV.ofIntAt, ha, hb, FV.div]
  repeat' split
  all_goals rfl

theorem State.safeSpeed_lt (k epr : Nat) : (s.safeSpeed k epr).getD 0 < 2 ^ 31 := by
  unfold State.safeSpeed
  dsimp only
  split
  · split
    · exact FFmt.encode_f32_lt (FV.negative_div_ofInt 1000000000 _) _
    · decide
  · decide

/-! ### The measurement of a speed -/

/-- The edge list of input `k` with a new edge. -/
def State.withEdge (s : State) (k tm : Nat) : State :=
  let l := Sparse.get (fun _ => []) s.safe.edges k
  s.setSafe { s.safe with edges := Sparse.put (fun _ => []) s.safe.edges k (tm :: l.take 1024) }

/-- An overspeed function measures the faster of its inputs and compares them. -/
def State.measureSpeed (s : State) (f : SafeFn) : State :=
  let epr := leAt f.bytes 4 2
  let fa := (s.safeSpeed (leAt f.bytes 0 1) epr).getD 0
  let fb := if leAt f.bytes 1 1 = 0xFF then 0 else (s.safeSpeed (leAt f.bytes 1 1) epr).getD 0
  let hi := if flt fa fb then fb else fa
  let s := s.measureFn f hi (flt hi (fmul 0x3F7AE148 f.warnAt))
  s.speedFault (s.fnNow f)

theorem State.execOverspeedEval_eq (k : Fin 4) (tm : DWord) (h : s.fnsRun = true) : exec (.overspeedEval k tm) s = .next
    ((s.safe.fns.filter (fun f => f.kind == 2 && (leAt f.bytes 0 1 == k.val || leAt f.bytes 1 1 == k.val))).foldl
      State.measureSpeed (s.withEdge k.val tm.toNat)) := by
  change execOverspeedEval k tm s = _
  rw [execOverspeedEval, h]
  rfl

/-- A function of one input measures that input's speed alone. -/
theorem State.measureSpeed_of_one {f : SafeFn} (hmem : f ∈ s.safe.fns) (hf : f.bit < 32) (hone : leAt f.bytes 1 1 = 0xFF) :
    s.measureSpeed f = s.measureFn f ((s.safeSpeed (leAt f.bytes 0 1) (leAt f.bytes 4 2)).getD 0)
      (flt ((s.safeSpeed (leAt f.bytes 0 1) (leAt f.bytes 4 2)).getD 0) (fmul 0x3F7AE148 f.warnAt)) := by
  unfold State.measureSpeed
  dsimp only
  rw [if_pos hone, flt_zero_of_lt (s.safeSpeed_lt _ _), if_neg Bool.false_ne_true]
  generalize (s.safeSpeed (leAt f.bytes 0 1) (leAt f.bytes 4 2)).getD 0 = v
  have hcore := (s.measured_measureFn hf v (flt v (fmul 0x3F7AE148 f.warnAt))).core
  rw [State.fnNow_of_setFn s (f := f) (g := f.measured v) ⟨rfl, rfl⟩ hmem hcore]
  exact if_pos hone

/-! ### Safety resets (R427) -/

/-- A latched trip stands. -/
def State.tripStands (s : State) (f : SafeFn) : Bool := f.above || (bit (s.rget R.SAFE_SENSF) f.bit && s.safe.sensTrip)

/-- The latched trips that still stand, as register bits. -/
def State.tripsLeft (s : State) : Nat :=
  (s.safe.fns.filter (fun f => bit (s.rget R.SAFE_TRIP) f.bit && s.tripStands f)).foldl (fun m f => m ||| 2 ^ f.bit) 0

/-- The output faults that still stand. -/
def State.faultsLeft (s : State) : Nat :=
  (setBits 4 (s.fget F.SAFE_STAT_OUTFLT)).foldl (fun m n => if s.outClean n then m else m + 2 ^ n) 0

/-- What no longer stands is cleared. -/
def State.resetCleared (s : State) : State :=
  (setBits 4 (s.fget F.SAFE_STAT_OUTFLT)).foldl (fun u n =>
      if bit s.faultsLeft n then u else u.setSo n { u.so n with faults := [], bad := [], hsOff := false, lsOff := false })
    ((s.rset R.SAFE_TRIP s.tripsLeft).fset F.SAFE_STAT_OUTFLT s.faultsLeft)

/-- A reset is accepted. -/
def State.resetAccepted (s : State) : State := (s.count R.SAFE_RESETS).setSafe { s.safe with resetWait := false }

theorem State.resetRequest_eq (source : Nat) : s.resetRequest source =
    if s.tripsLeft = 0 ∧ s.faultsLeft = 0 then
      (s.resetCleared.resetAccepted.safeCard 6 ([BitVec.ofNat 8 source, 0, 0, 0] ++ leBytes 4 (s.rget R.SAFE_TRIP))).safeOutputs
    else (s.resetCleared.safeCard 0x0C ([0, 0, 0, 0] ++ leBytes 4 s.tripsLeft)).safeOutputs := rfl

theorem State.tripsLeft_eq_zero
    (h : ∀ f, f ∈ s.safe.fns → bit (s.rget R.SAFE_TRIP) f.bit = true → f.above = false ∧
      (s.safe.sensTrip = false ∨ bit (s.rget R.SAFE_SENSF) f.bit = false)) : s.tripsLeft = 0 := by
  have hnil : s.safe.fns.filter (fun f => bit (s.rget R.SAFE_TRIP) f.bit && s.tripStands f) = [] := by
    refine List.filter_eq_nil_iff.mpr fun f hf hstand => ?_
    obtain ⟨htrip, hstands⟩ := (Bool.and_eq_true _ _).mp hstand
    obtain ⟨habove, hsens⟩ := h f hf htrip
    rcases hsens with hsens | hsens <;> simp [State.tripStands, habove, hsens] at hstands
  rw [State.tripsLeft, hnil]
  rfl

theorem State.faultsLeft_eq_zero (h : ∀ n, n < 4 → bit (s.fget F.SAFE_STAT_OUTFLT) n = true → s.outClean n = true) : s.faultsLeft = 0 := by
  have hskip : ∀ l : List Nat, (∀ n ∈ l, s.outClean n = true) →
      l.foldl (fun m n => if s.outClean n then m else m + 2 ^ n) 0 = 0 := by
    intro l hl
    induction l with
    | nil => rfl
    | cons n l ih =>
      rw [List.foldl_cons, if_pos (hl n (by simp))]
      exact ih fun k hk => hl k (by simp [hk])
  refine hskip _ fun n hn => ?_
  obtain ⟨hlt, hbit⟩ := mem_setBits.mp hn
  exact h n hlt hbit

theorem bit_foldl_or (l : List SafeFn) (m k : Nat) :
    bit (l.foldl (fun m f => m ||| 2 ^ f.bit) m) k = (bit m k || l.any (fun f => f.bit == k)) := by
  induction l generalizing m with
  | nil => simp
  | cons f l ih =>
    rw [List.foldl_cons, ih, List.any_cons, bit_eq_testBit, bit_eq_testBit, Nat.testBit_or, Nat.testBit_two_pow, Bool.or_assoc]
    rfl

theorem State.bit_tripsLeft {f : SafeFn} (hmem : f ∈ s.safe.fns) (htrip : bit (s.rget R.SAFE_TRIP) f.bit = true) (habove : f.above = true) :
    bit s.tripsLeft f.bit = true := by
  have hf : f ∈ s.safe.fns.filter (fun f => bit (s.rget R.SAFE_TRIP) f.bit && s.tripStands f) :=
    List.mem_filter.mpr ⟨hmem, by simp [htrip, State.tripStands, habove]⟩
  rw [State.tripsLeft, bit_foldl_or, Bool.or_eq_true]
  exact .inr (List.any_eq_true.mpr ⟨f, hf, beq_self_eq_true _⟩)

/-- Clearing the records of outputs changes nothing else. -/
theorem foldl_setSo (l : List Nat) (p : Nat → Bool) (x : State → Nat → So) (t : State) :
    t.only (l.foldl (fun u n => if p n then u else u.setSo n (x u n)) t) [.safe] ∧
      (l.foldl (fun u n => if p n then u else u.setSo n (x u n)) t).safeCore = t.safeCore := by
  induction l generalizing t with
  | nil => exact ⟨t.only_refl _, rfl⟩
  | cons n l ih =>
    rw [List.foldl_cons]
    obtain ⟨honly, hcore⟩ := ih (if p n then t else t.setSo n (x t n))
    refine ⟨State.only_trans ?_ honly, hcore.trans ?_⟩
    · split <;> simp
    · split
      · rfl
      · exact t.safeCore_setSo n _

theorem State.resetCleared_only : s.only s.resetCleared [.regs, .safe] :=
  State.only_trans (t := (s.rset R.SAFE_TRIP s.tripsLeft).fset F.SAFE_STAT_OUTFLT s.faultsLeft) (by simp)
    (State.only_mono (foldl_setSo _ _ _ _).1 (by simp))

theorem State.rd_resetCleared (a : Nat) :
    s.resetCleared.rd a = ((s.rset R.SAFE_TRIP s.tripsLeft).fset F.SAFE_STAT_OUTFLT s.faultsLeft).rd a :=
  State.rd_of_only ((foldl_setSo _ _ _ _).1) (by decide) a

theorem State.safeCore_resetCleared : s.resetCleared.safeCore = s.safeCore :=
  (foldl_setSo _ (fun n => bit s.faultsLeft n) _ _).2

theorem safeResets_apart : R.SAFE_RESETS.at ∉ commandRegs ∧ R.SAFE_RESETS.at ∉ cardRegs ∧ R.SAFE_RESETS.at ≠ R.SAFE_STAT.at ∧
    R.SAFE_RESETS.at ≠ R.SAFE_TRIP.at ∧ R.SAFE_TRIP.at ≠ R.SAFE_STAT.at ∧ R.SAFE_STAT.at ∉ cardRegs ∧ R.SAFE_STAT.at ≠ R.SAFE_RESETS.at := by
  decide

theorem State.trip_resetCleared : s.resetCleared.rget R.SAFE_TRIP = s.tripsLeft % 2 ^ 32 := by
  obtain ⟨-, -, -, -, hts, -⟩ := safeResets_apart
  rw [State.rget, State.rd_resetCleared, State.rd_fset_ne _ F.SAFE_STAT_OUTFLT _ _ _ _ hts]
  exact State.rget_rset_self ..

theorem State.resets_resetCleared : s.resetCleared.rget R.SAFE_RESETS = s.rget R.SAFE_RESETS := by
  obtain ⟨-, -, hrs, hrt, -⟩ := safeResets_apart
  rw [State.rget, State.rd_resetCleared, State.rd_fset_ne _ F.SAFE_STAT_OUTFLT _ _ _ _ hrs]
  exact congrArg BitVec.toNat (State.rd_rset_ne _ R.SAFE_TRIP _ _ _ _ hrt)

theorem State.outflt_resetCleared : s.resetCleared.fget F.SAFE_STAT_OUTFLT = s.faultsLeft % 2 ^ 4 := by
  rw [State.fget_of_rd (f := F.SAFE_STAT_OUTFLT) (s.rd_resetCleared _), State.fget_fset_self _ F.SAFE_STAT_OUTFLT _ _ _ (by decide) (by decide)]
  rfl

/-- A card of the safety functions and a round of output commands leave the reset's registers. -/
theorem State.rget_card_safeOutputs {r : RegDesc} (hcard : r.at ∉ cardRegs) (hcommand : r.at ∉ commandRegs) (e : Nat) (d : List Byte) :
    (s.safeCard e d).safeOutputs.rget r = s.rget r := by
  rw [State.rget, State.safeOutputs_regsOnly _ _ hcommand, State.rd_safeCard _ hcard]
  rfl

/-- A reset request at which nothing stands is accepted. -/
theorem State.resetRequest_accepted (source : Nat) (htrips : s.tripsLeft = 0) (hfaults : s.faultsLeft = 0) :
    (s.resetRequest source).rget R.SAFE_TRIP = 0 ∧ (s.resetRequest source).fget F.SAFE_STAT_OUTFLT = 0 ∧
      (s.resetRequest source).rget R.SAFE_RESETS = satAdd 32 (s.rget R.SAFE_RESETS) 1 ∧ (s.resetRequest source).safe.resetWait = false ∧
      s.only (s.resetRequest source) fnParts := by
  obtain ⟨hrc, hrk, hrs, hrt, hts, hsk, hsr⟩ := safeResets_apart
  rw [s.resetRequest_eq, if_pos ⟨htrips, hfaults⟩]
  refine ⟨?_, ?_, ?_, ?_, ?_⟩
  · rw [State.rget_card_safeOutputs _ safeTrip_apart.2 safeTrip_apart.1]
    refine (State.rget_rset_ne s.resetCleared _ R.SAFE_TRIP _ _ _ _ _ hrt.symm).trans ?_
    rw [State.trip_resetCleared, htrips, Nat.zero_mod]
  · rw [State.fget_safeOutputs _ rfl (by decide), State.fget_of_rd (State.rd_safeCard _ hsk _ _ _ _ _)]
    refine (State.fget_rset_ne s.resetCleared _ _ _ _ _ _ _ hsr).trans ?_
    rw [State.outflt_resetCleared, hfaults, Nat.zero_mod]
  · rw [State.rget_card_safeOutputs _ hrk hrc]
    refine (State.rget_count_self s.resetCleared R.SAFE_RESETS 1 0 0).trans ?_
    rw [State.resets_resetCleared]
  · have hcore : (s.resetCleared.resetAccepted.safeCard 6 ([BitVec.ofNat 8 source, 0, 0, 0] ++ leBytes 4 (s.rget R.SAFE_TRIP))).safeOutputs.safeCore
        = s.resetCleared.resetAccepted.safeCore := by rw [State.safeCore_safeOutputs, State.safeCore_safeCard]
    have hwait : _ = s.resetCleared.resetAccepted.safeCore.resetWait := congrArg Safe.resetWait hcore
    exact hwait
  · simp only [State.only_safeOutputs_iff, State.only_safeCard_iff, List.mem_cons, true_or, or_true]
    exact State.only_trans (State.only_mono s.resetCleared_only (by simp)) (by simp [State.resetAccepted, State.count])

/-- A reset request at which a trip stands clears nothing of it. -/
theorem State.resetRequest_stands (source : Nat) {k : Nat} (hk : k < 32) (h : bit s.tripsLeft k = true) :
    bit ((s.resetRequest source).rget R.SAFE_TRIP) k = true ∧ (s.resetRequest source).rget R.SAFE_RESETS = s.rget R.SAFE_RESETS ∧
      (s.resetRequest source).safe.resetWait = s.safe.resetWait := by
  obtain ⟨hrc, hrk, -⟩ := safeResets_apart
  have hne : s.tripsLeft ≠ 0 := fun h0 => by
    rw [h0, bit_eq_testBit, Nat.zero_testBit] at h
    cases h
  rw [s.resetRequest_eq, if_neg fun h0 => hne h0.1]
  refine ⟨?_, ?_, ?_⟩
  · rw [State.rget_card_safeOutputs _ safeTrip_apart.2 safeTrip_apart.1, State.trip_resetCleared, bit_eq_testBit, Nat.testBit_mod_two_pow,
      ← bit_eq_testBit, h, decide_eq_true hk, Bool.true_and]
  · rw [State.rget_card_safeOutputs _ hrk hrc, State.resets_resetCleared]
  · have hcore : (s.resetCleared.safeCard 0x0C ([0, 0, 0, 0] ++ leBytes 4 s.tripsLeft)).safeOutputs.safeCore = s.safeCore := by
      rw [State.safeCore_safeOutputs, State.safeCore_safeCard, State.safeCore_resetCleared]
    have hwait : _ = s.safeCore.resetWait := congrArg Safe.resetWait hcore
    exact hwait

/-- The source of a reset request is one that the parameters name. -/
def State.resetNamed (s : State) : Option (Fin 4) → Bool
  | none => bit (leAt s.safe.params 5 1) 3
  | some h => bit (leAt s.safe.params 5 1) 4 && bits (leAt s.safe.params 5 1) 5 2 == h.val

/-- The number of the request's source. -/
def resetSource (host : Option (Fin 4)) : Nat := if host.isSome then 1 else 0

theorem State.execSafetyResetRequest_eq (host : Option (Fin 4)) : exec (.safetyResetRequest host) s =
    .next (if s.fnsRun && s.resetNamed host then s.resetRequest (resetSource host) else s) := by
  change execSafetyResetRequest host s = _
  unfold execSafetyResetRequest
  cases hrun : s.fnsRun
  · rfl
  · cases host with
    | none => rfl
    | some h => simp [State.resetNamed, resetSource]

theorem State.safetyReset_ignored (host : Option (Fin 4)) (h : s.fnsRun = false ∨ s.resetNamed host = false) :
    exec (.safetyResetRequest host) s = .next s := by
  rw [s.execSafetyResetRequest_eq]
  rcases h with h | h <;> simp [h]

theorem State.safetyReset_accepted (host : Option (Fin 4)) (hrun : s.fnsRun = true) (hnamed : s.resetNamed host = true)
    (hclean : ∀ n, n < 4 → bit (s.fget F.SAFE_STAT_OUTFLT) n = true → s.outClean n = true)
    (hstand : ∀ f, f ∈ s.safe.fns → bit (s.rget R.SAFE_TRIP) f.bit = true → f.above = false ∧
      (s.safe.sensTrip = false ∨ bit (s.rget R.SAFE_SENSF) f.bit = false)) :
    ∃ t, exec (.safetyResetRequest host) s = .next t ∧ t.rget R.SAFE_TRIP = 0 ∧ t.fget F.SAFE_STAT_OUTFLT = 0 ∧
      t.rget R.SAFE_RESETS = satAdd 32 (s.rget R.SAFE_RESETS) 1 ∧ t.safe.resetWait = false ∧ s.only t fnParts := by
  rw [s.execSafetyResetRequest_eq, hrun, hnamed]
  exact ⟨_, rfl, s.resetRequest_accepted _ (s.tripsLeft_eq_zero hstand) (s.faultsLeft_eq_zero hclean)⟩

theorem State.safetyReset_stands (host : Option (Fin 4)) (hrun : s.fnsRun = true) (hnamed : s.resetNamed host = true) (f : SafeFn)
    (hf : f ∈ s.safe.fns) (hbit : f.bit < 32) (htrip : bit (s.rget R.SAFE_TRIP) f.bit = true) (habove : f.above = true) :
    ∃ t, exec (.safetyResetRequest host) s = .next t ∧ bit (t.rget R.SAFE_TRIP) f.bit = true ∧
      t.rget R.SAFE_RESETS = s.rget R.SAFE_RESETS ∧ t.safe.resetWait = s.safe.resetWait := by
  rw [s.execSafetyResetRequest_eq, hrun, hnamed]
  exact ⟨_, rfl, s.resetRequest_stands _ hbit (s.bit_tripsLeft hf htrip habove)⟩

/-- Settles O50: a measurement's trip, warning and sensor fault are its function's bits alone, and a reset clears what no longer stands. -/
theorem safetyFunctionsTripWarnAndReset : Obligations.SafetyFunctionsTripWarnAndReset := by
  unfold Obligations.SafetyFunctionsTripWarnAndReset
  refine ⟨fun s c f v clear cond hc hrun => ?_, fun k tm s u hrun hu => ⟨fun hnil => ?_, fun f hone hentry hkb => ?_⟩, fun host s => ?_⟩
  · suffices h : ∃ t, exec c s = .next t ∧ s.Evaluated t f v.toNat clear cond by
      obtain ⟨t, hexec, ht⟩ := h
      exact ⟨t, hexec, ht.trip, ht.out, ht.tripKept, ht.warn, ht.clears, ht.sensf, ht.others, State.only_mono ht.only (by decide)⟩
    rcases hc with ⟨e, bias, limit, rfl, hfind, rfl, rfl⟩ | ⟨e, ohm, rfl, hfind, rfl, rfl⟩
    · obtain ⟨hmem, hkind, hentry⟩ := fn_of_find hfind
      have hbit : f.bit < 32 := by
        rw [SafeFn.bit, hkind, hentry]
        exact Nat.lt_trans e.isLt (by decide)
      exact ⟨_, congrArg Host.Outcome.next (s.onFn_of_find hfind hrun _), s.evaluated_measure_sensor hmem hbit ..⟩
    · obtain ⟨hmem, hkind, hentry⟩ := fn_of_find hfind
      have hbit : f.bit < 32 := by
        rw [SafeFn.bit, hkind, hentry]
        exact Nat.lt_of_lt_of_le (Nat.add_lt_add_left e.isLt 20) (by decide)
      exact ⟨_, congrArg Host.Outcome.next (s.onFn_of_find hfind hrun _), s.evaluated_measure_sensor hmem hbit ..⟩
  · rw [s.execOverspeedEval_eq k tm hrun, hnil, hu]
    rfl
  · have hmem : f ∈ s.safe.fns.filter (fun f => f.kind == 2 && (leAt f.bytes 0 1 == k.val || leAt f.bytes 1 1 == k.val)) := by simp [hone]
    obtain ⟨hfns, hkey⟩ := List.mem_filter.mp hmem
    simp only [Bool.and_eq_true, Bool.or_eq_true, beq_iff_eq] at hkey
    obtain ⟨hkind, hk⟩ := hkey
    have hka : leAt f.bytes 0 1 = k.val := hk.resolve_right (by omega)
    have hbit : f.bit < 32 := by
      rw [SafeFn.bit, hkind]
      exact Nat.lt_of_lt_of_le (Nat.add_lt_add_left hentry 16) (by decide)
    have hm := u.measured_measureFn hbit ((u.safeSpeed k.val (leAt f.bytes 4 2)).getD 0)
      (flt ((u.safeSpeed k.val (leAt f.bytes 4 2)).getD 0) (fmul 0x3F7AE148 f.warnAt))
    have hexec : exec (.overspeedEval k tm) s = .next (u.measureFn f ((u.safeSpeed k.val (leAt f.bytes 4 2)).getD 0)
        (flt ((u.safeSpeed k.val (leAt f.bytes 4 2)).getD 0) (fmul 0x3F7AE148 f.warnAt))) := by
      have hmeasure := State.measureSpeed_of_one (s.withEdge k.val tm.toNat) (f := f) hfns hbit hkb
      rw [hka] at hmeasure
      rw [s.execOverspeedEval_eq k tm hrun, hone, hu]
      exact congrArg Host.Outcome.next hmeasure
    have hus : u.rget R.SAFE_TRIP = s.rget R.SAFE_TRIP := by rw [hu]; rfl
    refine ⟨_, hexec, ?_, ⟨fun h => ?_, fun h => (hm.tripKept h).trans hus, fun h => ?_, fun h hclear => ?_⟩, ?_⟩
    · have hedges : _ = (u.setFn _).safeCore.edges := congrArg Safe.edges hm.core
      exact hedges
    · rw [hm.trip, if_pos rfl, h, Bool.true_or]
    · rw [hm.warn, if_pos rfl, h, Bool.true_or]
    · rw [hm.warn, if_pos rfl, h, hclear, Bool.false_or, Bool.not_true, Bool.and_false]
    · exact State.only_trans (s := s) (t := u) (by rw [hu]; simp) hm.only
  · exact ⟨s.safetyReset_ignored host, s.safetyReset_accepted host, s.safetyReset_stands host⟩

end Sys2Proof.Machine
end

section
/-! PROOF. Device safe state, its causes and what ends with it (spec/15, R429, R431, R432, R435). -/

namespace Sys2Proof.Machine

variable (s : State)

/-! ### The passes end -/

/-- The registers that the end of a pass may change. -/
def passEndRegs (p : Nat) : List Nat := [R.HOST_PASS.at p, R.LDG_TOVR.at, R.LDG_STAT.at]

variable {a : Nat}

theorem State.rd_dropTovr (htovr : a ≠ R.LDG_TOVR.at) (hstat : a ≠ R.LDG_STAT.at) : s.dropTovr.rd a = s.rd a := by
  unfold State.dropTovr
  split
  · change (((s.setFlag F.LDG_TOVR_EN false).fset F.LDG_TOVR_TARIFF _).setFlag F.LDG_STAT_OVR false).rd a = _
    rw [State.rd_setFlag_ne _ F.LDG_STAT_OVR _ _ _ _ hstat, State.rd_fset_ne _ F.LDG_TOVR_TARIFF _ _ _ _ htovr,
      State.rd_setFlag_ne _ F.LDG_TOVR_EN _ _ _ _ htovr]
  · rfl

theorem State.rd_freedPass {p : Nat} (h : a ≠ R.HOST_PASS.at p) : (s.freedPass p).rd a = s.rd a := by
  rw [State.freedPass, State.rd_fset_ne _ F.HOST_PASS_HOLDER _ _ _ _ h, State.rd_setFlag_ne _ F.HOST_PASS_HELD _ _ _ _ h]
  rfl

theorem State.rd_endPass {p : Nat} (h : a ∉ passEndRegs p) (hovr : ∀ n : Fin 4, a ∉ overrideRegs n.val) : (s.endPass p).rd a = s.rd a := by
  simp only [passEndRegs, List.mem_cons, List.not_mem_nil, or_false, not_or] at h
  obtain ⟨hpass, htovr, hstat⟩ := h
  by_cases hfree : s.passHolder p = none
  · rw [State.endPass, if_pos hfree]
  · rw [State.endPass_of_held hfree]
    split
    · rw [State.rd_dropTovr _ htovr hstat, s.rd_freedPass hpass]
    · split
      · rw [State.rd_dropOverrides _ hovr, s.rd_freedPass hpass]
      · rw [s.rd_freedPass hpass]

/-- The parts of the state that entering device safe state may change. -/
abbrev enterParts : List Part := [.regs, .chn, .aos, .safe, .ledger, .hosts, .events]

/-- Pass `p` is revoked, with a card when it was held. -/
def State.revoke (s : State) (p : Nat) : State := if s.passHolder p = none then s else (s.endPass p).safeCard 0x0D [BitVec.ofNat 8 p]

theorem State.revokeAll_eq : s.revokeAll = (List.range 8).foldl State.revoke s := rfl

theorem State.revoke_only (p : Nat) : s.only (s.revoke p) [.regs, .chn, .aos, .ledger, .hosts, .events] := by
  unfold State.revoke
  split
  · exact s.only_refl _
  · next h =>
    simp only [State.only_safeCard_iff, List.mem_cons, true_or, or_true]
    exact (State.passEnded_endPass h).only

theorem State.passHolder_revoke (p q : Nat) : (s.revoke p).passHolder q = if q = p then none else s.passHolder q := by
  unfold State.revoke
  split
  · next h =>
    split
    · next hq => rw [hq, h]
    · rfl
  · next h =>
    have hend := State.passEnded_endPass h
    refine (State.passHolder_of_only (State.card_only _ _) (by simp) q).trans ?_
    split
    · next hq => rw [hq, hend.free]
    · next hq => exact hend.others q hq

theorem State.rd_revoke {p : Nat} (h : a ∉ passEndRegs p) (hovr : ∀ n : Fin 4, a ∉ overrideRegs n.val) (hcard : a ∉ cardRegs) :
    (s.revoke p).rd a = s.rd a := by
  unfold State.revoke
  split
  · rfl
  · rw [State.rd_safeCard _ hcard, s.rd_endPass h hovr]

theorem State.foldl_revoke_only (l : List Nat) : s.only (l.foldl State.revoke s) [.regs, .chn, .aos, .ledger, .hosts, .events] := by
  induction l generalizing s with
  | nil => exact s.only_refl _
  | cons p l ih => exact State.only_trans (s.revoke_only p) (ih _)

theorem State.passHolder_foldl_revoke (l : List Nat) (q : Nat) :
    (l.foldl State.revoke s).passHolder q = if q ∈ l then none else s.passHolder q := by
  induction l generalizing s with
  | nil => rfl
  | cons p l ih =>
    rw [List.foldl_cons, ih, State.passHolder_revoke]
    by_cases hp : q = p <;> by_cases hl : q ∈ l <;> simp [hp, hl]

theorem State.rd_foldl_revoke (l : List Nat) (h : ∀ p ∈ l, a ∉ passEndRegs p) (hovr : ∀ n : Fin 4, a ∉ overrideRegs n.val)
    (hcard : a ∉ cardRegs) : (l.foldl State.revoke s).rd a = s.rd a := by
  induction l generalizing s with
  | nil => rfl
  | cons p l ih =>
    rw [List.foldl_cons, ih _ fun q hq => h q (List.mem_cons_of_mem _ hq), s.rd_revoke (h p List.mem_cons_self) hovr hcard]

theorem State.rd_aoUpdateAll (hovr : ∀ n : Fin 4, a ∉ overrideRegs n.val) : s.aoUpdateAll.rd a = s.rd a := by
  have hshow (n : Fin 4) : a ∉ aoShowRegs n.val := fun h => hovr n (List.mem_append_left _ h)
  change ((((s.aoUpdate (0 : Fin 4).val).aoUpdate (1 : Fin 4).val).aoUpdate (2 : Fin 4).val).aoUpdate (3 : Fin 4).val).rd a = _
  rw [State.aoUpdate_regsOnly _ _ a (hshow 3), State.aoUpdate_regsOnly _ _ a (hshow 2), State.aoUpdate_regsOnly _ _ a (hshow 1),
    State.aoUpdate_regsOnly _ _ a (hshow 0)]

/-! ### Every output and every pass ends -/

/-- The outputs follow their commands, every pass is revoked and the analog outputs follow. -/
def State.allOff (s : State) : State := s.safeOutputs.revokeAll.aoUpdateAll

/-- No end of an output or a pass shows in register `a`. -/
def Unshown (a : Nat) : Prop :=
  (∀ p : Fin 8, a ∉ passEndRegs p.val) ∧ (∀ n : Fin 4, a ∉ overrideRegs n.val) ∧ a ∉ cardRegs

theorem unshown_safeStat : Unshown R.SAFE_STAT.at := by
  unfold Unshown
  decide

theorem unshown_safeInject : Unshown R.SAFE_INJECT.at ∧ R.SAFE_INJECT.at ∉ commandRegs := by
  unfold Unshown
  decide

theorem unshown_safeLinkerr : Unshown R.SAFE_LINKERR.at ∧ R.SAFE_LINKERR.at ∉ commandRegs := by
  unfold Unshown
  decide

theorem State.allOff_only : s.only s.allOff enterParts :=
  State.only_trans (State.only_mono s.safeOutputs_only (by simp))
    (State.only_trans (State.only_mono (State.foldl_revoke_only _ _) (by simp)) (State.only_mono (State.aoUpdateAll_only _) (by simp)))

theorem State.rd_allOff (h : Unshown a) : s.allOff.rd a = s.safeOutputs.rd a := by
  obtain ⟨hpass, hovr, hcard⟩ := h
  rw [State.allOff, State.rd_aoUpdateAll _ hovr, State.revokeAll_eq,
    State.rd_foldl_revoke _ _ (fun p hp => hpass ⟨p, List.mem_range.mp hp⟩) hovr hcard]

theorem State.fget_allOff {f : Fld} (hreg : f.reg = R.SAFE_STAT) (hd : f.lo + f.width ≤ 24 ∨ 28 ≤ f.lo) : s.allOff.fget f = s.fget f := by
  rw [State.fget_of_rd (s := s.safeOutputs) (s.rd_allOff (by rw [hreg]; exact unshown_safeStat)), s.fget_safeOutputs hreg hd]

theorem State.outCmd_allOff (n : Fin 4) : s.allOff.outCmd n.val = s.outWanted n.val := by
  rw [← s.outCmd_safeOutputs n]
  exact congrArg (bit · n.val) (State.fget_of_rd (f := F.SAFE_STAT_OUTCMD) (s.rd_allOff unshown_safeStat))

theorem State.passHolder_allOff {p : Nat} (hp : p < 8) : s.allOff.passHolder p = none := by
  rw [State.allOff, State.passHolder_of_only (State.aoUpdateAll_only _) (by simp), State.revokeAll_eq, State.passHolder_foldl_revoke,
    if_pos (List.mem_range.mpr hp)]

theorem State.safeCore_of_only {t : State} {l : List Part} (h : s.only t l) (hl : .safe ∉ l) : t.safeCore = s.safeCore :=
  congrArg (fun x : Safe => { x with sos := [] }) (h .safe hl)

theorem State.safeCore_allOff : s.allOff.safeCore = s.safeCore := by
  rw [State.allOff, State.safeCore_of_only _ (State.aoUpdateAll_only _) (by simp),
    State.revokeAll_eq, State.safeCore_of_only _ (State.foldl_revoke_only s.safeOutputs (List.range 8)) (by simp),
    State.safeCore_safeOutputs]

/-! ### Entering device safe state (R429, R431) -/

/-- The device is in device safe state. -/
def State.inSafe (s : State) : Bool := s.fget F.SAFE_STAT_STATE == 2

/-- The cause that SAFE_STAT shows after a fault with cause `cause`. -/
def State.causeShown (s : State) (cause : Nat) : Nat :=
  if !s.inSafe then cause
  else if s.safe.enteredTb = s.now + 1 then min cause (s.fget F.SAFE_STAT_CAUSE) else s.fget F.SAFE_STAT_CAUSE

/-- SAFE_STAT shows device safe state. -/
def State.safeShown (s : State) (cause : Nat) (injected : Bool) : State :=
  let t := (s.fset F.SAFE_STAT_STATE 2).fset F.SAFE_STAT_CAUSE (s.causeShown cause)
  if injected then t.setFlag F.SAFE_STAT_INJECTED true else t

/-- The cycle of the entry is noted. -/
def State.entryNoted (s : State) : State := s.setSafe { s.safe with enteredTb := s.now + 1 }

theorem State.enterSafe_eq (cause : Nat) (injected : Bool) : s.enterSafe cause injected =
    if s.inSafe then (s.safeShown cause injected).safeCard 7 [BitVec.ofNat 8 cause]
    else ((s.safeShown cause injected).entryNoted.safeCard 7 [BitVec.ofNat 8 cause]).allOff := by
  cases h : s.inSafe
  · have h' : (s.fget F.SAFE_STAT_STATE == 2) = false := h
    cases injected <;> simp [State.enterSafe, State.safeShown, State.causeShown, h, h', State.entryNoted, State.allOff]
  · have h' : (s.fget F.SAFE_STAT_STATE == 2) = true := h
    cases injected <;> simp [State.enterSafe, State.safeShown, State.causeShown, h, h']

/-- What a fault with cause `cause` leaves. -/
structure State.Entered (s t : State) (cause : Nat) (injected : Bool) : Prop where
  state : t.fget F.SAFE_STAT_STATE = 2
  shown : t.fget F.SAFE_STAT_CAUSE = s.causeShown cause
  injected : injected = true → t.flag F.SAFE_STAT_INJECTED = true
  off : s.inSafe = false → ∀ n, n < 4 → t.outCmd n = false
  free : s.inSafe = false → ∀ p, p < 8 → t.passHolder p = none
  core : { t.safeCore with enteredTb := 0 } = { s.safeCore with enteredTb := 0 }
  inject : t.rd R.SAFE_INJECT.at = s.rd R.SAFE_INJECT.at
  only : s.only t enterParts

theorem State.safeShown_only (cause : Nat) (injected : Bool) : s.only (s.safeShown cause injected) [.regs] := by
  unfold State.safeShown
  cases injected <;> simp

theorem State.state_safeShown (cause : Nat) (injected : Bool) : (s.safeShown cause injected).fget F.SAFE_STAT_STATE = 2 := by
  have hset : ((s.fset F.SAFE_STAT_STATE 2).fset F.SAFE_STAT_CAUSE (s.causeShown cause)).fget F.SAFE_STAT_STATE = 2 := by
    rw [State.fget_fset_other _ F.SAFE_STAT_CAUSE F.SAFE_STAT_STATE _ _ _ (by rfl) (by decide) (by decide) (by decide),
      State.fget_fset_self _ _ _ _ _ (by decide) (by decide)]
    rfl
  unfold State.safeShown
  cases injected
  · exact hset
  · exact (State.fget_setFlag_other _ F.SAFE_STAT_INJECTED F.SAFE_STAT_STATE _ _ _ rfl (by decide) (by decide) (by decide)).trans hset

theorem State.causeShown_lt {cause : Nat} (h : cause < 256) : s.causeShown cause < 256 := by
  have hcause : s.fget F.SAFE_STAT_CAUSE < 256 := getField_lt ..
  unfold State.causeShown
  split
  · exact h
  · split
    · omega
    · exact hcause

theorem State.cause_safeShown {cause : Nat} (h : cause < 256) (injected : Bool) :
    (s.safeShown cause injected).fget F.SAFE_STAT_CAUSE = s.causeShown cause := by
  have hset : ((s.fset F.SAFE_STAT_STATE 2).fset F.SAFE_STAT_CAUSE (s.causeShown cause)).fget F.SAFE_STAT_CAUSE = s.causeShown cause :=
    (State.fget_fset_self _ _ _ _ _ (by decide) (by decide)).trans (Nat.mod_eq_of_lt (s.causeShown_lt h))
  unfold State.safeShown
  cases injected
  · exact hset
  · exact (State.fget_setFlag_other _ F.SAFE_STAT_INJECTED F.SAFE_STAT_CAUSE _ _ _ rfl (by decide) (by decide) (by decide)).trans hset

theorem State.injected_safeShown (cause : Nat) : (s.safeShown cause true).flag F.SAFE_STAT_INJECTED = true :=
  State.flag_setFlag_self _ _ _ _ _ (by decide) (by decide)

theorem State.safeCore_safeShown (cause : Nat) (injected : Bool) : (s.safeShown cause injected).safeCore = s.safeCore :=
  State.safeCore_of_only _ (s.safeShown_only cause injected) (by simp)

theorem State.rd_safeShown (h : a ≠ R.SAFE_STAT.at) (cause : Nat) (injected : Bool) : (s.safeShown cause injected).rd a = s.rd a := by
  have hset : ((s.fset F.SAFE_STAT_STATE 2).fset F.SAFE_STAT_CAUSE (s.causeShown cause)).rd a = s.rd a := by
    rw [State.rd_fset_ne _ F.SAFE_STAT_CAUSE _ _ _ _ h, State.rd_fset_ne _ F.SAFE_STAT_STATE _ _ _ _ h]
  unfold State.safeShown
  cases injected
  · exact hset
  · exact (State.rd_setFlag_ne _ F.SAFE_STAT_INJECTED _ _ _ _ h).trans hset

/-- Entering leaves the registers that show neither it nor what ends with it. -/
theorem State.rd_enterSafe (h : Unshown a) (hcommand : a ∉ commandRegs) (cause : Nat) (injected : Bool) :
    (s.enterSafe cause injected).rd a = s.rd a := by
  have hstat : a ≠ R.SAFE_STAT.at := fun h => hcommand (by simp [commandRegs, h])
  rw [s.enterSafe_eq]
  split
  · rw [State.rd_safeCard _ h.2.2, s.rd_safeShown hstat]
  · rw [State.rd_allOff _ h, State.safeOutputs_regsOnly _ _ hcommand, State.rd_safeCard _ h.2.2, ← s.rd_safeShown hstat cause injected]
    rfl

/-- A state whose SAFE_STAT shows device safe state wants no output on. -/
theorem State.outWanted_of_inSafe (h : s.inSafe = true) (n : Nat) : s.outWanted n = false := by
  have hstate : s.fget F.SAFE_STAT_STATE = 2 := beq_iff_eq.mp h
  rw [State.outWanted_eq, hstate]
  simp

theorem State.entered_enterSafe {cause : Nat} (h : cause < 256) (injected : Bool) : s.Entered (s.enterSafe cause injected) cause injected := by
  obtain ⟨-, -, hcard⟩ := unshown_safeStat
  have hinject := s.rd_enterSafe unshown_safeInject.1 unshown_safeInject.2 cause injected
  rw [s.enterSafe_eq] at hinject
  have honly := s.safeShown_only cause injected
  have hstate := s.state_safeShown cause injected
  have hcause := s.cause_safeShown h injected
  have hflag (hi : injected = true) : (s.safeShown cause injected).flag F.SAFE_STAT_INJECTED = true := by
    subst hi
    exact s.injected_safeShown cause
  have hcore := s.safeCore_safeShown cause injected
  rw [s.enterSafe_eq]
  generalize s.safeShown cause injected = u at *
  cases hin : s.inSafe
  · rw [hin, if_neg Bool.false_ne_true] at hinject
    rw [if_neg Bool.false_ne_true]
    have hstat : (u.entryNoted.safeCard 7 [BitVec.ofNat 8 cause]).rd R.SAFE_STAT.at = u.rd R.SAFE_STAT.at := State.rd_safeCard _ hcard ..
    have hcore' : (u.entryNoted.safeCard 7 [BitVec.ofNat 8 cause]).safeCore = { u.safeCore with enteredTb := u.now + 1 } :=
      State.safeCore_safeCard _ ..
    have honly' : u.only (u.entryNoted.safeCard 7 [BitVec.ofNat 8 cause]) enterParts := by simp [State.entryNoted]
    generalize u.entryNoted.safeCard 7 [BitVec.ofNat 8 cause] = w at *
    have hinSafe : w.inSafe = true := by
      rw [State.inSafe, State.fget_of_rd (f := F.SAFE_STAT_STATE) hstat, hstate]
      rfl
    exact {
      state := by rw [w.fget_allOff rfl (by decide), State.fget_of_rd (f := F.SAFE_STAT_STATE) hstat, hstate]
      shown := by rw [w.fget_allOff rfl (by decide), State.fget_of_rd (f := F.SAFE_STAT_CAUSE) hstat, hcause]
      injected := fun hi => by
        rw [State.flag, w.fget_allOff rfl (by decide), State.fget_of_rd (f := F.SAFE_STAT_INJECTED) hstat]
        exact hflag hi
      off := fun _ n hn => (w.outCmd_allOff ⟨n, hn⟩).trans (w.outWanted_of_inSafe hinSafe n)
      free := fun _ p hp => w.passHolder_allOff hp
      core := by rw [w.safeCore_allOff, hcore', hcore]
      inject := hinject
      only := State.only_trans (State.only_mono honly (by simp)) (State.only_trans honly' w.allOff_only) }
  · rw [hin, if_pos rfl] at hinject
    rw [if_pos rfl]
    have hstat : (u.safeCard 7 [BitVec.ofNat 8 cause]).rd R.SAFE_STAT.at = u.rd R.SAFE_STAT.at := State.rd_safeCard _ hcard ..
    exact {
      state := by rw [State.fget_of_rd (f := F.SAFE_STAT_STATE) hstat, hstate]
      shown := by rw [State.fget_of_rd (f := F.SAFE_STAT_CAUSE) hstat, hcause]
      injected := fun hi => (State.flag_of_rd (f := F.SAFE_STAT_INJECTED) hstat).trans (hflag hi)
      off := fun hfalse => absurd hfalse (by simp [hin])
      free := fun hfalse => absurd hfalse (by simp [hin])
      core := by rw [State.safeCore_safeCard, hcore]
      inject := hinject
      only := by
        simp only [State.only_safeCard_iff, List.mem_cons, true_or, or_true]
        exact State.only_mono honly (by simp) }

/-- What an entry shows depends on SAFE_STAT and Proctor's records alone. -/
theorem State.Entered.of_start {s u t : State} {cause : Nat} {injected : Bool} (h : u.Entered t cause injected)
    (hstat : u.rd R.SAFE_STAT.at = s.rd R.SAFE_STAT.at) (hcore : u.safeCore = s.safeCore)
    (hinject : u.rd R.SAFE_INJECT.at = s.rd R.SAFE_INJECT.at) (honly : s.only u enterParts) : s.Entered t cause injected := by
  have hin : u.inSafe = s.inSafe := congrArg (· == 2) (State.fget_of_rd (f := F.SAFE_STAT_STATE) hstat)
  have hnow : u.now = s.now := congrArg BitVec.toNat (honly .timebase (by simp))
  have htb : u.safeCore.enteredTb = s.safeCore.enteredTb := congrArg Safe.enteredTb hcore
  have hshown : u.causeShown cause = s.causeShown cause := by
    change (if (!u.inSafe) = true then cause else if u.safeCore.enteredTb = u.now + 1 then min cause (u.fget F.SAFE_STAT_CAUSE)
      else u.fget F.SAFE_STAT_CAUSE) = _
    rw [hin, hnow, htb, State.fget_of_rd (f := F.SAFE_STAT_CAUSE) hstat]
    rfl
  exact {
    state := h.state
    shown := h.shown.trans hshown
    injected := h.injected
    off := fun hs => h.off (hin.trans hs)
    free := fun hs => h.free (hin.trans hs)
    core := h.core.trans (by rw [hcore])
    inject := h.inject.trans hinject
    only := State.only_trans honly h.only }

/-! ### The diagnostics -/

section
variable {s}

theorem State.diagnose_of_bad (hon : s.diagOn = true) (hlink : s.safe.linkDead = false) (cause : Nat) :
    s.diagnose true cause = s.enterSafe cause false := if_pos ⟨rfl, hon, by simp [hlink]⟩

theorem State.diagnose_of_good (cause : Nat) : s.diagnose false cause = s := if_neg (by simp)

/-- Linked diagnostics keep Proctor out of reset; a lockstep mismatch holds it there. -/
theorem State.Entered.linkDead {t : State} {cause : Nat} {injected : Bool} (h : s.Entered t cause injected) :
    t.safe.linkDead = s.safe.linkDead :=
  have hcore : { t.safeCore with enteredTb := 0 }.linkDead = { s.safeCore with enteredTb := 0 }.linkDead := congrArg Safe.linkDead h.core
  hcore

theorem State.Entered.badFrames {t : State} {cause : Nat} {injected : Bool} (h : s.Entered t cause injected) : t.safe.badFrames = s.safe.badFrames :=
  have hcore : { t.safeCore with enteredTb := 0 }.badFrames = { s.safeCore with enteredTb := 0 }.badFrames := congrArg Safe.badFrames h.core
  hcore

/-- Entering with cause `cause`, Proctor held in reset afterwards as `dead` says. -/
structure State.EnteredAs (s t : State) (cause : Nat) (dead injected : Bool) : Prop where
  entered : ∃ u, s.Entered u cause injected ∧ t = if dead then u.setSafe { u.safe with linkDead := true } else u

theorem State.EnteredAs.state {t : State} {cause : Nat} {dead injected : Bool} (h : s.EnteredAs t cause dead injected) :
    t.fget F.SAFE_STAT_STATE = 2 := by
  obtain ⟨u, hu, rfl⟩ := h
  cases dead
  · exact hu.state
  · exact hu.state

theorem State.EnteredAs.cause {t : State} {cause : Nat} {dead injected : Bool} (h : s.EnteredAs t cause dead injected) :
    t.fget F.SAFE_STAT_CAUSE = s.causeShown cause := by
  obtain ⟨u, hu, rfl⟩ := h
  cases dead
  · exact hu.shown
  · exact hu.shown

theorem State.EnteredAs.only {t : State} {cause : Nat} {dead injected : Bool} (h : s.EnteredAs t cause dead injected) :
    s.only t enterParts := by
  obtain ⟨u, hu, rfl⟩ := h
  cases dead
  · exact hu.only
  · exact State.only_trans hu.only (by simp)

theorem State.EnteredAs.off {t : State} {cause : Nat} {dead injected : Bool} (h : s.EnteredAs t cause dead injected)
    (hs : s.inSafe = false) : (∀ n, n < 4 → t.outCmd n = false) ∧ ∀ p, p < 8 → t.passHolder p = none := by
  obtain ⟨u, hu, rfl⟩ := h
  cases dead
  · exact ⟨hu.off hs, hu.free hs⟩
  · exact ⟨hu.off hs, hu.free hs⟩

theorem State.EnteredAs.flagged {t : State} {cause : Nat} {dead : Bool} (h : s.EnteredAs t cause dead true) :
    t.flag F.SAFE_STAT_INJECTED = true := by
  obtain ⟨u, hu, rfl⟩ := h
  cases dead
  · exact hu.injected rfl
  · exact hu.injected rfl

theorem State.EnteredAs.injectKept {t : State} {cause : Nat} {dead injected : Bool} (h : s.EnteredAs t cause dead injected) :
    t.rd R.SAFE_INJECT.at = s.rd R.SAFE_INJECT.at := by
  obtain ⟨u, hu, rfl⟩ := h
  cases dead
  · exact hu.inject
  · exact hu.inject

theorem State.EnteredAs.dead {t : State} {cause : Nat} {dead injected : Bool} (h : s.EnteredAs t cause dead injected)
    (hlink : s.safe.linkDead = false) : t.safe.linkDead = dead := by
  obtain ⟨u, hu, rfl⟩ := h
  cases dead
  · exact hu.linkDead.trans hlink
  · rfl

theorem State.Entered.enteredAs {t : State} {cause : Nat} {injected : Bool} (h : s.Entered t cause injected) :
    s.EnteredAs t cause false injected := ⟨t, h, rfl⟩

theorem State.enteredAs_lockstep (injected : Bool) : s.EnteredAs (s.lockstep injected) 1 true injected :=
  ⟨s.enterSafe 1 injected, s.entered_enterSafe (by decide) injected, rfl⟩

theorem State.causeShown_of_not_inSafe (h : s.inSafe = false) (cause : Nat) : s.causeShown cause = cause := by
  rw [State.causeShown, h]
  rfl

theorem State.causeShown_of_inSafe (h : s.inSafe = true) (cause : Nat) : s.causeShown cause =
    if s.safe.enteredTb = s.now + 1 then min cause (s.fget F.SAFE_STAT_CAUSE) else s.fget F.SAFE_STAT_CAUSE := by
  rw [State.causeShown, h]
  rfl

theorem State.inSafe_false {s : State} (h : s.fget F.SAFE_STAT_STATE ≠ 2) : s.inSafe = false := beq_eq_false_iff_ne.mpr h

theorem State.inSafe_true {s : State} (h : s.fget F.SAFE_STAT_STATE = 2) : s.inSafe = true := beq_iff_eq.mpr h

theorem scrub_apart : R.SAFE_SCRUB.at ≠ R.SAFE_STAT.at ∧ R.SAFE_SCRUB.at ≠ R.SAFE_INJECT.at ∧ R.SAFE_LINKERR.at ≠ R.SAFE_STAT.at ∧
    R.SAFE_LINKERR.at ≠ R.SAFE_INJECT.at ∧ R.SAFE_INJECT.at ≠ R.SAFE_STAT.at := by decide

/-- A counter or a record of Proctor's own written first changes nothing of an entry. -/
theorem State.Entered.of_count {r : RegDesc} (hstat : r.at ≠ R.SAFE_STAT.at) (hinj : r.at ≠ R.SAFE_INJECT.at) {n cause : Nat} {t : State}
    {injected : Bool} (h : (s.count r n).Entered t cause injected) : s.Entered t cause injected :=
  h.of_start (State.rd_rset_ne _ r _ _ _ _ hstat.symm) rfl (State.rd_rset_ne _ r _ _ _ _ hinj.symm) (by simp [State.count])

/-- Each failed check of the list enters device safe state with its cause. -/
theorem State.failed_enters {x : Instr × Nat} (hx : x ∈ [(Instr.lockstepMismatch, 1), (.sramScrubPass 0 true, 2), (.proctorWatchdogExpire, 3),
      (.clockMonitorCheck false, 4), (.supplyMonitorTrip 0, 5), (.supplyMonitorTrip 4, 5), (.shadowReferenceTest false, 7),
      (.shadowCoeffCrc false, 8), (.comparatorSelfTest false, 9)]) (hon : s.diagOn = true) (hlink : s.safe.linkDead = false) :
    ∃ t, exec x.1 s = .next t ∧ s.EnteredAs t x.2 (x.2 == 1) false := by
  have henter {c : Instr} {bad : Bool} (cause : Nat) (hbad : bad = true) (hc : cause < 256) (hne : (cause == 1) = false)
      (hexec : exec c s = .next (s.diagnose bad cause)) : ∃ t, exec c s = .next t ∧ s.EnteredAs t cause (cause == 1) false := by
    subst hbad
    rw [State.diagnose_of_bad hon hlink] at hexec
    rw [hne]
    exact ⟨_, hexec, (s.entered_enterSafe hc false).enteredAs⟩
  simp only [List.mem_cons, List.not_mem_nil, or_false] at hx
  rcases hx with rfl | rfl | rfl | rfl | rfl | rfl | rfl | rfl | rfl
  · exact ⟨_, congrArg Host.Outcome.next (if_pos hon), s.enteredAs_lockstep false⟩
  · obtain ⟨hstat, hinj, -⟩ := scrub_apart
    have hdiag : (s.count R.SAFE_SCRUB 0).diagnose true 2 = (s.count R.SAFE_SCRUB 0).enterSafe 2 false :=
      State.diagnose_of_bad (s := s.count R.SAFE_SCRUB 0) hon hlink 2
    exact ⟨_, congrArg Host.Outcome.next ((if_pos hon).trans hdiag),
      (State.Entered.of_count hstat hinj (State.entered_enterSafe _ (by decide) false)).enteredAs⟩
  · exact henter 3 rfl (by decide) rfl rfl
  · exact henter 4 rfl (by decide) rfl rfl
  · exact henter (bad := !(s.fget F.PWR_STAT_STATE == 6 && _)) 5 (by simp) (by decide) rfl rfl
  · exact henter (bad := !(s.fget F.PWR_STAT_STATE == 6 && _)) 5 (by simp) (by decide) rfl rfl
  · exact henter 7 rfl (by decide) rfl rfl
  · exact henter 8 rfl (by decide) rfl rfl
  · exact henter 9 rfl (by decide) rfl rfl

/-! ### The safety link (R432) -/

/-- A frame to Proctor that failed its check is counted. -/
def State.badFrame (s : State) : State :=
  (s.count R.SAFE_LINKERR).setSafe { s.safe with badFrames := s.safe.badFrames + 1 }

theorem execSafetyLinkFrame_of_bad (hon : s.diagOn = true) :
    exec (.safetyLinkFrame true false) s = .next (s.badFrame.diagnose (s.safe.badFrames + 1 == 10) 6) := by
  change execSafetyLinkFrame true false s = _
  rw [execSafetyLinkFrame, hon]
  rfl

theorem State.badFrame_only : s.only s.badFrame [.regs, .safe] := by simp [State.badFrame, State.count]

theorem State.badFrame_regsOnly : s.regsOnly s.badFrame [R.SAFE_LINKERR.at] := by
  intro a ha
  exact State.rd_rset_ne _ R.SAFE_LINKERR _ _ _ _ fun h => ha (by simp [h])

theorem State.linkerr_badFrame : s.badFrame.rget R.SAFE_LINKERR = satAdd 32 (s.rget R.SAFE_LINKERR) 1 := State.rget_count_self s R.SAFE_LINKERR 1 0 0

/-- What a frame that failed its check leaves, the tenth in a row included. -/
theorem State.linkFrame_bad (s : State) (hon : s.diagOn = true) : let t := s.badFrame.diagnose (s.safe.badFrames + 1 == 10) 6
    t.rget R.SAFE_LINKERR = satAdd 32 (s.rget R.SAFE_LINKERR) 1 ∧ t.safe.badFrames = s.safe.badFrames + 1 ∧
    (s.safe.badFrames ≠ 9 → s.only t [.regs, .safe] ∧ s.regsOnly t [R.SAFE_LINKERR.at]) ∧
    (s.safe.badFrames = 9 → s.safe.linkDead = false → t.fget F.SAFE_STAT_STATE = 2 ∧
      (s.fget F.SAFE_STAT_STATE ≠ 2 → t.fget F.SAFE_STAT_CAUSE = 6)) := by
  intro t
  by_cases htenth : s.safe.badFrames = 9 ∧ s.safe.linkDead = false
  · obtain ⟨h9, hlink⟩ := htenth
    have ht : t = s.badFrame.enterSafe 6 false := by
      have hten : (s.safe.badFrames + 1 == 10) = true := by simp [h9]
      change s.badFrame.diagnose (s.safe.badFrames + 1 == 10) 6 = _
      rw [hten]
      exact State.diagnose_of_bad (s := s.badFrame) hon hlink 6
    have henter := s.badFrame.entered_enterSafe (cause := 6) (by decide) false
    have hlinkerr := s.badFrame.rd_enterSafe unshown_safeLinkerr.1 unshown_safeLinkerr.2 6 false
    rw [← ht] at henter hlinkerr
    have hstat : s.badFrame.rd R.SAFE_STAT.at = s.rd R.SAFE_STAT.at := s.badFrame_regsOnly _ (by decide)
    refine ⟨(congrArg BitVec.toNat hlinkerr).trans s.linkerr_badFrame, henter.badFrames, fun h => absurd h9 h, fun _ _ => ⟨henter.state, fun hs => ?_⟩⟩
    refine henter.shown.trans (State.causeShown_of_not_inSafe (State.inSafe_false ?_) 6)
    rwa [State.fget_of_rd (f := F.SAFE_STAT_STATE) hstat]
  · have ht : t = s.badFrame := by
      refine if_neg fun ⟨hten, _, hlink⟩ => htenth ⟨?_, ?_⟩
      · have := beq_iff_eq.mp hten
        omega
      · exact (Bool.not_eq_true' _).mp hlink
    rw [ht]
    exact ⟨s.linkerr_badFrame, rfl, fun _ => ⟨s.badFrame_only, s.badFrame_regsOnly⟩, fun h9 hlink => absurd ⟨h9, hlink⟩ htenth⟩

/-! ### Faults that context 7 injects (R435) -/

/-- The faults that an injection names. -/
def injectedCauses (v : Word) : List Nat := (List.range 12).filter (fun c => decide (1 ≤ c) && bit v.toNat c)

theorem injectedCauses_of_one {v : Word} {c : Nat} (hc : 1 ≤ c ∧ c ≤ 11) (h : getField v 1 11 = 2 ^ (c - 1)) : injectedCauses v = [c] := by
  have hbit (k : Nat) (hk : k < 11) : bit v.toNat (k + 1) = decide (c - 1 = k) := by
    have hfield : (getField v 1 11).testBit k = v.toNat.testBit (k + 1) := by
      rw [getField, bits, Nat.shiftRight_eq_div_pow, Nat.testBit_mod_two_pow, decide_eq_true hk, Bool.true_and, Nat.testBit_div_two_pow,
        Nat.add_comm]
    rw [bit_eq_testBit, ← hfield, h, Nat.testBit_two_pow]
  have hmap : injectedCauses v = (List.range 12).filter (fun k => decide (1 ≤ k) && decide (c - 1 = k - 1)) := by
    refine List.filter_congr fun k hk => ?_
    have hlt : k < 12 := List.mem_range.mp hk
    by_cases h1 : 1 ≤ k
    · have hk1 : k - 1 + 1 = k := by omega
      rw [← hbit (k - 1) (by omega), hk1]
    · simp [h1]
  have hdec : ∀ c : Fin 12, 1 ≤ c.val → (List.range 12).filter (fun k => decide (1 ≤ k) && decide (c.val - 1 = k - 1)) = [c.val] := by decide
  rw [hmap]
  exact hdec ⟨c, by omega⟩ hc.1

theorem execSafeInject_of_ok {r : Req} {v : Word} (hon : s.reqOn r = true) (hctx : s.ctxOf r = 7) (hen : s.ctxEnabled 7 = true)
    (hdiag : s.diagOn = true) : exec (.safeInject r v) s = .next ((injectedCauses v).foldl (fun t c => t.injectCause c (getField v 12 2))
      (s.fset F.SAFE_INJECT_OUT (getField v 12 2))) := by
  have hdiag' : (s.fset F.SAFE_INJECT_OUT (getField v 12 2)).diagOn = true := hdiag
  change execSafeInject r v s = _
  rw [execSafeInject, State.asCtx_of_ok _ _ _ hon (by rwa [hctx]) (by simp [hctx])]
  dsimp only
  rw [hdiag']
  rfl

/-- An injected fault is detected with its own cause. -/
theorem State.enteredAs_injectCause {c out : Nat} (hc : 1 ≤ c ∧ c ≤ 11) (hne : c ≠ 10) :
    ∃ dead, s.EnteredAs (s.injectCause c out) c dead true := by
  unfold State.injectCause
  by_cases h1 : c = 1
  · subst h1
    exact ⟨true, s.enteredAs_lockstep true⟩
  rw [if_neg h1, if_neg hne]
  split
  · next h11 =>
    subst h11
    have hset := (s.setSo out { s.so out with stuck := 3 }).entered_enterSafe (cause := 0x0B) (by decide) true
    exact ⟨false, (hset.of_start (s := s) rfl (s.safeCore_setSo out _) rfl (by simp)).enteredAs⟩
  · exact ⟨false, (s.entered_enterSafe (by omega) true).enteredAs⟩

theorem State.EnteredAs.of_inject {t : State} {out cause : Nat} {dead : Bool}
    (h : (s.fset F.SAFE_INJECT_OUT out).EnteredAs t cause dead true) (hout : out < 4) :
    t.fget F.SAFE_STAT_STATE = 2 ∧ t.flag F.SAFE_STAT_INJECTED = true ∧ t.fget F.SAFE_INJECT_OUT = out ∧
      (s.fget F.SAFE_STAT_STATE ≠ 2 → t.fget F.SAFE_STAT_CAUSE = cause) ∧ s.only t enterParts := by
  have hstat : (s.fset F.SAFE_INJECT_OUT out).rd R.SAFE_STAT.at = s.rd R.SAFE_STAT.at := State.rd_fset_ne _ F.SAFE_INJECT_OUT _ _ _ _ (by decide)
  refine ⟨h.state, h.flagged, ?_, fun hne => ?_, State.only_trans (by simp) h.only⟩
  · rw [State.fget_of_rd (f := F.SAFE_INJECT_OUT) h.injectKept, State.fget_fset_self _ _ _ _ _ (by decide) (by decide)]
    exact Nat.mod_eq_of_lt hout
  · rw [h.cause]
    refine State.causeShown_of_not_inSafe (State.inSafe_false ?_) cause
    rwa [State.fget_of_rd (f := F.SAFE_STAT_STATE) hstat]

theorem State.injectCause_params (s : State) (out : Nat) : ∃ u offset, s.injectCause 0x0A out = State.rejectParams u offset true := by
  unfold State.injectCause
  rw [if_neg (by decide), if_pos rfl]
  exact ⟨_, _, rfl⟩

/-- Rejected parameters show STATE 3. -/
theorem State.rejected_rejectParams (offset : Nat) : (s.rejectParams offset true).fget F.SAFE_STAT_STATE = 3 ∧
    (s.rejectParams offset true).fget F.SAFE_STAT_CAUSE = 0x0A ∧ (s.rejectParams offset true).safe.fns = [] := by
  obtain ⟨-, -, hcard⟩ := unshown_safeStat
  let u := ((s.fset F.SAFE_STAT_STATE 3).fset F.SAFE_STAT_CAUSE 0x0A).setFlag F.SAFE_STAT_INJECTED true
  let w := u.setSafe { u.safe with fns := [] }
  have heq : s.rejectParams offset true = (w.safeCard 0x0B (leBytes 4 offset)).allOff := rfl
  have hstat : (w.safeCard 0x0B (leBytes 4 offset)).rd R.SAFE_STAT.at = u.rd R.SAFE_STAT.at := State.rd_safeCard _ hcard ..
  have hcore : (w.safeCard 0x0B (leBytes 4 offset)).allOff.safeCore = w.safeCore := by rw [State.safeCore_allOff, State.safeCore_safeCard]
  rw [heq]
  refine ⟨?_, ?_, ?_⟩
  · rw [State.fget_allOff _ rfl (by decide), State.fget_of_rd (f := F.SAFE_STAT_STATE) hstat]
    refine (State.fget_setFlag_other _ F.SAFE_STAT_INJECTED F.SAFE_STAT_STATE _ _ _ rfl (by decide) (by decide) (by decide)).trans ?_
    rw [State.fget_fset_other _ F.SAFE_STAT_CAUSE F.SAFE_STAT_STATE _ _ _ (by rfl) (by decide) (by decide) (by decide),
      State.fget_fset_self _ _ _ _ _ (by decide) (by decide)]
    rfl
  · rw [State.fget_allOff _ rfl (by decide), State.fget_of_rd (f := F.SAFE_STAT_CAUSE) hstat]
    refine (State.fget_setFlag_other _ F.SAFE_STAT_INJECTED F.SAFE_STAT_CAUSE _ _ _ rfl (by decide) (by decide) (by decide)).trans ?_
    rw [State.fget_fset_self _ _ _ _ _ (by decide) (by decide)]
    rfl
  · have hfns : (w.safeCard 0x0B (leBytes 4 offset)).allOff.safeCore.fns = w.safeCore.fns := congrArg Safe.fns hcore
    exact hfns

end

/-- Settles O51: every failed check ends in one law, that of entering device safe state. -/
theorem diagnosticsEnterDeviceSafeState : Obligations.DiagnosticsEnterDeviceSafeState := by
  refine ⟨fun x s hx hon hlink => ?_, fun c s hc => ?_, fun n s hon => ?_, fun k s hstate hk => ?_, fun s hon => ?_, fun s hon hrun => ?_,
    fun s hon => ?_, fun s => rfl, fun r v s c hreq hctx hen hon h1 h11 hne hfield => ?_, fun r v s hreq hctx hen hon hfield => ?_⟩
  · obtain ⟨t, hexec, ht⟩ := State.failed_enters hx hon hlink
    exact ⟨t, hexec, ht.state, ht.dead hlink,
      fun hs => ⟨ht.cause.trans (State.causeShown_of_not_inSafe (State.inSafe_false hs) _), ht.off (State.inSafe_false hs)⟩,
      fun hs => ht.cause.trans (State.causeShown_of_inSafe (State.inSafe_true hs) _), ht.only⟩
  · simp only [List.mem_cons, List.not_mem_nil, or_false] at hc
    rcases hc with rfl | rfl | rfl | rfl
    all_goals exact congrArg Host.Outcome.next (State.diagnose_of_good _)
  · refine ⟨s.count R.SAFE_SCRUB n.toNat, congrArg Host.Outcome.next ((if_pos hon).trans (State.diagnose_of_good 2)),
      State.rget_count_self .., by simp [State.count], fun a ha => ?_⟩
    exact State.rd_rset_ne _ R.SAFE_SCRUB _ _ _ _ fun h => ha (by simp [h])
  · refine congrArg Host.Outcome.next ?_
    have hgood : (!(s.fget F.PWR_STAT_STATE == 6 && (k.val == 1 || k.val == 2 || k.val == 3))) = false := by
      rcases hk with hk | hk | hk <;> simp [hstate, hk]
    rw [hgood]
    exact State.diagnose_of_good 5
  · rw [execSafetyLinkFrame_of_bad hon]
    exact ⟨_, rfl, s.linkFrame_bad hon⟩
  · change execSafetyLinkFrame true true s = _
    have hrun' : (s.setSafe { s.safe with badFrames := 0 }).fnsRun = false := hrun
    rw [execSafetyLinkFrame, hon]
    simp only [Bool.not_true, Bool.false_eq_true, if_false, if_true, hrun', and_false]
    exact congrArg Host.Outcome.next (State.diagnose_of_good 6)
  · change execSafetyLinkFrame false true s = _
    rw [execSafetyLinkFrame, hon]
    rfl
  · obtain ⟨dead, h⟩ := (s.fset F.SAFE_INJECT_OUT (getField v 12 2)).enteredAs_injectCause (out := getField v 12 2) ⟨h1, h11⟩ hne
    rw [execSafeInject_of_ok hreq hctx hen hon, injectedCauses_of_one ⟨h1, h11⟩ hfield]
    have hout : getField v 12 2 < 4 := getField_lt ..
    exact ⟨(s.fset F.SAFE_INJECT_OUT (getField v 12 2)).injectCause c (getField v 12 2), rfl, h.of_inject hout⟩
  · rw [execSafeInject_of_ok hreq hctx hen hon, injectedCauses_of_one (c := 10) ⟨by decide, by decide⟩ hfield]
    obtain ⟨u, offset, hu⟩ := (s.fset F.SAFE_INJECT_OUT (getField v 12 2)).injectCause_params (getField v 12 2)
    rw [List.foldl_cons, List.foldl_nil, hu]
    exact ⟨_, rfl, State.rejected_rejectParams offset⟩

end Sys2Proof.Machine
end

section
/-! PROOF. Frames, gPTP, gate lists, the SPI target and the enabling of rings (spec/17, R465 to R470, R478). -/

namespace Sys2Proof.Machine

variable (s : State)

/-! ### Wall time moves (R20) -/

/-- The registers that a move of wall time changes. -/
def wallRegs : List Nat := [R.SYS_WALLOFS_LO.at, R.SYS_WALLOFS_HI.at, R.SYS_WALLSTAT.at] ++ cardRegs

theorem State.rd_setWall {a : Nat} (h : a ∉ wallRegs) (ofs source : Nat) : (s.setWall ofs source).rd a = s.rd a := by
  simp only [wallRegs, List.mem_append, List.mem_cons, List.not_mem_nil, or_false, not_or] at h
  obtain ⟨⟨hlo, hhi, hstat⟩, -⟩ := h
  rw [State.setWall, State.rd_fset_ne _ F.SYS_WALLSTAT_SOURCE _ _ _ _ hstat, State.rd_setFlag_ne _ F.SYS_WALLSTAT_VALID _ _ _ _ hstat,
    State.rd_rset_ne _ R.SYS_WALLOFS_HI _ _ _ _ hhi, State.rd_rset_ne _ R.SYS_WALLOFS_LO _ _ _ _ hlo]

theorem State.setWall_only (ofs source : Nat) : s.only (s.setWall ofs source) [.regs] := by simp [State.setWall]

theorem State.applyWall_only (ofs source : Nat) : s.only (s.applyWall ofs source) [.regs, .ledger] := by
  unfold State.applyWall
  split
  · simp [State.only_mono (s.setWall_only ofs source)]
  · exact State.only_mono (s.setWall_only ofs source) (by simp)

theorem State.moveWall_only (ofs source : Nat) : s.only (s.moveWall ofs source) [.regs, .chn, .ledger, .events] := by
  have happly := State.only_mono (l' := [.regs, .chn, .ledger, .events]) (s.applyWall_only ofs source) (by simp)
  rw [State.moveWall_eq]
  split
  · refine State.only_trans happly (State.only_trans (t := (s.applyWall ofs source).fcount F.SYS_WALLSTAT_STEPS) ?_ ?_)
    · simp [State.fcount]
    · exact State.only_mono (State.card_only _ _) (by simp)
  · exact happly

/-- What a move leaves of the registers but STEPS and the cards'. -/
theorem State.rd_moveWall {a : Nat} (h : a ∉ wallRegs) (ofs source : Nat) : (s.moveWall ofs source).rd a = s.rd a := by
  have hcard : a ∉ cardRegs := fun hc => h (List.mem_append_right _ hc)
  have hstat : a ≠ R.SYS_WALLSTAT.at := fun hs => h (by simp [wallRegs, hs])
  rw [State.moveWall_eq]
  split
  · rw [State.rd_card _ hcard, State.fcount, State.rd_fset_ne _ F.SYS_WALLSTAT_STEPS _ _ _ _ hstat, State.applyWall_rd, s.rd_setWall h]
  · rw [State.applyWall_rd, s.rd_setWall h]

theorem wallStat_not_mem_cardRegs : R.SYS_WALLSTAT.at ∉ cardRegs := by decide

theorem State.fget_moveWall {f : Fld} (hreg : f.reg = R.SYS_WALLSTAT)
    (hd : f.lo + f.width ≤ F.SYS_WALLSTAT_STEPS.lo ∨ F.SYS_WALLSTAT_STEPS.lo + F.SYS_WALLSTAT_STEPS.width ≤ f.lo) (ofs source : Nat) :
    (s.moveWall ofs source).fget f = (s.setWall ofs source).fget f := by
  rw [State.moveWall_eq]
  split
  · rw [State.fget_of_rd (s := (s.applyWall ofs source).fcount F.SYS_WALLSTAT_STEPS)
        (State.rd_card _ (by rw [hreg]; exact wallStat_not_mem_cardRegs) _),
      State.fcount, State.fget_fset_other _ F.SYS_WALLSTAT_STEPS f _ _ _ hreg (by decide) (by decide) hd, State.fget, State.applyWall_rd, State.fget]
  · rw [State.fget, State.applyWall_rd, State.fget]

theorem State.source_moveWall (ofs : Nat) {source : Nat} (h : source < 2 ^ F.SYS_WALLSTAT_SOURCE.width) :
    (s.moveWall ofs source).fget F.SYS_WALLSTAT_SOURCE = source := by
  rw [s.fget_moveWall rfl (by decide), State.setWall, State.fget_fset_self _ _ _ _ _ (by decide) (by decide)]
  exact Nat.mod_eq_of_lt h

theorem State.valid_moveWall (ofs source : Nat) : (s.moveWall ofs source).flag F.SYS_WALLSTAT_VALID = true := by
  rw [State.flag, s.fget_moveWall (f := F.SYS_WALLSTAT_VALID) rfl (by decide), ← State.flag, State.setWall,
    State.flag_fset_other _ _ _ _ _ _ (by rfl) (by decide) (by decide) (by decide), State.flag_setFlag_self _ _ _ _ _ (by decide) (by decide)]

/-! ### gPTP (R466 to R468) -/

theorem State.wallTime_moveWall {master : Nat} (h : master < 2 ^ 64) (source : Nat) :
    (s.moveWall ((master + 2 ^ 64 - s.now) % 2 ^ 64) source).wallTime = master := by
  have hnow : (s.moveWall ((master + 2 ^ 64 - s.now) % 2 ^ 64) source).now = s.now := congrArg BitVec.toNat (s.moveWall_timebase _ source)
  have hlt : s.now < 2 ^ 64 := s.timebase.isLt
  rw [State.wallTime, s.moveWall_wallOfs (Nat.mod_lt _ (by decide)), hnow]
  omega

theorem State.setSynced_eq (p t : Nat) : s.setSynced p t =
    (s.setHosts { s.hosts with synced := Sparse.put (fun _ => 0) s.hosts.synced p t }).showSynced := rfl

theorem State.setSynced_only (p t : Nat) : s.only (s.setSynced p t) [.regs, .hosts] := by
  simp [State.setSynced, State.showSynced, State.setHosts]

theorem State.setSynced_regsOnly (p t : Nat) : s.regsOnly (s.setSynced p t) [R.HOST_TSYNC.at] := by
  intro a ha
  exact State.rd_setFlag_ne _ F.HOST_TSYNC_SYNCED _ _ _ _ fun h => ha (by simp [h, F.HOST_TSYNC_SYNCED])

theorem State.synced_setSynced (p t : Nat) : Sparse.get (fun _ => 0) (s.setSynced p t).hosts.synced p = t := Sparse.get_put_self ..

theorem State.syncSrc_setSynced (p t : Nat) : (s.setSynced p t).syncSrc = s.syncSrc := by
  have hsrc : (s.setSynced p t).fget F.HOST_TSYNC_SRC = s.fget F.HOST_TSYNC_SRC :=
    State.fget_setFlag_other _ F.HOST_TSYNC_SYNCED F.HOST_TSYNC_SRC _ _ _ rfl (by decide) (by decide) (by decide)
  rw [State.syncSrc, hsrc, State.syncSrc]

/-- SYNCED shows whether the selected MAC is synchronised. -/
theorem State.flag_setSynced {p : Nat} (h : s.syncSrc = some p) (t : Nat) : (s.setSynced p t).flag F.HOST_TSYNC_SYNCED = (t != 0) := by
  have hsrc : (s.setHosts { s.hosts with synced := Sparse.put (fun _ => 0) s.hosts.synced p t }).syncSrc = some p := h
  rw [s.setSynced_eq, State.showSynced, State.flag_setFlag_self _ _ _ _ _ (by decide) (by decide), hsrc]
  exact congrArg (· != 0) (Sparse.get_put_self ..)

theorem tsync_apart : R.HOST_TSYNC.at ∉ wallRegs ∧ R.HOST_TSRATE.at ∉ wallRegs ∧ R.HOST_TSYNC.at ≠ R.HOST_TSRATE.at := by decide

theorem State.gptp_sync {p : Fin 2} {dom : Byte} (hport : s.portOn p.val = true) (hdom : s.domOn 6 = true)
    (hdomain : dom.toNat = s.fget F.HOST_TSYNC_DOMAIN) (hsrc : s.syncSrc = some p.val) (master : DWord) (ppb : Word) :
    exec (.gptpFrame p 0 dom true master ppb) s = .next (((s.setSynced p.val (s.now + 1)).moveWall
      ((master.toNat + 2 ^ 64 - (s.setSynced p.val (s.now + 1)).now) % 2 ^ 64) (p.val + 2)).rset R.HOST_TSRATE ppb.toNat) := by
  change execGptpFrame p 0 dom true master ppb s = _
  have hsrc' : (s.setSynced p.val (s.now + 1)).syncSrc = some p.val := (s.syncSrc_setSynced _ _).trans hsrc
  rw [execGptpFrame, hport, hdom, hdomain]
  dsimp only
  rw [if_neg (by simp), if_neg (by decide), if_neg (by simp), if_pos hsrc']

theorem State.wallOfs_rset_tsrate (v : Nat) : (s.rset R.HOST_TSRATE v).wallTime = s.wallTime := by
  have h : ∀ a, a ≠ R.HOST_TSRATE.at → (s.rset R.HOST_TSRATE v).rd a = s.rd a := fun a ha => State.rd_rset_ne _ R.HOST_TSRATE _ _ _ _ ha
  rw [State.wallTime, State.wallTime, State.wallOfs, State.wallOfs, State.rget, State.rget, h _ (by decide), h _ (by decide)]
  rfl

/-! ### The gate list in force (R469) -/

/-- The entry in force is the one whose time holds the offset. -/
theorem gateAt_spec (es : List Nat) (o k : Nat) (h : o < (es.map (fun e => bits e 0 24 * 16)).sum) : ∃ j, j < es.length ∧ gateAt es o k = k + j ∧
    ((es.map (fun e => bits e 0 24 * 16)).take j).sum ≤ o ∧ o < ((es.map (fun e => bits e 0 24 * 16)).take (j + 1)).sum := by
  induction es generalizing o k with
  | nil => simp at h
  | cons e es ih =>
    rw [List.map_cons, List.sum_cons] at h
    rw [gateAt]
    split
    · next hlt => exact ⟨0, by simp, by simp, by simp, by simpa using hlt⟩
    · next hge =>
      obtain ⟨j, hj, heq, hle, hlt⟩ := ih (o - bits e 0 24 * 16) (k + 1) (by omega)
      refine ⟨j + 1, by simpa using hj, by omega, ?_, ?_⟩
      · rw [List.map_cons, List.take_succ_cons, List.sum_cons]
        omega
      · rw [List.map_cons, List.take_succ_cons, List.sum_cons]
        omega

/-- A MAC's gate list has at most 64 entries. -/
theorem State.length_gateList {p cyc base : Nat} {es : List Nat} (h : s.gateList p = cyc :: base :: es) : es.length ≤ 64 := by
  unfold State.gateList at h
  split at h
  · obtain ⟨-, -, rfl⟩ : _ ∧ _ ∧ _ = es := by simpa using h
    simp
  · cases h

/-- What QBV_STAT shows of entry `k`. -/
def State.showGate (s : State) (p : Nat) (on : Bool) (k : Nat) : State := (s.setFlag F.HOST_QBV_STAT_ACTIVE on p).fset F.HOST_QBV_STAT_ENTRY k p

theorem State.showGate_only (p : Nat) (on : Bool) (k : Nat) : s.only (s.showGate p on k) [.regs] := by simp [State.showGate]

theorem State.showGate_regsOnly (p : Nat) (on : Bool) (k : Nat) : s.regsOnly (s.showGate p on k) [R.HOST_QBV_STAT.at p] := by
  intro a ha
  have hne : a ≠ R.HOST_QBV_STAT.at p := fun h => ha (by simp [h])
  rw [State.showGate, State.rd_fset_ne _ F.HOST_QBV_STAT_ENTRY _ _ _ _ hne, State.rd_setFlag_ne _ F.HOST_QBV_STAT_ACTIVE _ _ _ _ hne]

theorem State.active_showGate (p : Nat) (on : Bool) (k : Nat) : (s.showGate p on k).flag F.HOST_QBV_STAT_ACTIVE p = on := by
  rw [State.showGate, State.flag_fset_other _ _ _ _ _ _ (by rfl) (by decide) (by decide) (by decide),
    State.flag_setFlag_self _ _ _ _ _ (by decide) (by decide)]

theorem State.entry_showGate (p : Nat) (on : Bool) {k : Nat} (h : k < 64) : (s.showGate p on k).fget F.HOST_QBV_STAT_ENTRY p = k := by
  rw [State.showGate, State.fget_fset_self _ _ _ _ _ (by decide) (by decide)]
  exact Nat.mod_eq_of_lt h

section
variable {s}

theorem execQbvGateEntry_of_invalid (h : s.wallValid = false) (p : Fin 2) : exec (.qbvGateEntry p) s = .next (s.showGate p.val false 0) := by
  change execQbvGateEntry p s = _
  rw [execQbvGateEntry, h]
  rfl

theorem execQbvGateEntry_of_running {p : Fin 2} {cyc base : Nat} {es : List Nat} (hvalid : s.wallValid = true)
    (hlist : s.gateList p.val = cyc :: base :: es) (hcur : Sparse.get (fun _ => []) s.hosts.gates p.val = s.gateList p.val) (hcyc : 0 < cyc)
    (hbase : base ≤ s.wallTime) : exec (.qbvGateEntry p) s =
      .next ((s.setHosts { s.hosts with gates := Sparse.put (fun _ => []) s.hosts.gates p.val (cyc :: base :: es) }).showGate p.val true
        (gateAt es ((s.wallTime - base) % cyc) 0)) := by
  have hmax : max 1 cyc = cyc := by omega
  change execQbvGateEntry p s = _
  rw [execQbvGateEntry, hvalid]
  dsimp only
  rw [hcur, hlist, if_neg (by simp), ite_self]
  simp [hbase, hmax, State.showGate]
  rfl

/-! ### Frames (R465) -/

theorem execHostFrameReceive_of_on {p : Fin 3} {kind : Fin 5} {pcp : Fin 8} {src body : List Byte} (hpwr : s.pwrState ≠ 2)
    (hport : s.portOn p.val = true) (hlink : s.domOn 2 = true) (hmac : p.val < 2 → s.domOn 6 = true) :
    exec (.hostFrameReceive p kind pcp src body) s = .next (
      if (if pcp.val = 7 then decide (16 ≤ (s.urgBuf p.val).length) else decide (64 ≤ (s.ordBuf p.val).length)) then s.count R.HOST_RXDROP 1 p.val
      else if !frameKept p.val kind.val body.length then s
      else match kind.val with
        | 0 => if pcp.val = 7 then s.setUrg p.val (s.urgBuf p.val ++ [⟨padTo 18 src, body⟩])
          else s.setOrd p.val (s.ordBuf p.val ++ [⟨padTo 18 src, body⟩])
        | 1 => s.send (0x80 + p.val) 4 (s.vlan p.val ++ padTo 18 src ++ beBytes 6 (s.boot.macBase + p.val))
        | 2 => s.send (0x80 + p.val) 4 (s.vlan p.val ++ padTo 18 src ++ body)
        | _ => s) := by
  have hoff : (decide (p.val < 2) && !s.domOn 6) = false := by
    by_cases hp : p.val < 2
    · simp [hmac hp]
    · simp [hp]
  change execHostFrameReceive p kind pcp src body s = _
  rw [execHostFrameReceive]
  dsimp only
  rw [if_neg hpwr, hport, hlink, hoff]
  rfl

end

/-! ### Links (R465) -/

theorem bit_link : ∀ (up : Bool) (p q : Fin 3) (l : Fin 16), bit l.val p.val = !up →
    bit ((if up then l.val + 2 ^ p.val else l.val - 2 ^ p.val) % 2 ^ 4) q.val = if q = p then up else bit l.val q.val := by decide

theorem hostStat_not_mem_cardRegs : R.HOST_STAT.at ∉ cardRegs := by decide

/-- A port's link bit with its card. -/
def State.linkShown (s : State) (p : Nat) (up : Bool) : State :=
  (s.fset F.HOST_STAT_LINK (if up then s.fget F.HOST_STAT_LINK + 2 ^ p else s.fget F.HOST_STAT_LINK - 2 ^ p)).hostCard (if up then 6 else 7) [] 8 p

theorem State.linkShown_only (p : Nat) (up : Bool) : s.only (s.linkShown p up) [.regs, .chn, .events] :=
  State.only_trans (t := s.fset F.HOST_STAT_LINK _) (by simp) (State.only_mono (State.card_only _ _) (by simp))

theorem State.link_linkShown {p : Fin 3} {up : Bool} (h : bit (s.fget F.HOST_STAT_LINK) p.val = !up) (q : Fin 3) :
    bit ((s.linkShown p.val up).fget F.HOST_STAT_LINK) q.val = if q = p then up else bit (s.fget F.HOST_STAT_LINK) q.val := by
  rw [State.linkShown, State.hostCard, State.fget_of_rd (f := F.HOST_STAT_LINK) (State.rd_card _ hostStat_not_mem_cardRegs _),
    State.fget_fset_self _ _ _ _ _ (by decide) (by decide)]
  exact bit_link up p q ⟨s.fget F.HOST_STAT_LINK, getField_lt ..⟩ h

theorem execHostPortLinkChange_of_change {s : State} {p : Fin 3} {up : Bool} (h : bit (s.fget F.HOST_STAT_LINK) p.val = !up)
    (hup : up = true → s.domOn 2 = true ∧ (p.val < 2 → s.domOn 6 = true)) :
    exec (.hostPortLinkChange p up) s = .next (s.linkShown p.val up) := by
  have hoff : (up && ((decide (p.val < 2) && !s.domOn 6) || !s.domOn 2)) = false := by
    cases up with
    | false => rfl
    | true =>
      obtain ⟨hlink, hmac⟩ := hup rfl
      by_cases hp : p.val < 2
      · simp [hlink, hmac hp]
      · simp [hlink, hp]
  have hsame : decide (bit (s.fget F.HOST_STAT_LINK) p.val = up) = false := by
    rw [h]
    cases up <;> rfl
  change execHostPortLinkChange p up s = _
  rw [execHostPortLinkChange]
  dsimp only
  rw [hoff, hsame]
  rfl

/-! ### Rings enable empty (R478) -/

/-- What the enabling write stores in a ring's configuration register. -/
def enabledCfg (v : Word) : Nat := (setField v 31 1 1).toNat &&& 0xC0000FFF

theorem enabledCfg_lt (v : Word) : enabledCfg v < 2 ^ 32 := Nat.lt_of_le_of_lt Nat.and_le_left (BitVec.isLt _)

theorem bit_enabledCfg (v : Word) : bit (enabledCfg v) 31 = true := by
  have h : bit (setField v 31 1 1).toNat 31 = true := bit_setField_one v (by decide)
  rw [bit_eq_testBit] at h ⊢
  rw [enabledCfg, Nat.testBit_and, h]
  rfl

theorem bits_enabledCfg (v : Word) : bits (enabledCfg v) 0 12 = getField v 0 12 := by
  have hlow : getField (setField v 31 1 1) 0 12 = getField v 0 12 := getField_setField_bit31 _ 1 (by decide)
  rw [← hlow, getField]
  refine Nat.eq_of_testBit_eq fun i => ?_
  simp only [bits, Nat.shiftRight_zero, Nat.testBit_mod_two_pow, enabledCfg, Nat.testBit_and]
  by_cases hi : i < 12
  · have hmask : ∀ i : Fin 12, Nat.testBit 0xC0000FFF i.val = true := by decide
    simp [hi, hmask ⟨i, hi⟩]
  · simp [hi]

theorem State.fget_rset_cfg (r : RegDesc) (v : Word) (q : Nat) : (s.rset r (enabledCfg v) q).flag ⟨r, 31, 1⟩ q = true ∧
    (s.rset r (enabledCfg v) q).fget ⟨r, 0, 12⟩ q = getField v 0 12 := by
  have hrd : ((s.rset r (enabledCfg v) q).rd (r.at q)).toNat = enabledCfg v :=
    (State.rget_rset_self ..).trans (Nat.mod_eq_of_lt (enabledCfg_lt v))
  refine ⟨?_, ?_⟩
  · change (bits ((s.rset r (enabledCfg v) q).rd (r.at q)).toNat 31 1 == 1) = true
    rw [hrd]
    exact bit_enabledCfg v
  · change bits ((s.rset r (enabledCfg v) q).rd (r.at q)).toNat 0 12 = _
    rw [hrd, bits_enabledCfg]

theorem ringRegs_apart : ∀ q : Fin 16,
    R.HOST_JR_CFG.at q.val ≠ R.HOST_JR_HEAD.at q.val ∧ R.HOST_JR_CFG.at q.val ≠ R.HOST_JR_TAIL.at q.val ∧
    R.HOST_JR_HEAD.at q.val ≠ R.HOST_JR_TAIL.at q.val ∧ R.HOST_RR_CFG.at q.val ≠ R.HOST_RR_HEAD.at q.val ∧
    R.HOST_RR_CFG.at q.val ≠ R.HOST_RR_TAIL.at q.val ∧ R.HOST_RR_HEAD.at q.val ≠ R.HOST_RR_TAIL.at q.val ∧
    R.HOST_RR_CFG.at q.val ≠ R.HOST_RR_SEQ.at q.val ∧ R.HOST_RR_HEAD.at q.val ≠ R.HOST_RR_SEQ.at q.val ∧
    R.HOST_RR_TAIL.at q.val ≠ R.HOST_RR_SEQ.at q.val := by decide

/-- The registers of a job ring that is enabled. -/
def State.jobEnabled (s : State) (q : Nat) (v : Word) : State :=
  ((s.rset R.HOST_JR_CFG (enabledCfg v) q).fset F.HOST_JR_HEAD_INDEX 0 q).fset F.HOST_JR_TAIL_INDEX 0 q

/-- The registers of a result ring that is enabled. -/
def State.resultEnabled (s : State) (q : Nat) (v : Word) : State :=
  (((s.rset R.HOST_RR_CFG (enabledCfg v) q).fset F.HOST_RR_HEAD_INDEX 0 q).fset F.HOST_RR_TAIL_INDEX 0 q).rset R.HOST_RR_SEQ 0 q

theorem State.writeJobCfg_of_enable {q : Nat} (h : s.flag F.HOST_JR_CFG_EN q = false) (v : Word) :
    s.writeJobCfg q (setField v 31 1 1) = (s.jobEnabled q v).setHosts { s.hosts with
      jobSeq := s.hosts.jobSeq.filter (fun x => x.1 != q), jobStop := s.hosts.jobStop.filter (fun x => x.1 != q) } := by
  have hbit : bit (setField v 31 1 1).toNat 31 = true := bit_setField_one v (by decide)
  rw [State.writeJobCfg, h]
  exact if_pos ⟨hbit, rfl⟩

theorem State.writeRingCfg_of_enable {q : Nat} (h : s.ringEnabled q = false) (v : Word) :
    s.writeRingCfg q (setField v 31 1 1) = (s.resultEnabled q v).setRingX q { s.ringX q with
      fwDist := 0, autoBase := s.now, cursors := (s.ringX q).cursors.map (fun (c : Cursor) => { c with index := 0, dist := 0 }) } := by
  have hbit : bit (setField v 31 1 1).toNat 31 = true := bit_setField_one v (by decide)
  have hen : s.flag F.HOST_RR_CFG_EN q = false := h
  rw [State.writeRingCfg, hen]
  exact if_pos ⟨hbit, rfl⟩

theorem State.jobEnabled_shows (q : Fin 16) (v : Word) : (s.jobEnabled q.val v).flag F.HOST_JR_CFG_EN q.val = true ∧
    (s.jobEnabled q.val v).fget F.HOST_JR_CFG_SIZEM1 q.val = getField v 0 12 ∧ (s.jobEnabled q.val v).fget F.HOST_JR_HEAD_INDEX q.val = 0 ∧
    (s.jobEnabled q.val v).fget F.HOST_JR_TAIL_INDEX q.val = 0 := by
  obtain ⟨hch, hct, hht, -⟩ := ringRegs_apart q
  obtain ⟨hen, hsize⟩ := s.fget_rset_cfg R.HOST_JR_CFG v q.val
  have hcfg : (s.jobEnabled q.val v).rd (R.HOST_JR_CFG.at q.val) = (s.rset R.HOST_JR_CFG (enabledCfg v) q.val).rd (R.HOST_JR_CFG.at q.val) := by
    rw [State.jobEnabled, State.rd_fset_ne _ F.HOST_JR_TAIL_INDEX _ _ _ _ hct, State.rd_fset_ne _ F.HOST_JR_HEAD_INDEX _ _ _ _ hch]
  refine ⟨(State.flag_of_rd hcfg).trans hen, (State.fget_of_rd hcfg).trans hsize, ?_, ?_⟩
  · rw [State.jobEnabled, State.fget_fset_ne _ F.HOST_JR_TAIL_INDEX F.HOST_JR_HEAD_INDEX _ _ _ _ _ hht,
      State.fget_fset_self _ _ _ _ _ (by decide) (by decide), Nat.zero_mod]
  · rw [State.jobEnabled, State.fget_fset_self _ _ _ _ _ (by decide) (by decide), Nat.zero_mod]

theorem State.resultEnabled_shows (q : Fin 16) (v : Word) : (s.resultEnabled q.val v).ringEnabled q.val = true ∧
    (s.resultEnabled q.val v).ringSize q.val = getField v 0 12 + 1 ∧ (s.resultEnabled q.val v).fget F.HOST_RR_HEAD_INDEX q.val = 0 ∧
    (s.resultEnabled q.val v).fget F.HOST_RR_TAIL_INDEX q.val = 0 ∧ (s.resultEnabled q.val v).rget R.HOST_RR_SEQ q.val = 0 := by
  obtain ⟨-, -, -, hch, hct, hht, hcs, hhs, hts⟩ := ringRegs_apart q
  obtain ⟨hen, hsize⟩ := s.fget_rset_cfg R.HOST_RR_CFG v q.val
  have hcfg : (s.resultEnabled q.val v).rd (R.HOST_RR_CFG.at q.val) =
      (s.rset R.HOST_RR_CFG (enabledCfg v) q.val).rd (R.HOST_RR_CFG.at q.val) := by
    rw [State.resultEnabled, State.rd_rset_ne _ R.HOST_RR_SEQ _ _ _ _ hcs, State.rd_fset_ne _ F.HOST_RR_TAIL_INDEX _ _ _ _ hct,
      State.rd_fset_ne _ F.HOST_RR_HEAD_INDEX _ _ _ _ hch]
  refine ⟨(State.flag_of_rd hcfg).trans hen, congrArg (· + 1) ((State.fget_of_rd hcfg).trans hsize), ?_, ?_, ?_⟩
  · rw [State.resultEnabled, State.fget_rset_ne _ R.HOST_RR_SEQ F.HOST_RR_HEAD_INDEX _ _ _ _ _ hhs,
      State.fget_fset_ne _ F.HOST_RR_TAIL_INDEX F.HOST_RR_HEAD_INDEX _ _ _ _ _ hht,
      State.fget_fset_self _ _ _ _ _ (by decide) (by decide), Nat.zero_mod]
  · rw [State.resultEnabled, State.fget_rset_ne _ R.HOST_RR_SEQ F.HOST_RR_TAIL_INDEX _ _ _ _ _ hts,
      State.fget_fset_self _ _ _ _ _ (by decide) (by decide), Nat.zero_mod]
  · exact State.rget_rset_self ..

theorem State.jobEnabled_regsOnly (q : Nat) (v : Word) :
    s.regsOnly (s.jobEnabled q v) [R.HOST_JR_CFG.at q, R.HOST_JR_HEAD.at q, R.HOST_JR_TAIL.at q] := by
  intro a ha
  simp only [List.mem_cons, List.not_mem_nil, or_false, not_or] at ha
  obtain ⟨hcfg, hhead, htail⟩ := ha
  rw [State.jobEnabled, State.rd_fset_ne _ F.HOST_JR_TAIL_INDEX _ _ _ _ htail, State.rd_fset_ne _ F.HOST_JR_HEAD_INDEX _ _ _ _ hhead,
    State.rd_rset_ne _ R.HOST_JR_CFG _ _ _ _ hcfg]

section
variable {s} {r : Req} {q : Fin 16}

theorem execRingEnable_job (hr : s.homeReq r) (hoff : s.flag F.HOST_JR_CFG_EN q.val = false) (v : Word) : exec (.ringEnable r true q v) s =
    .next ((s.jobEnabled q.val v).setHosts { s.hosts with
      jobSeq := s.hosts.jobSeq.filter (fun x => x.1 != q.val), jobStop := s.hosts.jobStop.filter (fun x => x.1 != q.val) }) := by
  change execRingEnable r true q v s = _
  rw [execRingEnable, if_pos rfl, State.asHome_of_homeReq hr, s.writeJobCfg_of_enable hoff]

theorem execRingEnable_result (hr : s.homeReq r) (hoff : s.ringEnabled q.val = false) (v : Word) : exec (.ringEnable r false q v) s =
    .next ((s.resultEnabled q.val v).setRingX q.val { s.ringX q.val with
      fwDist := 0, autoBase := s.now, cursors := (s.ringX q.val).cursors.map (fun (c : Cursor) => { c with index := 0, dist := 0 }) }) := by
  change execRingEnable r false q v s = _
  rw [execRingEnable, if_neg Bool.false_ne_true, State.asHome_of_homeReq hr, s.writeRingCfg_of_enable hoff]

end

/-- Settles O54: each command is cut down to the branch its premises choose, and that branch shows what it did. -/
theorem hostPortsTimeSyncAndSpiTarget : Obligations.HostPortsTimeSyncAndSpiTarget := by
  refine ⟨fun p kind pcp src body s hpwr hport hlink hmac => ?_, fun p dom master ppb s hport hdom hdomain hsrc => ?_,
    fun p dom cap master ppb s hport hdom => ?_, fun p s => ?_, fun p s hvalid => ?_, fun p s cyc base es hvalid hlist hcur hcyc hbase ho => ?_,
    fun s hon => ?_, fun body s hon hlen hroom => ?_, fun s b rest hon hreply => ?_, fun p up s hbit hup => ?_, fun r q v s hr hoff => ?_,
    fun r q v s hr hoff => ?_⟩
  · rw [execHostFrameReceive_of_on hpwr hport hlink hmac]
    refine ⟨fun hfull => ?_, fun hfull hkind hpcp => ?_, fun hfull hkind hpcp => ?_, fun hfull hkind => ?_, fun hfull hkind => ?_⟩
    · rw [if_pos hfull]
      refine ⟨_, rfl, State.rget_count_self .., by simp [State.count], fun a ha => ?_⟩
      exact State.rd_rset_ne _ R.HOST_RXDROP _ _ _ _ fun h => ha (by simp [h])
    · rw [hfull]
      simp [hkind, hpcp, frameKept]
    · rw [hfull]
      simp [hkind, hpcp, frameKept]
    · rw [hfull]
      rcases hkind with hkind | ⟨hkind, hlen⟩
      · have hkept : frameKept p.val kind.val body.length = true := by simp [hkind, frameKept]
        rw [hkept, hkind]
        exact ⟨s.send _ _ _, _, rfl, rfl, rfl, rfl, by simp⟩
      · have hkept : frameKept p.val kind.val body.length = true := by simp [hkind, hlen, frameKept]
        rw [hkept, hkind]
        exact ⟨s.send _ _ _, _, rfl, rfl, rfl, rfl, by simp⟩
    · rw [hfull]
      rcases hkind with ⟨hkind, hlen⟩ | hkind
      · simp [hkind, frameKept, Nat.not_le.mpr hlen]
      · simp [hkind, frameKept]
  · obtain ⟨hsync, hrate, hne⟩ := tsync_apart
    have honly := State.only_mono (l' := [.regs, .chn, .ledger, .hosts, .events]) (s.setSynced_only p.val (s.now + 1)) (by simp)
    have hflag := s.flag_setSynced hsrc (s.now + 1)
    rw [s.gptp_sync hport hdom hdomain hsrc]
    generalize s.setSynced p.val (s.now + 1) = u at *
    refine ⟨_, rfl, ?_, ?_, ?_, ?_, ?_, ?_⟩
    · rw [State.wallOfs_rset_tsrate, u.wallTime_moveWall master.isLt]
    · exact (State.flag_of_rd (State.rd_rset_ne _ _ _ _ _ _ (by decide))).trans (u.valid_moveWall _ _)
    · rw [State.fget_rset_ne _ _ _ _ _ _ _ _ (by decide), State.source_moveWall]
      exact Nat.lt_of_lt_of_le (Nat.add_lt_add_right p.isLt 2) (by decide)
    · exact (State.rget_rset_self ..).trans (Nat.mod_eq_of_lt ppb.isLt)
    · have hmoved : (u.moveWall ((master.toNat + 2 ^ 64 - u.now) % 2 ^ 64) (p.val + 2)).flag F.HOST_TSYNC_SYNCED = true := by
        rw [State.flag_of_rd (f := F.HOST_TSYNC_SYNCED) (State.rd_moveWall _ hsync _ _), hflag]
        simp
      exact (State.flag_of_rd (State.rd_rset_ne _ R.HOST_TSRATE _ _ _ _ hne)).trans hmoved
    · rw [State.only_rset_iff _ _ (by simp)]
      exact State.only_trans honly (State.only_mono (u.moveWall_only _ _) (by simp))
  · change execGptpFrame p 1 dom cap master ppb s = _
    rw [execGptpFrame, hport, hdom]
    rfl
  · exact ⟨_, rfl, s.synced_setSynced _ _, fun hsrc => s.flag_setSynced hsrc 0, s.setSynced_only _ _, s.setSynced_regsOnly _ _⟩
  · exact ⟨_, execQbvGateEntry_of_invalid hvalid p, s.active_showGate _ _ _, s.entry_showGate _ _ (by decide), s.showGate_only _ _ _,
      s.showGate_regsOnly _ _ _⟩
  · obtain ⟨k, hk, heq, hle, hlt⟩ := gateAt_spec es ((s.wallTime - base) % cyc) 0 ho
    have hk64 : k < 64 := Nat.lt_of_lt_of_le hk (s.length_gateList hlist)
    rw [Nat.zero_add] at heq
    refine ⟨_, k, execQbvGateEntry_of_running hvalid hlist hcur hcyc hbase, State.active_showGate _ _ _ _, ?_, hle, hlt, ?_⟩
    · rw [heq, State.entry_showGate _ _ _ hk64]
    · exact State.only_trans (t := s.setHosts _) (by simp [State.setHosts]) (State.only_mono (State.showGate_only _ _ _ _) (by simp))
  · change execSpitStatus s = _
    rw [execSpitStatus, hon]
    rfl
  · exact congrArg Host.Outcome.next (if_neg (by simp [hon]; omega))
  · refine ⟨(s.respond false b).setHosts { s.hosts with spiReply := rest }, ?_, rfl, rfl, by simp⟩
    change execSpitRead s = _
    rw [execSpitRead, hon, hreply]
    rfl
  · refine ⟨_, execHostPortLinkChange_of_change hbit hup, (s.link_linkShown hbit p).trans (if_pos rfl), fun q hq hne => ?_, s.linkShown_only _ _⟩
    exact (s.link_linkShown hbit ⟨q, hq⟩).trans (if_neg fun h => hne (congrArg Fin.val h))
  · obtain ⟨hen, hsize, hhead, htail⟩ := s.jobEnabled_shows q v
    refine ⟨_, execRingEnable_job hr hoff v, hen, hsize, hhead, htail, Sparse.get_drop_self _ s.hosts.jobSeq q.val, ?_,
      s.jobEnabled_regsOnly q.val v⟩
    simp [State.jobEnabled]
  · obtain ⟨hen, hsize, hhead, htail, hseq⟩ := s.resultEnabled_shows q v
    refine ⟨_, execRingEnable_result hr hoff v, hen, hsize, hhead, htail, hseq, ?_, ?_, ?_⟩
    · rw [State.ringX_setRingX_self]
    · rw [State.ringX_setRingX_self]
      intro c hc
      obtain ⟨c', -, rfl⟩ := List.mem_map.mp hc
      exact ⟨rfl, rfl⟩
    · simp [State.resultEnabled]

end Sys2Proof.Machine
end

section
/-! PROOF. What a record, a tick and a snapshot of the usage ledger leave (spec/14, R398 to R408). -/

namespace Sys2Proof.Machine

variable (s : State)

/-! ### Ring commits leave the other registers -/

/-- The registers that a commit to result ring `q` changes. -/
def commitRegs (q : Nat) : List Nat := [R.MEM_TAGERR.at, R.HOST_RR_HEAD.at q, R.HOST_RR_SEQ.at q]

theorem State.putEntries_regsOnly (q i : Nat) (l : List (List Byte)) : s.regsOnly (s.putEntries q i l) [R.MEM_TAGERR.at] := by
  induction l generalizing s i with
  | nil => exact fun _ _ => rfl
  | cons b l ih => exact State.regsOnly_trans (s.store_regsOnly _ _) (ih _ _)

theorem State.commitRecord_regsOnly (q : Nat) (b : List Byte) : s.regsOnly (s.commitRecord q b) (commitRegs q) := by
  intro a ha
  simp only [commitRegs, List.mem_cons, List.not_mem_nil, or_false, not_or] at ha
  obtain ⟨htag, hhead, hseq⟩ := ha
  obtain ⟨x, hx⟩ := s.commitRecord_eq q b
  have hmove (u : State) (head seq : Nat) : (u.moveRing q head seq).rd a = u.rd a := by
    rw [State.moveRing, State.rd_rset_ne _ R.HOST_RR_SEQ _ _ _ _ hseq, State.rd_fset_ne _ F.HOST_RR_HEAD_INDEX _ _ _ _ hhead]
  rw [hx]
  exact (hmove _ _ _).trans (s.putEntries_regsOnly _ _ _ a (by simp [htag]))

theorem State.tryCommit_regsOnly (q : Nat) (b : List Byte) : s.regsOnly (s.tryCommit q b).2 (commitRegs q) := by
  unfold State.tryCommit
  split
  · exact fun _ _ => rfl
  · split
    · exact fun _ _ => rfl
    · exact s.commitRecord_regsOnly q b

theorem State.tryCommit_only (q : Nat) (b : List Byte) : s.only (s.tryCommit q b).2 [.regs, .mem, .rings] := by
  unfold State.tryCommit
  split
  · exact s.only_refl _
  · split
    · exact s.only_refl _
    · exact s.commitRecord_only q b

/-! ### Taking a slot (R406, R410) -/

/-- The parts of the state that the writing of a record may change. -/
abbrev ledgerParts : List Part := [.regs, .chn, .ledger, .events]

/-- From `s` to `t` the write position, the ledger port's work and STOPPED may have changed, and cards may have been written. -/
structure State.SlotMoved (s t : State) : Prop where
  only : s.only t ledgerParts
  ledger : ∃ k j, t.ledger = { s.ledger with slot := k, jobs := j }
  stat : ∀ f : Fld, f.reg = R.LDG_STAT → f.lo + f.width ≤ 27 ∨ 28 ≤ f.lo → t.fget f = s.fget f
  rd : ∀ a, a ≠ R.LDG_STAT.at → a ∉ cardRegs → t.rd a = s.rd a

variable {s} {t u : State}

theorem State.SlotMoved.trans (h : s.SlotMoved t) (h' : t.SlotMoved u) : s.SlotMoved u where
  only := State.only_trans h.only h'.only
  ledger := by
    obtain ⟨k, j, hl⟩ := h.ledger
    obtain ⟨k', j', hl'⟩ := h'.ledger
    exact ⟨k', j', by rw [hl', hl]⟩
  stat f hf hd := (h'.stat f hf hd).trans (h.stat f hf hd)
  rd a ha hc := (h'.rd a ha hc).trans (h.rd a ha hc)

variable (s)

theorem ldgStat_not_mem_cardRegs : R.LDG_STAT.at ∉ cardRegs := by decide

theorem State.slotMoved_refl : s.SlotMoved s := ⟨s.only_refl _, ⟨_, _, rfl⟩, fun _ _ _ => rfl, fun _ _ _ => rfl⟩

theorem State.slotMoved_setLedger (k : Nat) (j : List (Nat × Nat × Nat)) : s.SlotMoved (s.setLedger { s.ledger with slot := k, jobs := j }) :=
  ⟨by simp, ⟨k, j, rfl⟩, fun _ _ _ => rfl, fun _ _ _ => rfl⟩

theorem State.slotMoved_ldgCard (event ofs : Nat) : s.SlotMoved (s.ldgCard event ofs) where
  only := State.only_mono (s.card_only _) (by simp)
  ledger := ⟨_, _, s.card_only _ .ledger (by simp)⟩
  stat f hf _ := State.fget_of_rd (s.rd_card (by rw [hf]; exact ldgStat_not_mem_cardRegs) _)
  rd a _ hc := s.rd_card hc _

theorem State.slotMoved_stopped : s.SlotMoved (s.setFlag F.LDG_STAT_STOPPED true) where
  only := by simp
  ledger := ⟨_, _, rfl⟩
  stat f hf hd := State.fget_setFlag_other _ F.LDG_STAT_STOPPED f _ _ _ hf (by decide) (by decide) hd
  rd a ha _ := State.rd_setFlag_ne _ F.LDG_STAT_STOPPED _ _ _ _ ha

theorem State.slotMoved_seekSector (sec fuel : Nat) : s.SlotMoved (s.seekSector sec fuel).2 := by
  induction fuel generalizing s sec with
  | zero => exact s.slotMoved_refl
  | succ fuel ih =>
    rw [State.seekSector]
    split
    · exact s.slotMoved_refl
    · exact (s.slotMoved_ldgCard _ _).trans (ih _ _)

theorem State.slotMoved_enterSector (sec : Nat) : s.SlotMoved (s.enterSector sec) := by
  have hseek := s.slotMoved_seekSector sec 32768
  unfold State.enterSector
  split
  · next u hu =>
    rw [hu] at hseek
    split
    · exact hseek
    · exact (hseek.trans (State.slotMoved_stopped _)).trans (State.slotMoved_ldgCard _ _ _)
  · next sec' u hu =>
    rw [hu] at hseek
    exact hseek.trans (State.slotMoved_setLedger _ _ _)

theorem State.slotMoved_takeSlot : s.SlotMoved s.takeSlot.2 := by
  unfold State.takeSlot
  split
  · exact s.slotMoved_refl
  · dsimp only
    split
    · exact s.slotMoved_enterSector _
    · exact s.slotMoved_setLedger _ _

/-! ### Writing a record (R404 to R406) -/

/-- A record's kind, tariff and class bytes and its body (Table 14-2). -/
def LedgerRec.Holds (r : LedgerRec) (kind tariff cls : Nat) (body : List Byte) : Prop :=
  ∃ (fl : Byte) (mid mac : List Byte), mid.length = 20 ∧
    r.bytes = BitVec.ofNat 8 kind :: fl :: mid ++ [BitVec.ofNat 8 tariff, BitVec.ofNat 8 cls] ++ padTo 24 body ++ mac

/-- From `s` to `t` a record with that kind, tariff, class and body joins those that wait. -/
structure State.Wrote (s t : State) (kind tariff cls : Nat) (body : List Byte) : Prop where
  only : s.only t ledgerParts
  ledger : ∃ k j m n r, LedgerRec.Holds r kind tariff cls body ∧
    t.ledger = { s.ledger with slot := k, jobs := j, mac := m, nextSeq := n, recs := s.ledger.recs ++ [r] }
  stat : ∀ f : Fld, f.reg = R.LDG_STAT → f.lo + f.width ≤ 27 ∨ 28 ≤ f.lo → t.fget f = s.fget f
  rd : ∀ a, a ≠ R.LDG_STAT.at → a ∉ cardRegs → t.rd a = s.rd a

/-- A record joins those that wait, and the chain of MACs goes on with it. -/
def State.withRecord (s : State) (mac : List Byte) (n : Nat) (r : LedgerRec) : State :=
  s.setLedger { s.ledger with mac := mac, nextSeq := n, recs := s.ledger.recs ++ [r] }

theorem holds_of_layout (fl : Byte) (mac body : List Byte) (kind tariff cls origin seq epoch : Nat) (slot : Option Nat) :
    LedgerRec.Holds ⟨[BitVec.ofNat 8 kind, fl] ++ leBytes 2 1 ++ leBytes 4 0 ++ leBytes 8 origin ++ leBytes 4 seq ++ leBytes 2 epoch ++
      [BitVec.ofNat 8 tariff, BitVec.ofNat 8 cls] ++ padTo 24 body ++ mac, slot, 0⟩ kind tariff cls body :=
  ⟨fl, leBytes 2 1 ++ leBytes 4 0 ++ leBytes 8 origin ++ leBytes 4 seq ++ leBytes 2 epoch, mac, by simp [leBytes_length], by simp⟩

theorem State.ledgerWrite_eq (kind origin flags tariff cls : Nat) (body : List Byte) : ∃ mac n r on, LedgerRec.Holds r kind tariff cls body ∧
    s.ledgerWrite kind origin flags tariff cls body = (s.takeSlot.2.withRecord mac n r).forward on r.bytes :=
  ⟨_, _, _, _, holds_of_layout _ _ body kind tariff cls origin _ _ s.takeSlot.1, rfl⟩

theorem State.rd_forward (on : Bool) (b : List Byte) (a : Nat) : (s.forward on b).rd a = s.rd a :=
  State.rd_of_only (s.forward_only on b) (by simp) a

theorem State.wrote_ledgerWrite (kind origin flags tariff cls : Nat) (body : List Byte) :
    s.Wrote (s.ledgerWrite kind origin flags tariff cls body) kind tariff cls body := by
  have hslot := s.slotMoved_takeSlot
  obtain ⟨mac, n, r, on, hr, heq⟩ := s.ledgerWrite_eq kind origin flags tariff cls body
  rw [heq]
  obtain ⟨k, j, hl⟩ := hslot.ledger
  have hrd (a : Nat) : ((s.takeSlot.2.withRecord mac n r).forward on r.bytes).rd a = s.takeSlot.2.rd a := State.rd_forward _ _ _ a
  refine ⟨State.only_trans hslot.only (State.only_trans (t := s.takeSlot.2.withRecord mac n r) (by simp [State.withRecord])
    (State.only_mono (State.forward_only _ _ _) (by simp))), ⟨k, j, mac, n, r, hr, ?_⟩,
    fun f hf hd => (State.fget_of_rd (hrd _)).trans (hslot.stat f hf hd), fun a ha hc => (hrd a).trans (hslot.rd a ha hc)⟩
  rw [State.forward_only _ on r.bytes .ledger (by simp), State.withRecord, State.setLedger, hl]

/-! ### What the rest of a tick keeps -/

/-- What a tick's evaluation accumulates, and what it has to process. -/
def Ledger.sums (l : Ledger) : Nat × List Nat × List Nat × Nat × Nat × List (Nat × Nat) × Nat × List Nat × List (Nat × Nat × Nat) × Bool :=
  (l.lastTick, l.tariffs.map (·.ms), l.classMs, l.epos, l.eneg, l.rf, l.dmg, l.residue, l.steps, l.ovrSet)

/-- From `s` to `t` nothing was accumulated; CLASS stays. -/
structure State.Summed (s t : State) : Prop where
  only : s.only t ledgerParts
  sums : t.ledger.sums = s.ledger.sums
  cls : t.fget F.LDG_STAT_CLASS = s.fget F.LDG_STAT_CLASS

/-- Nor has a demand interval opened. -/
structure State.SameInterval (s t : State) : Prop extends State.Summed s t where
  opened : t.ledger.opened = s.ledger.opened

variable {s} {t u : State}

theorem State.Summed.trans (h : s.Summed t) (h' : t.Summed u) : s.Summed u :=
  ⟨State.only_trans h.only h'.only, h'.sums.trans h.sums, h'.cls.trans h.cls⟩

theorem State.SameInterval.trans (h : s.SameInterval t) (h' : t.SameInterval u) : s.SameInterval u :=
  ⟨h.toSummed.trans h'.toSummed, h'.opened.trans h.opened⟩

variable (s)

theorem State.sameInterval_refl : s.SameInterval s := ⟨⟨s.only_refl _, rfl, rfl⟩, rfl⟩

section
variable {s} {t : State}

theorem State.Summed.setLedger (h : s.Summed t) {l : Ledger} (hsums : l.sums = t.ledger.sums) : s.Summed (t.setLedger l) :=
  h.trans ⟨by simp, hsums, rfl⟩

theorem State.SameInterval.setLedger (h : s.SameInterval t) {l : Ledger} (hsums : l.sums = t.ledger.sums)
    (hopened : l.opened = t.ledger.opened) : s.SameInterval (t.setLedger l) :=
  ⟨h.toSummed.setLedger hsums, hopened.trans h.opened⟩

theorem State.SameInterval.setFlag (h : s.SameInterval t) {f : Fld} (hreg : f.reg = R.LDG_STAT) (hlo : 16 ≤ f.lo) (hw : f.lo + f.width ≤ 32)
    (hw0 : 0 < f.width) (b : Bool) : s.SameInterval (t.setFlag f b) :=
  h.trans ⟨⟨by simp, rfl, State.fget_setFlag_other _ f F.LDG_STAT_CLASS _ _ _ hreg.symm hw hw0 (.inl hlo)⟩, rfl⟩

theorem State.SameInterval.ledgerWrite (h : s.SameInterval t) (kind origin flags tariff cls : Nat) (body : List Byte) :
    s.SameInterval (t.ledgerWrite kind origin flags tariff cls body) := by
  have hw := t.wrote_ledgerWrite kind origin flags tariff cls body
  obtain ⟨k, j, m, n, r, -, hl⟩ := hw.ledger
  exact h.trans ⟨⟨hw.only, by rw [hl]; rfl, hw.stat F.LDG_STAT_CLASS rfl (by decide)⟩, by rw [hl]⟩

theorem State.SameInterval.ledgerEvent (h : s.SameInterval t) (tick kind count : Nat) : s.SameInterval (t.ledgerEvent tick kind count) :=
  h.ledgerWrite _ _ _ _ _ _

end

theorem State.sameInterval_writeSnapshot (tick : Nat) : s.SameInterval (s.writeSnapshot tick) := by
  have hfold (b : List Byte) (l : List Nat) (u : State) :
      u.SameInterval (l.foldl (fun s i => s.ledgerWrite 0x57 tick 0 i 61 ((b.drop (24 * i)).take 24)) u) := by
    induction l generalizing u with
    | nil => exact u.sameInterval_refl
    | cons i l ih => exact (u.sameInterval_refl.ledgerWrite _ _ _ _ _ _).trans (ih _)
  exact hfold _ _ _

theorem State.sameInterval_snapIfDue (tick : Nat) : s.SameInterval (s.snapIfDue tick) := by
  unfold State.snapIfDue
  dsimp only
  split
  · exact (s.sameInterval_writeSnapshot tick).setLedger rfl rfl
  · exact s.sameInterval_refl

/-- The EVENT of a programmed key, if it waits. -/
def State.keyEvent (s : State) (tick : Nat) : State :=
  if s.ledger.keySet then (s.setLedger { s.ledger with keySet := false }).ledgerEvent tick 6 0 else s

/-- The EVENT of a cleared maximum demand, if it waits. -/
def State.clearEvent (s : State) (tick : Nat) : State :=
  if s.ledger.clearMd then (s.setLedger { s.ledger with clearMd := false }).ledgerEvent tick 5 0 else s

theorem State.heldEvents_eq (tick : Nat) : s.heldEvents tick = if !s.ledgerOn then s else (s.keyEvent tick).clearEvent tick := rfl

theorem State.sameInterval_keyEvent (tick : Nat) : s.SameInterval (s.keyEvent tick) := by
  unfold State.keyEvent
  split
  · exact (s.sameInterval_refl.setLedger (l := { s.ledger with keySet := false }) rfl rfl).ledgerEvent _ _ _
  · exact s.sameInterval_refl

theorem State.sameInterval_clearEvent (tick : Nat) : s.SameInterval (s.clearEvent tick) := by
  unfold State.clearEvent
  split
  · exact (s.sameInterval_refl.setLedger (l := { s.ledger with clearMd := false }) rfl rfl).ledgerEvent _ _ _
  · exact s.sameInterval_refl

theorem State.sameInterval_heldEvents (tick : Nat) : s.SameInterval (s.heldEvents tick) := by
  rw [s.heldEvents_eq]
  split
  · exact s.sameInterval_refl
  · exact (s.sameInterval_keyEvent tick).trans (State.sameInterval_clearEvent _ tick)

/-- A segment under another tariff opens. -/
def State.underTariff (s : State) (tick new : Nat) : State := (s.setLedger (s.ledger.newSegment tick)).fset F.LDG_STAT_TARIFF new

theorem State.changeTariff_eq (tick new source : Nat) (ofs : Int) (atBound : Bool) : ∃ flags cls body,
    s.changeTariff tick new source ofs atBound = if new = s.ldgTariff then s
      else (s.ledgerWrite 0x52 tick flags s.ldgTariff cls body).underTariff tick new := ⟨_, _, _, rfl⟩

theorem State.sameInterval_underTariff (tick new : Nat) : s.SameInterval (s.underTariff tick new) :=
  ⟨⟨by simp [State.underTariff], rfl,
    State.fget_fset_other _ F.LDG_STAT_TARIFF F.LDG_STAT_CLASS _ _ _ rfl (by decide) (by decide) (by decide)⟩, rfl⟩

theorem State.sameInterval_changeTariff (tick new source : Nat) (ofs : Int) (atBound : Bool) :
    s.SameInterval (s.changeTariff tick new source ofs atBound) := by
  obtain ⟨flags, cls, body, h⟩ := s.changeTariff_eq tick new source ofs atBound
  rw [h]
  split
  · exact s.sameInterval_refl
  · exact (s.sameInterval_refl.ledgerWrite _ _ _ _ _ _).trans (State.sameInterval_underTariff _ _ _)

/-- The starts and stops of a tick. -/
def State.startStop (s : State) (t : Nat) : State :=
  if !s.flag F.LDG_STAT_RUNNING ∧ (s.ledger.fp 20).lt (f64 (s.ledger.speed t)) then
    let s := (s.setLedger { s.ledger with starts := satAdd 32 s.ledger.starts 1 }).setFlag F.LDG_STAT_RUNNING true
    s.ledgerEvent t 1 s.ledger.starts
  else if s.flag F.LDG_STAT_RUNNING ∧ (f64 (s.ledger.speed t)).lt (s.ledger.fp 24) then
    let s := (s.setLedger { s.ledger with stops := satAdd 32 s.ledger.stops 1 }).setFlag F.LDG_STAT_RUNNING false
    s.ledgerEvent t 2 s.ledger.stops
  else s

/-- The overspeed events of a tick. -/
def State.overspeeds (s : State) (t : Nat) (f fover : FV) : State :=
  if fover == f32 0 then s
  else if !s.ledger.speedy ∧ fover.lt f then
    let s := s.setLedger { s.ledger with overs := satAdd 32 s.ledger.overs 1, speedy := true }
    s.ledgerEvent t 3 s.ledger.overs
  else if s.ledger.speedy ∧ f.lt (f64 (toF64 ((f64 0x3FEF5C28F5C28F5C).mul fover))) then
    let s := s.setLedger { s.ledger with overEnds := satAdd 32 s.ledger.overEnds 1, speedy := false }
    s.ledgerEvent t 4 s.ledger.overEnds
  else s

theorem State.machineEvents_eq (tick : Nat) :
    s.machineEvents tick = (s.startStop tick).overspeeds tick (f64 (s.ledger.speed tick)) (s.ledger.fp 28) := rfl

theorem State.sameInterval_startStop (tick : Nat) : s.SameInterval (s.startStop tick) := by
  have hrun (l : Ledger) (run : Bool) (hsums : l.sums = s.ledger.sums) (hopened : l.opened = s.ledger.opened) :
      s.SameInterval ((s.setLedger l).setFlag F.LDG_STAT_RUNNING run) :=
    (s.sameInterval_refl.setLedger hsums hopened).setFlag rfl (by decide) (by decide) (by decide) run
  unfold State.startStop
  split
  · exact (hrun { s.ledger with starts := satAdd 32 s.ledger.starts 1 } true rfl rfl).ledgerEvent _ _ _
  · split
    · exact (hrun { s.ledger with stops := satAdd 32 s.ledger.stops 1 } false rfl rfl).ledgerEvent _ _ _
    · exact s.sameInterval_refl

theorem State.sameInterval_overspeeds (tick : Nat) (f fover : FV) : s.SameInterval (s.overspeeds tick f fover) := by
  unfold State.overspeeds
  split
  · exact s.sameInterval_refl
  · split
    · exact (s.sameInterval_refl.setLedger (l := { s.ledger with overs := satAdd 32 s.ledger.overs 1, speedy := true }) rfl rfl).ledgerEvent _ _ _
    · split
      · exact (s.sameInterval_refl.setLedger (l := { s.ledger with overEnds := satAdd 32 s.ledger.overEnds 1, speedy := false })
          rfl rfl).ledgerEvent _ _ _
      · exact s.sameInterval_refl

theorem State.sameInterval_machineEvents (tick : Nat) : s.SameInterval (s.machineEvents tick) := by
  rw [s.machineEvents_eq]
  exact (s.sameInterval_startStop tick).trans (State.sameInterval_overspeeds _ _ _ _)

/-! ### Demand intervals (R402, R403) -/

theorem State.sameInterval_setTb (tb : Nat) (bound : Int) : s.SameInterval (s.setTb tb bound) := by
  refine ⟨⟨by simp [State.setTb], rfl, ?_⟩, rfl⟩
  rw [State.setTb, State.fget_rset_ne _ R.LDG_NEXTB_HI _ _ _ _ _ _ (by decide), State.fget_rset_ne _ R.LDG_NEXTB_LO _ _ _ _ _ _ (by decide)]
  rfl

/-- An interval is open from tick `t` on. -/
def State.intervalOpen (s : State) (tick flags : Nat) (valid : Bool) : State :=
  (s.setLedger ({ s.ledger with opened := tick, intPos := s.ledger.epos, flags := flags, openWall := valid }.newSegment tick)).setFlag
    F.LDG_STAT_NOWALL (!valid)

theorem State.openInterval_eq (tick : Nat) (ofs : Int) (valid : Bool) (flags : Nat) : ∃ tb bound,
    s.openInterval tick ofs valid flags = (s.intervalOpen tick flags valid).setTb tb bound := by
  cases valid
  · exact ⟨_, _, rfl⟩
  · exact ⟨_, _, rfl⟩

theorem State.summed_intervalOpen (tick flags : Nat) (valid : Bool) : s.Summed (s.intervalOpen tick flags valid) :=
  ⟨by simp [State.intervalOpen], rfl,
    State.fget_setFlag_other _ F.LDG_STAT_NOWALL F.LDG_STAT_CLASS _ _ _ rfl (by decide) (by decide) (by decide)⟩

/-- A new interval opens at its tick. -/
theorem State.openInterval_opens (tick : Nat) (ofs : Int) (valid : Bool) (flags : Nat) :
    s.Summed (s.openInterval tick ofs valid flags) ∧ (s.openInterval tick ofs valid flags).ledger.opened = tick := by
  obtain ⟨tb, bound, h⟩ := s.openInterval_eq tick ofs valid flags
  have htb := (s.intervalOpen tick flags valid).sameInterval_setTb tb bound
  rw [h]
  exact ⟨(s.summed_intervalOpen tick flags valid).trans htb.toSummed, htb.opened⟩

theorem ms_closed (l : List TariffSum) (k dem : Nat) :
    (l.mapIdx (fun i (x : TariffSum) => if i = k then { x with maxDem := max x.maxDem dem } else x)).map (·.ms) = l.map (·.ms) := by
  refine List.ext_getElem (by simp) fun i h1 h2 => ?_
  simp only [List.getElem_map, List.getElem_mapIdx]
  split <;> rfl

/-- The demand of the closing interval is taken into its tariff's maximum. -/
def State.demandTaken (s : State) (k dem : Nat) (bound : Int) : State :=
  s.setLedger { s.ledger with
    tariffs := s.ledger.tariffs.mapIdx (fun i (x : TariffSum) => if i = k then { x with maxDem := max x.maxDem dem } else x), last := bound }

theorem State.closeInterval_eq (tick : Nat) (ofs : Int) (valid : Bool) (extra : Nat) : ∃ flags cls body,
    s.closeInterval tick ofs valid extra = ((s.ledgerWrite 0x51 tick flags s.ldgTariff cls body).demandTaken s.ldgTariff (s.ledger.demand tick)
      s.ledger.bound).openInterval tick ofs valid 0 := ⟨_, _, _, rfl⟩

theorem State.summed_demandTaken (k dem : Nat) (bound : Int) : s.Summed (s.demandTaken k dem bound) := by
  refine ⟨by simp [State.demandTaken], ?_, rfl⟩
  simp only [State.demandTaken, State.setLedger, Ledger.sums, ms_closed]

theorem State.closeInterval_closes (tick : Nat) (ofs : Int) (valid : Bool) (extra : Nat) :
    s.Summed (s.closeInterval tick ofs valid extra) ∧ (s.closeInterval tick ofs valid extra).ledger.opened = tick := by
  obtain ⟨flags, cls, body, h⟩ := s.closeInterval_eq tick ofs valid extra
  have hwrite := (s.sameInterval_refl.ledgerWrite 0x51 tick flags s.ldgTariff cls body).toSummed
  obtain ⟨hopen, hopened⟩ := State.openInterval_opens ((s.ledgerWrite 0x51 tick flags s.ldgTariff cls body).demandTaken s.ldgTariff
    (s.ledger.demand tick) s.ledger.bound) tick ofs valid 0
  rw [h]
  exact ⟨(hwrite.trans (State.summed_demandTaken _ _ _ _)).trans hopen, hopened⟩

/-- A step of wall time: the interval it ends closes. -/
def State.stepClosed (s : State) (forward : Bool) (tick : Nat) (new : Int) : State :=
  if forward then s.closeInterval tick new true flSHORT else s

/-- A step of wall time: the boundary from which intervals count on. -/
def State.stepBase (s : State) (keep : Bool) (last : Int) : State := if keep then s else s.setLedger { s.ledger with last := last }

theorem State.timeCorr_eq (tick : Nat) (step : Nat × Nat × Nat) : ∃ cls body flags forward keep last tb nb tariff,
    s.timeCorr tick step = ((((((s.ledgerWrite 0x55 tick 0 s.ldgTariff cls body).setLedger
      { (s.ledgerWrite 0x55 tick 0 s.ldgTariff cls body).ledger with wasValid := true, flags := flags }).stepClosed forward tick
        (toSigned 64 step.2.1)).stepBase keep last).setTb tb nb).changeTariff tick tariff 3 (toSigned 64 step.2.1) false) :=
  ⟨_, _, _, _, _, _, _, _, _, rfl⟩

theorem State.summed_timeCorr (tick : Nat) (step : Nat × Nat × Nat) : s.Summed (s.timeCorr tick step) := by
  obtain ⟨cls, body, flags, forward, keep, last, tb, nb, tariff, h⟩ := s.timeCorr_eq tick step
  rw [h]
  have hwrite := (s.sameInterval_refl.ledgerWrite 0x55 tick 0 s.ldgTariff cls body).toSummed
  generalize s.ledgerWrite 0x55 tick 0 s.ldgTariff cls body = u at *
  have hnote := hwrite.setLedger (l := { u.ledger with wasValid := true, flags := flags }) rfl
  generalize u.setLedger { u.ledger with wasValid := true, flags := flags } = v at *
  have hclose : v.Summed (v.stepClosed forward tick (toSigned 64 step.2.1)) := by
    unfold State.stepClosed
    split
    · exact (v.closeInterval_closes _ _ _ _).1
    · exact v.sameInterval_refl.toSummed
  generalize v.stepClosed forward tick (toSigned 64 step.2.1) = w at *
  have hbase : w.Summed (w.stepBase keep last) := by
    unfold State.stepBase
    split
    · exact w.sameInterval_refl.toSummed
    · exact w.sameInterval_refl.toSummed.setLedger (l := { w.ledger with last := last }) rfl
  exact ((hnote.trans hclose).trans hbase).trans
    ((State.sameInterval_setTb _ _ _).toSummed.trans (State.sameInterval_changeTariff _ _ _ _ _ _).toSummed)

theorem State.summed_steps (tick : Nat) (l : List (Nat × Nat × Nat)) : s.Summed (l.foldl (fun s x => s.timeCorr tick x) s) := by
  induction l generalizing s with
  | nil => exact s.sameInterval_refl.toSummed
  | cons x l ih => exact (s.summed_timeCorr tick x).trans (ih _)

/-! ### Rainflow counting (R400) -/

/-- From `s` to `t` nothing but the rainflow counts, the damage and the residue may have changed, and the free choices went on. -/
def State.Rained (s t : State) : Prop :=
  s.only t [.ledger, .free] ∧ ∃ rf dmg res, t.ledger = { s.ledger with rf := rf, dmg := dmg, residue := res }

theorem State.Rained.trans {s t u : State} (h : s.Rained t) (h' : t.Rained u) : s.Rained u := by
  obtain ⟨honly, rf, dmg, res, hl⟩ := h
  obtain ⟨honly', rf', dmg', res', hl'⟩ := h'
  exact ⟨State.only_trans honly honly', rf', dmg', res', by rw [hl', hl]⟩

theorem State.rained_refl : s.Rained s := ⟨s.only_refl _, _, _, _, rfl⟩

theorem State.rained_setLedger (rf : List (Nat × Nat)) (dmg : Nat) (res : List Nat) :
    s.Rained (s.setLedger { s.ledger with rf := rf, dmg := dmg, residue := res }) := ⟨by simp, rf, dmg, res, rfl⟩

theorem State.rainClose_succ (span m : FV) (fuel : Nat) : ∃ (p : Prop) (_ : Decidable p) (rf : List (Nat × Nat)) (dmg : Nat) (res : List Nat),
    s.rainClose span m (fuel + 1) =
      if p then s else (s.draw.2.setLedger { s.ledger with rf := rf, dmg := dmg, residue := res }).rainClose span m fuel :=
  ⟨_, _, _, _, _, rfl⟩

theorem State.rained_rainClose (span m : FV) (fuel : Nat) : s.Rained (s.rainClose span m fuel) := by
  induction fuel generalizing s with
  | zero => exact s.rained_refl
  | succ fuel ih =>
    obtain ⟨p, _, rf, dmg, res, h⟩ := s.rainClose_succ span m fuel
    rw [h]
    split
    · exact s.rained_refl
    · exact State.Rained.trans ⟨by simp [State.draw], rf, dmg, res, rfl⟩ (ih _)

theorem State.rained_ite {s a b : State} {p : Prop} [Decidable p] (ha : s.Rained a) (hb : s.Rained b) : s.Rained (if p then a else b) := by
  split
  · exact ha
  · exact hb

theorem State.rained_rainflow (torque : FV) : s.Rained (s.rainflow torque) := by
  have hclose (res : List Nat) (span m : FV) : s.Rained ((s.setLedger { s.ledger with residue := res }).rainClose span m 64) :=
    (s.rained_setLedger s.ledger.rf s.ledger.dmg res).trans (State.rained_rainClose _ _ _ _)
  unfold State.rainflow
  dsimp only
  refine State.rained_ite s.rained_refl (State.rained_ite (State.rained_ite (s.rained_setLedger _ _ _) s.rained_refl) ?_)
  exact State.rained_ite (hclose _ _ _) (State.rained_ite (hclose _ _ _) s.rained_refl)

/-! ### What a tick accumulates (R398, R399) -/

/-- The latched torque sample, where its source is one that the ledger knows. -/
def Ledger.sample (l : Ledger) : Option (Int × Nat) := if decide (22 ≤ l.tsrc) && decide (l.tsrc ≤ 93) then l.src else none

/-- A tick without a good sample is faulted. -/
def Ledger.faulted (l : Ledger) : Bool :=
  match l.sample with
  | some x => x.2 &&& 0xC6 != 0
  | none => true

def Ledger.torque (l : Ledger) : Nat :=
  match l.sample with
  | some x => if l.faulted then 0 else toF64 ((FV.ofInt (x.1 - toSigned 32 (leAt l.profile 4 4))).mul (l.fp 8))
  | none => 0

/-- The power of tick `t`. -/
def Ledger.power (l : Ledger) (t : Nat) : Nat := dmul (dmul dTwoPi (l.speed t)) l.torque

/-- The energy that tick `t` adds to a total of its sign. -/
def Ledger.addEnergy (l : Ledger) (t : Nat) (b : Bool) (x : Nat) : Nat :=
  if b then dadd x (dmul (if (f64 (l.power t)).lt (f64 0) then l.power t - 2 ^ 63 else l.power t) dMilli) else x

def Ledger.gains (l : Ledger) (t : Nat) : Bool := (f64 0).lt (f64 (l.power t))
def Ledger.loses (l : Ledger) (t : Nat) : Bool := (f64 (l.power t)).lt (f64 0)

/-- The load class of tick `t`. -/
def Ledger.loadClass (l : Ledger) (t : Nat) : Nat :=
  if (f64 (l.speed t)).lt (l.fp 24) then 0
  else if (l.fp 16) == f32 0 then 1
  else 1 + (clampInt 0 14 (FV.floorDiv ((FV.ofInt 15).mul (if (f64 l.torque).lt (f64 0) then f64 0 else f64 l.torque)) (l.fp 16))).toNat

/-- The ledger after tick `t` under tariff `k`. -/
def Ledger.accumulated (l : Ledger) (t k : Nat) : Ledger :=
  { l with epos := l.addEnergy t (l.gains t) l.epos, eneg := l.addEnergy t (l.loses t) l.eneg,
           tariffs := l.tariffs.mapIdx (fun i (x : TariffSum) => if i = k then
             { x with epos := l.addEnergy t (l.gains t) x.epos, eneg := l.addEnergy t (l.loses t) x.eneg, ms := x.ms + 1 } else x),
           classMs := l.classMs.mapIdx (fun i x => if i = l.loadClass t then x + 1 else x),
           f := toF32 (f64 (l.speed t)), t := toF32 (f64 l.torque), lastTick := t,
           flags := if l.faulted then l.flags ||| flINFAULT else l.flags }

/-- The sums of a tick, before its level is counted. -/
def State.summedTick (s : State) (t : Nat) : State :=
  (s.setLedger (s.ledger.accumulated t s.ldgTariff)).fset F.LDG_STAT_CLASS (s.ledger.loadClass t)

theorem State.accumulate_eq (t : Nat) : s.accumulate t =
    if s.ledger.faulted then s.summedTick t else (s.summedTick t).rainflow (f64 s.ledger.torque) := by
  rfl

theorem Ledger.loadClass_lt (l : Ledger) (t : Nat) : l.loadClass t < 16 := by
  have hclamp (x : Int) : (clampInt 0 14 x).toNat ≤ 14 := by
    unfold clampInt
    split
    · simp
    · split <;> omega
  unfold Ledger.loadClass
  split
  · decide
  · split
    · decide
    · have := hclamp (FV.floorDiv ((FV.ofInt 15).mul (if (f64 l.torque).lt (f64 0) then f64 0 else f64 l.torque)) (l.fp 16))
      omega

theorem f64_zero : f64 0 = .fin false 0 FFmt.f64.emin := by decide
theorem f64_neg_zero : f64 (2 ^ 63) = .fin true 0 FFmt.f64.emin := by decide
theorem f64_nan : f64 FFmt.f64.nanPat = .nan := by decide

theorem encode_zero (neg : Bool) (e : Int) : FFmt.f64.encode (.fin neg 0 e) = b2n neg * 2 ^ 63 := by
  have hround : FFmt.f64.roundMag 0 e false = 0 := if_pos rfl
  have htop : 0 < FFmt.f64.top := by decide
  have hwidth : FFmt.f64.eb + FFmt.f64.mb = 63 := rfl
  simp only [FFmt.encode, hround, if_pos htop, FFmt.sign, hwidth, Nat.add_zero]

theorem FV.lt_zeros (a b : Bool) (e q : Int) : FV.lt (.fin a 0 e) (.fin b 0 q) = false := by
  cases a <;> cases b <;> simp [FV.lt, FV.at]

/-- A product with zero is above and below nothing. -/
theorem dmul_zero_no_sign (x : Nat) : (f64 0).lt (f64 (dmul x 0)) = false ∧ (f64 (dmul x 0)).lt (f64 0) = false := by
  have hmul : (f64 x).mul (f64 0) = .nan ∨ ∃ neg e, (f64 x).mul (f64 0) = .fin neg 0 e := by
    rw [f64_zero]
    cases f64 x with
    | nan => exact .inl rfl
    | inf neg => exact .inl rfl
    | fin neg m e => exact .inr ⟨_, _, rfl⟩
  rw [dmul, toF64]
  rcases hmul with h | ⟨neg, e, h⟩
  · rw [h, FFmt.encode, f64_nan, f64_zero]
    exact ⟨rfl, rfl⟩
  · rw [h, encode_zero]
    cases neg
    · rw [b2n, f64_zero]
      exact ⟨FV.lt_zeros _ _ _ _, FV.lt_zeros _ _ _ _⟩
    · have hone : b2n true * 2 ^ 63 = 2 ^ 63 := Nat.one_mul _
      rw [hone, f64_neg_zero, f64_zero]
      exact ⟨FV.lt_zeros _ _ _ _, FV.lt_zeros _ _ _ _⟩

/-- A faulted tick gains and loses nothing. -/
theorem Ledger.faulted_adds_nothing {l : Ledger} (h : l.faulted = true) (t : Nat) : l.gains t = false ∧ l.loses t = false := by
  have htorque : l.torque = 0 := by
    unfold Ledger.torque
    split
    · exact if_pos h
    · rfl
  have hpower : l.power t = dmul (dmul dTwoPi (l.speed t)) 0 := by rw [Ledger.power, htorque]
  rw [Ledger.gains, Ledger.loses, hpower]
  exact dmul_zero_no_sign _

theorem ms_accumulated (l : List TariffSum) (k : Nat) (f g : Nat → Nat) :
    (l.mapIdx (fun i (x : TariffSum) => if i = k then { x with epos := f x.epos, eneg := g x.eneg, ms := x.ms + 1 } else x)).map (·.ms) =
      l.mapIdx (fun i x => if i = k then x.ms + 1 else x.ms) := by
  refine List.ext_getElem (by simp) fun i h1 h2 => ?_
  simp only [List.getElem_map, List.getElem_mapIdx]
  split <;> rfl

/-- What the accumulation of tick `tick` leaves. -/
structure State.Accumulated (s t : State) (tick : Nat) : Prop where
  only : s.only t [.regs, .ledger, .free]
  last : t.ledger.lastTick = tick
  marks : t.ledger.steps = s.ledger.steps
  interval : t.ledger.tb = s.ledger.tb ∧ t.ledger.opened = s.ledger.opened
  ms : t.ledger.tariffs.map (·.ms) = s.ledger.tariffs.mapIdx (fun i x => if i = s.ldgTariff then x.ms + 1 else x.ms)
  classMs : t.ledger.classMs = s.ledger.classMs.mapIdx (fun i x => if i = t.fget F.LDG_STAT_CLASS then x + 1 else x)
  faulted : s.ledger.faulted = true → t.ledger.epos = s.ledger.epos ∧ t.ledger.eneg = s.ledger.eneg ∧ t.ledger.rf = s.ledger.rf ∧
    t.ledger.dmg = s.ledger.dmg ∧ t.ledger.residue = s.ledger.residue

theorem State.accumulated_summedTick (tick : Nat) : s.Accumulated (s.summedTick tick) tick where
  only := by simp [State.summedTick]
  last := rfl
  marks := rfl
  interval := ⟨rfl, rfl⟩
  ms := ms_accumulated _ _ _ _
  classMs := by
    have hcls : (s.summedTick tick).fget F.LDG_STAT_CLASS = s.ledger.loadClass tick := by
      rw [State.summedTick, State.fget_fset_self _ _ _ _ _ (by decide) (by decide)]
      exact Nat.mod_eq_of_lt (s.ledger.loadClass_lt tick)
    rw [hcls]
    rfl
  faulted h := by
    obtain ⟨hgain, hlose⟩ := Ledger.faulted_adds_nothing h tick
    refine ⟨?_, ?_, rfl, rfl, rfl⟩
    · change s.ledger.addEnergy tick (s.ledger.gains tick) s.ledger.epos = _
      rw [hgain]
      rfl
    · change s.ledger.addEnergy tick (s.ledger.loses tick) s.ledger.eneg = _
      rw [hlose]
      rfl

theorem State.accumulated_accumulate (tick : Nat) : s.Accumulated (s.accumulate tick) tick := by
  have hsum := s.accumulated_summedTick tick
  rw [s.accumulate_eq]
  split
  · exact hsum
  · next hgood =>
    obtain ⟨honly, rf, dmg, res, hl⟩ := (s.summedTick tick).rained_rainflow (f64 s.ledger.torque)
    have hcls : ((s.summedTick tick).rainflow (f64 s.ledger.torque)).fget F.LDG_STAT_CLASS = (s.summedTick tick).fget F.LDG_STAT_CLASS :=
      State.fget_of_rd (State.rd_of_only honly (by simp) _)
    refine ⟨State.only_trans hsum.only (State.only_mono honly (by simp)), ?_, ?_, ?_, ?_, ?_, fun h => absurd h hgood⟩
    · rw [hl]
      exact hsum.last
    · rw [hl]
      exact hsum.marks
    · rw [hl]
      exact hsum.interval
    · rw [hl]
      exact hsum.ms
    · rw [hcls, hl]
      exact hsum.classMs

/-! ### A tick (R398 to R404) -/

/-- The interval that is due closes. -/
def State.dueClosed (s : State) (tick : Nat) (ofs : Int) (valid : Bool) : State :=
  if decide (s.ledger.tb ≤ tick) then s.closeInterval tick ofs valid 0 else s

/-- What the tick had to process is processed. -/
def State.marksTaken (s : State) : State := s.setLedger { s.ledger with ovrSet := false, steps := [] }

theorem execLedgerTick_of_due (hon : s.ledgerOn = true) (hlt : s.ledger.lastTick < s.tickNow) : ∃ ofs valid new source bound,
    exec .ledgerTick s = .next ((((((s.accumulate s.tickNow).ledger.steps.foldl (fun s' x => s'.timeCorr s.tickNow x)
      ((((s.accumulate s.tickNow).dueClosed s.tickNow ofs valid).changeTariff s.tickNow new source ofs bound).marksTaken)).machineEvents
        s.tickNow).heldEvents s.tickNow).snapIfDue s.tickNow)) := by
  have hrun : ¬((!s.ledgerOn) = true ∨ s.tickNow ≤ s.ledger.lastTick) := by simp [hon, hlt]
  exact ⟨_, _, _, _, _, congrArg Host.Outcome.next (if_neg hrun)⟩

theorem State.summed_dueClosed (tick : Nat) (ofs : Int) (valid : Bool) : s.Summed (s.dueClosed tick ofs valid) ∧
    (s.dueClosed tick ofs valid).ledger.opened = if s.ledger.tb ≤ tick then tick else s.ledger.opened := by
  unfold State.dueClosed
  by_cases h : s.ledger.tb ≤ tick
  · rw [decide_eq_true h, if_pos rfl, if_pos h]
    exact s.closeInterval_closes tick ofs valid 0
  · rw [decide_eq_false h, if_neg Bool.false_ne_true, if_neg h]
    exact ⟨s.sameInterval_refl.toSummed, rfl⟩

end Sys2Proof.Machine
end

section
/-! PROOF. The usage ledger's ticks, records, snapshots and commands (spec/14, R398 to R416). -/

namespace Sys2Proof.Machine

variable (s : State)

/-! ### What a record shows -/

theorem LedgerRec.Holds.shows {r : LedgerRec} {kind tariff cls : Nat} {body : List Byte} (h : LedgerRec.Holds r kind tariff cls body)
    (hk : kind < 256) (ht : tariff < 256) (hc : cls < 256) : leAt r.bytes 0 1 = kind ∧ leAt r.bytes 22 1 = tariff ∧ leAt r.bytes 23 1 = cls ∧
      (r.bytes.drop 24).take 24 = padTo 24 body ∧ leAt r.bytes 24 1 = leAt (padTo 24 body) 0 1 := by
  obtain ⟨fl, mid, mac, hmid, hbytes⟩ := h
  have hpad : (padTo 24 body).length = 24 := by simp [padTo]; omega
  have hbyte {v : Nat} (hv : v < 256) (l : List Byte) : leNat ((BitVec.ofNat 8 v :: l).take 1) = v := by
    simp [leNat, Nat.mod_eq_of_lt hv]
  have hsplit : r.bytes = (BitVec.ofNat 8 kind :: fl :: mid) ++ (BitVec.ofNat 8 tariff :: BitVec.ofNat 8 cls :: (padTo 24 body ++ mac)) := by
    simp [hbytes]
  have hdrop : r.bytes.drop 22 = BitVec.ofNat 8 tariff :: BitVec.ofNat 8 cls :: (padTo 24 body ++ mac) := by
    rw [hsplit]
    exact List.drop_left' (by simp [hmid])
  have hdrop23 : r.bytes.drop 23 = BitVec.ofNat 8 cls :: (padTo 24 body ++ mac) := by
    have := congrArg (List.drop 1) hdrop
    rwa [List.drop_drop] at this
  have hdrop24 : r.bytes.drop 24 = padTo 24 body ++ mac := by
    have := congrArg (List.drop 2) hdrop
    rwa [List.drop_drop] at this
  refine ⟨?_, ?_, ?_, ?_, ?_⟩
  · rw [leAt, List.drop_zero, hsplit]
    exact hbyte hk _
  · rw [leAt, hdrop]
    exact hbyte ht _
  · rw [leAt, hdrop23]
    exact hbyte hc _
  · rw [hdrop24]
    exact List.take_left' hpad
  · rw [leAt, leAt, hdrop24, List.drop_zero, List.take_append_of_le_length (by omega)]

/-! ### The ledger's held events -/

/-- The registers that stay but for STOPPED and the cards'. -/
structure State.StatQuiet (s t : State) : Prop where
  stat : ∀ f : Fld, f.reg = R.LDG_STAT → f.lo + f.width ≤ 27 ∨ 28 ≤ f.lo → t.fget f = s.fget f
  rd : ∀ a, a ≠ R.LDG_STAT.at → a ∉ cardRegs → t.rd a = s.rd a

theorem State.StatQuiet.trans {s t u : State} (h : s.StatQuiet t) (h' : t.StatQuiet u) : s.StatQuiet u :=
  ⟨fun f hf hd => (h'.stat f hf hd).trans (h.stat f hf hd), fun a ha hc => (h'.rd a ha hc).trans (h.rd a ha hc)⟩

/-- A waiting event is written: the ledger's note `l` of it clears. -/
theorem State.wrote_event (l : Ledger) (tick kind : Nat) : ∃ k j m n r,
    ((s.setLedger l).ledgerEvent tick kind 0).ledger = { l with slot := k, jobs := j, mac := m, nextSeq := n, recs := l.recs ++ [r] } ∧
    leAt r.bytes 0 1 = 0x56 ∧ leAt r.bytes 24 1 = kind % 256 ∧ s.StatQuiet ((s.setLedger l).ledgerEvent tick kind 0) := by
  have hw := (s.setLedger l).wrote_ledgerWrite 0x56 tick 0 (s.setLedger l).ldgTariff ((s.setLedger l).fget F.LDG_STAT_CLASS)
    (leBytes 4 kind ++ leBytes 4 (s.setLedger l).ledger.f ++ leBytes 4 (s.setLedger l).ledger.t ++ leBytes 4 0 ++ (s.setLedger l).ofsBytes)
  obtain ⟨k, j, m, n, r, hr, hl⟩ := hw.ledger
  have htariff : (s.setLedger l).ldgTariff < 256 := Nat.lt_trans (getField_lt ..) (by decide : 2 ^ F.LDG_STAT_TARIFF.width < 256)
  have hcls : (s.setLedger l).fget F.LDG_STAT_CLASS < 256 := Nat.lt_trans (getField_lt ..) (by decide : 2 ^ F.LDG_STAT_CLASS.width < 256)
  obtain ⟨hkind, -, -, -, hbody⟩ := hr.shows (by decide) htariff hcls
  refine ⟨k, j, m, n, r, hl, hkind, hbody.trans ?_, hw.stat, hw.rd⟩
  simp [padTo, leAt, leBytes, leNat]

theorem State.keyEvent_ledger (tick : Nat) : (∃ k j m n recs, (s.keyEvent tick).ledger =
    { s.ledger with slot := k, jobs := j, mac := m, nextSeq := n, recs := recs, keySet := false }) ∧ s.StatQuiet (s.keyEvent tick) := by
  cases h : s.ledger.keySet
  · have heq : s.keyEvent tick = s := if_neg (by simp [h])
    rw [heq]
    exact ⟨⟨s.ledger.slot, s.ledger.jobs, s.ledger.mac, s.ledger.nextSeq, s.ledger.recs, by rw [← h]⟩, fun _ _ _ => rfl, fun _ _ _ => rfl⟩
  · have heq : s.keyEvent tick = (s.setLedger { s.ledger with keySet := false }).ledgerEvent tick 6 0 := if_pos h
    obtain ⟨k, j, m, n, r, hl, -, -, hquiet⟩ := s.wrote_event { s.ledger with keySet := false } tick 6
    rw [heq]
    exact ⟨⟨k, j, m, n, _, hl⟩, hquiet⟩

theorem State.clearEvent_ledger (tick : Nat) : (∃ k j m n recs, (s.clearEvent tick).ledger =
    { s.ledger with slot := k, jobs := j, mac := m, nextSeq := n, recs := recs, clearMd := false } ∧ (s.ledger.clearMd = true →
      ∃ e, recs.getLast? = some e ∧ leAt e.bytes 0 1 = 0x56 ∧ leAt e.bytes 24 1 = 5)) ∧ s.StatQuiet (s.clearEvent tick) := by
  cases h : s.ledger.clearMd
  · have heq : s.clearEvent tick = s := if_neg (by simp [h])
    rw [heq]
    exact ⟨⟨s.ledger.slot, s.ledger.jobs, s.ledger.mac, s.ledger.nextSeq, s.ledger.recs, by rw [← h], nofun⟩, fun _ _ _ => rfl, fun _ _ _ => rfl⟩
  · have heq : s.clearEvent tick = (s.setLedger { s.ledger with clearMd := false }).ledgerEvent tick 5 0 := if_pos h
    obtain ⟨k, j, m, n, r, hl, hkind, hevent, hquiet⟩ := s.wrote_event { s.ledger with clearMd := false } tick 5
    rw [heq]
    exact ⟨⟨k, j, m, n, _, hl, fun _ => ⟨r, by simp, hkind, hevent⟩⟩, hquiet⟩

/-- The held events of a running ledger are written. -/
theorem State.heldEvents_ledger (hon : s.ledgerOn = true) (tick : Nat) : (∃ k j m n recs, (s.heldEvents tick).ledger =
    { s.ledger with slot := k, jobs := j, mac := m, nextSeq := n, recs := recs, keySet := false, clearMd := false } ∧ (s.ledger.clearMd = true →
      ∃ e, recs.getLast? = some e ∧ leAt e.bytes 0 1 = 0x56 ∧ leAt e.bytes 24 1 = 5)) ∧ s.StatQuiet (s.heldEvents tick) := by
  have heq : s.heldEvents tick = (s.keyEvent tick).clearEvent tick := by rw [s.heldEvents_eq, hon]; rfl
  obtain ⟨⟨k, j, m, n, recs, hl⟩, hquiet⟩ := s.keyEvent_ledger tick
  obtain ⟨⟨k', j', m', n', recs', hl', hevent⟩, hquiet'⟩ := (s.keyEvent tick).clearEvent_ledger tick
  rw [heq]
  rw [hl] at hl' hevent
  exact ⟨⟨k', j', m', n', recs', hl', hevent⟩, hquiet.trans hquiet'⟩

theorem State.heldEvents_of_off (hoff : s.ledgerOn = false) (tick : Nat) : s.heldEvents tick = s := by
  rw [s.heldEvents_eq, hoff]
  rfl

theorem State.heldEvents_only (tick : Nat) : s.only (s.heldEvents tick) ledgerParts := (s.sameInterval_heldEvents tick).only

/-! ### Commands of the ledger's registers -/

/-- Maximum demand clears, its event is written or waits. -/
structure State.MdCleared (s t : State) : Prop where
  tariffs : t.ledger.tariffs = s.ledger.tariffs.map (fun x => { x with maxDem := 0 })
  waits : s.ledgerOn = false → t.ledger.clearMd = true ∧ t.ledger.recs = s.ledger.recs
  written : s.ledgerOn = true → t.ledger.clearMd = false ∧ ∃ e, t.ledger.recs.getLast? = some e ∧ leAt e.bytes 0 1 = 0x56 ∧ leAt e.bytes 24 1 = 5
  only : s.only t ledgerParts

/-- Maximum demand is cleared, its event not yet written. -/
def State.mdZeroed (s : State) : State :=
  s.setLedger { s.ledger with tariffs := s.ledger.tariffs.map (fun (x : TariffSum) => { x with maxDem := 0 }), clearMd := true }

theorem State.clearMaxDemand_eq : s.clearMaxDemand = s.mdZeroed.heldEvents s.tickNow := rfl

theorem State.mdCleared_clearMaxDemand : s.MdCleared s.clearMaxDemand := by
  rw [s.clearMaxDemand_eq]
  have honly := State.only_trans (s := s) (t := s.mdZeroed) (by simp [State.mdZeroed]) (s.mdZeroed.heldEvents_only s.tickNow)
  cases hon : s.ledgerOn
  · have hoff : s.mdZeroed.ledgerOn = false := hon
    rw [s.mdZeroed.heldEvents_of_off hoff] at honly ⊢
    exact ⟨rfl, fun _ => ⟨rfl, rfl⟩, fun h => absurd (hon.symm.trans h) Bool.false_ne_true, honly⟩
  · have hon' : s.mdZeroed.ledgerOn = true := hon
    obtain ⟨⟨k, j, m, n, recs, hl, hevent⟩, -⟩ := s.mdZeroed.heldEvents_ledger hon' s.tickNow
    refine ⟨by rw [hl]; rfl, fun h => absurd (h.symm.trans hon) Bool.false_ne_true, fun _ => ⟨by rw [hl], ?_⟩, honly⟩
    rw [hl]
    exact hevent rfl

theorem State.MdCleared.of_start {s u t : State} (h : u.MdCleared t) (honly : s.only u ledgerParts)
    (htariffs : u.ledger.tariffs = s.ledger.tariffs) (hrecs : u.ledger.recs = s.ledger.recs) (hon : u.ledgerOn = s.ledgerOn) : s.MdCleared t :=
  ⟨h.tariffs.trans (by rw [htariffs]), fun ho => hrecs ▸ h.waits (hon.trans ho), fun ho => h.written (hon.trans ho),
    State.only_trans honly h.only⟩

theorem bit_or_word (v w : Word) (i : Nat) : bit (v ||| w).toNat i = (bit v.toNat i || bit w.toNat i) := by
  simp [bit_eq_testBit, BitVec.toNat_or]

/-- What a write of LDG_CTL does to RINGEN and SNAPNOW. -/
def State.ctlWritten (s : State) (ringen snap : Bool) : State :=
  if snap then (s.setFlag F.LDG_CTL_RINGEN ringen).setLedger { (s.setFlag F.LDG_CTL_RINGEN ringen).ledger with snapNow := true }
  else s.setFlag F.LDG_CTL_RINGEN ringen

theorem State.writeLdgCtl_eq (v : Word) : s.writeLdgCtl v =
    if bit v.toNat 2 then (s.ctlWritten (bit v.toNat 0) (bit v.toNat 1)).clearMaxDemand else s.ctlWritten (bit v.toNat 0) (bit v.toNat 1) := rfl

theorem State.ctlWritten_keeps (ringen snap : Bool) : s.only (s.ctlWritten ringen snap) ledgerParts ∧
    (s.ctlWritten ringen snap).ledger.tariffs = s.ledger.tariffs ∧ (s.ctlWritten ringen snap).ledger.recs = s.ledger.recs ∧
    (s.ctlWritten ringen snap).ledgerOn = s.ledgerOn := by
  cases snap
  · exact ⟨by simp [State.ctlWritten], rfl, rfl, rfl⟩
  · exact ⟨by simp [State.ctlWritten], rfl, rfl, rfl⟩

/-! ### The ledger key (R405) -/

theorem ldgKey_at_inj {i k : Nat} (h : i ≠ k) : R.LDG_KEY.at i ≠ R.LDG_KEY.at k := by
  simp [RegDesc.at, R.LDG_KEY]
  omega

/-- The held key words clear. -/
def State.keyCleared (s : State) : State := (List.range 8).foldl (fun s i => s.rset R.LDG_KEY 0 i) s

theorem State.foldl_key (l : List Nat) : s.only (l.foldl (fun s i => s.rset R.LDG_KEY 0 i) s) [.regs] ∧
    (∀ i, (l.foldl (fun s i => s.rset R.LDG_KEY 0 i) s).rget R.LDG_KEY i = if i ∈ l then 0 else s.rget R.LDG_KEY i) ∧
    ∀ a, (∀ i ∈ l, a ≠ R.LDG_KEY.at i) → (l.foldl (fun s i => s.rset R.LDG_KEY 0 i) s).rd a = s.rd a := by
  induction l generalizing s with
  | nil => exact ⟨s.only_refl _, fun _ => rfl, fun _ _ => rfl⟩
  | cons k l ih =>
    obtain ⟨honly, hkeys, hrest⟩ := ih (s.rset R.LDG_KEY 0 k)
    refine ⟨State.only_trans (by simp) honly, fun i => (hkeys i).trans ?_, fun a ha => (hrest a fun i hi => ha i (by simp [hi])).trans ?_⟩
    · by_cases hik : i = k
      · subst hik
        by_cases hl : i ∈ l <;> simp [hl]
      · have hne : (s.rset R.LDG_KEY 0 k).rget R.LDG_KEY i = s.rget R.LDG_KEY i :=
          congrArg BitVec.toNat (State.rd_rset_ne _ R.LDG_KEY _ _ _ _ (ldgKey_at_inj hik))
        rw [hne]
        simp [hik]
    · exact State.rd_rset_ne _ R.LDG_KEY _ _ _ _ (ha k (by simp))

/-- The key stands in OTP. -/
def State.keyStored (s : State) : State :=
  (s.keyCleared.setLedger { s.keyCleared.ledger with
    key := (List.range 8).flatMap (fun i => leBytes 4 (s.rget R.LDG_KEY i)), keySet := true }).setFlag F.LDG_STAT_KEYSET true

theorem State.programKey_of_unset (h : s.flag F.LDG_STAT_KEYSET = false) : s.programKey = s.keyStored.heldEvents s.keyStored.tickNow := by
  rw [State.programKey, if_neg (by simp [h])]
  rfl

theorem ldgKey_apart : ∀ i : Fin 8, R.LDG_KEY.at i.val ≠ R.LDG_STAT.at ∧ R.LDG_KEY.at i.val ∉ cardRegs := by decide

theorem State.keyStored_only : s.only s.keyStored [.regs, .ledger] :=
  State.only_trans (t := s.keyCleared) (State.only_mono (s.foldl_key (List.range 8)).1 (by simp)) (by simp [State.keyStored])

theorem State.keyStored_ledger : s.keyStored.ledger =
    { s.ledger with key := (List.range 8).flatMap (fun i => leBytes 4 (s.rget R.LDG_KEY i)), keySet := true } := by
  have hl : s.keyCleared.ledger = s.ledger := (s.foldl_key (List.range 8)).1 .ledger (by simp)
  change ({ s.keyCleared.ledger with key := _, keySet := true } : Ledger) = _
  rw [hl]

theorem State.keyStored_key {i : Nat} (h : i < 8) : s.keyStored.rd (R.LDG_KEY.at i) = 0#32 := by
  have hkey : s.keyCleared.rget R.LDG_KEY i = 0 := ((s.foldl_key (List.range 8)).2.1 i).trans (if_pos (List.mem_range.mpr h))
  have hne : R.LDG_KEY.at i ≠ F.LDG_STAT_KEYSET.reg.at := (ldgKey_apart ⟨i, h⟩).1
  have hset (u : State) (l : Ledger) : ((u.setLedger l).setFlag F.LDG_STAT_KEYSET true).rd (R.LDG_KEY.at i) = u.rd (R.LDG_KEY.at i) :=
    State.rd_setFlag_ne _ _ _ _ _ _ hne
  rw [State.keyStored, hset]
  exact BitVec.eq_of_toNat_eq hkey

theorem State.keyStored_keyset : s.keyStored.flag F.LDG_STAT_KEYSET = true := State.flag_setFlag_self _ _ _ _ _ (by decide) (by decide)

theorem State.programKey_programs (h : s.flag F.LDG_STAT_KEYSET = false) :
    s.programKey.ledger.key = (List.range 8).flatMap (fun i => leBytes 4 (s.rget R.LDG_KEY i)) ∧ s.programKey.flag F.LDG_STAT_KEYSET = true ∧
      (∀ i, i < 8 → s.programKey.rget R.LDG_KEY i = 0) ∧ s.programKey.ledger.keySet = !s.ledgerOn ∧ s.only s.programKey ledgerParts := by
  rw [s.programKey_of_unset h]
  have honly := State.only_trans (State.only_mono s.keyStored_only (by simp)) (s.keyStored.heldEvents_only s.keyStored.tickNow)
  have hl := s.keyStored_ledger
  have hon : s.keyStored.ledgerOn = s.ledgerOn := by rw [State.ledgerOn, hl]; rfl
  cases hrun : s.ledgerOn
  · rw [hrun] at hon
    rw [s.keyStored.heldEvents_of_off hon] at honly ⊢
    refine ⟨by rw [hl], s.keyStored_keyset, fun i hi => ?_, ?_, honly⟩
    · rw [State.rget, s.keyStored_key hi]
      rfl
    · rw [hl, Bool.not_false]
  · rw [hrun] at hon
    obtain ⟨⟨k, j, m, n, recs, hheld, -⟩, hquiet⟩ := s.keyStored.heldEvents_ledger hon s.keyStored.tickNow
    refine ⟨by rw [hheld, hl], ?_, fun i hi => ?_, by rw [hheld, Bool.not_true], honly⟩
    · rw [State.flag, hquiet.stat F.LDG_STAT_KEYSET rfl (by decide)]
      exact s.keyStored_keyset
    · obtain ⟨hstat, hcard⟩ := ldgKey_apart ⟨i, hi⟩
      rw [State.rget, hquiet.rd _ hstat hcard, s.keyStored_key hi]
      rfl

/-! ### Snapshots (R408) -/

/-- A snapshot's records join those that wait, in order. -/
theorem State.foldl_snap (tick : Nat) (b : List Byte) (l : List Nat) :
    ∃ rs, List.Forall₂ (fun i r => LedgerRec.Holds r 0x57 i 61 ((b.drop (24 * i)).take 24)) l rs ∧
      (l.foldl (fun s i => s.ledgerWrite 0x57 tick 0 i 61 ((b.drop (24 * i)).take 24)) s).ledger.recs = s.ledger.recs ++ rs := by
  induction l generalizing s with
  | nil => exact ⟨[], .nil, by simp⟩
  | cons i l ih =>
    obtain ⟨k, j, m, n, r, hr, hl⟩ := (s.wrote_ledgerWrite 0x57 tick 0 i 61 ((b.drop (24 * i)).take 24)).ledger
    obtain ⟨rs, hrs, hrecs⟩ := ih (s.ledgerWrite 0x57 tick 0 i 61 ((b.drop (24 * i)).take 24))
    refine ⟨r :: rs, .cons hr hrs, ?_⟩
    rw [List.foldl_cons, hrecs, hl]
    simp

theorem Ledger.snapNs_pos (l : Ledger) : 0 < l.snapNs := by
  unfold Ledger.snapNs
  split <;> omega

theorem State.snapIfDue_due {tick : Nat} (h : s.ledger.snapNow = true ∨ s.ledger.snapDue ≤ tick) : s.snapIfDue tick =
    (s.writeSnapshot tick).setLedger { (s.writeSnapshot tick).ledger with
      snapNow := false, snapDue := if s.ledger.snapDue ≤ tick then tick + s.ledger.snapNs else s.ledger.snapDue } := if_pos h

theorem State.snapshot_written {tick : Nat} (h : s.ledger.snapNow = true ∨ s.ledger.snapDue ≤ tick) : ∃ l : List LedgerRec,
    (s.snapIfDue tick).ledger.snapNow = false ∧ tick < (s.snapIfDue tick).ledger.snapDue ∧ l.length = 61 ∧
      (s.snapIfDue tick).ledger.recs = s.ledger.recs ++ l ∧
      (∀ i r, l[i]? = some r → leAt r.bytes 0 1 = 0x57 ∧ leAt r.bytes 22 1 = i ∧ leAt r.bytes 23 1 = 61 ∧
        (r.bytes.drop 24).take 24 = padTo 24 ((s.ledger.snapshot.drop (24 * i)).take 24)) ∧
      s.only (s.snapIfDue tick) ledgerParts := by
  obtain ⟨rs, hrs, hrecs⟩ := s.foldl_snap tick s.ledger.snapshot (List.range 61)
  have honly := (s.sameInterval_snapIfDue tick).only
  have hlen : rs.length = 61 := hrs.length_eq.symm
  rw [s.snapIfDue_due h] at honly ⊢
  refine ⟨rs, rfl, ?_, hlen, hrecs, fun i r hi => ?_, honly⟩
  · change tick < if s.ledger.snapDue ≤ tick then tick + s.ledger.snapNs else s.ledger.snapDue
    have := s.ledger.snapNs_pos
    split <;> omega
  · obtain ⟨hlt, hget⟩ := List.getElem?_eq_some_iff.mp hi
    have hr := hrs.get (i := i) (by rw [List.length_range]; omega) hlt
    simp only [List.get_eq_getElem, List.getElem_range] at hr
    rw [hget] at hr
    obtain ⟨hkind, hindex, hcount, hbody, -⟩ := hr.shows (by decide) (by omega) (by decide)
    exact ⟨hkind, hindex, hcount, hbody⟩

/-! ### The ledger port and the event log (R406, R410, R416) -/

theorem State.syncOldest_regsOnly : s.regsOnly s.syncOldest [R.LDG_OLDEST.at] := by
  intro a ha
  unfold State.syncOldest
  split
  · rfl
  · exact State.rd_rset_ne _ R.LDG_OLDEST _ _ _ _ fun h => ha (by simp [h])

theorem State.syncOldest_only : s.only s.syncOldest [.regs] := by
  unfold State.syncOldest
  split
  · exact s.only_refl _
  · simp

theorem State.syncWorn_only : s.only s.syncWorn [.regs, .chn, .events] := by
  unfold State.syncWorn
  split
  · exact State.only_trans (t := s.setFlag F.LDG_STAT_WORN true) (by simp) (State.only_mono (State.card_only _ _) (by simp))
  · exact s.only_refl _

/-- A committed record goes to the ledger's result ring, where that is on. -/
def State.ringLedger (s : State) (b : List Byte) : State :=
  if s.flag F.LDG_CTL_RINGEN then
    match s.tryCommit 1 b with
    | (.full, s) => s.count R.LDG_RINGDROP
    | (_, s) => s
  else s

theorem State.ringLedger_keeps (b : List Byte) : s.only (s.ringLedger b) [.regs, .mem, .rings] ∧
    (s.ringLedger b).rget R.LDG_LSEQ = s.rget R.LDG_LSEQ := by
  have hcommit := s.tryCommit_only 1 b
  have hseq : (s.tryCommit 1 b).2.rd R.LDG_LSEQ.at = s.rd R.LDG_LSEQ.at := s.tryCommit_regsOnly 1 b _ (by decide)
  unfold State.ringLedger
  split
  · split
    · next u hu =>
      rw [hu] at hcommit hseq
      refine ⟨State.only_trans hcommit (by simp), congrArg BitVec.toNat ?_⟩
      exact (State.rd_rset_ne _ R.LDG_RINGDROP _ _ _ _ (by decide)).trans hseq
    · next u _ hu =>
      rw [hu] at hcommit hseq
      exact ⟨hcommit, congrArg BitVec.toNat hseq⟩
  · exact ⟨s.only_refl _, rfl⟩

/-- The oldest record is committed to storage. -/
def State.recCommitted (s : State) (r : LedgerRec) (rest : List LedgerRec) : State :=
  ((s.setLedger { s.ledger with recs := rest }).rset R.LDG_LSEQ (leAt r.bytes 16 4)).syncOldest

theorem State.commitLedger_of_done {r : LedgerRec} {rest : List LedgerRec} {k : Nat} (hrecs : s.ledger.recs = r :: rest)
    (hslot : r.slot = some k) (hwords : 8 ≤ r.words) : s.commitLedger = (s.recCommitted r rest).ringLedger r.bytes := by
  have hdone : ¬((some k).isSome = true ∧ r.words < 8) := by omega
  unfold State.commitLedger
  rw [hrecs]
  dsimp only
  rw [hslot, if_neg hdone]
  rfl

theorem leNat_lt (l : List Byte) : leNat l < 256 ^ l.length := by
  induction l with
  | nil => decide
  | cons b l ih =>
    have := b.isLt
    rw [leNat, List.length_cons, Nat.pow_succ]
    omega

theorem leAt_lt (l : List Byte) (o n : Nat) : leAt l o n < 256 ^ n :=
  Nat.lt_of_lt_of_le (leNat_lt _) (Nat.pow_le_pow_right (by decide) (by simp))

theorem State.recCommitted_shows (r : LedgerRec) (rest : List LedgerRec) :
    (s.recCommitted r rest).rget R.LDG_LSEQ = leAt r.bytes 16 4 ∧ (s.recCommitted r rest).ledger = { s.ledger with recs := rest } ∧
      s.only (s.recCommitted r rest) [.regs, .ledger] ∧
      (s.recCommitted r rest).flag F.LDG_CTL_RINGEN = s.flag F.LDG_CTL_RINGEN := by
  let u := (s.setLedger { s.ledger with recs := rest }).rset R.LDG_LSEQ (leAt r.bytes 16 4)
  have honly : s.only u [.regs, .ledger] := by simp [u]
  refine ⟨?_, u.syncOldest_only .ledger (by simp), State.only_trans honly (State.only_mono u.syncOldest_only (by simp)), ?_⟩
  · have hrd : (s.recCommitted r rest).rd R.LDG_LSEQ.at = u.rd R.LDG_LSEQ.at := u.syncOldest_regsOnly _ (by decide)
    rw [State.rget, hrd]
    exact (State.rget_rset_self (s.setLedger { s.ledger with recs := rest }) R.LDG_LSEQ _ 0 0).trans (Nat.mod_eq_of_lt (leAt_lt r.bytes 16 4))
  · have hrd : (s.recCommitted r rest).rd R.LDG_CTL.at = u.rd R.LDG_CTL.at := u.syncOldest_regsOnly _ (by decide)
    exact (State.flag_of_rd (f := F.LDG_CTL_RINGEN) hrd).trans
      (State.flag_of_rd (State.rd_rset_ne (s.setLedger { s.ledger with recs := rest }) R.LDG_LSEQ _ _ _ _ (by decide)))

/-- The next word of record `r` is programmed. -/
def State.wordProgrammed (s : State) (r : LedgerRec) (o : Nat) (b : List Byte) : State :=
  let u := (s.setSto (s.sto.progWord (o / 8) b)).syncWorn
  u.setLedger { u.ledger with
    recs := u.ledger.recs.map (fun (q : LedgerRec) => if q.slot = r.slot then { q with words := q.words + 1 } else q) }

theorem State.wordProgrammed_shows (r : LedgerRec) (o : Nat) (b : List Byte) : (s.wordProgrammed r o b).sto = s.sto.progWord (o / 8) b ∧
    (s.wordProgrammed r o b).ledger = { s.ledger with
      recs := s.ledger.recs.map (fun q => if q.slot = r.slot then { q with words := q.words + 1 } else q) } ∧
    s.only (s.wordProgrammed r o b) [.regs, .sto, .chn, .ledger, .events] := by
  let u := s.setSto (s.sto.progWord (o / 8) b)
  have hworn := u.syncWorn_only
  have hl : u.syncWorn.ledger = s.ledger := hworn .ledger (by simp)
  refine ⟨hworn .sto (by simp), ?_, ?_⟩
  · change ({ u.syncWorn.ledger with recs := u.syncWorn.ledger.recs.map _ } : Ledger) = _
    rw [hl]
  · exact State.only_trans (t := u.syncWorn) (State.only_trans (t := u) (by simp [u]) (State.only_mono hworn (by simp)))
      (by simp [State.wordProgrammed, u])

/-- The next word of a record: words 1 to 7, then word 0. -/
def LedgerRec.nextWord (r : LedgerRec) : Nat := if r.words < 7 then r.words + 1 else 0

theorem LedgerRec.nextWord_le (r : LedgerRec) : r.nextWord ≤ 7 := by
  unfold LedgerRec.nextWord
  split <;> omega

/-- The storage offset of a record's next word in slot `k`. -/
def LedgerRec.nextOfs (r : LedgerRec) (k : Nat) : Nat := 0xD0000000 + 64 * k + 8 * r.nextWord

theorem LedgerRec.secOf_nextOfs (r : LedgerRec) (k : Nat) : secOf (r.nextOfs k) = 0x1A * 32768 + k / 64 := by
  have := r.nextWord_le
  rw [secOf, LedgerRec.nextOfs]
  omega

theorem State.portWord_of_usable {o : Nat} (h : ¬((s.sto.sector (secOf o)).state = 2 ∨ (s.sto.sector (secOf o)).state = 3)) (b : List Byte) :
    s.portWord o b true = (true, s.setSto (s.sto.progWord (o / 8) b)) := by
  unfold State.portWord
  dsimp only
  rw [if_neg h, if_pos rfl]

theorem State.portRecord_of_some {r : LedgerRec} {k : Nat} (hfind : s.ledger.recs.find? (fun r => r.slot.isSome && r.words < 8) = some r)
    (hslot : r.slot = some k) (hblank : s.sto.blank (r.nextOfs k / 8) = true) {u : State}
    (hword : s.portWord (r.nextOfs k) ((r.bytes.drop (8 * r.nextWord)).take 8) true = (true, u)) :
    s.portRecord true = u.syncWorn.setLedger { u.syncWorn.ledger with
      recs := u.syncWorn.ledger.recs.map (fun (q : LedgerRec) => if q.slot = r.slot then { q with words := q.words + 1 } else q) } := by
  have hgo : ¬(s.sectorUsable (k / 64) = true ∧ (!s.sto.blank (r.nextOfs k / 8)) = true) := by simp [hblank]
  have hstep : s.portRecord true = if s.sectorUsable (k / 64) ∧ !s.sto.blank (r.nextOfs k / 8) then s
      else
        let x := s.portWord (r.nextOfs k) ((r.bytes.drop (8 * r.nextWord)).take 8) true
        let s := x.2.syncWorn
        let l := s.ledger
        if x.1 then
          s.setLedger { l with recs := l.recs.map (fun (q : LedgerRec) => if q.slot = r.slot then { q with words := q.words + 1 } else q) }
        else
          let done := l.recs.filter (fun (q : LedgerRec) => q.slot.isNone || q.words == 8)
          let rest := l.recs.filter (fun (q : LedgerRec) => !(q.slot.isNone || q.words == 8))
          let s := (s.ldgCard 2 (0xD0000000 + 4096 * (k / 64))).enterSector (k / 64 + 1)
          let s := s.replaceRecs rest
          s.setLedger { s.ledger with recs := done ++ s.ledger.recs } := by
    unfold State.portRecord
    rw [hfind]
    dsimp only
    rw [hslot]
    rfl
  rw [hstep, if_neg hgo, hword]
  rfl

theorem State.portRecord_programs {r : LedgerRec} {k : Nat} (hfind : s.ledger.recs.find? (fun r => r.slot.isSome && r.words < 8) = some r)
    (hslot : r.slot = some k) (husable : s.sectorUsable (k / 64) = true) (hblank : s.sto.blank (r.nextOfs k / 8) = true) :
    s.portRecord true = s.wordProgrammed r (r.nextOfs k) ((r.bytes.drop (8 * r.nextWord)).take 8) := by
  have hstate : ¬((s.sto.sector (secOf (r.nextOfs k))).state = 2 ∨ (s.sto.sector (secOf (r.nextOfs k))).state = 3) := by
    rw [r.secOf_nextOfs]
    simpa [State.sectorUsable] using husable
  exact s.portRecord_of_some hfind hslot hblank (s.portWord_of_usable hstate _)

/-- A sector ahead is erased and counted. -/
theorem State.portErase_of_fresh {o : Nat} (h2 : (s.sto.sector (secOf o)).state ≠ 2) (h3 : (s.sto.sector (secOf o)).state ≠ 3)
    (hwear : (s.sto.sector (secOf o)).count < s.wearLimit) : (s.portErase o true).sto =
      (s.sto.eraseSector (secOf o)).setSector (secOf o) { s.sto.sector (secOf o) with count := (s.sto.sector (secOf o)).count + 1 } ∧
    s.only (s.portErase o true) [.regs, .sto, .chn, .events] := by
  unfold State.portErase
  dsimp only
  rw [if_neg (by simp [h2, h3]), if_pos ⟨rfl, hwear⟩]
  split
  · exact ⟨State.card_only _ _ .sto (by simp), State.only_trans (t := s.setSto _) (by simp) (State.only_mono (State.card_only _ _) (by simp))⟩
  · exact ⟨rfl, by simp⟩

/-- Card `c` is given to the ledger port. -/
theorem State.logCard_logs (c : Card) : (s.logCard c).events = { s.events with draining := some c } ∧
    (s.logCard c).ledger.evSlot = (s.ledger.evSlot + 1) % 2097152 ∧
    (∃ l, (s.logCard c).ledger.jobs = s.ledger.jobs ++ l ++ [1, 2, 3, 4, 5, 6, 7, 0].map (fun w =>
      (1, 0xD8000000 + 64 * s.ledger.evSlot + 8 * w, leAt c.bytes (8 * w) 8)) ∧ l.length = if s.ledger.evSlot % 64 = 0 then 1 else 0) ∧
    s.only (s.logCard c) [.ledger, .events] := by
  refine ⟨rfl, rfl, ⟨if s.ledger.evSlot % 64 = 0 then [(0, 0xD8000000 + 4096 * ((s.ledger.evSlot / 64 + 1) % 32768), 0)] else [], rfl, ?_⟩, ?_⟩
  · split <;> rfl
  · intro p hp
    cases p
    case ledger => simp at hp
    case events => simp at hp
    all_goals rfl

theorem State.drainCard_drains {c : Card} (hfree : s.events.draining = none) (hopen : s.portOpen false = true)
    (hnext : s.events.next = some c) : ∃ u, s.only u [.regs, .mem, .rings] ∧ s.drainCard = u.logCard c := by
  have hcommit := s.tryCommit_only (s.cardRing c.ctx) c.bytes
  unfold State.drainCard
  rw [hfree, hopen, hnext]
  dsimp only
  rw [if_neg (by simp)]
  split
  · next u hu =>
    rw [hu] at hcommit
    exact ⟨u.count R.LDG_RINGDROP, State.only_trans hcommit (by simp), rfl⟩
  · next u _ hu =>
    rw [hu] at hcommit
    exact ⟨u, hcommit, rfl⟩

/-! ### The statement -/

theorem Ledger.faulted_of_source {l : Ledger} (h : l.tsrc < 22 ∨ 93 < l.tsrc ∨ l.src = none ∨ ∃ x, l.src = some x ∧ x.2 &&& 0xC6 ≠ 0) :
    l.faulted = true := by
  have hnone (hsample : l.sample = none) : l.faulted = true := by rw [Ledger.faulted, hsample]
  have hoff (hrange : l.tsrc < 22 ∨ 93 < l.tsrc) : l.faulted = true := by
    refine hnone (if_neg ?_)
    rcases hrange with h | h
    · simp [Nat.not_le.mpr h]
    · simp [Nat.not_le.mpr h]
  rcases h with h | h | h | ⟨x, h, hx⟩
  · exact hoff (.inl h)
  · exact hoff (.inr h)
  · refine hnone ?_
    rw [Ledger.sample, h, ite_self]
  · by_cases hon : (decide (22 ≤ l.tsrc) && decide (l.tsrc ≤ 93)) = true
    · have hsample : l.sample = some x := (if_pos hon).trans h
      rw [Ledger.faulted, hsample]
      exact bne_iff_ne.mpr hx
    · exact hnone (if_neg hon)

theorem State.ledgerTick_evaluates (hon : s.ledgerOn = true) (hlt : s.ledger.lastTick < s.tickNow) :
    ∃ t, exec .ledgerTick s = .next t ∧ t.ledger.lastTick = s.tickNow ∧ t.ledger.steps = [] ∧ t.ledger.ovrSet = false ∧
      t.ledger.tariffs.map (·.ms) = s.ledger.tariffs.mapIdx (fun i x => if i = s.ldgTariff then x.ms + 1 else x.ms) ∧
      t.ledger.classMs = s.ledger.classMs.mapIdx (fun i x => if i = t.fget F.LDG_STAT_CLASS then x + 1 else x) ∧
      (s.ledger.tsrc < 22 ∨ 93 < s.ledger.tsrc ∨ s.ledger.src = none ∨ (∃ x, s.ledger.src = some x ∧ x.2 &&& 0xC6 ≠ 0) →
        t.ledger.epos = s.ledger.epos ∧ t.ledger.eneg = s.ledger.eneg ∧ t.ledger.rf = s.ledger.rf ∧ t.ledger.dmg = s.ledger.dmg ∧
        t.ledger.residue = s.ledger.residue) ∧
      (s.ledger.steps = [] → t.ledger.opened = if s.ledger.tb ≤ s.tickNow then s.tickNow else s.ledger.opened) ∧
      s.only t [.regs, .chn, .ledger, .events, .free] := by
  obtain ⟨ofs, valid, new, source, bound, hexec⟩ := execLedgerTick_of_due s hon hlt
  have hacc := s.accumulated_accumulate s.tickNow
  rw [hexec]
  generalize s.accumulate s.tickNow = a at *
  obtain ⟨hdue, hopened⟩ := a.summed_dueClosed s.tickNow ofs valid
  have htariff := (a.dueClosed s.tickNow ofs valid).sameInterval_changeTariff s.tickNow new source ofs bound
  have hbefore := hdue.trans htariff.toSummed
  have hopenedT := htariff.opened.trans hopened
  generalize (a.dueClosed s.tickNow ofs valid).changeTariff s.tickNow new source ofs bound = b at *
  have hsteps := b.marksTaken.summed_steps s.tickNow a.ledger.steps
  have hnone (hs : s.ledger.steps = []) : a.ledger.steps.foldl (fun s' x => s'.timeCorr s.tickNow x) b.marksTaken = b.marksTaken := by
    rw [hacc.marks, hs]
    rfl
  generalize a.ledger.steps.foldl (fun s' x => s'.timeCorr s.tickNow x) b.marksTaken = c at *
  have hlater := ((c.sameInterval_machineEvents s.tickNow).trans (State.sameInterval_heldEvents _ s.tickNow)).trans
    (State.sameInterval_snapIfDue _ s.tickNow)
  generalize ((c.machineEvents s.tickNow).heldEvents s.tickNow).snapIfDue s.tickNow = t at *
  have hafter := hsteps.trans hlater.toSummed
  obtain ⟨hlast, hms, hclassMs, hepos, heneg, hrf, hdmg, hres, hstepsT, hovr⟩ : _ ∧ _ ∧ _ ∧ _ ∧ _ ∧ _ ∧ _ ∧ _ ∧ _ ∧ _ := by
    simpa only [Ledger.sums, Prod.mk.injEq] using hafter.sums
  obtain ⟨hlastB, hmsB, hclassMsB, heposB, henegB, hrfB, hdmgB, hresB, -⟩ : _ ∧ _ ∧ _ ∧ _ ∧ _ ∧ _ ∧ _ ∧ _ ∧ _ ∧ _ := by
    simpa only [Ledger.sums, Prod.mk.injEq] using hbefore.sums
  have hcls : t.fget F.LDG_STAT_CLASS = a.fget F.LDG_STAT_CLASS := hafter.cls.trans hbefore.cls
  refine ⟨t, rfl, hlast.trans (hlastB.trans hacc.last), hstepsT, hovr, hms.trans (hmsB.trans hacc.ms), ?_, fun hsource => ?_, fun hs => ?_, ?_⟩
  · rw [hcls]
    exact hclassMs.trans (hclassMsB.trans hacc.classMs)
  · obtain ⟨h1, h2, h3, h4, h5⟩ := hacc.faulted (Ledger.faulted_of_source hsource)
    exact ⟨hepos.trans (heposB.trans h1), heneg.trans (henegB.trans h2), hrf.trans (hrfB.trans h3), hdmg.trans (hdmgB.trans h4),
      hres.trans (hresB.trans h5)⟩
  · have hc : c.ledger.opened = b.ledger.opened := by rw [hnone hs]; rfl
    obtain ⟨htb, hop⟩ := hacc.interval
    rw [hlater.opened, hc, hopenedT, htb, hop]
  · refine State.only_trans (State.only_mono hacc.only (by simp)) (State.only_trans (State.only_mono hbefore.only (by simp)) ?_)
    exact State.only_trans (t := b.marksTaken) (by simp [State.marksTaken]) (State.only_mono hafter.only (by simp))

theorem execMaxDemandClear_of_ok {s : State} {r : Req} (hon : s.reqOn r = true) (hen : s.ctxEnabled (s.ctxOf r) = true)
    (hok : s.ctxOf r = 0 ∨ s.agentHolds r 0 = true) (v : Word) : exec (.maxDemandClear r v) s =
      .next (if s.ctxOf r = 0 then s.writeLdgCtl (v ||| 4) else s.clearMaxDemand) := by
  have hpass : (s.ctxOf r == 0 || s.agentHolds r 0) = true := by simpa using hok
  change execMaxDemandClear r v s = _
  rw [execMaxDemandClear, State.asCtx_of_ok _ _ _ hon hen hpass]

theorem State.mdCleared_maxDemandClear (r : Req) (v : Word) :
    s.MdCleared (if s.ctxOf r = 0 then s.writeLdgCtl (v ||| 4) else s.clearMaxDemand) := by
  split
  · obtain ⟨honly, htariffs, hrecs, hon⟩ := s.ctlWritten_keeps (bit (v ||| 4).toNat 0) (bit (v ||| 4).toNat 1)
    have hbit : bit (v ||| 4).toNat 2 = true := by rw [bit_or_word, Bool.or_eq_true]; exact .inr rfl
    rw [s.writeLdgCtl_eq, if_pos hbit]
    exact (State.mdCleared_clearMaxDemand _).of_start honly htariffs hrecs hon
  · exact s.mdCleared_clearMaxDemand

theorem ovr_apart : R.LDG_TOVR.at ≠ R.LDG_STAT.at := by decide

theorem State.setTovr_sets (en pass : Bool) {k : Nat} (hk : k < 8) : (s.setTovr en k pass).flag F.LDG_TOVR_EN = en ∧
    (s.setTovr en k pass).fget F.LDG_TOVR_TARIFF = k ∧ (s.setTovr en k pass).flag F.LDG_STAT_OVR = en ∧
    (s.setTovr en k pass).ledger = { s.ledger with ovrSet := true, underPass := pass && en } ∧
    s.only (s.setTovr en k pass) [.regs, .ledger] ∧ s.regsOnly (s.setTovr en k pass) [R.LDG_TOVR.at, R.LDG_STAT.at] := by
  let u := (s.setFlag F.LDG_TOVR_EN en).fset F.LDG_TOVR_TARIFF k
  have htovr : (u.setFlag F.LDG_STAT_OVR en).rd R.LDG_TOVR.at = u.rd R.LDG_TOVR.at :=
    State.rd_setFlag_ne _ F.LDG_STAT_OVR _ _ _ _ ovr_apart
  refine ⟨?_, ?_, State.flag_setFlag_self u F.LDG_STAT_OVR _ _ _ (by decide) (by decide), rfl, by simp [State.setTovr], fun a ha => ?_⟩
  · refine (State.flag_of_rd (f := F.LDG_TOVR_EN) htovr).trans ?_
    rw [State.flag_fset_other _ F.LDG_TOVR_TARIFF F.LDG_TOVR_EN _ _ _ (by rfl) (by decide) (by decide) (by decide),
      State.flag_setFlag_self _ _ _ _ _ (by decide) (by decide)]
  · refine (State.fget_of_rd (f := F.LDG_TOVR_TARIFF) htovr).trans ?_
    exact (State.fget_fset_self _ _ _ _ _ (by decide) (by decide)).trans (Nat.mod_eq_of_lt hk)
  · simp only [List.mem_cons, List.not_mem_nil, or_false, not_or] at ha
    obtain ⟨ht, hs⟩ := ha
    refine (State.rd_setFlag_ne u F.LDG_STAT_OVR _ _ _ _ hs).trans ?_
    rw [State.rd_fset_ne _ F.LDG_TOVR_TARIFF _ _ _ _ ht, State.rd_setFlag_ne _ F.LDG_TOVR_EN _ _ _ _ ht]

theorem State.snapnow_write {v : Word} (h2 : bit v.toNat 2 = false) : s.writeLdgCtl (v ||| 2) = s.ctlWritten (bit v.toNat 0) true := by
  have hb0 : bit (v ||| 2).toNat 0 = bit v.toNat 0 := by rw [bit_or_word]; exact Bool.or_false _
  have hb1 : bit (v ||| 2).toNat 1 = true := by rw [bit_or_word, Bool.or_eq_true]; exact .inr rfl
  have hb2 : bit (v ||| 2).toNat 2 = false := by rw [bit_or_word, h2]; rfl
  rw [s.writeLdgCtl_eq, hb0, hb1, hb2, if_neg Bool.false_ne_true]

theorem execLedgerPortWrite_erase {s : State} {j : Nat × Nat × Nat} (hopen : s.portOpen true = true)
    (hfind : s.ledger.jobs.find? (fun j => decide (j.2.1 < 0xD8000000)) = some j) : exec (.ledgerPortWrite 1 true) s =
      .next (((s.setLedger { s.ledger with jobs := s.ledger.jobs.erase j }).portErase j.2.1 true).syncWorn.syncOldest) := by
  change execLedgerPortWrite 1 true s = _
  unfold execLedgerPortWrite
  rw [if_neg (by decide), if_pos (by decide), hfind]
  dsimp only
  rw [hopen]
  rfl

/-- Settles O49: a tick's later steps keep its sums, a record joins those that wait, and each command's branch shows what it did. -/
theorem ledgerTicksRecordsAndSnapshots : Obligations.LedgerTicksRecordsAndSnapshots := by
  refine ⟨fun s h => ?_, fun s hon hlt => s.ledgerTick_evaluates hon hlt, fun s r rest k hrecs hslot hwords => ?_,
    fun s r k hopen hfind hslot husable => ?_, fun s j hopen hfind => ?_, fun s hon hdue => ?_, fun r v s hr h2 => ?_,
    fun r v s hon hen hok => ?_, fun r v s hon hen hok => ?_, fun r v s hr hv hunset => ?_, fun r v s hr hset => ?_,
    fun s c hfree hopen hnext => ?_⟩
  · have hidle : (!s.ledgerOn) = true ∨ s.tickNow ≤ s.ledger.lastTick := by simpa using h
    exact congrArg Host.Outcome.next (if_pos hidle)
  · obtain ⟨hlseq, hledger, honly, hringen⟩ := s.recCommitted_shows r rest
    obtain ⟨hring, hkept⟩ := (s.recCommitted r rest).ringLedger_keeps r.bytes
    refine ⟨_, congrArg Host.Outcome.next (s.commitLedger_of_done hrecs hslot hwords), (hring .ledger (by simp)).trans hledger,
      hkept.trans hlseq, fun hoff => ?_, State.only_trans (State.only_mono honly (by simp)) (State.only_mono hring (by simp))⟩
    have hsame : (s.recCommitted r rest).ringLedger r.bytes = s.recCommitted r rest := if_neg (by rw [hringen, hoff]; exact Bool.false_ne_true)
    rw [hsame]
    exact ⟨honly .mem (by simp), honly .rings (by simp)⟩
  · intro w o hblank
    obtain ⟨hsto, hledger, honly⟩ := s.wordProgrammed_shows r (r.nextOfs k) ((r.bytes.drop (8 * r.nextWord)).take 8)
    refine ⟨_, ?_, hsto, hledger, honly⟩
    exact congrArg Host.Outcome.next ((if_pos rfl).trans ((if_pos hopen).trans (s.portRecord_programs hfind hslot husable hblank)))
  · intro x h2 h3 hwear
    let u := s.setLedger { s.ledger with jobs := s.ledger.jobs.erase j }
    obtain ⟨hsto, honly⟩ := State.portErase_of_fresh u (o := j.2.1) h2 h3 hwear
    have hsync : (u.portErase j.2.1 true).only (u.portErase j.2.1 true).syncWorn.syncOldest [.regs, .chn, .events] :=
      State.only_trans (State.syncWorn_only _) (State.only_mono (State.syncOldest_only _) (by simp))
    refine ⟨_, execLedgerPortWrite_erase hopen hfind, ?_, (hsync .sto (by simp)).trans hsto, ?_⟩
    · exact (hsync .ledger (by simp)).trans (honly .ledger (by simp))
    · exact State.only_trans (t := u) (by simp [u]) (State.only_trans (State.only_mono honly (by simp)) (State.only_mono hsync (by simp)))
  · obtain ⟨l, hnow, hnext, hlen, hrecs, hshow, honly⟩ := s.snapshot_written hdue
    exact ⟨_, l, congrArg Host.Outcome.next (if_pos hon), hnow, hnext, hlen, hrecs, hshow, honly⟩
  · refine ⟨s.ctlWritten (bit v.toNat 0) true, ?_, rfl, ?_, by simp [State.ctlWritten], fun a ha => ?_⟩
    · change execLdgSnapnow r v s = _
      rw [execLdgSnapnow, State.asHome_of_homeReq hr, s.snapnow_write h2]
    · exact State.flag_setFlag_self s F.LDG_CTL_RINGEN _ _ _ (by decide) (by decide)
    · exact State.rd_setFlag_ne s F.LDG_CTL_RINGEN _ _ _ _ fun h => ha (by simp [h, F.LDG_CTL_RINGEN])
  · have h := s.mdCleared_maxDemandClear r v
    exact ⟨_, execMaxDemandClear_of_ok hon hen hok v, h.tariffs, h.waits, h.written, h.only⟩
  · have hpass : (s.ctxOf r == 0 || s.agentHolds r 0) = true := by simpa using hok
    refine ⟨s.setTovr (bit v.toNat 31) (getField v 0 3) (s.agentHolds r 0), ?_, s.setTovr_sets _ _ (getField_lt ..)⟩
    change execTariffOverrideWrite r v s = _
    rw [execTariffOverrideWrite, State.asCtx_of_ok _ _ _ hon hen hpass]
  · refine ⟨s.programKey, ?_, s.programKey_programs hunset⟩
    change execLedgerKeyProgram r v s = _
    rw [execLedgerKeyProgram, State.asHome_of_homeReq hr, if_pos hv]
  · have hkeep : s.programKey = s := if_pos hset
    change execLedgerKeyProgram r v s = _
    rw [execLedgerKeyProgram, State.asHome_of_homeReq hr, hkeep, ite_self]
  · obtain ⟨u, hu, heq⟩ := s.drainCard_drains hfree hopen hnext
    obtain ⟨hevents, hslot, ⟨l, hjobs, hlen⟩, honly⟩ := u.logCard_logs c
    have hl : u.ledger = s.ledger := hu .ledger (by simp)
    have he : u.events = s.events := hu .events (by simp)
    rw [he] at hevents
    rw [hl] at hslot hjobs hlen
    exact ⟨_, congrArg Host.Outcome.next heq, hevents, hslot, ⟨l, hjobs, hlen⟩,
      State.only_trans (State.only_mono hu (by simp)) (State.only_mono honly (by simp))⟩

end Sys2Proof.Machine
end

section
/-! PROOF. Image staging in enrolment and bulk transfers (spec/17, R488 to R492; spec/02, R76, R77). -/

namespace Sys2Proof.Machine

variable (s t u : State)

/-! ### Sealed messages to a host (R474, R488) -/

theorem State.transmit_only (p queue : Nat) (addr pkt : List Byte) : s.only (s.transmit p queue addr pkt) [.hosts, .tx] := by
  unfold State.transmit
  split <;> simp

@[simp] theorem State.hostX_transmit (p queue : Nat) (addr pkt : List Byte) (h : Nat) :
    (s.transmit p queue addr pkt).hostX h = s.hostX h := by
  unfold State.transmit
  split <;> rfl

/-- A packet that leaves by an Ethernet port is the last frame sent. -/
theorem State.tx_transmit {p : Nat} (hp : p ≠ 3) (queue : Nat) (addr pkt : List Byte) :
    ∃ f : Tx, (s.transmit p queue addr pkt).tx = s.tx ++ [f] ∧ f.port = 0x80 + p ∧ f.kind = queue :=
  ⟨_, congrArg State.tx (if_neg hp), rfl, rfl⟩

/-- The session of host `h` has sent one message more. -/
def State.counted (s : State) (h : Nat) (y : Session) : State :=
  s.setHostX h { s.hostX h with cur := some { y with sent := y.sent + 1 } }

theorem State.sendSealed_of_cur {h : Nat} {y : Session} (hcur : (s.hostX h).cur = some y) (queue : Nat) (b : List Byte) :
    ∃ pkt, s.sendSealed h queue b = (s.counted h y).transmit (s.hostX h).port queue (s.hostX h).addr pkt := by
  unfold State.sendSealed
  dsimp only
  rw [hcur]
  exact ⟨_, rfl⟩

theorem State.sendSealed_only (h queue : Nat) (b : List Byte) : s.only (s.sendSealed h queue b) [.hosts, .tx] := by
  cases hcur : (s.hostX h).cur with
  | none =>
    unfold State.sendSealed
    dsimp only
    rw [hcur]
    exact s.only_refl _
  | some y =>
    obtain ⟨pkt, hsent⟩ := s.sendSealed_of_cur hcur queue b
    rw [hsent]
    exact State.only_trans (t := s.counted h y) (by simp [State.counted]) (State.transmit_only _ _ _ _ _)

@[simp] theorem State.only_sendSealed_iff {l : List Part} (hh : .hosts ∈ l) (ht : .tx ∈ l) (h queue : Nat) (b : List Byte) :
    s.only (t.sendSealed h queue b) l ↔ s.only t l :=
  State.only_iff_of_onlys s t (t.sendSealed_only h queue b) (by simp [hh, ht])

/-- What a message sent under session `y` of host `h` leaves: its session counts it, the rest of its context stands, and it is the last
frame of an Ethernet port. -/
theorem State.sendSealed_sends {h : Nat} {y : Session} (hcur : (s.hostX h).cur = some y) (queue : Nat) (b : List Byte) :
    (s.sendSealed h queue b).hostX h = { s.hostX h with cur := some { y with sent := y.sent + 1 } } ∧
    ((s.hostX h).port ≠ 3 → ∃ f : Tx, (s.sendSealed h queue b).tx = s.tx ++ [f] ∧ f.port = 0x80 + (s.hostX h).port ∧ f.kind = queue) := by
  obtain ⟨pkt, hsent⟩ := s.sendSealed_of_cur hcur queue b
  rw [hsent]
  refine ⟨?_, fun hp => State.tx_transmit _ hp _ _ _⟩
  rw [State.hostX_transmit, State.counted, State.hostX_setHostX_self]

/-! ### Bulk transfers (R488, R489) -/

/-- The next packet of `b` has left. -/
def Bulk.advanced (b : Bulk) (now : Nat) : Bulk := { b with sent := b.sent + 1, ackTb := if b.sent = b.acked then now else b.ackTb }

/-- The oldest packet of `b` has left again. -/
def Bulk.resent (b : Bulk) (now : Nat) : Bulk := { b with resends := b.resends + 1, ackTb := now }

/-- The next packet of a transfer, the oldest that is not acknowledged, and the one that abandons it. -/
def Bulk.nextPacket (b : Bulk) : List Byte := b.packet b.sent 0 (b.sent + 1 == b.packets.length) (b.packets.getD b.sent [])
def Bulk.oldestPacket (b : Bulk) : List Byte := b.packet b.acked 0 (b.acked + 1 == b.packets.length) (b.packets.getD b.acked [])
def Bulk.lastPacket (b : Bulk) : List Byte := b.packet b.sent 0x07 true []

/-- Host `h`'s transfer becomes `x` and a packet leaves. -/
def State.bulkSent (s : State) (h : Nat) (x : Option Bulk) (pkt : List Byte) : State :=
  (s.setHostX h { s.hostX h with bulk := x }).sendSealed h 1 pkt

theorem State.bulkSent_only (h : Nat) (x : Option Bulk) (pkt : List Byte) : s.only (s.bulkSent h x pkt) [.hosts, .tx] := by
  simp [State.bulkSent]

theorem State.bulkSent_sends {h : Nat} {y : Session} (hcur : (s.hostX h).cur = some y) (x : Option Bulk) (pkt : List Byte) :
    ((s.bulkSent h x pkt).hostX h).bulk = x ∧ ((s.bulkSent h x pkt).hostX h).cur = some { y with sent := y.sent + 1 } ∧
    ((s.hostX h).port ≠ 3 → ∃ f : Tx, (s.bulkSent h x pkt).tx = s.tx ++ [f] ∧ f.port = 0x80 + (s.hostX h).port ∧ f.kind = 1) := by
  let u := s.setHostX h { s.hostX h with bulk := x }
  have hx : u.hostX h = { s.hostX h with bulk := x } := s.hostX_setHostX_self h _
  obtain ⟨hhost, hport⟩ := u.sendSealed_sends (h := h) (y := y) (by rw [hx]; exact hcur) 1 pkt
  rw [State.bulkSent, hhost, hx]
  refine ⟨rfl, rfl, fun hp => ?_⟩
  obtain ⟨f, htx, hf⟩ := hport (by rw [hx]; exact hp)
  exact ⟨f, htx, by rw [hx] at hf; exact hf⟩

theorem execBulkPacketSend_of_bulk (h : Fin 4) {b : Bulk} (hbulk : (s.hostX h.val).bulk = some b) (hdom : s.domOn 2 = true)
    (hmore : b.sent < b.packets.length) (hwin : b.sent < b.acked + 64) : exec (.bulkPacketSend h) s = .next
      (let u := s.bulkSent h.val (some (b.advanced s.now)) b.nextPacket
       if b.acked + 64 = b.sent + 1 then u.count R.HOST_BULKPAUSE else u) := by
  have hgo : ¬((!s.domOn 2) = true ∨ b.packets.length ≤ b.sent ∨ b.acked + 64 ≤ b.sent) := by
    rw [hdom]
    simp
    omega
  change execBulkPacketSend h s = _
  unfold execBulkPacketSend
  dsimp only
  rw [hbulk]
  dsimp only
  rw [if_neg hgo]
  rfl

/-- A packet leaves while fewer than 64 are unacknowledged; the one that fills the window counts the pause. -/
theorem bulkPacketSend_sends (h : Fin 4) {b : Bulk} {y : Session} (hbulk : (s.hostX h.val).bulk = some b)
    (hcur : (s.hostX h.val).cur = some y) (hdom : s.domOn 2 = true) (hmore : b.sent < b.packets.length) (hwin : b.sent < b.acked + 64) :
    ∃ t, exec (.bulkPacketSend h) s = .next t ∧ (t.hostX h.val).bulk = some (b.advanced s.now) ∧
      ((s.hostX h.val).port ≠ 3 → ∃ f : Tx, t.tx = s.tx ++ [f] ∧ f.port = 0x80 + (s.hostX h.val).port ∧ f.kind = 1) ∧
      (t.hostX h.val).cur = some { y with sent := y.sent + 1 } ∧
      t.rget R.HOST_BULKPAUSE = (if b.acked + 64 = b.sent + 1 then satAdd 32 (s.rget R.HOST_BULKPAUSE) 1 else s.rget R.HOST_BULKPAUSE) ∧
      s.only t [.regs, .hosts, .tx] ∧ s.regsOnly t [R.HOST_BULKPAUSE.at] := by
  let u := s.bulkSent h.val (some (b.advanced s.now)) b.nextPacket
  obtain ⟨hx, hy, hf⟩ := s.bulkSent_sends hcur (some (b.advanced s.now)) b.nextPacket
  have honly : s.only u [.hosts, .tx] := s.bulkSent_only h.val _ _
  have hregs : u.regs = s.regs := honly .regs (by simp)
  have hrd (a : Nat) : u.rd a = s.rd a := by rw [State.rd, State.rd, hregs]
  have hexec := execBulkPacketSend_of_bulk s h hbulk hdom hmore hwin
  by_cases hfull : b.acked + 64 = b.sent + 1
  · refine ⟨u.count R.HOST_BULKPAUSE, hexec.trans (congrArg Host.Outcome.next (if_pos hfull)), hx, hf, hy, ?_, ?_, ?_⟩
    · rw [State.rget_count_self, if_pos hfull]
      exact congrArg (satAdd 32 · 1) (congrArg BitVec.toNat (hrd (R.HOST_BULKPAUSE.at 0 0)))
    · exact State.only_trans (t := u) (State.only_mono honly (by simp)) (by simp)
    · exact fun a ha => (State.rd_count_ne _ _ _ _ _ _ (by simpa using ha)).trans (hrd a)
  · refine ⟨u, hexec.trans (congrArg Host.Outcome.next (if_neg hfull)), hx, hf, hy, ?_, State.only_mono honly (by simp), fun a _ => hrd a⟩
    rw [if_neg hfull]
    exact congrArg BitVec.toNat (hrd (R.HOST_BULKPAUSE.at 0 0))

theorem execBulkResendTimeout_of_bulk (h : Fin 4) {b : Bulk} (hbulk : (s.hostX h.val).bulk = some b) (hdom : s.domOn 2 = true)
    (hopen : b.acked < b.sent) (hdue : b.ackTb + 100000000 ≤ s.now) : exec (.bulkResendTimeout h) s = .next
      (if b.resends < 8 then s.bulkSent h.val (some (b.resent s.now)) b.oldestPacket
       else (s.bulkSent h.val none b.lastPacket).hostCard 5 ([BitVec.ofNat 8 h.val, 0] ++ leBytes 2 b.id)) := by
  have hgo : ¬((!s.domOn 2) = true ∨ b.sent ≤ b.acked ∨ s.now < b.ackTb + 100000000) := by
    rw [hdom]
    simp only [Bool.not_true, Bool.false_eq_true, false_or, not_or]
    omega
  change execBulkResendTimeout h s = _
  unfold execBulkResendTimeout
  dsimp only
  rw [hbulk]
  dsimp only
  rw [if_neg hgo]
  rfl

/-- A host card writes its own parts. -/
theorem State.hostCard_keeps (event : Nat) (detail : List Byte) : s.only (s.hostCard event detail) [.regs, .chn, .events] :=
  State.only_mono (State.card_only _ _) (by simp)

/-- Without progress the oldest packet leaves again; after eight resends the transfer ends. -/
theorem bulkResendTimeout_resends (h : Fin 4) {b : Bulk} {y : Session} (hbulk : (s.hostX h.val).bulk = some b)
    (hcur : (s.hostX h.val).cur = some y) (hdom : s.domOn 2 = true) (hopen : b.acked < b.sent) (hdue : b.ackTb + 100000000 ≤ s.now) :
    ∃ t, exec (.bulkResendTimeout h) s = .next t ∧ (t.hostX h.val).bulk = (if b.resends < 8 then some (b.resent s.now) else none) ∧
      ((s.hostX h.val).port ≠ 3 → ∃ f : Tx, t.tx = s.tx ++ [f] ∧ f.port = 0x80 + (s.hostX h.val).port ∧ f.kind = 1) ∧
      (b.resends < 8 → s.only t [.hosts, .tx]) ∧ s.only t [.regs, .chn, .hosts, .events, .tx] := by
  refine ⟨_, execBulkResendTimeout_of_bulk s h hbulk hdom hopen hdue, ?_⟩
  by_cases hlt : b.resends < 8
  · rw [if_pos hlt, if_pos hlt]
    obtain ⟨hx, -, hf⟩ := s.bulkSent_sends hcur (some (b.resent s.now)) b.oldestPacket
    exact ⟨hx, hf, fun _ => s.bulkSent_only _ _ _, State.only_mono (s.bulkSent_only _ _ _) (by simp)⟩
  · rw [if_neg hlt, if_neg hlt]
    obtain ⟨hx, -, hf⟩ := s.bulkSent_sends hcur none b.lastPacket
    have hcard := (s.bulkSent h.val none b.lastPacket).hostCard_keeps 5 ([BitVec.ofNat 8 h.val, 0] ++ leBytes 2 b.id)
    refine ⟨?_, fun hp => ?_, fun hl => absurd hl hlt, ?_⟩
    · exact (congrArg (fun x : Hosts => (Sparse.get (fun _ => HostX.fresh) x.hosts h.val).bulk) (hcard .hosts (by simp))).trans hx
    · rw [hcard .tx (by simp)]
      exact hf hp
    · exact State.only_trans (State.only_mono (s.bulkSent_only _ _ _) (by simp)) (State.only_mono hcard (by simp))

theorem bulk_idle (h : Fin 4) (hnone : (s.hostX h.val).bulk = none) :
    exec (.bulkPacketSend h) s = .next s ∧ exec (.bulkResendTimeout h) s = .next s := by
  constructor
  · change execBulkPacketSend h s = _
    unfold execBulkPacketSend
    dsimp only
    rw [hnone]
  · change execBulkResendTimeout h s = _
    unfold execBulkResendTimeout
    dsimp only
    rw [hnone]

end Sys2Proof.Machine
end

section
/-! PROOF. The staged image in the storage array (spec/02, R76, R77): the ledger port's erases and words, and the checks of an image. -/

namespace Sys2Proof.Machine

variable (s t u : State)

/-! ### Sectors and words -/

theorem Storage.sector_setSector_ne {m n : Nat} (h : m ≠ n) (t : Storage) (x : Sector) : (t.setSector n x).sector m = t.sector m :=
  Sparse.get_put_ne _ _ _ h

theorem Storage.sectors_store (t : Storage) (o : Nat) (l : List Byte) : (t.store o l).sectors = t.sectors := by
  induction l generalizing t o with
  | nil => rfl
  | cons v l ih => exact ih _ _

theorem Storage.sector_progWord (t : Storage) (w : Nat) (b : List Byte) (n : Nat) : (t.progWord w b).sector n = t.sector n :=
  congrArg (fun l => Sparse.get (fun _ => Sector.fresh) l n) (t.sectors_store _ _)

theorem Storage.wordErr_store (t : Storage) (o : Nat) (l : List Byte) : (t.store o l).wordErr = t.wordErr := by
  induction l generalizing t o with
  | nil => rfl
  | cons v l ih => exact ih _ _

theorem Storage.read_congr {t t' : Storage} {o n : Nat} (h : ∀ b, o ≤ b → b < o + n → t.byte b = t'.byte b) : t.read o n = t'.read o n := by
  induction n generalizing o with
  | zero => rfl
  | succ n ih =>
    rw [Storage.read, Storage.read, h o (Nat.le_refl o) (by omega), ih fun b hlow hhigh => h b (by omega) (by omega)]

/-- A word that is programmed leaves whether another one is blank. -/
theorem Storage.blank_progWord_ne {w v : Nat} (h : v ≠ w) (t : Storage) {b : List Byte} (hb : b.length = 8) :
    (t.progWord w b).blank v = t.blank v := by
  have hread : (t.progWord w b).read (8 * v) 8 = t.read (8 * v) 8 :=
    Storage.read_congr fun o hlow hhigh => (t.byte_progWord hb w o).trans (if_neg (by omega))
  have herr : (t.progWord w b).err v = t.err v := by
    rw [Storage.progWord, Storage.err, Storage.setErr, Storage.err, Sparse.get_put_ne _ _ _ h, Storage.wordErr_store]
  rw [Storage.blank, Storage.blank, hread, herr]

/-! ### Erases of the ledger port (R401, R490) -/

/-- Only the sectors `p` names may differ in the storage between `s` and `t`. -/
structure State.ErasedAt (s t : State) (p : Nat → Prop) : Prop where
  only : s.only t [.regs, .sto, .chn, .events]
  wear : t.wearLimit = s.wearLimit
  byte : ∀ o, ¬p (o / 4096) → t.sto.byte o = s.sto.byte o
  sector : ∀ m, ¬p m → t.sto.sector m = s.sto.sector m

variable {s t u}

theorem State.ErasedAt.refl (p : Nat → Prop) : s.ErasedAt s p := ⟨s.only_refl _, rfl, fun _ _ => rfl, fun _ _ => rfl⟩

theorem State.ErasedAt.trans {p : Nat → Prop} (h : s.ErasedAt t p) (h' : t.ErasedAt u p) : s.ErasedAt u p :=
  ⟨State.only_trans h.only h'.only, h'.wear.trans h.wear, fun o ho => (h'.byte o ho).trans (h.byte o ho),
    fun m hm => (h'.sector m hm).trans (h.sector m hm)⟩

theorem State.ErasedAt.mono {p q : Nat → Prop} (h : s.ErasedAt t p) (hpq : ∀ m, p m → q m) : s.ErasedAt t q :=
  ⟨h.only, h.wear, fun o ho => h.byte o (fun hp => ho (hpq _ hp)), fun m hm => h.sector m (fun hp => hm (hpq _ hp))⟩

variable (s t u)

theorem State.erasedAt_setSto {n : Nat} {x : Storage} (hcells : x.cells = (s.sto.eraseSector n).cells)
    (hsector : ∀ m, m ≠ n → x.sector m = s.sto.sector m) : s.ErasedAt (s.setSto x) (· = n) where
  only := by simp
  wear := rfl
  byte o ho := by
    have herased := s.sto.byte_eraseSector n o
    rw [if_neg ho] at herased
    rw [State.sto_setSto, ← herased, Storage.byte, Storage.byte, hcells]
  sector := hsector

theorem State.erasedAt_setSector (n : Nat) (x : Sector) : s.ErasedAt (s.setSto ((s.sto.eraseSector n).setSector n x)) (· = n) :=
  s.erasedAt_setSto rfl fun _ hm => Storage.sector_setSector_ne hm (s.sto.eraseSector n) x

theorem State.ErasedAt.of_regs {p : Nat → Prop} (honly : s.only t [.regs, .chn, .events])
    (hwear : t.rd R.STO_WEARLIM.at = s.rd R.STO_WEARLIM.at) : s.ErasedAt t p := by
  have hsto : t.sto = s.sto := honly .sto (by simp)
  refine ⟨State.only_mono honly (by simp), ?_, fun o _ => by rw [hsto], fun m _ => by rw [hsto]⟩
  rw [State.wearLimit, State.wearLimit, State.fget_of_rd (f := F.STO_WEARLIM_LIMIT) hwear]

theorem State.erasedAt_stoCard (p : Nat → Prop) (event ofs cnt : Nat) : s.ErasedAt (s.stoCard event ofs cnt) p :=
  State.ErasedAt.of_regs s _ (State.only_mono (s.card_only _) (by simp)) (s.rd_card (by decide) _)

theorem wearlim_ne_bank (k : Nat) : R.STO_WEARLIM.at ≠ R.STO_BANK.at k := by
  simp only [RegDesc.at, R.STO_WEARLIM, R.STO_BANK]
  omega

theorem State.erasedAt_syncBank (p : Nat → Prop) (k : Nat) : s.ErasedAt (s.syncBank k) p :=
  State.ErasedAt.of_regs s _ (by simp [State.syncBank])
    (State.rd_rset_ne _ _ _ _ _ _ (wearlim_ne_bank k))

theorem State.erasedAt_count (p : Nat → Prop) : s.ErasedAt (s.count R.STO_RELOC) p :=
  State.ErasedAt.of_regs s _ (by simp) (State.rd_count_ne _ _ _ _ _ _ (by decide))

/-- A sector that is moved to a spare without its content. -/
theorem State.relocate_erased (n : Nat) : s.relocate n false = (.noSpare, s) ∨
    (s.relocate n false).1 = .done ∧ s.ErasedAt (s.relocate n false).2 (· = n) := by
  unfold State.relocate
  dsimp only
  split
  · exact .inl rfl
  · next i _ =>
    rw [if_neg Bool.false_ne_true]
    dsimp only
    rw [if_neg Bool.false_ne_true]
    refine .inr ⟨rfl, ?_⟩
    let t := { s.sto.eraseSector n with spareUsed := (s.sto.eraseSector n).spareUsed ++ [(bankOfSector n, i)] }
    have hset : s.ErasedAt (s.setSto (t.setSector n ⟨1, 0, some i⟩)) (· = n) :=
      s.erasedAt_setSto rfl fun m hm => t.sector_setSector_ne hm ⟨1, 0, some i⟩
    exact ((hset.trans (State.erasedAt_syncBank _ _ _)).trans (State.erasedAt_count _ _)).trans (State.erasedAt_stoCard _ _ _ _ _)

/-- An erase of the ledger port changes no sector but its own. -/
theorem State.portErase_erases (o : Nat) : s.ErasedAt (s.portErase o true) (· = secOf o) := by
  by_cases hbad : (s.sto.sector (secOf o)).state = 2 ∨ (s.sto.sector (secOf o)).state = 3
  · have hsame : s.portErase o true = s := if_pos hbad
    rw [hsame]
    exact State.ErasedAt.refl _
  obtain ⟨h2, h3⟩ := not_or.mp hbad
  by_cases hwear : (s.sto.sector (secOf o)).count < s.wearLimit
  · have hset := s.erasedAt_setSector (secOf o) { s.sto.sector (secOf o) with count := (s.sto.sector (secOf o)).count + 1 }
    unfold State.portErase
    dsimp only
    rw [if_neg hbad, if_pos ⟨rfl, hwear⟩]
    split
    · exact hset.trans (State.erasedAt_stoCard _ _ _ _ _)
    · exact hset
  · unfold State.portErase
    dsimp only
    rw [if_neg hbad, if_neg (fun h => hwear h.2)]
    rcases s.relocate_erased (secOf o) with hnone | ⟨hdone, herased⟩
    · rw [hnone]
      exact (s.erasedAt_setSector (secOf o) { s.sto.sector (secOf o) with state := 3 }).trans (State.erasedAt_syncBank _ _ _)
    · generalize s.relocate (secOf o) false = r at hdone herased
      obtain ⟨x, v⟩ := r
      cases hdone
      exact herased

/-- The erase of a sector that is usable and not worn leaves its bytes 0xFF. -/
theorem State.byte_portErase_of_fresh {o b : Nat} (h2 : (s.sto.sector (secOf o)).state ≠ 2) (h3 : (s.sto.sector (secOf o)).state ≠ 3)
    (hwear : (s.sto.sector (secOf o)).count < s.wearLimit) (hb : b / 4096 = secOf o) : (s.portErase o true).sto.byte b = 0xFF := by
  rw [(s.portErase_of_fresh h2 h3 hwear).1]
  exact (s.sto.byte_eraseSector _ b).trans (if_pos hb)

/-- The erases of `n` sectors from offset `base`. -/
def State.eraseFrom (s : State) (base n : Nat) : State := (List.range n).foldl (fun s k => s.portErase (base + 4096 * k) true) s

theorem State.eraseFrom_succ (base n : Nat) : s.eraseFrom base (n + 1) = (s.eraseFrom base n).portErase (base + 4096 * n) true := by
  unfold State.eraseFrom
  simp only [List.range_succ, List.foldl_append, List.foldl_cons, List.foldl_nil]

theorem secOf_add (base n : Nat) : secOf (base + 4096 * n) = base / 4096 + n := by
  rw [secOf]
  omega

/-- The erases change no sector outside theirs. -/
theorem State.eraseFrom_erases (base n : Nat) : s.ErasedAt (s.eraseFrom base n) (fun m => base / 4096 ≤ m ∧ m < base / 4096 + n) := by
  induction n with
  | zero => exact State.ErasedAt.refl _
  | succ n ih =>
    rw [State.eraseFrom_succ]
    have hlast := (s.eraseFrom base n).portErase_erases (base + 4096 * n)
    rw [secOf_add] at hlast
    exact (ih.mono fun m hm => ⟨hm.1, by omega⟩).trans (hlast.mono fun m hm => by omega)

/-- A sector among them that is usable and not worn reads 0xFF. -/
theorem State.byte_eraseFrom {base n b : Nat} (hlow : base / 4096 ≤ b / 4096) (hhigh : b / 4096 < base / 4096 + n)
    (h2 : (s.sto.sector (b / 4096)).state ≠ 2) (h3 : (s.sto.sector (b / 4096)).state ≠ 3)
    (hwear : (s.sto.sector (b / 4096)).count < s.wearLimit) : (s.eraseFrom base n).sto.byte b = 0xFF := by
  induction n with
  | zero => omega
  | succ n ih =>
    rw [State.eraseFrom_succ]
    by_cases hlast : b / 4096 = base / 4096 + n
    · have herased := s.eraseFrom_erases base n
      have hsec : secOf (base + 4096 * n) = b / 4096 := by rw [secOf_add, hlast]
      have hsame : (s.eraseFrom base n).sto.sector (b / 4096) = s.sto.sector (b / 4096) := herased.sector _ (by omega)
      exact State.byte_portErase_of_fresh _ (by rwa [hsec, hsame]) (by rwa [hsec, hsame]) (by rwa [hsec, hsame, herased.wear]) hsec.symm
    · have hother := ((s.eraseFrom base n).portErase_erases (base + 4096 * n)).byte b (by rw [secOf_add]; exact hlast)
      rw [hother]
      exact ih (by omega)

/-! ### Words of the staged image (R490) -/

/-- One word of the staged image at storage offset `a`. -/
def State.stageWord (s : State) (a : Nat) (x : List Byte) : State :=
  if s.sto.blank (a / 8) then (s.portWord a (x ++ List.replicate (8 - x.length) 0xFF) true).2 else s

/-- The words `l` of the staged image from word `k` on, at storage offset `a`. -/
def State.stageFrom (s : State) (a : Nat) (l : List (List Byte)) (k : Nat) : State :=
  (l.zipIdx k).foldl (fun s x => s.stageWord (a + 8 * x.2) x.1) s

theorem State.stageFrom_cons (a : Nat) (x : List Byte) (l : List (List Byte)) (k : Nat) :
    s.stageFrom a (x :: l) k = (s.stageWord (a + 8 * k) x).stageFrom a l (k + 1) := rfl

theorem State.stageWords_eq (o : Nat) (l : List (List Byte)) : s.stageWords o l = s.stageFrom (stagedBase + o) l 0 := rfl

/-- A word at offset `8 * w` changes the cells of the storage alone, and of those its own. -/
theorem State.stageWord_stages {x : List Byte} (hx : x.length ≤ 8) (w : Nat) :
    (∃ y, s.stageWord (8 * w) x = s.setSto y) ∧
    (∀ n, (s.stageWord (8 * w) x).sto.sector n = s.sto.sector n) ∧
    (∀ b, ¬(8 * w ≤ b ∧ b < 8 * w + 8) → (s.stageWord (8 * w) x).sto.byte b = s.sto.byte b) ∧
    (∀ v, v ≠ w → (s.stageWord (8 * w) x).sto.blank v = s.sto.blank v) ∧
    (s.sto.blank w = true → (s.sto.sector (8 * w / 4096)).state ≠ 2 → (s.sto.sector (8 * w / 4096)).state ≠ 3 →
      ∀ i, i < x.length → (s.stageWord (8 * w) x).sto.byte (8 * w + i) = x.getD i 0) := by
  have hlen : (x ++ List.replicate (8 - x.length) (0xFF : Byte)).length = 8 := by
    rw [List.length_append, List.length_replicate]
    omega
  have hw : 8 * w / 8 = w := by omega
  unfold State.stageWord
  rw [hw]
  by_cases hblank : s.sto.blank w = true
  · by_cases hbad : (s.sto.sector (secOf (8 * w))).state = 2 ∨ (s.sto.sector (secOf (8 * w))).state = 3
    · have hword : s.portWord (8 * w) (x ++ List.replicate (8 - x.length) 0xFF) true = (false, s) := if_pos hbad
      rw [if_pos hblank, hword]
      exact ⟨⟨s.sto, rfl⟩, fun _ => rfl, fun _ _ => rfl, fun _ _ => rfl, fun _ h2 h3 => absurd hbad (not_or.mpr ⟨h2, h3⟩)⟩
    · rw [if_pos hblank, s.portWord_of_usable hbad, hw]
      refine ⟨⟨_, rfl⟩, fun n => s.sto.sector_progWord _ _ n, fun b hb => (s.sto.byte_progWord hlen w b).trans (if_neg hb),
        fun v hv => s.sto.blank_progWord_ne hv hlen, fun _ _ _ i hi => ?_⟩
      refine ((s.sto.byte_progWord hlen w _).trans (if_pos (by omega))).trans ?_
      rw [Nat.add_sub_cancel_left, List.getD_append _ _ _ _ hi]
  · rw [if_neg hblank]
    exact ⟨⟨s.sto, rfl⟩, fun _ => rfl, fun _ _ => rfl, fun _ _ => rfl, fun h => absurd h hblank⟩

/-- The words `l` from word `w + k` on change the cells of the storage alone, and of those their own. -/
theorem State.stageFrom_stages {l : List (List Byte)} (hl : ∀ x ∈ l, x.length ≤ 8) (w k : Nat) :
    (∃ y, s.stageFrom (8 * w) l k = s.setSto y) ∧
    (∀ b, ¬(8 * (w + k) ≤ b ∧ b < 8 * (w + k + l.length)) → (s.stageFrom (8 * w) l k).sto.byte b = s.sto.byte b) ∧
    (∀ m i, s.sto.blank (w + k + m) = true → (s.sto.sector (8 * (w + k + m) / 4096)).state ≠ 2 →
      (s.sto.sector (8 * (w + k + m) / 4096)).state ≠ 3 → i < (l.getD m []).length →
      (s.stageFrom (8 * w) l k).sto.byte (8 * (w + k + m) + i) = (l.getD m []).getD i 0) := by
  induction l generalizing s k with
  | nil => exact ⟨⟨s.sto, rfl⟩, fun _ _ => rfl, fun m i _ _ _ hi => absurd hi (by simp)⟩
  | cons x l ih =>
    have hx : x.length ≤ 8 := hl x (by simp)
    rw [State.stageFrom_cons, ← Nat.mul_add]
    obtain ⟨⟨y, hy⟩, hsector, hbyte, hblank, hstaged⟩ := s.stageWord_stages hx (w + k)
    obtain ⟨⟨z, hz⟩, hrest, hwords⟩ := ih (s.stageWord (8 * (w + k)) x) (fun x hx => hl x (by simp [hx])) (k + 1)
    refine ⟨⟨z, by rw [hz, hy]; rfl⟩, fun b hb => ?_, fun m i hm h2 h3 hi => ?_⟩
    · rw [List.length_cons] at hb
      rw [hrest b (by omega), hbyte b (by omega)]
    · cases m with
      | zero =>
        rw [hrest _ (by rw [List.getD_cons_zero] at hi; omega)]
        exact hstaged hm h2 h3 i hi
      | succ m =>
        have hword : w + (k + 1) + m = w + k + (m + 1) := by omega
        have hlater := hwords m i
        rw [hword, hblank _ (by omega), hsector] at hlater
        exact hlater hm h2 h3 hi

/-! ### The words of a packet's data -/

theorem length_le_of_mem_chunksOf {n fuel : Nat} {l x : List Byte} (h : x ∈ chunksOf n fuel l) : x.length ≤ n := by
  induction fuel generalizing l with
  | zero => exact absurd h (by simp [chunksOf])
  | succ fuel ih =>
    cases l with
    | nil => exact absurd h (by simp [chunksOf])
    | cons a l =>
      rcases List.mem_cons.mp h with rfl | h
      · exact List.length_take_le _ _
      · exact ih h

theorem length_chunksOf_le (fuel : Nat) (l : List Byte) : (chunksOf 8 fuel l).length ≤ ceilDiv l.length 8 := by
  induction fuel generalizing l with
  | zero => exact Nat.zero_le _
  | succ fuel ih =>
    cases l with
    | nil => exact Nat.zero_le _
    | cons a l =>
      have hrest := ih ((a :: l).drop 8)
      rw [List.length_drop] at hrest
      rw [chunksOf, List.length_cons]
      unfold ceilDiv at hrest ⊢
      rw [List.length_cons] at hrest ⊢
      omega

theorem getD_chunksOf {fuel : Nat} {l : List Byte} (h : l.length ≤ 8 * fuel) (m : Nat) :
    (chunksOf 8 fuel l).getD m [] = (l.drop (8 * m)).take 8 := by
  induction fuel generalizing l m with
  | zero =>
    obtain rfl : l = [] := List.length_eq_zero_iff.mp (by omega)
    simp [chunksOf]
  | succ fuel ih =>
    cases l with
    | nil => simp [chunksOf]
    | cons a l =>
      rw [chunksOf]
      cases m with
      | zero => rfl
      | succ m =>
        rw [List.getD_cons_succ, ih (by rw [List.length_drop]; omega), List.drop_drop]
        congr 2
        omega

/-- Data staged at offset `o` of the image. -/
theorem State.stageWords_stages {o : Nat} (ho : o % 8 = 0) (b : List Byte) :
    (∃ y, s.stageWords o (chunksOf 8 (b.length / 8 + 1) b) = s.setSto y) ∧
    (∀ i, i < b.length → s.sto.blank ((stagedBase + o + i) / 8) = true → (s.sto.sector ((stagedBase + o + i) / 4096)).state ≠ 2 →
      (s.sto.sector ((stagedBase + o + i) / 4096)).state ≠ 3 →
      (s.stageWords o (chunksOf 8 (b.length / 8 + 1) b)).sto.byte (stagedBase + o + i) = b.getD i 0) ∧
    (∀ j, ¬(stagedBase + o ≤ j ∧ j < stagedBase + o + 8 * ceilDiv b.length 8) →
      (s.stageWords o (chunksOf 8 (b.length / 8 + 1) b)).sto.byte j = s.sto.byte j) := by
  have hbase : stagedBase % 8 = 0 := rfl
  generalize hw : (stagedBase + o) / 8 = w
  have ha : stagedBase + o = 8 * w := by omega
  rw [State.stageWords_eq, ha]
  obtain ⟨hset, hout, hin⟩ := s.stageFrom_stages (fun _ => length_le_of_mem_chunksOf (n := 8) (fuel := b.length / 8 + 1) (l := b)) w 0
  refine ⟨hset, fun i hi hblank h2 h3 => ?_, fun j hj => hout j ?_⟩
  · have hword : (8 * w + i) / 8 = w + 0 + i / 8 := by omega
    have hsec : (8 * w + i) / 4096 = 8 * (w + 0 + i / 8) / 4096 := by omega
    have hofs : 8 * w + i = 8 * (w + 0 + i / 8) + i % 8 := by omega
    have hchunk := getD_chunksOf (l := b) (fuel := b.length / 8 + 1) (by omega) (i / 8)
    have hbyte := hin (i / 8) (i % 8) (hword ▸ hblank) (hsec ▸ h2) (hsec ▸ h3)
      (by rw [hchunk, List.length_take, List.length_drop]; omega)
    rw [hofs, hbyte, hchunk, List.getD_eq_getElem?_getD, List.getElem?_take_of_lt (by omega), List.getElem?_drop,
      List.getD_eq_getElem?_getD, Nat.div_add_mod]
  · have := length_chunksOf_le (b.length / 8 + 1) b
    omega

/-! ### The checks of an image do not read the transfer (Table 02-5) -/

theorem State.readSections_setImage (i : Option ImageXfer) (x : ImgSrc) (first : Bool) (l : List SecEntry) (acc : List Section) :
    (s.setImage i).readSections x first l acc = s.readSections x first l acc := by
  induction l generalizing acc with
  | nil => rfl
  | cons e l ih =>
    have hcode (y : Section) : (s.setImage i).sectionCode y first = s.sectionCode y first := rfl
    simp only [State.readSections, hcode, ih]

theorem State.imageCode_setImage (i : Option ImageXfer) (x : ImgSrc) (first : Bool) :
    (s.setImage i).imageCode x first = s.imageCode x first := by
  have hslot : (s.setImage i).slotCode x first = s.slotCode x first := rfl
  simp only [State.imageCode, hslot, State.readSections_setImage]

end Sys2Proof.Machine
end

section
/-! PROOF. The commands of an image in enrolment (spec/17, R490 to R492), and the obligation. -/

namespace Sys2Proof.Machine

variable {s u : State} {p : Nat} {a d : List Byte}

/-- An enrolment message of operation `op` that passes its check is answered with what `f` gives. -/
theorem State.serveImg_of_imgMsg {op : Nat} {ok : List Byte → Bool} {f : State → List Byte → List Byte → Nat × List Byte × State}
    (hmsg : s.imgMsg u p op a d) (hop : enrolOps.contains op = true) (hok : ok d = true) :
    s.serveImg p op ok f = (f u (a.take 16) d).2.2.reply (.enrol p a) 4 d (f u (a.take 16) d).1 (f u (a.take 16) d).2.1 := by
  obtain ⟨hdom, hopd, hz, hlen, i, k, hnext, hread, rfl, rfl⟩ := hmsg
  have hno : ¬((leAt d 1 3 != 0 || decide (d.length < 8) || !ok d) = true) := by
    simp [hz, hok]
    omega
  have hplain : (Msg.plain d).op = op := hopd
  have hcode : ¬((!enrolOps.contains (Msg.plain d).op) = true) := by
    rw [hplain, hop]
    decide
  unfold State.serveImg State.serve
  dsimp only
  rw [hdom, hnext]
  dsimp only
  rw [hread]
  dsimp only
  rw [if_neg (by decide), if_neg Bool.false_ne_true, if_neg hcode, if_pos hplain, if_neg hno]

/-! ### IMGBEGIN -/

theorem State.imgBegin_of_free {src : List Byte} {len : Nat} (hfree : u.imgRefusal src true = 0) (hlen : len ≤ 268435456) :
    u.imgBegin src len = (0, (u.eraseFrom stagedBase (ceilDiv len 4096)).setImage (some ⟨src, len, []⟩)) := by
  unfold State.imgBegin
  dsimp only
  rw [hfree, if_neg (fun h => h rfl), if_neg (by omega)]
  rfl

theorem imgbegin_begins (p : Fin 4) (hmsg : s.imgMsg u p.val 16 a d) (hlen : d.length = 12) (hfree : u.imgRefusal (a.take 16) true = 0)
    (hfit : leAt d 8 4 ≤ 268435456) :
    ∃ w : State, exec (.imgbegin p) s = .next (w.reply (.enrol p.val a) 4 d 0) ∧
      w.hosts = { u.hosts with image := some ⟨a.take 16, leAt d 8 4, []⟩ } ∧
      (∀ o, stagedBase ≤ o → o < stagedBase + leAt d 8 4 → (u.sto.sector (o / 4096)).state ≠ 2 → (u.sto.sector (o / 4096)).state ≠ 3 →
        (u.sto.sector (o / 4096)).count < u.wearLimit → w.sto.byte o = 0xFF) ∧
      (∀ o, ¬(stagedBase ≤ o ∧ o < stagedBase + 4096 * ceilDiv (leAt d 8 4) 4096) → w.sto.byte o = u.sto.byte o) ∧
      u.only w [.regs, .sto, .chn, .hosts, .events] := by
  have hbase : stagedBase = 4096 * (stagedBase / 4096) := rfl
  have herased := u.eraseFrom_erases stagedBase (ceilDiv (leAt d 8 4) 4096)
  refine ⟨(u.eraseFrom stagedBase (ceilDiv (leAt d 8 4) 4096)).setImage (some ⟨a.take 16, leAt d 8 4, []⟩), ?_, ?_, ?_, ?_, ?_⟩
  · have hserved := State.serveImg_of_imgMsg (ok := fun d => d.length == 12)
      (f := fun s a d => let x := s.imgBegin a (leAt d 8 4); (x.1, [], x.2)) hmsg (by decide) (by simp [hlen])
    dsimp only at hserved
    rw [State.imgBegin_of_free hfree hfit] at hserved
    exact congrArg Host.Outcome.next hserved
  · exact congrArg (fun x : Hosts => { x with image := some ⟨a.take 16, leAt d 8 4, []⟩ }) (herased.only .hosts (by simp))
  · intro o hlow hhigh h2 h3 hwear
    refine u.byte_eraseFrom (base := stagedBase) (Nat.div_le_div_right hlow) ?_ h2 h3 hwear
    unfold ceilDiv
    omega
  · intro o ho
    refine herased.byte o fun hin => ho ?_
    omega
  · exact State.only_trans (State.only_mono herased.only (by simp)) (by simp)

/-! ### IMGDATA -/

section
variable {x : ImageXfer} {src : List Byte} {o : Nat} {b : List Byte} (hfree : u.imgRefusal src false = 0) (himage : u.hosts.image = some x)
  (ho : o % 8 = 0) (hfit : o + b.length ≤ x.len) (hb : b.length ≤ 1024)
include hfree himage ho hfit hb

theorem State.imgData_of_free : u.imgData src o b = if x.got.contains (o, b.length) then (0, u)
    else (0, (u.stageWords o (chunksOf 8 (b.length / 8 + 1) b)).setImage (some { x with got := x.got ++ [(o, b.length)] })) := by
  unfold State.imgData
  dsimp only
  rw [hfree, if_neg (fun h => h rfl), himage]
  dsimp only
  rw [if_neg (by omega)]

end

theorem imgdata_serves (p : Fin 4) (hmsg : s.imgMsg u p.val 17 a d) (hlen : 16 ≤ d.length) (hz : leAt d 12 4 = 0) :
    exec (.imgdata p) s = .next ((u.imgData (a.take 16) (leAt d 8 4) (d.drop 16)).2.reply (.enrol p.val a) 4 d
      (u.imgData (a.take 16) (leAt d 8 4) (d.drop 16)).1) :=
  congrArg Host.Outcome.next (State.serveImg_of_imgMsg (ok := fun d => decide (16 ≤ d.length) && leAt d 12 4 == 0)
    (f := fun s a d => let x := s.imgData a (leAt d 8 4) (d.drop 16); (x.1, [], x.2)) hmsg (by decide) (by simp [hlen, hz]))

theorem imgdata_stages (p : Fin 4) {x : ImageXfer} (hmsg : s.imgMsg u p.val 17 a d) (hlen : 16 ≤ d.length) (hz : leAt d 12 4 = 0)
    (hfree : u.imgRefusal (a.take 16) false = 0) (himage : u.hosts.image = some x) (ho : leAt d 8 4 % 8 = 0)
    (hfit : leAt d 8 4 + (d.drop 16).length ≤ x.len) (hb : (d.drop 16).length ≤ 1024) :
    (x.got.contains (leAt d 8 4, (d.drop 16).length) = true → exec (.imgdata p) s = .next (u.reply (.enrol p.val a) 4 d 0)) ∧
    (x.got.contains (leAt d 8 4, (d.drop 16).length) = false →
      ∃ w : State, exec (.imgdata p) s = .next (w.reply (.enrol p.val a) 4 d 0) ∧
        w.hosts = { u.hosts with image := some { x with got := x.got ++ [(leAt d 8 4, (d.drop 16).length)] } } ∧
        (∀ i, i < (d.drop 16).length → u.sto.blank ((stagedBase + leAt d 8 4 + i) / 8) = true →
          (u.sto.sector ((stagedBase + leAt d 8 4 + i) / 4096)).state ≠ 2 → (u.sto.sector ((stagedBase + leAt d 8 4 + i) / 4096)).state ≠ 3 →
          w.sto.byte (stagedBase + leAt d 8 4 + i) = (d.drop 16).getD i 0) ∧
        (∀ j, ¬(stagedBase + leAt d 8 4 ≤ j ∧ j < stagedBase + leAt d 8 4 + 8 * ceilDiv (d.drop 16).length 8) →
          w.sto.byte j = u.sto.byte j)) := by
  have hserved := imgdata_serves p hmsg hlen hz
  have hdata := State.imgData_of_free hfree himage ho hfit hb
  refine ⟨fun hgot => ?_, fun hnew => ?_⟩
  · rw [hdata, if_pos hgot] at hserved
    exact hserved
  · rw [hdata, hnew, if_neg Bool.false_ne_true] at hserved
    obtain ⟨⟨y, hset⟩, hin, hout⟩ := u.stageWords_stages ho (d.drop 16)
    refine ⟨_, hserved, ?_, hin, hout⟩
    rw [hset]
    rfl

/-! ### IMGEND -/

theorem imgend_serves (p : Fin 4) (ok : Bool) (hmsg : s.imgMsg u p.val 18 a d) (hlen : d.length = 8) :
    exec (.imgend p ok) s = .next ((u.imgEnd (a.take 16) ok).2.2.reply (.enrol p.val a) 4 d (u.imgEnd (a.take 16) ok).1
      (if (u.imgEnd (a.take 16) ok).1 = 0 ∨ (u.imgEnd (a.take 16) ok).1 = 0x09 then [BitVec.ofNat 8 (u.imgEnd (a.take 16) ok).2.1] else [])) :=
  congrArg Host.Outcome.next (State.serveImg_of_imgMsg (ok := fun d => d.length == 8)
    (f := fun s a _ => let x := s.imgEnd a ok; (x.1, if x.1 = 0 ∨ x.1 = 0x09 then [BitVec.ofNat 8 x.2.1] else [], x.2.2))
    hmsg (by decide) (by simp [hlen]))

/-- The image of source `x` is programmed into both slots, its keys bound first on an unsigned unit. -/
def State.imageTaken (s : State) (x : ImgSrc) (first : Bool) : State :=
  let s := if first then s.bindKeys x else s
  s.setBoot ((s.boot.writeSlot 0 (x.bytes 0 (x.num 8 4))).writeSlot 1 (x.bytes 0 (x.num 8 4)))

theorem State.imageTaken_only (x : ImgSrc) (first : Bool) : s.only (s.imageTaken x first) [.boot] := by
  cases first <;> simp [State.imageTaken, State.bindKeys]

/-- The staged image is taken, its transfer ended, and a restart is due at once. -/
def State.imageEnded (s : State) : State :=
  let u := (s.setImage none).imageTaken s.stagedSrc s.unsignedUnit
  u.setBoot { u.boot with restartAt := some (u.now, 4) }

theorem State.imageEnded_only : s.only s.imageEnded [.hosts, .boot] :=
  State.only_trans (t := s.setImage none) (by simp)
    (State.only_trans (State.only_mono (State.imageTaken_only s.stagedSrc s.unsignedUnit) (by simp)) (by simp [State.imageEnded]))

theorem State.hosts_imageEnded : s.imageEnded.hosts = { s.hosts with image := none } := by
  have htaken : ((s.setImage none).imageTaken s.stagedSrc s.unsignedUnit).hosts = (s.setImage none).hosts :=
    State.imageTaken_only s.stagedSrc s.unsignedUnit .hosts (by simp)
  rw [State.imageEnded]
  exact htaken

theorem State.restartAt_imageEnded : s.imageEnded.boot.restartAt = some (s.now, 4) :=
  congrArg (fun n : BitVec 64 => some (n.toNat, 4)) (State.imageTaken_only (s := s.setImage none) s.stagedSrc s.unsignedUnit .timebase (by simp))

theorem State.imgEnd_of_bad {src : List Byte} (ok : Bool) (hfree : u.imgRefusal src false = 0)
    (hcode : u.imageCode u.stagedSrc u.unsignedUnit ≠ 0) :
    u.imgEnd src ok = (0x09, u.imageCode u.stagedSrc u.unsignedUnit, u.setImage none) := by
  have hslot : ¬(u.imageCode u.stagedSrc u.unsignedUnit = 0 ∧ (u.setImage none).boot.slotSize < u.stagedSrc.num 8 4) := fun h => hcode h.1
  unfold State.imgEnd
  dsimp only
  rw [hfree, if_neg (fun h => h rfl), State.imageCode_setImage, if_neg hslot, if_pos hcode]

theorem State.imgEnd_of_good {src : List Byte} (hfree : u.imgRefusal src false = 0)
    (hcode : u.imageCode u.stagedSrc u.unsignedUnit = 0) (hsize : u.stagedSrc.num 8 4 ≤ u.boot.slotSize) :
    u.imgEnd src true = (0, 0, u.imageEnded) := by
  have hslot : ¬(u.imageCode u.stagedSrc u.unsignedUnit = 0 ∧ (u.setImage none).boot.slotSize < u.stagedSrc.num 8 4) :=
    fun h => Nat.not_lt.mpr hsize h.2
  unfold State.imgEnd
  dsimp only
  rw [hfree, if_neg (fun h => h rfl), State.imageCode_setImage, if_neg hslot, if_neg (fun h => h hcode), if_pos rfl]
  rfl

theorem imgend_ends (p : Fin 4) (ok : Bool) (hmsg : s.imgMsg u p.val 18 a d) (hlen : d.length = 8)
    (hfree : u.imgRefusal (a.take 16) false = 0) :
    (u.imageCode u.stagedSrc u.unsignedUnit ≠ 0 → ∃ w : State,
      exec (.imgend p ok) s = .next (w.reply (.enrol p.val a) 4 d 0x09 [BitVec.ofNat 8 (u.imageCode u.stagedSrc u.unsignedUnit)]) ∧
      w.hosts = { u.hosts with image := none } ∧ u.only w [.hosts]) ∧
    (u.imageCode u.stagedSrc u.unsignedUnit = 0 → u.stagedSrc.num 8 4 ≤ u.boot.slotSize → ok = true →
      ∃ w : State, exec (.imgend p ok) s = .next (w.reply (.enrol p.val a) 4 d 0 [0]) ∧ w.hosts = { u.hosts with image := none } ∧
        w.boot.restartAt = some (s.now, 4) ∧ u.only w [.hosts, .boot]) := by
  have hserved := imgend_serves p ok hmsg hlen
  refine ⟨fun hcode => ?_, fun hcode hsize hok => ?_⟩
  · rw [State.imgEnd_of_bad ok hfree hcode] at hserved
    exact ⟨u.setImage none, hserved, rfl, by simp⟩
  · subst hok
    rw [State.imgEnd_of_good hfree hcode hsize] at hserved
    obtain ⟨-, -, -, -, i, k, -, -, -, rfl⟩ := hmsg
    have hdrop : s.only (s.dropPkt p.val false i) [.hosts] := by
      unfold State.dropPkt
      split <;> simp
    refine ⟨_, hserved, State.hosts_imageEnded, State.restartAt_imageEnded.trans ?_, State.imageEnded_only⟩
    exact congrArg (fun n : BitVec 64 => some (n.toNat, 4)) (hdrop .timebase (by simp))

/-- Settles O57: in enrolment an image is begun, staged and ended, and bulk packets leave in their window, are resent and abandoned. -/
theorem imageAndBulkTransfers : Obligations.ImageAndBulkTransfers := by
  unfold Obligations.ImageAndBulkTransfers
  refine ⟨?_, ?_, ?_, ?_, ?_, ?_⟩
  · exact fun p s u a d hmsg hlen hfree hfit => imgbegin_begins p hmsg hlen hfree hfit
  · exact fun p s u a d x hmsg hlen hz hfree himage ho hfit hb => imgdata_stages p hmsg hlen hz hfree himage ho hfit hb
  · exact fun p ok s u a d hmsg hlen hfree => imgend_ends p ok hmsg hlen hfree
  · exact fun h s b y hbulk hcur hdom hmore hwin => bulkPacketSend_sends s h hbulk hcur hdom hmore hwin
  · exact fun h s b y hbulk hcur hdom hopen hdue => bulkResendTimeout_resends s h hbulk hcur hdom hopen hdue
  · exact fun h s hnone => bulk_idle s h hnone

end Sys2Proof.Machine
end

section
/-! PROOF. The Shunto ports' registers, cards, routes and queues (spec/18, R495 to R512). -/

namespace Sys2Proof.Machine

variable (s t : State)

/-! ### Registers of the block -/

theorem chnReg_not_mem_cardRegs {a : Nat} (h : R.CHN_STAT.at ≤ a) : a ∉ cardRegs := by
  have hlow : ∀ b ∈ cardRegs, b < R.CHN_STAT.at := by decide
  exact fun ha => absurd (hlow a ha) (Nat.not_lt.mpr h)

theorem pstat_at (p : Nat) : R.CHN_P_STAT.at p = 0x02001F0100 + 0x40 * p := rfl

theorem rt_at (a : Nat) : R.CHN_RT.at a = 0x02001F1000 + 4 * a := rfl

theorem pstat_at_ne {p q : Nat} (h : q ≠ p) : R.CHN_P_STAT.at q ≠ R.CHN_P_STAT.at p := by
  rw [pstat_at, pstat_at]
  omega

theorem rt_at_ne {a b : Nat} (h : b ≠ a) : R.CHN_RT.at b ≠ R.CHN_RT.at a := by
  rw [rt_at, rt_at]
  omega

theorem rt_at_ne_pstat (a : Nat) {p : Nat} (hp : p < 3) : R.CHN_RT.at a ≠ R.CHN_P_STAT.at p := by
  rw [pstat_at, rt_at]
  omega

theorem pstat_at_ne_stat (p : Nat) : R.CHN_P_STAT.at p ≠ R.CHN_STAT.at := by
  rw [pstat_at]
  exact Nat.ne_of_gt (Nat.lt_of_lt_of_le (by decide) (Nat.le_add_right _ _))

theorem rt_at_ne_stat (a : Nat) : R.CHN_RT.at a ≠ R.CHN_STAT.at := by
  rw [rt_at]
  exact Nat.ne_of_gt (Nat.lt_of_lt_of_le (by decide) (Nat.le_add_right _ _))

/-! ### The fields of a port's status -/

/-- A field of a port's status that is put reads so; the port's other fields stand. -/
theorem State.state_fset_state (p : Nat) {v : Nat} (hv : v < 8) : (s.fset F.CHN_P_STAT_STATE v p).fget F.CHN_P_STAT_STATE p = v :=
  (s.fget_fset_self F.CHN_P_STAT_STATE v p 0 (by decide) (by decide)).trans (Nat.mod_eq_of_lt hv)

theorem State.lanes_fset_lanes (p : Nat) {v : Nat} (hv : v < 32) : (s.fset F.CHN_P_STAT_LANES v p).fget F.CHN_P_STAT_LANES p = v :=
  (s.fget_fset_self F.CHN_P_STAT_LANES v p 0 (by decide) (by decide)).trans (Nat.mod_eq_of_lt hv)

theorem State.spare_fset_spare (p : Nat) {v : Nat} (hv : v < 16) : (s.fset F.CHN_P_STAT_SPAREFOR v p).fget F.CHN_P_STAT_SPAREFOR p = v :=
  (s.fget_fset_self F.CHN_P_STAT_SPAREFOR v p 0 (by decide) (by decide)).trans (Nat.mod_eq_of_lt hv)

theorem State.partner_fset_partner (p : Nat) {v : Nat} (hv : v < 4096) :
    (s.fset F.CHN_P_STAT_PARTNER v p).fget F.CHN_P_STAT_PARTNER p = v :=
  (s.fget_fset_self F.CHN_P_STAT_PARTNER v p 0 (by decide) (by decide)).trans (Nat.mod_eq_of_lt hv)

theorem State.state_fset_lanes (p v : Nat) : (s.fset F.CHN_P_STAT_LANES v p).fget F.CHN_P_STAT_STATE p = s.fget F.CHN_P_STAT_STATE p :=
  s.fget_fset_other F.CHN_P_STAT_LANES F.CHN_P_STAT_STATE v p 0 rfl (by decide) (by decide) (by decide)

theorem State.state_fset_spare (p v : Nat) : (s.fset F.CHN_P_STAT_SPAREFOR v p).fget F.CHN_P_STAT_STATE p = s.fget F.CHN_P_STAT_STATE p :=
  s.fget_fset_other F.CHN_P_STAT_SPAREFOR F.CHN_P_STAT_STATE v p 0 rfl (by decide) (by decide) (by decide)

theorem State.state_fset_partner (p v : Nat) : (s.fset F.CHN_P_STAT_PARTNER v p).fget F.CHN_P_STAT_STATE p = s.fget F.CHN_P_STAT_STATE p :=
  s.fget_fset_other F.CHN_P_STAT_PARTNER F.CHN_P_STAT_STATE v p 0 rfl (by decide) (by decide) (by decide)

theorem State.lanes_fset_spare (p v : Nat) : (s.fset F.CHN_P_STAT_SPAREFOR v p).fget F.CHN_P_STAT_LANES p = s.fget F.CHN_P_STAT_LANES p :=
  s.fget_fset_other F.CHN_P_STAT_SPAREFOR F.CHN_P_STAT_LANES v p 0 rfl (by decide) (by decide) (by decide)

theorem State.lanes_fset_partner (p v : Nat) : (s.fset F.CHN_P_STAT_PARTNER v p).fget F.CHN_P_STAT_LANES p = s.fget F.CHN_P_STAT_LANES p :=
  s.fget_fset_other F.CHN_P_STAT_PARTNER F.CHN_P_STAT_LANES v p 0 rfl (by decide) (by decide) (by decide)

theorem State.spare_fset_partner (p v : Nat) :
    (s.fset F.CHN_P_STAT_PARTNER v p).fget F.CHN_P_STAT_SPAREFOR p = s.fget F.CHN_P_STAT_SPAREFOR p :=
  s.fget_fset_other F.CHN_P_STAT_PARTNER F.CHN_P_STAT_SPAREFOR v p 0 rfl (by decide) (by decide) (by decide)

/-- A port whose status register reads the same shows the same. -/
structure State.SameStat (s t : State) (p : Nat) : Prop where
  rd : t.rd (R.CHN_P_STAT.at p) = s.rd (R.CHN_P_STAT.at p)

variable {s t} in
theorem State.SameStat.fget {p : Nat} (h : s.SameStat t p) (f : Fld) (hf : f.reg = R.CHN_P_STAT) : t.fget f p = s.fget f p :=
  State.fget_of_rd (by rw [hf]; exact h.rd)

/-! ### Cards of a port -/

theorem State.chnCard_only (event p lane : Nat) (detail : List Byte) : s.only (s.chnCard event p lane detail) [.regs, .chn, .events] :=
  State.only_mono (s.card_only _) (by simp)

theorem State.rd_chnCard {a : Nat} (h : R.CHN_STAT.at ≤ a) (event p lane : Nat) (detail : List Byte) :
    (s.chnCard event p lane detail).rd a = s.rd a :=
  s.rd_card (chnReg_not_mem_cardRegs h) _

theorem State.fget_chnCard {f : Fld} {i j : Nat} (h : R.CHN_STAT.at ≤ f.reg.at i j) (event p lane : Nat) (detail : List Byte) :
    (s.chnCard event p lane detail).fget f i j = s.fget f i j :=
  State.fget_of_rd (s.rd_chnCard h event p lane detail)

theorem stat_le_pstat (p : Nat) : R.CHN_STAT.at ≤ R.CHN_P_STAT.at p := by
  rw [pstat_at]
  exact Nat.le_trans (by decide) (Nat.le_add_right _ _)

theorem State.sameStat_chnCard (q event p lane : Nat) (detail : List Byte) : s.SameStat (s.chnCard event p lane detail) q :=
  ⟨s.rd_chnCard (stat_le_pstat q) event p lane detail⟩

theorem State.ports_forward (on : Bool) (b : List Byte) : (s.forward on b).chn.ports = s.chn.ports := by
  cases on <;> rfl

theorem State.ports_card (c : CardArgs) : (s.card c).chn.ports = s.chn.ports := by
  have hsame (u : State) (on : Bool) (b : List Byte) (h : u.chn = s.chn) : (u.forward on b).chn.ports = s.chn.ports := by
    rw [State.ports_forward, h]
  have hite {A : Prop} [Decidable A] {u v : State} (hu : u.chn.ports = s.chn.ports) (hv : v.chn.ports = s.chn.ports) :
      (if A then u else v).chn.ports = s.chn.ports := by
    split
    · exact hu
    · exact hv
  unfold State.card State.cardAt
  dsimp only
  refine hite (hsame (s.rset R.LDG_CARDNO _) _ _ rfl) (hite (hsame (s.rset R.LDG_CARDNO _) _ _ rfl) ?_)
  exact hsame (s.rset R.LDG_CARDNO _) _ _ rfl

theorem State.port_card (c : CardArgs) (p : Nat) : (s.card c).port p = s.port p :=
  congrArg (fun l => Sparse.get (fun _ => Port.fresh) l p) (s.ports_card c)

theorem State.port_chnCard (q event p lane : Nat) (detail : List Byte) : (s.chnCard event p lane detail).port q = s.port q := s.port_card _ q

/-! ### Routes that turn (R510) -/

/-- The register at an address has a reset value that satisfies `P` when every register of its block has. -/
theorem regReset_of_block {P : Word → Prop} (hz : P 0) {a : Nat} (h : ∀ r ∈ blockRegs ((a - regBase) / 0x10000), P r.reset) :
    P (regReset a) := by
  unfold regReset
  split
  · next r i j hfind =>
    unfold findReg at hfind
    split at hfind
    · cases hfind
    · obtain ⟨q, hq, hindex⟩ := List.exists_of_findSome?_eq_some hfind
      obtain ⟨ij, -, heq⟩ := Option.map_eq_some_iff.mp hindex
      obtain ⟨rfl, -⟩ : q = r ∧ ij = (i, j) := by simpa using heq
      exact h q hq
  · exact hz

/-- A route entry that is not written has the same PRIMARY and ALT. -/
theorem alt_eq_primary_regReset {a : Nat} (ha : a < 4095) :
    getField (regReset (R.CHN_RT.at a)) 2 2 = getField (regReset (R.CHN_RT.at a)) 0 2 := by
  have hblock : blockRegs ((R.CHN_RT.at a - regBase) / 0x10000) = regsCHN := by
    have hidx : (R.CHN_RT.at a - regBase) / 0x10000 = 31 := by
      rw [rt_at, regBase]
      omega
    rw [hidx]
    rfl
  refine regReset_of_block (P := fun w => getField w 2 2 = getField w 0 2) (by decide) ?_
  rw [hblock]
  decide

theorem State.rd_of_not_mem {a : Nat} (h : ∀ x ∈ s.regs, x.1 ≠ a) : s.rd a = regReset a := by
  unfold State.rd
  generalize s.regs = l at h
  induction l with
  | nil => rfl
  | cons x l ih =>
    rw [Sparse.get, if_neg (fun he => h x (by simp) he.symm)]
    exact ih fun y hy => h y (by simp [hy])

/-- A route entry outside the written ones has the same PRIMARY and ALT. -/
theorem State.alt_of_not_mem_routes {a : Nat} (ha : a < 4095) (h : a ∉ s.routes) : s.fget F.CHN_RT_ALT a = s.fget F.CHN_RT_PRIMARY a := by
  have hrd : s.rd (R.CHN_RT.at a) = regReset (R.CHN_RT.at a) := by
    refine s.rd_of_not_mem fun x hx hxa => h ?_
    refine List.mem_map.mpr ⟨x, List.mem_filter.mpr ⟨hx, ?_⟩, ?_⟩
    · have hrange : R.CHN_RT.at ≤ x.1 ∧ x.1 < R.CHN_RT.at 4095 := by
        rw [hxa, rt_at, rt_at, rt_at]
        omega
      exact Bool.and_eq_true_iff.mpr ⟨decide_eq_true hrange.1, decide_eq_true hrange.2⟩
    · rw [hxa, rt_at, rt_at]
      omega
  have hboth := alt_eq_primary_regReset ha
  rw [← hrd] at hboth
  exact hboth

/-- PRIMARY is set to ALT for the route entries of a list. -/
def State.turnAll (s : State) (l : List Nat) : State := l.foldl (fun s a => s.fset F.CHN_RT_PRIMARY (s.fget F.CHN_RT_ALT a) a) s

theorem State.turnRoutes_eq (f : Nat → Bool) : s.turnRoutes f = s.turnAll (s.routes.filter f) := rfl

theorem State.turnAll_only (l : List Nat) : s.only (s.turnAll l) [.regs] := by
  induction l generalizing s with
  | nil => exact s.only_refl _
  | cons a l ih => exact State.only_trans (by simp) (ih _)

theorem State.rd_turnAll {l : List Nat} {b : Nat} (h : ∀ a ∈ l, b ≠ R.CHN_RT.at a) : (s.turnAll l).rd b = s.rd b := by
  induction l generalizing s with
  | nil => rfl
  | cons a l ih => exact (ih _ fun x hx => h x (by simp [hx])).trans (s.rd_fset_ne _ _ _ _ _ (h a (by simp)))

theorem State.alt_turnAll (l : List Nat) (a : Nat) : (s.turnAll l).fget F.CHN_RT_ALT a = s.fget F.CHN_RT_ALT a := by
  induction l generalizing s with
  | nil => rfl
  | cons b l ih =>
    refine (ih _).trans ?_
    by_cases hab : a = b
    · rw [hab]
      exact s.fget_fset_other F.CHN_RT_PRIMARY F.CHN_RT_ALT _ b 0 rfl (by decide) (by decide) (by decide)
    · exact s.fget_fset_ne F.CHN_RT_PRIMARY F.CHN_RT_ALT _ b 0 a 0 (rt_at_ne hab)

theorem State.primary_turnAll (l : List Nat) (a : Nat) :
    (s.turnAll l).fget F.CHN_RT_PRIMARY a = if a ∈ l then s.fget F.CHN_RT_ALT a else s.fget F.CHN_RT_PRIMARY a := by
  induction l generalizing s with
  | nil => rfl
  | cons b l ih =>
    have hturned := ih (s.fset F.CHN_RT_PRIMARY (s.fget F.CHN_RT_ALT b) b)
    refine Eq.trans hturned ?_
    have halt : (s.fset F.CHN_RT_PRIMARY (s.fget F.CHN_RT_ALT b) b).fget F.CHN_RT_ALT a = s.fget F.CHN_RT_ALT a := s.alt_turnAll [b] a
    rw [halt]
    by_cases hab : a = b
    · subst hab
      have hlt : s.fget F.CHN_RT_ALT a < 2 ^ 2 := getField_lt _ _ _
      have hself : (s.fset F.CHN_RT_PRIMARY (s.fget F.CHN_RT_ALT a) a).fget F.CHN_RT_PRIMARY a = s.fget F.CHN_RT_ALT a :=
        (s.fget_fset_self F.CHN_RT_PRIMARY _ a 0 (by decide) (by decide)).trans (Nat.mod_eq_of_lt hlt)
      rw [hself, ite_self, if_pos (by simp)]
    · have hother : (s.fset F.CHN_RT_PRIMARY (s.fget F.CHN_RT_ALT b) b).fget F.CHN_RT_PRIMARY a = s.fget F.CHN_RT_PRIMARY a :=
        s.fget_fset_ne F.CHN_RT_PRIMARY F.CHN_RT_PRIMARY _ b 0 a 0 (rt_at_ne hab)
      rw [hother]
      simp [hab]

theorem State.turnRoutes_only (f : Nat → Bool) : s.only (s.turnRoutes f) [.regs] := s.turnAll_only _

theorem State.rd_turnRoutes {b : Nat} (h : ∀ a, b ≠ R.CHN_RT.at a) (f : Nat → Bool) : (s.turnRoutes f).rd b = s.rd b :=
  s.rd_turnAll fun a _ => h a

/-- Every route entry that `f` names turns. -/
theorem State.primary_turnRoutes (f : Nat → Bool) {a : Nat} (ha : a < 4095) :
    (s.turnRoutes f).fget F.CHN_RT_PRIMARY a = if f a = true then s.fget F.CHN_RT_ALT a else s.fget F.CHN_RT_PRIMARY a := by
  rw [State.turnRoutes_eq, State.primary_turnAll]
  by_cases hf : f a = true
  · by_cases hmem : a ∈ s.routes
    · rw [if_pos (List.mem_filter.mpr ⟨hmem, hf⟩), if_pos hf]
    · rw [if_neg (fun h => hmem (List.mem_filter.mp h).1), if_pos hf, s.alt_of_not_mem_routes ha hmem]
  · rw [if_neg (fun h => hf (List.mem_filter.mp h).2), if_neg hf]

theorem pstat_ne_rt {p : Nat} (hp : p < 3) (a : Nat) : R.CHN_P_STAT.at p ≠ R.CHN_RT.at a := (rt_at_ne_pstat a hp).symm

/-! ### The STANDBY link (R510) -/

/-- An end of the STANDBY link is taken UP. -/
def State.wakePort (s : State) (p : Nat) : State := if s.fget F.CHN_P_STAT_STATE p = 5 then s.fset F.CHN_P_STAT_STATE 2 p else s

theorem State.wakeStandby_eq : s.wakeStandby = ((s.wakePort 0).wakePort 1).wakePort 2 := rfl

theorem State.wakePort_only (p : Nat) : s.only (s.wakePort p) [.regs] := by
  unfold State.wakePort
  split <;> simp

theorem State.rd_wakePort {b p : Nat} (h : b ≠ R.CHN_P_STAT.at p) : (s.wakePort p).rd b = s.rd b := by
  unfold State.wakePort
  split
  · exact s.rd_fset_ne _ _ _ _ _ h
  · rfl

theorem State.state_wakePort (p : Nat) : (s.wakePort p).fget F.CHN_P_STAT_STATE p =
    if s.fget F.CHN_P_STAT_STATE p = 5 then 2 else s.fget F.CHN_P_STAT_STATE p := by
  unfold State.wakePort
  split
  · exact s.state_fset_state p (by decide)
  · rfl

theorem State.state_wakePort_ne {p q : Nat} (h : q ≠ p) : (s.wakePort p).fget F.CHN_P_STAT_STATE q = s.fget F.CHN_P_STAT_STATE q :=
  State.fget_of_rd (s.rd_wakePort (pstat_at_ne h))

theorem State.lanes_wakePort (p q : Nat) : (s.wakePort p).fget F.CHN_P_STAT_LANES q = s.fget F.CHN_P_STAT_LANES q := by
  by_cases h : q = p
  · subst h
    unfold State.wakePort
    split
    · exact s.fget_fset_other F.CHN_P_STAT_STATE F.CHN_P_STAT_LANES _ q 0 rfl (by decide) (by decide) (by decide)
    · rfl
  · exact State.fget_of_rd (s.rd_wakePort (pstat_at_ne h))

theorem State.wakeStandby_only : s.only s.wakeStandby [.regs] := by
  rw [State.wakeStandby_eq]
  exact State.only_trans (State.only_trans (s.wakePort_only 0) (State.wakePort_only _ 1)) (State.wakePort_only _ 2)

theorem State.state_wakeStandby {q : Nat} (hq : q < 3) : s.wakeStandby.fget F.CHN_P_STAT_STATE q =
    if s.fget F.CHN_P_STAT_STATE q = 5 then 2 else s.fget F.CHN_P_STAT_STATE q := by
  rw [State.wakeStandby_eq]
  interval_cases q
  · rw [State.state_wakePort_ne _ (by decide), State.state_wakePort_ne _ (by decide), State.state_wakePort]
  · rw [State.state_wakePort_ne _ (by decide), State.state_wakePort, State.state_wakePort_ne _ (by decide)]
  · rw [State.state_wakePort, State.state_wakePort_ne _ (by decide), State.state_wakePort_ne _ (by decide)]

theorem State.lanes_wakeStandby (q : Nat) : s.wakeStandby.fget F.CHN_P_STAT_LANES q = s.fget F.CHN_P_STAT_LANES q := by
  rw [State.wakeStandby_eq, State.lanes_wakePort, State.lanes_wakePort, State.lanes_wakePort]

theorem State.rd_wakeStandby {b : Nat} (h : ∀ p, p < 3 → b ≠ R.CHN_P_STAT.at p) : s.wakeStandby.rd b = s.rd b := by
  rw [State.wakeStandby_eq, State.rd_wakePort _ (h 2 (by decide)), State.rd_wakePort _ (h 1 (by decide)), State.rd_wakePort _ (h 0 (by decide))]

/-! ### Queues (R504, R508) -/

theorem State.enqueue_only (p : Nat) (g : Seg) : s.only (s.enqueue p g) [.chn] := by simp [State.enqueue]

/-- A segment joins the queue of each port of a list. -/
def State.enqueueAll (s : State) (l : List Nat) (g : Seg) : State := l.foldl (fun s p => s.enqueue p g) s

theorem State.enqueueAll_only (l : List Nat) (g : Seg) : s.only (s.enqueueAll l g) [.chn] := by
  induction l generalizing s with
  | nil => exact s.only_refl _
  | cons p l ih => exact State.only_trans (s.enqueue_only p g) (ih _)

theorem State.port_enqueue_self (p : Nat) (g : Seg) : (s.enqueue p g).port p = { s.port p with queue := (s.port p).queue ++ [g] } :=
  s.port_setPort_self p _

theorem State.port_enqueue_ne {p q : Nat} (h : q ≠ p) (g : Seg) : (s.enqueue p g).port q = s.port q := s.port_setPort_ne h _

theorem State.port_enqueueAll_of_not_mem {l : List Nat} {q : Nat} (h : q ∉ l) (g : Seg) : (s.enqueueAll l g).port q = s.port q := by
  induction l generalizing s with
  | nil => rfl
  | cons p l ih =>
    obtain ⟨hq, hl⟩ := not_or.mp (fun hin => h (List.mem_cons.mpr hin))
    exact (ih _ hl).trans (s.port_enqueue_ne hq g)

theorem State.queue_enqueueAll {l : List Nat} (h : l.Nodup) (g : Seg) (q : Nat) :
    ((s.enqueueAll l g).port q).queue = (s.port q).queue ++ if q ∈ l then [g] else [] := by
  induction l generalizing s with
  | nil => simp [State.enqueueAll]
  | cons p l ih =>
    obtain ⟨hp, hl⟩ := List.nodup_cons.mp h
    refine (ih (s.enqueue p g) hl).trans ?_
    by_cases hq : q = p
    · subst hq
      rw [s.port_enqueue_self, if_neg hp, if_pos (by simp), List.append_nil]
    · rw [s.port_enqueue_ne hq]
      simp [hq]

theorem State.sendSeg_of_broadcast {g : Seg} (h : g.dest = 0xFFF) :
    s.sendSeg g = (true, s.enqueueAll ((List.range 3).filter (fun p => s.portUp p)) g) := if_pos h

theorem State.sendSeg_only (g : Seg) : s.only (s.sendSeg g).2 [.chn] := by
  unfold State.sendSeg
  split
  · exact s.enqueueAll_only _ g
  · split
    · exact s.enqueue_only _ g
    · exact s.only_refl _

/-! ### A port that goes DOWN (R497, R500) -/

/-- The device wraps: routes over the port turn, the STANDBY link wakes, a wrap notice goes out. -/
def State.wrapped (s : State) (p partner : Nat) : State :=
  let s := s.turnRoutes (fun a => s.fget F.CHN_RT_PRIMARY a == p)
  let s := (s.wakeStandby).fset F.CHN_STAT_TOPO 4
  let s := (s.sendSeg (s.seg 0 { dest := 0xFFF, ttype := 7, own := leBytes 2 partner } [])).2
  s.chnCard 6 p 0 (leBytes 2 partner)

theorem State.wrapped_only (p partner : Nat) : s.only (s.wrapped p partner) [.regs, .chn, .events] := by
  let t := s.turnRoutes (fun a => s.fget F.CHN_RT_PRIMARY a == p)
  let u := (t.wakeStandby).fset F.CHN_STAT_TOPO 4
  let v := (u.sendSeg (u.seg 0 { dest := 0xFFF, ttype := 7, own := leBytes 2 partner } [])).2
  have hturned : s.only t [.regs, .chn, .events] := State.only_mono (s.turnRoutes_only _) (by simp)
  have hwoken : t.only u [.regs, .chn, .events] := State.only_trans (State.only_mono t.wakeStandby_only (by simp)) (by simp [u])
  have hsent : u.only v [.regs, .chn, .events] := State.only_mono (u.sendSeg_only _) (by simp)
  exact State.only_trans (State.only_trans (State.only_trans hturned hwoken) hsent) (v.chnCard_only _ _ _ _)

theorem stat_ne_pstat (p : Nat) : R.CHN_STAT.at ≠ R.CHN_P_STAT.at p := (pstat_at_ne_stat p).symm

/-- A wrap leaves a port that is not STANDBY as it is. -/
theorem State.state_wrapped {q : Nat} (hq : q < 3) (p partner : Nat) :
    (s.wrapped p partner).fget F.CHN_P_STAT_STATE q = (if s.fget F.CHN_P_STAT_STATE q = 5 then 2 else s.fget F.CHN_P_STAT_STATE q) ∧
    (s.wrapped p partner).fget F.CHN_P_STAT_LANES q = s.fget F.CHN_P_STAT_LANES q := by
  let t := s.turnRoutes (fun a => s.fget F.CHN_RT_PRIMARY a == p)
  let u := (t.wakeStandby).fset F.CHN_STAT_TOPO 4
  let v := (u.sendSeg (u.seg 0 { dest := 0xFFF, ttype := 7, own := leBytes 2 partner } [])).2
  have hturned : s.SameStat t q := ⟨s.rd_turnRoutes (pstat_ne_rt hq) _⟩
  have htopo : t.wakeStandby.SameStat u q := ⟨State.rd_fset_ne _ _ _ _ _ _ (pstat_at_ne_stat q)⟩
  have hregs : v.regs = u.regs := u.sendSeg_only _ .regs (by simp)
  have hsent : u.SameStat v q := ⟨by rw [State.rd, State.rd, hregs]⟩
  have hcard : v.SameStat (s.wrapped p partner) q := v.sameStat_chnCard q 6 p 0 _
  constructor
  · rw [hcard.fget _ rfl, hsent.fget _ rfl, htopo.fget _ rfl, t.state_wakeStandby hq, hturned.fget _ rfl]
  · rw [hcard.fget _ rfl, hsent.fget _ rfl, htopo.fget _ rfl, t.lanes_wakeStandby q, hturned.fget _ rfl]

theorem State.portDown_eq (p : Nat) : s.portDown p =
    (let partner := s.fget F.CHN_P_STAT_PARTNER p
     let u := ((s.fset F.CHN_P_STAT_STATE 0 p).fset F.CHN_P_STAT_LANES 0 p).chnCard 2 p 0 (leBytes 2 partner)
     if u.fget F.CHN_STAT_TOPO = 2 then u.wrapped p partner else u) := rfl

theorem State.portDown_only (p : Nat) : s.only (s.portDown p) [.regs, .chn, .events] := by
  rw [State.portDown_eq]
  dsimp only
  have hdown : s.only (((s.fset F.CHN_P_STAT_STATE 0 p).fset F.CHN_P_STAT_LANES 0 p).chnCard 2 p 0
      (leBytes 2 (s.fget F.CHN_P_STAT_PARTNER p))) [.regs, .chn, .events] :=
    State.only_trans (t := (s.fset F.CHN_P_STAT_STATE 0 p).fset F.CHN_P_STAT_LANES 0 p) (by simp) (State.chnCard_only _ _ _ _ _)
  split
  · exact State.only_trans hdown (State.wrapped_only _ _ _)
  · exact hdown

/-- A port that goes DOWN shows STATE 0 and no lane. -/
theorem State.portDown_shows {p : Nat} (hp : p < 3) :
    (s.portDown p).fget F.CHN_P_STAT_STATE p = 0 ∧ (s.portDown p).fget F.CHN_P_STAT_LANES p = 0 := by
  let u := (s.fset F.CHN_P_STAT_STATE 0 p).fset F.CHN_P_STAT_LANES 0 p
  let v := u.chnCard 2 p 0 (leBytes 2 (s.fget F.CHN_P_STAT_PARTNER p))
  have hcard : u.SameStat v p := u.sameStat_chnCard p 2 p 0 _
  have hstate : v.fget F.CHN_P_STAT_STATE p = 0 := by
    rw [hcard.fget _ rfl, State.state_fset_lanes, State.state_fset_state _ _ (by decide)]
  have hlanes : v.fget F.CHN_P_STAT_LANES p = 0 := by
    rw [hcard.fget _ rfl, State.lanes_fset_lanes _ _ (by decide)]
  rw [State.portDown_eq]
  dsimp only
  split
  · obtain ⟨hwstate, hwlanes⟩ := v.state_wrapped hp p (s.fget F.CHN_P_STAT_PARTNER p)
    rw [hstate, if_neg (by decide)] at hwstate
    exact ⟨hwstate, hwlanes.trans hlanes⟩
  · exact ⟨hstate, hlanes⟩

end Sys2Proof.Machine
end

section
/-! PROOF. Training, lane failure, wrap, flits and replay of the Shunto ports (spec/18, R495 to R512), and the obligation. -/

namespace Sys2Proof.Machine

variable (s : State)

/-! ### Training (R495, R496) -/

/-- What good lanes make of a port: STATE, LANES and SPAREFOR; none where it stays DOWN. -/
def trainPlan (good : Nat) : Option (Nat × Nat × Nat) :=
  match (List.range 4).filter (fun k => !bit good k) with
  | [] => some (2, 0xF, 0xF)
  | [k] => if bit good 4 then some (2, 0x1F - 2 ^ k, k) else some (3, if k < 2 then 0xC else 3, 0xF)
  | _ =>
    if bit good 0 && bit good 1 then some (3, 3, 0xF)
    else if bit good 2 && bit good 3 then some (3, 0xC, 0xF)
    else none

theorem trainPlan_of_all : ∀ good : Fin 32, good.val % 16 = 15 → trainPlan good.val = some (2, 15, 15) := by decide

theorem trainPlan_of_spare : ∀ k : Fin 4, trainPlan (31 - 2 ^ k.val) = some (2, 31 - 2 ^ k.val, k.val) := by decide

theorem trainPlan_of_low : ∀ good : Fin 32, good.val % 4 = 3 → good.val / 4 % 4 ≠ 3 → good.val < 16 → trainPlan good.val = some (3, 3, 15) := by
  decide

theorem trainPlan_of_high : ∀ good : Fin 32, good.val / 4 % 4 = 3 → good.val % 4 ≠ 3 → good.val < 16 →
    trainPlan good.val = some (3, 12, 15) := by
  decide

theorem trainPlan_of_none : ∀ good : Fin 32, good.val % 4 ≠ 3 → good.val / 4 % 4 ≠ 3 → trainPlan good.val = none := by decide

/-- Port `p` is trained with partner `a`. -/
def State.trained (s : State) (p st lanes spare a : Nat) : State :=
  ((((s.fset F.CHN_P_STAT_STATE st p).fset F.CHN_P_STAT_LANES lanes p).fset F.CHN_P_STAT_SPAREFOR spare p).fset
    F.CHN_P_STAT_PARTNER a p).chnCard 1 p 0 (leBytes 2 a)

theorem State.trained_only (p st lanes spare a : Nat) : s.only (s.trained p st lanes spare a) [.regs, .chn, .events] :=
  State.only_trans (t := (((s.fset F.CHN_P_STAT_STATE st p).fset F.CHN_P_STAT_LANES lanes p).fset F.CHN_P_STAT_SPAREFOR spare p).fset
    F.CHN_P_STAT_PARTNER a p) (by simp) (State.chnCard_only _ _ _ _ _)

theorem State.trained_shows (p : Nat) {st lanes spare a : Nat} (hst : st < 8) (hl : lanes < 32) (hsp : spare < 16) (ha : a < 4096) :
    (s.trained p st lanes spare a).fget F.CHN_P_STAT_STATE p = st ∧ (s.trained p st lanes spare a).fget F.CHN_P_STAT_LANES p = lanes ∧
    (s.trained p st lanes spare a).fget F.CHN_P_STAT_SPAREFOR p = spare ∧
    (s.trained p st lanes spare a).fget F.CHN_P_STAT_PARTNER p = a := by
  have hcard := State.sameStat_chnCard ((((s.fset F.CHN_P_STAT_STATE st p).fset F.CHN_P_STAT_LANES lanes p).fset
    F.CHN_P_STAT_SPAREFOR spare p).fset F.CHN_P_STAT_PARTNER a p) p 1 p 0 (leBytes 2 a)
  refine ⟨(hcard.fget _ rfl).trans ?_, (hcard.fget _ rfl).trans ?_, (hcard.fget _ rfl).trans ?_, (hcard.fget _ rfl).trans ?_⟩
  · rw [State.state_fset_partner, State.state_fset_spare, State.state_fset_lanes, State.state_fset_state _ _ hst]
  · rw [State.lanes_fset_partner, State.lanes_fset_spare, State.lanes_fset_lanes _ _ hl]
  · rw [State.spare_fset_partner, State.spare_fset_spare _ _ hsp]
  · rw [State.partner_fset_partner _ _ ha]

theorem execPortTraining_of_partner (p : Fin 3) (a : Fin 4096) (good : Fin 32) (hen : bit (s.fget F.CHN_CTL_PORTEN) p.val = true)
    (hdom : s.domOn 6 = true) : exec (.portTraining p (some a) good) s = .next
      ((trainPlan good.val).elim (s.portDown p.val) (fun x => s.trained p.val x.1 x.2.1 x.2.2 a.val)) := by
  have hgo : ¬((!bit (s.fget F.CHN_CTL_PORTEN) p.val || !s.domOn 6) = true) := by simp [hen, hdom]
  change execPortTraining p (some a) good s = _
  unfold execPortTraining trainPlan
  dsimp only
  rw [if_neg hgo]
  generalize (List.range 4).filter (fun k => !bit good.val k) = bad
  rcases bad with _ | ⟨k, _ | ⟨j, bad⟩⟩
  · rfl
  · dsimp only
    split <;> rfl
  · dsimp only
    split
    · rfl
    · split <;> rfl

theorem portTraining_trains (p : Fin 3) (a : Fin 4096) (good : Fin 32) (hen : bit (s.fget F.CHN_CTL_PORTEN) p.val = true)
    (hdom : s.domOn 6 = true) : ∃ t, exec (.portTraining p (some a) good) s = .next t ∧ s.only t [.regs, .chn, .events] ∧
      (good.val % 16 = 15 → t.fget F.CHN_P_STAT_STATE p.val = 2 ∧ t.fget F.CHN_P_STAT_LANES p.val = 15 ∧
        t.fget F.CHN_P_STAT_SPAREFOR p.val = 15 ∧ t.fget F.CHN_P_STAT_PARTNER p.val = a.val) ∧
      (∀ k, k < 4 → good.val = 31 - 2 ^ k → t.fget F.CHN_P_STAT_STATE p.val = 2 ∧ t.fget F.CHN_P_STAT_LANES p.val = 31 - 2 ^ k ∧
        t.fget F.CHN_P_STAT_SPAREFOR p.val = k) ∧
      (good.val % 4 = 3 → good.val / 4 % 4 ≠ 3 → good.val < 16 → t.fget F.CHN_P_STAT_STATE p.val = 3 ∧ t.fget F.CHN_P_STAT_LANES p.val = 3) ∧
      (good.val / 4 % 4 = 3 → good.val % 4 ≠ 3 → good.val < 16 → t.fget F.CHN_P_STAT_STATE p.val = 3 ∧ t.fget F.CHN_P_STAT_LANES p.val = 12) ∧
      (good.val % 4 ≠ 3 → good.val / 4 % 4 ≠ 3 → t.fget F.CHN_P_STAT_STATE p.val = 0) := by
  refine ⟨_, execPortTraining_of_partner s p a good hen hdom, ?_, fun h => ?_, fun k hk h => ?_, fun h h' h'' => ?_, fun h h' h'' => ?_,
    fun h h' => ?_⟩
  · cases trainPlan good.val with
    | none => exact s.portDown_only p.val
    | some x => exact s.trained_only _ _ _ _ _
  · rw [trainPlan_of_all good h]
    exact s.trained_shows p.val (by decide) (by decide) (by decide) a.isLt
  · have hplan := trainPlan_of_spare ⟨k, hk⟩
    have hsmall : 31 - 2 ^ k < 32 := by omega
    obtain ⟨hstate, hlanes, hspare, -⟩ := s.trained_shows p.val (st := 2) (by decide) hsmall (show k < 16 by omega) a.isLt
    rw [h, hplan]
    exact ⟨hstate, hlanes, hspare⟩
  · obtain ⟨hstate, hlanes, -, -⟩ := s.trained_shows p.val (st := 3) (lanes := 3) (spare := 15) (by decide) (by decide) (by decide) a.isLt
    rw [trainPlan_of_low good h h' h'']
    exact ⟨hstate, hlanes⟩
  · obtain ⟨hstate, hlanes, -, -⟩ := s.trained_shows p.val (st := 3) (lanes := 12) (spare := 15) (by decide) (by decide) (by decide) a.isLt
    rw [trainPlan_of_high good h h' h'']
    exact ⟨hstate, hlanes⟩
  · rw [trainPlan_of_none good h h']
    exact (s.portDown_shows p.isLt).1

theorem portTrainRetry_trains (p : Fin 3) (hen : bit (s.fget F.CHN_CTL_PORTEN) p.val = true) (hdom : s.domOn 6 = true)
    (hst : s.fget F.CHN_P_STAT_STATE p.val ≤ 1) : ∃ t, exec (.portTrainRetry p) s = .next t ∧ t.fget F.CHN_P_STAT_STATE p.val = 1 ∧
      s.only t [.regs] ∧ s.regsOnly t [R.CHN_P_STAT.at p.val] :=
  ⟨_, congrArg Host.Outcome.next (if_pos (by simp [hen, hdom, hst])), s.state_fset_state p.val (by decide), by simp,
    fun a ha => s.rd_fset_ne _ _ _ _ a (List.ne_of_not_mem_cons ha)⟩

/-! ### Lane failure (R497) -/

/-- The port sends again from its oldest flit that is not acknowledged. -/
def State.sendAgain (s : State) (p : Nat) : State := s.setPort p { s.port p with replayFrom := ((s.port p).unacked.head?).map (·.1) }

/-- The logical lane that fails with lane `k`, and the good pair that is left. -/
def lostLane (k spare : Nat) : Nat := if k = 4 then spare else k
def pairOk (k spare q : Nat) : Bool := if q = 0 then decide (2 ≤ lostLane k spare) else decide (lostLane k spare < 2)
def goodPair (k spare : Nat) : Nat := if pairOk k spare 0 then 0 else 1

/-- The lanes of a pair, lane 4 for the one it stands for. -/
def pairLanes (k spare q : Nat) : Nat := ([2 * q, 2 * q + 1]).foldl (fun m l => m + (if k ≠ 4 ∧ spare = l then 16 else 2 ^ l)) 0

/-- Of the two pairs one does not hold the lost lane. -/
theorem pairOk_goodPair (k spare : Nat) : pairOk k spare (goodPair k spare) = true := by
  unfold goodPair
  split
  · next h => exact h
  · next h =>
    rw [pairOk, if_pos rfl, decide_eq_true_iff] at h
    rw [pairOk, if_neg (by decide), decide_eq_true_iff]
    exact Nat.lt_of_not_le h

theorem execLaneFail_of_up (p : Fin 3) (k : Fin 5) (hlane : bit (s.fget F.CHN_P_STAT_LANES p.val) k.val = true)
    (hup : s.fget F.CHN_P_STAT_STATE p.val = 2 ∨ s.fget F.CHN_P_STAT_STATE p.val = 3) : exec (.laneFail p k) s = .next
      (if s.fget F.CHN_P_STAT_STATE p.val = 3 then s.portDown p.val
       else if s.fget F.CHN_P_STAT_SPAREFOR p.val = 0xF ∧ k.val < 4 then
         (((s.fset F.CHN_P_STAT_LANES (s.fget F.CHN_P_STAT_LANES p.val - 2 ^ k.val + 16) p.val).fset F.CHN_P_STAT_SPAREFOR k.val
           p.val).sendAgain p.val).chnCard 3 p.val k.val (leBytes 2 k.val)
       else (((s.fset F.CHN_P_STAT_STATE 3 p.val).fset F.CHN_P_STAT_LANES
         (pairLanes k.val (s.fget F.CHN_P_STAT_SPAREFOR p.val) (goodPair k.val (s.fget F.CHN_P_STAT_SPAREFOR p.val))) p.val).sendAgain
         p.val).chnCard 4 p.val k.val (leBytes 2 (goodPair k.val (s.fget F.CHN_P_STAT_SPAREFOR p.val)))) := by
  have hgo : ¬((!bit (s.fget F.CHN_P_STAT_LANES p.val) k.val || (s.fget F.CHN_P_STAT_STATE p.val != 2 &&
      s.fget F.CHN_P_STAT_STATE p.val != 3)) = true) := by
    rcases hup with h | h <;> simp [hlane, h]
  change execLaneFail p k s = _
  unfold execLaneFail
  dsimp only
  rw [if_neg hgo]
  refine congrArg Host.Outcome.next (if_congr Iff.rfl rfl (if_congr Iff.rfl rfl ?_))
  exact if_pos (pairOk_goodPair k.val (s.fget F.CHN_P_STAT_SPAREFOR p.val))

theorem State.sendAgain_stat (p q : Nat) : s.SameStat (s.sendAgain p) q := ⟨rfl⟩

theorem laneFail_falls (p : Fin 3) (k : Fin 5) (hlane : bit (s.fget F.CHN_P_STAT_LANES p.val) k.val = true) :
    (s.fget F.CHN_P_STAT_STATE p.val = 2 → s.fget F.CHN_P_STAT_SPAREFOR p.val = 15 → s.fget F.CHN_P_STAT_LANES p.val = 15 →
      ∃ t, exec (.laneFail p k) s = .next t ∧ t.fget F.CHN_P_STAT_STATE p.val = 2 ∧ t.fget F.CHN_P_STAT_LANES p.val = 31 - 2 ^ k.val ∧
        t.fget F.CHN_P_STAT_SPAREFOR p.val = k.val ∧ (t.port p.val).replayFrom = ((s.port p.val).unacked.head?).map (·.1)) ∧
    (s.fget F.CHN_P_STAT_STATE p.val = 2 → s.fget F.CHN_P_STAT_SPAREFOR p.val < 4 →
      ∃ t, exec (.laneFail p k) s = .next t ∧ t.fget F.CHN_P_STAT_STATE p.val = 3) ∧
    (s.fget F.CHN_P_STAT_STATE p.val = 3 → ∃ t, exec (.laneFail p k) s = .next t ∧ t.fget F.CHN_P_STAT_STATE p.val = 0 ∧
      t.fget F.CHN_P_STAT_LANES p.val = 0) := by
  refine ⟨fun hst hspare hlanes => ?_, fun hst hspare => ?_, fun hst => ?_⟩
  · have hexec := execLaneFail_of_up s p k hlane (.inl hst)
    have hk : k.val < 4 := by
      rw [hlanes] at hlane
      have hall : ∀ k : Fin 5, bit 15 k.val = true → k.val < 4 := by decide
      exact hall k hlane
    have hnew : ∀ k : Fin 5, k.val < 4 → 15 - 2 ^ k.val + 16 = 31 - 2 ^ k.val := by decide
    rw [if_neg (by omega), if_pos ⟨hspare, hk⟩, hlanes, hnew k hk] at hexec
    refine ⟨_, hexec, ?_, ?_, ?_, ?_⟩
    · rw [(State.sameStat_chnCard _ _ _ _ _ _).fget _ rfl, (State.sendAgain_stat _ _ _).fget _ rfl, State.state_fset_spare,
        State.state_fset_lanes, hst]
    · rw [(State.sameStat_chnCard _ _ _ _ _ _).fget _ rfl, (State.sendAgain_stat _ _ _).fget _ rfl, State.lanes_fset_spare,
        State.lanes_fset_lanes _ _ (Nat.lt_of_le_of_lt (Nat.sub_le 31 _) (by decide))]
    · rw [(State.sameStat_chnCard _ _ _ _ _ _).fget _ rfl, (State.sendAgain_stat _ _ _).fget _ rfl, State.spare_fset_spare _ _ (by omega)]
    · rw [State.port_chnCard, State.sendAgain, State.port_setPort_self]
      rfl
  · have hexec := execLaneFail_of_up s p k hlane (.inl hst)
    rw [if_neg (by omega), if_neg (by omega)] at hexec
    refine ⟨_, hexec, ?_⟩
    rw [(State.sameStat_chnCard _ _ _ _ _ _).fget _ rfl, (State.sendAgain_stat _ _ _).fget _ rfl, State.state_fset_lanes,
      State.state_fset_state _ _ (by decide)]
  · have hexec := execLaneFail_of_up s p k hlane (.inr hst)
    rw [if_pos hst] at hexec
    exact ⟨_, hexec, s.portDown_shows p.isLt⟩

/-! ### Wrap notices (R510) -/

theorem State.takeSeg_only (p : Nat) (g : Seg) : s.only (s.takeSeg p g) [.chn] := by simp [State.takeSeg]

theorem State.segs_takeSeg (p : Nat) (g : Seg) : ((s.takeSeg p g).port p).segs = (s.port p).segs.erase g := by
  rw [State.takeSeg, State.port_setPort_self]

/-- A state with the same chain part has the same ports. -/
theorem State.port_of_only {s t : State} {l : List Part} (h : s.only t l) (hl : Part.chn ∉ l) (p : Nat) : t.port p = s.port p :=
  congrArg (fun c : Chn => Sparse.get (fun _ => Port.fresh) c.ports p) (h .chn hl)

theorem wrapNotice_wraps (p : Fin 3) (crossing : List (Fin 4095)) (g : Seg)
    (hfind : (s.port p.val).segs.find? (fun g => g.ttype == 7) = some g) :
    ∃ t, exec (.wrapNotice p crossing) s = .next t ∧ (t.port p.val).segs = (s.port p.val).segs.erase g ∧ t.fget F.CHN_STAT_TOPO = 4 ∧
      (∀ a : Fin 4095, t.fget F.CHN_RT_PRIMARY a.val = if a ∈ crossing then s.fget F.CHN_RT_ALT a.val else s.fget F.CHN_RT_PRIMARY a.val) ∧
      (∀ q, q < 3 → s.fget F.CHN_P_STAT_STATE q = 5 → t.fget F.CHN_P_STAT_STATE q = 2) ∧ s.only t [.regs, .chn] := by
  let crosses (a : Nat) : Bool := crossing.any (fun c => c.val == a)
  let u := s.takeSeg p.val g
  let v := u.turnRoutes crosses
  let w := v.wakeStandby
  have hexec : exec (.wrapNotice p crossing) s = .next (w.fset F.CHN_STAT_TOPO 4) := by
    change execWrapNotice p crossing s = _
    unfold execWrapNotice
    rw [hfind]
  have hturned : u.only v [.regs] := u.turnRoutes_only crosses
  have hwoken : v.only w [.regs] := v.wakeStandby_only
  refine ⟨_, hexec, ?_, w.fget_fset_self F.CHN_STAT_TOPO 4 0 0 (by decide) (by decide), fun a => ?_, fun q hq hstandby => ?_, ?_⟩
  · have hport : (w.fset F.CHN_STAT_TOPO 4).port p.val = u.port p.val :=
      (State.port_of_only hwoken (by simp) p.val).trans (State.port_of_only hturned (by simp) p.val)
    rw [hport]
    exact s.segs_takeSeg p.val g
  · have htopo : (w.fset F.CHN_STAT_TOPO 4).fget F.CHN_RT_PRIMARY a.val = w.fget F.CHN_RT_PRIMARY a.val :=
      State.fget_fset_ne _ _ _ _ _ _ _ _ (rt_at_ne_stat a.val)
    have hwake : w.fget F.CHN_RT_PRIMARY a.val = v.fget F.CHN_RT_PRIMARY a.val :=
      State.fget_of_rd (v.rd_wakeStandby fun p hp => rt_at_ne_pstat a.val hp)
    have hin : crosses a.val = true ↔ a ∈ crossing := by
      simp only [crosses, List.any_eq_true, beq_iff_eq]
      exact ⟨fun ⟨c, hc, hca⟩ => Fin.ext hca ▸ hc, fun h => ⟨a, h, rfl⟩⟩
    have hturn : v.fget F.CHN_RT_PRIMARY a.val = if crosses a.val = true then u.fget F.CHN_RT_ALT a.val else u.fget F.CHN_RT_PRIMARY a.val :=
      u.primary_turnRoutes crosses a.isLt
    rw [htopo, hwake, hturn]
    exact if_congr hin rfl rfl
  · have htopo : w.SameStat (w.fset F.CHN_STAT_TOPO 4) q := ⟨w.rd_fset_ne _ _ _ _ _ (pstat_at_ne_stat q)⟩
    have hturn : u.SameStat v q := ⟨u.rd_turnRoutes (pstat_ne_rt hq) crosses⟩
    have hu : u.fget F.CHN_P_STAT_STATE q = 5 := hstandby
    rw [htopo.fget _ rfl, v.state_wakeStandby hq, hturn.fget _ rfl, hu, if_pos rfl]
  · have htaken : s.only u [.chn] := s.takeSeg_only p.val g
    exact State.only_trans (State.only_mono htaken (by simp))
      (State.only_trans (State.only_mono (State.only_trans hturned hwoken) (by simp)) (by simp))

end Sys2Proof.Machine
end

section
/-! PROOF. Flits of the Shunto ports: received, replayed and sent (spec/18, R498 to R504, R526), and the obligation. -/

namespace Sys2Proof.Machine

variable (s : State)

/-! ### Received flits (R498 to R501) -/

/-- A port once the piggybacked word `pig` has acknowledged flits and returned credits. -/
def Port.acked (x : Port) (pig : Nat) : Port :=
  let ack := pig % 65536
  let gone := x.unacked.filter (fun u => decide (0 < toSigned 16 (ack + 65536 - u.1)))
  let cvc := bits pig 16 2
  { x with
    unacked := x.unacked.filter (fun u => !gone.contains u),
    replays := if gone = [] then x.replays else 0,
    credits := setAt x.credits cvc (x.credits.getD cvc 0 + bits pig 18 6) }

theorem Port.unacked_acked (x : Port) (pig : Nat) :
    (x.acked pig).unacked = x.unacked.filter (fun u => decide (toSigned 16 (pig % 65536 + 65536 - u.1) ≤ 0)) := by
  refine List.filter_congr fun u hu => ?_
  by_cases h : 0 < toSigned 16 (pig % 65536 + 65536 - u.1)
  · have hgone : u ∈ x.unacked.filter (fun u => decide (0 < toSigned 16 (pig % 65536 + 65536 - u.1))) :=
      List.mem_filter.mpr ⟨hu, decide_eq_true h⟩
    rw [List.contains_iff_mem.mpr hgone, decide_eq_false (not_le.mpr h)]
    rfl
  · have hstays : ¬u ∈ x.unacked.filter (fun u => decide (0 < toSigned 16 (pig % 65536 + 65536 - u.1))) :=
      fun hin => h (of_decide_eq_true (List.mem_filter.mp hin).2)
    rw [decide_eq_true (not_lt.mp h), Bool.not_eq_true', ← Bool.not_eq_true, List.contains_iff_mem]
    exact hstays

theorem Port.replays_acked_le (x : Port) (pig : Nat) : (x.acked pig).replays ≤ x.replays := by
  unfold Port.acked
  dsimp only
  split
  · exact Nat.le_refl _
  · exact Nat.zero_le _

/-- What a numbered flit of virtual channel `vc` leaves of port `x`. -/
def State.flitTaken (s : State) (p : Nat) (x : Port) (vc kind : Nat) (last : Bool) (body : List Byte) : State :=
  let got := Sparse.get (fun _ => []) x.rx vc ++ [(kind, body)]
  let x := { x with rxCount := (x.rxCount + 1) % 65536 }
  if last then
    let x := { x with rx := Sparse.put (fun _ => []) x.rx vc [] }
    match got with
    | (2, body) :: t => (s.setPort p x).routeSeg p ⟨vc, body, t.map (·.2)⟩
    | _ => s.setPort p { x with owed := setAt x.owed vc (x.owed.getD vc 0 + got.length) }
  else s.setPort p { x with rx := Sparse.put (fun _ => []) x.rx vc got }

section
variable (p : Fin 3) (flit : List Byte) (num : Half) (ctl : Option LinkCtl) (sw : Bool)
  (hup : 2 ≤ s.fget F.CHN_P_STAT_STATE p.val)
include hup

theorem execFlitReceive_of_bad (hbad : (!sw && crc32 ((padTo 64 flit).take 60) == leAt (padTo 64 flit) 60 4) = false) :
    exec (.flitReceive p flit num ctl sw []) s = .next
      (let u := if sw then (s.count R.CHN_P_CRCERR 1 p.val).count R.CHN_P_BUBLOST 1 p.val else s.count R.CHN_P_CRCERR 1 p.val
       u.setPort p.val { u.port p.val with nak := true }) := by
  have hcrc : (sw || crc32 ((padTo 64 flit).take 60) != leAt (padTo 64 flit) 60 4) = true := by
    cases sw
    · simpa using hbad
    · rfl
  change execFlitReceive p flit num ctl sw [] s = _
  unfold execFlitReceive
  simp only [List.take_nil, List.zipIdx_nil, List.foldl_nil]
  rw [if_neg (Nat.not_lt.mpr hup), if_pos hcrc]

theorem flitReceive_counts_bad (hbad : (!sw && crc32 ((padTo 64 flit).take 60) == leAt (padTo 64 flit) 60 4) = false) :
    ∃ t, exec (.flitReceive p flit num ctl sw []) s = .next t ∧ t.port p.val = { s.port p.val with nak := true } ∧
      t.rget R.CHN_P_CRCERR p.val = satAdd 32 (s.rget R.CHN_P_CRCERR p.val) 1 ∧
      t.rget R.CHN_P_BUBLOST p.val = satAdd 32 (s.rget R.CHN_P_BUBLOST p.val) (b2n sw) ∧ s.only t [.regs, .chn] := by
  have hcrcerr : R.CHN_P_CRCERR.at p.val ≠ R.CHN_P_BUBLOST.at p.val := by
    simp only [RegDesc.at, R.CHN_P_CRCERR, R.CHN_P_BUBLOST]
    omega
  have hkeep : (s.count R.CHN_P_CRCERR 1 p.val).rget R.CHN_P_BUBLOST p.val = s.rget R.CHN_P_BUBLOST p.val :=
    congrArg BitVec.toNat (s.rd_count_ne _ _ _ _ _ hcrcerr.symm)
  refine ⟨_, execFlitReceive_of_bad s p flit num ctl sw hup hbad, ?_⟩
  cases sw with
  | true =>
    let v := s.count R.CHN_P_CRCERR 1 p.val
    refine ⟨State.port_setPort_self _ _ _, ?_, ?_, by simp⟩
    · exact (congrArg BitVec.toNat (v.rd_count_ne _ _ _ _ _ hcrcerr)).trans (s.rget_count_self R.CHN_P_CRCERR 1 p.val 0)
    · refine (v.rget_count_self R.CHN_P_BUBLOST 1 p.val 0).trans ?_
      rw [hkeep]
      rfl
  | false =>
    refine ⟨State.port_setPort_self _ _ _, s.rget_count_self R.CHN_P_CRCERR 1 p.val 0, hkeep.trans ?_, by simp⟩
    have hlt : s.rget R.CHN_P_BUBLOST p.val < 2 ^ 32 := BitVec.isLt _
    unfold satAdd
    rw [if_pos (show s.rget R.CHN_P_BUBLOST p.val + b2n false < 2 ^ 32 from hlt)]
    rfl

variable (hgood : (!sw && crc32 ((padTo 64 flit).take 60) == leAt (padTo 64 flit) 60 4) = true)
include hgood

theorem execFlitReceive_of_good : exec (.flitReceive p flit num ctl sw []) s = .next
    (let b := padTo 64 flit
     let x := (s.port p.val).acked (leAt b 1 3)
     let u := s.setPort p.val x
     if bits (leAt b 0 1) 2 3 = 1 then (match ctl with | some c => u.linkCtl p.val c | none => u)
     else if (bits (leAt b 0 1) 2 3 ≠ 2 ∧ bits (leAt b 0 1) 2 3 ≠ 3) ∨ 4 ≤ s.fget F.CHN_P_STAT_STATE p.val ∨ num.toNat ≠ x.rxCount then u
     else u.flitTaken p.val x (leAt b 0 1 % 4) (bits (leAt b 0 1) 2 3) (bit (leAt b 0 1) 5) ((b.drop 4).take 56)) := by
  have hcrc : ¬((sw || crc32 ((padTo 64 flit).take 60) != leAt (padTo 64 flit) 60 4) = true) := by
    cases sw
    · simpa using hgood
    · simp at hgood
  change execFlitReceive p flit num ctl sw [] s = _
  unfold execFlitReceive
  simp only [List.take_nil, List.zipIdx_nil, List.foldl_nil]
  rw [if_neg (Nat.not_lt.mpr hup), if_neg hcrc]
  rfl

/-- A null flit acknowledges and returns credits. -/
theorem flitReceive_acknowledges (hkind : bits (leAt (padTo 64 flit) 0 1) 2 3 = 0) :
    ∃ t, exec (.flitReceive p flit num ctl sw []) s = .next t ∧ s.only t [.chn] ∧
      (t.port p.val).unacked =
        (s.port p.val).unacked.filter (fun u => decide (toSigned 16 (leAt (padTo 64 flit) 1 3 % 65536 + 65536 - u.1) ≤ 0)) ∧
      (t.port p.val).credits = setAt (s.port p.val).credits (bits (leAt (padTo 64 flit) 1 3) 16 2)
        ((s.port p.val).credits.getD (bits (leAt (padTo 64 flit) 1 3) 16 2) 0 + bits (leAt (padTo 64 flit) 1 3) 18 6) ∧
      (t.port p.val).rxCount = (s.port p.val).rxCount ∧ ∀ q, q ≠ p.val → t.port q = s.port q := by
  have hexec := execFlitReceive_of_good s p flit num ctl sw hup hgood
  dsimp only at hexec
  rw [if_neg (by omega), if_pos (.inl (by omega))] at hexec
  refine ⟨_, hexec, by simp, ?_⟩
  rw [State.port_setPort_self]
  exact ⟨Port.unacked_acked _ _, rfl, rfl, fun q hq => s.port_setPort_ne hq _⟩

end

/-! ### Replay (R499) -/

theorem State.replay_of_few {p no k : Nat}
    (hk : (if (s.port p).replayNo = no ∧ (s.port p).replays ≠ 0 then (s.port p).replays + 1 else 1) = k) (hlt : k < 8) :
    s.replay p no = (s.setPort p { s.port p with replayFrom := some no, replayNo := no, replays := k }).count R.CHN_P_REPLAY 1 p := by
  subst hk
  exact if_neg (Nat.not_le.mpr hlt)

theorem State.replay_of_many {p no k : Nat}
    (hk : (if (s.port p).replayNo = no ∧ (s.port p).replays ≠ 0 then (s.port p).replays + 1 else 1) = k) (hge : 8 ≤ k) :
    s.replay p no =
      ((s.setPort p { s.port p with replayFrom := some no, replayNo := no, replays := k }).count R.CHN_P_REPLAY 1 p).retrain p := by
  subst hk
  exact if_pos hge

/-- A port that trains too often goes DOWN. -/
theorem State.state_retrain {p : Nat} (hp : p < 3) : (s.retrain p).fget F.CHN_P_STAT_STATE p =
    if 2 ≤ ((s.port p).trainings.filter (fun t => decide (s.now < t + 1000000000))).length then 0 else 1 := by
  have hnow : ((s.port p).trainings ++ [s.now]).filter (fun t => decide (s.now < t + 1000000000)) =
      (s.port p).trainings.filter (fun t => decide (s.now < t + 1000000000)) ++ [s.now] := by
    rw [List.filter_append, List.filter_cons_of_pos (by simp), List.filter_nil]
  unfold State.retrain
  dsimp only
  rw [hnow, List.length_append, List.length_singleton]
  by_cases h : 2 ≤ ((s.port p).trainings.filter (fun t => decide (s.now < t + 1000000000))).length
  · rw [if_pos h, if_pos (by omega)]
    exact (State.portDown_shows _ hp).1
  · rw [if_neg h, if_neg (by omega)]
    exact State.state_fset_state _ p (by decide)

theorem replayTimeout_replays (p : Fin 3) {u : Nat × List Byte} {rest : List (Nat × List Byte)}
    (hunacked : (s.port p.val).unacked = u :: rest) {k : Nat}
    (hk : (if (s.port p.val).replayNo = u.1 ∧ (s.port p.val).replays ≠ 0 then (s.port p.val).replays + 1 else 1) = k) :
    (k < 8 → ∃ t, exec (.replayTimeout p) s = .next t ∧
      t.port p.val = { s.port p.val with replayFrom := some u.1, replayNo := u.1, replays := k } ∧
      t.rget R.CHN_P_REPLAY p.val = satAdd 32 (s.rget R.CHN_P_REPLAY p.val) 1 ∧ s.only t [.regs, .chn] ∧
      s.regsOnly t [R.CHN_P_REPLAY.at p.val]) ∧
    (8 ≤ k → ∃ t, exec (.replayTimeout p) s = .next t ∧ t.fget F.CHN_P_STAT_STATE p.val =
      if 2 ≤ ((s.port p.val).trainings.filter (fun t => decide (s.now < t + 1000000000))).length then 0 else 1) := by
  have hexec : exec (.replayTimeout p) s = .next (s.replay p.val u.1) := by
    change execReplayTimeout p s = _
    unfold execReplayTimeout
    rw [hunacked]
  refine ⟨fun hlt => ?_, fun hge => ?_⟩
  · let x : Port := { s.port p.val with replayFrom := some u.1, replayNo := u.1, replays := k }
    rw [s.replay_of_few hk hlt] at hexec
    refine ⟨_, hexec, s.port_setPort_self p.val x, (s.setPort p.val x).rget_count_self R.CHN_P_REPLAY 1 p.val 0, by simp, fun a ha => ?_⟩
    exact (s.setPort p.val x).rd_count_ne _ _ _ _ _ (List.ne_of_not_mem_cons ha)
  · let x : Port := { s.port p.val with replayFrom := some u.1, replayNo := u.1, replays := k }
    let v := (s.setPort p.val x).count R.CHN_P_REPLAY 1 p.val
    rw [s.replay_of_many hk hge] at hexec
    have hport : v.port p.val = x := s.port_setPort_self p.val x
    have hstate := v.state_retrain p.isLt
    rw [hport] at hstate
    exact ⟨_, hexec, hstate⟩

section
variable (p : Fin 3) (flit : List Byte) (num : Half) (ctl : Option LinkCtl) (sw : Bool)
  (hup : 2 ≤ s.fget F.CHN_P_STAT_STATE p.val)
  (hgood : (!sw && crc32 ((padTo 64 flit).take 60) == leAt (padTo 64 flit) 60 4) = true)
include hup hgood

/-- A NAK has the port replay from its number. -/
theorem flitReceive_replays (hkind : bits (leAt (padTo 64 flit) 0 1) 2 3 = 1) {n : Half} (hctl : ctl = some (.nak n))
    (hfew : (s.port p.val).replays < 7) : ∃ t, exec (.flitReceive p flit num ctl sw []) s = .next t ∧
      (t.port p.val).replayFrom = some n.toNat ∧ t.rget R.CHN_P_REPLAY p.val = satAdd 32 (s.rget R.CHN_P_REPLAY p.val) 1 := by
  subst hctl
  let x := (s.port p.val).acked (leAt (padTo 64 flit) 1 3)
  let u := s.setPort p.val x
  have hport : u.port p.val = x := s.port_setPort_self p.val x
  have hle : x.replays ≤ (s.port p.val).replays := Port.replays_acked_le _ _
  have hexec := execFlitReceive_of_good s p flit num (some (.nak n)) sw hup hgood
  dsimp only at hexec
  rw [if_pos hkind] at hexec
  have hreplay := u.replay_of_few (p := p.val) (no := n.toNat) rfl (by
    rw [hport]
    split <;> omega)
  refine ⟨_, hexec.trans (congrArg Host.Outcome.next hreplay), ?_, State.rget_count_self _ R.CHN_P_REPLAY 1 p.val 0⟩
  exact congrArg Port.replayFrom (u.port_setPort_self p.val _)

section
variable (hst : s.fget F.CHN_P_STAT_STATE p.val < 4) (hnum : num.toNat = (s.port p.val).rxCount)
include hst hnum

theorem flitReceive_takes (hkind : bits (leAt (padTo 64 flit) 0 1) 2 3 = 2 ∨ bits (leAt (padTo 64 flit) 0 1) 2 3 = 3) :
    exec (.flitReceive p flit num ctl sw []) s = .next
      ((s.setPort p.val ((s.port p.val).acked (leAt (padTo 64 flit) 1 3))).flitTaken p.val
        ((s.port p.val).acked (leAt (padTo 64 flit) 1 3)) (leAt (padTo 64 flit) 0 1 % 4) (bits (leAt (padTo 64 flit) 0 1) 2 3)
        (bit (leAt (padTo 64 flit) 0 1) 5) (((padTo 64 flit).drop 4).take 56)) := by
  have hexec := execFlitReceive_of_good s p flit num ctl sw hup hgood
  have hin : ¬((bits (leAt (padTo 64 flit) 0 1) 2 3 ≠ 2 ∧ bits (leAt (padTo 64 flit) 0 1) 2 3 ≠ 3) ∨
      4 ≤ s.fget F.CHN_P_STAT_STATE p.val ∨ num.toNat ≠ ((s.port p.val).acked (leAt (padTo 64 flit) 1 3)).rxCount) := by
    have hrx : ((s.port p.val).acked (leAt (padTo 64 flit) 1 3)).rxCount = (s.port p.val).rxCount := rfl
    omega
  dsimp only at hexec
  rwa [if_neg (by omega), if_neg hin] at hexec

/-- A flit in order that does not end its segment joins it. -/
theorem flitReceive_joins (hkind : bits (leAt (padTo 64 flit) 0 1) 2 3 = 2 ∨ bits (leAt (padTo 64 flit) 0 1) 2 3 = 3)
    (hmore : bit (leAt (padTo 64 flit) 0 1) 5 = false) : ∃ t, exec (.flitReceive p flit num ctl sw []) s = .next t ∧
      (t.port p.val).rxCount = ((s.port p.val).rxCount + 1) % 65536 ∧
      Sparse.get (fun _ => []) (t.port p.val).rx (leAt (padTo 64 flit) 0 1 % 4) =
        Sparse.get (fun _ => []) (s.port p.val).rx (leAt (padTo 64 flit) 0 1 % 4) ++
          [(bits (leAt (padTo 64 flit) 0 1) 2 3, ((padTo 64 flit).drop 4).take 56)] ∧ s.only t [.chn] := by
  have hexec := flitReceive_takes s p flit num ctl sw hup hgood hst hnum hkind
  rw [hmore] at hexec
  refine ⟨_, hexec, ?_⟩
  unfold State.flitTaken
  dsimp only
  rw [if_neg Bool.false_ne_true, State.port_setPort_self]
  exact ⟨rfl, Sparse.get_put_self _ _ _ _, by simp⟩

/-- A segment of one flit for this device is kept. -/
theorem flitReceive_keeps (hkind : bits (leAt (padTo 64 flit) 0 1) 2 3 = 2) (hlast : bit (leAt (padTo 64 flit) 0 1) 5 = true)
    (hfirst : Sparse.get (fun _ => []) (s.port p.val).rx (leAt (padTo 64 flit) 0 1 % 4) = []) {g : Seg}
    (hg : (⟨leAt (padTo 64 flit) 0 1 % 4, ((padTo 64 flit).drop 4).take 56, []⟩ : Seg) = g) (htype : g.ttype ≠ 5)
    (hvalid : s.flag F.CHN_STAT_ADDRVALID = true) (hdest : g.dest = s.chainAddr) :
    ∃ t, exec (.flitReceive p flit num ctl sw []) s = .next t ∧ (t.port p.val).rxCount = ((s.port p.val).rxCount + 1) % 65536 ∧
      (t.port p.val).segs = (s.port p.val).segs ++ [g] ∧ s.only t [.chn] := by
  let x := (s.port p.val).acked (leAt (padTo 64 flit) 1 3)
  let y : Port := { x with rxCount := (x.rxCount + 1) % 65536, rx := Sparse.put (fun _ => []) x.rx (leAt (padTo 64 flit) 0 1 % 4) [] }
  let u := s.setPort p.val x
  let v := u.setPort p.val y
  have hkeep : v.routeSeg p.val g = v.setPort p.val { v.port p.val with segs := (v.port p.val).segs ++ [g] } := by
    have hvv : ¬((!v.flag F.CHN_STAT_ADDRVALID) = true) := by
      rw [show v.flag F.CHN_STAT_ADDRVALID = true from hvalid]
      decide
    unfold State.routeSeg
    dsimp only
    rw [if_neg htype, if_neg hvv, if_pos (show g.dest = v.chainAddr from hdest)]
  have hexec := flitReceive_takes s p flit num ctl sw hup hgood hst hnum (.inl hkind)
  have htaken : u.flitTaken p.val x (leAt (padTo 64 flit) 0 1 % 4) 2 true (((padTo 64 flit).drop 4).take 56) = v.routeSeg p.val g := by
    have hrx : Sparse.get (fun _ => []) x.rx (leAt (padTo 64 flit) 0 1 % 4) = [] := hfirst
    unfold State.flitTaken
    dsimp only
    rw [hrx, if_pos rfl, ← hg]
    rfl
  rw [hkind, hlast] at hexec
  refine ⟨_, hexec.trans (congrArg Host.Outcome.next (htaken.trans hkeep)), ?_⟩
  have hport : v.port p.val = y := u.port_setPort_self p.val y
  rw [State.port_setPort_self, hport]
  exact ⟨rfl, rfl, by simp [u, v]⟩

end
end

/-! ### Sent flits (R499, R503, R504) -/

theorem Port.giveBack_owed (x : Port) : ∃ o, x.giveBack.2.2 = { x with owed := o } := by
  unfold Port.giveBack
  split
  · exact ⟨x.owed, rfl⟩
  · exact ⟨_, rfl⟩

theorem Port.load_loads (x : Port) (vc : Nat) : ∃ q l, x.load vc = { x with queue := q, sending := l } := by
  unfold Port.load
  split
  · exact ⟨x.queue, x.sending, rfl⟩
  · dsimp only
    split
    · exact ⟨x.queue, x.sending, rfl⟩
    · exact ⟨_, _, rfl⟩

/-- What begins does not turn on the credits owed and the flit to resend. -/
theorem Port.load_owed (x : Port) (vc : Nat) (o : List Nat) (r : Option Nat) :
    ({ x with owed := o, replayFrom := r } : Port).load vc = { x.load vc with owed := o, replayFrom := r } := by
  unfold Port.load
  by_cases h : x.left vc ≠ []
  · rw [if_pos h]
    exact if_pos h
  · rw [if_neg h]
    refine (if_neg h).trans ?_
    dsimp only
    cases x.queue.filter (fun g => g.vc == vc) <;> rfl

theorem State.loadForwards_of_none (hfwd : s.chn.fwd = []) (p : Nat) : s.loadForwards p = s := if_pos (.inl hfwd)

/-- What a port sends that has no NAK to send: a flit to replay, a new flit, or a null flit. -/
def State.sendFlit (s : State) (p : Nat) (x : Port) : State :=
  let g := x.giveBack
  let pig := (g.1, g.2.1)
  let x := g.2.2
  match x.replayFrom.bind (fun k => x.unacked.find? (fun u => u.1 == k)) with
  | some u =>
    let next := (u.1 + 1) % 65536
    let x := { x with replayFrom := if x.unacked.any (fun v => v.1 == next) then some next else none }
    let f := (u.2.headD 0).toNat
    (s.setPort p x).send (0x90 + p) 0 (flitBytes (f % 4) (bits f 2 3) (bit f 5) x.rxCount pig.1 pig.2 (u.2.drop 1))
  | none =>
    let x := { x with replayFrom := none }
    match (if x.unacked.length < 256 then x.pick else none) with
    | none => (s.setPort p x).send (0x90 + p) 0 (flitBytes 0 0 false x.rxCount pig.1 pig.2 [])
    | some vc =>
      let r1 := x.ready 1
      let r3 := x.ready 3
      let x := x.load vc
      match x.left vc with
      | [] => s
      | (kind, last, body) :: t =>
        let x := { x with
          sending := Sparse.put (fun _ => []) x.sending vc t,
          credits := setAt x.credits vc (x.credits.getD vc 0 - 1),
          unacked := x.unacked ++ [(x.nextNo, BitVec.ofNat 8 (vc + 4 * kind + 32 * last) :: padTo 56 body)],
          nextNo := (x.nextNo + 1) % 65536,
          starve1 := if vc = 1 ∨ r1 = false then 0 else x.starve1 + 1,
          starve3 := if vc = 3 ∨ r3 = false then 0 else x.starve3 + 1 }
        (s.setPort p x).send (0x90 + p) 0 (flitBytes vc kind (last == 1) x.rxCount pig.1 pig.2 body)

/-- What a flit of port `p` leaves, the port being `y`. -/
theorem State.sent_shows (p : Nat) (y : Port) (code kind : Nat) (b : List Byte) :
    ((s.setPort p y).send code kind b).tx = s.tx ++ [⟨code, kind, b⟩] ∧ ((s.setPort p y).send code kind b).port p = y ∧
    s.only ((s.setPort p y).send code kind b) [.chn, .tx] :=
  ⟨rfl, s.port_setPort_self p y, by simp⟩

section
variable {x : Port} (p : Nat)

theorem State.sendFlit_of_replay {k : Nat} {u : Nat × List Byte} (hreplay : x.replayFrom = some k)
    (hfind : x.unacked.find? (fun u => u.1 == k) = some u) : ∃ y : Port, y.unacked = x.unacked ∧
      s.sendFlit p x = (s.setPort p y).send (0x90 + p) 0 (flitBytes ((u.2.headD 0).toNat % 4) (bits (u.2.headD 0).toNat 2 3)
        (bit (u.2.headD 0).toNat 5) x.rxCount x.giveBack.1 x.giveBack.2.1 (u.2.drop 1)) := by
  obtain ⟨o, ho⟩ := x.giveBack_owed
  have hbind : x.replayFrom.bind (fun k => x.unacked.find? (fun u => u.1 == k)) = some u := by rw [hreplay, Option.bind_some, hfind]
  refine ⟨{ x with owed := o, replayFrom := if x.unacked.any (fun v => v.1 == (u.1 + 1) % 65536) then some ((u.1 + 1) % 65536) else none },
    rfl, ?_⟩
  unfold State.sendFlit
  dsimp only
  rw [ho]
  dsimp only
  rw [hbind]

variable (hreplay : x.replayFrom = none)
include hreplay

theorem State.sendFlit_of_none (hpick : x.pick = none) : ∃ y : Port, y.unacked = x.unacked ∧ s.sendFlit p x =
    (s.setPort p y).send (0x90 + p) 0 (flitBytes 0 0 false x.rxCount x.giveBack.1 x.giveBack.2.1 []) := by
  obtain ⟨o, ho⟩ := x.giveBack_owed
  have hnone : ({ x with owed := o, replayFrom := none } : Port).pick = none := hpick
  have hbind : x.replayFrom.bind (fun k => x.unacked.find? (fun u => u.1 == k)) = none := by rw [hreplay, Option.bind_none]
  refine ⟨{ x with owed := o, replayFrom := none }, rfl, ?_⟩
  unfold State.sendFlit
  dsimp only
  rw [ho]
  dsimp only
  rw [hbind]
  dsimp only
  rw [hnone, ite_self]

theorem State.sendFlit_of_new {vc kind last : Nat} {body : List Byte} {rest : List (Nat × Nat × List Byte)}
    (hfew : x.unacked.length < 256) (hpick : x.pick = some vc) (hleft : (x.load vc).left vc = (kind, last, body) :: rest) :
    ∃ y : Port, y.unacked = x.unacked ++ [(x.nextNo, BitVec.ofNat 8 (vc + 4 * kind + 32 * last) :: padTo 56 body)] ∧
      y.nextNo = (x.nextNo + 1) % 65536 ∧ y.credits = setAt x.credits vc (x.credits.getD vc 0 - 1) ∧ y.left vc = rest ∧
      s.sendFlit p x = (s.setPort p y).send (0x90 + p) 0
        (flitBytes vc kind (last == 1) x.rxCount x.giveBack.1 x.giveBack.2.1 body) := by
  obtain ⟨o, ho⟩ := x.giveBack_owed
  obtain ⟨q, l, hload⟩ := x.load_loads vc
  let z : Port := { x with owed := o, replayFrom := none }
  let w : Port := { x with queue := q, sending := l, owed := o, replayFrom := none }
  have hsome : z.pick = some vc := hpick
  have hbind : x.replayFrom.bind (fun k => x.unacked.find? (fun u => u.1 == k)) = none := by rw [hreplay, Option.bind_none]
  have hbegun : z.load vc = w := by
    have hkept := x.load_owed vc o none
    rw [hload] at hkept
    exact hkept
  have hw : w.left vc = (kind, last, body) :: rest := by
    rw [hload] at hleft
    exact hleft
  refine ⟨{ w with
      sending := Sparse.put (fun _ => []) w.sending vc rest,
      credits := setAt w.credits vc (w.credits.getD vc 0 - 1),
      unacked := w.unacked ++ [(w.nextNo, BitVec.ofNat 8 (vc + 4 * kind + 32 * last) :: padTo 56 body)],
      nextNo := (w.nextNo + 1) % 65536,
      starve1 := if vc = 1 ∨ z.ready 1 = false then 0 else w.starve1 + 1,
      starve3 := if vc = 3 ∨ z.ready 3 = false then 0 else w.starve3 + 1 }, rfl, rfl, rfl, Sparse.get_put_self _ _ _ _, ?_⟩
  unfold State.sendFlit
  dsimp only
  rw [ho]
  dsimp only
  rw [hbind]
  dsimp only
  rw [if_pos hfew]
  change (match z.pick with | none => _ | some vc => _) = _
  rw [hsome]
  dsimp only
  change (match (z.load vc).left vc with | [] => s | (kind, last, body) :: t => _) = _
  rw [hbegun, hw]

end

theorem execFlitSend_of_up (p : Fin 3) (hup : s.fget F.CHN_P_STAT_STATE p.val = 2 ∨ s.fget F.CHN_P_STAT_STATE p.val = 3)
    (hfwd : s.chn.fwd = []) : exec (.flitSend p) s = .next
      (if (s.port p.val).nak then
        (s.setPort p.val { s.port p.val with nak := false }).send (0x90 + p.val) 1 (leBytes 2 (s.port p.val).rxCount)
       else s.sendFlit p.val (s.port p.val)) := by
  change execFlitSend p s = _
  unfold execFlitSend
  dsimp only
  rw [if_neg (by omega), if_neg (by omega), s.loadForwards_of_none hfwd]
  rfl

section
variable (p : Fin 3) (hup : s.fget F.CHN_P_STAT_STATE p.val = 2 ∨ s.fget F.CHN_P_STAT_STATE p.val = 3) (hfwd : s.chn.fwd = [])
include hup hfwd

theorem flitSend_sends_nak (hnak : (s.port p.val).nak = true) : exec (.flitSend p) s = .next
    ((s.setPort p.val { s.port p.val with nak := false }).send (0x90 + p.val) 1 (leBytes 2 (s.port p.val).rxCount)) :=
  (execFlitSend_of_up s p hup hfwd).trans (congrArg Host.Outcome.next (if_pos hnak))

variable (hnak : (s.port p.val).nak = false)
include hnak

theorem execFlitSend_of_quiet : exec (.flitSend p) s = .next (s.sendFlit p.val (s.port p.val)) :=
  (execFlitSend_of_up s p hup hfwd).trans (congrArg Host.Outcome.next (if_neg (by rw [hnak]; decide)))

theorem flitSend_replays {k : Nat} {u : Nat × List Byte} (hreplay : (s.port p.val).replayFrom = some k)
    (hfind : (s.port p.val).unacked.find? (fun u => u.1 == k) = some u) : ∃ t c n, exec (.flitSend p) s = .next t ∧
      t.tx = s.tx ++ [⟨0x90 + p.val, 0, flitBytes ((u.2.headD 0).toNat % 4) (bits (u.2.headD 0).toNat 2 3) (bit (u.2.headD 0).toNat 5)
        (s.port p.val).rxCount c n (u.2.drop 1)⟩] ∧ (t.port p.val).unacked = (s.port p.val).unacked ∧ s.only t [.chn, .tx] := by
  obtain ⟨y, hy, hsent⟩ := s.sendFlit_of_replay p.val hreplay hfind
  obtain ⟨htx, hport, honly⟩ := s.sent_shows p.val y (0x90 + p.val) 0 (flitBytes ((u.2.headD 0).toNat % 4) (bits (u.2.headD 0).toNat 2 3)
    (bit (u.2.headD 0).toNat 5) (s.port p.val).rxCount (s.port p.val).giveBack.1 (s.port p.val).giveBack.2.1 (u.2.drop 1))
  exact ⟨_, _, _, (execFlitSend_of_quiet s p hup hfwd hnak).trans (congrArg Host.Outcome.next hsent), htx, by rw [hport, hy], honly⟩

variable (hreplay : (s.port p.val).replayFrom = none)
include hreplay

theorem flitSend_sends_null (hpick : (s.port p.val).pick = none) : ∃ t c n, exec (.flitSend p) s = .next t ∧
    t.tx = s.tx ++ [⟨0x90 + p.val, 0, flitBytes 0 0 false (s.port p.val).rxCount c n []⟩] ∧
    (t.port p.val).unacked = (s.port p.val).unacked ∧ s.only t [.chn, .tx] := by
  obtain ⟨y, hy, hsent⟩ := s.sendFlit_of_none p.val hreplay hpick
  obtain ⟨htx, hport, honly⟩ := s.sent_shows p.val y (0x90 + p.val) 0
    (flitBytes 0 0 false (s.port p.val).rxCount (s.port p.val).giveBack.1 (s.port p.val).giveBack.2.1 [])
  exact ⟨_, _, _, (execFlitSend_of_quiet s p hup hfwd hnak).trans (congrArg Host.Outcome.next hsent), htx, by rw [hport, hy], honly⟩

theorem flitSend_sends_new {vc kind last : Nat} {body : List Byte} {rest : List (Nat × Nat × List Byte)}
    (hfew : (s.port p.val).unacked.length < 256) (hpick : (s.port p.val).pick = some vc)
    (hleft : ((s.port p.val).load vc).left vc = (kind, last, body) :: rest) : ∃ t c n, exec (.flitSend p) s = .next t ∧
      t.tx = s.tx ++ [⟨0x90 + p.val, 0, flitBytes vc kind (last == 1) (s.port p.val).rxCount c n body⟩] ∧
      (t.port p.val).unacked = (s.port p.val).unacked ++
        [((s.port p.val).nextNo, BitVec.ofNat 8 (vc + 4 * kind + 32 * last) :: padTo 56 body)] ∧
      (t.port p.val).nextNo = ((s.port p.val).nextNo + 1) % 65536 ∧
      (t.port p.val).credits = setAt (s.port p.val).credits vc ((s.port p.val).credits.getD vc 0 - 1) ∧
      (t.port p.val).left vc = rest ∧ s.only t [.chn, .tx] := by
  obtain ⟨y, hunacked, hnext, hcredits, hrest, hsent⟩ := s.sendFlit_of_new p.val hreplay hfew hpick hleft
  obtain ⟨htx, hport, honly⟩ := s.sent_shows p.val y (0x90 + p.val) 0
    (flitBytes vc kind (last == 1) (s.port p.val).rxCount (s.port p.val).giveBack.1 (s.port p.val).giveBack.2.1 body)
  refine ⟨_, _, _, (execFlitSend_of_quiet s p hup hfwd hnak).trans (congrArg Host.Outcome.next hsent), htx, ?_⟩
  rw [hport]
  exact ⟨hunacked, hnext, hcredits, hrest, honly⟩

end

/-- A port whose partner is in Recess sends WAKE while a segment waits. -/
theorem flitSend_sends_wake (p : Fin 3) {g : Seg} {rest : List Seg} (hst : s.fget F.CHN_P_STAT_STATE p.val = 4) (hdom : s.domOn 6 = true)
    (hqueue : (s.port p.val).queue = g :: rest) : exec (.flitSend p) s = .next (s.send (0x90 + p.val) 3 (leBytes 2 g.dest)) := by
  change execFlitSend p s = _
  unfold execFlitSend
  dsimp only
  rw [if_pos hst, if_pos hdom, hqueue]

/-- Settles O58: ports train by their lanes and fall back, flits are received, replayed and sent, and a wrap notice turns the routes. -/
theorem shuntoPortsTrainSendReceiveAndReplay : Obligations.ShuntoPortsTrainSendReceiveAndReplay := by
  unfold Obligations.ShuntoPortsTrainSendReceiveAndReplay
  refine ⟨?_, ?_, ?_, ?_, ?_, ?_, ?_, ?_⟩
  · exact fun p a good s hen hdom => portTraining_trains s p a good hen hdom
  · exact fun p s hen hdom hst => portTrainRetry_trains s p hen hdom hst
  · exact fun p k s hlane => laneFail_falls s p k hlane
  · exact fun p crossing s g hfind => wrapNotice_wraps s p crossing g hfind
  · intro p flit num ctl sw s b x vc kind ok hup
    refine ⟨fun hbad => ?_, fun hgood hkind => ?_, fun hgood hkind n hctl hfew => ?_, fun hgood hkind hst hnum hmore => ?_,
      fun hgood hkind hst hnum hlast hfirst => ?_⟩
    · exact flitReceive_counts_bad s p flit num ctl sw hup hbad
    · exact flitReceive_acknowledges s p flit num ctl sw hup hgood hkind
    · exact flitReceive_replays s p flit num ctl sw hup hgood hkind hctl hfew
    · exact flitReceive_joins s p flit num ctl sw hup hgood hst hnum hkind hmore
    · exact fun htype hvalid hdest => flitReceive_keeps s p flit num ctl sw hup hgood hst hnum hkind hlast hfirst rfl htype hvalid hdest
  · exact fun p s u rest hunacked => replayTimeout_replays s p hunacked rfl
  · intro p s hup hfwd x
    refine ⟨fun hnak => ?_, fun k u hnak hreplay hfind => ?_, fun hnak hreplay hpick => ?_,
      fun vc kind last body rest hnak hreplay hfew hpick hleft => ?_⟩
    · exact flitSend_sends_nak s p hup hfwd hnak
    · exact flitSend_replays s p hup hfwd hnak hreplay hfind
    · exact flitSend_sends_null s p hup hfwd hnak hreplay hpick
    · exact flitSend_sends_new s p hup hfwd hnak hreplay hfew hpick hleft
  · exact fun p s g rest hst hdom hqueue => flitSend_sends_wake s p hst hdom hqueue

end Sys2Proof.Machine
end

section
/-! PROOF. A segment that fails end to end halts the COPY of its flight's stream (spec/18, R517), and what the statement of O59 overlooks:
it quantifies over flights whose owner names no stream of the device. -/

namespace Sys2Proof.Machine

variable (s : State)

/-- A completion with a status other than 0 fails the segment's flight. -/
theorem execSegmentCompletion_of_failure (p : Fin 3) {g : Seg} {f : Flight} (hseg : s.firstSeg p.val (fun g => g.ttype == 4) = some g)
    (hflight : s.chn.flights.find? (fun f => f.xfer == g.xfer && f.ofs == g.ofs) = some f) (hst : leAt g.own 0 1 ≠ 0) :
    exec (.segmentCompletion p) s = .next ((s.takeSeg p.val g).flightFails f (leAt g.own 0 1) 4) := by
  have htaken : (s.takeSeg p.val g).chn.flights.find? (fun f => f.xfer == g.xfer && f.ofs == g.ofs) = some f := hflight
  change execSegmentCompletion p s = _
  unfold execSegmentCompletion
  rw [hseg]
  dsimp only
  rw [htaken]
  dsimp only
  rw [if_pos hst]

/-- A failed flight of a stream fails its COPY; what comes before leaves the streams. -/
theorem State.flightFails_of_stream {f : Flight} (h : f.owner ≠ 0x100) (status result : Nat) :
    ∃ u : State, u.streams = s.streams ∧ s.flightFails f status result = u.failCopy (f.owner / 8) (f.owner % 8) := by
  let t := (s.setChn { s.chn with flights := s.chn.flights.filter (fun x => x.owner != f.owner) }).count R.CHN_E2EFAIL
  exact ⟨_, (t.chnCard_only _ _ _ _) .streams (by simp), if_neg h⟩

theorem State.failCopy_of_run {n cls : Nat} {p : Prog} (hrun : (s.stream n).run = some p) (hcls : p.start.cls = cls) :
    ∃ slot handle, s.failCopy n cls = s.halt n 0x0C slot handle 0 := by
  unfold State.failCopy
  dsimp only
  rw [hrun]
  exact ⟨_, _, if_pos hcls⟩

/-- A halt shows the program counter in its stream's register, whatever the stream's number. -/
theorem State.rd_haltpc_stopRun {n : Nat} (hcard : R.ENG_S_HALTPC.at n ∉ cardRegs) (p : Prog) (reason slot handle vaddr : Nat) :
    (s.stopRun n p reason slot handle vaddr).rd (R.ENG_S_HALTPC.at n) = BitVec.ofNat 32 p.pc := by
  let t := (s.unlockProg n p).abandonArrivals n
  have hshown : (t.showHalt n p reason slot).rd (R.ENG_S_HALTPC.at n) = BitVec.ofNat 32 p.pc := State.rd_wr_self _ _ _
  have hcompletion := (State.rd_of_only ((t.showHalt n p reason slot).addCompletion_only n p 1 reason p.pc) (by simp)
    (R.ENG_S_HALTPC.at n)).trans hshown
  rw [State.stopRun, State.rd_of_only (State.setStream_only _ _ _) (by simp), State.haltProg_eq,
    State.rd_of_only (State.dropStarts_only _ _ _) (by simp), State.rd_of_only (State.setStream_only _ _ _) (by simp), State.reportHalt]
  split
  · exact hcompletion
  · rw [State.rd_card _ hcard]
    exact hcompletion

/-! ### A state the statement does not exclude -/

/-- A completion with status 1 for transfer 0 at offset 0. -/
def failedCompletion : Seg := ⟨0, [0, 0, 0, 0, 4] ++ List.replicate 27 0 ++ [1], []⟩

/-- A flight that names stream 51201, class 0: the register ENG_S_HALTPC of that number is CHN_E2EFAIL. -/
def strayFlight : Flight := ⟨8 * 51201, 0, 0, failedCompletion, 0, false⟩

/-- The program of that stream, at word 7. -/
def strayProg : Prog := { Prog.ofStart ⟨0, 0, 0, 51201, 0, 0xFF, false, false, 0⟩ with pc := 7 }

def strayState : State :=
  { State.reset with
    chn := { Chn.fresh with ports := [(0, { Port.fresh with segs := [failedCompletion] })], flights := [strayFlight] },
    streams := [(51201, { Stream.idle with run := some strayProg })] }

theorem strayHaltpc_at : R.ENG_S_HALTPC.at 51201 = R.CHN_E2EFAIL.at := rfl

theorem strayState_e2efail : strayState.rget R.CHN_E2EFAIL = 0 := by decide

/-- The halt of the stray program writes its program counter over the count. -/
theorem strayState_completes : ∃ t, exec (.segmentCompletion 0) strayState = .next t ∧ t.rget R.CHN_E2EFAIL = 7 := by
  have hexec := execSegmentCompletion_of_failure strayState 0 (g := failedCompletion) (f := strayFlight) rfl rfl (by decide)
  obtain ⟨u, hstreams, hfails⟩ := State.flightFails_of_stream (strayState.takeSeg 0 failedCompletion) (f := strayFlight) (by decide)
    (leAt failedCompletion.own 0 1) 4
  have hrun : (u.stream 51201).run = some strayProg := by
    rw [State.stream, hstreams]
    rfl
  obtain ⟨slot, handle, hhalt⟩ := u.failCopy_of_run (cls := 0) hrun rfl
  have hstopped : u.failCopy (strayFlight.owner / 8) (strayFlight.owner % 8) = u.stopRun 51201 strayProg 0x0C slot handle 0 :=
    hhalt.trans ((State.halt_of_some 0x0C slot handle 0 hrun).trans (if_neg (by decide)))
  refine ⟨_, hexec.trans (congrArg Host.Outcome.next (hfails.trans hstopped)), ?_⟩
  exact congrArg BitVec.toNat (u.rd_haltpc_stopRun (n := 51201) (by decide) strayProg 0x0C slot handle 0)

/-- Refutes O59: a failed completion is to add 1 to CHN_E2EFAIL for every flight, but a flight whose owner names stream 51201, a number the
device does not have, halts that stream's program, and the halt writes its program counter over the count. -/
theorem not_chainRollCallSegmentsMessagesAndTime : ¬ Obligations.ChainRollCallSegmentsMessagesAndTime := by
  unfold Obligations.ChainRollCallSegmentsMessagesAndTime
  rintro ⟨-, -, -, -, -, hcompletion, -⟩
  obtain ⟨t, hexec, hcount⟩ := strayState_completes
  obtain ⟨t', hexec', hcount', -⟩ := (hcompletion 0 strayState failedCompletion strayFlight rfl rfl).2 (by decide)
  cases hexec.symm.trans hexec'
  rw [hcount, strayState_e2efail] at hcount'
  exact absurd hcount' (by decide)

end Sys2Proof.Machine
end

section
/-! PROOF. LRP messages: what the check makes of them, and how a command serves the next one of its port (spec/17, R474 to R476). -/

namespace Sys2Proof.Machine

variable (s : State)

/-! ### The state once a message is taken -/

theorem State.dropPkt_only (p : Nat) (urgent : Bool) (i : Nat) : s.only (s.dropPkt p urgent i) [.hosts] := by
  unfold State.dropPkt
  split
  · simp
  · split <;> simp

theorem State.joinRings_only (h : Nat) (l : List Nat) : s.only (l.foldl (fun s q => s.joinRing q h) s) [.rings] :=
  List.foldlRecOn (motive := fun u : State => s.only u [.rings]) _ _ (s.only_refl _) fun _ hu _ _ =>
    State.only_trans hu (by simp [State.joinRing])

/-- What the note of an accepted counter changes: the host, its cursors, and HOST_STAT.SESS. -/
theorem State.acceptMsg_changes (h number c : Nat) : s.only (s.acceptMsg h number c) [.regs, .hosts, .rings] ∧
    s.regsOnly (s.acceptMsg h number c) [R.HOST_STAT.at] := by
  have hjoin (u : State) (hu : s.only u [.regs, .hosts, .rings] ∧ s.regsOnly u [R.HOST_STAT.at]) (l : List Nat) :
      s.only (l.foldl (fun s q => s.joinRing q h) u) [.regs, .hosts, .rings] ∧
        s.regsOnly (l.foldl (fun s q => s.joinRing q h) u) [R.HOST_STAT.at] := by
    have hrings := u.joinRings_only h l
    exact ⟨State.only_trans hu.1 (State.only_mono hrings (by simp)),
      fun a ha => (State.rd_of_only hrings (by simp) a).trans (hu.2 a ha)⟩
  unfold State.acceptMsg
  dsimp only
  split
  · split
    · exact ⟨by simp, fun _ _ => rfl⟩
    · exact hjoin (s.setHostX h _) ⟨by simp, fun _ _ => rfl⟩ _
  · refine hjoin (State.fset (s.setHostX h _) F.HOST_STAT_SESS _) ⟨by simp, fun a ha => ?_⟩ _
    exact (State.rd_fset_ne _ _ _ _ _ a (List.ne_of_not_mem_cons ha)).trans rfl

/-- A sealed message that passes the check is one of host A to D. -/
theorem State.host_le_of_secured {p : Nat} {k : Pkt} {h n c : Nat} {d : List Byte} (hread : s.readMsg p k = .secured h n c d) : h ≤ 3 := by
  have hchecked {x : Nat} (hx : s.checkSealed p x k = .secured h n c d) : h = x := by
    unfold State.checkSealed at hx
    dsimp only at hx
    split at hx
    · cases hx
    · split at hx
      · cases hx
      · split at hx
        · cases hx
          rfl
        · cases hx
  unfold State.readMsg at hread
  dsimp only at hread
  split at hread
  · cases hread
  · next hhead =>
    have hhost : leAt k.bytes 6 1 ≤ 3 := by omega
    split at hread
    · split at hread <;> cases hread
    · split at hread
      · split at hread
        · cases hread
        · split at hread
          · cases hread
          · split at hread <;> cases hread
      · split at hread
        · split at hread
          · cases hread
          · split at hread
            · cases hread
            · split at hread
              · cases hread
              · rw [hchecked hread]
                exact hhost
        · cases hread

section
variable {s} {u : State} {p op h : Nat} {d : List Byte} (hmsg : s.lrpMsg u p op h d)
include hmsg

theorem State.lrpMsg_host : h ≤ 3 := by
  obtain ⟨-, -, -, -, urgent, i, k, n, c, -, hread, -, -⟩ := hmsg
  exact s.host_le_of_secured hread

theorem State.lrpMsg_changes : s.only u [.regs, .hosts, .rings] ∧ s.regsOnly u [R.HOST_STAT.at] := by
  obtain ⟨-, -, -, -, urgent, i, k, n, c, -, -, -, rfl⟩ := hmsg
  have hdrop := s.dropPkt_only p urgent i
  obtain ⟨honly, hregs⟩ := (s.dropPkt p urgent i).acceptMsg_changes h n c
  refine ⟨?_, fun a ha => ?_⟩
  · exact State.only_trans (State.only_mono hdrop (by simp)) (State.only_trans honly (by simp))
  · exact (hregs a ha).trans (State.rd_of_only hdrop (by simp) a)

theorem State.lrpMsg_now : u.now = s.now := congrArg BitVec.toNat ((State.lrpMsg_changes hmsg).1 .timebase (by simp))

theorem State.lrpMsg_reserved : leAt d 1 3 = 0 := hmsg.2.2.1

theorem State.serve_of_lrpMsg (f : State → Peer → List Byte → State) : s.serve p op f = f u (.host h) d := by
  obtain ⟨hdom, hop, -, -, urgent, i, k, n, c, hnext, hread, hurgent, rfl⟩ := hmsg
  have hsec : (Msg.secured h n c d).op = op := hop
  have hbar : ¬(urgent = true ∧ (Msg.secured h n c d).op ≠ 7) := fun ⟨hu, hne⟩ => hne (hsec.trans (hurgent hu))
  unfold State.serve
  dsimp only
  rw [hdom, hnext]
  dsimp only
  rw [hread]
  dsimp only
  rw [if_neg (by decide), if_neg hbar, if_pos (.inl hsec), if_pos hsec]

/-- An operation that Table 17-4 does not have is answered with status 0x06, whatever the command. -/
theorem State.serve_of_undefined (hop : 18 < op) {o : Nat} (ho : o ≤ 18) (f : State → Peer → List Byte → State) :
    s.serve p o f = u.reply (.host h) 4 d 0x06 := by
  obtain ⟨hdom, hopd, -, -, urgent, i, k, n, c, hnext, hread, hurgent, rfl⟩ := hmsg
  have hsec : (Msg.secured h n c d).op = op := hopd
  have hne : (Msg.secured h n c d).op ≠ o := by
    rw [hsec]
    omega
  have hbar : ¬(urgent = true ∧ (Msg.secured h n c d).op ≠ 7) := fun ⟨hu, _⟩ => absurd (hurgent hu) (by omega)
  have hundef : (!lrpOps.contains (Msg.secured h n c d).op) = true := by
    have hle : ∀ x ∈ lrpOps, x ≤ 18 := by decide
    rw [hsec, Bool.not_eq_true', ← Bool.not_eq_true, List.contains_iff_mem]
    exact fun hin => absurd (hle op hin) (by omega)
  unfold State.serve
  dsimp only
  rw [hdom, hnext]
  dsimp only
  rw [hread]
  dsimp only
  rw [if_neg (by decide), if_neg hbar, if_pos (.inr hundef), if_neg hne]

theorem State.serveHost_of_lrpMsg (hlen : 8 ≤ d.length) {ok : List Byte → Bool} (hok : ok d = true)
    (f : State → Nat → List Byte → State) : s.serveHost p op ok f = f u h d := by
  have hgood : ¬((leAt d 1 3 != 0 || decide (d.length < 8) || !ok d) = true) := by
    rw [State.lrpMsg_reserved hmsg, hok]
    simp
    omega
  unfold State.serveHost
  rw [State.serve_of_lrpMsg hmsg]
  exact if_neg hgood

end

/-! ### Messages that fail the check (R475) -/

theorem State.serve_of_refused {p : Nat} {urgent : Bool} {i : Nat} {k : Pkt} (hdom : s.domOn 2 = true)
    (hnext : s.nextPkt p = some (urgent, i, k)) (hread : s.readMsg p k = .refused) (op : Nat) (f : State → Peer → List Byte → State) :
    s.serve p op f = (s.dropPkt p urgent i).count R.HOST_AUTHERR := by
  unfold State.serve
  dsimp only
  rw [hdom, hnext]
  dsimp only
  rw [hread]
  rw [if_neg (by decide)]

/-- The commands that serve a message of a host. -/
def lrpCommands (p : Fin 4) : List Instr :=
  [.lrpHello p, .lrpStatus p, .lrpPost p, .lrpRead p, .lrpFence p, .lrpPassacq p, .lrpPassrel p, .lrpStop p, .lrpResume p, .lrpSnapshot p,
    .lrpBulkack p, .lrpTariff p, .lrpMdclr p, .lrpAovr p, .lrpSafereset p, .lrpLedgerkey p]

/-- Each of them serves the next message of its port. -/
theorem exec_lrpCommand {p : Fin 4} {c : Instr} (hc : c ∈ lrpCommands p) : ∃ op f, exec c s = .next (s.serve p.val op f) := by
  simp only [lrpCommands, List.mem_cons, List.not_mem_nil, or_false] at hc
  rcases hc with rfl | rfl | rfl | rfl | rfl | rfl | rfl | rfl | rfl | rfl | rfl | rfl | rfl | rfl | rfl | rfl <;> exact ⟨_, _, rfl⟩

/-! ### HELLO (R474) -/

theorem State.serve_of_hello {p : Nat} {i h : Nat} {k : Pkt} {hn : List Byte} (hdom : s.domOn 2 = true)
    (hnext : s.nextPkt p = some (false, i, k)) (hread : s.readMsg p k = .hello h hn) (f : State → Peer → List Byte → State) :
    s.serve p 0x100 f = f ((s.dropPkt p false i).setHostX h { (s.dropPkt p false i).hostX h with addr := k.src }) (.host h) hn := by
  unfold State.serve
  dsimp only
  rw [hdom, hnext]
  dsimp only
  rw [hread]
  dsimp only
  rw [if_neg (by decide), if_neg Bool.false_ne_true, if_pos rfl]

/-- The number of a new session: `n`, or the next where the session that runs has it. -/
def newNumber (cur : Option Session) (n : Nat) : Nat := if cur.any (fun y => y.number == n % 2 ^ 32) then (n % 2 ^ 32 + 1) % 2 ^ 32 else n % 2 ^ 32

theorem newNumber_ne {cur : Option Session} {z : Session} (h : cur = some z) (n : Nat) : z.number ≠ newNumber cur n := by
  subst h
  unfold newNumber
  rw [Option.any_some]
  by_cases heq : z.number = n % 2 ^ 32
  · rw [if_pos (by simpa using heq)]
    omega
  · rw [if_neg (by simpa using heq)]
    exact heq

/-- Host `h` has a pending session. -/
def State.helloed (s : State) (h : Nat) (hn : List Byte) : State :=
  s.draw.2.draw.2.setHostX h { s.draw.2.draw.2.hostX h with
    next := some ⟨newNumber (s.hostX h).cur s.draw.2.draw.1, hn, leBytes 16 (s.draw.1 % 2 ^ 128), 0, [], 0⟩,
    hellos := (s.hostX h).hellos.filter (fun t => decide (s.now < t + 1000000000)) ++ [s.now] }

theorem lrpHello_opens (p : Fin 4) {i h : Nat} {k : Pkt} {hn : List Byte} (hdom : s.domOn 2 = true)
    (hnext : s.nextPkt p.val = some (false, i, k)) (hread : s.readMsg p.val k = .hello h hn)
    (hfew : ((s.hostX h).hellos.filter (fun t => decide (s.now < t + 1000000000))).length < 10) :
    ∃ t y, exec (.lrpHello p) s = .next t ∧ (t.hostX h).next = some y ∧ y.hn = hn ∧ y.dn.length = 16 ∧ y.seen = [] ∧ y.sent = 0 ∧
      (∀ z, (s.hostX h).cur = some z → z.number ≠ y.number) ∧ (t.hostX h).cur = (s.hostX h).cur ∧ s.now ∈ (t.hostX h).hellos ∧
      (p.val ≠ 3 → t.tx.length = s.tx.length + 1) ∧ (p.val = 3 → t.hosts.spiReply.length = s.hosts.spiReply.length + 1) ∧
      s.only t [.hosts, .tx, .free] := by
  let v := s.dropPkt p.val false i
  let u := v.setHostX h { v.hostX h with addr := k.src }
  have hdrop : s.only v [.hosts] := s.dropPkt_only p.val false i
  have hv : v.hostX h = s.hostX h ∧ v.hosts.spiReply = s.hosts.spiReply := by
    unfold v State.dropPkt
    split
    · exact ⟨rfl, rfl⟩
    · exact ⟨rfl, rfl⟩
  have hu : u.hostX h = { s.hostX h with addr := k.src } := (v.hostX_setHostX_self h _).trans (by rw [hv.1])
  have hnow : u.now = s.now := congrArg BitVec.toNat (hdrop .timebase (by simp))
  have hexec : exec (.lrpHello p) s = .next ((u.helloed h hn).transmit p.val 4 ((u.helloed h hn).hostX h).addr
      (lrpHead 1 h 0 (newNumber (u.hostX h).cur u.draw.2.draw.1) 32 ++ leBytes 16 (u.draw.1 % 2 ^ 128) ++
        (hmac ((u.hostX h).key.getD []) ([0x4C, 0x52, 0x50, 0x31] ++ hn ++ leBytes 16 (u.draw.1 % 2 ^ 128) ++
          leBytes 4 (newNumber (u.hostX h).cur u.draw.2.draw.1) ++ [BitVec.ofNat 8 h])).take 16)) := by
    have hrecent : ¬10 ≤ ((u.hostX h).hellos.filter (fun t => decide (u.now < t + 1000000000))).length := by
      rw [hu, hnow]
      exact Nat.not_le.mpr hfew
    change execLrpHello p s = _
    unfold execLrpHello
    rw [s.serve_of_hello hdom hnext hread]
    exact congrArg Host.Outcome.next (if_neg hrecent)
  have hx : (u.helloed h hn).hostX h = { s.hostX h with
      addr := k.src
      next := some ⟨newNumber (s.hostX h).cur u.draw.2.draw.1, hn, leBytes 16 (u.draw.1 % 2 ^ 128), 0, [], 0⟩
      hellos := (s.hostX h).hellos.filter (fun t => decide (s.now < t + 1000000000)) ++ [s.now] } := by
    have hdrawn : u.draw.2.draw.2.hostX h = u.hostX h := rfl
    rw [State.helloed, State.hostX_setHostX_self, hdrawn, hu, hnow]
  obtain ⟨addr, pkt, hsent⟩ : ∃ addr pkt, exec (.lrpHello p) s = .next ((u.helloed h hn).transmit p.val 4 addr pkt) := ⟨_, _, hexec⟩
  have hhelloed : s.only (u.helloed h hn) [.hosts, .free] := by
    refine State.only_trans (State.only_mono hdrop (by simp)) ?_
    refine State.only_trans (t := u.draw.2.draw.2) ?_ (by simp [State.helloed])
    exact State.only_trans (t := u) (by simp [u]) (State.only_mono (State.only_trans u.draw_only u.draw.2.draw_only) (by simp))
  refine ⟨_, ⟨newNumber (s.hostX h).cur u.draw.2.draw.1, hn, leBytes 16 (u.draw.1 % 2 ^ 128), 0, [], 0⟩, hsent, ?_⟩
  have hnowin : s.now ∈ (s.hostX h).hellos.filter (fun t => decide (s.now < t + 1000000000)) ++ [s.now] :=
    List.mem_append.mpr (.inr (List.mem_singleton.mpr rfl))
  rw [State.hostX_transmit, hx]
  refine ⟨rfl, rfl, leBytes_length 16 _, rfl, rfl, fun z hz => newNumber_ne hz u.draw.2.draw.1, rfl, hnowin, fun hp => ?_, fun hp => ?_,
    State.only_trans (State.only_mono hhelloed (by simp)) (State.only_mono (State.transmit_only _ _ _ _ _) (by simp))⟩
  · obtain ⟨f, htx, -, -⟩ := (u.helloed h hn).tx_transmit hp 4 addr pkt
    have hkept : (u.helloed h hn).tx = s.tx := hhelloed .tx (by simp)
    rw [htx, List.length_append, List.length_singleton, hkept]
  · unfold State.transmit
    rw [if_pos hp]
    have hkept : (u.helloed h hn).hosts.spiReply = s.hosts.spiReply := (rfl : (u.helloed h hn).hosts.spiReply = v.hosts.spiReply).trans hv.2
    refine (List.length_append ..).trans ?_
    rw [List.length_singleton, hkept]

end Sys2Proof.Machine
end

section
/-! PROOF. LRP operations on status, rings, fences, passes and bulk transfers (spec/17, Table 17-4, R476 to R482, R488, R489). -/

namespace Sys2Proof.Machine

variable {s u : State} {p : Fin 4} {h : Nat} {d : List Byte}

/-! ### STATUS -/

/-- The body of a reply to STATUS. -/
def statusBody (part lo hi boot state cause ldg viol host : Nat) : List Byte :=
  leBytes 4 part ++ leBytes 4 lo ++ leBytes 4 hi ++ leBytes 4 boot ++ [BitVec.ofNat 8 state, BitVec.ofNat 8 cause] ++ leBytes 4 ldg ++
    leBytes 4 viol ++ leBytes 4 host

section
variable (part lo hi boot state cause ldg viol host : Nat)

theorem length_statusBody : (statusBody part lo hi boot state cause ldg viol host).length = 30 := by
  simp [statusBody, leBytes_length]

theorem leAt_statusBody : leAt (statusBody part lo hi boot state cause ldg viol host) 0 4 = part % 2 ^ 32 ∧
    leAt (statusBody part lo hi boot state cause ldg viol host) 4 4 = lo % 2 ^ 32 ∧
    leAt (statusBody part lo hi boot state cause ldg viol host) 8 4 = hi % 2 ^ 32 ∧
    leAt (statusBody part lo hi boot state cause ldg viol host) 12 4 = boot % 2 ^ 32 ∧
    leAt (statusBody part lo hi boot state cause ldg viol host) 16 1 = state % 2 ^ 8 ∧
    leAt (statusBody part lo hi boot state cause ldg viol host) 17 1 = cause % 2 ^ 8 ∧
    leAt (statusBody part lo hi boot state cause ldg viol host) 18 4 = ldg % 2 ^ 32 ∧
    leAt (statusBody part lo hi boot state cause ldg viol host) 22 4 = viol % 2 ^ 32 :=
  ⟨leNat_leBytes 4 part, leNat_leBytes 4 lo, leNat_leBytes 4 hi, leNat_leBytes 4 boot, leNat_leBytes 1 state, leNat_leBytes 1 cause,
    leNat_leBytes 4 ldg, leNat_leBytes 4 viol⟩

end

theorem lrpStatus_answers (hmsg : s.lrpMsg u p.val 1 h d) (hlen : d.length = 8) : ∃ t b, exec (.lrpStatus p) s = .next t ∧
    t = u.reply (.host h) 4 d 0 b ∧ leAt b 0 4 = s.rget R.SYS_PARTID ∧ leAt b 4 4 = s.rget R.BOOT_UNITID_LO ∧
    leAt b 8 4 = s.rget R.BOOT_UNITID_HI ∧ leAt b 12 4 = s.rget R.BOOT_STAT ∧ leAt b 16 1 = s.fget F.SAFE_STAT_STATE ∧
    leAt b 17 1 = s.fget F.SAFE_STAT_CAUSE ∧ leAt b 18 4 = s.rget R.LDG_STAT ∧ leAt b 22 4 = s.rget R.MMU_CTX_VIOL (h + 1) ∧
    b.length = 30 := by
  obtain ⟨-, hregs⟩ := State.lrpMsg_changes hmsg
  have hhost := State.lrpMsg_host hmsg
  have hbad : ¬(d.length ≠ 8 ∨ leAt d 1 3 ≠ 0) := by
    rw [State.lrpMsg_reserved hmsg]
    omega
  have hword (r : RegDesc) (i : Nat) (ha : r.at i ≠ R.HOST_STAT.at) : u.rget r i % 2 ^ 32 = s.rget r i :=
    (Nat.mod_eq_of_lt (u.rd (r.at i)).isLt).trans (congrArg BitVec.toNat (hregs _ (by simpa using ha)))
  have hviol : R.MMU_CTX_VIOL.at (h + 1) ≠ R.HOST_STAT.at := by
    simp only [RegDesc.at, R.MMU_CTX_VIOL, R.HOST_STAT]
    omega
  have hstate : u.fget F.SAFE_STAT_STATE % 2 ^ 8 = s.fget F.SAFE_STAT_STATE :=
    (Nat.mod_eq_of_lt (Nat.lt_trans (getField_lt _ _ _) (by decide))).trans (State.fget_of_rd (hregs _ (by decide)))
  have hcause : u.fget F.SAFE_STAT_CAUSE % 2 ^ 8 = s.fget F.SAFE_STAT_CAUSE :=
    (Nat.mod_eq_of_lt (getField_lt _ _ _)).trans (State.fget_of_rd (hregs _ (by decide)))
  refine ⟨_, statusBody (u.rget R.SYS_PARTID) (u.rget R.BOOT_UNITID_LO) (u.rget R.BOOT_UNITID_HI) (u.rget R.BOOT_STAT)
    (u.fget F.SAFE_STAT_STATE) (u.fget F.SAFE_STAT_CAUSE) (u.rget R.LDG_STAT) (u.rget R.MMU_CTX_VIOL (h + 1)) (u.rget R.HOST_STAT), ?_, rfl, ?_⟩
  · change execLrpStatus p s = _
    unfold execLrpStatus
    rw [State.serve_of_lrpMsg hmsg]
    exact congrArg Host.Outcome.next (if_neg hbad)
  · obtain ⟨hpart, hlo, hhi, hboot, hst, hca, hldg, hvi⟩ := leAt_statusBody (u.rget R.SYS_PARTID) (u.rget R.BOOT_UNITID_LO)
      (u.rget R.BOOT_UNITID_HI) (u.rget R.BOOT_STAT) (u.fget F.SAFE_STAT_STATE) (u.fget F.SAFE_STAT_CAUSE) (u.rget R.LDG_STAT)
      (u.rget R.MMU_CTX_VIOL (h + 1)) (u.rget R.HOST_STAT)
    exact ⟨hpart.trans (hword _ 0 (by decide)), hlo.trans (hword _ 0 (by decide)), hhi.trans (hword _ 0 (by decide)),
      hboot.trans (hword _ 0 (by decide)), hst.trans hstate, hca.trans hcause, hldg.trans (hword _ 0 (by decide)),
      hvi.trans (hword _ _ hviol), length_statusBody ..⟩

theorem lrpStatus_refuses {op : Nat} (hop : 18 < op) (hmsg : s.lrpMsg u p.val op h d) :
    exec (.lrpStatus p) s = .next (u.reply (.host h) 4 d 0x06) :=
  congrArg Host.Outcome.next (State.serve_of_undefined hmsg hop (by decide) _)

/-! ### Rings that a role names -/

theorem roleRing_lt {role : Nat} (hh : h ≤ 3) (hrole : role < 10) : roleRing h role < 16 := by
  unfold roleRing
  split <;> omega

/-! ### POST (R479) -/

/-- The SEQ of job ring `q`'s next entry. -/
def State.jobSeq (s : State) (q : Nat) : Nat := Sparse.get (fun _ => 0) s.hosts.jobSeq q

theorem jobHead_at (q : Nat) : R.HOST_JR_HEAD.at q = 0x02001E1008 + 0x20 * q := rfl

/-- What a posted entry changes: HEAD and SEQ advance. -/
theorem State.postEntry_posts (s : State) (q : Nat) (e : List Byte) :
    (s.postEntry q e).fget F.HOST_JR_HEAD_INDEX q = (s.fget F.HOST_JR_HEAD_INDEX q + 1) % s.jobSize q ∧
    (s.postEntry q e).jobSeq q = (s.jobSeq q + 1) % 2 ^ 32 ∧ (s.postEntry q e).jobSize q = s.jobSize q ∧
    s.only (s.postEntry q e) [.regs, .mem, .hosts] ∧ s.regsOnly (s.postEntry q e) [R.HOST_JR_HEAD.at q, R.MEM_TAGERR.at] := by
  let head := s.fget F.HOST_JR_HEAD_INDEX q
  let v := s.store (s.jobSlot q head) (e.take 4 ++ leBytes 4 (s.jobSeq q) ++ leBytes 8 s.now ++ (e.drop 16).take 48)
  let w := v.fset F.HOST_JR_HEAD_INDEX ((head + 1) % v.jobSize q) q
  have hregs : s.regsOnly v [R.MEM_TAGERR.at] := s.store_regsOnly _ _
  have hcfg : R.HOST_JR_CFG.at q ≠ R.MEM_TAGERR.at ∧ R.HOST_JR_CFG.at q ≠ R.HOST_JR_HEAD.at q := by
    simp only [RegDesc.at, R.HOST_JR_CFG, R.MEM_TAGERR, R.HOST_JR_HEAD]
    omega
  have hsize : v.jobSize q = s.jobSize q :=
    congrArg (· + 1) (State.fget_of_rd (f := F.HOST_JR_CFG_SIZEM1) (hregs _ (fun ha => hcfg.1 (List.mem_singleton.mp ha))))
  refine ⟨?_, Sparse.get_put_self _ _ _ _, ?_, ?_, fun a ha => ?_⟩
  · have hlt : (head + 1) % v.jobSize q < 2 ^ 12 :=
      Nat.lt_of_lt_of_le (Nat.mod_lt _ (Nat.succ_pos _)) (v.jobSize_le q)
    have hw : w.fget F.HOST_JR_HEAD_INDEX q = (head + 1) % v.jobSize q :=
      (v.fget_fset_self F.HOST_JR_HEAD_INDEX _ q 0 (by decide) (by decide)).trans (Nat.mod_eq_of_lt hlt)
    rw [hsize] at hw
    exact hw
  · have hw : w.jobSize q = v.jobSize q :=
      congrArg (· + 1) (State.fget_fset_ne _ F.HOST_JR_HEAD_INDEX F.HOST_JR_CFG_SIZEM1 _ q 0 q 0 hcfg.2)
    exact hw.trans hsize
  · exact State.only_trans (t := w) (State.only_trans (t := v) (State.only_mono (s.store_only _ _) (by simp)) (by simp [w]))
      (show w.only (w.setHosts { w.hosts with jobSeq := Sparse.put (fun _ => 0) w.hosts.jobSeq q ((s.jobSeq q + 1) % 2 ^ 32) }) _ by simp)
  · obtain ⟨hhead, htag⟩ : a ≠ R.HOST_JR_HEAD.at q ∧ a ≠ R.MEM_TAGERR.at := by simpa using ha
    exact (v.rd_fset_ne F.HOST_JR_HEAD_INDEX _ _ _ a hhead).trans (hregs a (by simpa using htag))

/-- The entries of a list are posted. -/
def State.postAll (s : State) (q : Nat) (l : List (List Byte)) : State := l.foldl (fun s e => s.postEntry q e) s

theorem State.postAll_posts (s : State) (q : Nat) (l : List (List Byte)) :
    (s.postAll q l).fget F.HOST_JR_HEAD_INDEX q % s.jobSize q = (s.fget F.HOST_JR_HEAD_INDEX q + l.length) % s.jobSize q ∧
    (l ≠ [] → (s.postAll q l).fget F.HOST_JR_HEAD_INDEX q < s.jobSize q) ∧
    (s.postAll q l).jobSeq q % 2 ^ 32 = (s.jobSeq q + l.length) % 2 ^ 32 ∧ (l ≠ [] → (s.postAll q l).jobSeq q < 2 ^ 32) ∧
    s.only (s.postAll q l) [.regs, .mem, .hosts] ∧ s.regsOnly (s.postAll q l) [R.HOST_JR_HEAD.at q, R.MEM_TAGERR.at] := by
  induction l generalizing s with
  | nil => exact ⟨rfl, fun h => absurd rfl h, rfl, fun h => absurd rfl h, s.only_refl _, s.regsOnly_refl _⟩
  | cons e l ih =>
    obtain ⟨hhead, hseq, hsize, honly, hregs⟩ := s.postEntry_posts q e
    obtain ⟨ihhead, ihlt, ihseq, ihseqlt, ihonly, ihregs⟩ := ih (s.postEntry q e)
    rw [hsize, hhead, Nat.mod_add_mod] at ihhead
    rw [hsize] at ihlt
    rw [hseq, Nat.mod_add_mod] at ihseq
    have hpos : 0 < s.jobSize q := Nat.succ_pos _
    refine ⟨?_, fun _ => ?_, ?_, fun _ => ?_, State.only_trans honly ihonly, State.regsOnly_trans hregs ihregs⟩
    · rw [List.length_cons, Nat.add_comm l.length, ← Nat.add_assoc]
      exact ihhead
    · by_cases hl : l = []
      · subst hl
        exact hhead ▸ Nat.mod_lt _ hpos
      · exact ihlt hl
    · rw [List.length_cons, Nat.add_comm l.length, ← Nat.add_assoc]
      exact ihseq
    · by_cases hl : l = []
      · subst hl
        exact hseq ▸ Nat.mod_lt _ (by decide)
      · exact ihseqlt hl

theorem length_chunksOf_64 {n fuel : Nat} {l : List Byte} (hl : l.length = 64 * n) (hn : n ≤ fuel) : (chunksOf 64 fuel l).length = n := by
  induction fuel generalizing n l with
  | zero =>
    obtain rfl : n = 0 := by omega
    rfl
  | succ fuel ih =>
    cases n with
    | zero =>
      obtain rfl : l = [] := List.length_eq_zero_iff.mp (by omega)
      rfl
    | succ n =>
      cases l with
      | nil => simp at hl
      | cons a l =>
        rw [chunksOf, List.length_cons, ih (n := n) (by rw [List.length_drop, hl]; omega) (by omega)]

theorem lrpPost_posts (hmsg : s.lrpMsg u p.val 2 h d) (hrole : leAt d 8 1 < 2) (h1 : 1 ≤ leAt d 9 1) (h16 : leAt d 9 1 ≤ 16)
    (hz : leAt d 10 6 = 0) (hlen : d.length = 16 + 64 * leAt d 9 1) (hjobs : (chunksOf 64 16 (d.drop 16)).all jobOk = true)
    {q : Nat} (hq : roleRing h (leAt d 8 1) = q) (hen : u.flag F.HOST_JR_CFG_EN q = true)
    (hspace : u.jobCount q + leAt d 9 1 + 1 ≤ u.jobSize q) {seq : Nat} (hseq : Sparse.get (fun _ => 0) u.hosts.jobSeq q = seq) :
    ∃ w : State, exec (.lrpPost p) s = .next (w.reply (.host h) (roleQueue (leAt d 8 1)) d 0 (leBytes 4 seq)) ∧
      w.fget F.HOST_JR_HEAD_INDEX q = (u.fget F.HOST_JR_HEAD_INDEX q + leAt d 9 1) % u.jobSize q ∧
      Sparse.get (fun _ => 0) w.hosts.jobSeq q = (seq + leAt d 9 1) % 2 ^ 32 ∧ u.only w [.regs, .mem, .hosts] ∧
      u.regsOnly w [R.HOST_JR_HEAD.at q, R.MEM_TAGERR.at] := by
  subst hq hseq
  have hlength : (chunksOf 64 16 (d.drop 16)).length = leAt d 9 1 := length_chunksOf_64 (by rw [List.length_drop, hlen]; omega) h16
  have hne : chunksOf 64 16 (d.drop 16) ≠ [] := List.ne_nil_of_length_pos (by omega)
  obtain ⟨hhead, hlt, hnum, hnumlt, honly, hregs⟩ := u.postAll_posts (roleRing h (leAt d 8 1)) (chunksOf 64 16 (d.drop 16))
  have hgo : ¬((!u.flag F.HOST_JR_CFG_EN (roleRing h (leAt d 8 1))) = true ∨ u.jobSize (roleRing h (leAt d 8 1)) <
      u.jobCount (roleRing h (leAt d 8 1)) + leAt d 9 1 + 1) := by
    rw [hen]
    simp only [Bool.not_true, Bool.false_eq_true, false_or]
    omega
  refine ⟨u.postAll (roleRing h (leAt d 8 1)) (chunksOf 64 16 (d.drop 16)), ?_, ?_, ?_, honly, hregs⟩
  · change execLrpPost p s = _
    unfold execLrpPost
    rw [State.serveHost_of_lrpMsg hmsg (by omega) (by simp [hrole, h1, h16, hz, hlen, hjobs])]
    exact congrArg Host.Outcome.next (if_neg hgo)
  · rw [hlength, Nat.mod_eq_of_lt (hlt hne)] at hhead
    exact hhead
  · rw [hlength, Nat.mod_eq_of_lt (hnumlt hne)] at hnum
    exact hnum

/-! ### Bulk transfers (R488, R489) -/

theorem flatten_chunksOf {α : Type} {n fuel : Nat} (hn : 0 < n) {l : List α} (h : l.length ≤ n * fuel) : (chunksOf n fuel l).flatten = l := by
  induction fuel generalizing l with
  | zero =>
    obtain rfl : l = [] := List.length_eq_zero_iff.mp (by omega)
    rfl
  | succ fuel ih =>
    cases l with
    | nil => rfl
    | cons a l =>
      rw [Nat.mul_succ] at h
      rw [chunksOf, List.flatten_cons, ih (by rw [List.length_drop]; omega), List.take_append_drop]

/-- A transfer that opens is the host's, nothing of it sent. -/
theorem State.openBulk_opens (s : State) (h : Nat) (req : List Byte) (packets : List (List Byte)) :
    ∃ x, ((s.openBulk h req packets).hostX h).bulk = some x ∧ x.packets = packets ∧ x.op = leAt req 0 1 ∧ x.tag = leAt req 4 4 ∧
      x.acked = 0 ∧ x.sent = 0 ∧ s.only (s.openBulk h req packets) [.hosts] := by
  refine ⟨_, congrArg HostX.bulk (s.hostX_setHostX_self h _), rfl, rfl, rfl, rfl, rfl, by simp [State.openBulk]⟩

theorem length_load (s : State) (a n : Nat) : (s.load a n).length = n := by
  unfold State.load
  induction n generalizing a with
  | zero => rfl
  | succ n ih => simp [Memory.read, ih]

theorem State.length_ringBytes (s : State) (q i n : Nat) : (s.ringBytes q i n).length = 64 * n := by
  unfold State.ringBytes
  rw [List.length_flatMap]
  simp [length_load, Nat.mul_comm]

theorem lrpRead_reads (hmsg : s.lrpMsg u p.val 3 h d) (hrole : leAt d 8 1 < 10) (hz : leAt d 9 3 = 0) (hlen : d.length = 20)
    (h1 : 1 ≤ leAt d 16 4) (hmax : leAt d 16 4 ≤ 4096) {q : Nat} (hq : roleRing h (leAt d 8 1) = q) {w : State}
    (hw : u.release q h (leAt d 12 4) = w) {n : Nat}
    (hn : min (leAt d 16 4) ((u.cursor q h).dist - min (leAt d 12 4) (u.cursor q h).dist) = n) {b : List Byte}
    (hb : w.ringBytes q (w.cursor q h).index n = b) (hok : u.roleOk h (leAt d 8 1) = true) (hen : u.ringEnabled q = true) :
    (n ≤ 16 → exec (.lrpRead p) s = .next (w.reply (.host h) (roleQueue (leAt d 8 1)) d 0 b)) ∧
    (16 < n → (u.hostX h).bulk = none → ∃ t x, exec (.lrpRead p) s = .next t ∧ (t.hostX h).bulk = some x ∧ x.packets.flatten = b ∧
      x.op = 3 ∧ x.tag = leAt d 4 4 ∧ x.acked = 0 ∧ x.sent = 0 ∧ w.only t [.hosts]) := by
  subst hq hw hn hb
  have hexec : exec (.lrpRead p) s = .next (
      if !u.roleOk h (leAt d 8 1) then u.reply (.host h) (roleQueue (leAt d 8 1)) d 0x02
      else if !u.ringEnabled (roleRing h (leAt d 8 1)) then u.reply (.host h) (roleQueue (leAt d 8 1)) d 0x01
      else if 16 < min (leAt d 16 4) ((u.cursor (roleRing h (leAt d 8 1)) h).dist - min (leAt d 12 4) (u.cursor (roleRing h (leAt d 8 1)) h).dist)
        ∧ (u.hostX h).bulk.isSome then u.reply (.host h) (roleQueue (leAt d 8 1)) d 0x0A
      else
        let s := u.release (roleRing h (leAt d 8 1)) h (leAt d 12 4)
        let n := min (leAt d 16 4) ((u.cursor (roleRing h (leAt d 8 1)) h).dist - min (leAt d 12 4) (u.cursor (roleRing h (leAt d 8 1)) h).dist)
        let b := s.ringBytes (roleRing h (leAt d 8 1)) (s.cursor (roleRing h (leAt d 8 1)) h).index n
        if n ≤ 16 then s.reply (.host h) (roleQueue (leAt d 8 1)) d 0 b else s.openBulk h d (chunksOf 1024 (n / 16 + 1) b)) := by
    change execLrpRead p s = _
    unfold execLrpRead
    rw [State.serveHost_of_lrpMsg hmsg (by omega) (by simp [hrole, h1, hmax, hz, hlen])]
  rw [hok, hen, if_neg (by decide), if_neg (by decide)] at hexec
  refine ⟨fun hfew => ?_, fun hmany hnone => ?_⟩
  · rw [if_neg (fun h => absurd h.1 (Nat.not_lt.mpr hfew))] at hexec
    exact hexec.trans (congrArg Host.Outcome.next (if_pos hfew))
  · rw [hnone, if_neg (by simp)] at hexec
    obtain ⟨x, hx, hpackets, hop, htag, hacked, hsent, honly⟩ := State.openBulk_opens (u.release (roleRing h (leAt d 8 1)) h (leAt d 12 4)) h d
      (chunksOf 1024 _ _)
    refine ⟨_, x, hexec.trans (congrArg Host.Outcome.next (if_neg (Nat.not_le.mpr hmany))), hx, ?_, hop.trans hmsg.2.1, htag, hacked, hsent, honly⟩
    rw [hpackets]
    refine flatten_chunksOf (by decide) ?_
    rw [State.length_ringBytes]
    omega

theorem lrpBulkack_acknowledges (hmsg : s.lrpMsg u p.val 10 h d) (hlen : d.length = 16) (hz : leAt d 10 2 = 0) {x : Bulk}
    (hbulk : (u.hostX h).bulk = some x) (hid : x.id = leAt d 8 2) {a : Nat} (ha : min x.sent (leAt d 12 4 + 1) = a) (hnew : x.acked < a) :
    ∃ t, exec (.lrpBulkack p) s = .next t ∧ u.only t [.hosts] ∧ (t.hostX h).bulk =
      if x.packets.length ≤ a then none else some { x with acked := a, resends := 0, ackTb := s.now } := by
  subst ha
  have hgo : ¬(x.id ≠ leAt d 8 2 ∨ min x.sent (leAt d 12 4 + 1) ≤ x.acked) := by omega
  let y := if x.packets.length ≤ min x.sent (leAt d 12 4 + 1) then none
    else some { x with acked := min x.sent (leAt d 12 4 + 1), resends := 0, ackTb := u.now }
  have hexec : exec (.lrpBulkack p) s = .next (u.setHostX h { u.hostX h with bulk := y }) := by
    change execLrpBulkack p s = _
    unfold execLrpBulkack
    rw [State.serveHost_of_lrpMsg hmsg (by omega) (by simp [hlen, hz])]
    dsimp only
    rw [hbulk]
    dsimp only
    rw [if_neg hgo]
    by_cases hall : x.packets.length ≤ min x.sent (leAt d 12 4 + 1)
    · rw [if_pos hall, show y = none from if_pos hall]
    · rw [if_neg hall, show y = _ from if_neg hall]
  refine ⟨_, hexec, by simp, ?_⟩
  rw [State.hostX_setHostX_self, ← State.lrpMsg_now hmsg]

/-! ### FENCE and passes (R481, R482) -/

theorem lrpFence_asks (hmsg : s.lrpMsg u p.val 4 h d) (hrole : leAt d 8 1 < 10) (hz : leAt d 9 3 = 0) (hlen : d.length = 16)
    (hok : u.roleOk h (leAt d 8 1) = true) (hen : u.ringEnabled (roleRing h (leAt d 8 1)) = true) :
    ∃ w : State, exec (.lrpFence p) s = .next (w.reply (.host h) (roleQueue (leAt d 8 1)) d 0) ∧ u.only w [.rings] ∧
      (w.ringX (roleRing h (leAt d 8 1))).fences = (u.ringX (roleRing h (leAt d 8 1))).fences ++ [⟨false, leAt d 12 4⟩] := by
  have hq := roleRing_lt (State.lrpMsg_host hmsg) hrole
  have hask := u.askFence_of_enabled (q := ⟨roleRing h (leAt d 8 1), hq⟩) hen (.inl rfl) (leAt d 12 4)
  refine ⟨u.askFence (roleRing h (leAt d 8 1)) false (leAt d 12 4), ?_, ?_, ?_⟩
  · change execLrpFence p s = _
    unfold execLrpFence
    rw [State.serveHost_of_lrpMsg hmsg (by omega) (by simp [hrole, hz, hlen])]
    dsimp only
    rw [hok, hen, if_neg (by decide), if_neg (by decide)]
  · rw [hask]
    simp
  · rw [hask, State.ringX_setRingX_self]

theorem State.passHolder_takePass (s : State) (n holder secs : Nat) : (s.takePass n holder secs).passHolder n = some holder := by
  rw [State.takePass_eq]
  exact congrArg (Option.map (·.2.holder)) (s.find?_leases n holder secs)

theorem lrpPassacq_acquires (hmsg : s.lrpMsg u p.val 5 h d) (hn : leAt d 8 1 < 8) (hz : leAt d 9 1 = 0) (hlen : d.length = 12)
    (hsecs : leAt d 10 2 ≠ 0) (hmask : bit (u.hostX h).passMask (leAt d 8 1) = true) (hmax : leAt d 10 2 ≤ (u.hostX h).passMax)
    (hsafe : u.safeState = false) :
    (u.passFree (leAt d 8 1) (h + 1) = true → ∃ w : State, u.only w [.regs, .hosts] ∧ w.passHolder (leAt d 8 1) = some (h + 1) ∧
      exec (.lrpPassacq p) s = .next (w.reply (.host h) 4 d 0 (leBytes 8 (s.now + leAt d 10 2 * 1000000000)))) ∧
    (u.passFree (leAt d 8 1) (h + 1) = false → exec (.lrpPassacq p) s = .next (u.reply (.host h) 4 d 0x03)) := by
  have hexec : exec (.lrpPassacq p) s = .next (if !u.passFree (leAt d 8 1) (h + 1) then u.reply (.host h) 4 d 0x03
      else (u.takePass (leAt d 8 1) (h + 1) (leAt d 10 2)).reply (.host h) 4 d 0
        (leBytes 8 ((u.takePass (leAt d 8 1) (h + 1) (leAt d 10 2)).now + leAt d 10 2 * 1000000000))) := by
    have hgo : ¬((u.hostX h).passMax < leAt d 10 2 ∨ u.safeState = true) := by
      rw [hsafe]
      simp only [Bool.false_eq_true, or_false]
      omega
    change execLrpPassacq p s = _
    unfold execLrpPassacq
    rw [State.serveHost_of_lrpMsg hmsg (by omega) (by simp [hn, hz, hlen, hsecs])]
    dsimp only
    rw [hmask, if_neg (by decide), if_neg hgo]
  refine ⟨fun hfree => ?_, fun hheld => ?_⟩
  · have honly := u.takePass_only (leAt d 8 1) (h + 1) (leAt d 10 2)
    have hnow : (u.takePass (leAt d 8 1) (h + 1) (leAt d 10 2)).now = s.now :=
      (congrArg BitVec.toNat (honly .timebase (by simp))).trans (State.lrpMsg_now hmsg)
    rw [hfree, if_neg (by decide), hnow] at hexec
    exact ⟨_, honly, u.passHolder_takePass _ _ _, hexec⟩
  · rw [hheld, if_pos (by decide)] at hexec
    exact hexec

/-- A pass that holds has a holder. -/
theorem State.passHolder_of_passOf {s : State} {n c : Nat} (hof : s.passOf n = some c) : s.passHolder n = some c := by
  unfold State.passOf at hof
  unfold State.passHolder
  cases hfind : s.hosts.passes.find? (fun x => x.1 == n) with
  | none => simp [hfind] at hof
  | some x =>
    rw [hfind, Option.filter_some] at hof
    split at hof
    · exact hof
    · cases hof

theorem lrpPassrel_releases (hmsg : s.lrpMsg u p.val 6 h d) (hn : leAt d 8 1 < 8) (hlen : d.length = 9)
    (hof : u.passOf (leAt d 8 1) = some (h + 1)) : ∃ w : State, exec (.lrpPassrel p) s = .next (w.reply (.host h) 4 d 0) ∧
      w.passHolder (leAt d 8 1) = none := by
  have hheld : u.passHolder (leAt d 8 1) ≠ none := by
    rw [State.passHolder_of_passOf hof]
    exact Option.some_ne_none _
  refine ⟨u.endPass (leAt d 8 1), ?_, (State.passEnded_endPass hheld).free⟩
  change execLrpPassrel p s = _
  unfold execLrpPassrel
  rw [State.serveHost_of_lrpMsg hmsg (by omega) (by simp [hn, hlen])]
  dsimp only
  rw [if_neg (fun hne => hne hof)]

/-! ### SNAPSHOT (R477, R488) -/

theorem State.length_snapBytes {s : State} {m : PageMap} {va n : Nat} {b : List Byte} {v : State} (hb : s.snapBytes m va n = (some b, v)) :
    b.length = n := by
  unfold State.snapBytes at hb
  dsimp only at hb
  split at hb
  · cases hb
    simp
  · cases hb

theorem lrpSnapshot_snaps {v v2 : State} {m : PageMap} {b : List Byte} (hmsg : s.lrpMsg u p.val 9 h d) (hlen : d.length = 20)
    (hva : leAt d 8 8 % 8 = 0) (hn8 : leAt d 16 4 % 8 = 0) (hmax : leAt d 16 4 ≤ 0x1000000) (hend : leAt d 8 8 + leAt d 16 4 ≤ 2 ^ 40)
    (hperm : bit (u.hostX h).perm 1 = true) (hbulk : (u.hostX h).bulk = none) (hsnap : (u.hostX h).snap = none)
    (htrans : u.translatePages (0x30 + h) (h + 1) ((pagesOf (leAt d 8 8) (leAt d 16 4)).map (fun x => (x, Acc3.read))) [] = (.ok m, v))
    (hbytes : (v.violatePages (0x30 + h) (h + 1) m).snapBytes m (leAt d 8 8) (leAt d 16 4) = (some b, v2)) :
    ∃ t x, exec (.lrpSnapshot p) s = .next t ∧ (t.hostX h).bulk = some x ∧ x.packets.flatten = b ∧ x.op = 9 ∧ x.tag = leAt d 4 4 ∧
      x.acked = 0 ∧ x.sent = 0 ∧ v2.only t [.hosts] := by
  obtain ⟨x, hx, hpackets, hop, htag, hacked, hsent, honly⟩ := v2.openBulk_opens h d
    (if leAt d 16 4 = 0 then [[]] else chunksOf 1024 (leAt d 16 4 / 1024 + 1) b)
  refine ⟨_, x, ?_, hx, ?_, hop.trans hmsg.2.1, htag, hacked, hsent, honly⟩
  · change execLrpSnapshot p s = _
    unfold execLrpSnapshot
    rw [State.serveHost_of_lrpMsg hmsg (by omega) (by simp [hlen, hva, hn8, hmax]; omega)]
    dsimp only
    rw [hperm, if_neg (by decide), hbulk, hsnap, if_neg (by simp), State.snapshotHost]
    rw [htrans]
    dsimp only
    rw [hbytes]
  · have hlength := State.length_snapBytes hbytes
    rw [hpackets]
    split
    · next hzero =>
      rw [hzero] at hlength
      rw [List.length_eq_zero_iff.mp hlength]
      rfl
    · exact flatten_chunksOf (by decide) (by rw [hlength]; omega)

end Sys2Proof.Machine
end

section
/-! PROOF. LRP operations STOP and RESUME (spec/17, Table 17-4, R485 to R487). -/

namespace Sys2Proof.Machine

variable {s t u : State} {p : Fin 4} {h : Nat} {d : List Byte}

/-! ### What STOP has shown of a host stays shown -/

/-- HOST_STAT, HOST_STOPS, and HEAD and TAIL of the job rings of hosts A to D. -/
def stopRegs : List Nat :=
  [R.HOST_STAT.at, R.HOST_STOPS.at] ++ (List.range 8).flatMap (fun i => [R.HOST_JR_HEAD.at (8 + i), R.HOST_JR_TAIL.at (8 + i)])

theorem stopRegs_high : ∀ a ∈ stopRegs, R.ENG_BELL.at 511 < a ∧ a ∉ cardRegs ∧ a ≠ R.MEM_TAGERR.at ∧ a ≠ R.MMU_FSTAT.at := by decide

theorem stopRegs_ne_dmeStat : ∀ a ∈ stopRegs, ∀ k : Fin 16, a ≠ R.DME_STAT.at k.val := by decide

theorem stopRegs_not_mem_commitRegs : ∀ a ∈ stopRegs, ∀ q : Fin 16, a ∉ commitRegs q.val := by decide

theorem stopRegs_not_mem_passRegs : ∀ a ∈ stopRegs, (∀ n : Fin 8, a ∉ passEndRegs n.val) ∧ ∀ n : Fin 4, a ∉ overrideRegs n.val := by decide

theorem hostStat_mem_stopRegs : R.HOST_STAT.at ∈ stopRegs ∧ R.HOST_STOPS.at ∈ stopRegs := by decide

theorem jobIndex_mem_stopRegs : ∀ i : Fin 8, R.HOST_JR_HEAD.at (8 + i.val) ∈ stopRegs ∧ R.HOST_JR_TAIL.at (8 + i.val) ∈ stopRegs := by decide

/-- Job ring `q` holds no entry. -/
def State.jobsGone (s : State) (q : Nat) : Prop := s.fget F.HOST_JR_TAIL_INDEX q = s.fget F.HOST_JR_HEAD_INDEX q

/-- What STOP took from the hosts in `s` is still gone in `t`. -/
structure State.StopsMore (s t : State) : Prop where
  shown : ∀ k, k < 4 → bit (s.fget F.HOST_STAT_STOPPED) k = true → bit (t.fget F.HOST_STAT_STOPPED) k = true
  stops : t.rget R.HOST_STOPS = s.rget R.HOST_STOPS
  bulks : ∀ k, (s.hostX k).bulk = none → (t.hostX k).bulk = none
  jobs : ∀ i : Fin 8, s.jobsGone (8 + i.val) → t.jobsGone (8 + i.val)
  passes : ∀ j c, t.passHolder j = some c → s.passHolder j = some c

theorem State.StopsMore.refl (s : State) : s.StopsMore s := ⟨fun _ _ h => h, rfl, fun _ h => h, fun _ h => h, fun _ _ h => h⟩

theorem State.StopsMore.trans (h : s.StopsMore t) (h' : t.StopsMore u) : s.StopsMore u where
  shown k hk hs := h'.shown k hk (h.shown k hk hs)
  stops := h'.stops.trans h.stops
  bulks k hk := h'.bulks k (h.bulks k hk)
  jobs i hi := h'.jobs i (h.jobs i hi)
  passes j c hj := h.passes j c (h'.passes j c hj)

theorem State.stopsMore_foldl {α : Type} {f : State → α → State} {l : List α} (hf : ∀ s : State, ∀ x ∈ l, s.StopsMore (f s x)) (s : State) :
    s.StopsMore (l.foldl f s) :=
  List.foldlRecOn (motive := fun u : State => s.StopsMore u) _ _ (.refl s) fun u hu x hx => hu.trans (hf u x hx)

/-- An operation that leaves these registers and every transfer, and ends passes at most. -/
theorem State.stopsMore_of_kept (hregs : ∀ a ∈ stopRegs, t.rd a = s.rd a) (hbulks : ∀ k, (t.hostX k).bulk = (s.hostX k).bulk)
    (hpasses : ∀ j c, t.passHolder j = some c → s.passHolder j = some c) : s.StopsMore t where
  shown k _ hk := by rwa [State.fget_of_rd (hregs _ hostStat_mem_stopRegs.1)]
  stops := congrArg BitVec.toNat (hregs _ hostStat_mem_stopRegs.2)
  bulks k hk := (hbulks k).trans hk
  jobs i hi := by
    obtain ⟨hhead, htail⟩ := jobIndex_mem_stopRegs i
    exact (State.fget_of_rd (f := F.HOST_JR_TAIL_INDEX) (hregs _ htail)).trans
      (hi.trans (State.fget_of_rd (f := F.HOST_JR_HEAD_INDEX) (hregs _ hhead)).symm)
  passes := hpasses

theorem State.stopsMore_of_only {l : List Part} (h : s.only t l) (hl : .hosts ∉ l) (hregs : ∀ a ∈ stopRegs, t.rd a = s.rd a) :
    s.StopsMore t := by
  have hhosts : t.hosts = s.hosts := h .hosts hl
  refine State.stopsMore_of_kept hregs (fun k => ?_) (fun j c hj => ?_)
  · rw [State.hostX, hhosts, State.hostX]
  · rwa [← State.passHolder_of_only h hl]

/-! ### The halt of a context on a stream (R182) -/

theorem State.rd_unlockLines {a k : Nat} (ha : a ≠ R.DME_STAT.at k) : (s.unlockLines k).rd a = s.rd a := by
  change (((s.setLines k _).fset F.DME_STAT_LOCKED 0 k).setFlag F.DME_STAT_BUSY false k).rd a = _
  rw [State.rd_setFlag_ne _ F.DME_STAT_BUSY _ _ _ _ ha, State.rd_fset_ne _ F.DME_STAT_LOCKED _ _ _ _ ha]
  rfl

theorem core_lt_of_mem {n k : Nat} (hn : streamKind n = 1) {p : Prog}
    (hk : k ∈ if p.start.bcast then setBits 16 p.start.cmask else [n - 4]) : k < 16 := by
  have hcores : n < 12 := by
    unfold streamKind at hn
    split at hn
    · cases hn
    · split at hn
      · assumption
      · split at hn <;> cases hn
  split at hk
  · exact List.mem_range.mp (List.mem_filter.mp hk).1
  · obtain rfl := List.mem_singleton.mp hk
    omega

theorem State.stopsMore_unlockProg (n : Nat) (p : Prog) : s.StopsMore (s.unlockProg n p) := by
  refine State.stopsMore_of_only (s.unlockProg_only n p) (by simp) fun a ha => ?_
  unfold State.unlockProg
  split
  · rfl
  · next hkind =>
    exact List.foldlRecOn (motive := fun u : State => u.rd a = s.rd a) _ _ rfl fun u hu k hk =>
      (State.rd_unlockLines (stopRegs_ne_dmeStat a ha ⟨k, core_lt_of_mem (not_not.mp hkind) hk⟩)).trans hu

theorem State.stopsMore_haltProg {n : Nat} (hn : n < 22) (p : Prog) : s.StopsMore (s.haltProg n p 0x15 15 0xFFFF 0) :=
  State.stopsMore_of_only (s.haltProg_only n p 0x15 15 0xFFFF 0 (.inr rfl)) (by simp) fun a ha =>
    State.rd_haltProg_of_high s (stopRegs_high a ha).1 (stopRegs_high a ha).2.1 hn p _ _ _ _

theorem State.stopsMore_of_streams (h : s.only t [.streams]) : s.StopsMore t :=
  State.stopsMore_of_only h (by simp) fun a _ => State.rd_of_only h (by simp) a

theorem State.stopsMore_haltRunning {n : Nat} (hn : n < 22) (c : Nat) : s.StopsMore (s.haltRunning n c 0x15) := by
  rcases s.haltRunning_cases n c 0x15 with ⟨p, hrun, -, hhalt⟩ | ⟨-, hnone⟩
  · have hstop : s.StopsMore (s.stopRun n p 0x15 15 0xFFFF 0) :=
      ((State.stopsMore_unlockProg n p).trans (State.stopsMore_haltProg hn p)).trans (State.stopsMore_of_streams (State.setStream_only _ _ _))
    rw [hhalt, State.halt_of_some _ _ _ _ hrun]
    split
    · exact hstop.trans (State.stopsMore_of_streams (State.endBroadcast_only _ n))
    · exact hstop
  · rw [hnone]
    exact .refl s

/-- The record of a suspended access is marked free in its context's fault queue. -/
def State.freeSlot (s : State) (x : Susp) : State :=
  match s.faultQueue x.ctx with
  | some b => s.store (b + 64 * x.index) [0]
  | none => s

theorem State.freeSusp_eq (s : State) (x : Susp) : s.freeSusp x =
    { s.freeSlot x with mmu := { (s.freeSlot x).mmu with susps := (s.freeSlot x).mmu.susps.filter (fun y => y != x) } }.syncPend := rfl

theorem State.freeSlot_regsOnly (x : Susp) : s.regsOnly (s.freeSlot x) [R.MEM_TAGERR.at] := by
  unfold State.freeSlot
  split
  · exact s.store_regsOnly _ _
  · exact s.regsOnly_refl _

theorem State.stopsMore_freeSusp (x : Susp) : s.StopsMore (s.freeSusp x) := by
  refine State.stopsMore_of_only (s.freeSusp_only x) (by simp) fun a ha => ?_
  obtain ⟨-, -, htag, hpend⟩ := stopRegs_high a ha
  rw [s.freeSusp_eq]
  refine (State.rd_fset_ne _ F.MMU_FSTAT_PEND _ _ _ _ hpend).trans ?_
  exact s.freeSlot_regsOnly x a (fun h => htag (List.mem_singleton.mp h))

theorem State.stopsMore_haltContext {n : Nat} (hn : n < 22) (c : Nat) : s.StopsMore (s.haltContext n c 0x15) := by
  rw [s.haltContext_eq]
  refine (State.stopsMore_haltRunning hn c).trans (State.StopsMore.trans ?_ (State.stopsMore_foldl (fun u p _ => u.stopsMore_haltProg hn p) _))
  exact (State.stopsMore_foldl (fun u x _ => u.stopsMore_freeSusp x) _).trans (State.stopsMore_of_streams (State.setStream_only _ _ _))

/-! ### The parts of a target's stop (R485) -/

/-- The snapshot of host `k` that waits for a translation ends. -/
def State.endSnap (s : State) (k : Nat) : State :=
  match (s.hostX k).snap with
  | some (tag, _, _) =>
    let s := (s.mmu.susps.filter (fun (y : Susp) => y.unit == 0x30 + k)).foldl (fun (s : State) y => s.freeSusp y) s
    (s.setHostX k { s.hostX k with snap := none }).reply (.host k) 4 ([9, 0, 0, 0] ++ leBytes 4 tag) 0x07
  | none => s

/-- The bulk transfer of host `k` ends. -/
def State.endBulk (s : State) (k : Nat) : State := s.setHostX k { s.hostX k with bulk := none }

/-- Every stream halts context `c` and refuses its starts. -/
def State.haltStreams (s : State) (c : Nat) : State := (List.range 22).foldl (fun s n => (s.haltContext n c 0x15).refuseContext n c) s

/-- Pass `n` ends where context `c` holds it. -/
def State.endPassOf (s : State) (c n : Nat) : State :=
  if s.passHolder n = some c then (s.endPass n).hostCard 4 [BitVec.ofNat 8 n, BitVec.ofNat 8 c] else s

/-- HOST_STAT.STOPPED shows host `k`. -/
def State.markStopped (s : State) (k : Nat) : State := s.fset F.HOST_STAT_STOPPED (s.fget F.HOST_STAT_STOPPED ||| 2 ^ k)

theorem State.stopTarget_eq (s : State) (k : Nat) : s.stopTarget k =
    ((List.range 8).foldl (fun s n => s.endPassOf (k + 1) n)
      (((((s.endSnap k).endBulk k).discardJobs (8 + 2 * k)).discardJobs (9 + 2 * k)).haltStreams (k + 1))).markStopped k := rfl

theorem State.hosts_sendSealed (queue k : Nat) (b : List Byte) (j : Nat) : ((s.sendSealed h queue b).hostX k).bulk = (s.hostX k).bulk ∧
    (s.sendSealed h queue b).passHolder j = s.passHolder j := by
  cases hcur : (s.hostX h).cur with
  | none =>
    unfold State.sendSealed
    dsimp only
    rw [hcur]
    exact ⟨rfl, rfl⟩
  | some y =>
    obtain ⟨pkt, hsent⟩ := s.sendSealed_of_cur hcur queue b
    rw [hsent, State.hostX_transmit]
    refine ⟨?_, ?_⟩
    · by_cases hk : k = h
      · subst hk
        rw [State.counted, State.hostX_setHostX_self]
      · rw [State.counted, State.hostX_setHostX_ne _ hk]
    · unfold State.transmit
      split <;> rfl

theorem State.stopsMore_endSnap (k : Nat) : s.StopsMore (s.endSnap k) := by
  have hsend (v : State) (q : Nat) (b : List Byte) : v.StopsMore (v.sendSealed k q b) :=
    State.stopsMore_of_kept (fun a _ => State.rd_of_only (v.sendSealed_only k q b) (by simp) a)
      (fun j => (v.hosts_sendSealed q j b 0).1) (fun j c hj => (v.hosts_sendSealed q 0 b j).2 ▸ hj)
  have hset (v : State) : v.StopsMore (v.setHostX k { v.hostX k with snap := none }) := by
    refine State.stopsMore_of_kept (fun _ _ => rfl) (fun j => ?_) (fun _ _ hj => hj)
    by_cases hj : j = k
    · rw [hj, State.hostX_setHostX_self]
    · rw [State.hostX_setHostX_ne _ hj]
  unfold State.endSnap
  split
  · exact ((State.stopsMore_foldl (fun v x _ => v.stopsMore_freeSusp x) s).trans (hset _)).trans (hsend _ _ _)
  · exact .refl s

theorem State.stopsMore_endBulk (k : Nat) : s.StopsMore (s.endBulk k) ∧ ((s.endBulk k).hostX k).bulk = none := by
  have hself : ((s.endBulk k).hostX k).bulk = none := by rw [State.endBulk, State.hostX_setHostX_self]
  refine ⟨⟨fun _ _ h => h, rfl, fun j hj => ?_, fun _ h => h, fun _ _ h => h⟩, hself⟩
  by_cases hjk : j = k
  · rw [hjk, hself]
  · rw [State.endBulk, State.hostX_setHostX_ne _ hjk, hj]

theorem State.stopsMore_jobRecord {q : Nat} (hq : q < 16) (b : List Byte) : s.StopsMore (s.jobRecord q b) := by
  have hcommit : s.StopsMore (s.tryCommit q b).2 :=
    State.stopsMore_of_only (s.tryCommit_only q b) (by simp) fun a ha =>
      s.tryCommit_regsOnly q b a (stopRegs_not_mem_commitRegs a ha ⟨q, hq⟩)
  unfold State.jobRecord
  split
  · exact ⟨fun _ _ h => h, rfl, fun _ h => h, fun _ h => h, fun _ _ h => h⟩
  · split
    · next v heq =>
      rw [heq] at hcommit
      exact ⟨hcommit.shown, hcommit.stops, hcommit.bulks, hcommit.jobs, hcommit.passes⟩
    · next v _ heq =>
      rw [heq] at hcommit
      exact hcommit

theorem jobTail_apart (q q' : Nat) : R.HOST_STAT.at ≠ R.HOST_JR_TAIL.at q ∧ R.HOST_STOPS.at ≠ R.HOST_JR_TAIL.at q ∧
    R.HOST_JR_HEAD.at q' ≠ R.HOST_JR_TAIL.at q ∧ (q' ≠ q → R.HOST_JR_TAIL.at q' ≠ R.HOST_JR_TAIL.at q) := by
  simp only [RegDesc.at, R.HOST_STAT, R.HOST_STOPS, R.HOST_JR_TAIL, R.HOST_JR_HEAD]
  omega

/-- TAIL of job ring `q` moves to HEAD. -/
def State.emptyJobs (s : State) (q : Nat) : State :=
  (s.fset F.HOST_JR_TAIL_INDEX (s.fget F.HOST_JR_HEAD_INDEX q) q).setHosts
    { s.hosts with jobStop := s.hosts.jobStop.filter (fun x => x.1 != q) }

theorem State.stopsMore_emptyJobs (q : Nat) : s.StopsMore (s.emptyJobs q) ∧ (s.emptyJobs q).jobsGone q := by
  have hrd {a : Nat} (ha : a ≠ R.HOST_JR_TAIL.at q) : (s.emptyJobs q).rd a = s.rd a := State.rd_fset_ne s F.HOST_JR_TAIL_INDEX _ _ _ _ ha
  have hself : (s.emptyJobs q).jobsGone q := by
    have htail : (s.emptyJobs q).fget F.HOST_JR_TAIL_INDEX q = s.fget F.HOST_JR_HEAD_INDEX q :=
      (s.fget_fset_self F.HOST_JR_TAIL_INDEX _ q 0 (by decide) (by decide)).trans (Nat.mod_eq_of_lt (getField_lt _ _ _))
    exact htail.trans (State.fget_of_rd (f := F.HOST_JR_HEAD_INDEX) (hrd (jobTail_apart q q).2.2.1)).symm
  refine ⟨⟨fun k _ hk => ?_, congrArg BitVec.toNat (hrd (jobTail_apart q 0).2.1), fun _ h => h, fun i hi => ?_, fun _ _ h => h⟩, hself⟩
  · rwa [State.fget_of_rd (hrd (jobTail_apart q 0).1)]
  · by_cases hiq : 8 + i.val = q
    · rw [hiq]
      exact hself
    · obtain ⟨-, -, hhead, htail⟩ := jobTail_apart q (8 + i.val)
      exact (State.fget_of_rd (f := F.HOST_JR_TAIL_INDEX) (hrd (htail hiq))).trans
        (hi.trans (State.fget_of_rd (f := F.HOST_JR_HEAD_INDEX) (hrd hhead)).symm)

theorem State.stopsMore_discardJobs (i : Fin 8) :
    s.StopsMore (s.discardJobs (8 + i.val)) ∧ (s.discardJobs (8 + i.val)).jobsGone (8 + i.val) := by
  obtain ⟨hempty, hgone⟩ := s.stopsMore_emptyJobs (8 + i.val)
  have hrecords : (s.emptyJobs (8 + i.val)).StopsMore (s.discardJobs (8 + i.val)) := by
    refine State.stopsMore_foldl (fun v e _ => ?_) (s.emptyJobs (8 + i.val))
    split
    · exact v.stopsMore_jobRecord (by omega) _
    · exact .refl v
  exact ⟨hempty.trans hrecords, hrecords.jobs i hgone⟩

theorem State.stopsMore_haltStreams (c : Nat) : s.StopsMore (s.haltStreams c) :=
  State.stopsMore_foldl (fun v n hn => (v.stopsMore_haltContext (List.mem_range.mp hn) c).trans
    (State.stopsMore_of_streams (State.refuseContext_only _ n c))) s

theorem State.hostX_endPass (n k : Nat) : (s.endPass n).hostX k = s.hostX k := by
  have hfreed : (s.freedPass n).hostX k = s.hostX k := rfl
  have hkept {v : State} {l : List Part} (h : (s.freedPass n).only v l) (hl : .hosts ∉ l) : v.hostX k = s.hostX k := by
    have hhosts : v.hosts = (s.freedPass n).hosts := h .hosts hl
    rw [State.hostX, hhosts]
    exact hfreed
  by_cases hfree : s.passHolder n = none
  · rw [State.endPass, if_pos hfree]
  · rw [State.endPass_of_held hfree]
    split
    · exact hkept (State.dropTovr_only _) (by simp)
    · split
      · exact hkept (State.dropOverrides_only _) (by simp)
      · exact hfreed

theorem State.stopsMore_hostCard (event : Nat) (b : List Byte) : s.StopsMore (s.hostCard event b) :=
  State.stopsMore_of_only (s.hostCard_keeps event b) (by simp) fun a ha => State.rd_card _ (stopRegs_high a ha).2.1 _

theorem State.stopsMore_endPassOf (c : Nat) (n : Fin 8) : s.StopsMore (s.endPassOf c n.val) ∧ (s.endPassOf c n.val).passHolder n.val ≠ some c := by
  unfold State.endPassOf
  split
  · next hheld =>
    have hended : s.PassEnded (s.endPass n.val) n.val := State.passEnded_endPass (by rw [hheld]; exact Option.some_ne_none c)
    have hend : s.StopsMore (s.endPass n.val) := by
      refine State.stopsMore_of_kept (fun a ha => ?_) (fun k => congrArg HostX.bulk (s.hostX_endPass n.val k)) (fun j c hj => ?_)
      · obtain ⟨hpass, hovr⟩ := stopRegs_not_mem_passRegs a ha
        exact s.rd_endPass (hpass n) hovr
      · by_cases hjn : j = n.val
        · rw [hjn, hended.free] at hj
          cases hj
        · rwa [← hended.others j hjn]
    have hcard := (s.endPass n.val).stopsMore_hostCard 4 [BitVec.ofNat 8 n.val, BitVec.ofNat 8 c]
    refine ⟨hend.trans hcard, fun hstill => ?_⟩
    have hfree := hcard.passes _ _ hstill
    rw [hended.free] at hfree
    cases hfree
  · next hother => exact ⟨.refl s, hother⟩

theorem State.stopsMore_endPasses (c : Nat) (l : List (Fin 8)) : s.StopsMore (l.foldl (fun s n => s.endPassOf c n.val) s) ∧
    ∀ n ∈ l, (l.foldl (fun s n => s.endPassOf c n.val) s).passHolder n.val ≠ some c := by
  induction l generalizing s with
  | nil => exact ⟨.refl s, fun n hn => absurd hn List.not_mem_nil⟩
  | cons m l ih =>
    obtain ⟨hm, hmfree⟩ := s.stopsMore_endPassOf c m
    obtain ⟨hl, hlfree⟩ := ih (s := s.endPassOf c m.val)
    refine ⟨hm.trans hl, fun n hn hstill => ?_⟩
    rcases List.mem_cons.mp hn with rfl | hn
    · exact hmfree (hl.passes _ _ hstill)
    · exact hlfree n hn hstill

theorem State.stopsMore_markStopped {k : Nat} (hk : k < 4) : s.StopsMore (s.markStopped k) ∧
    bit ((s.markStopped k).fget F.HOST_STAT_STOPPED) k = true := by
  have hfield : (s.markStopped k).fget F.HOST_STAT_STOPPED = (s.fget F.HOST_STAT_STOPPED ||| 2 ^ k) % 2 ^ 4 :=
    s.fget_fset_self F.HOST_STAT_STOPPED _ 0 0 (by decide) (by decide)
  have hbit {j : Nat} (hj : j < 4) : bit ((s.markStopped k).fget F.HOST_STAT_STOPPED) j =
      (bit (s.fget F.HOST_STAT_STOPPED) j || decide (k = j)) := by
    rw [hfield, bit_eq_testBit, bit_eq_testBit, Nat.testBit_mod_two_pow, Nat.testBit_or, Nat.testBit_two_pow]
    simp [hj]
  have hrd {a : Nat} (ha : a ≠ R.HOST_STAT.at) : (s.markStopped k).rd a = s.rd a := State.rd_fset_ne s F.HOST_STAT_STOPPED _ _ _ _ ha
  refine ⟨⟨fun j hj hs => ?_, congrArg BitVec.toNat (hrd (by decide)), fun _ h => h, fun i hi => ?_, fun _ _ h => h⟩, ?_⟩
  · rw [hbit hj, hs, Bool.true_or]
  · have hhead : R.HOST_JR_HEAD.at (8 + i.val) ≠ R.HOST_STAT.at ∧ R.HOST_JR_TAIL.at (8 + i.val) ≠ R.HOST_STAT.at := by
      simp only [RegDesc.at, R.HOST_STAT, R.HOST_JR_TAIL, R.HOST_JR_HEAD]
      omega
    exact (State.fget_of_rd (f := F.HOST_JR_TAIL_INDEX) (hrd hhead.2)).trans
      (hi.trans (State.fget_of_rd (f := F.HOST_JR_HEAD_INDEX) (hrd hhead.1)).symm)
  · rw [hbit hk]
    simp

/-! ### A target, and all targets -/

/-- Host `k` is stopped. -/
structure State.Stopped (s : State) (k : Nat) : Prop where
  shown : bit (s.fget F.HOST_STAT_STOPPED) k = true
  bulk : (s.hostX k).bulk = none
  upper : s.jobsGone (8 + 2 * k)
  lower : s.jobsGone (9 + 2 * k)
  passes : ∀ j, j < 8 → s.passHolder j ≠ some (k + 1)

theorem State.Stopped.mono {k : Nat} (hk : k < 4) (hs : s.Stopped k) (h : s.StopsMore t) : t.Stopped k where
  shown := h.shown k hk hs.shown
  bulk := h.bulks k hs.bulk
  upper := h.jobs ⟨2 * k, by omega⟩ hs.upper
  lower := by
    have hring : 9 + 2 * k = 8 + (2 * k + 1) := by omega
    have hlower := hs.lower
    rw [hring] at hlower ⊢
    exact h.jobs ⟨2 * k + 1, by omega⟩ hlower
  passes j hj hstill := hs.passes j hj (h.passes _ _ hstill)

theorem State.stopTarget_stops {k : Nat} (hk : k < 4) : s.StopsMore (s.stopTarget k) ∧ (s.stopTarget k).Stopped k := by
  let a := s.endSnap k
  let b := a.endBulk k
  let c := b.discardJobs (8 + 2 * k)
  let e := c.discardJobs (9 + 2 * k)
  let f := e.haltStreams (k + 1)
  let g := (List.range 8).foldl (fun s n => s.endPassOf (k + 1) n) f
  have heq : s.stopTarget k = g.markStopped k := s.stopTarget_eq k
  have hsnap : s.StopsMore a := s.stopsMore_endSnap k
  obtain ⟨hbulk, hnone⟩ : a.StopsMore b ∧ (b.hostX k).bulk = none := a.stopsMore_endBulk k
  obtain ⟨hupper, hugone⟩ : b.StopsMore c ∧ c.jobsGone (8 + 2 * k) := b.stopsMore_discardJobs ⟨2 * k, by omega⟩
  have hring : 9 + 2 * k = 8 + (2 * k + 1) := by omega
  obtain ⟨hlower, hlgone⟩ : c.StopsMore e ∧ e.jobsGone (9 + 2 * k) := by
    unfold e
    rw [hring]
    exact c.stopsMore_discardJobs ⟨2 * k + 1, by omega⟩
  have hhalt : e.StopsMore f := e.stopsMore_haltStreams (k + 1)
  have hfin : g = (List.finRange 8).foldl (fun s n => s.endPassOf (k + 1) n.val) f := rfl
  obtain ⟨hpasses, hfree⟩ := f.stopsMore_endPasses (k + 1) (List.finRange 8)
  rw [← hfin] at hpasses hfree
  obtain ⟨hmark, hshown⟩ := g.stopsMore_markStopped hk
  have hlast := (hhalt.trans hpasses).trans hmark
  rw [heq]
  refine ⟨(((hsnap.trans hbulk).trans hupper).trans hlower).trans hlast, hshown, ?_, ?_, ?_, fun j hj hstill => ?_⟩
  · exact ((hupper.trans hlower).trans hlast).bulks k hnone
  · exact (hlower.trans hlast).jobs ⟨2 * k, by omega⟩ hugone
  · rw [hring] at hlgone ⊢
    exact hlast.jobs ⟨2 * k + 1, by omega⟩ hlgone
  · exact hfree ⟨j, hj⟩ (List.mem_finRange _) (hmark.passes _ _ hstill)

theorem State.stopTargets_stop {l : List Nat} (hl : ∀ k ∈ l, k < 4) : s.StopsMore (l.foldl (fun s k => s.stopTarget k) s) ∧
    ∀ k ∈ l, (l.foldl (fun s k => s.stopTarget k) s).Stopped k := by
  induction l generalizing s with
  | nil => exact ⟨.refl s, fun k hk => absurd hk List.not_mem_nil⟩
  | cons m l ih =>
    obtain ⟨hmore, hstopped⟩ := s.stopTarget_stops (hl m List.mem_cons_self)
    obtain ⟨hrest, hall⟩ := ih (s := s.stopTarget m) fun k hk => hl k (List.mem_cons_of_mem m hk)
    rw [List.foldl_cons]
    refine ⟨hmore.trans hrest, fun k hk => ?_⟩
    rcases List.mem_cons.mp hk with rfl | hk
    · exact hstopped.mono (hl k List.mem_cons_self) hrest
    · exact hall k hk

/-- The hosts that STOP of host `h` stops. -/
def stopTargets (h mask : Nat) : List Nat := (List.range 4).filter (fun k => k == h || bit mask k)

/-- The byte of STOP's reply that names the contexts stopped. -/
def stopMask (f : Nat → Bool) : Nat := (((List.range 4).filter f).map (fun k => 2 ^ (k + 1))).sum

theorem bit_stopMask (f : Nat → Bool) : ∀ k, k < 4 → bit (BitVec.ofNat 8 (stopMask f)).toNat (k + 1) = f k := by
  have hcases : ∀ a b c e : Bool, ∀ k : Fin 4, bit (BitVec.ofNat 8 (stopMask (fun i => [a, b, c, e].getD i false))).toNat (k.val + 1) =
      [a, b, c, e].getD k.val false := by decide
  have hf : stopMask f = stopMask (fun i => [f 0, f 1, f 2, f 3].getD i false) := by
    unfold stopMask
    rw [List.filter_congr fun k hk => ?_]
    have hk4 : k < 4 := List.mem_range.mp hk
    obtain rfl | rfl | rfl | rfl : k = 0 ∨ k = 1 ∨ k = 2 ∨ k = 3 := by omega
    all_goals rfl
  intro k hk
  rw [hf]
  refine (hcases (f 0) (f 1) (f 2) (f 3) ⟨k, hk⟩).trans ?_
  obtain rfl | rfl | rfl | rfl : k = 0 ∨ k = 1 ∨ k = 2 ∨ k = 3 := by omega
  all_goals rfl

theorem lrpStop_stops (hmsg : s.lrpMsg u p.val 7 h d) (hlen : d.length = 8) : ∃ (w : State) (m : Byte) (n : Nat),
    exec (.lrpStop p) s = .next (w.reply (.host h) 7 d 0 ([m, 0, 0, 0] ++ leBytes 4 n)) ∧
      w.rget R.HOST_STOPS = satAdd 32 (u.rget R.HOST_STOPS) 1 ∧ ∀ k, k < 4 → bit m.toNat (k + 1) = (k == h || bit (u.hostX h).stopMask k) ∧
        (k = h ∨ bit (u.hostX h).stopMask k = true → bit (w.fget F.HOST_STAT_STOPPED) k = true ∧ (w.hostX k).bulk = none ∧
          w.fget F.HOST_JR_TAIL_INDEX (8 + 2 * k) = w.fget F.HOST_JR_HEAD_INDEX (8 + 2 * k) ∧
          w.fget F.HOST_JR_TAIL_INDEX (9 + 2 * k) = w.fget F.HOST_JR_HEAD_INDEX (9 + 2 * k) ∧
          ∀ j, j < 8 → w.passHolder j ≠ some (k + 1)) := by
  let ts := stopTargets h (u.hostX h).stopMask
  let v := ts.foldl (fun s k => s.stopTarget k) u
  let m := stopMask (fun k => k == h || bit (u.hostX h).stopMask k)
  let n := (ts.map (fun k => u.programsOf (k + 1))).sum
  let w := (v.count R.HOST_STOPS).hostCard 2 ([BitVec.ofNat 8 h, BitVec.ofNat 8 m, 0, 0] ++ leBytes 4 n)
  obtain ⟨hmore, hall⟩ : u.StopsMore v ∧ ∀ k ∈ ts, v.Stopped k :=
    State.stopTargets_stop fun k hk => List.mem_range.mp (List.mem_filter.mp hk).1
  have hcard : (v.count R.HOST_STOPS).StopsMore w := State.stopsMore_hostCard 2 _
  have hcount {k : Nat} (hs : v.Stopped k) : (v.count R.HOST_STOPS).Stopped k := by
    have hrd {a : Nat} (ha : a ≠ R.HOST_STOPS.at) : (v.count R.HOST_STOPS).rd a = v.rd a := v.rd_count_ne R.HOST_STOPS _ _ _ _ ha
    have hjobs (q : Nat) (hq : v.jobsGone q) : (v.count R.HOST_STOPS).jobsGone q := by
      have hne : R.HOST_JR_HEAD.at q ≠ R.HOST_STOPS.at ∧ R.HOST_JR_TAIL.at q ≠ R.HOST_STOPS.at := by
        simp only [RegDesc.at, R.HOST_STOPS, R.HOST_JR_TAIL, R.HOST_JR_HEAD]
        omega
      exact (State.fget_of_rd (f := F.HOST_JR_TAIL_INDEX) (hrd hne.2)).trans
        (hq.trans (State.fget_of_rd (f := F.HOST_JR_HEAD_INDEX) (hrd hne.1)).symm)
    refine ⟨?_, hs.bulk, hjobs _ hs.upper, hjobs _ hs.lower, hs.passes⟩
    rw [State.fget_of_rd (hrd (by decide))]
    exact hs.shown
  refine ⟨w, BitVec.ofNat 8 m, n, ?_, ?_, fun k hk => ⟨bit_stopMask _ k hk, fun htarget => ?_⟩⟩
  · change execLrpStop p s = _
    unfold execLrpStop
    rw [State.serveHost_of_lrpMsg hmsg (by omega) (by simp [hlen])]
    rfl
  · rw [hcard.stops, State.rget_count_self, hmore.stops]
  · have hmem : k ∈ ts := List.mem_filter.mpr ⟨List.mem_range.mpr hk, by simpa using htarget⟩
    have hw := (hcount (hall k hmem)).mono hk hcard
    exact ⟨hw.shown, hw.bulk, hw.upper, hw.lower, hw.passes⟩

/-! ### RESUME (R487) -/

/-- No stream refuses the starts of the contexts that `mask` names. -/
def State.clearAllHalts (s : State) (mask : Nat) : State := (List.range 22).foldl (fun s n => s.clearHalts n mask) s

theorem State.foldl_clearHalts (mask : Nat) (l : List Nat) : s.only (l.foldl (fun s n => s.clearHalts n mask) s) [.streams] ∧
    ∀ i, bit mask i = true → ∀ n, n ∈ l ∨ bit (s.stream n).halted i = false →
      bit ((l.foldl (fun s n => s.clearHalts n mask) s).stream n).halted i = false := by
  induction l generalizing s with
  | nil => exact ⟨s.only_refl _, fun i _ n hn => hn.resolve_left List.not_mem_nil⟩
  | cons k l ih =>
    obtain ⟨honly, hclear⟩ := ih (s := s.clearHalts k mask)
    refine ⟨State.only_trans (State.setStream_only s k _) honly, fun i hi n hn => hclear i hi n ?_⟩
    by_cases hnk : n = k
    · refine .inr ?_
      rw [hnk, State.clearHalts, State.stream_setStream_self, bit_sub_and, hi, Bool.not_true, Bool.and_false]
    · rcases hn with hn | hn
      · exact .inl (List.mem_of_ne_of_mem hnk hn)
      · exact .inr (by rwa [State.clearHalts, State.stream_setStream_ne _ hnk])

theorem State.clearAllHalts_clears (s : State) (mask : Nat) : s.only (s.clearAllHalts mask) [.streams] ∧
    ∀ i, bit mask i = true → ∀ n, n < 22 → bit ((s.clearAllHalts mask).stream n).halted i = false := by
  obtain ⟨honly, hclear⟩ := s.foldl_clearHalts mask (List.range 22)
  exact ⟨honly, fun i hi n hn => hclear i hi n (.inl (List.mem_range.mpr hn))⟩

theorem bit_two_pow_self (i : Nat) : bit (2 ^ i) i = true := by
  rw [bit_eq_testBit, Nat.testBit_two_pow_self]

/-- HOST_STAT.STOPPED without host `h`. -/
def State.markResumed (s : State) (h : Nat) : State :=
  s.fset F.HOST_STAT_STOPPED (s.fget F.HOST_STAT_STOPPED - (s.fget F.HOST_STAT_STOPPED &&& 2 ^ h))

theorem State.markResumed_only (s : State) (h : Nat) : s.only (s.markResumed h) [.regs] := by simp [State.markResumed]

theorem State.stopped_markResumed (k : Nat) : bit ((s.markResumed h).fget F.HOST_STAT_STOPPED) k =
    (bit (s.fget F.HOST_STAT_STOPPED) k && k != h) := by
  have hfield : (s.markResumed h).fget F.HOST_STAT_STOPPED = s.fget F.HOST_STAT_STOPPED - (s.fget F.HOST_STAT_STOPPED &&& 2 ^ h) :=
    (s.fget_fset_self F.HOST_STAT_STOPPED _ 0 0 (by decide) (by decide)).trans
      (Nat.mod_eq_of_lt (Nat.lt_of_le_of_lt (Nat.sub_le _ _) (getField_lt _ _ _)))
  rw [hfield, bit_sub_and, bit_eq_testBit (2 ^ h), Nat.testBit_two_pow]
  have hne : (k != h) = !decide (h = k) := by
    by_cases hk : h = k
    · simp [hk]
    · simp [hk, Ne.symm hk]
  rw [hne]

theorem lrpResume_resumes (hmsg : s.lrpMsg u p.val 8 h d) (hlen : d.length = 8) :
    ∃ w : State, exec (.lrpResume p) s = .next (w.reply (.host h) 4 d 0) ∧
      (∀ k, k < 4 → bit (w.fget F.HOST_STAT_STOPPED) k = (bit (u.fget F.HOST_STAT_STOPPED) k && k != h)) ∧
      (∀ n, n < 22 → bit (w.stream n).halted (h + 1) = false) ∧ u.only w [.regs, .streams] ∧ u.regsOnly w [R.HOST_STAT.at] := by
  obtain ⟨honly, hclear⟩ := u.clearAllHalts_clears (2 ^ (h + 1))
  have hexec : exec (.lrpResume p) s = .next (((u.clearAllHalts (2 ^ (h + 1))).markResumed h).reply (.host h) 4 d 0) := by
    change execLrpResume p s = _
    unfold execLrpResume
    rw [State.serveHost_of_lrpMsg hmsg (by omega) (by simp [hlen])]
    unfold State.markResumed State.clearAllHalts State.clearHalts
    rfl
  generalize u.clearAllHalts (2 ^ (h + 1)) = v at honly hclear hexec
  have hregs (a : Nat) : v.rd a = u.rd a := State.rd_of_only honly (by simp) a
  refine ⟨v.markResumed h, hexec, fun k _ => ?_, fun n hn => ?_, ?_, fun a ha => ?_⟩
  · rw [State.stopped_markResumed, State.fget_of_rd (hregs _)]
  · rw [State.stream_of_only (v.markResumed_only h) (by simp)]
    exact hclear (h + 1) (bit_two_pow_self _) n hn
  · exact State.only_trans (State.only_mono honly (by simp)) (State.only_mono (v.markResumed_only h) (by simp))
  · exact (State.rd_fset_ne _ F.HOST_STAT_STOPPED _ _ _ a (List.ne_of_not_mem_cons ha)).trans (hregs a)

end Sys2Proof.Machine
end

section
/-! PROOF. LRP operations on the ledger, the outputs and the safety functions, and the obligation (spec/17, Table 17-4). -/

namespace Sys2Proof.Machine

variable {s u : State} {p : Fin 4} {h : Nat} {d : List Byte}

theorem lrpTariff_overrides (hmsg : s.lrpMsg u p.val 11 h d) (hlen : d.length = 10) (hen : leAt d 8 1 < 2) (hk : leAt d 9 1 < 8)
    (hheld : u.passOf 0 = some (h + 1)) : ∃ w : State, exec (.lrpTariff p) s = .next (w.reply (.host h) 4 d 0) ∧
      w.flag F.LDG_TOVR_EN = (leAt d 8 1 == 1) ∧ w.fget F.LDG_TOVR_TARIFF = leAt d 9 1 ∧ u.only w [.regs, .ledger] := by
  obtain ⟨hflag, htariff, -, -, honly, -⟩ := u.setTovr_sets (leAt d 8 1 == 1) true hk
  refine ⟨_, ?_, hflag, htariff, honly⟩
  change execLrpTariff p s = _
  unfold execLrpTariff
  rw [State.serveHost_of_lrpMsg hmsg (by omega) (by simp [hlen, hen, hk])]
  exact congrArg Host.Outcome.next (if_neg fun hne => hne hheld)

theorem lrpMdclr_clears (hmsg : s.lrpMsg u p.val 12 h d) (hlen : d.length = 8) (hheld : u.passOf 0 = some (h + 1)) :
    ∃ w : State, exec (.lrpMdclr p) s = .next (w.reply (.host h) 4 d 0) ∧
      w.ledger.tariffs = u.ledger.tariffs.map (fun x => { x with maxDem := 0 }) ∧ u.only w [.regs, .chn, .ledger, .events] := by
  have hcleared := u.mdCleared_clearMaxDemand
  refine ⟨u.clearMaxDemand, ?_, hcleared.tariffs, hcleared.only⟩
  change execLrpMdclr p s = _
  unfold execLrpMdclr
  rw [State.serveHost_of_lrpMsg hmsg (by omega) (by simp [hlen])]
  exact congrArg Host.Outcome.next (if_neg fun hne => hne hheld)

theorem lrpAovr_overrides (hmsg : s.lrpMsg u p.val 13 h d) (hlen : d.length = 12) (hn : leAt d 8 1 < 4) (hen : leAt d 9 1 < 2)
    (hheld : u.passOf 1 = some (h + 1)) : ∃ w : State, exec (.lrpAovr p) s = .next (w.reply (.host h) 4 d 0) ∧
      w.flag F.OUT_AO_OVR_EN (leAt d 8 1) = (leAt d 9 1 == 1) ∧ w.fget F.OUT_AO_OVR_VALUE (leAt d 8 1) = leAt d 10 2 ∧
      u.only w [.regs, .chn, .aos, .events] := by
  have hvalue : (u.setOverride (leAt d 8 1) (leAt d 9 1 == 1) (leAt d 10 2) true).fget F.OUT_AO_OVR_VALUE (leAt d 8 1) = leAt d 10 2 := by
    rw [State.setOverride_eq, State.fget_aoUpdate (n := ⟨leAt d 8 1, hn⟩) (by simp [aoDriveRegs, F.OUT_AO_OVR_VALUE]),
      State.value_overrideWritten]
    exact Nat.mod_eq_of_lt (leAt_lt d 10 2)
  have honly : u.only (u.setOverride (leAt d 8 1) (leAt d 9 1 == 1) (leAt d 10 2) true) aoParts := by
    rw [State.setOverride_eq]
    exact State.only_trans (State.overrideWritten_only _ _ _ _) (State.aoUpdate_only _ _)
  refine ⟨_, ?_, u.ovr_setOverride ⟨leAt d 8 1, hn⟩ _ _ _, hvalue, honly⟩
  change execLrpAovr p s = _
  unfold execLrpAovr
  rw [State.serveHost_of_lrpMsg hmsg (by omega) (by simp [hlen, hn, hen])]
  exact congrArg Host.Outcome.next (if_neg fun hne => hne hheld)

theorem lrpSafereset_resets (hmsg : s.lrpMsg u p.val 14 h d) (hlen : d.length = 8) (hsrc : bit (leAt u.safe.params 5 1) 4 = true)
    (hhost : bits (leAt u.safe.params 5 1) 5 2 = h) (hrun : u.fnsRun = true) :
    exec (.lrpSafereset p) s = .next ((u.resetRequest 1).reply (.host h) 4 d 0) := by
  change execLrpSafereset p s = _
  unfold execLrpSafereset
  rw [State.serveHost_of_lrpMsg hmsg (by omega) (by simp [hlen])]
  dsimp only
  rw [hsrc, hhost, hrun, if_neg (by simp), if_pos rfl]

/-! ### LEDGERKEY (R405) -/

theorem leBytes_leNat (l : List Byte) : leBytes l.length (leNat l) = l := by
  induction l with
  | nil => rfl
  | cons b l ih =>
    have hb : BitVec.ofNat 8 (b.toNat + 256 * leNat l) = b := BitVec.eq_of_toNat_eq (by
      rw [BitVec.toNat_ofNat, Nat.add_mul_mod_self_left]
      exact Nat.mod_eq_of_lt b.isLt)
    have hrest : (b.toNat + 256 * leNat l) / 256 = leNat l := by
      have := b.isLt
      omega
    rw [List.length_cons, leNat, leBytes, hb, hrest, ih]

theorem flatMap_leBytes_leAt (l : List Byte) (o n : Nat) (h : o + 4 * n ≤ l.length) :
    (List.range n).flatMap (fun i => leBytes 4 (leAt l (o + 4 * i) 4)) = (l.drop o).take (4 * n) := by
  induction n with
  | zero => simp
  | succ n ih =>
    have hword : ((l.drop (o + 4 * n)).take 4).length = 4 := by
      rw [List.length_take, List.length_drop]
      omega
    have hbytes := leBytes_leNat ((l.drop (o + 4 * n)).take 4)
    rw [hword] at hbytes
    rw [List.range_succ, List.flatMap_append, ih (by omega), List.flatMap_singleton, leAt, hbytes, Nat.mul_succ, List.take_add, List.drop_drop]

/-- The key words of `f` are written. -/
theorem State.foldl_loadKey (s : State) (f : Nat → Nat) (l : List Nat) : s.only (l.foldl (fun s i => s.rset R.LDG_KEY (f i) i) s) [.regs] ∧
    (∀ i ∈ l, (l.foldl (fun s i => s.rset R.LDG_KEY (f i) i) s).rget R.LDG_KEY i = f i % 2 ^ 32) ∧
    ∀ a, (∀ i ∈ l, a ≠ R.LDG_KEY.at i) → (l.foldl (fun s i => s.rset R.LDG_KEY (f i) i) s).rd a = s.rd a := by
  induction l generalizing s with
  | nil => exact ⟨s.only_refl _, fun i hi => absurd hi List.not_mem_nil, fun _ _ => rfl⟩
  | cons k l ih =>
    obtain ⟨honly, hkeys, hrest⟩ := ih (s.rset R.LDG_KEY (f k) k)
    refine ⟨State.only_trans (by simp) honly, fun i hi => ?_, fun a ha => (hrest a fun i hi => ha i (List.mem_cons_of_mem k hi)).trans ?_⟩
    · by_cases hil : i ∈ l
      · exact hkeys i hil
      · obtain rfl : i = k := (List.mem_cons.mp hi).resolve_right hil
        have hword := hrest (R.LDG_KEY.at i) fun j hj => ldgKey_at_inj fun hij => hil (hij ▸ hj)
        exact (congrArg BitVec.toNat hword).trans (s.rget_rset_self R.LDG_KEY (f i) i 0)
    · exact State.rd_rset_ne _ R.LDG_KEY _ _ _ _ (ha k List.mem_cons_self)

/-- The key of a message in the key words. -/
def State.loadKey (s : State) (d : List Byte) : State := (List.range 8).foldl (fun s i => s.rset R.LDG_KEY (leAt d (8 + 4 * i) 4) i) s

theorem lrpLedgerkey_programs (hmsg : s.lrpMsg u p.val 15 h d) (hlen : d.length = 40) (hperm : bit (u.hostX h).perm 0 = true)
    (hunset : u.flag F.LDG_STAT_KEYSET = false) : ∃ w : State, exec (.lrpLedgerkey p) s = .next (w.reply (.host h) 4 d 0) ∧
      w.ledger.key = d.drop 8 ∧ w.flag F.LDG_STAT_KEYSET = true ∧ u.only w [.regs, .chn, .ledger, .events] := by
  have hexec : exec (.lrpLedgerkey p) s = .next ((u.loadKey d).programKey.reply (.host h) 4 d 0) := by
    change execLrpLedgerkey p s = _
    unfold execLrpLedgerkey
    rw [State.serveHost_of_lrpMsg hmsg (by omega) (by simp [hlen])]
    dsimp only
    rw [hperm, hunset, if_neg (by decide), if_neg (by decide)]
    rfl
  obtain ⟨honly, hkeys, hrest⟩ : u.only (u.loadKey d) [.regs] ∧
      (∀ i ∈ List.range 8, (u.loadKey d).rget R.LDG_KEY i = leAt d (8 + 4 * i) 4 % 2 ^ 32) ∧
      ∀ a, (∀ i ∈ List.range 8, a ≠ R.LDG_KEY.at i) → (u.loadKey d).rd a = u.rd a :=
    u.foldl_loadKey (fun i => leAt d (8 + 4 * i) 4) (List.range 8)
  generalize u.loadKey d = v at hexec honly hkeys hrest
  have hset : v.flag F.LDG_STAT_KEYSET = false := by
    have hstat : v.rd R.LDG_STAT.at = u.rd R.LDG_STAT.at := hrest _ fun i hi => ((ldgKey_apart ⟨i, List.mem_range.mp hi⟩).1).symm
    rw [State.flag_of_rd (f := F.LDG_STAT_KEYSET) hstat, hunset]
  obtain ⟨hkey, hshown, -, -, hprog⟩ := v.programKey_programs hset
  have hbytes : (List.range 8).flatMap (fun i => leBytes 4 (v.rget R.LDG_KEY i)) = d.drop 8 := by
    have hwords : (List.range 8).flatMap (fun i => leBytes 4 (v.rget R.LDG_KEY i)) =
        (List.range 8).flatMap (fun i => leBytes 4 (leAt d (8 + 4 * i) 4)) :=
      List.flatMap_congr fun i hi => congrArg (leBytes 4) ((hkeys i hi).trans (Nat.mod_eq_of_lt (leAt_lt d _ 4)))
    rw [hwords, flatMap_leBytes_leAt d 8 8 (by omega), List.take_of_length_le (by rw [List.length_drop]; omega)]
  exact ⟨_, hexec, hkey.trans hbytes, hshown, State.only_trans (State.only_mono honly (by simp)) hprog⟩

/-! ### The obligation -/

/-- Settles O56: an operation at a time, on the state that the check of a message leaves. -/
theorem ringProtocolMessagesAreServed : Obligations.RingProtocolMessagesAreServed := by
  refine ⟨fun p s i h k hn hdom hnext hread hfew => lrpHello_opens s p hdom hnext hread hfew,
    fun p s urgent i k c hdom hnext hread hc => ?_, fun p s u h d => ?_⟩
  · obtain ⟨op, f, hexec⟩ := exec_lrpCommand s (p := p) hc
    rw [hexec, s.serve_of_refused hdom hnext hread]
  refine ⟨lrpStatus_answers, ?_, ?_, lrpFence_asks, lrpPassacq_acquires, lrpPassrel_releases, lrpStop_stops, lrpResume_resumes, ?_, ?_,
    lrpTariff_overrides, lrpMdclr_clears, lrpAovr_overrides, lrpSafereset_resets, lrpLedgerkey_programs, fun op => lrpStatus_refuses⟩
  · intro hmsg hrole h1 h16 hz hlen hjobs q hen hspace seq
    exact lrpPost_posts hmsg hrole h1 h16 hz hlen hjobs rfl hen hspace rfl
  · intro hmsg hrole hz hlen h1 hmax q w n b hok hen
    exact lrpRead_reads hmsg hrole hz hlen h1 hmax rfl rfl rfl rfl hok hen
  · intro v v2 m b
    exact lrpSnapshot_snaps
  · intro x hmsg hlen hz hbulk hid a hnew
    exact lrpBulkack_acknowledges hmsg hlen hz hbulk hid rfl hnew

end Sys2Proof.Machine
end

section
/-! PROOF. What the operations of the power sequences leave alone of spec/19: the registers of the PWR and CLK blocks. One lemma for each
operation, in the order of the model; an operation's proof cites those of the operations it uses. -/

namespace Sys2Proof.Machine

/-- The blocks PWR and CLK lie between the SYS block and this address. -/
def clkEnd : Nat := regBase + 0x30000

/-- The registers of the PWR and CLK blocks by address. -/
def State.pwrRegs (s : State) (a : Nat) : Word := if a < sysEnd ∨ clkEnd ≤ a then 0 else s.rd a

theorem State.rd_of_pwrRegs {s t : State} (h : t.pwrRegs = s.pwrRegs) {a : Nat} (ha : sysEnd ≤ a) (ha' : a < clkEnd) : t.rd a = s.rd a := by
  have hregs := congrFun h a
  have hin : ¬(a < sysEnd ∨ clkEnd ≤ a) := by omega
  rwa [State.pwrRegs, State.pwrRegs, if_neg hin, if_neg hin] at hregs

variable (s : State)

@[simp ↓] theorem State.pwrRegs_mk (timebase shadows armed latches lyctx0 lyctx1 locked d2dFails mem memsys mmu streams sto rings chn cim acq
    aos aoSilent safe ledger hosts pwr boot tap irqCimp events irqFault irqHalt irqSto resp tx free pending) :
    State.pwrRegs ⟨timebase, s.regs, shadows, armed, latches, lyctx0, lyctx1, locked, d2dFails, mem, memsys, mmu, streams, sto, rings,
      chn, cim, acq, aos, aoSilent, safe, ledger, hosts, pwr, boot, tap, irqCimp, events, irqFault, irqHalt, irqSto, resp, tx, free,
      pending⟩ = s.pwrRegs := (rfl)

@[simp ↓] theorem State.pwrRegs_ite (c : Prop) [Decidable c] (a b : State) :
    (if c then a else b).pwrRegs = if c then a.pwrRegs else b.pwrRegs := apply_ite ..

/-! ### Folds and pairs -/

@[simp] theorem pwrRegs_foldl {α : Type} (f : State → α → State) (h : ∀ t x, (f t x).pwrRegs = t.pwrRegs) (l : List α)
    (s : State) : (l.foldl f s).pwrRegs = s.pwrRegs := by
  induction l generalizing s with
  | nil => rfl
  | cons x l ih => rw [List.foldl_cons, ih, h]

theorem pwrRegs_foldl_fst {α β : Type} (f : State × β → α → State × β) (h : ∀ x y, (f x y).1.pwrRegs = x.1.pwrRegs)
    (l : List α) (x : State × β) : (l.foldl f x).1.pwrRegs = x.1.pwrRegs := by
  induction l generalizing x with
  | nil => rfl
  | cons y l ih => rw [List.foldl_cons, ih, h]

theorem pwrRegs_foldl_snd {α β : Type} (f : β × State → α → β × State) (h : ∀ x y, (f x y).2.pwrRegs = x.2.pwrRegs)
    (l : List α) (x : β × State) : (l.foldl f x).2.pwrRegs = x.2.pwrRegs := by
  induction l generalizing x with
  | nil => rfl
  | cons y l ih => rw [List.foldl_cons, ih, h]

theorem pwrRegs_of_fst {α : Type} {p : State × α} {t : State} {x : α} (h : p = (t, x)) : t.pwrRegs = p.1.pwrRegs := by
  rw [h]

theorem pwrRegs_of_snd {α : Type} {p : α × State} {x : α} {t : State} (h : p = (x, t)) : t.pwrRegs = p.2.pwrRegs := by
  rw [h]

/-! ### Writes of registers of the blocks that follow -/

theorem State.pwrRegs_wr {a : Nat} (h : clkEnd ≤ a) (v : Word) : (s.wr a v).pwrRegs = s.pwrRegs := by
  funext b
  unfold State.pwrRegs
  split
  · rfl
  · exact s.rd_wr_ne v (by omega)

@[simp ↓] theorem State.rset_pwrRegs {r : RegDesc} (h : clkEnd ≤ r.base) (v i j : Nat) : (s.rset r v i j).pwrRegs = s.pwrRegs :=
  s.pwrRegs_wr (h.trans (r.base_le_at i j)) _
@[simp ↓] theorem State.fset_pwrRegs {f : Fld} (h : clkEnd ≤ f.reg.base) (v i j : Nat) : (s.fset f v i j).pwrRegs = s.pwrRegs :=
  s.pwrRegs_wr (h.trans (f.reg.base_le_at i j)) _
@[simp ↓] theorem State.setFlag_pwrRegs {f : Fld} (h : clkEnd ≤ f.reg.base) (b : Bool) (i j : Nat) :
    (s.setFlag f b i j).pwrRegs = s.pwrRegs := s.fset_pwrRegs h _ i j
@[simp ↓] theorem State.count_pwrRegs {r : RegDesc} (h : clkEnd ≤ r.base) (n i j : Nat) : (s.count r n i j).pwrRegs = s.pwrRegs :=
  s.rset_pwrRegs h _ i j
@[simp ↓] theorem State.fcount_pwrRegs {f : Fld} (h : clkEnd ≤ f.reg.base) (n i j : Nat) : (s.fcount f n i j).pwrRegs = s.pwrRegs :=
  s.fset_pwrRegs h _ i j
@[simp ↓] theorem State.countWrap_pwrRegs {r : RegDesc} (h : clkEnd ≤ r.base) (n i j : Nat) :
    (s.countWrap r n i j).pwrRegs = s.pwrRegs := s.rset_pwrRegs h _ i j

/-! ### The operations -/

@[simp ↓] theorem State.draw_pwrRegs : s.draw.2.pwrRegs = s.pwrRegs := by simp (disch := decide) [State.draw]

@[simp ↓] theorem State.setStream_pwrRegs (n : Nat) (x : Stream) :
    (s.setStream n x).pwrRegs = s.pwrRegs := by simp (disch := decide) [State.setStream]

@[simp ↓] theorem State.violate_pwrRegs (c unit kind addr : Nat) :
    (s.violate c unit kind addr).pwrRegs = s.pwrRegs := by simp (disch := decide) [State.violate]

@[simp ↓] theorem State.send_pwrRegs (port kind : Nat) (b : List Byte) :
    (s.send port kind b).pwrRegs = s.pwrRegs := by simp (disch := decide) [State.send]

@[simp ↓] theorem State.ring_pwrRegs (b inc : Nat) : (s.ring b inc).pwrRegs = s.pwrRegs := by simp (disch := decide) [State.ring]

@[simp ↓] theorem State.evOcc_pwrRegs : s.evOcc.pwrRegs = s.pwrRegs := by simp (disch := decide) [State.evOcc]

@[simp ↓] theorem State.forward_pwrRegs (on : Bool) (b : List Byte) :
    (s.forward on b).pwrRegs = s.pwrRegs := by simp (disch := decide) [State.forward]

@[simp ↓] theorem State.cardAt_pwrRegs (c : CardArgs) (origin : Nat) :
    (s.cardAt c origin).pwrRegs = s.pwrRegs := by simp (disch := decide) [State.cardAt]

@[simp ↓] theorem State.card_pwrRegs (c : CardArgs) : (s.card c).pwrRegs = s.pwrRegs := by simp (disch := decide) [State.card]

@[simp ↓] theorem State.putMem_pwrRegs (a : Nat) (data : List Byte) (fuel : Nat) : (s.putMem a data fuel).pwrRegs = s.pwrRegs := by
  induction fuel generalizing s a data with
  | zero => simp (disch := decide) [State.putMem]
  | succ fuel ih => simp (disch := decide) [State.putMem, ih]

@[simp ↓] theorem State.store_pwrRegs (a : Nat) (data : List Byte) : (s.store a data).pwrRegs = s.pwrRegs := by
  simp (disch := decide) [State.store]

@[simp ↓] theorem State.setLines_pwrRegs (n : Nat) (l : List L1Line) :
    (s.setLines n l).pwrRegs = s.pwrRegs := by simp (disch := decide) [State.setLines]

@[simp ↓] theorem State.unlockLines_pwrRegs (n : Nat) : (s.unlockLines n).pwrRegs = s.pwrRegs := by
  simp (disch := decide) [State.unlockLines]

@[simp ↓] theorem State.zeroRange_pwrRegs (lo hi : Nat) : (s.zeroRange lo hi).pwrRegs = s.pwrRegs := by
  simp (disch := decide) [State.zeroRange]

@[simp ↓] theorem State.setRegion_pwrRegs (n : Nat) (x : Region) :
    (s.setRegion n x).pwrRegs = s.pwrRegs := by simp (disch := decide) [State.setRegion]

@[simp ↓] theorem State.retireArrivals_pwrRegs (n x0 : Nat) : (s.retireArrivals n x0).pwrRegs = s.pwrRegs := by
  induction x0 generalizing s with
  | zero => simp (disch := decide) [State.retireArrivals]
  | succ n ih =>
    unfold State.retireArrivals
    split <;> simp (disch := decide) [ih]

@[simp ↓] theorem State.finishArrival_pwrRegs (n unit tag : Nat) (abandoned : Bool) :
    (s.finishArrival n unit tag abandoned).pwrRegs = s.pwrRegs := by simp (disch := decide) [State.finishArrival]

@[simp ↓] theorem State.eccFail_pwrRegs (a c engine : Nat) : (s.eccFail a c engine).pwrRegs = s.pwrRegs := by
  simp (disch := decide) [State.eccFail]

@[simp ↓] theorem State.tagFail_pwrRegs (a c engine : Nat) : (s.tagFail a c engine).pwrRegs = s.pwrRegs := by
  simp (disch := decide) [State.tagFail]

@[simp ↓] theorem State.setTlb_pwrRegs (unit : Nat) (l : List TlbEntry) :
    (s.setTlb unit l).pwrRegs = s.pwrRegs := by simp (disch := decide) [State.setTlb]

@[simp ↓] theorem State.translate_pwrRegs (unit c vpn : Nat) : (s.translate unit c vpn).2.pwrRegs = s.pwrRegs := by
  grind [State.translate, State.setTlb_pwrRegs]

@[simp ↓] theorem State.translatePages_pwrRegs (unit c : Nat) (l : List (Nat × Acc3)) (m : PageMap) :
    (s.translatePages unit c l m).2.pwrRegs = s.pwrRegs := by
  induction l generalizing s m with
  | nil => simp (disch := decide) [State.translatePages]
  | cons x l ih => grind [State.translatePages, State.translate_pwrRegs]

@[simp ↓] theorem State.violatePages_pwrRegs (unit c : Nat) (m : PageMap) : (s.violatePages unit c m).pwrRegs = s.pwrRegs := by
  unfold State.violatePages
  refine pwrRegs_foldl _ (fun t x => ?_) _ _
  split <;> simp (disch := decide)

@[simp ↓] theorem State.syncPend_pwrRegs : s.syncPend.pwrRegs = s.pwrRegs := by simp (disch := decide) [State.syncPend]

@[simp ↓] theorem State.reportFault_pwrRegs (f : FaultInfo) : (s.reportFault f).2.pwrRegs = s.pwrRegs := by
  unfold State.reportFault
  split
  · simp (disch := decide)
  · split <;> simp (disch := decide)

@[simp ↓] theorem State.freeSusp_pwrRegs (x : Susp) : (s.freeSusp x).pwrRegs = s.pwrRegs := by
  unfold State.freeSusp
  split <;> simp (disch := decide)

@[simp ↓] theorem State.reportConsume_pwrRegs (x : Nat × Bool) (c engine : Nat) :
    (s.reportConsume x c engine).pwrRegs = s.pwrRegs := by simp (disch := decide) [State.reportConsume]

@[simp ↓] theorem State.setRingX_pwrRegs (q : Nat) (x : Ring) : (s.setRingX q x).pwrRegs = s.pwrRegs := by
  simp (disch := decide) [State.setRingX]

@[simp ↓] theorem State.putEntries_pwrRegs (q i : Nat) (l : List (List Byte)) : (s.putEntries q i l).pwrRegs = s.pwrRegs := by
  induction l generalizing s i with
  | nil => simp (disch := decide) [State.putEntries]
  | cons x l ih => simp (disch := decide) [State.putEntries, ih]

@[simp ↓] theorem State.commitRecord_pwrRegs (q : Nat) (b : List Byte) :
    (s.commitRecord q b).pwrRegs = s.pwrRegs := by simp (disch := decide) [State.commitRecord]

@[simp ↓] theorem State.tryCommit_pwrRegs (q : Nat) (b : List Byte) : (s.tryCommit q b).2.pwrRegs = s.pwrRegs := by
  unfold State.tryCommit
  split
  · simp (disch := decide)
  · split <;> simp (disch := decide)

@[simp ↓] theorem State.setTile_pwrRegs (d t : Nat) (x : Tile) : (s.setTile d t x).pwrRegs = s.pwrRegs := by
  simp (disch := decide) [State.setTile]

@[simp ↓] theorem State.setCmds_pwrRegs (d : Nat) (l : List TileCmd) :
    (s.setCmds d l).pwrRegs = s.pwrRegs := by simp (disch := decide) [State.setCmds]

@[simp ↓] theorem State.queueOwn_pwrRegs (d op t p arg : Nat) :
    (s.queueOwn d op t p arg).pwrRegs = s.pwrRegs := by simp (disch := decide) [State.queueOwn]

@[simp ↓] theorem State.addCompletion_pwrRegs (n : Nat) (p : Prog) (status reason pc : Nat) :
    (s.addCompletion n p status reason pc).pwrRegs = s.pwrRegs := by simp (disch := decide) [State.addCompletion]

@[simp ↓] theorem State.abandonArrivals_pwrRegs (unit : Nat) :
    (s.abandonArrivals unit).pwrRegs = s.pwrRegs := by
  refine pwrRegs_foldl _ (fun t x => ?_) _ _
  simp (disch := decide)

@[simp ↓] theorem State.dropStarts_pwrRegs (n c : Nat) : (s.dropStarts n c).pwrRegs = s.pwrRegs := by
  exact (pwrRegs_foldl _ (fun t q => t.addCompletion_pwrRegs n _ 2 0 0) _ _).trans (s.setStream_pwrRegs n _)

@[simp ↓] theorem State.endBroadcast_pwrRegs (n : Nat) : (s.endBroadcast n).pwrRegs = s.pwrRegs := by
  refine pwrRegs_foldl _ (fun t x => ?_) _ _
  simp (disch := decide)

@[simp ↓] theorem State.haltProg_pwrRegs (n : Nat) (p : Prog) (reason slot handle vaddr : Nat) :
    (s.haltProg n p reason slot handle vaddr).pwrRegs = s.pwrRegs := by simp (disch := decide) [State.haltProg]

@[simp ↓] theorem State.unlockProg_pwrRegs (n : Nat) (p : Prog) :
    (s.unlockProg n p).pwrRegs = s.pwrRegs := by
  unfold State.unlockProg
  split
  · rfl
  · exact pwrRegs_foldl _ (fun t k => t.unlockLines_pwrRegs k) _ _

@[simp ↓] theorem State.halt_pwrRegs (n reason slot handle vaddr : Nat) :
    (s.halt n reason slot handle vaddr).pwrRegs = s.pwrRegs := by
  unfold State.halt
  split <;> simp (disch := decide)

@[simp ↓] theorem State.fetch_pwrRegs (n c va k : Nat) : (s.fetch n c va k).2.pwrRegs = s.pwrRegs := by
  grind [State.fetch, State.translatePages_pwrRegs, State.violatePages_pwrRegs]

@[simp ↓] theorem State.haltContext_pwrRegs (n c reason : Nat) : (s.haltContext n c reason).pwrRegs = s.pwrRegs := by
  have hrun : (s.haltRunning n c reason).pwrRegs = s.pwrRegs := by
    rcases s.haltRunning_cases n c reason with ⟨p, -, -, hhalt⟩ | ⟨-, hnone⟩
    · rw [hhalt, State.halt_pwrRegs]
    · rw [hnone]
  rw [s.haltContext_eq, pwrRegs_foldl _ fun t p => t.haltProg_pwrRegs n p reason 15 0xFFFF 0, State.dropSaved, State.setStream_pwrRegs,
    pwrRegs_foldl _ fun t x => t.freeSusp_pwrRegs x, hrun]

@[simp ↓] theorem State.refuseContext_pwrRegs (n c : Nat) :
    (s.refuseContext n c).pwrRegs = s.pwrRegs := by simp (disch := decide) [State.refuseContext]

@[simp ↓] theorem State.setSto_pwrRegs (t : Storage) : (s.setSto t).pwrRegs = s.pwrRegs := by simp (disch := decide) [State.setSto]

@[simp ↓] theorem State.setBusy_pwrRegs (k : Nat) (b : Bool) : (s.setBusy k b).pwrRegs = s.pwrRegs := by
  simp (disch := decide) [State.setBusy]

@[simp ↓] theorem State.syncBank_pwrRegs (k : Nat) : (s.syncBank k).pwrRegs = s.pwrRegs := by simp (disch := decide) [State.syncBank]

@[simp ↓] theorem State.stoCard_pwrRegs (event ofs cnt : Nat) :
    (s.stoCard event ofs cnt).pwrRegs = s.pwrRegs := by simp (disch := decide) [State.stoCard]

@[simp ↓] theorem State.uncorrectable_pwrRegs (ofs r : Nat) :
    (s.uncorrectable ofs r).pwrRegs = s.pwrRegs := by simp (disch := decide) [State.uncorrectable]

@[simp ↓] theorem State.wbmDropSector_pwrRegs (n : Nat) : (s.wbmDropSector n).pwrRegs = s.pwrRegs := by
  simp (disch := decide) [State.wbmDropSector]

@[simp ↓] theorem State.stoFinish_pwrRegs (e : StoEntry) (status failofs : Nat) :
    (s.stoFinish e status failofs).pwrRegs = s.pwrRegs := by simp (disch := decide) [State.stoFinish]

@[simp ↓] theorem State.relocate_pwrRegs (n : Nat) (copy : Bool) : (s.relocate n copy).2.pwrRegs = s.pwrRegs := by
  unfold State.relocate
  dsimp only
  split
  · rfl
  · split
    · rfl
    · simp (disch := decide)

@[simp ↓] theorem State.stoFault_pwrRegs (e : StoEntry) (kind flags va : Nat) :
    (s.stoFault e kind flags va).pwrRegs = s.pwrRegs := by
  grind [State.stoFault, State.reportFault_pwrRegs, State.setSto_pwrRegs, State.setBusy_pwrRegs, State.stoFinish_pwrRegs]

@[simp ↓] theorem State.stoStep_pwrRegs (e : StoEntry) (fuel : Nat) : (s.stoStep e fuel).pwrRegs = s.pwrRegs := by
  induction fuel generalizing s e with
  | zero => rfl
  | succ fuel ih =>
    change (if e.op = 2 then _ else if e.op = 3 then _ else if e.op = 4 then _ else s).pwrRegs = _
    split
    · grind [State.translatePages_pwrRegs, State.stoFinish_pwrRegs, State.stoFault_pwrRegs, State.violatePages_pwrRegs,
        State.reportConsume_pwrRegs, State.setBusy_pwrRegs, State.setSto_pwrRegs, State.wbmDropSector_pwrRegs]
    split
    · dsimp only
      iterate 4 (split; · simp only [State.stoFinish_pwrRegs])
      split
      · split <;> next h => simp (disch := decide) [pwrRegs_of_snd h, ih]
      · simp (disch := decide)
    split
    · grind [State.relocate_pwrRegs, State.stoFinish_pwrRegs, State.uncorrectable_pwrRegs, State.setSto_pwrRegs]
    · rfl

@[simp ↓] theorem State.stoKick_pwrRegs : s.stoKick.pwrRegs = s.pwrRegs := by
  unfold State.stoKick
  refine pwrRegs_foldl _ (fun t x => ?_) _ _
  split <;> simp (disch := decide)

@[simp ↓] theorem State.wordDone_pwrRegs (k : Nat) (ok : Bool) : (s.wordDone k ok).pwrRegs = s.pwrRegs := by
  grind [State.wordDone, State.draw_pwrRegs, State.translatePages_pwrRegs, State.setSto_pwrRegs, State.setBusy_pwrRegs,
    State.syncBank_pwrRegs, State.uncorrectable_pwrRegs, State.stoFinish_pwrRegs, State.relocate_pwrRegs,
    State.stoFault_pwrRegs, State.stoStep_pwrRegs, State.stoKick_pwrRegs]

@[simp ↓] theorem State.eraseDone_pwrRegs (k : Nat) (ok : Bool) : (s.eraseDone k ok).pwrRegs = s.pwrRegs := by
  unfold State.eraseDone
  split
  · rfl
  · dsimp only
    split
    · rfl
    · split
      · simp (disch := decide)
      · split <;> next h => simp (disch := decide) [pwrRegs_of_snd h]

@[simp ↓] theorem State.deckSwitch_pwrRegs (st : Nat) : (s.deckSwitch st).pwrRegs = s.pwrRegs := by
  have harm (t : State) (v : Nat) (l : List Nat) :
      (l.foldl (fun s d => (s.setFlag F.CIMP_SWITCH_ARM false d).fset F.CIMP_SWITCH_RESULT v d) t).pwrRegs = t.pwrRegs :=
    pwrRegs_foldl _ (fun u d => by simp (disch := decide)) _ _
  unfold State.deckSwitch
  dsimp only
  split
  · rfl
  split
  · exact harm s _ _
  · refine (State.pwrRegs_mk ..).trans ?_
    refine (pwrRegs_foldl _ (fun t r => by simp (disch := decide)) _ _).trans ((pwrRegs_foldl _ (fun t d => ?_) _ _).trans (harm s _ _))
    exact pwrRegs_foldl _ (fun u x => u.setTile_pwrRegs d x _) _ _

@[simp ↓] theorem State.setAo_pwrRegs (n : Nat) (x : Ao) : (s.setAo n x).pwrRegs = s.pwrRegs := by simp (disch := decide) [State.setAo]

@[simp ↓] theorem State.aoBit_pwrRegs {f : Fld} (h : clkEnd ≤ f.reg.base) (n : Nat) (b : Bool) : (s.aoBit f n b).pwrRegs = s.pwrRegs := by
  exact s.fset_pwrRegs h _ 0 0

@[simp ↓] theorem State.outCard_pwrRegs (n event : Nat) (detail : List Byte) :
    (s.outCard n event detail).pwrRegs = s.pwrRegs := by simp (disch := decide) [State.outCard]

@[simp ↓] theorem State.aoUpdate_pwrRegs (n : Nat) : (s.aoUpdate n).pwrRegs = s.pwrRegs := by simp (disch := decide) [State.aoUpdate]

@[simp ↓] theorem State.aoUpdateAll_pwrRegs : s.aoUpdateAll.pwrRegs = s.pwrRegs := by
  exact pwrRegs_foldl _ State.aoUpdate_pwrRegs _ _

@[simp ↓] theorem State.aoApplied_pwrRegs (n old : Nat) : (s.aoApplied n old).pwrRegs = s.pwrRegs := by
  simp (disch := decide) [State.aoApplied]

@[simp ↓] theorem State.dropShadow_pwrRegs (a : Nat) : (s.dropShadow a).pwrRegs = s.pwrRegs := by simp (disch := decide) [State.dropShadow]

@[simp ↓] theorem State.setChan_pwrRegs (c : Nat) (x : Chan) : (s.setChan c x).pwrRegs = s.pwrRegs := by
  simp (disch := decide) [State.setChan]

@[simp ↓] theorem State.setAcq_pwrRegs (n : Nat) (x : AcqStream) : (s.setAcq n x).pwrRegs = s.pwrRegs := by
  simp (disch := decide) [State.setAcq]

@[simp ↓] theorem State.noteCfg_pwrRegs (g : Group) : (s.noteCfg g).pwrRegs = s.pwrRegs := by
  unfold State.noteCfg
  split
  · simp (disch := decide)
  · split <;> simp (disch := decide)

@[simp ↓] theorem State.noteCond_pwrRegs (c : Nat) : (s.noteCond c).pwrRegs = s.pwrRegs := by simp (disch := decide) [State.noteCond]

@[simp ↓] theorem State.beginSettle_pwrRegs (c : Nat) : (s.beginSettle c).pwrRegs = s.pwrRegs := by
  simp (disch := decide) [State.beginSettle]

@[simp ↓] theorem State.vchApplied_pwrRegs (n old : Nat) : (s.vchApplied n old).pwrRegs = s.pwrRegs := by
  simp (disch := decide) [State.vchApplied]

@[simp ↓] theorem State.orderReset_pwrRegs (n : Nat) : (s.orderReset n).pwrRegs = s.pwrRegs := by simp (disch := decide) [State.orderReset]

/-- The fields of a group lie in the blocks that follow. -/
theorem Group.clkEnd_le_field (g : Group) {f : Nat × Word} (hf : f ∈ g.fields) : clkEnd ≤ f.1 := by
  have hat (r : RegDesc) (i j : Nat) (hr : clkEnd ≤ r.base) : clkEnd ≤ r.at i j := hr.trans (r.base_le_at i j)
  cases g <;> simp only [Group.fields, List.mem_cons, List.mem_append, List.mem_flatMap, List.mem_map, List.not_mem_nil, or_false] at hf
  case dp =>
    rcases hf with rfl | ⟨j, -, rfl | rfl | rfl | rfl⟩ <;> exact hat _ _ _ (by decide)
  case st => rcases hf with rfl | rfl | rfl | rfl | rfl <;> exact hat _ _ _ (by decide)
  case sig => rcases hf with rfl | rfl | rfl <;> exact hat _ _ _ (by decide)
  case ao => rcases hf with rfl | rfl | rfl <;> exact hat _ _ _ (by decide)
  case qbv => rcases hf with (rfl | rfl | rfl | rfl) | ⟨j, -, rfl⟩ <;> exact hat _ _ _ (by decide)
  all_goals
    subst hf
    exact hat _ _ _ (by decide)

theorem pwrRegs_foldl_mem {α : Type} {l : List α} (f : State → α → State) (h : ∀ t, ∀ x ∈ l, (f t x).pwrRegs = t.pwrRegs) (s : State) :
    (l.foldl f s).pwrRegs = s.pwrRegs :=
  List.foldlRecOn (motive := fun u : State => u.pwrRegs = s.pwrRegs) _ _ rfl fun u hu x hx => (h u x hx).trans hu

@[simp ↓] theorem State.takeShadows_pwrRegs (g : Group) : (s.takeShadows g).pwrRegs = s.pwrRegs := by
  refine pwrRegs_foldl_mem _ (fun t f hf => ?_) s
  exact (State.dropShadow_pwrRegs _ _).trans (t.pwrRegs_wr (g.clkEnd_le_field hf) _)

theorem State.move_pwrRegs {f : Fld} (h : clkEnd ≤ f.reg.base) (up down : Bool) :
    (if up then s.fcount f else if down then s.fset f (s.fget f - 1) else s).pwrRegs = s.pwrRegs := by
  split
  · exact s.fcount_pwrRegs h _ _ _
  · split
    · exact s.fset_pwrRegs h _ _ _
    · rfl

theorem Group.clkEnd_le_flag (g : Group) : clkEnd ≤ g.flag.1.reg.base ∧ ∀ f, g.blockCount = some f → clkEnd ≤ f.reg.base := by
  cases g <;> simp only [Group.flag, Group.blockCount, Option.some.injEq, forall_eq', reduceCtorEq, false_implies, implies_true, and_true] <;>
    decide

@[simp ↓] theorem State.setDisagree_pwrRegs (g : Group) (b : Bool) : (s.setDisagree g b).pwrRegs = s.pwrRegs := by
  obtain ⟨hflag, hcount⟩ := g.clkEnd_le_flag
  have hmoved := (State.move_pwrRegs _ (f := F.BOOT_STAT_DISAGREE) (by decide) (b && !s.flag g.flag.1 g.flag.2)
    (s.flag g.flag.1 g.flag.2 && !b)).trans (s.setFlag_pwrRegs hflag b g.flag.2 0)
  unfold State.setDisagree
  dsimp only
  split
  · next f hf => exact (State.move_pwrRegs _ (hcount f hf) _ _).trans hmoved
  · exact hmoved

@[simp ↓] theorem State.applyGroup_pwrRegs (g : Group) : (s.applyGroup g).pwrRegs = s.pwrRegs := by
  unfold State.applyGroup
  split
  · split <;> simp (disch := decide)
  · simp (disch := decide)

@[simp ↓] theorem State.showArmed_pwrRegs (g : Group) : (s.showArmed g).pwrRegs = s.pwrRegs := by
  cases g <;> simp (disch := decide) [State.showArmed, Group.armedBit]

@[simp ↓] theorem State.disarm_pwrRegs (g : Group) : (s.disarm g).pwrRegs = s.pwrRegs := by simp (disch := decide) [State.disarm]

@[simp ↓] theorem State.applyArmed_pwrRegs (n : Nat) : (s.applyArmed n).pwrRegs = s.pwrRegs := by
  refine pwrRegs_foldl _ (fun t x => ?_) _ _
  simp (disch := decide)

@[simp ↓] theorem State.requestBuild_pwrRegs (n f a : Nat) :
    (s.requestBuild n f a).pwrRegs = s.pwrRegs := by simp (disch := decide) [State.requestBuild]

@[simp ↓] theorem State.onLatch_pwrRegs (n opn : Nat) (f : Latch → Latch) :
    (s.onLatch n opn f).pwrRegs = s.pwrRegs := by simp (disch := decide) [State.onLatch]

@[simp ↓] theorem State.profileFit_pwrRegs (n opn close : Nat) (xs : List Nat) :
    (s.profileFit n opn close xs).pwrRegs = s.pwrRegs := by
  unfold State.profileFit
  split
  · rfl
  split
  · rfl
  dsimp only
  split
  · simp (disch := decide)
  split
  · simp (disch := decide)
  · simp (disch := decide)

@[simp ↓] theorem State.openWindow_pwrRegs (n opn : Nat) (first config : Bool) :
    (s.openWindow n opn first config).pwrRegs = s.pwrRegs := by simp (disch := decide) [State.openWindow]

@[simp ↓] theorem State.startStream_pwrRegs (n : Nat) : (s.startStream n).pwrRegs = s.pwrRegs := by
  simp (disch := decide) [State.startStream]

@[simp ↓] theorem State.streamStops_pwrRegs (n : Nat) : (s.streamStops n).pwrRegs = s.pwrRegs := by
  simp (disch := decide) [State.streamStops]

@[simp ↓] theorem State.storeRegion_pwrRegs (cr start : Nat) (b : List Byte) :
    (s.storeRegion cr start b).pwrRegs = s.pwrRegs := by simp (disch := decide) [State.storeRegion]

@[simp ↓] theorem State.completeWindow_pwrRegs (n : Nat) : (s.completeWindow n).pwrRegs = s.pwrRegs := by
  unfold State.completeWindow
  dsimp only
  split
  · rfl
  · split
    · simp (disch := decide)
    · rfl

@[simp ↓] theorem State.completeAll_pwrRegs (n x0 : Nat) : (s.completeAll n x0).pwrRegs = s.pwrRegs := by
  induction x0 generalizing s with
  | zero => simp (disch := decide) [State.completeAll]
  | succ n ih => simp (disch := decide) [State.completeAll, ih]

@[simp ↓] theorem State.recessStream_pwrRegs (n : Nat) : (s.recessStream n).pwrRegs = s.pwrRegs := by
  unfold State.recessStream
  split
  · rfl
  · refine (State.streamStops_pwrRegs _ n).trans ((State.setAcq_pwrRegs _ n _).trans ((pwrRegs_foldl _ (fun t w => ?_) _ _).trans ?_))
    all_goals simp (disch := decide)

@[simp ↓] theorem State.wakeStreams_pwrRegs : s.wakeStreams.pwrRegs = s.pwrRegs := by
  refine pwrRegs_foldl _ (fun t x => ?_) _ _
  simp (disch := decide)

@[simp ↓] theorem State.setPort_pwrRegs (p : Nat) (x : Port) : (s.setPort p x).pwrRegs = s.pwrRegs := by
  simp (disch := decide) [State.setPort]

@[simp ↓] theorem State.enqueue_pwrRegs (p : Nat) (g : Seg) : (s.enqueue p g).pwrRegs = s.pwrRegs := by
  simp (disch := decide) [State.enqueue]

@[simp ↓] theorem State.sendSeg_pwrRegs (g : Seg) : (s.sendSeg g).2.pwrRegs = s.pwrRegs := by
  unfold State.sendSeg
  split
  · exact pwrRegs_foldl _ (fun t p => t.enqueue_pwrRegs p g) _ _
  · split <;> simp (disch := decide)

@[simp ↓] theorem State.chnCard_pwrRegs (event p lane : Nat) (detail : List Byte) :
    (s.chnCard event p lane detail).pwrRegs = s.pwrRegs := by simp (disch := decide) [State.chnCard]

@[simp ↓] theorem State.turnRoutes_pwrRegs (f : Nat → Bool) : (s.turnRoutes f).pwrRegs = s.pwrRegs := by
  refine pwrRegs_foldl _ (fun t x => ?_) _ _
  simp (disch := decide)

@[simp ↓] theorem State.wakeStandby_pwrRegs : s.wakeStandby.pwrRegs = s.pwrRegs := by
  refine pwrRegs_foldl _ (fun t x => ?_) _ _
  simp (disch := decide)

@[simp ↓] theorem State.portDown_pwrRegs (p : Nat) : (s.portDown p).pwrRegs = s.pwrRegs := by simp (disch := decide) [State.portDown]

@[simp ↓] theorem State.setLedger_pwrRegs (l : Ledger) : (s.setLedger l).pwrRegs = s.pwrRegs := by simp (disch := decide) [State.setLedger]

@[simp ↓] theorem State.ldgCard_pwrRegs (event ofs : Nat) : (s.ldgCard event ofs).pwrRegs = s.pwrRegs := by
  simp (disch := decide) [State.ldgCard]

@[simp ↓] theorem State.seekSector_pwrRegs (sec fuel : Nat) : (s.seekSector sec fuel).2.pwrRegs = s.pwrRegs := by
  induction fuel generalizing s sec with
  | zero => simp (disch := decide) [State.seekSector]
  | succ fuel ih => grind [State.seekSector, State.ldgCard_pwrRegs]

@[simp ↓] theorem State.enterSector_pwrRegs (sec : Nat) : (s.enterSector sec).pwrRegs = s.pwrRegs := by
  unfold State.enterSector
  split
  · next h => split <;> simp (disch := decide) [pwrRegs_of_snd h]
  · next h => simp (disch := decide) [pwrRegs_of_snd h]

@[simp ↓] theorem State.takeSlot_pwrRegs : s.takeSlot.2.pwrRegs = s.pwrRegs := by
  unfold State.takeSlot
  split <;> simp (disch := decide)

@[simp ↓] theorem State.ledgerWrite_pwrRegs (kind origin flags tariff cls : Nat) (body : List Byte) :
    (s.ledgerWrite kind origin flags tariff cls body).pwrRegs = s.pwrRegs := by simp (disch := decide) [State.ledgerWrite]

@[simp ↓] theorem State.setTb_pwrRegs (tb : Nat) (bound : Int) : (s.setTb tb bound).pwrRegs = s.pwrRegs := by
  simp (disch := decide) [State.setTb]

@[simp ↓] theorem State.openInterval_pwrRegs (t : Nat) (ofs : Int) (valid : Bool) (flags : Nat) :
    (s.openInterval t ofs valid flags).pwrRegs = s.pwrRegs := by simp (disch := decide) [State.openInterval]

@[simp ↓] theorem State.writeSnapshot_pwrRegs (t : Nat) : (s.writeSnapshot t).pwrRegs = s.pwrRegs := by
  refine pwrRegs_foldl _ (fun t x => ?_) _ _
  simp (disch := decide)

@[simp ↓] theorem State.ledgerEvent_pwrRegs (t kind count : Nat) :
    (s.ledgerEvent t kind count).pwrRegs = s.pwrRegs := by simp (disch := decide) [State.ledgerEvent]

@[simp ↓] theorem State.rainClose_pwrRegs (span m : FV) (x0 : Nat) : (s.rainClose span m x0).pwrRegs = s.pwrRegs := by
  induction x0 generalizing s with
  | zero => simp (disch := decide) [State.rainClose]
  | succ n ih => simp (disch := decide) [State.rainClose, ih]

@[simp ↓] theorem State.rainflow_pwrRegs (torque : FV) : (s.rainflow torque).pwrRegs = s.pwrRegs := by
  simp (disch := decide) [State.rainflow]

@[simp ↓] theorem State.accumulate_pwrRegs (t : Nat) : (s.accumulate t).pwrRegs = s.pwrRegs := by
  obtain ⟨l, cls, faulted, torque, h⟩ : ∃ l cls, ∃ faulted : Bool, ∃ torque, s.accumulate t =
      if faulted then (s.setLedger l).fset F.LDG_STAT_CLASS cls else ((s.setLedger l).fset F.LDG_STAT_CLASS cls).rainflow torque :=
    ⟨_, _, _, _, rfl⟩
  rw [h]
  split <;> simp (disch := decide)

@[simp ↓] theorem State.machineEvents_pwrRegs (t : Nat) : (s.machineEvents t).pwrRegs = s.pwrRegs := by
  simp (disch := decide) [State.machineEvents]

@[simp ↓] theorem State.heldEvents_pwrRegs (t : Nat) : (s.heldEvents t).pwrRegs = s.pwrRegs := by simp (disch := decide) [State.heldEvents]

@[simp ↓] theorem State.ledgerCut_pwrRegs (recess : Bool) (cause : Nat) :
    (s.ledgerCut recess cause).pwrRegs = s.pwrRegs := by simp (disch := decide) [State.ledgerCut]

@[simp ↓] theorem State.ledgerStart_pwrRegs (reason restore snapSeq : Nat) :
    (s.ledgerStart reason restore snapSeq).pwrRegs = s.pwrRegs := by simp (disch := decide) [State.ledgerStart]

@[simp ↓] theorem State.syncOldest_pwrRegs : s.syncOldest.pwrRegs = s.pwrRegs := by
  unfold State.syncOldest
  split <;> simp (disch := decide)

@[simp ↓] theorem State.syncWorn_pwrRegs : s.syncWorn.pwrRegs = s.pwrRegs := by simp (disch := decide) [State.syncWorn]

@[simp ↓] theorem State.portWord_pwrRegs (o : Nat) (b : List Byte) (ok : Bool) : (s.portWord o b ok).2.pwrRegs = s.pwrRegs := by
  unfold State.portWord
  dsimp only
  split
  · rfl
  split
  · simp (disch := decide)
  · split <;> next h => simp (disch := decide) [pwrRegs_of_snd h]

@[simp ↓] theorem State.replaceRecs_pwrRegs (l : List LedgerRec) : (s.replaceRecs l).pwrRegs = s.pwrRegs := by
  unfold State.replaceRecs
  refine pwrRegs_foldl _ (fun t x => ?_) _ _
  split <;> simp (disch := decide)

@[simp ↓] theorem State.portRecord_pwrRegs (ok : Bool) : (s.portRecord ok).pwrRegs = s.pwrRegs := by
  unfold State.portRecord
  split
  · simp (disch := decide)
  · split <;> simp (disch := decide)

@[simp ↓] theorem State.commitLedger_pwrRegs : s.commitLedger.pwrRegs = s.pwrRegs := by
  unfold State.commitLedger
  split
  · rfl
  split
  · rfl
  dsimp only
  split
  · split
    · split
      · next h => simp (disch := decide) [pwrRegs_of_snd h]
      · next h => simp (disch := decide) [pwrRegs_of_snd h]
    · simp (disch := decide)
  · split
    · split
      · next h => simp (disch := decide) [pwrRegs_of_snd h]
      · next h => simp (disch := decide) [pwrRegs_of_snd h]
    · simp (disch := decide)

@[simp ↓] theorem State.flushLedger_pwrRegs (x0 : Nat) : (s.flushLedger x0).pwrRegs = s.pwrRegs := by
  induction x0 generalizing s with
  | zero => simp (disch := decide) [State.flushLedger]
  | succ n ih => simp (disch := decide) [State.flushLedger, ih]

@[simp ↓] theorem State.safeCard_pwrRegs (event : Nat) (detail : List Byte) (ukind ua ub : Nat) :
    (s.safeCard event detail ukind ua ub).pwrRegs = s.pwrRegs := by simp (disch := decide) [State.safeCard]

@[simp ↓] theorem State.hostCard_pwrRegs (event : Nat) (detail : List Byte) (ukind ua : Nat) :
    (s.hostCard event detail ukind ua).pwrRegs = s.pwrRegs := by simp (disch := decide) [State.hostCard]

@[simp ↓] theorem State.setSafe_pwrRegs (x : Safe) : (s.setSafe x).pwrRegs = s.pwrRegs := by simp (disch := decide) [State.setSafe]

@[simp ↓] theorem State.setSo_pwrRegs (n : Nat) (x : So) : (s.setSo n x).pwrRegs = s.pwrRegs := by simp (disch := decide) [State.setSo]

@[simp ↓] theorem State.safeOutputs_pwrRegs : s.safeOutputs.pwrRegs = s.pwrRegs := by
  refine pwrRegs_foldl _ (fun t x => ?_) _ _
  simp (disch := decide)

@[simp ↓] theorem State.setFn_pwrRegs (f : SafeFn) : (s.setFn f).pwrRegs = s.pwrRegs := by simp (disch := decide) [State.setFn]

@[simp ↓] theorem State.fnSet_pwrRegs {r : RegDesc} (h : clkEnd ≤ r.base) (f : SafeFn) (b : Bool) :
    (s.fnSet r f b).pwrRegs = s.pwrRegs := by
  exact s.rset_pwrRegs h _ 0 0

@[simp ↓] theorem State.tripFn_pwrRegs (f : SafeFn) (value : Nat) :
    (s.tripFn f value).pwrRegs = s.pwrRegs := by simp (disch := decide) [State.tripFn]

@[simp ↓] theorem State.sensorFn_pwrRegs (f : SafeFn) (cond : Bool) (since value : Nat) :
    (s.sensorFn f cond since value).pwrRegs = s.pwrRegs := by simp (disch := decide) [State.sensorFn]

@[simp ↓] theorem State.activateFns_pwrRegs : s.activateFns.pwrRegs = s.pwrRegs := by
  unfold State.activateFns
  dsimp only
  rw [State.safeOutputs_pwrRegs]
  refine (pwrRegs_foldl _ (fun t f => ?_) _ _).trans ?_
  all_goals simp (disch := decide)

@[simp ↓] theorem State.setPwr_pwrRegs (x : Pwr) : (s.setPwr x).pwrRegs = s.pwrRegs := by simp (disch := decide) [State.setPwr]

@[simp ↓] theorem State.pwrCard_pwrRegs (event : Nat) (detail : List Byte) :
    (s.pwrCard event detail).pwrRegs = s.pwrRegs := by simp (disch := decide) [State.pwrCard]

@[simp ↓] theorem State.freshStream_pwrRegs (n : Nat) : (s.freshStream n).pwrRegs = s.pwrRegs := by
  simp (disch := decide) [State.freshStream]

@[simp ↓] theorem State.zeroL1_pwrRegs : s.zeroL1.pwrRegs = s.pwrRegs := by simp (disch := decide) [State.zeroL1]

@[simp ↓] theorem State.zeroDam_pwrRegs (d : Nat) : (s.zeroDam d).pwrRegs = s.pwrRegs := by simp (disch := decide) [State.zeroDam]

@[simp ↓] theorem State.linksDown_pwrRegs : s.linksDown.pwrRegs = s.pwrRegs := by
  refine (pwrRegs_foldl _ (fun t p => ?_) _ _).trans (pwrRegs_foldl _ (fun t p => ?_) _ _)
  all_goals simp (disch := decide)

@[simp ↓] theorem State.haltAll_pwrRegs : s.haltAll.pwrRegs = s.pwrRegs := by
  refine pwrRegs_foldl _ (fun t n => pwrRegs_foldl _ (fun u c => ?_) _ _) _ _
  simp (disch := decide)

@[simp ↓] theorem State.stoDrain_pwrRegs (bad : List (Fin 32)) : (s.stoDrain bad).pwrRegs = s.pwrRegs := by
  refine pwrRegs_foldl _ (fun t x => ?_) _ _
  simp (disch := decide)

@[simp ↓] theorem State.lastCompletions_pwrRegs : s.lastCompletions.pwrRegs = s.pwrRegs := by
  refine pwrRegs_foldl _ (fun t n => ?_) _ _
  refine (State.setStream_pwrRegs _ _ _).trans (pwrRegs_foldl _ (fun u c => ?_) _ _)
  simp (disch := decide)

@[simp ↓] theorem State.portsRecess_pwrRegs : s.portsRecess.pwrRegs = s.pwrRegs := by
  refine (pwrRegs_foldl _ (fun t p => ?_) _ _).trans ?_
  all_goals simp (disch := decide)

@[simp ↓] theorem State.emptyLost_pwrRegs : s.emptyLost.pwrRegs = s.pwrRegs := by
  refine (pwrRegs_foldl _ (fun t n => ?_) _ _).trans (pwrRegs_foldl _ (fun t q => ?_) _ _)
  all_goals simp (disch := decide)

@[simp ↓] theorem State.reapplyPlacements_pwrRegs : s.reapplyPlacements.pwrRegs = s.pwrRegs := by
  refine pwrRegs_foldl _ (fun t x => ?_) _ _
  simp (disch := decide)
end Sys2Proof.Machine
end

section
/-! PROOF. Recess, wake and domain switches (spec/19, R535, R540 to R543). -/

namespace Sys2Proof.Machine

variable {s : State}

/-! ### Recess (R540, R541) -/

/-- The steps of Table 19-4 before the domains go off. -/
def State.recessPrep (s : State) (bad : List (Fin 32)) : State :=
  let s := s.fset F.PWR_STAT_STATE 1
  let s := s.haltAll
  let s := (List.range 16).foldl (fun s n => s.recessStream n) s
  let s := (s.ledgerCut true 0)
  let s := s.flushLedger (16 * s.ledger.recs.length + 16)
  let s := s.stoDrain bad
  let s := s.lastCompletions.portsRecess
  let s := s.pwrCard 2 [BitVec.ofNat 8 (s.fget F.PWR_WAKEEN_EN)]
  s.setPwr { s.pwr with wdUsed := s.pwr.wdUsed + (s.now - s.pwr.kickTb) }

/-- The core domains and the PLL go off. -/
def State.recessed (s : State) : State :=
  (((s.fset F.PWR_STAT_DOMON 3).fset F.PWR_STAT_CIMON 0).fset F.PWR_STAT_STATE 2).setFlag F.CLK_STAT_LOCK false

theorem State.enterRecess_eq (s : State) (bad : List (Fin 32)) : s.enterRecess bad = (s.recessPrep bad).recessed.aoUpdateAll.safeOutputs := rfl

theorem State.pwrRegs_recessPrep (s : State) (bad : List (Fin 32)) : (s.recessPrep bad).pwrRegs = (s.fset F.PWR_STAT_STATE 1).pwrRegs := by
  have hstreams (t : State) : ((List.range 16).foldl (fun s n => s.recessStream n) t).pwrRegs = t.pwrRegs :=
    pwrRegs_foldl _ (fun t n => t.recessStream_pwrRegs n) _ _
  unfold State.recessPrep State.pwrCard
  simp only [State.setPwr_pwrRegs, State.card_pwrRegs, State.portsRecess_pwrRegs, State.lastCompletions_pwrRegs, State.stoDrain_pwrRegs,
    State.flushLedger_pwrRegs, State.ledgerCut_pwrRegs, hstreams, State.haltAll_pwrRegs]

theorem recess_ne_pwrStat : R.PWR_RECESS.at ≠ R.PWR_STAT.at := by decide

theorem pwrStat_ne_clkStat : R.PWR_STAT.at ≠ R.CLK_STAT.at := by decide

theorem recess_ne_clkStat : R.PWR_RECESS.at ≠ R.CLK_STAT.at := by decide

theorem wakecause_ne_pwrStat : R.PWR_WAKECAUSE.at ≠ R.PWR_STAT.at := by decide

theorem clkStat_ne_pwrStat : R.CLK_STAT.at ≠ R.PWR_STAT.at := by decide

theorem wakecause_ne_clkStat : R.PWR_WAKECAUSE.at ≠ R.CLK_STAT.at := by decide

theorem domctl_ne_pwrStat : R.PWR_DOMCTL.at ≠ R.PWR_STAT.at := by decide

theorem State.recessed_shows (s : State) : s.recessed.fget F.PWR_STAT_STATE = 2 ∧ s.recessed.fget F.PWR_STAT_DOMON = 3 ∧
    s.recessed.fget F.PWR_STAT_CIMON = 0 ∧ s.recessed.flag F.CLK_STAT_LOCK = false ∧
    s.recessed.fget F.PWR_RECESS_RESULT = s.fget F.PWR_RECESS_RESULT := by
  let a := s.fset F.PWR_STAT_DOMON 3
  let b := a.fset F.PWR_STAT_CIMON 0
  let c := b.fset F.PWR_STAT_STATE 2
  have hstat (f : Fld) (hf : f.reg = R.PWR_STAT) : (c.setFlag F.CLK_STAT_LOCK false).fget f = c.fget f :=
    State.fget_of_rd (State.rd_setFlag_ne c F.CLK_STAT_LOCK false 0 0 _ (by rw [hf]; exact pwrStat_ne_clkStat))
  have hstate : c.fget F.PWR_STAT_STATE = 2 := State.fget_fset_self b F.PWR_STAT_STATE 2 0 0 (by decide) (by decide)
  have hdom : c.fget F.PWR_STAT_DOMON = 3 := by
    rw [State.fget_fset_other b F.PWR_STAT_STATE _ _ _ _ (by rfl) (by decide) (by decide) (by decide),
      State.fget_fset_other a F.PWR_STAT_CIMON _ _ _ _ (by rfl) (by decide) (by decide) (by decide)]
    exact State.fget_fset_self s F.PWR_STAT_DOMON 3 0 0 (by decide) (by decide)
  have hdies : c.fget F.PWR_STAT_CIMON = 0 := by
    rw [State.fget_fset_other b F.PWR_STAT_STATE _ _ _ _ (by rfl) (by decide) (by decide) (by decide)]
    exact State.fget_fset_self a F.PWR_STAT_CIMON 0 0 0 (by decide) (by decide)
  refine ⟨(hstat _ rfl).trans hstate, (hstat _ rfl).trans hdom, (hstat _ rfl).trans hdies,
    State.flag_setFlag_self c F.CLK_STAT_LOCK false 0 0 (by decide) (by decide), State.fget_of_rd ?_⟩
  exact (State.rd_setFlag_ne c F.CLK_STAT_LOCK _ _ _ _ recess_ne_clkStat).trans ((State.rd_fset_ne b F.PWR_STAT_STATE _ _ _ _ recess_ne_pwrStat).trans
    ((State.rd_fset_ne a F.PWR_STAT_CIMON _ _ _ _ recess_ne_pwrStat).trans (State.rd_fset_ne s F.PWR_STAT_DOMON _ _ _ _ recess_ne_pwrStat)))

theorem State.enterRecess_shows (s : State) (bad : List (Fin 32)) : (s.enterRecess bad).fget F.PWR_STAT_STATE = 2 ∧
    (s.enterRecess bad).fget F.PWR_STAT_DOMON = 3 ∧ (s.enterRecess bad).fget F.PWR_STAT_CIMON = 0 ∧
    (s.enterRecess bad).flag F.CLK_STAT_LOCK = false ∧ (s.enterRecess bad).fget F.PWR_RECESS_RESULT = s.fget F.PWR_RECESS_RESULT := by
  have hend : (s.enterRecess bad).pwrRegs = (s.recessPrep bad).recessed.pwrRegs := by
    rw [s.enterRecess_eq, State.safeOutputs_pwrRegs, State.aoUpdateAll_pwrRegs]
  have hin : (sysEnd ≤ R.PWR_STAT.at ∧ R.PWR_STAT.at < clkEnd) ∧ (sysEnd ≤ R.CLK_STAT.at ∧ R.CLK_STAT.at < clkEnd) ∧
      sysEnd ≤ R.PWR_RECESS.at ∧ R.PWR_RECESS.at < clkEnd := by decide
  obtain ⟨⟨hstatLo, hstatHi⟩, ⟨hclkLo, hclkHi⟩, hresLo, hresHi⟩ := hin
  have hstat := State.rd_of_pwrRegs hend hstatLo hstatHi
  have hresult : (s.recessPrep bad).fget F.PWR_RECESS_RESULT = s.fget F.PWR_RECESS_RESULT :=
    State.fget_of_rd ((State.rd_of_pwrRegs (s.pwrRegs_recessPrep bad) hresLo hresHi).trans
      (State.rd_fset_ne s F.PWR_STAT_STATE _ _ _ _ recess_ne_pwrStat))
  obtain ⟨hstate, hdom, hdies, hlock, hres⟩ := (s.recessPrep bad).recessed_shows
  exact ⟨(State.fget_of_rd (f := F.PWR_STAT_STATE) hstat).trans hstate, (State.fget_of_rd (f := F.PWR_STAT_DOMON) hstat).trans hdom,
    (State.fget_of_rd (f := F.PWR_STAT_CIMON) hstat).trans hdies,
    (State.flag_of_rd (f := F.CLK_STAT_LOCK) (State.rd_of_pwrRegs hend hclkLo hclkHi)).trans hlock,
    (State.fget_of_rd (f := F.PWR_RECESS_RESULT) (State.rd_of_pwrRegs hend hresLo hresHi)).trans (hres.trans hresult)⟩

theorem State.recessRefusal_lt (s : State) : s.recessRefusal < 2 ^ 4 := by
  unfold State.recessRefusal
  split
  · decide
  split
  · decide
  split
  · decide
  split
  · decide
  split <;> decide

/-- A request is refused, or Recess is entered, with PWR_RECESS.RESULT as it says. -/
theorem execRecessRequest_of_go {r : Req} {v : Word} (hr : s.homeReq r) (hgo : bit v.toNat 31 = true) (bad : List (Fin 32)) :
    exec (.recessRequest r v bad) s = .next (if s.recessRefusal = 0 then (s.fset F.PWR_RECESS_RESULT s.recessRefusal).enterRecess bad
      else s.fset F.PWR_RECESS_RESULT s.recessRefusal) := by
  have hshown : (s.fset F.PWR_RECESS_RESULT s.recessRefusal).fget F.PWR_RECESS_RESULT = s.recessRefusal :=
    (s.fget_fset_self F.PWR_RECESS_RESULT _ 0 0 (by decide) (by decide)).trans (Nat.mod_eq_of_lt s.recessRefusal_lt)
  change execRecessRequest r v bad s = _
  unfold execRecessRequest
  rw [State.asHome_of_homeReq hr]
  dsimp only
  rw [hgo, if_neg (by decide), hshown]

theorem execRecessRequest_enters {r : Req} {v : Word} (hr : s.homeReq r) (hgo : bit v.toNat 31 = true) (hok : s.recessRefusal = 0)
    (bad : List (Fin 32)) : ∃ t, exec (.recessRequest r v bad) s = .next t ∧ t.fget F.PWR_STAT_STATE = 2 ∧
      t.fget F.PWR_RECESS_RESULT = 0 ∧ t.fget F.PWR_STAT_DOMON = 3 ∧ t.fget F.PWR_STAT_CIMON = 0 ∧ t.flag F.CLK_STAT_LOCK = false := by
  obtain ⟨hstate, hdom, hdies, hlock, hres⟩ := (s.fset F.PWR_RECESS_RESULT s.recessRefusal).enterRecess_shows bad
  have hzero : (s.fset F.PWR_RECESS_RESULT s.recessRefusal).fget F.PWR_RECESS_RESULT = 0 := by
    rw [hok]
    exact s.fget_fset_self F.PWR_RECESS_RESULT 0 0 0 (by decide) (by decide)
  exact ⟨_, (execRecessRequest_of_go hr hgo bad).trans (congrArg Host.Outcome.next (if_pos hok)), hstate, hres.trans hzero, hdom, hdies, hlock⟩

/-! ### Registers of PWR and CLK other than PWR_STAT -/

/-- What a wake finds of the core domains: streams and memories fresh, translations and interrupts gone. -/
def State.coldDomains (s : State) : State :=
  let s := (List.range 22).foldl (fun s n => s.freshStream n) s
  let s := { s with mem := s.mem.zero (fun a => (0x0100000000 ≤ a && a < 0x0102000000) || (0x0140000000 ≤ a && a < 0x0140800000)) }.zeroL1
  { s with mmu := { s.mmu with tlbs := [] }, lyctx0 := 0x10, lyctx1 := 0x10, irqFault := 0, irqHalt := 0, irqSto := false, irqCimp := 0 }

theorem State.pwrRegs_coldDomains (s : State) : s.coldDomains.pwrRegs = s.pwrRegs :=
  (State.pwrRegs_mk ..).trans ((State.zeroL1_pwrRegs _).trans ((State.pwrRegs_mk ..).trans
    (pwrRegs_foldl _ (fun t n => t.freshStream_pwrRegs n) _ s)))

/-- The dies load, and PWR_STAT and DME_CTL show the domains on. -/
def State.warmDomains (s : State) (off : Nat) : State :=
  let s := s.wakeDies
  let s := (s.setDies (0xF - bits off 4 4)).fset F.PWR_STAT_DOMON
    (0x0F + 16 * b2n (!bit off 0) + 32 * b2n (!bit off 1) + 64 * b2n (!bit off 2) + 128 * b2n (bits off 4 4 != 15))
  (List.range 8).foldl (fun s k => s.fset F.DME_CTL_VSTEP 0 k) s

theorem State.wakeDomains_eq (s : State) : s.wakeDomains = s.coldDomains.warmDomains (s.rget R.PWR_DOMCTL) := rfl

section
variable {a : Nat} (hlo : sysEnd ≤ a) (hhi : a < clkEnd) (hne : a ≠ R.PWR_STAT.at)

section
include hne

theorem State.rd_setDies (s : State) (m : Nat) : (s.setDies m).rd a = s.rd a :=
  (State.rd_fset_ne _ F.PWR_STAT_DOMON _ _ _ _ hne).trans (State.rd_fset_ne s F.PWR_STAT_CIMON _ _ _ _ hne)

theorem State.rd_setDom (s : State) (k : Nat) (on : Bool) : (s.setDom k on).rd a = s.rd a := State.rd_fset_ne s F.PWR_STAT_DOMON _ _ _ _ hne

end

include hlo hhi hne

theorem State.rd_switchDie (s : State) (d : Nat) (on : Bool) : (s.switchDie d on).rd a = s.rd a := by
  have hof {t u : State} (h : u.pwrRegs = t.pwrRegs) : u.rd a = t.rd a := State.rd_of_pwrRegs h hlo hhi
  cases on
  · exact (State.rd_setDies hne _ _).trans (hof (s.zeroDam_pwrRegs d))
  · unfold State.switchDie
    rw [if_pos rfl]
    dsimp only
    refine (hof (State.stoKick_pwrRegs _)).trans ((hof (pwrRegs_foldl _ (fun t x => t.queueOwn_pwrRegs d 4 _ _ _) _ _)).trans ?_)
    refine (State.rd_setDies hne _ _).trans (hof ((State.pwrRegs_mk ..).trans ?_))
    exact (State.freshStream_pwrRegs _ d).trans (s.zeroDam_pwrRegs d)

theorem State.rd_wakeDies (s : State) : s.wakeDies.rd a = s.rd a :=
  List.foldlRecOn (motive := fun u : State => u.rd a = s.rd a) _ _ rfl fun u hu d _ => (State.rd_switchDie hlo hhi hne u d true).trans hu

theorem State.rd_wakeDomains (s : State) : s.wakeDomains.rd a = s.rd a := by
  have hof {t u : State} (h : u.pwrRegs = t.pwrRegs) : u.rd a = t.rd a := State.rd_of_pwrRegs h hlo hhi
  refine (hof (pwrRegs_foldl _ (fun t k => t.fset_pwrRegs (f := F.DME_CTL_VSTEP) (by decide) 0 k 0) _ _)).trans ?_
  refine (State.rd_fset_ne _ F.PWR_STAT_DOMON _ _ _ _ hne).trans ((State.rd_setDies hne _ _).trans ?_)
  refine (State.rd_wakeDies hlo hhi hne _).trans (hof s.pwrRegs_coldDomains)

end

/-! ### Wake (R542, R543) -/

/-- A wake has begun: its cause noted, the PLL locked. -/
def State.wakeBegun (s : State) (cause : Nat) : State :=
  ((s.fset F.PWR_WAKECAUSE_CAUSE cause).fset F.PWR_STAT_STATE 3).setFlag F.CLK_STAT_LOCK true

theorem State.wakeBegun_shows (s : State) {cause : Nat} (hcause : cause < 2 ^ 5) :
    (s.wakeBegun cause).fget F.PWR_WAKECAUSE_CAUSE = cause ∧ (s.wakeBegun cause).flag F.CLK_STAT_LOCK = true := by
  let u := (s.fset F.PWR_WAKECAUSE_CAUSE cause).fset F.PWR_STAT_STATE 3
  have hrd : (s.wakeBegun cause).rd R.PWR_WAKECAUSE.at = (s.fset F.PWR_WAKECAUSE_CAUSE cause).rd R.PWR_WAKECAUSE.at :=
    (State.rd_setFlag_ne u F.CLK_STAT_LOCK _ _ _ _ wakecause_ne_clkStat).trans (State.rd_fset_ne _ F.PWR_STAT_STATE _ _ _ _ wakecause_ne_pwrStat)
  have hshown := s.fget_fset_self F.PWR_WAKECAUSE_CAUSE cause 0 0 (by decide) (by decide)
  exact ⟨(State.fget_of_rd (f := F.PWR_WAKECAUSE_CAUSE) hrd).trans (hshown.trans (Nat.mod_eq_of_lt hcause)),
    u.flag_setFlag_self F.CLK_STAT_LOCK true 0 0 (by decide) (by decide)⟩

/-- What the other steps of Table 19-5 leave: STATE 0 once they are done, and the registers beside PWR_STAT as the wake began. -/
theorem State.wake_leaves {cause : Nat} (hstate : s.pwrState = 2) (hhot : s.pwr.hot = false) :
    ∃ d : State, (s.wake cause).pwrRegs = (d.fset F.PWR_STAT_STATE 0).pwrRegs ∧
      ∀ a, sysEnd ≤ a → a < clkEnd → a ≠ R.PWR_STAT.at → d.rd a = (s.wakeBegun cause).rd a := by
  have hgo : ¬(s.pwrState ≠ 2 ∨ s.pwr.hot = true) := by simp [hstate, hhot]
  generalize ht : s.wake cause = t
  rw [State.wake, if_neg hgo] at ht
  extract_lets begun domains ports placed pwr ready streams ledger fns at ht
  have hports : ports.pwrRegs = domains.pwrRegs := pwrRegs_foldl _ (fun t p => by simp (disch := decide)) _ _
  have hplaced : placed.pwrRegs = domains.pwrRegs := ports.reapplyPlacements_pwrRegs.trans hports
  have hready : ready.pwrRegs = (placed.fset F.PWR_STAT_STATE 0).pwrRegs := State.setPwr_pwrRegs _ _
  have hstreams : streams.pwrRegs = ready.pwrRegs := (State.wakeStreams_pwrRegs _).trans (ready.card_pwrRegs _)
  have hledger : ledger.pwrRegs = streams.pwrRegs := by
    unfold ledger
    split
    · exact streams.ledgerStart_pwrRegs _ _ _
    · rfl
  have hfns : fns.pwrRegs = ledger.pwrRegs := by
    unfold fns
    split
    · rfl
    · exact ledger.activateFns_pwrRegs
  have hend : t.pwrRegs = fns.pwrRegs := by
    rw [← ht]
    exact (State.aoUpdateAll_pwrRegs _).trans fns.stoKick_pwrRegs
  refine ⟨placed, hend.trans (hfns.trans (hledger.trans (hstreams.trans hready))), fun a hlo hhi hne => ?_⟩
  refine (State.rd_of_pwrRegs (hplaced.trans (State.emptyLost_pwrRegs _)) hlo hhi).trans ?_
  exact State.rd_wakeDomains hlo hhi hne _

theorem execWakeRequest_wakes (k : Fin 8) (v : Word) {src : Fin 5} (hsrc : src.val < 2) (hen : bit (s.fget F.PWR_WAKEEN_EN) src.val = true)
    (hstate : s.pwrState = 2) (hhot : s.pwr.hot = false) : ∃ t, exec (.wakeRequest src k v) s = .next t ∧ t.fget F.PWR_STAT_STATE = 0 ∧
      t.fget F.PWR_WAKECAUSE_CAUSE = 2 ^ src.val ∧ t.flag F.CLK_STAT_LOCK = true := by
  have hexec : exec (.wakeRequest src k v) s = .next (s.wake (2 ^ src.val)) := by
    change execWakeRequest src k v s = _
    unfold execWakeRequest
    dsimp only
    rw [hen, Bool.true_and]
    obtain rfl | rfl : src = 0 ∨ src = 1 := by omega
    · rfl
    · rfl
  obtain ⟨d, hend, hkept⟩ := State.wake_leaves (cause := 2 ^ src.val) hstate hhot
  obtain ⟨hcause, hlock⟩ := s.wakeBegun_shows (cause := 2 ^ src.val) (Nat.pow_lt_pow_right (by decide) (by omega))
  have hrest {a : Nat} (hlo : sysEnd ≤ a) (hhi : a < clkEnd) (hne : a ≠ R.PWR_STAT.at) :
      (s.wake (2 ^ src.val)).rd a = (s.wakeBegun (2 ^ src.val)).rd a :=
    (State.rd_of_pwrRegs hend hlo hhi).trans ((State.rd_fset_ne d F.PWR_STAT_STATE _ _ _ _ hne).trans (hkept a hlo hhi hne))
  refine ⟨_, hexec, ?_, ?_, ?_⟩
  · exact (State.fget_of_rd (f := F.PWR_STAT_STATE) (State.rd_of_pwrRegs hend (by decide) (by decide))).trans
      (d.fget_fset_self F.PWR_STAT_STATE 0 0 0 (by decide) (by decide))
  · exact (State.fget_of_rd (f := F.PWR_WAKECAUSE_CAUSE) (hrest (by decide) (by decide) wakecause_ne_pwrStat)).trans hcause
  · exact (State.flag_of_rd (f := F.CLK_STAT_LOCK) (hrest (by decide) (by decide) clkStat_ne_pwrStat)).trans hlock

/-! ### Domain switches (R535) -/

/-- The DME domain off, or on again with its streams fresh. -/
def State.turnDmes (s : State) (turned off : Bool) : State :=
  if turned then
    let s := s.zeroL1.setDom 4 (!off)
    if off then s else (List.range 8).foldl (fun s k => s.freshStream (4 + k)) s
  else s

/-- The SIG domain off, or on again with its streams fresh. -/
def State.turnSig (s : State) (turned off : Bool) : State :=
  if turned then
    let s := s.setDom 5 (!off)
    if off then s else (List.range 2).foldl (fun s k => s.freshStream (12 + k)) s
  else s

/-- The LINK domain off, its ports and MACs down, or on again. -/
def State.turnLink (s : State) (turned off : Bool) : State :=
  if turned then (if off then s.linksDown else s).setDom 6 (!off) else s

/-- The weight dies that `turned` names off or on. -/
def State.turnDies (s : State) (turned off : Nat → Bool) : State :=
  (List.range 4).foldl (fun s d => if turned (4 + d) then s.switchDie d (!off (4 + d)) else s) s

theorem State.writeDomctl_of_ok {v : Word} (hok : s.domRefusal v = 0) : s.writeDomctl v =
    ((((s.rset R.PWR_DOMCTL (v.toNat &&& 0xF7)).turnDmes (bit (s.rget R.PWR_DOMCTL) 0 != bit v.toNat 0) (bit v.toNat 0)).turnSig
      (bit (s.rget R.PWR_DOMCTL) 1 != bit v.toNat 1) (bit v.toNat 1)).turnLink
      (bit (s.rget R.PWR_DOMCTL) 2 != bit v.toNat 2) (bit v.toNat 2)).turnDies
      (fun k => bit (s.rget R.PWR_DOMCTL) k != bit v.toNat k) (fun k => bit v.toNat k) :=
  if_neg (not_not.mpr hok)

section
variable {a : Nat} (hlo : sysEnd ≤ a) (hhi : a < clkEnd) (hne : a ≠ R.PWR_STAT.at)
include hlo hhi hne

theorem State.rd_turnDmes (s : State) (turned off : Bool) : (s.turnDmes turned off).rd a = s.rd a := by
  have hoff : (s.zeroL1.setDom 4 (!off)).rd a = s.rd a :=
    (State.rd_setDom hne _ _ _).trans (State.rd_of_pwrRegs s.zeroL1_pwrRegs hlo hhi)
  unfold State.turnDmes
  split
  · dsimp only
    split
    · exact hoff
    · exact (State.rd_of_pwrRegs (pwrRegs_foldl _ (fun t k => t.freshStream_pwrRegs (4 + k)) _ _) hlo hhi).trans hoff
  · rfl

theorem State.rd_turnSig (s : State) (turned off : Bool) : (s.turnSig turned off).rd a = s.rd a := by
  have hoff : (s.setDom 5 (!off)).rd a = s.rd a := State.rd_setDom hne _ _ _
  unfold State.turnSig
  split
  · dsimp only
    split
    · exact hoff
    · exact (State.rd_of_pwrRegs (pwrRegs_foldl _ (fun t k => t.freshStream_pwrRegs (12 + k)) _ _) hlo hhi).trans hoff
  · rfl

theorem State.rd_turnLink (s : State) (turned off : Bool) : (s.turnLink turned off).rd a = s.rd a := by
  unfold State.turnLink
  split
  · rw [State.rd_setDom hne]
    split
    · exact State.rd_of_pwrRegs s.linksDown_pwrRegs hlo hhi
    · rfl
  · rfl

theorem State.rd_turnDies (s : State) (turned off : Nat → Bool) : (s.turnDies turned off).rd a = s.rd a := by
  refine List.foldlRecOn (motive := fun u : State => u.rd a = s.rd a) _ _ rfl fun u hu d _ => ?_
  split
  · exact (State.rd_switchDie hlo hhi hne u d _).trans hu
  · exact hu

end

/-- A switch that nothing stands against is shown in PWR_DOMCTL. -/
theorem State.domctl_writeDomctl {v : Word} (hok : s.domRefusal v = 0) : (s.writeDomctl v).rget R.PWR_DOMCTL = v.toNat &&& 0xF7 := by
  have hlo : sysEnd ≤ R.PWR_DOMCTL.at := by decide
  have hhi : R.PWR_DOMCTL.at < clkEnd := by decide
  have hne : R.PWR_DOMCTL.at ≠ R.PWR_STAT.at := domctl_ne_pwrStat
  have hlt : v.toNat &&& 0xF7 < 2 ^ 32 := Nat.lt_of_le_of_lt Nat.and_le_left v.isLt
  rw [State.writeDomctl_of_ok hok, State.rget, State.rd_turnDies hlo hhi hne, State.rd_turnLink hlo hhi hne, State.rd_turnSig hlo hhi hne,
    State.rd_turnDmes hlo hhi hne]
  exact (s.rget_rset_self R.PWR_DOMCTL _ 0 0).trans (Nat.mod_eq_of_lt hlt)

/-- Settles O14: what each sequence writes last in the PWR and CLK blocks, which the other operations leave. -/
theorem recessWakeAndDomains : Obligations.RecessWakeAndDomains := by
  refine ⟨fun r v bad s hr hgo hok => execRecessRequest_enters hr hgo hok bad, fun r v bad s hr hgo hno => ?_,
    fun k v src s hsrc hen hstate hhot => execWakeRequest_wakes k v hsrc hen hstate hhot, fun r v s hr hok => ?_, fun r v s hr hno => ?_,
    fun r v s hr hok => ?_⟩
  · exact ⟨_, (execRecessRequest_of_go hr hgo bad).trans (congrArg Host.Outcome.next (if_neg hno)), rfl⟩
  · exact ⟨_, congrArg Host.Outcome.next (State.asHome_of_homeReq hr _ _), State.domctl_writeDomctl hok⟩
  · exact ⟨_, congrArg Host.Outcome.next ((State.asHome_of_homeReq hr _ _).trans (if_pos hno)), rfl⟩
  · have hlt : s.rget R.PWR_DOMCTL < 2 ^ 32 := (s.rd R.PWR_DOMCTL.at).isLt
    refine ⟨_, congrArg Host.Outcome.next (State.asHome_of_homeReq hr _ _), ?_⟩
    rw [State.domctl_writeDomctl hok, BitVec.toNat_and, BitVec.toNat_ofNat, Nat.mod_eq_of_lt hlt]

end Sys2Proof.Machine
end

section
/-! PROOF. What the statement of O12 overlooks: it quantifies over ledger jobs that name no sector of the device (spec/13, spec/19, R544). -/

namespace Sys2Proof.Machine

/-- A bank the device does not have, and its first sector. -/
def strayBank : Nat := 49152

def straySector : Nat := 32768 * strayBank

theorem bankOf_straySector : bankOfSector straySector = strayBank := by decide

/-- STO_BANK of that bank's number lies where CHN_P_STAT of port 0 does. -/
theorem strayBank_at : R.STO_BANK.at strayBank = R.CHN_P_STAT.at 0 := rfl

/-- A running device with a card half written to the event log, whose next job erases that sector: the sector is at its wear limit, and an
erase of it is pending. -/
def wornState : State :=
  { State.reset with
    sto := { Storage.fresh with pendErase := [straySector], sectors := [(straySector, ⟨0, 100000, none⟩)] },
    ledger := { Ledger.fresh with jobs := [(0, 4096 * straySector, 0)] },
    events := { EventRing.fresh with draining := some ⟨false, 0xFF, []⟩ } }

theorem wornState_runs : wornState.pwr.hot = false ∧ wornState.pwrState = 0 := by decide +kernel

/-- Thermal shutdown writes the event log once the ports are down: the erase relocates the sector, and the bank's row, shown with the
pending erase in bit 31, falls on the port's state. -/
theorem wornState_shuts : ∃ t, exec (.thermalShutdown [] 0 0) wornState = .next t ∧ t.fget F.CHN_P_STAT_STATE 0 = 4 :=
  ⟨_, rfl, by decide +kernel⟩

/-- Refutes O12: thermal shutdown is to end with every Shunto port down in every state, but where a job of the event log erases a sector of
bank 49152, a number the device does not have, the row of that bank is written over CHN_P0_STAT after the ports went down. -/
theorem not_powerSequencesEndWithCoreDomainsOff : ¬ Obligations.PowerSequencesEndWithCoreDomainsOff := by
  unfold Obligations.PowerSequencesEndWithCoreDomainsOff
  rintro ⟨-, hthermal⟩
  obtain ⟨t, hexec, hstate⟩ := wornState_shuts
  obtain ⟨t', hexec', -, -, -, -, -, -, -, -, -, hports, -⟩ := hthermal [] 0 0 wornState wornState_runs.1 wornState_runs.2
  cases hexec.symm.trans hexec'
  exact absurd (hstate.symm.trans (hports 0 (by decide))) (by decide)

end Sys2Proof.Machine
end

section
/-! PROOF. The watchdog, the losses of the clock and the die readings (spec/19, R529, R531, R539, R549, R550). -/

namespace Sys2Proof.Machine

variable {s t u : State}

/-! ### The watchdog (R539) -/

/-- The watchdog counts from the current cycle. -/
def State.kicked (s : State) : State := s.setPwr { s.pwr with kickTb := s.now, wdUsed := 0 }

theorem State.kicked_kicked (s : State) : s.kicked.kicked = s.kicked := rfl

/-- The timeout taken while the watchdog is off, and its count begun with EN. -/
def State.wdogSet (s : State) (v : Word) : State :=
  let t := if s.flag F.PWR_WDOG_EN then s else s.fset F.PWR_WDOG_MS (getField v 0 16)
  if bit v.toNat 31 ∧ s.flag F.PWR_WDOG_EN = false then (t.setFlag F.PWR_WDOG_EN true).kicked else t

theorem State.writeWdog_eq (s : State) (v : Word) : s.writeWdog v = if bit v.toNat 30 then (s.wdogSet v).kicked else s.wdogSet v := rfl

theorem State.writeWdog_of_off {v : Word} (hoff : s.flag F.PWR_WDOG_EN = false) (hen : bit v.toNat 31 = true) :
    s.writeWdog v = ((s.fset F.PWR_WDOG_MS (getField v 0 16)).setFlag F.PWR_WDOG_EN true).kicked := by
  have hset : s.wdogSet v = ((s.fset F.PWR_WDOG_MS (getField v 0 16)).setFlag F.PWR_WDOG_EN true).kicked := by
    rw [State.wdogSet, hoff, if_neg Bool.false_ne_true, if_pos ⟨hen, rfl⟩]
  rw [s.writeWdog_eq, hset, State.kicked_kicked, ite_self]

theorem State.writeWdog_of_on {v : Word} (hon : s.flag F.PWR_WDOG_EN = true) (hkick : bit v.toNat 30 = true) : s.writeWdog v = s.kicked := by
  have hset : s.wdogSet v = s := by
    rw [State.wdogSet, hon, if_pos rfl]
    exact if_neg (by simp)
  rw [s.writeWdog_eq, if_pos hkick, hset]

theorem execWatchdogEnable_enables {r : Req} (v : Word) (hr : s.homeReq r) (hoff : s.flag F.PWR_WDOG_EN = false) :
    ∃ t, exec (.watchdogEnable r v) s = .next t ∧ t.flag F.PWR_WDOG_EN = true ∧ t.fget F.PWR_WDOG_MS = getField v 0 16 ∧
      t.pwr = { s.pwr with kickTb := s.now, wdUsed := 0 } ∧ s.only t [.regs, .pwr] ∧ s.regsOnly t [R.PWR_WDOG.at] := by
  let u := s.fset F.PWR_WDOG_MS (getField v 0 16)
  have hspan : getField (setField v 31 1 1) 0 16 = getField v 0 16 := getField_setField_disjoint v 31 1 1 0 16 (by decide) (by decide) (by decide)
  have hwritten : s.writeWdog (setField v 31 1 1) = (u.setFlag F.PWR_WDOG_EN true).kicked := by
    rw [State.writeWdog_of_off hoff (bit_setField_one v (by decide)), hspan]
  have hexec : exec (.watchdogEnable r v) s = .next (u.setFlag F.PWR_WDOG_EN true).kicked :=
    congrArg Host.Outcome.next ((State.asHome_of_homeReq hr _ _).trans hwritten)
  refine ⟨_, hexec, u.flag_setFlag_self F.PWR_WDOG_EN true 0 0 (by decide) (by decide), ?_, rfl, by simp [State.kicked, u], fun a ha => ?_⟩
  · refine (u.fget_setFlag_other F.PWR_WDOG_EN F.PWR_WDOG_MS true 0 0 (by rfl) (by decide) (by decide) (by decide)).trans ?_
    exact (s.fget_fset_self F.PWR_WDOG_MS _ 0 0 (by decide) (by decide)).trans (Nat.mod_eq_of_lt (getField_lt v 0 16))
  · have hne := List.ne_of_not_mem_cons ha
    exact (u.rd_setFlag_ne F.PWR_WDOG_EN _ _ _ a hne).trans (s.rd_fset_ne F.PWR_WDOG_MS _ _ _ a hne)

/-! ### The clock (R529, R531) -/

theorem clkStat_unshown : Unshown R.CLK_STAT.at ∧ R.CLK_STAT.at ∉ commandRegs := by
  unfold Unshown
  decide

/-- A failed diagnostic leaves CLK_STAT and the supplies. -/
theorem State.diagnose_keepsClock (s : State) (bad : Bool) {cause : Nat} (hcause : cause < 256) :
    (s.diagnose bad cause).rd R.CLK_STAT.at = s.rd R.CLK_STAT.at ∧ (s.diagnose bad cause).pwr = s.pwr := by
  unfold State.diagnose
  split
  · exact ⟨s.rd_enterSafe clkStat_unshown.1 clkStat_unshown.2 cause false, (s.entered_enterSafe hcause false).only .pwr (by simp)⟩
  · exact ⟨rfl, rfl⟩

theorem execRefclkLoss_holds (href : s.pwr.refOk = true) (hlock : s.flag F.CLK_STAT_LOCK = true) : ∃ t, exec .refclkLoss s = .next t ∧
    t.pwr = { s.pwr with refOk := false } ∧ t.flag F.CLK_STAT_REFOK = false ∧ t.flag F.CLK_STAT_HOLDOVER = true := by
  let u := (s.setPwr { s.pwr with refOk := false }).setFlag F.CLK_STAT_REFOK false
  let v := u.setFlag F.CLK_STAT_HOLDOVER true
  have hlocked : u.flag F.CLK_STAT_LOCK = true :=
    (State.flag_fset_other _ F.CLK_STAT_REFOK F.CLK_STAT_LOCK _ 0 0 (by rfl) (by decide) (by decide) (by decide)).trans hlock
  have hexec : exec .refclkLoss s = .next ((v.clkCard 1 []).diagnose true 4) := by
    change execRefclkLoss s = _
    unfold execRefclkLoss
    rw [href, if_neg (by decide)]
    exact congrArg Host.Outcome.next (if_pos hlocked)
  obtain ⟨hclk, hpwr⟩ := (v.clkCard 1 []).diagnose_keepsClock true (cause := 4) (by decide)
  have hkept : ((v.clkCard 1 []).diagnose true 4).rd R.CLK_STAT.at = v.rd R.CLK_STAT.at := hclk.trans (State.rd_card _ (by decide) _)
  have hpwrCard : (v.clkCard 1 []).pwr = v.pwr := (v.card_only _) .pwr (by simp)
  refine ⟨_, hexec, hpwr.trans hpwrCard, ?_, ?_⟩
  · refine (State.flag_of_rd (f := F.CLK_STAT_REFOK) hkept).trans ?_
    refine (State.flag_fset_other u F.CLK_STAT_HOLDOVER F.CLK_STAT_REFOK _ 0 0 (by rfl) (by decide) (by decide) (by decide)).trans ?_
    exact State.flag_setFlag_self _ F.CLK_STAT_REFOK false 0 0 (by decide) (by decide)
  · exact (State.flag_of_rd (f := F.CLK_STAT_HOLDOVER) hkept).trans (u.flag_setFlag_self F.CLK_STAT_HOLDOVER true 0 0 (by decide) (by decide))

/-! ### The die readings (R549, R550) -/

theorem temp_ne_temp {k j : Nat} (h : j ≠ k) : R.THM_TEMP.at k ≠ R.THM_TEMP.at j := by
  simp only [RegDesc.at, R.THM_TEMP]
  omega

section
variable {k : Nat} (hk : k < 6)
include hk

theorem temp_ne_supply : R.THM_TEMP.at k ≠ R.ACQ_SUPPLY.at := by
  simp only [RegDesc.at, R.THM_TEMP, R.ACQ_SUPPLY]
  omega

theorem temp_ne_throtms : R.THM_TEMP.at k ≠ R.THM_THROTMS.at := by
  simp only [RegDesc.at, R.THM_TEMP, R.THM_THROTMS]
  omega

theorem temp_not_mem_cardRegs : R.THM_TEMP.at k ∉ cardRegs := by
  refine not_mem_cardRegs_of_lt ?_
  simp only [RegDesc.at, R.THM_TEMP, R.LDG_CARDNO]
  omega

end

theorem temp_ne_thmStat (k : Nat) : R.THM_TEMP.at k ≠ R.THM_STAT.at := by
  simp only [RegDesc.at, R.THM_TEMP, R.THM_STAT]
  omega

theorem temp_ne_clkStat (k : Nat) : R.THM_TEMP.at k ≠ R.CLK_STAT.at := by
  simp only [RegDesc.at, R.THM_TEMP, R.CLK_STAT]
  omega

theorem thmStat_ne_supply : R.THM_STAT.at ≠ R.ACQ_SUPPLY.at := by decide

theorem thmStat_ne_throtms : R.THM_STAT.at ≠ R.THM_THROTMS.at := by decide

theorem thmStat_ne_clkStat : R.THM_STAT.at ≠ R.CLK_STAT.at := by decide

theorem thmStat_not_mem_cardRegs : R.THM_STAT.at ∉ cardRegs := by decide

theorem clkStat_not_mem_cardRegs : R.CLK_STAT.at ∉ cardRegs := by decide

/-- Sensor `k` reads `v`. -/
def State.readDie (s : State) (v : Half) (k : Nat) : State :=
  let peak := toSigned 16 (s.fget F.THM_TEMP_PEAK k)
  let s := s.fset F.THM_TEMP_NOW v.toNat k
  let s := s.fset F.THM_TEMP_PEAK (ofSigned 16 (max peak (toSigned 16 v.toNat))) k
  if k = 5 then s.fset F.ACQ_SUPPLY_TEMP v.toNat else s

theorem State.readDie_shows (s : State) (v : Half) {k : Nat} (hk : k < 6) : (s.readDie v k).fget F.THM_TEMP_NOW k = v.toNat ∧
    s.only (s.readDie v k) [.regs] ∧ ∀ a, a ≠ R.THM_TEMP.at k → a ≠ R.ACQ_SUPPLY.at → (s.readDie v k).rd a = s.rd a := by
  let w := (s.fset F.THM_TEMP_NOW v.toNat k).fset F.THM_TEMP_PEAK
    (ofSigned 16 (max (toSigned 16 (s.fget F.THM_TEMP_PEAK k)) (toSigned 16 v.toNat))) k
  have hnow : w.fget F.THM_TEMP_NOW k = v.toNat := by
    refine (State.fget_fset_other _ F.THM_TEMP_PEAK F.THM_TEMP_NOW _ k 0 (by rfl) (by decide) (by decide) (by decide)).trans ?_
    exact (s.fget_fset_self F.THM_TEMP_NOW _ k 0 (by decide) (by decide)).trans (Nat.mod_eq_of_lt v.isLt)
  have honly : s.only w [.regs] := by simp [w]
  have hrest (a : Nat) (ha : a ≠ R.THM_TEMP.at k) : w.rd a = s.rd a :=
    (State.rd_fset_ne _ F.THM_TEMP_PEAK _ _ _ a ha).trans (s.rd_fset_ne F.THM_TEMP_NOW _ _ _ a ha)
  have hread : s.readDie v k = if k = 5 then w.fset F.ACQ_SUPPLY_TEMP v.toNat else w := rfl
  rw [hread]
  split
  · refine ⟨?_, State.only_trans honly (by simp), fun a ha hsup => (w.rd_fset_ne F.ACQ_SUPPLY_TEMP _ _ _ a hsup).trans (hrest a ha)⟩
    exact (w.fget_fset_ne F.ACQ_SUPPLY_TEMP F.THM_TEMP_NOW _ 0 0 k 0 (temp_ne_supply hk)).trans hnow
  · exact ⟨hnow, honly, fun a ha _ => hrest a ha⟩

/-- The sensors from `m` on read. -/
def State.readDies (s : State) (l : List Half) (m : Nat) : State := (l.zipIdx m).foldl (fun s x => s.readDie x.1 x.2) s

theorem State.readDies_show (l : List Half) {m : Nat} (hm : m + l.length ≤ 6) (s : State) :
    (∀ k, k < 6 → (s.readDies l m).fget F.THM_TEMP_NOW k =
      if m ≤ k ∧ k < m + l.length then (l.getD (k - m) 0).toNat else s.fget F.THM_TEMP_NOW k) ∧
    s.only (s.readDies l m) [.regs] ∧ ∀ a, (∀ k, a ≠ R.THM_TEMP.at k) → a ≠ R.ACQ_SUPPLY.at → (s.readDies l m).rd a = s.rd a := by
  induction l generalizing m s with
  | nil =>
    refine ⟨fun k _ => ?_, s.only_refl _, fun _ _ _ => rfl⟩
    rw [if_neg (by simp), State.readDies]
    rfl
  | cons v l ih =>
    have hlen : m + 1 + l.length ≤ 6 := by
      rw [List.length_cons] at hm
      omega
    obtain ⟨hnow, honly, hrest⟩ := s.readDie_shows v (k := m) (by omega)
    obtain ⟨hall, hallOnly, hallRest⟩ := ih hlen (s.readDie v m)
    have hstep : s.readDies (v :: l) m = (s.readDie v m).readDies l (m + 1) := rfl
    rw [hstep]
    refine ⟨fun k hk => (hall k hk).trans ?_, State.only_trans honly hallOnly,
      fun a ha hsup => (hallRest a ha hsup).trans (hrest a (ha m) hsup)⟩
    rw [List.length_cons]
    by_cases hkm : k = m
    · subst hkm
      rw [if_neg (by omega), if_pos (by omega), hnow, Nat.sub_self, List.getD_cons_zero]
    · have hkept : (s.readDie v m).fget F.THM_TEMP_NOW k = s.fget F.THM_TEMP_NOW k :=
        State.fget_of_rd (hrest _ (temp_ne_temp (Ne.symm hkm)) (temp_ne_supply hk))
      by_cases hin : m + 1 ≤ k ∧ k < m + 1 + l.length
      · rw [if_pos hin, if_pos (by omega), show k - m = k - (m + 1) + 1 by omega, List.getD_cons_succ]
      · rw [if_neg hin, if_neg (by omega), hkept]

theorem hottest_fst_lt {l : List Half} (hl : l ≠ []) (k : Nat) : (hottest k l).1 < k + l.length := by
  induction l generalizing k with
  | nil => exact absurd rfl hl
  | cons v l ih =>
    rw [hottest, List.length_cons]
    split
    · omega
    · next hcold =>
      cases l with
      | nil =>
        have hv : -(2 ^ 15 : Int) ≤ toSigned 16 v.toNat := by
          have := v.isLt
          unfold toSigned
          split <;> omega
        exact absurd hv hcold
      | cons w l =>
        have := ih (by simp) (k + 1)
        omega

/-- What a later step of the reading leaves of THM_TEMP, of the hottest die and of the hottest reading. -/
structure State.KeepsReading (s t : State) : Prop where
  temps : ∀ k, k < 6 → t.fget F.THM_TEMP_NOW k = s.fget F.THM_TEMP_NOW k
  tj : t.fget F.THM_STAT_TJ = s.fget F.THM_STAT_TJ
  die : t.fget F.THM_STAT_HOTDIE = s.fget F.THM_STAT_HOTDIE
  only : s.only t [.regs, .chn, .events]

theorem State.KeepsReading.refl (s : State) : s.KeepsReading s := ⟨fun _ _ => rfl, rfl, rfl, s.only_refl _⟩

theorem State.KeepsReading.trans (h : s.KeepsReading t) (h' : t.KeepsReading u) : s.KeepsReading u :=
  ⟨fun k hk => (h'.temps k hk).trans (h.temps k hk), h'.tj.trans h.tj, h'.die.trans h.die, State.only_trans h.only h'.only⟩

theorem State.keepsReading_of_rd (honly : s.only t [.regs, .chn, .events]) (hstat : t.rd R.THM_STAT.at = s.rd R.THM_STAT.at)
    (htemps : ∀ k, k < 6 → t.rd (R.THM_TEMP.at k) = s.rd (R.THM_TEMP.at k)) : s.KeepsReading t :=
  ⟨fun k hk => State.fget_of_rd (f := F.THM_TEMP_NOW) (htemps k hk), State.fget_of_rd (f := F.THM_STAT_TJ) hstat,
    State.fget_of_rd (f := F.THM_STAT_HOTDIE) hstat, honly⟩

theorem State.keepsReading_thmCard (s : State) (event die reading : Nat) : s.KeepsReading (s.thmCard event die reading) :=
  State.keepsReading_of_rd (State.only_mono (s.card_only _) (by simp)) (State.rd_card _ thmStat_not_mem_cardRegs _)
    fun _ hk => State.rd_card _ (temp_not_mem_cardRegs hk) _

/-- A flag of THM_STAT above the die and the reading. -/
theorem State.keepsReading_setFlag (s : State) {f : Fld} (hreg : f.reg = R.THM_STAT) (hlo : 19 ≤ f.lo) (hhi : f.lo + f.width ≤ 32)
    (hw : 0 < f.width) (b : Bool) : s.KeepsReading (s.setFlag f b) := by
  have hne {k : Nat} (hk : k < 6) : R.THM_TEMP.at k ≠ f.reg.at := hreg ▸ (temp_ne_thmStat k)
  refine ⟨fun k hk => s.fget_fset_ne f F.THM_TEMP_NOW _ 0 0 k 0 (hne hk), ?_, ?_, by simp⟩
  · exact s.fget_setFlag_other f F.THM_STAT_TJ b 0 0 hreg.symm hhi hw (.inl (Nat.le_trans (by decide) hlo))
  · exact s.fget_setFlag_other f F.THM_STAT_HOTDIE b 0 0 hreg.symm hhi hw (.inl (Nat.le_trans (by decide) hlo))

/-- The warning of Table 19-13 for the hottest die `h`. -/
def State.warnDie (s : State) (h : Nat × Int) : State :=
  let warn := s.flag F.THM_STAT_WARN
  if !warn && decide (s.warnTh ≤ h.2) then (s.setFlag F.THM_STAT_WARN true).thmCard 1 h.1 (ofSigned 16 h.2)
  else if warn && decide (h.2 < s.warnTh - 12) then (s.setFlag F.THM_STAT_WARN false).thmCard 2 h.1 (ofSigned 16 h.2) else s

/-- The throttle for the hottest die `h`. -/
def State.throttleDie (s : State) (h : Nat × Int) : State :=
  let thr := s.flag F.THM_STAT_THROT
  let s := if thr then s.count R.THM_THROTMS else s
  if !thr && decide (480 ≤ h.2) then ((s.setFlag F.THM_STAT_THROT true).fset F.CLK_STAT_THROT 6).thmCard 3 h.1 (ofSigned 16 h.2)
  else if thr && decide (h.2 < 468) then ((s.setFlag F.THM_STAT_THROT false).fset F.CLK_STAT_THROT 8).thmCard 4 h.1 (ofSigned 16 h.2)
  else s

theorem State.warnDie_keeps (s : State) (h : Nat × Int) : s.KeepsReading (s.warnDie h) ∧
    (s.warnDie h).flag F.THM_STAT_THROT = s.flag F.THM_STAT_THROT := by
  have hset (b : Bool) (e : Nat) : s.KeepsReading ((s.setFlag F.THM_STAT_WARN b).thmCard e h.1 (ofSigned 16 h.2)) ∧
      ((s.setFlag F.THM_STAT_WARN b).thmCard e h.1 (ofSigned 16 h.2)).flag F.THM_STAT_THROT = s.flag F.THM_STAT_THROT := by
    refine ⟨(s.keepsReading_setFlag (f := F.THM_STAT_WARN) rfl (by decide) (by decide) (by decide) b).trans (State.keepsReading_thmCard _ _ _ _), ?_⟩
    refine (State.flag_of_rd (f := F.THM_STAT_THROT) (State.rd_card _ thmStat_not_mem_cardRegs _)).trans ?_
    exact State.flag_fset_other s F.THM_STAT_WARN F.THM_STAT_THROT _ 0 0 (by rfl) (by decide) (by decide) (by decide)
  unfold State.warnDie
  dsimp only
  split
  · exact hset true 1
  · split
    · exact hset false 2
    · exact ⟨.refl s, rfl⟩

theorem State.keepsReading_throttle (s : State) (b : Bool) (v e : Nat) (h : Nat × Int) :
    s.KeepsReading (((s.setFlag F.THM_STAT_THROT b).fset F.CLK_STAT_THROT v).thmCard e h.1 (ofSigned 16 h.2)) := by
  refine (s.keepsReading_setFlag (f := F.THM_STAT_THROT) rfl (by decide) (by decide) (by decide) b).trans
    (State.KeepsReading.trans ?_ (State.keepsReading_thmCard _ _ _ _))
  exact State.keepsReading_of_rd (by simp) (State.rd_fset_ne _ F.CLK_STAT_THROT _ _ _ _ thmStat_ne_clkStat)
    fun k _ => State.rd_fset_ne _ F.CLK_STAT_THROT _ _ _ _ (temp_ne_clkStat k)

theorem State.throttleDie_keeps (s : State) (h : Nat × Int) : s.KeepsReading (s.throttleDie h) := by
  have hcount : s.KeepsReading (if s.flag F.THM_STAT_THROT then s.count R.THM_THROTMS else s) := by
    split
    · exact State.keepsReading_of_rd (by simp) (s.rd_count_ne R.THM_THROTMS _ _ _ _ thmStat_ne_throtms)
        fun k hk => s.rd_count_ne R.THM_THROTMS _ _ _ _ (temp_ne_throtms hk)
    · exact .refl s
  unfold State.throttleDie
  dsimp only
  split
  · exact hcount.trans (State.keepsReading_throttle _ true 6 3 h)
  · split
    · exact hcount.trans (State.keepsReading_throttle _ false 8 4 h)
    · exact hcount

theorem State.throttleDie_begins (hoff : s.flag F.THM_STAT_THROT = false) {h : Nat × Int} (hhot : 480 ≤ h.2) :
    (s.throttleDie h).flag F.THM_STAT_THROT = true ∧ (s.throttleDie h).fget F.CLK_STAT_THROT = 6 := by
  let v := (s.setFlag F.THM_STAT_THROT true).fset F.CLK_STAT_THROT 6
  have hbegun : s.throttleDie h = v.thmCard 3 h.1 (ofSigned 16 h.2) := by
    unfold State.throttleDie
    dsimp only
    rw [hoff, if_neg Bool.false_ne_true, if_pos (by simpa using hhot)]
  rw [hbegun]
  constructor
  · refine (State.flag_of_rd (f := F.THM_STAT_THROT) (State.rd_card v thmStat_not_mem_cardRegs _)).trans ?_
    refine (State.flag_of_rd (f := F.THM_STAT_THROT) (State.rd_fset_ne _ F.CLK_STAT_THROT _ _ _ _ thmStat_ne_clkStat)).trans ?_
    exact s.flag_setFlag_self F.THM_STAT_THROT true 0 0 (by decide) (by decide)
  · refine (State.fget_of_rd (f := F.CLK_STAT_THROT) (State.rd_card v clkStat_not_mem_cardRegs _)).trans ?_
    exact State.fget_fset_self _ F.CLK_STAT_THROT 6 0 0 (by decide) (by decide)

/-- The hottest die and its reading in THM_STAT. -/
def State.showHottest (s : State) (h : Nat × Int) : State := (s.fset F.THM_STAT_HOTDIE h.1).fset F.THM_STAT_TJ (ofSigned 16 h.2)

theorem State.showHottest_shows (s : State) {h : Nat × Int} (hdie : h.1 < 2 ^ 3) : (s.showHottest h).fget F.THM_STAT_HOTDIE = h.1 ∧
    (s.showHottest h).fget F.THM_STAT_TJ = ofSigned 16 h.2 ∧ (s.showHottest h).flag F.THM_STAT_THROT = s.flag F.THM_STAT_THROT ∧
    s.only (s.showHottest h) [.regs] ∧ ∀ k, k < 6 → (s.showHottest h).fget F.THM_TEMP_NOW k = s.fget F.THM_TEMP_NOW k := by
  let v := s.fset F.THM_STAT_HOTDIE h.1
  have htj : ofSigned 16 h.2 < 2 ^ 16 := by
    unfold ofSigned
    omega
  refine ⟨?_, (v.fget_fset_self F.THM_STAT_TJ _ 0 0 (by decide) (by decide)).trans (Nat.mod_eq_of_lt htj), ?_, by simp [State.showHottest],
    fun k hk => ?_⟩
  · refine (v.fget_fset_other F.THM_STAT_TJ F.THM_STAT_HOTDIE _ 0 0 (by rfl) (by decide) (by decide) (by decide)).trans ?_
    exact (s.fget_fset_self F.THM_STAT_HOTDIE _ 0 0 (by decide) (by decide)).trans (Nat.mod_eq_of_lt hdie)
  · exact (v.flag_fset_other F.THM_STAT_TJ F.THM_STAT_THROT _ 0 0 (by rfl) (by decide) (by decide) (by decide)).trans
      (s.flag_fset_other F.THM_STAT_HOTDIE F.THM_STAT_THROT _ 0 0 (by rfl) (by decide) (by decide) (by decide))
  · exact (v.fget_fset_ne F.THM_STAT_TJ F.THM_TEMP_NOW _ 0 0 k 0 (temp_ne_thmStat k)).trans
      (s.fget_fset_ne F.THM_STAT_HOTDIE F.THM_TEMP_NOW _ 0 0 k 0 (temp_ne_thmStat k))

theorem execThermalReading_eq (l : List Half) (s : State) : exec (.thermalReading l) s = .next
    ((((s.readDies (l.take 6) 0).showHottest (hottest 0 (l.take 6))).warnDie (hottest 0 (l.take 6))).throttleDie (hottest 0 (l.take 6))) := rfl

theorem execThermalReading_shows {l : List Half} (hl : l.length = 6) (s : State) : ∃ t, exec (.thermalReading l) s = .next t ∧
    (∀ k, k < 6 → t.fget F.THM_TEMP_NOW k = (l.getD k 0).toNat) ∧ t.fget F.THM_STAT_TJ = ofSigned 16 (hottest 0 l).2 ∧
    t.fget F.THM_STAT_HOTDIE = (hottest 0 l).1 ∧
    (s.flag F.THM_STAT_THROT = false → 480 ≤ (hottest 0 l).2 → t.flag F.THM_STAT_THROT = true ∧ t.fget F.CLK_STAT_THROT = 6) ∧
    s.only t [.regs, .chn, .events] := by
  have hexec := execThermalReading_eq l s
  rw [List.take_of_length_le (Nat.le_of_eq hl)] at hexec
  have hdie : (hottest 0 l).1 < 2 ^ 3 := by
    have := hottest_fst_lt (List.ne_nil_of_length_pos (by omega : 0 < l.length)) 0
    omega
  obtain ⟨hnow, hreadOnly, hreadRest⟩ := State.readDies_show l (m := 0) (by omega) s
  obtain ⟨hhot, htj, hthrot, hshowOnly, hshowTemps⟩ := (s.readDies l 0).showHottest_shows hdie
  obtain ⟨hwarn, hwarnThrot⟩ := ((s.readDies l 0).showHottest (hottest 0 l)).warnDie_keeps (hottest 0 l)
  have hkept := hwarn.trans (State.throttleDie_keeps _ (hottest 0 l))
  have hread : (s.readDies l 0).flag F.THM_STAT_THROT = s.flag F.THM_STAT_THROT :=
    State.flag_of_rd (hreadRest _ (fun k => (temp_ne_thmStat k).symm) thmStat_ne_supply)
  refine ⟨_, hexec, fun k hk => ?_, hkept.tj.trans htj, hkept.die.trans hhot, fun hoff h480 => ?_, ?_⟩
  · rw [hkept.temps k hk, hshowTemps k hk, hnow k hk, if_pos (by omega), Nat.sub_zero]
  · exact State.throttleDie_begins (hwarnThrot.trans (hthrot.trans (hread.trans hoff))) h480
  · exact State.only_trans (State.only_mono hreadOnly (by simp)) (State.only_trans (State.only_mono hshowOnly (by simp)) hkept.only)

/-- Settles O15, command by command. -/
theorem watchdogClockAndTemperature : Obligations.WatchdogClockAndTemperature := by
  refine ⟨fun r v s hr hoff => execWatchdogEnable_enables v hr hoff, fun r v s hr hon => ?_, fun s href hlock => execRefclkLoss_holds href hlock,
    fun us s hlock => ⟨_, congrArg Host.Outcome.next (if_pos hlock), rfl⟩, fun l s hl => execThermalReading_shows hl s⟩
  exact ⟨_, congrArg Host.Outcome.next ((State.asHome_of_homeReq hr _ _).trans
    (State.writeWdog_of_on hon (bit_setField_one v (by decide)))), rfl⟩

end Sys2Proof.Machine
end
